-- ==== Sys2Proof/Word.lean ====
section
/-! DEFINITION. The plainest types of the model: register words, octets and cycle numbers. -/

namespace Sys2Proof

/-- A 32-bit register word (R15). -/
abbrev Word := BitVec 32

/-- One octet of a message, record or image (R13). -/
abbrev Byte := BitVec 8

/-- A cycle number (R9). It is 40 bits wide and does not wrap in service (R10), so it is a natural
number here; where a register or record shows it, its 40 bits are taken (log 3). -/
abbrev Cn := Nat

end Sys2Proof
end

