-- ==== Sys2Proof/Machine/Types/Base.lean ====
section
/-! DEFINITION. Vocabulary every block shares: builds, stands, roles, reason codes, writers. -/

namespace Sys2Proof.Machine

/-- The two builds (R5, R6, Table 0.1). -/
inductive Build where
  | t
  | s
  deriving DecidableEq, Repr

/-- The two controller halves (R20, Table 0.8). -/
inductive Stand where
  | a
  | b
  deriving DecidableEq, Repr

/-- The roles of R487; `nobody` is a session or monitor that holds none. -/
inductive Role where
  | nobody
  | operator
  | installer
  | maker
  deriving DecidableEq, Repr

/-- The reason codes of Table 0.4 (R14). -/
inductive Reason where
  | ok
  | malformed
  | unsupported
  | notAuthorised
  | replay
  | busy
  | noCapacity
  | tooLate
  | targetStray
  | targetAbsent
  | keyWithered
  | digestMismatch
  | tampered
  | storageFault
  | promiseBroken
  | safeHold
  | dutyBudget
  | sealClosed
  deriving DecidableEq, Repr

/-- Where a register write or a command comes from: the module itself (an engine or a preset), an
FSP session, or the service monitor on J7. -/
inductive Via where
  | module
  | session (i : Fin 4)
  | monitor
  deriving DecidableEq, Repr

/-- Who writes: the role held, the path, and the stand whose register the write names (R15, R17). -/
structure Writer where
  role : Role
  via : Via
  stand : Stand := .a
  deriving DecidableEq, Repr

/-- City time (R11, R42): seconds, nanoseconds and the sub-nanosecond fraction in 2^-32 ns. -/
structure CityTime where
  sec : Nat := 0
  ns : Nat := 0
  frac : Nat := 0
  deriving DecidableEq, Repr

end Sys2Proof.Machine
end

