-- ==== Sys2Proof/Machine/Types/Map.lean ====
section
/-! DEFINITION. Sparse data keyed by numbers: lists of pairs whose keys rise strictly. -/

namespace Sys2Proof.Machine

/-- A sparse table: at most one value a key, keys strictly rising. -/
abbrev Table (α : Type) := List (Nat × α)

end Sys2Proof.Machine
end

