-- ==== Sys2Proof/Machine/Types/Adm.lean ====
section
/-! DEFINITION. State of admission and promises (05). -/

namespace Sys2Proof.Machine

/-- Transaction classes (Table 5.1). -/
inductive TxClass where
  | syncLevel
  | prompt
  | safety
  | bulk
  | activate
  deriving DecidableEq, Repr

/-- An ADMIT that awaits its decision (R189), and the session its answer goes to while that is open. -/
structure Admit where
  session : Option (Fin 4)
  tx : Nat
  deadline : Cn
  body : List Byte
  deriving DecidableEq, Repr

/-- A target of a promise (R192, R210, R211). -/
structure Target where
  short : Nat
  result : Option Reason := none
  /-- Cause of Table 5.10, and the PREEMPTED flag. -/
  cause : Nat := 0
  preempted : Bool := false
  /-- Its grove was stopped, or it stopped answering, before it had a result (Table 5.10). -/
  radioLoss : Bool := false
  silent : Bool := false
  /-- An item of the promise has reached it, or its flood's last pass has gone out. -/
  served : Bool := false
  /-- QUERYs sent (R210), and the CN of the last one. -/
  queries : Nat := 0
  queryCn : Cn := 0
  deriving DecidableEq, Repr

/-- A booking of the reservation ledger (R193, R194, R196): a cell of a grove with the promise it
serves, and its airtime in microseconds. -/
structure Booking where
  grove : Nat
  asn : Nat
  /-- A bulk cell of the link towards a node rather than a residue-0 cell: the node's short address. -/
  link : Option Nat := none
  promise : Nat
  /-- In thirds of a microsecond; 0 once the frame has been sent (R196). -/
  airtime : Nat
  deriving DecidableEq, Repr

/-- An outstanding promise (R210 to R214). -/
structure Promise where
  /-- Transaction id the module gives on the air. -/
  id : Nat
  tx : Nat
  cls : TxClass
  accepted : Cn
  promised : Cn
  /-- Cycles the count has moved since its PROMISE (R68, R200). -/
  ofs : Int := 0
  targets : List Target
  /-- Its payload is a LEVEL, and the level it sets. -/
  isLevel : Bool := false
  level : Nat := 0
  release : Bool := false
  margin : Nat := 0
  /-- Cycles spent in FREE_RUN up to the promised CN; FREE_RUN at the promised CN (R214). -/
  freeRun : Nat := 0
  freeAtEnd : Bool := false
  /-- SAFE HOLD, or a reset of both stands, between acceptance and the promised CN (R212). -/
  safeHold : Bool := false
  /-- A reset met it: no frame of it goes out again, and after it the OUTCOME is due at `recoverBy` (R597). -/
  reset : Bool := false
  recoverBy : Option Cn := none
  /-- Times its cells were taken by SF-Safety (R209). -/
  taken : Nat := 0
  /-- A rejoin released its bookings (R217). -/
  released : Bool := false
  /-- Octets booked in the push log for its OUTCOME (R235). -/
  room : Nat := 0
  /-- Payload kind and payload, for QUERY and for carrying it again (R217). -/
  kind : Nat := 0
  payload : List Byte := []
  /-- Selector of a LEVEL: mode, selector word. -/
  mode : Nat := 0
  selector : Nat := 0
  /-- Caravan of an ACTIVATE (R524). -/
  caravan : Option Nat := none
  /-- Its ACTIVATE covers every node of the model (R524). -/
  whole : Bool := false
  deriving DecidableEq, Repr

/-- A rejoin that runs (R215): the EUI-64s of its set, its latest start and that start's cause. -/
structure Rejoin where
  set : List Nat
  start : Cn
  cause : Nat
  deriving DecidableEq, Repr

structure AdmSt where
  queue : List Admit := []
  promises : List Promise := []
  bookings : List Booking := []
  nextId : Nat := 1
  rejoin : Option Rejoin := none
  /-- Latest CN a HOLD item has named (R175, R216). -/
  holdCn : Cn := 0
  /-- CN at which FREE_RUN began, and the nodes SCHEDULED then (R215). -/
  freeRunSince : Option Cn := none
  freeRunSet : List Nat := []
  /-- Nodes SCHEDULED when a tamper qualified (R215). -/
  tamperSet : List Nat := []
  deriving DecidableEq, Repr

end Sys2Proof.Machine
end

