-- ==== Sys2Proof/Machine/Types/Dim.lean ====
section
/-! DEFINITION. State of dimming (07): day anchors, contactors, routes and what they learn; and a received WAVE. -/

namespace Sys2Proof.Machine

/-- A day record (R265, R267, R273). -/
structure Day where
  start : Cn := 0
  dawn : Cn := 0
  dusk : Cn := 0
  type : Nat := 0
  deriving DecidableEq, Repr

/-- Contactor states (Table 7.7), in the order of Table 16.4. -/
inductive KcState where
  | opened
  | closing
  | retryClose
  | closed
  | opening
  | retryOpen
  | fault
  | uncommanded
  deriving DecidableEq, Repr

/-- One contactor (R278 to R281). -/
structure KcSt where
  state : KcState := .opened
  /-- KCk is driven. -/
  drive : Bool := false
  /-- The drive the plan asks for; during a retry pulse the drive is its reverse. -/
  plan : Bool := false
  /-- CN at which the feedback time began, and whether a retry pulse runs. -/
  since : Cn := 0
  pulse : Bool := false
  /-- Consecutive cycles in which the feedback disagreed. -/
  disagree : Nat := 0
  /-- Fixed changes, by rising CN: close or open (R279). -/
  fixed : List (Cn × Bool) := []
  /-- CN of the last planned opening, and CN at which it was last CLOSED again after one (R279, R281). -/
  lastOpen : Option Cn := none
  reclosed : Option Cn := none
  /-- Open as planned: missed keepalives of its feeder do not count (R281). -/
  plannedOpen : Bool := false
  transients : Nat := 0
  /-- A situation of Table 7.5 has taken the drive from the plan (R277). -/
  safe : Bool := false
  deriving DecidableEq, Repr

/-- Tuning of a route (R292). -/
structure Tuning where
  n : Nat := 0
  hold : Nat := 0
  level : Nat := 0
  deriving DecidableEq, Repr

/-- One bin of a learned block (R291, R293). -/
structure BinStat where
  volume : Nat
  speed : Nat
  deriving DecidableEq, Repr

/-- A route as it runs (R282 to R293). -/
structure RouteSt where
  id : Nat
  tuning : Tuning := {}
  /-- Learned bins by 48 t + b. -/
  learned : Table BinStat := []
  /-- Gathered in the present bin: detections per hour by position, and waves with a speed with their speeds' sum. -/
  detections : Table Nat := []
  waves : Nat := 0
  speedSum : Nat := 0
  /-- CN of the last reload of its lists (R283). -/
  reloaded : Option Cn := none
  /-- Positions with a recorded gap. -/
  gaps : List Nat := []
  /-- Members moved since the last reload: a reload is due. -/
  dirty : Bool := false
  deriving DecidableEq, Repr

/-- A WAVE as the wave relay tile receives it (R177, R287). -/
structure Wave where
  originator : Nat
  seq : Nat
  route : Nat
  list : Nat
  position : Nat
  level : Nat
  hold : Nat
  detected : Cn
  hops : Nat
  speed : Nat
  deriving DecidableEq, Repr

/-- A pair of the wave memory (R287): originator, sequence, CN, and whether it was relayed. -/
structure WaveSeen where
  /-- The string group that holds it. -/
  group : Nat
  originator : Nat
  seq : Nat
  cn : Cn
  relayed : Bool
  deriving DecidableEq, Repr

/-- Dimming as the module holds it. -/
structure DimSt where
  /-- Nodes that entered or left SCHEDULED since their routes were last reloaded (R283). -/
  moved : List Nat := []
  /-- Day number and records of today and tomorrow; none before CN is attributed and CALENDAR held. -/
  day : Option (Nat × Day × Day) := none
  /-- Day record of the DAY item last flooded (R273). -/
  flooded : Option Nat := none
  contactors : List KcSt := List.replicate 4 {}
  routes : List RouteSt := []
  waveSeen : List WaveSeen := []
  /-- The learning bin that runs (R291): day number, bin, day type. -/
  bin : Option (Nat × Nat × Nat) := none
  deriving DecidableEq, Repr

end Sys2Proof.Machine
end

