-- ==== Sys2Proof/Machine/Types/Drv.lean ====
section
/-! DEFINITION. State of the direct drive (09): channels, luminaires, pattern engines, colour groups; and what a
PWM frame brings. -/

namespace Sys2Proof.Machine

/-- What the loop tile measured of a channel in the frame that ended (R357, R360): current in mA, voltage in 0.1 V,
whether the current stayed below 25 % of the amplitude throughout the window, with the duty at its limit. -/
structure ChMeas where
  channel : Fin 32
  amps : Nat
  volts : Nat
  below : Bool
  atLimit : Bool
  deriving DecidableEq, Repr

/-- A learning run of a channel (R357): its start and how many of its four points are recorded. -/
structure Learn where
  start : Cn
  point : Nat := 0
  deriving DecidableEq, Repr

/-- One string channel (R345, R350-R361, Table 9.12). -/
structure ChSt where
  /-- Consecutive frames in which a condition of Table 9.5 held: open, string short, overcurrent, overvoltage,
  single-LED short. -/
  run : List Nat := [0, 0, 0, 0, 0]
  /-- Raised fault: 0 none, 1 OPEN, 2 STRING_SHORT, 3 OVERCURRENT, 4 OVERVOLTAGE. -/
  fault : Nat := 0
  /-- Off after a lasting fault (R361). -/
  lasting : Bool := false
  /-- CN of the retry of a confirmed fault (R361), and the good frames of a retry that runs. -/
  retryCn : Option Cn := none
  retrying : Option Nat := none
  shorted : Nat := 0
  learned : Bool := false
  learn : Option Learn := none
  transient : Bool := false
  cmdRefused : Bool := false
  /-- Consecutive switching periods cut by OC, and the limit that holds the channel off at the die (R345): 3
  overcurrent, 4 overvoltage, 0 none. -/
  ocPeriods : Nat := 0
  dieOff : Nat := 0
  /-- DRV_CHs_SETPT. -/
  amplitude : Nat := 0
  duty : Nat := 0
  /-- Channel level in 1/65,536 of 0.01 % (R350). -/
  level : Nat := 0
  floor : Bool := false
  hybrid : Bool := false
  derated : Bool := false
  amps : Nat := 0
  volts : Nat := 0
  /-- The direct level that applies (R347, R356), in 0.01 %. -/
  direct : Option Nat := none
  /-- m of the LED_SHORT that stands (R360, R361). -/
  ledM : Nat := 0
  deriving DecidableEq, Repr

/-- A wave raise of a string luminaire (R287, R290). -/
structure WaveUp where
  from_ : Nat
  level : Nat
  start : Cn
  ramp : Nat
  holdEnd : Cn
  /-- CN at which it began to fall. -/
  fall : Option Cn := none
  deriving DecidableEq, Repr

/-- One luminaire (R346-R349): the ramp of its base level, its SAFETY level, its wave. -/
structure LumSt where
  from_ : Nat := 655360000
  target : Nat := 10000
  rampStart : Cn := 0
  ramp : Nat := 0
  safety : Option Nat := none
  /-- A SAFETY level, or its release, and the CN at whose first frame it applies (R348). -/
  safetyNext : Option (Option Nat × Cn) := none
  wave : Option WaveUp := none
  /-- Level in force in 1/65,536 and row of Table 9.3 (7 for fallback). -/
  level : Nat := 0
  row : Nat := 0
  deriving DecidableEq, Repr

/-- A run of a pattern engine (R371 to R375). -/
structure PeRun where
  evac : Bool := false
  startCn : Cn := 0
  /-- Frame of the start within its cycle (R374). -/
  startFrame : Nat := 0
  /-- City time of the start in ns (R371). -/
  startNs : Nat := 0
  /-- Route start (R373): origin position, lag in the timebase, towards lower positions. -/
  origin : Option (Nat × Nat × Bool) := none
  /-- Keyframe in trigger mode, with the repeats left of the loops entered (R370, R371). -/
  step : Option (Nat × Table Nat) := none
  /-- Its first frame has not started yet: its city time is taken there (R374). -/
  fresh : Bool := false
  deriving DecidableEq, Repr

/-- One pattern engine. -/
structure PeSt where
  run : Option PeRun := none
  /-- A write of START waits for the next CYC (R371). -/
  pending : Bool := false
  /-- Its start at a city time has been used (R371). -/
  timed : Bool := false
  deriving DecidableEq, Repr

/-- A LEARN of a tunable-white group (R366): the primary measured, 0 warm and 1 cool, and its accepted windows. -/
structure TwLearn where
  primary : Nat := 0
  windows : Nat := 0
  sums : List Int := [0, 0, 0]
  deriving DecidableEq, Repr

/-- A tunable-white group (R365 to R368). -/
structure TwSt where
  /-- X, Y, Z of the warm, then of the cool primary, at 100 % of IMAX. -/
  primaries : Option (List Int) := none
  gainW : Nat := 0x8000
  gainC : Nat := 0x8000
  /-- Gains that take effect at the next CYC (R367). -/
  nextGains : Option (Nat × Nat) := none
  learned : Bool := false
  learn : Option TwLearn := none
  inTol : Bool := false
  offLine : Bool := false
  headroom : Bool := false
  sensorFault : Bool := false
  /-- A channel of the group changed its setpoint within the window that runs, and within the last one (R363). -/
  dirty : Bool := false
  lastDirty : Bool := false
  /-- Windows in a row that read zero in all four channels (R368). -/
  dark : Nat := 0
  measX : Nat := 0
  measY : Nat := 0
  yError : Int := 0
  level : Nat := 0
  deriving DecidableEq, Repr

/-- A colour sensor port (R363). -/
structure CsSt where
  values : List Nat := [0, 0, 0, 0]
  sat : List Bool := [false, false, false, false]
  valid : Bool := false
  discarded : Bool := false
  fault : Bool := false
  range : Nat := 0
  windows : Nat := 0
  cn : Cn := 0
  deriving DecidableEq, Repr

/-- The DRV block. -/
structure DrvSt where
  /-- Driver die that serves each half H0 to H7; 8 and 9 are SH0 and SH1 (R362). -/
  dies : List Nat := [0, 1, 2, 3, 4, 5, 6, 7]
  /-- Halves whose gate supply is low, and halves that failed and wait for their spare (R345, R362). -/
  gateLow : List Bool := List.replicate 10 false
  failed : List Nat := []
  chs : List ChSt := List.replicate 32 {}
  lums : List LumSt := List.replicate 32 {}
  engines : List PeSt := List.replicate 8 {}
  groups : List TwSt := List.replicate 4 {}
  sensors : List CsSt := List.replicate 4 {}
  /-- Frames begun in the cycle that runs, and K in force (R353). -/
  frame : Nat := 0
  k : Nat := 8
  /-- NTC inputs: temperature in 0.1 degrees, OPEN, SHORT (R358). -/
  ntcTemp : List Int := List.replicate 8 0
  ntcOpen : List Bool := List.replicate 8 false
  ntcShort : List Bool := List.replicate 8 false
  /-- STARTED, and evacuations (R374, R375). -/
  started : Bool := false
  evacuations : Nat := 0
  deriving DecidableEq, Repr

end Sys2Proof.Machine
end

