-- ==== Sys2Proof/Machine/Types/Mtr.lean ====
section
/-! DEFINITION. State of feeder metering and feeder balance (08); and what a cycle of accounting brings. -/

namespace Sys2Proof.Machine

/-- One feeder phase over one cycle (R314, R315): signed active and reactive energy in 2^-32 mWh, mean |P| and |Q| in
0.01 W, RMS current in mA. -/
structure PhaseSum where
  feeder : Fin 4
  /-- 0 to 2 for L1 to L3. -/
  phase : Fin 3
  p : Int
  q : Int
  meanP : Nat
  meanQ : Nat
  rms : Nat
  deriving DecidableEq, Repr

/-- Classes of a metering gap (R333). -/
inductive GapClass where
  | supplyOnly
  | dark
  | uncertain
  | reset
  | channel
  | clearing
  | cal
  deriving DecidableEq, Repr

/-- An open gap of a feeder phase (R298, R307, R308). -/
structure Gap where
  feeder : Nat
  phase : Nat
  cls : GapClass
  start : Cn
  deriving DecidableEq, Repr

/-- An interval record (R326), with what estimates need of it (R332). -/
structure Interval where
  cn : Cn
  feeder : Nat
  length : Nat
  flagBits : Nat
  /-- Active import of L1 to L3 in mWh. -/
  imports : List Nat
  octets : List Byte
  deriving DecidableEq, Repr

/-- A closed or pending balance interval of a feeder (R335 to R339). -/
structure Balance where
  cn : Cn
  length : Nat
  imports : List Nat
  incomplete : Bool
  /-- Nodes of the feeder at its end: EUI-64 and phase, 0 to 2. -/
  nodes : List (Nat × Nat)
  /-- Energies reported in mWh, and nodes whose report carried GAP or ESTIMATE. -/
  reports : Table Nat := []
  bad : List Nat := []
  deriving DecidableEq, Repr

/-- The result of a balance (R328, R339). -/
structure BalResult where
  cn : Cn
  state : Nat
  reported : Nat
  feederMwh : Nat
  nodeMwh : Nat
  loss : Int := 0
  ratio : Int := 0
  phases : List Int := [0, 0, 0]
  deriving DecidableEq, Repr

/-- Feeder balance of one feeder. -/
structure FeederBal where
  /-- Active import of the interval that runs, L1 to L3, in 2^-32 mWh, and its opening CN. -/
  sums : List Nat := [0, 0, 0]
  start : Cn := 0
  gap : Bool := false
  open_ : List Balance := []
  /-- Results that wait for an interval record. -/
  closed : List BalResult := []
  last : Option BalResult := none
  /-- Consecutive balances of one kind: 2 LOSS, 3 EXCESS, 1 BALANCED. -/
  kind : Nat := 0
  count : Nat := 0
  lossAlarm : Bool := false
  excessAlarm : Bool := false
  deriving DecidableEq, Repr

/-- What a checkpoint or snapshot holds of one feeder's interval (R321, R329). -/
structure FeederInt where
  /-- Integer parts at the opening latch, 24 registers. -/
  opening : List Nat := List.replicate 24 0
  /-- Flags gathered (Table 8.4). -/
  flagBits : Nat := 0
  /-- Total metering gap in ns. -/
  gapNs : Nat := 0
  estimates : List Nat := [0, 0, 0]
  deriving DecidableEq, Repr

/-- The accumulators with interval and balance state (R317, R321). -/
structure MtrLive where
  /-- 96 accumulators in 2^-32 mWh, index 24 f + 8 (p - 1) + 4 r + (q - 1), counted without wrap. -/
  acc : List Nat := List.replicate 96 0
  ints : List FeederInt := List.replicate 4 {}
  openCn : Cn := 0
  bal : List FeederBal := List.replicate 4 {}
  deriving DecidableEq, Repr

/-- A checkpoint or a last-gasp snapshot (R321, R329). -/
structure Saved where
  live : MtrLive
  cn : Cn
  us : Nat := 0
  snapshot : Bool := false
  present : Bool := false
  /-- Taken by a reset the module carries out: its gap is of class CLEARING (Table 15.8). -/
  clearing : Bool := false
  /-- City time in ns, where the timebase held a value. -/
  city : Option Nat := none
  deriving DecidableEq, Repr

/-- How far the handling of a channel's FAULT has come (R298). -/
inductive ChStage where
  | good
  /-- A receiver reset waits for CYC. -/
  | resetDue
  /-- The receiver was reset at the last CYC. -/
  | resetDone
  /-- The spare path waits for CYC. -/
  | spareDue
  /-- The spare path runs on the input since the last CYC. -/
  | spareDone
  /-- The spare path has the channel. -/
  | onSpare
  /-- The fault lies outside the module, or no spare path is left. -/
  | outside
  deriving DecidableEq, Repr

/-- A power gap whose class awaits the first cycle after resumption (R330, R331). -/
structure PowerGap where
  snapshot : Bool
  clearing : Bool
  present : Bool
  /-- Its length in cycles times TIME_PERIOD, in ns, and TIME_PERIOD at resumption. -/
  lengthNs : Nat
  period : Nat
  deriving DecidableEq, Repr

/-- A metering channel (R298, R299). -/
structure MtrCh where
  stage : ChStage := .good
  clip : Bool := false
  transient : Bool := false
  resets : Nat := 0
  deriving DecidableEq, Repr

/-- Calibration (R308). -/
structure CalSt where
  busy : Bool := false
  done : Bool := false
  start : Cn := 0
  cycles : Nat := 0
  window : Nat := 500
  p : Int := 0
  q : Int := 0
  rms : Nat := 0
  dc : Int := 0
  deriving DecidableEq, Repr

/-- The MTR block. -/
structure MtrSt where
  /-- CN of the next interval boundary (R322). -/
  nextLatch : Cn := 3000
  /-- The debounced MSEAL loop is open (R303). -/
  sealOpen : Bool := false
  sealGen : Nat := 0
  /-- Modulator input path of each channel; 16 and 17 are the spares (R299). -/
  paths : List Nat := [0, 1, 2, 3, 4, 5, 6, 7, 8, 9, 10, 11, 12, 13, 14, 15]
  live : MtrLive := {}
  lastLatch : Cn := 0
  lastValues : List Nat := List.replicate 96 0
  pendingN : Option Nat := none
  /-- A metrology write waits for the accounting of the next cycle (R306). -/
  written : Bool := false
  /-- Feeder registers in force in the cycle that runs: CFG, INOM, START, NOLOAD of each feeder (R306). -/
  force : List (List Nat) := List.replicate 4 [0, 0, 0, 0xC800C8]
  /-- The interval ring (R328), oldest first. -/
  history : List Interval := []
  /-- Two checkpoint slots, newest first, and the snapshot (R321, R329). -/
  checkpoints : List Saved := []
  snapshot : Option Saved := none
  /-- State loaded after a reset, whose gap closes at the first CYC (R330). -/
  resume : Option Saved := none
  powerGap : Option PowerGap := none
  /-- SYNC_IN move of the interval in progress (R77). -/
  moveD : Int := 0
  /-- A metrology write takes effect with the present cycle (R306). -/
  calibNew : Bool := false
  lastClass : Nat := 0
  gaps : List Gap := []
  rms : List Nat := List.replicate 16 0
  chs : List MtrCh := List.replicate 16 {}
  suppressed : List Nat := [0, 0, 0, 0]
  phaseAbsent : List Bool := [false, false]
  regLo : Nat := 0
  regHi : Nat := 0
  cal : CalSt := {}
  /-- The meter tiles run. -/
  running : Bool := false
  deriving DecidableEq, Repr

end Sys2Proof.Machine
end

