-- ==== Sys2Proof/Machine/Types/Node.lean ====
section
/-! DEFINITION. State of the lantern nodes as the module knows them (04). -/

namespace Sys2Proof.Machine

/-- The states of a node (Table 4.15); `absent` is the state without a name of a node whose entry is FREE
and that is not LOST. -/
inductive LinkState where
  | absent
  | joining
  | scheduled
  | stray
  | lost
  | excluded
  deriving DecidableEq, Repr

/-- A configuration item sent to a node (R158, R159): its content from an effective CN. -/
structure Item where
  id : Nat
  content : List Byte
  effective : Cn
  /-- The node has acknowledged every part, or the flood's last pass has gone out. -/
  acked : Bool
  deriving DecidableEq, Repr

/-- What the module keeps of one node. -/
structure NodeRec where
  eui : Nat
  grove : Nat := 0
  short : Nat := 0xFFFF
  state : LinkState := .absent
  parent : Nat := 0
  hop : Nat := 1
  phi : Nat := 0
  cls : Nat := 0
  /-- Keepalive period and phase (R156). -/
  period : Nat := 3000
  phase : Nat := 0
  /-- Schedule version last sent (R157). -/
  version : Nat := 0
  /-- Last accepted join nonce and last regrant nonce (R149, R155). -/
  nonce : Option Nat := none
  regrantNonce : Nat := 2147483648
  grantCn : Cn := 0
  /-- A frame of the node was accepted in this keepalive period (R184). -/
  heard : Bool := false
  missed : Nat := 0
  /-- Departures from the granted phase on consecutive keepalives (R163). -/
  departures : Nat := 0
  /-- Digest of the last accepted KEEPALIVE, and whether it equalled the expected one (R159). -/
  digest : Option Nat := none
  agreed : Bool := false
  lastKeepalive : Cn := 0
  /-- Items sent, by rising id; of one id, the one in force before the one to come. -/
  items : List Item := []
  firmware : Nat := 0
  model : Nat := 0
  level : Nat := 0
  status : Nat := 0
  rssi : Int := 0
  /-- ETX of the link to the parent in 1/16 (Table 4.10). -/
  etx : Nat := 16
  temperature : Int := 0
  resets : Nat := 0
  /-- Generation of the last grant or regrant acknowledged (R190). -/
  generation : Nat := 0
  /-- The node acknowledged the REGRANT of the rotation in progress (R485). -/
  regranted : Bool := false
  /-- Codes of faults raised and not cleared (R176). -/
  faults : List Nat := []
  /-- NEIGHBOURS as reported: short address and frames heard per 1,000 cycles (R284). -/
  neighbours : List (Nat × Nat) := []
  /-- First item id of the DIGEST_QUERY sent last (R162). -/
  asked : Nat := 0
  /-- It stopped answering and is to be re-routed (R213). -/
  reroute : Bool := false
  deriving DecidableEq, Repr

/-- A lantern link message as it reaches the module: its originator's short address, its sequence and its body. -/
structure LinkMsg where
  short : Nat
  seq : Nat
  body : List Byte
  deriving DecidableEq, Repr

/-- The nodes the module knows, in order of first admission. -/
structure NodeSt where
  nodes : List NodeRec := []
  deriving DecidableEq, Repr

end Sys2Proof.Machine
end

