-- ==== Sys2Proof/Machine/Types/Power.lean ====
section
/-! DEFINITION. Operands of the supply commands (R571, R572). -/

namespace Sys2Proof.Machine

/-- What a supply input becomes (R571, R572). -/
inductive SupplyState where
  | valid
  | invalid
  | overvoltage
  | reversed
  deriving DecidableEq, Repr

end Sys2Proof.Machine
end

