-- ==== Sys2Proof/Machine/Types/Can.lean ====
section
/-! DEFINITION. State of the canopy (10): the image as it is read, what is placed, clearings. -/

namespace Sys2Proof.Machine

/-- The templates of Table 10.1. -/
inductive Template where
  | mac
  | linkCrypto
  | meterPipe
  | meterAcc
  | stringLoop
  | pattern
  | colour
  | ptp
  | waveRelay
  | dimmingAction
  | fieldIo
  deriving DecidableEq, Repr

/-- A tile slot in use: its template, the unit (or mask of units) its parameter block names, its region, the physical tile
it runs on in each stand, A then B (R381), and the tile that carries it during a clearing (Table 10.7). -/
structure SlotUse where
  template : Template
  unit : Nat := 0
  region : Nat := 0
  tiles : List Nat := [0, 0]
  carriers : List (Option Nat) := [none, none]
  deriving DecidableEq, Repr

/-- A record of an image (R383): type, region field, content, and all its octets. -/
structure ImgRec where
  type : Nat
  region : Nat
  content : List Byte
  octets : List Byte
  deriving DecidableEq, Repr

/-- A sub-band of the REGULATORY record (R389); no duty budget where it is 0xFFFF_FFFF. -/
structure SubBand where
  low : Nat
  high : Nat
  power : Nat
  lbt : Bool
  duty : Nat
  deriving DecidableEq, Repr

/-- The regulatory profile (R94, R389). -/
structure Regulatory where
  id : Nat := 0
  lbt : Bool := false
  hopping : Bool := false
  scopeTrx : Bool := false
  ackExempt : Bool := false
  f0 : Nat := 0
  spacing : Nat := 0
  span : Nat := 0
  excluded : List Nat := []
  threshold : Int := 0
  tsCca : Nat := 128
  bands : List SubBand := []
  /-- The record's head and entries, as the REGULATORY item carries them (Table 4.7). -/
  octets : List Byte := []
  deriving DecidableEq, Repr

/-- The SITE record (R390). The values before a canopy gives any are those of Tables 4.16 and R267. -/
structure Site where
  t0Sec : Nat := 0
  t0Ns : Nat := 0
  latitude : Int := 0
  longitude : Int := 0
  dawnElev : Int := -83
  duskElev : Int := -83
  gains : List Int := [0, 0, 0, 0]
  grantWait : Nat := 1024
  lostPeriods : Nat := 20
  grandmaster : Bool := false
  anchors : List (List Byte) := []
  deriving DecidableEq, Repr

/-- A canopy image (R382 to R391). -/
structure Image where
  seq : Nat
  builds : Nat
  nominal : Nat
  regions : Nat
  siteId : Nat
  tset : BitVec 256
  records : List ImgRec
  digest : BitVec 256
  deriving DecidableEq, Repr

/-- A clearing whose start is fixed, or that runs (R394, R395). -/
structure Clearing where
  region : Nat
  c : Cn
  len : Nat
  started : Bool := false
  deriving DecidableEq, Repr

/-- An activation by clearings in progress (R393): the regions still to clear, in ascending index. -/
structure CanActivation where
  image : Image
  cn : Cn
  regions : List Nat
  /-- The regions it clears in all. -/
  all : List Nat := []
  /-- Its commit point lies behind. -/
  begun : Bool := false
  /-- It returns to the image before, as a fallback (R516). -/
  back : Bool := false
  deriving DecidableEq, Repr

/-- The CAN block (R379-R403). -/
structure CanSt where
  /-- Tile slots in use (R381). -/
  slots : Table SlotUse := []
  /-- Logical engine to physical engine, in each stand. -/
  engines : List (List Nat) := [List.replicate 16 0, List.replicate 16 0]
  /-- The image of the image store; none before the first load. -/
  image : Option Image := none
  /-- An image runs: the stands have loaded it since their reset. -/
  loaded : Bool := false
  /-- The canopy digest (R391). -/
  digest : BitVec 256 := 0
  /-- Site id of the running image; 0 while in commissioning (R601). -/
  siteId : Nat := 0
  site : Site := {}
  /-- A changed REGULATORY record that waits for its CN (R393). -/
  regulatory : Option Regulatory := none
  /-- Template set digest of the running firmware. -/
  tset : BitVec 256 := 0
  segDigest : BitVec 256 := 0
  clearing : Option Clearing := none
  activation : Option CanActivation := none
  /-- Start, region and length of the current or last clearing. -/
  lastC : Cn := 0
  lastRegion : Nat := 0
  lastLen : Nat := 0
  refuseReason : Nat := 0
  refuseIndex : Nat := 0
  deriving DecidableEq, Repr

end Sys2Proof.Machine
end

