-- ==== Sys2Proof/Machine/Types/Rad.lean ====
section
/-! DEFINITION. State of the air schedule (03): transceivers, neighbour ledger, frames held, duty sums; and the
operands of a received frame. -/

namespace Sys2Proof.Machine

/-- A transceiver with its counters (R88, R92, R130). -/
structure TrxSt where
  failed : Bool := false
  underTest : Bool := false
  modeRefused : Bool := false
  rxOk : Nat := 0
  dup : Nat := 0
  replay : Nat := 0
  micFail : Nat := 0
  filtered : Nat := 0
  nack : Nat := 0
  dutySkip : Nat := 0
  lbtBusy : Nat := 0
  held : Nat := 0
  txFail : Nat := 0
  viol : Nat := 0
  ebTx : Nat := 0
  deriving DecidableEq, Repr

/-- Ledger entry states (Table 3.16). -/
inductive EntryState where
  | free
  | active
  | muted
  | excluded
  deriving DecidableEq, Repr

/-- An entry of the neighbour ledger (R124, R125). -/
structure Entry where
  eui : Nat := 0
  short : Nat := 0
  keyIndex : Nat := 0
  h : Nat := 0
  w : Nat := 0
  /-- Freshly written: the first verified frame is accepted (R125). -/
  fresh : Bool := true
  heard : Cn := 0
  drift : Int := 0
  state : EntryState := .free
  resync : Bool := false
  violations : List Cn := []
  muteEnd : Option Cn := none
  /-- A FREE entry is reserved to its EUI-64 up to this CN (R184). -/
  reserved : Option Cn := none
  deriving DecidableEq, Repr

/-- The cells a held frame goes out in (R105 to R112). -/
inductive Cell where
  | safety
  | prompt
  | wave
  /-- The joiner's join cell j (R153). -/
  | join (j : Nat)
  | bulk
  deriving DecidableEq, Repr

/-- What a held frame carries, for the module's own account of it. -/
inductive Load where
  | other
  /-- A part of a configuration item of a node (R159); the last part closes it. -/
  | item (eui id : Nat) (last : Bool)
  /-- A JOIN_GRANT, and the REGRANT of a rotation (R152, R485). -/
  | grant (eui : Nat)
  | regrant (eui : Nat)
  /-- A frame of a promise (R213); a part of an item names the node (0 in a flood), the item and whether it is
  the last. -/
  | promise (id : Nat) (part : Option (Nat × Nat × Bool) := none)
  /-- A frame of a caravan to a node: offer, or a chunk. -/
  | caravan (index eui : Nat)
  deriving DecidableEq, Repr

/-- A frame held for a transmit cell of a grove. -/
structure Held where
  grove : Nat
  cell : Cell
  /-- MAC destination; 0xFFFF for a broadcast. A join grant names the joiner's EUI-64. -/
  dest : Nat
  joiner : Nat := 0
  type : Nat
  /-- Lantern link header and body. -/
  payload : List Byte
  load : Load := .other
  /-- First ASN it may go out in. -/
  notBefore : Nat := 0
  /-- Last ASN it may go out in, for a further pass (R195). -/
  until_ : Option Nat := none
  /-- Transmissions still to make of a broadcast; retransmissions left of a unicast. -/
  left : Nat := 1
  /-- Sent as unicast and awaiting its acknowledgement. -/
  awaiting : Bool := false
  /-- Its frame counter, once it has taken one. -/
  counter : Option Nat := none
  deriving DecidableEq, Repr

/-- The RAD block. -/
structure RadSt where
  /-- The module EUI-64 (RAD_EUI). -/
  eui : Nat := 0
  trxs : List TrxSt := List.replicate 9 {}
  /-- Transceiver whose grove TRX8 serves, and one whose takeover waits for the next slot (R92). -/
  serving : Option Nat := none
  takeover : Option Nat := none
  thin : Bool := false
  /-- The ledger by short address less 0x1000, that is 512 g + e (R136). -/
  ledger : Table Entry := []
  profile : Regulatory := {}
  /-- Airtime in microseconds per bin, newest first, at most 60; key 8 t + sub-band, t = 0 for the whole
  module (R95). -/
  duty : Table (List Nat) := []
  frames : List Held := []
  /-- Neighbours told of a pending frame: the next bulk cell from them runs reversed (R113). -/
  reversed : List Nat := []
  /-- CNs of busy cells of the last 1,000 cycles, by grove (R196). -/
  busy : List (List Cn) := List.replicate 8 []
  groveViol : List Nat := List.replicate 8 0
  deferred : List Nat := List.replicate 8 0
  /-- The module's frame counter per grove under the current generation (R137). -/
  counters : List Nat := List.replicate 8 0
  /-- CN of the last beacon of each grove, Ford's included (R595). -/
  beaconCn : List Cn := List.replicate 8 0
  /-- Sequence of the module's messages (R138). -/
  seq : Nat := 0
  /-- SF-Join slotframe the join counts are of, and joins admitted per transceiver in it (R149). -/
  joinFrame : Nat := 0
  joins : List Nat := List.replicate 8 0
  /-- CN of the Safe Level IE (R120). -/
  safeCn : Cn := 0
  /-- CTR, WIN and HEARD as READ loaded them. -/
  ldg : Entry := {}
  deriving DecidableEq, Repr

/-- What kind of frame a MAC tile receives (Table 3.9). -/
inductive RxKind where
  | beacon
  /-- An unsecured JOIN_REQ: the source EUI-64. -/
  | joinReq (eui : Nat)
  /-- An unsecured enhanced acknowledgement in a join cell: the joiner's EUI-64. -/
  | joinAck (eui : Nat)
  /-- An enhanced acknowledgement of a unicast frame of the module: frame pending and NACK. -/
  | ack (pending nack : Bool)
  | data
  deriving DecidableEq, Repr

/-- What the lantern link header of a frame shows (Table 4.13), with its type and sequence where it can be read. -/
inductive LinkHead where
  | good
  /-- Reserved flags set, k above 7, truncated, or a path left at its destination. -/
  | malformed (type seq : Nat)
  /-- A type outside Table 4.3. -/
  | unknown (type seq : Nat)
  deriving DecidableEq, Repr

/-- A received frame as the MAC tile sees it (R122 to R126). -/
structure RxFrame where
  kind : RxKind
  fcs : Bool := true
  /-- The MHR, the IEs and the frame version are well formed. -/
  wellFormed : Bool := true
  pan : Nat
  dest : Nat
  /-- Source short address. -/
  source : Nat
  keyIndex : Nat := 0
  counter : Nat := 0
  mic : Bool := true
  /-- Octets of the PSDU. -/
  psdu : Nat
  /-- The cell was scheduled for this sender. -/
  scheduled : Bool := true
  /-- Scheduled TsTxOffset less the measured start, in microseconds. -/
  correction : Int := 0
  /-- It asks for an acknowledgement. -/
  wantsAck : Bool := true
  /-- Short address of the lantern link originator. -/
  originator : Nat
  link : LinkHead := .good
  deriving DecidableEq, Repr

end Sys2Proof.Machine
end

