-- ==== Sys2Proof/Machine/Types/Time.lean ====
section
/-! DEFINITION. State of the TIME block (01, 02), and the operands of its commands. -/

namespace Sys2Proof.Machine

/-- Timebase states (R48, Table 2.1). -/
inductive TState where
  | unset
  | locking
  | locked
  | holdover
  deriving DecidableEq, Repr

/-- Mains states (R75, Table 2.2). -/
inductive MState where
  | unattributed
  | tracking
  | freeRun
  | relock
  deriving DecidableEq, Repr

/-- A time source (R51, R55): a PTP port or PPS_IN. -/
inductive TSource where
  | ptp (port : Fin 2)
  | pps
  deriving DecidableEq, Repr

/-- What PTP message a port received (R51, R52, R86). -/
inductive PtpMsg where
  /-- A valid Announce of the master. -/
  | announce
  /-- A valid Sync (with its Follow_Up): the master's send time in ns, and the Sync interval in ms. -/
  | sync (sent : Int) (intervalMs : Nat)
  /-- A valid delay response: the local send time of the request before the latency is applied and the
  time the partner received it, in ns (R52, R53). -/
  | delay (sent : Int) (received : Int)
  /-- A delay request received in the master state (R51). -/
  | delayReq
  | malformed
  | otherDomain
  /-- Management, signalling or unicast negotiation. -/
  | management
  /-- The port's state changes to the one IEEE 1588 numbers so. -/
  | portState (state : Fin 16)
  deriving DecidableEq, Repr

/-- A mains crossing kept in the history (R59): its instant in ticks since reset, and its CN. -/
structure Crossing where
  ref : Int
  cn : Cn
  deriving DecidableEq, Repr

/-- A trigger unit (R81, R82, Table 2.9): ARM, FIRED and MISSED; the rest are its registers. -/
structure Trigger where
  armed : Bool := false
  fired : Bool := false
  missed : Bool := false
  deriving DecidableEq, Repr

/-- One entry of a capture FIFO (R84, R85). -/
structure Capture where
  sec : Nat
  ns : Nat
  cn : Cn
  rising : Bool
  unset : Bool
  deriving DecidableEq, Repr

/-- A capture channel (R84): up to 8 entries, oldest first, and OVR. -/
structure CaptureCh where
  fifo : List Capture := []
  ovr : Bool := false
  deriving DecidableEq, Repr

/-- One PTP port (R51-R54, R86). -/
structure PtpPort where
  state : Nat := 0
  announceMiss : Nat := 0
  syncMiss : Nat := 0
  pathDelay : Int := 0
  /-- Receive time less send time of the last Sync, in ns. -/
  lastSync : Int := 0
  violations : List Cn := []
  muteEnd : Option Cn := none
  deriving DecidableEq, Repr

/-- A waymark (R63): cycle CN_w begins at city time T_w. -/
structure Waymark where
  cn : Cn
  sec : Nat
  ns : Nat
  deriving DecidableEq, Repr

/-- A re-base that is announced (R68). -/
structure Rebase where
  /-- The provisional CN of the re-base cycle. -/
  at_ : Cn
  /-- The attributed CN it becomes. -/
  newCn : Cn
  deriving DecidableEq, Repr

/-- The snapshot registers (R45). -/
structure Snap where
  city : CityTime := {}
  cn : Cn := 0
  tick : Nat := 0
  deriving DecidableEq, Repr

/-- The TIME block. -/
structure TimeSt where
  /-- City time at the present tick (R42). -/
  city : CityTime := {}
  /-- Increment a tick: nanoseconds and fraction in 2^-32 ns (R42, R43). -/
  incrNs : Nat := 10
  incrFrac : Nat := 0
  /-- Ticks since CYC of the current CN (R45). -/
  tsc : Nat := 0
  /-- Ticks since reset (R59). -/
  ref : Nat := 0
  /-- The second timeslot of the cycle has begun (R28). -/
  second : Bool := false
  /-- The TIME block counts cycles: the first crossing has been counted, or a free-run began (R68, R70). -/
  counting : Bool := false
  /-- Lengths in ns of the current slot and of the cycle's slots begun so far (R62). -/
  slotLen : Nat := 0
  cycleLen : Nat := 0
  /-- Correction in ns given to the slots of the current cycle so far (R62). -/
  corrUsed : Int := 0
  /-- Ticks since reset at the CYC of the current cycle and of those before it, newest first (R82). -/
  cycRefs : List Nat := []
  tstate : TState := .unset
  source : Option TSource := none
  /-- Sources that deliver (R611). -/
  valid0 : Bool := false
  valid1 : Bool := false
  validPps : Bool := false
  /-- The step is armed (R44, R48). -/
  armed : Bool := true
  wasLocked : Bool := false
  jump : Bool := false
  /-- Servo integral S in ns (R46) and rate correction in parts per 10^12. -/
  integral : Int := 0
  rate : Int := 0
  /-- Interval tau of the source in ms. -/
  tauMs : Nat := 125
  /-- Median history: up to 8 accepted offsets, newest first (R47). -/
  median : List Int := []
  /-- Consecutive valid offsets since the last change, newest first, at most 16 (Table 2.1). -/
  run : List Int := []
  /-- Consecutive offsets above 1 s (R49). -/
  bigRun : Nat := 0
  /-- Rates after the last 64 accepted updates, newest first (R57). -/
  rates : List Int := []
  lastOffset : Int := 0
  outliers : Nat := 0
  ppsMiss : Nat := 0
  ports : List PtpPort := [{}, {}]
  viol : Nat := 0
  syncViol : Nat := 0
  /-- Entry into HOLDOVER: ticks and city seconds, cycle and rate (R57, R58). -/
  holdRef : Nat := 0
  holdCn : Cn := 0
  holdRate : Int := 0
  holdCity : Nat := 0
  /-- Error bound at entry, in ns: the spec gives none (log 12). -/
  holdBase : Nat := 0
  /-- Periods over the last 24 h of LOCKED operation (R57): sum and number by hour, newest first. -/
  day : List (Nat × Nat) := []
  mstate : MState := .unattributed
  absent : Bool := false
  issued : Bool := false
  /-- Nominal frequency in force (R61). -/
  nominal : Nat := 50
  /-- TIMEOUT in force, in ms (R61, R70). -/
  timeoutMs : Nat := 50
  history : List Crossing := []
  /-- Last valid periods in ns, newest first, at most 16 (R60). -/
  periods : List Nat := []
  lastValid : Option Nat := none
  /-- Valid crossings in a row since the mains came back (R71), and their periods. -/
  returning : List Nat := []
  returned : Nat := 0
  /-- Phase error e left to remove, signed ns (R30, R71, R72). -/
  phaseErr : Int := 0
  /-- Whole cycles left to slew, and the cycles run of the current 200 (R73). -/
  slewCyc : Int := 0
  slewSub : Nat := 0
  phaseOfs : Int := 0
  waymark : Option Waymark := none
  /-- The last waymark's disagreement k, where it disagreed (R67). -/
  disagree : Option Int := none
  /-- The count is provisional (R68). -/
  provisional : Bool := true
  /-- A provisional beacon has gone out (R66, R68). -/
  provBeacon : Bool := false
  rebase : Option Rebase := none
  /-- The provisional count is to move at the next valid crossing (R68). -/
  movePending : Bool := false
  /-- The provisional count has moved, which it does once (R68). -/
  provMoved : Bool := false
  /-- MRAM: last CN held, stored waymark, stored period (R68, R61). -/
  mramCn : Option Cn := none
  mramWaymark : Option Waymark := none
  snap : Snap := {}
  /-- SYNC_IN (R76-R79): boundary offset D, last d, flags, this interval already moved, realign runs. -/
  syncOfs : Nat := 0
  syncD : Int := 0
  syncMoved : Bool := false
  syncIgnored : Bool := false
  intervalMoved : Bool := false
  realign : Bool := false
  triggers : List Trigger := List.replicate 16 {}
  captures : List CaptureCh := List.replicate 7 {}
  /-- The engines wrote the string steps of the next cycle before its cut-off (R31). -/
  planReady : Bool := false
  /-- Last CN whose string steps have taken effect (R31). -/
  applied : Cn := 0
  /-- Absences of the mains: ticks of their start, and of their end where they have ended (R65, R70). -/
  absences : List (Nat × Option Nat) := []
  /-- Waymarks that disagreed once (R67), saturating. -/
  disagreements : Nat := 0
  deriving DecidableEq, Repr

end Sys2Proof.Machine
end

