-- ==== Sys2Proof/Machine/Types/Way.lean ====
section
/-! DEFINITION. State of the waybill recorder and the service monitor (16), and of what the module emits. -/

namespace Sys2Proof.Machine

/-- A happening to be recorded, or a record (R526, Table 16.1); `seq` is given when it commits. -/
structure Rec where
  seq : Nat := 0
  cn : Cn := 0
  us : Nat := 0
  stand : Stand := .a
  role : Role := .nobody
  estimate : Bool := false
  tagged : Bool := false
  dormant : Bool := false
  partner : Bool := false
  source : Nat
  id : Nat
  reason : Reason := .ok
  count : Nat := 1
  /-- Up to 12 octets; the rest of the payload is zero. -/
  payload : List Byte := []
  deriving DecidableEq, Repr

/-- The WAY block (R526-R534, R542). The ring holds committed records, oldest first. -/
structure WaySt where
  ring : List Rec := []
  staging : List Rec := []
  newest : Nat := 0
  /-- The slot the next record takes, among the slots in service. -/
  pos : Nat := 0
  /-- CN and microseconds of the first loss not yet in a LOST record. -/
  lossFirst : Option (Cn × Nat) := none
  lossOpen : Nat := 0
  /-- Staging has fallen to 32 entries since the loss: the LOST record takes the next write (R529). -/
  lossDue : Bool := false
  capacity : Nat := 65536
  clearSeq : Nat := 0
  clearCn : Cn := 0
  cleared : Bool := false
  storageFault : Bool := false
  shrunk : Bool := false
  peak : Nat := 0
  folds : Nat := 0
  lost : Nat := 0
  retries : Nat := 0
  /-- Ring sectors moved to a spare or left out (WAY_SECTORS). -/
  sectors : List Nat := []
  leftOut : List Nat := []
  sparesUsed : Nat := 0
  partnerCount : Nat := 0
  deriving DecidableEq, Repr

/-- What the read-back of a committed record shows (R534): it agrees, agrees at the retry, or fails lastingly;
then the sequences of the sector's records that do not verify there. -/
inductive ReadBack where
  | good
  | retried
  | failed (unreadable : List Nat)
  deriving DecidableEq, Repr

/-- A login in progress at the monitor (R539). -/
structure Nonce where
  role : Role
  value : BitVec 256
  at_ : Cn
  deriving DecidableEq, Repr

/-- An RF test by rftx (R541). -/
structure RfTest where
  phy : Nat
  channel : Nat
  power : Nat
  endCn : Cn
  seconds : Nat
  deriving DecidableEq, Repr

/-- The service monitor (R537-R541). -/
structure MonSt where
  role : Role := .nobody
  nonce : Option Nonce := none
  baud : Nat := 115200
  nextBaud : Option Nat := none
  sel : Stand := .a
  violations : List Cn := []
  muteEnd : Option Cn := none
  lastInput : Cn := 0
  rfTest : Option RfTest := none
  /-- Reads and other commands under OPERATOR, for the ROLE_SUMMARY (R489). -/
  reads : Nat := 0
  others : Nat := 0
  deriving DecidableEq, Repr

end Sys2Proof.Machine
end

