-- ==== Sys2Proof/Syntax.lean ====
section
/-! DEFINITION. The commands of the block: one constructor for each row of the table of operations and
events. Operands are what a happening brings with it from outside the module. -/

namespace Sys2Proof

open Machine

/-- One command (the rows of spec/opcode_table.json). -/
inductive Instr where
  /-- CYCLE_TICK (R27). -/
  | cycleTick (sums : List PhaseSum) (rms : List Nat) (clipped : List (Fin 16)) (busy : List Nat) (power mj : Fin 65536) (pct : Fin 256)
  /-- SLOT_MIDPOINT (R28). -/
  | slotMidpoint (busy : List Nat) (planned : Bool)
  /-- ZC_MEASURED (R29). -/
  | zcMeasured (ofs : Int) (tick : Nat) (ofsUs : Nat)
  /-- MAINS_TIMEOUT (R70). `tick` counts reference ticks since CYC of the current CN. -/
  | mainsTimeout (tick : Nat)
  /-- TIME_SNAP (R45). -/
  | timeSnap (value : Word) (tick : Nat)
  /-- PTP_MESSAGE (R52). -/
  | ptpMessage (port : Fin 2) (tick : Nat) (msg : PtpMsg)
  /-- PTP_PORT_UNMUTE (R86). -/
  | ptpPortUnmute (port : Fin 2)
  /-- PTP_SOURCE_MISS (R52). -/
  | ptpSourceMiss (port : Fin 2) (announce : Bool)
  /-- PPS_IN_EDGE (R55). -/
  | ppsInEdge (rising : Bool) (tick : Nat)
  /-- PPS_IN_MISS (R55). -/
  | ppsInMiss
  /-- TIME_REARM (R48). -/
  | timeRearm (value : Word) (w : Writer)
  /-- TIME_SRC_WRITE (R611). -/
  | timeSrcWrite (value : Word) (w : Writer)
  /-- MAINS_CFG_WRITE (R61). -/
  | mainsCfgWrite (value : Word) (w : Writer)
  /-- WAYMARK (R63). -/
  | waymark (sess : Fin 4) (role : Byte) (tx : Word) (body : List Byte)
  /-- SYNC_IN_PULSE (R77). The pulse's active edge, its tick and its width in microseconds. -/
  | syncInPulse (rising : Bool) (tick widthUs : Nat)
  /-- SYNC_REALIGN (R79). -/
  | syncRealign (value : Word) (w : Writer)
  /-- TRIGGER_ARM (R82). -/
  | triggerArm (unit : Fin 16) (value : Word) (tick : Nat) (w : Writer)
  /-- TRIGGER_FIRE (R81). -/
  | triggerFire (unit : Fin 16) (tick : Nat)
  /-- CAPTURE_EDGE (R84). -/
  | captureEdge (channel : Fin 7) (rising : Bool) (tick : Nat) (sub : Fin 10)
  /-- CAPTURE_POP (R84). -/
  | capturePop (channel : Fin 7) (value : Word)
  /-- DUTY_BIN_ROLL (R95). -/
  | dutyBinRoll
  /-- FRAME_RECEIVED (R122). -/
  | frameReceived (grove : Fin 8) (frame : RxFrame)
  /-- LEDGER_UNMUTE (R126). -/
  | ledgerUnmute (place : Fin 4096)
  /-- TRX8_TAKEOVER (R92). -/
  | trx8Takeover (value : Word) (w : Writer)
  /-- TRANSCEIVER_FAULT (R92). -/
  | transceiverFault (t : Fin 9)
  /-- RAD_CNT_CLR (R130). -/
  | radCntClr (value : Word) (w : Writer)
  /-- LEDGER_READ (R130). -/
  | ledgerRead
  /-- LEDGER_WRITE (R130). -/
  | ledgerWrite
  /-- LEDGER_CLEAR (R130). -/
  | ledgerClear
  /-- SAFEIE_WRITE (R120). -/
  | safeieWrite (value : Word) (w : Writer)
  /-- TRX_CTRL_WRITE (R103). -/
  | trxCtrlWrite (t : Fin 9) (value : Word) (w : Writer)
  /-- JOIN_REQ (R149). Proxy 0 is the module itself, which has filled bytes 29 to 31. -/
  | joinReq (grove : Fin 8) (proxy seq : BitVec 16) (body : List Byte) (mic : Bool)
  /-- KEEPALIVE (R164). -/
  | keepalive (msg : LinkMsg)
  /-- REPORT (R173). -/
  | report (msg : LinkMsg)
  /-- BALANCE_DEADLINE (R337). -/
  | balanceDeadline (feeder : Fin 4) (ended : BitVec 40)
  /-- TALLY (R171). -/
  | tally (msg : LinkMsg)
  /-- NAK (R181). -/
  | nak (msg : LinkMsg)
  /-- FAULT (R176). -/
  | fault (msg : LinkMsg)
  /-- CHUNK_STATE (R179). -/
  | chunkState (msg : LinkMsg)
  /-- DIGEST_QUERY (R162). -/
  | digestQuery (msg : LinkMsg)
  /-- GRANT_KEEPALIVE_TIMEOUT (R184). -/
  | grantKeepaliveTimeout (short : BitVec 16)
  /-- KEEPALIVE_PERIOD_END (R184). -/
  | keepalivePeriodEnd (short : BitVec 16)
  /-- RESERVATION_END (R184). -/
  | reservationEnd (place : Fin 4096)
  /-- ADMIT (R189). The deadline CN of the header, the transaction id, the body. -/
  | admitArrive (sess : Fin 4) (role : Byte) (deadline : BitVec 40) (tx : Word) (body : List Byte)
  /-- ADMIT_DECISION (R200). -/
  | admitDecision
  /-- OUTCOME_DEADLINE (R210). The promise by the transaction id the module gave it. -/
  | outcomeDeadline (id : Word)
  /-- QUERY_NO_ANSWER (R210). -/
  | queryNoAnswer (id : Word) (short : BitVec 16)
  /-- REJOIN_TIMEOUT (R215). -/
  | rejoinTimeout
  /-- TLS_HANDSHAKE (R222). -/
  | tlsHandshake (path : Fin 4) (signed : Bool) (chained : Bool) (exporter : List Byte)
  /-- HANDSHAKE_TIMEOUT (R222). -/
  | handshakeTimeout (since : Nat)
  /-- FSP_HEADER_FAULT (R224). -/
  | fspHeaderFault (sess : Fin 4) (header : List Byte)
  /-- FSP_WRONG_TYPE (R236). -/
  | fspWrongType (sess : Fin 4) (type : Byte) (tx : Word)
  /-- HELLO (R237). -/
  | hello (sess : Fin 4) (role : Byte) (tx : Word) (body : List Byte)
  /-- ROLE_CHALLENGE (R238). -/
  | roleChallenge (sess : Fin 4) (role : Byte) (tx : Word) (body : List Byte)
  /-- ROLE_PROOF (R226). -/
  | roleProof (sess : Fin 4) (role : Byte) (tx : Word) (body : List Byte)
  /-- ROLE_LAPSE (R226). -/
  | roleLapse (sess : Fin 4)
  /-- PUSH_ACK (R232). -/
  | pushAck (sess : Fin 4) (role : Byte) (type : Byte) (seq : Word)
  /-- METER_READ (R244). -/
  | meterRead (sess : Fin 4) (role : Byte) (tx : Word) (body : List Byte)
  /-- WAYBILL_READ (R247). -/
  | waybillRead (sess : Fin 4) (role : Byte) (tx : Word) (body : List Byte)
  /-- WAYBILL_CLEAR (R248). -/
  | waybillClear (sess : Fin 4) (role : Byte) (tx : Word) (body : List Byte)
  /-- CONFIG_PUT (R249). -/
  | configPut (sess : Fin 4) (role : Byte) (tx : Word) (body : List Byte)
  /-- CONFIG_GET (R252). -/
  | configGet (sess : Fin 4) (role : Byte) (tx : Word) (body : List Byte)
  /-- DIGEST (R253). -/
  | digest (sess : Fin 4) (role : Byte) (tx : Word) (body : List Byte)
  /-- UPDATE_OFFER (R255). `signed`: the manifest's signature verifies. -/
  | updateOffer (sess : Fin 4) (role : Byte) (tx : Word) (body : List Byte) (signed : Bool)
  /-- UPDATE_CHUNK (R504). the verdict on the tag, and the chunk in the clear -/
  | updateChunk (sess : Fin 4) (role : Byte) (tx : Word) (body : List Byte) (tag : Bool) (plain : List Byte)
  /-- UPDATE_STATE (R254). -/
  | updateState (sess : Fin 4) (role : Byte) (tx : Word) (body : List Byte)
  /-- UPDATE_ACTIVATE (R506). -/
  | updateActivate (sess : Fin 4) (role : Byte) (tx : Word) (body : List Byte)
  /-- REGISTER_WINDOW_READ (R257). -/
  | registerWindowRead (sess : Fin 4) (role : Byte) (tx : Word) (body : List Byte)
  /-- REGISTER_WINDOW_WRITE (R257). -/
  | registerWindowWrite (sess : Fin 4) (role : Byte) (tx : Word) (body : List Byte)
  /-- SESSION_IDLE (R226). -/
  | sessionIdle (sess : Fin 4)
  /-- SESSION_CLOSE (R489). -/
  | sessionClose (sess : Fin 4)
  /-- MODEM_OPEN (R262). -/
  | modemOpen
  /-- DIAL_LINE_ANSWER (R261). -/
  | dialLineAnswer (ok : Bool) (connect : Bool)
  /-- DIAL_TIMEOUT (R261). -/
  | dialTimeout
  /-- MODEM_CLOSE (R262). -/
  | modemClose
  /-- MODEM_RETRY (R262). -/
  | modemRetry
  /-- MODEM_CTS_CHANGE (R260). -/
  | modemCtsChange (asserted : Bool)
  /-- UART_OCTET (R412). Port 0 is the modem, 1 and 2 the RS-485 ports. -/
  | uartOctet (port : Fin 3) (data : Byte) (framing brk : Bool)
  /-- ETH_LINK_CHANGE (R569). -/
  | ethLinkChange (port : Fin 2) (up : Bool)
  /-- KC_FEEDBACK_CHANGE (R280). -/
  | kcFeedbackChange (k : Fin 4) (level : Bool)
  /-- CONTACTOR_FEEDBACK_TIMEOUT (R280). -/
  | contactorFeedbackTimeout (k : Fin 4)
  /-- CONTACTOR_RETRY_PULSE_END (R280). -/
  | contactorRetryPulseEnd (k : Fin 4)
  /-- ROUTE_BIN_END (R291). -/
  | routeBinEnd
  /-- ROUTE_RETUNE (R292). -/
  | routeRetune
  /-- WAVE_RECEIVED (R290). -/
  | waveReceived (grove : Fin 8) (wave : Wave)
  /-- WAVE_HOLD_END (R287). -/
  | waveHoldEnd (l : Fin 32)
  /-- CHANNEL_FAULT (R298). -/
  | channelFault (c : Fin 16)
  /-- MSEAL_CHANGE (R303). -/
  | msealChange (isOpen : Bool)
  /-- METROLOGY_REGISTER_WRITE (R304). -/
  | metrologyRegisterWrite (addr value : Word) (w : Writer)
  /-- LATCH_N_WRITE (R324). -/
  | latchNWrite (value : Word) (w : Writer)
  /-- CAL_START (R308). -/
  | calStart (value : Word) (w : Writer)
  /-- CAL_DONE (R308). The measured means, RMS and mean sample. -/
  | calDone (p q : Int) (rms : Word) (dc : Int)
  /-- PHASE_ABSENT (R310). 0 for L2, 1 for L3. -/
  | phaseAbsent (phase : Fin 2)
  /-- METER_CHECKPOINT (R321). -/
  | meterCheckpoint
  /-- REG_SEL_WRITE (R320). -/
  | regSelWrite (value : Word) (w : Writer)
  /-- PWM_FRAME_START (R353). What the frame that ended brought; NTC voltages in mV. -/
  | pwmFrameStart (meas : List ChMeas) (ntc : List (Fin 8 × Nat)) (base : Option Int)
  /-- STRING_RETRY (R361). -/
  | stringRetry (c : Fin 32)
  /-- DIE_OVERCURRENT (R345). Whether the switching period before was cut as well. -/
  | dieOvercurrent (c : Fin 32) (again : Bool)
  /-- DIE_OVERVOLTAGE (R345). -/
  | dieOvervoltage (c : Fin 32)
  /-- GATE_SUPPLY_LOW (R345). -/
  | gateSupplyLow (die : Fin 10)
  /-- GATE_SUPPLY_RESTORED (R345). -/
  | gateSupplyRestored (die : Fin 10)
  /-- STRING_LEARN (R357). -/
  | stringLearn (c : Fin 32) (w : Writer)
  /-- STRING_LEARN_DONE (R357). -/
  | stringLearnDone (c : Fin 32)
  /-- STRING_CLEAR (R361). -/
  | stringClear (c : Fin 32) (w : Writer)
  /-- DRV_CNT_CLR (R378). -/
  | drvCntClr (value : Word) (w : Writer)
  /-- NTC_FAULT (R358). -/
  | ntcFault (n : Fin 8) (mv : Nat)
  /-- HALF_FAILURE (R362). -/
  | halfFailure (die : Fin 10)
  /-- COLOUR_WINDOW_END (R363). -/
  | colourWindowEnd (port : Fin 4) (x y z c : Fin 1048576) (sat : List Bool)
  /-- TW_LEARN (R366). -/
  | twLearn (g : Fin 4) (w : Writer)
  /-- PE_START (R371). -/
  | peStart (p : Fin 8) (w : Writer)
  /-- PE_STOP (R375). -/
  | peStop (p : Fin 8) (w : Writer)
  /-- PE_TIMED_START (R371). -/
  | peTimedStart (p : Fin 8) (tick : Nat)
  /-- INC_IN_EDGE (R374). -/
  | incInEdge (rising : Bool) (tick : Nat) (sub : Fin 10)
  /-- EVAC_START (R374). -/
  | evacStart
  /-- EVAC_END (R375). -/
  | evacEnd
  /-- EVAC_RELEASE (R375). -/
  | evacRelease (w : Writer)
  /-- CLEARING_FIX (R394). the module fixes c of the next region's clearing (R394) -/
  | clearingFix
  /-- CLEARING_END (R397). CYC(c + L) of a clearing (R397) -/
  | clearingEnd
  /-- SEGMENT_DIGEST_REFRESH (R402). every 3,000 cycles (R402) -/
  | segmentDigestRefresh
  /-- QUEUE_PUSH (R406). -/
  | queuePush (q : Fin 128) (data : BitVec 64) (parity : Bool)
  /-- QUEUE_READ (R408). -/
  | queueRead (q : Fin 128) (disturb1 disturb2 : Bool)
  /-- ROW_COPY_DONE (R409). -/
  | rowCopyDone (row : Fin 544)
  /-- QUE_CNT_CLR (R428). -/
  | queCntClr (value : Word) (w : Writer)
  /-- QUEUE_PEAK_RESTART (R428). -/
  | queuePeakRestart (q : Fin 128) (value : Word)
  /-- SOURCE_FIRING (R418). -/
  | sourceFiring (source : Fin 1024) (kind : Fin 256) (payload : Word)
  /-- COALESCE_TIMEOUT (R417). -/
  | coalesceTimeout (source : Fin 1024)
  /-- EVT_DONE (R418). -/
  | evtDone (engine : Fin 16) (value : Word)
  /-- RING_CONS_WRITE (R420). -/
  | ringConsWrite (engine : Fin 16) (prio : Fin 4) (value : Word)
  /-- RING_CFG_WRITE (R420). -/
  | ringCfgWrite (engine : Fin 16) (prio : Fin 4) (value : Word)
  /-- RING_MASK_WRITE (R423). -/
  | ringMaskWrite (engine : Fin 16) (value : Word)
  /-- HANDLER_ENTRY (R424). -/
  | handlerEntry (engine : Fin 16)
  /-- HANDLER_EXIT (R425). -/
  | handlerExit (engine : Fin 16)
  /-- DIVERGENCE (R432). `cls` 0 to 7 for the rows 1 to 8 of Table 12.5. -/
  | divergence (cls : Fin 8) (pin : BitVec 16) (tag : BitVec 64)
  /-- HEARTBEAT_LOST (R434). `hold` is the hold's length in 10 ns, where it ends with this. -/
  | heartbeatLost (stand : Stand) (hold : Word)
  /-- STAND_CLAIM (R434). -/
  | standClaim (stand : Stand)
  /-- WITHDRAW (R435). causes as bits of Table 12.1 -/
  | withdraw (stand : Stand) (causes : Fin 64) (hold : Word)
  /-- DIAGNOSIS_ANSWER (R435). no cause: NO_FAULT -/
  | diagnosisAnswer (stand : Stand) (causes : Fin 128) (hold : Word)
  /-- DIAGNOSIS_TIMEOUT (R435). -/
  | diagnosisTimeout (hold : Word)
  /-- FORD_OUTVOTE (R433). the fabric cycle -/
  | fordOutvote (copy : Fin 3) (cycle : Nat)
  /-- STAND_TEST_DONE (R438). -/
  | standTestDone (stand : Stand) (pass : Bool)
  /-- LEARNING_COPY_DONE (R439). -/
  | learningCopyDone
  /-- PROBATION_END (R439). -/
  | probationEnd
  /-- PLANNED_SWITCH_REQUEST (R448). -/
  | plannedSwitchRequest (w : Writer)
  /-- SAFE_HOLD_RESUME (R447). `agree`, `out`: how Ford's copies vote after a vote failure (R612). -/
  | safeHoldResume (stand : Stand) (agree : Bool) (out : Fin 3) (w : Writer)
  /-- SAFE_HOLD_RESUME_FORCE (R447). -/
  | safeHoldResumeForce (stand : Stand) (agree : Bool) (out : Fin 3) (w : Writer)
  /-- STAND_RELEASE (R438). -/
  | standRelease (stand : Stand) (w : Writer)
  /-- CLOCK_SELECT (R449). -/
  | clockSelect (sel : Fin 2) (w : Writer)
  /-- TCXO_LOST (R449). -/
  | tcxoLost (which : Fin 2)
  /-- TCXO_PRESENT (R449). -/
  | tcxoPresent (which : Fin 2) (ofs : Int)
  /-- LASTGASP_CLEAR (R451). -/
  | lastgaspClear (w : Writer)
  /-- SLICE_FIX (R458). handover `lead` + 1 cycles ahead -/
  | sliceFix (stand : Stand) (lead : Fin 16)
  /-- SLICE_RUN_END (R459). -/
  | sliceRunEnd (stand : Stand) (kind : Fin 8) (index : Fin 8192) (patterns : Word) (complete : Bool) (misr expected : BitVec 64)
  /-- COPPICE_STARVED (R465). -/
  | coppiceStarved (stand : Stand) (kind : Fin 8) (index : Fin 8192)
  /-- IDLE_PATH_SLICE (R467). -/
  | idlePathSlice (item : Fin 10)
  /-- IDLE_PATH_END (R467). -/
  | idlePathEnd (pass : Bool)
  /-- COPPICE_RUN (R471). the unit is the one COP_CMD_UNIT names -/
  | coppiceRun (w : Writer)
  /-- COPPICE_DESTRUCT (R469). -/
  | coppiceDestruct (run : Bool) (w : Writer)
  /-- SUSPECT_RELEASE (R461). -/
  | suspectRelease (kind : Fin 8) (index : Fin 65536) (w : Writer)
  /-- COP_CNT_CLR (R471). -/
  | copCntClr (w : Writer)
  /-- KEY_WRITE (R478). -/
  | keyWrite (slot : Fin 64) (w : Writer)
  /-- KEY_DERIVE (R480). -/
  | keyDerive (slot : Fin 64) (w : Writer)
  /-- KEY_GENERATE (R479). -/
  | keyGenerate (slot : Fin 64) (w : Writer)
  /-- KEY_ERASE (R483). -/
  | keyErase (slot : Fin 64) (w : Writer)
  /-- ROTATE_GROVE (R485). -/
  | rotateGrove (w : Writer)
  /-- KEY_COMMAND_COMPLETE (R479). -/
  | keyCommandComplete
  /-- KEY_SLOT_EXPIRY (R484). -/
  | keySlotExpiry (slot : Fin 64)
  /-- ATTEST (R486). -/
  | attest (w : Writer)
  /-- TAMPER_INPUT_CHANGE (R490). -/
  | tamperInputChange (n : Fin 4) (high : Bool) (tick : Nat) (sub : Fin 10)
  /-- TAMPER_QUALIFIED (R491). -/
  | tamperQualified (n : Fin 4) (tick : Nat)
  /-- MESH_CHECK (R490). -/
  | meshCheck (ok : Bool)
  /-- KEY_TMP_MAINT (R491). -/
  | keyTmpMaint (value : Word) (w : Writer)
  /-- MAINT_WINDOW_END (R491). -/
  | maintWindowEnd
  /-- KEY_TMP_CLEAR (R497). -/
  | keyTmpClear (value : Word) (w : Writer)
  /-- VALIDATION_DONE (R507). -/
  | validationDone (decrypted signed : Bool)
  /-- STAGED (R512). the BMC the new image measures -/
  | staged (measured : BitVec 256) (areaGood : Bool)
  /-- SHADOW_CAUGHT_UP (R512). -/
  | shadowCaughtUp
  /-- CATCHUP_TIMEOUT (R512). -/
  | catchupTimeout
  /-- SHADOW_END (R512). -/
  | shadowEnd
  /-- CONFIRM_WINDOW_END (R515). -/
  | confirmWindowEnd
  /-- CONFIRM_CHECK_FAIL (R515). -/
  | confirmCheckFail (check : Fin 7) (reason : Reason)
  /-- REBOOT_DONE (R517). -/
  | rebootDone (measured : BitVec 256) (areaGood : Bool)
  /-- UPDATE_LAPSE (R505). -/
  | updateLapse
  /-- UPDATE_ABORT (R520). -/
  | updateAbort (w : Writer)
  /-- WAYBILL_HAPPENING (R528). -/
  | waybillHappening (stand : Stand) (role : Role) (source id : Nat) (reason : Reason) (tagged : Bool) (payload : List Byte) (tick : Nat)
  /-- RECORDER_WRITE (R527). -/
  | recorderWrite (readBack : ReadBack)
  /-- WAY_CNT_CLR (R542). -/
  | wayCntClr (value : Word) (w : Writer)
  /-- MON_HELP (R540). -/
  | monHelp
  /-- MON_LOGIN (R539). -/
  | monLogin (role : Role)
  /-- MON_PROOF (R539). -/
  | monProof (proof : List Byte)
  /-- MON_PROOF_LAPSE (R539). -/
  | monProofLapse
  /-- MON_LOGOUT (R540). -/
  | monLogout
  /-- MON_BAUD (R540). -/
  | monBaud (rate : Nat)
  /-- MON_SEL (R540). -/
  | monSel (stand : Stand)
  /-- MON_RD (R540). -/
  | monRd (addr : Word) (count : Nat)
  /-- MON_WR (R540). -/
  | monWr (addr value : Word)
  /-- MON_Q (R540). -/
  | monQ (q count : Nat)
  /-- MON_WB (R540). -/
  | monWb (seq count : Nat)
  /-- MON_WBCLEAR (R533). -/
  | monWbclear (seq : Nat)
  /-- MON_STATUS (R540). -/
  | monStatus
  /-- MON_COP (R540). -/
  | monCop
  /-- MON_DROVER (R540). -/
  | monDrover
  /-- MON_ATT (R540). -/
  | monAtt (chal : List Byte)
  /-- MON_TAMPER_MAINT (R540). -/
  | monTamperMaint (minutes : Nat)
  /-- MON_TAMPER_CLEAR (R540). -/
  | monTamperClear
  /-- MON_RFTX (R541). power in 0.25 dB from 0 dBm -/
  | monRftx (phy channel power seconds : Nat)
  /-- RFTX_END (R541). -/
  | rftxEnd
  /-- MON_UNKNOWN (R538). -/
  | monUnknown (malformed : Bool)
  /-- MON_MUTE_END (R538). -/
  | monMuteEnd
  /-- MON_IDLE (R538). -/
  | monIdle
  /-- KC_OVERCURRENT (R557). -/
  | kcOvercurrent (k : Fin 4)
  /-- KC_OPEN_LOAD (R557). -/
  | kcOpenLoad (k : Fin 4) (isOpen : Bool)
  /-- MOD_POWER_OVERCURRENT (R551). -/
  | modPowerOvercurrent (ma : Fin 65536) (ok : Bool)
  /-- SUPPLY_INPUT_CHANGE (R572). `b` names SUPPLY_B; voltages in 10 mV -/
  | supplyInputChange (b : Bool) (x : SupplyState) (voltA voltB : Fin 65536)
  /-- SUPPLY_RETURN (R572). -/
  | supplyReturn
  /-- POWER_FAIL (R573). the sums of the cycle in progress -/
  | powerFail (tick : Nat) (sums : List PhaseSum)
  /-- POWER_DIP (R580). -/
  | powerDip
  /-- HOLDOVER_STOP (R578). -/
  | holdoverStop
  /-- RETENTION_LOST (R586). -/
  | retentionLost
  /-- VOLTAGE_MONITOR (R573). -/
  | voltageMonitor (stand : Stand) (hold : Word)
  /-- DORMANCY_ENTER (R582). -/
  | dormancyEnter (value : Word) (w : Writer)
  /-- DORMANCY_AUTO (R582). -/
  | dormancyAuto
  /-- DORMANCY_ENTRY (R583). -/
  | dormancyEntry
  /-- DORMANCY_POWER_DOWN (R583). -/
  | dormancyPowerDown
  /-- DORMANCY_WAKE (R585). `source` as SYS_DORM_STATUS codes it; `good`: the retention CRC holds -/
  | dormancyWake (source : Fin 6) (seconds : Nat) (good : Bool)
  /-- THERMAL_HOT (R588). -/
  | thermalHot (temp : Int)
  /-- THERMAL_TRIP (R588). -/
  | thermalTrip (temp : Int) (tick : Nat) (sums : List PhaseSum)
  /-- THERMAL_RELEASE (R588). -/
  | thermalRelease (temp : Int)
  /-- PEAK_RESTART (R589). -/
  | peakRestart (w : Writer)
  /-- POWER_UP (R591). `b` names SUPPLY_B; base plate in 0.1 degrees -/
  | powerUp (b : Bool) (voltA voltB : Fin 65536) (base : Int) (good : Bool)
  /-- BOOT_MEASUREMENT (R481). -/
  | bootMeasurement (stand : Stand) (drover firmware : BitVec 256) (good backup : Bool)
  /-- CANOPY_LOADED (R591). -/
  | canopyLoaded (octets : List Byte)
  /-- PREF_TIMEOUT (R593). -/
  | prefTimeout (tick : Nat)
  /-- MODULE_RESET (R599). -/
  | moduleReset (value : Word) (w : Writer)
  /-- REGISTER_WRITE (R17). -/
  | registerWrite (addr value : Word) (w : Writer)
  /-- PHASE_VALID_CROSSING (R310). -/
  | phaseValidCrossing (phase : Fin 2)
  /-- UNIT_FALLS_DUE (R455). -/
  | unitFallsDue (stand : Stand) (kind : Fin 8) (index : Fin 8192)
  /-- STAND_REWRITTEN (R512). -/
  | standRewritten (stand : Stand)
  /-- STORE_RECHARGED (R576). -/
  | storeRecharged (mj : Fin 65536) (pct : Fin 256)
  /-- RS485_IDLE_AFTER_FRAME (R413). -/
  | rs485IdleAfterFrame (port : Fin 2)
  deriving DecidableEq, Repr

end Sys2Proof
end

