-- ==== Sys2Proof/Decode.lean ====
section
/-! DEFINITION. The command a word spells. The table of operations gives no row any bits, so no word
spells a command (log 1). -/

namespace Sys2Proof

/-- The command that a word of the table spells: none, since no row has bits. -/
def decodeTableWord (_nbits _w : Nat) : Option Instr :=
  none

end Sys2Proof
end

