-- ==== Sys2Proof/Config.lean ====
section
/-! DEFINITION. What an implementation fixes and what the spec leaves open. Every opaque constant here
has no body: no statement can lean on a value of it. Each one is named in the assumption log. -/

namespace Sys2Proof.Config

/-- SHA-256 over octets, by name only in the spec (R159, R391, R401, R402, R480, R481). Log 10. -/
opaque sha256 : List Byte → BitVec 256

/-- HMAC-SHA-256 (R227, R480, R486, R539): key octets and message octets. Log 10. -/
opaque hmac : BitVec 256 → List Byte → BitVec 256

/-- CCM* under an AES-128 key (R135, R152): the octets of a protected body. Log 10. -/
opaque ccm : BitVec 256 → List Byte → List Byte

/-- The random bit generator of Ford (R431): the word of the n-th draw. Log 11. -/
opaque rbg : Nat → BitVec 256

/-- The value a slot holds when the module leaves the factory (R477). Log 20. -/
opaque factoryKey : Nat → BitVec 256

/-- A value the spec leaves open where the machine goes on: the n-th one drawn. Log 12. -/
opaque freeNat : Nat → Nat

/-- A signed value the spec leaves open where the machine goes on: the n-th one drawn. Log 12. -/
opaque freeInt : Nat → Int

/-- Whether a quotient whose rounding the spec does not state is rounded up: dividend and divisor. Log 18. -/
opaque roundUp : Int → Nat → Bool

/-- The first city second, at or after a given one, at which the sun's apparent elevation at a latitude and longitude
crosses an elevation, rising or falling; `none` when it never does (R267). The spec gives no algorithm, only an
accuracy. Log 13. -/
opaque sunCrossing : Nat → Int → Int → Int → Bool → Option Nat

/-- Whether the sun stands above an elevation at a city time (R268). Log 13. -/
opaque sunAbove : Nat → Int → Int → Int → Bool

/-- (1 - cos (pi a / b)) / 2 in units of 2^-32, for a fraction a / b (R370). Log 14. -/
opaque sineBlend : Nat → Nat → Nat

/-- What the 16 duty bits of DRV_CHs_SETPT show at a duty of 100 %, in 2^-16 (Table 9.10). Log 14. -/
opaque fullDuty : BitVec 16

/-- X, Y, Z of the warm, then of the cool primary of a group without learned primaries: "from the canopy",
which has no field for them (R366). Log 14. -/
opaque canopyPrimaries : Nat → List Int

/-- Temperature in 0.1 degrees of an NTC input, from its configuration word and its voltage in mV (R358): the
spec names R25 and B and gives no formula. Log 14. -/
opaque ntcTemperature : Nat → Nat → Int

/-- PSDU cap of an OFDM option and MCS at a nominal frequency; the rates rest on IEEE 802.15.4 (R103). Log 15. -/
opaque ofdmCap : Nat → Nat → Nat → Nat

/-- Airtime in microseconds of a PSDU under an OFDM option and MCS (R102, R103). Log 15. -/
opaque ofdmAirtime : Nat → Nat → Nat → Nat

/-- Whether the engine time and MAC tile queue space an admission needs fit at a CN (R193, R197):
the spec gives the share but not the cost of a transaction. Log 16. -/
opaque engineFits : List Nat → Bool

/-- Slots from a frame's arrival at a link to the link's next installed bulk cell (R207): the
engines place bulk cells freely (R112). Log 17. -/
opaque bulkWait : Nat → Nat → Nat

/-- Whether a slot of the 400 of SF-Bulk is a bulk cell of a grove's link to a neighbour, and whether the
module sends in it: the engines' free choice (R112). Log 17. -/
opaque bulkCell : Nat → Nat → Nat → Bool × Bool

/-- Whether the bulk cells of a grove's link to a neighbour use J1 rather than J0: the engines' choice (R115). Log 17. -/
opaque bulkJ1 : Nat → Nat → Bool

/-- The keepalive phase, join cells and bulk cells of a SCHEDULE for a node (R156): the engines'
free choice. Log 17. -/
opaque scheduleChoice : Nat → List Byte

/-- The major version of a template in a template set, by the set's digest and the template's id: the spec gives the
field and no numbers (R385, Table 10.6). Log 22. -/
opaque templateVersion : BitVec 256 → Nat → Nat

end Sys2Proof.Config
end

