-- ==== Sys2Proof/Machine/Tables.lean ====
section
/-! DEFINITION. Operations over sparse tables and over lists by index. -/

namespace Sys2Proof.Machine

/-- The value a table holds under a key. -/
def tget {α : Type} (k : Nat) : Table α → Option α
  | [] => none
  | (j, v) :: r => if j = k then some v else if k < j then none else tget k r

/-- The table with a key's value replaced or added. -/
def tput {α : Type} (k : Nat) (v : α) : Table α → Table α
  | [] => [(k, v)]
  | (j, w) :: r => if j = k then (k, v) :: r else if k < j then (k, v) :: (j, w) :: r else (j, w) :: tput k v r

/-- The table without a key. -/
def tdel {α : Type} (k : Nat) : Table α → Table α
  | [] => []
  | (j, w) :: r => if j = k then r else if k < j then (j, w) :: r else (j, w) :: tdel k r

/-- The table with a key's value changed, where it has one. -/
def tmod {α : Type} (k : Nat) (f : α → α) (t : Table α) : Table α :=
  match tget k t with
  | some v => tput k (f v) t
  | none => t

/-- Keys rise strictly. -/
def tsorted {α : Type} : Table α → Bool
  | [] => true
  | [_] => true
  | (j, _) :: (k, v) :: r => decide (j < k) && tsorted ((k, v) :: r)

/-- The list with the element at an index changed; unchanged beyond its end. -/
def lmod {α : Type} (f : α → α) : Nat → List α → List α
  | _, [] => []
  | 0, x :: r => f x :: r
  | n + 1, x :: r => x :: lmod f n r

/-- The list with the element at an index replaced. -/
def lset {α : Type} (n : Nat) (v : α) (l : List α) : List α :=
  lmod (fun _ => v) n l

/-- The element at an index, or a value beyond the end. -/
def lget {α : Type} (d : α) : Nat → List α → α
  | _, [] => d
  | 0, x :: _ => x
  | n + 1, _ :: r => lget d n r

/-- The numbers `n` to `n + c - 1`. -/
def upFrom (n : Nat) : Nat → List Nat
  | 0 => []
  | c + 1 => n :: upFrom (n + 1) c

/-- Apply a step for each element of a list, from its head. -/
def forEach {α σ : Type} (f : α → σ → σ) : List α → σ → σ
  | [], s => s
  | x :: r, s => forEach f r (f x s)

/-- How many elements satisfy a test. -/
def countIf {α : Type} (p : α → Bool) (l : List α) : Nat :=
  (l.filter p).length

/-- The sum of a list of integers. -/
def sumInt : List Int → Int
  | [] => 0
  | x :: r => x + sumInt r

/-- The least of a list of naturals, or a value where it is empty. -/
def minOr (d : Nat) : List Nat → Nat
  | [] => d
  | x :: r => r.foldl min x

/-- The greatest of a list of naturals; 0 where it is empty. -/
def maxOf (l : List Nat) : Nat :=
  l.foldl max 0

/-- Insert into a rising list of integers. -/
def insertInt (x : Int) : List Int → List Int
  | [] => [x]
  | y :: r => if x ≤ y then x :: y :: r else y :: insertInt x r

/-- A list of integers in rising order. -/
def sortInt : List Int → List Int
  | [] => []
  | x :: r => insertInt x (sortInt r)

end Sys2Proof.Machine
end

