-- ==== Sys2Proof/Machine/Bits.lean ====
section
/-! DEFINITION. Bit fields, octet order, sign and check codes (R13, R604, R526). -/

namespace Sys2Proof.Machine

/-- Bits hi:lo of a number. -/
def field (hi lo x : Nat) : Nat :=
  (x >>> lo) % 2 ^ (hi + 1 - lo)

/-- Bit n of a number. -/
def bit (n x : Nat) : Bool :=
  x.testBit n

/-- A Boolean as a bit at place n. -/
def flag (b : Bool) (n : Nat) : Nat :=
  if b then 2 ^ n else 0

/-- A number's low bits at place lo. -/
def place (width lo x : Nat) : Nat :=
  (x % 2 ^ width) <<< lo

/-- A list of Booleans as bits from place lo upward. -/
def flags (l : List Bool) (lo : Nat) : Nat :=
  match l with
  | [] => 0
  | b :: r => flag b lo + flags r (lo + 1)

/-- A signed number's two's complement code of a width. -/
def twos (width : Nat) (x : Int) : Nat :=
  (x % (2 ^ width : Nat)).toNat

/-- The signed number a two's complement code of a width stands for. -/
def ofTwos (width x : Nat) : Int :=
  if x % 2 ^ width < 2 ^ (width - 1) then ((x % 2 ^ width : Nat) : Int)
  else ((x % 2 ^ width : Nat) : Int) - (2 ^ width : Nat)

/-- A count held at most at a limit. -/
def satAdd (limit x n : Nat) : Nat :=
  min limit (x + n)

/-- One more, in a 32-bit saturating counter. -/
def bump (x : Nat) : Nat :=
  satAdd 0xFFFFFFFF x 1

/-- A number as n octets, the least significant first (R13). -/
def le : Nat → Nat → List Byte
  | 0, _ => []
  | n + 1, x => BitVec.ofNat 8 x :: le n (x / 256)

/-- A signed number as n octets, the least significant first. -/
def leInt (n : Nat) (x : Int) : List Byte :=
  le n (twos (8 * n) x)

/-- The number octets stand for, the least significant first. -/
def ofLe : List Byte → Nat
  | [] => 0
  | b :: r => b.toNat + 256 * ofLe r

/-- Octets cut or filled with zeros to a length. -/
def padTo (n : Nat) (l : List Byte) : List Byte :=
  (l ++ List.replicate n 0).take n

/-- Octets i to i + n - 1. -/
def slice (i n : Nat) (l : List Byte) : List Byte :=
  (l.drop i).take n

/-- One bit of the reflected CRC-32 of R604. -/
def crc32Bits : Nat → Nat → Nat
  | 0, c => c
  | n + 1, c => crc32Bits n (if c % 2 = 1 then (c / 2) ^^^ 0xEDB88320 else c / 2)

/-- The CRC-32 of R604 over octets. -/
def crc32 (l : List Byte) : Nat :=
  (l.foldl (fun c b => crc32Bits 8 (c ^^^ b.toNat)) 0xFFFFFFFF) ^^^ 0xFFFFFFFF

/-- Bits of the CRC-16 of R526 and R111. -/
def crc16Bits : Nat → Nat → Nat
  | 0, c => c
  | n + 1, c => crc16Bits n (if c / 0x8000 % 2 = 1 then (c * 2 % 0x10000) ^^^ 0x1021 else c * 2 % 0x10000)

/-- The CRC-16 (polynomial 0x1021, initial 0xFFFF, no reflection) over octets. -/
def crc16 (l : List Byte) : Nat :=
  l.foldl (fun c b => crc16Bits 8 (c ^^^ (b.toNat * 256))) 0xFFFF

/-- A quotient rounded to the nearest, halves away from zero. -/
def nearest (a : Int) (b : Nat) : Int :=
  if a ≥ 0 then (2 * a + b) / (2 * b) else -((2 * (-a) + b) / (2 * b))

/-- The 256-bit value octets stand for. -/
def ofOctets256 (l : List Byte) : BitVec 256 :=
  BitVec.ofNat 256 (ofLe (padTo 32 l))

/-- A 256-bit value as 32 octets. -/
def octets256 (v : BitVec 256) : List Byte :=
  le 32 v.toNat

/-- ASCII text as octets. -/
def ascii (t : String) : List Byte :=
  t.toList.map fun c => BitVec.ofNat 8 c.toNat

/-- The code of a reason (Table 0.4). -/
def reasonCode : Reason → Nat
  | .ok => 0x00
  | .malformed => 0x01
  | .unsupported => 0x02
  | .notAuthorised => 0x03
  | .replay => 0x04
  | .busy => 0x05
  | .noCapacity => 0x06
  | .tooLate => 0x07
  | .targetStray => 0x08
  | .targetAbsent => 0x09
  | .keyWithered => 0x0A
  | .digestMismatch => 0x0B
  | .tampered => 0x0C
  | .storageFault => 0x0D
  | .promiseBroken => 0x0E
  | .safeHold => 0x0F
  | .dutyBudget => 0x10
  | .sealClosed => 0x11

/-- The reason a code stands for; a reserved code names none (R14). -/
def reasonOf : Nat → Option Reason
  | 0x00 => some .ok
  | 0x01 => some .malformed
  | 0x02 => some .unsupported
  | 0x03 => some .notAuthorised
  | 0x04 => some .replay
  | 0x05 => some .busy
  | 0x06 => some .noCapacity
  | 0x07 => some .tooLate
  | 0x08 => some .targetStray
  | 0x09 => some .targetAbsent
  | 0x0A => some .keyWithered
  | 0x0B => some .digestMismatch
  | 0x0C => some .tampered
  | 0x0D => some .storageFault
  | 0x0E => some .promiseBroken
  | 0x0F => some .safeHold
  | 0x10 => some .dutyBudget
  | 0x11 => some .sealClosed
  | _ => none

/-- A role's number (R539): 0 none, 1 OPERATOR, 2 INSTALLER, 3 MAKER. -/
def roleCode : Role → Nat
  | .nobody => 0
  | .operator => 1
  | .installer => 2
  | .maker => 3

end Sys2Proof.Machine
end

