-- ==== Sys2Proof/Machine/Types/Evt.lean ====
section
/-! DEFINITION. State of the queues and of the event controller (11). -/

namespace Sys2Proof.Machine

/-- A word of the queue SRAM: 64 data bits and the parity bit as stored (R404, R408). -/
structure QWord where
  data : Nat
  parity : Bool
  deriving DecidableEq, Repr

/-- A used queue: its QUEUE record (R386, R404) and its fill (R405 to R410). -/
structure QueueSt where
  depth : Nat
  high : Nat
  low : Nat
  fcEn : Bool := false
  producer : Nat := 0
  consumer : Nat := 0
  /-- Words held, oldest first. -/
  words : List QWord := []
  /-- SRAM word index of the head, from the queue's first word (R404). -/
  head : Nat := 0
  above : Bool := false
  overrun : Bool := false
  poisoned : Bool := false
  peak : Nat := 0
  ovrCount : Nat := 0
  deriving DecidableEq, Repr

/-- The QUE block (R404-R412, R428). -/
structure QueSt where
  /-- Used queues by index, rising. -/
  queues : Table QueueSt := []
  transient : Nat := 0
  poison : Nat := 0
  /-- Rows felled, with whether the copy to the spare is complete (R409). -/
  felled : List (Nat × Bool) := []
  thin : Bool := false
  deriving DecidableEq, Repr

/-- A route of EVENT_ROUTES (R387, R415). -/
structure Route where
  engine : Fin 16
  prio : Fin 4
  en : Bool
  count : Nat
  timeUs : Nat
  deriving DecidableEq, Repr

/-- Source states of Table 11.5; a source not listed is IDLE. -/
inductive SrcState where
  | gathering
  | active
  | activePending
  deriving DecidableEq, Repr

/-- A source that is not IDLE (R417, R418). -/
structure SrcSt where
  state : SrcState
  /-- Its record is due (R417). -/
  due : Bool := false
  held : Bool := false
  count : Nat := 1
  overflow : Bool := false
  stamp : Nat := 0
  kind : Nat := 0
  payload : Nat := 0
  deriving DecidableEq, Repr

/-- An event record of Table 11.4. -/
structure EvRec where
  source : Nat
  kind : Nat
  activePending : Bool
  coalesced : Bool
  overflow : Bool
  count : Nat
  stamp : Nat
  payload : Nat
  deriving DecidableEq, Repr

/-- One ring (R420): base, log2 of the size (0 before CFG is written), indices and records held. -/
structure Ring where
  base : Nat := 0
  log2 : Nat := 0
  prod : Nat := 0
  cons : Nat := 0
  records : List EvRec := []
  deriving DecidableEq, Repr

/-- One logical engine (R420, R423, R424). -/
structure EngSt where
  rings : List Ring := [{}, {}, {}, {}]
  mask : Nat := 15
  /-- Priority running; 4 at the base level. -/
  level : Nat := 4
  /-- Levels whose frame is saved: 1 to 3 the priorities, 4 the base level. -/
  frames : List Nat := []
  deriving DecidableEq, Repr

/-- What the retention registers hold (R427). -/
structure Retained where
  en : Bool
  routes : Table Route
  engs : List EngSt
  gathering : Table SrcSt
  /-- Queue words discarded at power-down. -/
  discarded : Nat
  deriving DecidableEq, Repr

/-- The EVT block (R413-R429). -/
structure EvtSt where
  en : Bool := false
  retained : Bool := false
  restoreFail : Bool := false
  badDone : Bool := false
  badCons : Bool := false
  heldCount : Nat := 0
  saturated : Nat := 0
  routes : Table Route := []
  srcs : Table SrcSt := []
  /-- Sources suppressed while their region is cleared (R397). -/
  suppressed : List Nat := []
  engs : List EngSt := List.replicate 16 {}
  image : Option Retained := none
  deriving DecidableEq, Repr

end Sys2Proof.Machine
end

