-- ==== Sys2Proof/Machine/Types/Ford.lean ====
section
/-! DEFINITION. State of Ford and the stands (12), and of coppice and the understory (13). -/

namespace Sys2Proof.Machine

/-- The stand states of Table 12.3, with the codes of Table 12.11. -/
inductive StandState where
  | active
  | standby
  | learning
  | withdrawn
  | quarantined
  | absent
  deriving DecidableEq, Repr

/-- What Ford holds of one stand. -/
structure StandSt where
  state : StandState := .active
  /-- Causes of the last diagnosis (Table 12.1 bits). -/
  causes : Nat := 0
  diagnoses : Nat := 0
  /-- CNs of withdrawals since the last RELEASE (R438). -/
  withdrawals : List Cn := []
  /-- A stand test runs, or its result is awaited (R438, R468). -/
  testing : Bool := false
  /-- Its first run failed, and this is the retry (Table 12.3). -/
  retry : Bool := false
  /-- Its stand test has passed in a SAFE HOLD that a pass does not end (R612). -/
  passed : Bool := false
  /-- End CN of probation (R439). -/
  probationEnd : Option Cn := none
  /-- Divergences in probation within this LEARNING (R439). -/
  probationDivs : Nat := 0
  /-- The image this stand runs is not the module's current one (Table 15.14 MIXED). -/
  otherImage : Bool := false
  /-- The stand is being rewritten by the Drover and then enters LEARNING (R506, R516). -/
  rewriting : Bool := false
  deriving DecidableEq, Repr

/-- A diagnosis Ford has asked for (R435, R437). -/
structure Diagnosis where
  /-- The cause code of FORD_CAUSE (Table 12.9). -/
  cause : Nat
  answerA : Option Nat := none
  answerB : Option Nat := none
  /-- The active stand asserted WITHDRAW (Table 12.2). -/
  withdrew : Bool := false
  deriving DecidableEq, Repr

/-- A planned switch that awaits its CYC (R448). -/
structure PlannedSwitch where
  target : Stand
  notBefore : Cn
  /-- Asked for by the Drover rather than an installer. -/
  drover : Bool := false
  role : Role := .nobody
  deriving DecidableEq, Repr

/-- The FORD block (R430-R453, Tables 12.9 to 12.11). -/
structure FordSt where
  a : StandSt := {}
  b : StandSt := { state := .learning }
  active : Stand := .a
  safeHold : Bool := false
  /-- SAFE HOLD came from a vote failure (R612). -/
  voteHold : Bool := false
  probation : Bool := false
  svc : Stand := .a
  /-- 0 TCXO_A, 1 TCXO_B, 2 internal. -/
  ref : Nat := 0
  degraded : Bool := false
  holding : Bool := false
  switch : Option PlannedSwitch := none
  /-- The stand a RESUME named that waits for its test result (R447). -/
  resume : Option Stand := none
  cause : Nat := 0
  decision : Nat := 0
  switches : Nat := 0
  divergences : Nat := 0
  unresolved : Nat := 0
  divClass : Nat := 0
  divPin : Nat := 0
  divTag : Nat := 0
  holdTime : Nat := 0
  lostA : Bool := false
  lostB : Bool := false
  clkSwitches : Nat := 0
  clkOfs : Int := 0
  holdCn : Cn := 0
  votes : List Nat := [0, 0, 0]
  /-- The copy outvoted in the last fabric cycle that had an outvote, and that cycle. -/
  lastOutvote : Option (Nat × Nat) := none
  masked : Option Nat := none
  diag : Option Diagnosis := none
  /-- Claims received and not yet decided (R434). -/
  claimA : Bool := false
  claimB : Bool := false
  /-- Ford's shadow of CN and slot length in ns (R446). -/
  shadowCn : Cn := 0
  shadowSlot : Nat := 0
  /-- Beacon frame counters left per grove (R446). -/
  reserve : List Nat := List.replicate 8 1048576
  /-- Grove key generation Ford holds per grove; 0 when zeroised (R446). -/
  keys : List Nat := List.replicate 8 0
  /-- Last-gasp record octets (R451). -/
  lg : List Byte := List.replicate 32 0
  lgValid : Bool := false
  lgMore : Nat := 0
  /-- Output class out of comparison for an idle-path slice (R467). -/
  idleClass : Option Nat := none
  /-- QUARANTINED held in Ford's store (R590) is the state of `a` and `b`; PREF and SEL are registers. -/
  pref : Stand := .a
  deriving DecidableEq, Repr

/-- A unit of Table 13.1: stand (stand A for common kinds), kind 0 to 7 and index. -/
structure UnitId where
  stand : Stand
  kind : Nat
  index : Nat
  deriving DecidableEq, Repr

/-- The unit states of Table 13.8. -/
inductive UnitState where
  | active
  | understory
  | underTest
  | suspect
  | felled
  deriving DecidableEq, Repr

/-- What coppice holds of one unit (R455, R461, R465, Table 13.8). A unit without a mark is ACTIVE when
it carries a function and UNDERSTORY when it does not. -/
structure UnitSt where
  id : UnitId
  mark : Option UnitState := none
  lastCn : Cn := 0
  due : Option Cn := none
  transients : Nat := 0
  starved : Bool := false
  deferReason : Nat := 0
  deriving DecidableEq, Repr

/-- A slice that is fixed or runs (R458, Table 13.3): the stand that runs it, and what the victim carried (a
tile slot, a logical engine, a transceiver's grove, an input channel, a die half), if it carried anything. -/
structure Slice where
  unit : UnitId
  by_ : Stand
  carrier : Option Nat
  victim : Option Nat := none
  c : Cn
  started : Bool := false
  retest : Bool := false
  destructive : Bool := false
  /-- Its test has ended; the victim joins the pool at the next CYC, SUSPECT where `suspect`. -/
  ended : Bool := false
  suspect : Bool := false
  deriving DecidableEq, Repr

/-- The COP block (R454-R472, Tables 13.6 to 13.8). -/
structure CopSt where
  /-- Units of which coppice holds anything. -/
  units : List UnitSt := []
  slices : List Slice := []
  lastKind : Nat := 0
  lastIndex : Nat := 0
  lastResult : Nat := 0
  lastIcause : Nat := 0
  lastCn : Cn := 0
  lastPat : Nat := 0
  misr : Nat := 0
  expected : Nat := 0
  passes : Nat := 0
  transients : Nat := 0
  incompletes : Nat := 0
  fellings : Nat := 0
  deferrals : Nat := 0
  thin : List Bool := List.replicate 8 false
  /-- Unit commanded by COP_CMD.RUN, and whether DESTRUCT allows it (R469, R471). -/
  command : Option (UnitId × Bool) := none
  /-- Idle-path slice of the standby: item 0 to 7 an output class, 8 checkers, 9 withdrawal path. -/
  idle : Option Nat := none
  idleRetest : Bool := false
  deriving DecidableEq, Repr

end Sys2Proof.Machine
end

