-- ==== Sys2Proof/Machine/Types/Fsp.lean ====
section
/-! DEFINITION. State of the segment protocol (06). -/

namespace Sys2Proof.Machine

/-- A role challenge that waits for its proof (R226, R227, R238). -/
structure Challenge where
  role : Role
  headNonce : List Byte
  moduleNonce : List Byte
  cn : Cn
  deriving DecidableEq, Repr

/-- An FSP session (R222, R226, R232, R233, R489). -/
structure Session where
  /-- 0 J5 port 0, 1 J5 port 1, 2 PRP, 3 modem (Table 6.5). -/
  path : Nat
  /-- Value of the TLS exporter (R227). -/
  exporter : List Byte := []
  role : Role := .nobody
  challenge : Option Challenge := none
  /-- CN since which the session holds a role. -/
  roleSince : Option Cn := none
  subscribe : Bool := false
  head : Nat := 0
  lastMessage : Cn := 0
  violations : List Cn := []
  /-- Push sequences sent and not acknowledged, and those not yet sent to this session (R233). -/
  unacked : List Nat := []
  unsent : List Nat := []
  /-- Uses counted for the ROLE_SUMMARY record (R489). -/
  admits : Nat := 0
  reads : Nat := 0
  others : Nat := 0
  deriving DecidableEq, Repr

/-- A kept ADMIT answer (R231): id, digest octets, and the answer, `none` while it awaits decision. -/
structure Kept where
  tx : Nat
  digest : Nat
  answer : Option (Nat × List Byte) := none
  deriving DecidableEq, Repr

/-- An unsettled push (R232, R235): sequence, type and body. -/
structure Push where
  seq : Nat
  type : Nat
  body : List Byte
  deriving DecidableEq, Repr

/-- A configuration table (R249, R613): entries accepted, entries in force, and the CN at which the
accepted ones take effect. An entry is its octets. -/
structure Table6 where
  accepted : List (List Byte) := []
  inForce : List (List Byte) := []
  effective : Option Cn := none
  /-- A REPLACE stands among the accepted requests not yet in force (R293). -/
  replaced : Bool := false
  deriving DecidableEq, Repr

/-- The modem path (R260 to R262). -/
inductive ModemState where
  | closed
  | dialing (line : Nat)
  /-- PPP and TLS towards a head-end address. -/
  | linking
  /-- A session runs. -/
  | up
  | backOff
  deriving DecidableEq, Repr

structure ModemSt where
  state : ModemState := .closed
  /-- CN of the last dial line sent, or of the start of the back-off. -/
  since : Cn := 0
  /-- Wait in cycles before the next attempt. -/
  wait : Nat := 1500
  /-- CN of the last request on the modem session. -/
  lastRequest : Cn := 0
  deriving DecidableEq, Repr

/-- FSP as the module holds it. -/
structure FspSt where
  sessions : Table Session := []
  kept : List Kept := []
  pushLog : List Push := []
  nextSeq : Nat := 1
  /-- Octets of the push log booked for OUTCOMEs (R235). -/
  booked : Nat := 0
  tables : Table Table6 := []
  /-- The configuration epoch (R249, R400). -/
  epoch : Nat := 0
  modem : ModemSt := {}
  /-- CN at which a J5 session last held a role (R262). -/
  lastRole : Cn := 0
  deriving DecidableEq, Repr

end Sys2Proof.Machine
end

