-- ==== Sys2Proof/Machine/Types/Key.lean ====
section
/-! DEFINITION. State of the key register, role use and tamper (14). -/

namespace Sys2Proof.Machine

/-- Slot states (R474). -/
inductive SlotState where
  | empty
  | live
  | withered
  deriving DecidableEq, Repr

/-- Where a slot's value came from (R474). -/
inductive SlotSource where
  | written
  | derived
  | generated
  deriving DecidableEq, Repr

/-- A slot of the key register (R473, R474, Table 14.11). -/
structure SlotSt where
  state : SlotState := .empty
  value : BitVec 256 := 0
  usage : Nat := 0
  mb : Bool := false
  te : Bool := false
  parent : Option Nat := none
  source : SlotSource := .written
  expiry : Cn := 0
  /-- Info octets it was derived with (R480), kept for the derivation anew of an MB slot (R482). -/
  info : List Byte := []
  deriving DecidableEq, Repr

/-- Operations of KEY_CMD (Table 14.12). -/
inductive KeyOp where
  | write
  | derive_
  | generate
  | erase
  | rotate
  deriving DecidableEq, Repr

/-- A key command that runs (R479): what its completion puts into the slot, and whether it is TAGGED. -/
structure KeyRun where
  op : KeyOp
  slot : Nat
  role : Role
  result : SlotSt
  tagged : Bool := false
  deriving DecidableEq, Repr

/-- A grove rotation that awaits its effective CN (R485). -/
structure Rotation where
  effective : Cn
  generation : Nat
  root : Nat
  half : Nat
  deriving DecidableEq, Repr

/-- Tamper states (R491). -/
inductive TamperState where
  | normal
  | maint
  | tampered
  deriving DecidableEq, Repr

/-- Attestation registers (R486). -/
structure AttSt where
  done : Bool := false
  reason : Reason := .ok
  stand : Nat := 0
  flagBits : Nat := 0
  epoch : Nat := 0
  cn : Cn := 0
  mac : BitVec 256 := 0
  deriving DecidableEq, Repr

/-- The KEY block. -/
structure KeySt where
  slots : List SlotSt := List.replicate 64 {}
  /-- KS02 has not yet been written under INSTALLER (R477). -/
  factory : Bool := true
  /-- Attributes for the next WRITE, GENERATE or DERIVE (Table 14.12). -/
  attr : Nat := 0
  data : List Nat := List.replicate 8 0
  info : List Nat := List.replicate 8 0
  chal : List Nat := List.replicate 8 0
  run : Option KeyRun := none
  reason : Reason := .ok
  tagged : Bool := false
  bmc : BitVec 256 := 0
  /-- Digests of the Drover and of the stand firmware as measured last (Table 14.5). -/
  drover : BitVec 256 := 0
  firmware : BitVec 256 := 0
  generation : Nat := 0
  /-- The last generation issued (R497). -/
  issued : Nat := 0
  root : Nat := 0
  half : Nat := 0
  rotation : Option Rotation := none
  state : TamperState := .normal
  qualified : List Bool := [false, false, false, false]
  /-- Ticks since reset at which a watched input became active (R490). -/
  activeSince : List (Option Nat) := [none, none, none, none]
  meshOk : Bool := false
  meshFault : Bool := false
  alarms : Nat := 0
  cause : Nat := 0
  /-- The cause of an alarm that qualified while the stands did not run, to be recorded when they do (R495). -/
  wakeAlarm : Option Nat := none
  /-- CN at which the maintenance window ends. -/
  maintEnd : Option Cn := none
  att : AttSt := {}
  /-- Proofs granted and refused per role 1 to 3 (KEY_ROLE_USE). -/
  granted : List Nat := [0, 0, 0]
  refused : List Nat := [0, 0, 0]
  deriving DecidableEq, Repr

end Sys2Proof.Machine
end

