-- ==== Sys2Proof/Machine/Types/Out.lean ====
section
/-! DEFINITION. What the module emits. The spec gives the module messages, frames and lines that it sends;
the model keeps them, oldest first, in `State.out` (log 4). -/

namespace Sys2Proof.Machine

/-- One thing the module sends. -/
inductive Output where
  /-- An FSP message on a session (R223): type, flags, transaction id and body octets. -/
  | fsp (session : Nat) (type flags tx : Nat) (body : List Byte)
  /-- A session's connection is closed by the module (R226, R259). -/
  | close (session : Nat)
  /-- A connection that never became a session is refused or closed (R222). -/
  | refuse (reason : Reason)
  /-- A lantern link frame of a grove in an ASN: channel index, power in 0.25 dB from 0 dBm, MAC
  destination (0xFFFF all; a joiner's EUI-64 for its grant), the frame counter it takes, and the lantern
  link header and body (R91, R131, R137, R138). -/
  | air (grove asn channel : Nat) (power : Int) (dest counter : Nat) (payload : List Byte)
  /-- An enhanced beacon (R117-R120) of a grove in an ASN, with the contents of its IEs. -/
  | beacon (grove asn channel : Nat) (power : Int) (body : List Byte)
  /-- An enhanced acknowledgement (R113, R123): the sender it answers, frame pending, NACK, time correction in
  microseconds. -/
  | ack (grove short : Nat) (pending nack : Bool) (correction : Int)
  /-- A line of the service monitor (R538, R540). -/
  | line (text : String)
  /-- Text sent to the modem (R261). -/
  | modem (text : String)
  /-- A test signal of rftx (R541). -/
  | rfTest (phy channel power seconds : Nat)
  /-- A PTP frame on a port: 0 announces, 1 sync, 2 delay answers (R54). -/
  | ptp (port kind : Nat)
  deriving DecidableEq, Repr

end Sys2Proof.Machine
end

