-- ==== Sys2Proof/Machine/Types/Sys.lean ====
section
/-! DEFINITION. State of supply, holdover, dormancy, thermal guard and start-up (18, 19), and the pins of
the FIELD connector (17). -/

namespace Sys2Proof.Machine

/-- What the module as a whole is doing (R578, R583, R588, R591). -/
inductive Phase where
  /-- No supply, or stopped at the end of the holdover store: the stands are held in reset. -/
  | off
  /-- Stands out of reset; boot ROM, Drover and canopy load run. -/
  | starting
  /-- The canopy runs and the module serves. -/
  | running
  /-- Dormant (R584). -/
  | dormant
  /-- Held in reset until the base plate is below +130 degrees (R588). -/
  | thermal
  deriving DecidableEq, Repr

/-- One channel of the safe table (Table 19.1). -/
structure SafeEntry where
  topo : Nat := 0
  sync : Bool := false
  disPwm : Bool := false
  valid : Bool := false
  deadTime : Nat := 0
  fsw : Nat := 0
  setpoint : Nat := 0
  duty : Nat := 0
  oc : Nat := 0
  ov : Nat := 0
  k : Nat := 0
  phase : Nat := 0
  deriving DecidableEq, Repr

/-- Ford's safe table (R590, Table 19.1). `good` is false while its CRC fails. -/
structure SafeTable where
  nominal : Nat := 50
  kc : List Nat := [1, 1, 1, 1]
  ch : List SafeEntry := List.replicate 32 {}
  good : Bool := true
  deriving DecidableEq, Repr

/-- Dormancy entry in progress (R583): the cycle of the decision, and whether the sessions are closed. -/
structure DormEntry where
  cn : Cn
  sessionsClosed : Bool := false
  deriving DecidableEq, Repr

/-- The SYS block: supply, store, thermal, dormancy, start-up (R571-R603, Tables 18.8 and 19.6). -/
structure SysSt where
  phase : Phase := .starting
  aValid : Bool := false
  bValid : Bool := false
  onB : Bool := false
  powerFail : Bool := false
  storeReady : Bool := false
  recharging : Bool := false
  aOv : Bool := false
  bOv : Bool := false
  aReverse : Bool := false
  bReverse : Bool := false
  thermal : Bool := false
  voltA : Nat := 0
  voltB : Nat := 0
  powerIn : Nat := 0
  powerPeak : Nat := 0
  storeMj : Nat := 0
  storePct : Nat := 0
  failCount : Nat := 0
  dipCount : Nat := 0
  baseTemp : Int := 0
  hot : Bool := false
  tripped : Bool := false
  tempMax : Int := 0
  dormSource : Nat := 0
  dormRefused : Bool := false
  dormReason : Nat := 0
  dormTime : Nat := 0
  dorm : Option DormEntry := none
  autoSince : Option Cn := none
  /-- Entry is decided on and waits for its conditions (R582). -/
  dormDue : Bool := false
  retentionFed : Bool := true
  bootPhase : Nat := 0
  /-- Cause of the last reset of Stand A, of Stand B, and resets of each (Table 19.3). -/
  cause : Nat := 1
  causeB : Nat := 1
  resetsA : Nat := 0
  resetsB : Nat := 0
  imageRestored : Bool := false
  prefOverridden : Bool := false
  bootMs : Nat := 0
  beaconMs : Nat := 0
  lockstepMs : Nat := 0
  firstBeacon : Bool := false
  safe : SafeTable := {}
  /-- The power-up situation of Table 7.5 lasts (R277, R594). -/
  startSafe : Bool := true
  deriving DecidableEq, Repr

/-- The FLD block and the pins it shows (R551, R557, R570, Table 17.14). -/
structure FldSt where
  kcFb : List Bool := [false, false, false, false]
  tmpHigh : List Bool := [false, false, false, false]
  syncIn : Bool := false
  incIn : Bool := false
  ppsIn : Bool := false
  cts : Bool := false
  mseal : Bool := false
  ppsOut : Bool := false
  rts : Bool := false
  kcOver : List Bool := [false, false, false, false]
  kcOpen : List Bool := [false, false, false, false]
  vcoil : Bool := false
  modOk : Bool := true
  modOver : Bool := false
  modMa : Nat := 0
  ethUp : List Bool := [false, false]
  deriving DecidableEq, Repr

end Sys2Proof.Machine
end

