-- ==== Sys2Proof/Machine/Types/Upd.lean ====
section
/-! DEFINITION. State of Drover updates and caravans (15). -/

namespace Sys2Proof.Machine

/-- An open update session (R255, R500 to R505). -/
structure UpdSession where
  id : Nat
  /-- Manifest sequence, and the manifest's octets. -/
  seq : Nat
  manifest : List Byte
  digest : BitVec 256
  /-- Length of the package in octets and number of chunks. -/
  length : Nat
  count : Nat
  /-- Chunks held, decrypted (R503, R504). -/
  chunks : Table (List Byte) := []
  /-- CN of the last accepted message (R505). -/
  lastMessage : Cn
  deriving DecidableEq, Repr

/-- The paths of an activation (R506). -/
inductive ActPath where
  | caravans
  | clearings
  | handover
  | reboot
  deriving DecidableEq, Repr

/-- An image that can be returned to: firmware, settings area and format, canopy image and template set, as the
backup store and the journal keep them. -/
structure Backup where
  firmware : Nat
  area : Nat
  format : Nat
  tset : BitVec 256
  image : Option Image
  firmwareDigest : BitVec 256 := 0
  deriving DecidableEq, Repr

/-- An entry of the journal (Table 15.9). -/
structure JrnEntry where
  seq : Nat
  op : Nat
  phase : Nat
  stand : Nat
  flagBits : Nat
  mseq : Nat
  cn : Cn
  data0 : Nat
  data1 : Nat
  digest : List Byte
  deriving DecidableEq, Repr

/-- What the module knows of a node of a caravan (R521). -/
structure CarNode where
  eui : Nat
  /-- Chunks the node has reported, bit i for chunk i, and the number it last reported held. -/
  bitmap : Nat := 0
  held : Nat := 0
  /-- Its unasked CHUNK_STATE reported every chunk held. -/
  complete : Bool := false
  /-- OK, or the reason of its NAK. -/
  reason : Reason := .ok
  /-- Chunks sent since the module last asked for CHUNK_STATE, and the next chunk to look at. -/
  sent : Nat := 0
  next : Nat := 0
  /-- Sequence of the last CARAVAN_OFFER to it, while it stands. -/
  offer : Option Nat := none
  deriving DecidableEq, Repr

/-- States of a caravan (Table 15.13). -/
inductive CarState where
  | transferring
  | heldByAll
  | fixed
  | sent
  | ended
  deriving DecidableEq, Repr

/-- A caravan (R178, R521 to R524). -/
structure Caravan where
  id : Nat
  version : Nat
  model : Nat
  length : Nat
  digest : BitVec 256
  /-- Digest of the manifest that brought it. -/
  manifest : BitVec 256
  count : Nat
  data : List Byte
  state : CarState := .transferring
  nodes : List CarNode := []
  /-- Transaction id of the ACTIVATE that is fixed or sent. -/
  tx : Nat := 0
  deriving DecidableEq, Repr

/-- An activation from VALIDATING on (R506 to R520). -/
structure Activation where
  path : ActPath
  /-- Manifest sequence, its digest and the session's id. -/
  seq : Nat
  digest : BitVec 256
  session : Nat
  /-- Activation CN asked for, 0 at once, and the seconds of the confirmation window W. -/
  cn : Cn
  window : Nat
  committed : Bool := false
  /-- CN at which the present phase's wait began: catching up, SHADOW, or W. -/
  since : Cn := 0
  /-- W is suspended while TAMPERED (Table 15.11). -/
  suspended : Bool := false
  /-- Firmware, settings format, template set and caravans the manifest brings. -/
  firmware : Nat := 0
  format : Nat := 0
  tset : BitVec 256 := 0
  /-- Settings formats the new firmware reads, least and greatest (R511). -/
  reads : Nat × Nat := (0, 65535)
  /-- Expected BMC (R502), and SHA-256 of the new firmware where the manifest brings one. -/
  expected : BitVec 256 := 0
  firmwareDigest : Option (BitVec 256) := none
  /-- The canopy image it brings. -/
  image : Option Image := none
  /-- Caravans it brings (R521). -/
  caravans : List Caravan := []
  /-- The stand the handover goes to. -/
  newStand : Stand := .b
  /-- A fallback by reboot is under way (R516). -/
  back : Bool := false
  deriving DecidableEq, Repr

/-- The UPD block (R500 to R525). -/
structure UpdSt where
  session : Option UpdSession := none
  activation : Option Activation := none
  /-- Manifest sequence installed (R501). -/
  runSeq : Nat := 0
  /-- Stand firmware version that runs, its settings area and format. -/
  firmware : Nat := 0
  area : Nat := 0
  format : Nat := 0
  backup : Option Backup := none
  /-- The handover area of Ford's store holds re-wrapped roots (R511). -/
  handoverArea : Bool := false
  phase : Nat := 0
  phaseCn : Cn := 0
  caughtUp : Bool := false
  /-- Checks holding, and first failed (Table 15.7). -/
  checks : Nat := 0
  firstFailed : Nat := 0
  /-- Last roll-back or fallback: reason and check. -/
  reason : Nat := 0
  check : Nat := 0
  preempts : Nat := 0
  journal : List JrnEntry := []
  jrnSeq : Nat := 0
  /-- Caravans by selection 0 to 3. -/
  caravans : Table Caravan := []
  deriving DecidableEq, Repr

end Sys2Proof.Machine
end

