-- ==== Sys2Proof/Machine/State.lean ====
section
/-! DEFINITION. The state of the module, its state after reset, and the reasons a step can stop. -/

namespace Sys2Proof.Machine

/-- The module's state: one field a block of the spec, the stored register values, and three fields
of the model's own (`out`, `pending`, `freeIdx`). -/
structure State where
  /-- The build, T or S (R5, R6). -/
  build : Build := .t
  /-- The current cycle number (R9, R27). -/
  cn : Cn := 0
  /-- City time, mains attribution, triggers, captures, PTP (01, 02). -/
  time : TimeSt := {}
  /-- Feeder metering (08). -/
  mtr : MtrSt := {}
  /-- Transceivers, groves and the neighbour ledger (03). -/
  rad : RadSt := {}
  /-- Lantern nodes and lantern link (04). -/
  node : NodeSt := {}
  /-- Promises and admission (05). -/
  adm : AdmSt := {}
  /-- Segment protocol, push log, tables, modem (06). -/
  fsp : FspSt := {}
  /-- Schedules, contactors, routes, waves (07). -/
  dim : DimSt := {}
  /-- Direct drive of local strings (09). -/
  drv : DrvSt := {}
  /-- Canopy image and clearings (10). -/
  can : CanSt := {}
  /-- Queues (11). -/
  que : QueSt := {}
  /-- Event controller (11). -/
  evt : EvtSt := {}
  /-- Ford and the stands (12). -/
  ford : FordSt := {}
  /-- Coppice and the understory (13). -/
  cop : CopSt := {}
  /-- Key register, roles, tamper (14). -/
  key : KeySt := {}
  /-- Drover updates and caravans (15). -/
  upd : UpdSt := {}
  /-- Waybill (16). -/
  way : WaySt := {}
  /-- Service monitor (16). -/
  mon : MonSt := {}
  /-- Pins (17). -/
  fld : FldSt := {}
  /-- Supply, holdover, dormancy, start-up (18, 19). -/
  sys : SysSt := {}
  /-- Stored register words that differ from their reset value, by address (R15). -/
  regs : Table Word := []
  /-- What the module has sent, oldest first (the model's own; log 4). -/
  out : List Output := []
  /-- Commands that wait, first in first out (the model's own). -/
  pending : List Instr := []
  /-- How many free values have been drawn (the model's own; log 12). -/
  freeIdx : Nat := 0
  deriving DecidableEq, Repr

/-- Why a command stops the machine. No command of this model does: the type has no values. -/
inductive Fault where
  deriving DecidableEq, Repr

/-- Why a command has no meaning. -/
inductive Refusal where
  /-- The command has no meaning in the model yet. Raised by exec alone; safe. -/
  | notModelled (mnemonic : String)
  deriving DecidableEq, Repr

/-- The module right after reset: every field at the value the spec states, and where it states none at
the value a log entry names. -/
def State.reset : State := {}

end Sys2Proof.Machine
end

