-- ==== Sys2Proof/Machine/Ops.lean ====
section
/-! DEFINITION. Operations every block shares: the passing of time, event sources (R413-R423), the
waybill's staging (R526-R529), and what the module emits. -/

namespace Sys2Proof.Machine

/-- The stands are out of reset: commands act (log 6). -/
def State.live (s : State) : Bool :=
  match s.sys.phase with
  | .starting => true
  | .running => true
  | _ => false

/-- Run an effect while the stands are out of reset; otherwise nothing happens (log 6). -/
def State.whenLive (s : State) (f : State → State) : State :=
  if s.live then f s else s

/-- Dormancy entry has begun (R583): admission declines, transmitters, gates and contactor drives are off. -/
def State.entering (s : State) : Bool :=
  s.sys.dorm.isSome

/-- Run an effect where a condition holds. -/
def State.iff (s : State) (c : Bool) (f : State → State) : State :=
  if c then f s else s

/-- Draw the next natural number the spec leaves open (log 12). -/
def State.drawNat (s : State) : Nat × State :=
  (Config.freeNat s.freeIdx, { s with freeIdx := s.freeIdx + 1 })

/-- Draw the next signed number the spec leaves open (log 12). -/
def State.drawInt (s : State) : Int × State :=
  (Config.freeInt s.freeIdx, { s with freeIdx := s.freeIdx + 1 })

/-- Draw a word of the random bit generator (R431; log 11). -/
def State.drawRandom (s : State) : BitVec 256 × State :=
  (Config.rbg s.freeIdx, { s with freeIdx := s.freeIdx + 1 })

/-- A quotient whose rounding the spec does not state: exact where it divides, else one of the two
neighbours (log 18). -/
def quotient (a : Int) (b : Nat) : Int :=
  if a % b = 0 then a / b else if Config.roundUp a b then a / b + 1 else a / b

/-- A quotient of naturals whose rounding the spec does not state. -/
def quotientNat (a b : Nat) : Nat :=
  (quotient a b).toNat

/-- An integer kept between two limits. -/
def clampInt (lo hi x : Int) : Int :=
  max lo (min hi x)

/-- City time in units of 2^-32 ns. -/
def cityUnits (c : CityTime) : Nat :=
  4294967296 * (1000000000 * c.sec + c.ns) + c.frac

/-- The city time of a number of 2^-32 ns units; the seconds hold 48 bits (R42). -/
def ofCityUnits (u : Nat) : CityTime :=
  { sec := u / 4294967296 / 1000000000 % 2 ^ 48, ns := u / 4294967296 % 1000000000, frac := u % 4294967296 }

/-- The increment of one tick in 2^-32 ns units (R42). -/
def TimeSt.incr (t : TimeSt) : Nat :=
  4294967296 * t.incrNs + t.incrFrac

/-- Let reference ticks pass: the city-time counter adds its increment at each (R42). -/
def State.advance (s : State) (ticks : Nat) : State :=
  { s with time := { s.time with
      city := ofCityUnits (cityUnits s.time.city + ticks * s.time.incr)
      tsc := s.time.tsc + ticks
      ref := s.time.ref + ticks } }

/-- Let time pass to a tick counted from CYC of the current CN; never backwards. -/
def State.advanceTo (s : State) (tick : Nat) : State :=
  s.advance (tick - s.time.tsc)

/-- Microseconds since CYC of the current CN, as records stamp them (R526). -/
def State.micros (s : State) : Nat :=
  min 22222 (s.time.tsc / 100)

/-- The cycles of a number of seconds at the nominal frequency in force (R61). -/
def State.secondsInCycles (s : State) (sec : Nat) : Nat :=
  sec * s.time.nominal

/-- Add to what the module has sent. -/
def State.emit (s : State) (o : Output) : State :=
  { s with out := s.out ++ [o] }

/-- Emit several things in order. -/
def State.emits (s : State) (os : List Output) : State :=
  { s with out := s.out ++ os }

/-- A takeover, or the loss of TRX8, ends an RF test at once (R541). -/
def State.endTest (s : State) : State :=
  { s with mon := { s.mon with rfTest := none } }

/-! Event sources and rings. -/

/-- Number of records a ring holds when full; 0 before it is placed (R420). -/
def Ring.size (r : Ring) : Nat :=
  if r.log2 = 0 then 0 else 2 ^ r.log2

/-- Records between CONS and PROD (R420). -/
def Ring.fill (r : Ring) : Nat :=
  (r.prod + 65536 - r.cons) % 65536

/-- The ring takes another record (R420). -/
def Ring.room (r : Ring) : Bool :=
  decide (r.fill < r.size)

/-- Write a record into a ring and advance PROD (R420, R421). -/
def Ring.add (e : EvRec) (r : Ring) : Ring :=
  { r with records := r.records ++ [e], prod := (r.prod + 1) % 65536 }

/-- A logical engine. -/
def EvtSt.eng (e : EvtSt) (i : Nat) : EngSt :=
  lget {} i e.engs

/-- A ring of a logical engine. -/
def EvtSt.ring (e : EvtSt) (i p : Nat) : Ring :=
  lget {} p (e.eng i).rings

/-- Change a ring of a logical engine. -/
def EvtSt.modRing (e : EvtSt) (i p : Nat) (f : Ring → Ring) : EvtSt :=
  { e with engs := lmod (fun g => { g with rings := lmod f p g.rings }) i e.engs }

/-- The record of a source as Table 11.4 lays it out. -/
def evRecord (n : Nat) (c : SrcSt) : EvRec :=
  { source := n, kind := c.kind, activePending := decide (c.state = .activePending)
    coalesced := decide (1 < c.count), overflow := c.overflow, count := c.count
    stamp := c.stamp, payload := c.payload }

/-- Write a due record into its ring, or hold it while the ring is full (R418, R421). -/
def EvtSt.deliver (e : EvtSt) (n : Nat) : EvtSt :=
  match tget n e.srcs, tget n e.routes with
  | some c, some r =>
    if c.due && e.en && decide (c.state ≠ .active) then
      if (e.ring r.engine r.prio).room then
        { (e.modRing r.engine r.prio (Ring.add (evRecord n c))) with
          srcs := tput n { state := .active, count := 0 } e.srcs
          saturated := if c.overflow then bump e.saturated else e.saturated }
      else if c.held then e
      else { e with srcs := tput n { c with held := true } e.srcs, heldCount := bump e.heldCount }
    else e
  | _, _ => e

/-- A source in a state where a firing folds (R417): the count saturates and sets OVERFLOW. -/
def SrcSt.fold (c : SrcSt) (kind payload : Nat) : SrcSt :=
  { c with
    count := satAdd 65535 c.count 1
    overflow := c.overflow || decide (c.count = 65535)
    kind := kind
    payload := payload }

/-- The state of a source after a firing (Table 11.5). -/
def srcFired (c : Option SrcSt) (r : Route) (stamp kind payload : Nat) : SrcSt :=
  match c with
  | none => { state := .gathering, due := decide (r.count ≤ 1), stamp := stamp, kind := kind, payload := payload }
  | some c =>
    match c.state with
    | .gathering =>
      let d := c.fold kind payload
      { d with due := c.due || decide (r.count ≤ d.count) }
    | .active => { state := .activePending, stamp := stamp, kind := kind, payload := payload }
    | .activePending => c.fold kind payload

/-- The timestamp of an event record: city time in ns modulo 2^32 (Table 11.4). -/
def State.stamp (s : State) : Nat :=
  (1000000000 * s.time.city.sec + s.time.city.ns) % 4294967296

/-- The template sources of a region's slots are suppressed during its clearing (R397). -/
def EvtSt.fire (e : EvtSt) (n stamp kind payload : Nat) : EvtSt :=
  match tget n e.routes with
  | none => e
  | some r =>
    if r.en && !(e.suppressed.contains n) then
      { e with srcs := tput n (srcFired (tget n e.srcs) r stamp kind payload) e.srcs }.deliver n
    else e

/-- An event source fires (R415 to R418, R608). -/
def State.post (s : State) (src kind payload : Nat) : State :=
  { s with evt := s.evt.fire src s.stamp kind (payload % 4294967296) }

/-- A slot's parameter block names a unit: by number for MAC and STRING_LOOP, by a bit of its mask for the
templates that carry one (Table 10.1). -/
def SlotUse.serves (u : SlotUse) (unit : Nat) : Bool :=
  match u.template with
  | .mac => decide (u.unit = unit)
  | .stringLoop => decide (u.unit = unit)
  | .meterAcc => true
  | .dimmingAction => true
  | .fieldIo => true
  | _ => bit unit u.unit

/-- The slot that carries a template for a unit (R381). -/
def CanSt.slotOf (c : CanSt) (t : Template) (unit : Nat) : Option Nat :=
  (c.slots.find? fun p => decide (p.2.template = t) && p.2.serves unit).map Prod.fst

/-- A destructive slice runs on the tile of a slot: nothing carries its function (R469). -/
def State.sliced (s : State) (slot : Option Nat) : Bool :=
  match slot with
  | some n => s.cop.slices.any fun x => x.destructive && x.started && !x.ended && decide (x.victim = some n) && decide (x.unit.kind = 0)
  | none => false

/-- Source i of a template's slot fires (Table 11.3); a template the canopy does not place has none. -/
def State.postTile (s : State) (t : Template) (unit i kind payload : Nat) : State :=
  match s.can.slotOf t unit with
  | some n => s.post (16 * n + i) kind payload
  | none => s

/-! The waybill's staging. -/

/-- Two happenings are identical (R528): same source, code and payload. -/
def sameHappening (a b : Rec) : Bool :=
  decide (a.source = b.source) && decide (a.id = b.id) && decide (a.reason = b.reason)
    && decide (padTo 12 a.payload = padTo 12 b.payload)

/-- Fold a happening into the last entry of a list. -/
def foldLast : List Rec → List Rec
  | [] => []
  | [r] => [{ r with count := satAdd 65535 r.count 1 }]
  | r :: rs => r :: foldLast rs

/-- Whether a happening folds into an entry: identical, and within 10 f cycles of it (R528). -/
def State.folds (s : State) (h : Rec) (r : Option Rec) : Bool :=
  match r with
  | some r => sameHappening h r && decide (h.cn ≤ r.cn + s.secondsInCycles 10)
  | none => false

/-- A happening enters the waybill: it folds, is staged, or is lost (R528, R529). -/
def State.enter (s : State) (h : Rec) : State :=
  if s.way.staging ≠ [] then
    if s.folds h s.way.staging.getLast? then
      { s with way := { s.way with staging := foldLast s.way.staging, folds := bump s.way.folds } }
    else if s.way.staging.length < 64 then
      let s := { s with way := { s.way with
        staging := s.way.staging ++ [h], peak := max s.way.peak (s.way.staging.length + 1) } }
      s.iff (decide (s.way.staging.length = 33)) fun s => s.post 872 1 0
    else
      { s with way := { s.way with
        lost := bump s.way.lost, lossOpen := s.way.lossOpen + 1
        lossFirst := match s.way.lossFirst with
          | some f => some f
          | none => some (h.cn, h.us) } }
  else if s.folds h s.way.ring.getLast? then
    { s with way := { s.way with ring := foldLast s.way.ring, folds := bump s.way.folds } }
  else
    { s with way := { s.way with staging := [h], peak := max s.way.peak 1 } }

/-- A happening of the module, stamped with the current cycle (R526). -/
def State.happening (s : State) (source id : Nat) (reason : Reason) (role : Role) (payload : List Byte) : Rec :=
  { cn := s.cn, us := s.micros, stand := s.ford.active, role := role, source := source, id := id
    reason := reason, payload := payload }

/-- Record a happening of the module itself. -/
def State.record (s : State) (source id : Nat) (reason : Reason) (payload : List Byte) : State :=
  s.enter (s.happening source id reason .nobody payload)

/-- Record a happening under a role. -/
def State.recordAs (s : State) (role : Role) (source id : Nat) (reason : Reason) (payload : List Byte) : State :=
  s.enter (s.happening source id reason role payload)

/-- Record a happening raised by an event source: kind in byte 18 and payload in bytes 20 to 23 (R535). -/
def State.recordEvent (s : State) (source id kind payload : Nat) (reason : Reason) : State :=
  s.record source id reason (le 1 kind ++ [0] ++ le 4 payload)

/-- Post an event and record it with its kind and payload (R535). -/
def State.postRecord (s : State) (source id kind payload : Nat) (reason : Reason) : State :=
  (s.post source kind payload).recordEvent source id kind payload reason

/-- The source of a template's slot, for a record it raises; the recorder's own where none is placed. -/
def State.tileSource (s : State) (t : Template) (unit i : Nat) : Nat :=
  match s.can.slotOf t unit with
  | some n => 16 * n + i
  | none => 0x0421

/-- Payload of sources 876 to 879 (R472): kind and index of a unit. -/
def unitPayload (kind index : Nat) : Nat :=
  kind % 8 + 16 * (index % 65536)

/-- Thin understory of a kind (R466): the bit, source 878 and the record. -/
def State.raiseThin (s : State) (kind : Nat) : State :=
  if lget false kind s.cop.thin then s
  else
    let s := { s with cop := { s.cop with thin := lset kind true s.cop.thin } }
    s.postRecord 878 0x49 1 (unitPayload kind 0) .ok

/-- The recorder source of a path (Table 16.3). -/
def Via.source : Via → Nat
  | .module => 0x0421
  | .session i => 0x0400 + i.val
  | .monitor => 0x0408

end Sys2Proof.Machine
end

