-- ==== Sys2Proof/Machine/Regs.lean ====
section
/-! DEFINITION. Register descriptions and the rules of a register write (R15 to R18, R605). The
descriptions here are those of registers that software writes and whose value is stored; what the block's
own state holds is read and written by the block's file. -/

namespace Sys2Proof.Machine

/-- A writable register, or an array of `count` of them `stride` apart. `rw` and `rwl` mask the stored
fields by access code; `act` masks RWL action bits that read 0, `wo` plain ones. -/
structure RegDesc where
  name : String
  base : Nat
  stride : Nat := 4
  count : Nat := 1
  reset : Nat := 0
  resetStep : Nat := 0
  rw : Nat := 0
  rwl : Nat := 0
  act : Nat := 0
  wo : Nat := 0
  role : Role := .installer
  /-- A metrology register of R304. -/
  metrology : Bool := false
  /-- Fields lo, hi with the least and greatest value they take (R605). -/
  ranges : List (Nat × Nat × Nat × Nat) := []

/-- SYS (Tables 18.8, 19.6). -/
def sysDescs : List RegDesc :=
  [ { name := "SYS_RESET_CMD", base := 0x40000004, act := 1 }
  , { name := "SYS_PWR_CFG", base := 0x40000114, rwl := 1, act := 2 }
  , { name := "SYS_DORM_CTRL", base := 0x40000120, reset := 0x005A0000, rwl := 0xFFFF0002, act := 1
      ranges := [(16, 31, 1, 65535)] }
  , { name := "SYS_DORM_WAKE", base := 0x40000124, rwl := 0xFFFFFF } ]

/-- FORD (Table 12.9). -/
def fordDescs : List RegDesc :=
  [ { name := "FORD_CTRL", base := 0x40010000, rwl := 0x114, act := 0xB }
  , { name := "FORD_CLK_CTRL", base := 0x40010030, rwl := 1, act := 2 }
  , { name := "FORD_LG_CTRL", base := 0x400100A4, act := 1 } ]

/-- TIME (Table 2.5). -/
def timeDescs : List RegDesc :=
  [ { name := "TIME_CTRL", base := 0x40020000, reset := 0x105, rw := 0x107, act := 8 }
  , { name := "TIME_SNAP", base := 0x40020008, wo := 1 }
  , { name := "TIME_SERVO_KP", base := 0x40020030, reset := 0x80, rw := 0xFFFF }
  , { name := "TIME_SERVO_KI", base := 0x40020034, reset := 0xCCD, rw := 0xFFFF }
  , { name := "TIME_SERVO_CLAMP", base := 0x40020038, reset := 0x186A0, rw := 0xFFFFFFFF
      ranges := [(0, 31, 1000, 200000)] }
  , { name := "TIME_OUTLIER", base := 0x4002003C, reset := 0x2710, rw := 0xFFFFFFFF
      ranges := [(0, 31, 100, 1000000)] }
  , { name := "TIME_MAINS_CFG", base := 0x40020050, reset := 0x320032, rwl := 0xFF00FF
      ranges := [(16, 23, 30, 100), (0, 7, 50, 60)] }
  , { name := "TIME_SYNC_CTRL", base := 0x40020090, reset := 0xA00, rwl := 0xFF03, act := 0x10000
      ranges := [(8, 15, 1, 255)] }
  , { name := "TIME_PPS_CTRL", base := 0x400200A0, rw := 0xFFFFF103, ranges := [(12, 31, 0, 500000)] }
  , { name := "TIME_PTP_CTRL", base := 0x400200B0, rw := 0x7F3F3F
      ranges := [(3, 4, 0, 2), (11, 12, 0, 2)] }
  , { name := "TIME_PTP_LAT", base := 0x400200B8, count := 2, rw := 0xFFFFFFFF }
  , { name := "TIME_TRG_CTRL", base := 0x40020100, stride := 0x20, count := 16, rw := 0x11F3E, wo := 1
      ranges := [(2, 5, 0, 4)] }
  , { name := "TIME_TRG_LO", base := 0x40020104, stride := 0x20, count := 16, rw := 0xFFFFFFFF }
  , { name := "TIME_TRG_HI", base := 0x40020108, stride := 0x20, count := 16, rw := 0xFFFF }
  , { name := "TIME_TRG_OFS", base := 0x4002010C, stride := 0x20, count := 16, rw := 0xFFFFFFFF }
  , { name := "TIME_CAP_CTRL", base := 0x40020300, stride := 0x20, count := 7, rw := 3 }
  , { name := "TIME_CAP_POP", base := 0x4002031C, stride := 0x20, count := 7, wo := 1 } ]

/-- QUE (Table 11.9). -/
def queDescs : List RegDesc :=
  [ { name := "QUE_CTRL", base := 0x40040000, wo := 2 }
  , { name := "QUE_FC_POL", base := 0x40040008, rw := 0xFF }
  , { name := "QUE_PEEK_SEL", base := 0x40040040, rw := 0xFFFF007F } ]

/-- MTR (Table 8.10); the metrology registers are those of R304. -/
def mtrDescs : List RegDesc :=
  [ { name := "MTR_LATCH_N", base := 0x4005000C, reset := 0xBB8, rwl := 0xFFFF, metrology := true
      ranges := [(0, 15, 1, 65535)] }
  , { name := "MTR_CLK_CFG", base := 0x4005001C, reset := 0x80, rwl := 0x1F01FF, metrology := true
      ranges := [(0, 7, 40, 156)] }
  , { name := "MTR_ZC_CFG", base := 0x40050020, reset := 0x640032, rwl := 0xFFFF00FF, metrology := true
      ranges := [(0, 7, 30, 100), (16, 31, 10, 500)] }
  , { name := "MTR_VNOM", base := 0x40050024, reset := 0x8FC, rwl := 0xFFFF, metrology := true }
  , { name := "MTR_REG_SEL", base := 0x40050040, rw := 0x10733, ranges := [(4, 5, 1, 3)] }
  , { name := "MTR_CAL_CTRL", base := 0x40050050, reset := 0x1F40000, rwl := 0xFFFF0000, act := 1, metrology := true
      ranges := [(16, 31, 1, 65535)] }
  , { name := "MTR_CAL_SEL", base := 0x40050058, rw := 0x330F }
  , { name := "MTR_FDR_CFG", base := 0x40050100, stride := 0x40, count := 4, rwl := 0x7, metrology := true }
  , { name := "MTR_FDR_INOM", base := 0x40050104, stride := 0x40, count := 4, rwl := 0xFFFFFFFF, metrology := true }
  , { name := "MTR_FDR_START", base := 0x40050108, stride := 0x40, count := 4, rwl := 0xFFFFFFFF, metrology := true }
  , { name := "MTR_FDR_NOLOAD", base := 0x4005010C, stride := 0x40, count := 4, reset := 0xC800C8
      rwl := 0xFFFFFFFF, metrology := true }
  , { name := "MTR_FDR_BAL_CFG", base := 0x40050118, stride := 0x40, count := 4, reset := 0x32141E0A, rw := 0xFFFFFFFF
      ranges := [(0, 7, 0, 200), (8, 15, 5, 250), (16, 23, 0, 200), (24, 31, 1, 255)] }
  , { name := "MTR_FDR_BAL_FIX", base := 0x4005011C, stride := 0x40, count := 4, rw := 0xFFFF }
  , { name := "MTR_CH_MAP", base := 0x40050400, stride := 0x20, count := 16, reset := 0x40, resetStep := 1
      rwl := 0x7F, metrology := true }
  , { name := "MTR_CH_SCALE", base := 0x40050404, stride := 0x20, count := 16, rwl := 0xFFFFFFFF, metrology := true }
  , { name := "MTR_CH_GAIN", base := 0x40050408, stride := 0x20, count := 16, reset := 0x400000
      rwl := 0xFFFFFFFF, metrology := true, ranges := [(0, 31, 0x200000, 0x800000)] }
  , { name := "MTR_CH_OFFSET", base := 0x4005040C, stride := 0x20, count := 16, rwl := 0xFFFFFF, metrology := true }
  , { name := "MTR_CH_DELAY", base := 0x40050410, stride := 0x20, count := 16, rwl := 0x1FFF, metrology := true
      ranges := [(0, 12, 0, 4096)] } ]

/-- DRV (Table 9.10). -/
def drvDescs : List RegDesc :=
  [ { name := "DRV_CTRL", base := 0x40060000, rw := 1, wo := 2 }
  , { name := "DRV_PWM_CFG", base := 0x4006000C, reset := 8, rwl := 0x7F }
  , { name := "DRV_INC_CTRL", base := 0x40060014, reset := 0x3E80000, rwl := 0x3FFF0077, act := 0x100
      ranges := [(16, 29, 100, 10000)] }
  , { name := "DRV_NTC_CFG", base := 0x40060040, stride := 8, count := 8, reset := 0xD6B03E8, rwl := 0xFFFFFFFF }
  , { name := "DRV_CH_CFG", base := 0x40060100, stride := 0x40, count := 32, reset := 0x14000000, rwl := 0xFFFF3FFF
      ranges := [(24, 31, 8, 255)] }
  , { name := "DRV_CH_FSW", base := 0x40060104, stride := 0x40, count := 32, reset := 0x27100190
      rwl := 0xFFFF03FF, ranges := [(0, 9, 100, 1000), (16, 31, 0, 10000)] }
  , { name := "DRV_CH_SHUNT", base := 0x40060108, stride := 0x40, count := 32, rwl := 0xFFFFFFFF }
  , { name := "DRV_CH_IMAX", base := 0x4006010C, stride := 0x40, count := 32, rwl := 0xFFFFFFFF }
  , { name := "DRV_CH_VS_SCALE", base := 0x40060110, stride := 0x40, count := 32, rwl := 0xFFFFFFFF }
  , { name := "DRV_CH_LIMITS", base := 0x40060114, stride := 0x40, count := 32, rwl := 0xFFFFFFFF }
  , { name := "DRV_CH_LED", base := 0x40060118, stride := 0x40, count := 32, rwl := 0xFFFF00FF
      ranges := [(0, 7, 1, 100)] }
  , { name := "DRV_CH_TC", base := 0x4006011C, stride := 0x40, count := 32, rwl := 0xFFFFFF }
  , { name := "DRV_CH_VREF01", base := 0x40060120, stride := 0x40, count := 32, rwl := 0xFFFFFFFF }
  , { name := "DRV_CH_VREF23", base := 0x40060124, stride := 0x40, count := 32, rwl := 0xFFFFFFFF }
  , { name := "DRV_CH_VREF_T", base := 0x40060128, stride := 0x40, count := 32, rwl := 0xFFFF }
  , { name := "DRV_CH_CMD", base := 0x40060138, stride := 0x40, count := 32, act := 3 }
  , { name := "DRV_CH_PEND", base := 0x4006013C, stride := 0x40, count := 32, rwl := 0x8001FFFF
      ranges := [(0, 15, 0, 10000)] }
  , { name := "DRV_CS_CFG", base := 0x40060A00, stride := 0x20, count := 4, reset := 0x14, rwl := 0x1F7 }
  , { name := "DRV_TW_CFG", base := 0x40060B00, stride := 0x20, count := 4, reset := 0xFA0000
      rwl := 0xFFFF1F7F, act := 0x80 }
  , { name := "DRV_TW_LUMS", base := 0x40060B04, stride := 0x20, count := 4, rwl := 0xFFFFFFFF }
  , { name := "DRV_TW_DAY", base := 0x40060B08, stride := 0x20, count := 4, rwl := 0xFFFFFFFF }
  , { name := "DRV_TW_NIGHT", base := 0x40060B0C, stride := 0x20, count := 4, rwl := 0xFFFFFFFF }
  , { name := "DRV_PE_CTRL", base := 0x40060C00, stride := 0x40, count := 8, wo := 3 }
  , { name := "DRV_PE_CFG", base := 0x40060C04, stride := 0x40, count := 8, rwl := 0x1F }
  , { name := "DRV_PE_START_LO", base := 0x40060C08, stride := 0x40, count := 8, rwl := 0xFFFFFFFF }
  , { name := "DRV_PE_START_HI", base := 0x40060C0C, stride := 0x40, count := 8, rwl := 0xFFFF }
  , { name := "DRV_PE_START_NS", base := 0x40060C10, stride := 0x40, count := 8, rwl := 0x3FFFFFFF
      ranges := [(0, 29, 0, 999999999)] }
  , { name := "DRV_PE_LAG", base := 0x40060C14, stride := 0x40, count := 8, rwl := 0xFFFFFF }
  , { name := "DRV_PE_ROUTE", base := 0x40060C18, stride := 0x40, count := 8, rwl := 0x8000FFFF }
  , { name := "DRV_LUM_CFG", base := 0x40061000, stride := 8, count := 32, rwl := 0xFFFF3F3F
      ranges := [(0, 1, 0, 2)] }
  , { name := "DRV_PE_KF_A", base := 0x40062000, stride := 8, count := 512, rwl := 0xFFFFFFFF }
  , { name := "DRV_PE_KF_B", base := 0x40062004, stride := 8, count := 512, rwl := 0xFFFF03FF
      ranges := [(0, 7, 0, 2), (16, 23, 0, 63)] } ]

/-- RAD (Table 3.13). -/
def radDescs : List RegDesc :=
  [ { name := "RAD_CTRL", base := 0x40070000, rw := 1, wo := 2 }
  , { name := "RAD_PAN_ID", base := 0x40070008, reset := 0xFFFF, rwl := 0xFFFF }
  , { name := "RAD_HOP_SEED", base := 0x40070014, reset := 0xACE1, rwl := 0xFFFF, ranges := [(0, 15, 1, 65535)] }
  , { name := "RAD_GUARD_CFG", base := 0x40070018, reset := 0x4B000FA, rw := 0xFFFF, ranges := [(0, 15, 100, 1000)] }
  , { name := "RAD_EB_CFG", base := 0x4007001C, reset := 0x400, rw := 0x1F01, ranges := [(8, 12, 1, 16)] }
  , { name := "RAD_DUTY_RESERVE", base := 0x40070020, reset := 10, rw := 0xFF, ranges := [(0, 7, 0, 50)] }
  , { name := "RAD_RETRY", base := 0x40070024, reset := 0x4103, rw := 0xFF0F, ranges := [(0, 3, 0, 7), (12, 15, 0, 8)] }
  , { name := "RAD_JOIN_OPEN", base := 0x40070028, reset := 0x24222422, rw := 0x74767472 }
  , { name := "RAD_TRX8_CTRL", base := 0x40070030, reset := 0xF, rw := 0xF, wo := 0x100 }
  , { name := "RAD_SAFEIE_CTRL", base := 0x40070038, rw := 0x80FFFFFF, ranges := [(0, 15, 0, 10000)] }
  , { name := "RAD_DUTY_SEL", base := 0x40070040, rw := 0x70F, ranges := [(0, 3, 0, 8)] }
  , { name := "RAD_TRX_CTRL", base := 0x40070100, stride := 0x40, count := 9, rw := 0xFF1F0F0F
      ranges := [(8, 11, 0, 6), (18, 20, 0, 6)] }
  , { name := "RAD_LDG_SEL", base := 0x40070400, rw := 0x701FF }
  , { name := "RAD_LDG_EUI_LO", base := 0x40070404, rw := 0xFFFFFFFF }
  , { name := "RAD_LDG_EUI_HI", base := 0x40070408, rw := 0xFFFFFFFF }
  , { name := "RAD_LDG_ATTR", base := 0x4007040C, rw := 0x07FFFFFF, ranges := [(24, 26, 0, 3)] }
  , { name := "RAD_LDG_DRIFT", base := 0x40070424, rw := 0xFFFF }
  , { name := "RAD_LDG_CMD", base := 0x40070428, wo := 7 } ]

/-- KEY (Table 14.12). -/
def keyDescs : List RegDesc :=
  [ { name := "KEY_SLOT_SEL", base := 0x40080004, rw := 0x3F }
  , { name := "KEY_CMD_CN_LO", base := 0x40080068, rw := 0xFFFFFFFF }
  , { name := "KEY_CMD_CN_HI", base := 0x4008006C, rw := 0xFF }
  , { name := "KEY_TMP_CFG", base := 0x400800B0, reset := 0x1400, rwl := 0xFFFF, ranges := [(8, 15, 1, 255)] }
  , { name := "KEY_TMP_MAINT", base := 0x400800B8, rwl := 0x1FF, ranges := [(0, 8, 0, 480)] }
  , { name := "KEY_TMP_CLEAR", base := 0x400800BC, act := 1 }
  , { name := "KEY_ATT_CMD", base := 0x400800E0, wo := 1 } ]

/-- WAY, COP, UPD, CAN, FLD (Tables 16.7, 13.6, 15.13, 10.11, 17.14). -/
def otherDescs : List RegDesc :=
  [ { name := "WAY_CTRL", base := 0x40090000, wo := 2 }
  , { name := "COP_CTRL", base := 0x400A0000, reset := 1, rwl := 1, act := 2 }
  , { name := "COP_DARK_CFG", base := 0x400A0010, reset := 0x1E001E, rwl := 0xFFFFFFFF
      ranges := [(0, 15, 0, 720), (16, 31, 0, 720)] }
  , { name := "COP_CMD", base := 0x400A0014, act := 3 }
  , { name := "COP_CMD_UNIT", base := 0x400A0018, rwl := 0xFFFF7 }
  , { name := "COP_UNIT_SEL", base := 0x400A0080, rw := 0xFFFF7 }
  , { name := "COP_RELEASE", base := 0x400A0090, act := 0x800FFFF7, role := .maker }
  , { name := "UPD_CTRL", base := 0x400B0000, reset := 1, rwl := 1, act := 2 }
  , { name := "UPD_CFG", base := 0x400B0018, reset := 0xE0BB8, rwl := 0xFFFFFF
      ranges := [(0, 15, 1000, 60000), (16, 23, 1, 90)] }
  , { name := "UPD_CAR_SEL", base := 0x400B0040, rw := 3 }
  , { name := "CAN_SLOT_SEL", base := 0x400C00A0, rw := 0x3F, ranges := [(0, 5, 0, 47)] }
  , { name := "CAN_ENGINE_SEL", base := 0x400C00A8, rw := 0xF }
  , { name := "FLD_CTRL", base := 0x400D0000, rw := 0xF } ]

/-- Descriptions by block of Table 0.5. -/
def blockDescs : Nat → List RegDesc
  | 0x4000 => sysDescs
  | 0x4001 => fordDescs
  | 0x4002 => timeDescs
  | 0x4004 => queDescs
  | 0x4005 => mtrDescs
  | 0x4006 => drvDescs
  | 0x4007 => radDescs
  | 0x4008 => keyDescs
  | 0x4009 => otherDescs
  | 0x400A => otherDescs
  | 0x400B => otherDescs
  | 0x400C => otherDescs
  | 0x400D => otherDescs
  | _ => []

/-- Whether an address lies in a description's array. -/
def RegDesc.covers (d : RegDesc) (a : Nat) : Bool :=
  decide (d.base ≤ a) && decide ((a - d.base) % d.stride = 0) && decide ((a - d.base) / d.stride < d.count)

/-- The description of an address. -/
def descOf (a : Nat) : Option RegDesc :=
  (blockDescs (a >>> 16)).find? fun d => d.covers a

/-- The index of an address in its array. -/
def RegDesc.index (d : RegDesc) (a : Nat) : Nat :=
  (a - d.base) / d.stride

/-- The reset value of an address. -/
def RegDesc.resetAt (d : RegDesc) (a : Nat) : Nat :=
  d.reset + d.index a * d.resetStep

/-- The reset value of a stored register; 0 where none is described. -/
def resetWord (a : Nat) : Nat :=
  match descOf a with
  | some d => d.resetAt a
  | none => 0

/-- The word a stored register holds. -/
def State.reg (s : State) (a : Nat) : Nat :=
  match tget a s.regs with
  | some w => w.toNat
  | none => resetWord a

/-- Store a register's word; the reset value is held by listing nothing. -/
def State.setReg (s : State) (a v : Nat) : State :=
  { s with regs := if v % 4294967296 = resetWord a then tdel a s.regs else tput a (BitVec.ofNat 32 v) s.regs }

/-- Bits of a word by mask. -/
def masked (m v : Nat) : Nat :=
  v &&& m

/-- A word with the masked bits taken from another (R18: bits outside every mask read zero). -/
def merge (m old new : Nat) : Nat :=
  ((old ^^^ new) &&& m) ^^^ old

/-- The fields of a register that a range or a list of values bounds (R605). -/
def inRanges (d : RegDesc) (v : Nat) : Bool :=
  d.ranges.all fun (lo, hi, a, b) => decide (a ≤ field hi lo v) && decide (field hi lo v ≤ b)

/-- What a register write comes to before its side effects (R16, R17, R605). -/
structure Written where
  /-- OK; NOT_AUTHORISED where an RWL field was to change without the role; SEAL_CLOSED where the seal
  is closed; MALFORMED where a value is outside its range. -/
  reason : Reason := .ok
  old : Nat
  /-- The stored word after the write. -/
  new : Nat
  /-- Action bits that take effect. -/
  act : Nat := 0
  deriving DecidableEq, Repr

/-- Whether a role holds the right to a register's RWL fields (R487, R488). -/
def mayLocked (d : RegDesc) (r : Role) : Bool :=
  decide (r = d.role)

/-- The rules of a write over a description: role first, then the range of the fields the write reaches. -/
def writeRule (d : RegDesc) (role : Role) (sealOpen : Bool) (ok : Nat → Bool) (old v : Nat) : Written :=
  let may := mayLocked d role
  let shut := d.metrology && !sealOpen
  let lock := if may && !shut then merge d.rwl old v else old
  let new := merge d.rw lock v
  let tried := decide (masked d.rwl (old ^^^ v) ≠ 0) || decide (masked d.act v ≠ 0)
  let reason : Reason :=
    if tried && !may then .notAuthorised else if tried && shut then .sealClosed else .ok
  let act := masked d.wo v ||| (if may && !shut then masked d.act v else 0)
  if new ≠ old && !(inRanges d new && ok new) then
    { reason := if reason = .ok then .malformed else reason, old := old, new := old, act := 0 }
  else { reason := reason, old := old, new := new, act := act }

end Sys2Proof.Machine
end

