-- ==== Sys2Proof/Machine/RegOps.lean ====
section
/-! DEFINITION. A write of a described register, with its records (R17, R304, R305, R489, R605, R609). -/

namespace Sys2Proof.Machine

/-- Bounds of a register's fields that are no plain range (R605): values listed, or bounds that depend on
another field. -/
def regOk (s : State) (a v : Nat) : Bool :=
  if a = 0x40020050 then decide (field 7 0 v = 50) || decide (field 7 0 v = 60)
  else if a = 0x40070024 then decide (field 11 8 v ≤ field 15 12 v)
  else if 0x40020100 ≤ a ∧ a < 0x40020300 then
    if (a - 0x40020100) % 0x20 = 0 then
      match field 5 2 v with
      | 3 => decide (field 12 8 v < 8)
      | 4 => decide (field 12 8 v < 4)
      | _ => true
    else true
  else if 0x40050400 ≤ a ∧ a < 0x40050600 ∧ a % 0x20 = 0 then
    (upFrom 0 16).all fun c => decide (0x40050400 + 0x20 * c = a)
      || decide (field 3 0 (s.reg (0x40050400 + 0x20 * c)) ≠ field 3 0 v)
  else if a = 0x4006000C then
    decide (5 ≤ v) && decide (v * s.time.nominal ≤ 4000)
  else if 0x40062000 ≤ a ∧ a < 0x40063000 ∧ a % 8 = 0 then
    (decide (field 15 0 v ≤ 10000) || decide (field 15 0 v = 0xFFFF)) && decide (field 31 16 v ≠ 0)
  else true

/-- The record of a register write under a role (R489, R609): address, old and new value. -/
def State.recordWrite (s : State) (w : Writer) (reason : Reason) (a old new : Nat) : State :=
  s.recordAs w.role w.via.source 0x06 reason (le 4 a ++ le 4 old ++ le 4 new)

/-- Whether a writer's register writes are recorded here: the module's own writes carry no role and the
window has its own record (R489, R609). -/
def Writer.recorded (w : Writer) : Bool :=
  decide (w.via = .monitor)

/-- Record a refused write (R17, R304): a window write is recorded by the window's own record. -/
def State.recordRefused (s : State) (w : Writer) (r : Written) (a v : Nat) : State :=
  match r.reason with
  | .notAuthorised => match w.via with
    | .session _ => s
    | _ => s.recordWrite w .notAuthorised a r.old v
  | .sealClosed => match w.via with
    | .session _ => s
    | _ => s.recordWrite w .sealClosed a r.old v
  | _ => s

/-- Write a described register: the rule, the stored word and the record of a refusal. -/
def State.writeQuiet (s : State) (a v : Nat) (w : Writer) : State × Written :=
  match descOf a with
  | none => (s, { old := 0, new := 0 })
  | some d =>
    let r := writeRule d w.role s.mtr.sealOpen (regOk s a) (s.reg a) (v % 4294967296)
    (((s.setReg a r.new).recordRefused w r a v), r)

/-- Write a described register whose chapter names no record of its own: a ROLE_ACTION record where the
write changed something under INSTALLER or MAKER (R489). -/
def State.writeReg (s : State) (a v : Nat) (w : Writer) : State × Written :=
  let (s, r) := s.writeQuiet a v w
  if w.recorded && (decide (w.role = .installer) || decide (w.role = .maker))
      && (decide (r.new ≠ r.old) || decide (r.act ≠ 0)) then
    (s.recordWrite w .ok a r.old v, r)
  else (s, r)

end Sys2Proof.Machine
end

