-- ==== Sys2Proof/Machine/FspOps.lean ====
section
/-! DEFINITION. Shared operations of the segment protocol (06): answers, errors, violations, closing a
session, pushes and the push log. -/

namespace Sys2Proof.Machine

/-- A session in service. -/
def State.session (s : State) (i : Fin 4) : Option Session :=
  tget i.val s.fsp.sessions

/-- Change a session. -/
def State.modSession (s : State) (i : Fin 4) (f : Session → Session) : State :=
  { s with fsp := { s.fsp with sessions := tmod i.val f s.fsp.sessions } }

/-- Message types of Table 6.4. -/
def knownType (t : Nat) : Bool :=
  [0x01, 0x02, 0x03, 0x10, 0x11, 0x12, 0x13, 0x20, 0x21, 0x30, 0x31, 0x32, 0x40, 0x41, 0x42, 0x50, 0x51, 0x52,
    0x53, 0x60, 0x70, 0x7F].contains t

/-- Types the head-end sends (Table 6.4). -/
def headType (t : Nat) : Bool :=
  [0x01, 0x02, 0x03, 0x10, 0x20, 0x31, 0x32, 0x40, 0x41, 0x42, 0x50, 0x51, 0x52, 0x53, 0x60, 0x70].contains t

/-- A response (R230): flag RESPONSE, the request's id. -/
def State.respond (s : State) (i : Fin 4) (type tx : Nat) (body : List Byte) : State :=
  s.emit (.fsp i.val type 1 tx body)

/-- An ERROR (R258): reason, refused type, detail and byte offset. -/
def State.fspError (s : State) (i : Fin 4) (reason : Reason) (type detail offset tx : Nat) : State :=
  s.emit (.fsp i.val 0x7F 0 tx (le 1 (reasonCode reason) ++ le 1 type ++ le 2 detail ++ le 4 offset))

/-- The recorder source of a session: its own, or the modem path (Table 16.3, R609). -/
def Session.pathSource (c : Session) (i : Fin 4) : Nat :=
  if c.path = 3 then 0x0404 else 0x0400 + i.val

/-- Session counts for its ROLE_SUMMARY (R489), 16 bits each, saturating. -/
def Session.summary (c : Session) (i : Nat) : List Byte :=
  le 2 i ++ le 2 c.admits ++ le 2 c.reads ++ le 2 c.others

/-- A session closes (R226, R489): its ROLE_SUMMARY is recorded when it counted OPERATOR uses. -/
def State.closeSession (s : State) (i : Fin 4) : State :=
  match s.session i with
  | none => s
  | some c =>
    let s := s.emit (.close i.val)
    let s := s.iff (decide (c.admits + c.reads + c.others ≠ 0)) fun s =>
      s.recordAs .operator (c.pathSource i) 0x05 .ok (c.summary i.val)
    let drop (a : Admit) : Admit := if a.session = some i then { a with session := none } else a
    let s := { s with adm := { s.adm with queue := s.adm.queue.map drop } }
    let s := { s with fsp := { s.fsp with
      sessions := tdel i.val s.fsp.sessions
      lastRole := if c.path ≠ 3 ∧ c.role ≠ .nobody then s.cn else s.fsp.lastRole } }
    if c.path = 3 then { s with fsp := { s.fsp with modem := { s.fsp.modem with state := .closed, since := s.cn } } } else s

/-- A counted violation of a session (R259): recorded, and the sixteenth within 1,000 cycles answers ERROR
with detail 16 and closes the session. -/
def State.fspViolation (s : State) (i : Fin 4) (reason : Reason) (type tx : Nat) : State :=
  match s.session i with
  | none => s
  | some c =>
    let v := s.cn :: c.violations.filter fun x => decide (s.cn < x + 1000)
    let s := s.recordAs c.role (c.pathSource i) 0x07 reason (le 1 type ++ le 2 i.val ++ le 4 (if v.length ≥ 16 then 16 else 0))
    let s := s.modSession i fun c => { c with violations := v }
    if v.length ≥ 16 then (s.fspError i reason type 16 0 tx).closeSession i else s

/-- An ERROR that counts as a violation. -/
def State.refuse (s : State) (i : Fin 4) (reason : Reason) (type detail offset tx : Nat) : State :=
  (s.fspError i reason type detail offset tx).fspViolation i reason type tx

/-- A response that holds only a status, padded to the body's length where more follows. -/
def statusBody (reason : Reason) : List Byte :=
  le 1 (reasonCode reason) ++ [0, 0, 0]

/-- A malformed body (Table 6.7): status MALFORMED, counted. -/
def State.malformed (s : State) (i : Fin 4) (type tx : Nat) : State :=
  (s.respond i type tx (statusBody .malformed)).fspViolation i .malformed type tx

/-- What a session's role must be for a message (R229): INSTALLER and MAKER hold every OPERATOR right. -/
def holdsRight (need have_ : Role) : Bool :=
  match need, have_ with
  | .nobody, _ => true
  | .operator, .nobody => false
  | .operator, _ => true
  | .installer, .installer => true
  | .maker, .maker => true
  | _, _ => false

/-- The role an octet names. -/
def roleOf : Nat → Option Role
  | 0 => some .nobody
  | 1 => some .operator
  | 2 => some .installer
  | 3 => some .maker
  | _ => none

/-- The role octet and the right of a request hold (R229). -/
def Session.mayAsk (c : Session) (octet : Nat) (need : Role) : Bool :=
  decide (roleOf octet = some c.role) && holdsRight need c.role

/-- A request on a session (R224, R226, R229): the session must be open; its idle time restarts; a role
octet that differs or a right not held is answered ERROR NOT_AUTHORISED. -/
def State.request (s : State) (i : Fin 4) (role : Byte) (type tx : Nat) (need : Role)
    (serve : Session → State → State) : State :=
  match s.session i with
  | none => s
  | some c =>
    let s := s.modSession i fun c => { c with lastMessage := s.cn }
    let s := if c.path = 3 then { s with fsp := { s.fsp with modem := { s.fsp.modem with lastRequest := s.cn } } } else s
    if c.mayAsk role.toNat need then serve c s
    else s.refuse i .notAuthorised type 0 5 tx

/-- An OPERATOR use that is counted for the summary (R489). -/
def State.countUse (s : State) (i : Fin 4) (c : Session) (f : Session → Session) : State :=
  if c.role = .operator then s.modSession i f else s

/-- A read counted for the summary (R489). -/
def Session.readUse (c : Session) : Session :=
  { c with reads := satAdd 65535 c.reads 1 }

/-- Another message counted for the summary (R489). -/
def Session.otherUse (c : Session) : Session :=
  { c with others := satAdd 65535 c.others 1 }

/-! Pushes. -/

/-- Octets a push takes in the log: header and body (R223, R235). -/
def Push.size (p : Push) : Nat :=
  24 + p.body.length

/-- Octets of the push log in use or booked (R235). -/
def FspSt.logUse (f : FspSt) : Nat :=
  (f.pushLog.map Push.size).sum + f.booked

/-- The push log holds 512 KiB (R235). -/
def pushLogSize : Nat := 524288

/-- Remove the first push of a type; answers whether there was one. -/
def dropFirst (type : Nat) : List Push → Bool × List Push
  | [] => (false, [])
  | p :: r => if p.type = type then (true, r) else ((dropFirst type r).1, p :: (dropFirst type r).2)

/-- A session holds only pushes that are still in the log: a dropped one can no longer be acknowledged. -/
def Session.only (log : List Push) (c : Session) : Session :=
  let held (q : Nat) : Bool := log.any fun p => decide (p.seq = q)
  { c with unacked := c.unacked.filter held, unsent := c.unsent.filter held }

/-- Free room for a push (R235): the oldest EVENTs, then the oldest METER_INTERVALs; never an OUTCOME.
Answers the number of EVENT pushes dropped. -/
def makeRoom (need : Nat) : Nat → FspSt → Nat × FspSt
  | 0, f => (0, f)
  | fuel + 1, f =>
    if f.logUse + need ≤ pushLogSize then (0, f)
    else
      match dropFirst 0x30 f.pushLog with
      | (true, l) => let (n, g) := makeRoom need fuel { f with pushLog := l }; (n + 1, g)
      | (false, _) =>
        match dropFirst 0x21 f.pushLog with
        | (true, l) => makeRoom need fuel { f with pushLog := l }
        | (false, _) => (0, f)

/-- The next push sequence: never 0 (R232). -/
def nextPushSeq (n : Nat) : Nat :=
  if (n + 1) % 4294967296 = 0 then 1 else (n + 1) % 4294967296

/-- Send a push to one session, or keep it for later while 256 are unacknowledged (R233). -/
def State.pushTo (s : State) (p : Push) (i : Nat) : State :=
  match tget i s.fsp.sessions with
  | none => s
  | some c =>
    if !c.subscribe then s
    else if c.unacked.length < 256 then
      ({ s with fsp := { s.fsp with sessions := tput i { c with unacked := c.unacked ++ [p.seq] } s.fsp.sessions } }).emit
        (.fsp i p.type 2 p.seq p.body)
    else { s with fsp := { s.fsp with sessions := tput i { c with unsent := c.unsent ++ [p.seq] } s.fsp.sessions } }

/-- Push a message to every subscribing session and hold it until it is settled (R232, R235). A push that
was counted against booked room gives that room back. -/
def State.push (s : State) (type : Nat) (body : List Byte) (bookedRoom : Nat) : State :=
  let f := { s.fsp with booked := s.fsp.booked - bookedRoom }
  let p : Push := { seq := f.nextSeq, type := type, body := body }
  let (dropped, f) := makeRoom p.size f.pushLog.length f
  let log := f.pushLog ++ [p]
  let s := { s with fsp := { f with
    pushLog := log, nextSeq := nextPushSeq f.nextSeq
    sessions := if f.pushLog.length = s.fsp.pushLog.length then f.sessions
      else f.sessions.map fun (x : Nat × Session) => (x.1, x.2.only log) } }
  let s := forEach (fun i s => s.pushTo p i) (upFrom 0 4) s
  s.iff (decide (dropped ≠ 0)) fun s =>
    s.record 0x0421 0x02 .ok (le 2 1 ++ le 4 dropped ++ le 5 s.cn)

/-- A session that has taken acknowledgements is sent the pushes it waits for, in order (R233). -/
def State.pushWaiting (s : State) (i : Nat) : Nat → State
  | 0 => s
  | fuel + 1 =>
    match tget i s.fsp.sessions with
    | none => s
    | some c =>
      match c.unsent with
      | [] => s
      | q :: rest =>
        if c.unacked.length < 256 then
          match s.fsp.pushLog.find? fun p => decide (p.seq = q) with
          | some p =>
            let c := { c with unsent := rest, unacked := c.unacked ++ [q] }
            let s := { s with fsp := { s.fsp with sessions := tput i c s.fsp.sessions } }
            (s.emit (.fsp i p.type 2 p.seq p.body)).pushWaiting i fuel
          | none =>
            ({ s with fsp := { s.fsp with sessions := tput i { c with unsent := rest } s.fsp.sessions } }).pushWaiting i fuel
        else s

/-! Configuration tables. -/

/-- A configuration table; an empty one where nothing was ever put. -/
def State.table6 (s : State) (id : Nat) : Table6 :=
  (tget id s.fsp.tables).getD {}

/-- Entries of a table in force (R249). -/
def State.inForce (s : State) (id : Nat) : List (List Byte) :=
  (s.table6 id).inForce

/-- Octets of a table as accepted (R252). -/
def Table6.content (t : Table6) : List Byte :=
  t.accepted.flatten

end Sys2Proof.Machine
end

