-- ==== Sys2Proof/Machine/KeyOps.lean ====
section
/-! DEFINITION. Operations of the key register (R473-R484): slots, check values, derivation, withering. -/

namespace Sys2Proof.Machine

/-- A slot of the key register. -/
def State.slot (s : State) (n : Nat) : SlotSt :=
  lget {} n s.key.slots

/-- Put a slot. -/
def State.setSlot (s : State) (n : Nat) (c : SlotSt) : State :=
  { s with key := { s.key with slots := lset n c s.key.slots } }

/-- A slot is LIVE. -/
def State.slotLive (s : State) (n : Nat) : Bool :=
  decide ((s.slot n).state = .live)

/-- The slot of a role's secret (Table 14.2). -/
def roleSlot : Role → Nat
  | .maker => 1
  | .installer => 2
  | _ => 3

/-- What Table 14.2 fixes of a slot: usage, MB, TE, parent, owner. -/
structure SlotRule where
  usage : Nat
  mb : Bool
  te : Bool
  parent : Option Nat
  /-- The role that may write, generate, derive or erase the slot; `none` for the module's own. -/
  owner : Option Role
  deriving DecidableEq, Repr

/-- Table 14.2; `none` for the general slots KS32 to KS63. -/
def slotRule (n : Nat) : Option SlotRule :=
  if n = 0 then some ⟨1, false, false, none, some .maker⟩
  else if n = 1 then some ⟨2, false, false, none, some .maker⟩
  else if n = 2 ∨ n = 3 then some ⟨2, false, false, none, some .installer⟩
  else if n = 4 then some ⟨4, false, false, none, some .installer⟩
  else if n = 5 then some ⟨3, false, false, none, some .installer⟩
  else if n = 6 ∨ n = 7 then some ⟨5, false, false, none, some .installer⟩
  else if n = 8 then some ⟨6, false, false, none, some .maker⟩
  else if n = 9 then some ⟨7, false, false, none, some .maker⟩
  else if n = 10 then some ⟨8, true, true, some 0, none⟩
  else if n = 11 then some ⟨10, false, true, some 0, none⟩
  else if n = 12 ∨ n = 13 then some ⟨1, false, true, none, none⟩
  else if n = 14 ∨ n = 15 then some ⟨0, false, false, none, none⟩
  else if n < 32 then some ⟨9, false, true, some 12, none⟩
  else none

/-- The owner of a slot (Table 14.2). -/
def slotOwner (n : Nat) : Option Role :=
  match slotRule n with
  | some r => r.owner
  | none => some .installer

def slotStateCode : SlotState → Nat
  | .empty => 0
  | .live => 1
  | .withered => 2

def slotSourceCode : SlotSource → Nat
  | .written => 0
  | .derived => 1
  | .generated => 2

/-- OWNER of KEY_SLOT_ATTR (Table 14.11). -/
def ownerCode (n : Nat) : Nat :=
  match slotOwner n with
  | some .installer => 2
  | some .maker => 3
  | _ => 0

/-- KEY_SLOT_ATTR of a slot (Table 14.11). -/
def slotAttr (n : Nat) (c : SlotSt) : Nat :=
  c.usage + slotStateCode c.state * 16 + flag c.mb 6 + flag c.te 7 + (c.parent.getD 0) * 256
    + flag c.parent.isSome 14 + slotSourceCode c.source * 65536 + ownerCode n * 262144

/-- The check value of a slot (R478): the first 4 octets of SHA-256 over "KCV" and the slot. -/
def checkValue (c : SlotSt) : List Byte :=
  if c.state = .empty then [0, 0, 0, 0]
  else (octets256 (Config.sha256 (ascii "KCV" ++ octets256 c.value))).take 4

/-- KDF message M (Table 14.3). -/
def kdfMessage (usage : Nat) (mb : Bool) (parent : Nat) (eui : Nat) (bmc : BitVec 256) (info : List Byte) : List Byte :=
  [0, 0, 0, 1] ++ ascii "FLEVON-KDF" ++ [0] ++ le 1 usage ++ le 1 (if mb then 1 else 0) ++ [0] ++ le 1 parent
    ++ le 8 eui ++ (if mb then octets256 bmc else List.replicate 32 0) ++ padTo 32 info ++ [0, 0, 1, 0]

/-- The value a slot derives from its parent (R480); a LINK key takes its first 16 octets (R475). -/
def State.derived (s : State) (usage : Nat) (mb : Bool) (parent : Nat) (info : List Byte) : BitVec 256 :=
  let k := Config.hmac (s.slot parent).value (kdfMessage usage mb parent s.rad.eui s.key.bmc info)
  if usage = 9 then BitVec.ofNat 256 (k.toNat % 2 ^ 128) else k

/-- Derivation info of a grove key (Table 14.4). -/
def State.groveInfo (s : State) (grove generation : Nat) : List Byte :=
  le 2 (s.reg 0x40070008) ++ le 1 grove ++ le 1 generation

/-- A child of an invalidated slot withers: a LINK key in 256 cycles, any other at once (R483, R484). -/
def witherChild (cn : Cn) (n : Nat) (c : SlotSt) : SlotSt :=
  if c.parent = some n ∧ c.state = .live then
    { c with state := .withered, expiry := if c.usage = 9 then cn + 256 else cn }
  else c

/-- Every slot whose PARENT names a slot withers (R483). -/
def State.witherChildren (s : State) (n : Nat) : State :=
  { s with key := { s.key with slots := s.key.slots.map (witherChild s.cn n) } }

/-- The running command's slot is derived from a parent that is invalidated: its child comes out TAGGED
and WITHERED (R498). -/
def State.tagRun (s : State) (n : Nat) : State :=
  match s.key.run with
  | some r => if r.result.parent = some n then { s with key := { s.key with run := some { r with tagged := true } } } else s
  | none => s

/-- Invalidate a slot's old value (R483). -/
def State.invalidate (s : State) (n : Nat) : State :=
  (s.witherChildren n).tagRun n

/-- The slot becomes EMPTY. -/
def State.emptySlot (s : State) (n : Nat) : State :=
  s.setSlot n {}

def keyOpCode : KeyOp → Nat
  | .write => 1
  | .derive_ => 2
  | .generate => 3
  | .erase => 4
  | .rotate => 5

/-- The record of a key command (Table 16.4, R489): slot, operation, reason and check value. -/
def State.recordKey (s : State) (role : Role) (slot : Nat) (op : KeyOp) (reason : Reason) (tagged : Bool) : State :=
  let h := s.happening 0x0423 0x53 reason role
    (le 1 slot ++ le 1 (keyOpCode op) ++ le 1 (reasonCode reason) ++ checkValue (s.slot slot))
  s.enter { h with tagged := tagged }

def tamperCode : TamperState → Nat
  | .normal => 0
  | .maint => 1
  | .tampered => 2

/-- The module is TAMPERED (R491). -/
def State.tampered (s : State) : Bool :=
  decide (s.key.state = .tampered)

end Sys2Proof.Machine
end

