-- ==== Sys2Proof/Machine/Shift.lean ====
section
/-! DEFINITION. The count of cycles moves (R67, R68): whatever waits or counts elapsed cycles moves with it (R200). CNs
named from outside, and recorded ones, stay. -/

namespace Sys2Proof.Machine

/-- A CN moved by k cycles, never below 0. -/
def moveCn (k : Int) (c : Cn) : Cn :=
  ((c : Int) + k).toNat

/-- An optional CN moved. -/
def moveCn? (k : Int) : Option Cn → Option Cn
  | some c => some (moveCn k c)
  | none => none

/-- An ASN moved by k cycles, two timeslots each (R9). -/
def moveAsn (k : Int) (a : Nat) : Nat :=
  ((a : Int) + 2 * k).toNat

/-- A waiting ASN limit moved. -/
def moveAsn? (k : Int) : Option Nat → Option Nat
  | some a => some (moveAsn k a)
  | none => none

def PtpPort.shift (k : Int) (q : PtpPort) : PtpPort :=
  { q with violations := q.violations.map (moveCn k), muteEnd := moveCn? k q.muteEnd }

def Crossing.shift (k : Int) (c : Crossing) : Crossing :=
  { c with cn := moveCn k c.cn }

/-- The TIME block's own counts: the crossing history and what runs against the count. -/
def TimeSt.shift (k : Int) (t : TimeSt) : TimeSt :=
  { t with
    history := t.history.map (Crossing.shift k)
    ports := t.ports.map (PtpPort.shift k)
    applied := moveCn k t.applied
    holdCn := moveCn k t.holdCn }

def FeederBal.shift (k : Int) (b : FeederBal) : FeederBal :=
  { b with start := moveCn k b.start }

def MtrLive.shift (k : Int) (m : MtrLive) : MtrLive :=
  { m with openCn := moveCn k m.openCn, bal := m.bal.map (FeederBal.shift k) }

def Gap.shift (k : Int) (g : Gap) : Gap :=
  { g with start := moveCn k g.start }

def MtrSt.shift (k : Int) (m : MtrSt) : MtrSt :=
  { m with
    live := m.live.shift k
    lastLatch := moveCn k m.lastLatch
    gaps := m.gaps.map (Gap.shift k)
    cal := { m.cal with start := moveCn k m.cal.start } }

def Entry.shift (k : Int) (e : Entry) : Entry :=
  { e with
    heard := moveCn k e.heard
    violations := e.violations.map (moveCn k)
    muteEnd := moveCn? k e.muteEnd
    reserved := moveCn? k e.reserved }

def Held.shift (k : Int) (h : Held) : Held :=
  { h with notBefore := moveAsn k h.notBefore, until_ := moveAsn? k h.until_ }

def RadSt.shift (k : Int) (r : RadSt) : RadSt :=
  { r with
    ledger := r.ledger.map fun (i, e) => (i, e.shift k)
    frames := r.frames.map (Held.shift k)
    busy := r.busy.map fun l => l.map (moveCn k)
    beaconCn := r.beaconCn.map (moveCn k)
    safeCn := moveCn k r.safeCn }

def NodeRec.shift (k : Int) (n : NodeRec) : NodeRec :=
  { n with grantCn := moveCn k n.grantCn, lastKeepalive := moveCn k n.lastKeepalive }

def Target.shift (k : Int) (t : Target) : Target :=
  { t with queryCn := moveCn k t.queryCn }

/-- A promise is timed by the count as it moved; `ofs` keeps what its PROMISE said (R200). -/
def Promise.shift (k : Int) (p : Promise) : Promise :=
  { p with
    accepted := moveCn k p.accepted
    promised := moveCn k p.promised
    ofs := p.ofs + k
    recoverBy := moveCn? k p.recoverBy
    targets := p.targets.map (Target.shift k) }

def Booking.shift (k : Int) (b : Booking) : Booking :=
  { b with asn := moveAsn k b.asn }

def Rejoin.shift (k : Int) (r : Rejoin) : Rejoin :=
  { r with start := moveCn k r.start }

def AdmSt.shift (k : Int) (a : AdmSt) : AdmSt :=
  { a with
    promises := a.promises.map (Promise.shift k)
    bookings := a.bookings.map (Booking.shift k)
    rejoin := match a.rejoin with
      | some r => some (r.shift k)
      | none => none
    freeRunSince := moveCn? k a.freeRunSince }

def Session.shift (k : Int) (c : Session) : Session :=
  { c with
    challenge := match c.challenge with
      | some h => some { h with cn := moveCn k h.cn }
      | none => none
    roleSince := moveCn? k c.roleSince
    lastMessage := moveCn k c.lastMessage
    violations := c.violations.map (moveCn k) }

def FspSt.shift (k : Int) (f : FspSt) : FspSt :=
  { f with
    sessions := f.sessions.map fun (i, c) => (i, c.shift k)
    modem := { f.modem with since := moveCn k f.modem.since, lastRequest := moveCn k f.modem.lastRequest }
    lastRole := moveCn k f.lastRole }

def KcSt.shift (k : Int) (c : KcSt) : KcSt :=
  { c with
    since := moveCn k c.since
    fixed := c.fixed.map fun (n, b) => (moveCn k n, b)
    lastOpen := moveCn? k c.lastOpen
    reclosed := moveCn? k c.reclosed }

def DimSt.shift (k : Int) (d : DimSt) : DimSt :=
  { d with
    contactors := d.contactors.map (KcSt.shift k)
    routes := d.routes.map fun r => { r with reloaded := moveCn? k r.reloaded }
    waveSeen := d.waveSeen.map fun w => { w with cn := moveCn k w.cn } }

def ChSt.shift (k : Int) (c : ChSt) : ChSt :=
  { c with
    retryCn := moveCn? k c.retryCn
    learn := match c.learn with
      | some l => some { l with start := moveCn k l.start }
      | none => none }

def WaveUp.shift (k : Int) (w : WaveUp) : WaveUp :=
  { w with start := moveCn k w.start, holdEnd := moveCn k w.holdEnd, fall := moveCn? k w.fall }

def LumSt.shift (k : Int) (l : LumSt) : LumSt :=
  { l with
    rampStart := moveCn k l.rampStart
    safetyNext := match l.safetyNext with
      | some (v, c) => some (v, moveCn k c)
      | none => none
    wave := match l.wave with
      | some w => some (w.shift k)
      | none => none }

def PeSt.shift (k : Int) (p : PeSt) : PeSt :=
  { p with run := match p.run with
      | some r => some { r with startCn := moveCn k r.startCn }
      | none => none }

def DrvSt.shift (k : Int) (d : DrvSt) : DrvSt :=
  { d with
    chs := d.chs.map (ChSt.shift k)
    lums := d.lums.map (LumSt.shift k)
    engines := d.engines.map (PeSt.shift k) }

def CanSt.shift (k : Int) (c : CanSt) : CanSt :=
  { c with clearing := match c.clearing with
      | some x => some { x with c := moveCn k x.c }
      | none => none }

def StandSt.shift (k : Int) (x : StandSt) : StandSt :=
  { x with withdrawals := x.withdrawals.map (moveCn k), probationEnd := moveCn? k x.probationEnd }

def FordSt.shift (k : Int) (f : FordSt) : FordSt :=
  { f with
    a := f.a.shift k
    b := f.b.shift k
    switch := match f.switch with
      | some p => some { p with notBefore := moveCn k p.notBefore }
      | none => none
    shadowCn := moveCn k f.shadowCn
    holdCn := moveCn k f.holdCn }

def CopSt.shift (k : Int) (c : CopSt) : CopSt :=
  { c with
    units := c.units.map fun u => { u with lastCn := moveCn k u.lastCn, due := moveCn? k u.due }
    slices := c.slices.map fun x => { x with c := moveCn k x.c } }

def UpdSt.shift (k : Int) (u : UpdSt) : UpdSt :=
  { u with
    session := match u.session with
      | some x => some { x with lastMessage := moveCn k x.lastMessage }
      | none => none
    activation := match u.activation with
      | some a => some { a with since := moveCn k a.since }
      | none => none }

def MonSt.shift (k : Int) (m : MonSt) : MonSt :=
  { m with
    nonce := match m.nonce with
      | some n => some { n with at_ := moveCn k n.at_ }
      | none => none
    violations := m.violations.map (moveCn k)
    muteEnd := moveCn? k m.muteEnd
    lastInput := moveCn k m.lastInput
    rfTest := match m.rfTest with
      | some t => some { t with endCn := moveCn k t.endCn }
      | none => none }

def SysSt.shift (k : Int) (x : SysSt) : SysSt :=
  { x with
    dorm := match x.dorm with
      | some d => some { d with cn := moveCn k d.cn }
      | none => none
    autoSince := moveCn? k x.autoSince }

/-- The count moves by k cycles (R67, R68), and with it everything that waits for a CN or counts elapsed cycles (R200). -/
def State.shiftCn (s : State) (k : Int) : State :=
  { s with
    cn := moveCn k s.cn
    time := s.time.shift k
    mtr := s.mtr.shift k
    rad := s.rad.shift k
    node := { s.node with nodes := s.node.nodes.map (NodeRec.shift k) }
    adm := s.adm.shift k
    fsp := s.fsp.shift k
    dim := s.dim.shift k
    drv := s.drv.shift k
    can := s.can.shift k
    ford := s.ford.shift k
    cop := s.cop.shift k
    key := { s.key with maintEnd := moveCn? k s.key.maintEnd }
    upd := s.upd.shift k
    mon := s.mon.shift k
    sys := s.sys.shift k }

end Sys2Proof.Machine
end

