-- ==== Sys2Proof/Machine/TimeOps.lean ====
section
/-! DEFINITION. Operations of the TIME block (02): slots and cycles, crossings, the servo, sources. -/

namespace Sys2Proof.Machine

def tstateCode : TState → Nat
  | .unset => 0
  | .locking => 1
  | .locked => 2
  | .holdover => 3

def mstateCode : MState → Nat
  | .unattributed => 0
  | .tracking => 1
  | .freeRun => 2
  | .relock => 3

def sourceCode : Option TSource → Nat
  | none => 0
  | some (.ptp p) => 1 + p.val
  | some .pps => 3

/-- TIME_STATUS (Table 2.7). -/
def State.timeStatus (s : State) : Nat :=
  tstateCode s.time.tstate + sourceCode s.time.source * 4 + mstateCode s.time.mstate * 16
    + flag s.time.issued 7 + flag s.time.jump 8 + flag (decide (s.time.slewCyc ≠ 0)) 9
    + flag (decide (s.time.nominal = 60)) 10 + flag s.time.absent 11

/-- A TIME record (id 0x10, Table 16.4). -/
def State.recordTime (s : State) (source kind payload : Nat) : State :=
  s.record source 0x10 .ok (le 1 kind ++ [0] ++ le 4 payload ++ le 5 s.cn)

/-- A timebase happening of source 769 (Table 11.2), posted and recorded (R609). -/
def State.timebaseEvent (s : State) (kind port : Nat) : State :=
  let payload := s.timeStatus % 65536 + 16777216 * port
  (s.post 769 kind payload).recordTime 769 kind payload

/-- A mains happening of source 770, posted and recorded. -/
def State.mainsEvent (s : State) (kind : Nat) : State :=
  (s.post 770 kind (s.cn % 4294967296)).recordTime 770 kind (s.cn % 4294967296)

/-- A re-base: event 0x03 of source 770 and its record (Table 16.4). -/
def State.rebaseEvent (s : State) (prov attributed : Cn) : State :=
  (s.post 770 3 (attributed % 4294967296)).record 770 0x10 .ok (le 1 3 ++ le 5 prov ++ le 5 attributed)

/-- A SYNC_IN happening of source 771 (Table 11.2), posted and recorded. -/
def State.syncEvent (s : State) (kind : Nat) (d : Int) : State :=
  let payload := twos 16 d + 65536 * (s.time.syncOfs % 65536)
  (s.post 771 kind payload).recordTime 771 kind payload

/-! Slots. -/

/-- The period of the predictor in ns: the mean of the last 16 valid periods, or the nominal one (R60, R70). -/
def State.period (s : State) : Nat :=
  if s.time.periods = [] then quotientNat 1000000000 s.time.nominal
  else quotientNat s.time.periods.sum s.time.periods.length

/-- The nominal slot length in ns: half the period (R60). -/
def State.nominalSlot (s : State) : Nat :=
  quotientNat s.period 2

/-- The most a slot may be corrected, in ns: 0.5 % of the nominal slot (R62). -/
def State.slotLimit (s : State) : Nat :=
  s.nominalSlot * 5 / 1000

/-- A whole-cycle slew runs now: it waits for a phase error and is suspended without the mains (R73). -/
def State.slewing (s : State) : Bool :=
  decide (s.time.slewCyc ≠ 0) && decide (s.time.mstate = .tracking) && decide (s.time.phaseErr = 0)

/-- The correction of the slot that begins (R62, R70, R72, R73). -/
def State.slotCorrection (s : State) : Int :=
  if s.time.absent then 0
  else if s.slewing then (if 0 < s.time.slewCyc then -(s.slotLimit : Int) else s.slotLimit)
  else clampInt (-(s.slotLimit : Int)) s.slotLimit s.time.phaseErr

/-- Begin a slot: take its length and use up the correction. -/
def State.beginSlot (s : State) : State :=
  let c := s.slotCorrection
  let len := ((s.nominalSlot : Int) + c).toNat
  { s with time := { s.time with
      slotLen := len
      cycleLen := s.time.cycleLen + len
      corrUsed := s.time.corrUsed + c
      phaseErr := if s.slewing then s.time.phaseErr else s.time.phaseErr - c } }

/-- The second slot of the cycle begins at the midpoint (R28). -/
def State.beginSecond (s : State) : State :=
  let s := s.advanceTo (s.time.cycleLen / 10)
  { s with time := { s.time with second := true } }.beginSlot

/-- The whole-cycle slew after one more cycle: one cycle is slewed in every 200 (R73). -/
def TimeSt.slewCycle (t : TimeSt) (running : Bool) : TimeSt :=
  if running then
    if t.slewSub + 1 = 200 then
      { t with slewSub := 0, slewCyc := if 0 < t.slewCyc then t.slewCyc - 1 else t.slewCyc + 1 }
    else { t with slewSub := t.slewSub + 1 }
  else t

/-- CYC of the next cycle at its predicted instant: CN counts on and its first slot begins (R27, R34). -/
def State.nextCycle (s : State) : State :=
  let s := if s.time.second then s else s.beginSecond
  let s := s.advanceTo (s.time.cycleLen / 10)
  let running := s.slewing
  { s with
    cn := s.cn + 1
    time := { (s.time.slewCycle running) with
      tsc := 0, second := false, cycleLen := 0, corrUsed := 0
      cycRefs := (s.time.ref :: s.time.cycRefs).take 4096 } }.beginSlot

/-- Cycles begin to be counted from a CN, at a tick of the reference (R68). -/
def State.startCount (s : State) (cn : Cn) (ref : Nat) : State :=
  { s with
    cn := cn
    time := { s.time with
      counting := true, tsc := s.time.ref - ref, second := false, cycleLen := 0, corrUsed := 0
      cycRefs := [ref] } }.beginSlot

/-- The CN a start counts from: the last one held in MRAM plus 1 (R68). -/
def State.firstCn (s : State) : Cn :=
  match s.time.mramCn with
  | some n => n + 1
  | none => s.cn

/-! Crossings. -/

/-- City time of an instant given in ticks since reset, in 2^-32 ns, through the counter as it stands (R59). -/
def State.cityAt (s : State) (ref : Int) : Int :=
  (cityUnits s.time.city : Int) - ((s.time.ref : Int) - ref) * s.time.incr

/-- Nanoseconds of city time at an instant. -/
def State.nsAt (s : State) (ref : Int) : Int :=
  s.cityAt ref / 4294967296

/-- The cycle length in ns that the predictor expects. -/
def State.cycleNs (s : State) : Int :=
  2 * (s.nominalSlot : Int)

/-- The CN whose CYC lies nearest to an instant `ofs` ns after the CYC of the current CN, and the signed
distance from that CYC (R71). -/
def State.nearestCyc (s : State) (ofs : Int) : Cn × Int :=
  if 2 * ofs > s.cycleNs then (s.cn + 1, ofs - s.cycleNs)
  else if 2 * ofs < -s.cycleNs then (s.cn - 1, ofs + s.cycleNs)
  else (s.cn, ofs)

/-- A period is valid between 65 Hz and 45 Hz (R60). -/
def validPeriod (ns : Int) : Bool :=
  decide (15385000 ≤ ns) && decide (ns ≤ 22222000)

/-- Seven periods within 0.5 % of one another (R71). -/
def steadyPeriods (l : List Nat) : Bool :=
  decide (l.length = 7) && decide ((maxOf l - minOr 0 l) * 1000 ≤ 5 * minOr 0 l)

/-- Keep a crossing in the history of 1,024 (R59). -/
def TimeSt.keep (t : TimeSt) (c : Crossing) : TimeSt :=
  { t with history := (t.history ++ [c]).drop (t.history.length + 1 - 1024) }

/-- TIME_PERIOD_DAY: the mean period over the last 24 h of LOCKED operation (R57). -/
def TimeSt.periodDay (t : TimeSt) : Nat :=
  if (t.day.map Prod.snd).sum = 0 then 0
  else quotientNat (t.day.map Prod.fst).sum (t.day.map Prod.snd).sum

/-- Add a period of LOCKED operation to the day's mean (R57). -/
def TimeSt.addDay (t : TimeSt) (period : Nat) : TimeSt :=
  match t.day with
  | [] => { t with day := [(period, 1)] }
  | (a, n) :: r =>
    if n < 3600 * t.nominal then { t with day := (a + period, n + 1) :: r }
    else { t with day := ((period, 1) :: (a, n) :: r).take 24 }

/-! The servo. -/

/-- Set the rate correction in parts per 10^12, and the increment it comes to (R42, R43, R46). -/
def TimeSt.setRate (t : TimeSt) (ppt : Int) : TimeSt :=
  let u := (quotient (42949672960 * (1000000000000 + ppt)) 1000000000000).toNat
  { t with rate := ppt, incrNs := u / 4294967296 % 256, incrFrac := u % 4294967296 }

/-- The PI correction -(KP θ + KI S)/tau in parts per 10^12, KP in 1/256 and KI in 1/65536, each over a divisor (R46, R57). -/
def piRate (kp ki : Nat) (kpDiv kiDiv : Nat) (theta integral : Int) (tauUs : Nat) : Int :=
  quotient (-(1000000000 * (256 * (kp : Int) * theta * kiDiv + (ki : Int) * integral * kpDiv)))
    (65536 * kpDiv * kiDiv * tauUs)

/-- A servo update from an accepted offset (R46); with SERVO_EN clear the increment is held. -/
def State.servoUpdate (s : State) (theta : Int) : State :=
  if bit 2 (s.reg 0x40020000) then
    let integral := s.time.integral + theta
    let limit : Int := 1000 * (s.reg 0x40020038 : Int)
    let r := clampInt (-limit) limit
      (piRate (s.reg 0x40020030) (s.reg 0x40020034) 1 1 theta integral (1000 * max 1 s.time.tauMs))
    let t := ({ s.time with integral := integral }).setRate r
    { s with time := { t with rates := (r :: t.rates).take 64 } }
  else s

/-- The offset of HOLDOVER at a crossing: city time elapsed since entry less the elapsed cycles at the
mean period of the day; gains KP/64 and KI/4,096, within 0.5 ppm of the rate at entry (R57). -/
def State.holdoverUpdate (s : State) (ref : Int) (cn : Cn) : State :=
  if s.time.tstate = .holdover && s.time.periodDay ≠ 0 && bit 2 (s.reg 0x40020000) then
    let theta := s.nsAt ref - s.time.holdCity - ((cn : Int) - s.time.holdCn) * s.time.periodDay
    let integral := s.time.integral + theta
    let r := clampInt (s.time.holdRate - 500000) (s.time.holdRate + 500000)
      (piRate (s.reg 0x40020030) (s.reg 0x40020034) 64 4096 theta integral (s.period / 1000))
    { s with time := { ({ s.time with integral := integral }).setRate r with lastOffset := theta } }
  else s

/-- Enter LOCKING: the median history is empty and the consecutive counts restart (R47, R48). -/
def TimeSt.enterLocking (t : TimeSt) : TimeSt :=
  { t with tstate := .locking, median := [], run := [], bigRun := 0 }

/-- Enter HOLDOVER: the rate is the mean of the last 64 accepted updates (R57), and TIME_HOLDOVER or
TIME_SOURCE_JUMP is posted (R48). -/
def State.enterHoldover (s : State) (kind : Nat) : State :=
  let (base, s) := s.drawNat
  let r := if s.time.rates = [] then s.time.rate else quotient (sumInt s.time.rates) s.time.rates.length
  let t := s.time.setRate r
  let s := { s with time := { t with
      tstate := .holdover, source := none, run := [], median := [], bigRun := 0
      holdRef := s.time.ref, holdCn := s.cn, holdRate := r, holdCity := cityUnits s.time.city / 4294967296
      holdBase := base } }
  s.timebaseEvent kind 0

/-- A source is selected by TIME_CTRL.SRC (Table 2.6). -/
def State.selects (s : State) (src : TSource) : Bool :=
  match field 1 0 (s.reg 0x40020000), src with
  | 0, .ptp _ => true
  | 0, .pps => false
  | 3, _ => false
  | _, _ => true

/-- A source is valid: selected and delivering (R611). -/
def State.sourceValid (s : State) : TSource → Bool
  | .ptp 0 => s.selects (.ptp 0) && s.time.valid0
  | .ptp _ => s.selects (.ptp 1) && s.time.valid1
  | .pps => s.selects .pps && s.time.validPps

/-- The first valid source in the order TIME_CTRL.SRC gives. -/
def State.nextSource (s : State) : Option TSource :=
  let order : List TSource :=
    if field 1 0 (s.reg 0x40020000) = 2 then [.pps, .ptp 0, .ptp 1] else [.ptp 0, .ptp 1, .pps]
  order.find? fun x => s.sourceValid x

/-- The timebase changes source (R614): S and the rate stay, the median and the counts restart. -/
def TimeSt.changeSource (t : TimeSt) (src : TSource) : TimeSt :=
  { t with source := some src, median := [], run := [], bigRun := 0 }

/-- The source in use is gone (Table 2.1, R611): the next valid one, or HOLDOVER, or UNSET. -/
def State.sourceLost (s : State) : State :=
  match s.nextSource with
  | some src =>
    if s.time.tstate = .locked || s.time.tstate = .locking then { s with time := s.time.changeSource src }
    else s
  | none =>
    match s.time.tstate with
    | .locked => s.enterHoldover 2
    | .locking =>
      if s.time.wasLocked then s.enterHoldover 2
      else { s with time := { s.time with tstate := .unset, source := none, run := [], median := [], bigRun := 0 } }
    | .unset => { s with time := { s.time with source := none } }
    | .holdover => s

/-- Where the source in use is no longer valid, act as at its loss. -/
def State.checkSource (s : State) : State :=
  match s.time.source with
  | some src => if s.sourceValid src then s else s.sourceLost
  | none => s

/-- The source in use may deliver to the servo: it is the one in use, or none is and it is the first
valid one (R48, R611). -/
def State.takesFrom (s : State) (src : TSource) : Bool :=
  match s.time.source with
  | some x => decide (x = src)
  | none => decide (s.nextSource = some src)

/-- A violation of a PTP or PPS partner (Table 2.4). -/
def State.timeViolation (s : State) : State :=
  { s with time := { s.time with viol := satAdd 65535 s.time.viol 1 } }

/-- Violations of the last 1,000 cycles with one more. -/
def recent (cn : Cn) (l : List Cn) : List Cn :=
  cn :: l.filter fun c => decide (cn < c + 1000)

/-- A counted violation of a PTP port; the sixteenth within 1,000 cycles mutes it (R86). -/
def State.ptpViolation (s : State) (p : Fin 2) : State :=
  let s := s.timeViolation
  let v := recent s.cn (lget {} p s.time.ports).violations
  if v.length ≥ 16 then
    ({ s with time := { s.time with
        ports := lmod (fun q => { q with violations := [], muteEnd := some (s.cn + 1000) }) p s.time.ports } }).timebaseEvent 4 p
  else { s with time := { s.time with ports := lmod (fun q => { q with violations := v }) p s.time.ports } }

/-- A counted violation of a source. -/
def State.sourceViolation (s : State) (src : TSource) : State :=
  match src with
  | .ptp p => s.ptpViolation p
  | .pps => s.timeViolation

/-- The median of 8 accepted samples doubled: the sum of the two in the middle (R47). -/
def median8 (l : List Int) : Int :=
  lget 0 3 (sortInt l) + lget 0 4 (sortInt l)

/-- An offset departs from the median of the last 8 by more than TIME_OUTLIER (R47). -/
def State.isOutlier (s : State) (theta : Int) : Bool :=
  decide (s.time.median.length = 8)
    && decide ((2 * theta - median8 s.time.median).natAbs > 2 * s.reg 0x4002003C)

/-- The spread of a list of offsets. -/
def spread (l : List Int) : Nat :=
  match sortInt l with
  | [] => 0
  | x :: r => ((r.getLast?.getD x) - x).natAbs

/-- Step the counter by the mean of four offsets and disarm the step (R44, R48); a provisional count
that no beacon has carried is then moved at the next crossing from the stored waymark (R68). -/
def State.stepCounter (s : State) (four : List Int) : State :=
  { s with time := { s.time with
      city := ofCityUnits ((cityUnits s.time.city : Int) - sumInt four * 1073741824).toNat
      armed := false
      run := []
      median := []
      movePending := s.time.movePending
        || (!s.time.provMoved && s.time.provisional && s.time.mramWaymark.isSome && !s.time.provBeacon) } }

/-- An accepted offset: history, servo and consecutive counts (R46 to R48). -/
def State.acceptOffset (s : State) (theta : Int) : State :=
  let s := { s with time := { s.time with
      lastOffset := theta
      bigRun := if theta.natAbs > 1000000000 then s.time.bigRun else 0
      median := if theta.natAbs > 1000000000 then s.time.median else (theta :: s.time.median).take 8
      run := (theta :: s.time.run).take 16 } }
  if s.time.armed then
    if s.time.tstate = .locking && s.time.run.length ≥ 4 && spread (s.time.run.take 4) ≤ 1000 then
      s.stepCounter (s.time.run.take 4)
    else s
  else
    let s := s.servoUpdate theta
    if s.time.tstate = .locking && s.time.run.length = 16 && s.time.run.all fun x => decide (x.natAbs ≤ 1000) then
      ({ s with time := { s.time with tstate := .locked, wasLocked := true } }).timebaseEvent 1 0
    else s

/-- An offset above 1 s (R47, R49, Table 2.1, Table 2.4). -/
def State.bigOffset (s : State) (src : TSource) (theta : Int) : State :=
  if s.time.tstate = .locking && s.time.armed then s.acceptOffset theta
  else
    let s := s.sourceViolation src
    let s := { s with time := { s.time with bigRun := s.time.bigRun + 1, run := [] } }
    if s.time.tstate = .locked && s.time.bigRun ≥ 2 then
      ({ s with time := { s.time with jump := true } }).enterHoldover 3
    else s

/-- An offset of HOLDOVER: four in a row within 1 s and TIME_OUTLIER of one another, JUMP clear, bring
the timebase back to LOCKING (Table 2.1). -/
def State.returningOffset (s : State) (src : TSource) (theta : Int) : State :=
  let s := { s with time := { s.time with run := (theta :: s.time.run).take 16 } }
  if s.time.run.length ≥ 4 && spread (s.time.run.take 4) ≤ s.reg 0x4002003C && !s.time.jump then
    { s with time := { (s.time.enterLocking) with source := some src } }
  else s

/-- An offset of the local counter from a source, in ns (R46 to R49, R611). -/
def State.offset (s : State) (src : TSource) (theta : Int) : State :=
  if !s.takesFrom src then s
  else
    let s := match s.time.tstate with
      | .unset => { s with time := { (s.time.enterLocking) with source := some src } }
      | _ => s
    if theta.natAbs > 1000000000 then s.bigOffset src theta
    else match s.time.tstate with
      | .holdover => s.returningOffset src theta
      | _ =>
        if s.isOutlier theta then
          (({ s with time := { s.time with outliers := s.time.outliers + 1, run := [], bigRun := 0 } }).sourceViolation src)
        else s.acceptOffset theta

/-- PPS_OUT is high: LOCKED or HOLDOVER, enabled, and within the pulse from the start of the second (R56). -/
def State.ppsOut (s : State) : Bool :=
  let w := field 31 12 (s.reg 0x400200A0)
  (decide (s.time.tstate = .locked) || decide (s.time.tstate = .holdover)) && bit 8 (s.reg 0x400200A0)
    && decide (s.time.city.ns < 1000 * (if w = 0 then 100000 else w))

/-! Attribution. -/

/-- The crossing of the history nearest to a city time in ns, the earlier of two equally near. -/
def State.nearestCrossing (s : State) (ns : Int) : Option Crossing :=
  s.time.history.foldl (fun best c =>
    match best with
    | none => some c
    | some b => if (s.nsAt c.ref - ns).natAbs < (s.nsAt b.ref - ns).natAbs then some c else some b) none

/-- A city time falls within an absence of the mains: from TIMEOUT after the last valid crossing to the
crossing with which the mains is present again (R65, R70, R71). -/
def State.whileAbsent (s : State) (ns : Int) : Bool :=
  s.time.absences.any fun (a, b) =>
    decide (s.nsAt a < ns) && (match b with
      | some e => decide (ns < s.nsAt e)
      | none => true)

/-- An absence of the mains begins. -/
def TimeSt.absenceFrom (t : TimeSt) (at_ : Nat) : TimeSt :=
  { t with absences := (t.absences ++ [(at_, none)]).drop (t.absences.length + 1 - 1024) }

/-- The absence that lasts ends. -/
def TimeSt.absenceEnds (t : TimeSt) (at_ : Nat) : TimeSt :=
  { t with absences := t.absences.map fun (a, b) => (a, some (b.getD at_)) }

end Sys2Proof.Machine
end

