-- ==== Sys2Proof/Machine/RadOps.lean ====
section
/-! DEFINITION. Operations of the air schedule (03): modes and airtime, channels, duty sums, cells, and the
frames held for them. Airtime is counted in thirds of a microsecond, in which every fixed rate is whole. -/

namespace Sys2Proof.Machine

/-! Transceivers. -/

/-- RAD_TRXt_CTRL of a transceiver (Table 3.14). -/
def State.trxCtrl (s : State) (t : Nat) : Nat :=
  s.reg (0x40070100 + 0x40 * t)

/-- A transceiver below TRX8 that serves a grove: EN of RAD_TRXt_CTRL. -/
def State.trxServes (s : State) (t : Nat) : Bool :=
  bit 0 (s.trxCtrl t)

/-- The grove a transceiver's control register names. -/
def State.trxGrove (s : State) (t : Nat) : Nat :=
  field 3 1 (s.trxCtrl t)

/-- The transceiver of a grove. -/
def State.trxOf (s : State) (g : Nat) : Option Nat :=
  (upFrom 0 8).find? fun t => s.trxServes t && decide (s.trxGrove t = g)

/-- Groves in use: those a transceiver serves. -/
def State.grovesInUse (s : State) : List Nat :=
  (upFrom 0 8).filter fun g => (s.trxOf g).isSome

/-- G, the number of groves (R115). -/
def State.groveCount (s : State) : Nat :=
  s.grovesInUse.length

def State.trx (s : State) (t : Nat) : TrxSt :=
  lget {} t s.rad.trxs

def State.modTrx (s : State) (t : Nat) (f : TrxSt → TrxSt) : State :=
  { s with rad := { s.rad with trxs := lmod f t s.rad.trxs } }

/-- A transceiver's grove runs: the transceivers are enabled, and it is in service or TRX8 serves it (R92, R93). -/
def State.trxRuns (s : State) (t : Nat) : Bool :=
  bit 0 (s.reg 0x40070000) && s.trxServes t
    && (!((s.trx t).failed || (s.trx t).underTest) || decide (s.rad.serving = some t))

/-- A grove is stopped under R93: its transceiver failed and TRX8 does not serve it. -/
def State.groveStopped (s : State) (g : Nat) : Bool :=
  match s.trxOf g with
  | some t => (s.trx t).failed && decide (s.rad.serving ≠ some t) && decide (s.rad.takeover ≠ some t)
  | none => true

/-- The transceiver that carries a grove's frames: its own, or TRX8 (R92). -/
def State.carrier (s : State) (t : Nat) : Nat :=
  if s.rad.serving = some t then 8 else t

/-- STATE of a transceiver (Table 3.15). -/
def State.trxState (s : State) (t : Nat) : Nat :=
  let x := s.trx t
  if x.failed then 4
  else if x.underTest then 3
  else if s.rad.serving = some t then 2
  else if t = 8 then (if s.rad.serving.isSome then 1 else if bit 0 (s.reg 0x40070000) then 2 else 0)
  else if bit 0 (s.reg 0x40070000) && s.trxServes t then 1 else 0

/-- Report a transceiver's change of STATE from what it was (Table 11.2). -/
def State.trxChanged (s : State) (t old : Nat) : State :=
  if s.trxState t = old then s else s.post (817 + t) 1 (s.trxState t + old * 256)

/-! Modes, caps and airtime. -/

/-- Rate of a fixed mode in kb/s (Table 3.14); 0 for OFDM and reserved codes. -/
def phyRate : Nat → Nat
  | 0 => 50
  | 1 => 100
  | 2 => 150
  | 3 => 200
  | 4 => 300
  | 6 => 250
  | _ => 0

/-- Octets before the PSDU (R102). -/
def phyHead (phy : Nat) : Nat :=
  if phy = 6 then 6 else 12

/-- PHY, OFDM option and MCS of a control word. -/
def ctrlMode (c : Nat) : Nat × Nat × Nat :=
  (field 11 8 c, field 17 16 c, field 20 18 c)

/-- Airtime of a PSDU in thirds of a microsecond (R102). -/
def airtime (mode : Nat × Nat × Nat) (psdu : Nat) : Nat :=
  if phyRate mode.1 = 0 then 3 * Config.ofdmAirtime mode.2.1 mode.2.2 psdu
  else (phyHead mode.1 + psdu) * 24000 / phyRate mode.1

/-- TsMaxAck (Table 3.2). -/
def maxAck (mode : Nat × Nat × Nat) : Nat :=
  airtime mode (if mode.1 = 6 then 22 else 24)

/-- TsMaxTx at a slot length in nanoseconds, in thirds of a microsecond (Table 3.2). -/
def maxTx (mode : Nat × Nat × Nat) (slotNs : Nat) : Nat :=
  slotNs * 3 / 1000 - 7200 - maxAck mode

/-- The largest PSDU whose airtime fits a time, at most 127 octets on O-QPSK (R102). -/
def largestPsdu (mode : Nat × Nat × Nat) (avail : Nat) : Nat :=
  let n := avail * phyRate mode.1 / 24000 - phyHead mode.1
  if mode.1 = 6 then min 127 n else n

/-- A mode's PSDU cap at a nominal frequency (R102, R103, Table 3.3). -/
def psduCap (mode : Nat × Nat × Nat) (nominal : Nat) : Nat :=
  if mode.1 = 5 then Config.ofdmCap mode.2.1 mode.2.2 nominal
  else largestPsdu mode (maxTx mode (if nominal = 60 then 7896000 else 9476000))

/-- The cap of a transceiver's mode. -/
def State.trxCap (s : State) (t : Nat) : Nat :=
  psduCap (ctrlMode (s.trxCtrl t)) s.time.nominal

/-- A frame's airtime on a transceiver's mode. -/
def State.trxAirtime (s : State) (t psdu : Nat) : Nat :=
  airtime (ctrlMode (s.trxCtrl t)) psdu

/-! Channels (R115, R116). -/

/-- Channel indices of the plan less the excluded ones (R116). -/
def Regulatory.base (p : Regulatory) : List Nat :=
  (upFrom 0 p.span).filter fun i => !(p.excluded.contains i)

/-- One step of the shuffle's register (R116). -/
def lfsr (x : Nat) : Nat :=
  if x % 2 = 1 then (x / 2) ^^^ 0xB400 else x / 2

/-- Exchange two places of a list. -/
def swapAt (i j : Nat) (l : List Nat) : List Nat :=
  lset j (lget 0 i l) (lset i (lget 0 j l) l)

/-- The shuffle of R116, from place i down to 1. -/
def shuffle : Nat → Nat → List Nat → List Nat
  | 0, _, l => l
  | i + 1, x, l => shuffle i (lfsr x) (swapAt (i + 1) (lfsr x % (i + 2)) l)

/-- The hopping sequence (R116). -/
def hopSequence (base : List Nat) (seed : Nat) : List Nat :=
  shuffle (base.length - 1) seed base

/-- Channels in the hopping sequence. -/
def State.channels (s : State) : Nat :=
  s.rad.profile.base.length

/-- The channel index of a cell (R116). -/
def State.channel (s : State) (asn offset : Nat) : Nat :=
  lget 0 ((asn + offset) % max 1 s.channels) (hopSequence s.rad.profile.base (s.reg 0x40070014))

/-- The channel offset of a grove's cells (R115): stage cells g, J0 g + G, J1 g + 2 G. -/
def State.offsetOf (s : State) (g : Nat) (stage : Nat) : Nat :=
  g + stage * s.groveCount

/-- The sub-band of a channel index. -/
def Regulatory.bandOf (p : Regulatory) (ch : Nat) : Nat :=
  (p.bands.findIdx? fun b => decide (b.low ≤ ch) && decide (ch ≤ b.high)).getD 0

def Regulatory.band (p : Regulatory) (i : Nat) : SubBand :=
  lget { low := 0, high := 0, power := 0, lbt := false, duty := 0xFFFFFFFF } i p.bands

/-- Port power of a transceiver on a channel, in 0.25 dB from 0 dBm (R91). -/
def State.portPower (s : State) (t ch : Nat) : Int :=
  let limit : Int := ((s.rad.profile.band (s.rad.profile.bandOf ch)).power : Int) - lget 0 (t / 2) s.can.site.gains
  min 108 (min (field 31 24 (s.trxCtrl t) : Int) limit)

/-! Duty sums (R95, R96). -/

/-- Key of a duty sum: one for the module, or one a transceiver, by the profile's SCOPE. -/
def State.dutyKey (s : State) (t band : Nat) : Nat :=
  (if s.rad.profile.scopeTrx then t else 0) * 8 + band

/-- Airtime of the rolling hour. -/
def State.dutyUsed (s : State) (t band : Nat) : Nat :=
  ((tget (s.dutyKey t band) s.rad.duty).getD []).sum

/-- Add airtime to the present bin. -/
def State.addDuty (s : State) (t band n : Nat) : State :=
  let k := s.dutyKey t band
  let bins := match (tget k s.rad.duty).getD [] with
    | [] => [n]
    | b :: r => (b + n) :: r
  { s with rad := { s.rad with duty := tput k bins s.rad.duty } }

/-- Budget of a sub-band in thirds of a microsecond, without or with the reserve kept back; `none` where
it has no duty limit (R95, R96). -/
def State.dutyBudget (s : State) (band : Nat) (reserve : Bool) : Option Nat :=
  let b := s.rad.profile.band band
  if b.lbt || decide (b.duty = 0xFFFFFFFF) then none
  else if reserve then some (b.duty * 3000)
  else some (b.duty * 30 * (100 - s.reg 0x40070020))

/-- A frame's airtime fits the budget of its sub-band (R95, R96). -/
def State.dutyFits (s : State) (t band n : Nat) (reserve : Bool) : Bool :=
  match s.dutyBudget band reserve with
  | none => true
  | some b => decide (s.dutyUsed t band + n ≤ b)

/-! Guard times (R127, R128). -/

/-- Guard g of a ledger entry in microseconds. -/
def State.guard_ (s : State) (e : Entry) : Nat :=
  field 15 0 (s.reg 0x40070018) + (e.drift.natAbs * (s.cn - e.heard) + 999) / 1000

/-- Mark RESYNC on an entry whose guard would exceed 1,200 microseconds (R128). -/
def State.markResync (s : State) (e : Entry) : Entry :=
  if e.state = .active && decide (1200 < s.guard_ e) then { e with resync := true } else e

/-- Mark every entry (R128). -/
def State.markAll (s : State) : State :=
  { s with rad := { s.rad with ledger := s.rad.ledger.map fun p => (p.1, s.markResync p.2) } }

/-! The ledger (R124, R125, R136). -/

/-- Ledger place of a short address (R136). -/
def ledgerKey (short : Nat) : Nat :=
  short - 0x1000

def State.entry (s : State) (short : Nat) : Option Entry :=
  if 0x1000 ≤ short ∧ short < 0x2000 then tget (ledgerKey short) s.rad.ledger else none

def State.modEntry (s : State) (short : Nat) (f : Entry → Entry) : State :=
  { s with rad := { s.rad with ledger := tmod (ledgerKey short) f s.rad.ledger } }

def State.putEntry (s : State) (short : Nat) (e : Entry) : State :=
  { s with rad := { s.rad with ledger := tput (ledgerKey short) e s.rad.ledger } }

/-- How a verified frame counter stands to an entry (R125). -/
inductive Judged where
  | accept (e : Entry)
  | duplicate
  | replay
  /-- Under a generation older than the one the entry tracks: dropped silently. -/
  | older
  deriving DecidableEq, Repr

/-- The judgement of R125 over a window. -/
def judgeWindow (e : Entry) (c : Nat) : Judged :=
  if c = 0xFFFFFFFF then .replay
  else if e.fresh then .accept { e with fresh := false, h := c, w := 1 }
  else if e.h + 64 ≤ c then .accept { e with w := 1, h := c }
  else if e.h < c then .accept { e with w := ((e.w <<< (c - e.h)) % 2 ^ 64) ||| 1, h := c }
  else if e.h ≤ c + 63 then
    if e.w.testBit (e.h - c) then .duplicate else .accept { e with w := e.w ||| 2 ^ (e.h - c) }
  else .replay

/-- The judgement of R125: a newer generation restarts the entry. -/
def judgeFrame (current : Nat) (e : Entry) (keyIndex c : Nat) : Judged :=
  if keyIndex = e.keyIndex ∨ e.fresh then judgeWindow { e with keyIndex := keyIndex } c
  else if keyIndex = current then judgeWindow { e with keyIndex := keyIndex, fresh := true, h := 0, w := 0 } c
  else .older

/-! Cells of the module, at hop 0 (R105, R110, R111). -/

/-- Residues of ASN modulo 16 free of SF-Safety, SF-Prompt and SF-Wave at hop 0 (Table 3.4). -/
def freeResidues : List Nat := [1, 2, 4, 5, 6, 10, 12, 13, 14]

/-- Offsets of SF-Join at which RAD_JOIN_OPEN can be set: free at hop 0, and not offset 2 (Table 3.13). -/
def joinOpenMask : Nat :=
  flags ((upFrom 0 32).map fun o => freeResidues.contains (o % 16) && decide (o ≠ 2)) 0

/-- The join cell open at an ASN (R111). -/
def State.joinCellAt (s : State) (asn : Nat) : Bool :=
  bit (asn % 32) (masked joinOpenMask (s.reg 0x40070028))

/-- A slot of SF-Bulk the engines gave a grove's link to a neighbour: only on a free residue, never on an open join
cell or the advertising cell (R112); whether it is one, and whether the module sends in it. -/
def State.bulkAt (s : State) (g neighbour asn : Nat) : Bool × Bool :=
  if freeResidues.contains (asn % 16) && decide (asn % 32 ≠ 2) && !s.joinCellAt asn then Config.bulkCell g neighbour (asn % 400)
  else (false, false)

/-- A link has a bulk cell in which the module sends; otherwise its bulk frames go in prompt cells (R112, R144). -/
def State.hasBulk (s : State) (g neighbour : Nat) : Bool :=
  (upFrom 0 400).any fun a => (s.bulkAt g neighbour a).1 && (s.bulkAt g neighbour a).2

/-- The ASN of the slot in progress (R99). -/
def State.asn (s : State) : Nat :=
  2 * s.cn + (if s.time.second then 1 else 0)

/-! Frames. -/

/-- Octets of the PSDU of a held frame (R102, R131, R138): 23 octets of MAC overhead, 19 for an unsecured grant, and two
fewer with the FCS of O-QPSK. -/
def Held.psdu (h : Held) (phy : Nat) : Nat :=
  h.payload.length + (match h.cell with | .join _ => 19 | _ => 23) - (if phy = 6 then 2 else 0)

/-- A lantern link header of the module without ROUTED (R138). -/
def linkHeader (type flagBits dest seq : Nat) : List Byte :=
  le 1 type ++ le 1 flagBits ++ le 2 0 ++ le 2 dest ++ le 2 seq

/-- A ROUTED header with its path (R138, R140). -/
def routedHeader (type flagBits dest seq : Nat) (path : List Nat) : List Byte :=
  le 1 type ++ le 1 (flagBits + 2) ++ le 2 0 ++ le 2 dest ++ le 2 seq ++ le 1 path.length ++ (path.map (le 2)).flatten

/-- Hold a frame for its cell. -/
def State.hold (s : State) (h : Held) : State :=
  { s with rad := { s.rad with frames := s.rad.frames ++ [h] } }

/-- Take the next sequence of the module's messages (R138). -/
def State.takeSeq (s : State) : Nat × State :=
  (s.rad.seq, { s with rad := { s.rad with seq := (s.rad.seq + 1) % 65536 } })

/-- A node by its short address. -/
def State.nodeAt (s : State) (short : Nat) : Option NodeRec :=
  s.node.nodes.find? fun n => decide (n.short = short)

/-- A node by its EUI-64. -/
def State.nodeOf (s : State) (eui : Nat) : Option NodeRec :=
  s.node.nodes.find? fun n => decide (n.eui = eui)

/-- Change the record of a node. -/
def State.modNode (s : State) (eui : Nat) (f : NodeRec → NodeRec) : State :=
  { s with node := { s.node with nodes := s.node.nodes.map fun n => if n.eui = eui then f n else n } }

/-- Short addresses from the module down to a node, the node last (R140). -/
def State.pathTo (s : State) (short : Nat) : Nat → List Nat
  | 0 => [short]
  | fuel + 1 =>
    match s.nodeAt short with
    | some n => if n.parent = 0 then [short] else s.pathTo n.parent fuel ++ [short]
    | none => [short]

/-- Retransmissions of a unicast frame (R108). -/
def State.maxRetry (s : State) : Nat :=
  field 3 0 (s.reg 0x40070024)

/-- Record id 0x20 of a node (Table 16.4). -/
def State.recordNode (s : State) (g short state detail argument : Nat) (reason : Reason) : State :=
  s.record (0x0410 + g) 0x20 reason (le 2 short ++ le 1 state ++ le 1 detail ++ le 4 argument)

/-- Code of a node's state (Table 16.4): FREE is 5. -/
def linkStateCode : LinkState → Nat
  | .joining => 0
  | .scheduled => 1
  | .stray => 2
  | .lost => 3
  | .excluded => 4
  | .absent => 5

/-- A node changes its state (R184): recorded, and its routes are to be reloaded where SCHEDULED begins or ends (R283). -/
def State.setLink (s : State) (n : NodeRec) (st : LinkState) : State :=
  if n.state = st then s
  else
    let s := s.modNode n.eui fun n => { n with state := st }
    let s := s.recordNode n.grove n.short (linkStateCode st) 0 0 .ok
    if n.state = .scheduled ∨ st = .scheduled then
      { s with dim := { s.dim with moved := s.dim.moved ++ [n.eui] } }
    else s

/-- A frame that a node originated was accepted (R184): its keepalive period is not missed, and a STRAY node
is SCHEDULED again. -/
def State.nodeHeard (s : State) (short : Nat) : State :=
  match s.nodeAt short with
  | some n =>
    let s := s.modNode n.eui fun n => { n with heard := true }
    if n.state = .stray then (s.modNode n.eui fun n => { n with missed := 0 }).setLink { n with heard := true } .scheduled else s
  | none => s

/-- Send a unicast message to a node along its path (R140, R144). -/
def State.sendNode (s : State) (n : NodeRec) (cell : Cell) (type : Nat) (body : List Byte) (load : Load) (notBefore : Nat) : State :=
  let (q, s) := s.takeSeq
  let path := s.pathTo n.short 7
  let first := lget n.short 0 path
  let cell := if cell = .bulk && !s.hasBulk n.grove first then Cell.prompt else cell
  s.hold { grove := n.grove, cell := cell, dest := first, type := type, load := load, notBefore := notBefore
           left := s.maxRetry
           payload := routedHeader type 0 n.short q ((path.drop 1).dropLast) ++ body }

/-- Flood a message to a grove (R141): SF-Safety frames go out twice (R107). -/
def State.flood (s : State) (g : Nat) (cell : Cell) (type : Nat) (body : List Byte) (load : Load) (notBefore : Nat) : State :=
  let (q, s) := s.takeSeq
  let safety := decide (cell = .safety)
  s.hold { grove := g, cell := cell, dest := 0xFFFF, type := type, load := load, notBefore := notBefore
           left := if safety then 2 else 1
           payload := linkHeader type (if safety then 12 else 4) 0xFFFF q ++ body }

/-- A counted violation of a partner in a grove: its entry becomes MUTED at the sixteenth within 1,000 cycles,
recorded and posted (R126). A source without an entry is counted per grove only. -/
def State.radViolation (s : State) (g short type : Nat) (reason : Reason) : State :=
  let s := match s.trxOf g with
    | some t => s.modTrx t fun x => { x with viol := bump x.viol }
    | none => s
  match s.entry short with
  | some e =>
    if e.state = .active then
      let v := recent s.cn e.violations
      let s := s.record (0x0410 + g) 0x07 reason (le 1 type ++ le 2 short ++ le 4 v.length)
      if v.length ≥ 16 then
        let s := s.putEntry short { e with state := .muted, violations := [], muteEnd := some (s.cn + 1000) }
        let st := match s.nodeAt short with
          | some n => linkStateCode n.state
          | none => 5
        (s.recordNode g short st 2 16 .ok).postTile .mac g 2 1 0
      else s.putEntry short { e with violations := v }
    else s
  | none => { s with rad := { s.rad with groveViol := lmod bump g s.rad.groveViol } }

end Sys2Proof.Machine
end

