-- ==== Sys2Proof/Machine/CopOps.lean ====
section
/-! DEFINITION. Operations of coppice and the understory (13): units, pools, fellings, the end of a slice. -/

namespace Sys2Proof.Machine

/-- Understory units of a kind (Table 13.1). -/
def poolSize (kind : Nat) : Nat :=
  lget 0 kind [8, 2, 1, 32, 160, 4, 2, 2]

/-- Units of a kind (Table 13.1). -/
def kindSize (kind : Nat) : Nat :=
  lget 0 kind [56, 18, 9, 544, 8192, 68, 18, 10]

/-- Kinds each stand owns; the others are common (Table 13.1). -/
def ownKind (kind : Nat) : Bool :=
  [0, 1, 3, 4, 5].contains kind

/-- A unit's name: common units carry stand A. -/
def unitOf (stand : Stand) (kind index : Nat) : UnitId :=
  { stand := if ownKind kind then stand else .a, kind := kind, index := index }

/-- Place of a stand in the lists kept for both. -/
def Stand.place : Stand → Nat
  | .a => 0
  | .b => 1

/-- What coppice holds of a unit. -/
def State.unit (s : State) (id : UnitId) : UnitSt :=
  (s.cop.units.find? fun u => decide (u.id = id)).getD { id := id }

/-- Put what coppice holds of a unit. -/
def State.putUnit (s : State) (u : UnitSt) : State :=
  let units :=
    if s.cop.units.any fun x => decide (x.id = u.id) then s.cop.units.map fun x => if x.id = u.id then u else x
    else s.cop.units ++ [u]
  { s with cop := { s.cop with units := units } }

def State.modUnit (s : State) (id : UnitId) (f : UnitSt → UnitSt) : State :=
  s.putUnit (f (s.unit id))

/-- Felled units of a kind: those slices and faults felled, and queue rows and MRAM sectors their owners left
out (R409, R461, R534). -/
def State.felledOf (s : State) (stand : Stand) (kind : Nat) : Nat :=
  countIf (fun u => decide (u.id.kind = kind) && decide (u.mark = some .felled)
      && (decide (u.id.stand = stand) || !ownKind kind)) s.cop.units
    + (if kind = 3 then s.que.felled.length else if kind = 5 then s.way.sectors.length else 0)

/-- Free understory units of a kind: a unit only lent to a slice still counts (R466). -/
def State.freeOf (s : State) (stand : Stand) (kind : Nat) : Nat :=
  poolSize kind - s.felledOf stand kind

/-- A unit carries a function now. -/
def State.carries (s : State) (id : UnitId) : Bool :=
  match id.kind with
  | 0 => s.can.slots.any fun p =>
      decide (lget 0 id.stand.place p.2.tiles = id.index) || decide (lget none id.stand.place p.2.carriers = some id.index)
  | 1 => (lget [] id.stand.place s.can.engines).contains id.index && s.can.loaded
  | 2 => if id.index = 8 then s.rad.serving.isSome else s.trxServes id.index && decide (s.rad.serving ≠ some id.index)
  | 6 => s.mtr.paths.contains id.index
  | 7 => s.drv.dies.contains id.index
  | k => decide (id.index < kindSize k - poolSize k)

/-- The state of a unit (Table 13.8). -/
def State.unitState (s : State) (id : UnitId) : UnitState :=
  match (s.unit id).mark with
  | some m => m
  | none => if s.carries id then .active else .understory

/-- A unit of the pool that carries no slice. -/
def State.spare (s : State) (id : UnitId) : Bool :=
  decide (s.unitState id = .understory)
    && !(s.cop.slices.any fun x => decide (x.unit.kind = id.kind) && decide (x.unit.stand = id.stand)
          && decide (x.carrier = some id.index))

/-- Indices of a kind whose unit is free to carry a victim (Table 13.1; R92 for transceivers, R299 for input paths). -/
def State.carriersFor (s : State) (stand : Stand) (kind victim : Nat) : List Nat :=
  if kind = 2 then
    if victim = 8 then (match s.rad.serving with
      | some t => if s.spare (unitOf stand 2 t) then [t] else []
      | none => [])
    else if s.spare (unitOf stand 2 8) then [8] else []
  else if kind = 6 then
    (match s.mtr.paths.findIdx? fun p => decide (p = victim) with
      | some c => [16 + field 3 0 (s.reg (0x40050400 + 0x20 * c)) / 8].filter fun i => decide (i ≠ victim) && s.spare (unitOf stand 6 i)
      | none => [])
  else (upFrom 0 (kindSize kind)).filter fun i => decide (i ≠ victim) && s.spare (unitOf stand kind i)

/-- One of a list, by a value the spec leaves open (log 12). -/
def State.pickOne (s : State) (l : List Nat) : Nat × State :=
  let (v, s) := s.drawNat
  (lget 0 (v % max 1 l.length) l, s)

/-- A unit is felled for good (R461, R463); the last free unit of its kind raises thin understory (R466). -/
def State.fell (s : State) (id : UnitId) : State :=
  let s := s.modUnit id fun u => { u with mark := some .felled, due := none }
  let s := { s with cop := { s.cop with fellings := bump s.cop.fellings } }
  if s.freeOf id.stand id.kind = 0 then s.raiseThin id.kind else s

/-- Codes of COP_LAST results (Table 13.6). -/
inductive SliceResult where
  | pass
  | fail
  | incomplete
  | transient
  | felled
  deriving DecidableEq, Repr

def SliceResult.code : SliceResult → Nat
  | .pass => 1
  | .fail => 2
  | .incomplete => 3
  | .transient => 4
  | .felled => 5

/-- The record of a slice (Table 16.4, R461, R472): kind and index, MISR, expected. -/
def State.recordSlice (s : State) (source id : Nat) (u : UnitId) (result : SliceResult) : State :=
  s.record source id .ok (le 4 (unitPayload u.kind u.index + 1048576 * result.code) ++ le 4 s.cop.misr ++ le 4 s.cop.expected)

/-- A slice has ended (Table 13.6): COP_LAST, source 876. -/
def State.sliceEnded (s : State) (u : UnitId) (result : SliceResult) (icause : Nat) : State :=
  ({ s with cop := { s.cop with
      lastKind := u.kind, lastIndex := u.index, lastResult := result.code, lastIcause := icause, lastCn := s.cn } }).post
    876 1 (unitPayload u.kind u.index + 1048576 * result.code)

/-- The victim of an ended slice joins the pool (R458), or is left SUSPECT (R461). -/
def State.returnVictim (s : State) (x : Slice) (suspect : Bool) : State :=
  let s := { s with cop := { s.cop with slices := s.cop.slices.filter fun y => decide (y.unit ≠ x.unit) } }
  let s := s.modUnit x.unit fun u => { u with mark := if suspect then some .suspect else none }
  if x.unit.kind = 2 then s.modTrx x.unit.index fun t => { t with underTest := false } else s

/-- A slice is cut short (R462): it ends INCOMPLETE with a cause, a retest leaves the unit SUSPECT. A slice
that is only fixed is dropped. -/
def State.cutSlice (s : State) (icause : Nat) (x : Slice) : State :=
  if x.started then
    let s := s.returnVictim x x.retest
    let s := { s with cop := { s.cop with incompletes := bump s.cop.incompletes } }
    s.sliceEnded x.unit .incomplete icause
  else { s with cop := { s.cop with slices := s.cop.slices.filter fun y => decide (y.unit ≠ x.unit) } }

/-- Cut short every slice a test names (R462). -/
def State.cutSlices (s : State) (icause : Nat) (p : Slice → Bool) : State :=
  forEach (fun x s => s.cutSlice icause x) (s.cop.slices.filter p) s

/-- Give a function to a unit: the mapping of its kind names the carrier instead of the victim. -/
def State.handTo (s : State) (u : UnitId) (carrier : Nat) : State :=
  match u.kind with
  | 0 =>
    let move (x : SlotUse) : SlotUse :=
      if lget 0 u.stand.place x.tiles = u.index then { x with tiles := lset u.stand.place carrier x.tiles } else x
    { s with can := { s.can with slots := s.can.slots.map fun p => (p.1, move p.2) } }
  | 1 =>
    let engines := lmod (fun l => l.map fun e => if e = u.index then carrier else e) u.stand.place s.can.engines
    { s with can := { s.can with engines := engines } }
  | 2 => if u.index = 8 then { s with rad := { s.rad with serving := none } }
         else { s.endTest with rad := { s.rad with serving := some u.index } }
  | 6 => { s with mtr := { s.mtr with paths := s.mtr.paths.map fun p => if p = u.index then carrier else p } }
  | 7 => { s with drv := { s.drv with dies := s.drv.dies.map fun d => if d = u.index then carrier else d } }
  | _ => s

/-- Run time of a tile or engine slice in ns (Table 13.4, R460): pattern count times scan clocks at 100 MHz. The spec gives
the other kinds none. -/
def State.runNs (s : State) (x : Slice) : Nat :=
  let count := if s.build = .s || decide (x.by_ = s.ford.active) then 65536 else 262144
  match x.unit.kind with
  | 0 => count * 1040 * 10
  | 1 => count * 2080 * 10
  | _ => 0

/-- The CYC at which a slice's victim joins the pool, as far as it is known: the first after the run that goes on (R458). -/
def State.sliceEnd (s : State) (x : Slice) : Cn :=
  x.c + s.runNs x / max 1 s.period + 1

end Sys2Proof.Machine
end

