-- ==== Sys2Proof/Machine/Keys.lean ====
section
/-! DEFINITION. Key commands, slot expiry and attestation (R478-R486, R496, R498, R499). -/

namespace Sys2Proof.Machine

/-- Whether a path grants a key command on a slot (R477, R478): a monitor session on J7 with the owner role;
the register window for slots of MAKER; and MAKER for WRITE of KS02 and KS04 in the factory state. -/
def State.mayKey (s : State) (w : Writer) (slot : Nat) (op : KeyOp) : Bool :=
  let factoryWrite := s.key.factory && decide (w.role = .maker) && decide (op = .write) && (decide (slot = 2) || decide (slot = 4))
  let owner := match slotOwner slot with
    | some r => decide (w.role = r)
    | none => false
  match w.via with
  | .monitor => owner || factoryWrite
  | .session _ => decide (w.role = .maker) && ((owner && decide (slotOwner slot = some .maker)) || factoryWrite)
  | .module => false

/-- Attributes the next command gives a slot: Table 14.2's, or KEY_SLOT_ATTR's for a general slot. -/
def State.attrFor (s : State) (slot : Nat) : SlotRule :=
  match slotRule slot with
  | some r => r
  | none =>
    let a := s.key.attr
    { usage := field 3 0 a, mb := bit 6 a, te := bit 7 a, parent := if bit 14 a then some (field 13 8 a) else none, owner := some .installer }

/-- A usage a general slot may have (Table 14.2): DERIVE, ATTEST, IMAGE_DEC, STORAGE or HMAC. -/
def generalUsage (u : Nat) : Bool :=
  [0x1, 0x3, 0x7, 0x8, 0xB].contains u

/-- Why a key command on a slot is refused, by its attributes and its slot's state (R474, R475, R476, R483). -/
def State.keyRefusal (s : State) (slot : Nat) (op : KeyOp) (r : SlotRule) : Reason :=
  let general := decide (32 ≤ slot)
  if general && decide (op ≠ .erase) && !generalUsage r.usage then .unsupported
  else if r.mb && decide (op ≠ .erase) && decide (op ≠ .derive_) then .malformed
  else match op with
    | .write => if (s.slot slot).state = .withered then .keyWithered else .ok
    | .generate =>
      if !general then .unsupported else if (s.slot slot).state = .withered then .keyWithered else .ok
    | .derive_ =>
      match r.parent with
      | none => .malformed
      | some p =>
        if (s.slot p).state = .withered then .keyWithered
        else if (s.slot p).usage = 1 ∧ (s.slot p).state = .live then .ok else .notAuthorised
    | .erase => .ok
    | .rotate => .ok

/-- The 32 octets in KEY_DATA or KEY_INFO: word i holds octets 4i to 4i + 3. -/
def wordsOctets (l : List Nat) : List Byte :=
  (l.map (le 4)).flatten

/-- What a command leaves in its slot (R478, R480). -/
def State.keyResult (s : State) (op : KeyOp) (r : SlotRule) : SlotSt × State :=
  match op with
  | .write =>
    ({ state := .live, value := ofOctets256 (wordsOctets s.key.data), usage := r.usage, mb := false, te := r.te
       parent := r.parent, source := .written }, s)
  | .generate =>
    let (v, s) := s.drawRandom
    ({ state := .live, value := v, usage := r.usage, mb := false, te := r.te, parent := r.parent, source := .generated }, s)
  | .derive_ =>
    let p := r.parent.getD 0
    ({ state := .live, value := s.derived r.usage r.mb p (wordsOctets s.key.info), usage := r.usage, mb := r.mb
       te := r.te, parent := some p, source := .derived, info := wordsOctets s.key.info }, s)
  | _ => ({}, s)

/-- Refuse a key command: the reason shows in KEY_CMD_STATUS and in the record. -/
def State.refuseKey (s : State) (w : Writer) (slot : Nat) (op : KeyOp) (reason : Reason) : State :=
  ({ s with key := { s.key with reason := reason, tagged := false } }).recordKey w.role slot op reason false

/-- A key command on a slot begins (R479); one that comes after POWER_FAIL asserts is refused (Table 18.5). -/
def State.keyCommand (s : State) (w : Writer) (slot : Nat) (op : KeyOp) : State × Reason :=
  if s.key.run.isSome || s.sys.powerFail then (s.refuseKey w slot op .busy, .busy)
  else if !s.mayKey w slot op then (s.refuseKey w slot op .notAuthorised, .notAuthorised)
  else
    let r := s.attrFor slot
    match s.keyRefusal slot op r with
    | .ok =>
      let (c, s) := s.keyResult op r
      ({ s with key := { s.key with run := some { op := op, slot := slot, role := w.role, result := c } } }, .ok)
    | reason => (s.refuseKey w slot op reason, reason)

/-- KEY_WRITE, KEY_DERIVE, KEY_GENERATE, KEY_ERASE (R478, R480, R483): a write of KEY_CMD with the slot in
bits 13:8. -/
def execKeyWrite (slot : Fin 64) (w : Writer) (s : State) : Host.Outcome State Fault Refusal :=
  .next (s.whenLive fun s => (s.keyCommand w slot.val .write).1)

def execKeyDerive (slot : Fin 64) (w : Writer) (s : State) : Host.Outcome State Fault Refusal :=
  .next (s.whenLive fun s => (s.keyCommand w slot.val .derive_).1)

def execKeyGenerate (slot : Fin 64) (w : Writer) (s : State) : Host.Outcome State Fault Refusal :=
  .next (s.whenLive fun s => (s.keyCommand w slot.val .generate).1)

def execKeyErase (slot : Fin 64) (w : Writer) (s : State) : Host.Outcome State Fault Refusal :=
  .next (s.whenLive fun s => (s.keyCommand w slot.val .erase).1)

/-- SCHEDULED nodes of a grove. -/
def State.scheduledIn (s : State) (g : Nat) : List NodeRec :=
  s.node.nodes.filter fun n => decide (n.grove = g) && decide (n.state = .scheduled)

/-- The largest number of SCHEDULED nodes in any grove (R485). -/
def State.scheduledMost (s : State) : Nat :=
  maxOf ((upFrom 0 8).map fun g => (s.scheduledIn g).length)

/-- The earliest effective CN a rotation may take (R485). -/
def State.earliestRotation (s : State) : Cn :=
  s.cn + 16 * s.scheduledMost + 512

/-- The generation after another (R485): 255 is followed by 1. -/
def nextGeneration (g : Nat) : Nat :=
  if g ≥ 255 then 1 else g + 1

/-- Derive the grove keys of every grove in use into a half from a root (R480, R485). -/
def State.deriveGroves (s : State) (half root generation : Nat) : State :=
  forEach (fun g s => s.setSlot (16 + 8 * half + g)
    { state := .live, value := s.derived 9 false (12 + root) (s.groveInfo g generation), usage := 9, te := true
      parent := some (12 + root), source := .derived }) s.grovesInUse s

/-- Generate a grove root in KS12 or KS13 (R485, R497). -/
def State.generateRoot (s : State) (root : Nat) : State :=
  let (v, s) := s.drawRandom
  s.setSlot (12 + root) { state := .live, value := v, usage := 1, te := true, source := .generated }

/-- A node's install key (R134): the K_I of its ADMISSION entry. -/
def State.installKey (s : State) (eui : Nat) : BitVec 256 :=
  match (s.inForce 0x0001).find? fun e => decide (ofLe (slice 0 8 e) = eui) with
  | some e => ofOctets256 (slice 8 16 e)
  | none => 0

/-- The grove key of a grove under a generation (R133): the slot of the half that holds it. -/
def State.groveKey (s : State) (g generation : Nat) : BitVec 256 :=
  let half := if generation = s.key.generation then s.key.half else 1 - s.key.half
  (s.slot (16 + 8 * half + g)).value

/-- JOIN_GRANT body (Table 4.5): bytes 0 to 19, then the key and MIC wrapped under the install key. -/
def State.grantBody (s : State) (status : Reason) (regrant : Bool) (n : NodeRec) (generation : Nat) (switch : Cn)
    (nonce : Nat) : List Byte :=
  let head := le 1 (reasonCode status) ++ le 1 (if regrant then 1 else 0) ++ le 2 n.short ++ le 2 n.parent ++ le 1 n.hop
    ++ le 2 n.phi ++ le 1 n.cls ++ le 1 generation ++ le 5 switch ++ le 4 nonce
  let key := if status = .ok then (octets256 (s.groveKey n.grove generation)).take 16 else List.replicate 16 0
  head ++ padTo 24 (Config.ccm (s.installKey n.eui) (head ++ key))

/-- A JOIN_GRANT with REGRANT to a node (R155, R485): status OK, the switch CN and the new generation. -/
def State.regrant (s : State) (n : NodeRec) (effective : Cn) (generation : Nat) : State :=
  let nonce := n.regrantNonce + 1
  let s := s.modNode n.eui fun n => { n with regrantNonce := nonce }
  s.sendNode n .prompt 0x02 (s.grantBody .ok true n generation effective nonce) (.regrant n.eui) 0

/-- The node has acknowledged no REGRANT yet. -/
def NodeRec.ungranted (n : NodeRec) : NodeRec :=
  { n with regranted := false }

/-- Start a grove rotation to an effective CN (R485). -/
def State.startRotation (s : State) (effective : Cn) (role : Role) : State :=
  let root := 1 - s.key.root
  let half := 1 - s.key.half
  let gen := nextGeneration s.key.issued
  let s := (s.generateRoot root).deriveGroves half root gen
  let s := { s with
    key := { s.key with
      reason := .ok, tagged := false, issued := gen
      rotation := some { effective := effective, generation := gen, root := root, half := half } }
    node := { s.node with nodes := s.node.nodes.map NodeRec.ungranted } }
  let s := forEach (fun n s => s.regrant n effective gen)
    (s.node.nodes.filter fun n => decide (n.state = .scheduled)) s
  let s := s.recordKey role (12 + root) .rotate .ok false
  s.post 869 1 (12 + root + 5 * 256)

/-- ROTATE_GROVE (R485): an INSTALLER's command with the effective CN in KEY_CMD_CN. -/
def State.rotateGrove (s : State) (w : Writer) : State × Reason :=
  let slot := 12 + (1 - s.key.root)
  let effective := s.reg 0x40080068 + 4294967296 * field 7 0 (s.reg 0x4008006C)
  let early := s.earliestRotation
  if s.key.run.isSome || s.sys.powerFail then (s.refuseKey w slot .rotate .busy, .busy)
  else if !(decide (w.role = .installer) && decide (w.via = .monitor)) then (s.refuseKey w slot .rotate .notAuthorised, .notAuthorised)
  else if s.key.rotation.isSome || s.upd.activation.isSome then (s.refuseKey w slot .rotate .busy, .busy)
  else if effective < early then
    let s := (s.setReg 0x40080068 (early % 4294967296)).setReg 0x4008006C (early / 4294967296 % 256)
    (s.refuseKey w slot .rotate .tooLate, .tooLate)
  else (s.startRotation effective w.role, .ok)

def execRotateGrove (w : Writer) (s : State) : Host.Outcome State Fault Refusal :=
  .next (s.whenLive fun s => s.rotateGrove w |>.1)

/-- A rotation the module starts itself at a frame counter's limit (R137, R485). -/
def State.selfRotate (s : State) : State :=
  if s.key.rotation.isSome then s else s.startRotation s.earliestRotation .nobody

/-- Nodes that acknowledged no REGRANT 256 cycles before the effective CN are recorded (R485). -/
def State.noteUngranted (s : State) : State :=
  match s.key.rotation with
  | some r =>
    if r.effective = s.cn + 256 then
      forEach (fun n s => s.recordNode n.grove n.short 1 3 r.generation .keyWithered)
        (s.node.nodes.filter fun n => decide (n.state = .scheduled) && !n.regranted) s
    else s
  | none => s

/-- CYC of a rotation's effective CN (R137, R485): the old root is invalidated, its grove keys wither, the new
half becomes current, and every sender counts its frames from 0. -/
def State.switchGroveKeys (s : State) : State :=
  match s.key.rotation with
  | some r =>
    if r.effective ≤ s.cn then
      let old := 12 + s.key.root
      let s := (s.witherChildren old).emptySlot old
      { s with
        key := { s.key with generation := r.generation, root := r.root, half := r.half, rotation := none }
        rad := { s.rad with counters := List.replicate 8 0 } }
    else s
  | none => s

/-- The running command's effect on its slot (R478, R483, R498). -/
def State.applyKey (s : State) (r : KeyRun) : State :=
  let s := s.invalidate r.slot
  let s := match r.op with
    | .erase => s.emptySlot r.slot
    | _ => s.setSlot r.slot (if r.tagged then { r.result with state := .withered, expiry := s.cn } else r.result)
  if r.op = .write ∧ r.slot = 2 ∧ r.role = .installer then { s with key := { s.key with factory := false } } else s

/-- Completion of the running command with a reason (R479): its record, and source 869. -/
def State.completeKey (s : State) (reason : Reason) : State :=
  match s.key.run with
  | none => s
  | some r =>
    let s := { s with key := { s.key with run := none } }
    let s := if reason = .ok then s.applyKey r else s
    let s := { s with key := { s.key with reason := reason, tagged := r.tagged } }
    let s := s.recordKey r.role r.slot r.op reason r.tagged
    s.post 869 1 (r.slot + 256 * keyOpCode r.op + 65536 * reasonCode reason)

/-- KEY_COMMAND_COMPLETE (R479). -/
def execKeyCommandComplete (s : State) : Host.Outcome State Fault Refusal :=
  .next (s.whenLive fun s => s.completeKey .ok)

/-- KEY_SLOT_EXPIRY (R484): a WITHERED slot at its expiry CN becomes EMPTY. -/
def execKeySlotExpiry (slot : Fin 64) (s : State) : Host.Outcome State Fault Refusal :=
  .next (s.whenLive fun s =>
    s.iff (decide ((s.slot slot).state = .withered) && decide ((s.slot slot).expiry ≤ s.cn)) fun s => s.emptySlot slot)

/-- Flags of the attestation input (Table 14.6). -/
def State.attFlags (s : State) : Nat :=
  flag s.tampered 0 + flag s.ford.safeHold 1 + flag (decide (s.build = .s)) 2

/-- The 123 octets attested (Table 14.6). -/
def State.attInput (s : State) (chal : List Byte) : List Byte :=
  ascii "CASQ-ATT" ++ padTo 32 chal ++ le 8 s.rad.eui ++ le 1 (if s.ford.active = .a then 0 else 1) ++ le 1 s.attFlags
    ++ octets256 s.key.bmc ++ octets256 s.can.digest ++ le 4 s.fsp.epoch ++ le 5 s.cn

/-- Attestation over a challenge (R486): no MAC unless KS05 is LIVE. -/
def State.attest (s : State) (chal : List Byte) : State :=
  let c := s.slot 5
  let reason : Reason := match c.state with
    | .live => .ok
    | .withered => .keyWithered
    | .empty => .notAuthorised
  let base : AttSt := { done := true, reason := reason, stand := if s.ford.active = .a then 0 else 1
                        flagBits := s.attFlags, epoch := s.fsp.epoch, cn := s.cn }
  { s with key := { s.key with att :=
      if reason = .ok then { base with mac := Config.hmac c.value (s.attInput chal) } else base } }

/-- ATTEST (R486, Table 14.7): a write of KEY_ATT_CMD.GO from the monitor or the register window, by a role. -/
def execAttest (w : Writer) (s : State) : Host.Outcome State Fault Refusal :=
  .next (s.whenLive fun s => s.iff (decide (w.via ≠ .module) && decide (w.role ≠ .nobody)) fun s => s.attest (wordsOctets s.key.chal))

/-- Slots in a state. -/
def KeySt.count (k : KeySt) (st : SlotState) : Nat :=
  countIf (fun c => decide (c.state = st)) k.slots

/-- TMPn is at its active level (R490): the logic level at the pin against POL. -/
def State.tmpActive (s : State) (n : Nat) : Bool :=
  xor (lget false n s.fld.tmpHigh) (bit (4 + n) (s.reg 0x400800B0))

/-- A TMPn input is watched (R490). -/
def State.tmpWatched (s : State) (n : Nat) : Bool :=
  bit n (s.reg 0x400800B0)

/-- Start, keep or end the debounce of a TMPn input as its level and configuration stand (R490). -/
def State.armTamper (s : State) (n : Nat) : State :=
  let since := if s.tmpWatched n && s.tmpActive n then some ((lget none n s.key.activeSince).getD s.time.ref) else none
  { s with key := { s.key with activeSince := lset n since s.key.activeSince } }

/-- Minutes left of the maintenance window, rounded up. -/
def State.maintLeft (s : State) : Nat :=
  match s.key.maintEnd with
  | some e => (e - s.cn + 60 * s.time.nominal - 1) / (60 * s.time.nominal)
  | none => 0

/-- KEY_STATUS (Table 14.13). -/
def State.keyStatus (s : State) : Nat :=
  flag s.tampered 0 + flag (decide (s.key.state = .maint)) 1 + flag s.key.run.isSome 2 + flag s.key.rotation.isSome 3
    + flag s.key.factory 4 + s.key.count .live * 256 + s.key.count .withered * 65536 + s.key.cause * 16777216

/-- Word i of 32 octets (R403). -/
def word256 (v : BitVec 256) (i : Nat) : Nat :=
  (v.toNat >>> (32 * i)) % 4294967296

/-- A register of the KEY block by its offset (Table 14.12). -/
def State.readKey (s : State) (o : Nat) : Nat :=
  let k := s.key
  let sel := field 5 0 (s.reg 0x40080004)
  let c := s.slot sel
  if o = 0x000 then s.keyStatus
  else if o = 0x008 then slotAttr sel c
  else if o = 0x00C then ofLe (checkValue c)
  else if o = 0x010 then c.expiry % 4294967296
  else if o = 0x014 then c.expiry / 4294967296 % 256
  else if o = 0x064 then reasonCode k.reason + flag k.run.isSome 8 + flag k.tagged 9
  else if 0x080 ≤ o ∧ o < 0x0A0 then word256 k.bmc ((o - 0x080) / 4)
  else if o = 0x0A0 then k.generation + k.root * 256 + k.half * 512
  else if o = 0x0A4 then (match k.rotation with | some r => r.effective % 4294967296 | none => 0)
  else if o = 0x0A8 then (match k.rotation with | some r => r.effective / 4294967296 % 256 | none => 0)
  else if o = 0x0B4 then
    flags ((upFrom 0 4).map s.tmpActive) 0 + flag k.meshOk 4 + flags k.qualified 8 + flag k.meshFault 12 + k.alarms * 65536
  else if o = 0x0B8 then s.maintLeft
  else if o = 0x0E4 then flag k.att.done 0 + reasonCode k.att.reason * 256
  else if o = 0x0E8 then k.att.stand + k.att.flagBits * 256
  else if o = 0x0EC then k.att.epoch
  else if o = 0x0F0 then k.att.cn % 4294967296
  else if o = 0x0F4 then k.att.cn / 4294967296 % 256
  else if 0x100 ≤ o ∧ o < 0x120 then word256 k.att.mac ((o - 0x100) / 4)
  else if 0x144 ≤ o ∧ o < 0x150 then
    let r := (o - 0x144) / 4
    lget 0 r k.granted + lget 0 r k.refused * 65536
  else if 0x020 ≤ o ∧ o < 0x064 then 0
  else s.reg (0x40080000 + o)

end Sys2Proof.Machine
end

