-- ==== Sys2Proof/Machine/UpdOps.lean ====
section
/-! DEFINITION. Shared operations of updates and caravans (R518 to R524): the journal and a caravan's state. -/

namespace Sys2Proof.Machine

/-- Change an outstanding promise. -/
def State.modPromise (s : State) (id : Nat) (f : Promise → Promise) : State :=
  { s with adm := { s.adm with promises := s.adm.promises.map fun p => if p.id = id then f p else p } }

/-- Write a journal entry (R518, Table 15.9). -/
def State.journalEntry (s : State) (op phase stand flagBits mseq data0 data1 : Nat) (digest : BitVec 256) : State :=
  let e : JrnEntry := {
    seq := (s.upd.jrnSeq + 1) % 4294967296, op := op, phase := phase, stand := stand, flagBits := flagBits, mseq := mseq
    cn := s.cn, data0 := data0, data1 := data1, digest := (octets256 digest).take 28 }
  let l := s.upd.journal ++ [e]
  { s with upd := { s.upd with journal := l.drop (l.length - 1024), jrnSeq := e.seq } }

/-- A phase changes: a journal entry, and source 881 (R519). -/
def State.journal (s : State) (op phase stand flagBits mseq data0 data1 : Nat) (digest : BitVec 256) : State :=
  (s.journalEntry op phase stand flagBits mseq data0 data1 digest).postRecord 881 0x60 1 phase .ok

/-- Settings word of a journal entry: the format in use and its area (Table 15.9). -/
def UpdSt.settingsWord (u : UpdSt) (format area : Nat) : Nat :=
  format % 65536 + u.format % 32768 * 65536 + area % 2 * 2147483648

/-- A caravan by its id: its selection and what is held of it. -/
def UpdSt.findCaravan (u : UpdSt) (id : Nat) : Option (Nat × Caravan) :=
  u.caravans.find? fun p => decide (p.2.id = id)

/-- Change a caravan. -/
def State.modCaravan (s : State) (id : Nat) (f : Caravan → Caravan) : State :=
  { s with upd := { s.upd with caravans := s.upd.caravans.map fun p => if p.2.id = id then (p.1, f p.2) else p } }

/-- A caravan moves to a phase of Table 15.10: journaled with the transaction id of its ACTIVATE. -/
def State.caravanPhase (s : State) (id phase : Nat) : State :=
  match s.upd.findCaravan id with
  | some (_, c) => s.journal 3 phase 0xFF 0 id c.tx (s.upd.settingsWord s.upd.format s.upd.area) c.manifest
  | none => s

/-- The first pass of an ACTIVATE goes out (R519): the commit point of a caravan. -/
def State.caravanSent (s : State) (promise : Nat) : State :=
  match s.adm.promises.find? fun p => decide (p.id = promise) with
  | some p => match p.caravan with
    | some id => match s.upd.findCaravan id with
      | some (_, c) => if c.state = .fixed then (s.modCaravan id fun c => { c with state := .sent }).caravanPhase id 0x21 else s
      | none => s
    | none => s
  | none => s

/-- The stand an entry of the journal names: both, or Stand A on the S build (Table 15.9). -/
def State.journalStand (s : State) : Nat :=
  if s.build = .t then 0xFF else 0

/-- Bits of the regions an activation clears (Table 15.9, Data 0). -/
def regionMask (l : List Nat) : Nat :=
  (l.map fun i => 2 ^ i).foldl (· + ·) 0

/-- Flags of a journal entry (Table 15.9). -/
def Activation.flagBits (a : Activation) : Nat :=
  flag a.committed 0 + flag (decide (a.path = .reboot)) 1

/-- Whether an activation brings new settings, in the other area (R511): handover and reboot. -/
def Activation.migrates (a : Activation) : Bool :=
  decide (a.path = .handover) || decide (a.path = .reboot)

/-- The phase of an operation without an activation (R518): the open session's. -/
def State.sessionPhase (s : State) (phase : Nat) : State :=
  let s := { s with upd := { s.upd with phase := phase, phaseCn := s.cn } }
  match s.upd.session with
  | some x => s.journal 1 phase s.journalStand 0 x.seq x.id (s.upd.settingsWord s.upd.format s.upd.area) x.digest
  | none => s.journal 1 phase s.journalStand 0 0 0 (s.upd.settingsWord s.upd.format s.upd.area) 0

/-- The activation moves to a phase of Table 15.10 (R518). -/
def State.stepPhase (s : State) (phase : Nat) : State :=
  match s.upd.activation with
  | none => s.sessionPhase phase
  | some a =>
    let s := { s with upd := { s.upd with phase := phase, phaseCn := s.cn } }
    let clears := decide (a.path = .clearings) && decide (s.can.activation.isSome)
    let data0 := match s.can.activation with
      | some x => if clears then regionMask x.all else a.session
      | none => a.session
    let word := if a.migrates then s.upd.settingsWord a.format (1 - s.upd.area) else s.upd.settingsWord s.upd.format s.upd.area
    s.journal (if clears then 2 else 1) phase s.journalStand a.flagBits a.seq data0 word a.digest

/-- What runs now, as the image to return to (R500). -/
def State.asBackup (s : State) : Backup :=
  { firmware := s.upd.firmware, area := s.upd.area, format := s.upd.format, tset := s.can.tset, image := s.can.image
    firmwareDigest := s.key.firmware }

/-- Change the activation. -/
def State.modActivation (s : State) (f : Activation → Activation) : State :=
  { s with upd := { s.upd with activation := s.upd.activation.map f } }

/-- A reason the spec does not state: one of Table 0.4 other than OK, free (log 12). -/
def State.openReason (s : State) : Reason × State :=
  let (v, s) := s.drawNat
  ((reasonOf (v % 17 + 1)).getD .malformed, s)

end Sys2Proof.Machine
end

