-- ==== Sys2Proof/Machine/AirOps.lean ====
section
/-! DEFINITION. What the MAC tiles do at the start of a slot: takeover, retransmission, cells in slotframe order,
beacons (R90, R92, R95-R97, R104-R113, R117-R121, R446). -/

namespace Sys2Proof.Machine

/-- Change the targets of a promise that have no result yet. -/
def Promise.modOpen (f : Target → Target) (p : Promise) : Promise :=
  { p with targets := p.targets.map fun t => if t.result.isNone then f t else t }

/-- The grove a short address names (R136). -/
def shortGrove (short : Nat) : Nat :=
  (short - 0x1000) / 512

/-- A grove was stopped: its targets without a result lose it (R212). -/
def State.markRadioLoss (s : State) (g : Nat) : State :=
  let mark (t : Target) : Target := if shortGrove t.short = g then { t with radioLoss := true } else t
  { s with adm := { s.adm with promises := s.adm.promises.map (Promise.modOpen mark) } }

/-- A target of a promise stops answering (R213): the node is to be re-routed. -/
def State.markSilent (s : State) (id short : Nat) : State :=
  let s := { s with node := { s.node with nodes := s.node.nodes.map fun (n : NodeRec) => if n.short = short then { n with reroute := true } else n } }
  s.modPromise id (Promise.modOpen fun t => if t.short = short then { t with silent := true } else t)

/-- Destination of a held frame's lantern link header (Table 4.2). -/
def Held.destination (h : Held) : Nat :=
  ofLe (slice 4 2 h.payload)

/-- A MAC tile is stopped by a destructive slice (R469). -/
def State.macStopped (s : State) (g : Nat) : Bool :=
  s.sliced (s.can.slotOf .mac g)

/-- Enhanced beacons may go out: EB_EN, and not on a provisional count that BEACON_PROV holds back (R68). -/
def State.mayBeacon (s : State) : Bool :=
  bit 0 (s.reg 0x4007001C) && (!s.time.provisional || bit 8 (s.reg 0x40020000))

/-- The module can admit a JOIN_REQ in a grove (R607). -/
def State.admitsJoins (s : State) (g : Nat) : Bool :=
  !s.groveStopped g && !s.tampered && !s.ford.safeHold && (!s.time.provisional || bit 8 (s.reg 0x40020000))

/-- AS of the Segment IE: 1 during a rejoin (R216). -/
def State.advSpread (s : State) : Nat :=
  if s.adm.rejoin.isSome then 1 else field 12 8 (s.reg 0x4007001C)

/-- The hold level of SAFE_LEVELS (Table 7.4). -/
def State.holdLevel (s : State) : Nat :=
  match (s.inForce 0x0013).head? with
  | some r => ofLe (slice 8 2 r)
  | none => 10000

/-- Segment IE content (Table 3.7). -/
def State.segmentIe (s : State) (g t : Nat) : List Byte :=
  le 1 1
    ++ le 1 (flag s.time.provisional 0 + flag (decide (s.time.nominal = 60)) 1 + flag s.ford.safeHold 2
        + flag (s.admitsJoins g) 3)
    ++ le 1 (g + (s.groveCount - 1) * 8) ++ le 1 s.advSpread ++ le 1 s.rad.profile.id ++ le 1 (min 255 (s.trxCap t))
    ++ le 8 (if s.ford.safeHold then 0 else masked joinOpenMask (s.reg 0x40070028))
    ++ le 2 (field 15 0 (s.reg 0x40070018))

/-- Channel Plan IE content (Table 3.8). -/
def State.channelIe (s : State) : List Byte :=
  let p := s.rad.profile
  le 4 p.f0 ++ le 2 p.spacing ++ le 1 p.span ++ le 2 (s.reg 0x40070014) ++ le 1 p.excluded.length
    ++ (p.excluded.map (le 1)).flatten ++ le 1 (flag p.lbt 0 + flag p.ackExempt 1) ++ le 2 (if p.lbt then p.tsCca else 128)
    ++ leInt 1 (if p.lbt then p.threshold else -128)

/-- Safe Level IE content (R120, R121). -/
def State.safeIe (s : State) : List Byte :=
  let w := s.reg 0x40070038
  if s.ford.safeHold then le 2 s.holdLevel ++ le 1 (reasonCode .safeHold) ++ le 5 (s.ford.holdCn + 1)
  else if bit 31 w then le 2 (field 15 0 w) ++ le 1 (field 23 16 w) ++ le 5 s.rad.safeCn
  else []

/-- Re-base IE content: in every beacon of the 64 cycles before the re-base (R68, R120). -/
def State.rebaseIe (s : State) : List Byte :=
  match s.time.rebase with
  | some r => if s.cn < r.at_ ∧ r.at_ ≤ s.cn + 64 then le 5 r.at_ ++ le 5 r.newCn else []
  | none => []

/-- The contents of a beacon's IEs with its ASN (Table 3.6). -/
def State.beaconBody (s : State) (g t asn : Nat) : List Byte :=
  s.segmentIe g t ++ s.channelIe ++ s.safeIe ++ s.rebaseIe ++ le 5 asn

/-- Octets of a beacon's PSDU, its FCS two octets shorter on O-QPSK (Table 3.6). -/
def State.beaconPsdu (s : State) (t : Nat) : Nat :=
  (if (ctrlMode (s.trxCtrl t)).1 = 6 then 70 else 72) + s.rad.profile.excluded.length + (if s.safeIe = [] then 0 else 10) + (if s.rebaseIe = [] then 0 else 12)

/-- CN is issued by the first beacon after attribution without the provisional flag (R66). -/
def TimeSt.beaconed (t : TimeSt) : TimeSt :=
  if t.provisional then { t with provBeacon := true }
  else if t.mstate = .unattributed then t else { t with issued := true }

/-- Take the next frame counter of a grove: from the grove's count, or from Ford's reserve in SAFE HOLD
(R137, R446). -/
def State.takeCounter (s : State) (g : Nat) : Nat × State :=
  (lget 0 g s.rad.counters, { s with rad := { s.rad with counters := lmod (· + 1) g s.rad.counters } })

/-- A beacon goes out on a transceiver's grove, within its sub-band's budget and listening where the profile
asks (R94, R95, R97, R110). -/
def State.sendBeacon (s : State) (t asn : Nat) (busy : List Nat) : State :=
  let g := s.trxGrove t
  let ch := s.channel asn (s.offsetOf g 0)
  let band := s.rad.profile.bandOf ch
  let air := s.trxAirtime t (s.beaconPsdu t)
  if s.rad.profile.lbt && busy.contains t then s.modTrx t fun x => { x with lbtBusy := bump x.lbtBusy }
  else if !s.dutyFits t band air true then
    (s.modTrx t fun x => { x with dutySkip := bump x.dutySkip }).postTile .mac g 3 1 0
  else
    let body := s.beaconBody g t asn
    let s := (s.takeCounter g).2
    let s := { s with rad := { s.rad with beaconCn := lset g (asn / 2) s.rad.beaconCn } }
    let s := (s.addDuty t band air).modTrx t fun x => { x with ebTx := bump x.ebTx }
    let s := if s.ford.safeHold then { s with ford := { s.ford with reserve := lmod (· - 1) g s.ford.reserve } }
             else { s with time := s.time.beaconed }
    (s.emit (.beacon g asn ch (s.portPower t ch) body)).postTile .mac g 5 1 0

/-- A frame's cell falls in a slot (R105, R111, R112). -/
def State.cellFalls (s : State) (asn : Nat) (h : Held) : Bool :=
  match h.cell with
  | .safety => decide (asn % 8 = 0)
  | .prompt => decide (asn % 16 = 0)
  | .wave => decide (asn % 4 = 3)
  | .join j => decide (asn % 32 = j)
  | .bulk => (s.bulkAt h.grove h.dest asn).1 && ((s.bulkAt h.grove h.dest asn).2 || s.rad.reversed.contains h.dest)

/-- A unicast frame to a RESYNC node, or through one, waits until the module next hears from it (R128). -/
def State.resyncStops (s : State) (h : Held) : Bool :=
  let marked (short : Nat) : Bool := match s.entry short with
    | some e => e.resync
    | none => false
  match h.cell with
  | .join _ => false
  | _ => decide (h.dest ≠ 0xFFFF) && (marked h.dest || marked h.destination)

/-- A held frame may go out in a slot. -/
def State.ripe (s : State) (g asn : Nat) (h : Held) : Bool :=
  decide (h.grove = g) && !s.resyncStops h && !h.awaiting && decide (h.notBefore ≤ asn)
    && (match h.until_ with | some u => decide (asn ≤ u) | none => true) && s.cellFalls asn h

/-- Order in which held frames take a slot: slotframe order (R106); in SF-Prompt the booked frames first, then
others, then further passes and REGRANTs (R195, R485). -/
def Held.rank (h : Held) : Nat :=
  match h.cell with
  | .safety => 0
  | .prompt => if h.until_.isSome then 3 else match h.load with
    | .promise _ _ => 1
    | .regrant _ => 4
    | .caravan _ _ => 3
    | _ => 2
  | .wave => 5
  | .join _ => 6
  | .bulk => match h.load with
    | .caravan _ _ => 8
    | _ => 7

/-- A booked frame of a promise is still held in a grove (R194). -/
def State.stillHeld (s : State) (id g : Nat) : Bool :=
  s.rad.frames.any fun h => decide (h.grove = g) && h.until_.isNone && (match h.load with
    | .promise i _ => decide (i = id)
    | _ => false)

/-- A residue-0 cell is booked, or needed to recover the booking before it (R194, R195). -/
def State.cellTaken (s : State) (g asn : Nat) : Bool :=
  s.adm.bookings.any fun b =>
    decide (b.grove = g) && b.link.isNone
      && (decide (b.asn = asn) || (decide (b.asn + 16 = asn) && s.stillHeld b.promise g))

/-- Whether a frame of low rank may use a slot: in cells no booking holds or needs; a REGRANT at most once in
32 slots. -/
def State.yields (s : State) (g asn : Nat) (h : Held) : Bool :=
  if h.rank = 3 then !s.cellTaken g asn
  else if h.rank = 4 then !s.cellTaken g asn && decide (asn % 32 = 0)
  else true

/-- Earliest cell booked among held frames of promises that may go out in a slot (R194). -/
def State.firstBooked (s : State) (g asn : Nat) : Option Nat :=
  ((s.rad.frames.filter fun h => s.ripe g asn h && decide (h.rank = 1)).map Held.notBefore).min?

/-- Place of the frame a grove sends in a slot: the first of the lowest rank; of booked frames the one whose cell
comes first (R194). -/
def State.pickFrame (s : State) (g asn : Nat) : Option Nat :=
  let ok (h : Held) : Bool := s.ripe g asn h && s.yields g asn h
    && (h.rank ≠ 1 || decide (s.firstBooked g asn = some h.notBefore))
  (upFrom 0 9).findSome? fun r => s.rad.frames.findIdx? fun h => ok h && decide (h.rank = r)

/-- A receive cell of the module in a slot: uplink listen, wave, open join cell, a bulk cell towards it (R105, R109,
R111, R112). -/
def State.listens (s : State) (g asn : Nat) : Bool :=
  decide (asn % 16 = 9) || decide (asn % 4 = 3) || s.joinCellAt asn
    || s.node.nodes.any fun n => decide (n.grove = g) && decide (n.hop = 1) && decide (n.state = .scheduled)
        && (s.bulkAt g n.short asn).1 && !(s.bulkAt g n.short asn).2

/-- A slot is the advertising cell of the module (R110). -/
def State.advertises (s : State) (asn : Nat) : Bool :=
  decide (asn % 32 = 2) && s.mayBeacon

/-- What a transceiver would do in a slot: 0 idle, 1 send, 2 listen. -/
def State.wants (s : State) (t asn : Nat) : Nat :=
  let g := s.trxGrove t
  if !s.trxRuns t || s.macStopped g || s.tampered || s.entering then 0
  else if s.ford.safeHold then
    (if asn % 32 = 2 ∧ 0 < lget 0 g s.ford.reserve ∧ lget 0 g s.ford.keys ≠ 0 then 1 else if s.listens g asn then 2 else 0)
  else if (s.pickFrame g asn).isSome || s.advertises asn then 1
  else if s.listens g asn then 2
  else 0

/-- Time a frame may take: TsMaxTx of the slot less the addressee's guard above 250 microseconds (R104). -/
def State.txRoom (s : State) (t : Nat) (h : Held) : Nat :=
  let m := maxTx (ctrlMode (s.trxCtrl t)) s.time.slotLen
  match s.entry h.dest with
  | some e => m - 3 * (s.guard_ e - 250)
  | none => m

/-- Stage of a frame's channel offset (R115). -/
def Held.stage (h : Held) : Nat :=
  match h.cell with
  | .join _ => 1
  | .bulk => if Config.bulkJ1 h.grove h.dest then 2 else 1
  | _ => 0

/-- A flooded item's last pass has gone out: every node of the grove holds it (R159). -/
def State.floodedItem (s : State) (g id : Nat) : State :=
  let ack (n : NodeRec) : NodeRec :=
    if n.grove = g then { n with items := n.items.map fun i => if i.id = id then { i with acked := true } else i } else n
  { s with node := { s.node with nodes := s.node.nodes.map ack } }

/-- The last part of a promise's item has gone to a grove. -/
def State.serveGrove (s : State) (id g : Nat) : State :=
  let serve (t : Target) : Target := if shortGrove t.short = g then { t with served := true } else t
  s.modPromise id (Promise.modOpen serve)

/-- A frame of a promise has been sent: its booking holds no airtime any more (R196), and an ACTIVATE's first pass
is journaled (R519). -/
def State.sentBooked (s : State) (h : Held) : State :=
  match h.load with
  | .promise id _ =>
    let same (b : Booking) : Bool := decide (b.promise = id) && decide (b.grove = h.grove) && decide (b.asn = h.notBefore)
    let s := { s with adm := { s.adm with
      bookings := s.adm.bookings.map fun b => if same b then { b with airtime := 0 } else b } }
    if h.type = 0x0D then s.caravanSent id else s
  | _ => s

/-- A held frame after its transmission: a broadcast has one copy fewer, a unicast awaits its acknowledgement. -/
def State.afterSend (s : State) (i : Nat) (h : Held) : State :=
  if h.dest = 0xFFFF then
    if h.left ≤ 1 then
      let s := { s with rad := { s.rad with frames := s.rad.frames.eraseIdx i } }
      match h.load with
      | .item _ id last => if last then s.floodedItem h.grove id else s
      | .promise id (some (_, item, true)) => (s.floodedItem h.grove item).serveGrove id h.grove
      | _ => s
    else { s with rad := { s.rad with frames := lset i { h with left := h.left - 1 } s.rad.frames } }
  else { s with rad := { s.rad with frames := lset i { h with awaiting := true } s.rad.frames } }

/-- SF-Safety takes the cell of a booked frame (R106, R209): from the second taking on, targets not yet
reached are preempted. -/
def State.takesCell (s : State) (g asn : Nat) (h : Held) : State :=
  if h.cell ≠ .safety then s
  else
    match s.rad.frames.find? fun x => s.ripe g asn x && decide (x.rank = 1) with
    | some x => match x.load with
      | .promise id _ => s.modPromise id fun p =>
          let p := { p with taken := p.taken + 1 }
          if p.taken ≥ 2 then p.modOpen fun t => { t with result := some .busy, preempted := true } else p
      | _ => s
    | none => s

/-- Transmit a held frame in a slot, unless the slot, the channel or the budget holds it back (R95, R97, R104). A
retransmission and the second copy of a safety frame are the same frame again, with its counter (R107, R108, R125); a
further pass is a frame of its own and takes a fresh one (R137, R195). -/
def State.transmit (s : State) (t asn i : Nat) (h : Held) (busy : List Nat) : State :=
  let g := h.grove
  let ch := s.channel asn (s.offsetOf g h.stage)
  let band := s.rad.profile.bandOf ch
  let air := s.trxAirtime t (h.psdu (ctrlMode (s.trxCtrl t)).1)
  if s.txRoom t h < air then s.modTrx t fun x => { x with held := bump x.held }
  else if s.rad.profile.lbt && busy.contains t then
    let s := s.modTrx t fun x => { x with lbtBusy := bump x.lbtBusy }
    { s with rad := { s.rad with busy := lmod (recent s.cn) g s.rad.busy } }
  else if !s.dutyFits t band air (decide (h.cell = .safety)) then
    (s.modTrx t fun x => { x with dutySkip := bump x.dutySkip }).postTile .mac g 3 1 0
  else
    let (c, s) := match h.counter with
      | some c => (c, s)
      | none => s.takeCounter g
    let h := { h with counter := if h.until_.isSome then none else some c }
    let s := (s.takesCell g asn h).addDuty t band air
    let s := if h.cell = .wave then s.postTile .waveRelay g 1 1 0 else s
    let s := if h.cell = .bulk then { s with rad := { s.rad with reversed := s.rad.reversed.filter fun n => decide (n ≠ h.dest) } } else s
    ((s.emit (.air g asn ch (s.portPower t ch) (match h.cell with | .join _ => h.joiner | _ => h.dest) c h.payload)).sentBooked h).afterSend i h

/-- One transceiver's slot, with what each would do: where two of a port would go opposite ways, the higher
one idles and counts (R90). -/
def State.runTrx (s : State) (asn : Nat) (busy plan : List Nat) (t : Nat) : State :=
  let w := lget 0 t plan
  let other := if t % 2 = 1 then lget 0 (t - 1) plan else 0
  if w = 0 then s
  else if other ≠ 0 ∧ other ≠ w then s.modTrx t fun x => { x with held := bump x.held }
  else if w = 2 then s
  else
    match (if s.ford.safeHold then none else s.pickFrame (s.trxGrove t) asn) with
    | some i => match s.rad.frames[i]? with
      | some h => s.transmit t asn i h busy
      | none => s
    | none => s.sendBeacon t asn busy

/-- A unicast frame whose acknowledgement did not come is sent again, or fails at its last attempt (R108). -/
def State.unacked (s : State) (h : Held) : State :=
  let s := match s.trxOf h.grove with
    | some t => s.modTrx t fun x => { x with txFail := bump x.txFail }
    | none => s
  let s := s.postTile .mac h.grove 1 1 0
  match h.load with
  | .promise id _ => s.markSilent id h.destination
  | _ => s

/-- Deal with the frames that awaited an acknowledgement in the slot before (R108). -/
def State.expireAcks (s : State) : State :=
  let dead := s.rad.frames.filter fun h => h.awaiting && decide (h.left = 0)
  let again (h : Held) : Held := if h.awaiting then { h with awaiting := false, left := h.left - 1 } else h
  let frames := (s.rad.frames.filter fun h => !(h.awaiting && decide (h.left = 0))).map again
  forEach (fun h s => s.unacked h) dead { s with rad := { s.rad with frames := frames } }

/-- Further passes whose last slot has gone are dropped (R195). -/
def State.dropPasses (s : State) (asn : Nat) : State :=
  let keep (h : Held) : Bool := match h.until_ with | some u => decide (asn ≤ u) | none => true
  { s with rad := { s.rad with frames := s.rad.frames.filter keep } }

/-- A takeover asked for happens at the slot boundary (R92). -/
def State.takeOver (s : State) : State :=
  match s.rad.takeover with
  | some t =>
    let (a, b) := (s.trxState t, s.trxState 8)
    let s := { s with rad := { s.rad with serving := some t, takeover := none } }
    (s.trxChanged t a).trxChanged 8 b
  | none => s

/-- A frame counter of the module, or the highest one accepted of a ledger entry, is at the limit (R137). -/
def State.atCounterLimit (s : State) : Bool :=
  (s.rad.counters.any fun c => decide (0xC0000000 ≤ c))
    || s.rad.ledger.any fun p => decide (p.2.state ≠ .free) && decide (0xC0000000 ≤ p.2.h)
        && decide (p.2.keyIndex = s.key.generation)

/-- The module starts a rotation itself at a counter limit (R137). -/
def State.checkCounters (s : State) : State :=
  if s.atCounterLimit then s.selfRotate else s

/-- What the transceivers do at the start of a slot; `busy` names those that find their channel busy (R97). -/
def State.slotStart (s : State) (busy : List Nat) : State :=
  let asn := if s.ford.safeHold then 2 * s.ford.shadowCn + (if s.time.second then 1 else 0) else s.asn
  let s := (s.takeOver.expireAcks).dropPasses asn
  let plan := (upFrom 0 8).map fun t => s.wants t asn
  (forEach (fun t s => s.runTrx asn busy plan t) (upFrom 0 8) s).checkCounters

end Sys2Proof.Machine
end

