-- ==== Sys2Proof/Machine/NodeOps.lean ====
section
/-! DEFINITION. Operations of the lantern link (04): configuration items and digests, schedules, grants, NAKs. -/

namespace Sys2Proof.Machine

/-! Items (R158 to R160). -/

/-- Items 0x00F0 to 0x00FF are transient (R158). -/
def transient (id : Nat) : Bool :=
  decide (0x00F0 ≤ id) && decide (id ≤ 0x00FF)

/-- Insert an item after those of its id. -/
def insertItem (x : Item) : List Item → List Item
  | [] => [x]
  | y :: r => if x.id < y.id then x :: y :: r else y :: insertItem x r

/-- Put a version of an item: a version still to come is replaced; of those in force the last stays. -/
def NodeRec.putItem (n : NodeRec) (cn : Cn) (x : Item) : NodeRec :=
  let same := n.items.filter fun y => decide (y.id = x.id) && decide (y.effective ≤ cn)
  let rest := n.items.filter fun y => decide (y.id ≠ x.id)
  let kept := match same.getLast? with
    | some y => if x.effective ≤ cn then rest else insertItem y rest
    | none => rest
  { n with items := insertItem x kept }

/-- The content of an item in force at a CN; `none` where it is absent or was removed. -/
def NodeRec.content (n : NodeRec) (cn : Cn) (id : Nat) : Option (List Byte) :=
  match (n.items.filter fun y => decide (y.id = id) && decide (y.effective ≤ cn)).getLast? with
  | some y => if y.content = [] then none else some y.content
  | none => none

/-- The content of an item once every version sent is in force. -/
def NodeRec.coming (n : NodeRec) (id : Nat) : Option (List Byte) :=
  match (n.items.filter fun y => decide (y.id = id)).getLast? with
  | some y => if y.content = [] then none else some y.content
  | none => none

/-- A rising list with each number once. -/
def eachOnce : List Nat → List Nat
  | [] => []
  | [x] => [x]
  | x :: y :: r => if x = y then eachOnce (y :: r) else x :: eachOnce (y :: r)

/-- Ids of a node's items, rising, each once. -/
def NodeRec.ids (n : NodeRec) : List Nat :=
  eachOnce (n.items.map Item.id)

/-- An item as the digest takes it (R159). -/
def itemOctets (id : Nat) (content : List Byte) : List Byte :=
  le 2 id ++ le 2 content.length ++ content

/-- The node digest at a CN (R159), as a number of 16 octets. -/
def NodeRec.digestAt (n : NodeRec) (cn : Cn) : Nat :=
  let part (id : Nat) : List Byte :=
    if transient id then [] else match n.content cn id with
      | some c => itemOctets id c
      | none => []
  (Config.sha256 ((n.ids.map part).flatten)).toNat % 2 ^ 128

/-- A node's digest agrees for good standing (R159). -/
def NodeRec.agrees (n : NodeRec) (cn : Cn) : Bool :=
  n.agreed && n.items.all fun i => i.acked || decide (cn < i.effective)

/-- Content in parts of 38 octets (Table 4.8). -/
def parts : Nat → List Byte → List (List Byte)
  | 0, _ => []
  | fuel + 1, l => if l.length ≤ 38 then [l] else l.take 38 :: parts fuel (l.drop 38)

/-- One PROFILE body (Table 4.8). -/
def profileBody (id part last : Nat) (effective : Cn) (content : List Byte) : List Byte :=
  le 2 id ++ le 1 (part % 16 + last % 16 * 16) ++ le 1 content.length ++ le 5 effective ++ content

/-- The PROFILE bodies of an item (R160). -/
def profileBodies (id : Nat) (effective : Cn) (content : List Byte) : List (List Byte) :=
  let ps := parts 16 content
  (ps.zip (upFrom 0 ps.length)).map fun (c, i) => profileBody id i (ps.length - 1) effective c

/-- Send the PROFILE bodies of an item to a node and note the item (R159, R160). -/
def State.sendItem (s : State) (eui id : Nat) (content : List Byte) (effective : Cn) : State :=
  match s.nodeOf eui with
  | none => s
  | some n =>
    let s := s.modNode eui fun n => n.putItem s.cn { id := id, content := content, effective := effective, acked := false }
    let bs := profileBodies id effective content
    forEach (fun p s => s.sendNode n .bulk 0x06 p.1 (.item eui id (decide (p.2 + 1 = bs.length))) 0)
      (bs.zip (upFrom 0 bs.length)) s

/-- Bring an item of a node to a content: nothing is sent where it has it, zero length removes it. -/
def State.bringItem (s : State) (eui id : Nat) (content : Option (List Byte)) (effective : Cn) : State :=
  match s.nodeOf eui with
  | none => s
  | some n => if n.coming id = content then s else s.sendItem eui id (content.getD []) effective

/-- Flood an item to a grove (R160). -/
def State.floodItem (s : State) (g id : Nat) (content : List Byte) (effective : Cn) : State :=
  let bs := profileBodies id effective content
  forEach (fun p s => s.flood g .prompt 0x06 p.1 (.item 0 id (decide (p.2 + 1 = bs.length))) 0)
    (bs.zip (upFrom 0 bs.length)) s

/-! What a node is to hold (R158, R271, R272, R276). -/

/-- A node's GROUP_MEMBERS entry (R272). -/
def State.member (s : State) (eui : Nat) : Option (List Byte) :=
  (s.inForce 0x0012).find? fun e => decide (ofLe (slice 0 8 e) = eui)

/-- A node's groups, in order. -/
def State.groupsOf (s : State) (eui : Nat) : List Nat :=
  match s.member eui with
  | some e => (upFrom 0 (ofLe (slice 9 1 e))).map fun i => ofLe (slice (10 + 2 * i) 2 e)
  | none => []

/-- A node's feeder (R272). -/
def State.feederOf (s : State) (eui : Nat) : Option Nat :=
  match s.member eui with
  | some e => if ofLe (slice 8 1 e) < 4 then some (ofLe (slice 8 1 e)) else none
  | none => none

/-- A group's profile of a number in GROUP_PROFILES (R271). -/
def State.groupProfile (s : State) (group number : Nat) : Option (List Byte) :=
  ((s.inForce 0x0011).find? fun e => decide (ofLe (slice 0 2 e) = group) && decide (ofLe (slice 2 1 e) = number)).map (List.drop 3)

/-- The SAFE item of every node: bytes 0 to 7 of SAFE_LEVELS (R276). -/
def State.safeItem (s : State) : List Byte :=
  match (s.inForce 0x0013).head? with
  | some r => slice 0 8 r
  | none => le 2 10000 ++ le 2 10000 ++ le 4 180000

/-- Bring a node's GROUPS, SAFE and LEVEL_PROFILE items to what the tables give (R271, R272, R276). -/
def State.configureNode (s : State) (eui : Nat) (effective : Cn) : State :=
  let groups := s.groupsOf eui
  let s := s.bringItem eui 0x0001 (if groups = [] then none else some ((groups.map (le 2)).flatten)) effective
  let s := s.bringItem eui 0x0002 (some s.safeItem) effective
  let wanted (k : Nat) : Option (List Byte) := match groups.head? with
    | some g => s.groupProfile g k
    | none => none
  forEach (fun k s => s.bringItem eui (0x0010 + k) (wanted k) effective) (upFrom 0 16) s

/-! Schedules (R156, R157, R216). -/

/-- CN at which a running rejoin ends at the latest (R215). -/
def State.rejoinLimit (s : State) : Cn :=
  match s.adm.rejoin with
  | some r => r.start + 4500
  | none => s.cn

/-- Send a node its schedule as one body with REPLACE (R156, R216): the bulk cells, join cells, keepalive phase and
effective CN are the engines' choice, within what the rules allow. -/
def State.sendSchedule (s : State) (eui : Nat) : State :=
  match s.nodeOf eui with
  | none => s
  | some n =>
    let (v, s) := s.drawNat
    let (w, s) := s.drawNat
    let rejoining := s.adm.rejoin.isSome
    let k := if rejoining then 6000 else 3000
    let phase := if rejoining then (s.rejoinLimit + v % 1500) % k else v % k
    let effective := s.cn + 1 + w % 255
    let version := (n.version + 1) % 65536
    let cells := Config.scheduleChoice s.freeIdx
    let count := min 4 ((cells.length - 8) / 4)
    let guard_ := match s.entry n.short with
      | some e => s.guard_ e
      | none => field 15 0 (s.reg 0x40070018)
    let head := le 2 n.parent ++ le 1 n.hop ++ le 1 3 ++ le 2 k ++ le 2 phase ++ padTo 8 cells ++ le 2 guard_ ++ le 2 version
    let tail := le 1 count ++ slice 8 (4 * count) cells
    let item : Item := { id := 0x0100, content := head ++ tail, effective := effective, acked := false }
    let s := s.modNode eui fun n => { (n.putItem s.cn item) with period := k, phase := phase, version := version }
    s.sendNode n .bulk 0x03 (head ++ le 5 effective ++ tail) (.item eui 0x0100 true) 0

/-! Faults between partners (R181, R182). -/

/-- NAK to the originator of a refused unicast message (R181). -/
def State.nak (s : State) (short type seq : Nat) (reason : Reason) (detail : Nat) : State :=
  match s.nodeAt short with
  | some n => s.sendNode n .prompt 0x0F (le 1 type ++ le 2 seq ++ le 1 (reasonCode reason) ++ le 2 detail) .other 0
  | none => s

/-- A message of a type whose body is longer than its largest, truncated or not of its form (Table 4.13): a violation
of the originator, and a NAK unless it is itself one the rule answers with none (R181). -/
def State.badBody (s : State) (type : Nat) (m : LinkMsg) (tooLong : Bool) : State :=
  let reason : Reason := if tooLong then .unsupported else .malformed
  let s := if type = 0x09 ∨ type = 0x0F then s else s.nak m.short type m.seq reason 0
  s.radViolation (shortGrove m.short) m.short type reason

/-- A node whose frames the module takes. -/
def NodeRec.speaks (n : NodeRec) : Bool :=
  decide (n.state = .joining) || decide (n.state = .scheduled) || decide (n.state = .stray)

/-- Serve a link message of a node the module knows, whose body has the form its type asks for; the frame counts for
the node's keepalive period (R184). -/
def State.linkMsg (s : State) (type most : Nat) (m : LinkMsg) (formed : List Byte → Bool)
    (serve : NodeRec → State → State) : State :=
  if s.tampered then s
  else
    match s.nodeAt m.short with
    | none => s
    | some n =>
      if !n.speaks then s
      else if most < m.body.length then s.badBody type m true
      else if !formed m.body then s.badBody type m false
      else
        let s := s.nodeHeard m.short
        serve ((s.nodeAt m.short).getD n) s

/-! Phase (R151, R163). -/

/-- φ in 2^-16 cycle of a crossing offset in microseconds (R151). -/
def State.phi (s : State) (x : Nat) : Nat :=
  ((nearest (x * 65536000 : Nat) (max 1 s.period)).toNat) % 65536

/-- Phase class of a crossing offset (R151). -/
def State.phaseClass (s : State) (x : Nat) : Nat :=
  ((nearest (x * 3000 : Nat) (max 1 s.period)).toNat) % 3

/-- Distance around the circle of 65,536. -/
def circleDistance (a b : Nat) : Nat :=
  min ((a + 65536 - b) % 65536) ((b + 65536 - a) % 65536)

/-- The distance between x/P and class/3 exceeds 1/8 of a cycle (R151): in nanoseconds times 24 around 24 P. -/
def State.phaseUncertain (s : State) (x : Nat) : Bool :=
  let p := max 1 s.period
  let a := (24000 * x) % (24 * p)
  let b := 8 * p * s.phaseClass x
  decide (3 * p < min ((a + 24 * p - b) % (24 * p)) ((b + 24 * p - a) % (24 * p)))

end Sys2Proof.Machine
end

