-- ==== Sys2Proof/Machine/DimOps.lean ====
section
/-! DEFINITION. Operations of dimming (07): schedule days, profiles, safe levels, contactors, ahead-lists. -/

namespace Sys2Proof.Machine

/-! Schedule days (R264 to R268). -/

/-- Schedule CN of a city second (R264). -/
def State.scheduleCn (s : State) (sec : Nat) : Cn :=
  ((((sec - s.can.site.t0Sec) * 1000000000 - s.can.site.t0Ns) * s.time.nominal + 999999999) / 1000000000)

/-- The CALENDAR record in force. -/
def State.calendar (s : State) : Option (List Byte) :=
  (s.inForce 0x0010).head?

/-- Offset entries of a CALENDAR: day and seconds. -/
def offsetEntries (c : List Byte) : List (Nat × Int) :=
  (upFrom 0 (ofLe (slice 8 2 c))).map fun i => (ofLe (slice (12 + 8 * i) 4 c), ofTwos 32 (ofLe (slice (16 + 8 * i) 4 c)))

/-- The day start offset in force for a day (R265, R266): the first entry also serves every earlier day. -/
def dayOffset (c : List Byte) (d : Nat) : Int :=
  let es := offsetEntries c
  match (es.filter fun e => decide (e.1 ≤ d)).getLast? with
  | some e => e.2
  | none => match es.head? with
    | some e => e.2
    | none => 0

/-- City second at which a day begins (R265). -/
def dayStart (c : List Byte) (d : Nat) : Nat :=
  ((86400 * d : Nat) + dayOffset c d).toNat

/-- The type of a day (R265, R266): a special day's, or its weekday's. -/
def dayType (c : List Byte) (d : Nat) : Nat :=
  let o := ofLe (slice 8 2 c)
  let special := (upFrom 0 (ofLe (slice 10 2 c))).find? fun i => decide (ofLe (slice (12 + 8 * o + 5 * i) 4 c) = d)
  match special with
  | some i => ofLe (slice (16 + 8 * o + 5 * i) 1 c)
  | none => ofLe (slice ((d + 3) % 7) 1 c)

/-- Dawn of a day in CN (R267, R268), between the CNs at which the day begins and ends. -/
def State.dawn (s : State) (startSec : Nat) (start next : Cn) : Cn :=
  let t := s.can.site
  match Config.sunCrossing startSec t.latitude t.longitude t.dawnElev true with
  | some x => if s.scheduleCn x < next then s.scheduleCn x
              else if Config.sunAbove startSec t.latitude t.longitude t.dawnElev then start else next
  | none => if Config.sunAbove startSec t.latitude t.longitude t.dawnElev then start else next

/-- City second of dawn where the day has one, else of the day's start. -/
def State.dawnSecond (s : State) (startSec : Nat) (next : Cn) : Nat :=
  match Config.sunCrossing startSec s.can.site.latitude s.can.site.longitude s.can.site.dawnElev true with
  | some x => if s.scheduleCn x < next then x else startSec
  | none => startSec

/-- Dusk of a day in CN: the first fall after dawn within the day, else the next day's start (R267, R268). -/
def State.dusk (s : State) (startSec : Nat) (next : Cn) : Cn :=
  match Config.sunCrossing (s.dawnSecond startSec next) s.can.site.latitude s.can.site.longitude s.can.site.duskElev false with
  | some x => min next (s.scheduleCn x)
  | none => next

/-- The record of a day under a CALENDAR (R265 to R268). -/
def State.dayRecord (s : State) (c : List Byte) (d : Nat) : Day :=
  let sec := dayStart c d
  let start := s.scheduleCn sec
  let next := s.scheduleCn (dayStart c (d + 1))
  { start := start, dawn := s.dawn sec start next, dusk := s.dusk sec next, type := dayType c d }

/-- The number of the day that runs at the present CN (R265). -/
def State.dayNow (s : State) (c : List Byte) : Nat :=
  let guess := (s.can.site.t0Sec + s.cn / max 1 s.time.nominal) / 86400
  ((upFrom (guess - 2) 5).filter fun d => decide (s.scheduleCn (dayStart c d) ≤ s.cn)).getLast?.getD (guess - 2)

/-- Today and tomorrow at the present CN. -/
def State.days (s : State) : Option (Nat × Day × Day) :=
  match s.calendar with
  | some c => some (s.dayNow c, s.dayRecord c (s.dayNow c), s.dayRecord c (s.dayNow c + 1))
  | none => none

/-- One record of the DAY item (R273). -/
def dayOctets (d : Day) : List Byte :=
  le 5 d.start ++ le 5 d.dawn ++ le 5 d.dusk ++ le 1 d.type ++ le 4 0

/-! Profiles (R269 to R271). -/

/-- A step of a profile: CN, level, ramp. -/
structure LevelStep where
  cn : Int
  level : Nat
  ramp : Nat
  deriving DecidableEq, Repr

/-- Insert a step after those of its CN. -/
def insertStep (x : LevelStep) : List LevelStep → List LevelStep
  | [] => [x]
  | y :: r => if x.cn < y.cn then x :: y :: r else y :: insertStep x r

/-- The instant an anchor number names on a day (R269). -/
def Day.anchor (d : Day) : Nat → Nat
  | 0 => d.start
  | 1 => d.dawn
  | _ => d.dusk

/-- The steps of a profile on a day (R270), in increasing CN, table order within one. -/
def profileSteps (p : List Byte) (d : Day) (next : Cn) : List LevelStep :=
  let at_ (i : Nat) : LevelStep :=
    { cn := (d.anchor (ofLe (slice (2 + 10 * i) 1 p)) : Int) + ofTwos 32 (ofLe (slice (4 + 10 * i) 4 p))
      level := ofLe (slice (8 + 10 * i) 2 p), ramp := ofLe (slice (10 + 10 * i) 2 p) }
  let all := (upFrom 0 (ofLe (slice 1 1 p))).map at_
  (all.filter fun x => decide ((d.start : Int) ≤ x.cn) && decide (x.cn < (next : Int))).foldl (fun l x => insertStep x l) []

/-- The profile of a group that applies on a day type (R270): the one with the highest number. -/
def State.profileOf (s : State) (group type : Nat) : Option (List Byte) :=
  (upFrom 0 16).foldl (fun best k => match s.groupProfile group k with
    | some p => if bit type (ofLe (slice 0 1 p)) then some p else best
    | none => best) none

/-- A group's steps on a day. -/
def State.groupSteps (s : State) (group : Nat) (d : Day) (next : Cn) : List LevelStep :=
  match s.profileOf group d.type with
  | some p => profileSteps p d next
  | none => []

/-! Safe levels (R276, R277). -/

/-- The SAFE_LEVELS record in force; the defaults until one is written. -/
def State.safeLevels (s : State) : List Byte :=
  ((s.inForce 0x0013).head?).getD
    (le 2 10000 ++ le 2 10000 ++ le 4 180000 ++ le 2 10000 ++ le 2 10000 ++ [1, 1, 1, 1] ++ le 2 0)

/-- Safe level of the string luminaires of a group. -/
def State.safeLevel (s : State) (group : Nat) : Nat :=
  let r := s.safeLevels
  match (upFrom 0 (ofLe (slice 16 2 r))).find? fun i => decide (ofLe (slice (18 + 4 * i) 2 r) = group) with
  | some i => ofLe (slice (20 + 4 * i) 2 r)
  | none => ofLe (slice 10 2 r)

/-- Safe state of a contactor: 0 HOLD, 1 CLOSED, 2 OPEN. -/
def State.safeContactor (s : State) (k : Nat) : Nat :=
  ofLe (slice (12 + k) 1 s.safeLevels)

/-- A situation of Table 7.5 in which string luminaires take their safe levels. -/
def State.safeSituation (s : State) : Bool :=
  s.sys.startSafe || s.ford.safeHold || s.tampered

/-! Contactors (R278 to R281). -/

/-- A contactor's entry (Table 7.6); unused until CONTACTORS is written. -/
def State.kcEntry (s : State) (k : Nat) : List Byte :=
  match (s.inForce 0x0015)[k]? with
  | some e => e
  | none => [0xFF, 0, 0, 8] ++ List.replicate 10 0 ++ le 2 1500

def State.kcFeeder (s : State) (k : Nat) : Option Nat :=
  let f := ofLe (slice 0 1 (s.kcEntry k))
  if f < 4 then some f else none

def State.kcMode (s : State) (k : Nat) : Nat :=
  ofLe (slice 1 1 (s.kcEntry k))

def State.kcNoFeedback (s : State) (k : Nat) : Bool :=
  bit 1 (ofLe (slice 2 1 (s.kcEntry k)))

/-- Feedback shows the contactor closed: KCk_FB, inverted by FB_INVERT. -/
def State.kcClosed (s : State) (k : Nat) : Bool :=
  xor (lget false k s.fld.kcFb) (bit 0 (ofLe (slice 2 1 (s.kcEntry k))))

def State.kcFeedbackTime (s : State) (k : Nat) : Nat :=
  ofLe (slice 3 1 (s.kcEntry k))

def State.kcMinOpen (s : State) (k : Nat) : Nat :=
  ofLe (slice 14 2 (s.kcEntry k))

def State.kc (s : State) (k : Nat) : KcSt :=
  lget {} k s.dim.contactors

def State.modKc (s : State) (k : Nat) (f : KcSt → KcSt) : State :=
  { s with dim := { s.dim with contactors := lmod f k s.dim.contactors } }

/-- Code of a contactor's state (Table 16.4). -/
def kcCode : KcState → Nat
  | .opened => 0
  | .closing => 1
  | .retryClose => 2
  | .closed => 3
  | .opening => 4
  | .retryOpen => 5
  | .fault => 6
  | .uncommanded => 7

/-- The CONTACTOR record of a contactor's present state (Table 16.4). -/
def State.recordKc (s : State) (k : Nat) (transient : Bool) : State :=
  s.record 0x0424 0x38 .ok (le 1 k ++ le 1 (kcCode (s.kc k).state) ++ le 1 (if transient then 1 else 0))

/-- Transitions of a group's steps between 0 and above it: CN of the step, and whether the contactor closes (R279). -/
def zeroSteps : List LevelStep → List (Int × Bool)
  | x :: y :: r =>
    if x.level = 0 ∧ 0 < y.level then (y.cn, true) :: zeroSteps (y :: r)
    else if 0 < x.level ∧ y.level = 0 then (y.cn, false) :: zeroSteps (y :: r)
    else zeroSteps (y :: r)
  | _ => []

/-- Changes planned for a contactor over yesterday, today and tomorrow, before the minimum open time (R279). -/
def State.kcChanges (s : State) (k : Nat) : List (Int × Bool) :=
  match s.kcFeeder k, s.calendar with
  | some _, some c =>
    let e := s.kcEntry k
    let close := ofTwos 32 (ofLe (slice 4 4 e))
    let open_ := ofTwos 32 (ofLe (slice 8 4 e))
    let d := s.dayNow c
    let days := [s.dayRecord c (d - 1), s.dayRecord c d, s.dayRecord c (d + 1), s.dayRecord c (d + 2)]
    let pairs := days.zip (days.drop 1)
    if s.kcMode k = 2 then
      (pairs.map fun (x, y) =>
        [((x.dawn : Int) + open_, false), ((x.dusk : Int) + close, true)].filter fun p =>
          decide ((x.start : Int) ≤ p.1) && decide (p.1 < (y.start : Int))).flatten
    else if s.kcMode k = 3 then
      let steps := (pairs.map fun (x, y) => s.groupSteps (ofLe (slice 12 2 e)) x y.start).flatten
      (zeroSteps steps).map fun p => (p.1 + (if p.2 then close else open_), p.2)
    else []
  | _, _ => []

/-- The last opening planned before a CN, fixed or past. -/
def KcSt.openingBefore (c : KcSt) (cn : Cn) : Option Cn :=
  match ((c.fixed.filter fun p => !p.2 && decide (p.1 ≤ cn)).map Prod.fst).getLast? with
  | some x => some x
  | none => c.lastOpen

/-- Insert a change after those of its CN and before. -/
def insertChange (x : Cn × Bool) : List (Cn × Bool) → List (Cn × Bool)
  | [] => [x]
  | y :: r => if x.1 < y.1 then x :: y :: r else y :: insertChange x r

/-- Fix a change of a contactor (R279): a close within the minimum open time moves to its end. -/
def State.fixChange (s : State) (k : Nat) (cn : Cn) (close : Bool) : State :=
  let c := s.kc k
  let at_ := match c.openingBefore cn with
    | some o => if close then max cn (o + s.kcMinOpen k) else cn
    | none => cn
  s.modKc k fun c => { c with fixed := insertChange (at_, close) c.fixed }

/-- Fix the changes of a contactor that fall 3,000 cycles ahead (R279). -/
def State.fixPlans (s : State) : State :=
  forEach (fun k s =>
    forEach (fun (p : Int × Bool) s => if p.1 = (s.cn + 3000 : Nat) then s.fixChange k (s.cn + 3000) p.2 else s) (s.kcChanges k) s)
    (upFrom 0 4) s

/-- Contactor drives are held: SAFE HOLD, a clearing of the DIMMING_ACTION tile, a hold of Ford, or entry into dormancy (R280, R396, R583). -/
def State.kcHeld (s : State) : Bool :=
  s.ford.safeHold || s.ford.holding || s.entering || s.sliced (s.can.slotOf .dimmingAction 0)
    || (match s.can.clearing, s.can.slotOf .dimmingAction 0 with
        | some c, some n => c.started && (match tget n s.can.slots with
            | some u => decide (u.region = c.region)
            | none => false)
        | _, _ => false)

/-- A contactor enters CLOSED or OPEN; CLOSED ends a planned opening for R281. -/
def State.kcSettle (s : State) (k : Nat) (closed transient : Bool) : State :=
  let s := s.modKc k fun c => { c with
    state := if closed then .closed else .opened, pulse := false, disagree := 0
    transients := if transient then c.transients + 1 else c.transients
    reclosed := if closed && c.plannedOpen then some s.cn else c.reclosed }
  if transient then s.recordKc k true else s

/-- Feedback of a contactor as it stands moves its state (Table 7.7). -/
def State.kcFeedback (s : State) (k : Nat) : State :=
  if s.kcNoFeedback k || (s.kcFeeder k).isNone then s
  else
    let c := s.kc k
    match c.state with
    | .closing => if s.kcClosed k then s.kcSettle k true false else s
    | .retryClose => if !c.pulse && s.kcClosed k then s.kcSettle k true true else s
    | .opening => if !s.kcClosed k then s.kcSettle k false false else s
    | .retryOpen => if !c.pulse && !s.kcClosed k then s.kcSettle k false true else s
    | .uncommanded => if s.kcClosed k = c.drive then s.kcSettle k c.drive false else s
    | _ => s

/-- A planned change of a contactor (Table 7.7). In FAULT and UNCOMMANDED the drive follows and the state stays; feedback that
already stands takes effect at once. -/
def State.kcPlanned (s : State) (k : Nat) (close : Bool) : State :=
  let c := s.kc k
  let c := { c with
    drive := close, plan := close, pulse := false, since := s.cn, disagree := 0
    lastOpen := if close then c.lastOpen else some s.cn
    plannedOpen := c.plannedOpen || !close
    reclosed := if close then c.reclosed else none }
  let st : KcState := match c.state with
    | .fault => .fault
    | .uncommanded => .uncommanded
    | _ => if close then .closing else .opening
  (s.modKc k fun _ => { c with state := st }).kcFeedback k

/-- The record of an action that another prevails over (Table 1.6). -/
def State.superseded (s : State) (output : Nat) (cn : Cn) : State :=
  s.record (s.tileSource .dimmingAction 0 0) 0x09 .ok (le 2 output ++ le 5 cn)

/-- Drive the contactors whose planned CN has come (R279). While the drives are held the changes wait; in a situation of
Table 7.5 they pass without a drive. -/
def State.kcDue (s : State) : State :=
  if s.kcHeld then s
  else
    forEach (fun k s =>
      let due := (s.kc k).fixed.filter fun p => decide (p.1 ≤ s.cn)
      let s := s.modKc k fun c => { c with fixed := c.fixed.filter fun p => !decide (p.1 ≤ s.cn) }
      if s.safeSituation then s
      else
        let again := (due.zip (due.drop 1)).filter fun (p, q) => decide (p.1 = q.1)
        let s := forEach (fun (x : (Cn × Bool) × Cn × Bool) s => s.superseded (32 + k) x.1.1) again s
        match due.getLast? with
        | some p => if p.2 = (s.kc k).plan then s else s.kcPlanned k p.2
        | none => s) (upFrom 0 4) s

/-- A situation of Table 7.5 sets a contactor to its safe state; HOLD keeps the drive. Such an opening is not planned. -/
def State.kcSafeOne (s : State) (k : Nat) : State :=
  let was := (s.kc k).plannedOpen
  let go (s : State) (close : Bool) : State := s.iff (decide ((s.kc k).plan ≠ close)) fun s => s.kcPlanned k close
  let s := match s.kcFeeder k, s.safeContactor k with
    | some _, 1 => go s true
    | some _, 2 => go s false
    | _, _ => s
  s.modKc k fun c => { c with safe := true, plannedOpen := was }

/-- What the plan of a contactor asks for at the present CN (R279): the reverse of its next fixed change, its static mode, or
its last change gone by. -/
def State.kcPlanNow (s : State) (k : Nat) : Option Bool :=
  match (s.kc k).fixed.head?, s.kcFeeder k with
  | some p, _ => some (!p.2)
  | none, none => none
  | none, some _ =>
    if s.kcMode k ≤ 1 then some (decide (s.kcMode k = 1))
    else
      let later (best : Option (Int × Bool)) (p : Int × Bool) : Option (Int × Bool) :=
        if (s.cn : Int) < p.1 then best
        else match best with
          | some b => if p.1 < b.1 then some b else some p
          | none => some p
      ((s.kcChanges k).foldl later none).map Prod.snd

/-- The situation of Table 7.5 is over: a contactor follows its plan again, and what falls within the next 3,000 cycles is
fixed now where it was not (R279, R594). -/
def State.kcReturn (s : State) (k : Nat) : State :=
  if !(s.kc k).safe then s
  else
    let s := s.modKc k fun c => { c with safe := false }
    let s := match s.kcPlanNow k with
      | some b => s.iff (decide ((s.kc k).plan ≠ b)) fun s => s.kcPlanned k b
      | none => s
    forEach (fun (p : Int × Bool) s =>
      if (s.cn : Int) < p.1 ∧ p.1 < (s.cn + 3000 : Nat) ∧ ((s.kc k).fixed.all fun x => decide (x.2 ≠ p.2)) = true then
        s.fixChange k p.1.toNat p.2
      else s) (s.kcChanges k) s

/-- Contactors in the situations of Table 7.5 and after them (R277). -/
def State.kcSafe (s : State) : State :=
  if s.kcHeld then s
  else if s.safeSituation then forEach (fun k s => s.kcSafeOne k) (upFrom 0 4) s
  else forEach (fun k s => s.kcReturn k) (upFrom 0 4) s

/-- A settled contactor's feedback against its drive at a CYC: the second disagreeing cycle posts
CONTACTOR_UNCOMMANDED (Table 7.7). -/
def State.kcCompare (s : State) (k : Nat) : State :=
  let c := s.kc k
  if s.kcNoFeedback k || (s.kcFeeder k).isNone || !(decide (c.state = .opened) || decide (c.state = .closed)) then s
  else if s.kcClosed k = c.drive then s.modKc k fun c => { c with disagree := 0 }
  else if c.disagree + 1 < 2 then s.modKc k fun c => { c with disagree := c.disagree + 1 }
  else
    let s := s.modKc k fun c => { c with state := .uncommanded, disagree := 0 }
    (s.postTile .dimmingAction 0 2 1 0).recordKc k false

/-- The nodes of a feeder are exempt from missed periods (R281): its contactor is open as planned, or CLOSED again for
less than 4,500 cycles, and neither in FAULT nor UNCOMMANDED. -/
def State.feederExempt (s : State) (f : Nat) : Bool :=
  (upFrom 0 4).any fun k =>
    let c := s.kc k
    decide (s.kcFeeder k = some f) && c.plannedOpen && decide (c.state ≠ .fault) && decide (c.state ≠ .uncommanded)
      && (match c.reclosed with
          | some r => decide (s.cn < r + 4500)
          | none => true)

/-- A feeder's contactor has a fixed plan that holds it open at some CN of a span (R190). -/
def State.feederOpen (s : State) (f : Nat) (from_ to_ : Cn) : Bool :=
  (upFrom 0 4).any fun k =>
    decide (s.kcFeeder k = some f)
      && (!(s.kc k).plan || (s.kc k).fixed.any fun p => !p.2 && decide (p.1 ≤ to_) && decide (from_ ≤ p.1))

/-! Routes (R282 to R284). -/

/-- A route's entry in ROUTES. -/
def State.routeEntry (s : State) (id : Nat) : Option (List Byte) :=
  (s.inForce 0x0014).find? fun e => decide (ofLe (slice 0 2 e) = id)

def routeId (e : List Byte) : Nat := ofLe (slice 0 2 e)
def routeReverse (e : List Byte) : Bool := bit 0 (ofLe (slice 2 1 e))
def routeLearns (e : List Byte) : Bool := bit 1 (ofLe (slice 2 1 e))

/-- EUI-64s of a route's positions, in table order. -/
def routeMembers (e : List Byte) : List Nat :=
  (upFrom 0 (ofLe (slice 3 1 e))).map fun i => ofLe (slice (28 + 8 * i) 8 e)

/-- A position that names a local string group (R282). -/
def localGroup (eui : Nat) : Bool :=
  decide (eui < 65536)

/-- The initial tuning of a route (Table 7.8, R292). -/
def initialTuning (e : List Byte) : Tuning :=
  { n := ofLe (slice 22 1 e), hold := ofLe (slice 26 2 e), level := ofLe (slice 16 2 e) }

/-- What runs of a route; its initial tuning where nothing was kept. -/
def State.route (s : State) (e : List Byte) : RouteSt :=
  (s.dim.routes.find? fun r => decide (r.id = routeId e)).getD { id := routeId e, tuning := initialTuning e }

def State.putRoute (s : State) (r : RouteSt) : State :=
  let rs := if s.dim.routes.any fun x => decide (x.id = r.id) then s.dim.routes.map fun x => if x.id = r.id then r else x
    else s.dim.routes ++ [r]
  { s with dim := { s.dim with routes := rs } }

/-- SCHEDULED members of a route, in table order; a local group counts as a member that stands (R283, R290). -/
def State.routeScheduled (s : State) (e : List Byte) : List Nat :=
  (routeMembers e).filter fun m => localGroup m || (match s.nodeOf m with
    | some n => decide (n.state = .scheduled)
    | none => false)

/-- Short address that an ahead-list names for a member: a local group has none of its own. -/
def State.memberShort (s : State) (m : Nat) : Nat :=
  match s.nodeOf m with
  | some n => n.short
  | none => m % 65536

/-- The list number a route takes on a node: its place among the node's routes in ROUTES (R282, R283). -/
def State.routeList (s : State) (e : List Byte) (eui : Nat) : Nat :=
  (((s.inForce 0x0014).filter fun x => (routeMembers x).contains eui).findIdx? fun x => decide (routeId x = routeId e)).getD 0

/-- The ROUTE_LOAD body of a member, from the Route field on (Table 4.9, R283). -/
def State.aheadBody (s : State) (e : List Byte) (t : Tuning) (place : Nat) : List Byte :=
  let ms := s.routeScheduled e
  let ahead := if routeReverse e then (ms.take place).reverse else ms.drop (place + 1)
  let names := if ahead = [] then [0xFFFF] else (ahead.take t.n).map s.memberShort
  le 2 (routeId e) ++ le 1 place ++ le 1 (if routeReverse e then 1 else 0) ++ le 2 t.hold ++ le 2 t.level
    ++ slice 24 2 e ++ le 1 names.length ++ (names.map (le 2)).flatten

/-- Send one ahead-list and note its item (R159, R161): nothing is sent where the node has it. -/
def State.loadList (s : State) (e : List Byte) (t : Tuning) (eui place : Nat) (effective : Cn) : State :=
  match s.nodeOf eui with
  | none => s
  | some n =>
    let l := s.routeList e eui
    let body := s.aheadBody e t place
    let item : Item := { id := 0x0200 + l % 4, content := le 1 l ++ body, effective := effective, acked := false }
    if n.coming item.id = some item.content then s
    else
      let s := s.modNode eui fun n => n.putItem s.cn item
      s.sendNode n .bulk 0x10 (le 1 l ++ le 5 effective ++ body) (.item eui item.id true) 0

/-- Reload every list of a route with a tuning (R283). -/
def State.loadRoute (s : State) (e : List Byte) (t : Tuning) (effective : Cn) : State :=
  let ms := s.routeScheduled e
  let s := s.putRoute { (s.route e) with tuning := t, reloaded := some s.cn, dirty := false }
  forEach (fun p s => if localGroup p.1 then s else s.loadList e t p.1 p.2 effective) (ms.zip (upFrom 0 ms.length)) s

/-- Reload the routes whose members entered or left SCHEDULED, each at most once per 3,000 cycles (R283). -/
def State.reloadRoutes (s : State) : State :=
  let moved := s.dim.moved
  let s := { s with dim := { s.dim with moved := [] } }
  forEach (fun e s =>
    let r := s.route e
    let due := r.dirty || (routeMembers e).any fun m => moved.contains m
    let may := match r.reloaded with
      | some c => decide (c + 3000 ≤ s.cn)
      | none => true
    if due && may then s.loadRoute e r.tuning s.cn
    else if due then s.putRoute { r with dirty := true } else s) (s.inForce 0x0014) s

/-- The ROUTE record (Table 16.4): 0 for ROUTE_GAP, 1 for a retune skipped. -/
def State.recordRoute (s : State) (id position what : Nat) : State :=
  s.record 0x0424 0x3B .ok (le 2 id ++ le 1 position ++ le 1 what)

/-- A member hears the member directly behind it: at least 10 frames in 1,000 cycles (R284). -/
def State.hearsBehind (s : State) (e : List Byte) (p : Nat) : Bool :=
  let ms := routeMembers e
  let here := lget 0 p ms
  let back : Option Nat := if routeReverse e then ms[p + 1]? else if p = 0 then none else ms[p - 1]?
  match back, s.nodeOf here with
  | some b, some n => match s.nodeOf b with
    | some m => decide (m.grove = n.grove)
        && (n.neighbours.any fun x => decide (x.1 = m.short) && decide (10 ≤ x.2))
    | none => true
  | _, _ => true

/-- Judge the gaps of the routes a node stands on (R284): each new gap is recorded. -/
def State.judgeGaps (s : State) (eui : Nat) : State :=
  forEach (fun e s =>
    forEach (fun p s =>
      if lget 0 p (routeMembers e) = eui then
        let r := s.route e
        if s.hearsBehind e p then s.putRoute { r with gaps := r.gaps.filter fun x => decide (x ≠ p) }
        else if r.gaps.contains p then s
        else (s.putRoute { r with gaps := r.gaps ++ [p] }).recordRoute (routeId e) p 0
      else s) (upFrom 0 (routeMembers e).length) s) (s.inForce 0x0014) s

end Sys2Proof.Machine
end

