-- ==== Sys2Proof/Machine/DrvOps.lean ====
section
/-! DEFINITION. Operations of the direct drive (09): pattern engines, tunable white, the level of a luminaire, setpoints.
Levels are counted in 1/65,536 of 0.01 % (R350; log 21). -/

namespace Sys2Proof.Machine

/-- Units of a level in 0.01 %. -/
def fineUnit : Nat := 65536

/-- The highest level. -/
def fullLevel : Nat := 10000 * fineUnit

/-- A value between two, at a fraction num / den of the way. -/
def between (a b : Nat) (num den : Nat) : Nat :=
  (quotient ((a : Int) * den + ((b : Int) - a) * num) (max 1 den)).toNat

/-! Registers of the block. -/

def State.chReg (s : State) (c o : Nat) : Nat :=
  s.reg (0x40060100 + o + 0x40 * c)

def State.lumCfg (s : State) (l : Nat) : Nat :=
  s.reg (0x40061000 + 8 * l)

def State.peReg (s : State) (p o : Nat) : Nat :=
  s.reg (0x40060C00 + o + 0x40 * p)

def State.twReg (s : State) (g o : Nat) : Nat :=
  s.reg (0x40060B00 + o + 0x20 * g)

def State.ch (s : State) (c : Nat) : ChSt :=
  lget {} c s.drv.chs

def State.modCh (s : State) (c : Nat) (f : ChSt → ChSt) : State :=
  { s with drv := { s.drv with chs := lmod f c s.drv.chs } }

def State.lum (s : State) (l : Nat) : LumSt :=
  lget {} l s.drv.lums

def State.modLum (s : State) (l : Nat) (f : LumSt → LumSt) : State :=
  { s with drv := { s.drv with lums := lmod f l s.drv.lums } }

def State.pe (s : State) (p : Nat) : PeSt :=
  lget {} p s.drv.engines

def State.modPe (s : State) (p : Nat) (f : PeSt → PeSt) : State :=
  { s with drv := { s.drv with engines := lmod f p s.drv.engines } }

def State.tw (s : State) (g : Nat) : TwSt :=
  lget {} g s.drv.groups

def State.modTw (s : State) (g : Nat) (f : TwSt → TwSt) : State :=
  { s with drv := { s.drv with groups := lmod f g s.drv.groups } }

/-- The luminaire of a channel (Table 9.11). -/
def State.chLum (s : State) (c : Nat) : Nat :=
  field 8 4 (s.chReg c 0)

/-- Kind of a luminaire: 0 UNUSED, 1 SINGLE, 2 TUNABLE_WHITE. -/
def State.lumKind (s : State) (l : Nat) : Nat :=
  field 1 0 (s.lumCfg l)

def State.lumGroup (s : State) (l : Nat) : Nat :=
  field 31 16 (s.lumCfg l)

/-- The engine a luminaire is bound to (R346). -/
def State.lumEngine (s : State) (l : Nat) : Option Nat :=
  if bit 5 (s.lumCfg l) then some (field 4 2 (s.lumCfg l)) else none

/-- The chase position of a luminaire. -/
def State.lumPos (s : State) (l : Nat) : Nat :=
  field 13 8 (s.lumCfg l)

/-- Channels of a luminaire. -/
def State.lumChs (s : State) (l : Nat) : List Nat :=
  (upFrom 0 32).filter fun c => decide (s.chLum c = l) && decide (field 1 0 (s.chReg c 0) ≠ 0)

/-- City time in ns. -/
def State.cityNs (s : State) : Nat :=
  1000000000 * s.time.city.sec + s.time.city.ns

/-! Pattern engines (R369 to R373). -/

/-- A keyframe (Table 9.6). -/
structure Keyframe where
  level : Nat
  duration : Nat
  shape : Nat
  loop : Bool
  stop : Bool
  to_ : Nat
  repeats : Nat
  deriving DecidableEq, Repr

def State.keyframe (s : State) (p k : Nat) : Keyframe :=
  let a := s.reg (0x40062000 + 0x200 * p + 8 * k)
  let b := s.reg (0x40062004 + 0x200 * p + 8 * k)
  { level := field 15 0 a, duration := max 1 (field 31 16 a), shape := field 7 0 b, loop := bit 8 b, stop := bit 9 b
    to_ := field 23 16 b % 64, repeats := field 31 24 b }

/-- A keyframe lies in the body of the loop that another closes. -/
def inLoop (f : Nat → Keyframe) (m k : Nat) : Bool :=
  decide (min m (f m).to_ ≤ k) && decide (k ≤ max m (f m).to_)

/-- Loops entered from outside have their repeats restored (R370). -/
def restoreLoops (f : Nat → Keyframe) (from_ to_ : Nat) (reps : Table Nat) : Table Nat :=
  reps.filter fun p => !(inLoop f p.1 to_ && !inLoop f p.1 from_)

/-- What follows a keyframe, with the repeats left; none where the engine stops (R370). -/
def nextKeyframe (f : Nat → Keyframe) (k : Nat) (reps : Table Nat) : Option (Nat × Table Nat) :=
  let x := f k
  let on_ : Option (Nat × Table Nat) := if 63 ≤ k then none else some (k + 1, restoreLoops f k (k + 1) (tdel k reps))
  if x.stop then none
  else if x.loop then
    if x.repeats = 0 then some (x.to_, restoreLoops f k x.to_ reps)
    else
      let left := (tget k reps).getD x.repeats
      if left = 0 then on_ else some (x.to_, restoreLoops f k x.to_ (tput k (left - 1) reps))
  else on_

/-- Where an engine stands: its keyframe, the repeats left, and the time within it over the denominator. -/
structure Place where
  kf : Nat
  reps : Table Nat
  within : Nat
  deriving DecidableEq, Repr

/-- Walk the keyframes for an elapsed time r / den of the timebase; none once the engine has stopped. -/
def walk (f : Nat → Keyframe) (den : Nat) : Nat → Nat → Table Nat → Nat → Option Place
  | 0, k, reps, r => some { kf := k, reps := reps, within := r }
  | fuel + 1, k, reps, r =>
    if r < (f k).duration * den then some { kf := k, reps := reps, within := r }
    else match nextKeyframe f k reps with
      | some (j, q) => walk f den fuel j q (r - (f k).duration * den)
      | none => none

/-- The output of a place (R370), given the level that 0xFFFF stands for. -/
def State.placeLevel (s : State) (f : Nat → Keyframe) (den sixth : Nat) (x : Place) : Nat :=
  let value (l : Nat) : Nat := if l = 0xFFFF then sixth else l * fineUnit
  let here := value (f x.kf).level
  let next := match nextKeyframe f x.kf x.reps with
    | some (j, _) => value (f j).level
    | none => min fullLevel (Config.freeNat s.freeIdx)
  let whole := (f x.kf).duration * den
  match (f x.kf).shape with
  | 1 => between here next x.within whole
  | 2 => between here next (min 4294967296 (Config.sineBlend x.within whole)) 4294967296
  | _ => here

/-- MODE, TIMEBASE, COMBINE and CHASE of an engine (Table 9.13). -/
def State.peMode (s : State) (p : Nat) : Nat := field 1 0 (s.peReg p 4)
def State.peMs (s : State) (p : Nat) : Bool := bit 2 (s.peReg p 4)
def State.peMax (s : State) (p : Nat) : Bool := bit 3 (s.peReg p 4)
def State.peChase (s : State) (p : Nat) : Bool := bit 4 (s.peReg p 4)

/-- The denominator of elapsed time: frames of a cycle, or ns of a ms. -/
def State.peDen (s : State) (p : Nat) : Nat :=
  if s.peMs p then 1000000 else max 1 s.drv.k

/-- Elapsed time e of a run at frame j of the present cycle (R371, R374). -/
def State.elapsed (s : State) (p : Nat) (r : PeRun) (j : Nat) : Int :=
  if s.peMs p then (s.cityNs : Int) - r.startNs
  else ((s.cn : Int) - r.startCn) * s.drv.k + j - r.startFrame

/-- What a luminaire at a position sees of the elapsed time (R372, R373); none behind a route's origin. -/
def State.positionElapsed (s : State) (p : Nat) (r : PeRun) (e : Int) (q : Nat) : Option Int :=
  let den : Int := s.peDen p
  match r.origin with
  | some (q0, lag, down) =>
    if (if down then q0 < q else q < q0) then none
    else some (e - ((if down then q0 - q else q - q0) * lag : Nat) * den)
  | none =>
    if s.peChase p then some (e - ((field 23 16 (s.peReg p 0x14) + q) * field 15 0 (s.peReg p 0x14) : Nat) * den)
    else some e

/-- Where an engine stands for a position; none before its position has started and after it has ended. -/
def State.placeAt (s : State) (p : Nat) (r : PeRun) (e : Int) (q : Nat) : Option Place :=
  match r.step with
  | some (k, reps) => some { kf := k, reps := reps, within := 0 }
  | none =>
    match s.positionElapsed p r e q with
    | some x => if x < 0 then none else walk (s.keyframe p) (s.peDen p) (x.toNat / s.peDen p + 1) 0 [] x.toNat
    | none => none

/-- A position still has to start, or has not ended yet. -/
def State.placeOpen (s : State) (p : Nat) (r : PeRun) (e : Int) (q : Nat) : Bool :=
  match r.step with
  | some _ => true
  | none =>
    match s.positionElapsed p r e q with
    | some x => decide (x < 0) || (walk (s.keyframe p) (s.peDen p) (x.toNat / s.peDen p + 1) 0 [] x.toNat).isSome
    | none => false

/-- The output an engine gives a luminaire at frame j, if any. -/
def State.peOutput (s : State) (p l j sixth : Nat) : Option Nat :=
  match (s.pe p).run with
  | some r =>
    if r.fresh then none
    else (s.placeAt p r (s.elapsed p r j) (s.lumPos l)).map fun x => s.placeLevel (s.keyframe p) (s.peDen p) sixth x
  | none => none

/-- An engine starts (R371, R373). Its source fires with kind 1; its end fires kind 2 (Table 11.3). -/
def State.startPe (s : State) (p : Nat) (r : PeRun) : State :=
  (s.modPe p fun e => { e with run := some r, pending := false }).postTile .pattern p p 1 0

/-- An engine ends. -/
def State.endPe (s : State) (p : Nat) : State :=
  (s.modPe p fun e => { e with run := none, pending := false }).postTile .pattern p p 2 0

/-- An evacuation runs on an engine (R374). -/
def PeSt.evac (e : PeSt) : Bool :=
  match e.run with
  | some r => r.evac
  | none => false

/-- A trigger with target 3 starts an engine of mode 3 or moves it to its next keyframe (R371). -/
def State.triggerPe (s : State) (p : Nat) : State :=
  if s.peMode p ≠ 3 || (s.pe p).evac then s
  else
    match (s.pe p).run with
    | none => s.startPe p { startCn := s.cn, startNs := s.cityNs, step := some (0, []) }
    | some r =>
      match r.step with
      | some (k, reps) =>
        match nextKeyframe (s.keyframe p) k reps with
        | some n => s.modPe p fun e => { e with run := some { r with step := some n } }
        | none => s.endPe p
      | none => s

/-- Engines that begin at CYC of a cycle: a START that waited, or the CN of their register (R371). -/
def State.startEngines (s : State) : State :=
  forEach (fun p s =>
    let e := s.pe p
    let at_ := s.peReg p 8 + 4294967296 * field 7 0 (s.peReg p 12)
    if e.evac then s
    else if e.pending || (s.peMode p = 1 && decide (at_ = s.cn)) then s.startPe p { startCn := s.cn, startNs := s.cityNs }
    else s) (upFrom 0 8) s

/-- Engines that have ended for every luminaire bound to them end (R370). -/
def State.endEngines (s : State) (j : Nat) : State :=
  forEach (fun p s =>
    match (s.pe p).run with
    | some r =>
      let bound := (upFrom 0 32).filter fun l => decide (s.lumEngine l = some p) && decide (s.lumKind l ≠ 0)
      let qs := if bound = [] then [0] else bound.map s.lumPos
      if r.fresh || r.evac || qs.any (fun q => s.placeOpen p r (s.elapsed p r j) q) then s else s.endPe p
    | none => s) (upFrom 0 8) s

/-! The level of a luminaire (R346 to R349). -/

/-- Base level at frame j (R349). -/
def State.baseLevel (s : State) (x : LumSt) (j : Nat) : Nat :=
  let n := (s.cn - x.rampStart) * s.drv.k + j
  if x.ramp * s.drv.k ≤ n then x.target * fineUnit else between x.from_ (x.target * fineUnit) n (x.ramp * s.drv.k)

/-- Wave level at frame j (R287, R290): it rises over its ramp, holds, and falls to the base level over four
times its ramp. -/
def State.waveLevel (s : State) (x : LumSt) (j : Nat) : Nat :=
  match x.wave with
  | none => 0
  | some w =>
    match w.fall with
    | some f =>
      let n := (s.cn - f) * s.drv.k + j
      if 4 * w.ramp * s.drv.k ≤ n then 0 else between (w.level * fineUnit) (s.baseLevel x j) n (4 * w.ramp * s.drv.k)
    | none =>
      let n := (s.cn - w.start) * s.drv.k + j
      if s.cn < w.start then 0
      else if w.ramp * s.drv.k ≤ n then w.level * fineUnit
      else between w.from_ (w.level * fineUnit) n (w.ramp * s.drv.k)

/-- Row 6 of Table 9.3 without the engines. -/
def State.sixthAlone (s : State) (l j : Nat) : Nat :=
  max (s.baseLevel (s.lum l) j) (s.waveLevel (s.lum l) j)

/-- A slot's tile is being cleared with its region, or sliced destructively (R396, R469). -/
def State.clearingHolds (s : State) (n : Option Nat) : Bool :=
  s.sliced n || match s.can.clearing, n with
  | some c, some n => c.started && (match tget n s.can.slots with
      | some u => decide (u.region = c.region)
      | none => false)
  | _, _ => false

/-- A luminaire's channels run on the fallback regulator during a clearing (Table 9.7). -/
def State.clearedLum (s : State) (l : Nat) : Bool :=
  (s.lumChs l).any (fun c => s.clearingHolds (s.can.slotOf .stringLoop (c / 4)))
    || (match s.lumEngine l with
        | some p => s.clearingHolds (s.can.slotOf .pattern p)
        | none => false)

/-- The strings run on the fallback regulator at their safe levels (Table 9.7): SAFE HOLD, or power-up. -/
def State.fallback (s : State) : Bool :=
  s.ford.safeHold || decide (s.sys.phase = .starting)

/-- The level of a luminaire at frame j and the row it comes from (Table 9.3); row 4 is the channel's. -/
def State.lumLevel (s : State) (l j : Nat) : Nat × Nat :=
  let x := s.lum l
  let six := s.sixthAlone l j
  let out : Option (Nat × Bool × Bool) := match s.lumEngine l with
    | some p => match s.peOutput p l j six with
      | some v => some (v, (s.pe p).evac, s.peMax p)
      | none => none
    | none => none
  if s.fallback then (s.safeLevel (s.lumGroup l) * fineUnit, 7)
  else if s.safeSituation then (s.safeLevel (s.lumGroup l) * fineUnit, 1)
  else match out, x.safety with
    | some (v, true, _), _ => (v, 2)
    | _, some v => (v * fineUnit, 3)
    | some (v, false, false), none => (v, 5)
    | some (v, false, true), none => (max six v, 6)
    | none, none => (six, 6)

/-! Tunable white (R365 to R368). -/

/-- The tunable-white group of a luminaire. -/
def State.twOf (s : State) (l : Nat) : Option Nat :=
  (upFrom 0 4).find? fun g => bit 0 (s.twReg g 0) && bit l (s.twReg g 4)

/-- The primaries of a group: learned, or the canopy's (R366). -/
def State.twPrimaries (s : State) (g : Nat) : List Int :=
  match (s.tw g).primaries with
  | some p => p
  | none => Config.canopyPrimaries g

/-- Chromaticity target of a group at the present CN: x and y over a denominator (R365). Without anchors the spec
leaves open which of the two holds. -/
def State.twTarget (s : State) (g : Nat) : (Int × Int) × Nat :=
  let point (o : Nat) : Int × Int := (field 15 0 (s.twReg g o), field 31 16 (s.twReg g o))
  let day := point 8
  let night := point 12
  let ramp := field 31 16 (s.twReg g 0)
  let mix (a b : Int × Int) (since : Cn) : (Int × Int) × Nat :=
    let d := s.cn - since
    if ramp ≤ d then (b, 10000)
    else ((a.1 * (ramp - d : Nat) + b.1 * d, a.2 * (ramp - d : Nat) + b.2 * d), 10000 * ramp)
  match s.dim.day with
  | some (_, t, _) =>
    if s.cn < t.dawn then (night, 10000)
    else if s.cn < t.dusk then mix night day t.dawn
    else mix day night t.dusk
  | none => (if Config.freeNat s.freeIdx % 2 = 0 then night else day, 10000)

/-- What a group's mix comes to at its target: shares of the warm and the cool primary, as a·g_w and b·g_c up to one
factor, and whether the projection moves the target by more than 0.003 (R365, R366). None where the primaries span
no line. -/
def State.twShares (s : State) (g : Nat) : Option ((Int × Int) × Bool) :=
  let p := s.twPrimaries g
  let (xw, yw, zw) := (lget 0 0 p, lget 0 1 p, lget 0 2 p)
  let (xc, yc, zc) := (lget 0 3 p, lget 0 4 p, lget 0 5 p)
  let sw := xw + yw + zw
  let sc := xc + yc + zc
  let ((tx, ty), d) := s.twTarget g
  let dx := xc * sw - xw * sc
  let dy := yc * sw - yw * sc
  let ex := tx * sw - xw * d
  let ey := ty * sw - yw * d
  let m := d * (dx * dx + dy * dy)
  let n := clampInt 0 m ((ex * dx + ey * dy) * sc)
  if sw ≤ 0 ∨ sc ≤ 0 ∨ m ≤ 0 then none
  else
    let fx := ex * sc * m - n * dx * d
    let fy := ey * sc * m - n * dy * d
    let whole := d * sw * sc * m
    some (((m - n) * sc, n * sw), decide (9 * whole * whole < 1000000 * (fx * fx + fy * fy)))

/-- The warm and cool channel levels of a group at a level (R366), with OFF_LINE and HEADROOM; where the spec leaves
the mix open the values are free. -/
def State.twMix (s : State) (g level : Nat) : (Nat × Nat) × (Bool × Bool) :=
  match s.twShares g with
  | some ((u, v), off) =>
    let big := max 1 (max u v).toNat
    let a := quotient (level * u * 32768) (big * max 1 (s.tw g).gainW)
    let b := quotient (level * v * 32768) (big * max 1 (s.tw g).gainC)
    ((min fullLevel a.toNat, min fullLevel b.toNat), (off, decide ((fullLevel : Int) < a) || decide ((fullLevel : Int) < b)))
  | none => ((min fullLevel (Config.freeNat s.freeIdx), min fullLevel (Config.freeNat (s.freeIdx + 1))), (false, false))

/-! Channels (R343 to R362). -/

/-- Die half that serves a channel; 8 and 9 are the spares. -/
def State.chDie (s : State) (c : Nat) : Nat :=
  lget 0 (c / 4) s.drv.dies

/-- Temperature of a channel in 0.1 degrees (R358). -/
def State.chTemp (s : State) (c : Nat) : Int :=
  let n := field 12 10 (s.chReg c 0)
  if bit 13 (s.chReg c 0) && !lget false n s.drv.ntcOpen && !lget false n s.drv.ntcShort then lget 0 n s.drv.ntcTemp
  else s.sys.baseTemp

/-- Derating in 1/400 (R359). -/
def State.derating (s : State) (c : Nat) : Nat :=
  let td := field 23 16 (s.chReg c 0x1C)
  let excess := s.chTemp c - 10 * (td : Int)
  if td = 0 ∨ excess ≤ 0 then 400 else max 100 (400 - excess).toNat

/-- A channel's output is off whatever its level (R343, R345, R346, R361, R362; DRV_CTRL.EN, log 21). -/
def State.chOff (s : State) (c : Nat) : Bool :=
  let x := s.ch c
  !bit 0 (s.reg 0x40060000) || decide (field 1 0 (s.chReg c 0) = 0) || decide (s.lumKind (s.chLum c) = 0)
    || x.lasting || (decide (x.fault ≠ 0) && x.retrying.isNone) || decide (x.dieOff ≠ 0)
    || lget false (s.chDie c) s.drv.gateLow || s.drv.failed.contains (c / 4)

/-- Level a LEARN holds a channel at: 100, 50, 25 and 10 % for 50 cycles each (R357). -/
def State.learnLevel (s : State) (n : Learn) : Nat :=
  lget 1000 ((s.cn - n.start) / 50) [10000, 5000, 2500, 1000] * fineUnit

/-- Level of a luminaire's channel for the luminaire's level: its share of SINGLE, or the mix (R346, R366). Under
fallback a tunable-white luminaire keeps its last mix (R376). -/
def State.shareOf (s : State) (c level row : Nat) : Nat :=
  let l := s.chLum c
  if s.lumKind l = 2 then
    if row = 7 then (s.ch c).level
    else match s.twOf l with
      | some g => if bit 9 (s.chReg c 0) then (s.twMix g level).1.2 else (s.twMix g level).1.1
      | none => min fullLevel (Config.freeNat s.freeIdx)
  else min fullLevel (quotientNat (level * field 31 16 (s.chReg c 4)) 10000)

/-- Level a primary is measured at: it alone at 100 %, on the reference luminaire of a group that learns (R366). -/
def State.twLearnLevel (s : State) (c : Nat) : Option Nat :=
  match s.twOf (s.chLum c) with
  | some g => match (s.tw g).learn with
    | some n => if field 12 8 (s.twReg g 0) = s.chLum c then
        some (if (if bit 9 (s.chReg c 0) then 1 else 0) = n.primary then fullLevel else 0) else none
    | none => none
  | none => none

/-- The level of a channel (R346, R347, R357): a learning run holds its own; row 4 stands between the rows of the
luminaire. Row 8 stands for a clearing, in which a channel keeps the level it had (Table 9.7). -/
def State.chLevel (s : State) (c level row : Nat) : Nat :=
  let x := s.ch c
  if row = 8 then x.level
  else if row = 7 ∨ row ≤ 2 then s.shareOf c level row
  else match x.learn, s.twLearnLevel c with
    | some n, _ => s.learnLevel n
    | none, some v => v
    | none, none =>
      if row = 3 then s.shareOf c level row
      else match x.direct with
        | some d => d * fineUnit
        | none => s.shareOf c level row

/-- Amplitude setpoint (R350, R359): rounded to the nearest of 65,535 steps of I_FS. -/
def State.amplitude (s : State) (c level : Nat) : Nat :=
  let eff := if level < 1000 * fineUnit then 1000 * fineUnit else level
  if level = 0 then 0
  else min 65535 (nearest (eff * s.chReg c 12 * s.chReg c 8 * s.derating c * 65535 : Nat) (fullLevel * 100000000 * 400)).toNat

/-- An on-window shorter than 2 microseconds is lengthened (R354). -/
def State.floored (s : State) (level : Nat) : Bool :=
  decide (0 < level) && decide (level < 1000 * fineUnit)
    && decide (level * s.period < 2000 * 1000 * fineUnit * s.drv.k)

/-- Duty in 2^-16 (R350, R354). -/
def State.dutyOf (s : State) (level : Nat) : Nat :=
  if level = 0 then 0
  else if 1000 * fineUnit ≤ level then Config.fullDuty.toNat
  else if s.floored level then min 65535 (quotientNat (2000 * 65536 * s.drv.k) (max 1 s.period))
  else quotientNat level 1000

/-- A channel takes its setpoint from a level (R350, R354, R359); a change of derating fires source 4 of its
half, and a change of setpoint is marked for the colour windows of its group (R363). -/
def State.setChannel (s : State) (c level row j : Nat) : State :=
  let x := s.ch c
  let wanted := s.chLevel c level row
  let v := if s.chOff c then 0 else wanted
  let amp := s.amplitude c v
  let duty := s.dutyOf v
  let derated := decide (s.derating c < 400)
  let s := s.modCh c fun x => { x with
    level := wanted, amplitude := amp, duty := duty, derated := derated
    floor := s.floored v
    hybrid := decide (0 < v) && decide (v < 1000 * fineUnit) }
  let s := if derated = x.derated then s else s.postTile .stringLoop (c / 4) 4 1 0
  match s.twOf (s.chLum c) with
  | some g =>
    let icyc := field 7 4 (s.reg (0x40060A00 + 0x20 * field 2 1 (s.twReg g 0)))
    let first := decide (j = 0) && decide (s.cn % (if icyc = 0 then 16 else icyc) = 0)
    if (amp ≠ x.amplitude ∨ duty ≠ x.duty) ∧ !first then s.modTw g fun t => { t with dirty := true } else s
  | none => s

/-! Faults of a string (R357, R360, R361). -/

/-- The STRING record and the event of a channel (R361): fault code, m, and whether it counts a transient. -/
def State.stringEvent (s : State) (c fault m : Nat) (transient : Bool) : State :=
  let s := s.postTile .stringLoop (c / 4) (c % 4) 1 m
  s.record (s.tileSource .stringLoop (c / 4) (c % 4)) 0x39 .ok
    (le 1 c ++ le 1 fault ++ le 1 m ++ le 1 (if transient then 1 else 0))

/-- A hardware limit of a die half acts (R345): source 848 + h. -/
def State.hardwareLimit (s : State) (h : Nat) : State :=
  s.post (848 + h) 1 0

/-- V_ref in 0.01 mV at a current in mA (R357); between the learned points by interpolation, beyond them free. -/
def State.vref (s : State) (c amps : Nat) : Int × State :=
  let imax := s.chReg c 12
  let v (i : Nat) : Int := (lget 0 i [field 15 0 (s.chReg c 0x20), field 31 16 (s.chReg c 0x20), field 15 0 (s.chReg c 0x24),
    field 31 16 (s.chReg c 0x24)] : Nat)
  let seg (i p q : Nat) : Int :=
    quotient (10000 * (v i * ((q - p) * imax : Nat) + (v (i + 1) - v i) * ((100 * amps : Int) - (p * imax : Nat)))) ((q - p) * imax)
  let tc := ofTwos 16 (field 15 0 (s.chReg c 0x1C)) * (s.chTemp c - ofTwos 16 (field 15 0 (s.chReg c 0x28)))
  if 100 * amps < 10 * imax ∨ imax < amps ∨ imax = 0 then s.drawInt
  else if 100 * amps ≤ 25 * imax then (seg 0 10 25 + tc, s)
  else if 100 * amps ≤ 50 * imax then (seg 1 25 50 + tc, s)
  else (seg 2 50 100 + tc, s)

/-- The conditions of Table 9.5 in a frame: open, string short, overcurrent, overvoltage, and the m of a single-LED short. -/
structure FrameFault where
  conds : List Bool
  short : Option Nat
  deriving DecidableEq, Repr

/-- Judge a frame of a channel (Table 9.5): without LEARNED only open strings and the die's limits. -/
def State.judge (s : State) (m : ChMeas) : FrameFault × State :=
  let c := m.channel.val
  let x := s.ch c
  let (vr, s) := if x.learned then s.vref c m.amps else (0, s)
  let v : Int := 10000 * (m.volts : Int)
  let half := decide (x.amplitude * 100000000 ≤ 2 * m.amps * s.chReg c 8 * 65535)
  let vf : Int := 100 * (field 31 16 (s.chReg c 0x18) : Int)
  let led := x.learned && decide (vf ≤ 2 * (vr - v)) && decide (vr ≤ 4 * v)
  let (k, s) := if led && decide (vf = 0) then s.drawNat else ((nearest (vr - v) vf.toNat).toNat, s)
  ({ conds := [m.below && m.atLimit, x.learned && half && decide (4 * v < vr), decide (x.dieOff = 3), decide (x.dieOff = 4)]
     short := if led then some (k % 256) else none }, s)

/-- Frames in a row in which each condition held. -/
def countRun (l : List Bool) (r : List Nat) : List Nat :=
  (l.zip r).map fun p => if p.1 then p.2 + 1 else 0

/-- A fault is confirmed (R360, R361): the channel goes off, its retry is due 100 cycles later. -/
def State.confirmFault (s : State) (c fault : Nat) : State :=
  let s := s.modCh c fun x => { x with fault := fault, retryCn := some (s.cn + 100), run := [0, 0, 0, 0, 0], learn := none }
  s.stringEvent c fault 0 false

/-- A retry's frame (R361): the condition's return is lasting; three frames without it are a transient. -/
def State.retryFrame (s : State) (c : Nat) (bad : Bool) : State :=
  let x := s.ch c
  match x.retrying with
  | none => s
  | some n =>
    if bad then
      (s.modCh c fun x => { x with retrying := none, lasting := true }).stringEvent c x.fault 0 false
    else if n + 1 < 3 then s.modCh c fun x => { x with retrying := some (n + 1) }
    else
      (s.modCh c fun x => { x with retrying := none, fault := 0, transient := true, run := [0, 0, 0, 0, 0] }).stringEvent c x.fault 0 true

/-- A confirmed single-LED short (R360, R361): each increase of m raises it. -/
def State.ledShort (s : State) (c m : Nat) : State :=
  if (s.ch c).ledM < m then
    (s.modCh c fun x => { x with ledM := m, shorted := m }).stringEvent c 0 m false
  else s

/-- What a frame's conditions do to a channel. -/
def State.applyFrame (s : State) (c : Nat) (f : FrameFault) : State :=
  let x := s.ch c
  if x.retrying.isSome then s.retryFrame c (f.conds.any id)
  else if x.fault ≠ 0 then s
  else
    let run := countRun (f.conds ++ [f.short.isSome]) x.run
    let s := s.modCh c fun x => { x with run := run, ledM := if f.short.isSome then x.ledM else 0 }
    match (run.take 4).findIdx? fun n => decide (3 ≤ n) with
    | some i => s.confirmFault c (i + 1)
    | none => match f.short with
      | some m => if 3 ≤ lget 0 4 run then s.ledShort c m else s
      | none => s

/-- A measured frame of a channel that its loop tile drives: measurement and judgement (R357, R360). -/
def State.frameMeasured (s : State) (m : ChMeas) : State :=
  let c := m.channel.val
  if s.fallback || s.clearedLum (s.chLum c) || decide ((s.ch c).dieOff ≠ 0) || s.chOff c then s
  else
    let s := s.modCh c fun x => { x with amps := m.amps, volts := m.volts }
    let (f, s) := s.judge m
    s.applyFrame c f

/-- Frames of channels that the die holds off: the limits are judged at each frame start (Table 9.5). -/
def State.dieFrames (s : State) : State :=
  forEach (fun c s =>
    let d := (s.ch c).dieOff
    if d = 0 then s
    else s.applyFrame c { conds := [false, false, decide (d = 3), decide (d = 4)], short := none }) (upFrom 0 32) s

/-! Halves and temperatures (R358, R362). -/

/-- The spare of a half: SH0 for H0 to H3, SH1 for H4 to H7. -/
def spareHalf (h : Nat) : Nat :=
  if h < 4 then 8 else 9

/-- Failed halves are taken over by their spare at a frame boundary, where it is free (R362): source 857. -/
def State.takeHalves (s : State) : State :=
  forEach (fun h s =>
    let d := spareHalf h
    if s.spare (unitOf .a 7 d) && !s.drv.dies.contains d then
      ({ s with drv := { s.drv with
          dies := lset h d s.drv.dies
          failed := s.drv.failed.filter fun x => decide (x ≠ h) } }).post 857 1 0
    else s) s.drv.failed s

/-- An NTC reading within range gives its temperature and ends its fault (R358). -/
def State.ntcRead (s : State) (p : Nat × Nat) : State :=
  if 50 ≤ p.2 ∧ p.2 ≤ 2450 then
    { s with drv := { s.drv with
        ntcTemp := lset p.1 (Config.ntcTemperature (s.reg (0x40060040 + 8 * p.1)) p.2) s.drv.ntcTemp
        ntcOpen := lset p.1 false s.drv.ntcOpen
        ntcShort := lset p.1 false s.drv.ntcShort } }
  else s

/-! A frame (R347, R349, R353). -/

/-- A SAFETY level, or its release, applies at the first frame of its CN (R348). -/
def State.applySafety (s : State) : State :=
  let apply (x : LumSt) : LumSt := match x.safetyNext with
    | some (v, c) => if c ≤ s.cn then { x with safety := v, safetyNext := none } else x
    | none => x
  { s with drv := { s.drv with lums := s.drv.lums.map apply } }

/-- Direct levels without ON_TRIGGER apply at a frame start; a cleared DIRECT ends there (R347, R356). -/
def State.applyDirect (s : State) : State :=
  forEach (fun c s =>
    let p := s.chReg c 0x3C
    if !bit 31 p then s.modCh c fun x => { x with direct := none }
    else if !bit 16 p then s.modCh c fun x => { x with direct := some (field 15 0 p) }
    else s) (upFrom 0 32) s

/-- A wave raise that has fallen to the base level is over (R287). -/
def State.endWaves (s : State) : State :=
  let lapse (x : LumSt) : LumSt := match x.wave with
    | some w => match w.fall with
      | some f => if f + 4 * w.ramp ≤ s.cn then { x with wave := none } else x
      | none => x
    | none => x
  { s with drv := { s.drv with lums := s.drv.lums.map lapse } }

/-- A luminaire and its channels at frame j. -/
def State.frameLum (s : State) (j l : Nat) : State :=
  if s.lumKind l = 0 then s
  else if s.clearedLum l && !s.fallback then
    let x := s.lum l
    forEach (fun c s => s.setChannel c x.level 8 j) (s.lumChs l) (s.modLum l fun x => { x with row := 7 })
  else
    let (v, row) := s.lumLevel l j
    let s := s.modLum l fun x => { x with level := v, row := row }
    let s := if row ≤ 2 ∨ row = 7 then forEach (fun c s => s.modCh c fun x => { x with learn := none }) (s.lumChs l) s else s
    let s := match s.twOf l with
      | some g => s.modTw g fun t => { t with offLine := (s.twMix g v).2.1, headroom := (s.twMix g v).2.2, level := v }
      | none => s
    forEach (fun c s => s.setChannel c v row j) (s.lumChs l) s

/-- Channels whose luminaire is UNUSED, or that have no topology, stay off. -/
def State.frameOff (s : State) (j : Nat) : State :=
  forEach (fun c s => if s.lumKind (s.chLum c) = 0 || decide (field 1 0 (s.chReg c 0) = 0) then s.setChannel c 0 6 j else s)
    (upFrom 0 32) s

/-- Engines whose evacuation starts with this frame take its city time (R374). -/
def State.freshRuns (s : State) (j : Nat) : State :=
  forEach (fun p s =>
    match (s.pe p).run with
    | some r =>
      if r.fresh && decide (0 ≤ ((s.cn : Int) - r.startCn) * s.drv.k + j - r.startFrame) then
        s.modPe p fun e => { e with run := some { r with fresh := false, startNs := s.cityNs } }
      else s
    | none => s) (upFrom 0 8) s

/-- PWM frame j of the present cycle starts (R347, R349, R353, R362, R371). -/
def State.frameAt (s : State) (j : Nat) : State :=
  let s := ((((s.takeHalves.applySafety).applyDirect).endWaves).freshRuns j)
  let s := forEach (fun l s => s.frameLum j l) (upFrom 0 32) s
  (s.frameOff j).endEngines j

end Sys2Proof.Machine
end

