-- ==== Sys2Proof/Machine/AdmOps.lean ====
section
/-! DEFINITION. Operations of admission (05): the body of an ADMIT, good standing, the reservation ledger and the earliest
cycle that fits, the frames of a promise, its OUTCOME, and the start and end of a rejoin. -/

namespace Sys2Proof.Machine

/-! The body of an ADMIT (R239, R240). -/

/-- An ADMIT body taken apart (Table 6.6a). -/
structure Ask where
  cls : Nat
  kind : Nat
  mode : Nat
  selector : Nat
  targets : List Nat
  payload : List Byte
  deriving DecidableEq, Repr

/-- An octet of a list, 0 beyond its end. -/
def oct (i : Nat) (l : List Byte) : Nat :=
  ofLe (slice i 1 l)

/-- Insert a number into a rising list. -/
def insertNat (x : Nat) : List Nat → List Nat
  | [] => [x]
  | y :: r => if x ≤ y then x :: y :: r else y :: insertNat x r

/-- A list of numbers, rising, each once. -/
def rising (l : List Nat) : List Nat :=
  eachOnce (l.foldl (fun a x => insertNat x a) [])

/-- The fields of an ADMIT body; `none` where it is malformed (Table 6.6a). -/
def parseAdmit (b : List Byte) : Option Ask :=
  let mode := oct 2 b
  let sel := ofLe (slice 4 2 b)
  let m := ofLe (slice 6 2 b)
  let n := if mode = 2 then sel else 0
  if b.length < 8 ∨ oct 3 b ≠ 0 ∨ 2 < mode ∨ b.length ≠ 8 + 2 * n + m then none
  else if (mode = 0 ∧ sel ≠ 0) ∨ (mode = 2 ∧ (sel = 0 ∨ 4096 < sel)) then none
  else some {
    cls := oct 0 b, kind := oct 1 b, mode := mode, selector := sel
    targets := rising ((upFrom 0 n).map fun i => ofLe (slice (8 + 2 * i) 2 b))
    payload := b.drop (8 + 2 * n) }

/-- The payload has the form its kind asks for (R240). -/
def Ask.payloadOk (a : Ask) : Bool :=
  let p := a.payload
  if a.kind = 0x05 then
    decide (p.length = 8) && decide (ofLe (slice 0 2 p) ≤ 10000) && decide (oct 6 p ≤ 1) && decide (oct 7 p = 0)
  else if a.kind = 0x06 then decide (2 ≤ p.length) && decide (p.length ≤ 610)
  else if a.kind = 0x10 then
    decide (12 ≤ p.length) && decide (oct 11 p ≤ 8) && decide (p.length = 12 + 2 * oct 11 p) && decide (oct 0 p ≤ 3)
      && decide (oct 4 p ≤ 1) && decide (ofLe (slice 7 2 p) ≤ 10000)
  else if a.kind = 0x0D then decide (p.length = 8) && decide (oct 4 p ≤ 1) && decide (ofLe (slice 5 3 p) = 0)
  else true

/-- The class an ADMIT names (Table 5.1). -/
def txClass : Nat → Option TxClass
  | 1 => some .syncLevel
  | 2 => some .prompt
  | 3 => some .safety
  | 4 => some .bulk
  | 5 => some .activate
  | _ => none

/-- Class, kind and targets combine (Table 6.6b). -/
def Ask.combines (a : Ask) (c : TxClass) : Bool :=
  let one := decide (a.mode = 2) && decide (a.selector = 1)
  match c with
  | .syncLevel => decide (a.kind = 0x05)
  | .safety => decide (a.kind = 0x05)
  | .activate => decide (a.kind = 0x0D)
  | .prompt => one && (decide (a.kind = 0x05) || decide (a.kind = 0x06) || decide (a.kind = 0x10))
  | .bulk => decide (a.kind = 0x06) || (one && decide (a.kind = 0x10))

/-- A transaction is flooded rather than sent to each target (R186, R207, R522). -/
def Ask.flooded (a : Ask) (c : TxClass) : Bool :=
  match c with
  | .syncLevel => true
  | .safety => true
  | .prompt => false
  | _ => if c = .activate then decide (a.mode = 0) else decide (a.mode ≠ 2)

/-- The deadline names the CN of the transaction (R187). -/
def TxClass.names : TxClass → Bool
  | .syncLevel => true
  | .activate => true
  | _ => false

/-! Answers. -/

/-- A DECLINE body (R242). -/
def declineBody (reason : Reason) (accepted earliest : Cn) : List Byte :=
  le 1 (reasonCode reason) ++ le 5 accepted ++ le 5 earliest ++ [0]

/-- A PROMISE body (R241). -/
def promiseBody (p : Promise) : List Byte :=
  let out := p.targets.filter fun t => t.result.isSome
  le 5 p.accepted ++ le 5 p.promised ++ le 2 p.targets.length ++ le 2 out.length
    ++ (out.map fun t => le 2 t.short ++ le 1 (reasonCode (t.result.getD .ok))).flatten

/-- The digest of an ADMIT: deadline, then body (R231). -/
def admitDigest (deadline : Cn) (body : List Byte) : Nat :=
  ofLe ((octets256 (Config.sha256 (le 5 deadline ++ body))).take 8)

/-- Keep an answer under its id and digest (R231): 4,096 are kept. -/
def FspSt.keep (f : FspSt) (k : Kept) : FspSt :=
  let l := f.kept ++ [k]
  { f with kept := l.drop (l.length - 4096) }

/-- Answer an ADMIT: the answer is kept, and goes out on its session while that is open (R188, R231). -/
def State.answerAdmit (s : State) (a : Admit) (type : Nat) (body : List Byte) : State :=
  let note (k : Kept) : Kept :=
    if k.tx = a.tx ∧ k.digest = admitDigest a.deadline a.body then { k with answer := some (type, body) } else k
  let s := { s with fsp := { s.fsp with kept := s.fsp.kept.map note } }
  match a.session with
  | some i => s.respond i type a.tx body
  | none => s

/-- DECLINE an ADMIT. -/
def State.decline (s : State) (a : Admit) (reason : Reason) (earliest : Cn) : State :=
  s.answerAdmit a 0x12 (declineBody reason s.cn earliest)

/-- DECLINE an ADMIT as a counted violation of its session (Table 6.7). -/
def State.declineCounted (s : State) (a : Admit) (reason : Reason) : State :=
  let s := s.decline a reason 0
  match a.session with
  | some i => s.fspViolation i reason 0x10 a.tx
  | none => s

/-! Targets (R190 to R192). -/

/-- Short addresses of the entries that are neither FREE nor EXCLUDED. -/
def State.listed (s : State) : List Nat :=
  (s.rad.ledger.filter fun p => decide (p.2.state ≠ .free) && decide (p.2.state ≠ .excluded)).map fun p => p.1 + 0x1000

/-- The EUI-64 a short address stands for; 0 where no entry has it. -/
def State.euiAt (s : State) (short : Nat) : Nat :=
  match s.entry short with
  | some e => e.eui
  | none => 0

/-- The targets of a transaction, rising (R192). -/
def State.resolve (s : State) (a : Ask) : List Nat :=
  match a.mode with
  | 0 => s.listed
  | 1 => s.listed.filter fun x => (s.groupsOf (s.euiAt x)).contains a.selector
  | _ => a.targets

/-- A grove key generation is LIVE (R190): the current one, or the one of a rotation in progress. -/
def State.generationLive (s : State) (g generation : Nat) : Bool :=
  (decide (generation = s.key.generation) && s.slotLive (16 + 8 * s.key.half + g))
    || (match s.key.rotation with
        | some r => decide (generation = r.generation) && s.slotLive (16 + 8 * r.half + g)
        | none => false)

/-- Retransmission expectation of the path to a node in 1/16 (R190). -/
def State.expectation (s : State) (short : Nat) : Nat :=
  ((s.pathTo short 7).map fun x => match s.nodeAt x with
    | some n => n.etx - 16
    | none => 0).sum

/-- Pending LEVELs the module counts at a node (R190, Table 5.3). -/
def State.pendingLevels (s : State) (short : Nat) : Nat :=
  countIf (fun p => p.isLevel && decide (s.cn < p.promised)
    && p.targets.any fun t => decide (t.short = short) && t.result.isNone) s.adm.promises

/-- Why a target is not in good standing at acceptance, the contactor row apart (Table 5.2, R192). -/
def State.standing (s : State) (c : TxClass) (level : Bool) (short : Nat) : Option Reason :=
  match s.entry short, s.nodeAt short with
  | some e, some n =>
    if e.state = .free ∨ e.state = .excluded then some .targetAbsent
    else if n.state = .stray then some .targetStray
    else if n.state ≠ .scheduled then some .targetAbsent
    else if c ≠ .safety ∧ n.agrees s.cn = false then some .digestMismatch
    else if !(s.generationLive (shortGrove short) e.keyIndex || s.generationLive (shortGrove short) n.generation) then
      some .keyWithered
    else if c ≠ .safety ∧ level ∧ 8 ≤ s.pendingLevels short then some .busy
    else if c = .syncLevel ∧ 16 < s.expectation short then some .tooLate
    else none
  | _, _ => some .targetAbsent

/-- A target with what keeps it out. -/
abbrev Judged2 := Nat × Option Reason

/-- Those in good standing. -/
def goodOf (l : List Judged2) : List Nat :=
  (l.filter fun p => p.2.isNone).map Prod.fst

/-- The reason most excluded targets share, the lowest value among equals (R192); TARGET_ABSENT without any target. -/
def commonReason (l : List Judged2) : Reason :=
  let codes := rising (l.filterMap fun p => p.2.map reasonCode)
  let times (c : Nat) : Nat := countIf (fun p => decide (p.2.map reasonCode = some c)) l
  let best := maxOf (codes.map times)
  match codes.find? fun c => decide (times c = best) with
  | some c => (reasonOf c).getD .targetAbsent
  | none => .targetAbsent

/-- Exclude more targets. -/
def exclude (r : Reason) (p : Nat → Bool) (l : List Judged2) : List Judged2 :=
  l.map fun t => if t.2.isNone && p t.1 then (t.1, some r) else t

/-- A node is RESYNC (R128). -/
def State.isResync (s : State) (short : Nat) : Bool :=
  match s.entry short with
  | some e => e.resync
  | none => false

/-- Slots a RESYNC node adds to a lead (R128). -/
def State.resyncSlots (s : State) (short : Nat) : Nat :=
  if s.isResync short then 64 * s.advSpread else 0

/-! Leads (Tables 5.4 to 5.7, R191, R196). -/

/-- Slots of an SF-Prompt pass to hop h (Table 5.4). -/
def passSlots (hop : Nat) : Nat :=
  lget 18 (hop - 1) [1, 2, 3, 5, 6, 7, 17, 18]

/-- Cycles of a number of slots, a part counting whole. -/
def slotCycles (n : Nat) : Nat :=
  (n + 1) / 2

/-- Slots added for an expectation above 1.0 (R191). -/
def State.growth (s : State) (short : Nat) : Nat :=
  16 * ((s.expectation short - 16 + 15) / 16)

/-- Busy cells that LBT adds to a lead in a grove (R196). -/
def State.lbtCells (s : State) (g : Nat) : Nat :=
  if s.rad.profile.lbt then min 4 (countIf (fun c => decide (s.cn < c + 1000)) (lget [] g s.rad.busy)) else 0

/-- The hop of a node. -/
def State.hopOf (s : State) (short : Nat) : Nat :=
  match s.nodeAt short with
  | some n => n.hop
  | none => 1

/-- Slots of a unicast's lead beyond the wait for its cell: pass, retransmissions, losses, application (Table 5.7), with
what R128, R191 and R196 add. -/
def State.promptSlots (s : State) (short : Nat) : Nat :=
  passSlots (s.hopOf short) + 66 + s.growth short + s.resyncSlots short + 16 * s.lbtCells (shortGrove short)

/-- Slots of the shortest unicast lead (Table 5.7), of n frames. -/
def State.promptLead (s : State) (n short : Nat) : Nat :=
  slotCycles (16 + s.promptSlots short + 32 * (n - 1))

/-- Slots of a flood's lead beyond its cell (Table 5.5) in a grove. -/
def State.floodSlots (s : State) (g : Nat) : Nat :=
  64 + 16 * s.lbtCells g

/-! Cells (R194, R196). -/

/-- A residue-0 cell can be booked in a grove: none of it and its neighbours is booked (R194). -/
def State.cellFree (s : State) (g a : Nat) : Bool :=
  !(s.adm.bookings.any fun b => decide (b.grove = g) && b.link.isNone
    && decide (a ≤ b.asn + 16) && decide (b.asn ≤ a + 16))

/-- Duty bins of a minute ahead that still count at an ASN (R95, R196). -/
def State.binsAt (s : State) (t band a : Nat) : Nat :=
  let ahead := (a / 2 - s.cn) / (60 * s.time.nominal)
  (((tget (s.dutyKey t band) s.rad.duty).getD []).take (60 - ahead)).sum

/-- Sub-band of a cell of a grove. -/
def State.bandAt (s : State) (g stage a : Nat) : Nat :=
  s.rad.profile.bandOf (s.channel a (s.offsetOf g stage))

/-- Stage of a booking's channel offset. -/
def Booking.stage (b : Booking) : Nat :=
  match b.link with
  | some n => if Config.bulkJ1 b.grove n then 2 else 1
  | none => 0

/-- Airtime booked in the rolling hour that ends at an ASN, in the duty sum of a transceiver and sub-band (R196). -/
def State.bookedUse (s : State) (t band a : Nat) : Nat :=
  let hour := 7200 * s.time.nominal
  let counts (b : Booking) : Bool := decide (b.asn ≤ a) && decide (a < b.asn + hour)
    && decide (s.dutyKey ((s.trxOf b.grove).getD 8) (s.bandAt b.grove b.stage b.asn) = s.dutyKey t band)
  ((s.adm.bookings.filter counts).map Booking.airtime).sum

/-- Airtime more fits the budget less the reserve in the rolling hours of a cell and of the bookings after it
(R95, R96, R196). -/
def State.dutyRoom (s : State) (g stage a air : Nat) : Bool :=
  let t := (s.trxOf g).getD 8
  let band := s.bandAt g stage a
  match s.dutyBudget band false with
  | none => true
  | some budget =>
    let ends := a :: (s.adm.bookings.map Booking.asn).filter fun x => decide (a < x) && decide (x < a + 7200 * s.time.nominal)
    ends.all fun x => decide (s.binsAt t band x + s.bookedUse t band x + air ≤ budget)

/-- The first residue-0 cell of a grove, from an ASN on, that can be booked, with the resource that last bound. -/
def State.nextCell (s : State) (g air n : Nat) : Nat → Nat → Reason → Option Nat × Reason
  | 0, _, r => (none, r)
  | fuel + 1, a, r =>
    if !s.cellFree g a then s.nextCell g air n fuel (a + 16) .noCapacity
    else if !s.dutyRoom g 0 a air then s.nextCell g air n fuel (a + 16) .dutyBudget
    else if !Config.engineFits [g, a, n] then s.nextCell g air n fuel (a + 16) .noCapacity
    else (some a, r)

/-- The next residue-0 ASN at or after a slot. -/
def residue0 (a : Nat) : Nat :=
  (a + 15) / 16 * 16

/-- Cells searched: 65,536 cycles (R200). -/
def searchCells : Nat := 8192

/-- Add a booking. -/
def State.book (s : State) (b : Booking) : State :=
  { s with adm := { s.adm with bookings := s.adm.bookings ++ [b] } }

/-- Book n cells of a grove from an ASN on, each once the one before has its recovery cell; answers the last. -/
def State.bookCells (s : State) (id g air n : Nat) : Nat → Nat → Nat → Reason → Option (State × Nat) × Reason
  | 0, _, last, r => (some (s, last), r)
  | k + 1, a, _, r =>
    match s.nextCell g air n searchCells (residue0 a) r with
    | (some c, r) => (s.book { grove := g, asn := c, promise := id, airtime := air }).bookCells id g air n k (c + 32) c r
    | (none, r) => (none, r)

/-! The frames of a transaction. -/

/-- Flags octet of a LEVEL: RELEASE from its payload, SAFETY and TALLY by the class (R240, Table 4.11). -/
def levelFlags (c : TxClass) (payload : List Byte) : Nat :=
  oct 6 payload * 2 + (if c = .safety then 5 else 4)

/-- A LEVEL body (Table 4.11). -/
def levelBody (id : Nat) (cn : Cn) (payload : List Byte) (flagBits : Nat) (selector : List Byte) : List Byte :=
  le 4 id ++ le 5 cn ++ slice 0 6 payload ++ le 1 flagBits ++ selector

/-- Windows of 64 short addresses that hold targets of a grove: their bases. -/
def windows (g : Nat) (l : List Nat) : List Nat :=
  rising ((l.filter fun x => decide (shortGrove x = g)).map fun x => x / 64 * 64)

/-- Selector octets of a list of targets in one window (Table 4.11, mode 2). -/
def bitmapSelector (base : Nat) (l : List Nat) : List Byte :=
  let inside := l.filter fun x => decide (base ≤ x) && decide (x < base + 64)
  le 1 2 ++ le 2 base ++ le 8 ((rising inside).map fun x => 2 ^ (x - base)).sum

/-- Selector octets of the LEVELs a grove needs. -/
def Ask.selectors (a : Ask) (g : Nat) (l : List Nat) : List (List Byte) :=
  if a.mode = 2 then (windows g l).map fun b => bitmapSelector b l else [le 1 a.mode ++ le 2 a.selector]

/-- Item id and content that a PROFILE or ROUTE_LOAD payload carries (R158, R240). -/
def itemOf (kind : Nat) (payload : List Byte) : Nat × List Byte :=
  if kind = 0x10 then (0x0200 + oct 0 payload, payload) else (ofLe (slice 0 2 payload), payload.drop 2)

/-- Bodies of the frames of a payload that takes effect at a CN, for a grove's flood or one target. -/
def Ask.bodies (a : Ask) (c : TxClass) (id : Nat) (cn : Cn) (selectors : List (List Byte)) : List (List Byte) :=
  if a.kind = 0x05 then selectors.map fun x => levelBody id cn a.payload (levelFlags c a.payload) x
  else if a.kind = 0x06 then profileBodies (itemOf 0x06 a.payload).1 cn (itemOf 0x06 a.payload).2
  else if a.kind = 0x10 then [slice 0 1 a.payload ++ le 5 cn ++ a.payload.drop 1]
  else [slice 0 4 a.payload ++ le 4 id ++ le 5 cn ++ slice 4 1 a.payload]

/-- The part of an item a frame of a promise carries: of a node, or 0 in a flood. -/
def Ask.part (a : Ask) (eui i n : Nat) : Option (Nat × Nat × Bool) :=
  if a.kind = 0x06 ∨ a.kind = 0x10 then some (eui, (itemOf a.kind a.payload).1, decide (i + 1 = n)) else none

/-- Selector of a unicast LEVEL. -/
def unicastSelector (short : Nat) : List Byte :=
  le 1 2 ++ le 2 short ++ le 8 1

/-- Airtime of a frame with a body and a header, in thirds of a microsecond. -/
def State.frameAir (s : State) (g header body : Nat) : Nat :=
  let t := (s.trxOf g).getD 8
  s.trxAirtime t (header + body + (if (ctrlMode (s.trxCtrl t)).1 = 6 then 21 else 23))

/-- Airtime of the longest body. -/
def State.longestAir (s : State) (g header : Nat) (l : List (List Byte)) : Nat :=
  s.frameAir g header (maxOf (l.map List.length))

/-- A unicast's airtime with its expected retransmissions (R191, R196). -/
def State.unicastAir (s : State) (short : Nat) (l : List (List Byte)) : Nat :=
  let path := (s.pathTo short 7).length - 1
  let header := 9 + 2 * (path - 1)
  quotientNat (s.longestAir (shortGrove short) header l * (16 + s.expectation short)) 16

/-! The earliest CN that fits (R193 to R207). -/

/-- What a search found: the state with the bookings made, the promised CN and the shortest lead; and what bound. -/
structure Fit where
  found : Option (State × Cn)
  binding : Reason

/-- Book a flood: one cell a frame in each grove, at or after an ASN (R204, R207). -/
def State.bookFlood (s : State) (id from_ : Nat) (frames : Nat → List (List Byte)) (cells : Nat → Nat) :
    List Nat → Cn → Reason → Fit
  | [], e, r => { found := some (s, e), binding := r }
  | g :: gs, e, r =>
    let bs := frames g
    match s.bookCells id g (s.longestAir g 8 bs) (cells g) bs.length from_ from_ r with
    | (some (s, last), r) => s.bookFlood id from_ frames cells gs (max e (slotCycles (last + s.floodSlots g))) r
    | (none, r) => { found := none, binding := r }

/-- Book residue-0 cells for one target (R205). -/
def State.bookPrompt (s : State) (id from_ short : Nat) (bs : List (List Byte)) (e : Cn) (r : Reason) : Fit :=
  let g := shortGrove short
  match s.bookCells id g (s.unicastAir short bs) 1 bs.length from_ from_ r with
  | (some (s, last), r) => { found := some (s, max e ((last + s.promptSlots short) / 2)), binding := r }
  | (none, r) => { found := none, binding := r }

/-- The first bulk cell of the link towards a node that begins after an ASN and is not booked (R112, R207). -/
def State.nextBulk (s : State) (g link : Nat) : Nat → Nat → Option Nat
  | 0, _ => none
  | fuel + 1, a =>
    let c := a + Config.bulkWait link (a % 400)
    if s.adm.bookings.any fun b => decide (b.grove = g) && decide (b.link = some link) && decide (b.asn = c) then
      s.nextBulk g link fuel (c + 1)
    else some c

/-- Every link of a path has bulk cells. -/
def State.bulkPath (s : State) (g : Nat) (path : List Nat) : Bool :=
  (match path.head? with
    | some x => s.hasBulk g x
    | none => false)
  && path.all fun x => decide (Config.bulkWait x 0 < 400)

/-- Book the bulk cells of a path in path order, a cell for each frame, 400 slots apart (R207); answers the
sum W of the waits. -/
def State.bookBulk (s : State) (id g air n : Nat) : List Nat → Nat → Nat → Option (State × Nat)
  | [], _, w => some (s, w)
  | x :: rest, a, w =>
    match s.nextBulk g x 1024 a with
    | some c =>
      if (upFrom 0 n).all fun i => s.dutyRoom g 1 (c + 400 * i) air then
        let add (i : Nat) (s : State) : State :=
          s.book { grove := g, asn := c + 400 * i, link := some x, promise := id, airtime := air }
        (forEach add (upFrom 0 n) s).bookBulk id g air n rest (c + 1) (w + (c - a))
      else none
    | none => none

/-- Sum of the waits of a path for a frame ready at an ASN, no booking considered (R207). -/
def waits : List Nat → Nat → Nat
  | [], _ => 0
  | x :: rest, a => Config.bulkWait x (a % 400) + waits rest (a + Config.bulkWait x (a % 400) + 1)

/-- Slots of a BULK lead: waits and frames (R207), with what R128, R191 and R196 add. -/
def State.bulkSlots (s : State) (short w n : Nat) : Nat :=
  1 + w + 400 * (n - 1) + 1202 + s.growth short + s.resyncSlots short + 400 * s.lbtCells (shortGrove short)

/-- Book a BULK unicast; a path with a link without bulk cells is carried in prompt cells (R207). -/
def State.bookBulkTo (s : State) (id from_ short : Nat) (bs : List (List Byte)) (e : Cn) (r : Reason) : Fit :=
  let g := shortGrove short
  let path := s.pathTo short 7
  if s.bulkPath g path then
    match s.bookBulk id g (s.unicastAir short bs) bs.length path from_ 0 with
    | some (t, w) => { found := some (t, max e (s.cn + slotCycles (s.bulkSlots short w bs.length))), binding := r }
    | none => { found := none, binding := .dutyBudget }
  else s.bookPrompt id from_ short bs e r

/-- Shortest lead of a BULK unicast in cycles. -/
def State.bulkLead (s : State) (n short : Nat) : Nat :=
  let path := s.pathTo short 7
  if s.bulkPath (shortGrove short) path then slotCycles (s.bulkSlots short (waits path (s.asn + 1)) n) else s.promptLead n short

/-- Book each target in turn. -/
def State.bookEach (s : State) (c : TxClass) (id from_ : Nat) (bodies : Nat → List (List Byte)) :
    List Nat → Cn → Reason → Fit
  | [], e, r => { found := some (s, e), binding := r }
  | x :: xs, e, r =>
    let f := if c = .bulk then s.bookBulkTo id from_ x (bodies x) e r else s.bookPrompt id from_ x (bodies x) e r
    match f.found with
    | some (s, e) => s.bookEach c id from_ bodies xs e f.binding
    | none => f

/-- Groves of a list of targets, rising. -/
def grovesOf (l : List Nat) : List Nat :=
  rising (l.map shortGrove)

/-- Selectors of a grove's frames, or of one target's. -/
def Ask.framesOf (a : Ask) (c : TxClass) (id : Nat) (cn : Cn) (good : List Nat) (g : Nat) : List (List Byte) :=
  a.bodies c id cn (a.selectors g good)

/-- Bodies of the frames to one target. -/
def Ask.framesTo (a : Ask) (c : TxClass) (id : Nat) (cn : Cn) (short : Nat) : List (List Byte) :=
  a.bodies c id cn [unicastSelector short]

/-- The shortest lead of a class and target set (R204, R205, R207, R522). -/
def State.classLead (s : State) (a : Ask) (c : TxClass) (good : List Nat) : Nat :=
  if a.flooded c then
    let frames := maxOf ((grovesOf good).map fun g => (a.framesOf c 0 0 good g).length)
    40 + 16 * (frames - 1) + (if good.any s.isResync then 32 * s.advSpread else 0)
  else
    let n (x : Nat) : Nat := (a.framesTo c 0 0 x).length
    maxOf (good.map fun x => if c = .bulk then s.bulkLead (n x) x else s.promptLead (n x) x)

/-- The bookings of a transaction from an ASN on, and the first CN they allow. -/
def State.fit (s : State) (a : Ask) (c : TxClass) (id : Nat) (good : List Nat) (from_ : Nat) (e : Cn) : Fit :=
  if a.flooded c then
    s.bookFlood id from_ (a.framesOf c id 0 good) (fun g => countIf (fun x => decide (shortGrove x = g)) good)
      (grovesOf good) e .noCapacity
  else s.bookEach c id from_ (a.framesTo c id 0) good e .noCapacity

/-- The earliest fit (R200): for a class that names its CN, the fit at the named CN, if there is one, counts as
earliest. -/
def State.earliestFit (s : State) (a : Ask) (c : TxClass) (id : Nat) (good : List Nat) (deadline lead : Cn) : Fit :=
  let least := s.cn + lead
  let named := s.fit a c id good (max (s.asn + 1) (2 * (deadline - 4096))) deadline
  let free := s.fit a c id good (s.asn + 1) least
  let near (f : Fit) : Fit := match f.found with
    | some (_, e) => if s.cn + 65536 < e ∧ ¬ (c.names ∧ e = deadline) then { f with found := none } else f
    | none => f
  if c.names ∧ deadline ≠ 0 then
    match named.found with
    | some (_, e) => if e = deadline then named else near free
    | none => near { free with binding := named.binding }
  else near free

/-! Periods that block (R198). -/

/-- Regions of the slots that serve a grove's air: its MAC and its LINK_CRYPTO. -/
def State.airRegions (s : State) (g : Nat) : List Nat :=
  (s.can.slots.filter fun p => (decide (p.2.template = .mac) || decide (p.2.template = .linkCrypto)) && p.2.serves g).map
    fun p => p.2.region

/-- The first CN after a period that meets a window from now to a CN (R198). -/
def State.blockedUntil (s : State) (c : TxClass) (groves : List Nat) (e : Cn) : Option Cn :=
  let clearing := match s.can.clearing with
    | some k => if k.c ≤ e ∧ s.cn < k.c + k.len ∧ groves.any (fun g => (s.airRegions g).contains k.region) = true
        then some (k.c + k.len) else none
    | none => none
  let slew := if c = .syncLevel ∧ s.time.slewCyc ≠ 0 then some (s.cn + s.time.slewCyc.natAbs * 200 - s.time.slewSub) else none
  let reboot := match s.upd.activation with
    | some x => if x.path = .reboot ∧ ¬ x.committed ∧ x.cn ≠ 0 ∧ x.cn ≤ e ∧ s.cn < x.cn + s.secondsInCycles 2
        then some (x.cn + s.secondsInCycles 2) else none
    | none => none
  let found := [clearing, slew, reboot].filterMap id
  if found = [] then none else some (maxOf found)

/-! Promises. -/

/-- Room of an OUTCOME in the push log (R235, R243). -/
def outcomeRoom (n : Nat) : Nat :=
  24 + 20 + 4 * n

/-- The log has room for an OUTCOME of n targets once it has dropped what it may drop (R235). -/
def State.outcomeFits (s : State) (n : Nat) : Bool :=
  let kept := s.fsp.pushLog.filter fun p => decide (p.type = 0x13)
  decide ((kept.map Push.size).sum + s.fsp.booked + outcomeRoom n ≤ pushLogSize)

/-- Note an item a promise brings to a node (R159). -/
def State.noteItem (s : State) (eui id : Nat) (content : List Byte) (effective : Cn) : State :=
  s.modNode eui fun n => n.putItem s.cn { id := id, content := content, effective := effective, acked := false }

/-- The first booked cell of a promise in a grove from a list of ASNs not yet used. -/
def State.cellsOf (s : State) (id g : Nat) : List Nat :=
  rising ((s.adm.bookings.filter fun b => decide (b.promise = id) && decide (b.grove = g)).map Booking.asn)

/-- Hold the frames of a flood in a grove, each for its booked cell (R186). -/
def State.floodPromise (s : State) (a : Ask) (id g : Nat) (cell : Cell) (bs : List (List Byte)) (cells : List Nat) : State :=
  let n := bs.length
  forEach (fun i s =>
    s.flood g cell a.kind (lget [] i bs) (.promise id (a.part 0 i n)) (lget 0 i cells)) (upFrom 0 n) s

/-- Hold further passes of a SYNC_LEVEL in a grove (R195): after its booked cells, up to the last slot from which a pass
reaches hop 8 before CYC(CN - 1). A pass repeats its message, so it carries the sequence of the booked frame (R138,
R142), `q` being that of the first. -/
def State.furtherPasses (s : State) (id g : Nat) (e : Cn) (bs : List (List Byte)) (after q : Nat) : State :=
  forEach (fun i s =>
    s.hold {
      grove := g, cell := .prompt, dest := 0xFFFF, type := 0x05, load := .promise id, notBefore := after + 1
      until_ := some (2 * (e - 1) - 18), left := 65536
      payload := linkHeader 0x05 4 0xFFFF ((q + i) % 65536) ++ lget [] i bs }) (upFrom 0 bs.length) s

/-- Hold the frames to one target (R140). -/
def State.unicastPromise (s : State) (a : Ask) (id short : Nat) (cell : Cell) (bs : List (List Byte)) (cells : List Nat) : State :=
  match s.nodeAt short with
  | none => s
  | some n =>
    forEach (fun i s => s.sendNode n cell a.kind (lget [] i bs) (.promise id (a.part n.eui i bs.length)) (lget 0 i cells))
      (upFrom 0 bs.length) s

/-- The class of a promise's LEVEL that a node applies as soon as it comes: CN 0 (R186). -/
def TxClass.appliedCn (c : TxClass) (e : Cn) (kind : Nat) : Cn :=
  if kind = 0x05 ∧ (c = .prompt ∨ c = .safety) then 0 else e

/-- Send a promise on its way: frames held, items noted (R186, R195, R207). -/
def State.sendPromise (s : State) (a : Ask) (c : TxClass) (id : Nat) (e : Cn) (good : List Nat) : State :=
  let cn := c.appliedCn e a.kind
  let item := itemOf a.kind a.payload
  let isItem := decide (a.kind = 0x06) || decide (a.kind = 0x10)
  let s := if a.kind = 0x06 ∧ item.1 = 0x00FF then
      { s with adm := { s.adm with holdCn := max s.adm.holdCn (ofLe (slice 0 5 item.2)) } } else s
  if a.flooded c then
    forEach (fun g s =>
      let bs := a.framesOf c id cn good g
      let cells := s.cellsOf id g
      let q := s.rad.seq
      let s := s.floodPromise a id g (if c = .safety then .safety else .prompt) bs cells
      let s := s.iff (decide (c = .syncLevel)) fun s => s.furtherPasses id g e bs (maxOf cells) q
      s.iff isItem fun s => forEach (fun n s => if n.grove = g then s.noteItem n.eui item.1 item.2 e else s) s.node.nodes s)
      (grovesOf good) s
  else
    forEach (fun x s =>
      let bs := a.framesTo c id cn x
      let path := s.pathTo x 7
      let bulk := decide (c = .bulk) && s.bulkPath (shortGrove x) path
      let first (b : Booking) : Bool := decide (b.promise = id) && decide (b.grove = shortGrove x)
        && decide (b.link = if bulk then path.head? else none)
      let cells := rising ((s.adm.bookings.filter first).map Booking.asn)
      let used := countIf (fun y => decide (shortGrove y = shortGrove x) && decide (y < x)) good
      let mine := if a.kind = 0x0D then cells.drop used else cells
      let s := s.unicastPromise a id x (if bulk then .bulk else .prompt) bs mine
      s.iff isItem fun s => s.noteItem (s.euiAt x) item.1 item.2 e) good s

/-- String luminaires a LEVEL selects take a SAFETY level at the cycle after next (R348). -/
def State.safetyStrings (s : State) (a : Ask) : State :=
  let v := if oct 6 a.payload = 1 then none else some (ofLe (slice 0 2 a.payload))
  let hit (l : Nat) : Bool := decide (a.mode = 0) || (decide (a.mode = 1) && decide (s.lumGroup l = a.selector))
  let set (x : LumSt) : LumSt := { x with safetyNext := some (v, s.cn + 2) }
  { s with drv := { s.drv with
    lums := (upFrom 0 32).foldl (fun l i => if hit i then lmod set i l else l) s.drv.lums } }

/-- A promise's targets from the judged ones. -/
def targetsOf (l : List Judged2) : List Target :=
  l.map fun p => { short := p.1, result := p.2 }

/-- Record an outstanding promise with its OUTCOME's room, and answer PROMISE (R188, R235, R241). -/
def State.givePromise (s : State) (q : Admit) (p : Promise) : State :=
  let p := { p with room := outcomeRoom p.targets.length }
  let s := { s with
    adm := { s.adm with promises := s.adm.promises ++ [p], nextId := (s.adm.nextId + 1) % 4294967296 }
    fsp := { s.fsp with booked := s.fsp.booked + p.room } }
  s.answerAdmit q 0x11 (promiseBody p)

/-! Outcomes (R210 to R214). -/

/-- The cause of a broken target: the first of Table 5.10 that applies. -/
def Promise.cause (p : Promise) (t : Target) : Nat :=
  if p.safeHold then 0x03
  else if p.margin < p.freeRun ∨ p.freeAtEnd then 0x04
  else if t.radioLoss then 0x02
  else 0x01

/-- An OUTCOME body (R243). -/
def outcomeBody (p : Promise) : List Byte :=
  let bad := p.targets.filter fun t => decide (t.result ≠ some .ok)
  le 4 p.tx ++ le 5 (moveCn (-p.ofs) p.accepted) ++ le 5 (moveCn (-p.ofs) p.promised) ++ le 2 p.targets.length
    ++ le 2 (p.targets.length - bad.length) ++ le 2 bad.length
    ++ (bad.map fun t => le 2 t.short ++ le 1 (reasonCode (t.result.getD .promiseBroken))
          ++ le 1 (t.cause + flag t.preempted 7)).flatten

/-- A caravan discarded at its end (R523, R524). -/
def State.endCaravan (s : State) (id : Nat) : State :=
  let s := (s.modCaravan id fun c => { c with state := .ended, data := [], nodes := [] }).caravanPhase id 0x22
  { s with rad := { s.rad with frames := s.rad.frames.filter fun h => match h.load with
      | .caravan i _ => decide (i ≠ id)
      | _ => true } }

/-- What an ACTIVATE's OUTCOME does to its caravan (R523, R524): it ends, or stays held for the nodes not covered. -/
def State.caravanOutcome (s : State) (p : Promise) : State :=
  match p.caravan with
  | none => s
  | some id =>
    let abort := decide (oct 4 p.payload = 1)
    if abort || (p.whole && p.targets.all fun t => decide (t.result = some .ok)) then s.endCaravan id
    else s.modCaravan id fun c => { c with state := if c.nodes.all CarNode.complete then .heldByAll else .transferring }

/-- End a promise with its OUTCOME (R210): its frames and bookings go, broken targets are recorded (Table 16.4). -/
def State.outcome (s : State) (p : Promise) : State :=
  let broken := p.targets.filter fun t => decide (t.result = some .promiseBroken)
  let s := forEach (fun t s => s.record 0x0420 0x28 .promiseBroken (le 4 p.tx ++ le 2 t.short ++ le 1 t.cause)) broken s
  let s := { s with
    adm := { s.adm with
      promises := s.adm.promises.filter fun x => decide (x.id ≠ p.id)
      bookings := s.adm.bookings.filter fun b => decide (b.promise ≠ p.id) }
    rad := { s.rad with frames := s.rad.frames.filter fun h => match h.load with
      | .promise i _ => decide (i ≠ p.id)
      | _ => true } }
  (s.push 0x13 (outcomeBody p) p.room).caravanOutcome p

/-- CN at which an OUTCOME leaves at the latest (R210); after a reset, R597. -/
def Promise.outcomeBy (p : Promise) : Cn :=
  if p.reset then p.recoverBy.getD (p.promised + 2 ^ 40) else p.promised + 1024

/-- A target without a result is resolved as broken. -/
def Promise.breakOpen (p : Promise) : Promise :=
  p.modOpen fun t => { t with result := some .promiseBroken, cause := p.cause t }

/-- Send the OUTCOMEs of the promises whose targets all have a result. -/
def State.settleOutcomes (s : State) : State :=
  forEach (fun p s => if p.targets.all (fun t => t.result.isSome) then s.outcome p else s) s.adm.promises s

/-- The ADMIT a promise came from, for carrying it again. -/
def Promise.ask (p : Promise) : Ask :=
  { cls := 0, kind := p.kind, mode := p.mode, selector := p.selector, targets := p.targets.map Target.short
    payload := p.payload }

/-- What passes with a cycle for the promises outstanding (R190, R212, R214): free-run is counted, SAFE HOLD is noted,
targets cut off get their result, items that have reached their targets by the promised CN are OK. -/
def Promise.tick (cn : Cn) (freeRun safeHold : Bool) (p : Promise) : Promise :=
  let p := if cn ≤ p.promised then { p with
      freeRun := p.freeRun + (if freeRun then 1 else 0)
      freeAtEnd := p.freeAtEnd || (freeRun && decide (cn = p.promised))
      safeHold := p.safeHold || safeHold } else p
  let isItem := decide (p.kind = 0x06) || decide (p.kind = 0x10)
  if p.reset then p else p.modOpen fun t =>
    if t.radioLoss ∨ t.silent then { t with result := some .promiseBroken, cause := p.cause t }
    else if p.promised ≤ cn ∧ (p.safeHold ∨ p.margin < p.freeRun ∨ p.freeAtEnd) then
      { t with result := some .promiseBroken, cause := p.cause t }
    else if p.promised ≤ cn ∧ isItem then
      if t.served then { t with result := some .ok } else { t with result := some .promiseBroken, cause := p.cause t }
    else t

/-- The promises in a cycle: results, OUTCOMEs, and bookings whose recovery cell has gone (R194, R210). -/
def State.promiseTick (s : State) : State :=
  let run := decide (s.time.mstate = .freeRun)
  let old (b : Booking) : Bool := decide (s.asn ≤ b.asn + 32) || (b.link.isNone && s.stillHeld b.promise b.grove)
  let s := { s with adm := { s.adm with
    promises := s.adm.promises.map (Promise.tick s.cn run s.ford.safeHold)
    bookings := s.adm.bookings.filter old } }
  s.settleOutcomes

/-! Rejoin (R215 to R217). -/

/-- Nodes of a rejoin's set not yet SCHEDULED, LOST or EXCLUDED. -/
def State.rejoinOpen (s : State) (set : List Nat) : List Nat :=
  set.filter fun e => match s.nodeOf e with
    | some n => decide (n.state ≠ .scheduled) && decide (n.state ≠ .lost) && decide (n.state ≠ .excluded)
    | none => false

/-- Nodes of a rejoin's set not yet SCHEDULED. -/
def State.notScheduled (s : State) (set : List Nat) : Nat :=
  countIf (fun e => match s.nodeOf e with
    | some n => decide (n.state ≠ .scheduled)
    | none => true) set

/-- Source 826 and the REJOIN record (R215, Tables 16.4, 16.8). -/
def State.rejoinEvent (s : State) (kind : Nat) (r : Rejoin) : State :=
  let n := s.notScheduled r.set
  let s := s.post 826 kind n
  s.record 826 0x21 .ok (le 1 kind ++ le 1 r.cause ++ le 2 r.set.length ++ le 2 n ++ le 5 (r.start + 4500))

/-- Release the cell bookings of the non-SAFETY promises whose CN falls before the rejoin ends (R217). -/
def State.releaseForRejoin (s : State) (limit : Cn) : State :=
  let hit (p : Promise) : Bool := decide (p.cls ≠ .safety) && decide (p.promised < limit)
  let ids := (s.adm.promises.filter hit).map Promise.id
  let s := { s with
    adm := { s.adm with
      promises := s.adm.promises.map fun p => if hit p then { p with released := true } else p
      bookings := s.adm.bookings.filter fun b => !ids.contains b.promise }
    rad := { s.rad with frames := s.rad.frames.filter fun h => match h.load with
      | .promise i _ => !ids.contains i
      | _ => true } }
  s

/-- A rejoin begins, or a running one takes a further happening in (R215, R216). -/
def State.startRejoin (s : State) (set : List Nat) (cause : Nat) : State :=
  let r : Rejoin := match s.adm.rejoin with
    | some r => { set := rising (r.set ++ set), start := s.cn, cause := cause }
    | none => { set := rising set, start := s.cn, cause := cause }
  let s := { s with adm := { s.adm with rejoin := some r, holdCn := max s.adm.holdCn (s.cn + 4500) } }
  let reset (n : NodeRec) : NodeRec := if r.set.contains n.eui then { n with missed := 0, heard := false } else n
  let s := { s with node := { s.node with nodes := s.node.nodes.map reset } }
  let s := s.rejoinEvent 1 r
  let s := forEach (fun g s => s.floodItem g 0x00FF (le 5 (s.cn + 4500)) 0) s.grovesInUse s
  s.releaseForRejoin (s.cn + 4500)

/-- A rejoin ends (R215, R216): the configured keepalive period comes back by a further SCHEDULE. -/
def State.endRejoin (s : State) : State :=
  match s.adm.rejoin with
  | none => s
  | some r =>
    let s := s.rejoinEvent 2 r
    let s := { s with adm := { s.adm with rejoin := none } }
    forEach (fun e s => match s.nodeOf e with
      | some n => if n.state = .scheduled ∧ n.period = 6000 then s.sendSchedule e else s
      | none => s) r.set s

/-- A rejoin ends once every node of its set is SCHEDULED, LOST or EXCLUDED again. -/
def State.checkRejoin (s : State) : State :=
  match s.adm.rejoin with
  | some r => if s.rejoinOpen r.set = [] then s.endRejoin else s
  | none => s

/-- A node that is SCHEDULED again is sent the released promises that name it (R217). -/
def State.carryReleased (s : State) (short : Nat) : State :=
  forEach (fun p s =>
    if p.released && p.targets.any (fun t => decide (t.short = short) && t.result.isNone) then
      let a := p.ask
      s.unicastPromise a p.id short .prompt (a.framesTo p.cls p.id (p.cls.appliedCn p.promised a.kind) short) []
    else s) s.adm.promises s

end Sys2Proof.Machine
end

