-- ==== Sys2Proof/Machine/Waybill.lean ====
section
/-! DEFINITION. The waybill: records and their octets, commits, losses, clears, memory faults (R526-R534, R542). -/

namespace Sys2Proof.Machine

/-- Records the spec has pushed by name, beside R246: thin understory (R466), a failed validation and a fallback of an
update (R507, R516), the entry into dormancy (R583; log 23). -/
def namedPush (r : Rec) : Bool :=
  (decide (r.id = 0x49) && decide (r.source = 878)) || (decide (r.id = 0x60) && decide (r.source = 883))
    || (decide (r.id = 0x60) && decide (r.source = 0x0422) && decide (r.reason ≠ .ok))
    || (decide (r.id = 0x70) && decide (r.source = 0x0421))

/-- Record flags (Table 16.2), with COMMIT set. -/
def Rec.flagsOctet (r : Rec) : Nat :=
  flag (decide (r.stand = .b)) 0 + roleCode r.role * 2 + 8 + flag r.estimate 4 + flag r.tagged 5 + flag r.dormant 6
    + flag r.partner 7

/-- Bytes 0 to 15 of a record (Table 16.1). -/
def Rec.head (r : Rec) : List Byte :=
  le 4 r.seq ++ le 5 r.cn ++ le 2 r.us ++ le 1 r.flagsOctet ++ le 2 r.source ++ le 1 (reasonCode r.reason) ++ le 1 r.id

/-- The 32 octets of a committed record (Table 16.1). -/
def Rec.octets (r : Rec) : List Byte :=
  r.head ++ le 2 r.count ++ padTo 12 r.payload ++ le 2 (crc16 (r.head ++ padTo 12 r.payload))

/-- A PUSH_SELECT pair selects a record (R246). -/
def pairSelects (pair : List Byte) (r : Rec) : Bool :=
  let src := ofLe (slice 0 2 pair)
  let code := ofLe (slice 2 2 pair)
  (decide (src = r.source) || decide (src = 0xFFFF))
    && decide (code / 256 = r.id) && (decide (code % 256 = reasonCode r.reason) || decide (code % 256 = 0xFF))

/-- A record is pushed when it commits (R246). -/
def State.pushes (s : State) (r : Rec) : Bool :=
  (s.inForce 0x0020).any (fun p => pairSelects p r)
    || decide (r.reason = .storageFault) || decide (r.reason = .tampered) || decide (r.reason = .safeHold)
    || decide (r.reason = .promiseBroken) || decide (r.id = 0x02) || namedPush r

/-- The sequence after another (Table 16.1). -/
def nextRecSeq (n : Nat) : Nat :=
  (n + 1) % 4294967296

/-- Commit a record as the next sequence, over the oldest slot when the ring is full (R527, R532), and push
it where it is selected. -/
def State.commit (s : State) (r : Rec) : State :=
  let r := { r with seq := nextRecSeq s.way.newest, partner := r.partner || decide (r.stand ≠ s.ford.active) }
  let ring := s.way.ring ++ [r]
  let s := { s with way := { s.way with
    ring := ring.drop (ring.length - s.way.capacity)
    newest := r.seq
    pos := (s.way.pos + 1) % max 1 s.way.capacity
    partnerCount := if r.partner then bump s.way.partnerCount else s.way.partnerCount } }
  let s := s.iff (decide (r.id = 0x02)) fun s => s.post 873 1 0
  s.iff (s.pushes r) fun s => s.push 0x30 ([1, 0, 0, 0] ++ r.octets) 0

/-- The LOST record of the open loss count (R529): header and payload carry the first loss. -/
def State.lostRecord (s : State) : Rec :=
  let (cn, us) := s.way.lossFirst.getD (s.cn, s.micros)
  { cn := cn, us := us, stand := s.ford.active, source := 0x0421, id := 0x02
    payload := le 2 0 ++ le 4 s.way.lossOpen ++ le 5 cn }

/-- The recorder's next write (R527, R529): the LOST record once staging has fallen to 32, else the
oldest entry. -/
def State.writeNext (s : State) : State :=
  if s.way.lossOpen ≠ 0 ∧ (s.way.lossDue = true ∨ s.way.staging.length ≤ 32) then
    let r := s.lostRecord
    ({ s with way := { s.way with lossOpen := 0, lossFirst := none, lossDue := false } }).commit r
  else
    match s.way.staging with
    | [] => s
    | r :: rest => ({ s with way := { s.way with
        staging := rest, lossDue := decide (s.way.lossOpen ≠ 0) && decide (rest.length ≤ 32) } }).commit r

/-- Write everything staged (R530, R606). -/
def State.drainStaging (s : State) : State :=
  forEach (fun _ s => s.writeNext) (upFrom 0 (s.way.staging.length + 1)) s

/-- Ring sectors in service, in order (R534). -/
def WaySt.live (w : WaySt) : List Nat :=
  (upFrom 0 32).filter fun i => !(w.leftOut.contains i)

/-- The place in service of the slot a record lies in, counted from the newest record backwards. -/
def WaySt.slotOf (w : WaySt) (back : Nat) : Nat :=
  (w.pos + w.capacity - 1 - back) % max 1 w.capacity

/-- Records whose slot lies in the k-th sector in service, by whether they lie there. -/
def WaySt.inSector (w : WaySt) (k : Nat) : List (Rec × Bool) :=
  let n := w.ring.length
  (w.ring.zip (upFrom 0 n)).map fun (r, i) => (r, decide (w.slotOf (n - 1 - i) / 2048 = k))

/-- Write the last-gasp registers (R451): a record held there stays, and MORE counts. -/
def State.lastGasp (s : State) (r : Rec) : State :=
  if s.ford.lgValid then { s with ford := { s.ford with lgMore := satAdd 65535 s.ford.lgMore 1 } }
  else ({ s with ford := { s.ford with lg := r.octets, lgValid := true } }).post 811 1 s.ford.lgMore

/-- A ring sector fails lastingly (R534): it moves to a spare, is left out, or, as the last one, stays. -/
def State.sectorFails (s : State) (unreadable : List Nat) (bad : Rec) : State :=
  let w := s.way
  let k := w.slotOf 0 / 2048
  let sector := lget 0 k w.live
  let marked := w.inSector k
  let gone (r : Rec) : Bool := decide (s.build = .s) && (unreadable.contains r.seq || decide (r.seq = bad.seq))
  let spare := decide (w.sparesUsed < 4)
  let last := decide (w.live.length ≤ 1)
  let keep := if spare || last then marked.filter (fun p => !(p.2 && gone p.1)) else marked.filter (fun p => !p.2)
  let lost := w.ring.length - keep.length
  let held := keep.map Prod.fst
  let fault : Rec := { (s.happening 0x0421 0x03 .storageFault .nobody
      (le 1 sector ++ le 1 (if spare then 64 + w.sparesUsed else 255) ++ le 4 bad.seq ++ le 4 lost)) with seq := nextRecSeq w.newest }
  let s := s.lastGasp fault
  let way :=
    if spare then
      { s.way with ring := held, sectors := sector :: s.way.sectors, sparesUsed := w.sparesUsed + 1, storageFault := true }
    else if last then { s.way with ring := held, storageFault := true }
    else { s.way with
      ring := held.drop (held.length - (w.capacity - 2048)), storageFault := true, shrunk := true, sectors := sector :: s.way.sectors
      leftOut := sector :: s.way.leftOut, capacity := w.capacity - 2048
      pos := (k * 2048) % max 1 (w.capacity - 2048) }
  let s := { s with way := way }
  let s := s.post 874 1 0
  let s := s.commit fault
  let s := s.iff (decide (lost ≠ 0)) fun s => s.record 0x0421 0x02 .ok (le 2 2 ++ le 4 lost ++ le 5 s.cn)
  s.iff (spare && decide (w.sparesUsed + 1 = 4)) fun s => s.raiseThin 5

/-- A committed record is read back (R534). -/
def State.readBack (s : State) (b : ReadBack) : State :=
  match b with
  | .good => s
  | .retried => { s with way := { s.way with retries := bump s.way.retries } }
  | .failed u =>
    match s.way.ring.getLast? with
    | some r => s.sectorFails u r
    | none => s

/-- RECORDER_WRITE (R527, R529, R534). -/
def execRecorderWrite (readBack : ReadBack) (s : State) : Host.Outcome State Fault Refusal :=
  .next (s.whenLive fun s =>
    s.iff (decide (s.way.staging ≠ []) || decide (s.way.lossOpen ≠ 0)) fun s => s.writeNext.readBack readBack)

/-- WAYBILL_HAPPENING (R528, R529, R531): a happening of a stand, at a tick of the current cycle. -/
def execWaybillHappening (stand : Stand) (role : Role) (source id : Nat) (reason : Reason) (tagged : Bool)
    (payload : List Byte) (tick : Nat) (s : State) : Host.Outcome State Fault Refusal :=
  .next (s.whenLive fun s =>
    let s := s.advanceTo tick
    let stand := if s.build = .s then .a else stand
    s.enter { (s.happening source id reason role payload) with
      stand := stand, tagged := tagged, partner := decide (stand ≠ s.ford.active) })

/-! Reading and clearing. -/

/-- Oldest sequence served; 0 while nothing is held. -/
def WaySt.oldest (w : WaySt) : Nat :=
  match w.ring with
  | [] => 0
  | r :: _ => r.seq

/-- How far a sequence lies behind the newest; sequences count modulo 2^32 (R526), and one 2^31 or more behind counts as
lying ahead of it (log 139). -/
def WaySt.behind (w : WaySt) (n : Nat) : Option Nat :=
  let d := (w.newest + 4294967296 - n % 4294967296) % 4294967296
  if d < 2147483648 then some d else none

/-- A sequence comes no earlier than another. -/
def WaySt.from_ (w : WaySt) (first n : Nat) : Bool :=
  match w.behind first, w.behind n with
  | some a, some b => decide (b ≤ a)
  | _, _ => false

/-- Records served from a sequence, at most a number of them (R532). -/
def WaySt.serve (w : WaySt) (first n : Nat) : List Rec :=
  (w.ring.filter fun r => w.from_ first r.seq).take n

/-- Records before the oldest one served existed once: the first record of all has sequence 1. -/
def WaySt.dropped (w : WaySt) : Bool :=
  decide (w.oldest ≠ 1) || w.cleared || decide (w.capacity ≤ w.ring.length)

/-- A read from below the oldest sequence served sets GAP, where records were overwritten or cleared (R247, R532, R533). -/
def WaySt.gap (w : WaySt) (first : Nat) : Bool :=
  match w.behind first, w.behind w.oldest with
  | some a, some b => decide (b < a) && decide (w.ring ≠ []) && w.dropped
  | _, _ => false

/-- A clear (R248, R533): answers the reason, the CLEARED sequence and the state. -/
def State.clearWaybill (s : State) (seen : Nat) (role : Role) (source path : Nat) : Reason × Nat × State :=
  if seen ≠ s.way.newest then (.busy, 0, s)
  else
    match s.way.ring.getLast? with
    | some r =>
      if r.id = 0x01 then (.ok, r.seq, s)
      else
        let h := s.happening source 0x01 .ok role (le 4 s.way.ring.length ++ le 4 s.way.clearSeq ++ le 1 path)
        let s := s.commit h
        let seq := s.way.newest
        (.ok, seq, { s with way := { s.way with
          ring := s.way.ring.filter fun r => decide (r.seq = seq)
          cleared := true, clearSeq := seq, clearCn := s.cn } })
    | none =>
      let s := s.commit (s.happening source 0x01 .ok role (le 4 0 ++ le 4 s.way.clearSeq ++ le 1 path))
      (.ok, s.way.newest, { s with way := { s.way with cleared := true, clearSeq := s.way.newest, clearCn := s.cn } })

/-- WAYBILL_READ (R247). -/
def State.waybillRead (s : State) (i : Fin 4) (tx : Nat) (body : List Byte) : State :=
  let from_ := ofLe (slice 0 4 body)
  let n := ofLe (slice 4 2 body)
  if body.length ≠ 8 ∨ n = 0 ∨ 1024 < n ∨ ofLe (slice 6 2 body) ≠ 0 then s.malformed i 0x31 tx
  else
    let rs := s.way.serve from_ n
    s.respond i 0x31 tx (le 1 0 ++ le 1 (if s.way.gap from_ then 1 else 0) ++ le 2 rs.length ++ le 4 s.way.oldest
      ++ le 4 s.way.newest ++ (rs.map Rec.octets).flatten)

def execWaybillRead (sess : Fin 4) (role : Byte) (tx : Word) (body : List Byte) (s : State) :
    Host.Outcome State Fault Refusal :=
  .next (s.whenLive fun s => s.request sess role 0x31 tx.toNat .operator fun c s =>
    (s.countUse sess c Session.readUse).waybillRead sess tx.toNat body)

/-- WAYBILL_CLEAR (R248, R533). -/
def State.waybillClear (s : State) (i : Fin 4) (c : Session) (tx : Nat) (body : List Byte) : State :=
  if body.length ≠ 4 then s.malformed i 0x32 tx
  else
    let (reason, seq, s) := s.clearWaybill (ofLe body) c.role (c.pathSource i) (if c.path = 3 then 4 else i.val)
    s.respond i 0x32 tx (statusBody reason ++ le 4 seq)

def execWaybillClear (sess : Fin 4) (role : Byte) (tx : Word) (body : List Byte) (s : State) :
    Host.Outcome State Fault Refusal :=
  .next (s.whenLive fun s => s.request sess role 0x32 tx.toNat .installer fun c s => s.waybillClear sess c tx.toNat body)

/-- A write of WAY_CTRL (R542). -/
def State.writeWayCtrl (s : State) (v : Nat) (w : Writer) : State × Reason :=
  let (s, r) := s.writeReg 0x40090000 v w
  (s.iff (bit 1 r.act) fun s =>
    { s with way := { s.way with folds := 0, lost := 0, retries := 0, partnerCount := 0 } }, r.reason)

/-- WAY_CNT_CLR (R542): a write of WAY_CTRL with CNT_CLR. -/
def execWayCntClr (value : Word) (w : Writer) (s : State) : Host.Outcome State Fault Refusal :=
  .next (s.whenLive fun s => (s.writeWayCtrl (value.toNat ||| 2) w).1)

/-- A register of the WAY block by its offset (Table 16.7). -/
def State.readWay (s : State) (o : Nat) : Nat :=
  let w := s.way
  match o with
  | 0x004 => flag (decide (32 < w.staging.length)) 0 + flag (decide (w.lossOpen ≠ 0)) 1 + flag w.storageFault 2
      + flag w.shrunk 3 + w.staging.length * 256 + w.peak * 65536
  | 0x008 => w.newest
  | 0x00C => w.oldest
  | 0x010 => w.capacity
  | 0x014 => w.clearSeq
  | 0x018 => w.clearCn % 4294967296
  | 0x01C => w.clearCn / 4294967296 % 256
  | 0x020 => w.folds
  | 0x024 => w.lost
  | 0x028 => w.lossOpen
  | 0x02C => w.retries
  | 0x030 => flags ((upFrom 0 32).map fun i => w.sectors.contains i) 0
  | 0x034 => w.partnerCount
  | _ => 0

end Sys2Proof.Machine
end

