-- ==== Sys2Proof/Machine/Adm.lean ====
section
/-! DEFINITION. Commands of admission (05): an ADMIT arrives, is decided, a promise reaches its deadlines, a rejoin ends. -/

namespace Sys2Proof.Machine

/-- The body and the level of an ADMIT hold (R200, second line). -/
def Admit.ask (q : Admit) : Option Ask :=
  match parseAdmit q.body with
  | some a => if a.payloadOk then some a else none
  | none => none

/-- An ADMIT arrives (R189, R200, R229, R231): the role octet, which the header check reads; then the kept answer or
REPLAY; then the queue of 64; then the right. Every answer given is kept. -/
def State.admitArrive (s : State) (i : Fin 4) (role : Byte) (deadline : Cn) (tx : Nat) (body : List Byte) : State :=
  match s.session i with
  | none => s
  | some c =>
    let q : Admit := { session := some i, tx := tx, deadline := deadline, body := body }
    let s := s.modSession i fun c => { c with lastMessage := s.cn }
    let s := if c.path = 3 then { s with fsp := { s.fsp with modem := { s.fsp.modem with lastRequest := s.cn } } } else s
    let d := admitDigest deadline body
    let no (s : State) (r : Reason) : State := s.respond i 0x12 tx (declineBody r s.cn 0)
    if roleOf role.toNat ≠ some c.role then (no s .notAuthorised).fspViolation i .notAuthorised 0x10 tx
    else
      match s.fsp.kept.find? fun k => decide (k.tx = tx) with
      | some k =>
        if k.digest ≠ d then (no s .replay).fspViolation i .replay 0x10 tx
        else
          match k.answer with
          | some (type, b) => s.respond i type tx b
          | none =>
            let again (a : Admit) : Admit := if a.tx = tx then { a with session := some i } else a
            { s with adm := { s.adm with queue := s.adm.queue.map again } }
      | none =>
        let keep (s : State) (r : Reason) : State :=
          { s with fsp := s.fsp.keep { tx := tx, digest := d, answer := some (0x12, declineBody r s.cn 0) } }
        let s := s.countUse i c fun c => { c with admits := satAdd 65535 c.admits 1 }
        if 64 ≤ s.adm.queue.length then no (keep s .busy) .busy
        else if !holdsRight .operator c.role then
          (no (keep s .notAuthorised) .notAuthorised).fspViolation i .notAuthorised 0x10 tx
        else { s with
          fsp := s.fsp.keep { tx := tx, digest := d }
          adm := { s.adm with queue := s.adm.queue ++ [q] } }

/-- ADMIT (R189). -/
def execAdmitArrive (sess : Fin 4) (role : Byte) (deadline : BitVec 40) (tx : Word) (body : List Byte) (s : State) :
    Host.Outcome State Fault Refusal :=
  .next (s.whenLive fun s => s.admitArrive sess role deadline.toNat tx.toNat body)

/-! The decision (R200). -/

/-- Preempt what a SAFETY LEVEL preempts at a target (R209). -/
def State.preempt (s : State) (short : Nat) : State :=
  let hit (t : Target) : Target := if t.short = short then { t with result := some .busy, preempted := true } else t
  let one (p : Promise) : Promise :=
    if p.cls ≠ .safety ∧ s.cn < p.promised then p.modOpen hit else p
  { s with adm := { s.adm with promises := s.adm.promises.map one } }

/-- SAFETY transactions still ahead in the queues of the groves targeted (R208). -/
def State.safetyAhead (s : State) (groves : List Nat) : Nat :=
  (rising ((s.rad.frames.filter fun h => decide (h.cell = .safety) && groves.contains h.grove).filterMap fun h => match h.load with
    | .promise id _ => some id
    | _ => none)).length

/-- The promise record of a transaction. -/
def State.promiseOf (s : State) (q : Admit) (a : Ask) (c : TxClass) (e lead : Cn) (l : List Judged2) : Promise :=
  { id := s.adm.nextId, tx := q.tx, cls := c, accepted := s.cn, promised := e, targets := targetsOf l
    isLevel := decide (a.kind = 0x05), level := ofLe (slice 0 2 a.payload)
    release := decide (a.kind = 0x05) && decide (oct 6 a.payload = 1), margin := e - s.cn - lead
    freeRun := 0, kind := a.kind, payload := a.payload, mode := a.mode, selector := a.selector }

/-- A SAFETY transaction (R206, R208): at the head of every targeted grove's queue. -/
def State.decideSafety (s : State) (q : Admit) (a : Ask) (l : List Judged2) : State :=
  let groves := grovesOf (goodOf l)
  let e := s.cn + 15 + 8 * s.safetyAhead groves
  let l := exclude .targetAbsent (fun x => match s.feederOf (s.euiAt x) with
    | some f => s.feederOpen f s.cn e
    | none => false) l
  let good := goodOf l
  if good = [] then s.decline q (commonReason l) 0
  else if !s.outcomeFits l.length then s.decline q .noCapacity 0
  else
    let p := s.promiseOf q a .safety e (e - s.cn) l
    ((s.givePromise q p).sendPromise a .safety p.id e good).safetyStrings a

/-- Nodes of a caravan's model that belong to its transaction: others are excluded with UNSUPPORTED (R522). -/
def State.judgeCaravan (s : State) (c : Caravan) (l : List Judged2) : List Judged2 :=
  exclude .unsupported (fun x => match s.nodeAt x with
    | some n => decide (n.model ≠ c.model)
    | none => true) l

/-- What the module knows of a node's holding of a caravan. -/
def Caravan.nodeOf (c : Caravan) (eui : Nat) : CarNode :=
  (c.nodes.find? fun n => decide (n.eui = eui)).getD { eui := eui }

/-- A CARAVAN_HELD record (R523, Table 16.4) for a holding node. -/
def State.heldRecord (s : State) (c : Caravan) (short : Nat) : Rec :=
  let n := c.nodeOf (s.euiAt short)
  s.happening 0x0422 0x63 .ok .nobody
    (le 4 c.id ++ le 2 short ++ le 2 n.held ++ le 2 c.count ++ le 1 (reasonCode n.reason) ++ [0])

/-- EVENT bodies of records, 32 at most in one (R246). -/
def eventBodies : Nat → List Rec → List (List Byte)
  | 0, _ => []
  | fuel + 1, l =>
    if l = [] then []
    else
      let now := l.take 32
      (le 1 now.length ++ [0, 0, 0] ++ (now.map Rec.octets).flatten) :: eventBodies fuel (l.drop 32)

/-- Estimate of the cycle by which every holding node will hold a caravan, plus 40 (R523). -/
def State.caravanEstimate (s : State) (c : Caravan) (lacking : List Nat) : Cn :=
  let lead (x : Nat) : Nat :=
    let missing := c.count - (c.nodeOf (s.euiAt x)).held
    slotCycles (1 + waits (s.pathTo x 7) (s.asn + 1) + 400 * (missing - 1) + 1202)
  s.cn + maxOf (lacking.map lead) + 40

/-- An ACTIVATE whose caravan not every target holds is declined, with an EVENT for each holding node (R523). -/
def State.declineCaravan (s : State) (q : Admit) (c : Caravan) (good lacking : List Nat) : State :=
  let s := s.decline q .busy (s.caravanEstimate c lacking)
  forEach (fun b s => s.push 0x30 b 0) (eventBodies (good.length + 1) (good.map (s.heldRecord c))) s

/-- The end of the procedure: the earliest fit, periods that block, contactors, the promise (R200). -/
def State.decideFit (s : State) (q : Admit) (a : Ask) (c : TxClass) (l : List Judged2) (car : Option Caravan) : State :=
  let good := goodOf l
  let lead := s.classLead a c good
  let d := q.deadline
  let id := s.adm.nextId
  let f := s.earliestFit a c id good d lead
  match f.found with
  | none => s.decline q f.binding 0
  | some (t, e) =>
    match s.blockedUntil c (grovesOf good) e with
    | some b => s.decline q .busy b
    | none =>
      if d ≠ 0 ∧ d < e then s.decline q f.binding e
      else
        let l := exclude .targetAbsent (fun x => match s.feederOf (s.euiAt x) with
          | some k => s.feederOpen k s.cn e
          | none => false) l
        let good := goodOf l
        if good = [] then s.decline q (commonReason l) 0
        else if !s.outcomeFits l.length then s.decline q .noCapacity 0
        else
          let p := { s.promiseOf q a c e lead l with
            caravan := car.map Caravan.id
            whole := decide (a.mode = 0) }
          let s := (t.givePromise q p).sendPromise a c id e good
          match car with
          | some k => (s.modCaravan k.id fun k => { k with state := .fixed, tx := id }).caravanPhase k.id 0x20
          | none => s

/-- The lines of the procedure from the lead on (R200), for every class but SAFETY. -/
def State.decideLead (s : State) (q : Admit) (a : Ask) (c : TxClass) (l : List Judged2) (car : Option Caravan) : State :=
  let d := q.deadline
  let late := decide (c = .syncLevel) && decide (d ≠ 0)
  let l := if late then exclude .tooLate (fun x => s.isResync x && decide (d < s.cn + 40 + 32 * s.advSpread)) l else l
  let good := goodOf l
  if good = [] then s.decline q (commonReason l) 0
  else
    let lead := s.classLead a c good
    if d ≠ 0 ∧ d < s.cn + lead then s.decline q .tooLate (s.cn + lead)
    else
      match car with
      | some k =>
        let lacking := good.filter fun x => !(k.nodeOf (s.euiAt x)).complete
        if lacking ≠ [] ∧ oct 4 a.payload = 0 then s.declineCaravan q k good lacking
        else s.decideFit q a c l car
      | none => s.decideFit q a c l none

/-- The lines of the procedure from the targets on (R200). -/
def State.decideTargets (s : State) (q : Admit) (a : Ask) (c : TxClass) (car : Option Caravan) : State :=
  let targets := s.resolve a
  let judged := targets.map fun x => (x, s.standing c (decide (a.kind = 0x05)) x)
  let l := match car with
    | some k => s.judgeCaravan k judged
    | none => judged
  let good := goodOf l
  if good = [] then s.decline q (commonReason l) 0
  else if (grovesOf good).any s.groveStopped then s.decline q .noCapacity 0
  else if c = .safety then s.decideSafety q a l
  else if s.time.provisional then s.decline q .busy 0
  else if s.adm.rejoin.isSome ∧ c ≠ .activate then s.decline q .noCapacity s.rejoinLimit
  else s.decideLead q a c l car

/-- The procedure of R200, in its order. -/
def State.decideAdmit (s : State) (q : Admit) : State :=
  match q.ask with
  | none => s.declineCounted q .malformed
  | some a =>
    match txClass a.cls with
    | none => s.decline q .unsupported 0
    | some c =>
      let car := if c = .activate then s.upd.findCaravan (ofLe (slice 0 4 a.payload)) else none
      if !a.combines c then s.decline q .unsupported 0
      else if c.names ∧ s.cn + 2 ^ 24 - 4096 < q.deadline then s.decline q .unsupported 0
      else if c = .activate ∧ (match car with
          | some (_, k) => decide (k.state = .ended)
          | none => true) = true then s.decline q .unsupported 0
      else if s.ford.safeHold then s.decline q .safeHold 0
      else if s.tampered then s.decline q .tampered 0
      else if s.sys.dorm.isSome then s.decline q .busy 0
      else s.decideTargets q a c (car.map Prod.snd)

/-- ADMIT_DECISION (R200): the engine takes the oldest ADMIT that waits. -/
def execAdmitDecision (s : State) : Host.Outcome State Fault Refusal :=
  .next (s.whenLive fun s =>
    match s.adm.queue with
    | [] => s
    | q :: rest => { s with adm := { s.adm with queue := rest } }.decideAdmit q)

/-! Deadlines. -/

/-- OUTCOME_DEADLINE (R210): at promised CN + 1,024 every target without a result is broken. -/
def execOutcomeDeadline (id : Word) (s : State) : Host.Outcome State Fault Refusal :=
  .next (s.whenLive fun s =>
    match s.adm.promises.find? fun p => decide (p.id = id.toNat) with
    | some p => s.iff (decide (p.outcomeBy ≤ s.cn)) fun s => s.outcome p.breakOpen
    | none => s)

/-- Send a QUERY about a promise to a target (R172, R210). -/
def State.query (s : State) (p : Promise) (short : Nat) : State :=
  match s.nodeAt short with
  | none => s
  | some n =>
    let payload := if p.isLevel then p.payload else List.replicate 8 0
    let body := levelBody p.id 0 payload (levelFlags p.cls payload + 8) (unicastSelector short)
    s.sendNode n .prompt 0x05 body .other 0

/-- QUERY_NO_ANSWER (R210): a QUERY without an answer is repeated once. -/
def execQueryNoAnswer (id : Word) (short : BitVec 16) (s : State) : Host.Outcome State Fault Refusal :=
  .next (s.whenLive fun s =>
    match s.adm.promises.find? fun p => decide (p.id = id.toNat) with
    | some p =>
      let due := p.targets.any fun t => decide (t.short = short.toNat) && t.result.isNone && decide (t.queries = 1)
      s.iff due fun s =>
        (s.modPromise p.id (Promise.modOpen fun t =>
          if t.short = short.toNat then { t with queries := 2, queryCn := s.cn } else t)).query p short.toNat
    | none => s)

/-- REJOIN_TIMEOUT (R215): 4,500 cycles after its latest start a rejoin ends. -/
def execRejoinTimeout (s : State) : Host.Outcome State Fault Refusal :=
  .next (s.whenLive fun s =>
    match s.adm.rejoin with
    | some r => s.iff (decide (r.start + 4500 ≤ s.cn)) State.endRejoin
    | none => s)

end Sys2Proof.Machine
end

