-- ==== Sys2Proof/Machine/Queues.lean ====
section
/-! DEFINITION. Hardware queues: pushes, reads, parity, felled rows, watermarks and flow control (R404-R412,
R428). A read and a push of one fabric cycle are two commands, the read first (log 19). -/

namespace Sys2Proof.Machine

/-- Even parity over 64 data bits (R408). -/
def parity64 : Nat → Nat → Bool
  | 0, _ => false
  | n + 1, x => xor (decide (x % 2 = 1)) (parity64 n (x / 2))

/-- A queue used by the canopy. -/
def State.queue (s : State) (q : Nat) : Option QueueSt :=
  tget q s.que.queues

/-- Change a queue. -/
def State.setQueue (s : State) (q : Nat) (c : QueueSt) : State :=
  { s with que := { s.que with queues := tput q c s.que.queues } }

/-- A queue's source fires with a kind and the fill (R414). -/
def State.postQueue (s : State) (q kind : Nat) : State :=
  match s.queue q with
  | some c => s.post (896 + q) kind (c.words.length % 131072)
  | none => s

/-- ABOVE follows the fill at its watermarks, and the source fires HIGH or LOW (R410). -/
def State.watermark (s : State) (q : Nat) : State :=
  match s.queue q with
  | none => s
  | some c =>
    if !c.above && decide (c.high ≤ c.words.length) then
      (s.setQueue q { c with above := true }).postQueue q 1
    else if c.above && decide (c.words.length ≤ c.low) then
      (s.setQueue q { c with above := false }).postQueue q 2
    else s

/-- An FC pin is asserted while ABOVE of its queue is set and its record sets FC_EN (R411). -/
def State.fcAsserted (s : State) (n : Nat) : Bool :=
  match s.queue n with
  | some c => decide (n < 8) && c.fcEn && c.above
  | none => false

/-- The level of an FC pin: bit n of QUE_FC_POL makes it active low (R411). -/
def State.fcHigh (s : State) (n : Nat) : Bool :=
  xor (s.fcAsserted n) (bit n (s.reg 0x40040008))

/-- MODEM_RTS is deasserted while Q000 is ABOVE (R412). -/
def State.modemRts (s : State) : Bool :=
  match s.queue 0 with
  | some c => !c.above
  | none => true

/-- A word is pushed (R404, R406, R407): accepted below the depth, else refused with OVERRUN. An unused
queue refuses it without a trace. -/
def State.pushWord (s : State) (q : Nat) (w : QWord) : State :=
  match s.queue q with
  | none => s
  | some c =>
    if c.words.length < c.depth then
      let c := { c with words := c.words ++ [w], peak := max c.peak (c.words.length + 1) }
      (s.setQueue q c).watermark q
    else
      let s := s.setQueue q { c with overrun := true, ovrCount := bump c.ovrCount }
      s.iff (!c.overrun) fun s => s.postQueue q 3

/-- QUEUE_PUSH (R406): 64 data bits and the parity bit the producer's port computed. -/
def execQueuePush (q : Fin 128) (data : BitVec 64) (parity : Bool) (s : State) : Host.Outcome State Fault Refusal :=
  .next (s.whenLive fun s => s.pushWord q.val { data := data.toNat, parity := parity })

/-- The first SRAM word of a queue: used queues lie in ascending index from word 0 (R404). -/
def State.queueBase (s : State) (q : Nat) : Nat :=
  ((s.que.queues.filter fun p => decide (p.1 < q)).map fun p => p.2.depth).sum

/-- The row of 1,024 words that holds a queue's head (R404). -/
def State.headRow (s : State) (q : Nat) : Nat :=
  match s.queue q with
  | some c => (s.queueBase q + c.head) / 1024
  | none => 0

/-- A row delivered a poisoned word and is felled where a spare is free (R409). -/
def State.fellRow (s : State) (q row : Nat) : State :=
  if s.que.felled.length < 32 && !(s.que.felled.contains (row, false)) then
    let s := { s with que := { s.que with felled := s.que.felled ++ [(row, false)] } }
    let s := s.record (896 + q) 0x49 .ok (le 1 5 ++ [0] ++ le 4 (unitPayload 3 row))
    let s := s.postQueue q 5
    if s.que.felled.length = 32 then
      ({ s with que := { s.que with thin := true } }).raiseThin 3
    else s
  else s

/-- The head word leaves its queue (R405). -/
def QueueSt.pop (c : QueueSt) : QueueSt :=
  { c with words := c.words.drop 1, head := (c.head + 1) % max 1 c.depth }

/-- A read of a queue whose parity check fails once or twice (R408, R409). An empty queue answers EMPTY. -/
def State.readWord' (s : State) (q : Nat) (disturb1 disturb2 : Bool) : State :=
  match s.queue q with
  | none => s
  | some c =>
    match c.words with
    | [] => s
    | w :: _ =>
      let bad := xor (parity64 64 w.data) w.parity
      let fail1 := xor bad disturb1
      let fail2 := xor bad disturb2
      let row := s.headRow q
      if !fail1 then (s.setQueue q c.pop).watermark q
      else if !fail2 then
        let s := { s with que := { s.que with transient := bump s.que.transient } }
        (s.setQueue q c.pop).watermark q
      else
        let s := { s with que := { s.que with poison := bump s.que.poison } }
        let s := s.setQueue q { c.pop with poisoned := true }
        let s := (s.postQueue q 4).watermark q
        s.fellRow q row

/-- QUEUE_READ (R408): a disturbance of the first or second reading flips its parity check. -/
def execQueueRead (q : Fin 128) (disturb1 disturb2 : Bool) (s : State) : Host.Outcome State Fault Refusal :=
  .next (s.whenLive fun s => s.readWord' q.val disturb1 disturb2)

/-- ROW_COPY_DONE (R409): the row's addresses move to the spare. -/
def execRowCopyDone (row : Fin 544) (s : State) : Host.Outcome State Fault Refusal :=
  .next (s.whenLive fun s =>
    { s with que := { s.que with felled := s.que.felled.map fun p => if p = (row.val, false) then (row.val, true) else p } })

/-- Clear the queue counters (R428). -/
def QueSt.clearCounts (q : QueSt) : QueSt :=
  { q with transient := 0, poison := 0, queues := q.queues.map fun p => (p.1, { p.2 with ovrCount := 0 }) }

/-- A write of QUE_CTRL (R428). -/
def State.writeQueCtrl (s : State) (v : Nat) (w : Writer) : State × Reason :=
  let (s, r) := s.writeReg 0x40040000 v w
  (s.iff (bit 1 r.act) fun s => { s with que := s.que.clearCounts }, r.reason)

/-- QUE_CNT_CLR (R428): a write of QUE_CTRL with CNT_CLR. -/
def execQueCntClr (value : Word) (w : Writer) (s : State) : Host.Outcome State Fault Refusal :=
  .next (s.whenLive fun s => (s.writeQueCtrl (value.toNat ||| 2) w).1)

/-- A write of QUE_Qq_PEAK: RESTART takes the current fill (Table 11.9). -/
def State.writePeak (s : State) (q v : Nat) : State :=
  match s.queue q with
  | some c => if bit 31 v then s.setQueue q { c with peak := c.words.length } else s
  | none => s

/-- QUEUE_PEAK_RESTART (R428). -/
def execQueuePeakRestart (q : Fin 128) (value : Word) (s : State) : Host.Outcome State Fault Refusal :=
  .next (s.whenLive fun s => s.writePeak q.val (value.toNat ||| 0x80000000))

/-- A write of QUE_Qq_STATUS: OVERRUN and POISONED are cleared by ones (Table 11.10, R407). -/
def State.writeQueStatus (s : State) (q v : Nat) : State :=
  match s.queue q with
  | some c => s.setQueue q { c with overrun := c.overrun && !bit 8 v, poisoned := c.poisoned && !bit 9 v }
  | none => s

/-- A queue's fill. -/
def State.fillOf (s : State) (q : Nat) : Nat :=
  match s.queue q with
  | some c => c.words.length
  | none => 0

/-- QUE_Qq_STATUS (Table 11.10). -/
def queStatus (c : Option QueueSt) : Nat :=
  match c with
  | none => 1
  | some c => flag (decide (c.words.length = 0)) 0 + flag (decide (c.words.length = c.depth)) 1 + flag c.above 2
      + flag c.overrun 8 + flag c.poisoned 9

/-- The word a peek selects (R428): queue and offset of QUE_PEEK_SEL. -/
def State.peek (s : State) : Option QWord :=
  let sel := s.reg 0x40040040
  match s.queue (field 6 0 sel) with
  | some c => c.words[field 31 16 sel]?
  | none => none

/-- A register of the QUE block by its offset (Table 11.9). -/
def State.readQue (s : State) (o : Nat) : Nat :=
  let bits (p : QueueSt → Bool) (i : Nat) : Nat :=
    flags ((upFrom (32 * i) 32).map fun q => match s.queue q with | some c => p c | none => false) 0
  if o = 0x004 then (32 - s.que.felled.length) + flag s.que.thin 8 + flags ((upFrom 0 8).map s.fcAsserted) 16
  else if o = 0x00C then s.que.transient
  else if o = 0x010 then s.que.poison
  else if o = 0x014 then s.que.felled.length
  else if 0x020 ≤ o ∧ o < 0x030 then bits QueueSt.overrun ((o - 0x020) / 4)
  else if 0x030 ≤ o ∧ o < 0x040 then bits QueueSt.above ((o - 0x030) / 4)
  else if o = 0x044 then (match s.peek with | some w => w.data % 4294967296 | none => 0)
  else if o = 0x048 then (match s.peek with | some w => w.data / 4294967296 | none => 0)
  else if o = 0x04C then
    (match s.peek with | some w => 1 + flag (xor (parity64 64 w.data) w.parity) 1 | none => 0)
  else if 0x400 ≤ o ∧ o < 0x1400 then
    let c := s.queue ((o - 0x400) / 0x20)
    match (o - 0x400) % 0x20, c with
    | 0x00, some c => c.depth + flag c.fcEn 24 + flag true 25
    | 0x04, some c => c.producer + c.consumer * 65536
    | 0x08, some c => c.high
    | 0x0C, some c => c.low
    | 0x10, some c => c.words.length
    | 0x14, c => queStatus c
    | 0x18, some c => c.peak
    | 0x1C, some c => c.ovrCount
    | _, _ => 0
  else s.reg (0x40040000 + o)

end Sys2Proof.Machine
end

