-- ==== Sys2Proof/Machine/Air.lean ====
section
/-! DEFINITION. Commands of the air schedule (03): received frames, the ledger, duty bins, transceivers. -/

namespace Sys2Proof.Machine

/-- DUTY_BIN_ROLL (R95): the bin of 60 s closes, a new one opens, and the oldest of 60 leaves the sum. -/
def execDutyBinRoll (s : State) : Host.Outcome State Fault Refusal :=
  .next (s.whenLive fun s =>
    { s with rad := { s.rad with duty := s.rad.duty.map fun p => (p.1, (0 :: p.2).take 60) } })

/-- The receive queue of a grove: the used queue whose producer is its MAC tile (R123, R386). -/
def State.rxQueue (s : State) (g : Nat) : Option Nat :=
  match s.can.slotOf .mac g with
  | some n => (s.que.queues.find? fun p => decide (field 15 12 p.2.producer = 0) && decide (field 7 0 p.2.producer = n)).map Prod.fst
  | none => none

/-- The receive queue of a grove is full. -/
def State.rxFull (s : State) (g : Nat) : Bool :=
  match s.rxQueue g with
  | some q => match s.queue q with
    | some c => decide (c.depth ≤ c.words.length)
    | none => false
  | none => false

/-- An accepted frame is pushed for the engines: the spec gives no layout of its words (log 12). -/
def State.queueFrame (s : State) (g : Nat) : State :=
  match s.rxQueue g with
  | some q =>
    let (v, s) := s.drawNat
    let d := v % 2 ^ 64
    (s.pushWord q { data := d, parity := parity64 64 d }).postTile .mac g 0 1 0
  | none => s.postTile .mac g 0 1 0

/-- The module has a frame queued for a neighbour (R113). -/
def State.pendingFor (s : State) (g short : Nat) : Bool :=
  s.rad.frames.any fun h => decide (h.grove = g) && decide (h.dest = short) && !h.awaiting && decide (h.cell = .bulk)

/-- Answer a unicast frame with an enhanced ACK (R96, R113, R121, R123): it draws on the reserve, and is
withheld where the budget or SAFE HOLD forbids it. -/
def State.sendAck (s : State) (g t : Nat) (f : RxFrame) (nack : Bool) : State :=
  if !f.wantsAck || decide (f.dest ≠ 0) || s.ford.safeHold then s
  else
    let stage := if s.asn % 16 = 9 ∨ s.asn % 4 = 3 then 0 else if Config.bulkJ1 g f.source then 2 else 1
    let band := s.rad.profile.bandOf (s.channel s.asn (s.offsetOf g stage))
    let air := s.trxAirtime t (if (ctrlMode (s.trxCtrl t)).1 = 6 then 21 else 23)
    if s.dutyFits t band air true then
      let pending := s.pendingFor g f.source
      let s := s.addDuty t band air
      let s := s.emit (.ack g f.source pending nack f.correction)
      let s := if pending then { s with rad := { s.rad with reversed := f.source :: s.rad.reversed } } else s
      if nack then s.modTrx t fun x => { x with nack := bump x.nack } else s
    else s.modTrx t fun x => { x with dutySkip := bump x.dutySkip }

/-- The last-heard CN of a node's entry (R124); hearing from a node ends its RESYNC (R128). -/
def State.hear (s : State) (short : Nat) : State :=
  s.modEntry short fun e => { e with heard := s.cn, resync := false }

/-- A lantern link header the module cannot take (Table 4.13): a violation of the originator, and a NAK where the frame
came by unicast. -/
def State.linkFault (s : State) (g : Nat) (f : RxFrame) : State :=
  let answer (type seq : Nat) (r : Reason) : State :=
    (if f.dest = 0 then s.nak f.originator type seq r 0 else s).radViolation g f.originator type r
  match f.link with
  | .good => s
  | .malformed type seq => answer type seq .malformed
  | .unknown type seq => answer type seq .unsupported

/-- A frame the ledger accepts (R123, R124): the window moves only when the queue takes the frame. -/
def State.acceptFrame (s : State) (g t : Nat) (f : RxFrame) (e : Entry) : State :=
  if s.rxFull g then
    let s := match s.rxQueue g with
      | some q => s.pushWord q { data := 0, parity := false }
      | none => s
    s.sendAck g t f true
  else
    let s := (s.putEntry f.source e).hear f.source
    let s := if f.originator = f.source then s else s.hear f.originator
    let s := (s.modTrx t fun x => { x with rxOk := bump x.rxOk }).nodeHeard f.originator
    let s := (s.queueFrame g).sendAck g t f false
    (if f.scheduled then s else s.radViolation g f.source 0 .ok).linkFault g f

/-- The filter of Table 3.9 on any other frame: accepted, dropped and counted, or dropped silently. -/
inductive Filtered where
  | pass (e : Entry)
  | counted
  | silent
  deriving DecidableEq, Repr

def State.filter (s : State) (g : Nat) (f : RxFrame) : Filtered :=
  match (if shortGrove f.source = g then s.entry f.source else none) with
  | none => .counted
  | some e =>
    match e.state with
    | .free => .counted
    | .active => if f.pan = s.reg 0x40070008 ∧ (f.dest = 0 ∨ f.dest = 0xFFFF) then .pass e else .counted
    | _ => .silent

def State.countFiltered (s : State) (t : Nat) : State :=
  s.modTrx t fun x => { x with filtered := bump x.filtered }

/-- A data frame (R122 to R126, Table 3.10). -/
def State.dataFrame (s : State) (g t : Nat) (f : RxFrame) : State :=
  if !f.wellFormed then s.radViolation g f.source 0 .malformed
  else
    match s.filter g f with
    | .counted => s.countFiltered t
    | .silent => s
    | .pass e =>
      if s.trxCap t < f.psdu then s.radViolation g f.source 0 .malformed
      else if !f.mic then
        ((s.modTrx t fun x => { x with micFail := bump x.micFail }).postTile .linkCrypto 0 0 1 0).radViolation g f.source 0 .notAuthorised
      else
        match judgeFrame s.key.generation e f.keyIndex f.counter with
        | .accept e => s.acceptFrame g t f e
        | .duplicate => (s.modTrx t fun x => { x with dup := bump x.dup }).sendAck g t f false
        | .replay => (s.modTrx t fun x => { x with replay := bump x.replay }).radViolation g f.source 0 .replay
        | .older => s

/-- What an acknowledgement means for what the frame carried (R155, R159). -/
def State.delivered (s : State) (load : Load) : State :=
  match load with
  | .item eui id last =>
    if last then
      s.modNode eui fun n => { n with items := n.items.map fun i => if i.id = id then { i with acked := true } else i }
    else s
  | .grant eui => s.modNode eui fun n => { n with generation := s.key.generation }
  | .regrant eui =>
    s.modNode eui fun n => { n with
      regranted := true
      generation := match s.key.rotation with
        | some r => r.generation
        | none => n.generation }
  | .promise id (some (eui, item, true)) =>
    let s := s.modNode eui fun n => { n with items := n.items.map fun i => if i.id = item then { i with acked := true } else i }
    let short := (s.nodeOf eui).elim 0 NodeRec.short
    s.modPromise id (Promise.modOpen fun t => if t.short = short then { t with served := true } else t)
  | _ => s

/-- An enhanced ACK of a unicast frame the module sent: the frame is done, or with NACK is sent again (R108, R123). -/
def State.ackFrame (s : State) (g source : Nat) (nack : Bool) : State :=
  match s.rad.frames.findIdx? fun h => decide (h.grove = g) && decide (h.dest = source) && h.awaiting with
  | some i =>
    match s.rad.frames[i]? with
    | some h => if nack then s else ({ s with rad := { s.rad with frames := s.rad.frames.eraseIdx i } }).delivered h.load
    | none => s
  | none => s

/-- A joiner acknowledges its grant (R153). -/
def State.ackJoin (s : State) (g eui : Nat) : State :=
  match s.rad.frames.findIdx? fun h => decide (h.grove = g) && decide (h.joiner = eui) && h.awaiting
      && (match h.cell with | .join _ => true | _ => false) with
  | some i =>
    match s.rad.frames[i]? with
    | some h => ({ s with rad := { s.rad with frames := s.rad.frames.eraseIdx i } }).delivered h.load
    | none => s
  | none => s

/-- A frame arrives on a grove's transceiver (R122, R493). -/
def State.frameReceived (s : State) (g : Nat) (f : RxFrame) : State :=
  match s.trxOf g with
  | none => s
  | some t =>
    if s.tampered || !s.trxRuns t || !f.fcs then s
    else
      match f.kind with
      | .beacon => s
      | .joinReq _ =>
        if f.pan = s.reg 0x40070008 ∧ f.dest = 0 ∧ s.joinCellAt s.asn = true then
          if s.admitsJoins g then (s.modTrx t fun x => { x with rxOk := bump x.rxOk }).postTile .mac g 4 1 0 else s
        else s.countFiltered t
      | .joinAck eui => s.ackJoin g eui
      | .ack _ nack => if f.mic then s.ackFrame g f.source nack else s
      | .data => s.dataFrame g t f

/-- FRAME_RECEIVED (R122). -/
def execFrameReceived (grove : Fin 8) (frame : RxFrame) (s : State) : Host.Outcome State Fault Refusal :=
  .next (s.whenLive fun s => s.iff (!s.sliced (s.can.slotOf .linkCrypto grove.val)) fun s => s.frameReceived grove.val frame)

/-- LEDGER_UNMUTE (R126): 1,000 cycles after it was muted, an entry is ACTIVE again. -/
def execLedgerUnmute (place : Fin 4096) (s : State) : Host.Outcome State Fault Refusal :=
  .next (s.whenLive fun s =>
    match tget place.val s.rad.ledger with
    | some e => match e.muteEnd with
      | some m => s.iff (decide (e.state = .muted) && decide (m ≤ s.cn)) fun s =>
          { s with rad := { s.rad with ledger := tput place.val { e with state := .active, muteEnd := none } s.rad.ledger } }
      | none => s
    | none => s)

/-! Transceivers. -/

/-- TRX8 can take a grove over: in service, serving none and asked for none. -/
def State.trx8Free (s : State) : Bool :=
  !(s.trx 8).failed && !(s.trx 8).underTest && s.rad.serving.isNone && s.rad.takeover.isNone

/-- TRX8 hands a grove back to its own transceiver, where that one is in service. -/
def State.handBack (s : State) : State :=
  match s.rad.serving with
  | some t =>
    if (s.trx t).failed || (s.trx t).underTest then s
    else
      let (a, b) := (s.trxState t, s.trxState 8)
      let s := { s with rad := { s.rad with serving := none } }
      (s.trxChanged t a).trxChanged 8 b
  | none => s

/-- A write of RAD_TRX8_CTRL (R92, Table 3.13); GO with no TARGET ends a takeover (log 135). -/
def State.writeTrx8 (s : State) (v : Nat) (w : Writer) : State × Reason :=
  let (s, r) := s.writeReg 0x40070030 v w
  let t := field 3 0 r.new
  if bit 8 r.act && decide (t < 8) && s.trx8Free then ({ s.endTest with rad := { s.rad with takeover := some t } }, r.reason)
  else if bit 8 r.act && decide (t = 15) then (s.handBack, r.reason)
  else (s, r.reason)

def execTrx8Takeover (value : Word) (w : Writer) (s : State) : Host.Outcome State Fault Refusal :=
  .next (s.whenLive fun s => (s.writeTrx8 value.toNat w).1)

/-- The grove of a failed transceiver finds no other (R93): it is stopped, and each of its nodes is recorded (worked
example of Table 16.5). -/
def State.stopGrove (s : State) (t : Nat) : State :=
  let g := s.trxGrove t
  let s := { s with rad := { s.rad with thin := true } }
  let s := (s.post 816 1 0).markRadioLoss g
  forEach (fun n s => if n.grove = g then s.recordNode g n.short (linkStateCode n.state) 0 0 .ok else s) s.node.nodes s

/-- The slice that TRX8 carries, if any. -/
def State.trxSlice (s : State) : Option Slice :=
  s.cop.slices.find? fun x => decide (x.unit.kind = 2)

/-- A transceiver that served fails (R92, R93, R463). -/
def State.replaceTrx (s : State) (t : Nat) : State :=
  if s.trx8Free then { s.endTest with rad := { s.rad with takeover := some t } }
  else
    match s.trxSlice with
    | some x =>
      if x.unit.index < 8 ∧ x.unit.index ≠ t ∧ (s.trx 8).failed = false then
        let s := s.cutSlice 4 x
        { s with rad := { s.rad with serving := none, takeover := some t } }
      else s.stopGrove t
    | none => s.stopGrove t

/-- TRX8 fails (R93, R463): a transceiver under test takes its grove back; a failed one's grove stops. -/
def State.loseTrx8 (s : State) : State :=
  match s.rad.serving with
  | none => { s with rad := { s.rad with takeover := none } }
  | some t =>
    let s := s.cutSlices 4 fun x => decide (x.unit.kind = 2)
    let s := { s with rad := { s.rad with serving := none, takeover := none } }
    if (s.trx t).failed then s.stopGrove t else s

/-- TRANSCEIVER_FAULT (R92, R93, R463, R609): the unit is felled and recorded. -/
def State.trxFault (s : State) (t : Nat) : State :=
  if (s.trx t).failed then s
  else
    let old := s.trxState t
    let serves := decide (t < 8) && s.trxServes t && decide (s.rad.serving ≠ some t)
    let s := s.cutSlices 4 fun x => decide (x.unit = unitOf .a 2 t)
    let s := s.modTrx t fun x => { x with failed := true, underTest := false }
    let s := s.recordEvent (817 + t) 0x49 1 (unitPayload 2 t) .ok
    let s := (s.fell (unitOf .a 2 t)).trxChanged t old
    if t = 8 then s.loseTrx8.endTest else if serves then s.replaceTrx t else s

def execTransceiverFault (t : Fin 9) (s : State) : Host.Outcome State Fault Refusal :=
  .next (s.whenLive fun s => s.trxFault t.val)

/-- Clear a transceiver's counters (R130). -/
def TrxSt.clear (x : TrxSt) : TrxSt :=
  { failed := x.failed, underTest := x.underTest, modeRefused := x.modeRefused }

/-- A write of RAD_CTRL (Table 3.13): EN, and CNT_CLR. -/
def State.writeRadCtrl (s : State) (v : Nat) (w : Writer) : State × Reason :=
  let old := (upFrom 0 9).map s.trxState
  let (s, r) := s.writeReg 0x40070000 v w
  let s := if bit 1 r.act then { s with rad := { s.rad with trxs := s.rad.trxs.map TrxSt.clear } } else s
  (forEach (fun p s => s.trxChanged p.1 p.2) ((upFrom 0 9).zip old) s, r.reason)

/-- RAD_CNT_CLR (R130). -/
def execRadCntClr (value : Word) (w : Writer) (s : State) : Host.Outcome State Fault Refusal :=
  .next (s.whenLive fun s => (s.writeRadCtrl value.toNat w).1)

/-- The word a write of RAD_TRXt_CTRL stores, with the mode kept where R103 refuses the one written. -/
def trxWord (nominal old v : Nat) : Nat × Bool :=
  if psduCap (ctrlMode v) nominal < 100 then (merge 0x001F0F00 v old, true) else (v, false)

/-- A write of RAD_TRXt_CTRL (R103, Table 3.14). A mode above the coded ones is out of range (R605). -/
def State.writeTrx (s : State) (t v : Nat) (w : Writer) : State × Reason :=
  let a := 0x40070100 + 0x40 * t
  let old := s.trxState t
  let was := s.reg a
  if 6 < field 11 8 v ∨ 6 < field 20 18 v then
    let (s, r) := s.writeReg a v w
    (s, r.reason)
  else
    let (word, refused) := trxWord s.time.nominal was v
    let (s, r) := s.writeReg a word w
    let s := s.modTrx t fun x => { x with modeRefused := refused }
    (s.trxChanged t old, r.reason)

/-- TRX_CTRL_WRITE (R103). -/
def execTrxCtrlWrite (t : Fin 9) (value : Word) (w : Writer) (s : State) : Host.Outcome State Fault Refusal :=
  .next (s.whenLive fun s => (s.writeTrx t.val value.toNat w).1)

/-- A write of RAD_SAFEIE_CTRL (R120). -/
def State.writeSafeIe (s : State) (v : Nat) (w : Writer) : State × Reason :=
  let (s, r) := s.writeReg 0x40070038 v w
  if r.reason = .ok ∧ bit 31 v = true then ({ s with rad := { s.rad with safeCn := s.cn + 1 } }, r.reason) else (s, r.reason)

def execSafeieWrite (value : Word) (w : Writer) (s : State) : Host.Outcome State Fault Refusal :=
  .next (s.whenLive fun s => (s.writeSafeIe value.toNat w).1)

/-! The ledger registers (Table 3.13). -/

/-- The place RAD_LDG_SEL selects. -/
def State.ldgSel (s : State) : Nat :=
  let w := s.reg 0x40070400
  512 * field 18 16 w + field 8 0 w

def entryStateCode : EntryState → Nat
  | .free => 0
  | .active => 1
  | .muted => 2
  | .excluded => 3

/-- RAD_LDG_ATTR of an entry (Table 3.16), its RO bits left out. -/
def Entry.attr (e : Entry) : Nat :=
  e.short % 65536 + e.keyIndex % 256 * 65536 + entryStateCode e.state * 16777216

/-- The selected entry; a place that was never written is FREE. -/
def State.ldgEntry (s : State) : Entry :=
  (tget s.ldgSel s.rad.ledger).getD {}

/-- LEDGER_READ: the selected entry is loaded. -/
def State.ledgerRead (s : State) : State :=
  let e := s.ldgEntry
  let s := (s.setReg 0x40070404 (e.eui % 4294967296)).setReg 0x40070408 (e.eui / 4294967296 % 4294967296)
  let s := (s.setReg 0x4007040C e.attr).setReg 0x40070424 (twos 16 e.drift)
  { s with rad := { s.rad with ldg := e } }

def execLedgerRead (s : State) : Host.Outcome State Fault Refusal :=
  .next (s.whenLive State.ledgerRead)

/-- LEDGER_WRITE: EUI, ATTR and DRIFT are stored, and H and W emptied; MUTED is read only. -/
def State.ledgerWrite (s : State) : State :=
  let a := s.reg 0x4007040C
  let e := s.ldgEntry
  let e := { e with
    eui := s.reg 0x40070404 + s.reg 0x40070408 * 4294967296
    short := field 15 0 a, keyIndex := field 23 16 a, h := 0, w := 0, fresh := true
    drift := ofTwos 16 (s.reg 0x40070424)
    state := match field 26 24 a with
      | 0 => .free
      | 1 => .active
      | 3 => .excluded
      | _ => e.state }
  { s with rad := { s.rad with ledger := tput s.ldgSel e s.rad.ledger } }

def execLedgerWrite (s : State) : Host.Outcome State Fault Refusal :=
  .next (s.whenLive State.ledgerWrite)

/-- LEDGER_CLEAR: the entry is FREE. -/
def State.ledgerClear (s : State) : State :=
  { s with rad := { s.rad with ledger := tput s.ldgSel { s.ldgEntry with state := .free } s.rad.ledger } }

def execLedgerClear (s : State) : Host.Outcome State Fault Refusal :=
  .next (s.whenLive State.ledgerClear)

/-- A counter of a transceiver by its offset (Table 3.13). -/
def TrxSt.counter (x : TrxSt) (o : Nat) : Nat :=
  lget 0 ((o - 0x0C) / 4) [x.rxOk, x.dup, x.replay, x.micFail, x.filtered, x.nack, x.dutySkip, x.lbtBusy, x.held,
    x.txFail, x.viol, x.ebTx]

/-- RAD_TRXt_STATUS (Table 3.15). -/
def State.trxStatus (s : State) (t : Nat) : Nat :=
  s.trxState t + flag (s.trx t).modeRefused 4 + s.carrier t * 256

/-- RAD_TRXt_CAP (Table 3.13). -/
def State.trxCapWord (s : State) (t : Nat) : Nat :=
  let m := ctrlMode (s.trxCtrl t)
  s.trxCap t % 65536 + largestPsdu m (maxTx m s.time.slotLen) % 65536 * 65536

/-- A register of the RAD block by its offset (Table 3.13). -/
def State.readRad (s : State) (o : Nat) : Nat :=
  let sel := s.reg 0x40070040
  let t := field 3 0 sel
  let band := field 10 8 sel
  if o = 0x004 then
    flags ((upFrom 0 9).map fun t => decide (s.trxState t = 1)) 0
      + flags ((upFrom 0 9).map fun t => decide (s.trxState t = 4)) 16
      + flag (s.rad.thin || lget false 2 s.cop.thin) 28 + flag s.ford.safeHold 29 + flag s.adm.rejoin.isSome 30
  else if o = 0x00C then s.rad.eui % 4294967296
  else if o = 0x010 then s.rad.eui / 4294967296 % 4294967296
  else if o = 0x034 then
    s.rad.serving.getD 15 + flag (s.rad.serving.isSome || s.rad.takeover.isSome) 8 + flag (s.trx 8).failed 9
  else if o = 0x044 then s.dutyUsed t band / 3000
  else if o = 0x048 then
    let b := s.rad.profile.band band
    if b.lbt then 0xFFFFFFFF else b.duty
  else if o = 0x04C then
    s.rad.profile.id + s.channels % 256 * 256 + flag s.rad.profile.lbt 16 + flag s.rad.profile.hopping 17
  else if 0x100 ≤ o ∧ o < 0x340 then
    let t := (o - 0x100) / 0x40
    let r := (o - 0x100) % 0x40
    if r = 0 then s.trxCtrl t + (if t < 8 then t / 2 * 16 else (s.rad.serving.getD 0) / 2 * 16)
    else if r = 4 then s.trxStatus t
    else if r = 8 then s.trxCapWord t
    else if r ≤ 0x38 then (s.trx t).counter r
    else 0
  else if o = 0x40C then s.reg 0x4007040C + flag s.rad.ldg.resync 28
  else if o = 0x410 then s.rad.ldg.h
  else if o = 0x414 then s.rad.ldg.w % 4294967296
  else if o = 0x418 then s.rad.ldg.w / 4294967296 % 4294967296
  else if o = 0x41C then s.rad.ldg.heard % 4294967296
  else if o = 0x420 then s.rad.ldg.heard / 4294967296 % 256
  else if o = 0x424 then s.reg 0x40070424 + s.guard_ s.rad.ldg % 65536 * 65536
  else if o = 0x428 then 0
  else s.reg (0x40070000 + o)

end Sys2Proof.Machine
end

