-- ==== Sys2Proof/Machine/Dim.lean ====
section
/-! DEFINITION. Commands of dimming (07): contactor feedback, learning bins, retuning, waves of local string groups. -/

namespace Sys2Proof.Machine

/-! Contactors (Table 7.7). -/

/-- KC_FEEDBACK_CHANGE (R280): a feedback input changes. -/
def execKcFeedbackChange (k : Fin 4) (level : Bool) (s : State) : Host.Outcome State Fault Refusal :=
  .next (s.whenLive fun s =>
    let s := { s with fld := { s.fld with kcFb := lset k.val level s.fld.kcFb } }
    (s.post (888 + k.val) 1 (flag level 0)).kcFeedback k.val)

/-- The feedback time of a contactor has ended while it waits for its feedback. -/
def State.kcTimeOver (s : State) (k : Nat) : Bool :=
  let c := s.kc k
  !s.kcHeld && !c.pulse && decide (c.since + s.kcFeedbackTime k ≤ s.cn)

/-- A retry begins: the drive is reversed for 10 cycles (Table 7.7). -/
def State.kcRetry (s : State) (k : Nat) (st : KcState) : State :=
  s.modKc k fun c => { c with state := st, drive := !c.plan, pulse := true, since := s.cn }

/-- The retry failed as well: CONTACTOR_FAULT (Table 7.7). -/
def State.kcFault (s : State) (k : Nat) : State :=
  let s := s.modKc k fun c => { c with state := .fault, pulse := false }
  (s.postTile .dimmingAction 0 1 1 0).recordKc k false

/-- CONTACTOR_FEEDBACK_TIMEOUT (R280). -/
def execContactorFeedbackTimeout (k : Fin 4) (s : State) : Host.Outcome State Fault Refusal :=
  .next (s.whenLive fun s =>
    if !s.kcTimeOver k.val then s
    else
      match (s.kc k.val).state with
      | .closing => if s.kcNoFeedback k.val then s.kcSettle k.val true false else s.kcRetry k.val .retryClose
      | .opening => if s.kcNoFeedback k.val then s.kcSettle k.val false false else s.kcRetry k.val .retryOpen
      | .retryClose => s.kcFault k.val
      | .retryOpen => s.kcFault k.val
      | _ => s)

/-- CONTACTOR_RETRY_PULSE_END (R280): the drive returns to the plan and the feedback time starts again. -/
def execContactorRetryPulseEnd (k : Fin 4) (s : State) : Host.Outcome State Fault Refusal :=
  .next (s.whenLive fun s =>
    let c := s.kc k.val
    if c.pulse && !s.kcHeld && decide (c.since + 10 ≤ s.cn) then
      (s.modKc k.val fun c => { c with drive := c.plan, pulse := false, since := s.cn }).kcFeedback k.val
    else s)

/-! Learning and retuning (R291, R292). -/

/-- The learning bin a CN falls in (R291): day number, bin, day type. -/
def State.binAt (s : State) (cn : Cn) : Option (Nat × Nat × Nat) :=
  match s.calendar with
  | none => none
  | some c =>
    let d := ({ s with cn := cn } : State).dayNow c
    let start := s.scheduleCn (dayStart c d)
    some (d, min 47 ((cn - start) / (1800 * s.time.nominal)), dayType c d)

/-- The middle of a list of values: of an even number, the mean of the two in the middle. -/
def middle (l : List Nat) : Nat :=
  let r := sortInt (l.map fun (x : Nat) => (x : Int))
  let n := r.length
  if n = 0 then 0
  else if n % 2 = 1 then (lget 0 (n / 2) r).toNat
  else quotientNat ((lget 0 (n / 2 - 1) r).toNat + (lget 0 (n / 2) r).toNat) 2

/-- The values of a bin merged into the stored ones with weight 1/4 (R291); the first are stored as they are. -/
def BinStat.merge (old : Option BinStat) (new : BinStat) : BinStat :=
  match old with
  | none => new
  | some o => { volume := quotientNat (3 * o.volume + new.volume) 4, speed := quotientNat (3 * o.speed + new.speed) 4 }

/-- End a bin of a route: merged where it held 20 waves with a speed. -/
def State.endBin (s : State) (bin : Nat × Nat × Nat) (e : List Byte) : State :=
  let r := s.route e
  let clear (r : RouteSt) : RouteSt := { r with detections := [], waves := 0, speedSum := 0 }
  if !routeLearns e then s.putRoute (clear r)
  else if r.waves < 20 then s.putRoute (clear r)
  else
    let m := (routeMembers e).length
    let volume := 2 * middle ((upFrom 0 m).map fun i => (tget i r.detections).getD 0)
    let key := 48 * bin.2.2 + bin.2.1
    let new : BinStat := { volume := min 65535 volume, speed := quotientNat r.speedSum r.waves }
    s.putRoute (clear { r with learned := tput key (BinStat.merge (tget key r.learned) new) r.learned })

/-- ROUTE_BIN_END (R291). -/
def execRouteBinEnd (s : State) : Host.Outcome State Fault Refusal :=
  .next (s.whenLive fun s =>
    match s.binAt s.cn, s.dim.bin with
    | some now, some old =>
      if now = old then s
      else
        let s := forEach (fun e s => s.endBin old e) (s.inForce 0x0014) s
        { s with dim := { s.dim with bin := some now } }
    | some now, none => { s with dim := { s.dim with bin := some now } }
    | none, _ => s)

/-- A quotient rounded up; the largest value where the divisor is zero. -/
def ceilDiv (a b limit : Nat) : Nat :=
  if b = 0 then (if a = 0 then 0 else limit) else (a + b - 1) / b

/-- The tuning of a route for a bin (R292): from the stored values, or the initial one with the fast level. -/
def State.tuningFor (s : State) (e : List Byte) (x : Option BinStat) : Tuning :=
  let f := s.time.nominal
  let w (i : Nat) : Nat := ofLe (slice i 2 e)
  match x with
  | none => { initialTuning e with level := w 16 }
  | some b =>
    let v4 := max (5 * b.speed) (4 * w 20)
    { n := min 8 (max 1 (ceilDiv (v4 * w 6) (4 * f * w 4) 8))
      hold := min (w 12) (max (w 10) (ceilDiv (2 * f * w 4) (max b.speed (2 * w 20)) (w 12) + w 8))
      level := if v4 ≤ 4 * w 18 then w 14 else w 16 }

/-- A value changes by more than 10 % (R292). -/
def tenth (old new : Nat) : Bool :=
  decide (old < 10 * (max old new - min old new))

/-- The bin after the present one: its start, number and day type. -/
def State.nextBin (s : State) : Option (Cn × Nat × Nat) :=
  match s.calendar with
  | none => none
  | some c =>
    let d := s.dayNow c
    let start := s.scheduleCn (dayStart c d)
    let width := 1800 * s.time.nominal
    let b := (s.cn - start) / width
    let next := s.scheduleCn (dayStart c (d + 1))
    if b < 47 ∧ start + (b + 1) * width < next then some (start + (b + 1) * width, b + 1, dayType c d)
    else some (next, 0, dayType c (d + 1))

/-- Retune one route for a bin: booked as BULK work, or skipped and recorded (R292). -/
def State.retune (s : State) (bin : Cn × Nat × Nat) (e : List Byte) : State :=
  if !routeLearns e then s
  else
    let r := s.route e
    let t := s.tuningFor e (tget (48 * bin.2.2 + bin.2.1) r.learned)
    if t.n = r.tuning.n ∧ tenth r.tuning.hold t.hold = false ∧ tenth r.tuning.level t.level = false then s
    else
      let ms := (s.routeScheduled e).filter fun m => !localGroup m
      let body := [le 1 0 ++ le 5 bin.1 ++ s.aheadBody e t 0]
      let old := s.adm.bookings.length
      let f := s.bookEach .bulk 0 (s.asn + 1) (fun _ => body) (ms.map s.memberShort) s.cn .noCapacity
      match f.found with
      | some (u, last) =>
        let mine := u.adm.bookings.drop old
        if last ≤ bin.1 ∧ (mine.all fun b => decide (b.asn + 3000 ≤ 2 * bin.1)) = true then u.loadRoute e t bin.1
        else s.recordRoute (routeId e) 0 1
      | none => s.recordRoute (routeId e) 0 1

/-- ROUTE_RETUNE (R292): the tuning of every learning route for the next bin. -/
def execRouteRetune (s : State) : Host.Outcome State Fault Refusal :=
  .next (s.whenLive fun s =>
    match s.nextBin with
    | some b => forEach (fun e s => s.retune b e) (s.inForce 0x0014) s
    | none => s)

/-! Waves of local string groups (R287, R290, R373). -/

/-- Luminaires of a local string group. -/
def State.groupLums (s : State) (group : Nat) : List Nat :=
  (upFrom 0 32).filter fun l => decide (s.lumKind l ≠ 0) && decide (s.lumGroup l = group)

/-- A raised luminaire starts the engine it is bound to where that engine follows the route (R373). -/
def State.routeStart (s : State) (w : Wave) (e : List Byte) (l : Nat) : State :=
  match s.lumEngine l with
  | none => s
  | some p =>
    let x := s.peReg p 0x18
    if !bit 31 x || decide (field 15 0 x ≠ w.route) || (s.pe p).evac then s
    else
      let spacing := ofLe (slice 4 2 e)
      let lag := if w.speed = 0 then field 15 0 (s.peReg p 0x14)
        else ceilDiv ((if s.peMs p then 1000 else s.time.nominal) * spacing) w.speed 65535
      s.startPe p { startCn := s.cn + 1, startNs := s.cityNs, fresh := true, origin := some (s.lumPos l, lag, routeReverse e) }

/-- Raise a luminaire at the CYC after reception: the higher level, the hold from there (R287, R290). -/
def State.raiseLum (s : State) (w : Wave) (ramp l : Nat) : State :=
  let from_ := s.sixthAlone l 0
  let up (x : LumSt) : LumSt :=
    let held := match x.wave with
      | some v => if v.fall.isNone then v.level else 0
      | none => 0
    { x with wave := some {
        from_ := from_, level := max held w.level, start := s.cn + 1, ramp := ramp, holdEnd := s.cn + 1 + w.hold } }
  s.modLum l up

/-- The wave relay tile relays a wave for a group (R287): its own position, hops left less 1, the present CN. -/
def State.relayWave (s : State) (g place : Nat) (w : Wave) : State :=
  s.hold {
    grove := g, cell := .wave, dest := 0xFFFF, type := 0x08, until_ := some (2 * (s.cn + 8) + 1)
    payload := le 1 0x08 ++ le 1 0 ++ le 2 w.originator ++ le 2 0xFFFF ++ le 2 w.seq
      ++ le 2 w.route ++ le 1 w.list ++ le 1 place ++ le 2 w.level ++ le 2 w.hold ++ le 5 s.cn ++ le 1 (w.hops - 1)
      ++ le 2 w.speed }

/-- Remember a pair for a group: the last 16, for 16 cycles (R287). -/
def State.noteWave (s : State) (group : Nat) (w : Wave) (relayed : Bool) : State :=
  let mine (x : WaveSeen) : Bool := decide (x.group = group)
  let same (x : WaveSeen) : Bool := mine x && decide (x.originator = w.originator) && decide (x.seq = w.seq)
  let old := s.dim.waveSeen.filter fun x => !same x && decide (s.cn < x.cn + 16)
  let ours := old.filter mine
  let keep := old.filter fun x => !mine x
  let since := match s.dim.waveSeen.find? same with
    | some x => x.cn
    | none => s.cn
  { s with dim := { s.dim with waveSeen := keep ++ ours.drop (ours.length - 15)
      ++ [{ group := group, originator := w.originator, seq := w.seq, cn := since, relayed := relayed }] } }

/-- A WAVE at one local group's position of its route (R287, R290). -/
def State.waveAt (s : State) (g : Nat) (w : Wave) (e : List Byte) (m : Nat) (place : Nat) : State :=
  let k : Int := if routeReverse e then (w.position : Int) - place else (place : Int) - w.position
  let seen := s.dim.waveSeen.find? fun x =>
    decide (x.group = m) && decide (x.originator = w.originator) && decide (x.seq = w.seq) && decide (s.cn < x.cn + 16)
  let raise_ := decide (1 ≤ k) && decide (k ≤ w.hops) && seen.isNone
  let relayed := match seen with
    | some x => x.relayed
    | none => false
  let relay := decide (k = 1) && decide (2 ≤ w.hops) && !relayed
  let s := s.iff raise_ fun s =>
    forEach (fun l s => (s.raiseLum w (ofLe (slice 24 2 e)) l).routeStart w e l) (s.groupLums m) s
  let s := s.iff relay fun s => s.relayWave g place w
  s.iff (raise_ || relay) fun s => s.noteWave m w (relayed || relay)

/-- The grove of a route: that of its first member the module knows. -/
def State.routeGrove (s : State) (e : List Byte) : Option Nat :=
  (routeMembers e).findSome? fun m => (s.nodeOf m).map NodeRec.grove

/-- WAVE_RECEIVED (R177, R290): a WAVE more than 8 cycles old is dropped. -/
def execWaveReceived (grove : Fin 8) (wave : Wave) (s : State) : Host.Outcome State Fault Refusal :=
  .next (s.whenLive fun s => s.iff (!s.sliced (s.can.slotOf .waveRelay grove.val)) fun s =>
    if wave.detected + 8 < s.cn || s.tampered then s
    else
      let s := s.postTile .waveRelay grove.val 0 1 0
      match s.routeEntry wave.route with
      | none => s
      | some e =>
        if s.routeGrove e ≠ some grove.val then s
        else
          let ms := s.routeScheduled e
          forEach (fun p s => if localGroup p.1 then s.waveAt grove.val wave e p.1 p.2 else s) (ms.zip (upFrom 0 ms.length)) s)

/-- WAVE_HOLD_END (R287): a luminaire's hold ends and it falls to its base level. -/
def execWaveHoldEnd (l : Fin 32) (s : State) : Host.Outcome State Fault Refusal :=
  .next (s.whenLive fun s =>
    match (s.lum l.val).wave with
    | some w => s.iff (w.fall.isNone && decide (w.holdEnd ≤ s.cn)) fun s =>
        s.modLum l.val fun x => { x with wave := some { w with fall := some s.cn } }
    | none => s)

end Sys2Proof.Machine
end

