-- ==== Sys2Proof/Machine/Timebase.lean ====
section
/-! DEFINITION. Commands of the timebase: sources, servo, mains, SYNC_IN, triggers and captures (02). -/

namespace Sys2Proof.Machine

/-- When FREE_RUN began, and the nodes SCHEDULED then (R215). -/
def State.noteFreeRun (s : State) : State :=
  if s.time.mstate = .freeRun ∧ s.adm.freeRunSince = none then
    { s with adm := { s.adm with
        freeRunSince := some s.cn
        freeRunSet := (s.node.nodes.filter fun n => decide (n.state = .scheduled)).map NodeRec.eui } }
  else s

/-- MAINS_TIMEOUT (R70, R73, R75): no valid crossing within TIMEOUT of the last one. CYC goes on at the
held or nominal period without correction; a phase slew is abandoned and a whole-cycle slew suspended. -/
def State.mainsTimeout (s : State) (at_ : Nat) : State :=
  let s := s.advanceTo at_
  if !s.time.absent && decide (s.time.lastValid.getD 0 + 100000 * s.time.timeoutMs ≤ s.time.ref) then
    let s := if s.time.counting then s else s.startCount s.firstCn s.time.ref
    ({ s with time := { (s.time.absenceFrom (s.time.lastValid.getD 0 + 100000 * s.time.timeoutMs)) with
        absent := true, returning := [], returned := 0, phaseErr := 0
        mstate := match s.time.mstate with
          | .unattributed => .unattributed
          | _ => .freeRun } }).noteFreeRun.mainsEvent 1
  else s

def execMainsTimeout (tick : Nat) (s : State) : Host.Outcome State Fault Refusal :=
  .next (s.whenLive fun s => s.mainsTimeout tick)

/-- TIME_SNAP (R45): city time, CN and ticks since CYC are copied together. -/
def execTimeSnap (value : Word) (tick : Nat) (s : State) : Host.Outcome State Fault Refusal :=
  .next (s.whenLive fun s =>
    let s := s.advanceTo tick
    s.iff (bit 0 value.toNat) fun s =>
      { s with time := { s.time with snap := { city := s.time.city, cn := s.cn, tick := s.time.tsc } } })

/-- Receive and transmit latency of a port in ns (R52). -/
def State.ptpLatency (s : State) (p : Fin 2) : Int × Int :=
  let w := s.reg (0x400200B8 + 4 * p.val)
  (field 31 16 w, field 15 0 w)

/-- A port's bits of TIME_PTP_CTRL. -/
def State.ptpCtrl (s : State) (p : Fin 2) : Nat :=
  field (8 * p.val + 7) (8 * p.val) (s.reg 0x400200B0)

/-- The source a valid PTP message of a port delivers is in use: the port's own, or under PRP that of the
path with the lower mean path delay (R53). -/
def State.prpPrefers (s : State) (p : Fin 2) : Bool :=
  !bit 5 (s.ptpCtrl p) || decide ((lget {} p s.time.ports).pathDelay ≤ (lget {} (1 - p.val) s.time.ports).pathDelay)

/-- Under PRP the two ports form one clock: a change of path changes the port in use without resetting
the servo (R53). -/
def State.prpPath (s : State) (p : Fin 2) : State :=
  match s.time.source with
  | some (.ptp q) => if bit 5 (s.ptpCtrl p) && decide (q ≠ p) && s.prpPrefers p then
      { s with time := { s.time with source := some (.ptp p) } } else s
  | _ => s

/-- A port's source delivers, where TIME_CTRL.SRC selects it (R611). -/
def State.deliver (s : State) (p : Fin 2) : State :=
  if !s.selects (.ptp p) then s
  else if p = 0 then { s with time := { s.time with valid0 := true } }
  else { s with time := { s.time with valid1 := true } }

/-- A PTP message on a port that is enabled and not muted (R51 to R53, Table 2.4). -/
def State.ptpReceive (s : State) (p : Fin 2) (m : PtpMsg) : State :=
  let modPort (s : State) (f : PtpPort → PtpPort) : State :=
    { s with time := { s.time with ports := lmod f p s.time.ports } }
  match m with
  | .announce => modPort s fun q => { q with announceMiss := 0 }
  | .sync sent intervalMs =>
    let (rx, _) := s.ptpLatency p
    let diff := s.nsAt s.time.ref - rx - sent
    let s := modPort s fun q => { q with syncMiss := 0, lastSync := diff }
    let s := (s.deliver p).prpPath p
    let s := if s.takesFrom (.ptp p) then { s with time := { s.time with tauMs := intervalMs } } else s
    if s.selects (.ptp p) && s.prpPrefers p then
      s.offset (.ptp p) (diff - (lget {} p s.time.ports).pathDelay)
    else s
  | .delay sent received =>
    let (_, tx) := s.ptpLatency p
    modPort s fun q => { q with pathDelay := quotient (q.lastSync + (received - (sent + tx))) 2 }
  | .delayReq => if bit 1 (s.ptpCtrl p) then s.emit (.ptp p 2) else s
  | .malformed => s.ptpViolation p
  | .otherDomain => s
  | .management => s
  | .portState n => modPort s fun q => { q with state := n.val }

/-- PTP_MESSAGE (R52, R86). -/
def execPtpMessage (port : Fin 2) (tick : Nat) (msg : PtpMsg) (s : State) : Host.Outcome State Fault Refusal :=
  .next (s.whenLive fun s =>
    let s := s.advanceTo tick
    s.iff (!s.sliced (s.can.slotOf .ptp port.val) && bit 0 (s.ptpCtrl port) && (lget {} port s.time.ports).muteEnd.isNone) fun s => s.ptpReceive port msg)

/-- PTP_PORT_UNMUTE (R86): the mute ends 1,000 cycles on. -/
def execPtpPortUnmute (port : Fin 2) (s : State) : Host.Outcome State Fault Refusal :=
  .next (s.whenLive fun s =>
    match (lget {} port s.time.ports).muteEnd with
    | some e => s.iff (decide (e ≤ s.cn)) fun s =>
        { s with time := { s.time with ports := lmod (fun q => { q with muteEnd := none }) port s.time.ports } }
    | none => s)

/-- One more miss of a port's Announce or Sync messages (R52). -/
def PtpPort.miss (announce : Bool) (q : PtpPort) : PtpPort :=
  if announce then { q with announceMiss := q.announceMiss + 1 } else { q with syncMiss := q.syncMiss + 1 }

/-- PTP_SOURCE_MISS (R52): the third consecutive miss of Announce or of Sync ends the source. -/
def execPtpSourceMiss (port : Fin 2) (announce : Bool) (s : State) : Host.Outcome State Fault Refusal :=
  .next (s.whenLive fun s =>
    s.iff (decide (s.time.source = some (.ptp port))) fun s =>
      let s := { s with time := { s.time with ports := lmod (PtpPort.miss announce) port s.time.ports } }
      let q : PtpPort := lget {} port s.time.ports
      s.iff (decide (3 ≤ (if announce then q.announceMiss else q.syncMiss))) fun s =>
        ({ s with time :=
            if port = 0 then { s.time with valid0 := false } else { s.time with valid1 := false } }).sourceLost)

/-- The signed offset of the counter at a PPS_IN edge, in ns: from the whole second PTP gives, or from
the nearest second of the counter (R55). -/
def State.ppsOffset (s : State) : Int :=
  let ns := s.nsAt s.time.ref
  if s.time.valid0 || s.time.valid1 then
    let diff := ns - (lget {} (if s.time.valid0 then 0 else 1) s.time.ports).lastSync
      + (lget {} (if s.time.valid0 then 0 else 1) s.time.ports).pathDelay
    ns - (2 * diff + 1000000000) / 2000000000 * 1000000000
  else if ns % 1000000000 < 500000000 then ns % 1000000000 else ns % 1000000000 - 1000000000

/-- PPS_IN_EDGE (R55, R560): the active edge selected by TIME_PPS_CTRL marks a whole second. -/
def execPpsInEdge (rising : Bool) (tick : Nat) (s : State) : Host.Outcome State Fault Refusal :=
  .next (s.whenLive fun s =>
    let s := s.advanceTo tick
    let s := { s with fld := { s.fld with ppsIn := rising } }
    s.iff (bit 0 (s.reg 0x400200A0) && decide (rising = !bit 1 (s.reg 0x400200A0))) fun s =>
      s.iff (s.selects .pps) fun s =>
        let s := { s with time := { s.time with validPps := true, ppsMiss := 0 } }
        let s := if s.takesFrom .pps then { s with time := { s.time with tauMs := 1000 } } else s
        s.offset .pps s.ppsOffset)

/-- PPS_IN_MISS (R55): the third missed second ends PPS_IN as a source. -/
def execPpsInMiss (s : State) : Host.Outcome State Fault Refusal :=
  .next (s.whenLive fun s =>
    s.iff s.time.validPps fun s =>
      let s := { s with time := { s.time with ppsMiss := satAdd 255 s.time.ppsMiss 1 } }
      s.iff (decide (3 ≤ s.time.ppsMiss)) fun s =>
        let s := { s with time := { s.time with validPps := false } }
        s.iff (decide (s.time.source = some .pps)) State.sourceLost)

/-- TIME_CTRL.REARM takes effect (R48, Table 2.1). -/
def State.rearm (s : State) : State :=
  match s.time.tstate with
  | .locked => { s with time := { (s.time.enterLocking) with jump := false, armed := true } }
  | .holdover => { s with time := { (s.time.enterLocking) with jump := false, armed := true } }
  | _ => { s with time := { s.time with jump := false, armed := true } }

/-- A source that SRC does not select any more is not valid: a newly selected one becomes so with its first valid offset
(R611). -/
def State.dropSources (s : State) : State :=
  { s with time := { s.time with
      valid0 := s.time.valid0 && s.selects (.ptp 0)
      valid1 := s.time.valid1 && s.selects (.ptp 1)
      validPps := s.time.validPps && s.selects .pps } }

/-- A write of TIME_CTRL (Table 2.6, R611): REARM under INSTALLER, and the sources SRC selects. -/
def State.writeTimeCtrl (s : State) (v : Nat) (w : Writer) : State × Reason :=
  let (s, r) := s.writeReg 0x40020000 v w
  let s := s.dropSources.checkSource
  (s.iff (decide (r.act ≠ 0)) State.rearm, r.reason)

/-- TIME_REARM (R48): a write of TIME_CTRL with REARM. -/
def execTimeRearm (value : Word) (w : Writer) (s : State) : Host.Outcome State Fault Refusal :=
  .next (s.whenLive fun s => (s.writeTimeCtrl (value.toNat ||| 8) w).1)

/-- TIME_SRC_WRITE (R611): a write of TIME_CTRL that sets SRC. -/
def execTimeSrcWrite (value : Word) (w : Writer) (s : State) : Host.Outcome State Fault Refusal :=
  .next (s.whenLive fun s => (s.writeTimeCtrl value.toNat w).1)

/-- A write of TIME_MAINS_CFG (R61): stored at once; TIMEOUT acts from the next crossing and NOMINAL from
the next start-up. -/
def State.writeMainsCfg (s : State) (v : Nat) (w : Writer) : State × Reason :=
  let (s, r) := s.writeReg 0x40020050 v w
  (s, r.reason)

/-- MAINS_CFG_WRITE (R61). -/
def execMainsCfgWrite (value : Word) (w : Writer) (s : State) : Host.Outcome State Fault Refusal :=
  .next (s.whenLive fun s => (s.writeMainsCfg value.toNat w).1)

/-! SYNC_IN. -/

/-- The metering interval length N in force (R322). -/
def State.latchN (s : State) : Nat :=
  field 15 0 (s.reg 0x4005000C)

/-- The scheduled boundary nearest to a cycle, as the signed distance of the cycle from it (R77). -/
def State.syncDistance (s : State) (m : Cn) : Int :=
  let next : Int := s.mtr.nextLatch
  let before := next - s.latchN
  if ((m : Int) - before).natAbs < (next - m).natAbs then (m : Int) - before else (m : Int) - next

/-- A qualified SYNC_IN pulse (R77, R78). -/
def State.syncPulse (s : State) : State :=
  let d := s.syncDistance (s.cn + 1)
  if d = 0 then s
  else if d.natAbs ≤ s.latchN / 8 && !s.time.intervalMoved then
    let s := { s with
      mtr := { s.mtr with nextLatch := ((s.mtr.nextLatch : Int) + d).toNat, moveD := d }
      time := { s.time with
        syncOfs := (((s.time.syncOfs : Int) + d) % (max 1 s.latchN : Nat)).toNat
        syncD := d, syncMoved := true, intervalMoved := true } }
    s.syncEvent 1 d
  else
    let s := { s with time := { s.time with syncD := d, syncIgnored := true, syncViol := satAdd 65535 s.time.syncViol 1 } }
    s.syncEvent 2 d

/-- SYNC_IN_PULSE (R76 to R78, R80): a pulse of the selected edge, its width in microseconds. -/
def execSyncInPulse (rising : Bool) (tick widthUs : Nat) (s : State) : Host.Outcome State Fault Refusal :=
  .next (s.whenLive fun s =>
    let s := s.advanceTo tick
    let c := s.reg 0x40020090
    s.iff (bit 0 c && decide (rising = !bit 1 c) && decide (field 15 8 c ≤ widthUs)) State.syncPulse)

/-- A write of TIME_SYNC_CTRL (Table 2.8); REALIGN starts the return of D to 0 (R79). -/
def State.writeSyncCtrl (s : State) (v : Nat) (w : Writer) : State × Reason :=
  let (s, r) := s.writeReg 0x40020090 v w
  (s.iff (decide (r.act ≠ 0)) fun s => { s with time := { s.time with realign := decide (s.time.syncOfs ≠ 0) } }, r.reason)

/-- SYNC_REALIGN (R79). -/
def execSyncRealign (value : Word) (w : Writer) (s : State) : Host.Outcome State Fault Refusal :=
  .next (s.whenLive fun s => (s.writeSyncCtrl (value.toNat ||| 0x10000) w).1)

/-- One realign step at a boundary: the next boundary moves by at most N/8 cycles and D falls towards 0
the shorter way (R79). Answers the move and the state. -/
def State.realignStep (s : State) : Int × State :=
  if s.time.realign then
    let n := s.latchN
    let want : Int := if 2 * s.time.syncOfs ≤ n then -(s.time.syncOfs : Int) else (n : Int) - s.time.syncOfs
    let d := clampInt (-((n / 8 : Nat) : Int)) ((n / 8 : Nat) : Int) want
    let ofs := (((s.time.syncOfs : Int) + d) % (max 1 n : Nat)).toNat
    let s := { s with
      mtr := { s.mtr with nextLatch := ((s.mtr.nextLatch : Int) + d).toNat, moveD := d }
      time := { s.time with syncOfs := ofs, syncD := d, syncMoved := true, intervalMoved := true
                            realign := decide (ofs ≠ 0) } }
    (d, s.syncEvent 3 d)
  else (0, s)

/-! Triggers and captures. -/

/-- A trigger's CN or city seconds, from its LO and HI registers. -/
def State.trgInstant (s : State) (k : Fin 16) : Nat :=
  let hi := s.reg (0x40020108 + 0x20 * k.val)
  let lo := s.reg (0x40020104 + 0x20 * k.val)
  if bit 1 (s.reg (0x40020100 + 0x20 * k.val)) then 4294967296 * field 15 0 hi + lo
  else 4294967296 * field 7 0 hi + lo

/-- A trigger's instant has been reached (R81, R82): ticks counted from CYC(n), or the counter's time. -/
def State.trgReached (s : State) (k : Fin 16) : Bool :=
  let ofs := s.reg (0x4002010C + 0x20 * k.val)
  if bit 1 (s.reg (0x40020100 + 0x20 * k.val)) then
    decide (1000000000 * s.trgInstant k + ofs ≤ cityUnits s.time.city / 4294967296)
  else
    decide (s.trgInstant k ≤ s.cn)
      && (match s.time.cycRefs[s.cn - s.trgInstant k]? with
          | some r => decide (r + ofs ≤ s.time.ref)
          | none => true)

/-- Change a trigger unit. -/
def State.modTrigger (s : State) (k : Fin 16) (f : Trigger → Trigger) : State :=
  { s with time := { s.time with triggers := lmod f k s.time.triggers } }

/-- Post a trigger's event when its EVENT bit asks for it (Table 11.2). -/
def State.trgEvent (s : State) (k : Fin 16) (kind : Nat) : State :=
  s.iff (bit 16 (s.reg (0x40020100 + 0x20 * k.val))) fun s => s.post (772 + k.val) kind (s.cn % 4294967296)

/-- ARM takes effect (R82): a trigger whose instant has passed is missed and recorded with TOO_LATE. -/
def State.armTrigger (s : State) (k : Fin 16) : State :=
  if s.trgReached k then
    let s := s.modTrigger k fun t => { t with armed := false, missed := true }
    let s := s.record (772 + k.val) 0x08 .tooLate (le 2 k.val ++ le 5 (s.trgInstant k))
    s.trgEvent k 2
  else s.modTrigger k fun t => { t with armed := true }

/-- A write of TIME_TRGk_CTRL (Table 2.9): the conversion-frame target is taken only from INSTALLER with
MSEAL open (R83). -/
def State.writeTrigger (s : State) (k : Fin 16) (v : Nat) (w : Writer) : State × Reason :=
  let a := 0x40020100 + 0x20 * k.val
  let asks := decide (field 5 2 v = 1) && decide (field 5 2 (s.reg a) ≠ 1)
  let shut := asks && !(decide (w.role = .installer) && s.mtr.sealOpen)
  let v' := if shut then merge 0x3C v (s.reg a) else v
  let (s, r) := s.writeReg a v' w
  let s := if shut then s.recordWrite w .sealClosed a r.old v else s
  let s := if r.reason = .malformed then s
    else if bit 0 v then s.armTrigger k
    else s.modTrigger k fun t => { t with armed := false }
  (s, if shut then .sealClosed else r.reason)

/-- TRIGGER_ARM (R82): a write of TIME_TRGk_CTRL with ARM. -/
def execTriggerArm (unit : Fin 16) (value : Word) (tick : Nat) (w : Writer) (s : State) : Host.Outcome State Fault Refusal :=
  .next (s.whenLive fun s => ((s.advanceTo tick).writeTrigger unit (value.toNat ||| 1) w).1)

/-- A selected edge on a capture input at a tick and a nanosecond within it (R84, R85). -/
def State.capture (s : State) (c : Fin 7) (rising : Bool) (sub : Nat) : State :=
  let sel := s.reg (0x40020300 + 0x20 * c.val)
  if bit (if rising then 0 else 1) sel then
    let ch := lget {} c s.time.captures
    if ch.fifo.length < 8 then
      let u := ofCityUnits (cityUnits s.time.city + 4294967296 * sub)
      let e : Capture := { sec := u.sec, ns := u.ns, cn := s.cn, rising := rising, unset := decide (s.time.tstate = .unset) }
      let s := { s with time := { s.time with captures := lmod (fun x => { x with fifo := x.fifo ++ [e] }) c s.time.captures } }
      s.post (788 + c.val) 1 (ch.fifo.length + 1)
    else
      let s := { s with time := { s.time with captures := lmod (fun x => { x with ovr := true }) c s.time.captures } }
      s.post (788 + c.val) 2 8
  else s

/-- CAPTURE_EDGE (R84). -/
def execCaptureEdge (channel : Fin 7) (rising : Bool) (tick : Nat) (sub : Fin 10) (s : State) :
    Host.Outcome State Fault Refusal :=
  .next (s.whenLive fun s =>
    let s := (s.advanceTo tick).capture channel rising sub.val
    if channel = 0 then { s with fld := { s.fld with syncIn := rising } } else s)

/-- Take the oldest entry of a capture FIFO (R84). -/
def State.popCapture (s : State) (c : Nat) : State :=
  { s with time := { s.time with captures := lmod (fun x => { x with fifo := x.fifo.drop 1 }) c s.time.captures } }

/-- Clear the OVR of a capture channel (R84). -/
def State.clearOvr (s : State) (c v : Nat) : State :=
  { s with time := { s.time with captures := lmod (fun x => { x with ovr := x.ovr && !bit 8 v }) c s.time.captures } }

/-- CAPTURE_POP (R84): a write of 1 removes the head entry. -/
def execCapturePop (channel : Fin 7) (value : Word) (s : State) : Host.Outcome State Fault Refusal :=
  .next (s.whenLive fun s => s.iff (bit 0 value.toNat) fun s => s.popCapture channel.val)

/-! The crossing delivered by the meter pipeline. -/

/-- The mains is present again with the eighth consistent crossing (R71): attribute it to the nearest CYC,
take the mean of the seven periods, and remove the phase error. -/
def State.mainsBack (s : State) (ofs : Int) : State :=
  let s := { s with time := { (s.time.absenceEnds (s.time.lastValid.getD 0)) with
    absent := false, periods := s.time.returning, returned := 0, returning := [] } }
  let (_, e) := s.nearestCyc ofs
  ({ s with time := { s.time with
      phaseErr := e - s.time.corrUsed
      mstate := match s.time.mstate with
        | .unattributed => .unattributed
        | _ => .relock } }).mainsEvent 2

/-- The provisional count moves once from the stored waymark at this crossing (R68). -/
def State.moveProvisional (s : State) (ref : Int) (at_ : Cn) : State :=
  match s.time.mramWaymark with
  | some w =>
    if s.time.movePending && s.time.provisional && !s.time.provBeacon then
      let t := s.nsAt ref - (1000000000 * (w.sec : Int) + w.ns)
      let cn : Int := (w.cn : Int) + nearest (t * s.time.nominal) 1000000000
      let s := { s with time := { s.time with movePending := false, provMoved := true } }
      (s.shiftCn (cn - at_)).rebaseEvent at_ cn.toNat
    else s
  | none => s

/-- A valid crossing while the mains is present corrects the predictor (R30, R60, R62, R72). -/
def State.trackCrossing (s : State) (ofs : Int) (period : Option Nat) : State :=
  let (_, e) := s.nearestCyc ofs
  let e' := e - s.time.corrUsed
  let t : TimeSt := s.time
  let t : TimeSt := match period with
    | some p => let t := { t with periods := (p :: t.periods).take 16 }
                if t.tstate = .locked then t.addDay p else t
    | none => t
  let t : TimeSt := if t.slewCyc ≠ 0 && decide (t.mstate = .tracking) then t else { t with phaseErr := e' }
  let t : TimeSt := if t.mstate = .relock && decide (e.natAbs < 50000) then { t with mstate := .tracking } else t
  { s with time := t }

/-- Keep a crossing in the history (R59). -/
def State.keepCrossing (s : State) (c : Crossing) : State :=
  { s with time := s.time.keep c }

/-- A crossing whose period is plausible, or the first after an absence (R59, R60, R71). -/
def State.validCrossing (s : State) (cross ofs period : Int) (first : Bool) : State :=
  let at_ := (s.nearestCyc (10 * ofs)).1
  let s := s.keepCrossing { ref := cross, cn := at_ }
  let s := { s with time := { s.time with lastValid := some cross.toNat } }
  let s :=
    if s.time.absent then
      let r := if first then [] else (period.toNat :: s.time.returning).take 7
      let s := { s with time := { s.time with returned := s.time.returned + 1, returning := r } }
      if s.time.returned ≥ 8 && steadyPeriods r then s.mainsBack (10 * ofs) else s
    else s.trackCrossing (10 * ofs) (if first then none else some period.toNat)
  (s.holdoverUpdate cross at_).moveProvisional cross at_

/-- A measured crossing, `ofs` ticks from CYC of the current CN (R29, R59, R60, R68, R71): the first one starts the
count; one at an implausible period only enters the history. -/
def State.crossing (s : State) (ofs : Int) : State :=
  let cross : Int := (s.time.ref : Int) - s.time.tsc + ofs
  let s := { s with time := { s.time with timeoutMs := field 23 16 (s.reg 0x40020050) } }
  let first := s.time.lastValid.isNone || (s.time.absent && decide (s.time.returned = 0))
  let period : Int := 10 * (cross - (s.time.lastValid.getD 0 : Nat))
  if first || validPeriod period then
    if s.time.counting then s.validCrossing cross ofs period first
    else (s.startCount s.firstCn cross.toNat).validCrossing cross 0 period first
  else
    let s := s.keepCrossing { ref := cross, cn := (s.nearestCyc (10 * ofs)).1 }
    { s with time := { s.time with returned := 0, returning := [] } }

end Sys2Proof.Machine
end

