-- ==== Sys2Proof/Machine/MtrOps.lean ====
section
/-! DEFINITION. Operations of feeder metering and feeder balance (08): accounting, gaps and estimates, the latch of an
interval, checkpoints and snapshots, balances. -/

namespace Sys2Proof.Machine

/-! Parameters in force (R304, R306). -/

/-- CFG, INOM, START and NOLOAD of a feeder as its registers stand. -/
def State.feederRegs (s : State) (f : Nat) : List Nat :=
  (upFrom 0 4).map fun i => s.reg (0x40050100 + 0x40 * f + 4 * i)

/-- One of a feeder's parameters in force in the cycle that runs: 0 CFG, 1 INOM, 2 START, 3 NOLOAD. -/
def State.force (s : State) (f i : Nat) : Nat :=
  lget 0 i (lget [] f s.mtr.force)

/-- A feeder is in use (Table 8.11, EN). -/
def State.feederUsed (s : State) (f : Nat) : Bool :=
  bit 0 (s.force f 0)

/-- A feeder is being calibrated (R308). -/
def State.feederCal (s : State) (f : Nat) : Bool :=
  bit 1 (s.force f 0)

/-- Feeders in use, rising. -/
def State.feeders (s : State) : List Nat :=
  (upFrom 0 4).filter s.feederUsed

/-- Change the interval state of a feeder. -/
def State.modInt (s : State) (f : Nat) (g : FeederInt → FeederInt) : State :=
  { s with mtr := { s.mtr with live := { s.mtr.live with ints := lmod g f s.mtr.live.ints } } }

/-- Change the balance state of a feeder. -/
def State.modBal (s : State) (f : Nat) (g : FeederBal → FeederBal) : State :=
  { s with mtr := { s.mtr with live := { s.mtr.live with bal := lmod g f s.mtr.live.bal } } }

def State.bal (s : State) (f : Nat) : FeederBal :=
  lget {} f s.mtr.live.bal

/-- Set a flag of the interval in progress of some feeders (Table 8.4). -/
def State.flagInts (s : State) (fs : List Nat) (n : Nat) : State :=
  forEach (fun f s => s.modInt f fun i => if bit n i.flagBits then i else { i with flagBits := i.flagBits + 2 ^ n }) fs s

/-! Channels (R298, R299). -/

def State.mtrCh (s : State) (c : Nat) : MtrCh :=
  lget {} c s.mtr.chs

def State.modMtrCh (s : State) (c : Nat) (f : MtrCh → MtrCh) : State :=
  { s with mtr := { s.mtr with chs := lmod f c s.mtr.chs } }

/-- A channel is in FAULT. -/
def MtrCh.faulty (c : MtrCh) : Bool :=
  decide (c.stage ≠ .good) && decide (c.stage ≠ .onSpare)

/-- The current channel of a feeder phase, 0 to 2 for L1 to L3 (Table 8.1). -/
def currentCh (f p : Nat) : Nat :=
  4 + 3 * f + p

/-- A feeder phase delivers no energy: its voltage or its current channel is in FAULT. -/
def State.phaseFaulty (s : State) (f p : Nat) : Bool :=
  (s.mtrCh p).faulty || (s.mtrCh (currentCh f p)).faulty

/-- Phase voltages are taken against PE (R298). -/
def State.nAbsent (s : State) : Bool :=
  (s.mtrCh 3).faulty || bit 5 (s.reg 0x40050460)

/-- The mains counts as present for metering (R311). -/
def State.meterMains (s : State) : Bool :=
  decide (50 * s.reg 0x40050024 ≤ lget 0 0 s.mtr.rms)

/-- The spare path of an input (R299). -/
def State.sparePath (s : State) (c : Nat) : Nat :=
  16 + field 3 0 (s.reg (0x40050400 + 0x20 * c)) / 8

/-! Gaps (R331 to R333). -/

/-- Code of a gap's class (R333). -/
def gapCode : GapClass → Nat
  | .supplyOnly => 1
  | .dark => 2
  | .uncertain => 3
  | .reset => 4
  | .channel => 5
  | .clearing => 6
  | .cal => 7

/-- The interval a gap's estimate rests on (R332): the feeder's latest whose flags hold neither GAP, CALIB_CHANGED nor
N_CHANGED. -/
def State.basis (s : State) (f : Nat) : Option Interval :=
  (s.mtr.history.filter fun i => decide (i.feeder = f) && decide (masked 0x308 i.flagBits = 0)).getLast?

/-- The estimate of a stretch on a phase (R332): E times the stretch over T, both in ns. -/
def State.estimate8 (s : State) (f p lengthNs period : Nat) : Nat :=
  match s.basis f with
  | some i => (nearest ((lget 0 p i.imports * lengthNs : Nat) : Int) (i.length * period)).toNat
  | none => 0

/-- The record of a gap (R333, Table 16.4), and source 3 of the METER_ACC slot. -/
def State.gapRecord (s : State) (f : Nat) (c : GapClass) (cycles estimate : Nat) (closing : Bool) : State :=
  let s := s.postTile .meterAcc 0 3 (if closing then 2 else 1) 0
  let r := s.happening (s.tileSource .meterAcc 0 3) 0x32 .ok .nobody
    (le 1 f ++ le 1 (gapCode c) ++ le 4 cycles ++ le 4 estimate
      ++ le 1 (flag (s.basis f).isNone 0 + flag closing 1) ++ [0])
  s.enter { r with estimate := closing }

/-- Open gaps of a feeder of a class. -/
def State.gapsOf (s : State) (f : Nat) (c : GapClass) : List Gap :=
  s.mtr.gaps.filter fun g => decide (g.feeder = f) && decide (g.cls = c)

/-- A gap opens on a feeder phase: its interval and balance are marked; a record for the feeder's first (R333). -/
def State.openGap (s : State) (f p : Nat) (c : GapClass) : State :=
  if !s.feederUsed f || (s.gapsOf f c).any fun g => decide (g.phase = p) then s
  else
    let first := (s.gapsOf f c).isEmpty
    let g : Gap := { feeder := f, phase := p, cls := c, start := s.cn }
    let s := { s with mtr := { s.mtr with gaps := s.mtr.gaps ++ [g] } }
    let s := (s.flagInts [f] 3).modBal f fun b => { b with gap := true }
    s.iff first fun s => s.gapRecord f c 0 0 false

/-- The estimate of the part of a gap that lies in the interval in progress goes to that interval (R332, R334). -/
def State.addPart (s : State) (g : Gap) : State :=
  let from_ := max g.start s.mtr.live.openCn
  let e := if g.cls = .cal then 0 else s.estimate8 g.feeder g.phase ((s.cn - from_) * s.period) s.period
  s.modInt g.feeder fun i => { i with estimates := lmod (· + e) g.phase i.estimates }

/-- Gaps of a feeder and class end: one closing record over them (R333). -/
def State.closeGaps (s : State) (f : Nat) (c : GapClass) (phase : Nat → Bool) : State :=
  let mine := (s.gapsOf f c).filter fun g => phase g.phase
  if mine = [] then s
  else
    let s := forEach (fun g s => s.addPart g) mine s
    let ends (g : Gap) : Bool := decide (g.feeder = f) && decide (g.cls = c) && phase g.phase
    let s := { s with mtr := { s.mtr with gaps := s.mtr.gaps.filter fun g => !ends g } }
    if (s.gapsOf f c).isEmpty then
      let start := minOr s.cn (mine.map Gap.start)
      let whole (g : Gap) : Nat := if c = .cal then 0 else s.estimate8 f g.phase ((s.cn - g.start) * s.period) s.period
      s.gapRecord f c (s.cn - start) (mine.map whole).sum true
    else s

/-- Gaps of class CHANNEL follow the channels' faults (R298). -/
def State.channelGaps (s : State) : State :=
  forEach (fun f s =>
    let s := forEach (fun p s => if s.phaseFaulty f p then s.openGap f p .channel else s) (upFrom 0 3) s
    s.closeGaps f .channel fun p => !s.phaseFaulty f p) s.feeders s

/-! Accounting (R314, R315, R317). -/

/-- Quadrant of a cycle, 0 to 3 for Q1 to Q4 (Table 8.2). -/
def quadrant (p q : Int) : Nat :=
  if 0 ≤ p then (if 0 ≤ q then 0 else 3) else if 0 ≤ q then 1 else 2

/-- A phase's RMS current reaches the starting current (R315). -/
def State.starts (s : State) (f rms : Nat) : Bool :=
  if s.force f 2 = 0 then decide (s.force f 1 ≤ 1000 * rms) else decide (s.force f 2 ≤ rms)

/-- Account one phase's cycle: answers whether any of its energy was suppressed. -/
def State.accountPhase (s : State) (x : PhaseSum) : Bool × State :=
  let f := x.feeder.val
  let p := x.phase.val
  if !s.feederUsed f || s.feederCal f || s.phaseFaulty f p then (false, s)
  else
    let started := s.starts f x.rms
    let act := started && decide (field 15 0 (s.force f 3) ≤ x.meanP)
    let rea := started && decide (field 31 16 (s.force f 3) ≤ x.meanQ)
    let at_ := 24 * f + 8 * p + quadrant x.p x.q
    let acc := if act then lmod (· + x.p.natAbs) at_ s.mtr.live.acc else s.mtr.live.acc
    let acc := if rea then lmod (· + x.q.natAbs) (at_ + 4) acc else acc
    let s := { s with mtr := { s.mtr with live := { s.mtr.live with acc := acc } } }
    let s := s.iff (act && decide (0 ≤ x.p)) fun s =>
      s.modBal f fun b => { b with sums := lmod (· + x.p.natAbs) p b.sums }
    (!(act && rea), s)

/-- Account a cycle (R314): SUPPR counts it once a feeder. -/
def State.account (s : State) (l : List PhaseSum) : State :=
  let (hit, s) := l.foldl (fun (a : List Nat × State) x =>
    let (b, t) := a.2.accountPhase x
    (if b then a.1 ++ [x.feeder.val] else a.1, t)) ([], s)
  let count (f : Nat) (n : Nat) : Nat := if hit.contains f then bump n else n
  { s with mtr := { s.mtr with suppressed := (s.mtr.suppressed.zip (upFrom 0 4)).map fun (n, f) => count f n } }

/-- Integer part of an accumulator modulo 2^48, and its wrap count (R318). -/
def State.register (s : State) (i : Nat) : Nat × Nat :=
  let n := lget 0 i s.mtr.live.acc / 4294967296
  (n % 2 ^ 48, n / 2 ^ 48 % 65536)

/-! Checkpoints and snapshots (R321, R329). -/

/-- City time in ns, where the timebase holds a value. -/
def State.cityNow (s : State) : Option Nat :=
  if s.time.tstate = .unset then none else some (1000000000 * s.time.city.sec + s.time.city.ns)

/-- Commit a checkpoint into the older slot (R321). -/
def State.checkpoint (s : State) : State :=
  let c : Saved := { live := s.mtr.live, cn := s.cn, present := s.meterMains, city := s.cityNow }
  ({ s with mtr := { s.mtr with checkpoints := (c :: s.mtr.checkpoints).take 2 } }).postTile .meterAcc 0 1 1 0

/-- Take the last-gasp snapshot (R329), with the partial cycle's own sums; accumulation does not stop. -/
def State.takeSnapshot (s : State) (partialSums : List PhaseSum) : State :=
  let live := (s.account partialSums).mtr.live
  let c : Saved := { live := live, cn := s.cn, us := s.micros, snapshot := true, present := s.meterMains, city := s.cityNow }
  ({ s with mtr := { s.mtr with snapshot := some c } }).postTile .meterAcc 0 2 1 0

/-- The newest valid saved state (R330). -/
def MtrSt.newest (m : MtrSt) : Option Saved :=
  let later (a b : Option Saved) : Option Saved := match a, b with
    | some x, some y => if x.cn < y.cn then some y else some x
    | none, b => b
    | a, none => a
  m.checkpoints.foldl (fun a c => later a (some c)) m.snapshot

/-- After a reset the meter tiles load the newest valid state; their gap closes at the first CYC (R330). -/
def State.loadMeter (s : State) : State :=
  match s.mtr.newest with
  | some c => { s with mtr := { s.mtr with live := c.live, resume := some c, gaps := [], running := true } }
  | none => { s with mtr := { s.mtr with running := true } }

/-- Resume accumulating at a CYC: the length of the power gap (R330), which marks every feeder in use. -/
def State.meterResume (s : State) : State :=
  match s.mtr.resume with
  | none => s
  | some c =>
    let p := s.period
    let g := (s.cn - c.cn) * p - c.us * 1000
    let ms := match s.cityNow, c.city with
      | some b, some a => b - a
      | _, _ => g
    let s := { s with mtr := { s.mtr with
      resume := none
      powerGap := some { snapshot := c.snapshot, clearing := c.clearing, present := c.present, lengthNs := g, period := p } } }
    forEach (fun f s =>
      ((s.flagInts [f] 3).iff (!c.clearing) fun s => s.flagInts [f] 4).modInt f (fun i => { i with gapNs := i.gapNs + ms })
        |>.modBal f fun b => { b with gap := true }) s.feeders s

/-- The class of a power gap, once the first cycle after resumption has been metered (Table 8.5). -/
def State.gapClass (s : State) (g : PowerGap) : GapClass :=
  if g.clearing then .clearing
  else if !g.snapshot then .reset
  else if g.present ≠ s.meterMains then .uncertain
  else if g.present then .supplyOnly
  else .dark

/-- Close the power gap: its estimates go to the interval in progress, and a closing record each feeder (R331 to R333). -/
def State.settlePowerGap (s : State) : State :=
  match s.mtr.powerGap with
  | none => s
  | some g =>
    let c := s.gapClass g
    let s := { s with mtr := { s.mtr with powerGap := none, lastClass := gapCode c } }
    forEach (fun f s =>
      let e (p : Nat) : Nat := if c = .dark then 0 else s.estimate8 f p g.lengthNs g.period
      let s := s.modInt f fun i => { i with estimates := (upFrom 0 3).map fun p => lget 0 p i.estimates + e p }
      s.gapRecord f c ((g.lengthNs + g.period - 1) / max 1 g.period) ((upFrom 0 3).map e).sum true) s.feeders s

/-! Balance (R335 to R340). -/

/-- The REPORT_PLAN of a feeder's nodes: N_b and P (R174, R335); the defaults until one holds it. -/
def State.reportPlan (s : State) (f : Nat) : Nat × Nat :=
  let plans := s.node.nodes.filterMap fun n =>
    if s.feederOf n.eui = some f then n.content s.cn 0x0003 else none
  match plans.head? with
  | some c => (max 1 (ofLe (slice 0 2 c)), max 1 (oct 2 c))
  | none => (3000, 12)

/-- Phase class of a node of a feeder, with ROTATION (R336). -/
def State.balPhase (s : State) (f cls : Nat) : Nat :=
  if bit 2 (s.force f 0) then lget 0 cls [0, 2, 1] else cls

/-- The nodes of a feeder at the end of a balance interval, with their phase (R336). -/
def State.balNodes (s : State) (f : Nat) : List (Nat × Nat) :=
  (s.node.nodes.filter fun n =>
      decide (s.feederOf n.eui = some f) && (match s.entry n.short with
        | some e => decide (e.eui = n.eui) && decide (e.state ≠ .free) && decide (e.state ≠ .excluded)
        | none => false)).map fun n => (n.eui, s.balPhase f n.cls)

/-- Nodes of a balance that are missing from it (R338). -/
def Balance.missing (b : Balance) (phase : Nat) : List Nat :=
  (b.nodes.filter fun n => decide (n.2 = phase) && ((tget n.1 b.reports).isNone || b.bad.contains n.1)).map Prod.fst

/-- Nodes of a phase. -/
def Balance.onPhase (b : Balance) (phase : Nat) : List Nat :=
  (b.nodes.filter fun n => decide (n.2 = phase)).map Prod.fst

/-- Node energy of a phase with substitutions (R338). -/
def Balance.energy (b : Balance) (phase : Nat) : Nat :=
  let gone := b.missing phase
  let there := (b.onPhase phase).filter fun n => !gone.contains n
  let sum := (there.map fun n => (tget n b.reports).getD 0).sum
  if gone = [] ∨ there = [] then sum else sum + quotientNat (sum * gone.length) there.length

/-- The units U is computed in: 3.6 * 10^12 of them make a mWh (R339). -/
def lossScale : Nat := 3600000000000

/-- U of a feeder or phase in those units (R339). -/
def State.lossUnits (s : State) (f ef en cycles : Nat) : Int :=
  let cfg := s.reg (0x40050118 + 0x40 * f)
  3600000000 * ((ef * (1000 - field 7 0 cfg) : Nat) - (1000 * en : Nat) : Int)
    - (1000 * s.reg (0x4005011C + 0x40 * f) * cycles * s.period : Nat)

/-- The result of a balance that closes (R338, R339, Table 8.7). -/
def State.balanceResult (s : State) (f : Nat) (b : Balance) : BalResult :=
  let cfg := s.reg (0x40050118 + 0x40 * f)
  let few := (upFrom 0 3).all fun p => decide (1000 * (b.missing p).length ≤ field 23 16 cfg * (b.onPhase p).length)
  let ef := b.imports.sum
  let en := ((upFrom 0 3).map b.energy).sum
  let u := s.lossUnits f ef en b.length
  let th : Int := (field 15 8 cfg * ef * 3600000000 : Nat)
  let state :=
    if b.incomplete || !few then 5
    else if ef < 1000 * field 31 24 cfg then 4
    else if th < u then 2
    else if u < -th then 3
    else 1
  let ratio (k : Nat) (u : Int) (e : Nat) : Int := if e = 0 then 0 else quotient (k * u) (e * lossScale)
  let up (p : Nat) : Int := s.lossUnits f (lget 0 p b.imports) (b.energy p) b.length
  { cn := b.cn, state := state
    reported := countIf (fun n => (tget n.1 b.reports).isSome) b.nodes
    feederMwh := ef, nodeMwh := en
    loss := if state = 5 then 0 else quotient u lossScale
    ratio := if state = 5 then 0 else ratio 10000 u ef
    phases := (upFrom 0 3).map fun p => if state = 5 then 0 else ratio 1000 (up p) (lget 0 p b.imports) }

/-- The BALANCE record (R340). -/
def State.recordBalance (s : State) (f : Nat) (r : BalResult) : State :=
  s.record (s.tileSource .meterAcc 0 4) 0x33 .ok (le 1 f ++ le 1 r.state ++ le 5 r.cn ++ leInt 4 r.loss)

/-- Count a result towards the alarms (R340): raises and clears are recorded. -/
def State.balanceAlarm (s : State) (f : Nat) (r : BalResult) : State :=
  if r.state = 4 ∨ r.state = 5 then s
  else
    let b := s.bal f
    let n := if b.kind = r.state then b.count + 1 else 1
    let s := s.modBal f fun b => { b with kind := r.state, count := n }
    let raise_ := decide (2 ≤ n) && ((decide (r.state = 2) && !b.lossAlarm) || (decide (r.state = 3) && !b.excessAlarm))
    let clear := decide (2 ≤ n) && decide (r.state = 1) && (b.lossAlarm || b.excessAlarm)
    let s := s.modBal f fun b => { b with
      lossAlarm := if clear then false else b.lossAlarm || (raise_ && decide (r.state = 2))
      excessAlarm := if clear then false else b.excessAlarm || (raise_ && decide (r.state = 3)) }
    s.iff (raise_ || clear) fun s => s.recordBalance f r

/-- Close a balance of a feeder (R337, R340): its result waits for an interval record (R328). -/
def State.closeBalance (s : State) (f : Nat) (b : Balance) : State :=
  let r := s.balanceResult f b
  let s := s.modBal f fun x => { x with
    open_ := x.open_.filter fun y => decide (y.cn ≠ b.cn), closed := x.closed ++ [r], last := some r }
  let s := s.iff (decide (r.state = 2) || decide (r.state = 3) || decide (r.state = 5)) fun s => s.recordBalance f r
  s.balanceAlarm f r

/-- Every node of a balance has reported it. -/
def Balance.whole (b : Balance) : Bool :=
  b.nodes.all fun n => (tget n.1 b.reports).isSome

/-- The CN at which a balance closes at the latest (R337). -/
def State.balanceDue (s : State) (f : Nat) (b : Balance) : Cn :=
  let (n, p) := s.reportPlan f
  let d := b.cn + p * n + 6000
  if d < s.adm.holdCn then s.adm.holdCn + 6000 else d

/-- Close the balances of a feeder that are whole, in order. -/
def State.closeWhole (s : State) (f : Nat) : State :=
  forEach (fun b s => if b.whole then s.closeBalance f b else s) (s.bal f).open_ s

/-- A balance interval of a feeder ends at this cycle's boundary (R335). -/
def State.balanceEnd (s : State) (f : Nat) : State :=
  let n := (s.reportPlan f).1
  let b := s.bal f
  if s.cn % n ≠ 0 ∨ s.time.provisional = true ∨ s.cn ≤ b.start then s
  else
    let x : Balance := {
      cn := s.cn, length := s.cn - b.start, imports := b.sums.map fun e => e / 4294967296
      incomplete := b.gap || s.feederCal f || decide (s.cn - b.start ≠ n)
        || s.mtr.gaps.any fun g => decide (g.feeder = f)
      nodes := s.balNodes f }
    let s := s.modBal f fun b => { b with
      sums := b.sums.map fun e => e % 4294967296, start := s.cn, open_ := b.open_ ++ [x]
      gap := s.mtr.gaps.any fun g => decide (g.feeder = f) }
    (s.postTile .meterAcc 0 4 1 0).closeWhole f

/-! The latch (R322 to R328). -/

/-- The first boundary after a CN: congruent to D modulo N (R322, R324). -/
def State.boundaryAfter (s : State) (cn : Cn) : Cn :=
  let n := max 1 s.latchN
  cn + (n - (cn + n - s.time.syncOfs % n) % n)

/-- The next boundary is looked for anew once the count has moved (R68, R325). -/
def State.renewBoundary (s : State) : State :=
  { s with mtr := { s.mtr with nextLatch := s.boundaryAfter s.cn } }

/-- Values of a feeder's interval: of 24 registers, the difference of integer parts (R323). -/
def State.intervalValues (s : State) (f : Nat) : List Nat :=
  let i := lget {} f s.mtr.live.ints
  (upFrom 0 24).map fun k => ((s.register (24 * f + k)).1 + 2 ^ 48 - lget 0 k i.opening) % 2 ^ 48

/-- The balance fields of an interval record (Table 8.3). -/
def balanceFields : Option BalResult → List Byte
  | some r => le 5 r.cn ++ le 1 r.state ++ le 2 r.reported ++ le 4 (min 0xFFFFFFFF r.feederMwh) ++ le 4 (min 0xFFFFFFFF r.nodeMwh)
  | none => List.replicate 16 0

/-- Latch one feeder: its interval record enters the ring (R326, R328). -/
def State.latchFeeder (s : State) (ofsUs : Nat) (missed : Bool) (f : Nat) : List Byte × State :=
  let i := lget {} f s.mtr.live.ints
  let v := s.intervalValues f
  let overflow := v.any fun x => decide (0xFFFFFFFF < x)
  let sat := v.map fun x => min 0xFFFFFFFF x
  let bits := masked (2 ^ 16 - 1 - (2 + 64 + 128)) i.flagBits
    + flag (missed || bit 1 i.flagBits) 1 + flag overflow 6 + flag (s.time.absent || bit 7 i.flagBits) 7
  let b := s.bal f
  let length := s.cn - s.mtr.live.openCn
  let octets := le 5 s.cn ++ le 4 length ++ le 1 f ++ le 2 bits ++ leInt 2 s.mtr.moveD ++ le 2 ofsUs
    ++ (sat.map (le 4)).flatten ++ le 4 (nearest (i.gapNs : Int) 1000000).toNat ++ (i.estimates.map (le 4)).flatten
    ++ balanceFields b.closed.head?
  let imports := (upFrom 0 3).map fun p => lget 0 (8 * p) v + lget 0 (8 * p + 3) v
  let rec_ : Interval := { cn := s.cn, feeder := f, length := length, flagBits := bits, imports := imports, octets := octets }
  let l := s.mtr.history ++ [rec_]
  let s := { s with mtr := { s.mtr with
    history := l.drop (l.length - 5760)
    lastValues := s.mtr.lastValues.take (24 * f) ++ sat ++ s.mtr.lastValues.drop (24 * f + 24) } }
  (octets, s.modBal f fun b => { b with closed := b.closed.drop 1 })

/-- Flags with which an interval opens (Table 8.4). -/
def State.openingFlags (s : State) (missed changed : Bool) (f : Nat) : Nat :=
  let gaps := s.mtr.gaps.any fun g => decide (g.feeder = f)
  flag (decide (s.mtr.moveD ≠ 0)) 0 + flag missed 1 + flag gaps 3 + flag s.mtr.sealOpen 5 + flag s.time.absent 7
    + flag s.mtr.calibNew 8 + flag changed 9 + flag s.nAbsent 10

/-- Latch each feeder in use: the records of the interval, and the state after (R322). -/
def State.latchFeeders (s : State) (ofsUs : Nat) (missed : Bool) : List (List Byte) × State :=
  s.feeders.foldl (fun (a : List (List Byte) × State) f =>
    let (o, t) := a.2.latchFeeder ofsUs missed f
    (a.1 ++ [o], t)) ([], s)

/-- The interval latch (R322, R324, R326): at a sample some microseconds after CYC; `missed` when the crossing was
missing and the boundary falls on CYC. -/
def State.latch (s : State) (ofsUs : Nat) (missed : Bool) : State :=
  let s := forEach (fun g s => s.addPart g) s.mtr.gaps s
  let (bodies, s) := s.latchFeeders ofsUs missed
  let changed := match s.mtr.pendingN with
    | some n => decide (n ≠ s.latchN)
    | none => false
  let s := match s.mtr.pendingN with
    | some n => { s with mtr := { s.mtr with pendingN := none } }.setReg 0x4005000C n
    | none => s
  let fresh (f : Nat) : FeederInt := {
    opening := (upFrom 0 24).map fun k => (s.register (24 * f + k)).1, flagBits := s.openingFlags missed changed f }
  let s := { s with mtr := { s.mtr with
    live := { s.mtr.live with ints := (upFrom 0 4).map fresh, openCn := s.cn }
    lastLatch := s.cn, calibNew := false, moveD := 0 } }
  let s := { s with time := { s.time with intervalMoved := false } }
  let s := s.renewBoundary.realignStep.2
  let s := (s.postTile .meterAcc 0 0 1 0).checkpoint
  let s := s.iff (decide (bodies ≠ [])) fun s =>
    s.push 0x21 (le 1 bodies.length ++ le 1 144 ++ [0, 0] ++ bodies.flatten) 0
  s.iff s.sys.powerFail fun s => s.takeSnapshot []

/-- Balances of a feeder whose deadline has come close before a latch of that CN (R328, R337). -/
def State.closeDue (s : State) (f : Nat) : State :=
  forEach (fun b s => if s.balanceDue f b ≤ s.cn then s.closeBalance f b else s) (s.bal f).open_ s

/-- The boundary of the cycle has come: intervals and balances end there (R35, R322, R325, R335). -/
def State.boundary (s : State) (ofsUs : Nat) (missed : Bool) : State :=
  if !s.mtr.running then s
  else
    let s := s.iff (!s.time.provisional && decide (s.mtr.nextLatch ≤ s.cn)) fun s =>
      (forEach (fun f s => s.closeDue f) s.feeders s).latch ofsUs missed
    forEach (fun f s => s.balanceEnd f) s.feeders s

/-! A cycle of the meter tiles. -/

/-- A channel's FAULT at a CYC (R298, R299): the receiver is reset, the spare path switched on, or the stream is good. -/
def State.channelStep (s : State) (c : Nat) : State :=
  let x := s.mtrCh c
  match x.stage with
  | .resetDue => s.modMtrCh c fun x => { x with stage := .resetDone, resets := satAdd 65535 x.resets 1 }
  | .resetDone => (s.modMtrCh c fun x => { x with stage := .good, transient := true }).postTile .meterPipe c 2 1 0
  | .spareDue =>
    let taken := (upFrom 0 16).any fun d =>
      decide ((s.mtrCh d).stage = .spareDone) && decide (s.sparePath d = s.sparePath c)
    if s.spare (unitOf .a 6 (s.sparePath c)) && !taken then (s.modMtrCh c fun x => { x with stage := .spareDone }).post 833 1 0
    else s.modMtrCh c fun x => { x with stage := .outside }
  | .spareDone =>
    let old := lget c c s.mtr.paths
    let s := { s with mtr := { s.mtr with paths := lset c (s.sparePath c) s.mtr.paths } }
    let s := s.modMtrCh c fun x => { x with stage := .onSpare }
    let fs := if c < 4 then s.feeders else [(c - 4) / 3]
    ((s.flagInts (fs.filter s.feederUsed) 11).fell (unitOf .a 6 old))
  | _ => s

/-- Parameters written take effect with the cycle that begins (R306); CAL opens and closes its gap (R308). -/
def State.enforce (s : State) : State :=
  let s := s.iff s.mtr.calibNew fun s => s.flagInts s.feeders 8
  let s := { s with mtr := { s.mtr with calibNew := s.mtr.written, written := false } }
  let s := { s with mtr := { s.mtr with force := (upFrom 0 4).map s.feederRegs } }
  forEach (fun f s =>
    if s.feederCal f then forEach (fun p s => s.openGap f p .cal) (upFrom 0 3) s else s.closeGaps f .cal fun _ => true)
    s.feeders s

/-- What the meter tiles do at a CYC: the cycle that ended is accounted, channels, gaps, flags and parameters follow
(R298, R306, R314, R330). -/
def State.meterTick (s : State) (sums : List PhaseSum) (rms : List Nat) (clipped : List (Fin 16)) : State :=
  if !s.mtr.running then s
  else
    let s := if s.mtr.resume.isSome then s.meterResume
      else
        let s := (s.account sums)
        let s := { s with mtr := { s.mtr with rms := if rms = [] then s.mtr.rms else rms } }
        s.settlePowerGap
    let s := forEach (fun (c : Fin 16) s => (s.modMtrCh c fun x => { x with clip := true }).postTile .meterPipe c 1 1 0) clipped s
    let gapped := s.feeders.filter fun f => s.mtr.gaps.any fun g => decide (g.feeder = f)
    let s := forEach (fun f s => s.modInt f fun i => { i with gapNs := i.gapNs + s.period }) gapped s
    let s := forEach (fun c s => s.channelStep c) (upFrom 0 16) s
    let s := s.channelGaps.enforce
    let s := s.iff s.nAbsent fun s => s.flagInts s.feeders 10
    let s := s.iff (decide (s.time.slewCyc ≠ 0)) fun s => s.flagInts s.feeders 2
    if s.mtr.cal.busy then { s with mtr := { s.mtr with cal := { s.mtr.cal with cycles := s.mtr.cal.cycles + 1 } } } else s

end Sys2Proof.Machine
end

