-- ==== Sys2Proof/Machine/Nodes.lean ====
section
/-! DEFINITION. Commands of the lantern link (04): what the module does with each message of its nodes, and the timers it
keeps for them. -/

namespace Sys2Proof.Machine

/-! Joining (R147 to R153). -/

/-- The ADMISSION entry of an EUI-64 (R149, R251). -/
def State.admission (s : State) (eui : Nat) : Option (List Byte) :=
  (s.inForce 0x0001).find? fun e => decide (ofLe (slice 0 8 e) = eui)

/-- An entry can be given to an EUI-64 that has none: FREE, and not reserved any more (R150). -/
def State.openEntry (s : State) (key : Nat) : Bool :=
  match tget key s.rad.ledger with
  | none => true
  | some e => decide (e.state = .free) && (match e.reserved with
    | some r => decide (r ≤ s.cn)
    | none => true)

/-- The ledger place an EUI-64 has in a grove, a reserved FREE entry included (R150). -/
def State.ownEntry (s : State) (g eui : Nat) : Option Nat :=
  (s.rad.ledger.find? fun p => decide (p.1 / 512 = g) && decide (p.2.eui = eui)
    && (decide (p.2.state ≠ .free) || p.2.reserved.isSome)).map Prod.fst

/-- A node becomes known to the module. -/
def State.knowNode (s : State) (eui : Nat) : State :=
  if (s.nodeOf eui).isSome then s
  else { s with node := { s.node with nodes := s.node.nodes ++ [{ eui := eui }] } }

/-- Joins admitted on a transceiver in the SF-Join slotframe in progress (R149). -/
def State.joinsNow (s : State) (t : Nat) : Nat :=
  if s.rad.joinFrame = s.asn / 32 then lget 0 t s.rad.joins else 0

/-- Count a join on a transceiver. -/
def State.countJoin (s : State) (t : Nat) : State :=
  let l := if s.rad.joinFrame = s.asn / 32 then s.rad.joins else List.replicate 8 0
  { s with rad := { s.rad with joinFrame := s.asn / 32, joins := lmod (· + 1) t l } }

/-- Give a node a ledger place (R150): its own entry is kept with H and W, another is written freshly. -/
def State.takeEntry (s : State) (n : NodeRec) (key : Nat) (kept : Bool) (drift : Int) : State :=
  let short := key + 0x1000
  let old := (tget key s.rad.ledger).getD {}
  let e : Entry := if kept then { old with state := .active, reserved := none, muteEnd := none, resync := false, drift := drift, heard := s.cn }
    else { eui := n.eui, short := short, keyIndex := s.key.generation, heard := s.cn, drift := drift, state := .active }
  let clear (m : NodeRec) : NodeRec := if m.short = short ∧ m.eui ≠ n.eui then { m with short := 0xFFFF } else m
  let leave (p : Nat × Entry) : Nat × Entry :=
    if p.2.eui = n.eui ∧ p.1 ≠ key then (p.1, { p.2 with state := .free, reserved := none }) else p
  { s with
    rad := { s.rad with ledger := tput key e (s.rad.ledger.map leave) }
    node := { s.node with nodes := s.node.nodes.map clear } }

/-- Send a JOIN_GRANT (R152, R153): in the joiner's join cell where the module is the proxy, else to the proxy with the
9-octet prefix. -/
def State.sendGrant (s : State) (n : NodeRec) (cell : Nat) (body : List Byte) : State :=
  if n.parent = 0 then
    let (q, s) := s.takeSeq
    s.hold {
      grove := n.grove, cell := .join (cell % 32), dest := 0xFFFE, joiner := n.eui, type := 0x02, load := .grant n.eui
      left := s.maxRetry, payload := linkHeader 0x02 0 0xFFFE q ++ body }
  else
    match s.nodeAt n.parent with
    | some p => s.sendNode p .prompt 0x02 (le 8 n.eui ++ le 1 cell ++ body) (.grant n.eui) 0
    | none => s

/-- A grant that admits nobody: NO_CAPACITY or NOT_AUTHORISED (R150). -/
def State.refuseJoin (s : State) (n : NodeRec) (cell nonce : Nat) (r : Reason) : State :=
  let n := { n with short := 0xFFFF, phi := 0, cls := 0 }
  s.sendGrant n cell (s.grantBody r false n s.key.generation 0 nonce)

/-- Admit a joiner at a ledger place (R150, R151, R156, R158): the entry, the grant, the REGULATORY item, the schedule,
and what the tables give the node. -/
def State.admitJoin (s : State) (n : NodeRec) (key : Nat) (kept : Bool) (b : List Byte) (t : Nat) : State :=
  let nonce := ofLe (slice 8 4 b)
  let x := ofLe (slice 19 2 b)
  let valid := bit 1 (oct 18 b)
  let short := key + 0x1000
  let s := (s.countJoin t).takeEntry n key kept (ofTwos 16 (ofLe (slice 21 2 b)))
  let change (m : NodeRec) : NodeRec := { m with
    grove := n.grove, short := short, parent := n.parent, hop := n.hop
    phi := if valid then s.phi x else 0
    cls := if valid then s.phaseClass x else 0
    nonce := some nonce, grantCn := s.cn, heard := false, missed := 0, departures := 0, digest := none, agreed := false
    firmware := ofLe (slice 12 4 b), model := ofLe (slice 16 2 b), reroute := false, faults := [] }
  let s := s.modNode n.eui change
  let m := change ((s.nodeOf n.eui).getD n)
  let s := s.setLink m .joining
  let s := s.iff (valid && s.phaseUncertain x) fun s => s.recordNode n.grove short 0 1 x .ok
  let s := s.sendGrant m (oct 30 b) (s.grantBody .ok false m s.key.generation 0 nonce)
  let phase : Item := { id := 0x0102, content := le 2 m.phi ++ le 1 m.cls, effective := s.cn, acked := true }
  let s := s.modNode n.eui fun m => m.putItem s.cn phase
  let s := (s.sendItem n.eui 0x0004 s.rad.profile.octets s.cn).sendSchedule n.eui
  s.configureNode n.eui s.cn

/-- A violation of a joiner, counted per grove and by the transceiver (R126, R149). -/
def State.joinViolation (s : State) (g : Nat) : State :=
  let s := match s.trxOf g with
    | some t => s.modTrx t fun x => { x with viol := bump x.viol }
    | none => s
  { s with rad := { s.rad with groveViol := lmod bump g s.rad.groveViol } }

/-- A JOIN_REQ of 32 octets is judged (R149, R150). -/
def State.judgeJoin (s : State) (g proxy : Nat) (b : List Byte) (mic : Bool) : State :=
  let eui := ofLe (slice 0 8 b)
  let nonce := ofLe (slice 8 4 b)
  let hop : Option Nat := if proxy = 0 then some 0 else match s.nodeAt proxy with
    | some p => if p.state = .scheduled ∧ p.grove = g ∧ p.hop ≤ 7 then some p.hop else none
    | none => none
  match s.admission eui, hop, s.trxOf g with
  | some a, some h, some t =>
    let old := match s.nodeOf eui with
      | some n => match n.nonce with
        | some m => decide (nonce ≤ m)
        | none => false
      | none => false
    if !mic || old then s.joinViolation g
    else
      let s := s.knowNode eui
      let n := { (s.nodeOf eui).getD { eui := eui } with grove := g, parent := proxy, hop := h + 1 }
      if bit 0 (oct 26 a) then
        (s.modNode eui fun n => { n with nonce := some nonce }).refuseJoin n (oct 30 b) nonce .notAuthorised
      else if 24 ≤ s.joinsNow t then { s with rad := { s.rad with deferred := lmod (· + 1) g s.rad.deferred } }
      else
        match s.ownEntry g eui with
        | some key => s.admitJoin n key true b t
        | none =>
          let free := (upFrom (512 * g) 512).filter s.openEntry
          if free = [] then
            (s.modNode eui fun n => { n with nonce := some nonce }).refuseJoin n (oct 30 b) nonce .noCapacity
          else
            let (key, s) := s.pickOne free
            s.admitJoin n key false b t
  | _, _, _ => s

/-- JOIN_REQ (R149): a joiner's own, with bytes 29 to 31 filled by the module and proxy 0, or one that a proxy relays. -/
def execJoinReq (grove : Fin 8) (proxy seq : BitVec 16) (body : List Byte) (mic : Bool) (s : State) :
    Host.Outcome State Fault Refusal :=
  .next (s.whenLive fun s =>
    if !s.admitsJoins grove.val then s
    else if proxy.toNat = 0 then
      if body.length = 32 then s.judgeJoin grove.val 0 body mic else s.joinViolation grove.val
    else
      s.linkMsg 0x01 32 { short := proxy.toNat, seq := seq.toNat, body := body } (fun b => decide (b.length = 32)) fun _ s =>
        s.judgeJoin grove.val proxy.toNat body mic)

/-! Items (R159, R160, R162). -/

/-- Send an item again by unicast (R159): the schedule as a new one, an ahead-list by ROUTE_LOAD, others by PROFILE. -/
def State.resendItem (s : State) (eui id : Nat) (content : List Byte) : State :=
  if id = 0x0100 then s.sendSchedule eui
  else if 0x0200 ≤ id ∧ id ≤ 0x0203 then
    match s.nodeOf eui with
    | none => s
    | some n =>
      let body := if content = [] then le 1 (id - 0x0200) ++ le 5 s.cn ++ List.replicate 11 0
        else content.take 1 ++ le 5 s.cn ++ content.drop 1
      let s := s.modNode eui fun n => n.putItem s.cn { id := id, content := content, effective := s.cn, acked := false }
      s.sendNode n .bulk 0x10 body (.item eui id true) 0
  else s.sendItem eui id content s.cn

/-- Ask a node for the hashes of its items from an id on (R162). -/
def State.queryDigest (s : State) (eui first : Nat) : State :=
  match s.nodeOf eui with
  | none => s
  | some n =>
    (s.modNode eui fun n => { n with asked := first }).sendNode n .bulk 0x11 (le 2 first ++ le 1 7) .other 0

/-- First 4 octets of SHA-256 over an item (R162). -/
def itemHash (id : Nat) (content : List Byte) : Nat :=
  ofLe ((octets256 (Config.sha256 (itemOctets id content))).take 4)

/-- Entries of a DIGEST_QUERY answer: id and hash. -/
def queryEntries (b : List Byte) : List (Nat × Nat) :=
  (upFrom 0 (oct 0 b)).map fun i => (ofLe (slice (2 + 6 * i) 2 b), ofLe (slice (4 + 6 * i) 4 b))

/-- Compare a node's items with those it is to hold, resend those that differ, remove those it is not to hold, and ask on
while it has more (R159, R162). -/
def State.compareItems (s : State) (n : NodeRec) (b : List Byte) : State :=
  let es := queryEntries b
  let more := bit 0 (oct 1 b)
  let last := if more then maxOf (es.map Prod.fst) else 0xFFFF
  let mine := n.ids.filter fun i => !transient i && decide (n.asked ≤ i) && decide (i ≤ last)
  let s := forEach (fun i s => match n.content s.cn i with
    | some c => if es.any fun e => decide (e.1 = i) && decide (e.2 = itemHash i c) then s else s.resendItem n.eui i c
    | none => s) mine s
  let foreign := es.filter fun e => (n.content s.cn e.1).isNone && !transient e.1
  let s := forEach (fun e s => s.resendItem n.eui e.1 []) foreign s
  if more then s.queryDigest n.eui (last + 1) else s

/-- DIGEST_QUERY (R162): a node's answer. -/
def execDigestQuery (msg : LinkMsg) (s : State) : Host.Outcome State Fault Refusal :=
  .next (s.whenLive fun s =>
    s.linkMsg 0x11 44 msg (fun b => decide (2 ≤ b.length) && decide (oct 0 b ≤ 7) && decide (b.length = 2 + 6 * oct 0 b))
      fun n s => s.compareItems n msg.body)

/-! KEEPALIVE (R163, R164). -/

/-- A crossing offset departs from a granted phase by more than 1/32 cycle (R163): in nanoseconds times 65,536. -/
def State.departs (s : State) (phi x : Nat) : Bool :=
  let round := 65536 * max 1 s.period
  let a := 65536 * 1000 * x % round
  let b := phi * max 1 s.period % round
  decide (2048 * max 1 s.period < min ((a + round - b) % round) ((b + round - a) % round))

/-- The crossing offset of a KEEPALIVE (R163): the second departure in a row brings a new PHASE item. -/
def State.checkPhase (s : State) (n : NodeRec) (x : Nat) : State :=
  if s.departs n.phi x then
    if n.departures + 1 < 2 then s.modNode n.eui fun n => { n with departures := n.departures + 1 }
    else
      let phi := s.phi x
      let cls := s.phaseClass x
      (s.modNode n.eui fun n => { n with departures := 0, phi := phi, cls := cls }).sendItem n.eui 0x0102
        (le 2 phi ++ le 1 cls) s.cn
  else s.modNode n.eui fun n => { n with departures := 0 }

/-- The node digest of a KEEPALIVE (R159): agreement, or a DIGEST_QUERY. -/
def State.checkDigest (s : State) (n : NodeRec) (digest : Nat) : State :=
  let same := decide (digest = n.digestAt s.cn)
  let note (i : Item) : Item := if same && decide (i.effective ≤ s.cn) then { i with acked := true } else i
  let s := s.modNode n.eui fun n => { n with digest := some digest, agreed := same, items := n.items.map note }
  if same then s else s.queryDigest n.eui 0

/-- A KEEPALIVE is processed (R159, R163, R164, R184). -/
def State.keepalive (s : State) (n : NodeRec) (b : List Byte) : State :=
  let s := s.modEntry n.short fun e => { e with drift := ofTwos 16 (ofLe (slice 16 2 b)) }
  let s := s.modNode n.eui fun n => { n with
    level := ofLe (slice 20 2 b), status := ofLe (slice 22 2 b), rssi := ofTwos 8 (oct 24 b), etx := oct 25 b
    temperature := ofTwos 8 (oct 26 b), resets := oct 27 b, firmware := ofLe (slice 28 4 b), lastKeepalive := s.cn }
  let s := s.checkDigest n (ofLe (slice 0 16 b))
  let s := s.checkPhase n (ofLe (slice 18 2 b))
  if n.state = .joining then ((s.setLink n .scheduled).carryReleased n.short).checkRejoin else s.checkRejoin

/-- KEEPALIVE (R164). -/
def execKeepalive (msg : LinkMsg) (s : State) : Host.Outcome State Fault Refusal :=
  .next (s.whenLive fun s =>
    s.linkMsg 0x04 32 msg (fun b => decide (b.length = 32)) fun n s => s.keepalive n msg.body)

/-! REPORT (R173). -/

/-- A REPORT body has the form of its kind (Table 4.12). -/
def reportOk (b : List Byte) : Bool :=
  let c := oct 6 b
  decide (7 ≤ b.length) && (match oct 0 b with
    | 1 => decide (1 ≤ c) && decide (c ≤ 12) && decide (oct 7 b ≤ 7) && decide (b.length = 13 + 2 * c)
    | 2 => decide (b.length = 23) && decide (1 ≤ oct 10 b) && decide (oct 10 b ≤ 4)
    | 3 => decide (c ≤ 7) && decide (b.length = 7 + 5 * c)
    | 4 => decide (b.length = 10)
    | 5 => decide (b.length = 15)
    | _ => false)

/-- An ENERGY report reaches the balances of the node's feeder (R336 to R338). -/
def State.energyReport (s : State) (n : NodeRec) (b : List Byte) : State :=
  match s.feederOf n.eui with
  | none => s
  | some f =>
    let c := oct 6 b
    let scale := oct 7 b
    let first := ofLe (slice 1 5 b)
    let step := match n.content s.cn 0x0003 with
      | some p => max 1 (ofLe (slice 0 2 p))
      | none => 3000
    let bad := decide (oct (12 + 2 * c) b % 4 ≠ 0)
    let energies := (upFrom 0 c).map fun i => (first + i * step, ofLe (slice (8 + 2 * i) 2 b) * 2 ^ scale)
    let take (x : Balance) : Balance :=
      match energies.find? fun e => decide (e.1 = x.cn) with
      | some e =>
        if x.nodes.any fun y => decide (y.1 = n.eui) then
          { x with reports := tput n.eui e.2 x.reports, bad := if bad then rising (n.eui :: x.bad) else x.bad }
        else x
      | none => x
    (s.modBal f fun y => { y with open_ := y.open_.map take }).closeWhole f

/-- Sensors of a node that serve a list, by its SENSOR item (Table 7.9). -/
def NodeRec.sensorsFor (n : NodeRec) (cn : Cn) (list : Nat) : List Nat :=
  match n.content cn 0x0020 with
  | some c => (upFrom 0 (min 4 (oct 0 c))).filter fun j => bit list (oct (13 + 4 * j) c)
  | none => []

/-- A report's CN stamp lies in the bin that runs (R291). -/
def State.inBin (s : State) (cn : Cn) : Bool :=
  match s.dim.bin with
  | some x => decide (s.binAt cn = some x)
  | none => false

/-- Detections of a PRESENCE report count at the node's positions (R291). -/
def State.presenceReport (s : State) (n : NodeRec) (b : List Byte) : State :=
  if !s.inBin (ofLe (slice 1 5 b)) then s
  else
    forEach (fun e s =>
      match (routeMembers e).findIdx? fun m => decide (m = n.eui) with
      | some p =>
        let mine := (n.sensorsFor s.cn (s.routeList e n.eui)).filter fun j => decide (j < oct 10 b)
        let d := (mine.map fun j => ofLe (slice (11 + 2 * j) 2 b)).sum
        let r := s.route e
        if routeLearns e then s.putRoute { r with detections := tput p ((tget p r.detections).getD 0 + d) r.detections } else s
      | none => s) (s.inForce 0x0014) s

/-- Waves of a WAVES report count in their route's bin (R291). -/
def State.wavesReport (s : State) (b : List Byte) : State :=
  if !s.inBin (ofLe (slice 1 5 b)) then s
  else
    match s.routeEntry (ofLe (slice 6 2 b)) with
    | some e =>
      let waves := ofLe (slice 9 2 b)
      let speed := ofLe (slice 11 2 b)
      let r := s.route e
      if speed ≠ 0 ∧ routeLearns e = true then
        s.putRoute { r with waves := r.waves + waves, speedSum := r.speedSum + waves * speed }
      else s
    | none => s

/-- A NEIGHBOURS report is kept, and gaps of the node's routes are judged (R284). -/
def State.neighboursReport (s : State) (n : NodeRec) (b : List Byte) : State :=
  let l := (upFrom 0 (oct 6 b)).map fun i => (ofLe (slice (7 + 5 * i) 2 b), oct (11 + 5 * i) b)
  (s.modNode n.eui fun n => { n with neighbours := l }).judgeGaps n.eui

/-- REPORT (R173). -/
def execReport (msg : LinkMsg) (s : State) : Host.Outcome State Fault Refusal :=
  .next (s.whenLive fun s =>
    s.linkMsg 0x07 42 msg reportOk fun n s =>
      match oct 0 msg.body with
      | 1 => s.energyReport n msg.body
      | 2 => s.presenceReport n msg.body
      | 3 => s.neighboursReport n msg.body
      | 5 => s.wavesReport msg.body
      | _ => s)

/-! TALLY (R170 to R172, R209 to R213). -/

/-- Non-OK entries of a TALLY: short address and reason. -/
def tallyEntries (b : List Byte) : List (Nat × Nat) :=
  (upFrom 0 (oct 9 b)).map fun i => (ofLe (slice (10 + 3 * i) 2 b), oct (12 + 3 * i) b)

/-- A node lies below another, or is it (R171). -/
def State.below (s : State) (top short : Nat) : Bool :=
  (s.pathTo short 7).contains top

/-- The result a target reports (Table 5.9): OK; BUSY as preempted; anything else breaks the promise. -/
def Promise.resolve (p : Promise) (short : Nat) (reason : Option Reason) : Promise :=
  p.modOpen fun t =>
    if t.short ≠ short then t
    else match reason with
      | some .ok =>
        if t.silent ∨ t.radioLoss then { t with result := some .promiseBroken, cause := p.cause t } else { t with result := some .ok }
      | some .busy => if p.reset then { t with result := some .promiseBroken, cause := p.cause t }
        else { t with result := some .busy, preempted := true }
      | _ => { t with result := some .promiseBroken, cause := p.cause t }

/-- A target's result comes in: a SAFETY LEVEL it applied preempts there (R209); a late application learned by a QUERY is
recorded (R213). -/
def State.targetResult (s : State) (p : Promise) (short : Nat) (reason : Option Reason) : State :=
  match p.targets.find? fun t => decide (t.short = short) with
  | none => s
  | some t =>
    let late := decide (0 < t.queries) && (decide (reason = some .tooLate)
      || (decide (reason = some .ok) && decide (t.result = some .promiseBroken)))
    let s := s.iff late fun s =>
      let st := match s.nodeAt short with
        | some n => linkStateCode n.state
        | none => 5
      s.recordNode (shortGrove short) short st 4 p.tx .ok
    let s := s.modPromise p.id fun p => p.resolve short reason
    s.iff (decide (reason = some .ok) && decide (p.cls = .safety) && !p.release && t.result.isNone) fun s => s.preempt short

/-- Ask the targets of a subtree that have no result (R172, R210). -/
def State.queryBelow (s : State) (p : Promise) (top : Nat) : State :=
  forEach (fun t s =>
    if t.result.isNone && decide (t.queries = 0) && s.below top t.short then
      (s.modPromise p.id (Promise.modOpen fun x => if x.short = t.short then { x with queries := 1, queryCn := s.cn } else x)).query
        p t.short
    else s) p.targets s

/-- A TALLY is taken (R170 to R172, R210): listed targets get their result, a child listed absent is resolved by QUERYs,
and with the last part the rest of the subtree is OK. -/
def State.tally (s : State) (n : NodeRec) (b : List Byte) : State :=
  match s.adm.promises.find? fun p => decide (p.id = ofLe (slice 0 4 b)) with
  | none => s.radViolation (shortGrove n.short) n.short 0x09 .malformed
  | some p =>
    let es := tallyEntries b
    let unicast := bit 1 (oct 8 b)
    if unicast then
      match es.head? with
      | some e => (s.targetResult p e.1 (reasonOf e.2)).settleOutcomes
      | none => (s.targetResult p n.short (some .ok)).settleOutcomes
    else
      let absent := (es.filter fun e => decide (e.2 = 0x09)).map Prod.fst
      let s := forEach (fun e s => if e.2 = 0x09 then s.queryBelow p e.1 else s.targetResult p e.1 (reasonOf e.2)) es s
      let s := if bit 0 (oct 8 b) then s
        else
          let p := (s.adm.promises.find? fun x => decide (x.id = p.id)).getD p
          let reached := p.targets.filter fun t => t.result.isNone && decide (t.queries = 0) && s.below n.short t.short
            && !(absent.any fun a => s.below a t.short)
          forEach (fun t s => s.targetResult p t.short (some .ok)) reached s
      s.settleOutcomes

/-- TALLY (R171). -/
def execTally (msg : LinkMsg) (s : State) : Host.Outcome State Fault Refusal :=
  .next (s.whenLive fun s =>
    s.linkMsg 0x09 46 msg (fun b => decide (10 ≤ b.length) && decide (oct 9 b ≤ 12) && decide (b.length = 10 + 3 * oct 9 b))
      fun n s => s.tally n msg.body)

/-! NAK, FAULT, CHUNK_STATE (R176, R178, R179, R181). -/

/-- A caravan's OFFER or CHUNK is refused by a node (R178): its reason is kept. -/
def State.caravanNak (s : State) (eui seq : Nat) (reason : Reason) : State :=
  let one (n : CarNode) : CarNode := if n.eui = eui ∧ n.offer = some seq then { n with reason := reason } else n
  { s with upd := { s.upd with caravans := s.upd.caravans.map fun p => (p.1, { p.2 with nodes := p.2.nodes.map one }) } }

/-- Targets reached only through a relay that does not answer stop answering (R140, R213). -/
def State.relayGone (s : State) (short : Nat) : State :=
  forEach (fun p s =>
    if p.ask.flooded p.cls then s
    else forEach (fun t s => if t.result.isNone && s.below short t.short then s.markSilent p.id t.short else s) p.targets s)
    s.adm.promises s

/-- A NAK (R153, R160, R178, R181): an item that was malformed on arrival is sent again; an unreachable node makes the
targets behind it silent; a refused caravan keeps its reason. -/
def State.takeNak (s : State) (n : NodeRec) (b : List Byte) : State :=
  let type := oct 0 b
  let reason := (reasonOf (oct 3 b)).getD .unsupported
  let detail := ofLe (slice 4 2 b)
  if type = 0x0A then s.caravanNak n.eui (ofLe (slice 1 2 b)) reason
  else if type = 0x06 ∧ reason = .malformed then
    match n.coming detail with
    | some c => s.resendItem n.eui detail c
    | none => s
  else if reason = .targetAbsent ∧ type ≠ 0x02 then s.relayGone detail
  else s

def execNak (msg : LinkMsg) (s : State) : Host.Outcome State Fault Refusal :=
  .next (s.whenLive fun s =>
    s.linkMsg 0x0F 6 msg (fun b => decide (b.length = 6)) fun n s => s.takeNak n msg.body)

/-- FAULT (R176): the faults a node has raised and not cleared. -/
def execFault (msg : LinkMsg) (s : State) : Host.Outcome State Fault Refusal :=
  .next (s.whenLive fun s =>
    s.linkMsg 0x0E 11 msg (fun b => decide (b.length = 11) && decide (oct 1 b ≤ 1)) fun n s =>
      let code := oct 0 msg.body
      s.modNode n.eui fun n => { n with
        faults := if oct 1 msg.body = 1 then rising (code :: n.faults) else n.faults.filter fun c => decide (c ≠ code) })

/-- A node's bitmap with 256 chunks from a base replaced. -/
def setChunks (old base bits : Nat) : Nat :=
  old % 2 ^ base + bits * 2 ^ base + old / 2 ^ (base + 256) * 2 ^ (base + 256)

/-- Every node of a caravan's model known to receive it holds it (Table 15.13). -/
def Caravan.settle (c : Caravan) : Caravan :=
  if c.state = .transferring ∧ c.nodes ≠ [] ∧ c.nodes.all CarNode.complete = true then { c with state := .heldByAll } else c

/-- A node's CHUNK_STATE (R179, R521). -/
def State.chunkState (s : State) (n : NodeRec) (m : LinkMsg) : State :=
  let b := m.body
  match s.upd.findCaravan (ofLe (slice 0 4 b)) with
  | none => s.nak m.short 0x0C m.seq .unsupported 0
  | some (_, c) =>
    if c.state = .ended then s.nak m.short 0x0C m.seq .unsupported 0
    else
      let held := ofLe (slice 6 2 b)
      let change (x : CarNode) : CarNode := { x with
        bitmap := setChunks x.bitmap (ofLe (slice 4 2 b)) (ofLe (slice 8 32 b))
        held := held, complete := x.complete || decide (c.count ≤ held) }
      s.modCaravan c.id fun c =>
        let known := c.nodes.any fun x => decide (x.eui = n.eui)
        let nodes := if known then c.nodes else c.nodes ++ [{ eui := n.eui }]
        Caravan.settle { c with nodes := nodes.map fun x => if x.eui = n.eui then change x else x }

def execChunkState (msg : LinkMsg) (s : State) : Host.Outcome State Fault Refusal :=
  .next (s.whenLive fun s =>
    s.linkMsg 0x0C 40 msg (fun b => decide (b.length = 40)) fun n s => s.chunkState n msg)

/-! Timers (R184). -/

/-- The cycles of 24 h. -/
def State.dayCycles (s : State) : Nat :=
  s.secondsInCycles 86400

/-- A node's entry becomes FREE and stays reserved to it for 24 h (R184). -/
def State.reserveEntry (s : State) (short : Nat) : State :=
  s.modEntry short fun e => { e with state := .free, reserved := some (s.cn + s.dayCycles) }

/-- GRANT_KEEPALIVE_TIMEOUT (R184): no KEEPALIVE came within the wait after the grant. -/
def execGrantKeepaliveTimeout (short : BitVec 16) (s : State) : Host.Outcome State Fault Refusal :=
  .next (s.whenLive fun s =>
    match s.nodeAt short.toNat with
    | some n =>
      s.iff (decide (n.state = .joining) && decide (n.grantCn + s.can.site.grantWait ≤ s.cn)) fun s =>
        (s.reserveEntry n.short).setLink n .absent
    | none => s)

/-- Missed keepalive periods of a node do not count (R215, R281). -/
def State.missesExempt (s : State) (n : NodeRec) : Bool :=
  (match s.adm.rejoin with
    | some r => r.set.contains n.eui
    | none => false)
  || (match s.feederOf n.eui with
    | some f => s.feederExempt f
    | none => false)

/-- A keepalive period of a node was missed (Table 4.15): the third makes it STRAY, the last LOST. -/
def State.missedPeriod (s : State) (n : NodeRec) : State :=
  let m := n.missed + 1
  let s := s.modNode n.eui fun n => { n with missed := m }
  if n.state = .scheduled ∧ 3 ≤ m then s.setLink n .stray
  else if n.state = .stray ∧ s.can.site.lostPeriods ≤ m then ((s.reserveEntry n.short).setLink n .lost).checkRejoin
  else s

/-- KEEPALIVE_PERIOD_END (R184). -/
def execKeepalivePeriodEnd (short : BitVec 16) (s : State) : Host.Outcome State Fault Refusal :=
  .next (s.whenLive fun s =>
    match s.nodeAt short.toNat with
    | some n =>
      s.iff ((decide (n.state = .scheduled) || decide (n.state = .stray)) && decide (s.cn % max 1 n.period = n.phase % max 1 n.period))
        fun s =>
          let t := s.modNode n.eui fun n => { n with heard := false }
          if n.heard then t.modNode n.eui fun n => { n with missed := 0 }
          else if s.missesExempt n then t
          else t.missedPeriod n
    | none => s)

/-- RESERVATION_END (R184): 24 h after it became FREE an entry is reserved no more. -/
def execReservationEnd (place : Fin 4096) (s : State) : Host.Outcome State Fault Refusal :=
  .next (s.whenLive fun s =>
    match tget place.val s.rad.ledger with
    | some e => match e.reserved with
      | some r => s.iff (decide (e.state = .free) && decide (r ≤ s.cn)) fun s =>
          { s with rad := { s.rad with ledger := tput place.val { e with reserved := none } s.rad.ledger } }
      | none => s
    | none => s)

/-! Re-routing (R213). -/

/-- A node the module may make the parent of another: SCHEDULED, of its grove, at hop 7 or nearer, not below it, reported
as its neighbour. -/
def State.newParents (s : State) (n : NodeRec) : List Nat :=
  (n.neighbours.map Prod.fst).filter fun x => decide (x ≠ n.parent) && (match s.nodeAt x with
    | some p => decide (p.state = .scheduled) && decide (p.grove = n.grove) && decide (p.hop ≤ 7) && !s.below n.short x
    | none => false)

/-- Re-route a node that stopped answering: a new parent, and the hops of those below it follow; the engines choose among
the neighbours it reported. -/
def State.reroute (s : State) (n : NodeRec) : State :=
  let s := s.modNode n.eui fun n => { n with reroute := false }
  let l := s.newParents n
  if l = [] ∨ n.state ≠ .scheduled then s
  else
    let (x, s) := s.pickOne l
    let hop := match s.nodeAt x with
      | some p => p.hop + 1
      | none => 1
    let moved := s.node.nodes.filter fun m => decide (m.grove = n.grove) && decide (m.state = .scheduled) && s.below n.short m.short
    let s := forEach (fun m s => s.modNode m.eui fun m => { m with
      hop := m.hop + hop - n.hop, parent := if m.eui = n.eui then x else m.parent }) moved s
    forEach (fun m s => s.sendSchedule m.eui) moved s

/-- Re-route every node marked for it. -/
def State.rerouteAll (s : State) : State :=
  forEach (fun n s => if n.reroute then s.reroute n else s) s.node.nodes s

end Sys2Proof.Machine
end

