-- ==== Sys2Proof/Machine/Tables6.lean ====
section
/-! DEFINITION. The configuration tables (06, 07): the form of their entries, how a CONFIG_PUT changes them, what they read
as, and what happens when a new content comes into force. -/

namespace Sys2Proof.Machine

/-! The form of the tables (R250, R251, R262, R266, R271, R272, R276, R278, R282). -/

/-- Cut octets into entries by a length that an entry's own octets give (0 where they do not form one). -/
def cutEntries (len : List Byte → Nat) : Nat → List Byte → Option (List (List Byte))
  | 0, l => if l = [] then some [] else none
  | fuel + 1, l =>
    if l = [] then some []
    else if len l = 0 ∨ l.length < len l then none
    else (cutEntries len fuel (l.drop (len l))).map fun r => l.take (len l) :: r

/-- Word of two octets of an entry. -/
def w16 (i : Nat) (l : List Byte) : Nat :=
  ofLe (slice i 2 l)

/-- Word of four octets of an entry. -/
def w32 (i : Nat) (l : List Byte) : Nat :=
  ofLe (slice i 4 l)

/-- Days of the offset entries rise. -/
def strictly : List Nat → Bool
  | x :: y :: r => decide (x < y) && strictly (y :: r)
  | _ => true

/-- A CALENDAR record (Table 7.1). -/
def calendarOk (l : List Byte) : Bool :=
  let o := w16 8 l
  let n := w16 10 l
  decide (12 ≤ l.length) && decide (1 ≤ o) && decide (o ≤ 64) && decide (n ≤ 1024) && decide (l.length = 12 + 8 * o + 5 * n)
    && (upFrom 0 7).all (fun i => decide (oct i l ≤ 7)) && decide (oct 7 l = 0)
    && strictly ((upFrom 0 o).map fun i => w32 (12 + 8 * i) l)
    && (upFrom 0 o).all (fun i => decide ((ofTwos 32 (w32 (16 + 8 * i) l)).natAbs ≤ 50400))
    && (upFrom 0 n).all (fun i => decide (oct (12 + 8 * o + 5 * i + 4) l ≤ 7))

/-- A level profile after its group and number (Table 7.2); no steps only in a removal entry. -/
def profileOk (p : List Byte) : Bool :=
  let n := oct 1 p
  decide (p.length = 2 + 10 * n) && decide (n ≤ 32)
    && (upFrom 0 n).all fun i => decide (oct (2 + 10 * i) p ≤ 2) && decide (oct (3 + 10 * i) p = 0) && decide (w16 (8 + 10 * i) p ≤ 10000)

/-- A SAFE_LEVELS record (Table 7.4). -/
def safeLevelsOk (l : List Byte) : Bool :=
  let c := w16 16 l
  decide (18 ≤ l.length) && decide (c ≤ 64) && decide (l.length = 18 + 4 * c)
    && decide (w16 0 l ≤ 10000) && decide (w16 2 l ≤ 10000) && decide (3000 ≤ w32 4 l) && decide (w32 4 l ≤ 4320000)
    && decide (w16 8 l ≤ 10000) && decide (w16 10 l ≤ 10000) && (upFrom 12 4).all (fun i => decide (oct i l ≤ 2))
    && (upFrom 0 c).all fun i => decide (w16 (20 + 4 * i) l ≤ 10000)

/-- A ROUTES entry (Table 7.8); no positions only in a removal entry. -/
def routeOk (e : List Byte) : Bool :=
  let m := oct 3 e
  decide (e.length = 28 + 8 * m) && (decide (m = 0)
    || (decide (2 ≤ m) && decide (oct 2 e ≤ 3) && decide (oct 23 e = 0) && decide (w16 14 e ≤ 10000) && decide (w16 16 e ≤ 10000)
        && decide (1 ≤ oct 22 e) && decide (oct 22 e ≤ 8)))

/-- A CONTACTORS entry (Table 7.6, R278). -/
def contactorOk (e : List Byte) : Bool :=
  decide (oct 0 e = 0xFF)
    || (decide (oct 0 e ≤ 3) && decide (oct 1 e ≤ 3) && decide (oct 2 e ≤ 3) && decide (2 ≤ oct 3 e) && decide (oct 3 e ≤ 50)
        && decide (50 ≤ w16 14 e) && decide (w16 14 e ≤ 60000))

/-- An FSP_PATHS record (R262). -/
def pathsOk (l : List Byte) : Bool :=
  decide (l.length = 173) && decide (115200 ≤ w32 0 l) && decide (w32 0 l ≤ 921600) && decide (250 ≤ w16 4 l)
    && decide (w16 4 l ≤ 60000) && decide (1500 ≤ w16 6 l) && decide (w16 6 l ≤ 60000) && decide (oct 8 l ≤ 1)

/-- The whole content as one record where it has its form. -/
def single (ok : List Byte → Bool) (l : List Byte) : Option (List (List Byte)) :=
  if ok l then some [l] else none

/-- The entries where every one of them has its form. -/
def eachOk (ok : List Byte → Bool) (x : Option (List (List Byte))) : Option (List (List Byte)) :=
  match x with
  | some l => if l.all ok then some l else none
  | none => none

/-- The entries of a table's content (Table 6.6); `none` where it is malformed. -/
def entriesOf (id : Nat) (l : List Byte) : Option (List (List Byte)) :=
  let n := l.length
  if id = 0x0001 then eachOk (fun e => decide (oct 26 e ≤ 3)) (cutEntries (fun _ => 27) n l)
  else if id = 0x0010 then single calendarOk l
  else if id = 0x0011 then
    eachOk (fun e => decide (w16 0 e ≠ 0xFFFF) && decide (oct 2 e ≤ 15) && profileOk (e.drop 3))
      (cutEntries (fun e => 5 + 10 * oct 4 e) n l)
  else if id = 0x0012 then
    eachOk (fun e => (decide (oct 8 e ≤ 3) || decide (oct 8 e = 0xFF)) && decide (oct 9 e ≤ 8)
        && (upFrom 0 (oct 9 e)).all fun i => decide (w16 (10 + 2 * i) e ≠ 0xFFFF))
      (cutEntries (fun e => 10 + 2 * oct 9 e) n l)
  else if id = 0x0013 then single safeLevelsOk l
  else if id = 0x0014 then eachOk routeOk (cutEntries (fun e => 28 + 8 * oct 3 e) n l)
  else if id = 0x0015 then if n = 64 then eachOk contactorOk (cutEntries (fun _ => 16) n l) else none
  else if id = 0x0020 then cutEntries (fun _ => 4) n l
  else if id = 0x0021 then single pathsOk l
  else none

/-- Table ids (Table 6.6). -/
def tableIds : List Nat :=
  [0x0001, 0x0010, 0x0011, 0x0012, 0x0013, 0x0014, 0x0015, 0x0020, 0x0021]

/-- The right a CONFIG_PUT of a table needs (Table 6.6). -/
def tableRight (id : Nat) : Role :=
  if id = 0x0013 ∨ id = 0x0015 ∨ id = 0x0021 then .installer else .operator

/-- A table that holds one record (Table 6.11). -/
def singleTable (id : Nat) : Bool :=
  [0x0010, 0x0013, 0x0015, 0x0021].contains id

/-- Entries a table holds at most (Table 6.11). -/
def tableCapacity (id : Nat) : Nat :=
  if id = 0x0001 ∨ id = 0x0012 then 8192
  else if id = 0x0011 then 1024
  else if id = 0x0014 then 64
  else if id = 0x0020 then 256
  else 4

/-- The key of an entry (Table 6.11). -/
def entryKey (id : Nat) (e : List Byte) : List Byte :=
  if id = 0x0001 ∨ id = 0x0012 then e.take 8
  else if id = 0x0011 then e.take 3
  else if id = 0x0014 then e.take 2
  else e

/-- An entry that removes the one with its key (Table 6.11). -/
def removal (id : Nat) (e : List Byte) : Bool :=
  if id = 0x0001 then bit 1 (oct 26 e)
  else if id = 0x0011 then decide (oct 4 e = 0)
  else if id = 0x0012 then decide (oct 9 e = 0)
  else if id = 0x0014 then decide (oct 3 e = 0)
  else false

/-- An entry as it is stored beside an older one of its key: a K_I of zeros keeps the stored one (R251). -/
def storedEntry (id : Nat) (old : Option (List Byte)) (e : List Byte) : List Byte :=
  if id = 0x0001 ∧ ofLe (slice 8 16 e) = 0 then
    match old with
    | some o => e.take 8 ++ slice 8 16 o ++ e.drop 24
    | none => e
  else e

/-- One entry applied to a table (R613). -/
def putEntry6 (id : Nat) (l : List (List Byte)) (e : List Byte) : List (List Byte) :=
  let same (x : List Byte) : Bool := decide (entryKey id x = entryKey id e)
  if removal id e then l.filter fun x => !same x
  else
    match l.find? same with
    | some o => if id = 0x0020 then l else l.map fun x => if same x then storedEntry id (some o) e else x
    | none => l ++ [storedEntry id none e]

/-- What a CONFIG_PUT makes of a table (R613). -/
def putTable (id : Nat) (replace : Bool) (old new : List (List Byte)) : List (List Byte) :=
  if singleTable id then new
  else (if replace then ([] : List (List Byte)) else old) |> fun base => new.foldl (putEntry6 id) base

/-- EUI-64s of the routes of a table stand on at most 4 routes, and once on each (R282). -/
def routesOk (l : List (List Byte)) : Bool :=
  let ms := l.map fun e => (routeMembers e).filter fun m => !localGroup m
  ms.all (fun m => decide ((rising m).length = m.length))
    && ms.all fun m => m.all fun x => decide (countIf (fun r => r.contains x) ms ≤ 4)

/-! What a table reads as (R252, R293, R401). -/

/-- The learned block of a route (R293): 8 day types by 48 bins. -/
def State.learnedBlock (s : State) (e : List Byte) : List Byte :=
  let r := s.route e
  ((upFrom 0 384).map fun i =>
    let x := tget i r.learned
    let t := s.tuningFor e x
    le 2 (x.elim 0 BinStat.volume) ++ le 2 (x.elim 0 BinStat.speed) ++ le 1 t.n ++ [0] ++ le 2 t.hold).flatten

/-- A table as CONFIG_GET returns it (R251, R252, R293). -/
def State.tableContent (s : State) (id : Nat) : List Byte :=
  let l := (s.table6 id).accepted
  if id = 0x0001 then (l.map fun e => e.take 8 ++ List.replicate 16 0 ++ e.drop 24).flatten
  else if id = 0x0014 then (l.map fun e => e ++ s.learnedBlock e).flatten
  else l.flatten

/-- A table as the settings digest takes it (R401). -/
def State.digestContent (s : State) (id : Nat) : List Byte :=
  let l := (s.table6 id).accepted
  if id = 0x0001 then
    (l.map fun e => e.take 8 ++ (octets256 (Config.sha256 (slice 8 16 e))).take 16 ++ e.drop 24).flatten
  else l.flatten

/-- The settings digest (R401). -/
def State.settingsDigest (s : State) : BitVec 256 :=
  Config.sha256 ((tableIds.map fun id =>
    let c := s.digestContent id
    le 2 id ++ le 4 c.length ++ c).flatten)

/-- Insert a node by its EUI-64. -/
def insertNode (n : NodeRec) : List NodeRec → List NodeRec
  | [] => [n]
  | m :: r => if n.eui ≤ m.eui then n :: m :: r else m :: insertNode n r

/-- Nodes in ascending EUI-64. -/
def byEui (l : List NodeRec) : List NodeRec :=
  l.foldl (fun a n => insertNode n a) []

/-- Nodes whose ledger entry is neither FREE nor EXCLUDED (R402), in ascending EUI-64. -/
def State.heldNodes (s : State) : List NodeRec :=
  byEui (s.node.nodes.filter fun n => match s.entry n.short with
    | some e => decide (e.eui = n.eui) && decide (e.state ≠ .free) && decide (e.state ≠ .excluded)
    | none => false)

/-- The segment digest (R402). -/
def State.segmentDigest (s : State) : BitVec 256 :=
  let ns := s.heldNodes
  Config.sha256 (ascii "SEGD" ++ le 8 s.rad.eui ++ le 4 s.fsp.epoch ++ octets256 s.can.digest ++ octets256 s.settingsDigest
    ++ le 2 ns.length ++ (ns.map fun n => le 8 n.eui ++ le 16 (n.digest.getD 0)).flatten)

/-- Nodes whose digest disagrees (R253). -/
def State.disagreeing (s : State) : Nat :=
  countIf (fun n => !n.agrees s.cn) s.heldNodes

/-! A content comes into force. -/

/-- The epoch grows by one (R400). -/
def State.growEpoch (s : State) : State :=
  { s with fsp := { s.fsp with epoch := (s.fsp.epoch + 1) % 4294967296 } }

/-- A node leaves the admission table (R251): its ledger entry is FREE. -/
def State.removeNode (s : State) (eui : Nat) : State :=
  match s.nodeOf eui with
  | some n => ((s.modEntry n.short fun e => if e.eui = eui then { e with state := .free, reserved := none } else e).setLink n .absent)
  | none => s

/-- A node is excluded, or readmitted (R184, R251). -/
def State.excludeNode (s : State) (eui : Nat) : State :=
  let s := s.knowNode eui
  match s.nodeOf eui with
  | some n => (s.modEntry n.short fun e => if e.eui = eui then { e with state := .excluded } else e).setLink n .excluded
  | none => s

def State.readmitNode (s : State) (eui : Nat) : State :=
  match s.nodeOf eui with
  | some n => if n.state = .excluded then s.removeNode eui else s
  | none => s

/-- A new ADMISSION table: what it does to the nodes (R251). -/
def State.admissionChanged (s : State) (old new : List (List Byte)) : State :=
  let eui (e : List Byte) : Nat := ofLe (e.take 8)
  let flagged (l : List (List Byte)) (x : Nat) : Bool := l.any fun e => decide (eui e = x) && bit 0 (oct 26 e)
  let gone := (old.map eui).filter fun x => !(new.any fun e => decide (eui e = x))
  let s := forEach (fun x s => s.removeNode x) gone s
  (forEach (fun e s =>
    let x := eui e
    if bit 0 (oct 26 e) then (if flagged old x then s else s.excludeNode x)
    else if flagged old x then s.readmitNode x else s) new s).checkRejoin

/-- Bring every node that speaks to what the tables in force give it (R271, R272, R276). -/
def State.configureAll (s : State) (effective : Cn) : State :=
  forEach (fun n s => if n.speaks then s.configureNode n.eui effective else s) s.node.nodes s

/-- Replace a table's content in force. -/
def State.setInForce (s : State) (id : Nat) (l : List (List Byte)) : State :=
  { s with fsp := { s.fsp with tables := tput id { s.table6 id with inForce := l } s.fsp.tables } }

/-- A FAULT of a contactor ends with a CONFIG_PUT of CONTACTORS: it takes the state the feedback shows (Table 7.7). -/
def State.clearContactors (s : State) : State :=
  forEach (fun k s =>
    if (s.kc k).state = .fault then
      let closed := if s.kcNoFeedback k then (s.kc k).drive else s.kcClosed k
      (s.modKc k fun c => { c with state := if closed then .closed else .opened, pulse := false, disagree := 0 }).recordKc k false
    else s) (upFrom 0 4) s

/-- Static modes of contactors are planned like any change, 3,000 cycles ahead (R279). -/
def State.staticPlans (s : State) : State :=
  forEach (fun k s =>
    let m := s.kcMode k
    if (s.kcFeeder k).isSome && decide (m ≤ 1) && decide ((s.kc k).plan ≠ decide (m = 1)) then
      s.fixChange k (s.cn + 3000) (decide (m = 1))
    else s) (upFrom 0 4) s

/-- Ahead-lists a node holds beyond the routes it stands on are removed (R283). -/
def State.dropLists (s : State) (eui : Nat) : State :=
  let count := countIf (fun e => (routeMembers e).contains eui) (s.inForce 0x0014)
  match s.nodeOf eui with
  | none => s
  | some n => forEach (fun l s =>
      if (n.coming (0x0200 + l)).isSome then s.resendItem eui (0x0200 + l) [] else s) (upFrom count (4 - count)) s

/-- A new ROUTES table (R283, R293): learned blocks of a REPLACE, and of a route whose spacing or members changed, are
cleared; every list is reloaded. -/
def State.routesChanged (s : State) (old new : List (List Byte)) (replaced : Bool) : State :=
  let before (id : Nat) : Option (List Byte) := old.find? fun e => decide (routeId e = id)
  let one (e : List Byte) : RouteSt :=
    let r := s.route e
    let same := match before (routeId e) with
      | some o => decide (w16 4 o = w16 4 e) && decide (routeMembers o = routeMembers e)
      | none => false
    let r := if same && !replaced then r else { r with learned := [], detections := [], waves := 0, speedSum := 0, gaps := [] }
    { r with tuning := if before (routeId e) = some e then r.tuning else initialTuning e, dirty := true, reloaded := none }
  let s := { s with dim := { s.dim with routes := new.map one } }
  let members := rising ((old ++ new).map routeMembers).flatten
  forEach (fun m s => if localGroup m then s else s.dropLists m) members s

/-- The accepted content of a table comes into force (R249). -/
def State.enforceTable (s : State) (id : Nat) : State :=
  let t := s.table6 id
  let old := t.inForce
  let new := t.accepted
  let s := { s with fsp := { s.fsp with
    tables := tput id { t with inForce := new, effective := none, replaced := false } s.fsp.tables } }
  if id = 0x0001 then s.admissionChanged old new
  else if id = 0x0010 then { s with dim := { s.dim with flooded := none } }
  else if id = 0x0011 ∨ id = 0x0012 ∨ id = 0x0013 then s.configureAll s.cn
  else if id = 0x0014 then s.routesChanged old new t.replaced
  else if id = 0x0015 then s.staticPlans
  else s

/-- Node items that a content to come brings are sent ahead, with its effective CN (R158, R249). -/
def State.announceTable (s : State) (id : Nat) : State :=
  let t := s.table6 id
  match t.effective with
  | some e =>
    if id = 0x0011 ∨ id = 0x0012 ∨ id = 0x0013 then ((s.setInForce id t.accepted).configureAll e).setInForce id t.inForce else s
  | none => s

/-- At CYC the contents whose effective CN has come are in force (R249). -/
def State.configTick (s : State) : State :=
  forEach (fun id s => match (s.table6 id).effective with
    | some e => if e ≤ s.cn then s.enforceTable id else s
    | none => s) tableIds s

end Sys2Proof.Machine
end

