-- ==== Sys2Proof/Machine/Image.lean ====
section
/-! DEFINITION. Reading and checking a canopy image (R379 to R393). -/

namespace Sys2Proof.Machine

/-- Template ids (Table 10.1). -/
def templateCode : Template → Nat
  | .mac => 1
  | .linkCrypto => 2
  | .meterPipe => 3
  | .meterAcc => 4
  | .stringLoop => 5
  | .pattern => 6
  | .colour => 7
  | .ptp => 8
  | .waveRelay => 9
  | .dimmingAction => 10
  | .fieldIo => 11

/-- Every template. -/
def allTemplates : List Template :=
  [.mac, .linkCrypto, .meterPipe, .meterAcc, .stringLoop, .pattern, .colour, .ptp, .waveRelay, .dimmingAction, .fieldIo]

/-- The template of an id (Table 10.1). -/
def templateOf (id : Nat) : Option Template :=
  allTemplates.find? fun t => decide (templateCode t = id)

/-- Length of a parameter block (Table 10.1). -/
def blockLength : Template → Nat
  | .mac => 16
  | .meterAcc => 400
  | .colour => 260
  | .fieldIo => 8
  | _ => 4

/-- Least and greatest number of instances (Table 10.1). -/
def instances : Template → Nat × Nat
  | .mac => (1, 8)
  | .linkCrypto => (1, 8)
  | .meterPipe => (2, 2)
  | .meterAcc => (1, 1)
  | .stringLoop => (1, 8)
  | .pattern => (1, 2)
  | .colour => (0, 1)
  | .ptp => (1, 2)
  | .waveRelay => (0, 8)
  | .dimmingAction => (1, 1)
  | .fieldIo => (1, 1)

/-- Record types of Table 10.3. -/
def ImgRec.isType (r : ImgRec) (t : Nat) : Bool :=
  decide (r.type = t)

/-- Records of a type, with their index in the image; the header counts as record 0 (R392). -/
def numbered (l : List ImgRec) : List (Nat × ImgRec) :=
  (upFrom 1 l.length).zip l

def Image.ofType (im : Image) (t : Nat) : List ImgRec :=
  im.records.filter fun r => r.isType t

def Image.recordsOf (im : Image) (t : Nat) : List (Nat × ImgRec) :=
  (numbered im.records).filter fun p => p.2.isType t

/-! Reading. -/

/-- Octets up to the next multiple of 8 (R383). -/
def pad8 (n : Nat) : Nat :=
  (n + 7) / 8 * 8

/-- Cut records out of octets (R383); none where they do not frame the octets exactly. -/
def cutRecords : Nat → List Byte → Option (List ImgRec)
  | 0, l => if l.isEmpty then some [] else none
  | n + 1, l =>
    let len := w32 4 l
    let whole := 8 + pad8 len
    if l.length < whole ∨ oct 3 l ≠ 0 ∨ (slice (8 + len) (pad8 len - len) l).any (fun b => decide (b ≠ 0)) then none
    else (cutRecords n (l.drop whole)).map fun rest =>
      { type := w16 0 l, region := oct 2 l, content := slice 8 len l, octets := l.take whole } :: rest

/-- Octets of an image before its signature record (R391). -/
def signedOctets (l : List Byte) (records : List ImgRec) : List Byte :=
  match records.getLast? with
  | some r => if r.isType 0xFF then l.take (l.length - r.octets.length) else l
  | none => l

/-- Step 1 of Table 10.6: magic, header length, image length, records framed exactly to that length. The reserved and bounded
fields of the header are read here too (log 22). -/
def readImage (l : List Byte) : Option Image :=
  if l.length < 64 ∨ w32 0 l ≠ 0x59504E43 ∨ w16 6 l ≠ 64 ∨ w32 8 l ≠ l.length ∨ l.length % 8 ≠ 0 ∨ 4194304 < l.length
      ∨ w32 16 l = 0 ∨ 3 < oct 20 l ∨ oct 22 l < 1 ∨ 16 < oct 22 l ∨ oct 23 l ≠ 0 then none
  else (cutRecords (w32 12 l) (l.drop 64)).map fun records =>
    { seq := w32 16 l, builds := oct 20 l, nominal := oct 21 l, regions := oct 22 l, siteId := ofLe (slice 24 8 l)
      tset := ofOctets256 (slice 32 32 l), records := records, digest := Config.sha256 (signedOctets l records) }

/-- Format of the header (Table 10.2). -/
def imageFormat (l : List Byte) : Nat :=
  w16 4 l

/-! Records. -/

/-- A TILE record (R385): slot, template id, major version, region, block. -/
structure TileRec where
  slot : Nat
  id : Nat
  version : Nat
  region : Nat
  block : List Byte

def ImgRec.tile (r : ImgRec) : TileRec :=
  { slot := oct 0 r.content, id := oct 1 r.content, version := oct 2 r.content, region := r.region, block := r.content.drop 8 }

def Image.tiles (im : Image) : List TileRec :=
  (im.ofType 2).map ImgRec.tile

def TileRec.is (x : TileRec) (t : Template) : Bool :=
  decide (x.id = templateCode t)

def Image.tilesOf (im : Image) (t : Template) : List TileRec :=
  im.tiles.filter fun x => x.is t

/-- Unit a parameter block names: a number, or a mask (Table 10.1). -/
def TileRec.unit (x : TileRec) : Nat :=
  if x.id = 3 then w16 0 x.block else oct 0 x.block

/-- Slots of a region's record: bits of its slot mask (R384). -/
def maskBits (n : Nat) (v : Nat) : List Nat :=
  (upFrom 0 n).filter fun i => bit i v

def ImgRec.slotMask (r : ImgRec) : Nat :=
  ofLe (slice 4 8 r.content)

def ImgRec.queueMask (r : ImgRec) : Nat :=
  ofLe (slice 12 16 r.content)

def ImgRec.clearable (r : ImgRec) : Bool :=
  bit 0 (oct 1 r.content)

/-- The REGION record of a region. -/
def Image.region (im : Image) (i : Nat) : Option ImgRec :=
  (im.ofType 1).find? fun r => decide (oct 0 r.content = i)

/-- Entries of 8 octets after a record's 4-octet head (R387, R388). -/
def ImgRec.entries (r : ImgRec) : List (List Byte) :=
  (upFrom 0 (w16 0 r.content)).map fun i => slice (4 + 8 * i) 8 r.content

/-- SHA-256 over the records of a region (R384). -/
def Image.regionDigest (im : Image) (i : Nat) : BitVec 256 :=
  Config.sha256 ((im.records.filter fun r => decide (r.region = i)).map fun r => r.octets).flatten

/-- A QUEUE record as a queue (R386, Table 10.4). -/
def ImgRec.queueOf (r : ImgRec) : Nat × QueueSt :=
  (oct 0 r.content, { depth := w32 4 r.content, high := w32 8 r.content, low := w32 12 r.content, fcEn := bit 0 (oct 1 r.content)
                      producer := w16 16 r.content, consumer := w16 18 r.content })

/-- Slot and port of an endpoint that is a tile slot (R386). -/
def endpointSlot (e : Nat) : Option (Nat × Nat) :=
  if field 15 12 e = 0 then some (field 7 0 e, field 9 8 e) else none

/-- The route an EVENT_ROUTES entry gives a source (R387). -/
def routeEntryOf (e : List Byte) : Nat × Route :=
  (w16 0 e, { engine := Fin.ofNat 16 (oct 2 e), prio := Fin.ofNat 4 (oct 3 e % 4), en := bit 7 (oct 3 e), count := oct 4 e, timeUs := w16 6 e })

/-- The REGULATORY record (R389). -/
def readRegulatory (b : List Byte) : Regulatory :=
  let band (i : Nat) : SubBand :=
    let e := slice (24 + 12 * i) 12 b
    { low := oct 0 e, high := oct 1 e, power := oct 2 e, lbt := bit 0 (oct 3 e), duty := w32 4 e }
  let excluded := (upFrom 0 (oct 11 b)).map fun i => oct (12 + i) b
  { id := oct 0 b, lbt := bit 0 (oct 1 b), hopping := bit 1 (oct 1 b), scopeTrx := bit 2 (oct 1 b), ackExempt := bit 3 (oct 1 b)
    f0 := w32 4 b, spacing := w16 8 b, span := oct 10 b, excluded := excluded, threshold := ofTwos 16 (w16 16 b)
    tsCca := w16 18 b, bands := (upFrom 0 (oct 2 b)).map band, octets := b }

/-- Anchors of the SITE record: length, certificate, padded to a multiple of 4 (R390). -/
def cutAnchors : Nat → List Byte → Option (List (List Byte))
  | 0, l => if l.isEmpty then some [] else none
  | n + 1, l =>
    let len := w16 0 l
    let whole := (2 + len + 3) / 4 * 4
    if l.length < whole ∨ 2048 < len then none
    else (cutAnchors n (l.drop whole)).map fun rest => slice 2 len l :: rest

/-- The SITE record (R390). -/
def readSite (b : List Byte) : Site :=
  { t0Sec := ofLe (slice 0 6 b), t0Ns := w32 6 b, latitude := ofTwos 32 (w32 12 b), longitude := ofTwos 32 (w32 16 b)
    dawnElev := ofTwos 16 (w16 20 b), duskElev := ofTwos 16 (w16 22 b)
    gains := (upFrom 24 4).map fun i => ofTwos 8 (oct i b)
    grantWait := w16 28 b, lostPeriods := oct 30 b, grandmaster := bit 0 (oct 31 b)
    anchors := (cutAnchors (w16 32 b) (b.drop 36)).getD [] }

def Image.regulatory (im : Image) : Regulatory :=
  readRegulatory (match im.ofType 6 with
    | r :: _ => r.content
    | [] => [])

def Image.site (im : Image) : Site :=
  readSite (match im.ofType 7 with
    | r :: _ => r.content
    | [] => [])

/-! The checks of Table 10.6. Each names the index of the first failing record. -/

/-- What a check needs to know besides the image: the digest to compare with, and the verdict on the signature. -/
structure CheckCtx where
  tset : BitVec 256
  signed : Bool

/-- The first numbered record that fails a test. -/
def firstBad (l : List (Nat × ImgRec)) (ok : ImgRec → Bool) : Option Nat :=
  (l.find? fun p => !ok p.2).map Prod.fst

/-- A condition on the image as a whole is reported at the header. -/
def atHeader (ok : Bool) : Option Nat :=
  if ok then none else some 0

/-- A record's content has the length its type gives it (R384 to R391), and its region field fits its type (Table 10.3). -/
def ImgRec.formed (regions : Nat) (r : ImgRec) : Bool :=
  let n := r.content.length
  let global := decide (r.region = 0xFF)
  let one := decide (r.region < regions)
  match r.type with
  | 1 => global && decide (n = 64)
  | 2 => one && decide (8 ≤ n) && decide (w32 4 r.content = n - 8)
  | 3 => global && decide (n = 24)
  | 4 => (global || one) && decide (4 ≤ n) && decide (n = 4 + 8 * w16 0 r.content)
  | 5 => (global || one) && decide (4 ≤ n) && decide (n = 4 + 8 * w16 0 r.content)
  | 6 => global && decide (24 ≤ n) && decide (n = 24 + 12 * oct 2 r.content)
  | 7 => global && decide (36 ≤ n) && (cutAnchors (w16 32 r.content) (r.content.drop 36)).isSome
  | 0xFF => global && decide (n = 72)
  | _ => false

/-- Records of one type carry rising keys. -/
def risingKeys (l : List (Nat × ImgRec)) (key : ImgRec → Nat) : Option Nat :=
  match l with
  | a :: b :: rest => if key a.2 < key b.2 then risingKeys (b :: rest) key else some b.1
  | _ => none

/-- Step 3: types, counts and order (R383). -/
def Image.orderBad (im : Image) : Option Nat :=
  let l := numbered im.records
  let count (t : Nat) := (im.ofType t).length
  let falls := (l.zip (l.drop 1)).find? fun p => decide (p.2.2.type < p.1.2.type)
  (firstBad l (ImgRec.formed im.regions))
    <|> (falls.map fun p => p.2.1)
    <|> (firstBad (im.recordsOf 1) fun r => decide (oct 0 r.content < im.regions))
    <|> risingKeys (im.recordsOf 1) (fun r => oct 0 r.content)
    <|> risingKeys (im.recordsOf 2) (fun r => oct 0 r.content)
    <|> risingKeys (im.recordsOf 3) (fun r => oct 0 r.content)
    <|> ((im.recordsOf 4).find? fun p => decide (1 < countIf (fun r => decide (r.region = p.2.region)) (im.ofType 4))).map Prod.fst
    <|> atHeader (decide (count 1 = im.regions) && decide (count 6 = 1) && decide (count 7 = 1) && decide (count 0xFF = 1))

/-- Step 4: the verdict on the signature, where the slot it names may verify one (R391); with its reason. -/
def State.signatureBad (s : State) (im : Image) (signed : Bool) : Option (Reason × Nat) :=
  match im.recordsOf 0xFF with
  | (i, r) :: _ =>
    let c := s.slot (oct 0 r.content)
    if 63 < oct 0 r.content ∨ c.usage ≠ 5 then some (.notAuthorised, i)
    else if c.state = .withered then some (.keyWithered, i)
    else if c.state = .live && decide (oct 1 r.content = 1) && signed then none
    else some (.notAuthorised, i)
  | [] => some (.notAuthorised, 0)

/-- A parameter block keeps to Table 10.1. -/
def TileRec.blockOk (x : TileRec) : Bool :=
  let zeros (i n : Nat) := (slice i n x.block).all fun b => decide (b = 0)
  match templateOf x.id with
  | none => false
  | some t => decide (x.block.length = blockLength t) && (match t with
    | .mac => decide (oct 0 x.block < 8) && decide (oct 1 x.block < 8) && zeros 14 2
    | .meterPipe => zeros 2 2
    | .meterAcc => true
    | .stringLoop => decide (oct 0 x.block < 8) && zeros 1 3
    | .ptp => decide (oct 0 x.block < 4) && zeros 1 3
    | .dimmingAction => zeros 0 4
    | .fieldIo => decide (oct 0 x.block < 8) && zeros 1 3
    | _ => zeros 1 3)

/-- Values of a list occur once each. -/
def allOnce (l : List Nat) : Bool :=
  decide (eachOnce l = l)

/-- Step 8: template ids, versions, instance counts and block lengths (R379). -/
def Image.templatesBad (im : Image) : Option Nat :=
  let tileOk (r : ImgRec) : Bool :=
    r.tile.blockOk && decide (r.tile.version = Config.templateVersion im.tset r.tile.id) && decide (oct 3 r.content = 0)
  let countOk (t : Template) : Bool :=
    decide ((instances t).1 ≤ (im.tilesOf t).length) && decide ((im.tilesOf t).length ≤ (instances t).2)
  let pipes := (im.tilesOf .meterPipe).map TileRec.unit
  (firstBad (im.recordsOf 2) tileOk)
    <|> atHeader (allTemplates.all countOk && allOnce ((im.tilesOf .mac).map TileRec.unit)
          && decide (pipes.foldl (fun a b => a + b) 0 = 0xFFFF) && decide (pipes.foldl (fun a b => a ||| b) 0 = 0xFFFF))

/-- Region of a placed slot. -/
def Image.regionOf (im : Image) (slot : Nat) : Option Nat :=
  (im.tiles.find? fun x => decide (x.slot = slot)).map fun x => x.region

/-- An endpoint names a placed slot, or an engine (R386). -/
def Image.endpointOk (im : Image) (e : Nat) : Bool :=
  decide (field 11 10 e = 0) && (match field 15 12 e with
    | 0 => (im.regionOf (field 7 0 e)).isSome
    | 1 => decide (field 7 0 e < 16) && decide (field 9 8 e = 0)
    | _ => false)

/-- The queues whose producer and consumer are both slots of a region (R384). -/
def Image.queuesWithin (im : Image) (region : Nat) : List Nat :=
  let inside (e : Nat) : Bool := match endpointSlot e with
    | some (slot, _) => decide (im.regionOf slot = some region)
    | none => false
  ((im.ofType 3).filter fun r => inside (w16 16 r.content) && inside (w16 18 r.content)).map fun r => oct 0 r.content

/-- Step 9 for a REGION record. -/
def Image.regionOk (im : Image) (r : ImgRec) : Bool :=
  let i := oct 0 r.content
  decide (oct 1 r.content < 2) && decide (w16 2 r.content = 0) && decide (w32 28 r.content = 0)
    && decide (r.slotMask = ((im.tiles.filter fun x => decide (x.region = i)).map fun x => 2 ^ x.slot).foldl (· + ·) 0)
    && decide (r.queueMask = ((im.queuesWithin i).map fun q => 2 ^ q).foldl (· + ·) 0)

/-- Step 9 for a QUEUE record. -/
def Image.queueOk (im : Image) (r : ImgRec) : Bool :=
  let c := r.content
  let q := oct 0 c
  decide (q < 128) && (decide (oct 1 c = 0) || (decide (oct 1 c = 1) && decide (q < 8))) && decide (w16 2 c = 0) && decide (w32 20 c = 0)
    && decide (16 ≤ w32 4 c) && decide (w32 4 c ≤ 65536) && decide (w32 12 c < w32 8 c) && decide (w32 8 c ≤ w32 4 c)
    && im.endpointOk (w16 16 c) && im.endpointOk (w16 18 c)

/-- Step 9 for an EVENT_ROUTES record: the sources it may list (R381, R387). -/
def Image.routesOk (im : Image) (r : ImgRec) : Bool :=
  let owned (src : Nat) : Bool :=
    if r.region = 0xFF then decide (768 ≤ src) && decide (src < 1024) else decide (src < 768) && decide (im.regionOf (src / 16) = some r.region)
  decide (w16 2 r.content = 0) && r.entries.all fun e =>
    owned (w16 0 e) && decide (oct 2 e < 16) && decide (field 6 2 (oct 3 e) = 0) && decide (1 ≤ oct 4 e) && decide (oct 5 e = 0)
      && decide (1 ≤ w16 6 e)

/-- Tile ports of all queues: each at most once (R380). -/
def Image.portsOnce (im : Image) : Bool :=
  allOnce (((im.ofType 3).map fun r => [endpointSlot (w16 16 r.content), endpointSlot (w16 18 r.content)]).flatten.filterMap
    fun e => e.map fun (slot, port) => 4 * slot + port)

/-- The modem's octets arrive in Q000 (R260): where FIELD_IO runs the modem, it produces into Q000. -/
def Image.modemOk (im : Image) : Bool :=
  match im.tilesOf .fieldIo with
  | x :: _ => !bit 0 (oct 0 x.block) || ((im.ofType 3).any fun r =>
      decide (oct 0 r.content = 0) && decide ((endpointSlot (w16 16 r.content)).map Prod.fst = some x.slot))
  | [] => true

/-- Step 9: slots, queues, ports and sources. -/
def Image.wiringBad (im : Image) : Option Nat :=
  (firstBad (im.recordsOf 1) im.regionOk)
    <|> (firstBad (im.recordsOf 2) fun r => decide (r.tile.slot < 48))
    <|> (firstBad (im.recordsOf 3) im.queueOk)
    <|> (firstBad (im.recordsOf 4) im.routesOk)
    <|> atHeader (im.portsOnce && im.modemOk)

/-- Active tiles a stand can still give: 48, less what fellings beyond the understory took (Table 13.1). -/
def State.tilesLeft (s : State) (stand : Stand) : Nat :=
  min 48 (56 - s.felledOf stand 0)

/-- Stands the build has. -/
def State.stands (s : State) : List Stand :=
  if s.build = .t then [.a, .b] else [.a]

/-- Step 10: tiles and queue depth. -/
def State.capacityBad (s : State) (im : Image) : Option Nat :=
  atHeader (s.stands.all (fun x => decide (im.tiles.length ≤ s.tilesLeft x))
    && decide (((im.ofType 3).map fun r => w32 4 r.content).foldl (· + ·) 0 ≤ 524288))

/-- The radio mode a MAC block names: PHY and OFDM fields as RAD_TRX_CTRL holds them. -/
def TileRec.trxCtrl (x : TileRec) : Nat :=
  1 + place 3 1 (oct 0 x.block) + place 4 8 (oct 2 x.block) + place 2 16 (oct 3 x.block) + place 3 18 (field 4 2 (oct 3 x.block))
    + place 8 24 (oct 4 x.block)

/-- W1C registers of the blocks a preset may name (R388); they are written, though nothing of a preset is stored there. -/
def writableW1c (a : Nat) : Bool :=
  decide (a = 0x40020094) || (decide (0x40020100 ≤ a) && decide (a < 0x40020300) && decide (a % 0x20 = 0x10))
    || (decide (0x40020300 ≤ a) && decide (a < 0x400203E0) && decide (a % 0x20 = 4))
    || (decide (0x40050400 ≤ a) && decide (a < 0x40050600) && decide (a % 0x20 = 0x18)) || decide (a = 0x40060018)
    || (decide (0x40060100 ≤ a) && decide (a < 0x40060900) && decide (a % 0x40 = 0x34))
    || decide (a = 0x400D000C) || decide (a = 0x400D0010)

/-- A preset keeps to R388: a writable register of TIME, RAD, DRV or FLD, or one of MTR that R304 does not list, within its range. -/
def State.presetOk (s : State) (e : List Byte) : Bool :=
  let a := w32 0 e
  [0x4002, 0x4005, 0x4006, 0x4007, 0x400D].contains (a >>> 16) && (writableW1c a || (match descOf a with
    | some d => !d.metrology && inRanges d (w32 4 e) && regOk s a (w32 4 e)
    | none => false))

/-- Step 11 for the REGULATORY record: R97, R98, R115 and the bounds of R389. -/
def Image.regulatoryOk (im : Image) (r : ImgRec) : Bool :=
  let p := readRegulatory r.content
  let groves := (im.tilesOf .mac).length
  decide (oct 1 r.content < 16) && decide (1 ≤ oct 2 r.content) && decide (oct 2 r.content ≤ 8) && decide (oct 11 r.content ≤ 4)
    && decide (128 ≤ p.tsCca) && decide (p.tsCca ≤ 1000)
    && (!p.lbt || p.ackExempt) && (!p.hopping || decide (50 ≤ p.base.length)) && decide (3 * groves ≤ p.base.length)

/-- Step 11 for a MAC block: R103 at the image's nominal frequency. -/
def Image.macOk (im : Image) (nominal : Nat) (r : ImgRec) : Bool :=
  !r.tile.is .mac || (decide (100 ≤ psduCap (ctrlMode r.tile.trxCtrl) (if im.siteId = 0 then nominal else im.nominal))
    && decide (oct 2 r.tile.block ≤ 6))

/-- MAC blocks agree on what R610 writes for the module as a whole, and name a transceiver each. -/
def Image.macsAgree (im : Image) : Bool :=
  let macs := im.tilesOf .mac
  allOnce (macs.map fun x => oct 1 x.block) && (match macs with
    | a :: rest => rest.all fun x => decide (slice 5 9 x.block = slice 5 9 a.block)
    | [] => true)

/-- Step 11: radio, regulatory and preset rules. -/
def State.radioBad (s : State) (im : Image) : Option Nat :=
  (firstBad (im.recordsOf 2) (im.macOk s.time.nominal))
    <|> (firstBad (im.recordsOf 5) fun r => r.entries.all s.presetOk)
    <|> (firstBad (im.recordsOf 6) im.regulatoryOk)
    <|> atHeader im.macsAgree

/-- Words of the metering parameter block with the registers they stand for (Table 10.1). -/
def meteringAddresses : List Nat :=
  [0x4005000C, 0x4005001C, 0x40050020, 0x40050024]
    ++ ((upFrom 0 4).map fun f => (upFrom 0 4).map fun i => 0x40050100 + 0x40 * f + 4 * i).flatten
    ++ ((upFrom 0 16).map fun c => (upFrom 0 5).map fun i => 0x40050400 + 0x20 * c + 4 * i).flatten

/-- The metering parameter block as addresses and values. -/
def Image.metering (im : Image) : List (Nat × Nat) :=
  match im.tilesOf .meterAcc with
  | x :: _ => (meteringAddresses.zip (upFrom 0 100)).map fun p => (p.1, w32 (4 * p.2) x.block)
  | [] => []

/-- The INSTALLER role is held: by a session or at the monitor (R487). -/
def State.installerHeld (s : State) : Bool :=
  decide (s.mon.role = .installer) || s.fsp.sessions.any fun p => decide (p.2.role = .installer)

/-- Step 13: the metering block equals the registers in force, unless the seal is open and the role is held (R307). -/
def State.meteringBad (s : State) (im : Image) : Option Nat :=
  if s.mtr.sealOpen && s.installerHeld then none
  else if im.metering.all fun p => decide (s.reg p.1 = p.2) then none
  else ((im.recordsOf 2).find? fun p => p.2.tile.is .meterAcc).map Prod.fst

/-- A failed check with its reason. -/
def failsAs (r : Reason) (x : Option Nat) : Option (Reason × Nat) :=
  x.map fun i => (r, i)

/-- Step 6: this build, and its nominal frequency (R61). -/
def State.buildOk (s : State) (im : Image) : Bool :=
  bit (if s.build = .t then 0 else 1) im.builds
    && (if im.siteId = 0 then decide (im.nominal = 50) || decide (im.nominal = 60) else decide (im.nominal = field 7 0 (s.reg 0x40020050)))

/-- Steps 3 to 13 of Table 10.6, in their order. -/
def State.imageBad (s : State) (x : CheckCtx) (im : Image) : Option (Reason × Nat) :=
  failsAs .malformed im.orderBad
    <|> s.signatureBad im x.signed
    <|> failsAs .replay (atHeader (match s.can.image with
          | some run => decide (run.seq < im.seq)
          | none => true))
    <|> failsAs .unsupported (atHeader (s.buildOk im))
    <|> failsAs .digestMismatch (atHeader (decide (im.tset = x.tset)))
    <|> failsAs .unsupported im.templatesBad
    <|> failsAs .malformed im.wiringBad
    <|> failsAs .noCapacity (s.capacityBad im)
    <|> failsAs .unsupported (s.radioBad im)
    <|> failsAs .malformed (firstBad (im.recordsOf 1) fun r => decide (ofOctets256 (slice 32 32 r.content) = im.regionDigest (oct 0 r.content)))
    <|> failsAs .sealClosed (s.meteringBad im)

/-- The verdict on an image (R392): its contents, or the reason and the failing record. -/
def State.checkImage (s : State) (x : CheckCtx) (l : List Byte) : Except (Reason × Nat) Image :=
  match readImage l with
  | none => .error (.malformed, 0)
  | some im =>
    if imageFormat l ≠ 1 then .error (.unsupported, 0)
    else match s.imageBad x im with
      | some e => .error e
      | none => .ok im

/-! What differs between two images (R393). -/

/-- Regions of an image whose records are not those of another. -/
def changedRegions (old new : Image) : List Nat :=
  (upFrom 0 new.regions).filter fun i => decide (new.regionDigest i ≠ old.regionDigest i)

/-- Octets of an image's records, for the comparison of lengths. -/
def Image.octets (im : Image) : Nat :=
  (im.records.map fun r => r.octets.length).foldl (· + ·) 0

def Image.globals (im : Image) (t : Nat) : List (List Byte) :=
  ((im.ofType t).filter fun r => decide (r.region = 0xFF)).map fun r => r.octets

/-- R393: whether an image activates by clearings. -/
def clearingsAllowed (old new : Image) : Bool :=
  decide (old.builds = new.builds) && decide (old.nominal = new.nominal) && decide (old.regions = new.regions)
    && decide (old.siteId = new.siteId) && decide (old.tset = new.tset) && decide (old.records.length = new.records.length)
    && decide (old.octets = new.octets)
    && decide ((old.ofType 1).map (fun r => r.content.take 32) = (new.ofType 1).map fun r => r.content.take 32)
    && decide (old.globals 3 = new.globals 3) && decide (old.globals 4 = new.globals 4) && decide (old.globals 5 = new.globals 5)
    && (changedRegions old new).all fun i => match new.region i with
      | some r => r.clearable
      | none => false

end Sys2Proof.Machine
end

