-- ==== Sys2Proof/Machine/Drive.lean ====
section
/-! DEFINITION. Commands of the direct drive (09). -/

namespace Sys2Proof.Machine

/-! Frames. -/

/-- Reference points of a learning run that are due are recorded (R357): 100, 50, 25, then 10 %. -/
def State.learnPoint (s : State) (c : Nat) (i : Nat) : State :=
  let v := (s.ch c).volts
  let put (o hi lo : Nat) : State :=
    let a := 0x40060100 + o + 0x40 * c
    s.setReg a (merge (place (hi + 1 - lo) lo 0xFFFFFFFF) (s.reg a) (v <<< lo))
  match i with
  | 0 => put 0x24 31 16
  | 1 => put 0x24 15 0
  | 2 => put 0x20 31 16
  | _ => put 0x20 15 0

/-- Record the points of a channel's learning run whose 50 cycles have passed. -/
def State.learnPoints (s : State) (c : Nat) : State :=
  match (s.ch c).learn with
  | some n =>
    let due := min 4 ((s.cn - n.start) / 50)
    let s := forEach (fun i s => s.learnPoint c i) ((upFrom 0 due).drop n.point) s
    s.modCh c fun x => { x with learn := some { n with point := max n.point due } }
  | none => s

/-- PWM frame start with what the frame that ended brought (R353, R357 to R362). -/
def State.pwmFrame (s : State) (meas : List ChMeas) (ntc : List (Fin 8 × Nat)) (base : Option Int) : State :=
  let j := s.drv.frame
  if s.drv.k ≤ j ∨ s.entering = true then s
  else
    let s := s.advanceTo (s.period * j / (10 * max 1 s.drv.k))
    let s := match base with
      | some t => { s with sys := { s.sys with baseTemp := t, tempMax := max s.sys.tempMax t, hot := decide (1250 < t) } }
      | none => s
    let s := forEach (fun p s => s.ntcRead (p.1.val, p.2)) ntc s
    let s := forEach (fun m s => s.frameMeasured m) meas s
    let s := forEach (fun c s => s.learnPoints c) (upFrom 0 32) s.dieFrames
    let s := s.frameAt j
    { s with drv := { s.drv with frame := j + 1 } }

/-- PWM_FRAME_START (R353). -/
def execPwmFrameStart (meas : List ChMeas) (ntc : List (Fin 8 × Nat)) (base : Option Int) (s : State) :
    Host.Outcome State Fault Refusal :=
  .next (s.whenLive fun s => s.pwmFrame meas ntc base)

/-! String faults. -/

/-- STRING_RETRY (R361): the retry of a confirmed fault begins, 100 cycles after it. -/
def execStringRetry (c : Fin 32) (s : State) : Host.Outcome State Fault Refusal :=
  .next (s.whenLive fun s =>
    match (s.ch c).retryCn with
    | some r =>
      if r ≤ s.cn && decide ((s.ch c).fault ≠ 0) && !(s.ch c).lasting then
        s.modCh c fun x => { x with retryCn := none, retrying := some 0, dieOff := 0, ocPeriods := 0 }
      else s
    | none => s)

/-- The die holds a channel off (R345). -/
def State.dieHolds (s : State) (c why : Nat) : State :=
  s.modCh c fun x => { x with dieOff := why, ocPeriods := 0, amplitude := 0, duty := 0 }

/-- DIE_OVERCURRENT (R345): the gates are low for the period; the eighth period in a row turns the channel off. -/
def execDieOvercurrent (c : Fin 32) (again : Bool) (s : State) : Host.Outcome State Fault Refusal :=
  .next (s.whenLive fun s =>
    if s.chOff c then s
    else
      let n := if again then (s.ch c).ocPeriods + 1 else 1
      let s := s.hardwareLimit (c / 4)
      if n ≥ 8 then s.dieHolds c 3 else s.modCh c fun x => { x with ocPeriods := n })

/-- DIE_OVERVOLTAGE (R345). -/
def execDieOvervoltage (c : Fin 32) (s : State) : Host.Outcome State Fault Refusal :=
  .next (s.whenLive fun s => if s.chOff c then s else (s.hardwareLimit (c / 4)).dieHolds c 4)

/-- The half a die serves. -/
def State.halfOf (s : State) (die : Nat) : Option Nat :=
  s.drv.dies.findIdx? fun d => decide (d = die)

/-- Channels of a half are off at once. -/
def State.halfOff (s : State) (h : Nat) : State :=
  forEach (fun i s => s.modCh (4 * h + i) fun x => { x with amplitude := 0, duty := 0 }) (upFrom 0 4) s

/-- GATE_SUPPLY_LOW (R345): every gate of the half is held low. -/
def execGateSupplyLow (die : Fin 10) (s : State) : Host.Outcome State Fault Refusal :=
  .next (s.whenLive fun s =>
    let s := { s with drv := { s.drv with gateLow := lset die true s.drv.gateLow } }
    match s.halfOf die with
    | some h => (s.hardwareLimit h).halfOff h
    | none => s)

/-- GATE_SUPPLY_RESTORED (R345): the gates are released; the channels run again from the next frame. -/
def execGateSupplyRestored (die : Fin 10) (s : State) : Host.Outcome State Fault Refusal :=
  .next (s.whenLive fun s => { s with drv := { s.drv with gateLow := lset die false s.drv.gateLow } })

/-- A learning run cannot start: an evacuation, a safe level or a direct level (Table 9.8). -/
def State.learnBarred (s : State) (c : Nat) : Bool :=
  let x := s.lum (s.chLum c)
  s.fallback || s.safeSituation || decide (x.row = 2) || bit 31 (s.chReg c 0x3C)

/-- LEARN of a channel (R357, R361): T0 is recorded, a lasting fault ends, and the four points follow. -/
def State.startLearn (s : State) (c : Nat) : State :=
  if s.learnBarred c then s.modCh c fun x => { x with cmdRefused := true }
  else
    let s := s.setReg (0x40060128 + 0x40 * c) (twos 16 (s.chTemp c))
    s.modCh c fun x => { x with
      learn := some { start := s.cn }, learned := false, lasting := false, fault := 0, retryCn := none, retrying := none
      dieOff := 0, run := [0, 0, 0, 0, 0], ledM := 0 }

/-- CLEAR of a channel (R361): it returns from a lasting fault. -/
def State.clearString (s : State) (c : Nat) : State :=
  if (s.ch c).lasting then
    s.modCh c fun x => { x with lasting := false, fault := 0, dieOff := 0, run := [0, 0, 0, 0, 0] }
  else s

/-- A write of DRV_CHs_CMD (Table 9.10). -/
def State.writeChCmd (s : State) (c v : Nat) (w : Writer) : State × Reason :=
  let (s, r) := s.writeReg (0x40060138 + 0x40 * c) v w
  let s := if bit 1 r.act then s.clearString c else s
  (if bit 0 r.act then s.startLearn c else s, r.reason)

/-- STRING_LEARN (R357). -/
def execStringLearn (c : Fin 32) (w : Writer) (s : State) : Host.Outcome State Fault Refusal :=
  .next (s.whenLive fun s => (s.writeChCmd c 1 w).1)

/-- STRING_LEARN_DONE (R357): the four points are recorded and LEARNED is set. -/
def execStringLearnDone (c : Fin 32) (s : State) : Host.Outcome State Fault Refusal :=
  .next (s.whenLive fun s =>
    match (s.ch c).learn with
    | some n =>
      if n.start + 200 ≤ s.cn then (s.learnPoints c).modCh c fun x => { x with learn := none, learned := true } else s
    | none => s)

/-- STRING_CLEAR (R361). -/
def execStringClear (c : Fin 32) (w : Writer) (s : State) : Host.Outcome State Fault Refusal :=
  .next (s.whenLive fun s => (s.writeChCmd c 2 w).1)

/-- A write of DRV_CTRL: CNT_CLR clears the counters of evacuations and windows (R378). -/
def State.writeDrvCtrl (s : State) (v : Nat) (w : Writer) : State × Reason :=
  let (s, r) := s.writeReg 0x40060000 v w
  let clear (d : DrvSt) : DrvSt := { d with evacuations := 0, sensors := d.sensors.map fun x => { x with windows := 0 } }
  (if bit 1 r.act then { s with drv := clear s.drv } else s, r.reason)

/-- DRV_CNT_CLR (R378). -/
def execDrvCntClr (value : Word) (w : Writer) (s : State) : Host.Outcome State Fault Refusal :=
  .next (s.whenLive fun s => (s.writeDrvCtrl value.toNat w).1)

/-- Halves with a channel that takes its temperature from an NTC input. -/
def State.ntcHalves (s : State) (n : Nat) : List Nat :=
  (upFrom 0 8).filter fun h => (upFrom 0 4).any fun i =>
    bit 13 (s.chReg (4 * h + i) 0) && decide (field 12 10 (s.chReg (4 * h + i) 0) = n)

/-- NTC_FAULT (R358): a reading below 0.05 V is SHORT and above 2.45 V is OPEN; the change posts NTC_FAULT for
each half with a channel on the input. -/
def execNtcFault (n : Fin 8) (mv : Nat) (s : State) : Host.Outcome State Fault Refusal :=
  .next (s.whenLive fun s =>
    if 50 ≤ mv ∧ mv ≤ 2450 then s
    else
      let was := lget false n s.drv.ntcOpen || lget false n s.drv.ntcShort
      let s := { s with drv := { s.drv with
        ntcShort := lset n (decide (mv < 50)) s.drv.ntcShort
        ntcOpen := lset n (decide (2450 < mv)) s.drv.ntcOpen } }
      if was then s else forEach (fun h s => s.postTile .stringLoop h 5 1 0) (s.ntcHalves n) s)

/-- A slice that the spare of a half carries gives it up: its victim takes its function back (R463). -/
def State.freeSpare (s : State) (die : Nat) : State :=
  match s.cop.slices.find? fun x => decide (x.unit.kind = 7) && decide (x.carrier = some die) with
  | some x =>
    let dies := s.drv.dies.map fun d => if d = die then x.unit.index else d
    let s := { s with drv := { s.drv with dies := dies } }
    s.cutSlice 4 x
  | none => s

/-- HALF_FAILURE (R362, R463): the channels go off, the half is felled, and its spare takes over at the next frame. -/
def State.halfFails (s : State) (die : Nat) : State :=
  if decide (s.unitState (unitOf .a 7 die) = .felled) then s
  else
    let half := s.halfOf die
    let s := s.cutSlices 4 fun x => decide (x.unit = unitOf .a 7 die)
    let s := s.fell (unitOf .a 7 die)
    match half with
    | some h =>
      let s := if spareHalf h = die then s else s.freeSpare (spareHalf h)
      { (s.halfOff h) with drv := { (s.halfOff h).drv with failed := s.drv.failed ++ [h] } }
    | none => s

def execHalfFailure (die : Fin 10) (s : State) : Host.Outcome State Fault Refusal :=
  .next (s.whenLive fun s => s.halfFails die)

/-! Colour (R363 to R368). -/

/-- Parameter block of the slot that serves a unit of a template (R385). -/
def State.tileBlock (s : State) (t : Template) (unit : Nat) : List Byte :=
  match s.can.slotOf t unit, s.can.image with
  | some n, some i => match i.records.find? fun r => decide (r.type = 2) && decide (ofLe (slice 0 1 r.content) = n) with
    | some r => r.content.drop 8
    | none => []
  | _, _ => []

/-- X, Y and Z of a window from its readings (R364), on one scale over the ranges. -/
def State.tristimulus (s : State) (port range : Nat) (readings : List Nat) : List Int :=
  let b := s.tileBlock .colour port
  let word (i : Nat) : Int := ofTwos 32 (ofLe (slice (4 + 64 * port + 4 * i) 4 b))
  let net (j : Nat) : Int := ((lget 0 j readings : Nat) - word (12 + j)) * (10 ^ range : Nat)
  (upFrom 0 3).map fun r => sumInt ((upFrom 0 4).map fun c => word (4 * r + c) * net c)

/-- ICYC of a sensor port; 0 selects 16. -/
def State.icyc (s : State) (port : Nat) : Nat :=
  let n := field 7 4 (s.reg (0x40060A00 + 0x20 * port))
  if n = 0 then 16 else n

/-- Channels of the luminaires of a group. -/
def State.twChannels (s : State) (g : Nat) : List Nat :=
  (upFrom 0 32).filter fun c => bit (s.chLum c) (s.twReg g 4) && decide (field 1 0 (s.chReg c 0) ≠ 0)

/-- The commanded level of the warm (role 0) or cool (role 1) channel of a group's reference luminaire. -/
def State.refLevel (s : State) (g role : Nat) : Nat :=
  match (s.twChannels g).find? fun c => decide (s.chLum c = field 12 8 (s.twReg g 0)) && decide (field 9 9 (s.chReg c 0) = role) with
  | some c => (s.ch c).level
  | none => 0

/-- Inner product of three. -/
def dot3 (a b : List Int) : Int :=
  sumInt ((a.zip b).map fun p => p.1 * p.2)

/-- A gain in Q1.15 moved towards an estimate, so that the level it gives moves by at most 5 % (R367). -/
def cappedGain (old new : Nat) : Nat :=
  max ((old * 100 + 104) / 105) (min (old * 100 / 95) (min 65535 new))

/-- Gains by least squares from X, Y, Z and the commanded a and b (R367). Where they do not fix a gain, it is free. -/
def State.estimate (s : State) (g : Nat) (m : List Int) : (Nat × Nat) × State :=
  let p := s.twPrimaries g
  let (w, c) := (p.take 3, p.drop 3)
  let (ww, wc, cc) := (dot3 w w, dot3 w c, dot3 c c)
  let (hw, hc) := (dot3 w m, dot3 c m)
  let det := ww * cc - wc * wc
  let (a, b) := (s.refLevel g 0, s.refLevel g 1)
  let gain (n : Int) (x : Nat) (s : State) : Nat × State :=
    if det ≤ 0 ∨ x = 0 then s.drawNat else ((quotient (n * 32768 * fullLevel) (det.toNat * x)).toNat, s)
  let (gw, s) := gain (hw * cc - hc * wc) a s
  let (gc, s) := gain (hc * ww - hw * wc) b s
  ((cappedGain (s.tw g).gainW gw, cappedGain (s.tw g).gainC gc), s)

/-- Target luminance Y_t at the level in force, over a denominator (R366). -/
def State.targetY (s : State) (g : Nat) : Int × Nat :=
  match s.twShares g with
  | some ((u, v), _) => (((s.tw g).level : Int) * (u * lget 0 1 (s.twPrimaries g) + v * lget 0 4 (s.twPrimaries g)),
      fullLevel * max 1 (max u v).toNat)
  | none => (0, 1)

/-- What an accepted window shows of a group (R367): measured x, y and Y against the target. -/
def State.showWindow (s : State) (g : Nat) (m : List Int) : State :=
  let sum := sumInt m
  let ((tx, ty), d) := s.twTarget g
  let (yt, yd) := s.targetY g
  let near (v t : Int) : Bool := decide (1000 * (v * d - t * sum).natAbs ≤ 3 * sum.natAbs * d)
  let dev := lget 0 1 m * yd - yt
  s.modTw g fun t => { t with
    measX := (quotient (10000 * lget 0 0 m) (max 1 sum.toNat)).toNat % 65536
    measY := (quotient (10000 * lget 0 1 m) (max 1 sum.toNat)).toNat % 65536
    yError := quotient (10000 * dev) (max 1 yt.toNat)
    inTol := near (lget 0 0 m) tx && near (lget 0 1 m) ty && decide (100 * dev.natAbs ≤ 2 * yt.natAbs) }

/-- An accepted window of a LEARN (R366): after 16 of the warm primary the cool one, then LEARNED. -/
def State.learnWindow (s : State) (g : Nat) (n : TwLearn) (m : List Int) : State :=
  let sums := (n.sums.zip m).map fun p => p.1 + p.2
  if n.windows + 1 < 16 then s.modTw g fun t => { t with learn := some { n with windows := n.windows + 1, sums := sums } }
  else
    let mean := sums.map fun x => quotient x 16
    if n.primary = 0 then
      s.modTw g fun t => { t with
        primaries := some (mean ++ ((s.twPrimaries g).drop 3)), learn := some { primary := 1 } }
    else s.modTw g fun t => { t with primaries := some ((s.twPrimaries g).take 3 ++ mean), learn := none, learned := true }

/-- A group's part of a window of its sensor (R363, R366 to R368). -/
def State.groupWindow (s : State) (port : Nat) (inBand : Bool) (range : Nat) (readings : List Nat) (sat : List Bool) (g : Nat) : State :=
  let t := s.tw g
  let lit := decide (500 * fineUnit ≤ t.level)
  let dark := if lit && readings.all (fun r => decide (r = 0)) then t.dark + 1 else 0
  let bad := (sat.any id && decide (range = 3)) || decide (16 ≤ dark)
  let s := s.modTw g fun t => { t with dark := dark }
  if bad then
    let s := s.modTw g fun t => { t with sensorFault := true }
    if t.sensorFault then s else s.postTile .colour port 4 1 0
  else if !inBand || t.lastDirty then s
  else
    let m := s.tristimulus port range readings
    let s := s.modTw g fun t => { t with sensorFault := false }
    match t.learn with
    | some n => s.learnWindow g n m
    | none =>
      let s := s.showWindow g m
      if (s.twChannels g).any fun c => decide ((s.ch c).fault ≠ 0) then s
      else
        let (gains, s) := s.estimate g m
        s.modTw g fun t => { t with nextGains := some gains }

/-- COLOUR_WINDOW_END (R363): a window of a sensor port ends. -/
def State.colourWindow (s : State) (port : Nat) (readings : List Nat) (sat : List Bool) : State :=
  let a := 0x40060A00 + 0x20 * port
  let cfg := s.reg a
  if !bit 8 cfg || decide (s.cn % s.icyc port ≠ 0) then s
  else
    let range := field 1 0 cfg
    let clear := lget 0 3 readings
    let low := decide (100 * clear < 5 * 1048575)
    let high := decide (90 * 1048575 < 100 * clear)
    let groups := (upFrom 0 4).filter fun g =>
      bit 0 (s.twReg g 0) && bit 3 (s.twReg g 0) && decide (field 2 1 (s.twReg g 0) = port)
    let taken := !low && !high && !(groups.any fun g => (s.tw g).lastDirty)
    let show_ (x : CsSt) : CsSt := { x with
      values := readings, sat := sat, valid := taken, discarded := !taken, range := range
      windows := satAdd 65535 x.windows 1, cn := s.cn }
    let s := { s with drv := { s.drv with sensors := lmod show_ port s.drv.sensors } }
    let s := forEach (fun g s => s.groupWindow port (!low && !high) range readings sat g) groups s
    let fault := groups.any fun g => (s.tw g).sensorFault
    let s := { s with drv := { s.drv with sensors := lmod (fun x => { x with fault := fault }) port s.drv.sensors } }
    let step := if low && decide (0 < range) then range - 1 else if high && decide (range < 3) then range + 1 else range
    let s := if bit 2 cfg then s.setReg a (merge 3 cfg step) else s
    s.postTile .colour port port 1 0

/-- COLOUR_WINDOW_END (R363, R367); the readings are those of X, Y, Z and clear. -/
def execColourWindowEnd (port : Fin 4) (x y z c : Fin 1048576) (sat : List Bool) (s : State) : Host.Outcome State Fault Refusal :=
  .next (s.whenLive fun s => s.iff (!s.sliced (s.can.slotOf .colour port.val)) fun s => s.colourWindow port [x.val, y.val, z.val, c.val] sat)

/-- At CYC the windows of a group turn over, and gains that wait apply to it and to its followers (R363, R367, R368). -/
def State.colourTick (s : State) : State :=
  let s := forEach (fun g s =>
    if s.cn % s.icyc (field 2 1 (s.twReg g 0)) = 0 then
      s.modTw g fun t => { t with lastDirty := t.dirty, dirty := false } else s) (upFrom 0 4) s
  forEach (fun g s =>
    match (s.tw g).nextGains with
    | some (gw, gc) =>
      let s := s.modTw g fun t => { t with gainW := gw, gainC := gc, nextGains := none }
      forEach (fun f s =>
        if bit 6 (s.twReg f 0) && decide (field 5 4 (s.twReg f 0) = g) && decide (f ≠ g) then
          s.modTw f fun t => { t with gainW := gw, gainC := gc } else s) (upFrom 0 4) s
    | none => s) (upFrom 0 4) s

/-- A write of DRV_TWg_CFG: LEARN begins with the warm primary (R366), unless a LEARN is barred (Table 9.8). -/
def State.writeTwCfg (s : State) (g v : Nat) (w : Writer) : State × Reason :=
  let (s, r) := s.writeReg (0x40060B00 + 0x20 * g) v w
  if bit 7 r.act then
    let cs := (s.twChannels g).filter fun c => decide (s.chLum c = field 12 8 (s.twReg g 0))
    if cs.any fun c => s.learnBarred c then
      (forEach (fun c s => s.modCh c fun x => { x with cmdRefused := true }) cs s, r.reason)
    else (s.modTw g fun t => { t with learn := some {}, learned := false }, r.reason)
  else (s, r.reason)

/-- TW_LEARN (R366). -/
def execTwLearn (g : Fin 4) (w : Writer) (s : State) : Host.Outcome State Fault Refusal :=
  .next (s.whenLive fun s => (s.writeTwCfg g (s.twReg g 0 ||| 0x80) w).1)

/-! Pattern engines. -/

/-- A write of DRV_PEp_CTRL (R371, R375): an engine that runs an evacuation takes neither bit. -/
def State.writePeCtrl (s : State) (p v : Nat) (w : Writer) : State × Reason :=
  let (s, r) := s.writeReg (0x40060C00 + 0x40 * p) v w
  if (s.pe p).evac then (s, r.reason)
  else
    let s := if bit 1 r.act then (if (s.pe p).run.isSome then s.endPe p else s.modPe p fun e => { e with pending := false }) else s
    (if bit 0 r.act && decide (s.peMode p = 0) then s.modPe p fun e => { e with pending := true } else s, r.reason)

/-- PE_START (R371). -/
def execPeStart (p : Fin 8) (w : Writer) (s : State) : Host.Outcome State Fault Refusal :=
  .next (s.whenLive fun s => (s.writePeCtrl p 1 w).1)

/-- PE_STOP (R375). -/
def execPeStop (p : Fin 8) (w : Writer) (s : State) : Host.Outcome State Fault Refusal :=
  .next (s.whenLive fun s => (s.writePeCtrl p 2 w).1)

/-- Start time of an engine in city ns (Table 9.10). -/
def State.peStartNs (s : State) (p : Nat) : Nat :=
  1000000000 * (s.peReg p 8 + 4294967296 * field 15 0 (s.peReg p 12)) + field 29 0 (s.peReg p 0x10)

/-- PE_TIMED_START (R371): an engine in city-time mode reaches its start time, once. -/
def execPeTimedStart (p : Fin 8) (tick : Nat) (s : State) : Host.Outcome State Fault Refusal :=
  .next (s.whenLive fun s =>
    let s := s.advanceTo tick
    if s.peMode p = 2 && decide (s.peStartNs p ≤ s.cityNs) && !(s.pe p).timed && !(s.pe p).evac then
      (s.modPe p fun e => { e with timed := true }).startPe p { startCn := s.cn, startNs := s.peStartNs p }
    else s)

/-! Evacuation (R374, R375). -/

/-- INC_IN is active at the pin. -/
def State.incActive (s : State) : Bool :=
  xor s.fld.incIn (bit 1 (s.reg 0x40060014))

/-- INC_IN_EDGE (R374): stamped on capture channel 2; source 856. -/
def execIncInEdge (rising : Bool) (tick : Nat) (sub : Fin 10) (s : State) : Host.Outcome State Fault Refusal :=
  .next (s.whenLive fun s =>
    let s := s.advanceTo tick
    (({ s with fld := { s.fld with incIn := rising } }).capture 2 rising sub.val).post 856 1 0)

/-- The EVACUATION record (Table 16.4): the engine, and 1 at the start or 2 at the end. -/
def State.recordEvac (s : State) (p what : Nat) : State :=
  s.record (s.tileSource .pattern p (if what = 1 then 8 else 9)) 0x3A .ok (le 1 p ++ le 1 what)

/-- The frame with which an evacuation starts (R374): the next one; the first after a clearing of Table 9.7 that runs (R377). -/
def State.evacFrame (s : State) (p : Nat) : Cn × Nat :=
  match s.can.clearing with
  | some c =>
    if s.clearingHolds (s.can.slotOf .pattern p)
        || (upFrom 0 32).any (fun l => decide (s.lumEngine l = some p) && s.clearedLum l) then (c.c + c.len, 0)
    else if s.drv.frame < s.drv.k then (s.cn, s.drv.frame) else (s.cn + 1, 0)
  | none => if s.drv.frame < s.drv.k then (s.cn, s.drv.frame) else (s.cn + 1, 0)

/-- EVAC_START (R374): INC_IN has been active for MINW. -/
def execEvacStart (s : State) : Host.Outcome State Fault Refusal :=
  .next (s.whenLive fun s =>
    let r := s.reg 0x40060014
    let p := field 6 4 r
    if bit 0 r && s.incActive && !(s.drv.engines.any PeSt.evac) then
      let (c, j) := s.evacFrame p
      let s := s.startPe p { evac := true, startCn := c, startFrame := j, fresh := true }
      let s := { s with drv := { s.drv with started := true, evacuations := satAdd 65535 s.drv.evacuations 1 } }
      (s.postTile .pattern p 8 1 0).recordEvac p 1
    else s)

/-- The engine whose evacuation runs. -/
def State.evacEngine (s : State) : Option Nat :=
  s.drv.engines.findIdx? PeSt.evac

/-- An evacuation ends (R375): EVAC_END; the luminaires return to their lower rows at the next frame. -/
def State.endEvac (s : State) : State :=
  match s.evacEngine with
  | some p => ((s.endPe p).postTile .pattern p 9 1 0).recordEvac p 2
  | none => s

/-- EVAC_END (R375): INC_IN has been inactive for MINW, with LATCH clear. -/
def execEvacEnd (s : State) : Host.Outcome State Fault Refusal :=
  .next (s.whenLive fun s => if s.incActive || bit 2 (s.reg 0x40060014) then s else s.endEvac)

/-- A write of DRV_INC_CTRL (R375): RELEASE ends a latched evacuation while INC_IN is inactive. -/
def State.writeIncCtrl (s : State) (v : Nat) (w : Writer) : State × Reason :=
  let (s, r) := s.writeReg 0x40060014 v w
  (if bit 8 r.act && bit 2 (s.reg 0x40060014) && !s.incActive then s.endEvac else s, r.reason)

/-- EVAC_RELEASE (R375). -/
def execEvacRelease (w : Writer) (s : State) : Host.Outcome State Fault Refusal :=
  .next (s.whenLive fun s => (s.writeIncCtrl (s.reg 0x40060014 ||| 0x100) w).1)

/-! Triggers, and the block's registers. -/

/-- A TIME trigger with target 2 (R356): the carrier restarts; a pending direct level applies at the tick. -/
def State.triggerChannel (s : State) (c : Nat) : State :=
  let p := s.chReg c 0x3C
  if bit 31 p && bit 16 p then
    let s := s.modCh c fun x => { x with direct := some (field 15 0 p) }
    let l := s.lum (s.chLum c)
    s.setChannel c l.level l.row (s.drv.frame - 1)
  else s

/-- At CYC: K takes effect (R353), colour windows turn over, engines start, frames begin anew. -/
def State.drvTick (s : State) : State :=
  let s := { s with drv := { s.drv with k := field 6 0 (s.reg 0x4006000C), frame := 0 } }
  (s.colourTick).startEngines

/-- A write of a start register of an engine lets its city time start it again (R371). -/
def State.writePeStart (s : State) (a v : Nat) (w : Writer) : State × Reason :=
  let (s, r) := s.writeReg a v w
  (s.modPe ((a - 0x40060C00) / 0x40) fun e => { e with timed := false }, r.reason)

/-- W1C bits of DRV_CHs_STATUS. -/
def State.writeChStatus (s : State) (c v : Nat) : State :=
  s.modCh c fun x => { x with transient := x.transient && !bit 16 v, cmdRefused := x.cmdRefused && !bit 17 v }

/-- W1C bits of DRV_INC_STATUS. -/
def State.writeIncStatus (s : State) (v : Nat) : State :=
  { s with drv := { s.drv with started := s.drv.started && !bit 1 v } }

/-- DRV_CHs_STATUS (Table 9.12). -/
def State.chStatus (s : State) (c : Nat) : Nat :=
  let x := s.ch c
  let n := field 12 10 (s.chReg c 0)
  flags [x.learned, x.floor, x.derated, x.hybrid, x.lasting] 0 + x.fault * 32 + x.shorted % 256 * 256
    + flags [x.transient, x.cmdRefused,
        bit 13 (s.chReg c 0) && (lget false n s.drv.ntcOpen || lget false n s.drv.ntcShort), decide (8 ≤ s.chDie c)] 16

/-- DRV_HALF_STATUS (Table 9.10). -/
def State.halfStatus (s : State) : Nat :=
  let served (d : Nat) : Nat := (s.halfOf d).getD 15
  let felled (d : Nat) : Bool := decide (s.unitState (unitOf .a 7 d) = .felled)
  served 8 + served 9 * 16 + flags [felled 8, felled 9] 8 + flags ((upFrom 0 8).map felled) 16

/-- A register of the DRV block that shows state (Table 9.10); a stored one otherwise. -/
def State.readDrv (s : State) (o : Nat) : Nat :=
  if o = 4 then
    flag (s.drv.engines.any PeSt.evac) 0 + flag s.safeSituation 1 + flag (s.fallback || s.drv.lums.any fun x => decide (x.row = 7)) 2
      + flags (s.drv.engines.map fun e => e.run.isSome) 8
  else if o = 8 then flags (s.drv.chs.map fun x => decide (x.fault ≠ 0) || decide (x.ledM ≠ 0)) 0
  else if o = 0x10 then s.halfStatus
  else if o = 0x18 then flag s.incActive 0 + flag s.drv.started 1 + s.drv.evacuations * 65536
  else if o = 0x1C then twos 16 s.sys.baseTemp
  else if 0x40 ≤ o ∧ o < 0x80 ∧ o % 8 = 4 then
    let n := (o - 0x40) / 8
    twos 16 (lget 0 n s.drv.ntcTemp) + flag (lget false n s.drv.ntcOpen) 16 + flag (lget false n s.drv.ntcShort) 17
  else if 0x100 ≤ o ∧ o < 0x900 ∧ o % 0x40 = 0x2C then
    let x := s.ch ((o - 0x100) / 0x40)
    x.amplitude + x.duty % 65536 * 65536
  else if 0x100 ≤ o ∧ o < 0x900 ∧ o % 0x40 = 0x30 then
    let x := s.ch ((o - 0x100) / 0x40)
    x.amps % 65536 + x.volts % 65536 * 65536
  else if 0x100 ≤ o ∧ o < 0x900 ∧ o % 0x40 = 0x34 then s.chStatus ((o - 0x100) / 0x40)
  else if 0xA00 ≤ o ∧ o < 0xA80 ∧ o % 0x20 ≠ 0 then
    let x := lget {} ((o - 0xA00) / 0x20) s.drv.sensors
    match o % 0x20 with
    | 0x14 => flags [x.valid, x.discarded, x.fault] 0 + x.range * 16 + x.windows * 65536
    | 0x18 => x.cn % 4294967296
    | 0x1C => x.cn / 4294967296 % 256
    | r => if r < 0x14 then lget 0 (r / 4 - 1) x.values + flag (lget false (r / 4 - 1) x.sat) 31 else 0
  else if 0xB00 ≤ o ∧ o < 0xB80 ∧ 0x10 ≤ o % 0x20 then
    let g := (o - 0xB00) / 0x20
    let t := s.tw g
    match o % 0x20 with
    | 0x10 => t.measX + t.measY * 65536
    | 0x14 => twos 16 t.yError + quotientNat t.level fineUnit * 65536
    | 0x18 => t.gainW + t.gainC * 65536
    | _ =>
      let c := s.twReg g 0
      flags [bit 0 c && bit 3 c && !t.sensorFault, t.inTol, t.offLine, t.headroom, t.sensorFault, t.learned, bit 6 c] 0
  else if 0xC00 ≤ o ∧ o < 0xE00 ∧ o % 0x40 = 0x1C then
    let p := (o - 0xC00) / 0x40
    match (s.pe p).run with
    | some r =>
      let e := s.elapsed p r (s.drv.frame - 1)
      let place_ : Option Place := match r.step with
        | some (k, reps) => some { kf := k, reps := reps, within := 0 }
        | none => if e < 0 || r.fresh then none else walk (s.keyframe p) (s.peDen p) (e.toNat / s.peDen p + 1) 0 [] e.toNat
      1 + flag r.evac 1 + (match place_ with
        | some x => x.kf * 256 + ((tget x.kf x.reps).getD (s.keyframe p x.kf).repeats) * 65536
        | none => 0)
    | none => 0
  else if 0x1000 ≤ o ∧ o < 0x1100 ∧ o % 8 = 4 then
    let x := s.lum ((o - 0x1000) / 8)
    quotientNat x.level fineUnit % 65536 + x.row * 65536
  else if 0x100 ≤ o ∧ o < 0x900 ∧ o % 0x40 = 0 then
    let c := s.reg (0x40060000 + o)
    if 2 ≤ field 1 0 c then c ||| 8 else c
  else s.reg (0x40060000 + o)

end Sys2Proof.Machine
end

