-- ==== Sys2Proof/Machine/Meter.lean ====
section
/-! DEFINITION. Commands of feeder metering and feeder balance (08), METER_READ, and the MTR registers as they read. -/

namespace Sys2Proof.Machine

/-! Channels and the seal. -/

/-- CHANNEL_FAULT (R298): a stream is bad; it is seen again after the receiver reset and on the spare path. -/
def execChannelFault (c : Fin 16) (s : State) : Host.Outcome State Fault Refusal :=
  .next (s.whenLive fun s =>
    let on_ (st : ChStage) : State := s.modMtrCh c.val fun x => { x with stage := st }
    match (s.mtrCh c.val).stage with
    | .good => (on_ .resetDue).postTile .meterPipe c.val 0 1 0
    | .resetDone => on_ .spareDue
    | .spareDone => on_ .outside
    | .onSpare => (on_ .outside).postTile .meterPipe c.val 0 1 0
    | _ => s)

/-- MSEAL_CHANGE (R303): the debounced loop opens or closes. -/
def execMsealChange (isOpen : Bool) (s : State) : Host.Outcome State Fault Refusal :=
  .next (s.whenLive fun s =>
    s.iff (decide (s.mtr.sealOpen ≠ isOpen)) fun s =>
      let s := { s with
        mtr := { s.mtr with sealOpen := isOpen }
        fld := { s.fld with mseal := isOpen } }
      let s := s.iff isOpen fun s => s.flagInts s.feeders 5
      (s.post 832 1 0).record 832 0x31 .ok (le 1 (flag isOpen 0)))

/-! Metrology registers (R304 to R306, R308, R324). -/

/-- The recorder source of a writer's path: 0x0404 for a session on the modem (R609). -/
def State.writerSource (s : State) (w : Writer) : Nat :=
  match w.via with
  | .session i => match s.session i with
    | some c => c.pathSource i
    | none => 0x0400 + i.val
  | v => v.source

/-- The address of a metrology register (R304). -/
def isMetrology (a : Nat) : Bool :=
  match descOf a with
  | some d => d.metrology
  | none => false

/-- An accepted metrology write: MTR_SEAL_GEN counts it and one METROLOGY_WRITE record holds it (R305). -/
def State.metrologyWritten (s : State) (w : Writer) (a old new : Nat) : State :=
  let s := { s with mtr := { s.mtr with sealGen := (s.mtr.sealGen + 1) % 4294967296 } }
  s.recordAs .installer (s.writerSource w) 0x30 .ok (le 2 (a % 65536) ++ le 4 old ++ le 4 new ++ le 2 s.mtr.sealGen)

/-- A calibration measurement begins (R308). -/
def State.startCal (s : State) : State :=
  let c : CalSt := { busy := true, start := s.cn, window := field 31 16 (s.reg 0x40050050) }
  { s with mtr := { s.mtr with cal := c } }

/-- A write of a metrology register: a new N waits for its boundary (R324), START measures (R308), everything else takes
effect with the next cycle's accounting (R306). -/
def State.writeMetrology (s : State) (a v : Nat) (w : Writer) : State × Reason :=
  if !isMetrology a then (s, .ok)
  else
    let (t, r) := s.writeQuiet a v w
    if r.reason ≠ .ok then (t, r.reason)
    else if w.role ≠ .installer ∨ s.mtr.sealOpen = false then (t, .ok)
    else
      let t := if a = 0x4005000C then { (t.setReg a r.old) with mtr := { t.mtr with pendingN := some (field 15 0 r.new) } }
        else { t with mtr := { t.mtr with written := true } }
      let t := t.metrologyWritten w a r.old r.new
      (if r.act ≠ 0 then t.startCal else t, .ok)

/-- METROLOGY_REGISTER_WRITE (R304). -/
def execMetrologyRegisterWrite (addr value : Word) (w : Writer) (s : State) : Host.Outcome State Fault Refusal :=
  .next (s.whenLive fun s => (s.writeMetrology addr.toNat value.toNat w).1)

/-- LATCH_N_WRITE (R324). -/
def execLatchNWrite (value : Word) (w : Writer) (s : State) : Host.Outcome State Fault Refusal :=
  .next (s.whenLive fun s => (s.writeMetrology 0x4005000C value.toNat w).1)

/-- CAL_START (R308): a write of MTR_CAL_CTRL with START. -/
def execCalStart (value : Word) (w : Writer) (s : State) : Host.Outcome State Fault Refusal :=
  .next (s.whenLive fun s => (s.writeMetrology 0x40050050 (value.toNat ||| 1) w).1)

/-- CAL_DONE (R308): the window ends with the measured mean powers in mW and mvar, the RMS in Q24.8 and the mean sample. -/
def execCalDone (p q : Int) (rms : Word) (dc : Int) (s : State) : Host.Outcome State Fault Refusal :=
  .next (s.whenLive fun s =>
    let c := s.mtr.cal
    s.iff (c.busy && decide (c.start + c.window ≤ s.cn)) fun s =>
      let c : CalSt := { c with busy := false, done := true, cycles := c.window, p := p, q := q, rms := rms.toNat, dc := dc }
      { s with mtr := { s.mtr with cal := c } })

/-! Phases, checkpoints, reading. -/

/-- PHASE_ABSENT (R310) of L2 or L3. -/
def execPhaseAbsent (phase : Fin 2) (s : State) : Host.Outcome State Fault Refusal :=
  .next (s.whenLive fun s =>
    ({ s with mtr := { s.mtr with phaseAbsent := lset phase.val true s.mtr.phaseAbsent } }).postTile .meterAcc 0 5 1 0)

/-- PHASE_VALID_CROSSING (R310). -/
def execPhaseValidCrossing (phase : Fin 2) (s : State) : Host.Outcome State Fault Refusal :=
  .next (s.whenLive fun s => { s with mtr := { s.mtr with phaseAbsent := lset phase.val false s.mtr.phaseAbsent } })

/-- METER_CHECKPOINT (R321): every 50 cycles. -/
def execMeterCheckpoint (s : State) : Host.Outcome State Fault Refusal :=
  .next (s.whenLive fun s => s.iff (s.mtr.running && decide (s.cn % 50 = 0)) State.checkpoint)

/-- What MTR_REG_LO and MTR_REG_HI take on a selection (R320): the cumulative register with its wrap count, or the last
interval value. -/
def State.copyRegister (s : State) : State :=
  let x := s.reg 0x40050040
  let k := 24 * field 1 0 x + 8 * (field 5 4 x - 1) + 4 * field 10 10 x + field 9 8 x
  let (v, wraps) := if bit 16 x then (lget 0 k s.mtr.lastValues, 0) else s.register k
  { s with mtr := { s.mtr with regLo := v % 4294967296, regHi := v / 4294967296 + wraps * 65536 } }

/-- A write of MTR_REG_SEL (R320). -/
def State.writeRegSel (s : State) (v : Nat) (w : Writer) : State × Reason :=
  let (s, r) := s.writeReg 0x40050040 v w
  (if r.reason = .malformed then s else s.copyRegister, r.reason)

/-- REG_SEL_WRITE (R320). -/
def execRegSelWrite (value : Word) (w : Writer) (s : State) : Host.Outcome State Fault Refusal :=
  .next (s.whenLive fun s => (s.writeRegSel value.toNat w).1)

/-- BALANCE_DEADLINE (R337): the balance of a feeder that ended at a CN closes with the reports held. -/
def execBalanceDeadline (feeder : Fin 4) (ended : BitVec 40) (s : State) : Host.Outcome State Fault Refusal :=
  .next (s.whenLive fun s =>
    match (s.bal feeder.val).open_.find? fun b => decide (b.cn = ended.toNat) with
    | some b => s.iff (decide (s.balanceDue feeder.val b ≤ s.cn)) fun s => s.closeBalance feeder.val b
    | none => s)

/-! METER_READ (R244). -/

/-- The 24 CUMULATIVE records of a feeder. -/
def State.cumulative (s : State) (f : Nat) : List (List Byte) :=
  (upFrom 0 24).map fun k =>
    let (v, n) := s.register (24 * f + k)
    le 1 f ++ le 1 (k / 8 + 1) ++ le 1 (k % 8) ++ [0] ++ le 6 v ++ le 2 n

/-- Interval records from a CN on, of the feeders a mask selects. -/
def State.intervalsFrom (s : State) (mask from_ most : Nat) : List (List Byte) :=
  ((s.mtr.history.filter fun i => bit i.feeder mask && decide (from_ ≤ i.cn)).take most).map Interval.octets

/-- The fields of a METER_READ hold. -/
def meterReadOk (b : List Byte) : Bool :=
  let most := ofLe (slice 10 2 b)
  decide (b.length = 12) && decide (oct 0 b ≤ 1) && decide (oct 1 b < 16) && decide (ofLe (slice 2 2 b) = 0)
    && decide (oct 9 b = 0) && decide (1 ≤ most) && decide (most ≤ 1440)

/-- Serve a METER_READ. -/
def State.serveMeterRead (s : State) (i : Fin 4) (c : Session) (tx : Nat) (b : List Byte) : State :=
  if !meterReadOk b then s.malformed i 0x20 tx
  else
    let mask := oct 1 b
    let rs := if oct 0 b = 0 then (((upFrom 0 4).filter fun f => bit f mask).map s.cumulative).flatten.take (ofLe (slice 10 2 b))
      else s.intervalsFrom mask (ofLe (slice 4 5 b)) (ofLe (slice 10 2 b))
    let body := le 1 0 ++ slice 0 1 b ++ le 2 rs.length ++ le 5 s.cn ++ le 1 (if oct 0 b = 0 then 12 else 144) ++ [0, 0]
      ++ rs.flatten
    (s.countUse i c Session.readUse).respond i 0x20 tx body

/-- METER_READ (R244). -/
def execMeterRead (sess : Fin 4) (role : Byte) (tx : Word) (body : List Byte) (s : State) : Host.Outcome State Fault Refusal :=
  .next (s.whenLive fun s => s.request sess role 0x20 tx.toNat .operator fun c s => s.serveMeterRead sess c tx.toNat body)

/-! Registers (Tables 8.10 to 8.13). -/

/-- A write of MTR_CHc_STATUS: CLIP and TRANSIENT clear by ones. -/
def State.writeMtrStatus (s : State) (c v : Nat) : State :=
  s.modMtrCh c fun x => { x with clip := x.clip && !bit 8 v, transient := x.transient && !bit 9 v }

/-- MTR_GAP_STATUS and the gap bits of a feeder. -/
def State.gapBits (s : State) (f : Nat) : Nat :=
  flags ((upFrom 0 3).map fun p => s.mtr.gaps.any fun g => decide (g.feeder = f) && decide (g.phase = p)) 0

/-- MTR_SPARE_STATUS. -/
def State.spareStatus (s : State) : Nat :=
  let on_ (k : Nat) : Nat := (s.mtr.paths.findIdx? fun p => decide (p = k)).getD 15
  let gone (k : Nat) : Bool := decide ((s.unit (unitOf .a 6 k)).mark = some .felled)
  on_ 16 + 16 * on_ 17 + flags [gone 16, gone 17] 8 + flags ((upFrom 0 16).map gone) 16

/-- A feeder's registers as they read, at an offset within its 0x40. -/
def State.readFeeder (s : State) (f o : Nat) : Nat :=
  let b := s.bal f
  let r : BalResult := b.last.getD { cn := 0, state := 0, reported := 0, feederMwh := 0, nodeMwh := 0 }
  match o with
  | 0x10 => flags ((upFrom 0 3).map (s.phaseFaulty f)) 0 + 16 * s.gapBits f + flag b.lossAlarm 8 + flag b.excessAlarm 9
  | 0x14 => lget 0 f s.mtr.suppressed
  | 0x20 => r.state + (if b.kind = 2 ∨ b.kind = 3 then min 255 b.count * 256 else 0) + r.reported % 65536 * 65536
  | 0x24 => r.cn % 4294967296
  | 0x28 => r.cn / 4294967296
  | 0x2C => twos 16 r.ratio
  | 0x30 => ((upFrom 0 3).map fun p => twos 8 (clampInt (-128) 127 (lget 0 p r.phases)) * 2 ^ (8 * p)).sum
  | 0x34 => twos 32 r.loss
  | _ => s.reg (0x40050100 + 0x40 * f + o)

/-- A channel's registers as they read. -/
def State.readMtrCh (s : State) (c o : Nat) : Nat :=
  let x := s.mtrCh c
  match o with
  | 0x00 => if c = 3 then s.reg 0x40050460 else masked 0x5F (s.reg (0x40050400 + 0x20 * c))
  | 0x14 => lget 0 c s.mtr.rms
  | 0x18 => flags [x.faulty, decide (16 ≤ lget c c s.mtr.paths)] 0 + flag x.clip 8 + flag x.transient 9 + x.resets * 65536
  | _ => s.reg (0x40050400 + 0x20 * c + o)

/-- An MTR register as it reads. -/
def State.readMtr (s : State) (o : Nat) : Nat :=
  let m := s.mtr
  let lg : Saved := m.snapshot.getD { live := {}, cn := 0 }
  let ck : Saved := m.checkpoints.head?.getD { live := {}, cn := 0 }
  if 0x400 ≤ o ∧ o < 0x600 then s.readMtrCh ((o - 0x400) / 0x20) (o % 0x20)
  else if 0x100 ≤ o ∧ o < 0x200 then s.readFeeder ((o - 0x100) / 0x40) (o % 0x40)
  else
    match o with
    | 0x004 => flags [m.sealOpen, s.feeders.any s.feederCal, decide (m.gaps ≠ [])] 0 + flags (m.chs.map MtrCh.faulty) 16
    | 0x008 => m.sealGen
    | 0x010 => (match m.pendingN with | some n => n + 2147483648 | none => 0)
    | 0x014 => m.lastLatch % 4294967296
    | 0x018 => m.lastLatch / 4294967296
    | 0x028 => ck.cn % 4294967296
    | 0x02C => ck.cn / 4294967296
    | 0x030 => lg.cn % 4294967296
    | 0x034 => lg.cn / 4294967296 + lg.us % 65536 * 65536
    | 0x038 => ((upFrom 0 4).map fun f => s.gapBits f * 2 ^ (3 * f)).sum + m.lastClass * 65536
    | 0x044 => m.regLo
    | 0x048 => m.regHi
    | 0x054 => flags [m.cal.done, m.cal.busy] 0 + min 65535 m.cal.cycles * 65536
    | 0x05C => twos 32 m.cal.p
    | 0x060 => twos 32 m.cal.q
    | 0x064 => m.cal.rms
    | 0x068 => twos 24 m.cal.dc
    | 0x070 => s.spareStatus
    | _ => s.reg (0x40050000 + o)

end Sys2Proof.Machine
end

