-- ==== Sys2Proof/Machine/RegWrite.lean ====
section
/-! DEFINITION. A register write of the blocks TIME, MTR, DRV, RAD and FLD by its offset, with its effect (R15 to R18): the
blocks a canopy preset may name (R388). -/

namespace Sys2Proof.Machine

/-- A write whose only effect is the stored word. -/
def State.writePlain (s : State) (a v : Nat) (w : Writer) : State × Reason :=
  let (s, r) := s.writeReg a v w
  (s, r.reason)

/-- A write of a register no role guards. -/
def accepted (s : State) : State × Reason :=
  (s, .ok)

/-- The snapshot of R45. -/
def State.snap (s : State) : State :=
  { s with time := { s.time with snap := { city := s.time.city, cn := s.cn, tick := s.time.tsc } } }

/-- TIME (Table 2.5). -/
def State.writeTime (s : State) (o v : Nat) (w : Writer) : State × Reason :=
  if o = 0 then s.writeTimeCtrl v w
  else if o = 8 then accepted (s.iff (bit 0 v) State.snap)
  else if o = 0x50 then s.writeMainsCfg v w
  else if o = 0x90 then s.writeSyncCtrl v w
  else if o = 0x94 then accepted { s with time := { s.time with
      syncMoved := s.time.syncMoved && !bit 0 v, syncIgnored := s.time.syncIgnored && !bit 1 v } }
  else if 0x100 ≤ o ∧ o < 0x300 ∧ o % 0x20 = 0 then s.writeTrigger (Fin.ofNat 16 ((o - 0x100) / 0x20)) v w
  else if 0x100 ≤ o ∧ o < 0x300 ∧ o % 0x20 = 0x10 then
    accepted (s.modTrigger (Fin.ofNat 16 ((o - 0x100) / 0x20)) fun t => { t with fired := t.fired && !bit 0 v, missed := t.missed && !bit 1 v })
  else if 0x300 ≤ o ∧ o < 0x3E0 ∧ o % 0x20 = 4 then
    accepted (s.clearOvr ((o - 0x300) / 0x20) v)
  else if 0x300 ≤ o ∧ o < 0x3E0 ∧ o % 0x20 = 0x1C then accepted (s.iff (bit 0 v) fun s => s.popCapture ((o - 0x300) / 0x20))
  else s.writePlain (0x40020000 + o) v w

/-- MTR (Table 8.10). -/
def State.writeMtr (s : State) (o v : Nat) (w : Writer) : State × Reason :=
  if isMetrology (0x40050000 + o) then s.writeMetrology (0x40050000 + o) v w
  else if o = 0x40 then s.writeRegSel v w
  else if 0x400 ≤ o ∧ o < 0x600 ∧ o % 0x20 = 0x18 then accepted (s.writeMtrStatus ((o - 0x400) / 0x20) v)
  else s.writePlain (0x40050000 + o) v w

/-- DRV (Table 9.10). -/
def State.writeDrv (s : State) (o v : Nat) (w : Writer) : State × Reason :=
  if o = 0 then s.writeDrvCtrl v w
  else if o = 0x14 then s.writeIncCtrl v w
  else if o = 0x18 then accepted (s.writeIncStatus v)
  else if 0x100 ≤ o ∧ o < 0x900 ∧ o % 0x40 = 0x34 then accepted (s.writeChStatus ((o - 0x100) / 0x40) v)
  else if 0x100 ≤ o ∧ o < 0x900 ∧ o % 0x40 = 0x38 then s.writeChCmd ((o - 0x100) / 0x40) v w
  else if 0xB00 ≤ o ∧ o < 0xB80 ∧ o % 0x20 = 0 then s.writeTwCfg ((o - 0xB00) / 0x20) v w
  else if 0xC00 ≤ o ∧ o < 0xE00 ∧ o % 0x40 = 0 then s.writePeCtrl ((o - 0xC00) / 0x40) v w
  else if 0xC00 ≤ o ∧ o < 0xE00 ∧ (o % 0x40 = 8 ∨ o % 0x40 = 0xC ∨ o % 0x40 = 0x10) then s.writePeStart (0x40060000 + o) v w
  else s.writePlain (0x40060000 + o) v w

/-- RAD_LDG_CMD (Table 3.13). -/
def State.writeLedgerCmd (s : State) (v : Nat) : State :=
  let s := s.iff (bit 0 v) State.ledgerRead
  let s := s.iff (bit 1 v) State.ledgerWrite
  s.iff (bit 2 v) State.ledgerClear

/-- RAD (Table 3.13). -/
def State.writeRad (s : State) (o v : Nat) (w : Writer) : State × Reason :=
  if o = 0 then s.writeRadCtrl v w
  else if o = 0x30 then s.writeTrx8 v w
  else if o = 0x38 then s.writeSafeIe v w
  else if 0x100 ≤ o ∧ o < 0x340 ∧ o % 0x40 = 0 then s.writeTrx ((o - 0x100) / 0x40) v w
  else if o = 0x428 then accepted (s.writeLedgerCmd v)
  else s.writePlain (0x40070000 + o) v w

/-- FLD (Table 17.14). -/
def State.writeFld (s : State) (o v : Nat) (w : Writer) : State × Reason :=
  if o = 0xC then
    accepted { s with fld := { s.fld with kcOver := (upFrom 0 4).map fun k => lget false k s.fld.kcOver && !bit k v } }
  else if o = 0x10 then accepted { s with fld := { s.fld with modOver := s.fld.modOver && !bit 1 v } }
  else s.writePlain (0x400D0000 + o) v w

/-- A write into one of the blocks a preset may name (R388). -/
def State.writeBlock (s : State) (a v : Nat) (w : Writer) : State × Reason :=
  match a >>> 16 with
  | 0x4002 => s.writeTime (a % 65536) v w
  | 0x4005 => s.writeMtr (a % 65536) v w
  | 0x4006 => s.writeDrv (a % 65536) v w
  | 0x4007 => s.writeRad (a % 65536) v w
  | 0x400D => s.writeFld (a % 65536) v w
  | _ => accepted s

/-- The module writes as if the INSTALLER role held it (R388): no record of a role's action. -/
def presetWriter : Writer :=
  { role := .installer, via := .module }

end Sys2Proof.Machine
end

