-- ==== Sys2Proof/Machine/Canopy.lean ====
section
/-! DEFINITION. Loading a canopy and clearing its regions (R381, R393 to R402, R610). -/

namespace Sys2Proof.Machine

/-! Placing. -/

/-- Tiles of a stand that can carry a slot: not felled, not suspect, not under test, not yet taken. -/
def State.tilesFree (s : State) (stand : Stand) (taken : List Nat) : List Nat :=
  (upFrom 0 56).filter fun i => !taken.contains i
    && (match (s.unit (unitOf stand 0 i)).mark with
        | none => true
        | some _ => false)

/-- A slot of a loaded image: which tile takes it in each stand is the module's choice (R381; log 12). -/
def State.placeSlot (s : State) (x : TileRec) : State :=
  match templateOf x.id with
  | none => s
  | some t =>
    let taken (stand : Stand) : List Nat := s.can.slots.map fun p => lget 56 stand.place p.2.tiles
    let (a, s) := s.pickOne (s.tilesFree .a (taken .a))
    let (b, s) := s.pickOne (s.tilesFree .b (taken .b))
    let u : SlotUse := { template := t, unit := x.unit, region := x.region, tiles := [a, b] }
    { s with can := { s.can with slots := tput x.slot u s.can.slots } }

/-- Sixteen of a stand's eighteen engines, in an order that is the module's choice (R381; log 12). -/
def State.placeEngines (s : State) (stand : Stand) : List Nat × State :=
  let free := (upFrom 0 18).filter fun i => (match (s.unit (unitOf stand 1 i)).mark with
    | none => true
    | some _ => false)
  let add (_ : Nat) (x : List Nat × State) : List Nat × State :=
    let (e, s) := x.2.pickOne (free.filter fun i => !x.1.contains i)
    (x.1 ++ [e], s)
  forEach add (upFrom 0 16) ([], s)

/-- Every slot and engine of an image is placed anew (R381). -/
def State.placeAll (s : State) (im : Image) : State :=
  let s := { s with can := { s.can with slots := [] } }
  let s := forEach (fun x s => s.placeSlot x) im.tiles s
  let (ea, s) := s.placeEngines .a
  let (eb, s) := s.placeEngines .b
  { s with can := { s.can with engines := [ea, eb] } }

/-- Routes of an image's record list become those of the controller (R387, R415). -/
def State.addRoutes (s : State) (l : List ImgRec) : State :=
  let entries := (l.map fun r => r.entries.map routeEntryOf).flatten
  { s with evt := { s.evt with routes := entries.foldl (fun t e => tput e.1 e.2 t) s.evt.routes } }

/-- The routes of a region's sources are taken back (R397). -/
def State.dropRoutes (s : State) (mine : Nat → Bool) : State :=
  { s with evt := { s.evt with routes := s.evt.routes.filter fun p => !mine p.1 } }

/-! Contents that reach registers (R610). -/

/-- The module writes a field of a register (R610). -/
def State.writeField (s : State) (a mask v : Nat) : State :=
  (s.writeBlock a (merge mask (s.reg a) v) presetWriter).1

/-- What a MAC block writes (R610). -/
def State.writeMac (s : State) (x : TileRec) : State :=
  let b := x.block
  let s := (s.writeBlock (0x40070100 + 0x40 * oct 1 b) x.trxCtrl presetWriter).1
  let s := s.writeField 0x4007001C 0x1F00 (256 * oct 5 b)
  let s := s.writeField 0x40070018 0xFFFF (w16 6 b)
  let s := s.writeField 0x40070028 0xFFFFFFFF (w32 8 b)
  s.writeField 0x40070024 0xFFFFFFFF (w16 12 b)

/-- What a PTP block writes: ENABLE of each port in its mask (R610). -/
def State.writePtp (s : State) (x : TileRec) : State :=
  let mask := oct 0 x.block
  s.writeField 0x400200B0 (flag (bit 0 mask) 0 + flag (bit 1 mask) 8) 0x101

/-- The metering words that differ from the registers in force, where step 13 of Table 10.6 allows them (R307, R610). -/
def State.writeMetering (s : State) (im : Image) : State :=
  if s.mtr.sealOpen && s.installerHeld then
    forEach (fun p s => if s.reg p.1 = p.2 then s else (s.writeBlock p.1 p.2 presetWriter).1) im.metering s
  else s

/-- Parameter blocks of slots reach their registers (R610). -/
def State.writeBlocks (s : State) (im : Image) (l : List TileRec) : State :=
  forEach (fun x s => match templateOf x.id with
    | some .mac => s.writeMac x
    | some .ptp => s.writePtp x
    | some .meterAcc => s.writeMetering im
    | _ => s) l s

/-- Presets in record order (R388). -/
def State.writePresets (s : State) (l : List ImgRec) : State :=
  forEach (fun e s => (s.writeBlock (w32 0 e) (w32 4 e) presetWriter).1) ((l.map ImgRec.entries).flatten) s

/-! Digests and the sites data. -/

/-- The boot measurement chain over the four digests of Table 14.5 (R481). -/
def bmcChain (drover firmware tset canopy : BitVec 256) : BitVec 256 :=
  let step (bmc : BitVec 256) (tag : Byte) (d : BitVec 256) : BitVec 256 := Config.sha256 (octets256 bmc ++ [tag] ++ octets256 d)
  step (step (step (step 0 1 drover) 2 firmware) 3 tset) 4 canopy

/-- The chain is rebuilt over what runs (R481, R482). -/
def State.measureCanopy (s : State) : State :=
  { s with key := { s.key with bmc := bmcChain s.key.drover s.key.firmware s.can.tset s.can.digest } }

/-- Derive every MB slot anew at the measurement in force (R482). -/
def State.rederiveMb (s : State) : State :=
  forEach (fun n s =>
    let c := s.slot n
    if c.mb && decide (c.state = .live) then match c.parent with
      | some p => s.setSlot n { c with value := s.derived c.usage true p c.info }
      | none => s
    else s) (upFrom 0 64) s

/-- A REGULATORY record comes into force: the profile, and the item every node holds (R94, R393, Table 4.7). -/
def State.setRegulatory (s : State) (p : Regulatory) : State :=
  { s with rad := { s.rad with profile := p }, can := { s.can with regulatory := none } }

/-- A changed REGULATORY record waits for the first CN after this one that is a multiple of 400 (R393); the nodes get it
with that effective CN. -/
def State.awaitRegulatory (s : State) (p : Regulatory) : State :=
  if p = s.rad.profile then s
  else
    let s := { s with can := { s.can with regulatory := some p } }
    let at_ := (s.cn / 400 + 1) * 400
    forEach (fun n s => if n.speaks then s.bringItem n.eui 0x0004 (some p.octets) at_ else s) s.node.nodes s

/-- The running image is named by the CAN registers (Table 10.11). -/
def State.setImage (s : State) (im : Image) : State :=
  { s with can := { s.can with image := some im, digest := im.digest, siteId := im.siteId, site := im.site } }

/-- The image is loaded whole (R388, R610): slots, engines, queues, routes, registers and presets, radio and site data. -/
def State.fullLoad (s : State) (im : Image) : State :=
  let s := (s.setImage im).placeAll im
  let queues : Table QueueSt := forEach (fun (q : Nat × QueueSt) t => tput q.1 q.2 t) ((im.ofType 3).map ImgRec.queueOf) []
  let s := { s with
    que := { s.que with queues := queues }
    can := { s.can with loaded := true, clearing := none } }
  let s := { s with evt := { s.evt with srcs := [], suppressed := [] } }
  let s := (s.dropRoutes fun _ => true).addRoutes (im.ofType 4)
  let s := s.setRegulatory im.regulatory
  let s := forEach (fun t s => (s.writeBlock (0x40070100 + 0x40 * t) 0 presetWriter).1) (upFrom 0 9) s
  let s := s.writeBlocks im im.tiles
  s.writePresets (im.ofType 5)

/-- A refused image (R392, source 886, id 0x58). -/
def State.refuseImage (s : State) (r : Reason) (index : Nat) : State :=
  let s := { s with can := { s.can with refuseReason := reasonCode r, refuseIndex := index } }
  (s.post 886 1 0).record 886 0x58 r (le 4 (reasonCode r + 65536 * (index % 65536)))

/-! Clearings. -/

/-- Templates that are carried through a clearing (Table 10.7). -/
def carriedTemplate : Template → Bool
  | .mac => true
  | .linkCrypto => true
  | .ptp => true
  | .waveRelay => true
  | .fieldIo => true
  | _ => false

/-- Slots of a region. -/
def CanSt.slotsOf (c : CanSt) (region : Nat) : List (Nat × SlotUse) :=
  c.slots.filter fun p => decide (p.2.region = region)

def CanSt.regionHas (c : CanSt) (region : Nat) (l : List Template) : Bool :=
  (c.slotsOf region).any fun p => l.contains p.2.template

/-- L of a region (R395). -/
def CanSt.clearLength (c : CanSt) (region : Nat) : Nat :=
  2 + ((c.slotsOf region).length + 3) / 4

/-- A billing boundary falls within two cycles (R322). -/
def State.boundaryWithin (s : State) (from_ to_ : Cn) : Bool :=
  let n := max 1 s.latchN
  let first := if s.mtr.nextLatch < from_ then s.mtr.nextLatch + (from_ - s.mtr.nextLatch + n - 1) / n * n else s.mtr.nextLatch
  decide (first ≤ to_)

/-- A fixed contactor change falls within two cycles (R279). -/
def State.contactorWithin (s : State) (from_ to_ : Cn) : Bool :=
  (upFrom 0 4).any fun k => (s.kc k).fixed.any fun p => decide (from_ ≤ p.1) && decide (p.1 ≤ to_)

/-- Running slices on tiles a region uses. -/
def State.slicesOn (s : State) (region : Nat) : List Slice :=
  s.cop.slices.filter fun x => x.started && decide (x.unit.kind = 0)
    && (s.can.slotsOf region).any fun p => match x.victim with
        | some slot => decide (slot = p.1)
        | none => false

/-- The window of a clearing meets no billing boundary and no contactor change that matters to its region (R394). -/
def State.windowFree (s : State) (region : Nat) (c : Cn) : Bool :=
  let l := s.can.clearLength region
  (!s.can.regionHas region [.meterPipe, .meterAcc] || !s.boundaryWithin c (c + l))
    && (!s.can.regionHas region [.dimmingAction] || !s.contactorWithin c (c + l))

/-- The conditions of R394 that are known in advance hold for a start at c. -/
def State.mayStart (s : State) (region : Nat) (c : Cn) : Bool :=
  (match s.can.clearing with
    | some k => decide (k.c + k.len ≤ c)
    | none => true)
    && (s.slicesOn region).all (fun x => decide (s.sliceEnd x ≤ c)) && s.windowFree region c

/-- The earliest CN at or after one at which a region's clearing may start, within a bound the search needs. -/
def State.earliestStart (s : State) (region : Nat) : Nat → Cn → Option Cn
  | 0, _ => none
  | n + 1, c => if s.mayStart region c then some c else s.earliestStart region n (c + 1)

/-- Cycles the search for c looks ahead. -/
def clearingSearch : Nat := 4096

/-- CLEARING_FIX (R394): c of the next region to clear, with its journal entry. The activation's phase stands as it is. -/
def State.fixClearing (s : State) : State :=
  match s.can.activation, s.can.clearing with
  | some a, none =>
    match a.regions with
    | [] => s
    | r :: _ =>
      match s.earliestStart r clearingSearch (max a.cn (s.cn + 1)) with
      | none => s
      | some c =>
        let s := { s with can := { s.can with clearing := some { region := r, c := c, len := s.can.clearLength r } } }
        match s.upd.activation with
        | some x => s.journalEntry 2 s.upd.phase s.journalStand x.flagBits x.seq (regionMask a.all)
            (s.upd.settingsWord s.upd.format s.upd.area) x.digest
        | none => s
  | _, _ => s

def execClearingFix (s : State) : Host.Outcome State Fault Refusal :=
  .next (s.whenLive State.fixClearing)

/-- Free understory tiles of a stand that carry nothing. -/
def State.spareTiles (s : State) (stand : Stand) : List Nat :=
  (upFrom 0 56).filter fun i => s.spare (unitOf stand 0 i)

/-- The conditions of R394 that only CYC(c) shows: understory for the carried tiles, INC_IN, and no slice on the region. -/
def State.startAllowed (s : State) (region : Nat) : Bool :=
  let carried := countIf (fun p => carriedTemplate p.2.template) (s.can.slotsOf region)
  s.stands.all (fun x => decide (carried ≤ (s.spareTiles x).length))
    && !(s.can.regionHas region [.stringLoop, .pattern] && s.incActive)
    && (s.slicesOn region).isEmpty && !s.sys.powerFail

/-- A carried function moves to an understory tile of each stand (Table 10.7). -/
def State.carrySlot (s : State) (slot : Nat) : State :=
  let (a, s) := s.pickOne (s.spareTiles .a)
  let (b, s) := s.pickOne (s.spareTiles .b)
  let put (u : SlotUse) : SlotUse := { u with carriers := [some a, if s.build = .t then some b else none] }
  { s with can := { s.can with slots := tmod slot put s.can.slots } }

/-- The meter tiles stop: a gap of class CLEARING opens on every feeder in use (Table 10.7, R307). -/
def State.stopMeter (s : State) : State :=
  let s := forEach (fun f s => forEach (fun p s => s.openGap f p .clearing) (upFrom 0 3) s) s.feeders s
  { s with mtr := { s.mtr with running := false } }

/-- The meter tiles run again: the gap closes (Table 10.7). -/
def State.restartMeter (s : State) : State :=
  let s := { s with mtr := { s.mtr with running := true } }
  forEach (fun f s =>
    let start := minOr s.cn ((s.gapsOf f .clearing).map Gap.start)
    let s := s.closeGaps f .clearing fun _ => true
    s.modInt f fun i => { i with gapNs := i.gapNs + (s.cn - start) * s.period }) s.feeders s

/-- Sources of a region's slots (R381). -/
def CanSt.sourcesOf (c : CanSt) (region : Nat) : List Nat :=
  ((c.slotsOf region).map fun p => upFrom (16 * p.1) 16).flatten

/-- Sources that are GATHERING or ACTIVE_PENDING have their records written (R426). -/
def EvtSt.flush (e : EvtSt) (n : Nat) : EvtSt :=
  match tget n e.srcs with
  | some c => if c.state = .active then e else { e with srcs := tput n { c with due := true } e.srcs }.deliver n
  | none => e

/-- Queues in a region's mask are emptied and their overrun bits cleared (Table 10.8). -/
def State.emptyQueues (s : State) (region : Nat) : State :=
  let mask := match s.can.image.bind (fun im => im.region region) with
    | some r => r.queueMask
    | none => 0
  let empty (p : Nat × QueueSt) : Nat × QueueSt :=
    if bit p.1 mask then (p.1, { p.2 with words := [], above := false, overrun := false, poisoned := false }) else p
  { s with que := { s.que with queues := s.que.queues.map empty } }

/-- The commit point of an activation by clearings (R519). -/
def State.commitClearings (s : State) : State :=
  match s.upd.activation with
  | some a => if a.path = .clearings ∧ a.committed = false
      then
        let s := { s with upd := { s.upd with backup := some s.asBackup, checks := 0x7F, firstFailed := 0 } }
        (s.modActivation fun a => { a with committed := true, since := s.cn }).stepPhase 0x07
      else s
  | none => s

/-- CYC(c) of a clearing (Table 10.8): the commit point of its activation, carriers, sources, queues, held tiles. -/
def State.startClearing (s : State) (k : Clearing) : State :=
  let first := match s.can.activation with
    | some a => !a.begun
    | none => false
  let begun := s.can.activation.map fun a => { a with begun := true }
  let s := { s with can := { s.can with
    clearing := some { k with started := true }, lastC := k.c, lastRegion := k.region, lastLen := k.len, activation := begun } }
  let s := s.iff first State.commitClearings
  let s := forEach (fun (p : Nat × SlotUse) s => if carriedTemplate p.2.template then s.carrySlot p.1 else s) (s.can.slotsOf k.region) s
  let evt := forEach (fun n (e : EvtSt) => e.flush n) (s.can.sourcesOf k.region) s.evt
  let s := { s with evt := { evt with suppressed := evt.suppressed ++ s.can.sourcesOf k.region } }
  let s := s.emptyQueues k.region
  let s := s.iff (s.can.regionHas k.region [.meterPipe, .meterAcc]) State.stopMeter
  s.post 884 1 0

/-- At a CYC: a fixed clearing whose c has come starts, or c moves on by one cycle (R394). -/
def State.clearingTick (s : State) : State :=
  let s := match s.can.clearing with
    | some k =>
      if k.started ∨ s.cn < k.c then s
      else if s.startAllowed k.region && s.windowFree k.region s.cn then s.startClearing { k with c := s.cn }
      else { s with can := { s.can with clearing := some { k with c := s.cn + 1 } } }
    | none => s
  match s.can.clearing with
  | some k => s.iff (k.started && s.can.regionHas k.region [.colour]) fun s =>
      forEach (fun g s => s.modTw g fun t => { t with dirty := true }) (upFrom 0 4) s
  | none => s

/-- Records of a region come from the new image; the other records stay those of the running one, before them. -/
def Image.withRegion (old new : Image) (region : Nat) : Image :=
  let mine (r : ImgRec) : Bool := decide (r.region = region) || (r.isType 1 && decide (oct 0 r.content = region))
  { old with records := (old.records.filter fun r => !mine r) ++ new.records.filter mine }

/-- A slot runs its new template and block; its function returns from the carrier (Table 10.8). -/
def State.reloadSlot (s : State) (x : TileRec) : State :=
  match templateOf x.id with
  | none => s
  | some t =>
    let put (u : SlotUse) : SlotUse := { u with template := t, unit := x.unit, region := x.region, carriers := [none, none] }
    { s with can := { s.can with slots := tmod x.slot put s.can.slots } }

/-- The image is in force: site data and digests; a changed REGULATORY record waits (R393). The epoch grows with an
activation (R400); a fallback has let it grow already (R516). -/
def State.activateImage (s : State) (im : Image) (back : Bool) : State :=
  let s := (s.setImage im).iff (!back) State.growEpoch
  let s := s.measureCanopy.rederiveMb
  let s := s.awaitRegulatory im.regulatory
  let s := { s with can := { s.can with activation := none } }
  if back then s.stepPhase 0x0D
  else match s.upd.activation with
    | some a => if a.path = .clearings then s.stepPhase 0x08 else s
    | none => s

/-- The record of a cleared region (id 0x58, source 885): region and c. -/
def State.recordCleared (s : State) (k : Clearing) : State :=
  (s.post 885 1 0).record 885 0x58 .ok (le 1 k.region ++ le 5 k.c)

/-- CLEARING_END (R397): at CYC(c + L) the region runs. -/
def State.endClearing (s : State) : State :=
  match s.can.clearing, s.can.activation with
  | some k, some a =>
    if !k.started || decide (s.cn < k.c + k.len) then s
    else
      let mine := a.image.records.filter fun r => decide (r.region = k.region)
      let tiles := (mine.filter fun r => r.isType 2).map ImgRec.tile
      let sources := s.can.sourcesOf k.region
      let image := s.can.image.map fun (im : Image) => im.withRegion a.image k.region
      let s := { s with
        can := { s.can with clearing := none, image := image }
        evt := { s.evt with suppressed := s.evt.suppressed.filter fun n => !sources.contains n } }
      let s := forEach (fun x s => s.reloadSlot x) tiles s
      let s := s.writeBlocks a.image tiles
      let s := s.writePresets (mine.filter fun r => r.isType 5)
      let s := s.iff (!s.mtr.running && s.can.regionHas k.region [.meterPipe, .meterAcc]) State.restartMeter
      let s := (s.dropRoutes fun n => sources.contains n).addRoutes (mine.filter fun r => r.isType 4)
      let s := s.recordCleared k
      let rest := a.regions.drop 1
      if rest = [] then s.activateImage a.image a.back
      else { s with can := { s.can with activation := some { a with regions := rest } } }
  | _, _ => s

def execClearingEnd (s : State) : Host.Outcome State Fault Refusal :=
  .next (s.whenLive State.endClearing)

/-- An image that changes no region (R393): at CYC of the first CN at or after the activation CN at which no clearing runs. -/
def State.plainActivation (s : State) : State :=
  match s.can.activation with
  | some a =>
    if a.regions = [] ∧ a.cn ≤ s.cn ∧ s.can.clearing = none then
      let s := s.iff (!a.begun && !a.back) State.commitClearings
      s.activateImage a.image a.back
    else s
  | none => s

/-- A waiting REGULATORY record takes effect at a multiple of 400 (R393). -/
def State.regulatoryTick (s : State) : State :=
  match s.can.regulatory with
  | some p => if s.cn % 400 = 0 then s.setRegulatory p else s
  | none => s

/-- SEGMENT_DIGEST_REFRESH (R402): the segment digest into CAN_SEGD. -/
def execSegmentDigestRefresh (s : State) : Host.Outcome State Fault Refusal :=
  .next (s.whenLive fun s => { s with can := { s.can with segDigest := s.segmentDigest } })

/-! Registers (Table 10.11). -/

/-- CAN_STATUS (Table 10.12). -/
def State.canStatus (s : State) : Nat :=
  let running := match s.can.clearing with
    | some k => k.started
    | none => false
  let region := match s.can.clearing with
    | some k => k.region
    | none => 0
  let regions := match s.can.image with
    | some im => if s.can.loaded then 2 ^ im.regions - 1 else 0
    | none => 0
  flags [s.can.loaded, running, s.can.slots.any fun p => p.2.carriers.any Option.isSome, s.can.activation.isSome && !running] 0
    + region * 16 + regions % 65536 * 65536

/-- CAN_SLOT_MAP (Table 10.13), for the stand that serves. -/
def State.slotMap (s : State) : Nat :=
  let n := field 5 0 (s.reg 0x400C00A0)
  match tget n s.can.slots with
  | some u =>
    let i := s.ford.active.place
    match lget none i u.carriers with
    | some t => t + templateCode u.template * 256 + u.region * 65536 + 2 ^ 24
    | none => lget 0 i u.tiles + templateCode u.template * 256 + u.region * 65536
  | none => 0

/-- A register of the CAN block. -/
def State.readCan (s : State) (o : Nat) : Nat :=
  if o = 0 then s.canStatus
  else if o = 4 then (if s.can.loaded then (s.can.image.map fun im => im.seq).getD 0 else 0)
  else if o = 8 then s.fsp.epoch
  else if o = 0xC then 1
  else if 0x10 ≤ o ∧ o < 0x30 then word256 s.can.digest ((o - 0x10) / 4)
  else if 0x30 ≤ o ∧ o < 0x50 then word256 s.can.tset ((o - 0x30) / 4)
  else if 0x50 ≤ o ∧ o < 0x70 then word256 s.settingsDigest ((o - 0x50) / 4)
  else if 0x70 ≤ o ∧ o < 0x90 then word256 s.can.segDigest ((o - 0x70) / 4)
  else if o = 0x90 then s.disagreeing
  else if o = 0x94 then s.can.lastC % 4294967296
  else if o = 0x98 then s.can.lastC / 4294967296 % 256 + s.can.lastRegion * 65536 + s.can.lastLen * 16777216
  else if o = 0x9C then s.can.refuseReason + s.can.refuseIndex % 65536 * 65536
  else if o = 0xA4 then s.slotMap
  else if o = 0xAC then lget 0 (s.reg 0x400C00A8) (lget [] s.ford.active.place s.can.engines)
  else s.reg (0x400C0000 + o)

end Sys2Proof.Machine
end

