-- ==== Sys2Proof/Machine/FordOps.lean ====
section
/-! DEFINITION. Shared operations of Ford and the stands (R430 to R453). -/

namespace Sys2Proof.Machine

/-- The other stand. -/
def Stand.other : Stand → Stand
  | .a => .b
  | .b => .a

/-- What Ford holds of a stand. -/
def FordSt.of (f : FordSt) : Stand → StandSt
  | .a => f.a
  | .b => f.b

/-- Change what Ford holds of a stand. -/
def State.modStand (s : State) (x : Stand) (g : StandSt → StandSt) : State :=
  match x with
  | .a => { s with ford := { s.ford with a := g s.ford.a } }
  | .b => { s with ford := { s.ford with b := g s.ford.b } }

/-- Stand codes (Table 12.11). -/
def standCode : StandState → Nat
  | .active => 0
  | .standby => 1
  | .learning => 2
  | .withdrawn => 3
  | .quarantined => 4
  | .absent => 7

/-- Number of a stand in payloads and registers. -/
def Stand.number : Stand → Nat := Stand.place

/-- FORD_CAUSE (Table 12.9). -/
def State.fordCause (s : State) : Nat :=
  s.ford.cause + s.ford.decision * 16

/-- An event of Ford (Table 12.8) with its record (id 0x40): FORD_CAUSE follows the payload. -/
def State.fordEventAs (s : State) (role : Role) (source kind payload : Nat) : State :=
  (s.post source kind payload).recordAs role source 0x40 .ok (le 1 kind ++ [0] ++ le 4 payload ++ le 4 s.fordCause)

def State.fordEvent (s : State) (source kind payload : Nat) : State :=
  s.fordEventAs .nobody source kind payload

/-- FORD_CLK_STATUS (Table 12.9). -/
def State.clkStatus (s : State) : Nat :=
  s.ford.ref + flag s.ford.lostA 4 + flag s.ford.lostB 5 + min 65535 s.ford.clkSwitches * 65536

/-- A stand changes state (R438): sources 803 and 804. -/
def State.setStand (s : State) (x : Stand) (st : StandState) : State :=
  let old := (s.ford.of x).state
  if old = st then s
  else (s.modStand x fun r => { r with state := st }).fordEvent (803 + x.number) 1 (standCode st + standCode old * 256)

/-- Slices a stand runs, its own and the common ones. -/
def State.cutStand (s : State) (x : Stand) (icause : Nat) : State :=
  s.cutSlices icause fun y => decide (y.by_ = x)

/-- A stand is withdrawn and runs its stand test (R438). The stand that withdrew last serves in SAFE HOLD (R447). -/
def State.withdrawStand (s : State) (x : Stand) (icause : Nat) : State :=
  let s := (s.setStand x .withdrawn).cutStand x icause
  let s := s.modStand x fun r => { r with
    withdrawals := r.withdrawals ++ [s.cn], testing := true, retry := false, passed := false, probationEnd := none, probationDivs := 0 }
  { s with ford := { s.ford with svc := x, probation := false } }

/-- The other stand follows in lockstep. -/
def State.following (s : State) : Bool :=
  decide ((s.ford.of s.ford.active.other).state = .standby)

/-- The stand that is LEARNING in probation (R439). -/
def State.inProbation (s : State) : Bool :=
  decide ((s.ford.of s.ford.active.other).state = .learning) && s.ford.probation

/-- A handover's stands run different images, from STAGED until probation: Ford compares nothing (R514). -/
def State.mixed (s : State) : Bool :=
  s.ford.a.otherImage || s.ford.b.otherImage || s.ford.a.rewriting || s.ford.b.rewriting

/-- Ford compares the outputs of a class (R432): two stands in lockstep, no idle-path slice of that class. -/
def State.compares (s : State) (cls : Nat) : Bool :=
  decide (s.build = .t) && !s.ford.safeHold && (s.following || s.inProbation) && !s.mixed && decide (s.ford.idleClass ≠ some cls)

/-- Ford sees a cause: it holds the outputs and asks both stands (R437). -/
def State.holdFor (s : State) (cause : Nat) : State :=
  { s with ford := { s.ford with holding := true, cause := cause, diag := some { cause := cause } } }

/-- The hold ends (FORD_HOLD_TIME in 10 ns). -/
def State.release (s : State) (decision hold : Nat) : State :=
  { s with ford := { s.ford with
      holding := false, decision := decision, diag := none, holdTime := hold, claimA := false, claimB := false } }

/-- Ford drives from a stand (R442, R448): it is ACTIVE, and the switch counts. -/
def State.driveFrom (s : State) (x : Stand) : State :=
  let s := s.setStand x .active
  { s with ford := { s.ford with active := x, switches := bump s.ford.switches } }

/-- A switch after a fault (Table 12.2): the old active stand is withdrawn, its slices end with SWITCHOVER (R444). -/
def State.switchOver (s : State) (hold : Nat) : State :=
  let old := s.ford.active
  let s := s.release 1 hold
  let s := (s.withdrawStand old 1).driveFrom old.other
  s.fordEvent 800 1 hold

/-- Ford's shadow of CN and of the slot length (R446). -/
def State.takeShadow (s : State) : State :=
  { s with ford := { s.ford with shadowCn := s.cn, shadowSlot := s.time.slotLen } }

/-- Ford enters SAFE HOLD (R445): every stand that could drive is withdrawn, and Ford holds the outputs until it releases
them to the stand that returns (R447). -/
def State.enterSafeHold (s : State) (vote : Bool) (hold : Nat) : State :=
  let drives (x : Stand) : Bool := match (s.ford.of x).state with
    | .active => true
    | .standby => true
    | .learning => true
    | _ => false
  let s := s.release 3 hold
  let old := s.ford.active
  let s := if drives old.other then s.withdrawStand old.other 6 else s
  let s := if drives old then s.withdrawStand old 6 else s
  let s := { s.takeShadow with ford := { s.takeShadow.ford with safeHold := true, voteHold := vote, holding := true, holdCn := s.cn, switch := none } }
  s.fordEvent 805 1 (s.cn % 4294967296)

/-- A stand restarts alone (Table 19.3, STAND): out of SAFE HOLD or for LEARNING. The recorder drains its staging buffer
first (R606). -/
def State.countRestart (s : State) (x : Stand) : State :=
  let s := s.drainStaging
  match x with
  | .a => { s with sys := { s.sys with cause := 7, resetsA := min 65535 (s.sys.resetsA + 1) } }
  | .b => { s with sys := { s.sys with causeB := 7, resetsB := min 65535 (s.sys.resetsB + 1) } }

/-- A stand begins COPY (R438, R439); one that is to be rewritten first waits for the Drover (R506). -/
def State.beginLearning (s : State) (x : Stand) : State :=
  if (s.ford.of x).otherImage then s.modStand x fun r => { r with testing := false, retry := false, rewriting := true }
  else
    let s := if (s.ford.of x).state = .learning then s else s.countRestart x
    let s := s.setStand x .learning
    let s := s.modStand x fun r => { r with testing := false, retry := false, probationEnd := none, probationDivs := 0 }
    { s with ford := { s.ford with probation := false } }

/-- Conditions of a planned switch (R448). -/
def State.switchAllowed (s : State) (x : Stand) : Bool :=
  decide ((s.ford.of x).state = .standby) && !s.ford.safeHold && (match s.can.clearing with
    | some k => !k.started
    | none => true)

/-- The first CYC at least so many cycles after now. -/
def State.cycAfter (s : State) (n : Nat) : Cn :=
  s.cn + n + (if s.time.tsc = 0 then 0 else 1)

/-- A planned switch is asked for, not before a CN (R448). -/
def State.requestSwitch (s : State) (x : Stand) (at_ : Cn) (drover : Bool) (role : Role) : State :=
  let p : PlannedSwitch := { target := x, notBefore := at_, drover := drover, role := role }
  { s with ford := { s.ford with switch := some p } }

/-- A planned switch is carried out (R448): the old active stand follows as STANDBY. -/
def State.plannedSwitch (s : State) (p : PlannedSwitch) : State :=
  let old := s.ford.active
  let s := { s with ford := { s.ford with switch := none, cause := 5, decision := 1 } }
  let s := ((s.cutStand old 1).setStand old .standby).driveFrom p.target
  s.fordEventAs p.role 812 1 p.target.number

/-- FORD_STATUS (Table 12.11). -/
def State.fordStatus (s : State) : Nat :=
  standCode s.ford.a.state + standCode s.ford.b.state * 8 + flag (decide (s.ford.active = .b)) 6 + flag s.ford.safeHold 7
    + flag s.ford.probation 8 + flag (s.ford.safeHold && decide (s.ford.svc = .b)) 9 + s.ford.ref * 1024 + flag s.ford.degraded 12
    + flag (decide (s.build = .s)) 13 + flag s.ford.holding 14 + flag s.ford.switch.isSome 15

/-- FORD_VOTE (Table 12.9). -/
def State.fordVote (s : State) : Nat :=
  lget 0 0 s.ford.votes + lget 0 1 s.ford.votes * 1024 + lget 0 2 s.ford.votes * 2 ^ 20 + (s.ford.masked.getD 3) * 2 ^ 30

/-- A register of the FORD block. -/
def State.readFord (s : State) (o : Nat) : Nat :=
  let f := s.ford
  if o = 0 then merge 0x100 (s.reg 0x40010000) (flag (decide (f.pref = .b)) 8)
  else if o = 4 then s.fordStatus
  else if o = 8 then s.fordCause
  else if o = 0xC then f.switches
  else if o = 0x10 then f.divergences
  else if o = 0x14 then f.unresolved
  else if o = 0x18 then f.divClass + f.divPin * 256
  else if o = 0x1C then f.divTag % 4294967296
  else if o = 0x20 then f.divTag / 4294967296 % 4294967296
  else if o = 0x24 then f.a.causes % 256 + min 65535 f.a.diagnoses * 65536
  else if o = 0x28 then f.b.causes % 256 + min 65535 f.b.diagnoses * 65536
  else if o = 0x2C then f.holdTime
  else if o = 0x34 then s.clkStatus
  else if o = 0x38 then twos 32 f.clkOfs
  else if o = 0x3C then f.holdCn % 4294967296
  else if o = 0x40 then f.holdCn / 4294967296 % 256
  else if o = 0x44 then s.fordVote
  else if o = 0x48 then minOr 0 f.reserve % 2097152
  else if 0x80 ≤ o ∧ o < 0xA0 then ofLe (slice (o - 0x80) 4 f.lg)
  else if o = 0xA0 then flag f.lgValid 0 + min 65535 f.lgMore * 65536
  else s.reg (0x40010000 + o)

end Sys2Proof.Machine
end

