-- ==== Sys2Proof/Machine/DroverOps.lean ====
section
/-! DEFINITION. Shared operations of the Drover: manifests (R501 to R503), roll-back and fallback (R512 to R520), caravans
(R521). -/

namespace Sys2Proof.Machine

/-! Manifests. -/

/-- A manifest entry (Table 15.2). -/
structure MEntry where
  kind : Nat
  order : Nat
  version : Nat
  offset : Nat
  length : Nat
  digest : BitVec 256
  readMin : Nat
  readMax : Nat
  writes : Nat
  id : Nat

/-- A manifest (R501, Table 15.1). -/
structure Manifest where
  seq : Nat
  length : Nat
  count : Nat
  builds : Nat
  nominal : Nat
  expected : BitVec 256
  fromVersion : Nat
  entries : List MEntry
  algorithm : Nat
  verifySlot : Nat
  decryptSlot : Nat

def readEntry (b : List Byte) : MEntry :=
  { kind := oct 0 b, order := oct 1 b, version := w32 4 b, offset := w32 8 b, length := w32 12 b, digest := ofOctets256 (slice 16 32 b)
    readMin := w16 48 b, readMax := w16 50 b, writes := w16 52 b, id := w32 56 b }

/-- Step 1 of Table 15.3: magic, format, framing of n entries and the signature. -/
def readManifest (b : List Byte) : Option Manifest :=
  let n := w16 6 b
  if b.length < 64 ∨ w32 0 b ≠ 0x54464E4D ∨ w16 4 b ≠ 1 ∨ n = 0 ∨ 16 < n ∨ b.length ≠ 64 + 64 * n + 72 then none
  else
    let g := b.drop (64 + 64 * n)
    some { seq := w32 8 b, length := w32 12 b, count := w32 16 b, builds := oct 20 b, nominal := oct 21 b
           expected := ofOctets256 (slice 24 32 b), fromVersion := w32 56 b
           entries := (upFrom 0 n).map fun i => readEntry (slice (64 + 64 * i) 64 b)
           algorithm := oct 0 g, verifySlot := oct 1 g, decryptSlot := oct 2 g }

/-- The entry of a kind. -/
def Manifest.entry (m : Manifest) (kind : Nat) : Option MEntry :=
  m.entries.find? fun e => decide (e.kind = kind)

def Manifest.has (m : Manifest) (kind : Nat) : Bool :=
  (m.entry kind).isSome

def Manifest.caravans (m : Manifest) : List MEntry :=
  m.entries.filter fun e => decide (e.kind = 4)

/-- Step 2 of Table 15.3: the slots a manifest of these kinds may name, and the verdict on its signature. -/
def State.manifestSigned (s : State) (m : Manifest) (signed : Bool) : Reason :=
  let v := s.slot m.verifySlot
  let d := s.slot m.decryptSlot
  let vOk := decide (m.verifySlot = 8) || ((decide (m.verifySlot = 6) || decide (m.verifySlot = 7)) && !m.has 1 && !m.has 2)
  let dOk := if m.verifySlot = 8 then decide (m.decryptSlot = 9)
    else decide (32 ≤ m.decryptSlot) && decide (m.decryptSlot < 64) && decide (d.usage = 7)
  if !vOk || !dOk then .notAuthorised
  else if v.state = .withered ∨ d.state = .withered then .keyWithered
  else if v.state = .live ∧ d.state = .live ∧ m.algorithm = 1 ∧ signed then .ok
  else .notAuthorised

/-- Parts keep within the package and apart from one another (R502). -/
def partsApart : List MEntry → Bool
  | [] => true
  | e :: rest => (rest.all fun x => decide (e.offset + e.length ≤ x.offset) || decide (x.offset + x.length ≤ e.offset)) && partsApart rest

/-- R502, without the measurement. -/
def Manifest.formed (m : Manifest) : Bool :=
  let kinds := m.entries.map fun e => e.kind
  let plain := m.entries.filter fun e => decide (e.kind ≠ 4)
  kinds.all (fun k => decide (1 ≤ k) && decide (k ≤ 4)) && strictly (m.entries.map fun e => e.order)
    && ((upFrom 1 3).all fun k => decide (countIf (fun e => decide (e.kind = k)) m.entries ≤ 1))
    && (plain.all fun e => m.caravans.all fun c => decide (e.order < c.order))
    && (m.entries.all fun e => decide (e.offset + e.length ≤ m.length) && (decide (e.kind ≠ 4) || decide (e.length ≤ 2097120)))
    && partsApart m.entries

/-- The measurement a manifest must expect (R502). -/
def State.expectedBmc (s : State) (m : Manifest) : BitVec 256 :=
  let pick (kind : Nat) (running : BitVec 256) : BitVec 256 := match m.entry kind with
    | some e => e.digest
    | none => running
  bmcChain s.key.drover (pick 1 s.key.firmware) (pick 2 s.can.tset) (pick 3 s.can.digest)

/-- Caravans the module holds. -/
def State.caravansHeld (s : State) : Nat :=
  countIf (fun (p : Nat × Caravan) => decide (p.2.state ≠ .ended)) s.upd.caravans

/-- The checks of Table 15.3, in their order; the offer's sequence, length and count come with its body (R254). -/
def State.judgeManifest (s : State) (b : List Byte) (signed : Bool) (seq length count : Nat) : Except Reason Manifest :=
  match readManifest b with
  | none => .error .malformed
  | some m =>
    match s.manifestSigned m signed with
    | .ok =>
      if m.seq ≤ s.upd.runSeq then .error .replay
      else if !bit (if s.build = .t then 0 else 1) m.builds || (decide (m.nominal ≠ 0) && decide (m.nominal ≠ field 7 0 (s.reg 0x40020050)))
          || decide (s.upd.firmware < m.fromVersion) then .error .unsupported
      else if !m.formed || decide (m.expected ≠ s.expectedBmc m) || decide (m.seq ≠ seq) || decide (m.length ≠ length)
          || decide (m.count ≠ count) || decide (m.count ≠ (m.length + 4095) / 4096) then .error .malformed
      else if 134217728 < m.length ∨ 4 < s.caravansHeld + m.caravans.length then .error .noCapacity
      else .ok m
    | r => .error r

/-! Sessions. -/

/-- UPD_STATUS.SESSION (Table 15.14). -/
def State.updSession (s : State) : Nat :=
  match s.upd.session, s.upd.activation with
  | some _, some _ => 2
  | some _, none => 1
  | none, _ => 0

/-- Source 880 at each change of SESSION (R519). -/
def State.sessionChanged (s : State) (old : Nat) : State :=
  if s.updSession = old then s else s.post 880 1 0

/-- The session ends: its chunks are discarded. -/
def State.endUpdate (s : State) : State :=
  let old := s.updSession
  let s := { s with upd := { s.upd with session := none, activation := none, caughtUp := false } }
  s.sessionChanged old

/-- The activation is over and its session is open again (R505). -/
def State.dropActivation (s : State) : State :=
  let old := s.updSession
  let s := { s with upd := { s.upd with activation := none, caughtUp := false, handoverArea := false } }
  s.sessionChanged old

/-! Caravans. -/

/-- The offer of a caravan (R178). -/
def Caravan.offerBody (c : Caravan) : List Byte :=
  le 4 c.id ++ le 4 c.length ++ le 4 c.version ++ le 2 c.model ++ le 2 c.count ++ octets256 c.digest

/-- A place for a caravan among the four selections. -/
def UpdSt.freePlace (u : UpdSt) : Option Nat :=
  (upFrom 0 4).find? fun i => match tget i u.caravans with
    | some c => decide (c.state = .ended)
    | none => true

/-- A caravan of a manifest starts (R521); one that carries the same id ends (R524). -/
def State.startCaravan (s : State) (c : Caravan) : State :=
  let s := match s.upd.findCaravan c.id with
    | some (_, old) => if old.state = CarState.ended then s else s.endCaravan c.id
    | none => s
  let s := { s with upd := { s.upd with caravans := s.upd.caravans.filter fun p => decide (p.2.id ≠ c.id) } }
  match s.upd.freePlace with
  | some i => { s with upd := { s.upd with caravans := tput i c s.upd.caravans } }
  | none => s

/-! Roll-back, fallback and completion. -/

/-- A stand is to be rewritten by the Drover before it enters LEARNING (R506, R512, R516). -/
def State.rewrite (s : State) (x : Stand) : State :=
  s.modStand x fun r => { r with rewriting := true, otherImage := true }

/-- The handover or reboot rolls back (R512, Table 15.11): nothing of the running image has changed. -/
def State.rollBack (s : State) (reason : Reason) (check : Nat) : State :=
  match s.upd.activation with
  | none => s
  | some a =>
    let staged := decide (s.upd.phase = 0x05) || decide (s.upd.phase = 0x06)
    let running := s.can.clearing.filter fun k => k.started
    let s := { s with
      upd := { s.upd with reason := reasonCode reason, check := check }
      can := { s.can with activation := none, clearing := running } }
    let s := s.iff (decide (a.path = .handover) && staged) fun s =>
      let s := match (s.ford.of a.newStand).state with
        | .standby => s.setStand a.newStand .learning
        | _ => s
      s.rewrite a.newStand
    let s := { s with ford := { s.ford with switch := none } }
    (s.stepPhase 0x0B).dropActivation

/-- Record and report a fallback (R516): source 883, id 0x60. -/
def State.reportFallback (s : State) (reason : Reason) (check : Nat) : State :=
  let s := { s with upd := { s.upd with reason := reasonCode reason, check := check } }
  s.postRecord 883 0x60 1 (reasonCode reason + check % 256 * 256) reason

/-- What the backup restores (R516, R511). -/
def State.restoreBackup (s : State) : State :=
  match s.upd.backup with
  | none => s
  | some b =>
    let s := { s with
      upd := { s.upd with firmware := b.firmware, area := b.area, format := b.format }
      key := { s.key with firmware := b.firmwareDigest }
      can := { s.can with tset := b.tset } }
    match b.image with
    | some im => s.setImage im
    | none => s

/-- The fallback ends (Table 15.10): the session with its chunks is discarded. -/
def State.endFallback (s : State) : State :=
  (s.stepPhase 0x0D).endUpdate

/-- A fallback starts (R516): the epoch grows, the caravans of the manifest are discarded, and the old image returns by the
path it left. -/
def State.fallBack (s : State) (reason : Reason) (check : Nat) : State :=
  match s.upd.activation with
  | none => s
  | some a =>
    let s := (s.stepPhase 0x0C).growEpoch
    let s := s.reportFallback reason check
    let kept (p : Nat × Caravan) : Bool := decide (p.2.manifest ≠ a.digest)
    let s := { s with upd := { s.upd with caravans := s.upd.caravans.filter kept } }
    match a.path with
    | .handover =>
      let s := s.modActivation fun a => { a with back := true }
      if s.ford.safeHold then s.restoreBackup.rewrite a.newStand |>.endFallback
      else if s.following then s.requestSwitch a.newStand.other (s.cn + 1) true .nobody
      else s.modActivation fun a => { a with path := .reboot, cn := s.cn + 1 }
    | .reboot =>
      if s.ford.safeHold ∧ s.build = .t then s.restoreBackup.endFallback
      else s.modActivation fun a => { a with back := true, cn := s.cn + 1 }
    | .clearings =>
      let s := s.modActivation fun a => { a with back := true }
      match s.can.image, s.upd.backup.bind (fun b => b.image) with
      | some run, some old =>
        let regions := changedRegions run old
        let x : CanActivation := { image := old, cn := s.cn + 1, regions := regions, all := regions, begun := true, back := true }
        { s with can := { s.can with activation := some x } }
      | _, _ => s.endFallback
    | .caravans => s.endFallback

/-- The planned switch of a fallback has been made (R516): the old image runs, the other stand is rewritten. -/
def State.fallbackSwitched (s : State) : State :=
  match s.upd.activation with
  | some a =>
    let s := s.restoreBackup
    let s := match s.can.image with
      | some im => s.fullLoad im
      | none => s
    (s.measureCanopy.rederiveMb.rewrite a.newStand).endFallback
  | none => s

/-- On the T build, a stand that is not there for a new image is rewritten before it next enters LEARNING (R506). -/
def State.leaveBehind (s : State) : State :=
  let x := s.ford.active.other
  match (s.ford.of x).state with
  | .withdrawn => s.modStand x fun r => { r with otherImage := true }
  | .quarantined => s.modStand x fun r => { r with otherImage := true }
  | _ => s

/-- The commit point of an activation by clearings leaves such a stand behind too (R506, R519). -/
def State.clearingsLeave (s : State) : State :=
  match s.upd.activation with
  | some a => s.iff (decide (a.path = .clearings) && a.committed && decide (a.since = s.cn)) State.leaveBehind
  | none => s

/-- The new image is the one that is stored (R512, R517): firmware, template set, settings area, canopy. -/
def State.adoptStores (s : State) (a : Activation) : State :=
  let s := s.leaveBehind
  let s := { s with
    upd := { s.upd with
      backup := some s.asBackup, firmware := a.firmware, area := if a.migrates then 1 - s.upd.area else s.upd.area
      format := if a.migrates then a.format else s.upd.format, checks := 0x7F, firstFailed := 0 }
    key := { s.key with firmware := a.firmwareDigest.getD s.key.firmware }
    can := { s.can with tset := a.tset } }
  match a.image with
  | some im => (s.setImage im).growEpoch
  | none => s

/-- The new image runs. -/
def State.adopt (s : State) (a : Activation) : State :=
  let s := s.adoptStores a
  match a.image with
  | some im => s.fullLoad im
  | none => s

/-- The stand carries the activation on past its commit point: COMMITTED, then CONFIRMING (Table 15.5). -/
def State.committedNow (s : State) : State :=
  let s := s.modActivation fun a => { a with committed := true, since := s.cn }
  (s.stepPhase 0x07).stepPhase 0x08

/-- Every FSP connection is reset (R513). -/
def State.resetSessions (s : State) : State :=
  forEach (fun i s => match s.session i with
    | some _ => s.closeSession i
    | none => s) [0, 1, 2, 3] s

/-- The handover's commit point (R512): the switch has been made, the new image serves and the old stand follows. -/
def State.commitHandover (s : State) : State :=
  match s.upd.activation with
  | none => s
  | some a =>
    let s := (s.adopt a).measureCanopy.rederiveMb
    let s := (s.modStand a.newStand fun r => { r with otherImage := false }).modStand a.newStand.other fun r => { r with otherImage := true }
    s.resetSessions.committedNow

/-- The update is complete (Table 15.10). -/
def State.completeUpdate (s : State) : State :=
  (s.stepPhase 0x0A).endUpdate

/-- The confirmation window ends well (R515, R516): source 882, the backup is the new package, caravans start. -/
def State.confirmed (s : State) : State :=
  match s.upd.activation with
  | none => s
  | some a =>
    let s := s.stepPhase 0x09
    let s := { s with upd := { s.upd with runSeq := a.seq, handoverArea := false } }
    let s := { s with upd := { s.upd with backup := some s.asBackup } }
    let s := s.post 882 1 1
    let s := forEach (fun c s => s.startCaravan c) a.caravans s
    if a.path = .handover then s.rewrite a.newStand.other else s.completeUpdate

/-- The activation is stopped by a happening of Table 15.11: before COMMITTED it rolls back, after it falls back; after
CONFIRMED nothing can stop it. -/
def State.stopUpdate (s : State) (reason : Reason) (check : Nat) : State :=
  match s.upd.activation with
  | none => s
  | some a =>
    if a.back || decide (s.upd.phase = 0x09) || decide (s.upd.phase = 0x0C) then s
    else if a.committed then s.fallBack reason check
    else s.rollBack reason check

end Sys2Proof.Machine
end

