-- ==== Sys2Proof/Machine/Restart.lean ====
section
/-! DEFINITION. What a reset of the stands keeps (R519, R593 to R599, Tables 15.10 and 19.3), and what becomes of promises
after it (R597). -/

namespace Sys2Proof.Machine

/-- A start out of a power-down: COLD, SUPPLY, DORMANT_WAKE or THERMAL (Table 19.3). -/
def powerStart (cause : Nat) : Bool :=
  decide (1 ≤ cause) && decide (cause ≤ 4)

/-- Register words a reset keeps: those held in MRAM, and Ford's own while Ford has power. -/
def keptWord (cause a : Nat) : Bool :=
  isMetrology a || decide (a = 0x40020050) || decide (a / 65536 = 0x4008) || decide (a = 0x40010030)
    || (!powerStart cause && decide (a / 65536 = 0x4001))

/-- The stand a start makes ACTIVE (R593): the journal's roll-forward or fallback first, then PREF, unless it is
QUARANTINED; and whether that overrides PREF. -/
def State.bootStand (s : State) : Stand × Bool :=
  let want := match s.upd.activation with
    | some a => if a.path = .handover ∧ a.committed then (if a.back then a.newStand.other else a.newStand) else s.ford.pref
    | none => s.ford.pref
  if s.build = .s then (.a, false)
  else if (s.ford.of want).state = .quarantined ∧ (s.ford.of want.other).state ≠ .quarantined then (want.other, true)
  else (want, false)

/-- A handover keeps the old image on the old stand until CONFIRMED (R512). -/
def State.handingOver (s : State) : Bool :=
  match s.upd.activation with
  | some a => decide (a.path = .handover)
  | none => false

/-- A stand's record in Ford at a start with `x` to be ACTIVE: QUARANTINED stays (R590). -/
def State.standAt (s : State) (power : Bool) (x y : Stand) : StandSt :=
  let old := s.ford.of y
  let kept : StandSt := if power then {} else { causes := old.causes, diagnoses := old.diagnoses, withdrawals := old.withdrawals }
  if old.state = .quarantined then { kept with state := .quarantined }
  else if s.build = .s ∧ y = .b then { kept with state := .absent }
  else { kept with state := if x = y then .active else .learning, otherImage := old.otherImage, rewriting := old.rewriting || (old.otherImage && !s.handingOver) }

/-- Ford at the start of the stands (R590, R593, R598). -/
def State.fordAt (s : State) (cause : Nat) : FordSt :=
  let power := powerStart cause
  let x := s.bootStand.1
  let f := s.ford
  let a := s.standAt power x .a
  let b := s.standAt power x .b
  let none_ := decide ((f.of x).state = .quarantined)
  if power then
    { a := a, b := b, active := x, safeHold := none_, holding := none_, svc := x, pref := f.pref
      ref := if s.build = .t then field 0 0 (s.reg 0x40010030) else 0
      shadowCn := f.shadowCn, shadowSlot := f.shadowSlot
      lg := if cause = 1 then List.replicate 32 0 else f.lg
      lgValid := f.lgValid && decide (cause ≠ 1), lgMore := if cause = 1 then 0 else f.lgMore }
  else
    { f with
      a := a, b := b, active := x, safeHold := none_, voteHold := false, probation := false, svc := x, holding := true
      switch := none, resume := none, diag := none, claimA := false, claimB := false, idleClass := none }

/-- The TIME block at a start (R44, R61, R68); after a reset the module carries out, CN comes from Ford's shadow (Table
19.3) and is re-locked under R71 and R72. -/
def State.timeAt (s : State) (shadow : Bool) : TimeSt :=
  let t := s.time
  let saved := (s.mtr.newest.map fun c => c.cn) <|> t.mramCn
  let base : TimeSt := {
    nominal := field 7 0 (s.reg 0x40020050), timeoutMs := t.timeoutMs, mramCn := saved, mramWaymark := t.mramWaymark }
  if shadow then
    { base with
      counting := true, cycRefs := [0], provisional := t.provisional, issued := t.issued, provBeacon := t.provBeacon
      mstate := if t.mstate = .unattributed then .unattributed else .freeRun
      absent := true, absences := [(0, none)], slotLen := s.ford.shadowSlot, cycleLen := s.ford.shadowSlot }
  else base

/-- The meter's state at a start: what MRAM holds (R321, R328 to R330). -/
def MtrSt.atStart (m : MtrSt) : MtrSt :=
  { nextLatch := m.nextLatch, sealOpen := m.sealOpen, sealGen := m.sealGen, history := m.history, checkpoints := m.checkpoints
    snapshot := m.snapshot, pendingN := m.pendingN, force := m.force, running := false }

/-- A ledger entry restored at a start: W is all ones (R596). -/
def Entry.atStart (e : Entry) : Entry :=
  { e with w := 2 ^ 64 - 1 }

/-- The radios at a start: the ledger and the grove counters resume (R137, R596). -/
def RadSt.atStart (r : RadSt) : RadSt :=
  { eui := r.eui, trxs := r.trxs.map fun x => { failed := x.failed }, thin := r.thin
    ledger := r.ledger.map fun p => (p.1, p.2.atStart)
    profile := r.profile, duty := r.duty, counters := r.counters.map fun n => (n + 255) / 256 * 256
    beaconCn := r.beaconCn, seq := r.seq, safeCn := r.safeCn }

/-- Promises at a start: decided answers stay, a promise without OUTCOME waits to be queried (R597). -/
def AdmSt.atStart (a : AdmSt) : AdmSt :=
  { promises := a.promises.map fun p => { p with reset := true, safeHold := true, recoverBy := none }
    nextId := a.nextId, holdCn := a.holdCn, tamperSet := a.tamperSet }

/-- The segment protocol at a start: tables, epoch, push log and decided ADMIT answers (R229, R231, R235). -/
def FspSt.atStart (f : FspSt) : FspSt :=
  { kept := f.kept.filter fun k => k.answer.isSome, pushLog := f.pushLog, nextSeq := f.nextSeq, booked := f.booked
    tables := f.tables, epoch := f.epoch }

/-- Routes and contactors at a start: what is learned stays (R293); Ford holds the contactors through a reset that the
module carries out. -/
def DimSt.atStart (d : DimSt) (power : Bool) : DimSt :=
  { routes := d.routes.map fun r => { id := r.id, tuning := r.tuning, learned := r.learned }
    contactors := if power then List.replicate 4 {} else d.contactors.map fun k => { k with fixed := [] } }

/-- A string channel at a start: through a reset that the module carries out Ford holds its level. -/
def ChSt.atStart (c : ChSt) : ChSt :=
  { amplitude := c.amplitude, duty := c.duty, level := c.level, floor := c.floor, hybrid := c.hybrid }

/-- The strings at a start. -/
def DrvSt.atStart (d : DrvSt) (power : Bool) : DrvSt :=
  if power then {}
  else { chs := d.chs.map ChSt.atStart, lums := d.lums.map fun l => { level := l.level, row := l.row } }

/-- The canopy at a start: the image store; nothing is placed until it is loaded. -/
def CanSt.atStart (c : CanSt) : CanSt :=
  { image := c.image, digest := c.digest, siteId := c.siteId, site := c.site, tset := c.tset }

/-- Coppice at a start: what is known of each unit stays. -/
def CopSt.atStart (c : CopSt) : CopSt :=
  { units := c.units.map fun u => { u with starved := false, deferReason := 0 }, thin := c.thin }

/-- The key register survives every reset, the tamper latch with it (R598). -/
def KeySt.atStart (k : KeySt) : KeySt :=
  { k with
    data := List.replicate 8 0, info := List.replicate 8 0, chal := List.replicate 8 0, attr := 0, run := none, reason := .ok
    tagged := false, att := {}, activeSince := [none, none, none, none] }

/-- The waybill at a start: the committed records and their sectors. -/
def WaySt.atStart (w : WaySt) : WaySt :=
  { ring := w.ring, newest := w.newest, pos := w.pos, capacity := w.capacity, clearSeq := w.clearSeq, clearCn := w.clearCn
    cleared := w.cleared, storageFault := w.storageFault, shrunk := w.shrunk, sectors := w.sectors, leftOut := w.leftOut
    sparesUsed := w.sparesUsed, lossFirst := w.lossFirst, lossOpen := w.lossOpen, lossDue := w.lossDue }

/-- The pins at a start. -/
def FldSt.atStart (f : FldSt) : FldSt :=
  { kcFb := f.kcFb, tmpHigh := f.tmpHigh, syncIn := f.syncIn, incIn := f.incIn, ppsIn := f.ppsIn, cts := f.cts
    mseal := f.mseal, vcoil := f.vcoil, modOk := f.modOk, ethUp := f.ethUp }

/-- SYS_RESET and the start-up registers at a start (Table 19.6). -/
def State.sysAt (s : State) (cause : Nat) (overridden : Bool) : SysSt :=
  let count (n : Nat) : Nat := if cause = 1 then 0 else min 65535 (n + 1)
  { s.sys with
    phase := .starting, cause := if cause = 7 then s.sys.cause else cause
    causeB := if cause = 7 then s.sys.causeB else cause
    resetsA := if cause = 7 then s.sys.resetsA else count s.sys.resetsA
    resetsB := if cause = 7 ∨ s.build = .s then s.sys.resetsB else count s.sys.resetsB
    imageRestored := false, prefOverridden := if cause = 7 then s.sys.prefOverridden else overridden, bootPhase := 0, bootMs := 0, beaconMs := 0, lockstepMs := 0
    firstBeacon := false, startSafe := true, dorm := none, dormDue := false, autoSince := none, thermal := false, tripped := false, hot := decide (1250 < s.sys.baseTemp)
    failCount := if powerStart cause then 0 else s.sys.failCount, dipCount := if powerStart cause then 0 else s.sys.dipCount
    powerPeak := if cause = 7 then s.sys.powerPeak else s.sys.powerIn, tempMax := if cause = 7 then s.sys.tempMax else s.sys.baseTemp }

/-! The journal after a reset (Table 15.10). -/

/-- A roll-forward: the new image is the one that loads, and W restarts in full. -/
def State.rollForward (s : State) (a : Activation) : State :=
  let s := s.modActivation fun a => { a with since := s.cn }
  match a.path, a.image with
  | .clearings, some im => { s with can := { (s.setImage im).can with activation := none } }
  | _, _ => s

/-- A fallback that a reset met completes (R516). -/
def State.completeFallback (s : State) (a : Activation) : State :=
  let s := s.restoreBackup
  let s := s.iff (decide (a.path = .handover)) fun s => s.rewrite a.newStand
  ({ s with can := { s.can with activation := none } }).endFallback

/-- What the journal decides (Table 15.10). -/
def State.journalStart (s : State) : State :=
  match s.upd.activation with
  | none => s
  | some a =>
    let s := { s with upd := { s.upd with caughtUp := false } }
    if s.upd.phase = 0x0C ∨ a.back then s.completeFallback a
    else if s.upd.phase = 0x09 then s
    else if a.committed then s.rollForward a
    else if s.upd.phase ≤ 0x03 then
      (({ s with can := { s.can with activation := none, clearing := none } }).sessionPhase 0x01).dropActivation
    else
      let (r, s) := s.openReason
      s.rollBack r 0

/-- Caravans after a reset: one whose ACTIVATE was fixed stays held (R597). -/
def UpdSt.caravansAt (u : UpdSt) : UpdSt :=
  let back (c : Caravan) : Caravan :=
    let c := { c with nodes := c.nodes.map fun n => { n with sent := 0, offer := none } }
    if c.state = CarState.fixed then { c with state := if c.nodes.all CarNode.complete then .heldByAll else .transferring } else c
  { u with caravans := u.caravans.map fun p => (p.1, back p.2) }

/-- The stands reset and start (R593 to R599, Table 19.3). The recorder drains its staging buffer before a reset that the
module carries out (R606); slices end with RESET. -/
def State.restart (s : State) (cause : Nat) : State :=
  let power := powerStart cause
  let s := s.cutSlices 5 fun _ => true
  let s := if power then s else s.drainStaging
  let overridden := s.bootStand.2
  let cn := if power then s.cn else if s.ford.safeHold then s.ford.shadowCn else s.cn
  let time := s.timeAt (!power)
  let ford := if cause = 7 then s.ford else s.fordAt cause
  let sys := s.sysAt cause overridden
  let nodes := s.node.nodes.map fun n => { n with heard := false, reroute := false, departures := 0 }
  let image := if cause = 3 then s.evt.image else none
  let s := { s with
    cn := cn, time := time, mtr := s.mtr.atStart, rad := s.rad.atStart, node := { nodes := nodes }, adm := s.adm.atStart
    fsp := s.fsp.atStart, dim := s.dim.atStart power, drv := s.drv.atStart power, can := s.can.atStart
    que := { felled := s.que.felled, thin := s.que.thin }, evt := { image := image }, ford := ford, cop := s.cop.atStart
    key := s.key.atStart, upd := s.upd.caravansAt, way := s.way.atStart, mon := {}, fld := s.fld.atStart, sys := sys
    regs := s.regs.filter fun p => keptWord cause p.1 }
  let s := s.setReg 0x40010000 (merge 0x100 (s.reg 0x40010000) (flag (decide (s.ford.pref = .b)) 8))
  let s := forEach (fun n s => s.armTamper n) (upFrom 0 4) s
  s.journalStart

/-- The meter's state is saved before a reset that the module carries out: its gap is of class CLEARING (R599, Table 15.8). -/
def State.saveMeter (s : State) : State :=
  let s := s.takeSnapshot []
  let s := { s with mtr := { s.mtr with snapshot := s.mtr.snapshot.map fun c => { c with clearing := true } } }
  forEach (fun f s => s.gapRecord f .clearing 0 0 false) s.feeders s

/-! Promises after a reset. -/

/-- The ACTIVATE of a caravan that was SENT goes out again while its CN is at least 40 cycles ahead (Table 15.10). -/
def State.floodAgain (s : State) (p : Promise) : Option State :=
  let sent := match p.caravan.bind s.upd.findCaravan with
    | some (_, c) => decide (c.state = CarState.sent)
    | none => false
  if sent && decide (s.cn + 40 ≤ p.promised) then
    let shorts := p.targets.map Target.short
    match (s.fit p.ask p.cls p.id shorts s.cn p.promised).found with
    | some (s, _) =>
      let s := s.modPromise p.id fun p => { p with reset := false, safeHold := false }
      some (s.sendPromise p.ask p.cls p.id p.promised shorts)
    | none => none
  else none

/-- A promise that a reset met is queried at every target (R597). -/
def State.recover (s : State) (p : Promise) : State :=
  match s.floodAgain p with
  | some s => s
  | none =>
    let s := s.modPromise p.id fun p => (Promise.modOpen (fun t => { t with queries := 2, queryCn := s.cn }) p)
    let s := s.modPromise p.id fun p => { p with recoverBy := some (s.cn + 1024) }
    forEach (fun t s => if t.result.isNone then s.query p t.short else s) p.targets s

/-- Once no rejoin runs and the first beacon has gone out, promises of before the reset are taken up (R597). -/
def State.recoverPromises (s : State) : State :=
  if s.adm.rejoin.isSome || !s.sys.firstBeacon then s
  else forEach (fun p s => if p.reset && p.recoverBy.isNone then s.recover p else s) s.adm.promises s

end Sys2Proof.Machine
end

