-- ==== Sys2Proof/Machine/Ford.lean ====
section
/-! DEFINITION. Commands of Ford and the stands (12): causes and decisions, SAFE HOLD, learning, planned switches, clocks. -/

namespace Sys2Proof.Machine

/-! What a withdrawal means to an update (R514, R520). -/

/-- A check number the spec does not state: free (log 12). -/
def State.openCheck (s : State) : Nat × State :=
  let (v, s) := s.drawNat
  (v % 7, s)

/-- Stop the activation for a reason the spec states, with a check it does not. -/
def State.stopFor (s : State) (reason : Reason) : State :=
  match s.upd.activation with
  | none => s
  | some a =>
    let (c, s) := if a.committed then (3, s) else s.openCheck
    s.stopUpdate reason c

/-- The standby was lost to the update: before COMMITTED nothing can be handed over any more (R512). -/
def State.standbyLost (s : State) : State :=
  match s.upd.activation with
  | some a => if a.path = .handover ∧ a.committed = false then
        let (r, s) := s.openReason
        let (c, s) := s.openCheck
        s.rollBack r c
      else s
  | none => s

/-- Ford switched after a fault while a handover runs (R514): the old stand before COMMITTED, or the new one after it. -/
def State.switchedFor (s : State) : State :=
  match s.upd.activation with
  | some a =>
    if a.path = .handover ∧ a.back = false then
      if a.committed then
        if s.ford.active = a.newStand ∨ s.upd.phase = 0x09 then s
        else
          let (r, s) := s.openReason
          let s := s.fallBack r 3
          let s := { s with ford := { s.ford with switch := none } }
          if s.upd.activation.isSome then s.fallbackSwitched else s
      else if s.ford.active = a.newStand ∧ s.upd.caughtUp then s.commitHandover
      else s.standbyLost
    else s
  | none => s

/-! Decisions (R436, Table 12.2). -/

/-- Note a stand's diagnosis (FORD_DIAG_A, FORD_DIAG_B). -/
def State.noteDiagnosis (s : State) (x : Stand) (causes : Nat) : State :=
  s.modStand x fun r => { r with causes := causes, diagnoses := bump r.diagnoses }

/-- The answer of a stand in the diagnosis that runs. -/
def Diagnosis.answer (d : Diagnosis) : Stand → Option Nat
  | .a => d.answerA
  | .b => d.answerB

def Diagnosis.set (d : Diagnosis) (x : Stand) (causes : Nat) : Diagnosis :=
  match x with
  | .a => { d with answerA := some causes }
  | .b => { d with answerB := some causes }

/-- A stand keeps its place and the other is withdrawn, or stays (Table 12.2, "Keep"). -/
def State.keep (s : State) (hold : Nat) (lost : Bool) : State :=
  let s := s.release 2 hold
  if lost then (s.withdrawStand s.ford.active.other 6).standbyLost else s

/-- SAFE HOLD with what it means to an update (R445, Table 15.11). -/
def State.safeHoldNow (s : State) (vote : Bool) (hold : Nat) : State :=
  (s.enterSafeHold vote hold).stopFor .safeHold

/-- Both stands answered NO_FAULT: the standby learns anew (Table 12.2). -/
def State.unresolved (s : State) (hold : Nat) : State :=
  let s := s.release 4 hold
  let s := { s with ford := { s.ford with unresolved := bump s.ford.unresolved } }
  let s := s.fordEvent 802 1 s.fordCause
  let x := s.ford.active.other
  (s.cutStand x 6).beginLearning x

/-- Ford decides once both answers are there (R436). -/
def State.fordDecides (s : State) (hold : Nat) : State :=
  match s.ford.diag with
  | none => s
  | some d =>
    match d.answer s.ford.active, d.answer s.ford.active.other with
    | some a, some b =>
      let faulty := d.withdrew || (decide (d.cause ≠ 4) && decide (a ≠ 0))
      if faulty && decide (b = 0) && s.following then (s.switchOver hold).switchedFor
      else if faulty then s.safeHoldNow false hold
      else if b ≠ 0 then s.keep hold true
      else s.unresolved hold
    | _, _ => s

/-- A stand answers, or counts as having answered. -/
def State.answered (s : State) (x : Stand) (causes : Nat) : State :=
  let s := s.noteDiagnosis x causes
  { s with ford := { s.ford with diag := s.ford.diag.map fun d => d.set x causes } }

/-- The active stand asserted WITHDRAW (Table 12.2). -/
def State.noteWithdrew (s : State) : State :=
  let note (d : Diagnosis) : Diagnosis := { d with withdrew := true }
  { s with ford := { s.ford with diag := s.ford.diag.map note } }

/-- Ford sees a cause and holds the outputs (R437). A stand that is not in STANDBY cannot take over and is not waited for
(R436). -/
def State.startHold (s : State) (cause : Nat) : State :=
  let s := s.holdFor cause
  if s.following then s
  else { s with ford := { s.ford with diag := s.ford.diag.map fun d => d.set s.ford.active.other 256 } }

/-- The learning stand diverges in probation (R439): back to COPY the first time, withdrawn the second. -/
def State.probationDivergence (s : State) (cause : Nat) : State :=
  let x := s.ford.active.other
  let s := { s with ford := { s.ford with cause := cause, decision := 2 } }
  if (s.ford.of x).probationDivs = 0 then
    let s := s.modStand x fun r => { r with probationDivs := 1, probationEnd := none }
    { s with ford := { s.ford with probation := false } }
  else s.withdrawStand x 6

/-- The stand can be withdrawn: it is neither out of service already nor absent. -/
def State.serves (s : State) (x : Stand) : Bool :=
  match (s.ford.of x).state with
  | .active => true
  | .standby => true
  | .learning => true
  | _ => false

/-- DIVERGENCE: the versions of an output word differ (R432). -/
def execDivergence (cls : Fin 8) (pin : BitVec 16) (tag : BitVec 64) (s : State) : Host.Outcome State Fault Refusal :=
  .next (s.whenLive fun s =>
    s.iff (s.compares cls.val && !s.ford.holding) fun s =>
      let learning := s.inProbation
      let f : FordSt := { s.ford with
        divergences := bump s.ford.divergences, divClass := cls.val + 1, divPin := pin.toNat, divTag := tag.toNat }
      let s := { s with ford := f }
      let s := if learning then s else s.startHold 2
      let s := s.fordEvent 801 1 (cls.val + 1 + pin.toNat * 256)
      if learning then s.probationDivergence 2 else s)

/-- HEARTBEAT_LOST: three periods without a heartbeat (R434). -/
def execHeartbeatLost (stand : Stand) (hold : Word) (s : State) : Host.Outcome State Fault Refusal :=
  .next (s.whenLive fun s =>
    s.iff (s.serves stand && !s.ford.safeHold) fun s =>
      let s := s.fordEvent 807 1 stand.number
      let n := if s.build = .t then bump s.ford.divergences else s.ford.divergences
      let s := { s with ford := { s.ford with divergences := n } }
      if s.ford.diag.isSome then (s.answered stand 128).fordDecides hold.toNat
      else if stand = s.ford.active then
        let s := s.startHold 3
        (s.answered stand 128).fordDecides hold.toNat
      else if s.inProbation then s.probationDivergence 3
      else
        let s := { s with ford := { s.ford with cause := 3, decision := 2 } }
        (s.withdrawStand stand 6).standbyLost)

/-- STAND_CLAIM: a stand misses the other's heartbeat (R434); two claims with both heartbeats present ask both (Table 12.2). -/
def execStandClaim (stand : Stand) (s : State) : Host.Outcome State Fault Refusal :=
  .next (s.whenLive fun s =>
    s.iff (decide (s.build = .t) && s.serves stand && !s.ford.safeHold) fun s =>
      let s := s.fordEvent 807 2 stand.other.number
      let s := match stand with
        | .a => { s with ford := { s.ford with claimA := true } }
        | .b => { s with ford := { s.ford with claimB := true } }
      s.iff (s.ford.claimA && s.ford.claimB && s.following && !s.ford.holding) fun s =>
        let s := s.startHold 4
        s.record 807 0x40 .ok (le 1 2 ++ [0] ++ le 4 stand.other.number ++ le 4 s.fordCause))

/-- A stand asserts WITHDRAW with causes of Table 12.1 (R435). -/
def State.standWithdraws (s : State) (stand : Stand) (causes hold : Nat) : State :=
  if s.ford.diag.isSome then
    let s := s.answered stand causes
    let s := s.iff (decide (stand = s.ford.active)) State.noteWithdrew
    s.fordDecides hold
  else if stand = s.ford.active then
    ((s.startHold 1).answered stand causes).noteWithdrew.fordDecides hold
  else
    let s := s.modStand stand fun r => { r with causes := causes }
    let s := { s with ford := { s.ford with cause := 1, decision := 2 } }
    (s.withdrawStand stand 6).standbyLost

/-- WITHDRAW: a stand's self-diagnosis asserts it (R435): `causes` are bits of Table 12.1. -/
def execWithdraw (stand : Stand) (causes : Fin 64) (hold : Word) (s : State) : Host.Outcome State Fault Refusal :=
  .next (s.whenLive fun s =>
    s.iff (s.serves stand && decide (causes.val ≠ 0) && !s.ford.safeHold) fun s => s.standWithdraws stand causes.val hold.toNat)

/-- DIAGNOSIS_ANSWER: FAULT with causes, or NO_FAULT with none (R435). -/
def execDiagnosisAnswer (stand : Stand) (causes : Fin 128) (hold : Word) (s : State) : Host.Outcome State Fault Refusal :=
  .next (s.whenLive fun s =>
    match s.ford.diag with
    | some d => s.iff (d.answer stand).isNone fun s => (s.answered stand causes.val).fordDecides hold.toNat
    | none => s)

/-- DIAGNOSIS_TIMEOUT: a stand has not answered within 50 µs (R435). -/
def execDiagnosisTimeout (hold : Word) (s : State) : Host.Outcome State Fault Refusal :=
  .next (s.whenLive fun s =>
    match s.ford.diag with
    | some d =>
      let s := s.iff (d.answer .a).isNone fun s => s.answered .a 128
      let s := s.iff (d.answer .b).isNone fun s => s.answered .b 128
      s.fordDecides hold.toNat
    | none => s)

/-- FORD_OUTVOTE: a copy is outvoted in a fabric cycle (R433, R612). -/
def execFordOutvote (copy : Fin 3) (cycle : Nat) (s : State) : Host.Outcome State Fault Refusal :=
  .next (s.whenLive fun s =>
    match s.ford.masked with
    | some m => s.iff (decide (m ≠ copy.val) && !s.ford.safeHold) fun s =>
        let s := { s with ford := { s.ford with cause := 6 } }
        s.safeHoldNow true s.ford.holdTime
    | none =>
      let again := match s.ford.lastOutvote with
        | some (c, at_) => decide (c = copy.val) && decide (cycle = at_ + 1)
        | none => false
      let votes := lmod (fun n => min 1023 (n + 1)) copy.val s.ford.votes
      let s := { s with ford := { s.ford with votes := votes, lastOutvote := some (copy.val, cycle) } }
      s.iff again fun s =>
        let s := { s with ford := { s.ford with masked := some copy.val, degraded := true } }
        s.fordEvent 810 1 copy.val)

/-! Stand tests, learning and the return from SAFE HOLD. -/

/-- A stand returns from SAFE HOLD (R447): it restarts from the state in MRAM and is ACTIVE; the other follows through
LEARNING when its test has passed. -/
def State.returnStand (s : State) (x : Stand) (role : Role) : State :=
  let s := (s.countRestart x).restart 7
  let s := s.modStand x fun r => { r with testing := false, retry := false, passed := false }
  let s := { s with ford := { s.ford with
    safeHold := false, voteHold := false, active := x, resume := none } }
  let s := s.setStand x .active
  let s := s.fordEventAs role 806 1 (s.cn % 4294967296)
  let y := x.other
  if (s.ford.of y).state = .withdrawn ∧ (s.ford.of y).passed then
    (s.modStand y fun r => { r with passed := false }).beginLearning y
  else s

/-- Two withdrawals lie within 24 h of each other (Table 12.3). -/
def State.twiceWithdrawn (s : State) (x : Stand) : Bool :=
  match (s.ford.of x).withdrawals.reverse with
  | last :: before :: _ => decide (last < before + s.secondsInCycles 86400)
  | _ => false

/-- STAND_TEST_DONE: the test of a WITHDRAWN stand ends (Table 12.3, R438, R468). -/
def execStandTestDone (stand : Stand) (pass : Bool) (s : State) : Host.Outcome State Fault Refusal :=
  .next (s.whenLive fun s =>
    let r := s.ford.of stand
    s.iff (r.testing && decide (r.state = .withdrawn)) fun s =>
      if pass = false ∧ r.retry = false then s.modStand stand fun r => { r with retry := true }
      else
        let s := s.modStand stand fun r => { r with testing := false }
        if pass = false ∨ s.twiceWithdrawn stand then s.setStand stand .quarantined
        else
          let s := s.iff r.retry fun s => { s with cop := { s.cop with transients := bump s.cop.transients } }
          if s.ford.safeHold then
            if s.ford.voteHold || decide (s.ford.resume = some stand.other) then
              s.modStand stand fun r => { r with passed := true }
            else s.returnStand stand .nobody
          else s.beginLearning stand)

/-- LEARNING_COPY_DONE: the learning stand joins lockstep at the next CYC and probation begins (R439). -/
def execLearningCopyDone (s : State) : Host.Outcome State Fault Refusal :=
  .next (s.whenLive fun s =>
    let x := s.ford.active.other
    let r := s.ford.of x
    s.iff (decide (r.state = .learning) && !s.ford.probation && !r.rewriting && !r.otherImage && !s.ford.safeHold) fun s =>
      let s := s.modStand x fun r => { r with probationEnd := some (s.cn + 1001) }
      let ms := min 65535 (s.time.ref / 100000)
      { s with
        ford := { s.ford with probation := true }
        sys := { s.sys with lockstepMs := if s.sys.lockstepMs = 0 then ms else s.sys.lockstepMs } })

/-- PROBATION_END: 1,000 cycles of probation have passed (R439); a handover is complete with it (Table 15.5). -/
def execProbationEnd (s : State) : Host.Outcome State Fault Refusal :=
  .next (s.whenLive fun s =>
    let x := s.ford.active.other
    match (s.ford.of x).probationEnd with
    | some e => s.iff (s.inProbation && decide (e ≤ s.cn)) fun s =>
        let s := s.modStand x fun r => { r with probationEnd := none, probationDivs := 0 }
        let s := { s with ford := { s.ford with probation := false } }
        let s := (s.setStand x .standby).fordEvent 813 1 x.number
        s.iff (decide (s.upd.phase = 0x09) && s.upd.activation.isSome) State.completeUpdate
    | none => s)

/-! FORD_CTRL (Table 12.10). -/

/-- A planned switch asked for through FORD_CTRL.SWITCH (R448, R450). -/
def State.askSwitch (s : State) (w : Writer) : State × Reason :=
  let x := s.ford.active.other
  let reason : Reason := if s.build = .s then .unsupported else if s.switchAllowed x then .ok else .busy
  if reason = .ok then (s.requestSwitch x (s.cycAfter 2) false w.role, .ok)
  else (s.recordAs w.role 812 0x40 reason (le 1 1 ++ [0] ++ le 4 x.number ++ le 4 s.fordCause), reason)

/-- Ford's copies are reset and vote again at a RESUME after a vote failure (R612): whether they agree, and the copy that is
outvoted where they do not. -/
def State.voteAgain (s : State) (agree : Bool) (out : Nat) : State :=
  if !s.ford.voteHold then s
  else if agree then
    { s with ford := { s.ford with voteHold := false, masked := none, degraded := false, votes := [0, 0, 0], lastOutvote := none } }
  else { s with ford := { s.ford with masked := some out, degraded := true } }

/-- FORD_CTRL.RESUME (R447, R612, R450): the named stand returns when its test has passed, with FORCE at once. -/
def State.resumeWith (s : State) (x : Stand) (force agree : Bool) (out : Nat) (w : Writer) : State :=
  let r := s.ford.of x
  let able := decide (r.state = .withdrawn) || (force && decide (r.state = .quarantined))
  if s.ford.safeHold = false ∨ able = false then s
  else
    let s := s.voteAgain agree out
    if s.ford.voteHold then s
    else if r.passed then s.returnStand x .nobody
    else if force then s.returnStand x w.role
    else { s with ford := { s.ford with resume := some x } }

/-- FORD_CTRL.RELEASE (Table 12.3): a QUARANTINED stand runs its test; the count of its withdrawals starts afresh. -/
def State.releaseStand (s : State) (x : Stand) : State :=
  if (s.ford.of x).state = .quarantined then
    (s.setStand x .withdrawn).modStand x fun r => { r with withdrawals := [], testing := true, retry := false, passed := false }
  else s

/-- FORD_CTRL (Table 12.10). -/
def State.writeFordCtrl (s : State) (v : Nat) (w : Writer) (agree : Bool) (out : Nat) : State × Reason :=
  let (s, r) := s.writeReg 0x40010000 v w
  let pref : Stand := if bit 8 r.new && decide (s.build = Build.t) then .b else .a
  let s := { s with ford := { s.ford with pref := pref } }
  let x : Stand := if bit 4 r.new then .b else .a
  let s := s.iff (bit 1 r.act) fun s => s.resumeWith x (bit 2 r.new) agree out w
  let s := s.iff (bit 3 r.act) fun s => s.releaseStand x
  if bit 0 r.act then s.askSwitch w else (s, r.reason)

/-- Ford's clock moves to another reference (R449): city time can move by up to 10 ns at the switch, the amount and its
sign are open. -/
def State.switchClock (s : State) (ref : Nat) : State :=
  let (v, s) := s.drawInt
  let moved := (cityUnits s.time.city : Int) + clampInt (-42949672960) 42949672960 v
  { s with
    ford := { s.ford with ref := ref, clkSwitches := bump s.ford.clkSwitches }
    time := { s.time with city := ofCityUnits moved.toNat } }

/-- FORD_CLK_CTRL (R449): APPLY selects the TCXO of SEL where it is present. -/
def State.writeClkCtrl (s : State) (v : Nat) (w : Writer) : State × Reason :=
  let (s, r) := s.writeReg 0x40010030 v w
  let sel := field 0 0 r.new
  let able := if sel = 0 then !s.ford.lostA else !s.ford.lostB && decide (s.build = .t)
  if bit 1 r.act && able && decide (s.ford.ref ≠ sel) then
    (s.switchClock sel, r.reason)
  else (s, r.reason)

/-- FORD_LG_CTRL.CLEAR (R451). -/
def State.writeLgCtrl (s : State) (v : Nat) (w : Writer) : State × Reason :=
  let (s, r) := s.writeReg 0x400100A4 v w
  (s.iff (bit 0 r.act) fun s => { s with ford := { s.ford with lgValid := false } }, r.reason)

/-- A write to the FORD block (Table 12.9). Whether Ford's copies agree after a RESUME is open here (R612). -/
def State.writeFord (s : State) (o v : Nat) (w : Writer) : State × Reason :=
  if o = 0 then
    if s.ford.voteHold && bit 1 v then
      let (a, s) := s.drawNat
      s.writeFordCtrl v w (decide (a % 4 = 3)) (a % 3)
    else s.writeFordCtrl v w true 0
  else if o = 0x30 then s.writeClkCtrl v w
  else if o = 0xA4 then s.writeLgCtrl v w
  else s.writePlain (0x40010000 + o) v w

/-- FORD_CTRL with the stored fields as they stand, one action bit and a stand. -/
def State.fordWord (s : State) (act : Nat) (force : Bool) (x : Stand) : Nat :=
  merge 0x100 (act + flag force 2 + x.number * 16) (s.reg 0x40010000)

/-- PLANNED_SWITCH_REQUEST: FORD_CTRL.SWITCH (R448). -/
def execPlannedSwitchRequest (w : Writer) (s : State) : Host.Outcome State Fault Refusal :=
  .next (s.whenLive fun s => (s.writeFordCtrl (merge 0x114 1 (s.reg 0x40010000)) w true 0).1)

/-- SAFE_HOLD_RESUME: FORD_CTRL.RESUME (R447). -/
def execSafeHoldResume (stand : Stand) (agree : Bool) (out : Fin 3) (w : Writer) (s : State) : Host.Outcome State Fault Refusal :=
  .next (s.whenLive fun s => (s.writeFordCtrl (s.fordWord 2 false stand) w agree out.val).1)

/-- SAFE_HOLD_RESUME_FORCE: RESUME with FORCE (R447). -/
def execSafeHoldResumeForce (stand : Stand) (agree : Bool) (out : Fin 3) (w : Writer) (s : State) :
    Host.Outcome State Fault Refusal :=
  .next (s.whenLive fun s => (s.writeFordCtrl (s.fordWord 2 true stand) w agree out.val).1)

/-- STAND_RELEASE: FORD_CTRL.RELEASE (Table 12.3). -/
def execStandRelease (stand : Stand) (w : Writer) (s : State) : Host.Outcome State Fault Refusal :=
  .next (s.whenLive fun s => (s.writeFordCtrl (s.fordWord 8 false stand) w true 0).1)

/-- CLOCK_SELECT: FORD_CLK_CTRL.APPLY with SEL (R449). -/
def execClockSelect (sel : Fin 2) (w : Writer) (s : State) : Host.Outcome State Fault Refusal :=
  .next (s.whenLive fun s => (s.writeClkCtrl (sel.val + 2) w).1)

/-! Reference clocks (R449). -/

/-- The loss flag of a TCXO. -/
def State.setLost (s : State) (which : Fin 2) (lost : Bool) : State :=
  if which = 0 then { s with ford := { s.ford with lostA := lost } } else { s with ford := { s.ford with lostB := lost } }

/-- TCXO_LOST (R449, R450). -/
def execTcxoLost (which : Fin 2) (s : State) : Host.Outcome State Fault Refusal :=
  .next (s.whenLive fun s =>
    let there := if which = 0 then !s.ford.lostA else !s.ford.lostB && decide (s.build = .t)
    s.iff there fun s =>
      let s := s.setLost which true
      if s.ford.ref = which.val then
        let other := if which = 0 then !s.ford.lostB && decide (s.build = .t) else !s.ford.lostA
        if other then
          let s := s.switchClock (1 - which.val)
          s.fordEvent 808 1 (s.clkStatus % 65536)
        else
          let s := s.switchClock 2
          s.fordEvent 809 1 (s.clkStatus % 65536)
      else s.fordEvent 809 2 (s.clkStatus % 65536))

/-- TCXO_PRESENT: a lost TCXO has given good edges for 1 s (R449); `ofs` is what Ford counts of TCXO_B less TCXO_A. -/
def execTcxoPresent (which : Fin 2) (ofs : Int) (s : State) : Host.Outcome State Fault Refusal :=
  .next (s.whenLive fun s =>
    let lost := if which = 0 then s.ford.lostA else s.ford.lostB
    s.iff lost fun s =>
      let s := s.setLost which false
      let s := { s with ford := { s.ford with clkOfs := ofs } }
      s.fordEvent 809 3 (s.clkStatus % 65536))

/-- LASTGASP_CLEAR: FORD_LG_CTRL.CLEAR (R451). -/
def execLastgaspClear (w : Writer) (s : State) : Host.Outcome State Fault Refusal :=
  .next (s.whenLive fun s => (s.writeLgCtrl 1 w).1)

end Sys2Proof.Machine
end

