-- ==== Sys2Proof/Machine/Coppice.lean ====
section
/-! DEFINITION. Commands of coppice (13): units fall due, slices are fixed, start and end, idle-path slices, the COP
registers. -/

namespace Sys2Proof.Machine

/-! What a unit is and may do. -/

/-- A unit exists (Table 13.1). -/
def State.hasUnit (s : State) (id : UnitId) : Bool :=
  decide (id.index < kindSize id.kind) && (decide (id.stand = .a) || (decide (s.build = .t) && ownKind id.kind))

/-- Cycles of 24 h at the nominal frequency (R455). -/
def State.coppiceDay (s : State) : Nat :=
  s.secondsInCycles 86400

/-- Extra power of a slice in mW (Table 13.2). -/
def slicePower (kind : Nat) : Nat :=
  lget 100 kind [350, 500, 200, 100, 100, 100, 200, 200]

/-- Slices that are fixed or run. -/
def State.slicesOpen (s : State) : List Slice :=
  s.cop.slices.filter fun x => !x.ended

/-- Extra power of the slices of a list. -/
def powerOf (l : List Slice) : Nat :=
  (l.map fun x => slicePower x.unit.kind).sum

/-- What a unit carries, by its kind: a tile slot, a logical engine, a transceiver's number, an input channel, a half; the
memory kinds show 0. -/
def State.carriedBy (s : State) (id : UnitId) : Option Nat :=
  match id.kind with
  | 0 => (s.can.slots.find? fun p => decide (lget 0 id.stand.place p.2.tiles = id.index)).map Prod.fst
  | 1 => if s.can.loaded then (lget [] id.stand.place s.can.engines).findIdx? fun e => decide (e = id.index) else none
  | 2 => if id.index = 8 then s.rad.serving else if s.carries id then some id.index else none
  | 4 => none
  | 6 => s.mtr.paths.findIdx? fun p => decide (p = id.index)
  | 7 => s.drv.dies.findIdx? fun d => decide (d = id.index)
  | _ => if s.carries id then some 0 else none

/-- A stand may run one more slice of a kind (R457). -/
def State.roomFor (s : State) (stand : Stand) (id : UnitId) : Bool :=
  let l := s.cop.slices
  !(l.any fun x => decide (x.unit = id)) && match id.kind with
    | 0 => !(l.any fun x => decide (x.unit.kind = 0) && decide (x.by_ = stand))
    | 1 => !(l.any fun x => decide (x.unit.kind = 1))
    | k => ownKind k || !(l.any fun x => !ownKind x.unit.kind)

/-! Scheduling (R455 to R457, R464, R469). -/

/-- The dark-off window of the schedule day holds a span of cycles (R470). -/
def State.darkOff (s : State) (from_ to_ : Cn) : Bool :=
  match s.dim.day with
  | some (_, d, _) =>
    let cfg := s.reg 0x400A0010
    decide (d.dawn + s.secondsInCycles (60 * field 15 0 cfg) ≤ from_) && decide (to_ + s.secondsInCycles (60 * field 31 16 cfg) ≤ d.dusk)
  | none => false

/-- A slice as it would be fixed; a SUSPECT unit's is its retest (R461). -/
def State.sliceFor (s : State) (stand : Stand) (id : UnitId) (c : Cn) : Slice :=
  { unit := id, by_ := stand, carrier := none, victim := s.carriedBy id, c := c, retest := decide ((s.unit id).mark = some .suspect) }

/-- The slice may run without a carrier (R469): on the S build, a tile in its window or as an installer commanded. -/
def State.mayDestroy (s : State) (x : Slice) : Bool :=
  let commanded := match s.cop.command with
    | some (u, d) => d && decide (u = x.unit)
    | none => false
  decide (s.build = .s) && decide (x.unit.kind = 0) && x.victim.isSome && (commanded || s.darkOff x.c (s.sliceEnd x))

/-- Units free to carry a slice's victim. -/
def State.carriers (s : State) (x : Slice) : List Nat :=
  s.carriersFor x.unit.stand x.unit.kind x.unit.index

/-- A tile whose slice waits while INC_IN is active (R464). -/
def State.waitsForInc (s : State) (x : Slice) : Bool :=
  match x.victim.bind fun n => tget n s.can.slots with
  | some u => decide (x.unit.kind = 0) && s.incActive && (decide (u.template = .stringLoop) || decide (u.template = .pattern))
  | none => false

/-- A clearing runs on the victim's region or on a tile that carries for it, or its c is fixed within the slice (R464,
Table 10.9). -/
def State.waitsForClearing (s : State) (x : Slice) : Bool :=
  match s.can.clearing with
  | some k =>
    if k.started then decide (x.unit.kind = 0) && (s.can.slotsOf k.region).any fun p =>
      decide (x.victim = some p.1) || decide (lget none x.unit.stand.place p.2.carriers = some x.unit.index)
    else decide (k.c ≤ s.sliceEnd x)
  | none => false

/-- Why a due slice is deferred (R464), in the order of the rule, 1 to 7; none where it may be fixed. -/
def State.deferral (s : State) (x : Slice) : Option Nat :=
  if x.victim.isSome && s.carriers x = [] && !s.mayDestroy x then some 1
  else if 1500 < powerOf s.slicesOpen + slicePower x.unit.kind then some 2
  else if s.waitsForClearing x then some 3
  else if s.waitsForInc x then some 4
  else if s.ford.safeHold then some 5
  else if s.upd.activation.isSome then some 6
  else if (s.ford.of x.by_).state ≠ .active ∧ (s.ford.of x.by_).state ≠ .standby then some 7
  else none

/-- Fix a slice (R458). -/
def State.fixSlice (s : State) (x : Slice) : State :=
  let (carrier, s) := match x.victim, s.carriers x with
    | some _, l => if l = [] then (none, s) else
        let (k, s) := s.pickOne l
        (some k, s)
    | none, _ => (none, s)
  let x := { x with carrier := carrier, destructive := x.victim.isSome && carrier.isNone }
  let command := match s.cop.command with
    | some (u, d) => if u = x.unit then none else some (u, d)
    | none => none
  { s with cop := { s.cop with slices := s.cop.slices ++ [x], command := command } }

/-- A deferral is counted (R464). -/
def State.deferSlice (s : State) (id : UnitId) (reason : Nat) : State :=
  let s := { s with cop := { s.cop with deferrals := bump s.cop.deferrals } }
  s.modUnit id fun u => { u with deferReason := reason }

/-- Take the first unit of a list whose slice may be fixed. -/
def State.tryFix (s : State) (stand : Stand) (c : Cn) : List UnitId → State
  | [] => s
  | id :: rest =>
    if !s.roomFor stand id then s.tryFix stand c rest
    else
      let x := s.sliceFor stand id c
      match s.deferral x with
      | some r => (s.deferSlice id r).tryFix stand c rest
      | none => s.fixSlice x

/-- Insert a unit by the CN since which it is due. -/
def insertDue (u : UnitSt) : List UnitSt → List UnitSt
  | [] => [u]
  | v :: rest => if u.due.getD 0 < v.due.getD 0 then u :: v :: rest else v :: insertDue u rest

/-- Units to slice, in their order: the commanded one, then those due, longest due first; a SUSPECT unit before any other of
its kind (R455, R461, R471). -/
def State.candidates (s : State) (stand : Stand) : List UnitId :=
  let mine (id : UnitId) : Bool := if ownKind id.kind then decide (id.stand = stand) else decide (stand = s.ford.active)
  let suspect (u : UnitSt) : Bool := decide (u.mark = some .suspect)
  let barred (u : UnitSt) : Bool := !suspect u && s.cop.units.any fun v => suspect v && decide (v.id.kind = u.id.kind) && mine v.id
  let due := s.cop.units.filter fun u => mine u.id && (u.due.isSome || suspect u) && decide (u.mark ≠ some .felled) && !barred u
  let sorted := (due.foldr insertDue []).map fun u => u.id
  match s.cop.command with
  | some (id, _) => if mine id && decide ((s.unit id).mark ≠ some .felled) then id :: sorted.filter fun x => decide (x ≠ id) else sorted
  | none => sorted

/-- SLICE_FIX: the scheduler of a stand fixes a slice at most 16 cycles ahead (R455, R458). -/
def execSliceFix (stand : Stand) (lead : Fin 16) (s : State) : Host.Outcome State Fault Refusal :=
  .next (s.whenLive fun s =>
    s.iff (bit 0 (s.reg 0x400A0000) && decide ((s.ford.of stand).state ≠ .absent) && !s.sys.powerFail && !s.entering) fun s =>
      s.tryFix stand (s.cn + lead.val + 1) (s.candidates stand))

/-! A slice (R458 to R461). -/

/-- A slot's tile meters. -/
def State.meterSlot (s : State) (slot : Option Nat) : Bool :=
  match slot.bind fun n => tget n s.can.slots with
  | some u => decide (u.template = .meterPipe) || decide (u.template = .meterAcc)
  | none => false

/-- CYC(c): the carrier takes the function and the victim is isolated (Table 13.3). -/
def State.startSlice (s : State) (x : Slice) : State :=
  let s := match x.carrier with
    | some k => s.handTo x.unit k
    | none => s
  let s := s.modUnit x.unit fun u => { u with mark := some .underTest }
  let s := s.iff (decide (x.unit.kind = 2)) fun s => s.modTrx x.unit.index fun t => { t with underTest := true }
  let s := s.iff (x.destructive && s.meterSlot x.victim) State.stopMeter
  let start (y : Slice) : Slice := if y.unit = x.unit then { y with started := true } else y
  { s with cop := { s.cop with slices := s.cop.slices.map start } }

/-- The CYC after a slice's end: the victim joins the pool (Table 13.3). -/
def State.joinPool (s : State) (x : Slice) : State :=
  s.returnVictim x x.suspect

/-- The meter's tiles are stopped: by a clearing, by a destructive slice, or because a tile of theirs is felled and nothing
replaced it (Table 10.7, R469). -/
def State.meterHeld (s : State) : Bool :=
  let cleared := match s.can.clearing with
    | some k => k.started && s.can.regionHas k.region [.meterPipe, .meterAcc]
    | none => false
  let out (p : Nat × SlotUse) : Bool :=
    s.meterSlot (some p.1) && decide ((s.unit (unitOf s.ford.active 0 (lget 0 s.ford.active.place p.2.tiles))).mark = some .felled)
  cleared || (s.cop.slices.any fun x => x.destructive && x.started && s.meterSlot x.victim) || s.can.slots.any out

/-- A CYC's work on the slices. -/
def State.sliceTick (s : State) : State :=
  let s := forEach (fun x s => s.joinPool x) (s.cop.slices.filter fun x => x.ended) s
  let s := s.iff (!s.mtr.running && s.can.loaded && !s.meterHeld) State.restartMeter
  forEach (fun x s => s.startSlice x) (s.cop.slices.filter fun x => !x.started && decide (x.c ≤ s.cn)) s

/-- Change a slice. -/
def State.modSlice (s : State) (id : UnitId) (f : Slice → Slice) : State :=
  { s with cop := { s.cop with slices := s.cop.slices.map fun x => if x.unit = id then f x else x } }

/-- A slice is complete (R455): the unit is no longer due, and its alarm clears (R465). -/
def State.completed (s : State) (id : UnitId) : State :=
  s.modUnit id fun u => { u with lastCn := s.cn, due := none, starved := false }

/-- A lasting fault (R461): the unit is felled, the carrier keeps the function. -/
def State.fellSlice (s : State) (x : Slice) : State :=
  let s := (s.completed x.unit).sliceEnded x.unit .felled 0
  let s := { s with cop := { s.cop with slices := s.cop.slices.filter fun y => decide (y.unit ≠ x.unit) } }
  let s := s.iff (decide (x.unit.kind = 2)) fun s => s.modTrx x.unit.index fun t => { t with underTest := false, failed := true }
  let s := (s.post 877 1 (unitPayload x.unit.kind x.unit.index)).recordSlice 877 0x49 x.unit .felled
  s.fell x.unit

/-- Judge a run (R459, R461). -/
def State.judgeSlice (s : State) (x : Slice) (whole same : Bool) : State :=
  let ending (suspect : Bool) (s : State) : State := s.modSlice x.unit fun y => { y with ended := true, suspect := suspect }
  if !whole then
    let s := { s with cop := { s.cop with incompletes := bump s.cop.incompletes } }
    ending x.retest (s.sliceEnded x.unit .incomplete 0)
  else if same then
    let s := s.completed x.unit
    if x.retest then
      let s := { s with cop := { s.cop with transients := bump s.cop.transients } }
      let s := s.modUnit x.unit fun u => { u with transients := min 255 (u.transients + 1) }
      ending false ((s.sliceEnded x.unit .transient 0).recordSlice 876 0x48 x.unit .transient)
    else
      let s := { s with cop := { s.cop with passes := bump s.cop.passes } }
      ending false (s.sliceEnded x.unit .pass 0)
  else if x.retest then s.fellSlice x
  else
    let s := (s.sliceEnded x.unit .fail 0).recordSlice 876 0x48 x.unit .fail
    s.modSlice x.unit fun y => { y with retest := true, c := s.cn + 1 }

/-- Terminal count of a slice (Table 13.4); the other kinds have a march's end instead. -/
def State.terminal (s : State) (x : Slice) : Option Nat :=
  if x.unit.kind = 0 ∨ x.unit.kind = 1 then
    some (if s.build = .s || decide (x.by_ = s.ford.active) then 65536 else 262144)
  else none

/-- SLICE_RUN_END: the run of a unit's slice ends with these patterns, COMPLETE, MISR and expected signature (R459). -/
def execSliceRunEnd (stand : Stand) (kind : Fin 8) (index : Fin 8192) (patterns : Word) (complete : Bool)
    (misr expected : BitVec 64) (s : State) : Host.Outcome State Fault Refusal :=
  .next (s.whenLive fun s =>
    match s.cop.slices.find? fun x => decide (x.unit = unitOf stand kind.val index.val) && x.started && !x.ended with
    | some x =>
      let full := match s.terminal x with
        | some n => decide (patterns.toNat = n)
        | none => true
      let s := { s with cop := { s.cop with
        lastPat := patterns.toNat, misr := misr.toNat, expected := expected.toNat } }
      s.judgeSlice x (full && complete) (decide (misr = expected))
    | none => s)

/-- UNIT_FALLS_DUE (R455). -/
def execUnitFallsDue (stand : Stand) (kind : Fin 8) (index : Fin 8192) (s : State) : Host.Outcome State Fault Refusal :=
  .next (s.whenLive fun s =>
    let id := unitOf stand kind.val index.val
    let u := s.unit id
    let at_ := u.lastCn + s.coppiceDay
    s.iff (s.hasUnit id && u.due.isNone && decide (at_ ≤ s.cn) && decide (u.mark ≠ some .felled)) fun s =>
      s.putUnit { u with due := some at_ })

/-- COPPICE_STARVED: seven days without a completed slice (R465). -/
def execCoppiceStarved (stand : Stand) (kind : Fin 8) (index : Fin 8192) (s : State) : Host.Outcome State Fault Refusal :=
  .next (s.whenLive fun s =>
    let u := s.unit (unitOf stand kind.val index.val)
    match u.due with
    | some d => s.iff (!u.starved && decide (d + 7 * s.coppiceDay ≤ s.cn)) fun s =>
        let p := unitPayload kind.val index.val
        ((s.putUnit { u with starved := true }).post 879 1 p).record 879 0x49 .ok (le 4 p ++ le 1 u.deferReason)
    | none => s)

/-! Idle-path slices of the standby (R467). -/

/-- IDLE_PATH_SLICE: item 0 to 7 an output class, 8 the checkers, 9 the withdrawal and heartbeat paths. -/
def execIdlePathSlice (item : Fin 10) (s : State) : Host.Outcome State Fault Refusal :=
  .next (s.whenLive fun s =>
    let may := s.following && !s.ford.safeHold && s.cop.idle.isNone && bit 0 (s.reg 0x400A0000) && s.upd.activation.isNone
    s.iff may fun s => { s with
      cop := { s.cop with idle := some item.val, idleRetest := false }
      ford := { s.ford with idleClass := if item.val < 8 then some item.val else none } })

/-- IDLE_PATH_END: its millisecond is over; a failure is retested once, a lasting one makes the standby assert WITHDRAW. -/
def execIdlePathEnd (pass : Bool) (s : State) : Host.Outcome State Fault Refusal :=
  .next (s.whenLive fun s =>
    match s.cop.idle with
    | none => s
    | some _ =>
      if pass = false ∧ s.cop.idleRetest = false then { s with cop := { s.cop with idleRetest := true } }
      else
        let s := { s with
          cop := { s.cop with idle := none, idleRetest := false }
          ford := { s.ford with idleClass := none } }
        if pass || !s.following then s
        else
          let (v, s) := s.drawNat
          s.standWithdraws s.ford.active.other (v % 63 + 1) 0)

/-! COP registers (R471). -/

/-- The unit a register names: bits 2:0 kind, 19:4 index. -/
def unitNamed (stand : Stand) (v : Nat) : UnitId :=
  unitOf stand (field 2 0 v) (field 19 4 v)

/-- COP_CTRL (Table 13.6). -/
def State.writeCopCtrl (s : State) (v : Nat) (w : Writer) : State × Reason :=
  let (s, r) := s.writeReg 0x400A0000 v w
  if bit 1 r.act then
    ({ s with cop := { s.cop with passes := 0, transients := 0, incompletes := 0, fellings := 0, deferrals := 0 } }, r.reason)
  else (s, r.reason)

/-- COP_CMD (Table 13.6). -/
def State.writeCopCmd (s : State) (v : Nat) (w : Writer) : State × Reason :=
  let (s, r) := s.writeReg 0x400A0014 v w
  let id := unitNamed w.stand (s.reg 0x400A0018)
  if bit 0 r.act && s.hasUnit id then ({ s with cop := { s.cop with command := some (id, bit 1 r.act) } }, r.reason)
  else if bit 1 r.act then
    ({ s with cop := { s.cop with command := s.cop.command.map fun c => (c.1, true) } }, r.reason)
  else (s, r.reason)

/-- COP_RELEASE (Table 13.6). -/
def State.writeCopRelease (s : State) (v : Nat) (w : Writer) : State × Reason :=
  let (s, r) := s.writeQuiet 0x400A0090 v w
  let id := unitNamed w.stand r.act
  if !bit 31 r.act then (s, r.reason)
  else if (s.unit id).mark = some .suspect ∧ !(s.cop.slices.any fun x => decide (x.unit = id)) then
    let s := s.modUnit id fun u => { u with mark := none }
    (if w.recorded then s.recordWrite w .ok 0x400A0090 0 v else s, .ok)
  else (if w.recorded then s.recordWrite w .notAuthorised 0x400A0090 0 v else s, .notAuthorised)

/-- COPPICE_RUN: COP_CMD.RUN. -/
def execCoppiceRun (w : Writer) (s : State) : Host.Outcome State Fault Refusal :=
  .next (s.whenLive fun s => (s.writeCopCmd 1 w).1)

/-- COPPICE_DESTRUCT: COP_CMD.DESTRUCT, with RUN or for the unit commanded before. -/
def execCoppiceDestruct (run : Bool) (w : Writer) (s : State) : Host.Outcome State Fault Refusal :=
  .next (s.whenLive fun s => (s.writeCopCmd (2 + flag run 0) w).1)

/-- SUSPECT_RELEASE: COP_RELEASE.GO. -/
def execSuspectRelease (kind : Fin 8) (index : Fin 65536) (w : Writer) (s : State) : Host.Outcome State Fault Refusal :=
  .next (s.whenLive fun s => (s.writeCopRelease (2 ^ 31 + unitPayload kind.val index.val) w).1)

/-- COP_CNT_CLR: COP_CTRL.CNT_CLR. -/
def execCopCntClr (w : Writer) (s : State) : Host.Outcome State Fault Refusal :=
  .next (s.whenLive fun s => (s.writeCopCtrl (merge 1 2 (s.reg 0x400A0000)) w).1)

/-- COP_STATUS as a stand reads it (Table 13.7). -/
def State.copStatus (s : State) (stand : Stand) : Nat :=
  let runs := s.slicesOpen.filter fun x => x.started
  flag (runs.any fun x => decide (x.unit.kind = 0) && decide (x.by_ = stand)) 0
    + flag (runs.any fun x => decide (x.unit.kind = 1) && decide (x.by_ = stand)) 1
    + flag (runs.any fun x => !ownKind x.unit.kind) 2 + flag (runs.any fun x => x.destructive) 3 + flag s.cop.idle.isSome 4
    + flag (s.cop.units.any fun u => u.starved) 5 + flags s.cop.thin 8

/-- Codes of unit states (Table 13.8). -/
def unitStateCode : UnitState → Nat
  | .active => 0
  | .understory => 1
  | .underTest => 2
  | .suspect => 3
  | .felled => 4

/-- COP_UNIT_STATE (Table 13.8). -/
def State.unitWord (s : State) (id : UnitId) : Nat :=
  let u := s.unit id
  let days := match u.due with
    | some d => min 255 ((s.cn - d) / max 1 s.coppiceDay)
    | none => 0
  unitStateCode (s.unitState id) + flag u.due.isSome 3 + days * 65536 + min 255 u.transients * 2 ^ 24

/-- A register of the COP block as a stand reads it. -/
def State.readCop (s : State) (stand : Stand) (o : Nat) : Nat :=
  let c := s.cop
  let id := unitNamed stand (s.reg 0x400A0080)
  if o = 4 then s.copStatus stand
  else if o = 8 then powerOf (s.slicesOpen.filter fun x => x.started) % 4096
  else if o = 0xC then 0x1210
  else if o = 0x20 then unitPayload c.lastKind c.lastIndex + c.lastResult * 2 ^ 20 + c.lastIcause * 2 ^ 24
  else if o = 0x24 then c.lastCn % 4294967296
  else if o = 0x28 then c.lastCn / 4294967296 % 256
  else if o = 0x2C then c.lastPat
  else if o = 0x30 then c.misr % 4294967296
  else if o = 0x34 then c.misr / 4294967296
  else if o = 0x38 then c.expected % 4294967296
  else if o = 0x3C then c.expected / 4294967296
  else if o = 0x40 then c.passes
  else if o = 0x44 then c.transients
  else if o = 0x48 then c.incompletes
  else if o = 0x4C then c.fellings
  else if o = 0x50 then c.deferrals
  else if 0x60 ≤ o ∧ o < 0x80 ∧ o % 4 = 0 then
    s.freeOf stand ((o - 0x60) / 4) % 65536 + s.felledOf stand ((o - 0x60) / 4) % 65536 * 65536
  else if o = 0x84 then s.unitWord id
  else if o = 0x88 then (s.unit id).lastCn % 4294967296
  else if o = 0x8C then (s.unit id).lastCn / 4294967296 % 256
  else if o = 0x90 then 0
  else s.reg (0x400A0000 + o)

/-- A write to the COP block. -/
def State.writeCop (s : State) (o v : Nat) (w : Writer) : State × Reason :=
  if o = 0 then s.writeCopCtrl v w
  else if o = 0x14 then s.writeCopCmd v w
  else if o = 0x90 then s.writeCopRelease v w
  else s.writePlain (0x400A0000 + o) v w

end Sys2Proof.Machine
end

