-- ==== Sys2Proof/Machine/Mains.lean ====
section
/-! DEFINITION. Measured crossings, waymarks and attribution, and the firing of triggers (01, 02). -/

namespace Sys2Proof.Machine

/-- The count moves by k cycles, and the interval boundaries are looked for anew (R67, R68, R325). -/
def State.moveCount (s : State) (k : Int) : State :=
  (s.shiftCn k).renewBoundary

/-! ZC_MEASURED. -/

/-- The mains came back after a FREE_RUN of 50 cycles or more: a rejoin begins (R215). -/
def State.rejoinAfterFreeRun (s : State) : State :=
  let long := match s.adm.freeRunSince with
    | some c => decide (c + 50 ≤ s.cn)
    | none => false
  let set := s.adm.freeRunSet
  let s := { s with adm := { s.adm with freeRunSince := none, freeRunSet := [] } }
  s.iff long fun s => s.startRejoin set 1

/-- The crossing delivered last belongs to the cycle that runs. -/
def State.crossedNow (s : State) : Bool :=
  match s.time.history.getLast? with
  | some c => decide (s.cn ≤ c.cn)
  | none => false

/-- A crossing measured at `ofs` ticks from CYC of the current CN, with the offset of the latching sample (R29, R35). -/
def State.measured1 (s : State) (ofs : Int) (ofsUs : Nat) : State :=
  let absent := s.time.absent
  let moved := s.time.movePending
  let s := s.crossing ofs
  let s := s.iff (moved && !s.time.movePending) State.renewBoundary
  let s := s.iff (absent && !s.time.absent) State.rejoinAfterFreeRun
  s.iff s.crossedNow fun s => s.boundary ofsUs false

/-- ZC_MEASURED (R29): delivered at a tick of the cycle. In SAFE HOLD no stand counts crossings (R446). -/
def execZcMeasured (ofs : Int) (tick : Nat) (ofsUs : Nat) (s : State) : Host.Outcome State Fault Refusal :=
  .next (s.whenLive fun s => s.iff (!s.ford.safeHold) fun s => (s.advanceTo tick).measured1 ofs ofsUs)

/-! WAYMARK (R63 to R68, R256). -/

/-- What a waymark comes to. -/
structure WmAnswer where
  reason : Reason := .ok
  attributed : Bool := false
  agrees : Bool := false
  discarded : Bool := false
  slew : Bool := false
  /-- The phase offset (R64), where a crossing was found. -/
  ofs : Int := 0
  deriving DecidableEq, Repr

def WmAnswer.flagBits (a : WmAnswer) : Nat :=
  flags [a.attributed, a.agrees, a.discarded, a.slew] 0

/-- The waymark is accepted: held in the registers and in MRAM, with the phase offset it gives (R64, R68). -/
def State.holdWaymark (s : State) (w : Waymark) (ofs : Int) : State :=
  { s with time := { s.time with waymark := some w, mramWaymark := some w, phaseOfs := ofs, disagree := none } }

/-- The mains state after attribution (Table 2.2). -/
def TimeSt.attributed (t : TimeSt) : TimeSt :=
  { t with mstate := if t.absent then .freeRun else if 50000 ≤ t.phaseErr.natAbs then .relock else .tracking }

/-- The first attribution, k cycles from the provisional count (R66, R68): at once where no beacon carried it, else at a
re-base cycle that the beacons of the 64 cycles before it announce. -/
def State.attribute (s : State) (k : Int) : State :=
  let s := ({ s with time := s.time.attributed }).noteFreeRun
  if s.time.provBeacon then
    { s with time := { s.time with rebase := some { at_ := s.cn + 65, newCn := moveCn k (s.cn + 65) } } }
  else
    let s := s.moveCount k
    { s with time := { s.time with provisional := false } }

/-- A second waymark in a row disagrees by the same k (R67): CN not yet issued is attributed anew, an issued one is slewed. -/
def State.disagreesAgain (s : State) (k : Int) : WmAnswer × State :=
  if s.time.issued then
    if s.time.slewCyc = 0 then ({ slew := true }, { s with time := { s.time with slewCyc := k, slewSub := 0 } })
    else ({}, s)
  else
    match s.time.rebase with
    | some r => ({ attributed := true },
        { s with time := { s.time with rebase := some { at_ := s.cn + 65, newCn := moveCn (k + ((r.newCn : Int) - r.at_)) (s.cn + 65) } } })
    | none => ({ attributed := true }, s.moveCount k)

/-- A waymark with a crossing near enough: it attributes, agrees or disagrees (R63, R67). -/
def State.checkWaymark (s : State) (w : Waymark) (c : Crossing) (ofs : Int) : WmAnswer × State :=
  let ahead : Int := match s.time.rebase with
    | some r => (r.newCn : Int) - r.at_
    | none => 0
  let k : Int := (w.cn : Int) - c.cn - ahead
  if s.time.mstate = .unattributed then
    ({ attributed := true, ofs := ofs }, (s.attribute k).holdWaymark w ofs)
  else if k = 0 then ({ agrees := true, ofs := ofs }, s.holdWaymark w ofs)
  else if s.time.disagree = some k then
    let (a, s) := s.disagreesAgain k
    ({ a with ofs := ofs }, s.holdWaymark w ofs)
  else
    ({ ofs := ofs }, { s with time := { s.time with
        disagree := if s.time.slewCyc = 0 then some k else none, disagreements := bump s.time.disagreements } })

/-- Judge a waymark (R63 to R67). -/
def State.judgeWaymark (s : State) (w : Waymark) : WmAnswer × State :=
  let t : Int := 1000000000 * (w.sec : Int) + w.ns
  if s.time.tstate = .unset ∨ s.time.tstate = .locking then ({ reason := .busy }, s)
  else if 999999999 < w.ns ∨ s.nsAt s.time.ref < t then ({ reason := .malformed }, s)
  else match s.time.history.head?, s.nearestCrossing t with
    | some first, some c =>
      let ofs := s.nsAt c.ref - t
      if t < s.nsAt first.ref then ({ reason := .tooLate }, s)
      else if s.whileAbsent t then ({ discarded := true }, s)
      else if s.period < 4 * ofs.natAbs then ({ reason := .unsupported }, s)
      else s.checkWaymark w c ofs
    | _, _ => ({ reason := .tooLate }, s)

/-- Serve a WAYMARK (R65, R256): every one is recorded, a rejected one counts as a violation. -/
def State.serveWaymark (s : State) (i : Fin 4) (c : Session) (tx : Nat) (b : List Byte) : State :=
  if b.length ≠ 18 ∨ slice 5 3 b ≠ [0, 0, 0] then s.malformed i 0x60 tx
  else
    let w : Waymark := { cn := ofLe (slice 0 5 b), sec := ofLe (slice 8 6 b), ns := ofLe (slice 14 4 b) }
    let (a, s) := (s.countUse i c Session.otherUse).judgeWaymark w
    let s := s.recordAs c.role (c.pathSource i) 0x11 a.reason (le 5 w.cn ++ leInt 4 a.ofs)
    let s := s.respond i 0x60 tx (le 1 (reasonCode a.reason) ++ le 1 a.flagBits ++ [0, 0] ++ leInt 4 a.ofs ++ le 5 s.cn)
    match a.reason with
    | .ok => s
    | .busy => s
    | r => s.fspViolation i r 0x60 tx

/-- WAYMARK (R256). -/
def execWaymark (sess : Fin 4) (role : Byte) (tx : Word) (body : List Byte) (s : State) : Host.Outcome State Fault Refusal :=
  .next (s.whenLive fun s => s.request sess role 0x60 tx.toNat .operator fun c s => s.serveWaymark sess c tx.toNat body)

/-! TRIGGER_FIRE (R81, R82, Table 2.9). -/

/-- A trigger switches a contactor (Table 2.9): the change planned next for it (R279); without one the spec does not say
which way, and a free value decides (log 12). -/
def State.triggerKc (s : State) (k : Nat) : State :=
  if 4 ≤ k ∨ (s.kcFeeder k).isNone ∨ s.kcHeld ∨ s.safeSituation then s
  else match (s.kc k).fixed with
    | p :: r => (s.modKc k fun c => { c with fixed := r }).kcPlanned k p.2
    | [] =>
      let (n, s) := s.drawNat
      s.kcPlanned k (decide (n % 2 = 0))

/-- A firing trigger acts on its target. The conversion frame it resynchronises lies below the step (R83; log 25). -/
def State.triggerTarget (s : State) (target index : Nat) : State :=
  if target = 2 then s.triggerChannel index
  else if target = 3 then (if index < 8 then s.triggerPe index else s)
  else if target = 4 then s.triggerKc index
  else s

/-- An armed trigger whose instant has come fires once. -/
def State.fireTrigger (s : State) (k : Fin 16) : State :=
  if (lget {} k.val s.time.triggers).armed && s.trgReached k then
    let c := s.reg (0x40020100 + 0x20 * k.val)
    let s := s.modTrigger k fun t => { t with armed := false, fired := true }
    (s.triggerTarget (field 5 2 c) (field 12 8 c)).trgEvent k 1
  else s

/-- TRIGGER_FIRE (R81). -/
def execTriggerFire (unit : Fin 16) (tick : Nat) (s : State) : Host.Outcome State Fault Refusal :=
  .next (s.whenLive fun s => (s.advanceTo tick).fireTrigger unit)

end Sys2Proof.Machine
end

