-- ==== Sys2Proof/Machine/Events.lean ====
section
/-! DEFINITION. The event controller: firings, due records, DONE, rings, masks and handlers (R413-R425, R429). -/

namespace Sys2Proof.Machine

/-- Sources a template lists (Table 11.3). -/
def templateSources : Template → Nat
  | .mac => 6
  | .linkCrypto => 2
  | .meterPipe => 3
  | .meterAcc => 6
  | .stringLoop => 6
  | .pattern => 10
  | .colour => 5
  | .ptp => 3
  | .waveRelay => 2
  | .dimmingAction => 3
  | .fieldIo => 3

/-- Sources of the fixed blocks that Table 11.2 leaves out. -/
def reservedSource (n : Nat) : Bool :=
  [(795, 799), (827, 831), (835, 847), (858, 863), (870, 871), (875, 875), (887, 887), (895, 895)].any fun p =>
    decide (p.1 ≤ n) && decide (n ≤ p.2)

/-- Whether a source is one that fires: a listed source of a placed template (Table 11.3), a listed source of a fixed
block (Table 11.2), or the source of a used queue (R404, R414). -/
def State.sourceExists (s : State) (n : Nat) : Bool :=
  if n < 768 then
    match tget (n / 16) s.can.slots with
    | some u => decide (n % 16 < templateSources u.template)
    | none => false
  else if n < 896 then !reservedSource n
  else (tget (n - 896) s.que.queues).isSome

/-- SOURCE_FIRING (R418). Reserved numbers and indices that a template does not list never fire (Tables 11.2 and 11.3). -/
def execSourceFiring (source : Fin 1024) (kind : Fin 256) (payload : Word) (s : State) : Host.Outcome State Fault Refusal :=
  .next (s.whenLive fun s => s.iff (s.sourceExists source.val) fun s => s.post source.val kind.val payload.toNat)

/-- The coalescing time of a gathering source has passed: its record falls due (R417). -/
def EvtSt.timeout (e : EvtSt) (n : Nat) : EvtSt :=
  match tget n e.srcs with
  | some c => if c.state = .gathering then { e with srcs := tput n { c with due := true } e.srcs }.deliver n else e
  | none => e

/-- COALESCE_TIMEOUT (R417). -/
def execCoalesceTimeout (source : Fin 1024) (s : State) : Host.Outcome State Fault Refusal :=
  .next (s.whenLive fun s => { s with evt := s.evt.timeout source.val })

/-- DONE for a source by an engine (R418, Table 11.5): only the engine of the source's route serves it. -/
def EvtSt.done (e : EvtSt) (engine n : Nat) : EvtSt :=
  match tget n e.srcs, tget n e.routes with
  | some c, some r =>
    if r.engine.val = engine then
      match c.state with
      | .active => { e with srcs := tdel n e.srcs }
      | .activePending => { e with srcs := tput n { c with due := true } e.srcs }.deliver n
      | .gathering => { e with badDone := true }
    else { e with badDone := true }
  | _, _ => { e with badDone := true }

/-- EVT_DONE (R418): a write of EVT_ENGe_DONE. -/
def execEvtDone (engine : Fin 16) (value : Word) (s : State) : Host.Outcome State Fault Refusal :=
  .next (s.whenLive fun s => { s with evt := s.evt.done engine.val (field 9 0 value.toNat) })

/-- Write every due record that finds room, in ascending priority and within it in ascending source (R422). -/
def EvtSt.deliverAll (e : EvtSt) : EvtSt :=
  let at_ (p : Nat) : List Nat := (e.srcs.filter fun x => match tget x.1 e.routes with
    | some r => decide (r.prio.val = p) && x.2.due
    | none => false).map Prod.fst
  forEach (fun n e => e.deliver n) (at_ 0 ++ at_ 1 ++ at_ 2 ++ at_ 3) e

/-- A write of a ring's CONS (R420): records up to it are freed, or BAD_CONS is set; held records follow. -/
def EvtSt.writeCons (e : EvtSt) (engine p v : Nat) : EvtSt :=
  let r := e.ring engine p
  let left := (r.prod + 65536 - v) % 65536
  if left ≤ r.size then
    (e.modRing engine p fun r => { r with cons := v, records := r.records.drop (r.fill - left) }).deliverAll
  else { e with badCons := true }

/-- RING_CONS_WRITE (R420). -/
def execRingConsWrite (engine : Fin 16) (prio : Fin 4) (value : Word) (s : State) : Host.Outcome State Fault Refusal :=
  .next (s.whenLive fun s => { s with evt := s.evt.writeCons engine.val prio.val (field 15 0 value.toNat) })

/-- A write of a ring's CFG (R420, Table 11.11): unchanged while the ring is not empty or the size is out of range. -/
def EvtSt.writeCfg (e : EvtSt) (engine p v : Nat) : EvtSt :=
  let r := e.ring engine p
  if r.prod = r.cons && decide (4 ≤ field 31 28 v) && decide (field 31 28 v ≤ 10) then
    (e.modRing engine p fun r => { r with base := field 17 4 v, log2 := field 31 28 v }).deliverAll
  else e

/-- RING_CFG_WRITE (R420). -/
def execRingCfgWrite (engine : Fin 16) (prio : Fin 4) (value : Word) (s : State) : Host.Outcome State Fault Refusal :=
  .next (s.whenLive fun s => { s with evt := s.evt.writeCfg engine.val prio.val value.toNat })

/-- A write of an engine's mask (R423). -/
def EvtSt.writeMask (e : EvtSt) (engine v : Nat) : EvtSt :=
  { e with engs := lmod (fun g => { g with mask := v % 16 }) engine e.engs }

/-- RING_MASK_WRITE (R423). -/
def execRingMaskWrite (engine : Fin 16) (value : Word) (s : State) : Host.Outcome State Fault Refusal :=
  .next (s.whenLive fun s => { s with evt := s.evt.writeMask engine.val value.toNat })

/-- A ring's interrupt is raised: PROD differs from CONS and the ring is not masked (R423). -/
def EngSt.raised (g : EngSt) (p : Nat) : Bool :=
  let r : Ring := lget {} p g.rings
  decide (r.prod ≠ r.cons) && !bit p g.mask

/-- The highest raised ring above a level, 4 where none is (R424). -/
def EngSt.highest (g : EngSt) (level : Nat) : Nat :=
  minOr 4 ((upFrom 0 4).filter fun p => decide (p < level) && g.raised p)

/-- An engine takes a raised ring of higher priority: the frame of the level it leaves is saved (R424). -/
def EngSt.enter (g : EngSt) : EngSt :=
  let p := g.highest g.level
  if p < g.level then { g with level := p, frames := g.level :: g.frames } else g

/-- HANDLER_ENTRY (R424). -/
def execHandlerEntry (engine : Fin 16) (s : State) : Host.Outcome State Fault Refusal :=
  .next (s.whenLive fun s => { s with evt := { s.evt with engs := lmod EngSt.enter engine.val s.evt.engs } })

/-- A handler exits: direct entry into a ring raised above the level returned to, else that level's frame
is read back (R425). -/
def EngSt.leave (g : EngSt) : EngSt :=
  match g.frames with
  | [] => g
  | back :: rest =>
    let p := g.highest back
    if p < back then { g with level := p } else { g with level := back, frames := rest }

/-- HANDLER_EXIT (R425). -/
def execHandlerExit (engine : Fin 16) (s : State) : Host.Outcome State Fault Refusal :=
  .next (s.whenLive fun s => { s with evt := { s.evt with engs := lmod EngSt.leave engine.val s.evt.engs } })

/-- A write of EVT_CTRL: EN delivers records (Table 11.11). -/
def State.writeEvtCtrl (s : State) (v : Nat) : State :=
  { s with evt := { s.evt with en := bit 0 v }.deliverAll }

/-- A write of EVT_STATUS clears by ones (Table 11.11). -/
def State.writeEvtStatus (s : State) (v : Nat) : State :=
  { s with evt := { s.evt with
      retained := s.evt.retained && !bit 0 v
      restoreFail := s.evt.restoreFail && !bit 1 v
      badDone := s.evt.badDone && !bit 2 v
      badCons := s.evt.badCons && !bit 3 v } }

def srcStateCode : SrcState → Nat
  | .gathering => 1
  | .active => 2
  | .activePending => 3

/-- Sources held for a ring. -/
def EvtSt.heldFor (e : EvtSt) (engine p : Nat) : Nat :=
  countIf (fun x => match tget x.1 e.routes with
    | some r => x.2.held && decide (r.engine.val = engine) && decide (r.prio.val = p)
    | none => false) e.srcs

/-- A register of the EVT block by its offset (Table 11.11). -/
def State.readEvt (s : State) (o : Nat) : Nat :=
  let e := s.evt
  if o = 0x000 then flag e.en 0
  else if o = 0x004 then flag e.retained 0 + flag e.restoreFail 1 + flag e.badDone 2 + flag e.badCons 3
  else if o = 0x008 then e.heldCount
  else if o = 0x00C then e.saturated
  else if o = 0x010 then countIf (fun x => decide (x.2.state ≠ .gathering)) e.srcs
  else if 0x1000 ≤ o ∧ o < 0x1800 then
    let i := (o - 0x1000) / 0x80
    let r := (o - 0x1000) % 0x80
    let g := e.eng i
    if r < 0x40 then
      let p := r / 0x10
      let q := e.ring i p
      match r % 0x10 with
      | 0x0 => q.base * 16 + q.log2 * 268435456
      | 0x4 => q.prod
      | 0x8 => q.cons
      | 0xC => flag (decide (q.prod ≠ q.cons)) 0 + flag (!q.room && decide (0 < q.size)) 1 + flag (g.raised p) 2
          + e.heldFor i p * 65536
      | _ => 0
    else if r = 0x40 then g.mask
    else if r = 0x48 then
      flags ((upFrom 0 4).map g.raised) 0 + flags ((upFrom 0 4).map fun p => g.frames.contains p) 4 + g.level * 256
    else 0
  else if 0x4000 ≤ o ∧ o < 0x6000 then
    let n := (o - 0x4000) / 8
    if (o - 0x4000) % 8 = 0 then
      match tget n e.routes with
      | some r => r.engine.val + r.prio.val * 16 + flag r.en 7 + r.count * 256 + r.timeUs * 65536
      | none => 0
    else match tget n e.srcs with
      | some c => srcStateCode c.state + flag c.held 2 + c.count * 65536
      | none => 0
  else 0

end Sys2Proof.Machine
end

