-- ==== Sys2Proof/Machine/Settings.lean ====
section
/-! DEFINITION. Commands of the segment protocol that read and write configuration (06), octets of the UARTs (11) and the
Ethernet links (17). -/

namespace Sys2Proof.Machine

/-- An activation on the handover or reboot path holds the settings (R508): from COMMITTED until CONFIRMED. -/
def State.settingsHeld (s : State) : Bool :=
  match s.upd.activation with
  | some a => (decide (a.path = .handover) || decide (a.path = .reboot)) && a.committed
  | none => false

/-- A CONFIG_PUT is answered (R249): status, epoch, settings digest. -/
def State.answerPut (s : State) (i : Fin 4) (tx : Nat) (r : Reason) : State :=
  s.respond i 0x40 tx (le 1 (reasonCode r) ++ [0, 0, 0] ++ le 4 s.fsp.epoch ++ octets256 s.settingsDigest)

/-- A CONFIG_PUT's own record (R489), with the epoch after it: every one of an OPERATOR, and of the other roles those that change state. -/
def State.recordPut (s : State) (i : Fin 4) (c : Session) (tx : Nat) (r : Reason) : State :=
  s.iff (decide (c.role = .operator) || decide (r = .ok)) fun s =>
    s.recordAs c.role (c.pathSource i) 0x06 r (le 4 0x40 ++ le 4 tx ++ le 4 s.fsp.epoch)

/-- A CONFIG_PUT is accepted (R249): the epoch grows, and the content comes into force at its CN or at once. -/
def State.acceptPut (s : State) (id : Nat) (replace : Bool) (cn : Cn) (new : List (List Byte)) : State :=
  let t := s.table6 id
  let later := decide (s.cn < cn)
  let t := { t with accepted := new, effective := some (if later then cn else s.cn), replaced := t.replaced || replace }
  let s := { s with fsp := { s.fsp with tables := tput id t s.fsp.tables } }.growEpoch
  let s := if id = 0x0015 then s.clearContactors else s
  if later then s.announceTable id else s.enforceTable id

/-- Serve a CONFIG_PUT (R249 to R251, R613, R508). -/
def State.configPut (s : State) (i : Fin 4) (c : Session) (tx : Nat) (b : List Byte) : State :=
  let id := w16 0 b
  let replace := bit 0 (oct 2 b)
  let finish (s : State) (r : Reason) : State := (s.answerPut i tx r).recordPut i c tx r
  let bad (s : State) : State := (finish s .malformed).fspViolation i .malformed 0x40 tx
  if b.length < 20 ∨ 1 < oct 2 b ∨ oct 3 b ≠ 0 ∨ ofLe (slice 13 3 b) ≠ 0 ∨ b.length ≠ 20 + w32 16 b then bad s
  else if !tableIds.contains id then finish s .unsupported
  else if s.settingsHeld then finish s .busy
  else if w32 4 b ≠ s.fsp.epoch then finish s .digestMismatch
  else
    match entriesOf id (b.drop 20) with
    | none => bad s
    | some es =>
      if replace && es.any (removal id) then bad s
      else
        let new := putTable id replace (s.table6 id).accepted es
        if tableCapacity id < new.length then finish s .noCapacity
        else if id = 0x0014 && !routesOk new then bad s
        else finish (s.acceptPut id replace (ofLe (slice 8 5 b)) new) .ok

/-- CONFIG_PUT (R249). -/
def execConfigPut (sess : Fin 4) (role : Byte) (tx : Word) (body : List Byte) (s : State) :
    Host.Outcome State Fault Refusal :=
  .next (s.whenLive fun s =>
    s.request sess role 0x40 tx.toNat (tableRight (w16 0 body)) fun c s => s.configPut sess c tx.toNat body)

/-- CONFIG_GET (R252). -/
def State.configGet (s : State) (i : Fin 4) (c : Session) (tx : Nat) (b : List Byte) : State :=
  let s := s.countUse i c Session.readUse
  let id := w16 0 b
  let most := w32 8 b
  if b.length ≠ 12 ∨ w16 2 b ≠ 0 ∨ 1048556 < most then s.malformed i 0x41 tx
  else if !tableIds.contains id then s.respond i 0x41 tx (statusBody .unsupported)
  else
    let all := s.tableContent id
    let part := slice (w32 4 b) most all
    s.respond i 0x41 tx (statusBody .ok ++ le 4 s.fsp.epoch ++ le 4 all.length ++ le 4 (w32 4 b) ++ le 4 part.length ++ part)

def execConfigGet (sess : Fin 4) (role : Byte) (tx : Word) (body : List Byte) (s : State) :
    Host.Outcome State Fault Refusal :=
  .next (s.whenLive fun s =>
    s.request sess role 0x41 tx.toNat .operator fun c s => s.configGet sess c tx.toNat body)

/-- A node's entry in a DIGEST answer (R253). -/
def State.digestEntry (s : State) (n : NodeRec) : List Byte :=
  le 8 n.eui ++ le 2 n.short ++ le 16 (n.digest.getD 0) ++ le 1 (linkStateCode n.state) ++ le 1 (flag (n.agrees s.cn) 0)

/-- DIGEST (R253). -/
def State.digestAnswer (s : State) (i : Fin 4) (c : Session) (tx : Nat) (b : List Byte) : State :=
  let s := s.countUse i c Session.readUse
  if b.length ≠ 8 ∨ 1 < oct 0 b ∨ oct 1 b ≠ 0 ∨ 4096 < w16 4 b ∨ w16 6 b ≠ 0 then s.malformed i 0x42 tx
  else
    let all := byEui (s.node.nodes.filter fun n => decide (n.state ≠ .absent))
    let now := if bit 0 (oct 0 b) then (all.drop (w16 2 b)).take (w16 4 b) else []
    let more := bit 0 (oct 0 b) && decide (w16 2 b + now.length < all.length)
    s.respond i 0x42 tx (le 1 0 ++ le 1 (flag more 0) ++ le 2 now.length ++ le 4 s.fsp.epoch ++ octets256 s.segmentDigest
      ++ octets256 s.can.digest ++ octets256 s.settingsDigest ++ le 2 s.disagreeing ++ [0, 0] ++ (now.map s.digestEntry).flatten)

def execDigest (sess : Fin 4) (role : Byte) (tx : Word) (body : List Byte) (s : State) :
    Host.Outcome State Fault Refusal :=
  .next (s.whenLive fun s =>
    s.request sess role 0x42 tx.toNat .operator fun c s => s.digestAnswer sess c tx.toNat body)

/-! UARTs and links. -/

/-- The queue that takes the octets of a UART (R412): Q000 for the modem (R260); for an RS-485 port, the queues FIELD_IO
produces into besides it, in order. -/
def State.uartQueue (s : State) (port : Nat) : Option Nat :=
  match s.can.slotOf .fieldIo 0 with
  | none => none
  | some n =>
    if !bit port (oct 0 (s.tileBlock .fieldIo 0)) then none
    else if port = 0 then some 0
    else
      let mine := s.que.queues.filter fun p => decide (p.1 ≠ 0) && decide (field 15 12 p.2.producer = 0) && decide (field 7 0 p.2.producer = n)
      let skip := if port = 2 ∧ bit 1 (oct 0 (s.tileBlock .fieldIo 0)) = true then 1 else 0
      (mine[skip]?).map Prod.fst

/-- UART_OCTET (R412): port 0 is the modem, 1 and 2 the RS-485 ports. -/
def execUartOctet (port : Fin 3) (data : Byte) (framing brk : Bool) (s : State) : Host.Outcome State Fault Refusal :=
  .next (s.whenLive fun s => s.iff (!s.sliced (s.can.slotOf .fieldIo port.val)) fun s =>
    match s.uartQueue port.val with
    | some q =>
      let d := data.toNat + flag framing 8 + flag brk 9
      let s := s.pushWord q { data := d, parity := parity64 64 d }
      { s with fld := { s.fld with rts := s.modemRts } }
    | none => s)

/-- ETH_LINK_CHANGE (R569): a link that drops ends the FSP sessions of its port, and its PTP source is lost (R52). -/
def execEthLinkChange (port : Fin 2) (up : Bool) (s : State) : Host.Outcome State Fault Refusal :=
  .next (s.whenLive fun s =>
    let s := { s with fld := { s.fld with ethUp := lset port.val up s.fld.ethUp } }
    if up then s
    else
      let s := forEach (fun i s => match s.session i with
        | some c => if c.path = port.val then s.closeSession i else s
        | none => s) [0, 1, 2, 3] s
      let t := if port.val = 0 then { s.time with valid0 := false } else { s.time with valid1 := false }
      ({ s with time := t }).checkSource)

end Sys2Proof.Machine
end

