-- ==== Sys2Proof/Machine/Pins.lean ====
section
/-! DEFINITION. The FIELD connector: contactor drives, MOD_3V3, RS-485 lines, and the FLD registers (R413, R551, R557, R570). -/

namespace Sys2Proof.Machine

/-- KC_OVERCURRENT (R557): a drive in its current limit for 2 ms turns off until the next commanded change. -/
def execKcOvercurrent (k : Fin 4) (s : State) : Host.Outcome State Fault Refusal :=
  .next (s.whenLive fun s =>
    s.iff (s.kc k.val).drive fun s =>
      let s := s.modKc k.val fun c => { c with drive := false }
      { s with fld := { s.fld with kcOver := lset k.val true s.fld.kcOver } })

/-- KC_OPEN_LOAD (R557): the test current of an off drive finds the coil open, or whole again. -/
def execKcOpenLoad (k : Fin 4) (isOpen : Bool) (s : State) : Host.Outcome State Fault Refusal :=
  .next (s.whenLive fun s =>
    s.iff (!(s.kc k.val).drive) fun s => { s with fld := { s.fld with kcOpen := lset k.val isOpen s.fld.kcOpen } })

/-- MOD_POWER_OVERCURRENT (R551): MOD_3V3 passes 600 mA and is limited. -/
def execModPowerOvercurrent (ma : Fin 65536) (ok : Bool) (s : State) : Host.Outcome State Fault Refusal :=
  .next (s.whenLive fun s =>
    s.iff (decide (600 < ma.val)) fun s => { s with fld := { s.fld with modOver := true, modMa := 600, modOk := ok } })

/-- RS485_IDLE_AFTER_FRAME (R413, Table 11.3). -/
def execRs485IdleAfterFrame (port : Fin 2) (s : State) : Host.Outcome State Fault Refusal :=
  .next (s.whenLive fun s =>
    let sliced := s.sliced (s.can.slotOf .fieldIo 0)
    s.iff (bit (1 + port.val) (oct 0 (s.tileBlock .fieldIo 0)) && !sliced) fun s => s.postTile .fieldIo 0 port.val 1 0)

/-- FLD_OUT (Table 17.14): what the module drives. -/
def State.fldOut (s : State) : Nat :=
  flags ((upFrom 0 4).map fun k => (s.kc k).drive) 0 + flags ((upFrom 0 8).map s.fcAsserted) 4 + flag s.modemRts 12
    + flag s.ppsOut 13

/-- A register of the FLD block by its offset (Table 17.14). -/
def State.readFld (s : State) (o : Nat) : Nat :=
  let f := s.fld
  if o = 0x004 then
    flags f.kcFb 0 + flags f.tmpHigh 4 + flags [f.syncIn, f.incIn, f.ppsIn, f.cts, !f.mseal] 8
  else if o = 0x008 then s.fldOut
  else if o = 0x00C then flags f.kcOver 0 + flags f.kcOpen 4 + flag f.vcoil 8
  else if o = 0x010 then flag f.modOk 0 + flag f.modOver 1 + f.modMa % 65536 * 65536
  else s.reg (0x400D0000 + o)

end Sys2Proof.Machine
end

