-- ==== Sys2Proof/Machine/Sessions.lean ====
section
/-! DEFINITION. FSP sessions, roles, acknowledgements, header faults and the modem path (R220-R238, R257-R263). -/

namespace Sys2Proof.Machine

/-- The first free session index. -/
def State.freeSession (s : State) : Option Nat :=
  (upFrom 0 4).find? fun i => (tget i s.fsp.sessions).isNone

/-- A session of the modem path runs. -/
def State.modemSession (s : State) : Bool :=
  s.fsp.sessions.any fun p => decide (p.2.path = 3)

/-- A TLS handshake completes (R221, R222): with a client certificate it accepts it opens
a session; a fifth session, or a second on the modem path, is refused BUSY. -/
def State.openSession (s : State) (path : Nat) (certified : Bool) (exporter : List Byte) : State :=
  if !certified then s.emit (.refuse .notAuthorised)
  else
    match s.freeSession with
    | none => s.emit (.refuse .busy)
    | some i =>
      if path = 3 && s.modemSession then s.emit (.refuse .busy)
      else
        let c : Session := { path := path, exporter := exporter, lastMessage := s.cn }
        let s := { s with fsp := { s.fsp with sessions := tput i c s.fsp.sessions } }
        if path = 3 then
          { s with fsp := { s.fsp with modem := { s.fsp.modem with state := .up, since := s.cn, lastRequest := s.cn, wait := 1500 } } }
        else s

/-- While the module is in commissioning (site id 0) it serves J5 port 0 only (R601). -/
def State.pathServed (s : State) (path : Nat) : Bool :=
  decide (path = 0) || decide (s.can.siteId ≠ 0)

/-- TLS_HANDSHAKE (R222, R601): path 0 J5 port 0, 1 J5 port 1, 2 PRP, 3 modem; whether the certificate's
signature verifies and whether it chains to an anchor, which commissioning does not ask. -/
def execTlsHandshake (path : Fin 4) (signed chained : Bool) (exporter : List Byte) (s : State) : Host.Outcome State Fault Refusal :=
  .next (s.whenLive fun s =>
    if s.pathServed path.val then s.openSession path.val (signed && (chained || decide (s.can.siteId = 0))) exporter
    else s.emit (.refuse .notAuthorised))

/-- HANDSHAKE_TIMEOUT (R222): the TCP connection was made at a CN. -/
def execHandshakeTimeout (since : Nat) (s : State) : Host.Outcome State Fault Refusal :=
  .next (s.whenLive fun s => s.iff (decide (since + 500 ≤ s.cn)) fun s => s.emit (.refuse .tooLate))

/-- The first check a header fails (R224, Table 6.7): reason and byte offset. -/
def headerFault (h : List Byte) : Option (Reason × Nat) :=
  if slice 0 2 h ≠ [0x53, 0x46] then some (.malformed, 0)
  else if slice 2 1 h ≠ [1] then some (.unsupported, 2)
  else if 1048576 < ofLe (slice 8 4 h) then some (.malformed, 8)
  else if slice 6 2 h ≠ [0, 0] then some (.malformed, 6)
  else if slice 21 3 h ≠ [0, 0, 0] then some (.malformed, 21)
  else if 4 ≤ ofLe (slice 4 1 h) then some (.malformed, 4)
  else if !knownType (ofLe (slice 3 1 h)) then some (.unsupported, 3)
  else if 4 ≤ ofLe (slice 5 1 h) then some (.notAuthorised, 5)
  else none

/-- The transaction id an answer to a bad header carries: zero where its magic is not FSP's (R258). -/
def faultTx (header : List Byte) (offset : Nat) : Nat :=
  if offset = 0 then 0 else ofLe (slice 12 4 (padTo 24 header))

/-- Answer the first failure of a header: ERROR, or DECLINE for the role of an ADMIT (R229, Table 6.7). -/
def State.headerAnswer (s : State) (i : Fin 4) (header : List Byte) (reason : Reason) (offset : Nat) : State :=
  let type := ofLe (slice 3 1 header)
  let tx := faultTx header offset
  if reason = .notAuthorised ∧ type = 0x10 then
    (s.respond i 0x12 tx (le 1 (reasonCode .notAuthorised) ++ le 5 s.cn ++ le 5 0 ++ [0])).fspViolation i .notAuthorised type tx
  else s.refuse i reason type 0 offset tx

/-- FSP_HEADER_FAULT (R224, R258, R259): the first failure is answered and the body discarded. -/
def execFspHeaderFault (sess : Fin 4) (header : List Byte) (s : State) : Host.Outcome State Fault Refusal :=
  .next (s.whenLive fun s =>
    match s.session sess, headerFault (padTo 24 header) with
    | some _, some (reason, offset) =>
      (s.modSession sess fun c => { c with lastMessage := s.cn }).headerAnswer sess header reason offset
    | _, _ => s)

/-- FSP_WRONG_TYPE (R236): an unknown type, or one the module sends; a push acknowledgement is none. -/
def execFspWrongType (sess : Fin 4) (type : Byte) (tx : Word) (s : State) : Host.Outcome State Fault Refusal :=
  .next (s.whenLive fun s =>
    match s.session sess with
    | some _ => s.iff (!headType type.toNat) fun s =>
        (s.modSession sess fun c => { c with lastMessage := s.cn }).refuse sess .unsupported type.toNat 0 3 tx.toNat
    | none => s)

/-- The HELLO response (Table 6.5). -/
def State.helloBody (s : State) (i : Fin 4) (c : Session) : List Byte :=
  le 1 0 ++ le 1 (match s.build with | .t => 1 | .s => 2)
    ++ le 1 (if s.ford.safeHold then 0xFF else if s.ford.active = .a then 0 else 1)
    ++ le 1 (c.path + i.val * 4) ++ le 8 s.rad.eui ++ le 4 s.upd.firmware ++ octets256 s.can.digest ++ le 4 s.fsp.epoch
    ++ le 5 s.cn ++ le 1 (tstateCode s.time.tstate + mstateCode s.time.mstate * 4)
    ++ le 1 (flag s.time.provisional 0 + flag s.ford.safeHold 1 + flag s.tampered 2 + flag s.adm.rejoin.isSome 3
        + flag s.upd.session.isSome 4)
    ++ [0] ++ le 4 s.fsp.pushLog.length

/-- A session subscribes: it is to be sent every unsettled push it has not been sent (R233). -/
def State.subscribe (s : State) (i : Fin 4) (on_ : Bool) (head : Nat) : State :=
  let s := s.modSession i fun c =>
    { c with
      head := head, subscribe := on_
      unsent := if on_ then ((s.fsp.pushLog.map Push.seq).filter fun q => !(c.unacked.contains q)) else [] }
  s.pushWaiting i.val (s.fsp.pushLog.length)

/-- HELLO (R237). -/
def State.serveHello (s : State) (i : Fin 4) (c : Session) (tx : Nat) (body : List Byte) : State :=
  if body.length ≠ 8 ∨ 2 ≤ ofLe (slice 0 1 body) ∨ ofLe (slice 1 3 body) ≠ 0 then s.malformed i 0x01 tx
  else
    (s.respond i 0x01 tx (s.helloBody i c)).subscribe i (bit 0 (ofLe (slice 0 1 body))) (ofLe (slice 4 4 body))

def execHello (sess : Fin 4) (role : Byte) (tx : Word) (body : List Byte) (s : State) : Host.Outcome State Fault Refusal :=
  .next (s.whenLive fun s => s.request sess role 0x01 tx.toNat .nobody fun c s => s.serveHello sess c tx.toNat body)

/-- ROLE_CHALLENGE (R226, R228, R238): a fresh module nonce; MAKER is not granted on the modem path. -/
def State.serveChallenge (s : State) (i : Fin 4) (c : Session) (tx : Nat) (body : List Byte) : State :=
  match roleOf (ofLe (slice 0 1 body)) with
  | none => s.malformed i 0x02 tx
  | some r =>
    if body.length ≠ 20 ∨ r = .nobody ∨ ofLe (slice 1 3 body) ≠ 0 then s.malformed i 0x02 tx
    else if r = .maker ∧ c.path = 3 then
      s.respond i 0x02 tx (le 1 (reasonCode .unsupported) ++ le 1 (roleCode r) ++ [0, 0] ++ List.replicate 16 0)
    else
      let (v, s) := s.drawRandom
      let nonce := (octets256 v).take 16
      let s := s.modSession i fun c => { c with challenge := some { role := r, headNonce := slice 4 16 body, moduleNonce := nonce, cn := s.cn } }
      s.respond i 0x02 tx (le 1 0 ++ le 1 (roleCode r) ++ [0, 0] ++ nonce)

def execRoleChallenge (sess : Fin 4) (role : Byte) (tx : Word) (body : List Byte) (s : State) : Host.Outcome State Fault Refusal :=
  .next (s.whenLive fun s => s.request sess role 0x02 tx.toNat .nobody fun c s => s.serveChallenge sess c tx.toNat body)

/-- The 81-octet proof input M (R227). -/
def State.proofInput (s : State) (c : Session) (h : Challenge) : List Byte :=
  ascii "FSP-ROLE" ++ le 1 (roleCode h.role) ++ padTo 16 h.headNonce ++ padTo 16 h.moduleNonce ++ le 8 s.rad.eui
    ++ padTo 32 c.exporter

/-- A proof octet string over M under a role's secret: 0x01 for the head-end, 0x02 for the module (R227). -/
def State.proofOf (s : State) (r : Role) (who : Byte) (m : List Byte) : List Byte :=
  octets256 (Config.hmac (s.slot (roleSlot r)).value (who :: m))

/-- Count a proof of a role (KEY_ROLE_USE). -/
def State.countProof (s : State) (r : Role) (ok : Bool) : State :=
  let i := roleCode r - 1
  if ok then { s with key := { s.key with granted := lmod (fun n => satAdd 65535 n 1) i s.key.granted } }
  else { s with key := { s.key with refused := lmod (fun n => satAdd 65535 n 1) i s.key.refused } }

/-- The record of a role proof (Table 16.4, R489): role, granted, path. -/
def State.recordProof (s : State) (r : Role) (ok : Bool) (source path : Nat) : State :=
  s.recordAs r source 0x04 (if ok then .ok else .notAuthorised) (le 1 (roleCode r) ++ le 1 (if ok then 1 else 0) ++ le 1 path)

/-- Path octet of proofs and clears: 0 to 3 session, 4 modem (Table 16.4). -/
def pathOctet (i : Fin 4) (c : Session) : Nat :=
  if c.path = 3 then 4 else i.val

/-- ROLE_PROOF (R226 to R228, R238): verified within 250 cycles of the challenge against the role's LIVE slot. -/
def State.serveProof (s : State) (i : Fin 4) (c : Session) (tx : Nat) (body : List Byte) : State :=
  if body.length ≠ 36 ∨ ofLe (slice 1 3 body) ≠ 0 then s.malformed i 0x03 tx
  else
    let fail (s : State) (r : Role) : State :=
      let s := (s.countProof r false).recordProof r false (c.pathSource i) (pathOctet i c)
      let s := s.modSession i fun c => { c with challenge := none }
      (s.respond i 0x03 tx (le 1 (reasonCode .notAuthorised) ++ le 1 (roleCode c.role) ++ [0, 0] ++ List.replicate 32 0)).fspViolation
        i .notAuthorised 0x03 tx
    match c.challenge with
    | none => fail s ((roleOf (ofLe (slice 0 1 body))).getD .nobody)
    | some h =>
      let m := s.proofInput c h
      if s.cn ≤ h.cn + 250 && decide (ofLe (slice 0 1 body) = roleCode h.role) && s.slotLive (roleSlot h.role)
          && decide (slice 4 32 body = s.proofOf h.role 1 m) then
        let s := (s.countProof h.role true).recordProof h.role true (c.pathSource i) (pathOctet i c)
        let s := s.modSession i fun c => { c with role := h.role, challenge := none, roleSince := some (c.roleSince.getD s.cn) }
        s.respond i 0x03 tx (le 1 0 ++ le 1 (roleCode h.role) ++ [0, 0] ++ s.proofOf h.role 2 m)
      else fail s h.role

def execRoleProof (sess : Fin 4) (role : Byte) (tx : Word) (body : List Byte) (s : State) : Host.Outcome State Fault Refusal :=
  .next (s.whenLive fun s => s.request sess role 0x03 tx.toNat .nobody fun c s => s.serveProof sess c tx.toNat body)

/-- ROLE_LAPSE (R226): 250 cycles without a proof; counted as a violation. -/
def execRoleLapse (sess : Fin 4) (s : State) : Host.Outcome State Fault Refusal :=
  .next (s.whenLive fun s =>
    match s.session sess with
    | some c => match c.challenge with
      | some h => s.iff (decide (h.cn + 250 < s.cn)) fun s =>
          (s.modSession sess fun c => { c with challenge := none }).fspViolation sess .notAuthorised 0x03 0
      | none => s
    | none => s)

/-- An acknowledgement settles a push for every session (R232, R233). -/
def State.settle (s : State) (seq : Nat) : State :=
  { s with fsp := { s.fsp with
      pushLog := s.fsp.pushLog.filter fun p => decide (p.seq ≠ seq)
      sessions := s.fsp.sessions.map fun p =>
        (p.1, { p.2 with unacked := p.2.unacked.filter fun q => decide (q ≠ seq), unsent := p.2.unsent.filter fun q => decide (q ≠ seq) }) } }

/-- PUSH_ACK (R232, R236): a message of the push's type with RESPONSE and PUSH, its sequence and no body. It is no
request, so its role octet need not be the session's (R229); a reserved one fails the header check (R224). -/
def execPushAck (sess : Fin 4) (role : Byte) (type : Byte) (seq : Word) (s : State) : Host.Outcome State Fault Refusal :=
  .next (s.whenLive fun s =>
    match s.session sess with
    | none => s
    | some _ =>
      let s := s.modSession sess fun c => { c with lastMessage := s.cn }
      if roleOf role.toNat = none then s.refuse sess .notAuthorised type.toNat 0 5 seq.toNat
      else if s.fsp.pushLog.any fun p => decide (p.seq = seq.toNat) && decide (p.type = type.toNat) then
        let s := s.settle seq.toNat
        forEach (fun i s => s.pushWaiting i s.fsp.pushLog.length) (upFrom 0 4) s
      else s.fspViolation sess .unsupported type.toNat seq.toNat)

/-! Timers of FSP_PATHS (R262, R263). -/

/-- The FSP_PATHS record in force: rate, MODEM_OPEN_AFTER, idle limit, ALWAYS. -/
def State.fspPaths (s : State) : Option (List Byte) :=
  (s.inForce 0x0021).head?

def State.idleLimit (s : State) : Nat :=
  match s.fspPaths with
  | some p => ofLe (slice 6 2 p)
  | none => 6000

def State.modemOpenAfter (s : State) : Nat :=
  match s.fspPaths with
  | some p => ofLe (slice 4 2 p)
  | none => 1500

def State.modemAlways (s : State) : Bool :=
  match s.fspPaths with
  | some p => bit 0 (ofLe (slice 8 1 p))
  | none => false

/-- The i-th dial line of FSP_PATHS without its padding; `none` where it is empty (R261). -/
def State.dialLine (s : State) (i : Nat) : Option (List Byte) :=
  match s.fspPaths with
  | some p =>
    let l := (slice (9 + 32 * i) 32 p).takeWhile fun b => decide (b ≠ 0)
    if i < 4 ∧ l ≠ [] then some l else none
  | none => none

/-- Octets as text. -/
def textOf (l : List Byte) : String :=
  String.ofList (l.map fun b => Char.ofNat b.toNat)

/-- SESSION_IDLE (R226): no message for the idle limit. -/
def execSessionIdle (sess : Fin 4) (s : State) : Host.Outcome State Fault Refusal :=
  .next (s.whenLive fun s =>
    match s.session sess with
    | some c => s.iff (decide (c.lastMessage + s.idleLimit ≤ s.cn)) fun s => s.closeSession sess
    | none => s)

/-- SESSION_CLOSE (R489): the head-end or the network closes a session. -/
def execSessionClose (sess : Fin 4) (s : State) : Host.Outcome State Fault Refusal :=
  .next (s.whenLive fun s => s.closeSession sess)

/-! The modem path. -/

/-- A J5 session holds a role. -/
def State.j5Role (s : State) : Bool :=
  s.fsp.sessions.any fun p => decide (p.2.path ≠ 3) && decide (p.2.role ≠ .nobody)

/-- Start an attempt: the first dial line, or PPP where there is none (R261). -/
def State.startDial (s : State) : State :=
  let modem := { s.fsp.modem with state := .dialing 0, since := s.cn }
  match s.dialLine 0 with
  | some l => ({ s with fsp := { s.fsp with modem := modem } }).emit (.modem (textOf l))
  | none => { s with fsp := { s.fsp with modem := { modem with state := .linking } } }

/-- MODEM_OPEN (R262): no J5 session has held a role for MODEM_OPEN_AFTER, or FSP_PATHS sets ALWAYS. -/
def execModemOpen (s : State) : Host.Outcome State Fault Refusal :=
  .next (s.whenLive fun s =>
    s.iff (decide (s.fsp.modem.state = .closed)
        && (s.modemAlways || (!s.j5Role && decide (s.fsp.lastRole + s.modemOpenAfter ≤ s.cn)))) State.startDial)

/-- A failed attempt: wait 1,500 cycles, doubled after each further failure up to 96,000 (R262). -/
def State.modemFail (s : State) : State :=
  { s with fsp := { s.fsp with modem := { s.fsp.modem with state := .backOff, since := s.cn } } }

/-- DIAL_LINE_ANSWER (R261): the answer to the line sent last; `connect` and `ok` as the modem sent them.
OK serves every line, CONNECT the last one. -/
def execDialLineAnswer (ok connect : Bool) (s : State) : Host.Outcome State Fault Refusal :=
  .next (s.whenLive fun s =>
    match s.fsp.modem.state with
    | .dialing i =>
      let s' := { s with fsp := { s.fsp with modem := { s.fsp.modem with state := .dialing (i + 1), since := s.cn } } }
      match s.dialLine (i + 1) with
      | some l => if ok then s'.emit (.modem (textOf l)) else s.modemFail
      | none =>
        if ok || connect then { s with fsp := { s.fsp with modem := { s.fsp.modem with state := .linking, since := s.cn } } }
        else s.modemFail
    | _ => s)

/-- DIAL_TIMEOUT (R261): a dial line unanswered for 500 cycles fails the attempt. -/
def execDialTimeout (s : State) : Host.Outcome State Fault Refusal :=
  .next (s.whenLive fun s =>
    match s.fsp.modem.state with
    | .dialing _ => s.iff (decide (s.fsp.modem.since + 500 ≤ s.cn)) State.modemFail
    | _ => s)

/-- A J5 session has held a role for 3,000 cycles (R262). -/
def State.j5Settled (s : State) : Bool :=
  s.fsp.sessions.any fun p => decide (p.2.path ≠ 3) && decide (p.2.role ≠ .nobody)
    && (match p.2.roleSince with | some c => decide (c + 3000 ≤ s.cn) | none => false)

/-- MODEM_CLOSE (R262): and the modem session has received no request for 3,000 cycles. -/
def execModemClose (s : State) : Host.Outcome State Fault Refusal :=
  .next (s.whenLive fun s =>
    s.iff (decide (s.fsp.modem.state = .up) && !s.modemAlways && s.j5Settled
        && decide (s.fsp.modem.lastRequest + 3000 ≤ s.cn)) fun s =>
      let s := forEach (fun (i : Fin 4) s => match s.session i with
        | some c => if c.path = 3 then s.closeSession i else s
        | none => s) [0, 1, 2, 3] s
      { s with fsp := { s.fsp with modem := { s.fsp.modem with state := .closed, since := s.cn } } })

/-- MODEM_RETRY (R262): the back-off ends and the next attempt starts; the wait doubles for the next failure. -/
def execModemRetry (s : State) : Host.Outcome State Fault Refusal :=
  .next (s.whenLive fun s =>
    s.iff (decide (s.fsp.modem.state = .backOff) && decide (s.fsp.modem.since + s.fsp.modem.wait ≤ s.cn)) fun s =>
      ({ s with fsp := { s.fsp with modem := { s.fsp.modem with wait := min 96000 (2 * s.fsp.modem.wait) } } }).startDial)

/-- MODEM_CTS_CHANGE (R260): the module transmits on the UART only while the modem asserts CTS. -/
def execModemCtsChange (asserted : Bool) (s : State) : Host.Outcome State Fault Refusal :=
  .next (s.whenLive fun s => ({ s with fld := { s.fld with cts := asserted } }).postTile .fieldIo 0 2 1 0)

end Sys2Proof.Machine
end

