-- ==== Sys2Proof/Machine/Upd.lean ====
section
/-! DEFINITION. Commands of updates and caravans (06, 15): offers, chunks, activation paths, confirmation, caravan frames, the
UPD registers. -/

namespace Sys2Proof.Machine

/-! Sessions (R254, R255, R503 to R505). -/

/-- A record of the Drover (Table 16.4, id 0x60). -/
def State.recordUpdate (s : State) (role : Role) (reason : Reason) (payload : List Byte) : State :=
  s.recordAs role 0x0422 0x60 reason payload

/-- A message's own ROLE_ACTION record (R489): an OPERATOR's use is counted instead. -/
def State.noteUse (s : State) (i : Fin 4) (c : Session) (type tx new : Nat) : State :=
  if c.role = .operator then s.countUse i c Session.otherUse
  else s.recordAs c.role (c.pathSource i) 0x06 .ok (le 4 type ++ le 4 tx ++ le 4 new)

/-- The answer to an offer (R254). -/
def State.answerOffer (s : State) (i : Fin 4) (tx : Nat) (r : Reason) (flagBits id held : Nat) : State :=
  s.respond i 0x50 tx (le 1 (reasonCode r) ++ le 1 flagBits ++ [0, 0] ++ le 4 id ++ le 4 held)

/-- Open an update session for a manifest (R503, R505). -/
def State.openUpdate (s : State) (m : Manifest) (b : List Byte) (digest : BitVec 256) : State :=
  let old := s.updSession
  let (v, s) := s.drawNat
  let x : UpdSession := {
    id := v % 4294967296, seq := m.seq, manifest := b, digest := digest, length := m.length, count := m.count, lastMessage := s.cn }
  let s := { s with upd := { s.upd with session := some x, activation := none } }
  (s.sessionPhase 0x01).sessionChanged old

/-- Judge an offer that neither resumes nor meets an open session, or pre-empts one (R255, R503). -/
def State.judgeOffer (s : State) (i : Fin 4) (c : Session) (tx : Nat) (b : List Byte) (digest : BitVec 256) (signed preempts : Bool)
    (seq length count : Nat) : State :=
  match s.judgeManifest b signed seq length count with
  | .error r =>
    let s := s.answerOffer i tx r 0 0 0
    if r = .malformed then s.fspViolation i .malformed 0x50 tx else s
  | .ok m =>
    let s := if preempts then
        let s := { s with upd := { s.upd with preempts := bump s.upd.preempts } }
        s.recordUpdate c.role .ok (le 4 ((s.upd.session.map fun x => x.id).getD 0))
      else s.noteUse i c 0x50 tx m.seq
    let s := s.openUpdate m b digest
    s.answerOffer i tx .ok (flag preempts 1) ((s.upd.session.map fun x => x.id).getD 0) 0

/-- Serve an UPDATE_OFFER (R254, R255). -/
def State.updateOffer (s : State) (i : Fin 4) (c : Session) (tx : Nat) (body : List Byte) (signed : Bool) : State :=
  let n := w16 12 body
  if body.length < 16 ∨ w16 14 body ≠ 0 ∨ body.length ≠ 16 + n then (s.answerOffer i tx .malformed 0 0 0).fspViolation i .malformed 0x50 tx
  else if s.upd.activation.isSome ∨ bit 0 (s.reg 0x400B0000) = false then s.answerOffer i tx .busy 0 0 0
  else
    let b := body.drop 16
    let digest := Config.sha256 b
    let judge (preempts : Bool) : State := s.judgeOffer i c tx b digest signed preempts (w32 0 body) (w32 4 body) (w32 8 body)
    match s.upd.session with
    | none => judge false
    | some x =>
      if x.seq = w32 0 body ∧ x.digest = digest then
        let s := { s with upd := { s.upd with session := some { x with lastMessage := s.cn } } }
        (s.noteUse i c 0x50 tx x.seq).answerOffer i tx .ok 1 x.id x.chunks.length
      else if x.seq < w32 0 body ∧ (c.role = .installer ∨ c.role = .maker) then judge true
      else s.answerOffer i tx .busy 0 0 0

/-- UPDATE_OFFER: `signed` is the verdict on the manifest's signature under its verification slot. -/
def execUpdateOffer (sess : Fin 4) (role : Byte) (tx : Word) (body : List Byte) (signed : Bool) (s : State) :
    Host.Outcome State Fault Refusal :=
  .next (s.whenLive fun s =>
    s.request sess role 0x50 tx.toNat .operator fun c s => s.updateOffer sess c tx.toNat body signed)

/-- Length of a chunk in the clear (R504). -/
def UpdSession.chunkLength (x : UpdSession) (i : Nat) : Nat :=
  if i + 1 = x.count then x.length - 4096 * i else 4096

/-- Serve an UPDATE_CHUNK (R254, R255, R504). -/
def State.updateChunk (s : State) (i : Fin 4) (c : Session) (tx : Nat) (b : List Byte) (tag : Bool) (plain : List Byte) : State :=
  let n := w32 4 b
  let answer (s : State) (r : Reason) : State :=
    s.respond i 0x51 tx (statusBody r ++ le 4 n ++ le 4 ((s.upd.session.map fun x => x.chunks.length).getD 0))
  let bad (s : State) : State := (answer s .malformed).fspViolation i .malformed 0x51 tx
  match s.upd.session with
  | none => bad s
  | some x =>
    if b.length < 12 ∨ w16 10 b ≠ 0 ∨ b.length ≠ 12 + w16 8 b ∨ w32 0 b ≠ x.id ∨ x.count ≤ n then bad s
    else if (tget n x.chunks).isSome then
      answer { s with upd := { s.upd with session := some { x with lastMessage := s.cn } } } .ok
    else if w16 8 b ≠ x.chunkLength n + 16 ∨ plain.length ≠ x.chunkLength n ∨ tag = false then bad s
    else
      let x := { x with chunks := tput n plain x.chunks, lastMessage := s.cn }
      answer ({ s with upd := { s.upd with session := some x } }.noteUse i c 0x51 tx n) .ok

/-- UPDATE_CHUNK: `tag` is the verdict of its authentication tag, `plain` the chunk in the clear. -/
def execUpdateChunk (sess : Fin 4) (role : Byte) (tx : Word) (body : List Byte) (tag : Bool) (plain : List Byte) (s : State) :
    Host.Outcome State Fault Refusal :=
  .next (s.whenLive fun s =>
    s.request sess role 0x51 tx.toNat .operator fun c s => s.updateChunk sess c tx.toNat body tag plain)

/-- Octets of the bitmap of chunks held from a base index. -/
def UpdSession.bitmap (x : UpdSession) (base : Nat) : List Byte :=
  let n := min 4096 ((x.count - base + 7) / 8)
  (upFrom 0 n).map fun k => BitVec.ofNat 8 (flags ((upFrom 0 8).map fun j => (tget (base + 8 * k + j) x.chunks).isSome) 0)

/-- Serve an UPDATE_STATE (R254). -/
def State.updateState (s : State) (i : Fin 4) (c : Session) (tx : Nat) (b : List Byte) : State :=
  let s := s.countUse i c Session.readUse
  match s.upd.session with
  | none => s.malformed i 0x52 tx
  | some x =>
    if b.length ≠ 8 ∨ w32 0 b ≠ x.id ∨ w32 4 b % 8 ≠ 0 then s.malformed i 0x52 tx
    else
      let s := { s with upd := { s.upd with session := some { x with lastMessage := s.cn } } }
      let bits := x.bitmap (w32 4 b)
      s.respond i 0x52 tx (le 1 0 ++ le 1 s.upd.phase ++ [0, 0] ++ le 4 x.chunks.length ++ le 4 x.count ++ le 4 (w32 4 b)
        ++ le 2 bits.length ++ [0, 0] ++ bits)

/-- UPDATE_STATE. -/
def execUpdateState (sess : Fin 4) (role : Byte) (tx : Word) (body : List Byte) (s : State) : Host.Outcome State Fault Refusal :=
  .next (s.whenLive fun s => s.request sess role 0x52 tx.toNat .operator fun c s => s.updateState sess c tx.toNat body)

/-! Activation (R506, Table 15.4). -/

/-- The package as its chunks give it. -/
def UpdSession.package (x : UpdSession) : List Byte :=
  ((upFrom 0 x.count).map fun i => (tget i x.chunks).getD []).flatten

/-- The octets of a part. -/
def UpdSession.part (x : UpdSession) (e : MEntry) : List Byte :=
  slice e.offset e.length x.package

/-- The canopy image a package brings. -/
def UpdSession.imageOf (x : UpdSession) (m : Manifest) : Option Image :=
  (m.entry 3).bind fun e => readImage (x.part e)

/-- The path of a manifest (Table 15.4). -/
def State.pathOf (s : State) (m : Manifest) (im : Option Image) : ActPath :=
  let full : ActPath := if s.build = .t && s.following then .handover else .reboot
  if m.has 1 || m.has 2 then full
  else if m.has 3 then match s.can.image, im with
    | some old, some new => if s.can.loaded && clearingsAllowed old new then .clearings else full
    | _, _ => full
  else .caravans

/-- The caravan of a kind-4 entry (R521). -/
def UpdSession.caravanOf (x : UpdSession) (e : MEntry) : Caravan :=
  { id := e.id, version := e.version, model := e.readMin, length := e.length, digest := e.digest, manifest := x.digest
    count := (e.length + 31) / 32, data := x.part e }

/-- The activation of a session's manifest. -/
def State.activationOf (s : State) (x : UpdSession) (m : Manifest) (window : Nat) : Activation :=
  let im := x.imageOf m
  { path := s.pathOf m im, seq := x.seq, digest := x.digest, session := x.id, cn := 0, window := window
    firmware := ((m.entry 1).map fun e => e.version).getD s.upd.firmware
    format := ((m.entry 1).map fun e => e.writes).getD s.upd.format
    reads := ((m.entry 1).map fun e => (e.readMin, e.readMax)).getD (0, 65535)
    tset := ((m.entry 2).map fun e => e.digest).getD s.can.tset
    expected := m.expected, firmwareDigest := (m.entry 1).map fun e => e.digest
    image := im, caravans := m.caravans.map x.caravanOf, newStand := s.ford.active.other }

/-- UPD_CTRL.ABORT, and UPDATE_ACTIVATE with ABORT (Table 15.11). -/
def State.abortUpdate (s : State) : Reason × State :=
  match s.upd.activation with
  | none => (.ok, s)
  | some a =>
    if a.back ∨ s.upd.phase = 0x09 then (.busy, s)
    else
      let (r, s) := s.openReason
      let (c, s) := s.openCheck
      (.ok, s.stopUpdate r c)

/-- Serve an UPDATE_ACTIVATE (R254, R255, R506). -/
def State.updateActivate (s : State) (i : Fin 4) (c : Session) (tx : Nat) (b : List Byte) : State :=
  let w := w32 4 b
  let finish (s : State) (r : Reason) : State :=
    (s.respond i 0x53 tx (statusBody r)).recordAs c.role (c.pathSource i) 0x06 r (le 4 0x53 ++ le 4 tx ++ le 4 (w32 0 b))
  match s.upd.session with
  | none => s.malformed i 0x53 tx
  | some x =>
    if b.length ≠ 12 ∨ w32 0 b ≠ x.id ∨ 1 < oct 8 b ∨ ofLe (slice 9 3 b) ≠ 0 ∨ (w ≠ 0 ∧ (w < 900 ∨ 86400 < w)) then s.malformed i 0x53 tx
    else
      let s := { s with upd := { s.upd with session := some { x with lastMessage := s.cn } } }
      if oct 8 b = 1 then
        let (r, s) := s.abortUpdate
        finish s r
      else if s.ford.safeHold then finish s .safeHold
      else if s.upd.activation.isSome ∨ x.chunks.length < x.count then finish s .busy
      else match readManifest x.manifest with
        | none => finish s .malformed
        | some m =>
          let old := s.updSession
          let a := s.activationOf x m (if w = 0 then 900 else w)
          let s := { s with upd := { s.upd with activation := some a, caughtUp := false } }
          finish ((s.stepPhase 0x02).sessionChanged old) .ok

/-- UPDATE_ACTIVATE. -/
def execUpdateActivate (sess : Fin 4) (role : Byte) (tx : Word) (body : List Byte) (s : State) : Host.Outcome State Fault Refusal :=
  .next (s.whenLive fun s => s.request sess role 0x53 tx.toNat .operator fun c s => s.updateActivate sess c tx.toNat body)

/-! Validation (R507) and what follows it. -/

/-- Validation fails (R507): recorded with its reason and pushed; the session ends and nothing has changed. -/
def State.validationFails (s : State) (r : Reason) (index : Option Nat) : State :=
  let s := match index with
    | some k => s.refuseImage r k
    | none => s
  let s := s.recordUpdate .nobody r (le 4 s.upd.phase)
  (s.stepPhase 0x00).endUpdate

/-- KS11 is derived for the expected measurement and the handover area written (R509). -/
def State.rewrap (s : State) (a : Activation) : State :=
  let info := octets256 a.expected
  let k : SlotSt := {
    state := .live, value := s.derived 10 false 0 info, usage := 10, te := true, parent := some 0, source := .derived, info := info }
  let s := (s.setSlot 11 k).stepPhase 0x04
  { s with upd := { s.upd with handoverArea := true } }

/-- The reboot's CN (R517): the first one at least 1,500 cycles ahead without a billing boundary or a contactor change
near it. -/
def State.rebootCn (s : State) : Nat → Cn → Cn
  | 0, c => c
  | n + 1, c => if s.boundaryWithin (c - 1) (c + 150) || s.contactorWithin (c - 1) (c + 150) then s.rebootCn n (c + 1) else c

/-- Validation succeeds: the path goes on (Table 15.4). -/
def State.validated (s : State) (a : Activation) : State :=
  let s := s.stepPhase 0x03
  match a.path with
  | .caravans =>
    let s := (s.modActivation fun a => { a with committed := true }).stepPhase 0x07
    let s := { s with upd := { s.upd with runSeq := a.seq } }
    (forEach (fun c s => s.startCaravan c) a.caravans s).completeUpdate
  | .clearings =>
    match s.can.image, a.image with
    | some old, some new =>
      let regions := changedRegions old new
      let x : CanActivation := { image := new, cn := s.cn + 1, regions := regions, all := regions }
      { s with can := { s.can with activation := some x } }
    | _, _ => s
  | .handover => s.rewrap a
  | .reboot =>
    let c := s.rebootCn clearingSearch (s.cn + 1500)
    (s.modActivation fun a => { a with cn := c }).rewrap a

/-- VALIDATION_DONE: `decrypted` says that every chunk decrypts, `signed` is the verdict on the canopy's signature (R507). -/
def execValidationDone (decrypted signed : Bool) (s : State) : Host.Outcome State Fault Refusal :=
  .next (s.whenLive fun s =>
    match s.upd.activation, s.upd.session with
    | some a, some x => s.iff (decide (s.upd.phase = 0x02)) fun s =>
      match readManifest x.manifest with
      | none => s.validationFails .malformed none
      | some m =>
        let plain := m.entries.filter fun e => decide (e.kind ≠ 3)
        if decrypted = false then
          let (r, s) := s.openReason
          s.validationFails r none
        else if plain.any fun e => decide (Config.sha256 (x.part e) ≠ e.digest) then s.validationFails .digestMismatch none
        else match m.entry 3 with
          | none => s.validated a
          | some e => match s.checkImage { tset := a.tset, signed := signed } (x.part e) with
            | .error (r, k) => s.validationFails r (some k)
            | .ok im => if im.digest = e.digest ∧ im.seq = e.id then s.validated a else s.validationFails .digestMismatch none
    | _, _ => s)

/-! The handover (R512 to R514). -/

/-- SETTINGS or SECRETS as the new image finds them (R510, R511): the check that fails, if one does. -/
def State.newImageFails (s : State) (a : Activation) (measured : BitVec 256) (areaGood : Bool) : Option Nat :=
  if !areaGood || decide (s.upd.format < a.reads.1) || decide (a.reads.2 < s.upd.format) then some 0
  else if measured ≠ a.expected then some 1
  else none

/-- A check has failed (R515, UPD_CHECKS); a failed SETTINGS is recorded with the old and the new format (R511). -/
def State.checkFailed (s : State) (a : Activation) (check : Nat) : State :=
  let s := { s with upd := { s.upd with checks := masked (127 - 2 ^ check) s.upd.checks, firstFailed := check } }
  if check = 0 then s.recordUpdate .nobody .ok (le 4 s.upd.phase ++ le 2 s.upd.format ++ le 2 a.format) else s

/-- The other stand leaves lockstep (Table 15.5, STAGED); the reboot's image store is written (R517). A clearing that is fixed
goes first (Table 15.11). -/
def State.stageTick (s : State) : State :=
  match s.upd.activation with
  | some a =>
    if s.upd.phase ≠ 0x04 ∨ s.can.clearing.isSome then s
    else match a.path with
      | .handover =>
        if s.following then
          let x := s.ford.active.other
          let s := ((s.modActivation fun a => { a with newStand := x }).setStand x .learning).cutStand x 6
          (s.modStand x fun r => { r with otherImage := true }).stepPhase 0x05
        else s.standbyLost
      | .reboot => s.stepPhase 0x05
      | _ => s
  | none => s

/-- STAGED: the other stand has written and booted the new image; `measured` is the BMC it measures, `areaGood` that it reads
the old settings area (R510, R511). -/
def execStaged (measured : BitVec 256) (areaGood : Bool) (s : State) : Host.Outcome State Fault Refusal :=
  .next (s.whenLive fun s =>
    match s.upd.activation with
    | some a => s.iff (decide (s.upd.phase = 0x05) && decide (a.path = .handover)) fun s =>
      match s.newImageFails a measured areaGood with
      | some k =>
        let s := s.checkFailed a k
        let (r, s) := s.openReason
        s.rollBack r k
      | none => s.stepPhase 0x06
    | none => s)

/-- SHADOW_CAUGHT_UP: the other stand runs on live inputs (Table 15.5). -/
def execShadowCaughtUp (s : State) : Host.Outcome State Fault Refusal :=
  .next (s.whenLive fun s =>
    match s.upd.activation with
    | some a => s.iff (decide (s.upd.phase = 0x06) && !s.upd.caughtUp && decide (a.path = .handover)) fun s =>
        let s := { s with upd := { s.upd with caughtUp := true } }
        (s.modActivation fun a => { a with since := s.cn }).setStand a.newStand .standby
    | none => s)

/-- CATCHUP_TIMEOUT: it has not caught up within 10 s (R512). -/
def execCatchupTimeout (s : State) : Host.Outcome State Fault Refusal :=
  .next (s.whenLive fun s =>
    s.iff (decide (s.upd.phase = 0x06) && !s.upd.caughtUp && decide (s.upd.phaseCn + s.secondsInCycles 10 ≤ s.cn)) fun s =>
      let (r, s) := s.openReason
      let (c, s) := s.openCheck
      s.rollBack r c)

/-- SHADOW_END: UPD_CFG.SHADOW cycles have passed; the Drover asks for the planned switch (R448, R512). -/
def execShadowEnd (s : State) : Host.Outcome State Fault Refusal :=
  .next (s.whenLive fun s =>
    match s.upd.activation with
    | some a =>
      let due := decide (a.since + field 15 0 (s.reg 0x400B0018) ≤ s.cn)
      s.iff (decide (s.upd.phase = 0x06) && s.upd.caughtUp && due && s.ford.switch.isNone) fun s =>
        s.requestSwitch a.newStand (s.cycAfter 2) true .nobody
    | none => s)

/-- A planned switch reaches its CYC (R448); the Drover's is a handover's commit point, or a fallback's return. -/
def State.switchTick (s : State) : State :=
  match s.ford.switch with
  | none => s
  | some p =>
    if s.cn < p.notBefore ∨ s.ford.holding then s
    else if s.switchAllowed p.target then
      let s := s.plannedSwitch p
      if p.drover then match s.upd.activation with
        | some a => if a.back then s.fallbackSwitched else s.commitHandover
        | none => s
      else s
    else if p.drover then s
    else
      let s := { s with ford := { s.ford with switch := none } }
      s.recordAs p.role 812 0x40 .busy (le 1 1 ++ [0] ++ le 4 p.target.number ++ le 4 s.fordCause)

/-! The reboot (R517, Table 15.8). -/

/-- CYC(a) of a reboot, or of the reboot of a fallback: the meter is saved, and the stand resets with cause DROVER. -/
def State.rebootTick (s : State) : State :=
  match s.upd.activation with
  | some a =>
    if a.path ≠ .reboot ∨ a.cn = 0 ∨ s.cn < a.cn then s
    else if a.back then s.saveMeter.restart 5
    else if s.upd.phase = 0x05 then
      let s := (s.modActivation fun a => { a with committed := true, since := s.cn }).stepPhase 0x07
      (s.adoptStores a).saveMeter.restart 5
    else s
  | none => s

/-- In SAFE HOLD the Drover of the S build restores the previous image and reboots (R517). -/
def State.holdReboot (s : State) : State :=
  match s.upd.activation with
  | some a => s.iff (a.back && decide (s.build = .s)) State.rebootTick
  | none => s

/-- REBOOT_DONE: settings are migrated and Ford releases the outputs (Table 15.8). -/
def execRebootDone (measured : BitVec 256) (areaGood : Bool) (s : State) : Host.Outcome State Fault Refusal :=
  .next (s.whenLive fun s =>
    match s.upd.activation with
    | some a => s.iff (decide (a.path = .reboot) && decide (s.upd.phase = 0x07) && s.can.loaded) fun s =>
      let s := { s with ford := { s.ford with holding := false } }
      match s.newImageFails a measured areaGood with
      | some k =>
        let s := s.checkFailed a k
        let (r, s) := s.openReason
        s.fallBack r k
      | none => s.stepPhase 0x08
    | none => s)

/-! Confirmation (R515, R516). -/

/-- CONFIRM_WINDOW_END: W has passed with every check holding. -/
def execConfirmWindowEnd (s : State) : Host.Outcome State Fault Refusal :=
  .next (s.whenLive fun s =>
    match s.upd.activation with
    | some a =>
      let due := decide (a.since + s.secondsInCycles a.window ≤ s.cn)
      s.iff (decide (s.upd.phase = 0x08) && due && !a.suspended && decide (s.upd.checks = 0x7F)) State.confirmed
    | none => s)

/-- CONFIRM_CHECK_FAIL: a check of Table 15.7 fails (R515): a fallback starts at once, with the reason found. -/
def execConfirmCheckFail (check : Fin 7) (reason : Reason) (s : State) : Host.Outcome State Fault Refusal :=
  .next (s.whenLive fun s =>
    match s.upd.activation with
    | some a =>
      s.iff (a.committed && !a.back && (decide (s.upd.phase = 0x07) || decide (s.upd.phase = 0x08)) && decide (a.path ≠ .caravans)) fun s =>
        (s.checkFailed a check.val).fallBack reason check.val
    | none => s)

/-- STAND_REWRITTEN: the Drover has written an image onto a stand; it enters LEARNING (R506, R512, R516). -/
def execStandRewritten (stand : Stand) (s : State) : Host.Outcome State Fault Refusal :=
  .next (s.whenLive fun s =>
    s.iff (s.ford.of stand).rewriting fun s =>
      let s := s.modStand stand fun r => { r with rewriting := false, otherImage := false }
      let r := s.ford.of stand
      match r.state with
      | .standby => s.beginLearning stand
      | .learning => s.beginLearning stand
      | .withdrawn => if r.testing || s.ford.safeHold then s else s.beginLearning stand
      | _ => s)

/-- UPDATE_LAPSE: no UPDATE message for UPD_CFG.LAPSE days (R505). -/
def execUpdateLapse (s : State) : Host.Outcome State Fault Refusal :=
  .next (s.whenLive fun s =>
    match s.upd.session with
    | some x =>
      let due := decide (x.lastMessage + field 23 16 (s.reg 0x400B0018) * s.secondsInCycles 86400 ≤ s.cn)
      s.iff (due && s.upd.activation.isNone) fun s =>
        ((s.recordUpdate .nobody .ok (le 4 x.id)).stepPhase 0x00).endUpdate
    | none => s)

/-- UPD_CTRL (Table 15.13). -/
def State.writeUpdCtrl (s : State) (v : Nat) (w : Writer) : State × Reason :=
  let (s, r) := s.writeReg 0x400B0000 v w
  if bit 1 r.act then
    let (x, s) := s.abortUpdate
    (s, x)
  else (s, r.reason)

/-- UPDATE_ABORT: UPD_CTRL.ABORT (Table 15.11). -/
def execUpdateAbort (w : Writer) (s : State) : Host.Outcome State Fault Refusal :=
  .next (s.whenLive fun s => (s.writeUpdCtrl (merge 1 2 (s.reg 0x400B0000)) w).1)

/-- A fallback by clearings has returned to the old image: the session ends (Table 15.10). -/
def State.endedTick (s : State) : State :=
  if s.upd.phase = 0x0D ∧ s.upd.activation.isSome then s.endUpdate else s

/-! Caravan frames (R178, R179, R521). -/

/-- A caravan gives its frames to nodes. -/
def Caravan.moves (c : Caravan) : Bool :=
  match c.state with
  | .transferring => true
  | .heldByAll => true
  | _ => false

/-- SCHEDULED nodes of the model that run other firmware join the caravan (R521). -/
def State.caravanNodes (s : State) (c : Caravan) : Caravan :=
  let due (n : NodeRec) : Bool := decide (n.state = .scheduled) && decide (n.model = c.model) && decide (n.firmware ≠ c.version)
    && !(c.nodes.any fun x => decide (x.eui = n.eui))
  let new := (s.node.nodes.filter due).map fun n => ({ eui := n.eui } : CarNode)
  if new = [] then c
  else { c with nodes := c.nodes ++ new, state := .transferring }

/-- The next chunk a node lacks, from an index on. -/
def CarNode.lacks (x : CarNode) (count from_ : Nat) : Option Nat :=
  ((upFrom from_ (count - from_)) ++ upFrom 0 (min from_ count)).find? fun i => !x.bitmap.testBit i

/-- A frame of the caravan to the node still waits. -/
def State.caravanWaits (s : State) (id eui : Nat) : Bool :=
  s.rad.frames.any fun h => match h.load with
    | .caravan i e => decide (i = id) && decide (e = eui)
    | _ => false

/-- Change what a caravan knows of a node. -/
def State.modCarNode (s : State) (id eui : Nat) (f : CarNode → CarNode) : State :=
  let one (x : CarNode) : CarNode := if x.eui = eui then f x else x
  s.modCaravan id fun c => { c with nodes := c.nodes.map one }

/-- The next frame of a caravan to a node: the offer, a chunk it lacks, or after 256 chunks the question which it holds. -/
def State.caravanSend (s : State) (c : Caravan) (x : CarNode) : State :=
  match s.nodeOf x.eui with
  | none => s
  | some n =>
    if n.state ≠ .scheduled ∨ x.complete ∨ x.reason ≠ .ok ∨ s.caravanWaits c.id x.eui then s
    else if x.offer.isNone then
      let seq := s.rad.seq
      (s.modCarNode c.id x.eui fun x => { x with offer := some seq }).sendNode n .bulk 0x0A c.offerBody (.caravan c.id x.eui) 0
    else match x.lacks c.count x.next with
      | none => s
      | some i =>
        if 256 ≤ x.sent then
          let s := s.modCarNode c.id x.eui fun x => { x with sent := 0 }
          s.sendNode n .bulk 0x0C (le 4 c.id ++ le 2 (i / 256 * 256)) (.caravan c.id x.eui) 0
        else
          let s := s.modCarNode c.id x.eui fun x => { x with sent := x.sent + 1, next := (i + 1) % max 1 c.count }
          s.sendNode n .bulk 0x0B (le 4 c.id ++ le 2 i ++ padTo 32 (slice (32 * i) 32 c.data)) (.caravan c.id x.eui) 0

/-- A cycle's work on the caravans. -/
def State.caravanTick (s : State) : State :=
  if s.ford.safeHold || s.tampered || !s.can.loaded then s
  else forEach (fun (p : Nat × Caravan) s =>
    if p.2.moves then
      let c := s.caravanNodes p.2
      let s := s.modCaravan c.id fun _ => c
      forEach (fun x s => s.caravanSend c x) c.nodes s
    else s) s.upd.caravans s

/-! Registers (Tables 15.13 and 15.14). -/

/-- Codes of UPD_CAR_STATE. -/
def carStateCode : CarState → Nat
  | .transferring => 1
  | .heldByAll => 2
  | .fixed => 3
  | .sent => 4
  | .ended => 5

/-- UPD_STATUS (Table 15.14). -/
def State.updStatus (s : State) : Nat :=
  let path := match s.upd.activation with
    | some a => decide (a.path = .reboot)
    | none => false
  s.upd.phase % 256 + s.updSession * 256 + flag path 10 + flag (s.ford.a.otherImage || s.ford.b.otherImage) 11 + flag s.upd.caughtUp 12

/-- Seconds of W left. -/
def State.confirmLeft (s : State) : Nat :=
  match s.upd.activation with
  | some a => if a.committed && !a.back && s.upd.phase < 9 then
      if a.suspended then a.window else quotientNat (a.since + s.secondsInCycles a.window - s.cn) s.time.nominal
    else 0
  | none => 0

/-- A register of the UPD block. -/
def State.readUpd (s : State) (o : Nat) : Nat :=
  let u := s.upd
  let car := tget (s.reg 0x400B0040 % 4) u.caravans
  let nodes (c : Caravan) : Nat := countIf (fun (n : NodeRec) => decide (n.model = c.model)) s.node.nodes
  if o = 4 then s.updStatus
  else if o = 8 then (u.session.map fun x => x.id).getD 0
  else if o = 0xC then (u.session.map fun x => x.seq).getD 0
  else if o = 0x10 then u.runSeq
  else if o = 0x14 then (u.session.map fun x => x.chunks.length % 65536 + x.count % 65536 * 65536).getD 0
  else if o = 0x1C then s.confirmLeft
  else if o = 0x20 then u.checks + u.firstFailed * 256
  else if o = 0x24 then u.phaseCn % 4294967296
  else if o = 0x28 then u.phaseCn / 4294967296 % 256
  else if o = 0x2C then u.reason + u.check % 256 * 256
  else if o = 0x30 then u.area % 2 + u.format % 65536 * 65536
  else if o = 0x34 then u.jrnSeq
  else if o = 0x38 then u.preempts
  else if o = 0x44 then (car.map fun c => c.id).getD 0
  else if o = 0x48 then (car.map fun c => carStateCode c.state + c.model % 65536 * 65536).getD 0
  else if o = 0x4C then (car.map fun c => nodes c % 8192 + countIf CarNode.complete c.nodes % 8192 * 65536).getD 0
  else if o = 0x50 then (car.map fun c => c.version).getD 0
  else s.reg (0x400B0000 + o)

/-- A write to the UPD block. -/
def State.writeUpd (s : State) (o v : Nat) (w : Writer) : State × Reason :=
  if o = 0 then s.writeUpdCtrl v w else s.writePlain (0x400B0000 + o) v w

end Sys2Proof.Machine
end

