-- ==== Sys2Proof/Machine/Tamper.lean ====
section
/-! DEFINITION. Tamper sources, the tamper latch, zeroisation, the tamper clear, and the writes of the KEY block
(R490-R499). -/

namespace Sys2Proof.Machine

/-- The retention domain is fed, in operation, in dormancy or from the reserve: the sources are watched (R490, R578). -/
def State.tamperWatch (s : State) : Bool :=
  s.live || s.sys.retentionFed

/-- A TMPn input shows another level (R490): its debounce starts or ends, and the edge is captured on channel 3 + n. -/
def State.tamperLevel (s : State) (n : Fin 4) (high : Bool) (sub : Nat) : State :=
  if lget false n.val s.fld.tmpHigh = high then s
  else
    let s := { s with
      fld := { s.fld with tmpHigh := lset n.val high s.fld.tmpHigh }
      key := { s.key with activeSince := lset n.val none s.key.activeSince } }
    let s := s.armTamper n.val
    s.iff s.live fun s => s.capture (Fin.ofNat 7 (3 + n.val)) high sub

/-- TAMPER_INPUT_CHANGE (R490). -/
def execTamperInputChange (n : Fin 4) (high : Bool) (tick : Nat) (sub : Fin 10) (s : State) :
    Host.Outcome State Fault Refusal :=
  .next ((s.iff s.live fun s => s.advanceTo tick).tamperLevel n high sub.val)

/-! The alarm. -/

/-- A slot that zeroisation empties (R492). -/
def SlotSt.erasable (c : SlotSt) : Bool :=
  decide (c.state ≠ .empty) && (c.mb || c.te)

/-- Zeroise (R492, R496, R498): every MB or TE slot and Ford's beacon keys; other children of those slots wither; a
rotation is abandoned. -/
def State.zeroise (s : State) : State :=
  let gone := (upFrom 0 64).filter fun n => (s.slot n).erasable
  let s := forEach (fun n s => s.witherChildren n) gone s
  let s := forEach (fun n s => s.emptySlot n) gone s
  { s with
    key := { s.key with rotation := none }
    ford := { s.ford with keys := s.ford.keys.map fun _ => 0 } }

/-- EUI-64s of the SCHEDULED nodes. -/
def State.scheduledSet (s : State) : List Nat :=
  (s.node.nodes.filter fun n => decide (n.state = .scheduled)).map NodeRec.eui

/-- What a tamper does to an update activation (Table 15.11): before COMMITTED it is rolled back, after it W is
suspended. -/
def State.tamperUpdate (s : State) : State :=
  match s.upd.activation with
  | none => s
  | some a =>
    if a.committed then s.modActivation fun a => { a with suspended := true }
    else
      let (c, s) := s.openCheck
      s.stopUpdate .tampered c

/-- COPY of a stand in LEARNING restarts (R498). -/
def State.restartCopy (s : State) : State :=
  forEach (fun x s =>
    if (s.ford.of x).state = .learning then s.modStand x fun g => { g with probationEnd := none } else s)
    [Stand.a, Stand.b] s

/-- The record of a tamper happening (Table 16.4): event, cause and the state after. -/
def State.recordTamper (s : State) (source : Nat) (reason : Reason) (event cause : Nat) : State :=
  s.record source 0x50 reason (le 1 event ++ le 1 cause ++ le 1 (tamperCode s.key.state))

/-- The source of an alarm's cause: the lowest TMPn named, else the mesh (R490). -/
def tamperSource (cause : Nat) : Nat :=
  match (upFrom 0 4).find? fun n => bit n cause with
  | some n => 864 + n
  | none => 868

/-- What an alarm does to the services of a running module (R462, R493, R498). -/
def State.tamperServices (s : State) : State :=
  let s := s.cutSlices 3 fun _ => true
  let s := forEach (fun g s => s.markRadioLoss g) s.grovesInUse s
  s.tamperUpdate.restartCopy

/-- A tamper alarm (Table 14.8): zeroise, post, record (R492 to R496). One that qualifies while the stands do not run
is recorded when they do. -/
def State.tamperAlarm (s : State) (cause : Nat) : State :=
  let s := s.completeKey .tampered
  let set := s.scheduledSet
  let s := s.zeroise
  let s := { s with
    key := { s.key with state := .tampered, maintEnd := none, alarms := satAdd 65535 s.key.alarms 1, cause := cause }
    adm := { s.adm with tamperSet := set } }
  if s.live then
    let s := s.post (tamperSource cause) 1 0
    (s.recordTamper (tamperSource cause) .tampered 1 cause).tamperServices
  else { s with key := { s.key with wakeAlarm := some cause } }

/-- An alarm of dormancy is recorded at the wake, with the CN of the wake and the flag DORMANT (R495). -/
def State.recordWakeAlarm (s : State) (dormant : Bool) : State :=
  match s.key.wakeAlarm with
  | some cause =>
    let s := { s with key := { s.key with wakeAlarm := none } }
    let h := s.happening (tamperSource cause) 0x50 .tampered .nobody (le 1 1 ++ le 1 cause ++ le 1 (tamperCode s.key.state))
    (s.post (tamperSource cause) 1 0).enter { h with dormant := dormant }
  | none => s

/-- A source qualifies (Table 14.8). -/
def State.tamperEvent (s : State) (cause : Nat) : State :=
  match s.key.state with
  | .normal => s.tamperAlarm cause
  | .maint =>
    if cause = 16 then s.tamperAlarm cause
    else if s.live then s.recordTamper (tamperSource cause) .ok 2 cause else s
  | .tampered =>
    if s.live then (s.post (tamperSource cause) 1 0).recordTamper (tamperSource cause) .ok 4 cause else s

/-- The debounce time of a watched input has passed (R490); while the stands do not run the retention logic keeps it. -/
def State.tmpQualifies (s : State) (n : Nat) : Bool :=
  s.tmpWatched n && s.tmpActive n
    && (match lget none n s.key.activeSince with
        | some t => !s.live || decide (t + field 15 8 (s.reg 0x400800B0) * 100000 ≤ s.time.ref)
        | none => false)

/-- TAMPER_QUALIFIED (R490 to R496). -/
def execTamperQualified (n : Fin 4) (tick : Nat) (s : State) : Host.Outcome State Fault Refusal :=
  let s := s.iff s.live fun s => s.advanceTo tick
  .next (s.iff (s.tamperWatch && s.tmpQualifies n) fun s =>
    let s := { s with key := { s.key with
      qualified := lset n.val true s.key.qualified, activeSince := lset n.val none s.key.activeSince } }
    s.tamperEvent (2 ^ n.val))

/-- MESH_CHECK (R490): the check of the enclosure mesh finds it whole, or cut or shorted. -/
def execMeshCheck (ok : Bool) (s : State) : Host.Outcome State Fault Refusal :=
  .next (s.iff s.tamperWatch fun s =>
    let was := s.key.meshOk
    let s := { s with key := { s.key with meshOk := ok, meshFault := s.key.meshFault || !ok } }
    if ok then s
    else if s.tampered && !was then s
    else s.tamperEvent 16)

/-! The maintenance window and the clear. -/

/-- Watched TMPn inputs at their active level. -/
def State.tmpActiveMask (s : State) : Nat :=
  flags ((upFrom 0 4).map fun n => s.tmpWatched n && s.tmpActive n) 0

/-- The window ends, or 0 is written (Table 14.8). -/
def State.endMaint (s : State) : State :=
  let s := { s with key := { s.key with state := .normal, maintEnd := none } }
  if s.tmpActiveMask = 0 then s else s.tamperAlarm s.tmpActiveMask

/-- MAINT_WINDOW_END (R491). -/
def execMaintWindowEnd (s : State) : Host.Outcome State Fault Refusal :=
  .next (s.whenLive fun s =>
    match s.key.maintEnd with
    | some e => s.iff (decide (s.key.state = .maint) && decide (e ≤ s.cn)) State.endMaint
    | none => s)

/-- A write of KEY_TMP_MAINT (R491, Table 14.12). -/
def State.writeTmpMaint (s : State) (v : Nat) (w : Writer) : State × Reason :=
  let m := field 8 0 v
  let old := s.maintLeft
  if w.role ≠ .installer ∨ w.via ≠ .monitor then
    (s.recordRefused w { reason := .notAuthorised, old := old, new := old } 0x400800B8 v, .notAuthorised)
  else if 480 < m then (s, .malformed)
  else if s.tampered then (s, .tampered)
  else
    let s := s.iff (decide (m ≠ 0) || decide (s.key.state = .maint)) fun s => s.recordWrite w .ok 0x400800B8 old m
    if m = 0 then (if s.key.state = .maint then s.endMaint else s, .ok)
    else ({ s with key := { s.key with state := .maint, maintEnd := some (s.cn + m * s.secondsInCycles 60) } }, .ok)

/-- KEY_TMP_MAINT (R491). -/
def execKeyTmpMaint (value : Word) (w : Writer) (s : State) : Host.Outcome State Fault Refusal :=
  .next (s.whenLive fun s => (s.writeTmpMaint value.toNat w).1)

/-- KS10 is derived at the current BMC (R476, Table 14.4). -/
def State.deriveStorage (s : State) : State :=
  s.setSlot 10 { state := .live, value := s.derived 8 true 0 (List.replicate 32 0), usage := 8, mb := true, te := true
                 parent := some 0, source := .derived, info := List.replicate 32 0 }

/-- A new root in KS12, KS13 EMPTY, and the grove keys of every grove in use in half 0 (R497). -/
def State.freshGroves (s : State) : State :=
  let g := nextGeneration s.key.issued
  let s := ((s.generateRoot 0).emptySlot 13)
  let s := { s with key := { s.key with root := 0, half := 0, generation := g, issued := g } }
  let s := s.deriveGroves 0 0 g
  { s with rad := { s.rad with counters := List.replicate 8 0 } }

/-- W of a committed activation starts anew at the tamper clear (Table 15.11). -/
def State.resumeUpdate (s : State) : State :=
  s.modActivation fun a => if a.suspended then { a with suspended := false, since := s.cn } else a

/-- The tamper clear's restoration (R497). -/
def State.tamperRestore (s : State) : State :=
  let s := s.deriveStorage.freshGroves
  let s := { s with key := { s.key with state := .normal, cause := 0 } }
  let s := s.recordAs .installer 0x0408 0x50 .ok (le 1 3 ++ le 1 0 ++ le 1 0)
  (s.startRejoin s.adm.tamperSet 2).resumeUpdate

/-- A write of KEY_TMP_CLEAR (R491, R497): INSTALLER on J7. -/
def State.writeTmpClear (s : State) (v : Nat) (w : Writer) : State × Reason :=
  if !bit 0 v then (s, .ok)
  else if w.role ≠ .installer ∨ w.via ≠ .monitor then
    (s.recordRefused w { reason := .notAuthorised, old := 0, new := 0 } 0x400800BC v, .notAuthorised)
  else if !s.tampered then (s, .ok)
  else if s.tmpActiveMask ≠ 0 ∨ !s.key.meshOk then (s, .busy)
  else (s.tamperRestore, .ok)

/-- KEY_TMP_CLEAR (R497). -/
def execKeyTmpClear (value : Word) (w : Writer) (s : State) : Host.Outcome State Fault Refusal :=
  .next (s.whenLive fun s => (s.writeTmpClear value.toNat w).1)

/-! Writes of the KEY block (Table 14.12). -/

/-- A write of KEY_SLOT_ATTR: the owner of the selected slot sets the attributes of the next command. -/
def State.writeSlotAttr (s : State) (v : Nat) (w : Writer) : State × Reason :=
  let sel := field 5 0 (s.reg 0x40080004)
  let old := slotAttr sel (s.slot sel)
  if slotOwner sel ≠ some w.role then
    (s.recordRefused w { reason := .notAuthorised, old := old, new := old } 0x40080008 v, .notAuthorised)
  else
    let s := { s with key := { s.key with attr := masked 0x7FCF v } }
    (s.iff w.recorded fun s => s.recordWrite w .ok 0x40080008 old (masked 0x7FCF v), .ok)

/-- A write of KEY_CMD (R478, R479, R485). -/
def State.writeKeyCmd (s : State) (v : Nat) (w : Writer) : State × Reason :=
  let slot := field 13 8 v
  match field 2 0 v with
  | 0 => (s, .ok)
  | 1 => s.keyCommand w slot .write
  | 2 => s.keyCommand w slot .derive_
  | 3 => s.keyCommand w slot .generate
  | 4 => s.keyCommand w slot .erase
  | 5 => s.rotateGrove w
  | _ => (s, .malformed)

/-- An input whose EN or POL changed: its debounce starts anew, or ends (R490). -/
def State.rearmTamper (s : State) (n : Nat) : State :=
  ({ s with key := { s.key with activeSince := lset n none s.key.activeSince } }).armTamper n

/-- A write of KEY_TMP_CFG: the debounce of each input it changes starts as the new configuration asks (R490). -/
def State.writeTmpCfg (s : State) (v : Nat) (w : Writer) : State × Reason :=
  let (s, r) := s.writeReg 0x400800B0 v w
  let changed (n : Nat) : Bool := decide (bit n r.old ≠ bit n r.new) || decide (bit (4 + n) r.old ≠ bit (4 + n) r.new)
  (forEach (fun n s => s.rearmTamper n) ((upFrom 0 4).filter changed) s, r.reason)

/-- A register of the KEY block by its offset. -/
def State.writeKey (s : State) (o v : Nat) (w : Writer) : State × Reason :=
  let k := s.key
  if o = 0x008 then s.writeSlotAttr v w
  else if 0x020 ≤ o ∧ o < 0x040 then ({ s with key := { k with data := lset ((o - 0x020) / 4) v k.data } }, .ok)
  else if 0x040 ≤ o ∧ o < 0x060 then ({ s with key := { k with info := lset ((o - 0x040) / 4) v k.info } }, .ok)
  else if o = 0x060 then s.writeKeyCmd v w
  else if o = 0x0B0 then s.writeTmpCfg v w
  else if o = 0x0B4 then
    let q := (upFrom 0 4).map fun n => lget false n k.qualified && !bit (8 + n) v
    ({ s with key := { k with qualified := q, meshFault := k.meshFault && !bit 12 v } }, .ok)
  else if o = 0x0B8 then s.writeTmpMaint v w
  else if o = 0x0BC then s.writeTmpClear v w
  else if 0x0C0 ≤ o ∧ o < 0x0E0 then ({ s with key := { k with chal := lset ((o - 0x0C0) / 4) v k.chal } }, .ok)
  else if o = 0x0E0 then (s.iff (bit 0 v && decide (w.via ≠ .module) && decide (w.role ≠ .nobody)) fun s => s.attest (wordsOctets s.key.chal), .ok)
  else s.writePlain (0x40080000 + o) v w

end Sys2Proof.Machine
end

