-- ==== Sys2Proof/Machine/Power.lean ====
section
/-! DEFINITION. Supply inputs, last gasp, holdover, dormancy and the thermal trip (R571-R589). -/

namespace Sys2Proof.Machine

/-! What the SYS power registers show (Table 18.8). -/

/-- SYS_PWR_STATUS. -/
def State.powerStatus (s : State) : Nat :=
  let y := s.sys
  flags [y.aValid, y.bValid, y.onB, y.powerFail, y.storeReady, y.recharging, y.aOv, y.bOv, y.aReverse, y.bReverse, y.thermal] 0

/-- SYS_PWR_VOLT. -/
def State.powerVolt (s : State) : Nat :=
  s.sys.voltA % 65536 + s.sys.voltB % 65536 * 65536

/-- SYS_STORE. -/
def State.storeWord (s : State) : Nat :=
  s.sys.storeMj % 65536 + s.sys.storePct % 256 * 65536

/-- A POWER record (Table 16.4). -/
def State.recordPower (s : State) (source kind : Nat) : State :=
  s.record source 0x70 .ok (le 1 kind ++ [0] ++ le 2 s.powerStatus ++ le 4 s.powerVolt ++ le 4 s.storeWord)

/-- A power source fires and is recorded (R609). -/
def State.powerEvent (s : State) (source kind payload : Nat) : State :=
  if s.live then (s.post source kind payload).recordPower source kind else s

/-! Inputs (R571, R572). -/

/-- The module draws from an input: a change fires source 893. -/
def State.drawFrom (s : State) (b : Bool) : State :=
  if s.sys.onB = b then s
  else ({ s with sys := { s.sys with onB := b } }).powerEvent 893 (if b then 1 else 2) s.powerVolt

/-- The input in use is not valid and the other one is: the module changes input. -/
def State.changeInput (s : State) : State :=
  if s.sys.onB then (if !s.sys.bValid && s.sys.aValid then s.drawFrom false else s)
  else if !s.sys.aValid && s.sys.bValid then s.drawFrom true
  else s

/-- Kind of source 893 for what an input becomes (R572). -/
def supplyKind : SupplyState → Nat
  | .invalid => 3
  | .valid => 4
  | .overvoltage => 5
  | .reversed => 6

/-- An input becomes valid, invalid, overvoltage or reversed. -/
def State.setInput (s : State) (b : Bool) (x : SupplyState) : State :=
  let v := decide (x = .valid)
  let o := decide (x = .overvoltage)
  let r := decide (x = .reversed)
  if b then { s with sys := { s.sys with bValid := v, bOv := o, bReverse := r } }
  else { s with sys := { s.sys with aValid := v, aOv := o, aReverse := r } }

/-- The supply monitors read both inputs, in 10 mV. -/
def State.setVolts (s : State) (a b : Nat) : State :=
  { s with sys := { s.sys with voltA := a, voltB := b } }

/-- SUPPLY_INPUT_CHANGE (R571, R572). -/
def execSupplyInputChange (b : Bool) (x : SupplyState) (voltA voltB : Fin 65536) (s : State) :
    Host.Outcome State Fault Refusal :=
  let s := (s.setVolts voltA.val voltB.val).setInput b x
  .next (s.powerEvent 893 (supplyKind x) s.powerVolt).changeInput

/-- An input is valid. -/
def State.supplied (s : State) : Bool :=
  s.sys.aValid || s.sys.bValid

/-- SUPPLY_RETURN (R572): the preferred input has been valid for 100 ms. -/
def execSupplyReturn (s : State) : Host.Outcome State Fault Refusal :=
  .next (s.whenLive fun s =>
    let prefersB := bit 0 (s.reg 0x40000114)
    s.iff (if prefersB then s.sys.bValid else s.sys.aValid) fun s => s.drawFrom prefersB)

/-! Last gasp (R573, R578 to R581). -/

/-- The sequence of Table 18.3 up to the commit: slices cut short, the snapshot where the store is ready, the waybill
drained; an entry into dormancy is abandoned (Table 18.5). -/
def State.lastGaspSequence (s : State) (sums : List PhaseSum) : State :=
  let s := s.iff s.entering fun s =>
    { s with dim := { s.dim with contactors := s.dim.contactors.map fun k => { k with drive := k.plan } } }
  let s := { s with sys := { s.sys with
    powerFail := true, failCount := satAdd 65535 s.sys.failCount 1, dorm := none, dormDue := false } }
  let s := (s.post 892 1 0).cutSlices 1 fun _ => true
  let s := s.iff s.sys.storeReady fun s =>
    let s := s.takeSnapshot sums
    { s with time := { s.time with mramCn := some s.cn } }
  (s.drainStaging.recordPower 892 1).drainStaging

/-- POWER_FAIL (R573, R578): no input has been valid for 20 microseconds. -/
def execPowerFail (tick : Nat) (sums : List PhaseSum) (s : State) : Host.Outcome State Fault Refusal :=
  .next (s.whenLive fun s => s.iff (!s.supplied && !s.sys.powerFail) fun s => (s.advanceTo tick).lastGaspSequence sums)

/-- POWER_DIP (R580): an input has been valid for 1 ms before the stop. -/
def execPowerDip (s : State) : Host.Outcome State Fault Refusal :=
  .next (s.whenLive fun s =>
    s.iff (s.supplied && s.sys.powerFail && !s.sys.thermal) fun s =>
      let s := { s with sys := { s.sys with
        powerFail := false, dipCount := satAdd 65535 s.sys.dipCount 1, recharging := true } }
      let s := s.powerEvent 892 2 0
      s.powerEvent 834 1 0)

/-- What the pins show once the stands are held in reset (Table 18.3): gates low, contactors off, lines deasserted. -/
def State.pinsOff (s : State) : State :=
  { s with
    drv := { s.drv with chs := s.drv.chs.map fun c => { c with amplitude := 0, duty := 0 } }
    dim := { s.dim with contactors := s.dim.contactors.map fun k => { k with drive := false } }
    fld := { s.fld with ppsOut := false, rts := false } }

/-- HOLDOVER_STOP (R578): the usable energy is spent; the reserve feeds the retention domain. -/
def execHoldoverStop (s : State) : Host.Outcome State Fault Refusal :=
  .next (s.whenLive fun s =>
    s.iff (s.sys.powerFail && !s.supplied) fun s =>
      { s.pinsOff with sys := { s.sys with phase := .off, storeMj := 0, storeReady := false, recharging := false, retentionFed := true } })

/-- RETENTION_LOST (R578, R586): the store that fed the retention domain without an input is spent. -/
def execRetentionLost (s : State) : Host.Outcome State Fault Refusal :=
  .next (s.iff (!s.live && !s.supplied) fun s =>
    { s with
      sys := { s.sys with phase := .off, retentionFed := false }
      evt := { s.evt with image := none }
      ford := { s.ford with lg := List.replicate 32 0, lgValid := false, lgMore := 0 } })

/-- VOLTAGE_MONITOR (R435, R573): a rail of a stand leaves its range; the stand asserts WITHDRAW. -/
def execVoltageMonitor (stand : Stand) (hold : Word) (s : State) : Host.Outcome State Fault Refusal :=
  .next (s.whenLive fun s =>
    let s := s.powerEvent 894 1 0
    s.iff (s.serves stand && !s.ford.safeHold) fun s => s.standWithdraws stand 0x20 hold.toNat)

/-! Dormancy (R582 to R586). -/

/-- What entry waits for (R582). -/
def State.mayDorm (s : State) : Bool :=
  let busy := match s.upd.activation with
    | some _ => true
    | none => false
  s.adm.promises.isEmpty && s.can.clearing.isNone && !busy && s.key.run.isNone && !s.incActive
    && !(s.drv.engines.any PeSt.evac) && decide (s.key.state ≠ .maint) && !s.sys.powerFail

/-- A write of SYS_DORM_CTRL (R582, Table 18.8): a write of 0 to AFTER leaves it. -/
def State.writeDormCtrl (s : State) (v : Nat) (w : Writer) : State × Reason :=
  let v := if field 31 16 v = 0 then v % 65536 + field 31 16 (s.reg 0x40000120) * 65536 else v
  let (s, r) := s.writeReg 0x40000120 v w
  if bit 0 r.act then
    if s.mayDorm then ({ s with sys := { s.sys with dormDue := true } }, r.reason)
    else ({ s with sys := { s.sys with dormRefused := true, dormReason := reasonCode .busy } }, .busy)
  else (s, r.reason)

/-- DORMANCY_ENTER (R582). -/
def execDormancyEnter (value : Word) (w : Writer) (s : State) : Host.Outcome State Fault Refusal :=
  .next (s.whenLive fun s => (s.writeDormCtrl (value.toNat ||| 1) w).1)

/-- SUPPLY_A invalid and FREE_RUN together since when (R582); looked at every CYC. -/
def State.autoDormTick (s : State) : State :=
  let both := !s.sys.aValid && decide (s.time.mstate = .freeRun)
  { s with sys := { s.sys with autoSince := if both then some (s.sys.autoSince.getD s.cn) else none } }

/-- DORMANCY_AUTO (R582). -/
def execDormancyAuto (s : State) : Host.Outcome State Fault Refusal :=
  .next (s.whenLive fun s =>
    match s.sys.autoSince with
    | some c =>
      s.iff (bit 1 (s.reg 0x40000120) && decide (c + field 31 16 (s.reg 0x40000120) * 100 ≤ s.cn) && !s.entering) fun s =>
        { s with sys := { s.sys with dormDue := true } }
    | none => s)

/-- DORMANCY_ENTRY (R583): admission declines, the entry is recorded and pushed, the snapshot is committed and the outputs
turn off. -/
def execDormancyEntry (s : State) : Host.Outcome State Fault Refusal :=
  .next (s.whenLive fun s =>
    s.iff (s.sys.dormDue && s.mayDorm && !s.entering) fun s =>
      let s := { s with sys := { s.sys with dorm := some { cn := s.cn }, dormDue := false } }
      let s := (s.recordPower 0x0421 0).takeSnapshot []
      { s with
        time := { s.time with mramCn := some s.cn }
        drv := { s.drv with chs := s.drv.chs.map fun c => { c with amplitude := 0, duty := 0 } }
        dim := { s.dim with contactors := s.dim.contactors.map fun k => { k with drive := false } } })

/-- FSP sessions close 50 cycles after the decision (Table 18.6). -/
def State.dormTick (s : State) : State :=
  match s.sys.dorm with
  | some d =>
    if !d.sessionsClosed && decide (d.cn + 50 ≤ s.cn) then
      let s := forEach (fun i s => s.closeSession i) [0, 1, 2, 3] s
      { s with sys := { s.sys with dorm := some { d with sessionsClosed := true } } }
    else s
  | none => s

/-- Words held in queues that a tile consumes at the power-down; the engines have emptied the others (R427). -/
def QueSt.wordsHeld (q : QueSt) : Nat :=
  ((q.queues.filter fun p => decide (field 15 12 p.2.consumer = 0)).map fun p => p.2.words.length).foldl (· + ·) 0

/-- Every ring is empty and no source is ACTIVE or ACTIVE_PENDING (R427). -/
def EvtSt.drained (e : EvtSt) : Bool :=
  (e.engs.all fun g => g.rings.all fun r => decide (r.cons = r.prod))
    && e.srcs.all fun p => decide (p.2.state = .gathering)

/-- What the controller saves to the retention registers (R427). -/
def State.retain (s : State) : Retained :=
  { en := s.evt.en, routes := s.evt.routes, engs := s.evt.engs, gathering := s.evt.srcs, discarded := s.que.wordsHeld }

/-- DORMANCY_POWER_DOWN (R427, R583, R584). -/
def execDormancyPowerDown (s : State) : Host.Outcome State Fault Refusal :=
  .next (s.whenLive fun s =>
    match s.sys.dorm with
    | some d =>
      s.iff (d.sessionsClosed && s.evt.drained) fun s =>
        let s := s.drainStaging
        { s.pinsOff with
          evt := { s.evt with image := some s.retain }
          sys := { s.sys with phase := .dormant, dorm := none, dormTime := 0, retentionFed := true } }
    | none => s)

/-- A wake source may end dormancy (R585); the wake timer counts seconds. -/
def State.mayWake (s : State) (source : Fin 6) (seconds : Nat) : Bool :=
  match source with
  | 1 => s.supplied
  | 2 => decide (s.reg 0x40000124 ≠ 0) && decide (s.reg 0x40000124 ≤ seconds)
  | 3 => s.key.wakeAlarm.isSome
  | 4 => true
  | 5 => true
  | _ => false

/-- A GATHERING source whose coalescing time passed in dormancy has its record written (R427): every coalescing time is
below a second (R387). -/
def EvtSt.dueAtWake (e : EvtSt) (seconds : Nat) : EvtSt :=
  if seconds = 0 then e else forEach (fun n e => e.timeout n) (e.srcs.map Prod.fst) e

/-- The controller comes back from the retention registers, or starts without them where their CRC fails (R427). -/
def State.restoreEvents (s : State) (good : Bool) (seconds : Nat) : State :=
  match s.evt.image with
  | none => s
  | some r =>
    let lost (k n : Nat) (reason : Reason) (s : State) : State :=
      s.record 0x0421 0x02 reason (le 1 k ++ [0] ++ le 4 n ++ le 5 s.cn)
    if good then
      let s := { s with evt := { s.evt with
        en := r.en, routes := r.routes, engs := r.engs, srcs := r.gathering, retained := true, image := none } }
      let s := { s with evt := s.evt.dueAtWake seconds }
      if r.discarded = 0 then s else lost 3 r.discarded .ok s
    else lost 3 0 .storageFault { s with evt := { s.evt with restoreFail := true, image := none } }

/-- DORMANCY_WAKE (R585): the module starts with cause DORMANT_WAKE. -/
def execDormancyWake (source : Fin 6) (seconds : Nat) (good : Bool) (s : State) : Host.Outcome State Fault Refusal :=
  .next (s.iff (decide (s.sys.phase = .dormant) && s.supplied && s.mayWake source seconds) fun s =>
    let s := s.iff (decide (source = 4)) fun s => { s with fld := { s.fld with incIn := !bit 1 (s.reg 0x40060014) } }
    let s := s.restart 3
    let s := { s with sys := { s.sys with dormSource := source.val, dormTime := seconds } }
    (s.restoreEvents good seconds).recordWakeAlarm true)

/-! Thermal (R587, R588). -/

/-- A reading of the base plate, in 0.1 degrees. -/
def State.setBase (s : State) (t : Int) : State :=
  { s with sys := { s.sys with baseTemp := t, tempMax := max s.sys.tempMax t, hot := decide (1250 < t) } }

/-- THERMAL_HOT (R588). -/
def execThermalHot (temp : Int) (s : State) : Host.Outcome State Fault Refusal :=
  .next (s.whenLive fun s => s.setBase temp)

/-- THERMAL_TRIP (R588): Table 18.3 up to the commit, and the stop 2 ms after it. -/
def execThermalTrip (temp : Int) (tick : Nat) (sums : List PhaseSum) (s : State) : Host.Outcome State Fault Refusal :=
  .next (s.whenLive fun s =>
    s.iff (decide (1400 ≤ temp)) fun s =>
      let s := (s.advanceTo tick).setBase temp
      let s := { s with sys := { s.sys with thermal := true } }
      let s := s.iff (!s.sys.powerFail) fun s => s.lastGaspSequence sums
      { s.pinsOff with sys := { s.sys with phase := .thermal, retentionFed := true } })

/-- THERMAL_RELEASE (R588): below +130 degrees the module starts with cause THERMAL. -/
def execThermalRelease (temp : Int) (s : State) : Host.Outcome State Fault Refusal :=
  .next (s.iff (decide (s.sys.phase = .thermal) && decide (temp < 1300) && s.supplied) fun s =>
    let s := (s.setBase temp).restart 4
    let s := { s with sys := { s.sys with powerFail := false, tripped := true, thermal := false } }
    (s.setBase temp).recordWakeAlarm false)

/-! Registers (R589). -/

/-- A write of SYS_PWR_CFG: PRIO_B, and PEAK_RESTART. -/
def State.writePwrCfg (s : State) (v : Nat) (w : Writer) : State × Reason :=
  let (s, r) := s.writeReg 0x40000114 v w
  (s.iff (bit 1 r.act) fun s => { s with sys := { s.sys with powerPeak := s.sys.powerIn } }, r.reason)

/-- PEAK_RESTART (R589). -/
def execPeakRestart (w : Writer) (s : State) : Host.Outcome State Fault Refusal :=
  .next (s.whenLive fun s => (s.writePwrCfg (s.reg 0x40000114 ||| 2) w).1)

/-- What the store and the input power meter show (R576, R577, R589). -/
def State.setStore (s : State) (mj pct : Nat) : State :=
  { s with sys := { s.sys with storeMj := mj, storePct := pct, storeReady := decide (500 ≤ mj) } }

/-- STORE_RECHARGED (R576): the recharge is complete. -/
def execStoreRecharged (mj : Fin 65536) (pct : Fin 256) (s : State) : Host.Outcome State Fault Refusal :=
  .next (s.iff (decide (s.sys.phase ≠ .off)) fun s =>
    let s := s.setStore mj.val pct.val
    { s with sys := { s.sys with recharging := false } })

end Sys2Proof.Machine
end

