-- ==== Sys2Proof/Machine/StartUp.lean ====
section
/-! DEFINITION. Ford's safe table and the start-up sequence (R590-R603). -/

namespace Sys2Proof.Machine

/-! The safe table (R590, Table 19.1). -/

/-- Amplitude setpoint at a level, without derating (R350, Table 19.1). -/
def State.safeAmplitude (s : State) (c level : Nat) : Nat :=
  let eff := if level < 1000 * fineUnit then 1000 * fineUnit else level
  if level = 0 then 0
  else min 65535 (nearest (eff * s.chReg c 12 * s.chReg c 8 * 65535 : Nat) (fullLevel * 100000000)).toNat

/-- The entry of a channel, built from its DRV registers, its luminaire's safe level and its share or mix. -/
def State.safeEntry (s : State) (c : Nat) : SafeEntry :=
  let cfg := s.chReg c 0
  let l := s.chLum c
  let topo := field 1 0 cfg
  let level := s.shareOf c (s.safeLevel (s.lumGroup l) * fineUnit) 1
  { topo := topo, sync := bit 2 cfg, disPwm := bit 3 cfg || decide (2 ≤ topo)
    valid := decide (s.lumKind l ≠ 0) && decide (topo ≠ 0)
    deadTime := field 31 24 cfg, fsw := field 9 0 (s.chReg c 4), setpoint := s.safeAmplitude c level
    duty := if 0 < level ∧ level < 1000 * fineUnit then s.dutyOf level else 0xFFFF
    oc := field 31 16 (s.chReg c 0x14), ov := field 15 0 (s.chReg c 0x14), k := s.drv.k, phase := field 23 16 cfg }

/-- The active stand keeps the table up to date (R590). -/
def State.fillSafe (s : State) : State :=
  { s with sys := { s.sys with safe := {
      nominal := s.time.nominal, kc := (upFrom 0 4).map s.safeContactor, ch := (upFrom 0 32).map s.safeEntry, good := true } } }

/-- The 16 octets of a channel's entry. -/
def SafeEntry.octets (e : SafeEntry) : List Byte :=
  le 1 (e.topo + flags [e.sync, e.disPwm] 2 + flag e.valid 7) ++ le 1 e.deadTime ++ le 2 e.fsw ++ le 2 e.setpoint
    ++ le 2 e.duty ++ le 2 e.oc ++ le 2 e.ov ++ le 1 e.k ++ le 1 e.phase ++ [0, 0]

/-- Bytes 0 to 519 of the table. -/
def SafeTable.octets (t : SafeTable) : List Byte :=
  le 1 t.nominal ++ [0, 0, 0] ++ (t.kc.map (le 1)).flatten ++ (t.ch.map SafeEntry.octets).flatten

/-- Ford's fallback regulator and contactor drives follow the table at power-up (Tables 19.1, 19.2, 19.4). -/
def State.driveSafe (s : State) : State :=
  let one (e : SafeEntry) : ChSt :=
    if s.sys.safe.good && e.valid then { amplitude := e.setpoint, duty := e.duty } else {}
  let s := { s with drv := { s.drv with chs := s.sys.safe.ch.map one } }
  forEach (fun k s => if s.sys.safe.good && decide (lget 0 k s.sys.safe.kc = 1) then s.kcPlanned k true else s) (upFrom 0 4) s

/-! The sequence (R591 to R599). -/

/-- POWER_UP (R591): the first input becomes valid; `good` says that the safe table's CRC holds. A base plate above
+130 degrees holds the stands in reset (Table 19.4). -/
def execPowerUp (b : Bool) (voltA voltB : Fin 65536) (base : Int) (good : Bool) (s : State) : Host.Outcome State Fault Refusal :=
  .next (s.iff (decide (s.sys.phase = .off) || (decide (s.sys.phase = .starting) && !s.supplied)) fun s =>
    let cause := if s.sys.phase = .off ∧ s.sys.retentionFed = true then 2 else 1
    let s := (s.setVolts voltA.val voltB.val).setInput b .valid
    let s := s.restart cause
    let s := { s with sys := { s.sys with
      onB := b, retentionFed := true, powerFail := false, thermal := false, recharging := true, baseTemp := base, tempMax := base
      hot := decide (1250 < base), safe := { s.sys.safe with good := good } } }
    if 1300 < base then { s with sys := { s.sys with phase := .thermal, thermal := true } }
    else (s.driveSafe.powerEvent 893 4 s.powerVolt).recordWakeAlarm false)

/-- The keys a start derives (R482, R494): KS10 and every MB slot, unless the module is tampered. -/
def State.deriveAtStart (s : State) : State :=
  if s.tampered then s else (s.iff (s.slotLive 0) State.deriveStorage).rederiveMb

/-- The boot ROM and the Drover have measured the image store (R481): the chain and the MB slots. -/
def State.measured (s : State) (drover firmware : BitVec 256) : State :=
  let s := { s with key := { s.key with drover := drover, firmware := firmware } }
  let s := s.measureCanopy.deriveAtStart
  { s with sys := { s.sys with bootPhase := 2 } }

/-- A stand does not boot: the other one becomes ACTIVE, or none runs and FORD_STATUS shows SAFE_HOLD (Table 19.4). -/
def State.heldInDrover (s : State) (x : Stand) : State :=
  let y := x.other
  let able := s.build = .t ∧ (s.ford.of y).state = .learning
  let s := s.modStand x fun r => { r with state := .withdrawn }
  if x ≠ s.ford.active then s
  else if able then
    let s := s.modStand y fun r => { r with state := .active }
    { s with ford := { s.ford with active := y, svc := y }, sys := { s.sys with prefOverridden := true } }
  else { s with ford := { s.ford with safeHold := true, holding := true, svc := x }, sys := { s.sys with bootPhase := 5 } }

/-- The Drover restores the image store from the backup store and restarts the stand with cause DROVER (R600). -/
def State.restoreImage (s : State) (x : Stand) : State :=
  let s := s.record 0x0422 0x60 .digestMismatch (le 1 s.upd.phase)
  if x = s.ford.active then
    let s := s.restoreBackup.restart 5
    { s with sys := { s.sys with imageRestored := true } }
  else { s with sys := { s.sys with imageRestored := true } }

/-- BOOT_MEASUREMENT (R481, R600): the digests of the Drover and of the firmware; `good` says that the image store agrees
with what was recorded at installation, `backup` that the backup store can be restored. -/
def execBootMeasurement (stand : Stand) (drover firmware : BitVec 256) (good backup : Bool) (s : State) :
    Host.Outcome State Fault Refusal :=
  .next (s.whenLive fun s =>
    s.iff (decide (s.sys.phase = .starting) && decide (s.sys.bootPhase < 2)) fun s =>
      if good then (if stand = s.ford.active then s.measured drover firmware else s)
      else if backup && s.upd.backup.isSome then s.restoreImage stand
      else s.heldInDrover stand)

/-- Grove keys a start or a new canopy lacks (R476, R497): a root where none is LIVE, and the key of each grove in use. -/
def State.groveKeysReady (s : State) : State :=
  if s.tampered || s.grovesInUse.isEmpty then s
  else if !s.slotLive (12 + s.key.root) then s.freshGroves
  else
    forEach (fun g s =>
      let n := 16 + 8 * s.key.half + g
      if s.slotLive n then s
      else s.setSlot n {
        state := .live, value := s.derived 9 false (12 + s.key.root) (s.groveInfo g s.key.generation), usage := 9, te := true
        parent := some (12 + s.key.root), source := .derived }) s.grovesInUse s

/-- Whether Ford goes on holding the outputs: a reboot's own check releases them (R517). -/
def State.holdsAfterLoad (s : State) : Bool :=
  match s.upd.activation with
  | some a => s.ford.holding && decide (a.path = .reboot) && decide (s.upd.phase = 0x07)
  | none => false

/-- A stand has loaded its canopy whole and serves (R591, Table 19.2). -/
def State.serveCanopy (s : State) (im : Image) : State :=
  let evt := s.evt
  let s := s.fullLoad im
  let s := s.iff evt.retained fun s => { s with evt := evt }
  let s := (s.measureCanopy.deriveAtStart).loadMeter
  let s := { s with
    sys := { s.sys with phase := .running, bootPhase := 4, bootMs := min 65535 (s.time.ref / 100000) }
    ford := { s.ford with holding := s.holdsAfterLoad } }
  s.groveKeysReady

/-- CANOPY_LOADED (R591): the image of the image store; on a module whose store is empty, the image the octets give. -/
def execCanopyLoaded (octets : List Byte) (s : State) : Host.Outcome State Fault Refusal :=
  .next (s.whenLive fun s =>
    s.iff (decide (s.sys.phase = .starting) && decide (s.sys.bootPhase = 2)) fun s =>
      match s.can.image with
      | some im => s.serveCanopy im
      | none => match readImage octets with
        | some im => s.serveCanopy im
        | none => s)

/-- PREF_TIMEOUT (R593): the preferred stand has not loaded its canopy within 2 s. -/
def execPrefTimeout (tick : Nat) (s : State) : Host.Outcome State Fault Refusal :=
  .next (s.whenLive fun s =>
    let s := s.advanceTo tick
    let x := s.ford.active
    s.iff (decide (s.build = .t) && decide (s.sys.phase = .starting) && decide (200000000 ≤ s.time.ref)
        && decide ((s.ford.of x.other).state = .learning)) fun s =>
      let s := s.modStand x fun r => { r with state := .learning }
      let s := s.modStand x.other fun r => { r with state := .active }
      { s with ford := { s.ford with active := x.other, svc := x.other }, sys := { s.sys with prefOverridden := true } })

/-- A write of SYS_RESET_CMD (R599). -/
def State.writeResetCmd (s : State) (v : Nat) (w : Writer) : State × Reason :=
  if bit 0 v && decide (w.role = .installer) && s.upd.activation.isSome then (s, .busy)
  else
    let (s, r) := s.writeReg 0x40000004 v w
    if bit 0 r.act then ((s.saveMeter).restart 6, r.reason) else (s, r.reason)

/-- MODULE_RESET (R599). -/
def execModuleReset (value : Word) (w : Writer) (s : State) : Host.Outcome State Fault Refusal :=
  .next (s.whenLive fun s => (s.writeResetCmd value.toNat w).1)

/-! The first beacon (R591, R595). -/

/-- Some enabled grove has gone 96 cycles without a beacon. -/
def State.longSilent (s : State) : Bool :=
  s.grovesInUse.any fun g => decide (lget 0 g s.rad.beaconCn + 96 ≤ s.cn)

/-- The first beacon after a start has gone out: its time, and the rejoin the start calls for (R595). `silent` is what
longSilent said before it. -/
def State.noteFirstBeacon (s : State) (silent : Bool) : State :=
  if s.sys.firstBeacon || !(s.rad.trxs.any fun x => decide (0 < x.ebTx)) then s
  else
    let s := { s with sys := { s.sys with firstBeacon := true, beaconMs := min 65535 (s.time.ref / 100000) } }
    let c := if s.ford.active = .a then s.sys.cause else s.sys.causeB
    s.iff (powerStart c || (decide (c = 7) && silent)) fun s => s.startRejoin s.scheduledSet 3

/-! Registers of the SYS block (Tables 18.8, 19.6). -/

/-- SYS_BOOT_STATUS. -/
def State.bootStatus (s : State) : Nat :=
  s.sys.bootPhase + flags [s.sys.imageRestored, !s.sys.safe.good, decide (s.can.siteId = 0), s.sys.prefOverridden] 8

/-- A register of the SYS block by its offset, as a stand reads it. -/
def State.readSys (s : State) (stand : Stand) (o : Nat) : Nat :=
  let y := s.sys
  if o = 0x000 then
    (if stand = .a then y.cause % 16 + y.resetsA % 65536 * 65536 else y.causeB % 16 + y.resetsB % 65536 * 65536)
  else if o = 0x004 then 0
  else if o = 0x008 then s.bootStatus
  else if o = 0x00C then y.bootMs % 65536 + y.beaconMs % 65536 * 65536
  else if o = 0x010 then y.lockstepMs % 65536
  else if o = 0x014 then crc32 y.safe.octets
  else if o = 0x100 then s.powerStatus
  else if o = 0x104 then s.powerVolt
  else if o = 0x108 then y.powerIn % 65536 + y.powerPeak % 65536 * 65536
  else if o = 0x10C then s.storeWord
  else if o = 0x110 then y.failCount % 65536 + y.dipCount % 65536 * 65536
  else if o = 0x118 then
    twos 16 y.baseTemp + flag y.hot 16 + flag y.tripped 17 + twos 8 (y.tempMax / 10) * 16777216
  else if o = 0x128 then y.dormSource + flag y.dormRefused 8 + y.dormReason * 65536
  else if o = 0x12C then y.dormTime % 4294967296
  else s.reg (0x40000000 + o)

/-- A write into the SYS block. -/
def State.writeSys (s : State) (o v : Nat) (w : Writer) : State × Reason :=
  if o = 0x004 then s.writeResetCmd v w
  else if o = 0x114 then s.writePwrCfg v w
  else if o = 0x120 then s.writeDormCtrl v w
  else if o = 0x128 then ({ s with sys := { s.sys with dormRefused := s.sys.dormRefused && !bit 8 v } }, .ok)
  else s.writePlain (0x40000000 + o) v w

end Sys2Proof.Machine
end

