-- ==== Sys2Proof/Machine/RegAll.lean ====
section
/-! DEFINITION. The whole register space (R15 to R18, Table 0.5): reads, writes, and the REGISTER_WINDOW (R257). -/

namespace Sys2Proof.Machine

/-- The holdover error bound in ns (R57, R58): the bound at entry, and 0.5 ns for each second since. -/
def State.holdEstimate (s : State) : Nat :=
  match s.time.tstate with
  | .holdover => min 4294967295 (s.time.holdBase + quotientNat (s.time.ref - s.time.holdRef) 200000000)
  | _ => 0

/-- TIME_PTP_STATUS: state and MUTED of a port. -/
def State.ptpStatus (s : State) (p : Nat) : Nat :=
  let q : PtpPort := lget {} p s.time.ports
  q.state % 16 + flag q.muteEnd.isSome 4

/-- A register of capture channel c (R84, Table 2.5). -/
def State.readCapture (s : State) (c o : Nat) : Nat :=
  let ch : CaptureCh := lget {} c s.time.captures
  if o = 0 then s.reg (0x40020300 + 0x20 * c)
  else if o = 4 then
    ch.fifo.length + flag ch.ovr 8 + (match ch.fifo with | [] => 0 | e :: _ => flag e.unset 9)
  else
    match ch.fifo with
    | [] => 0
    | e :: _ =>
      match o with
      | 0x08 => e.sec % 4294967296
      | 0x0C => e.sec / 4294967296 % 65536 + flag e.rising 16
      | 0x10 => e.ns
      | 0x14 => e.cn % 4294967296
      | 0x18 => e.cn / 4294967296 % 256
      | _ => 0

/-- A register of trigger k (Table 2.5). -/
def State.readTrigger (s : State) (k o : Nat) : Nat :=
  let t : Trigger := lget {} k s.time.triggers
  let a := 0x40020100 + 0x20 * k + o
  if o = 0 then merge 1 (s.reg a) (flag t.armed 0)
  else if o = 0x10 then flag t.fired 0 + flag t.missed 1
  else s.reg a

/-- The waymark registers (Table 2.5). -/
def State.readWaymark (s : State) (o : Nat) : Nat :=
  match s.time.waymark with
  | none => 0
  | some w =>
    match o with
    | 0x70 => w.cn % 4294967296
    | 0x74 => w.cn / 4294967296 % 256
    | 0x78 => w.sec % 4294967296
    | 0x7C => w.sec / 4294967296 % 65536
    | 0x80 => w.ns
    | _ => 0

/-- A register of the TIME block by its offset (Table 2.5). -/
def State.readTime (s : State) (o : Nat) : Nat :=
  let t := s.time
  if o = 0x04 then s.timeStatus
  else if o = 0x0C then t.snap.city.sec % 4294967296
  else if o = 0x10 then t.snap.city.sec / 4294967296 % 65536
  else if o = 0x14 then t.snap.city.ns
  else if o = 0x18 then t.snap.city.frac
  else if o = 0x1C then t.snap.cn % 4294967296
  else if o = 0x20 then t.snap.cn / 4294967296 % 256
  else if o = 0x24 then t.snap.tick % 4294967296
  else if o = 0x28 then t.incrNs
  else if o = 0x2C then t.incrFrac
  else if o = 0x40 then twos 32 t.lastOffset
  else if o = 0x44 then twos 32 t.rate
  else if o = 0x48 then s.holdEstimate
  else if o = 0x54 then (if t.periods = [] then 0 else quotientNat t.periods.sum t.periods.length)
  else if o = 0x58 then t.slotLen
  else if o = 0x5C then twos 32 t.phaseOfs
  else if o = 0x60 then twos 32 t.phaseErr
  else if o = 0x64 then twos 16 t.slewCyc
  else if o = 0x68 then t.periodDay
  else if 0x70 ≤ o ∧ o < 0x84 then s.readWaymark o
  else if o = 0x94 then flag t.syncMoved 0 + flag t.syncIgnored 1 + twos 16 t.syncD * 65536
  else if o = 0x98 then t.syncOfs % 65536
  else if o = 0xA4 then flag t.validPps 0 + t.ppsMiss % 256 * 256
  else if o = 0xB4 then s.ptpStatus 0 + s.ptpStatus 1 * 256
  else if o = 0xC0 then min 65535 t.viol + min 65535 t.syncViol * 65536
  else if 0x100 ≤ o ∧ o < 0x300 then s.readTrigger ((o - 0x100) / 0x20) ((o - 0x100) % 0x20)
  else if 0x300 ≤ o ∧ o < 0x3E0 then s.readCapture ((o - 0x300) / 0x20) ((o - 0x300) % 0x20)
  else s.reg (0x40020000 + o)

/-- A register as a stand reads it (R15); nothing described reads zero. -/
def State.readWord (s : State) (stand : Stand) (a : Nat) : Nat :=
  let o := a % 65536
  match a >>> 16 with
  | 0x4000 => s.readSys stand o
  | 0x4001 => s.readFord o
  | 0x4002 => s.readTime o
  | 0x4003 => s.readEvt o
  | 0x4004 => s.readQue o
  | 0x4005 => s.readMtr o
  | 0x4006 => s.readDrv o
  | 0x4007 => s.readRad o
  | 0x4008 => s.readKey o
  | 0x4009 => s.readWay o
  | 0x400A => s.readCop stand o
  | 0x400B => s.readUpd o
  | 0x400C => s.readCan o
  | 0x400D => s.readFld o
  | _ => 0

/-- A write into the EVT block by its offset (Table 11.11). -/
def State.writeEvt (s : State) (o v : Nat) : State :=
  if o = 0 then s.writeEvtCtrl v
  else if o = 4 then s.writeEvtStatus v
  else if 0x1000 ≤ o ∧ o < 0x1800 then
    let e := (o - 0x1000) / 0x80
    let r := (o - 0x1000) % 0x80
    if r < 0x40 then
      match r % 0x10 with
      | 0 => { s with evt := s.evt.writeCfg e (r / 0x10) v }
      | 8 => { s with evt := s.evt.writeCons e (r / 0x10) (field 15 0 v) }
      | _ => s
    else if r = 0x40 then { s with evt := s.evt.writeMask e v }
    else if r = 0x44 then { s with evt := s.evt.done e (field 9 0 v) }
    else s
  else s

/-- A write into the QUE block by its offset (Table 11.9). -/
def State.writeQue (s : State) (o v : Nat) (w : Writer) : State × Reason :=
  if o = 0 then s.writeQueCtrl v w
  else if 0x400 ≤ o ∧ o < 0x1400 ∧ (o - 0x400) % 0x20 = 0x14 then accepted (s.writeQueStatus ((o - 0x400) / 0x20) v)
  else if 0x400 ≤ o ∧ o < 0x1400 ∧ (o - 0x400) % 0x20 = 0x18 then accepted (s.writePeak ((o - 0x400) / 0x20) v)
  else s.writePlain (0x40040000 + o) v w

/-- A write of a register anywhere in Table 0.5. -/
def State.writeWord (s : State) (a v : Nat) (w : Writer) : State × Reason :=
  let o := a % 65536
  match a >>> 16 with
  | 0x4000 => s.writeSys o v w
  | 0x4001 => s.writeFord o v w
  | 0x4003 => accepted (s.writeEvt o v)
  | 0x4004 => s.writeQue o v w
  | 0x4008 => s.writeKey o v w
  | 0x4009 => if o = 0 then s.writeWayCtrl v w else accepted s
  | 0x400A => s.writeCop o v w
  | 0x400B => s.writeUpd o v w
  | 0x400C => s.writePlain a v w
  | _ => s.writeBlock a v w

/-- Whether an address is a register word of Table 0.5. -/
def inSpace (a : Nat) : Bool :=
  decide (0x40000000 ≤ a) && decide (a < 0x400E0000) && decide (a % 4 = 0)

/-- A register write under a role, recorded once (R489, R609): where the monitor's write changed something and
no chapter names a record of its own, a ROLE_ACTION record. -/
def State.writeRecorded (s : State) (a v : Nat) (w : Writer) : State × Reason :=
  let (t, r) := s.writeWord a v w
  if w.recorded && (decide (w.role = .installer) || decide (w.role = .maker)) && decide (t.way = s.way) && decide (t ≠ s) then
    (t.recordWrite w .ok a (s.readWord w.stand a) (t.readWord w.stand a), r)
  else (t, r)

/-- REGISTER_WRITE (R16 to R18, R605): a write of one word of the register space. -/
def execRegisterWrite (addr value : Word) (w : Writer) (s : State) : Host.Outcome State Fault Refusal :=
  .next (s.whenLive fun s => s.iff (inSpace addr.toNat) fun s => (s.writeRecorded addr.toNat value.toNat w).1)

/-! REGISTER_WINDOW (R257). -/

/-- The words of a range of registers. -/
def State.readWords (s : State) (stand : Stand) (a n : Nat) : List Nat :=
  (upFrom 0 n).map fun i => s.readWord stand (a + 4 * i)

/-- Write words one after another; the first reason that is not OK is the answer's. -/
def State.writeWords (s : State) (a : Nat) (l : List Nat) (w : Writer) : State × Reason :=
  match l with
  | [] => (s, .ok)
  | v :: rest =>
    let (s, r) := s.writeWord a v w
    let (s, q) := s.writeWords (a + 4) rest w
    (s, if r = .ok then q else r)

/-- 32-bit words of octets. -/
def wordsOf : Nat → List Byte → List Nat
  | 0, _ => []
  | n + 1, l => ofLe (l.take 4) :: wordsOf n (l.drop 4)

/-- The record of a window access (Table 16.4, 0x68). -/
def State.recordWindow (s : State) (i : Fin 4) (role : Role) (reason : Reason) (head : List Byte) : State :=
  s.recordAs role (0x0400 + i.val) 0x68 reason (head.take 3 ++ slice 4 4 head)

/-- REGISTER_WINDOW (R257): the body's fields, the blocks of Table 0.5, then the access. -/
def State.registerWindow (s : State) (i : Fin 4) (c : Session) (tx : Nat) (body : List Byte) : State :=
  let stand := ofLe (slice 0 1 body)
  let op := ofLe (slice 1 1 body)
  let n := ofLe (slice 2 1 body)
  let a := ofLe (slice 4 4 body)
  if body.length ≠ 8 + (if op = 1 then 4 * n else 0) ∨ 2 ≤ stand ∨ 2 ≤ op ∨ n = 0 ∨ 64 < n ∨ slice 3 1 body ≠ [0] ∨ a % 4 ≠ 0 then
    s.malformed i 0x70 tx
  else if !(inSpace a && inSpace (a + 4 * (n - 1))) || (decide (stand = 1) && decide (s.build = .s)) then
    (s.recordWindow i c.role .unsupported body).respond i 0x70 tx (statusBody .unsupported)
  else
    let st : Stand := if stand = 1 then .b else .a
    if op = 0 then
      let words := s.readWords st a n
      (s.recordWindow i c.role .ok body).respond i 0x70 tx (statusBody .ok ++ (words.map (le 4)).flatten)
    else
      let (s, r) := s.writeWords a (wordsOf n (body.drop 8)) { role := c.role, via := .session i, stand := st }
      (s.recordWindow i c.role r body).respond i 0x70 tx (statusBody r)

/-- REGISTER_WINDOW_READ (R257). -/
def execRegisterWindowRead (sess : Fin 4) (role : Byte) (tx : Word) (body : List Byte) (s : State) :
    Host.Outcome State Fault Refusal :=
  .next (s.whenLive fun s => s.request sess role 0x70 tx.toNat .maker fun c s => s.registerWindow sess c tx.toNat body)

/-- REGISTER_WINDOW_WRITE (R257). -/
def execRegisterWindowWrite (sess : Fin 4) (role : Byte) (tx : Word) (body : List Byte) (s : State) :
    Host.Outcome State Fault Refusal :=
  .next (s.whenLive fun s => s.request sess role 0x70 tx.toNat .maker fun c s => s.registerWindow sess c tx.toNat body)

end Sys2Proof.Machine
end

