-- ==== Sys2Proof/Machine/Monitor.lean ====
section
/-! DEFINITION. The service monitor on J7 (R537 to R541). The spelling of answer lines beyond what Table 16.6 states is
the model's (log 24). -/

namespace Sys2Proof.Machine

/-! Text. -/

/-- A hex digit. -/
def hexDigit (n : Nat) : Char :=
  lget '0' n ['0', '1', '2', '3', '4', '5', '6', '7', '8', '9', 'A', 'B', 'C', 'D', 'E', 'F']

/-- A number as n hex digits. -/
def hexDigits : Nat → Nat → List Char
  | 0, _ => []
  | n + 1, x => hexDigits n (x / 16) ++ [hexDigit (x % 16)]

/-- A word as 8 hex digits (R538). -/
def hex8 (x : Nat) : String :=
  String.ofList (hexDigits 8 x)

/-- Octets as hex digits in order. -/
def hexOctets (l : List Byte) : String :=
  String.ofList (l.map fun b => hexDigits 2 b.toNat).flatten

/-- The name of a reason code (Table 0.4). -/
def reasonName : Reason → String
  | .ok => "OK"
  | .malformed => "MALFORMED"
  | .unsupported => "UNSUPPORTED"
  | .notAuthorised => "NOT_AUTHORISED"
  | .replay => "REPLAY"
  | .busy => "BUSY"
  | .noCapacity => "NO_CAPACITY"
  | .tooLate => "TOO_LATE"
  | .targetStray => "TARGET_STRAY"
  | .targetAbsent => "TARGET_ABSENT"
  | .keyWithered => "KEY_WITHERED"
  | .digestMismatch => "DIGEST_MISMATCH"
  | .tampered => "TAMPERED"
  | .storageFault => "STORAGE_FAULT"
  | .promiseBroken => "PROMISE_BROKEN"
  | .safeHold => "SAFE_HOLD"
  | .dutyBudget => "DUTY_BUDGET"
  | .sealClosed => "SEAL_CLOSED"

def roleName : Role → String
  | .nobody => "NONE"
  | .operator => "OPERATOR"
  | .installer => "INSTALLER"
  | .maker => "MAKER"

/-- An answer (R538): its lines, the ending line, the prompt. -/
def State.answer (s : State) (lines : List String) (reason : Reason) : State :=
  s.emits ((lines ++ [if reason = .ok then "OK" else "ERR " ++ reasonName reason, "> "]).map Output.line)

/-! The session. -/

/-- The monitor returns to no role; OPERATOR uses are summed up in a record (R489, R537, R538). Index 8 is the monitor's. -/
def State.dropRole (s : State) : State :=
  let m := s.mon
  let s := s.iff (decide (m.reads + m.others ≠ 0)) fun s =>
    s.recordAs .operator 0x0408 0x05 .ok (le 2 8 ++ le 2 0 ++ le 2 m.reads ++ le 2 m.others)
  { s with mon := { s.mon with role := .nobody, reads := 0, others := 0 } }

/-- A counted violation (R538): the sixteenth within 1,000 cycles drops the role and mutes the monitor. -/
def State.monViolation (s : State) (reason : Reason) : State :=
  let v := s.cn :: s.mon.violations.filter fun x => decide (s.cn < x + 1000)
  let s := s.answer [] reason
  if v.length < 16 then { s with mon := { s.mon with violations := v } }
  else { s.dropRole with mon := { s.dropRole.mon with violations := [], muteEnd := some (s.cn + 1000) } }

/-- The right a monitor command needs (Table 16.6). -/
inductive MonNeed where
  | none_
  /-- Any role. -/
  | read
  /-- INSTALLER or MAKER. -/
  | write
  | installer
  deriving DecidableEq, Repr

def MonNeed.holds (n : MonNeed) (r : Role) : Bool :=
  match n with
  | .none_ => true
  | .read => decide (r ≠ .nobody)
  | .write => decide (r = .installer) || decide (r = .maker)
  | .installer => decide (r = .installer)

/-- How an OPERATOR use counts (R489). -/
inductive MonUse where
  | read
  | other
  deriving DecidableEq, Repr

/-- Count a use under OPERATOR. -/
def MonSt.use (m : MonSt) (u : MonUse) : MonSt :=
  if m.role = .operator then
    match u with
    | .read => { m with reads := satAdd 65535 m.reads 1 }
    | .other => { m with others := satAdd 65535 m.others 1 }
  else m

/-- A line arrives: it is input, and a new rate applies from it (R538, R540). -/
def MonSt.input (m : MonSt) (cn : Cn) : MonSt :=
  { m with lastInput := cn, baud := m.nextBaud.getD m.baud, nextBaud := none }

/-- Input is ignored for 1,000 cycles after the sixteenth violation (R538). -/
def MonSt.muted (m : MonSt) (cn : Cn) : Bool :=
  match m.muteEnd with
  | some e => decide (cn < e)
  | none => false

/-- A line of the monitor (R538, R540): ignored while muted; after a boot that found no good canopy only what `boot` allows
is answered (R594); then the right, the arguments, and the command. -/
def State.monLine (s : State) (boot : Bool) (need : MonNeed) (use_ : Option MonUse) (args : Bool) (f : State → State) : State :=
  if s.mon.muted s.cn then s
  else
    let s := { s with mon := s.mon.input s.cn }
    if s.sys.bootPhase = 5 && !boot then s.answer [] .busy
    else if !need.holds s.mon.role then s.monViolation .notAuthorised
    else if !args then s.monViolation .malformed
    else f { s with mon := match use_ with | some u => s.mon.use u | none => s.mon }

/-- The stand that serves the monitor (R537). -/
def State.monStand (s : State) : Stand :=
  if s.ford.safeHold then s.ford.svc else s.ford.active

/-- MON_HELP (R540). -/
def execMonHelp (s : State) : Host.Outcome State Fault Refusal :=
  .next (s.whenLive fun s => s.monLine false .none_ (some .other) true fun s => s.answer
    [ "help", "login operator|installer|maker", "proof <64 hex digits>", "logout", "baud <rate>", "sel a|b"
    , "rd <address> <count>", "wr <address> <word>", "q <queue> <count>", "wb <sequence> <count>", "wbclear <sequence>"
    , "status", "cop", "drover", "att <64 hex digits>", "tamper maint <minutes>", "tamper clear"
    , "rftx <phy> <channel> <power> <seconds>" ] .ok)

/-- MON_LOGIN (R539): a fresh nonce for a role. -/
def execMonLogin (role : Role) (s : State) : Host.Outcome State Fault Refusal :=
  .next (s.whenLive fun s => s.monLine false .none_ (some .other) (decide (role ≠ .nobody)) fun s =>
    let (v, s) := s.drawRandom
    let s := { s with mon := { s.mon with nonce := some { role := role, value := v, at_ := s.cn } } }
    s.answer ["NONCE " ++ hexOctets ((octets256 v).take 16)] .ok)

/-- M of a monitor login (R539). -/
def State.monInput (s : State) (n : Nonce) : List Byte :=
  ascii "MON-ROLE" ++ le 1 (roleCode n.role) ++ (octets256 n.value).take 16 ++ le 8 s.rad.eui

/-- A login is refused (R539, R489). -/
def State.monProofFails (s : State) (r : Role) : State :=
  (((s.countProof r false).recordProof r false 0x0408 8)).monViolation .notAuthorised

/-- A login is granted (R539, R489): another role than the one held ends that one's use. -/
def State.monGrant (s : State) (n : Nonce) : State :=
  let s := (s.countProof n.role true).recordProof n.role true 0x0408 8
  let s := s.iff (decide (s.mon.role ≠ n.role)) State.dropRole
  let s := { s with mon := { s.mon with role := n.role } }
  s.answer ["ROLE " ++ roleName n.role, "PROOF " ++ hexOctets (s.proofOf n.role 2 (s.monInput n))] .ok

/-- MON_PROOF (R539): within 250 cycles of the nonce, under the LIVE slot of the role. -/
def execMonProof (proof : List Byte) (s : State) : Host.Outcome State Fault Refusal :=
  .next (s.whenLive fun s => s.monLine false .none_ (some .other) (decide (proof.length = 32)) fun s =>
    let n := s.mon.nonce
    let s := { s with mon := { s.mon with nonce := none } }
    match n with
    | none => s.monProofFails .nobody
    | some n =>
      if s.cn ≤ n.at_ + 250 && s.slotLive (roleSlot n.role) && decide (proof = s.proofOf n.role 1 (s.monInput n)) then
        s.monGrant n
      else s.monProofFails n.role)

/-- MON_PROOF_LAPSE (R539). -/
def execMonProofLapse (s : State) : Host.Outcome State Fault Refusal :=
  .next (s.whenLive fun s =>
    match s.mon.nonce with
    | some n => s.iff (decide (n.at_ + 250 < s.cn)) fun s => { s with mon := { s.mon with nonce := none } }
    | none => s)

/-- MON_LOGOUT (R540). -/
def execMonLogout (s : State) : Host.Outcome State Fault Refusal :=
  .next (s.whenLive fun s => s.monLine false .none_ (some .other) true fun s => s.dropRole.answer [] .ok)

/-- Rates of R537. -/
def monRates : List Nat := [115200, 230400, 460800, 921600, 1000000, 2000000, 3000000]

/-- MON_BAUD (R540): answered at the old rate. -/
def execMonBaud (rate : Nat) (s : State) : Host.Outcome State Fault Refusal :=
  .next (s.whenLive fun s => s.monLine false .none_ (some .other) (monRates.contains rate) fun s =>
    { s with mon := { s.mon with nextBaud := some rate } }.answer [] .ok)

/-- MON_SEL (R540): Stand B only on a T build. -/
def execMonSel (stand : Stand) (s : State) : Host.Outcome State Fault Refusal :=
  .next (s.whenLive fun s => s.monLine false .read (some .other) (decide (stand = .a) || decide (s.build = .t)) fun s =>
    { s with mon := { s.mon with sel := stand } }.answer [] .ok)

/-- A range of register words lies in Table 0.5. -/
def rangeOk (a n : Nat) : Bool :=
  decide (1 ≤ n) && decide (n ≤ 64) && inSpace a && inSpace (a + 4 * (n - 1))

/-- MON_RD (R540). -/
def execMonRd (addr : Word) (count : Nat) (s : State) : Host.Outcome State Fault Refusal :=
  .next (s.whenLive fun s => s.monLine false .read (some .read) (rangeOk addr.toNat count) fun s =>
    s.answer ((upFrom 0 count).map fun i =>
      hex8 (addr.toNat + 4 * i) ++ " " ++ hex8 (s.readWord s.mon.sel (addr.toNat + 4 * i))) .ok)

/-- MON_WR (R17, R488, R538, R540): a write that leaves a field unchanged is answered with its reason. -/
def execMonWr (addr value : Word) (s : State) : Host.Outcome State Fault Refusal :=
  .next (s.whenLive fun s => s.monLine false .write (some .other) (inSpace addr.toNat) fun s =>
    let (t, r) := s.writeRecorded addr.toNat value.toNat { role := s.mon.role, via := .monitor, stand := s.mon.sel }
    t.answer [] r)

/-- MON_Q (R540, R428): fill, status and words from the head; nothing is popped. -/
def execMonQ (q count : Nat) (s : State) : Host.Outcome State Fault Refusal :=
  .next (s.whenLive fun s => s.monLine false .read (some .read) (decide (q < 128) && decide (count ≤ 64)) fun s =>
    let words := match s.queue q with
      | some c => (c.words.take count).map fun w => hex8 (w.data / 4294967296) ++ hex8 w.data
      | none => []
    s.answer (["FILL " ++ hex8 (s.fillOf q), "STATUS " ++ hex8 (queStatus (s.queue q))] ++ words) .ok)

/-- MON_WB (R532, R540). -/
def execMonWb (seq count : Nat) (s : State) : Host.Outcome State Fault Refusal :=
  .next (s.whenLive fun s => s.monLine false .read (some .read) (decide (seq < 4294967296) && decide (1 ≤ count) && decide (count ≤ 64)) fun s =>
    s.answer (["OLDEST " ++ hex8 s.way.oldest, "NEWEST " ++ hex8 s.way.newest, if s.way.gap seq then "GAP 1" else "GAP 0"]
      ++ (s.way.serve seq count).map fun r => hexOctets r.octets) .ok)

/-- MON_WBCLEAR (R248, R533). -/
def execMonWbclear (seq : Nat) (s : State) : Host.Outcome State Fault Refusal :=
  .next (s.whenLive fun s => s.monLine false .installer (some .other) (decide (seq < 4294967296)) fun s =>
    let (reason, n, s) := s.clearWaybill seq s.mon.role 0x0408 8
    s.answer (if reason = .ok then ["CLEARED " ++ hex8 n] else []) reason)

/-- MON_STATUS (R540). -/
def execMonStatus (s : State) : Host.Outcome State Fault Refusal :=
  .next (s.whenLive fun s => s.monLine true .read (some .read) true fun s => s.answer
    [ if s.build = .t then "BUILD T" else "BUILD S", "FORD_STATUS " ++ hex8 s.fordStatus
    , "TSTATE " ++ hex8 (tstateCode s.time.tstate), "MSTATE " ++ hex8 (mstateCode s.time.mstate)
    , "CN " ++ String.ofList (hexDigits 10 s.cn), "EPOCH " ++ hex8 s.fsp.epoch, "KEY_STATUS " ++ hex8 s.keyStatus ] .ok)

/-- MON_COP (R540): as the stand that serves the monitor reads them. -/
def execMonCop (s : State) : Host.Outcome State Fault Refusal :=
  .next (s.whenLive fun s => s.monLine false .read (some .read) true fun s =>
    s.answer (([0x04, 0x20] ++ (upFrom 0 8).map fun k => 0x60 + 4 * k).map fun o => hex8 (s.readCop s.monStand o)) .ok)

/-- MON_DROVER (R540). -/
def execMonDrover (s : State) : Host.Outcome State Fault Refusal :=
  .next (s.whenLive fun s => s.monLine true .read (some .read) true fun s =>
    let cars := (upFrom 0 4).map fun i => match tget i s.upd.caravans with
      | some c => carStateCode c.state + c.model % 65536 * 65536
      | none => 0
    s.answer (([0x04, 0x14, 0x20, 0x1C].map s.readUpd ++ cars).map hex8) .ok)

/-- MON_ATT (R486, R540). -/
def execMonAtt (chal : List Byte) (s : State) : Host.Outcome State Fault Refusal :=
  .next (s.whenLive fun s => s.monLine false .read (some .other) (decide (chal.length = 32)) fun s =>
    let s := s.attest chal
    let a := s.key.att
    s.answer (if a.reason = .ok then
      [ "MAC " ++ hexOctets (octets256 a.mac), "STAND " ++ hex8 a.stand, "FLAGS " ++ hex8 a.flagBits
      , "EPOCH " ++ hex8 a.epoch, "CN " ++ String.ofList (hexDigits 10 a.cn) ] else []) a.reason)

/-- MON_TAMPER_MAINT (R491, R540). -/
def execMonTamperMaint (minutes : Nat) (s : State) : Host.Outcome State Fault Refusal :=
  .next (s.whenLive fun s => s.monLine false .installer (some .other) (decide (minutes ≤ 480)) fun s =>
    let (s, r) := s.writeTmpMaint minutes { role := s.mon.role, via := .monitor }
    s.answer [] r)

/-- MON_TAMPER_CLEAR (R491, R540). -/
def execMonTamperClear (s : State) : Host.Outcome State Fault Refusal :=
  .next (s.whenLive fun s => s.monLine false .installer (some .other) true fun s =>
    let (s, r) := s.writeTmpClear 1 { role := s.mon.role, via := .monitor }
    s.answer [] r)

/-! rftx (R541). -/

/-- The power TRX8 may use on a channel (R91, R94), less the greatest antenna gain: the test takes no port of its own. -/
def State.testPower (s : State) (ch : Nat) : Int :=
  let gain := s.can.site.gains.foldl max 0
  min 108 (((s.rad.profile.band (s.rad.profile.bandOf ch)).power : Int) - gain)

/-- The arguments of rftx lie in what R541 allows: a PHY of R88, a channel and power of the profile, 1 s to 60 s. -/
def State.testOk (s : State) (phy ch power seconds : Nat) : Bool :=
  decide (phy ≤ 6) && s.rad.profile.base.contains ch && decide ((power : Int) ≤ s.testPower ch)
    && decide (1 ≤ seconds) && decide (seconds ≤ 60)

/-- TRX8 is UNDERSTORY and carries no grove, nor a test. -/
def State.testFree (s : State) : Bool :=
  decide (s.trxState 8 = 2) && s.trx8Free && s.mon.rfTest.isNone && !s.entering && !s.sys.powerFail

/-- A test starts: its airtime is booked (R95, R541). -/
def State.startTest (s : State) (phy ch power seconds : Nat) : State :=
  let band := s.rad.profile.bandOf ch
  let s := s.addDuty 8 band (seconds * 3000000)
  let test : RfTest := { phy := phy, channel := ch, power := power, endCn := s.cn + s.secondsInCycles seconds, seconds := seconds }
  let s := { s with mon := { s.mon with rfTest := some test } }
  let s := s.recordAs s.mon.role 0x0408 0x06 .ok (le 4 0 ++ le 4 0 ++ le 1 phy ++ le 1 ch ++ le 1 power ++ le 1 seconds)
  (s.emit (.rfTest phy ch power seconds)).answer [] .ok

/-- MON_RFTX (R541). -/
def execMonRftx (phy channel power seconds : Nat) (s : State) : Host.Outcome State Fault Refusal :=
  .next (s.whenLive fun s => s.monLine false .installer (some .other) (s.testOk phy channel power seconds) fun s =>
    if !s.testFree then s.answer [] .busy
    else if !s.dutyFits 8 (s.rad.profile.bandOf channel) (seconds * 3000000) false then s.answer [] .dutyBudget
    else s.startTest phy channel power seconds)

/-- RFTX_END (R541): the test's time is over, or TRX8 is wanted. -/
def execRftxEnd (s : State) : Host.Outcome State Fault Refusal :=
  .next (s.whenLive fun s =>
    match s.mon.rfTest with
    | some t => s.iff (decide (t.endCn ≤ s.cn) || !s.trx8Free || decide (s.trxState 8 ≠ 2)) fun s => { s with mon := { s.mon with rfTest := none } }
    | none => s)

/-- MON_UNKNOWN (R538). -/
def execMonUnknown (malformed : Bool) (s : State) : Host.Outcome State Fault Refusal :=
  .next (s.whenLive fun s => s.monLine false .none_ none true fun s =>
    s.monViolation (if malformed then .malformed else .unsupported))

/-- MON_MUTE_END (R538). -/
def execMonMuteEnd (s : State) : Host.Outcome State Fault Refusal :=
  .next (s.whenLive fun s =>
    match s.mon.muteEnd with
    | some m => s.iff (decide (m ≤ s.cn)) fun s => { s with mon := { s.mon with muteEnd := none } }
    | none => s)

/-- MON_IDLE (R538). -/
def execMonIdle (s : State) : Host.Outcome State Fault Refusal :=
  .next (s.whenLive fun s => s.iff (decide (s.mon.lastInput + 6000 ≤ s.cn)) State.dropRole)

end Sys2Proof.Machine
end

