-- ==== Sys2Proof/Machine/Cycle.lean ====
section
/-! DEFINITION. The cycle tick and the midpoint of a cycle (01): what the module does at CYC(n), in the order the model
gives it where blocks act without an order of their own (R34, R40; log 26). -/

namespace Sys2Proof.Machine

/-! Counting. -/

/-- In SAFE HOLD the count goes on from Ford's shadow, without correction (R446). -/
def State.shadowCycle (s : State) : State :=
  let s := s.advanceTo (s.ford.shadowSlot / 5)
  { s with
    cn := s.cn + 1
    ford := { s.ford with shadowCn := s.cn + 1 }
    time := { s.time with
      tsc := 0, second := false, slotLen := s.ford.shadowSlot, cycleLen := s.ford.shadowSlot, corrUsed := 0
      cycRefs := (s.time.ref :: s.time.cycRefs).take 4096 } }

/-- In SAFE HOLD the second slot begins one slot length after CYC. -/
def State.shadowSecond (s : State) : State :=
  let s := s.advanceTo (s.ford.shadowSlot / 10)
  { s with time := { s.time with second := true, cycleLen := 2 * s.ford.shadowSlot } }

/-- The re-base cycle has come (R66, R68): the attributed count replaces the provisional one, and CN is issued. -/
def State.rebaseTick (s : State) : State :=
  match s.time.rebase with
  | some r =>
    if r.at_ ≤ s.cn then
      let s := s.moveCount ((r.newCn : Int) - r.at_)
      ({ s with time := { s.time with provisional := false, issued := true, rebase := none } }).rebaseEvent r.at_ r.newCn
    else s
  | none => s

/-- RELOCK ends once the phase error is below 50 µs (R72). -/
def TimeSt.relockEnd (t : TimeSt) : TimeSt :=
  if t.mstate = .relock ∧ t.phaseErr.natAbs < 50000 then { t with mstate := .tracking } else t

/-- CN is attributed and not provisional any more (R63, R68). -/
def State.counted (s : State) : Bool :=
  decide (s.time.mstate ≠ .unattributed) && !s.time.provisional

/-- CYC(n) itself (R27, R34, R36): the count, its re-base, the CYCLE event and the day's anchors. -/
def State.countCycle (s : State) : State :=
  let s := if s.ford.safeHold then s.shadowCycle else s.nextCycle
  let s := ({ s with time := s.time.relockEnd }).rebaseTick.noteFreeRun
  let s := s.post 768 1 (s.cn % 4294967296)
  { s with dim := { s.dim with day := if s.counted then s.days else none } }

/-! Metering at CYC. -/

/-- A boundary still waiting for the crossing of the cycle that ends falls on its CYC (R40). -/
def State.lateLatch (s : State) : State :=
  if s.ford.safeHold || s.crossedNow then s else s.boundary 0 true

/-- The cycle's accounting, then a boundary at CYC where the mains is absent or its crossing came early (R35, R314). -/
def State.meterCycle (s : State) (sums : List PhaseSum) (rms : List Nat) (clipped : List (Fin 16)) : State :=
  if s.ford.safeHold then s
  else
    let s := s.meterTick sums rms clipped
    if s.time.absent then s.boundary 0 false
    else s.iff s.crossedNow fun s => s.boundary 0 false

/-! String luminaires at CYC (R31, R40, R270, R349). -/

/-- The DIMMING_ACTION tile acts at this CYC: it is placed, and no clearing or slice holds it (R40, R396). -/
def State.dimmingActs (s : State) : Bool :=
  (s.can.slotOf .dimmingAction 0).isSome && !s.clearingHolds (s.can.slotOf .dimmingAction 0)

/-- A luminaire takes a step that begins at a CN (R270, R349). -/
def State.lumStep (s : State) (l : Nat) (x : LevelStep) (at_ : Cn) : State :=
  s.modLum l fun u => { u with
    from_ := ({ s with cn := at_ }).baseLevel u 0, target := x.level, rampStart := at_, ramp := x.ramp }

/-- A luminaire's steps after one CN and up to another, over yesterday and today (R265, R270). -/
def State.stepsBetween (s : State) (l : Nat) (from_ to_ : Cn) : List LevelStep :=
  match s.calendar with
  | some c =>
    let d := s.dayNow c
    let (y, t, m) := (s.dayRecord c (d - 1), s.dayRecord c d, s.dayRecord c (d + 1))
    let all := s.groupSteps (s.lumGroup l) y t.start ++ s.groupSteps (s.lumGroup l) t m.start
    all.filter fun x => decide ((from_ : Int) < x.cn) && decide (x.cn ≤ (to_ : Int))
  | none => []

/-- One step at a luminaire: late when its CN has gone by (R31), superseded by a later one of its CN or, while the base
level follows it, by a SAFETY level tagged for this CN (R40). -/
def State.takeStep (s : State) (l : Nat) (x : LevelStep) (again : Bool) : State :=
  let cn := x.cn.toNat
  let s := s.iff (decide (cn < s.cn)) fun s =>
    s.record (s.tileSource .dimmingAction 0 0) 0x08 .tooLate (le 2 l ++ le 5 cn)
  if again then s.superseded l cn
  else
    let safety := match (s.lum l).safetyNext with
      | some (some _, c) => decide (c = cn)
      | _ => false
    let s := s.iff safety fun s => s.superseded l cn
    (s.lumStep l x s.cn).postTile .dimmingAction 0 0 1 0

/-- A luminaire's steps in order. -/
def State.takeSteps (s : State) (l : Nat) : List LevelStep → State
  | [] => s
  | x :: r => (s.takeStep l x (r.any fun y => decide (y.cn = x.cn))).takeSteps l r

/-- Luminaires in use. -/
def State.lumsInUse (s : State) : List Nat :=
  (upFrom 0 32).filter fun l => decide (s.lumKind l ≠ 0)

/-- The steps whose CN has come, where the engines wrote them before the cut-off (R31). -/
def State.profileTick (s : State) : State :=
  let ready := s.time.planReady
  let s := { s with time := { s.time with planReady := false } }
  if ready && s.dimmingActs && s.counted && !s.sys.startSafe then
    let s := forEach (fun l s => s.takeSteps l (s.stepsBetween l s.time.applied s.cn)) s.lumsInUse s
    { s with time := { s.time with applied := s.cn } }
  else s

/-- The first evaluation of a luminaire after a reset: from its safe level through the steps gone by (R270). -/
def State.firstLevels (s : State) (l : Nat) : State :=
  let v := s.safeLevel (s.lumGroup l)
  let s := s.modLum l fun u => { u with from_ := v * fineUnit, target := v, rampStart := s.cn, ramp := 0 }
  let start := match s.dim.day with
    | some (_, t, _) => t.start
    | none => s.cn
  forEach (fun (x : LevelStep) s => s.lumStep l x x.cn.toNat) (s.stepsBetween l (start - 1) s.cn) s

/-- The power-up situation of Table 7.5 ends once CN is attributed and CALENDAR and GROUP_PROFILES are held (R277, R594). -/
def State.endStartSafe (s : State) : State :=
  if s.sys.startSafe && s.counted && decide (s.inForce 0x0010 ≠ []) && decide (s.inForce 0x0011 ≠ []) then
    let s := forEach (fun l s => s.firstLevels l) s.lumsInUse s
    { s with sys := { s.sys with startSafe := false }, time := { s.time with applied := s.cn } }
  else s

/-! Contactors at CYC. -/

/-- The contactors' work at CYC (R277, R279, R280). -/
def State.contactorTick (s : State) : State :=
  let s := s.kcDue.kcSafe
  let s := forEach (fun k s => s.kcCompare k) (upFrom 0 4) s
  s.iff s.counted State.fixPlans

/-! What the active stand keeps in Ford (R446, R590). -/

/-- Ford's copies: the shadow count, the grove keys, the beacon counters renewed at half, and the safe table. -/
def State.fordCopies (s : State) : State :=
  let s := s.takeShadow
  let key (g : Nat) : Nat :=
    if s.grovesInUse.contains g && s.slotLive (16 + 8 * s.key.half + g) then s.key.generation else 0
  let s := { s with ford := { s.ford with
    keys := (upFrom 0 8).map key
    reserve := s.ford.reserve.map fun n => if n ≤ 524288 then 1048576 else n } }
  s.iff s.can.loaded State.fillSafe

/-! Nodes at CYC. -/

/-- The DAY item is flooded when a day begins for which it was not (R273). -/
def State.dayFlood (s : State) : State :=
  match s.dim.day with
  | some (d, t, m) =>
    if s.dim.flooded = some d then s
    else
      let s := forEach (fun g s => s.floodItem g 0x00F1 (dayOctets t ++ dayOctets m) 0) s.grovesInUse s
      { s with dim := { s.dim with flooded := some d } }
  | none => s

/-- An RF test ends when TRX8 is not ready any more (R541). -/
def State.testTick (s : State) : State :=
  s.iff (s.mon.rfTest.isSome && decide (s.trxState 8 ≠ 2)) State.endTest

/-- What the serving module does at a CYC besides counting, metering and its outputs. -/
def State.serviceTick (s : State) : State :=
  let s := s.plainActivation.clearingTick.clearingsLeave.regulatoryTick.switchTick.stageTick.rebootTick.endedTick.sliceTick
  let s := s.switchGroveKeys.noteUngranted
  let s := s.iff (decide (s.sys.phase = .running)) State.groveKeysReady
  let s := s.reloadRoutes.dayFlood.rerouteAll
  let s := s.recoverPromises.checkRejoin.caravanTick
  s.markAll.testTick

/-! The tick. -/

/-- CYC(n) and the first slot of cycle n (R27, R34). A reboot at this CYC (R517) ends it: the stand starts anew. -/
def State.cycle (s : State) (sums : List PhaseSum) (rms : List Nat) (clipped : List (Fin 16)) (busy : List Nat) : State :=
  let s := s.lateLatch.countCycle
  let s := s.configTick.meterCycle sums rms clipped
  let loaded := s.can.loaded
  let s := if s.ford.safeHold then s.holdReboot else s.serviceTick
  if loaded && !s.can.loaded then s
  else
    let s := if s.ford.safeHold then s else s.endStartSafe.contactorTick.profileTick
    let s := s.drvTick.promiseTick.autoDormTick.dormTick
    let s := if s.ford.safeHold then s else s.fordCopies
    let silent := s.longSilent
    (s.slotStart busy).noteFirstBeacon silent

/-- CYCLE_TICK (R27): with what the meter tiles summed over the cycle that ended, the transceivers that find their channel
busy, and what the power meters read. Nothing is ticked before cycles are counted (R68). -/
def execCycleTick (sums : List PhaseSum) (rms : List Nat) (clipped : List (Fin 16)) (busy : List Nat) (power mj : Fin 65536)
    (pct : Fin 256) (s : State) : Host.Outcome State Fault Refusal :=
  .next (s.whenLive fun s => s.iff s.time.counting fun s =>
    let s := (s.cycle sums rms clipped busy).setStore mj.val pct.val
    { s with sys := { s.sys with powerIn := power.val, powerPeak := max s.sys.powerPeak power.val } })

/-- SLOT_MIDPOINT (R28, R31): the second slot begins; the plan cut-off of the next cycle passes, by which the engines have
written its steps or not. -/
def execSlotMidpoint (busy : List Nat) (planned : Bool) (s : State) : Host.Outcome State Fault Refusal :=
  .next (s.whenLive fun s => s.iff (s.time.counting && !s.time.second) fun s =>
    let s := if s.ford.safeHold then s.shadowSecond else s.beginSecond
    let s := { s with time := { s.time with planReady := planned } }
    let silent := s.longSilent
    (s.slotStart busy).noteFirstBeacon silent)

end Sys2Proof.Machine
end

