-- ==== Sys2Proof/Machine/Dispatch.lean ====
section
/-! DEFINITION. Every command and its meaning. -/

namespace Sys2Proof.Machine

-- The effect of a command on everything but the queue of waiting commands.
def exec (i : Instr) (s : State) : Host.Outcome State Fault Refusal :=
  match i with
  | .cycleTick sums rms clipped busy power mj pct => Sys2Proof.Machine.execCycleTick sums rms clipped busy power mj pct s
  | .slotMidpoint busy planned => Sys2Proof.Machine.execSlotMidpoint busy planned s
  | .zcMeasured ofs tick ofsUs => Sys2Proof.Machine.execZcMeasured ofs tick ofsUs s
  | .mainsTimeout tick => Sys2Proof.Machine.execMainsTimeout tick s
  | .timeSnap value tick => Sys2Proof.Machine.execTimeSnap value tick s
  | .ptpMessage port tick msg => Sys2Proof.Machine.execPtpMessage port tick msg s
  | .ptpPortUnmute port => Sys2Proof.Machine.execPtpPortUnmute port s
  | .ptpSourceMiss port announce => Sys2Proof.Machine.execPtpSourceMiss port announce s
  | .ppsInEdge rising tick => Sys2Proof.Machine.execPpsInEdge rising tick s
  | .ppsInMiss => Sys2Proof.Machine.execPpsInMiss s
  | .timeRearm value w => Sys2Proof.Machine.execTimeRearm value w s
  | .timeSrcWrite value w => Sys2Proof.Machine.execTimeSrcWrite value w s
  | .mainsCfgWrite value w => Sys2Proof.Machine.execMainsCfgWrite value w s
  | .waymark sess role tx body => Sys2Proof.Machine.execWaymark sess role tx body s
  | .syncInPulse rising tick widthUs => Sys2Proof.Machine.execSyncInPulse rising tick widthUs s
  | .syncRealign value w => Sys2Proof.Machine.execSyncRealign value w s
  | .triggerArm unit value tick w => Sys2Proof.Machine.execTriggerArm unit value tick w s
  | .triggerFire unit tick => Sys2Proof.Machine.execTriggerFire unit tick s
  | .captureEdge channel rising tick sub => Sys2Proof.Machine.execCaptureEdge channel rising tick sub s
  | .capturePop channel value => Sys2Proof.Machine.execCapturePop channel value s
  | .dutyBinRoll => Sys2Proof.Machine.execDutyBinRoll s
  | .frameReceived grove frame => Sys2Proof.Machine.execFrameReceived grove frame s
  | .ledgerUnmute place => Sys2Proof.Machine.execLedgerUnmute place s
  | .trx8Takeover value w => Sys2Proof.Machine.execTrx8Takeover value w s
  | .transceiverFault t => Sys2Proof.Machine.execTransceiverFault t s
  | .radCntClr value w => Sys2Proof.Machine.execRadCntClr value w s
  | .ledgerRead => Sys2Proof.Machine.execLedgerRead s
  | .ledgerWrite => Sys2Proof.Machine.execLedgerWrite s
  | .ledgerClear => Sys2Proof.Machine.execLedgerClear s
  | .safeieWrite value w => Sys2Proof.Machine.execSafeieWrite value w s
  | .trxCtrlWrite t value w => Sys2Proof.Machine.execTrxCtrlWrite t value w s
  | .joinReq grove proxy seq body mic => Sys2Proof.Machine.execJoinReq grove proxy seq body mic s
  | .keepalive msg => Sys2Proof.Machine.execKeepalive msg s
  | .report msg => Sys2Proof.Machine.execReport msg s
  | .balanceDeadline feeder ended => Sys2Proof.Machine.execBalanceDeadline feeder ended s
  | .tally msg => Sys2Proof.Machine.execTally msg s
  | .nak msg => Sys2Proof.Machine.execNak msg s
  | .fault msg => Sys2Proof.Machine.execFault msg s
  | .chunkState msg => Sys2Proof.Machine.execChunkState msg s
  | .digestQuery msg => Sys2Proof.Machine.execDigestQuery msg s
  | .grantKeepaliveTimeout short => Sys2Proof.Machine.execGrantKeepaliveTimeout short s
  | .keepalivePeriodEnd short => Sys2Proof.Machine.execKeepalivePeriodEnd short s
  | .reservationEnd place => Sys2Proof.Machine.execReservationEnd place s
  | .admitArrive sess role deadline tx body => Sys2Proof.Machine.execAdmitArrive sess role deadline tx body s
  | .admitDecision => Sys2Proof.Machine.execAdmitDecision s
  | .outcomeDeadline id => Sys2Proof.Machine.execOutcomeDeadline id s
  | .queryNoAnswer id short => Sys2Proof.Machine.execQueryNoAnswer id short s
  | .rejoinTimeout => Sys2Proof.Machine.execRejoinTimeout s
  | .tlsHandshake path signed chained exporter => Sys2Proof.Machine.execTlsHandshake path signed chained exporter s
  | .handshakeTimeout since => Sys2Proof.Machine.execHandshakeTimeout since s
  | .fspHeaderFault sess header => Sys2Proof.Machine.execFspHeaderFault sess header s
  | .fspWrongType sess type tx => Sys2Proof.Machine.execFspWrongType sess type tx s
  | .hello sess role tx body => Sys2Proof.Machine.execHello sess role tx body s
  | .roleChallenge sess role tx body => Sys2Proof.Machine.execRoleChallenge sess role tx body s
  | .roleProof sess role tx body => Sys2Proof.Machine.execRoleProof sess role tx body s
  | .roleLapse sess => Sys2Proof.Machine.execRoleLapse sess s
  | .pushAck sess role type seq => Sys2Proof.Machine.execPushAck sess role type seq s
  | .meterRead sess role tx body => Sys2Proof.Machine.execMeterRead sess role tx body s
  | .waybillRead sess role tx body => Sys2Proof.Machine.execWaybillRead sess role tx body s
  | .waybillClear sess role tx body => Sys2Proof.Machine.execWaybillClear sess role tx body s
  | .configPut sess role tx body => Sys2Proof.Machine.execConfigPut sess role tx body s
  | .configGet sess role tx body => Sys2Proof.Machine.execConfigGet sess role tx body s
  | .digest sess role tx body => Sys2Proof.Machine.execDigest sess role tx body s
  | .updateOffer sess role tx body signed => Sys2Proof.Machine.execUpdateOffer sess role tx body signed s
  | .updateChunk sess role tx body tag plain => Sys2Proof.Machine.execUpdateChunk sess role tx body tag plain s
  | .updateState sess role tx body => Sys2Proof.Machine.execUpdateState sess role tx body s
  | .updateActivate sess role tx body => Sys2Proof.Machine.execUpdateActivate sess role tx body s
  | .registerWindowRead sess role tx body => Sys2Proof.Machine.execRegisterWindowRead sess role tx body s
  | .registerWindowWrite sess role tx body => Sys2Proof.Machine.execRegisterWindowWrite sess role tx body s
  | .sessionIdle sess => Sys2Proof.Machine.execSessionIdle sess s
  | .sessionClose sess => Sys2Proof.Machine.execSessionClose sess s
  | .modemOpen => Sys2Proof.Machine.execModemOpen s
  | .dialLineAnswer ok connect => Sys2Proof.Machine.execDialLineAnswer ok connect s
  | .dialTimeout => Sys2Proof.Machine.execDialTimeout s
  | .modemClose => Sys2Proof.Machine.execModemClose s
  | .modemRetry => Sys2Proof.Machine.execModemRetry s
  | .modemCtsChange asserted => Sys2Proof.Machine.execModemCtsChange asserted s
  | .uartOctet port data framing brk => Sys2Proof.Machine.execUartOctet port data framing brk s
  | .ethLinkChange port up => Sys2Proof.Machine.execEthLinkChange port up s
  | .kcFeedbackChange k level => Sys2Proof.Machine.execKcFeedbackChange k level s
  | .contactorFeedbackTimeout k => Sys2Proof.Machine.execContactorFeedbackTimeout k s
  | .contactorRetryPulseEnd k => Sys2Proof.Machine.execContactorRetryPulseEnd k s
  | .routeBinEnd => Sys2Proof.Machine.execRouteBinEnd s
  | .routeRetune => Sys2Proof.Machine.execRouteRetune s
  | .waveReceived grove wave => Sys2Proof.Machine.execWaveReceived grove wave s
  | .waveHoldEnd l => Sys2Proof.Machine.execWaveHoldEnd l s
  | .channelFault c => Sys2Proof.Machine.execChannelFault c s
  | .msealChange isOpen => Sys2Proof.Machine.execMsealChange isOpen s
  | .metrologyRegisterWrite addr value w => Sys2Proof.Machine.execMetrologyRegisterWrite addr value w s
  | .latchNWrite value w => Sys2Proof.Machine.execLatchNWrite value w s
  | .calStart value w => Sys2Proof.Machine.execCalStart value w s
  | .calDone p q rms dc => Sys2Proof.Machine.execCalDone p q rms dc s
  | .phaseAbsent phase => Sys2Proof.Machine.execPhaseAbsent phase s
  | .meterCheckpoint => Sys2Proof.Machine.execMeterCheckpoint s
  | .regSelWrite value w => Sys2Proof.Machine.execRegSelWrite value w s
  | .pwmFrameStart meas ntc base => Sys2Proof.Machine.execPwmFrameStart meas ntc base s
  | .stringRetry c => Sys2Proof.Machine.execStringRetry c s
  | .dieOvercurrent c again => Sys2Proof.Machine.execDieOvercurrent c again s
  | .dieOvervoltage c => Sys2Proof.Machine.execDieOvervoltage c s
  | .gateSupplyLow die => Sys2Proof.Machine.execGateSupplyLow die s
  | .gateSupplyRestored die => Sys2Proof.Machine.execGateSupplyRestored die s
  | .stringLearn c w => Sys2Proof.Machine.execStringLearn c w s
  | .stringLearnDone c => Sys2Proof.Machine.execStringLearnDone c s
  | .stringClear c w => Sys2Proof.Machine.execStringClear c w s
  | .drvCntClr value w => Sys2Proof.Machine.execDrvCntClr value w s
  | .ntcFault n mv => Sys2Proof.Machine.execNtcFault n mv s
  | .halfFailure die => Sys2Proof.Machine.execHalfFailure die s
  | .colourWindowEnd port x y z c sat => Sys2Proof.Machine.execColourWindowEnd port x y z c sat s
  | .twLearn g w => Sys2Proof.Machine.execTwLearn g w s
  | .peStart p w => Sys2Proof.Machine.execPeStart p w s
  | .peStop p w => Sys2Proof.Machine.execPeStop p w s
  | .peTimedStart p tick => Sys2Proof.Machine.execPeTimedStart p tick s
  | .incInEdge rising tick sub => Sys2Proof.Machine.execIncInEdge rising tick sub s
  | .evacStart => Sys2Proof.Machine.execEvacStart s
  | .evacEnd => Sys2Proof.Machine.execEvacEnd s
  | .evacRelease w => Sys2Proof.Machine.execEvacRelease w s
  | .clearingFix => Sys2Proof.Machine.execClearingFix s
  | .clearingEnd => Sys2Proof.Machine.execClearingEnd s
  | .segmentDigestRefresh => Sys2Proof.Machine.execSegmentDigestRefresh s
  | .queuePush q data parity => Sys2Proof.Machine.execQueuePush q data parity s
  | .queueRead q disturb1 disturb2 => Sys2Proof.Machine.execQueueRead q disturb1 disturb2 s
  | .rowCopyDone row => Sys2Proof.Machine.execRowCopyDone row s
  | .queCntClr value w => Sys2Proof.Machine.execQueCntClr value w s
  | .queuePeakRestart q value => Sys2Proof.Machine.execQueuePeakRestart q value s
  | .sourceFiring source kind payload => Sys2Proof.Machine.execSourceFiring source kind payload s
  | .coalesceTimeout source => Sys2Proof.Machine.execCoalesceTimeout source s
  | .evtDone engine value => Sys2Proof.Machine.execEvtDone engine value s
  | .ringConsWrite engine prio value => Sys2Proof.Machine.execRingConsWrite engine prio value s
  | .ringCfgWrite engine prio value => Sys2Proof.Machine.execRingCfgWrite engine prio value s
  | .ringMaskWrite engine value => Sys2Proof.Machine.execRingMaskWrite engine value s
  | .handlerEntry engine => Sys2Proof.Machine.execHandlerEntry engine s
  | .handlerExit engine => Sys2Proof.Machine.execHandlerExit engine s
  | .divergence cls pin tag => Sys2Proof.Machine.execDivergence cls pin tag s
  | .heartbeatLost stand hold => Sys2Proof.Machine.execHeartbeatLost stand hold s
  | .standClaim stand => Sys2Proof.Machine.execStandClaim stand s
  | .withdraw stand causes hold => Sys2Proof.Machine.execWithdraw stand causes hold s
  | .diagnosisAnswer stand causes hold => Sys2Proof.Machine.execDiagnosisAnswer stand causes hold s
  | .diagnosisTimeout hold => Sys2Proof.Machine.execDiagnosisTimeout hold s
  | .fordOutvote copy cycle => Sys2Proof.Machine.execFordOutvote copy cycle s
  | .standTestDone stand pass => Sys2Proof.Machine.execStandTestDone stand pass s
  | .learningCopyDone => Sys2Proof.Machine.execLearningCopyDone s
  | .probationEnd => Sys2Proof.Machine.execProbationEnd s
  | .plannedSwitchRequest w => Sys2Proof.Machine.execPlannedSwitchRequest w s
  | .safeHoldResume stand agree out w => Sys2Proof.Machine.execSafeHoldResume stand agree out w s
  | .safeHoldResumeForce stand agree out w => Sys2Proof.Machine.execSafeHoldResumeForce stand agree out w s
  | .standRelease stand w => Sys2Proof.Machine.execStandRelease stand w s
  | .clockSelect sel w => Sys2Proof.Machine.execClockSelect sel w s
  | .tcxoLost which => Sys2Proof.Machine.execTcxoLost which s
  | .tcxoPresent which ofs => Sys2Proof.Machine.execTcxoPresent which ofs s
  | .lastgaspClear w => Sys2Proof.Machine.execLastgaspClear w s
  | .sliceFix stand lead => Sys2Proof.Machine.execSliceFix stand lead s
  | .sliceRunEnd stand kind index patterns complete misr expected => Sys2Proof.Machine.execSliceRunEnd stand kind index patterns complete misr expected s
  | .coppiceStarved stand kind index => Sys2Proof.Machine.execCoppiceStarved stand kind index s
  | .idlePathSlice item => Sys2Proof.Machine.execIdlePathSlice item s
  | .idlePathEnd pass => Sys2Proof.Machine.execIdlePathEnd pass s
  | .coppiceRun w => Sys2Proof.Machine.execCoppiceRun w s
  | .coppiceDestruct run w => Sys2Proof.Machine.execCoppiceDestruct run w s
  | .suspectRelease kind index w => Sys2Proof.Machine.execSuspectRelease kind index w s
  | .copCntClr w => Sys2Proof.Machine.execCopCntClr w s
  | .keyWrite slot w => Sys2Proof.Machine.execKeyWrite slot w s
  | .keyDerive slot w => Sys2Proof.Machine.execKeyDerive slot w s
  | .keyGenerate slot w => Sys2Proof.Machine.execKeyGenerate slot w s
  | .keyErase slot w => Sys2Proof.Machine.execKeyErase slot w s
  | .rotateGrove w => Sys2Proof.Machine.execRotateGrove w s
  | .keyCommandComplete => Sys2Proof.Machine.execKeyCommandComplete s
  | .keySlotExpiry slot => Sys2Proof.Machine.execKeySlotExpiry slot s
  | .attest w => Sys2Proof.Machine.execAttest w s
  | .tamperInputChange n high tick sub => Sys2Proof.Machine.execTamperInputChange n high tick sub s
  | .tamperQualified n tick => Sys2Proof.Machine.execTamperQualified n tick s
  | .meshCheck ok => Sys2Proof.Machine.execMeshCheck ok s
  | .keyTmpMaint value w => Sys2Proof.Machine.execKeyTmpMaint value w s
  | .maintWindowEnd => Sys2Proof.Machine.execMaintWindowEnd s
  | .keyTmpClear value w => Sys2Proof.Machine.execKeyTmpClear value w s
  | .validationDone decrypted signed => Sys2Proof.Machine.execValidationDone decrypted signed s
  | .staged measured areaGood => Sys2Proof.Machine.execStaged measured areaGood s
  | .shadowCaughtUp => Sys2Proof.Machine.execShadowCaughtUp s
  | .catchupTimeout => Sys2Proof.Machine.execCatchupTimeout s
  | .shadowEnd => Sys2Proof.Machine.execShadowEnd s
  | .confirmWindowEnd => Sys2Proof.Machine.execConfirmWindowEnd s
  | .confirmCheckFail check reason => Sys2Proof.Machine.execConfirmCheckFail check reason s
  | .rebootDone measured areaGood => Sys2Proof.Machine.execRebootDone measured areaGood s
  | .updateLapse => Sys2Proof.Machine.execUpdateLapse s
  | .updateAbort w => Sys2Proof.Machine.execUpdateAbort w s
  | .waybillHappening stand role source id reason tagged payload tick => Sys2Proof.Machine.execWaybillHappening stand role source id reason tagged payload tick s
  | .recorderWrite readBack => Sys2Proof.Machine.execRecorderWrite readBack s
  | .wayCntClr value w => Sys2Proof.Machine.execWayCntClr value w s
  | .monHelp => Sys2Proof.Machine.execMonHelp s
  | .monLogin role => Sys2Proof.Machine.execMonLogin role s
  | .monProof proof => Sys2Proof.Machine.execMonProof proof s
  | .monProofLapse => Sys2Proof.Machine.execMonProofLapse s
  | .monLogout => Sys2Proof.Machine.execMonLogout s
  | .monBaud rate => Sys2Proof.Machine.execMonBaud rate s
  | .monSel stand => Sys2Proof.Machine.execMonSel stand s
  | .monRd addr count => Sys2Proof.Machine.execMonRd addr count s
  | .monWr addr value => Sys2Proof.Machine.execMonWr addr value s
  | .monQ q count => Sys2Proof.Machine.execMonQ q count s
  | .monWb seq count => Sys2Proof.Machine.execMonWb seq count s
  | .monWbclear seq => Sys2Proof.Machine.execMonWbclear seq s
  | .monStatus => Sys2Proof.Machine.execMonStatus s
  | .monCop => Sys2Proof.Machine.execMonCop s
  | .monDrover => Sys2Proof.Machine.execMonDrover s
  | .monAtt chal => Sys2Proof.Machine.execMonAtt chal s
  | .monTamperMaint minutes => Sys2Proof.Machine.execMonTamperMaint minutes s
  | .monTamperClear => Sys2Proof.Machine.execMonTamperClear s
  | .monRftx phy channel power seconds => Sys2Proof.Machine.execMonRftx phy channel power seconds s
  | .rftxEnd => Sys2Proof.Machine.execRftxEnd s
  | .monUnknown malformed => Sys2Proof.Machine.execMonUnknown malformed s
  | .monMuteEnd => Sys2Proof.Machine.execMonMuteEnd s
  | .monIdle => Sys2Proof.Machine.execMonIdle s
  | .kcOvercurrent k => Sys2Proof.Machine.execKcOvercurrent k s
  | .kcOpenLoad k isOpen => Sys2Proof.Machine.execKcOpenLoad k isOpen s
  | .modPowerOvercurrent ma ok => Sys2Proof.Machine.execModPowerOvercurrent ma ok s
  | .supplyInputChange b x voltA voltB => Sys2Proof.Machine.execSupplyInputChange b x voltA voltB s
  | .supplyReturn => Sys2Proof.Machine.execSupplyReturn s
  | .powerFail tick sums => Sys2Proof.Machine.execPowerFail tick sums s
  | .powerDip => Sys2Proof.Machine.execPowerDip s
  | .holdoverStop => Sys2Proof.Machine.execHoldoverStop s
  | .retentionLost => Sys2Proof.Machine.execRetentionLost s
  | .voltageMonitor stand hold => Sys2Proof.Machine.execVoltageMonitor stand hold s
  | .dormancyEnter value w => Sys2Proof.Machine.execDormancyEnter value w s
  | .dormancyAuto => Sys2Proof.Machine.execDormancyAuto s
  | .dormancyEntry => Sys2Proof.Machine.execDormancyEntry s
  | .dormancyPowerDown => Sys2Proof.Machine.execDormancyPowerDown s
  | .dormancyWake source seconds good => Sys2Proof.Machine.execDormancyWake source seconds good s
  | .thermalHot temp => Sys2Proof.Machine.execThermalHot temp s
  | .thermalTrip temp tick sums => Sys2Proof.Machine.execThermalTrip temp tick sums s
  | .thermalRelease temp => Sys2Proof.Machine.execThermalRelease temp s
  | .peakRestart w => Sys2Proof.Machine.execPeakRestart w s
  | .powerUp b voltA voltB base good => Sys2Proof.Machine.execPowerUp b voltA voltB base good s
  | .bootMeasurement stand drover firmware good backup => Sys2Proof.Machine.execBootMeasurement stand drover firmware good backup s
  | .canopyLoaded octets => Sys2Proof.Machine.execCanopyLoaded octets s
  | .prefTimeout tick => Sys2Proof.Machine.execPrefTimeout tick s
  | .moduleReset value w => Sys2Proof.Machine.execModuleReset value w s
  | .registerWrite addr value w => Sys2Proof.Machine.execRegisterWrite addr value w s
  | .phaseValidCrossing phase => Sys2Proof.Machine.execPhaseValidCrossing phase s
  | .unitFallsDue stand kind index => Sys2Proof.Machine.execUnitFallsDue stand kind index s
  | .standRewritten stand => Sys2Proof.Machine.execStandRewritten stand s
  | .storeRecharged mj pct => Sys2Proof.Machine.execStoreRecharged mj pct s
  | .rs485IdleAfterFrame port => Sys2Proof.Machine.execRs485IdleAfterFrame port s

end Sys2Proof.Machine
end

