-- ==== Sys2Proof/Safety.lean ====
section
/-! DEFINITION. What a state of the module keeps whatever it is commanded, and how a state may grow out of another. -/

namespace Sys2Proof.Machine

/-- The stored register words are in canonical form: addresses rise strictly, and no word listed is the reset value of
its address, so equal contents are equal lists. -/
def canonicalRegs (t : Table Word) : Bool :=
  tsorted t && t.all fun p => decide (p.2.toNat ≠ resetWord p.1)

/-- The bounded stores of the module hold no more than the spec gives them room for, and the register words are
canonical. -/
structure State.Inv (s : State) : Prop where
  /-- The recorder's staging buffer holds 64 records (R529). -/
  staging : s.way.staging.length ≤ 64
  /-- The ring holds no more records than its capacity (R532, R534). -/
  ring : s.way.ring.length ≤ s.way.capacity
  /-- The crossing history holds 1,024 crossings (R59). -/
  history : s.time.history.length ≤ 1024
  /-- Each capture channel's FIFO holds 8 captures (R84). -/
  captures : ∀ c ∈ s.time.captures, c.fifo.length ≤ 8
  regs : canonicalRegs s.regs = true

/-- One state grows out of another: what held of its stores still holds, its build and its queue are the same, and
nothing the module has sent is taken back. -/
structure Evolves (s t : State) : Prop where
  inv : s.Inv → t.Inv
  build : t.build = s.build
  pending : t.pending = s.pending
  out : s.out <+: t.out

/-- A choice of parts of the state. -/
structure Blocks where
  cn : Bool := false
  time : Bool := false
  mtr : Bool := false
  rad : Bool := false
  node : Bool := false
  adm : Bool := false
  fsp : Bool := false
  dim : Bool := false
  drv : Bool := false
  can : Bool := false
  que : Bool := false
  evt : Bool := false
  ford : Bool := false
  cop : Bool := false
  key : Bool := false
  upd : Bool := false
  way : Bool := false
  mon : Bool := false
  fld : Bool := false
  sys : Bool := false
  regs : Bool := false
  out : Bool := false
  freeIdx : Bool := false
  deriving DecidableEq, Repr

/-- The chosen parts of a state blanked out. -/
def State.forget (b : Blocks) (s : State) : State :=
  { s with
    cn := bif b.cn then 0 else s.cn
    time := bif b.time then {} else s.time
    mtr := bif b.mtr then {} else s.mtr
    rad := bif b.rad then {} else s.rad
    node := bif b.node then {} else s.node
    adm := bif b.adm then {} else s.adm
    fsp := bif b.fsp then {} else s.fsp
    dim := bif b.dim then {} else s.dim
    drv := bif b.drv then {} else s.drv
    can := bif b.can then {} else s.can
    que := bif b.que then {} else s.que
    evt := bif b.evt then {} else s.evt
    ford := bif b.ford then {} else s.ford
    cop := bif b.cop then {} else s.cop
    key := bif b.key then {} else s.key
    upd := bif b.upd then {} else s.upd
    way := bif b.way then {} else s.way
    mon := bif b.mon then {} else s.mon
    fld := bif b.fld then {} else s.fld
    sys := bif b.sys then {} else s.sys
    regs := bif b.regs then [] else s.regs
    out := bif b.out then [] else s.out
    freeIdx := bif b.freeIdx then 0 else s.freeIdx
  }

/-- Two states are alike outside the chosen parts: every other block, the build and the queue. -/
def Keeps (b : Blocks) (s t : State) : Prop :=
  t.forget b = s.forget b

/-- One stored register reads a value, and every other one reads as in another state. -/
def RegsWith (s t : State) (a v : Nat) : Prop :=
  t.reg a = v ∧ ∀ b, b ≠ a → t.reg b = s.reg b

end Sys2Proof.Machine
end

