-- ==== Sys2Proof/Certificates/Slice0/Obligations.lean ====
section
/-! DEFINITION. The statements for the provers. A clause about a command says that `exec` answers a next state under
conditions on the state and the operands alone, what that state holds, and (by `Keeps`, or by naming the whole next
state) which parts of the state stay as they were. Commands act while a stand runs (`live`; log 6). -/

section Obligations

open Sys2Proof Sys2Proof.Machine


/-! Time sources, servo and PTP (02). -/

/-- R45: a write of 1 to TIME_SNAP copies city time, CN and the ticks since CYC together, and nothing else changes but the
passing of time to the instant of the write. -/
def Obligations.SnapshotCopiesTimeAndCnTogether : Prop :=
  ∀ (s : State) (value : Word) (tick : Nat), s.live = true → bit 0 value.toNat = true →
    ∃ t, exec (.timeSnap value tick) s = .next t
      ∧ t.time = { (s.advanceTo tick).time with
          snap := { city := (s.advanceTo tick).time.city, cn := s.cn, tick := max s.time.tsc tick } }
      ∧ Keeps { time := true } s t

/-- R52, R55, Table 2.1: the third missed message of the source in use ends it; a locked timebase with no other valid source
goes to HOLDOVER. PPS_IN (R55, R611): the selected edge, while a PTP port is the source in use, makes PPS_IN valid again and
moves no time; a missed second short of the third is only counted. -/
def Obligations.PpsMissesEnterHoldover : Prop :=
  ((∀ (s : State), s.live = true → s.time.source = some (.ptp 0) → 0 < s.time.ports.length →
      (lget {} 0 s.time.ports).syncMiss = 2 → s.time.tstate = .locked → s.time.valid1 = false → s.time.validPps = false →
      ∃ t, exec (.ptpSourceMiss 0 false) s = .next t ∧ t.time.tstate = .holdover ∧ t.time.source = none
        ∧ t.time.valid0 = false ∧ Keeps { evt := true, freeIdx := true, time := true, way := true } s t)
    ∧ (∀ (s : State), s.live = true → s.time.validPps = true → s.time.ppsMiss = 2 → s.time.source = some .pps →
        s.time.tstate = .locked → s.time.valid0 = false → s.time.valid1 = false →
        ∃ t, exec .ppsInMiss s = .next t ∧ t.time.tstate = .holdover ∧ t.time.source = none ∧ t.time.validPps = false
          ∧ Keeps { evt := true, freeIdx := true, time := true, way := true } s t))
  ∧ ((∀ (s : State) (rising : Bool) (tick : Nat) (p : Fin 2), s.live = true → bit 0 (s.reg 0x400200A0) = true →
      rising = !bit 1 (s.reg 0x400200A0) → s.selects .pps = true → s.time.source = some (.ptp p) →
      exec (.ppsInEdge rising tick) s = .next { s.advanceTo tick with
        fld := { s.fld with ppsIn := rising }
        time := { (s.advanceTo tick).time with validPps := true, ppsMiss := 0 } })
    ∧ (∀ (s : State) (rising : Bool) (tick : Nat), s.live = true →
        (bit 0 (s.reg 0x400200A0) = false ∨ rising = bit 1 (s.reg 0x400200A0)) →
        exec (.ppsInEdge rising tick) s = .next { s.advanceTo tick with fld := { s.fld with ppsIn := rising } })
    ∧ (∀ (s : State), s.live = true → s.time.validPps = true → s.time.ppsMiss < 2 →
        exec .ppsInMiss s = .next { s with time := { s.time with ppsMiss := s.time.ppsMiss + 1 } }))

/-- TIME_CTRL (R48, R611, R614): REARM from an installer takes a locked timebase, or one in HOLDOVER, back to LOCKING with
the step armed and JUMP clear; a write that selects no source sends a locked timebase to HOLDOVER. PTP (R51 to R53, R86): a
valid Announce ends the port's run of missed ones; a port in the master state answers a delay request; other domains,
management and unicast negotiation change nothing; a malformed message is a counted violation; the mute of a port ends at
its CN; a port that is not the source in use counts no miss, the one in use does. -/
def Obligations.SourcesAndPtpPorts : Prop :=
  ((∀ (s : State) (value : Word) (w : Writer), s.live = true → canonicalRegs s.regs = true → w.role = .installer →
      (s.time.tstate = .locked ∨ s.time.tstate = .holdover) →
      ∃ t, exec (.timeRearm value w) s = .next t ∧ t.time.tstate = .locking ∧ t.time.armed = true ∧ t.time.jump = false
        ∧ t.time.median = [] ∧ Keeps { evt := true, freeIdx := true, regs := true, time := true, way := true } s t)
    ∧ (∀ (s : State) (value : Word) (w : Writer) (x : TSource), s.live = true → canonicalRegs s.regs = true →
        value.toNat % 4 = 3 → bit 3 value.toNat = false → x ≠ .pps → s.time.tstate = .locked → s.time.source = some x →
        s.time.validPps = false →
        ∃ t, exec (.timeSrcWrite value w) s = .next t ∧ t.time.tstate = .holdover ∧ t.time.source = none
          ∧ RegsWith s t 0x40020000 (value.toNat &&& 0x107)
          ∧ Keeps { evt := true, freeIdx := true, regs := true, time := true, way := true } s t))
  ∧ ((∀ (s : State) (p : Fin 2) (tick : Nat), s.live = true → s.sliced (s.can.slotOf .ptp p.val) = false →
      bit 0 (s.ptpCtrl p) = true → (lget {} p.val s.time.ports).muteEnd = none →
      (∃ t, exec (.ptpMessage p tick .announce) s = .next t
        ∧ t.time = { (s.advanceTo tick).time with ports := lmod (fun q => { q with announceMiss := 0 }) p.val s.time.ports }
        ∧ Keeps { time := true } s t)
      ∧ exec (.ptpMessage p tick .otherDomain) s = .next (s.advanceTo tick)
      ∧ exec (.ptpMessage p tick .management) s = .next (s.advanceTo tick)
      ∧ (bit 1 (s.ptpCtrl p) = true →
          exec (.ptpMessage p tick .delayReq) s = .next ((s.advanceTo tick).emit (.ptp p 2)))
      ∧ (∃ t, exec (.ptpMessage p tick .malformed) s = .next t
          ∧ t.time.viol = min 65535 (s.time.viol + 1)
          ∧ Keeps { time := true, evt := true, way := true } s t))
    ∧ (∀ (s : State) (p : Fin 2) (e : Cn), s.live = true → (lget {} p.val s.time.ports).muteEnd = some e → e ≤ s.cn →
        ∃ t, exec (.ptpPortUnmute p) s = .next t
          ∧ t.time = { s.time with ports := lmod (fun q => { q with muteEnd := none }) p.val s.time.ports }
          ∧ Keeps { time := true } s t)
    ∧ (∀ (s : State) (p : Fin 2), s.live = true → s.time.source = some (.ptp p) →
        (lget {} p.val s.time.ports).announceMiss < 2 → p.val < s.time.ports.length →
        ∃ t, exec (.ptpSourceMiss p true) s = .next t
          ∧ t.time = { s.time with
              ports := lmod (fun q => { q with announceMiss := q.announceMiss + 1 }) p.val s.time.ports }
          ∧ Keeps { time := true } s t))

/-! The mains, SYNC_IN, triggers and captures (01, 02). -/

/-- R70, R73: without a valid crossing within TIMEOUT of the last one the mains is absent; the phase error is dropped,
crossings are counted anew, and an attributed count free-runs. The count itself stands. R61, R605: an installer's write of
TIME_MAINS_CFG within its ranges stores NOMINAL and TIMEOUT; neither the nominal frequency in force nor the timeout in force
changes yet. -/
def Obligations.MainsTimeoutAndConfiguration : Prop :=
  (∀ (s : State) (tick v : Nat), s.live = true → s.time.absent = false → s.time.counting = true →
      s.time.lastValid = some v → v + 100000 * s.time.timeoutMs ≤ s.time.ref + (tick - s.time.tsc) →
      ∃ t, exec (.mainsTimeout tick) s = .next t ∧ t.time.absent = true ∧ t.time.phaseErr = 0 ∧ t.time.returned = 0
        ∧ t.time.mstate = (if s.time.mstate = .unattributed then .unattributed else .freeRun)
        ∧ t.cn = s.cn ∧ t.time.city = (s.advanceTo tick).time.city
        ∧ Keeps { adm := true, evt := true, time := true, way := true } s t)
  ∧ (∀ (s : State) (value : Word) (w : Writer), s.live = true → canonicalRegs s.regs = true → w.role = .installer →
      (field 7 0 value.toNat = 50 ∨ field 7 0 value.toNat = 60) → 30 ≤ field 23 16 value.toNat →
      field 23 16 value.toNat ≤ 100 →
      ∃ t, exec (.mainsCfgWrite value w) s = .next t
        ∧ RegsWith s t 0x40020050 (merge 0xFF00FF (s.reg 0x40020050) value.toNat)
        ∧ Keeps { evt := true, regs := true, way := true } s t)

/-- SYNC_IN (R76 to R79): a pulse at distance d from the scheduled boundary moves it where 1 ≤ |d| ≤ ⌊N/8⌋ and the interval
has not been moved; else it is ignored and counted; at d = 0 nothing moves; a pulse shorter than MINW is noise; REALIGN
starts the return of D to 0. -/
def Obligations.SyncInMovesOneBoundaryAnInterval : Prop :=
  (∀ (s : State) (rising : Bool) (tick width : Nat) (d : Int), s.live = true → bit 0 (s.reg 0x40020090) = true →
    rising = !bit 1 (s.reg 0x40020090) → s.syncDistance (s.cn + 1) = d →
    (field 15 8 (s.reg 0x40020090) ≤ width → d = 0 →
      exec (.syncInPulse rising tick width) s = .next (s.advanceTo tick))
    ∧ (field 15 8 (s.reg 0x40020090) ≤ width → d ≠ 0 → d.natAbs ≤ s.latchN / 8 → s.time.intervalMoved = false →
      ∃ t, exec (.syncInPulse rising tick width) s = .next t
        ∧ t.mtr = { s.mtr with nextLatch := ((s.mtr.nextLatch : Int) + d).toNat, moveD := d }
        ∧ t.time = { (s.advanceTo tick).time with
            syncOfs := (((s.time.syncOfs : Int) + d) % (max 1 s.latchN : Nat)).toNat
            syncD := d, syncMoved := true, intervalMoved := true }
        ∧ Keeps { evt := true, mtr := true, time := true, way := true } s t)
    ∧ (field 15 8 (s.reg 0x40020090) ≤ width → (s.latchN / 8 < d.natAbs ∨ (d ≠ 0 ∧ s.time.intervalMoved = true)) →
      ∃ t, exec (.syncInPulse rising tick width) s = .next t
        ∧ t.time = { (s.advanceTo tick).time with
            syncD := d, syncIgnored := true, syncViol := min 65535 (s.time.syncViol + 1) }
        ∧ Keeps { evt := true, time := true, way := true } s t)
    ∧ (width < field 15 8 (s.reg 0x40020090) →
      exec (.syncInPulse rising tick width) s = .next (s.advanceTo tick)))
  ∧ (∀ (s : State) (value : Word) (w : Writer), s.live = true → canonicalRegs s.regs = true → w.role = .installer → 1 ≤ field 15 8 value.toNat →
      ∃ t, exec (.syncRealign value w) s = .next t
        ∧ t.time = { s.time with realign := decide (s.time.syncOfs ≠ 0) }
        ∧ Keeps { evt := true, regs := true, time := true, way := true } s t)

/-- Triggers (R81, R82, Table 2.9): ARM before the instant arms; an armed one that reaches its CN, with no target, fires
once and posts its event where EVENT is set; one that has not reached its instant does nothing. Captures (R84): a selected
edge enters the channel's FIFO of 8 with CN and city time; one that finds it full is dropped and sets OVR; an edge not
selected leaves the FIFO; a pop removes the head. -/
def Obligations.TriggersAndCaptures : Prop :=
  ((∀ (s : State) (k : Fin 16) (value : Word) (tick : Nat) (w : Writer), s.live = true → canonicalRegs s.regs = true →
      field 5 2 value.toNat = 0 → bit 1 value.toNat = false →
      s.cn < field 7 0 (s.reg (0x40020108 + 0x20 * k.val)) * 4294967296 + s.reg (0x40020104 + 0x20 * k.val) →
      ∃ t, exec (.triggerArm k value tick w) s = .next t
        ∧ t.time = { (s.advanceTo tick).time with triggers := lmod (fun x => { x with armed := true }) k.val s.time.triggers }
        ∧ Keeps { evt := true, regs := true, time := true, way := true } s t)
    ∧ (∀ (s : State) (k : Fin 16) (tick : Nat), s.live = true → (lget {} k.val s.time.triggers).armed = true →
        (s.advanceTo tick).trgReached k = true → field 5 2 (s.reg (0x40020100 + 0x20 * k.val)) = 0 →
        ∃ t, exec (.triggerFire k tick) s = .next t
          ∧ t.time = { (s.advanceTo tick).time with
              triggers := lmod (fun x => { x with armed := false, fired := true }) k.val s.time.triggers }
          ∧ Keeps { evt := true, time := true } s t)
    ∧ (∀ (s : State) (k : Fin 16) (tick : Nat), s.live = true →
        ((lget {} k.val s.time.triggers).armed = false ∨ (s.advanceTo tick).trgReached k = false) →
        exec (.triggerFire k tick) s = .next (s.advanceTo tick)))
  ∧ ((∀ (s : State) (c : Fin 7) (rising : Bool) (tick : Nat) (sub : Fin 10), s.live = true → c ≠ 0 →
      bit (if rising then 0 else 1) (s.reg (0x40020300 + 0x20 * c.val)) = true →
      ((lget {} c.val s.time.captures).fifo.length < 8 →
        ∃ t e, exec (.captureEdge c rising tick sub) s = .next t
          ∧ t.time = { (s.advanceTo tick).time with
              captures := lmod (fun x => { x with fifo := x.fifo ++ [e] }) c.val s.time.captures }
          ∧ e.cn = s.cn ∧ e.rising = rising ∧ e.unset = decide (s.time.tstate = .unset)
          ∧ Keeps { evt := true, time := true } s t)
      ∧ (8 ≤ (lget {} c.val s.time.captures).fifo.length →
        ∃ t, exec (.captureEdge c rising tick sub) s = .next t
          ∧ t.time = { (s.advanceTo tick).time with
              captures := lmod (fun x => { x with ovr := true }) c.val s.time.captures }
          ∧ Keeps { evt := true, time := true } s t))
    ∧ (∀ (s : State) (c : Fin 7) (rising : Bool) (tick : Nat) (sub : Fin 10), s.live = true → c ≠ 0 →
        bit (if rising then 0 else 1) (s.reg (0x40020300 + 0x20 * c.val)) = false →
        exec (.captureEdge c rising tick sub) s = .next (s.advanceTo tick))
    ∧ (∀ (s : State) (c : Fin 7) (value : Word), s.live = true → bit 0 value.toNat = true →
        exec (.capturePop c value) s = .next { s with time := { s.time with
          captures := lmod (fun x => { x with fifo := x.fifo.drop 1 }) c.val s.time.captures } }))

/-! Counting cycles, crossings and waymarks (01, 02). -/

/-- R27, R446: at CYC in SAFE HOLD the count goes on from Ford's shadow: CN is one more, the ticks and the slots of the new
cycle start at 0, and the shadow holds the new count; in every state the power the meters read is taken. R28, R31: the
midpoint of a counted cycle begins its second slot and notes whether the engines wrote the next cycle's steps before the
cut-off; it leaves CN, the meters and the local outputs alone. A second midpoint of a cycle does nothing. -/
def Obligations.CyclesAndMidpointsCountOn : Prop :=
  ((∀ (s : State) (sums : List PhaseSum) (rms : List Nat) (clipped : List (Fin 16)) (busy : List Nat)
      (power mj : Fin 65536) (pct : Fin 256), s.live = true → s.time.counting = true →
      ∃ t, exec (.cycleTick sums rms clipped busy power mj pct) s = .next t ∧ t.sys.powerIn = power.val
        ∧ power.val ≤ t.sys.powerPeak ∧ t.sys.storeMj = mj.val ∧ t.sys.storePct = pct.val)
    ∧ (∀ (s : State) (sums : List PhaseSum) (rms : List Nat) (clipped : List (Fin 16)) (busy : List Nat)
        (power mj : Fin 65536) (pct : Fin 256), s.live = true → s.time.counting = true → s.ford.safeHold = true →
        s.time.rebase = none →
        ∃ t, exec (.cycleTick sums rms clipped busy power mj pct) s = .next t ∧ t.cn = s.cn + 1
          ∧ t.ford.shadowCn = s.cn + 1 ∧ t.time.tsc = 0 ∧ t.time.second = false ∧ t.ford.safeHold = true
          ∧ t.mtr.live = s.mtr.live)
    ∧ (∀ (s : State) (sums : List PhaseSum) (rms : List Nat) (clipped : List (Fin 16)) (busy : List Nat)
        (power mj : Fin 65536) (pct : Fin 256), s.live = true → s.time.counting = false →
        exec (.cycleTick sums rms clipped busy power mj pct) s = .next s))
  ∧ ((∀ (s : State) (busy : List Nat) (planned : Bool), s.live = true → s.time.counting = true → s.time.second = false →
      ∃ t, exec (.slotMidpoint busy planned) s = .next t ∧ t.time.second = true ∧ t.time.planReady = planned
        ∧ Keeps { adm := true, evt := true, ford := true, freeIdx := true, key := true, node := true, out := true,
                  rad := true, sys := true, time := true, upd := true, way := true } s t)
    ∧ (∀ (s : State) (busy : List Nat) (planned : Bool), s.live = true → s.time.second = true →
        exec (.slotMidpoint busy planned) s = .next s))

/-- R29, R59, R60, R446: while the mains is present and no meter tile runs, a crossing at a valid period becomes the last
valid one and corrects the time block alone; one at an implausible period only enters the history; SAFE HOLD counts none.
R63 to R65, R256: a well-formed WAYMARK of an operator on J5 is judged and answered; one that agrees is held in the
registers and in MRAM with its phase offset, and the count stands; while city time is UNSET it is answered BUSY and the time
block keeps everything. -/
def Obligations.CrossingsAndWaymarks : Prop :=
  ((∀ (s : State) (ofs : Int) (tick ofsUs v : Nat), s.live = true → s.ford.safeHold = false → s.time.counting = true →
      s.time.absent = false → s.time.lastValid = some v → s.time.movePending = false → s.time.tstate ≠ .holdover →
      s.mtr.running = false →
      ((validPeriod (10 * (((s.time.ref : Int) - s.time.tsc + ofs) - v)) = true →
        ∃ t, exec (.zcMeasured ofs tick ofsUs) s = .next t
          ∧ t.time.lastValid = some (((s.time.ref : Int) - s.time.tsc + ofs).toNat) ∧ Keeps { time := true } s t)
      ∧ (validPeriod (10 * (((s.time.ref : Int) - s.time.tsc + ofs) - v)) = false →
        ∃ t, exec (.zcMeasured ofs tick ofsUs) s = .next t
          ∧ t.time.lastValid = some v ∧ t.time.periods = s.time.periods ∧ t.time.phaseErr = s.time.phaseErr
          ∧ t.time.returned = 0 ∧ Keeps { time := true } s t)))
    ∧ (∀ (s : State) (ofs : Int) (tick ofsUs : Nat), s.live = true → s.ford.safeHold = true →
        exec (.zcMeasured ofs tick ofsUs) s = .next s))
  ∧ (∀ (s : State) (i : Fin 4) (c : Session) (role : Byte) (tx : Word) (body : List Byte), s.live = true →
      s.session i = some c → c.path ≠ 3 → c.mayAsk role.toNat .operator = true →
      body.length = 18 → slice 5 3 body = [0, 0, 0] →
      (∀ ofs : Int, (s.judgeWaymark { cn := ofLe (slice 0 5 body), sec := ofLe (slice 8 6 body), ns := ofLe (slice 14 4 body) }).1
          = { agrees := true, ofs := ofs } →
        ∃ t, exec (.waymark i role tx body) s = .next t
          ∧ t.time = { s.time with
              waymark := some { cn := ofLe (slice 0 5 body), sec := ofLe (slice 8 6 body), ns := ofLe (slice 14 4 body) }
              mramWaymark := some { cn := ofLe (slice 0 5 body), sec := ofLe (slice 8 6 body), ns := ofLe (slice 14 4 body) }
              phaseOfs := ofs, disagree := none }
          ∧ t.cn = s.cn
          ∧ Output.fsp i.val 0x60 1 tx.toNat ([0, 2, 0, 0] ++ leInt 4 ofs ++ le 5 s.cn) ∈ t.out)
      ∧ (s.time.tstate = .unset →
        ∃ t, exec (.waymark i role tx body) s = .next t ∧ t.time = s.time ∧ t.cn = s.cn
          ∧ Output.fsp i.val 0x60 1 tx.toNat ([5, 0, 0, 0] ++ le 4 0 ++ le 5 s.cn) ∈ t.out))

/-! Queues and the event controller (11). -/

/-- R405, R406: a push into a queue with room joins its tail and may raise its peak; a push into a full queue is lost, sets
the overrun flag and counts; the other queues stay. R405, R408, R409, R428: a read whose parity holds takes the head word;
one that fails twice takes it too, poisons the queue and counts; a completed row copy, the counter clear and the peak
restart act on the queues alone. -/
def Obligations.QueuesPushAndRead : Prop :=
  (∀ (s : State) (q : Fin 128) (data : BitVec 64) (parity : Bool) (c : QueueSt), s.live = true → s.queue q.val = some c →
      (c.words.length < c.depth →
        ∃ t d, exec (.queuePush q data parity) s = .next t ∧ t.queue q.val = some d
          ∧ d.words = c.words ++ [{ data := data.toNat, parity := parity }] ∧ d.peak = max c.peak (c.words.length + 1)
          ∧ (∀ p, p ≠ q.val → t.queue p = s.queue p) ∧ Keeps { evt := true, que := true } s t)
      ∧ (c.depth ≤ c.words.length →
        ∃ t, exec (.queuePush q data parity) s = .next t
          ∧ t.queue q.val = some { c with overrun := true, ovrCount := min 0xFFFFFFFF (c.ovrCount + 1) }
          ∧ (∀ p, p ≠ q.val → t.queue p = s.queue p) ∧ Keeps { evt := true, que := true } s t))
  ∧ ((∀ (s : State) (q : Fin 128) (c : QueueSt) (w : QWord) (r : List QWord), s.live = true → s.queue q.val = some c →
      c.words = w :: r → w.parity = parity64 64 w.data →
      (∃ t d, exec (.queueRead q false false) s = .next t ∧ t.queue q.val = some d ∧ d.words = r
        ∧ d.poisoned = c.poisoned ∧ Keeps { evt := true, que := true } s t)
      ∧ (∃ t d, exec (.queueRead q true true) s = .next t ∧ t.queue q.val = some d ∧ d.words = r ∧ d.poisoned = true
        ∧ t.que.poison = min 0xFFFFFFFF (s.que.poison + 1)
        ∧ Keeps { cop := true, evt := true, que := true, way := true } s t))
    ∧ (∀ (s : State) (row : Fin 544), s.live = true →
        exec (.rowCopyDone row) s = .next { s with que := { s.que with
          felled := s.que.felled.map fun p => if p = (row.val, false) then (row.val, true) else p } })
    ∧ (∀ (s : State) (value : Word) (w : Writer), s.live = true → canonicalRegs s.regs = true →
        ∃ t, exec (.queCntClr value w) s = .next t ∧ t.que.transient = 0 ∧ t.que.poison = 0
          ∧ (∀ p ∈ t.que.queues, p.2.ovrCount = 0) ∧ Keeps { evt := true, que := true, regs := true, way := true } s t)
    ∧ (∀ (s : State) (q : Fin 128) (value : Word) (c : QueueSt), s.live = true → s.queue q.val = some c →
        ∃ t, exec (.queuePeakRestart q value) s = .next t ∧ t.queue q.val = some { c with peak := c.words.length }
          ∧ (∀ p, p ≠ q.val → t.queue p = s.queue p) ∧ Keeps { que := true } s t))

/-- R404, R415 to R418, Table 11.5: an enabled source that fires from IDLE gathers, and falls due at once where its count is
0 or 1; a due record is written when the coalescing time has passed; DONE by the engine of the route ends ACTIVE; DONE by
another engine sets BAD_DONE and changes no source; a number that no listed source bears never fires. -/
def Obligations.SourcesGatherAndAreServed : Prop :=
  (∀ (s : State) (n : Fin 1024) (kind : Fin 256) (payload : Word) (r : Route), s.live = true →
    s.sourceExists n.val = true → tget n.val s.evt.routes = some r → r.en = true → s.evt.suppressed.contains n.val = false →
    tget n.val s.evt.srcs = none → 1 < r.count →
    ∃ t, exec (.sourceFiring n kind payload) s = .next t
      ∧ tget n.val t.evt.srcs = some { state := .gathering, due := false, stamp := s.stamp, kind := kind.val, payload := payload.toNat }
      ∧ (∀ m, m ≠ n.val → tget m t.evt.srcs = tget m s.evt.srcs) ∧ Keeps { evt := true } s t)
  ∧ (∀ (s : State) (n : Fin 1024) (kind : Fin 256) (payload : Word), s.sourceExists n.val = false →
      exec (.sourceFiring n kind payload) s = .next s)
  ∧ (∀ (s : State) (n : Fin 1024) (r : Route) (c : SrcSt), s.live = true → s.evt.en = true →
      tget n.val s.evt.routes = some r → tget n.val s.evt.srcs = some c → c.state = .gathering →
      (s.evt.ring r.engine.val r.prio.val).room = true → r.engine.val < s.evt.engs.length →
      r.prio.val < (s.evt.eng r.engine.val).rings.length →
      ∃ t, exec (.coalesceTimeout n) s = .next t
        ∧ tget n.val t.evt.srcs = some { state := .active, count := 0 }
        ∧ (t.evt.ring r.engine.val r.prio.val).prod = ((s.evt.ring r.engine.val r.prio.val).prod + 1) % 65536
        ∧ Keeps { evt := true } s t)
  ∧ (∀ (s : State) (e : Fin 16) (value : Word) (r : Route) (c : SrcSt), s.live = true → tsorted s.evt.srcs = true →
      tget (field 9 0 value.toNat) s.evt.routes = some r → tget (field 9 0 value.toNat) s.evt.srcs = some c →
      (r.engine = e → c.state = .active →
        ∃ t, exec (.evtDone e value) s = .next t ∧ tget (field 9 0 value.toNat) t.evt.srcs = none
          ∧ (∀ m, m ≠ field 9 0 value.toNat → tget m t.evt.srcs = tget m s.evt.srcs) ∧ Keeps { evt := true } s t)
      ∧ (r.engine ≠ e → exec (.evtDone e value) s = .next { s with evt := { s.evt with badDone := true } }))

/-- R420, R423 to R425: a CONS out of reach sets BAD_CONS; one within PROD frees the records up to it; CFG is taken only by
an empty ring; a write of MASK stores the mask; a handler enters the highest raised ring above its level, and returns to the
level it left. -/
def Obligations.RingsAndHandlers : Prop :=
  (∀ (s : State) (e : Fin 16) (p : Fin 4) (value : Word), s.live = true →
    ((s.evt.ring e.val p.val).size < ((s.evt.ring e.val p.val).prod + 65536 - field 15 0 value.toNat) % 65536 →
      exec (.ringConsWrite e p value) s = .next { s with evt := { s.evt with badCons := true } })
    ∧ (((s.evt.ring e.val p.val).prod + 65536 - field 15 0 value.toNat) % 65536 ≤ (s.evt.ring e.val p.val).size →
      s.evt.srcs = [] → e.val < s.evt.engs.length → p.val < (s.evt.eng e.val).rings.length →
      ∃ t, exec (.ringConsWrite e p value) s = .next t ∧ (t.evt.ring e.val p.val).cons = field 15 0 value.toNat
        ∧ (t.evt.ring e.val p.val).prod = (s.evt.ring e.val p.val).prod ∧ Keeps { evt := true } s t)
    ∧ ((s.evt.ring e.val p.val).prod ≠ (s.evt.ring e.val p.val).cons → exec (.ringCfgWrite e p value) s = .next s)
    ∧ ((s.evt.ring e.val p.val).prod = (s.evt.ring e.val p.val).cons → 4 ≤ field 31 28 value.toNat →
      field 31 28 value.toNat ≤ 10 → s.evt.srcs = [] → e.val < s.evt.engs.length →
      p.val < (s.evt.eng e.val).rings.length →
      ∃ t, exec (.ringCfgWrite e p value) s = .next t ∧ (t.evt.ring e.val p.val).size = 2 ^ field 31 28 value.toNat
        ∧ (t.evt.ring e.val p.val).base = field 17 4 value.toNat ∧ Keeps { evt := true } s t))
  ∧ (∀ (s : State) (e : Fin 16) (value : Word), s.live = true → e.val < s.evt.engs.length →
      (∃ t, exec (.ringMaskWrite e value) s = .next t ∧ t.evt.eng e.val = { s.evt.eng e.val with mask := value.toNat % 16 }
        ∧ Keeps { evt := true } s t)
      ∧ ((s.evt.eng e.val).highest (s.evt.eng e.val).level < (s.evt.eng e.val).level →
        ∃ t, exec (.handlerEntry e) s = .next t
          ∧ (t.evt.eng e.val).level = (s.evt.eng e.val).highest (s.evt.eng e.val).level
          ∧ (t.evt.eng e.val).frames = (s.evt.eng e.val).level :: (s.evt.eng e.val).frames ∧ Keeps { evt := true } s t)
      ∧ (∀ back rest, (s.evt.eng e.val).frames = back :: rest → back ≤ (s.evt.eng e.val).highest back →
        ∃ t, exec (.handlerExit e) s = .next t ∧ (t.evt.eng e.val).level = back ∧ (t.evt.eng e.val).frames = rest
          ∧ Keeps { evt := true } s t))

/-! Sessions, roles, pushes and the modem path (06). -/

/-- R221, R222: a handshake with a certificate whose signature and chain hold opens a session on J5 while one of the four is
free; without a good signature it is refused NOT_AUTHORISED, and where none is free BUSY; one that takes 500 cycles is
refused TOO_LATE. R224, R229, R236, R258, R259: the first check a header fails is answered ERROR with its reason and byte
offset, an ADMIT's role DECLINE NOT_AUTHORISED; a message of a type the head-end may not send is answered UNSUPPORTED at
offset 3; each counts one violation of its session. -/
def Obligations.HandshakesAndBadHeaders : Prop :=
  ((∀ (s : State) (path : Fin 4) (exporter : List Byte) (i : Nat), s.live = true → path ≠ 3 → s.can.siteId ≠ 0 →
      (s.freeSession = some i →
        ∃ t, exec (.tlsHandshake path true true exporter) s = .next t
          ∧ t.fsp = { s.fsp with sessions := tput i { path := path.val, exporter := exporter, lastMessage := s.cn } s.fsp.sessions }
          ∧ Keeps { fsp := true } s t)
      ∧ (s.freeSession = none →
        exec (.tlsHandshake path true true exporter) s = .next (s.emit (.refuse .busy)))
      ∧ (∀ chained, exec (.tlsHandshake path false chained exporter) s = .next (s.emit (.refuse .notAuthorised))))
    ∧ (∀ (s : State) (since : Nat), s.live = true → since + 500 ≤ s.cn →
        exec (.handshakeTimeout since) s = .next (s.emit (.refuse .tooLate))))
  ∧ ((∀ (s : State) (i : Fin 4) (c : Session) (header : List Byte) (reason : Reason) (offset : Nat), s.live = true →
      s.session i = some c → headerFault (padTo 24 header) = some (reason, offset) →
      ∃ t, exec (.fspHeaderFault i header) s = .next t
        ∧ (if reason = .notAuthorised ∧ ofLe (slice 3 1 header) = 0x10 then
            Output.fsp i.val 0x12 1 (faultTx header offset) (le 1 (reasonCode .notAuthorised) ++ le 5 s.cn ++ le 5 0 ++ [0])
          else Output.fsp i.val 0x7F 0 (faultTx header offset)
            (le 1 (reasonCode reason) ++ le 1 (ofLe (slice 3 1 header)) ++ le 2 0 ++ le 4 offset)) ∈ t.out
        ∧ (c.violations = [] → ∃ d, t.session i = some d ∧ d.violations = [s.cn])
        ∧ Keeps { adm := true, evt := true, fsp := true, out := true, way := true } s t)
    ∧ (∀ (s : State) (i : Fin 4) (c : Session) (type : Byte) (tx : Word), s.live = true → s.session i = some c →
        headType type.toNat = false →
        ∃ t, exec (.fspWrongType i type tx) s = .next t
          ∧ Output.fsp i.val 0x7F 0 tx.toNat (le 1 (reasonCode .unsupported) ++ le 1 type.toNat ++ le 2 0 ++ le 4 3) ∈ t.out
          ∧ (c.violations = [] → ∃ d, t.session i = some d ∧ d.violations = [s.cn])
          ∧ Keeps { adm := true, evt := true, fsp := true, out := true, way := true } s t))

/-- R226 to R228, R237, R238: HELLO is answered with what Table 6.5 lays out; a challenge holds the head-end's nonce and a
fresh one of the module's for its role; the proof of R227 within 250 cycles grants the role; a challenge 250 cycles old
lapses. R226, R232, R489: an acknowledgement settles its push for every session; an idle session, and one that is closed
from outside, is closed and gone. -/
def Obligations.RolesAndPushes : Prop :=
  ((∀ (s : State) (i : Fin 4) (c : Session) (role : Byte) (tx : Word) (body : List Byte), s.live = true →
      s.session i = some c → c.path ≠ 3 → roleOf role.toNat = some c.role →
      (body.length = 8 → ofLe (slice 0 1 body) < 2 → ofLe (slice 1 3 body) = 0 →
        ∃ t, exec (.hello i role tx body) s = .next t ∧ Output.fsp i.val 0x01 1 tx.toNat (s.helloBody i c) ∈ t.out
          ∧ Keeps { fsp := true, out := true } s t)
      ∧ (∀ r : Role, r ≠ .nobody → roleOf (ofLe (slice 0 1 body)) = some r → body.length = 20 →
        ofLe (slice 1 3 body) = 0 →
        ∃ t d h, exec (.roleChallenge i role tx body) s = .next t ∧ t.session i = some d ∧ d.challenge = some h
          ∧ h.role = r ∧ h.headNonce = slice 4 16 body ∧ h.cn = s.cn ∧ d.role = c.role
          ∧ h.moduleNonce = (octets256 (Config.rbg s.freeIdx)).take 16
          ∧ Keeps { freeIdx := true, fsp := true, out := true } s t)
      ∧ (∀ h : Challenge, c.challenge = some h → body.length = 36 → ofLe (slice 1 3 body) = 0 → s.cn ≤ h.cn + 250 →
        ofLe (slice 0 1 body) = roleCode h.role → s.slotLive (roleSlot h.role) = true →
        slice 4 32 body = s.proofOf h.role 1 (s.proofInput c h) →
        ∃ t d, exec (.roleProof i role tx body) s = .next t ∧ t.session i = some d ∧ d.role = h.role
          ∧ d.challenge = none ∧ Keeps { evt := true, fsp := true, key := true, out := true, way := true } s t))
    ∧ (∀ (s : State) (i : Fin 4) (c : Session) (h : Challenge), s.live = true → s.session i = some c →
        c.challenge = some h → h.cn + 250 < s.cn → c.violations = [] →
        ∃ t d, exec (.roleLapse i) s = .next t ∧ t.session i = some d ∧ d.challenge = none ∧ d.role = c.role
          ∧ Keeps { adm := true, evt := true, fsp := true, out := true, way := true } s t))
  ∧ ((∀ (s : State) (i : Fin 4) (c : Session) (role type : Byte) (seq : Word), s.live = true → s.session i = some c →
      roleOf role.toNat = some c.role →
      (s.fsp.pushLog.any fun p => decide (p.seq = seq.toNat) && decide (p.type = type.toNat)) = true →
      ∃ t, exec (.pushAck i role type seq) s = .next t ∧ (∀ p ∈ t.fsp.pushLog, p.seq ≠ seq.toNat)
        ∧ t.fsp.tables = s.fsp.tables
        ∧ Keeps { adm := true, evt := true, fsp := true, node := true, out := true, rad := true, way := true } s t)
    ∧ (∀ (s : State) (i : Fin 4) (c : Session), s.live = true → tsorted s.fsp.sessions = true → s.session i = some c →
        (c.lastMessage + s.idleLimit ≤ s.cn →
          ∃ t, exec (.sessionIdle i) s = .next t ∧ t.session i = none ∧ (∀ j, j ≠ i → t.session j = s.session j)
            ∧ Output.close i.val ∈ t.out
            ∧ Keeps { adm := true, evt := true, fsp := true, out := true, way := true } s t)
        ∧ (s.cn < c.lastMessage + s.idleLimit → exec (.sessionIdle i) s = .next s)
        ∧ (∃ t, exec (.sessionClose i) s = .next t ∧ t.session i = none ∧ (∀ j, j ≠ i → t.session j = s.session j)
            ∧ Output.close i.val ∈ t.out
            ∧ Keeps { adm := true, evt := true, fsp := true, out := true, way := true } s t)))

/-- The modem path (R260 to R262): an attempt starts with the first dial line or with PPP; OK serves a line and CONNECT the
last one; a line unanswered for 500 cycles fails the attempt; a back-off that has passed starts the next attempt and doubles
the wait up to 96,000 cycles; the modem session closes once J5 has held a role for 3,000 cycles and no request came for as
long; CTS is followed. -/
def Obligations.ModemPathDialsAndBacksOff : Prop :=
  (∀ (s : State), s.live = true → s.fsp.modem.state = .closed →
    (s.modemAlways = true ∨ (s.j5Role = false ∧ s.fsp.lastRole + s.modemOpenAfter ≤ s.cn)) →
    ∃ t, exec .modemOpen s = .next t
      ∧ t.fsp.modem.state = (if (s.dialLine 0).isSome then .dialing 0 else .linking)
      ∧ t.fsp.sessions = s.fsp.sessions ∧ Keeps { fsp := true, out := true } s t)
  ∧ (∀ (s : State) (k : Nat) (ok connect : Bool), s.live = true → s.fsp.modem.state = .dialing k →
      (∀ l, s.dialLine (k + 1) = some l →
        ∃ t, exec (.dialLineAnswer true connect) s = .next t ∧ t.fsp.modem.state = .dialing (k + 1)
          ∧ t.out = s.out ++ [.modem (textOf l)] ∧ Keeps { fsp := true, out := true } s t)
      ∧ (s.dialLine (k + 1) = none → (ok || connect) = true →
        ∃ t, exec (.dialLineAnswer ok connect) s = .next t ∧ t.fsp.modem.state = .linking ∧ Keeps { fsp := true } s t)
      ∧ (exec (.dialLineAnswer false false) s = .next s.modemFail)
      ∧ (s.fsp.modem.since + 500 ≤ s.cn →
        ∃ t, exec .dialTimeout s = .next t ∧ t.fsp.modem.state = .backOff ∧ t.fsp.modem.since = s.cn
          ∧ Keeps { fsp := true } s t))
  ∧ (∀ (s : State), s.live = true → s.fsp.modem.state = .backOff → s.fsp.modem.since + s.fsp.modem.wait ≤ s.cn →
      ∃ t, exec .modemRetry s = .next t ∧ t.fsp.modem.wait = min 96000 (2 * s.fsp.modem.wait)
        ∧ t.fsp.modem.since = s.cn ∧ Keeps { fsp := true, out := true } s t)
  ∧ (∀ (s : State), s.live = true → s.fsp.modem.state = .up → s.modemAlways = false → s.j5Settled = true →
      s.fsp.modem.lastRequest + 3000 ≤ s.cn →
      ∃ t, exec .modemClose s = .next t ∧ t.fsp.modem.state = .closed ∧ t.fsp.modem.since = s.cn
        ∧ Keeps { adm := true, evt := true, fsp := true, out := true, way := true } s t)
  ∧ (∀ (s : State) (asserted : Bool), s.live = true →
      ∃ t, exec (.modemCtsChange asserted) s = .next t ∧ t.fld = { s.fld with cts := asserted }
        ∧ Keeps { evt := true, fld := true } s t)

/-! The waybill (16). -/

/-- R528, R529: an identical happening within 10 s of the last staged one folds into it; another is staged while fewer than
64 wait; with 64 waiting it is lost and counted. R527, R532: with no loss open the recorder commits the oldest staged record
as the next sequence at the ring's end. -/
def Obligations.RecorderStagesAndCommits : Prop :=
  (∀ (s : State) (role : Role) (source id tick : Nat) (reason : Reason) (tagged : Bool) (payload : List Byte) (l : List Rec)
      (r : Rec), s.live = true → s.way.staging = l ++ [r] →
      ((r.source = source ∧ r.id = id ∧ r.reason = reason ∧ padTo 12 r.payload = padTo 12 payload
          ∧ s.cn ≤ r.cn + 10 * s.time.nominal) →
        ∃ t, exec (.waybillHappening s.ford.active role source id reason tagged payload tick) s = .next t
          ∧ t.way.staging = l ++ [{ r with count := min 65535 (r.count + 1) }] ∧ t.way.ring = s.way.ring
          ∧ t.way.folds = min 0xFFFFFFFF (s.way.folds + 1) ∧ Keeps { time := true, way := true } s t)
      ∧ (r.id ≠ id → s.way.staging.length < 64 → s.build = .t →
        ∃ t h, exec (.waybillHappening s.ford.active role source id reason tagged payload tick) s = .next t
          ∧ t.way.staging = l ++ [r, h] ∧ h.cn = s.cn ∧ h.us = min 22222 (max s.time.tsc tick / 100) ∧ h.source = source
          ∧ h.id = id ∧ h.reason = reason ∧ h.role = role ∧ h.tagged = tagged ∧ h.payload = payload
          ∧ h.stand = s.ford.active ∧ h.partner = false
          ∧ Keeps { evt := true, time := true, way := true } s t)
      ∧ (r.id ≠ id → s.way.staging.length = 64 →
        ∃ t, exec (.waybillHappening s.ford.active role source id reason tagged payload tick) s = .next t
          ∧ t.way.staging = s.way.staging ∧ t.way.lost = min 0xFFFFFFFF (s.way.lost + 1)
          ∧ t.way.lossOpen = s.way.lossOpen + 1 ∧ Keeps { time := true, way := true } s t))
  ∧ (∀ (s : State) (r : Rec) (rest : List Rec), s.live = true → s.way.lossOpen = 0 → s.way.staging = r :: rest →
      s.fsp.pushLog = [] → s.way.ring.length < s.way.capacity →
      ∃ t c, exec (.recorderWrite .good) s = .next t ∧ t.way.staging = rest ∧ t.way.ring = s.way.ring ++ [c]
        ∧ c.seq = (s.way.newest + 1) % 4294967296 ∧ t.way.newest = c.seq ∧ c.cn = r.cn ∧ c.us = r.us
        ∧ c.source = r.source ∧ c.id = r.id ∧ c.reason = r.reason ∧ c.payload = r.payload ∧ c.role = r.role
        ∧ Keeps { evt := true, fsp := true, out := true, way := true } s t)

/-- R247, R248, R532, R533, R542: a read serves the records from its sequence and changes none; a clear that names the
newest sequence leaves its CLEARED record alone in the ring, one that does not is answered BUSY and changes nothing of the
waybill; CNT_CLR zeroes the counters. -/
def Obligations.WaybillIsReadAndCleared : Prop :=
  (∀ (s : State) (i : Fin 4) (c : Session) (role : Byte) (tx : Word) (body : List Byte), s.live = true →
    s.session i = some c → c.path ≠ 3 →
    (c.mayAsk role.toNat .operator = true → body.length = 8 → ofLe (slice 6 2 body) = 0 →
      1 ≤ ofLe (slice 4 2 body) → ofLe (slice 4 2 body) ≤ 1024 →
      ∃ t, exec (.waybillRead i role tx body) s = .next t ∧ t.way = s.way
        ∧ Output.fsp i.val 0x31 1 tx.toNat ([0] ++ le 1 (if s.way.gap (ofLe (slice 0 4 body)) then 1 else 0)
            ++ le 2 (s.way.serve (ofLe (slice 0 4 body)) (ofLe (slice 4 2 body))).length ++ le 4 s.way.oldest
            ++ le 4 s.way.newest
            ++ ((s.way.serve (ofLe (slice 0 4 body)) (ofLe (slice 4 2 body))).map Rec.octets).flatten) ∈ t.out
        ∧ Keeps { fsp := true, out := true } s t)
    ∧ (c.mayAsk role.toNat .installer = true → body.length = 4 → ofLe body ≠ s.way.newest →
      ∃ t, exec (.waybillClear i role tx body) s = .next t ∧ t.way = s.way
        ∧ Output.fsp i.val 0x32 1 tx.toNat ([5, 0, 0, 0] ++ le 4 0) ∈ t.out ∧ Keeps { fsp := true, out := true } s t)
    ∧ (∀ l r, c.mayAsk role.toNat .installer = true → body.length = 4 → ofLe body = s.way.newest →
      s.way.ring = l ++ [r] → r.id ≠ 1 → s.fsp.pushLog = [] → 1 ≤ s.way.capacity →
      ∃ t, exec (.waybillClear i role tx body) s = .next t
        ∧ (∀ x ∈ t.way.ring, x.seq = (s.way.newest + 1) % 4294967296)
        ∧ t.way.clearSeq = (s.way.newest + 1) % 4294967296 ∧ t.way.newest = t.way.clearSeq ∧ t.way.clearCn = s.cn
        ∧ t.way.cleared = true ∧ Keeps { evt := true, fsp := true, out := true, way := true } s t))
  ∧ (∀ (s : State) (value : Word) (w : Writer), s.live = true → canonicalRegs s.regs = true →
      ∃ t, exec (.wayCntClr value w) s = .next t ∧ t.way.folds = 0 ∧ t.way.lost = 0 ∧ t.way.retries = 0
        ∧ t.way.partnerCount = 0 ∧ t.way.ring = s.way.ring
        ∧ Keeps { evt := true, regs := true, way := true } s t)

/-! Settings, links and register writes (06, 11, 17, 00). -/

/-- R249, R252, R253: a CONFIG_PUT of PUSH_SELECT in good form at the held epoch comes into force at once where its CN has
come, and the epoch grows; CONFIG_GET serves the part asked for; DIGEST without entries answers the digests held. -/
def Obligations.SettingsArePutAndRead : Prop :=
  ∀ (s : State) (i : Fin 4) (c : Session) (role : Byte) (tx : Word) (body : List Byte), s.live = true →
    s.session i = some c → c.path ≠ 3 →
    (∀ es, c.mayAsk role.toNat (tableRight 0x0020) = true → 20 ≤ body.length → w16 0 body = 0x0020 → oct 2 body ≤ 1 →
      oct 3 body = 0 → ofLe (slice 13 3 body) = 0 → body.length = 20 + w32 16 body → s.settingsHeld = false →
      w32 4 body = s.fsp.epoch → entriesOf 0x0020 (body.drop 20) = some es →
      (bit 0 (oct 2 body) && es.any (removal 0x0020)) = false →
      (putTable 0x0020 (bit 0 (oct 2 body)) (s.table6 0x0020).accepted es).length ≤ tableCapacity 0x0020 →
      ofLe (slice 8 5 body) ≤ s.cn →
      ∃ t, exec (.configPut i role tx body) s = .next t
        ∧ t.inForce 0x0020 = putTable 0x0020 (bit 0 (oct 2 body)) (s.table6 0x0020).accepted es
        ∧ t.fsp.epoch = (s.fsp.epoch + 1) % 4294967296
        ∧ Keeps { adm := true, dim := true, evt := true, freeIdx := true, fsp := true, node := true, out := true,
                  rad := true, way := true } s t)
    ∧ (c.mayAsk role.toNat .operator = true → body.length = 12 → w16 2 body = 0 → w32 8 body ≤ 1048556 →
      tableIds.contains (w16 0 body) = true →
      ∃ t, exec (.configGet i role tx body) s = .next t
        ∧ Output.fsp i.val 0x41 1 tx.toNat ([0, 0, 0, 0] ++ le 4 s.fsp.epoch ++ le 4 (s.tableContent (w16 0 body)).length
            ++ le 4 (w32 4 body) ++ le 4 (slice (w32 4 body) (w32 8 body) (s.tableContent (w16 0 body))).length
            ++ slice (w32 4 body) (w32 8 body) (s.tableContent (w16 0 body))) ∈ t.out
        ∧ Keeps { fsp := true, out := true } s t)
    ∧ (c.mayAsk role.toNat .operator = true → body = [0, 0, 0, 0, 0, 0, 0, 0] →
      ∃ t, exec (.digest i role tx body) s = .next t
        ∧ Output.fsp i.val 0x42 1 tx.toNat ([0, 0, 0, 0] ++ le 4 s.fsp.epoch ++ octets256 s.segmentDigest
            ++ octets256 s.can.digest ++ octets256 s.settingsDigest ++ le 2 s.disagreeing ++ [0, 0]) ∈ t.out
        ∧ Keeps { fsp := true, out := true } s t)

/-- R52, R412, R569: an octet of a UART joins the queue the canopy gives its port; a link that comes up is only noted; one
that drops, with no session and no source in use, takes its PTP source from the valid ones. R15 to R17, R257, R605: a plain
field is written by any writer; a field kept for the INSTALLER keeps its value under another role; an address outside the
register space has no effect; a MAKER's window write and read reach the same words. -/
def Obligations.LinksAndRegisterWrites : Prop :=
  ((∀ (s : State) (port : Fin 3) (data : Byte) (framing brk : Bool) (q : Nat) (c : QueueSt), s.live = true →
      s.sliced (s.can.slotOf .fieldIo port.val) = false → s.uartQueue port.val = some q → s.queue q = some c →
      c.words.length < c.depth →
      ∃ t d, exec (.uartOctet port data framing brk) s = .next t ∧ t.queue q = some d
        ∧ d.words = c.words ++ [{ data := data.toNat + flag framing 8 + flag brk 9
                                  parity := parity64 64 (data.toNat + flag framing 8 + flag brk 9) }]
        ∧ Keeps { evt := true, fld := true, que := true } s t)
    ∧ (∀ (s : State) (port : Fin 2), s.live = true →
        (exec (.ethLinkChange port true) s = .next { s with fld := { s.fld with ethUp := lset port.val true s.fld.ethUp } })
        ∧ (s.fsp.sessions = [] → s.time.source = none →
          exec (.ethLinkChange port false) s = .next { s with
            fld := { s.fld with ethUp := lset port.val false s.fld.ethUp }
            time := { s.time with valid0 := s.time.valid0 && decide (port.val ≠ 0)
                                  valid1 := s.time.valid1 && decide (port.val = 0) } })))
  ∧ ((∀ (s : State) (value : Word) (w : Writer), s.live = true → canonicalRegs s.regs = true →
      (∃ t, exec (.registerWrite 0x40020030 value w) s = .next t
        ∧ RegsWith s t 0x40020030 (merge 0xFFFF (s.reg 0x40020030) value.toNat)
        ∧ Keeps { evt := true, regs := true, way := true } s t)
      ∧ (w.role ≠ .installer →
        ∃ t, exec (.registerWrite 0x40070008 value w) s = .next t ∧ (∀ a, t.reg a = s.reg a)
          ∧ Keeps { evt := true, regs := true, way := true } s t)
      ∧ (w.role = .installer →
        ∃ t, exec (.registerWrite 0x40070008 value w) s = .next t
          ∧ RegsWith s t 0x40070008 (merge 0xFFFF (s.reg 0x40070008) value.toNat)
          ∧ Keeps { evt := true, regs := true, way := true } s t))
    ∧ (∀ (s : State) (addr value : Word) (w : Writer), s.live = true → canonicalRegs s.regs = true → inSpace addr.toNat = false →
        exec (.registerWrite addr value w) s = .next s)
    ∧ (∀ (s : State) (i : Fin 4) (c : Session) (role : Byte) (tx v : Word), s.live = true → canonicalRegs s.regs = true →
        s.session i = some c → c.path ≠ 3 → c.mayAsk role.toNat .maker = true →
        (∃ t, exec (.registerWindowWrite i role tx ([0, 1, 1, 0] ++ le 4 0x40020030 ++ le 4 v.toNat)) s = .next t
          ∧ RegsWith s t 0x40020030 (merge 0xFFFF (s.reg 0x40020030) v.toNat)
          ∧ Output.fsp i.val 0x70 1 tx.toNat [0, 0, 0, 0] ∈ t.out
          ∧ Keeps { evt := true, fsp := true, out := true, regs := true, way := true } s t)
        ∧ (∃ t, exec (.registerWindowRead i role tx ([0, 0, 1, 0] ++ le 4 0x40020030)) s = .next t
          ∧ Output.fsp i.val 0x70 1 tx.toNat ([0, 0, 0, 0] ++ le 4 (s.reg 0x40020030)) ∈ t.out
          ∧ Keeps { evt := true, fsp := true, out := true, way := true } s t)))

/-! Keys and tamper (14). -/

/-- R478, R479: a key command that its rules allow begins to run on its slot, and no slot changes before it completes; while
one runs another is refused BUSY; completion ends the run, shows OK and, for a key that is made, puts it in its slot. R484
to R486: a withered slot at its expiry CN becomes EMPTY; an attestation that a role asks for over a LIVE KS05 holds the MAC
of the octets of Table 14.6 with the CN and the epoch; a rotation an installer asks for on J7, early enough, waits with the
next generation, the other root and the other half. -/
def Obligations.KeyCommandsAndAttestation : Prop :=
  ((∀ (s : State) (slot : Fin 64) (w : Writer) (op : KeyOp) (i : Instr), s.live = true → canonicalRegs s.regs = true →
      (op, i) ∈ [(KeyOp.write, Instr.keyWrite slot w), (KeyOp.derive_, .keyDerive slot w), (KeyOp.generate, .keyGenerate slot w),
        (KeyOp.erase, .keyErase slot w)] →
      (s.key.run = none → s.sys.powerFail = false → s.mayKey w slot op = true →
        s.keyRefusal slot op (s.attrFor slot) = .ok →
        ∃ t r, exec i s = .next t ∧ t.key.run = some r ∧ r.op = op ∧ r.slot = slot.val ∧ r.role = w.role
          ∧ t.key.slots = s.key.slots ∧ Keeps { freeIdx := true, key := true } s t)
      ∧ (s.key.run ≠ none →
        ∃ t, exec i s = .next t ∧ t.key.reason = .busy ∧ t.key.run = s.key.run ∧ t.key.slots = s.key.slots
          ∧ Keeps { evt := true, key := true, way := true } s t))
    ∧ (∀ (s : State) (r : KeyRun), s.live = true → s.key.run = some r →
        ∃ t, exec .keyCommandComplete s = .next t ∧ t.key.run = none ∧ t.key.reason = .ok
          ∧ (r.op ≠ .erase → r.tagged = false → r.slot < s.key.slots.length → t.slot r.slot = r.result)
          ∧ (r.op = .erase → r.slot < s.key.slots.length → (t.slot r.slot).state = .empty)
          ∧ Keeps { evt := true, key := true, way := true } s t))
  ∧ ((∀ (s : State) (slot : Fin 64), s.live = true → slot.val < s.key.slots.length → (s.slot slot).state = .withered →
      (s.slot slot).expiry ≤ s.cn →
      ∃ t, exec (.keySlotExpiry slot) s = .next t ∧ t.slot slot = {} ∧ (∀ n, n ≠ slot.val → t.slot n = s.slot n)
        ∧ Keeps { key := true } s t)
    ∧ (∀ (s : State) (w : Writer), s.live = true → canonicalRegs s.regs = true → w.via ≠ .module → w.role ≠ .nobody →
        (s.slot 5).state = .live →
        ∃ t, exec (.attest w) s = .next t ∧ t.key.att.done = true ∧ t.key.att.reason = .ok
          ∧ t.key.att.mac = Config.hmac (s.slot 5).value (s.attInput (wordsOctets s.key.chal)) ∧ t.key.att.cn = s.cn
          ∧ t.key.att.epoch = s.fsp.epoch ∧ t.key.slots = s.key.slots ∧ Keeps { key := true } s t)
    ∧ (∀ (s : State) (w : Writer), s.live = true → canonicalRegs s.regs = true → s.key.run = none → s.sys.powerFail = false → w.role = .installer →
        w.via = .monitor → s.key.rotation = none → s.upd.activation = none →
        (s.node.nodes.filter fun n => decide (n.state = .scheduled)) = [] →
        s.cn + 512 ≤ s.reg 0x40080068 + 4294967296 * field 7 0 (s.reg 0x4008006C) →
        ∃ t, exec (.rotateGrove w) s = .next t
          ∧ t.key.rotation = some { effective := s.reg 0x40080068 + 4294967296 * field 7 0 (s.reg 0x4008006C)
                                    generation := nextGeneration s.key.issued, root := 1 - s.key.root, half := 1 - s.key.half }
          ∧ t.key.generation = s.key.generation
          ∧ Keeps { evt := true, freeIdx := true, key := true, node := true, way := true } s t))

/-- R490 to R492: a tamper alarm in the NORMAL state, of the mesh or of a TMPn input whose debounce has passed, leaves the
module TAMPERED with every MB or TE slot EMPTY; a level change starts its debounce. R491, R497: a maintenance window an
installer at J7 opens for 1 to 480 minutes puts the module into MAINT until its end; at its end, with no input active, the
module is NORMAL; the clear from J7, with every input and the mesh good, makes it NORMAL with KS10 and a grove root LIVE
again. -/
def Obligations.TamperAndMaintenance : Prop :=
  ((∀ (s : State), s.live = true → s.key.state = .normal → s.key.run = none → s.upd.activation = none →
      s.key.slots.length = 64 →
      (∃ t, exec (.meshCheck false) s = .next t ∧ t.key.state = .tampered ∧ t.key.cause = 16 ∧ t.key.meshOk = false
        ∧ t.key.alarms = min 65535 (s.key.alarms + 1)
        ∧ (∀ n < 64, (s.slot n).erasable = true → (t.slot n).state = .empty)
        ∧ Keeps { adm := true, cop := true, evt := true, ford := true, key := true, rad := true, way := true } s t)
      ∧ (∀ (n : Fin 4) (tick : Nat), (s.advanceTo tick).tmpQualifies n = true →
        ∃ t, exec (.tamperQualified n tick) s = .next t ∧ t.key.state = .tampered ∧ t.key.cause = 2 ^ n.val
          ∧ (∀ k < 64, (s.slot k).erasable = true → (t.slot k).state = .empty)
          ∧ Keeps { adm := true, cop := true, evt := true, ford := true, key := true, rad := true, time := true,
                    way := true } s t))
    ∧ (∀ (s : State), s.live = true →
        exec (.meshCheck true) s = .next { s with key := { s.key with meshOk := true } })
    ∧ (∀ (s : State) (n : Fin 4) (high : Bool) (tick : Nat) (sub : Fin 10), s.live = true →
        n.val < s.fld.tmpHigh.length → n.val < s.key.activeSince.length → lget false n.val s.fld.tmpHigh ≠ high →
        ∃ t, exec (.tamperInputChange n high tick sub) s = .next t ∧ lget false n.val t.fld.tmpHigh = high
          ∧ lget none n.val t.key.activeSince
              = (if bit n.val (s.reg 0x400800B0) && (high != bit (4 + n.val) (s.reg 0x400800B0))
                 then some (s.advanceTo tick).time.ref else none)
          ∧ Keeps { evt := true, fld := true, key := true, time := true } s t))
  ∧ ((∀ (s : State) (value : Word) (w : Writer), s.live = true → canonicalRegs s.regs = true → w.role = .installer → w.via = .monitor →
      s.key.state ≠ .tampered → 1 ≤ field 8 0 value.toNat → field 8 0 value.toNat ≤ 480 →
      ∃ t, exec (.keyTmpMaint value w) s = .next t ∧ t.key.state = .maint
        ∧ t.key.maintEnd = some (s.cn + field 8 0 value.toNat * (60 * s.time.nominal))
        ∧ Keeps { evt := true, key := true, way := true } s t)
    ∧ (∀ (s : State) (e : Cn), s.live = true → s.key.state = .maint → s.key.maintEnd = some e → e ≤ s.cn →
        s.tmpActiveMask = 0 →
        exec .maintWindowEnd s = .next { s with key := { s.key with state := .normal, maintEnd := none } })
    ∧ (∀ (s : State) (value : Word) (w : Writer), s.live = true → canonicalRegs s.regs = true → bit 0 value.toNat = true → w.role = .installer →
        w.via = .monitor → s.key.state = .tampered → s.tmpActiveMask = 0 → s.key.meshOk = true →
        s.key.slots.length = 64 →
        ∃ t, exec (.keyTmpClear value w) s = .next t ∧ t.key.state = .normal ∧ t.key.cause = 0
          ∧ (t.slot 10).state = .live ∧ (t.slot 12).state = .live ∧ t.key.generation = nextGeneration s.key.issued
          ∧ Keeps { adm := true, evt := true, freeIdx := true, key := true, node := true, out := true, rad := true,
                    upd := true, way := true } s t))

/-! Feeder metering (08) and pins (17). -/

/-- R304 to R306, R308, R324: with MSEAL open an installer's write of MTR_VNOM is stored and counted by the seal generation;
with MSEAL closed no register changes; a new N waits for its boundary while MTR_LATCH_N reads as before; START opens a
measurement window at this cycle. R244, R320, R337: a selection copies the last interval value it names; a METER_READ of
cumulative registers answers them with the cycle; a balance whose deadline has come closes. -/
def Obligations.MetrologyRegistersAndReadOut : Prop :=
  (∀ (s : State) (value : Word) (w : Writer), s.live = true → canonicalRegs s.regs = true →
      (w.role = .installer → s.mtr.sealOpen = true →
        (∃ t, exec (.metrologyRegisterWrite 0x40050024 value w) s = .next t
          ∧ RegsWith s t 0x40050024 (merge 0xFFFF (s.reg 0x40050024) value.toNat)
          ∧ t.mtr = { s.mtr with written := true, sealGen := (s.mtr.sealGen + 1) % 4294967296 }
          ∧ Keeps { evt := true, mtr := true, regs := true, way := true } s t)
        ∧ (1 ≤ field 15 0 value.toNat →
          ∃ t, exec (.latchNWrite value w) s = .next t ∧ (∀ a, t.reg a = s.reg a)
            ∧ t.mtr = { s.mtr with pendingN := some (field 15 0 value.toNat), sealGen := (s.mtr.sealGen + 1) % 4294967296 }
            ∧ Keeps { evt := true, mtr := true, regs := true, way := true } s t)
        ∧ (1 ≤ field 31 16 value.toNat →
          ∃ t, exec (.calStart value w) s = .next t ∧ t.mtr.cal.busy = true ∧ t.mtr.cal.done = false
            ∧ t.mtr.cal.start = s.cn ∧ t.mtr.cal.window = field 31 16 value.toNat
            ∧ Keeps { evt := true, mtr := true, regs := true, way := true } s t))
      ∧ (s.mtr.sealOpen = false →
        (∃ t, exec (.metrologyRegisterWrite 0x40050024 value w) s = .next t ∧ (∀ a, t.reg a = s.reg a) ∧ t.mtr = s.mtr
          ∧ Keeps { evt := true, regs := true, way := true } s t)
        ∧ (∃ t, exec (.latchNWrite value w) s = .next t ∧ (∀ a, t.reg a = s.reg a) ∧ t.mtr = s.mtr
          ∧ Keeps { evt := true, regs := true, way := true } s t)
        ∧ (∃ t, exec (.calStart value w) s = .next t ∧ (∀ a, t.reg a = s.reg a) ∧ t.mtr = s.mtr
          ∧ Keeps { evt := true, regs := true, way := true } s t)))
  ∧ ((∀ (s : State) (value : Word) (w : Writer) (x : Nat), s.live = true → canonicalRegs s.regs = true →
      bit 16 value.toNat = true → 1 ≤ field 5 4 value.toNat → x = merge 0x10733 (s.reg 0x40050040) value.toNat →
      ∃ t, exec (.regSelWrite value w) s = .next t ∧ RegsWith s t 0x40050040 x
        ∧ t.mtr.regLo = lget 0 (24 * field 1 0 x + 8 * (field 5 4 x - 1) + 4 * field 10 10 x + field 9 8 x) s.mtr.lastValues
            % 4294967296
        ∧ t.mtr.live = s.mtr.live ∧ Keeps { evt := true, mtr := true, regs := true, way := true } s t)
    ∧ (∀ (s : State) (i : Fin 4) (c : Session) (role : Byte) (tx : Word) (body : List Byte), s.live = true →
        s.session i = some c → c.path ≠ 3 → c.mayAsk role.toNat .operator = true → meterReadOk body = true →
        oct 0 body = 0 →
        ∃ t, exec (.meterRead i role tx body) s = .next t
          ∧ (∀ rs, rs = ((((upFrom 0 4).filter fun f => bit f (oct 1 body)).map s.cumulative).flatten.take
                (ofLe (slice 10 2 body))) →
              Output.fsp i.val 0x20 1 tx.toNat (le 1 0 ++ slice 0 1 body ++ le 2 rs.length ++ le 5 s.cn ++ le 1 12 ++ [0, 0]
                ++ rs.flatten) ∈ t.out)
          ∧ t.mtr = s.mtr ∧ Keeps { fsp := true, out := true } s t)
    ∧ (∀ (s : State) (f : Fin 4) (ended : BitVec 40) (b : Balance), s.live = true → f.val < s.mtr.live.bal.length →
        ((s.bal f.val).open_.find? fun b => decide (b.cn = ended.toNat)) = some b → s.balanceDue f.val b ≤ s.cn →
        ∃ t r, exec (.balanceDeadline f ended) s = .next t
          ∧ (t.bal f.val).open_ = (s.bal f.val).open_.filter (fun y => decide (y.cn ≠ ended.toNat))
          ∧ (t.bal f.val).last = some r ∧ r.cn = ended.toNat
          ∧ Keeps { evt := true, mtr := true, way := true } s t))

/-- R298, R303, R308, R310, R321: a first bad frame of a good channel is to reset its receiver; the seal follows its loop; a
measurement ends with its window; a phase is absent and back; every 50 cycles the running meter checkpoints its registers.
-/
def Obligations.MeterPipelineFollowsItsInputs : Prop :=
  (∀ (s : State) (c : Fin 16), s.live = true → c.val < s.mtr.chs.length → (s.mtrCh c.val).stage = .good →
    ∃ t, exec (.channelFault c) s = .next t ∧ (t.mtrCh c.val).stage = .resetDue ∧ t.mtr.live = s.mtr.live
      ∧ Keeps { evt := true, mtr := true } s t)
  ∧ (∀ (s : State) (isOpen : Bool), s.live = true →
      (s.mtr.sealOpen ≠ isOpen →
        ∃ t, exec (.msealChange isOpen) s = .next t ∧ t.mtr.sealOpen = isOpen ∧ t.fld = { s.fld with mseal := isOpen }
          ∧ Keeps { evt := true, fld := true, mtr := true, way := true } s t)
      ∧ (s.mtr.sealOpen = isOpen → exec (.msealChange isOpen) s = .next s))
  ∧ (∀ (s : State) (p q dc : Int) (rms : Word), s.live = true → s.mtr.cal.busy = true →
      s.mtr.cal.start + s.mtr.cal.window ≤ s.cn →
      exec (.calDone p q rms dc) s = .next { s with mtr := { s.mtr with cal := { s.mtr.cal with
        busy := false, done := true, cycles := s.mtr.cal.window, p := p, q := q, rms := rms.toNat, dc := dc } } })
  ∧ (∀ (s : State) (phase : Fin 2), s.live = true →
      (∃ t, exec (.phaseAbsent phase) s = .next t
        ∧ t.mtr = { s.mtr with phaseAbsent := lset phase.val true s.mtr.phaseAbsent }
        ∧ Keeps { evt := true, mtr := true } s t)
      ∧ exec (.phaseValidCrossing phase) s = .next { s with mtr := { s.mtr with
          phaseAbsent := lset phase.val false s.mtr.phaseAbsent } })
  ∧ (∀ (s : State), s.live = true →
      (s.mtr.running = true → s.cn % 50 = 0 →
        ∃ t c r, exec .meterCheckpoint s = .next t ∧ t.mtr.checkpoints = c :: r ∧ c.live = s.mtr.live ∧ c.cn = s.cn
          ∧ r = s.mtr.checkpoints.take 1 ∧ t.mtr.live = s.mtr.live ∧ Keeps { evt := true, mtr := true } s t)
      ∧ (s.cn % 50 ≠ 0 → exec .meterCheckpoint s = .next s))

/-- R551, R556, R557, Table 11.3: a contactor drive in overcurrent is switched off and flagged; the test current of an off
drive finds its coil open or whole; MOD_3V3 above 600 mA is limited and flagged; an RS-485 port that falls idle after a
frame posts its event. R571, R572: the input in use that becomes invalid while the other is valid is left; the preferred
input that has returned is drawn from again. -/
def Obligations.PinsAndSupplyInputs : Prop :=
  ((∀ (s : State) (k : Fin 4), s.live = true → k.val < s.dim.contactors.length →
      ((s.kc k.val).drive = true →
        ∃ t, exec (.kcOvercurrent k) s = .next t ∧ (t.kc k.val).drive = false
          ∧ t.fld = { s.fld with kcOver := lset k.val true s.fld.kcOver } ∧ Keeps { dim := true, fld := true } s t)
      ∧ ((s.kc k.val).drive = false → exec (.kcOvercurrent k) s = .next s)
      ∧ (∀ isOpen, (s.kc k.val).drive = false →
        exec (.kcOpenLoad k isOpen) s = .next { s with fld := { s.fld with kcOpen := lset k.val isOpen s.fld.kcOpen } }))
    ∧ (∀ (s : State) (ma : Fin 65536) (ok : Bool), s.live = true → 600 < ma.val →
        exec (.modPowerOvercurrent ma ok) s = .next { s with fld := { s.fld with modOver := true, modMa := 600, modOk := ok } })
    ∧ (∀ (s : State) (port : Fin 2), s.live = true → bit (1 + port.val) (oct 0 (s.tileBlock .fieldIo 0)) = true →
        s.sliced (s.can.slotOf .fieldIo 0) = false →
        exec (.rs485IdleAfterFrame port) s = .next (s.postTile .fieldIo 0 port.val 1 0)))
  ∧ ((∀ (s : State) (x : SupplyState) (voltA voltB : Fin 65536), s.live = true → s.sys.onB = false → s.sys.bValid = true →
      (x ≠ .valid → ∃ t, exec (.supplyInputChange false x voltA voltB) s = .next t ∧ t.sys.onB = true ∧ t.sys.aValid = false
          ∧ t.sys.aOv = decide (x = .overvoltage) ∧ t.sys.aReverse = decide (x = .reversed) ∧ t.sys.voltA = voltA.val
          ∧ t.sys.voltB = voltB.val ∧ Keeps { evt := true, sys := true, way := true } s t)
      ∧ (∃ t, exec (.supplyInputChange false .valid voltA voltB) s = .next t ∧ t.sys.onB = false ∧ t.sys.aValid = true
          ∧ Keeps { evt := true, sys := true, way := true } s t))
    ∧ (∀ (s : State), s.live = true → bit 0 (s.reg 0x40000114) = false → s.sys.aValid = true → s.sys.onB = true →
        ∃ t, exec .supplyReturn s = .next t ∧ t.sys.onB = false ∧ Keeps { evt := true, sys := true, way := true } s t))

/-! Supply, holdover, dormancy, heat and start-up (18, 19). -/

/-- R573, R578 to R581, R586: with no valid input POWER_FAIL is counted and the last-gasp snapshot of a ready store holds
this cycle's count; an input that returns in time makes it a dip; without one the stands stop with every gate low and every
contactor drive off; the store spent, the retention registers and Ford's last gasp are lost. -/
def Obligations.PowerFailsDipsAndStops : Prop :=
  (∀ (s : State) (tick : Nat) (sums : List PhaseSum), s.live = true → s.supplied = false → s.sys.powerFail = false →
    s.sys.storeReady = true →
    ∃ t, exec (.powerFail tick sums) s = .next t ∧ t.sys.powerFail = true ∧ t.sys.dorm = none
      ∧ t.sys.failCount = min 65535 (s.sys.failCount + 1) ∧ t.time.mramCn = some s.cn ∧ t.cn = s.cn
      ∧ Keeps { cop := true, dim := true, evt := true, fsp := true, mtr := true, out := true, rad := true, sys := true,
                time := true, way := true } s t)
  ∧ (∀ (s : State), s.live = true → s.supplied = true → s.sys.powerFail = true → s.sys.thermal = false →
      ∃ t, exec .powerDip s = .next t ∧ t.sys.powerFail = false ∧ t.sys.dipCount = min 65535 (s.sys.dipCount + 1)
        ∧ t.sys.recharging = true ∧ Keeps { evt := true, sys := true, way := true } s t)
  ∧ (∀ (s : State), s.live = true → s.supplied = false → s.sys.powerFail = true →
      ∃ t, exec .holdoverStop s = .next t ∧ t.live = false ∧ t.sys.phase = .off
        ∧ (∀ c ∈ t.drv.chs, c.amplitude = 0 ∧ c.duty = 0) ∧ (∀ k ∈ t.dim.contactors, k.drive = false)
        ∧ t.fld.ppsOut = false ∧ t.fld.rts = false
        ∧ Keeps { dim := true, drv := true, fld := true, sys := true } s t)
  ∧ (∀ (s : State), s.live = false → s.supplied = false →
      ∃ t, exec .retentionLost s = .next t ∧ t.evt = { s.evt with image := none } ∧ t.ford.lgValid = false
        ∧ t.ford.lgMore = 0 ∧ t.sys.retentionFed = false ∧ t.sys.phase = .off
        ∧ Keeps { evt := true, ford := true, sys := true } s t)

/-- R435, R573, R576, R588, R589: a rail out of range is recorded even where no stand serves by it; the store's recharge
ends; PEAK_RESTART takes the present power; a base plate reading is kept with the hottest; at 140 degrees the stands stop
with the outputs off, and below 130 degrees they start again with cause THERMAL. -/
def Obligations.SupplyMonitorsAndHeat : Prop :=
  (∀ (s : State) (stand : Stand) (hold : Word), s.live = true → s.ford.safeHold = true →
    ∃ t, exec (.voltageMonitor stand hold) s = .next t ∧ t.ford = s.ford
      ∧ Keeps { evt := true, way := true } s t)
  ∧ (∀ (s : State) (mj : Fin 65536) (pct : Fin 256), s.sys.phase ≠ .off →
      exec (.storeRecharged mj pct) s = .next { s with sys := { s.sys with
        storeMj := mj.val, storePct := pct.val, storeReady := decide (500 ≤ mj.val), recharging := false } })
  ∧ (∀ (s : State) (w : Writer), s.live = true → canonicalRegs s.regs = true → w.role = .installer →
      ∃ t, exec (.peakRestart w) s = .next t ∧ t.sys = { s.sys with powerPeak := s.sys.powerIn }
        ∧ (∀ a, a ≠ 0x40000114 → t.reg a = s.reg a) ∧ Keeps { evt := true, regs := true, sys := true, way := true } s t)
  ∧ (∀ (s : State) (temp : Int), s.live = true →
      exec (.thermalHot temp) s = .next { s with sys := { s.sys with
        baseTemp := temp, tempMax := max s.sys.tempMax temp, hot := decide (1250 < temp) } })
  ∧ (∀ (s : State) (temp : Int) (tick : Nat) (sums : List PhaseSum), s.live = true → 1400 ≤ temp →
      ∃ t, exec (.thermalTrip temp tick sums) s = .next t ∧ t.sys.phase = .thermal ∧ t.live = false
        ∧ t.sys.baseTemp = temp ∧ (∀ c ∈ t.drv.chs, c.amplitude = 0 ∧ c.duty = 0)
        ∧ (∀ k ∈ t.dim.contactors, k.drive = false)
        ∧ Keeps { cop := true, dim := true, drv := true, evt := true, fld := true, fsp := true, mtr := true, out := true,
                  rad := true, sys := true, time := true, way := true } s t)
  ∧ (∀ (s : State) (temp : Int), s.sys.phase = .thermal → temp < 1300 → s.supplied = true → s.upd.activation = none →
      ∃ t, exec (.thermalRelease temp) s = .next t ∧ t.sys.phase = .starting ∧ t.sys.cause = 4 ∧ t.sys.tripped = true
        ∧ t.sys.thermal = false ∧ t.fsp.sessions = [] ∧ t.time.tstate = .unset)

/-- R582 to R585: an installer's dormancy command that nothing bars falls due; the timer does so after its time; entry
stores the count and turns the outputs off; with sessions closed and the events drained the stands power down and the
retention registers hold what Table 11.14 names; a wake source starts the module again with cause WAKE. -/
def Obligations.DormancyIsEnteredAndLeft : Prop :=
  (∀ (s : State) (value : Word) (w : Writer), s.live = true → canonicalRegs s.regs = true → w.role = .installer → s.mayDorm = true →
    field 31 16 value.toNat ≠ 0 →
    ∃ t, exec (.dormancyEnter value w) s = .next t ∧ t.sys = { s.sys with dormDue := true }
      ∧ Keeps { evt := true, regs := true, sys := true, way := true } s t)
  ∧ (∀ (s : State) (c : Cn), s.live = true → s.sys.autoSince = some c → bit 1 (s.reg 0x40000120) = true →
      c + field 31 16 (s.reg 0x40000120) * 100 ≤ s.cn → s.sys.dorm = none →
      exec .dormancyAuto s = .next { s with sys := { s.sys with dormDue := true } })
  ∧ (∀ (s : State), s.live = true → s.sys.dormDue = true → s.mayDorm = true → s.sys.dorm = none →
      ∃ t d, exec .dormancyEntry s = .next t ∧ t.sys.dorm = some d ∧ d.cn = s.cn ∧ t.sys.dormDue = false
        ∧ t.time = { s.time with mramCn := some s.cn } ∧ (∀ c ∈ t.drv.chs, c.amplitude = 0 ∧ c.duty = 0)
        ∧ (∀ k ∈ t.dim.contactors, k.drive = false)
        ∧ Keeps { dim := true, drv := true, evt := true, mtr := true, sys := true, time := true, way := true } s t)
  ∧ (∀ (s : State) (d : DormEntry), s.live = true → s.sys.dorm = some d → d.sessionsClosed = true →
      s.evt.drained = true →
      ∃ t, exec .dormancyPowerDown s = .next t ∧ t.sys.phase = .dormant ∧ t.live = false ∧ t.evt.image.isSome = true
        ∧ t.sys.dorm = none ∧ (∀ k ∈ t.dim.contactors, k.drive = false)
        ∧ Keeps { dim := true, drv := true, evt := true, fld := true, fsp := true, out := true, sys := true,
                  way := true } s t)
  ∧ (∀ (s : State) (source : Fin 6) (seconds : Nat) (good : Bool), s.sys.phase = .dormant → s.supplied = true →
      s.mayWake source seconds = true → s.upd.activation = none →
      ∃ t, exec (.dormancyWake source seconds good) s = .next t ∧ t.sys.phase = .starting ∧ t.sys.cause = 3
        ∧ t.sys.dormSource = source.val ∧ t.fsp.sessions = [] ∧ t.cn = s.cn)

/-- R591, R593, R599: the first valid input starts the module with no session, no queue and city time UNSET, with cause COLD
or POWER; the measurement of the stand that is to serve leaves the Drover phase; the canopy's load ends the start; a
preferred stand that has not loaded within 2 s gives way; an installer's reset starts anew with cause COMMAND and keeps CN.
-/
def Obligations.StartUpAndReset : Prop :=
  (∀ (s : State) (b good : Bool) (voltA voltB : Fin 65536) (base : Int), s.sys.phase = .off → s.upd.activation = none →
    base ≤ 1300 →
    ∃ t, exec (.powerUp b voltA voltB base good) s = .next t ∧ t.sys.phase = .starting
      ∧ t.sys.cause = (if s.sys.retentionFed = true then 2 else 1) ∧ t.sys.onB = b ∧ t.fsp.sessions = []
      ∧ t.que.queues = [] ∧ t.time.tstate = .unset ∧ t.sys.powerFail = false)
  ∧ (∀ (s : State) (drover firmware : BitVec 256) (backup : Bool), s.sys.phase = .starting → s.sys.bootPhase < 2 →
      ∃ t, exec (.bootMeasurement s.ford.active drover firmware true backup) s = .next t ∧ t.sys.bootPhase = 2
        ∧ t.key.drover = drover ∧ t.key.firmware = firmware ∧ t.ford = s.ford ∧ t.cn = s.cn ∧ t.fsp = s.fsp)
  ∧ (∀ (s : State) (octets : List Byte) (im : Image), s.sys.phase = .starting → s.sys.bootPhase = 2 →
      s.can.image = some im →
      ∃ t, exec (.canopyLoaded octets) s = .next t ∧ t.sys.phase = .running ∧ t.sys.bootPhase = 4 ∧ t.cn = s.cn)
  ∧ (∀ (s : State) (tick : Nat), s.build = .t → s.sys.phase = .starting → s.ford.active = .a →
      s.ford.b.state = .learning → 200000000 ≤ s.time.ref + (tick - s.time.tsc) →
      ∃ t, exec (.prefTimeout tick) s = .next t ∧ t.ford.active = .b ∧ t.ford.svc = .b ∧ t.ford.b.state = .active
        ∧ t.ford.a.state = .learning ∧ t.sys.prefOverridden = true
        ∧ Keeps { ford := true, sys := true, time := true } s t)
  ∧ (∀ (s : State) (value : Word) (w : Writer), s.live = true → canonicalRegs s.regs = true → bit 0 value.toNat = true → w.role = .installer →
      s.upd.activation = none → s.ford.safeHold = false →
      ∃ t, exec (.moduleReset value w) s = .next t ∧ t.sys.phase = .starting ∧ t.sys.cause = 6 ∧ t.cn = s.cn
        ∧ t.fsp.sessions = [] ∧ t.time.tstate = .unset)

/-! Transceivers, the neighbour ledger and received frames (03). -/

/-- R95, R103, R120, R130: each minute the duty bins roll; CNT_CLR zeroes the counters of every transceiver; a mode whose
PSDU cap is not below 100 octets is stored; a SafeIE write with VALID counts from the next cycle. R126, R130: a muted entry
is ACTIVE again at its CN; the ledger's commands read, write and free the entry that RAD_LDG_SEL selects, and no other. -/
def Obligations.LedgerAndRadioRegisters : Prop :=
  ((∀ (s : State), s.live = true →
      exec .dutyBinRoll s = .next { s with rad := { s.rad with duty := s.rad.duty.map fun p => (p.1, (0 :: p.2).take 60) } })
    ∧ (∀ (s : State) (value : Word) (w : Writer), s.live = true → canonicalRegs s.regs = true → bit 1 value.toNat = true →
        ∃ t, exec (.radCntClr value w) s = .next t
          ∧ t.rad = { s.rad with trxs := s.rad.trxs.map fun x =>
              { failed := x.failed, underTest := x.underTest, modeRefused := x.modeRefused } }
          ∧ Keeps { evt := true, rad := true, regs := true, way := true } s t)
    ∧ (∀ (s : State) (k : Fin 9) (value : Word) (w : Writer), s.live = true → canonicalRegs s.regs = true →
        field 11 8 value.toNat ≤ 6 → field 20 18 value.toNat ≤ 6 →
        100 ≤ psduCap (ctrlMode value.toNat) s.time.nominal → k.val < s.rad.trxs.length →
        ∃ t, exec (.trxCtrlWrite k value w) s = .next t
          ∧ RegsWith s t (0x40070100 + 0x40 * k.val) (merge 0xFF1F0F0F (s.reg (0x40070100 + 0x40 * k.val)) value.toNat)
          ∧ (t.trx k.val).modeRefused = false ∧ Keeps { evt := true, rad := true, regs := true, way := true } s t)
    ∧ (∀ (s : State) (value : Word) (w : Writer), s.live = true → canonicalRegs s.regs = true → bit 31 value.toNat = true →
        field 15 0 value.toNat ≤ 10000 →
        ∃ t, exec (.safeieWrite value w) s = .next t ∧ t.rad = { s.rad with safeCn := s.cn + 1 }
          ∧ RegsWith s t 0x40070038 (merge 0x80FFFFFF (s.reg 0x40070038) value.toNat)
          ∧ Keeps { evt := true, rad := true, regs := true, way := true } s t))
  ∧ ((∀ (s : State) (place : Fin 4096) (e : Entry) (m : Cn), s.live = true → tget place.val s.rad.ledger = some e →
      e.state = .muted → e.muteEnd = some m → m ≤ s.cn →
      exec (.ledgerUnmute place) s = .next { s with rad := { s.rad with
        ledger := tput place.val { e with state := .active, muteEnd := none } s.rad.ledger } })
    ∧ (∀ (s : State), s.live = true → canonicalRegs s.regs = true →
        (∃ t, exec .ledgerRead s = .next t ∧ t.rad = { s.rad with ldg := s.ldgEntry }
          ∧ t.reg 0x40070404 = s.ldgEntry.eui % 4294967296
          ∧ t.reg 0x40070408 = s.ldgEntry.eui / 4294967296 % 4294967296
          ∧ t.reg 0x40070424 = twos 16 s.ldgEntry.drift ∧ Keeps { rad := true, regs := true } s t)
        ∧ (∃ t e, exec .ledgerWrite s = .next t ∧ tget s.ldgSel t.rad.ledger = some e
          ∧ e.eui = s.reg 0x40070404 + 4294967296 * s.reg 0x40070408 ∧ e.short = field 15 0 (s.reg 0x4007040C)
          ∧ e.keyIndex = field 23 16 (s.reg 0x4007040C) ∧ e.h = 0 ∧ e.w = 0
          ∧ (∀ n, n ≠ s.ldgSel → tget n t.rad.ledger = tget n s.rad.ledger) ∧ Keeps { rad := true } s t)
        ∧ (∃ t e, exec .ledgerClear s = .next t ∧ tget s.ldgSel t.rad.ledger = some e ∧ e.state = .free
          ∧ (∀ n, n ≠ s.ldgSel → tget n t.rad.ledger = tget n s.rad.ledger) ∧ Keeps { rad := true } s t)))

/-- R92, R93, R541: a takeover of a standing grove by a free TRX8 ends an RF test; a transceiver that fails is FAILED and
its tests end. R122 to R125: a frame whose FCS fails changes nothing; a data frame under another module's address is counted
as filtered; one accepted under its counter, with room in the receive queue, counts as received. -/
def Obligations.TransceiversAndFrameFilters : Prop :=
  ((∀ (s : State) (value : Word) (w : Writer), s.live = true → canonicalRegs s.regs = true → bit 8 value.toNat = true → field 3 0 value.toNat < 8 →
      s.trx8Free = true →
      ∃ t, exec (.trx8Takeover value w) s = .next t ∧ t.rad = { s.rad with takeover := some (field 3 0 value.toNat) }
        ∧ t.mon = { s.mon with rfTest := none }
        ∧ Keeps { evt := true, mon := true, rad := true, regs := true, way := true } s t)
    ∧ (∀ (s : State) (k : Fin 9), s.live = true → k.val < s.rad.trxs.length →
        ((s.trx k.val).failed = false →
          ∃ t, exec (.transceiverFault k) s = .next t ∧ (t.trx k.val).failed = true
            ∧ Keeps { adm := true, cop := true, evt := true, mon := true, rad := true, way := true } s t)
        ∧ ((s.trx k.val).failed = true → exec (.transceiverFault k) s = .next s)))
  ∧ (∀ (s : State) (g : Fin 8) (f : RxFrame) (k : Nat), s.live = true →
      s.sliced (s.can.slotOf .linkCrypto g.val) = false → s.trxOf g.val = some k → s.tampered = false →
      s.trxRuns k = true → k < s.rad.trxs.length →
      (f.fcs = false → exec (.frameReceived g f) s = .next s)
      ∧ (f.fcs = true → f.kind = .data → f.wellFormed = true → s.filter g.val f = .counted →
        ∃ t, exec (.frameReceived g f) s = .next t ∧ (t.trx k).filtered = min 0xFFFFFFFF ((s.trx k).filtered + 1)
          ∧ t.rad.ledger = s.rad.ledger ∧ Keeps { rad := true } s t)
      ∧ (∀ e e', f.fcs = true → f.kind = .data → f.wellFormed = true → s.filter g.val f = .pass e →
        f.psdu ≤ s.trxCap k → f.mic = true →
        judgeFrame s.key.generation e f.keyIndex f.counter = .accept e' → s.rxFull g.val = false →
        ∃ t, exec (.frameReceived g f) s = .next t ∧ (t.trx k).rxOk = min 0xFFFFFFFF ((s.trx k).rxOk + 1)
          ∧ Keeps { dim := true, evt := true, freeIdx := true, node := true, out := true, que := true, rad := true,
                    way := true } s t))

/-! Lantern nodes (04). -/

/-- R126, R149 to R151: a join request of a node in ADMISSION, with a good MIC and a fresh nonce, in an admitting grove with
room, makes it a JOINING node under the entry it held; one whose MIC fails counts against the grove and its transceiver and
changes nothing else. R164, R183, R184: a grant that no KEEPALIVE follows in time makes its node ABSENT and reserves its
entry; a missed period counts; the reservation of a FREE entry ends. -/
def Obligations.JoinsAndNodeTimers : Prop :=
  (∀ (s : State) (g : Fin 8) (seq : BitVec 16) (body a : List Byte) (k key : Nat), s.live = true →
      s.admitsJoins g.val = true → body.length = 32 → s.admission (ofLe (slice 0 8 body)) = some a → s.trxOf g.val = some k →
      (exec (.joinReq g 0 seq body false) s = .next { s with rad := { s.rad with
          trxs := lmod (fun x => { x with viol := min 0xFFFFFFFF (x.viol + 1) }) k s.rad.trxs
          groveViol := lmod (fun n => min 0xFFFFFFFF (n + 1)) g.val s.rad.groveViol } })
      ∧ (s.nodeOf (ofLe (slice 0 8 body)) = none → bit 0 (oct 26 a) = false → s.joinsNow k < 24 →
        s.ownEntry g.val (ofLe (slice 0 8 body)) = some key →
        ∃ t n, exec (.joinReq g 0 seq body true) s = .next t ∧ n ∈ t.node.nodes ∧ n.eui = ofLe (slice 0 8 body)
          ∧ n.state = .joining ∧ n.short = key + 0x1000 ∧ n.grove = g.val ∧ n.parent = 0 ∧ n.hop = 1
          ∧ n.nonce = some (ofLe (slice 8 4 body)) ∧ n.grantCn = s.cn
          ∧ Keeps { dim := true, evt := true, freeIdx := true, node := true, rad := true, way := true } s t))
  ∧ ((∀ (s : State) (short : BitVec 16) (n : NodeRec), s.live = true → s.nodeAt short.toNat = some n →
      (n.state = .joining → n.grantCn + s.can.site.grantWait ≤ s.cn →
        ∃ t x, exec (.grantKeepaliveTimeout short) s = .next t ∧ x ∈ t.node.nodes ∧ x.eui = n.eui ∧ x.state = .absent
          ∧ Keeps { dim := true, evt := true, node := true, rad := true, way := true } s t)
      ∧ (n.state = .scheduled → s.cn % max 1 n.period = n.phase % max 1 n.period → n.heard = true →
        ∃ t x, exec (.keepalivePeriodEnd short) s = .next t ∧ x ∈ t.node.nodes ∧ x.eui = n.eui ∧ x.missed = 0
          ∧ x.heard = false ∧ Keeps { node := true } s t)
      ∧ (n.state = .scheduled → s.cn % max 1 n.period = n.phase % max 1 n.period → n.heard = false →
        s.missesExempt n = false → 2 ≤ n.missed →
        ∃ t x, exec (.keepalivePeriodEnd short) s = .next t ∧ x ∈ t.node.nodes ∧ x.eui = n.eui
          ∧ x.missed = n.missed + 1 ∧ x.state = .stray
          ∧ Keeps { adm := true, dim := true, evt := true, freeIdx := true, node := true, rad := true, way := true } s t))
    ∧ (∀ (s : State) (place : Fin 4096) (e : Entry) (r : Cn), s.live = true → tget place.val s.rad.ledger = some e →
        e.reserved = some r → e.state = .free → r ≤ s.cn →
        exec (.reservationEnd place) s = .next { s with rad := { s.rad with
          ledger := tput place.val { e with reserved := none } s.rad.ledger } }))

/-- R163, R164, R173, R176: a KEEPALIVE updates what the module holds of its node, and the first one of a JOINING node makes
it SCHEDULED; a FAULT is held until it is cleared; a report of neighbours replaces the list; a DIGEST_QUERY that agrees with
the items held only counts as heard. -/
def Obligations.NodeMessagesUpdateTheNode : Prop :=
  ∀ (s : State) (m : LinkMsg) (n : NodeRec), s.live = true → s.tampered = false → s.nodeAt m.short = some n →
    n.speaks = true →
    (m.body.length = 32 → n.state = .joining →
      ∃ t x, exec (.keepalive m) s = .next t ∧ x ∈ t.node.nodes ∧ x.eui = n.eui ∧ x.state = .scheduled
        ∧ x.level = ofLe (slice 20 2 m.body) ∧ x.rssi = ofTwos 8 (oct 24 m.body) ∧ x.lastKeepalive = s.cn
        ∧ x.firmware = ofLe (slice 28 4 m.body)
        ∧ Keeps { adm := true, dim := true, evt := true, freeIdx := true, node := true, rad := true, way := true } s t)
    ∧ (m.body.length = 11 → oct 1 m.body = 1 →
      ∃ t x, exec (.fault m) s = .next t ∧ x ∈ t.node.nodes ∧ x.eui = n.eui ∧ oct 0 m.body ∈ x.faults
        ∧ Keeps { dim := true, evt := true, node := true, rad := true, way := true } s t)
    ∧ (m.body.length = 11 → oct 1 m.body = 0 →
      ∃ t x, exec (.fault m) s = .next t ∧ x ∈ t.node.nodes ∧ x.eui = n.eui ∧ oct 0 m.body ∉ x.faults
        ∧ Keeps { dim := true, evt := true, node := true, rad := true, way := true } s t)
    ∧ (m.body.length ≤ 42 → reportOk m.body = true → oct 0 m.body = 3 →
      ∃ t x, exec (.report m) s = .next t ∧ x ∈ t.node.nodes ∧ x.eui = n.eui
        ∧ x.neighbours = (upFrom 0 (oct 6 m.body)).map
            (fun i => (ofLe (slice (7 + 5 * i) 2 m.body), oct (11 + 5 * i) m.body))
        ∧ Keeps { dim := true, evt := true, mtr := true, node := true, out := true, rad := true, way := true } s t)
    ∧ (m.body = [0, 0] → n.state = .scheduled → n.ids = [] →
      exec (.digestQuery m) s = .next (s.modNode n.eui fun x => { x with heard := true }))

/-- R171, R178, R179: a TALLY of a unicast target that names no failure settles that target OK; a NAK of a caravan's offer
is kept with its reason; a CHUNK_STATE is kept as what its node holds. -/
def Obligations.NodeAnswersReachTheirRequests : Prop :=
  ∀ (s : State) (m : LinkMsg) (n : NodeRec), s.live = true → s.tampered = false → s.nodeAt m.short = some n →
    n.speaks = true → n.state = .scheduled →
    (∀ (p : Promise) (x u : Target), s.adm.promises = [p] → p.id = ofLe (slice 0 4 m.body) → p.cls ≠ .safety →
      m.body.length = 10 → oct 9 m.body = 0 → bit 1 (oct 8 m.body) = true →
      (p.targets.find? fun y => decide (y.short = n.short)) = some x → x.result = none → x.queries = 0 → x.silent = false → x.radioLoss = false →
      u ∈ p.targets → u.short ≠ n.short → u.result = none →
      ∃ t q y, exec (.tally m) s = .next t ∧ t.adm.promises = [q] ∧ q.id = p.id ∧ y ∈ q.targets ∧ y.short = n.short
        ∧ y.result = some .ok
        ∧ Keeps { adm := true, dim := true, evt := true, fsp := true, node := true, out := true, rad := true,
                  upd := true, way := true } s t)
    ∧ (m.body.length = 6 → oct 0 m.body = 0x0A →
      exec (.nak m) s = .next ((s.modNode n.eui fun x => { x with heard := true }).caravanNak n.eui
        (ofLe (slice 1 2 m.body)) ((reasonOf (oct 3 m.body)).getD .unsupported)))
    ∧ (∀ (i : Nat) (c : Caravan) (x : CarNode), m.body.length = 40 →
      s.upd.caravans = [(i, c)] → c.id = ofLe (slice 0 4 m.body) → c.state ≠ .ended → c.nodes = [x] → x.eui = n.eui →
      ∃ t d y, exec (.chunkState m) s = .next t ∧ t.upd.caravans = [(i, d)] ∧ d.nodes = [y] ∧ y.eui = n.eui
        ∧ y.held = ofLe (slice 6 2 m.body)
        ∧ y.bitmap = setChunks x.bitmap (ofLe (slice 4 2 m.body)) (ofLe (slice 8 32 m.body))
        ∧ Keeps { node := true, upd := true } s t)

/-! Admission and promises (05). -/

/-- R189, R193, R199, R229, R231: an operator's ADMIT with a new id waits at the end of the queue of 64; a decision takes
the oldest waiting one, and answers it PROMISE or DECLINE. R210, R213, R215: a promise whose OUTCOME is due leaves; the
second query of a target that has not answered goes out with this cycle; a rejoin that has run 4,500 cycles ends. -/
def Obligations.AdmitsAndPromises : Prop :=
  ((∀ (s : State) (i : Fin 4) (c : Session) (role : Byte) (deadline : BitVec 40) (tx : Word) (body : List Byte),
      s.live = true → s.session i = some c → c.path ≠ 3 → c.mayAsk role.toNat .operator = true →
      (s.fsp.kept.find? fun k => decide (k.tx = tx.toNat)) = none → s.adm.queue.length < 64 →
      ∃ t, exec (.admitArrive i role deadline tx body) s = .next t
        ∧ t.adm = { s.adm with queue := s.adm.queue ++
            [{ session := some i, tx := tx.toNat, deadline := deadline.toNat, body := body }] }
        ∧ Keeps { adm := true, fsp := true } s t)
    ∧ (∀ (s : State) (q : Admit) (rest : List Admit) (i : Fin 4), s.live = true → s.adm.queue = q :: rest →
        q.session = some i →
        ∃ t type body, exec .admitDecision s = .next t ∧ t.adm.queue.map Admit.tx = rest.map Admit.tx
          ∧ (type = 0x11 ∨ type = 0x12) ∧ Output.fsp i.val type 1 q.tx body ∈ t.out
          ∧ Keeps { adm := true, drv := true, evt := true, fsp := true, node := true, out := true, rad := true,
                    upd := true, way := true } s t)
    ∧ (∀ (s : State), s.live = true → s.adm.queue = [] → exec .admitDecision s = .next s))
  ∧ ((∀ (s : State) (id : Word) (p : Promise), s.live = true →
      (s.adm.promises.find? fun p => decide (p.id = id.toNat)) = some p → p.outcomeBy ≤ s.cn →
      ∃ t, exec (.outcomeDeadline id) s = .next t
        ∧ t.adm.promises = s.adm.promises.filter (fun x => decide (x.id ≠ p.id))
        ∧ t.adm.bookings = s.adm.bookings.filter (fun b => decide (b.promise ≠ p.id))
        ∧ Keeps { adm := true, evt := true, fsp := true, out := true, rad := true, upd := true, way := true } s t)
    ∧ (∀ (s : State) (id : Word) (short : BitVec 16) (p : Promise) (x : Target), s.live = true → s.adm.promises = [p] →
        p.id = id.toNat → p.targets = [x] → x.short = short.toNat → x.result = none → x.queries = 1 →
        ∃ t q y, exec (.queryNoAnswer id short) s = .next t ∧ t.adm.promises = [q] ∧ q.id = p.id ∧ q.targets = [y]
          ∧ y.short = x.short ∧ y.queries = 2 ∧ y.queryCn = s.cn ∧ y.result = none
          ∧ Keeps { adm := true, rad := true } s t)
    ∧ (∀ (s : State) (r : Rejoin), s.live = true → s.adm.rejoin = some r → r.start + 4500 ≤ s.cn →
        ∃ t, exec .rejoinTimeout s = .next t ∧ t.adm.rejoin = none ∧ t.adm.promises = s.adm.promises
          ∧ Keeps { adm := true, evt := true, freeIdx := true, node := true, rad := true, way := true } s t))

/-! Dimming: contactors, route bins and waves (07). -/

/-- R280, Table 7.7: a feedback input's change is shown, and feedback that shows the contactor closed settles one that
closes; a contactor whose feedback time ends without it is retried with its drive reversed, and one that fails again is in
FAULT, recorded; after the pulse the drive follows the plan and the feedback time starts anew. -/
def Obligations.ContactorsSettleRetryAndFault : Prop :=
  (∀ (s : State) (k : Fin 4) (level : Bool), s.live = true →
    ∃ t, exec (.kcFeedbackChange k level) s = .next t ∧ t.fld = { s.fld with kcFb := lset k.val level s.fld.kcFb }
      ∧ (((s.kc k).state = .closed ∨ (s.kc k).state = .opened ∨ (s.kc k).state = .fault) → t.dim = s.dim)
      ∧ ((s.kc k).state = .closing → k.val < s.fld.kcFb.length → s.kcNoFeedback k = false → (s.kcFeeder k).isSome = true →
          xor level (bit 0 (ofLe (slice 2 1 (s.kcEntry k)))) = true →
          (t.kc k).state = .closed ∧ (t.kc k).drive = (s.kc k).drive ∧ (t.kc k).disagree = 0 ∧ t.way = s.way)
      ∧ Keeps { dim := true, evt := true, fld := true, way := true } s t)
  ∧ (∀ (s : State) (k : Fin 4), s.live = true → s.kcHeld = false → (s.kc k).pulse = false →
      (s.kc k).since + s.kcFeedbackTime k ≤ s.cn → s.kcNoFeedback k = false →
      ((s.kc k).state = .closing → exec (.contactorFeedbackTimeout k) s = .next (s.modKc k fun c =>
          { c with state := .retryClose, drive := !c.plan, pulse := true, since := s.cn }))
      ∧ ((s.kc k).state = .opening → exec (.contactorFeedbackTimeout k) s = .next (s.modKc k fun c =>
          { c with state := .retryOpen, drive := !c.plan, pulse := true, since := s.cn }))
      ∧ (((s.kc k).state = .retryClose ∨ (s.kc k).state = .retryOpen) →
          ∃ t, exec (.contactorFeedbackTimeout k) s = .next t
            ∧ t.dim = (s.modKc k fun c => { c with state := .fault, pulse := false }).dim
            ∧ Keeps { dim := true, evt := true, way := true } s t))
  ∧ (∀ (s : State) (k : Fin 4), s.live = true → s.kcHeld = false → (s.kc k).pulse = true → (s.kc k).since + 10 ≤ s.cn →
      (s.kc k).state = .retryClose → s.kcClosed k = false →
      exec (.contactorRetryPulseEnd k) s =
        .next (s.modKc k fun c => { c with drive := c.plan, pulse := false, since := s.cn }))
  ∧ (∀ (s : State) (k : Fin 4), s.live = true → s.kcHeld = false → (s.kc k).pulse = true → s.cn < (s.kc k).since + 10 →
      exec (.contactorRetryPulseEnd k) s = .next s)

/-- R291, R292: a learning bin that ends is dropped where it held fewer than 20 waves and merged with the stored values
otherwise; a route of local groups alone is retuned for the next bin at once. R177, R287, R290: a wave older than 8 cycles
is dropped; a fresh one within its hops raises the luminaires of a local group from the next cycle for its hold, and is
remembered for the group; a luminaire whose hold has ended falls. -/
def Obligations.RouteBinsAndWaves : Prop :=
  ((∀ (s : State) (now : Nat × Nat × Nat), s.live = true → s.binAt s.cn = some now →
      (s.dim.bin = some now → exec .routeBinEnd s = .next s)
      ∧ (s.dim.bin = none → exec .routeBinEnd s = .next { s with dim := { s.dim with bin := some now } })
      ∧ (∀ (old : Nat × Nat × Nat) (e : List Byte), s.dim.bin = some old → now ≠ old → s.inForce 0x0014 = [e] →
          routeLearns e = true →
          ∃ t, exec .routeBinEnd s = .next t ∧ t.dim.bin = some now ∧ (t.route e).waves = 0 ∧ (t.route e).speedSum = 0
            ∧ (t.route e).detections = []
            ∧ ((s.route e).waves < 20 → (t.route e).learned = (s.route e).learned)
            ∧ (20 ≤ (s.route e).waves → tget (48 * old.2.2 + old.2.1) (s.route e).learned = none →
                (tget (48 * old.2.2 + old.2.1) (t.route e).learned).map BinStat.speed =
                  some (quotientNat (s.route e).speedSum (s.route e).waves))
            ∧ Keeps { dim := true } s t))
    ∧ (∀ (s : State) (b : Cn × Nat × Nat) (e : List Byte) (new : Tuning), s.live = true → s.nextBin = some b → s.cn ≤ b.1 →
        s.inForce 0x0014 = [e] → routeLearns e = true → (s.routeScheduled e).all localGroup = true →
        s.tuningFor e (tget (48 * b.2.2 + b.2.1) (s.route e).learned) = new →
        (new = (s.route e).tuning → exec .routeRetune s = .next s)
        ∧ (new.n ≠ (s.route e).tuning.n → ∃ t, exec .routeRetune s = .next t ∧ (t.route e).tuning = new
            ∧ (t.route e).learned = (s.route e).learned ∧ Keeps { dim := true } s t)))
  ∧ ((∀ (s : State) (g : Fin 8) (w : Wave), s.live = true → w.detected + 8 < s.cn → exec (.waveReceived g w) s = .next s)
    ∧ (∀ (s : State) (g : Fin 8) (w : Wave) (e : List Byte) (m l : Nat), s.live = true → s.cn ≤ w.detected + 8 →
        s.tampered = false → s.sliced (s.can.slotOf .waveRelay g.val) = false → s.routeEntry w.route = some e →
        s.routeGrove e = some g.val → s.routeScheduled e = [m] → localGroup m = true → s.dim.waveSeen = [] →
        routeReverse e = true → w.position = 1 → w.hops = 1 → s.groupLums m = [l] → s.lumEngine l = none →
        l < s.drv.lums.length →
        ∃ t v, exec (.waveReceived g w) s = .next t ∧ (t.lum l).wave = some v ∧ w.level ≤ v.level ∧ v.start = s.cn + 1
          ∧ v.holdEnd = s.cn + 1 + w.hold ∧ v.fall = none
          ∧ t.dim = { s.dim with waveSeen :=
              [{ group := m, originator := w.originator, seq := w.seq, cn := s.cn, relayed := false }] }
          ∧ Keeps { dim := true, drv := true, evt := true } s t)
    ∧ (∀ (s : State) (l : Fin 32) (v : WaveUp), s.live = true → (s.lum l).wave = some v →
        (v.fall = none → v.holdEnd ≤ s.cn → exec (.waveHoldEnd l) s =
          .next (s.modLum l fun x => { x with wave := some { v with fall := some s.cn } }))
        ∧ (s.cn < v.holdEnd → exec (.waveHoldEnd l) s = .next s)))

/-! The direct drive (09). -/

/-- R345, R353, R358, R361, R362: a frame is counted; a confirmed fault is retried at its CN; the die cuts a channel off at
the eighth overcurrent period in a row or at an overvoltage; a gate supply that is low holds every channel of the half; an
NTC reading out of range is OPEN or SHORT; a half that fails goes off and is felled. -/
def Obligations.StringsAreCutOffAndRetried : Prop :=
  (∀ (s : State) (meas : List ChMeas) (ntc : List (Fin 8 × Nat)) (base : Int), s.live = true → s.sys.dorm = none →
    (s.drv.frame < s.drv.k →
      ∃ t, exec (.pwmFrameStart meas ntc (some base)) s = .next t ∧ t.drv.frame = s.drv.frame + 1
        ∧ t.sys = { s.sys with baseTemp := base, tempMax := max s.sys.tempMax base, hot := decide (1250 < base) }
        ∧ Keeps { drv := true, evt := true, freeIdx := true, regs := true, sys := true, time := true, way := true } s t)
    ∧ (s.drv.k ≤ s.drv.frame → exec (.pwmFrameStart meas ntc (some base)) s = .next s))
  ∧ (∀ (s : State) (c : Fin 32) (r : Cn), s.live = true → (s.ch c).retryCn = some r →
      (r ≤ s.cn → (s.ch c).fault ≠ 0 → (s.ch c).lasting = false → exec (.stringRetry c) s = .next (s.modCh c fun x =>
        { x with retryCn := none, retrying := some 0, dieOff := 0, ocPeriods := 0 }))
      ∧ (s.cn < r → exec (.stringRetry c) s = .next s))
  ∧ (∀ (s : State) (c : Fin 32) (again : Bool) (n : Nat), s.live = true → s.chOff c = false →
      n = (if again then (s.ch c).ocPeriods + 1 else 1) →
      ∃ t, exec (.dieOvercurrent c again) s = .next t
        ∧ (n < 8 → t.drv = (s.modCh c fun x => { x with ocPeriods := n }).drv)
        ∧ (8 ≤ n → t.drv = (s.modCh c fun x => { x with dieOff := 3, ocPeriods := 0, amplitude := 0, duty := 0 }).drv)
        ∧ Keeps { drv := true, evt := true } s t)
  ∧ (∀ (s : State) (c : Fin 32), s.live = true → s.chOff c = false →
      ∃ t, exec (.dieOvervoltage c) s = .next t
        ∧ t.drv = (s.modCh c fun x => { x with dieOff := 4, ocPeriods := 0, amplitude := 0, duty := 0 }).drv
        ∧ Keeps { drv := true, evt := true } s t)
  ∧ (∀ (s : State) (die : Fin 10) (h : Nat), s.live = true → s.halfOf die = some h →
      ∃ t, exec (.gateSupplyLow die) s = .next t ∧ t.drv.gateLow = lset die.val true s.drv.gateLow
        ∧ (∀ i, i < 4 → (t.ch (4 * h + i)).amplitude = 0 ∧ (t.ch (4 * h + i)).duty = 0)
        ∧ Keeps { drv := true, evt := true } s t)
  ∧ (∀ (s : State) (die : Fin 10), s.live = true → exec (.gateSupplyRestored die) s =
      .next { s with drv := { s.drv with gateLow := lset die.val false s.drv.gateLow } })
  ∧ (∀ (s : State) (n : Fin 8) (mv : Nat), s.live = true →
      (50 ≤ mv ∧ mv ≤ 2450 → exec (.ntcFault n mv) s = .next s)
      ∧ (mv < 50 → ∃ t, exec (.ntcFault n mv) s = .next t ∧ t.drv = { s.drv with
            ntcShort := lset n.val true s.drv.ntcShort, ntcOpen := lset n.val false s.drv.ntcOpen }
          ∧ Keeps { drv := true, evt := true } s t)
      ∧ (2450 < mv → ∃ t, exec (.ntcFault n mv) s = .next t ∧ t.drv = { s.drv with
            ntcShort := lset n.val false s.drv.ntcShort, ntcOpen := lset n.val true s.drv.ntcOpen }
          ∧ Keeps { drv := true, evt := true } s t))
  ∧ (∀ (s : State) (die : Fin 10), s.live = true →
      (s.unitState (unitOf .a 7 die.val) = .felled → exec (.halfFailure die) s = .next s)
      ∧ (∀ h, s.unitState (unitOf .a 7 die.val) ≠ .felled → s.cop.slices = [] → s.halfOf die = some h →
          ∃ t, exec (.halfFailure die) s = .next t ∧ t.drv.failed = s.drv.failed ++ [h]
            ∧ (t.unit (unitOf .a 7 die.val)).mark = some .felled
            ∧ (∀ i, i < 4 → (t.ch (4 * h + i)).amplitude = 0 ∧ (t.ch (4 * h + i)).duty = 0)
            ∧ Keeps { cop := true, drv := true, evt := true, rad := true, way := true } s t))

/-- R357, R361, R378: an installer's LEARN of a channel that nothing bars records its temperature and begins the four
points, and after 200 cycles with all of them the channel is LEARNED; CLEAR ends a lasting fault; CNT_CLR zeroes the
counters. -/
def Obligations.StringsAreLearnedAndCleared : Prop :=
  (∀ (s : State) (c : Fin 32) (w : Writer), s.live = true → w.role = .installer → canonicalRegs s.regs = true →
    (s.learnBarred c = false → ∃ t, exec (.stringLearn c w) s = .next t
      ∧ t.drv = (s.modCh c fun x => { x with
          learn := some { start := s.cn }, learned := false, lasting := false, fault := 0, retryCn := none, retrying := none
          dieOff := 0, run := [0, 0, 0, 0, 0], ledM := 0 }).drv
      ∧ t.reg (0x40060128 + 0x40 * c.val) = twos 16 (s.chTemp c)
      ∧ Keeps { drv := true, evt := true, regs := true, way := true } s t)
    ∧ (s.learnBarred c = true → ∃ t, exec (.stringLearn c w) s = .next t
      ∧ t.drv = (s.modCh c fun x => { x with cmdRefused := true }).drv
      ∧ Keeps { drv := true, evt := true, regs := true, way := true } s t))
  ∧ (∀ (s : State) (c : Fin 32) (n : Learn), s.live = true → (s.ch c).learn = some n →
      (n.start + 200 ≤ s.cn → n.point = 4 → exec (.stringLearnDone c) s =
        .next (s.modCh c fun x => { x with learn := none, learned := true }))
      ∧ (s.cn < n.start + 200 → exec (.stringLearnDone c) s = .next s))
  ∧ (∀ (s : State) (c : Fin 32) (w : Writer), s.live = true → canonicalRegs s.regs = true → w.role = .installer →
      ∃ t, exec (.stringClear c w) s = .next t
        ∧ ((s.ch c).lasting = true → t.drv = (s.modCh c fun x =>
            { x with lasting := false, fault := 0, dieOff := 0, run := [0, 0, 0, 0, 0] }).drv)
        ∧ ((s.ch c).lasting = false → t.drv = s.drv)
        ∧ Keeps { drv := true, evt := true, regs := true, way := true } s t)
  ∧ (∀ (s : State) (value : Word) (w : Writer), s.live = true → canonicalRegs s.regs = true → bit 1 value.toNat = true →
      ∃ t, exec (.drvCntClr value w) s = .next t
        ∧ t.drv = { s.drv with evacuations := 0, sensors := s.drv.sensors.map fun x => { x with windows := 0 } }
        ∧ Keeps { drv := true, evt := true, regs := true, way := true } s t)

/-- R363, R366, R368, R371, R375: a window of a port that is due is shown with its CN and counted, and a saturated one in
the highest range faults its group; TW LEARN begins with the warm primary; START waits for the next CYC, STOP ends a run; an
engine of mode 2 starts at its city time, once. -/
def Obligations.ColourWindowsAndEnginesRun : Prop :=
  (∀ (s : State) (port : Fin 4) (x y z c : Fin 1048576) (sat : List Bool), s.live = true →
    s.sliced (s.can.slotOf .colour port.val) = false → bit 8 (s.reg (0x40060A00 + 0x20 * port.val)) = true →
    port.val < s.drv.sensors.length →
    (s.cn % s.icyc port = 0 → ((upFrom 0 4).filter fun g => bit 0 (s.twReg g 0) && bit 3 (s.twReg g 0)
        && decide (field 2 1 (s.twReg g 0) = port.val)) = [] →
      ∃ t, exec (.colourWindowEnd port x y z c sat) s = .next t
        ∧ (lget {} port.val t.drv.sensors).values = [x.val, y.val, z.val, c.val]
        ∧ (lget {} port.val t.drv.sensors).cn = s.cn
        ∧ (lget {} port.val t.drv.sensors).windows = satAdd 65535 (lget {} port.val s.drv.sensors).windows 1
        ∧ (lget {} port.val t.drv.sensors).valid = (!decide (100 * c.val < 5 * 1048575) && !decide (90 * 1048575 < 100 * c.val))
        ∧ t.drv.chs = s.drv.chs ∧ t.drv.lums = s.drv.lums ∧ t.drv.groups = s.drv.groups
        ∧ Keeps { drv := true, evt := true, regs := true } s t)
    ∧ (∀ g, s.cn % s.icyc port = 0 → ((upFrom 0 4).filter fun g => bit 0 (s.twReg g 0) && bit 3 (s.twReg g 0)
        && decide (field 2 1 (s.twReg g 0) = port.val)) = [g] → field 1 0 (s.reg (0x40060A00 + 0x20 * port.val)) = 3 →
      sat = [true, true, true, true] → g < s.drv.groups.length →
      ∃ t, exec (.colourWindowEnd port x y z c sat) s = .next t ∧ (t.tw g).sensorFault = true
        ∧ (lget {} port.val t.drv.sensors).fault = true ∧ t.drv.chs = s.drv.chs
        ∧ Keeps { drv := true, evt := true, regs := true } s t)
    ∧ (s.cn % s.icyc port ≠ 0 → exec (.colourWindowEnd port x y z c sat) s = .next s))
  ∧ (∀ (s : State) (g : Fin 4) (w : Writer), s.live = true → canonicalRegs s.regs = true → w.role = .installer → s.twChannels g = [] →
      ∃ t, exec (.twLearn g w) s = .next t
        ∧ t.drv = (s.modTw g fun t => { t with learn := some {}, learned := false }).drv
        ∧ Keeps { drv := true, evt := true, regs := true, way := true } s t)
  ∧ (∀ (s : State) (p : Fin 8) (w : Writer), s.live = true → canonicalRegs s.regs = true → (s.pe p).evac = false →
      (s.peMode p = 0 → ∃ t, exec (.peStart p w) s = .next t ∧ t.drv = (s.modPe p fun e => { e with pending := true }).drv
        ∧ Keeps { drv := true, evt := true, regs := true, way := true } s t)
      ∧ (∃ t, exec (.peStop p w) s = .next t ∧ (t.pe p).run = none ∧ (t.pe p).pending = false
        ∧ t.drv.chs = s.drv.chs ∧ t.drv.lums = s.drv.lums
        ∧ Keeps { drv := true, evt := true, regs := true, way := true } s t))
  ∧ (∀ (s : State) (p : Fin 8) (tick : Nat), s.live = true → s.peMode p = 2 →
      (s.peStartNs p ≤ (s.advanceTo tick).cityNs → (s.pe p).timed = false → (s.pe p).evac = false →
        ∃ t, exec (.peTimedStart p tick) s = .next t
          ∧ t.drv = (s.modPe p fun _ =>
              { run := some { startCn := s.cn, startNs := s.peStartNs p }, pending := false, timed := true }).drv
          ∧ t.time = (s.advanceTo tick).time ∧ Keeps { drv := true, evt := true, time := true } s t)
      ∧ ((s.pe p).timed = true → exec (.peTimedStart p tick) s = .next (s.advanceTo tick)))

/-- R374, R375: an edge of INC_IN is shown; an evacuation enabled on an active input starts on its engine, once, and is
counted; without LATCH it ends once the input is inactive, with LATCH at an installer's RELEASE. -/
def Obligations.EvacuationsStartAndEnd : Prop :=
  (∀ (s : State) (rising : Bool) (tick : Nat) (sub : Fin 10), s.live = true →
    ∃ t, exec (.incInEdge rising tick sub) s = .next t ∧ t.fld = { s.fld with incIn := rising }
      ∧ Keeps { evt := true, fld := true, time := true } s t)
  ∧ (∀ (s : State), s.live = true → bit 0 (s.reg 0x40060014) = true → s.incActive = true →
      (s.drv.engines.any PeSt.evac = false → field 6 4 (s.reg 0x40060014) < s.drv.engines.length →
        ∃ t r, exec .evacStart s = .next t ∧ (t.pe (field 6 4 (s.reg 0x40060014))).run = some r ∧ r.evac = true
          ∧ r.startCn = (s.evacFrame (field 6 4 (s.reg 0x40060014))).1 ∧ t.drv.started = true
          ∧ t.drv.evacuations = satAdd 65535 s.drv.evacuations 1 ∧ t.drv.chs = s.drv.chs ∧ t.drv.lums = s.drv.lums
          ∧ Keeps { drv := true, evt := true, way := true } s t)
      ∧ (s.drv.engines.any PeSt.evac = true → exec .evacStart s = .next s))
  ∧ (∀ (s : State) (p : Nat), s.live = true → s.evacEngine = some p →
      (s.incActive = false → bit 2 (s.reg 0x40060014) = false →
        ∃ t, exec .evacEnd s = .next t ∧ t.drv = (s.modPe p fun e => { e with run := none, pending := false }).drv
          ∧ Keeps { drv := true, evt := true, way := true } s t)
      ∧ (s.incActive = true ∨ bit 2 (s.reg 0x40060014) = true → exec .evacEnd s = .next s)
      ∧ (∀ (w : Writer), w.role = .installer → canonicalRegs s.regs = true → s.incActive = false →
          bit 2 (s.reg 0x40060014) = true →
          ∃ t, exec (.evacRelease w) s = .next t
            ∧ t.drv = (s.modPe p fun e => { e with run := none, pending := false }).drv
            ∧ Keeps { drv := true, evt := true, regs := true, way := true } s t))

/-! Canopy and clearings (10); coppice (13). -/

/-- R394, R395, R397, R402: the next region's clearing is fixed at the earliest allowed CN with its length; it ends at c + L
with the next region still to clear, and not before; the segment digest is refreshed. -/
def Obligations.ClearingsAreFixedAndEnd : Prop :=
  (∀ (s : State) (a : CanActivation) (r : Nat) (rest : List Nat), s.live = true → s.can.activation = some a →
    a.regions = r :: rest → s.can.clearing = none →
    (∀ c, s.earliestStart r clearingSearch (max a.cn (s.cn + 1)) = some c →
      ∃ t, exec .clearingFix s = .next t
        ∧ t.can = { s.can with clearing := some { region := r, c := c, len := 2 + ((s.can.slotsOf r).length + 3) / 4 } }
        ∧ (s.upd.activation = none → Keeps { can := true } s t)
        ∧ Keeps { can := true, evt := true, upd := true, way := true } s t)
    ∧ (s.earliestStart r clearingSearch (max a.cn (s.cn + 1)) = none → exec .clearingFix s = .next s))
  ∧ (∀ (s : State) (k : Clearing) (a : CanActivation) (r q : Nat) (rest : List Nat), s.live = true →
      s.can.clearing = some k → s.can.activation = some a → a.regions = r :: q :: rest → k.started = true →
      (k.c + k.len ≤ s.cn → ∃ t, exec .clearingEnd s = .next t ∧ t.can.clearing = none
        ∧ t.can.activation = some { a with regions := q :: rest } ∧ t.cn = s.cn
        ∧ Keeps { can := true, drv := true, evt := true, fld := true, freeIdx := true, fsp := true, key := true, mon := true,
                  mtr := true, node := true, rad := true, regs := true, time := true, upd := true, way := true } s t)
      ∧ (s.cn < k.c + k.len → exec .clearingEnd s = .next s))
  ∧ (∀ (s : State), s.live = true →
      exec .segmentDigestRefresh s = .next { s with can := { s.can with segDigest := s.segmentDigest } })

/-- R455, R458, R459, R461, R464, R465: a unit falls due a day after its last slice; the first candidate with room is fixed,
with a free unit to carry its function, or deferred and counted; a run with equal signatures passes, one cut short is
incomplete, a first failure is retested, and one that fails again is felled; a unit starved for seven days raises its alarm.
-/
def Obligations.SlicesAreFixedRunAndJudged : Prop :=
  (∀ (s : State) (stand : Stand) (kind : Fin 8) (index : Fin 8192) (id : UnitId), s.live = true →
    id = unitOf stand kind.val index.val →
    (s.hasUnit id = true → (s.unit id).due = none → (s.unit id).mark ≠ some .felled →
      (s.unit id).lastCn + s.coppiceDay ≤ s.cn → exec (.unitFallsDue stand kind index) s =
        .next (s.putUnit { s.unit id with due := some ((s.unit id).lastCn + s.coppiceDay) }))
    ∧ (s.cn < (s.unit id).lastCn + s.coppiceDay → exec (.unitFallsDue stand kind index) s = .next s))
  ∧ (∀ (s : State) (stand : Stand) (lead : Fin 16) (id : UnitId) (rest : List UnitId) (x : Slice), s.live = true →
      bit 0 (s.reg 0x400A0000) = true → (s.ford.of stand).state ≠ .absent → s.sys.powerFail = false → s.sys.dorm = none →
      s.candidates stand = id :: rest → s.roomFor stand id = true → x = s.sliceFor stand id (s.cn + lead.val + 1) →
      (s.deferral x = none → x.victim = none → s.cop.command = none → exec (.sliceFix stand lead) s =
          .next { s with cop := { s.cop with slices := s.cop.slices ++ [x] } })
      ∧ (∀ v, s.deferral x = none → x.victim = some v → s.carriers x ≠ [] →
          ∃ t y k, exec (.sliceFix stand lead) s = .next t ∧ t.cop.slices = s.cop.slices ++ [y] ∧ y.unit = id
            ∧ y.c = s.cn + lead.val + 1 ∧ y.carrier = some k ∧ k ∈ s.carriers x ∧ y.destructive = false
            ∧ Keeps { cop := true, freeIdx := true } s t)
      ∧ (∀ r, s.deferral x = some r → rest = [] →
          exec (.sliceFix stand lead) s = .next (s.deferSlice id r)))
  ∧ (∀ (s : State) (stand : Stand) (lead : Fin 16), s.live = true → bit 0 (s.reg 0x400A0000) = false →
      exec (.sliceFix stand lead) s = .next s)
  ∧ (∀ (s : State) (stand : Stand) (kind : Fin 8) (index : Fin 8192) (patterns : Word) (complete : Bool)
      (misr expected : BitVec 64) (x : Slice), s.live = true → s.cop.slices = [x] →
      x.unit = unitOf stand kind.val index.val → x.started = true → x.ended = false →
      (s.terminal x = none ∨ s.terminal x = some patterns.toNat) →
      ∃ t, exec (.sliceRunEnd stand kind index patterns complete misr expected) s = .next t
        ∧ t.cop.misr = misr.toNat ∧ t.cop.expected = expected.toNat ∧ t.cop.lastPat = patterns.toNat
        ∧ (complete = false → t.cop.incompletes = bump s.cop.incompletes ∧ t.cop.lastResult = 3
            ∧ t.cop.slices = [{ x with ended := true, suspect := x.retest }])
        ∧ (complete = true → misr = expected → x.retest = false → t.cop.passes = bump s.cop.passes ∧ t.cop.lastResult = 1
            ∧ (t.unit x.unit).due = none ∧ (t.unit x.unit).lastCn = s.cn
            ∧ t.cop.slices = [{ x with ended := true, suspect := false }])
        ∧ (complete = true → misr ≠ expected → x.retest = false → t.cop.lastResult = 2
            ∧ t.cop.slices = [{ x with retest := true, c := s.cn + 1 }])
        ∧ (complete = true → misr ≠ expected → x.retest = true → t.cop.lastResult = 5
            ∧ t.cop.fellings = bump s.cop.fellings ∧ (t.unit x.unit).mark = some .felled ∧ t.cop.slices = [])
        ∧ Keeps { cop := true, evt := true, rad := true, way := true } s t)
  ∧ (∀ (s : State) (stand : Stand) (kind : Fin 8) (index : Fin 8192) (d : Cn), s.live = true →
      (s.unit (unitOf stand kind.val index.val)).due = some d →
      (d + 7 * s.coppiceDay ≤ s.cn → (s.unit (unitOf stand kind.val index.val)).starved = false →
        ∃ t, exec (.coppiceStarved stand kind index) s = .next t
          ∧ t.cop = (s.putUnit { s.unit (unitOf stand kind.val index.val) with starved := true }).cop
          ∧ Keeps { cop := true, evt := true, way := true } s t)
      ∧ (s.cn < d + 7 * s.coppiceDay → exec (.coppiceStarved stand kind index) s = .next s))

/-- R467, R469, R471: the standby's idle paths are tested one at a time, a failure once more, and a lasting one withdraws
the standby; RUN and DESTRUCT command the unit named; a maker releases a SUSPECT unit; CNT_CLR zeroes the counters. -/
def Obligations.IdlePathsAndCoppiceCommands : Prop :=
  (∀ (s : State) (item : Fin 10), s.live = true → s.following = true → s.ford.safeHold = false → s.cop.idle = none →
    bit 0 (s.reg 0x400A0000) = true → s.upd.activation = none →
    exec (.idlePathSlice item) s = .next { s with
      cop := { s.cop with idle := some item.val, idleRetest := false }
      ford := { s.ford with idleClass := if item.val < 8 then some item.val else none } })
  ∧ (∀ (s : State) (i : Nat), s.live = true → s.cop.idle = some i →
      (exec (.idlePathEnd true) s = .next { s with
        cop := { s.cop with idle := none, idleRetest := false }, ford := { s.ford with idleClass := none } })
      ∧ (s.cop.idleRetest = false →
        exec (.idlePathEnd false) s = .next { s with cop := { s.cop with idleRetest := true } })
      ∧ (s.cop.idleRetest = true → s.following = true → s.ford.diag = none → s.upd.activation = none →
        ∃ t, exec (.idlePathEnd false) s = .next t ∧ t.cop.idle = none
          ∧ (t.ford.of s.ford.active.other).state = .withdrawn ∧ t.ford.active = s.ford.active
          ∧ Keeps { cop := true, evt := true, ford := true, freeIdx := true, rad := true, way := true } s t))
  ∧ (∀ (s : State) (w : Writer) (id : UnitId), s.live = true → canonicalRegs s.regs = true → w.role = .installer →
      id = unitNamed w.stand (s.reg 0x400A0018) → s.hasUnit id = true →
      (∃ t, exec (.coppiceRun w) s = .next t ∧ t.cop = { s.cop with command := some (id, false) }
        ∧ Keeps { cop := true, evt := true, regs := true, way := true } s t)
      ∧ (∃ t, exec (.coppiceDestruct true w) s = .next t ∧ t.cop = { s.cop with command := some (id, true) }
        ∧ Keeps { cop := true, evt := true, regs := true, way := true } s t)
      ∧ (∃ t, exec (.coppiceDestruct false w) s = .next t
        ∧ t.cop = { s.cop with command := s.cop.command.map fun c => (c.1, true) }
        ∧ Keeps { cop := true, evt := true, regs := true, way := true } s t))
  ∧ (∀ (s : State) (kind : Fin 8) (index : Fin 65536) (w : Writer) (id : UnitId), s.live = true → canonicalRegs s.regs = true → w.role = .maker →
      id = unitOf w.stand kind.val index.val → (s.unit id).mark = some .suspect →
      (s.cop.slices.any fun x => decide (x.unit = id)) = false →
      ∃ t, exec (.suspectRelease kind index w) s = .next t
        ∧ t.cop = (s.modUnit id fun u => { u with mark := none }).cop
        ∧ Keeps { cop := true, evt := true, regs := true, way := true } s t)
  ∧ (∀ (s : State) (w : Writer), s.live = true → canonicalRegs s.regs = true → w.role = .installer →
      ∃ t, exec (.copCntClr w) s = .next t
        ∧ t.cop = { s.cop with passes := 0, transients := 0, incompletes := 0, fellings := 0, deferrals := 0 }
        ∧ Keeps { cop := true, evt := true, regs := true, way := true } s t)

/-! Ford and the stands (12). -/

/-- R432 to R435: a divergence, the active stand's lost heartbeat or WITHDRAW, or two claims hold the outputs and ask both
stands; the standby's lost heartbeat or WITHDRAW withdraws it alone; one claim is only noted. -/
def Obligations.FordHoldsAndAsks : Prop :=
  (∀ (s : State) (cls : Fin 8) (pin : BitVec 16) (tag : BitVec 64), s.live = true →
    (s.compares cls.val = true → s.ford.holding = false → s.following = true →
      ∃ t, exec (.divergence cls pin tag) s = .next t
        ∧ t.ford = { s.ford with
            divergences := bump s.ford.divergences, divClass := cls.val + 1, divPin := pin.toNat, divTag := tag.toNat
            holding := true, cause := 2, diag := some { cause := 2 } }
        ∧ Keeps { evt := true, ford := true, way := true } s t)
    ∧ (s.compares cls.val = false → exec (.divergence cls pin tag) s = .next s))
  ∧ (∀ (s : State) (hold : Word), s.live = true → s.following = true → s.ford.safeHold = false → s.ford.diag = none →
      s.serves s.ford.active = true → s.upd.activation = none →
      (∃ t, exec (.heartbeatLost s.ford.active hold) s = .next t ∧ t.ford.holding = true ∧ t.ford.cause = 3
        ∧ t.ford.diag = some (Diagnosis.set { cause := 3 } s.ford.active 128) ∧ t.ford.active = s.ford.active
        ∧ Keeps { evt := true, ford := true, way := true } s t)
      ∧ (s.inProbation = false → ∃ t, exec (.heartbeatLost s.ford.active.other hold) s = .next t
        ∧ (t.ford.of s.ford.active.other).state = .withdrawn ∧ (t.ford.of s.ford.active.other).testing = true
        ∧ t.ford.active = s.ford.active ∧ t.ford.holding = s.ford.holding
        ∧ Keeps { cop := true, evt := true, ford := true, rad := true, way := true } s t)
      ∧ (∀ (causes : Fin 64), causes ≠ 0 →
        (∃ t, exec (.withdraw s.ford.active causes hold) s = .next t ∧ t.ford.holding = true ∧ t.ford.cause = 1
          ∧ t.ford.diag = some { Diagnosis.set { cause := 1 } s.ford.active causes.val with withdrew := true }
          ∧ t.ford.active = s.ford.active ∧ (t.ford.of s.ford.active).causes = causes.val ∧ Keeps { ford := true } s t)
        ∧ (∃ t, exec (.withdraw s.ford.active.other causes hold) s = .next t
          ∧ (t.ford.of s.ford.active.other).state = .withdrawn ∧ (t.ford.of s.ford.active.other).causes = causes.val
          ∧ t.ford.active = s.ford.active
          ∧ Keeps { cop := true, evt := true, ford := true, rad := true, way := true } s t)))
  ∧ (∀ (s : State), s.live = true → s.build = .t → s.serves .a = true → s.ford.safeHold = false →
      (s.ford.claimB = false → ∃ t, exec (.standClaim .a) s = .next t ∧ t.ford = { s.ford with claimA := true }
        ∧ Keeps { evt := true, ford := true, way := true } s t)
      ∧ (s.ford.claimB = true → s.following = true → s.ford.holding = false →
        ∃ t, exec (.standClaim .a) s = .next t ∧ t.ford = { s.ford with
            claimA := true, holding := true, cause := 4, diag := some { cause := 4 } }
          ∧ Keeps { evt := true, ford := true, way := true } s t))

/-- R433, R435, R436, Table 12.2, R612: with both answers Ford switches to a standby without a fault, keeps an active stand
whose standby has one, makes the standby learn anew where neither has, and enters SAFE HOLD where both have or none has
answered in time; a copy outvoted in two fabric cycles in a row is masked, and a further one ends in SAFE HOLD. -/
def Obligations.FordDecides : Prop :=
  (∀ (s : State) (d : Diagnosis) (causes : Fin 128) (hold : Word), s.live = true → s.ford.diag = some d → d.cause = 2 →
    d.withdrew = false → s.upd.activation = none →
    (d.answer s.ford.active = none → d.answer s.ford.active.other = some 0 → causes ≠ 0 → s.following = true →
      ∃ t, exec (.diagnosisAnswer s.ford.active causes hold) s = .next t ∧ t.ford.active = s.ford.active.other
        ∧ (t.ford.of s.ford.active.other).state = .active ∧ (t.ford.of s.ford.active).state = .withdrawn
        ∧ t.ford.switches = bump s.ford.switches ∧ t.ford.decision = 1 ∧ t.ford.holding = false ∧ t.ford.diag = none
        ∧ t.ford.holdTime = hold.toNat ∧ Keeps { cop := true, evt := true, ford := true, rad := true, way := true } s t)
    ∧ (d.answer s.ford.active = none → (∃ b, d.answer s.ford.active.other = some b ∧ b ≠ 0) → causes ≠ 0 →
      ∃ t, exec (.diagnosisAnswer s.ford.active causes hold) s = .next t ∧ t.ford.safeHold = true ∧ t.ford.decision = 3
        ∧ t.ford.holding = true ∧ t.ford.shadowCn = s.cn ∧ t.cn = s.cn
        ∧ Keeps { cop := true, evt := true, ford := true, rad := true, way := true } s t)
    ∧ (d.answer s.ford.active.other = none → d.answer s.ford.active = some 0 →
      (causes ≠ 0 → ∃ t, exec (.diagnosisAnswer s.ford.active.other causes hold) s = .next t
        ∧ (t.ford.of s.ford.active.other).state = .withdrawn ∧ t.ford.active = s.ford.active ∧ t.ford.decision = 2
        ∧ t.ford.holding = false ∧ t.ford.diag = none
        ∧ Keeps { cop := true, evt := true, ford := true, rad := true, way := true } s t)
      ∧ (causes = 0 → (s.ford.of s.ford.active.other).otherImage = false →
        ∃ t, exec (.diagnosisAnswer s.ford.active.other causes hold) s = .next t
          ∧ (t.ford.of s.ford.active.other).state = .learning ∧ t.ford.active = s.ford.active ∧ t.ford.decision = 4
          ∧ t.ford.unresolved = bump s.ford.unresolved ∧ t.ford.holding = false
          ∧ Keeps { cop := true, evt := true, ford := true, fsp := true, out := true, rad := true, sys := true,
                    way := true } s t))
    ∧ (d.answer .a = none → d.answer .b = none →
      ∃ t, exec (.diagnosisTimeout hold) s = .next t ∧ t.ford.safeHold = true ∧ t.ford.decision = 3
        ∧ t.ford.a.causes = 128 ∧ t.ford.b.causes = 128
        ∧ Keeps { cop := true, evt := true, ford := true, rad := true, way := true } s t))
  ∧ (∀ (s : State) (hold : Word), s.live = true → s.ford.diag = none → exec (.diagnosisTimeout hold) s = .next s)
  ∧ (∀ (s : State) (copy : Fin 3) (cycle : Nat), s.live = true →
      (s.ford.masked = none → s.ford.lastOutvote = none → exec (.fordOutvote copy cycle) s = .next { s with ford := { s.ford with
          votes := lmod (fun n => min 1023 (n + 1)) copy.val s.ford.votes, lastOutvote := some (copy.val, cycle) } })
      ∧ (∀ at_, s.ford.masked = none → s.ford.lastOutvote = some (copy.val, at_) → cycle = at_ + 1 →
          ∃ t, exec (.fordOutvote copy cycle) s = .next t ∧ t.ford.masked = some copy.val ∧ t.ford.degraded = true
            ∧ t.ford.safeHold = s.ford.safeHold ∧ Keeps { evt := true, ford := true, way := true } s t)
      ∧ (s.ford.masked = some copy.val → exec (.fordOutvote copy cycle) s = .next s)
      ∧ (∀ m, s.ford.masked = some m → m ≠ copy.val → s.ford.safeHold = false → s.upd.activation = none →
          ∃ t, exec (.fordOutvote copy cycle) s = .next t ∧ t.ford.safeHold = true ∧ t.ford.voteHold = true
            ∧ t.ford.cause = 6
            ∧ Keeps { cop := true, evt := true, ford := true, rad := true, way := true } s t))

/-- R438, R439, R447, Table 12.3: a failed stand test is run again and a second failure quarantines; a passed one leads to
LEARNING, or out of SAFE HOLD to ACTIVE; a stand that has copied is in probation for 1,000 cycles and then STANDBY. -/
def Obligations.StandsAreTestedAndLearn : Prop :=
  (∀ (s : State) (x : Stand), s.live = true → (s.ford.of x).testing = true → (s.ford.of x).state = .withdrawn →
    ((s.ford.of x).retry = false → exec (.standTestDone x false) s = .next (s.modStand x fun r => { r with retry := true }))
    ∧ ((s.ford.of x).retry = true → ∃ t, exec (.standTestDone x false) s = .next t
      ∧ (t.ford.of x).state = .quarantined ∧ (t.ford.of x).testing = false ∧ t.ford.of x.other = s.ford.of x.other
      ∧ Keeps { evt := true, ford := true, way := true } s t)
    ∧ ((s.ford.of x).withdrawals = [s.cn] → s.ford.safeHold = false → (s.ford.of x).otherImage = false →
      ∃ t, exec (.standTestDone x true) s = .next t ∧ (t.ford.of x).state = .learning ∧ (t.ford.of x).testing = false
        ∧ t.ford.probation = false ∧ t.ford.of x.other = s.ford.of x.other
        ∧ Keeps { cop := true, evt := true, ford := true, fsp := true, out := true, rad := true, sys := true,
                  way := true } s t)
    ∧ ((s.ford.of x).withdrawals = [s.cn] → s.ford.safeHold = true → s.ford.voteHold = true → (s.ford.of x).retry = false →
      exec (.standTestDone x true) s = .next (s.modStand x fun r => { r with testing := false, passed := true }))
    ∧ ((s.ford.of x).withdrawals = [s.cn] → s.ford.safeHold = true → s.ford.voteHold = false → s.ford.resume = none →
      ∃ t, exec (.standTestDone x true) s = .next t ∧ t.ford.safeHold = false ∧ t.ford.active = x
        ∧ (t.ford.of x).state = .active ∧ t.build = s.build ∧ t.pending = s.pending))
  ∧ (∀ (s : State) (x : Stand), s.live = true → x = s.ford.active.other → (s.ford.of x).state = .learning →
      s.ford.probation = false → (s.ford.of x).rewriting = false → (s.ford.of x).otherImage = false →
      s.ford.safeHold = false →
      ∃ t, exec .learningCopyDone s = .next t ∧ t.ford.probation = true
        ∧ (t.ford.of x).probationEnd = some (s.cn + 1001) ∧ (t.ford.of x).state = .learning
        ∧ (s.sys.lockstepMs ≠ 0 → t.sys = s.sys) ∧ Keeps { ford := true, sys := true } s t)
  ∧ (∀ (s : State) (x : Stand) (e : Cn), s.live = true → x = s.ford.active.other → (s.ford.of x).state = .learning →
      s.ford.probation = true → (s.ford.of x).probationEnd = some e →
      (e ≤ s.cn → s.upd.activation = none → ∃ t, exec .probationEnd s = .next t ∧ (t.ford.of x).state = .standby
        ∧ t.ford.probation = false ∧ (t.ford.of x).probationEnd = none ∧ t.ford.active = s.ford.active
        ∧ Keeps { evt := true, ford := true, way := true } s t)
      ∧ (s.cn < e → exec .probationEnd s = .next s))

/-- R447, R448, R451, Table 12.10: an installer's SWITCH to a standby is planned for the second cycle from now and refused
where none follows; RESUME returns the named stand once its test has passed, with FORCE at once; RELEASE lets a quarantined
stand be tested; CLEAR ends the last gasp. -/
def Obligations.InstallersCommandTheStands : Prop :=
  (∀ (s : State) (w : Writer), s.live = true → canonicalRegs s.regs = true → w.role = .installer →
    (s.build = .t → s.switchAllowed s.ford.active.other = true →
      ∃ t, exec (.plannedSwitchRequest w) s = .next t ∧ t.ford.active = s.ford.active
        ∧ t.ford.switch = some
            { target := s.ford.active.other, notBefore := s.cycAfter 2, drover := false, role := .installer }
        ∧ Keeps { evt := true, ford := true, regs := true, way := true } s t)
    ∧ ((s.build = .s ∨ s.switchAllowed s.ford.active.other = false) →
      ∃ t, exec (.plannedSwitchRequest w) s = .next t ∧ t.ford.switch = s.ford.switch ∧ t.ford.active = s.ford.active
        ∧ Keeps { evt := true, ford := true, regs := true, way := true } s t)
    ∧ (∃ t, exec (.lastgaspClear w) s = .next t ∧ t.ford = { s.ford with lgValid := false }
        ∧ Keeps { evt := true, ford := true, regs := true, way := true } s t))
  ∧ (∀ (s : State) (x : Stand) (agree : Bool) (out : Fin 3) (w : Writer), s.live = true → canonicalRegs s.regs = true →
      w.role = .installer → s.ford.safeHold = true → s.ford.voteHold = false → (s.ford.of x).state = .withdrawn →
      ((s.ford.of x).passed = true → ∃ t, exec (.safeHoldResume x agree out w) s = .next t ∧ t.ford.safeHold = false
        ∧ t.ford.active = x ∧ (t.ford.of x).state = .active)
      ∧ ((s.ford.of x).passed = false → ∃ t, exec (.safeHoldResume x agree out w) s = .next t
        ∧ t.ford.safeHold = true ∧ t.ford.resume = some x ∧ (t.ford.of x).state = .withdrawn
        ∧ Keeps { evt := true, ford := true, regs := true, way := true } s t)
      ∧ (∃ t, exec (.safeHoldResumeForce x agree out w) s = .next t ∧ t.ford.safeHold = false ∧ t.ford.active = x
        ∧ (t.ford.of x).state = .active))
  ∧ (∀ (s : State) (x : Stand) (w : Writer), s.live = true → canonicalRegs s.regs = true → w.role = .installer →
      (s.ford.of x).state = .quarantined →
      ∃ t, exec (.standRelease x w) s = .next t ∧ (t.ford.of x).state = .withdrawn ∧ (t.ford.of x).testing = true
        ∧ (t.ford.of x).withdrawals = [] ∧ t.ford.of x.other = s.ford.of x.other
        ∧ Keeps { evt := true, ford := true, regs := true, way := true } s t)

/-- R449: APPLY selects a TCXO that is present; a lost reference moves to the other one, or to the internal clock where none
is left, and at such a switch city time moves by at most 10 ns; the loss of the other is shown; one that is present again is
shown with its offset. -/
def Obligations.ReferenceClocksAreSelected : Prop :=
  (∀ (s : State) (sel : Fin 2) (w : Writer), s.live = true → canonicalRegs s.regs = true → w.role = .installer →
    s.build = .t →
    ((if sel = 0 then s.ford.lostA else s.ford.lostB) = false → s.ford.ref ≠ sel.val →
      ∃ t, exec (.clockSelect sel w) s = .next t
        ∧ t.ford = { s.ford with ref := sel.val, clkSwitches := bump s.ford.clkSwitches }
        ∧ (∃ d : Int, -42949672960 ≤ d ∧ d ≤ 42949672960
            ∧ t.time = { s.time with city := ofCityUnits ((cityUnits s.time.city : Int) + d).toNat })
        ∧ Keeps { evt := true, ford := true, freeIdx := true, regs := true, time := true, way := true } s t)
    ∧ ((if sel = 0 then s.ford.lostA else s.ford.lostB) = true →
      ∃ t, exec (.clockSelect sel w) s = .next t ∧ t.ford = s.ford
        ∧ Keeps { evt := true, ford := true, regs := true, way := true } s t))
  ∧ (∀ (s : State), s.live = true → s.build = .t → s.ford.lostA = false →
      (s.ford.ref = 0 → s.ford.lostB = false → ∃ t, exec (.tcxoLost 0) s = .next t
        ∧ t.ford = { s.ford with lostA := true, ref := 1, clkSwitches := bump s.ford.clkSwitches }
        ∧ (∃ d : Int, -42949672960 ≤ d ∧ d ≤ 42949672960
            ∧ t.time = { s.time with city := ofCityUnits ((cityUnits s.time.city : Int) + d).toNat })
        ∧ Keeps { evt := true, ford := true, freeIdx := true, time := true, way := true } s t)
      ∧ (s.ford.ref = 0 → s.ford.lostB = true → ∃ t, exec (.tcxoLost 0) s = .next t
        ∧ t.ford = { s.ford with lostA := true, ref := 2, clkSwitches := bump s.ford.clkSwitches }
        ∧ (∃ d : Int, -42949672960 ≤ d ∧ d ≤ 42949672960
            ∧ t.time = { s.time with city := ofCityUnits ((cityUnits s.time.city : Int) + d).toNat })
        ∧ Keeps { evt := true, ford := true, freeIdx := true, time := true, way := true } s t)
      ∧ (s.ford.ref ≠ 0 → ∃ t, exec (.tcxoLost 0) s = .next t ∧ t.ford = { s.ford with lostA := true }
        ∧ Keeps { evt := true, ford := true, way := true } s t))
  ∧ (∀ (s : State) (ofs : Int), s.live = true →
      (s.ford.lostA = true → ∃ t, exec (.tcxoPresent 0 ofs) s = .next t
        ∧ t.ford = { s.ford with lostA := false, clkOfs := ofs } ∧ Keeps { evt := true, ford := true, way := true } s t)
      ∧ (s.ford.lostA = false → exec (.tcxoPresent 0 ofs) s = .next s))

/-! Updates (06, 15). -/

/-- R254, R255, R503, R504: an offer whose manifest passes every check opens a session for it, one that meets an activation
is BUSY; a chunk that authenticates is held and one held already is only acknowledged; UPDATE_STATE is answered; a session
that hears nothing for LAPSE days ends. -/
def Obligations.UpdateSessionsGatherChunks : Prop :=
  (∀ (s : State) (i : Fin 4) (c : Session) (role : Byte) (tx : Word) (body : List Byte) (signed : Bool), s.live = true →
    s.session i = some c → c.mayAsk role.toNat .operator = true → 16 ≤ body.length → w16 14 body = 0 →
    body.length = 16 + w16 12 body →
    (∀ m, s.upd.activation = none → s.upd.session = none → bit 0 (s.reg 0x400B0000) = true →
      s.judgeManifest (body.drop 16) signed (w32 0 body) (w32 4 body) (w32 8 body) = .ok m →
      ∃ t x, exec (.updateOffer i role tx body signed) s = .next t ∧ t.upd.session = some x ∧ x.seq = m.seq
        ∧ x.manifest = body.drop 16 ∧ x.count = m.count ∧ x.chunks = [] ∧ x.lastMessage = s.cn ∧ t.upd.phase = 1
        ∧ Output.fsp i.val 0x50 1 tx.toNat (le 1 (reasonCode .ok) ++ le 1 0 ++ [0, 0] ++ le 4 x.id ++ le 4 0) ∈ t.out
        ∧ Keeps { adm := true, evt := true, freeIdx := true, fsp := true, out := true, upd := true, way := true } s t)
    ∧ (s.upd.activation.isSome = true →
      ∃ t, exec (.updateOffer i role tx body signed) s = .next t ∧ t.upd = s.upd
        ∧ Output.fsp i.val 0x50 1 tx.toNat (le 1 (reasonCode .busy) ++ le 1 0 ++ [0, 0] ++ le 4 0 ++ le 4 0) ∈ t.out
        ∧ Keeps { fsp := true, out := true } s t))
  ∧ (∀ (s : State) (i : Fin 4) (c : Session) (role : Byte) (tx : Word) (body : List Byte) (tag : Bool) (plain : List Byte)
      (x : UpdSession), s.live = true → s.session i = some c → c.mayAsk role.toNat .operator = true →
      s.upd.session = some x → 12 ≤ body.length → w16 10 body = 0 → body.length = 12 + w16 8 body → w32 0 body = x.id →
      w32 4 body < x.count →
      (tget (w32 4 body) x.chunks = none → w16 8 body = x.chunkLength (w32 4 body) + 16 →
        plain.length = x.chunkLength (w32 4 body) → tag = true →
        ∃ t, exec (.updateChunk i role tx body tag plain) s = .next t
          ∧ t.upd = { s.upd with
              session := some { x with chunks := tput (w32 4 body) plain x.chunks, lastMessage := s.cn } }
          ∧ Keeps { evt := true, fsp := true, out := true, upd := true, way := true } s t)
      ∧ ((tget (w32 4 body) x.chunks).isSome = true →
        ∃ t, exec (.updateChunk i role tx body tag plain) s = .next t
          ∧ t.upd = { s.upd with session := some { x with lastMessage := s.cn } }
          ∧ Keeps { fsp := true, out := true, upd := true } s t)
      ∧ (tget (w32 4 body) x.chunks = none → tag = false →
        ∃ t, exec (.updateChunk i role tx body tag plain) s = .next t ∧ t.upd = s.upd
          ∧ Keeps { adm := true, evt := true, fsp := true, out := true, upd := true, way := true } s t))
  ∧ (∀ (s : State) (i : Fin 4) (c : Session) (role : Byte) (tx : Word) (body : List Byte) (x : UpdSession), s.live = true →
      s.session i = some c → c.mayAsk role.toNat .operator = true → s.upd.session = some x → body.length = 8 →
      w32 0 body = x.id → w32 4 body % 8 = 0 →
      ∃ t b, exec (.updateState i role tx body) s = .next t
        ∧ t.upd = { s.upd with session := some { x with lastMessage := s.cn } }
        ∧ t.out = s.out ++ [.fsp i.val 0x52 1 tx.toNat b] ∧ Keeps { fsp := true, out := true, upd := true } s t)
  ∧ (∀ (s : State) (x : UpdSession), s.live = true → s.upd.session = some x → s.upd.activation = none →
      (x.lastMessage + field 23 16 (s.reg 0x400B0018) * s.secondsInCycles 86400 ≤ s.cn →
        ∃ t, exec .updateLapse s = .next t ∧ t.upd.session = none ∧ t.upd.activation = none ∧ t.upd.phase = 0
          ∧ Keeps { evt := true, upd := true, way := true } s t)
      ∧ (s.cn < x.lastMessage + field 23 16 (s.reg 0x400B0018) * s.secondsInCycles 86400 →
          exec .updateLapse s = .next s))

/-- R254, R506, R507, Table 15.11: ACTIVATE of a session that holds every chunk begins validation; a package that does not
decrypt ends its session with nothing changed; one of caravans alone is complete at once, a handover or a reboot is
rewrapped; ABORT before the commit point rolls back. -/
def Obligations.ActivationsAreValidated : Prop :=
  (∀ (s : State) (i : Fin 4) (c : Session) (role : Byte) (tx : Word) (body : List Byte) (x : UpdSession) (m : Manifest),
    s.live = true → s.session i = some c → c.mayAsk role.toNat .operator = true → s.upd.session = some x →
    body.length = 12 → w32 0 body = x.id → oct 8 body = 0 → ofLe (slice 9 3 body) = 0 → w32 4 body = 0 →
    s.ford.safeHold = false → s.upd.activation = none →
    (x.chunks.length = x.count → readManifest x.manifest = some m →
      ∃ t a, exec (.updateActivate i role tx body) s = .next t ∧ t.upd.activation = some a ∧ a.seq = x.seq
        ∧ a.session = x.id ∧ a.window = 900 ∧ a.committed = false ∧ a.back = false ∧ t.upd.phase = 2
        ∧ t.upd.phaseCn = s.cn ∧ Output.fsp i.val 0x53 1 tx.toNat (statusBody .ok) ∈ t.out
        ∧ Keeps { evt := true, fsp := true, out := true, upd := true, way := true } s t)
    ∧ (x.chunks.length < x.count →
      ∃ t, exec (.updateActivate i role tx body) s = .next t
        ∧ t.upd = { s.upd with session := some { x with lastMessage := s.cn } }
        ∧ Output.fsp i.val 0x53 1 tx.toNat (statusBody .busy) ∈ t.out
        ∧ Keeps { evt := true, fsp := true, out := true, upd := true, way := true } s t))
  ∧ (∀ (s : State) (a : Activation) (x : UpdSession) (m : Manifest) (signed : Bool), s.live = true →
      s.upd.activation = some a → s.upd.session = some x → s.upd.phase = 2 → readManifest x.manifest = some m →
      (∃ t, exec (.validationDone false signed) s = .next t ∧ t.upd.session = none ∧ t.upd.activation = none
        ∧ t.upd.phase = 0 ∧ t.upd.firmware = s.upd.firmware ∧ t.can = s.can
        ∧ Keeps { evt := true, freeIdx := true, upd := true, way := true } s t)
      ∧ ((m.entries.all fun e => decide (e.kind ≠ 3) && decide (Config.sha256 (x.part e) = e.digest)) = true →
        (a.path = .caravans → a.caravans = [] → ∃ t, exec (.validationDone true signed) s = .next t
          ∧ t.upd.phase = 0x0A ∧ t.upd.runSeq = a.seq ∧ t.upd.session = none ∧ t.upd.activation = none
          ∧ Keeps { evt := true, upd := true, way := true } s t)
        ∧ (a.path = .handover → 11 < s.key.slots.length → ∃ t, exec (.validationDone true signed) s = .next t
          ∧ t.upd.phase = 4
          ∧ t.upd.activation = some a ∧ t.upd.handoverArea = true ∧ (t.slot 11).state = .live
          ∧ Keeps { evt := true, key := true, upd := true, way := true } s t)
        ∧ (a.path = .reboot → ∃ t b, exec (.validationDone true signed) s = .next t ∧ t.upd.phase = 4
          ∧ t.upd.activation = some b ∧ s.cn + 1500 ≤ b.cn ∧ b = { a with cn := b.cn }
          ∧ Keeps { evt := true, key := true, upd := true, way := true } s t)))
  ∧ (∀ (s : State) (w : Writer), s.live = true → canonicalRegs s.regs = true → w.role = .installer →
      (s.upd.activation = none → ∃ t, exec (.updateAbort w) s = .next t ∧ t.upd = s.upd
        ∧ Keeps { evt := true, regs := true, way := true } s t)
      ∧ (∀ a, s.upd.activation = some a → a.committed = false → a.back = false → s.upd.phase = 4 →
        ∃ t, exec (.updateAbort w) s = .next t ∧ t.upd.activation = none ∧ t.upd.phase = 0x0B
          ∧ t.upd.session = s.upd.session ∧ t.upd.firmware = s.upd.firmware ∧ t.ford.active = s.ford.active
          ∧ Keeps { can := true, evt := true, ford := true, freeIdx := true, regs := true, upd := true, way := true } s t))

/-- R512, R515 to R517: a staged stand that finds its settings and measurement runs in shadow, and one that does not is
rolled back; caught up it is STANDBY, and after SHADOW cycles the Drover asks for the switch; a stand that does not catch up
within 10 s ends the activation; a reboot that finds its settings confirms; after W with every check the sequence is
installed; a failing check falls back, and on a T build in SAFE HOLD the backup store returns at once; a rewritten stand
learns. -/
def Obligations.UpdatesCommitOrFallBack : Prop :=
  (∀ (s : State) (a : Activation) (measured : BitVec 256) (good : Bool), s.live = true → s.upd.activation = some a →
    (a.path = .handover → s.upd.phase = 5 →
      (s.newImageFails a measured good = none → ∃ t, exec (.staged measured good) s = .next t ∧ t.upd.phase = 6
        ∧ t.upd.activation = some a ∧ t.ford = s.ford ∧ Keeps { evt := true, upd := true, way := true } s t)
      ∧ (∀ k, s.newImageFails a measured good = some k → ∃ t, exec (.staged measured good) s = .next t
        ∧ t.upd.phase = 0x0B ∧ t.upd.activation = none ∧ t.upd.check = k ∧ t.upd.firmware = s.upd.firmware
        ∧ (t.ford.of a.newStand).rewriting = true ∧ t.ford.active = s.ford.active
        ∧ Keeps { can := true, evt := true, ford := true, freeIdx := true, upd := true, way := true } s t))
    ∧ (a.path = .handover → s.upd.phase = 6 → s.upd.caughtUp = false →
      (∃ t, exec .shadowCaughtUp s = .next t ∧ t.upd = { s.upd with caughtUp := true, activation := some { a with since := s.cn } }
        ∧ (t.ford.of a.newStand).state = .standby ∧ Keeps { evt := true, ford := true, upd := true, way := true } s t)
      ∧ (s.upd.phaseCn + s.secondsInCycles 10 ≤ s.cn → ∃ t, exec .catchupTimeout s = .next t ∧ t.upd.activation = none
        ∧ t.upd.phase = 0x0B ∧ (t.ford.of a.newStand).rewriting = true ∧ t.ford.active = s.ford.active
        ∧ Keeps { can := true, evt := true, ford := true, freeIdx := true, upd := true, way := true } s t)
      ∧ (s.cn < s.upd.phaseCn + s.secondsInCycles 10 → exec .catchupTimeout s = .next s))
    ∧ (s.upd.phase = 6 → s.upd.caughtUp = true → s.ford.switch = none →
      (a.since + field 15 0 (s.reg 0x400B0018) ≤ s.cn → exec .shadowEnd s = .next { s with ford := { s.ford with
          switch := some { target := a.newStand, notBefore := s.cycAfter 2, drover := true, role := .nobody } } })
      ∧ (s.cn < a.since + field 15 0 (s.reg 0x400B0018) → exec .shadowEnd s = .next s))
    ∧ (a.path = .reboot → s.upd.phase = 7 → s.can.loaded = true →
      (s.newImageFails a measured good = none → ∃ t, exec (.rebootDone measured good) s = .next t ∧ t.upd.phase = 8
        ∧ t.upd.activation = some a ∧ t.ford = { s.ford with holding := false }
        ∧ Keeps { evt := true, ford := true, upd := true, way := true } s t)
      ∧ (∀ k, s.newImageFails a measured good = some k → s.build = .s ∨ s.ford.safeHold = false → ∃ t, exec (.rebootDone measured good) s = .next t
        ∧ t.upd.phase = 0x0C ∧ t.upd.activation = some { a with back := true, cn := s.cn + 1 } ∧ t.upd.check = k
        ∧ t.ford = { s.ford with holding := false }
        ∧ Keeps { evt := true, ford := true, freeIdx := true, fsp := true, key := true, upd := true, way := true } s t))
    ∧ (s.upd.phase = 8 → s.upd.checks = 0x7F → a.suspended = false → a.caravans = [] →
      (a.since + s.secondsInCycles a.window ≤ s.cn → a.path ≠ .handover → ∃ t, exec .confirmWindowEnd s = .next t
        ∧ t.upd.phase = 0x0A ∧ t.upd.runSeq = a.seq ∧ t.upd.session = none ∧ t.upd.activation = none
        ∧ Keeps { evt := true, upd := true, way := true } s t)
      ∧ (a.since + s.secondsInCycles a.window ≤ s.cn → a.path = .handover → ∃ t, exec .confirmWindowEnd s = .next t
        ∧ t.upd.phase = 9 ∧ t.upd.runSeq = a.seq ∧ t.upd.activation = some a
        ∧ (t.ford.of a.newStand.other).rewriting = true ∧ t.ford.active = s.ford.active
        ∧ Keeps { evt := true, ford := true, upd := true, way := true } s t)
      ∧ (s.cn < a.since + s.secondsInCycles a.window → exec .confirmWindowEnd s = .next s))
    ∧ (∀ (check : Fin 7) (reason : Reason), a.path = .reboot → s.upd.phase = 8 → a.committed = true → a.back = false →
      (s.build = .t → s.ford.safeHold = true → ∃ t, exec (.confirmCheckFail check reason) s = .next t
        ∧ t.upd.phase = 0x0D ∧ t.upd.activation = none ∧ t.upd.firstFailed = check.val
        ∧ t.upd.reason = reasonCode reason ∧ t.upd.check = check.val ∧ t.ford = s.ford)
      ∧ (s.build = .s ∨ s.ford.safeHold = false → ∃ t, exec (.confirmCheckFail check reason) s = .next t ∧ t.upd.phase = 0x0C
        ∧ t.upd.activation = some { a with back := true, cn := s.cn + 1 } ∧ t.upd.firstFailed = check.val
        ∧ t.upd.reason = reasonCode reason ∧ t.upd.check = check.val ∧ t.can = s.can
        ∧ Keeps { evt := true, fsp := true, key := true, upd := true, way := true } s t)))
  ∧ (∀ (s : State) (x : Stand), s.live = true → (s.ford.of x).rewriting = true →
      ((s.ford.of x).state = .quarantined → exec (.standRewritten x) s =
        .next (s.modStand x fun r => { r with rewriting := false, otherImage := false }))
      ∧ (((s.ford.of x).state = .standby ∨ (s.ford.of x).state = .learning) →
        ∃ t, exec (.standRewritten x) s = .next t ∧ (t.ford.of x).state = .learning ∧ (t.ford.of x).rewriting = false
          ∧ (t.ford.of x).otherImage = false ∧ t.ford.probation = false ∧ t.ford.of x.other = s.ford.of x.other
          ∧ Keeps { evt := true, ford := true, fsp := true, out := true, sys := true, way := true } s t))

/-! The service monitor (16). -/

/-- R537 to R540, R594: a muted monitor answers nothing; a boot that found no good canopy answers BUSY but to status and
drover; a command without its role, or with bad arguments, is a counted violation, the sixteenth within 1,000 cycles mutes;
an unknown one is UNSUPPORTED; the mute ends after 1,000 cycles, the role after 6,000 without input. -/
def Obligations.MonitorRefusesAndMutes : Prop :=
  (∀ (s : State) (role : Role) (proof chal : List Byte) (rate count q seq minutes phy channel power seconds : Nat)
    (stand : Stand) (addr value : Word) (malformed : Bool), s.live = true → s.mon.muted s.cn = true →
    ∀ i ∈ [Instr.monHelp, .monLogin role, .monProof proof, .monLogout, .monBaud rate, .monSel stand, .monRd addr count,
      .monWr addr value, .monQ q count, .monWb seq count, .monWbclear seq, .monStatus, .monCop, .monDrover, .monAtt chal,
      .monTamperMaint minutes, .monTamperClear, .monRftx phy channel power seconds, .monUnknown malformed],
      exec i s = .next s)
  ∧ (∀ (s : State) (role : Role) (addr value : Word) (count q seq : Nat) (chal : List Byte), s.live = true →
      s.mon.muted s.cn = false → s.sys.bootPhase = 5 →
      ∀ i ∈ [Instr.monHelp, .monLogin role, .monLogout, .monRd addr count, .monWr addr value, .monQ q count,
        .monWb seq count, .monCop, .monAtt chal, .monTamperClear],
        ∃ t, exec i s = .next t ∧ t.out = s.out ++ [.line "ERR BUSY", .line "> "] ∧ t.mon = s.mon.input s.cn
          ∧ Keeps { mon := true, out := true } s t)
  ∧ (∀ (s : State) (stand : Stand) (addr value : Word) (count : Nat), s.live = true → s.mon.muted s.cn = false →
      s.sys.bootPhase ≠ 5 → s.mon.role = .nobody →
      ∀ i ∈ [Instr.monSel stand, .monRd addr count, .monWr addr value, .monStatus, .monCop, .monDrover, .monTamperClear],
        (s.mon.violations = [] →
          ∃ t, exec i s = .next t ∧ t.out = s.out ++ [.line "ERR NOT_AUTHORISED", .line "> "]
            ∧ t.mon = { s.mon.input s.cn with violations := [s.cn] } ∧ Keeps { mon := true, out := true } s t)
        ∧ ((s.mon.violations.filter fun x => decide (s.cn < x + 1000)).length = 15 → s.mon.reads = 0 → s.mon.others = 0 →
          ∃ t, exec i s = .next t
            ∧ t.mon = { s.mon.input s.cn with violations := [], muteEnd := some (s.cn + 1000), role := .nobody }
            ∧ Keeps { mon := true, out := true } s t))
  ∧ (∀ (s : State), s.live = true → s.mon.muted s.cn = false → s.sys.bootPhase ≠ 5 → s.mon.violations = [] →
      ∃ t, exec (.monUnknown false) s = .next t ∧ t.out = s.out ++ [.line "ERR UNSUPPORTED", .line "> "]
        ∧ t.mon = { s.mon.input s.cn with violations := [s.cn] } ∧ Keeps { mon := true, out := true } s t)
  ∧ (∀ (s : State) (m : Cn), s.live = true → s.mon.muteEnd = some m →
      (m ≤ s.cn → exec .monMuteEnd s = .next { s with mon := { s.mon with muteEnd := none } })
      ∧ (s.cn < m → exec .monMuteEnd s = .next s))
  ∧ (∀ (s : State), s.live = true →
      (s.mon.lastInput + 6000 ≤ s.cn → ∃ t, exec .monIdle s = .next t
        ∧ t.mon = { s.mon with role := .nobody, reads := 0, others := 0 } ∧ Keeps { evt := true, mon := true, way := true } s t)
      ∧ (s.cn < s.mon.lastInput + 6000 → exec .monIdle s = .next s))

/-- R539, R540: login gives a nonce, the proof of its role within 250 cycles grants it and any other is refused and counted;
the nonce lapses once 250 cycles have passed; logout drops the role; baud and sel take effect. -/
def Obligations.MonitorRolesAreGranted : Prop :=
  (∀ (s : State) (role : Role), s.live = true → s.mon.muted s.cn = false → s.sys.bootPhase ≠ 5 → role ≠ .nobody →
    ∃ t v, exec (.monLogin role) s = .next t ∧ t.mon.nonce = some { role := role, value := v, at_ := s.cn }
      ∧ t.mon.role = s.mon.role ∧ Output.line "OK" ∈ t.out ∧ Keeps { freeIdx := true, mon := true, out := true } s t)
  ∧ (∀ (s : State) (n : Nonce), s.live = true → s.mon.muted s.cn = false → s.sys.bootPhase ≠ 5 → s.mon.nonce = some n →
      s.cn ≤ n.at_ + 250 → s.slotLive (roleSlot n.role) = true →
      (∃ t, exec (.monProof (s.proofOf n.role 1 (s.monInput n))) s = .next t ∧ t.mon.role = n.role ∧ t.mon.nonce = none
        ∧ Output.line "OK" ∈ t.out ∧ Keeps { evt := true, key := true, mon := true, out := true, way := true } s t)
      ∧ (∀ (proof : List Byte), proof.length = 32 → proof ≠ s.proofOf n.role 1 (s.monInput n) → s.mon.violations = [] →
        ∃ t, exec (.monProof proof) s = .next t ∧ t.mon.role = s.mon.role ∧ t.mon.nonce = none
          ∧ t.mon.violations = [s.cn]
          ∧ t.key = (s.countProof n.role false).key
          ∧ Keeps { evt := true, key := true, mon := true, out := true, way := true } s t))
  ∧ (∀ (s : State) (n : Nonce), s.live = true → s.mon.nonce = some n →
      (n.at_ + 250 < s.cn → exec .monProofLapse s = .next { s with mon := { s.mon with nonce := none } })
      ∧ (s.cn ≤ n.at_ + 250 → exec .monProofLapse s = .next s))
  ∧ (∀ (s : State), s.live = true → s.mon.muted s.cn = false → s.sys.bootPhase ≠ 5 →
      (∃ t, exec .monLogout s = .next t ∧ t.mon.role = .nobody ∧ t.mon.reads = 0 ∧ t.mon.others = 0
        ∧ Output.line "OK" ∈ t.out ∧ Keeps { evt := true, mon := true, out := true, way := true } s t)
      ∧ (∀ (rate : Nat), rate ∈ monRates → ∃ t, exec (.monBaud rate) s = .next t ∧ t.mon.nextBaud = some rate
        ∧ t.mon.baud = s.mon.nextBaud.getD s.mon.baud ∧ t.out = s.out ++ [.line "OK", .line "> "]
        ∧ Keeps { mon := true, out := true } s t)
      ∧ (∀ (stand : Stand), s.mon.role ≠ .nobody → (stand = .a ∨ s.build = .t) →
        ∃ t, exec (.monSel stand) s = .next t ∧ t.mon.sel = stand ∧ t.mon.role = s.mon.role
          ∧ t.out = s.out ++ [.line "OK", .line "> "] ∧ Keeps { mon := true, out := true } s t))

/-- R428, R532, R538, R540: every role may read registers, queues, the waybill, status and coppice, which changes nothing
but the monitor and its answer; help needs no role; OPERATOR's uses are counted. -/
def Obligations.MonitorReadsChangeNothing : Prop :=
  ∀ (s : State), s.live = true → s.mon.muted s.cn = false → s.sys.bootPhase ≠ 5 →
    (∃ t, exec .monHelp s = .next t ∧ Output.line "OK" ∈ t.out ∧ t.mon = (s.mon.input s.cn).use .other
      ∧ Keeps { mon := true, out := true } s t)
    ∧ (s.mon.role ≠ .nobody →
      (∀ (addr : Word) (count : Nat), rangeOk addr.toNat count = true →
        ∃ (t : State) (ls : List String), exec (.monRd addr count) s = .next t ∧ ls.length = count
          ∧ t.out = s.out ++ ls.map Output.line ++ [.line "OK", .line "> "]
          ∧ t.mon = (s.mon.input s.cn).use .read ∧ Keeps { mon := true, out := true } s t)
      ∧ (∀ (q count : Nat), q < 128 → count ≤ 64 → ∃ (t : State) (ls : List String), exec (.monQ q count) s = .next t
          ∧ t.out = s.out ++ [.line ("FILL " ++ hex8 (s.fillOf q)), .line ("STATUS " ++ hex8 (queStatus (s.queue q)))]
              ++ ls.map Output.line ++ [.line "OK", .line "> "]
          ∧ ls.length ≤ count ∧ t.mon = (s.mon.input s.cn).use .read ∧ Keeps { mon := true, out := true } s t)
      ∧ (∀ (seq count : Nat), seq < 4294967296 → 1 ≤ count → count ≤ 64 → ∃ t, exec (.monWb seq count) s = .next t
          ∧ t.out = s.out ++ [.line ("OLDEST " ++ hex8 s.way.oldest), .line ("NEWEST " ++ hex8 s.way.newest),
              .line (if s.way.gap seq then "GAP 1" else "GAP 0")]
              ++ (s.way.serve seq count).map (fun r => Output.line (hexOctets r.octets)) ++ [.line "OK", .line "> "]
          ∧ t.mon = (s.mon.input s.cn).use .read ∧ Keeps { mon := true, out := true } s t)
      ∧ (∀ i ∈ [Instr.monStatus, .monCop, .monDrover], ∃ t, exec i s = .next t ∧ Output.line "OK" ∈ t.out
          ∧ t.mon = (s.mon.input s.cn).use .read ∧ Keeps { mon := true, out := true } s t)
      ∧ (∀ (chal : List Byte), chal.length = 32 → (s.slot 5).state = .live → ∃ t, exec (.monAtt chal) s = .next t
          ∧ t.key.att.done = true ∧ t.key.att.reason = .ok ∧ t.key.att.epoch = s.fsp.epoch ∧ t.key.att.cn = s.cn
          ∧ Output.line "OK" ∈ t.out ∧ Keeps { key := true, mon := true, out := true } s t))

/-- R491, R533, R538, R541: an installer at the monitor writes a register under its rules, clears the waybill it has seen,
opens a maintenance window, and starts an RF test of TRX8 that ends after its time; the same from an operator is refused. -/
def Obligations.MonitorInstallerCommands : Prop :=
  (∀ (s : State), s.live = true → s.mon.muted s.cn = false → s.sys.bootPhase ≠ 5 → s.mon.role = .installer →
    (∀ (value : Word), canonicalRegs s.regs = true →
      ∃ t, exec (.monWr 0x400A0080 value) s = .next t
        ∧ RegsWith s t 0x400A0080 (merge 0xFFFF7 (s.reg 0x400A0080) value.toNat)
        ∧ Output.line "OK" ∈ t.out ∧ Keeps { evt := true, mon := true, out := true, regs := true, way := true } s t)
    ∧ (∀ (seq : Nat), seq < 4294967296 → seq ≠ s.way.newest →
      ∃ t, exec (.monWbclear seq) s = .next t ∧ t.way = s.way ∧ t.out = s.out ++ [.line "ERR BUSY", .line "> "]
        ∧ Keeps { mon := true, out := true } s t)
    ∧ (∀ l r, s.way.ring = l ++ [r] → r.id ≠ 1 → s.fsp.pushLog = [] → 1 ≤ s.way.capacity → s.way.newest < 4294967296 →
      ∃ t, exec (.monWbclear s.way.newest) s = .next t
        ∧ (∀ x ∈ t.way.ring, x.seq = (s.way.newest + 1) % 4294967296)
        ∧ t.way.newest = (s.way.newest + 1) % 4294967296 ∧ t.way.clearCn = s.cn ∧ t.way.cleared = true
        ∧ Keeps { evt := true, fsp := true, mon := true, out := true, way := true } s t)
    ∧ (∀ (minutes : Nat), 1 ≤ minutes → minutes ≤ 480 → s.key.state ≠ .tampered →
      ∃ t, exec (.monTamperMaint minutes) s = .next t ∧ t.key.state = .maint
        ∧ t.key.maintEnd = some (s.cn + minutes * (60 * s.time.nominal)) ∧ Output.line "OK" ∈ t.out
        ∧ Keeps { evt := true, key := true, mon := true, out := true, way := true } s t)
    ∧ (s.key.state ≠ .tampered → ∃ t, exec .monTamperClear s = .next t ∧ t.key = s.key
        ∧ t.out = s.out ++ [.line "OK", .line "> "] ∧ Keeps { mon := true, out := true } s t)
    ∧ (s.key.state = .tampered → s.tmpActiveMask = 0 → s.key.meshOk = true → s.key.slots.length = 64 →
      ∃ t, exec .monTamperClear s = .next t ∧ t.key.state = .normal ∧ t.key.cause = 0 ∧ (t.slot 10).state = .live
        ∧ Output.line "OK" ∈ t.out
        ∧ Keeps { adm := true, evt := true, freeIdx := true, key := true, mon := true, node := true, out := true,
                  rad := true, upd := true, way := true } s t)
    ∧ (∀ (phy channel power seconds : Nat), s.testOk phy channel power seconds = true →
      (s.testFree = false → ∃ t, exec (.monRftx phy channel power seconds) s = .next t
        ∧ t.mon.rfTest = s.mon.rfTest ∧ t.out = s.out ++ [.line "ERR BUSY", .line "> "]
        ∧ Keeps { mon := true, out := true } s t)
      ∧ (s.testFree = true → s.dutyFits 8 (s.rad.profile.bandOf channel) (seconds * 3000000) false = true →
        ∃ t x, exec (.monRftx phy channel power seconds) s = .next t ∧ t.mon.rfTest = some x ∧ x.phy = phy
          ∧ x.channel = channel ∧ x.power = power ∧ x.endCn = s.cn + s.secondsInCycles seconds
          ∧ Output.rfTest phy channel power seconds ∈ t.out
          ∧ Keeps { evt := true, mon := true, out := true, rad := true, way := true } s t)))
  ∧ (∀ (s : State) (x : RfTest), s.live = true → s.mon.rfTest = some x →
      (x.endCn ≤ s.cn → exec .rftxEnd s = .next { s with mon := { s.mon with rfTest := none } })
      ∧ (s.cn < x.endCn → s.trx8Free = true → s.trxState 8 = 2 → exec .rftxEnd s = .next s))
  ∧ (∀ (s : State) (addr value : Word) (minutes seq : Nat), s.live = true → s.mon.muted s.cn = false → s.sys.bootPhase ≠ 5 →
      s.mon.role = .operator → s.mon.violations = [] →
      ∀ i ∈ [Instr.monWr addr value, .monWbclear seq, .monTamperMaint minutes, .monTamperClear],
        ∃ t, exec i s = .next t ∧ t.out = s.out ++ [.line "ERR NOT_AUTHORISED", .line "> "] ∧ t.mon.role = .operator
          ∧ t.mon.violations = [s.cn] ∧ Keeps { mon := true, out := true } s t)

/-! The whole module. -/

/-- R579: at the stop every contactor coil is de-energised. -/
def Obligations.ContactorsAreOpenAtTheStop : Prop :=
  ∀ (s : State), s.live = true → s.supplied = false → s.sys.powerFail = true →
    ∃ t, exec .holdoverStop s = .next t ∧ t.dim.contactors.length = s.dim.contactors.length
      ∧ ∀ k ∈ t.dim.contactors, k.drive = false

/-- The interface: a step runs the command at the front of the queue on the state with the rest of it, and with none waiting
the module idles (log 5, the model's choice); reset leaves no command waiting. -/
def Obligations.StepRunsTheFrontCommand : Prop :=
  (∀ (c : Instr) (rest : List Instr) (s : State), step { s with pending := c :: rest } = exec c { s with pending := rest })
  ∧ (∀ (s : State), s.pending = [] → step s = .next s)
  ∧ State.reset.pending = []

/-- Every command of the table completes from every state, with no fault and no refusal. -/
def Obligations.EveryCommandCompletes : Prop :=
  ∀ (i : Instr) (s : State), ∃ t, exec i s = .next t

/-- Reset: the invariant holds; the timebase is UNSET with the city counter at zero (R44), Stand A serves, every slot is
empty of sessions, and described registers read their reset values. -/
def Obligations.ResetLeavesTheStatedValues : Prop :=
  State.reset.Inv
  ∧ State.reset.time.tstate = .unset ∧ State.reset.time.city = {} ∧ State.reset.ford.active = .a
  ∧ State.reset.fsp.sessions = [] ∧ State.reset.out = []
  ∧ State.reset.reg 0x4006000C = 8 ∧ State.reset.reg 0x40060014 = 0x3E80000 ∧ State.reset.reg 0x400A0010 = 0x1E001E
  ∧ State.reset.reg 0x400B0000 = 1 ∧ State.reset.reg 0x400A0000 = 1 ∧ State.reset.reg 0x40060B00 = 0xFA0000

/-- No command takes back what the module has sent, changes its build, or touches the queue of waiting commands. -/
def Obligations.CommandsOnlyAddToTheOutput : Prop :=
  ∀ (i : Instr) (s t : State), exec i s = .next t → s.out <+: t.out ∧ t.build = s.build ∧ t.pending = s.pending

/-- R59, R84, R529, R532, R534: from every state that meets it, a step keeps the invariant: the staging buffer, the ring,
the crossing history and the capture FIFOs hold no more than they have room for, and the stored register words stay
canonical. -/
def Obligations.EveryStepKeepsTheInvariant : Prop :=
  ∀ (s t : State), s.Inv → step s = .next t → t.Inv

end Obligations
end

