-- ==== Sys2Proof/Laws/Evolve.lean ====
section
/-! SUPPORT. How a state grows out of another: the rules by which the growth of a compound effect follows from that of its
parts. -/

namespace Sys2Proof.Machine

theorem Evolves.refl (s : State) : Evolves s s :=
  ⟨id, rfl, rfl, List.prefix_refl _⟩

/-- A state built from parts grows where its stores, build, queue and trace are those of a state that grows. -/
theorem evolves_mk {s0 s : State} {build cn time mtr rad node adm fsp dim drv can que evt ford cop key upd way mon fld sys
      regs out pending freeIdx}
    (e : (way.staging, way.ring, way.capacity, time.history, time.captures, regs, build, pending, out)
      = (s.way.staging, s.way.ring, s.way.capacity, s.time.history, s.time.captures, s.regs, s.build, s.pending, s.out))
    (h : Evolves s0 s) :
    Evolves s0 (State.mk build cn time mtr rad node adm fsp dim drv can que evt ford cop key upd way mon fld sys regs out
      pending freeIdx) := by
  obtain ⟨a, b, c, d⟩ := h
  simp only [Prod.mk.injEq] at e
  obtain ⟨e1, e2, e3, e4, e5, e6, e7, e8, e9⟩ := e
  refine ⟨fun i => ?_, e7.trans b, e8.trans c, e9 ▸ d⟩
  obtain ⟨i1, i2, i3, i4, i5⟩ := a i
  exact ⟨e1 ▸ i1, e2 ▸ e3 ▸ i2, e4 ▸ i3, e5 ▸ i4, e6 ▸ i5⟩

/-- A state built from other parts whose stores keep their bounds. -/
theorem evolves_fresh {s0 s : State} {build cn time mtr rad node adm fsp dim drv can que evt ford cop key upd way mon fld sys
      regs out pending freeIdx} (h : Evolves s0 s)
    (e : (build, pending, out) = (s.build, s.pending, s.out))
    (h1 : way.staging.length ≤ 64) (h2 : s.way.ring.length ≤ s.way.capacity → way.ring.length ≤ way.capacity)
    (h3 : time.history.length ≤ 1024) (h4 : ∀ c ∈ time.captures, c.fifo.length ≤ 8)
    (h5 : canonicalRegs s.regs = true → canonicalRegs regs = true) :
    Evolves s0 (State.mk build cn time mtr rad node adm fsp dim drv can que evt ford cop key upd way mon fld sys regs out
      pending freeIdx) := by
  simp only [Prod.mk.injEq] at e
  obtain ⟨e1, e2, e3⟩ := e
  exact ⟨fun i => ⟨h1, h2 (h.inv i).ring, h3, h4, h5 (h.inv i).regs⟩, e1.trans h.build, e2.trans h.pending, e3 ▸ h.out⟩

/-- A new waybill block that keeps its bounds. -/
theorem evolves_way {s0 s : State} {w : WaySt} (h : Evolves s0 s)
    (h1 : s.way.staging.length ≤ 64 → w.staging.length ≤ 64)
    (h2 : s.way.ring.length ≤ s.way.capacity → w.ring.length ≤ w.capacity) : Evolves s0 { s with way := w } :=
  ⟨fun i => ⟨h1 (h.inv i).staging, h2 (h.inv i).ring, (h.inv i).history, (h.inv i).captures, (h.inv i).regs⟩,
    h.build, h.pending, h.out⟩

/-- A new TIME block that keeps its bounds. -/
theorem evolves_time {s0 s : State} {t : TimeSt} (h : Evolves s0 s)
    (h1 : s.time.history.length ≤ 1024 → t.history.length ≤ 1024)
    (h2 : (∀ c ∈ s.time.captures, c.fifo.length ≤ 8) → ∀ c ∈ t.captures, c.fifo.length ≤ 8) :
    Evolves s0 { s with time := t } :=
  ⟨fun i => ⟨(h.inv i).staging, (h.inv i).ring, h1 (h.inv i).history, h2 (h.inv i).captures, (h.inv i).regs⟩,
    h.build, h.pending, h.out⟩

/-- Register words that stay canonical. -/
theorem evolves_regs {s0 s : State} {r : Table Word} (h : Evolves s0 s)
    (h1 : canonicalRegs s.regs = true → canonicalRegs r = true) : Evolves s0 { s with regs := r } :=
  ⟨fun i => ⟨(h.inv i).staging, (h.inv i).ring, (h.inv i).history, (h.inv i).captures, h1 (h.inv i).regs⟩,
    h.build, h.pending, h.out⟩

/-- A trace that goes on. -/
theorem evolves_out {s0 s : State} (os : List Output) (h : Evolves s0 s) : Evolves s0 { s with out := s.out ++ os } :=
  ⟨fun i => ⟨(h.inv i).staging, (h.inv i).ring, (h.inv i).history, (h.inv i).captures, (h.inv i).regs⟩,
    h.build, h.pending, h.out.trans (List.prefix_append _ _)⟩

theorem foldLast_length (l : List Rec) : (foldLast l).length = l.length := by
  fun_induction foldLast l <;> simp_all

/-- Changing one capture channel keeps the bound on every FIFO where the change keeps it. -/
theorem captures_lmod {f : CaptureCh → CaptureCh} (n : Nat) (l : List CaptureCh)
    (hf : (lget {} n l).fifo.length ≤ 8 → (f (lget {} n l)).fifo.length ≤ 8)
    (h : ∀ c ∈ l, c.fifo.length ≤ 8) : ∀ c ∈ lmod f n l, c.fifo.length ≤ 8 := by
  fun_induction lmod f n l <;> simp_all [lget]

theorem evolves_cut {s0 x : State} {P : Prop} (a : Evolves s0 x) (b : Evolves s0 x → P) : P :=
  b a

theorem evolves_cut_snd {α : Type} {s0 : State} {x : α × State} {P : Prop} (a : Evolves s0 x.2)
    (b : Evolves s0 x.2 → P) : P :=
  b a

theorem evolves_cut_fst {α : Type} {s0 : State} {x : State × α} {P : Prop} (a : Evolves s0 x.1)
    (b : Evolves s0 x.1 → P) : P :=
  b a

theorem evolves_ite {s0 a b : State} (c : Prop) [Decidable c] (ha : Evolves s0 a) (hb : Evolves s0 b) :
    Evolves s0 (if c then a else b) := by
  split
  · exact ha
  · exact hb

theorem evolves_ite_fst {α : Type} {s0 : State} {a b : State × α} (c : Prop) [Decidable c] (ha : Evolves s0 a.1)
    (hb : Evolves s0 b.1) : Evolves s0 (if c then a else b).1 := by
  split
  · exact ha
  · exact hb

theorem evolves_ite_snd {α : Type} {s0 : State} {a b : α × State} (c : Prop) [Decidable c] (ha : Evolves s0 a.2)
    (hb : Evolves s0 b.2) : Evolves s0 (if c then a else b).2 := by
  split
  · exact ha
  · exact hb

theorem evolves_ite' {s0 a b : State} {c : Prop} [Decidable c] (ha : c → Evolves s0 a) (hb : ¬c → Evolves s0 b) :
    Evolves s0 (if c then a else b) := by
  split
  · exact ha ‹_›
  · exact hb ‹_›

theorem evolves_iff {s0 s : State} (c : Bool) (f : State → State) (h : Evolves s0 s)
    (hf : ∀ x, Evolves s0 x → Evolves s0 (f x)) : Evolves s0 (s.iff c f) := by
  unfold State.iff
  exact evolves_ite _ (hf _ h) h

theorem evolves_whenLive {s0 s : State} (f : State → State) (h : Evolves s0 s)
    (hf : ∀ x, Evolves s0 x → Evolves s0 (f x)) : Evolves s0 (s.whenLive f) := by
  unfold State.whenLive
  exact evolves_ite _ (hf _ h) h

theorem evolves_forEach {α : Type} {s0 : State} (f : α → State → State) (l : List α)
    (hf : ∀ a x, Evolves s0 x → Evolves s0 (f a x)) : ∀ {s : State}, Evolves s0 s → Evolves s0 (forEach f l s) := by
  induction l with
  | nil => intro s h; exact h
  | cons a l ih => intro s h; exact ih (hf a s h)

theorem evolves_forEach_snd {α β : Type} {s0 : State} (f : α → β × State → β × State) (l : List α)
    (hf : ∀ x a, Evolves s0 a.2 → Evolves s0 (f x a).2) : ∀ {a : β × State}, Evolves s0 a.2 → Evolves s0 (forEach f l a).2 := by
  induction l with
  | nil => intro a h; exact h
  | cons x l ih => intro a h; exact ih (hf x a h)

theorem evolves_foldl {α β : Type} {s0 : State} (f : β × State → α → β × State) (l : List α)
    (hf : ∀ a x, Evolves s0 a.2 → Evolves s0 (f a x).2) : ∀ {a : β × State}, Evolves s0 a.2 → Evolves s0 (l.foldl f a).2 := by
  induction l with
  | nil => intro a h; exact h
  | cons x l ih => intro a h; exact ih (hf a x h)

/-- The next state of a meaning that answers `next`. -/
theorem evolves_next {s0 a t : State} (e : (Host.Outcome.next a : Host.Outcome State Fault Refusal) = .next t)
    (h : Evolves s0 a) : Evolves s0 t := by
  cases e
  exact h

end Sys2Proof.Machine
end

