-- ==== Sys2Proof/Laws/EvOps.lean ====
section
/-! SUPPORT. Every operation of Machine/Ops.lean lets the state grow (Safety.lean). -/

set_option Elab.async false

namespace Sys2Proof.Machine

theorem State.drawNat_ev {s0 : State} {s : State} (hev : Evolves s0 s) :
    Evolves s0 (State.drawNat s).2 := by
  unfold State.drawNat
  repeat' first | (with_reducible apply evolves_mk; with_reducible exact rfl; with_reducible assumption)

theorem State.drawNat_eq {s0 sx : State} {s : State} {qx : Nat} (e : (State.drawNat s) = (qx, sx))
    (hev : Evolves s0 s) : Evolves s0 sx := by
  have g := State.drawNat_ev  hev
  rw [e] at g
  exact g

theorem State.drawInt_ev {s0 : State} {s : State} (hev : Evolves s0 s) :
    Evolves s0 (State.drawInt s).2 := by
  unfold State.drawInt
  repeat' first | (with_reducible apply evolves_mk; with_reducible exact rfl; with_reducible assumption)

theorem State.drawInt_eq {s0 sx : State} {s : State} {qx : Int} (e : (State.drawInt s) = (qx, sx))
    (hev : Evolves s0 s) : Evolves s0 sx := by
  have g := State.drawInt_ev  hev
  rw [e] at g
  exact g

theorem State.drawRandom_ev {s0 : State} {s : State} (hev : Evolves s0 s) :
    Evolves s0 (State.drawRandom s).2 := by
  unfold State.drawRandom
  repeat' first | (with_reducible apply evolves_mk; with_reducible exact rfl; with_reducible assumption)

theorem State.drawRandom_eq {s0 sx : State} {s : State} {qx : BitVec 256} (e : (State.drawRandom s) = (qx, sx))
    (hev : Evolves s0 s) : Evolves s0 sx := by
  have g := State.drawRandom_ev  hev
  rw [e] at g
  exact g

theorem State.advance_ev {s0 : State} {s : State} (ticks : Nat) (hev : Evolves s0 s) :
    Evolves s0 (State.advance s ticks) := by
  unfold State.advance
  repeat' first | (with_reducible apply evolves_mk; with_reducible exact rfl; with_reducible assumption)

theorem State.advanceTo_ev {s0 : State} {s : State} (tick : Nat) (hev : Evolves s0 s) :
    Evolves s0 (State.advanceTo s tick) := by
  unfold State.advanceTo
  repeat' first | with_reducible assumption | with_reducible apply State.advance_ev

theorem State.emit_ev {s0 s : State} (o : Output) (hev : Evolves s0 s) : Evolves s0 (s.emit o) :=
  evolves_out [o] hev

theorem State.emits_ev {s0 s : State} (os : List Output) (hev : Evolves s0 s) : Evolves s0 (s.emits os) :=
  evolves_out os hev

theorem State.endTest_ev {s0 : State} {s : State} (hev : Evolves s0 s) :
    Evolves s0 (State.endTest s) := by
  unfold State.endTest
  repeat' first | (with_reducible apply evolves_mk; with_reducible exact rfl; with_reducible assumption)

theorem State.post_ev {s0 : State} {s : State} (src kind payload : Nat) (hev : Evolves s0 s) :
    Evolves s0 (State.post s src kind payload) := by
  unfold State.post
  repeat' first | (with_reducible apply evolves_mk; with_reducible exact rfl; with_reducible assumption)

theorem State.postTile_ev {s0 : State} {s : State} (t : Template) (unit i kind payload : Nat) (hev : Evolves s0 s) :
    Evolves s0 (State.postTile s t unit i kind payload) := by
  unfold State.postTile
  repeat' first
    | with_reducible assumption
    | with_reducible apply State.post_ev
    | (with_reducible apply evolves_mk; with_reducible exact rfl; split)

theorem State.enter_ev {s0 s : State} (h : Rec) (hev : Evolves s0 s) : Evolves s0 (s.enter h) := by
  unfold State.enter
  split
  · split
    · exact evolves_way hev (by simp [foldLast_length]) id
    · split
      · refine evolves_iff _ _ (evolves_way hev (fun _ => ?_) id) fun x hx => State.post_ev _ _ _ hx
        simp only [List.length_append, List.length_cons, List.length_nil]
        omega
      · exact evolves_way hev id id
  · split
    · exact evolves_way hev id (by simp [foldLast_length])
    · exact evolves_way hev (fun _ => by simp) id

theorem State.record_ev {s0 : State} {s : State} (source id : Nat) (reason : Reason) (payload : List Byte) (hev : Evolves s0 s) :
    Evolves s0 (State.record s source id reason payload) := by
  unfold State.record
  repeat' first | with_reducible assumption | with_reducible apply State.enter_ev

theorem State.recordAs_ev {s0 : State} {s : State} (role : Role) (source id : Nat) (reason : Reason) (payload : List Byte) (hev : Evolves s0 s) :
    Evolves s0 (State.recordAs s role source id reason payload) := by
  unfold State.recordAs
  repeat' first | with_reducible assumption | with_reducible apply State.enter_ev

theorem State.recordEvent_ev {s0 : State} {s : State} (source id kind payload : Nat) (reason : Reason) (hev : Evolves s0 s) :
    Evolves s0 (State.recordEvent s source id kind payload reason) := by
  unfold State.recordEvent
  repeat' first | with_reducible assumption | with_reducible apply State.record_ev

theorem State.postRecord_ev {s0 : State} {s : State} (source id kind payload : Nat) (reason : Reason) (hev : Evolves s0 s) :
    Evolves s0 (State.postRecord s source id kind payload reason) := by
  unfold State.postRecord
  repeat' first
    | with_reducible assumption
    | with_reducible apply State.post_ev
    | with_reducible apply State.recordEvent_ev

theorem State.raiseThin_ev {s0 : State} {s : State} (kind : Nat) (hev : Evolves s0 s) :
    Evolves s0 (State.raiseThin s kind) := by
  unfold State.raiseThin
  repeat' first
    | with_reducible assumption
    | with_reducible apply State.postRecord_ev
    | with_reducible apply evolves_ite
    | (with_reducible apply evolves_mk; with_reducible exact rfl; with_reducible assumption)

end Sys2Proof.Machine
end

