-- ==== Sys2Proof/Laws/Tables.lean ====
section
/-! SUPPORT. Sparse tables: reads after writes, and that writes keep the keys strictly rising. -/

namespace Sys2Proof.Machine

/-- What a table holds after a put: the pair put, or a pair it held. -/
theorem tput_mem {α : Type} (k : Nat) (v : α) (t : Table α) (p : Nat × α) (h : p ∈ tput k v t) : p = (k, v) ∨ p ∈ t := by
  induction t with
  | nil => simpa [tput] using h
  | cons q r ih =>
    obtain ⟨j, w⟩ := q
    simp only [tput] at h
    split at h
    · rcases List.mem_cons.1 h with h | h
      · exact .inl h
      · exact .inr (List.mem_cons_of_mem _ h)
    · split at h
      · rcases List.mem_cons.1 h with h | h
        · exact .inl h
        · exact .inr h
      · rcases List.mem_cons.1 h with h | h
        · exact .inr (h ▸ List.mem_cons_self)
        · exact (ih h).imp id (List.mem_cons_of_mem _)

/-- What a table holds after a removal, it held. -/
theorem tdel_mem {α : Type} (k : Nat) (t : Table α) (p : Nat × α) (h : p ∈ tdel k t) : p ∈ t := by
  induction t with
  | nil => simp [tdel] at h
  | cons q r ih =>
    obtain ⟨j, w⟩ := q
    simp only [tdel] at h
    split at h
    · exact List.mem_cons_of_mem _ h
    · split at h
      · exact h
      · rcases List.mem_cons.1 h with h | h
        · exact h ▸ List.mem_cons_self
        · exact List.mem_cons_of_mem _ (ih h)

/-- The first key of a table is above a bound. -/
def above {α : Type} (n : Nat) : Table α → Prop
  | [] => True
  | (k, _) :: _ => n < k

theorem tsorted_cons {α : Type} (k : Nat) (v : α) (t : Table α) :
    tsorted ((k, v) :: t) = true ↔ above k t ∧ tsorted t = true := by
  cases t with
  | nil => simp [tsorted, above]
  | cons p r => obtain ⟨j, w⟩ := p; simp [tsorted, above]

theorem above_tput {α : Type} (n k : Nat) (v : α) (t : Table α) (hk : n < k) (h : above n t) : above n (tput k v t) := by
  cases t with
  | nil => exact hk
  | cons p r =>
    obtain ⟨j, w⟩ := p
    simp only [tput]
    split
    · exact hk
    · split
      · exact hk
      · exact h

theorem above_trans {α : Type} (n k : Nat) (t : Table α) (hk : n < k) (h : above k t) : above n t := by
  cases t with
  | nil => trivial
  | cons p r => exact Nat.lt_trans hk h

/-- Putting a value keeps the keys strictly rising. -/
theorem tput_sorted {α : Type} (k : Nat) (v : α) (t : Table α) (h : tsorted t = true) : tsorted (tput k v t) = true := by
  induction t with
  | nil => rfl
  | cons p r ih =>
    obtain ⟨j, w⟩ := p
    have hs := (tsorted_cons j w r).1 h
    simp only [tput]
    split
    · subst_vars
      exact (tsorted_cons _ _ _).2 hs
    · split
      · exact (tsorted_cons _ _ _).2 ⟨‹_›, h⟩
      · exact (tsorted_cons _ _ _).2 ⟨above_tput _ _ _ _ (by omega) hs.1, ih hs.2⟩

/-- Removing a key keeps the keys strictly rising. -/
theorem tdel_sorted {α : Type} (k : Nat) (t : Table α) (h : tsorted t = true) : tsorted (tdel k t) = true := by
  induction t with
  | nil => rfl
  | cons p r ih =>
    obtain ⟨j, w⟩ := p
    have hs := (tsorted_cons j w r).1 h
    simp only [tdel]
    split
    · exact hs.2
    · split
      · exact h
      · refine (tsorted_cons _ _ _).2 ⟨?_, ih hs.2⟩
        cases r with
        | nil => trivial
        | cons q r =>
          obtain ⟨i, x⟩ := q
          have hi := (tsorted_cons i x r).1 hs.2
          simp only [tdel]
          split
          · exact above_trans _ _ _ hs.1 hi.1
          · split <;> exact hs.1

/-- A read after a put of the same key gives the value put. -/
@[simp] theorem tget_tput_same {α : Type} (k : Nat) (v : α) (t : Table α) : tget k (tput k v t) = some v := by
  induction t with
  | nil => simp [tput, tget]
  | cons q r ih =>
    obtain ⟨j, w⟩ := q
    simp only [tput]
    split
    · simp [tget]
    · split
      · simp [tget]
      · simp only [tget]
        rw [if_neg (by assumption), if_neg (by assumption)]
        exact ih

/-- A put leaves every other key alone. -/
theorem tget_tput_ne {α : Type} (k n : Nat) (v : α) (t : Table α) (h : n ≠ k) : tget n (tput k v t) = tget n t := by
  induction t with
  | nil => simp [tput, tget]; omega
  | cons q r ih =>
    obtain ⟨j, w⟩ := q
    simp only [tput]
    split
    · subst_vars
      simp only [tget]
      rw [if_neg (Ne.symm h), if_neg (Ne.symm h)]
    · split
      · simp only [tget]
        rw [if_neg (Ne.symm h)]
        split
        · split
          · omega
          · split
            · rfl
            · omega
        · rfl
      · simp only [tget, ih]

/-- A table whose keys are above a bound holds nothing at or below it. -/
theorem tget_above {α : Type} (k n : Nat) (t : Table α) (h : above k t) (hs : tsorted t = true) (hn : n ≤ k) :
    tget n t = none := by
  cases t with
  | nil => rfl
  | cons q r =>
    obtain ⟨j, w⟩ := q
    have hj : k < j := h
    simp only [tget]
    rw [if_neg (by omega), if_pos (by omega)]

/-- A read after a removal of the same key finds nothing. -/
theorem tget_tdel_same {α : Type} (k : Nat) (t : Table α) (h : tsorted t = true) : tget k (tdel k t) = none := by
  induction t with
  | nil => rfl
  | cons q r ih =>
    obtain ⟨j, w⟩ := q
    have hs := (tsorted_cons j w r).1 h
    simp only [tdel]
    split
    · subst_vars
      exact tget_above _ _ _ hs.1 hs.2 (Nat.le_refl _)
    · split
      · simp only [tget]
        rw [if_neg (by assumption), if_pos (by assumption)]
      · simp only [tget]
        rw [if_neg (by assumption), if_neg (by assumption)]
        exact ih hs.2

/-- A removal leaves every other key alone. -/
theorem tget_tdel_ne {α : Type} (k n : Nat) (t : Table α) (hs : tsorted t = true) (h : n ≠ k) :
    tget n (tdel k t) = tget n t := by
  induction t with
  | nil => rfl
  | cons q r ih =>
    obtain ⟨j, w⟩ := q
    have hj := (tsorted_cons j w r).1 hs
    simp only [tdel]
    split
    · subst_vars
      simp only [tget]
      rw [if_neg (Ne.symm h)]
      split
      · exact tget_above _ _ _ hj.1 hj.2 (by omega)
      · rfl
    · split
      · rfl
      · simp only [tget, ih hj.2]

end Sys2Proof.Machine
end

