-- ==== Sys2Proof/Laws/EvRegs.lean ====
section
/-! SUPPORT. Every operation of Machine/Regs.lean lets the state grow (Safety.lean). -/

set_option Elab.async false

namespace Sys2Proof.Machine

/-- Storing a word keeps the register words canonical. -/
theorem canonicalRegs_setReg (s : State) (a v : Nat) (h : canonicalRegs s.regs = true) :
    canonicalRegs (s.setReg a v).regs = true := by
  simp only [canonicalRegs, Bool.and_eq_true, List.all_eq_true, decide_eq_true_eq] at h ⊢
  unfold State.setReg
  dsimp only
  split
  · exact ⟨tdel_sorted _ _ h.1, fun p hp => h.2 p (tdel_mem _ _ _ hp)⟩
  · refine ⟨tput_sorted _ _ _ h.1, fun p hp => ?_⟩
    rcases tput_mem _ _ _ _ hp with e | hp
    · subst e
      simpa using ‹_›
    · exact h.2 p hp

theorem State.setReg_ev {s0 s : State} (a v : Nat) (hev : Evolves s0 s) : Evolves s0 (s.setReg a v) :=
  evolves_regs hev (canonicalRegs_setReg s a v)

end Sys2Proof.Machine
end

