-- ==== Sys2Proof/Laws/EvRegOps.lean ====
section
/-! SUPPORT. Every operation of Machine/RegOps.lean lets the state grow (Safety.lean). -/

set_option Elab.async false

namespace Sys2Proof.Machine

theorem State.recordWrite_ev {s0 : State} {s : State} (w : Writer) (reason : Reason) (a old new : Nat) (hev : Evolves s0 s) :
    Evolves s0 (State.recordWrite s w reason a old new) := by
  unfold State.recordWrite
  repeat' first | with_reducible assumption | with_reducible apply State.recordAs_ev

theorem State.recordRefused_ev {s0 : State} {s : State} (w : Writer) (r : Written) (a v : Nat) (hev : Evolves s0 s) :
    Evolves s0 (State.recordRefused s w r a v) := by
  unfold State.recordRefused
  repeat' first
    | with_reducible assumption
    | with_reducible apply State.recordWrite_ev
    | (with_reducible apply evolves_mk; with_reducible exact rfl; split)

theorem State.writeQuiet_ev {s0 : State} {s : State} (a v : Nat) (w : Writer) (hev : Evolves s0 s) :
    Evolves s0 (State.writeQuiet s a v w).1 := by
  unfold State.writeQuiet
  repeat' first
    | with_reducible assumption
    | with_reducible apply State.recordRefused_ev
    | with_reducible apply State.setReg_ev
    | (with_reducible apply evolves_mk; with_reducible exact rfl; split)

theorem State.writeQuiet_eq {s0 sx : State} {s : State} {a v : Nat} {w : Writer} {qx : Written} (e : (State.writeQuiet s a v w) = (sx, qx))
    (hev : Evolves s0 s) : Evolves s0 sx := by
  have g := State.writeQuiet_ev a v w hev
  rw [e] at g
  exact g

theorem State.writeReg_ev {s0 : State} {s : State} (a v : Nat) (w : Writer) (hev : Evolves s0 s) :
    Evolves s0 (State.writeReg s a v w).1 := by
  unfold State.writeReg
  repeat' first
    | with_reducible assumption
    | with_reducible apply State.recordWrite_ev
    | with_reducible apply State.writeQuiet_ev
    | with_reducible apply evolves_ite_fst

theorem State.writeReg_eq {s0 sx : State} {s : State} {a v : Nat} {w : Writer} {qx : Written} (e : (State.writeReg s a v w) = (sx, qx))
    (hev : Evolves s0 s) : Evolves s0 sx := by
  have g := State.writeReg_ev a v w hev
  rw [e] at g
  exact g

end Sys2Proof.Machine
end

