-- ==== Sys2Proof/Laws/EvFspOps.lean ====
section
/-! SUPPORT. Every operation of Machine/FspOps.lean lets the state grow (Safety.lean). -/

set_option Elab.async false

namespace Sys2Proof.Machine

theorem State.modSession_ev {s0 : State} {s : State} (i : Fin 4) (f : Session → Session) (hev : Evolves s0 s) :
    Evolves s0 (State.modSession s i f) := by
  unfold State.modSession
  repeat' first | (with_reducible apply evolves_mk; with_reducible exact rfl; with_reducible assumption)

theorem State.respond_ev {s0 : State} {s : State} (i : Fin 4) (type tx : Nat) (body : List Byte) (hev : Evolves s0 s) :
    Evolves s0 (State.respond s i type tx body) := by
  unfold State.respond
  repeat' first | with_reducible assumption | with_reducible apply State.emit_ev

theorem State.fspError_ev {s0 : State} {s : State} (i : Fin 4) (reason : Reason) (type detail offset tx : Nat) (hev : Evolves s0 s) :
    Evolves s0 (State.fspError s i reason type detail offset tx) := by
  unfold State.fspError
  repeat' first | with_reducible assumption | with_reducible apply State.emit_ev

theorem State.closeSession_ev {s0 : State} {s : State} (i : Fin 4) (hev : Evolves s0 s) :
    Evolves s0 (State.closeSession s i) := by
  unfold State.closeSession
  repeat' first
    | with_reducible assumption
    | refine fun (_ : Evolves _ _) => ?_
    | with_reducible apply State.emit_ev
    | with_reducible apply State.recordAs_ev
    | with_reducible apply evolves_ite
    | (with_reducible apply evolves_mk; with_reducible exact rfl; (first | with_reducible apply evolves_iff | split))
    | intro x
    | split
    | lift_lets
    | dsimp only

theorem State.fspViolation_ev {s0 : State} {s : State} (i : Fin 4) (reason : Reason) (type tx : Nat) (hev : Evolves s0 s) :
    Evolves s0 (State.fspViolation s i reason type tx) := by
  unfold State.fspViolation
  repeat' first
    | with_reducible assumption
    | with_reducible apply State.closeSession_ev
    | with_reducible apply State.fspError_ev
    | with_reducible apply State.modSession_ev
    | with_reducible apply State.recordAs_ev
    | with_reducible apply evolves_ite
    | (with_reducible apply evolves_mk; with_reducible exact rfl; split)

theorem State.refuse_ev {s0 : State} {s : State} (i : Fin 4) (reason : Reason) (type detail offset tx : Nat) (hev : Evolves s0 s) :
    Evolves s0 (State.refuse s i reason type detail offset tx) := by
  unfold State.refuse
  repeat' first
    | with_reducible assumption
    | with_reducible apply State.fspError_ev
    | with_reducible apply State.fspViolation_ev

theorem State.malformed_ev {s0 : State} {s : State} (i : Fin 4) (type tx : Nat) (hev : Evolves s0 s) :
    Evolves s0 (State.malformed s i type tx) := by
  unfold State.malformed
  repeat' first
    | with_reducible assumption
    | with_reducible apply State.fspViolation_ev
    | with_reducible apply State.respond_ev

theorem State.request_ev {s0 : State} {s : State} (i : Fin 4) (role : Byte) (type tx : Nat) (need : Role) (serve : Session → State → State) (h_serve : ∀ a0 x, Evolves s0 x → Evolves s0 (serve a0 x)) (hev : Evolves s0 s) :
    Evolves s0 (State.request s i role type tx need serve) := by
  unfold State.request
  repeat' first
    | with_reducible assumption
    | with_reducible apply State.modSession_ev
    | with_reducible apply State.refuse_ev
    | apply h_serve
    | with_reducible apply evolves_ite
    | (with_reducible apply evolves_mk; with_reducible exact rfl; (first | with_reducible apply State.modSession_ev | split))

theorem State.countUse_ev {s0 : State} {s : State} (i : Fin 4) (c : Session) (f : Session → Session) (hev : Evolves s0 s) :
    Evolves s0 (State.countUse s i c f) := by
  unfold State.countUse
  repeat' first
    | with_reducible assumption
    | with_reducible apply State.modSession_ev
    | with_reducible apply evolves_ite

theorem State.pushTo_ev {s0 : State} {s : State} (p : Push) (i : Nat) (hev : Evolves s0 s) :
    Evolves s0 (State.pushTo s p i) := by
  unfold State.pushTo
  repeat' first
    | with_reducible assumption
    | with_reducible apply State.emit_ev
    | with_reducible apply evolves_ite
    | (with_reducible apply evolves_mk; with_reducible exact rfl; (first | with_reducible assumption | split))

theorem State.push_ev {s0 : State} {s : State} (type : Nat) (body : List Byte) (bookedRoom : Nat) (hev : Evolves s0 s) :
    Evolves s0 (State.push s type body bookedRoom) := by
  unfold State.push
  repeat' first
    | with_reducible assumption
    | refine fun (_ : Evolves _ _) => ?_
    | with_reducible apply evolves_iff
    | with_reducible apply evolves_whenLive
    | with_reducible apply evolves_forEach
    | with_reducible apply State.pushTo_ev
    | with_reducible apply State.record_ev
    | with_reducible apply evolves_ite
    | (with_reducible apply evolves_mk; (first | with_reducible exact rfl | (dsimp only; exact rfl)); (first | with_reducible assumption | with_reducible apply evolves_iff | with_reducible apply evolves_whenLive | with_reducible apply evolves_forEach | with_reducible apply State.pushTo_ev | with_reducible apply State.record_ev | with_reducible apply evolves_ite | split))
    | (intro x; refine evolves_cut (s0 := s0) (x := x) ?_ ?_; rotate_left; clear_value x; intro hx; rotate_left; subst x)
    | (refine Prod.forall.2 ?_; dsimp only)
    | intro x
    | split
    | lift_lets
    | dsimp only

theorem State.pushWaiting_ev {s0 : State} (i n : Nat) :
    ∀ {s : State}, Evolves s0 s → Evolves s0 (s.pushWaiting i n) := by
  induction n with
  | zero => intro s h; exact h
  | succ n ih =>
    intro s h
    unfold State.pushWaiting
    split
    · exact h
    · split
      · exact h
      · split
        · split
          · exact ih (State.emit_ev _ (evolves_mk rfl h))
          · exact ih (evolves_mk rfl h)
        · exact h

end Sys2Proof.Machine
end

