-- ==== Sys2Proof/Laws/EvKeyOps.lean ====
section
/-! SUPPORT. Every operation of Machine/KeyOps.lean lets the state grow (Safety.lean). -/

set_option Elab.async false

namespace Sys2Proof.Machine

theorem State.setSlot_ev {s0 : State} {s : State} (n : Nat) (c : SlotSt) (hev : Evolves s0 s) :
    Evolves s0 (State.setSlot s n c) := by
  unfold State.setSlot
  repeat' first | (with_reducible apply evolves_mk; with_reducible exact rfl; with_reducible assumption)

theorem State.witherChildren_ev {s0 : State} {s : State} (n : Nat) (hev : Evolves s0 s) :
    Evolves s0 (State.witherChildren s n) := by
  unfold State.witherChildren
  repeat' first | (with_reducible apply evolves_mk; with_reducible exact rfl; with_reducible assumption)

theorem State.tagRun_ev {s0 : State} {s : State} (n : Nat) (hev : Evolves s0 s) :
    Evolves s0 (State.tagRun s n) := by
  unfold State.tagRun
  repeat' first
    | with_reducible assumption
    | with_reducible apply evolves_ite
    | (with_reducible apply evolves_mk; with_reducible exact rfl; (first | with_reducible assumption | split))

theorem State.invalidate_ev {s0 : State} {s : State} (n : Nat) (hev : Evolves s0 s) :
    Evolves s0 (State.invalidate s n) := by
  unfold State.invalidate
  repeat' first
    | with_reducible assumption
    | with_reducible apply State.tagRun_ev
    | with_reducible apply State.witherChildren_ev

theorem State.emptySlot_ev {s0 : State} {s : State} (n : Nat) (hev : Evolves s0 s) :
    Evolves s0 (State.emptySlot s n) := by
  unfold State.emptySlot
  repeat' first | with_reducible assumption | with_reducible apply State.setSlot_ev

theorem State.recordKey_ev {s0 : State} {s : State} (role : Role) (slot : Nat) (op : KeyOp) (reason : Reason) (tagged : Bool) (hev : Evolves s0 s) :
    Evolves s0 (State.recordKey s role slot op reason tagged) := by
  unfold State.recordKey
  repeat' first | with_reducible assumption | with_reducible apply State.enter_ev

end Sys2Proof.Machine
end

