-- ==== Sys2Proof/Laws/EvShift.lean ====
section
/-! SUPPORT. Every operation of Machine/Shift.lean lets the state grow (Safety.lean). -/

set_option Elab.async false

namespace Sys2Proof.Machine

theorem State.shiftCn_ev {s0 s : State} (k : Int) (hev : Evolves s0 s) : Evolves s0 (s.shiftCn k) := by
  have g : Evolves s0 { s with time := s.time.shift k } := evolves_time hev (by simp [TimeSt.shift]) id
  unfold State.shiftCn
  refine evolves_mk (s := { s with time := s.time.shift k }) ?_ g
  rfl

end Sys2Proof.Machine
end

