-- ==== Sys2Proof/Laws/EvTimeOps.lean ====
section
/-! SUPPORT. Every operation of Machine/TimeOps.lean lets the state grow (Safety.lean). -/

set_option Elab.async false

namespace Sys2Proof.Machine

@[simp] theorem TimeSt.slewCycle_history (t : TimeSt) (b : Bool) : (t.slewCycle b).history = t.history := by
  unfold TimeSt.slewCycle
  repeat' split
  all_goals rfl

@[simp] theorem TimeSt.slewCycle_captures (t : TimeSt) (b : Bool) : (t.slewCycle b).captures = t.captures := by
  unfold TimeSt.slewCycle
  repeat' split
  all_goals rfl

@[simp] theorem TimeSt.addDay_history (t : TimeSt) (p : Nat) : (t.addDay p).history = t.history := by
  unfold TimeSt.addDay
  repeat' split
  all_goals rfl

@[simp] theorem TimeSt.addDay_captures (t : TimeSt) (p : Nat) : (t.addDay p).captures = t.captures := by
  unfold TimeSt.addDay
  repeat' split
  all_goals rfl

@[simp] theorem TimeSt.setRate_history (t : TimeSt) (p : Int) : (t.setRate p).history = t.history := by
  unfold TimeSt.setRate
  repeat' split
  all_goals rfl

@[simp] theorem TimeSt.setRate_captures (t : TimeSt) (p : Int) : (t.setRate p).captures = t.captures := by
  unfold TimeSt.setRate
  repeat' split
  all_goals rfl

@[simp] theorem TimeSt.enterLocking_history (t : TimeSt) : (t.enterLocking).history = t.history := by
  unfold TimeSt.enterLocking
  repeat' split
  all_goals rfl

@[simp] theorem TimeSt.enterLocking_captures (t : TimeSt) : (t.enterLocking).captures = t.captures := by
  unfold TimeSt.enterLocking
  repeat' split
  all_goals rfl

@[simp] theorem TimeSt.changeSource_history (t : TimeSt) (x : TSource) : (t.changeSource x).history = t.history := by
  unfold TimeSt.changeSource
  repeat' split
  all_goals rfl

@[simp] theorem TimeSt.changeSource_captures (t : TimeSt) (x : TSource) : (t.changeSource x).captures = t.captures := by
  unfold TimeSt.changeSource
  repeat' split
  all_goals rfl

@[simp] theorem TimeSt.absenceFrom_history (t : TimeSt) (a : Nat) : (t.absenceFrom a).history = t.history := by
  unfold TimeSt.absenceFrom
  repeat' split
  all_goals rfl

@[simp] theorem TimeSt.absenceFrom_captures (t : TimeSt) (a : Nat) : (t.absenceFrom a).captures = t.captures := by
  unfold TimeSt.absenceFrom
  repeat' split
  all_goals rfl

@[simp] theorem TimeSt.absenceEnds_history (t : TimeSt) (a : Nat) : (t.absenceEnds a).history = t.history := by
  unfold TimeSt.absenceEnds
  repeat' split
  all_goals rfl

@[simp] theorem TimeSt.absenceEnds_captures (t : TimeSt) (a : Nat) : (t.absenceEnds a).captures = t.captures := by
  unfold TimeSt.absenceEnds
  repeat' split
  all_goals rfl

theorem State.recordTime_ev {s0 : State} {s : State} (source kind payload : Nat) (hev : Evolves s0 s) :
    Evolves s0 (State.recordTime s source kind payload) := by
  unfold State.recordTime
  repeat' first | with_reducible assumption | with_reducible apply State.record_ev

theorem State.timebaseEvent_ev {s0 : State} {s : State} (kind port : Nat) (hev : Evolves s0 s) :
    Evolves s0 (State.timebaseEvent s kind port) := by
  unfold State.timebaseEvent
  repeat' first
    | with_reducible assumption
    | with_reducible apply State.post_ev
    | with_reducible apply State.recordTime_ev

theorem State.mainsEvent_ev {s0 : State} {s : State} (kind : Nat) (hev : Evolves s0 s) :
    Evolves s0 (State.mainsEvent s kind) := by
  unfold State.mainsEvent
  repeat' first
    | with_reducible assumption
    | with_reducible apply State.post_ev
    | with_reducible apply State.recordTime_ev

theorem State.rebaseEvent_ev {s0 : State} {s : State} (prov attributed : Cn) (hev : Evolves s0 s) :
    Evolves s0 (State.rebaseEvent s prov attributed) := by
  unfold State.rebaseEvent
  repeat' first
    | with_reducible assumption
    | with_reducible apply State.post_ev
    | with_reducible apply State.record_ev

theorem State.syncEvent_ev {s0 : State} {s : State} (kind : Nat) (d : Int) (hev : Evolves s0 s) :
    Evolves s0 (State.syncEvent s kind d) := by
  unfold State.syncEvent
  repeat' first
    | with_reducible assumption
    | with_reducible apply State.post_ev
    | with_reducible apply State.recordTime_ev

theorem State.beginSlot_ev {s0 : State} {s : State} (hev : Evolves s0 s) :
    Evolves s0 (State.beginSlot s) := by
  unfold State.beginSlot
  repeat' first | (with_reducible apply evolves_mk; with_reducible exact rfl; with_reducible assumption)

theorem State.beginSecond_ev {s0 : State} {s : State} (hev : Evolves s0 s) :
    Evolves s0 (State.beginSecond s) := by
  unfold State.beginSecond
  repeat' first
    | with_reducible assumption
    | with_reducible apply State.beginSlot_ev
    | (with_reducible apply evolves_mk; with_reducible exact rfl; with_reducible apply State.advanceTo_ev)

theorem State.nextCycle_ev {s0 : State} {s : State} (hev : Evolves s0 s) :
    Evolves s0 (State.nextCycle s) := by
  unfold State.nextCycle
  repeat' first
    | with_reducible assumption
    | with_reducible apply State.beginSecond_ev
    | with_reducible apply State.beginSlot_ev
    | with_reducible apply evolves_ite
    | (with_reducible apply evolves_mk; (simp +zetaDelta only [TimeSt.slewCycle_history, TimeSt.slewCycle_captures]; exact rfl); with_reducible apply State.advanceTo_ev)

theorem State.startCount_ev {s0 : State} {s : State} (cn : Cn) (ref : Nat) (hev : Evolves s0 s) :
    Evolves s0 (State.startCount s cn ref) := by
  unfold State.startCount
  repeat' first
    | with_reducible apply State.beginSlot_ev
    | (with_reducible apply evolves_mk; with_reducible exact rfl; with_reducible assumption)

theorem State.servoUpdate_ev {s0 : State} {s : State} (theta : Int) (hev : Evolves s0 s) :
    Evolves s0 (State.servoUpdate s theta) := by
  unfold State.servoUpdate
  repeat' first
    | with_reducible assumption
    | with_reducible apply evolves_ite
    | (with_reducible apply evolves_mk; (simp +zetaDelta only [TimeSt.setRate_history, TimeSt.setRate_captures]; exact rfl); with_reducible assumption)

theorem State.holdoverUpdate_ev {s0 : State} {s : State} (ref : Int) (cn : Cn) (hev : Evolves s0 s) :
    Evolves s0 (State.holdoverUpdate s ref cn) := by
  unfold State.holdoverUpdate
  repeat' first
    | with_reducible assumption
    | with_reducible apply evolves_ite
    | (with_reducible apply evolves_mk; (simp +zetaDelta only [TimeSt.setRate_history, TimeSt.setRate_captures]; exact rfl); with_reducible assumption)

theorem State.enterHoldover_ev {s0 : State} {s : State} (kind : Nat) (hev : Evolves s0 s) :
    Evolves s0 (State.enterHoldover s kind) := by
  unfold State.enterHoldover
  repeat' first
    | with_reducible assumption
    | with_reducible apply State.timebaseEvent_ev
    | (with_reducible apply evolves_mk; (simp +zetaDelta only [TimeSt.setRate_history, TimeSt.setRate_captures]; exact rfl); with_reducible apply State.drawNat_ev)

theorem State.sourceLost_ev {s0 : State} {s : State} (hev : Evolves s0 s) :
    Evolves s0 (State.sourceLost s) := by
  unfold State.sourceLost
  repeat' first
    | with_reducible assumption
    | with_reducible apply State.enterHoldover_ev
    | with_reducible apply evolves_ite
    | (with_reducible apply evolves_mk; (first | with_reducible exact rfl | (simp +zetaDelta only [TimeSt.changeSource_history, TimeSt.changeSource_captures]; exact rfl)); (first | with_reducible assumption | split))

theorem State.checkSource_ev {s0 : State} {s : State} (hev : Evolves s0 s) :
    Evolves s0 (State.checkSource s) := by
  unfold State.checkSource
  repeat' first
    | with_reducible assumption
    | with_reducible apply State.sourceLost_ev
    | with_reducible apply evolves_ite
    | (with_reducible apply evolves_mk; with_reducible exact rfl; split)

theorem State.timeViolation_ev {s0 : State} {s : State} (hev : Evolves s0 s) :
    Evolves s0 (State.timeViolation s) := by
  unfold State.timeViolation
  repeat' first | (with_reducible apply evolves_mk; with_reducible exact rfl; with_reducible assumption)

theorem State.ptpViolation_ev {s0 : State} {s : State} (p : Fin 2) (hev : Evolves s0 s) :
    Evolves s0 (State.ptpViolation s p) := by
  unfold State.ptpViolation
  repeat' first
    | with_reducible assumption
    | with_reducible apply State.timebaseEvent_ev
    | with_reducible apply evolves_ite
    | (with_reducible apply evolves_mk; with_reducible exact rfl; with_reducible apply State.timeViolation_ev)

theorem State.sourceViolation_ev {s0 : State} {s : State} (src : TSource) (hev : Evolves s0 s) :
    Evolves s0 (State.sourceViolation s src) := by
  unfold State.sourceViolation
  repeat' first
    | with_reducible assumption
    | with_reducible apply State.ptpViolation_ev
    | with_reducible apply State.timeViolation_ev
    | (with_reducible apply evolves_mk; with_reducible exact rfl; split)

theorem State.stepCounter_ev {s0 : State} {s : State} (four : List Int) (hev : Evolves s0 s) :
    Evolves s0 (State.stepCounter s four) := by
  unfold State.stepCounter
  repeat' first | (with_reducible apply evolves_mk; with_reducible exact rfl; with_reducible assumption)

theorem State.acceptOffset_ev {s0 : State} {s : State} (theta : Int) (hev : Evolves s0 s) :
    Evolves s0 (State.acceptOffset s theta) := by
  unfold State.acceptOffset
  repeat' first
    | with_reducible apply State.servoUpdate_ev
    | with_reducible apply State.stepCounter_ev
    | with_reducible apply State.timebaseEvent_ev
    | with_reducible apply evolves_ite
    | (with_reducible apply evolves_mk; with_reducible exact rfl; (first | with_reducible assumption | with_reducible apply State.servoUpdate_ev))
    | intro x
    | lift_lets
    | dsimp only

theorem State.bigOffset_ev {s0 : State} {s : State} (src : TSource) (theta : Int) (hev : Evolves s0 s) :
    Evolves s0 (State.bigOffset s src theta) := by
  unfold State.bigOffset
  repeat' first
    | with_reducible assumption
    | with_reducible apply State.acceptOffset_ev
    | with_reducible apply State.enterHoldover_ev
    | with_reducible apply evolves_ite
    | (with_reducible apply evolves_mk; with_reducible exact rfl; with_reducible apply State.sourceViolation_ev)
    | intro x
    | lift_lets
    | dsimp only

theorem State.returningOffset_ev {s0 : State} {s : State} (src : TSource) (theta : Int) (hev : Evolves s0 s) :
    Evolves s0 (State.returningOffset s src theta) := by
  unfold State.returningOffset
  repeat' first
    | with_reducible apply evolves_ite
    | (with_reducible apply evolves_mk; (first | with_reducible exact rfl | (simp +zetaDelta only [TimeSt.enterLocking_history, TimeSt.enterLocking_captures]; exact rfl)); with_reducible assumption)

theorem State.offset_ev {s0 : State} {s : State} (src : TSource) (theta : Int) (hev : Evolves s0 s) :
    Evolves s0 (State.offset s src theta) := by
  unfold State.offset
  repeat' first
    | with_reducible assumption
    | with_reducible apply State.acceptOffset_ev
    | with_reducible apply State.bigOffset_ev
    | with_reducible apply State.returningOffset_ev
    | with_reducible apply State.sourceViolation_ev
    | with_reducible apply evolves_ite
    | (with_reducible apply evolves_mk; (first | with_reducible exact rfl | (simp +zetaDelta only [TimeSt.enterLocking_history, TimeSt.enterLocking_captures]; exact rfl)); (first | with_reducible assumption | split))

end Sys2Proof.Machine
end

