-- ==== Sys2Proof/Laws/EvRadOps.lean ====
section
/-! SUPPORT. Every operation of Machine/RadOps.lean lets the state grow (Safety.lean). -/

set_option Elab.async false

namespace Sys2Proof.Machine

theorem State.modTrx_ev {s0 : State} {s : State} (t : Nat) (f : TrxSt → TrxSt) (hev : Evolves s0 s) :
    Evolves s0 (State.modTrx s t f) := by
  unfold State.modTrx
  repeat' first | (with_reducible apply evolves_mk; with_reducible exact rfl; with_reducible assumption)

theorem State.trxChanged_ev {s0 : State} {s : State} (t old : Nat) (hev : Evolves s0 s) :
    Evolves s0 (State.trxChanged s t old) := by
  unfold State.trxChanged
  repeat' first | with_reducible assumption | with_reducible apply State.post_ev | with_reducible apply evolves_ite

theorem State.addDuty_ev {s0 : State} {s : State} (t band n : Nat) (hev : Evolves s0 s) :
    Evolves s0 (State.addDuty s t band n) := by
  unfold State.addDuty
  repeat' first | (with_reducible apply evolves_mk; with_reducible exact rfl; with_reducible assumption)

theorem State.markAll_ev {s0 : State} {s : State} (hev : Evolves s0 s) :
    Evolves s0 (State.markAll s) := by
  unfold State.markAll
  repeat' first | (with_reducible apply evolves_mk; with_reducible exact rfl; with_reducible assumption)

theorem State.modEntry_ev {s0 : State} {s : State} (short : Nat) (f : Entry → Entry) (hev : Evolves s0 s) :
    Evolves s0 (State.modEntry s short f) := by
  unfold State.modEntry
  repeat' first | (with_reducible apply evolves_mk; with_reducible exact rfl; with_reducible assumption)

theorem State.putEntry_ev {s0 : State} {s : State} (short : Nat) (e : Entry) (hev : Evolves s0 s) :
    Evolves s0 (State.putEntry s short e) := by
  unfold State.putEntry
  repeat' first | (with_reducible apply evolves_mk; with_reducible exact rfl; with_reducible assumption)

theorem State.hold_ev {s0 : State} {s : State} (h : Held) (hev : Evolves s0 s) :
    Evolves s0 (State.hold s h) := by
  unfold State.hold
  repeat' first | (with_reducible apply evolves_mk; with_reducible exact rfl; with_reducible assumption)

theorem State.takeSeq_ev {s0 : State} {s : State} (hev : Evolves s0 s) :
    Evolves s0 (State.takeSeq s).2 := by
  unfold State.takeSeq
  repeat' first | (with_reducible apply evolves_mk; with_reducible exact rfl; with_reducible assumption)

theorem State.takeSeq_eq {s0 sx : State} {s : State} {qx : Nat} (e : (State.takeSeq s) = (qx, sx))
    (hev : Evolves s0 s) : Evolves s0 sx := by
  have g := State.takeSeq_ev  hev
  rw [e] at g
  exact g

theorem State.modNode_ev {s0 : State} {s : State} (eui : Nat) (f : NodeRec → NodeRec) (hev : Evolves s0 s) :
    Evolves s0 (State.modNode s eui f) := by
  unfold State.modNode
  repeat' first | (with_reducible apply evolves_mk; with_reducible exact rfl; with_reducible assumption)

theorem State.recordNode_ev {s0 : State} {s : State} (g short state detail argument : Nat) (reason : Reason) (hev : Evolves s0 s) :
    Evolves s0 (State.recordNode s g short state detail argument reason) := by
  unfold State.recordNode
  repeat' first | with_reducible assumption | with_reducible apply State.record_ev

theorem State.setLink_ev {s0 : State} {s : State} (n : NodeRec) (st : LinkState) (hev : Evolves s0 s) :
    Evolves s0 (State.setLink s n st) := by
  unfold State.setLink
  repeat' first
    | with_reducible assumption
    | with_reducible apply State.modNode_ev
    | with_reducible apply State.recordNode_ev
    | with_reducible apply evolves_ite
    | (with_reducible apply evolves_mk; with_reducible exact rfl; with_reducible apply State.recordNode_ev)

theorem State.nodeHeard_ev {s0 : State} {s : State} (short : Nat) (hev : Evolves s0 s) :
    Evolves s0 (State.nodeHeard s short) := by
  unfold State.nodeHeard
  repeat' first
    | with_reducible assumption
    | with_reducible apply State.modNode_ev
    | with_reducible apply State.setLink_ev
    | with_reducible apply evolves_ite
    | (with_reducible apply evolves_mk; with_reducible exact rfl; split)

theorem State.sendNode_ev {s0 : State} {s : State} (n : NodeRec) (cell : Cell) (type : Nat) (body : List Byte) (load : Load) (notBefore : Nat) (hev : Evolves s0 s) :
    Evolves s0 (State.sendNode s n cell type body load notBefore) := by
  unfold State.sendNode
  repeat' first
    | with_reducible assumption
    | with_reducible apply State.hold_ev
    | with_reducible apply State.takeSeq_ev

theorem State.flood_ev {s0 : State} {s : State} (g : Nat) (cell : Cell) (type : Nat) (body : List Byte) (load : Load) (notBefore : Nat) (hev : Evolves s0 s) :
    Evolves s0 (State.flood s g cell type body load notBefore) := by
  unfold State.flood
  repeat' first
    | with_reducible assumption
    | with_reducible apply State.hold_ev
    | with_reducible apply State.takeSeq_ev

theorem State.radViolation_ev {s0 : State} {s : State} (g short type : Nat) (reason : Reason) (hev : Evolves s0 s) :
    Evolves s0 (State.radViolation s g short type reason) := by
  unfold State.radViolation
  repeat' first
    | with_reducible assumption
    | with_reducible apply State.modTrx_ev
    | with_reducible apply State.postTile_ev
    | with_reducible apply State.putEntry_ev
    | with_reducible apply State.record_ev
    | with_reducible apply State.recordNode_ev
    | with_reducible apply evolves_ite
    | (with_reducible apply evolves_mk; with_reducible exact rfl; split)

end Sys2Proof.Machine
end

