-- ==== Sys2Proof/Laws/EvCopOps.lean ====
section
/-! SUPPORT. Every operation of Machine/CopOps.lean lets the state grow (Safety.lean). -/

set_option Elab.async false

namespace Sys2Proof.Machine

theorem State.putUnit_ev {s0 : State} {s : State} (u : UnitSt) (hev : Evolves s0 s) :
    Evolves s0 (State.putUnit s u) := by
  unfold State.putUnit
  repeat' first | (with_reducible apply evolves_mk; with_reducible exact rfl; with_reducible assumption)

theorem State.modUnit_ev {s0 : State} {s : State} (id : UnitId) (f : UnitSt → UnitSt) (hev : Evolves s0 s) :
    Evolves s0 (State.modUnit s id f) := by
  unfold State.modUnit
  repeat' first | with_reducible assumption | with_reducible apply State.putUnit_ev

theorem State.pickOne_ev {s0 : State} {s : State} (l : List Nat) (hev : Evolves s0 s) :
    Evolves s0 (State.pickOne s l).2 := by
  unfold State.pickOne
  repeat' first | with_reducible assumption | with_reducible apply State.drawNat_ev

theorem State.pickOne_eq {s0 sx : State} {s : State} {l : List Nat} {qx : Nat} (e : (State.pickOne s l) = (qx, sx))
    (hev : Evolves s0 s) : Evolves s0 sx := by
  have g := State.pickOne_ev l hev
  rw [e] at g
  exact g

theorem State.fell_ev {s0 : State} {s : State} (id : UnitId) (hev : Evolves s0 s) :
    Evolves s0 (State.fell s id) := by
  unfold State.fell
  repeat' first
    | with_reducible assumption
    | with_reducible apply State.raiseThin_ev
    | with_reducible apply evolves_ite
    | (with_reducible apply evolves_mk; with_reducible exact rfl; with_reducible apply State.modUnit_ev)

theorem State.recordSlice_ev {s0 : State} {s : State} (source id : Nat) (u : UnitId) (result : SliceResult) (hev : Evolves s0 s) :
    Evolves s0 (State.recordSlice s source id u result) := by
  unfold State.recordSlice
  repeat' first | with_reducible assumption | with_reducible apply State.record_ev

theorem State.sliceEnded_ev {s0 : State} {s : State} (u : UnitId) (result : SliceResult) (icause : Nat) (hev : Evolves s0 s) :
    Evolves s0 (State.sliceEnded s u result icause) := by
  unfold State.sliceEnded
  repeat' first
    | with_reducible apply State.post_ev
    | (with_reducible apply evolves_mk; with_reducible exact rfl; with_reducible assumption)

theorem State.returnVictim_ev {s0 : State} {s : State} (x : Slice) (suspect : Bool) (hev : Evolves s0 s) :
    Evolves s0 (State.returnVictim s x suspect) := by
  unfold State.returnVictim
  repeat' first
    | with_reducible apply State.modTrx_ev
    | with_reducible apply State.modUnit_ev
    | with_reducible apply evolves_ite
    | (with_reducible apply evolves_mk; with_reducible exact rfl; with_reducible assumption)

theorem State.cutSlice_ev {s0 : State} {s : State} (icause : Nat) (x : Slice) (hev : Evolves s0 s) :
    Evolves s0 (State.cutSlice s icause x) := by
  unfold State.cutSlice
  repeat' first
    | with_reducible assumption
    | with_reducible apply State.sliceEnded_ev
    | with_reducible apply evolves_ite
    | (with_reducible apply evolves_mk; with_reducible exact rfl; (first | with_reducible assumption | with_reducible apply State.returnVictim_ev))

theorem State.cutSlices_ev {s0 : State} {s : State} (icause : Nat) (p : Slice → Bool) (hev : Evolves s0 s) :
    Evolves s0 (State.cutSlices s icause p) := by
  unfold State.cutSlices
  repeat' first
    | with_reducible assumption
    | refine fun (_ : Evolves _ _) => ?_
    | with_reducible apply evolves_forEach
    | with_reducible apply State.cutSlice_ev
    | intro x

theorem State.handTo_ev {s0 : State} {s : State} (u : UnitId) (carrier : Nat) (hev : Evolves s0 s) :
    Evolves s0 (State.handTo s u carrier) := by
  unfold State.handTo
  repeat' first
    | with_reducible assumption
    | with_reducible apply evolves_ite
    | (with_reducible apply evolves_mk; with_reducible exact rfl; (first | with_reducible assumption | with_reducible apply State.endTest_ev | split))

end Sys2Proof.Machine
end

