-- ==== Sys2Proof/Laws/EvKeys.lean ====
section
/-! SUPPORT. Every operation of Machine/Keys.lean lets the state grow (Safety.lean). -/

set_option Elab.async false

namespace Sys2Proof.Machine

theorem State.keyResult_ev {s0 : State} {s : State} (op : KeyOp) (r : SlotRule) (hev : Evolves s0 s) :
    Evolves s0 (State.keyResult s op r).2 := by
  unfold State.keyResult
  repeat' first
    | with_reducible assumption
    | with_reducible apply State.drawRandom_ev
    | (with_reducible apply evolves_mk; with_reducible exact rfl; split)

theorem State.keyResult_eq {s0 sx : State} {s : State} {op : KeyOp} {r : SlotRule} {qx : SlotSt} (e : (State.keyResult s op r) = (qx, sx))
    (hev : Evolves s0 s) : Evolves s0 sx := by
  have g := State.keyResult_ev op r hev
  rw [e] at g
  exact g

theorem State.refuseKey_ev {s0 : State} {s : State} (w : Writer) (slot : Nat) (op : KeyOp) (reason : Reason) (hev : Evolves s0 s) :
    Evolves s0 (State.refuseKey s w slot op reason) := by
  unfold State.refuseKey
  repeat' first
    | with_reducible apply State.recordKey_ev
    | (with_reducible apply evolves_mk; with_reducible exact rfl; with_reducible assumption)

theorem State.keyCommand_ev {s0 : State} {s : State} (w : Writer) (slot : Nat) (op : KeyOp) (hev : Evolves s0 s) :
    Evolves s0 (State.keyCommand s w slot op).1 := by
  unfold State.keyCommand
  repeat' first
    | with_reducible assumption
    | with_reducible apply State.refuseKey_ev
    | with_reducible apply evolves_ite_fst
    | (with_reducible apply evolves_mk; with_reducible exact rfl; (first | with_reducible apply State.keyResult_ev | split))
    | lift_lets

theorem State.keyCommand_eq {s0 sx : State} {s : State} {w : Writer} {slot : Nat} {op : KeyOp} {qx : Reason} (e : (State.keyCommand s w slot op) = (sx, qx))
    (hev : Evolves s0 s) : Evolves s0 sx := by
  have g := State.keyCommand_ev w slot op hev
  rw [e] at g
  exact g

theorem execKeyWrite_ev {s0 s1 : State} (slot : Fin 64) (w : Writer) {s : State} (e : execKeyWrite slot w s = .next s1)
    (hev : Evolves s0 s) : Evolves s0 s1 := by
  unfold execKeyWrite at e
  refine evolves_next e ?_
  repeat' first
    | with_reducible assumption
    | refine fun (_ : Evolves _ _) => ?_
    | with_reducible apply evolves_whenLive
    | with_reducible apply State.keyCommand_ev
    | intro x

theorem execKeyDerive_ev {s0 s1 : State} (slot : Fin 64) (w : Writer) {s : State} (e : execKeyDerive slot w s = .next s1)
    (hev : Evolves s0 s) : Evolves s0 s1 := by
  unfold execKeyDerive at e
  refine evolves_next e ?_
  repeat' first
    | with_reducible assumption
    | refine fun (_ : Evolves _ _) => ?_
    | with_reducible apply evolves_whenLive
    | with_reducible apply State.keyCommand_ev
    | intro x

theorem execKeyGenerate_ev {s0 s1 : State} (slot : Fin 64) (w : Writer) {s : State} (e : execKeyGenerate slot w s = .next s1)
    (hev : Evolves s0 s) : Evolves s0 s1 := by
  unfold execKeyGenerate at e
  refine evolves_next e ?_
  repeat' first
    | with_reducible assumption
    | refine fun (_ : Evolves _ _) => ?_
    | with_reducible apply evolves_whenLive
    | with_reducible apply State.keyCommand_ev
    | intro x

theorem execKeyErase_ev {s0 s1 : State} (slot : Fin 64) (w : Writer) {s : State} (e : execKeyErase slot w s = .next s1)
    (hev : Evolves s0 s) : Evolves s0 s1 := by
  unfold execKeyErase at e
  refine evolves_next e ?_
  repeat' first
    | with_reducible assumption
    | refine fun (_ : Evolves _ _) => ?_
    | with_reducible apply evolves_whenLive
    | with_reducible apply State.keyCommand_ev
    | intro x

theorem State.deriveGroves_ev {s0 : State} {s : State} (half root generation : Nat) (hev : Evolves s0 s) :
    Evolves s0 (State.deriveGroves s half root generation) := by
  unfold State.deriveGroves
  repeat' first
    | with_reducible assumption
    | refine fun (_ : Evolves _ _) => ?_
    | with_reducible apply evolves_forEach
    | with_reducible apply State.setSlot_ev
    | intro x

theorem State.generateRoot_ev {s0 : State} {s : State} (root : Nat) (hev : Evolves s0 s) :
    Evolves s0 (State.generateRoot s root) := by
  unfold State.generateRoot
  repeat' first
    | with_reducible assumption
    | with_reducible apply State.drawRandom_ev
    | with_reducible apply State.setSlot_ev

theorem State.regrant_ev {s0 : State} {s : State} (n : NodeRec) (effective : Cn) (generation : Nat) (hev : Evolves s0 s) :
    Evolves s0 (State.regrant s n effective generation) := by
  unfold State.regrant
  repeat' first
    | with_reducible assumption
    | with_reducible apply State.modNode_ev
    | with_reducible apply State.sendNode_ev

theorem State.startRotation_ev {s0 : State} {s : State} (effective : Cn) (role : Role) (hev : Evolves s0 s) :
    Evolves s0 (State.startRotation s effective role) := by
  unfold State.startRotation
  repeat' first
    | with_reducible assumption
    | refine fun (_ : Evolves _ _) => ?_
    | with_reducible apply evolves_forEach
    | with_reducible apply State.generateRoot_ev
    | with_reducible apply State.post_ev
    | with_reducible apply State.recordKey_ev
    | with_reducible apply State.regrant_ev
    | (with_reducible apply evolves_mk; with_reducible exact rfl; with_reducible apply State.deriveGroves_ev)
    | intro x

theorem State.rotateGrove_ev {s0 s : State} (w : Writer) (hev : Evolves s0 s) : Evolves s0 (s.rotateGrove w).1 := by
  unfold State.rotateGrove
  dsimp only
  split
  · exact State.refuseKey_ev _ _ _ _ hev
  split
  · exact State.refuseKey_ev _ _ _ _ hev
  split
  · exact State.refuseKey_ev _ _ _ _ hev
  split
  · exact State.refuseKey_ev _ _ _ _ (State.setReg_ev _ _ (State.setReg_ev _ _ hev))
  · exact State.startRotation_ev _ _ hev

theorem State.rotateGrove_eq {s0 s x : State} {w : Writer} {q : Reason} (e : s.rotateGrove w = (x, q))
    (hev : Evolves s0 s) : Evolves s0 x := by
  have g := State.rotateGrove_ev w hev
  rw [e] at g
  exact g

theorem execRotateGrove_ev {s0 s1 : State} (w : Writer) {s : State} (e : execRotateGrove w s = .next s1)
    (hev : Evolves s0 s) : Evolves s0 s1 := by
  unfold execRotateGrove at e
  refine evolves_next e ?_
  repeat' first
    | with_reducible assumption
    | refine fun (_ : Evolves _ _) => ?_
    | with_reducible apply evolves_whenLive
    | with_reducible apply State.rotateGrove_ev
    | intro x

theorem State.selfRotate_ev {s0 : State} {s : State} (hev : Evolves s0 s) :
    Evolves s0 (State.selfRotate s) := by
  unfold State.selfRotate
  repeat' first
    | with_reducible assumption
    | with_reducible apply State.startRotation_ev
    | with_reducible apply evolves_ite

theorem State.noteUngranted_ev {s0 : State} {s : State} (hev : Evolves s0 s) :
    Evolves s0 (State.noteUngranted s) := by
  unfold State.noteUngranted
  repeat' first
    | with_reducible assumption
    | refine fun (_ : Evolves _ _) => ?_
    | with_reducible apply evolves_forEach
    | with_reducible apply State.recordNode_ev
    | with_reducible apply evolves_ite
    | (with_reducible apply evolves_mk; with_reducible exact rfl; split)
    | intro x

theorem State.switchGroveKeys_ev {s0 : State} {s : State} (hev : Evolves s0 s) :
    Evolves s0 (State.switchGroveKeys s) := by
  unfold State.switchGroveKeys
  repeat' first
    | with_reducible assumption
    | with_reducible apply State.witherChildren_ev
    | with_reducible apply evolves_ite
    | (with_reducible apply evolves_mk; with_reducible exact rfl; (first | with_reducible apply State.emptySlot_ev | split))

theorem State.applyKey_ev {s0 : State} {s : State} (r : KeyRun) (hev : Evolves s0 s) :
    Evolves s0 (State.applyKey s r) := by
  unfold State.applyKey
  repeat' first
    | with_reducible assumption
    | with_reducible apply State.emptySlot_ev
    | with_reducible apply State.invalidate_ev
    | with_reducible apply State.setSlot_ev
    | with_reducible apply evolves_ite
    | (with_reducible apply evolves_mk; with_reducible exact rfl; split)

theorem State.completeKey_ev {s0 : State} {s : State} (reason : Reason) (hev : Evolves s0 s) :
    Evolves s0 (State.completeKey s reason) := by
  unfold State.completeKey
  repeat' first
    | with_reducible assumption
    | with_reducible apply State.applyKey_ev
    | with_reducible apply State.post_ev
    | with_reducible apply State.recordKey_ev
    | (with_reducible apply evolves_mk; with_reducible exact rfl; (first | with_reducible assumption | with_reducible apply evolves_ite | split))

theorem execKeyCommandComplete_ev {s0 s1 : State} {s : State} (e : execKeyCommandComplete s = .next s1)
    (hev : Evolves s0 s) : Evolves s0 s1 := by
  unfold execKeyCommandComplete at e
  refine evolves_next e ?_
  repeat' first
    | with_reducible assumption
    | refine fun (_ : Evolves _ _) => ?_
    | with_reducible apply evolves_whenLive
    | with_reducible apply State.completeKey_ev
    | intro x

theorem execKeySlotExpiry_ev {s0 s1 : State} (slot : Fin 64) {s : State} (e : execKeySlotExpiry slot s = .next s1)
    (hev : Evolves s0 s) : Evolves s0 s1 := by
  unfold execKeySlotExpiry at e
  refine evolves_next e ?_
  repeat' first
    | with_reducible assumption
    | refine fun (_ : Evolves _ _) => ?_
    | with_reducible apply evolves_iff
    | with_reducible apply evolves_whenLive
    | with_reducible apply State.emptySlot_ev
    | intro x

theorem State.attest_ev {s0 : State} {s : State} (chal : List Byte) (hev : Evolves s0 s) :
    Evolves s0 (State.attest s chal) := by
  unfold State.attest
  repeat' first | (with_reducible apply evolves_mk; with_reducible exact rfl; with_reducible assumption)

theorem execAttest_ev {s0 s1 : State} (w : Writer) {s : State} (e : execAttest w s = .next s1)
    (hev : Evolves s0 s) : Evolves s0 s1 := by
  unfold execAttest at e
  refine evolves_next e ?_
  repeat' first
    | with_reducible assumption
    | refine fun (_ : Evolves _ _) => ?_
    | with_reducible apply evolves_iff
    | with_reducible apply evolves_whenLive
    | with_reducible apply State.attest_ev
    | intro x

theorem State.armTamper_ev {s0 : State} {s : State} (n : Nat) (hev : Evolves s0 s) :
    Evolves s0 (State.armTamper s n) := by
  unfold State.armTamper
  repeat' first | (with_reducible apply evolves_mk; with_reducible exact rfl; with_reducible assumption)

end Sys2Proof.Machine
end

