-- ==== Sys2Proof/Laws/EvUpdOps.lean ====
section
/-! SUPPORT. Every operation of Machine/UpdOps.lean lets the state grow (Safety.lean). -/

set_option Elab.async false

namespace Sys2Proof.Machine

theorem State.modPromise_ev {s0 : State} {s : State} (id : Nat) (f : Promise → Promise) (hev : Evolves s0 s) :
    Evolves s0 (State.modPromise s id f) := by
  unfold State.modPromise
  repeat' first | (with_reducible apply evolves_mk; with_reducible exact rfl; with_reducible assumption)

theorem State.journalEntry_ev {s0 : State} {s : State} (op phase stand flagBits mseq data0 data1 : Nat) (digest : BitVec 256) (hev : Evolves s0 s) :
    Evolves s0 (State.journalEntry s op phase stand flagBits mseq data0 data1 digest) := by
  unfold State.journalEntry
  repeat' first | (with_reducible apply evolves_mk; with_reducible exact rfl; with_reducible assumption)

theorem State.journal_ev {s0 : State} {s : State} (op phase stand flagBits mseq data0 data1 : Nat) (digest : BitVec 256) (hev : Evolves s0 s) :
    Evolves s0 (State.journal s op phase stand flagBits mseq data0 data1 digest) := by
  unfold State.journal
  repeat' first
    | with_reducible assumption
    | with_reducible apply State.journalEntry_ev
    | with_reducible apply State.postRecord_ev

theorem State.modCaravan_ev {s0 : State} {s : State} (id : Nat) (f : Caravan → Caravan) (hev : Evolves s0 s) :
    Evolves s0 (State.modCaravan s id f) := by
  unfold State.modCaravan
  repeat' first | (with_reducible apply evolves_mk; with_reducible exact rfl; with_reducible assumption)

theorem State.caravanPhase_ev {s0 : State} {s : State} (id phase : Nat) (hev : Evolves s0 s) :
    Evolves s0 (State.caravanPhase s id phase) := by
  unfold State.caravanPhase
  repeat' first
    | with_reducible assumption
    | with_reducible apply State.journal_ev
    | (with_reducible apply evolves_mk; with_reducible exact rfl; split)

theorem State.caravanSent_ev {s0 : State} {s : State} (promise : Nat) (hev : Evolves s0 s) :
    Evolves s0 (State.caravanSent s promise) := by
  unfold State.caravanSent
  repeat' first
    | with_reducible assumption
    | with_reducible apply State.caravanPhase_ev
    | with_reducible apply State.modCaravan_ev
    | with_reducible apply evolves_ite
    | (with_reducible apply evolves_mk; with_reducible exact rfl; split)

theorem State.sessionPhase_ev {s0 : State} {s : State} (phase : Nat) (hev : Evolves s0 s) :
    Evolves s0 (State.sessionPhase s phase) := by
  unfold State.sessionPhase
  repeat' first
    | with_reducible apply State.journal_ev
    | (with_reducible apply evolves_mk; with_reducible exact rfl; (first | with_reducible assumption | split))

theorem State.stepPhase_ev {s0 : State} {s : State} (phase : Nat) (hev : Evolves s0 s) :
    Evolves s0 (State.stepPhase s phase) := by
  unfold State.stepPhase
  repeat' first
    | with_reducible assumption
    | with_reducible apply State.journal_ev
    | with_reducible apply State.sessionPhase_ev
    | (with_reducible apply evolves_mk; with_reducible exact rfl; (first | with_reducible assumption | split))

theorem State.modActivation_ev {s0 : State} {s : State} (f : Activation → Activation) (hev : Evolves s0 s) :
    Evolves s0 (State.modActivation s f) := by
  unfold State.modActivation
  repeat' first | (with_reducible apply evolves_mk; with_reducible exact rfl; with_reducible assumption)

theorem State.openReason_ev {s0 : State} {s : State} (hev : Evolves s0 s) :
    Evolves s0 (State.openReason s).2 := by
  unfold State.openReason
  repeat' first | with_reducible assumption | with_reducible apply State.drawNat_ev

theorem State.openReason_eq {s0 sx : State} {s : State} {qx : Reason} (e : (State.openReason s) = (qx, sx))
    (hev : Evolves s0 s) : Evolves s0 sx := by
  have g := State.openReason_ev  hev
  rw [e] at g
  exact g

end Sys2Proof.Machine
end

