-- ==== Sys2Proof/Laws/EvAirOps.lean ====
section
/-! SUPPORT. Every operation of Machine/AirOps.lean lets the state grow (Safety.lean). -/

set_option Elab.async false

namespace Sys2Proof.Machine

@[simp] theorem TimeSt.beaconed_history (t : TimeSt) : (t.beaconed).history = t.history := by
  unfold TimeSt.beaconed
  repeat' split
  all_goals rfl

@[simp] theorem TimeSt.beaconed_captures (t : TimeSt) : (t.beaconed).captures = t.captures := by
  unfold TimeSt.beaconed
  repeat' split
  all_goals rfl

theorem State.markRadioLoss_ev {s0 : State} {s : State} (g : Nat) (hev : Evolves s0 s) :
    Evolves s0 (State.markRadioLoss s g) := by
  unfold State.markRadioLoss
  repeat' first | (with_reducible apply evolves_mk; with_reducible exact rfl; with_reducible assumption)

theorem State.markSilent_ev {s0 : State} {s : State} (id short : Nat) (hev : Evolves s0 s) :
    Evolves s0 (State.markSilent s id short) := by
  unfold State.markSilent
  repeat' first
    | with_reducible apply State.modPromise_ev
    | (with_reducible apply evolves_mk; with_reducible exact rfl; with_reducible assumption)

theorem State.takeCounter_ev {s0 : State} {s : State} (g : Nat) (hev : Evolves s0 s) :
    Evolves s0 (State.takeCounter s g).2 := by
  unfold State.takeCounter
  repeat' first | (with_reducible apply evolves_mk; with_reducible exact rfl; with_reducible assumption)

theorem State.takeCounter_eq {s0 sx : State} {s : State} {g : Nat} {qx : Nat} (e : (State.takeCounter s g) = (qx, sx))
    (hev : Evolves s0 s) : Evolves s0 sx := by
  have g := State.takeCounter_ev g hev
  rw [e] at g
  exact g

theorem State.sendBeacon_ev {s0 : State} {s : State} (t asn : Nat) (busy : List Nat) (hev : Evolves s0 s) :
    Evolves s0 (State.sendBeacon s t asn busy) := by
  unfold State.sendBeacon
  repeat' first
    | with_reducible assumption
    | with_reducible apply State.addDuty_ev
    | with_reducible apply State.emit_ev
    | with_reducible apply State.modTrx_ev
    | with_reducible apply State.postTile_ev
    | with_reducible apply evolves_ite
    | (with_reducible apply evolves_mk; (first | with_reducible exact rfl | (simp +zetaDelta only [TimeSt.beaconed_history, TimeSt.beaconed_captures]; exact rfl)); (first | with_reducible apply State.modTrx_ev | with_reducible apply State.takeCounter_ev))

theorem State.floodedItem_ev {s0 : State} {s : State} (g id : Nat) (hev : Evolves s0 s) :
    Evolves s0 (State.floodedItem s g id) := by
  unfold State.floodedItem
  repeat' first | (with_reducible apply evolves_mk; with_reducible exact rfl; with_reducible assumption)

theorem State.serveGrove_ev {s0 : State} {s : State} (id g : Nat) (hev : Evolves s0 s) :
    Evolves s0 (State.serveGrove s id g) := by
  unfold State.serveGrove
  repeat' first | with_reducible assumption | with_reducible apply State.modPromise_ev

theorem State.sentBooked_ev {s0 : State} {s : State} (h : Held) (hev : Evolves s0 s) :
    Evolves s0 (State.sentBooked s h) := by
  unfold State.sentBooked
  repeat' first
    | with_reducible assumption
    | with_reducible apply State.caravanSent_ev
    | with_reducible apply evolves_ite
    | (with_reducible apply evolves_mk; with_reducible exact rfl; (first | with_reducible assumption | split))

theorem State.afterSend_ev {s0 : State} {s : State} (i : Nat) (h : Held) (hev : Evolves s0 s) :
    Evolves s0 (State.afterSend s i h) := by
  unfold State.afterSend
  repeat' first
    | with_reducible apply State.floodedItem_ev
    | with_reducible apply State.serveGrove_ev
    | with_reducible apply evolves_ite
    | (with_reducible apply evolves_mk; with_reducible exact rfl; (first | with_reducible assumption | split))

theorem State.takesCell_ev {s0 : State} {s : State} (g asn : Nat) (h : Held) (hev : Evolves s0 s) :
    Evolves s0 (State.takesCell s g asn h) := by
  unfold State.takesCell
  repeat' first
    | with_reducible assumption
    | with_reducible apply State.modPromise_ev
    | with_reducible apply evolves_ite
    | (with_reducible apply evolves_mk; with_reducible exact rfl; split)

theorem State.transmit_ev {s0 : State} {s : State} (t asn i : Nat) (h : Held) (busy : List Nat) (hev : Evolves s0 s) :
    Evolves s0 (State.transmit s t asn i h busy) := by
  unfold State.transmit
  repeat' first
    | with_reducible assumption
    | with_reducible apply State.addDuty_ev
    | with_reducible apply State.afterSend_ev
    | with_reducible apply State.emit_ev
    | with_reducible apply State.modTrx_ev
    | with_reducible apply State.postTile_ev
    | with_reducible apply State.sentBooked_ev
    | with_reducible apply State.takeCounter_ev
    | with_reducible apply State.takesCell_ev
    | with_reducible apply evolves_ite
    | (with_reducible apply evolves_mk; with_reducible exact rfl; (first | with_reducible apply State.modTrx_ev | with_reducible apply evolves_ite | split))

theorem State.runTrx_ev {s0 : State} {s : State} (asn : Nat) (busy plan : List Nat) (t : Nat) (hev : Evolves s0 s) :
    Evolves s0 (State.runTrx s asn busy plan t) := by
  unfold State.runTrx
  repeat' first
    | with_reducible assumption
    | with_reducible apply State.modTrx_ev
    | with_reducible apply State.sendBeacon_ev
    | with_reducible apply State.transmit_ev
    | with_reducible apply evolves_ite
    | (with_reducible apply evolves_mk; with_reducible exact rfl; split)

theorem State.unacked_ev {s0 : State} {s : State} (h : Held) (hev : Evolves s0 s) :
    Evolves s0 (State.unacked s h) := by
  unfold State.unacked
  repeat' first
    | with_reducible assumption
    | with_reducible apply State.markSilent_ev
    | with_reducible apply State.modTrx_ev
    | with_reducible apply State.postTile_ev
    | (with_reducible apply evolves_mk; with_reducible exact rfl; split)

theorem State.expireAcks_ev {s0 : State} {s : State} (hev : Evolves s0 s) :
    Evolves s0 (State.expireAcks s) := by
  unfold State.expireAcks
  repeat' first
    | with_reducible assumption
    | refine fun (_ : Evolves _ _) => ?_
    | with_reducible apply evolves_forEach
    | with_reducible apply State.unacked_ev
    | (with_reducible apply evolves_mk; with_reducible exact rfl; with_reducible assumption)
    | intro x

theorem State.dropPasses_ev {s0 : State} {s : State} (asn : Nat) (hev : Evolves s0 s) :
    Evolves s0 (State.dropPasses s asn) := by
  unfold State.dropPasses
  repeat' first | (with_reducible apply evolves_mk; with_reducible exact rfl; with_reducible assumption)

theorem State.takeOver_ev {s0 : State} {s : State} (hev : Evolves s0 s) :
    Evolves s0 (State.takeOver s) := by
  unfold State.takeOver
  repeat' first
    | with_reducible assumption
    | with_reducible apply State.trxChanged_ev
    | (with_reducible apply evolves_mk; with_reducible exact rfl; (first | with_reducible assumption | split))

theorem State.checkCounters_ev {s0 : State} {s : State} (hev : Evolves s0 s) :
    Evolves s0 (State.checkCounters s) := by
  unfold State.checkCounters
  repeat' first
    | with_reducible assumption
    | with_reducible apply State.selfRotate_ev
    | with_reducible apply evolves_ite

theorem State.slotStart_ev {s0 : State} {s : State} (busy : List Nat) (hev : Evolves s0 s) :
    Evolves s0 (State.slotStart s busy) := by
  unfold State.slotStart
  repeat' first
    | with_reducible assumption
    | refine fun (_ : Evolves _ _) => ?_
    | with_reducible apply evolves_forEach
    | with_reducible apply State.checkCounters_ev
    | with_reducible apply State.dropPasses_ev
    | with_reducible apply State.expireAcks_ev
    | with_reducible apply State.runTrx_ev
    | with_reducible apply State.takeOver_ev
    | intro x

end Sys2Proof.Machine
end

