-- ==== Sys2Proof/Laws/EvNodeOps.lean ====
section
/-! SUPPORT. Every operation of Machine/NodeOps.lean lets the state grow (Safety.lean). -/

set_option Elab.async false

namespace Sys2Proof.Machine

theorem State.sendItem_ev {s0 : State} {s : State} (eui id : Nat) (content : List Byte) (effective : Cn) (hev : Evolves s0 s) :
    Evolves s0 (State.sendItem s eui id content effective) := by
  unfold State.sendItem
  repeat' first
    | with_reducible assumption
    | refine fun (_ : Evolves _ _) => ?_
    | with_reducible apply evolves_forEach
    | with_reducible apply State.modNode_ev
    | with_reducible apply State.sendNode_ev
    | (with_reducible apply evolves_mk; with_reducible exact rfl; split)
    | intro x

theorem State.bringItem_ev {s0 : State} {s : State} (eui id : Nat) (content : Option (List Byte)) (effective : Cn) (hev : Evolves s0 s) :
    Evolves s0 (State.bringItem s eui id content effective) := by
  unfold State.bringItem
  repeat' first
    | with_reducible assumption
    | with_reducible apply State.sendItem_ev
    | with_reducible apply evolves_ite
    | (with_reducible apply evolves_mk; with_reducible exact rfl; split)

theorem State.floodItem_ev {s0 : State} {s : State} (g id : Nat) (content : List Byte) (effective : Cn) (hev : Evolves s0 s) :
    Evolves s0 (State.floodItem s g id content effective) := by
  unfold State.floodItem
  repeat' first
    | with_reducible assumption
    | refine fun (_ : Evolves _ _) => ?_
    | with_reducible apply evolves_forEach
    | with_reducible apply State.flood_ev
    | intro x

theorem State.configureNode_ev {s0 : State} {s : State} (eui : Nat) (effective : Cn) (hev : Evolves s0 s) :
    Evolves s0 (State.configureNode s eui effective) := by
  unfold State.configureNode
  repeat' first
    | with_reducible assumption
    | refine fun (_ : Evolves _ _) => ?_
    | with_reducible apply evolves_forEach
    | with_reducible apply State.bringItem_ev
    | intro x

theorem State.sendSchedule_ev {s0 : State} {s : State} (eui : Nat) (hev : Evolves s0 s) :
    Evolves s0 (State.sendSchedule s eui) := by
  unfold State.sendSchedule
  repeat' first
    | with_reducible assumption
    | with_reducible apply State.drawNat_ev
    | with_reducible apply State.modNode_ev
    | with_reducible apply State.sendNode_ev
    | (with_reducible apply evolves_mk; with_reducible exact rfl; split)

theorem State.nak_ev {s0 : State} {s : State} (short type seq : Nat) (reason : Reason) (detail : Nat) (hev : Evolves s0 s) :
    Evolves s0 (State.nak s short type seq reason detail) := by
  unfold State.nak
  repeat' first
    | with_reducible assumption
    | with_reducible apply State.sendNode_ev
    | (with_reducible apply evolves_mk; with_reducible exact rfl; split)

theorem State.badBody_ev {s0 : State} {s : State} (type : Nat) (m : LinkMsg) (tooLong : Bool) (hev : Evolves s0 s) :
    Evolves s0 (State.badBody s type m tooLong) := by
  unfold State.badBody
  repeat' first
    | with_reducible assumption
    | with_reducible apply State.nak_ev
    | with_reducible apply State.radViolation_ev
    | with_reducible apply evolves_ite

theorem State.linkMsg_ev {s0 : State} {s : State} (type most : Nat) (m : LinkMsg) (formed : List Byte → Bool) (serve : NodeRec → State → State) (h_serve : ∀ a0 x, Evolves s0 x → Evolves s0 (serve a0 x)) (hev : Evolves s0 s) :
    Evolves s0 (State.linkMsg s type most m formed serve) := by
  unfold State.linkMsg
  repeat' first
    | with_reducible assumption
    | with_reducible apply State.badBody_ev
    | with_reducible apply State.nodeHeard_ev
    | apply h_serve
    | with_reducible apply evolves_ite
    | (with_reducible apply evolves_mk; with_reducible exact rfl; split)

end Sys2Proof.Machine
end

