-- ==== Sys2Proof/Laws/EvDimOps.lean ====
section
/-! SUPPORT. Every operation of Machine/DimOps.lean lets the state grow (Safety.lean). -/

set_option Elab.async false

namespace Sys2Proof.Machine

theorem State.modKc_ev {s0 : State} {s : State} (k : Nat) (f : KcSt → KcSt) (hev : Evolves s0 s) :
    Evolves s0 (State.modKc s k f) := by
  unfold State.modKc
  repeat' first | (with_reducible apply evolves_mk; with_reducible exact rfl; with_reducible assumption)

theorem State.recordKc_ev {s0 : State} {s : State} (k : Nat) (transient : Bool) (hev : Evolves s0 s) :
    Evolves s0 (State.recordKc s k transient) := by
  unfold State.recordKc
  repeat' first | with_reducible assumption | with_reducible apply State.record_ev

theorem State.fixChange_ev {s0 : State} {s : State} (k : Nat) (cn : Cn) (close : Bool) (hev : Evolves s0 s) :
    Evolves s0 (State.fixChange s k cn close) := by
  unfold State.fixChange
  repeat' first | with_reducible assumption | with_reducible apply State.modKc_ev

theorem State.fixPlans_ev {s0 : State} {s : State} (hev : Evolves s0 s) :
    Evolves s0 (State.fixPlans s) := by
  unfold State.fixPlans
  repeat' first
    | with_reducible assumption
    | refine fun (_ : Evolves _ _) => ?_
    | with_reducible apply evolves_forEach
    | with_reducible apply State.fixChange_ev
    | with_reducible apply evolves_ite
    | (refine Prod.forall.2 ?_; dsimp only)
    | intro x

theorem State.kcSettle_ev {s0 : State} {s : State} (k : Nat) (closed transient : Bool) (hev : Evolves s0 s) :
    Evolves s0 (State.kcSettle s k closed transient) := by
  unfold State.kcSettle
  repeat' first
    | with_reducible assumption
    | with_reducible apply State.modKc_ev
    | with_reducible apply State.recordKc_ev
    | with_reducible apply evolves_ite

theorem State.kcFeedback_ev {s0 : State} {s : State} (k : Nat) (hev : Evolves s0 s) :
    Evolves s0 (State.kcFeedback s k) := by
  unfold State.kcFeedback
  repeat' first
    | with_reducible assumption
    | with_reducible apply State.kcSettle_ev
    | with_reducible apply evolves_ite
    | (with_reducible apply evolves_mk; with_reducible exact rfl; split)

theorem State.kcPlanned_ev {s0 : State} {s : State} (k : Nat) (close : Bool) (hev : Evolves s0 s) :
    Evolves s0 (State.kcPlanned s k close) := by
  unfold State.kcPlanned
  repeat' first
    | with_reducible assumption
    | refine fun (_ : Evolves _ _) => ?_
    | with_reducible apply evolves_iff
    | with_reducible apply evolves_whenLive
    | with_reducible apply evolves_forEach
    | with_reducible apply State.kcFeedback_ev
    | with_reducible apply State.modKc_ev
    | with_reducible apply evolves_ite
    | (with_reducible apply evolves_mk; (first | with_reducible exact rfl | (dsimp only; exact rfl)); (first | with_reducible assumption | with_reducible apply evolves_iff | with_reducible apply evolves_whenLive | with_reducible apply evolves_forEach | with_reducible apply State.kcFeedback_ev | with_reducible apply State.modKc_ev | with_reducible apply evolves_ite | split))
    | (intro x; refine evolves_cut (s0 := s0) (x := x) ?_ ?_; rotate_left; clear_value x; intro hx; rotate_left; subst x)
    | intro x
    | split
    | lift_lets
    | dsimp only

theorem State.superseded_ev {s0 : State} {s : State} (output : Nat) (cn : Cn) (hev : Evolves s0 s) :
    Evolves s0 (State.superseded s output cn) := by
  unfold State.superseded
  repeat' first | with_reducible assumption | with_reducible apply State.record_ev

theorem State.kcDue_ev {s0 : State} {s : State} (hev : Evolves s0 s) :
    Evolves s0 (State.kcDue s) := by
  unfold State.kcDue
  repeat' first
    | with_reducible assumption
    | refine fun (_ : Evolves _ _) => ?_
    | with_reducible apply evolves_forEach
    | with_reducible apply State.kcPlanned_ev
    | with_reducible apply State.modKc_ev
    | with_reducible apply State.superseded_ev
    | with_reducible apply evolves_ite
    | (with_reducible apply evolves_mk; with_reducible exact rfl; split)
    | (refine Prod.forall.2 ?_; dsimp only)
    | intro x

theorem State.kcSafeOne_ev {s0 : State} {s : State} (k : Nat) (hev : Evolves s0 s) :
    Evolves s0 (State.kcSafeOne s k) := by
  unfold State.kcSafeOne
  repeat' first
    | with_reducible assumption
    | refine fun (_ : Evolves _ _) => ?_
    | with_reducible apply evolves_iff
    | with_reducible apply evolves_whenLive
    | with_reducible apply evolves_forEach
    | with_reducible apply State.kcPlanned_ev
    | with_reducible apply State.modKc_ev
    | with_reducible apply evolves_ite
    | (with_reducible apply evolves_mk; (first | with_reducible exact rfl | (dsimp only; exact rfl)); (first | with_reducible assumption | with_reducible apply evolves_iff | with_reducible apply evolves_whenLive | with_reducible apply evolves_forEach | with_reducible apply State.kcPlanned_ev | with_reducible apply State.modKc_ev | with_reducible apply evolves_ite | split))
    | (intro x; refine evolves_cut (s0 := s0) (x := x) ?_ ?_; rotate_left; clear_value x; intro hx; rotate_left; subst x)
    | intro x
    | split
    | lift_lets
    | dsimp only

theorem State.kcReturn_ev {s0 : State} {s : State} (k : Nat) (hev : Evolves s0 s) :
    Evolves s0 (State.kcReturn s k) := by
  unfold State.kcReturn
  repeat' first
    | with_reducible assumption
    | refine fun (_ : Evolves _ _) => ?_
    | with_reducible apply evolves_iff
    | with_reducible apply evolves_whenLive
    | with_reducible apply evolves_forEach
    | with_reducible apply State.fixChange_ev
    | with_reducible apply State.kcPlanned_ev
    | with_reducible apply State.modKc_ev
    | with_reducible apply evolves_ite
    | (with_reducible apply evolves_mk; (first | with_reducible exact rfl | (dsimp only; exact rfl)); (first | with_reducible assumption | with_reducible apply evolves_iff | with_reducible apply evolves_whenLive | with_reducible apply evolves_forEach | with_reducible apply State.fixChange_ev | with_reducible apply State.kcPlanned_ev | with_reducible apply State.modKc_ev | with_reducible apply evolves_ite | split))
    | (intro x; refine evolves_cut (s0 := s0) (x := x) ?_ ?_; rotate_left; clear_value x; intro hx; rotate_left; subst x)
    | (refine Prod.forall.2 ?_; dsimp only)
    | intro x
    | split
    | lift_lets
    | dsimp only

theorem State.kcSafe_ev {s0 : State} {s : State} (hev : Evolves s0 s) :
    Evolves s0 (State.kcSafe s) := by
  unfold State.kcSafe
  repeat' first
    | with_reducible assumption
    | refine fun (_ : Evolves _ _) => ?_
    | with_reducible apply evolves_iff
    | with_reducible apply evolves_whenLive
    | with_reducible apply evolves_forEach
    | with_reducible apply State.kcReturn_ev
    | with_reducible apply State.kcSafeOne_ev
    | with_reducible apply evolves_ite
    | (with_reducible apply evolves_mk; (first | with_reducible exact rfl | (dsimp only; exact rfl)); (first | with_reducible assumption | with_reducible apply evolves_iff | with_reducible apply evolves_whenLive | with_reducible apply evolves_forEach | with_reducible apply State.kcReturn_ev | with_reducible apply State.kcSafeOne_ev | with_reducible apply evolves_ite | split))
    | (intro x; refine evolves_cut (s0 := s0) (x := x) ?_ ?_; rotate_left; clear_value x; intro hx; rotate_left; subst x)
    | intro x
    | split
    | lift_lets
    | dsimp only

theorem State.kcCompare_ev {s0 : State} {s : State} (k : Nat) (hev : Evolves s0 s) :
    Evolves s0 (State.kcCompare s k) := by
  unfold State.kcCompare
  repeat' first
    | with_reducible assumption
    | with_reducible apply State.modKc_ev
    | with_reducible apply State.postTile_ev
    | with_reducible apply State.recordKc_ev
    | with_reducible apply evolves_ite

theorem State.putRoute_ev {s0 : State} {s : State} (r : RouteSt) (hev : Evolves s0 s) :
    Evolves s0 (State.putRoute s r) := by
  unfold State.putRoute
  repeat' first | (with_reducible apply evolves_mk; with_reducible exact rfl; with_reducible assumption)

theorem State.loadList_ev {s0 : State} {s : State} (e : List Byte) (t : Tuning) (eui place : Nat) (effective : Cn) (hev : Evolves s0 s) :
    Evolves s0 (State.loadList s e t eui place effective) := by
  unfold State.loadList
  repeat' first
    | with_reducible assumption
    | with_reducible apply State.modNode_ev
    | with_reducible apply State.sendNode_ev
    | with_reducible apply evolves_ite
    | (with_reducible apply evolves_mk; with_reducible exact rfl; split)

theorem State.loadRoute_ev {s0 : State} {s : State} (e : List Byte) (t : Tuning) (effective : Cn) (hev : Evolves s0 s) :
    Evolves s0 (State.loadRoute s e t effective) := by
  unfold State.loadRoute
  repeat' first
    | with_reducible assumption
    | refine fun (_ : Evolves _ _) => ?_
    | with_reducible apply evolves_forEach
    | with_reducible apply State.loadList_ev
    | with_reducible apply State.putRoute_ev
    | with_reducible apply evolves_ite
    | intro x

theorem State.reloadRoutes_ev {s0 : State} {s : State} (hev : Evolves s0 s) :
    Evolves s0 (State.reloadRoutes s) := by
  unfold State.reloadRoutes
  repeat' first
    | with_reducible assumption
    | refine fun (_ : Evolves _ _) => ?_
    | with_reducible apply evolves_forEach
    | with_reducible apply State.loadRoute_ev
    | with_reducible apply State.putRoute_ev
    | with_reducible apply evolves_ite
    | (with_reducible apply evolves_mk; with_reducible exact rfl; with_reducible assumption)
    | intro x

theorem State.recordRoute_ev {s0 : State} {s : State} (id position what : Nat) (hev : Evolves s0 s) :
    Evolves s0 (State.recordRoute s id position what) := by
  unfold State.recordRoute
  repeat' first | with_reducible assumption | with_reducible apply State.record_ev

theorem State.judgeGaps_ev {s0 : State} {s : State} (eui : Nat) (hev : Evolves s0 s) :
    Evolves s0 (State.judgeGaps s eui) := by
  unfold State.judgeGaps
  repeat' first
    | with_reducible assumption
    | refine fun (_ : Evolves _ _) => ?_
    | with_reducible apply evolves_forEach
    | with_reducible apply State.putRoute_ev
    | with_reducible apply State.recordRoute_ev
    | with_reducible apply evolves_ite
    | intro x

end Sys2Proof.Machine
end

