-- ==== Sys2Proof/Laws/EvDrvOps.lean ====
section
/-! SUPPORT. Every operation of Machine/DrvOps.lean lets the state grow (Safety.lean). -/

set_option Elab.async false

namespace Sys2Proof.Machine

theorem State.modCh_ev {s0 : State} {s : State} (c : Nat) (f : ChSt → ChSt) (hev : Evolves s0 s) :
    Evolves s0 (State.modCh s c f) := by
  unfold State.modCh
  repeat' first | (with_reducible apply evolves_mk; with_reducible exact rfl; with_reducible assumption)

theorem State.modLum_ev {s0 : State} {s : State} (l : Nat) (f : LumSt → LumSt) (hev : Evolves s0 s) :
    Evolves s0 (State.modLum s l f) := by
  unfold State.modLum
  repeat' first | (with_reducible apply evolves_mk; with_reducible exact rfl; with_reducible assumption)

theorem State.modPe_ev {s0 : State} {s : State} (p : Nat) (f : PeSt → PeSt) (hev : Evolves s0 s) :
    Evolves s0 (State.modPe s p f) := by
  unfold State.modPe
  repeat' first | (with_reducible apply evolves_mk; with_reducible exact rfl; with_reducible assumption)

theorem State.modTw_ev {s0 : State} {s : State} (g : Nat) (f : TwSt → TwSt) (hev : Evolves s0 s) :
    Evolves s0 (State.modTw s g f) := by
  unfold State.modTw
  repeat' first | (with_reducible apply evolves_mk; with_reducible exact rfl; with_reducible assumption)

theorem State.startPe_ev {s0 : State} {s : State} (p : Nat) (r : PeRun) (hev : Evolves s0 s) :
    Evolves s0 (State.startPe s p r) := by
  unfold State.startPe
  repeat' first
    | with_reducible assumption
    | with_reducible apply State.modPe_ev
    | with_reducible apply State.postTile_ev

theorem State.endPe_ev {s0 : State} {s : State} (p : Nat) (hev : Evolves s0 s) :
    Evolves s0 (State.endPe s p) := by
  unfold State.endPe
  repeat' first
    | with_reducible assumption
    | with_reducible apply State.modPe_ev
    | with_reducible apply State.postTile_ev

theorem State.triggerPe_ev {s0 : State} {s : State} (p : Nat) (hev : Evolves s0 s) :
    Evolves s0 (State.triggerPe s p) := by
  unfold State.triggerPe
  repeat' first
    | with_reducible assumption
    | with_reducible apply State.endPe_ev
    | with_reducible apply State.modPe_ev
    | with_reducible apply State.startPe_ev
    | with_reducible apply evolves_ite
    | (with_reducible apply evolves_mk; with_reducible exact rfl; split)

theorem State.startEngines_ev {s0 : State} {s : State} (hev : Evolves s0 s) :
    Evolves s0 (State.startEngines s) := by
  unfold State.startEngines
  repeat' first
    | with_reducible assumption
    | refine fun (_ : Evolves _ _) => ?_
    | with_reducible apply evolves_forEach
    | with_reducible apply State.startPe_ev
    | with_reducible apply evolves_ite
    | intro x

theorem State.endEngines_ev {s0 : State} {s : State} (j : Nat) (hev : Evolves s0 s) :
    Evolves s0 (State.endEngines s j) := by
  unfold State.endEngines
  repeat' first
    | with_reducible assumption
    | refine fun (_ : Evolves _ _) => ?_
    | with_reducible apply evolves_forEach
    | with_reducible apply State.endPe_ev
    | with_reducible apply evolves_ite
    | (with_reducible apply evolves_mk; with_reducible exact rfl; split)
    | intro x

theorem State.setChannel_ev {s0 : State} {s : State} (c level row j : Nat) (hev : Evolves s0 s) :
    Evolves s0 (State.setChannel s c level row j) := by
  unfold State.setChannel
  repeat' first
    | with_reducible assumption
    | with_reducible apply State.modCh_ev
    | with_reducible apply State.modTw_ev
    | with_reducible apply State.postTile_ev
    | with_reducible apply evolves_ite
    | (with_reducible apply evolves_mk; with_reducible exact rfl; split)

theorem State.stringEvent_ev {s0 : State} {s : State} (c fault m : Nat) (transient : Bool) (hev : Evolves s0 s) :
    Evolves s0 (State.stringEvent s c fault m transient) := by
  unfold State.stringEvent
  repeat' first
    | with_reducible assumption
    | with_reducible apply State.postTile_ev
    | with_reducible apply State.record_ev

theorem State.hardwareLimit_ev {s0 : State} {s : State} (h : Nat) (hev : Evolves s0 s) :
    Evolves s0 (State.hardwareLimit s h) := by
  unfold State.hardwareLimit
  repeat' first | with_reducible assumption | with_reducible apply State.post_ev

theorem State.vref_ev {s0 : State} {s : State} (c amps : Nat) (hev : Evolves s0 s) :
    Evolves s0 (State.vref s c amps).2 := by
  unfold State.vref
  repeat' first
    | with_reducible assumption
    | with_reducible apply State.drawInt_ev
    | with_reducible apply evolves_ite_snd

theorem State.vref_eq {s0 sx : State} {s : State} {c amps : Nat} {qx : Int} (e : (State.vref s c amps) = (qx, sx))
    (hev : Evolves s0 s) : Evolves s0 sx := by
  have g := State.vref_ev c amps hev
  rw [e] at g
  exact g

theorem State.judge_ev {s0 : State} {s : State} (m : ChMeas) (hev : Evolves s0 s) :
    Evolves s0 (State.judge s m).2 := by
  unfold State.judge
  repeat' first
    | with_reducible assumption
    | with_reducible apply State.drawNat_ev
    | with_reducible apply State.vref_ev
    | with_reducible apply evolves_ite_snd

theorem State.judge_eq {s0 sx : State} {s : State} {m : ChMeas} {qx : FrameFault} (e : (State.judge s m) = (qx, sx))
    (hev : Evolves s0 s) : Evolves s0 sx := by
  have g := State.judge_ev m hev
  rw [e] at g
  exact g

theorem State.confirmFault_ev {s0 : State} {s : State} (c fault : Nat) (hev : Evolves s0 s) :
    Evolves s0 (State.confirmFault s c fault) := by
  unfold State.confirmFault
  repeat' first
    | with_reducible assumption
    | with_reducible apply State.modCh_ev
    | with_reducible apply State.stringEvent_ev

theorem State.retryFrame_ev {s0 : State} {s : State} (c : Nat) (bad : Bool) (hev : Evolves s0 s) :
    Evolves s0 (State.retryFrame s c bad) := by
  unfold State.retryFrame
  repeat' first
    | with_reducible assumption
    | with_reducible apply State.modCh_ev
    | with_reducible apply State.stringEvent_ev
    | with_reducible apply evolves_ite
    | (with_reducible apply evolves_mk; with_reducible exact rfl; split)

theorem State.ledShort_ev {s0 : State} {s : State} (c m : Nat) (hev : Evolves s0 s) :
    Evolves s0 (State.ledShort s c m) := by
  unfold State.ledShort
  repeat' first
    | with_reducible assumption
    | with_reducible apply State.modCh_ev
    | with_reducible apply State.stringEvent_ev
    | with_reducible apply evolves_ite

theorem State.applyFrame_ev {s0 : State} {s : State} (c : Nat) (f : FrameFault) (hev : Evolves s0 s) :
    Evolves s0 (State.applyFrame s c f) := by
  unfold State.applyFrame
  repeat' first
    | with_reducible assumption
    | with_reducible apply State.confirmFault_ev
    | with_reducible apply State.ledShort_ev
    | with_reducible apply State.modCh_ev
    | with_reducible apply State.retryFrame_ev
    | with_reducible apply evolves_ite
    | (with_reducible apply evolves_mk; with_reducible exact rfl; split)

theorem State.frameMeasured_ev {s0 : State} {s : State} (m : ChMeas) (hev : Evolves s0 s) :
    Evolves s0 (State.frameMeasured s m) := by
  unfold State.frameMeasured
  repeat' first
    | with_reducible assumption
    | with_reducible apply State.applyFrame_ev
    | with_reducible apply State.judge_ev
    | with_reducible apply State.modCh_ev
    | with_reducible apply evolves_ite

theorem State.dieFrames_ev {s0 : State} {s : State} (hev : Evolves s0 s) :
    Evolves s0 (State.dieFrames s) := by
  unfold State.dieFrames
  repeat' first
    | with_reducible assumption
    | refine fun (_ : Evolves _ _) => ?_
    | with_reducible apply evolves_forEach
    | with_reducible apply State.applyFrame_ev
    | with_reducible apply evolves_ite
    | intro x

theorem State.takeHalves_ev {s0 : State} {s : State} (hev : Evolves s0 s) :
    Evolves s0 (State.takeHalves s) := by
  unfold State.takeHalves
  repeat' first
    | with_reducible assumption
    | refine fun (_ : Evolves _ _) => ?_
    | with_reducible apply evolves_forEach
    | with_reducible apply State.post_ev
    | with_reducible apply evolves_ite
    | (with_reducible apply evolves_mk; with_reducible exact rfl; with_reducible assumption)
    | intro x

theorem State.ntcRead_ev {s0 : State} {s : State} (p : Nat × Nat) (hev : Evolves s0 s) :
    Evolves s0 (State.ntcRead s p) := by
  unfold State.ntcRead
  repeat' first
    | with_reducible assumption
    | with_reducible apply evolves_ite
    | (with_reducible apply evolves_mk; with_reducible exact rfl; with_reducible assumption)

theorem State.applySafety_ev {s0 : State} {s : State} (hev : Evolves s0 s) :
    Evolves s0 (State.applySafety s) := by
  unfold State.applySafety
  repeat' first | (with_reducible apply evolves_mk; with_reducible exact rfl; with_reducible assumption)

theorem State.applyDirect_ev {s0 : State} {s : State} (hev : Evolves s0 s) :
    Evolves s0 (State.applyDirect s) := by
  unfold State.applyDirect
  repeat' first
    | with_reducible assumption
    | refine fun (_ : Evolves _ _) => ?_
    | with_reducible apply evolves_forEach
    | with_reducible apply State.modCh_ev
    | with_reducible apply evolves_ite
    | intro x

theorem State.endWaves_ev {s0 : State} {s : State} (hev : Evolves s0 s) :
    Evolves s0 (State.endWaves s) := by
  unfold State.endWaves
  repeat' first | (with_reducible apply evolves_mk; with_reducible exact rfl; with_reducible assumption)

theorem State.frameLum_ev {s0 : State} {s : State} (j l : Nat) (hev : Evolves s0 s) :
    Evolves s0 (State.frameLum s j l) := by
  unfold State.frameLum
  repeat' first
    | with_reducible assumption
    | refine fun (_ : Evolves _ _) => ?_
    | with_reducible apply evolves_forEach
    | with_reducible apply State.modCh_ev
    | with_reducible apply State.modLum_ev
    | with_reducible apply State.modTw_ev
    | with_reducible apply State.setChannel_ev
    | with_reducible apply evolves_ite
    | (with_reducible apply evolves_mk; with_reducible exact rfl; split)
    | intro x

theorem State.frameOff_ev {s0 : State} {s : State} (j : Nat) (hev : Evolves s0 s) :
    Evolves s0 (State.frameOff s j) := by
  unfold State.frameOff
  repeat' first
    | with_reducible assumption
    | refine fun (_ : Evolves _ _) => ?_
    | with_reducible apply evolves_forEach
    | with_reducible apply State.setChannel_ev
    | with_reducible apply evolves_ite
    | intro x

theorem State.freshRuns_ev {s0 : State} {s : State} (j : Nat) (hev : Evolves s0 s) :
    Evolves s0 (State.freshRuns s j) := by
  unfold State.freshRuns
  repeat' first
    | with_reducible assumption
    | refine fun (_ : Evolves _ _) => ?_
    | with_reducible apply evolves_forEach
    | with_reducible apply State.modPe_ev
    | with_reducible apply evolves_ite
    | (with_reducible apply evolves_mk; with_reducible exact rfl; split)
    | intro x

theorem State.frameAt_ev {s0 : State} {s : State} (j : Nat) (hev : Evolves s0 s) :
    Evolves s0 (State.frameAt s j) := by
  unfold State.frameAt
  repeat' first
    | with_reducible assumption
    | refine fun (_ : Evolves _ _) => ?_
    | with_reducible apply evolves_forEach
    | with_reducible apply State.applyDirect_ev
    | with_reducible apply State.applySafety_ev
    | with_reducible apply State.endEngines_ev
    | with_reducible apply State.endWaves_ev
    | with_reducible apply State.frameLum_ev
    | with_reducible apply State.frameOff_ev
    | with_reducible apply State.freshRuns_ev
    | with_reducible apply State.takeHalves_ev
    | intro x

end Sys2Proof.Machine
end

