-- ==== Sys2Proof/Laws/EvAdmOps.lean ====
section
/-! SUPPORT. Every operation of Machine/AdmOps.lean lets the state grow (Safety.lean). -/

set_option Elab.async false

namespace Sys2Proof.Machine

theorem State.answerAdmit_ev {s0 : State} {s : State} (a : Admit) (type : Nat) (body : List Byte) (hev : Evolves s0 s) :
    Evolves s0 (State.answerAdmit s a type body) := by
  unfold State.answerAdmit
  repeat' first
    | with_reducible apply State.respond_ev
    | (with_reducible apply evolves_mk; with_reducible exact rfl; (first | with_reducible assumption | split))

theorem State.decline_ev {s0 : State} {s : State} (a : Admit) (reason : Reason) (earliest : Cn) (hev : Evolves s0 s) :
    Evolves s0 (State.decline s a reason earliest) := by
  unfold State.decline
  repeat' first | with_reducible assumption | with_reducible apply State.answerAdmit_ev

theorem State.declineCounted_ev {s0 : State} {s : State} (a : Admit) (reason : Reason) (hev : Evolves s0 s) :
    Evolves s0 (State.declineCounted s a reason) := by
  unfold State.declineCounted
  repeat' first
    | with_reducible assumption
    | with_reducible apply State.decline_ev
    | with_reducible apply State.fspViolation_ev
    | (with_reducible apply evolves_mk; with_reducible exact rfl; split)

theorem State.book_ev {s0 : State} {s : State} (b : Booking) (hev : Evolves s0 s) :
    Evolves s0 (State.book s b) := by
  unfold State.book
  repeat' first | (with_reducible apply evolves_mk; with_reducible exact rfl; with_reducible assumption)

theorem State.bookCells_eq {s0 : State} {id g air n k : Nat} : ∀ {s : State} {a l : Nat} {r : Reason} {u : State} {m : Nat} {q : Reason},
    s.bookCells id g air n k a l r = (some (u, m), q) → Evolves s0 s → Evolves s0 u := by
  induction k with
  | zero =>
    intro s a l r u m q e h
    simp only [State.bookCells, Prod.mk.injEq, Option.some.injEq] at e
    exact e.1.1 ▸ h
  | succ k ih =>
    intro s a l r u m q e h
    unfold State.bookCells at e
    split at e
    · exact ih e (State.book_ev _ h)
    · simp at e

theorem State.bookFlood_eq {s0 : State} {id from_ : Nat} {frames : Nat → List (List Byte)} {cells : Nat → Nat} {gs : List Nat} :
    ∀ {s u : State} {e c : Cn} {r : Reason}, (s.bookFlood id from_ frames cells gs e r).found = some (u, c) →
      Evolves s0 s → Evolves s0 u := by
  induction gs with
  | nil =>
    intro s u e c r q h
    simp only [State.bookFlood, Option.some.injEq, Prod.mk.injEq] at q
    exact q.1 ▸ h
  | cons g gs ih =>
    intro s u e c r q h
    unfold State.bookFlood at q
    dsimp only at q
    split at q
    · exact ih q (State.bookCells_eq ‹_› h)
    · simp at q

theorem State.bookPrompt_eq {s0 s u : State} {id from_ short : Nat} {bs : List (List Byte)} {e c : Cn} {r : Reason}
    (q : (s.bookPrompt id from_ short bs e r).found = some (u, c)) (hev : Evolves s0 s) : Evolves s0 u := by
  unfold State.bookPrompt at q
  dsimp only at q
  split at q
  · simp only [Option.some.injEq, Prod.mk.injEq] at q
    exact q.1 ▸ State.bookCells_eq ‹_› hev
  · simp at q

theorem State.bookBulk_eq {s0 : State} {id g air n : Nat} {path : List Nat} : ∀ {s u : State} {a w m : Nat},
    s.bookBulk id g air n path a w = some (u, m) → Evolves s0 s → Evolves s0 u := by
  induction path with
  | nil =>
    intro s u a w m e h
    simp only [State.bookBulk, Option.some.injEq, Prod.mk.injEq] at e
    exact e.1 ▸ h
  | cons x rest ih =>
    intro s u a w m e h
    unfold State.bookBulk at e
    split at e
    · split at e
      · exact ih e (evolves_forEach _ _ (fun _ _ hx => State.book_ev _ hx) h)
      · simp at e
    · simp at e

theorem State.bookBulkTo_eq {s0 s u : State} {id from_ short : Nat} {bs : List (List Byte)} {e c : Cn} {r : Reason}
    (q : (s.bookBulkTo id from_ short bs e r).found = some (u, c)) (hev : Evolves s0 s) : Evolves s0 u := by
  unfold State.bookBulkTo at q
  dsimp only at q
  split at q
  · split at q
    · simp only [Option.some.injEq, Prod.mk.injEq] at q
      exact q.1 ▸ State.bookBulk_eq ‹_› hev
    · simp at q
  · exact State.bookPrompt_eq q hev

theorem State.bookEach_eq {s0 : State} {cls : TxClass} {id from_ : Nat} {bodies : Nat → List (List Byte)} {xs : List Nat} :
    ∀ {s u : State} {e c : Cn} {r : Reason}, (s.bookEach cls id from_ bodies xs e r).found = some (u, c) →
      Evolves s0 s → Evolves s0 u := by
  induction xs with
  | nil =>
    intro s u e c r q h
    simp only [State.bookEach, Option.some.injEq, Prod.mk.injEq] at q
    exact q.1 ▸ h
  | cons x xs ih =>
    intro s u e c r q h
    unfold State.bookEach at q
    dsimp only at q
    split at q
    · refine ih q ?_
      rename_i hf
      split at hf
      · exact State.bookBulkTo_eq hf h
      · exact State.bookPrompt_eq hf h
    · simp_all

theorem State.fit_eq {s0 s u : State} {a : Ask} {cls : TxClass} {id from_ : Nat} {good : List Nat} {e c : Cn}
    (q : (s.fit a cls id good from_ e).found = some (u, c)) (hev : Evolves s0 s) : Evolves s0 u := by
  unfold State.fit at q
  split at q
  · exact State.bookFlood_eq q hev
  · exact State.bookEach_eq q hev

theorem State.earliestFit_eq {s0 s u : State} {a : Ask} {cls : TxClass} {id : Nat} {good : List Nat} {deadline lead c : Cn}
    (q : (s.earliestFit a cls id good deadline lead).found = some (u, c)) (hev : Evolves s0 s) : Evolves s0 u := by
  unfold State.earliestFit at q
  extract_lets least named free near at q
  have hn : ∀ f : Fit, (near f).found = some (u, c) → f.found = some (u, c) := by
    intro f hf
    simp only [near] at hf
    split at hf
    · split at hf
      · simp at hf
      · exact hf
    · exact hf
  split at q
  · split at q
    · split at q
      · exact State.fit_eq q hev
      · exact State.fit_eq (hn _ q) hev
    · have g := hn _ q
      dsimp only [free] at g
      exact State.fit_eq g hev
  · exact State.fit_eq (hn _ q) hev

theorem State.noteItem_ev {s0 : State} {s : State} (eui id : Nat) (content : List Byte) (effective : Cn) (hev : Evolves s0 s) :
    Evolves s0 (State.noteItem s eui id content effective) := by
  unfold State.noteItem
  repeat' first | with_reducible assumption | with_reducible apply State.modNode_ev

theorem State.floodPromise_ev {s0 : State} {s : State} (a : Ask) (id g : Nat) (cell : Cell) (bs : List (List Byte)) (cells : List Nat) (hev : Evolves s0 s) :
    Evolves s0 (State.floodPromise s a id g cell bs cells) := by
  unfold State.floodPromise
  repeat' first
    | with_reducible assumption
    | refine fun (_ : Evolves _ _) => ?_
    | with_reducible apply evolves_forEach
    | with_reducible apply State.flood_ev
    | intro x

theorem State.furtherPasses_ev {s0 : State} {s : State} (id g : Nat) (e : Cn) (bs : List (List Byte)) (after q : Nat) (hev : Evolves s0 s) :
    Evolves s0 (State.furtherPasses s id g e bs after q) := by
  unfold State.furtherPasses
  repeat' first
    | with_reducible assumption
    | refine fun (_ : Evolves _ _) => ?_
    | with_reducible apply evolves_forEach
    | with_reducible apply State.hold_ev
    | intro x

theorem State.unicastPromise_ev {s0 : State} {s : State} (a : Ask) (id short : Nat) (cell : Cell) (bs : List (List Byte)) (cells : List Nat) (hev : Evolves s0 s) :
    Evolves s0 (State.unicastPromise s a id short cell bs cells) := by
  unfold State.unicastPromise
  repeat' first
    | with_reducible assumption
    | refine fun (_ : Evolves _ _) => ?_
    | with_reducible apply evolves_forEach
    | with_reducible apply State.sendNode_ev
    | (with_reducible apply evolves_mk; with_reducible exact rfl; split)
    | intro x

theorem State.sendPromise_ev {s0 : State} {s : State} (a : Ask) (c : TxClass) (id : Nat) (e : Cn) (good : List Nat) (hev : Evolves s0 s) :
    Evolves s0 (State.sendPromise s a c id e good) := by
  unfold State.sendPromise
  repeat' first
    | with_reducible assumption
    | refine fun (_ : Evolves _ _) => ?_
    | with_reducible apply evolves_iff
    | with_reducible apply evolves_forEach
    | with_reducible apply State.floodPromise_ev
    | with_reducible apply State.furtherPasses_ev
    | with_reducible apply State.noteItem_ev
    | with_reducible apply State.unicastPromise_ev
    | with_reducible apply evolves_ite
    | (with_reducible apply evolves_mk; with_reducible exact rfl; with_reducible assumption)
    | intro x

theorem State.safetyStrings_ev {s0 : State} {s : State} (a : Ask) (hev : Evolves s0 s) :
    Evolves s0 (State.safetyStrings s a) := by
  unfold State.safetyStrings
  repeat' first | (with_reducible apply evolves_mk; with_reducible exact rfl; with_reducible assumption)

theorem State.givePromise_ev {s0 : State} {s : State} (q : Admit) (p : Promise) (hev : Evolves s0 s) :
    Evolves s0 (State.givePromise s q p) := by
  unfold State.givePromise
  repeat' first
    | with_reducible apply State.answerAdmit_ev
    | (with_reducible apply evolves_mk; with_reducible exact rfl; with_reducible assumption)

theorem State.endCaravan_ev {s0 : State} {s : State} (id : Nat) (hev : Evolves s0 s) :
    Evolves s0 (State.endCaravan s id) := by
  unfold State.endCaravan
  repeat' first
    | with_reducible assumption
    | with_reducible apply State.modCaravan_ev
    | (with_reducible apply evolves_mk; with_reducible exact rfl; with_reducible apply State.caravanPhase_ev)

theorem State.caravanOutcome_ev {s0 : State} {s : State} (p : Promise) (hev : Evolves s0 s) :
    Evolves s0 (State.caravanOutcome s p) := by
  unfold State.caravanOutcome
  repeat' first
    | with_reducible assumption
    | with_reducible apply State.endCaravan_ev
    | with_reducible apply State.modCaravan_ev
    | with_reducible apply evolves_ite
    | (with_reducible apply evolves_mk; with_reducible exact rfl; split)

theorem State.outcome_ev {s0 : State} {s : State} (p : Promise) (hev : Evolves s0 s) :
    Evolves s0 (State.outcome s p) := by
  unfold State.outcome
  repeat' first
    | with_reducible assumption
    | refine fun (_ : Evolves _ _) => ?_
    | with_reducible apply State.caravanOutcome_ev
    | with_reducible apply State.push_ev
    | with_reducible apply State.record_ev
    | (with_reducible apply evolves_mk; with_reducible exact rfl; with_reducible apply evolves_forEach)
    | intro x

theorem State.settleOutcomes_ev {s0 : State} {s : State} (hev : Evolves s0 s) :
    Evolves s0 (State.settleOutcomes s) := by
  unfold State.settleOutcomes
  repeat' first
    | with_reducible assumption
    | refine fun (_ : Evolves _ _) => ?_
    | with_reducible apply evolves_forEach
    | with_reducible apply State.outcome_ev
    | with_reducible apply evolves_ite
    | intro x

theorem State.promiseTick_ev {s0 : State} {s : State} (hev : Evolves s0 s) :
    Evolves s0 (State.promiseTick s) := by
  unfold State.promiseTick
  repeat' first
    | with_reducible apply State.settleOutcomes_ev
    | (with_reducible apply evolves_mk; with_reducible exact rfl; with_reducible assumption)

theorem State.rejoinEvent_ev {s0 : State} {s : State} (kind : Nat) (r : Rejoin) (hev : Evolves s0 s) :
    Evolves s0 (State.rejoinEvent s kind r) := by
  unfold State.rejoinEvent
  repeat' first
    | with_reducible assumption
    | with_reducible apply State.post_ev
    | with_reducible apply State.record_ev

theorem State.releaseForRejoin_ev {s0 : State} {s : State} (limit : Cn) (hev : Evolves s0 s) :
    Evolves s0 (State.releaseForRejoin s limit) := by
  unfold State.releaseForRejoin
  repeat' first | (with_reducible apply evolves_mk; with_reducible exact rfl; with_reducible assumption)

theorem State.startRejoin_ev {s0 : State} {s : State} (set : List Nat) (cause : Nat) (hev : Evolves s0 s) :
    Evolves s0 (State.startRejoin s set cause) := by
  unfold State.startRejoin
  repeat' first
    | with_reducible assumption
    | refine fun (_ : Evolves _ _) => ?_
    | with_reducible apply evolves_forEach
    | with_reducible apply State.floodItem_ev
    | with_reducible apply State.rejoinEvent_ev
    | with_reducible apply State.releaseForRejoin_ev
    | (with_reducible apply evolves_mk; with_reducible exact rfl; (first | with_reducible assumption | split))
    | intro x

theorem State.endRejoin_ev {s0 : State} {s : State} (hev : Evolves s0 s) :
    Evolves s0 (State.endRejoin s) := by
  unfold State.endRejoin
  repeat' first
    | with_reducible assumption
    | refine fun (_ : Evolves _ _) => ?_
    | with_reducible apply evolves_forEach
    | with_reducible apply State.sendSchedule_ev
    | with_reducible apply evolves_ite
    | (with_reducible apply evolves_mk; with_reducible exact rfl; (first | with_reducible apply State.rejoinEvent_ev | split))
    | intro x

theorem State.checkRejoin_ev {s0 : State} {s : State} (hev : Evolves s0 s) :
    Evolves s0 (State.checkRejoin s) := by
  unfold State.checkRejoin
  repeat' first
    | with_reducible assumption
    | with_reducible apply State.endRejoin_ev
    | with_reducible apply evolves_ite
    | (with_reducible apply evolves_mk; with_reducible exact rfl; split)

theorem State.carryReleased_ev {s0 : State} {s : State} (short : Nat) (hev : Evolves s0 s) :
    Evolves s0 (State.carryReleased s short) := by
  unfold State.carryReleased
  repeat' first
    | with_reducible assumption
    | refine fun (_ : Evolves _ _) => ?_
    | with_reducible apply evolves_forEach
    | with_reducible apply State.unicastPromise_ev
    | with_reducible apply evolves_ite
    | intro x

end Sys2Proof.Machine
end

