-- ==== Sys2Proof/Laws/EvWaybill.lean ====
section
/-! SUPPORT. Every operation of Machine/Waybill.lean lets the state grow (Safety.lean). -/

set_option Elab.async false

namespace Sys2Proof.Machine

theorem State.commit_ev {s0 s : State} (r : Rec) (hev : Evolves s0 s) : Evolves s0 (s.commit r) := by
  unfold State.commit
  refine evolves_iff _ _ (evolves_iff _ _ (evolves_way hev id fun _ => ?_) fun x hx => State.post_ev _ _ _ hx)
    fun x hx => State.push_ev _ _ _ hx
  simp only [List.length_drop]
  omega

theorem State.writeNext_ev {s0 s : State} (hev : Evolves s0 s) : Evolves s0 s.writeNext := by
  unfold State.writeNext
  split
  · exact State.commit_ev _ (evolves_way hev id id)
  · split
    · exact hev
    · refine State.commit_ev _ (evolves_way hev (fun h => ?_) id)
      simp_all
      omega

theorem State.drainStaging_ev {s0 : State} {s : State} (hev : Evolves s0 s) :
    Evolves s0 (State.drainStaging s) := by
  unfold State.drainStaging
  repeat' first
    | with_reducible assumption
    | with_reducible apply evolves_forEach
    | with_reducible apply State.writeNext_ev
    | intro x

theorem State.lastGasp_ev {s0 : State} {s : State} (r : Rec) (hev : Evolves s0 s) :
    Evolves s0 (State.lastGasp s r) := by
  unfold State.lastGasp
  repeat' first
    | with_reducible apply State.post_ev
    | with_reducible apply evolves_ite
    | (with_reducible apply evolves_mk; with_reducible exact rfl; with_reducible assumption)

theorem State.sectorFails_ev {s0 s : State} (u : List Nat) (bad : Rec) (hev : Evolves s0 s) :
    Evolves s0 (s.sectorFails u bad) := by
  have hm : ∀ n : Nat, (s.way.inSector n).length ≤ s.way.ring.length := by
    intro n
    simp [WaySt.inSector, Nat.min_le_left]
  have hf : ∀ (n : Nat) (p : Rec × Bool → Bool), ((s.way.inSector n).filter p).length ≤ s.way.ring.length :=
    fun n p => Nat.le_trans (List.length_filter_le _ _) (hm n)
  unfold State.sectorFails
  extract_lets w k sector marked gone spare last keep lost held r0 fault s1 w1 way s2 s3 s4 s5
  have h1 : Evolves s0 s1 := State.lastGasp_ev _ hev
  have e1 : s1.way = s.way := by
    simp only [s1, State.lastGasp]
    split <;> rfl
  have hk : held.length ≤ s.way.ring.length := by
    simp only [held, keep, List.length_map]
    split
    · exact hf _ _
    · exact hf _ _
  have h2 : Evolves s0 s2 := by
    refine evolves_way h1 (fun h => ?_) fun h => ?_
    · simp only [way]
      split
      · exact h
      · split <;> exact h
    · have hc : w1.capacity = s.way.capacity := congrArg WaySt.capacity e1
      rw [e1] at h
      simp only [way]
      split
      · exact hc ▸ Nat.le_trans hk h
      · split
        · exact hc ▸ Nat.le_trans hk h
        · simp only [List.length_drop]
          omega
  have h4 : Evolves s0 s4 := State.commit_ev _ (State.post_ev _ _ _ h2)
  exact evolves_iff _ _ (evolves_iff _ _ h4 fun x hx => State.record_ev _ _ _ _ hx) fun x hx => State.raiseThin_ev _ hx

theorem State.readBack_ev {s0 : State} {s : State} (b : ReadBack) (hev : Evolves s0 s) :
    Evolves s0 (State.readBack s b) := by
  unfold State.readBack
  repeat' first
    | with_reducible assumption
    | with_reducible apply State.sectorFails_ev
    | (with_reducible apply evolves_mk; with_reducible exact rfl; (first | with_reducible assumption | split))

theorem execRecorderWrite_ev {s0 s1 : State} (readBack : ReadBack) {s : State} (e : execRecorderWrite readBack s = .next s1)
    (hev : Evolves s0 s) : Evolves s0 s1 := by
  unfold execRecorderWrite at e
  refine evolves_next e ?_
  repeat' first
    | with_reducible assumption
    | refine fun (_ : Evolves _ _) => ?_
    | with_reducible apply evolves_iff
    | with_reducible apply evolves_whenLive
    | with_reducible apply State.readBack_ev
    | with_reducible apply State.writeNext_ev
    | intro x

theorem execWaybillHappening_ev {s0 s1 : State} (stand : Stand) (role : Role) (source id : Nat) (reason : Reason) (tagged : Bool) (payload : List Byte) (tick : Nat) {s : State} (e : execWaybillHappening stand role source id reason tagged payload tick s = .next s1)
    (hev : Evolves s0 s) : Evolves s0 s1 := by
  unfold execWaybillHappening at e
  refine evolves_next e ?_
  repeat' first
    | with_reducible assumption
    | refine fun (_ : Evolves _ _) => ?_
    | with_reducible apply evolves_whenLive
    | with_reducible apply State.advanceTo_ev
    | with_reducible apply State.enter_ev
    | intro x

theorem State.clearWaybill_ev {s0 s : State} (seen : Nat) (role : Role) (source path : Nat) (hev : Evolves s0 s) :
    Evolves s0 (s.clearWaybill seen role source path).2.2 := by
  unfold State.clearWaybill
  split
  · exact hev
  · split
    · split
      · exact hev
      · exact evolves_way (State.commit_ev _ hev) id fun h => Nat.le_trans (List.length_filter_le _ _) h
    · exact evolves_way (State.commit_ev _ hev) id id

theorem State.clearWaybill_eq {s0 s x : State} {seen : Nat} {role : Role} {source path : Nat} {q : Reason} {r : Nat}
    (e : s.clearWaybill seen role source path = (q, r, x)) (hev : Evolves s0 s) : Evolves s0 x := by
  have g := State.clearWaybill_ev seen role source path hev
  rw [e] at g
  exact g

theorem State.waybillRead_ev {s0 : State} {s : State} (i : Fin 4) (tx : Nat) (body : List Byte) (hev : Evolves s0 s) :
    Evolves s0 (State.waybillRead s i tx body) := by
  unfold State.waybillRead
  repeat' first
    | with_reducible assumption
    | with_reducible apply State.malformed_ev
    | with_reducible apply State.respond_ev
    | with_reducible apply evolves_ite

theorem execWaybillRead_ev {s0 s1 : State} (sess : Fin 4) (role : Byte) (tx : Word) (body : List Byte) {s : State} (e : execWaybillRead sess role tx body s = .next s1)
    (hev : Evolves s0 s) : Evolves s0 s1 := by
  unfold execWaybillRead at e
  refine evolves_next e ?_
  repeat' first
    | with_reducible assumption
    | refine fun (_ : Evolves _ _) => ?_
    | with_reducible apply evolves_whenLive
    | with_reducible apply State.countUse_ev
    | with_reducible apply State.request_ev
    | with_reducible apply State.waybillRead_ev
    | intro x

theorem State.waybillClear_ev {s0 : State} {s : State} (i : Fin 4) (c : Session) (tx : Nat) (body : List Byte) (hev : Evolves s0 s) :
    Evolves s0 (State.waybillClear s i c tx body) := by
  unfold State.waybillClear
  repeat' first
    | with_reducible assumption
    | with_reducible apply State.clearWaybill_ev
    | with_reducible apply State.malformed_ev
    | with_reducible apply State.respond_ev
    | with_reducible apply evolves_ite

theorem execWaybillClear_ev {s0 s1 : State} (sess : Fin 4) (role : Byte) (tx : Word) (body : List Byte) {s : State} (e : execWaybillClear sess role tx body s = .next s1)
    (hev : Evolves s0 s) : Evolves s0 s1 := by
  unfold execWaybillClear at e
  refine evolves_next e ?_
  repeat' first
    | with_reducible assumption
    | refine fun (_ : Evolves _ _) => ?_
    | with_reducible apply evolves_whenLive
    | with_reducible apply State.request_ev
    | with_reducible apply State.waybillClear_ev
    | intro x

theorem State.writeWayCtrl_ev {s0 : State} {s : State} (v : Nat) (w : Writer) (hev : Evolves s0 s) :
    Evolves s0 (State.writeWayCtrl s v w).1 := by
  unfold State.writeWayCtrl
  repeat' first
    | with_reducible assumption
    | refine fun (_ : Evolves _ _) => ?_
    | with_reducible apply evolves_iff
    | with_reducible apply State.writeReg_ev
    | (with_reducible apply evolves_mk; with_reducible exact rfl; with_reducible assumption)
    | intro x

theorem State.writeWayCtrl_eq {s0 sx : State} {s : State} {v : Nat} {w : Writer} {qx : Reason} (e : (State.writeWayCtrl s v w) = (sx, qx))
    (hev : Evolves s0 s) : Evolves s0 sx := by
  have g := State.writeWayCtrl_ev v w hev
  rw [e] at g
  exact g

theorem execWayCntClr_ev {s0 s1 : State} (value : Word) (w : Writer) {s : State} (e : execWayCntClr value w s = .next s1)
    (hev : Evolves s0 s) : Evolves s0 s1 := by
  unfold execWayCntClr at e
  refine evolves_next e ?_
  repeat' first
    | with_reducible assumption
    | refine fun (_ : Evolves _ _) => ?_
    | with_reducible apply evolves_whenLive
    | with_reducible apply State.writeWayCtrl_ev
    | intro x

end Sys2Proof.Machine
end

