-- ==== Sys2Proof/Laws/EvAdm.lean ====
section
/-! SUPPORT. Every operation of Machine/Adm.lean lets the state grow (Safety.lean). -/

set_option Elab.async false

namespace Sys2Proof.Machine

theorem State.admitArrive_ev {s0 : State} {s : State} (i : Fin 4) (role : Byte) (deadline : Cn) (tx : Nat) (body : List Byte) (hev : Evolves s0 s) :
    Evolves s0 (State.admitArrive s i role deadline tx body) := by
  unfold State.admitArrive
  repeat' first
    | with_reducible assumption
    | with_reducible apply State.countUse_ev
    | with_reducible apply State.fspViolation_ev
    | with_reducible apply State.modSession_ev
    | with_reducible apply State.respond_ev
    | with_reducible apply evolves_ite
    | (with_reducible apply evolves_mk; with_reducible exact rfl; (first | with_reducible apply State.countUse_ev | with_reducible apply State.modSession_ev | with_reducible apply evolves_ite | split))

theorem execAdmitArrive_ev {s0 s1 : State} (sess : Fin 4) (role : Byte) (deadline : BitVec 40) (tx : Word) (body : List Byte) {s : State} (e : execAdmitArrive sess role deadline tx body s = .next s1)
    (hev : Evolves s0 s) : Evolves s0 s1 := by
  unfold execAdmitArrive at e
  refine evolves_next e ?_
  repeat' first
    | with_reducible assumption
    | refine fun (_ : Evolves _ _) => ?_
    | with_reducible apply evolves_whenLive
    | with_reducible apply State.admitArrive_ev
    | intro x

theorem State.preempt_ev {s0 : State} {s : State} (short : Nat) (hev : Evolves s0 s) :
    Evolves s0 (State.preempt s short) := by
  unfold State.preempt
  repeat' first | (with_reducible apply evolves_mk; with_reducible exact rfl; with_reducible assumption)

theorem State.decideSafety_ev {s0 : State} {s : State} (q : Admit) (a : Ask) (l : List Judged2) (hev : Evolves s0 s) :
    Evolves s0 (State.decideSafety s q a l) := by
  unfold State.decideSafety
  repeat' first
    | with_reducible assumption
    | with_reducible apply State.decline_ev
    | with_reducible apply State.givePromise_ev
    | with_reducible apply State.safetyStrings_ev
    | with_reducible apply State.sendPromise_ev
    | with_reducible apply evolves_ite

theorem State.declineCaravan_ev {s0 : State} {s : State} (q : Admit) (c : Caravan) (good lacking : List Nat) (hev : Evolves s0 s) :
    Evolves s0 (State.declineCaravan s q c good lacking) := by
  unfold State.declineCaravan
  repeat' first
    | with_reducible assumption
    | refine fun (_ : Evolves _ _) => ?_
    | with_reducible apply evolves_forEach
    | with_reducible apply State.decline_ev
    | with_reducible apply State.push_ev
    | intro x

theorem State.decideFit_ev {s0 : State} {s : State} (q : Admit) (a : Ask) (c : TxClass) (l : List Judged2) (car : Option Caravan) (hev : Evolves s0 s) :
    Evolves s0 (State.decideFit s q a c l car) := by
  unfold State.decideFit
  repeat' first
    | with_reducible assumption
    | with_reducible apply State.caravanPhase_ev
    | with_reducible apply State.decline_ev
    | with_reducible apply State.givePromise_ev
    | with_reducible apply State.modCaravan_ev
    | with_reducible apply State.sendPromise_ev
    | with_reducible apply evolves_ite
    | refine State.earliestFit_eq (by assumption) ?_
    | (with_reducible apply evolves_mk; with_reducible exact rfl; split)

theorem State.decideLead_ev {s0 : State} {s : State} (q : Admit) (a : Ask) (c : TxClass) (l : List Judged2) (car : Option Caravan) (hev : Evolves s0 s) :
    Evolves s0 (State.decideLead s q a c l car) := by
  unfold State.decideLead
  repeat' first
    | with_reducible assumption
    | with_reducible apply State.decideFit_ev
    | with_reducible apply State.decline_ev
    | with_reducible apply State.declineCaravan_ev
    | with_reducible apply evolves_ite
    | (with_reducible apply evolves_mk; with_reducible exact rfl; split)

theorem State.decideTargets_ev {s0 : State} {s : State} (q : Admit) (a : Ask) (c : TxClass) (car : Option Caravan) (hev : Evolves s0 s) :
    Evolves s0 (State.decideTargets s q a c car) := by
  unfold State.decideTargets
  repeat' first
    | with_reducible assumption
    | with_reducible apply State.decideLead_ev
    | with_reducible apply State.decideSafety_ev
    | with_reducible apply State.decline_ev
    | with_reducible apply evolves_ite

theorem State.decideAdmit_ev {s0 : State} {s : State} (q : Admit) (hev : Evolves s0 s) :
    Evolves s0 (State.decideAdmit s q) := by
  unfold State.decideAdmit
  repeat' first
    | with_reducible assumption
    | with_reducible apply State.decideTargets_ev
    | with_reducible apply State.decline_ev
    | with_reducible apply State.declineCounted_ev
    | with_reducible apply evolves_ite
    | (with_reducible apply evolves_mk; with_reducible exact rfl; split)

theorem execAdmitDecision_ev {s0 s1 : State} {s : State} (e : execAdmitDecision s = .next s1)
    (hev : Evolves s0 s) : Evolves s0 s1 := by
  unfold execAdmitDecision at e
  refine evolves_next e ?_
  repeat' first
    | with_reducible assumption
    | refine fun (_ : Evolves _ _) => ?_
    | with_reducible apply evolves_whenLive
    | with_reducible apply State.decideAdmit_ev
    | (with_reducible apply evolves_mk; with_reducible exact rfl; (first | with_reducible assumption | split))
    | intro x

theorem execOutcomeDeadline_ev {s0 s1 : State} (id : Word) {s : State} (e : execOutcomeDeadline id s = .next s1)
    (hev : Evolves s0 s) : Evolves s0 s1 := by
  unfold execOutcomeDeadline at e
  refine evolves_next e ?_
  repeat' first
    | with_reducible assumption
    | refine fun (_ : Evolves _ _) => ?_
    | with_reducible apply evolves_iff
    | with_reducible apply evolves_whenLive
    | with_reducible apply State.outcome_ev
    | (with_reducible apply evolves_mk; with_reducible exact rfl; split)
    | intro x

theorem State.query_ev {s0 : State} {s : State} (p : Promise) (short : Nat) (hev : Evolves s0 s) :
    Evolves s0 (State.query s p short) := by
  unfold State.query
  repeat' first
    | with_reducible assumption
    | with_reducible apply State.sendNode_ev
    | (with_reducible apply evolves_mk; with_reducible exact rfl; split)

theorem execQueryNoAnswer_ev {s0 s1 : State} (id : Word) (short : BitVec 16) {s : State} (e : execQueryNoAnswer id short s = .next s1)
    (hev : Evolves s0 s) : Evolves s0 s1 := by
  unfold execQueryNoAnswer at e
  refine evolves_next e ?_
  repeat' first
    | with_reducible assumption
    | refine fun (_ : Evolves _ _) => ?_
    | with_reducible apply evolves_iff
    | with_reducible apply evolves_whenLive
    | with_reducible apply State.modPromise_ev
    | with_reducible apply State.query_ev
    | (with_reducible apply evolves_mk; with_reducible exact rfl; split)
    | intro x

theorem execRejoinTimeout_ev {s0 s1 : State} {s : State} (e : execRejoinTimeout s = .next s1)
    (hev : Evolves s0 s) : Evolves s0 s1 := by
  unfold execRejoinTimeout at e
  refine evolves_next e ?_
  repeat' first
    | with_reducible assumption
    | refine fun (_ : Evolves _ _) => ?_
    | with_reducible apply evolves_iff
    | with_reducible apply evolves_whenLive
    | with_reducible apply State.endRejoin_ev
    | (with_reducible apply evolves_mk; with_reducible exact rfl; split)
    | intro x

end Sys2Proof.Machine
end

