-- ==== Sys2Proof/Laws/EvQueues.lean ====
section
/-! SUPPORT. Every operation of Machine/Queues.lean lets the state grow (Safety.lean). -/

set_option Elab.async false

namespace Sys2Proof.Machine

theorem State.setQueue_ev {s0 : State} {s : State} (q : Nat) (c : QueueSt) (hev : Evolves s0 s) :
    Evolves s0 (State.setQueue s q c) := by
  unfold State.setQueue
  repeat' first | (with_reducible apply evolves_mk; with_reducible exact rfl; with_reducible assumption)

theorem State.postQueue_ev {s0 : State} {s : State} (q kind : Nat) (hev : Evolves s0 s) :
    Evolves s0 (State.postQueue s q kind) := by
  unfold State.postQueue
  repeat' first
    | with_reducible assumption
    | with_reducible apply State.post_ev
    | (with_reducible apply evolves_mk; with_reducible exact rfl; split)

theorem State.watermark_ev {s0 : State} {s : State} (q : Nat) (hev : Evolves s0 s) :
    Evolves s0 (State.watermark s q) := by
  unfold State.watermark
  repeat' first
    | with_reducible assumption
    | with_reducible apply State.postQueue_ev
    | with_reducible apply State.setQueue_ev
    | with_reducible apply evolves_ite
    | (with_reducible apply evolves_mk; with_reducible exact rfl; split)

theorem State.pushWord_ev {s0 : State} {s : State} (q : Nat) (w : QWord) (hev : Evolves s0 s) :
    Evolves s0 (State.pushWord s q w) := by
  unfold State.pushWord
  repeat' first
    | with_reducible assumption
    | refine fun (_ : Evolves _ _) => ?_
    | with_reducible apply evolves_iff
    | with_reducible apply State.postQueue_ev
    | with_reducible apply State.setQueue_ev
    | with_reducible apply State.watermark_ev
    | with_reducible apply evolves_ite
    | (with_reducible apply evolves_mk; with_reducible exact rfl; split)
    | intro x

theorem execQueuePush_ev {s0 s1 : State} (q : Fin 128) (data : BitVec 64) (parity : Bool) {s : State} (e : execQueuePush q data parity s = .next s1)
    (hev : Evolves s0 s) : Evolves s0 s1 := by
  unfold execQueuePush at e
  refine evolves_next e ?_
  repeat' first
    | with_reducible assumption
    | refine fun (_ : Evolves _ _) => ?_
    | with_reducible apply evolves_whenLive
    | with_reducible apply State.pushWord_ev
    | intro x

theorem State.fellRow_ev {s0 : State} {s : State} (q row : Nat) (hev : Evolves s0 s) :
    Evolves s0 (State.fellRow s q row) := by
  unfold State.fellRow
  repeat' first
    | with_reducible assumption
    | with_reducible apply State.postQueue_ev
    | with_reducible apply State.raiseThin_ev
    | with_reducible apply State.record_ev
    | with_reducible apply evolves_ite
    | (with_reducible apply evolves_mk; with_reducible exact rfl; (first | with_reducible assumption | with_reducible apply State.postQueue_ev))

theorem State.readWord'_ev {s0 : State} {s : State} (q : Nat) (disturb1 disturb2 : Bool) (hev : Evolves s0 s) :
    Evolves s0 (State.readWord' s q disturb1 disturb2) := by
  unfold State.readWord'
  repeat' first
    | with_reducible assumption
    | with_reducible apply State.fellRow_ev
    | with_reducible apply State.postQueue_ev
    | with_reducible apply State.setQueue_ev
    | with_reducible apply State.watermark_ev
    | with_reducible apply evolves_ite
    | (with_reducible apply evolves_mk; with_reducible exact rfl; (first | with_reducible assumption | split))

theorem execQueueRead_ev {s0 s1 : State} (q : Fin 128) (disturb1 disturb2 : Bool) {s : State} (e : execQueueRead q disturb1 disturb2 s = .next s1)
    (hev : Evolves s0 s) : Evolves s0 s1 := by
  unfold execQueueRead at e
  refine evolves_next e ?_
  repeat' first
    | with_reducible assumption
    | refine fun (_ : Evolves _ _) => ?_
    | with_reducible apply evolves_whenLive
    | with_reducible apply State.readWord'_ev
    | intro x

theorem execRowCopyDone_ev {s0 s1 : State} (row : Fin 544) {s : State} (e : execRowCopyDone row s = .next s1)
    (hev : Evolves s0 s) : Evolves s0 s1 := by
  unfold execRowCopyDone at e
  refine evolves_next e ?_
  repeat' first
    | with_reducible assumption
    | refine fun (_ : Evolves _ _) => ?_
    | with_reducible apply evolves_whenLive
    | (with_reducible apply evolves_mk; with_reducible exact rfl; with_reducible assumption)
    | intro x

theorem State.writeQueCtrl_ev {s0 : State} {s : State} (v : Nat) (w : Writer) (hev : Evolves s0 s) :
    Evolves s0 (State.writeQueCtrl s v w).1 := by
  unfold State.writeQueCtrl
  repeat' first
    | with_reducible assumption
    | refine fun (_ : Evolves _ _) => ?_
    | with_reducible apply evolves_iff
    | with_reducible apply State.writeReg_ev
    | (with_reducible apply evolves_mk; with_reducible exact rfl; with_reducible assumption)
    | intro x

theorem State.writeQueCtrl_eq {s0 sx : State} {s : State} {v : Nat} {w : Writer} {qx : Reason} (e : (State.writeQueCtrl s v w) = (sx, qx))
    (hev : Evolves s0 s) : Evolves s0 sx := by
  have g := State.writeQueCtrl_ev v w hev
  rw [e] at g
  exact g

theorem execQueCntClr_ev {s0 s1 : State} (value : Word) (w : Writer) {s : State} (e : execQueCntClr value w s = .next s1)
    (hev : Evolves s0 s) : Evolves s0 s1 := by
  unfold execQueCntClr at e
  refine evolves_next e ?_
  repeat' first
    | with_reducible assumption
    | refine fun (_ : Evolves _ _) => ?_
    | with_reducible apply evolves_whenLive
    | with_reducible apply State.writeQueCtrl_ev
    | intro x

theorem State.writePeak_ev {s0 : State} {s : State} (q v : Nat) (hev : Evolves s0 s) :
    Evolves s0 (State.writePeak s q v) := by
  unfold State.writePeak
  repeat' first
    | with_reducible assumption
    | with_reducible apply State.setQueue_ev
    | with_reducible apply evolves_ite
    | (with_reducible apply evolves_mk; with_reducible exact rfl; split)

theorem execQueuePeakRestart_ev {s0 s1 : State} (q : Fin 128) (value : Word) {s : State} (e : execQueuePeakRestart q value s = .next s1)
    (hev : Evolves s0 s) : Evolves s0 s1 := by
  unfold execQueuePeakRestart at e
  refine evolves_next e ?_
  repeat' first
    | with_reducible assumption
    | refine fun (_ : Evolves _ _) => ?_
    | with_reducible apply evolves_whenLive
    | with_reducible apply State.writePeak_ev
    | intro x

theorem State.writeQueStatus_ev {s0 : State} {s : State} (q v : Nat) (hev : Evolves s0 s) :
    Evolves s0 (State.writeQueStatus s q v) := by
  unfold State.writeQueStatus
  repeat' first
    | with_reducible assumption
    | with_reducible apply State.setQueue_ev
    | (with_reducible apply evolves_mk; with_reducible exact rfl; split)

end Sys2Proof.Machine
end

