-- ==== Sys2Proof/Laws/EvAir.lean ====
section
/-! SUPPORT. Every operation of Machine/Air.lean lets the state grow (Safety.lean). -/

set_option Elab.async false

namespace Sys2Proof.Machine

theorem execDutyBinRoll_ev {s0 s1 : State} {s : State} (e : execDutyBinRoll s = .next s1)
    (hev : Evolves s0 s) : Evolves s0 s1 := by
  unfold execDutyBinRoll at e
  refine evolves_next e ?_
  repeat' first
    | with_reducible assumption
    | refine fun (_ : Evolves _ _) => ?_
    | with_reducible apply evolves_whenLive
    | (with_reducible apply evolves_mk; with_reducible exact rfl; with_reducible assumption)
    | intro x

theorem State.queueFrame_ev {s0 : State} {s : State} (g : Nat) (hev : Evolves s0 s) :
    Evolves s0 (State.queueFrame s g) := by
  unfold State.queueFrame
  repeat' first
    | with_reducible assumption
    | with_reducible apply State.drawNat_ev
    | with_reducible apply State.postTile_ev
    | with_reducible apply State.pushWord_ev
    | (with_reducible apply evolves_mk; with_reducible exact rfl; split)

theorem State.sendAck_ev {s0 : State} {s : State} (g t : Nat) (f : RxFrame) (nack : Bool) (hev : Evolves s0 s) :
    Evolves s0 (State.sendAck s g t f nack) := by
  unfold State.sendAck
  repeat' first
    | with_reducible assumption
    | with_reducible apply State.addDuty_ev
    | with_reducible apply State.emit_ev
    | with_reducible apply State.modTrx_ev
    | with_reducible apply evolves_ite
    | (with_reducible apply evolves_mk; with_reducible exact rfl; with_reducible apply State.emit_ev)

theorem State.hear_ev {s0 : State} {s : State} (short : Nat) (hev : Evolves s0 s) :
    Evolves s0 (State.hear s short) := by
  unfold State.hear
  repeat' first | with_reducible assumption | with_reducible apply State.modEntry_ev

theorem State.linkFault_ev {s0 : State} {s : State} (g : Nat) (f : RxFrame) (hev : Evolves s0 s) :
    Evolves s0 (State.linkFault s g f) := by
  unfold State.linkFault
  repeat' first
    | with_reducible assumption
    | with_reducible apply State.nak_ev
    | with_reducible apply State.radViolation_ev
    | with_reducible apply evolves_ite
    | (with_reducible apply evolves_mk; with_reducible exact rfl; split)

theorem State.acceptFrame_ev {s0 : State} {s : State} (g t : Nat) (f : RxFrame) (e : Entry) (hev : Evolves s0 s) :
    Evolves s0 (State.acceptFrame s g t f e) := by
  unfold State.acceptFrame
  repeat' first
    | with_reducible assumption
    | with_reducible apply State.hear_ev
    | with_reducible apply State.linkFault_ev
    | with_reducible apply State.modTrx_ev
    | with_reducible apply State.nodeHeard_ev
    | with_reducible apply State.pushWord_ev
    | with_reducible apply State.putEntry_ev
    | with_reducible apply State.queueFrame_ev
    | with_reducible apply State.radViolation_ev
    | with_reducible apply State.sendAck_ev
    | with_reducible apply evolves_ite
    | (with_reducible apply evolves_mk; with_reducible exact rfl; split)

theorem State.countFiltered_ev {s0 : State} {s : State} (t : Nat) (hev : Evolves s0 s) :
    Evolves s0 (State.countFiltered s t) := by
  unfold State.countFiltered
  repeat' first | with_reducible assumption | with_reducible apply State.modTrx_ev

theorem State.dataFrame_ev {s0 s : State} (g t : Nat) (f : RxFrame) (hev : Evolves s0 s) :
    Evolves s0 (s.dataFrame g t f) := by
  unfold State.dataFrame
  refine evolves_ite _ (State.radViolation_ev _ _ _ _ hev) ?_
  generalize s.filter g f = o
  cases o with
  | counted => exact State.countFiltered_ev _ hev
  | silent => exact hev
  | pass e =>
    refine evolves_ite _ (State.radViolation_ev _ _ _ _ hev) (evolves_ite _ ?_ ?_)
    · exact State.radViolation_ev _ _ _ _ (State.postTile_ev _ _ _ _ _ (State.modTrx_ev _ _ hev))
    · generalize judgeFrame s.key.generation e f.keyIndex f.counter = j
      cases j with
      | accept e => exact State.acceptFrame_ev _ _ _ _ hev
      | duplicate => exact State.sendAck_ev _ _ _ _ (State.modTrx_ev _ _ hev)
      | replay => exact State.radViolation_ev _ _ _ _ (State.modTrx_ev _ _ hev)
      | older => exact hev

theorem State.delivered_ev {s0 : State} {s : State} (load : Load) (hev : Evolves s0 s) :
    Evolves s0 (State.delivered s load) := by
  unfold State.delivered
  repeat' first
    | with_reducible assumption
    | with_reducible apply State.modNode_ev
    | with_reducible apply State.modPromise_ev
    | with_reducible apply evolves_ite
    | (with_reducible apply evolves_mk; with_reducible exact rfl; split)

theorem State.ackFrame_ev {s0 : State} {s : State} (g source : Nat) (nack : Bool) (hev : Evolves s0 s) :
    Evolves s0 (State.ackFrame s g source nack) := by
  unfold State.ackFrame
  repeat' first
    | with_reducible assumption
    | with_reducible apply State.delivered_ev
    | with_reducible apply evolves_ite
    | (with_reducible apply evolves_mk; with_reducible exact rfl; (first | with_reducible assumption | split))

theorem State.ackJoin_ev {s0 : State} {s : State} (g eui : Nat) (hev : Evolves s0 s) :
    Evolves s0 (State.ackJoin s g eui) := by
  unfold State.ackJoin
  repeat' first
    | with_reducible assumption
    | with_reducible apply State.delivered_ev
    | (with_reducible apply evolves_mk; with_reducible exact rfl; (first | with_reducible assumption | split))

theorem State.frameReceived_ev {s0 : State} {s : State} (g : Nat) (f : RxFrame) (hev : Evolves s0 s) :
    Evolves s0 (State.frameReceived s g f) := by
  unfold State.frameReceived
  repeat' first
    | with_reducible assumption
    | with_reducible apply State.ackFrame_ev
    | with_reducible apply State.ackJoin_ev
    | with_reducible apply State.countFiltered_ev
    | with_reducible apply State.dataFrame_ev
    | with_reducible apply State.modTrx_ev
    | with_reducible apply State.postTile_ev
    | with_reducible apply evolves_ite
    | (with_reducible apply evolves_mk; with_reducible exact rfl; split)

theorem execFrameReceived_ev {s0 s1 : State} (grove : Fin 8) (frame : RxFrame) {s : State} (e : execFrameReceived grove frame s = .next s1)
    (hev : Evolves s0 s) : Evolves s0 s1 := by
  unfold execFrameReceived at e
  refine evolves_next e ?_
  repeat' first
    | with_reducible assumption
    | refine fun (_ : Evolves _ _) => ?_
    | with_reducible apply evolves_iff
    | with_reducible apply evolves_whenLive
    | with_reducible apply State.frameReceived_ev
    | intro x

theorem execLedgerUnmute_ev {s0 s1 : State} (place : Fin 4096) {s : State} (e : execLedgerUnmute place s = .next s1)
    (hev : Evolves s0 s) : Evolves s0 s1 := by
  unfold execLedgerUnmute at e
  refine evolves_next e ?_
  repeat' first
    | with_reducible assumption
    | refine fun (_ : Evolves _ _) => ?_
    | with_reducible apply evolves_iff
    | with_reducible apply evolves_whenLive
    | (with_reducible apply evolves_mk; with_reducible exact rfl; (first | with_reducible assumption | split))
    | intro x

theorem State.handBack_ev {s0 : State} {s : State} (hev : Evolves s0 s) :
    Evolves s0 (State.handBack s) := by
  unfold State.handBack
  repeat' first
    | with_reducible assumption
    | refine fun (_ : Evolves _ _) => ?_
    | with_reducible apply evolves_iff
    | with_reducible apply evolves_whenLive
    | with_reducible apply evolves_forEach
    | with_reducible apply State.trxChanged_ev
    | with_reducible apply evolves_ite
    | (with_reducible apply evolves_mk; (first | with_reducible exact rfl | (dsimp only; exact rfl)); (first | with_reducible assumption | with_reducible apply evolves_iff | with_reducible apply evolves_whenLive | with_reducible apply evolves_forEach | with_reducible apply State.trxChanged_ev | with_reducible apply evolves_ite | split))
    | (intro x; refine evolves_cut (s0 := s0) (x := x) ?_ ?_; rotate_left; clear_value x; intro hx; rotate_left; subst x)
    | intro x
    | split
    | lift_lets
    | dsimp only

theorem State.writeTrx8_ev {s0 : State} {s : State} (v : Nat) (w : Writer) (hev : Evolves s0 s) :
    Evolves s0 (State.writeTrx8 s v w).1 := by
  unfold State.writeTrx8
  repeat' first
    | with_reducible assumption
    | refine fun (_ : Evolves _ _) => ?_
    | with_reducible apply evolves_iff
    | with_reducible apply evolves_whenLive
    | with_reducible apply evolves_forEach
    | with_reducible apply State.endTest_ev
    | with_reducible apply State.handBack_ev
    | with_reducible apply State.writeReg_ev
    | with_reducible apply evolves_ite
    | with_reducible apply evolves_ite_fst
    | refine State.writeReg_eq (by assumption) ?_
    | (with_reducible apply evolves_mk; (first | with_reducible exact rfl | (dsimp only; exact rfl)); (first | with_reducible assumption | with_reducible apply evolves_iff | with_reducible apply evolves_whenLive | with_reducible apply evolves_forEach | with_reducible apply State.endTest_ev | with_reducible apply State.handBack_ev | with_reducible apply State.writeReg_ev | with_reducible apply evolves_ite | with_reducible apply evolves_ite_fst | refine State.writeReg_eq (by assumption) ?_ | split))
    | (intro x; refine evolves_cut (s0 := s0) (x := x) ?_ ?_; rotate_left; clear_value x; intro hx; rotate_left; subst x)
    | (intro x; refine evolves_cut_snd (s0 := s0) (x := x) ?_ ?_; rotate_left; clear_value x; intro hx; rotate_left; subst x)
    | (intro x; refine evolves_cut_fst (s0 := s0) (x := x) ?_ ?_; rotate_left; clear_value x; intro hx; rotate_left; subst x)
    | intro x
    | split
    | lift_lets
    | dsimp only

theorem State.writeTrx8_eq {s0 sx : State} {s : State} {v : Nat} {w : Writer} {qx : Reason} (e : (State.writeTrx8 s v w) = (sx, qx))
    (hev : Evolves s0 s) : Evolves s0 sx := by
  have g := State.writeTrx8_ev v w hev
  rw [e] at g
  exact g

theorem execTrx8Takeover_ev {s0 s1 : State} (value : Word) (w : Writer) {s : State} (e : execTrx8Takeover value w s = .next s1)
    (hev : Evolves s0 s) : Evolves s0 s1 := by
  unfold execTrx8Takeover at e
  refine evolves_next e ?_
  repeat' first
    | with_reducible assumption
    | refine fun (_ : Evolves _ _) => ?_
    | with_reducible apply evolves_whenLive
    | with_reducible apply State.writeTrx8_ev
    | intro x

theorem State.stopGrove_ev {s0 : State} {s : State} (t : Nat) (hev : Evolves s0 s) :
    Evolves s0 (State.stopGrove s t) := by
  unfold State.stopGrove
  repeat' first
    | with_reducible assumption
    | refine fun (_ : Evolves _ _) => ?_
    | with_reducible apply evolves_forEach
    | with_reducible apply State.markRadioLoss_ev
    | with_reducible apply State.post_ev
    | with_reducible apply State.recordNode_ev
    | with_reducible apply evolves_ite
    | (with_reducible apply evolves_mk; with_reducible exact rfl; with_reducible assumption)
    | intro x

theorem State.replaceTrx_ev {s0 : State} {s : State} (t : Nat) (hev : Evolves s0 s) :
    Evolves s0 (State.replaceTrx s t) := by
  unfold State.replaceTrx
  repeat' first
    | with_reducible assumption
    | with_reducible apply State.stopGrove_ev
    | with_reducible apply evolves_ite
    | (with_reducible apply evolves_mk; with_reducible exact rfl; (first | with_reducible apply State.cutSlice_ev | with_reducible apply State.endTest_ev | split))

theorem State.loseTrx8_ev {s0 : State} {s : State} (hev : Evolves s0 s) :
    Evolves s0 (State.loseTrx8 s) := by
  unfold State.loseTrx8
  repeat' first
    | with_reducible assumption
    | with_reducible apply State.stopGrove_ev
    | with_reducible apply evolves_ite
    | (with_reducible apply evolves_mk; with_reducible exact rfl; (first | with_reducible assumption | with_reducible apply State.cutSlices_ev | split))

theorem State.trxFault_ev {s0 : State} {s : State} (t : Nat) (hev : Evolves s0 s) :
    Evolves s0 (State.trxFault s t) := by
  unfold State.trxFault
  repeat' first
    | with_reducible assumption
    | with_reducible apply State.cutSlices_ev
    | with_reducible apply State.endTest_ev
    | with_reducible apply State.fell_ev
    | with_reducible apply State.loseTrx8_ev
    | with_reducible apply State.modTrx_ev
    | with_reducible apply State.recordEvent_ev
    | with_reducible apply State.replaceTrx_ev
    | with_reducible apply State.trxChanged_ev
    | with_reducible apply evolves_ite

theorem execTransceiverFault_ev {s0 s1 : State} (t : Fin 9) {s : State} (e : execTransceiverFault t s = .next s1)
    (hev : Evolves s0 s) : Evolves s0 s1 := by
  unfold execTransceiverFault at e
  refine evolves_next e ?_
  repeat' first
    | with_reducible assumption
    | refine fun (_ : Evolves _ _) => ?_
    | with_reducible apply evolves_whenLive
    | with_reducible apply State.trxFault_ev
    | intro x

theorem State.writeRadCtrl_ev {s0 : State} {s : State} (v : Nat) (w : Writer) (hev : Evolves s0 s) :
    Evolves s0 (State.writeRadCtrl s v w).1 := by
  unfold State.writeRadCtrl
  repeat' first
    | with_reducible assumption
    | refine fun (_ : Evolves _ _) => ?_
    | with_reducible apply evolves_forEach
    | with_reducible apply State.trxChanged_ev
    | with_reducible apply State.writeReg_ev
    | with_reducible apply evolves_ite
    | (with_reducible apply evolves_mk; with_reducible exact rfl; with_reducible apply State.writeReg_ev)
    | intro x

theorem State.writeRadCtrl_eq {s0 sx : State} {s : State} {v : Nat} {w : Writer} {qx : Reason} (e : (State.writeRadCtrl s v w) = (sx, qx))
    (hev : Evolves s0 s) : Evolves s0 sx := by
  have g := State.writeRadCtrl_ev v w hev
  rw [e] at g
  exact g

theorem execRadCntClr_ev {s0 s1 : State} (value : Word) (w : Writer) {s : State} (e : execRadCntClr value w s = .next s1)
    (hev : Evolves s0 s) : Evolves s0 s1 := by
  unfold execRadCntClr at e
  refine evolves_next e ?_
  repeat' first
    | with_reducible assumption
    | refine fun (_ : Evolves _ _) => ?_
    | with_reducible apply evolves_whenLive
    | with_reducible apply State.writeRadCtrl_ev
    | intro x

theorem State.writeTrx_ev {s0 : State} {s : State} (t v : Nat) (w : Writer) (hev : Evolves s0 s) :
    Evolves s0 (State.writeTrx s t v w).1 := by
  unfold State.writeTrx
  repeat' first
    | with_reducible assumption
    | with_reducible apply State.modTrx_ev
    | with_reducible apply State.trxChanged_ev
    | with_reducible apply State.writeReg_ev
    | with_reducible apply evolves_ite_fst

theorem State.writeTrx_eq {s0 sx : State} {s : State} {t v : Nat} {w : Writer} {qx : Reason} (e : (State.writeTrx s t v w) = (sx, qx))
    (hev : Evolves s0 s) : Evolves s0 sx := by
  have g := State.writeTrx_ev t v w hev
  rw [e] at g
  exact g

theorem execTrxCtrlWrite_ev {s0 s1 : State} (t : Fin 9) (value : Word) (w : Writer) {s : State} (e : execTrxCtrlWrite t value w s = .next s1)
    (hev : Evolves s0 s) : Evolves s0 s1 := by
  unfold execTrxCtrlWrite at e
  refine evolves_next e ?_
  repeat' first
    | with_reducible assumption
    | refine fun (_ : Evolves _ _) => ?_
    | with_reducible apply evolves_whenLive
    | with_reducible apply State.writeTrx_ev
    | intro x

theorem State.writeSafeIe_ev {s0 : State} {s : State} (v : Nat) (w : Writer) (hev : Evolves s0 s) :
    Evolves s0 (State.writeSafeIe s v w).1 := by
  unfold State.writeSafeIe
  repeat' first
    | with_reducible assumption
    | with_reducible apply State.writeReg_ev
    | with_reducible apply evolves_ite_fst
    | (with_reducible apply evolves_mk; with_reducible exact rfl; with_reducible apply State.writeReg_ev)

theorem State.writeSafeIe_eq {s0 sx : State} {s : State} {v : Nat} {w : Writer} {qx : Reason} (e : (State.writeSafeIe s v w) = (sx, qx))
    (hev : Evolves s0 s) : Evolves s0 sx := by
  have g := State.writeSafeIe_ev v w hev
  rw [e] at g
  exact g

theorem execSafeieWrite_ev {s0 s1 : State} (value : Word) (w : Writer) {s : State} (e : execSafeieWrite value w s = .next s1)
    (hev : Evolves s0 s) : Evolves s0 s1 := by
  unfold execSafeieWrite at e
  refine evolves_next e ?_
  repeat' first
    | with_reducible assumption
    | refine fun (_ : Evolves _ _) => ?_
    | with_reducible apply evolves_whenLive
    | with_reducible apply State.writeSafeIe_ev
    | intro x

theorem State.ledgerRead_ev {s0 : State} {s : State} (hev : Evolves s0 s) :
    Evolves s0 (State.ledgerRead s) := by
  unfold State.ledgerRead
  repeat' first
    | with_reducible assumption
    | with_reducible apply State.setReg_ev
    | (with_reducible apply evolves_mk; with_reducible exact rfl; with_reducible apply State.setReg_ev)

theorem execLedgerRead_ev {s0 s1 : State} {s : State} (e : execLedgerRead s = .next s1)
    (hev : Evolves s0 s) : Evolves s0 s1 := by
  unfold execLedgerRead at e
  refine evolves_next e ?_
  repeat' first
    | with_reducible assumption
    | with_reducible apply evolves_whenLive
    | with_reducible apply State.ledgerRead_ev

theorem State.ledgerWrite_ev {s0 : State} {s : State} (hev : Evolves s0 s) :
    Evolves s0 (State.ledgerWrite s) := by
  unfold State.ledgerWrite
  repeat' first | (with_reducible apply evolves_mk; with_reducible exact rfl; with_reducible assumption)

theorem execLedgerWrite_ev {s0 s1 : State} {s : State} (e : execLedgerWrite s = .next s1)
    (hev : Evolves s0 s) : Evolves s0 s1 := by
  unfold execLedgerWrite at e
  refine evolves_next e ?_
  repeat' first
    | with_reducible assumption
    | with_reducible apply evolves_whenLive
    | with_reducible apply State.ledgerWrite_ev

theorem State.ledgerClear_ev {s0 : State} {s : State} (hev : Evolves s0 s) :
    Evolves s0 (State.ledgerClear s) := by
  unfold State.ledgerClear
  repeat' first | (with_reducible apply evolves_mk; with_reducible exact rfl; with_reducible assumption)

theorem execLedgerClear_ev {s0 s1 : State} {s : State} (e : execLedgerClear s = .next s1)
    (hev : Evolves s0 s) : Evolves s0 s1 := by
  unfold execLedgerClear at e
  refine evolves_next e ?_
  repeat' first
    | with_reducible assumption
    | with_reducible apply evolves_whenLive
    | with_reducible apply State.ledgerClear_ev

end Sys2Proof.Machine
end

