-- ==== Sys2Proof/Laws/EvDim.lean ====
section
/-! SUPPORT. Every operation of Machine/Dim.lean lets the state grow (Safety.lean). -/

set_option Elab.async false

namespace Sys2Proof.Machine

theorem execKcFeedbackChange_ev {s0 s1 : State} (k : Fin 4) (level : Bool) {s : State} (e : execKcFeedbackChange k level s = .next s1)
    (hev : Evolves s0 s) : Evolves s0 s1 := by
  unfold execKcFeedbackChange at e
  refine evolves_next e ?_
  repeat' first
    | with_reducible assumption
    | refine fun (_ : Evolves _ _) => ?_
    | with_reducible apply evolves_whenLive
    | with_reducible apply State.kcFeedback_ev
    | with_reducible apply State.post_ev
    | (with_reducible apply evolves_mk; with_reducible exact rfl; with_reducible assumption)
    | intro x

theorem State.kcRetry_ev {s0 : State} {s : State} (k : Nat) (st : KcState) (hev : Evolves s0 s) :
    Evolves s0 (State.kcRetry s k st) := by
  unfold State.kcRetry
  repeat' first | with_reducible assumption | with_reducible apply State.modKc_ev

theorem State.kcFault_ev {s0 : State} {s : State} (k : Nat) (hev : Evolves s0 s) :
    Evolves s0 (State.kcFault s k) := by
  unfold State.kcFault
  repeat' first
    | with_reducible assumption
    | with_reducible apply State.modKc_ev
    | with_reducible apply State.postTile_ev
    | with_reducible apply State.recordKc_ev

theorem execContactorFeedbackTimeout_ev {s0 s1 : State} (k : Fin 4) {s : State} (e : execContactorFeedbackTimeout k s = .next s1)
    (hev : Evolves s0 s) : Evolves s0 s1 := by
  unfold execContactorFeedbackTimeout at e
  refine evolves_next e ?_
  repeat' first
    | with_reducible assumption
    | refine fun (_ : Evolves _ _) => ?_
    | with_reducible apply evolves_whenLive
    | with_reducible apply State.kcFault_ev
    | with_reducible apply State.kcRetry_ev
    | with_reducible apply State.kcSettle_ev
    | with_reducible apply evolves_ite
    | (with_reducible apply evolves_mk; with_reducible exact rfl; split)
    | intro x

theorem execContactorRetryPulseEnd_ev {s0 s1 : State} (k : Fin 4) {s : State} (e : execContactorRetryPulseEnd k s = .next s1)
    (hev : Evolves s0 s) : Evolves s0 s1 := by
  unfold execContactorRetryPulseEnd at e
  refine evolves_next e ?_
  repeat' first
    | with_reducible assumption
    | refine fun (_ : Evolves _ _) => ?_
    | with_reducible apply evolves_whenLive
    | with_reducible apply State.kcFeedback_ev
    | with_reducible apply State.modKc_ev
    | with_reducible apply evolves_ite
    | intro x

theorem State.endBin_ev {s0 : State} {s : State} (bin : Nat × Nat × Nat) (e : List Byte) (hev : Evolves s0 s) :
    Evolves s0 (State.endBin s bin e) := by
  unfold State.endBin
  repeat' first
    | with_reducible assumption
    | with_reducible apply State.putRoute_ev
    | with_reducible apply evolves_ite

theorem execRouteBinEnd_ev {s0 s1 : State} {s : State} (e : execRouteBinEnd s = .next s1)
    (hev : Evolves s0 s) : Evolves s0 s1 := by
  unfold execRouteBinEnd at e
  refine evolves_next e ?_
  repeat' first
    | with_reducible assumption
    | refine fun (_ : Evolves _ _) => ?_
    | with_reducible apply evolves_whenLive
    | with_reducible apply State.endBin_ev
    | with_reducible apply evolves_ite
    | (with_reducible apply evolves_mk; with_reducible exact rfl; (first | with_reducible assumption | with_reducible apply evolves_forEach | split))
    | intro x

theorem State.retune_ev {s0 : State} {s : State} (bin : Cn × Nat × Nat) (e : List Byte) (hev : Evolves s0 s) :
    Evolves s0 (State.retune s bin e) := by
  unfold State.retune
  repeat' first
    | with_reducible assumption
    | with_reducible apply State.loadRoute_ev
    | with_reducible apply State.recordRoute_ev
    | with_reducible apply evolves_ite
    | refine State.bookEach_eq (by assumption) ?_
    | (with_reducible apply evolves_mk; with_reducible exact rfl; split)

theorem execRouteRetune_ev {s0 s1 : State} {s : State} (e : execRouteRetune s = .next s1)
    (hev : Evolves s0 s) : Evolves s0 s1 := by
  unfold execRouteRetune at e
  refine evolves_next e ?_
  repeat' first
    | with_reducible assumption
    | refine fun (_ : Evolves _ _) => ?_
    | with_reducible apply evolves_whenLive
    | with_reducible apply evolves_forEach
    | with_reducible apply State.retune_ev
    | (with_reducible apply evolves_mk; with_reducible exact rfl; split)
    | intro x

theorem State.routeStart_ev {s0 : State} {s : State} (w : Wave) (e : List Byte) (l : Nat) (hev : Evolves s0 s) :
    Evolves s0 (State.routeStart s w e l) := by
  unfold State.routeStart
  repeat' first
    | with_reducible assumption
    | with_reducible apply State.startPe_ev
    | with_reducible apply evolves_ite
    | (with_reducible apply evolves_mk; with_reducible exact rfl; split)

theorem State.raiseLum_ev {s0 : State} {s : State} (w : Wave) (ramp l : Nat) (hev : Evolves s0 s) :
    Evolves s0 (State.raiseLum s w ramp l) := by
  unfold State.raiseLum
  repeat' first | with_reducible assumption | with_reducible apply State.modLum_ev

theorem State.relayWave_ev {s0 : State} {s : State} (g place : Nat) (w : Wave) (hev : Evolves s0 s) :
    Evolves s0 (State.relayWave s g place w) := by
  unfold State.relayWave
  repeat' first | with_reducible assumption | with_reducible apply State.hold_ev

theorem State.noteWave_ev {s0 : State} {s : State} (group : Nat) (w : Wave) (relayed : Bool) (hev : Evolves s0 s) :
    Evolves s0 (State.noteWave s group w relayed) := by
  unfold State.noteWave
  repeat' first | (with_reducible apply evolves_mk; with_reducible exact rfl; with_reducible assumption)

theorem State.waveAt_ev {s0 : State} {s : State} (g : Nat) (w : Wave) (e : List Byte) (m : Nat) (place : Nat) (hev : Evolves s0 s) :
    Evolves s0 (State.waveAt s g w e m place) := by
  unfold State.waveAt
  repeat' first
    | with_reducible assumption
    | refine fun (_ : Evolves _ _) => ?_
    | with_reducible apply evolves_iff
    | with_reducible apply evolves_forEach
    | with_reducible apply State.noteWave_ev
    | with_reducible apply State.raiseLum_ev
    | with_reducible apply State.relayWave_ev
    | with_reducible apply State.routeStart_ev
    | intro x

theorem execWaveReceived_ev {s0 s1 : State} (grove : Fin 8) (wave : Wave) {s : State} (e : execWaveReceived grove wave s = .next s1)
    (hev : Evolves s0 s) : Evolves s0 s1 := by
  unfold execWaveReceived at e
  refine evolves_next e ?_
  repeat' first
    | with_reducible assumption
    | refine fun (_ : Evolves _ _) => ?_
    | with_reducible apply evolves_iff
    | with_reducible apply evolves_whenLive
    | with_reducible apply evolves_forEach
    | with_reducible apply State.postTile_ev
    | with_reducible apply State.waveAt_ev
    | with_reducible apply evolves_ite
    | (with_reducible apply evolves_mk; with_reducible exact rfl; split)
    | intro x

theorem execWaveHoldEnd_ev {s0 s1 : State} (l : Fin 32) {s : State} (e : execWaveHoldEnd l s = .next s1)
    (hev : Evolves s0 s) : Evolves s0 s1 := by
  unfold execWaveHoldEnd at e
  refine evolves_next e ?_
  repeat' first
    | with_reducible assumption
    | refine fun (_ : Evolves _ _) => ?_
    | with_reducible apply evolves_iff
    | with_reducible apply evolves_whenLive
    | with_reducible apply State.modLum_ev
    | (with_reducible apply evolves_mk; with_reducible exact rfl; split)
    | intro x

end Sys2Proof.Machine
end

