-- ==== Sys2Proof/Laws/EvTimebase.lean ====
section
/-! SUPPORT. Every operation of Machine/Timebase.lean lets the state grow (Safety.lean). -/

set_option Elab.async false

namespace Sys2Proof.Machine

theorem State.noteFreeRun_ev {s0 : State} {s : State} (hev : Evolves s0 s) :
    Evolves s0 (State.noteFreeRun s) := by
  unfold State.noteFreeRun
  repeat' first
    | with_reducible assumption
    | with_reducible apply evolves_ite
    | (with_reducible apply evolves_mk; with_reducible exact rfl; with_reducible assumption)

theorem State.mainsTimeout_ev {s0 : State} {s : State} (at_ : Nat) (hev : Evolves s0 s) :
    Evolves s0 (State.mainsTimeout s at_) := by
  unfold State.mainsTimeout
  repeat' first
    | with_reducible assumption
    | with_reducible apply State.advanceTo_ev
    | with_reducible apply State.mainsEvent_ev
    | with_reducible apply State.noteFreeRun_ev
    | with_reducible apply State.startCount_ev
    | with_reducible apply evolves_ite
    | (with_reducible apply evolves_mk; (simp +zetaDelta only [TimeSt.absenceFrom_history, TimeSt.absenceFrom_captures]; exact rfl); with_reducible apply evolves_ite)

theorem execMainsTimeout_ev {s0 s1 : State} (tick : Nat) {s : State} (e : execMainsTimeout tick s = .next s1)
    (hev : Evolves s0 s) : Evolves s0 s1 := by
  unfold execMainsTimeout at e
  refine evolves_next e ?_
  repeat' first
    | with_reducible assumption
    | refine fun (_ : Evolves _ _) => ?_
    | with_reducible apply evolves_whenLive
    | with_reducible apply State.mainsTimeout_ev
    | intro x

theorem execTimeSnap_ev {s0 s1 : State} (value : Word) (tick : Nat) {s : State} (e : execTimeSnap value tick s = .next s1)
    (hev : Evolves s0 s) : Evolves s0 s1 := by
  unfold execTimeSnap at e
  refine evolves_next e ?_
  repeat' first
    | with_reducible assumption
    | refine fun (_ : Evolves _ _) => ?_
    | with_reducible apply evolves_iff
    | with_reducible apply evolves_whenLive
    | with_reducible apply State.advanceTo_ev
    | (with_reducible apply evolves_mk; with_reducible exact rfl; with_reducible assumption)
    | intro x

theorem State.prpPath_ev {s0 : State} {s : State} (p : Fin 2) (hev : Evolves s0 s) :
    Evolves s0 (State.prpPath s p) := by
  unfold State.prpPath
  repeat' first
    | with_reducible assumption
    | with_reducible apply evolves_ite
    | (with_reducible apply evolves_mk; with_reducible exact rfl; (first | with_reducible assumption | split))

theorem State.deliver_ev {s0 : State} {s : State} (p : Fin 2) (hev : Evolves s0 s) :
    Evolves s0 (State.deliver s p) := by
  unfold State.deliver
  repeat' first
    | with_reducible assumption
    | refine fun (_ : Evolves _ _) => ?_
    | with_reducible apply evolves_iff
    | with_reducible apply evolves_whenLive
    | with_reducible apply evolves_forEach
    | with_reducible apply evolves_ite
    | (with_reducible apply evolves_mk; (first | with_reducible exact rfl | (dsimp only; exact rfl)); (first | with_reducible assumption | with_reducible apply evolves_iff | with_reducible apply evolves_whenLive | with_reducible apply evolves_forEach | with_reducible apply evolves_ite | split))
    | (intro x; refine evolves_cut (s0 := s0) (x := x) ?_ ?_; rotate_left; clear_value x; intro hx; rotate_left; subst x)
    | intro x
    | split
    | lift_lets
    | dsimp only

theorem State.ptpReceive_ev {s0 : State} {s : State} (p : Fin 2) (m : PtpMsg) (hev : Evolves s0 s) :
    Evolves s0 (State.ptpReceive s p m) := by
  unfold State.ptpReceive
  repeat' first
    | with_reducible assumption
    | refine fun (_ : Evolves _ _) => ?_
    | with_reducible apply evolves_iff
    | with_reducible apply evolves_whenLive
    | with_reducible apply evolves_forEach
    | with_reducible apply State.deliver_ev
    | with_reducible apply State.emit_ev
    | with_reducible apply State.malformed_ev
    | with_reducible apply State.offset_ev
    | with_reducible apply State.prpPath_ev
    | with_reducible apply State.ptpViolation_ev
    | with_reducible apply evolves_ite
    | (with_reducible apply evolves_mk; (first | with_reducible exact rfl | (dsimp only; exact rfl)); (first | with_reducible assumption | with_reducible apply evolves_iff | with_reducible apply evolves_whenLive | with_reducible apply evolves_forEach | with_reducible apply State.deliver_ev | with_reducible apply State.emit_ev | with_reducible apply State.malformed_ev | with_reducible apply State.offset_ev | with_reducible apply State.prpPath_ev | with_reducible apply State.ptpViolation_ev | with_reducible apply evolves_ite | split))
    | (intro x; refine evolves_cut (s0 := s0) (x := x) ?_ ?_; rotate_left; clear_value x; intro hx; rotate_left; subst x)
    | intro x
    | split
    | lift_lets
    | dsimp only

theorem execPtpMessage_ev {s0 s1 : State} (port : Fin 2) (tick : Nat) (msg : PtpMsg) {s : State} (e : execPtpMessage port tick msg s = .next s1)
    (hev : Evolves s0 s) : Evolves s0 s1 := by
  unfold execPtpMessage at e
  refine evolves_next e ?_
  repeat' first
    | with_reducible assumption
    | refine fun (_ : Evolves _ _) => ?_
    | with_reducible apply evolves_iff
    | with_reducible apply evolves_whenLive
    | with_reducible apply State.advanceTo_ev
    | with_reducible apply State.ptpReceive_ev
    | intro x

theorem execPtpPortUnmute_ev {s0 s1 : State} (port : Fin 2) {s : State} (e : execPtpPortUnmute port s = .next s1)
    (hev : Evolves s0 s) : Evolves s0 s1 := by
  unfold execPtpPortUnmute at e
  refine evolves_next e ?_
  repeat' first
    | with_reducible assumption
    | refine fun (_ : Evolves _ _) => ?_
    | with_reducible apply evolves_iff
    | with_reducible apply evolves_whenLive
    | (with_reducible apply evolves_mk; with_reducible exact rfl; (first | with_reducible assumption | split))
    | intro x

theorem execPtpSourceMiss_ev {s0 s1 : State} (port : Fin 2) (announce : Bool) {s : State} (e : execPtpSourceMiss port announce s = .next s1)
    (hev : Evolves s0 s) : Evolves s0 s1 := by
  unfold execPtpSourceMiss at e
  refine evolves_next e ?_
  repeat' first
    | with_reducible assumption
    | refine fun (_ : Evolves _ _) => ?_
    | with_reducible apply evolves_iff
    | with_reducible apply evolves_whenLive
    | with_reducible apply State.sourceLost_ev
    | (with_reducible apply evolves_mk; with_reducible exact rfl; with_reducible assumption)
    | intro x
    | split

theorem execPpsInEdge_ev {s0 s1 : State} (rising : Bool) (tick : Nat) {s : State} (e : execPpsInEdge rising tick s = .next s1)
    (hev : Evolves s0 s) : Evolves s0 s1 := by
  unfold execPpsInEdge at e
  refine evolves_next e ?_
  repeat' first
    | with_reducible assumption
    | refine fun (_ : Evolves _ _) => ?_
    | with_reducible apply evolves_iff
    | with_reducible apply evolves_whenLive
    | with_reducible apply evolves_forEach
    | with_reducible apply State.advanceTo_ev
    | with_reducible apply State.offset_ev
    | with_reducible apply evolves_ite
    | (with_reducible apply evolves_mk; (first | with_reducible exact rfl | (dsimp only; exact rfl)); (first | with_reducible assumption | with_reducible apply evolves_iff | with_reducible apply evolves_whenLive | with_reducible apply evolves_forEach | with_reducible apply State.advanceTo_ev | with_reducible apply State.offset_ev | with_reducible apply evolves_ite | split))
    | (intro x; refine evolves_cut (s0 := s0) (x := x) ?_ ?_; rotate_left; clear_value x; intro hx; rotate_left; subst x)
    | intro x
    | split
    | lift_lets
    | dsimp only

theorem execPpsInMiss_ev {s0 s1 : State} {s : State} (e : execPpsInMiss s = .next s1)
    (hev : Evolves s0 s) : Evolves s0 s1 := by
  unfold execPpsInMiss at e
  refine evolves_next e ?_
  repeat' first
    | with_reducible assumption
    | refine fun (_ : Evolves _ _) => ?_
    | with_reducible apply evolves_iff
    | with_reducible apply evolves_whenLive
    | with_reducible apply State.sourceLost_ev
    | (with_reducible apply evolves_mk; with_reducible exact rfl; with_reducible assumption)
    | intro x

theorem State.rearm_ev {s0 : State} {s : State} (hev : Evolves s0 s) :
    Evolves s0 (State.rearm s) := by
  unfold State.rearm
  repeat' first
    | (with_reducible apply evolves_mk; (first | with_reducible exact rfl | (simp +zetaDelta only [TimeSt.enterLocking_history, TimeSt.enterLocking_captures]; exact rfl)); (first | with_reducible assumption | split))

theorem State.dropSources_ev {s0 : State} {s : State} (hev : Evolves s0 s) :
    Evolves s0 (State.dropSources s) := by
  unfold State.dropSources
  repeat' first
    | with_reducible assumption
    | refine fun (_ : Evolves _ _) => ?_
    | with_reducible apply evolves_iff
    | with_reducible apply evolves_whenLive
    | with_reducible apply evolves_forEach
    | with_reducible apply evolves_ite
    | (with_reducible apply evolves_mk; (first | with_reducible exact rfl | (dsimp only; exact rfl)); (first | with_reducible assumption | with_reducible apply evolves_iff | with_reducible apply evolves_whenLive | with_reducible apply evolves_forEach | with_reducible apply evolves_ite | split))
    | (intro x; refine evolves_cut (s0 := s0) (x := x) ?_ ?_; rotate_left; clear_value x; intro hx; rotate_left; subst x)
    | intro x
    | split
    | lift_lets
    | dsimp only

theorem State.writeTimeCtrl_ev {s0 : State} {s : State} (v : Nat) (w : Writer) (hev : Evolves s0 s) :
    Evolves s0 (State.writeTimeCtrl s v w).1 := by
  unfold State.writeTimeCtrl
  repeat' first
    | with_reducible assumption
    | refine fun (_ : Evolves _ _) => ?_
    | with_reducible apply evolves_iff
    | with_reducible apply evolves_whenLive
    | with_reducible apply evolves_forEach
    | with_reducible apply State.checkSource_ev
    | with_reducible apply State.dropSources_ev
    | with_reducible apply State.rearm_ev
    | with_reducible apply State.writeReg_ev
    | with_reducible apply evolves_ite
    | with_reducible apply evolves_ite_fst
    | refine State.writeReg_eq (by assumption) ?_
    | (with_reducible apply evolves_mk; (first | with_reducible exact rfl | (dsimp only; exact rfl)); (first | with_reducible assumption | with_reducible apply evolves_iff | with_reducible apply evolves_whenLive | with_reducible apply evolves_forEach | with_reducible apply State.checkSource_ev | with_reducible apply State.dropSources_ev | with_reducible apply State.rearm_ev | with_reducible apply State.writeReg_ev | with_reducible apply evolves_ite | with_reducible apply evolves_ite_fst | refine State.writeReg_eq (by assumption) ?_ | split))
    | (intro x; refine evolves_cut (s0 := s0) (x := x) ?_ ?_; rotate_left; clear_value x; intro hx; rotate_left; subst x)
    | (intro x; refine evolves_cut_snd (s0 := s0) (x := x) ?_ ?_; rotate_left; clear_value x; intro hx; rotate_left; subst x)
    | (intro x; refine evolves_cut_fst (s0 := s0) (x := x) ?_ ?_; rotate_left; clear_value x; intro hx; rotate_left; subst x)
    | intro x
    | split
    | lift_lets
    | dsimp only

theorem State.writeTimeCtrl_eq {s0 sx : State} {s : State} {v : Nat} {w : Writer} {qx : Reason} (e : (State.writeTimeCtrl s v w) = (sx, qx))
    (hev : Evolves s0 s) : Evolves s0 sx := by
  have g := State.writeTimeCtrl_ev v w hev
  rw [e] at g
  exact g

theorem execTimeRearm_ev {s0 s1 : State} (value : Word) (w : Writer) {s : State} (e : execTimeRearm value w s = .next s1)
    (hev : Evolves s0 s) : Evolves s0 s1 := by
  unfold execTimeRearm at e
  refine evolves_next e ?_
  repeat' first
    | with_reducible assumption
    | refine fun (_ : Evolves _ _) => ?_
    | with_reducible apply evolves_whenLive
    | with_reducible apply State.writeTimeCtrl_ev
    | intro x

theorem execTimeSrcWrite_ev {s0 s1 : State} (value : Word) (w : Writer) {s : State} (e : execTimeSrcWrite value w s = .next s1)
    (hev : Evolves s0 s) : Evolves s0 s1 := by
  unfold execTimeSrcWrite at e
  refine evolves_next e ?_
  repeat' first
    | with_reducible assumption
    | refine fun (_ : Evolves _ _) => ?_
    | with_reducible apply evolves_whenLive
    | with_reducible apply State.writeTimeCtrl_ev
    | intro x

theorem State.writeMainsCfg_ev {s0 : State} {s : State} (v : Nat) (w : Writer) (hev : Evolves s0 s) :
    Evolves s0 (State.writeMainsCfg s v w).1 := by
  unfold State.writeMainsCfg
  repeat' first | with_reducible assumption | with_reducible apply State.writeReg_ev

theorem State.writeMainsCfg_eq {s0 sx : State} {s : State} {v : Nat} {w : Writer} {qx : Reason} (e : (State.writeMainsCfg s v w) = (sx, qx))
    (hev : Evolves s0 s) : Evolves s0 sx := by
  have g := State.writeMainsCfg_ev v w hev
  rw [e] at g
  exact g

theorem execMainsCfgWrite_ev {s0 s1 : State} (value : Word) (w : Writer) {s : State} (e : execMainsCfgWrite value w s = .next s1)
    (hev : Evolves s0 s) : Evolves s0 s1 := by
  unfold execMainsCfgWrite at e
  refine evolves_next e ?_
  repeat' first
    | with_reducible assumption
    | refine fun (_ : Evolves _ _) => ?_
    | with_reducible apply evolves_whenLive
    | with_reducible apply State.writeMainsCfg_ev
    | intro x

theorem State.syncPulse_ev {s0 : State} {s : State} (hev : Evolves s0 s) :
    Evolves s0 (State.syncPulse s) := by
  unfold State.syncPulse
  repeat' first
    | with_reducible assumption
    | with_reducible apply State.syncEvent_ev
    | with_reducible apply evolves_ite
    | (with_reducible apply evolves_mk; with_reducible exact rfl; with_reducible assumption)

theorem execSyncInPulse_ev {s0 s1 : State} (rising : Bool) (tick widthUs : Nat) {s : State} (e : execSyncInPulse rising tick widthUs s = .next s1)
    (hev : Evolves s0 s) : Evolves s0 s1 := by
  unfold execSyncInPulse at e
  refine evolves_next e ?_
  repeat' first
    | with_reducible assumption
    | refine fun (_ : Evolves _ _) => ?_
    | with_reducible apply evolves_iff
    | with_reducible apply evolves_whenLive
    | with_reducible apply State.advanceTo_ev
    | with_reducible apply State.syncPulse_ev
    | intro x

theorem State.writeSyncCtrl_ev {s0 : State} {s : State} (v : Nat) (w : Writer) (hev : Evolves s0 s) :
    Evolves s0 (State.writeSyncCtrl s v w).1 := by
  unfold State.writeSyncCtrl
  repeat' first
    | with_reducible assumption
    | refine fun (_ : Evolves _ _) => ?_
    | with_reducible apply evolves_iff
    | with_reducible apply State.writeReg_ev
    | (with_reducible apply evolves_mk; with_reducible exact rfl; with_reducible assumption)
    | intro x

theorem State.writeSyncCtrl_eq {s0 sx : State} {s : State} {v : Nat} {w : Writer} {qx : Reason} (e : (State.writeSyncCtrl s v w) = (sx, qx))
    (hev : Evolves s0 s) : Evolves s0 sx := by
  have g := State.writeSyncCtrl_ev v w hev
  rw [e] at g
  exact g

theorem execSyncRealign_ev {s0 s1 : State} (value : Word) (w : Writer) {s : State} (e : execSyncRealign value w s = .next s1)
    (hev : Evolves s0 s) : Evolves s0 s1 := by
  unfold execSyncRealign at e
  refine evolves_next e ?_
  repeat' first
    | with_reducible assumption
    | refine fun (_ : Evolves _ _) => ?_
    | with_reducible apply evolves_whenLive
    | with_reducible apply State.writeSyncCtrl_ev
    | intro x

theorem State.realignStep_ev {s0 : State} {s : State} (hev : Evolves s0 s) :
    Evolves s0 (State.realignStep s).2 := by
  unfold State.realignStep
  repeat' first
    | with_reducible assumption
    | with_reducible apply State.syncEvent_ev
    | with_reducible apply evolves_ite_snd
    | (with_reducible apply evolves_mk; with_reducible exact rfl; with_reducible assumption)

theorem State.realignStep_eq {s0 sx : State} {s : State} {qx : Int} (e : (State.realignStep s) = (qx, sx))
    (hev : Evolves s0 s) : Evolves s0 sx := by
  have g := State.realignStep_ev  hev
  rw [e] at g
  exact g

theorem State.modTrigger_ev {s0 : State} {s : State} (k : Fin 16) (f : Trigger → Trigger) (hev : Evolves s0 s) :
    Evolves s0 (State.modTrigger s k f) := by
  unfold State.modTrigger
  repeat' first | (with_reducible apply evolves_mk; with_reducible exact rfl; with_reducible assumption)

theorem State.trgEvent_ev {s0 : State} {s : State} (k : Fin 16) (kind : Nat) (hev : Evolves s0 s) :
    Evolves s0 (State.trgEvent s k kind) := by
  unfold State.trgEvent
  repeat' first
    | with_reducible assumption
    | refine fun (_ : Evolves _ _) => ?_
    | with_reducible apply evolves_iff
    | with_reducible apply State.post_ev
    | intro x

theorem State.armTrigger_ev {s0 : State} {s : State} (k : Fin 16) (hev : Evolves s0 s) :
    Evolves s0 (State.armTrigger s k) := by
  unfold State.armTrigger
  repeat' first
    | with_reducible assumption
    | with_reducible apply State.modTrigger_ev
    | with_reducible apply State.record_ev
    | with_reducible apply State.trgEvent_ev
    | with_reducible apply evolves_ite

theorem State.writeTrigger_ev {s0 : State} {s : State} (k : Fin 16) (v : Nat) (w : Writer) (hev : Evolves s0 s) :
    Evolves s0 (State.writeTrigger s k v w).1 := by
  unfold State.writeTrigger
  repeat' first
    | with_reducible assumption
    | with_reducible apply State.armTrigger_ev
    | with_reducible apply State.modTrigger_ev
    | with_reducible apply State.recordWrite_ev
    | with_reducible apply State.writeReg_ev
    | with_reducible apply evolves_ite

theorem State.writeTrigger_eq {s0 sx : State} {s : State} {k : Fin 16} {v : Nat} {w : Writer} {qx : Reason} (e : (State.writeTrigger s k v w) = (sx, qx))
    (hev : Evolves s0 s) : Evolves s0 sx := by
  have g := State.writeTrigger_ev k v w hev
  rw [e] at g
  exact g

theorem execTriggerArm_ev {s0 s1 : State} (unit : Fin 16) (value : Word) (tick : Nat) (w : Writer) {s : State} (e : execTriggerArm unit value tick w s = .next s1)
    (hev : Evolves s0 s) : Evolves s0 s1 := by
  unfold execTriggerArm at e
  refine evolves_next e ?_
  repeat' first
    | with_reducible assumption
    | refine fun (_ : Evolves _ _) => ?_
    | with_reducible apply evolves_whenLive
    | with_reducible apply State.advanceTo_ev
    | with_reducible apply State.writeTrigger_ev
    | intro x

theorem State.capture_ev {s0 s : State} (c : Fin 7) (rising : Bool) (sub : Nat) (hev : Evolves s0 s) :
    Evolves s0 (s.capture c rising sub) := by
  unfold State.capture
  refine evolves_ite _ (evolves_ite' (fun hl => ?_) fun _ => ?_) hev
  · refine State.post_ev _ _ _ (evolves_time hev id (captures_lmod _ _ fun _ => ?_))
    simp only [List.length_append, List.length_cons, List.length_nil]
    omega
  · exact State.post_ev _ _ _ (evolves_time hev id (captures_lmod _ _ id))

theorem execCaptureEdge_ev {s0 s1 : State} (channel : Fin 7) (rising : Bool) (tick : Nat) (sub : Fin 10) {s : State} (e : execCaptureEdge channel rising tick sub s = .next s1)
    (hev : Evolves s0 s) : Evolves s0 s1 := by
  unfold execCaptureEdge at e
  refine evolves_next e ?_
  repeat' first
    | with_reducible assumption
    | refine fun (_ : Evolves _ _) => ?_
    | with_reducible apply evolves_whenLive
    | with_reducible apply State.advanceTo_ev
    | with_reducible apply State.capture_ev
    | with_reducible apply evolves_ite
    | (with_reducible apply evolves_mk; with_reducible exact rfl; with_reducible apply State.capture_ev)
    | intro x

theorem State.popCapture_ev {s0 s : State} (c : Nat) (hev : Evolves s0 s) : Evolves s0 (s.popCapture c) := by
  unfold State.popCapture
  refine evolves_time hev id (captures_lmod _ _ fun _ => ?_)
  simp only [List.length_drop]
  omega

theorem State.clearOvr_ev {s0 s : State} (c v : Nat) (hev : Evolves s0 s) : Evolves s0 (s.clearOvr c v) := by
  unfold State.clearOvr
  exact evolves_time hev id (captures_lmod _ _ id)

theorem execCapturePop_ev {s0 s1 : State} (channel : Fin 7) (value : Word) {s : State} (e : execCapturePop channel value s = .next s1)
    (hev : Evolves s0 s) : Evolves s0 s1 := by
  unfold execCapturePop at e
  refine evolves_next e ?_
  repeat' first
    | with_reducible assumption
    | refine fun (_ : Evolves _ _) => ?_
    | with_reducible apply evolves_iff
    | with_reducible apply evolves_whenLive
    | with_reducible apply State.popCapture_ev
    | intro x

theorem State.mainsBack_ev {s0 : State} {s : State} (ofs : Int) (hev : Evolves s0 s) :
    Evolves s0 (State.mainsBack s ofs) := by
  unfold State.mainsBack
  repeat' first
    | with_reducible apply State.mainsEvent_ev
    | (with_reducible apply evolves_mk; (first | with_reducible exact rfl | (simp +zetaDelta only [TimeSt.absenceEnds_history, TimeSt.absenceEnds_captures]; exact rfl)); with_reducible assumption)
    | intro x
    | split
    | lift_lets
    | dsimp only

theorem State.moveProvisional_ev {s0 : State} {s : State} (ref : Int) (at_ : Cn) (hev : Evolves s0 s) :
    Evolves s0 (State.moveProvisional s ref at_) := by
  unfold State.moveProvisional
  repeat' first
    | with_reducible assumption
    | with_reducible apply State.rebaseEvent_ev
    | with_reducible apply State.shiftCn_ev
    | with_reducible apply evolves_ite
    | (with_reducible apply evolves_mk; with_reducible exact rfl; (first | with_reducible assumption | split))

theorem State.trackCrossing_ev {s0 s : State} (ofs : Int) (period : Option Nat) (hev : Evolves s0 s) :
    Evolves s0 (s.trackCrossing ofs period) := by
  have g : ∀ t : TimeSt, t.history = s.time.history → t.captures = s.time.captures → Evolves s0 { s with time := t } :=
    fun t h1 h2 => evolves_time hev (by rw [h1]; exact id) (by rw [h2]; exact id)
  unfold State.trackCrossing
  dsimp only
  refine g _ ?_ ?_ <;> (repeat' split) <;> simp

theorem TimeSt.keep_history (t : TimeSt) (c : Crossing) : (t.keep c).history.length ≤ 1024 := by
  unfold TimeSt.keep
  simp only [List.length_drop, List.length_append, List.length_cons, List.length_nil]
  omega

theorem TimeSt.keep_captures (t : TimeSt) (c : Crossing) : (t.keep c).captures = t.captures := by
  unfold TimeSt.keep
  rfl

theorem State.keepCrossing_ev {s0 s : State} (c : Crossing) (hev : Evolves s0 s) : Evolves s0 (s.keepCrossing c) := by
  unfold State.keepCrossing
  refine evolves_time hev (fun _ => TimeSt.keep_history _ _) fun h => ?_
  rw [TimeSt.keep_captures]
  exact h

theorem State.validCrossing_ev {s0 : State} {s : State} (cross ofs period : Int) (first : Bool) (hev : Evolves s0 s) :
    Evolves s0 (State.validCrossing s cross ofs period first) := by
  unfold State.validCrossing
  repeat' first
    | with_reducible assumption
    | with_reducible apply State.holdoverUpdate_ev
    | with_reducible apply State.mainsBack_ev
    | with_reducible apply State.moveProvisional_ev
    | with_reducible apply State.trackCrossing_ev
    | with_reducible apply evolves_ite
    | (with_reducible apply evolves_mk; with_reducible exact rfl; with_reducible apply State.keepCrossing_ev)
    | intro x
    | split
    | lift_lets
    | dsimp only

theorem State.crossing_ev {s0 : State} {s : State} (ofs : Int) (hev : Evolves s0 s) :
    Evolves s0 (State.crossing s ofs) := by
  unfold State.crossing
  repeat' first
    | with_reducible apply State.startCount_ev
    | with_reducible apply State.validCrossing_ev
    | with_reducible apply evolves_ite
    | (with_reducible apply evolves_mk; with_reducible exact rfl; (first | with_reducible assumption | with_reducible apply State.keepCrossing_ev))

end Sys2Proof.Machine
end

