-- ==== Sys2Proof/Laws/EvDrive.lean ====
section
/-! SUPPORT. Every operation of Machine/Drive.lean lets the state grow (Safety.lean). -/

set_option Elab.async false

namespace Sys2Proof.Machine

theorem State.learnPoint_ev {s0 : State} {s : State} (c : Nat) (i : Nat) (hev : Evolves s0 s) :
    Evolves s0 (State.learnPoint s c i) := by
  unfold State.learnPoint
  repeat' first
    | with_reducible assumption
    | with_reducible apply State.setReg_ev
    | (with_reducible apply evolves_mk; with_reducible exact rfl; split)

theorem State.learnPoints_ev {s0 : State} {s : State} (c : Nat) (hev : Evolves s0 s) :
    Evolves s0 (State.learnPoints s c) := by
  unfold State.learnPoints
  repeat' first
    | with_reducible assumption
    | refine fun (_ : Evolves _ _) => ?_
    | with_reducible apply evolves_forEach
    | with_reducible apply State.learnPoint_ev
    | with_reducible apply State.modCh_ev
    | (with_reducible apply evolves_mk; with_reducible exact rfl; split)
    | intro x

theorem State.pwmFrame_ev {s0 : State} {s : State} (meas : List ChMeas) (ntc : List (Fin 8 × Nat)) (base : Option Int) (hev : Evolves s0 s) :
    Evolves s0 (State.pwmFrame s meas ntc base) := by
  unfold State.pwmFrame
  repeat' first
    | with_reducible assumption
    | refine fun (_ : Evolves _ _) => ?_
    | with_reducible apply evolves_forEach
    | with_reducible apply State.advanceTo_ev
    | with_reducible apply State.dieFrames_ev
    | with_reducible apply State.frameMeasured_ev
    | with_reducible apply State.learnPoints_ev
    | with_reducible apply State.ntcRead_ev
    | with_reducible apply evolves_ite
    | (with_reducible apply evolves_mk; with_reducible exact rfl; (first | with_reducible apply State.advanceTo_ev | with_reducible apply State.frameAt_ev | split))
    | intro x

theorem execPwmFrameStart_ev {s0 s1 : State} (meas : List ChMeas) (ntc : List (Fin 8 × Nat)) (base : Option Int) {s : State} (e : execPwmFrameStart meas ntc base s = .next s1)
    (hev : Evolves s0 s) : Evolves s0 s1 := by
  unfold execPwmFrameStart at e
  refine evolves_next e ?_
  repeat' first
    | with_reducible assumption
    | refine fun (_ : Evolves _ _) => ?_
    | with_reducible apply evolves_whenLive
    | with_reducible apply State.pwmFrame_ev
    | intro x

theorem execStringRetry_ev {s0 s1 : State} (c : Fin 32) {s : State} (e : execStringRetry c s = .next s1)
    (hev : Evolves s0 s) : Evolves s0 s1 := by
  unfold execStringRetry at e
  refine evolves_next e ?_
  repeat' first
    | with_reducible assumption
    | refine fun (_ : Evolves _ _) => ?_
    | with_reducible apply evolves_whenLive
    | with_reducible apply State.modCh_ev
    | with_reducible apply evolves_ite
    | (with_reducible apply evolves_mk; with_reducible exact rfl; split)
    | intro x

theorem State.dieHolds_ev {s0 : State} {s : State} (c why : Nat) (hev : Evolves s0 s) :
    Evolves s0 (State.dieHolds s c why) := by
  unfold State.dieHolds
  repeat' first | with_reducible assumption | with_reducible apply State.modCh_ev

theorem execDieOvercurrent_ev {s0 s1 : State} (c : Fin 32) (again : Bool) {s : State} (e : execDieOvercurrent c again s = .next s1)
    (hev : Evolves s0 s) : Evolves s0 s1 := by
  unfold execDieOvercurrent at e
  refine evolves_next e ?_
  repeat' first
    | with_reducible assumption
    | refine fun (_ : Evolves _ _) => ?_
    | with_reducible apply evolves_whenLive
    | with_reducible apply State.dieHolds_ev
    | with_reducible apply State.hardwareLimit_ev
    | with_reducible apply State.modCh_ev
    | with_reducible apply evolves_ite
    | intro x

theorem execDieOvervoltage_ev {s0 s1 : State} (c : Fin 32) {s : State} (e : execDieOvervoltage c s = .next s1)
    (hev : Evolves s0 s) : Evolves s0 s1 := by
  unfold execDieOvervoltage at e
  refine evolves_next e ?_
  repeat' first
    | with_reducible assumption
    | refine fun (_ : Evolves _ _) => ?_
    | with_reducible apply evolves_whenLive
    | with_reducible apply State.dieHolds_ev
    | with_reducible apply State.hardwareLimit_ev
    | with_reducible apply evolves_ite
    | intro x

theorem State.halfOff_ev {s0 : State} {s : State} (h : Nat) (hev : Evolves s0 s) :
    Evolves s0 (State.halfOff s h) := by
  unfold State.halfOff
  repeat' first
    | with_reducible assumption
    | refine fun (_ : Evolves _ _) => ?_
    | with_reducible apply evolves_forEach
    | with_reducible apply State.modCh_ev
    | intro x

theorem execGateSupplyLow_ev {s0 s1 : State} (die : Fin 10) {s : State} (e : execGateSupplyLow die s = .next s1)
    (hev : Evolves s0 s) : Evolves s0 s1 := by
  unfold execGateSupplyLow at e
  refine evolves_next e ?_
  repeat' first
    | with_reducible assumption
    | refine fun (_ : Evolves _ _) => ?_
    | with_reducible apply evolves_whenLive
    | with_reducible apply State.halfOff_ev
    | with_reducible apply State.hardwareLimit_ev
    | (with_reducible apply evolves_mk; with_reducible exact rfl; (first | with_reducible assumption | split))
    | intro x

theorem execGateSupplyRestored_ev {s0 s1 : State} (die : Fin 10) {s : State} (e : execGateSupplyRestored die s = .next s1)
    (hev : Evolves s0 s) : Evolves s0 s1 := by
  unfold execGateSupplyRestored at e
  refine evolves_next e ?_
  repeat' first
    | with_reducible assumption
    | refine fun (_ : Evolves _ _) => ?_
    | with_reducible apply evolves_whenLive
    | (with_reducible apply evolves_mk; with_reducible exact rfl; with_reducible assumption)
    | intro x

theorem State.startLearn_ev {s0 : State} {s : State} (c : Nat) (hev : Evolves s0 s) :
    Evolves s0 (State.startLearn s c) := by
  unfold State.startLearn
  repeat' first
    | with_reducible assumption
    | with_reducible apply State.modCh_ev
    | with_reducible apply State.setReg_ev
    | with_reducible apply evolves_ite

theorem State.clearString_ev {s0 : State} {s : State} (c : Nat) (hev : Evolves s0 s) :
    Evolves s0 (State.clearString s c) := by
  unfold State.clearString
  repeat' first | with_reducible assumption | with_reducible apply State.modCh_ev | with_reducible apply evolves_ite

theorem State.writeChCmd_ev {s0 : State} {s : State} (c v : Nat) (w : Writer) (hev : Evolves s0 s) :
    Evolves s0 (State.writeChCmd s c v w).1 := by
  unfold State.writeChCmd
  repeat' first
    | with_reducible assumption
    | with_reducible apply State.clearString_ev
    | with_reducible apply State.startLearn_ev
    | with_reducible apply State.writeReg_ev
    | with_reducible apply evolves_ite

theorem State.writeChCmd_eq {s0 sx : State} {s : State} {c v : Nat} {w : Writer} {qx : Reason} (e : (State.writeChCmd s c v w) = (sx, qx))
    (hev : Evolves s0 s) : Evolves s0 sx := by
  have g := State.writeChCmd_ev c v w hev
  rw [e] at g
  exact g

theorem execStringLearn_ev {s0 s1 : State} (c : Fin 32) (w : Writer) {s : State} (e : execStringLearn c w s = .next s1)
    (hev : Evolves s0 s) : Evolves s0 s1 := by
  unfold execStringLearn at e
  refine evolves_next e ?_
  repeat' first
    | with_reducible assumption
    | refine fun (_ : Evolves _ _) => ?_
    | with_reducible apply evolves_whenLive
    | with_reducible apply State.writeChCmd_ev
    | intro x

theorem execStringLearnDone_ev {s0 s1 : State} (c : Fin 32) {s : State} (e : execStringLearnDone c s = .next s1)
    (hev : Evolves s0 s) : Evolves s0 s1 := by
  unfold execStringLearnDone at e
  refine evolves_next e ?_
  repeat' first
    | with_reducible assumption
    | refine fun (_ : Evolves _ _) => ?_
    | with_reducible apply evolves_whenLive
    | with_reducible apply State.learnPoints_ev
    | with_reducible apply State.modCh_ev
    | with_reducible apply evolves_ite
    | (with_reducible apply evolves_mk; with_reducible exact rfl; split)
    | intro x

theorem execStringClear_ev {s0 s1 : State} (c : Fin 32) (w : Writer) {s : State} (e : execStringClear c w s = .next s1)
    (hev : Evolves s0 s) : Evolves s0 s1 := by
  unfold execStringClear at e
  refine evolves_next e ?_
  repeat' first
    | with_reducible assumption
    | refine fun (_ : Evolves _ _) => ?_
    | with_reducible apply evolves_whenLive
    | with_reducible apply State.writeChCmd_ev
    | intro x

theorem State.writeDrvCtrl_ev {s0 : State} {s : State} (v : Nat) (w : Writer) (hev : Evolves s0 s) :
    Evolves s0 (State.writeDrvCtrl s v w).1 := by
  unfold State.writeDrvCtrl
  repeat' first
    | with_reducible assumption
    | with_reducible apply State.writeReg_ev
    | with_reducible apply evolves_ite
    | (with_reducible apply evolves_mk; with_reducible exact rfl; with_reducible apply State.writeReg_ev)

theorem State.writeDrvCtrl_eq {s0 sx : State} {s : State} {v : Nat} {w : Writer} {qx : Reason} (e : (State.writeDrvCtrl s v w) = (sx, qx))
    (hev : Evolves s0 s) : Evolves s0 sx := by
  have g := State.writeDrvCtrl_ev v w hev
  rw [e] at g
  exact g

theorem execDrvCntClr_ev {s0 s1 : State} (value : Word) (w : Writer) {s : State} (e : execDrvCntClr value w s = .next s1)
    (hev : Evolves s0 s) : Evolves s0 s1 := by
  unfold execDrvCntClr at e
  refine evolves_next e ?_
  repeat' first
    | with_reducible assumption
    | refine fun (_ : Evolves _ _) => ?_
    | with_reducible apply evolves_whenLive
    | with_reducible apply State.writeDrvCtrl_ev
    | intro x

theorem execNtcFault_ev {s0 s1 : State} (n : Fin 8) (mv : Nat) {s : State} (e : execNtcFault n mv s = .next s1)
    (hev : Evolves s0 s) : Evolves s0 s1 := by
  unfold execNtcFault at e
  refine evolves_next e ?_
  repeat' first
    | with_reducible assumption
    | refine fun (_ : Evolves _ _) => ?_
    | with_reducible apply evolves_whenLive
    | with_reducible apply evolves_forEach
    | with_reducible apply State.postTile_ev
    | with_reducible apply evolves_ite
    | (with_reducible apply evolves_mk; with_reducible exact rfl; with_reducible assumption)
    | intro x

theorem State.freeSpare_ev {s0 : State} {s : State} (die : Nat) (hev : Evolves s0 s) :
    Evolves s0 (State.freeSpare s die) := by
  unfold State.freeSpare
  repeat' first
    | with_reducible assumption
    | with_reducible apply State.cutSlice_ev
    | (with_reducible apply evolves_mk; with_reducible exact rfl; (first | with_reducible assumption | split))

theorem State.halfFails_ev {s0 : State} {s : State} (die : Nat) (hev : Evolves s0 s) :
    Evolves s0 (State.halfFails s die) := by
  unfold State.halfFails
  repeat' first
    | with_reducible assumption
    | with_reducible apply State.cutSlices_ev
    | with_reducible apply State.fell_ev
    | with_reducible apply State.freeSpare_ev
    | with_reducible apply evolves_ite
    | (with_reducible apply evolves_mk; with_reducible exact rfl; (first | with_reducible apply State.halfOff_ev | split))

theorem execHalfFailure_ev {s0 s1 : State} (die : Fin 10) {s : State} (e : execHalfFailure die s = .next s1)
    (hev : Evolves s0 s) : Evolves s0 s1 := by
  unfold execHalfFailure at e
  refine evolves_next e ?_
  repeat' first
    | with_reducible assumption
    | refine fun (_ : Evolves _ _) => ?_
    | with_reducible apply evolves_whenLive
    | with_reducible apply State.halfFails_ev
    | intro x

theorem State.estimate_ev {s0 : State} {s : State} (g : Nat) (m : List Int) (hev : Evolves s0 s) :
    Evolves s0 (State.estimate s g m).2 := by
  unfold State.estimate
  repeat' first
    | with_reducible assumption
    | with_reducible apply State.drawNat_ev
    | with_reducible apply evolves_ite_snd

theorem State.estimate_eq {s0 sx : State} {s : State} {g : Nat} {m : List Int} {qx : (Nat × Nat)} (e : (State.estimate s g m) = (qx, sx))
    (hev : Evolves s0 s) : Evolves s0 sx := by
  have g := State.estimate_ev g m hev
  rw [e] at g
  exact g

theorem State.showWindow_ev {s0 : State} {s : State} (g : Nat) (m : List Int) (hev : Evolves s0 s) :
    Evolves s0 (State.showWindow s g m) := by
  unfold State.showWindow
  repeat' first | with_reducible assumption | with_reducible apply State.modTw_ev

theorem State.learnWindow_ev {s0 : State} {s : State} (g : Nat) (n : TwLearn) (m : List Int) (hev : Evolves s0 s) :
    Evolves s0 (State.learnWindow s g n m) := by
  unfold State.learnWindow
  repeat' first | with_reducible assumption | with_reducible apply State.modTw_ev | with_reducible apply evolves_ite

theorem State.groupWindow_ev {s0 : State} {s : State} (port : Nat) (inBand : Bool) (range : Nat) (readings : List Nat) (sat : List Bool) (g : Nat) (hev : Evolves s0 s) :
    Evolves s0 (State.groupWindow s port inBand range readings sat g) := by
  unfold State.groupWindow
  repeat' first
    | with_reducible assumption
    | with_reducible apply State.estimate_ev
    | with_reducible apply State.learnWindow_ev
    | with_reducible apply State.modTw_ev
    | with_reducible apply State.postTile_ev
    | with_reducible apply State.showWindow_ev
    | with_reducible apply evolves_ite
    | (with_reducible apply evolves_mk; with_reducible exact rfl; split)

theorem State.colourWindow_ev {s0 : State} {s : State} (port : Nat) (readings : List Nat) (sat : List Bool) (hev : Evolves s0 s) :
    Evolves s0 (State.colourWindow s port readings sat) := by
  unfold State.colourWindow
  repeat' first
    | with_reducible assumption
    | refine fun (_ : Evolves _ _) => ?_
    | with_reducible apply State.groupWindow_ev
    | with_reducible apply State.postTile_ev
    | with_reducible apply State.setReg_ev
    | with_reducible apply evolves_ite
    | (with_reducible apply evolves_mk; with_reducible exact rfl; (first | with_reducible assumption | with_reducible apply evolves_forEach))
    | intro x

theorem execColourWindowEnd_ev {s0 s1 : State} (port : Fin 4) (x y z c : Fin 1048576) (sat : List Bool) {s : State} (e : execColourWindowEnd port x y z c sat s = .next s1)
    (hev : Evolves s0 s) : Evolves s0 s1 := by
  unfold execColourWindowEnd at e
  refine evolves_next e ?_
  repeat' first
    | with_reducible assumption
    | refine fun (_ : Evolves _ _) => ?_
    | with_reducible apply evolves_iff
    | with_reducible apply evolves_whenLive
    | with_reducible apply State.colourWindow_ev
    | intro x

theorem State.colourTick_ev {s0 : State} {s : State} (hev : Evolves s0 s) :
    Evolves s0 (State.colourTick s) := by
  unfold State.colourTick
  repeat' first
    | with_reducible assumption
    | refine fun (_ : Evolves _ _) => ?_
    | with_reducible apply evolves_forEach
    | with_reducible apply State.modTw_ev
    | with_reducible apply evolves_ite
    | (with_reducible apply evolves_mk; with_reducible exact rfl; split)
    | intro x

theorem State.writeTwCfg_ev {s0 : State} {s : State} (g v : Nat) (w : Writer) (hev : Evolves s0 s) :
    Evolves s0 (State.writeTwCfg s g v w).1 := by
  unfold State.writeTwCfg
  repeat' first
    | with_reducible assumption
    | refine fun (_ : Evolves _ _) => ?_
    | with_reducible apply evolves_forEach
    | with_reducible apply State.modCh_ev
    | with_reducible apply State.modTw_ev
    | with_reducible apply State.writeReg_ev
    | with_reducible apply evolves_ite_fst
    | intro x

theorem State.writeTwCfg_eq {s0 sx : State} {s : State} {g v : Nat} {w : Writer} {qx : Reason} (e : (State.writeTwCfg s g v w) = (sx, qx))
    (hev : Evolves s0 s) : Evolves s0 sx := by
  have g := State.writeTwCfg_ev g v w hev
  rw [e] at g
  exact g

theorem execTwLearn_ev {s0 s1 : State} (g : Fin 4) (w : Writer) {s : State} (e : execTwLearn g w s = .next s1)
    (hev : Evolves s0 s) : Evolves s0 s1 := by
  unfold execTwLearn at e
  refine evolves_next e ?_
  repeat' first
    | with_reducible assumption
    | refine fun (_ : Evolves _ _) => ?_
    | with_reducible apply evolves_whenLive
    | with_reducible apply State.writeTwCfg_ev
    | intro x

theorem State.writePeCtrl_ev {s0 : State} {s : State} (p v : Nat) (w : Writer) (hev : Evolves s0 s) :
    Evolves s0 (State.writePeCtrl s p v w).1 := by
  unfold State.writePeCtrl
  repeat' first
    | with_reducible assumption
    | with_reducible apply State.endPe_ev
    | with_reducible apply State.modPe_ev
    | with_reducible apply State.writeReg_ev
    | with_reducible apply evolves_ite
    | with_reducible apply evolves_ite_fst

theorem State.writePeCtrl_eq {s0 sx : State} {s : State} {p v : Nat} {w : Writer} {qx : Reason} (e : (State.writePeCtrl s p v w) = (sx, qx))
    (hev : Evolves s0 s) : Evolves s0 sx := by
  have g := State.writePeCtrl_ev p v w hev
  rw [e] at g
  exact g

theorem execPeStart_ev {s0 s1 : State} (p : Fin 8) (w : Writer) {s : State} (e : execPeStart p w s = .next s1)
    (hev : Evolves s0 s) : Evolves s0 s1 := by
  unfold execPeStart at e
  refine evolves_next e ?_
  repeat' first
    | with_reducible assumption
    | refine fun (_ : Evolves _ _) => ?_
    | with_reducible apply evolves_whenLive
    | with_reducible apply State.writePeCtrl_ev
    | intro x

theorem execPeStop_ev {s0 s1 : State} (p : Fin 8) (w : Writer) {s : State} (e : execPeStop p w s = .next s1)
    (hev : Evolves s0 s) : Evolves s0 s1 := by
  unfold execPeStop at e
  refine evolves_next e ?_
  repeat' first
    | with_reducible assumption
    | refine fun (_ : Evolves _ _) => ?_
    | with_reducible apply evolves_whenLive
    | with_reducible apply State.writePeCtrl_ev
    | intro x

theorem execPeTimedStart_ev {s0 s1 : State} (p : Fin 8) (tick : Nat) {s : State} (e : execPeTimedStart p tick s = .next s1)
    (hev : Evolves s0 s) : Evolves s0 s1 := by
  unfold execPeTimedStart at e
  refine evolves_next e ?_
  repeat' first
    | with_reducible assumption
    | refine fun (_ : Evolves _ _) => ?_
    | with_reducible apply evolves_whenLive
    | with_reducible apply State.advanceTo_ev
    | with_reducible apply State.modPe_ev
    | with_reducible apply State.startPe_ev
    | with_reducible apply evolves_ite
    | intro x

theorem execIncInEdge_ev {s0 s1 : State} (rising : Bool) (tick : Nat) (sub : Fin 10) {s : State} (e : execIncInEdge rising tick sub s = .next s1)
    (hev : Evolves s0 s) : Evolves s0 s1 := by
  unfold execIncInEdge at e
  refine evolves_next e ?_
  repeat' first
    | with_reducible assumption
    | refine fun (_ : Evolves _ _) => ?_
    | with_reducible apply evolves_whenLive
    | with_reducible apply State.capture_ev
    | with_reducible apply State.post_ev
    | (with_reducible apply evolves_mk; with_reducible exact rfl; with_reducible apply State.advanceTo_ev)
    | intro x

theorem State.recordEvac_ev {s0 : State} {s : State} (p what : Nat) (hev : Evolves s0 s) :
    Evolves s0 (State.recordEvac s p what) := by
  unfold State.recordEvac
  repeat' first | with_reducible assumption | with_reducible apply State.record_ev

theorem execEvacStart_ev {s0 s1 : State} {s : State} (e : execEvacStart s = .next s1)
    (hev : Evolves s0 s) : Evolves s0 s1 := by
  unfold execEvacStart at e
  refine evolves_next e ?_
  repeat' first
    | with_reducible assumption
    | refine fun (_ : Evolves _ _) => ?_
    | with_reducible apply evolves_whenLive
    | with_reducible apply State.postTile_ev
    | with_reducible apply State.recordEvac_ev
    | with_reducible apply evolves_ite
    | (with_reducible apply evolves_mk; with_reducible exact rfl; with_reducible apply State.startPe_ev)
    | intro x

theorem State.endEvac_ev {s0 : State} {s : State} (hev : Evolves s0 s) :
    Evolves s0 (State.endEvac s) := by
  unfold State.endEvac
  repeat' first
    | with_reducible assumption
    | with_reducible apply State.endPe_ev
    | with_reducible apply State.postTile_ev
    | with_reducible apply State.recordEvac_ev
    | (with_reducible apply evolves_mk; with_reducible exact rfl; split)

theorem execEvacEnd_ev {s0 s1 : State} {s : State} (e : execEvacEnd s = .next s1)
    (hev : Evolves s0 s) : Evolves s0 s1 := by
  unfold execEvacEnd at e
  refine evolves_next e ?_
  repeat' first
    | with_reducible assumption
    | refine fun (_ : Evolves _ _) => ?_
    | with_reducible apply evolves_whenLive
    | with_reducible apply State.endEvac_ev
    | with_reducible apply evolves_ite
    | intro x

theorem State.writeIncCtrl_ev {s0 : State} {s : State} (v : Nat) (w : Writer) (hev : Evolves s0 s) :
    Evolves s0 (State.writeIncCtrl s v w).1 := by
  unfold State.writeIncCtrl
  repeat' first
    | with_reducible assumption
    | with_reducible apply State.endEvac_ev
    | with_reducible apply State.writeReg_ev
    | with_reducible apply evolves_ite

theorem State.writeIncCtrl_eq {s0 sx : State} {s : State} {v : Nat} {w : Writer} {qx : Reason} (e : (State.writeIncCtrl s v w) = (sx, qx))
    (hev : Evolves s0 s) : Evolves s0 sx := by
  have g := State.writeIncCtrl_ev v w hev
  rw [e] at g
  exact g

theorem execEvacRelease_ev {s0 s1 : State} (w : Writer) {s : State} (e : execEvacRelease w s = .next s1)
    (hev : Evolves s0 s) : Evolves s0 s1 := by
  unfold execEvacRelease at e
  refine evolves_next e ?_
  repeat' first
    | with_reducible assumption
    | refine fun (_ : Evolves _ _) => ?_
    | with_reducible apply evolves_whenLive
    | with_reducible apply State.writeIncCtrl_ev
    | intro x

theorem State.triggerChannel_ev {s0 : State} {s : State} (c : Nat) (hev : Evolves s0 s) :
    Evolves s0 (State.triggerChannel s c) := by
  unfold State.triggerChannel
  repeat' first
    | with_reducible assumption
    | with_reducible apply State.modCh_ev
    | with_reducible apply State.setChannel_ev
    | with_reducible apply evolves_ite

theorem State.drvTick_ev {s0 : State} {s : State} (hev : Evolves s0 s) :
    Evolves s0 (State.drvTick s) := by
  unfold State.drvTick
  repeat' first
    | with_reducible apply State.colourTick_ev
    | with_reducible apply State.startEngines_ev
    | (with_reducible apply evolves_mk; with_reducible exact rfl; with_reducible assumption)

theorem State.writePeStart_ev {s0 : State} {s : State} (a v : Nat) (w : Writer) (hev : Evolves s0 s) :
    Evolves s0 (State.writePeStart s a v w).1 := by
  unfold State.writePeStart
  repeat' first
    | with_reducible assumption
    | with_reducible apply State.modPe_ev
    | with_reducible apply State.writeReg_ev

theorem State.writePeStart_eq {s0 sx : State} {s : State} {a v : Nat} {w : Writer} {qx : Reason} (e : (State.writePeStart s a v w) = (sx, qx))
    (hev : Evolves s0 s) : Evolves s0 sx := by
  have g := State.writePeStart_ev a v w hev
  rw [e] at g
  exact g

theorem State.writeChStatus_ev {s0 : State} {s : State} (c v : Nat) (hev : Evolves s0 s) :
    Evolves s0 (State.writeChStatus s c v) := by
  unfold State.writeChStatus
  repeat' first | with_reducible assumption | with_reducible apply State.modCh_ev

theorem State.writeIncStatus_ev {s0 : State} {s : State} (v : Nat) (hev : Evolves s0 s) :
    Evolves s0 (State.writeIncStatus s v) := by
  unfold State.writeIncStatus
  repeat' first | (with_reducible apply evolves_mk; with_reducible exact rfl; with_reducible assumption)

end Sys2Proof.Machine
end

