-- ==== Sys2Proof/Laws/EvMtrOps.lean ====
section
/-! SUPPORT. Every operation of Machine/MtrOps.lean lets the state grow (Safety.lean). -/

set_option Elab.async false

namespace Sys2Proof.Machine

theorem State.modInt_ev {s0 : State} {s : State} (f : Nat) (g : FeederInt → FeederInt) (hev : Evolves s0 s) :
    Evolves s0 (State.modInt s f g) := by
  unfold State.modInt
  repeat' first | (with_reducible apply evolves_mk; with_reducible exact rfl; with_reducible assumption)

theorem State.modBal_ev {s0 : State} {s : State} (f : Nat) (g : FeederBal → FeederBal) (hev : Evolves s0 s) :
    Evolves s0 (State.modBal s f g) := by
  unfold State.modBal
  repeat' first | (with_reducible apply evolves_mk; with_reducible exact rfl; with_reducible assumption)

theorem State.flagInts_ev {s0 : State} {s : State} (fs : List Nat) (n : Nat) (hev : Evolves s0 s) :
    Evolves s0 (State.flagInts s fs n) := by
  unfold State.flagInts
  repeat' first
    | with_reducible assumption
    | refine fun (_ : Evolves _ _) => ?_
    | with_reducible apply evolves_forEach
    | with_reducible apply State.modInt_ev
    | intro x

theorem State.modMtrCh_ev {s0 : State} {s : State} (c : Nat) (f : MtrCh → MtrCh) (hev : Evolves s0 s) :
    Evolves s0 (State.modMtrCh s c f) := by
  unfold State.modMtrCh
  repeat' first | (with_reducible apply evolves_mk; with_reducible exact rfl; with_reducible assumption)

theorem State.gapRecord_ev {s0 : State} {s : State} (f : Nat) (c : GapClass) (cycles estimate : Nat) (closing : Bool) (hev : Evolves s0 s) :
    Evolves s0 (State.gapRecord s f c cycles estimate closing) := by
  unfold State.gapRecord
  repeat' first
    | with_reducible assumption
    | with_reducible apply State.enter_ev
    | with_reducible apply State.postTile_ev

theorem State.openGap_ev {s0 : State} {s : State} (f p : Nat) (c : GapClass) (hev : Evolves s0 s) :
    Evolves s0 (State.openGap s f p c) := by
  unfold State.openGap
  repeat' first
    | with_reducible assumption
    | refine fun (_ : Evolves _ _) => ?_
    | with_reducible apply evolves_iff
    | with_reducible apply State.flagInts_ev
    | with_reducible apply State.gapRecord_ev
    | with_reducible apply State.modBal_ev
    | with_reducible apply evolves_ite
    | (with_reducible apply evolves_mk; with_reducible exact rfl; with_reducible assumption)
    | intro x

theorem State.addPart_ev {s0 : State} {s : State} (g : Gap) (hev : Evolves s0 s) :
    Evolves s0 (State.addPart s g) := by
  unfold State.addPart
  repeat' first | with_reducible assumption | with_reducible apply State.modInt_ev

theorem State.closeGaps_ev {s0 : State} {s : State} (f : Nat) (c : GapClass) (phase : Nat → Bool) (hev : Evolves s0 s) :
    Evolves s0 (State.closeGaps s f c phase) := by
  unfold State.closeGaps
  repeat' first
    | with_reducible assumption
    | refine fun (_ : Evolves _ _) => ?_
    | with_reducible apply State.addPart_ev
    | with_reducible apply State.gapRecord_ev
    | with_reducible apply evolves_ite
    | (with_reducible apply evolves_mk; with_reducible exact rfl; with_reducible apply evolves_forEach)
    | intro x

theorem State.channelGaps_ev {s0 : State} {s : State} (hev : Evolves s0 s) :
    Evolves s0 (State.channelGaps s) := by
  unfold State.channelGaps
  repeat' first
    | with_reducible assumption
    | refine fun (_ : Evolves _ _) => ?_
    | with_reducible apply evolves_forEach
    | with_reducible apply State.closeGaps_ev
    | with_reducible apply State.openGap_ev
    | with_reducible apply evolves_ite
    | intro x

theorem State.accountPhase_ev {s0 : State} {s : State} (x : PhaseSum) (hev : Evolves s0 s) :
    Evolves s0 (State.accountPhase s x).2 := by
  unfold State.accountPhase
  repeat' first
    | with_reducible assumption
    | refine fun (_ : Evolves _ _) => ?_
    | with_reducible apply evolves_iff
    | with_reducible apply State.modBal_ev
    | with_reducible apply evolves_ite_snd
    | (with_reducible apply evolves_mk; with_reducible exact rfl; with_reducible assumption)
    | intro x

theorem State.accountPhase_eq {s0 sx : State} {s : State} {x : PhaseSum} {qx : Bool} (e : (State.accountPhase s x) = (qx, sx))
    (hev : Evolves s0 s) : Evolves s0 sx := by
  have g := State.accountPhase_ev x hev
  rw [e] at g
  exact g

theorem State.account_ev {s0 s : State} (l : List PhaseSum) (hev : Evolves s0 s) : Evolves s0 (s.account l) := by
  unfold State.account
  dsimp only
  refine evolves_mk rfl (evolves_foldl _ _ (fun a x h => ?_) hev)
  exact State.accountPhase_ev _ h

theorem State.checkpoint_ev {s0 : State} {s : State} (hev : Evolves s0 s) :
    Evolves s0 (State.checkpoint s) := by
  unfold State.checkpoint
  repeat' first
    | with_reducible apply State.postTile_ev
    | (with_reducible apply evolves_mk; with_reducible exact rfl; with_reducible assumption)

theorem State.takeSnapshot_ev {s0 : State} {s : State} (partialSums : List PhaseSum) (hev : Evolves s0 s) :
    Evolves s0 (State.takeSnapshot s partialSums) := by
  unfold State.takeSnapshot
  repeat' first
    | with_reducible apply State.postTile_ev
    | (with_reducible apply evolves_mk; with_reducible exact rfl; with_reducible assumption)

theorem State.loadMeter_ev {s0 : State} {s : State} (hev : Evolves s0 s) :
    Evolves s0 (State.loadMeter s) := by
  unfold State.loadMeter
  repeat' first
    | (with_reducible apply evolves_mk; with_reducible exact rfl; (first | with_reducible assumption | split))

theorem State.meterResume_ev {s0 : State} {s : State} (hev : Evolves s0 s) :
    Evolves s0 (State.meterResume s) := by
  unfold State.meterResume
  repeat' first
    | with_reducible assumption
    | refine fun (_ : Evolves _ _) => ?_
    | with_reducible apply evolves_iff
    | with_reducible apply evolves_whenLive
    | with_reducible apply evolves_forEach
    | with_reducible apply State.flagInts_ev
    | with_reducible apply State.modBal_ev
    | with_reducible apply State.modInt_ev
    | with_reducible apply evolves_ite
    | (with_reducible apply evolves_mk; (first | with_reducible exact rfl | (dsimp only; exact rfl)); (first | with_reducible assumption | with_reducible apply evolves_iff | with_reducible apply evolves_whenLive | with_reducible apply evolves_forEach | with_reducible apply State.flagInts_ev | with_reducible apply State.modBal_ev | with_reducible apply State.modInt_ev | with_reducible apply evolves_ite | split))
    | (intro x; refine evolves_cut (s0 := s0) (x := x) ?_ ?_; rotate_left; clear_value x; intro hx; rotate_left; subst x)
    | intro x
    | split
    | lift_lets
    | dsimp only

theorem State.settlePowerGap_ev {s0 : State} {s : State} (hev : Evolves s0 s) :
    Evolves s0 (State.settlePowerGap s) := by
  unfold State.settlePowerGap
  repeat' first
    | with_reducible assumption
    | refine fun (_ : Evolves _ _) => ?_
    | with_reducible apply evolves_forEach
    | with_reducible apply State.gapRecord_ev
    | with_reducible apply State.modInt_ev
    | (with_reducible apply evolves_mk; with_reducible exact rfl; (first | with_reducible assumption | split))
    | intro x

theorem State.recordBalance_ev {s0 : State} {s : State} (f : Nat) (r : BalResult) (hev : Evolves s0 s) :
    Evolves s0 (State.recordBalance s f r) := by
  unfold State.recordBalance
  repeat' first | with_reducible assumption | with_reducible apply State.record_ev

theorem State.balanceAlarm_ev {s0 : State} {s : State} (f : Nat) (r : BalResult) (hev : Evolves s0 s) :
    Evolves s0 (State.balanceAlarm s f r) := by
  unfold State.balanceAlarm
  repeat' first
    | with_reducible assumption
    | refine fun (_ : Evolves _ _) => ?_
    | with_reducible apply evolves_iff
    | with_reducible apply State.modBal_ev
    | with_reducible apply State.recordBalance_ev
    | with_reducible apply evolves_ite
    | intro x

theorem State.closeBalance_ev {s0 : State} {s : State} (f : Nat) (b : Balance) (hev : Evolves s0 s) :
    Evolves s0 (State.closeBalance s f b) := by
  unfold State.closeBalance
  repeat' first
    | with_reducible assumption
    | refine fun (_ : Evolves _ _) => ?_
    | with_reducible apply evolves_iff
    | with_reducible apply State.balanceAlarm_ev
    | with_reducible apply State.modBal_ev
    | with_reducible apply State.recordBalance_ev
    | intro x

theorem State.closeWhole_ev {s0 : State} {s : State} (f : Nat) (hev : Evolves s0 s) :
    Evolves s0 (State.closeWhole s f) := by
  unfold State.closeWhole
  repeat' first
    | with_reducible assumption
    | refine fun (_ : Evolves _ _) => ?_
    | with_reducible apply evolves_forEach
    | with_reducible apply State.closeBalance_ev
    | with_reducible apply evolves_ite
    | intro x

theorem State.balanceEnd_ev {s0 : State} {s : State} (f : Nat) (hev : Evolves s0 s) :
    Evolves s0 (State.balanceEnd s f) := by
  unfold State.balanceEnd
  repeat' first
    | with_reducible assumption
    | with_reducible apply State.closeWhole_ev
    | with_reducible apply State.modBal_ev
    | with_reducible apply State.postTile_ev
    | with_reducible apply evolves_ite

theorem State.renewBoundary_ev {s0 : State} {s : State} (hev : Evolves s0 s) :
    Evolves s0 (State.renewBoundary s) := by
  unfold State.renewBoundary
  repeat' first | (with_reducible apply evolves_mk; with_reducible exact rfl; with_reducible assumption)

theorem State.latchFeeder_ev {s0 : State} {s : State} (ofsUs : Nat) (missed : Bool) (f : Nat) (hev : Evolves s0 s) :
    Evolves s0 (State.latchFeeder s ofsUs missed f).2 := by
  unfold State.latchFeeder
  repeat' first
    | with_reducible apply State.modBal_ev
    | (with_reducible apply evolves_mk; with_reducible exact rfl; with_reducible assumption)

theorem State.latchFeeder_eq {s0 sx : State} {s : State} {ofsUs : Nat} {missed : Bool} {f : Nat} {qx : List Byte} (e : (State.latchFeeder s ofsUs missed f) = (qx, sx))
    (hev : Evolves s0 s) : Evolves s0 sx := by
  have g := State.latchFeeder_ev ofsUs missed f hev
  rw [e] at g
  exact g

theorem State.latchFeeders_ev {s0 s : State} (ofsUs : Nat) (missed : Bool) (hev : Evolves s0 s) :
    Evolves s0 (s.latchFeeders ofsUs missed).2 := by
  unfold State.latchFeeders
  refine evolves_foldl _ _ (fun _ _ h => ?_) hev
  exact State.latchFeeder_ev _ _ _ h

theorem State.latchFeeders_eq {s0 s sx : State} {ofsUs : Nat} {missed : Bool} {qx : List (List Byte)}
    (e : s.latchFeeders ofsUs missed = (qx, sx)) (hev : Evolves s0 s) : Evolves s0 sx := by
  have g := State.latchFeeders_ev ofsUs missed hev
  rw [e] at g
  exact g

theorem State.latch_ev {s0 : State} {s : State} (ofsUs : Nat) (missed : Bool) (hev : Evolves s0 s) :
    Evolves s0 (State.latch s ofsUs missed) := by
  unfold State.latch
  repeat' first
    | with_reducible assumption
    | refine fun (_ : Evolves _ _) => ?_
    | with_reducible apply evolves_iff
    | with_reducible apply evolves_forEach
    | with_reducible apply State.addPart_ev
    | with_reducible apply State.checkpoint_ev
    | with_reducible apply State.postTile_ev
    | with_reducible apply State.push_ev
    | with_reducible apply State.realignStep_ev
    | with_reducible apply State.renewBoundary_ev
    | with_reducible apply State.takeSnapshot_ev
    | (with_reducible apply evolves_mk; with_reducible exact rfl; (first | with_reducible apply State.latchFeeders_ev | with_reducible apply State.setReg_ev | split))
    | intro x

theorem State.closeDue_ev {s0 : State} {s : State} (f : Nat) (hev : Evolves s0 s) :
    Evolves s0 (State.closeDue s f) := by
  unfold State.closeDue
  repeat' first
    | with_reducible assumption
    | refine fun (_ : Evolves _ _) => ?_
    | with_reducible apply evolves_iff
    | with_reducible apply evolves_whenLive
    | with_reducible apply evolves_forEach
    | with_reducible apply State.closeBalance_ev
    | with_reducible apply evolves_ite
    | (with_reducible apply evolves_mk; (first | with_reducible exact rfl | (dsimp only; exact rfl)); (first | with_reducible assumption | with_reducible apply evolves_iff | with_reducible apply evolves_whenLive | with_reducible apply evolves_forEach | with_reducible apply State.closeBalance_ev | with_reducible apply evolves_ite | split))
    | (intro x; refine evolves_cut (s0 := s0) (x := x) ?_ ?_; rotate_left; clear_value x; intro hx; rotate_left; subst x)
    | intro x
    | split
    | lift_lets
    | dsimp only

theorem State.boundary_ev {s0 : State} {s : State} (ofsUs : Nat) (missed : Bool) (hev : Evolves s0 s) :
    Evolves s0 (State.boundary s ofsUs missed) := by
  unfold State.boundary
  repeat' first
    | with_reducible assumption
    | refine fun (_ : Evolves _ _) => ?_
    | with_reducible apply evolves_iff
    | with_reducible apply evolves_whenLive
    | with_reducible apply evolves_forEach
    | with_reducible apply State.balanceEnd_ev
    | with_reducible apply State.closeDue_ev
    | with_reducible apply State.latch_ev
    | with_reducible apply evolves_ite
    | (with_reducible apply evolves_mk; (first | with_reducible exact rfl | (dsimp only; exact rfl)); (first | with_reducible assumption | with_reducible apply evolves_iff | with_reducible apply evolves_whenLive | with_reducible apply evolves_forEach | with_reducible apply State.balanceEnd_ev | with_reducible apply State.closeDue_ev | with_reducible apply State.latch_ev | with_reducible apply evolves_ite | split))
    | (intro x; refine evolves_cut (s0 := s0) (x := x) ?_ ?_; rotate_left; clear_value x; intro hx; rotate_left; subst x)
    | intro x
    | split
    | lift_lets
    | dsimp only

theorem State.channelStep_ev {s0 : State} {s : State} (c : Nat) (hev : Evolves s0 s) :
    Evolves s0 (State.channelStep s c) := by
  unfold State.channelStep
  repeat' first
    | with_reducible assumption
    | with_reducible apply State.fell_ev
    | with_reducible apply State.flagInts_ev
    | with_reducible apply State.modMtrCh_ev
    | with_reducible apply State.post_ev
    | with_reducible apply State.postTile_ev
    | with_reducible apply evolves_ite
    | (with_reducible apply evolves_mk; with_reducible exact rfl; (first | with_reducible assumption | split))

theorem State.enforce_ev {s0 : State} {s : State} (hev : Evolves s0 s) :
    Evolves s0 (State.enforce s) := by
  unfold State.enforce
  repeat' first
    | with_reducible assumption
    | refine fun (_ : Evolves _ _) => ?_
    | with_reducible apply evolves_forEach
    | with_reducible apply State.closeGaps_ev
    | with_reducible apply State.flagInts_ev
    | with_reducible apply State.openGap_ev
    | with_reducible apply evolves_ite
    | (with_reducible apply evolves_mk; with_reducible exact rfl; with_reducible apply evolves_iff)
    | intro x
    | lift_lets
    | dsimp only

theorem State.meterTick_ev {s0 : State} {s : State} (sums : List PhaseSum) (rms : List Nat) (clipped : List (Fin 16)) (hev : Evolves s0 s) :
    Evolves s0 (State.meterTick s sums rms clipped) := by
  unfold State.meterTick
  repeat' first
    | with_reducible assumption
    | refine fun (_ : Evolves _ _) => ?_
    | with_reducible apply evolves_iff
    | with_reducible apply evolves_forEach
    | with_reducible apply State.channelGaps_ev
    | with_reducible apply State.channelStep_ev
    | with_reducible apply State.enforce_ev
    | with_reducible apply State.flagInts_ev
    | with_reducible apply State.meterResume_ev
    | with_reducible apply State.modInt_ev
    | with_reducible apply State.modMtrCh_ev
    | with_reducible apply State.postTile_ev
    | with_reducible apply State.settlePowerGap_ev
    | with_reducible apply evolves_ite
    | (with_reducible apply evolves_mk; with_reducible exact rfl; (first | with_reducible apply evolves_iff | with_reducible apply State.account_ev))
    | intro x

end Sys2Proof.Machine
end

