-- ==== Sys2Proof/Laws/EvMeter.lean ====
section
/-! SUPPORT. Every operation of Machine/Meter.lean lets the state grow (Safety.lean). -/

set_option Elab.async false

namespace Sys2Proof.Machine

theorem execChannelFault_ev {s0 s1 : State} (c : Fin 16) {s : State} (e : execChannelFault c s = .next s1)
    (hev : Evolves s0 s) : Evolves s0 s1 := by
  unfold execChannelFault at e
  refine evolves_next e ?_
  repeat' first
    | with_reducible assumption
    | refine fun (_ : Evolves _ _) => ?_
    | with_reducible apply evolves_whenLive
    | with_reducible apply State.modMtrCh_ev
    | with_reducible apply State.postTile_ev
    | (with_reducible apply evolves_mk; with_reducible exact rfl; split)
    | intro x

theorem execMsealChange_ev {s0 s1 : State} (isOpen : Bool) {s : State} (e : execMsealChange isOpen s = .next s1)
    (hev : Evolves s0 s) : Evolves s0 s1 := by
  unfold execMsealChange at e
  refine evolves_next e ?_
  repeat' first
    | with_reducible assumption
    | refine fun (_ : Evolves _ _) => ?_
    | with_reducible apply evolves_iff
    | with_reducible apply evolves_whenLive
    | with_reducible apply State.flagInts_ev
    | with_reducible apply State.post_ev
    | with_reducible apply State.record_ev
    | (with_reducible apply evolves_mk; with_reducible exact rfl; with_reducible assumption)
    | intro x

theorem State.metrologyWritten_ev {s0 : State} {s : State} (w : Writer) (a old new : Nat) (hev : Evolves s0 s) :
    Evolves s0 (State.metrologyWritten s w a old new) := by
  unfold State.metrologyWritten
  repeat' first
    | with_reducible apply State.recordAs_ev
    | (with_reducible apply evolves_mk; with_reducible exact rfl; with_reducible assumption)

theorem State.startCal_ev {s0 : State} {s : State} (hev : Evolves s0 s) :
    Evolves s0 (State.startCal s) := by
  unfold State.startCal
  repeat' first | (with_reducible apply evolves_mk; with_reducible exact rfl; with_reducible assumption)

theorem State.writeMetrology_ev {s0 : State} {s : State} (a v : Nat) (w : Writer) (hev : Evolves s0 s) :
    Evolves s0 (State.writeMetrology s a v w).1 := by
  unfold State.writeMetrology
  repeat' first
    | with_reducible assumption
    | with_reducible apply State.metrologyWritten_ev
    | with_reducible apply State.startCal_ev
    | with_reducible apply State.writeQuiet_ev
    | with_reducible apply evolves_ite
    | with_reducible apply evolves_ite_fst
    | (with_reducible apply evolves_mk; with_reducible exact rfl; (first | with_reducible apply State.setReg_ev | with_reducible apply State.writeQuiet_ev))

theorem State.writeMetrology_eq {s0 sx : State} {s : State} {a v : Nat} {w : Writer} {qx : Reason} (e : (State.writeMetrology s a v w) = (sx, qx))
    (hev : Evolves s0 s) : Evolves s0 sx := by
  have g := State.writeMetrology_ev a v w hev
  rw [e] at g
  exact g

theorem execMetrologyRegisterWrite_ev {s0 s1 : State} (addr value : Word) (w : Writer) {s : State} (e : execMetrologyRegisterWrite addr value w s = .next s1)
    (hev : Evolves s0 s) : Evolves s0 s1 := by
  unfold execMetrologyRegisterWrite at e
  refine evolves_next e ?_
  repeat' first
    | with_reducible assumption
    | refine fun (_ : Evolves _ _) => ?_
    | with_reducible apply evolves_whenLive
    | with_reducible apply State.writeMetrology_ev
    | intro x

theorem execLatchNWrite_ev {s0 s1 : State} (value : Word) (w : Writer) {s : State} (e : execLatchNWrite value w s = .next s1)
    (hev : Evolves s0 s) : Evolves s0 s1 := by
  unfold execLatchNWrite at e
  refine evolves_next e ?_
  repeat' first
    | with_reducible assumption
    | refine fun (_ : Evolves _ _) => ?_
    | with_reducible apply evolves_whenLive
    | with_reducible apply State.writeMetrology_ev
    | intro x

theorem execCalStart_ev {s0 s1 : State} (value : Word) (w : Writer) {s : State} (e : execCalStart value w s = .next s1)
    (hev : Evolves s0 s) : Evolves s0 s1 := by
  unfold execCalStart at e
  refine evolves_next e ?_
  repeat' first
    | with_reducible assumption
    | refine fun (_ : Evolves _ _) => ?_
    | with_reducible apply evolves_whenLive
    | with_reducible apply State.writeMetrology_ev
    | intro x

theorem execCalDone_ev {s0 s1 : State} (p q : Int) (rms : Word) (dc : Int) {s : State} (e : execCalDone p q rms dc s = .next s1)
    (hev : Evolves s0 s) : Evolves s0 s1 := by
  unfold execCalDone at e
  refine evolves_next e ?_
  repeat' first
    | with_reducible assumption
    | refine fun (_ : Evolves _ _) => ?_
    | with_reducible apply evolves_iff
    | with_reducible apply evolves_whenLive
    | (with_reducible apply evolves_mk; with_reducible exact rfl; with_reducible assumption)
    | intro x

theorem execPhaseAbsent_ev {s0 s1 : State} (phase : Fin 2) {s : State} (e : execPhaseAbsent phase s = .next s1)
    (hev : Evolves s0 s) : Evolves s0 s1 := by
  unfold execPhaseAbsent at e
  refine evolves_next e ?_
  repeat' first
    | with_reducible assumption
    | refine fun (_ : Evolves _ _) => ?_
    | with_reducible apply evolves_whenLive
    | with_reducible apply State.postTile_ev
    | (with_reducible apply evolves_mk; with_reducible exact rfl; with_reducible assumption)
    | intro x

theorem execPhaseValidCrossing_ev {s0 s1 : State} (phase : Fin 2) {s : State} (e : execPhaseValidCrossing phase s = .next s1)
    (hev : Evolves s0 s) : Evolves s0 s1 := by
  unfold execPhaseValidCrossing at e
  refine evolves_next e ?_
  repeat' first
    | with_reducible assumption
    | refine fun (_ : Evolves _ _) => ?_
    | with_reducible apply evolves_whenLive
    | (with_reducible apply evolves_mk; with_reducible exact rfl; with_reducible assumption)
    | intro x

theorem execMeterCheckpoint_ev {s0 s1 : State} {s : State} (e : execMeterCheckpoint s = .next s1)
    (hev : Evolves s0 s) : Evolves s0 s1 := by
  unfold execMeterCheckpoint at e
  refine evolves_next e ?_
  repeat' first
    | with_reducible assumption
    | refine fun (_ : Evolves _ _) => ?_
    | with_reducible apply evolves_iff
    | with_reducible apply evolves_whenLive
    | with_reducible apply State.checkpoint_ev
    | intro x

theorem State.copyRegister_ev {s0 : State} {s : State} (hev : Evolves s0 s) :
    Evolves s0 (State.copyRegister s) := by
  unfold State.copyRegister
  repeat' first | (with_reducible apply evolves_mk; with_reducible exact rfl; with_reducible assumption)

theorem State.writeRegSel_ev {s0 : State} {s : State} (v : Nat) (w : Writer) (hev : Evolves s0 s) :
    Evolves s0 (State.writeRegSel s v w).1 := by
  unfold State.writeRegSel
  repeat' first
    | with_reducible assumption
    | with_reducible apply State.copyRegister_ev
    | with_reducible apply State.writeReg_ev
    | with_reducible apply evolves_ite

theorem State.writeRegSel_eq {s0 sx : State} {s : State} {v : Nat} {w : Writer} {qx : Reason} (e : (State.writeRegSel s v w) = (sx, qx))
    (hev : Evolves s0 s) : Evolves s0 sx := by
  have g := State.writeRegSel_ev v w hev
  rw [e] at g
  exact g

theorem execRegSelWrite_ev {s0 s1 : State} (value : Word) (w : Writer) {s : State} (e : execRegSelWrite value w s = .next s1)
    (hev : Evolves s0 s) : Evolves s0 s1 := by
  unfold execRegSelWrite at e
  refine evolves_next e ?_
  repeat' first
    | with_reducible assumption
    | refine fun (_ : Evolves _ _) => ?_
    | with_reducible apply evolves_whenLive
    | with_reducible apply State.writeRegSel_ev
    | intro x

theorem execBalanceDeadline_ev {s0 s1 : State} (feeder : Fin 4) (ended : BitVec 40) {s : State} (e : execBalanceDeadline feeder ended s = .next s1)
    (hev : Evolves s0 s) : Evolves s0 s1 := by
  unfold execBalanceDeadline at e
  refine evolves_next e ?_
  repeat' first
    | with_reducible assumption
    | refine fun (_ : Evolves _ _) => ?_
    | with_reducible apply evolves_iff
    | with_reducible apply evolves_whenLive
    | with_reducible apply State.closeBalance_ev
    | (with_reducible apply evolves_mk; with_reducible exact rfl; split)
    | intro x

theorem State.serveMeterRead_ev {s0 : State} {s : State} (i : Fin 4) (c : Session) (tx : Nat) (b : List Byte) (hev : Evolves s0 s) :
    Evolves s0 (State.serveMeterRead s i c tx b) := by
  unfold State.serveMeterRead
  repeat' first
    | with_reducible assumption
    | with_reducible apply State.countUse_ev
    | with_reducible apply State.malformed_ev
    | with_reducible apply State.respond_ev
    | with_reducible apply evolves_ite

theorem execMeterRead_ev {s0 s1 : State} (sess : Fin 4) (role : Byte) (tx : Word) (body : List Byte) {s : State} (e : execMeterRead sess role tx body s = .next s1)
    (hev : Evolves s0 s) : Evolves s0 s1 := by
  unfold execMeterRead at e
  refine evolves_next e ?_
  repeat' first
    | with_reducible assumption
    | refine fun (_ : Evolves _ _) => ?_
    | with_reducible apply evolves_whenLive
    | with_reducible apply State.request_ev
    | with_reducible apply State.serveMeterRead_ev
    | intro x

theorem State.writeMtrStatus_ev {s0 : State} {s : State} (c v : Nat) (hev : Evolves s0 s) :
    Evolves s0 (State.writeMtrStatus s c v) := by
  unfold State.writeMtrStatus
  repeat' first | with_reducible assumption | with_reducible apply State.modMtrCh_ev

end Sys2Proof.Machine
end

