-- ==== Sys2Proof/Laws/EvNodes.lean ====
section
/-! SUPPORT. Every operation of Machine/Nodes.lean lets the state grow (Safety.lean). -/

set_option Elab.async false

namespace Sys2Proof.Machine

theorem State.knowNode_ev {s0 : State} {s : State} (eui : Nat) (hev : Evolves s0 s) :
    Evolves s0 (State.knowNode s eui) := by
  unfold State.knowNode
  repeat' first
    | with_reducible assumption
    | with_reducible apply evolves_ite
    | (with_reducible apply evolves_mk; with_reducible exact rfl; with_reducible assumption)

theorem State.countJoin_ev {s0 : State} {s : State} (t : Nat) (hev : Evolves s0 s) :
    Evolves s0 (State.countJoin s t) := by
  unfold State.countJoin
  repeat' first | (with_reducible apply evolves_mk; with_reducible exact rfl; with_reducible assumption)

theorem State.takeEntry_ev {s0 : State} {s : State} (n : NodeRec) (key : Nat) (kept : Bool) (drift : Int) (hev : Evolves s0 s) :
    Evolves s0 (State.takeEntry s n key kept drift) := by
  unfold State.takeEntry
  repeat' first | (with_reducible apply evolves_mk; with_reducible exact rfl; with_reducible assumption)

theorem State.sendGrant_ev {s0 : State} {s : State} (n : NodeRec) (cell : Nat) (body : List Byte) (hev : Evolves s0 s) :
    Evolves s0 (State.sendGrant s n cell body) := by
  unfold State.sendGrant
  repeat' first
    | with_reducible assumption
    | with_reducible apply State.hold_ev
    | with_reducible apply State.sendNode_ev
    | with_reducible apply State.takeSeq_ev
    | with_reducible apply evolves_ite
    | (with_reducible apply evolves_mk; with_reducible exact rfl; split)

theorem State.refuseJoin_ev {s0 : State} {s : State} (n : NodeRec) (cell nonce : Nat) (r : Reason) (hev : Evolves s0 s) :
    Evolves s0 (State.refuseJoin s n cell nonce r) := by
  unfold State.refuseJoin
  repeat' first | with_reducible assumption | with_reducible apply State.sendGrant_ev

theorem State.admitJoin_ev {s0 : State} {s : State} (n : NodeRec) (key : Nat) (kept : Bool) (b : List Byte) (t : Nat) (hev : Evolves s0 s) :
    Evolves s0 (State.admitJoin s n key kept b t) := by
  unfold State.admitJoin
  repeat' first
    | with_reducible assumption
    | refine fun (_ : Evolves _ _) => ?_
    | with_reducible apply evolves_iff
    | with_reducible apply State.configureNode_ev
    | with_reducible apply State.countJoin_ev
    | with_reducible apply State.modNode_ev
    | with_reducible apply State.recordNode_ev
    | with_reducible apply State.sendGrant_ev
    | with_reducible apply State.sendItem_ev
    | with_reducible apply State.sendSchedule_ev
    | with_reducible apply State.setLink_ev
    | with_reducible apply State.takeEntry_ev
    | intro x

theorem State.joinViolation_ev {s0 : State} {s : State} (g : Nat) (hev : Evolves s0 s) :
    Evolves s0 (State.joinViolation s g) := by
  unfold State.joinViolation
  repeat' first
    | with_reducible assumption
    | refine fun (_ : Evolves _ _) => ?_
    | with_reducible apply evolves_iff
    | with_reducible apply evolves_whenLive
    | with_reducible apply evolves_forEach
    | with_reducible apply State.modTrx_ev
    | with_reducible apply evolves_ite
    | (with_reducible apply evolves_mk; (first | with_reducible exact rfl | (dsimp only; exact rfl)); (first | with_reducible assumption | with_reducible apply evolves_iff | with_reducible apply evolves_whenLive | with_reducible apply evolves_forEach | with_reducible apply State.modTrx_ev | with_reducible apply evolves_ite | split))
    | (intro x; refine evolves_cut (s0 := s0) (x := x) ?_ ?_; rotate_left; clear_value x; intro hx; rotate_left; subst x)
    | intro x
    | split
    | lift_lets
    | dsimp only

theorem State.judgeJoin_ev {s0 : State} {s : State} (g proxy : Nat) (b : List Byte) (mic : Bool) (hev : Evolves s0 s) :
    Evolves s0 (State.judgeJoin s g proxy b mic) := by
  unfold State.judgeJoin
  repeat' first
    | with_reducible assumption
    | with_reducible apply State.admitJoin_ev
    | with_reducible apply State.joinViolation_ev
    | with_reducible apply State.knowNode_ev
    | with_reducible apply State.modNode_ev
    | with_reducible apply State.pickOne_ev
    | with_reducible apply State.refuseJoin_ev
    | with_reducible apply evolves_ite
    | (with_reducible apply evolves_mk; with_reducible exact rfl; (first | with_reducible apply State.knowNode_ev | split))

theorem execJoinReq_ev {s0 s1 : State} (grove : Fin 8) (proxy seq : BitVec 16) (body : List Byte) (mic : Bool) {s : State} (e : execJoinReq grove proxy seq body mic s = .next s1)
    (hev : Evolves s0 s) : Evolves s0 s1 := by
  unfold execJoinReq at e
  refine evolves_next e ?_
  repeat' first
    | with_reducible assumption
    | refine fun (_ : Evolves _ _) => ?_
    | with_reducible apply evolves_whenLive
    | with_reducible apply State.joinViolation_ev
    | with_reducible apply State.judgeJoin_ev
    | with_reducible apply State.linkMsg_ev
    | with_reducible apply evolves_ite
    | intro x

theorem State.resendItem_ev {s0 : State} {s : State} (eui id : Nat) (content : List Byte) (hev : Evolves s0 s) :
    Evolves s0 (State.resendItem s eui id content) := by
  unfold State.resendItem
  repeat' first
    | with_reducible assumption
    | with_reducible apply State.modNode_ev
    | with_reducible apply State.sendItem_ev
    | with_reducible apply State.sendNode_ev
    | with_reducible apply State.sendSchedule_ev
    | with_reducible apply evolves_ite
    | (with_reducible apply evolves_mk; with_reducible exact rfl; split)

theorem State.queryDigest_ev {s0 : State} {s : State} (eui first : Nat) (hev : Evolves s0 s) :
    Evolves s0 (State.queryDigest s eui first) := by
  unfold State.queryDigest
  repeat' first
    | with_reducible assumption
    | with_reducible apply State.modNode_ev
    | with_reducible apply State.sendNode_ev
    | (with_reducible apply evolves_mk; with_reducible exact rfl; split)

theorem State.compareItems_ev {s0 : State} {s : State} (n : NodeRec) (b : List Byte) (hev : Evolves s0 s) :
    Evolves s0 (State.compareItems s n b) := by
  unfold State.compareItems
  repeat' first
    | with_reducible assumption
    | refine fun (_ : Evolves _ _) => ?_
    | with_reducible apply evolves_forEach
    | with_reducible apply State.queryDigest_ev
    | with_reducible apply State.resendItem_ev
    | with_reducible apply evolves_ite
    | (with_reducible apply evolves_mk; with_reducible exact rfl; split)
    | intro x

theorem execDigestQuery_ev {s0 s1 : State} (msg : LinkMsg) {s : State} (e : execDigestQuery msg s = .next s1)
    (hev : Evolves s0 s) : Evolves s0 s1 := by
  unfold execDigestQuery at e
  refine evolves_next e ?_
  repeat' first
    | with_reducible assumption
    | refine fun (_ : Evolves _ _) => ?_
    | with_reducible apply evolves_whenLive
    | with_reducible apply State.compareItems_ev
    | with_reducible apply State.linkMsg_ev
    | intro x

theorem State.checkPhase_ev {s0 : State} {s : State} (n : NodeRec) (x : Nat) (hev : Evolves s0 s) :
    Evolves s0 (State.checkPhase s n x) := by
  unfold State.checkPhase
  repeat' first
    | with_reducible assumption
    | with_reducible apply State.modNode_ev
    | with_reducible apply State.sendItem_ev
    | with_reducible apply evolves_ite

theorem State.checkDigest_ev {s0 : State} {s : State} (n : NodeRec) (digest : Nat) (hev : Evolves s0 s) :
    Evolves s0 (State.checkDigest s n digest) := by
  unfold State.checkDigest
  repeat' first
    | with_reducible assumption
    | with_reducible apply State.modNode_ev
    | with_reducible apply State.queryDigest_ev
    | with_reducible apply evolves_ite

theorem State.keepalive_ev {s0 : State} {s : State} (n : NodeRec) (b : List Byte) (hev : Evolves s0 s) :
    Evolves s0 (State.keepalive s n b) := by
  unfold State.keepalive
  repeat' first
    | with_reducible assumption
    | with_reducible apply State.carryReleased_ev
    | with_reducible apply State.checkDigest_ev
    | with_reducible apply State.checkPhase_ev
    | with_reducible apply State.checkRejoin_ev
    | with_reducible apply State.modEntry_ev
    | with_reducible apply State.modNode_ev
    | with_reducible apply State.setLink_ev
    | with_reducible apply evolves_ite

theorem execKeepalive_ev {s0 s1 : State} (msg : LinkMsg) {s : State} (e : execKeepalive msg s = .next s1)
    (hev : Evolves s0 s) : Evolves s0 s1 := by
  unfold execKeepalive at e
  refine evolves_next e ?_
  repeat' first
    | with_reducible assumption
    | refine fun (_ : Evolves _ _) => ?_
    | with_reducible apply evolves_whenLive
    | with_reducible apply State.keepalive_ev
    | with_reducible apply State.linkMsg_ev
    | intro x

theorem State.energyReport_ev {s0 : State} {s : State} (n : NodeRec) (b : List Byte) (hev : Evolves s0 s) :
    Evolves s0 (State.energyReport s n b) := by
  unfold State.energyReport
  repeat' first
    | with_reducible assumption
    | with_reducible apply State.closeWhole_ev
    | with_reducible apply State.modBal_ev
    | (with_reducible apply evolves_mk; with_reducible exact rfl; split)

theorem State.presenceReport_ev {s0 : State} {s : State} (n : NodeRec) (b : List Byte) (hev : Evolves s0 s) :
    Evolves s0 (State.presenceReport s n b) := by
  unfold State.presenceReport
  repeat' first
    | with_reducible assumption
    | refine fun (_ : Evolves _ _) => ?_
    | with_reducible apply evolves_forEach
    | with_reducible apply State.putRoute_ev
    | with_reducible apply evolves_ite
    | (with_reducible apply evolves_mk; with_reducible exact rfl; split)
    | intro x

theorem State.wavesReport_ev {s0 : State} {s : State} (b : List Byte) (hev : Evolves s0 s) :
    Evolves s0 (State.wavesReport s b) := by
  unfold State.wavesReport
  repeat' first
    | with_reducible assumption
    | with_reducible apply State.putRoute_ev
    | with_reducible apply evolves_ite
    | (with_reducible apply evolves_mk; with_reducible exact rfl; split)

theorem State.neighboursReport_ev {s0 : State} {s : State} (n : NodeRec) (b : List Byte) (hev : Evolves s0 s) :
    Evolves s0 (State.neighboursReport s n b) := by
  unfold State.neighboursReport
  repeat' first
    | with_reducible assumption
    | with_reducible apply State.judgeGaps_ev
    | with_reducible apply State.modNode_ev

theorem execReport_ev {s0 s1 : State} (msg : LinkMsg) {s : State} (e : execReport msg s = .next s1)
    (hev : Evolves s0 s) : Evolves s0 s1 := by
  unfold execReport at e
  refine evolves_next e ?_
  repeat' first
    | with_reducible assumption
    | refine fun (_ : Evolves _ _) => ?_
    | with_reducible apply evolves_whenLive
    | with_reducible apply State.energyReport_ev
    | with_reducible apply State.linkMsg_ev
    | with_reducible apply State.neighboursReport_ev
    | with_reducible apply State.presenceReport_ev
    | with_reducible apply State.wavesReport_ev
    | (with_reducible apply evolves_mk; with_reducible exact rfl; split)
    | intro x

theorem State.targetResult_ev {s0 : State} {s : State} (p : Promise) (short : Nat) (reason : Option Reason) (hev : Evolves s0 s) :
    Evolves s0 (State.targetResult s p short reason) := by
  unfold State.targetResult
  repeat' first
    | with_reducible assumption
    | refine fun (_ : Evolves _ _) => ?_
    | with_reducible apply evolves_iff
    | with_reducible apply State.modPromise_ev
    | with_reducible apply State.preempt_ev
    | with_reducible apply State.recordNode_ev
    | (with_reducible apply evolves_mk; with_reducible exact rfl; split)
    | intro x

theorem State.queryBelow_ev {s0 : State} {s : State} (p : Promise) (top : Nat) (hev : Evolves s0 s) :
    Evolves s0 (State.queryBelow s p top) := by
  unfold State.queryBelow
  repeat' first
    | with_reducible assumption
    | refine fun (_ : Evolves _ _) => ?_
    | with_reducible apply evolves_forEach
    | with_reducible apply State.modPromise_ev
    | with_reducible apply State.query_ev
    | with_reducible apply evolves_ite
    | intro x

theorem State.tally_ev {s0 : State} {s : State} (n : NodeRec) (b : List Byte) (hev : Evolves s0 s) :
    Evolves s0 (State.tally s n b) := by
  unfold State.tally
  repeat' first
    | with_reducible assumption
    | refine fun (_ : Evolves _ _) => ?_
    | with_reducible apply evolves_forEach
    | with_reducible apply State.queryBelow_ev
    | with_reducible apply State.radViolation_ev
    | with_reducible apply State.settleOutcomes_ev
    | with_reducible apply State.targetResult_ev
    | with_reducible apply evolves_ite
    | (with_reducible apply evolves_mk; with_reducible exact rfl; split)
    | intro x

theorem execTally_ev {s0 s1 : State} (msg : LinkMsg) {s : State} (e : execTally msg s = .next s1)
    (hev : Evolves s0 s) : Evolves s0 s1 := by
  unfold execTally at e
  refine evolves_next e ?_
  repeat' first
    | with_reducible assumption
    | refine fun (_ : Evolves _ _) => ?_
    | with_reducible apply evolves_whenLive
    | with_reducible apply State.linkMsg_ev
    | with_reducible apply State.tally_ev
    | intro x

theorem State.caravanNak_ev {s0 : State} {s : State} (eui seq : Nat) (reason : Reason) (hev : Evolves s0 s) :
    Evolves s0 (State.caravanNak s eui seq reason) := by
  unfold State.caravanNak
  repeat' first | (with_reducible apply evolves_mk; with_reducible exact rfl; with_reducible assumption)

theorem State.relayGone_ev {s0 : State} {s : State} (short : Nat) (hev : Evolves s0 s) :
    Evolves s0 (State.relayGone s short) := by
  unfold State.relayGone
  repeat' first
    | with_reducible assumption
    | refine fun (_ : Evolves _ _) => ?_
    | with_reducible apply evolves_forEach
    | with_reducible apply State.markSilent_ev
    | with_reducible apply evolves_ite
    | intro x

theorem State.takeNak_ev {s0 : State} {s : State} (n : NodeRec) (b : List Byte) (hev : Evolves s0 s) :
    Evolves s0 (State.takeNak s n b) := by
  unfold State.takeNak
  repeat' first
    | with_reducible assumption
    | with_reducible apply State.caravanNak_ev
    | with_reducible apply State.relayGone_ev
    | with_reducible apply State.resendItem_ev
    | with_reducible apply evolves_ite
    | (with_reducible apply evolves_mk; with_reducible exact rfl; split)

theorem execNak_ev {s0 s1 : State} (msg : LinkMsg) {s : State} (e : execNak msg s = .next s1)
    (hev : Evolves s0 s) : Evolves s0 s1 := by
  unfold execNak at e
  refine evolves_next e ?_
  repeat' first
    | with_reducible assumption
    | refine fun (_ : Evolves _ _) => ?_
    | with_reducible apply evolves_whenLive
    | with_reducible apply State.linkMsg_ev
    | with_reducible apply State.takeNak_ev
    | intro x

theorem execFault_ev {s0 s1 : State} (msg : LinkMsg) {s : State} (e : execFault msg s = .next s1)
    (hev : Evolves s0 s) : Evolves s0 s1 := by
  unfold execFault at e
  refine evolves_next e ?_
  repeat' first
    | with_reducible assumption
    | refine fun (_ : Evolves _ _) => ?_
    | with_reducible apply evolves_whenLive
    | with_reducible apply State.linkMsg_ev
    | with_reducible apply State.modNode_ev
    | intro x

theorem State.chunkState_ev {s0 : State} {s : State} (n : NodeRec) (m : LinkMsg) (hev : Evolves s0 s) :
    Evolves s0 (State.chunkState s n m) := by
  unfold State.chunkState
  repeat' first
    | with_reducible assumption
    | with_reducible apply State.modCaravan_ev
    | with_reducible apply State.nak_ev
    | with_reducible apply evolves_ite
    | (with_reducible apply evolves_mk; with_reducible exact rfl; split)

theorem execChunkState_ev {s0 s1 : State} (msg : LinkMsg) {s : State} (e : execChunkState msg s = .next s1)
    (hev : Evolves s0 s) : Evolves s0 s1 := by
  unfold execChunkState at e
  refine evolves_next e ?_
  repeat' first
    | with_reducible assumption
    | refine fun (_ : Evolves _ _) => ?_
    | with_reducible apply evolves_whenLive
    | with_reducible apply State.chunkState_ev
    | with_reducible apply State.linkMsg_ev
    | intro x

theorem State.reserveEntry_ev {s0 : State} {s : State} (short : Nat) (hev : Evolves s0 s) :
    Evolves s0 (State.reserveEntry s short) := by
  unfold State.reserveEntry
  repeat' first | with_reducible assumption | with_reducible apply State.modEntry_ev

theorem execGrantKeepaliveTimeout_ev {s0 s1 : State} (short : BitVec 16) {s : State} (e : execGrantKeepaliveTimeout short s = .next s1)
    (hev : Evolves s0 s) : Evolves s0 s1 := by
  unfold execGrantKeepaliveTimeout at e
  refine evolves_next e ?_
  repeat' first
    | with_reducible assumption
    | refine fun (_ : Evolves _ _) => ?_
    | with_reducible apply evolves_iff
    | with_reducible apply evolves_whenLive
    | with_reducible apply State.reserveEntry_ev
    | with_reducible apply State.setLink_ev
    | (with_reducible apply evolves_mk; with_reducible exact rfl; split)
    | intro x

theorem State.missedPeriod_ev {s0 : State} {s : State} (n : NodeRec) (hev : Evolves s0 s) :
    Evolves s0 (State.missedPeriod s n) := by
  unfold State.missedPeriod
  repeat' first
    | with_reducible assumption
    | with_reducible apply State.checkRejoin_ev
    | with_reducible apply State.modNode_ev
    | with_reducible apply State.reserveEntry_ev
    | with_reducible apply State.setLink_ev
    | with_reducible apply evolves_ite

theorem execKeepalivePeriodEnd_ev {s0 s1 : State} (short : BitVec 16) {s : State} (e : execKeepalivePeriodEnd short s = .next s1)
    (hev : Evolves s0 s) : Evolves s0 s1 := by
  unfold execKeepalivePeriodEnd at e
  refine evolves_next e ?_
  repeat' first
    | with_reducible assumption
    | refine fun (_ : Evolves _ _) => ?_
    | with_reducible apply evolves_iff
    | with_reducible apply evolves_whenLive
    | with_reducible apply State.missedPeriod_ev
    | with_reducible apply State.modNode_ev
    | with_reducible apply evolves_ite
    | (with_reducible apply evolves_mk; with_reducible exact rfl; split)
    | intro x

theorem execReservationEnd_ev {s0 s1 : State} (place : Fin 4096) {s : State} (e : execReservationEnd place s = .next s1)
    (hev : Evolves s0 s) : Evolves s0 s1 := by
  unfold execReservationEnd at e
  refine evolves_next e ?_
  repeat' first
    | with_reducible assumption
    | refine fun (_ : Evolves _ _) => ?_
    | with_reducible apply evolves_iff
    | with_reducible apply evolves_whenLive
    | (with_reducible apply evolves_mk; with_reducible exact rfl; (first | with_reducible assumption | split))
    | intro x

theorem State.reroute_ev {s0 : State} {s : State} (n : NodeRec) (hev : Evolves s0 s) :
    Evolves s0 (State.reroute s n) := by
  unfold State.reroute
  repeat' first
    | with_reducible assumption
    | refine fun (_ : Evolves _ _) => ?_
    | with_reducible apply evolves_forEach
    | with_reducible apply State.modNode_ev
    | with_reducible apply State.pickOne_ev
    | with_reducible apply State.sendSchedule_ev
    | with_reducible apply evolves_ite
    | intro x

theorem State.rerouteAll_ev {s0 : State} {s : State} (hev : Evolves s0 s) :
    Evolves s0 (State.rerouteAll s) := by
  unfold State.rerouteAll
  repeat' first
    | with_reducible assumption
    | refine fun (_ : Evolves _ _) => ?_
    | with_reducible apply evolves_forEach
    | with_reducible apply State.reroute_ev
    | with_reducible apply evolves_ite
    | intro x

end Sys2Proof.Machine
end

