-- ==== Sys2Proof/Laws/EvRegWrite.lean ====
section
/-! SUPPORT. Every operation of Machine/RegWrite.lean lets the state grow (Safety.lean). -/

set_option Elab.async false

namespace Sys2Proof.Machine

theorem State.writePlain_ev {s0 : State} {s : State} (a v : Nat) (w : Writer) (hev : Evolves s0 s) :
    Evolves s0 (State.writePlain s a v w).1 := by
  unfold State.writePlain
  repeat' first | with_reducible assumption | with_reducible apply State.writeReg_ev

theorem State.writePlain_eq {s0 sx : State} {s : State} {a v : Nat} {w : Writer} {qx : Reason} (e : (State.writePlain s a v w) = (sx, qx))
    (hev : Evolves s0 s) : Evolves s0 sx := by
  have g := State.writePlain_ev a v w hev
  rw [e] at g
  exact g

theorem accepted_ev {s0 : State} {s : State} (hev : Evolves s0 s) :
    Evolves s0 (accepted s).1 := by
  unfold accepted
  repeat' first | with_reducible assumption

theorem accepted_eq {s0 sx : State} {s : State} {qx : Reason} (e : (accepted s) = (sx, qx))
    (hev : Evolves s0 s) : Evolves s0 sx := by
  have g := accepted_ev  hev
  rw [e] at g
  exact g

theorem State.snap_ev {s0 : State} {s : State} (hev : Evolves s0 s) :
    Evolves s0 (State.snap s) := by
  unfold State.snap
  repeat' first | (with_reducible apply evolves_mk; with_reducible exact rfl; with_reducible assumption)

theorem State.writeTime_ev {s0 : State} {s : State} (o v : Nat) (w : Writer) (hev : Evolves s0 s) :
    Evolves s0 (State.writeTime s o v w).1 := by
  unfold State.writeTime
  repeat' first
    | with_reducible assumption
    | refine fun (_ : Evolves _ _) => ?_
    | with_reducible apply evolves_iff
    | with_reducible apply accepted_ev
    | with_reducible apply State.clearOvr_ev
    | with_reducible apply State.modTrigger_ev
    | with_reducible apply State.popCapture_ev
    | with_reducible apply State.snap_ev
    | with_reducible apply State.writeMainsCfg_ev
    | with_reducible apply State.writePlain_ev
    | with_reducible apply State.writeSyncCtrl_ev
    | with_reducible apply State.writeTimeCtrl_ev
    | with_reducible apply State.writeTrigger_ev
    | with_reducible apply evolves_ite_fst
    | (with_reducible apply evolves_mk; with_reducible exact rfl; with_reducible assumption)
    | intro x

theorem State.writeTime_eq {s0 sx : State} {s : State} {o v : Nat} {w : Writer} {qx : Reason} (e : (State.writeTime s o v w) = (sx, qx))
    (hev : Evolves s0 s) : Evolves s0 sx := by
  have g := State.writeTime_ev o v w hev
  rw [e] at g
  exact g

theorem State.writeMtr_ev {s0 : State} {s : State} (o v : Nat) (w : Writer) (hev : Evolves s0 s) :
    Evolves s0 (State.writeMtr s o v w).1 := by
  unfold State.writeMtr
  repeat' first
    | with_reducible assumption
    | with_reducible apply accepted_ev
    | with_reducible apply State.writeMetrology_ev
    | with_reducible apply State.writeMtrStatus_ev
    | with_reducible apply State.writePlain_ev
    | with_reducible apply State.writeRegSel_ev
    | with_reducible apply evolves_ite_fst

theorem State.writeMtr_eq {s0 sx : State} {s : State} {o v : Nat} {w : Writer} {qx : Reason} (e : (State.writeMtr s o v w) = (sx, qx))
    (hev : Evolves s0 s) : Evolves s0 sx := by
  have g := State.writeMtr_ev o v w hev
  rw [e] at g
  exact g

theorem State.writeDrv_ev {s0 : State} {s : State} (o v : Nat) (w : Writer) (hev : Evolves s0 s) :
    Evolves s0 (State.writeDrv s o v w).1 := by
  unfold State.writeDrv
  repeat' first
    | with_reducible assumption
    | with_reducible apply accepted_ev
    | with_reducible apply State.writeChCmd_ev
    | with_reducible apply State.writeChStatus_ev
    | with_reducible apply State.writeDrvCtrl_ev
    | with_reducible apply State.writeIncCtrl_ev
    | with_reducible apply State.writeIncStatus_ev
    | with_reducible apply State.writePeCtrl_ev
    | with_reducible apply State.writePeStart_ev
    | with_reducible apply State.writePlain_ev
    | with_reducible apply State.writeTwCfg_ev
    | with_reducible apply evolves_ite_fst

theorem State.writeDrv_eq {s0 sx : State} {s : State} {o v : Nat} {w : Writer} {qx : Reason} (e : (State.writeDrv s o v w) = (sx, qx))
    (hev : Evolves s0 s) : Evolves s0 sx := by
  have g := State.writeDrv_ev o v w hev
  rw [e] at g
  exact g

theorem State.writeLedgerCmd_ev {s0 : State} {s : State} (v : Nat) (hev : Evolves s0 s) :
    Evolves s0 (State.writeLedgerCmd s v) := by
  unfold State.writeLedgerCmd
  repeat' first
    | with_reducible assumption
    | with_reducible apply evolves_iff
    | with_reducible apply State.ledgerClear_ev
    | with_reducible apply State.ledgerRead_ev
    | with_reducible apply State.ledgerWrite_ev

theorem State.writeRad_ev {s0 : State} {s : State} (o v : Nat) (w : Writer) (hev : Evolves s0 s) :
    Evolves s0 (State.writeRad s o v w).1 := by
  unfold State.writeRad
  repeat' first
    | with_reducible assumption
    | with_reducible apply accepted_ev
    | with_reducible apply State.writeLedgerCmd_ev
    | with_reducible apply State.writePlain_ev
    | with_reducible apply State.writeRadCtrl_ev
    | with_reducible apply State.writeSafeIe_ev
    | with_reducible apply State.writeTrx_ev
    | with_reducible apply State.writeTrx8_ev
    | with_reducible apply evolves_ite_fst

theorem State.writeRad_eq {s0 sx : State} {s : State} {o v : Nat} {w : Writer} {qx : Reason} (e : (State.writeRad s o v w) = (sx, qx))
    (hev : Evolves s0 s) : Evolves s0 sx := by
  have g := State.writeRad_ev o v w hev
  rw [e] at g
  exact g

theorem State.writeFld_ev {s0 : State} {s : State} (o v : Nat) (w : Writer) (hev : Evolves s0 s) :
    Evolves s0 (State.writeFld s o v w).1 := by
  unfold State.writeFld
  repeat' first
    | with_reducible assumption
    | with_reducible apply accepted_ev
    | with_reducible apply State.writePlain_ev
    | with_reducible apply evolves_ite_fst
    | (with_reducible apply evolves_mk; with_reducible exact rfl; with_reducible assumption)

theorem State.writeFld_eq {s0 sx : State} {s : State} {o v : Nat} {w : Writer} {qx : Reason} (e : (State.writeFld s o v w) = (sx, qx))
    (hev : Evolves s0 s) : Evolves s0 sx := by
  have g := State.writeFld_ev o v w hev
  rw [e] at g
  exact g

theorem State.writeBlock_ev {s0 : State} {s : State} (a v : Nat) (w : Writer) (hev : Evolves s0 s) :
    Evolves s0 (State.writeBlock s a v w).1 := by
  unfold State.writeBlock
  repeat' first
    | with_reducible assumption
    | with_reducible apply accepted_ev
    | with_reducible apply State.writeDrv_ev
    | with_reducible apply State.writeFld_ev
    | with_reducible apply State.writeMtr_ev
    | with_reducible apply State.writeRad_ev
    | with_reducible apply State.writeTime_ev
    | (with_reducible apply evolves_mk; with_reducible exact rfl; split)

theorem State.writeBlock_eq {s0 sx : State} {s : State} {a v : Nat} {w : Writer} {qx : Reason} (e : (State.writeBlock s a v w) = (sx, qx))
    (hev : Evolves s0 s) : Evolves s0 sx := by
  have g := State.writeBlock_ev a v w hev
  rw [e] at g
  exact g

end Sys2Proof.Machine
end

