-- ==== Sys2Proof/Laws/EvTables6.lean ====
section
/-! SUPPORT. Every operation of Machine/Tables6.lean lets the state grow (Safety.lean). -/

set_option Elab.async false

namespace Sys2Proof.Machine

theorem State.growEpoch_ev {s0 : State} {s : State} (hev : Evolves s0 s) :
    Evolves s0 (State.growEpoch s) := by
  unfold State.growEpoch
  repeat' first | (with_reducible apply evolves_mk; with_reducible exact rfl; with_reducible assumption)

theorem State.removeNode_ev {s0 : State} {s : State} (eui : Nat) (hev : Evolves s0 s) :
    Evolves s0 (State.removeNode s eui) := by
  unfold State.removeNode
  repeat' first
    | with_reducible assumption
    | with_reducible apply State.modEntry_ev
    | with_reducible apply State.setLink_ev
    | (with_reducible apply evolves_mk; with_reducible exact rfl; split)

theorem State.excludeNode_ev {s0 : State} {s : State} (eui : Nat) (hev : Evolves s0 s) :
    Evolves s0 (State.excludeNode s eui) := by
  unfold State.excludeNode
  repeat' first
    | with_reducible assumption
    | with_reducible apply State.knowNode_ev
    | with_reducible apply State.modEntry_ev
    | with_reducible apply State.setLink_ev
    | (with_reducible apply evolves_mk; with_reducible exact rfl; split)

theorem State.readmitNode_ev {s0 : State} {s : State} (eui : Nat) (hev : Evolves s0 s) :
    Evolves s0 (State.readmitNode s eui) := by
  unfold State.readmitNode
  repeat' first
    | with_reducible assumption
    | with_reducible apply State.removeNode_ev
    | with_reducible apply evolves_ite
    | (with_reducible apply evolves_mk; with_reducible exact rfl; split)

theorem State.admissionChanged_ev {s0 : State} {s : State} (old new : List (List Byte)) (hev : Evolves s0 s) :
    Evolves s0 (State.admissionChanged s old new) := by
  unfold State.admissionChanged
  repeat' first
    | with_reducible assumption
    | refine fun (_ : Evolves _ _) => ?_
    | with_reducible apply evolves_forEach
    | with_reducible apply State.checkRejoin_ev
    | with_reducible apply State.excludeNode_ev
    | with_reducible apply State.readmitNode_ev
    | with_reducible apply State.removeNode_ev
    | with_reducible apply evolves_ite
    | intro x

theorem State.configureAll_ev {s0 : State} {s : State} (effective : Cn) (hev : Evolves s0 s) :
    Evolves s0 (State.configureAll s effective) := by
  unfold State.configureAll
  repeat' first
    | with_reducible assumption
    | refine fun (_ : Evolves _ _) => ?_
    | with_reducible apply evolves_forEach
    | with_reducible apply State.configureNode_ev
    | with_reducible apply evolves_ite
    | intro x

theorem State.setInForce_ev {s0 : State} {s : State} (id : Nat) (l : List (List Byte)) (hev : Evolves s0 s) :
    Evolves s0 (State.setInForce s id l) := by
  unfold State.setInForce
  repeat' first | (with_reducible apply evolves_mk; with_reducible exact rfl; with_reducible assumption)

theorem State.clearContactors_ev {s0 : State} {s : State} (hev : Evolves s0 s) :
    Evolves s0 (State.clearContactors s) := by
  unfold State.clearContactors
  repeat' first
    | with_reducible assumption
    | refine fun (_ : Evolves _ _) => ?_
    | with_reducible apply evolves_forEach
    | with_reducible apply State.modKc_ev
    | with_reducible apply State.recordKc_ev
    | with_reducible apply evolves_ite
    | intro x

theorem State.staticPlans_ev {s0 : State} {s : State} (hev : Evolves s0 s) :
    Evolves s0 (State.staticPlans s) := by
  unfold State.staticPlans
  repeat' first
    | with_reducible assumption
    | refine fun (_ : Evolves _ _) => ?_
    | with_reducible apply evolves_forEach
    | with_reducible apply State.fixChange_ev
    | with_reducible apply evolves_ite
    | intro x

theorem State.dropLists_ev {s0 : State} {s : State} (eui : Nat) (hev : Evolves s0 s) :
    Evolves s0 (State.dropLists s eui) := by
  unfold State.dropLists
  repeat' first
    | with_reducible assumption
    | refine fun (_ : Evolves _ _) => ?_
    | with_reducible apply evolves_forEach
    | with_reducible apply State.resendItem_ev
    | with_reducible apply evolves_ite
    | (with_reducible apply evolves_mk; with_reducible exact rfl; split)
    | intro x

theorem State.routesChanged_ev {s0 : State} {s : State} (old new : List (List Byte)) (replaced : Bool) (hev : Evolves s0 s) :
    Evolves s0 (State.routesChanged s old new replaced) := by
  unfold State.routesChanged
  repeat' first
    | with_reducible assumption
    | refine fun (_ : Evolves _ _) => ?_
    | with_reducible apply evolves_forEach
    | with_reducible apply State.dropLists_ev
    | with_reducible apply evolves_ite
    | (with_reducible apply evolves_mk; with_reducible exact rfl; with_reducible assumption)
    | intro x

theorem State.enforceTable_ev {s0 : State} {s : State} (id : Nat) (hev : Evolves s0 s) :
    Evolves s0 (State.enforceTable s id) := by
  unfold State.enforceTable
  repeat' first
    | with_reducible apply State.admissionChanged_ev
    | with_reducible apply State.configureAll_ev
    | with_reducible apply State.routesChanged_ev
    | with_reducible apply State.staticPlans_ev
    | with_reducible apply evolves_ite
    | (with_reducible apply evolves_mk; with_reducible exact rfl; with_reducible assumption)
    | intro x
    | lift_lets
    | dsimp only

theorem State.announceTable_ev {s0 : State} {s : State} (id : Nat) (hev : Evolves s0 s) :
    Evolves s0 (State.announceTable s id) := by
  unfold State.announceTable
  repeat' first
    | with_reducible assumption
    | with_reducible apply State.configureAll_ev
    | with_reducible apply State.setInForce_ev
    | with_reducible apply evolves_ite
    | (with_reducible apply evolves_mk; with_reducible exact rfl; split)

theorem State.configTick_ev {s0 : State} {s : State} (hev : Evolves s0 s) :
    Evolves s0 (State.configTick s) := by
  unfold State.configTick
  repeat' first
    | with_reducible assumption
    | refine fun (_ : Evolves _ _) => ?_
    | with_reducible apply evolves_forEach
    | with_reducible apply State.enforceTable_ev
    | with_reducible apply evolves_ite
    | (with_reducible apply evolves_mk; with_reducible exact rfl; split)
    | intro x

end Sys2Proof.Machine
end

