-- ==== Sys2Proof/Laws/EvCanopy.lean ====
section
/-! SUPPORT. Every operation of Machine/Canopy.lean lets the state grow (Safety.lean). -/

set_option Elab.async false

namespace Sys2Proof.Machine

theorem State.placeSlot_ev {s0 : State} {s : State} (x : TileRec) (hev : Evolves s0 s) :
    Evolves s0 (State.placeSlot s x) := by
  unfold State.placeSlot
  repeat' first
    | with_reducible assumption
    | with_reducible apply State.pickOne_ev
    | (with_reducible apply evolves_mk; with_reducible exact rfl; (first | with_reducible apply State.pickOne_ev | split))

theorem State.placeEngines_ev {s0 s : State} (stand : Stand) (hev : Evolves s0 s) : Evolves s0 (s.placeEngines stand).2 := by
  unfold State.placeEngines
  dsimp only
  refine evolves_forEach_snd _ _ (fun _ a h => ?_) hev
  dsimp only
  exact State.pickOne_ev _ h

theorem State.placeEngines_eq {s0 s sx : State} {stand : Stand} {qx : List Nat} (e : s.placeEngines stand = (qx, sx))
    (hev : Evolves s0 s) : Evolves s0 sx := by
  have g := State.placeEngines_ev stand hev
  rw [e] at g
  exact g

theorem State.placeAll_ev {s0 : State} {s : State} (im : Image) (hev : Evolves s0 s) :
    Evolves s0 (State.placeAll s im) := by
  unfold State.placeAll
  repeat' first
    | with_reducible assumption
    | refine fun (_ : Evolves _ _) => ?_
    | with_reducible apply evolves_forEach
    | with_reducible apply State.placeEngines_ev
    | with_reducible apply State.placeSlot_ev
    | (with_reducible apply evolves_mk; with_reducible exact rfl; (first | with_reducible assumption | with_reducible apply State.placeEngines_ev))
    | intro x

theorem State.addRoutes_ev {s0 : State} {s : State} (l : List ImgRec) (hev : Evolves s0 s) :
    Evolves s0 (State.addRoutes s l) := by
  unfold State.addRoutes
  repeat' first | (with_reducible apply evolves_mk; with_reducible exact rfl; with_reducible assumption)

theorem State.dropRoutes_ev {s0 : State} {s : State} (mine : Nat → Bool) (hev : Evolves s0 s) :
    Evolves s0 (State.dropRoutes s mine) := by
  unfold State.dropRoutes
  repeat' first | (with_reducible apply evolves_mk; with_reducible exact rfl; with_reducible assumption)

theorem State.writeField_ev {s0 : State} {s : State} (a mask v : Nat) (hev : Evolves s0 s) :
    Evolves s0 (State.writeField s a mask v) := by
  unfold State.writeField
  repeat' first | with_reducible assumption | with_reducible apply State.writeBlock_ev

theorem State.writeMac_ev {s0 : State} {s : State} (x : TileRec) (hev : Evolves s0 s) :
    Evolves s0 (State.writeMac s x) := by
  unfold State.writeMac
  repeat' first
    | with_reducible assumption
    | with_reducible apply State.writeBlock_ev
    | with_reducible apply State.writeField_ev

theorem State.writePtp_ev {s0 : State} {s : State} (x : TileRec) (hev : Evolves s0 s) :
    Evolves s0 (State.writePtp s x) := by
  unfold State.writePtp
  repeat' first | with_reducible assumption | with_reducible apply State.writeField_ev

theorem State.writeMetering_ev {s0 : State} {s : State} (im : Image) (hev : Evolves s0 s) :
    Evolves s0 (State.writeMetering s im) := by
  unfold State.writeMetering
  repeat' first
    | with_reducible assumption
    | refine fun (_ : Evolves _ _) => ?_
    | with_reducible apply evolves_forEach
    | with_reducible apply State.writeBlock_ev
    | with_reducible apply evolves_ite
    | intro x

theorem State.writeBlocks_ev {s0 : State} {s : State} (im : Image) (l : List TileRec) (hev : Evolves s0 s) :
    Evolves s0 (State.writeBlocks s im l) := by
  unfold State.writeBlocks
  repeat' first
    | with_reducible assumption
    | refine fun (_ : Evolves _ _) => ?_
    | with_reducible apply evolves_forEach
    | with_reducible apply State.writeMac_ev
    | with_reducible apply State.writeMetering_ev
    | with_reducible apply State.writePtp_ev
    | (with_reducible apply evolves_mk; with_reducible exact rfl; split)
    | intro x

theorem State.writePresets_ev {s0 : State} {s : State} (l : List ImgRec) (hev : Evolves s0 s) :
    Evolves s0 (State.writePresets s l) := by
  unfold State.writePresets
  repeat' first
    | with_reducible assumption
    | refine fun (_ : Evolves _ _) => ?_
    | with_reducible apply evolves_forEach
    | with_reducible apply State.writeBlock_ev
    | intro x

theorem State.measureCanopy_ev {s0 : State} {s : State} (hev : Evolves s0 s) :
    Evolves s0 (State.measureCanopy s) := by
  unfold State.measureCanopy
  repeat' first | (with_reducible apply evolves_mk; with_reducible exact rfl; with_reducible assumption)

theorem State.rederiveMb_ev {s0 : State} {s : State} (hev : Evolves s0 s) :
    Evolves s0 (State.rederiveMb s) := by
  unfold State.rederiveMb
  repeat' first
    | with_reducible assumption
    | refine fun (_ : Evolves _ _) => ?_
    | with_reducible apply evolves_forEach
    | with_reducible apply State.setSlot_ev
    | with_reducible apply evolves_ite
    | (with_reducible apply evolves_mk; with_reducible exact rfl; split)
    | intro x

theorem State.setRegulatory_ev {s0 : State} {s : State} (p : Regulatory) (hev : Evolves s0 s) :
    Evolves s0 (State.setRegulatory s p) := by
  unfold State.setRegulatory
  repeat' first | (with_reducible apply evolves_mk; with_reducible exact rfl; with_reducible assumption)

theorem State.awaitRegulatory_ev {s0 : State} {s : State} (p : Regulatory) (hev : Evolves s0 s) :
    Evolves s0 (State.awaitRegulatory s p) := by
  unfold State.awaitRegulatory
  repeat' first
    | with_reducible assumption
    | refine fun (_ : Evolves _ _) => ?_
    | with_reducible apply evolves_forEach
    | with_reducible apply State.bringItem_ev
    | with_reducible apply evolves_ite
    | (with_reducible apply evolves_mk; with_reducible exact rfl; with_reducible assumption)
    | intro x

theorem State.setImage_ev {s0 : State} {s : State} (im : Image) (hev : Evolves s0 s) :
    Evolves s0 (State.setImage s im) := by
  unfold State.setImage
  repeat' first | (with_reducible apply evolves_mk; with_reducible exact rfl; with_reducible assumption)

theorem State.fullLoad_ev {s0 : State} {s : State} (im : Image) (hev : Evolves s0 s) :
    Evolves s0 (State.fullLoad s im) := by
  unfold State.fullLoad
  repeat' first
    | with_reducible assumption
    | refine fun (_ : Evolves _ _) => ?_
    | with_reducible apply evolves_iff
    | with_reducible apply evolves_whenLive
    | with_reducible apply evolves_forEach
    | with_reducible apply State.addRoutes_ev
    | with_reducible apply State.dropRoutes_ev
    | with_reducible apply State.placeAll_ev
    | with_reducible apply State.setImage_ev
    | with_reducible apply State.setRegulatory_ev
    | with_reducible apply State.writeBlock_ev
    | with_reducible apply State.writeBlocks_ev
    | with_reducible apply State.writePresets_ev
    | with_reducible apply evolves_ite
    | refine State.writeBlock_eq (by assumption) ?_
    | (with_reducible apply evolves_mk; (first | with_reducible exact rfl | (dsimp only; exact rfl)); (first | with_reducible assumption | with_reducible apply evolves_iff | with_reducible apply evolves_whenLive | with_reducible apply evolves_forEach | with_reducible apply State.addRoutes_ev | with_reducible apply State.dropRoutes_ev | with_reducible apply State.placeAll_ev | with_reducible apply State.setImage_ev | with_reducible apply State.setRegulatory_ev | with_reducible apply State.writeBlock_ev | with_reducible apply State.writeBlocks_ev | with_reducible apply State.writePresets_ev | with_reducible apply evolves_ite | refine State.writeBlock_eq (by assumption) ?_ | split))
    | (intro x; refine evolves_cut (s0 := s0) (x := x) ?_ ?_; rotate_left; clear_value x; intro hx; rotate_left; subst x)
    | (intro x; refine evolves_cut_snd (s0 := s0) (x := x) ?_ ?_; rotate_left; clear_value x; intro hx; rotate_left; subst x)
    | (intro x; refine evolves_cut_fst (s0 := s0) (x := x) ?_ ?_; rotate_left; clear_value x; intro hx; rotate_left; subst x)
    | (refine Prod.forall.2 ?_; dsimp only)
    | intro x
    | split
    | lift_lets
    | dsimp only

theorem State.refuseImage_ev {s0 : State} {s : State} (r : Reason) (index : Nat) (hev : Evolves s0 s) :
    Evolves s0 (State.refuseImage s r index) := by
  unfold State.refuseImage
  repeat' first
    | with_reducible apply State.post_ev
    | with_reducible apply State.record_ev
    | (with_reducible apply evolves_mk; with_reducible exact rfl; with_reducible assumption)

theorem State.fixClearing_ev {s0 : State} {s : State} (hev : Evolves s0 s) :
    Evolves s0 (State.fixClearing s) := by
  unfold State.fixClearing
  repeat' first
    | with_reducible assumption
    | with_reducible apply State.journalEntry_ev
    | (with_reducible apply evolves_mk; with_reducible exact rfl; (first | with_reducible assumption | split))

theorem execClearingFix_ev {s0 s1 : State} {s : State} (e : execClearingFix s = .next s1)
    (hev : Evolves s0 s) : Evolves s0 s1 := by
  unfold execClearingFix at e
  refine evolves_next e ?_
  repeat' first
    | with_reducible assumption
    | with_reducible apply evolves_whenLive
    | with_reducible apply State.fixClearing_ev

theorem State.carrySlot_ev {s0 : State} {s : State} (slot : Nat) (hev : Evolves s0 s) :
    Evolves s0 (State.carrySlot s slot) := by
  unfold State.carrySlot
  repeat' first
    | with_reducible assumption
    | with_reducible apply State.pickOne_ev
    | (with_reducible apply evolves_mk; with_reducible exact rfl; with_reducible apply State.pickOne_ev)

theorem State.stopMeter_ev {s0 : State} {s : State} (hev : Evolves s0 s) :
    Evolves s0 (State.stopMeter s) := by
  unfold State.stopMeter
  repeat' first
    | with_reducible assumption
    | refine fun (_ : Evolves _ _) => ?_
    | with_reducible apply evolves_forEach
    | with_reducible apply State.openGap_ev
    | (with_reducible apply evolves_mk; with_reducible exact rfl; with_reducible apply evolves_forEach)
    | intro x

theorem State.restartMeter_ev {s0 : State} {s : State} (hev : Evolves s0 s) :
    Evolves s0 (State.restartMeter s) := by
  unfold State.restartMeter
  repeat' first
    | with_reducible assumption
    | refine fun (_ : Evolves _ _) => ?_
    | with_reducible apply evolves_forEach
    | with_reducible apply State.closeGaps_ev
    | with_reducible apply State.modInt_ev
    | (with_reducible apply evolves_mk; with_reducible exact rfl; with_reducible assumption)
    | intro x

theorem State.emptyQueues_ev {s0 : State} {s : State} (region : Nat) (hev : Evolves s0 s) :
    Evolves s0 (State.emptyQueues s region) := by
  unfold State.emptyQueues
  repeat' first | (with_reducible apply evolves_mk; with_reducible exact rfl; with_reducible assumption)

theorem State.commitClearings_ev {s0 : State} {s : State} (hev : Evolves s0 s) :
    Evolves s0 (State.commitClearings s) := by
  unfold State.commitClearings
  repeat' first
    | with_reducible assumption
    | with_reducible apply State.modActivation_ev
    | with_reducible apply State.stepPhase_ev
    | with_reducible apply evolves_ite
    | (with_reducible apply evolves_mk; with_reducible exact rfl; (first | with_reducible assumption | split))

theorem State.startClearing_ev {s0 : State} {s : State} (k : Clearing) (hev : Evolves s0 s) :
    Evolves s0 (State.startClearing s k) := by
  unfold State.startClearing
  repeat' first
    | with_reducible assumption
    | refine fun (_ : Evolves _ _) => ?_
    | with_reducible apply evolves_iff
    | with_reducible apply State.carrySlot_ev
    | with_reducible apply State.commitClearings_ev
    | with_reducible apply State.emptyQueues_ev
    | with_reducible apply State.post_ev
    | with_reducible apply State.stopMeter_ev
    | with_reducible apply evolves_ite
    | (with_reducible apply evolves_mk; with_reducible exact rfl; (first | with_reducible assumption | with_reducible apply evolves_forEach))
    | (refine Prod.forall.2 ?_; dsimp only)
    | intro x

theorem State.clearingTick_ev {s0 : State} {s : State} (hev : Evolves s0 s) :
    Evolves s0 (State.clearingTick s) := by
  unfold State.clearingTick
  repeat' first
    | with_reducible assumption
    | refine fun (_ : Evolves _ _) => ?_
    | with_reducible apply evolves_iff
    | with_reducible apply evolves_forEach
    | with_reducible apply State.modTw_ev
    | with_reducible apply State.startClearing_ev
    | with_reducible apply evolves_ite
    | (with_reducible apply evolves_mk; with_reducible exact rfl; (first | with_reducible assumption | split))
    | intro x

theorem State.reloadSlot_ev {s0 : State} {s : State} (x : TileRec) (hev : Evolves s0 s) :
    Evolves s0 (State.reloadSlot s x) := by
  unfold State.reloadSlot
  repeat' first
    | with_reducible assumption
    | (with_reducible apply evolves_mk; with_reducible exact rfl; (first | with_reducible assumption | split))

theorem State.activateImage_ev {s0 : State} {s : State} (im : Image) (back : Bool) (hev : Evolves s0 s) :
    Evolves s0 (State.activateImage s im back) := by
  unfold State.activateImage
  repeat' first
    | with_reducible assumption
    | with_reducible apply evolves_iff
    | with_reducible apply State.growEpoch_ev
    | with_reducible apply State.measureCanopy_ev
    | with_reducible apply State.rederiveMb_ev
    | with_reducible apply State.setImage_ev
    | with_reducible apply State.stepPhase_ev
    | with_reducible apply evolves_ite
    | (with_reducible apply evolves_mk; with_reducible exact rfl; (first | with_reducible apply State.awaitRegulatory_ev | split))

theorem State.recordCleared_ev {s0 : State} {s : State} (k : Clearing) (hev : Evolves s0 s) :
    Evolves s0 (State.recordCleared s k) := by
  unfold State.recordCleared
  repeat' first
    | with_reducible assumption
    | with_reducible apply State.post_ev
    | with_reducible apply State.record_ev

theorem State.endClearing_ev {s0 : State} {s : State} (hev : Evolves s0 s) :
    Evolves s0 (State.endClearing s) := by
  unfold State.endClearing
  repeat' first
    | with_reducible assumption
    | refine fun (_ : Evolves _ _) => ?_
    | with_reducible apply evolves_iff
    | with_reducible apply evolves_forEach
    | with_reducible apply State.activateImage_ev
    | with_reducible apply State.addRoutes_ev
    | with_reducible apply State.dropRoutes_ev
    | with_reducible apply State.recordCleared_ev
    | with_reducible apply State.reloadSlot_ev
    | with_reducible apply State.restartMeter_ev
    | with_reducible apply State.writeBlocks_ev
    | with_reducible apply State.writePresets_ev
    | with_reducible apply evolves_ite
    | (with_reducible apply evolves_mk; with_reducible exact rfl; (first | with_reducible assumption | with_reducible apply State.recordCleared_ev | split))
    | intro x

theorem execClearingEnd_ev {s0 s1 : State} {s : State} (e : execClearingEnd s = .next s1)
    (hev : Evolves s0 s) : Evolves s0 s1 := by
  unfold execClearingEnd at e
  refine evolves_next e ?_
  repeat' first
    | with_reducible assumption
    | with_reducible apply evolves_whenLive
    | with_reducible apply State.endClearing_ev

theorem State.plainActivation_ev {s0 : State} {s : State} (hev : Evolves s0 s) :
    Evolves s0 (State.plainActivation s) := by
  unfold State.plainActivation
  repeat' first
    | with_reducible assumption
    | with_reducible apply evolves_iff
    | with_reducible apply State.activateImage_ev
    | with_reducible apply State.commitClearings_ev
    | with_reducible apply evolves_ite
    | (with_reducible apply evolves_mk; with_reducible exact rfl; split)

theorem State.regulatoryTick_ev {s0 : State} {s : State} (hev : Evolves s0 s) :
    Evolves s0 (State.regulatoryTick s) := by
  unfold State.regulatoryTick
  repeat' first
    | with_reducible assumption
    | with_reducible apply State.setRegulatory_ev
    | with_reducible apply evolves_ite
    | (with_reducible apply evolves_mk; with_reducible exact rfl; split)

theorem execSegmentDigestRefresh_ev {s0 s1 : State} {s : State} (e : execSegmentDigestRefresh s = .next s1)
    (hev : Evolves s0 s) : Evolves s0 s1 := by
  unfold execSegmentDigestRefresh at e
  refine evolves_next e ?_
  repeat' first
    | with_reducible assumption
    | refine fun (_ : Evolves _ _) => ?_
    | with_reducible apply evolves_whenLive
    | (with_reducible apply evolves_mk; with_reducible exact rfl; with_reducible assumption)
    | intro x

end Sys2Proof.Machine
end

