-- ==== Sys2Proof/Laws/EvFordOps.lean ====
section
/-! SUPPORT. Every operation of Machine/FordOps.lean lets the state grow (Safety.lean). -/

set_option Elab.async false

namespace Sys2Proof.Machine

theorem State.modStand_ev {s0 : State} {s : State} (x : Stand) (g : StandSt → StandSt) (hev : Evolves s0 s) :
    Evolves s0 (State.modStand s x g) := by
  unfold State.modStand
  repeat' first
    | (with_reducible apply evolves_mk; with_reducible exact rfl; (first | with_reducible assumption | split))

theorem State.fordEventAs_ev {s0 : State} {s : State} (role : Role) (source kind payload : Nat) (hev : Evolves s0 s) :
    Evolves s0 (State.fordEventAs s role source kind payload) := by
  unfold State.fordEventAs
  repeat' first
    | with_reducible assumption
    | with_reducible apply State.post_ev
    | with_reducible apply State.recordAs_ev

theorem State.fordEvent_ev {s0 : State} {s : State} (source kind payload : Nat) (hev : Evolves s0 s) :
    Evolves s0 (State.fordEvent s source kind payload) := by
  unfold State.fordEvent
  repeat' first | with_reducible assumption | with_reducible apply State.fordEventAs_ev

theorem State.setStand_ev {s0 : State} {s : State} (x : Stand) (st : StandState) (hev : Evolves s0 s) :
    Evolves s0 (State.setStand s x st) := by
  unfold State.setStand
  repeat' first
    | with_reducible assumption
    | with_reducible apply State.fordEvent_ev
    | with_reducible apply State.modStand_ev
    | with_reducible apply evolves_ite

theorem State.cutStand_ev {s0 : State} {s : State} (x : Stand) (icause : Nat) (hev : Evolves s0 s) :
    Evolves s0 (State.cutStand s x icause) := by
  unfold State.cutStand
  repeat' first | with_reducible assumption | with_reducible apply State.cutSlices_ev

theorem State.withdrawStand_ev {s0 : State} {s : State} (x : Stand) (icause : Nat) (hev : Evolves s0 s) :
    Evolves s0 (State.withdrawStand s x icause) := by
  unfold State.withdrawStand
  repeat' first
    | with_reducible assumption
    | with_reducible apply State.cutStand_ev
    | with_reducible apply State.setStand_ev
    | (with_reducible apply evolves_mk; with_reducible exact rfl; with_reducible apply State.modStand_ev)

theorem State.holdFor_ev {s0 : State} {s : State} (cause : Nat) (hev : Evolves s0 s) :
    Evolves s0 (State.holdFor s cause) := by
  unfold State.holdFor
  repeat' first | (with_reducible apply evolves_mk; with_reducible exact rfl; with_reducible assumption)

theorem State.release_ev {s0 : State} {s : State} (decision hold : Nat) (hev : Evolves s0 s) :
    Evolves s0 (State.release s decision hold) := by
  unfold State.release
  repeat' first | (with_reducible apply evolves_mk; with_reducible exact rfl; with_reducible assumption)

theorem State.driveFrom_ev {s0 : State} {s : State} (x : Stand) (hev : Evolves s0 s) :
    Evolves s0 (State.driveFrom s x) := by
  unfold State.driveFrom
  repeat' first
    | with_reducible assumption
    | (with_reducible apply evolves_mk; with_reducible exact rfl; with_reducible apply State.setStand_ev)

theorem State.switchOver_ev {s0 : State} {s : State} (hold : Nat) (hev : Evolves s0 s) :
    Evolves s0 (State.switchOver s hold) := by
  unfold State.switchOver
  repeat' first
    | with_reducible assumption
    | with_reducible apply State.driveFrom_ev
    | with_reducible apply State.fordEvent_ev
    | with_reducible apply State.release_ev
    | with_reducible apply State.withdrawStand_ev

theorem State.takeShadow_ev {s0 : State} {s : State} (hev : Evolves s0 s) :
    Evolves s0 (State.takeShadow s) := by
  unfold State.takeShadow
  repeat' first | (with_reducible apply evolves_mk; with_reducible exact rfl; with_reducible assumption)

theorem State.enterSafeHold_ev {s0 : State} {s : State} (vote : Bool) (hold : Nat) (hev : Evolves s0 s) :
    Evolves s0 (State.enterSafeHold s vote hold) := by
  unfold State.enterSafeHold
  repeat' first
    | with_reducible assumption
    | with_reducible apply State.fordEvent_ev
    | with_reducible apply State.release_ev
    | with_reducible apply State.withdrawStand_ev
    | with_reducible apply evolves_ite
    | (with_reducible apply evolves_mk; with_reducible exact rfl; with_reducible apply State.takeShadow_ev)

theorem State.countRestart_ev {s0 : State} {s : State} (x : Stand) (hev : Evolves s0 s) :
    Evolves s0 (State.countRestart s x) := by
  unfold State.countRestart
  repeat' first
    | with_reducible assumption
    | (with_reducible apply evolves_mk; with_reducible exact rfl; (first | with_reducible apply State.drainStaging_ev | split))

theorem State.beginLearning_ev {s0 : State} {s : State} (x : Stand) (hev : Evolves s0 s) :
    Evolves s0 (State.beginLearning s x) := by
  unfold State.beginLearning
  repeat' first
    | with_reducible assumption
    | with_reducible apply State.countRestart_ev
    | with_reducible apply State.modStand_ev
    | with_reducible apply State.setStand_ev
    | with_reducible apply evolves_ite
    | (with_reducible apply evolves_mk; with_reducible exact rfl; with_reducible apply State.modStand_ev)

theorem State.requestSwitch_ev {s0 : State} {s : State} (x : Stand) (at_ : Cn) (drover : Bool) (role : Role) (hev : Evolves s0 s) :
    Evolves s0 (State.requestSwitch s x at_ drover role) := by
  unfold State.requestSwitch
  repeat' first | (with_reducible apply evolves_mk; with_reducible exact rfl; with_reducible assumption)

theorem State.plannedSwitch_ev {s0 : State} {s : State} (p : PlannedSwitch) (hev : Evolves s0 s) :
    Evolves s0 (State.plannedSwitch s p) := by
  unfold State.plannedSwitch
  repeat' first
    | with_reducible apply State.cutStand_ev
    | with_reducible apply State.driveFrom_ev
    | with_reducible apply State.fordEventAs_ev
    | with_reducible apply State.setStand_ev
    | (with_reducible apply evolves_mk; with_reducible exact rfl; with_reducible assumption)

end Sys2Proof.Machine
end

