-- ==== Sys2Proof/Laws/EvDroverOps.lean ====
section
/-! SUPPORT. Every operation of Machine/DroverOps.lean lets the state grow (Safety.lean). -/

set_option Elab.async false

namespace Sys2Proof.Machine

theorem State.sessionChanged_ev {s0 : State} {s : State} (old : Nat) (hev : Evolves s0 s) :
    Evolves s0 (State.sessionChanged s old) := by
  unfold State.sessionChanged
  repeat' first | with_reducible assumption | with_reducible apply State.post_ev | with_reducible apply evolves_ite

theorem State.endUpdate_ev {s0 : State} {s : State} (hev : Evolves s0 s) :
    Evolves s0 (State.endUpdate s) := by
  unfold State.endUpdate
  repeat' first
    | with_reducible apply State.sessionChanged_ev
    | (with_reducible apply evolves_mk; with_reducible exact rfl; with_reducible assumption)

theorem State.dropActivation_ev {s0 : State} {s : State} (hev : Evolves s0 s) :
    Evolves s0 (State.dropActivation s) := by
  unfold State.dropActivation
  repeat' first
    | with_reducible apply State.sessionChanged_ev
    | (with_reducible apply evolves_mk; with_reducible exact rfl; with_reducible assumption)

theorem State.startCaravan_ev {s0 : State} {s : State} (c : Caravan) (hev : Evolves s0 s) :
    Evolves s0 (State.startCaravan s c) := by
  unfold State.startCaravan
  repeat' first
    | with_reducible assumption
    | with_reducible apply State.endCaravan_ev
    | with_reducible apply evolves_ite
    | (with_reducible apply evolves_mk; with_reducible exact rfl; (first | with_reducible assumption | with_reducible apply evolves_ite | split))

theorem State.rewrite_ev {s0 : State} {s : State} (x : Stand) (hev : Evolves s0 s) :
    Evolves s0 (State.rewrite s x) := by
  unfold State.rewrite
  repeat' first | with_reducible assumption | with_reducible apply State.modStand_ev

theorem State.rollBack_ev {s0 : State} {s : State} (reason : Reason) (check : Nat) (hev : Evolves s0 s) :
    Evolves s0 (State.rollBack s reason check) := by
  unfold State.rollBack
  repeat' first
    | with_reducible assumption
    | refine fun (_ : Evolves _ _) => ?_
    | with_reducible apply State.dropActivation_ev
    | with_reducible apply State.rewrite_ev
    | with_reducible apply State.setStand_ev
    | with_reducible apply State.stepPhase_ev
    | (with_reducible apply evolves_mk; with_reducible exact rfl; (first | with_reducible assumption | with_reducible apply evolves_iff | split))
    | intro x

theorem State.reportFallback_ev {s0 : State} {s : State} (reason : Reason) (check : Nat) (hev : Evolves s0 s) :
    Evolves s0 (State.reportFallback s reason check) := by
  unfold State.reportFallback
  repeat' first
    | with_reducible apply State.postRecord_ev
    | (with_reducible apply evolves_mk; with_reducible exact rfl; with_reducible assumption)

theorem State.restoreBackup_ev {s0 : State} {s : State} (hev : Evolves s0 s) :
    Evolves s0 (State.restoreBackup s) := by
  unfold State.restoreBackup
  repeat' first
    | with_reducible assumption
    | with_reducible apply State.setImage_ev
    | (with_reducible apply evolves_mk; with_reducible exact rfl; (first | with_reducible assumption | split))

theorem State.endFallback_ev {s0 : State} {s : State} (hev : Evolves s0 s) :
    Evolves s0 (State.endFallback s) := by
  unfold State.endFallback
  repeat' first
    | with_reducible assumption
    | with_reducible apply State.endUpdate_ev
    | with_reducible apply State.stepPhase_ev

theorem State.fallBack_ev {s0 : State} {s : State} (reason : Reason) (check : Nat) (hev : Evolves s0 s) :
    Evolves s0 (State.fallBack s reason check) := by
  unfold State.fallBack
  repeat' first
    | with_reducible assumption
    | with_reducible apply State.endFallback_ev
    | with_reducible apply State.growEpoch_ev
    | with_reducible apply State.modActivation_ev
    | with_reducible apply State.requestSwitch_ev
    | with_reducible apply State.restoreBackup_ev
    | with_reducible apply State.rewrite_ev
    | with_reducible apply State.stepPhase_ev
    | with_reducible apply evolves_ite
    | (with_reducible apply evolves_mk; with_reducible exact rfl; (first | with_reducible apply State.modActivation_ev | with_reducible apply State.reportFallback_ev | split))

theorem State.fallbackSwitched_ev {s0 : State} {s : State} (hev : Evolves s0 s) :
    Evolves s0 (State.fallbackSwitched s) := by
  unfold State.fallbackSwitched
  repeat' first
    | with_reducible assumption
    | with_reducible apply State.endFallback_ev
    | with_reducible apply State.fullLoad_ev
    | with_reducible apply State.measureCanopy_ev
    | with_reducible apply State.rederiveMb_ev
    | with_reducible apply State.restoreBackup_ev
    | with_reducible apply State.rewrite_ev
    | (with_reducible apply evolves_mk; with_reducible exact rfl; split)

theorem State.leaveBehind_ev {s0 : State} {s : State} (hev : Evolves s0 s) :
    Evolves s0 (State.leaveBehind s) := by
  unfold State.leaveBehind
  repeat' first
    | with_reducible assumption
    | refine fun (_ : Evolves _ _) => ?_
    | with_reducible apply evolves_iff
    | with_reducible apply evolves_whenLive
    | with_reducible apply evolves_forEach
    | with_reducible apply State.modStand_ev
    | with_reducible apply evolves_ite
    | (with_reducible apply evolves_mk; (first | with_reducible exact rfl | (dsimp only; exact rfl)); (first | with_reducible assumption | with_reducible apply evolves_iff | with_reducible apply evolves_whenLive | with_reducible apply evolves_forEach | with_reducible apply State.modStand_ev | with_reducible apply evolves_ite | split))
    | (intro x; refine evolves_cut (s0 := s0) (x := x) ?_ ?_; rotate_left; clear_value x; intro hx; rotate_left; subst x)
    | intro x
    | split
    | lift_lets
    | dsimp only

theorem State.clearingsLeave_ev {s0 : State} {s : State} (hev : Evolves s0 s) :
    Evolves s0 (State.clearingsLeave s) := by
  unfold State.clearingsLeave
  repeat' first
    | with_reducible assumption
    | refine fun (_ : Evolves _ _) => ?_
    | with_reducible apply evolves_iff
    | with_reducible apply evolves_whenLive
    | with_reducible apply evolves_forEach
    | with_reducible apply State.leaveBehind_ev
    | with_reducible apply evolves_ite
    | (with_reducible apply evolves_mk; (first | with_reducible exact rfl | (dsimp only; exact rfl)); (first | with_reducible assumption | with_reducible apply evolves_iff | with_reducible apply evolves_whenLive | with_reducible apply evolves_forEach | with_reducible apply State.leaveBehind_ev | with_reducible apply evolves_ite | split))
    | (intro x; refine evolves_cut (s0 := s0) (x := x) ?_ ?_; rotate_left; clear_value x; intro hx; rotate_left; subst x)
    | intro x
    | split
    | lift_lets
    | dsimp only

theorem State.adoptStores_ev {s0 : State} {s : State} (a : Activation) (hev : Evolves s0 s) :
    Evolves s0 (State.adoptStores s a) := by
  unfold State.adoptStores
  repeat' first
    | with_reducible assumption
    | refine fun (_ : Evolves _ _) => ?_
    | with_reducible apply evolves_iff
    | with_reducible apply evolves_whenLive
    | with_reducible apply evolves_forEach
    | with_reducible apply State.growEpoch_ev
    | with_reducible apply State.leaveBehind_ev
    | with_reducible apply State.setImage_ev
    | with_reducible apply evolves_ite
    | (with_reducible apply evolves_mk; (first | with_reducible exact rfl | (dsimp only; exact rfl)); (first | with_reducible assumption | with_reducible apply evolves_iff | with_reducible apply evolves_whenLive | with_reducible apply evolves_forEach | with_reducible apply State.growEpoch_ev | with_reducible apply State.leaveBehind_ev | with_reducible apply State.setImage_ev | with_reducible apply evolves_ite | split))
    | (intro x; refine evolves_cut (s0 := s0) (x := x) ?_ ?_; rotate_left; clear_value x; intro hx; rotate_left; subst x)
    | intro x
    | split
    | lift_lets
    | dsimp only

theorem State.adopt_ev {s0 : State} {s : State} (a : Activation) (hev : Evolves s0 s) :
    Evolves s0 (State.adopt s a) := by
  unfold State.adopt
  repeat' first
    | with_reducible assumption
    | with_reducible apply State.adoptStores_ev
    | with_reducible apply State.fullLoad_ev
    | (with_reducible apply evolves_mk; with_reducible exact rfl; split)

theorem State.committedNow_ev {s0 : State} {s : State} (hev : Evolves s0 s) :
    Evolves s0 (State.committedNow s) := by
  unfold State.committedNow
  repeat' first
    | with_reducible assumption
    | with_reducible apply State.modActivation_ev
    | with_reducible apply State.stepPhase_ev

theorem State.resetSessions_ev {s0 : State} {s : State} (hev : Evolves s0 s) :
    Evolves s0 (State.resetSessions s) := by
  unfold State.resetSessions
  repeat' first
    | with_reducible assumption
    | refine fun (_ : Evolves _ _) => ?_
    | with_reducible apply evolves_forEach
    | with_reducible apply State.closeSession_ev
    | (with_reducible apply evolves_mk; with_reducible exact rfl; split)
    | intro x

theorem State.commitHandover_ev {s0 : State} {s : State} (hev : Evolves s0 s) :
    Evolves s0 (State.commitHandover s) := by
  unfold State.commitHandover
  repeat' first
    | with_reducible assumption
    | with_reducible apply State.adopt_ev
    | with_reducible apply State.committedNow_ev
    | with_reducible apply State.measureCanopy_ev
    | with_reducible apply State.modStand_ev
    | with_reducible apply State.rederiveMb_ev
    | with_reducible apply State.resetSessions_ev
    | (with_reducible apply evolves_mk; with_reducible exact rfl; split)

theorem State.completeUpdate_ev {s0 : State} {s : State} (hev : Evolves s0 s) :
    Evolves s0 (State.completeUpdate s) := by
  unfold State.completeUpdate
  repeat' first
    | with_reducible assumption
    | with_reducible apply State.endUpdate_ev
    | with_reducible apply State.stepPhase_ev

theorem State.confirmed_ev {s0 : State} {s : State} (hev : Evolves s0 s) :
    Evolves s0 (State.confirmed s) := by
  unfold State.confirmed
  repeat' first
    | with_reducible assumption
    | refine fun (_ : Evolves _ _) => ?_
    | with_reducible apply evolves_forEach
    | with_reducible apply State.completeUpdate_ev
    | with_reducible apply State.post_ev
    | with_reducible apply State.rewrite_ev
    | with_reducible apply State.startCaravan_ev
    | with_reducible apply evolves_ite
    | (with_reducible apply evolves_mk; with_reducible exact rfl; (first | with_reducible apply State.stepPhase_ev | split))
    | intro x
    | lift_lets
    | dsimp only

theorem State.stopUpdate_ev {s0 : State} {s : State} (reason : Reason) (check : Nat) (hev : Evolves s0 s) :
    Evolves s0 (State.stopUpdate s reason check) := by
  unfold State.stopUpdate
  repeat' first
    | with_reducible assumption
    | with_reducible apply State.fallBack_ev
    | with_reducible apply State.rollBack_ev
    | with_reducible apply evolves_ite
    | (with_reducible apply evolves_mk; with_reducible exact rfl; split)

end Sys2Proof.Machine
end

