-- ==== Sys2Proof/Laws/EvRestart.lean ====
section
/-! SUPPORT. Every operation of Machine/Restart.lean lets the state grow (Safety.lean). -/

set_option Elab.async false

namespace Sys2Proof.Machine

theorem State.rollForward_ev {s0 : State} {s : State} (a : Activation) (hev : Evolves s0 s) :
    Evolves s0 (State.rollForward s a) := by
  unfold State.rollForward
  repeat' first
    | with_reducible assumption
    | with_reducible apply State.modActivation_ev
    | (with_reducible apply evolves_mk; with_reducible exact rfl; (first | with_reducible apply State.modActivation_ev | split))

theorem State.completeFallback_ev {s0 : State} {s : State} (a : Activation) (hev : Evolves s0 s) :
    Evolves s0 (State.completeFallback s a) := by
  unfold State.completeFallback
  repeat' first
    | with_reducible assumption
    | refine fun (_ : Evolves _ _) => ?_
    | with_reducible apply State.endFallback_ev
    | with_reducible apply State.restoreBackup_ev
    | with_reducible apply State.rewrite_ev
    | (with_reducible apply evolves_mk; with_reducible exact rfl; with_reducible apply evolves_iff)
    | intro x

theorem State.journalStart_ev {s0 : State} {s : State} (hev : Evolves s0 s) :
    Evolves s0 (State.journalStart s) := by
  unfold State.journalStart
  repeat' first
    | with_reducible assumption
    | with_reducible apply State.completeFallback_ev
    | with_reducible apply State.dropActivation_ev
    | with_reducible apply State.openReason_ev
    | with_reducible apply State.rollBack_ev
    | with_reducible apply State.rollForward_ev
    | with_reducible apply State.sessionPhase_ev
    | with_reducible apply evolves_ite
    | (with_reducible apply evolves_mk; with_reducible exact rfl; (first | with_reducible assumption | split))
    | intro x
    | lift_lets
    | dsimp only

theorem canonicalRegs_filter (p : Nat × Word → Bool) (t : Table Word) (h : canonicalRegs t = true) :
    canonicalRegs (t.filter p) = true := by
  simp only [canonicalRegs, Bool.and_eq_true, List.all_eq_true, decide_eq_true_eq] at h ⊢
  refine ⟨?_, fun q hq => h.2 q (List.mem_filter.1 hq).1⟩
  have hs := h.1
  clear h
  induction t with
  | nil => rfl
  | cons q r ih =>
    obtain ⟨j, w⟩ := q
    have hj := (tsorted_cons j w r).1 hs
    rw [List.filter_cons]
    split
    · refine (tsorted_cons _ _ _).2 ⟨?_, ih hj.2⟩
      clear ih hs
      induction r with
      | nil => trivial
      | cons q r ih =>
        obtain ⟨i, x⟩ := q
        have hi := (tsorted_cons i x r).1 hj.2
        rw [List.filter_cons]
        split
        · exact hj.1
        · exact ih ⟨above_trans _ _ _ hj.1 hi.1, hi.2⟩
    · exact ih hj.2

theorem State.timeAt_stores (s : State) (b : Bool) :
    (s.timeAt b).history = [] ∧ (s.timeAt b).captures = List.replicate 7 {} := by
  unfold State.timeAt
  dsimp only
  split <;> exact ⟨rfl, rfl⟩

theorem State.restart_ev {s0 s : State} (cause : Nat) (hev : Evolves s0 s) : Evolves s0 (s.restart cause) := by
  unfold State.restart
  extract_lets power s1 s2 overridden cn time ford sys nodes image s3 s4 s5
  have h1 : Evolves s0 s1 := State.cutSlices_ev _ _ hev
  clear_value s1
  have h2 : Evolves s0 s2 := evolves_ite _ h1 (State.drainStaging_ev h1)
  clear_value s2
  have ht := State.timeAt_stores s2 (!power)
  have h3 : Evolves s0 s3 := by
    refine evolves_fresh h2 rfl ?_ id ?_ ?_ (canonicalRegs_filter _ _)
    · exact Nat.zero_le _
    · rw [show time.history = [] from ht.1]
      exact Nat.zero_le _
    · rw [show time.captures = _ from ht.2]
      intro c hc
      rw [List.eq_of_mem_replicate hc]
      exact Nat.zero_le _
  exact State.journalStart_ev (evolves_forEach _ _ (fun _ _ hx => State.armTamper_ev _ hx) (State.setReg_ev _ _ h3))

theorem State.saveMeter_ev {s0 : State} {s : State} (hev : Evolves s0 s) :
    Evolves s0 (State.saveMeter s) := by
  unfold State.saveMeter
  repeat' first
    | with_reducible assumption
    | refine fun (_ : Evolves _ _) => ?_
    | with_reducible apply evolves_forEach
    | with_reducible apply State.gapRecord_ev
    | (with_reducible apply evolves_mk; with_reducible exact rfl; with_reducible apply State.takeSnapshot_ev)
    | intro x

theorem State.floodAgain_eq {s0 s u : State} {p : Promise} (q : s.floodAgain p = some u) (hev : Evolves s0 s) :
    Evolves s0 u := by
  unfold State.floodAgain at q
  dsimp only at q
  generalize hb : (_ && decide (s.cn + 40 ≤ p.promised)) = b at q
  cases b with
  | false => simp at q
  | true =>
    simp only [if_true] at q
    split at q
    · simp only [Option.some.injEq] at q
      exact q ▸ State.sendPromise_ev _ _ _ _ _ (State.modPromise_ev _ _ (State.fit_eq ‹_› hev))
    · simp at q

theorem State.recover_ev {s0 : State} {s : State} (p : Promise) (hev : Evolves s0 s) :
    Evolves s0 (State.recover s p) := by
  unfold State.recover
  repeat' first
    | with_reducible assumption
    | refine fun (_ : Evolves _ _) => ?_
    | with_reducible apply evolves_forEach
    | with_reducible apply State.modPromise_ev
    | with_reducible apply State.query_ev
    | with_reducible apply evolves_ite
    | refine State.floodAgain_eq (by assumption) ?_
    | (with_reducible apply evolves_mk; with_reducible exact rfl; split)
    | intro x

theorem State.recoverPromises_ev {s0 : State} {s : State} (hev : Evolves s0 s) :
    Evolves s0 (State.recoverPromises s) := by
  unfold State.recoverPromises
  repeat' first
    | with_reducible assumption
    | refine fun (_ : Evolves _ _) => ?_
    | with_reducible apply evolves_forEach
    | with_reducible apply State.recover_ev
    | with_reducible apply evolves_ite
    | intro x

end Sys2Proof.Machine
end

