-- ==== Sys2Proof/Laws/EvFord.lean ====
section
/-! SUPPORT. Every operation of Machine/Ford.lean lets the state grow (Safety.lean). -/

set_option Elab.async false

namespace Sys2Proof.Machine

theorem State.openCheck_ev {s0 : State} {s : State} (hev : Evolves s0 s) :
    Evolves s0 (State.openCheck s).2 := by
  unfold State.openCheck
  repeat' first | with_reducible assumption | with_reducible apply State.drawNat_ev

theorem State.openCheck_eq {s0 sx : State} {s : State} {qx : Nat} (e : (State.openCheck s) = (qx, sx))
    (hev : Evolves s0 s) : Evolves s0 sx := by
  have g := State.openCheck_ev  hev
  rw [e] at g
  exact g

theorem State.stopFor_ev {s0 : State} {s : State} (reason : Reason) (hev : Evolves s0 s) :
    Evolves s0 (State.stopFor s reason) := by
  unfold State.stopFor
  repeat' first
    | with_reducible assumption
    | with_reducible apply State.openCheck_ev
    | with_reducible apply State.stopUpdate_ev
    | (with_reducible apply evolves_mk; with_reducible exact rfl; split)

theorem State.standbyLost_ev {s0 : State} {s : State} (hev : Evolves s0 s) :
    Evolves s0 (State.standbyLost s) := by
  unfold State.standbyLost
  repeat' first
    | with_reducible assumption
    | with_reducible apply State.openCheck_ev
    | with_reducible apply State.openReason_ev
    | with_reducible apply State.rollBack_ev
    | with_reducible apply evolves_ite
    | (with_reducible apply evolves_mk; with_reducible exact rfl; split)

theorem State.switchedFor_ev {s0 : State} {s : State} (hev : Evolves s0 s) :
    Evolves s0 (State.switchedFor s) := by
  unfold State.switchedFor
  repeat' first
    | with_reducible assumption
    | with_reducible apply State.commitHandover_ev
    | with_reducible apply State.fallbackSwitched_ev
    | with_reducible apply State.openReason_ev
    | with_reducible apply State.standbyLost_ev
    | with_reducible apply evolves_ite
    | (with_reducible apply evolves_mk; with_reducible exact rfl; (first | with_reducible apply State.fallBack_ev | split))

theorem State.noteDiagnosis_ev {s0 : State} {s : State} (x : Stand) (causes : Nat) (hev : Evolves s0 s) :
    Evolves s0 (State.noteDiagnosis s x causes) := by
  unfold State.noteDiagnosis
  repeat' first | with_reducible assumption | with_reducible apply State.modStand_ev

theorem State.keep_ev {s0 : State} {s : State} (hold : Nat) (lost : Bool) (hev : Evolves s0 s) :
    Evolves s0 (State.keep s hold lost) := by
  unfold State.keep
  repeat' first
    | with_reducible assumption
    | with_reducible apply State.release_ev
    | with_reducible apply State.standbyLost_ev
    | with_reducible apply State.withdrawStand_ev
    | with_reducible apply evolves_ite

theorem State.safeHoldNow_ev {s0 : State} {s : State} (vote : Bool) (hold : Nat) (hev : Evolves s0 s) :
    Evolves s0 (State.safeHoldNow s vote hold) := by
  unfold State.safeHoldNow
  repeat' first
    | with_reducible assumption
    | with_reducible apply State.enterSafeHold_ev
    | with_reducible apply State.stopFor_ev

theorem State.unresolved_ev {s0 : State} {s : State} (hold : Nat) (hev : Evolves s0 s) :
    Evolves s0 (State.unresolved s hold) := by
  unfold State.unresolved
  repeat' first
    | with_reducible assumption
    | with_reducible apply State.beginLearning_ev
    | with_reducible apply State.cutStand_ev
    | with_reducible apply State.fordEvent_ev
    | (with_reducible apply evolves_mk; with_reducible exact rfl; with_reducible apply State.release_ev)

theorem State.fordDecides_ev {s0 : State} {s : State} (hold : Nat) (hev : Evolves s0 s) :
    Evolves s0 (State.fordDecides s hold) := by
  unfold State.fordDecides
  repeat' first
    | with_reducible assumption
    | with_reducible apply State.keep_ev
    | with_reducible apply State.safeHoldNow_ev
    | with_reducible apply State.switchOver_ev
    | with_reducible apply State.switchedFor_ev
    | with_reducible apply State.unresolved_ev
    | with_reducible apply evolves_ite
    | (with_reducible apply evolves_mk; with_reducible exact rfl; split)

theorem State.answered_ev {s0 : State} {s : State} (x : Stand) (causes : Nat) (hev : Evolves s0 s) :
    Evolves s0 (State.answered s x causes) := by
  unfold State.answered
  repeat' first
    | with_reducible assumption
    | (with_reducible apply evolves_mk; with_reducible exact rfl; with_reducible apply State.noteDiagnosis_ev)

theorem State.noteWithdrew_ev {s0 : State} {s : State} (hev : Evolves s0 s) :
    Evolves s0 (State.noteWithdrew s) := by
  unfold State.noteWithdrew
  repeat' first | (with_reducible apply evolves_mk; with_reducible exact rfl; with_reducible assumption)

theorem State.startHold_ev {s0 : State} {s : State} (cause : Nat) (hev : Evolves s0 s) :
    Evolves s0 (State.startHold s cause) := by
  unfold State.startHold
  repeat' first
    | with_reducible assumption
    | with_reducible apply State.holdFor_ev
    | with_reducible apply evolves_ite
    | (with_reducible apply evolves_mk; with_reducible exact rfl; with_reducible apply State.holdFor_ev)

theorem State.probationDivergence_ev {s0 : State} {s : State} (cause : Nat) (hev : Evolves s0 s) :
    Evolves s0 (State.probationDivergence s cause) := by
  unfold State.probationDivergence
  repeat' first
    | with_reducible apply State.withdrawStand_ev
    | with_reducible apply evolves_ite
    | (with_reducible apply evolves_mk; with_reducible exact rfl; (first | with_reducible assumption | with_reducible apply State.modStand_ev))

theorem execDivergence_ev {s0 s1 : State} (cls : Fin 8) (pin : BitVec 16) (tag : BitVec 64) {s : State} (e : execDivergence cls pin tag s = .next s1)
    (hev : Evolves s0 s) : Evolves s0 s1 := by
  unfold execDivergence at e
  refine evolves_next e ?_
  repeat' first
    | with_reducible assumption
    | refine fun (_ : Evolves _ _) => ?_
    | with_reducible apply evolves_iff
    | with_reducible apply evolves_whenLive
    | with_reducible apply State.fordEvent_ev
    | with_reducible apply State.probationDivergence_ev
    | with_reducible apply State.startHold_ev
    | with_reducible apply evolves_ite
    | (with_reducible apply evolves_mk; with_reducible exact rfl; with_reducible assumption)
    | intro x

theorem execHeartbeatLost_ev {s0 s1 : State} (stand : Stand) (hold : Word) {s : State} (e : execHeartbeatLost stand hold s = .next s1)
    (hev : Evolves s0 s) : Evolves s0 s1 := by
  unfold execHeartbeatLost at e
  refine evolves_next e ?_
  repeat' first
    | with_reducible assumption
    | refine fun (_ : Evolves _ _) => ?_
    | with_reducible apply evolves_iff
    | with_reducible apply evolves_whenLive
    | with_reducible apply State.answered_ev
    | with_reducible apply State.fordDecides_ev
    | with_reducible apply State.fordEvent_ev
    | with_reducible apply State.probationDivergence_ev
    | with_reducible apply State.standbyLost_ev
    | with_reducible apply State.startHold_ev
    | with_reducible apply State.withdrawStand_ev
    | with_reducible apply evolves_ite
    | (with_reducible apply evolves_mk; with_reducible exact rfl; (first | with_reducible apply State.fordEvent_ev | split))
    | intro x

theorem execStandClaim_ev {s0 s1 : State} (stand : Stand) {s : State} (e : execStandClaim stand s = .next s1)
    (hev : Evolves s0 s) : Evolves s0 s1 := by
  unfold execStandClaim at e
  refine evolves_next e ?_
  repeat' first
    | with_reducible assumption
    | refine fun (_ : Evolves _ _) => ?_
    | with_reducible apply evolves_iff
    | with_reducible apply evolves_whenLive
    | with_reducible apply State.record_ev
    | with_reducible apply State.startHold_ev
    | (with_reducible apply evolves_mk; with_reducible exact rfl; (first | with_reducible apply State.fordEvent_ev | split))
    | intro x

theorem State.standWithdraws_ev {s0 : State} {s : State} (stand : Stand) (causes hold : Nat) (hev : Evolves s0 s) :
    Evolves s0 (State.standWithdraws s stand causes hold) := by
  unfold State.standWithdraws
  repeat' first
    | with_reducible assumption
    | with_reducible apply evolves_iff
    | with_reducible apply State.answered_ev
    | with_reducible apply State.fordDecides_ev
    | with_reducible apply State.noteWithdrew_ev
    | with_reducible apply State.standbyLost_ev
    | with_reducible apply State.startHold_ev
    | with_reducible apply State.withdrawStand_ev
    | with_reducible apply evolves_ite
    | (with_reducible apply evolves_mk; with_reducible exact rfl; with_reducible apply State.modStand_ev)

theorem execWithdraw_ev {s0 s1 : State} (stand : Stand) (causes : Fin 64) (hold : Word) {s : State} (e : execWithdraw stand causes hold s = .next s1)
    (hev : Evolves s0 s) : Evolves s0 s1 := by
  unfold execWithdraw at e
  refine evolves_next e ?_
  repeat' first
    | with_reducible assumption
    | refine fun (_ : Evolves _ _) => ?_
    | with_reducible apply evolves_iff
    | with_reducible apply evolves_whenLive
    | with_reducible apply State.standWithdraws_ev
    | intro x

theorem execDiagnosisAnswer_ev {s0 s1 : State} (stand : Stand) (causes : Fin 128) (hold : Word) {s : State} (e : execDiagnosisAnswer stand causes hold s = .next s1)
    (hev : Evolves s0 s) : Evolves s0 s1 := by
  unfold execDiagnosisAnswer at e
  refine evolves_next e ?_
  repeat' first
    | with_reducible assumption
    | refine fun (_ : Evolves _ _) => ?_
    | with_reducible apply evolves_iff
    | with_reducible apply evolves_whenLive
    | with_reducible apply State.answered_ev
    | with_reducible apply State.fordDecides_ev
    | (with_reducible apply evolves_mk; with_reducible exact rfl; split)
    | intro x

theorem execDiagnosisTimeout_ev {s0 s1 : State} (hold : Word) {s : State} (e : execDiagnosisTimeout hold s = .next s1)
    (hev : Evolves s0 s) : Evolves s0 s1 := by
  unfold execDiagnosisTimeout at e
  refine evolves_next e ?_
  repeat' first
    | with_reducible assumption
    | refine fun (_ : Evolves _ _) => ?_
    | with_reducible apply evolves_iff
    | with_reducible apply evolves_whenLive
    | with_reducible apply State.answered_ev
    | with_reducible apply State.fordDecides_ev
    | (with_reducible apply evolves_mk; with_reducible exact rfl; split)
    | intro x

theorem execFordOutvote_ev {s0 s1 : State} (copy : Fin 3) (cycle : Nat) {s : State} (e : execFordOutvote copy cycle s = .next s1)
    (hev : Evolves s0 s) : Evolves s0 s1 := by
  unfold execFordOutvote at e
  refine evolves_next e ?_
  repeat' first
    | with_reducible assumption
    | refine fun (_ : Evolves _ _) => ?_
    | with_reducible apply evolves_iff
    | with_reducible apply evolves_whenLive
    | with_reducible apply State.fordEvent_ev
    | with_reducible apply State.safeHoldNow_ev
    | (with_reducible apply evolves_mk; with_reducible exact rfl; (first | with_reducible assumption | split))
    | intro x

theorem State.returnStand_ev {s0 : State} {s : State} (x : Stand) (role : Role) (hev : Evolves s0 s) :
    Evolves s0 (State.returnStand s x role) := by
  unfold State.returnStand
  repeat' first
    | with_reducible assumption
    | with_reducible apply State.beginLearning_ev
    | with_reducible apply State.countRestart_ev
    | with_reducible apply State.fordEventAs_ev
    | with_reducible apply State.modStand_ev
    | with_reducible apply State.restart_ev
    | with_reducible apply State.setStand_ev
    | with_reducible apply evolves_ite
    | (with_reducible apply evolves_mk; with_reducible exact rfl; with_reducible apply State.modStand_ev)

theorem execStandTestDone_ev {s0 s1 : State} (stand : Stand) (pass : Bool) {s : State} (e : execStandTestDone stand pass s = .next s1)
    (hev : Evolves s0 s) : Evolves s0 s1 := by
  unfold execStandTestDone at e
  refine evolves_next e ?_
  repeat' first
    | with_reducible assumption
    | refine fun (_ : Evolves _ _) => ?_
    | with_reducible apply evolves_iff
    | with_reducible apply evolves_whenLive
    | with_reducible apply State.beginLearning_ev
    | with_reducible apply State.modStand_ev
    | with_reducible apply State.returnStand_ev
    | with_reducible apply State.setStand_ev
    | with_reducible apply evolves_ite
    | (with_reducible apply evolves_mk; with_reducible exact rfl; with_reducible assumption)
    | intro x

theorem execLearningCopyDone_ev {s0 s1 : State} {s : State} (e : execLearningCopyDone s = .next s1)
    (hev : Evolves s0 s) : Evolves s0 s1 := by
  unfold execLearningCopyDone at e
  refine evolves_next e ?_
  repeat' first
    | with_reducible assumption
    | refine fun (_ : Evolves _ _) => ?_
    | with_reducible apply evolves_iff
    | with_reducible apply evolves_whenLive
    | (with_reducible apply evolves_mk; with_reducible exact rfl; with_reducible apply State.modStand_ev)
    | intro x

theorem execProbationEnd_ev {s0 s1 : State} {s : State} (e : execProbationEnd s = .next s1)
    (hev : Evolves s0 s) : Evolves s0 s1 := by
  unfold execProbationEnd at e
  refine evolves_next e ?_
  repeat' first
    | with_reducible assumption
    | refine fun (_ : Evolves _ _) => ?_
    | with_reducible apply evolves_iff
    | with_reducible apply evolves_whenLive
    | with_reducible apply State.completeUpdate_ev
    | with_reducible apply State.fordEvent_ev
    | with_reducible apply State.setStand_ev
    | (with_reducible apply evolves_mk; with_reducible exact rfl; (first | with_reducible apply State.modStand_ev | split))
    | intro x

theorem State.askSwitch_ev {s0 : State} {s : State} (w : Writer) (hev : Evolves s0 s) :
    Evolves s0 (State.askSwitch s w).1 := by
  unfold State.askSwitch
  repeat' first
    | with_reducible assumption
    | with_reducible apply State.recordAs_ev
    | with_reducible apply State.requestSwitch_ev
    | with_reducible apply evolves_ite_fst

theorem State.askSwitch_eq {s0 sx : State} {s : State} {w : Writer} {qx : Reason} (e : (State.askSwitch s w) = (sx, qx))
    (hev : Evolves s0 s) : Evolves s0 sx := by
  have g := State.askSwitch_ev w hev
  rw [e] at g
  exact g

theorem State.voteAgain_ev {s0 : State} {s : State} (agree : Bool) (out : Nat) (hev : Evolves s0 s) :
    Evolves s0 (State.voteAgain s agree out) := by
  unfold State.voteAgain
  repeat' first
    | with_reducible assumption
    | with_reducible apply evolves_ite
    | (with_reducible apply evolves_mk; with_reducible exact rfl; with_reducible assumption)

theorem State.resumeWith_ev {s0 : State} {s : State} (x : Stand) (force agree : Bool) (out : Nat) (w : Writer) (hev : Evolves s0 s) :
    Evolves s0 (State.resumeWith s x force agree out w) := by
  unfold State.resumeWith
  repeat' first
    | with_reducible assumption
    | with_reducible apply State.returnStand_ev
    | with_reducible apply State.voteAgain_ev
    | with_reducible apply evolves_ite
    | (with_reducible apply evolves_mk; with_reducible exact rfl; with_reducible apply State.voteAgain_ev)

theorem State.releaseStand_ev {s0 : State} {s : State} (x : Stand) (hev : Evolves s0 s) :
    Evolves s0 (State.releaseStand s x) := by
  unfold State.releaseStand
  repeat' first
    | with_reducible assumption
    | with_reducible apply State.modStand_ev
    | with_reducible apply State.setStand_ev
    | with_reducible apply evolves_ite

theorem State.writeFordCtrl_ev {s0 : State} {s : State} (v : Nat) (w : Writer) (agree : Bool) (out : Nat) (hev : Evolves s0 s) :
    Evolves s0 (State.writeFordCtrl s v w agree out).1 := by
  unfold State.writeFordCtrl
  repeat' first
    | with_reducible assumption
    | refine fun (_ : Evolves _ _) => ?_
    | with_reducible apply evolves_iff
    | with_reducible apply State.askSwitch_ev
    | with_reducible apply State.releaseStand_ev
    | with_reducible apply State.resumeWith_ev
    | with_reducible apply evolves_ite_fst
    | (with_reducible apply evolves_mk; with_reducible exact rfl; with_reducible apply State.writeReg_ev)
    | intro x

theorem State.writeFordCtrl_eq {s0 sx : State} {s : State} {v : Nat} {w : Writer} {agree : Bool} {out : Nat} {qx : Reason} (e : (State.writeFordCtrl s v w agree out) = (sx, qx))
    (hev : Evolves s0 s) : Evolves s0 sx := by
  have g := State.writeFordCtrl_ev v w agree out hev
  rw [e] at g
  exact g

theorem State.switchClock_ev {s0 : State} {s : State} (ref : Nat) (hev : Evolves s0 s) :
    Evolves s0 (State.switchClock s ref) := by
  unfold State.switchClock
  repeat' first
    | with_reducible assumption
    | refine fun (_ : Evolves _ _) => ?_
    | with_reducible apply evolves_iff
    | with_reducible apply evolves_whenLive
    | with_reducible apply evolves_forEach
    | with_reducible apply State.drawInt_ev
    | with_reducible apply evolves_ite
    | refine State.drawInt_eq (by assumption) ?_
    | (with_reducible apply evolves_mk; (first | with_reducible exact rfl | (dsimp only; exact rfl)); (first | with_reducible assumption | with_reducible apply evolves_iff | with_reducible apply evolves_whenLive | with_reducible apply evolves_forEach | with_reducible apply State.drawInt_ev | with_reducible apply evolves_ite | refine State.drawInt_eq (by assumption) ?_ | split))
    | (intro x; refine evolves_cut (s0 := s0) (x := x) ?_ ?_; rotate_left; clear_value x; intro hx; rotate_left; subst x)
    | (intro x; refine evolves_cut_snd (s0 := s0) (x := x) ?_ ?_; rotate_left; clear_value x; intro hx; rotate_left; subst x)
    | (intro x; refine evolves_cut_fst (s0 := s0) (x := x) ?_ ?_; rotate_left; clear_value x; intro hx; rotate_left; subst x)
    | intro x
    | split
    | lift_lets
    | dsimp only

theorem State.writeClkCtrl_ev {s0 : State} {s : State} (v : Nat) (w : Writer) (hev : Evolves s0 s) :
    Evolves s0 (State.writeClkCtrl s v w).1 := by
  unfold State.writeClkCtrl
  repeat' first
    | with_reducible assumption
    | refine fun (_ : Evolves _ _) => ?_
    | with_reducible apply evolves_iff
    | with_reducible apply evolves_whenLive
    | with_reducible apply evolves_forEach
    | with_reducible apply State.switchClock_ev
    | with_reducible apply State.writeReg_ev
    | with_reducible apply evolves_ite
    | with_reducible apply evolves_ite_fst
    | refine State.writeReg_eq (by assumption) ?_
    | (with_reducible apply evolves_mk; (first | with_reducible exact rfl | (dsimp only; exact rfl)); (first | with_reducible assumption | with_reducible apply evolves_iff | with_reducible apply evolves_whenLive | with_reducible apply evolves_forEach | with_reducible apply State.switchClock_ev | with_reducible apply State.writeReg_ev | with_reducible apply evolves_ite | with_reducible apply evolves_ite_fst | refine State.writeReg_eq (by assumption) ?_ | split))
    | (intro x; refine evolves_cut (s0 := s0) (x := x) ?_ ?_; rotate_left; clear_value x; intro hx; rotate_left; subst x)
    | (intro x; refine evolves_cut_snd (s0 := s0) (x := x) ?_ ?_; rotate_left; clear_value x; intro hx; rotate_left; subst x)
    | (intro x; refine evolves_cut_fst (s0 := s0) (x := x) ?_ ?_; rotate_left; clear_value x; intro hx; rotate_left; subst x)
    | intro x
    | split
    | lift_lets
    | dsimp only

theorem State.writeClkCtrl_eq {s0 sx : State} {s : State} {v : Nat} {w : Writer} {qx : Reason} (e : (State.writeClkCtrl s v w) = (sx, qx))
    (hev : Evolves s0 s) : Evolves s0 sx := by
  have g := State.writeClkCtrl_ev v w hev
  rw [e] at g
  exact g

theorem State.writeLgCtrl_ev {s0 : State} {s : State} (v : Nat) (w : Writer) (hev : Evolves s0 s) :
    Evolves s0 (State.writeLgCtrl s v w).1 := by
  unfold State.writeLgCtrl
  repeat' first
    | with_reducible assumption
    | refine fun (_ : Evolves _ _) => ?_
    | with_reducible apply evolves_iff
    | with_reducible apply State.writeReg_ev
    | (with_reducible apply evolves_mk; with_reducible exact rfl; with_reducible assumption)
    | intro x

theorem State.writeLgCtrl_eq {s0 sx : State} {s : State} {v : Nat} {w : Writer} {qx : Reason} (e : (State.writeLgCtrl s v w) = (sx, qx))
    (hev : Evolves s0 s) : Evolves s0 sx := by
  have g := State.writeLgCtrl_ev v w hev
  rw [e] at g
  exact g

theorem State.writeFord_ev {s0 : State} {s : State} (o v : Nat) (w : Writer) (hev : Evolves s0 s) :
    Evolves s0 (State.writeFord s o v w).1 := by
  unfold State.writeFord
  repeat' first
    | with_reducible assumption
    | with_reducible apply State.drawNat_ev
    | with_reducible apply State.writeClkCtrl_ev
    | with_reducible apply State.writeFordCtrl_ev
    | with_reducible apply State.writeLgCtrl_ev
    | with_reducible apply State.writePlain_ev
    | with_reducible apply evolves_ite_fst

theorem State.writeFord_eq {s0 sx : State} {s : State} {o v : Nat} {w : Writer} {qx : Reason} (e : (State.writeFord s o v w) = (sx, qx))
    (hev : Evolves s0 s) : Evolves s0 sx := by
  have g := State.writeFord_ev o v w hev
  rw [e] at g
  exact g

theorem execPlannedSwitchRequest_ev {s0 s1 : State} (w : Writer) {s : State} (e : execPlannedSwitchRequest w s = .next s1)
    (hev : Evolves s0 s) : Evolves s0 s1 := by
  unfold execPlannedSwitchRequest at e
  refine evolves_next e ?_
  repeat' first
    | with_reducible assumption
    | refine fun (_ : Evolves _ _) => ?_
    | with_reducible apply evolves_whenLive
    | with_reducible apply State.writeFordCtrl_ev
    | intro x

theorem execSafeHoldResume_ev {s0 s1 : State} (stand : Stand) (agree : Bool) (out : Fin 3) (w : Writer) {s : State} (e : execSafeHoldResume stand agree out w s = .next s1)
    (hev : Evolves s0 s) : Evolves s0 s1 := by
  unfold execSafeHoldResume at e
  refine evolves_next e ?_
  repeat' first
    | with_reducible assumption
    | refine fun (_ : Evolves _ _) => ?_
    | with_reducible apply evolves_whenLive
    | with_reducible apply State.writeFordCtrl_ev
    | intro x

theorem execSafeHoldResumeForce_ev {s0 s1 : State} (stand : Stand) (agree : Bool) (out : Fin 3) (w : Writer) {s : State} (e : execSafeHoldResumeForce stand agree out w s = .next s1)
    (hev : Evolves s0 s) : Evolves s0 s1 := by
  unfold execSafeHoldResumeForce at e
  refine evolves_next e ?_
  repeat' first
    | with_reducible assumption
    | refine fun (_ : Evolves _ _) => ?_
    | with_reducible apply evolves_whenLive
    | with_reducible apply State.writeFordCtrl_ev
    | intro x

theorem execStandRelease_ev {s0 s1 : State} (stand : Stand) (w : Writer) {s : State} (e : execStandRelease stand w s = .next s1)
    (hev : Evolves s0 s) : Evolves s0 s1 := by
  unfold execStandRelease at e
  refine evolves_next e ?_
  repeat' first
    | with_reducible assumption
    | refine fun (_ : Evolves _ _) => ?_
    | with_reducible apply evolves_whenLive
    | with_reducible apply State.writeFordCtrl_ev
    | intro x

theorem execClockSelect_ev {s0 s1 : State} (sel : Fin 2) (w : Writer) {s : State} (e : execClockSelect sel w s = .next s1)
    (hev : Evolves s0 s) : Evolves s0 s1 := by
  unfold execClockSelect at e
  refine evolves_next e ?_
  repeat' first
    | with_reducible assumption
    | refine fun (_ : Evolves _ _) => ?_
    | with_reducible apply evolves_whenLive
    | with_reducible apply State.writeClkCtrl_ev
    | intro x

theorem State.setLost_ev {s0 : State} {s : State} (which : Fin 2) (lost : Bool) (hev : Evolves s0 s) :
    Evolves s0 (State.setLost s which lost) := by
  unfold State.setLost
  repeat' first
    | with_reducible apply evolves_ite
    | (with_reducible apply evolves_mk; with_reducible exact rfl; with_reducible assumption)

theorem execTcxoLost_ev {s0 s1 : State} (which : Fin 2) {s : State} (e : execTcxoLost which s = .next s1)
    (hev : Evolves s0 s) : Evolves s0 s1 := by
  unfold execTcxoLost at e
  refine evolves_next e ?_
  repeat' first
    | with_reducible assumption
    | refine fun (_ : Evolves _ _) => ?_
    | with_reducible apply evolves_iff
    | with_reducible apply evolves_whenLive
    | with_reducible apply evolves_forEach
    | with_reducible apply State.fordEvent_ev
    | with_reducible apply State.setLost_ev
    | with_reducible apply State.switchClock_ev
    | with_reducible apply evolves_ite
    | (with_reducible apply evolves_mk; (first | with_reducible exact rfl | (dsimp only; exact rfl)); (first | with_reducible assumption | with_reducible apply evolves_iff | with_reducible apply evolves_whenLive | with_reducible apply evolves_forEach | with_reducible apply State.fordEvent_ev | with_reducible apply State.setLost_ev | with_reducible apply State.switchClock_ev | with_reducible apply evolves_ite | split))
    | (intro x; refine evolves_cut (s0 := s0) (x := x) ?_ ?_; rotate_left; clear_value x; intro hx; rotate_left; subst x)
    | intro x
    | split
    | lift_lets
    | dsimp only

theorem execTcxoPresent_ev {s0 s1 : State} (which : Fin 2) (ofs : Int) {s : State} (e : execTcxoPresent which ofs s = .next s1)
    (hev : Evolves s0 s) : Evolves s0 s1 := by
  unfold execTcxoPresent at e
  refine evolves_next e ?_
  repeat' first
    | with_reducible assumption
    | refine fun (_ : Evolves _ _) => ?_
    | with_reducible apply evolves_iff
    | with_reducible apply evolves_whenLive
    | with_reducible apply State.fordEvent_ev
    | (with_reducible apply evolves_mk; with_reducible exact rfl; with_reducible apply State.setLost_ev)
    | intro x

theorem execLastgaspClear_ev {s0 s1 : State} (w : Writer) {s : State} (e : execLastgaspClear w s = .next s1)
    (hev : Evolves s0 s) : Evolves s0 s1 := by
  unfold execLastgaspClear at e
  refine evolves_next e ?_
  repeat' first
    | with_reducible assumption
    | refine fun (_ : Evolves _ _) => ?_
    | with_reducible apply evolves_whenLive
    | with_reducible apply State.writeLgCtrl_ev
    | intro x

end Sys2Proof.Machine
end

