-- ==== Sys2Proof/Laws/EvCoppice.lean ====
section
/-! SUPPORT. Every operation of Machine/Coppice.lean lets the state grow (Safety.lean). -/

set_option Elab.async false

namespace Sys2Proof.Machine

theorem State.fixSlice_ev {s0 : State} {s : State} (x : Slice) (hev : Evolves s0 s) :
    Evolves s0 (State.fixSlice s x) := by
  unfold State.fixSlice
  repeat' first
    | with_reducible assumption
    | with_reducible apply State.pickOne_ev
    | (with_reducible apply evolves_mk; with_reducible exact rfl; split)

theorem State.deferSlice_ev {s0 : State} {s : State} (id : UnitId) (reason : Nat) (hev : Evolves s0 s) :
    Evolves s0 (State.deferSlice s id reason) := by
  unfold State.deferSlice
  repeat' first
    | with_reducible apply State.modUnit_ev
    | (with_reducible apply evolves_mk; with_reducible exact rfl; with_reducible assumption)

theorem State.tryFix_ev {s0 : State} (stand : Stand) (c : Cn) (l : List UnitId) :
    ∀ {s : State}, Evolves s0 s → Evolves s0 (s.tryFix stand c l) := by
  induction l with
  | nil => intro s h; exact h
  | cons id rest ih =>
    intro s h
    unfold State.tryFix
    split
    · exact ih h
    · dsimp only
      split
      · exact ih (State.deferSlice_ev _ _ h)
      · exact State.fixSlice_ev _ h

theorem execSliceFix_ev {s0 s1 : State} (stand : Stand) (lead : Fin 16) {s : State} (e : execSliceFix stand lead s = .next s1)
    (hev : Evolves s0 s) : Evolves s0 s1 := by
  unfold execSliceFix at e
  refine evolves_next e ?_
  repeat' first
    | with_reducible assumption
    | refine fun (_ : Evolves _ _) => ?_
    | with_reducible apply evolves_iff
    | with_reducible apply evolves_whenLive
    | with_reducible apply State.tryFix_ev
    | intro x

theorem State.startSlice_ev {s0 : State} {s : State} (x : Slice) (hev : Evolves s0 s) :
    Evolves s0 (State.startSlice s x) := by
  unfold State.startSlice
  repeat' first
    | with_reducible assumption
    | refine fun (_ : Evolves _ _) => ?_
    | with_reducible apply evolves_iff
    | with_reducible apply State.handTo_ev
    | with_reducible apply State.modTrx_ev
    | with_reducible apply State.modUnit_ev
    | with_reducible apply State.stopMeter_ev
    | (with_reducible apply evolves_mk; with_reducible exact rfl; (first | with_reducible apply evolves_iff | split))
    | intro x

theorem State.joinPool_ev {s0 : State} {s : State} (x : Slice) (hev : Evolves s0 s) :
    Evolves s0 (State.joinPool s x) := by
  unfold State.joinPool
  repeat' first
    | with_reducible assumption
    | with_reducible apply evolves_iff
    | with_reducible apply State.returnVictim_ev
    | with_reducible apply evolves_ite

theorem State.sliceTick_ev {s0 : State} {s : State} (hev : Evolves s0 s) :
    Evolves s0 (State.sliceTick s) := by
  unfold State.sliceTick
  repeat' first
    | with_reducible assumption
    | refine fun (_ : Evolves _ _) => ?_
    | with_reducible apply evolves_iff
    | with_reducible apply evolves_whenLive
    | with_reducible apply evolves_forEach
    | with_reducible apply State.joinPool_ev
    | with_reducible apply State.restartMeter_ev
    | with_reducible apply State.startSlice_ev
    | with_reducible apply evolves_ite
    | (with_reducible apply evolves_mk; (first | with_reducible exact rfl | (dsimp only; exact rfl)); (first | with_reducible assumption | with_reducible apply evolves_iff | with_reducible apply evolves_whenLive | with_reducible apply evolves_forEach | with_reducible apply State.joinPool_ev | with_reducible apply State.restartMeter_ev | with_reducible apply State.startSlice_ev | with_reducible apply evolves_ite | split))
    | (intro x; refine evolves_cut (s0 := s0) (x := x) ?_ ?_; rotate_left; clear_value x; intro hx; rotate_left; subst x)
    | intro x
    | split
    | lift_lets
    | dsimp only

theorem State.modSlice_ev {s0 : State} {s : State} (id : UnitId) (f : Slice → Slice) (hev : Evolves s0 s) :
    Evolves s0 (State.modSlice s id f) := by
  unfold State.modSlice
  repeat' first | (with_reducible apply evolves_mk; with_reducible exact rfl; with_reducible assumption)

theorem State.completed_ev {s0 : State} {s : State} (id : UnitId) (hev : Evolves s0 s) :
    Evolves s0 (State.completed s id) := by
  unfold State.completed
  repeat' first | with_reducible assumption | with_reducible apply State.modUnit_ev

theorem State.fellSlice_ev {s0 : State} {s : State} (x : Slice) (hev : Evolves s0 s) :
    Evolves s0 (State.fellSlice s x) := by
  unfold State.fellSlice
  repeat' first
    | with_reducible assumption
    | refine fun (_ : Evolves _ _) => ?_
    | with_reducible apply evolves_iff
    | with_reducible apply State.completed_ev
    | with_reducible apply State.fell_ev
    | with_reducible apply State.modTrx_ev
    | with_reducible apply State.post_ev
    | with_reducible apply State.recordSlice_ev
    | (with_reducible apply evolves_mk; with_reducible exact rfl; with_reducible apply State.sliceEnded_ev)
    | intro x

theorem State.judgeSlice_ev {s0 : State} {s : State} (x : Slice) (whole same : Bool) (hev : Evolves s0 s) :
    Evolves s0 (State.judgeSlice s x whole same) := by
  unfold State.judgeSlice
  repeat' first
    | with_reducible assumption
    | with_reducible apply State.fellSlice_ev
    | with_reducible apply State.modSlice_ev
    | with_reducible apply State.modUnit_ev
    | with_reducible apply State.recordSlice_ev
    | with_reducible apply State.sliceEnded_ev
    | with_reducible apply evolves_ite
    | (with_reducible apply evolves_mk; with_reducible exact rfl; (first | with_reducible assumption | with_reducible apply State.completed_ev))

theorem execSliceRunEnd_ev {s0 s1 : State} (stand : Stand) (kind : Fin 8) (index : Fin 8192) (patterns : Word) (complete : Bool) (misr expected : BitVec 64) {s : State} (e : execSliceRunEnd stand kind index patterns complete misr expected s = .next s1)
    (hev : Evolves s0 s) : Evolves s0 s1 := by
  unfold execSliceRunEnd at e
  refine evolves_next e ?_
  repeat' first
    | with_reducible assumption
    | refine fun (_ : Evolves _ _) => ?_
    | with_reducible apply evolves_whenLive
    | with_reducible apply State.judgeSlice_ev
    | (with_reducible apply evolves_mk; with_reducible exact rfl; (first | with_reducible assumption | split))
    | intro x

theorem execUnitFallsDue_ev {s0 s1 : State} (stand : Stand) (kind : Fin 8) (index : Fin 8192) {s : State} (e : execUnitFallsDue stand kind index s = .next s1)
    (hev : Evolves s0 s) : Evolves s0 s1 := by
  unfold execUnitFallsDue at e
  refine evolves_next e ?_
  repeat' first
    | with_reducible assumption
    | refine fun (_ : Evolves _ _) => ?_
    | with_reducible apply evolves_iff
    | with_reducible apply evolves_whenLive
    | with_reducible apply State.putUnit_ev
    | intro x

theorem execCoppiceStarved_ev {s0 s1 : State} (stand : Stand) (kind : Fin 8) (index : Fin 8192) {s : State} (e : execCoppiceStarved stand kind index s = .next s1)
    (hev : Evolves s0 s) : Evolves s0 s1 := by
  unfold execCoppiceStarved at e
  refine evolves_next e ?_
  repeat' first
    | with_reducible assumption
    | refine fun (_ : Evolves _ _) => ?_
    | with_reducible apply evolves_iff
    | with_reducible apply evolves_whenLive
    | with_reducible apply State.post_ev
    | with_reducible apply State.putUnit_ev
    | with_reducible apply State.record_ev
    | (with_reducible apply evolves_mk; with_reducible exact rfl; split)
    | intro x

theorem execIdlePathSlice_ev {s0 s1 : State} (item : Fin 10) {s : State} (e : execIdlePathSlice item s = .next s1)
    (hev : Evolves s0 s) : Evolves s0 s1 := by
  unfold execIdlePathSlice at e
  refine evolves_next e ?_
  repeat' first
    | with_reducible assumption
    | refine fun (_ : Evolves _ _) => ?_
    | with_reducible apply evolves_iff
    | with_reducible apply evolves_whenLive
    | (with_reducible apply evolves_mk; with_reducible exact rfl; with_reducible assumption)
    | intro x

theorem execIdlePathEnd_ev {s0 s1 : State} (pass : Bool) {s : State} (e : execIdlePathEnd pass s = .next s1)
    (hev : Evolves s0 s) : Evolves s0 s1 := by
  unfold execIdlePathEnd at e
  refine evolves_next e ?_
  repeat' first
    | with_reducible assumption
    | refine fun (_ : Evolves _ _) => ?_
    | with_reducible apply evolves_whenLive
    | with_reducible apply State.drawNat_ev
    | with_reducible apply State.standWithdraws_ev
    | with_reducible apply evolves_ite
    | (with_reducible apply evolves_mk; with_reducible exact rfl; (first | with_reducible assumption | split))
    | intro x

theorem State.writeCopCtrl_ev {s0 : State} {s : State} (v : Nat) (w : Writer) (hev : Evolves s0 s) :
    Evolves s0 (State.writeCopCtrl s v w).1 := by
  unfold State.writeCopCtrl
  repeat' first
    | with_reducible assumption
    | with_reducible apply State.writeReg_ev
    | with_reducible apply evolves_ite_fst
    | (with_reducible apply evolves_mk; with_reducible exact rfl; with_reducible apply State.writeReg_ev)

theorem State.writeCopCtrl_eq {s0 sx : State} {s : State} {v : Nat} {w : Writer} {qx : Reason} (e : (State.writeCopCtrl s v w) = (sx, qx))
    (hev : Evolves s0 s) : Evolves s0 sx := by
  have g := State.writeCopCtrl_ev v w hev
  rw [e] at g
  exact g

theorem State.writeCopCmd_ev {s0 : State} {s : State} (v : Nat) (w : Writer) (hev : Evolves s0 s) :
    Evolves s0 (State.writeCopCmd s v w).1 := by
  unfold State.writeCopCmd
  repeat' first
    | with_reducible assumption
    | with_reducible apply State.writeReg_ev
    | with_reducible apply evolves_ite_fst
    | (with_reducible apply evolves_mk; with_reducible exact rfl; with_reducible apply State.writeReg_ev)

theorem State.writeCopCmd_eq {s0 sx : State} {s : State} {v : Nat} {w : Writer} {qx : Reason} (e : (State.writeCopCmd s v w) = (sx, qx))
    (hev : Evolves s0 s) : Evolves s0 sx := by
  have g := State.writeCopCmd_ev v w hev
  rw [e] at g
  exact g

theorem State.writeCopRelease_ev {s0 : State} {s : State} (v : Nat) (w : Writer) (hev : Evolves s0 s) :
    Evolves s0 (State.writeCopRelease s v w).1 := by
  unfold State.writeCopRelease
  repeat' first
    | with_reducible assumption
    | with_reducible apply State.modUnit_ev
    | with_reducible apply State.recordWrite_ev
    | with_reducible apply State.writeQuiet_ev
    | with_reducible apply evolves_ite
    | with_reducible apply evolves_ite_fst

theorem State.writeCopRelease_eq {s0 sx : State} {s : State} {v : Nat} {w : Writer} {qx : Reason} (e : (State.writeCopRelease s v w) = (sx, qx))
    (hev : Evolves s0 s) : Evolves s0 sx := by
  have g := State.writeCopRelease_ev v w hev
  rw [e] at g
  exact g

theorem execCoppiceRun_ev {s0 s1 : State} (w : Writer) {s : State} (e : execCoppiceRun w s = .next s1)
    (hev : Evolves s0 s) : Evolves s0 s1 := by
  unfold execCoppiceRun at e
  refine evolves_next e ?_
  repeat' first
    | with_reducible assumption
    | refine fun (_ : Evolves _ _) => ?_
    | with_reducible apply evolves_whenLive
    | with_reducible apply State.writeCopCmd_ev
    | intro x

theorem execCoppiceDestruct_ev {s0 s1 : State} (run : Bool) (w : Writer) {s : State} (e : execCoppiceDestruct run w s = .next s1)
    (hev : Evolves s0 s) : Evolves s0 s1 := by
  unfold execCoppiceDestruct at e
  refine evolves_next e ?_
  repeat' first
    | with_reducible assumption
    | refine fun (_ : Evolves _ _) => ?_
    | with_reducible apply evolves_whenLive
    | with_reducible apply State.writeCopCmd_ev
    | intro x

theorem execSuspectRelease_ev {s0 s1 : State} (kind : Fin 8) (index : Fin 65536) (w : Writer) {s : State} (e : execSuspectRelease kind index w s = .next s1)
    (hev : Evolves s0 s) : Evolves s0 s1 := by
  unfold execSuspectRelease at e
  refine evolves_next e ?_
  repeat' first
    | with_reducible assumption
    | refine fun (_ : Evolves _ _) => ?_
    | with_reducible apply evolves_whenLive
    | with_reducible apply State.writeCopRelease_ev
    | intro x

theorem execCopCntClr_ev {s0 s1 : State} (w : Writer) {s : State} (e : execCopCntClr w s = .next s1)
    (hev : Evolves s0 s) : Evolves s0 s1 := by
  unfold execCopCntClr at e
  refine evolves_next e ?_
  repeat' first
    | with_reducible assumption
    | refine fun (_ : Evolves _ _) => ?_
    | with_reducible apply evolves_whenLive
    | with_reducible apply State.writeCopCtrl_ev
    | intro x

theorem State.writeCop_ev {s0 : State} {s : State} (o v : Nat) (w : Writer) (hev : Evolves s0 s) :
    Evolves s0 (State.writeCop s o v w).1 := by
  unfold State.writeCop
  repeat' first
    | with_reducible assumption
    | with_reducible apply State.writeCopCmd_ev
    | with_reducible apply State.writeCopCtrl_ev
    | with_reducible apply State.writeCopRelease_ev
    | with_reducible apply State.writePlain_ev
    | with_reducible apply evolves_ite_fst

theorem State.writeCop_eq {s0 sx : State} {s : State} {o v : Nat} {w : Writer} {qx : Reason} (e : (State.writeCop s o v w) = (sx, qx))
    (hev : Evolves s0 s) : Evolves s0 sx := by
  have g := State.writeCop_ev o v w hev
  rw [e] at g
  exact g

end Sys2Proof.Machine
end

