-- ==== Sys2Proof/Laws/EvEvents.lean ====
section
/-! SUPPORT. Every operation of Machine/Events.lean lets the state grow (Safety.lean). -/

set_option Elab.async false

namespace Sys2Proof.Machine

theorem execSourceFiring_ev {s0 s1 : State} (source : Fin 1024) (kind : Fin 256) (payload : Word) {s : State} (e : execSourceFiring source kind payload s = .next s1)
    (hev : Evolves s0 s) : Evolves s0 s1 := by
  unfold execSourceFiring at e
  refine evolves_next e ?_
  repeat' first
    | with_reducible assumption
    | refine fun (_ : Evolves _ _) => ?_
    | with_reducible apply evolves_iff
    | with_reducible apply evolves_whenLive
    | with_reducible apply evolves_forEach
    | with_reducible apply State.post_ev
    | with_reducible apply evolves_ite
    | (with_reducible apply evolves_mk; (first | with_reducible exact rfl | (dsimp only; exact rfl)); (first | with_reducible assumption | with_reducible apply evolves_iff | with_reducible apply evolves_whenLive | with_reducible apply evolves_forEach | with_reducible apply State.post_ev | with_reducible apply evolves_ite | split))
    | (intro x; refine evolves_cut (s0 := s0) (x := x) ?_ ?_; rotate_left; clear_value x; intro hx; rotate_left; subst x)
    | intro x
    | split
    | lift_lets
    | dsimp only

theorem execCoalesceTimeout_ev {s0 s1 : State} (source : Fin 1024) {s : State} (e : execCoalesceTimeout source s = .next s1)
    (hev : Evolves s0 s) : Evolves s0 s1 := by
  unfold execCoalesceTimeout at e
  refine evolves_next e ?_
  repeat' first
    | with_reducible assumption
    | refine fun (_ : Evolves _ _) => ?_
    | with_reducible apply evolves_whenLive
    | (with_reducible apply evolves_mk; with_reducible exact rfl; with_reducible assumption)
    | intro x

theorem execEvtDone_ev {s0 s1 : State} (engine : Fin 16) (value : Word) {s : State} (e : execEvtDone engine value s = .next s1)
    (hev : Evolves s0 s) : Evolves s0 s1 := by
  unfold execEvtDone at e
  refine evolves_next e ?_
  repeat' first
    | with_reducible assumption
    | refine fun (_ : Evolves _ _) => ?_
    | with_reducible apply evolves_whenLive
    | (with_reducible apply evolves_mk; with_reducible exact rfl; with_reducible assumption)
    | intro x

theorem execRingConsWrite_ev {s0 s1 : State} (engine : Fin 16) (prio : Fin 4) (value : Word) {s : State} (e : execRingConsWrite engine prio value s = .next s1)
    (hev : Evolves s0 s) : Evolves s0 s1 := by
  unfold execRingConsWrite at e
  refine evolves_next e ?_
  repeat' first
    | with_reducible assumption
    | refine fun (_ : Evolves _ _) => ?_
    | with_reducible apply evolves_whenLive
    | (with_reducible apply evolves_mk; with_reducible exact rfl; with_reducible assumption)
    | intro x

theorem execRingCfgWrite_ev {s0 s1 : State} (engine : Fin 16) (prio : Fin 4) (value : Word) {s : State} (e : execRingCfgWrite engine prio value s = .next s1)
    (hev : Evolves s0 s) : Evolves s0 s1 := by
  unfold execRingCfgWrite at e
  refine evolves_next e ?_
  repeat' first
    | with_reducible assumption
    | refine fun (_ : Evolves _ _) => ?_
    | with_reducible apply evolves_whenLive
    | (with_reducible apply evolves_mk; with_reducible exact rfl; with_reducible assumption)
    | intro x

theorem execRingMaskWrite_ev {s0 s1 : State} (engine : Fin 16) (value : Word) {s : State} (e : execRingMaskWrite engine value s = .next s1)
    (hev : Evolves s0 s) : Evolves s0 s1 := by
  unfold execRingMaskWrite at e
  refine evolves_next e ?_
  repeat' first
    | with_reducible assumption
    | refine fun (_ : Evolves _ _) => ?_
    | with_reducible apply evolves_whenLive
    | (with_reducible apply evolves_mk; with_reducible exact rfl; with_reducible assumption)
    | intro x

theorem execHandlerEntry_ev {s0 s1 : State} (engine : Fin 16) {s : State} (e : execHandlerEntry engine s = .next s1)
    (hev : Evolves s0 s) : Evolves s0 s1 := by
  unfold execHandlerEntry at e
  refine evolves_next e ?_
  repeat' first
    | with_reducible assumption
    | refine fun (_ : Evolves _ _) => ?_
    | with_reducible apply evolves_whenLive
    | (with_reducible apply evolves_mk; with_reducible exact rfl; with_reducible assumption)
    | intro x

theorem execHandlerExit_ev {s0 s1 : State} (engine : Fin 16) {s : State} (e : execHandlerExit engine s = .next s1)
    (hev : Evolves s0 s) : Evolves s0 s1 := by
  unfold execHandlerExit at e
  refine evolves_next e ?_
  repeat' first
    | with_reducible assumption
    | refine fun (_ : Evolves _ _) => ?_
    | with_reducible apply evolves_whenLive
    | (with_reducible apply evolves_mk; with_reducible exact rfl; with_reducible assumption)
    | intro x

theorem State.writeEvtCtrl_ev {s0 : State} {s : State} (v : Nat) (hev : Evolves s0 s) :
    Evolves s0 (State.writeEvtCtrl s v) := by
  unfold State.writeEvtCtrl
  repeat' first | (with_reducible apply evolves_mk; with_reducible exact rfl; with_reducible assumption)

theorem State.writeEvtStatus_ev {s0 : State} {s : State} (v : Nat) (hev : Evolves s0 s) :
    Evolves s0 (State.writeEvtStatus s v) := by
  unfold State.writeEvtStatus
  repeat' first | (with_reducible apply evolves_mk; with_reducible exact rfl; with_reducible assumption)

end Sys2Proof.Machine
end

