-- ==== Sys2Proof/Laws/EvMains.lean ====
section
/-! SUPPORT. Every operation of Machine/Mains.lean lets the state grow (Safety.lean). -/

set_option Elab.async false

namespace Sys2Proof.Machine

@[simp] theorem TimeSt.attributed_history (t : TimeSt) : (t.attributed).history = t.history := by
  unfold TimeSt.attributed
  repeat' split
  all_goals rfl

@[simp] theorem TimeSt.attributed_captures (t : TimeSt) : (t.attributed).captures = t.captures := by
  unfold TimeSt.attributed
  repeat' split
  all_goals rfl

theorem State.moveCount_ev {s0 : State} {s : State} (k : Int) (hev : Evolves s0 s) :
    Evolves s0 (State.moveCount s k) := by
  unfold State.moveCount
  repeat' first
    | with_reducible assumption
    | with_reducible apply State.renewBoundary_ev
    | with_reducible apply State.shiftCn_ev

theorem State.rejoinAfterFreeRun_ev {s0 : State} {s : State} (hev : Evolves s0 s) :
    Evolves s0 (State.rejoinAfterFreeRun s) := by
  unfold State.rejoinAfterFreeRun
  repeat' first
    | with_reducible assumption
    | refine fun (_ : Evolves _ _) => ?_
    | with_reducible apply evolves_iff
    | with_reducible apply State.startRejoin_ev
    | (with_reducible apply evolves_mk; with_reducible exact rfl; with_reducible assumption)
    | intro x

theorem State.measured1_ev {s0 : State} {s : State} (ofs : Int) (ofsUs : Nat) (hev : Evolves s0 s) :
    Evolves s0 (State.measured1 s ofs ofsUs) := by
  unfold State.measured1
  repeat' first
    | with_reducible assumption
    | refine fun (_ : Evolves _ _) => ?_
    | with_reducible apply evolves_iff
    | with_reducible apply State.boundary_ev
    | with_reducible apply State.crossing_ev
    | with_reducible apply State.rejoinAfterFreeRun_ev
    | with_reducible apply State.renewBoundary_ev
    | intro x

theorem execZcMeasured_ev {s0 s1 : State} (ofs : Int) (tick : Nat) (ofsUs : Nat) {s : State} (e : execZcMeasured ofs tick ofsUs s = .next s1)
    (hev : Evolves s0 s) : Evolves s0 s1 := by
  unfold execZcMeasured at e
  refine evolves_next e ?_
  repeat' first
    | with_reducible assumption
    | refine fun (_ : Evolves _ _) => ?_
    | with_reducible apply evolves_iff
    | with_reducible apply evolves_whenLive
    | with_reducible apply State.advanceTo_ev
    | with_reducible apply State.measured1_ev
    | intro x

theorem State.holdWaymark_ev {s0 : State} {s : State} (w : Waymark) (ofs : Int) (hev : Evolves s0 s) :
    Evolves s0 (State.holdWaymark s w ofs) := by
  unfold State.holdWaymark
  repeat' first | (with_reducible apply evolves_mk; with_reducible exact rfl; with_reducible assumption)

theorem State.attribute_ev {s0 : State} {s : State} (k : Int) (hev : Evolves s0 s) :
    Evolves s0 (State.attribute s k) := by
  unfold State.attribute
  repeat' first
    | with_reducible apply State.noteFreeRun_ev
    | with_reducible apply evolves_ite
    | (with_reducible apply evolves_mk; (first | with_reducible exact rfl | (simp +zetaDelta only [TimeSt.attributed_history, TimeSt.attributed_captures]; exact rfl)); (first | with_reducible assumption | with_reducible apply State.moveCount_ev | with_reducible apply State.noteFreeRun_ev))

theorem State.disagreesAgain_ev {s0 : State} {s : State} (k : Int) (hev : Evolves s0 s) :
    Evolves s0 (State.disagreesAgain s k).2 := by
  unfold State.disagreesAgain
  repeat' first
    | with_reducible assumption
    | with_reducible apply State.moveCount_ev
    | with_reducible apply evolves_ite_snd
    | (with_reducible apply evolves_mk; with_reducible exact rfl; (first | with_reducible assumption | split))

theorem State.disagreesAgain_eq {s0 sx : State} {s : State} {k : Int} {qx : WmAnswer} (e : (State.disagreesAgain s k) = (qx, sx))
    (hev : Evolves s0 s) : Evolves s0 sx := by
  have g := State.disagreesAgain_ev k hev
  rw [e] at g
  exact g

theorem State.checkWaymark_ev {s0 : State} {s : State} (w : Waymark) (c : Crossing) (ofs : Int) (hev : Evolves s0 s) :
    Evolves s0 (State.checkWaymark s w c ofs).2 := by
  unfold State.checkWaymark
  repeat' first
    | with_reducible assumption
    | with_reducible apply State.attribute_ev
    | with_reducible apply State.disagreesAgain_ev
    | with_reducible apply State.holdWaymark_ev
    | with_reducible apply evolves_ite_snd
    | (with_reducible apply evolves_mk; with_reducible exact rfl; with_reducible assumption)

theorem State.checkWaymark_eq {s0 sx : State} {s : State} {w : Waymark} {c : Crossing} {ofs : Int} {qx : WmAnswer} (e : (State.checkWaymark s w c ofs) = (qx, sx))
    (hev : Evolves s0 s) : Evolves s0 sx := by
  have g := State.checkWaymark_ev w c ofs hev
  rw [e] at g
  exact g

theorem State.judgeWaymark_ev {s0 : State} {s : State} (w : Waymark) (hev : Evolves s0 s) :
    Evolves s0 (State.judgeWaymark s w).2 := by
  unfold State.judgeWaymark
  repeat' first
    | with_reducible assumption
    | with_reducible apply State.checkWaymark_ev
    | with_reducible apply evolves_ite_snd
    | (with_reducible apply evolves_mk; with_reducible exact rfl; split)

theorem State.judgeWaymark_eq {s0 sx : State} {s : State} {w : Waymark} {qx : WmAnswer} (e : (State.judgeWaymark s w) = (qx, sx))
    (hev : Evolves s0 s) : Evolves s0 sx := by
  have g := State.judgeWaymark_ev w hev
  rw [e] at g
  exact g

theorem State.serveWaymark_ev {s0 : State} {s : State} (i : Fin 4) (c : Session) (tx : Nat) (b : List Byte) (hev : Evolves s0 s) :
    Evolves s0 (State.serveWaymark s i c tx b) := by
  unfold State.serveWaymark
  repeat' first
    | with_reducible assumption
    | with_reducible apply State.countUse_ev
    | with_reducible apply State.fspViolation_ev
    | with_reducible apply State.judgeWaymark_ev
    | with_reducible apply State.malformed_ev
    | with_reducible apply State.recordAs_ev
    | with_reducible apply State.respond_ev
    | with_reducible apply evolves_ite
    | (with_reducible apply evolves_mk; with_reducible exact rfl; split)

theorem execWaymark_ev {s0 s1 : State} (sess : Fin 4) (role : Byte) (tx : Word) (body : List Byte) {s : State} (e : execWaymark sess role tx body s = .next s1)
    (hev : Evolves s0 s) : Evolves s0 s1 := by
  unfold execWaymark at e
  refine evolves_next e ?_
  repeat' first
    | with_reducible assumption
    | refine fun (_ : Evolves _ _) => ?_
    | with_reducible apply evolves_whenLive
    | with_reducible apply State.request_ev
    | with_reducible apply State.serveWaymark_ev
    | intro x

theorem State.triggerKc_ev {s0 : State} {s : State} (k : Nat) (hev : Evolves s0 s) :
    Evolves s0 (State.triggerKc s k) := by
  unfold State.triggerKc
  repeat' first
    | with_reducible assumption
    | with_reducible apply State.drawNat_ev
    | with_reducible apply State.kcPlanned_ev
    | with_reducible apply State.modKc_ev
    | with_reducible apply evolves_ite
    | (with_reducible apply evolves_mk; with_reducible exact rfl; split)

theorem State.triggerTarget_ev {s0 : State} {s : State} (target index : Nat) (hev : Evolves s0 s) :
    Evolves s0 (State.triggerTarget s target index) := by
  unfold State.triggerTarget
  repeat' first
    | with_reducible assumption
    | with_reducible apply State.triggerChannel_ev
    | with_reducible apply State.triggerKc_ev
    | with_reducible apply State.triggerPe_ev
    | with_reducible apply evolves_ite

theorem State.fireTrigger_ev {s0 : State} {s : State} (k : Fin 16) (hev : Evolves s0 s) :
    Evolves s0 (State.fireTrigger s k) := by
  unfold State.fireTrigger
  repeat' first
    | with_reducible assumption
    | with_reducible apply State.modTrigger_ev
    | with_reducible apply State.trgEvent_ev
    | with_reducible apply State.triggerTarget_ev
    | with_reducible apply evolves_ite

theorem execTriggerFire_ev {s0 s1 : State} (unit : Fin 16) (tick : Nat) {s : State} (e : execTriggerFire unit tick s = .next s1)
    (hev : Evolves s0 s) : Evolves s0 s1 := by
  unfold execTriggerFire at e
  refine evolves_next e ?_
  repeat' first
    | with_reducible assumption
    | refine fun (_ : Evolves _ _) => ?_
    | with_reducible apply evolves_whenLive
    | with_reducible apply State.advanceTo_ev
    | with_reducible apply State.fireTrigger_ev
    | intro x

end Sys2Proof.Machine
end

