-- ==== Sys2Proof/Laws/EvSettings.lean ====
section
/-! SUPPORT. Every operation of Machine/Settings.lean lets the state grow (Safety.lean). -/

set_option Elab.async false

namespace Sys2Proof.Machine

theorem State.answerPut_ev {s0 : State} {s : State} (i : Fin 4) (tx : Nat) (r : Reason) (hev : Evolves s0 s) :
    Evolves s0 (State.answerPut s i tx r) := by
  unfold State.answerPut
  repeat' first | with_reducible assumption | with_reducible apply State.respond_ev

theorem State.recordPut_ev {s0 : State} {s : State} (i : Fin 4) (c : Session) (tx : Nat) (r : Reason) (hev : Evolves s0 s) :
    Evolves s0 (State.recordPut s i c tx r) := by
  unfold State.recordPut
  repeat' first
    | with_reducible assumption
    | refine fun (_ : Evolves _ _) => ?_
    | with_reducible apply evolves_iff
    | with_reducible apply State.recordAs_ev
    | intro x

theorem State.acceptPut_ev {s0 : State} {s : State} (id : Nat) (replace : Bool) (cn : Cn) (new : List (List Byte)) (hev : Evolves s0 s) :
    Evolves s0 (State.acceptPut s id replace cn new) := by
  unfold State.acceptPut
  repeat' first
    | with_reducible apply State.announceTable_ev
    | with_reducible apply State.clearContactors_ev
    | with_reducible apply State.enforceTable_ev
    | with_reducible apply State.growEpoch_ev
    | with_reducible apply evolves_ite
    | (with_reducible apply evolves_mk; with_reducible exact rfl; with_reducible assumption)

theorem State.configPut_ev {s0 : State} {s : State} (i : Fin 4) (c : Session) (tx : Nat) (b : List Byte) (hev : Evolves s0 s) :
    Evolves s0 (State.configPut s i c tx b) := by
  unfold State.configPut
  repeat' first
    | with_reducible assumption
    | with_reducible apply State.acceptPut_ev
    | with_reducible apply State.answerPut_ev
    | with_reducible apply State.fspViolation_ev
    | with_reducible apply State.recordPut_ev
    | with_reducible apply evolves_ite
    | (with_reducible apply evolves_mk; with_reducible exact rfl; split)

theorem execConfigPut_ev {s0 s1 : State} (sess : Fin 4) (role : Byte) (tx : Word) (body : List Byte) {s : State} (e : execConfigPut sess role tx body s = .next s1)
    (hev : Evolves s0 s) : Evolves s0 s1 := by
  unfold execConfigPut at e
  refine evolves_next e ?_
  repeat' first
    | with_reducible assumption
    | refine fun (_ : Evolves _ _) => ?_
    | with_reducible apply evolves_whenLive
    | with_reducible apply State.configPut_ev
    | with_reducible apply State.request_ev
    | intro x

theorem State.configGet_ev {s0 : State} {s : State} (i : Fin 4) (c : Session) (tx : Nat) (b : List Byte) (hev : Evolves s0 s) :
    Evolves s0 (State.configGet s i c tx b) := by
  unfold State.configGet
  repeat' first
    | with_reducible assumption
    | with_reducible apply State.countUse_ev
    | with_reducible apply State.malformed_ev
    | with_reducible apply State.respond_ev
    | with_reducible apply evolves_ite

theorem execConfigGet_ev {s0 s1 : State} (sess : Fin 4) (role : Byte) (tx : Word) (body : List Byte) {s : State} (e : execConfigGet sess role tx body s = .next s1)
    (hev : Evolves s0 s) : Evolves s0 s1 := by
  unfold execConfigGet at e
  refine evolves_next e ?_
  repeat' first
    | with_reducible assumption
    | refine fun (_ : Evolves _ _) => ?_
    | with_reducible apply evolves_whenLive
    | with_reducible apply State.configGet_ev
    | with_reducible apply State.request_ev
    | intro x

theorem State.digestAnswer_ev {s0 : State} {s : State} (i : Fin 4) (c : Session) (tx : Nat) (b : List Byte) (hev : Evolves s0 s) :
    Evolves s0 (State.digestAnswer s i c tx b) := by
  unfold State.digestAnswer
  repeat' first
    | with_reducible assumption
    | with_reducible apply State.countUse_ev
    | with_reducible apply State.malformed_ev
    | with_reducible apply State.respond_ev
    | with_reducible apply evolves_ite

theorem execDigest_ev {s0 s1 : State} (sess : Fin 4) (role : Byte) (tx : Word) (body : List Byte) {s : State} (e : execDigest sess role tx body s = .next s1)
    (hev : Evolves s0 s) : Evolves s0 s1 := by
  unfold execDigest at e
  refine evolves_next e ?_
  repeat' first
    | with_reducible assumption
    | refine fun (_ : Evolves _ _) => ?_
    | with_reducible apply evolves_whenLive
    | with_reducible apply State.digestAnswer_ev
    | with_reducible apply State.request_ev
    | intro x

theorem execUartOctet_ev {s0 s1 : State} (port : Fin 3) (data : Byte) (framing brk : Bool) {s : State} (e : execUartOctet port data framing brk s = .next s1)
    (hev : Evolves s0 s) : Evolves s0 s1 := by
  unfold execUartOctet at e
  refine evolves_next e ?_
  repeat' first
    | with_reducible assumption
    | refine fun (_ : Evolves _ _) => ?_
    | with_reducible apply evolves_iff
    | with_reducible apply evolves_whenLive
    | (with_reducible apply evolves_mk; with_reducible exact rfl; (first | with_reducible apply State.pushWord_ev | split))
    | intro x

theorem execEthLinkChange_ev {s0 s1 : State} (port : Fin 2) (up : Bool) {s : State} (e : execEthLinkChange port up s = .next s1)
    (hev : Evolves s0 s) : Evolves s0 s1 := by
  unfold execEthLinkChange at e
  refine evolves_next e ?_
  repeat' first
    | with_reducible assumption
    | refine fun (_ : Evolves _ _) => ?_
    | with_reducible apply evolves_whenLive
    | with_reducible apply State.checkSource_ev
    | with_reducible apply State.closeSession_ev
    | with_reducible apply evolves_ite
    | (with_reducible apply evolves_mk; with_reducible exact rfl; (first | with_reducible assumption | with_reducible apply evolves_forEach | split))
    | intro x
    | split

end Sys2Proof.Machine
end

