-- ==== Sys2Proof/Laws/EvPins.lean ====
section
/-! SUPPORT. Every operation of Machine/Pins.lean lets the state grow (Safety.lean). -/

set_option Elab.async false

namespace Sys2Proof.Machine

theorem execKcOvercurrent_ev {s0 s1 : State} (k : Fin 4) {s : State} (e : execKcOvercurrent k s = .next s1)
    (hev : Evolves s0 s) : Evolves s0 s1 := by
  unfold execKcOvercurrent at e
  refine evolves_next e ?_
  repeat' first
    | with_reducible assumption
    | refine fun (_ : Evolves _ _) => ?_
    | with_reducible apply evolves_iff
    | with_reducible apply evolves_whenLive
    | (with_reducible apply evolves_mk; with_reducible exact rfl; with_reducible apply State.modKc_ev)
    | intro x

theorem execKcOpenLoad_ev {s0 s1 : State} (k : Fin 4) (isOpen : Bool) {s : State} (e : execKcOpenLoad k isOpen s = .next s1)
    (hev : Evolves s0 s) : Evolves s0 s1 := by
  unfold execKcOpenLoad at e
  refine evolves_next e ?_
  repeat' first
    | with_reducible assumption
    | refine fun (_ : Evolves _ _) => ?_
    | with_reducible apply evolves_iff
    | with_reducible apply evolves_whenLive
    | (with_reducible apply evolves_mk; with_reducible exact rfl; with_reducible assumption)
    | intro x

theorem execModPowerOvercurrent_ev {s0 s1 : State} (ma : Fin 65536) (ok : Bool) {s : State} (e : execModPowerOvercurrent ma ok s = .next s1)
    (hev : Evolves s0 s) : Evolves s0 s1 := by
  unfold execModPowerOvercurrent at e
  refine evolves_next e ?_
  repeat' first
    | with_reducible assumption
    | refine fun (_ : Evolves _ _) => ?_
    | with_reducible apply evolves_iff
    | with_reducible apply evolves_whenLive
    | (with_reducible apply evolves_mk; with_reducible exact rfl; with_reducible assumption)
    | intro x

theorem execRs485IdleAfterFrame_ev {s0 s1 : State} (port : Fin 2) {s : State} (e : execRs485IdleAfterFrame port s = .next s1)
    (hev : Evolves s0 s) : Evolves s0 s1 := by
  unfold execRs485IdleAfterFrame at e
  refine evolves_next e ?_
  repeat' first
    | with_reducible assumption
    | refine fun (_ : Evolves _ _) => ?_
    | with_reducible apply evolves_iff
    | with_reducible apply evolves_whenLive
    | with_reducible apply State.postTile_ev
    | intro x

end Sys2Proof.Machine
end

