-- ==== Sys2Proof/Laws/EvUpd.lean ====
section
/-! SUPPORT. Every operation of Machine/Upd.lean lets the state grow (Safety.lean). -/

set_option Elab.async false

namespace Sys2Proof.Machine

theorem State.recordUpdate_ev {s0 : State} {s : State} (role : Role) (reason : Reason) (payload : List Byte) (hev : Evolves s0 s) :
    Evolves s0 (State.recordUpdate s role reason payload) := by
  unfold State.recordUpdate
  repeat' first | with_reducible assumption | with_reducible apply State.recordAs_ev

theorem State.noteUse_ev {s0 : State} {s : State} (i : Fin 4) (c : Session) (type tx new : Nat) (hev : Evolves s0 s) :
    Evolves s0 (State.noteUse s i c type tx new) := by
  unfold State.noteUse
  repeat' first
    | with_reducible assumption
    | with_reducible apply State.countUse_ev
    | with_reducible apply State.recordAs_ev
    | with_reducible apply evolves_ite

theorem State.answerOffer_ev {s0 : State} {s : State} (i : Fin 4) (tx : Nat) (r : Reason) (flagBits id held : Nat) (hev : Evolves s0 s) :
    Evolves s0 (State.answerOffer s i tx r flagBits id held) := by
  unfold State.answerOffer
  repeat' first | with_reducible assumption | with_reducible apply State.respond_ev

theorem State.openUpdate_ev {s0 : State} {s : State} (m : Manifest) (b : List Byte) (digest : BitVec 256) (hev : Evolves s0 s) :
    Evolves s0 (State.openUpdate s m b digest) := by
  unfold State.openUpdate
  repeat' first
    | with_reducible assumption
    | with_reducible apply State.sessionChanged_ev
    | with_reducible apply State.sessionPhase_ev
    | (with_reducible apply evolves_mk; with_reducible exact rfl; with_reducible apply State.drawNat_ev)

theorem State.judgeOffer_ev {s0 : State} {s : State} (i : Fin 4) (c : Session) (tx : Nat) (b : List Byte) (digest : BitVec 256) (signed preempts : Bool) (seq length count : Nat) (hev : Evolves s0 s) :
    Evolves s0 (State.judgeOffer s i c tx b digest signed preempts seq length count) := by
  unfold State.judgeOffer
  repeat' first
    | with_reducible assumption
    | with_reducible apply State.answerOffer_ev
    | with_reducible apply State.fspViolation_ev
    | with_reducible apply State.noteUse_ev
    | with_reducible apply State.openUpdate_ev
    | with_reducible apply State.recordUpdate_ev
    | with_reducible apply evolves_ite
    | (with_reducible apply evolves_mk; with_reducible exact rfl; (first | with_reducible assumption | split))

theorem State.updateOffer_ev {s0 : State} {s : State} (i : Fin 4) (c : Session) (tx : Nat) (body : List Byte) (signed : Bool) (hev : Evolves s0 s) :
    Evolves s0 (State.updateOffer s i c tx body signed) := by
  unfold State.updateOffer
  repeat' first
    | with_reducible assumption
    | with_reducible apply State.answerOffer_ev
    | with_reducible apply State.fspViolation_ev
    | with_reducible apply State.judgeOffer_ev
    | with_reducible apply State.noteUse_ev
    | with_reducible apply evolves_ite
    | (with_reducible apply evolves_mk; with_reducible exact rfl; (first | with_reducible assumption | split))

theorem execUpdateOffer_ev {s0 s1 : State} (sess : Fin 4) (role : Byte) (tx : Word) (body : List Byte) (signed : Bool) {s : State} (e : execUpdateOffer sess role tx body signed s = .next s1)
    (hev : Evolves s0 s) : Evolves s0 s1 := by
  unfold execUpdateOffer at e
  refine evolves_next e ?_
  repeat' first
    | with_reducible assumption
    | refine fun (_ : Evolves _ _) => ?_
    | with_reducible apply evolves_whenLive
    | with_reducible apply State.request_ev
    | with_reducible apply State.updateOffer_ev
    | intro x

theorem State.updateChunk_ev {s0 : State} {s : State} (i : Fin 4) (c : Session) (tx : Nat) (b : List Byte) (tag : Bool) (plain : List Byte) (hev : Evolves s0 s) :
    Evolves s0 (State.updateChunk s i c tx b tag plain) := by
  unfold State.updateChunk
  repeat' first
    | with_reducible assumption
    | with_reducible apply State.fspViolation_ev
    | with_reducible apply State.noteUse_ev
    | with_reducible apply State.respond_ev
    | with_reducible apply evolves_ite
    | (with_reducible apply evolves_mk; with_reducible exact rfl; (first | with_reducible assumption | split))

theorem execUpdateChunk_ev {s0 s1 : State} (sess : Fin 4) (role : Byte) (tx : Word) (body : List Byte) (tag : Bool) (plain : List Byte) {s : State} (e : execUpdateChunk sess role tx body tag plain s = .next s1)
    (hev : Evolves s0 s) : Evolves s0 s1 := by
  unfold execUpdateChunk at e
  refine evolves_next e ?_
  repeat' first
    | with_reducible assumption
    | refine fun (_ : Evolves _ _) => ?_
    | with_reducible apply evolves_whenLive
    | with_reducible apply State.request_ev
    | with_reducible apply State.updateChunk_ev
    | intro x

theorem State.updateState_ev {s0 : State} {s : State} (i : Fin 4) (c : Session) (tx : Nat) (b : List Byte) (hev : Evolves s0 s) :
    Evolves s0 (State.updateState s i c tx b) := by
  unfold State.updateState
  repeat' first
    | with_reducible assumption
    | with_reducible apply State.countUse_ev
    | with_reducible apply State.malformed_ev
    | with_reducible apply State.respond_ev
    | with_reducible apply evolves_ite
    | (with_reducible apply evolves_mk; with_reducible exact rfl; (first | with_reducible apply State.countUse_ev | split))

theorem execUpdateState_ev {s0 s1 : State} (sess : Fin 4) (role : Byte) (tx : Word) (body : List Byte) {s : State} (e : execUpdateState sess role tx body s = .next s1)
    (hev : Evolves s0 s) : Evolves s0 s1 := by
  unfold execUpdateState at e
  refine evolves_next e ?_
  repeat' first
    | with_reducible assumption
    | refine fun (_ : Evolves _ _) => ?_
    | with_reducible apply evolves_whenLive
    | with_reducible apply State.request_ev
    | with_reducible apply State.updateState_ev
    | intro x

theorem State.abortUpdate_ev {s0 : State} {s : State} (hev : Evolves s0 s) :
    Evolves s0 (State.abortUpdate s).2 := by
  unfold State.abortUpdate
  repeat' first
    | with_reducible assumption
    | with_reducible apply State.openCheck_ev
    | with_reducible apply State.openReason_ev
    | with_reducible apply State.stopUpdate_ev
    | with_reducible apply evolves_ite_snd
    | (with_reducible apply evolves_mk; with_reducible exact rfl; split)

theorem State.abortUpdate_eq {s0 sx : State} {s : State} {qx : Reason} (e : (State.abortUpdate s) = (qx, sx))
    (hev : Evolves s0 s) : Evolves s0 sx := by
  have g := State.abortUpdate_ev  hev
  rw [e] at g
  exact g

theorem State.updateActivate_ev {s0 : State} {s : State} (i : Fin 4) (c : Session) (tx : Nat) (b : List Byte) (hev : Evolves s0 s) :
    Evolves s0 (State.updateActivate s i c tx b) := by
  unfold State.updateActivate
  repeat' first
    | with_reducible assumption
    | with_reducible apply State.abortUpdate_ev
    | with_reducible apply State.malformed_ev
    | with_reducible apply State.recordAs_ev
    | with_reducible apply State.respond_ev
    | with_reducible apply State.sessionChanged_ev
    | with_reducible apply State.stepPhase_ev
    | with_reducible apply evolves_ite
    | (with_reducible apply evolves_mk; with_reducible exact rfl; (first | with_reducible assumption | split))
    | intro x
    | split
    | lift_lets
    | dsimp only

theorem execUpdateActivate_ev {s0 s1 : State} (sess : Fin 4) (role : Byte) (tx : Word) (body : List Byte) {s : State} (e : execUpdateActivate sess role tx body s = .next s1)
    (hev : Evolves s0 s) : Evolves s0 s1 := by
  unfold execUpdateActivate at e
  refine evolves_next e ?_
  repeat' first
    | with_reducible assumption
    | refine fun (_ : Evolves _ _) => ?_
    | with_reducible apply evolves_whenLive
    | with_reducible apply State.request_ev
    | with_reducible apply State.updateActivate_ev
    | intro x

theorem State.validationFails_ev {s0 : State} {s : State} (r : Reason) (index : Option Nat) (hev : Evolves s0 s) :
    Evolves s0 (State.validationFails s r index) := by
  unfold State.validationFails
  repeat' first
    | with_reducible assumption
    | with_reducible apply State.endUpdate_ev
    | with_reducible apply State.recordUpdate_ev
    | with_reducible apply State.refuseImage_ev
    | with_reducible apply State.stepPhase_ev
    | (with_reducible apply evolves_mk; with_reducible exact rfl; split)

theorem State.rewrap_ev {s0 : State} {s : State} (a : Activation) (hev : Evolves s0 s) :
    Evolves s0 (State.rewrap s a) := by
  unfold State.rewrap
  repeat' first
    | with_reducible assumption
    | with_reducible apply State.setSlot_ev
    | (with_reducible apply evolves_mk; with_reducible exact rfl; with_reducible apply State.stepPhase_ev)

theorem State.validated_ev {s0 : State} {s : State} (a : Activation) (hev : Evolves s0 s) :
    Evolves s0 (State.validated s a) := by
  unfold State.validated
  repeat' first
    | with_reducible assumption
    | refine fun (_ : Evolves _ _) => ?_
    | with_reducible apply evolves_forEach
    | with_reducible apply State.completeUpdate_ev
    | with_reducible apply State.modActivation_ev
    | with_reducible apply State.rewrap_ev
    | with_reducible apply State.startCaravan_ev
    | with_reducible apply State.stepPhase_ev
    | (with_reducible apply evolves_mk; with_reducible exact rfl; (first | with_reducible apply State.stepPhase_ev | split))
    | intro x

theorem execValidationDone_ev {s0 s1 : State} (decrypted signed : Bool) {s : State} (e : execValidationDone decrypted signed s = .next s1)
    (hev : Evolves s0 s) : Evolves s0 s1 := by
  unfold execValidationDone at e
  refine evolves_next e ?_
  repeat' first
    | with_reducible assumption
    | refine fun (_ : Evolves _ _) => ?_
    | with_reducible apply evolves_iff
    | with_reducible apply evolves_whenLive
    | with_reducible apply State.openReason_ev
    | with_reducible apply State.validated_ev
    | with_reducible apply State.validationFails_ev
    | with_reducible apply evolves_ite
    | (with_reducible apply evolves_mk; with_reducible exact rfl; split)
    | intro x

theorem State.checkFailed_ev {s0 : State} {s : State} (a : Activation) (check : Nat) (hev : Evolves s0 s) :
    Evolves s0 (State.checkFailed s a check) := by
  unfold State.checkFailed
  repeat' first
    | with_reducible apply State.recordUpdate_ev
    | with_reducible apply evolves_ite
    | (with_reducible apply evolves_mk; with_reducible exact rfl; with_reducible assumption)

theorem State.stageTick_ev {s0 : State} {s : State} (hev : Evolves s0 s) :
    Evolves s0 (State.stageTick s) := by
  unfold State.stageTick
  repeat' first
    | with_reducible assumption
    | with_reducible apply State.cutStand_ev
    | with_reducible apply State.modActivation_ev
    | with_reducible apply State.modStand_ev
    | with_reducible apply State.setStand_ev
    | with_reducible apply State.standbyLost_ev
    | with_reducible apply State.stepPhase_ev
    | with_reducible apply evolves_ite
    | (with_reducible apply evolves_mk; with_reducible exact rfl; split)

theorem execStaged_ev {s0 s1 : State} (measured : BitVec 256) (areaGood : Bool) {s : State} (e : execStaged measured areaGood s = .next s1)
    (hev : Evolves s0 s) : Evolves s0 s1 := by
  unfold execStaged at e
  refine evolves_next e ?_
  repeat' first
    | with_reducible assumption
    | refine fun (_ : Evolves _ _) => ?_
    | with_reducible apply evolves_iff
    | with_reducible apply evolves_whenLive
    | with_reducible apply State.checkFailed_ev
    | with_reducible apply State.openReason_ev
    | with_reducible apply State.rollBack_ev
    | with_reducible apply State.stepPhase_ev
    | (with_reducible apply evolves_mk; with_reducible exact rfl; split)
    | intro x

theorem execShadowCaughtUp_ev {s0 s1 : State} {s : State} (e : execShadowCaughtUp s = .next s1)
    (hev : Evolves s0 s) : Evolves s0 s1 := by
  unfold execShadowCaughtUp at e
  refine evolves_next e ?_
  repeat' first
    | with_reducible assumption
    | refine fun (_ : Evolves _ _) => ?_
    | with_reducible apply evolves_iff
    | with_reducible apply evolves_whenLive
    | with_reducible apply State.modActivation_ev
    | with_reducible apply State.setStand_ev
    | (with_reducible apply evolves_mk; with_reducible exact rfl; (first | with_reducible assumption | split))
    | intro x

theorem execCatchupTimeout_ev {s0 s1 : State} {s : State} (e : execCatchupTimeout s = .next s1)
    (hev : Evolves s0 s) : Evolves s0 s1 := by
  unfold execCatchupTimeout at e
  refine evolves_next e ?_
  repeat' first
    | with_reducible assumption
    | refine fun (_ : Evolves _ _) => ?_
    | with_reducible apply evolves_iff
    | with_reducible apply evolves_whenLive
    | with_reducible apply State.openCheck_ev
    | with_reducible apply State.openReason_ev
    | with_reducible apply State.rollBack_ev
    | intro x

theorem execShadowEnd_ev {s0 s1 : State} {s : State} (e : execShadowEnd s = .next s1)
    (hev : Evolves s0 s) : Evolves s0 s1 := by
  unfold execShadowEnd at e
  refine evolves_next e ?_
  repeat' first
    | with_reducible assumption
    | refine fun (_ : Evolves _ _) => ?_
    | with_reducible apply evolves_iff
    | with_reducible apply evolves_whenLive
    | with_reducible apply State.requestSwitch_ev
    | (with_reducible apply evolves_mk; with_reducible exact rfl; split)
    | intro x

theorem State.switchTick_ev {s0 : State} {s : State} (hev : Evolves s0 s) :
    Evolves s0 (State.switchTick s) := by
  unfold State.switchTick
  repeat' first
    | with_reducible assumption
    | with_reducible apply State.commitHandover_ev
    | with_reducible apply State.fallbackSwitched_ev
    | with_reducible apply State.plannedSwitch_ev
    | with_reducible apply State.recordAs_ev
    | with_reducible apply evolves_ite
    | (with_reducible apply evolves_mk; with_reducible exact rfl; (first | with_reducible assumption | split))

theorem State.rebootTick_ev {s0 : State} {s : State} (hev : Evolves s0 s) :
    Evolves s0 (State.rebootTick s) := by
  unfold State.rebootTick
  repeat' first
    | with_reducible assumption
    | with_reducible apply State.adoptStores_ev
    | with_reducible apply State.modActivation_ev
    | with_reducible apply State.restart_ev
    | with_reducible apply State.saveMeter_ev
    | with_reducible apply State.stepPhase_ev
    | with_reducible apply evolves_ite
    | (with_reducible apply evolves_mk; with_reducible exact rfl; split)

theorem State.holdReboot_ev {s0 : State} {s : State} (hev : Evolves s0 s) :
    Evolves s0 (State.holdReboot s) := by
  unfold State.holdReboot
  repeat' first
    | with_reducible assumption
    | refine fun (_ : Evolves _ _) => ?_
    | with_reducible apply evolves_iff
    | with_reducible apply evolves_whenLive
    | with_reducible apply evolves_forEach
    | with_reducible apply State.rebootTick_ev
    | with_reducible apply evolves_ite
    | (with_reducible apply evolves_mk; (first | with_reducible exact rfl | (dsimp only; exact rfl)); (first | with_reducible assumption | with_reducible apply evolves_iff | with_reducible apply evolves_whenLive | with_reducible apply evolves_forEach | with_reducible apply State.rebootTick_ev | with_reducible apply evolves_ite | split))
    | (intro x; refine evolves_cut (s0 := s0) (x := x) ?_ ?_; rotate_left; clear_value x; intro hx; rotate_left; subst x)
    | intro x
    | split
    | lift_lets
    | dsimp only

theorem execRebootDone_ev {s0 s1 : State} (measured : BitVec 256) (areaGood : Bool) {s : State} (e : execRebootDone measured areaGood s = .next s1)
    (hev : Evolves s0 s) : Evolves s0 s1 := by
  unfold execRebootDone at e
  refine evolves_next e ?_
  repeat' first
    | with_reducible assumption
    | refine fun (_ : Evolves _ _) => ?_
    | with_reducible apply evolves_iff
    | with_reducible apply evolves_whenLive
    | with_reducible apply State.checkFailed_ev
    | with_reducible apply State.fallBack_ev
    | with_reducible apply State.openReason_ev
    | with_reducible apply State.stepPhase_ev
    | (with_reducible apply evolves_mk; with_reducible exact rfl; (first | with_reducible assumption | split))
    | intro x

theorem execConfirmWindowEnd_ev {s0 s1 : State} {s : State} (e : execConfirmWindowEnd s = .next s1)
    (hev : Evolves s0 s) : Evolves s0 s1 := by
  unfold execConfirmWindowEnd at e
  refine evolves_next e ?_
  repeat' first
    | with_reducible assumption
    | refine fun (_ : Evolves _ _) => ?_
    | with_reducible apply evolves_iff
    | with_reducible apply evolves_whenLive
    | with_reducible apply State.confirmed_ev
    | (with_reducible apply evolves_mk; with_reducible exact rfl; split)
    | intro x

theorem execConfirmCheckFail_ev {s0 s1 : State} (check : Fin 7) (reason : Reason) {s : State} (e : execConfirmCheckFail check reason s = .next s1)
    (hev : Evolves s0 s) : Evolves s0 s1 := by
  unfold execConfirmCheckFail at e
  refine evolves_next e ?_
  repeat' first
    | with_reducible assumption
    | refine fun (_ : Evolves _ _) => ?_
    | with_reducible apply evolves_iff
    | with_reducible apply evolves_whenLive
    | with_reducible apply State.checkFailed_ev
    | with_reducible apply State.fallBack_ev
    | (with_reducible apply evolves_mk; with_reducible exact rfl; split)
    | intro x

theorem execStandRewritten_ev {s0 s1 : State} (stand : Stand) {s : State} (e : execStandRewritten stand s = .next s1)
    (hev : Evolves s0 s) : Evolves s0 s1 := by
  unfold execStandRewritten at e
  refine evolves_next e ?_
  repeat' first
    | with_reducible assumption
    | refine fun (_ : Evolves _ _) => ?_
    | with_reducible apply evolves_iff
    | with_reducible apply evolves_whenLive
    | with_reducible apply State.beginLearning_ev
    | with_reducible apply State.modStand_ev
    | with_reducible apply evolves_ite
    | (with_reducible apply evolves_mk; with_reducible exact rfl; split)
    | intro x

theorem execUpdateLapse_ev {s0 s1 : State} {s : State} (e : execUpdateLapse s = .next s1)
    (hev : Evolves s0 s) : Evolves s0 s1 := by
  unfold execUpdateLapse at e
  refine evolves_next e ?_
  repeat' first
    | with_reducible assumption
    | refine fun (_ : Evolves _ _) => ?_
    | with_reducible apply evolves_iff
    | with_reducible apply evolves_whenLive
    | with_reducible apply State.endUpdate_ev
    | with_reducible apply State.recordUpdate_ev
    | with_reducible apply State.stepPhase_ev
    | (with_reducible apply evolves_mk; with_reducible exact rfl; split)
    | intro x

theorem State.writeUpdCtrl_ev {s0 : State} {s : State} (v : Nat) (w : Writer) (hev : Evolves s0 s) :
    Evolves s0 (State.writeUpdCtrl s v w).1 := by
  unfold State.writeUpdCtrl
  repeat' first
    | with_reducible assumption
    | with_reducible apply State.abortUpdate_ev
    | with_reducible apply State.writeReg_ev
    | with_reducible apply evolves_ite_fst

theorem State.writeUpdCtrl_eq {s0 sx : State} {s : State} {v : Nat} {w : Writer} {qx : Reason} (e : (State.writeUpdCtrl s v w) = (sx, qx))
    (hev : Evolves s0 s) : Evolves s0 sx := by
  have g := State.writeUpdCtrl_ev v w hev
  rw [e] at g
  exact g

theorem execUpdateAbort_ev {s0 s1 : State} (w : Writer) {s : State} (e : execUpdateAbort w s = .next s1)
    (hev : Evolves s0 s) : Evolves s0 s1 := by
  unfold execUpdateAbort at e
  refine evolves_next e ?_
  repeat' first
    | with_reducible assumption
    | refine fun (_ : Evolves _ _) => ?_
    | with_reducible apply evolves_whenLive
    | with_reducible apply State.writeUpdCtrl_ev
    | intro x

theorem State.endedTick_ev {s0 : State} {s : State} (hev : Evolves s0 s) :
    Evolves s0 (State.endedTick s) := by
  unfold State.endedTick
  repeat' first
    | with_reducible assumption
    | with_reducible apply State.endUpdate_ev
    | with_reducible apply evolves_ite

theorem State.modCarNode_ev {s0 : State} {s : State} (id eui : Nat) (f : CarNode → CarNode) (hev : Evolves s0 s) :
    Evolves s0 (State.modCarNode s id eui f) := by
  unfold State.modCarNode
  repeat' first | with_reducible assumption | with_reducible apply State.modCaravan_ev

theorem State.caravanSend_ev {s0 : State} {s : State} (c : Caravan) (x : CarNode) (hev : Evolves s0 s) :
    Evolves s0 (State.caravanSend s c x) := by
  unfold State.caravanSend
  repeat' first
    | with_reducible assumption
    | with_reducible apply State.modCarNode_ev
    | with_reducible apply State.sendNode_ev
    | with_reducible apply evolves_ite
    | (with_reducible apply evolves_mk; with_reducible exact rfl; split)

theorem State.caravanTick_ev {s0 : State} {s : State} (hev : Evolves s0 s) :
    Evolves s0 (State.caravanTick s) := by
  unfold State.caravanTick
  repeat' first
    | with_reducible assumption
    | refine fun (_ : Evolves _ _) => ?_
    | with_reducible apply evolves_forEach
    | with_reducible apply State.caravanSend_ev
    | with_reducible apply State.modCaravan_ev
    | with_reducible apply evolves_ite
    | (refine Prod.forall.2 ?_; dsimp only)
    | intro x

theorem State.writeUpd_ev {s0 : State} {s : State} (o v : Nat) (w : Writer) (hev : Evolves s0 s) :
    Evolves s0 (State.writeUpd s o v w).1 := by
  unfold State.writeUpd
  repeat' first
    | with_reducible assumption
    | with_reducible apply State.writePlain_ev
    | with_reducible apply State.writeUpdCtrl_ev
    | with_reducible apply evolves_ite_fst

theorem State.writeUpd_eq {s0 sx : State} {s : State} {o v : Nat} {w : Writer} {qx : Reason} (e : (State.writeUpd s o v w) = (sx, qx))
    (hev : Evolves s0 s) : Evolves s0 sx := by
  have g := State.writeUpd_ev o v w hev
  rw [e] at g
  exact g

end Sys2Proof.Machine
end

