-- ==== Sys2Proof/Laws/EvTamper.lean ====
section
/-! SUPPORT. Every operation of Machine/Tamper.lean lets the state grow (Safety.lean). -/

set_option Elab.async false

namespace Sys2Proof.Machine

theorem State.tamperLevel_ev {s0 : State} {s : State} (n : Fin 4) (high : Bool) (sub : Nat) (hev : Evolves s0 s) :
    Evolves s0 (State.tamperLevel s n high sub) := by
  unfold State.tamperLevel
  repeat' first
    | with_reducible assumption
    | refine fun (_ : Evolves _ _) => ?_
    | with_reducible apply evolves_iff
    | with_reducible apply State.armTamper_ev
    | with_reducible apply State.capture_ev
    | with_reducible apply evolves_ite
    | (with_reducible apply evolves_mk; with_reducible exact rfl; with_reducible assumption)
    | intro x

theorem execTamperInputChange_ev {s0 s1 : State} (n : Fin 4) (high : Bool) (tick : Nat) (sub : Fin 10) {s : State} (e : execTamperInputChange n high tick sub s = .next s1)
    (hev : Evolves s0 s) : Evolves s0 s1 := by
  unfold execTamperInputChange at e
  refine evolves_next e ?_
  repeat' first
    | with_reducible assumption
    | refine fun (_ : Evolves _ _) => ?_
    | with_reducible apply evolves_iff
    | with_reducible apply State.advanceTo_ev
    | with_reducible apply State.tamperLevel_ev
    | intro x

theorem State.zeroise_ev {s0 : State} {s : State} (hev : Evolves s0 s) :
    Evolves s0 (State.zeroise s) := by
  unfold State.zeroise
  repeat' first
    | with_reducible assumption
    | refine fun (_ : Evolves _ _) => ?_
    | with_reducible apply evolves_forEach
    | with_reducible apply State.emptySlot_ev
    | with_reducible apply State.witherChildren_ev
    | (with_reducible apply evolves_mk; with_reducible exact rfl; with_reducible apply evolves_forEach)
    | intro x

theorem State.tamperUpdate_ev {s0 : State} {s : State} (hev : Evolves s0 s) :
    Evolves s0 (State.tamperUpdate s) := by
  unfold State.tamperUpdate
  repeat' first
    | with_reducible assumption
    | with_reducible apply State.modActivation_ev
    | with_reducible apply State.openCheck_ev
    | with_reducible apply State.stopUpdate_ev
    | with_reducible apply evolves_ite
    | (with_reducible apply evolves_mk; with_reducible exact rfl; split)

theorem State.restartCopy_ev {s0 : State} {s : State} (hev : Evolves s0 s) :
    Evolves s0 (State.restartCopy s) := by
  unfold State.restartCopy
  repeat' first
    | with_reducible assumption
    | refine fun (_ : Evolves _ _) => ?_
    | with_reducible apply evolves_forEach
    | with_reducible apply State.modStand_ev
    | with_reducible apply evolves_ite
    | intro x

theorem State.recordTamper_ev {s0 : State} {s : State} (source : Nat) (reason : Reason) (event cause : Nat) (hev : Evolves s0 s) :
    Evolves s0 (State.recordTamper s source reason event cause) := by
  unfold State.recordTamper
  repeat' first | with_reducible assumption | with_reducible apply State.record_ev

theorem State.tamperServices_ev {s0 : State} {s : State} (hev : Evolves s0 s) :
    Evolves s0 (State.tamperServices s) := by
  unfold State.tamperServices
  repeat' first
    | with_reducible assumption
    | refine fun (_ : Evolves _ _) => ?_
    | with_reducible apply evolves_forEach
    | with_reducible apply State.cutSlices_ev
    | with_reducible apply State.markRadioLoss_ev
    | with_reducible apply State.restartCopy_ev
    | with_reducible apply State.tamperUpdate_ev
    | intro x

theorem State.tamperAlarm_ev {s0 : State} {s : State} (cause : Nat) (hev : Evolves s0 s) :
    Evolves s0 (State.tamperAlarm s cause) := by
  unfold State.tamperAlarm
  repeat' first
    | with_reducible assumption
    | with_reducible apply State.completeKey_ev
    | with_reducible apply State.post_ev
    | with_reducible apply State.recordTamper_ev
    | with_reducible apply State.tamperServices_ev
    | with_reducible apply evolves_ite
    | (with_reducible apply evolves_mk; with_reducible exact rfl; with_reducible apply State.zeroise_ev)
    | intro x
    | lift_lets
    | dsimp only

theorem State.recordWakeAlarm_ev {s0 : State} {s : State} (dormant : Bool) (hev : Evolves s0 s) :
    Evolves s0 (State.recordWakeAlarm s dormant) := by
  unfold State.recordWakeAlarm
  repeat' first
    | with_reducible assumption
    | with_reducible apply State.enter_ev
    | with_reducible apply State.post_ev
    | (with_reducible apply evolves_mk; with_reducible exact rfl; (first | with_reducible assumption | split))

theorem State.tamperEvent_ev {s0 : State} {s : State} (cause : Nat) (hev : Evolves s0 s) :
    Evolves s0 (State.tamperEvent s cause) := by
  unfold State.tamperEvent
  repeat' first
    | with_reducible assumption
    | with_reducible apply State.post_ev
    | with_reducible apply State.recordTamper_ev
    | with_reducible apply State.tamperAlarm_ev
    | with_reducible apply evolves_ite
    | (with_reducible apply evolves_mk; with_reducible exact rfl; split)

theorem execTamperQualified_ev {s0 s1 : State} (n : Fin 4) (tick : Nat) {s : State} (e : execTamperQualified n tick s = .next s1)
    (hev : Evolves s0 s) : Evolves s0 s1 := by
  unfold execTamperQualified at e
  refine evolves_next e ?_
  repeat' first
    | with_reducible assumption
    | refine fun (_ : Evolves _ _) => ?_
    | with_reducible apply evolves_iff
    | with_reducible apply State.advanceTo_ev
    | with_reducible apply State.tamperEvent_ev
    | (with_reducible apply evolves_mk; with_reducible exact rfl; with_reducible assumption)
    | intro x

theorem execMeshCheck_ev {s0 s1 : State} (ok : Bool) {s : State} (e : execMeshCheck ok s = .next s1)
    (hev : Evolves s0 s) : Evolves s0 s1 := by
  unfold execMeshCheck at e
  refine evolves_next e ?_
  repeat' first
    | with_reducible assumption
    | refine fun (_ : Evolves _ _) => ?_
    | with_reducible apply evolves_iff
    | with_reducible apply State.tamperEvent_ev
    | with_reducible apply evolves_ite
    | (with_reducible apply evolves_mk; with_reducible exact rfl; with_reducible assumption)
    | intro x

theorem State.endMaint_ev {s0 : State} {s : State} (hev : Evolves s0 s) :
    Evolves s0 (State.endMaint s) := by
  unfold State.endMaint
  repeat' first
    | with_reducible apply State.tamperAlarm_ev
    | with_reducible apply evolves_ite
    | (with_reducible apply evolves_mk; with_reducible exact rfl; with_reducible assumption)

theorem execMaintWindowEnd_ev {s0 s1 : State} {s : State} (e : execMaintWindowEnd s = .next s1)
    (hev : Evolves s0 s) : Evolves s0 s1 := by
  unfold execMaintWindowEnd at e
  refine evolves_next e ?_
  repeat' first
    | with_reducible assumption
    | refine fun (_ : Evolves _ _) => ?_
    | with_reducible apply evolves_iff
    | with_reducible apply evolves_whenLive
    | with_reducible apply State.endMaint_ev
    | (with_reducible apply evolves_mk; with_reducible exact rfl; split)
    | intro x

theorem State.writeTmpMaint_ev {s0 : State} {s : State} (v : Nat) (w : Writer) (hev : Evolves s0 s) :
    Evolves s0 (State.writeTmpMaint s v w).1 := by
  unfold State.writeTmpMaint
  repeat' first
    | with_reducible assumption
    | refine fun (_ : Evolves _ _) => ?_
    | with_reducible apply evolves_iff
    | with_reducible apply evolves_whenLive
    | with_reducible apply evolves_forEach
    | with_reducible apply State.endMaint_ev
    | with_reducible apply State.malformed_ev
    | with_reducible apply State.recordRefused_ev
    | with_reducible apply State.recordWrite_ev
    | with_reducible apply evolves_ite
    | with_reducible apply evolves_ite_fst
    | (with_reducible apply evolves_mk; (first | with_reducible exact rfl | (dsimp only; exact rfl)); (first | with_reducible assumption | with_reducible apply evolves_iff | with_reducible apply evolves_whenLive | with_reducible apply evolves_forEach | with_reducible apply State.endMaint_ev | with_reducible apply State.malformed_ev | with_reducible apply State.recordRefused_ev | with_reducible apply State.recordWrite_ev | with_reducible apply evolves_ite | with_reducible apply evolves_ite_fst | split))
    | (intro x; refine evolves_cut (s0 := s0) (x := x) ?_ ?_; rotate_left; clear_value x; intro hx; rotate_left; subst x)
    | intro x
    | split
    | lift_lets
    | dsimp only

theorem State.writeTmpMaint_eq {s0 sx : State} {s : State} {v : Nat} {w : Writer} {qx : Reason} (e : (State.writeTmpMaint s v w) = (sx, qx))
    (hev : Evolves s0 s) : Evolves s0 sx := by
  have g := State.writeTmpMaint_ev v w hev
  rw [e] at g
  exact g

theorem execKeyTmpMaint_ev {s0 s1 : State} (value : Word) (w : Writer) {s : State} (e : execKeyTmpMaint value w s = .next s1)
    (hev : Evolves s0 s) : Evolves s0 s1 := by
  unfold execKeyTmpMaint at e
  refine evolves_next e ?_
  repeat' first
    | with_reducible assumption
    | refine fun (_ : Evolves _ _) => ?_
    | with_reducible apply evolves_whenLive
    | with_reducible apply State.writeTmpMaint_ev
    | intro x

theorem State.deriveStorage_ev {s0 : State} {s : State} (hev : Evolves s0 s) :
    Evolves s0 (State.deriveStorage s) := by
  unfold State.deriveStorage
  repeat' first | with_reducible assumption | with_reducible apply State.setSlot_ev

theorem State.freshGroves_ev {s0 : State} {s : State} (hev : Evolves s0 s) :
    Evolves s0 (State.freshGroves s) := by
  unfold State.freshGroves
  repeat' first
    | with_reducible assumption
    | with_reducible apply State.generateRoot_ev
    | (with_reducible apply evolves_mk; with_reducible exact rfl; (first | with_reducible apply State.deriveGroves_ev | with_reducible apply State.emptySlot_ev))

theorem State.resumeUpdate_ev {s0 : State} {s : State} (hev : Evolves s0 s) :
    Evolves s0 (State.resumeUpdate s) := by
  unfold State.resumeUpdate
  repeat' first | with_reducible assumption | with_reducible apply State.modActivation_ev

theorem State.tamperRestore_ev {s0 : State} {s : State} (hev : Evolves s0 s) :
    Evolves s0 (State.tamperRestore s) := by
  unfold State.tamperRestore
  repeat' first
    | with_reducible assumption
    | with_reducible apply State.deriveStorage_ev
    | with_reducible apply State.recordAs_ev
    | with_reducible apply State.resumeUpdate_ev
    | with_reducible apply State.startRejoin_ev
    | (with_reducible apply evolves_mk; with_reducible exact rfl; with_reducible apply State.freshGroves_ev)

theorem State.writeTmpClear_ev {s0 : State} {s : State} (v : Nat) (w : Writer) (hev : Evolves s0 s) :
    Evolves s0 (State.writeTmpClear s v w).1 := by
  unfold State.writeTmpClear
  repeat' first
    | with_reducible assumption
    | with_reducible apply State.recordRefused_ev
    | with_reducible apply State.tamperRestore_ev
    | with_reducible apply evolves_ite_fst

theorem State.writeTmpClear_eq {s0 sx : State} {s : State} {v : Nat} {w : Writer} {qx : Reason} (e : (State.writeTmpClear s v w) = (sx, qx))
    (hev : Evolves s0 s) : Evolves s0 sx := by
  have g := State.writeTmpClear_ev v w hev
  rw [e] at g
  exact g

theorem execKeyTmpClear_ev {s0 s1 : State} (value : Word) (w : Writer) {s : State} (e : execKeyTmpClear value w s = .next s1)
    (hev : Evolves s0 s) : Evolves s0 s1 := by
  unfold execKeyTmpClear at e
  refine evolves_next e ?_
  repeat' first
    | with_reducible assumption
    | refine fun (_ : Evolves _ _) => ?_
    | with_reducible apply evolves_whenLive
    | with_reducible apply State.writeTmpClear_ev
    | intro x

theorem State.writeSlotAttr_ev {s0 : State} {s : State} (v : Nat) (w : Writer) (hev : Evolves s0 s) :
    Evolves s0 (State.writeSlotAttr s v w).1 := by
  unfold State.writeSlotAttr
  repeat' first
    | with_reducible assumption
    | refine fun (_ : Evolves _ _) => ?_
    | with_reducible apply evolves_iff
    | with_reducible apply State.recordRefused_ev
    | with_reducible apply State.recordWrite_ev
    | with_reducible apply evolves_ite_fst
    | (with_reducible apply evolves_mk; with_reducible exact rfl; with_reducible assumption)
    | intro x

theorem State.writeSlotAttr_eq {s0 sx : State} {s : State} {v : Nat} {w : Writer} {qx : Reason} (e : (State.writeSlotAttr s v w) = (sx, qx))
    (hev : Evolves s0 s) : Evolves s0 sx := by
  have g := State.writeSlotAttr_ev v w hev
  rw [e] at g
  exact g

theorem State.writeKeyCmd_ev {s0 : State} {s : State} (v : Nat) (w : Writer) (hev : Evolves s0 s) :
    Evolves s0 (State.writeKeyCmd s v w).1 := by
  unfold State.writeKeyCmd
  repeat' first
    | with_reducible assumption
    | with_reducible apply State.keyCommand_ev
    | with_reducible apply State.rotateGrove_ev
    | (with_reducible apply evolves_mk; with_reducible exact rfl; split)

theorem State.writeKeyCmd_eq {s0 sx : State} {s : State} {v : Nat} {w : Writer} {qx : Reason} (e : (State.writeKeyCmd s v w) = (sx, qx))
    (hev : Evolves s0 s) : Evolves s0 sx := by
  have g := State.writeKeyCmd_ev v w hev
  rw [e] at g
  exact g

theorem State.rearmTamper_ev {s0 : State} {s : State} (n : Nat) (hev : Evolves s0 s) :
    Evolves s0 (State.rearmTamper s n) := by
  unfold State.rearmTamper
  repeat' first
    | with_reducible assumption
    | refine fun (_ : Evolves _ _) => ?_
    | with_reducible apply evolves_iff
    | with_reducible apply evolves_whenLive
    | with_reducible apply evolves_forEach
    | with_reducible apply State.armTamper_ev
    | with_reducible apply evolves_ite
    | (with_reducible apply evolves_mk; (first | with_reducible exact rfl | (dsimp only; exact rfl)); (first | with_reducible assumption | with_reducible apply evolves_iff | with_reducible apply evolves_whenLive | with_reducible apply evolves_forEach | with_reducible apply State.armTamper_ev | with_reducible apply evolves_ite | split))
    | (intro x; refine evolves_cut (s0 := s0) (x := x) ?_ ?_; rotate_left; clear_value x; intro hx; rotate_left; subst x)
    | intro x
    | split
    | lift_lets
    | dsimp only

theorem State.writeTmpCfg_ev {s0 : State} {s : State} (v : Nat) (w : Writer) (hev : Evolves s0 s) :
    Evolves s0 (State.writeTmpCfg s v w).1 := by
  unfold State.writeTmpCfg
  repeat' first
    | with_reducible assumption
    | refine fun (_ : Evolves _ _) => ?_
    | with_reducible apply evolves_forEach
    | with_reducible apply State.rearmTamper_ev
    | with_reducible apply State.writeReg_ev
    | intro x

theorem State.writeTmpCfg_eq {s0 sx : State} {s : State} {v : Nat} {w : Writer} {qx : Reason} (e : (State.writeTmpCfg s v w) = (sx, qx))
    (hev : Evolves s0 s) : Evolves s0 sx := by
  have g := State.writeTmpCfg_ev v w hev
  rw [e] at g
  exact g

theorem State.writeKey_ev {s0 : State} {s : State} (o v : Nat) (w : Writer) (hev : Evolves s0 s) :
    Evolves s0 (State.writeKey s o v w).1 := by
  unfold State.writeKey
  repeat' first
    | with_reducible assumption
    | refine fun (_ : Evolves _ _) => ?_
    | with_reducible apply evolves_iff
    | with_reducible apply State.attest_ev
    | with_reducible apply State.writeKeyCmd_ev
    | with_reducible apply State.writePlain_ev
    | with_reducible apply State.writeSlotAttr_ev
    | with_reducible apply State.writeTmpCfg_ev
    | with_reducible apply State.writeTmpClear_ev
    | with_reducible apply State.writeTmpMaint_ev
    | with_reducible apply evolves_ite_fst
    | (with_reducible apply evolves_mk; with_reducible exact rfl; with_reducible assumption)
    | intro x

theorem State.writeKey_eq {s0 sx : State} {s : State} {o v : Nat} {w : Writer} {qx : Reason} (e : (State.writeKey s o v w) = (sx, qx))
    (hev : Evolves s0 s) : Evolves s0 sx := by
  have g := State.writeKey_ev o v w hev
  rw [e] at g
  exact g

end Sys2Proof.Machine
end

