-- ==== Sys2Proof/Laws/EvPower.lean ====
section
/-! SUPPORT. Every operation of Machine/Power.lean lets the state grow (Safety.lean). -/

set_option Elab.async false

namespace Sys2Proof.Machine

theorem State.recordPower_ev {s0 : State} {s : State} (source kind : Nat) (hev : Evolves s0 s) :
    Evolves s0 (State.recordPower s source kind) := by
  unfold State.recordPower
  repeat' first | with_reducible assumption | with_reducible apply State.record_ev

theorem State.powerEvent_ev {s0 : State} {s : State} (source kind payload : Nat) (hev : Evolves s0 s) :
    Evolves s0 (State.powerEvent s source kind payload) := by
  unfold State.powerEvent
  repeat' first
    | with_reducible assumption
    | with_reducible apply State.post_ev
    | with_reducible apply State.recordPower_ev
    | with_reducible apply evolves_ite

theorem State.drawFrom_ev {s0 : State} {s : State} (b : Bool) (hev : Evolves s0 s) :
    Evolves s0 (State.drawFrom s b) := by
  unfold State.drawFrom
  repeat' first
    | with_reducible assumption
    | with_reducible apply State.powerEvent_ev
    | with_reducible apply evolves_ite
    | (with_reducible apply evolves_mk; with_reducible exact rfl; with_reducible assumption)

theorem State.changeInput_ev {s0 : State} {s : State} (hev : Evolves s0 s) :
    Evolves s0 (State.changeInput s) := by
  unfold State.changeInput
  repeat' first
    | with_reducible assumption
    | with_reducible apply State.drawFrom_ev
    | with_reducible apply evolves_ite

theorem State.setInput_ev {s0 : State} {s : State} (b : Bool) (x : SupplyState) (hev : Evolves s0 s) :
    Evolves s0 (State.setInput s b x) := by
  unfold State.setInput
  repeat' first
    | with_reducible apply evolves_ite
    | (with_reducible apply evolves_mk; with_reducible exact rfl; with_reducible assumption)

theorem State.setVolts_ev {s0 : State} {s : State} (a b : Nat) (hev : Evolves s0 s) :
    Evolves s0 (State.setVolts s a b) := by
  unfold State.setVolts
  repeat' first | (with_reducible apply evolves_mk; with_reducible exact rfl; with_reducible assumption)

theorem execSupplyInputChange_ev {s0 s1 : State} (b : Bool) (x : SupplyState) (voltA voltB : Fin 65536) {s : State} (e : execSupplyInputChange b x voltA voltB s = .next s1)
    (hev : Evolves s0 s) : Evolves s0 s1 := by
  unfold execSupplyInputChange at e
  refine evolves_next e ?_
  repeat' first
    | with_reducible assumption
    | with_reducible apply State.changeInput_ev
    | with_reducible apply State.powerEvent_ev
    | with_reducible apply State.setInput_ev
    | with_reducible apply State.setVolts_ev

theorem execSupplyReturn_ev {s0 s1 : State} {s : State} (e : execSupplyReturn s = .next s1)
    (hev : Evolves s0 s) : Evolves s0 s1 := by
  unfold execSupplyReturn at e
  refine evolves_next e ?_
  repeat' first
    | with_reducible assumption
    | refine fun (_ : Evolves _ _) => ?_
    | with_reducible apply evolves_iff
    | with_reducible apply evolves_whenLive
    | with_reducible apply State.drawFrom_ev
    | intro x

theorem State.lastGaspSequence_ev {s0 : State} {s : State} (sums : List PhaseSum) (hev : Evolves s0 s) :
    Evolves s0 (State.lastGaspSequence s sums) := by
  unfold State.lastGaspSequence
  repeat' first
    | with_reducible assumption
    | refine fun (_ : Evolves _ _) => ?_
    | with_reducible apply evolves_iff
    | with_reducible apply State.cutSlices_ev
    | with_reducible apply State.drainStaging_ev
    | with_reducible apply State.post_ev
    | with_reducible apply State.recordPower_ev
    | (with_reducible apply evolves_mk; with_reducible exact rfl; (first | with_reducible assumption | with_reducible apply evolves_iff | with_reducible apply State.takeSnapshot_ev))
    | intro x

theorem execPowerFail_ev {s0 s1 : State} (tick : Nat) (sums : List PhaseSum) {s : State} (e : execPowerFail tick sums s = .next s1)
    (hev : Evolves s0 s) : Evolves s0 s1 := by
  unfold execPowerFail at e
  refine evolves_next e ?_
  repeat' first
    | with_reducible assumption
    | refine fun (_ : Evolves _ _) => ?_
    | with_reducible apply evolves_iff
    | with_reducible apply evolves_whenLive
    | with_reducible apply State.advanceTo_ev
    | with_reducible apply State.lastGaspSequence_ev
    | intro x

theorem execPowerDip_ev {s0 s1 : State} {s : State} (e : execPowerDip s = .next s1)
    (hev : Evolves s0 s) : Evolves s0 s1 := by
  unfold execPowerDip at e
  refine evolves_next e ?_
  repeat' first
    | with_reducible assumption
    | refine fun (_ : Evolves _ _) => ?_
    | with_reducible apply evolves_iff
    | with_reducible apply evolves_whenLive
    | with_reducible apply State.powerEvent_ev
    | (with_reducible apply evolves_mk; with_reducible exact rfl; with_reducible assumption)
    | intro x

theorem State.pinsOff_ev {s0 : State} {s : State} (hev : Evolves s0 s) :
    Evolves s0 (State.pinsOff s) := by
  unfold State.pinsOff
  repeat' first | (with_reducible apply evolves_mk; with_reducible exact rfl; with_reducible assumption)

theorem execHoldoverStop_ev {s0 s1 : State} {s : State} (e : execHoldoverStop s = .next s1)
    (hev : Evolves s0 s) : Evolves s0 s1 := by
  unfold execHoldoverStop at e
  refine evolves_next e ?_
  repeat' first
    | with_reducible assumption
    | refine fun (_ : Evolves _ _) => ?_
    | with_reducible apply evolves_iff
    | with_reducible apply evolves_whenLive
    | (with_reducible apply evolves_mk; with_reducible exact rfl; with_reducible apply State.pinsOff_ev)
    | intro x

theorem execRetentionLost_ev {s0 s1 : State} {s : State} (e : execRetentionLost s = .next s1)
    (hev : Evolves s0 s) : Evolves s0 s1 := by
  unfold execRetentionLost at e
  refine evolves_next e ?_
  repeat' first
    | with_reducible assumption
    | refine fun (_ : Evolves _ _) => ?_
    | with_reducible apply evolves_iff
    | (with_reducible apply evolves_mk; with_reducible exact rfl; with_reducible assumption)
    | intro x

theorem execVoltageMonitor_ev {s0 s1 : State} (stand : Stand) (hold : Word) {s : State} (e : execVoltageMonitor stand hold s = .next s1)
    (hev : Evolves s0 s) : Evolves s0 s1 := by
  unfold execVoltageMonitor at e
  refine evolves_next e ?_
  repeat' first
    | with_reducible assumption
    | refine fun (_ : Evolves _ _) => ?_
    | with_reducible apply evolves_iff
    | with_reducible apply evolves_whenLive
    | with_reducible apply State.powerEvent_ev
    | with_reducible apply State.standWithdraws_ev
    | intro x

theorem State.writeDormCtrl_ev {s0 : State} {s : State} (v : Nat) (w : Writer) (hev : Evolves s0 s) :
    Evolves s0 (State.writeDormCtrl s v w).1 := by
  unfold State.writeDormCtrl
  repeat' first
    | with_reducible assumption
    | with_reducible apply State.writeReg_ev
    | with_reducible apply evolves_ite_fst
    | (with_reducible apply evolves_mk; with_reducible exact rfl; with_reducible apply State.writeReg_ev)

theorem State.writeDormCtrl_eq {s0 sx : State} {s : State} {v : Nat} {w : Writer} {qx : Reason} (e : (State.writeDormCtrl s v w) = (sx, qx))
    (hev : Evolves s0 s) : Evolves s0 sx := by
  have g := State.writeDormCtrl_ev v w hev
  rw [e] at g
  exact g

theorem execDormancyEnter_ev {s0 s1 : State} (value : Word) (w : Writer) {s : State} (e : execDormancyEnter value w s = .next s1)
    (hev : Evolves s0 s) : Evolves s0 s1 := by
  unfold execDormancyEnter at e
  refine evolves_next e ?_
  repeat' first
    | with_reducible assumption
    | refine fun (_ : Evolves _ _) => ?_
    | with_reducible apply evolves_whenLive
    | with_reducible apply State.writeDormCtrl_ev
    | intro x

theorem State.autoDormTick_ev {s0 : State} {s : State} (hev : Evolves s0 s) :
    Evolves s0 (State.autoDormTick s) := by
  unfold State.autoDormTick
  repeat' first | (with_reducible apply evolves_mk; with_reducible exact rfl; with_reducible assumption)

theorem execDormancyAuto_ev {s0 s1 : State} {s : State} (e : execDormancyAuto s = .next s1)
    (hev : Evolves s0 s) : Evolves s0 s1 := by
  unfold execDormancyAuto at e
  refine evolves_next e ?_
  repeat' first
    | with_reducible assumption
    | refine fun (_ : Evolves _ _) => ?_
    | with_reducible apply evolves_iff
    | with_reducible apply evolves_whenLive
    | (with_reducible apply evolves_mk; with_reducible exact rfl; (first | with_reducible assumption | split))
    | intro x

theorem execDormancyEntry_ev {s0 s1 : State} {s : State} (e : execDormancyEntry s = .next s1)
    (hev : Evolves s0 s) : Evolves s0 s1 := by
  unfold execDormancyEntry at e
  refine evolves_next e ?_
  repeat' first
    | with_reducible assumption
    | refine fun (_ : Evolves _ _) => ?_
    | with_reducible apply evolves_iff
    | with_reducible apply evolves_whenLive
    | with_reducible apply State.recordPower_ev
    | (with_reducible apply evolves_mk; with_reducible exact rfl; (first | with_reducible assumption | with_reducible apply State.takeSnapshot_ev))
    | intro x

theorem State.dormTick_ev {s0 : State} {s : State} (hev : Evolves s0 s) :
    Evolves s0 (State.dormTick s) := by
  unfold State.dormTick
  repeat' first
    | with_reducible assumption
    | refine fun (_ : Evolves _ _) => ?_
    | with_reducible apply State.closeSession_ev
    | with_reducible apply evolves_ite
    | (with_reducible apply evolves_mk; with_reducible exact rfl; (first | with_reducible apply evolves_forEach | split))
    | intro x

theorem execDormancyPowerDown_ev {s0 s1 : State} {s : State} (e : execDormancyPowerDown s = .next s1)
    (hev : Evolves s0 s) : Evolves s0 s1 := by
  unfold execDormancyPowerDown at e
  refine evolves_next e ?_
  repeat' first
    | with_reducible assumption
    | refine fun (_ : Evolves _ _) => ?_
    | with_reducible apply evolves_iff
    | with_reducible apply evolves_whenLive
    | with_reducible apply State.drainStaging_ev
    | (with_reducible apply evolves_mk; with_reducible exact rfl; (first | with_reducible apply State.pinsOff_ev | split))
    | intro x

theorem State.restoreEvents_ev {s0 : State} {s : State} (good : Bool) (seconds : Nat) (hev : Evolves s0 s) :
    Evolves s0 (State.restoreEvents s good seconds) := by
  unfold State.restoreEvents
  repeat' first
    | with_reducible assumption
    | refine fun (_ : Evolves _ _) => ?_
    | with_reducible apply evolves_iff
    | with_reducible apply evolves_whenLive
    | with_reducible apply evolves_forEach
    | with_reducible apply State.record_ev
    | with_reducible apply evolves_ite
    | (with_reducible apply evolves_mk; (first | with_reducible exact rfl | (dsimp only; exact rfl)); (first | with_reducible assumption | with_reducible apply evolves_iff | with_reducible apply evolves_whenLive | with_reducible apply evolves_forEach | with_reducible apply State.record_ev | with_reducible apply evolves_ite | split))
    | (intro x; refine evolves_cut (s0 := s0) (x := x) ?_ ?_; rotate_left; clear_value x; intro hx; rotate_left; subst x)
    | intro x
    | split
    | lift_lets
    | dsimp only

theorem execDormancyWake_ev {s0 s1 : State} (source : Fin 6) (seconds : Nat) (good : Bool) {s : State} (e : execDormancyWake source seconds good s = .next s1)
    (hev : Evolves s0 s) : Evolves s0 s1 := by
  unfold execDormancyWake at e
  refine evolves_next e ?_
  repeat' first
    | with_reducible assumption
    | refine fun (_ : Evolves _ _) => ?_
    | with_reducible apply evolves_iff
    | with_reducible apply State.recordWakeAlarm_ev
    | with_reducible apply State.restoreEvents_ev
    | (with_reducible apply evolves_mk; with_reducible exact rfl; (first | with_reducible assumption | with_reducible apply State.restart_ev))
    | intro x

theorem State.setBase_ev {s0 : State} {s : State} (t : Int) (hev : Evolves s0 s) :
    Evolves s0 (State.setBase s t) := by
  unfold State.setBase
  repeat' first | (with_reducible apply evolves_mk; with_reducible exact rfl; with_reducible assumption)

theorem execThermalHot_ev {s0 s1 : State} (temp : Int) {s : State} (e : execThermalHot temp s = .next s1)
    (hev : Evolves s0 s) : Evolves s0 s1 := by
  unfold execThermalHot at e
  refine evolves_next e ?_
  repeat' first
    | with_reducible assumption
    | refine fun (_ : Evolves _ _) => ?_
    | with_reducible apply evolves_whenLive
    | with_reducible apply State.setBase_ev
    | intro x

theorem execThermalTrip_ev {s0 s1 : State} (temp : Int) (tick : Nat) (sums : List PhaseSum) {s : State} (e : execThermalTrip temp tick sums s = .next s1)
    (hev : Evolves s0 s) : Evolves s0 s1 := by
  unfold execThermalTrip at e
  refine evolves_next e ?_
  repeat' first
    | with_reducible assumption
    | refine fun (_ : Evolves _ _) => ?_
    | with_reducible apply evolves_iff
    | with_reducible apply evolves_whenLive
    | with_reducible apply State.advanceTo_ev
    | with_reducible apply State.lastGaspSequence_ev
    | (with_reducible apply evolves_mk; with_reducible exact rfl; (first | with_reducible apply State.pinsOff_ev | with_reducible apply State.setBase_ev))
    | intro x

theorem execThermalRelease_ev {s0 s1 : State} (temp : Int) {s : State} (e : execThermalRelease temp s = .next s1)
    (hev : Evolves s0 s) : Evolves s0 s1 := by
  unfold execThermalRelease at e
  refine evolves_next e ?_
  repeat' first
    | with_reducible assumption
    | refine fun (_ : Evolves _ _) => ?_
    | with_reducible apply evolves_iff
    | with_reducible apply State.recordWakeAlarm_ev
    | with_reducible apply State.setBase_ev
    | (with_reducible apply evolves_mk; with_reducible exact rfl; with_reducible apply State.restart_ev)
    | intro x

theorem State.writePwrCfg_ev {s0 : State} {s : State} (v : Nat) (w : Writer) (hev : Evolves s0 s) :
    Evolves s0 (State.writePwrCfg s v w).1 := by
  unfold State.writePwrCfg
  repeat' first
    | with_reducible assumption
    | refine fun (_ : Evolves _ _) => ?_
    | with_reducible apply evolves_iff
    | with_reducible apply State.writeReg_ev
    | (with_reducible apply evolves_mk; with_reducible exact rfl; with_reducible assumption)
    | intro x

theorem State.writePwrCfg_eq {s0 sx : State} {s : State} {v : Nat} {w : Writer} {qx : Reason} (e : (State.writePwrCfg s v w) = (sx, qx))
    (hev : Evolves s0 s) : Evolves s0 sx := by
  have g := State.writePwrCfg_ev v w hev
  rw [e] at g
  exact g

theorem execPeakRestart_ev {s0 s1 : State} (w : Writer) {s : State} (e : execPeakRestart w s = .next s1)
    (hev : Evolves s0 s) : Evolves s0 s1 := by
  unfold execPeakRestart at e
  refine evolves_next e ?_
  repeat' first
    | with_reducible assumption
    | refine fun (_ : Evolves _ _) => ?_
    | with_reducible apply evolves_whenLive
    | with_reducible apply State.writePwrCfg_ev
    | intro x

theorem State.setStore_ev {s0 : State} {s : State} (mj pct : Nat) (hev : Evolves s0 s) :
    Evolves s0 (State.setStore s mj pct) := by
  unfold State.setStore
  repeat' first | (with_reducible apply evolves_mk; with_reducible exact rfl; with_reducible assumption)

theorem execStoreRecharged_ev {s0 s1 : State} (mj : Fin 65536) (pct : Fin 256) {s : State} (e : execStoreRecharged mj pct s = .next s1)
    (hev : Evolves s0 s) : Evolves s0 s1 := by
  unfold execStoreRecharged at e
  refine evolves_next e ?_
  repeat' first
    | with_reducible assumption
    | refine fun (_ : Evolves _ _) => ?_
    | with_reducible apply evolves_iff
    | (with_reducible apply evolves_mk; with_reducible exact rfl; with_reducible apply State.setStore_ev)
    | intro x

end Sys2Proof.Machine
end

