-- ==== Sys2Proof/Laws/EvSessions.lean ====
section
/-! SUPPORT. Every operation of Machine/Sessions.lean lets the state grow (Safety.lean). -/

set_option Elab.async false

namespace Sys2Proof.Machine

theorem State.openSession_ev {s0 : State} {s : State} (path : Nat) (certified : Bool) (exporter : List Byte) (hev : Evolves s0 s) :
    Evolves s0 (State.openSession s path certified exporter) := by
  unfold State.openSession
  repeat' first
    | with_reducible assumption
    | with_reducible apply State.emit_ev
    | with_reducible apply evolves_ite
    | (with_reducible apply evolves_mk; with_reducible exact rfl; (first | with_reducible assumption | split))
    | intro x
    | lift_lets
    | dsimp only

theorem execTlsHandshake_ev {s0 s1 : State} (path : Fin 4) (signed chained : Bool) (exporter : List Byte) {s : State} (e : execTlsHandshake path signed chained exporter s = .next s1)
    (hev : Evolves s0 s) : Evolves s0 s1 := by
  unfold execTlsHandshake at e
  refine evolves_next e ?_
  repeat' first
    | with_reducible assumption
    | refine fun (_ : Evolves _ _) => ?_
    | with_reducible apply evolves_whenLive
    | with_reducible apply State.emit_ev
    | with_reducible apply State.openSession_ev
    | with_reducible apply evolves_ite
    | intro x

theorem execHandshakeTimeout_ev {s0 s1 : State} (since : Nat) {s : State} (e : execHandshakeTimeout since s = .next s1)
    (hev : Evolves s0 s) : Evolves s0 s1 := by
  unfold execHandshakeTimeout at e
  refine evolves_next e ?_
  repeat' first
    | with_reducible assumption
    | refine fun (_ : Evolves _ _) => ?_
    | with_reducible apply evolves_iff
    | with_reducible apply evolves_whenLive
    | with_reducible apply State.emit_ev
    | intro x

theorem State.headerAnswer_ev {s0 : State} {s : State} (i : Fin 4) (header : List Byte) (reason : Reason) (offset : Nat) (hev : Evolves s0 s) :
    Evolves s0 (State.headerAnswer s i header reason offset) := by
  unfold State.headerAnswer
  repeat' first
    | with_reducible assumption
    | refine fun (_ : Evolves _ _) => ?_
    | with_reducible apply evolves_iff
    | with_reducible apply evolves_whenLive
    | with_reducible apply evolves_forEach
    | with_reducible apply State.fspViolation_ev
    | with_reducible apply State.offset_ev
    | with_reducible apply State.refuse_ev
    | with_reducible apply State.respond_ev
    | with_reducible apply evolves_ite
    | (with_reducible apply evolves_mk; (first | with_reducible exact rfl | (dsimp only; exact rfl)); (first | with_reducible assumption | with_reducible apply evolves_iff | with_reducible apply evolves_whenLive | with_reducible apply evolves_forEach | with_reducible apply State.fspViolation_ev | with_reducible apply State.offset_ev | with_reducible apply State.refuse_ev | with_reducible apply State.respond_ev | with_reducible apply evolves_ite | split))
    | (intro x; refine evolves_cut (s0 := s0) (x := x) ?_ ?_; rotate_left; clear_value x; intro hx; rotate_left; subst x)
    | intro x
    | split
    | lift_lets
    | dsimp only

theorem execFspHeaderFault_ev {s0 s1 : State} (sess : Fin 4) (header : List Byte) {s : State} (e : execFspHeaderFault sess header s = .next s1)
    (hev : Evolves s0 s) : Evolves s0 s1 := by
  unfold execFspHeaderFault at e
  refine evolves_next e ?_
  repeat' first
    | with_reducible assumption
    | refine fun (_ : Evolves _ _) => ?_
    | with_reducible apply evolves_iff
    | with_reducible apply evolves_whenLive
    | with_reducible apply evolves_forEach
    | with_reducible apply State.headerAnswer_ev
    | with_reducible apply State.modSession_ev
    | with_reducible apply State.offset_ev
    | with_reducible apply evolves_ite
    | (with_reducible apply evolves_mk; (first | with_reducible exact rfl | (dsimp only; exact rfl)); (first | with_reducible assumption | with_reducible apply evolves_iff | with_reducible apply evolves_whenLive | with_reducible apply evolves_forEach | with_reducible apply State.headerAnswer_ev | with_reducible apply State.modSession_ev | with_reducible apply State.offset_ev | with_reducible apply evolves_ite | split))
    | (intro x; refine evolves_cut (s0 := s0) (x := x) ?_ ?_; rotate_left; clear_value x; intro hx; rotate_left; subst x)
    | intro x
    | split
    | lift_lets
    | dsimp only

theorem execFspWrongType_ev {s0 s1 : State} (sess : Fin 4) (type : Byte) (tx : Word) {s : State} (e : execFspWrongType sess type tx s = .next s1)
    (hev : Evolves s0 s) : Evolves s0 s1 := by
  unfold execFspWrongType at e
  refine evolves_next e ?_
  repeat' first
    | with_reducible assumption
    | refine fun (_ : Evolves _ _) => ?_
    | with_reducible apply evolves_iff
    | with_reducible apply evolves_whenLive
    | with_reducible apply State.modSession_ev
    | with_reducible apply State.refuse_ev
    | (with_reducible apply evolves_mk; with_reducible exact rfl; split)
    | intro x

theorem State.subscribe_ev {s0 : State} {s : State} (i : Fin 4) (on_ : Bool) (head : Nat) (hev : Evolves s0 s) :
    Evolves s0 (State.subscribe s i on_ head) := by
  unfold State.subscribe
  repeat' first
    | with_reducible assumption
    | with_reducible apply State.modSession_ev
    | with_reducible apply State.pushWaiting_ev

theorem State.serveHello_ev {s0 : State} {s : State} (i : Fin 4) (c : Session) (tx : Nat) (body : List Byte) (hev : Evolves s0 s) :
    Evolves s0 (State.serveHello s i c tx body) := by
  unfold State.serveHello
  repeat' first
    | with_reducible assumption
    | with_reducible apply State.malformed_ev
    | with_reducible apply State.respond_ev
    | with_reducible apply State.subscribe_ev
    | with_reducible apply evolves_ite

theorem execHello_ev {s0 s1 : State} (sess : Fin 4) (role : Byte) (tx : Word) (body : List Byte) {s : State} (e : execHello sess role tx body s = .next s1)
    (hev : Evolves s0 s) : Evolves s0 s1 := by
  unfold execHello at e
  refine evolves_next e ?_
  repeat' first
    | with_reducible assumption
    | refine fun (_ : Evolves _ _) => ?_
    | with_reducible apply evolves_whenLive
    | with_reducible apply State.request_ev
    | with_reducible apply State.serveHello_ev
    | intro x

theorem State.serveChallenge_ev {s0 : State} {s : State} (i : Fin 4) (c : Session) (tx : Nat) (body : List Byte) (hev : Evolves s0 s) :
    Evolves s0 (State.serveChallenge s i c tx body) := by
  unfold State.serveChallenge
  repeat' first
    | with_reducible assumption
    | with_reducible apply State.drawRandom_ev
    | with_reducible apply State.malformed_ev
    | with_reducible apply State.modSession_ev
    | with_reducible apply State.respond_ev
    | with_reducible apply evolves_ite
    | (with_reducible apply evolves_mk; with_reducible exact rfl; split)

theorem execRoleChallenge_ev {s0 s1 : State} (sess : Fin 4) (role : Byte) (tx : Word) (body : List Byte) {s : State} (e : execRoleChallenge sess role tx body s = .next s1)
    (hev : Evolves s0 s) : Evolves s0 s1 := by
  unfold execRoleChallenge at e
  refine evolves_next e ?_
  repeat' first
    | with_reducible assumption
    | refine fun (_ : Evolves _ _) => ?_
    | with_reducible apply evolves_whenLive
    | with_reducible apply State.request_ev
    | with_reducible apply State.serveChallenge_ev
    | intro x

theorem State.countProof_ev {s0 : State} {s : State} (r : Role) (ok : Bool) (hev : Evolves s0 s) :
    Evolves s0 (State.countProof s r ok) := by
  unfold State.countProof
  repeat' first
    | with_reducible apply evolves_ite
    | (with_reducible apply evolves_mk; with_reducible exact rfl; with_reducible assumption)

theorem State.recordProof_ev {s0 : State} {s : State} (r : Role) (ok : Bool) (source path : Nat) (hev : Evolves s0 s) :
    Evolves s0 (State.recordProof s r ok source path) := by
  unfold State.recordProof
  repeat' first | with_reducible assumption | with_reducible apply State.recordAs_ev

theorem State.serveProof_ev {s0 : State} {s : State} (i : Fin 4) (c : Session) (tx : Nat) (body : List Byte) (hev : Evolves s0 s) :
    Evolves s0 (State.serveProof s i c tx body) := by
  unfold State.serveProof
  repeat' first
    | with_reducible assumption
    | with_reducible apply State.countProof_ev
    | with_reducible apply State.fspViolation_ev
    | with_reducible apply State.malformed_ev
    | with_reducible apply State.modSession_ev
    | with_reducible apply State.recordProof_ev
    | with_reducible apply State.respond_ev
    | with_reducible apply evolves_ite
    | (with_reducible apply evolves_mk; with_reducible exact rfl; split)

theorem execRoleProof_ev {s0 s1 : State} (sess : Fin 4) (role : Byte) (tx : Word) (body : List Byte) {s : State} (e : execRoleProof sess role tx body s = .next s1)
    (hev : Evolves s0 s) : Evolves s0 s1 := by
  unfold execRoleProof at e
  refine evolves_next e ?_
  repeat' first
    | with_reducible assumption
    | refine fun (_ : Evolves _ _) => ?_
    | with_reducible apply evolves_whenLive
    | with_reducible apply State.request_ev
    | with_reducible apply State.serveProof_ev
    | intro x

theorem execRoleLapse_ev {s0 s1 : State} (sess : Fin 4) {s : State} (e : execRoleLapse sess s = .next s1)
    (hev : Evolves s0 s) : Evolves s0 s1 := by
  unfold execRoleLapse at e
  refine evolves_next e ?_
  repeat' first
    | with_reducible assumption
    | refine fun (_ : Evolves _ _) => ?_
    | with_reducible apply evolves_iff
    | with_reducible apply evolves_whenLive
    | with_reducible apply State.fspViolation_ev
    | with_reducible apply State.modSession_ev
    | (with_reducible apply evolves_mk; with_reducible exact rfl; split)
    | intro x

theorem State.settle_ev {s0 : State} {s : State} (seq : Nat) (hev : Evolves s0 s) :
    Evolves s0 (State.settle s seq) := by
  unfold State.settle
  repeat' first | (with_reducible apply evolves_mk; with_reducible exact rfl; with_reducible assumption)

theorem execPushAck_ev {s0 s1 : State} (sess : Fin 4) (role : Byte) (type : Byte) (seq : Word) {s : State} (e : execPushAck sess role type seq s = .next s1)
    (hev : Evolves s0 s) : Evolves s0 s1 := by
  unfold execPushAck at e
  refine evolves_next e ?_
  repeat' first
    | with_reducible assumption
    | refine fun (_ : Evolves _ _) => ?_
    | with_reducible apply evolves_whenLive
    | with_reducible apply evolves_forEach
    | with_reducible apply State.fspViolation_ev
    | with_reducible apply State.modSession_ev
    | with_reducible apply State.pushWaiting_ev
    | with_reducible apply State.refuse_ev
    | with_reducible apply State.settle_ev
    | with_reducible apply evolves_ite
    | (with_reducible apply evolves_mk; with_reducible exact rfl; split)
    | intro x

theorem execSessionIdle_ev {s0 s1 : State} (sess : Fin 4) {s : State} (e : execSessionIdle sess s = .next s1)
    (hev : Evolves s0 s) : Evolves s0 s1 := by
  unfold execSessionIdle at e
  refine evolves_next e ?_
  repeat' first
    | with_reducible assumption
    | refine fun (_ : Evolves _ _) => ?_
    | with_reducible apply evolves_iff
    | with_reducible apply evolves_whenLive
    | with_reducible apply State.closeSession_ev
    | (with_reducible apply evolves_mk; with_reducible exact rfl; split)
    | intro x

theorem execSessionClose_ev {s0 s1 : State} (sess : Fin 4) {s : State} (e : execSessionClose sess s = .next s1)
    (hev : Evolves s0 s) : Evolves s0 s1 := by
  unfold execSessionClose at e
  refine evolves_next e ?_
  repeat' first
    | with_reducible assumption
    | refine fun (_ : Evolves _ _) => ?_
    | with_reducible apply evolves_whenLive
    | with_reducible apply State.closeSession_ev
    | intro x

theorem State.startDial_ev {s0 : State} {s : State} (hev : Evolves s0 s) :
    Evolves s0 (State.startDial s) := by
  unfold State.startDial
  repeat' first
    | with_reducible apply State.emit_ev
    | (with_reducible apply evolves_mk; with_reducible exact rfl; (first | with_reducible assumption | split))

theorem execModemOpen_ev {s0 s1 : State} {s : State} (e : execModemOpen s = .next s1)
    (hev : Evolves s0 s) : Evolves s0 s1 := by
  unfold execModemOpen at e
  refine evolves_next e ?_
  repeat' first
    | with_reducible assumption
    | refine fun (_ : Evolves _ _) => ?_
    | with_reducible apply evolves_iff
    | with_reducible apply evolves_whenLive
    | with_reducible apply State.startDial_ev
    | intro x

theorem State.modemFail_ev {s0 : State} {s : State} (hev : Evolves s0 s) :
    Evolves s0 (State.modemFail s) := by
  unfold State.modemFail
  repeat' first | (with_reducible apply evolves_mk; with_reducible exact rfl; with_reducible assumption)

theorem execDialLineAnswer_ev {s0 s1 : State} (ok connect : Bool) {s : State} (e : execDialLineAnswer ok connect s = .next s1)
    (hev : Evolves s0 s) : Evolves s0 s1 := by
  unfold execDialLineAnswer at e
  refine evolves_next e ?_
  repeat' first
    | with_reducible assumption
    | refine fun (_ : Evolves _ _) => ?_
    | with_reducible apply evolves_whenLive
    | with_reducible apply State.emit_ev
    | with_reducible apply State.modemFail_ev
    | with_reducible apply evolves_ite
    | (with_reducible apply evolves_mk; with_reducible exact rfl; (first | with_reducible assumption | split))
    | intro x

theorem execDialTimeout_ev {s0 s1 : State} {s : State} (e : execDialTimeout s = .next s1)
    (hev : Evolves s0 s) : Evolves s0 s1 := by
  unfold execDialTimeout at e
  refine evolves_next e ?_
  repeat' first
    | with_reducible assumption
    | refine fun (_ : Evolves _ _) => ?_
    | with_reducible apply evolves_iff
    | with_reducible apply evolves_whenLive
    | with_reducible apply State.modemFail_ev
    | (with_reducible apply evolves_mk; with_reducible exact rfl; split)
    | intro x

theorem execModemClose_ev {s0 s1 : State} {s : State} (e : execModemClose s = .next s1)
    (hev : Evolves s0 s) : Evolves s0 s1 := by
  unfold execModemClose at e
  refine evolves_next e ?_
  repeat' first
    | with_reducible assumption
    | refine fun (_ : Evolves _ _) => ?_
    | with_reducible apply evolves_iff
    | with_reducible apply evolves_whenLive
    | with_reducible apply State.closeSession_ev
    | with_reducible apply evolves_ite
    | (with_reducible apply evolves_mk; with_reducible exact rfl; (first | with_reducible apply evolves_forEach | split))
    | intro x

theorem execModemRetry_ev {s0 s1 : State} {s : State} (e : execModemRetry s = .next s1)
    (hev : Evolves s0 s) : Evolves s0 s1 := by
  unfold execModemRetry at e
  refine evolves_next e ?_
  repeat' first
    | with_reducible assumption
    | refine fun (_ : Evolves _ _) => ?_
    | with_reducible apply evolves_iff
    | with_reducible apply evolves_whenLive
    | with_reducible apply State.startDial_ev
    | (with_reducible apply evolves_mk; with_reducible exact rfl; with_reducible assumption)
    | intro x

theorem execModemCtsChange_ev {s0 s1 : State} (asserted : Bool) {s : State} (e : execModemCtsChange asserted s = .next s1)
    (hev : Evolves s0 s) : Evolves s0 s1 := by
  unfold execModemCtsChange at e
  refine evolves_next e ?_
  repeat' first
    | with_reducible assumption
    | refine fun (_ : Evolves _ _) => ?_
    | with_reducible apply evolves_whenLive
    | with_reducible apply State.postTile_ev
    | (with_reducible apply evolves_mk; with_reducible exact rfl; with_reducible assumption)
    | intro x

end Sys2Proof.Machine
end

