-- ==== Sys2Proof/Laws/EvStartUp.lean ====
section
/-! SUPPORT. Every operation of Machine/StartUp.lean lets the state grow (Safety.lean). -/

set_option Elab.async false

namespace Sys2Proof.Machine

theorem State.fillSafe_ev {s0 : State} {s : State} (hev : Evolves s0 s) :
    Evolves s0 (State.fillSafe s) := by
  unfold State.fillSafe
  repeat' first | (with_reducible apply evolves_mk; with_reducible exact rfl; with_reducible assumption)

theorem State.driveSafe_ev {s0 : State} {s : State} (hev : Evolves s0 s) :
    Evolves s0 (State.driveSafe s) := by
  unfold State.driveSafe
  repeat' first
    | with_reducible assumption
    | refine fun (_ : Evolves _ _) => ?_
    | with_reducible apply evolves_forEach
    | with_reducible apply State.kcPlanned_ev
    | with_reducible apply evolves_ite
    | (with_reducible apply evolves_mk; with_reducible exact rfl; with_reducible assumption)
    | intro x

theorem execPowerUp_ev {s0 s1 : State} (b : Bool) (voltA voltB : Fin 65536) (base : Int) (good : Bool) {s : State} (e : execPowerUp b voltA voltB base good s = .next s1)
    (hev : Evolves s0 s) : Evolves s0 s1 := by
  unfold execPowerUp at e
  refine evolves_next e ?_
  repeat' first
    | with_reducible assumption
    | refine fun (_ : Evolves _ _) => ?_
    | with_reducible apply evolves_iff
    | with_reducible apply State.driveSafe_ev
    | with_reducible apply State.powerEvent_ev
    | with_reducible apply State.recordWakeAlarm_ev
    | with_reducible apply State.setInput_ev
    | with_reducible apply State.setVolts_ev
    | with_reducible apply evolves_ite
    | (with_reducible apply evolves_mk; with_reducible exact rfl; (first | with_reducible apply State.restart_ev | split))
    | intro x

theorem State.deriveAtStart_ev {s0 : State} {s : State} (hev : Evolves s0 s) :
    Evolves s0 (State.deriveAtStart s) := by
  unfold State.deriveAtStart
  repeat' first
    | with_reducible assumption
    | with_reducible apply evolves_iff
    | with_reducible apply State.deriveStorage_ev
    | with_reducible apply State.rederiveMb_ev
    | with_reducible apply evolves_ite

theorem State.measured_ev {s0 : State} {s : State} (drover firmware : BitVec 256) (hev : Evolves s0 s) :
    Evolves s0 (State.measured s drover firmware) := by
  unfold State.measured
  repeat' first
    | with_reducible apply State.measureCanopy_ev
    | (with_reducible apply evolves_mk; with_reducible exact rfl; (first | with_reducible assumption | with_reducible apply State.deriveAtStart_ev))

theorem State.heldInDrover_ev {s0 : State} {s : State} (x : Stand) (hev : Evolves s0 s) :
    Evolves s0 (State.heldInDrover s x) := by
  unfold State.heldInDrover
  repeat' first
    | with_reducible assumption
    | with_reducible apply State.modStand_ev
    | with_reducible apply evolves_ite
    | (with_reducible apply evolves_mk; with_reducible exact rfl; with_reducible apply State.modStand_ev)

theorem State.restoreImage_ev {s0 : State} {s : State} (x : Stand) (hev : Evolves s0 s) :
    Evolves s0 (State.restoreImage s x) := by
  unfold State.restoreImage
  repeat' first
    | with_reducible assumption
    | with_reducible apply State.record_ev
    | with_reducible apply State.restoreBackup_ev
    | with_reducible apply evolves_ite
    | (with_reducible apply evolves_mk; with_reducible exact rfl; (first | with_reducible apply State.record_ev | with_reducible apply State.restart_ev))

theorem execBootMeasurement_ev {s0 s1 : State} (stand : Stand) (drover firmware : BitVec 256) (good backup : Bool) {s : State} (e : execBootMeasurement stand drover firmware good backup s = .next s1)
    (hev : Evolves s0 s) : Evolves s0 s1 := by
  unfold execBootMeasurement at e
  refine evolves_next e ?_
  repeat' first
    | with_reducible assumption
    | refine fun (_ : Evolves _ _) => ?_
    | with_reducible apply evolves_iff
    | with_reducible apply evolves_whenLive
    | with_reducible apply State.heldInDrover_ev
    | with_reducible apply State.measured_ev
    | with_reducible apply State.restoreImage_ev
    | with_reducible apply evolves_ite
    | intro x

theorem State.groveKeysReady_ev {s0 : State} {s : State} (hev : Evolves s0 s) :
    Evolves s0 (State.groveKeysReady s) := by
  unfold State.groveKeysReady
  repeat' first
    | with_reducible assumption
    | refine fun (_ : Evolves _ _) => ?_
    | with_reducible apply evolves_forEach
    | with_reducible apply State.freshGroves_ev
    | with_reducible apply State.setSlot_ev
    | with_reducible apply evolves_ite
    | intro x

theorem State.serveCanopy_ev {s0 : State} {s : State} (im : Image) (hev : Evolves s0 s) :
    Evolves s0 (State.serveCanopy s im) := by
  unfold State.serveCanopy
  repeat' first
    | with_reducible assumption
    | refine fun (_ : Evolves _ _) => ?_
    | with_reducible apply evolves_iff
    | with_reducible apply State.deriveAtStart_ev
    | with_reducible apply State.fullLoad_ev
    | with_reducible apply State.groveKeysReady_ev
    | with_reducible apply State.measureCanopy_ev
    | (with_reducible apply evolves_mk; with_reducible exact rfl; (first | with_reducible assumption | with_reducible apply State.loadMeter_ev))
    | intro x

theorem execCanopyLoaded_ev {s0 s1 : State} (octets : List Byte) {s : State} (e : execCanopyLoaded octets s = .next s1)
    (hev : Evolves s0 s) : Evolves s0 s1 := by
  unfold execCanopyLoaded at e
  refine evolves_next e ?_
  repeat' first
    | with_reducible assumption
    | refine fun (_ : Evolves _ _) => ?_
    | with_reducible apply evolves_iff
    | with_reducible apply evolves_whenLive
    | with_reducible apply State.serveCanopy_ev
    | (with_reducible apply evolves_mk; with_reducible exact rfl; split)
    | intro x

theorem execPrefTimeout_ev {s0 s1 : State} (tick : Nat) {s : State} (e : execPrefTimeout tick s = .next s1)
    (hev : Evolves s0 s) : Evolves s0 s1 := by
  unfold execPrefTimeout at e
  refine evolves_next e ?_
  repeat' first
    | with_reducible assumption
    | refine fun (_ : Evolves _ _) => ?_
    | with_reducible apply evolves_iff
    | with_reducible apply evolves_whenLive
    | with_reducible apply State.advanceTo_ev
    | with_reducible apply State.modStand_ev
    | (with_reducible apply evolves_mk; with_reducible exact rfl; with_reducible apply State.modStand_ev)
    | intro x

theorem State.writeResetCmd_ev {s0 : State} {s : State} (v : Nat) (w : Writer) (hev : Evolves s0 s) :
    Evolves s0 (State.writeResetCmd s v w).1 := by
  unfold State.writeResetCmd
  repeat' first
    | with_reducible assumption
    | with_reducible apply State.restart_ev
    | with_reducible apply State.saveMeter_ev
    | with_reducible apply State.writeReg_ev
    | with_reducible apply evolves_ite_fst

theorem State.writeResetCmd_eq {s0 sx : State} {s : State} {v : Nat} {w : Writer} {qx : Reason} (e : (State.writeResetCmd s v w) = (sx, qx))
    (hev : Evolves s0 s) : Evolves s0 sx := by
  have g := State.writeResetCmd_ev v w hev
  rw [e] at g
  exact g

theorem execModuleReset_ev {s0 s1 : State} (value : Word) (w : Writer) {s : State} (e : execModuleReset value w s = .next s1)
    (hev : Evolves s0 s) : Evolves s0 s1 := by
  unfold execModuleReset at e
  refine evolves_next e ?_
  repeat' first
    | with_reducible assumption
    | refine fun (_ : Evolves _ _) => ?_
    | with_reducible apply evolves_whenLive
    | with_reducible apply State.writeResetCmd_ev
    | intro x

theorem State.noteFirstBeacon_ev {s0 : State} {s : State} (silent : Bool) (hev : Evolves s0 s) :
    Evolves s0 (State.noteFirstBeacon s silent) := by
  unfold State.noteFirstBeacon
  repeat' first
    | with_reducible assumption
    | refine fun (_ : Evolves _ _) => ?_
    | with_reducible apply evolves_iff
    | with_reducible apply State.startRejoin_ev
    | with_reducible apply evolves_ite
    | (with_reducible apply evolves_mk; with_reducible exact rfl; with_reducible assumption)
    | intro x

theorem State.writeSys_ev {s0 : State} {s : State} (o v : Nat) (w : Writer) (hev : Evolves s0 s) :
    Evolves s0 (State.writeSys s o v w).1 := by
  unfold State.writeSys
  repeat' first
    | with_reducible assumption
    | with_reducible apply State.writeDormCtrl_ev
    | with_reducible apply State.writePlain_ev
    | with_reducible apply State.writePwrCfg_ev
    | with_reducible apply State.writeResetCmd_ev
    | with_reducible apply evolves_ite_fst
    | (with_reducible apply evolves_mk; with_reducible exact rfl; with_reducible assumption)

theorem State.writeSys_eq {s0 sx : State} {s : State} {o v : Nat} {w : Writer} {qx : Reason} (e : (State.writeSys s o v w) = (sx, qx))
    (hev : Evolves s0 s) : Evolves s0 sx := by
  have g := State.writeSys_ev o v w hev
  rw [e] at g
  exact g

end Sys2Proof.Machine
end

