-- ==== Sys2Proof/Laws/EvRegAll.lean ====
section
/-! SUPPORT. Every operation of Machine/RegAll.lean lets the state grow (Safety.lean). -/

set_option Elab.async false

namespace Sys2Proof.Machine

theorem State.writeEvt_ev {s0 s : State} (o v : Nat) (hev : Evolves s0 s) : Evolves s0 (s.writeEvt o v) := by
  have g : ∀ e : EvtSt, Evolves s0 { s with evt := e } := fun _ => evolves_mk rfl hev
  unfold State.writeEvt
  refine evolves_ite _ (State.writeEvtCtrl_ev _ hev) (evolves_ite _ (State.writeEvtStatus_ev _ hev) (evolves_ite _ ?_ hev))
  dsimp only
  refine evolves_ite _ ?_ (evolves_ite _ (g _) (evolves_ite _ (g _) hev))
  generalize (o - 4096) % 128 % 16 = m
  match m with
  | 0 => exact g _
  | 8 => exact g _
  | 1 | 2 | 3 | 4 | 5 | 6 | 7 | _ + 9 => exact hev

theorem State.writeQue_ev {s0 : State} {s : State} (o v : Nat) (w : Writer) (hev : Evolves s0 s) :
    Evolves s0 (State.writeQue s o v w).1 := by
  unfold State.writeQue
  repeat' first
    | with_reducible assumption
    | with_reducible apply accepted_ev
    | with_reducible apply State.writePeak_ev
    | with_reducible apply State.writePlain_ev
    | with_reducible apply State.writeQueCtrl_ev
    | with_reducible apply State.writeQueStatus_ev
    | with_reducible apply evolves_ite_fst

theorem State.writeQue_eq {s0 sx : State} {s : State} {o v : Nat} {w : Writer} {qx : Reason} (e : (State.writeQue s o v w) = (sx, qx))
    (hev : Evolves s0 s) : Evolves s0 sx := by
  have g := State.writeQue_ev o v w hev
  rw [e] at g
  exact g

theorem State.writeWord_ev {s0 : State} {s : State} (a v : Nat) (w : Writer) (hev : Evolves s0 s) :
    Evolves s0 (State.writeWord s a v w).1 := by
  unfold State.writeWord
  repeat' first
    | with_reducible assumption
    | with_reducible apply accepted_ev
    | with_reducible apply State.writeBlock_ev
    | with_reducible apply State.writeCop_ev
    | with_reducible apply State.writeEvt_ev
    | with_reducible apply State.writeFord_ev
    | with_reducible apply State.writeKey_ev
    | with_reducible apply State.writePlain_ev
    | with_reducible apply State.writeQue_ev
    | with_reducible apply State.writeSys_ev
    | with_reducible apply State.writeUpd_ev
    | with_reducible apply State.writeWayCtrl_ev
    | with_reducible apply evolves_ite_fst
    | (with_reducible apply evolves_mk; with_reducible exact rfl; split)

theorem State.writeWord_eq {s0 sx : State} {s : State} {a v : Nat} {w : Writer} {qx : Reason} (e : (State.writeWord s a v w) = (sx, qx))
    (hev : Evolves s0 s) : Evolves s0 sx := by
  have g := State.writeWord_ev a v w hev
  rw [e] at g
  exact g

theorem State.writeRecorded_ev {s0 : State} {s : State} (a v : Nat) (w : Writer) (hev : Evolves s0 s) :
    Evolves s0 (State.writeRecorded s a v w).1 := by
  unfold State.writeRecorded
  repeat' first
    | with_reducible assumption
    | with_reducible apply State.recordWrite_ev
    | with_reducible apply State.writeWord_ev
    | with_reducible apply evolves_ite_fst

theorem State.writeRecorded_eq {s0 sx : State} {s : State} {a v : Nat} {w : Writer} {qx : Reason} (e : (State.writeRecorded s a v w) = (sx, qx))
    (hev : Evolves s0 s) : Evolves s0 sx := by
  have g := State.writeRecorded_ev a v w hev
  rw [e] at g
  exact g

theorem execRegisterWrite_ev {s0 s1 : State} (addr value : Word) (w : Writer) {s : State} (e : execRegisterWrite addr value w s = .next s1)
    (hev : Evolves s0 s) : Evolves s0 s1 := by
  unfold execRegisterWrite at e
  refine evolves_next e ?_
  repeat' first
    | with_reducible assumption
    | refine fun (_ : Evolves _ _) => ?_
    | with_reducible apply evolves_iff
    | with_reducible apply evolves_whenLive
    | with_reducible apply State.writeRecorded_ev
    | intro x

theorem State.writeWords_ev {s0 : State} (w : Writer) (l : List Nat) :
    ∀ {s : State} {a : Nat}, Evolves s0 s → Evolves s0 (s.writeWords a l w).1 := by
  induction l with
  | nil => intro s a h; exact h
  | cons v rest ih => intro s a h; exact ih (State.writeWord_ev _ _ _ h)

theorem State.writeWords_eq {s0 s sx : State} {a : Nat} {l : List Nat} {w : Writer} {qx : Reason}
    (e : s.writeWords a l w = (sx, qx)) (hev : Evolves s0 s) : Evolves s0 sx := by
  have g : Evolves s0 (s.writeWords a l w).1 := State.writeWords_ev w l hev
  rw [e] at g
  exact g

theorem State.recordWindow_ev {s0 : State} {s : State} (i : Fin 4) (role : Role) (reason : Reason) (head : List Byte) (hev : Evolves s0 s) :
    Evolves s0 (State.recordWindow s i role reason head) := by
  unfold State.recordWindow
  repeat' first | with_reducible assumption | with_reducible apply State.recordAs_ev

theorem State.registerWindow_ev {s0 : State} {s : State} (i : Fin 4) (c : Session) (tx : Nat) (body : List Byte) (hev : Evolves s0 s) :
    Evolves s0 (State.registerWindow s i c tx body) := by
  unfold State.registerWindow
  repeat' first
    | with_reducible assumption
    | with_reducible apply State.malformed_ev
    | with_reducible apply State.recordWindow_ev
    | with_reducible apply State.respond_ev
    | with_reducible apply State.writeWords_ev
    | with_reducible apply evolves_ite

theorem execRegisterWindowRead_ev {s0 s1 : State} (sess : Fin 4) (role : Byte) (tx : Word) (body : List Byte) {s : State} (e : execRegisterWindowRead sess role tx body s = .next s1)
    (hev : Evolves s0 s) : Evolves s0 s1 := by
  unfold execRegisterWindowRead at e
  refine evolves_next e ?_
  repeat' first
    | with_reducible assumption
    | refine fun (_ : Evolves _ _) => ?_
    | with_reducible apply evolves_whenLive
    | with_reducible apply State.registerWindow_ev
    | with_reducible apply State.request_ev
    | intro x

theorem execRegisterWindowWrite_ev {s0 s1 : State} (sess : Fin 4) (role : Byte) (tx : Word) (body : List Byte) {s : State} (e : execRegisterWindowWrite sess role tx body s = .next s1)
    (hev : Evolves s0 s) : Evolves s0 s1 := by
  unfold execRegisterWindowWrite at e
  refine evolves_next e ?_
  repeat' first
    | with_reducible assumption
    | refine fun (_ : Evolves _ _) => ?_
    | with_reducible apply evolves_whenLive
    | with_reducible apply State.registerWindow_ev
    | with_reducible apply State.request_ev
    | intro x

end Sys2Proof.Machine
end

