-- ==== Sys2Proof/Laws/EvMonitor.lean ====
section
/-! SUPPORT. Every operation of Machine/Monitor.lean lets the state grow (Safety.lean). -/

set_option Elab.async false

namespace Sys2Proof.Machine

theorem State.answer_ev {s0 : State} {s : State} (lines : List String) (reason : Reason) (hev : Evolves s0 s) :
    Evolves s0 (State.answer s lines reason) := by
  unfold State.answer
  repeat' first | with_reducible assumption | with_reducible apply State.emits_ev

theorem State.dropRole_ev {s0 : State} {s : State} (hev : Evolves s0 s) :
    Evolves s0 (State.dropRole s) := by
  unfold State.dropRole
  repeat' first
    | with_reducible assumption
    | refine fun (_ : Evolves _ _) => ?_
    | with_reducible apply State.recordAs_ev
    | (with_reducible apply evolves_mk; with_reducible exact rfl; with_reducible apply evolves_iff)
    | intro x

theorem State.monViolation_ev {s0 : State} {s : State} (reason : Reason) (hev : Evolves s0 s) :
    Evolves s0 (State.monViolation s reason) := by
  unfold State.monViolation
  repeat' first
    | with_reducible assumption
    | with_reducible apply State.answer_ev
    | with_reducible apply evolves_ite
    | (with_reducible apply evolves_mk; with_reducible exact rfl; (first | with_reducible apply State.answer_ev | with_reducible apply State.dropRole_ev))

theorem State.monLine_ev {s0 : State} {s : State} (boot : Bool) (need : MonNeed) (use_ : Option MonUse) (args : Bool) (f : State → State) (h_f : ∀  x, Evolves s0 x → Evolves s0 (f  x)) (hev : Evolves s0 s) :
    Evolves s0 (State.monLine s boot need use_ args f) := by
  unfold State.monLine
  repeat' first
    | with_reducible assumption
    | with_reducible apply State.answer_ev
    | with_reducible apply State.monViolation_ev
    | apply h_f
    | with_reducible apply evolves_ite
    | (with_reducible apply evolves_mk; with_reducible exact rfl; with_reducible assumption)
    | split
    | dsimp only

theorem execMonHelp_ev {s0 s1 : State} {s : State} (e : execMonHelp s = .next s1)
    (hev : Evolves s0 s) : Evolves s0 s1 := by
  unfold execMonHelp at e
  refine evolves_next e ?_
  repeat' first
    | with_reducible assumption
    | refine fun (_ : Evolves _ _) => ?_
    | with_reducible apply evolves_whenLive
    | with_reducible apply State.answer_ev
    | with_reducible apply State.monLine_ev
    | intro x

theorem execMonLogin_ev {s0 s1 : State} (role : Role) {s : State} (e : execMonLogin role s = .next s1)
    (hev : Evolves s0 s) : Evolves s0 s1 := by
  unfold execMonLogin at e
  refine evolves_next e ?_
  repeat' first
    | with_reducible assumption
    | refine fun (_ : Evolves _ _) => ?_
    | with_reducible apply evolves_whenLive
    | with_reducible apply State.answer_ev
    | with_reducible apply State.monLine_ev
    | (with_reducible apply evolves_mk; with_reducible exact rfl; with_reducible apply State.drawRandom_ev)
    | intro x

theorem State.monProofFails_ev {s0 : State} {s : State} (r : Role) (hev : Evolves s0 s) :
    Evolves s0 (State.monProofFails s r) := by
  unfold State.monProofFails
  repeat' first
    | with_reducible assumption
    | with_reducible apply State.countProof_ev
    | with_reducible apply State.monViolation_ev
    | with_reducible apply State.recordProof_ev

theorem State.monGrant_ev {s0 : State} {s : State} (n : Nonce) (hev : Evolves s0 s) :
    Evolves s0 (State.monGrant s n) := by
  unfold State.monGrant
  repeat' first
    | with_reducible assumption
    | with_reducible apply State.answer_ev
    | with_reducible apply State.countProof_ev
    | with_reducible apply State.dropRole_ev
    | with_reducible apply State.recordProof_ev
    | (with_reducible apply evolves_mk; with_reducible exact rfl; with_reducible apply evolves_iff)

theorem execMonProof_ev {s0 s1 : State} (proof : List Byte) {s : State} (e : execMonProof proof s = .next s1)
    (hev : Evolves s0 s) : Evolves s0 s1 := by
  unfold execMonProof at e
  refine evolves_next e ?_
  repeat' first
    | with_reducible assumption
    | refine fun (_ : Evolves _ _) => ?_
    | with_reducible apply evolves_whenLive
    | with_reducible apply State.monGrant_ev
    | with_reducible apply State.monLine_ev
    | with_reducible apply State.monProofFails_ev
    | with_reducible apply evolves_ite
    | (with_reducible apply evolves_mk; with_reducible exact rfl; (first | with_reducible assumption | split))
    | intro x

theorem execMonProofLapse_ev {s0 s1 : State} {s : State} (e : execMonProofLapse s = .next s1)
    (hev : Evolves s0 s) : Evolves s0 s1 := by
  unfold execMonProofLapse at e
  refine evolves_next e ?_
  repeat' first
    | with_reducible assumption
    | refine fun (_ : Evolves _ _) => ?_
    | with_reducible apply evolves_iff
    | with_reducible apply evolves_whenLive
    | (with_reducible apply evolves_mk; with_reducible exact rfl; (first | with_reducible assumption | split))
    | intro x

theorem execMonLogout_ev {s0 s1 : State} {s : State} (e : execMonLogout s = .next s1)
    (hev : Evolves s0 s) : Evolves s0 s1 := by
  unfold execMonLogout at e
  refine evolves_next e ?_
  repeat' first
    | with_reducible assumption
    | refine fun (_ : Evolves _ _) => ?_
    | with_reducible apply evolves_whenLive
    | with_reducible apply State.answer_ev
    | with_reducible apply State.dropRole_ev
    | with_reducible apply State.monLine_ev
    | intro x

theorem execMonBaud_ev {s0 s1 : State} (rate : Nat) {s : State} (e : execMonBaud rate s = .next s1)
    (hev : Evolves s0 s) : Evolves s0 s1 := by
  unfold execMonBaud at e
  refine evolves_next e ?_
  repeat' first
    | with_reducible assumption
    | refine fun (_ : Evolves _ _) => ?_
    | with_reducible apply evolves_whenLive
    | with_reducible apply State.answer_ev
    | with_reducible apply State.monLine_ev
    | (with_reducible apply evolves_mk; with_reducible exact rfl; with_reducible assumption)
    | intro x

theorem execMonSel_ev {s0 s1 : State} (stand : Stand) {s : State} (e : execMonSel stand s = .next s1)
    (hev : Evolves s0 s) : Evolves s0 s1 := by
  unfold execMonSel at e
  refine evolves_next e ?_
  repeat' first
    | with_reducible assumption
    | refine fun (_ : Evolves _ _) => ?_
    | with_reducible apply evolves_whenLive
    | with_reducible apply State.answer_ev
    | with_reducible apply State.monLine_ev
    | (with_reducible apply evolves_mk; with_reducible exact rfl; with_reducible assumption)
    | intro x

theorem execMonRd_ev {s0 s1 : State} (addr : Word) (count : Nat) {s : State} (e : execMonRd addr count s = .next s1)
    (hev : Evolves s0 s) : Evolves s0 s1 := by
  unfold execMonRd at e
  refine evolves_next e ?_
  repeat' first
    | with_reducible assumption
    | refine fun (_ : Evolves _ _) => ?_
    | with_reducible apply evolves_whenLive
    | with_reducible apply State.answer_ev
    | with_reducible apply State.monLine_ev
    | intro x

theorem execMonWr_ev {s0 s1 : State} (addr value : Word) {s : State} (e : execMonWr addr value s = .next s1)
    (hev : Evolves s0 s) : Evolves s0 s1 := by
  unfold execMonWr at e
  refine evolves_next e ?_
  repeat' first
    | with_reducible assumption
    | refine fun (_ : Evolves _ _) => ?_
    | with_reducible apply evolves_whenLive
    | with_reducible apply State.answer_ev
    | with_reducible apply State.monLine_ev
    | with_reducible apply State.writeRecorded_ev
    | intro x

theorem execMonQ_ev {s0 s1 : State} (q count : Nat) {s : State} (e : execMonQ q count s = .next s1)
    (hev : Evolves s0 s) : Evolves s0 s1 := by
  unfold execMonQ at e
  refine evolves_next e ?_
  repeat' first
    | with_reducible assumption
    | refine fun (_ : Evolves _ _) => ?_
    | with_reducible apply evolves_whenLive
    | with_reducible apply State.answer_ev
    | with_reducible apply State.monLine_ev
    | intro x

theorem execMonWb_ev {s0 s1 : State} (seq count : Nat) {s : State} (e : execMonWb seq count s = .next s1)
    (hev : Evolves s0 s) : Evolves s0 s1 := by
  unfold execMonWb at e
  refine evolves_next e ?_
  repeat' first
    | with_reducible assumption
    | refine fun (_ : Evolves _ _) => ?_
    | with_reducible apply evolves_whenLive
    | with_reducible apply State.answer_ev
    | with_reducible apply State.monLine_ev
    | intro x

theorem execMonWbclear_ev {s0 s1 : State} (seq : Nat) {s : State} (e : execMonWbclear seq s = .next s1)
    (hev : Evolves s0 s) : Evolves s0 s1 := by
  unfold execMonWbclear at e
  refine evolves_next e ?_
  repeat' first
    | with_reducible assumption
    | refine fun (_ : Evolves _ _) => ?_
    | with_reducible apply evolves_whenLive
    | with_reducible apply State.answer_ev
    | with_reducible apply State.clearWaybill_ev
    | with_reducible apply State.monLine_ev
    | intro x

theorem execMonStatus_ev {s0 s1 : State} {s : State} (e : execMonStatus s = .next s1)
    (hev : Evolves s0 s) : Evolves s0 s1 := by
  unfold execMonStatus at e
  refine evolves_next e ?_
  repeat' first
    | with_reducible assumption
    | refine fun (_ : Evolves _ _) => ?_
    | with_reducible apply evolves_whenLive
    | with_reducible apply State.answer_ev
    | with_reducible apply State.monLine_ev
    | intro x

theorem execMonCop_ev {s0 s1 : State} {s : State} (e : execMonCop s = .next s1)
    (hev : Evolves s0 s) : Evolves s0 s1 := by
  unfold execMonCop at e
  refine evolves_next e ?_
  repeat' first
    | with_reducible assumption
    | refine fun (_ : Evolves _ _) => ?_
    | with_reducible apply evolves_whenLive
    | with_reducible apply State.answer_ev
    | with_reducible apply State.monLine_ev
    | intro x

theorem execMonDrover_ev {s0 s1 : State} {s : State} (e : execMonDrover s = .next s1)
    (hev : Evolves s0 s) : Evolves s0 s1 := by
  unfold execMonDrover at e
  refine evolves_next e ?_
  repeat' first
    | with_reducible assumption
    | refine fun (_ : Evolves _ _) => ?_
    | with_reducible apply evolves_whenLive
    | with_reducible apply State.answer_ev
    | with_reducible apply State.monLine_ev
    | intro x

theorem execMonAtt_ev {s0 s1 : State} (chal : List Byte) {s : State} (e : execMonAtt chal s = .next s1)
    (hev : Evolves s0 s) : Evolves s0 s1 := by
  unfold execMonAtt at e
  refine evolves_next e ?_
  repeat' first
    | with_reducible assumption
    | refine fun (_ : Evolves _ _) => ?_
    | with_reducible apply evolves_whenLive
    | with_reducible apply State.answer_ev
    | with_reducible apply State.attest_ev
    | with_reducible apply State.monLine_ev
    | intro x

theorem execMonTamperMaint_ev {s0 s1 : State} (minutes : Nat) {s : State} (e : execMonTamperMaint minutes s = .next s1)
    (hev : Evolves s0 s) : Evolves s0 s1 := by
  unfold execMonTamperMaint at e
  refine evolves_next e ?_
  repeat' first
    | with_reducible assumption
    | refine fun (_ : Evolves _ _) => ?_
    | with_reducible apply evolves_whenLive
    | with_reducible apply State.answer_ev
    | with_reducible apply State.monLine_ev
    | with_reducible apply State.writeTmpMaint_ev
    | intro x

theorem execMonTamperClear_ev {s0 s1 : State} {s : State} (e : execMonTamperClear s = .next s1)
    (hev : Evolves s0 s) : Evolves s0 s1 := by
  unfold execMonTamperClear at e
  refine evolves_next e ?_
  repeat' first
    | with_reducible assumption
    | refine fun (_ : Evolves _ _) => ?_
    | with_reducible apply evolves_whenLive
    | with_reducible apply State.answer_ev
    | with_reducible apply State.monLine_ev
    | with_reducible apply State.writeTmpClear_ev
    | intro x

theorem State.startTest_ev {s0 : State} {s : State} (phy ch power seconds : Nat) (hev : Evolves s0 s) :
    Evolves s0 (State.startTest s phy ch power seconds) := by
  unfold State.startTest
  repeat' first
    | with_reducible assumption
    | with_reducible apply State.answer_ev
    | with_reducible apply State.emit_ev
    | with_reducible apply State.recordAs_ev
    | (with_reducible apply evolves_mk; with_reducible exact rfl; with_reducible apply State.addDuty_ev)

theorem execMonRftx_ev {s0 s1 : State} (phy channel power seconds : Nat) {s : State} (e : execMonRftx phy channel power seconds s = .next s1)
    (hev : Evolves s0 s) : Evolves s0 s1 := by
  unfold execMonRftx at e
  refine evolves_next e ?_
  repeat' first
    | with_reducible assumption
    | refine fun (_ : Evolves _ _) => ?_
    | with_reducible apply evolves_whenLive
    | with_reducible apply State.answer_ev
    | with_reducible apply State.monLine_ev
    | with_reducible apply State.startTest_ev
    | with_reducible apply evolves_ite
    | intro x

theorem execRftxEnd_ev {s0 s1 : State} {s : State} (e : execRftxEnd s = .next s1)
    (hev : Evolves s0 s) : Evolves s0 s1 := by
  unfold execRftxEnd at e
  refine evolves_next e ?_
  repeat' first
    | with_reducible assumption
    | refine fun (_ : Evolves _ _) => ?_
    | with_reducible apply evolves_iff
    | with_reducible apply evolves_whenLive
    | (with_reducible apply evolves_mk; with_reducible exact rfl; (first | with_reducible assumption | split))
    | intro x

theorem execMonUnknown_ev {s0 s1 : State} (malformed : Bool) {s : State} (e : execMonUnknown malformed s = .next s1)
    (hev : Evolves s0 s) : Evolves s0 s1 := by
  unfold execMonUnknown at e
  refine evolves_next e ?_
  repeat' first
    | with_reducible assumption
    | refine fun (_ : Evolves _ _) => ?_
    | with_reducible apply evolves_whenLive
    | with_reducible apply State.monLine_ev
    | with_reducible apply State.monViolation_ev
    | intro x

theorem execMonMuteEnd_ev {s0 s1 : State} {s : State} (e : execMonMuteEnd s = .next s1)
    (hev : Evolves s0 s) : Evolves s0 s1 := by
  unfold execMonMuteEnd at e
  refine evolves_next e ?_
  repeat' first
    | with_reducible assumption
    | refine fun (_ : Evolves _ _) => ?_
    | with_reducible apply evolves_iff
    | with_reducible apply evolves_whenLive
    | (with_reducible apply evolves_mk; with_reducible exact rfl; (first | with_reducible assumption | split))
    | intro x

theorem execMonIdle_ev {s0 s1 : State} {s : State} (e : execMonIdle s = .next s1)
    (hev : Evolves s0 s) : Evolves s0 s1 := by
  unfold execMonIdle at e
  refine evolves_next e ?_
  repeat' first
    | with_reducible assumption
    | refine fun (_ : Evolves _ _) => ?_
    | with_reducible apply evolves_iff
    | with_reducible apply evolves_whenLive
    | with_reducible apply State.dropRole_ev
    | intro x

end Sys2Proof.Machine
end

