-- ==== Sys2Proof/Laws/EvCycle.lean ====
section
/-! SUPPORT. Every operation of Machine/Cycle.lean lets the state grow (Safety.lean). -/

set_option Elab.async false

namespace Sys2Proof.Machine

@[simp] theorem TimeSt.relockEnd_history (t : TimeSt) : (t.relockEnd).history = t.history := by
  unfold TimeSt.relockEnd
  repeat' split
  all_goals rfl

@[simp] theorem TimeSt.relockEnd_captures (t : TimeSt) : (t.relockEnd).captures = t.captures := by
  unfold TimeSt.relockEnd
  repeat' split
  all_goals rfl

theorem State.shadowCycle_ev {s0 : State} {s : State} (hev : Evolves s0 s) :
    Evolves s0 (State.shadowCycle s) := by
  unfold State.shadowCycle
  repeat' first
    | with_reducible assumption
    | (with_reducible apply evolves_mk; with_reducible exact rfl; with_reducible apply State.advanceTo_ev)

theorem State.shadowSecond_ev {s0 : State} {s : State} (hev : Evolves s0 s) :
    Evolves s0 (State.shadowSecond s) := by
  unfold State.shadowSecond
  repeat' first
    | with_reducible assumption
    | (with_reducible apply evolves_mk; with_reducible exact rfl; with_reducible apply State.advanceTo_ev)

theorem State.rebaseTick_ev {s0 : State} {s : State} (hev : Evolves s0 s) :
    Evolves s0 (State.rebaseTick s) := by
  unfold State.rebaseTick
  repeat' first
    | with_reducible assumption
    | with_reducible apply State.rebaseEvent_ev
    | with_reducible apply evolves_ite
    | (with_reducible apply evolves_mk; with_reducible exact rfl; (first | with_reducible apply State.moveCount_ev | split))

theorem State.countCycle_ev {s0 : State} {s : State} (hev : Evolves s0 s) :
    Evolves s0 (State.countCycle s) := by
  unfold State.countCycle
  repeat' first
    | with_reducible assumption
    | with_reducible apply State.nextCycle_ev
    | with_reducible apply State.noteFreeRun_ev
    | with_reducible apply State.rebaseTick_ev
    | with_reducible apply State.shadowCycle_ev
    | (with_reducible apply evolves_mk; (first | with_reducible exact rfl | (simp +zetaDelta only [TimeSt.relockEnd_history, TimeSt.relockEnd_captures]; exact rfl)); (first | with_reducible apply State.post_ev | with_reducible apply evolves_ite))

theorem State.lateLatch_ev {s0 : State} {s : State} (hev : Evolves s0 s) :
    Evolves s0 (State.lateLatch s) := by
  unfold State.lateLatch
  repeat' first
    | with_reducible assumption
    | with_reducible apply State.boundary_ev
    | with_reducible apply evolves_ite

theorem State.meterCycle_ev {s0 : State} {s : State} (sums : List PhaseSum) (rms : List Nat) (clipped : List (Fin 16)) (hev : Evolves s0 s) :
    Evolves s0 (State.meterCycle s sums rms clipped) := by
  unfold State.meterCycle
  repeat' first
    | with_reducible assumption
    | refine fun (_ : Evolves _ _) => ?_
    | with_reducible apply evolves_iff
    | with_reducible apply State.boundary_ev
    | with_reducible apply State.meterTick_ev
    | with_reducible apply evolves_ite
    | intro x

theorem State.lumStep_ev {s0 : State} {s : State} (l : Nat) (x : LevelStep) (at_ : Cn) (hev : Evolves s0 s) :
    Evolves s0 (State.lumStep s l x at_) := by
  unfold State.lumStep
  repeat' first | with_reducible assumption | with_reducible apply State.modLum_ev

theorem State.takeStep_ev {s0 : State} {s : State} (l : Nat) (x : LevelStep) (again : Bool) (hev : Evolves s0 s) :
    Evolves s0 (State.takeStep s l x again) := by
  unfold State.takeStep
  repeat' first
    | with_reducible assumption
    | refine fun (_ : Evolves _ _) => ?_
    | with_reducible apply evolves_iff
    | with_reducible apply State.lumStep_ev
    | with_reducible apply State.postTile_ev
    | with_reducible apply State.record_ev
    | with_reducible apply State.superseded_ev
    | with_reducible apply evolves_ite
    | intro x

theorem State.takeSteps_ev {s0 : State} (l : Nat) (xs : List LevelStep) :
    ∀ {s : State}, Evolves s0 s → Evolves s0 (s.takeSteps l xs) := by
  induction xs with
  | nil => intro s h; exact h
  | cons x r ih => intro s h; exact ih (State.takeStep_ev _ _ _ h)

theorem State.profileTick_ev {s0 : State} {s : State} (hev : Evolves s0 s) :
    Evolves s0 (State.profileTick s) := by
  unfold State.profileTick
  repeat' first
    | with_reducible assumption
    | refine fun (_ : Evolves _ _) => ?_
    | with_reducible apply State.takeSteps_ev
    | with_reducible apply evolves_ite
    | (with_reducible apply evolves_mk; with_reducible exact rfl; (first | with_reducible assumption | with_reducible apply evolves_forEach))
    | intro x

theorem State.firstLevels_ev {s0 : State} {s : State} (l : Nat) (hev : Evolves s0 s) :
    Evolves s0 (State.firstLevels s l) := by
  unfold State.firstLevels
  repeat' first
    | with_reducible assumption
    | refine fun (_ : Evolves _ _) => ?_
    | with_reducible apply evolves_forEach
    | with_reducible apply State.lumStep_ev
    | with_reducible apply State.modLum_ev
    | intro x

theorem State.endStartSafe_ev {s0 : State} {s : State} (hev : Evolves s0 s) :
    Evolves s0 (State.endStartSafe s) := by
  unfold State.endStartSafe
  repeat' first
    | with_reducible assumption
    | refine fun (_ : Evolves _ _) => ?_
    | with_reducible apply State.firstLevels_ev
    | with_reducible apply evolves_ite
    | (with_reducible apply evolves_mk; with_reducible exact rfl; with_reducible apply evolves_forEach)
    | intro x

theorem State.contactorTick_ev {s0 : State} {s : State} (hev : Evolves s0 s) :
    Evolves s0 (State.contactorTick s) := by
  unfold State.contactorTick
  repeat' first
    | with_reducible assumption
    | refine fun (_ : Evolves _ _) => ?_
    | with_reducible apply evolves_iff
    | with_reducible apply evolves_forEach
    | with_reducible apply State.fixPlans_ev
    | with_reducible apply State.kcCompare_ev
    | with_reducible apply State.kcDue_ev
    | with_reducible apply State.kcSafe_ev
    | intro x

theorem State.fordCopies_ev {s0 : State} {s : State} (hev : Evolves s0 s) :
    Evolves s0 (State.fordCopies s) := by
  unfold State.fordCopies
  repeat' first
    | with_reducible assumption
    | with_reducible apply evolves_iff
    | with_reducible apply State.fillSafe_ev
    | (with_reducible apply evolves_mk; with_reducible exact rfl; with_reducible apply State.takeShadow_ev)

theorem State.dayFlood_ev {s0 : State} {s : State} (hev : Evolves s0 s) :
    Evolves s0 (State.dayFlood s) := by
  unfold State.dayFlood
  repeat' first
    | with_reducible assumption
    | refine fun (_ : Evolves _ _) => ?_
    | with_reducible apply State.floodItem_ev
    | with_reducible apply evolves_ite
    | (with_reducible apply evolves_mk; with_reducible exact rfl; (first | with_reducible apply evolves_forEach | split))
    | intro x

theorem State.testTick_ev {s0 : State} {s : State} (hev : Evolves s0 s) :
    Evolves s0 (State.testTick s) := by
  unfold State.testTick
  repeat' first | with_reducible assumption | with_reducible apply evolves_iff | with_reducible apply State.endTest_ev

theorem State.serviceTick_ev {s0 : State} {s : State} (hev : Evolves s0 s) :
    Evolves s0 (State.serviceTick s) := by
  unfold State.serviceTick
  repeat' first
    | with_reducible assumption
    | refine fun (_ : Evolves _ _) => ?_
    | with_reducible apply evolves_iff
    | with_reducible apply evolves_whenLive
    | with_reducible apply evolves_forEach
    | with_reducible apply State.caravanTick_ev
    | with_reducible apply State.checkRejoin_ev
    | with_reducible apply State.clearingTick_ev
    | with_reducible apply State.clearingsLeave_ev
    | with_reducible apply State.dayFlood_ev
    | with_reducible apply State.endedTick_ev
    | with_reducible apply State.groveKeysReady_ev
    | with_reducible apply State.markAll_ev
    | with_reducible apply State.noteUngranted_ev
    | with_reducible apply State.plainActivation_ev
    | with_reducible apply State.rebootTick_ev
    | with_reducible apply State.recoverPromises_ev
    | with_reducible apply State.regulatoryTick_ev
    | with_reducible apply State.reloadRoutes_ev
    | with_reducible apply State.rerouteAll_ev
    | with_reducible apply State.sliceTick_ev
    | with_reducible apply State.stageTick_ev
    | with_reducible apply State.switchGroveKeys_ev
    | with_reducible apply State.switchTick_ev
    | with_reducible apply State.testTick_ev
    | with_reducible apply evolves_ite
    | (with_reducible apply evolves_mk; (first | with_reducible exact rfl | (dsimp only; exact rfl)); (first | with_reducible assumption | with_reducible apply evolves_iff | with_reducible apply evolves_whenLive | with_reducible apply evolves_forEach | with_reducible apply State.caravanTick_ev | with_reducible apply State.checkRejoin_ev | with_reducible apply State.clearingTick_ev | with_reducible apply State.clearingsLeave_ev | with_reducible apply State.dayFlood_ev | with_reducible apply State.endedTick_ev | with_reducible apply State.groveKeysReady_ev | with_reducible apply State.markAll_ev | with_reducible apply State.noteUngranted_ev | with_reducible apply State.plainActivation_ev | with_reducible apply State.rebootTick_ev | with_reducible apply State.recoverPromises_ev | with_reducible apply State.regulatoryTick_ev | with_reducible apply State.reloadRoutes_ev | with_reducible apply State.rerouteAll_ev | with_reducible apply State.sliceTick_ev | with_reducible apply State.stageTick_ev | with_reducible apply State.switchGroveKeys_ev | with_reducible apply State.switchTick_ev | with_reducible apply State.testTick_ev | with_reducible apply evolves_ite | split))
    | (intro x; refine evolves_cut (s0 := s0) (x := x) ?_ ?_; rotate_left; clear_value x; intro hx; rotate_left; subst x)
    | intro x
    | split
    | lift_lets
    | dsimp only

theorem State.cycle_ev {s0 : State} {s : State} (sums : List PhaseSum) (rms : List Nat) (clipped : List (Fin 16)) (busy : List Nat) (hev : Evolves s0 s) :
    Evolves s0 (State.cycle s sums rms clipped busy) := by
  unfold State.cycle
  repeat' first
    | with_reducible assumption
    | refine fun (_ : Evolves _ _) => ?_
    | with_reducible apply evolves_iff
    | with_reducible apply evolves_whenLive
    | with_reducible apply evolves_forEach
    | with_reducible apply State.autoDormTick_ev
    | with_reducible apply State.configTick_ev
    | with_reducible apply State.contactorTick_ev
    | with_reducible apply State.countCycle_ev
    | with_reducible apply State.dormTick_ev
    | with_reducible apply State.drvTick_ev
    | with_reducible apply State.endStartSafe_ev
    | with_reducible apply State.fordCopies_ev
    | with_reducible apply State.holdReboot_ev
    | with_reducible apply State.lateLatch_ev
    | with_reducible apply State.meterCycle_ev
    | with_reducible apply State.noteFirstBeacon_ev
    | with_reducible apply State.profileTick_ev
    | with_reducible apply State.promiseTick_ev
    | with_reducible apply State.serviceTick_ev
    | with_reducible apply State.slotStart_ev
    | with_reducible apply evolves_ite
    | (with_reducible apply evolves_mk; (first | with_reducible exact rfl | (dsimp only; exact rfl)); (first | with_reducible assumption | with_reducible apply evolves_iff | with_reducible apply evolves_whenLive | with_reducible apply evolves_forEach | with_reducible apply State.autoDormTick_ev | with_reducible apply State.configTick_ev | with_reducible apply State.contactorTick_ev | with_reducible apply State.countCycle_ev | with_reducible apply State.dormTick_ev | with_reducible apply State.drvTick_ev | with_reducible apply State.endStartSafe_ev | with_reducible apply State.fordCopies_ev | with_reducible apply State.holdReboot_ev | with_reducible apply State.lateLatch_ev | with_reducible apply State.meterCycle_ev | with_reducible apply State.noteFirstBeacon_ev | with_reducible apply State.profileTick_ev | with_reducible apply State.promiseTick_ev | with_reducible apply State.serviceTick_ev | with_reducible apply State.slotStart_ev | with_reducible apply evolves_ite | split))
    | (intro x; refine evolves_cut (s0 := s0) (x := x) ?_ ?_; rotate_left; clear_value x; intro hx; rotate_left; subst x)
    | intro x
    | split
    | lift_lets
    | dsimp only

theorem execCycleTick_ev {s0 s1 : State} (sums : List PhaseSum) (rms : List Nat) (clipped : List (Fin 16)) (busy : List Nat) (power mj : Fin 65536) (pct : Fin 256) {s : State} (e : execCycleTick sums rms clipped busy power mj pct s = .next s1)
    (hev : Evolves s0 s) : Evolves s0 s1 := by
  unfold execCycleTick at e
  refine evolves_next e ?_
  repeat' first
    | with_reducible assumption
    | refine fun (_ : Evolves _ _) => ?_
    | with_reducible apply evolves_iff
    | with_reducible apply evolves_whenLive
    | with_reducible apply State.cycle_ev
    | (with_reducible apply evolves_mk; with_reducible exact rfl; with_reducible apply State.setStore_ev)
    | intro x

theorem execSlotMidpoint_ev {s0 s1 : State} (busy : List Nat) (planned : Bool) {s : State} (e : execSlotMidpoint busy planned s = .next s1)
    (hev : Evolves s0 s) : Evolves s0 s1 := by
  unfold execSlotMidpoint at e
  refine evolves_next e ?_
  repeat' first
    | with_reducible assumption
    | refine fun (_ : Evolves _ _) => ?_
    | with_reducible apply evolves_iff
    | with_reducible apply evolves_whenLive
    | with_reducible apply State.beginSecond_ev
    | with_reducible apply State.noteFirstBeacon_ev
    | with_reducible apply State.shadowSecond_ev
    | with_reducible apply State.slotStart_ev
    | (with_reducible apply evolves_mk; with_reducible exact rfl; with_reducible apply evolves_ite)
    | intro x

end Sys2Proof.Machine
end

