-- ==== Sys2Proof/Laws/Frame.lean ====
section
/-! SUPPORT. What an effect leaves alone: the rules by which the frame of a compound effect follows from the frames of its
parts. -/

namespace Sys2Proof.Machine

/-- Every part chosen by the first is chosen by the second. -/
def Blocks.le (a b : Blocks) : Bool :=
  (!a.cn || b.cn)
    && (!a.time || b.time)
    && (!a.mtr || b.mtr)
    && (!a.rad || b.rad)
    && (!a.node || b.node)
    && (!a.adm || b.adm)
    && (!a.fsp || b.fsp)
    && (!a.dim || b.dim)
    && (!a.drv || b.drv)
    && (!a.can || b.can)
    && (!a.que || b.que)
    && (!a.evt || b.evt)
    && (!a.ford || b.ford)
    && (!a.cop || b.cop)
    && (!a.key || b.key)
    && (!a.upd || b.upd)
    && (!a.way || b.way)
    && (!a.mon || b.mon)
    && (!a.fld || b.fld)
    && (!a.sys || b.sys)
    && (!a.regs || b.regs)
    && (!a.out || b.out)
    && (!a.freeIdx || b.freeIdx)

/-- One choice of a part after another. -/
theorem Blocks.step {a b c : Bool} (h : (!a || b) = true) (g : (!b || c) = true) : (!a || c) = true := by
  cases a <;> cases b <;> cases c <;> simp_all

theorem Blocks.blank {α : Type} {a b : Bool} {d x : α} (h : (!a || b) = true) :
    (bif b then d else bif a then d else x) = bif b then d else x := by
  cases a <;> cases b <;> simp_all

theorem Blocks.le_trans {a b c : Blocks} (h : a.le b = true) (g : b.le c = true) : a.le c = true := by
  simp only [Blocks.le, Bool.and_eq_true] at h g ⊢
  exact ⟨⟨⟨⟨⟨⟨⟨⟨⟨⟨⟨⟨⟨⟨⟨⟨⟨⟨⟨⟨⟨⟨step (h.1.1.1.1.1.1.1.1.1.1.1.1.1.1.1.1.1.1.1.1.1.1) (g.1.1.1.1.1.1.1.1.1.1.1.1.1.1.1.1.1.1.1.1.1.1), step (h.1.1.1.1.1.1.1.1.1.1.1.1.1.1.1.1.1.1.1.1.1.2) (g.1.1.1.1.1.1.1.1.1.1.1.1.1.1.1.1.1.1.1.1.1.2)⟩, step (h.1.1.1.1.1.1.1.1.1.1.1.1.1.1.1.1.1.1.1.1.2) (g.1.1.1.1.1.1.1.1.1.1.1.1.1.1.1.1.1.1.1.1.2)⟩, step (h.1.1.1.1.1.1.1.1.1.1.1.1.1.1.1.1.1.1.1.2) (g.1.1.1.1.1.1.1.1.1.1.1.1.1.1.1.1.1.1.1.2)⟩, step (h.1.1.1.1.1.1.1.1.1.1.1.1.1.1.1.1.1.1.2) (g.1.1.1.1.1.1.1.1.1.1.1.1.1.1.1.1.1.1.2)⟩, step (h.1.1.1.1.1.1.1.1.1.1.1.1.1.1.1.1.1.2) (g.1.1.1.1.1.1.1.1.1.1.1.1.1.1.1.1.1.2)⟩, step (h.1.1.1.1.1.1.1.1.1.1.1.1.1.1.1.1.2) (g.1.1.1.1.1.1.1.1.1.1.1.1.1.1.1.1.2)⟩, step (h.1.1.1.1.1.1.1.1.1.1.1.1.1.1.1.2) (g.1.1.1.1.1.1.1.1.1.1.1.1.1.1.1.2)⟩, step (h.1.1.1.1.1.1.1.1.1.1.1.1.1.1.2) (g.1.1.1.1.1.1.1.1.1.1.1.1.1.1.2)⟩, step (h.1.1.1.1.1.1.1.1.1.1.1.1.1.2) (g.1.1.1.1.1.1.1.1.1.1.1.1.1.2)⟩, step (h.1.1.1.1.1.1.1.1.1.1.1.1.2) (g.1.1.1.1.1.1.1.1.1.1.1.1.2)⟩, step (h.1.1.1.1.1.1.1.1.1.1.1.2) (g.1.1.1.1.1.1.1.1.1.1.1.2)⟩, step (h.1.1.1.1.1.1.1.1.1.1.2) (g.1.1.1.1.1.1.1.1.1.1.2)⟩, step (h.1.1.1.1.1.1.1.1.1.2) (g.1.1.1.1.1.1.1.1.1.2)⟩, step (h.1.1.1.1.1.1.1.1.2) (g.1.1.1.1.1.1.1.1.2)⟩, step (h.1.1.1.1.1.1.1.2) (g.1.1.1.1.1.1.1.2)⟩, step (h.1.1.1.1.1.1.2) (g.1.1.1.1.1.1.2)⟩, step (h.1.1.1.1.1.2) (g.1.1.1.1.1.2)⟩, step (h.1.1.1.1.2) (g.1.1.1.1.2)⟩, step (h.1.1.1.2) (g.1.1.1.2)⟩, step (h.1.1.2) (g.1.1.2)⟩, step (h.1.2) (g.1.2)⟩, step (h.2) (g.2)⟩

/-- Blanking out more forgets what was blanked out before. -/
theorem State.forget_forget {a b : Blocks} (h : a.le b = true) (s : State) : (s.forget a).forget b = s.forget b := by
  simp only [Blocks.le, Bool.and_eq_true] at h
  simp only [State.forget]
  rw [Blocks.blank (d := 0) (x := s.cn) h.1.1.1.1.1.1.1.1.1.1.1.1.1.1.1.1.1.1.1.1.1.1]
  rw [Blocks.blank (d := {}) (x := s.time) h.1.1.1.1.1.1.1.1.1.1.1.1.1.1.1.1.1.1.1.1.1.2]
  rw [Blocks.blank (d := {}) (x := s.mtr) h.1.1.1.1.1.1.1.1.1.1.1.1.1.1.1.1.1.1.1.1.2]
  rw [Blocks.blank (d := {}) (x := s.rad) h.1.1.1.1.1.1.1.1.1.1.1.1.1.1.1.1.1.1.1.2]
  rw [Blocks.blank (d := {}) (x := s.node) h.1.1.1.1.1.1.1.1.1.1.1.1.1.1.1.1.1.1.2]
  rw [Blocks.blank (d := {}) (x := s.adm) h.1.1.1.1.1.1.1.1.1.1.1.1.1.1.1.1.1.2]
  rw [Blocks.blank (d := {}) (x := s.fsp) h.1.1.1.1.1.1.1.1.1.1.1.1.1.1.1.1.2]
  rw [Blocks.blank (d := {}) (x := s.dim) h.1.1.1.1.1.1.1.1.1.1.1.1.1.1.1.2]
  rw [Blocks.blank (d := {}) (x := s.drv) h.1.1.1.1.1.1.1.1.1.1.1.1.1.1.2]
  rw [Blocks.blank (d := {}) (x := s.can) h.1.1.1.1.1.1.1.1.1.1.1.1.1.2]
  rw [Blocks.blank (d := {}) (x := s.que) h.1.1.1.1.1.1.1.1.1.1.1.1.2]
  rw [Blocks.blank (d := {}) (x := s.evt) h.1.1.1.1.1.1.1.1.1.1.1.2]
  rw [Blocks.blank (d := {}) (x := s.ford) h.1.1.1.1.1.1.1.1.1.1.2]
  rw [Blocks.blank (d := {}) (x := s.cop) h.1.1.1.1.1.1.1.1.1.2]
  rw [Blocks.blank (d := {}) (x := s.key) h.1.1.1.1.1.1.1.1.2]
  rw [Blocks.blank (d := {}) (x := s.upd) h.1.1.1.1.1.1.1.2]
  rw [Blocks.blank (d := {}) (x := s.way) h.1.1.1.1.1.1.2]
  rw [Blocks.blank (d := {}) (x := s.mon) h.1.1.1.1.1.2]
  rw [Blocks.blank (d := {}) (x := s.fld) h.1.1.1.1.2]
  rw [Blocks.blank (d := {}) (x := s.sys) h.1.1.1.2]
  rw [Blocks.blank (d := []) (x := s.regs) h.1.1.2]
  rw [Blocks.blank (d := []) (x := s.out) h.1.2]
  rw [Blocks.blank (d := 0) (x := s.freeIdx) h.2]

theorem Keeps.refl (b : Blocks) (s : State) : Keeps b s s :=
  rfl

theorem Keeps.trans {b : Blocks} {s t u : State} (h : Keeps b s t) (g : Keeps b t u) : Keeps b s u :=
  Eq.trans g h

theorem Keeps.mono {a b : Blocks} {s t : State} (h : Keeps a s t) (m : a.le b = true) : Keeps b s t := by
  unfold Keeps at *
  rw [← State.forget_forget m t, h, State.forget_forget m s]

theorem Keeps.cn {b : Blocks} {s t : State} (h : Keeps b s t) (m : b.cn = false) : t.cn = s.cn := by
  have g := congrArg State.cn (show t.forget b = s.forget b from h)
  simpa only [State.forget, m, cond_false] using g

theorem Keeps.time {b : Blocks} {s t : State} (h : Keeps b s t) (m : b.time = false) : t.time = s.time := by
  have g := congrArg State.time (show t.forget b = s.forget b from h)
  simpa only [State.forget, m, cond_false] using g

theorem Keeps.mtr {b : Blocks} {s t : State} (h : Keeps b s t) (m : b.mtr = false) : t.mtr = s.mtr := by
  have g := congrArg State.mtr (show t.forget b = s.forget b from h)
  simpa only [State.forget, m, cond_false] using g

theorem Keeps.rad {b : Blocks} {s t : State} (h : Keeps b s t) (m : b.rad = false) : t.rad = s.rad := by
  have g := congrArg State.rad (show t.forget b = s.forget b from h)
  simpa only [State.forget, m, cond_false] using g

theorem Keeps.node {b : Blocks} {s t : State} (h : Keeps b s t) (m : b.node = false) : t.node = s.node := by
  have g := congrArg State.node (show t.forget b = s.forget b from h)
  simpa only [State.forget, m, cond_false] using g

theorem Keeps.adm {b : Blocks} {s t : State} (h : Keeps b s t) (m : b.adm = false) : t.adm = s.adm := by
  have g := congrArg State.adm (show t.forget b = s.forget b from h)
  simpa only [State.forget, m, cond_false] using g

theorem Keeps.fsp {b : Blocks} {s t : State} (h : Keeps b s t) (m : b.fsp = false) : t.fsp = s.fsp := by
  have g := congrArg State.fsp (show t.forget b = s.forget b from h)
  simpa only [State.forget, m, cond_false] using g

theorem Keeps.dim {b : Blocks} {s t : State} (h : Keeps b s t) (m : b.dim = false) : t.dim = s.dim := by
  have g := congrArg State.dim (show t.forget b = s.forget b from h)
  simpa only [State.forget, m, cond_false] using g

theorem Keeps.drv {b : Blocks} {s t : State} (h : Keeps b s t) (m : b.drv = false) : t.drv = s.drv := by
  have g := congrArg State.drv (show t.forget b = s.forget b from h)
  simpa only [State.forget, m, cond_false] using g

theorem Keeps.can {b : Blocks} {s t : State} (h : Keeps b s t) (m : b.can = false) : t.can = s.can := by
  have g := congrArg State.can (show t.forget b = s.forget b from h)
  simpa only [State.forget, m, cond_false] using g

theorem Keeps.que {b : Blocks} {s t : State} (h : Keeps b s t) (m : b.que = false) : t.que = s.que := by
  have g := congrArg State.que (show t.forget b = s.forget b from h)
  simpa only [State.forget, m, cond_false] using g

theorem Keeps.evt {b : Blocks} {s t : State} (h : Keeps b s t) (m : b.evt = false) : t.evt = s.evt := by
  have g := congrArg State.evt (show t.forget b = s.forget b from h)
  simpa only [State.forget, m, cond_false] using g

theorem Keeps.ford {b : Blocks} {s t : State} (h : Keeps b s t) (m : b.ford = false) : t.ford = s.ford := by
  have g := congrArg State.ford (show t.forget b = s.forget b from h)
  simpa only [State.forget, m, cond_false] using g

theorem Keeps.cop {b : Blocks} {s t : State} (h : Keeps b s t) (m : b.cop = false) : t.cop = s.cop := by
  have g := congrArg State.cop (show t.forget b = s.forget b from h)
  simpa only [State.forget, m, cond_false] using g

theorem Keeps.key {b : Blocks} {s t : State} (h : Keeps b s t) (m : b.key = false) : t.key = s.key := by
  have g := congrArg State.key (show t.forget b = s.forget b from h)
  simpa only [State.forget, m, cond_false] using g

theorem Keeps.upd {b : Blocks} {s t : State} (h : Keeps b s t) (m : b.upd = false) : t.upd = s.upd := by
  have g := congrArg State.upd (show t.forget b = s.forget b from h)
  simpa only [State.forget, m, cond_false] using g

theorem Keeps.way {b : Blocks} {s t : State} (h : Keeps b s t) (m : b.way = false) : t.way = s.way := by
  have g := congrArg State.way (show t.forget b = s.forget b from h)
  simpa only [State.forget, m, cond_false] using g

theorem Keeps.mon {b : Blocks} {s t : State} (h : Keeps b s t) (m : b.mon = false) : t.mon = s.mon := by
  have g := congrArg State.mon (show t.forget b = s.forget b from h)
  simpa only [State.forget, m, cond_false] using g

theorem Keeps.fld {b : Blocks} {s t : State} (h : Keeps b s t) (m : b.fld = false) : t.fld = s.fld := by
  have g := congrArg State.fld (show t.forget b = s.forget b from h)
  simpa only [State.forget, m, cond_false] using g

theorem Keeps.sys {b : Blocks} {s t : State} (h : Keeps b s t) (m : b.sys = false) : t.sys = s.sys := by
  have g := congrArg State.sys (show t.forget b = s.forget b from h)
  simpa only [State.forget, m, cond_false] using g

theorem Keeps.regs {b : Blocks} {s t : State} (h : Keeps b s t) (m : b.regs = false) : t.regs = s.regs := by
  have g := congrArg State.regs (show t.forget b = s.forget b from h)
  simpa only [State.forget, m, cond_false] using g

theorem Keeps.out {b : Blocks} {s t : State} (h : Keeps b s t) (m : b.out = false) : t.out = s.out := by
  have g := congrArg State.out (show t.forget b = s.forget b from h)
  simpa only [State.forget, m, cond_false] using g

theorem Keeps.freeIdx {b : Blocks} {s t : State} (h : Keeps b s t) (m : b.freeIdx = false) : t.freeIdx = s.freeIdx := by
  have g := congrArg State.freeIdx (show t.forget b = s.forget b from h)
  simpa only [State.forget, m, cond_false] using g

theorem Keeps.build {b : Blocks} {s t : State} (h : Keeps b s t) : t.build = s.build := by
  have g : (t.forget b).build = (s.forget b).build := by rw [show t.forget b = s.forget b from h]
  exact g

theorem Keeps.pending {b : Blocks} {s t : State} (h : Keeps b s t) : t.pending = s.pending := by
  have g : (t.forget b).pending = (s.forget b).pending := by rw [show t.forget b = s.forget b from h]
  exact g

/-- A state built from parts keeps what the parts outside the choice keep. -/
theorem keeps_mk {a l : Blocks} {s0 s : State} {build cn time mtr rad node adm fsp dim drv can que evt ford cop key upd way mon fld sys regs out pending freeIdx} (m : a.le l = true)
    (e : (build, pending, bif a.cn then 0 else cn, bif a.time then {} else time, bif a.mtr then {} else mtr, bif a.rad then {} else rad, bif a.node then {} else node, bif a.adm then {} else adm, bif a.fsp then {} else fsp, bif a.dim then {} else dim, bif a.drv then {} else drv, bif a.can then {} else can, bif a.que then {} else que, bif a.evt then {} else evt, bif a.ford then {} else ford, bif a.cop then {} else cop, bif a.key then {} else key, bif a.upd then {} else upd, bif a.way then {} else way, bif a.mon then {} else mon, bif a.fld then {} else fld, bif a.sys then {} else sys, bif a.regs then [] else regs, bif a.out then [] else out, bif a.freeIdx then 0 else freeIdx)
      = (s.build, s.pending, bif a.cn then 0 else s.cn, bif a.time then {} else s.time, bif a.mtr then {} else s.mtr, bif a.rad then {} else s.rad, bif a.node then {} else s.node, bif a.adm then {} else s.adm, bif a.fsp then {} else s.fsp, bif a.dim then {} else s.dim, bif a.drv then {} else s.drv, bif a.can then {} else s.can, bif a.que then {} else s.que, bif a.evt then {} else s.evt, bif a.ford then {} else s.ford, bif a.cop then {} else s.cop, bif a.key then {} else s.key, bif a.upd then {} else s.upd, bif a.way then {} else s.way, bif a.mon then {} else s.mon, bif a.fld then {} else s.fld, bif a.sys then {} else s.sys, bif a.regs then [] else s.regs, bif a.out then [] else s.out, bif a.freeIdx then 0 else s.freeIdx))
    (h : Keeps l s0 s) : Keeps l s0 (State.mk build cn time mtr rad node adm fsp dim drv can que evt ford cop key upd way mon fld sys regs out pending freeIdx) := by
  refine h.trans (Keeps.mono (a := a) ?_ m)
  simp only [Prod.mk.injEq] at e
  simp only [Keeps, State.forget, State.mk.injEq]
  simp only [e, and_self]

theorem keeps_cut {l : Blocks} {s0 x : State} {P : Prop} (a : Keeps l s0 x) (b : Keeps l s0 x → P) : P :=
  b a

theorem keeps_cut_snd {α : Type} {l : Blocks} {s0 : State} {x : α × State} {P : Prop} (a : Keeps l s0 x.2)
    (b : Keeps l s0 x.2 → P) : P :=
  b a

theorem keeps_cut_fst {α : Type} {l : Blocks} {s0 : State} {x : State × α} {P : Prop} (a : Keeps l s0 x.1)
    (b : Keeps l s0 x.1 → P) : P :=
  b a

theorem keeps_ite {l : Blocks} {s0 a b : State} (c : Prop) [Decidable c] (ha : Keeps l s0 a) (hb : Keeps l s0 b) :
    Keeps l s0 (if c then a else b) := by
  split
  · exact ha
  · exact hb

theorem keeps_ite_fst {α : Type} {l : Blocks} {s0 : State} {a b : State × α} (c : Prop) [Decidable c] (ha : Keeps l s0 a.1)
    (hb : Keeps l s0 b.1) : Keeps l s0 (if c then a else b).1 := by
  split
  · exact ha
  · exact hb

theorem keeps_ite_snd {α : Type} {l : Blocks} {s0 : State} {a b : α × State} (c : Prop) [Decidable c] (ha : Keeps l s0 a.2)
    (hb : Keeps l s0 b.2) : Keeps l s0 (if c then a else b).2 := by
  split
  · exact ha
  · exact hb

theorem keeps_iff {l : Blocks} {s0 s : State} (c : Bool) (f : State → State) (h : Keeps l s0 s)
    (hf : ∀ x, Keeps l s0 x → Keeps l s0 (f x)) : Keeps l s0 (s.iff c f) := by
  unfold State.iff
  exact keeps_ite _ (hf _ h) h

theorem keeps_whenLive {l : Blocks} {s0 s : State} (f : State → State) (h : Keeps l s0 s)
    (hf : ∀ x, Keeps l s0 x → Keeps l s0 (f x)) : Keeps l s0 (s.whenLive f) := by
  unfold State.whenLive
  exact keeps_ite _ (hf _ h) h

theorem keeps_forEach {α : Type} {l : Blocks} {s0 : State} (f : α → State → State) (xs : List α)
    (hf : ∀ a x, Keeps l s0 x → Keeps l s0 (f a x)) : ∀ {s : State}, Keeps l s0 s → Keeps l s0 (forEach f xs s) := by
  induction xs with
  | nil => intro s h; exact h
  | cons a xs ih => intro s h; exact ih (hf a s h)

theorem keeps_forEach_snd {α β : Type} {l : Blocks} {s0 : State} (f : α → β × State → β × State) (xs : List α)
    (hf : ∀ x a, Keeps l s0 a.2 → Keeps l s0 (f x a).2) : ∀ {a : β × State}, Keeps l s0 a.2 → Keeps l s0 (forEach f xs a).2 := by
  induction xs with
  | nil => intro a h; exact h
  | cons x xs ih => intro a h; exact ih (hf x a h)

theorem keeps_foldl {α β : Type} {l : Blocks} {s0 : State} (f : β × State → α → β × State) (xs : List α)
    (hf : ∀ a x, Keeps l s0 a.2 → Keeps l s0 (f a x).2) : ∀ {a : β × State}, Keeps l s0 a.2 → Keeps l s0 (xs.foldl f a).2 := by
  induction xs with
  | nil => intro a h; exact h
  | cons x xs ih => intro a h; exact ih (hf a x h)

/-- The next state of a meaning that answers `next`. -/
theorem keeps_next {l : Blocks} {s0 a t : State} (e : (Host.Outcome.next a : Host.Outcome State Fault Refusal) = .next t)
    (h : Keeps l s0 a) : Keeps l s0 t := by
  cases e
  exact h

end Sys2Proof.Machine
end

