-- ==== Sys2Proof/Laws/FrOps.lean ====
section
/-! SUPPORT. Every operation of Machine/Ops.lean keeps what it does not name (Safety.lean). -/

set_option Elab.async false

namespace Sys2Proof.Machine

theorem State.drawNat_fr {bl : Blocks} {s0 : State} {s : State}
    (hm : Blocks.le { freeIdx := true } bl = true) (hev : Keeps bl s0 s) :
    Keeps bl s0 (State.drawNat s).2 := by
  unfold State.drawNat
  repeat' first
    | (with_reducible apply keeps_mk (a := { freeIdx := true }) hm; dsimp only [cond_true, cond_false] <;> exact rfl; with_reducible assumption)

theorem State.drawNat_keq {bl : Blocks} {s0 sx : State} {s : State} {qx : Nat} (e : (State.drawNat s) = (qx, sx))
    (hm : Blocks.le { freeIdx := true } bl = true) (hev : Keeps bl s0 s) : Keeps bl s0 sx := by
  have g := State.drawNat_fr  hm hev
  rw [e] at g
  exact g

theorem State.drawInt_fr {bl : Blocks} {s0 : State} {s : State}
    (hm : Blocks.le { freeIdx := true } bl = true) (hev : Keeps bl s0 s) :
    Keeps bl s0 (State.drawInt s).2 := by
  unfold State.drawInt
  repeat' first
    | (with_reducible apply keeps_mk (a := { freeIdx := true }) hm; dsimp only [cond_true, cond_false] <;> exact rfl; with_reducible assumption)

theorem State.drawInt_keq {bl : Blocks} {s0 sx : State} {s : State} {qx : Int} (e : (State.drawInt s) = (qx, sx))
    (hm : Blocks.le { freeIdx := true } bl = true) (hev : Keeps bl s0 s) : Keeps bl s0 sx := by
  have g := State.drawInt_fr  hm hev
  rw [e] at g
  exact g

theorem State.drawRandom_fr {bl : Blocks} {s0 : State} {s : State}
    (hm : Blocks.le { freeIdx := true } bl = true) (hev : Keeps bl s0 s) :
    Keeps bl s0 (State.drawRandom s).2 := by
  unfold State.drawRandom
  repeat' first
    | (with_reducible apply keeps_mk (a := { freeIdx := true }) hm; dsimp only [cond_true, cond_false] <;> exact rfl; with_reducible assumption)

theorem State.drawRandom_keq {bl : Blocks} {s0 sx : State} {s : State} {qx : BitVec 256} (e : (State.drawRandom s) = (qx, sx))
    (hm : Blocks.le { freeIdx := true } bl = true) (hev : Keeps bl s0 s) : Keeps bl s0 sx := by
  have g := State.drawRandom_fr  hm hev
  rw [e] at g
  exact g

theorem State.advance_fr {bl : Blocks} {s0 : State} {s : State} (ticks : Nat)
    (hm : Blocks.le { time := true } bl = true) (hev : Keeps bl s0 s) :
    Keeps bl s0 (State.advance s ticks) := by
  unfold State.advance
  repeat' first
    | (with_reducible apply keeps_mk (a := { time := true }) hm; dsimp only [cond_true, cond_false] <;> exact rfl; with_reducible assumption)

theorem State.advanceTo_fr {bl : Blocks} {s0 : State} {s : State} (tick : Nat)
    (hm : Blocks.le { time := true } bl = true) (hev : Keeps bl s0 s) :
    Keeps bl s0 (State.advanceTo s tick) := by
  unfold State.advanceTo
  repeat' first | with_reducible assumption | with_reducible apply State.advance_fr

theorem State.emit_fr {bl : Blocks} {s0 : State} {s : State} (o : Output)
    (hm : Blocks.le { out := true } bl = true) (hev : Keeps bl s0 s) :
    Keeps bl s0 (State.emit s o) := by
  unfold State.emit
  repeat' first
    | (with_reducible apply keeps_mk (a := { out := true }) hm; dsimp only [cond_true, cond_false] <;> exact rfl; with_reducible assumption)

theorem State.emits_fr {bl : Blocks} {s0 : State} {s : State} (os : List Output)
    (hm : Blocks.le { out := true } bl = true) (hev : Keeps bl s0 s) :
    Keeps bl s0 (State.emits s os) := by
  unfold State.emits
  repeat' first
    | (with_reducible apply keeps_mk (a := { out := true }) hm; dsimp only [cond_true, cond_false] <;> exact rfl; with_reducible assumption)

theorem State.endTest_fr {bl : Blocks} {s0 : State} {s : State}
    (hm : Blocks.le { mon := true } bl = true) (hev : Keeps bl s0 s) :
    Keeps bl s0 (State.endTest s) := by
  unfold State.endTest
  repeat' first
    | (with_reducible apply keeps_mk (a := { mon := true }) hm; dsimp only [cond_true, cond_false] <;> exact rfl; with_reducible assumption)

theorem State.post_fr {bl : Blocks} {s0 : State} {s : State} (src kind payload : Nat)
    (hm : Blocks.le { evt := true } bl = true) (hev : Keeps bl s0 s) :
    Keeps bl s0 (State.post s src kind payload) := by
  unfold State.post
  repeat' first
    | (with_reducible apply keeps_mk (a := { evt := true }) hm; dsimp only [cond_true, cond_false] <;> exact rfl; with_reducible assumption)

theorem State.postTile_fr {bl : Blocks} {s0 : State} {s : State} (t : Template) (unit i kind payload : Nat)
    (hm : Blocks.le { evt := true } bl = true) (hev : Keeps bl s0 s) :
    Keeps bl s0 (State.postTile s t unit i kind payload) := by
  unfold State.postTile
  repeat' first
    | with_reducible assumption
    | with_reducible apply State.post_fr
    | (with_reducible apply keeps_mk (a := { evt := true }) hm; dsimp only [cond_true, cond_false] <;> exact rfl; split)

theorem State.enter_fr {bl : Blocks} {s0 : State} {s : State} (h : Rec)
    (hm : Blocks.le { evt := true, way := true } bl = true) (hev : Keeps bl s0 s) :
    Keeps bl s0 (State.enter s h) := by
  unfold State.enter
  repeat' first
    | with_reducible assumption
    | exact Blocks.le_trans rfl hm
    | refine fun (_ : Keeps _ _ _) => ?_
    | with_reducible apply keeps_iff
    | with_reducible apply State.post_fr
    | with_reducible apply keeps_ite
    | (with_reducible apply keeps_mk (a := { evt := true, way := true }) hm; dsimp only [cond_true, cond_false] <;> exact rfl; with_reducible assumption)
    | intro x

theorem State.record_fr {bl : Blocks} {s0 : State} {s : State} (source id : Nat) (reason : Reason) (payload : List Byte)
    (hm : Blocks.le { evt := true, way := true } bl = true) (hev : Keeps bl s0 s) :
    Keeps bl s0 (State.record s source id reason payload) := by
  unfold State.record
  repeat' first | with_reducible assumption | with_reducible apply State.enter_fr

theorem State.recordAs_fr {bl : Blocks} {s0 : State} {s : State} (role : Role) (source id : Nat) (reason : Reason) (payload : List Byte)
    (hm : Blocks.le { evt := true, way := true } bl = true) (hev : Keeps bl s0 s) :
    Keeps bl s0 (State.recordAs s role source id reason payload) := by
  unfold State.recordAs
  repeat' first | with_reducible assumption | with_reducible apply State.enter_fr

theorem State.recordEvent_fr {bl : Blocks} {s0 : State} {s : State} (source id kind payload : Nat) (reason : Reason)
    (hm : Blocks.le { evt := true, way := true } bl = true) (hev : Keeps bl s0 s) :
    Keeps bl s0 (State.recordEvent s source id kind payload reason) := by
  unfold State.recordEvent
  repeat' first | with_reducible assumption | with_reducible apply State.record_fr

theorem State.postRecord_fr {bl : Blocks} {s0 : State} {s : State} (source id kind payload : Nat) (reason : Reason)
    (hm : Blocks.le { evt := true, way := true } bl = true) (hev : Keeps bl s0 s) :
    Keeps bl s0 (State.postRecord s source id kind payload reason) := by
  unfold State.postRecord
  repeat' first
    | with_reducible assumption
    | exact Blocks.le_trans rfl hm
    | with_reducible apply State.post_fr
    | with_reducible apply State.recordEvent_fr

theorem State.raiseThin_fr {bl : Blocks} {s0 : State} {s : State} (kind : Nat)
    (hm : Blocks.le { evt := true, cop := true, way := true } bl = true) (hev : Keeps bl s0 s) :
    Keeps bl s0 (State.raiseThin s kind) := by
  unfold State.raiseThin
  repeat' first
    | with_reducible assumption
    | exact Blocks.le_trans rfl hm
    | with_reducible apply State.postRecord_fr
    | with_reducible apply keeps_ite
    | (with_reducible apply keeps_mk (a := { evt := true, cop := true, way := true }) hm; dsimp only [cond_true, cond_false] <;> exact rfl; with_reducible assumption)

end Sys2Proof.Machine
end

