-- ==== Sys2Proof/Laws/FrRegs.lean ====
section
/-! SUPPORT. Every operation of Machine/Regs.lean keeps what it does not name (Safety.lean). -/

set_option Elab.async false

namespace Sys2Proof.Machine

theorem State.setReg_fr {bl : Blocks} {s0 : State} {s : State} (a v : Nat)
    (hm : Blocks.le { regs := true } bl = true) (hev : Keeps bl s0 s) :
    Keeps bl s0 (State.setReg s a v) := by
  unfold State.setReg
  repeat' first
    | (with_reducible apply keeps_mk (a := { regs := true }) hm; dsimp only [cond_true, cond_false] <;> exact rfl; with_reducible assumption)

end Sys2Proof.Machine
end

