-- ==== Sys2Proof/Laws/FrRegOps.lean ====
section
/-! SUPPORT. Every operation of Machine/RegOps.lean keeps what it does not name (Safety.lean). -/

set_option Elab.async false

namespace Sys2Proof.Machine

theorem State.recordWrite_fr {bl : Blocks} {s0 : State} {s : State} (w : Writer) (reason : Reason) (a old new : Nat)
    (hm : Blocks.le { evt := true, way := true } bl = true) (hev : Keeps bl s0 s) :
    Keeps bl s0 (State.recordWrite s w reason a old new) := by
  unfold State.recordWrite
  repeat' first | with_reducible assumption | with_reducible apply State.recordAs_fr

theorem State.recordRefused_fr {bl : Blocks} {s0 : State} {s : State} (w : Writer) (r : Written) (a v : Nat)
    (hm : Blocks.le { evt := true, way := true } bl = true) (hev : Keeps bl s0 s) :
    Keeps bl s0 (State.recordRefused s w r a v) := by
  unfold State.recordRefused
  repeat' first
    | with_reducible assumption
    | with_reducible apply State.recordWrite_fr
    | (with_reducible apply keeps_mk (a := { evt := true, way := true }) hm; dsimp only [cond_true, cond_false] <;> exact rfl; split)

theorem State.writeQuiet_fr {bl : Blocks} {s0 : State} {s : State} (a v : Nat) (w : Writer)
    (hm : Blocks.le { evt := true, way := true, regs := true } bl = true) (hev : Keeps bl s0 s) :
    Keeps bl s0 (State.writeQuiet s a v w).1 := by
  unfold State.writeQuiet
  repeat' first
    | with_reducible assumption
    | exact Blocks.le_trans rfl hm
    | with_reducible apply State.recordRefused_fr
    | with_reducible apply State.setReg_fr
    | (with_reducible apply keeps_mk (a := { evt := true, way := true, regs := true }) hm; dsimp only [cond_true, cond_false] <;> exact rfl; split)

theorem State.writeQuiet_keq {bl : Blocks} {s0 sx : State} {s : State} {a v : Nat} {w : Writer} {qx : Written} (e : (State.writeQuiet s a v w) = (sx, qx))
    (hm : Blocks.le { evt := true, way := true, regs := true } bl = true) (hev : Keeps bl s0 s) : Keeps bl s0 sx := by
  have g := State.writeQuiet_fr a v w hm hev
  rw [e] at g
  exact g

theorem State.writeReg_fr {bl : Blocks} {s0 : State} {s : State} (a v : Nat) (w : Writer)
    (hm : Blocks.le { evt := true, way := true, regs := true } bl = true) (hev : Keeps bl s0 s) :
    Keeps bl s0 (State.writeReg s a v w).1 := by
  unfold State.writeReg
  repeat' first
    | with_reducible assumption
    | exact Blocks.le_trans rfl hm
    | with_reducible apply State.recordWrite_fr
    | with_reducible apply State.writeQuiet_fr
    | with_reducible apply keeps_ite_fst

theorem State.writeReg_keq {bl : Blocks} {s0 sx : State} {s : State} {a v : Nat} {w : Writer} {qx : Written} (e : (State.writeReg s a v w) = (sx, qx))
    (hm : Blocks.le { evt := true, way := true, regs := true } bl = true) (hev : Keeps bl s0 s) : Keeps bl s0 sx := by
  have g := State.writeReg_fr a v w hm hev
  rw [e] at g
  exact g

end Sys2Proof.Machine
end

