-- ==== Sys2Proof/Laws/FrFspOps.lean ====
section
/-! SUPPORT. Every operation of Machine/FspOps.lean keeps what it does not name (Safety.lean). -/

set_option Elab.async false

namespace Sys2Proof.Machine

theorem State.modSession_fr {bl : Blocks} {s0 : State} {s : State} (i : Fin 4) (f : Session → Session)
    (hm : Blocks.le { fsp := true } bl = true) (hev : Keeps bl s0 s) :
    Keeps bl s0 (State.modSession s i f) := by
  unfold State.modSession
  repeat' first
    | (with_reducible apply keeps_mk (a := { fsp := true }) hm; dsimp only [cond_true, cond_false] <;> exact rfl; with_reducible assumption)

theorem State.respond_fr {bl : Blocks} {s0 : State} {s : State} (i : Fin 4) (type tx : Nat) (body : List Byte)
    (hm : Blocks.le { out := true } bl = true) (hev : Keeps bl s0 s) :
    Keeps bl s0 (State.respond s i type tx body) := by
  unfold State.respond
  repeat' first | with_reducible assumption | with_reducible apply State.emit_fr

theorem State.fspError_fr {bl : Blocks} {s0 : State} {s : State} (i : Fin 4) (reason : Reason) (type detail offset tx : Nat)
    (hm : Blocks.le { out := true } bl = true) (hev : Keeps bl s0 s) :
    Keeps bl s0 (State.fspError s i reason type detail offset tx) := by
  unfold State.fspError
  repeat' first | with_reducible assumption | with_reducible apply State.emit_fr

theorem State.closeSession_fr {bl : Blocks} {s0 : State} {s : State} (i : Fin 4)
    (hm : Blocks.le { adm := true, fsp := true, evt := true, way := true, out := true } bl = true) (hev : Keeps bl s0 s) :
    Keeps bl s0 (State.closeSession s i) := by
  unfold State.closeSession
  repeat' first
    | with_reducible assumption
    | exact Blocks.le_trans rfl hm
    | refine fun (_ : Keeps _ _ _) => ?_
    | with_reducible apply State.emit_fr
    | with_reducible apply State.recordAs_fr
    | with_reducible apply keeps_ite
    | (with_reducible apply keeps_mk (a := { adm := true, fsp := true, evt := true, way := true, out := true }) hm; dsimp only [cond_true, cond_false] <;> exact rfl; (first | with_reducible apply keeps_iff | split))
    | intro x

theorem State.fspViolation_fr {bl : Blocks} {s0 : State} {s : State} (i : Fin 4) (reason : Reason) (type tx : Nat)
    (hm : Blocks.le { adm := true, fsp := true, evt := true, way := true, out := true } bl = true) (hev : Keeps bl s0 s) :
    Keeps bl s0 (State.fspViolation s i reason type tx) := by
  unfold State.fspViolation
  repeat' first
    | with_reducible assumption
    | exact Blocks.le_trans rfl hm
    | with_reducible apply State.closeSession_fr
    | with_reducible apply State.fspError_fr
    | with_reducible apply State.modSession_fr
    | with_reducible apply State.recordAs_fr
    | with_reducible apply keeps_ite
    | (with_reducible apply keeps_mk (a := { adm := true, fsp := true, evt := true, way := true, out := true }) hm; dsimp only [cond_true, cond_false] <;> exact rfl; split)

theorem State.refuse_fr {bl : Blocks} {s0 : State} {s : State} (i : Fin 4) (reason : Reason) (type detail offset tx : Nat)
    (hm : Blocks.le { adm := true, fsp := true, evt := true, way := true, out := true } bl = true) (hev : Keeps bl s0 s) :
    Keeps bl s0 (State.refuse s i reason type detail offset tx) := by
  unfold State.refuse
  repeat' first
    | with_reducible assumption
    | exact Blocks.le_trans rfl hm
    | with_reducible apply State.fspError_fr
    | with_reducible apply State.fspViolation_fr

theorem State.malformed_fr {bl : Blocks} {s0 : State} {s : State} (i : Fin 4) (type tx : Nat)
    (hm : Blocks.le { adm := true, fsp := true, evt := true, way := true, out := true } bl = true) (hev : Keeps bl s0 s) :
    Keeps bl s0 (State.malformed s i type tx) := by
  unfold State.malformed
  repeat' first
    | with_reducible assumption
    | exact Blocks.le_trans rfl hm
    | with_reducible apply State.fspViolation_fr
    | with_reducible apply State.respond_fr

theorem State.request_fr {bl : Blocks} {s0 : State} {s : State} (i : Fin 4) (role : Byte) (type tx : Nat) (need : Role) (serve : Session → State → State) (h_serve : ∀ a0 x, Keeps bl s0 x → Keeps bl s0 (serve a0 x))
    (hm : Blocks.le { adm := true, fsp := true, evt := true, way := true, out := true } bl = true) (hev : Keeps bl s0 s) :
    Keeps bl s0 (State.request s i role type tx need serve) := by
  unfold State.request
  repeat' first
    | with_reducible assumption
    | exact Blocks.le_trans rfl hm
    | with_reducible apply State.modSession_fr
    | with_reducible apply State.refuse_fr
    | apply h_serve
    | with_reducible apply keeps_ite
    | (with_reducible apply keeps_mk (a := { adm := true, fsp := true, evt := true, way := true, out := true }) hm; dsimp only [cond_true, cond_false] <;> exact rfl; (first | with_reducible apply State.modSession_fr | split))

theorem State.countUse_fr {bl : Blocks} {s0 : State} {s : State} (i : Fin 4) (c : Session) (f : Session → Session)
    (hm : Blocks.le { fsp := true } bl = true) (hev : Keeps bl s0 s) :
    Keeps bl s0 (State.countUse s i c f) := by
  unfold State.countUse
  repeat' first
    | with_reducible assumption
    | with_reducible apply State.modSession_fr
    | with_reducible apply keeps_ite

theorem State.pushTo_fr {bl : Blocks} {s0 : State} {s : State} (p : Push) (i : Nat)
    (hm : Blocks.le { fsp := true, out := true } bl = true) (hev : Keeps bl s0 s) :
    Keeps bl s0 (State.pushTo s p i) := by
  unfold State.pushTo
  repeat' first
    | with_reducible assumption
    | exact Blocks.le_trans rfl hm
    | with_reducible apply State.emit_fr
    | with_reducible apply keeps_ite
    | (with_reducible apply keeps_mk (a := { fsp := true, out := true }) hm; dsimp only [cond_true, cond_false] <;> exact rfl; (first | with_reducible assumption | split))

theorem State.push_fr {bl : Blocks} {s0 : State} {s : State} (type : Nat) (body : List Byte) (bookedRoom : Nat)
    (hm : Blocks.le { fsp := true, evt := true, way := true, out := true } bl = true) (hev : Keeps bl s0 s) :
    Keeps bl s0 (State.push s type body bookedRoom) := by
  unfold State.push
  repeat' first
    | with_reducible assumption
    | exact hm
    | exact Blocks.le_trans rfl hm
    | refine fun (_ : Keeps _ _ _) => ?_
    | with_reducible apply keeps_iff
    | with_reducible apply keeps_whenLive
    | with_reducible apply keeps_forEach
    | with_reducible apply State.pushTo_fr
    | with_reducible apply State.record_fr
    | with_reducible apply keeps_ite
    | (with_reducible apply keeps_mk (a := { fsp := true, evt := true, way := true, out := true }) hm; dsimp only [cond_true, cond_false] <;> exact rfl; (first | with_reducible assumption | exact hm | exact Blocks.le_trans rfl hm | with_reducible apply keeps_iff | with_reducible apply keeps_whenLive | with_reducible apply keeps_forEach | with_reducible apply State.pushTo_fr | with_reducible apply State.record_fr | with_reducible apply keeps_ite | split))
    | (intro x; refine keeps_cut (l := bl) (s0 := s0) (x := x) ?_ ?_; rotate_left; clear_value x; intro hx; rotate_left; subst x)
    | (refine Prod.forall.2 ?_; dsimp only)
    | intro x
    | split
    | lift_lets
    | dsimp only

theorem State.pushWaiting_fr {bl : Blocks} {s0 : State} (i n : Nat) (hm : Blocks.le { fsp := true, out := true } bl = true) :
    ∀ {s : State}, Keeps bl s0 s → Keeps bl s0 (s.pushWaiting i n) := by
  induction n with
  | zero => intro s h; exact h
  | succ n ih =>
    intro s h
    unfold State.pushWaiting
    split
    · exact h
    · split
      · exact h
      · split
        · split
          · exact ih (State.emit_fr _ (Blocks.le_trans rfl hm) (keeps_mk (a := { fsp := true, out := true }) hm rfl h))
          · exact ih (keeps_mk (a := { fsp := true, out := true }) hm rfl h)
        · exact h

end Sys2Proof.Machine
end

