-- ==== Sys2Proof/Laws/FrKeyOps.lean ====
section
/-! SUPPORT. Every operation of Machine/KeyOps.lean keeps what it does not name (Safety.lean). -/

set_option Elab.async false

namespace Sys2Proof.Machine

theorem State.setSlot_fr {bl : Blocks} {s0 : State} {s : State} (n : Nat) (c : SlotSt)
    (hm : Blocks.le { key := true } bl = true) (hev : Keeps bl s0 s) :
    Keeps bl s0 (State.setSlot s n c) := by
  unfold State.setSlot
  repeat' first
    | (with_reducible apply keeps_mk (a := { key := true }) hm; dsimp only [cond_true, cond_false] <;> exact rfl; with_reducible assumption)

theorem State.witherChildren_fr {bl : Blocks} {s0 : State} {s : State} (n : Nat)
    (hm : Blocks.le { key := true } bl = true) (hev : Keeps bl s0 s) :
    Keeps bl s0 (State.witherChildren s n) := by
  unfold State.witherChildren
  repeat' first
    | (with_reducible apply keeps_mk (a := { key := true }) hm; dsimp only [cond_true, cond_false] <;> exact rfl; with_reducible assumption)

theorem State.tagRun_fr {bl : Blocks} {s0 : State} {s : State} (n : Nat)
    (hm : Blocks.le { key := true } bl = true) (hev : Keeps bl s0 s) :
    Keeps bl s0 (State.tagRun s n) := by
  unfold State.tagRun
  repeat' first
    | with_reducible assumption
    | with_reducible apply keeps_ite
    | (with_reducible apply keeps_mk (a := { key := true }) hm; dsimp only [cond_true, cond_false] <;> exact rfl; (first | with_reducible assumption | split))

theorem State.invalidate_fr {bl : Blocks} {s0 : State} {s : State} (n : Nat)
    (hm : Blocks.le { key := true } bl = true) (hev : Keeps bl s0 s) :
    Keeps bl s0 (State.invalidate s n) := by
  unfold State.invalidate
  repeat' first
    | with_reducible assumption
    | with_reducible apply State.tagRun_fr
    | with_reducible apply State.witherChildren_fr

theorem State.emptySlot_fr {bl : Blocks} {s0 : State} {s : State} (n : Nat)
    (hm : Blocks.le { key := true } bl = true) (hev : Keeps bl s0 s) :
    Keeps bl s0 (State.emptySlot s n) := by
  unfold State.emptySlot
  repeat' first | with_reducible assumption | with_reducible apply State.setSlot_fr

theorem State.recordKey_fr {bl : Blocks} {s0 : State} {s : State} (role : Role) (slot : Nat) (op : KeyOp) (reason : Reason) (tagged : Bool)
    (hm : Blocks.le { evt := true, way := true } bl = true) (hev : Keeps bl s0 s) :
    Keeps bl s0 (State.recordKey s role slot op reason tagged) := by
  unfold State.recordKey
  repeat' first | with_reducible assumption | with_reducible apply State.enter_fr

end Sys2Proof.Machine
end

