-- ==== Sys2Proof/Laws/FrShift.lean ====
section
/-! SUPPORT. Every operation of Machine/Shift.lean keeps what it does not name (Safety.lean). -/

set_option Elab.async false

namespace Sys2Proof.Machine

theorem State.shiftCn_fr {bl : Blocks} {s0 : State} {s : State} (k : Int)
    (hm : Blocks.le { cn := true, time := true, mtr := true, rad := true, node := true, adm := true, fsp := true, dim := true, drv := true, can := true, ford := true, cop := true, key := true, upd := true, mon := true, sys := true } bl = true) (hev : Keeps bl s0 s) :
    Keeps bl s0 (State.shiftCn s k) := by
  unfold State.shiftCn
  repeat' first
    | (with_reducible apply keeps_mk (a := { cn := true, time := true, mtr := true, rad := true, node := true, adm := true, fsp := true, dim := true, drv := true, can := true, ford := true, cop := true, key := true, upd := true, mon := true, sys := true }) hm; dsimp only [cond_true, cond_false] <;> exact rfl; with_reducible assumption)

end Sys2Proof.Machine
end

