-- ==== Sys2Proof/Laws/FrTimeOps.lean ====
section
/-! SUPPORT. Every operation of Machine/TimeOps.lean keeps what it does not name (Safety.lean). -/

set_option Elab.async false

namespace Sys2Proof.Machine

theorem State.recordTime_fr {bl : Blocks} {s0 : State} {s : State} (source kind payload : Nat)
    (hm : Blocks.le { evt := true, way := true } bl = true) (hev : Keeps bl s0 s) :
    Keeps bl s0 (State.recordTime s source kind payload) := by
  unfold State.recordTime
  repeat' first | with_reducible assumption | with_reducible apply State.record_fr

theorem State.timebaseEvent_fr {bl : Blocks} {s0 : State} {s : State} (kind port : Nat)
    (hm : Blocks.le { evt := true, way := true } bl = true) (hev : Keeps bl s0 s) :
    Keeps bl s0 (State.timebaseEvent s kind port) := by
  unfold State.timebaseEvent
  repeat' first
    | with_reducible assumption
    | exact Blocks.le_trans rfl hm
    | with_reducible apply State.post_fr
    | with_reducible apply State.recordTime_fr

theorem State.mainsEvent_fr {bl : Blocks} {s0 : State} {s : State} (kind : Nat)
    (hm : Blocks.le { evt := true, way := true } bl = true) (hev : Keeps bl s0 s) :
    Keeps bl s0 (State.mainsEvent s kind) := by
  unfold State.mainsEvent
  repeat' first
    | with_reducible assumption
    | exact Blocks.le_trans rfl hm
    | with_reducible apply State.post_fr
    | with_reducible apply State.recordTime_fr

theorem State.rebaseEvent_fr {bl : Blocks} {s0 : State} {s : State} (prov attributed : Cn)
    (hm : Blocks.le { evt := true, way := true } bl = true) (hev : Keeps bl s0 s) :
    Keeps bl s0 (State.rebaseEvent s prov attributed) := by
  unfold State.rebaseEvent
  repeat' first
    | with_reducible assumption
    | exact Blocks.le_trans rfl hm
    | with_reducible apply State.post_fr
    | with_reducible apply State.record_fr

theorem State.syncEvent_fr {bl : Blocks} {s0 : State} {s : State} (kind : Nat) (d : Int)
    (hm : Blocks.le { evt := true, way := true } bl = true) (hev : Keeps bl s0 s) :
    Keeps bl s0 (State.syncEvent s kind d) := by
  unfold State.syncEvent
  repeat' first
    | with_reducible assumption
    | exact Blocks.le_trans rfl hm
    | with_reducible apply State.post_fr
    | with_reducible apply State.recordTime_fr

theorem State.beginSlot_fr {bl : Blocks} {s0 : State} {s : State}
    (hm : Blocks.le { time := true } bl = true) (hev : Keeps bl s0 s) :
    Keeps bl s0 (State.beginSlot s) := by
  unfold State.beginSlot
  repeat' first
    | (with_reducible apply keeps_mk (a := { time := true }) hm; dsimp only [cond_true, cond_false] <;> exact rfl; with_reducible assumption)

theorem State.beginSecond_fr {bl : Blocks} {s0 : State} {s : State}
    (hm : Blocks.le { time := true } bl = true) (hev : Keeps bl s0 s) :
    Keeps bl s0 (State.beginSecond s) := by
  unfold State.beginSecond
  repeat' first
    | with_reducible assumption
    | with_reducible apply State.beginSlot_fr
    | (with_reducible apply keeps_mk (a := { time := true }) hm; dsimp only [cond_true, cond_false] <;> exact rfl; with_reducible apply State.advanceTo_fr)

theorem State.nextCycle_fr {bl : Blocks} {s0 : State} {s : State}
    (hm : Blocks.le { cn := true, time := true } bl = true) (hev : Keeps bl s0 s) :
    Keeps bl s0 (State.nextCycle s) := by
  unfold State.nextCycle
  repeat' first
    | with_reducible assumption
    | exact Blocks.le_trans rfl hm
    | with_reducible apply State.beginSecond_fr
    | with_reducible apply State.beginSlot_fr
    | with_reducible apply keeps_ite
    | (with_reducible apply keeps_mk (a := { cn := true, time := true }) hm; dsimp only [cond_true, cond_false] <;> exact rfl; with_reducible apply State.advanceTo_fr)

theorem State.startCount_fr {bl : Blocks} {s0 : State} {s : State} (cn : Cn) (ref : Nat)
    (hm : Blocks.le { cn := true, time := true } bl = true) (hev : Keeps bl s0 s) :
    Keeps bl s0 (State.startCount s cn ref) := by
  unfold State.startCount
  repeat' first
    | exact Blocks.le_trans rfl hm
    | with_reducible apply State.beginSlot_fr
    | (with_reducible apply keeps_mk (a := { cn := true, time := true }) hm; dsimp only [cond_true, cond_false] <;> exact rfl; with_reducible assumption)

theorem State.servoUpdate_fr {bl : Blocks} {s0 : State} {s : State} (theta : Int)
    (hm : Blocks.le { time := true } bl = true) (hev : Keeps bl s0 s) :
    Keeps bl s0 (State.servoUpdate s theta) := by
  unfold State.servoUpdate
  repeat' first
    | with_reducible assumption
    | with_reducible apply keeps_ite
    | (with_reducible apply keeps_mk (a := { time := true }) hm; dsimp only [cond_true, cond_false] <;> exact rfl; with_reducible assumption)

theorem State.holdoverUpdate_fr {bl : Blocks} {s0 : State} {s : State} (ref : Int) (cn : Cn)
    (hm : Blocks.le { time := true } bl = true) (hev : Keeps bl s0 s) :
    Keeps bl s0 (State.holdoverUpdate s ref cn) := by
  unfold State.holdoverUpdate
  repeat' first
    | with_reducible assumption
    | with_reducible apply keeps_ite
    | (with_reducible apply keeps_mk (a := { time := true }) hm; dsimp only [cond_true, cond_false] <;> exact rfl; with_reducible assumption)

theorem State.enterHoldover_fr {bl : Blocks} {s0 : State} {s : State} (kind : Nat)
    (hm : Blocks.le { time := true, evt := true, way := true, freeIdx := true } bl = true) (hev : Keeps bl s0 s) :
    Keeps bl s0 (State.enterHoldover s kind) := by
  unfold State.enterHoldover
  repeat' first
    | with_reducible assumption
    | exact Blocks.le_trans rfl hm
    | with_reducible apply State.timebaseEvent_fr
    | (with_reducible apply keeps_mk (a := { time := true, evt := true, way := true, freeIdx := true }) hm; dsimp only [cond_true, cond_false] <;> exact rfl; with_reducible apply State.drawNat_fr)

theorem State.sourceLost_fr {bl : Blocks} {s0 : State} {s : State}
    (hm : Blocks.le { time := true, evt := true, way := true, freeIdx := true } bl = true) (hev : Keeps bl s0 s) :
    Keeps bl s0 (State.sourceLost s) := by
  unfold State.sourceLost
  repeat' first
    | with_reducible assumption
    | with_reducible apply State.enterHoldover_fr
    | with_reducible apply keeps_ite
    | (with_reducible apply keeps_mk (a := { time := true, evt := true, way := true, freeIdx := true }) hm; dsimp only [cond_true, cond_false] <;> exact rfl; (first | with_reducible assumption | split))

theorem State.checkSource_fr {bl : Blocks} {s0 : State} {s : State}
    (hm : Blocks.le { time := true, evt := true, way := true, freeIdx := true } bl = true) (hev : Keeps bl s0 s) :
    Keeps bl s0 (State.checkSource s) := by
  unfold State.checkSource
  repeat' first
    | with_reducible assumption
    | with_reducible apply State.sourceLost_fr
    | with_reducible apply keeps_ite
    | (with_reducible apply keeps_mk (a := { time := true, evt := true, way := true, freeIdx := true }) hm; dsimp only [cond_true, cond_false] <;> exact rfl; split)

theorem State.timeViolation_fr {bl : Blocks} {s0 : State} {s : State}
    (hm : Blocks.le { time := true } bl = true) (hev : Keeps bl s0 s) :
    Keeps bl s0 (State.timeViolation s) := by
  unfold State.timeViolation
  repeat' first
    | (with_reducible apply keeps_mk (a := { time := true }) hm; dsimp only [cond_true, cond_false] <;> exact rfl; with_reducible assumption)

theorem State.ptpViolation_fr {bl : Blocks} {s0 : State} {s : State} (p : Fin 2)
    (hm : Blocks.le { time := true, evt := true, way := true } bl = true) (hev : Keeps bl s0 s) :
    Keeps bl s0 (State.ptpViolation s p) := by
  unfold State.ptpViolation
  repeat' first
    | with_reducible assumption
    | exact Blocks.le_trans rfl hm
    | with_reducible apply State.timebaseEvent_fr
    | with_reducible apply keeps_ite
    | (with_reducible apply keeps_mk (a := { time := true, evt := true, way := true }) hm; dsimp only [cond_true, cond_false] <;> exact rfl; with_reducible apply State.timeViolation_fr)

theorem State.sourceViolation_fr {bl : Blocks} {s0 : State} {s : State} (src : TSource)
    (hm : Blocks.le { time := true, evt := true, way := true } bl = true) (hev : Keeps bl s0 s) :
    Keeps bl s0 (State.sourceViolation s src) := by
  unfold State.sourceViolation
  repeat' first
    | with_reducible assumption
    | exact Blocks.le_trans rfl hm
    | with_reducible apply State.ptpViolation_fr
    | with_reducible apply State.timeViolation_fr
    | (with_reducible apply keeps_mk (a := { time := true, evt := true, way := true }) hm; dsimp only [cond_true, cond_false] <;> exact rfl; split)

theorem State.stepCounter_fr {bl : Blocks} {s0 : State} {s : State} (four : List Int)
    (hm : Blocks.le { time := true } bl = true) (hev : Keeps bl s0 s) :
    Keeps bl s0 (State.stepCounter s four) := by
  unfold State.stepCounter
  repeat' first
    | (with_reducible apply keeps_mk (a := { time := true }) hm; dsimp only [cond_true, cond_false] <;> exact rfl; with_reducible assumption)

theorem State.acceptOffset_fr {bl : Blocks} {s0 : State} {s : State} (theta : Int)
    (hm : Blocks.le { time := true, evt := true, way := true } bl = true) (hev : Keeps bl s0 s) :
    Keeps bl s0 (State.acceptOffset s theta) := by
  unfold State.acceptOffset
  repeat' first
    | exact Blocks.le_trans rfl hm
    | with_reducible apply State.servoUpdate_fr
    | with_reducible apply State.stepCounter_fr
    | with_reducible apply State.timebaseEvent_fr
    | with_reducible apply keeps_ite
    | (with_reducible apply keeps_mk (a := { time := true, evt := true, way := true }) hm; dsimp only [cond_true, cond_false] <;> exact rfl; (first | with_reducible assumption | with_reducible apply State.servoUpdate_fr))

theorem State.bigOffset_fr {bl : Blocks} {s0 : State} {s : State} (src : TSource) (theta : Int)
    (hm : Blocks.le { time := true, evt := true, way := true, freeIdx := true } bl = true) (hev : Keeps bl s0 s) :
    Keeps bl s0 (State.bigOffset s src theta) := by
  unfold State.bigOffset
  repeat' first
    | with_reducible assumption
    | exact Blocks.le_trans rfl hm
    | with_reducible apply State.acceptOffset_fr
    | with_reducible apply State.enterHoldover_fr
    | with_reducible apply keeps_ite
    | (with_reducible apply keeps_mk (a := { time := true, evt := true, way := true, freeIdx := true }) hm; dsimp only [cond_true, cond_false] <;> exact rfl; with_reducible apply State.sourceViolation_fr)

theorem State.returningOffset_fr {bl : Blocks} {s0 : State} {s : State} (src : TSource) (theta : Int)
    (hm : Blocks.le { time := true } bl = true) (hev : Keeps bl s0 s) :
    Keeps bl s0 (State.returningOffset s src theta) := by
  unfold State.returningOffset
  repeat' first
    | with_reducible apply keeps_ite
    | (with_reducible apply keeps_mk (a := { time := true }) hm; dsimp only [cond_true, cond_false] <;> exact rfl; with_reducible assumption)

theorem State.offset_fr {bl : Blocks} {s0 : State} {s : State} (src : TSource) (theta : Int)
    (hm : Blocks.le { time := true, evt := true, way := true, freeIdx := true } bl = true) (hev : Keeps bl s0 s) :
    Keeps bl s0 (State.offset s src theta) := by
  unfold State.offset
  repeat' first
    | with_reducible assumption
    | exact Blocks.le_trans rfl hm
    | with_reducible apply State.acceptOffset_fr
    | with_reducible apply State.bigOffset_fr
    | with_reducible apply State.returningOffset_fr
    | with_reducible apply State.sourceViolation_fr
    | with_reducible apply keeps_ite
    | (with_reducible apply keeps_mk (a := { time := true, evt := true, way := true, freeIdx := true }) hm; dsimp only [cond_true, cond_false] <;> exact rfl; (first | with_reducible assumption | split))

end Sys2Proof.Machine
end

