-- ==== Sys2Proof/Laws/FrRadOps.lean ====
section
/-! SUPPORT. Every operation of Machine/RadOps.lean keeps what it does not name (Safety.lean). -/

set_option Elab.async false

namespace Sys2Proof.Machine

theorem State.modTrx_fr {bl : Blocks} {s0 : State} {s : State} (t : Nat) (f : TrxSt → TrxSt)
    (hm : Blocks.le { rad := true } bl = true) (hev : Keeps bl s0 s) :
    Keeps bl s0 (State.modTrx s t f) := by
  unfold State.modTrx
  repeat' first
    | (with_reducible apply keeps_mk (a := { rad := true }) hm; dsimp only [cond_true, cond_false] <;> exact rfl; with_reducible assumption)

theorem State.trxChanged_fr {bl : Blocks} {s0 : State} {s : State} (t old : Nat)
    (hm : Blocks.le { evt := true } bl = true) (hev : Keeps bl s0 s) :
    Keeps bl s0 (State.trxChanged s t old) := by
  unfold State.trxChanged
  repeat' first | with_reducible assumption | with_reducible apply State.post_fr | with_reducible apply keeps_ite

theorem State.addDuty_fr {bl : Blocks} {s0 : State} {s : State} (t band n : Nat)
    (hm : Blocks.le { rad := true } bl = true) (hev : Keeps bl s0 s) :
    Keeps bl s0 (State.addDuty s t band n) := by
  unfold State.addDuty
  repeat' first
    | (with_reducible apply keeps_mk (a := { rad := true }) hm; dsimp only [cond_true, cond_false] <;> exact rfl; with_reducible assumption)

theorem State.markAll_fr {bl : Blocks} {s0 : State} {s : State}
    (hm : Blocks.le { rad := true } bl = true) (hev : Keeps bl s0 s) :
    Keeps bl s0 (State.markAll s) := by
  unfold State.markAll
  repeat' first
    | (with_reducible apply keeps_mk (a := { rad := true }) hm; dsimp only [cond_true, cond_false] <;> exact rfl; with_reducible assumption)

theorem State.modEntry_fr {bl : Blocks} {s0 : State} {s : State} (short : Nat) (f : Entry → Entry)
    (hm : Blocks.le { rad := true } bl = true) (hev : Keeps bl s0 s) :
    Keeps bl s0 (State.modEntry s short f) := by
  unfold State.modEntry
  repeat' first
    | (with_reducible apply keeps_mk (a := { rad := true }) hm; dsimp only [cond_true, cond_false] <;> exact rfl; with_reducible assumption)

theorem State.putEntry_fr {bl : Blocks} {s0 : State} {s : State} (short : Nat) (e : Entry)
    (hm : Blocks.le { rad := true } bl = true) (hev : Keeps bl s0 s) :
    Keeps bl s0 (State.putEntry s short e) := by
  unfold State.putEntry
  repeat' first
    | (with_reducible apply keeps_mk (a := { rad := true }) hm; dsimp only [cond_true, cond_false] <;> exact rfl; with_reducible assumption)

theorem State.hold_fr {bl : Blocks} {s0 : State} {s : State} (h : Held)
    (hm : Blocks.le { rad := true } bl = true) (hev : Keeps bl s0 s) :
    Keeps bl s0 (State.hold s h) := by
  unfold State.hold
  repeat' first
    | (with_reducible apply keeps_mk (a := { rad := true }) hm; dsimp only [cond_true, cond_false] <;> exact rfl; with_reducible assumption)

theorem State.takeSeq_fr {bl : Blocks} {s0 : State} {s : State}
    (hm : Blocks.le { rad := true } bl = true) (hev : Keeps bl s0 s) :
    Keeps bl s0 (State.takeSeq s).2 := by
  unfold State.takeSeq
  repeat' first
    | (with_reducible apply keeps_mk (a := { rad := true }) hm; dsimp only [cond_true, cond_false] <;> exact rfl; with_reducible assumption)

theorem State.takeSeq_keq {bl : Blocks} {s0 sx : State} {s : State} {qx : Nat} (e : (State.takeSeq s) = (qx, sx))
    (hm : Blocks.le { rad := true } bl = true) (hev : Keeps bl s0 s) : Keeps bl s0 sx := by
  have g := State.takeSeq_fr  hm hev
  rw [e] at g
  exact g

theorem State.modNode_fr {bl : Blocks} {s0 : State} {s : State} (eui : Nat) (f : NodeRec → NodeRec)
    (hm : Blocks.le { node := true } bl = true) (hev : Keeps bl s0 s) :
    Keeps bl s0 (State.modNode s eui f) := by
  unfold State.modNode
  repeat' first
    | (with_reducible apply keeps_mk (a := { node := true }) hm; dsimp only [cond_true, cond_false] <;> exact rfl; with_reducible assumption)

theorem State.recordNode_fr {bl : Blocks} {s0 : State} {s : State} (g short state detail argument : Nat) (reason : Reason)
    (hm : Blocks.le { evt := true, way := true } bl = true) (hev : Keeps bl s0 s) :
    Keeps bl s0 (State.recordNode s g short state detail argument reason) := by
  unfold State.recordNode
  repeat' first | with_reducible assumption | with_reducible apply State.record_fr

theorem State.setLink_fr {bl : Blocks} {s0 : State} {s : State} (n : NodeRec) (st : LinkState)
    (hm : Blocks.le { node := true, dim := true, evt := true, way := true } bl = true) (hev : Keeps bl s0 s) :
    Keeps bl s0 (State.setLink s n st) := by
  unfold State.setLink
  repeat' first
    | with_reducible assumption
    | exact Blocks.le_trans rfl hm
    | with_reducible apply State.modNode_fr
    | with_reducible apply State.recordNode_fr
    | with_reducible apply keeps_ite
    | (with_reducible apply keeps_mk (a := { node := true, dim := true, evt := true, way := true }) hm; dsimp only [cond_true, cond_false] <;> exact rfl; with_reducible apply State.recordNode_fr)

theorem State.nodeHeard_fr {bl : Blocks} {s0 : State} {s : State} (short : Nat)
    (hm : Blocks.le { node := true, dim := true, evt := true, way := true } bl = true) (hev : Keeps bl s0 s) :
    Keeps bl s0 (State.nodeHeard s short) := by
  unfold State.nodeHeard
  repeat' first
    | with_reducible assumption
    | exact Blocks.le_trans rfl hm
    | with_reducible apply State.modNode_fr
    | with_reducible apply State.setLink_fr
    | with_reducible apply keeps_ite
    | (with_reducible apply keeps_mk (a := { node := true, dim := true, evt := true, way := true }) hm; dsimp only [cond_true, cond_false] <;> exact rfl; split)

theorem State.sendNode_fr {bl : Blocks} {s0 : State} {s : State} (n : NodeRec) (cell : Cell) (type : Nat) (body : List Byte) (load : Load) (notBefore : Nat)
    (hm : Blocks.le { rad := true } bl = true) (hev : Keeps bl s0 s) :
    Keeps bl s0 (State.sendNode s n cell type body load notBefore) := by
  unfold State.sendNode
  repeat' first
    | with_reducible assumption
    | with_reducible apply State.hold_fr
    | with_reducible apply State.takeSeq_fr

theorem State.flood_fr {bl : Blocks} {s0 : State} {s : State} (g : Nat) (cell : Cell) (type : Nat) (body : List Byte) (load : Load) (notBefore : Nat)
    (hm : Blocks.le { rad := true } bl = true) (hev : Keeps bl s0 s) :
    Keeps bl s0 (State.flood s g cell type body load notBefore) := by
  unfold State.flood
  repeat' first
    | with_reducible assumption
    | with_reducible apply State.hold_fr
    | with_reducible apply State.takeSeq_fr

theorem State.radViolation_fr {bl : Blocks} {s0 : State} {s : State} (g short type : Nat) (reason : Reason)
    (hm : Blocks.le { rad := true, evt := true, way := true } bl = true) (hev : Keeps bl s0 s) :
    Keeps bl s0 (State.radViolation s g short type reason) := by
  unfold State.radViolation
  repeat' first
    | with_reducible assumption
    | exact Blocks.le_trans rfl hm
    | with_reducible apply State.modTrx_fr
    | with_reducible apply State.postTile_fr
    | with_reducible apply State.putEntry_fr
    | with_reducible apply State.record_fr
    | with_reducible apply State.recordNode_fr
    | with_reducible apply keeps_ite
    | (with_reducible apply keeps_mk (a := { rad := true, evt := true, way := true }) hm; dsimp only [cond_true, cond_false] <;> exact rfl; split)

end Sys2Proof.Machine
end

