-- ==== Sys2Proof/Laws/FrCopOps.lean ====
section
/-! SUPPORT. Every operation of Machine/CopOps.lean keeps what it does not name (Safety.lean). -/

set_option Elab.async false

namespace Sys2Proof.Machine

theorem State.putUnit_fr {bl : Blocks} {s0 : State} {s : State} (u : UnitSt)
    (hm : Blocks.le { cop := true } bl = true) (hev : Keeps bl s0 s) :
    Keeps bl s0 (State.putUnit s u) := by
  unfold State.putUnit
  repeat' first
    | (with_reducible apply keeps_mk (a := { cop := true }) hm; dsimp only [cond_true, cond_false] <;> exact rfl; with_reducible assumption)

theorem State.modUnit_fr {bl : Blocks} {s0 : State} {s : State} (id : UnitId) (f : UnitSt → UnitSt)
    (hm : Blocks.le { cop := true } bl = true) (hev : Keeps bl s0 s) :
    Keeps bl s0 (State.modUnit s id f) := by
  unfold State.modUnit
  repeat' first | with_reducible assumption | with_reducible apply State.putUnit_fr

theorem State.pickOne_fr {bl : Blocks} {s0 : State} {s : State} (l : List Nat)
    (hm : Blocks.le { freeIdx := true } bl = true) (hev : Keeps bl s0 s) :
    Keeps bl s0 (State.pickOne s l).2 := by
  unfold State.pickOne
  repeat' first | with_reducible assumption | with_reducible apply State.drawNat_fr

theorem State.pickOne_keq {bl : Blocks} {s0 sx : State} {s : State} {l : List Nat} {qx : Nat} (e : (State.pickOne s l) = (qx, sx))
    (hm : Blocks.le { freeIdx := true } bl = true) (hev : Keeps bl s0 s) : Keeps bl s0 sx := by
  have g := State.pickOne_fr l hm hev
  rw [e] at g
  exact g

theorem State.fell_fr {bl : Blocks} {s0 : State} {s : State} (id : UnitId)
    (hm : Blocks.le { evt := true, cop := true, way := true } bl = true) (hev : Keeps bl s0 s) :
    Keeps bl s0 (State.fell s id) := by
  unfold State.fell
  repeat' first
    | with_reducible assumption
    | exact Blocks.le_trans rfl hm
    | with_reducible apply State.raiseThin_fr
    | with_reducible apply keeps_ite
    | (with_reducible apply keeps_mk (a := { evt := true, cop := true, way := true }) hm; dsimp only [cond_true, cond_false] <;> exact rfl; with_reducible apply State.modUnit_fr)

theorem State.recordSlice_fr {bl : Blocks} {s0 : State} {s : State} (source id : Nat) (u : UnitId) (result : SliceResult)
    (hm : Blocks.le { evt := true, way := true } bl = true) (hev : Keeps bl s0 s) :
    Keeps bl s0 (State.recordSlice s source id u result) := by
  unfold State.recordSlice
  repeat' first | with_reducible assumption | with_reducible apply State.record_fr

theorem State.sliceEnded_fr {bl : Blocks} {s0 : State} {s : State} (u : UnitId) (result : SliceResult) (icause : Nat)
    (hm : Blocks.le { evt := true, cop := true } bl = true) (hev : Keeps bl s0 s) :
    Keeps bl s0 (State.sliceEnded s u result icause) := by
  unfold State.sliceEnded
  repeat' first
    | exact Blocks.le_trans rfl hm
    | with_reducible apply State.post_fr
    | (with_reducible apply keeps_mk (a := { evt := true, cop := true }) hm; dsimp only [cond_true, cond_false] <;> exact rfl; with_reducible assumption)

theorem State.returnVictim_fr {bl : Blocks} {s0 : State} {s : State} (x : Slice) (suspect : Bool)
    (hm : Blocks.le { rad := true, cop := true } bl = true) (hev : Keeps bl s0 s) :
    Keeps bl s0 (State.returnVictim s x suspect) := by
  unfold State.returnVictim
  repeat' first
    | exact Blocks.le_trans rfl hm
    | with_reducible apply State.modTrx_fr
    | with_reducible apply State.modUnit_fr
    | with_reducible apply keeps_ite
    | (with_reducible apply keeps_mk (a := { rad := true, cop := true }) hm; dsimp only [cond_true, cond_false] <;> exact rfl; with_reducible assumption)

theorem State.cutSlice_fr {bl : Blocks} {s0 : State} {s : State} (icause : Nat) (x : Slice)
    (hm : Blocks.le { rad := true, evt := true, cop := true } bl = true) (hev : Keeps bl s0 s) :
    Keeps bl s0 (State.cutSlice s icause x) := by
  unfold State.cutSlice
  repeat' first
    | with_reducible assumption
    | exact Blocks.le_trans rfl hm
    | with_reducible apply State.sliceEnded_fr
    | with_reducible apply keeps_ite
    | (with_reducible apply keeps_mk (a := { rad := true, evt := true, cop := true }) hm; dsimp only [cond_true, cond_false] <;> exact rfl; (first | with_reducible assumption | with_reducible apply State.returnVictim_fr))

theorem State.cutSlices_fr {bl : Blocks} {s0 : State} {s : State} (icause : Nat) (p : Slice → Bool)
    (hm : Blocks.le { rad := true, evt := true, cop := true } bl = true) (hev : Keeps bl s0 s) :
    Keeps bl s0 (State.cutSlices s icause p) := by
  unfold State.cutSlices
  repeat' first
    | with_reducible assumption
    | refine fun (_ : Keeps _ _ _) => ?_
    | with_reducible apply keeps_forEach
    | with_reducible apply State.cutSlice_fr
    | intro x

theorem State.handTo_fr {bl : Blocks} {s0 : State} {s : State} (u : UnitId) (carrier : Nat)
    (hm : Blocks.le { mtr := true, rad := true, drv := true, can := true, mon := true } bl = true) (hev : Keeps bl s0 s) :
    Keeps bl s0 (State.handTo s u carrier) := by
  unfold State.handTo
  repeat' first
    | with_reducible assumption
    | exact Blocks.le_trans rfl hm
    | with_reducible apply keeps_ite
    | (with_reducible apply keeps_mk (a := { mtr := true, rad := true, drv := true, can := true, mon := true }) hm; dsimp only [cond_true, cond_false] <;> exact rfl; (first | with_reducible assumption | with_reducible apply State.endTest_fr | split))

end Sys2Proof.Machine
end

