-- ==== Sys2Proof/Laws/FrKeys.lean ====
section
/-! SUPPORT. Every operation of Machine/Keys.lean keeps what it does not name (Safety.lean). -/

set_option Elab.async false

namespace Sys2Proof.Machine

theorem State.keyResult_fr {bl : Blocks} {s0 : State} {s : State} (op : KeyOp) (r : SlotRule)
    (hm : Blocks.le { freeIdx := true } bl = true) (hev : Keeps bl s0 s) :
    Keeps bl s0 (State.keyResult s op r).2 := by
  unfold State.keyResult
  repeat' first
    | with_reducible assumption
    | with_reducible apply State.drawRandom_fr
    | (with_reducible apply keeps_mk (a := { freeIdx := true }) hm; dsimp only [cond_true, cond_false] <;> exact rfl; split)

theorem State.keyResult_keq {bl : Blocks} {s0 sx : State} {s : State} {op : KeyOp} {r : SlotRule} {qx : SlotSt} (e : (State.keyResult s op r) = (qx, sx))
    (hm : Blocks.le { freeIdx := true } bl = true) (hev : Keeps bl s0 s) : Keeps bl s0 sx := by
  have g := State.keyResult_fr op r hm hev
  rw [e] at g
  exact g

theorem State.refuseKey_fr {bl : Blocks} {s0 : State} {s : State} (w : Writer) (slot : Nat) (op : KeyOp) (reason : Reason)
    (hm : Blocks.le { evt := true, key := true, way := true } bl = true) (hev : Keeps bl s0 s) :
    Keeps bl s0 (State.refuseKey s w slot op reason) := by
  unfold State.refuseKey
  repeat' first
    | exact Blocks.le_trans rfl hm
    | with_reducible apply State.recordKey_fr
    | (with_reducible apply keeps_mk (a := { evt := true, key := true, way := true }) hm; dsimp only [cond_true, cond_false] <;> exact rfl; with_reducible assumption)

theorem State.keyCommand_fr {bl : Blocks} {s0 : State} {s : State} (w : Writer) (slot : Nat) (op : KeyOp)
    (hm : Blocks.le { evt := true, key := true, way := true, freeIdx := true } bl = true) (hev : Keeps bl s0 s) :
    Keeps bl s0 (State.keyCommand s w slot op).1 := by
  unfold State.keyCommand
  repeat' first
    | with_reducible assumption
    | exact Blocks.le_trans rfl hm
    | with_reducible apply State.refuseKey_fr
    | with_reducible apply keeps_ite_fst
    | (with_reducible apply keeps_mk (a := { evt := true, key := true, way := true, freeIdx := true }) hm; dsimp only [cond_true, cond_false] <;> exact rfl; (first | with_reducible apply State.keyResult_fr | split))

theorem State.keyCommand_keq {bl : Blocks} {s0 sx : State} {s : State} {w : Writer} {slot : Nat} {op : KeyOp} {qx : Reason} (e : (State.keyCommand s w slot op) = (sx, qx))
    (hm : Blocks.le { evt := true, key := true, way := true, freeIdx := true } bl = true) (hev : Keeps bl s0 s) : Keeps bl s0 sx := by
  have g := State.keyCommand_fr w slot op hm hev
  rw [e] at g
  exact g

theorem execKeyWrite_fr {bl : Blocks} {s0 s1 : State} (slot : Fin 64) (w : Writer) {s : State} (e : execKeyWrite slot w s = .next s1)
    (hm : Blocks.le { evt := true, key := true, way := true, freeIdx := true } bl = true) (hev : Keeps bl s0 s) : Keeps bl s0 s1 := by
  unfold execKeyWrite at e
  refine keeps_next e ?_
  repeat' first
    | with_reducible assumption
    | refine fun (_ : Keeps _ _ _) => ?_
    | with_reducible apply keeps_whenLive
    | with_reducible apply State.keyCommand_fr
    | intro x

theorem execKeyDerive_fr {bl : Blocks} {s0 s1 : State} (slot : Fin 64) (w : Writer) {s : State} (e : execKeyDerive slot w s = .next s1)
    (hm : Blocks.le { evt := true, key := true, way := true, freeIdx := true } bl = true) (hev : Keeps bl s0 s) : Keeps bl s0 s1 := by
  unfold execKeyDerive at e
  refine keeps_next e ?_
  repeat' first
    | with_reducible assumption
    | refine fun (_ : Keeps _ _ _) => ?_
    | with_reducible apply keeps_whenLive
    | with_reducible apply State.keyCommand_fr
    | intro x

theorem execKeyGenerate_fr {bl : Blocks} {s0 s1 : State} (slot : Fin 64) (w : Writer) {s : State} (e : execKeyGenerate slot w s = .next s1)
    (hm : Blocks.le { evt := true, key := true, way := true, freeIdx := true } bl = true) (hev : Keeps bl s0 s) : Keeps bl s0 s1 := by
  unfold execKeyGenerate at e
  refine keeps_next e ?_
  repeat' first
    | with_reducible assumption
    | refine fun (_ : Keeps _ _ _) => ?_
    | with_reducible apply keeps_whenLive
    | with_reducible apply State.keyCommand_fr
    | intro x

theorem execKeyErase_fr {bl : Blocks} {s0 s1 : State} (slot : Fin 64) (w : Writer) {s : State} (e : execKeyErase slot w s = .next s1)
    (hm : Blocks.le { evt := true, key := true, way := true, freeIdx := true } bl = true) (hev : Keeps bl s0 s) : Keeps bl s0 s1 := by
  unfold execKeyErase at e
  refine keeps_next e ?_
  repeat' first
    | with_reducible assumption
    | refine fun (_ : Keeps _ _ _) => ?_
    | with_reducible apply keeps_whenLive
    | with_reducible apply State.keyCommand_fr
    | intro x

theorem State.deriveGroves_fr {bl : Blocks} {s0 : State} {s : State} (half root generation : Nat)
    (hm : Blocks.le { key := true } bl = true) (hev : Keeps bl s0 s) :
    Keeps bl s0 (State.deriveGroves s half root generation) := by
  unfold State.deriveGroves
  repeat' first
    | with_reducible assumption
    | refine fun (_ : Keeps _ _ _) => ?_
    | with_reducible apply keeps_forEach
    | with_reducible apply State.setSlot_fr
    | intro x

theorem State.generateRoot_fr {bl : Blocks} {s0 : State} {s : State} (root : Nat)
    (hm : Blocks.le { key := true, freeIdx := true } bl = true) (hev : Keeps bl s0 s) :
    Keeps bl s0 (State.generateRoot s root) := by
  unfold State.generateRoot
  repeat' first
    | with_reducible assumption
    | exact Blocks.le_trans rfl hm
    | with_reducible apply State.drawRandom_fr
    | with_reducible apply State.setSlot_fr

theorem State.regrant_fr {bl : Blocks} {s0 : State} {s : State} (n : NodeRec) (effective : Cn) (generation : Nat)
    (hm : Blocks.le { rad := true, node := true } bl = true) (hev : Keeps bl s0 s) :
    Keeps bl s0 (State.regrant s n effective generation) := by
  unfold State.regrant
  repeat' first
    | with_reducible assumption
    | exact Blocks.le_trans rfl hm
    | with_reducible apply State.modNode_fr
    | with_reducible apply State.sendNode_fr

theorem State.startRotation_fr {bl : Blocks} {s0 : State} {s : State} (effective : Cn) (role : Role)
    (hm : Blocks.le { rad := true, node := true, evt := true, key := true, way := true, freeIdx := true } bl = true) (hev : Keeps bl s0 s) :
    Keeps bl s0 (State.startRotation s effective role) := by
  unfold State.startRotation
  repeat' first
    | with_reducible assumption
    | exact Blocks.le_trans rfl hm
    | refine fun (_ : Keeps _ _ _) => ?_
    | with_reducible apply keeps_forEach
    | with_reducible apply State.generateRoot_fr
    | with_reducible apply State.post_fr
    | with_reducible apply State.recordKey_fr
    | with_reducible apply State.regrant_fr
    | (with_reducible apply keeps_mk (a := { rad := true, node := true, evt := true, key := true, way := true, freeIdx := true }) hm; dsimp only [cond_true, cond_false] <;> exact rfl; with_reducible apply State.deriveGroves_fr)
    | intro x

theorem State.rotateGrove_fr {bl : Blocks} {s0 : State} {s : State} (w : Writer)
    (hm : Blocks.le { rad := true, node := true, evt := true, key := true, way := true, regs := true, freeIdx := true } bl = true) (hev : Keeps bl s0 s) :
    Keeps bl s0 (State.rotateGrove s w).1 := by
  unfold State.rotateGrove
  repeat' first
    | with_reducible assumption
    | exact Blocks.le_trans rfl hm
    | with_reducible apply State.refuseKey_fr
    | with_reducible apply State.setReg_fr
    | with_reducible apply State.startRotation_fr
    | with_reducible apply keeps_ite_fst

theorem State.rotateGrove_keq {bl : Blocks} {s0 sx : State} {s : State} {w : Writer} {qx : Reason} (e : (State.rotateGrove s w) = (sx, qx))
    (hm : Blocks.le { rad := true, node := true, evt := true, key := true, way := true, regs := true, freeIdx := true } bl = true) (hev : Keeps bl s0 s) : Keeps bl s0 sx := by
  have g := State.rotateGrove_fr w hm hev
  rw [e] at g
  exact g

theorem execRotateGrove_fr {bl : Blocks} {s0 s1 : State} (w : Writer) {s : State} (e : execRotateGrove w s = .next s1)
    (hm : Blocks.le { rad := true, node := true, evt := true, key := true, way := true, regs := true, freeIdx := true } bl = true) (hev : Keeps bl s0 s) : Keeps bl s0 s1 := by
  unfold execRotateGrove at e
  refine keeps_next e ?_
  repeat' first
    | with_reducible assumption
    | refine fun (_ : Keeps _ _ _) => ?_
    | with_reducible apply keeps_whenLive
    | with_reducible apply State.rotateGrove_fr
    | intro x

theorem State.selfRotate_fr {bl : Blocks} {s0 : State} {s : State}
    (hm : Blocks.le { rad := true, node := true, evt := true, key := true, way := true, freeIdx := true } bl = true) (hev : Keeps bl s0 s) :
    Keeps bl s0 (State.selfRotate s) := by
  unfold State.selfRotate
  repeat' first
    | with_reducible assumption
    | with_reducible apply State.startRotation_fr
    | with_reducible apply keeps_ite

theorem State.noteUngranted_fr {bl : Blocks} {s0 : State} {s : State}
    (hm : Blocks.le { evt := true, way := true } bl = true) (hev : Keeps bl s0 s) :
    Keeps bl s0 (State.noteUngranted s) := by
  unfold State.noteUngranted
  repeat' first
    | with_reducible assumption
    | refine fun (_ : Keeps _ _ _) => ?_
    | with_reducible apply keeps_forEach
    | with_reducible apply State.recordNode_fr
    | with_reducible apply keeps_ite
    | (with_reducible apply keeps_mk (a := { evt := true, way := true }) hm; dsimp only [cond_true, cond_false] <;> exact rfl; split)
    | intro x

theorem State.switchGroveKeys_fr {bl : Blocks} {s0 : State} {s : State}
    (hm : Blocks.le { rad := true, key := true } bl = true) (hev : Keeps bl s0 s) :
    Keeps bl s0 (State.switchGroveKeys s) := by
  unfold State.switchGroveKeys
  repeat' first
    | with_reducible assumption
    | exact Blocks.le_trans rfl hm
    | with_reducible apply State.witherChildren_fr
    | with_reducible apply keeps_ite
    | (with_reducible apply keeps_mk (a := { rad := true, key := true }) hm; dsimp only [cond_true, cond_false] <;> exact rfl; (first | with_reducible apply State.emptySlot_fr | split))

theorem State.applyKey_fr {bl : Blocks} {s0 : State} {s : State} (r : KeyRun)
    (hm : Blocks.le { key := true } bl = true) (hev : Keeps bl s0 s) :
    Keeps bl s0 (State.applyKey s r) := by
  unfold State.applyKey
  repeat' first
    | with_reducible assumption
    | with_reducible apply State.emptySlot_fr
    | with_reducible apply State.invalidate_fr
    | with_reducible apply State.setSlot_fr
    | with_reducible apply keeps_ite
    | (with_reducible apply keeps_mk (a := { key := true }) hm; dsimp only [cond_true, cond_false] <;> exact rfl; split)

theorem State.completeKey_fr {bl : Blocks} {s0 : State} {s : State} (reason : Reason)
    (hm : Blocks.le { evt := true, key := true, way := true } bl = true) (hev : Keeps bl s0 s) :
    Keeps bl s0 (State.completeKey s reason) := by
  unfold State.completeKey
  repeat' first
    | with_reducible assumption
    | exact Blocks.le_trans rfl hm
    | with_reducible apply State.applyKey_fr
    | with_reducible apply State.post_fr
    | with_reducible apply State.recordKey_fr
    | (with_reducible apply keeps_mk (a := { evt := true, key := true, way := true }) hm; dsimp only [cond_true, cond_false] <;> exact rfl; (first | with_reducible assumption | with_reducible apply keeps_ite | split))

theorem execKeyCommandComplete_fr {bl : Blocks} {s0 s1 : State} {s : State} (e : execKeyCommandComplete s = .next s1)
    (hm : Blocks.le { evt := true, key := true, way := true } bl = true) (hev : Keeps bl s0 s) : Keeps bl s0 s1 := by
  unfold execKeyCommandComplete at e
  refine keeps_next e ?_
  repeat' first
    | with_reducible assumption
    | refine fun (_ : Keeps _ _ _) => ?_
    | with_reducible apply keeps_whenLive
    | with_reducible apply State.completeKey_fr
    | intro x

theorem execKeySlotExpiry_fr {bl : Blocks} {s0 s1 : State} (slot : Fin 64) {s : State} (e : execKeySlotExpiry slot s = .next s1)
    (hm : Blocks.le { key := true } bl = true) (hev : Keeps bl s0 s) : Keeps bl s0 s1 := by
  unfold execKeySlotExpiry at e
  refine keeps_next e ?_
  repeat' first
    | with_reducible assumption
    | refine fun (_ : Keeps _ _ _) => ?_
    | with_reducible apply keeps_iff
    | with_reducible apply keeps_whenLive
    | with_reducible apply State.emptySlot_fr
    | intro x

theorem State.attest_fr {bl : Blocks} {s0 : State} {s : State} (chal : List Byte)
    (hm : Blocks.le { key := true } bl = true) (hev : Keeps bl s0 s) :
    Keeps bl s0 (State.attest s chal) := by
  unfold State.attest
  repeat' first
    | (with_reducible apply keeps_mk (a := { key := true }) hm; dsimp only [cond_true, cond_false] <;> exact rfl; with_reducible assumption)

theorem execAttest_fr {bl : Blocks} {s0 s1 : State} (w : Writer) {s : State} (e : execAttest w s = .next s1)
    (hm : Blocks.le { key := true } bl = true) (hev : Keeps bl s0 s) : Keeps bl s0 s1 := by
  unfold execAttest at e
  refine keeps_next e ?_
  repeat' first
    | with_reducible assumption
    | refine fun (_ : Keeps _ _ _) => ?_
    | with_reducible apply keeps_iff
    | with_reducible apply keeps_whenLive
    | with_reducible apply State.attest_fr
    | intro x

theorem State.armTamper_fr {bl : Blocks} {s0 : State} {s : State} (n : Nat)
    (hm : Blocks.le { key := true } bl = true) (hev : Keeps bl s0 s) :
    Keeps bl s0 (State.armTamper s n) := by
  unfold State.armTamper
  repeat' first
    | (with_reducible apply keeps_mk (a := { key := true }) hm; dsimp only [cond_true, cond_false] <;> exact rfl; with_reducible assumption)

end Sys2Proof.Machine
end

