-- ==== Sys2Proof/Laws/FrUpdOps.lean ====
section
/-! SUPPORT. Every operation of Machine/UpdOps.lean keeps what it does not name (Safety.lean). -/

set_option Elab.async false

namespace Sys2Proof.Machine

theorem State.modPromise_fr {bl : Blocks} {s0 : State} {s : State} (id : Nat) (f : Promise → Promise)
    (hm : Blocks.le { adm := true } bl = true) (hev : Keeps bl s0 s) :
    Keeps bl s0 (State.modPromise s id f) := by
  unfold State.modPromise
  repeat' first
    | (with_reducible apply keeps_mk (a := { adm := true }) hm; dsimp only [cond_true, cond_false] <;> exact rfl; with_reducible assumption)

theorem State.journalEntry_fr {bl : Blocks} {s0 : State} {s : State} (op phase stand flagBits mseq data0 data1 : Nat) (digest : BitVec 256)
    (hm : Blocks.le { evt := true, upd := true, way := true } bl = true) (hev : Keeps bl s0 s) :
    Keeps bl s0 (State.journalEntry s op phase stand flagBits mseq data0 data1 digest) := by
  unfold State.journalEntry
  repeat' first
    | (with_reducible apply keeps_mk (a := { evt := true, upd := true, way := true }) hm; dsimp only [cond_true, cond_false] <;> exact rfl; with_reducible assumption)

theorem State.journal_fr {bl : Blocks} {s0 : State} {s : State} (op phase stand flagBits mseq data0 data1 : Nat) (digest : BitVec 256)
    (hm : Blocks.le { evt := true, upd := true, way := true } bl = true) (hev : Keeps bl s0 s) :
    Keeps bl s0 (State.journal s op phase stand flagBits mseq data0 data1 digest) := by
  unfold State.journal
  repeat' first
    | with_reducible assumption
    | exact Blocks.le_trans rfl hm
    | with_reducible apply State.journalEntry_fr
    | with_reducible apply State.postRecord_fr

theorem State.modCaravan_fr {bl : Blocks} {s0 : State} {s : State} (id : Nat) (f : Caravan → Caravan)
    (hm : Blocks.le { upd := true } bl = true) (hev : Keeps bl s0 s) :
    Keeps bl s0 (State.modCaravan s id f) := by
  unfold State.modCaravan
  repeat' first
    | (with_reducible apply keeps_mk (a := { upd := true }) hm; dsimp only [cond_true, cond_false] <;> exact rfl; with_reducible assumption)

theorem State.caravanPhase_fr {bl : Blocks} {s0 : State} {s : State} (id phase : Nat)
    (hm : Blocks.le { evt := true, upd := true, way := true } bl = true) (hev : Keeps bl s0 s) :
    Keeps bl s0 (State.caravanPhase s id phase) := by
  unfold State.caravanPhase
  repeat' first
    | with_reducible assumption
    | with_reducible apply State.journal_fr
    | (with_reducible apply keeps_mk (a := { evt := true, upd := true, way := true }) hm; dsimp only [cond_true, cond_false] <;> exact rfl; split)

theorem State.caravanSent_fr {bl : Blocks} {s0 : State} {s : State} (promise : Nat)
    (hm : Blocks.le { evt := true, upd := true, way := true } bl = true) (hev : Keeps bl s0 s) :
    Keeps bl s0 (State.caravanSent s promise) := by
  unfold State.caravanSent
  repeat' first
    | with_reducible assumption
    | exact Blocks.le_trans rfl hm
    | with_reducible apply State.caravanPhase_fr
    | with_reducible apply State.modCaravan_fr
    | with_reducible apply keeps_ite
    | (with_reducible apply keeps_mk (a := { evt := true, upd := true, way := true }) hm; dsimp only [cond_true, cond_false] <;> exact rfl; split)

theorem State.sessionPhase_fr {bl : Blocks} {s0 : State} {s : State} (phase : Nat)
    (hm : Blocks.le { evt := true, upd := true, way := true } bl = true) (hev : Keeps bl s0 s) :
    Keeps bl s0 (State.sessionPhase s phase) := by
  unfold State.sessionPhase
  repeat' first
    | with_reducible assumption
    | with_reducible apply State.journal_fr
    | (with_reducible apply keeps_mk (a := { evt := true, upd := true, way := true }) hm; dsimp only [cond_true, cond_false] <;> exact rfl; (first | with_reducible assumption | split))

theorem State.stepPhase_fr {bl : Blocks} {s0 : State} {s : State} (phase : Nat)
    (hm : Blocks.le { evt := true, upd := true, way := true } bl = true) (hev : Keeps bl s0 s) :
    Keeps bl s0 (State.stepPhase s phase) := by
  unfold State.stepPhase
  repeat' first
    | with_reducible assumption
    | with_reducible apply State.journal_fr
    | with_reducible apply State.sessionPhase_fr
    | (with_reducible apply keeps_mk (a := { evt := true, upd := true, way := true }) hm; dsimp only [cond_true, cond_false] <;> exact rfl; (first | with_reducible assumption | split))

theorem State.modActivation_fr {bl : Blocks} {s0 : State} {s : State} (f : Activation → Activation)
    (hm : Blocks.le { upd := true } bl = true) (hev : Keeps bl s0 s) :
    Keeps bl s0 (State.modActivation s f) := by
  unfold State.modActivation
  repeat' first
    | (with_reducible apply keeps_mk (a := { upd := true }) hm; dsimp only [cond_true, cond_false] <;> exact rfl; with_reducible assumption)

theorem State.openReason_fr {bl : Blocks} {s0 : State} {s : State}
    (hm : Blocks.le { freeIdx := true } bl = true) (hev : Keeps bl s0 s) :
    Keeps bl s0 (State.openReason s).2 := by
  unfold State.openReason
  repeat' first | with_reducible assumption | exact Blocks.le_trans rfl hm | with_reducible apply State.drawNat_fr

theorem State.openReason_keq {bl : Blocks} {s0 sx : State} {s : State} {qx : Reason} (e : (State.openReason s) = (qx, sx))
    (hm : Blocks.le { freeIdx := true } bl = true) (hev : Keeps bl s0 s) : Keeps bl s0 sx := by
  have g := State.openReason_fr  hm hev
  rw [e] at g
  exact g

end Sys2Proof.Machine
end

