-- ==== Sys2Proof/Laws/FrAirOps.lean ====
section
/-! SUPPORT. Every operation of Machine/AirOps.lean keeps what it does not name (Safety.lean). -/

set_option Elab.async false

namespace Sys2Proof.Machine

theorem State.markRadioLoss_fr {bl : Blocks} {s0 : State} {s : State} (g : Nat)
    (hm : Blocks.le { adm := true } bl = true) (hev : Keeps bl s0 s) :
    Keeps bl s0 (State.markRadioLoss s g) := by
  unfold State.markRadioLoss
  repeat' first
    | (with_reducible apply keeps_mk (a := { adm := true }) hm; dsimp only [cond_true, cond_false] <;> exact rfl; with_reducible assumption)

theorem State.markSilent_fr {bl : Blocks} {s0 : State} {s : State} (id short : Nat)
    (hm : Blocks.le { node := true, adm := true } bl = true) (hev : Keeps bl s0 s) :
    Keeps bl s0 (State.markSilent s id short) := by
  unfold State.markSilent
  repeat' first
    | exact Blocks.le_trans rfl hm
    | with_reducible apply State.modPromise_fr
    | (with_reducible apply keeps_mk (a := { node := true, adm := true }) hm; dsimp only [cond_true, cond_false] <;> exact rfl; with_reducible assumption)

theorem State.takeCounter_fr {bl : Blocks} {s0 : State} {s : State} (g : Nat)
    (hm : Blocks.le { rad := true } bl = true) (hev : Keeps bl s0 s) :
    Keeps bl s0 (State.takeCounter s g).2 := by
  unfold State.takeCounter
  repeat' first
    | (with_reducible apply keeps_mk (a := { rad := true }) hm; dsimp only [cond_true, cond_false] <;> exact rfl; with_reducible assumption)

theorem State.takeCounter_keq {bl : Blocks} {s0 sx : State} {s : State} {g : Nat} {qx : Nat} (e : (State.takeCounter s g) = (qx, sx))
    (hm : Blocks.le { rad := true } bl = true) (hev : Keeps bl s0 s) : Keeps bl s0 sx := by
  have g := State.takeCounter_fr g hm hev
  rw [e] at g
  exact g

theorem State.sendBeacon_fr {bl : Blocks} {s0 : State} {s : State} (t asn : Nat) (busy : List Nat)
    (hm : Blocks.le { time := true, rad := true, evt := true, ford := true, out := true } bl = true) (hev : Keeps bl s0 s) :
    Keeps bl s0 (State.sendBeacon s t asn busy) := by
  unfold State.sendBeacon
  repeat' first
    | with_reducible assumption
    | exact Blocks.le_trans rfl hm
    | with_reducible apply State.addDuty_fr
    | with_reducible apply State.emit_fr
    | with_reducible apply State.modTrx_fr
    | with_reducible apply State.postTile_fr
    | with_reducible apply keeps_ite
    | (with_reducible apply keeps_mk (a := { time := true, rad := true, evt := true, ford := true, out := true }) hm; dsimp only [cond_true, cond_false] <;> exact rfl; (first | with_reducible apply State.modTrx_fr | with_reducible apply State.takeCounter_fr))

theorem State.floodedItem_fr {bl : Blocks} {s0 : State} {s : State} (g id : Nat)
    (hm : Blocks.le { node := true } bl = true) (hev : Keeps bl s0 s) :
    Keeps bl s0 (State.floodedItem s g id) := by
  unfold State.floodedItem
  repeat' first
    | (with_reducible apply keeps_mk (a := { node := true }) hm; dsimp only [cond_true, cond_false] <;> exact rfl; with_reducible assumption)

theorem State.serveGrove_fr {bl : Blocks} {s0 : State} {s : State} (id g : Nat)
    (hm : Blocks.le { adm := true } bl = true) (hev : Keeps bl s0 s) :
    Keeps bl s0 (State.serveGrove s id g) := by
  unfold State.serveGrove
  repeat' first | with_reducible assumption | with_reducible apply State.modPromise_fr

theorem State.sentBooked_fr {bl : Blocks} {s0 : State} {s : State} (h : Held)
    (hm : Blocks.le { adm := true, evt := true, upd := true, way := true } bl = true) (hev : Keeps bl s0 s) :
    Keeps bl s0 (State.sentBooked s h) := by
  unfold State.sentBooked
  repeat' first
    | with_reducible assumption
    | exact Blocks.le_trans rfl hm
    | with_reducible apply State.caravanSent_fr
    | with_reducible apply keeps_ite
    | (with_reducible apply keeps_mk (a := { adm := true, evt := true, upd := true, way := true }) hm; dsimp only [cond_true, cond_false] <;> exact rfl; (first | with_reducible assumption | split))

theorem State.afterSend_fr {bl : Blocks} {s0 : State} {s : State} (i : Nat) (h : Held)
    (hm : Blocks.le { rad := true, node := true, adm := true } bl = true) (hev : Keeps bl s0 s) :
    Keeps bl s0 (State.afterSend s i h) := by
  unfold State.afterSend
  repeat' first
    | exact Blocks.le_trans rfl hm
    | with_reducible apply State.floodedItem_fr
    | with_reducible apply State.serveGrove_fr
    | with_reducible apply keeps_ite
    | (with_reducible apply keeps_mk (a := { rad := true, node := true, adm := true }) hm; dsimp only [cond_true, cond_false] <;> exact rfl; (first | with_reducible assumption | split))

theorem State.takesCell_fr {bl : Blocks} {s0 : State} {s : State} (g asn : Nat) (h : Held)
    (hm : Blocks.le { adm := true } bl = true) (hev : Keeps bl s0 s) :
    Keeps bl s0 (State.takesCell s g asn h) := by
  unfold State.takesCell
  repeat' first
    | with_reducible assumption
    | with_reducible apply State.modPromise_fr
    | with_reducible apply keeps_ite
    | (with_reducible apply keeps_mk (a := { adm := true }) hm; dsimp only [cond_true, cond_false] <;> exact rfl; split)

theorem State.transmit_fr {bl : Blocks} {s0 : State} {s : State} (t asn i : Nat) (h : Held) (busy : List Nat)
    (hm : Blocks.le { rad := true, node := true, adm := true, evt := true, upd := true, way := true, out := true } bl = true) (hev : Keeps bl s0 s) :
    Keeps bl s0 (State.transmit s t asn i h busy) := by
  unfold State.transmit
  repeat' first
    | with_reducible assumption
    | exact Blocks.le_trans rfl hm
    | with_reducible apply State.addDuty_fr
    | with_reducible apply State.afterSend_fr
    | with_reducible apply State.emit_fr
    | with_reducible apply State.modTrx_fr
    | with_reducible apply State.postTile_fr
    | with_reducible apply State.sentBooked_fr
    | with_reducible apply State.takeCounter_fr
    | with_reducible apply State.takesCell_fr
    | with_reducible apply keeps_ite
    | (with_reducible apply keeps_mk (a := { rad := true, node := true, adm := true, evt := true, upd := true, way := true, out := true }) hm; dsimp only [cond_true, cond_false] <;> exact rfl; (first | with_reducible apply State.modTrx_fr | with_reducible apply keeps_ite | split))

theorem State.runTrx_fr {bl : Blocks} {s0 : State} {s : State} (asn : Nat) (busy plan : List Nat) (t : Nat)
    (hm : Blocks.le { time := true, rad := true, node := true, adm := true, evt := true, ford := true, upd := true, way := true, out := true } bl = true) (hev : Keeps bl s0 s) :
    Keeps bl s0 (State.runTrx s asn busy plan t) := by
  unfold State.runTrx
  repeat' first
    | with_reducible assumption
    | exact Blocks.le_trans rfl hm
    | with_reducible apply State.modTrx_fr
    | with_reducible apply State.sendBeacon_fr
    | with_reducible apply State.transmit_fr
    | with_reducible apply keeps_ite
    | (with_reducible apply keeps_mk (a := { time := true, rad := true, node := true, adm := true, evt := true, ford := true, upd := true, way := true, out := true }) hm; dsimp only [cond_true, cond_false] <;> exact rfl; split)

theorem State.unacked_fr {bl : Blocks} {s0 : State} {s : State} (h : Held)
    (hm : Blocks.le { rad := true, node := true, adm := true, evt := true } bl = true) (hev : Keeps bl s0 s) :
    Keeps bl s0 (State.unacked s h) := by
  unfold State.unacked
  repeat' first
    | with_reducible assumption
    | exact Blocks.le_trans rfl hm
    | with_reducible apply State.markSilent_fr
    | with_reducible apply State.modTrx_fr
    | with_reducible apply State.postTile_fr
    | (with_reducible apply keeps_mk (a := { rad := true, node := true, adm := true, evt := true }) hm; dsimp only [cond_true, cond_false] <;> exact rfl; split)

theorem State.expireAcks_fr {bl : Blocks} {s0 : State} {s : State}
    (hm : Blocks.le { rad := true, node := true, adm := true, evt := true } bl = true) (hev : Keeps bl s0 s) :
    Keeps bl s0 (State.expireAcks s) := by
  unfold State.expireAcks
  repeat' first
    | with_reducible assumption
    | refine fun (_ : Keeps _ _ _) => ?_
    | with_reducible apply keeps_forEach
    | with_reducible apply State.unacked_fr
    | (with_reducible apply keeps_mk (a := { rad := true, node := true, adm := true, evt := true }) hm; dsimp only [cond_true, cond_false] <;> exact rfl; with_reducible assumption)
    | intro x

theorem State.dropPasses_fr {bl : Blocks} {s0 : State} {s : State} (asn : Nat)
    (hm : Blocks.le { rad := true } bl = true) (hev : Keeps bl s0 s) :
    Keeps bl s0 (State.dropPasses s asn) := by
  unfold State.dropPasses
  repeat' first
    | (with_reducible apply keeps_mk (a := { rad := true }) hm; dsimp only [cond_true, cond_false] <;> exact rfl; with_reducible assumption)

theorem State.takeOver_fr {bl : Blocks} {s0 : State} {s : State}
    (hm : Blocks.le { rad := true, evt := true } bl = true) (hev : Keeps bl s0 s) :
    Keeps bl s0 (State.takeOver s) := by
  unfold State.takeOver
  repeat' first
    | with_reducible assumption
    | exact Blocks.le_trans rfl hm
    | with_reducible apply State.trxChanged_fr
    | (with_reducible apply keeps_mk (a := { rad := true, evt := true }) hm; dsimp only [cond_true, cond_false] <;> exact rfl; (first | with_reducible assumption | split))

theorem State.checkCounters_fr {bl : Blocks} {s0 : State} {s : State}
    (hm : Blocks.le { rad := true, node := true, evt := true, key := true, way := true, freeIdx := true } bl = true) (hev : Keeps bl s0 s) :
    Keeps bl s0 (State.checkCounters s) := by
  unfold State.checkCounters
  repeat' first
    | with_reducible assumption
    | with_reducible apply State.selfRotate_fr
    | with_reducible apply keeps_ite

theorem State.slotStart_fr {bl : Blocks} {s0 : State} {s : State} (busy : List Nat)
    (hm : Blocks.le { time := true, rad := true, node := true, adm := true, evt := true, ford := true, key := true, upd := true, way := true, out := true, freeIdx := true } bl = true) (hev : Keeps bl s0 s) :
    Keeps bl s0 (State.slotStart s busy) := by
  unfold State.slotStart
  repeat' first
    | with_reducible assumption
    | exact Blocks.le_trans rfl hm
    | refine fun (_ : Keeps _ _ _) => ?_
    | with_reducible apply keeps_forEach
    | with_reducible apply State.checkCounters_fr
    | with_reducible apply State.dropPasses_fr
    | with_reducible apply State.expireAcks_fr
    | with_reducible apply State.runTrx_fr
    | with_reducible apply State.takeOver_fr
    | intro x

end Sys2Proof.Machine
end

