-- ==== Sys2Proof/Laws/FrNodeOps.lean ====
section
/-! SUPPORT. Every operation of Machine/NodeOps.lean keeps what it does not name (Safety.lean). -/

set_option Elab.async false

namespace Sys2Proof.Machine

theorem State.sendItem_fr {bl : Blocks} {s0 : State} {s : State} (eui id : Nat) (content : List Byte) (effective : Cn)
    (hm : Blocks.le { rad := true, node := true } bl = true) (hev : Keeps bl s0 s) :
    Keeps bl s0 (State.sendItem s eui id content effective) := by
  unfold State.sendItem
  repeat' first
    | with_reducible assumption
    | exact Blocks.le_trans rfl hm
    | refine fun (_ : Keeps _ _ _) => ?_
    | with_reducible apply keeps_forEach
    | with_reducible apply State.modNode_fr
    | with_reducible apply State.sendNode_fr
    | (with_reducible apply keeps_mk (a := { rad := true, node := true }) hm; dsimp only [cond_true, cond_false] <;> exact rfl; split)
    | intro x

theorem State.bringItem_fr {bl : Blocks} {s0 : State} {s : State} (eui id : Nat) (content : Option (List Byte)) (effective : Cn)
    (hm : Blocks.le { rad := true, node := true } bl = true) (hev : Keeps bl s0 s) :
    Keeps bl s0 (State.bringItem s eui id content effective) := by
  unfold State.bringItem
  repeat' first
    | with_reducible assumption
    | with_reducible apply State.sendItem_fr
    | with_reducible apply keeps_ite
    | (with_reducible apply keeps_mk (a := { rad := true, node := true }) hm; dsimp only [cond_true, cond_false] <;> exact rfl; split)

theorem State.floodItem_fr {bl : Blocks} {s0 : State} {s : State} (g id : Nat) (content : List Byte) (effective : Cn)
    (hm : Blocks.le { rad := true } bl = true) (hev : Keeps bl s0 s) :
    Keeps bl s0 (State.floodItem s g id content effective) := by
  unfold State.floodItem
  repeat' first
    | with_reducible assumption
    | refine fun (_ : Keeps _ _ _) => ?_
    | with_reducible apply keeps_forEach
    | with_reducible apply State.flood_fr
    | intro x

theorem State.configureNode_fr {bl : Blocks} {s0 : State} {s : State} (eui : Nat) (effective : Cn)
    (hm : Blocks.le { rad := true, node := true } bl = true) (hev : Keeps bl s0 s) :
    Keeps bl s0 (State.configureNode s eui effective) := by
  unfold State.configureNode
  repeat' first
    | with_reducible assumption
    | refine fun (_ : Keeps _ _ _) => ?_
    | with_reducible apply keeps_forEach
    | with_reducible apply State.bringItem_fr
    | intro x

theorem State.sendSchedule_fr {bl : Blocks} {s0 : State} {s : State} (eui : Nat)
    (hm : Blocks.le { rad := true, node := true, freeIdx := true } bl = true) (hev : Keeps bl s0 s) :
    Keeps bl s0 (State.sendSchedule s eui) := by
  unfold State.sendSchedule
  repeat' first
    | with_reducible assumption
    | exact Blocks.le_trans rfl hm
    | with_reducible apply State.drawNat_fr
    | with_reducible apply State.modNode_fr
    | with_reducible apply State.sendNode_fr
    | (with_reducible apply keeps_mk (a := { rad := true, node := true, freeIdx := true }) hm; dsimp only [cond_true, cond_false] <;> exact rfl; split)

theorem State.nak_fr {bl : Blocks} {s0 : State} {s : State} (short type seq : Nat) (reason : Reason) (detail : Nat)
    (hm : Blocks.le { rad := true } bl = true) (hev : Keeps bl s0 s) :
    Keeps bl s0 (State.nak s short type seq reason detail) := by
  unfold State.nak
  repeat' first
    | with_reducible assumption
    | with_reducible apply State.sendNode_fr
    | (with_reducible apply keeps_mk (a := { rad := true }) hm; dsimp only [cond_true, cond_false] <;> exact rfl; split)

theorem State.badBody_fr {bl : Blocks} {s0 : State} {s : State} (type : Nat) (m : LinkMsg) (tooLong : Bool)
    (hm : Blocks.le { rad := true, evt := true, way := true } bl = true) (hev : Keeps bl s0 s) :
    Keeps bl s0 (State.badBody s type m tooLong) := by
  unfold State.badBody
  repeat' first
    | with_reducible assumption
    | exact Blocks.le_trans rfl hm
    | with_reducible apply State.nak_fr
    | with_reducible apply State.radViolation_fr
    | with_reducible apply keeps_ite

theorem State.linkMsg_fr {bl : Blocks} {s0 : State} {s : State} (type most : Nat) (m : LinkMsg) (formed : List Byte → Bool) (serve : NodeRec → State → State) (h_serve : ∀ a0 x, Keeps bl s0 x → Keeps bl s0 (serve a0 x))
    (hm : Blocks.le { rad := true, node := true, dim := true, evt := true, way := true } bl = true) (hev : Keeps bl s0 s) :
    Keeps bl s0 (State.linkMsg s type most m formed serve) := by
  unfold State.linkMsg
  repeat' first
    | with_reducible assumption
    | exact Blocks.le_trans rfl hm
    | with_reducible apply State.badBody_fr
    | with_reducible apply State.nodeHeard_fr
    | apply h_serve
    | with_reducible apply keeps_ite
    | (with_reducible apply keeps_mk (a := { rad := true, node := true, dim := true, evt := true, way := true }) hm; dsimp only [cond_true, cond_false] <;> exact rfl; split)

end Sys2Proof.Machine
end

