-- ==== Sys2Proof/Laws/FrDimOps.lean ====
section
/-! SUPPORT. Every operation of Machine/DimOps.lean keeps what it does not name (Safety.lean). -/

set_option Elab.async false

namespace Sys2Proof.Machine

theorem State.modKc_fr {bl : Blocks} {s0 : State} {s : State} (k : Nat) (f : KcSt → KcSt)
    (hm : Blocks.le { dim := true } bl = true) (hev : Keeps bl s0 s) :
    Keeps bl s0 (State.modKc s k f) := by
  unfold State.modKc
  repeat' first
    | (with_reducible apply keeps_mk (a := { dim := true }) hm; dsimp only [cond_true, cond_false] <;> exact rfl; with_reducible assumption)

theorem State.recordKc_fr {bl : Blocks} {s0 : State} {s : State} (k : Nat) (transient : Bool)
    (hm : Blocks.le { evt := true, way := true } bl = true) (hev : Keeps bl s0 s) :
    Keeps bl s0 (State.recordKc s k transient) := by
  unfold State.recordKc
  repeat' first | with_reducible assumption | with_reducible apply State.record_fr

theorem State.fixChange_fr {bl : Blocks} {s0 : State} {s : State} (k : Nat) (cn : Cn) (close : Bool)
    (hm : Blocks.le { dim := true } bl = true) (hev : Keeps bl s0 s) :
    Keeps bl s0 (State.fixChange s k cn close) := by
  unfold State.fixChange
  repeat' first | with_reducible assumption | with_reducible apply State.modKc_fr

theorem State.fixPlans_fr {bl : Blocks} {s0 : State} {s : State}
    (hm : Blocks.le { dim := true } bl = true) (hev : Keeps bl s0 s) :
    Keeps bl s0 (State.fixPlans s) := by
  unfold State.fixPlans
  repeat' first
    | with_reducible assumption
    | refine fun (_ : Keeps _ _ _) => ?_
    | with_reducible apply keeps_forEach
    | with_reducible apply State.fixChange_fr
    | with_reducible apply keeps_ite
    | (refine Prod.forall.2 ?_; dsimp only)
    | intro x

theorem State.kcSettle_fr {bl : Blocks} {s0 : State} {s : State} (k : Nat) (closed transient : Bool)
    (hm : Blocks.le { dim := true, evt := true, way := true } bl = true) (hev : Keeps bl s0 s) :
    Keeps bl s0 (State.kcSettle s k closed transient) := by
  unfold State.kcSettle
  repeat' first
    | with_reducible assumption
    | exact Blocks.le_trans rfl hm
    | with_reducible apply State.modKc_fr
    | with_reducible apply State.recordKc_fr
    | with_reducible apply keeps_ite

theorem State.kcFeedback_fr {bl : Blocks} {s0 : State} {s : State} (k : Nat)
    (hm : Blocks.le { dim := true, evt := true, way := true } bl = true) (hev : Keeps bl s0 s) :
    Keeps bl s0 (State.kcFeedback s k) := by
  unfold State.kcFeedback
  repeat' first
    | with_reducible assumption
    | with_reducible apply State.kcSettle_fr
    | with_reducible apply keeps_ite
    | (with_reducible apply keeps_mk (a := { dim := true, evt := true, way := true }) hm; dsimp only [cond_true, cond_false] <;> exact rfl; split)

theorem State.kcPlanned_fr {bl : Blocks} {s0 : State} {s : State} (k : Nat) (close : Bool)
    (hm : Blocks.le { dim := true, evt := true, way := true } bl = true) (hev : Keeps bl s0 s) :
    Keeps bl s0 (State.kcPlanned s k close) := by
  unfold State.kcPlanned
  repeat' first
    | with_reducible assumption
    | exact hm
    | exact Blocks.le_trans rfl hm
    | refine fun (_ : Keeps _ _ _) => ?_
    | with_reducible apply keeps_iff
    | with_reducible apply keeps_whenLive
    | with_reducible apply keeps_forEach
    | with_reducible apply State.kcFeedback_fr
    | with_reducible apply State.modKc_fr
    | with_reducible apply keeps_ite
    | (with_reducible apply keeps_mk (a := { dim := true, evt := true, way := true }) hm; dsimp only [cond_true, cond_false] <;> exact rfl; (first | with_reducible assumption | exact hm | exact Blocks.le_trans rfl hm | with_reducible apply keeps_iff | with_reducible apply keeps_whenLive | with_reducible apply keeps_forEach | with_reducible apply State.kcFeedback_fr | with_reducible apply State.modKc_fr | with_reducible apply keeps_ite | split))
    | (intro x; refine keeps_cut (l := bl) (s0 := s0) (x := x) ?_ ?_; rotate_left; clear_value x; intro hx; rotate_left; subst x)
    | intro x
    | split
    | lift_lets
    | dsimp only

theorem State.superseded_fr {bl : Blocks} {s0 : State} {s : State} (output : Nat) (cn : Cn)
    (hm : Blocks.le { evt := true, way := true } bl = true) (hev : Keeps bl s0 s) :
    Keeps bl s0 (State.superseded s output cn) := by
  unfold State.superseded
  repeat' first | with_reducible assumption | with_reducible apply State.record_fr

theorem State.kcDue_fr {bl : Blocks} {s0 : State} {s : State}
    (hm : Blocks.le { dim := true, evt := true, way := true } bl = true) (hev : Keeps bl s0 s) :
    Keeps bl s0 (State.kcDue s) := by
  unfold State.kcDue
  repeat' first
    | with_reducible assumption
    | exact Blocks.le_trans rfl hm
    | refine fun (_ : Keeps _ _ _) => ?_
    | with_reducible apply keeps_forEach
    | with_reducible apply State.kcPlanned_fr
    | with_reducible apply State.modKc_fr
    | with_reducible apply State.superseded_fr
    | with_reducible apply keeps_ite
    | (with_reducible apply keeps_mk (a := { dim := true, evt := true, way := true }) hm; dsimp only [cond_true, cond_false] <;> exact rfl; split)
    | (refine Prod.forall.2 ?_; dsimp only)
    | intro x

theorem State.kcSafeOne_fr {bl : Blocks} {s0 : State} {s : State} (k : Nat)
    (hm : Blocks.le { dim := true, evt := true, way := true } bl = true) (hev : Keeps bl s0 s) :
    Keeps bl s0 (State.kcSafeOne s k) := by
  unfold State.kcSafeOne
  repeat' first
    | with_reducible assumption
    | exact hm
    | exact Blocks.le_trans rfl hm
    | refine fun (_ : Keeps _ _ _) => ?_
    | with_reducible apply keeps_iff
    | with_reducible apply keeps_whenLive
    | with_reducible apply keeps_forEach
    | with_reducible apply State.kcPlanned_fr
    | with_reducible apply State.modKc_fr
    | with_reducible apply keeps_ite
    | (with_reducible apply keeps_mk (a := { dim := true, evt := true, way := true }) hm; dsimp only [cond_true, cond_false] <;> exact rfl; (first | with_reducible assumption | exact hm | exact Blocks.le_trans rfl hm | with_reducible apply keeps_iff | with_reducible apply keeps_whenLive | with_reducible apply keeps_forEach | with_reducible apply State.kcPlanned_fr | with_reducible apply State.modKc_fr | with_reducible apply keeps_ite | split))
    | (intro x; refine keeps_cut (l := bl) (s0 := s0) (x := x) ?_ ?_; rotate_left; clear_value x; intro hx; rotate_left; subst x)
    | intro x
    | split
    | lift_lets
    | dsimp only

theorem State.kcReturn_fr {bl : Blocks} {s0 : State} {s : State} (k : Nat)
    (hm : Blocks.le { dim := true, evt := true, way := true } bl = true) (hev : Keeps bl s0 s) :
    Keeps bl s0 (State.kcReturn s k) := by
  unfold State.kcReturn
  repeat' first
    | with_reducible assumption
    | exact hm
    | exact Blocks.le_trans rfl hm
    | refine fun (_ : Keeps _ _ _) => ?_
    | with_reducible apply keeps_iff
    | with_reducible apply keeps_whenLive
    | with_reducible apply keeps_forEach
    | with_reducible apply State.fixChange_fr
    | with_reducible apply State.kcPlanned_fr
    | with_reducible apply State.modKc_fr
    | with_reducible apply keeps_ite
    | (with_reducible apply keeps_mk (a := { dim := true, evt := true, way := true }) hm; dsimp only [cond_true, cond_false] <;> exact rfl; (first | with_reducible assumption | exact hm | exact Blocks.le_trans rfl hm | with_reducible apply keeps_iff | with_reducible apply keeps_whenLive | with_reducible apply keeps_forEach | with_reducible apply State.fixChange_fr | with_reducible apply State.kcPlanned_fr | with_reducible apply State.modKc_fr | with_reducible apply keeps_ite | split))
    | (intro x; refine keeps_cut (l := bl) (s0 := s0) (x := x) ?_ ?_; rotate_left; clear_value x; intro hx; rotate_left; subst x)
    | (refine Prod.forall.2 ?_; dsimp only)
    | intro x
    | split
    | lift_lets
    | dsimp only

theorem State.kcSafe_fr {bl : Blocks} {s0 : State} {s : State}
    (hm : Blocks.le { dim := true, evt := true, way := true } bl = true) (hev : Keeps bl s0 s) :
    Keeps bl s0 (State.kcSafe s) := by
  unfold State.kcSafe
  repeat' first
    | with_reducible assumption
    | exact hm
    | exact Blocks.le_trans rfl hm
    | refine fun (_ : Keeps _ _ _) => ?_
    | with_reducible apply keeps_iff
    | with_reducible apply keeps_whenLive
    | with_reducible apply keeps_forEach
    | with_reducible apply State.kcReturn_fr
    | with_reducible apply State.kcSafeOne_fr
    | with_reducible apply keeps_ite
    | (with_reducible apply keeps_mk (a := { dim := true, evt := true, way := true }) hm; dsimp only [cond_true, cond_false] <;> exact rfl; (first | with_reducible assumption | exact hm | exact Blocks.le_trans rfl hm | with_reducible apply keeps_iff | with_reducible apply keeps_whenLive | with_reducible apply keeps_forEach | with_reducible apply State.kcReturn_fr | with_reducible apply State.kcSafeOne_fr | with_reducible apply keeps_ite | split))
    | (intro x; refine keeps_cut (l := bl) (s0 := s0) (x := x) ?_ ?_; rotate_left; clear_value x; intro hx; rotate_left; subst x)
    | intro x
    | split
    | lift_lets
    | dsimp only

theorem State.kcCompare_fr {bl : Blocks} {s0 : State} {s : State} (k : Nat)
    (hm : Blocks.le { dim := true, evt := true, way := true } bl = true) (hev : Keeps bl s0 s) :
    Keeps bl s0 (State.kcCompare s k) := by
  unfold State.kcCompare
  repeat' first
    | with_reducible assumption
    | exact Blocks.le_trans rfl hm
    | with_reducible apply State.modKc_fr
    | with_reducible apply State.postTile_fr
    | with_reducible apply State.recordKc_fr
    | with_reducible apply keeps_ite

theorem State.putRoute_fr {bl : Blocks} {s0 : State} {s : State} (r : RouteSt)
    (hm : Blocks.le { dim := true } bl = true) (hev : Keeps bl s0 s) :
    Keeps bl s0 (State.putRoute s r) := by
  unfold State.putRoute
  repeat' first
    | (with_reducible apply keeps_mk (a := { dim := true }) hm; dsimp only [cond_true, cond_false] <;> exact rfl; with_reducible assumption)

theorem State.loadList_fr {bl : Blocks} {s0 : State} {s : State} (e : List Byte) (t : Tuning) (eui place : Nat) (effective : Cn)
    (hm : Blocks.le { rad := true, node := true } bl = true) (hev : Keeps bl s0 s) :
    Keeps bl s0 (State.loadList s e t eui place effective) := by
  unfold State.loadList
  repeat' first
    | with_reducible assumption
    | exact Blocks.le_trans rfl hm
    | with_reducible apply State.modNode_fr
    | with_reducible apply State.sendNode_fr
    | with_reducible apply keeps_ite
    | (with_reducible apply keeps_mk (a := { rad := true, node := true }) hm; dsimp only [cond_true, cond_false] <;> exact rfl; split)

theorem State.loadRoute_fr {bl : Blocks} {s0 : State} {s : State} (e : List Byte) (t : Tuning) (effective : Cn)
    (hm : Blocks.le { rad := true, node := true, dim := true } bl = true) (hev : Keeps bl s0 s) :
    Keeps bl s0 (State.loadRoute s e t effective) := by
  unfold State.loadRoute
  repeat' first
    | with_reducible assumption
    | exact Blocks.le_trans rfl hm
    | refine fun (_ : Keeps _ _ _) => ?_
    | with_reducible apply keeps_forEach
    | with_reducible apply State.loadList_fr
    | with_reducible apply State.putRoute_fr
    | with_reducible apply keeps_ite
    | intro x

theorem State.reloadRoutes_fr {bl : Blocks} {s0 : State} {s : State}
    (hm : Blocks.le { rad := true, node := true, dim := true } bl = true) (hev : Keeps bl s0 s) :
    Keeps bl s0 (State.reloadRoutes s) := by
  unfold State.reloadRoutes
  repeat' first
    | with_reducible assumption
    | exact Blocks.le_trans rfl hm
    | refine fun (_ : Keeps _ _ _) => ?_
    | with_reducible apply keeps_forEach
    | with_reducible apply State.loadRoute_fr
    | with_reducible apply State.putRoute_fr
    | with_reducible apply keeps_ite
    | (with_reducible apply keeps_mk (a := { rad := true, node := true, dim := true }) hm; dsimp only [cond_true, cond_false] <;> exact rfl; with_reducible assumption)
    | intro x

theorem State.recordRoute_fr {bl : Blocks} {s0 : State} {s : State} (id position what : Nat)
    (hm : Blocks.le { evt := true, way := true } bl = true) (hev : Keeps bl s0 s) :
    Keeps bl s0 (State.recordRoute s id position what) := by
  unfold State.recordRoute
  repeat' first | with_reducible assumption | with_reducible apply State.record_fr

theorem State.judgeGaps_fr {bl : Blocks} {s0 : State} {s : State} (eui : Nat)
    (hm : Blocks.le { dim := true, evt := true, way := true } bl = true) (hev : Keeps bl s0 s) :
    Keeps bl s0 (State.judgeGaps s eui) := by
  unfold State.judgeGaps
  repeat' first
    | with_reducible assumption
    | exact Blocks.le_trans rfl hm
    | refine fun (_ : Keeps _ _ _) => ?_
    | with_reducible apply keeps_forEach
    | with_reducible apply State.putRoute_fr
    | with_reducible apply State.recordRoute_fr
    | with_reducible apply keeps_ite
    | intro x

end Sys2Proof.Machine
end

