-- ==== Sys2Proof/Laws/FrDrvOps.lean ====
section
/-! SUPPORT. Every operation of Machine/DrvOps.lean keeps what it does not name (Safety.lean). -/

set_option Elab.async false

namespace Sys2Proof.Machine

theorem State.modCh_fr {bl : Blocks} {s0 : State} {s : State} (c : Nat) (f : ChSt → ChSt)
    (hm : Blocks.le { drv := true } bl = true) (hev : Keeps bl s0 s) :
    Keeps bl s0 (State.modCh s c f) := by
  unfold State.modCh
  repeat' first
    | (with_reducible apply keeps_mk (a := { drv := true }) hm; dsimp only [cond_true, cond_false] <;> exact rfl; with_reducible assumption)

theorem State.modLum_fr {bl : Blocks} {s0 : State} {s : State} (l : Nat) (f : LumSt → LumSt)
    (hm : Blocks.le { drv := true } bl = true) (hev : Keeps bl s0 s) :
    Keeps bl s0 (State.modLum s l f) := by
  unfold State.modLum
  repeat' first
    | (with_reducible apply keeps_mk (a := { drv := true }) hm; dsimp only [cond_true, cond_false] <;> exact rfl; with_reducible assumption)

theorem State.modPe_fr {bl : Blocks} {s0 : State} {s : State} (p : Nat) (f : PeSt → PeSt)
    (hm : Blocks.le { drv := true } bl = true) (hev : Keeps bl s0 s) :
    Keeps bl s0 (State.modPe s p f) := by
  unfold State.modPe
  repeat' first
    | (with_reducible apply keeps_mk (a := { drv := true }) hm; dsimp only [cond_true, cond_false] <;> exact rfl; with_reducible assumption)

theorem State.modTw_fr {bl : Blocks} {s0 : State} {s : State} (g : Nat) (f : TwSt → TwSt)
    (hm : Blocks.le { drv := true } bl = true) (hev : Keeps bl s0 s) :
    Keeps bl s0 (State.modTw s g f) := by
  unfold State.modTw
  repeat' first
    | (with_reducible apply keeps_mk (a := { drv := true }) hm; dsimp only [cond_true, cond_false] <;> exact rfl; with_reducible assumption)

theorem State.startPe_fr {bl : Blocks} {s0 : State} {s : State} (p : Nat) (r : PeRun)
    (hm : Blocks.le { drv := true, evt := true } bl = true) (hev : Keeps bl s0 s) :
    Keeps bl s0 (State.startPe s p r) := by
  unfold State.startPe
  repeat' first
    | with_reducible assumption
    | exact Blocks.le_trans rfl hm
    | with_reducible apply State.modPe_fr
    | with_reducible apply State.postTile_fr

theorem State.endPe_fr {bl : Blocks} {s0 : State} {s : State} (p : Nat)
    (hm : Blocks.le { drv := true, evt := true } bl = true) (hev : Keeps bl s0 s) :
    Keeps bl s0 (State.endPe s p) := by
  unfold State.endPe
  repeat' first
    | with_reducible assumption
    | exact Blocks.le_trans rfl hm
    | with_reducible apply State.modPe_fr
    | with_reducible apply State.postTile_fr

theorem State.triggerPe_fr {bl : Blocks} {s0 : State} {s : State} (p : Nat)
    (hm : Blocks.le { drv := true, evt := true } bl = true) (hev : Keeps bl s0 s) :
    Keeps bl s0 (State.triggerPe s p) := by
  unfold State.triggerPe
  repeat' first
    | with_reducible assumption
    | exact Blocks.le_trans rfl hm
    | with_reducible apply State.endPe_fr
    | with_reducible apply State.modPe_fr
    | with_reducible apply State.startPe_fr
    | with_reducible apply keeps_ite
    | (with_reducible apply keeps_mk (a := { drv := true, evt := true }) hm; dsimp only [cond_true, cond_false] <;> exact rfl; split)

theorem State.startEngines_fr {bl : Blocks} {s0 : State} {s : State}
    (hm : Blocks.le { drv := true, evt := true } bl = true) (hev : Keeps bl s0 s) :
    Keeps bl s0 (State.startEngines s) := by
  unfold State.startEngines
  repeat' first
    | with_reducible assumption
    | refine fun (_ : Keeps _ _ _) => ?_
    | with_reducible apply keeps_forEach
    | with_reducible apply State.startPe_fr
    | with_reducible apply keeps_ite
    | intro x

theorem State.endEngines_fr {bl : Blocks} {s0 : State} {s : State} (j : Nat)
    (hm : Blocks.le { drv := true, evt := true } bl = true) (hev : Keeps bl s0 s) :
    Keeps bl s0 (State.endEngines s j) := by
  unfold State.endEngines
  repeat' first
    | with_reducible assumption
    | refine fun (_ : Keeps _ _ _) => ?_
    | with_reducible apply keeps_forEach
    | with_reducible apply State.endPe_fr
    | with_reducible apply keeps_ite
    | (with_reducible apply keeps_mk (a := { drv := true, evt := true }) hm; dsimp only [cond_true, cond_false] <;> exact rfl; split)
    | intro x

theorem State.setChannel_fr {bl : Blocks} {s0 : State} {s : State} (c level row j : Nat)
    (hm : Blocks.le { drv := true, evt := true } bl = true) (hev : Keeps bl s0 s) :
    Keeps bl s0 (State.setChannel s c level row j) := by
  unfold State.setChannel
  repeat' first
    | with_reducible assumption
    | exact Blocks.le_trans rfl hm
    | with_reducible apply State.modCh_fr
    | with_reducible apply State.modTw_fr
    | with_reducible apply State.postTile_fr
    | with_reducible apply keeps_ite
    | (with_reducible apply keeps_mk (a := { drv := true, evt := true }) hm; dsimp only [cond_true, cond_false] <;> exact rfl; split)

theorem State.stringEvent_fr {bl : Blocks} {s0 : State} {s : State} (c fault m : Nat) (transient : Bool)
    (hm : Blocks.le { evt := true, way := true } bl = true) (hev : Keeps bl s0 s) :
    Keeps bl s0 (State.stringEvent s c fault m transient) := by
  unfold State.stringEvent
  repeat' first
    | with_reducible assumption
    | exact Blocks.le_trans rfl hm
    | with_reducible apply State.postTile_fr
    | with_reducible apply State.record_fr

theorem State.hardwareLimit_fr {bl : Blocks} {s0 : State} {s : State} (h : Nat)
    (hm : Blocks.le { evt := true } bl = true) (hev : Keeps bl s0 s) :
    Keeps bl s0 (State.hardwareLimit s h) := by
  unfold State.hardwareLimit
  repeat' first | with_reducible assumption | with_reducible apply State.post_fr

theorem State.vref_fr {bl : Blocks} {s0 : State} {s : State} (c amps : Nat)
    (hm : Blocks.le { freeIdx := true } bl = true) (hev : Keeps bl s0 s) :
    Keeps bl s0 (State.vref s c amps).2 := by
  unfold State.vref
  repeat' first
    | with_reducible assumption
    | with_reducible apply State.drawInt_fr
    | with_reducible apply keeps_ite_snd

theorem State.vref_keq {bl : Blocks} {s0 sx : State} {s : State} {c amps : Nat} {qx : Int} (e : (State.vref s c amps) = (qx, sx))
    (hm : Blocks.le { freeIdx := true } bl = true) (hev : Keeps bl s0 s) : Keeps bl s0 sx := by
  have g := State.vref_fr c amps hm hev
  rw [e] at g
  exact g

theorem State.judge_fr {bl : Blocks} {s0 : State} {s : State} (m : ChMeas)
    (hm : Blocks.le { freeIdx := true } bl = true) (hev : Keeps bl s0 s) :
    Keeps bl s0 (State.judge s m).2 := by
  unfold State.judge
  repeat' first
    | with_reducible assumption
    | with_reducible apply State.drawNat_fr
    | with_reducible apply State.vref_fr
    | with_reducible apply keeps_ite_snd

theorem State.judge_keq {bl : Blocks} {s0 sx : State} {s : State} {m : ChMeas} {qx : FrameFault} (e : (State.judge s m) = (qx, sx))
    (hm : Blocks.le { freeIdx := true } bl = true) (hev : Keeps bl s0 s) : Keeps bl s0 sx := by
  have g := State.judge_fr m hm hev
  rw [e] at g
  exact g

theorem State.confirmFault_fr {bl : Blocks} {s0 : State} {s : State} (c fault : Nat)
    (hm : Blocks.le { drv := true, evt := true, way := true } bl = true) (hev : Keeps bl s0 s) :
    Keeps bl s0 (State.confirmFault s c fault) := by
  unfold State.confirmFault
  repeat' first
    | with_reducible assumption
    | exact Blocks.le_trans rfl hm
    | with_reducible apply State.modCh_fr
    | with_reducible apply State.stringEvent_fr

theorem State.retryFrame_fr {bl : Blocks} {s0 : State} {s : State} (c : Nat) (bad : Bool)
    (hm : Blocks.le { drv := true, evt := true, way := true } bl = true) (hev : Keeps bl s0 s) :
    Keeps bl s0 (State.retryFrame s c bad) := by
  unfold State.retryFrame
  repeat' first
    | with_reducible assumption
    | exact Blocks.le_trans rfl hm
    | with_reducible apply State.modCh_fr
    | with_reducible apply State.stringEvent_fr
    | with_reducible apply keeps_ite
    | (with_reducible apply keeps_mk (a := { drv := true, evt := true, way := true }) hm; dsimp only [cond_true, cond_false] <;> exact rfl; split)

theorem State.ledShort_fr {bl : Blocks} {s0 : State} {s : State} (c m : Nat)
    (hm : Blocks.le { drv := true, evt := true, way := true } bl = true) (hev : Keeps bl s0 s) :
    Keeps bl s0 (State.ledShort s c m) := by
  unfold State.ledShort
  repeat' first
    | with_reducible assumption
    | exact Blocks.le_trans rfl hm
    | with_reducible apply State.modCh_fr
    | with_reducible apply State.stringEvent_fr
    | with_reducible apply keeps_ite

theorem State.applyFrame_fr {bl : Blocks} {s0 : State} {s : State} (c : Nat) (f : FrameFault)
    (hm : Blocks.le { drv := true, evt := true, way := true } bl = true) (hev : Keeps bl s0 s) :
    Keeps bl s0 (State.applyFrame s c f) := by
  unfold State.applyFrame
  repeat' first
    | with_reducible assumption
    | exact Blocks.le_trans rfl hm
    | with_reducible apply State.confirmFault_fr
    | with_reducible apply State.ledShort_fr
    | with_reducible apply State.modCh_fr
    | with_reducible apply State.retryFrame_fr
    | with_reducible apply keeps_ite
    | (with_reducible apply keeps_mk (a := { drv := true, evt := true, way := true }) hm; dsimp only [cond_true, cond_false] <;> exact rfl; split)

theorem State.frameMeasured_fr {bl : Blocks} {s0 : State} {s : State} (m : ChMeas)
    (hm : Blocks.le { drv := true, evt := true, way := true, freeIdx := true } bl = true) (hev : Keeps bl s0 s) :
    Keeps bl s0 (State.frameMeasured s m) := by
  unfold State.frameMeasured
  repeat' first
    | with_reducible assumption
    | exact Blocks.le_trans rfl hm
    | with_reducible apply State.applyFrame_fr
    | with_reducible apply State.judge_fr
    | with_reducible apply State.modCh_fr
    | with_reducible apply keeps_ite

theorem State.dieFrames_fr {bl : Blocks} {s0 : State} {s : State}
    (hm : Blocks.le { drv := true, evt := true, way := true } bl = true) (hev : Keeps bl s0 s) :
    Keeps bl s0 (State.dieFrames s) := by
  unfold State.dieFrames
  repeat' first
    | with_reducible assumption
    | refine fun (_ : Keeps _ _ _) => ?_
    | with_reducible apply keeps_forEach
    | with_reducible apply State.applyFrame_fr
    | with_reducible apply keeps_ite
    | intro x

theorem State.takeHalves_fr {bl : Blocks} {s0 : State} {s : State}
    (hm : Blocks.le { drv := true, evt := true } bl = true) (hev : Keeps bl s0 s) :
    Keeps bl s0 (State.takeHalves s) := by
  unfold State.takeHalves
  repeat' first
    | with_reducible assumption
    | exact Blocks.le_trans rfl hm
    | refine fun (_ : Keeps _ _ _) => ?_
    | with_reducible apply keeps_forEach
    | with_reducible apply State.post_fr
    | with_reducible apply keeps_ite
    | (with_reducible apply keeps_mk (a := { drv := true, evt := true }) hm; dsimp only [cond_true, cond_false] <;> exact rfl; with_reducible assumption)
    | intro x

theorem State.ntcRead_fr {bl : Blocks} {s0 : State} {s : State} (p : Nat × Nat)
    (hm : Blocks.le { drv := true } bl = true) (hev : Keeps bl s0 s) :
    Keeps bl s0 (State.ntcRead s p) := by
  unfold State.ntcRead
  repeat' first
    | with_reducible assumption
    | with_reducible apply keeps_ite
    | (with_reducible apply keeps_mk (a := { drv := true }) hm; dsimp only [cond_true, cond_false] <;> exact rfl; with_reducible assumption)

theorem State.applySafety_fr {bl : Blocks} {s0 : State} {s : State}
    (hm : Blocks.le { drv := true } bl = true) (hev : Keeps bl s0 s) :
    Keeps bl s0 (State.applySafety s) := by
  unfold State.applySafety
  repeat' first
    | (with_reducible apply keeps_mk (a := { drv := true }) hm; dsimp only [cond_true, cond_false] <;> exact rfl; with_reducible assumption)

theorem State.applyDirect_fr {bl : Blocks} {s0 : State} {s : State}
    (hm : Blocks.le { drv := true } bl = true) (hev : Keeps bl s0 s) :
    Keeps bl s0 (State.applyDirect s) := by
  unfold State.applyDirect
  repeat' first
    | with_reducible assumption
    | refine fun (_ : Keeps _ _ _) => ?_
    | with_reducible apply keeps_forEach
    | with_reducible apply State.modCh_fr
    | with_reducible apply keeps_ite
    | intro x

theorem State.endWaves_fr {bl : Blocks} {s0 : State} {s : State}
    (hm : Blocks.le { drv := true } bl = true) (hev : Keeps bl s0 s) :
    Keeps bl s0 (State.endWaves s) := by
  unfold State.endWaves
  repeat' first
    | (with_reducible apply keeps_mk (a := { drv := true }) hm; dsimp only [cond_true, cond_false] <;> exact rfl; with_reducible assumption)

theorem State.frameLum_fr {bl : Blocks} {s0 : State} {s : State} (j l : Nat)
    (hm : Blocks.le { drv := true, evt := true } bl = true) (hev : Keeps bl s0 s) :
    Keeps bl s0 (State.frameLum s j l) := by
  unfold State.frameLum
  repeat' first
    | with_reducible assumption
    | exact Blocks.le_trans rfl hm
    | refine fun (_ : Keeps _ _ _) => ?_
    | with_reducible apply keeps_forEach
    | with_reducible apply State.modCh_fr
    | with_reducible apply State.modLum_fr
    | with_reducible apply State.modTw_fr
    | with_reducible apply State.setChannel_fr
    | with_reducible apply keeps_ite
    | (with_reducible apply keeps_mk (a := { drv := true, evt := true }) hm; dsimp only [cond_true, cond_false] <;> exact rfl; split)
    | intro x

theorem State.frameOff_fr {bl : Blocks} {s0 : State} {s : State} (j : Nat)
    (hm : Blocks.le { drv := true, evt := true } bl = true) (hev : Keeps bl s0 s) :
    Keeps bl s0 (State.frameOff s j) := by
  unfold State.frameOff
  repeat' first
    | with_reducible assumption
    | refine fun (_ : Keeps _ _ _) => ?_
    | with_reducible apply keeps_forEach
    | with_reducible apply State.setChannel_fr
    | with_reducible apply keeps_ite
    | intro x

theorem State.freshRuns_fr {bl : Blocks} {s0 : State} {s : State} (j : Nat)
    (hm : Blocks.le { drv := true } bl = true) (hev : Keeps bl s0 s) :
    Keeps bl s0 (State.freshRuns s j) := by
  unfold State.freshRuns
  repeat' first
    | with_reducible assumption
    | refine fun (_ : Keeps _ _ _) => ?_
    | with_reducible apply keeps_forEach
    | with_reducible apply State.modPe_fr
    | with_reducible apply keeps_ite
    | (with_reducible apply keeps_mk (a := { drv := true }) hm; dsimp only [cond_true, cond_false] <;> exact rfl; split)
    | intro x

theorem State.frameAt_fr {bl : Blocks} {s0 : State} {s : State} (j : Nat)
    (hm : Blocks.le { drv := true, evt := true } bl = true) (hev : Keeps bl s0 s) :
    Keeps bl s0 (State.frameAt s j) := by
  unfold State.frameAt
  repeat' first
    | with_reducible assumption
    | exact Blocks.le_trans rfl hm
    | refine fun (_ : Keeps _ _ _) => ?_
    | with_reducible apply keeps_forEach
    | with_reducible apply State.applyDirect_fr
    | with_reducible apply State.applySafety_fr
    | with_reducible apply State.endEngines_fr
    | with_reducible apply State.endWaves_fr
    | with_reducible apply State.frameLum_fr
    | with_reducible apply State.frameOff_fr
    | with_reducible apply State.freshRuns_fr
    | with_reducible apply State.takeHalves_fr
    | intro x

end Sys2Proof.Machine
end

