-- ==== Sys2Proof/Laws/FrAdmOps.lean ====
section
/-! SUPPORT. Every operation of Machine/AdmOps.lean keeps what it does not name (Safety.lean). -/

set_option Elab.async false

namespace Sys2Proof.Machine

theorem State.answerAdmit_fr {bl : Blocks} {s0 : State} {s : State} (a : Admit) (type : Nat) (body : List Byte)
    (hm : Blocks.le { fsp := true, out := true } bl = true) (hev : Keeps bl s0 s) :
    Keeps bl s0 (State.answerAdmit s a type body) := by
  unfold State.answerAdmit
  repeat' first
    | exact Blocks.le_trans rfl hm
    | with_reducible apply State.respond_fr
    | (with_reducible apply keeps_mk (a := { fsp := true, out := true }) hm; dsimp only [cond_true, cond_false] <;> exact rfl; (first | with_reducible assumption | split))

theorem State.decline_fr {bl : Blocks} {s0 : State} {s : State} (a : Admit) (reason : Reason) (earliest : Cn)
    (hm : Blocks.le { fsp := true, out := true } bl = true) (hev : Keeps bl s0 s) :
    Keeps bl s0 (State.decline s a reason earliest) := by
  unfold State.decline
  repeat' first | with_reducible assumption | with_reducible apply State.answerAdmit_fr

theorem State.declineCounted_fr {bl : Blocks} {s0 : State} {s : State} (a : Admit) (reason : Reason)
    (hm : Blocks.le { adm := true, fsp := true, evt := true, way := true, out := true } bl = true) (hev : Keeps bl s0 s) :
    Keeps bl s0 (State.declineCounted s a reason) := by
  unfold State.declineCounted
  repeat' first
    | with_reducible assumption
    | exact Blocks.le_trans rfl hm
    | with_reducible apply State.decline_fr
    | with_reducible apply State.fspViolation_fr
    | (with_reducible apply keeps_mk (a := { adm := true, fsp := true, evt := true, way := true, out := true }) hm; dsimp only [cond_true, cond_false] <;> exact rfl; split)

theorem State.book_fr {bl : Blocks} {s0 : State} {s : State} (b : Booking)
    (hm : Blocks.le { adm := true } bl = true) (hev : Keeps bl s0 s) :
    Keeps bl s0 (State.book s b) := by
  unfold State.book
  repeat' first
    | (with_reducible apply keeps_mk (a := { adm := true }) hm; dsimp only [cond_true, cond_false] <;> exact rfl; with_reducible assumption)

theorem State.bookCells_keq {bl : Blocks} {s0 : State} {id g air n k : Nat} (hm : Blocks.le { adm := true } bl = true) : ∀ {s : State} {a l : Nat} {r : Reason} {u : State} {m : Nat} {q : Reason},
    s.bookCells id g air n k a l r = (some (u, m), q) → Keeps bl s0 s → Keeps bl s0 u := by
  induction k with
  | zero =>
    intro s a l r u m q e h
    simp only [State.bookCells, Prod.mk.injEq, Option.some.injEq] at e
    exact e.1.1 ▸ h
  | succ k ih =>
    intro s a l r u m q e h
    unfold State.bookCells at e
    split at e
    · exact ih e (State.book_fr _ hm h)
    · simp at e

theorem State.bookFlood_keq {bl : Blocks} {s0 : State} {id from_ : Nat} {frames : Nat → List (List Byte)} {cells : Nat → Nat} {gs : List Nat} (hm : Blocks.le { adm := true } bl = true) :
    ∀ {s u : State} {e c : Cn} {r : Reason}, (s.bookFlood id from_ frames cells gs e r).found = some (u, c) →
      Keeps bl s0 s → Keeps bl s0 u := by
  induction gs with
  | nil =>
    intro s u e c r q h
    simp only [State.bookFlood, Option.some.injEq, Prod.mk.injEq] at q
    exact q.1 ▸ h
  | cons g gs ih =>
    intro s u e c r q h
    unfold State.bookFlood at q
    dsimp only at q
    split at q
    · exact ih q (State.bookCells_keq hm ‹_› h)
    · simp at q

theorem State.bookPrompt_keq {bl : Blocks} {s0 s u : State} {id from_ short : Nat} {bs : List (List Byte)} {e c : Cn} {r : Reason}
    (hm : Blocks.le { adm := true } bl = true) (q : (s.bookPrompt id from_ short bs e r).found = some (u, c)) (hev : Keeps bl s0 s) : Keeps bl s0 u := by
  unfold State.bookPrompt at q
  dsimp only at q
  split at q
  · simp only [Option.some.injEq, Prod.mk.injEq] at q
    exact q.1 ▸ State.bookCells_keq hm ‹_› hev
  · simp at q

theorem State.bookBulk_keq {bl : Blocks} {s0 : State} {id g air n : Nat} {path : List Nat} (hm : Blocks.le { adm := true } bl = true) : ∀ {s u : State} {a w m : Nat},
    s.bookBulk id g air n path a w = some (u, m) → Keeps bl s0 s → Keeps bl s0 u := by
  induction path with
  | nil =>
    intro s u a w m e h
    simp only [State.bookBulk, Option.some.injEq, Prod.mk.injEq] at e
    exact e.1 ▸ h
  | cons x rest ih =>
    intro s u a w m e h
    unfold State.bookBulk at e
    split at e
    · split at e
      · exact ih e (keeps_forEach _ _ (fun _ _ hx => State.book_fr _ hm hx) h)
      · simp at e
    · simp at e

theorem State.bookBulkTo_keq {bl : Blocks} {s0 s u : State} {id from_ short : Nat} {bs : List (List Byte)} {e c : Cn} {r : Reason}
    (hm : Blocks.le { adm := true } bl = true) (q : (s.bookBulkTo id from_ short bs e r).found = some (u, c)) (hev : Keeps bl s0 s) : Keeps bl s0 u := by
  unfold State.bookBulkTo at q
  dsimp only at q
  split at q
  · split at q
    · simp only [Option.some.injEq, Prod.mk.injEq] at q
      exact q.1 ▸ State.bookBulk_keq hm ‹_› hev
    · simp at q
  · exact State.bookPrompt_keq hm q hev

theorem State.bookEach_keq {bl : Blocks} {s0 : State} {cls : TxClass} {id from_ : Nat} {bodies : Nat → List (List Byte)} {xs : List Nat} (hm : Blocks.le { adm := true } bl = true) :
    ∀ {s u : State} {e c : Cn} {r : Reason}, (s.bookEach cls id from_ bodies xs e r).found = some (u, c) →
      Keeps bl s0 s → Keeps bl s0 u := by
  induction xs with
  | nil =>
    intro s u e c r q h
    simp only [State.bookEach, Option.some.injEq, Prod.mk.injEq] at q
    exact q.1 ▸ h
  | cons x xs ih =>
    intro s u e c r q h
    unfold State.bookEach at q
    dsimp only at q
    split at q
    · refine ih q ?_
      rename_i hf
      split at hf
      · exact State.bookBulkTo_keq hm hf h
      · exact State.bookPrompt_keq hm hf h
    · simp_all

theorem State.fit_keq {bl : Blocks} {s0 s u : State} {a : Ask} {cls : TxClass} {id from_ : Nat} {good : List Nat} {e c : Cn}
    (hm : Blocks.le { adm := true } bl = true) (q : (s.fit a cls id good from_ e).found = some (u, c)) (hev : Keeps bl s0 s) : Keeps bl s0 u := by
  unfold State.fit at q
  split at q
  · exact State.bookFlood_keq hm q hev
  · exact State.bookEach_keq hm q hev

theorem State.earliestFit_keq {bl : Blocks} {s0 s u : State} {a : Ask} {cls : TxClass} {id : Nat} {good : List Nat} {deadline lead c : Cn}
    (hm : Blocks.le { adm := true } bl = true) (q : (s.earliestFit a cls id good deadline lead).found = some (u, c)) (hev : Keeps bl s0 s) : Keeps bl s0 u := by
  unfold State.earliestFit at q
  extract_lets least named free near at q
  have hn : ∀ f : Fit, (near f).found = some (u, c) → f.found = some (u, c) := by
    intro f hf
    simp only [near] at hf
    split at hf
    · split at hf
      · simp at hf
      · exact hf
    · exact hf
  split at q
  · split at q
    · split at q
      · exact State.fit_keq hm q hev
      · exact State.fit_keq hm (hn _ q) hev
    · have g := hn _ q
      dsimp only [free] at g
      exact State.fit_keq hm g hev
  · exact State.fit_keq hm (hn _ q) hev

theorem State.noteItem_fr {bl : Blocks} {s0 : State} {s : State} (eui id : Nat) (content : List Byte) (effective : Cn)
    (hm : Blocks.le { node := true } bl = true) (hev : Keeps bl s0 s) :
    Keeps bl s0 (State.noteItem s eui id content effective) := by
  unfold State.noteItem
  repeat' first | with_reducible assumption | with_reducible apply State.modNode_fr

theorem State.floodPromise_fr {bl : Blocks} {s0 : State} {s : State} (a : Ask) (id g : Nat) (cell : Cell) (bs : List (List Byte)) (cells : List Nat)
    (hm : Blocks.le { rad := true } bl = true) (hev : Keeps bl s0 s) :
    Keeps bl s0 (State.floodPromise s a id g cell bs cells) := by
  unfold State.floodPromise
  repeat' first
    | with_reducible assumption
    | refine fun (_ : Keeps _ _ _) => ?_
    | with_reducible apply keeps_forEach
    | with_reducible apply State.flood_fr
    | intro x

theorem State.furtherPasses_fr {bl : Blocks} {s0 : State} {s : State} (id g : Nat) (e : Cn) (bs : List (List Byte)) (after q : Nat)
    (hm : Blocks.le { rad := true } bl = true) (hev : Keeps bl s0 s) :
    Keeps bl s0 (State.furtherPasses s id g e bs after q) := by
  unfold State.furtherPasses
  repeat' first
    | with_reducible assumption
    | refine fun (_ : Keeps _ _ _) => ?_
    | with_reducible apply keeps_forEach
    | with_reducible apply State.hold_fr
    | intro x

theorem State.unicastPromise_fr {bl : Blocks} {s0 : State} {s : State} (a : Ask) (id short : Nat) (cell : Cell) (bs : List (List Byte)) (cells : List Nat)
    (hm : Blocks.le { rad := true } bl = true) (hev : Keeps bl s0 s) :
    Keeps bl s0 (State.unicastPromise s a id short cell bs cells) := by
  unfold State.unicastPromise
  repeat' first
    | with_reducible assumption
    | refine fun (_ : Keeps _ _ _) => ?_
    | with_reducible apply keeps_forEach
    | with_reducible apply State.sendNode_fr
    | (with_reducible apply keeps_mk (a := { rad := true }) hm; dsimp only [cond_true, cond_false] <;> exact rfl; split)
    | intro x

theorem State.sendPromise_fr {bl : Blocks} {s0 : State} {s : State} (a : Ask) (c : TxClass) (id : Nat) (e : Cn) (good : List Nat)
    (hm : Blocks.le { rad := true, node := true, adm := true } bl = true) (hev : Keeps bl s0 s) :
    Keeps bl s0 (State.sendPromise s a c id e good) := by
  unfold State.sendPromise
  repeat' first
    | with_reducible assumption
    | exact Blocks.le_trans rfl hm
    | refine fun (_ : Keeps _ _ _) => ?_
    | with_reducible apply keeps_iff
    | with_reducible apply keeps_forEach
    | with_reducible apply State.floodPromise_fr
    | with_reducible apply State.furtherPasses_fr
    | with_reducible apply State.noteItem_fr
    | with_reducible apply State.unicastPromise_fr
    | with_reducible apply keeps_ite
    | (with_reducible apply keeps_mk (a := { rad := true, node := true, adm := true }) hm; dsimp only [cond_true, cond_false] <;> exact rfl; with_reducible assumption)
    | intro x

theorem State.safetyStrings_fr {bl : Blocks} {s0 : State} {s : State} (a : Ask)
    (hm : Blocks.le { drv := true } bl = true) (hev : Keeps bl s0 s) :
    Keeps bl s0 (State.safetyStrings s a) := by
  unfold State.safetyStrings
  repeat' first
    | (with_reducible apply keeps_mk (a := { drv := true }) hm; dsimp only [cond_true, cond_false] <;> exact rfl; with_reducible assumption)

theorem State.givePromise_fr {bl : Blocks} {s0 : State} {s : State} (q : Admit) (p : Promise)
    (hm : Blocks.le { adm := true, fsp := true, out := true } bl = true) (hev : Keeps bl s0 s) :
    Keeps bl s0 (State.givePromise s q p) := by
  unfold State.givePromise
  repeat' first
    | exact Blocks.le_trans rfl hm
    | with_reducible apply State.answerAdmit_fr
    | (with_reducible apply keeps_mk (a := { adm := true, fsp := true, out := true }) hm; dsimp only [cond_true, cond_false] <;> exact rfl; with_reducible assumption)

theorem State.endCaravan_fr {bl : Blocks} {s0 : State} {s : State} (id : Nat)
    (hm : Blocks.le { rad := true, evt := true, upd := true, way := true } bl = true) (hev : Keeps bl s0 s) :
    Keeps bl s0 (State.endCaravan s id) := by
  unfold State.endCaravan
  repeat' first
    | with_reducible assumption
    | exact Blocks.le_trans rfl hm
    | with_reducible apply State.modCaravan_fr
    | (with_reducible apply keeps_mk (a := { rad := true, evt := true, upd := true, way := true }) hm; dsimp only [cond_true, cond_false] <;> exact rfl; with_reducible apply State.caravanPhase_fr)

theorem State.caravanOutcome_fr {bl : Blocks} {s0 : State} {s : State} (p : Promise)
    (hm : Blocks.le { rad := true, evt := true, upd := true, way := true } bl = true) (hev : Keeps bl s0 s) :
    Keeps bl s0 (State.caravanOutcome s p) := by
  unfold State.caravanOutcome
  repeat' first
    | with_reducible assumption
    | exact Blocks.le_trans rfl hm
    | with_reducible apply State.endCaravan_fr
    | with_reducible apply State.modCaravan_fr
    | with_reducible apply keeps_ite
    | (with_reducible apply keeps_mk (a := { rad := true, evt := true, upd := true, way := true }) hm; dsimp only [cond_true, cond_false] <;> exact rfl; split)

theorem State.outcome_fr {bl : Blocks} {s0 : State} {s : State} (p : Promise)
    (hm : Blocks.le { rad := true, adm := true, fsp := true, evt := true, upd := true, way := true, out := true } bl = true) (hev : Keeps bl s0 s) :
    Keeps bl s0 (State.outcome s p) := by
  unfold State.outcome
  repeat' first
    | with_reducible assumption
    | exact Blocks.le_trans rfl hm
    | refine fun (_ : Keeps _ _ _) => ?_
    | with_reducible apply State.caravanOutcome_fr
    | with_reducible apply State.push_fr
    | with_reducible apply State.record_fr
    | (with_reducible apply keeps_mk (a := { rad := true, adm := true, fsp := true, evt := true, upd := true, way := true, out := true }) hm; dsimp only [cond_true, cond_false] <;> exact rfl; with_reducible apply keeps_forEach)
    | intro x

theorem State.settleOutcomes_fr {bl : Blocks} {s0 : State} {s : State}
    (hm : Blocks.le { rad := true, adm := true, fsp := true, evt := true, upd := true, way := true, out := true } bl = true) (hev : Keeps bl s0 s) :
    Keeps bl s0 (State.settleOutcomes s) := by
  unfold State.settleOutcomes
  repeat' first
    | with_reducible assumption
    | refine fun (_ : Keeps _ _ _) => ?_
    | with_reducible apply keeps_forEach
    | with_reducible apply State.outcome_fr
    | with_reducible apply keeps_ite
    | intro x

theorem State.promiseTick_fr {bl : Blocks} {s0 : State} {s : State}
    (hm : Blocks.le { rad := true, adm := true, fsp := true, evt := true, upd := true, way := true, out := true } bl = true) (hev : Keeps bl s0 s) :
    Keeps bl s0 (State.promiseTick s) := by
  unfold State.promiseTick
  repeat' first
    | with_reducible assumption
    | with_reducible apply State.settleOutcomes_fr
    | (with_reducible apply keeps_mk (a := { rad := true, adm := true, fsp := true, evt := true, upd := true, way := true, out := true }) hm; dsimp only [cond_true, cond_false] <;> exact rfl; with_reducible assumption)

theorem State.rejoinEvent_fr {bl : Blocks} {s0 : State} {s : State} (kind : Nat) (r : Rejoin)
    (hm : Blocks.le { evt := true, way := true } bl = true) (hev : Keeps bl s0 s) :
    Keeps bl s0 (State.rejoinEvent s kind r) := by
  unfold State.rejoinEvent
  repeat' first
    | with_reducible assumption
    | exact Blocks.le_trans rfl hm
    | with_reducible apply State.post_fr
    | with_reducible apply State.record_fr

theorem State.releaseForRejoin_fr {bl : Blocks} {s0 : State} {s : State} (limit : Cn)
    (hm : Blocks.le { rad := true, adm := true } bl = true) (hev : Keeps bl s0 s) :
    Keeps bl s0 (State.releaseForRejoin s limit) := by
  unfold State.releaseForRejoin
  repeat' first
    | (with_reducible apply keeps_mk (a := { rad := true, adm := true }) hm; dsimp only [cond_true, cond_false] <;> exact rfl; with_reducible assumption)

theorem State.startRejoin_fr {bl : Blocks} {s0 : State} {s : State} (set : List Nat) (cause : Nat)
    (hm : Blocks.le { rad := true, node := true, adm := true, evt := true, way := true } bl = true) (hev : Keeps bl s0 s) :
    Keeps bl s0 (State.startRejoin s set cause) := by
  unfold State.startRejoin
  repeat' first
    | with_reducible assumption
    | exact Blocks.le_trans rfl hm
    | refine fun (_ : Keeps _ _ _) => ?_
    | with_reducible apply keeps_forEach
    | with_reducible apply State.floodItem_fr
    | with_reducible apply State.rejoinEvent_fr
    | with_reducible apply State.releaseForRejoin_fr
    | (with_reducible apply keeps_mk (a := { rad := true, node := true, adm := true, evt := true, way := true }) hm; dsimp only [cond_true, cond_false] <;> exact rfl; with_reducible assumption)
    | intro x

theorem State.endRejoin_fr {bl : Blocks} {s0 : State} {s : State}
    (hm : Blocks.le { rad := true, node := true, adm := true, evt := true, way := true, freeIdx := true } bl = true) (hev : Keeps bl s0 s) :
    Keeps bl s0 (State.endRejoin s) := by
  unfold State.endRejoin
  repeat' first
    | with_reducible assumption
    | exact Blocks.le_trans rfl hm
    | refine fun (_ : Keeps _ _ _) => ?_
    | with_reducible apply keeps_forEach
    | with_reducible apply State.sendSchedule_fr
    | with_reducible apply keeps_ite
    | (with_reducible apply keeps_mk (a := { rad := true, node := true, adm := true, evt := true, way := true, freeIdx := true }) hm; dsimp only [cond_true, cond_false] <;> exact rfl; (first | with_reducible apply State.rejoinEvent_fr | split))
    | intro x

theorem State.checkRejoin_fr {bl : Blocks} {s0 : State} {s : State}
    (hm : Blocks.le { rad := true, node := true, adm := true, evt := true, way := true, freeIdx := true } bl = true) (hev : Keeps bl s0 s) :
    Keeps bl s0 (State.checkRejoin s) := by
  unfold State.checkRejoin
  repeat' first
    | with_reducible assumption
    | with_reducible apply State.endRejoin_fr
    | with_reducible apply keeps_ite
    | (with_reducible apply keeps_mk (a := { rad := true, node := true, adm := true, evt := true, way := true, freeIdx := true }) hm; dsimp only [cond_true, cond_false] <;> exact rfl; split)

theorem State.carryReleased_fr {bl : Blocks} {s0 : State} {s : State} (short : Nat)
    (hm : Blocks.le { rad := true } bl = true) (hev : Keeps bl s0 s) :
    Keeps bl s0 (State.carryReleased s short) := by
  unfold State.carryReleased
  repeat' first
    | with_reducible assumption
    | refine fun (_ : Keeps _ _ _) => ?_
    | with_reducible apply keeps_forEach
    | with_reducible apply State.unicastPromise_fr
    | with_reducible apply keeps_ite
    | intro x

end Sys2Proof.Machine
end

