-- ==== Sys2Proof/Laws/FrWaybill.lean ====
section
/-! SUPPORT. Every operation of Machine/Waybill.lean keeps what it does not name (Safety.lean). -/

set_option Elab.async false

namespace Sys2Proof.Machine

theorem State.commit_fr {bl : Blocks} {s0 : State} {s : State} (r : Rec)
    (hm : Blocks.le { fsp := true, evt := true, way := true, out := true } bl = true) (hev : Keeps bl s0 s) :
    Keeps bl s0 (State.commit s r) := by
  unfold State.commit
  repeat' first
    | with_reducible assumption
    | exact Blocks.le_trans rfl hm
    | refine fun (_ : Keeps _ _ _) => ?_
    | with_reducible apply keeps_iff
    | with_reducible apply State.post_fr
    | with_reducible apply State.push_fr
    | (with_reducible apply keeps_mk (a := { fsp := true, evt := true, way := true, out := true }) hm; dsimp only [cond_true, cond_false] <;> exact rfl; with_reducible assumption)
    | intro x

theorem State.writeNext_fr {bl : Blocks} {s0 : State} {s : State}
    (hm : Blocks.le { fsp := true, evt := true, way := true, out := true } bl = true) (hev : Keeps bl s0 s) :
    Keeps bl s0 (State.writeNext s) := by
  unfold State.writeNext
  repeat' first
    | with_reducible assumption
    | with_reducible apply State.commit_fr
    | with_reducible apply keeps_ite
    | (with_reducible apply keeps_mk (a := { fsp := true, evt := true, way := true, out := true }) hm; dsimp only [cond_true, cond_false] <;> exact rfl; (first | with_reducible assumption | split))

theorem State.drainStaging_fr {bl : Blocks} {s0 : State} {s : State}
    (hm : Blocks.le { fsp := true, evt := true, way := true, out := true } bl = true) (hev : Keeps bl s0 s) :
    Keeps bl s0 (State.drainStaging s) := by
  unfold State.drainStaging
  repeat' first
    | with_reducible assumption
    | refine fun (_ : Keeps _ _ _) => ?_
    | with_reducible apply keeps_forEach
    | with_reducible apply State.writeNext_fr
    | intro x

theorem State.lastGasp_fr {bl : Blocks} {s0 : State} {s : State} (r : Rec)
    (hm : Blocks.le { evt := true, ford := true } bl = true) (hev : Keeps bl s0 s) :
    Keeps bl s0 (State.lastGasp s r) := by
  unfold State.lastGasp
  repeat' first
    | exact Blocks.le_trans rfl hm
    | with_reducible apply State.post_fr
    | with_reducible apply keeps_ite
    | (with_reducible apply keeps_mk (a := { evt := true, ford := true }) hm; dsimp only [cond_true, cond_false] <;> exact rfl; with_reducible assumption)

theorem State.sectorFails_fr {bl : Blocks} {s0 : State} {s : State} (unreadable : List Nat) (bad : Rec)
    (hm : Blocks.le { fsp := true, evt := true, ford := true, cop := true, way := true, out := true } bl = true) (hev : Keeps bl s0 s) :
    Keeps bl s0 (State.sectorFails s unreadable bad) := by
  unfold State.sectorFails
  repeat' first
    | with_reducible assumption
    | exact Blocks.le_trans rfl hm
    | refine fun (_ : Keeps _ _ _) => ?_
    | with_reducible apply keeps_iff
    | with_reducible apply State.commit_fr
    | with_reducible apply State.post_fr
    | with_reducible apply State.raiseThin_fr
    | with_reducible apply State.record_fr
    | (with_reducible apply keeps_mk (a := { fsp := true, evt := true, ford := true, cop := true, way := true, out := true }) hm; dsimp only [cond_true, cond_false] <;> exact rfl; with_reducible apply State.lastGasp_fr)
    | intro x

theorem State.readBack_fr {bl : Blocks} {s0 : State} {s : State} (b : ReadBack)
    (hm : Blocks.le { fsp := true, evt := true, ford := true, cop := true, way := true, out := true } bl = true) (hev : Keeps bl s0 s) :
    Keeps bl s0 (State.readBack s b) := by
  unfold State.readBack
  repeat' first
    | with_reducible assumption
    | with_reducible apply State.sectorFails_fr
    | (with_reducible apply keeps_mk (a := { fsp := true, evt := true, ford := true, cop := true, way := true, out := true }) hm; dsimp only [cond_true, cond_false] <;> exact rfl; (first | with_reducible assumption | split))

theorem execRecorderWrite_fr {bl : Blocks} {s0 s1 : State} (readBack : ReadBack) {s : State} (e : execRecorderWrite readBack s = .next s1)
    (hm : Blocks.le { fsp := true, evt := true, ford := true, cop := true, way := true, out := true } bl = true) (hev : Keeps bl s0 s) : Keeps bl s0 s1 := by
  unfold execRecorderWrite at e
  refine keeps_next e ?_
  repeat' first
    | with_reducible assumption
    | exact Blocks.le_trans rfl hm
    | refine fun (_ : Keeps _ _ _) => ?_
    | with_reducible apply keeps_iff
    | with_reducible apply keeps_whenLive
    | with_reducible apply State.readBack_fr
    | with_reducible apply State.writeNext_fr
    | intro x

theorem execWaybillHappening_fr {bl : Blocks} {s0 s1 : State} (stand : Stand) (role : Role) (source id : Nat) (reason : Reason) (tagged : Bool) (payload : List Byte) (tick : Nat) {s : State} (e : execWaybillHappening stand role source id reason tagged payload tick s = .next s1)
    (hm : Blocks.le { time := true, evt := true, way := true } bl = true) (hev : Keeps bl s0 s) : Keeps bl s0 s1 := by
  unfold execWaybillHappening at e
  refine keeps_next e ?_
  repeat' first
    | with_reducible assumption
    | exact Blocks.le_trans rfl hm
    | refine fun (_ : Keeps _ _ _) => ?_
    | with_reducible apply keeps_whenLive
    | with_reducible apply State.advanceTo_fr
    | with_reducible apply State.enter_fr
    | intro x

theorem State.clearWaybill_fr {bl : Blocks} {s0 : State} {s : State} (seen : Nat) (role : Role) (source path : Nat)
    (hm : Blocks.le { fsp := true, evt := true, way := true, out := true } bl = true) (hev : Keeps bl s0 s) :
    Keeps bl s0 (State.clearWaybill s seen role source path).2.2 := by
  unfold State.clearWaybill
  repeat' first
    | with_reducible assumption
    | (with_reducible apply keeps_mk (a := { fsp := true, evt := true, way := true, out := true }) hm; dsimp only [cond_true, cond_false] <;> exact rfl; (first | with_reducible apply State.commit_fr | split))

theorem State.clearWaybill_keq {bl : Blocks} {s0 sx : State} {s : State} {seen : Nat} {role : Role} {source path : Nat} {qx : Reason} {rx : Nat} (e : (State.clearWaybill s seen role source path) = (qx, rx, sx))
    (hm : Blocks.le { fsp := true, evt := true, way := true, out := true } bl = true) (hev : Keeps bl s0 s) : Keeps bl s0 sx := by
  have g := State.clearWaybill_fr seen role source path hm hev
  rw [e] at g
  exact g

theorem State.waybillRead_fr {bl : Blocks} {s0 : State} {s : State} (i : Fin 4) (tx : Nat) (body : List Byte)
    (hm : Blocks.le { adm := true, fsp := true, evt := true, way := true, out := true } bl = true) (hev : Keeps bl s0 s) :
    Keeps bl s0 (State.waybillRead s i tx body) := by
  unfold State.waybillRead
  repeat' first
    | with_reducible assumption
    | exact Blocks.le_trans rfl hm
    | with_reducible apply State.malformed_fr
    | with_reducible apply State.respond_fr
    | with_reducible apply keeps_ite

theorem execWaybillRead_fr {bl : Blocks} {s0 s1 : State} (sess : Fin 4) (role : Byte) (tx : Word) (body : List Byte) {s : State} (e : execWaybillRead sess role tx body s = .next s1)
    (hm : Blocks.le { adm := true, fsp := true, evt := true, way := true, out := true } bl = true) (hev : Keeps bl s0 s) : Keeps bl s0 s1 := by
  unfold execWaybillRead at e
  refine keeps_next e ?_
  repeat' first
    | with_reducible assumption
    | exact Blocks.le_trans rfl hm
    | refine fun (_ : Keeps _ _ _) => ?_
    | with_reducible apply keeps_whenLive
    | with_reducible apply State.countUse_fr
    | with_reducible apply State.request_fr
    | with_reducible apply State.waybillRead_fr
    | intro x

theorem State.waybillClear_fr {bl : Blocks} {s0 : State} {s : State} (i : Fin 4) (c : Session) (tx : Nat) (body : List Byte)
    (hm : Blocks.le { adm := true, fsp := true, evt := true, way := true, out := true } bl = true) (hev : Keeps bl s0 s) :
    Keeps bl s0 (State.waybillClear s i c tx body) := by
  unfold State.waybillClear
  repeat' first
    | with_reducible assumption
    | exact Blocks.le_trans rfl hm
    | with_reducible apply State.clearWaybill_fr
    | with_reducible apply State.malformed_fr
    | with_reducible apply State.respond_fr
    | with_reducible apply keeps_ite

theorem execWaybillClear_fr {bl : Blocks} {s0 s1 : State} (sess : Fin 4) (role : Byte) (tx : Word) (body : List Byte) {s : State} (e : execWaybillClear sess role tx body s = .next s1)
    (hm : Blocks.le { adm := true, fsp := true, evt := true, way := true, out := true } bl = true) (hev : Keeps bl s0 s) : Keeps bl s0 s1 := by
  unfold execWaybillClear at e
  refine keeps_next e ?_
  repeat' first
    | with_reducible assumption
    | refine fun (_ : Keeps _ _ _) => ?_
    | with_reducible apply keeps_whenLive
    | with_reducible apply State.request_fr
    | with_reducible apply State.waybillClear_fr
    | intro x

theorem State.writeWayCtrl_fr {bl : Blocks} {s0 : State} {s : State} (v : Nat) (w : Writer)
    (hm : Blocks.le { evt := true, way := true, regs := true } bl = true) (hev : Keeps bl s0 s) :
    Keeps bl s0 (State.writeWayCtrl s v w).1 := by
  unfold State.writeWayCtrl
  repeat' first
    | with_reducible assumption
    | refine fun (_ : Keeps _ _ _) => ?_
    | with_reducible apply keeps_iff
    | with_reducible apply State.writeReg_fr
    | (with_reducible apply keeps_mk (a := { evt := true, way := true, regs := true }) hm; dsimp only [cond_true, cond_false] <;> exact rfl; with_reducible assumption)
    | intro x

theorem State.writeWayCtrl_keq {bl : Blocks} {s0 sx : State} {s : State} {v : Nat} {w : Writer} {qx : Reason} (e : (State.writeWayCtrl s v w) = (sx, qx))
    (hm : Blocks.le { evt := true, way := true, regs := true } bl = true) (hev : Keeps bl s0 s) : Keeps bl s0 sx := by
  have g := State.writeWayCtrl_fr v w hm hev
  rw [e] at g
  exact g

theorem execWayCntClr_fr {bl : Blocks} {s0 s1 : State} (value : Word) (w : Writer) {s : State} (e : execWayCntClr value w s = .next s1)
    (hm : Blocks.le { evt := true, way := true, regs := true } bl = true) (hev : Keeps bl s0 s) : Keeps bl s0 s1 := by
  unfold execWayCntClr at e
  refine keeps_next e ?_
  repeat' first
    | with_reducible assumption
    | refine fun (_ : Keeps _ _ _) => ?_
    | with_reducible apply keeps_whenLive
    | with_reducible apply State.writeWayCtrl_fr
    | intro x

end Sys2Proof.Machine
end

