-- ==== Sys2Proof/Laws/FrAdm.lean ====
section
/-! SUPPORT. Every operation of Machine/Adm.lean keeps what it does not name (Safety.lean). -/

set_option Elab.async false

namespace Sys2Proof.Machine

theorem State.admitArrive_fr {bl : Blocks} {s0 : State} {s : State} (i : Fin 4) (role : Byte) (deadline : Cn) (tx : Nat) (body : List Byte)
    (hm : Blocks.le { rad := true, adm := true, fsp := true, can := true, evt := true, ford := true, cop := true, upd := true, way := true, out := true, freeIdx := true } bl = true) (hev : Keeps bl s0 s) :
    Keeps bl s0 (State.admitArrive s i role deadline tx body) := by
  unfold State.admitArrive
  repeat' first
    | with_reducible assumption
    | exact Blocks.le_trans rfl hm
    | with_reducible apply State.countUse_fr
    | with_reducible apply State.fspViolation_fr
    | with_reducible apply State.modSession_fr
    | with_reducible apply State.respond_fr
    | with_reducible apply keeps_ite
    | (with_reducible apply keeps_mk (a := { rad := true, adm := true, fsp := true, can := true, evt := true, ford := true, cop := true, upd := true, way := true, out := true, freeIdx := true }) hm; dsimp only [cond_true, cond_false] <;> exact rfl; (first | with_reducible apply State.countUse_fr | with_reducible apply State.modSession_fr | with_reducible apply keeps_ite | split))

theorem execAdmitArrive_fr {bl : Blocks} {s0 s1 : State} (sess : Fin 4) (role : Byte) (deadline : BitVec 40) (tx : Word) (body : List Byte) {s : State} (e : execAdmitArrive sess role deadline tx body s = .next s1)
    (hm : Blocks.le { rad := true, adm := true, fsp := true, can := true, evt := true, ford := true, cop := true, upd := true, way := true, out := true, freeIdx := true } bl = true) (hev : Keeps bl s0 s) : Keeps bl s0 s1 := by
  unfold execAdmitArrive at e
  refine keeps_next e ?_
  repeat' first
    | with_reducible assumption
    | refine fun (_ : Keeps _ _ _) => ?_
    | with_reducible apply keeps_whenLive
    | with_reducible apply State.admitArrive_fr
    | intro x

theorem State.preempt_fr {bl : Blocks} {s0 : State} {s : State} (short : Nat)
    (hm : Blocks.le { adm := true } bl = true) (hev : Keeps bl s0 s) :
    Keeps bl s0 (State.preempt s short) := by
  unfold State.preempt
  repeat' first
    | (with_reducible apply keeps_mk (a := { adm := true }) hm; dsimp only [cond_true, cond_false] <;> exact rfl; with_reducible assumption)

theorem State.decideSafety_fr {bl : Blocks} {s0 : State} {s : State} (q : Admit) (a : Ask) (l : List Judged2)
    (hm : Blocks.le { rad := true, node := true, adm := true, fsp := true, drv := true, out := true } bl = true) (hev : Keeps bl s0 s) :
    Keeps bl s0 (State.decideSafety s q a l) := by
  unfold State.decideSafety
  repeat' first
    | with_reducible assumption
    | exact Blocks.le_trans rfl hm
    | with_reducible apply State.decline_fr
    | with_reducible apply State.givePromise_fr
    | with_reducible apply State.safetyStrings_fr
    | with_reducible apply State.sendPromise_fr
    | with_reducible apply keeps_ite

theorem State.declineCaravan_fr {bl : Blocks} {s0 : State} {s : State} (q : Admit) (c : Caravan) (good lacking : List Nat)
    (hm : Blocks.le { fsp := true, evt := true, way := true, out := true } bl = true) (hev : Keeps bl s0 s) :
    Keeps bl s0 (State.declineCaravan s q c good lacking) := by
  unfold State.declineCaravan
  repeat' first
    | with_reducible assumption
    | exact Blocks.le_trans rfl hm
    | refine fun (_ : Keeps _ _ _) => ?_
    | with_reducible apply keeps_forEach
    | with_reducible apply State.decline_fr
    | with_reducible apply State.push_fr
    | intro x

theorem State.decideFit_fr {bl : Blocks} {s0 : State} {s : State} (q : Admit) (a : Ask) (c : TxClass) (l : List Judged2) (car : Option Caravan)
    (hm : Blocks.le { rad := true, node := true, adm := true, fsp := true, evt := true, upd := true, way := true, out := true } bl = true) (hev : Keeps bl s0 s) :
    Keeps bl s0 (State.decideFit s q a c l car) := by
  unfold State.decideFit
  repeat' first
    | with_reducible assumption
    | exact Blocks.le_trans rfl hm
    | with_reducible apply State.caravanPhase_fr
    | with_reducible apply State.decline_fr
    | with_reducible apply State.givePromise_fr
    | with_reducible apply State.modCaravan_fr
    | with_reducible apply State.sendPromise_fr
    | with_reducible apply keeps_ite
    | refine State.earliestFit_keq ?_ (by assumption) ?_
    | (with_reducible apply keeps_mk (a := { rad := true, node := true, adm := true, fsp := true, evt := true, upd := true, way := true, out := true }) hm; dsimp only [cond_true, cond_false] <;> exact rfl; split)

theorem State.decideLead_fr {bl : Blocks} {s0 : State} {s : State} (q : Admit) (a : Ask) (c : TxClass) (l : List Judged2) (car : Option Caravan)
    (hm : Blocks.le { rad := true, node := true, adm := true, fsp := true, evt := true, upd := true, way := true, out := true } bl = true) (hev : Keeps bl s0 s) :
    Keeps bl s0 (State.decideLead s q a c l car) := by
  unfold State.decideLead
  repeat' first
    | with_reducible assumption
    | exact Blocks.le_trans rfl hm
    | with_reducible apply State.decideFit_fr
    | with_reducible apply State.decline_fr
    | with_reducible apply State.declineCaravan_fr
    | with_reducible apply keeps_ite
    | (with_reducible apply keeps_mk (a := { rad := true, node := true, adm := true, fsp := true, evt := true, upd := true, way := true, out := true }) hm; dsimp only [cond_true, cond_false] <;> exact rfl; split)

theorem State.decideTargets_fr {bl : Blocks} {s0 : State} {s : State} (q : Admit) (a : Ask) (c : TxClass) (car : Option Caravan)
    (hm : Blocks.le { rad := true, node := true, adm := true, fsp := true, drv := true, evt := true, upd := true, way := true, out := true } bl = true) (hev : Keeps bl s0 s) :
    Keeps bl s0 (State.decideTargets s q a c car) := by
  unfold State.decideTargets
  repeat' first
    | with_reducible assumption
    | exact Blocks.le_trans rfl hm
    | with_reducible apply State.decideLead_fr
    | with_reducible apply State.decideSafety_fr
    | with_reducible apply State.decline_fr
    | with_reducible apply keeps_ite

theorem State.decideAdmit_fr {bl : Blocks} {s0 : State} {s : State} (q : Admit)
    (hm : Blocks.le { rad := true, node := true, adm := true, fsp := true, drv := true, evt := true, upd := true, way := true, out := true } bl = true) (hev : Keeps bl s0 s) :
    Keeps bl s0 (State.decideAdmit s q) := by
  unfold State.decideAdmit
  repeat' first
    | with_reducible assumption
    | exact Blocks.le_trans rfl hm
    | with_reducible apply State.decideTargets_fr
    | with_reducible apply State.decline_fr
    | with_reducible apply State.declineCounted_fr
    | with_reducible apply keeps_ite
    | (with_reducible apply keeps_mk (a := { rad := true, node := true, adm := true, fsp := true, drv := true, evt := true, upd := true, way := true, out := true }) hm; dsimp only [cond_true, cond_false] <;> exact rfl; split)

theorem execAdmitDecision_fr {bl : Blocks} {s0 s1 : State} {s : State} (e : execAdmitDecision s = .next s1)
    (hm : Blocks.le { rad := true, node := true, adm := true, fsp := true, drv := true, evt := true, upd := true, way := true, out := true } bl = true) (hev : Keeps bl s0 s) : Keeps bl s0 s1 := by
  unfold execAdmitDecision at e
  refine keeps_next e ?_
  repeat' first
    | with_reducible assumption
    | refine fun (_ : Keeps _ _ _) => ?_
    | with_reducible apply keeps_whenLive
    | with_reducible apply State.decideAdmit_fr
    | (with_reducible apply keeps_mk (a := { rad := true, node := true, adm := true, fsp := true, drv := true, evt := true, upd := true, way := true, out := true }) hm; dsimp only [cond_true, cond_false] <;> exact rfl; (first | with_reducible assumption | split))
    | intro x

theorem execOutcomeDeadline_fr {bl : Blocks} {s0 s1 : State} (id : Word) {s : State} (e : execOutcomeDeadline id s = .next s1)
    (hm : Blocks.le { rad := true, adm := true, fsp := true, evt := true, upd := true, way := true, out := true } bl = true) (hev : Keeps bl s0 s) : Keeps bl s0 s1 := by
  unfold execOutcomeDeadline at e
  refine keeps_next e ?_
  repeat' first
    | with_reducible assumption
    | refine fun (_ : Keeps _ _ _) => ?_
    | with_reducible apply keeps_iff
    | with_reducible apply keeps_whenLive
    | with_reducible apply State.outcome_fr
    | (with_reducible apply keeps_mk (a := { rad := true, adm := true, fsp := true, evt := true, upd := true, way := true, out := true }) hm; dsimp only [cond_true, cond_false] <;> exact rfl; split)
    | intro x

theorem State.query_fr {bl : Blocks} {s0 : State} {s : State} (p : Promise) (short : Nat)
    (hm : Blocks.le { rad := true } bl = true) (hev : Keeps bl s0 s) :
    Keeps bl s0 (State.query s p short) := by
  unfold State.query
  repeat' first
    | with_reducible assumption
    | with_reducible apply State.sendNode_fr
    | (with_reducible apply keeps_mk (a := { rad := true }) hm; dsimp only [cond_true, cond_false] <;> exact rfl; split)

theorem execQueryNoAnswer_fr {bl : Blocks} {s0 s1 : State} (id : Word) (short : BitVec 16) {s : State} (e : execQueryNoAnswer id short s = .next s1)
    (hm : Blocks.le { rad := true, adm := true } bl = true) (hev : Keeps bl s0 s) : Keeps bl s0 s1 := by
  unfold execQueryNoAnswer at e
  refine keeps_next e ?_
  repeat' first
    | with_reducible assumption
    | exact Blocks.le_trans rfl hm
    | refine fun (_ : Keeps _ _ _) => ?_
    | with_reducible apply keeps_iff
    | with_reducible apply keeps_whenLive
    | with_reducible apply State.modPromise_fr
    | with_reducible apply State.query_fr
    | (with_reducible apply keeps_mk (a := { rad := true, adm := true }) hm; dsimp only [cond_true, cond_false] <;> exact rfl; split)
    | intro x

theorem execRejoinTimeout_fr {bl : Blocks} {s0 s1 : State} {s : State} (e : execRejoinTimeout s = .next s1)
    (hm : Blocks.le { rad := true, node := true, adm := true, evt := true, way := true, freeIdx := true } bl = true) (hev : Keeps bl s0 s) : Keeps bl s0 s1 := by
  unfold execRejoinTimeout at e
  refine keeps_next e ?_
  repeat' first
    | with_reducible assumption
    | refine fun (_ : Keeps _ _ _) => ?_
    | with_reducible apply keeps_iff
    | with_reducible apply keeps_whenLive
    | with_reducible apply State.endRejoin_fr
    | (with_reducible apply keeps_mk (a := { rad := true, node := true, adm := true, evt := true, way := true, freeIdx := true }) hm; dsimp only [cond_true, cond_false] <;> exact rfl; split)
    | intro x

end Sys2Proof.Machine
end

