-- ==== Sys2Proof/Laws/FrQueues.lean ====
section
/-! SUPPORT. Every operation of Machine/Queues.lean keeps what it does not name (Safety.lean). -/

set_option Elab.async false

namespace Sys2Proof.Machine

theorem State.setQueue_fr {bl : Blocks} {s0 : State} {s : State} (q : Nat) (c : QueueSt)
    (hm : Blocks.le { que := true } bl = true) (hev : Keeps bl s0 s) :
    Keeps bl s0 (State.setQueue s q c) := by
  unfold State.setQueue
  repeat' first
    | (with_reducible apply keeps_mk (a := { que := true }) hm; dsimp only [cond_true, cond_false] <;> exact rfl; with_reducible assumption)

theorem State.postQueue_fr {bl : Blocks} {s0 : State} {s : State} (q kind : Nat)
    (hm : Blocks.le { evt := true } bl = true) (hev : Keeps bl s0 s) :
    Keeps bl s0 (State.postQueue s q kind) := by
  unfold State.postQueue
  repeat' first
    | with_reducible assumption
    | with_reducible apply State.post_fr
    | (with_reducible apply keeps_mk (a := { evt := true }) hm; dsimp only [cond_true, cond_false] <;> exact rfl; split)

theorem State.watermark_fr {bl : Blocks} {s0 : State} {s : State} (q : Nat)
    (hm : Blocks.le { que := true, evt := true } bl = true) (hev : Keeps bl s0 s) :
    Keeps bl s0 (State.watermark s q) := by
  unfold State.watermark
  repeat' first
    | with_reducible assumption
    | exact Blocks.le_trans rfl hm
    | with_reducible apply State.postQueue_fr
    | with_reducible apply State.setQueue_fr
    | with_reducible apply keeps_ite
    | (with_reducible apply keeps_mk (a := { que := true, evt := true }) hm; dsimp only [cond_true, cond_false] <;> exact rfl; split)

theorem State.pushWord_fr {bl : Blocks} {s0 : State} {s : State} (q : Nat) (w : QWord)
    (hm : Blocks.le { que := true, evt := true } bl = true) (hev : Keeps bl s0 s) :
    Keeps bl s0 (State.pushWord s q w) := by
  unfold State.pushWord
  repeat' first
    | with_reducible assumption
    | exact Blocks.le_trans rfl hm
    | refine fun (_ : Keeps _ _ _) => ?_
    | with_reducible apply keeps_iff
    | with_reducible apply State.postQueue_fr
    | with_reducible apply State.setQueue_fr
    | with_reducible apply State.watermark_fr
    | with_reducible apply keeps_ite
    | (with_reducible apply keeps_mk (a := { que := true, evt := true }) hm; dsimp only [cond_true, cond_false] <;> exact rfl; split)
    | intro x

theorem execQueuePush_fr {bl : Blocks} {s0 s1 : State} (q : Fin 128) (data : BitVec 64) (parity : Bool) {s : State} (e : execQueuePush q data parity s = .next s1)
    (hm : Blocks.le { que := true, evt := true } bl = true) (hev : Keeps bl s0 s) : Keeps bl s0 s1 := by
  unfold execQueuePush at e
  refine keeps_next e ?_
  repeat' first
    | with_reducible assumption
    | refine fun (_ : Keeps _ _ _) => ?_
    | with_reducible apply keeps_whenLive
    | with_reducible apply State.pushWord_fr
    | intro x

theorem State.fellRow_fr {bl : Blocks} {s0 : State} {s : State} (q row : Nat)
    (hm : Blocks.le { que := true, evt := true, cop := true, way := true } bl = true) (hev : Keeps bl s0 s) :
    Keeps bl s0 (State.fellRow s q row) := by
  unfold State.fellRow
  repeat' first
    | with_reducible assumption
    | exact Blocks.le_trans rfl hm
    | with_reducible apply State.postQueue_fr
    | with_reducible apply State.raiseThin_fr
    | with_reducible apply State.record_fr
    | with_reducible apply keeps_ite
    | (with_reducible apply keeps_mk (a := { que := true, evt := true, cop := true, way := true }) hm; dsimp only [cond_true, cond_false] <;> exact rfl; (first | with_reducible assumption | with_reducible apply State.postQueue_fr))

theorem State.readWord'_fr {bl : Blocks} {s0 : State} {s : State} (q : Nat) (disturb1 disturb2 : Bool)
    (hm : Blocks.le { que := true, evt := true, cop := true, way := true } bl = true) (hev : Keeps bl s0 s) :
    Keeps bl s0 (State.readWord' s q disturb1 disturb2) := by
  unfold State.readWord'
  repeat' first
    | with_reducible assumption
    | exact Blocks.le_trans rfl hm
    | with_reducible apply State.fellRow_fr
    | with_reducible apply State.postQueue_fr
    | with_reducible apply State.setQueue_fr
    | with_reducible apply State.watermark_fr
    | with_reducible apply keeps_ite
    | (with_reducible apply keeps_mk (a := { que := true, evt := true, cop := true, way := true }) hm; dsimp only [cond_true, cond_false] <;> exact rfl; (first | with_reducible assumption | split))

theorem execQueueRead_fr {bl : Blocks} {s0 s1 : State} (q : Fin 128) (disturb1 disturb2 : Bool) {s : State} (e : execQueueRead q disturb1 disturb2 s = .next s1)
    (hm : Blocks.le { que := true, evt := true, cop := true, way := true } bl = true) (hev : Keeps bl s0 s) : Keeps bl s0 s1 := by
  unfold execQueueRead at e
  refine keeps_next e ?_
  repeat' first
    | with_reducible assumption
    | refine fun (_ : Keeps _ _ _) => ?_
    | with_reducible apply keeps_whenLive
    | with_reducible apply State.readWord'_fr
    | intro x

theorem execRowCopyDone_fr {bl : Blocks} {s0 s1 : State} (row : Fin 544) {s : State} (e : execRowCopyDone row s = .next s1)
    (hm : Blocks.le { que := true } bl = true) (hev : Keeps bl s0 s) : Keeps bl s0 s1 := by
  unfold execRowCopyDone at e
  refine keeps_next e ?_
  repeat' first
    | with_reducible assumption
    | refine fun (_ : Keeps _ _ _) => ?_
    | with_reducible apply keeps_whenLive
    | (with_reducible apply keeps_mk (a := { que := true }) hm; dsimp only [cond_true, cond_false] <;> exact rfl; with_reducible assumption)
    | intro x

theorem State.writeQueCtrl_fr {bl : Blocks} {s0 : State} {s : State} (v : Nat) (w : Writer)
    (hm : Blocks.le { que := true, evt := true, way := true, regs := true } bl = true) (hev : Keeps bl s0 s) :
    Keeps bl s0 (State.writeQueCtrl s v w).1 := by
  unfold State.writeQueCtrl
  repeat' first
    | with_reducible assumption
    | exact Blocks.le_trans rfl hm
    | refine fun (_ : Keeps _ _ _) => ?_
    | with_reducible apply keeps_iff
    | with_reducible apply State.writeReg_fr
    | (with_reducible apply keeps_mk (a := { que := true, evt := true, way := true, regs := true }) hm; dsimp only [cond_true, cond_false] <;> exact rfl; with_reducible assumption)
    | intro x

theorem State.writeQueCtrl_keq {bl : Blocks} {s0 sx : State} {s : State} {v : Nat} {w : Writer} {qx : Reason} (e : (State.writeQueCtrl s v w) = (sx, qx))
    (hm : Blocks.le { que := true, evt := true, way := true, regs := true } bl = true) (hev : Keeps bl s0 s) : Keeps bl s0 sx := by
  have g := State.writeQueCtrl_fr v w hm hev
  rw [e] at g
  exact g

theorem execQueCntClr_fr {bl : Blocks} {s0 s1 : State} (value : Word) (w : Writer) {s : State} (e : execQueCntClr value w s = .next s1)
    (hm : Blocks.le { que := true, evt := true, way := true, regs := true } bl = true) (hev : Keeps bl s0 s) : Keeps bl s0 s1 := by
  unfold execQueCntClr at e
  refine keeps_next e ?_
  repeat' first
    | with_reducible assumption
    | refine fun (_ : Keeps _ _ _) => ?_
    | with_reducible apply keeps_whenLive
    | with_reducible apply State.writeQueCtrl_fr
    | intro x

theorem State.writePeak_fr {bl : Blocks} {s0 : State} {s : State} (q v : Nat)
    (hm : Blocks.le { que := true } bl = true) (hev : Keeps bl s0 s) :
    Keeps bl s0 (State.writePeak s q v) := by
  unfold State.writePeak
  repeat' first
    | with_reducible assumption
    | with_reducible apply State.setQueue_fr
    | with_reducible apply keeps_ite
    | (with_reducible apply keeps_mk (a := { que := true }) hm; dsimp only [cond_true, cond_false] <;> exact rfl; split)

theorem execQueuePeakRestart_fr {bl : Blocks} {s0 s1 : State} (q : Fin 128) (value : Word) {s : State} (e : execQueuePeakRestart q value s = .next s1)
    (hm : Blocks.le { que := true } bl = true) (hev : Keeps bl s0 s) : Keeps bl s0 s1 := by
  unfold execQueuePeakRestart at e
  refine keeps_next e ?_
  repeat' first
    | with_reducible assumption
    | refine fun (_ : Keeps _ _ _) => ?_
    | with_reducible apply keeps_whenLive
    | with_reducible apply State.writePeak_fr
    | intro x

theorem State.writeQueStatus_fr {bl : Blocks} {s0 : State} {s : State} (q v : Nat)
    (hm : Blocks.le { que := true } bl = true) (hev : Keeps bl s0 s) :
    Keeps bl s0 (State.writeQueStatus s q v) := by
  unfold State.writeQueStatus
  repeat' first
    | with_reducible assumption
    | with_reducible apply State.setQueue_fr
    | (with_reducible apply keeps_mk (a := { que := true }) hm; dsimp only [cond_true, cond_false] <;> exact rfl; split)

end Sys2Proof.Machine
end

