-- ==== Sys2Proof/Laws/FrAir.lean ====
section
/-! SUPPORT. Every operation of Machine/Air.lean keeps what it does not name (Safety.lean). -/

set_option Elab.async false

namespace Sys2Proof.Machine

theorem execDutyBinRoll_fr {bl : Blocks} {s0 s1 : State} {s : State} (e : execDutyBinRoll s = .next s1)
    (hm : Blocks.le { rad := true } bl = true) (hev : Keeps bl s0 s) : Keeps bl s0 s1 := by
  unfold execDutyBinRoll at e
  refine keeps_next e ?_
  repeat' first
    | with_reducible assumption
    | refine fun (_ : Keeps _ _ _) => ?_
    | with_reducible apply keeps_whenLive
    | (with_reducible apply keeps_mk (a := { rad := true }) hm; dsimp only [cond_true, cond_false] <;> exact rfl; with_reducible assumption)
    | intro x

theorem State.queueFrame_fr {bl : Blocks} {s0 : State} {s : State} (g : Nat)
    (hm : Blocks.le { que := true, evt := true, freeIdx := true } bl = true) (hev : Keeps bl s0 s) :
    Keeps bl s0 (State.queueFrame s g) := by
  unfold State.queueFrame
  repeat' first
    | with_reducible assumption
    | exact Blocks.le_trans rfl hm
    | with_reducible apply State.drawNat_fr
    | with_reducible apply State.postTile_fr
    | with_reducible apply State.pushWord_fr
    | (with_reducible apply keeps_mk (a := { que := true, evt := true, freeIdx := true }) hm; dsimp only [cond_true, cond_false] <;> exact rfl; split)

theorem State.sendAck_fr {bl : Blocks} {s0 : State} {s : State} (g t : Nat) (f : RxFrame) (nack : Bool)
    (hm : Blocks.le { rad := true, out := true } bl = true) (hev : Keeps bl s0 s) :
    Keeps bl s0 (State.sendAck s g t f nack) := by
  unfold State.sendAck
  repeat' first
    | with_reducible assumption
    | exact Blocks.le_trans rfl hm
    | with_reducible apply State.addDuty_fr
    | with_reducible apply State.emit_fr
    | with_reducible apply State.modTrx_fr
    | with_reducible apply keeps_ite
    | (with_reducible apply keeps_mk (a := { rad := true, out := true }) hm; dsimp only [cond_true, cond_false] <;> exact rfl; with_reducible apply State.emit_fr)

theorem State.hear_fr {bl : Blocks} {s0 : State} {s : State} (short : Nat)
    (hm : Blocks.le { rad := true } bl = true) (hev : Keeps bl s0 s) :
    Keeps bl s0 (State.hear s short) := by
  unfold State.hear
  repeat' first | with_reducible assumption | with_reducible apply State.modEntry_fr

theorem State.linkFault_fr {bl : Blocks} {s0 : State} {s : State} (g : Nat) (f : RxFrame)
    (hm : Blocks.le { rad := true, evt := true, way := true } bl = true) (hev : Keeps bl s0 s) :
    Keeps bl s0 (State.linkFault s g f) := by
  unfold State.linkFault
  repeat' first
    | with_reducible assumption
    | exact Blocks.le_trans rfl hm
    | with_reducible apply State.nak_fr
    | with_reducible apply State.radViolation_fr
    | with_reducible apply keeps_ite
    | (with_reducible apply keeps_mk (a := { rad := true, evt := true, way := true }) hm; dsimp only [cond_true, cond_false] <;> exact rfl; split)

theorem State.acceptFrame_fr {bl : Blocks} {s0 : State} {s : State} (g t : Nat) (f : RxFrame) (e : Entry)
    (hm : Blocks.le { rad := true, node := true, dim := true, que := true, evt := true, way := true, out := true, freeIdx := true } bl = true) (hev : Keeps bl s0 s) :
    Keeps bl s0 (State.acceptFrame s g t f e) := by
  unfold State.acceptFrame
  repeat' first
    | with_reducible assumption
    | exact Blocks.le_trans rfl hm
    | with_reducible apply State.hear_fr
    | with_reducible apply State.linkFault_fr
    | with_reducible apply State.modTrx_fr
    | with_reducible apply State.nodeHeard_fr
    | with_reducible apply State.pushWord_fr
    | with_reducible apply State.putEntry_fr
    | with_reducible apply State.queueFrame_fr
    | with_reducible apply State.radViolation_fr
    | with_reducible apply State.sendAck_fr
    | with_reducible apply keeps_ite
    | (with_reducible apply keeps_mk (a := { rad := true, node := true, dim := true, que := true, evt := true, way := true, out := true, freeIdx := true }) hm; dsimp only [cond_true, cond_false] <;> exact rfl; split)

theorem State.countFiltered_fr {bl : Blocks} {s0 : State} {s : State} (t : Nat)
    (hm : Blocks.le { rad := true } bl = true) (hev : Keeps bl s0 s) :
    Keeps bl s0 (State.countFiltered s t) := by
  unfold State.countFiltered
  repeat' first | with_reducible assumption | with_reducible apply State.modTrx_fr

theorem State.dataFrame_fr {bl : Blocks} {s0 s : State} (g t : Nat) (f : RxFrame)
    (hm : Blocks.le { rad := true, node := true, dim := true, que := true, evt := true, way := true, out := true, freeIdx := true } bl = true)
    (hev : Keeps bl s0 s) :
    Keeps bl s0 (s.dataFrame g t f) := by
  unfold State.dataFrame
  refine keeps_ite _ (State.radViolation_fr _ _ _ _ (Blocks.le_trans rfl hm) hev) ?_
  generalize s.filter g f = o
  cases o with
  | counted => exact State.countFiltered_fr _ (Blocks.le_trans rfl hm) hev
  | silent => exact hev
  | pass e =>
    refine keeps_ite _ (State.radViolation_fr _ _ _ _ (Blocks.le_trans rfl hm) hev) (keeps_ite _ ?_ ?_)
    · exact State.radViolation_fr _ _ _ _ (Blocks.le_trans rfl hm) (State.postTile_fr _ _ _ _ _ (Blocks.le_trans rfl hm) (State.modTrx_fr _ _ (Blocks.le_trans rfl hm) hev))
    · generalize judgeFrame s.key.generation e f.keyIndex f.counter = j
      cases j with
      | accept e => exact State.acceptFrame_fr _ _ _ _ (Blocks.le_trans rfl hm) hev
      | duplicate => exact State.sendAck_fr _ _ _ _ (Blocks.le_trans rfl hm) (State.modTrx_fr _ _ (Blocks.le_trans rfl hm) hev)
      | replay => exact State.radViolation_fr _ _ _ _ (Blocks.le_trans rfl hm) (State.modTrx_fr _ _ (Blocks.le_trans rfl hm) hev)
      | older => exact hev

theorem State.delivered_fr {bl : Blocks} {s0 : State} {s : State} (load : Load)
    (hm : Blocks.le { rad := true, node := true, adm := true } bl = true) (hev : Keeps bl s0 s) :
    Keeps bl s0 (State.delivered s load) := by
  unfold State.delivered
  repeat' first
    | with_reducible assumption
    | exact Blocks.le_trans rfl hm
    | with_reducible apply State.modNode_fr
    | with_reducible apply State.modPromise_fr
    | with_reducible apply keeps_ite
    | (with_reducible apply keeps_mk (a := { rad := true, node := true, adm := true }) hm; dsimp only [cond_true, cond_false] <;> exact rfl; split)

theorem State.ackFrame_fr {bl : Blocks} {s0 : State} {s : State} (g source : Nat) (nack : Bool)
    (hm : Blocks.le { rad := true, node := true, adm := true } bl = true) (hev : Keeps bl s0 s) :
    Keeps bl s0 (State.ackFrame s g source nack) := by
  unfold State.ackFrame
  repeat' first
    | with_reducible assumption
    | with_reducible apply State.delivered_fr
    | with_reducible apply keeps_ite
    | (with_reducible apply keeps_mk (a := { rad := true, node := true, adm := true }) hm; dsimp only [cond_true, cond_false] <;> exact rfl; (first | with_reducible assumption | split))

theorem State.ackJoin_fr {bl : Blocks} {s0 : State} {s : State} (g eui : Nat)
    (hm : Blocks.le { rad := true, node := true, adm := true } bl = true) (hev : Keeps bl s0 s) :
    Keeps bl s0 (State.ackJoin s g eui) := by
  unfold State.ackJoin
  repeat' first
    | with_reducible assumption
    | with_reducible apply State.delivered_fr
    | (with_reducible apply keeps_mk (a := { rad := true, node := true, adm := true }) hm; dsimp only [cond_true, cond_false] <;> exact rfl; (first | with_reducible assumption | split))

theorem State.frameReceived_fr {bl : Blocks} {s0 : State} {s : State} (g : Nat) (f : RxFrame)
    (hm : Blocks.le { rad := true, node := true, adm := true, dim := true, que := true, evt := true, way := true, out := true, freeIdx := true } bl = true) (hev : Keeps bl s0 s) :
    Keeps bl s0 (State.frameReceived s g f) := by
  unfold State.frameReceived
  repeat' first
    | with_reducible assumption
    | exact Blocks.le_trans rfl hm
    | with_reducible apply State.ackFrame_fr
    | with_reducible apply State.ackJoin_fr
    | with_reducible apply State.countFiltered_fr
    | with_reducible apply State.dataFrame_fr
    | with_reducible apply State.modTrx_fr
    | with_reducible apply State.postTile_fr
    | with_reducible apply keeps_ite
    | (with_reducible apply keeps_mk (a := { rad := true, node := true, adm := true, dim := true, que := true, evt := true, way := true, out := true, freeIdx := true }) hm; dsimp only [cond_true, cond_false] <;> exact rfl; split)

theorem execFrameReceived_fr {bl : Blocks} {s0 s1 : State} (grove : Fin 8) (frame : RxFrame) {s : State} (e : execFrameReceived grove frame s = .next s1)
    (hm : Blocks.le { rad := true, node := true, adm := true, dim := true, que := true, evt := true, way := true, out := true, freeIdx := true } bl = true) (hev : Keeps bl s0 s) : Keeps bl s0 s1 := by
  unfold execFrameReceived at e
  refine keeps_next e ?_
  repeat' first
    | with_reducible assumption
    | refine fun (_ : Keeps _ _ _) => ?_
    | with_reducible apply keeps_iff
    | with_reducible apply keeps_whenLive
    | with_reducible apply State.frameReceived_fr
    | intro x

theorem execLedgerUnmute_fr {bl : Blocks} {s0 s1 : State} (place : Fin 4096) {s : State} (e : execLedgerUnmute place s = .next s1)
    (hm : Blocks.le { rad := true } bl = true) (hev : Keeps bl s0 s) : Keeps bl s0 s1 := by
  unfold execLedgerUnmute at e
  refine keeps_next e ?_
  repeat' first
    | with_reducible assumption
    | refine fun (_ : Keeps _ _ _) => ?_
    | with_reducible apply keeps_iff
    | with_reducible apply keeps_whenLive
    | (with_reducible apply keeps_mk (a := { rad := true }) hm; dsimp only [cond_true, cond_false] <;> exact rfl; (first | with_reducible assumption | split))
    | intro x

theorem State.handBack_fr {bl : Blocks} {s0 : State} {s : State}
    (hm : Blocks.le { rad := true, evt := true } bl = true) (hev : Keeps bl s0 s) :
    Keeps bl s0 (State.handBack s) := by
  unfold State.handBack
  repeat' first
    | with_reducible assumption
    | exact hm
    | exact Blocks.le_trans rfl hm
    | refine fun (_ : Keeps _ _ _) => ?_
    | with_reducible apply keeps_iff
    | with_reducible apply keeps_whenLive
    | with_reducible apply keeps_forEach
    | with_reducible apply State.trxChanged_fr
    | with_reducible apply keeps_ite
    | (with_reducible apply keeps_mk (a := { rad := true, evt := true }) hm; dsimp only [cond_true, cond_false] <;> exact rfl; (first | with_reducible assumption | exact hm | exact Blocks.le_trans rfl hm | with_reducible apply keeps_iff | with_reducible apply keeps_whenLive | with_reducible apply keeps_forEach | with_reducible apply State.trxChanged_fr | with_reducible apply keeps_ite | split))
    | (intro x; refine keeps_cut (l := bl) (s0 := s0) (x := x) ?_ ?_; rotate_left; clear_value x; intro hx; rotate_left; subst x)
    | intro x
    | split
    | lift_lets
    | dsimp only

theorem State.writeTrx8_fr {bl : Blocks} {s0 : State} {s : State} (v : Nat) (w : Writer)
    (hm : Blocks.le { rad := true, evt := true, way := true, mon := true, regs := true } bl = true) (hev : Keeps bl s0 s) :
    Keeps bl s0 (State.writeTrx8 s v w).1 := by
  unfold State.writeTrx8
  repeat' first
    | with_reducible assumption
    | exact hm
    | exact Blocks.le_trans rfl hm
    | refine fun (_ : Keeps _ _ _) => ?_
    | with_reducible apply keeps_iff
    | with_reducible apply keeps_whenLive
    | with_reducible apply keeps_forEach
    | with_reducible apply State.endTest_fr
    | with_reducible apply State.handBack_fr
    | with_reducible apply State.writeReg_fr
    | with_reducible apply keeps_ite
    | with_reducible apply keeps_ite_fst
    | refine State.writeReg_keq (by assumption) ?_ ?_
    | (with_reducible apply keeps_mk (a := { rad := true, evt := true, way := true, mon := true, regs := true }) hm; dsimp only [cond_true, cond_false] <;> exact rfl; (first | with_reducible assumption | exact hm | exact Blocks.le_trans rfl hm | with_reducible apply keeps_iff | with_reducible apply keeps_whenLive | with_reducible apply keeps_forEach | with_reducible apply State.endTest_fr | with_reducible apply State.handBack_fr | with_reducible apply State.writeReg_fr | with_reducible apply keeps_ite | with_reducible apply keeps_ite_fst | refine State.writeReg_keq (by assumption) ?_ ?_ | split))
    | (intro x; refine keeps_cut (l := bl) (s0 := s0) (x := x) ?_ ?_; rotate_left; clear_value x; intro hx; rotate_left; subst x)
    | (intro x; refine keeps_cut_snd (l := bl) (s0 := s0) (x := x) ?_ ?_; rotate_left; clear_value x; intro hx; rotate_left; subst x)
    | (intro x; refine keeps_cut_fst (l := bl) (s0 := s0) (x := x) ?_ ?_; rotate_left; clear_value x; intro hx; rotate_left; subst x)
    | intro x
    | split
    | lift_lets
    | dsimp only

theorem State.writeTrx8_keq {bl : Blocks} {s0 sx : State} {s : State} {v : Nat} {w : Writer} {qx : Reason} (e : (State.writeTrx8 s v w) = (sx, qx))
    (hm : Blocks.le { rad := true, evt := true, way := true, mon := true, regs := true } bl = true) (hev : Keeps bl s0 s) : Keeps bl s0 sx := by
  have g := State.writeTrx8_fr v w hm hev
  rw [e] at g
  exact g

theorem execTrx8Takeover_fr {bl : Blocks} {s0 s1 : State} (value : Word) (w : Writer) {s : State} (e : execTrx8Takeover value w s = .next s1)
    (hm : Blocks.le { rad := true, evt := true, way := true, mon := true, regs := true } bl = true) (hev : Keeps bl s0 s) : Keeps bl s0 s1 := by
  unfold execTrx8Takeover at e
  refine keeps_next e ?_
  repeat' first
    | with_reducible assumption
    | refine fun (_ : Keeps _ _ _) => ?_
    | with_reducible apply keeps_whenLive
    | with_reducible apply State.writeTrx8_fr
    | intro x

theorem State.stopGrove_fr {bl : Blocks} {s0 : State} {s : State} (t : Nat)
    (hm : Blocks.le { rad := true, adm := true, evt := true, way := true } bl = true) (hev : Keeps bl s0 s) :
    Keeps bl s0 (State.stopGrove s t) := by
  unfold State.stopGrove
  repeat' first
    | with_reducible assumption
    | exact Blocks.le_trans rfl hm
    | refine fun (_ : Keeps _ _ _) => ?_
    | with_reducible apply keeps_forEach
    | with_reducible apply State.markRadioLoss_fr
    | with_reducible apply State.post_fr
    | with_reducible apply State.recordNode_fr
    | with_reducible apply keeps_ite
    | (with_reducible apply keeps_mk (a := { rad := true, adm := true, evt := true, way := true }) hm; dsimp only [cond_true, cond_false] <;> exact rfl; with_reducible assumption)
    | intro x

theorem State.replaceTrx_fr {bl : Blocks} {s0 : State} {s : State} (t : Nat)
    (hm : Blocks.le { rad := true, adm := true, evt := true, cop := true, way := true, mon := true } bl = true) (hev : Keeps bl s0 s) :
    Keeps bl s0 (State.replaceTrx s t) := by
  unfold State.replaceTrx
  repeat' first
    | with_reducible assumption
    | exact Blocks.le_trans rfl hm
    | with_reducible apply State.stopGrove_fr
    | with_reducible apply keeps_ite
    | (with_reducible apply keeps_mk (a := { rad := true, adm := true, evt := true, cop := true, way := true, mon := true }) hm; dsimp only [cond_true, cond_false] <;> exact rfl; (first | with_reducible apply State.cutSlice_fr | with_reducible apply State.endTest_fr | split))

theorem State.loseTrx8_fr {bl : Blocks} {s0 : State} {s : State}
    (hm : Blocks.le { rad := true, adm := true, evt := true, cop := true, way := true } bl = true) (hev : Keeps bl s0 s) :
    Keeps bl s0 (State.loseTrx8 s) := by
  unfold State.loseTrx8
  repeat' first
    | with_reducible assumption
    | exact Blocks.le_trans rfl hm
    | with_reducible apply State.stopGrove_fr
    | with_reducible apply keeps_ite
    | (with_reducible apply keeps_mk (a := { rad := true, adm := true, evt := true, cop := true, way := true }) hm; dsimp only [cond_true, cond_false] <;> exact rfl; (first | with_reducible assumption | with_reducible apply State.cutSlices_fr | split))

theorem State.trxFault_fr {bl : Blocks} {s0 : State} {s : State} (t : Nat)
    (hm : Blocks.le { rad := true, adm := true, evt := true, cop := true, way := true, mon := true } bl = true) (hev : Keeps bl s0 s) :
    Keeps bl s0 (State.trxFault s t) := by
  unfold State.trxFault
  repeat' first
    | with_reducible assumption
    | exact Blocks.le_trans rfl hm
    | with_reducible apply State.cutSlices_fr
    | with_reducible apply State.endTest_fr
    | with_reducible apply State.fell_fr
    | with_reducible apply State.loseTrx8_fr
    | with_reducible apply State.modTrx_fr
    | with_reducible apply State.recordEvent_fr
    | with_reducible apply State.replaceTrx_fr
    | with_reducible apply State.trxChanged_fr
    | with_reducible apply keeps_ite

theorem execTransceiverFault_fr {bl : Blocks} {s0 s1 : State} (t : Fin 9) {s : State} (e : execTransceiverFault t s = .next s1)
    (hm : Blocks.le { rad := true, adm := true, evt := true, cop := true, way := true, mon := true } bl = true) (hev : Keeps bl s0 s) : Keeps bl s0 s1 := by
  unfold execTransceiverFault at e
  refine keeps_next e ?_
  repeat' first
    | with_reducible assumption
    | refine fun (_ : Keeps _ _ _) => ?_
    | with_reducible apply keeps_whenLive
    | with_reducible apply State.trxFault_fr
    | intro x

theorem State.writeRadCtrl_fr {bl : Blocks} {s0 : State} {s : State} (v : Nat) (w : Writer)
    (hm : Blocks.le { rad := true, evt := true, way := true, regs := true } bl = true) (hev : Keeps bl s0 s) :
    Keeps bl s0 (State.writeRadCtrl s v w).1 := by
  unfold State.writeRadCtrl
  repeat' first
    | with_reducible assumption
    | exact Blocks.le_trans rfl hm
    | refine fun (_ : Keeps _ _ _) => ?_
    | with_reducible apply keeps_forEach
    | with_reducible apply State.trxChanged_fr
    | with_reducible apply State.writeReg_fr
    | with_reducible apply keeps_ite
    | (with_reducible apply keeps_mk (a := { rad := true, evt := true, way := true, regs := true }) hm; dsimp only [cond_true, cond_false] <;> exact rfl; with_reducible apply State.writeReg_fr)
    | intro x

theorem State.writeRadCtrl_keq {bl : Blocks} {s0 sx : State} {s : State} {v : Nat} {w : Writer} {qx : Reason} (e : (State.writeRadCtrl s v w) = (sx, qx))
    (hm : Blocks.le { rad := true, evt := true, way := true, regs := true } bl = true) (hev : Keeps bl s0 s) : Keeps bl s0 sx := by
  have g := State.writeRadCtrl_fr v w hm hev
  rw [e] at g
  exact g

theorem execRadCntClr_fr {bl : Blocks} {s0 s1 : State} (value : Word) (w : Writer) {s : State} (e : execRadCntClr value w s = .next s1)
    (hm : Blocks.le { rad := true, evt := true, way := true, regs := true } bl = true) (hev : Keeps bl s0 s) : Keeps bl s0 s1 := by
  unfold execRadCntClr at e
  refine keeps_next e ?_
  repeat' first
    | with_reducible assumption
    | refine fun (_ : Keeps _ _ _) => ?_
    | with_reducible apply keeps_whenLive
    | with_reducible apply State.writeRadCtrl_fr
    | intro x

theorem State.writeTrx_fr {bl : Blocks} {s0 : State} {s : State} (t v : Nat) (w : Writer)
    (hm : Blocks.le { rad := true, evt := true, way := true, regs := true } bl = true) (hev : Keeps bl s0 s) :
    Keeps bl s0 (State.writeTrx s t v w).1 := by
  unfold State.writeTrx
  repeat' first
    | with_reducible assumption
    | exact Blocks.le_trans rfl hm
    | with_reducible apply State.modTrx_fr
    | with_reducible apply State.trxChanged_fr
    | with_reducible apply State.writeReg_fr
    | with_reducible apply keeps_ite_fst

theorem State.writeTrx_keq {bl : Blocks} {s0 sx : State} {s : State} {t v : Nat} {w : Writer} {qx : Reason} (e : (State.writeTrx s t v w) = (sx, qx))
    (hm : Blocks.le { rad := true, evt := true, way := true, regs := true } bl = true) (hev : Keeps bl s0 s) : Keeps bl s0 sx := by
  have g := State.writeTrx_fr t v w hm hev
  rw [e] at g
  exact g

theorem execTrxCtrlWrite_fr {bl : Blocks} {s0 s1 : State} (t : Fin 9) (value : Word) (w : Writer) {s : State} (e : execTrxCtrlWrite t value w s = .next s1)
    (hm : Blocks.le { rad := true, evt := true, way := true, regs := true } bl = true) (hev : Keeps bl s0 s) : Keeps bl s0 s1 := by
  unfold execTrxCtrlWrite at e
  refine keeps_next e ?_
  repeat' first
    | with_reducible assumption
    | refine fun (_ : Keeps _ _ _) => ?_
    | with_reducible apply keeps_whenLive
    | with_reducible apply State.writeTrx_fr
    | intro x

theorem State.writeSafeIe_fr {bl : Blocks} {s0 : State} {s : State} (v : Nat) (w : Writer)
    (hm : Blocks.le { rad := true, evt := true, way := true, regs := true } bl = true) (hev : Keeps bl s0 s) :
    Keeps bl s0 (State.writeSafeIe s v w).1 := by
  unfold State.writeSafeIe
  repeat' first
    | with_reducible assumption
    | exact Blocks.le_trans rfl hm
    | with_reducible apply State.writeReg_fr
    | with_reducible apply keeps_ite_fst
    | (with_reducible apply keeps_mk (a := { rad := true, evt := true, way := true, regs := true }) hm; dsimp only [cond_true, cond_false] <;> exact rfl; with_reducible apply State.writeReg_fr)

theorem State.writeSafeIe_keq {bl : Blocks} {s0 sx : State} {s : State} {v : Nat} {w : Writer} {qx : Reason} (e : (State.writeSafeIe s v w) = (sx, qx))
    (hm : Blocks.le { rad := true, evt := true, way := true, regs := true } bl = true) (hev : Keeps bl s0 s) : Keeps bl s0 sx := by
  have g := State.writeSafeIe_fr v w hm hev
  rw [e] at g
  exact g

theorem execSafeieWrite_fr {bl : Blocks} {s0 s1 : State} (value : Word) (w : Writer) {s : State} (e : execSafeieWrite value w s = .next s1)
    (hm : Blocks.le { rad := true, evt := true, way := true, regs := true } bl = true) (hev : Keeps bl s0 s) : Keeps bl s0 s1 := by
  unfold execSafeieWrite at e
  refine keeps_next e ?_
  repeat' first
    | with_reducible assumption
    | refine fun (_ : Keeps _ _ _) => ?_
    | with_reducible apply keeps_whenLive
    | with_reducible apply State.writeSafeIe_fr
    | intro x

theorem State.ledgerRead_fr {bl : Blocks} {s0 : State} {s : State}
    (hm : Blocks.le { rad := true, regs := true } bl = true) (hev : Keeps bl s0 s) :
    Keeps bl s0 (State.ledgerRead s) := by
  unfold State.ledgerRead
  repeat' first
    | with_reducible assumption
    | exact Blocks.le_trans rfl hm
    | with_reducible apply State.setReg_fr
    | (with_reducible apply keeps_mk (a := { rad := true, regs := true }) hm; dsimp only [cond_true, cond_false] <;> exact rfl; with_reducible apply State.setReg_fr)

theorem execLedgerRead_fr {bl : Blocks} {s0 s1 : State} {s : State} (e : execLedgerRead s = .next s1)
    (hm : Blocks.le { rad := true, regs := true } bl = true) (hev : Keeps bl s0 s) : Keeps bl s0 s1 := by
  unfold execLedgerRead at e
  refine keeps_next e ?_
  repeat' first
    | with_reducible assumption
    | refine fun (_ : Keeps _ _ _) => ?_
    | with_reducible apply keeps_whenLive
    | with_reducible apply State.ledgerRead_fr
    | intro x

theorem State.ledgerWrite_fr {bl : Blocks} {s0 : State} {s : State}
    (hm : Blocks.le { rad := true } bl = true) (hev : Keeps bl s0 s) :
    Keeps bl s0 (State.ledgerWrite s) := by
  unfold State.ledgerWrite
  repeat' first
    | (with_reducible apply keeps_mk (a := { rad := true }) hm; dsimp only [cond_true, cond_false] <;> exact rfl; with_reducible assumption)

theorem execLedgerWrite_fr {bl : Blocks} {s0 s1 : State} {s : State} (e : execLedgerWrite s = .next s1)
    (hm : Blocks.le { rad := true } bl = true) (hev : Keeps bl s0 s) : Keeps bl s0 s1 := by
  unfold execLedgerWrite at e
  refine keeps_next e ?_
  repeat' first
    | with_reducible assumption
    | refine fun (_ : Keeps _ _ _) => ?_
    | with_reducible apply keeps_whenLive
    | with_reducible apply State.ledgerWrite_fr
    | intro x

theorem State.ledgerClear_fr {bl : Blocks} {s0 : State} {s : State}
    (hm : Blocks.le { rad := true } bl = true) (hev : Keeps bl s0 s) :
    Keeps bl s0 (State.ledgerClear s) := by
  unfold State.ledgerClear
  repeat' first
    | (with_reducible apply keeps_mk (a := { rad := true }) hm; dsimp only [cond_true, cond_false] <;> exact rfl; with_reducible assumption)

theorem execLedgerClear_fr {bl : Blocks} {s0 s1 : State} {s : State} (e : execLedgerClear s = .next s1)
    (hm : Blocks.le { rad := true } bl = true) (hev : Keeps bl s0 s) : Keeps bl s0 s1 := by
  unfold execLedgerClear at e
  refine keeps_next e ?_
  repeat' first
    | with_reducible assumption
    | refine fun (_ : Keeps _ _ _) => ?_
    | with_reducible apply keeps_whenLive
    | with_reducible apply State.ledgerClear_fr
    | intro x

end Sys2Proof.Machine
end

