-- ==== Sys2Proof/Laws/FrDim.lean ====
section
/-! SUPPORT. Every operation of Machine/Dim.lean keeps what it does not name (Safety.lean). -/

set_option Elab.async false

namespace Sys2Proof.Machine

theorem execKcFeedbackChange_fr {bl : Blocks} {s0 s1 : State} (k : Fin 4) (level : Bool) {s : State} (e : execKcFeedbackChange k level s = .next s1)
    (hm : Blocks.le { dim := true, evt := true, way := true, fld := true } bl = true) (hev : Keeps bl s0 s) : Keeps bl s0 s1 := by
  unfold execKcFeedbackChange at e
  refine keeps_next e ?_
  repeat' first
    | with_reducible assumption
    | exact Blocks.le_trans rfl hm
    | refine fun (_ : Keeps _ _ _) => ?_
    | with_reducible apply keeps_whenLive
    | with_reducible apply State.kcFeedback_fr
    | with_reducible apply State.post_fr
    | (with_reducible apply keeps_mk (a := { dim := true, evt := true, way := true, fld := true }) hm; dsimp only [cond_true, cond_false] <;> exact rfl; with_reducible assumption)
    | intro x

theorem State.kcRetry_fr {bl : Blocks} {s0 : State} {s : State} (k : Nat) (st : KcState)
    (hm : Blocks.le { dim := true } bl = true) (hev : Keeps bl s0 s) :
    Keeps bl s0 (State.kcRetry s k st) := by
  unfold State.kcRetry
  repeat' first | with_reducible assumption | with_reducible apply State.modKc_fr

theorem State.kcFault_fr {bl : Blocks} {s0 : State} {s : State} (k : Nat)
    (hm : Blocks.le { dim := true, evt := true, way := true } bl = true) (hev : Keeps bl s0 s) :
    Keeps bl s0 (State.kcFault s k) := by
  unfold State.kcFault
  repeat' first
    | with_reducible assumption
    | exact Blocks.le_trans rfl hm
    | with_reducible apply State.modKc_fr
    | with_reducible apply State.postTile_fr
    | with_reducible apply State.recordKc_fr

theorem execContactorFeedbackTimeout_fr {bl : Blocks} {s0 s1 : State} (k : Fin 4) {s : State} (e : execContactorFeedbackTimeout k s = .next s1)
    (hm : Blocks.le { dim := true, evt := true, way := true } bl = true) (hev : Keeps bl s0 s) : Keeps bl s0 s1 := by
  unfold execContactorFeedbackTimeout at e
  refine keeps_next e ?_
  repeat' first
    | with_reducible assumption
    | exact Blocks.le_trans rfl hm
    | refine fun (_ : Keeps _ _ _) => ?_
    | with_reducible apply keeps_whenLive
    | with_reducible apply State.kcFault_fr
    | with_reducible apply State.kcRetry_fr
    | with_reducible apply State.kcSettle_fr
    | with_reducible apply keeps_ite
    | (with_reducible apply keeps_mk (a := { dim := true, evt := true, way := true }) hm; dsimp only [cond_true, cond_false] <;> exact rfl; split)
    | intro x

theorem execContactorRetryPulseEnd_fr {bl : Blocks} {s0 s1 : State} (k : Fin 4) {s : State} (e : execContactorRetryPulseEnd k s = .next s1)
    (hm : Blocks.le { dim := true, evt := true, way := true } bl = true) (hev : Keeps bl s0 s) : Keeps bl s0 s1 := by
  unfold execContactorRetryPulseEnd at e
  refine keeps_next e ?_
  repeat' first
    | with_reducible assumption
    | exact Blocks.le_trans rfl hm
    | refine fun (_ : Keeps _ _ _) => ?_
    | with_reducible apply keeps_whenLive
    | with_reducible apply State.kcFeedback_fr
    | with_reducible apply State.modKc_fr
    | with_reducible apply keeps_ite
    | intro x

theorem State.endBin_fr {bl : Blocks} {s0 : State} {s : State} (bin : Nat × Nat × Nat) (e : List Byte)
    (hm : Blocks.le { dim := true } bl = true) (hev : Keeps bl s0 s) :
    Keeps bl s0 (State.endBin s bin e) := by
  unfold State.endBin
  repeat' first | with_reducible assumption | with_reducible apply State.putRoute_fr | with_reducible apply keeps_ite

theorem execRouteBinEnd_fr {bl : Blocks} {s0 s1 : State} {s : State} (e : execRouteBinEnd s = .next s1)
    (hm : Blocks.le { dim := true } bl = true) (hev : Keeps bl s0 s) : Keeps bl s0 s1 := by
  unfold execRouteBinEnd at e
  refine keeps_next e ?_
  repeat' first
    | with_reducible assumption
    | refine fun (_ : Keeps _ _ _) => ?_
    | with_reducible apply keeps_whenLive
    | with_reducible apply State.endBin_fr
    | with_reducible apply keeps_ite
    | (with_reducible apply keeps_mk (a := { dim := true }) hm; dsimp only [cond_true, cond_false] <;> exact rfl; (first | with_reducible assumption | with_reducible apply keeps_forEach | split))
    | intro x

theorem State.retune_fr {bl : Blocks} {s0 : State} {s : State} (bin : Cn × Nat × Nat) (e : List Byte)
    (hm : Blocks.le { rad := true, node := true, adm := true, dim := true, evt := true, way := true } bl = true) (hev : Keeps bl s0 s) :
    Keeps bl s0 (State.retune s bin e) := by
  unfold State.retune
  repeat' first
    | with_reducible assumption
    | exact Blocks.le_trans rfl hm
    | with_reducible apply State.loadRoute_fr
    | with_reducible apply State.recordRoute_fr
    | with_reducible apply keeps_ite
    | refine State.bookEach_keq ?_ (by assumption) ?_
    | (with_reducible apply keeps_mk (a := { rad := true, node := true, adm := true, dim := true, evt := true, way := true }) hm; dsimp only [cond_true, cond_false] <;> exact rfl; split)

theorem execRouteRetune_fr {bl : Blocks} {s0 s1 : State} {s : State} (e : execRouteRetune s = .next s1)
    (hm : Blocks.le { rad := true, node := true, adm := true, dim := true, evt := true, way := true } bl = true) (hev : Keeps bl s0 s) : Keeps bl s0 s1 := by
  unfold execRouteRetune at e
  refine keeps_next e ?_
  repeat' first
    | with_reducible assumption
    | refine fun (_ : Keeps _ _ _) => ?_
    | with_reducible apply keeps_whenLive
    | with_reducible apply keeps_forEach
    | with_reducible apply State.retune_fr
    | (with_reducible apply keeps_mk (a := { rad := true, node := true, adm := true, dim := true, evt := true, way := true }) hm; dsimp only [cond_true, cond_false] <;> exact rfl; split)
    | intro x

theorem State.routeStart_fr {bl : Blocks} {s0 : State} {s : State} (w : Wave) (e : List Byte) (l : Nat)
    (hm : Blocks.le { drv := true, evt := true } bl = true) (hev : Keeps bl s0 s) :
    Keeps bl s0 (State.routeStart s w e l) := by
  unfold State.routeStart
  repeat' first
    | with_reducible assumption
    | with_reducible apply State.startPe_fr
    | with_reducible apply keeps_ite
    | (with_reducible apply keeps_mk (a := { drv := true, evt := true }) hm; dsimp only [cond_true, cond_false] <;> exact rfl; split)

theorem State.raiseLum_fr {bl : Blocks} {s0 : State} {s : State} (w : Wave) (ramp l : Nat)
    (hm : Blocks.le { drv := true } bl = true) (hev : Keeps bl s0 s) :
    Keeps bl s0 (State.raiseLum s w ramp l) := by
  unfold State.raiseLum
  repeat' first | with_reducible assumption | with_reducible apply State.modLum_fr

theorem State.relayWave_fr {bl : Blocks} {s0 : State} {s : State} (g place : Nat) (w : Wave)
    (hm : Blocks.le { rad := true } bl = true) (hev : Keeps bl s0 s) :
    Keeps bl s0 (State.relayWave s g place w) := by
  unfold State.relayWave
  repeat' first | with_reducible assumption | with_reducible apply State.hold_fr

theorem State.noteWave_fr {bl : Blocks} {s0 : State} {s : State} (group : Nat) (w : Wave) (relayed : Bool)
    (hm : Blocks.le { dim := true } bl = true) (hev : Keeps bl s0 s) :
    Keeps bl s0 (State.noteWave s group w relayed) := by
  unfold State.noteWave
  repeat' first
    | (with_reducible apply keeps_mk (a := { dim := true }) hm; dsimp only [cond_true, cond_false] <;> exact rfl; with_reducible assumption)

theorem State.waveAt_fr {bl : Blocks} {s0 : State} {s : State} (g : Nat) (w : Wave) (e : List Byte) (m : Nat) (place : Nat)
    (hm : Blocks.le { rad := true, dim := true, drv := true, evt := true } bl = true) (hev : Keeps bl s0 s) :
    Keeps bl s0 (State.waveAt s g w e m place) := by
  unfold State.waveAt
  repeat' first
    | with_reducible assumption
    | exact Blocks.le_trans rfl hm
    | refine fun (_ : Keeps _ _ _) => ?_
    | with_reducible apply keeps_iff
    | with_reducible apply keeps_forEach
    | with_reducible apply State.noteWave_fr
    | with_reducible apply State.raiseLum_fr
    | with_reducible apply State.relayWave_fr
    | with_reducible apply State.routeStart_fr
    | intro x

theorem execWaveReceived_fr {bl : Blocks} {s0 s1 : State} (grove : Fin 8) (wave : Wave) {s : State} (e : execWaveReceived grove wave s = .next s1)
    (hm : Blocks.le { rad := true, dim := true, drv := true, evt := true } bl = true) (hev : Keeps bl s0 s) : Keeps bl s0 s1 := by
  unfold execWaveReceived at e
  refine keeps_next e ?_
  repeat' first
    | with_reducible assumption
    | exact Blocks.le_trans rfl hm
    | refine fun (_ : Keeps _ _ _) => ?_
    | with_reducible apply keeps_iff
    | with_reducible apply keeps_whenLive
    | with_reducible apply keeps_forEach
    | with_reducible apply State.postTile_fr
    | with_reducible apply State.waveAt_fr
    | with_reducible apply keeps_ite
    | (with_reducible apply keeps_mk (a := { rad := true, dim := true, drv := true, evt := true }) hm; dsimp only [cond_true, cond_false] <;> exact rfl; split)
    | intro x

theorem execWaveHoldEnd_fr {bl : Blocks} {s0 s1 : State} (l : Fin 32) {s : State} (e : execWaveHoldEnd l s = .next s1)
    (hm : Blocks.le { drv := true } bl = true) (hev : Keeps bl s0 s) : Keeps bl s0 s1 := by
  unfold execWaveHoldEnd at e
  refine keeps_next e ?_
  repeat' first
    | with_reducible assumption
    | refine fun (_ : Keeps _ _ _) => ?_
    | with_reducible apply keeps_iff
    | with_reducible apply keeps_whenLive
    | with_reducible apply State.modLum_fr
    | (with_reducible apply keeps_mk (a := { drv := true }) hm; dsimp only [cond_true, cond_false] <;> exact rfl; split)
    | intro x

end Sys2Proof.Machine
end

