-- ==== Sys2Proof/Laws/FrTimebase.lean ====
section
/-! SUPPORT. Every operation of Machine/Timebase.lean keeps what it does not name (Safety.lean). -/

set_option Elab.async false

namespace Sys2Proof.Machine

theorem State.noteFreeRun_fr {bl : Blocks} {s0 : State} {s : State}
    (hm : Blocks.le { adm := true } bl = true) (hev : Keeps bl s0 s) :
    Keeps bl s0 (State.noteFreeRun s) := by
  unfold State.noteFreeRun
  repeat' first
    | with_reducible assumption
    | with_reducible apply keeps_ite
    | (with_reducible apply keeps_mk (a := { adm := true }) hm; dsimp only [cond_true, cond_false] <;> exact rfl; with_reducible assumption)

theorem State.mainsTimeout_fr {bl : Blocks} {s0 : State} {s : State} (at_ : Nat)
    (hm : Blocks.le { cn := true, time := true, adm := true, evt := true, way := true } bl = true) (hev : Keeps bl s0 s) :
    Keeps bl s0 (State.mainsTimeout s at_) := by
  unfold State.mainsTimeout
  repeat' first
    | with_reducible assumption
    | exact Blocks.le_trans rfl hm
    | with_reducible apply State.advanceTo_fr
    | with_reducible apply State.mainsEvent_fr
    | with_reducible apply State.noteFreeRun_fr
    | with_reducible apply State.startCount_fr
    | with_reducible apply keeps_ite
    | (with_reducible apply keeps_mk (a := { cn := true, time := true, adm := true, evt := true, way := true }) hm; dsimp only [cond_true, cond_false] <;> exact rfl; with_reducible apply keeps_ite)

theorem execMainsTimeout_fr {bl : Blocks} {s0 s1 : State} (tick : Nat) {s : State} (e : execMainsTimeout tick s = .next s1)
    (hm : Blocks.le { cn := true, time := true, adm := true, evt := true, way := true } bl = true) (hev : Keeps bl s0 s) : Keeps bl s0 s1 := by
  unfold execMainsTimeout at e
  refine keeps_next e ?_
  repeat' first
    | with_reducible assumption
    | refine fun (_ : Keeps _ _ _) => ?_
    | with_reducible apply keeps_whenLive
    | with_reducible apply State.mainsTimeout_fr
    | intro x

theorem execTimeSnap_fr {bl : Blocks} {s0 s1 : State} (value : Word) (tick : Nat) {s : State} (e : execTimeSnap value tick s = .next s1)
    (hm : Blocks.le { time := true } bl = true) (hev : Keeps bl s0 s) : Keeps bl s0 s1 := by
  unfold execTimeSnap at e
  refine keeps_next e ?_
  repeat' first
    | with_reducible assumption
    | refine fun (_ : Keeps _ _ _) => ?_
    | with_reducible apply keeps_iff
    | with_reducible apply keeps_whenLive
    | with_reducible apply State.advanceTo_fr
    | (with_reducible apply keeps_mk (a := { time := true }) hm; dsimp only [cond_true, cond_false] <;> exact rfl; with_reducible assumption)
    | intro x

theorem State.prpPath_fr {bl : Blocks} {s0 : State} {s : State} (p : Fin 2)
    (hm : Blocks.le { time := true } bl = true) (hev : Keeps bl s0 s) :
    Keeps bl s0 (State.prpPath s p) := by
  unfold State.prpPath
  repeat' first
    | with_reducible assumption
    | with_reducible apply keeps_ite
    | (with_reducible apply keeps_mk (a := { time := true }) hm; dsimp only [cond_true, cond_false] <;> exact rfl; (first | with_reducible assumption | split))

theorem State.deliver_fr {bl : Blocks} {s0 : State} {s : State} (p : Fin 2)
    (hm : Blocks.le { time := true } bl = true) (hev : Keeps bl s0 s) :
    Keeps bl s0 (State.deliver s p) := by
  unfold State.deliver
  repeat' first
    | with_reducible assumption
    | exact hm
    | exact Blocks.le_trans rfl hm
    | refine fun (_ : Keeps _ _ _) => ?_
    | with_reducible apply keeps_iff
    | with_reducible apply keeps_whenLive
    | with_reducible apply keeps_forEach
    | with_reducible apply keeps_ite
    | (with_reducible apply keeps_mk (a := { time := true }) hm; dsimp only [cond_true, cond_false] <;> exact rfl; (first | with_reducible assumption | exact hm | exact Blocks.le_trans rfl hm | with_reducible apply keeps_iff | with_reducible apply keeps_whenLive | with_reducible apply keeps_forEach | with_reducible apply keeps_ite | split))
    | (intro x; refine keeps_cut (l := bl) (s0 := s0) (x := x) ?_ ?_; rotate_left; clear_value x; intro hx; rotate_left; subst x)
    | intro x
    | split
    | lift_lets
    | dsimp only

theorem State.ptpReceive_fr {bl : Blocks} {s0 : State} {s : State} (p : Fin 2) (m : PtpMsg)
    (hm : Blocks.le { time := true, evt := true, way := true, out := true, freeIdx := true } bl = true) (hev : Keeps bl s0 s) :
    Keeps bl s0 (State.ptpReceive s p m) := by
  unfold State.ptpReceive
  repeat' first
    | with_reducible assumption
    | exact hm
    | exact Blocks.le_trans rfl hm
    | refine fun (_ : Keeps _ _ _) => ?_
    | with_reducible apply keeps_iff
    | with_reducible apply keeps_whenLive
    | with_reducible apply keeps_forEach
    | with_reducible apply State.deliver_fr
    | with_reducible apply State.emit_fr
    | with_reducible apply State.malformed_fr
    | with_reducible apply State.offset_fr
    | with_reducible apply State.prpPath_fr
    | with_reducible apply State.ptpViolation_fr
    | with_reducible apply keeps_ite
    | (with_reducible apply keeps_mk (a := { time := true, evt := true, way := true, out := true, freeIdx := true }) hm; dsimp only [cond_true, cond_false] <;> exact rfl; (first | with_reducible assumption | exact hm | exact Blocks.le_trans rfl hm | with_reducible apply keeps_iff | with_reducible apply keeps_whenLive | with_reducible apply keeps_forEach | with_reducible apply State.deliver_fr | with_reducible apply State.emit_fr | with_reducible apply State.malformed_fr | with_reducible apply State.offset_fr | with_reducible apply State.prpPath_fr | with_reducible apply State.ptpViolation_fr | with_reducible apply keeps_ite | split))
    | (intro x; refine keeps_cut (l := bl) (s0 := s0) (x := x) ?_ ?_; rotate_left; clear_value x; intro hx; rotate_left; subst x)
    | intro x
    | split
    | lift_lets
    | dsimp only

theorem execPtpMessage_fr {bl : Blocks} {s0 s1 : State} (port : Fin 2) (tick : Nat) (msg : PtpMsg) {s : State} (e : execPtpMessage port tick msg s = .next s1)
    (hm : Blocks.le { time := true, evt := true, way := true, out := true, freeIdx := true } bl = true) (hev : Keeps bl s0 s) : Keeps bl s0 s1 := by
  unfold execPtpMessage at e
  refine keeps_next e ?_
  repeat' first
    | with_reducible assumption
    | exact Blocks.le_trans rfl hm
    | refine fun (_ : Keeps _ _ _) => ?_
    | with_reducible apply keeps_iff
    | with_reducible apply keeps_whenLive
    | with_reducible apply State.advanceTo_fr
    | with_reducible apply State.ptpReceive_fr
    | intro x

theorem execPtpPortUnmute_fr {bl : Blocks} {s0 s1 : State} (port : Fin 2) {s : State} (e : execPtpPortUnmute port s = .next s1)
    (hm : Blocks.le { time := true } bl = true) (hev : Keeps bl s0 s) : Keeps bl s0 s1 := by
  unfold execPtpPortUnmute at e
  refine keeps_next e ?_
  repeat' first
    | with_reducible assumption
    | refine fun (_ : Keeps _ _ _) => ?_
    | with_reducible apply keeps_iff
    | with_reducible apply keeps_whenLive
    | (with_reducible apply keeps_mk (a := { time := true }) hm; dsimp only [cond_true, cond_false] <;> exact rfl; (first | with_reducible assumption | split))
    | intro x

theorem execPtpSourceMiss_fr {bl : Blocks} {s0 s1 : State} (port : Fin 2) (announce : Bool) {s : State} (e : execPtpSourceMiss port announce s = .next s1)
    (hm : Blocks.le { time := true, evt := true, way := true, freeIdx := true } bl = true) (hev : Keeps bl s0 s) : Keeps bl s0 s1 := by
  unfold execPtpSourceMiss at e
  refine keeps_next e ?_
  repeat' first
    | with_reducible assumption
    | refine fun (_ : Keeps _ _ _) => ?_
    | with_reducible apply keeps_iff
    | with_reducible apply keeps_whenLive
    | with_reducible apply State.sourceLost_fr
    | (with_reducible apply keeps_mk (a := { time := true, evt := true, way := true, freeIdx := true }) hm; dsimp only [cond_true, cond_false] <;> exact rfl; with_reducible assumption)
    | intro x

theorem execPpsInEdge_fr {bl : Blocks} {s0 s1 : State} (rising : Bool) (tick : Nat) {s : State} (e : execPpsInEdge rising tick s = .next s1)
    (hm : Blocks.le { time := true, evt := true, way := true, fld := true, freeIdx := true } bl = true) (hev : Keeps bl s0 s) : Keeps bl s0 s1 := by
  unfold execPpsInEdge at e
  refine keeps_next e ?_
  repeat' first
    | with_reducible assumption
    | exact hm
    | exact Blocks.le_trans rfl hm
    | refine fun (_ : Keeps _ _ _) => ?_
    | with_reducible apply keeps_iff
    | with_reducible apply keeps_whenLive
    | with_reducible apply keeps_forEach
    | with_reducible apply State.advanceTo_fr
    | with_reducible apply State.offset_fr
    | with_reducible apply keeps_ite
    | (with_reducible apply keeps_mk (a := { time := true, evt := true, way := true, fld := true, freeIdx := true }) hm; dsimp only [cond_true, cond_false] <;> exact rfl; (first | with_reducible assumption | exact hm | exact Blocks.le_trans rfl hm | with_reducible apply keeps_iff | with_reducible apply keeps_whenLive | with_reducible apply keeps_forEach | with_reducible apply State.advanceTo_fr | with_reducible apply State.offset_fr | with_reducible apply keeps_ite | split))
    | (intro x; refine keeps_cut (l := bl) (s0 := s0) (x := x) ?_ ?_; rotate_left; clear_value x; intro hx; rotate_left; subst x)
    | intro x
    | split
    | lift_lets
    | dsimp only

theorem execPpsInMiss_fr {bl : Blocks} {s0 s1 : State} {s : State} (e : execPpsInMiss s = .next s1)
    (hm : Blocks.le { time := true, evt := true, way := true, freeIdx := true } bl = true) (hev : Keeps bl s0 s) : Keeps bl s0 s1 := by
  unfold execPpsInMiss at e
  refine keeps_next e ?_
  repeat' first
    | with_reducible assumption
    | refine fun (_ : Keeps _ _ _) => ?_
    | with_reducible apply keeps_iff
    | with_reducible apply keeps_whenLive
    | with_reducible apply State.sourceLost_fr
    | (with_reducible apply keeps_mk (a := { time := true, evt := true, way := true, freeIdx := true }) hm; dsimp only [cond_true, cond_false] <;> exact rfl; with_reducible assumption)
    | intro x

theorem State.rearm_fr {bl : Blocks} {s0 : State} {s : State}
    (hm : Blocks.le { time := true } bl = true) (hev : Keeps bl s0 s) :
    Keeps bl s0 (State.rearm s) := by
  unfold State.rearm
  repeat' first
    | (with_reducible apply keeps_mk (a := { time := true }) hm; dsimp only [cond_true, cond_false] <;> exact rfl; (first | with_reducible assumption | split))

theorem State.dropSources_fr {bl : Blocks} {s0 : State} {s : State}
    (hm : Blocks.le { time := true } bl = true) (hev : Keeps bl s0 s) :
    Keeps bl s0 (State.dropSources s) := by
  unfold State.dropSources
  repeat' first
    | with_reducible assumption
    | exact hm
    | exact Blocks.le_trans rfl hm
    | refine fun (_ : Keeps _ _ _) => ?_
    | with_reducible apply keeps_iff
    | with_reducible apply keeps_whenLive
    | with_reducible apply keeps_forEach
    | with_reducible apply keeps_ite
    | (with_reducible apply keeps_mk (a := { time := true }) hm; dsimp only [cond_true, cond_false] <;> exact rfl; (first | with_reducible assumption | exact hm | exact Blocks.le_trans rfl hm | with_reducible apply keeps_iff | with_reducible apply keeps_whenLive | with_reducible apply keeps_forEach | with_reducible apply keeps_ite | split))
    | (intro x; refine keeps_cut (l := bl) (s0 := s0) (x := x) ?_ ?_; rotate_left; clear_value x; intro hx; rotate_left; subst x)
    | intro x
    | split
    | lift_lets
    | dsimp only

theorem State.writeTimeCtrl_fr {bl : Blocks} {s0 : State} {s : State} (v : Nat) (w : Writer)
    (hm : Blocks.le { time := true, evt := true, way := true, regs := true, freeIdx := true } bl = true) (hev : Keeps bl s0 s) :
    Keeps bl s0 (State.writeTimeCtrl s v w).1 := by
  unfold State.writeTimeCtrl
  repeat' first
    | with_reducible assumption
    | exact hm
    | exact Blocks.le_trans rfl hm
    | refine fun (_ : Keeps _ _ _) => ?_
    | with_reducible apply keeps_iff
    | with_reducible apply keeps_whenLive
    | with_reducible apply keeps_forEach
    | with_reducible apply State.checkSource_fr
    | with_reducible apply State.dropSources_fr
    | with_reducible apply State.rearm_fr
    | with_reducible apply State.writeReg_fr
    | with_reducible apply keeps_ite
    | with_reducible apply keeps_ite_fst
    | refine State.writeReg_keq (by assumption) ?_ ?_
    | (with_reducible apply keeps_mk (a := { time := true, evt := true, way := true, regs := true, freeIdx := true }) hm; dsimp only [cond_true, cond_false] <;> exact rfl; (first | with_reducible assumption | exact hm | exact Blocks.le_trans rfl hm | with_reducible apply keeps_iff | with_reducible apply keeps_whenLive | with_reducible apply keeps_forEach | with_reducible apply State.checkSource_fr | with_reducible apply State.dropSources_fr | with_reducible apply State.rearm_fr | with_reducible apply State.writeReg_fr | with_reducible apply keeps_ite | with_reducible apply keeps_ite_fst | refine State.writeReg_keq (by assumption) ?_ ?_ | split))
    | (intro x; refine keeps_cut (l := bl) (s0 := s0) (x := x) ?_ ?_; rotate_left; clear_value x; intro hx; rotate_left; subst x)
    | (intro x; refine keeps_cut_snd (l := bl) (s0 := s0) (x := x) ?_ ?_; rotate_left; clear_value x; intro hx; rotate_left; subst x)
    | (intro x; refine keeps_cut_fst (l := bl) (s0 := s0) (x := x) ?_ ?_; rotate_left; clear_value x; intro hx; rotate_left; subst x)
    | intro x
    | split
    | lift_lets
    | dsimp only

theorem State.writeTimeCtrl_keq {bl : Blocks} {s0 sx : State} {s : State} {v : Nat} {w : Writer} {qx : Reason} (e : (State.writeTimeCtrl s v w) = (sx, qx))
    (hm : Blocks.le { time := true, evt := true, way := true, regs := true, freeIdx := true } bl = true) (hev : Keeps bl s0 s) : Keeps bl s0 sx := by
  have g := State.writeTimeCtrl_fr v w hm hev
  rw [e] at g
  exact g

theorem execTimeRearm_fr {bl : Blocks} {s0 s1 : State} (value : Word) (w : Writer) {s : State} (e : execTimeRearm value w s = .next s1)
    (hm : Blocks.le { time := true, evt := true, way := true, regs := true, freeIdx := true } bl = true) (hev : Keeps bl s0 s) : Keeps bl s0 s1 := by
  unfold execTimeRearm at e
  refine keeps_next e ?_
  repeat' first
    | with_reducible assumption
    | refine fun (_ : Keeps _ _ _) => ?_
    | with_reducible apply keeps_whenLive
    | with_reducible apply State.writeTimeCtrl_fr
    | intro x

theorem execTimeSrcWrite_fr {bl : Blocks} {s0 s1 : State} (value : Word) (w : Writer) {s : State} (e : execTimeSrcWrite value w s = .next s1)
    (hm : Blocks.le { time := true, evt := true, way := true, regs := true, freeIdx := true } bl = true) (hev : Keeps bl s0 s) : Keeps bl s0 s1 := by
  unfold execTimeSrcWrite at e
  refine keeps_next e ?_
  repeat' first
    | with_reducible assumption
    | refine fun (_ : Keeps _ _ _) => ?_
    | with_reducible apply keeps_whenLive
    | with_reducible apply State.writeTimeCtrl_fr
    | intro x

theorem State.writeMainsCfg_fr {bl : Blocks} {s0 : State} {s : State} (v : Nat) (w : Writer)
    (hm : Blocks.le { evt := true, way := true, regs := true } bl = true) (hev : Keeps bl s0 s) :
    Keeps bl s0 (State.writeMainsCfg s v w).1 := by
  unfold State.writeMainsCfg
  repeat' first | with_reducible assumption | with_reducible apply State.writeReg_fr

theorem State.writeMainsCfg_keq {bl : Blocks} {s0 sx : State} {s : State} {v : Nat} {w : Writer} {qx : Reason} (e : (State.writeMainsCfg s v w) = (sx, qx))
    (hm : Blocks.le { evt := true, way := true, regs := true } bl = true) (hev : Keeps bl s0 s) : Keeps bl s0 sx := by
  have g := State.writeMainsCfg_fr v w hm hev
  rw [e] at g
  exact g

theorem execMainsCfgWrite_fr {bl : Blocks} {s0 s1 : State} (value : Word) (w : Writer) {s : State} (e : execMainsCfgWrite value w s = .next s1)
    (hm : Blocks.le { evt := true, way := true, regs := true } bl = true) (hev : Keeps bl s0 s) : Keeps bl s0 s1 := by
  unfold execMainsCfgWrite at e
  refine keeps_next e ?_
  repeat' first
    | with_reducible assumption
    | refine fun (_ : Keeps _ _ _) => ?_
    | with_reducible apply keeps_whenLive
    | with_reducible apply State.writeMainsCfg_fr
    | intro x

theorem State.syncPulse_fr {bl : Blocks} {s0 : State} {s : State}
    (hm : Blocks.le { time := true, mtr := true, evt := true, way := true } bl = true) (hev : Keeps bl s0 s) :
    Keeps bl s0 (State.syncPulse s) := by
  unfold State.syncPulse
  repeat' first
    | with_reducible assumption
    | exact Blocks.le_trans rfl hm
    | with_reducible apply State.syncEvent_fr
    | with_reducible apply keeps_ite
    | (with_reducible apply keeps_mk (a := { time := true, mtr := true, evt := true, way := true }) hm; dsimp only [cond_true, cond_false] <;> exact rfl; with_reducible assumption)

theorem execSyncInPulse_fr {bl : Blocks} {s0 s1 : State} (rising : Bool) (tick widthUs : Nat) {s : State} (e : execSyncInPulse rising tick widthUs s = .next s1)
    (hm : Blocks.le { time := true, mtr := true, evt := true, way := true } bl = true) (hev : Keeps bl s0 s) : Keeps bl s0 s1 := by
  unfold execSyncInPulse at e
  refine keeps_next e ?_
  repeat' first
    | with_reducible assumption
    | exact Blocks.le_trans rfl hm
    | refine fun (_ : Keeps _ _ _) => ?_
    | with_reducible apply keeps_iff
    | with_reducible apply keeps_whenLive
    | with_reducible apply State.advanceTo_fr
    | with_reducible apply State.syncPulse_fr
    | intro x

theorem State.writeSyncCtrl_fr {bl : Blocks} {s0 : State} {s : State} (v : Nat) (w : Writer)
    (hm : Blocks.le { time := true, evt := true, way := true, regs := true } bl = true) (hev : Keeps bl s0 s) :
    Keeps bl s0 (State.writeSyncCtrl s v w).1 := by
  unfold State.writeSyncCtrl
  repeat' first
    | with_reducible assumption
    | exact Blocks.le_trans rfl hm
    | refine fun (_ : Keeps _ _ _) => ?_
    | with_reducible apply keeps_iff
    | with_reducible apply State.writeReg_fr
    | (with_reducible apply keeps_mk (a := { time := true, evt := true, way := true, regs := true }) hm; dsimp only [cond_true, cond_false] <;> exact rfl; with_reducible assumption)
    | intro x

theorem State.writeSyncCtrl_keq {bl : Blocks} {s0 sx : State} {s : State} {v : Nat} {w : Writer} {qx : Reason} (e : (State.writeSyncCtrl s v w) = (sx, qx))
    (hm : Blocks.le { time := true, evt := true, way := true, regs := true } bl = true) (hev : Keeps bl s0 s) : Keeps bl s0 sx := by
  have g := State.writeSyncCtrl_fr v w hm hev
  rw [e] at g
  exact g

theorem execSyncRealign_fr {bl : Blocks} {s0 s1 : State} (value : Word) (w : Writer) {s : State} (e : execSyncRealign value w s = .next s1)
    (hm : Blocks.le { time := true, evt := true, way := true, regs := true } bl = true) (hev : Keeps bl s0 s) : Keeps bl s0 s1 := by
  unfold execSyncRealign at e
  refine keeps_next e ?_
  repeat' first
    | with_reducible assumption
    | refine fun (_ : Keeps _ _ _) => ?_
    | with_reducible apply keeps_whenLive
    | with_reducible apply State.writeSyncCtrl_fr
    | intro x

theorem State.realignStep_fr {bl : Blocks} {s0 : State} {s : State}
    (hm : Blocks.le { time := true, mtr := true, evt := true, way := true } bl = true) (hev : Keeps bl s0 s) :
    Keeps bl s0 (State.realignStep s).2 := by
  unfold State.realignStep
  repeat' first
    | with_reducible assumption
    | exact Blocks.le_trans rfl hm
    | with_reducible apply State.syncEvent_fr
    | with_reducible apply keeps_ite_snd
    | (with_reducible apply keeps_mk (a := { time := true, mtr := true, evt := true, way := true }) hm; dsimp only [cond_true, cond_false] <;> exact rfl; with_reducible assumption)

theorem State.realignStep_keq {bl : Blocks} {s0 sx : State} {s : State} {qx : Int} (e : (State.realignStep s) = (qx, sx))
    (hm : Blocks.le { time := true, mtr := true, evt := true, way := true } bl = true) (hev : Keeps bl s0 s) : Keeps bl s0 sx := by
  have g := State.realignStep_fr  hm hev
  rw [e] at g
  exact g

theorem State.modTrigger_fr {bl : Blocks} {s0 : State} {s : State} (k : Fin 16) (f : Trigger → Trigger)
    (hm : Blocks.le { time := true } bl = true) (hev : Keeps bl s0 s) :
    Keeps bl s0 (State.modTrigger s k f) := by
  unfold State.modTrigger
  repeat' first
    | (with_reducible apply keeps_mk (a := { time := true }) hm; dsimp only [cond_true, cond_false] <;> exact rfl; with_reducible assumption)

theorem State.trgEvent_fr {bl : Blocks} {s0 : State} {s : State} (k : Fin 16) (kind : Nat)
    (hm : Blocks.le { evt := true } bl = true) (hev : Keeps bl s0 s) :
    Keeps bl s0 (State.trgEvent s k kind) := by
  unfold State.trgEvent
  repeat' first
    | with_reducible assumption
    | refine fun (_ : Keeps _ _ _) => ?_
    | with_reducible apply keeps_iff
    | with_reducible apply State.post_fr
    | intro x

theorem State.armTrigger_fr {bl : Blocks} {s0 : State} {s : State} (k : Fin 16)
    (hm : Blocks.le { time := true, evt := true, way := true } bl = true) (hev : Keeps bl s0 s) :
    Keeps bl s0 (State.armTrigger s k) := by
  unfold State.armTrigger
  repeat' first
    | with_reducible assumption
    | exact Blocks.le_trans rfl hm
    | with_reducible apply State.modTrigger_fr
    | with_reducible apply State.record_fr
    | with_reducible apply State.trgEvent_fr
    | with_reducible apply keeps_ite

theorem State.writeTrigger_fr {bl : Blocks} {s0 : State} {s : State} (k : Fin 16) (v : Nat) (w : Writer)
    (hm : Blocks.le { time := true, evt := true, way := true, regs := true } bl = true) (hev : Keeps bl s0 s) :
    Keeps bl s0 (State.writeTrigger s k v w).1 := by
  unfold State.writeTrigger
  repeat' first
    | with_reducible assumption
    | exact Blocks.le_trans rfl hm
    | with_reducible apply State.armTrigger_fr
    | with_reducible apply State.modTrigger_fr
    | with_reducible apply State.recordWrite_fr
    | with_reducible apply State.writeReg_fr
    | with_reducible apply keeps_ite

theorem State.writeTrigger_keq {bl : Blocks} {s0 sx : State} {s : State} {k : Fin 16} {v : Nat} {w : Writer} {qx : Reason} (e : (State.writeTrigger s k v w) = (sx, qx))
    (hm : Blocks.le { time := true, evt := true, way := true, regs := true } bl = true) (hev : Keeps bl s0 s) : Keeps bl s0 sx := by
  have g := State.writeTrigger_fr k v w hm hev
  rw [e] at g
  exact g

theorem execTriggerArm_fr {bl : Blocks} {s0 s1 : State} (unit : Fin 16) (value : Word) (tick : Nat) (w : Writer) {s : State} (e : execTriggerArm unit value tick w s = .next s1)
    (hm : Blocks.le { time := true, evt := true, way := true, regs := true } bl = true) (hev : Keeps bl s0 s) : Keeps bl s0 s1 := by
  unfold execTriggerArm at e
  refine keeps_next e ?_
  repeat' first
    | with_reducible assumption
    | exact Blocks.le_trans rfl hm
    | refine fun (_ : Keeps _ _ _) => ?_
    | with_reducible apply keeps_whenLive
    | with_reducible apply State.advanceTo_fr
    | with_reducible apply State.writeTrigger_fr
    | intro x

theorem State.capture_fr {bl : Blocks} {s0 : State} {s : State} (c : Fin 7) (rising : Bool) (sub : Nat)
    (hm : Blocks.le { time := true, evt := true } bl = true) (hev : Keeps bl s0 s) :
    Keeps bl s0 (State.capture s c rising sub) := by
  unfold State.capture
  repeat' first
    | with_reducible assumption
    | exact Blocks.le_trans rfl hm
    | with_reducible apply State.post_fr
    | with_reducible apply keeps_ite
    | (with_reducible apply keeps_mk (a := { time := true, evt := true }) hm; dsimp only [cond_true, cond_false] <;> exact rfl; with_reducible assumption)

theorem execCaptureEdge_fr {bl : Blocks} {s0 s1 : State} (channel : Fin 7) (rising : Bool) (tick : Nat) (sub : Fin 10) {s : State} (e : execCaptureEdge channel rising tick sub s = .next s1)
    (hm : Blocks.le { time := true, evt := true, fld := true } bl = true) (hev : Keeps bl s0 s) : Keeps bl s0 s1 := by
  unfold execCaptureEdge at e
  refine keeps_next e ?_
  repeat' first
    | with_reducible assumption
    | exact Blocks.le_trans rfl hm
    | refine fun (_ : Keeps _ _ _) => ?_
    | with_reducible apply keeps_whenLive
    | with_reducible apply State.advanceTo_fr
    | with_reducible apply State.capture_fr
    | with_reducible apply keeps_ite
    | (with_reducible apply keeps_mk (a := { time := true, evt := true, fld := true }) hm; dsimp only [cond_true, cond_false] <;> exact rfl; with_reducible apply State.capture_fr)
    | intro x

theorem State.popCapture_fr {bl : Blocks} {s0 : State} {s : State} (c : Nat)
    (hm : Blocks.le { time := true } bl = true) (hev : Keeps bl s0 s) :
    Keeps bl s0 (State.popCapture s c) := by
  unfold State.popCapture
  repeat' first
    | (with_reducible apply keeps_mk (a := { time := true }) hm; dsimp only [cond_true, cond_false] <;> exact rfl; with_reducible assumption)

theorem State.clearOvr_fr {bl : Blocks} {s0 : State} {s : State} (c v : Nat)
    (hm : Blocks.le { time := true } bl = true) (hev : Keeps bl s0 s) :
    Keeps bl s0 (State.clearOvr s c v) := by
  unfold State.clearOvr
  repeat' first
    | (with_reducible apply keeps_mk (a := { time := true }) hm; dsimp only [cond_true, cond_false] <;> exact rfl; with_reducible assumption)

theorem execCapturePop_fr {bl : Blocks} {s0 s1 : State} (channel : Fin 7) (value : Word) {s : State} (e : execCapturePop channel value s = .next s1)
    (hm : Blocks.le { time := true } bl = true) (hev : Keeps bl s0 s) : Keeps bl s0 s1 := by
  unfold execCapturePop at e
  refine keeps_next e ?_
  repeat' first
    | with_reducible assumption
    | refine fun (_ : Keeps _ _ _) => ?_
    | with_reducible apply keeps_iff
    | with_reducible apply keeps_whenLive
    | with_reducible apply State.popCapture_fr
    | intro x

theorem State.mainsBack_fr {bl : Blocks} {s0 : State} {s : State} (ofs : Int)
    (hm : Blocks.le { time := true, evt := true, way := true } bl = true) (hev : Keeps bl s0 s) :
    Keeps bl s0 (State.mainsBack s ofs) := by
  unfold State.mainsBack
  repeat' first
    | exact Blocks.le_trans rfl hm
    | with_reducible apply State.mainsEvent_fr
    | (with_reducible apply keeps_mk (a := { time := true, evt := true, way := true }) hm; dsimp only [cond_true, cond_false] <;> exact rfl; with_reducible assumption)

theorem State.moveProvisional_fr {bl : Blocks} {s0 : State} {s : State} (ref : Int) (at_ : Cn)
    (hm : Blocks.le { cn := true, time := true, mtr := true, rad := true, node := true, adm := true, fsp := true, dim := true, drv := true, can := true, evt := true, ford := true, cop := true, key := true, upd := true, way := true, mon := true, sys := true } bl = true) (hev : Keeps bl s0 s) :
    Keeps bl s0 (State.moveProvisional s ref at_) := by
  unfold State.moveProvisional
  repeat' first
    | with_reducible assumption
    | exact Blocks.le_trans rfl hm
    | with_reducible apply State.rebaseEvent_fr
    | with_reducible apply State.shiftCn_fr
    | with_reducible apply keeps_ite
    | (with_reducible apply keeps_mk (a := { cn := true, time := true, mtr := true, rad := true, node := true, adm := true, fsp := true, dim := true, drv := true, can := true, evt := true, ford := true, cop := true, key := true, upd := true, way := true, mon := true, sys := true }) hm; dsimp only [cond_true, cond_false] <;> exact rfl; (first | with_reducible assumption | split))

theorem State.trackCrossing_fr {bl : Blocks} {s0 : State} {s : State} (ofs : Int) (period : Option Nat)
    (hm : Blocks.le { time := true } bl = true) (hev : Keeps bl s0 s) :
    Keeps bl s0 (State.trackCrossing s ofs period) := by
  unfold State.trackCrossing
  repeat' first
    | (with_reducible apply keeps_mk (a := { time := true }) hm; dsimp only [cond_true, cond_false] <;> exact rfl; with_reducible assumption)

theorem State.keepCrossing_fr {bl : Blocks} {s0 : State} {s : State} (c : Crossing)
    (hm : Blocks.le { time := true, rad := true, can := true, evt := true, ford := true, cop := true, upd := true, way := true, freeIdx := true } bl = true) (hev : Keeps bl s0 s) :
    Keeps bl s0 (State.keepCrossing s c) := by
  unfold State.keepCrossing
  repeat' first
    | (with_reducible apply keeps_mk (a := { time := true, rad := true, can := true, evt := true, ford := true, cop := true, upd := true, way := true, freeIdx := true }) hm; dsimp only [cond_true, cond_false] <;> exact rfl; with_reducible assumption)

theorem State.validCrossing_fr {bl : Blocks} {s0 : State} {s : State} (cross ofs period : Int) (first : Bool)
    (hm : Blocks.le { cn := true, time := true, mtr := true, rad := true, node := true, adm := true, fsp := true, dim := true, drv := true, can := true, evt := true, ford := true, cop := true, key := true, upd := true, way := true, mon := true, sys := true, freeIdx := true } bl = true) (hev : Keeps bl s0 s) :
    Keeps bl s0 (State.validCrossing s cross ofs period first) := by
  unfold State.validCrossing
  repeat' first
    | with_reducible assumption
    | exact Blocks.le_trans rfl hm
    | with_reducible apply State.holdoverUpdate_fr
    | with_reducible apply State.mainsBack_fr
    | with_reducible apply State.moveProvisional_fr
    | with_reducible apply State.trackCrossing_fr
    | with_reducible apply keeps_ite
    | (with_reducible apply keeps_mk (a := { cn := true, time := true, mtr := true, rad := true, node := true, adm := true, fsp := true, dim := true, drv := true, can := true, evt := true, ford := true, cop := true, key := true, upd := true, way := true, mon := true, sys := true, freeIdx := true }) hm; dsimp only [cond_true, cond_false] <;> exact rfl; with_reducible apply State.keepCrossing_fr)

theorem State.crossing_fr {bl : Blocks} {s0 : State} {s : State} (ofs : Int)
    (hm : Blocks.le { cn := true, time := true, mtr := true, rad := true, node := true, adm := true, fsp := true, dim := true, drv := true, can := true, evt := true, ford := true, cop := true, key := true, upd := true, way := true, mon := true, sys := true, freeIdx := true } bl = true) (hev : Keeps bl s0 s) :
    Keeps bl s0 (State.crossing s ofs) := by
  unfold State.crossing
  repeat' first
    | with_reducible assumption
    | exact Blocks.le_trans rfl hm
    | with_reducible apply State.startCount_fr
    | with_reducible apply State.validCrossing_fr
    | with_reducible apply keeps_ite
    | (with_reducible apply keeps_mk (a := { cn := true, time := true, mtr := true, rad := true, node := true, adm := true, fsp := true, dim := true, drv := true, can := true, evt := true, ford := true, cop := true, key := true, upd := true, way := true, mon := true, sys := true, freeIdx := true }) hm; dsimp only [cond_true, cond_false] <;> exact rfl; (first | with_reducible assumption | with_reducible apply State.keepCrossing_fr))

end Sys2Proof.Machine
end

