-- ==== Sys2Proof/Laws/FrDrive.lean ====
section
/-! SUPPORT. Every operation of Machine/Drive.lean keeps what it does not name (Safety.lean). -/

set_option Elab.async false

namespace Sys2Proof.Machine

theorem State.learnPoint_fr {bl : Blocks} {s0 : State} {s : State} (c : Nat) (i : Nat)
    (hm : Blocks.le { regs := true } bl = true) (hev : Keeps bl s0 s) :
    Keeps bl s0 (State.learnPoint s c i) := by
  unfold State.learnPoint
  repeat' first
    | with_reducible assumption
    | with_reducible apply State.setReg_fr
    | (with_reducible apply keeps_mk (a := { regs := true }) hm; dsimp only [cond_true, cond_false] <;> exact rfl; split)

theorem State.learnPoints_fr {bl : Blocks} {s0 : State} {s : State} (c : Nat)
    (hm : Blocks.le { drv := true, regs := true } bl = true) (hev : Keeps bl s0 s) :
    Keeps bl s0 (State.learnPoints s c) := by
  unfold State.learnPoints
  repeat' first
    | with_reducible assumption
    | exact Blocks.le_trans rfl hm
    | refine fun (_ : Keeps _ _ _) => ?_
    | with_reducible apply keeps_forEach
    | with_reducible apply State.learnPoint_fr
    | with_reducible apply State.modCh_fr
    | (with_reducible apply keeps_mk (a := { drv := true, regs := true }) hm; dsimp only [cond_true, cond_false] <;> exact rfl; split)
    | intro x

theorem State.pwmFrame_fr {bl : Blocks} {s0 : State} {s : State} (meas : List ChMeas) (ntc : List (Fin 8 × Nat)) (base : Option Int)
    (hm : Blocks.le { time := true, drv := true, evt := true, way := true, sys := true, regs := true, freeIdx := true } bl = true) (hev : Keeps bl s0 s) :
    Keeps bl s0 (State.pwmFrame s meas ntc base) := by
  unfold State.pwmFrame
  repeat' first
    | with_reducible assumption
    | exact Blocks.le_trans rfl hm
    | refine fun (_ : Keeps _ _ _) => ?_
    | with_reducible apply keeps_forEach
    | with_reducible apply State.advanceTo_fr
    | with_reducible apply State.dieFrames_fr
    | with_reducible apply State.frameMeasured_fr
    | with_reducible apply State.learnPoints_fr
    | with_reducible apply State.ntcRead_fr
    | with_reducible apply keeps_ite
    | (with_reducible apply keeps_mk (a := { time := true, drv := true, evt := true, way := true, sys := true, regs := true, freeIdx := true }) hm; dsimp only [cond_true, cond_false] <;> exact rfl; (first | with_reducible apply State.advanceTo_fr | with_reducible apply State.frameAt_fr | split))
    | intro x

theorem execPwmFrameStart_fr {bl : Blocks} {s0 s1 : State} (meas : List ChMeas) (ntc : List (Fin 8 × Nat)) (base : Option Int) {s : State} (e : execPwmFrameStart meas ntc base s = .next s1)
    (hm : Blocks.le { time := true, drv := true, evt := true, way := true, sys := true, regs := true, freeIdx := true } bl = true) (hev : Keeps bl s0 s) : Keeps bl s0 s1 := by
  unfold execPwmFrameStart at e
  refine keeps_next e ?_
  repeat' first
    | with_reducible assumption
    | refine fun (_ : Keeps _ _ _) => ?_
    | with_reducible apply keeps_whenLive
    | with_reducible apply State.pwmFrame_fr
    | intro x

theorem execStringRetry_fr {bl : Blocks} {s0 s1 : State} (c : Fin 32) {s : State} (e : execStringRetry c s = .next s1)
    (hm : Blocks.le { drv := true } bl = true) (hev : Keeps bl s0 s) : Keeps bl s0 s1 := by
  unfold execStringRetry at e
  refine keeps_next e ?_
  repeat' first
    | with_reducible assumption
    | refine fun (_ : Keeps _ _ _) => ?_
    | with_reducible apply keeps_whenLive
    | with_reducible apply State.modCh_fr
    | with_reducible apply keeps_ite
    | (with_reducible apply keeps_mk (a := { drv := true }) hm; dsimp only [cond_true, cond_false] <;> exact rfl; split)
    | intro x

theorem State.dieHolds_fr {bl : Blocks} {s0 : State} {s : State} (c why : Nat)
    (hm : Blocks.le { drv := true } bl = true) (hev : Keeps bl s0 s) :
    Keeps bl s0 (State.dieHolds s c why) := by
  unfold State.dieHolds
  repeat' first | with_reducible assumption | with_reducible apply State.modCh_fr

theorem execDieOvercurrent_fr {bl : Blocks} {s0 s1 : State} (c : Fin 32) (again : Bool) {s : State} (e : execDieOvercurrent c again s = .next s1)
    (hm : Blocks.le { drv := true, evt := true } bl = true) (hev : Keeps bl s0 s) : Keeps bl s0 s1 := by
  unfold execDieOvercurrent at e
  refine keeps_next e ?_
  repeat' first
    | with_reducible assumption
    | exact Blocks.le_trans rfl hm
    | refine fun (_ : Keeps _ _ _) => ?_
    | with_reducible apply keeps_whenLive
    | with_reducible apply State.dieHolds_fr
    | with_reducible apply State.hardwareLimit_fr
    | with_reducible apply State.modCh_fr
    | with_reducible apply keeps_ite
    | intro x

theorem execDieOvervoltage_fr {bl : Blocks} {s0 s1 : State} (c : Fin 32) {s : State} (e : execDieOvervoltage c s = .next s1)
    (hm : Blocks.le { drv := true, evt := true } bl = true) (hev : Keeps bl s0 s) : Keeps bl s0 s1 := by
  unfold execDieOvervoltage at e
  refine keeps_next e ?_
  repeat' first
    | with_reducible assumption
    | exact Blocks.le_trans rfl hm
    | refine fun (_ : Keeps _ _ _) => ?_
    | with_reducible apply keeps_whenLive
    | with_reducible apply State.dieHolds_fr
    | with_reducible apply State.hardwareLimit_fr
    | with_reducible apply keeps_ite
    | intro x

theorem State.halfOff_fr {bl : Blocks} {s0 : State} {s : State} (h : Nat)
    (hm : Blocks.le { drv := true } bl = true) (hev : Keeps bl s0 s) :
    Keeps bl s0 (State.halfOff s h) := by
  unfold State.halfOff
  repeat' first
    | with_reducible assumption
    | refine fun (_ : Keeps _ _ _) => ?_
    | with_reducible apply keeps_forEach
    | with_reducible apply State.modCh_fr
    | intro x

theorem execGateSupplyLow_fr {bl : Blocks} {s0 s1 : State} (die : Fin 10) {s : State} (e : execGateSupplyLow die s = .next s1)
    (hm : Blocks.le { drv := true, evt := true } bl = true) (hev : Keeps bl s0 s) : Keeps bl s0 s1 := by
  unfold execGateSupplyLow at e
  refine keeps_next e ?_
  repeat' first
    | with_reducible assumption
    | exact Blocks.le_trans rfl hm
    | refine fun (_ : Keeps _ _ _) => ?_
    | with_reducible apply keeps_whenLive
    | with_reducible apply State.halfOff_fr
    | with_reducible apply State.hardwareLimit_fr
    | (with_reducible apply keeps_mk (a := { drv := true, evt := true }) hm; dsimp only [cond_true, cond_false] <;> exact rfl; (first | with_reducible assumption | split))
    | intro x

theorem execGateSupplyRestored_fr {bl : Blocks} {s0 s1 : State} (die : Fin 10) {s : State} (e : execGateSupplyRestored die s = .next s1)
    (hm : Blocks.le { drv := true } bl = true) (hev : Keeps bl s0 s) : Keeps bl s0 s1 := by
  unfold execGateSupplyRestored at e
  refine keeps_next e ?_
  repeat' first
    | with_reducible assumption
    | refine fun (_ : Keeps _ _ _) => ?_
    | with_reducible apply keeps_whenLive
    | (with_reducible apply keeps_mk (a := { drv := true }) hm; dsimp only [cond_true, cond_false] <;> exact rfl; with_reducible assumption)
    | intro x

theorem State.startLearn_fr {bl : Blocks} {s0 : State} {s : State} (c : Nat)
    (hm : Blocks.le { drv := true, regs := true } bl = true) (hev : Keeps bl s0 s) :
    Keeps bl s0 (State.startLearn s c) := by
  unfold State.startLearn
  repeat' first
    | with_reducible assumption
    | exact Blocks.le_trans rfl hm
    | with_reducible apply State.modCh_fr
    | with_reducible apply State.setReg_fr
    | with_reducible apply keeps_ite

theorem State.clearString_fr {bl : Blocks} {s0 : State} {s : State} (c : Nat)
    (hm : Blocks.le { drv := true } bl = true) (hev : Keeps bl s0 s) :
    Keeps bl s0 (State.clearString s c) := by
  unfold State.clearString
  repeat' first | with_reducible assumption | with_reducible apply State.modCh_fr | with_reducible apply keeps_ite

theorem State.writeChCmd_fr {bl : Blocks} {s0 : State} {s : State} (c v : Nat) (w : Writer)
    (hm : Blocks.le { drv := true, evt := true, way := true, regs := true } bl = true) (hev : Keeps bl s0 s) :
    Keeps bl s0 (State.writeChCmd s c v w).1 := by
  unfold State.writeChCmd
  repeat' first
    | with_reducible assumption
    | exact Blocks.le_trans rfl hm
    | with_reducible apply State.clearString_fr
    | with_reducible apply State.startLearn_fr
    | with_reducible apply State.writeReg_fr
    | with_reducible apply keeps_ite

theorem State.writeChCmd_keq {bl : Blocks} {s0 sx : State} {s : State} {c v : Nat} {w : Writer} {qx : Reason} (e : (State.writeChCmd s c v w) = (sx, qx))
    (hm : Blocks.le { drv := true, evt := true, way := true, regs := true } bl = true) (hev : Keeps bl s0 s) : Keeps bl s0 sx := by
  have g := State.writeChCmd_fr c v w hm hev
  rw [e] at g
  exact g

theorem execStringLearn_fr {bl : Blocks} {s0 s1 : State} (c : Fin 32) (w : Writer) {s : State} (e : execStringLearn c w s = .next s1)
    (hm : Blocks.le { drv := true, evt := true, way := true, regs := true } bl = true) (hev : Keeps bl s0 s) : Keeps bl s0 s1 := by
  unfold execStringLearn at e
  refine keeps_next e ?_
  repeat' first
    | with_reducible assumption
    | refine fun (_ : Keeps _ _ _) => ?_
    | with_reducible apply keeps_whenLive
    | with_reducible apply State.writeChCmd_fr
    | intro x

theorem execStringLearnDone_fr {bl : Blocks} {s0 s1 : State} (c : Fin 32) {s : State} (e : execStringLearnDone c s = .next s1)
    (hm : Blocks.le { drv := true, regs := true } bl = true) (hev : Keeps bl s0 s) : Keeps bl s0 s1 := by
  unfold execStringLearnDone at e
  refine keeps_next e ?_
  repeat' first
    | with_reducible assumption
    | exact Blocks.le_trans rfl hm
    | refine fun (_ : Keeps _ _ _) => ?_
    | with_reducible apply keeps_whenLive
    | with_reducible apply State.learnPoints_fr
    | with_reducible apply State.modCh_fr
    | with_reducible apply keeps_ite
    | (with_reducible apply keeps_mk (a := { drv := true, regs := true }) hm; dsimp only [cond_true, cond_false] <;> exact rfl; split)
    | intro x

theorem execStringClear_fr {bl : Blocks} {s0 s1 : State} (c : Fin 32) (w : Writer) {s : State} (e : execStringClear c w s = .next s1)
    (hm : Blocks.le { drv := true, evt := true, way := true, regs := true } bl = true) (hev : Keeps bl s0 s) : Keeps bl s0 s1 := by
  unfold execStringClear at e
  refine keeps_next e ?_
  repeat' first
    | with_reducible assumption
    | refine fun (_ : Keeps _ _ _) => ?_
    | with_reducible apply keeps_whenLive
    | with_reducible apply State.writeChCmd_fr
    | intro x

theorem State.writeDrvCtrl_fr {bl : Blocks} {s0 : State} {s : State} (v : Nat) (w : Writer)
    (hm : Blocks.le { drv := true, evt := true, way := true, regs := true } bl = true) (hev : Keeps bl s0 s) :
    Keeps bl s0 (State.writeDrvCtrl s v w).1 := by
  unfold State.writeDrvCtrl
  repeat' first
    | with_reducible assumption
    | exact Blocks.le_trans rfl hm
    | with_reducible apply State.writeReg_fr
    | with_reducible apply keeps_ite
    | (with_reducible apply keeps_mk (a := { drv := true, evt := true, way := true, regs := true }) hm; dsimp only [cond_true, cond_false] <;> exact rfl; with_reducible apply State.writeReg_fr)

theorem State.writeDrvCtrl_keq {bl : Blocks} {s0 sx : State} {s : State} {v : Nat} {w : Writer} {qx : Reason} (e : (State.writeDrvCtrl s v w) = (sx, qx))
    (hm : Blocks.le { drv := true, evt := true, way := true, regs := true } bl = true) (hev : Keeps bl s0 s) : Keeps bl s0 sx := by
  have g := State.writeDrvCtrl_fr v w hm hev
  rw [e] at g
  exact g

theorem execDrvCntClr_fr {bl : Blocks} {s0 s1 : State} (value : Word) (w : Writer) {s : State} (e : execDrvCntClr value w s = .next s1)
    (hm : Blocks.le { drv := true, evt := true, way := true, regs := true } bl = true) (hev : Keeps bl s0 s) : Keeps bl s0 s1 := by
  unfold execDrvCntClr at e
  refine keeps_next e ?_
  repeat' first
    | with_reducible assumption
    | refine fun (_ : Keeps _ _ _) => ?_
    | with_reducible apply keeps_whenLive
    | with_reducible apply State.writeDrvCtrl_fr
    | intro x

theorem execNtcFault_fr {bl : Blocks} {s0 s1 : State} (n : Fin 8) (mv : Nat) {s : State} (e : execNtcFault n mv s = .next s1)
    (hm : Blocks.le { drv := true, evt := true } bl = true) (hev : Keeps bl s0 s) : Keeps bl s0 s1 := by
  unfold execNtcFault at e
  refine keeps_next e ?_
  repeat' first
    | with_reducible assumption
    | exact Blocks.le_trans rfl hm
    | refine fun (_ : Keeps _ _ _) => ?_
    | with_reducible apply keeps_whenLive
    | with_reducible apply keeps_forEach
    | with_reducible apply State.postTile_fr
    | with_reducible apply keeps_ite
    | (with_reducible apply keeps_mk (a := { drv := true, evt := true }) hm; dsimp only [cond_true, cond_false] <;> exact rfl; with_reducible assumption)
    | intro x

theorem State.freeSpare_fr {bl : Blocks} {s0 : State} {s : State} (die : Nat)
    (hm : Blocks.le { rad := true, drv := true, evt := true, cop := true } bl = true) (hev : Keeps bl s0 s) :
    Keeps bl s0 (State.freeSpare s die) := by
  unfold State.freeSpare
  repeat' first
    | with_reducible assumption
    | exact Blocks.le_trans rfl hm
    | with_reducible apply State.cutSlice_fr
    | (with_reducible apply keeps_mk (a := { rad := true, drv := true, evt := true, cop := true }) hm; dsimp only [cond_true, cond_false] <;> exact rfl; (first | with_reducible assumption | split))

theorem State.halfFails_fr {bl : Blocks} {s0 : State} {s : State} (die : Nat)
    (hm : Blocks.le { rad := true, drv := true, evt := true, cop := true, way := true } bl = true) (hev : Keeps bl s0 s) :
    Keeps bl s0 (State.halfFails s die) := by
  unfold State.halfFails
  repeat' first
    | with_reducible assumption
    | exact Blocks.le_trans rfl hm
    | with_reducible apply State.cutSlices_fr
    | with_reducible apply State.fell_fr
    | with_reducible apply State.freeSpare_fr
    | with_reducible apply keeps_ite
    | (with_reducible apply keeps_mk (a := { rad := true, drv := true, evt := true, cop := true, way := true }) hm; dsimp only [cond_true, cond_false] <;> exact rfl; (first | with_reducible apply State.halfOff_fr | split))

theorem execHalfFailure_fr {bl : Blocks} {s0 s1 : State} (die : Fin 10) {s : State} (e : execHalfFailure die s = .next s1)
    (hm : Blocks.le { rad := true, drv := true, evt := true, cop := true, way := true } bl = true) (hev : Keeps bl s0 s) : Keeps bl s0 s1 := by
  unfold execHalfFailure at e
  refine keeps_next e ?_
  repeat' first
    | with_reducible assumption
    | refine fun (_ : Keeps _ _ _) => ?_
    | with_reducible apply keeps_whenLive
    | with_reducible apply State.halfFails_fr
    | intro x

theorem State.estimate_fr {bl : Blocks} {s0 : State} {s : State} (g : Nat) (m : List Int)
    (hm : Blocks.le { freeIdx := true } bl = true) (hev : Keeps bl s0 s) :
    Keeps bl s0 (State.estimate s g m).2 := by
  unfold State.estimate
  repeat' first
    | with_reducible assumption
    | with_reducible apply State.drawNat_fr
    | with_reducible apply keeps_ite_snd

theorem State.estimate_keq {bl : Blocks} {s0 sx : State} {s : State} {g : Nat} {m : List Int} {qx : (Nat × Nat)} (e : (State.estimate s g m) = (qx, sx))
    (hm : Blocks.le { freeIdx := true } bl = true) (hev : Keeps bl s0 s) : Keeps bl s0 sx := by
  have g := State.estimate_fr g m hm hev
  rw [e] at g
  exact g

theorem State.showWindow_fr {bl : Blocks} {s0 : State} {s : State} (g : Nat) (m : List Int)
    (hm : Blocks.le { drv := true } bl = true) (hev : Keeps bl s0 s) :
    Keeps bl s0 (State.showWindow s g m) := by
  unfold State.showWindow
  repeat' first | with_reducible assumption | with_reducible apply State.modTw_fr

theorem State.learnWindow_fr {bl : Blocks} {s0 : State} {s : State} (g : Nat) (n : TwLearn) (m : List Int)
    (hm : Blocks.le { drv := true } bl = true) (hev : Keeps bl s0 s) :
    Keeps bl s0 (State.learnWindow s g n m) := by
  unfold State.learnWindow
  repeat' first | with_reducible assumption | with_reducible apply State.modTw_fr | with_reducible apply keeps_ite

theorem State.groupWindow_fr {bl : Blocks} {s0 : State} {s : State} (port : Nat) (inBand : Bool) (range : Nat) (readings : List Nat) (sat : List Bool) (g : Nat)
    (hm : Blocks.le { drv := true, evt := true, freeIdx := true } bl = true) (hev : Keeps bl s0 s) :
    Keeps bl s0 (State.groupWindow s port inBand range readings sat g) := by
  unfold State.groupWindow
  repeat' first
    | with_reducible assumption
    | exact Blocks.le_trans rfl hm
    | with_reducible apply State.estimate_fr
    | with_reducible apply State.learnWindow_fr
    | with_reducible apply State.modTw_fr
    | with_reducible apply State.postTile_fr
    | with_reducible apply State.showWindow_fr
    | with_reducible apply keeps_ite
    | (with_reducible apply keeps_mk (a := { drv := true, evt := true, freeIdx := true }) hm; dsimp only [cond_true, cond_false] <;> exact rfl; split)

theorem State.colourWindow_fr {bl : Blocks} {s0 : State} {s : State} (port : Nat) (readings : List Nat) (sat : List Bool)
    (hm : Blocks.le { drv := true, evt := true, regs := true, freeIdx := true } bl = true) (hev : Keeps bl s0 s) :
    Keeps bl s0 (State.colourWindow s port readings sat) := by
  unfold State.colourWindow
  repeat' first
    | with_reducible assumption
    | exact Blocks.le_trans rfl hm
    | refine fun (_ : Keeps _ _ _) => ?_
    | with_reducible apply State.groupWindow_fr
    | with_reducible apply State.postTile_fr
    | with_reducible apply State.setReg_fr
    | with_reducible apply keeps_ite
    | (with_reducible apply keeps_mk (a := { drv := true, evt := true, regs := true, freeIdx := true }) hm; dsimp only [cond_true, cond_false] <;> exact rfl; (first | with_reducible assumption | with_reducible apply keeps_forEach))
    | intro x

theorem execColourWindowEnd_fr {bl : Blocks} {s0 s1 : State} (port : Fin 4) (x y z c : Fin 1048576) (sat : List Bool) {s : State} (e : execColourWindowEnd port x y z c sat s = .next s1)
    (hm : Blocks.le { drv := true, evt := true, regs := true, freeIdx := true } bl = true) (hev : Keeps bl s0 s) : Keeps bl s0 s1 := by
  unfold execColourWindowEnd at e
  refine keeps_next e ?_
  repeat' first
    | with_reducible assumption
    | refine fun (_ : Keeps _ _ _) => ?_
    | with_reducible apply keeps_iff
    | with_reducible apply keeps_whenLive
    | with_reducible apply State.colourWindow_fr
    | intro x

theorem State.colourTick_fr {bl : Blocks} {s0 : State} {s : State}
    (hm : Blocks.le { drv := true } bl = true) (hev : Keeps bl s0 s) :
    Keeps bl s0 (State.colourTick s) := by
  unfold State.colourTick
  repeat' first
    | with_reducible assumption
    | refine fun (_ : Keeps _ _ _) => ?_
    | with_reducible apply keeps_forEach
    | with_reducible apply State.modTw_fr
    | with_reducible apply keeps_ite
    | (with_reducible apply keeps_mk (a := { drv := true }) hm; dsimp only [cond_true, cond_false] <;> exact rfl; split)
    | intro x

theorem State.writeTwCfg_fr {bl : Blocks} {s0 : State} {s : State} (g v : Nat) (w : Writer)
    (hm : Blocks.le { drv := true, evt := true, way := true, regs := true } bl = true) (hev : Keeps bl s0 s) :
    Keeps bl s0 (State.writeTwCfg s g v w).1 := by
  unfold State.writeTwCfg
  repeat' first
    | with_reducible assumption
    | exact Blocks.le_trans rfl hm
    | refine fun (_ : Keeps _ _ _) => ?_
    | with_reducible apply keeps_forEach
    | with_reducible apply State.modCh_fr
    | with_reducible apply State.modTw_fr
    | with_reducible apply State.writeReg_fr
    | with_reducible apply keeps_ite_fst
    | intro x

theorem State.writeTwCfg_keq {bl : Blocks} {s0 sx : State} {s : State} {g v : Nat} {w : Writer} {qx : Reason} (e : (State.writeTwCfg s g v w) = (sx, qx))
    (hm : Blocks.le { drv := true, evt := true, way := true, regs := true } bl = true) (hev : Keeps bl s0 s) : Keeps bl s0 sx := by
  have g := State.writeTwCfg_fr g v w hm hev
  rw [e] at g
  exact g

theorem execTwLearn_fr {bl : Blocks} {s0 s1 : State} (g : Fin 4) (w : Writer) {s : State} (e : execTwLearn g w s = .next s1)
    (hm : Blocks.le { drv := true, evt := true, way := true, regs := true } bl = true) (hev : Keeps bl s0 s) : Keeps bl s0 s1 := by
  unfold execTwLearn at e
  refine keeps_next e ?_
  repeat' first
    | with_reducible assumption
    | refine fun (_ : Keeps _ _ _) => ?_
    | with_reducible apply keeps_whenLive
    | with_reducible apply State.writeTwCfg_fr
    | intro x

theorem State.writePeCtrl_fr {bl : Blocks} {s0 : State} {s : State} (p v : Nat) (w : Writer)
    (hm : Blocks.le { drv := true, evt := true, way := true, regs := true } bl = true) (hev : Keeps bl s0 s) :
    Keeps bl s0 (State.writePeCtrl s p v w).1 := by
  unfold State.writePeCtrl
  repeat' first
    | with_reducible assumption
    | exact Blocks.le_trans rfl hm
    | with_reducible apply State.endPe_fr
    | with_reducible apply State.modPe_fr
    | with_reducible apply State.writeReg_fr
    | with_reducible apply keeps_ite
    | with_reducible apply keeps_ite_fst

theorem State.writePeCtrl_keq {bl : Blocks} {s0 sx : State} {s : State} {p v : Nat} {w : Writer} {qx : Reason} (e : (State.writePeCtrl s p v w) = (sx, qx))
    (hm : Blocks.le { drv := true, evt := true, way := true, regs := true } bl = true) (hev : Keeps bl s0 s) : Keeps bl s0 sx := by
  have g := State.writePeCtrl_fr p v w hm hev
  rw [e] at g
  exact g

theorem execPeStart_fr {bl : Blocks} {s0 s1 : State} (p : Fin 8) (w : Writer) {s : State} (e : execPeStart p w s = .next s1)
    (hm : Blocks.le { drv := true, evt := true, way := true, regs := true } bl = true) (hev : Keeps bl s0 s) : Keeps bl s0 s1 := by
  unfold execPeStart at e
  refine keeps_next e ?_
  repeat' first
    | with_reducible assumption
    | refine fun (_ : Keeps _ _ _) => ?_
    | with_reducible apply keeps_whenLive
    | with_reducible apply State.writePeCtrl_fr
    | intro x

theorem execPeStop_fr {bl : Blocks} {s0 s1 : State} (p : Fin 8) (w : Writer) {s : State} (e : execPeStop p w s = .next s1)
    (hm : Blocks.le { drv := true, evt := true, way := true, regs := true } bl = true) (hev : Keeps bl s0 s) : Keeps bl s0 s1 := by
  unfold execPeStop at e
  refine keeps_next e ?_
  repeat' first
    | with_reducible assumption
    | refine fun (_ : Keeps _ _ _) => ?_
    | with_reducible apply keeps_whenLive
    | with_reducible apply State.writePeCtrl_fr
    | intro x

theorem execPeTimedStart_fr {bl : Blocks} {s0 s1 : State} (p : Fin 8) (tick : Nat) {s : State} (e : execPeTimedStart p tick s = .next s1)
    (hm : Blocks.le { time := true, drv := true, evt := true } bl = true) (hev : Keeps bl s0 s) : Keeps bl s0 s1 := by
  unfold execPeTimedStart at e
  refine keeps_next e ?_
  repeat' first
    | with_reducible assumption
    | exact Blocks.le_trans rfl hm
    | refine fun (_ : Keeps _ _ _) => ?_
    | with_reducible apply keeps_whenLive
    | with_reducible apply State.advanceTo_fr
    | with_reducible apply State.modPe_fr
    | with_reducible apply State.startPe_fr
    | with_reducible apply keeps_ite
    | intro x

theorem execIncInEdge_fr {bl : Blocks} {s0 s1 : State} (rising : Bool) (tick : Nat) (sub : Fin 10) {s : State} (e : execIncInEdge rising tick sub s = .next s1)
    (hm : Blocks.le { time := true, evt := true, fld := true } bl = true) (hev : Keeps bl s0 s) : Keeps bl s0 s1 := by
  unfold execIncInEdge at e
  refine keeps_next e ?_
  repeat' first
    | with_reducible assumption
    | exact Blocks.le_trans rfl hm
    | refine fun (_ : Keeps _ _ _) => ?_
    | with_reducible apply keeps_whenLive
    | with_reducible apply State.capture_fr
    | with_reducible apply State.post_fr
    | (with_reducible apply keeps_mk (a := { time := true, evt := true, fld := true }) hm; dsimp only [cond_true, cond_false] <;> exact rfl; with_reducible apply State.advanceTo_fr)
    | intro x

theorem State.recordEvac_fr {bl : Blocks} {s0 : State} {s : State} (p what : Nat)
    (hm : Blocks.le { evt := true, way := true } bl = true) (hev : Keeps bl s0 s) :
    Keeps bl s0 (State.recordEvac s p what) := by
  unfold State.recordEvac
  repeat' first | with_reducible assumption | with_reducible apply State.record_fr

theorem execEvacStart_fr {bl : Blocks} {s0 s1 : State} {s : State} (e : execEvacStart s = .next s1)
    (hm : Blocks.le { drv := true, evt := true, way := true } bl = true) (hev : Keeps bl s0 s) : Keeps bl s0 s1 := by
  unfold execEvacStart at e
  refine keeps_next e ?_
  repeat' first
    | with_reducible assumption
    | exact Blocks.le_trans rfl hm
    | refine fun (_ : Keeps _ _ _) => ?_
    | with_reducible apply keeps_whenLive
    | with_reducible apply State.postTile_fr
    | with_reducible apply State.recordEvac_fr
    | with_reducible apply keeps_ite
    | (with_reducible apply keeps_mk (a := { drv := true, evt := true, way := true }) hm; dsimp only [cond_true, cond_false] <;> exact rfl; with_reducible apply State.startPe_fr)
    | intro x

theorem State.endEvac_fr {bl : Blocks} {s0 : State} {s : State}
    (hm : Blocks.le { drv := true, evt := true, way := true } bl = true) (hev : Keeps bl s0 s) :
    Keeps bl s0 (State.endEvac s) := by
  unfold State.endEvac
  repeat' first
    | with_reducible assumption
    | exact Blocks.le_trans rfl hm
    | with_reducible apply State.endPe_fr
    | with_reducible apply State.postTile_fr
    | with_reducible apply State.recordEvac_fr
    | (with_reducible apply keeps_mk (a := { drv := true, evt := true, way := true }) hm; dsimp only [cond_true, cond_false] <;> exact rfl; split)

theorem execEvacEnd_fr {bl : Blocks} {s0 s1 : State} {s : State} (e : execEvacEnd s = .next s1)
    (hm : Blocks.le { drv := true, evt := true, way := true } bl = true) (hev : Keeps bl s0 s) : Keeps bl s0 s1 := by
  unfold execEvacEnd at e
  refine keeps_next e ?_
  repeat' first
    | with_reducible assumption
    | refine fun (_ : Keeps _ _ _) => ?_
    | with_reducible apply keeps_whenLive
    | with_reducible apply State.endEvac_fr
    | with_reducible apply keeps_ite
    | intro x

theorem State.writeIncCtrl_fr {bl : Blocks} {s0 : State} {s : State} (v : Nat) (w : Writer)
    (hm : Blocks.le { drv := true, evt := true, way := true, regs := true } bl = true) (hev : Keeps bl s0 s) :
    Keeps bl s0 (State.writeIncCtrl s v w).1 := by
  unfold State.writeIncCtrl
  repeat' first
    | with_reducible assumption
    | exact Blocks.le_trans rfl hm
    | with_reducible apply State.endEvac_fr
    | with_reducible apply State.writeReg_fr
    | with_reducible apply keeps_ite

theorem State.writeIncCtrl_keq {bl : Blocks} {s0 sx : State} {s : State} {v : Nat} {w : Writer} {qx : Reason} (e : (State.writeIncCtrl s v w) = (sx, qx))
    (hm : Blocks.le { drv := true, evt := true, way := true, regs := true } bl = true) (hev : Keeps bl s0 s) : Keeps bl s0 sx := by
  have g := State.writeIncCtrl_fr v w hm hev
  rw [e] at g
  exact g

theorem execEvacRelease_fr {bl : Blocks} {s0 s1 : State} (w : Writer) {s : State} (e : execEvacRelease w s = .next s1)
    (hm : Blocks.le { drv := true, evt := true, way := true, regs := true } bl = true) (hev : Keeps bl s0 s) : Keeps bl s0 s1 := by
  unfold execEvacRelease at e
  refine keeps_next e ?_
  repeat' first
    | with_reducible assumption
    | refine fun (_ : Keeps _ _ _) => ?_
    | with_reducible apply keeps_whenLive
    | with_reducible apply State.writeIncCtrl_fr
    | intro x

theorem State.triggerChannel_fr {bl : Blocks} {s0 : State} {s : State} (c : Nat)
    (hm : Blocks.le { drv := true, evt := true } bl = true) (hev : Keeps bl s0 s) :
    Keeps bl s0 (State.triggerChannel s c) := by
  unfold State.triggerChannel
  repeat' first
    | with_reducible assumption
    | exact Blocks.le_trans rfl hm
    | with_reducible apply State.modCh_fr
    | with_reducible apply State.setChannel_fr
    | with_reducible apply keeps_ite

theorem State.drvTick_fr {bl : Blocks} {s0 : State} {s : State}
    (hm : Blocks.le { drv := true, evt := true } bl = true) (hev : Keeps bl s0 s) :
    Keeps bl s0 (State.drvTick s) := by
  unfold State.drvTick
  repeat' first
    | with_reducible assumption
    | exact Blocks.le_trans rfl hm
    | with_reducible apply State.colourTick_fr
    | with_reducible apply State.startEngines_fr
    | (with_reducible apply keeps_mk (a := { drv := true, evt := true }) hm; dsimp only [cond_true, cond_false] <;> exact rfl; with_reducible assumption)

theorem State.writePeStart_fr {bl : Blocks} {s0 : State} {s : State} (a v : Nat) (w : Writer)
    (hm : Blocks.le { drv := true, evt := true, way := true, regs := true } bl = true) (hev : Keeps bl s0 s) :
    Keeps bl s0 (State.writePeStart s a v w).1 := by
  unfold State.writePeStart
  repeat' first
    | with_reducible assumption
    | exact Blocks.le_trans rfl hm
    | with_reducible apply State.modPe_fr
    | with_reducible apply State.writeReg_fr

theorem State.writePeStart_keq {bl : Blocks} {s0 sx : State} {s : State} {a v : Nat} {w : Writer} {qx : Reason} (e : (State.writePeStart s a v w) = (sx, qx))
    (hm : Blocks.le { drv := true, evt := true, way := true, regs := true } bl = true) (hev : Keeps bl s0 s) : Keeps bl s0 sx := by
  have g := State.writePeStart_fr a v w hm hev
  rw [e] at g
  exact g

theorem State.writeChStatus_fr {bl : Blocks} {s0 : State} {s : State} (c v : Nat)
    (hm : Blocks.le { drv := true } bl = true) (hev : Keeps bl s0 s) :
    Keeps bl s0 (State.writeChStatus s c v) := by
  unfold State.writeChStatus
  repeat' first | with_reducible assumption | with_reducible apply State.modCh_fr

theorem State.writeIncStatus_fr {bl : Blocks} {s0 : State} {s : State} (v : Nat)
    (hm : Blocks.le { drv := true } bl = true) (hev : Keeps bl s0 s) :
    Keeps bl s0 (State.writeIncStatus s v) := by
  unfold State.writeIncStatus
  repeat' first
    | (with_reducible apply keeps_mk (a := { drv := true }) hm; dsimp only [cond_true, cond_false] <;> exact rfl; with_reducible assumption)

end Sys2Proof.Machine
end

