-- ==== Sys2Proof/Laws/FrMtrOps.lean ====
section
/-! SUPPORT. Every operation of Machine/MtrOps.lean keeps what it does not name (Safety.lean). -/

set_option Elab.async false

namespace Sys2Proof.Machine

theorem State.modInt_fr {bl : Blocks} {s0 : State} {s : State} (f : Nat) (g : FeederInt → FeederInt)
    (hm : Blocks.le { mtr := true } bl = true) (hev : Keeps bl s0 s) :
    Keeps bl s0 (State.modInt s f g) := by
  unfold State.modInt
  repeat' first
    | (with_reducible apply keeps_mk (a := { mtr := true }) hm; dsimp only [cond_true, cond_false] <;> exact rfl; with_reducible assumption)

theorem State.modBal_fr {bl : Blocks} {s0 : State} {s : State} (f : Nat) (g : FeederBal → FeederBal)
    (hm : Blocks.le { mtr := true } bl = true) (hev : Keeps bl s0 s) :
    Keeps bl s0 (State.modBal s f g) := by
  unfold State.modBal
  repeat' first
    | (with_reducible apply keeps_mk (a := { mtr := true }) hm; dsimp only [cond_true, cond_false] <;> exact rfl; with_reducible assumption)

theorem State.flagInts_fr {bl : Blocks} {s0 : State} {s : State} (fs : List Nat) (n : Nat)
    (hm : Blocks.le { mtr := true } bl = true) (hev : Keeps bl s0 s) :
    Keeps bl s0 (State.flagInts s fs n) := by
  unfold State.flagInts
  repeat' first
    | with_reducible assumption
    | refine fun (_ : Keeps _ _ _) => ?_
    | with_reducible apply keeps_forEach
    | with_reducible apply State.modInt_fr
    | intro x

theorem State.modMtrCh_fr {bl : Blocks} {s0 : State} {s : State} (c : Nat) (f : MtrCh → MtrCh)
    (hm : Blocks.le { mtr := true } bl = true) (hev : Keeps bl s0 s) :
    Keeps bl s0 (State.modMtrCh s c f) := by
  unfold State.modMtrCh
  repeat' first
    | (with_reducible apply keeps_mk (a := { mtr := true }) hm; dsimp only [cond_true, cond_false] <;> exact rfl; with_reducible assumption)

theorem State.gapRecord_fr {bl : Blocks} {s0 : State} {s : State} (f : Nat) (c : GapClass) (cycles estimate : Nat) (closing : Bool)
    (hm : Blocks.le { evt := true, way := true } bl = true) (hev : Keeps bl s0 s) :
    Keeps bl s0 (State.gapRecord s f c cycles estimate closing) := by
  unfold State.gapRecord
  repeat' first
    | with_reducible assumption
    | exact Blocks.le_trans rfl hm
    | with_reducible apply State.enter_fr
    | with_reducible apply State.postTile_fr

theorem State.openGap_fr {bl : Blocks} {s0 : State} {s : State} (f p : Nat) (c : GapClass)
    (hm : Blocks.le { mtr := true, evt := true, way := true } bl = true) (hev : Keeps bl s0 s) :
    Keeps bl s0 (State.openGap s f p c) := by
  unfold State.openGap
  repeat' first
    | with_reducible assumption
    | exact Blocks.le_trans rfl hm
    | refine fun (_ : Keeps _ _ _) => ?_
    | with_reducible apply keeps_iff
    | with_reducible apply State.flagInts_fr
    | with_reducible apply State.gapRecord_fr
    | with_reducible apply State.modBal_fr
    | with_reducible apply keeps_ite
    | (with_reducible apply keeps_mk (a := { mtr := true, evt := true, way := true }) hm; dsimp only [cond_true, cond_false] <;> exact rfl; with_reducible assumption)
    | intro x

theorem State.addPart_fr {bl : Blocks} {s0 : State} {s : State} (g : Gap)
    (hm : Blocks.le { mtr := true } bl = true) (hev : Keeps bl s0 s) :
    Keeps bl s0 (State.addPart s g) := by
  unfold State.addPart
  repeat' first | with_reducible assumption | with_reducible apply State.modInt_fr

theorem State.closeGaps_fr {bl : Blocks} {s0 : State} {s : State} (f : Nat) (c : GapClass) (phase : Nat → Bool)
    (hm : Blocks.le { mtr := true, evt := true, way := true } bl = true) (hev : Keeps bl s0 s) :
    Keeps bl s0 (State.closeGaps s f c phase) := by
  unfold State.closeGaps
  repeat' first
    | with_reducible assumption
    | exact Blocks.le_trans rfl hm
    | refine fun (_ : Keeps _ _ _) => ?_
    | with_reducible apply State.addPart_fr
    | with_reducible apply State.gapRecord_fr
    | with_reducible apply keeps_ite
    | (with_reducible apply keeps_mk (a := { mtr := true, evt := true, way := true }) hm; dsimp only [cond_true, cond_false] <;> exact rfl; with_reducible apply keeps_forEach)
    | intro x

theorem State.channelGaps_fr {bl : Blocks} {s0 : State} {s : State}
    (hm : Blocks.le { mtr := true, evt := true, way := true } bl = true) (hev : Keeps bl s0 s) :
    Keeps bl s0 (State.channelGaps s) := by
  unfold State.channelGaps
  repeat' first
    | with_reducible assumption
    | refine fun (_ : Keeps _ _ _) => ?_
    | with_reducible apply keeps_forEach
    | with_reducible apply State.closeGaps_fr
    | with_reducible apply State.openGap_fr
    | with_reducible apply keeps_ite
    | intro x

theorem State.accountPhase_fr {bl : Blocks} {s0 : State} {s : State} (x : PhaseSum)
    (hm : Blocks.le { mtr := true } bl = true) (hev : Keeps bl s0 s) :
    Keeps bl s0 (State.accountPhase s x).2 := by
  unfold State.accountPhase
  repeat' first
    | with_reducible assumption
    | refine fun (_ : Keeps _ _ _) => ?_
    | with_reducible apply keeps_iff
    | with_reducible apply State.modBal_fr
    | with_reducible apply keeps_ite_snd
    | (with_reducible apply keeps_mk (a := { mtr := true }) hm; dsimp only [cond_true, cond_false] <;> exact rfl; with_reducible assumption)
    | intro x

theorem State.accountPhase_keq {bl : Blocks} {s0 sx : State} {s : State} {x : PhaseSum} {qx : Bool} (e : (State.accountPhase s x) = (qx, sx))
    (hm : Blocks.le { mtr := true } bl = true) (hev : Keeps bl s0 s) : Keeps bl s0 sx := by
  have g := State.accountPhase_fr x hm hev
  rw [e] at g
  exact g

theorem State.account_fr {bl : Blocks} {s0 s : State} (l : List PhaseSum) (hm : Blocks.le { mtr := true } bl = true)
    (hev : Keeps bl s0 s) : Keeps bl s0 (s.account l) := by
  unfold State.account
  dsimp only
  refine keeps_mk (a := { mtr := true }) hm rfl (keeps_foldl _ _ (fun a x h => ?_) hev)
  exact State.accountPhase_fr _ (Blocks.le_trans rfl hm) h

theorem State.checkpoint_fr {bl : Blocks} {s0 : State} {s : State}
    (hm : Blocks.le { mtr := true, evt := true } bl = true) (hev : Keeps bl s0 s) :
    Keeps bl s0 (State.checkpoint s) := by
  unfold State.checkpoint
  repeat' first
    | exact Blocks.le_trans rfl hm
    | with_reducible apply State.postTile_fr
    | (with_reducible apply keeps_mk (a := { mtr := true, evt := true }) hm; dsimp only [cond_true, cond_false] <;> exact rfl; with_reducible assumption)

theorem State.takeSnapshot_fr {bl : Blocks} {s0 : State} {s : State} (partialSums : List PhaseSum)
    (hm : Blocks.le { mtr := true, evt := true } bl = true) (hev : Keeps bl s0 s) :
    Keeps bl s0 (State.takeSnapshot s partialSums) := by
  unfold State.takeSnapshot
  repeat' first
    | exact Blocks.le_trans rfl hm
    | with_reducible apply State.postTile_fr
    | (with_reducible apply keeps_mk (a := { mtr := true, evt := true }) hm; dsimp only [cond_true, cond_false] <;> exact rfl; with_reducible assumption)

theorem State.loadMeter_fr {bl : Blocks} {s0 : State} {s : State}
    (hm : Blocks.le { mtr := true } bl = true) (hev : Keeps bl s0 s) :
    Keeps bl s0 (State.loadMeter s) := by
  unfold State.loadMeter
  repeat' first
    | (with_reducible apply keeps_mk (a := { mtr := true }) hm; dsimp only [cond_true, cond_false] <;> exact rfl; (first | with_reducible assumption | split))

theorem State.meterResume_fr {bl : Blocks} {s0 : State} {s : State}
    (hm : Blocks.le { mtr := true } bl = true) (hev : Keeps bl s0 s) :
    Keeps bl s0 (State.meterResume s) := by
  unfold State.meterResume
  repeat' first
    | with_reducible assumption
    | exact hm
    | exact Blocks.le_trans rfl hm
    | refine fun (_ : Keeps _ _ _) => ?_
    | with_reducible apply keeps_iff
    | with_reducible apply keeps_whenLive
    | with_reducible apply keeps_forEach
    | with_reducible apply State.flagInts_fr
    | with_reducible apply State.modBal_fr
    | with_reducible apply State.modInt_fr
    | with_reducible apply keeps_ite
    | (with_reducible apply keeps_mk (a := { mtr := true }) hm; dsimp only [cond_true, cond_false] <;> exact rfl; (first | with_reducible assumption | exact hm | exact Blocks.le_trans rfl hm | with_reducible apply keeps_iff | with_reducible apply keeps_whenLive | with_reducible apply keeps_forEach | with_reducible apply State.flagInts_fr | with_reducible apply State.modBal_fr | with_reducible apply State.modInt_fr | with_reducible apply keeps_ite | split))
    | (intro x; refine keeps_cut (l := bl) (s0 := s0) (x := x) ?_ ?_; rotate_left; clear_value x; intro hx; rotate_left; subst x)
    | intro x
    | split
    | lift_lets
    | dsimp only

theorem State.settlePowerGap_fr {bl : Blocks} {s0 : State} {s : State}
    (hm : Blocks.le { mtr := true, evt := true, way := true } bl = true) (hev : Keeps bl s0 s) :
    Keeps bl s0 (State.settlePowerGap s) := by
  unfold State.settlePowerGap
  repeat' first
    | with_reducible assumption
    | exact Blocks.le_trans rfl hm
    | refine fun (_ : Keeps _ _ _) => ?_
    | with_reducible apply keeps_forEach
    | with_reducible apply State.gapRecord_fr
    | with_reducible apply State.modInt_fr
    | (with_reducible apply keeps_mk (a := { mtr := true, evt := true, way := true }) hm; dsimp only [cond_true, cond_false] <;> exact rfl; (first | with_reducible assumption | split))
    | intro x

theorem State.recordBalance_fr {bl : Blocks} {s0 : State} {s : State} (f : Nat) (r : BalResult)
    (hm : Blocks.le { evt := true, way := true } bl = true) (hev : Keeps bl s0 s) :
    Keeps bl s0 (State.recordBalance s f r) := by
  unfold State.recordBalance
  repeat' first | with_reducible assumption | with_reducible apply State.record_fr

theorem State.balanceAlarm_fr {bl : Blocks} {s0 : State} {s : State} (f : Nat) (r : BalResult)
    (hm : Blocks.le { mtr := true, evt := true, way := true } bl = true) (hev : Keeps bl s0 s) :
    Keeps bl s0 (State.balanceAlarm s f r) := by
  unfold State.balanceAlarm
  repeat' first
    | with_reducible assumption
    | exact Blocks.le_trans rfl hm
    | refine fun (_ : Keeps _ _ _) => ?_
    | with_reducible apply keeps_iff
    | with_reducible apply State.modBal_fr
    | with_reducible apply State.recordBalance_fr
    | with_reducible apply keeps_ite
    | intro x

theorem State.closeBalance_fr {bl : Blocks} {s0 : State} {s : State} (f : Nat) (b : Balance)
    (hm : Blocks.le { mtr := true, evt := true, way := true } bl = true) (hev : Keeps bl s0 s) :
    Keeps bl s0 (State.closeBalance s f b) := by
  unfold State.closeBalance
  repeat' first
    | with_reducible assumption
    | exact Blocks.le_trans rfl hm
    | refine fun (_ : Keeps _ _ _) => ?_
    | with_reducible apply keeps_iff
    | with_reducible apply State.balanceAlarm_fr
    | with_reducible apply State.modBal_fr
    | with_reducible apply State.recordBalance_fr
    | intro x

theorem State.closeWhole_fr {bl : Blocks} {s0 : State} {s : State} (f : Nat)
    (hm : Blocks.le { mtr := true, evt := true, way := true } bl = true) (hev : Keeps bl s0 s) :
    Keeps bl s0 (State.closeWhole s f) := by
  unfold State.closeWhole
  repeat' first
    | with_reducible assumption
    | refine fun (_ : Keeps _ _ _) => ?_
    | with_reducible apply keeps_forEach
    | with_reducible apply State.closeBalance_fr
    | with_reducible apply keeps_ite
    | intro x

theorem State.balanceEnd_fr {bl : Blocks} {s0 : State} {s : State} (f : Nat)
    (hm : Blocks.le { mtr := true, evt := true, way := true } bl = true) (hev : Keeps bl s0 s) :
    Keeps bl s0 (State.balanceEnd s f) := by
  unfold State.balanceEnd
  repeat' first
    | with_reducible assumption
    | exact Blocks.le_trans rfl hm
    | with_reducible apply State.closeWhole_fr
    | with_reducible apply State.modBal_fr
    | with_reducible apply State.postTile_fr
    | with_reducible apply keeps_ite

theorem State.renewBoundary_fr {bl : Blocks} {s0 : State} {s : State}
    (hm : Blocks.le { mtr := true } bl = true) (hev : Keeps bl s0 s) :
    Keeps bl s0 (State.renewBoundary s) := by
  unfold State.renewBoundary
  repeat' first
    | (with_reducible apply keeps_mk (a := { mtr := true }) hm; dsimp only [cond_true, cond_false] <;> exact rfl; with_reducible assumption)

theorem State.latchFeeder_fr {bl : Blocks} {s0 : State} {s : State} (ofsUs : Nat) (missed : Bool) (f : Nat)
    (hm : Blocks.le { mtr := true } bl = true) (hev : Keeps bl s0 s) :
    Keeps bl s0 (State.latchFeeder s ofsUs missed f).2 := by
  unfold State.latchFeeder
  repeat' first
    | with_reducible assumption
    | with_reducible apply State.modBal_fr
    | (with_reducible apply keeps_mk (a := { mtr := true }) hm; dsimp only [cond_true, cond_false] <;> exact rfl; with_reducible assumption)

theorem State.latchFeeder_keq {bl : Blocks} {s0 sx : State} {s : State} {ofsUs : Nat} {missed : Bool} {f : Nat} {qx : List Byte} (e : (State.latchFeeder s ofsUs missed f) = (qx, sx))
    (hm : Blocks.le { mtr := true } bl = true) (hev : Keeps bl s0 s) : Keeps bl s0 sx := by
  have g := State.latchFeeder_fr ofsUs missed f hm hev
  rw [e] at g
  exact g

theorem State.latchFeeders_fr {bl : Blocks} {s0 s : State} (ofsUs : Nat) (missed : Bool)
    (hm : Blocks.le { mtr := true } bl = true) (hev : Keeps bl s0 s) : Keeps bl s0 (s.latchFeeders ofsUs missed).2 := by
  unfold State.latchFeeders
  refine keeps_foldl _ _ (fun _ _ h => ?_) hev
  exact State.latchFeeder_fr _ _ _ (Blocks.le_trans rfl hm) h

theorem State.latchFeeders_keq {bl : Blocks} {s0 s sx : State} {ofsUs : Nat} {missed : Bool} {qx : List (List Byte)}
    (e : s.latchFeeders ofsUs missed = (qx, sx)) (hm : Blocks.le { mtr := true } bl = true) (hev : Keeps bl s0 s) :
    Keeps bl s0 sx := by
  have g := State.latchFeeders_fr ofsUs missed hm hev
  rw [e] at g
  exact g

theorem State.latch_fr {bl : Blocks} {s0 : State} {s : State} (ofsUs : Nat) (missed : Bool)
    (hm : Blocks.le { time := true, mtr := true, fsp := true, evt := true, way := true, regs := true, out := true } bl = true) (hev : Keeps bl s0 s) :
    Keeps bl s0 (State.latch s ofsUs missed) := by
  unfold State.latch
  repeat' first
    | with_reducible assumption
    | exact Blocks.le_trans rfl hm
    | refine fun (_ : Keeps _ _ _) => ?_
    | with_reducible apply keeps_iff
    | with_reducible apply keeps_forEach
    | with_reducible apply State.addPart_fr
    | with_reducible apply State.checkpoint_fr
    | with_reducible apply State.latchFeeders_fr
    | with_reducible apply State.postTile_fr
    | with_reducible apply State.push_fr
    | with_reducible apply State.realignStep_fr
    | with_reducible apply State.renewBoundary_fr
    | with_reducible apply State.setReg_fr
    | with_reducible apply State.takeSnapshot_fr
    | (with_reducible apply keeps_mk (a := { time := true, mtr := true, fsp := true, evt := true, way := true, regs := true, out := true }) hm; dsimp only [cond_true, cond_false] <;> exact rfl; (first | with_reducible apply State.latchFeeders_fr | split))
    | intro x

theorem State.closeDue_fr {bl : Blocks} {s0 : State} {s : State} (f : Nat)
    (hm : Blocks.le { mtr := true, evt := true, way := true } bl = true) (hev : Keeps bl s0 s) :
    Keeps bl s0 (State.closeDue s f) := by
  unfold State.closeDue
  repeat' first
    | with_reducible assumption
    | exact hm
    | exact Blocks.le_trans rfl hm
    | refine fun (_ : Keeps _ _ _) => ?_
    | with_reducible apply keeps_iff
    | with_reducible apply keeps_whenLive
    | with_reducible apply keeps_forEach
    | with_reducible apply State.closeBalance_fr
    | with_reducible apply keeps_ite
    | (with_reducible apply keeps_mk (a := { mtr := true, evt := true, way := true }) hm; dsimp only [cond_true, cond_false] <;> exact rfl; (first | with_reducible assumption | exact hm | exact Blocks.le_trans rfl hm | with_reducible apply keeps_iff | with_reducible apply keeps_whenLive | with_reducible apply keeps_forEach | with_reducible apply State.closeBalance_fr | with_reducible apply keeps_ite | split))
    | (intro x; refine keeps_cut (l := bl) (s0 := s0) (x := x) ?_ ?_; rotate_left; clear_value x; intro hx; rotate_left; subst x)
    | intro x
    | split
    | lift_lets
    | dsimp only

theorem State.boundary_fr {bl : Blocks} {s0 : State} {s : State} (ofsUs : Nat) (missed : Bool)
    (hm : Blocks.le { time := true, mtr := true, fsp := true, evt := true, way := true, regs := true, out := true } bl = true) (hev : Keeps bl s0 s) :
    Keeps bl s0 (State.boundary s ofsUs missed) := by
  unfold State.boundary
  repeat' first
    | with_reducible assumption
    | exact hm
    | exact Blocks.le_trans rfl hm
    | refine fun (_ : Keeps _ _ _) => ?_
    | with_reducible apply keeps_iff
    | with_reducible apply keeps_whenLive
    | with_reducible apply keeps_forEach
    | with_reducible apply State.balanceEnd_fr
    | with_reducible apply State.closeDue_fr
    | with_reducible apply State.latch_fr
    | with_reducible apply keeps_ite
    | (with_reducible apply keeps_mk (a := { time := true, mtr := true, fsp := true, evt := true, way := true, regs := true, out := true }) hm; dsimp only [cond_true, cond_false] <;> exact rfl; (first | with_reducible assumption | exact hm | exact Blocks.le_trans rfl hm | with_reducible apply keeps_iff | with_reducible apply keeps_whenLive | with_reducible apply keeps_forEach | with_reducible apply State.balanceEnd_fr | with_reducible apply State.closeDue_fr | with_reducible apply State.latch_fr | with_reducible apply keeps_ite | split))
    | (intro x; refine keeps_cut (l := bl) (s0 := s0) (x := x) ?_ ?_; rotate_left; clear_value x; intro hx; rotate_left; subst x)
    | intro x
    | split
    | lift_lets
    | dsimp only

theorem State.channelStep_fr {bl : Blocks} {s0 : State} {s : State} (c : Nat)
    (hm : Blocks.le { mtr := true, evt := true, cop := true, way := true } bl = true) (hev : Keeps bl s0 s) :
    Keeps bl s0 (State.channelStep s c) := by
  unfold State.channelStep
  repeat' first
    | with_reducible assumption
    | exact Blocks.le_trans rfl hm
    | with_reducible apply State.fell_fr
    | with_reducible apply State.flagInts_fr
    | with_reducible apply State.modMtrCh_fr
    | with_reducible apply State.post_fr
    | with_reducible apply State.postTile_fr
    | with_reducible apply keeps_ite
    | (with_reducible apply keeps_mk (a := { mtr := true, evt := true, cop := true, way := true }) hm; dsimp only [cond_true, cond_false] <;> exact rfl; (first | with_reducible assumption | split))

theorem State.enforce_fr {bl : Blocks} {s0 : State} {s : State}
    (hm : Blocks.le { mtr := true, evt := true, way := true } bl = true) (hev : Keeps bl s0 s) :
    Keeps bl s0 (State.enforce s) := by
  unfold State.enforce
  repeat' first
    | with_reducible assumption
    | exact Blocks.le_trans rfl hm
    | refine fun (_ : Keeps _ _ _) => ?_
    | with_reducible apply keeps_forEach
    | with_reducible apply State.closeGaps_fr
    | with_reducible apply State.flagInts_fr
    | with_reducible apply State.openGap_fr
    | with_reducible apply keeps_ite
    | (with_reducible apply keeps_mk (a := { mtr := true, evt := true, way := true }) hm; dsimp only [cond_true, cond_false] <;> exact rfl; with_reducible apply keeps_iff)
    | intro x

theorem State.meterTick_fr {bl : Blocks} {s0 : State} {s : State} (sums : List PhaseSum) (rms : List Nat) (clipped : List (Fin 16))
    (hm : Blocks.le { mtr := true, evt := true, cop := true, way := true } bl = true) (hev : Keeps bl s0 s) :
    Keeps bl s0 (State.meterTick s sums rms clipped) := by
  unfold State.meterTick
  repeat' first
    | with_reducible assumption
    | exact Blocks.le_trans rfl hm
    | refine fun (_ : Keeps _ _ _) => ?_
    | with_reducible apply keeps_iff
    | with_reducible apply keeps_forEach
    | with_reducible apply State.channelGaps_fr
    | with_reducible apply State.channelStep_fr
    | with_reducible apply State.enforce_fr
    | with_reducible apply State.flagInts_fr
    | with_reducible apply State.meterResume_fr
    | with_reducible apply State.modInt_fr
    | with_reducible apply State.modMtrCh_fr
    | with_reducible apply State.postTile_fr
    | with_reducible apply State.settlePowerGap_fr
    | with_reducible apply keeps_ite
    | (with_reducible apply keeps_mk (a := { mtr := true, evt := true, cop := true, way := true }) hm; dsimp only [cond_true, cond_false] <;> exact rfl; (first | with_reducible apply keeps_iff | with_reducible apply State.account_fr))
    | intro x

end Sys2Proof.Machine
end

