-- ==== Sys2Proof/Laws/FrMeter.lean ====
section
/-! SUPPORT. Every operation of Machine/Meter.lean keeps what it does not name (Safety.lean). -/

set_option Elab.async false

namespace Sys2Proof.Machine

theorem execChannelFault_fr {bl : Blocks} {s0 s1 : State} (c : Fin 16) {s : State} (e : execChannelFault c s = .next s1)
    (hm : Blocks.le { mtr := true, evt := true } bl = true) (hev : Keeps bl s0 s) : Keeps bl s0 s1 := by
  unfold execChannelFault at e
  refine keeps_next e ?_
  repeat' first
    | with_reducible assumption
    | exact Blocks.le_trans rfl hm
    | refine fun (_ : Keeps _ _ _) => ?_
    | with_reducible apply keeps_whenLive
    | with_reducible apply State.modMtrCh_fr
    | with_reducible apply State.postTile_fr
    | (with_reducible apply keeps_mk (a := { mtr := true, evt := true }) hm; dsimp only [cond_true, cond_false] <;> exact rfl; split)
    | intro x

theorem execMsealChange_fr {bl : Blocks} {s0 s1 : State} (isOpen : Bool) {s : State} (e : execMsealChange isOpen s = .next s1)
    (hm : Blocks.le { mtr := true, evt := true, way := true, fld := true } bl = true) (hev : Keeps bl s0 s) : Keeps bl s0 s1 := by
  unfold execMsealChange at e
  refine keeps_next e ?_
  repeat' first
    | with_reducible assumption
    | exact Blocks.le_trans rfl hm
    | refine fun (_ : Keeps _ _ _) => ?_
    | with_reducible apply keeps_iff
    | with_reducible apply keeps_whenLive
    | with_reducible apply State.flagInts_fr
    | with_reducible apply State.post_fr
    | with_reducible apply State.record_fr
    | (with_reducible apply keeps_mk (a := { mtr := true, evt := true, way := true, fld := true }) hm; dsimp only [cond_true, cond_false] <;> exact rfl; with_reducible assumption)
    | intro x

theorem State.metrologyWritten_fr {bl : Blocks} {s0 : State} {s : State} (w : Writer) (a old new : Nat)
    (hm : Blocks.le { mtr := true, evt := true, way := true } bl = true) (hev : Keeps bl s0 s) :
    Keeps bl s0 (State.metrologyWritten s w a old new) := by
  unfold State.metrologyWritten
  repeat' first
    | exact Blocks.le_trans rfl hm
    | with_reducible apply State.recordAs_fr
    | (with_reducible apply keeps_mk (a := { mtr := true, evt := true, way := true }) hm; dsimp only [cond_true, cond_false] <;> exact rfl; with_reducible assumption)

theorem State.startCal_fr {bl : Blocks} {s0 : State} {s : State}
    (hm : Blocks.le { mtr := true } bl = true) (hev : Keeps bl s0 s) :
    Keeps bl s0 (State.startCal s) := by
  unfold State.startCal
  repeat' first
    | (with_reducible apply keeps_mk (a := { mtr := true }) hm; dsimp only [cond_true, cond_false] <;> exact rfl; with_reducible assumption)

theorem State.writeMetrology_fr {bl : Blocks} {s0 : State} {s : State} (a v : Nat) (w : Writer)
    (hm : Blocks.le { mtr := true, evt := true, way := true, regs := true } bl = true) (hev : Keeps bl s0 s) :
    Keeps bl s0 (State.writeMetrology s a v w).1 := by
  unfold State.writeMetrology
  repeat' first
    | with_reducible assumption
    | exact Blocks.le_trans rfl hm
    | with_reducible apply State.metrologyWritten_fr
    | with_reducible apply State.startCal_fr
    | with_reducible apply State.writeQuiet_fr
    | with_reducible apply keeps_ite
    | with_reducible apply keeps_ite_fst
    | (with_reducible apply keeps_mk (a := { mtr := true, evt := true, way := true, regs := true }) hm; dsimp only [cond_true, cond_false] <;> exact rfl; (first | with_reducible apply State.setReg_fr | with_reducible apply State.writeQuiet_fr))

theorem State.writeMetrology_keq {bl : Blocks} {s0 sx : State} {s : State} {a v : Nat} {w : Writer} {qx : Reason} (e : (State.writeMetrology s a v w) = (sx, qx))
    (hm : Blocks.le { mtr := true, evt := true, way := true, regs := true } bl = true) (hev : Keeps bl s0 s) : Keeps bl s0 sx := by
  have g := State.writeMetrology_fr a v w hm hev
  rw [e] at g
  exact g

theorem execMetrologyRegisterWrite_fr {bl : Blocks} {s0 s1 : State} (addr value : Word) (w : Writer) {s : State} (e : execMetrologyRegisterWrite addr value w s = .next s1)
    (hm : Blocks.le { mtr := true, evt := true, way := true, regs := true } bl = true) (hev : Keeps bl s0 s) : Keeps bl s0 s1 := by
  unfold execMetrologyRegisterWrite at e
  refine keeps_next e ?_
  repeat' first
    | with_reducible assumption
    | refine fun (_ : Keeps _ _ _) => ?_
    | with_reducible apply keeps_whenLive
    | with_reducible apply State.writeMetrology_fr
    | intro x

theorem execLatchNWrite_fr {bl : Blocks} {s0 s1 : State} (value : Word) (w : Writer) {s : State} (e : execLatchNWrite value w s = .next s1)
    (hm : Blocks.le { mtr := true, evt := true, way := true, regs := true } bl = true) (hev : Keeps bl s0 s) : Keeps bl s0 s1 := by
  unfold execLatchNWrite at e
  refine keeps_next e ?_
  repeat' first
    | with_reducible assumption
    | refine fun (_ : Keeps _ _ _) => ?_
    | with_reducible apply keeps_whenLive
    | with_reducible apply State.writeMetrology_fr
    | intro x

theorem execCalStart_fr {bl : Blocks} {s0 s1 : State} (value : Word) (w : Writer) {s : State} (e : execCalStart value w s = .next s1)
    (hm : Blocks.le { mtr := true, evt := true, way := true, regs := true } bl = true) (hev : Keeps bl s0 s) : Keeps bl s0 s1 := by
  unfold execCalStart at e
  refine keeps_next e ?_
  repeat' first
    | with_reducible assumption
    | refine fun (_ : Keeps _ _ _) => ?_
    | with_reducible apply keeps_whenLive
    | with_reducible apply State.writeMetrology_fr
    | intro x

theorem execCalDone_fr {bl : Blocks} {s0 s1 : State} (p q : Int) (rms : Word) (dc : Int) {s : State} (e : execCalDone p q rms dc s = .next s1)
    (hm : Blocks.le { mtr := true } bl = true) (hev : Keeps bl s0 s) : Keeps bl s0 s1 := by
  unfold execCalDone at e
  refine keeps_next e ?_
  repeat' first
    | with_reducible assumption
    | refine fun (_ : Keeps _ _ _) => ?_
    | with_reducible apply keeps_iff
    | with_reducible apply keeps_whenLive
    | (with_reducible apply keeps_mk (a := { mtr := true }) hm; dsimp only [cond_true, cond_false] <;> exact rfl; with_reducible assumption)
    | intro x

theorem execPhaseAbsent_fr {bl : Blocks} {s0 s1 : State} (phase : Fin 2) {s : State} (e : execPhaseAbsent phase s = .next s1)
    (hm : Blocks.le { mtr := true, evt := true } bl = true) (hev : Keeps bl s0 s) : Keeps bl s0 s1 := by
  unfold execPhaseAbsent at e
  refine keeps_next e ?_
  repeat' first
    | with_reducible assumption
    | exact Blocks.le_trans rfl hm
    | refine fun (_ : Keeps _ _ _) => ?_
    | with_reducible apply keeps_whenLive
    | with_reducible apply State.postTile_fr
    | (with_reducible apply keeps_mk (a := { mtr := true, evt := true }) hm; dsimp only [cond_true, cond_false] <;> exact rfl; with_reducible assumption)
    | intro x

theorem execPhaseValidCrossing_fr {bl : Blocks} {s0 s1 : State} (phase : Fin 2) {s : State} (e : execPhaseValidCrossing phase s = .next s1)
    (hm : Blocks.le { mtr := true } bl = true) (hev : Keeps bl s0 s) : Keeps bl s0 s1 := by
  unfold execPhaseValidCrossing at e
  refine keeps_next e ?_
  repeat' first
    | with_reducible assumption
    | refine fun (_ : Keeps _ _ _) => ?_
    | with_reducible apply keeps_whenLive
    | (with_reducible apply keeps_mk (a := { mtr := true }) hm; dsimp only [cond_true, cond_false] <;> exact rfl; with_reducible assumption)
    | intro x

theorem execMeterCheckpoint_fr {bl : Blocks} {s0 s1 : State} {s : State} (e : execMeterCheckpoint s = .next s1)
    (hm : Blocks.le { mtr := true, evt := true } bl = true) (hev : Keeps bl s0 s) : Keeps bl s0 s1 := by
  unfold execMeterCheckpoint at e
  refine keeps_next e ?_
  repeat' first
    | with_reducible assumption
    | refine fun (_ : Keeps _ _ _) => ?_
    | with_reducible apply keeps_iff
    | with_reducible apply keeps_whenLive
    | with_reducible apply State.checkpoint_fr
    | intro x

theorem State.copyRegister_fr {bl : Blocks} {s0 : State} {s : State}
    (hm : Blocks.le { mtr := true } bl = true) (hev : Keeps bl s0 s) :
    Keeps bl s0 (State.copyRegister s) := by
  unfold State.copyRegister
  repeat' first
    | (with_reducible apply keeps_mk (a := { mtr := true }) hm; dsimp only [cond_true, cond_false] <;> exact rfl; with_reducible assumption)

theorem State.writeRegSel_fr {bl : Blocks} {s0 : State} {s : State} (v : Nat) (w : Writer)
    (hm : Blocks.le { mtr := true, evt := true, way := true, regs := true } bl = true) (hev : Keeps bl s0 s) :
    Keeps bl s0 (State.writeRegSel s v w).1 := by
  unfold State.writeRegSel
  repeat' first
    | with_reducible assumption
    | exact Blocks.le_trans rfl hm
    | with_reducible apply State.copyRegister_fr
    | with_reducible apply State.writeReg_fr
    | with_reducible apply keeps_ite

theorem State.writeRegSel_keq {bl : Blocks} {s0 sx : State} {s : State} {v : Nat} {w : Writer} {qx : Reason} (e : (State.writeRegSel s v w) = (sx, qx))
    (hm : Blocks.le { mtr := true, evt := true, way := true, regs := true } bl = true) (hev : Keeps bl s0 s) : Keeps bl s0 sx := by
  have g := State.writeRegSel_fr v w hm hev
  rw [e] at g
  exact g

theorem execRegSelWrite_fr {bl : Blocks} {s0 s1 : State} (value : Word) (w : Writer) {s : State} (e : execRegSelWrite value w s = .next s1)
    (hm : Blocks.le { mtr := true, evt := true, way := true, regs := true } bl = true) (hev : Keeps bl s0 s) : Keeps bl s0 s1 := by
  unfold execRegSelWrite at e
  refine keeps_next e ?_
  repeat' first
    | with_reducible assumption
    | refine fun (_ : Keeps _ _ _) => ?_
    | with_reducible apply keeps_whenLive
    | with_reducible apply State.writeRegSel_fr
    | intro x

theorem execBalanceDeadline_fr {bl : Blocks} {s0 s1 : State} (feeder : Fin 4) (ended : BitVec 40) {s : State} (e : execBalanceDeadline feeder ended s = .next s1)
    (hm : Blocks.le { mtr := true, evt := true, way := true } bl = true) (hev : Keeps bl s0 s) : Keeps bl s0 s1 := by
  unfold execBalanceDeadline at e
  refine keeps_next e ?_
  repeat' first
    | with_reducible assumption
    | refine fun (_ : Keeps _ _ _) => ?_
    | with_reducible apply keeps_iff
    | with_reducible apply keeps_whenLive
    | with_reducible apply State.closeBalance_fr
    | (with_reducible apply keeps_mk (a := { mtr := true, evt := true, way := true }) hm; dsimp only [cond_true, cond_false] <;> exact rfl; split)
    | intro x

theorem State.serveMeterRead_fr {bl : Blocks} {s0 : State} {s : State} (i : Fin 4) (c : Session) (tx : Nat) (b : List Byte)
    (hm : Blocks.le { adm := true, fsp := true, evt := true, way := true, out := true } bl = true) (hev : Keeps bl s0 s) :
    Keeps bl s0 (State.serveMeterRead s i c tx b) := by
  unfold State.serveMeterRead
  repeat' first
    | with_reducible assumption
    | exact Blocks.le_trans rfl hm
    | with_reducible apply State.countUse_fr
    | with_reducible apply State.malformed_fr
    | with_reducible apply State.respond_fr
    | with_reducible apply keeps_ite

theorem execMeterRead_fr {bl : Blocks} {s0 s1 : State} (sess : Fin 4) (role : Byte) (tx : Word) (body : List Byte) {s : State} (e : execMeterRead sess role tx body s = .next s1)
    (hm : Blocks.le { adm := true, fsp := true, evt := true, way := true, out := true } bl = true) (hev : Keeps bl s0 s) : Keeps bl s0 s1 := by
  unfold execMeterRead at e
  refine keeps_next e ?_
  repeat' first
    | with_reducible assumption
    | refine fun (_ : Keeps _ _ _) => ?_
    | with_reducible apply keeps_whenLive
    | with_reducible apply State.request_fr
    | with_reducible apply State.serveMeterRead_fr
    | intro x

theorem State.writeMtrStatus_fr {bl : Blocks} {s0 : State} {s : State} (c v : Nat)
    (hm : Blocks.le { mtr := true } bl = true) (hev : Keeps bl s0 s) :
    Keeps bl s0 (State.writeMtrStatus s c v) := by
  unfold State.writeMtrStatus
  repeat' first | with_reducible assumption | with_reducible apply State.modMtrCh_fr

end Sys2Proof.Machine
end

