-- ==== Sys2Proof/Laws/FrNodes.lean ====
section
/-! SUPPORT. Every operation of Machine/Nodes.lean keeps what it does not name (Safety.lean). -/

set_option Elab.async false

namespace Sys2Proof.Machine

theorem State.knowNode_fr {bl : Blocks} {s0 : State} {s : State} (eui : Nat)
    (hm : Blocks.le { node := true } bl = true) (hev : Keeps bl s0 s) :
    Keeps bl s0 (State.knowNode s eui) := by
  unfold State.knowNode
  repeat' first
    | with_reducible assumption
    | with_reducible apply keeps_ite
    | (with_reducible apply keeps_mk (a := { node := true }) hm; dsimp only [cond_true, cond_false] <;> exact rfl; with_reducible assumption)

theorem State.countJoin_fr {bl : Blocks} {s0 : State} {s : State} (t : Nat)
    (hm : Blocks.le { rad := true } bl = true) (hev : Keeps bl s0 s) :
    Keeps bl s0 (State.countJoin s t) := by
  unfold State.countJoin
  repeat' first
    | (with_reducible apply keeps_mk (a := { rad := true }) hm; dsimp only [cond_true, cond_false] <;> exact rfl; with_reducible assumption)

theorem State.takeEntry_fr {bl : Blocks} {s0 : State} {s : State} (n : NodeRec) (key : Nat) (kept : Bool) (drift : Int)
    (hm : Blocks.le { rad := true, node := true } bl = true) (hev : Keeps bl s0 s) :
    Keeps bl s0 (State.takeEntry s n key kept drift) := by
  unfold State.takeEntry
  repeat' first
    | (with_reducible apply keeps_mk (a := { rad := true, node := true }) hm; dsimp only [cond_true, cond_false] <;> exact rfl; with_reducible assumption)

theorem State.sendGrant_fr {bl : Blocks} {s0 : State} {s : State} (n : NodeRec) (cell : Nat) (body : List Byte)
    (hm : Blocks.le { rad := true } bl = true) (hev : Keeps bl s0 s) :
    Keeps bl s0 (State.sendGrant s n cell body) := by
  unfold State.sendGrant
  repeat' first
    | with_reducible assumption
    | with_reducible apply State.hold_fr
    | with_reducible apply State.sendNode_fr
    | with_reducible apply State.takeSeq_fr
    | with_reducible apply keeps_ite
    | (with_reducible apply keeps_mk (a := { rad := true }) hm; dsimp only [cond_true, cond_false] <;> exact rfl; split)

theorem State.refuseJoin_fr {bl : Blocks} {s0 : State} {s : State} (n : NodeRec) (cell nonce : Nat) (r : Reason)
    (hm : Blocks.le { rad := true } bl = true) (hev : Keeps bl s0 s) :
    Keeps bl s0 (State.refuseJoin s n cell nonce r) := by
  unfold State.refuseJoin
  repeat' first | with_reducible assumption | with_reducible apply State.sendGrant_fr

theorem State.admitJoin_fr {bl : Blocks} {s0 : State} {s : State} (n : NodeRec) (key : Nat) (kept : Bool) (b : List Byte) (t : Nat)
    (hm : Blocks.le { rad := true, node := true, dim := true, evt := true, way := true, freeIdx := true } bl = true) (hev : Keeps bl s0 s) :
    Keeps bl s0 (State.admitJoin s n key kept b t) := by
  unfold State.admitJoin
  repeat' first
    | with_reducible assumption
    | exact Blocks.le_trans rfl hm
    | refine fun (_ : Keeps _ _ _) => ?_
    | with_reducible apply keeps_iff
    | with_reducible apply State.configureNode_fr
    | with_reducible apply State.countJoin_fr
    | with_reducible apply State.modNode_fr
    | with_reducible apply State.recordNode_fr
    | with_reducible apply State.sendGrant_fr
    | with_reducible apply State.sendItem_fr
    | with_reducible apply State.sendSchedule_fr
    | with_reducible apply State.setLink_fr
    | with_reducible apply State.takeEntry_fr
    | intro x

theorem State.joinViolation_fr {bl : Blocks} {s0 : State} {s : State} (g : Nat)
    (hm : Blocks.le { rad := true } bl = true) (hev : Keeps bl s0 s) :
    Keeps bl s0 (State.joinViolation s g) := by
  unfold State.joinViolation
  repeat' first
    | with_reducible assumption
    | exact hm
    | exact Blocks.le_trans rfl hm
    | refine fun (_ : Keeps _ _ _) => ?_
    | with_reducible apply keeps_iff
    | with_reducible apply keeps_whenLive
    | with_reducible apply keeps_forEach
    | with_reducible apply State.modTrx_fr
    | with_reducible apply keeps_ite
    | (with_reducible apply keeps_mk (a := { rad := true }) hm; dsimp only [cond_true, cond_false] <;> exact rfl; (first | with_reducible assumption | exact hm | exact Blocks.le_trans rfl hm | with_reducible apply keeps_iff | with_reducible apply keeps_whenLive | with_reducible apply keeps_forEach | with_reducible apply State.modTrx_fr | with_reducible apply keeps_ite | split))
    | (intro x; refine keeps_cut (l := bl) (s0 := s0) (x := x) ?_ ?_; rotate_left; clear_value x; intro hx; rotate_left; subst x)
    | intro x
    | split
    | lift_lets
    | dsimp only

theorem State.judgeJoin_fr {bl : Blocks} {s0 : State} {s : State} (g proxy : Nat) (b : List Byte) (mic : Bool)
    (hm : Blocks.le { rad := true, node := true, dim := true, evt := true, way := true, freeIdx := true } bl = true) (hev : Keeps bl s0 s) :
    Keeps bl s0 (State.judgeJoin s g proxy b mic) := by
  unfold State.judgeJoin
  repeat' first
    | with_reducible assumption
    | exact Blocks.le_trans rfl hm
    | with_reducible apply State.admitJoin_fr
    | with_reducible apply State.joinViolation_fr
    | with_reducible apply State.knowNode_fr
    | with_reducible apply State.modNode_fr
    | with_reducible apply State.pickOne_fr
    | with_reducible apply State.refuseJoin_fr
    | with_reducible apply keeps_ite
    | (with_reducible apply keeps_mk (a := { rad := true, node := true, dim := true, evt := true, way := true, freeIdx := true }) hm; dsimp only [cond_true, cond_false] <;> exact rfl; (first | with_reducible apply State.knowNode_fr | split))

theorem execJoinReq_fr {bl : Blocks} {s0 s1 : State} (grove : Fin 8) (proxy seq : BitVec 16) (body : List Byte) (mic : Bool) {s : State} (e : execJoinReq grove proxy seq body mic s = .next s1)
    (hm : Blocks.le { rad := true, node := true, dim := true, evt := true, way := true, freeIdx := true } bl = true) (hev : Keeps bl s0 s) : Keeps bl s0 s1 := by
  unfold execJoinReq at e
  refine keeps_next e ?_
  repeat' first
    | with_reducible assumption
    | exact Blocks.le_trans rfl hm
    | refine fun (_ : Keeps _ _ _) => ?_
    | with_reducible apply keeps_whenLive
    | with_reducible apply State.joinViolation_fr
    | with_reducible apply State.judgeJoin_fr
    | with_reducible apply State.linkMsg_fr
    | with_reducible apply keeps_ite
    | intro x

theorem State.resendItem_fr {bl : Blocks} {s0 : State} {s : State} (eui id : Nat) (content : List Byte)
    (hm : Blocks.le { rad := true, node := true, freeIdx := true } bl = true) (hev : Keeps bl s0 s) :
    Keeps bl s0 (State.resendItem s eui id content) := by
  unfold State.resendItem
  repeat' first
    | with_reducible assumption
    | exact Blocks.le_trans rfl hm
    | with_reducible apply State.modNode_fr
    | with_reducible apply State.sendItem_fr
    | with_reducible apply State.sendNode_fr
    | with_reducible apply State.sendSchedule_fr
    | with_reducible apply keeps_ite
    | (with_reducible apply keeps_mk (a := { rad := true, node := true, freeIdx := true }) hm; dsimp only [cond_true, cond_false] <;> exact rfl; split)

theorem State.queryDigest_fr {bl : Blocks} {s0 : State} {s : State} (eui first : Nat)
    (hm : Blocks.le { rad := true, node := true } bl = true) (hev : Keeps bl s0 s) :
    Keeps bl s0 (State.queryDigest s eui first) := by
  unfold State.queryDigest
  repeat' first
    | with_reducible assumption
    | exact Blocks.le_trans rfl hm
    | with_reducible apply State.modNode_fr
    | with_reducible apply State.sendNode_fr
    | (with_reducible apply keeps_mk (a := { rad := true, node := true }) hm; dsimp only [cond_true, cond_false] <;> exact rfl; split)

theorem State.compareItems_fr {bl : Blocks} {s0 : State} {s : State} (n : NodeRec) (b : List Byte)
    (hm : Blocks.le { rad := true, node := true, freeIdx := true } bl = true) (hev : Keeps bl s0 s) :
    Keeps bl s0 (State.compareItems s n b) := by
  unfold State.compareItems
  repeat' first
    | with_reducible assumption
    | exact Blocks.le_trans rfl hm
    | refine fun (_ : Keeps _ _ _) => ?_
    | with_reducible apply keeps_forEach
    | with_reducible apply State.queryDigest_fr
    | with_reducible apply State.resendItem_fr
    | with_reducible apply keeps_ite
    | (with_reducible apply keeps_mk (a := { rad := true, node := true, freeIdx := true }) hm; dsimp only [cond_true, cond_false] <;> exact rfl; split)
    | intro x

theorem execDigestQuery_fr {bl : Blocks} {s0 s1 : State} (msg : LinkMsg) {s : State} (e : execDigestQuery msg s = .next s1)
    (hm : Blocks.le { rad := true, node := true, dim := true, evt := true, way := true, freeIdx := true } bl = true) (hev : Keeps bl s0 s) : Keeps bl s0 s1 := by
  unfold execDigestQuery at e
  refine keeps_next e ?_
  repeat' first
    | with_reducible assumption
    | exact Blocks.le_trans rfl hm
    | refine fun (_ : Keeps _ _ _) => ?_
    | with_reducible apply keeps_whenLive
    | with_reducible apply State.compareItems_fr
    | with_reducible apply State.linkMsg_fr
    | intro x

theorem State.checkPhase_fr {bl : Blocks} {s0 : State} {s : State} (n : NodeRec) (x : Nat)
    (hm : Blocks.le { rad := true, node := true } bl = true) (hev : Keeps bl s0 s) :
    Keeps bl s0 (State.checkPhase s n x) := by
  unfold State.checkPhase
  repeat' first
    | with_reducible assumption
    | exact Blocks.le_trans rfl hm
    | with_reducible apply State.modNode_fr
    | with_reducible apply State.sendItem_fr
    | with_reducible apply keeps_ite

theorem State.checkDigest_fr {bl : Blocks} {s0 : State} {s : State} (n : NodeRec) (digest : Nat)
    (hm : Blocks.le { rad := true, node := true } bl = true) (hev : Keeps bl s0 s) :
    Keeps bl s0 (State.checkDigest s n digest) := by
  unfold State.checkDigest
  repeat' first
    | with_reducible assumption
    | exact Blocks.le_trans rfl hm
    | with_reducible apply State.modNode_fr
    | with_reducible apply State.queryDigest_fr
    | with_reducible apply keeps_ite

theorem State.keepalive_fr {bl : Blocks} {s0 : State} {s : State} (n : NodeRec) (b : List Byte)
    (hm : Blocks.le { rad := true, node := true, adm := true, dim := true, evt := true, way := true, freeIdx := true } bl = true) (hev : Keeps bl s0 s) :
    Keeps bl s0 (State.keepalive s n b) := by
  unfold State.keepalive
  repeat' first
    | with_reducible assumption
    | exact Blocks.le_trans rfl hm
    | with_reducible apply State.carryReleased_fr
    | with_reducible apply State.checkDigest_fr
    | with_reducible apply State.checkPhase_fr
    | with_reducible apply State.checkRejoin_fr
    | with_reducible apply State.modEntry_fr
    | with_reducible apply State.modNode_fr
    | with_reducible apply State.setLink_fr
    | with_reducible apply keeps_ite

theorem execKeepalive_fr {bl : Blocks} {s0 s1 : State} (msg : LinkMsg) {s : State} (e : execKeepalive msg s = .next s1)
    (hm : Blocks.le { rad := true, node := true, adm := true, dim := true, evt := true, way := true, freeIdx := true } bl = true) (hev : Keeps bl s0 s) : Keeps bl s0 s1 := by
  unfold execKeepalive at e
  refine keeps_next e ?_
  repeat' first
    | with_reducible assumption
    | exact Blocks.le_trans rfl hm
    | refine fun (_ : Keeps _ _ _) => ?_
    | with_reducible apply keeps_whenLive
    | with_reducible apply State.keepalive_fr
    | with_reducible apply State.linkMsg_fr
    | intro x

theorem State.energyReport_fr {bl : Blocks} {s0 : State} {s : State} (n : NodeRec) (b : List Byte)
    (hm : Blocks.le { mtr := true, evt := true, way := true } bl = true) (hev : Keeps bl s0 s) :
    Keeps bl s0 (State.energyReport s n b) := by
  unfold State.energyReport
  repeat' first
    | with_reducible assumption
    | exact Blocks.le_trans rfl hm
    | with_reducible apply State.closeWhole_fr
    | with_reducible apply State.modBal_fr
    | (with_reducible apply keeps_mk (a := { mtr := true, evt := true, way := true }) hm; dsimp only [cond_true, cond_false] <;> exact rfl; split)

theorem State.presenceReport_fr {bl : Blocks} {s0 : State} {s : State} (n : NodeRec) (b : List Byte)
    (hm : Blocks.le { dim := true } bl = true) (hev : Keeps bl s0 s) :
    Keeps bl s0 (State.presenceReport s n b) := by
  unfold State.presenceReport
  repeat' first
    | with_reducible assumption
    | refine fun (_ : Keeps _ _ _) => ?_
    | with_reducible apply keeps_forEach
    | with_reducible apply State.putRoute_fr
    | with_reducible apply keeps_ite
    | (with_reducible apply keeps_mk (a := { dim := true }) hm; dsimp only [cond_true, cond_false] <;> exact rfl; split)
    | intro x

theorem State.wavesReport_fr {bl : Blocks} {s0 : State} {s : State} (b : List Byte)
    (hm : Blocks.le { dim := true } bl = true) (hev : Keeps bl s0 s) :
    Keeps bl s0 (State.wavesReport s b) := by
  unfold State.wavesReport
  repeat' first
    | with_reducible assumption
    | with_reducible apply State.putRoute_fr
    | with_reducible apply keeps_ite
    | (with_reducible apply keeps_mk (a := { dim := true }) hm; dsimp only [cond_true, cond_false] <;> exact rfl; split)

theorem State.neighboursReport_fr {bl : Blocks} {s0 : State} {s : State} (n : NodeRec) (b : List Byte)
    (hm : Blocks.le { node := true, dim := true, evt := true, way := true } bl = true) (hev : Keeps bl s0 s) :
    Keeps bl s0 (State.neighboursReport s n b) := by
  unfold State.neighboursReport
  repeat' first
    | with_reducible assumption
    | exact Blocks.le_trans rfl hm
    | with_reducible apply State.judgeGaps_fr
    | with_reducible apply State.modNode_fr

theorem execReport_fr {bl : Blocks} {s0 s1 : State} (msg : LinkMsg) {s : State} (e : execReport msg s = .next s1)
    (hm : Blocks.le { mtr := true, rad := true, node := true, dim := true, evt := true, way := true } bl = true) (hev : Keeps bl s0 s) : Keeps bl s0 s1 := by
  unfold execReport at e
  refine keeps_next e ?_
  repeat' first
    | with_reducible assumption
    | exact Blocks.le_trans rfl hm
    | refine fun (_ : Keeps _ _ _) => ?_
    | with_reducible apply keeps_whenLive
    | with_reducible apply State.energyReport_fr
    | with_reducible apply State.linkMsg_fr
    | with_reducible apply State.neighboursReport_fr
    | with_reducible apply State.presenceReport_fr
    | with_reducible apply State.wavesReport_fr
    | (with_reducible apply keeps_mk (a := { mtr := true, rad := true, node := true, dim := true, evt := true, way := true }) hm; dsimp only [cond_true, cond_false] <;> exact rfl; split)
    | intro x

theorem State.targetResult_fr {bl : Blocks} {s0 : State} {s : State} (p : Promise) (short : Nat) (reason : Option Reason)
    (hm : Blocks.le { adm := true, evt := true, way := true } bl = true) (hev : Keeps bl s0 s) :
    Keeps bl s0 (State.targetResult s p short reason) := by
  unfold State.targetResult
  repeat' first
    | with_reducible assumption
    | exact Blocks.le_trans rfl hm
    | refine fun (_ : Keeps _ _ _) => ?_
    | with_reducible apply keeps_iff
    | with_reducible apply State.modPromise_fr
    | with_reducible apply State.preempt_fr
    | with_reducible apply State.recordNode_fr
    | (with_reducible apply keeps_mk (a := { adm := true, evt := true, way := true }) hm; dsimp only [cond_true, cond_false] <;> exact rfl; split)
    | intro x

theorem State.queryBelow_fr {bl : Blocks} {s0 : State} {s : State} (p : Promise) (top : Nat)
    (hm : Blocks.le { rad := true, adm := true } bl = true) (hev : Keeps bl s0 s) :
    Keeps bl s0 (State.queryBelow s p top) := by
  unfold State.queryBelow
  repeat' first
    | with_reducible assumption
    | exact Blocks.le_trans rfl hm
    | refine fun (_ : Keeps _ _ _) => ?_
    | with_reducible apply keeps_forEach
    | with_reducible apply State.modPromise_fr
    | with_reducible apply State.query_fr
    | with_reducible apply keeps_ite
    | intro x

theorem State.tally_fr {bl : Blocks} {s0 : State} {s : State} (n : NodeRec) (b : List Byte)
    (hm : Blocks.le { rad := true, adm := true, fsp := true, evt := true, upd := true, way := true, out := true } bl = true) (hev : Keeps bl s0 s) :
    Keeps bl s0 (State.tally s n b) := by
  unfold State.tally
  repeat' first
    | with_reducible assumption
    | exact Blocks.le_trans rfl hm
    | refine fun (_ : Keeps _ _ _) => ?_
    | with_reducible apply keeps_forEach
    | with_reducible apply State.queryBelow_fr
    | with_reducible apply State.radViolation_fr
    | with_reducible apply State.settleOutcomes_fr
    | with_reducible apply State.targetResult_fr
    | with_reducible apply keeps_ite
    | (with_reducible apply keeps_mk (a := { rad := true, adm := true, fsp := true, evt := true, upd := true, way := true, out := true }) hm; dsimp only [cond_true, cond_false] <;> exact rfl; split)
    | intro x

theorem execTally_fr {bl : Blocks} {s0 s1 : State} (msg : LinkMsg) {s : State} (e : execTally msg s = .next s1)
    (hm : Blocks.le { rad := true, node := true, adm := true, fsp := true, dim := true, evt := true, upd := true, way := true, out := true } bl = true) (hev : Keeps bl s0 s) : Keeps bl s0 s1 := by
  unfold execTally at e
  refine keeps_next e ?_
  repeat' first
    | with_reducible assumption
    | exact Blocks.le_trans rfl hm
    | refine fun (_ : Keeps _ _ _) => ?_
    | with_reducible apply keeps_whenLive
    | with_reducible apply State.linkMsg_fr
    | with_reducible apply State.tally_fr
    | intro x

theorem State.caravanNak_fr {bl : Blocks} {s0 : State} {s : State} (eui seq : Nat) (reason : Reason)
    (hm : Blocks.le { upd := true } bl = true) (hev : Keeps bl s0 s) :
    Keeps bl s0 (State.caravanNak s eui seq reason) := by
  unfold State.caravanNak
  repeat' first
    | (with_reducible apply keeps_mk (a := { upd := true }) hm; dsimp only [cond_true, cond_false] <;> exact rfl; with_reducible assumption)

theorem State.relayGone_fr {bl : Blocks} {s0 : State} {s : State} (short : Nat)
    (hm : Blocks.le { node := true, adm := true } bl = true) (hev : Keeps bl s0 s) :
    Keeps bl s0 (State.relayGone s short) := by
  unfold State.relayGone
  repeat' first
    | with_reducible assumption
    | refine fun (_ : Keeps _ _ _) => ?_
    | with_reducible apply keeps_forEach
    | with_reducible apply State.markSilent_fr
    | with_reducible apply keeps_ite
    | intro x

theorem State.takeNak_fr {bl : Blocks} {s0 : State} {s : State} (n : NodeRec) (b : List Byte)
    (hm : Blocks.le { rad := true, node := true, adm := true, upd := true, freeIdx := true } bl = true) (hev : Keeps bl s0 s) :
    Keeps bl s0 (State.takeNak s n b) := by
  unfold State.takeNak
  repeat' first
    | with_reducible assumption
    | exact Blocks.le_trans rfl hm
    | with_reducible apply State.caravanNak_fr
    | with_reducible apply State.relayGone_fr
    | with_reducible apply State.resendItem_fr
    | with_reducible apply keeps_ite
    | (with_reducible apply keeps_mk (a := { rad := true, node := true, adm := true, upd := true, freeIdx := true }) hm; dsimp only [cond_true, cond_false] <;> exact rfl; split)

theorem execNak_fr {bl : Blocks} {s0 s1 : State} (msg : LinkMsg) {s : State} (e : execNak msg s = .next s1)
    (hm : Blocks.le { rad := true, node := true, adm := true, dim := true, evt := true, upd := true, way := true, freeIdx := true } bl = true) (hev : Keeps bl s0 s) : Keeps bl s0 s1 := by
  unfold execNak at e
  refine keeps_next e ?_
  repeat' first
    | with_reducible assumption
    | exact Blocks.le_trans rfl hm
    | refine fun (_ : Keeps _ _ _) => ?_
    | with_reducible apply keeps_whenLive
    | with_reducible apply State.linkMsg_fr
    | with_reducible apply State.takeNak_fr
    | intro x

theorem execFault_fr {bl : Blocks} {s0 s1 : State} (msg : LinkMsg) {s : State} (e : execFault msg s = .next s1)
    (hm : Blocks.le { rad := true, node := true, dim := true, evt := true, way := true } bl = true) (hev : Keeps bl s0 s) : Keeps bl s0 s1 := by
  unfold execFault at e
  refine keeps_next e ?_
  repeat' first
    | with_reducible assumption
    | exact Blocks.le_trans rfl hm
    | refine fun (_ : Keeps _ _ _) => ?_
    | with_reducible apply keeps_whenLive
    | with_reducible apply State.linkMsg_fr
    | with_reducible apply State.modNode_fr
    | intro x

theorem State.chunkState_fr {bl : Blocks} {s0 : State} {s : State} (n : NodeRec) (m : LinkMsg)
    (hm : Blocks.le { rad := true, upd := true } bl = true) (hev : Keeps bl s0 s) :
    Keeps bl s0 (State.chunkState s n m) := by
  unfold State.chunkState
  repeat' first
    | with_reducible assumption
    | exact Blocks.le_trans rfl hm
    | with_reducible apply State.modCaravan_fr
    | with_reducible apply State.nak_fr
    | with_reducible apply keeps_ite
    | (with_reducible apply keeps_mk (a := { rad := true, upd := true }) hm; dsimp only [cond_true, cond_false] <;> exact rfl; split)

theorem execChunkState_fr {bl : Blocks} {s0 s1 : State} (msg : LinkMsg) {s : State} (e : execChunkState msg s = .next s1)
    (hm : Blocks.le { rad := true, node := true, dim := true, evt := true, upd := true, way := true } bl = true) (hev : Keeps bl s0 s) : Keeps bl s0 s1 := by
  unfold execChunkState at e
  refine keeps_next e ?_
  repeat' first
    | with_reducible assumption
    | exact Blocks.le_trans rfl hm
    | refine fun (_ : Keeps _ _ _) => ?_
    | with_reducible apply keeps_whenLive
    | with_reducible apply State.chunkState_fr
    | with_reducible apply State.linkMsg_fr
    | intro x

theorem State.reserveEntry_fr {bl : Blocks} {s0 : State} {s : State} (short : Nat)
    (hm : Blocks.le { rad := true } bl = true) (hev : Keeps bl s0 s) :
    Keeps bl s0 (State.reserveEntry s short) := by
  unfold State.reserveEntry
  repeat' first | with_reducible assumption | with_reducible apply State.modEntry_fr

theorem execGrantKeepaliveTimeout_fr {bl : Blocks} {s0 s1 : State} (short : BitVec 16) {s : State} (e : execGrantKeepaliveTimeout short s = .next s1)
    (hm : Blocks.le { rad := true, node := true, dim := true, evt := true, way := true } bl = true) (hev : Keeps bl s0 s) : Keeps bl s0 s1 := by
  unfold execGrantKeepaliveTimeout at e
  refine keeps_next e ?_
  repeat' first
    | with_reducible assumption
    | exact Blocks.le_trans rfl hm
    | refine fun (_ : Keeps _ _ _) => ?_
    | with_reducible apply keeps_iff
    | with_reducible apply keeps_whenLive
    | with_reducible apply State.reserveEntry_fr
    | with_reducible apply State.setLink_fr
    | (with_reducible apply keeps_mk (a := { rad := true, node := true, dim := true, evt := true, way := true }) hm; dsimp only [cond_true, cond_false] <;> exact rfl; split)
    | intro x

theorem State.missedPeriod_fr {bl : Blocks} {s0 : State} {s : State} (n : NodeRec)
    (hm : Blocks.le { rad := true, node := true, adm := true, dim := true, evt := true, way := true, freeIdx := true } bl = true) (hev : Keeps bl s0 s) :
    Keeps bl s0 (State.missedPeriod s n) := by
  unfold State.missedPeriod
  repeat' first
    | with_reducible assumption
    | exact Blocks.le_trans rfl hm
    | with_reducible apply State.checkRejoin_fr
    | with_reducible apply State.modNode_fr
    | with_reducible apply State.reserveEntry_fr
    | with_reducible apply State.setLink_fr
    | with_reducible apply keeps_ite

theorem execKeepalivePeriodEnd_fr {bl : Blocks} {s0 s1 : State} (short : BitVec 16) {s : State} (e : execKeepalivePeriodEnd short s = .next s1)
    (hm : Blocks.le { rad := true, node := true, adm := true, dim := true, evt := true, way := true, freeIdx := true } bl = true) (hev : Keeps bl s0 s) : Keeps bl s0 s1 := by
  unfold execKeepalivePeriodEnd at e
  refine keeps_next e ?_
  repeat' first
    | with_reducible assumption
    | exact Blocks.le_trans rfl hm
    | refine fun (_ : Keeps _ _ _) => ?_
    | with_reducible apply keeps_iff
    | with_reducible apply keeps_whenLive
    | with_reducible apply State.missedPeriod_fr
    | with_reducible apply State.modNode_fr
    | with_reducible apply keeps_ite
    | (with_reducible apply keeps_mk (a := { rad := true, node := true, adm := true, dim := true, evt := true, way := true, freeIdx := true }) hm; dsimp only [cond_true, cond_false] <;> exact rfl; split)
    | intro x

theorem execReservationEnd_fr {bl : Blocks} {s0 s1 : State} (place : Fin 4096) {s : State} (e : execReservationEnd place s = .next s1)
    (hm : Blocks.le { rad := true } bl = true) (hev : Keeps bl s0 s) : Keeps bl s0 s1 := by
  unfold execReservationEnd at e
  refine keeps_next e ?_
  repeat' first
    | with_reducible assumption
    | refine fun (_ : Keeps _ _ _) => ?_
    | with_reducible apply keeps_iff
    | with_reducible apply keeps_whenLive
    | (with_reducible apply keeps_mk (a := { rad := true }) hm; dsimp only [cond_true, cond_false] <;> exact rfl; (first | with_reducible assumption | split))
    | intro x

theorem State.reroute_fr {bl : Blocks} {s0 : State} {s : State} (n : NodeRec)
    (hm : Blocks.le { rad := true, node := true, freeIdx := true } bl = true) (hev : Keeps bl s0 s) :
    Keeps bl s0 (State.reroute s n) := by
  unfold State.reroute
  repeat' first
    | with_reducible assumption
    | exact Blocks.le_trans rfl hm
    | refine fun (_ : Keeps _ _ _) => ?_
    | with_reducible apply keeps_forEach
    | with_reducible apply State.modNode_fr
    | with_reducible apply State.pickOne_fr
    | with_reducible apply State.sendSchedule_fr
    | with_reducible apply keeps_ite
    | intro x

theorem State.rerouteAll_fr {bl : Blocks} {s0 : State} {s : State}
    (hm : Blocks.le { rad := true, node := true, freeIdx := true } bl = true) (hev : Keeps bl s0 s) :
    Keeps bl s0 (State.rerouteAll s) := by
  unfold State.rerouteAll
  repeat' first
    | with_reducible assumption
    | refine fun (_ : Keeps _ _ _) => ?_
    | with_reducible apply keeps_forEach
    | with_reducible apply State.reroute_fr
    | with_reducible apply keeps_ite
    | intro x

end Sys2Proof.Machine
end

