-- ==== Sys2Proof/Laws/FrRegWrite.lean ====
section
/-! SUPPORT. Every operation of Machine/RegWrite.lean keeps what it does not name (Safety.lean). -/

set_option Elab.async false

namespace Sys2Proof.Machine

theorem State.writePlain_fr {bl : Blocks} {s0 : State} {s : State} (a v : Nat) (w : Writer)
    (hm : Blocks.le { evt := true, way := true, regs := true } bl = true) (hev : Keeps bl s0 s) :
    Keeps bl s0 (State.writePlain s a v w).1 := by
  unfold State.writePlain
  repeat' first | with_reducible assumption | with_reducible apply State.writeReg_fr

theorem State.writePlain_keq {bl : Blocks} {s0 sx : State} {s : State} {a v : Nat} {w : Writer} {qx : Reason} (e : (State.writePlain s a v w) = (sx, qx))
    (hm : Blocks.le { evt := true, way := true, regs := true } bl = true) (hev : Keeps bl s0 s) : Keeps bl s0 sx := by
  have g := State.writePlain_fr a v w hm hev
  rw [e] at g
  exact g

theorem accepted_fr {bl : Blocks} {s0 : State} {s : State}
    (hm : Blocks.le {} bl = true) (hev : Keeps bl s0 s) :
    Keeps bl s0 (accepted s).1 := by
  unfold accepted
  repeat' first | with_reducible assumption

theorem accepted_keq {bl : Blocks} {s0 sx : State} {s : State} {qx : Reason} (e : (accepted s) = (sx, qx))
    (hm : Blocks.le {} bl = true) (hev : Keeps bl s0 s) : Keeps bl s0 sx := by
  have g := accepted_fr  hm hev
  rw [e] at g
  exact g

theorem State.snap_fr {bl : Blocks} {s0 : State} {s : State}
    (hm : Blocks.le { time := true } bl = true) (hev : Keeps bl s0 s) :
    Keeps bl s0 (State.snap s) := by
  unfold State.snap
  repeat' first
    | (with_reducible apply keeps_mk (a := { time := true }) hm; dsimp only [cond_true, cond_false] <;> exact rfl; with_reducible assumption)

theorem State.writeTime_fr {bl : Blocks} {s0 : State} {s : State} (o v : Nat) (w : Writer)
    (hm : Blocks.le { time := true, evt := true, way := true, regs := true, freeIdx := true } bl = true) (hev : Keeps bl s0 s) :
    Keeps bl s0 (State.writeTime s o v w).1 := by
  unfold State.writeTime
  repeat' first
    | with_reducible assumption
    | exact Blocks.le_trans rfl hm
    | refine fun (_ : Keeps _ _ _) => ?_
    | with_reducible apply keeps_iff
    | with_reducible apply accepted_fr
    | with_reducible apply State.clearOvr_fr
    | with_reducible apply State.modTrigger_fr
    | with_reducible apply State.popCapture_fr
    | with_reducible apply State.snap_fr
    | with_reducible apply State.writeMainsCfg_fr
    | with_reducible apply State.writePlain_fr
    | with_reducible apply State.writeSyncCtrl_fr
    | with_reducible apply State.writeTimeCtrl_fr
    | with_reducible apply State.writeTrigger_fr
    | with_reducible apply keeps_ite_fst
    | (with_reducible apply keeps_mk (a := { time := true, evt := true, way := true, regs := true, freeIdx := true }) hm; dsimp only [cond_true, cond_false] <;> exact rfl; with_reducible assumption)
    | intro x

theorem State.writeTime_keq {bl : Blocks} {s0 sx : State} {s : State} {o v : Nat} {w : Writer} {qx : Reason} (e : (State.writeTime s o v w) = (sx, qx))
    (hm : Blocks.le { time := true, evt := true, way := true, regs := true, freeIdx := true } bl = true) (hev : Keeps bl s0 s) : Keeps bl s0 sx := by
  have g := State.writeTime_fr o v w hm hev
  rw [e] at g
  exact g

theorem State.writeMtr_fr {bl : Blocks} {s0 : State} {s : State} (o v : Nat) (w : Writer)
    (hm : Blocks.le { mtr := true, evt := true, way := true, regs := true } bl = true) (hev : Keeps bl s0 s) :
    Keeps bl s0 (State.writeMtr s o v w).1 := by
  unfold State.writeMtr
  repeat' first
    | with_reducible assumption
    | exact Blocks.le_trans rfl hm
    | with_reducible apply accepted_fr
    | with_reducible apply State.writeMetrology_fr
    | with_reducible apply State.writeMtrStatus_fr
    | with_reducible apply State.writePlain_fr
    | with_reducible apply State.writeRegSel_fr
    | with_reducible apply keeps_ite_fst

theorem State.writeMtr_keq {bl : Blocks} {s0 sx : State} {s : State} {o v : Nat} {w : Writer} {qx : Reason} (e : (State.writeMtr s o v w) = (sx, qx))
    (hm : Blocks.le { mtr := true, evt := true, way := true, regs := true } bl = true) (hev : Keeps bl s0 s) : Keeps bl s0 sx := by
  have g := State.writeMtr_fr o v w hm hev
  rw [e] at g
  exact g

theorem State.writeDrv_fr {bl : Blocks} {s0 : State} {s : State} (o v : Nat) (w : Writer)
    (hm : Blocks.le { drv := true, evt := true, way := true, regs := true } bl = true) (hev : Keeps bl s0 s) :
    Keeps bl s0 (State.writeDrv s o v w).1 := by
  unfold State.writeDrv
  repeat' first
    | with_reducible assumption
    | exact Blocks.le_trans rfl hm
    | with_reducible apply accepted_fr
    | with_reducible apply State.writeChCmd_fr
    | with_reducible apply State.writeChStatus_fr
    | with_reducible apply State.writeDrvCtrl_fr
    | with_reducible apply State.writeIncCtrl_fr
    | with_reducible apply State.writeIncStatus_fr
    | with_reducible apply State.writePeCtrl_fr
    | with_reducible apply State.writePeStart_fr
    | with_reducible apply State.writePlain_fr
    | with_reducible apply State.writeTwCfg_fr
    | with_reducible apply keeps_ite_fst

theorem State.writeDrv_keq {bl : Blocks} {s0 sx : State} {s : State} {o v : Nat} {w : Writer} {qx : Reason} (e : (State.writeDrv s o v w) = (sx, qx))
    (hm : Blocks.le { drv := true, evt := true, way := true, regs := true } bl = true) (hev : Keeps bl s0 s) : Keeps bl s0 sx := by
  have g := State.writeDrv_fr o v w hm hev
  rw [e] at g
  exact g

theorem State.writeLedgerCmd_fr {bl : Blocks} {s0 : State} {s : State} (v : Nat)
    (hm : Blocks.le { rad := true, regs := true } bl = true) (hev : Keeps bl s0 s) :
    Keeps bl s0 (State.writeLedgerCmd s v) := by
  unfold State.writeLedgerCmd
  repeat' first
    | with_reducible assumption
    | exact Blocks.le_trans rfl hm
    | refine fun (_ : Keeps _ _ _) => ?_
    | with_reducible apply keeps_iff
    | with_reducible apply State.ledgerClear_fr
    | with_reducible apply State.ledgerRead_fr
    | with_reducible apply State.ledgerWrite_fr
    | intro x

theorem State.writeRad_fr {bl : Blocks} {s0 : State} {s : State} (o v : Nat) (w : Writer)
    (hm : Blocks.le { rad := true, evt := true, way := true, mon := true, regs := true } bl = true) (hev : Keeps bl s0 s) :
    Keeps bl s0 (State.writeRad s o v w).1 := by
  unfold State.writeRad
  repeat' first
    | with_reducible assumption
    | exact Blocks.le_trans rfl hm
    | with_reducible apply accepted_fr
    | with_reducible apply State.writeLedgerCmd_fr
    | with_reducible apply State.writePlain_fr
    | with_reducible apply State.writeRadCtrl_fr
    | with_reducible apply State.writeSafeIe_fr
    | with_reducible apply State.writeTrx_fr
    | with_reducible apply State.writeTrx8_fr
    | with_reducible apply keeps_ite_fst

theorem State.writeRad_keq {bl : Blocks} {s0 sx : State} {s : State} {o v : Nat} {w : Writer} {qx : Reason} (e : (State.writeRad s o v w) = (sx, qx))
    (hm : Blocks.le { rad := true, evt := true, way := true, mon := true, regs := true } bl = true) (hev : Keeps bl s0 s) : Keeps bl s0 sx := by
  have g := State.writeRad_fr o v w hm hev
  rw [e] at g
  exact g

theorem State.writeFld_fr {bl : Blocks} {s0 : State} {s : State} (o v : Nat) (w : Writer)
    (hm : Blocks.le { evt := true, way := true, fld := true, regs := true } bl = true) (hev : Keeps bl s0 s) :
    Keeps bl s0 (State.writeFld s o v w).1 := by
  unfold State.writeFld
  repeat' first
    | with_reducible assumption
    | exact Blocks.le_trans rfl hm
    | with_reducible apply accepted_fr
    | with_reducible apply State.writePlain_fr
    | with_reducible apply keeps_ite_fst
    | (with_reducible apply keeps_mk (a := { evt := true, way := true, fld := true, regs := true }) hm; dsimp only [cond_true, cond_false] <;> exact rfl; with_reducible assumption)

theorem State.writeFld_keq {bl : Blocks} {s0 sx : State} {s : State} {o v : Nat} {w : Writer} {qx : Reason} (e : (State.writeFld s o v w) = (sx, qx))
    (hm : Blocks.le { evt := true, way := true, fld := true, regs := true } bl = true) (hev : Keeps bl s0 s) : Keeps bl s0 sx := by
  have g := State.writeFld_fr o v w hm hev
  rw [e] at g
  exact g

theorem State.writeBlock_fr {bl : Blocks} {s0 : State} {s : State} (a v : Nat) (w : Writer)
    (hm : Blocks.le { time := true, mtr := true, rad := true, drv := true, evt := true, way := true, mon := true, fld := true, regs := true, freeIdx := true } bl = true) (hev : Keeps bl s0 s) :
    Keeps bl s0 (State.writeBlock s a v w).1 := by
  unfold State.writeBlock
  repeat' first
    | with_reducible assumption
    | exact Blocks.le_trans rfl hm
    | with_reducible apply accepted_fr
    | with_reducible apply State.writeDrv_fr
    | with_reducible apply State.writeFld_fr
    | with_reducible apply State.writeMtr_fr
    | with_reducible apply State.writeRad_fr
    | with_reducible apply State.writeTime_fr
    | (with_reducible apply keeps_mk (a := { time := true, mtr := true, rad := true, drv := true, evt := true, way := true, mon := true, fld := true, regs := true, freeIdx := true }) hm; dsimp only [cond_true, cond_false] <;> exact rfl; split)

theorem State.writeBlock_keq {bl : Blocks} {s0 sx : State} {s : State} {a v : Nat} {w : Writer} {qx : Reason} (e : (State.writeBlock s a v w) = (sx, qx))
    (hm : Blocks.le { time := true, mtr := true, rad := true, drv := true, evt := true, way := true, mon := true, fld := true, regs := true, freeIdx := true } bl = true) (hev : Keeps bl s0 s) : Keeps bl s0 sx := by
  have g := State.writeBlock_fr a v w hm hev
  rw [e] at g
  exact g

end Sys2Proof.Machine
end

