-- ==== Sys2Proof/Laws/FrTables6.lean ====
section
/-! SUPPORT. Every operation of Machine/Tables6.lean keeps what it does not name (Safety.lean). -/

set_option Elab.async false

namespace Sys2Proof.Machine

theorem State.growEpoch_fr {bl : Blocks} {s0 : State} {s : State}
    (hm : Blocks.le { fsp := true } bl = true) (hev : Keeps bl s0 s) :
    Keeps bl s0 (State.growEpoch s) := by
  unfold State.growEpoch
  repeat' first
    | (with_reducible apply keeps_mk (a := { fsp := true }) hm; dsimp only [cond_true, cond_false] <;> exact rfl; with_reducible assumption)

theorem State.removeNode_fr {bl : Blocks} {s0 : State} {s : State} (eui : Nat)
    (hm : Blocks.le { rad := true, node := true, dim := true, evt := true, way := true } bl = true) (hev : Keeps bl s0 s) :
    Keeps bl s0 (State.removeNode s eui) := by
  unfold State.removeNode
  repeat' first
    | with_reducible assumption
    | exact Blocks.le_trans rfl hm
    | with_reducible apply State.modEntry_fr
    | with_reducible apply State.setLink_fr
    | (with_reducible apply keeps_mk (a := { rad := true, node := true, dim := true, evt := true, way := true }) hm; dsimp only [cond_true, cond_false] <;> exact rfl; split)

theorem State.excludeNode_fr {bl : Blocks} {s0 : State} {s : State} (eui : Nat)
    (hm : Blocks.le { rad := true, node := true, dim := true, evt := true, way := true } bl = true) (hev : Keeps bl s0 s) :
    Keeps bl s0 (State.excludeNode s eui) := by
  unfold State.excludeNode
  repeat' first
    | with_reducible assumption
    | exact Blocks.le_trans rfl hm
    | with_reducible apply State.knowNode_fr
    | with_reducible apply State.modEntry_fr
    | with_reducible apply State.setLink_fr
    | (with_reducible apply keeps_mk (a := { rad := true, node := true, dim := true, evt := true, way := true }) hm; dsimp only [cond_true, cond_false] <;> exact rfl; split)

theorem State.readmitNode_fr {bl : Blocks} {s0 : State} {s : State} (eui : Nat)
    (hm : Blocks.le { rad := true, node := true, dim := true, evt := true, way := true } bl = true) (hev : Keeps bl s0 s) :
    Keeps bl s0 (State.readmitNode s eui) := by
  unfold State.readmitNode
  repeat' first
    | with_reducible assumption
    | with_reducible apply State.removeNode_fr
    | with_reducible apply keeps_ite
    | (with_reducible apply keeps_mk (a := { rad := true, node := true, dim := true, evt := true, way := true }) hm; dsimp only [cond_true, cond_false] <;> exact rfl; split)

theorem State.admissionChanged_fr {bl : Blocks} {s0 : State} {s : State} (old new : List (List Byte))
    (hm : Blocks.le { rad := true, node := true, adm := true, dim := true, evt := true, way := true, freeIdx := true } bl = true) (hev : Keeps bl s0 s) :
    Keeps bl s0 (State.admissionChanged s old new) := by
  unfold State.admissionChanged
  repeat' first
    | with_reducible assumption
    | exact Blocks.le_trans rfl hm
    | refine fun (_ : Keeps _ _ _) => ?_
    | with_reducible apply keeps_forEach
    | with_reducible apply State.checkRejoin_fr
    | with_reducible apply State.excludeNode_fr
    | with_reducible apply State.readmitNode_fr
    | with_reducible apply State.removeNode_fr
    | with_reducible apply keeps_ite
    | intro x

theorem State.configureAll_fr {bl : Blocks} {s0 : State} {s : State} (effective : Cn)
    (hm : Blocks.le { rad := true, node := true } bl = true) (hev : Keeps bl s0 s) :
    Keeps bl s0 (State.configureAll s effective) := by
  unfold State.configureAll
  repeat' first
    | with_reducible assumption
    | refine fun (_ : Keeps _ _ _) => ?_
    | with_reducible apply keeps_forEach
    | with_reducible apply State.configureNode_fr
    | with_reducible apply keeps_ite
    | intro x

theorem State.setInForce_fr {bl : Blocks} {s0 : State} {s : State} (id : Nat) (l : List (List Byte))
    (hm : Blocks.le { fsp := true } bl = true) (hev : Keeps bl s0 s) :
    Keeps bl s0 (State.setInForce s id l) := by
  unfold State.setInForce
  repeat' first
    | (with_reducible apply keeps_mk (a := { fsp := true }) hm; dsimp only [cond_true, cond_false] <;> exact rfl; with_reducible assumption)

theorem State.clearContactors_fr {bl : Blocks} {s0 : State} {s : State}
    (hm : Blocks.le { dim := true, evt := true, way := true } bl = true) (hev : Keeps bl s0 s) :
    Keeps bl s0 (State.clearContactors s) := by
  unfold State.clearContactors
  repeat' first
    | with_reducible assumption
    | exact Blocks.le_trans rfl hm
    | refine fun (_ : Keeps _ _ _) => ?_
    | with_reducible apply keeps_forEach
    | with_reducible apply State.modKc_fr
    | with_reducible apply State.recordKc_fr
    | with_reducible apply keeps_ite
    | intro x

theorem State.staticPlans_fr {bl : Blocks} {s0 : State} {s : State}
    (hm : Blocks.le { dim := true } bl = true) (hev : Keeps bl s0 s) :
    Keeps bl s0 (State.staticPlans s) := by
  unfold State.staticPlans
  repeat' first
    | with_reducible assumption
    | refine fun (_ : Keeps _ _ _) => ?_
    | with_reducible apply keeps_forEach
    | with_reducible apply State.fixChange_fr
    | with_reducible apply keeps_ite
    | intro x

theorem State.dropLists_fr {bl : Blocks} {s0 : State} {s : State} (eui : Nat)
    (hm : Blocks.le { rad := true, node := true, freeIdx := true } bl = true) (hev : Keeps bl s0 s) :
    Keeps bl s0 (State.dropLists s eui) := by
  unfold State.dropLists
  repeat' first
    | with_reducible assumption
    | refine fun (_ : Keeps _ _ _) => ?_
    | with_reducible apply keeps_forEach
    | with_reducible apply State.resendItem_fr
    | with_reducible apply keeps_ite
    | (with_reducible apply keeps_mk (a := { rad := true, node := true, freeIdx := true }) hm; dsimp only [cond_true, cond_false] <;> exact rfl; split)
    | intro x

theorem State.routesChanged_fr {bl : Blocks} {s0 : State} {s : State} (old new : List (List Byte)) (replaced : Bool)
    (hm : Blocks.le { rad := true, node := true, dim := true, freeIdx := true } bl = true) (hev : Keeps bl s0 s) :
    Keeps bl s0 (State.routesChanged s old new replaced) := by
  unfold State.routesChanged
  repeat' first
    | with_reducible assumption
    | exact Blocks.le_trans rfl hm
    | refine fun (_ : Keeps _ _ _) => ?_
    | with_reducible apply keeps_forEach
    | with_reducible apply State.dropLists_fr
    | with_reducible apply keeps_ite
    | (with_reducible apply keeps_mk (a := { rad := true, node := true, dim := true, freeIdx := true }) hm; dsimp only [cond_true, cond_false] <;> exact rfl; with_reducible assumption)
    | intro x

theorem State.enforceTable_fr {bl : Blocks} {s0 : State} {s : State} (id : Nat)
    (hm : Blocks.le { rad := true, node := true, adm := true, fsp := true, dim := true, evt := true, way := true, freeIdx := true } bl = true) (hev : Keeps bl s0 s) :
    Keeps bl s0 (State.enforceTable s id) := by
  unfold State.enforceTable
  repeat' first
    | exact Blocks.le_trans rfl hm
    | with_reducible apply State.admissionChanged_fr
    | with_reducible apply State.configureAll_fr
    | with_reducible apply State.routesChanged_fr
    | with_reducible apply State.staticPlans_fr
    | with_reducible apply keeps_ite
    | (with_reducible apply keeps_mk (a := { rad := true, node := true, adm := true, fsp := true, dim := true, evt := true, way := true, freeIdx := true }) hm; dsimp only [cond_true, cond_false] <;> exact rfl; with_reducible assumption)

theorem State.announceTable_fr {bl : Blocks} {s0 : State} {s : State} (id : Nat)
    (hm : Blocks.le { rad := true, node := true, fsp := true } bl = true) (hev : Keeps bl s0 s) :
    Keeps bl s0 (State.announceTable s id) := by
  unfold State.announceTable
  repeat' first
    | with_reducible assumption
    | exact Blocks.le_trans rfl hm
    | with_reducible apply State.configureAll_fr
    | with_reducible apply State.setInForce_fr
    | with_reducible apply keeps_ite
    | (with_reducible apply keeps_mk (a := { rad := true, node := true, fsp := true }) hm; dsimp only [cond_true, cond_false] <;> exact rfl; split)

theorem State.configTick_fr {bl : Blocks} {s0 : State} {s : State}
    (hm : Blocks.le { rad := true, node := true, adm := true, fsp := true, dim := true, evt := true, way := true, freeIdx := true } bl = true) (hev : Keeps bl s0 s) :
    Keeps bl s0 (State.configTick s) := by
  unfold State.configTick
  repeat' first
    | with_reducible assumption
    | refine fun (_ : Keeps _ _ _) => ?_
    | with_reducible apply keeps_forEach
    | with_reducible apply State.enforceTable_fr
    | with_reducible apply keeps_ite
    | (with_reducible apply keeps_mk (a := { rad := true, node := true, adm := true, fsp := true, dim := true, evt := true, way := true, freeIdx := true }) hm; dsimp only [cond_true, cond_false] <;> exact rfl; split)
    | intro x

end Sys2Proof.Machine
end

