-- ==== Sys2Proof/Laws/FrCanopy.lean ====
section
/-! SUPPORT. Every operation of Machine/Canopy.lean keeps what it does not name (Safety.lean). -/

set_option Elab.async false

namespace Sys2Proof.Machine

theorem State.placeSlot_fr {bl : Blocks} {s0 : State} {s : State} (x : TileRec)
    (hm : Blocks.le { can := true, freeIdx := true } bl = true) (hev : Keeps bl s0 s) :
    Keeps bl s0 (State.placeSlot s x) := by
  unfold State.placeSlot
  repeat' first
    | with_reducible assumption
    | exact Blocks.le_trans rfl hm
    | with_reducible apply State.pickOne_fr
    | (with_reducible apply keeps_mk (a := { can := true, freeIdx := true }) hm; dsimp only [cond_true, cond_false] <;> exact rfl; (first | with_reducible apply State.pickOne_fr | split))

theorem State.placeEngines_fr {bl : Blocks} {s0 s : State} (stand : Stand) (hm : Blocks.le { freeIdx := true } bl = true)
    (hev : Keeps bl s0 s) : Keeps bl s0 (s.placeEngines stand).2 := by
  unfold State.placeEngines
  dsimp only
  refine keeps_forEach_snd _ _ (fun _ a h => ?_) hev
  dsimp only
  exact State.pickOne_fr _ (Blocks.le_trans rfl hm) h

theorem State.placeEngines_keq {bl : Blocks} {s0 s sx : State} {stand : Stand} {qx : List Nat}
    (e : s.placeEngines stand = (qx, sx)) (hm : Blocks.le { freeIdx := true } bl = true) (hev : Keeps bl s0 s) :
    Keeps bl s0 sx := by
  have g := State.placeEngines_fr stand hm hev
  rw [e] at g
  exact g

theorem State.placeAll_fr {bl : Blocks} {s0 : State} {s : State} (im : Image)
    (hm : Blocks.le { can := true, freeIdx := true } bl = true) (hev : Keeps bl s0 s) :
    Keeps bl s0 (State.placeAll s im) := by
  unfold State.placeAll
  repeat' first
    | with_reducible assumption
    | exact Blocks.le_trans rfl hm
    | refine fun (_ : Keeps _ _ _) => ?_
    | with_reducible apply keeps_forEach
    | with_reducible apply State.placeEngines_fr
    | with_reducible apply State.placeSlot_fr
    | (with_reducible apply keeps_mk (a := { can := true, freeIdx := true }) hm; dsimp only [cond_true, cond_false] <;> exact rfl; (first | with_reducible assumption | with_reducible apply State.placeEngines_fr))
    | intro x

theorem State.addRoutes_fr {bl : Blocks} {s0 : State} {s : State} (l : List ImgRec)
    (hm : Blocks.le { evt := true } bl = true) (hev : Keeps bl s0 s) :
    Keeps bl s0 (State.addRoutes s l) := by
  unfold State.addRoutes
  repeat' first
    | (with_reducible apply keeps_mk (a := { evt := true }) hm; dsimp only [cond_true, cond_false] <;> exact rfl; with_reducible assumption)

theorem State.dropRoutes_fr {bl : Blocks} {s0 : State} {s : State} (mine : Nat → Bool)
    (hm : Blocks.le { evt := true } bl = true) (hev : Keeps bl s0 s) :
    Keeps bl s0 (State.dropRoutes s mine) := by
  unfold State.dropRoutes
  repeat' first
    | (with_reducible apply keeps_mk (a := { evt := true }) hm; dsimp only [cond_true, cond_false] <;> exact rfl; with_reducible assumption)

theorem State.writeField_fr {bl : Blocks} {s0 : State} {s : State} (a mask v : Nat)
    (hm : Blocks.le { time := true, mtr := true, rad := true, drv := true, evt := true, way := true, mon := true, fld := true, regs := true, freeIdx := true } bl = true) (hev : Keeps bl s0 s) :
    Keeps bl s0 (State.writeField s a mask v) := by
  unfold State.writeField
  repeat' first | with_reducible assumption | with_reducible apply State.writeBlock_fr

theorem State.writeMac_fr {bl : Blocks} {s0 : State} {s : State} (x : TileRec)
    (hm : Blocks.le { time := true, mtr := true, rad := true, drv := true, evt := true, way := true, mon := true, fld := true, regs := true, freeIdx := true } bl = true) (hev : Keeps bl s0 s) :
    Keeps bl s0 (State.writeMac s x) := by
  unfold State.writeMac
  repeat' first
    | with_reducible assumption
    | with_reducible apply State.writeBlock_fr
    | with_reducible apply State.writeField_fr

theorem State.writePtp_fr {bl : Blocks} {s0 : State} {s : State} (x : TileRec)
    (hm : Blocks.le { time := true, mtr := true, rad := true, drv := true, evt := true, way := true, mon := true, fld := true, regs := true, freeIdx := true } bl = true) (hev : Keeps bl s0 s) :
    Keeps bl s0 (State.writePtp s x) := by
  unfold State.writePtp
  repeat' first | with_reducible assumption | with_reducible apply State.writeField_fr

theorem State.writeMetering_fr {bl : Blocks} {s0 : State} {s : State} (im : Image)
    (hm : Blocks.le { time := true, mtr := true, rad := true, drv := true, evt := true, way := true, mon := true, fld := true, regs := true, freeIdx := true } bl = true) (hev : Keeps bl s0 s) :
    Keeps bl s0 (State.writeMetering s im) := by
  unfold State.writeMetering
  repeat' first
    | with_reducible assumption
    | refine fun (_ : Keeps _ _ _) => ?_
    | with_reducible apply keeps_forEach
    | with_reducible apply State.writeBlock_fr
    | with_reducible apply keeps_ite
    | intro x

theorem State.writeBlocks_fr {bl : Blocks} {s0 : State} {s : State} (im : Image) (l : List TileRec)
    (hm : Blocks.le { time := true, mtr := true, rad := true, drv := true, evt := true, way := true, mon := true, fld := true, regs := true, freeIdx := true } bl = true) (hev : Keeps bl s0 s) :
    Keeps bl s0 (State.writeBlocks s im l) := by
  unfold State.writeBlocks
  repeat' first
    | with_reducible assumption
    | refine fun (_ : Keeps _ _ _) => ?_
    | with_reducible apply keeps_forEach
    | with_reducible apply State.writeMac_fr
    | with_reducible apply State.writeMetering_fr
    | with_reducible apply State.writePtp_fr
    | (with_reducible apply keeps_mk (a := { time := true, mtr := true, rad := true, drv := true, evt := true, way := true, mon := true, fld := true, regs := true, freeIdx := true }) hm; dsimp only [cond_true, cond_false] <;> exact rfl; split)
    | intro x

theorem State.writePresets_fr {bl : Blocks} {s0 : State} {s : State} (l : List ImgRec)
    (hm : Blocks.le { time := true, mtr := true, rad := true, drv := true, evt := true, way := true, mon := true, fld := true, regs := true, freeIdx := true } bl = true) (hev : Keeps bl s0 s) :
    Keeps bl s0 (State.writePresets s l) := by
  unfold State.writePresets
  repeat' first
    | with_reducible assumption
    | refine fun (_ : Keeps _ _ _) => ?_
    | with_reducible apply keeps_forEach
    | with_reducible apply State.writeBlock_fr
    | intro x

theorem State.measureCanopy_fr {bl : Blocks} {s0 : State} {s : State}
    (hm : Blocks.le { key := true } bl = true) (hev : Keeps bl s0 s) :
    Keeps bl s0 (State.measureCanopy s) := by
  unfold State.measureCanopy
  repeat' first
    | (with_reducible apply keeps_mk (a := { key := true }) hm; dsimp only [cond_true, cond_false] <;> exact rfl; with_reducible assumption)

theorem State.rederiveMb_fr {bl : Blocks} {s0 : State} {s : State}
    (hm : Blocks.le { key := true } bl = true) (hev : Keeps bl s0 s) :
    Keeps bl s0 (State.rederiveMb s) := by
  unfold State.rederiveMb
  repeat' first
    | with_reducible assumption
    | refine fun (_ : Keeps _ _ _) => ?_
    | with_reducible apply keeps_forEach
    | with_reducible apply State.setSlot_fr
    | with_reducible apply keeps_ite
    | (with_reducible apply keeps_mk (a := { key := true }) hm; dsimp only [cond_true, cond_false] <;> exact rfl; split)
    | intro x

theorem State.setRegulatory_fr {bl : Blocks} {s0 : State} {s : State} (p : Regulatory)
    (hm : Blocks.le { rad := true, can := true } bl = true) (hev : Keeps bl s0 s) :
    Keeps bl s0 (State.setRegulatory s p) := by
  unfold State.setRegulatory
  repeat' first
    | (with_reducible apply keeps_mk (a := { rad := true, can := true }) hm; dsimp only [cond_true, cond_false] <;> exact rfl; with_reducible assumption)

theorem State.awaitRegulatory_fr {bl : Blocks} {s0 : State} {s : State} (p : Regulatory)
    (hm : Blocks.le { rad := true, node := true, can := true } bl = true) (hev : Keeps bl s0 s) :
    Keeps bl s0 (State.awaitRegulatory s p) := by
  unfold State.awaitRegulatory
  repeat' first
    | with_reducible assumption
    | exact Blocks.le_trans rfl hm
    | refine fun (_ : Keeps _ _ _) => ?_
    | with_reducible apply keeps_forEach
    | with_reducible apply State.bringItem_fr
    | with_reducible apply keeps_ite
    | (with_reducible apply keeps_mk (a := { rad := true, node := true, can := true }) hm; dsimp only [cond_true, cond_false] <;> exact rfl; with_reducible assumption)
    | intro x

theorem State.setImage_fr {bl : Blocks} {s0 : State} {s : State} (im : Image)
    (hm : Blocks.le { can := true } bl = true) (hev : Keeps bl s0 s) :
    Keeps bl s0 (State.setImage s im) := by
  unfold State.setImage
  repeat' first
    | (with_reducible apply keeps_mk (a := { can := true }) hm; dsimp only [cond_true, cond_false] <;> exact rfl; with_reducible assumption)

theorem State.fullLoad_fr {bl : Blocks} {s0 : State} {s : State} (im : Image)
    (hm : Blocks.le { time := true, mtr := true, rad := true, drv := true, can := true, que := true, evt := true, way := true, mon := true, fld := true, regs := true, freeIdx := true } bl = true) (hev : Keeps bl s0 s) :
    Keeps bl s0 (State.fullLoad s im) := by
  unfold State.fullLoad
  repeat' first
    | with_reducible assumption
    | exact hm
    | exact Blocks.le_trans rfl hm
    | refine fun (_ : Keeps _ _ _) => ?_
    | with_reducible apply keeps_iff
    | with_reducible apply keeps_whenLive
    | with_reducible apply keeps_forEach
    | with_reducible apply State.addRoutes_fr
    | with_reducible apply State.dropRoutes_fr
    | with_reducible apply State.placeAll_fr
    | with_reducible apply State.setImage_fr
    | with_reducible apply State.setRegulatory_fr
    | with_reducible apply State.writeBlock_fr
    | with_reducible apply State.writeBlocks_fr
    | with_reducible apply State.writePresets_fr
    | with_reducible apply keeps_ite
    | refine State.writeBlock_keq (by assumption) ?_ ?_
    | (with_reducible apply keeps_mk (a := { time := true, mtr := true, rad := true, drv := true, can := true, que := true, evt := true, way := true, mon := true, fld := true, regs := true, freeIdx := true }) hm; dsimp only [cond_true, cond_false] <;> exact rfl; (first | with_reducible assumption | exact hm | exact Blocks.le_trans rfl hm | with_reducible apply keeps_iff | with_reducible apply keeps_whenLive | with_reducible apply keeps_forEach | with_reducible apply State.addRoutes_fr | with_reducible apply State.dropRoutes_fr | with_reducible apply State.placeAll_fr | with_reducible apply State.setImage_fr | with_reducible apply State.setRegulatory_fr | with_reducible apply State.writeBlock_fr | with_reducible apply State.writeBlocks_fr | with_reducible apply State.writePresets_fr | with_reducible apply keeps_ite | refine State.writeBlock_keq (by assumption) ?_ ?_ | split))
    | (intro x; refine keeps_cut (l := bl) (s0 := s0) (x := x) ?_ ?_; rotate_left; clear_value x; intro hx; rotate_left; subst x)
    | (intro x; refine keeps_cut_snd (l := bl) (s0 := s0) (x := x) ?_ ?_; rotate_left; clear_value x; intro hx; rotate_left; subst x)
    | (intro x; refine keeps_cut_fst (l := bl) (s0 := s0) (x := x) ?_ ?_; rotate_left; clear_value x; intro hx; rotate_left; subst x)
    | (refine Prod.forall.2 ?_; dsimp only)
    | intro x
    | split
    | lift_lets
    | dsimp only

theorem State.refuseImage_fr {bl : Blocks} {s0 : State} {s : State} (r : Reason) (index : Nat)
    (hm : Blocks.le { can := true, evt := true, way := true } bl = true) (hev : Keeps bl s0 s) :
    Keeps bl s0 (State.refuseImage s r index) := by
  unfold State.refuseImage
  repeat' first
    | exact Blocks.le_trans rfl hm
    | with_reducible apply State.post_fr
    | with_reducible apply State.record_fr
    | (with_reducible apply keeps_mk (a := { can := true, evt := true, way := true }) hm; dsimp only [cond_true, cond_false] <;> exact rfl; with_reducible assumption)

theorem State.fixClearing_fr {bl : Blocks} {s0 : State} {s : State}
    (hm : Blocks.le { can := true, evt := true, upd := true, way := true } bl = true) (hev : Keeps bl s0 s) :
    Keeps bl s0 (State.fixClearing s) := by
  unfold State.fixClearing
  repeat' first
    | with_reducible assumption
    | exact Blocks.le_trans rfl hm
    | with_reducible apply State.journalEntry_fr
    | (with_reducible apply keeps_mk (a := { can := true, evt := true, upd := true, way := true }) hm; dsimp only [cond_true, cond_false] <;> exact rfl; (first | with_reducible assumption | split))

theorem execClearingFix_fr {bl : Blocks} {s0 s1 : State} {s : State} (e : execClearingFix s = .next s1)
    (hm : Blocks.le { can := true, evt := true, upd := true, way := true } bl = true) (hev : Keeps bl s0 s) : Keeps bl s0 s1 := by
  unfold execClearingFix at e
  refine keeps_next e ?_
  repeat' first
    | with_reducible assumption
    | refine fun (_ : Keeps _ _ _) => ?_
    | with_reducible apply keeps_whenLive
    | with_reducible apply State.fixClearing_fr
    | intro x

theorem State.carrySlot_fr {bl : Blocks} {s0 : State} {s : State} (slot : Nat)
    (hm : Blocks.le { can := true, freeIdx := true } bl = true) (hev : Keeps bl s0 s) :
    Keeps bl s0 (State.carrySlot s slot) := by
  unfold State.carrySlot
  repeat' first
    | with_reducible assumption
    | exact Blocks.le_trans rfl hm
    | with_reducible apply State.pickOne_fr
    | (with_reducible apply keeps_mk (a := { can := true, freeIdx := true }) hm; dsimp only [cond_true, cond_false] <;> exact rfl; with_reducible apply State.pickOne_fr)

theorem State.stopMeter_fr {bl : Blocks} {s0 : State} {s : State}
    (hm : Blocks.le { mtr := true, evt := true, way := true } bl = true) (hev : Keeps bl s0 s) :
    Keeps bl s0 (State.stopMeter s) := by
  unfold State.stopMeter
  repeat' first
    | with_reducible assumption
    | refine fun (_ : Keeps _ _ _) => ?_
    | with_reducible apply keeps_forEach
    | with_reducible apply State.openGap_fr
    | (with_reducible apply keeps_mk (a := { mtr := true, evt := true, way := true }) hm; dsimp only [cond_true, cond_false] <;> exact rfl; with_reducible apply keeps_forEach)
    | intro x

theorem State.restartMeter_fr {bl : Blocks} {s0 : State} {s : State}
    (hm : Blocks.le { mtr := true, evt := true, way := true } bl = true) (hev : Keeps bl s0 s) :
    Keeps bl s0 (State.restartMeter s) := by
  unfold State.restartMeter
  repeat' first
    | with_reducible assumption
    | exact Blocks.le_trans rfl hm
    | refine fun (_ : Keeps _ _ _) => ?_
    | with_reducible apply keeps_forEach
    | with_reducible apply State.closeGaps_fr
    | with_reducible apply State.modInt_fr
    | (with_reducible apply keeps_mk (a := { mtr := true, evt := true, way := true }) hm; dsimp only [cond_true, cond_false] <;> exact rfl; with_reducible assumption)
    | intro x

theorem State.emptyQueues_fr {bl : Blocks} {s0 : State} {s : State} (region : Nat)
    (hm : Blocks.le { que := true } bl = true) (hev : Keeps bl s0 s) :
    Keeps bl s0 (State.emptyQueues s region) := by
  unfold State.emptyQueues
  repeat' first
    | (with_reducible apply keeps_mk (a := { que := true }) hm; dsimp only [cond_true, cond_false] <;> exact rfl; with_reducible assumption)

theorem State.commitClearings_fr {bl : Blocks} {s0 : State} {s : State}
    (hm : Blocks.le { evt := true, upd := true, way := true } bl = true) (hev : Keeps bl s0 s) :
    Keeps bl s0 (State.commitClearings s) := by
  unfold State.commitClearings
  repeat' first
    | with_reducible assumption
    | exact Blocks.le_trans rfl hm
    | with_reducible apply State.modActivation_fr
    | with_reducible apply State.stepPhase_fr
    | with_reducible apply keeps_ite
    | (with_reducible apply keeps_mk (a := { evt := true, upd := true, way := true }) hm; dsimp only [cond_true, cond_false] <;> exact rfl; (first | with_reducible assumption | split))

theorem State.startClearing_fr {bl : Blocks} {s0 : State} {s : State} (k : Clearing)
    (hm : Blocks.le { mtr := true, can := true, que := true, evt := true, upd := true, way := true, freeIdx := true } bl = true) (hev : Keeps bl s0 s) :
    Keeps bl s0 (State.startClearing s k) := by
  unfold State.startClearing
  repeat' first
    | with_reducible assumption
    | exact Blocks.le_trans rfl hm
    | refine fun (_ : Keeps _ _ _) => ?_
    | with_reducible apply keeps_iff
    | with_reducible apply State.carrySlot_fr
    | with_reducible apply State.commitClearings_fr
    | with_reducible apply State.emptyQueues_fr
    | with_reducible apply State.post_fr
    | with_reducible apply State.stopMeter_fr
    | with_reducible apply keeps_ite
    | (with_reducible apply keeps_mk (a := { mtr := true, can := true, que := true, evt := true, upd := true, way := true, freeIdx := true }) hm; dsimp only [cond_true, cond_false] <;> exact rfl; (first | with_reducible assumption | with_reducible apply keeps_forEach))
    | (refine Prod.forall.2 ?_; dsimp only)
    | intro x

theorem State.clearingTick_fr {bl : Blocks} {s0 : State} {s : State}
    (hm : Blocks.le { mtr := true, drv := true, can := true, que := true, evt := true, upd := true, way := true, freeIdx := true } bl = true) (hev : Keeps bl s0 s) :
    Keeps bl s0 (State.clearingTick s) := by
  unfold State.clearingTick
  repeat' first
    | with_reducible assumption
    | exact Blocks.le_trans rfl hm
    | refine fun (_ : Keeps _ _ _) => ?_
    | with_reducible apply keeps_iff
    | with_reducible apply keeps_forEach
    | with_reducible apply State.modTw_fr
    | with_reducible apply State.startClearing_fr
    | with_reducible apply keeps_ite
    | (with_reducible apply keeps_mk (a := { mtr := true, drv := true, can := true, que := true, evt := true, upd := true, way := true, freeIdx := true }) hm; dsimp only [cond_true, cond_false] <;> exact rfl; (first | with_reducible assumption | split))
    | intro x

theorem State.reloadSlot_fr {bl : Blocks} {s0 : State} {s : State} (x : TileRec)
    (hm : Blocks.le { can := true } bl = true) (hev : Keeps bl s0 s) :
    Keeps bl s0 (State.reloadSlot s x) := by
  unfold State.reloadSlot
  repeat' first
    | with_reducible assumption
    | (with_reducible apply keeps_mk (a := { can := true }) hm; dsimp only [cond_true, cond_false] <;> exact rfl; (first | with_reducible assumption | split))

theorem State.activateImage_fr {bl : Blocks} {s0 : State} {s : State} (im : Image) (back : Bool)
    (hm : Blocks.le { rad := true, node := true, fsp := true, can := true, evt := true, key := true, upd := true, way := true } bl = true) (hev : Keeps bl s0 s) :
    Keeps bl s0 (State.activateImage s im back) := by
  unfold State.activateImage
  repeat' first
    | with_reducible assumption
    | exact Blocks.le_trans rfl hm
    | refine fun (_ : Keeps _ _ _) => ?_
    | with_reducible apply keeps_iff
    | with_reducible apply State.growEpoch_fr
    | with_reducible apply State.measureCanopy_fr
    | with_reducible apply State.rederiveMb_fr
    | with_reducible apply State.setImage_fr
    | with_reducible apply State.stepPhase_fr
    | with_reducible apply keeps_ite
    | (with_reducible apply keeps_mk (a := { rad := true, node := true, fsp := true, can := true, evt := true, key := true, upd := true, way := true }) hm; dsimp only [cond_true, cond_false] <;> exact rfl; (first | with_reducible apply State.awaitRegulatory_fr | split))
    | intro x

theorem State.recordCleared_fr {bl : Blocks} {s0 : State} {s : State} (k : Clearing)
    (hm : Blocks.le { evt := true, way := true } bl = true) (hev : Keeps bl s0 s) :
    Keeps bl s0 (State.recordCleared s k) := by
  unfold State.recordCleared
  repeat' first
    | with_reducible assumption
    | exact Blocks.le_trans rfl hm
    | with_reducible apply State.post_fr
    | with_reducible apply State.record_fr

theorem State.endClearing_fr {bl : Blocks} {s0 : State} {s : State}
    (hm : Blocks.le { time := true, mtr := true, rad := true, node := true, fsp := true, drv := true, can := true, evt := true, key := true, upd := true, way := true, mon := true, fld := true, regs := true, freeIdx := true } bl = true) (hev : Keeps bl s0 s) :
    Keeps bl s0 (State.endClearing s) := by
  unfold State.endClearing
  repeat' first
    | with_reducible assumption
    | exact Blocks.le_trans rfl hm
    | refine fun (_ : Keeps _ _ _) => ?_
    | with_reducible apply keeps_iff
    | with_reducible apply keeps_forEach
    | with_reducible apply State.activateImage_fr
    | with_reducible apply State.addRoutes_fr
    | with_reducible apply State.dropRoutes_fr
    | with_reducible apply State.recordCleared_fr
    | with_reducible apply State.reloadSlot_fr
    | with_reducible apply State.restartMeter_fr
    | with_reducible apply State.writeBlocks_fr
    | with_reducible apply State.writePresets_fr
    | with_reducible apply keeps_ite
    | (with_reducible apply keeps_mk (a := { time := true, mtr := true, rad := true, node := true, fsp := true, drv := true, can := true, evt := true, key := true, upd := true, way := true, mon := true, fld := true, regs := true, freeIdx := true }) hm; dsimp only [cond_true, cond_false] <;> exact rfl; (first | with_reducible assumption | with_reducible apply State.recordCleared_fr | split))
    | intro x

theorem execClearingEnd_fr {bl : Blocks} {s0 s1 : State} {s : State} (e : execClearingEnd s = .next s1)
    (hm : Blocks.le { time := true, mtr := true, rad := true, node := true, fsp := true, drv := true, can := true, evt := true, key := true, upd := true, way := true, mon := true, fld := true, regs := true, freeIdx := true } bl = true) (hev : Keeps bl s0 s) : Keeps bl s0 s1 := by
  unfold execClearingEnd at e
  refine keeps_next e ?_
  repeat' first
    | with_reducible assumption
    | refine fun (_ : Keeps _ _ _) => ?_
    | with_reducible apply keeps_whenLive
    | with_reducible apply State.endClearing_fr
    | intro x

theorem State.plainActivation_fr {bl : Blocks} {s0 : State} {s : State}
    (hm : Blocks.le { rad := true, node := true, fsp := true, can := true, evt := true, key := true, upd := true, way := true } bl = true) (hev : Keeps bl s0 s) :
    Keeps bl s0 (State.plainActivation s) := by
  unfold State.plainActivation
  repeat' first
    | with_reducible assumption
    | exact Blocks.le_trans rfl hm
    | refine fun (_ : Keeps _ _ _) => ?_
    | with_reducible apply keeps_iff
    | with_reducible apply State.activateImage_fr
    | with_reducible apply State.commitClearings_fr
    | with_reducible apply keeps_ite
    | (with_reducible apply keeps_mk (a := { rad := true, node := true, fsp := true, can := true, evt := true, key := true, upd := true, way := true }) hm; dsimp only [cond_true, cond_false] <;> exact rfl; split)
    | intro x

theorem State.regulatoryTick_fr {bl : Blocks} {s0 : State} {s : State}
    (hm : Blocks.le { rad := true, can := true } bl = true) (hev : Keeps bl s0 s) :
    Keeps bl s0 (State.regulatoryTick s) := by
  unfold State.regulatoryTick
  repeat' first
    | with_reducible assumption
    | with_reducible apply State.setRegulatory_fr
    | with_reducible apply keeps_ite
    | (with_reducible apply keeps_mk (a := { rad := true, can := true }) hm; dsimp only [cond_true, cond_false] <;> exact rfl; split)

theorem execSegmentDigestRefresh_fr {bl : Blocks} {s0 s1 : State} {s : State} (e : execSegmentDigestRefresh s = .next s1)
    (hm : Blocks.le { can := true } bl = true) (hev : Keeps bl s0 s) : Keeps bl s0 s1 := by
  unfold execSegmentDigestRefresh at e
  refine keeps_next e ?_
  repeat' first
    | with_reducible assumption
    | refine fun (_ : Keeps _ _ _) => ?_
    | with_reducible apply keeps_whenLive
    | (with_reducible apply keeps_mk (a := { can := true }) hm; dsimp only [cond_true, cond_false] <;> exact rfl; with_reducible assumption)
    | intro x

end Sys2Proof.Machine
end

