-- ==== Sys2Proof/Laws/FrFordOps.lean ====
section
/-! SUPPORT. Every operation of Machine/FordOps.lean keeps what it does not name (Safety.lean). -/

set_option Elab.async false

namespace Sys2Proof.Machine

theorem State.modStand_fr {bl : Blocks} {s0 : State} {s : State} (x : Stand) (g : StandSt → StandSt)
    (hm : Blocks.le { ford := true } bl = true) (hev : Keeps bl s0 s) :
    Keeps bl s0 (State.modStand s x g) := by
  unfold State.modStand
  repeat' first
    | (with_reducible apply keeps_mk (a := { ford := true }) hm; dsimp only [cond_true, cond_false] <;> exact rfl; (first | with_reducible assumption | split))

theorem State.fordEventAs_fr {bl : Blocks} {s0 : State} {s : State} (role : Role) (source kind payload : Nat)
    (hm : Blocks.le { evt := true, way := true } bl = true) (hev : Keeps bl s0 s) :
    Keeps bl s0 (State.fordEventAs s role source kind payload) := by
  unfold State.fordEventAs
  repeat' first
    | with_reducible assumption
    | exact Blocks.le_trans rfl hm
    | with_reducible apply State.post_fr
    | with_reducible apply State.recordAs_fr

theorem State.fordEvent_fr {bl : Blocks} {s0 : State} {s : State} (source kind payload : Nat)
    (hm : Blocks.le { evt := true, way := true } bl = true) (hev : Keeps bl s0 s) :
    Keeps bl s0 (State.fordEvent s source kind payload) := by
  unfold State.fordEvent
  repeat' first | with_reducible assumption | with_reducible apply State.fordEventAs_fr

theorem State.setStand_fr {bl : Blocks} {s0 : State} {s : State} (x : Stand) (st : StandState)
    (hm : Blocks.le { evt := true, ford := true, way := true } bl = true) (hev : Keeps bl s0 s) :
    Keeps bl s0 (State.setStand s x st) := by
  unfold State.setStand
  repeat' first
    | with_reducible assumption
    | exact Blocks.le_trans rfl hm
    | with_reducible apply State.fordEvent_fr
    | with_reducible apply State.modStand_fr
    | with_reducible apply keeps_ite

theorem State.cutStand_fr {bl : Blocks} {s0 : State} {s : State} (x : Stand) (icause : Nat)
    (hm : Blocks.le { rad := true, evt := true, cop := true } bl = true) (hev : Keeps bl s0 s) :
    Keeps bl s0 (State.cutStand s x icause) := by
  unfold State.cutStand
  repeat' first | with_reducible assumption | with_reducible apply State.cutSlices_fr

theorem State.withdrawStand_fr {bl : Blocks} {s0 : State} {s : State} (x : Stand) (icause : Nat)
    (hm : Blocks.le { rad := true, evt := true, ford := true, cop := true, way := true } bl = true) (hev : Keeps bl s0 s) :
    Keeps bl s0 (State.withdrawStand s x icause) := by
  unfold State.withdrawStand
  repeat' first
    | with_reducible assumption
    | exact Blocks.le_trans rfl hm
    | with_reducible apply State.cutStand_fr
    | with_reducible apply State.setStand_fr
    | (with_reducible apply keeps_mk (a := { rad := true, evt := true, ford := true, cop := true, way := true }) hm; dsimp only [cond_true, cond_false] <;> exact rfl; with_reducible apply State.modStand_fr)

theorem State.holdFor_fr {bl : Blocks} {s0 : State} {s : State} (cause : Nat)
    (hm : Blocks.le { ford := true } bl = true) (hev : Keeps bl s0 s) :
    Keeps bl s0 (State.holdFor s cause) := by
  unfold State.holdFor
  repeat' first
    | (with_reducible apply keeps_mk (a := { ford := true }) hm; dsimp only [cond_true, cond_false] <;> exact rfl; with_reducible assumption)

theorem State.release_fr {bl : Blocks} {s0 : State} {s : State} (decision hold : Nat)
    (hm : Blocks.le { ford := true } bl = true) (hev : Keeps bl s0 s) :
    Keeps bl s0 (State.release s decision hold) := by
  unfold State.release
  repeat' first
    | (with_reducible apply keeps_mk (a := { ford := true }) hm; dsimp only [cond_true, cond_false] <;> exact rfl; with_reducible assumption)

theorem State.driveFrom_fr {bl : Blocks} {s0 : State} {s : State} (x : Stand)
    (hm : Blocks.le { evt := true, ford := true, way := true } bl = true) (hev : Keeps bl s0 s) :
    Keeps bl s0 (State.driveFrom s x) := by
  unfold State.driveFrom
  repeat' first
    | with_reducible assumption
    | (with_reducible apply keeps_mk (a := { evt := true, ford := true, way := true }) hm; dsimp only [cond_true, cond_false] <;> exact rfl; with_reducible apply State.setStand_fr)

theorem State.switchOver_fr {bl : Blocks} {s0 : State} {s : State} (hold : Nat)
    (hm : Blocks.le { rad := true, evt := true, ford := true, cop := true, way := true } bl = true) (hev : Keeps bl s0 s) :
    Keeps bl s0 (State.switchOver s hold) := by
  unfold State.switchOver
  repeat' first
    | with_reducible assumption
    | exact Blocks.le_trans rfl hm
    | with_reducible apply State.driveFrom_fr
    | with_reducible apply State.fordEvent_fr
    | with_reducible apply State.release_fr
    | with_reducible apply State.withdrawStand_fr

theorem State.takeShadow_fr {bl : Blocks} {s0 : State} {s : State}
    (hm : Blocks.le { ford := true } bl = true) (hev : Keeps bl s0 s) :
    Keeps bl s0 (State.takeShadow s) := by
  unfold State.takeShadow
  repeat' first
    | (with_reducible apply keeps_mk (a := { ford := true }) hm; dsimp only [cond_true, cond_false] <;> exact rfl; with_reducible assumption)

theorem State.enterSafeHold_fr {bl : Blocks} {s0 : State} {s : State} (vote : Bool) (hold : Nat)
    (hm : Blocks.le { rad := true, evt := true, ford := true, cop := true, way := true } bl = true) (hev : Keeps bl s0 s) :
    Keeps bl s0 (State.enterSafeHold s vote hold) := by
  unfold State.enterSafeHold
  repeat' first
    | with_reducible assumption
    | exact Blocks.le_trans rfl hm
    | with_reducible apply State.fordEvent_fr
    | with_reducible apply State.release_fr
    | with_reducible apply State.withdrawStand_fr
    | with_reducible apply keeps_ite
    | (with_reducible apply keeps_mk (a := { rad := true, evt := true, ford := true, cop := true, way := true }) hm; dsimp only [cond_true, cond_false] <;> exact rfl; with_reducible apply State.takeShadow_fr)

theorem State.countRestart_fr {bl : Blocks} {s0 : State} {s : State} (x : Stand)
    (hm : Blocks.le { fsp := true, evt := true, way := true, sys := true, out := true } bl = true) (hev : Keeps bl s0 s) :
    Keeps bl s0 (State.countRestart s x) := by
  unfold State.countRestart
  repeat' first
    | with_reducible assumption
    | exact Blocks.le_trans rfl hm
    | (with_reducible apply keeps_mk (a := { fsp := true, evt := true, way := true, sys := true, out := true }) hm; dsimp only [cond_true, cond_false] <;> exact rfl; (first | with_reducible apply State.drainStaging_fr | split))

theorem State.beginLearning_fr {bl : Blocks} {s0 : State} {s : State} (x : Stand)
    (hm : Blocks.le { fsp := true, evt := true, ford := true, way := true, sys := true, out := true } bl = true) (hev : Keeps bl s0 s) :
    Keeps bl s0 (State.beginLearning s x) := by
  unfold State.beginLearning
  repeat' first
    | with_reducible assumption
    | exact Blocks.le_trans rfl hm
    | with_reducible apply State.countRestart_fr
    | with_reducible apply State.modStand_fr
    | with_reducible apply State.setStand_fr
    | with_reducible apply keeps_ite
    | (with_reducible apply keeps_mk (a := { fsp := true, evt := true, ford := true, way := true, sys := true, out := true }) hm; dsimp only [cond_true, cond_false] <;> exact rfl; with_reducible apply State.modStand_fr)

theorem State.requestSwitch_fr {bl : Blocks} {s0 : State} {s : State} (x : Stand) (at_ : Cn) (drover : Bool) (role : Role)
    (hm : Blocks.le { ford := true } bl = true) (hev : Keeps bl s0 s) :
    Keeps bl s0 (State.requestSwitch s x at_ drover role) := by
  unfold State.requestSwitch
  repeat' first
    | (with_reducible apply keeps_mk (a := { ford := true }) hm; dsimp only [cond_true, cond_false] <;> exact rfl; with_reducible assumption)

theorem State.plannedSwitch_fr {bl : Blocks} {s0 : State} {s : State} (p : PlannedSwitch)
    (hm : Blocks.le { rad := true, evt := true, ford := true, cop := true, way := true } bl = true) (hev : Keeps bl s0 s) :
    Keeps bl s0 (State.plannedSwitch s p) := by
  unfold State.plannedSwitch
  repeat' first
    | exact Blocks.le_trans rfl hm
    | with_reducible apply State.cutStand_fr
    | with_reducible apply State.driveFrom_fr
    | with_reducible apply State.fordEventAs_fr
    | with_reducible apply State.setStand_fr
    | (with_reducible apply keeps_mk (a := { rad := true, evt := true, ford := true, cop := true, way := true }) hm; dsimp only [cond_true, cond_false] <;> exact rfl; with_reducible assumption)

end Sys2Proof.Machine
end

