-- ==== Sys2Proof/Laws/FrDroverOps.lean ====
section
/-! SUPPORT. Every operation of Machine/DroverOps.lean keeps what it does not name (Safety.lean). -/

set_option Elab.async false

namespace Sys2Proof.Machine

theorem State.sessionChanged_fr {bl : Blocks} {s0 : State} {s : State} (old : Nat)
    (hm : Blocks.le { evt := true } bl = true) (hev : Keeps bl s0 s) :
    Keeps bl s0 (State.sessionChanged s old) := by
  unfold State.sessionChanged
  repeat' first | with_reducible assumption | with_reducible apply State.post_fr | with_reducible apply keeps_ite

theorem State.endUpdate_fr {bl : Blocks} {s0 : State} {s : State}
    (hm : Blocks.le { evt := true, upd := true } bl = true) (hev : Keeps bl s0 s) :
    Keeps bl s0 (State.endUpdate s) := by
  unfold State.endUpdate
  repeat' first
    | exact Blocks.le_trans rfl hm
    | with_reducible apply State.sessionChanged_fr
    | (with_reducible apply keeps_mk (a := { evt := true, upd := true }) hm; dsimp only [cond_true, cond_false] <;> exact rfl; with_reducible assumption)

theorem State.dropActivation_fr {bl : Blocks} {s0 : State} {s : State}
    (hm : Blocks.le { evt := true, upd := true } bl = true) (hev : Keeps bl s0 s) :
    Keeps bl s0 (State.dropActivation s) := by
  unfold State.dropActivation
  repeat' first
    | exact Blocks.le_trans rfl hm
    | with_reducible apply State.sessionChanged_fr
    | (with_reducible apply keeps_mk (a := { evt := true, upd := true }) hm; dsimp only [cond_true, cond_false] <;> exact rfl; with_reducible assumption)

theorem State.startCaravan_fr {bl : Blocks} {s0 : State} {s : State} (c : Caravan)
    (hm : Blocks.le { rad := true, evt := true, upd := true, way := true } bl = true) (hev : Keeps bl s0 s) :
    Keeps bl s0 (State.startCaravan s c) := by
  unfold State.startCaravan
  repeat' first
    | with_reducible assumption
    | with_reducible apply State.endCaravan_fr
    | with_reducible apply keeps_ite
    | (with_reducible apply keeps_mk (a := { rad := true, evt := true, upd := true, way := true }) hm; dsimp only [cond_true, cond_false] <;> exact rfl; split)

theorem State.rewrite_fr {bl : Blocks} {s0 : State} {s : State} (x : Stand)
    (hm : Blocks.le { ford := true } bl = true) (hev : Keeps bl s0 s) :
    Keeps bl s0 (State.rewrite s x) := by
  unfold State.rewrite
  repeat' first | with_reducible assumption | with_reducible apply State.modStand_fr

theorem State.rollBack_fr {bl : Blocks} {s0 : State} {s : State} (reason : Reason) (check : Nat)
    (hm : Blocks.le { can := true, evt := true, ford := true, upd := true, way := true } bl = true) (hev : Keeps bl s0 s) :
    Keeps bl s0 (State.rollBack s reason check) := by
  unfold State.rollBack
  repeat' first
    | with_reducible assumption
    | exact Blocks.le_trans rfl hm
    | refine fun (_ : Keeps _ _ _) => ?_
    | with_reducible apply State.dropActivation_fr
    | with_reducible apply State.rewrite_fr
    | with_reducible apply State.setStand_fr
    | with_reducible apply State.stepPhase_fr
    | (with_reducible apply keeps_mk (a := { can := true, evt := true, ford := true, upd := true, way := true }) hm; dsimp only [cond_true, cond_false] <;> exact rfl; (first | with_reducible assumption | with_reducible apply keeps_iff | split))
    | intro x

theorem State.reportFallback_fr {bl : Blocks} {s0 : State} {s : State} (reason : Reason) (check : Nat)
    (hm : Blocks.le { evt := true, upd := true, way := true } bl = true) (hev : Keeps bl s0 s) :
    Keeps bl s0 (State.reportFallback s reason check) := by
  unfold State.reportFallback
  repeat' first
    | exact Blocks.le_trans rfl hm
    | with_reducible apply State.postRecord_fr
    | (with_reducible apply keeps_mk (a := { evt := true, upd := true, way := true }) hm; dsimp only [cond_true, cond_false] <;> exact rfl; with_reducible assumption)

theorem State.restoreBackup_fr {bl : Blocks} {s0 : State} {s : State}
    (hm : Blocks.le { can := true, key := true, upd := true } bl = true) (hev : Keeps bl s0 s) :
    Keeps bl s0 (State.restoreBackup s) := by
  unfold State.restoreBackup
  repeat' first
    | with_reducible assumption
    | exact Blocks.le_trans rfl hm
    | with_reducible apply State.setImage_fr
    | (with_reducible apply keeps_mk (a := { can := true, key := true, upd := true }) hm; dsimp only [cond_true, cond_false] <;> exact rfl; (first | with_reducible assumption | split))

theorem State.endFallback_fr {bl : Blocks} {s0 : State} {s : State}
    (hm : Blocks.le { evt := true, upd := true, way := true } bl = true) (hev : Keeps bl s0 s) :
    Keeps bl s0 (State.endFallback s) := by
  unfold State.endFallback
  repeat' first
    | with_reducible assumption
    | exact Blocks.le_trans rfl hm
    | with_reducible apply State.endUpdate_fr
    | with_reducible apply State.stepPhase_fr

theorem State.fallBack_fr {bl : Blocks} {s0 : State} {s : State} (reason : Reason) (check : Nat)
    (hm : Blocks.le { fsp := true, can := true, evt := true, ford := true, key := true, upd := true, way := true } bl = true) (hev : Keeps bl s0 s) :
    Keeps bl s0 (State.fallBack s reason check) := by
  unfold State.fallBack
  repeat' first
    | with_reducible assumption
    | exact Blocks.le_trans rfl hm
    | with_reducible apply State.endFallback_fr
    | with_reducible apply State.growEpoch_fr
    | with_reducible apply State.modActivation_fr
    | with_reducible apply State.requestSwitch_fr
    | with_reducible apply State.restoreBackup_fr
    | with_reducible apply State.rewrite_fr
    | with_reducible apply State.stepPhase_fr
    | with_reducible apply keeps_ite
    | (with_reducible apply keeps_mk (a := { fsp := true, can := true, evt := true, ford := true, key := true, upd := true, way := true }) hm; dsimp only [cond_true, cond_false] <;> exact rfl; (first | with_reducible apply State.modActivation_fr | with_reducible apply State.reportFallback_fr | split))

theorem State.fallbackSwitched_fr {bl : Blocks} {s0 : State} {s : State}
    (hm : Blocks.le { time := true, mtr := true, rad := true, drv := true, can := true, que := true, evt := true, ford := true, key := true, upd := true, way := true, mon := true, fld := true, regs := true, freeIdx := true } bl = true) (hev : Keeps bl s0 s) :
    Keeps bl s0 (State.fallbackSwitched s) := by
  unfold State.fallbackSwitched
  repeat' first
    | with_reducible assumption
    | exact Blocks.le_trans rfl hm
    | with_reducible apply State.endFallback_fr
    | with_reducible apply State.fullLoad_fr
    | with_reducible apply State.measureCanopy_fr
    | with_reducible apply State.rederiveMb_fr
    | with_reducible apply State.restoreBackup_fr
    | with_reducible apply State.rewrite_fr
    | (with_reducible apply keeps_mk (a := { time := true, mtr := true, rad := true, drv := true, can := true, que := true, evt := true, ford := true, key := true, upd := true, way := true, mon := true, fld := true, regs := true, freeIdx := true }) hm; dsimp only [cond_true, cond_false] <;> exact rfl; split)

theorem State.leaveBehind_fr {bl : Blocks} {s0 : State} {s : State}
    (hm : Blocks.le { ford := true } bl = true) (hev : Keeps bl s0 s) :
    Keeps bl s0 (State.leaveBehind s) := by
  unfold State.leaveBehind
  repeat' first
    | with_reducible assumption
    | exact hm
    | exact Blocks.le_trans rfl hm
    | refine fun (_ : Keeps _ _ _) => ?_
    | with_reducible apply keeps_iff
    | with_reducible apply keeps_whenLive
    | with_reducible apply keeps_forEach
    | with_reducible apply State.modStand_fr
    | with_reducible apply keeps_ite
    | (with_reducible apply keeps_mk (a := { ford := true }) hm; dsimp only [cond_true, cond_false] <;> exact rfl; (first | with_reducible assumption | exact hm | exact Blocks.le_trans rfl hm | with_reducible apply keeps_iff | with_reducible apply keeps_whenLive | with_reducible apply keeps_forEach | with_reducible apply State.modStand_fr | with_reducible apply keeps_ite | split))
    | (intro x; refine keeps_cut (l := bl) (s0 := s0) (x := x) ?_ ?_; rotate_left; clear_value x; intro hx; rotate_left; subst x)
    | intro x
    | split
    | lift_lets
    | dsimp only

theorem State.clearingsLeave_fr {bl : Blocks} {s0 : State} {s : State}
    (hm : Blocks.le { ford := true } bl = true) (hev : Keeps bl s0 s) :
    Keeps bl s0 (State.clearingsLeave s) := by
  unfold State.clearingsLeave
  repeat' first
    | with_reducible assumption
    | exact hm
    | exact Blocks.le_trans rfl hm
    | refine fun (_ : Keeps _ _ _) => ?_
    | with_reducible apply keeps_iff
    | with_reducible apply keeps_whenLive
    | with_reducible apply keeps_forEach
    | with_reducible apply State.leaveBehind_fr
    | with_reducible apply keeps_ite
    | (with_reducible apply keeps_mk (a := { ford := true }) hm; dsimp only [cond_true, cond_false] <;> exact rfl; (first | with_reducible assumption | exact hm | exact Blocks.le_trans rfl hm | with_reducible apply keeps_iff | with_reducible apply keeps_whenLive | with_reducible apply keeps_forEach | with_reducible apply State.leaveBehind_fr | with_reducible apply keeps_ite | split))
    | (intro x; refine keeps_cut (l := bl) (s0 := s0) (x := x) ?_ ?_; rotate_left; clear_value x; intro hx; rotate_left; subst x)
    | intro x
    | split
    | lift_lets
    | dsimp only

theorem State.adoptStores_fr {bl : Blocks} {s0 : State} {s : State} (a : Activation)
    (hm : Blocks.le { fsp := true, can := true, ford := true, key := true, upd := true } bl = true) (hev : Keeps bl s0 s) :
    Keeps bl s0 (State.adoptStores s a) := by
  unfold State.adoptStores
  repeat' first
    | with_reducible assumption
    | exact hm
    | exact Blocks.le_trans rfl hm
    | refine fun (_ : Keeps _ _ _) => ?_
    | with_reducible apply keeps_iff
    | with_reducible apply keeps_whenLive
    | with_reducible apply keeps_forEach
    | with_reducible apply State.growEpoch_fr
    | with_reducible apply State.leaveBehind_fr
    | with_reducible apply State.setImage_fr
    | with_reducible apply keeps_ite
    | (with_reducible apply keeps_mk (a := { fsp := true, can := true, ford := true, key := true, upd := true }) hm; dsimp only [cond_true, cond_false] <;> exact rfl; (first | with_reducible assumption | exact hm | exact Blocks.le_trans rfl hm | with_reducible apply keeps_iff | with_reducible apply keeps_whenLive | with_reducible apply keeps_forEach | with_reducible apply State.growEpoch_fr | with_reducible apply State.leaveBehind_fr | with_reducible apply State.setImage_fr | with_reducible apply keeps_ite | split))
    | (intro x; refine keeps_cut (l := bl) (s0 := s0) (x := x) ?_ ?_; rotate_left; clear_value x; intro hx; rotate_left; subst x)
    | intro x
    | split
    | lift_lets
    | dsimp only

theorem State.adopt_fr {bl : Blocks} {s0 : State} {s : State} (a : Activation)
    (hm : Blocks.le { time := true, mtr := true, rad := true, fsp := true, drv := true, can := true, que := true, evt := true, ford := true, key := true, upd := true, way := true, mon := true, fld := true, regs := true, freeIdx := true } bl = true) (hev : Keeps bl s0 s) :
    Keeps bl s0 (State.adopt s a) := by
  unfold State.adopt
  repeat' first
    | with_reducible assumption
    | exact Blocks.le_trans rfl hm
    | with_reducible apply State.adoptStores_fr
    | with_reducible apply State.fullLoad_fr
    | (with_reducible apply keeps_mk (a := { time := true, mtr := true, rad := true, fsp := true, drv := true, can := true, que := true, evt := true, ford := true, key := true, upd := true, way := true, mon := true, fld := true, regs := true, freeIdx := true }) hm; dsimp only [cond_true, cond_false] <;> exact rfl; split)

theorem State.committedNow_fr {bl : Blocks} {s0 : State} {s : State}
    (hm : Blocks.le { evt := true, upd := true, way := true } bl = true) (hev : Keeps bl s0 s) :
    Keeps bl s0 (State.committedNow s) := by
  unfold State.committedNow
  repeat' first
    | with_reducible assumption
    | exact Blocks.le_trans rfl hm
    | with_reducible apply State.modActivation_fr
    | with_reducible apply State.stepPhase_fr

theorem State.resetSessions_fr {bl : Blocks} {s0 : State} {s : State}
    (hm : Blocks.le { adm := true, fsp := true, evt := true, way := true, out := true } bl = true) (hev : Keeps bl s0 s) :
    Keeps bl s0 (State.resetSessions s) := by
  unfold State.resetSessions
  repeat' first
    | with_reducible assumption
    | refine fun (_ : Keeps _ _ _) => ?_
    | with_reducible apply keeps_forEach
    | with_reducible apply State.closeSession_fr
    | (with_reducible apply keeps_mk (a := { adm := true, fsp := true, evt := true, way := true, out := true }) hm; dsimp only [cond_true, cond_false] <;> exact rfl; split)
    | intro x

theorem State.commitHandover_fr {bl : Blocks} {s0 : State} {s : State}
    (hm : Blocks.le { time := true, mtr := true, rad := true, adm := true, fsp := true, drv := true, can := true, que := true, evt := true, ford := true, key := true, upd := true, way := true, mon := true, fld := true, regs := true, out := true, freeIdx := true } bl = true) (hev : Keeps bl s0 s) :
    Keeps bl s0 (State.commitHandover s) := by
  unfold State.commitHandover
  repeat' first
    | with_reducible assumption
    | exact Blocks.le_trans rfl hm
    | with_reducible apply State.adopt_fr
    | with_reducible apply State.committedNow_fr
    | with_reducible apply State.measureCanopy_fr
    | with_reducible apply State.modStand_fr
    | with_reducible apply State.rederiveMb_fr
    | with_reducible apply State.resetSessions_fr
    | (with_reducible apply keeps_mk (a := { time := true, mtr := true, rad := true, adm := true, fsp := true, drv := true, can := true, que := true, evt := true, ford := true, key := true, upd := true, way := true, mon := true, fld := true, regs := true, out := true, freeIdx := true }) hm; dsimp only [cond_true, cond_false] <;> exact rfl; split)

theorem State.completeUpdate_fr {bl : Blocks} {s0 : State} {s : State}
    (hm : Blocks.le { evt := true, upd := true, way := true } bl = true) (hev : Keeps bl s0 s) :
    Keeps bl s0 (State.completeUpdate s) := by
  unfold State.completeUpdate
  repeat' first
    | with_reducible assumption
    | exact Blocks.le_trans rfl hm
    | with_reducible apply State.endUpdate_fr
    | with_reducible apply State.stepPhase_fr

theorem State.confirmed_fr {bl : Blocks} {s0 : State} {s : State}
    (hm : Blocks.le { rad := true, evt := true, ford := true, upd := true, way := true } bl = true) (hev : Keeps bl s0 s) :
    Keeps bl s0 (State.confirmed s) := by
  unfold State.confirmed
  repeat' first
    | with_reducible assumption
    | exact Blocks.le_trans rfl hm
    | refine fun (_ : Keeps _ _ _) => ?_
    | with_reducible apply keeps_forEach
    | with_reducible apply State.completeUpdate_fr
    | with_reducible apply State.post_fr
    | with_reducible apply State.rewrite_fr
    | with_reducible apply State.startCaravan_fr
    | with_reducible apply keeps_ite
    | (with_reducible apply keeps_mk (a := { rad := true, evt := true, ford := true, upd := true, way := true }) hm; dsimp only [cond_true, cond_false] <;> exact rfl; (first | with_reducible apply State.stepPhase_fr | split))
    | intro x

theorem State.stopUpdate_fr {bl : Blocks} {s0 : State} {s : State} (reason : Reason) (check : Nat)
    (hm : Blocks.le { fsp := true, can := true, evt := true, ford := true, key := true, upd := true, way := true } bl = true) (hev : Keeps bl s0 s) :
    Keeps bl s0 (State.stopUpdate s reason check) := by
  unfold State.stopUpdate
  repeat' first
    | with_reducible assumption
    | exact Blocks.le_trans rfl hm
    | with_reducible apply State.fallBack_fr
    | with_reducible apply State.rollBack_fr
    | with_reducible apply keeps_ite
    | (with_reducible apply keeps_mk (a := { fsp := true, can := true, evt := true, ford := true, key := true, upd := true, way := true }) hm; dsimp only [cond_true, cond_false] <;> exact rfl; split)

end Sys2Proof.Machine
end

