-- ==== Sys2Proof/Laws/FrRestart.lean ====
section
/-! SUPPORT. Every operation of Machine/Restart.lean keeps what it does not name (Safety.lean). -/

set_option Elab.async false

namespace Sys2Proof.Machine

theorem State.rollForward_fr {bl : Blocks} {s0 : State} {s : State} (a : Activation)
    (hm : Blocks.le { can := true, upd := true } bl = true) (hev : Keeps bl s0 s) :
    Keeps bl s0 (State.rollForward s a) := by
  unfold State.rollForward
  repeat' first
    | with_reducible assumption
    | exact Blocks.le_trans rfl hm
    | with_reducible apply State.modActivation_fr
    | (with_reducible apply keeps_mk (a := { can := true, upd := true }) hm; dsimp only [cond_true, cond_false] <;> exact rfl; (first | with_reducible apply State.modActivation_fr | split))

theorem State.completeFallback_fr {bl : Blocks} {s0 : State} {s : State} (a : Activation)
    (hm : Blocks.le { can := true, evt := true, ford := true, key := true, upd := true, way := true } bl = true) (hev : Keeps bl s0 s) :
    Keeps bl s0 (State.completeFallback s a) := by
  unfold State.completeFallback
  repeat' first
    | with_reducible assumption
    | exact Blocks.le_trans rfl hm
    | refine fun (_ : Keeps _ _ _) => ?_
    | with_reducible apply State.endFallback_fr
    | with_reducible apply State.restoreBackup_fr
    | with_reducible apply State.rewrite_fr
    | (with_reducible apply keeps_mk (a := { can := true, evt := true, ford := true, key := true, upd := true, way := true }) hm; dsimp only [cond_true, cond_false] <;> exact rfl; with_reducible apply keeps_iff)
    | intro x

theorem State.journalStart_fr {bl : Blocks} {s0 : State} {s : State}
    (hm : Blocks.le { can := true, evt := true, ford := true, key := true, upd := true, way := true, freeIdx := true } bl = true) (hev : Keeps bl s0 s) :
    Keeps bl s0 (State.journalStart s) := by
  unfold State.journalStart
  repeat' first
    | with_reducible assumption
    | exact Blocks.le_trans rfl hm
    | with_reducible apply State.completeFallback_fr
    | with_reducible apply State.dropActivation_fr
    | with_reducible apply State.openReason_fr
    | with_reducible apply State.rollBack_fr
    | with_reducible apply State.rollForward_fr
    | with_reducible apply State.sessionPhase_fr
    | with_reducible apply keeps_ite
    | (with_reducible apply keeps_mk (a := { can := true, evt := true, ford := true, key := true, upd := true, way := true, freeIdx := true }) hm; dsimp only [cond_true, cond_false] <;> exact rfl; (first | with_reducible assumption | split))

theorem State.restart_fr {bl : Blocks} {s0 : State} {s : State} (cause : Nat)
    (hm : Blocks.le { cn := true, time := true, mtr := true, rad := true, node := true, adm := true, fsp := true, dim := true, drv := true, can := true, que := true, evt := true, ford := true, cop := true, key := true, upd := true, way := true, mon := true, fld := true, sys := true, regs := true, out := true, freeIdx := true } bl = true) (hev : Keeps bl s0 s) :
    Keeps bl s0 (State.restart s cause) := by
  unfold State.restart
  repeat' first
    | with_reducible assumption
    | exact Blocks.le_trans rfl hm
    | refine fun (_ : Keeps _ _ _) => ?_
    | with_reducible apply keeps_forEach
    | with_reducible apply State.armTamper_fr
    | with_reducible apply State.cutSlices_fr
    | with_reducible apply State.drainStaging_fr
    | with_reducible apply State.journalStart_fr
    | with_reducible apply State.setReg_fr
    | (with_reducible apply keeps_mk (a := { cn := true, time := true, mtr := true, rad := true, node := true, adm := true, fsp := true, dim := true, drv := true, can := true, que := true, evt := true, ford := true, cop := true, key := true, upd := true, way := true, mon := true, fld := true, sys := true, regs := true, out := true, freeIdx := true }) hm; dsimp only [cond_true, cond_false] <;> exact rfl; with_reducible apply keeps_ite)
    | intro x

theorem State.saveMeter_fr {bl : Blocks} {s0 : State} {s : State}
    (hm : Blocks.le { mtr := true, evt := true, way := true } bl = true) (hev : Keeps bl s0 s) :
    Keeps bl s0 (State.saveMeter s) := by
  unfold State.saveMeter
  repeat' first
    | with_reducible assumption
    | exact Blocks.le_trans rfl hm
    | refine fun (_ : Keeps _ _ _) => ?_
    | with_reducible apply keeps_forEach
    | with_reducible apply State.gapRecord_fr
    | (with_reducible apply keeps_mk (a := { mtr := true, evt := true, way := true }) hm; dsimp only [cond_true, cond_false] <;> exact rfl; with_reducible apply State.takeSnapshot_fr)
    | intro x

theorem State.floodAgain_keq {bl : Blocks} {s0 s u : State} {p : Promise} (hm : Blocks.le { rad := true, node := true, adm := true } bl = true)
    (q : s.floodAgain p = some u) (hev : Keeps bl s0 s) : Keeps bl s0 u := by
  unfold State.floodAgain at q
  dsimp only at q
  generalize hb : (_ && decide (s.cn + 40 ≤ p.promised)) = b at q
  cases b with
  | false => simp at q
  | true =>
    simp only [if_true] at q
    split at q
    · simp only [Option.some.injEq] at q
      exact q ▸ State.sendPromise_fr _ _ _ _ _ (Blocks.le_trans rfl hm) (State.modPromise_fr _ _ (Blocks.le_trans rfl hm)
        (State.fit_keq (Blocks.le_trans rfl hm) ‹_› hev))
    · simp at q

theorem State.recover_fr {bl : Blocks} {s0 : State} {s : State} (p : Promise)
    (hm : Blocks.le { rad := true, node := true, adm := true } bl = true) (hev : Keeps bl s0 s) :
    Keeps bl s0 (State.recover s p) := by
  unfold State.recover
  repeat' first
    | with_reducible assumption
    | exact Blocks.le_trans rfl hm
    | refine fun (_ : Keeps _ _ _) => ?_
    | with_reducible apply keeps_forEach
    | with_reducible apply State.modPromise_fr
    | with_reducible apply State.query_fr
    | with_reducible apply keeps_ite
    | refine State.floodAgain_keq ?_ (by assumption) ?_
    | (with_reducible apply keeps_mk (a := { rad := true, node := true, adm := true }) hm; dsimp only [cond_true, cond_false] <;> exact rfl; split)
    | intro x

theorem State.recoverPromises_fr {bl : Blocks} {s0 : State} {s : State}
    (hm : Blocks.le { rad := true, node := true, adm := true } bl = true) (hev : Keeps bl s0 s) :
    Keeps bl s0 (State.recoverPromises s) := by
  unfold State.recoverPromises
  repeat' first
    | with_reducible assumption
    | refine fun (_ : Keeps _ _ _) => ?_
    | with_reducible apply keeps_forEach
    | with_reducible apply State.recover_fr
    | with_reducible apply keeps_ite
    | intro x

end Sys2Proof.Machine
end

