-- ==== Sys2Proof/Laws/FrFord.lean ====
section
/-! SUPPORT. Every operation of Machine/Ford.lean keeps what it does not name (Safety.lean). -/

set_option Elab.async false

namespace Sys2Proof.Machine

theorem State.openCheck_fr {bl : Blocks} {s0 : State} {s : State}
    (hm : Blocks.le { freeIdx := true } bl = true) (hev : Keeps bl s0 s) :
    Keeps bl s0 (State.openCheck s).2 := by
  unfold State.openCheck
  repeat' first | with_reducible assumption | with_reducible apply State.drawNat_fr

theorem State.openCheck_keq {bl : Blocks} {s0 sx : State} {s : State} {qx : Nat} (e : (State.openCheck s) = (qx, sx))
    (hm : Blocks.le { freeIdx := true } bl = true) (hev : Keeps bl s0 s) : Keeps bl s0 sx := by
  have g := State.openCheck_fr  hm hev
  rw [e] at g
  exact g

theorem State.stopFor_fr {bl : Blocks} {s0 : State} {s : State} (reason : Reason)
    (hm : Blocks.le { fsp := true, can := true, evt := true, ford := true, key := true, upd := true, way := true, freeIdx := true } bl = true) (hev : Keeps bl s0 s) :
    Keeps bl s0 (State.stopFor s reason) := by
  unfold State.stopFor
  repeat' first
    | with_reducible assumption
    | exact Blocks.le_trans rfl hm
    | with_reducible apply State.openCheck_fr
    | with_reducible apply State.stopUpdate_fr
    | (with_reducible apply keeps_mk (a := { fsp := true, can := true, evt := true, ford := true, key := true, upd := true, way := true, freeIdx := true }) hm; dsimp only [cond_true, cond_false] <;> exact rfl; split)

theorem State.standbyLost_fr {bl : Blocks} {s0 : State} {s : State}
    (hm : Blocks.le { can := true, evt := true, ford := true, upd := true, way := true, freeIdx := true } bl = true) (hev : Keeps bl s0 s) :
    Keeps bl s0 (State.standbyLost s) := by
  unfold State.standbyLost
  repeat' first
    | with_reducible assumption
    | exact Blocks.le_trans rfl hm
    | with_reducible apply State.openCheck_fr
    | with_reducible apply State.openReason_fr
    | with_reducible apply State.rollBack_fr
    | with_reducible apply keeps_ite
    | (with_reducible apply keeps_mk (a := { can := true, evt := true, ford := true, upd := true, way := true, freeIdx := true }) hm; dsimp only [cond_true, cond_false] <;> exact rfl; split)

theorem State.switchedFor_fr {bl : Blocks} {s0 : State} {s : State}
    (hm : Blocks.le { time := true, mtr := true, rad := true, adm := true, fsp := true, drv := true, can := true, que := true, evt := true, ford := true, key := true, upd := true, way := true, mon := true, fld := true, regs := true, out := true, freeIdx := true } bl = true) (hev : Keeps bl s0 s) :
    Keeps bl s0 (State.switchedFor s) := by
  unfold State.switchedFor
  repeat' first
    | with_reducible assumption
    | exact Blocks.le_trans rfl hm
    | with_reducible apply State.commitHandover_fr
    | with_reducible apply State.fallbackSwitched_fr
    | with_reducible apply State.openReason_fr
    | with_reducible apply State.standbyLost_fr
    | with_reducible apply keeps_ite
    | (with_reducible apply keeps_mk (a := { time := true, mtr := true, rad := true, adm := true, fsp := true, drv := true, can := true, que := true, evt := true, ford := true, key := true, upd := true, way := true, mon := true, fld := true, regs := true, out := true, freeIdx := true }) hm; dsimp only [cond_true, cond_false] <;> exact rfl; (first | with_reducible apply State.fallBack_fr | split))

theorem State.noteDiagnosis_fr {bl : Blocks} {s0 : State} {s : State} (x : Stand) (causes : Nat)
    (hm : Blocks.le { ford := true } bl = true) (hev : Keeps bl s0 s) :
    Keeps bl s0 (State.noteDiagnosis s x causes) := by
  unfold State.noteDiagnosis
  repeat' first | with_reducible assumption | with_reducible apply State.modStand_fr

theorem State.keep_fr {bl : Blocks} {s0 : State} {s : State} (hold : Nat) (lost : Bool)
    (hm : Blocks.le { rad := true, can := true, evt := true, ford := true, cop := true, upd := true, way := true, freeIdx := true } bl = true) (hev : Keeps bl s0 s) :
    Keeps bl s0 (State.keep s hold lost) := by
  unfold State.keep
  repeat' first
    | with_reducible assumption
    | exact Blocks.le_trans rfl hm
    | with_reducible apply State.release_fr
    | with_reducible apply State.standbyLost_fr
    | with_reducible apply State.withdrawStand_fr
    | with_reducible apply keeps_ite

theorem State.safeHoldNow_fr {bl : Blocks} {s0 : State} {s : State} (vote : Bool) (hold : Nat)
    (hm : Blocks.le { rad := true, fsp := true, can := true, evt := true, ford := true, cop := true, key := true, upd := true, way := true, freeIdx := true } bl = true) (hev : Keeps bl s0 s) :
    Keeps bl s0 (State.safeHoldNow s vote hold) := by
  unfold State.safeHoldNow
  repeat' first
    | with_reducible assumption
    | exact Blocks.le_trans rfl hm
    | with_reducible apply State.enterSafeHold_fr
    | with_reducible apply State.stopFor_fr

theorem State.unresolved_fr {bl : Blocks} {s0 : State} {s : State} (hold : Nat)
    (hm : Blocks.le { rad := true, fsp := true, evt := true, ford := true, cop := true, way := true, sys := true, out := true } bl = true) (hev : Keeps bl s0 s) :
    Keeps bl s0 (State.unresolved s hold) := by
  unfold State.unresolved
  repeat' first
    | with_reducible assumption
    | exact Blocks.le_trans rfl hm
    | with_reducible apply State.beginLearning_fr
    | with_reducible apply State.cutStand_fr
    | with_reducible apply State.fordEvent_fr
    | (with_reducible apply keeps_mk (a := { rad := true, fsp := true, evt := true, ford := true, cop := true, way := true, sys := true, out := true }) hm; dsimp only [cond_true, cond_false] <;> exact rfl; with_reducible apply State.release_fr)

theorem State.fordDecides_fr {bl : Blocks} {s0 : State} {s : State} (hold : Nat)
    (hm : Blocks.le { time := true, mtr := true, rad := true, adm := true, fsp := true, drv := true, can := true, que := true, evt := true, ford := true, cop := true, key := true, upd := true, way := true, mon := true, fld := true, sys := true, regs := true, out := true, freeIdx := true } bl = true) (hev : Keeps bl s0 s) :
    Keeps bl s0 (State.fordDecides s hold) := by
  unfold State.fordDecides
  repeat' first
    | with_reducible assumption
    | exact Blocks.le_trans rfl hm
    | with_reducible apply State.keep_fr
    | with_reducible apply State.safeHoldNow_fr
    | with_reducible apply State.switchOver_fr
    | with_reducible apply State.switchedFor_fr
    | with_reducible apply State.unresolved_fr
    | with_reducible apply keeps_ite
    | (with_reducible apply keeps_mk (a := { time := true, mtr := true, rad := true, adm := true, fsp := true, drv := true, can := true, que := true, evt := true, ford := true, cop := true, key := true, upd := true, way := true, mon := true, fld := true, sys := true, regs := true, out := true, freeIdx := true }) hm; dsimp only [cond_true, cond_false] <;> exact rfl; split)

theorem State.answered_fr {bl : Blocks} {s0 : State} {s : State} (x : Stand) (causes : Nat)
    (hm : Blocks.le { ford := true } bl = true) (hev : Keeps bl s0 s) :
    Keeps bl s0 (State.answered s x causes) := by
  unfold State.answered
  repeat' first
    | with_reducible assumption
    | (with_reducible apply keeps_mk (a := { ford := true }) hm; dsimp only [cond_true, cond_false] <;> exact rfl; with_reducible apply State.noteDiagnosis_fr)

theorem State.noteWithdrew_fr {bl : Blocks} {s0 : State} {s : State}
    (hm : Blocks.le { ford := true } bl = true) (hev : Keeps bl s0 s) :
    Keeps bl s0 (State.noteWithdrew s) := by
  unfold State.noteWithdrew
  repeat' first
    | (with_reducible apply keeps_mk (a := { ford := true }) hm; dsimp only [cond_true, cond_false] <;> exact rfl; with_reducible assumption)

theorem State.startHold_fr {bl : Blocks} {s0 : State} {s : State} (cause : Nat)
    (hm : Blocks.le { ford := true } bl = true) (hev : Keeps bl s0 s) :
    Keeps bl s0 (State.startHold s cause) := by
  unfold State.startHold
  repeat' first
    | with_reducible assumption
    | with_reducible apply State.holdFor_fr
    | with_reducible apply keeps_ite
    | (with_reducible apply keeps_mk (a := { ford := true }) hm; dsimp only [cond_true, cond_false] <;> exact rfl; with_reducible apply State.holdFor_fr)

theorem State.probationDivergence_fr {bl : Blocks} {s0 : State} {s : State} (cause : Nat)
    (hm : Blocks.le { rad := true, evt := true, ford := true, cop := true, way := true } bl = true) (hev : Keeps bl s0 s) :
    Keeps bl s0 (State.probationDivergence s cause) := by
  unfold State.probationDivergence
  repeat' first
    | with_reducible assumption
    | exact Blocks.le_trans rfl hm
    | with_reducible apply State.withdrawStand_fr
    | with_reducible apply keeps_ite
    | (with_reducible apply keeps_mk (a := { rad := true, evt := true, ford := true, cop := true, way := true }) hm; dsimp only [cond_true, cond_false] <;> exact rfl; (first | with_reducible assumption | with_reducible apply State.modStand_fr))

theorem execDivergence_fr {bl : Blocks} {s0 s1 : State} (cls : Fin 8) (pin : BitVec 16) (tag : BitVec 64) {s : State} (e : execDivergence cls pin tag s = .next s1)
    (hm : Blocks.le { rad := true, evt := true, ford := true, cop := true, way := true } bl = true) (hev : Keeps bl s0 s) : Keeps bl s0 s1 := by
  unfold execDivergence at e
  refine keeps_next e ?_
  repeat' first
    | with_reducible assumption
    | exact Blocks.le_trans rfl hm
    | refine fun (_ : Keeps _ _ _) => ?_
    | with_reducible apply keeps_iff
    | with_reducible apply keeps_whenLive
    | with_reducible apply State.fordEvent_fr
    | with_reducible apply State.probationDivergence_fr
    | with_reducible apply State.startHold_fr
    | with_reducible apply keeps_ite
    | (with_reducible apply keeps_mk (a := { rad := true, evt := true, ford := true, cop := true, way := true }) hm; dsimp only [cond_true, cond_false] <;> exact rfl; with_reducible assumption)
    | intro x

theorem execHeartbeatLost_fr {bl : Blocks} {s0 s1 : State} (stand : Stand) (hold : Word) {s : State} (e : execHeartbeatLost stand hold s = .next s1)
    (hm : Blocks.le { time := true, mtr := true, rad := true, adm := true, fsp := true, drv := true, can := true, que := true, evt := true, ford := true, cop := true, key := true, upd := true, way := true, mon := true, fld := true, sys := true, regs := true, out := true, freeIdx := true } bl = true) (hev : Keeps bl s0 s) : Keeps bl s0 s1 := by
  unfold execHeartbeatLost at e
  refine keeps_next e ?_
  repeat' first
    | with_reducible assumption
    | exact Blocks.le_trans rfl hm
    | refine fun (_ : Keeps _ _ _) => ?_
    | with_reducible apply keeps_iff
    | with_reducible apply keeps_whenLive
    | with_reducible apply State.answered_fr
    | with_reducible apply State.fordDecides_fr
    | with_reducible apply State.probationDivergence_fr
    | with_reducible apply State.standbyLost_fr
    | with_reducible apply State.startHold_fr
    | with_reducible apply State.withdrawStand_fr
    | with_reducible apply keeps_ite
    | (with_reducible apply keeps_mk (a := { time := true, mtr := true, rad := true, adm := true, fsp := true, drv := true, can := true, que := true, evt := true, ford := true, cop := true, key := true, upd := true, way := true, mon := true, fld := true, sys := true, regs := true, out := true, freeIdx := true }) hm; dsimp only [cond_true, cond_false] <;> exact rfl; with_reducible apply State.fordEvent_fr)
    | intro x

theorem execStandClaim_fr {bl : Blocks} {s0 s1 : State} (stand : Stand) {s : State} (e : execStandClaim stand s = .next s1)
    (hm : Blocks.le { evt := true, ford := true, way := true } bl = true) (hev : Keeps bl s0 s) : Keeps bl s0 s1 := by
  unfold execStandClaim at e
  refine keeps_next e ?_
  repeat' first
    | with_reducible assumption
    | exact Blocks.le_trans rfl hm
    | refine fun (_ : Keeps _ _ _) => ?_
    | with_reducible apply keeps_iff
    | with_reducible apply keeps_whenLive
    | with_reducible apply State.record_fr
    | with_reducible apply State.startHold_fr
    | (with_reducible apply keeps_mk (a := { evt := true, ford := true, way := true }) hm; dsimp only [cond_true, cond_false] <;> exact rfl; (first | with_reducible apply State.fordEvent_fr | split))
    | intro x

theorem State.standWithdraws_fr {bl : Blocks} {s0 : State} {s : State} (stand : Stand) (causes hold : Nat)
    (hm : Blocks.le { time := true, mtr := true, rad := true, adm := true, fsp := true, drv := true, can := true, que := true, evt := true, ford := true, cop := true, key := true, upd := true, way := true, mon := true, fld := true, sys := true, regs := true, out := true, freeIdx := true } bl = true) (hev : Keeps bl s0 s) :
    Keeps bl s0 (State.standWithdraws s stand causes hold) := by
  unfold State.standWithdraws
  repeat' first
    | with_reducible assumption
    | exact Blocks.le_trans rfl hm
    | refine fun (_ : Keeps _ _ _) => ?_
    | with_reducible apply keeps_iff
    | with_reducible apply State.answered_fr
    | with_reducible apply State.fordDecides_fr
    | with_reducible apply State.noteWithdrew_fr
    | with_reducible apply State.standbyLost_fr
    | with_reducible apply State.startHold_fr
    | with_reducible apply State.withdrawStand_fr
    | with_reducible apply keeps_ite
    | (with_reducible apply keeps_mk (a := { time := true, mtr := true, rad := true, adm := true, fsp := true, drv := true, can := true, que := true, evt := true, ford := true, cop := true, key := true, upd := true, way := true, mon := true, fld := true, sys := true, regs := true, out := true, freeIdx := true }) hm; dsimp only [cond_true, cond_false] <;> exact rfl; with_reducible apply State.modStand_fr)
    | intro x

theorem execWithdraw_fr {bl : Blocks} {s0 s1 : State} (stand : Stand) (causes : Fin 64) (hold : Word) {s : State} (e : execWithdraw stand causes hold s = .next s1)
    (hm : Blocks.le { time := true, mtr := true, rad := true, adm := true, fsp := true, drv := true, can := true, que := true, evt := true, ford := true, cop := true, key := true, upd := true, way := true, mon := true, fld := true, sys := true, regs := true, out := true, freeIdx := true } bl = true) (hev : Keeps bl s0 s) : Keeps bl s0 s1 := by
  unfold execWithdraw at e
  refine keeps_next e ?_
  repeat' first
    | with_reducible assumption
    | refine fun (_ : Keeps _ _ _) => ?_
    | with_reducible apply keeps_iff
    | with_reducible apply keeps_whenLive
    | with_reducible apply State.standWithdraws_fr
    | intro x

theorem execDiagnosisAnswer_fr {bl : Blocks} {s0 s1 : State} (stand : Stand) (causes : Fin 128) (hold : Word) {s : State} (e : execDiagnosisAnswer stand causes hold s = .next s1)
    (hm : Blocks.le { time := true, mtr := true, rad := true, adm := true, fsp := true, drv := true, can := true, que := true, evt := true, ford := true, cop := true, key := true, upd := true, way := true, mon := true, fld := true, sys := true, regs := true, out := true, freeIdx := true } bl = true) (hev : Keeps bl s0 s) : Keeps bl s0 s1 := by
  unfold execDiagnosisAnswer at e
  refine keeps_next e ?_
  repeat' first
    | with_reducible assumption
    | exact Blocks.le_trans rfl hm
    | refine fun (_ : Keeps _ _ _) => ?_
    | with_reducible apply keeps_iff
    | with_reducible apply keeps_whenLive
    | with_reducible apply State.answered_fr
    | with_reducible apply State.fordDecides_fr
    | (with_reducible apply keeps_mk (a := { time := true, mtr := true, rad := true, adm := true, fsp := true, drv := true, can := true, que := true, evt := true, ford := true, cop := true, key := true, upd := true, way := true, mon := true, fld := true, sys := true, regs := true, out := true, freeIdx := true }) hm; dsimp only [cond_true, cond_false] <;> exact rfl; split)
    | intro x

theorem execDiagnosisTimeout_fr {bl : Blocks} {s0 s1 : State} (hold : Word) {s : State} (e : execDiagnosisTimeout hold s = .next s1)
    (hm : Blocks.le { time := true, mtr := true, rad := true, adm := true, fsp := true, drv := true, can := true, que := true, evt := true, ford := true, cop := true, key := true, upd := true, way := true, mon := true, fld := true, sys := true, regs := true, out := true, freeIdx := true } bl = true) (hev : Keeps bl s0 s) : Keeps bl s0 s1 := by
  unfold execDiagnosisTimeout at e
  refine keeps_next e ?_
  repeat' first
    | with_reducible assumption
    | exact Blocks.le_trans rfl hm
    | refine fun (_ : Keeps _ _ _) => ?_
    | with_reducible apply keeps_iff
    | with_reducible apply keeps_whenLive
    | with_reducible apply State.answered_fr
    | with_reducible apply State.fordDecides_fr
    | (with_reducible apply keeps_mk (a := { time := true, mtr := true, rad := true, adm := true, fsp := true, drv := true, can := true, que := true, evt := true, ford := true, cop := true, key := true, upd := true, way := true, mon := true, fld := true, sys := true, regs := true, out := true, freeIdx := true }) hm; dsimp only [cond_true, cond_false] <;> exact rfl; split)
    | intro x

theorem execFordOutvote_fr {bl : Blocks} {s0 s1 : State} (copy : Fin 3) (cycle : Nat) {s : State} (e : execFordOutvote copy cycle s = .next s1)
    (hm : Blocks.le { rad := true, fsp := true, can := true, evt := true, ford := true, cop := true, key := true, upd := true, way := true, freeIdx := true } bl = true) (hev : Keeps bl s0 s) : Keeps bl s0 s1 := by
  unfold execFordOutvote at e
  refine keeps_next e ?_
  repeat' first
    | with_reducible assumption
    | exact Blocks.le_trans rfl hm
    | refine fun (_ : Keeps _ _ _) => ?_
    | with_reducible apply keeps_iff
    | with_reducible apply keeps_whenLive
    | with_reducible apply State.fordEvent_fr
    | with_reducible apply State.safeHoldNow_fr
    | (with_reducible apply keeps_mk (a := { rad := true, fsp := true, can := true, evt := true, ford := true, cop := true, key := true, upd := true, way := true, freeIdx := true }) hm; dsimp only [cond_true, cond_false] <;> exact rfl; (first | with_reducible assumption | split))
    | intro x

theorem State.returnStand_fr {bl : Blocks} {s0 : State} {s : State} (x : Stand) (role : Role)
    (hm : Blocks.le { cn := true, time := true, mtr := true, rad := true, node := true, adm := true, fsp := true, dim := true, drv := true, can := true, que := true, evt := true, ford := true, cop := true, key := true, upd := true, way := true, mon := true, fld := true, sys := true, regs := true, out := true, freeIdx := true } bl = true) (hev : Keeps bl s0 s) :
    Keeps bl s0 (State.returnStand s x role) := by
  unfold State.returnStand
  repeat' first
    | with_reducible assumption
    | exact Blocks.le_trans rfl hm
    | with_reducible apply State.beginLearning_fr
    | with_reducible apply State.countRestart_fr
    | with_reducible apply State.fordEventAs_fr
    | with_reducible apply State.modStand_fr
    | with_reducible apply State.restart_fr
    | with_reducible apply State.setStand_fr
    | with_reducible apply keeps_ite
    | (with_reducible apply keeps_mk (a := { cn := true, time := true, mtr := true, rad := true, node := true, adm := true, fsp := true, dim := true, drv := true, can := true, que := true, evt := true, ford := true, cop := true, key := true, upd := true, way := true, mon := true, fld := true, sys := true, regs := true, out := true, freeIdx := true }) hm; dsimp only [cond_true, cond_false] <;> exact rfl; with_reducible apply State.modStand_fr)

theorem execStandTestDone_fr {bl : Blocks} {s0 s1 : State} (stand : Stand) (pass : Bool) {s : State} (e : execStandTestDone stand pass s = .next s1)
    (hm : Blocks.le { cn := true, time := true, mtr := true, rad := true, node := true, adm := true, fsp := true, dim := true, drv := true, can := true, que := true, evt := true, ford := true, cop := true, key := true, upd := true, way := true, mon := true, fld := true, sys := true, regs := true, out := true, freeIdx := true } bl = true) (hev : Keeps bl s0 s) : Keeps bl s0 s1 := by
  unfold execStandTestDone at e
  refine keeps_next e ?_
  repeat' first
    | with_reducible assumption
    | exact Blocks.le_trans rfl hm
    | refine fun (_ : Keeps _ _ _) => ?_
    | with_reducible apply keeps_iff
    | with_reducible apply keeps_whenLive
    | with_reducible apply State.beginLearning_fr
    | with_reducible apply State.modStand_fr
    | with_reducible apply State.returnStand_fr
    | with_reducible apply State.setStand_fr
    | with_reducible apply keeps_ite
    | (with_reducible apply keeps_mk (a := { cn := true, time := true, mtr := true, rad := true, node := true, adm := true, fsp := true, dim := true, drv := true, can := true, que := true, evt := true, ford := true, cop := true, key := true, upd := true, way := true, mon := true, fld := true, sys := true, regs := true, out := true, freeIdx := true }) hm; dsimp only [cond_true, cond_false] <;> exact rfl; with_reducible assumption)
    | intro x

theorem execLearningCopyDone_fr {bl : Blocks} {s0 s1 : State} {s : State} (e : execLearningCopyDone s = .next s1)
    (hm : Blocks.le { ford := true, sys := true } bl = true) (hev : Keeps bl s0 s) : Keeps bl s0 s1 := by
  unfold execLearningCopyDone at e
  refine keeps_next e ?_
  repeat' first
    | with_reducible assumption
    | exact Blocks.le_trans rfl hm
    | refine fun (_ : Keeps _ _ _) => ?_
    | with_reducible apply keeps_iff
    | with_reducible apply keeps_whenLive
    | (with_reducible apply keeps_mk (a := { ford := true, sys := true }) hm; dsimp only [cond_true, cond_false] <;> exact rfl; with_reducible apply State.modStand_fr)
    | intro x

theorem execProbationEnd_fr {bl : Blocks} {s0 s1 : State} {s : State} (e : execProbationEnd s = .next s1)
    (hm : Blocks.le { evt := true, ford := true, upd := true, way := true } bl = true) (hev : Keeps bl s0 s) : Keeps bl s0 s1 := by
  unfold execProbationEnd at e
  refine keeps_next e ?_
  repeat' first
    | with_reducible assumption
    | exact Blocks.le_trans rfl hm
    | refine fun (_ : Keeps _ _ _) => ?_
    | with_reducible apply keeps_iff
    | with_reducible apply keeps_whenLive
    | with_reducible apply State.completeUpdate_fr
    | with_reducible apply State.fordEvent_fr
    | with_reducible apply State.setStand_fr
    | (with_reducible apply keeps_mk (a := { evt := true, ford := true, upd := true, way := true }) hm; dsimp only [cond_true, cond_false] <;> exact rfl; (first | with_reducible apply State.modStand_fr | split))
    | intro x

theorem State.askSwitch_fr {bl : Blocks} {s0 : State} {s : State} (w : Writer)
    (hm : Blocks.le { evt := true, ford := true, way := true } bl = true) (hev : Keeps bl s0 s) :
    Keeps bl s0 (State.askSwitch s w).1 := by
  unfold State.askSwitch
  repeat' first
    | with_reducible assumption
    | exact Blocks.le_trans rfl hm
    | with_reducible apply State.recordAs_fr
    | with_reducible apply State.requestSwitch_fr
    | with_reducible apply keeps_ite_fst

theorem State.askSwitch_keq {bl : Blocks} {s0 sx : State} {s : State} {w : Writer} {qx : Reason} (e : (State.askSwitch s w) = (sx, qx))
    (hm : Blocks.le { evt := true, ford := true, way := true } bl = true) (hev : Keeps bl s0 s) : Keeps bl s0 sx := by
  have g := State.askSwitch_fr w hm hev
  rw [e] at g
  exact g

theorem State.voteAgain_fr {bl : Blocks} {s0 : State} {s : State} (agree : Bool) (out : Nat)
    (hm : Blocks.le { ford := true } bl = true) (hev : Keeps bl s0 s) :
    Keeps bl s0 (State.voteAgain s agree out) := by
  unfold State.voteAgain
  repeat' first
    | with_reducible assumption
    | with_reducible apply keeps_ite
    | (with_reducible apply keeps_mk (a := { ford := true }) hm; dsimp only [cond_true, cond_false] <;> exact rfl; with_reducible assumption)

theorem State.resumeWith_fr {bl : Blocks} {s0 : State} {s : State} (x : Stand) (force agree : Bool) (out : Nat) (w : Writer)
    (hm : Blocks.le { cn := true, time := true, mtr := true, rad := true, node := true, adm := true, fsp := true, dim := true, drv := true, can := true, que := true, evt := true, ford := true, cop := true, key := true, upd := true, way := true, mon := true, fld := true, sys := true, regs := true, out := true, freeIdx := true } bl = true) (hev : Keeps bl s0 s) :
    Keeps bl s0 (State.resumeWith s x force agree out w) := by
  unfold State.resumeWith
  repeat' first
    | with_reducible assumption
    | exact Blocks.le_trans rfl hm
    | with_reducible apply State.returnStand_fr
    | with_reducible apply State.voteAgain_fr
    | with_reducible apply keeps_ite
    | (with_reducible apply keeps_mk (a := { cn := true, time := true, mtr := true, rad := true, node := true, adm := true, fsp := true, dim := true, drv := true, can := true, que := true, evt := true, ford := true, cop := true, key := true, upd := true, way := true, mon := true, fld := true, sys := true, regs := true, out := true, freeIdx := true }) hm; dsimp only [cond_true, cond_false] <;> exact rfl; with_reducible apply State.voteAgain_fr)

theorem State.releaseStand_fr {bl : Blocks} {s0 : State} {s : State} (x : Stand)
    (hm : Blocks.le { evt := true, ford := true, way := true } bl = true) (hev : Keeps bl s0 s) :
    Keeps bl s0 (State.releaseStand s x) := by
  unfold State.releaseStand
  repeat' first
    | with_reducible assumption
    | exact Blocks.le_trans rfl hm
    | with_reducible apply State.modStand_fr
    | with_reducible apply State.setStand_fr
    | with_reducible apply keeps_ite

theorem State.writeFordCtrl_fr {bl : Blocks} {s0 : State} {s : State} (v : Nat) (w : Writer) (agree : Bool) (out : Nat)
    (hm : Blocks.le { cn := true, time := true, mtr := true, rad := true, node := true, adm := true, fsp := true, dim := true, drv := true, can := true, que := true, evt := true, ford := true, cop := true, key := true, upd := true, way := true, mon := true, fld := true, sys := true, regs := true, out := true, freeIdx := true } bl = true) (hev : Keeps bl s0 s) :
    Keeps bl s0 (State.writeFordCtrl s v w agree out).1 := by
  unfold State.writeFordCtrl
  repeat' first
    | with_reducible assumption
    | exact Blocks.le_trans rfl hm
    | refine fun (_ : Keeps _ _ _) => ?_
    | with_reducible apply keeps_iff
    | with_reducible apply State.askSwitch_fr
    | with_reducible apply State.releaseStand_fr
    | with_reducible apply State.resumeWith_fr
    | with_reducible apply keeps_ite_fst
    | (with_reducible apply keeps_mk (a := { cn := true, time := true, mtr := true, rad := true, node := true, adm := true, fsp := true, dim := true, drv := true, can := true, que := true, evt := true, ford := true, cop := true, key := true, upd := true, way := true, mon := true, fld := true, sys := true, regs := true, out := true, freeIdx := true }) hm; dsimp only [cond_true, cond_false] <;> exact rfl; with_reducible apply State.writeReg_fr)
    | intro x

theorem State.writeFordCtrl_keq {bl : Blocks} {s0 sx : State} {s : State} {v : Nat} {w : Writer} {agree : Bool} {out : Nat} {qx : Reason} (e : (State.writeFordCtrl s v w agree out) = (sx, qx))
    (hm : Blocks.le { cn := true, time := true, mtr := true, rad := true, node := true, adm := true, fsp := true, dim := true, drv := true, can := true, que := true, evt := true, ford := true, cop := true, key := true, upd := true, way := true, mon := true, fld := true, sys := true, regs := true, out := true, freeIdx := true } bl = true) (hev : Keeps bl s0 s) : Keeps bl s0 sx := by
  have g := State.writeFordCtrl_fr v w agree out hm hev
  rw [e] at g
  exact g

theorem State.switchClock_fr {bl : Blocks} {s0 : State} {s : State} (ref : Nat)
    (hm : Blocks.le { time := true, ford := true, freeIdx := true } bl = true) (hev : Keeps bl s0 s) :
    Keeps bl s0 (State.switchClock s ref) := by
  unfold State.switchClock
  repeat' first
    | with_reducible assumption
    | exact hm
    | exact Blocks.le_trans rfl hm
    | refine fun (_ : Keeps _ _ _) => ?_
    | with_reducible apply keeps_iff
    | with_reducible apply keeps_whenLive
    | with_reducible apply keeps_forEach
    | with_reducible apply State.drawInt_fr
    | with_reducible apply keeps_ite
    | refine State.drawInt_keq (by assumption) ?_ ?_
    | (with_reducible apply keeps_mk (a := { time := true, ford := true, freeIdx := true }) hm; dsimp only [cond_true, cond_false] <;> exact rfl; (first | with_reducible assumption | exact hm | exact Blocks.le_trans rfl hm | with_reducible apply keeps_iff | with_reducible apply keeps_whenLive | with_reducible apply keeps_forEach | with_reducible apply State.drawInt_fr | with_reducible apply keeps_ite | refine State.drawInt_keq (by assumption) ?_ ?_ | split))
    | (intro x; refine keeps_cut (l := bl) (s0 := s0) (x := x) ?_ ?_; rotate_left; clear_value x; intro hx; rotate_left; subst x)
    | (intro x; refine keeps_cut_snd (l := bl) (s0 := s0) (x := x) ?_ ?_; rotate_left; clear_value x; intro hx; rotate_left; subst x)
    | (intro x; refine keeps_cut_fst (l := bl) (s0 := s0) (x := x) ?_ ?_; rotate_left; clear_value x; intro hx; rotate_left; subst x)
    | intro x
    | split
    | lift_lets
    | dsimp only

theorem State.writeClkCtrl_fr {bl : Blocks} {s0 : State} {s : State} (v : Nat) (w : Writer)
    (hm : Blocks.le { time := true, evt := true, ford := true, way := true, regs := true, freeIdx := true } bl = true) (hev : Keeps bl s0 s) :
    Keeps bl s0 (State.writeClkCtrl s v w).1 := by
  unfold State.writeClkCtrl
  repeat' first
    | with_reducible assumption
    | exact hm
    | exact Blocks.le_trans rfl hm
    | refine fun (_ : Keeps _ _ _) => ?_
    | with_reducible apply keeps_iff
    | with_reducible apply keeps_whenLive
    | with_reducible apply keeps_forEach
    | with_reducible apply State.switchClock_fr
    | with_reducible apply State.writeReg_fr
    | with_reducible apply keeps_ite
    | with_reducible apply keeps_ite_fst
    | refine State.writeReg_keq (by assumption) ?_ ?_
    | (with_reducible apply keeps_mk (a := { time := true, evt := true, ford := true, way := true, regs := true, freeIdx := true }) hm; dsimp only [cond_true, cond_false] <;> exact rfl; (first | with_reducible assumption | exact hm | exact Blocks.le_trans rfl hm | with_reducible apply keeps_iff | with_reducible apply keeps_whenLive | with_reducible apply keeps_forEach | with_reducible apply State.switchClock_fr | with_reducible apply State.writeReg_fr | with_reducible apply keeps_ite | with_reducible apply keeps_ite_fst | refine State.writeReg_keq (by assumption) ?_ ?_ | split))
    | (intro x; refine keeps_cut (l := bl) (s0 := s0) (x := x) ?_ ?_; rotate_left; clear_value x; intro hx; rotate_left; subst x)
    | (intro x; refine keeps_cut_snd (l := bl) (s0 := s0) (x := x) ?_ ?_; rotate_left; clear_value x; intro hx; rotate_left; subst x)
    | (intro x; refine keeps_cut_fst (l := bl) (s0 := s0) (x := x) ?_ ?_; rotate_left; clear_value x; intro hx; rotate_left; subst x)
    | intro x
    | split
    | lift_lets
    | dsimp only

theorem State.writeClkCtrl_keq {bl : Blocks} {s0 sx : State} {s : State} {v : Nat} {w : Writer} {qx : Reason} (e : (State.writeClkCtrl s v w) = (sx, qx))
    (hm : Blocks.le { time := true, evt := true, ford := true, way := true, regs := true, freeIdx := true } bl = true) (hev : Keeps bl s0 s) : Keeps bl s0 sx := by
  have g := State.writeClkCtrl_fr v w hm hev
  rw [e] at g
  exact g

theorem State.writeLgCtrl_fr {bl : Blocks} {s0 : State} {s : State} (v : Nat) (w : Writer)
    (hm : Blocks.le { evt := true, ford := true, way := true, regs := true } bl = true) (hev : Keeps bl s0 s) :
    Keeps bl s0 (State.writeLgCtrl s v w).1 := by
  unfold State.writeLgCtrl
  repeat' first
    | with_reducible assumption
    | exact Blocks.le_trans rfl hm
    | refine fun (_ : Keeps _ _ _) => ?_
    | with_reducible apply keeps_iff
    | with_reducible apply State.writeReg_fr
    | (with_reducible apply keeps_mk (a := { evt := true, ford := true, way := true, regs := true }) hm; dsimp only [cond_true, cond_false] <;> exact rfl; with_reducible assumption)
    | intro x

theorem State.writeLgCtrl_keq {bl : Blocks} {s0 sx : State} {s : State} {v : Nat} {w : Writer} {qx : Reason} (e : (State.writeLgCtrl s v w) = (sx, qx))
    (hm : Blocks.le { evt := true, ford := true, way := true, regs := true } bl = true) (hev : Keeps bl s0 s) : Keeps bl s0 sx := by
  have g := State.writeLgCtrl_fr v w hm hev
  rw [e] at g
  exact g

theorem State.writeFord_fr {bl : Blocks} {s0 : State} {s : State} (o v : Nat) (w : Writer)
    (hm : Blocks.le { cn := true, time := true, mtr := true, rad := true, node := true, adm := true, fsp := true, dim := true, drv := true, can := true, que := true, evt := true, ford := true, cop := true, key := true, upd := true, way := true, mon := true, fld := true, sys := true, regs := true, out := true, freeIdx := true } bl = true) (hev : Keeps bl s0 s) :
    Keeps bl s0 (State.writeFord s o v w).1 := by
  unfold State.writeFord
  repeat' first
    | with_reducible assumption
    | exact Blocks.le_trans rfl hm
    | with_reducible apply State.drawNat_fr
    | with_reducible apply State.writeClkCtrl_fr
    | with_reducible apply State.writeFordCtrl_fr
    | with_reducible apply State.writeLgCtrl_fr
    | with_reducible apply State.writePlain_fr
    | with_reducible apply keeps_ite_fst

theorem State.writeFord_keq {bl : Blocks} {s0 sx : State} {s : State} {o v : Nat} {w : Writer} {qx : Reason} (e : (State.writeFord s o v w) = (sx, qx))
    (hm : Blocks.le { cn := true, time := true, mtr := true, rad := true, node := true, adm := true, fsp := true, dim := true, drv := true, can := true, que := true, evt := true, ford := true, cop := true, key := true, upd := true, way := true, mon := true, fld := true, sys := true, regs := true, out := true, freeIdx := true } bl = true) (hev : Keeps bl s0 s) : Keeps bl s0 sx := by
  have g := State.writeFord_fr o v w hm hev
  rw [e] at g
  exact g

theorem execPlannedSwitchRequest_fr {bl : Blocks} {s0 s1 : State} (w : Writer) {s : State} (e : execPlannedSwitchRequest w s = .next s1)
    (hm : Blocks.le { cn := true, time := true, mtr := true, rad := true, node := true, adm := true, fsp := true, dim := true, drv := true, can := true, que := true, evt := true, ford := true, cop := true, key := true, upd := true, way := true, mon := true, fld := true, sys := true, regs := true, out := true, freeIdx := true } bl = true) (hev : Keeps bl s0 s) : Keeps bl s0 s1 := by
  unfold execPlannedSwitchRequest at e
  refine keeps_next e ?_
  repeat' first
    | with_reducible assumption
    | refine fun (_ : Keeps _ _ _) => ?_
    | with_reducible apply keeps_whenLive
    | with_reducible apply State.writeFordCtrl_fr
    | intro x

theorem execSafeHoldResume_fr {bl : Blocks} {s0 s1 : State} (stand : Stand) (agree : Bool) (out : Fin 3) (w : Writer) {s : State} (e : execSafeHoldResume stand agree out w s = .next s1)
    (hm : Blocks.le { cn := true, time := true, mtr := true, rad := true, node := true, adm := true, fsp := true, dim := true, drv := true, can := true, que := true, evt := true, ford := true, cop := true, key := true, upd := true, way := true, mon := true, fld := true, sys := true, regs := true, out := true, freeIdx := true } bl = true) (hev : Keeps bl s0 s) : Keeps bl s0 s1 := by
  unfold execSafeHoldResume at e
  refine keeps_next e ?_
  repeat' first
    | with_reducible assumption
    | refine fun (_ : Keeps _ _ _) => ?_
    | with_reducible apply keeps_whenLive
    | with_reducible apply State.writeFordCtrl_fr
    | intro x

theorem execSafeHoldResumeForce_fr {bl : Blocks} {s0 s1 : State} (stand : Stand) (agree : Bool) (out : Fin 3) (w : Writer) {s : State} (e : execSafeHoldResumeForce stand agree out w s = .next s1)
    (hm : Blocks.le { cn := true, time := true, mtr := true, rad := true, node := true, adm := true, fsp := true, dim := true, drv := true, can := true, que := true, evt := true, ford := true, cop := true, key := true, upd := true, way := true, mon := true, fld := true, sys := true, regs := true, out := true, freeIdx := true } bl = true) (hev : Keeps bl s0 s) : Keeps bl s0 s1 := by
  unfold execSafeHoldResumeForce at e
  refine keeps_next e ?_
  repeat' first
    | with_reducible assumption
    | refine fun (_ : Keeps _ _ _) => ?_
    | with_reducible apply keeps_whenLive
    | with_reducible apply State.writeFordCtrl_fr
    | intro x

theorem execStandRelease_fr {bl : Blocks} {s0 s1 : State} (stand : Stand) (w : Writer) {s : State} (e : execStandRelease stand w s = .next s1)
    (hm : Blocks.le { cn := true, time := true, mtr := true, rad := true, node := true, adm := true, fsp := true, dim := true, drv := true, can := true, que := true, evt := true, ford := true, cop := true, key := true, upd := true, way := true, mon := true, fld := true, sys := true, regs := true, out := true, freeIdx := true } bl = true) (hev : Keeps bl s0 s) : Keeps bl s0 s1 := by
  unfold execStandRelease at e
  refine keeps_next e ?_
  repeat' first
    | with_reducible assumption
    | refine fun (_ : Keeps _ _ _) => ?_
    | with_reducible apply keeps_whenLive
    | with_reducible apply State.writeFordCtrl_fr
    | intro x

theorem execClockSelect_fr {bl : Blocks} {s0 s1 : State} (sel : Fin 2) (w : Writer) {s : State} (e : execClockSelect sel w s = .next s1)
    (hm : Blocks.le { time := true, evt := true, ford := true, way := true, regs := true, freeIdx := true } bl = true) (hev : Keeps bl s0 s) : Keeps bl s0 s1 := by
  unfold execClockSelect at e
  refine keeps_next e ?_
  repeat' first
    | with_reducible assumption
    | refine fun (_ : Keeps _ _ _) => ?_
    | with_reducible apply keeps_whenLive
    | with_reducible apply State.writeClkCtrl_fr
    | intro x

theorem State.setLost_fr {bl : Blocks} {s0 : State} {s : State} (which : Fin 2) (lost : Bool)
    (hm : Blocks.le { ford := true } bl = true) (hev : Keeps bl s0 s) :
    Keeps bl s0 (State.setLost s which lost) := by
  unfold State.setLost
  repeat' first
    | with_reducible apply keeps_ite
    | (with_reducible apply keeps_mk (a := { ford := true }) hm; dsimp only [cond_true, cond_false] <;> exact rfl; with_reducible assumption)

theorem execTcxoLost_fr {bl : Blocks} {s0 s1 : State} (which : Fin 2) {s : State} (e : execTcxoLost which s = .next s1)
    (hm : Blocks.le { time := true, evt := true, ford := true, way := true, freeIdx := true } bl = true) (hev : Keeps bl s0 s) : Keeps bl s0 s1 := by
  unfold execTcxoLost at e
  refine keeps_next e ?_
  repeat' first
    | with_reducible assumption
    | exact hm
    | exact Blocks.le_trans rfl hm
    | refine fun (_ : Keeps _ _ _) => ?_
    | with_reducible apply keeps_iff
    | with_reducible apply keeps_whenLive
    | with_reducible apply keeps_forEach
    | with_reducible apply State.fordEvent_fr
    | with_reducible apply State.setLost_fr
    | with_reducible apply State.switchClock_fr
    | with_reducible apply keeps_ite
    | (with_reducible apply keeps_mk (a := { time := true, evt := true, ford := true, way := true, freeIdx := true }) hm; dsimp only [cond_true, cond_false] <;> exact rfl; (first | with_reducible assumption | exact hm | exact Blocks.le_trans rfl hm | with_reducible apply keeps_iff | with_reducible apply keeps_whenLive | with_reducible apply keeps_forEach | with_reducible apply State.fordEvent_fr | with_reducible apply State.setLost_fr | with_reducible apply State.switchClock_fr | with_reducible apply keeps_ite | split))
    | (intro x; refine keeps_cut (l := bl) (s0 := s0) (x := x) ?_ ?_; rotate_left; clear_value x; intro hx; rotate_left; subst x)
    | intro x
    | split
    | lift_lets
    | dsimp only

theorem execTcxoPresent_fr {bl : Blocks} {s0 s1 : State} (which : Fin 2) (ofs : Int) {s : State} (e : execTcxoPresent which ofs s = .next s1)
    (hm : Blocks.le { evt := true, ford := true, way := true } bl = true) (hev : Keeps bl s0 s) : Keeps bl s0 s1 := by
  unfold execTcxoPresent at e
  refine keeps_next e ?_
  repeat' first
    | with_reducible assumption
    | exact Blocks.le_trans rfl hm
    | refine fun (_ : Keeps _ _ _) => ?_
    | with_reducible apply keeps_iff
    | with_reducible apply keeps_whenLive
    | with_reducible apply State.fordEvent_fr
    | (with_reducible apply keeps_mk (a := { evt := true, ford := true, way := true }) hm; dsimp only [cond_true, cond_false] <;> exact rfl; with_reducible apply State.setLost_fr)
    | intro x

theorem execLastgaspClear_fr {bl : Blocks} {s0 s1 : State} (w : Writer) {s : State} (e : execLastgaspClear w s = .next s1)
    (hm : Blocks.le { evt := true, ford := true, way := true, regs := true } bl = true) (hev : Keeps bl s0 s) : Keeps bl s0 s1 := by
  unfold execLastgaspClear at e
  refine keeps_next e ?_
  repeat' first
    | with_reducible assumption
    | refine fun (_ : Keeps _ _ _) => ?_
    | with_reducible apply keeps_whenLive
    | with_reducible apply State.writeLgCtrl_fr
    | intro x

end Sys2Proof.Machine
end

