-- ==== Sys2Proof/Laws/FrCoppice.lean ====
section
/-! SUPPORT. Every operation of Machine/Coppice.lean keeps what it does not name (Safety.lean). -/

set_option Elab.async false

namespace Sys2Proof.Machine

theorem State.fixSlice_fr {bl : Blocks} {s0 : State} {s : State} (x : Slice)
    (hm : Blocks.le { cop := true, freeIdx := true } bl = true) (hev : Keeps bl s0 s) :
    Keeps bl s0 (State.fixSlice s x) := by
  unfold State.fixSlice
  repeat' first
    | with_reducible assumption
    | exact Blocks.le_trans rfl hm
    | with_reducible apply State.pickOne_fr
    | (with_reducible apply keeps_mk (a := { cop := true, freeIdx := true }) hm; dsimp only [cond_true, cond_false] <;> exact rfl; split)

theorem State.deferSlice_fr {bl : Blocks} {s0 : State} {s : State} (id : UnitId) (reason : Nat)
    (hm : Blocks.le { cop := true } bl = true) (hev : Keeps bl s0 s) :
    Keeps bl s0 (State.deferSlice s id reason) := by
  unfold State.deferSlice
  repeat' first
    | with_reducible assumption
    | with_reducible apply State.modUnit_fr
    | (with_reducible apply keeps_mk (a := { cop := true }) hm; dsimp only [cond_true, cond_false] <;> exact rfl; with_reducible assumption)

theorem State.tryFix_fr {bl : Blocks} {s0 : State} (stand : Stand) (c : Cn) (l : List UnitId)
    (hm : Blocks.le { cop := true, freeIdx := true } bl = true) :
    ∀ {s : State}, Keeps bl s0 s → Keeps bl s0 (s.tryFix stand c l) := by
  induction l with
  | nil => intro s h; exact h
  | cons id rest ih =>
    intro s h
    unfold State.tryFix
    split
    · exact ih h
    · dsimp only
      split
      · exact ih (State.deferSlice_fr _ _ (Blocks.le_trans rfl hm) h)
      · exact State.fixSlice_fr _ (Blocks.le_trans rfl hm) h

theorem execSliceFix_fr {bl : Blocks} {s0 s1 : State} (stand : Stand) (lead : Fin 16) {s : State} (e : execSliceFix stand lead s = .next s1)
    (hm : Blocks.le { cop := true, freeIdx := true } bl = true) (hev : Keeps bl s0 s) : Keeps bl s0 s1 := by
  unfold execSliceFix at e
  refine keeps_next e ?_
  repeat' first
    | with_reducible assumption
    | refine fun (_ : Keeps _ _ _) => ?_
    | with_reducible apply keeps_iff
    | with_reducible apply keeps_whenLive
    | with_reducible apply State.tryFix_fr
    | intro x

theorem State.startSlice_fr {bl : Blocks} {s0 : State} {s : State} (x : Slice)
    (hm : Blocks.le { mtr := true, rad := true, drv := true, can := true, evt := true, cop := true, way := true, mon := true } bl = true) (hev : Keeps bl s0 s) :
    Keeps bl s0 (State.startSlice s x) := by
  unfold State.startSlice
  repeat' first
    | with_reducible assumption
    | exact Blocks.le_trans rfl hm
    | refine fun (_ : Keeps _ _ _) => ?_
    | with_reducible apply keeps_iff
    | with_reducible apply State.handTo_fr
    | with_reducible apply State.modTrx_fr
    | with_reducible apply State.modUnit_fr
    | with_reducible apply State.stopMeter_fr
    | (with_reducible apply keeps_mk (a := { mtr := true, rad := true, drv := true, can := true, evt := true, cop := true, way := true, mon := true }) hm; dsimp only [cond_true, cond_false] <;> exact rfl; (first | with_reducible apply keeps_iff | split))
    | intro x

theorem State.joinPool_fr {bl : Blocks} {s0 : State} {s : State} (x : Slice)
    (hm : Blocks.le { rad := true, cop := true } bl = true) (hev : Keeps bl s0 s) :
    Keeps bl s0 (State.joinPool s x) := by
  unfold State.joinPool
  repeat' first
    | with_reducible assumption
    | exact Blocks.le_trans rfl hm
    | refine fun (_ : Keeps _ _ _) => ?_
    | with_reducible apply keeps_iff
    | with_reducible apply State.returnVictim_fr
    | with_reducible apply keeps_ite
    | split

theorem State.sliceTick_fr {bl : Blocks} {s0 : State} {s : State}
    (hm : Blocks.le { mtr := true, rad := true, drv := true, can := true, evt := true, cop := true, way := true, mon := true } bl = true) (hev : Keeps bl s0 s) :
    Keeps bl s0 (State.sliceTick s) := by
  unfold State.sliceTick
  repeat' first
    | with_reducible assumption
    | exact hm
    | exact Blocks.le_trans rfl hm
    | refine fun (_ : Keeps _ _ _) => ?_
    | with_reducible apply keeps_iff
    | with_reducible apply keeps_whenLive
    | with_reducible apply keeps_forEach
    | with_reducible apply State.joinPool_fr
    | with_reducible apply State.restartMeter_fr
    | with_reducible apply State.startSlice_fr
    | with_reducible apply keeps_ite
    | (with_reducible apply keeps_mk (a := { mtr := true, rad := true, drv := true, can := true, evt := true, cop := true, way := true, mon := true }) hm; dsimp only [cond_true, cond_false] <;> exact rfl; (first | with_reducible assumption | exact hm | exact Blocks.le_trans rfl hm | with_reducible apply keeps_iff | with_reducible apply keeps_whenLive | with_reducible apply keeps_forEach | with_reducible apply State.joinPool_fr | with_reducible apply State.restartMeter_fr | with_reducible apply State.startSlice_fr | with_reducible apply keeps_ite | split))
    | (intro x; refine keeps_cut (l := bl) (s0 := s0) (x := x) ?_ ?_; rotate_left; clear_value x; intro hx; rotate_left; subst x)
    | intro x
    | split
    | lift_lets
    | dsimp only

theorem State.modSlice_fr {bl : Blocks} {s0 : State} {s : State} (id : UnitId) (f : Slice → Slice)
    (hm : Blocks.le { cop := true } bl = true) (hev : Keeps bl s0 s) :
    Keeps bl s0 (State.modSlice s id f) := by
  unfold State.modSlice
  repeat' first
    | (with_reducible apply keeps_mk (a := { cop := true }) hm; dsimp only [cond_true, cond_false] <;> exact rfl; with_reducible assumption)

theorem State.completed_fr {bl : Blocks} {s0 : State} {s : State} (id : UnitId)
    (hm : Blocks.le { cop := true } bl = true) (hev : Keeps bl s0 s) :
    Keeps bl s0 (State.completed s id) := by
  unfold State.completed
  repeat' first | with_reducible assumption | with_reducible apply State.modUnit_fr

theorem State.fellSlice_fr {bl : Blocks} {s0 : State} {s : State} (x : Slice)
    (hm : Blocks.le { rad := true, evt := true, cop := true, way := true } bl = true) (hev : Keeps bl s0 s) :
    Keeps bl s0 (State.fellSlice s x) := by
  unfold State.fellSlice
  repeat' first
    | with_reducible assumption
    | exact Blocks.le_trans rfl hm
    | refine fun (_ : Keeps _ _ _) => ?_
    | with_reducible apply keeps_iff
    | with_reducible apply State.completed_fr
    | with_reducible apply State.fell_fr
    | with_reducible apply State.modTrx_fr
    | with_reducible apply State.post_fr
    | with_reducible apply State.recordSlice_fr
    | (with_reducible apply keeps_mk (a := { rad := true, evt := true, cop := true, way := true }) hm; dsimp only [cond_true, cond_false] <;> exact rfl; with_reducible apply State.sliceEnded_fr)
    | intro x

theorem State.judgeSlice_fr {bl : Blocks} {s0 : State} {s : State} (x : Slice) (whole same : Bool)
    (hm : Blocks.le { rad := true, evt := true, cop := true, way := true } bl = true) (hev : Keeps bl s0 s) :
    Keeps bl s0 (State.judgeSlice s x whole same) := by
  unfold State.judgeSlice
  repeat' first
    | with_reducible assumption
    | exact Blocks.le_trans rfl hm
    | with_reducible apply State.fellSlice_fr
    | with_reducible apply State.modSlice_fr
    | with_reducible apply State.modUnit_fr
    | with_reducible apply State.recordSlice_fr
    | with_reducible apply State.sliceEnded_fr
    | with_reducible apply keeps_ite
    | (with_reducible apply keeps_mk (a := { rad := true, evt := true, cop := true, way := true }) hm; dsimp only [cond_true, cond_false] <;> exact rfl; (first | with_reducible assumption | with_reducible apply State.completed_fr))

theorem execSliceRunEnd_fr {bl : Blocks} {s0 s1 : State} (stand : Stand) (kind : Fin 8) (index : Fin 8192) (patterns : Word) (complete : Bool) (misr expected : BitVec 64) {s : State} (e : execSliceRunEnd stand kind index patterns complete misr expected s = .next s1)
    (hm : Blocks.le { rad := true, evt := true, cop := true, way := true } bl = true) (hev : Keeps bl s0 s) : Keeps bl s0 s1 := by
  unfold execSliceRunEnd at e
  refine keeps_next e ?_
  repeat' first
    | with_reducible assumption
    | refine fun (_ : Keeps _ _ _) => ?_
    | with_reducible apply keeps_whenLive
    | with_reducible apply State.judgeSlice_fr
    | (with_reducible apply keeps_mk (a := { rad := true, evt := true, cop := true, way := true }) hm; dsimp only [cond_true, cond_false] <;> exact rfl; (first | with_reducible assumption | split))
    | intro x

theorem execUnitFallsDue_fr {bl : Blocks} {s0 s1 : State} (stand : Stand) (kind : Fin 8) (index : Fin 8192) {s : State} (e : execUnitFallsDue stand kind index s = .next s1)
    (hm : Blocks.le { cop := true } bl = true) (hev : Keeps bl s0 s) : Keeps bl s0 s1 := by
  unfold execUnitFallsDue at e
  refine keeps_next e ?_
  repeat' first
    | with_reducible assumption
    | refine fun (_ : Keeps _ _ _) => ?_
    | with_reducible apply keeps_iff
    | with_reducible apply keeps_whenLive
    | with_reducible apply State.putUnit_fr
    | intro x

theorem execCoppiceStarved_fr {bl : Blocks} {s0 s1 : State} (stand : Stand) (kind : Fin 8) (index : Fin 8192) {s : State} (e : execCoppiceStarved stand kind index s = .next s1)
    (hm : Blocks.le { evt := true, cop := true, way := true } bl = true) (hev : Keeps bl s0 s) : Keeps bl s0 s1 := by
  unfold execCoppiceStarved at e
  refine keeps_next e ?_
  repeat' first
    | with_reducible assumption
    | exact Blocks.le_trans rfl hm
    | refine fun (_ : Keeps _ _ _) => ?_
    | with_reducible apply keeps_iff
    | with_reducible apply keeps_whenLive
    | with_reducible apply State.post_fr
    | with_reducible apply State.putUnit_fr
    | with_reducible apply State.record_fr
    | (with_reducible apply keeps_mk (a := { evt := true, cop := true, way := true }) hm; dsimp only [cond_true, cond_false] <;> exact rfl; split)
    | intro x

theorem execIdlePathSlice_fr {bl : Blocks} {s0 s1 : State} (item : Fin 10) {s : State} (e : execIdlePathSlice item s = .next s1)
    (hm : Blocks.le { ford := true, cop := true } bl = true) (hev : Keeps bl s0 s) : Keeps bl s0 s1 := by
  unfold execIdlePathSlice at e
  refine keeps_next e ?_
  repeat' first
    | with_reducible assumption
    | refine fun (_ : Keeps _ _ _) => ?_
    | with_reducible apply keeps_iff
    | with_reducible apply keeps_whenLive
    | (with_reducible apply keeps_mk (a := { ford := true, cop := true }) hm; dsimp only [cond_true, cond_false] <;> exact rfl; with_reducible assumption)
    | intro x

theorem execIdlePathEnd_fr {bl : Blocks} {s0 s1 : State} (pass : Bool) {s : State} (e : execIdlePathEnd pass s = .next s1)
    (hm : Blocks.le { time := true, mtr := true, rad := true, adm := true, fsp := true, drv := true, can := true, que := true, evt := true, ford := true, cop := true, key := true, upd := true, way := true, mon := true, fld := true, sys := true, regs := true, out := true, freeIdx := true } bl = true) (hev : Keeps bl s0 s) : Keeps bl s0 s1 := by
  unfold execIdlePathEnd at e
  refine keeps_next e ?_
  repeat' first
    | with_reducible assumption
    | exact Blocks.le_trans rfl hm
    | refine fun (_ : Keeps _ _ _) => ?_
    | with_reducible apply keeps_whenLive
    | with_reducible apply State.drawNat_fr
    | with_reducible apply State.standWithdraws_fr
    | with_reducible apply keeps_ite
    | (with_reducible apply keeps_mk (a := { time := true, mtr := true, rad := true, adm := true, fsp := true, drv := true, can := true, que := true, evt := true, ford := true, cop := true, key := true, upd := true, way := true, mon := true, fld := true, sys := true, regs := true, out := true, freeIdx := true }) hm; dsimp only [cond_true, cond_false] <;> exact rfl; (first | with_reducible assumption | split))
    | intro x

theorem State.writeCopCtrl_fr {bl : Blocks} {s0 : State} {s : State} (v : Nat) (w : Writer)
    (hm : Blocks.le { evt := true, cop := true, way := true, regs := true } bl = true) (hev : Keeps bl s0 s) :
    Keeps bl s0 (State.writeCopCtrl s v w).1 := by
  unfold State.writeCopCtrl
  repeat' first
    | with_reducible assumption
    | exact Blocks.le_trans rfl hm
    | with_reducible apply State.writeReg_fr
    | with_reducible apply keeps_ite_fst
    | (with_reducible apply keeps_mk (a := { evt := true, cop := true, way := true, regs := true }) hm; dsimp only [cond_true, cond_false] <;> exact rfl; with_reducible apply State.writeReg_fr)

theorem State.writeCopCtrl_keq {bl : Blocks} {s0 sx : State} {s : State} {v : Nat} {w : Writer} {qx : Reason} (e : (State.writeCopCtrl s v w) = (sx, qx))
    (hm : Blocks.le { evt := true, cop := true, way := true, regs := true } bl = true) (hev : Keeps bl s0 s) : Keeps bl s0 sx := by
  have g := State.writeCopCtrl_fr v w hm hev
  rw [e] at g
  exact g

theorem State.writeCopCmd_fr {bl : Blocks} {s0 : State} {s : State} (v : Nat) (w : Writer)
    (hm : Blocks.le { evt := true, cop := true, way := true, regs := true } bl = true) (hev : Keeps bl s0 s) :
    Keeps bl s0 (State.writeCopCmd s v w).1 := by
  unfold State.writeCopCmd
  repeat' first
    | with_reducible assumption
    | exact Blocks.le_trans rfl hm
    | with_reducible apply State.writeReg_fr
    | with_reducible apply keeps_ite_fst
    | (with_reducible apply keeps_mk (a := { evt := true, cop := true, way := true, regs := true }) hm; dsimp only [cond_true, cond_false] <;> exact rfl; with_reducible apply State.writeReg_fr)

theorem State.writeCopCmd_keq {bl : Blocks} {s0 sx : State} {s : State} {v : Nat} {w : Writer} {qx : Reason} (e : (State.writeCopCmd s v w) = (sx, qx))
    (hm : Blocks.le { evt := true, cop := true, way := true, regs := true } bl = true) (hev : Keeps bl s0 s) : Keeps bl s0 sx := by
  have g := State.writeCopCmd_fr v w hm hev
  rw [e] at g
  exact g

theorem State.writeCopRelease_fr {bl : Blocks} {s0 : State} {s : State} (v : Nat) (w : Writer)
    (hm : Blocks.le { evt := true, cop := true, way := true, regs := true } bl = true) (hev : Keeps bl s0 s) :
    Keeps bl s0 (State.writeCopRelease s v w).1 := by
  unfold State.writeCopRelease
  repeat' first
    | with_reducible assumption
    | exact Blocks.le_trans rfl hm
    | with_reducible apply State.modUnit_fr
    | with_reducible apply State.recordWrite_fr
    | with_reducible apply State.writeQuiet_fr
    | with_reducible apply keeps_ite
    | with_reducible apply keeps_ite_fst

theorem State.writeCopRelease_keq {bl : Blocks} {s0 sx : State} {s : State} {v : Nat} {w : Writer} {qx : Reason} (e : (State.writeCopRelease s v w) = (sx, qx))
    (hm : Blocks.le { evt := true, cop := true, way := true, regs := true } bl = true) (hev : Keeps bl s0 s) : Keeps bl s0 sx := by
  have g := State.writeCopRelease_fr v w hm hev
  rw [e] at g
  exact g

theorem execCoppiceRun_fr {bl : Blocks} {s0 s1 : State} (w : Writer) {s : State} (e : execCoppiceRun w s = .next s1)
    (hm : Blocks.le { evt := true, cop := true, way := true, regs := true } bl = true) (hev : Keeps bl s0 s) : Keeps bl s0 s1 := by
  unfold execCoppiceRun at e
  refine keeps_next e ?_
  repeat' first
    | with_reducible assumption
    | refine fun (_ : Keeps _ _ _) => ?_
    | with_reducible apply keeps_whenLive
    | with_reducible apply State.writeCopCmd_fr
    | intro x

theorem execCoppiceDestruct_fr {bl : Blocks} {s0 s1 : State} (run : Bool) (w : Writer) {s : State} (e : execCoppiceDestruct run w s = .next s1)
    (hm : Blocks.le { evt := true, cop := true, way := true, regs := true } bl = true) (hev : Keeps bl s0 s) : Keeps bl s0 s1 := by
  unfold execCoppiceDestruct at e
  refine keeps_next e ?_
  repeat' first
    | with_reducible assumption
    | refine fun (_ : Keeps _ _ _) => ?_
    | with_reducible apply keeps_whenLive
    | with_reducible apply State.writeCopCmd_fr
    | intro x

theorem execSuspectRelease_fr {bl : Blocks} {s0 s1 : State} (kind : Fin 8) (index : Fin 65536) (w : Writer) {s : State} (e : execSuspectRelease kind index w s = .next s1)
    (hm : Blocks.le { evt := true, cop := true, way := true, regs := true } bl = true) (hev : Keeps bl s0 s) : Keeps bl s0 s1 := by
  unfold execSuspectRelease at e
  refine keeps_next e ?_
  repeat' first
    | with_reducible assumption
    | refine fun (_ : Keeps _ _ _) => ?_
    | with_reducible apply keeps_whenLive
    | with_reducible apply State.writeCopRelease_fr
    | intro x

theorem execCopCntClr_fr {bl : Blocks} {s0 s1 : State} (w : Writer) {s : State} (e : execCopCntClr w s = .next s1)
    (hm : Blocks.le { evt := true, cop := true, way := true, regs := true } bl = true) (hev : Keeps bl s0 s) : Keeps bl s0 s1 := by
  unfold execCopCntClr at e
  refine keeps_next e ?_
  repeat' first
    | with_reducible assumption
    | refine fun (_ : Keeps _ _ _) => ?_
    | with_reducible apply keeps_whenLive
    | with_reducible apply State.writeCopCtrl_fr
    | intro x

theorem State.writeCop_fr {bl : Blocks} {s0 : State} {s : State} (o v : Nat) (w : Writer)
    (hm : Blocks.le { evt := true, cop := true, way := true, regs := true } bl = true) (hev : Keeps bl s0 s) :
    Keeps bl s0 (State.writeCop s o v w).1 := by
  unfold State.writeCop
  repeat' first
    | with_reducible assumption
    | exact Blocks.le_trans rfl hm
    | with_reducible apply State.writeCopCmd_fr
    | with_reducible apply State.writeCopCtrl_fr
    | with_reducible apply State.writeCopRelease_fr
    | with_reducible apply State.writePlain_fr
    | with_reducible apply keeps_ite_fst

theorem State.writeCop_keq {bl : Blocks} {s0 sx : State} {s : State} {o v : Nat} {w : Writer} {qx : Reason} (e : (State.writeCop s o v w) = (sx, qx))
    (hm : Blocks.le { evt := true, cop := true, way := true, regs := true } bl = true) (hev : Keeps bl s0 s) : Keeps bl s0 sx := by
  have g := State.writeCop_fr o v w hm hev
  rw [e] at g
  exact g

end Sys2Proof.Machine
end

