-- ==== Sys2Proof/Laws/FrEvents.lean ====
section
/-! SUPPORT. Every operation of Machine/Events.lean keeps what it does not name (Safety.lean). -/

set_option Elab.async false

namespace Sys2Proof.Machine

theorem execSourceFiring_fr {bl : Blocks} {s0 s1 : State} (source : Fin 1024) (kind : Fin 256) (payload : Word) {s : State} (e : execSourceFiring source kind payload s = .next s1)
    (hm : Blocks.le { evt := true } bl = true) (hev : Keeps bl s0 s) : Keeps bl s0 s1 := by
  unfold execSourceFiring at e
  refine keeps_next e ?_
  repeat' first
    | with_reducible assumption
    | exact hm
    | exact Blocks.le_trans rfl hm
    | refine fun (_ : Keeps _ _ _) => ?_
    | with_reducible apply keeps_iff
    | with_reducible apply keeps_whenLive
    | with_reducible apply keeps_forEach
    | with_reducible apply State.post_fr
    | with_reducible apply keeps_ite
    | (with_reducible apply keeps_mk (a := { evt := true }) hm; dsimp only [cond_true, cond_false] <;> exact rfl; (first | with_reducible assumption | exact hm | exact Blocks.le_trans rfl hm | with_reducible apply keeps_iff | with_reducible apply keeps_whenLive | with_reducible apply keeps_forEach | with_reducible apply State.post_fr | with_reducible apply keeps_ite | split))
    | (intro x; refine keeps_cut (l := bl) (s0 := s0) (x := x) ?_ ?_; rotate_left; clear_value x; intro hx; rotate_left; subst x)
    | intro x
    | split
    | lift_lets
    | dsimp only

theorem execCoalesceTimeout_fr {bl : Blocks} {s0 s1 : State} (source : Fin 1024) {s : State} (e : execCoalesceTimeout source s = .next s1)
    (hm : Blocks.le { evt := true } bl = true) (hev : Keeps bl s0 s) : Keeps bl s0 s1 := by
  unfold execCoalesceTimeout at e
  refine keeps_next e ?_
  repeat' first
    | with_reducible assumption
    | refine fun (_ : Keeps _ _ _) => ?_
    | with_reducible apply keeps_whenLive
    | (with_reducible apply keeps_mk (a := { evt := true }) hm; dsimp only [cond_true, cond_false] <;> exact rfl; with_reducible assumption)
    | intro x

theorem execEvtDone_fr {bl : Blocks} {s0 s1 : State} (engine : Fin 16) (value : Word) {s : State} (e : execEvtDone engine value s = .next s1)
    (hm : Blocks.le { evt := true } bl = true) (hev : Keeps bl s0 s) : Keeps bl s0 s1 := by
  unfold execEvtDone at e
  refine keeps_next e ?_
  repeat' first
    | with_reducible assumption
    | refine fun (_ : Keeps _ _ _) => ?_
    | with_reducible apply keeps_whenLive
    | (with_reducible apply keeps_mk (a := { evt := true }) hm; dsimp only [cond_true, cond_false] <;> exact rfl; with_reducible assumption)
    | intro x

theorem execRingConsWrite_fr {bl : Blocks} {s0 s1 : State} (engine : Fin 16) (prio : Fin 4) (value : Word) {s : State} (e : execRingConsWrite engine prio value s = .next s1)
    (hm : Blocks.le { evt := true } bl = true) (hev : Keeps bl s0 s) : Keeps bl s0 s1 := by
  unfold execRingConsWrite at e
  refine keeps_next e ?_
  repeat' first
    | with_reducible assumption
    | refine fun (_ : Keeps _ _ _) => ?_
    | with_reducible apply keeps_whenLive
    | (with_reducible apply keeps_mk (a := { evt := true }) hm; dsimp only [cond_true, cond_false] <;> exact rfl; with_reducible assumption)
    | intro x

theorem execRingCfgWrite_fr {bl : Blocks} {s0 s1 : State} (engine : Fin 16) (prio : Fin 4) (value : Word) {s : State} (e : execRingCfgWrite engine prio value s = .next s1)
    (hm : Blocks.le { evt := true } bl = true) (hev : Keeps bl s0 s) : Keeps bl s0 s1 := by
  unfold execRingCfgWrite at e
  refine keeps_next e ?_
  repeat' first
    | with_reducible assumption
    | refine fun (_ : Keeps _ _ _) => ?_
    | with_reducible apply keeps_whenLive
    | (with_reducible apply keeps_mk (a := { evt := true }) hm; dsimp only [cond_true, cond_false] <;> exact rfl; with_reducible assumption)
    | intro x

theorem execRingMaskWrite_fr {bl : Blocks} {s0 s1 : State} (engine : Fin 16) (value : Word) {s : State} (e : execRingMaskWrite engine value s = .next s1)
    (hm : Blocks.le { evt := true } bl = true) (hev : Keeps bl s0 s) : Keeps bl s0 s1 := by
  unfold execRingMaskWrite at e
  refine keeps_next e ?_
  repeat' first
    | with_reducible assumption
    | refine fun (_ : Keeps _ _ _) => ?_
    | with_reducible apply keeps_whenLive
    | (with_reducible apply keeps_mk (a := { evt := true }) hm; dsimp only [cond_true, cond_false] <;> exact rfl; with_reducible assumption)
    | intro x

theorem execHandlerEntry_fr {bl : Blocks} {s0 s1 : State} (engine : Fin 16) {s : State} (e : execHandlerEntry engine s = .next s1)
    (hm : Blocks.le { evt := true } bl = true) (hev : Keeps bl s0 s) : Keeps bl s0 s1 := by
  unfold execHandlerEntry at e
  refine keeps_next e ?_
  repeat' first
    | with_reducible assumption
    | refine fun (_ : Keeps _ _ _) => ?_
    | with_reducible apply keeps_whenLive
    | (with_reducible apply keeps_mk (a := { evt := true }) hm; dsimp only [cond_true, cond_false] <;> exact rfl; with_reducible assumption)
    | intro x

theorem execHandlerExit_fr {bl : Blocks} {s0 s1 : State} (engine : Fin 16) {s : State} (e : execHandlerExit engine s = .next s1)
    (hm : Blocks.le { evt := true } bl = true) (hev : Keeps bl s0 s) : Keeps bl s0 s1 := by
  unfold execHandlerExit at e
  refine keeps_next e ?_
  repeat' first
    | with_reducible assumption
    | refine fun (_ : Keeps _ _ _) => ?_
    | with_reducible apply keeps_whenLive
    | (with_reducible apply keeps_mk (a := { evt := true }) hm; dsimp only [cond_true, cond_false] <;> exact rfl; with_reducible assumption)
    | intro x

theorem State.writeEvtCtrl_fr {bl : Blocks} {s0 : State} {s : State} (v : Nat)
    (hm : Blocks.le { evt := true } bl = true) (hev : Keeps bl s0 s) :
    Keeps bl s0 (State.writeEvtCtrl s v) := by
  unfold State.writeEvtCtrl
  repeat' first
    | (with_reducible apply keeps_mk (a := { evt := true }) hm; dsimp only [cond_true, cond_false] <;> exact rfl; with_reducible assumption)

theorem State.writeEvtStatus_fr {bl : Blocks} {s0 : State} {s : State} (v : Nat)
    (hm : Blocks.le { evt := true } bl = true) (hev : Keeps bl s0 s) :
    Keeps bl s0 (State.writeEvtStatus s v) := by
  unfold State.writeEvtStatus
  repeat' first
    | (with_reducible apply keeps_mk (a := { evt := true }) hm; dsimp only [cond_true, cond_false] <;> exact rfl; with_reducible assumption)

end Sys2Proof.Machine
end

