-- ==== Sys2Proof/Laws/FrMains.lean ====
section
/-! SUPPORT. Every operation of Machine/Mains.lean keeps what it does not name (Safety.lean). -/

set_option Elab.async false

namespace Sys2Proof.Machine

theorem State.moveCount_fr {bl : Blocks} {s0 : State} {s : State} (k : Int)
    (hm : Blocks.le { cn := true, time := true, mtr := true, rad := true, node := true, adm := true, fsp := true, dim := true, drv := true, can := true, ford := true, cop := true, key := true, upd := true, mon := true, sys := true } bl = true) (hev : Keeps bl s0 s) :
    Keeps bl s0 (State.moveCount s k) := by
  unfold State.moveCount
  repeat' first
    | with_reducible assumption
    | exact Blocks.le_trans rfl hm
    | with_reducible apply State.renewBoundary_fr
    | with_reducible apply State.shiftCn_fr

theorem State.rejoinAfterFreeRun_fr {bl : Blocks} {s0 : State} {s : State}
    (hm : Blocks.le { rad := true, node := true, adm := true, evt := true, way := true } bl = true) (hev : Keeps bl s0 s) :
    Keeps bl s0 (State.rejoinAfterFreeRun s) := by
  unfold State.rejoinAfterFreeRun
  repeat' first
    | with_reducible assumption
    | refine fun (_ : Keeps _ _ _) => ?_
    | with_reducible apply keeps_iff
    | with_reducible apply State.startRejoin_fr
    | (with_reducible apply keeps_mk (a := { rad := true, node := true, adm := true, evt := true, way := true }) hm; dsimp only [cond_true, cond_false] <;> exact rfl; with_reducible assumption)
    | intro x

theorem State.measured1_fr {bl : Blocks} {s0 : State} {s : State} (ofs : Int) (ofsUs : Nat)
    (hm : Blocks.le { cn := true, time := true, mtr := true, rad := true, node := true, adm := true, fsp := true, dim := true, drv := true, can := true, evt := true, ford := true, cop := true, key := true, upd := true, way := true, mon := true, sys := true, regs := true, out := true, freeIdx := true } bl = true) (hev : Keeps bl s0 s) :
    Keeps bl s0 (State.measured1 s ofs ofsUs) := by
  unfold State.measured1
  repeat' first
    | with_reducible assumption
    | exact Blocks.le_trans rfl hm
    | refine fun (_ : Keeps _ _ _) => ?_
    | with_reducible apply keeps_iff
    | with_reducible apply State.boundary_fr
    | with_reducible apply State.crossing_fr
    | with_reducible apply State.rejoinAfterFreeRun_fr
    | with_reducible apply State.renewBoundary_fr
    | intro x

theorem execZcMeasured_fr {bl : Blocks} {s0 s1 : State} (ofs : Int) (tick : Nat) (ofsUs : Nat) {s : State} (e : execZcMeasured ofs tick ofsUs s = .next s1)
    (hm : Blocks.le { cn := true, time := true, mtr := true, rad := true, node := true, adm := true, fsp := true, dim := true, drv := true, can := true, evt := true, ford := true, cop := true, key := true, upd := true, way := true, mon := true, sys := true, regs := true, out := true, freeIdx := true } bl = true) (hev : Keeps bl s0 s) : Keeps bl s0 s1 := by
  unfold execZcMeasured at e
  refine keeps_next e ?_
  repeat' first
    | with_reducible assumption
    | exact Blocks.le_trans rfl hm
    | refine fun (_ : Keeps _ _ _) => ?_
    | with_reducible apply keeps_iff
    | with_reducible apply keeps_whenLive
    | with_reducible apply State.advanceTo_fr
    | with_reducible apply State.measured1_fr
    | intro x

theorem State.holdWaymark_fr {bl : Blocks} {s0 : State} {s : State} (w : Waymark) (ofs : Int)
    (hm : Blocks.le { time := true } bl = true) (hev : Keeps bl s0 s) :
    Keeps bl s0 (State.holdWaymark s w ofs) := by
  unfold State.holdWaymark
  repeat' first
    | (with_reducible apply keeps_mk (a := { time := true }) hm; dsimp only [cond_true, cond_false] <;> exact rfl; with_reducible assumption)

theorem State.attribute_fr {bl : Blocks} {s0 : State} {s : State} (k : Int)
    (hm : Blocks.le { cn := true, time := true, mtr := true, rad := true, node := true, adm := true, fsp := true, dim := true, drv := true, can := true, ford := true, cop := true, key := true, upd := true, mon := true, sys := true } bl = true) (hev : Keeps bl s0 s) :
    Keeps bl s0 (State.attribute s k) := by
  unfold State.attribute
  repeat' first
    | with_reducible assumption
    | exact Blocks.le_trans rfl hm
    | with_reducible apply State.noteFreeRun_fr
    | with_reducible apply keeps_ite
    | (with_reducible apply keeps_mk (a := { cn := true, time := true, mtr := true, rad := true, node := true, adm := true, fsp := true, dim := true, drv := true, can := true, ford := true, cop := true, key := true, upd := true, mon := true, sys := true }) hm; dsimp only [cond_true, cond_false] <;> exact rfl; (first | with_reducible assumption | with_reducible apply State.moveCount_fr | with_reducible apply State.noteFreeRun_fr))

theorem State.disagreesAgain_fr {bl : Blocks} {s0 : State} {s : State} (k : Int)
    (hm : Blocks.le { cn := true, time := true, mtr := true, rad := true, node := true, adm := true, fsp := true, dim := true, drv := true, can := true, ford := true, cop := true, key := true, upd := true, mon := true, sys := true } bl = true) (hev : Keeps bl s0 s) :
    Keeps bl s0 (State.disagreesAgain s k).2 := by
  unfold State.disagreesAgain
  repeat' first
    | with_reducible assumption
    | with_reducible apply State.moveCount_fr
    | with_reducible apply keeps_ite_snd
    | (with_reducible apply keeps_mk (a := { cn := true, time := true, mtr := true, rad := true, node := true, adm := true, fsp := true, dim := true, drv := true, can := true, ford := true, cop := true, key := true, upd := true, mon := true, sys := true }) hm; dsimp only [cond_true, cond_false] <;> exact rfl; (first | with_reducible assumption | split))

theorem State.disagreesAgain_keq {bl : Blocks} {s0 sx : State} {s : State} {k : Int} {qx : WmAnswer} (e : (State.disagreesAgain s k) = (qx, sx))
    (hm : Blocks.le { cn := true, time := true, mtr := true, rad := true, node := true, adm := true, fsp := true, dim := true, drv := true, can := true, ford := true, cop := true, key := true, upd := true, mon := true, sys := true } bl = true) (hev : Keeps bl s0 s) : Keeps bl s0 sx := by
  have g := State.disagreesAgain_fr k hm hev
  rw [e] at g
  exact g

theorem State.checkWaymark_fr {bl : Blocks} {s0 : State} {s : State} (w : Waymark) (c : Crossing) (ofs : Int)
    (hm : Blocks.le { cn := true, time := true, mtr := true, rad := true, node := true, adm := true, fsp := true, dim := true, drv := true, can := true, ford := true, cop := true, key := true, upd := true, mon := true, sys := true } bl = true) (hev : Keeps bl s0 s) :
    Keeps bl s0 (State.checkWaymark s w c ofs).2 := by
  unfold State.checkWaymark
  repeat' first
    | with_reducible assumption
    | exact Blocks.le_trans rfl hm
    | with_reducible apply State.attribute_fr
    | with_reducible apply State.disagreesAgain_fr
    | with_reducible apply State.holdWaymark_fr
    | with_reducible apply keeps_ite_snd
    | (with_reducible apply keeps_mk (a := { cn := true, time := true, mtr := true, rad := true, node := true, adm := true, fsp := true, dim := true, drv := true, can := true, ford := true, cop := true, key := true, upd := true, mon := true, sys := true }) hm; dsimp only [cond_true, cond_false] <;> exact rfl; with_reducible assumption)

theorem State.checkWaymark_keq {bl : Blocks} {s0 sx : State} {s : State} {w : Waymark} {c : Crossing} {ofs : Int} {qx : WmAnswer} (e : (State.checkWaymark s w c ofs) = (qx, sx))
    (hm : Blocks.le { cn := true, time := true, mtr := true, rad := true, node := true, adm := true, fsp := true, dim := true, drv := true, can := true, ford := true, cop := true, key := true, upd := true, mon := true, sys := true } bl = true) (hev : Keeps bl s0 s) : Keeps bl s0 sx := by
  have g := State.checkWaymark_fr w c ofs hm hev
  rw [e] at g
  exact g

theorem State.judgeWaymark_fr {bl : Blocks} {s0 : State} {s : State} (w : Waymark)
    (hm : Blocks.le { cn := true, time := true, mtr := true, rad := true, node := true, adm := true, fsp := true, dim := true, drv := true, can := true, ford := true, cop := true, key := true, upd := true, mon := true, sys := true } bl = true) (hev : Keeps bl s0 s) :
    Keeps bl s0 (State.judgeWaymark s w).2 := by
  unfold State.judgeWaymark
  repeat' first
    | with_reducible assumption
    | exact Blocks.le_trans rfl hm
    | with_reducible apply State.checkWaymark_fr
    | with_reducible apply keeps_ite_snd
    | (with_reducible apply keeps_mk (a := { cn := true, time := true, mtr := true, rad := true, node := true, adm := true, fsp := true, dim := true, drv := true, can := true, ford := true, cop := true, key := true, upd := true, mon := true, sys := true }) hm; dsimp only [cond_true, cond_false] <;> exact rfl; split)

theorem State.judgeWaymark_keq {bl : Blocks} {s0 sx : State} {s : State} {w : Waymark} {qx : WmAnswer} (e : (State.judgeWaymark s w) = (qx, sx))
    (hm : Blocks.le { cn := true, time := true, mtr := true, rad := true, node := true, adm := true, fsp := true, dim := true, drv := true, can := true, ford := true, cop := true, key := true, upd := true, mon := true, sys := true } bl = true) (hev : Keeps bl s0 s) : Keeps bl s0 sx := by
  have g := State.judgeWaymark_fr w hm hev
  rw [e] at g
  exact g

theorem State.serveWaymark_fr {bl : Blocks} {s0 : State} {s : State} (i : Fin 4) (c : Session) (tx : Nat) (b : List Byte)
    (hm : Blocks.le { cn := true, time := true, mtr := true, rad := true, node := true, adm := true, fsp := true, dim := true, drv := true, can := true, evt := true, ford := true, cop := true, key := true, upd := true, way := true, mon := true, sys := true, out := true } bl = true) (hev : Keeps bl s0 s) :
    Keeps bl s0 (State.serveWaymark s i c tx b) := by
  unfold State.serveWaymark
  repeat' first
    | with_reducible assumption
    | exact Blocks.le_trans rfl hm
    | with_reducible apply State.countUse_fr
    | with_reducible apply State.fspViolation_fr
    | with_reducible apply State.judgeWaymark_fr
    | with_reducible apply State.malformed_fr
    | with_reducible apply State.recordAs_fr
    | with_reducible apply State.respond_fr
    | with_reducible apply keeps_ite
    | (with_reducible apply keeps_mk (a := { cn := true, time := true, mtr := true, rad := true, node := true, adm := true, fsp := true, dim := true, drv := true, can := true, evt := true, ford := true, cop := true, key := true, upd := true, way := true, mon := true, sys := true, out := true }) hm; dsimp only [cond_true, cond_false] <;> exact rfl; split)

theorem execWaymark_fr {bl : Blocks} {s0 s1 : State} (sess : Fin 4) (role : Byte) (tx : Word) (body : List Byte) {s : State} (e : execWaymark sess role tx body s = .next s1)
    (hm : Blocks.le { cn := true, time := true, mtr := true, rad := true, node := true, adm := true, fsp := true, dim := true, drv := true, can := true, evt := true, ford := true, cop := true, key := true, upd := true, way := true, mon := true, sys := true, out := true } bl = true) (hev : Keeps bl s0 s) : Keeps bl s0 s1 := by
  unfold execWaymark at e
  refine keeps_next e ?_
  repeat' first
    | with_reducible assumption
    | exact Blocks.le_trans rfl hm
    | refine fun (_ : Keeps _ _ _) => ?_
    | with_reducible apply keeps_whenLive
    | with_reducible apply State.request_fr
    | with_reducible apply State.serveWaymark_fr
    | intro x

theorem State.triggerKc_fr {bl : Blocks} {s0 : State} {s : State} (k : Nat)
    (hm : Blocks.le { dim := true, evt := true, way := true, freeIdx := true } bl = true) (hev : Keeps bl s0 s) :
    Keeps bl s0 (State.triggerKc s k) := by
  unfold State.triggerKc
  repeat' first
    | with_reducible assumption
    | exact Blocks.le_trans rfl hm
    | with_reducible apply State.drawNat_fr
    | with_reducible apply State.kcPlanned_fr
    | with_reducible apply State.modKc_fr
    | with_reducible apply keeps_ite
    | (with_reducible apply keeps_mk (a := { dim := true, evt := true, way := true, freeIdx := true }) hm; dsimp only [cond_true, cond_false] <;> exact rfl; split)

theorem State.triggerTarget_fr {bl : Blocks} {s0 : State} {s : State} (target index : Nat)
    (hm : Blocks.le { dim := true, drv := true, evt := true, way := true, freeIdx := true } bl = true) (hev : Keeps bl s0 s) :
    Keeps bl s0 (State.triggerTarget s target index) := by
  unfold State.triggerTarget
  repeat' first
    | with_reducible assumption
    | exact Blocks.le_trans rfl hm
    | with_reducible apply State.triggerChannel_fr
    | with_reducible apply State.triggerKc_fr
    | with_reducible apply State.triggerPe_fr
    | with_reducible apply keeps_ite

theorem State.fireTrigger_fr {bl : Blocks} {s0 : State} {s : State} (k : Fin 16)
    (hm : Blocks.le { time := true, dim := true, drv := true, evt := true, way := true, freeIdx := true } bl = true) (hev : Keeps bl s0 s) :
    Keeps bl s0 (State.fireTrigger s k) := by
  unfold State.fireTrigger
  repeat' first
    | with_reducible assumption
    | exact Blocks.le_trans rfl hm
    | with_reducible apply State.modTrigger_fr
    | with_reducible apply State.trgEvent_fr
    | with_reducible apply State.triggerTarget_fr
    | with_reducible apply keeps_ite

theorem execTriggerFire_fr {bl : Blocks} {s0 s1 : State} (unit : Fin 16) (tick : Nat) {s : State} (e : execTriggerFire unit tick s = .next s1)
    (hm : Blocks.le { time := true, dim := true, drv := true, evt := true, way := true, freeIdx := true } bl = true) (hev : Keeps bl s0 s) : Keeps bl s0 s1 := by
  unfold execTriggerFire at e
  refine keeps_next e ?_
  repeat' first
    | with_reducible assumption
    | exact Blocks.le_trans rfl hm
    | refine fun (_ : Keeps _ _ _) => ?_
    | with_reducible apply keeps_whenLive
    | with_reducible apply State.advanceTo_fr
    | with_reducible apply State.fireTrigger_fr
    | intro x

end Sys2Proof.Machine
end

