-- ==== Sys2Proof/Laws/FrSettings.lean ====
section
/-! SUPPORT. Every operation of Machine/Settings.lean keeps what it does not name (Safety.lean). -/

set_option Elab.async false

namespace Sys2Proof.Machine

theorem State.answerPut_fr {bl : Blocks} {s0 : State} {s : State} (i : Fin 4) (tx : Nat) (r : Reason)
    (hm : Blocks.le { out := true } bl = true) (hev : Keeps bl s0 s) :
    Keeps bl s0 (State.answerPut s i tx r) := by
  unfold State.answerPut
  repeat' first | with_reducible assumption | with_reducible apply State.respond_fr

theorem State.recordPut_fr {bl : Blocks} {s0 : State} {s : State} (i : Fin 4) (c : Session) (tx : Nat) (r : Reason)
    (hm : Blocks.le { evt := true, way := true } bl = true) (hev : Keeps bl s0 s) :
    Keeps bl s0 (State.recordPut s i c tx r) := by
  unfold State.recordPut
  repeat' first
    | with_reducible assumption
    | refine fun (_ : Keeps _ _ _) => ?_
    | with_reducible apply keeps_iff
    | with_reducible apply State.recordAs_fr
    | intro x

theorem State.acceptPut_fr {bl : Blocks} {s0 : State} {s : State} (id : Nat) (replace : Bool) (cn : Cn) (new : List (List Byte))
    (hm : Blocks.le { rad := true, node := true, adm := true, fsp := true, dim := true, evt := true, way := true, freeIdx := true } bl = true) (hev : Keeps bl s0 s) :
    Keeps bl s0 (State.acceptPut s id replace cn new) := by
  unfold State.acceptPut
  repeat' first
    | with_reducible assumption
    | exact Blocks.le_trans rfl hm
    | with_reducible apply State.announceTable_fr
    | with_reducible apply State.clearContactors_fr
    | with_reducible apply State.enforceTable_fr
    | with_reducible apply State.growEpoch_fr
    | with_reducible apply keeps_ite
    | (with_reducible apply keeps_mk (a := { rad := true, node := true, adm := true, fsp := true, dim := true, evt := true, way := true, freeIdx := true }) hm; dsimp only [cond_true, cond_false] <;> exact rfl; with_reducible assumption)

theorem State.configPut_fr {bl : Blocks} {s0 : State} {s : State} (i : Fin 4) (c : Session) (tx : Nat) (b : List Byte)
    (hm : Blocks.le { rad := true, node := true, adm := true, fsp := true, dim := true, evt := true, way := true, out := true, freeIdx := true } bl = true) (hev : Keeps bl s0 s) :
    Keeps bl s0 (State.configPut s i c tx b) := by
  unfold State.configPut
  repeat' first
    | with_reducible assumption
    | exact Blocks.le_trans rfl hm
    | with_reducible apply State.acceptPut_fr
    | with_reducible apply State.answerPut_fr
    | with_reducible apply State.fspViolation_fr
    | with_reducible apply State.recordPut_fr
    | with_reducible apply keeps_ite
    | (with_reducible apply keeps_mk (a := { rad := true, node := true, adm := true, fsp := true, dim := true, evt := true, way := true, out := true, freeIdx := true }) hm; dsimp only [cond_true, cond_false] <;> exact rfl; split)

theorem execConfigPut_fr {bl : Blocks} {s0 s1 : State} (sess : Fin 4) (role : Byte) (tx : Word) (body : List Byte) {s : State} (e : execConfigPut sess role tx body s = .next s1)
    (hm : Blocks.le { rad := true, node := true, adm := true, fsp := true, dim := true, evt := true, way := true, out := true, freeIdx := true } bl = true) (hev : Keeps bl s0 s) : Keeps bl s0 s1 := by
  unfold execConfigPut at e
  refine keeps_next e ?_
  repeat' first
    | with_reducible assumption
    | exact Blocks.le_trans rfl hm
    | refine fun (_ : Keeps _ _ _) => ?_
    | with_reducible apply keeps_whenLive
    | with_reducible apply State.configPut_fr
    | with_reducible apply State.request_fr
    | intro x

theorem State.configGet_fr {bl : Blocks} {s0 : State} {s : State} (i : Fin 4) (c : Session) (tx : Nat) (b : List Byte)
    (hm : Blocks.le { adm := true, fsp := true, evt := true, way := true, out := true } bl = true) (hev : Keeps bl s0 s) :
    Keeps bl s0 (State.configGet s i c tx b) := by
  unfold State.configGet
  repeat' first
    | with_reducible assumption
    | exact Blocks.le_trans rfl hm
    | with_reducible apply State.countUse_fr
    | with_reducible apply State.malformed_fr
    | with_reducible apply State.respond_fr
    | with_reducible apply keeps_ite

theorem execConfigGet_fr {bl : Blocks} {s0 s1 : State} (sess : Fin 4) (role : Byte) (tx : Word) (body : List Byte) {s : State} (e : execConfigGet sess role tx body s = .next s1)
    (hm : Blocks.le { adm := true, fsp := true, evt := true, way := true, out := true } bl = true) (hev : Keeps bl s0 s) : Keeps bl s0 s1 := by
  unfold execConfigGet at e
  refine keeps_next e ?_
  repeat' first
    | with_reducible assumption
    | refine fun (_ : Keeps _ _ _) => ?_
    | with_reducible apply keeps_whenLive
    | with_reducible apply State.configGet_fr
    | with_reducible apply State.request_fr
    | intro x

theorem State.digestAnswer_fr {bl : Blocks} {s0 : State} {s : State} (i : Fin 4) (c : Session) (tx : Nat) (b : List Byte)
    (hm : Blocks.le { adm := true, fsp := true, evt := true, way := true, out := true } bl = true) (hev : Keeps bl s0 s) :
    Keeps bl s0 (State.digestAnswer s i c tx b) := by
  unfold State.digestAnswer
  repeat' first
    | with_reducible assumption
    | exact Blocks.le_trans rfl hm
    | with_reducible apply State.countUse_fr
    | with_reducible apply State.malformed_fr
    | with_reducible apply State.respond_fr
    | with_reducible apply keeps_ite

theorem execDigest_fr {bl : Blocks} {s0 s1 : State} (sess : Fin 4) (role : Byte) (tx : Word) (body : List Byte) {s : State} (e : execDigest sess role tx body s = .next s1)
    (hm : Blocks.le { adm := true, fsp := true, evt := true, way := true, out := true } bl = true) (hev : Keeps bl s0 s) : Keeps bl s0 s1 := by
  unfold execDigest at e
  refine keeps_next e ?_
  repeat' first
    | with_reducible assumption
    | refine fun (_ : Keeps _ _ _) => ?_
    | with_reducible apply keeps_whenLive
    | with_reducible apply State.digestAnswer_fr
    | with_reducible apply State.request_fr
    | intro x

theorem execUartOctet_fr {bl : Blocks} {s0 s1 : State} (port : Fin 3) (data : Byte) (framing brk : Bool) {s : State} (e : execUartOctet port data framing brk s = .next s1)
    (hm : Blocks.le { que := true, evt := true, fld := true } bl = true) (hev : Keeps bl s0 s) : Keeps bl s0 s1 := by
  unfold execUartOctet at e
  refine keeps_next e ?_
  repeat' first
    | with_reducible assumption
    | exact Blocks.le_trans rfl hm
    | refine fun (_ : Keeps _ _ _) => ?_
    | with_reducible apply keeps_iff
    | with_reducible apply keeps_whenLive
    | (with_reducible apply keeps_mk (a := { que := true, evt := true, fld := true }) hm; dsimp only [cond_true, cond_false] <;> exact rfl; (first | with_reducible apply State.pushWord_fr | split))
    | intro x

theorem execEthLinkChange_fr {bl : Blocks} {s0 s1 : State} (port : Fin 2) (up : Bool) {s : State} (e : execEthLinkChange port up s = .next s1)
    (hm : Blocks.le { time := true, adm := true, fsp := true, evt := true, way := true, fld := true, out := true, freeIdx := true } bl = true) (hev : Keeps bl s0 s) : Keeps bl s0 s1 := by
  unfold execEthLinkChange at e
  refine keeps_next e ?_
  repeat' first
    | with_reducible assumption
    | exact Blocks.le_trans rfl hm
    | refine fun (_ : Keeps _ _ _) => ?_
    | with_reducible apply keeps_whenLive
    | with_reducible apply State.checkSource_fr
    | with_reducible apply State.closeSession_fr
    | with_reducible apply keeps_ite
    | (with_reducible apply keeps_mk (a := { time := true, adm := true, fsp := true, evt := true, way := true, fld := true, out := true, freeIdx := true }) hm; dsimp only [cond_true, cond_false] <;> exact rfl; (first | with_reducible assumption | with_reducible apply keeps_forEach | split))
    | intro x

end Sys2Proof.Machine
end

