-- ==== Sys2Proof/Laws/FrPins.lean ====
section
/-! SUPPORT. Every operation of Machine/Pins.lean keeps what it does not name (Safety.lean). -/

set_option Elab.async false

namespace Sys2Proof.Machine

theorem execKcOvercurrent_fr {bl : Blocks} {s0 s1 : State} (k : Fin 4) {s : State} (e : execKcOvercurrent k s = .next s1)
    (hm : Blocks.le { dim := true, fld := true } bl = true) (hev : Keeps bl s0 s) : Keeps bl s0 s1 := by
  unfold execKcOvercurrent at e
  refine keeps_next e ?_
  repeat' first
    | with_reducible assumption
    | exact Blocks.le_trans rfl hm
    | refine fun (_ : Keeps _ _ _) => ?_
    | with_reducible apply keeps_iff
    | with_reducible apply keeps_whenLive
    | (with_reducible apply keeps_mk (a := { dim := true, fld := true }) hm; dsimp only [cond_true, cond_false] <;> exact rfl; with_reducible apply State.modKc_fr)
    | intro x

theorem execKcOpenLoad_fr {bl : Blocks} {s0 s1 : State} (k : Fin 4) (isOpen : Bool) {s : State} (e : execKcOpenLoad k isOpen s = .next s1)
    (hm : Blocks.le { fld := true } bl = true) (hev : Keeps bl s0 s) : Keeps bl s0 s1 := by
  unfold execKcOpenLoad at e
  refine keeps_next e ?_
  repeat' first
    | with_reducible assumption
    | refine fun (_ : Keeps _ _ _) => ?_
    | with_reducible apply keeps_iff
    | with_reducible apply keeps_whenLive
    | (with_reducible apply keeps_mk (a := { fld := true }) hm; dsimp only [cond_true, cond_false] <;> exact rfl; with_reducible assumption)
    | intro x

theorem execModPowerOvercurrent_fr {bl : Blocks} {s0 s1 : State} (ma : Fin 65536) (ok : Bool) {s : State} (e : execModPowerOvercurrent ma ok s = .next s1)
    (hm : Blocks.le { fld := true } bl = true) (hev : Keeps bl s0 s) : Keeps bl s0 s1 := by
  unfold execModPowerOvercurrent at e
  refine keeps_next e ?_
  repeat' first
    | with_reducible assumption
    | refine fun (_ : Keeps _ _ _) => ?_
    | with_reducible apply keeps_iff
    | with_reducible apply keeps_whenLive
    | (with_reducible apply keeps_mk (a := { fld := true }) hm; dsimp only [cond_true, cond_false] <;> exact rfl; with_reducible assumption)
    | intro x

theorem execRs485IdleAfterFrame_fr {bl : Blocks} {s0 s1 : State} (port : Fin 2) {s : State} (e : execRs485IdleAfterFrame port s = .next s1)
    (hm : Blocks.le { evt := true } bl = true) (hev : Keeps bl s0 s) : Keeps bl s0 s1 := by
  unfold execRs485IdleAfterFrame at e
  refine keeps_next e ?_
  repeat' first
    | with_reducible assumption
    | refine fun (_ : Keeps _ _ _) => ?_
    | with_reducible apply keeps_iff
    | with_reducible apply keeps_whenLive
    | with_reducible apply State.postTile_fr
    | intro x

end Sys2Proof.Machine
end

