-- ==== Sys2Proof/Laws/FrUpd.lean ====
section
/-! SUPPORT. Every operation of Machine/Upd.lean keeps what it does not name (Safety.lean). -/

set_option Elab.async false

namespace Sys2Proof.Machine

theorem State.recordUpdate_fr {bl : Blocks} {s0 : State} {s : State} (role : Role) (reason : Reason) (payload : List Byte)
    (hm : Blocks.le { evt := true, way := true } bl = true) (hev : Keeps bl s0 s) :
    Keeps bl s0 (State.recordUpdate s role reason payload) := by
  unfold State.recordUpdate
  repeat' first | with_reducible assumption | with_reducible apply State.recordAs_fr

theorem State.noteUse_fr {bl : Blocks} {s0 : State} {s : State} (i : Fin 4) (c : Session) (type tx new : Nat)
    (hm : Blocks.le { fsp := true, evt := true, way := true } bl = true) (hev : Keeps bl s0 s) :
    Keeps bl s0 (State.noteUse s i c type tx new) := by
  unfold State.noteUse
  repeat' first
    | with_reducible assumption
    | exact Blocks.le_trans rfl hm
    | with_reducible apply State.countUse_fr
    | with_reducible apply State.recordAs_fr
    | with_reducible apply keeps_ite

theorem State.answerOffer_fr {bl : Blocks} {s0 : State} {s : State} (i : Fin 4) (tx : Nat) (r : Reason) (flagBits id held : Nat)
    (hm : Blocks.le { out := true } bl = true) (hev : Keeps bl s0 s) :
    Keeps bl s0 (State.answerOffer s i tx r flagBits id held) := by
  unfold State.answerOffer
  repeat' first | with_reducible assumption | with_reducible apply State.respond_fr

theorem State.openUpdate_fr {bl : Blocks} {s0 : State} {s : State} (m : Manifest) (b : List Byte) (digest : BitVec 256)
    (hm : Blocks.le { evt := true, upd := true, way := true, freeIdx := true } bl = true) (hev : Keeps bl s0 s) :
    Keeps bl s0 (State.openUpdate s m b digest) := by
  unfold State.openUpdate
  repeat' first
    | with_reducible assumption
    | exact Blocks.le_trans rfl hm
    | with_reducible apply State.sessionChanged_fr
    | with_reducible apply State.sessionPhase_fr
    | (with_reducible apply keeps_mk (a := { evt := true, upd := true, way := true, freeIdx := true }) hm; dsimp only [cond_true, cond_false] <;> exact rfl; with_reducible apply State.drawNat_fr)

theorem State.judgeOffer_fr {bl : Blocks} {s0 : State} {s : State} (i : Fin 4) (c : Session) (tx : Nat) (b : List Byte) (digest : BitVec 256) (signed preempts : Bool) (seq length count : Nat)
    (hm : Blocks.le { adm := true, fsp := true, evt := true, upd := true, way := true, out := true, freeIdx := true } bl = true) (hev : Keeps bl s0 s) :
    Keeps bl s0 (State.judgeOffer s i c tx b digest signed preempts seq length count) := by
  unfold State.judgeOffer
  repeat' first
    | with_reducible assumption
    | exact Blocks.le_trans rfl hm
    | with_reducible apply State.answerOffer_fr
    | with_reducible apply State.fspViolation_fr
    | with_reducible apply State.noteUse_fr
    | with_reducible apply State.openUpdate_fr
    | with_reducible apply State.recordUpdate_fr
    | with_reducible apply keeps_ite
    | (with_reducible apply keeps_mk (a := { adm := true, fsp := true, evt := true, upd := true, way := true, out := true, freeIdx := true }) hm; dsimp only [cond_true, cond_false] <;> exact rfl; (first | with_reducible assumption | split))

theorem State.updateOffer_fr {bl : Blocks} {s0 : State} {s : State} (i : Fin 4) (c : Session) (tx : Nat) (body : List Byte) (signed : Bool)
    (hm : Blocks.le { adm := true, fsp := true, evt := true, upd := true, way := true, out := true, freeIdx := true } bl = true) (hev : Keeps bl s0 s) :
    Keeps bl s0 (State.updateOffer s i c tx body signed) := by
  unfold State.updateOffer
  repeat' first
    | with_reducible assumption
    | exact Blocks.le_trans rfl hm
    | with_reducible apply State.answerOffer_fr
    | with_reducible apply State.fspViolation_fr
    | with_reducible apply State.judgeOffer_fr
    | with_reducible apply State.noteUse_fr
    | with_reducible apply keeps_ite
    | (with_reducible apply keeps_mk (a := { adm := true, fsp := true, evt := true, upd := true, way := true, out := true, freeIdx := true }) hm; dsimp only [cond_true, cond_false] <;> exact rfl; (first | with_reducible assumption | split))

theorem execUpdateOffer_fr {bl : Blocks} {s0 s1 : State} (sess : Fin 4) (role : Byte) (tx : Word) (body : List Byte) (signed : Bool) {s : State} (e : execUpdateOffer sess role tx body signed s = .next s1)
    (hm : Blocks.le { adm := true, fsp := true, evt := true, upd := true, way := true, out := true, freeIdx := true } bl = true) (hev : Keeps bl s0 s) : Keeps bl s0 s1 := by
  unfold execUpdateOffer at e
  refine keeps_next e ?_
  repeat' first
    | with_reducible assumption
    | exact Blocks.le_trans rfl hm
    | refine fun (_ : Keeps _ _ _) => ?_
    | with_reducible apply keeps_whenLive
    | with_reducible apply State.request_fr
    | with_reducible apply State.updateOffer_fr
    | intro x

theorem State.updateChunk_fr {bl : Blocks} {s0 : State} {s : State} (i : Fin 4) (c : Session) (tx : Nat) (b : List Byte) (tag : Bool) (plain : List Byte)
    (hm : Blocks.le { adm := true, fsp := true, evt := true, upd := true, way := true, out := true } bl = true) (hev : Keeps bl s0 s) :
    Keeps bl s0 (State.updateChunk s i c tx b tag plain) := by
  unfold State.updateChunk
  repeat' first
    | with_reducible assumption
    | exact Blocks.le_trans rfl hm
    | with_reducible apply State.fspViolation_fr
    | with_reducible apply State.noteUse_fr
    | with_reducible apply State.respond_fr
    | with_reducible apply keeps_ite
    | (with_reducible apply keeps_mk (a := { adm := true, fsp := true, evt := true, upd := true, way := true, out := true }) hm; dsimp only [cond_true, cond_false] <;> exact rfl; (first | with_reducible assumption | split))

theorem execUpdateChunk_fr {bl : Blocks} {s0 s1 : State} (sess : Fin 4) (role : Byte) (tx : Word) (body : List Byte) (tag : Bool) (plain : List Byte) {s : State} (e : execUpdateChunk sess role tx body tag plain s = .next s1)
    (hm : Blocks.le { adm := true, fsp := true, evt := true, upd := true, way := true, out := true } bl = true) (hev : Keeps bl s0 s) : Keeps bl s0 s1 := by
  unfold execUpdateChunk at e
  refine keeps_next e ?_
  repeat' first
    | with_reducible assumption
    | exact Blocks.le_trans rfl hm
    | refine fun (_ : Keeps _ _ _) => ?_
    | with_reducible apply keeps_whenLive
    | with_reducible apply State.request_fr
    | with_reducible apply State.updateChunk_fr
    | intro x

theorem State.updateState_fr {bl : Blocks} {s0 : State} {s : State} (i : Fin 4) (c : Session) (tx : Nat) (b : List Byte)
    (hm : Blocks.le { adm := true, fsp := true, evt := true, upd := true, way := true, out := true } bl = true) (hev : Keeps bl s0 s) :
    Keeps bl s0 (State.updateState s i c tx b) := by
  unfold State.updateState
  repeat' first
    | with_reducible assumption
    | exact Blocks.le_trans rfl hm
    | with_reducible apply State.countUse_fr
    | with_reducible apply State.malformed_fr
    | with_reducible apply State.respond_fr
    | with_reducible apply keeps_ite
    | (with_reducible apply keeps_mk (a := { adm := true, fsp := true, evt := true, upd := true, way := true, out := true }) hm; dsimp only [cond_true, cond_false] <;> exact rfl; (first | with_reducible apply State.countUse_fr | split))

theorem execUpdateState_fr {bl : Blocks} {s0 s1 : State} (sess : Fin 4) (role : Byte) (tx : Word) (body : List Byte) {s : State} (e : execUpdateState sess role tx body s = .next s1)
    (hm : Blocks.le { adm := true, fsp := true, evt := true, upd := true, way := true, out := true } bl = true) (hev : Keeps bl s0 s) : Keeps bl s0 s1 := by
  unfold execUpdateState at e
  refine keeps_next e ?_
  repeat' first
    | with_reducible assumption
    | exact Blocks.le_trans rfl hm
    | refine fun (_ : Keeps _ _ _) => ?_
    | with_reducible apply keeps_whenLive
    | with_reducible apply State.request_fr
    | with_reducible apply State.updateState_fr
    | intro x

theorem State.abortUpdate_fr {bl : Blocks} {s0 : State} {s : State}
    (hm : Blocks.le { fsp := true, can := true, evt := true, ford := true, key := true, upd := true, way := true, freeIdx := true } bl = true) (hev : Keeps bl s0 s) :
    Keeps bl s0 (State.abortUpdate s).2 := by
  unfold State.abortUpdate
  repeat' first
    | with_reducible assumption
    | exact Blocks.le_trans rfl hm
    | with_reducible apply State.openCheck_fr
    | with_reducible apply State.openReason_fr
    | with_reducible apply State.stopUpdate_fr
    | with_reducible apply keeps_ite_snd
    | (with_reducible apply keeps_mk (a := { fsp := true, can := true, evt := true, ford := true, key := true, upd := true, way := true, freeIdx := true }) hm; dsimp only [cond_true, cond_false] <;> exact rfl; split)

theorem State.abortUpdate_keq {bl : Blocks} {s0 sx : State} {s : State} {qx : Reason} (e : (State.abortUpdate s) = (qx, sx))
    (hm : Blocks.le { fsp := true, can := true, evt := true, ford := true, key := true, upd := true, way := true, freeIdx := true } bl = true) (hev : Keeps bl s0 s) : Keeps bl s0 sx := by
  have g := State.abortUpdate_fr  hm hev
  rw [e] at g
  exact g

theorem State.updateActivate_fr {bl : Blocks} {s0 : State} {s : State} (i : Fin 4) (c : Session) (tx : Nat) (b : List Byte)
    (hm : Blocks.le { adm := true, fsp := true, can := true, evt := true, ford := true, key := true, upd := true, way := true, out := true, freeIdx := true } bl = true) (hev : Keeps bl s0 s) :
    Keeps bl s0 (State.updateActivate s i c tx b) := by
  unfold State.updateActivate
  repeat' first
    | with_reducible assumption
    | exact Blocks.le_trans rfl hm
    | with_reducible apply State.abortUpdate_fr
    | with_reducible apply State.malformed_fr
    | with_reducible apply State.recordAs_fr
    | with_reducible apply State.respond_fr
    | with_reducible apply State.sessionChanged_fr
    | with_reducible apply State.stepPhase_fr
    | with_reducible apply keeps_ite
    | (with_reducible apply keeps_mk (a := { adm := true, fsp := true, can := true, evt := true, ford := true, key := true, upd := true, way := true, out := true, freeIdx := true }) hm; dsimp only [cond_true, cond_false] <;> exact rfl; (first | with_reducible assumption | split))

theorem execUpdateActivate_fr {bl : Blocks} {s0 s1 : State} (sess : Fin 4) (role : Byte) (tx : Word) (body : List Byte) {s : State} (e : execUpdateActivate sess role tx body s = .next s1)
    (hm : Blocks.le { adm := true, fsp := true, can := true, evt := true, ford := true, key := true, upd := true, way := true, out := true, freeIdx := true } bl = true) (hev : Keeps bl s0 s) : Keeps bl s0 s1 := by
  unfold execUpdateActivate at e
  refine keeps_next e ?_
  repeat' first
    | with_reducible assumption
    | exact Blocks.le_trans rfl hm
    | refine fun (_ : Keeps _ _ _) => ?_
    | with_reducible apply keeps_whenLive
    | with_reducible apply State.request_fr
    | with_reducible apply State.updateActivate_fr
    | intro x

theorem State.validationFails_fr {bl : Blocks} {s0 : State} {s : State} (r : Reason) (index : Option Nat)
    (hm : Blocks.le { can := true, evt := true, upd := true, way := true } bl = true) (hev : Keeps bl s0 s) :
    Keeps bl s0 (State.validationFails s r index) := by
  unfold State.validationFails
  repeat' first
    | with_reducible assumption
    | exact Blocks.le_trans rfl hm
    | with_reducible apply State.endUpdate_fr
    | with_reducible apply State.recordUpdate_fr
    | with_reducible apply State.refuseImage_fr
    | with_reducible apply State.stepPhase_fr
    | (with_reducible apply keeps_mk (a := { can := true, evt := true, upd := true, way := true }) hm; dsimp only [cond_true, cond_false] <;> exact rfl; split)

theorem State.rewrap_fr {bl : Blocks} {s0 : State} {s : State} (a : Activation)
    (hm : Blocks.le { evt := true, key := true, upd := true, way := true } bl = true) (hev : Keeps bl s0 s) :
    Keeps bl s0 (State.rewrap s a) := by
  unfold State.rewrap
  repeat' first
    | with_reducible assumption
    | exact Blocks.le_trans rfl hm
    | with_reducible apply State.setSlot_fr
    | (with_reducible apply keeps_mk (a := { evt := true, key := true, upd := true, way := true }) hm; dsimp only [cond_true, cond_false] <;> exact rfl; with_reducible apply State.stepPhase_fr)

theorem State.validated_fr {bl : Blocks} {s0 : State} {s : State} (a : Activation)
    (hm : Blocks.le { rad := true, can := true, evt := true, key := true, upd := true, way := true } bl = true) (hev : Keeps bl s0 s) :
    Keeps bl s0 (State.validated s a) := by
  unfold State.validated
  repeat' first
    | with_reducible assumption
    | exact Blocks.le_trans rfl hm
    | refine fun (_ : Keeps _ _ _) => ?_
    | with_reducible apply keeps_forEach
    | with_reducible apply State.completeUpdate_fr
    | with_reducible apply State.modActivation_fr
    | with_reducible apply State.rewrap_fr
    | with_reducible apply State.startCaravan_fr
    | with_reducible apply State.stepPhase_fr
    | (with_reducible apply keeps_mk (a := { rad := true, can := true, evt := true, key := true, upd := true, way := true }) hm; dsimp only [cond_true, cond_false] <;> exact rfl; (first | with_reducible apply State.stepPhase_fr | split))
    | intro x

theorem execValidationDone_fr {bl : Blocks} {s0 s1 : State} (decrypted signed : Bool) {s : State} (e : execValidationDone decrypted signed s = .next s1)
    (hm : Blocks.le { rad := true, can := true, evt := true, key := true, upd := true, way := true, freeIdx := true } bl = true) (hev : Keeps bl s0 s) : Keeps bl s0 s1 := by
  unfold execValidationDone at e
  refine keeps_next e ?_
  repeat' first
    | with_reducible assumption
    | exact Blocks.le_trans rfl hm
    | refine fun (_ : Keeps _ _ _) => ?_
    | with_reducible apply keeps_iff
    | with_reducible apply keeps_whenLive
    | with_reducible apply State.openReason_fr
    | with_reducible apply State.validated_fr
    | with_reducible apply State.validationFails_fr
    | with_reducible apply keeps_ite
    | (with_reducible apply keeps_mk (a := { rad := true, can := true, evt := true, key := true, upd := true, way := true, freeIdx := true }) hm; dsimp only [cond_true, cond_false] <;> exact rfl; split)
    | intro x

theorem State.checkFailed_fr {bl : Blocks} {s0 : State} {s : State} (a : Activation) (check : Nat)
    (hm : Blocks.le { evt := true, upd := true, way := true } bl = true) (hev : Keeps bl s0 s) :
    Keeps bl s0 (State.checkFailed s a check) := by
  unfold State.checkFailed
  repeat' first
    | exact Blocks.le_trans rfl hm
    | with_reducible apply State.recordUpdate_fr
    | with_reducible apply keeps_ite
    | (with_reducible apply keeps_mk (a := { evt := true, upd := true, way := true }) hm; dsimp only [cond_true, cond_false] <;> exact rfl; with_reducible assumption)

theorem State.stageTick_fr {bl : Blocks} {s0 : State} {s : State}
    (hm : Blocks.le { rad := true, can := true, evt := true, ford := true, cop := true, upd := true, way := true, freeIdx := true } bl = true) (hev : Keeps bl s0 s) :
    Keeps bl s0 (State.stageTick s) := by
  unfold State.stageTick
  repeat' first
    | with_reducible assumption
    | exact Blocks.le_trans rfl hm
    | with_reducible apply State.cutStand_fr
    | with_reducible apply State.modActivation_fr
    | with_reducible apply State.modStand_fr
    | with_reducible apply State.setStand_fr
    | with_reducible apply State.standbyLost_fr
    | with_reducible apply State.stepPhase_fr
    | with_reducible apply keeps_ite
    | (with_reducible apply keeps_mk (a := { rad := true, can := true, evt := true, ford := true, cop := true, upd := true, way := true, freeIdx := true }) hm; dsimp only [cond_true, cond_false] <;> exact rfl; split)

theorem execStaged_fr {bl : Blocks} {s0 s1 : State} (measured : BitVec 256) (areaGood : Bool) {s : State} (e : execStaged measured areaGood s = .next s1)
    (hm : Blocks.le { can := true, evt := true, ford := true, upd := true, way := true, freeIdx := true } bl = true) (hev : Keeps bl s0 s) : Keeps bl s0 s1 := by
  unfold execStaged at e
  refine keeps_next e ?_
  repeat' first
    | with_reducible assumption
    | exact Blocks.le_trans rfl hm
    | refine fun (_ : Keeps _ _ _) => ?_
    | with_reducible apply keeps_iff
    | with_reducible apply keeps_whenLive
    | with_reducible apply State.checkFailed_fr
    | with_reducible apply State.openReason_fr
    | with_reducible apply State.rollBack_fr
    | with_reducible apply State.stepPhase_fr
    | (with_reducible apply keeps_mk (a := { can := true, evt := true, ford := true, upd := true, way := true, freeIdx := true }) hm; dsimp only [cond_true, cond_false] <;> exact rfl; split)
    | intro x

theorem execShadowCaughtUp_fr {bl : Blocks} {s0 s1 : State} {s : State} (e : execShadowCaughtUp s = .next s1)
    (hm : Blocks.le { evt := true, ford := true, upd := true, way := true } bl = true) (hev : Keeps bl s0 s) : Keeps bl s0 s1 := by
  unfold execShadowCaughtUp at e
  refine keeps_next e ?_
  repeat' first
    | with_reducible assumption
    | exact Blocks.le_trans rfl hm
    | refine fun (_ : Keeps _ _ _) => ?_
    | with_reducible apply keeps_iff
    | with_reducible apply keeps_whenLive
    | with_reducible apply State.modActivation_fr
    | with_reducible apply State.setStand_fr
    | (with_reducible apply keeps_mk (a := { evt := true, ford := true, upd := true, way := true }) hm; dsimp only [cond_true, cond_false] <;> exact rfl; (first | with_reducible assumption | split))
    | intro x

theorem execCatchupTimeout_fr {bl : Blocks} {s0 s1 : State} {s : State} (e : execCatchupTimeout s = .next s1)
    (hm : Blocks.le { can := true, evt := true, ford := true, upd := true, way := true, freeIdx := true } bl = true) (hev : Keeps bl s0 s) : Keeps bl s0 s1 := by
  unfold execCatchupTimeout at e
  refine keeps_next e ?_
  repeat' first
    | with_reducible assumption
    | exact Blocks.le_trans rfl hm
    | refine fun (_ : Keeps _ _ _) => ?_
    | with_reducible apply keeps_iff
    | with_reducible apply keeps_whenLive
    | with_reducible apply State.openCheck_fr
    | with_reducible apply State.openReason_fr
    | with_reducible apply State.rollBack_fr
    | intro x

theorem execShadowEnd_fr {bl : Blocks} {s0 s1 : State} {s : State} (e : execShadowEnd s = .next s1)
    (hm : Blocks.le { ford := true } bl = true) (hev : Keeps bl s0 s) : Keeps bl s0 s1 := by
  unfold execShadowEnd at e
  refine keeps_next e ?_
  repeat' first
    | with_reducible assumption
    | refine fun (_ : Keeps _ _ _) => ?_
    | with_reducible apply keeps_iff
    | with_reducible apply keeps_whenLive
    | with_reducible apply State.requestSwitch_fr
    | (with_reducible apply keeps_mk (a := { ford := true }) hm; dsimp only [cond_true, cond_false] <;> exact rfl; split)
    | intro x

theorem State.switchTick_fr {bl : Blocks} {s0 : State} {s : State}
    (hm : Blocks.le { time := true, mtr := true, rad := true, adm := true, fsp := true, drv := true, can := true, que := true, evt := true, ford := true, cop := true, key := true, upd := true, way := true, mon := true, fld := true, regs := true, out := true, freeIdx := true } bl = true) (hev : Keeps bl s0 s) :
    Keeps bl s0 (State.switchTick s) := by
  unfold State.switchTick
  repeat' first
    | with_reducible assumption
    | exact Blocks.le_trans rfl hm
    | with_reducible apply State.commitHandover_fr
    | with_reducible apply State.fallbackSwitched_fr
    | with_reducible apply State.plannedSwitch_fr
    | with_reducible apply State.recordAs_fr
    | with_reducible apply keeps_ite
    | (with_reducible apply keeps_mk (a := { time := true, mtr := true, rad := true, adm := true, fsp := true, drv := true, can := true, que := true, evt := true, ford := true, cop := true, key := true, upd := true, way := true, mon := true, fld := true, regs := true, out := true, freeIdx := true }) hm; dsimp only [cond_true, cond_false] <;> exact rfl; (first | with_reducible assumption | split))

theorem State.rebootTick_fr {bl : Blocks} {s0 : State} {s : State}
    (hm : Blocks.le { cn := true, time := true, mtr := true, rad := true, node := true, adm := true, fsp := true, dim := true, drv := true, can := true, que := true, evt := true, ford := true, cop := true, key := true, upd := true, way := true, mon := true, fld := true, sys := true, regs := true, out := true, freeIdx := true } bl = true) (hev : Keeps bl s0 s) :
    Keeps bl s0 (State.rebootTick s) := by
  unfold State.rebootTick
  repeat' first
    | with_reducible assumption
    | exact Blocks.le_trans rfl hm
    | with_reducible apply State.adoptStores_fr
    | with_reducible apply State.modActivation_fr
    | with_reducible apply State.restart_fr
    | with_reducible apply State.saveMeter_fr
    | with_reducible apply State.stepPhase_fr
    | with_reducible apply keeps_ite
    | (with_reducible apply keeps_mk (a := { cn := true, time := true, mtr := true, rad := true, node := true, adm := true, fsp := true, dim := true, drv := true, can := true, que := true, evt := true, ford := true, cop := true, key := true, upd := true, way := true, mon := true, fld := true, sys := true, regs := true, out := true, freeIdx := true }) hm; dsimp only [cond_true, cond_false] <;> exact rfl; split)

theorem State.holdReboot_fr {bl : Blocks} {s0 : State} {s : State}
    (hm : Blocks.le { cn := true, time := true, mtr := true, rad := true, node := true, adm := true, fsp := true, dim := true, drv := true, can := true, que := true, evt := true, ford := true, cop := true, key := true, upd := true, way := true, mon := true, fld := true, sys := true, regs := true, out := true, freeIdx := true } bl = true) (hev : Keeps bl s0 s) :
    Keeps bl s0 (State.holdReboot s) := by
  unfold State.holdReboot
  repeat' first
    | with_reducible assumption
    | exact hm
    | exact Blocks.le_trans rfl hm
    | refine fun (_ : Keeps _ _ _) => ?_
    | with_reducible apply keeps_iff
    | with_reducible apply keeps_whenLive
    | with_reducible apply keeps_forEach
    | with_reducible apply State.rebootTick_fr
    | with_reducible apply keeps_ite
    | (with_reducible apply keeps_mk (a := { cn := true, time := true, mtr := true, rad := true, node := true, adm := true, fsp := true, dim := true, drv := true, can := true, que := true, evt := true, ford := true, cop := true, key := true, upd := true, way := true, mon := true, fld := true, sys := true, regs := true, out := true, freeIdx := true }) hm; dsimp only [cond_true, cond_false] <;> exact rfl; (first | with_reducible assumption | exact hm | exact Blocks.le_trans rfl hm | with_reducible apply keeps_iff | with_reducible apply keeps_whenLive | with_reducible apply keeps_forEach | with_reducible apply State.rebootTick_fr | with_reducible apply keeps_ite | split))
    | (intro x; refine keeps_cut (l := bl) (s0 := s0) (x := x) ?_ ?_; rotate_left; clear_value x; intro hx; rotate_left; subst x)
    | intro x
    | split
    | lift_lets
    | dsimp only

theorem execRebootDone_fr {bl : Blocks} {s0 s1 : State} (measured : BitVec 256) (areaGood : Bool) {s : State} (e : execRebootDone measured areaGood s = .next s1)
    (hm : Blocks.le { fsp := true, can := true, evt := true, ford := true, key := true, upd := true, way := true, freeIdx := true } bl = true) (hev : Keeps bl s0 s) : Keeps bl s0 s1 := by
  unfold execRebootDone at e
  refine keeps_next e ?_
  repeat' first
    | with_reducible assumption
    | exact Blocks.le_trans rfl hm
    | refine fun (_ : Keeps _ _ _) => ?_
    | with_reducible apply keeps_iff
    | with_reducible apply keeps_whenLive
    | with_reducible apply State.checkFailed_fr
    | with_reducible apply State.fallBack_fr
    | with_reducible apply State.openReason_fr
    | with_reducible apply State.stepPhase_fr
    | (with_reducible apply keeps_mk (a := { fsp := true, can := true, evt := true, ford := true, key := true, upd := true, way := true, freeIdx := true }) hm; dsimp only [cond_true, cond_false] <;> exact rfl; (first | with_reducible assumption | split))
    | intro x

theorem execConfirmWindowEnd_fr {bl : Blocks} {s0 s1 : State} {s : State} (e : execConfirmWindowEnd s = .next s1)
    (hm : Blocks.le { rad := true, evt := true, ford := true, upd := true, way := true } bl = true) (hev : Keeps bl s0 s) : Keeps bl s0 s1 := by
  unfold execConfirmWindowEnd at e
  refine keeps_next e ?_
  repeat' first
    | with_reducible assumption
    | refine fun (_ : Keeps _ _ _) => ?_
    | with_reducible apply keeps_iff
    | with_reducible apply keeps_whenLive
    | with_reducible apply State.confirmed_fr
    | (with_reducible apply keeps_mk (a := { rad := true, evt := true, ford := true, upd := true, way := true }) hm; dsimp only [cond_true, cond_false] <;> exact rfl; split)
    | intro x

theorem execConfirmCheckFail_fr {bl : Blocks} {s0 s1 : State} (check : Fin 7) (reason : Reason) {s : State} (e : execConfirmCheckFail check reason s = .next s1)
    (hm : Blocks.le { fsp := true, can := true, evt := true, ford := true, key := true, upd := true, way := true } bl = true) (hev : Keeps bl s0 s) : Keeps bl s0 s1 := by
  unfold execConfirmCheckFail at e
  refine keeps_next e ?_
  repeat' first
    | with_reducible assumption
    | exact Blocks.le_trans rfl hm
    | refine fun (_ : Keeps _ _ _) => ?_
    | with_reducible apply keeps_iff
    | with_reducible apply keeps_whenLive
    | with_reducible apply State.checkFailed_fr
    | with_reducible apply State.fallBack_fr
    | (with_reducible apply keeps_mk (a := { fsp := true, can := true, evt := true, ford := true, key := true, upd := true, way := true }) hm; dsimp only [cond_true, cond_false] <;> exact rfl; split)
    | intro x

theorem execStandRewritten_fr {bl : Blocks} {s0 s1 : State} (stand : Stand) {s : State} (e : execStandRewritten stand s = .next s1)
    (hm : Blocks.le { fsp := true, evt := true, ford := true, way := true, sys := true, out := true } bl = true) (hev : Keeps bl s0 s) : Keeps bl s0 s1 := by
  unfold execStandRewritten at e
  refine keeps_next e ?_
  repeat' first
    | with_reducible assumption
    | exact Blocks.le_trans rfl hm
    | refine fun (_ : Keeps _ _ _) => ?_
    | with_reducible apply keeps_iff
    | with_reducible apply keeps_whenLive
    | with_reducible apply State.beginLearning_fr
    | with_reducible apply State.modStand_fr
    | with_reducible apply keeps_ite
    | (with_reducible apply keeps_mk (a := { fsp := true, evt := true, ford := true, way := true, sys := true, out := true }) hm; dsimp only [cond_true, cond_false] <;> exact rfl; split)
    | intro x

theorem execUpdateLapse_fr {bl : Blocks} {s0 s1 : State} {s : State} (e : execUpdateLapse s = .next s1)
    (hm : Blocks.le { evt := true, upd := true, way := true } bl = true) (hev : Keeps bl s0 s) : Keeps bl s0 s1 := by
  unfold execUpdateLapse at e
  refine keeps_next e ?_
  repeat' first
    | with_reducible assumption
    | exact Blocks.le_trans rfl hm
    | refine fun (_ : Keeps _ _ _) => ?_
    | with_reducible apply keeps_iff
    | with_reducible apply keeps_whenLive
    | with_reducible apply State.endUpdate_fr
    | with_reducible apply State.recordUpdate_fr
    | with_reducible apply State.stepPhase_fr
    | (with_reducible apply keeps_mk (a := { evt := true, upd := true, way := true }) hm; dsimp only [cond_true, cond_false] <;> exact rfl; split)
    | intro x

theorem State.writeUpdCtrl_fr {bl : Blocks} {s0 : State} {s : State} (v : Nat) (w : Writer)
    (hm : Blocks.le { fsp := true, can := true, evt := true, ford := true, key := true, upd := true, way := true, regs := true, freeIdx := true } bl = true) (hev : Keeps bl s0 s) :
    Keeps bl s0 (State.writeUpdCtrl s v w).1 := by
  unfold State.writeUpdCtrl
  repeat' first
    | with_reducible assumption
    | exact Blocks.le_trans rfl hm
    | with_reducible apply State.abortUpdate_fr
    | with_reducible apply State.writeReg_fr
    | with_reducible apply keeps_ite_fst

theorem State.writeUpdCtrl_keq {bl : Blocks} {s0 sx : State} {s : State} {v : Nat} {w : Writer} {qx : Reason} (e : (State.writeUpdCtrl s v w) = (sx, qx))
    (hm : Blocks.le { fsp := true, can := true, evt := true, ford := true, key := true, upd := true, way := true, regs := true, freeIdx := true } bl = true) (hev : Keeps bl s0 s) : Keeps bl s0 sx := by
  have g := State.writeUpdCtrl_fr v w hm hev
  rw [e] at g
  exact g

theorem execUpdateAbort_fr {bl : Blocks} {s0 s1 : State} (w : Writer) {s : State} (e : execUpdateAbort w s = .next s1)
    (hm : Blocks.le { fsp := true, can := true, evt := true, ford := true, key := true, upd := true, way := true, regs := true, freeIdx := true } bl = true) (hev : Keeps bl s0 s) : Keeps bl s0 s1 := by
  unfold execUpdateAbort at e
  refine keeps_next e ?_
  repeat' first
    | with_reducible assumption
    | refine fun (_ : Keeps _ _ _) => ?_
    | with_reducible apply keeps_whenLive
    | with_reducible apply State.writeUpdCtrl_fr
    | intro x

theorem State.endedTick_fr {bl : Blocks} {s0 : State} {s : State}
    (hm : Blocks.le { evt := true, upd := true } bl = true) (hev : Keeps bl s0 s) :
    Keeps bl s0 (State.endedTick s) := by
  unfold State.endedTick
  repeat' first | with_reducible assumption | with_reducible apply State.endUpdate_fr | with_reducible apply keeps_ite

theorem State.modCarNode_fr {bl : Blocks} {s0 : State} {s : State} (id eui : Nat) (f : CarNode → CarNode)
    (hm : Blocks.le { upd := true } bl = true) (hev : Keeps bl s0 s) :
    Keeps bl s0 (State.modCarNode s id eui f) := by
  unfold State.modCarNode
  repeat' first | with_reducible assumption | with_reducible apply State.modCaravan_fr

theorem State.caravanSend_fr {bl : Blocks} {s0 : State} {s : State} (c : Caravan) (x : CarNode)
    (hm : Blocks.le { rad := true, upd := true } bl = true) (hev : Keeps bl s0 s) :
    Keeps bl s0 (State.caravanSend s c x) := by
  unfold State.caravanSend
  repeat' first
    | with_reducible assumption
    | exact Blocks.le_trans rfl hm
    | with_reducible apply State.modCarNode_fr
    | with_reducible apply State.sendNode_fr
    | with_reducible apply keeps_ite
    | (with_reducible apply keeps_mk (a := { rad := true, upd := true }) hm; dsimp only [cond_true, cond_false] <;> exact rfl; split)

theorem State.caravanTick_fr {bl : Blocks} {s0 : State} {s : State}
    (hm : Blocks.le { rad := true, upd := true } bl = true) (hev : Keeps bl s0 s) :
    Keeps bl s0 (State.caravanTick s) := by
  unfold State.caravanTick
  repeat' first
    | with_reducible assumption
    | exact Blocks.le_trans rfl hm
    | refine fun (_ : Keeps _ _ _) => ?_
    | with_reducible apply keeps_forEach
    | with_reducible apply State.caravanSend_fr
    | with_reducible apply State.modCaravan_fr
    | with_reducible apply keeps_ite
    | (refine Prod.forall.2 ?_; dsimp only)
    | intro x

theorem State.writeUpd_fr {bl : Blocks} {s0 : State} {s : State} (o v : Nat) (w : Writer)
    (hm : Blocks.le { fsp := true, can := true, evt := true, ford := true, key := true, upd := true, way := true, regs := true, freeIdx := true } bl = true) (hev : Keeps bl s0 s) :
    Keeps bl s0 (State.writeUpd s o v w).1 := by
  unfold State.writeUpd
  repeat' first
    | with_reducible assumption
    | exact Blocks.le_trans rfl hm
    | with_reducible apply State.writePlain_fr
    | with_reducible apply State.writeUpdCtrl_fr
    | with_reducible apply keeps_ite_fst

theorem State.writeUpd_keq {bl : Blocks} {s0 sx : State} {s : State} {o v : Nat} {w : Writer} {qx : Reason} (e : (State.writeUpd s o v w) = (sx, qx))
    (hm : Blocks.le { fsp := true, can := true, evt := true, ford := true, key := true, upd := true, way := true, regs := true, freeIdx := true } bl = true) (hev : Keeps bl s0 s) : Keeps bl s0 sx := by
  have g := State.writeUpd_fr o v w hm hev
  rw [e] at g
  exact g

end Sys2Proof.Machine
end

