-- ==== Sys2Proof/Laws/FrTamper.lean ====
section
/-! SUPPORT. Every operation of Machine/Tamper.lean keeps what it does not name (Safety.lean). -/

set_option Elab.async false

namespace Sys2Proof.Machine

theorem State.tamperLevel_fr {bl : Blocks} {s0 : State} {s : State} (n : Fin 4) (high : Bool) (sub : Nat)
    (hm : Blocks.le { time := true, evt := true, key := true, fld := true } bl = true) (hev : Keeps bl s0 s) :
    Keeps bl s0 (State.tamperLevel s n high sub) := by
  unfold State.tamperLevel
  repeat' first
    | with_reducible assumption
    | exact Blocks.le_trans rfl hm
    | refine fun (_ : Keeps _ _ _) => ?_
    | with_reducible apply keeps_iff
    | with_reducible apply State.armTamper_fr
    | with_reducible apply State.capture_fr
    | with_reducible apply keeps_ite
    | (with_reducible apply keeps_mk (a := { time := true, evt := true, key := true, fld := true }) hm; dsimp only [cond_true, cond_false] <;> exact rfl; with_reducible assumption)
    | intro x

theorem execTamperInputChange_fr {bl : Blocks} {s0 s1 : State} (n : Fin 4) (high : Bool) (tick : Nat) (sub : Fin 10) {s : State} (e : execTamperInputChange n high tick sub s = .next s1)
    (hm : Blocks.le { time := true, evt := true, key := true, fld := true } bl = true) (hev : Keeps bl s0 s) : Keeps bl s0 s1 := by
  unfold execTamperInputChange at e
  refine keeps_next e ?_
  repeat' first
    | with_reducible assumption
    | exact Blocks.le_trans rfl hm
    | refine fun (_ : Keeps _ _ _) => ?_
    | with_reducible apply keeps_iff
    | with_reducible apply State.advanceTo_fr
    | with_reducible apply State.tamperLevel_fr
    | intro x

theorem State.zeroise_fr {bl : Blocks} {s0 : State} {s : State}
    (hm : Blocks.le { ford := true, key := true } bl = true) (hev : Keeps bl s0 s) :
    Keeps bl s0 (State.zeroise s) := by
  unfold State.zeroise
  repeat' first
    | with_reducible assumption
    | exact Blocks.le_trans rfl hm
    | refine fun (_ : Keeps _ _ _) => ?_
    | with_reducible apply keeps_forEach
    | with_reducible apply State.emptySlot_fr
    | with_reducible apply State.witherChildren_fr
    | (with_reducible apply keeps_mk (a := { ford := true, key := true }) hm; dsimp only [cond_true, cond_false] <;> exact rfl; with_reducible apply keeps_forEach)
    | intro x

theorem State.tamperUpdate_fr {bl : Blocks} {s0 : State} {s : State}
    (hm : Blocks.le { fsp := true, can := true, evt := true, ford := true, key := true, upd := true, way := true, freeIdx := true } bl = true) (hev : Keeps bl s0 s) :
    Keeps bl s0 (State.tamperUpdate s) := by
  unfold State.tamperUpdate
  repeat' first
    | with_reducible assumption
    | exact Blocks.le_trans rfl hm
    | with_reducible apply State.modActivation_fr
    | with_reducible apply State.openCheck_fr
    | with_reducible apply State.stopUpdate_fr
    | with_reducible apply keeps_ite
    | (with_reducible apply keeps_mk (a := { fsp := true, can := true, evt := true, ford := true, key := true, upd := true, way := true, freeIdx := true }) hm; dsimp only [cond_true, cond_false] <;> exact rfl; split)

theorem State.restartCopy_fr {bl : Blocks} {s0 : State} {s : State}
    (hm : Blocks.le { ford := true } bl = true) (hev : Keeps bl s0 s) :
    Keeps bl s0 (State.restartCopy s) := by
  unfold State.restartCopy
  repeat' first
    | with_reducible assumption
    | refine fun (_ : Keeps _ _ _) => ?_
    | with_reducible apply keeps_forEach
    | with_reducible apply State.modStand_fr
    | with_reducible apply keeps_ite
    | intro x

theorem State.recordTamper_fr {bl : Blocks} {s0 : State} {s : State} (source : Nat) (reason : Reason) (event cause : Nat)
    (hm : Blocks.le { evt := true, way := true } bl = true) (hev : Keeps bl s0 s) :
    Keeps bl s0 (State.recordTamper s source reason event cause) := by
  unfold State.recordTamper
  repeat' first | with_reducible assumption | with_reducible apply State.record_fr

theorem State.tamperServices_fr {bl : Blocks} {s0 : State} {s : State}
    (hm : Blocks.le { rad := true, adm := true, fsp := true, can := true, evt := true, ford := true, cop := true, key := true, upd := true, way := true, freeIdx := true } bl = true) (hev : Keeps bl s0 s) :
    Keeps bl s0 (State.tamperServices s) := by
  unfold State.tamperServices
  repeat' first
    | with_reducible assumption
    | exact Blocks.le_trans rfl hm
    | refine fun (_ : Keeps _ _ _) => ?_
    | with_reducible apply keeps_forEach
    | with_reducible apply State.cutSlices_fr
    | with_reducible apply State.markRadioLoss_fr
    | with_reducible apply State.restartCopy_fr
    | with_reducible apply State.tamperUpdate_fr
    | intro x

theorem State.tamperAlarm_fr {bl : Blocks} {s0 : State} {s : State} (cause : Nat)
    (hm : Blocks.le { rad := true, adm := true, fsp := true, can := true, evt := true, ford := true, cop := true, key := true, upd := true, way := true, freeIdx := true } bl = true) (hev : Keeps bl s0 s) :
    Keeps bl s0 (State.tamperAlarm s cause) := by
  unfold State.tamperAlarm
  repeat' first
    | with_reducible assumption
    | exact Blocks.le_trans rfl hm
    | with_reducible apply State.completeKey_fr
    | with_reducible apply State.post_fr
    | with_reducible apply State.recordTamper_fr
    | with_reducible apply State.tamperServices_fr
    | with_reducible apply keeps_ite
    | (with_reducible apply keeps_mk (a := { rad := true, adm := true, fsp := true, can := true, evt := true, ford := true, cop := true, key := true, upd := true, way := true, freeIdx := true }) hm; dsimp only [cond_true, cond_false] <;> exact rfl; with_reducible apply State.zeroise_fr)

theorem State.recordWakeAlarm_fr {bl : Blocks} {s0 : State} {s : State} (dormant : Bool)
    (hm : Blocks.le { evt := true, key := true, way := true } bl = true) (hev : Keeps bl s0 s) :
    Keeps bl s0 (State.recordWakeAlarm s dormant) := by
  unfold State.recordWakeAlarm
  repeat' first
    | with_reducible assumption
    | exact Blocks.le_trans rfl hm
    | with_reducible apply State.enter_fr
    | with_reducible apply State.post_fr
    | (with_reducible apply keeps_mk (a := { evt := true, key := true, way := true }) hm; dsimp only [cond_true, cond_false] <;> exact rfl; (first | with_reducible assumption | split))

theorem State.tamperEvent_fr {bl : Blocks} {s0 : State} {s : State} (cause : Nat)
    (hm : Blocks.le { rad := true, adm := true, fsp := true, can := true, evt := true, ford := true, cop := true, key := true, upd := true, way := true, freeIdx := true } bl = true) (hev : Keeps bl s0 s) :
    Keeps bl s0 (State.tamperEvent s cause) := by
  unfold State.tamperEvent
  repeat' first
    | with_reducible assumption
    | exact Blocks.le_trans rfl hm
    | with_reducible apply State.post_fr
    | with_reducible apply State.recordTamper_fr
    | with_reducible apply State.tamperAlarm_fr
    | with_reducible apply keeps_ite
    | (with_reducible apply keeps_mk (a := { rad := true, adm := true, fsp := true, can := true, evt := true, ford := true, cop := true, key := true, upd := true, way := true, freeIdx := true }) hm; dsimp only [cond_true, cond_false] <;> exact rfl; split)

theorem execTamperQualified_fr {bl : Blocks} {s0 s1 : State} (n : Fin 4) (tick : Nat) {s : State} (e : execTamperQualified n tick s = .next s1)
    (hm : Blocks.le { time := true, rad := true, adm := true, fsp := true, can := true, evt := true, ford := true, cop := true, key := true, upd := true, way := true, freeIdx := true } bl = true) (hev : Keeps bl s0 s) : Keeps bl s0 s1 := by
  unfold execTamperQualified at e
  refine keeps_next e ?_
  repeat' first
    | with_reducible assumption
    | exact Blocks.le_trans rfl hm
    | refine fun (_ : Keeps _ _ _) => ?_
    | with_reducible apply keeps_iff
    | with_reducible apply State.advanceTo_fr
    | with_reducible apply State.tamperEvent_fr
    | (with_reducible apply keeps_mk (a := { time := true, rad := true, adm := true, fsp := true, can := true, evt := true, ford := true, cop := true, key := true, upd := true, way := true, freeIdx := true }) hm; dsimp only [cond_true, cond_false] <;> exact rfl; with_reducible assumption)
    | intro x

theorem execMeshCheck_fr {bl : Blocks} {s0 s1 : State} (ok : Bool) {s : State} (e : execMeshCheck ok s = .next s1)
    (hm : Blocks.le { rad := true, adm := true, fsp := true, can := true, evt := true, ford := true, cop := true, key := true, upd := true, way := true, freeIdx := true } bl = true) (hev : Keeps bl s0 s) : Keeps bl s0 s1 := by
  unfold execMeshCheck at e
  refine keeps_next e ?_
  repeat' first
    | with_reducible assumption
    | refine fun (_ : Keeps _ _ _) => ?_
    | with_reducible apply keeps_iff
    | with_reducible apply State.tamperEvent_fr
    | with_reducible apply keeps_ite
    | (with_reducible apply keeps_mk (a := { rad := true, adm := true, fsp := true, can := true, evt := true, ford := true, cop := true, key := true, upd := true, way := true, freeIdx := true }) hm; dsimp only [cond_true, cond_false] <;> exact rfl; with_reducible assumption)
    | intro x

theorem State.endMaint_fr {bl : Blocks} {s0 : State} {s : State}
    (hm : Blocks.le { rad := true, adm := true, fsp := true, can := true, evt := true, ford := true, cop := true, key := true, upd := true, way := true, freeIdx := true } bl = true) (hev : Keeps bl s0 s) :
    Keeps bl s0 (State.endMaint s) := by
  unfold State.endMaint
  repeat' first
    | with_reducible assumption
    | with_reducible apply State.tamperAlarm_fr
    | with_reducible apply keeps_ite
    | (with_reducible apply keeps_mk (a := { rad := true, adm := true, fsp := true, can := true, evt := true, ford := true, cop := true, key := true, upd := true, way := true, freeIdx := true }) hm; dsimp only [cond_true, cond_false] <;> exact rfl; with_reducible assumption)

theorem execMaintWindowEnd_fr {bl : Blocks} {s0 s1 : State} {s : State} (e : execMaintWindowEnd s = .next s1)
    (hm : Blocks.le { rad := true, adm := true, fsp := true, can := true, evt := true, ford := true, cop := true, key := true, upd := true, way := true, freeIdx := true } bl = true) (hev : Keeps bl s0 s) : Keeps bl s0 s1 := by
  unfold execMaintWindowEnd at e
  refine keeps_next e ?_
  repeat' first
    | with_reducible assumption
    | refine fun (_ : Keeps _ _ _) => ?_
    | with_reducible apply keeps_iff
    | with_reducible apply keeps_whenLive
    | with_reducible apply State.endMaint_fr
    | (with_reducible apply keeps_mk (a := { rad := true, adm := true, fsp := true, can := true, evt := true, ford := true, cop := true, key := true, upd := true, way := true, freeIdx := true }) hm; dsimp only [cond_true, cond_false] <;> exact rfl; split)
    | intro x

theorem State.writeTmpMaint_fr {bl : Blocks} {s0 : State} {s : State} (v : Nat) (w : Writer)
    (hm : Blocks.le { rad := true, adm := true, fsp := true, can := true, evt := true, ford := true, cop := true, key := true, upd := true, way := true, freeIdx := true } bl = true) (hev : Keeps bl s0 s) :
    Keeps bl s0 (State.writeTmpMaint s v w).1 := by
  unfold State.writeTmpMaint
  repeat' first
    | with_reducible assumption
    | exact hm
    | exact Blocks.le_trans rfl hm
    | refine fun (_ : Keeps _ _ _) => ?_
    | with_reducible apply keeps_iff
    | with_reducible apply keeps_whenLive
    | with_reducible apply keeps_forEach
    | with_reducible apply State.endMaint_fr
    | with_reducible apply State.malformed_fr
    | with_reducible apply State.recordRefused_fr
    | with_reducible apply State.recordWrite_fr
    | with_reducible apply keeps_ite
    | with_reducible apply keeps_ite_fst
    | (with_reducible apply keeps_mk (a := { rad := true, adm := true, fsp := true, can := true, evt := true, ford := true, cop := true, key := true, upd := true, way := true, freeIdx := true }) hm; dsimp only [cond_true, cond_false] <;> exact rfl; (first | with_reducible assumption | exact hm | exact Blocks.le_trans rfl hm | with_reducible apply keeps_iff | with_reducible apply keeps_whenLive | with_reducible apply keeps_forEach | with_reducible apply State.endMaint_fr | with_reducible apply State.malformed_fr | with_reducible apply State.recordRefused_fr | with_reducible apply State.recordWrite_fr | with_reducible apply keeps_ite | with_reducible apply keeps_ite_fst | split))
    | (intro x; refine keeps_cut (l := bl) (s0 := s0) (x := x) ?_ ?_; rotate_left; clear_value x; intro hx; rotate_left; subst x)
    | intro x
    | split
    | lift_lets
    | dsimp only

theorem State.writeTmpMaint_keq {bl : Blocks} {s0 sx : State} {s : State} {v : Nat} {w : Writer} {qx : Reason} (e : (State.writeTmpMaint s v w) = (sx, qx))
    (hm : Blocks.le { rad := true, adm := true, fsp := true, can := true, evt := true, ford := true, cop := true, key := true, upd := true, way := true, freeIdx := true } bl = true) (hev : Keeps bl s0 s) : Keeps bl s0 sx := by
  have g := State.writeTmpMaint_fr v w hm hev
  rw [e] at g
  exact g

theorem execKeyTmpMaint_fr {bl : Blocks} {s0 s1 : State} (value : Word) (w : Writer) {s : State} (e : execKeyTmpMaint value w s = .next s1)
    (hm : Blocks.le { rad := true, adm := true, fsp := true, can := true, evt := true, ford := true, cop := true, key := true, upd := true, way := true, freeIdx := true } bl = true) (hev : Keeps bl s0 s) : Keeps bl s0 s1 := by
  unfold execKeyTmpMaint at e
  refine keeps_next e ?_
  repeat' first
    | with_reducible assumption
    | refine fun (_ : Keeps _ _ _) => ?_
    | with_reducible apply keeps_whenLive
    | with_reducible apply State.writeTmpMaint_fr
    | intro x

theorem State.deriveStorage_fr {bl : Blocks} {s0 : State} {s : State}
    (hm : Blocks.le { key := true } bl = true) (hev : Keeps bl s0 s) :
    Keeps bl s0 (State.deriveStorage s) := by
  unfold State.deriveStorage
  repeat' first | with_reducible assumption | with_reducible apply State.setSlot_fr

theorem State.freshGroves_fr {bl : Blocks} {s0 : State} {s : State}
    (hm : Blocks.le { rad := true, key := true, freeIdx := true } bl = true) (hev : Keeps bl s0 s) :
    Keeps bl s0 (State.freshGroves s) := by
  unfold State.freshGroves
  repeat' first
    | with_reducible assumption
    | exact Blocks.le_trans rfl hm
    | with_reducible apply State.generateRoot_fr
    | (with_reducible apply keeps_mk (a := { rad := true, key := true, freeIdx := true }) hm; dsimp only [cond_true, cond_false] <;> exact rfl; (first | with_reducible apply State.deriveGroves_fr | with_reducible apply State.emptySlot_fr))

theorem State.resumeUpdate_fr {bl : Blocks} {s0 : State} {s : State}
    (hm : Blocks.le { upd := true } bl = true) (hev : Keeps bl s0 s) :
    Keeps bl s0 (State.resumeUpdate s) := by
  unfold State.resumeUpdate
  repeat' first | with_reducible assumption | with_reducible apply State.modActivation_fr

theorem State.tamperRestore_fr {bl : Blocks} {s0 : State} {s : State}
    (hm : Blocks.le { rad := true, node := true, adm := true, evt := true, key := true, upd := true, way := true, freeIdx := true } bl = true) (hev : Keeps bl s0 s) :
    Keeps bl s0 (State.tamperRestore s) := by
  unfold State.tamperRestore
  repeat' first
    | with_reducible assumption
    | exact Blocks.le_trans rfl hm
    | with_reducible apply State.deriveStorage_fr
    | with_reducible apply State.recordAs_fr
    | with_reducible apply State.resumeUpdate_fr
    | with_reducible apply State.startRejoin_fr
    | (with_reducible apply keeps_mk (a := { rad := true, node := true, adm := true, evt := true, key := true, upd := true, way := true, freeIdx := true }) hm; dsimp only [cond_true, cond_false] <;> exact rfl; with_reducible apply State.freshGroves_fr)

theorem State.writeTmpClear_fr {bl : Blocks} {s0 : State} {s : State} (v : Nat) (w : Writer)
    (hm : Blocks.le { rad := true, node := true, adm := true, evt := true, key := true, upd := true, way := true, freeIdx := true } bl = true) (hev : Keeps bl s0 s) :
    Keeps bl s0 (State.writeTmpClear s v w).1 := by
  unfold State.writeTmpClear
  repeat' first
    | with_reducible assumption
    | exact Blocks.le_trans rfl hm
    | with_reducible apply State.recordRefused_fr
    | with_reducible apply State.tamperRestore_fr
    | with_reducible apply keeps_ite_fst

theorem State.writeTmpClear_keq {bl : Blocks} {s0 sx : State} {s : State} {v : Nat} {w : Writer} {qx : Reason} (e : (State.writeTmpClear s v w) = (sx, qx))
    (hm : Blocks.le { rad := true, node := true, adm := true, evt := true, key := true, upd := true, way := true, freeIdx := true } bl = true) (hev : Keeps bl s0 s) : Keeps bl s0 sx := by
  have g := State.writeTmpClear_fr v w hm hev
  rw [e] at g
  exact g

theorem execKeyTmpClear_fr {bl : Blocks} {s0 s1 : State} (value : Word) (w : Writer) {s : State} (e : execKeyTmpClear value w s = .next s1)
    (hm : Blocks.le { rad := true, node := true, adm := true, evt := true, key := true, upd := true, way := true, freeIdx := true } bl = true) (hev : Keeps bl s0 s) : Keeps bl s0 s1 := by
  unfold execKeyTmpClear at e
  refine keeps_next e ?_
  repeat' first
    | with_reducible assumption
    | refine fun (_ : Keeps _ _ _) => ?_
    | with_reducible apply keeps_whenLive
    | with_reducible apply State.writeTmpClear_fr
    | intro x

theorem State.writeSlotAttr_fr {bl : Blocks} {s0 : State} {s : State} (v : Nat) (w : Writer)
    (hm : Blocks.le { evt := true, key := true, way := true } bl = true) (hev : Keeps bl s0 s) :
    Keeps bl s0 (State.writeSlotAttr s v w).1 := by
  unfold State.writeSlotAttr
  repeat' first
    | with_reducible assumption
    | exact Blocks.le_trans rfl hm
    | refine fun (_ : Keeps _ _ _) => ?_
    | with_reducible apply keeps_iff
    | with_reducible apply State.recordRefused_fr
    | with_reducible apply State.recordWrite_fr
    | with_reducible apply keeps_ite_fst
    | (with_reducible apply keeps_mk (a := { evt := true, key := true, way := true }) hm; dsimp only [cond_true, cond_false] <;> exact rfl; with_reducible assumption)
    | intro x

theorem State.writeSlotAttr_keq {bl : Blocks} {s0 sx : State} {s : State} {v : Nat} {w : Writer} {qx : Reason} (e : (State.writeSlotAttr s v w) = (sx, qx))
    (hm : Blocks.le { evt := true, key := true, way := true } bl = true) (hev : Keeps bl s0 s) : Keeps bl s0 sx := by
  have g := State.writeSlotAttr_fr v w hm hev
  rw [e] at g
  exact g

theorem State.writeKeyCmd_fr {bl : Blocks} {s0 : State} {s : State} (v : Nat) (w : Writer)
    (hm : Blocks.le { rad := true, node := true, evt := true, key := true, way := true, regs := true, freeIdx := true } bl = true) (hev : Keeps bl s0 s) :
    Keeps bl s0 (State.writeKeyCmd s v w).1 := by
  unfold State.writeKeyCmd
  repeat' first
    | with_reducible assumption
    | exact Blocks.le_trans rfl hm
    | with_reducible apply State.keyCommand_fr
    | with_reducible apply State.rotateGrove_fr
    | (with_reducible apply keeps_mk (a := { rad := true, node := true, evt := true, key := true, way := true, regs := true, freeIdx := true }) hm; dsimp only [cond_true, cond_false] <;> exact rfl; split)

theorem State.writeKeyCmd_keq {bl : Blocks} {s0 sx : State} {s : State} {v : Nat} {w : Writer} {qx : Reason} (e : (State.writeKeyCmd s v w) = (sx, qx))
    (hm : Blocks.le { rad := true, node := true, evt := true, key := true, way := true, regs := true, freeIdx := true } bl = true) (hev : Keeps bl s0 s) : Keeps bl s0 sx := by
  have g := State.writeKeyCmd_fr v w hm hev
  rw [e] at g
  exact g

theorem State.rearmTamper_fr {bl : Blocks} {s0 : State} {s : State} (n : Nat)
    (hm : Blocks.le { key := true } bl = true) (hev : Keeps bl s0 s) :
    Keeps bl s0 (State.rearmTamper s n) := by
  unfold State.rearmTamper
  repeat' first
    | with_reducible assumption
    | exact hm
    | exact Blocks.le_trans rfl hm
    | refine fun (_ : Keeps _ _ _) => ?_
    | with_reducible apply keeps_iff
    | with_reducible apply keeps_whenLive
    | with_reducible apply keeps_forEach
    | with_reducible apply State.armTamper_fr
    | with_reducible apply keeps_ite
    | (with_reducible apply keeps_mk (a := { key := true }) hm; dsimp only [cond_true, cond_false] <;> exact rfl; (first | with_reducible assumption | exact hm | exact Blocks.le_trans rfl hm | with_reducible apply keeps_iff | with_reducible apply keeps_whenLive | with_reducible apply keeps_forEach | with_reducible apply State.armTamper_fr | with_reducible apply keeps_ite | split))
    | (intro x; refine keeps_cut (l := bl) (s0 := s0) (x := x) ?_ ?_; rotate_left; clear_value x; intro hx; rotate_left; subst x)
    | intro x
    | split
    | lift_lets
    | dsimp only

theorem State.writeTmpCfg_fr {bl : Blocks} {s0 : State} {s : State} (v : Nat) (w : Writer)
    (hm : Blocks.le { evt := true, key := true, way := true, regs := true } bl = true) (hev : Keeps bl s0 s) :
    Keeps bl s0 (State.writeTmpCfg s v w).1 := by
  unfold State.writeTmpCfg
  repeat' first
    | with_reducible assumption
    | exact Blocks.le_trans rfl hm
    | refine fun (_ : Keeps _ _ _) => ?_
    | with_reducible apply keeps_forEach
    | with_reducible apply State.rearmTamper_fr
    | with_reducible apply State.writeReg_fr
    | intro x

theorem State.writeTmpCfg_keq {bl : Blocks} {s0 sx : State} {s : State} {v : Nat} {w : Writer} {qx : Reason} (e : (State.writeTmpCfg s v w) = (sx, qx))
    (hm : Blocks.le { evt := true, key := true, way := true, regs := true } bl = true) (hev : Keeps bl s0 s) : Keeps bl s0 sx := by
  have g := State.writeTmpCfg_fr v w hm hev
  rw [e] at g
  exact g

theorem State.writeKey_fr {bl : Blocks} {s0 : State} {s : State} (o v : Nat) (w : Writer)
    (hm : Blocks.le { rad := true, node := true, adm := true, fsp := true, can := true, evt := true, ford := true, cop := true, key := true, upd := true, way := true, regs := true, freeIdx := true } bl = true) (hev : Keeps bl s0 s) :
    Keeps bl s0 (State.writeKey s o v w).1 := by
  unfold State.writeKey
  repeat' first
    | with_reducible assumption
    | exact Blocks.le_trans rfl hm
    | refine fun (_ : Keeps _ _ _) => ?_
    | with_reducible apply keeps_iff
    | with_reducible apply State.attest_fr
    | with_reducible apply State.writeKeyCmd_fr
    | with_reducible apply State.writePlain_fr
    | with_reducible apply State.writeSlotAttr_fr
    | with_reducible apply State.writeTmpCfg_fr
    | with_reducible apply State.writeTmpClear_fr
    | with_reducible apply State.writeTmpMaint_fr
    | with_reducible apply keeps_ite_fst
    | (with_reducible apply keeps_mk (a := { rad := true, node := true, adm := true, fsp := true, can := true, evt := true, ford := true, cop := true, key := true, upd := true, way := true, regs := true, freeIdx := true }) hm; dsimp only [cond_true, cond_false] <;> exact rfl; with_reducible assumption)
    | intro x

theorem State.writeKey_keq {bl : Blocks} {s0 sx : State} {s : State} {o v : Nat} {w : Writer} {qx : Reason} (e : (State.writeKey s o v w) = (sx, qx))
    (hm : Blocks.le { rad := true, node := true, adm := true, fsp := true, can := true, evt := true, ford := true, cop := true, key := true, upd := true, way := true, regs := true, freeIdx := true } bl = true) (hev : Keeps bl s0 s) : Keeps bl s0 sx := by
  have g := State.writeKey_fr o v w hm hev
  rw [e] at g
  exact g

end Sys2Proof.Machine
end

