-- ==== Sys2Proof/Laws/FrPower.lean ====
section
/-! SUPPORT. Every operation of Machine/Power.lean keeps what it does not name (Safety.lean). -/

set_option Elab.async false

namespace Sys2Proof.Machine

theorem State.recordPower_fr {bl : Blocks} {s0 : State} {s : State} (source kind : Nat)
    (hm : Blocks.le { evt := true, way := true } bl = true) (hev : Keeps bl s0 s) :
    Keeps bl s0 (State.recordPower s source kind) := by
  unfold State.recordPower
  repeat' first | with_reducible assumption | with_reducible apply State.record_fr

theorem State.powerEvent_fr {bl : Blocks} {s0 : State} {s : State} (source kind payload : Nat)
    (hm : Blocks.le { evt := true, way := true } bl = true) (hev : Keeps bl s0 s) :
    Keeps bl s0 (State.powerEvent s source kind payload) := by
  unfold State.powerEvent
  repeat' first
    | with_reducible assumption
    | exact Blocks.le_trans rfl hm
    | with_reducible apply State.post_fr
    | with_reducible apply State.recordPower_fr
    | with_reducible apply keeps_ite

theorem State.drawFrom_fr {bl : Blocks} {s0 : State} {s : State} (b : Bool)
    (hm : Blocks.le { evt := true, way := true, sys := true } bl = true) (hev : Keeps bl s0 s) :
    Keeps bl s0 (State.drawFrom s b) := by
  unfold State.drawFrom
  repeat' first
    | with_reducible assumption
    | exact Blocks.le_trans rfl hm
    | with_reducible apply State.powerEvent_fr
    | with_reducible apply keeps_ite
    | (with_reducible apply keeps_mk (a := { evt := true, way := true, sys := true }) hm; dsimp only [cond_true, cond_false] <;> exact rfl; with_reducible assumption)

theorem State.changeInput_fr {bl : Blocks} {s0 : State} {s : State}
    (hm : Blocks.le { evt := true, way := true, sys := true } bl = true) (hev : Keeps bl s0 s) :
    Keeps bl s0 (State.changeInput s) := by
  unfold State.changeInput
  repeat' first | with_reducible assumption | with_reducible apply State.drawFrom_fr | with_reducible apply keeps_ite

theorem State.setInput_fr {bl : Blocks} {s0 : State} {s : State} (b : Bool) (x : SupplyState)
    (hm : Blocks.le { sys := true } bl = true) (hev : Keeps bl s0 s) :
    Keeps bl s0 (State.setInput s b x) := by
  unfold State.setInput
  repeat' first
    | with_reducible apply keeps_ite
    | (with_reducible apply keeps_mk (a := { sys := true }) hm; dsimp only [cond_true, cond_false] <;> exact rfl; with_reducible assumption)

theorem State.setVolts_fr {bl : Blocks} {s0 : State} {s : State} (a b : Nat)
    (hm : Blocks.le { sys := true } bl = true) (hev : Keeps bl s0 s) :
    Keeps bl s0 (State.setVolts s a b) := by
  unfold State.setVolts
  repeat' first
    | (with_reducible apply keeps_mk (a := { sys := true }) hm; dsimp only [cond_true, cond_false] <;> exact rfl; with_reducible assumption)

theorem execSupplyInputChange_fr {bl : Blocks} {s0 s1 : State} (b : Bool) (x : SupplyState) (voltA voltB : Fin 65536) {s : State} (e : execSupplyInputChange b x voltA voltB s = .next s1)
    (hm : Blocks.le { evt := true, way := true, sys := true } bl = true) (hev : Keeps bl s0 s) : Keeps bl s0 s1 := by
  unfold execSupplyInputChange at e
  refine keeps_next e ?_
  repeat' first
    | with_reducible assumption
    | exact Blocks.le_trans rfl hm
    | with_reducible apply State.changeInput_fr
    | with_reducible apply State.powerEvent_fr
    | with_reducible apply State.setInput_fr
    | with_reducible apply State.setVolts_fr

theorem execSupplyReturn_fr {bl : Blocks} {s0 s1 : State} {s : State} (e : execSupplyReturn s = .next s1)
    (hm : Blocks.le { evt := true, way := true, sys := true } bl = true) (hev : Keeps bl s0 s) : Keeps bl s0 s1 := by
  unfold execSupplyReturn at e
  refine keeps_next e ?_
  repeat' first
    | with_reducible assumption
    | refine fun (_ : Keeps _ _ _) => ?_
    | with_reducible apply keeps_iff
    | with_reducible apply keeps_whenLive
    | with_reducible apply State.drawFrom_fr
    | intro x

theorem State.lastGaspSequence_fr {bl : Blocks} {s0 : State} {s : State} (sums : List PhaseSum)
    (hm : Blocks.le { time := true, mtr := true, rad := true, fsp := true, dim := true, evt := true, cop := true, way := true, sys := true, out := true } bl = true) (hev : Keeps bl s0 s) :
    Keeps bl s0 (State.lastGaspSequence s sums) := by
  unfold State.lastGaspSequence
  repeat' first
    | with_reducible assumption
    | exact Blocks.le_trans rfl hm
    | refine fun (_ : Keeps _ _ _) => ?_
    | with_reducible apply keeps_iff
    | with_reducible apply State.cutSlices_fr
    | with_reducible apply State.drainStaging_fr
    | with_reducible apply State.post_fr
    | with_reducible apply State.recordPower_fr
    | (with_reducible apply keeps_mk (a := { time := true, mtr := true, rad := true, fsp := true, dim := true, evt := true, cop := true, way := true, sys := true, out := true }) hm; dsimp only [cond_true, cond_false] <;> exact rfl; (first | with_reducible assumption | with_reducible apply keeps_iff | with_reducible apply State.takeSnapshot_fr))
    | intro x

theorem execPowerFail_fr {bl : Blocks} {s0 s1 : State} (tick : Nat) (sums : List PhaseSum) {s : State} (e : execPowerFail tick sums s = .next s1)
    (hm : Blocks.le { time := true, mtr := true, rad := true, fsp := true, dim := true, evt := true, cop := true, way := true, sys := true, out := true } bl = true) (hev : Keeps bl s0 s) : Keeps bl s0 s1 := by
  unfold execPowerFail at e
  refine keeps_next e ?_
  repeat' first
    | with_reducible assumption
    | exact Blocks.le_trans rfl hm
    | refine fun (_ : Keeps _ _ _) => ?_
    | with_reducible apply keeps_iff
    | with_reducible apply keeps_whenLive
    | with_reducible apply State.advanceTo_fr
    | with_reducible apply State.lastGaspSequence_fr
    | intro x

theorem execPowerDip_fr {bl : Blocks} {s0 s1 : State} {s : State} (e : execPowerDip s = .next s1)
    (hm : Blocks.le { evt := true, way := true, sys := true } bl = true) (hev : Keeps bl s0 s) : Keeps bl s0 s1 := by
  unfold execPowerDip at e
  refine keeps_next e ?_
  repeat' first
    | with_reducible assumption
    | exact Blocks.le_trans rfl hm
    | refine fun (_ : Keeps _ _ _) => ?_
    | with_reducible apply keeps_iff
    | with_reducible apply keeps_whenLive
    | with_reducible apply State.powerEvent_fr
    | (with_reducible apply keeps_mk (a := { evt := true, way := true, sys := true }) hm; dsimp only [cond_true, cond_false] <;> exact rfl; with_reducible assumption)
    | intro x

theorem State.pinsOff_fr {bl : Blocks} {s0 : State} {s : State}
    (hm : Blocks.le { dim := true, drv := true, fld := true } bl = true) (hev : Keeps bl s0 s) :
    Keeps bl s0 (State.pinsOff s) := by
  unfold State.pinsOff
  repeat' first
    | (with_reducible apply keeps_mk (a := { dim := true, drv := true, fld := true }) hm; dsimp only [cond_true, cond_false] <;> exact rfl; with_reducible assumption)

theorem execHoldoverStop_fr {bl : Blocks} {s0 s1 : State} {s : State} (e : execHoldoverStop s = .next s1)
    (hm : Blocks.le { dim := true, drv := true, fld := true, sys := true } bl = true) (hev : Keeps bl s0 s) : Keeps bl s0 s1 := by
  unfold execHoldoverStop at e
  refine keeps_next e ?_
  repeat' first
    | with_reducible assumption
    | exact Blocks.le_trans rfl hm
    | refine fun (_ : Keeps _ _ _) => ?_
    | with_reducible apply keeps_iff
    | with_reducible apply keeps_whenLive
    | (with_reducible apply keeps_mk (a := { dim := true, drv := true, fld := true, sys := true }) hm; dsimp only [cond_true, cond_false] <;> exact rfl; with_reducible apply State.pinsOff_fr)
    | intro x

theorem execRetentionLost_fr {bl : Blocks} {s0 s1 : State} {s : State} (e : execRetentionLost s = .next s1)
    (hm : Blocks.le { evt := true, ford := true, sys := true } bl = true) (hev : Keeps bl s0 s) : Keeps bl s0 s1 := by
  unfold execRetentionLost at e
  refine keeps_next e ?_
  repeat' first
    | with_reducible assumption
    | refine fun (_ : Keeps _ _ _) => ?_
    | with_reducible apply keeps_iff
    | (with_reducible apply keeps_mk (a := { evt := true, ford := true, sys := true }) hm; dsimp only [cond_true, cond_false] <;> exact rfl; with_reducible assumption)
    | intro x

theorem execVoltageMonitor_fr {bl : Blocks} {s0 s1 : State} (stand : Stand) (hold : Word) {s : State} (e : execVoltageMonitor stand hold s = .next s1)
    (hm : Blocks.le { time := true, mtr := true, rad := true, adm := true, fsp := true, drv := true, can := true, que := true, evt := true, ford := true, cop := true, key := true, upd := true, way := true, mon := true, fld := true, sys := true, regs := true, out := true, freeIdx := true } bl = true) (hev : Keeps bl s0 s) : Keeps bl s0 s1 := by
  unfold execVoltageMonitor at e
  refine keeps_next e ?_
  repeat' first
    | with_reducible assumption
    | exact Blocks.le_trans rfl hm
    | refine fun (_ : Keeps _ _ _) => ?_
    | with_reducible apply keeps_iff
    | with_reducible apply keeps_whenLive
    | with_reducible apply State.powerEvent_fr
    | with_reducible apply State.standWithdraws_fr
    | intro x

theorem State.writeDormCtrl_fr {bl : Blocks} {s0 : State} {s : State} (v : Nat) (w : Writer)
    (hm : Blocks.le { evt := true, way := true, sys := true, regs := true } bl = true) (hev : Keeps bl s0 s) :
    Keeps bl s0 (State.writeDormCtrl s v w).1 := by
  unfold State.writeDormCtrl
  repeat' first
    | with_reducible assumption
    | exact Blocks.le_trans rfl hm
    | with_reducible apply State.writeReg_fr
    | with_reducible apply keeps_ite_fst
    | (with_reducible apply keeps_mk (a := { evt := true, way := true, sys := true, regs := true }) hm; dsimp only [cond_true, cond_false] <;> exact rfl; with_reducible apply State.writeReg_fr)

theorem State.writeDormCtrl_keq {bl : Blocks} {s0 sx : State} {s : State} {v : Nat} {w : Writer} {qx : Reason} (e : (State.writeDormCtrl s v w) = (sx, qx))
    (hm : Blocks.le { evt := true, way := true, sys := true, regs := true } bl = true) (hev : Keeps bl s0 s) : Keeps bl s0 sx := by
  have g := State.writeDormCtrl_fr v w hm hev
  rw [e] at g
  exact g

theorem execDormancyEnter_fr {bl : Blocks} {s0 s1 : State} (value : Word) (w : Writer) {s : State} (e : execDormancyEnter value w s = .next s1)
    (hm : Blocks.le { evt := true, way := true, sys := true, regs := true } bl = true) (hev : Keeps bl s0 s) : Keeps bl s0 s1 := by
  unfold execDormancyEnter at e
  refine keeps_next e ?_
  repeat' first
    | with_reducible assumption
    | refine fun (_ : Keeps _ _ _) => ?_
    | with_reducible apply keeps_whenLive
    | with_reducible apply State.writeDormCtrl_fr
    | intro x

theorem State.autoDormTick_fr {bl : Blocks} {s0 : State} {s : State}
    (hm : Blocks.le { sys := true } bl = true) (hev : Keeps bl s0 s) :
    Keeps bl s0 (State.autoDormTick s) := by
  unfold State.autoDormTick
  repeat' first
    | (with_reducible apply keeps_mk (a := { sys := true }) hm; dsimp only [cond_true, cond_false] <;> exact rfl; with_reducible assumption)

theorem execDormancyAuto_fr {bl : Blocks} {s0 s1 : State} {s : State} (e : execDormancyAuto s = .next s1)
    (hm : Blocks.le { sys := true } bl = true) (hev : Keeps bl s0 s) : Keeps bl s0 s1 := by
  unfold execDormancyAuto at e
  refine keeps_next e ?_
  repeat' first
    | with_reducible assumption
    | refine fun (_ : Keeps _ _ _) => ?_
    | with_reducible apply keeps_iff
    | with_reducible apply keeps_whenLive
    | (with_reducible apply keeps_mk (a := { sys := true }) hm; dsimp only [cond_true, cond_false] <;> exact rfl; (first | with_reducible assumption | split))
    | intro x

theorem execDormancyEntry_fr {bl : Blocks} {s0 s1 : State} {s : State} (e : execDormancyEntry s = .next s1)
    (hm : Blocks.le { time := true, mtr := true, dim := true, drv := true, evt := true, way := true, sys := true } bl = true) (hev : Keeps bl s0 s) : Keeps bl s0 s1 := by
  unfold execDormancyEntry at e
  refine keeps_next e ?_
  repeat' first
    | with_reducible assumption
    | exact Blocks.le_trans rfl hm
    | refine fun (_ : Keeps _ _ _) => ?_
    | with_reducible apply keeps_iff
    | with_reducible apply keeps_whenLive
    | with_reducible apply State.recordPower_fr
    | (with_reducible apply keeps_mk (a := { time := true, mtr := true, dim := true, drv := true, evt := true, way := true, sys := true }) hm; dsimp only [cond_true, cond_false] <;> exact rfl; (first | with_reducible assumption | with_reducible apply State.takeSnapshot_fr))
    | intro x

theorem State.dormTick_fr {bl : Blocks} {s0 : State} {s : State}
    (hm : Blocks.le { adm := true, fsp := true, evt := true, way := true, sys := true, out := true } bl = true) (hev : Keeps bl s0 s) :
    Keeps bl s0 (State.dormTick s) := by
  unfold State.dormTick
  repeat' first
    | with_reducible assumption
    | exact Blocks.le_trans rfl hm
    | refine fun (_ : Keeps _ _ _) => ?_
    | with_reducible apply State.closeSession_fr
    | with_reducible apply keeps_ite
    | (with_reducible apply keeps_mk (a := { adm := true, fsp := true, evt := true, way := true, sys := true, out := true }) hm; dsimp only [cond_true, cond_false] <;> exact rfl; (first | with_reducible apply keeps_forEach | split))
    | intro x

theorem execDormancyPowerDown_fr {bl : Blocks} {s0 s1 : State} {s : State} (e : execDormancyPowerDown s = .next s1)
    (hm : Blocks.le { fsp := true, dim := true, drv := true, evt := true, way := true, fld := true, sys := true, out := true } bl = true) (hev : Keeps bl s0 s) : Keeps bl s0 s1 := by
  unfold execDormancyPowerDown at e
  refine keeps_next e ?_
  repeat' first
    | with_reducible assumption
    | exact Blocks.le_trans rfl hm
    | refine fun (_ : Keeps _ _ _) => ?_
    | with_reducible apply keeps_iff
    | with_reducible apply keeps_whenLive
    | with_reducible apply State.drainStaging_fr
    | (with_reducible apply keeps_mk (a := { fsp := true, dim := true, drv := true, evt := true, way := true, fld := true, sys := true, out := true }) hm; dsimp only [cond_true, cond_false] <;> exact rfl; (first | with_reducible apply State.pinsOff_fr | split))
    | intro x

theorem State.restoreEvents_fr {bl : Blocks} {s0 : State} {s : State} (good : Bool) (seconds : Nat)
    (hm : Blocks.le { evt := true, way := true } bl = true) (hev : Keeps bl s0 s) :
    Keeps bl s0 (State.restoreEvents s good seconds) := by
  unfold State.restoreEvents
  repeat' first
    | with_reducible assumption
    | exact hm
    | exact Blocks.le_trans rfl hm
    | refine fun (_ : Keeps _ _ _) => ?_
    | with_reducible apply keeps_iff
    | with_reducible apply keeps_whenLive
    | with_reducible apply keeps_forEach
    | with_reducible apply State.record_fr
    | with_reducible apply keeps_ite
    | (with_reducible apply keeps_mk (a := { evt := true, way := true }) hm; dsimp only [cond_true, cond_false] <;> exact rfl; (first | with_reducible assumption | exact hm | exact Blocks.le_trans rfl hm | with_reducible apply keeps_iff | with_reducible apply keeps_whenLive | with_reducible apply keeps_forEach | with_reducible apply State.record_fr | with_reducible apply keeps_ite | split))
    | (intro x; refine keeps_cut (l := bl) (s0 := s0) (x := x) ?_ ?_; rotate_left; clear_value x; intro hx; rotate_left; subst x)
    | intro x
    | split
    | lift_lets
    | dsimp only

theorem execDormancyWake_fr {bl : Blocks} {s0 s1 : State} (source : Fin 6) (seconds : Nat) (good : Bool) {s : State} (e : execDormancyWake source seconds good s = .next s1)
    (hm : Blocks.le { cn := true, time := true, mtr := true, rad := true, node := true, adm := true, fsp := true, dim := true, drv := true, can := true, que := true, evt := true, ford := true, cop := true, key := true, upd := true, way := true, mon := true, fld := true, sys := true, regs := true, out := true, freeIdx := true } bl = true) (hev : Keeps bl s0 s) : Keeps bl s0 s1 := by
  unfold execDormancyWake at e
  refine keeps_next e ?_
  repeat' first
    | with_reducible assumption
    | exact Blocks.le_trans rfl hm
    | refine fun (_ : Keeps _ _ _) => ?_
    | with_reducible apply keeps_iff
    | with_reducible apply State.recordWakeAlarm_fr
    | with_reducible apply State.restoreEvents_fr
    | (with_reducible apply keeps_mk (a := { cn := true, time := true, mtr := true, rad := true, node := true, adm := true, fsp := true, dim := true, drv := true, can := true, que := true, evt := true, ford := true, cop := true, key := true, upd := true, way := true, mon := true, fld := true, sys := true, regs := true, out := true, freeIdx := true }) hm; dsimp only [cond_true, cond_false] <;> exact rfl; (first | with_reducible assumption | with_reducible apply State.restart_fr))
    | intro x

theorem State.setBase_fr {bl : Blocks} {s0 : State} {s : State} (t : Int)
    (hm : Blocks.le { sys := true } bl = true) (hev : Keeps bl s0 s) :
    Keeps bl s0 (State.setBase s t) := by
  unfold State.setBase
  repeat' first
    | (with_reducible apply keeps_mk (a := { sys := true }) hm; dsimp only [cond_true, cond_false] <;> exact rfl; with_reducible assumption)

theorem execThermalHot_fr {bl : Blocks} {s0 s1 : State} (temp : Int) {s : State} (e : execThermalHot temp s = .next s1)
    (hm : Blocks.le { sys := true } bl = true) (hev : Keeps bl s0 s) : Keeps bl s0 s1 := by
  unfold execThermalHot at e
  refine keeps_next e ?_
  repeat' first
    | with_reducible assumption
    | refine fun (_ : Keeps _ _ _) => ?_
    | with_reducible apply keeps_whenLive
    | with_reducible apply State.setBase_fr
    | intro x

theorem execThermalTrip_fr {bl : Blocks} {s0 s1 : State} (temp : Int) (tick : Nat) (sums : List PhaseSum) {s : State} (e : execThermalTrip temp tick sums s = .next s1)
    (hm : Blocks.le { time := true, mtr := true, rad := true, fsp := true, dim := true, drv := true, evt := true, cop := true, way := true, fld := true, sys := true, out := true } bl = true) (hev : Keeps bl s0 s) : Keeps bl s0 s1 := by
  unfold execThermalTrip at e
  refine keeps_next e ?_
  repeat' first
    | with_reducible assumption
    | exact Blocks.le_trans rfl hm
    | refine fun (_ : Keeps _ _ _) => ?_
    | with_reducible apply keeps_iff
    | with_reducible apply keeps_whenLive
    | with_reducible apply State.advanceTo_fr
    | with_reducible apply State.lastGaspSequence_fr
    | (with_reducible apply keeps_mk (a := { time := true, mtr := true, rad := true, fsp := true, dim := true, drv := true, evt := true, cop := true, way := true, fld := true, sys := true, out := true }) hm; dsimp only [cond_true, cond_false] <;> exact rfl; (first | with_reducible apply State.pinsOff_fr | with_reducible apply State.setBase_fr))
    | intro x

theorem execThermalRelease_fr {bl : Blocks} {s0 s1 : State} (temp : Int) {s : State} (e : execThermalRelease temp s = .next s1)
    (hm : Blocks.le { cn := true, time := true, mtr := true, rad := true, node := true, adm := true, fsp := true, dim := true, drv := true, can := true, que := true, evt := true, ford := true, cop := true, key := true, upd := true, way := true, mon := true, fld := true, sys := true, regs := true, out := true, freeIdx := true } bl = true) (hev : Keeps bl s0 s) : Keeps bl s0 s1 := by
  unfold execThermalRelease at e
  refine keeps_next e ?_
  repeat' first
    | with_reducible assumption
    | exact Blocks.le_trans rfl hm
    | refine fun (_ : Keeps _ _ _) => ?_
    | with_reducible apply keeps_iff
    | with_reducible apply State.recordWakeAlarm_fr
    | with_reducible apply State.setBase_fr
    | (with_reducible apply keeps_mk (a := { cn := true, time := true, mtr := true, rad := true, node := true, adm := true, fsp := true, dim := true, drv := true, can := true, que := true, evt := true, ford := true, cop := true, key := true, upd := true, way := true, mon := true, fld := true, sys := true, regs := true, out := true, freeIdx := true }) hm; dsimp only [cond_true, cond_false] <;> exact rfl; with_reducible apply State.restart_fr)
    | intro x

theorem State.writePwrCfg_fr {bl : Blocks} {s0 : State} {s : State} (v : Nat) (w : Writer)
    (hm : Blocks.le { evt := true, way := true, sys := true, regs := true } bl = true) (hev : Keeps bl s0 s) :
    Keeps bl s0 (State.writePwrCfg s v w).1 := by
  unfold State.writePwrCfg
  repeat' first
    | with_reducible assumption
    | exact Blocks.le_trans rfl hm
    | refine fun (_ : Keeps _ _ _) => ?_
    | with_reducible apply keeps_iff
    | with_reducible apply State.writeReg_fr
    | (with_reducible apply keeps_mk (a := { evt := true, way := true, sys := true, regs := true }) hm; dsimp only [cond_true, cond_false] <;> exact rfl; with_reducible assumption)
    | intro x

theorem State.writePwrCfg_keq {bl : Blocks} {s0 sx : State} {s : State} {v : Nat} {w : Writer} {qx : Reason} (e : (State.writePwrCfg s v w) = (sx, qx))
    (hm : Blocks.le { evt := true, way := true, sys := true, regs := true } bl = true) (hev : Keeps bl s0 s) : Keeps bl s0 sx := by
  have g := State.writePwrCfg_fr v w hm hev
  rw [e] at g
  exact g

theorem execPeakRestart_fr {bl : Blocks} {s0 s1 : State} (w : Writer) {s : State} (e : execPeakRestart w s = .next s1)
    (hm : Blocks.le { evt := true, way := true, sys := true, regs := true } bl = true) (hev : Keeps bl s0 s) : Keeps bl s0 s1 := by
  unfold execPeakRestart at e
  refine keeps_next e ?_
  repeat' first
    | with_reducible assumption
    | refine fun (_ : Keeps _ _ _) => ?_
    | with_reducible apply keeps_whenLive
    | with_reducible apply State.writePwrCfg_fr
    | intro x

theorem State.setStore_fr {bl : Blocks} {s0 : State} {s : State} (mj pct : Nat)
    (hm : Blocks.le { sys := true } bl = true) (hev : Keeps bl s0 s) :
    Keeps bl s0 (State.setStore s mj pct) := by
  unfold State.setStore
  repeat' first
    | (with_reducible apply keeps_mk (a := { sys := true }) hm; dsimp only [cond_true, cond_false] <;> exact rfl; with_reducible assumption)

theorem execStoreRecharged_fr {bl : Blocks} {s0 s1 : State} (mj : Fin 65536) (pct : Fin 256) {s : State} (e : execStoreRecharged mj pct s = .next s1)
    (hm : Blocks.le { sys := true } bl = true) (hev : Keeps bl s0 s) : Keeps bl s0 s1 := by
  unfold execStoreRecharged at e
  refine keeps_next e ?_
  repeat' first
    | with_reducible assumption
    | refine fun (_ : Keeps _ _ _) => ?_
    | with_reducible apply keeps_iff
    | (with_reducible apply keeps_mk (a := { sys := true }) hm; dsimp only [cond_true, cond_false] <;> exact rfl; with_reducible apply State.setStore_fr)
    | intro x

end Sys2Proof.Machine
end

