-- ==== Sys2Proof/Laws/FrSessions.lean ====
section
/-! SUPPORT. Every operation of Machine/Sessions.lean keeps what it does not name (Safety.lean). -/

set_option Elab.async false

namespace Sys2Proof.Machine

theorem State.openSession_fr {bl : Blocks} {s0 : State} {s : State} (path : Nat) (certified : Bool) (exporter : List Byte)
    (hm : Blocks.le { adm := true, fsp := true, evt := true, way := true, out := true } bl = true) (hev : Keeps bl s0 s) :
    Keeps bl s0 (State.openSession s path certified exporter) := by
  unfold State.openSession
  repeat' first
    | with_reducible assumption
    | exact Blocks.le_trans rfl hm
    | with_reducible apply State.emit_fr
    | with_reducible apply keeps_ite
    | (with_reducible apply keeps_mk (a := { adm := true, fsp := true, evt := true, way := true, out := true }) hm; dsimp only [cond_true, cond_false] <;> exact rfl; (first | with_reducible assumption | split))

theorem execTlsHandshake_fr {bl : Blocks} {s0 s1 : State} (path : Fin 4) (signed chained : Bool) (exporter : List Byte) {s : State} (e : execTlsHandshake path signed chained exporter s = .next s1)
    (hm : Blocks.le { adm := true, fsp := true, evt := true, way := true, out := true } bl = true) (hev : Keeps bl s0 s) : Keeps bl s0 s1 := by
  unfold execTlsHandshake at e
  refine keeps_next e ?_
  repeat' first
    | with_reducible assumption
    | exact Blocks.le_trans rfl hm
    | refine fun (_ : Keeps _ _ _) => ?_
    | with_reducible apply keeps_whenLive
    | with_reducible apply State.emit_fr
    | with_reducible apply State.openSession_fr
    | with_reducible apply keeps_ite
    | intro x

theorem execHandshakeTimeout_fr {bl : Blocks} {s0 s1 : State} (since : Nat) {s : State} (e : execHandshakeTimeout since s = .next s1)
    (hm : Blocks.le { adm := true, fsp := true, evt := true, way := true, out := true } bl = true) (hev : Keeps bl s0 s) : Keeps bl s0 s1 := by
  unfold execHandshakeTimeout at e
  refine keeps_next e ?_
  repeat' first
    | with_reducible assumption
    | exact Blocks.le_trans rfl hm
    | refine fun (_ : Keeps _ _ _) => ?_
    | with_reducible apply keeps_iff
    | with_reducible apply keeps_whenLive
    | with_reducible apply State.emit_fr
    | intro x

theorem State.headerAnswer_fr {bl : Blocks} {s0 : State} {s : State} (i : Fin 4) (header : List Byte) (reason : Reason) (offset : Nat)
    (hm : Blocks.le { adm := true, fsp := true, evt := true, way := true, out := true } bl = true) (hev : Keeps bl s0 s) :
    Keeps bl s0 (State.headerAnswer s i header reason offset) := by
  unfold State.headerAnswer
  repeat' first
    | with_reducible assumption
    | exact hm
    | exact Blocks.le_trans rfl hm
    | refine fun (_ : Keeps _ _ _) => ?_
    | with_reducible apply keeps_iff
    | with_reducible apply keeps_whenLive
    | with_reducible apply keeps_forEach
    | with_reducible apply State.fspViolation_fr
    | with_reducible apply State.offset_fr
    | with_reducible apply State.refuse_fr
    | with_reducible apply State.respond_fr
    | with_reducible apply keeps_ite
    | (with_reducible apply keeps_mk (a := { adm := true, fsp := true, evt := true, way := true, out := true }) hm; dsimp only [cond_true, cond_false] <;> exact rfl; (first | with_reducible assumption | exact hm | exact Blocks.le_trans rfl hm | with_reducible apply keeps_iff | with_reducible apply keeps_whenLive | with_reducible apply keeps_forEach | with_reducible apply State.fspViolation_fr | with_reducible apply State.offset_fr | with_reducible apply State.refuse_fr | with_reducible apply State.respond_fr | with_reducible apply keeps_ite | split))
    | (intro x; refine keeps_cut (l := bl) (s0 := s0) (x := x) ?_ ?_; rotate_left; clear_value x; intro hx; rotate_left; subst x)
    | intro x
    | split
    | lift_lets
    | dsimp only

theorem execFspHeaderFault_fr {bl : Blocks} {s0 s1 : State} (sess : Fin 4) (header : List Byte) {s : State} (e : execFspHeaderFault sess header s = .next s1)
    (hm : Blocks.le { adm := true, fsp := true, evt := true, way := true, out := true } bl = true) (hev : Keeps bl s0 s) : Keeps bl s0 s1 := by
  unfold execFspHeaderFault at e
  refine keeps_next e ?_
  repeat' first
    | with_reducible assumption
    | exact hm
    | exact Blocks.le_trans rfl hm
    | refine fun (_ : Keeps _ _ _) => ?_
    | with_reducible apply keeps_iff
    | with_reducible apply keeps_whenLive
    | with_reducible apply keeps_forEach
    | with_reducible apply State.headerAnswer_fr
    | with_reducible apply State.modSession_fr
    | with_reducible apply State.offset_fr
    | with_reducible apply keeps_ite
    | (with_reducible apply keeps_mk (a := { adm := true, fsp := true, evt := true, way := true, out := true }) hm; dsimp only [cond_true, cond_false] <;> exact rfl; (first | with_reducible assumption | exact hm | exact Blocks.le_trans rfl hm | with_reducible apply keeps_iff | with_reducible apply keeps_whenLive | with_reducible apply keeps_forEach | with_reducible apply State.headerAnswer_fr | with_reducible apply State.modSession_fr | with_reducible apply State.offset_fr | with_reducible apply keeps_ite | split))
    | (intro x; refine keeps_cut (l := bl) (s0 := s0) (x := x) ?_ ?_; rotate_left; clear_value x; intro hx; rotate_left; subst x)
    | intro x
    | split
    | lift_lets
    | dsimp only

theorem execFspWrongType_fr {bl : Blocks} {s0 s1 : State} (sess : Fin 4) (type : Byte) (tx : Word) {s : State} (e : execFspWrongType sess type tx s = .next s1)
    (hm : Blocks.le { adm := true, fsp := true, evt := true, way := true, out := true } bl = true) (hev : Keeps bl s0 s) : Keeps bl s0 s1 := by
  unfold execFspWrongType at e
  refine keeps_next e ?_
  repeat' first
    | with_reducible assumption
    | exact Blocks.le_trans rfl hm
    | refine fun (_ : Keeps _ _ _) => ?_
    | with_reducible apply keeps_iff
    | with_reducible apply keeps_whenLive
    | with_reducible apply State.modSession_fr
    | with_reducible apply State.refuse_fr
    | (with_reducible apply keeps_mk (a := { adm := true, fsp := true, evt := true, way := true, out := true }) hm; dsimp only [cond_true, cond_false] <;> exact rfl; split)
    | intro x

theorem State.subscribe_fr {bl : Blocks} {s0 : State} {s : State} (i : Fin 4) (on_ : Bool) (head : Nat)
    (hm : Blocks.le { fsp := true, out := true } bl = true) (hev : Keeps bl s0 s) :
    Keeps bl s0 (State.subscribe s i on_ head) := by
  unfold State.subscribe
  repeat' first
    | with_reducible assumption
    | exact Blocks.le_trans rfl hm
    | with_reducible apply State.modSession_fr
    | with_reducible apply State.pushWaiting_fr

theorem State.serveHello_fr {bl : Blocks} {s0 : State} {s : State} (i : Fin 4) (c : Session) (tx : Nat) (body : List Byte)
    (hm : Blocks.le { adm := true, fsp := true, evt := true, way := true, out := true } bl = true) (hev : Keeps bl s0 s) :
    Keeps bl s0 (State.serveHello s i c tx body) := by
  unfold State.serveHello
  repeat' first
    | with_reducible assumption
    | exact Blocks.le_trans rfl hm
    | with_reducible apply State.malformed_fr
    | with_reducible apply State.respond_fr
    | with_reducible apply State.subscribe_fr
    | with_reducible apply keeps_ite

theorem execHello_fr {bl : Blocks} {s0 s1 : State} (sess : Fin 4) (role : Byte) (tx : Word) (body : List Byte) {s : State} (e : execHello sess role tx body s = .next s1)
    (hm : Blocks.le { adm := true, fsp := true, evt := true, way := true, out := true } bl = true) (hev : Keeps bl s0 s) : Keeps bl s0 s1 := by
  unfold execHello at e
  refine keeps_next e ?_
  repeat' first
    | with_reducible assumption
    | refine fun (_ : Keeps _ _ _) => ?_
    | with_reducible apply keeps_whenLive
    | with_reducible apply State.request_fr
    | with_reducible apply State.serveHello_fr
    | intro x

theorem State.serveChallenge_fr {bl : Blocks} {s0 : State} {s : State} (i : Fin 4) (c : Session) (tx : Nat) (body : List Byte)
    (hm : Blocks.le { adm := true, fsp := true, evt := true, way := true, out := true, freeIdx := true } bl = true) (hev : Keeps bl s0 s) :
    Keeps bl s0 (State.serveChallenge s i c tx body) := by
  unfold State.serveChallenge
  repeat' first
    | with_reducible assumption
    | exact Blocks.le_trans rfl hm
    | with_reducible apply State.drawRandom_fr
    | with_reducible apply State.malformed_fr
    | with_reducible apply State.modSession_fr
    | with_reducible apply State.respond_fr
    | with_reducible apply keeps_ite
    | (with_reducible apply keeps_mk (a := { adm := true, fsp := true, evt := true, way := true, out := true, freeIdx := true }) hm; dsimp only [cond_true, cond_false] <;> exact rfl; split)

theorem execRoleChallenge_fr {bl : Blocks} {s0 s1 : State} (sess : Fin 4) (role : Byte) (tx : Word) (body : List Byte) {s : State} (e : execRoleChallenge sess role tx body s = .next s1)
    (hm : Blocks.le { adm := true, fsp := true, evt := true, way := true, out := true, freeIdx := true } bl = true) (hev : Keeps bl s0 s) : Keeps bl s0 s1 := by
  unfold execRoleChallenge at e
  refine keeps_next e ?_
  repeat' first
    | with_reducible assumption
    | exact Blocks.le_trans rfl hm
    | refine fun (_ : Keeps _ _ _) => ?_
    | with_reducible apply keeps_whenLive
    | with_reducible apply State.request_fr
    | with_reducible apply State.serveChallenge_fr
    | intro x

theorem State.countProof_fr {bl : Blocks} {s0 : State} {s : State} (r : Role) (ok : Bool)
    (hm : Blocks.le { key := true } bl = true) (hev : Keeps bl s0 s) :
    Keeps bl s0 (State.countProof s r ok) := by
  unfold State.countProof
  repeat' first
    | with_reducible apply keeps_ite
    | (with_reducible apply keeps_mk (a := { key := true }) hm; dsimp only [cond_true, cond_false] <;> exact rfl; with_reducible assumption)

theorem State.recordProof_fr {bl : Blocks} {s0 : State} {s : State} (r : Role) (ok : Bool) (source path : Nat)
    (hm : Blocks.le { evt := true, way := true } bl = true) (hev : Keeps bl s0 s) :
    Keeps bl s0 (State.recordProof s r ok source path) := by
  unfold State.recordProof
  repeat' first | with_reducible assumption | with_reducible apply State.recordAs_fr

theorem State.serveProof_fr {bl : Blocks} {s0 : State} {s : State} (i : Fin 4) (c : Session) (tx : Nat) (body : List Byte)
    (hm : Blocks.le { adm := true, fsp := true, evt := true, key := true, way := true, out := true } bl = true) (hev : Keeps bl s0 s) :
    Keeps bl s0 (State.serveProof s i c tx body) := by
  unfold State.serveProof
  repeat' first
    | with_reducible assumption
    | exact Blocks.le_trans rfl hm
    | with_reducible apply State.countProof_fr
    | with_reducible apply State.fspViolation_fr
    | with_reducible apply State.malformed_fr
    | with_reducible apply State.modSession_fr
    | with_reducible apply State.recordProof_fr
    | with_reducible apply State.respond_fr
    | with_reducible apply keeps_ite
    | (with_reducible apply keeps_mk (a := { adm := true, fsp := true, evt := true, key := true, way := true, out := true }) hm; dsimp only [cond_true, cond_false] <;> exact rfl; split)

theorem execRoleProof_fr {bl : Blocks} {s0 s1 : State} (sess : Fin 4) (role : Byte) (tx : Word) (body : List Byte) {s : State} (e : execRoleProof sess role tx body s = .next s1)
    (hm : Blocks.le { adm := true, fsp := true, evt := true, key := true, way := true, out := true } bl = true) (hev : Keeps bl s0 s) : Keeps bl s0 s1 := by
  unfold execRoleProof at e
  refine keeps_next e ?_
  repeat' first
    | with_reducible assumption
    | exact Blocks.le_trans rfl hm
    | refine fun (_ : Keeps _ _ _) => ?_
    | with_reducible apply keeps_whenLive
    | with_reducible apply State.request_fr
    | with_reducible apply State.serveProof_fr
    | intro x

theorem execRoleLapse_fr {bl : Blocks} {s0 s1 : State} (sess : Fin 4) {s : State} (e : execRoleLapse sess s = .next s1)
    (hm : Blocks.le { adm := true, fsp := true, evt := true, way := true, out := true } bl = true) (hev : Keeps bl s0 s) : Keeps bl s0 s1 := by
  unfold execRoleLapse at e
  refine keeps_next e ?_
  repeat' first
    | with_reducible assumption
    | exact Blocks.le_trans rfl hm
    | refine fun (_ : Keeps _ _ _) => ?_
    | with_reducible apply keeps_iff
    | with_reducible apply keeps_whenLive
    | with_reducible apply State.fspViolation_fr
    | with_reducible apply State.modSession_fr
    | (with_reducible apply keeps_mk (a := { adm := true, fsp := true, evt := true, way := true, out := true }) hm; dsimp only [cond_true, cond_false] <;> exact rfl; split)
    | intro x

theorem State.settle_fr {bl : Blocks} {s0 : State} {s : State} (seq : Nat)
    (hm : Blocks.le { rad := true, node := true, adm := true, fsp := true, evt := true } bl = true) (hev : Keeps bl s0 s) :
    Keeps bl s0 (State.settle s seq) := by
  unfold State.settle
  repeat' first
    | (with_reducible apply keeps_mk (a := { rad := true, node := true, adm := true, fsp := true, evt := true }) hm; dsimp only [cond_true, cond_false] <;> exact rfl; with_reducible assumption)

theorem execPushAck_fr {bl : Blocks} {s0 s1 : State} (sess : Fin 4) (role : Byte) (type : Byte) (seq : Word) {s : State} (e : execPushAck sess role type seq s = .next s1)
    (hm : Blocks.le { rad := true, node := true, adm := true, fsp := true, evt := true, way := true, out := true } bl = true) (hev : Keeps bl s0 s) : Keeps bl s0 s1 := by
  unfold execPushAck at e
  refine keeps_next e ?_
  repeat' first
    | with_reducible assumption
    | exact Blocks.le_trans rfl hm
    | refine fun (_ : Keeps _ _ _) => ?_
    | with_reducible apply keeps_whenLive
    | with_reducible apply keeps_forEach
    | with_reducible apply State.fspViolation_fr
    | with_reducible apply State.modSession_fr
    | with_reducible apply State.pushWaiting_fr
    | with_reducible apply State.refuse_fr
    | with_reducible apply State.settle_fr
    | with_reducible apply keeps_ite
    | (with_reducible apply keeps_mk (a := { rad := true, node := true, adm := true, fsp := true, evt := true, way := true, out := true }) hm; dsimp only [cond_true, cond_false] <;> exact rfl; split)
    | intro x

theorem execSessionIdle_fr {bl : Blocks} {s0 s1 : State} (sess : Fin 4) {s : State} (e : execSessionIdle sess s = .next s1)
    (hm : Blocks.le { adm := true, fsp := true, evt := true, way := true, out := true } bl = true) (hev : Keeps bl s0 s) : Keeps bl s0 s1 := by
  unfold execSessionIdle at e
  refine keeps_next e ?_
  repeat' first
    | with_reducible assumption
    | refine fun (_ : Keeps _ _ _) => ?_
    | with_reducible apply keeps_iff
    | with_reducible apply keeps_whenLive
    | with_reducible apply State.closeSession_fr
    | (with_reducible apply keeps_mk (a := { adm := true, fsp := true, evt := true, way := true, out := true }) hm; dsimp only [cond_true, cond_false] <;> exact rfl; split)
    | intro x

theorem execSessionClose_fr {bl : Blocks} {s0 s1 : State} (sess : Fin 4) {s : State} (e : execSessionClose sess s = .next s1)
    (hm : Blocks.le { adm := true, fsp := true, evt := true, way := true, out := true } bl = true) (hev : Keeps bl s0 s) : Keeps bl s0 s1 := by
  unfold execSessionClose at e
  refine keeps_next e ?_
  repeat' first
    | with_reducible assumption
    | refine fun (_ : Keeps _ _ _) => ?_
    | with_reducible apply keeps_whenLive
    | with_reducible apply State.closeSession_fr
    | intro x

theorem State.startDial_fr {bl : Blocks} {s0 : State} {s : State}
    (hm : Blocks.le { fsp := true, out := true } bl = true) (hev : Keeps bl s0 s) :
    Keeps bl s0 (State.startDial s) := by
  unfold State.startDial
  repeat' first
    | exact Blocks.le_trans rfl hm
    | with_reducible apply State.emit_fr
    | (with_reducible apply keeps_mk (a := { fsp := true, out := true }) hm; dsimp only [cond_true, cond_false] <;> exact rfl; (first | with_reducible assumption | split))

theorem execModemOpen_fr {bl : Blocks} {s0 s1 : State} {s : State} (e : execModemOpen s = .next s1)
    (hm : Blocks.le { fsp := true, out := true } bl = true) (hev : Keeps bl s0 s) : Keeps bl s0 s1 := by
  unfold execModemOpen at e
  refine keeps_next e ?_
  repeat' first
    | with_reducible assumption
    | refine fun (_ : Keeps _ _ _) => ?_
    | with_reducible apply keeps_iff
    | with_reducible apply keeps_whenLive
    | with_reducible apply State.startDial_fr
    | intro x

theorem State.modemFail_fr {bl : Blocks} {s0 : State} {s : State}
    (hm : Blocks.le { fsp := true } bl = true) (hev : Keeps bl s0 s) :
    Keeps bl s0 (State.modemFail s) := by
  unfold State.modemFail
  repeat' first
    | (with_reducible apply keeps_mk (a := { fsp := true }) hm; dsimp only [cond_true, cond_false] <;> exact rfl; with_reducible assumption)

theorem execDialLineAnswer_fr {bl : Blocks} {s0 s1 : State} (ok connect : Bool) {s : State} (e : execDialLineAnswer ok connect s = .next s1)
    (hm : Blocks.le { fsp := true, out := true } bl = true) (hev : Keeps bl s0 s) : Keeps bl s0 s1 := by
  unfold execDialLineAnswer at e
  refine keeps_next e ?_
  repeat' first
    | with_reducible assumption
    | exact Blocks.le_trans rfl hm
    | refine fun (_ : Keeps _ _ _) => ?_
    | with_reducible apply keeps_whenLive
    | with_reducible apply State.emit_fr
    | with_reducible apply State.modemFail_fr
    | with_reducible apply keeps_ite
    | (with_reducible apply keeps_mk (a := { fsp := true, out := true }) hm; dsimp only [cond_true, cond_false] <;> exact rfl; (first | with_reducible assumption | split))
    | intro x

theorem execDialTimeout_fr {bl : Blocks} {s0 s1 : State} {s : State} (e : execDialTimeout s = .next s1)
    (hm : Blocks.le { fsp := true } bl = true) (hev : Keeps bl s0 s) : Keeps bl s0 s1 := by
  unfold execDialTimeout at e
  refine keeps_next e ?_
  repeat' first
    | with_reducible assumption
    | refine fun (_ : Keeps _ _ _) => ?_
    | with_reducible apply keeps_iff
    | with_reducible apply keeps_whenLive
    | with_reducible apply State.modemFail_fr
    | (with_reducible apply keeps_mk (a := { fsp := true }) hm; dsimp only [cond_true, cond_false] <;> exact rfl; split)
    | intro x

theorem execModemClose_fr {bl : Blocks} {s0 s1 : State} {s : State} (e : execModemClose s = .next s1)
    (hm : Blocks.le { adm := true, fsp := true, evt := true, way := true, out := true } bl = true) (hev : Keeps bl s0 s) : Keeps bl s0 s1 := by
  unfold execModemClose at e
  refine keeps_next e ?_
  repeat' first
    | with_reducible assumption
    | refine fun (_ : Keeps _ _ _) => ?_
    | with_reducible apply keeps_iff
    | with_reducible apply keeps_whenLive
    | with_reducible apply State.closeSession_fr
    | with_reducible apply keeps_ite
    | (with_reducible apply keeps_mk (a := { adm := true, fsp := true, evt := true, way := true, out := true }) hm; dsimp only [cond_true, cond_false] <;> exact rfl; (first | with_reducible apply keeps_forEach | split))
    | intro x

theorem execModemRetry_fr {bl : Blocks} {s0 s1 : State} {s : State} (e : execModemRetry s = .next s1)
    (hm : Blocks.le { fsp := true, out := true } bl = true) (hev : Keeps bl s0 s) : Keeps bl s0 s1 := by
  unfold execModemRetry at e
  refine keeps_next e ?_
  repeat' first
    | with_reducible assumption
    | refine fun (_ : Keeps _ _ _) => ?_
    | with_reducible apply keeps_iff
    | with_reducible apply keeps_whenLive
    | with_reducible apply State.startDial_fr
    | (with_reducible apply keeps_mk (a := { fsp := true, out := true }) hm; dsimp only [cond_true, cond_false] <;> exact rfl; with_reducible assumption)
    | intro x

theorem execModemCtsChange_fr {bl : Blocks} {s0 s1 : State} (asserted : Bool) {s : State} (e : execModemCtsChange asserted s = .next s1)
    (hm : Blocks.le { evt := true, fld := true } bl = true) (hev : Keeps bl s0 s) : Keeps bl s0 s1 := by
  unfold execModemCtsChange at e
  refine keeps_next e ?_
  repeat' first
    | with_reducible assumption
    | exact Blocks.le_trans rfl hm
    | refine fun (_ : Keeps _ _ _) => ?_
    | with_reducible apply keeps_whenLive
    | with_reducible apply State.postTile_fr
    | (with_reducible apply keeps_mk (a := { evt := true, fld := true }) hm; dsimp only [cond_true, cond_false] <;> exact rfl; with_reducible assumption)
    | intro x

end Sys2Proof.Machine
end

