-- ==== Sys2Proof/Laws/FrStartUp.lean ====
section
/-! SUPPORT. Every operation of Machine/StartUp.lean keeps what it does not name (Safety.lean). -/

set_option Elab.async false

namespace Sys2Proof.Machine

theorem State.fillSafe_fr {bl : Blocks} {s0 : State} {s : State}
    (hm : Blocks.le { sys := true } bl = true) (hev : Keeps bl s0 s) :
    Keeps bl s0 (State.fillSafe s) := by
  unfold State.fillSafe
  repeat' first
    | (with_reducible apply keeps_mk (a := { sys := true }) hm; dsimp only [cond_true, cond_false] <;> exact rfl; with_reducible assumption)

theorem State.driveSafe_fr {bl : Blocks} {s0 : State} {s : State}
    (hm : Blocks.le { dim := true, drv := true, evt := true, way := true } bl = true) (hev : Keeps bl s0 s) :
    Keeps bl s0 (State.driveSafe s) := by
  unfold State.driveSafe
  repeat' first
    | with_reducible assumption
    | exact Blocks.le_trans rfl hm
    | refine fun (_ : Keeps _ _ _) => ?_
    | with_reducible apply keeps_forEach
    | with_reducible apply State.kcPlanned_fr
    | with_reducible apply keeps_ite
    | (with_reducible apply keeps_mk (a := { dim := true, drv := true, evt := true, way := true }) hm; dsimp only [cond_true, cond_false] <;> exact rfl; with_reducible assumption)
    | intro x

theorem execPowerUp_fr {bl : Blocks} {s0 s1 : State} (b : Bool) (voltA voltB : Fin 65536) (base : Int) (good : Bool) {s : State} (e : execPowerUp b voltA voltB base good s = .next s1)
    (hm : Blocks.le { cn := true, time := true, mtr := true, rad := true, node := true, adm := true, fsp := true, dim := true, drv := true, can := true, que := true, evt := true, ford := true, cop := true, key := true, upd := true, way := true, mon := true, fld := true, sys := true, regs := true, out := true, freeIdx := true } bl = true) (hev : Keeps bl s0 s) : Keeps bl s0 s1 := by
  unfold execPowerUp at e
  refine keeps_next e ?_
  repeat' first
    | with_reducible assumption
    | exact Blocks.le_trans rfl hm
    | refine fun (_ : Keeps _ _ _) => ?_
    | with_reducible apply keeps_iff
    | with_reducible apply State.driveSafe_fr
    | with_reducible apply State.powerEvent_fr
    | with_reducible apply State.recordWakeAlarm_fr
    | with_reducible apply State.setInput_fr
    | with_reducible apply State.setVolts_fr
    | with_reducible apply keeps_ite
    | (with_reducible apply keeps_mk (a := { cn := true, time := true, mtr := true, rad := true, node := true, adm := true, fsp := true, dim := true, drv := true, can := true, que := true, evt := true, ford := true, cop := true, key := true, upd := true, way := true, mon := true, fld := true, sys := true, regs := true, out := true, freeIdx := true }) hm; dsimp only [cond_true, cond_false] <;> exact rfl; with_reducible apply State.restart_fr)
    | intro x

theorem State.deriveAtStart_fr {bl : Blocks} {s0 : State} {s : State}
    (hm : Blocks.le { key := true } bl = true) (hev : Keeps bl s0 s) :
    Keeps bl s0 (State.deriveAtStart s) := by
  unfold State.deriveAtStart
  repeat' first
    | with_reducible assumption
    | refine fun (_ : Keeps _ _ _) => ?_
    | with_reducible apply keeps_iff
    | with_reducible apply State.deriveStorage_fr
    | with_reducible apply State.rederiveMb_fr
    | with_reducible apply keeps_ite
    | intro x

theorem State.measured_fr {bl : Blocks} {s0 : State} {s : State} (drover firmware : BitVec 256)
    (hm : Blocks.le { key := true, sys := true } bl = true) (hev : Keeps bl s0 s) :
    Keeps bl s0 (State.measured s drover firmware) := by
  unfold State.measured
  repeat' first
    | exact Blocks.le_trans rfl hm
    | with_reducible apply State.measureCanopy_fr
    | (with_reducible apply keeps_mk (a := { key := true, sys := true }) hm; dsimp only [cond_true, cond_false] <;> exact rfl; (first | with_reducible assumption | with_reducible apply State.deriveAtStart_fr))

theorem State.heldInDrover_fr {bl : Blocks} {s0 : State} {s : State} (x : Stand)
    (hm : Blocks.le { ford := true, sys := true } bl = true) (hev : Keeps bl s0 s) :
    Keeps bl s0 (State.heldInDrover s x) := by
  unfold State.heldInDrover
  repeat' first
    | with_reducible assumption
    | exact Blocks.le_trans rfl hm
    | with_reducible apply State.modStand_fr
    | with_reducible apply keeps_ite
    | (with_reducible apply keeps_mk (a := { ford := true, sys := true }) hm; dsimp only [cond_true, cond_false] <;> exact rfl; with_reducible apply State.modStand_fr)

theorem State.restoreImage_fr {bl : Blocks} {s0 : State} {s : State} (x : Stand)
    (hm : Blocks.le { cn := true, time := true, mtr := true, rad := true, node := true, adm := true, fsp := true, dim := true, drv := true, can := true, que := true, evt := true, ford := true, cop := true, key := true, upd := true, way := true, mon := true, fld := true, sys := true, regs := true, out := true, freeIdx := true } bl = true) (hev : Keeps bl s0 s) :
    Keeps bl s0 (State.restoreImage s x) := by
  unfold State.restoreImage
  repeat' first
    | with_reducible assumption
    | exact Blocks.le_trans rfl hm
    | with_reducible apply State.record_fr
    | with_reducible apply State.restoreBackup_fr
    | with_reducible apply keeps_ite
    | (with_reducible apply keeps_mk (a := { cn := true, time := true, mtr := true, rad := true, node := true, adm := true, fsp := true, dim := true, drv := true, can := true, que := true, evt := true, ford := true, cop := true, key := true, upd := true, way := true, mon := true, fld := true, sys := true, regs := true, out := true, freeIdx := true }) hm; dsimp only [cond_true, cond_false] <;> exact rfl; (first | with_reducible apply State.record_fr | with_reducible apply State.restart_fr))

theorem execBootMeasurement_fr {bl : Blocks} {s0 s1 : State} (stand : Stand) (drover firmware : BitVec 256) (good backup : Bool) {s : State} (e : execBootMeasurement stand drover firmware good backup s = .next s1)
    (hm : Blocks.le { cn := true, time := true, mtr := true, rad := true, node := true, adm := true, fsp := true, dim := true, drv := true, can := true, que := true, evt := true, ford := true, cop := true, key := true, upd := true, way := true, mon := true, fld := true, sys := true, regs := true, out := true, freeIdx := true } bl = true) (hev : Keeps bl s0 s) : Keeps bl s0 s1 := by
  unfold execBootMeasurement at e
  refine keeps_next e ?_
  repeat' first
    | with_reducible assumption
    | exact Blocks.le_trans rfl hm
    | refine fun (_ : Keeps _ _ _) => ?_
    | with_reducible apply keeps_iff
    | with_reducible apply keeps_whenLive
    | with_reducible apply State.heldInDrover_fr
    | with_reducible apply State.measured_fr
    | with_reducible apply State.restoreImage_fr
    | with_reducible apply keeps_ite
    | intro x

theorem State.groveKeysReady_fr {bl : Blocks} {s0 : State} {s : State}
    (hm : Blocks.le { rad := true, key := true, freeIdx := true } bl = true) (hev : Keeps bl s0 s) :
    Keeps bl s0 (State.groveKeysReady s) := by
  unfold State.groveKeysReady
  repeat' first
    | with_reducible assumption
    | exact Blocks.le_trans rfl hm
    | refine fun (_ : Keeps _ _ _) => ?_
    | with_reducible apply keeps_forEach
    | with_reducible apply State.freshGroves_fr
    | with_reducible apply State.setSlot_fr
    | with_reducible apply keeps_ite
    | intro x

theorem State.serveCanopy_fr {bl : Blocks} {s0 : State} {s : State} (im : Image)
    (hm : Blocks.le { time := true, mtr := true, rad := true, drv := true, can := true, que := true, evt := true, ford := true, key := true, way := true, mon := true, fld := true, sys := true, regs := true, freeIdx := true } bl = true) (hev : Keeps bl s0 s) :
    Keeps bl s0 (State.serveCanopy s im) := by
  unfold State.serveCanopy
  repeat' first
    | with_reducible assumption
    | exact Blocks.le_trans rfl hm
    | refine fun (_ : Keeps _ _ _) => ?_
    | with_reducible apply keeps_iff
    | with_reducible apply State.deriveAtStart_fr
    | with_reducible apply State.fullLoad_fr
    | with_reducible apply State.groveKeysReady_fr
    | with_reducible apply State.measureCanopy_fr
    | (with_reducible apply keeps_mk (a := { time := true, mtr := true, rad := true, drv := true, can := true, que := true, evt := true, ford := true, key := true, way := true, mon := true, fld := true, sys := true, regs := true, freeIdx := true }) hm; dsimp only [cond_true, cond_false] <;> exact rfl; (first | with_reducible assumption | with_reducible apply State.loadMeter_fr))
    | intro x

theorem execCanopyLoaded_fr {bl : Blocks} {s0 s1 : State} (octets : List Byte) {s : State} (e : execCanopyLoaded octets s = .next s1)
    (hm : Blocks.le { time := true, mtr := true, rad := true, drv := true, can := true, que := true, evt := true, ford := true, key := true, way := true, mon := true, fld := true, sys := true, regs := true, freeIdx := true } bl = true) (hev : Keeps bl s0 s) : Keeps bl s0 s1 := by
  unfold execCanopyLoaded at e
  refine keeps_next e ?_
  repeat' first
    | with_reducible assumption
    | refine fun (_ : Keeps _ _ _) => ?_
    | with_reducible apply keeps_iff
    | with_reducible apply keeps_whenLive
    | with_reducible apply State.serveCanopy_fr
    | (with_reducible apply keeps_mk (a := { time := true, mtr := true, rad := true, drv := true, can := true, que := true, evt := true, ford := true, key := true, way := true, mon := true, fld := true, sys := true, regs := true, freeIdx := true }) hm; dsimp only [cond_true, cond_false] <;> exact rfl; split)
    | intro x

theorem execPrefTimeout_fr {bl : Blocks} {s0 s1 : State} (tick : Nat) {s : State} (e : execPrefTimeout tick s = .next s1)
    (hm : Blocks.le { time := true, ford := true, sys := true } bl = true) (hev : Keeps bl s0 s) : Keeps bl s0 s1 := by
  unfold execPrefTimeout at e
  refine keeps_next e ?_
  repeat' first
    | with_reducible assumption
    | exact Blocks.le_trans rfl hm
    | refine fun (_ : Keeps _ _ _) => ?_
    | with_reducible apply keeps_iff
    | with_reducible apply keeps_whenLive
    | with_reducible apply State.advanceTo_fr
    | with_reducible apply State.modStand_fr
    | (with_reducible apply keeps_mk (a := { time := true, ford := true, sys := true }) hm; dsimp only [cond_true, cond_false] <;> exact rfl; with_reducible apply State.modStand_fr)
    | intro x

theorem State.writeResetCmd_fr {bl : Blocks} {s0 : State} {s : State} (v : Nat) (w : Writer)
    (hm : Blocks.le { cn := true, time := true, mtr := true, rad := true, node := true, adm := true, fsp := true, dim := true, drv := true, can := true, que := true, evt := true, ford := true, cop := true, key := true, upd := true, way := true, mon := true, fld := true, sys := true, regs := true, out := true, freeIdx := true } bl = true) (hev : Keeps bl s0 s) :
    Keeps bl s0 (State.writeResetCmd s v w).1 := by
  unfold State.writeResetCmd
  repeat' first
    | with_reducible assumption
    | exact Blocks.le_trans rfl hm
    | with_reducible apply State.restart_fr
    | with_reducible apply State.saveMeter_fr
    | with_reducible apply State.writeReg_fr
    | with_reducible apply keeps_ite_fst

theorem State.writeResetCmd_keq {bl : Blocks} {s0 sx : State} {s : State} {v : Nat} {w : Writer} {qx : Reason} (e : (State.writeResetCmd s v w) = (sx, qx))
    (hm : Blocks.le { cn := true, time := true, mtr := true, rad := true, node := true, adm := true, fsp := true, dim := true, drv := true, can := true, que := true, evt := true, ford := true, cop := true, key := true, upd := true, way := true, mon := true, fld := true, sys := true, regs := true, out := true, freeIdx := true } bl = true) (hev : Keeps bl s0 s) : Keeps bl s0 sx := by
  have g := State.writeResetCmd_fr v w hm hev
  rw [e] at g
  exact g

theorem execModuleReset_fr {bl : Blocks} {s0 s1 : State} (value : Word) (w : Writer) {s : State} (e : execModuleReset value w s = .next s1)
    (hm : Blocks.le { cn := true, time := true, mtr := true, rad := true, node := true, adm := true, fsp := true, dim := true, drv := true, can := true, que := true, evt := true, ford := true, cop := true, key := true, upd := true, way := true, mon := true, fld := true, sys := true, regs := true, out := true, freeIdx := true } bl = true) (hev : Keeps bl s0 s) : Keeps bl s0 s1 := by
  unfold execModuleReset at e
  refine keeps_next e ?_
  repeat' first
    | with_reducible assumption
    | refine fun (_ : Keeps _ _ _) => ?_
    | with_reducible apply keeps_whenLive
    | with_reducible apply State.writeResetCmd_fr
    | intro x

theorem State.noteFirstBeacon_fr {bl : Blocks} {s0 : State} {s : State} (silent : Bool)
    (hm : Blocks.le { rad := true, node := true, adm := true, evt := true, way := true, sys := true } bl = true) (hev : Keeps bl s0 s) :
    Keeps bl s0 (State.noteFirstBeacon s silent) := by
  unfold State.noteFirstBeacon
  repeat' first
    | with_reducible assumption
    | exact Blocks.le_trans rfl hm
    | refine fun (_ : Keeps _ _ _) => ?_
    | with_reducible apply keeps_iff
    | with_reducible apply State.startRejoin_fr
    | with_reducible apply keeps_ite
    | (with_reducible apply keeps_mk (a := { rad := true, node := true, adm := true, evt := true, way := true, sys := true }) hm; dsimp only [cond_true, cond_false] <;> exact rfl; with_reducible assumption)
    | intro x

theorem State.writeSys_fr {bl : Blocks} {s0 : State} {s : State} (o v : Nat) (w : Writer)
    (hm : Blocks.le { cn := true, time := true, mtr := true, rad := true, node := true, adm := true, fsp := true, dim := true, drv := true, can := true, que := true, evt := true, ford := true, cop := true, key := true, upd := true, way := true, mon := true, fld := true, sys := true, regs := true, out := true, freeIdx := true } bl = true) (hev : Keeps bl s0 s) :
    Keeps bl s0 (State.writeSys s o v w).1 := by
  unfold State.writeSys
  repeat' first
    | with_reducible assumption
    | exact Blocks.le_trans rfl hm
    | with_reducible apply State.writeDormCtrl_fr
    | with_reducible apply State.writePlain_fr
    | with_reducible apply State.writePwrCfg_fr
    | with_reducible apply State.writeResetCmd_fr
    | with_reducible apply keeps_ite_fst
    | (with_reducible apply keeps_mk (a := { cn := true, time := true, mtr := true, rad := true, node := true, adm := true, fsp := true, dim := true, drv := true, can := true, que := true, evt := true, ford := true, cop := true, key := true, upd := true, way := true, mon := true, fld := true, sys := true, regs := true, out := true, freeIdx := true }) hm; dsimp only [cond_true, cond_false] <;> exact rfl; with_reducible assumption)

theorem State.writeSys_keq {bl : Blocks} {s0 sx : State} {s : State} {o v : Nat} {w : Writer} {qx : Reason} (e : (State.writeSys s o v w) = (sx, qx))
    (hm : Blocks.le { cn := true, time := true, mtr := true, rad := true, node := true, adm := true, fsp := true, dim := true, drv := true, can := true, que := true, evt := true, ford := true, cop := true, key := true, upd := true, way := true, mon := true, fld := true, sys := true, regs := true, out := true, freeIdx := true } bl = true) (hev : Keeps bl s0 s) : Keeps bl s0 sx := by
  have g := State.writeSys_fr o v w hm hev
  rw [e] at g
  exact g

end Sys2Proof.Machine
end

