-- ==== Sys2Proof/Laws/FrRegAll.lean ====
section
/-! SUPPORT. Every operation of Machine/RegAll.lean keeps what it does not name (Safety.lean). -/

set_option Elab.async false

namespace Sys2Proof.Machine

theorem State.writeEvt_fr {bl : Blocks} {s0 s : State} (o v : Nat) (hm : Blocks.le { evt := true } bl = true)
    (hev : Keeps bl s0 s) : Keeps bl s0 (s.writeEvt o v) := by
  have g : ∀ e : EvtSt, Keeps bl s0 { s with evt := e } := fun _ => keeps_mk (a := { evt := true }) hm rfl hev
  unfold State.writeEvt
  refine keeps_ite _ (State.writeEvtCtrl_fr _ (Blocks.le_trans rfl hm) hev)
    (keeps_ite _ (State.writeEvtStatus_fr _ (Blocks.le_trans rfl hm) hev) (keeps_ite _ ?_ hev))
  dsimp only
  refine keeps_ite _ ?_ (keeps_ite _ (g _) (keeps_ite _ (g _) hev))
  generalize (o - 4096) % 128 % 16 = m
  match m with
  | 0 => exact g _
  | 8 => exact g _
  | 1 | 2 | 3 | 4 | 5 | 6 | 7 | _ + 9 => exact hev

theorem State.writeQue_fr {bl : Blocks} {s0 : State} {s : State} (o v : Nat) (w : Writer)
    (hm : Blocks.le { que := true, evt := true, way := true, regs := true } bl = true) (hev : Keeps bl s0 s) :
    Keeps bl s0 (State.writeQue s o v w).1 := by
  unfold State.writeQue
  repeat' first
    | with_reducible assumption
    | exact Blocks.le_trans rfl hm
    | with_reducible apply accepted_fr
    | with_reducible apply State.writePeak_fr
    | with_reducible apply State.writePlain_fr
    | with_reducible apply State.writeQueCtrl_fr
    | with_reducible apply State.writeQueStatus_fr
    | with_reducible apply keeps_ite_fst

theorem State.writeQue_keq {bl : Blocks} {s0 sx : State} {s : State} {o v : Nat} {w : Writer} {qx : Reason} (e : (State.writeQue s o v w) = (sx, qx))
    (hm : Blocks.le { que := true, evt := true, way := true, regs := true } bl = true) (hev : Keeps bl s0 s) : Keeps bl s0 sx := by
  have g := State.writeQue_fr o v w hm hev
  rw [e] at g
  exact g

theorem State.writeWord_fr {bl : Blocks} {s0 : State} {s : State} (a v : Nat) (w : Writer)
    (hm : Blocks.le { cn := true, time := true, mtr := true, rad := true, node := true, adm := true, fsp := true, dim := true, drv := true, can := true, que := true, evt := true, ford := true, cop := true, key := true, upd := true, way := true, mon := true, fld := true, sys := true, regs := true, out := true, freeIdx := true } bl = true) (hev : Keeps bl s0 s) :
    Keeps bl s0 (State.writeWord s a v w).1 := by
  unfold State.writeWord
  repeat' first
    | with_reducible assumption
    | exact Blocks.le_trans rfl hm
    | with_reducible apply accepted_fr
    | with_reducible apply State.writeBlock_fr
    | with_reducible apply State.writeCop_fr
    | with_reducible apply State.writeEvt_fr
    | with_reducible apply State.writeFord_fr
    | with_reducible apply State.writeKey_fr
    | with_reducible apply State.writePlain_fr
    | with_reducible apply State.writeQue_fr
    | with_reducible apply State.writeSys_fr
    | with_reducible apply State.writeUpd_fr
    | with_reducible apply State.writeWayCtrl_fr
    | with_reducible apply keeps_ite_fst
    | (with_reducible apply keeps_mk (a := { cn := true, time := true, mtr := true, rad := true, node := true, adm := true, fsp := true, dim := true, drv := true, can := true, que := true, evt := true, ford := true, cop := true, key := true, upd := true, way := true, mon := true, fld := true, sys := true, regs := true, out := true, freeIdx := true }) hm; dsimp only [cond_true, cond_false] <;> exact rfl; split)

theorem State.writeWord_keq {bl : Blocks} {s0 sx : State} {s : State} {a v : Nat} {w : Writer} {qx : Reason} (e : (State.writeWord s a v w) = (sx, qx))
    (hm : Blocks.le { cn := true, time := true, mtr := true, rad := true, node := true, adm := true, fsp := true, dim := true, drv := true, can := true, que := true, evt := true, ford := true, cop := true, key := true, upd := true, way := true, mon := true, fld := true, sys := true, regs := true, out := true, freeIdx := true } bl = true) (hev : Keeps bl s0 s) : Keeps bl s0 sx := by
  have g := State.writeWord_fr a v w hm hev
  rw [e] at g
  exact g

theorem State.writeRecorded_fr {bl : Blocks} {s0 : State} {s : State} (a v : Nat) (w : Writer)
    (hm : Blocks.le { cn := true, time := true, mtr := true, rad := true, node := true, adm := true, fsp := true, dim := true, drv := true, can := true, que := true, evt := true, ford := true, cop := true, key := true, upd := true, way := true, mon := true, fld := true, sys := true, regs := true, out := true, freeIdx := true } bl = true) (hev : Keeps bl s0 s) :
    Keeps bl s0 (State.writeRecorded s a v w).1 := by
  unfold State.writeRecorded
  repeat' first
    | with_reducible assumption
    | exact Blocks.le_trans rfl hm
    | with_reducible apply State.recordWrite_fr
    | with_reducible apply State.writeWord_fr
    | with_reducible apply keeps_ite_fst

theorem State.writeRecorded_keq {bl : Blocks} {s0 sx : State} {s : State} {a v : Nat} {w : Writer} {qx : Reason} (e : (State.writeRecorded s a v w) = (sx, qx))
    (hm : Blocks.le { cn := true, time := true, mtr := true, rad := true, node := true, adm := true, fsp := true, dim := true, drv := true, can := true, que := true, evt := true, ford := true, cop := true, key := true, upd := true, way := true, mon := true, fld := true, sys := true, regs := true, out := true, freeIdx := true } bl = true) (hev : Keeps bl s0 s) : Keeps bl s0 sx := by
  have g := State.writeRecorded_fr a v w hm hev
  rw [e] at g
  exact g

theorem execRegisterWrite_fr {bl : Blocks} {s0 s1 : State} (addr value : Word) (w : Writer) {s : State} (e : execRegisterWrite addr value w s = .next s1)
    (hm : Blocks.le { cn := true, time := true, mtr := true, rad := true, node := true, adm := true, fsp := true, dim := true, drv := true, can := true, que := true, evt := true, ford := true, cop := true, key := true, upd := true, way := true, mon := true, fld := true, sys := true, regs := true, out := true, freeIdx := true } bl = true) (hev : Keeps bl s0 s) : Keeps bl s0 s1 := by
  unfold execRegisterWrite at e
  refine keeps_next e ?_
  repeat' first
    | with_reducible assumption
    | refine fun (_ : Keeps _ _ _) => ?_
    | with_reducible apply keeps_iff
    | with_reducible apply keeps_whenLive
    | with_reducible apply State.writeRecorded_fr
    | intro x

theorem State.writeWords_fr {bl : Blocks} {s0 : State} (w : Writer) (l : List Nat)
    (hm : Blocks.le { cn := true, time := true, mtr := true, rad := true, node := true, adm := true, fsp := true, dim := true, drv := true, can := true, que := true, evt := true, ford := true, cop := true, key := true, upd := true, way := true, mon := true, fld := true, sys := true, regs := true, out := true, freeIdx := true } bl = true) :
    ∀ {s : State} {a : Nat}, Keeps bl s0 s → Keeps bl s0 (s.writeWords a l w).1 := by
  induction l with
  | nil => intro s a h; exact h
  | cons v rest ih => intro s a h; exact ih (State.writeWord_fr _ _ _ (Blocks.le_trans rfl hm) h)

theorem State.writeWords_keq {bl : Blocks} {s0 s sx : State} {a : Nat} {l : List Nat} {w : Writer} {qx : Reason}
    (e : s.writeWords a l w = (sx, qx))
    (hm : Blocks.le { cn := true, time := true, mtr := true, rad := true, node := true, adm := true, fsp := true, dim := true, drv := true, can := true, que := true, evt := true, ford := true, cop := true, key := true, upd := true, way := true, mon := true, fld := true, sys := true, regs := true, out := true, freeIdx := true } bl = true)
    (hev : Keeps bl s0 s) : Keeps bl s0 sx := by
  have g : Keeps bl s0 (s.writeWords a l w).1 := State.writeWords_fr w l hm hev
  rw [e] at g
  exact g

theorem State.recordWindow_fr {bl : Blocks} {s0 : State} {s : State} (i : Fin 4) (role : Role) (reason : Reason) (head : List Byte)
    (hm : Blocks.le { evt := true, way := true } bl = true) (hev : Keeps bl s0 s) :
    Keeps bl s0 (State.recordWindow s i role reason head) := by
  unfold State.recordWindow
  repeat' first | with_reducible assumption | with_reducible apply State.recordAs_fr

theorem State.registerWindow_fr {bl : Blocks} {s0 : State} {s : State} (i : Fin 4) (c : Session) (tx : Nat) (body : List Byte)
    (hm : Blocks.le { cn := true, time := true, mtr := true, rad := true, node := true, adm := true, fsp := true, dim := true, drv := true, can := true, que := true, evt := true, ford := true, cop := true, key := true, upd := true, way := true, mon := true, fld := true, sys := true, regs := true, out := true, freeIdx := true } bl = true) (hev : Keeps bl s0 s) :
    Keeps bl s0 (State.registerWindow s i c tx body) := by
  unfold State.registerWindow
  repeat' first
    | with_reducible assumption
    | exact Blocks.le_trans rfl hm
    | with_reducible apply State.malformed_fr
    | with_reducible apply State.recordWindow_fr
    | with_reducible apply State.respond_fr
    | with_reducible apply State.writeWords_fr
    | with_reducible apply keeps_ite

theorem execRegisterWindowRead_fr {bl : Blocks} {s0 s1 : State} (sess : Fin 4) (role : Byte) (tx : Word) (body : List Byte) {s : State} (e : execRegisterWindowRead sess role tx body s = .next s1)
    (hm : Blocks.le { cn := true, time := true, mtr := true, rad := true, node := true, adm := true, fsp := true, dim := true, drv := true, can := true, que := true, evt := true, ford := true, cop := true, key := true, upd := true, way := true, mon := true, fld := true, sys := true, regs := true, out := true, freeIdx := true } bl = true) (hev : Keeps bl s0 s) : Keeps bl s0 s1 := by
  unfold execRegisterWindowRead at e
  refine keeps_next e ?_
  repeat' first
    | with_reducible assumption
    | exact Blocks.le_trans rfl hm
    | refine fun (_ : Keeps _ _ _) => ?_
    | with_reducible apply keeps_whenLive
    | with_reducible apply State.registerWindow_fr
    | with_reducible apply State.request_fr
    | intro x

theorem execRegisterWindowWrite_fr {bl : Blocks} {s0 s1 : State} (sess : Fin 4) (role : Byte) (tx : Word) (body : List Byte) {s : State} (e : execRegisterWindowWrite sess role tx body s = .next s1)
    (hm : Blocks.le { cn := true, time := true, mtr := true, rad := true, node := true, adm := true, fsp := true, dim := true, drv := true, can := true, que := true, evt := true, ford := true, cop := true, key := true, upd := true, way := true, mon := true, fld := true, sys := true, regs := true, out := true, freeIdx := true } bl = true) (hev : Keeps bl s0 s) : Keeps bl s0 s1 := by
  unfold execRegisterWindowWrite at e
  refine keeps_next e ?_
  repeat' first
    | with_reducible assumption
    | exact Blocks.le_trans rfl hm
    | refine fun (_ : Keeps _ _ _) => ?_
    | with_reducible apply keeps_whenLive
    | with_reducible apply State.registerWindow_fr
    | with_reducible apply State.request_fr
    | intro x

end Sys2Proof.Machine
end

