-- ==== Sys2Proof/Laws/FrMonitor.lean ====
section
/-! SUPPORT. Every operation of Machine/Monitor.lean keeps what it does not name (Safety.lean). -/

set_option Elab.async false

namespace Sys2Proof.Machine

theorem State.answer_fr {bl : Blocks} {s0 : State} {s : State} (lines : List String) (reason : Reason)
    (hm : Blocks.le { out := true } bl = true) (hev : Keeps bl s0 s) :
    Keeps bl s0 (State.answer s lines reason) := by
  unfold State.answer
  repeat' first | with_reducible assumption | with_reducible apply State.emits_fr

theorem State.dropRole_fr {bl : Blocks} {s0 : State} {s : State}
    (hm : Blocks.le { evt := true, way := true, mon := true } bl = true) (hev : Keeps bl s0 s) :
    Keeps bl s0 (State.dropRole s) := by
  unfold State.dropRole
  repeat' first
    | with_reducible assumption
    | exact Blocks.le_trans rfl hm
    | refine fun (_ : Keeps _ _ _) => ?_
    | with_reducible apply State.recordAs_fr
    | (with_reducible apply keeps_mk (a := { evt := true, way := true, mon := true }) hm; dsimp only [cond_true, cond_false] <;> exact rfl; with_reducible apply keeps_iff)
    | intro x

theorem State.monViolation_fr {bl : Blocks} {s0 : State} {s : State} (reason : Reason)
    (hm : Blocks.le { evt := true, way := true, mon := true, out := true } bl = true) (hev : Keeps bl s0 s) :
    Keeps bl s0 (State.monViolation s reason) := by
  unfold State.monViolation
  repeat' first
    | with_reducible assumption
    | exact Blocks.le_trans rfl hm
    | with_reducible apply State.answer_fr
    | with_reducible apply keeps_ite
    | (with_reducible apply keeps_mk (a := { evt := true, way := true, mon := true, out := true }) hm; dsimp only [cond_true, cond_false] <;> exact rfl; (first | with_reducible apply State.answer_fr | with_reducible apply State.dropRole_fr))

theorem State.monLine_fr {bl : Blocks} {s0 : State} {s : State} (boot : Bool) (need : MonNeed) (use_ : Option MonUse) (args : Bool) (f : State → State) (h_f : ∀  x, Keeps bl s0 x → Keeps bl s0 (f  x))
    (hm : Blocks.le { evt := true, way := true, mon := true, out := true } bl = true) (hev : Keeps bl s0 s) :
    Keeps bl s0 (State.monLine s boot need use_ args f) := by
  unfold State.monLine
  repeat' first
    | with_reducible assumption
    | exact Blocks.le_trans rfl hm
    | with_reducible apply State.answer_fr
    | with_reducible apply State.monViolation_fr
    | apply h_f
    | with_reducible apply keeps_ite
    | (with_reducible apply keeps_mk (a := { evt := true, way := true, mon := true, out := true }) hm; dsimp only [cond_true, cond_false] <;> exact rfl; with_reducible assumption)

theorem execMonHelp_fr {bl : Blocks} {s0 s1 : State} {s : State} (e : execMonHelp s = .next s1)
    (hm : Blocks.le { evt := true, way := true, mon := true, out := true } bl = true) (hev : Keeps bl s0 s) : Keeps bl s0 s1 := by
  unfold execMonHelp at e
  refine keeps_next e ?_
  repeat' first
    | with_reducible assumption
    | exact Blocks.le_trans rfl hm
    | refine fun (_ : Keeps _ _ _) => ?_
    | with_reducible apply keeps_whenLive
    | with_reducible apply State.answer_fr
    | with_reducible apply State.monLine_fr
    | intro x

theorem execMonLogin_fr {bl : Blocks} {s0 s1 : State} (role : Role) {s : State} (e : execMonLogin role s = .next s1)
    (hm : Blocks.le { evt := true, way := true, mon := true, out := true, freeIdx := true } bl = true) (hev : Keeps bl s0 s) : Keeps bl s0 s1 := by
  unfold execMonLogin at e
  refine keeps_next e ?_
  repeat' first
    | with_reducible assumption
    | exact Blocks.le_trans rfl hm
    | refine fun (_ : Keeps _ _ _) => ?_
    | with_reducible apply keeps_whenLive
    | with_reducible apply State.answer_fr
    | with_reducible apply State.monLine_fr
    | (with_reducible apply keeps_mk (a := { evt := true, way := true, mon := true, out := true, freeIdx := true }) hm; dsimp only [cond_true, cond_false] <;> exact rfl; with_reducible apply State.drawRandom_fr)
    | intro x

theorem State.monProofFails_fr {bl : Blocks} {s0 : State} {s : State} (r : Role)
    (hm : Blocks.le { evt := true, key := true, way := true, mon := true, out := true } bl = true) (hev : Keeps bl s0 s) :
    Keeps bl s0 (State.monProofFails s r) := by
  unfold State.monProofFails
  repeat' first
    | with_reducible assumption
    | exact Blocks.le_trans rfl hm
    | with_reducible apply State.countProof_fr
    | with_reducible apply State.monViolation_fr
    | with_reducible apply State.recordProof_fr

theorem State.monGrant_fr {bl : Blocks} {s0 : State} {s : State} (n : Nonce)
    (hm : Blocks.le { evt := true, key := true, way := true, mon := true, out := true } bl = true) (hev : Keeps bl s0 s) :
    Keeps bl s0 (State.monGrant s n) := by
  unfold State.monGrant
  repeat' first
    | with_reducible assumption
    | exact Blocks.le_trans rfl hm
    | refine fun (_ : Keeps _ _ _) => ?_
    | with_reducible apply State.answer_fr
    | with_reducible apply State.countProof_fr
    | with_reducible apply State.dropRole_fr
    | with_reducible apply State.recordProof_fr
    | (with_reducible apply keeps_mk (a := { evt := true, key := true, way := true, mon := true, out := true }) hm; dsimp only [cond_true, cond_false] <;> exact rfl; with_reducible apply keeps_iff)
    | intro x

theorem execMonProof_fr {bl : Blocks} {s0 s1 : State} (proof : List Byte) {s : State} (e : execMonProof proof s = .next s1)
    (hm : Blocks.le { evt := true, key := true, way := true, mon := true, out := true } bl = true) (hev : Keeps bl s0 s) : Keeps bl s0 s1 := by
  unfold execMonProof at e
  refine keeps_next e ?_
  repeat' first
    | with_reducible assumption
    | exact Blocks.le_trans rfl hm
    | refine fun (_ : Keeps _ _ _) => ?_
    | with_reducible apply keeps_whenLive
    | with_reducible apply State.monGrant_fr
    | with_reducible apply State.monLine_fr
    | with_reducible apply State.monProofFails_fr
    | with_reducible apply keeps_ite
    | (with_reducible apply keeps_mk (a := { evt := true, key := true, way := true, mon := true, out := true }) hm; dsimp only [cond_true, cond_false] <;> exact rfl; (first | with_reducible assumption | split))
    | intro x

theorem execMonProofLapse_fr {bl : Blocks} {s0 s1 : State} {s : State} (e : execMonProofLapse s = .next s1)
    (hm : Blocks.le { mon := true } bl = true) (hev : Keeps bl s0 s) : Keeps bl s0 s1 := by
  unfold execMonProofLapse at e
  refine keeps_next e ?_
  repeat' first
    | with_reducible assumption
    | refine fun (_ : Keeps _ _ _) => ?_
    | with_reducible apply keeps_iff
    | with_reducible apply keeps_whenLive
    | (with_reducible apply keeps_mk (a := { mon := true }) hm; dsimp only [cond_true, cond_false] <;> exact rfl; (first | with_reducible assumption | split))
    | intro x

theorem execMonLogout_fr {bl : Blocks} {s0 s1 : State} {s : State} (e : execMonLogout s = .next s1)
    (hm : Blocks.le { evt := true, way := true, mon := true, out := true } bl = true) (hev : Keeps bl s0 s) : Keeps bl s0 s1 := by
  unfold execMonLogout at e
  refine keeps_next e ?_
  repeat' first
    | with_reducible assumption
    | exact Blocks.le_trans rfl hm
    | refine fun (_ : Keeps _ _ _) => ?_
    | with_reducible apply keeps_whenLive
    | with_reducible apply State.answer_fr
    | with_reducible apply State.dropRole_fr
    | with_reducible apply State.monLine_fr
    | intro x

theorem execMonBaud_fr {bl : Blocks} {s0 s1 : State} (rate : Nat) {s : State} (e : execMonBaud rate s = .next s1)
    (hm : Blocks.le { evt := true, way := true, mon := true, out := true } bl = true) (hev : Keeps bl s0 s) : Keeps bl s0 s1 := by
  unfold execMonBaud at e
  refine keeps_next e ?_
  repeat' first
    | with_reducible assumption
    | exact Blocks.le_trans rfl hm
    | refine fun (_ : Keeps _ _ _) => ?_
    | with_reducible apply keeps_whenLive
    | with_reducible apply State.answer_fr
    | with_reducible apply State.monLine_fr
    | (with_reducible apply keeps_mk (a := { evt := true, way := true, mon := true, out := true }) hm; dsimp only [cond_true, cond_false] <;> exact rfl; with_reducible assumption)
    | intro x

theorem execMonSel_fr {bl : Blocks} {s0 s1 : State} (stand : Stand) {s : State} (e : execMonSel stand s = .next s1)
    (hm : Blocks.le { evt := true, way := true, mon := true, out := true } bl = true) (hev : Keeps bl s0 s) : Keeps bl s0 s1 := by
  unfold execMonSel at e
  refine keeps_next e ?_
  repeat' first
    | with_reducible assumption
    | exact Blocks.le_trans rfl hm
    | refine fun (_ : Keeps _ _ _) => ?_
    | with_reducible apply keeps_whenLive
    | with_reducible apply State.answer_fr
    | with_reducible apply State.monLine_fr
    | (with_reducible apply keeps_mk (a := { evt := true, way := true, mon := true, out := true }) hm; dsimp only [cond_true, cond_false] <;> exact rfl; with_reducible assumption)
    | intro x

theorem execMonRd_fr {bl : Blocks} {s0 s1 : State} (addr : Word) (count : Nat) {s : State} (e : execMonRd addr count s = .next s1)
    (hm : Blocks.le { evt := true, way := true, mon := true, out := true } bl = true) (hev : Keeps bl s0 s) : Keeps bl s0 s1 := by
  unfold execMonRd at e
  refine keeps_next e ?_
  repeat' first
    | with_reducible assumption
    | exact Blocks.le_trans rfl hm
    | refine fun (_ : Keeps _ _ _) => ?_
    | with_reducible apply keeps_whenLive
    | with_reducible apply State.answer_fr
    | with_reducible apply State.monLine_fr
    | intro x

theorem execMonWr_fr {bl : Blocks} {s0 s1 : State} (addr value : Word) {s : State} (e : execMonWr addr value s = .next s1)
    (hm : Blocks.le { cn := true, time := true, mtr := true, rad := true, node := true, adm := true, fsp := true, dim := true, drv := true, can := true, que := true, evt := true, ford := true, cop := true, key := true, upd := true, way := true, mon := true, fld := true, sys := true, regs := true, out := true, freeIdx := true } bl = true) (hev : Keeps bl s0 s) : Keeps bl s0 s1 := by
  unfold execMonWr at e
  refine keeps_next e ?_
  repeat' first
    | with_reducible assumption
    | exact Blocks.le_trans rfl hm
    | refine fun (_ : Keeps _ _ _) => ?_
    | with_reducible apply keeps_whenLive
    | with_reducible apply State.answer_fr
    | with_reducible apply State.monLine_fr
    | with_reducible apply State.writeRecorded_fr
    | intro x

theorem execMonQ_fr {bl : Blocks} {s0 s1 : State} (q count : Nat) {s : State} (e : execMonQ q count s = .next s1)
    (hm : Blocks.le { evt := true, way := true, mon := true, out := true } bl = true) (hev : Keeps bl s0 s) : Keeps bl s0 s1 := by
  unfold execMonQ at e
  refine keeps_next e ?_
  repeat' first
    | with_reducible assumption
    | exact Blocks.le_trans rfl hm
    | refine fun (_ : Keeps _ _ _) => ?_
    | with_reducible apply keeps_whenLive
    | with_reducible apply State.answer_fr
    | with_reducible apply State.monLine_fr
    | intro x

theorem execMonWb_fr {bl : Blocks} {s0 s1 : State} (seq count : Nat) {s : State} (e : execMonWb seq count s = .next s1)
    (hm : Blocks.le { evt := true, way := true, mon := true, out := true } bl = true) (hev : Keeps bl s0 s) : Keeps bl s0 s1 := by
  unfold execMonWb at e
  refine keeps_next e ?_
  repeat' first
    | with_reducible assumption
    | exact Blocks.le_trans rfl hm
    | refine fun (_ : Keeps _ _ _) => ?_
    | with_reducible apply keeps_whenLive
    | with_reducible apply State.answer_fr
    | with_reducible apply State.monLine_fr
    | intro x

theorem execMonWbclear_fr {bl : Blocks} {s0 s1 : State} (seq : Nat) {s : State} (e : execMonWbclear seq s = .next s1)
    (hm : Blocks.le { fsp := true, evt := true, way := true, mon := true, out := true } bl = true) (hev : Keeps bl s0 s) : Keeps bl s0 s1 := by
  unfold execMonWbclear at e
  refine keeps_next e ?_
  repeat' first
    | with_reducible assumption
    | exact Blocks.le_trans rfl hm
    | refine fun (_ : Keeps _ _ _) => ?_
    | with_reducible apply keeps_whenLive
    | with_reducible apply State.answer_fr
    | with_reducible apply State.clearWaybill_fr
    | with_reducible apply State.monLine_fr
    | intro x

theorem execMonStatus_fr {bl : Blocks} {s0 s1 : State} {s : State} (e : execMonStatus s = .next s1)
    (hm : Blocks.le { evt := true, way := true, mon := true, out := true } bl = true) (hev : Keeps bl s0 s) : Keeps bl s0 s1 := by
  unfold execMonStatus at e
  refine keeps_next e ?_
  repeat' first
    | with_reducible assumption
    | exact Blocks.le_trans rfl hm
    | refine fun (_ : Keeps _ _ _) => ?_
    | with_reducible apply keeps_whenLive
    | with_reducible apply State.answer_fr
    | with_reducible apply State.monLine_fr
    | intro x

theorem execMonCop_fr {bl : Blocks} {s0 s1 : State} {s : State} (e : execMonCop s = .next s1)
    (hm : Blocks.le { evt := true, way := true, mon := true, out := true } bl = true) (hev : Keeps bl s0 s) : Keeps bl s0 s1 := by
  unfold execMonCop at e
  refine keeps_next e ?_
  repeat' first
    | with_reducible assumption
    | exact Blocks.le_trans rfl hm
    | refine fun (_ : Keeps _ _ _) => ?_
    | with_reducible apply keeps_whenLive
    | with_reducible apply State.answer_fr
    | with_reducible apply State.monLine_fr
    | intro x

theorem execMonDrover_fr {bl : Blocks} {s0 s1 : State} {s : State} (e : execMonDrover s = .next s1)
    (hm : Blocks.le { evt := true, way := true, mon := true, out := true } bl = true) (hev : Keeps bl s0 s) : Keeps bl s0 s1 := by
  unfold execMonDrover at e
  refine keeps_next e ?_
  repeat' first
    | with_reducible assumption
    | exact Blocks.le_trans rfl hm
    | refine fun (_ : Keeps _ _ _) => ?_
    | with_reducible apply keeps_whenLive
    | with_reducible apply State.answer_fr
    | with_reducible apply State.monLine_fr
    | intro x

theorem execMonAtt_fr {bl : Blocks} {s0 s1 : State} (chal : List Byte) {s : State} (e : execMonAtt chal s = .next s1)
    (hm : Blocks.le { evt := true, key := true, way := true, mon := true, out := true } bl = true) (hev : Keeps bl s0 s) : Keeps bl s0 s1 := by
  unfold execMonAtt at e
  refine keeps_next e ?_
  repeat' first
    | with_reducible assumption
    | exact Blocks.le_trans rfl hm
    | refine fun (_ : Keeps _ _ _) => ?_
    | with_reducible apply keeps_whenLive
    | with_reducible apply State.answer_fr
    | with_reducible apply State.attest_fr
    | with_reducible apply State.monLine_fr
    | intro x

theorem execMonTamperMaint_fr {bl : Blocks} {s0 s1 : State} (minutes : Nat) {s : State} (e : execMonTamperMaint minutes s = .next s1)
    (hm : Blocks.le { rad := true, adm := true, fsp := true, can := true, evt := true, ford := true, cop := true, key := true, upd := true, way := true, mon := true, out := true, freeIdx := true } bl = true) (hev : Keeps bl s0 s) : Keeps bl s0 s1 := by
  unfold execMonTamperMaint at e
  refine keeps_next e ?_
  repeat' first
    | with_reducible assumption
    | exact Blocks.le_trans rfl hm
    | refine fun (_ : Keeps _ _ _) => ?_
    | with_reducible apply keeps_whenLive
    | with_reducible apply State.answer_fr
    | with_reducible apply State.monLine_fr
    | with_reducible apply State.writeTmpMaint_fr
    | intro x

theorem execMonTamperClear_fr {bl : Blocks} {s0 s1 : State} {s : State} (e : execMonTamperClear s = .next s1)
    (hm : Blocks.le { rad := true, node := true, adm := true, evt := true, key := true, upd := true, way := true, mon := true, out := true, freeIdx := true } bl = true) (hev : Keeps bl s0 s) : Keeps bl s0 s1 := by
  unfold execMonTamperClear at e
  refine keeps_next e ?_
  repeat' first
    | with_reducible assumption
    | exact Blocks.le_trans rfl hm
    | refine fun (_ : Keeps _ _ _) => ?_
    | with_reducible apply keeps_whenLive
    | with_reducible apply State.answer_fr
    | with_reducible apply State.monLine_fr
    | with_reducible apply State.writeTmpClear_fr
    | intro x

theorem State.startTest_fr {bl : Blocks} {s0 : State} {s : State} (phy ch power seconds : Nat)
    (hm : Blocks.le { rad := true, evt := true, way := true, mon := true, out := true } bl = true) (hev : Keeps bl s0 s) :
    Keeps bl s0 (State.startTest s phy ch power seconds) := by
  unfold State.startTest
  repeat' first
    | with_reducible assumption
    | exact Blocks.le_trans rfl hm
    | with_reducible apply State.answer_fr
    | with_reducible apply State.emit_fr
    | with_reducible apply State.recordAs_fr
    | (with_reducible apply keeps_mk (a := { rad := true, evt := true, way := true, mon := true, out := true }) hm; dsimp only [cond_true, cond_false] <;> exact rfl; with_reducible apply State.addDuty_fr)

theorem execMonRftx_fr {bl : Blocks} {s0 s1 : State} (phy channel power seconds : Nat) {s : State} (e : execMonRftx phy channel power seconds s = .next s1)
    (hm : Blocks.le { rad := true, evt := true, way := true, mon := true, out := true } bl = true) (hev : Keeps bl s0 s) : Keeps bl s0 s1 := by
  unfold execMonRftx at e
  refine keeps_next e ?_
  repeat' first
    | with_reducible assumption
    | exact Blocks.le_trans rfl hm
    | refine fun (_ : Keeps _ _ _) => ?_
    | with_reducible apply keeps_whenLive
    | with_reducible apply State.answer_fr
    | with_reducible apply State.monLine_fr
    | with_reducible apply State.startTest_fr
    | with_reducible apply keeps_ite
    | intro x

theorem execRftxEnd_fr {bl : Blocks} {s0 s1 : State} {s : State} (e : execRftxEnd s = .next s1)
    (hm : Blocks.le { mon := true } bl = true) (hev : Keeps bl s0 s) : Keeps bl s0 s1 := by
  unfold execRftxEnd at e
  refine keeps_next e ?_
  repeat' first
    | with_reducible assumption
    | refine fun (_ : Keeps _ _ _) => ?_
    | with_reducible apply keeps_iff
    | with_reducible apply keeps_whenLive
    | (with_reducible apply keeps_mk (a := { mon := true }) hm; dsimp only [cond_true, cond_false] <;> exact rfl; (first | with_reducible assumption | split))
    | intro x

theorem execMonUnknown_fr {bl : Blocks} {s0 s1 : State} (malformed : Bool) {s : State} (e : execMonUnknown malformed s = .next s1)
    (hm : Blocks.le { evt := true, way := true, mon := true, out := true } bl = true) (hev : Keeps bl s0 s) : Keeps bl s0 s1 := by
  unfold execMonUnknown at e
  refine keeps_next e ?_
  repeat' first
    | with_reducible assumption
    | exact Blocks.le_trans rfl hm
    | refine fun (_ : Keeps _ _ _) => ?_
    | with_reducible apply keeps_whenLive
    | with_reducible apply State.monLine_fr
    | with_reducible apply State.monViolation_fr
    | intro x

theorem execMonMuteEnd_fr {bl : Blocks} {s0 s1 : State} {s : State} (e : execMonMuteEnd s = .next s1)
    (hm : Blocks.le { mon := true } bl = true) (hev : Keeps bl s0 s) : Keeps bl s0 s1 := by
  unfold execMonMuteEnd at e
  refine keeps_next e ?_
  repeat' first
    | with_reducible assumption
    | refine fun (_ : Keeps _ _ _) => ?_
    | with_reducible apply keeps_iff
    | with_reducible apply keeps_whenLive
    | (with_reducible apply keeps_mk (a := { mon := true }) hm; dsimp only [cond_true, cond_false] <;> exact rfl; (first | with_reducible assumption | split))
    | intro x

theorem execMonIdle_fr {bl : Blocks} {s0 s1 : State} {s : State} (e : execMonIdle s = .next s1)
    (hm : Blocks.le { evt := true, way := true, mon := true } bl = true) (hev : Keeps bl s0 s) : Keeps bl s0 s1 := by
  unfold execMonIdle at e
  refine keeps_next e ?_
  repeat' first
    | with_reducible assumption
    | refine fun (_ : Keeps _ _ _) => ?_
    | with_reducible apply keeps_iff
    | with_reducible apply keeps_whenLive
    | with_reducible apply State.dropRole_fr
    | intro x

end Sys2Proof.Machine
end

