-- ==== Sys2Proof/Laws/FrCycle.lean ====
section
/-! SUPPORT. Every operation of Machine/Cycle.lean keeps what it does not name (Safety.lean). -/

set_option Elab.async false

namespace Sys2Proof.Machine

theorem State.shadowCycle_fr {bl : Blocks} {s0 : State} {s : State}
    (hm : Blocks.le { cn := true, time := true, ford := true } bl = true) (hev : Keeps bl s0 s) :
    Keeps bl s0 (State.shadowCycle s) := by
  unfold State.shadowCycle
  repeat' first
    | with_reducible assumption
    | exact Blocks.le_trans rfl hm
    | (with_reducible apply keeps_mk (a := { cn := true, time := true, ford := true }) hm; dsimp only [cond_true, cond_false] <;> exact rfl; with_reducible apply State.advanceTo_fr)

theorem State.shadowSecond_fr {bl : Blocks} {s0 : State} {s : State}
    (hm : Blocks.le { time := true } bl = true) (hev : Keeps bl s0 s) :
    Keeps bl s0 (State.shadowSecond s) := by
  unfold State.shadowSecond
  repeat' first
    | with_reducible assumption
    | (with_reducible apply keeps_mk (a := { time := true }) hm; dsimp only [cond_true, cond_false] <;> exact rfl; with_reducible apply State.advanceTo_fr)

theorem State.rebaseTick_fr {bl : Blocks} {s0 : State} {s : State}
    (hm : Blocks.le { cn := true, time := true, mtr := true, rad := true, node := true, adm := true, fsp := true, dim := true, drv := true, can := true, evt := true, ford := true, cop := true, key := true, upd := true, way := true, mon := true, sys := true } bl = true) (hev : Keeps bl s0 s) :
    Keeps bl s0 (State.rebaseTick s) := by
  unfold State.rebaseTick
  repeat' first
    | with_reducible assumption
    | exact Blocks.le_trans rfl hm
    | with_reducible apply State.rebaseEvent_fr
    | with_reducible apply keeps_ite
    | (with_reducible apply keeps_mk (a := { cn := true, time := true, mtr := true, rad := true, node := true, adm := true, fsp := true, dim := true, drv := true, can := true, evt := true, ford := true, cop := true, key := true, upd := true, way := true, mon := true, sys := true }) hm; dsimp only [cond_true, cond_false] <;> exact rfl; (first | with_reducible apply State.moveCount_fr | split))

theorem State.countCycle_fr {bl : Blocks} {s0 : State} {s : State}
    (hm : Blocks.le { cn := true, time := true, mtr := true, rad := true, node := true, adm := true, fsp := true, dim := true, drv := true, can := true, evt := true, ford := true, cop := true, key := true, upd := true, way := true, mon := true, sys := true } bl = true) (hev : Keeps bl s0 s) :
    Keeps bl s0 (State.countCycle s) := by
  unfold State.countCycle
  repeat' first
    | with_reducible assumption
    | exact Blocks.le_trans rfl hm
    | with_reducible apply State.nextCycle_fr
    | with_reducible apply State.noteFreeRun_fr
    | with_reducible apply State.rebaseTick_fr
    | with_reducible apply State.shadowCycle_fr
    | (with_reducible apply keeps_mk (a := { cn := true, time := true, mtr := true, rad := true, node := true, adm := true, fsp := true, dim := true, drv := true, can := true, evt := true, ford := true, cop := true, key := true, upd := true, way := true, mon := true, sys := true }) hm; dsimp only [cond_true, cond_false] <;> exact rfl; (first | with_reducible apply State.post_fr | with_reducible apply keeps_ite))

theorem State.lateLatch_fr {bl : Blocks} {s0 : State} {s : State}
    (hm : Blocks.le { time := true, mtr := true, fsp := true, evt := true, way := true, regs := true, out := true } bl = true) (hev : Keeps bl s0 s) :
    Keeps bl s0 (State.lateLatch s) := by
  unfold State.lateLatch
  repeat' first | with_reducible assumption | with_reducible apply State.boundary_fr | with_reducible apply keeps_ite

theorem State.meterCycle_fr {bl : Blocks} {s0 : State} {s : State} (sums : List PhaseSum) (rms : List Nat) (clipped : List (Fin 16))
    (hm : Blocks.le { time := true, mtr := true, fsp := true, evt := true, cop := true, way := true, regs := true, out := true } bl = true) (hev : Keeps bl s0 s) :
    Keeps bl s0 (State.meterCycle s sums rms clipped) := by
  unfold State.meterCycle
  repeat' first
    | with_reducible assumption
    | exact Blocks.le_trans rfl hm
    | refine fun (_ : Keeps _ _ _) => ?_
    | with_reducible apply keeps_iff
    | with_reducible apply State.boundary_fr
    | with_reducible apply State.meterTick_fr
    | with_reducible apply keeps_ite
    | intro x

theorem State.lumStep_fr {bl : Blocks} {s0 : State} {s : State} (l : Nat) (x : LevelStep) (at_ : Cn)
    (hm : Blocks.le { drv := true } bl = true) (hev : Keeps bl s0 s) :
    Keeps bl s0 (State.lumStep s l x at_) := by
  unfold State.lumStep
  repeat' first | with_reducible assumption | with_reducible apply State.modLum_fr

theorem State.takeStep_fr {bl : Blocks} {s0 : State} {s : State} (l : Nat) (x : LevelStep) (again : Bool)
    (hm : Blocks.le { drv := true, evt := true, way := true } bl = true) (hev : Keeps bl s0 s) :
    Keeps bl s0 (State.takeStep s l x again) := by
  unfold State.takeStep
  repeat' first
    | with_reducible assumption
    | exact Blocks.le_trans rfl hm
    | refine fun (_ : Keeps _ _ _) => ?_
    | with_reducible apply keeps_iff
    | with_reducible apply State.lumStep_fr
    | with_reducible apply State.postTile_fr
    | with_reducible apply State.record_fr
    | with_reducible apply State.superseded_fr
    | with_reducible apply keeps_ite
    | intro x

theorem State.takeSteps_fr {bl : Blocks} {s0 : State} (l : Nat) (xs : List LevelStep)
    (hm : Blocks.le { drv := true, evt := true, way := true } bl = true) :
    ∀ {s : State}, Keeps bl s0 s → Keeps bl s0 (s.takeSteps l xs) := by
  induction xs with
  | nil => intro s h; exact h
  | cons x r ih => intro s h; exact ih (State.takeStep_fr _ _ _ (Blocks.le_trans rfl hm) h)

theorem State.profileTick_fr {bl : Blocks} {s0 : State} {s : State}
    (hm : Blocks.le { time := true, drv := true, evt := true, way := true } bl = true) (hev : Keeps bl s0 s) :
    Keeps bl s0 (State.profileTick s) := by
  unfold State.profileTick
  repeat' first
    | with_reducible assumption
    | exact Blocks.le_trans rfl hm
    | refine fun (_ : Keeps _ _ _) => ?_
    | with_reducible apply State.takeSteps_fr
    | with_reducible apply keeps_ite
    | (with_reducible apply keeps_mk (a := { time := true, drv := true, evt := true, way := true }) hm; dsimp only [cond_true, cond_false] <;> exact rfl; (first | with_reducible assumption | with_reducible apply keeps_forEach))
    | intro x

theorem State.firstLevels_fr {bl : Blocks} {s0 : State} {s : State} (l : Nat)
    (hm : Blocks.le { drv := true } bl = true) (hev : Keeps bl s0 s) :
    Keeps bl s0 (State.firstLevels s l) := by
  unfold State.firstLevels
  repeat' first
    | with_reducible assumption
    | refine fun (_ : Keeps _ _ _) => ?_
    | with_reducible apply keeps_forEach
    | with_reducible apply State.lumStep_fr
    | with_reducible apply State.modLum_fr
    | intro x

theorem State.endStartSafe_fr {bl : Blocks} {s0 : State} {s : State}
    (hm : Blocks.le { time := true, drv := true, sys := true } bl = true) (hev : Keeps bl s0 s) :
    Keeps bl s0 (State.endStartSafe s) := by
  unfold State.endStartSafe
  repeat' first
    | with_reducible assumption
    | exact Blocks.le_trans rfl hm
    | refine fun (_ : Keeps _ _ _) => ?_
    | with_reducible apply State.firstLevels_fr
    | with_reducible apply keeps_ite
    | (with_reducible apply keeps_mk (a := { time := true, drv := true, sys := true }) hm; dsimp only [cond_true, cond_false] <;> exact rfl; with_reducible apply keeps_forEach)
    | intro x

theorem State.contactorTick_fr {bl : Blocks} {s0 : State} {s : State}
    (hm : Blocks.le { dim := true, evt := true, way := true } bl = true) (hev : Keeps bl s0 s) :
    Keeps bl s0 (State.contactorTick s) := by
  unfold State.contactorTick
  repeat' first
    | with_reducible assumption
    | exact Blocks.le_trans rfl hm
    | refine fun (_ : Keeps _ _ _) => ?_
    | with_reducible apply keeps_iff
    | with_reducible apply keeps_forEach
    | with_reducible apply State.fixPlans_fr
    | with_reducible apply State.kcCompare_fr
    | with_reducible apply State.kcDue_fr
    | with_reducible apply State.kcSafe_fr
    | intro x

theorem State.fordCopies_fr {bl : Blocks} {s0 : State} {s : State}
    (hm : Blocks.le { ford := true, sys := true } bl = true) (hev : Keeps bl s0 s) :
    Keeps bl s0 (State.fordCopies s) := by
  unfold State.fordCopies
  repeat' first
    | with_reducible assumption
    | exact Blocks.le_trans rfl hm
    | refine fun (_ : Keeps _ _ _) => ?_
    | with_reducible apply keeps_iff
    | with_reducible apply State.fillSafe_fr
    | (with_reducible apply keeps_mk (a := { ford := true, sys := true }) hm; dsimp only [cond_true, cond_false] <;> exact rfl; with_reducible apply State.takeShadow_fr)
    | intro x

theorem State.dayFlood_fr {bl : Blocks} {s0 : State} {s : State}
    (hm : Blocks.le { rad := true, dim := true } bl = true) (hev : Keeps bl s0 s) :
    Keeps bl s0 (State.dayFlood s) := by
  unfold State.dayFlood
  repeat' first
    | with_reducible assumption
    | exact Blocks.le_trans rfl hm
    | refine fun (_ : Keeps _ _ _) => ?_
    | with_reducible apply State.floodItem_fr
    | with_reducible apply keeps_ite
    | (with_reducible apply keeps_mk (a := { rad := true, dim := true }) hm; dsimp only [cond_true, cond_false] <;> exact rfl; (first | with_reducible apply keeps_forEach | split))
    | intro x

theorem State.testTick_fr {bl : Blocks} {s0 : State} {s : State}
    (hm : Blocks.le { mon := true } bl = true) (hev : Keeps bl s0 s) :
    Keeps bl s0 (State.testTick s) := by
  unfold State.testTick
  repeat' first
    | with_reducible assumption
    | refine fun (_ : Keeps _ _ _) => ?_
    | with_reducible apply keeps_iff
    | with_reducible apply State.endTest_fr
    | intro x

theorem State.serviceTick_fr {bl : Blocks} {s0 : State} {s : State}
    (hm : Blocks.le { cn := true, time := true, mtr := true, rad := true, node := true, adm := true, fsp := true, dim := true, drv := true, can := true, que := true, evt := true, ford := true, cop := true, key := true, upd := true, way := true, mon := true, fld := true, sys := true, regs := true, out := true, freeIdx := true } bl = true) (hev : Keeps bl s0 s) :
    Keeps bl s0 (State.serviceTick s) := by
  unfold State.serviceTick
  repeat' first
    | with_reducible assumption
    | exact hm
    | exact Blocks.le_trans rfl hm
    | refine fun (_ : Keeps _ _ _) => ?_
    | with_reducible apply keeps_iff
    | with_reducible apply keeps_whenLive
    | with_reducible apply keeps_forEach
    | with_reducible apply State.caravanTick_fr
    | with_reducible apply State.checkRejoin_fr
    | with_reducible apply State.clearingTick_fr
    | with_reducible apply State.clearingsLeave_fr
    | with_reducible apply State.dayFlood_fr
    | with_reducible apply State.endedTick_fr
    | with_reducible apply State.groveKeysReady_fr
    | with_reducible apply State.markAll_fr
    | with_reducible apply State.noteUngranted_fr
    | with_reducible apply State.plainActivation_fr
    | with_reducible apply State.rebootTick_fr
    | with_reducible apply State.recoverPromises_fr
    | with_reducible apply State.regulatoryTick_fr
    | with_reducible apply State.reloadRoutes_fr
    | with_reducible apply State.rerouteAll_fr
    | with_reducible apply State.sliceTick_fr
    | with_reducible apply State.stageTick_fr
    | with_reducible apply State.switchGroveKeys_fr
    | with_reducible apply State.switchTick_fr
    | with_reducible apply State.testTick_fr
    | with_reducible apply keeps_ite
    | (with_reducible apply keeps_mk (a := { cn := true, time := true, mtr := true, rad := true, node := true, adm := true, fsp := true, dim := true, drv := true, can := true, que := true, evt := true, ford := true, cop := true, key := true, upd := true, way := true, mon := true, fld := true, sys := true, regs := true, out := true, freeIdx := true }) hm; dsimp only [cond_true, cond_false] <;> exact rfl; (first | with_reducible assumption | exact hm | exact Blocks.le_trans rfl hm | with_reducible apply keeps_iff | with_reducible apply keeps_whenLive | with_reducible apply keeps_forEach | with_reducible apply State.caravanTick_fr | with_reducible apply State.checkRejoin_fr | with_reducible apply State.clearingTick_fr | with_reducible apply State.clearingsLeave_fr | with_reducible apply State.dayFlood_fr | with_reducible apply State.endedTick_fr | with_reducible apply State.groveKeysReady_fr | with_reducible apply State.markAll_fr | with_reducible apply State.noteUngranted_fr | with_reducible apply State.plainActivation_fr | with_reducible apply State.rebootTick_fr | with_reducible apply State.recoverPromises_fr | with_reducible apply State.regulatoryTick_fr | with_reducible apply State.reloadRoutes_fr | with_reducible apply State.rerouteAll_fr | with_reducible apply State.sliceTick_fr | with_reducible apply State.stageTick_fr | with_reducible apply State.switchGroveKeys_fr | with_reducible apply State.switchTick_fr | with_reducible apply State.testTick_fr | with_reducible apply keeps_ite | split))
    | (intro x; refine keeps_cut (l := bl) (s0 := s0) (x := x) ?_ ?_; rotate_left; clear_value x; intro hx; rotate_left; subst x)
    | intro x
    | split
    | lift_lets
    | dsimp only

theorem State.cycle_fr {bl : Blocks} {s0 : State} {s : State} (sums : List PhaseSum) (rms : List Nat) (clipped : List (Fin 16)) (busy : List Nat)
    (hm : Blocks.le { cn := true, time := true, mtr := true, rad := true, node := true, adm := true, fsp := true, dim := true, drv := true, can := true, que := true, evt := true, ford := true, cop := true, key := true, upd := true, way := true, mon := true, fld := true, sys := true, regs := true, out := true, freeIdx := true } bl = true) (hev : Keeps bl s0 s) :
    Keeps bl s0 (State.cycle s sums rms clipped busy) := by
  unfold State.cycle
  repeat' first
    | with_reducible assumption
    | exact hm
    | exact Blocks.le_trans rfl hm
    | refine fun (_ : Keeps _ _ _) => ?_
    | with_reducible apply keeps_iff
    | with_reducible apply keeps_whenLive
    | with_reducible apply keeps_forEach
    | with_reducible apply State.autoDormTick_fr
    | with_reducible apply State.configTick_fr
    | with_reducible apply State.contactorTick_fr
    | with_reducible apply State.countCycle_fr
    | with_reducible apply State.dormTick_fr
    | with_reducible apply State.drvTick_fr
    | with_reducible apply State.endStartSafe_fr
    | with_reducible apply State.fordCopies_fr
    | with_reducible apply State.holdReboot_fr
    | with_reducible apply State.lateLatch_fr
    | with_reducible apply State.meterCycle_fr
    | with_reducible apply State.noteFirstBeacon_fr
    | with_reducible apply State.profileTick_fr
    | with_reducible apply State.promiseTick_fr
    | with_reducible apply State.serviceTick_fr
    | with_reducible apply State.slotStart_fr
    | with_reducible apply keeps_ite
    | (with_reducible apply keeps_mk (a := { cn := true, time := true, mtr := true, rad := true, node := true, adm := true, fsp := true, dim := true, drv := true, can := true, que := true, evt := true, ford := true, cop := true, key := true, upd := true, way := true, mon := true, fld := true, sys := true, regs := true, out := true, freeIdx := true }) hm; dsimp only [cond_true, cond_false] <;> exact rfl; (first | with_reducible assumption | exact hm | exact Blocks.le_trans rfl hm | with_reducible apply keeps_iff | with_reducible apply keeps_whenLive | with_reducible apply keeps_forEach | with_reducible apply State.autoDormTick_fr | with_reducible apply State.configTick_fr | with_reducible apply State.contactorTick_fr | with_reducible apply State.countCycle_fr | with_reducible apply State.dormTick_fr | with_reducible apply State.drvTick_fr | with_reducible apply State.endStartSafe_fr | with_reducible apply State.fordCopies_fr | with_reducible apply State.holdReboot_fr | with_reducible apply State.lateLatch_fr | with_reducible apply State.meterCycle_fr | with_reducible apply State.noteFirstBeacon_fr | with_reducible apply State.profileTick_fr | with_reducible apply State.promiseTick_fr | with_reducible apply State.serviceTick_fr | with_reducible apply State.slotStart_fr | with_reducible apply keeps_ite | split))
    | (intro x; refine keeps_cut (l := bl) (s0 := s0) (x := x) ?_ ?_; rotate_left; clear_value x; intro hx; rotate_left; subst x)
    | intro x
    | split
    | lift_lets
    | dsimp only

theorem execCycleTick_fr {bl : Blocks} {s0 s1 : State} (sums : List PhaseSum) (rms : List Nat) (clipped : List (Fin 16)) (busy : List Nat) (power mj : Fin 65536) (pct : Fin 256) {s : State} (e : execCycleTick sums rms clipped busy power mj pct s = .next s1)
    (hm : Blocks.le { cn := true, time := true, mtr := true, rad := true, node := true, adm := true, fsp := true, dim := true, drv := true, can := true, que := true, evt := true, ford := true, cop := true, key := true, upd := true, way := true, mon := true, fld := true, sys := true, regs := true, out := true, freeIdx := true } bl = true) (hev : Keeps bl s0 s) : Keeps bl s0 s1 := by
  unfold execCycleTick at e
  refine keeps_next e ?_
  repeat' first
    | with_reducible assumption
    | exact Blocks.le_trans rfl hm
    | refine fun (_ : Keeps _ _ _) => ?_
    | with_reducible apply keeps_iff
    | with_reducible apply keeps_whenLive
    | with_reducible apply State.cycle_fr
    | (with_reducible apply keeps_mk (a := { cn := true, time := true, mtr := true, rad := true, node := true, adm := true, fsp := true, dim := true, drv := true, can := true, que := true, evt := true, ford := true, cop := true, key := true, upd := true, way := true, mon := true, fld := true, sys := true, regs := true, out := true, freeIdx := true }) hm; dsimp only [cond_true, cond_false] <;> exact rfl; with_reducible apply State.setStore_fr)
    | intro x

theorem execSlotMidpoint_fr {bl : Blocks} {s0 s1 : State} (busy : List Nat) (planned : Bool) {s : State} (e : execSlotMidpoint busy planned s = .next s1)
    (hm : Blocks.le { time := true, rad := true, node := true, adm := true, evt := true, ford := true, key := true, upd := true, way := true, sys := true, out := true, freeIdx := true } bl = true) (hev : Keeps bl s0 s) : Keeps bl s0 s1 := by
  unfold execSlotMidpoint at e
  refine keeps_next e ?_
  repeat' first
    | with_reducible assumption
    | exact Blocks.le_trans rfl hm
    | refine fun (_ : Keeps _ _ _) => ?_
    | with_reducible apply keeps_iff
    | with_reducible apply keeps_whenLive
    | with_reducible apply State.beginSecond_fr
    | with_reducible apply State.noteFirstBeacon_fr
    | with_reducible apply State.shadowSecond_fr
    | with_reducible apply State.slotStart_fr
    | (with_reducible apply keeps_mk (a := { time := true, rad := true, node := true, adm := true, evt := true, ford := true, key := true, upd := true, way := true, sys := true, out := true, freeIdx := true }) hm; dsimp only [cond_true, cond_false] <;> exact rfl; with_reducible apply keeps_ite)
    | intro x

end Sys2Proof.Machine
end

