-- ==== Sys2Proof/Laws/State.lean ====
section
/-! SUPPORT. What each plain update of the state leaves alone, one lemma per field and update, and how a stored register
reads after a write. -/

namespace Sys2Proof.Machine

variable (s : State)

@[simp] theorem State.advance_build (n : Nat) : (s.advance n).build = s.build := rfl
@[simp] theorem State.advance_cn (n : Nat) : (s.advance n).cn = s.cn := rfl
@[simp] theorem State.advance_mtr (n : Nat) : (s.advance n).mtr = s.mtr := rfl
@[simp] theorem State.advance_rad (n : Nat) : (s.advance n).rad = s.rad := rfl
@[simp] theorem State.advance_node (n : Nat) : (s.advance n).node = s.node := rfl
@[simp] theorem State.advance_adm (n : Nat) : (s.advance n).adm = s.adm := rfl
@[simp] theorem State.advance_fsp (n : Nat) : (s.advance n).fsp = s.fsp := rfl
@[simp] theorem State.advance_dim (n : Nat) : (s.advance n).dim = s.dim := rfl
@[simp] theorem State.advance_drv (n : Nat) : (s.advance n).drv = s.drv := rfl
@[simp] theorem State.advance_can (n : Nat) : (s.advance n).can = s.can := rfl
@[simp] theorem State.advance_que (n : Nat) : (s.advance n).que = s.que := rfl
@[simp] theorem State.advance_evt (n : Nat) : (s.advance n).evt = s.evt := rfl
@[simp] theorem State.advance_ford (n : Nat) : (s.advance n).ford = s.ford := rfl
@[simp] theorem State.advance_cop (n : Nat) : (s.advance n).cop = s.cop := rfl
@[simp] theorem State.advance_key (n : Nat) : (s.advance n).key = s.key := rfl
@[simp] theorem State.advance_upd (n : Nat) : (s.advance n).upd = s.upd := rfl
@[simp] theorem State.advance_way (n : Nat) : (s.advance n).way = s.way := rfl
@[simp] theorem State.advance_mon (n : Nat) : (s.advance n).mon = s.mon := rfl
@[simp] theorem State.advance_fld (n : Nat) : (s.advance n).fld = s.fld := rfl
@[simp] theorem State.advance_sys (n : Nat) : (s.advance n).sys = s.sys := rfl
@[simp] theorem State.advance_regs (n : Nat) : (s.advance n).regs = s.regs := rfl
@[simp] theorem State.advance_out (n : Nat) : (s.advance n).out = s.out := rfl
@[simp] theorem State.advance_pending (n : Nat) : (s.advance n).pending = s.pending := rfl
@[simp] theorem State.advance_freeIdx (n : Nat) : (s.advance n).freeIdx = s.freeIdx := rfl
@[simp] theorem State.advance_reg (n : Nat) (x : Nat) : (s.advance n).reg x = s.reg x := rfl
@[simp] theorem State.advance_live (n : Nat) : (s.advance n).live = s.live := rfl

@[simp] theorem State.advanceTo_build (n : Nat) : (s.advanceTo n).build = s.build := rfl
@[simp] theorem State.advanceTo_cn (n : Nat) : (s.advanceTo n).cn = s.cn := rfl
@[simp] theorem State.advanceTo_mtr (n : Nat) : (s.advanceTo n).mtr = s.mtr := rfl
@[simp] theorem State.advanceTo_rad (n : Nat) : (s.advanceTo n).rad = s.rad := rfl
@[simp] theorem State.advanceTo_node (n : Nat) : (s.advanceTo n).node = s.node := rfl
@[simp] theorem State.advanceTo_adm (n : Nat) : (s.advanceTo n).adm = s.adm := rfl
@[simp] theorem State.advanceTo_fsp (n : Nat) : (s.advanceTo n).fsp = s.fsp := rfl
@[simp] theorem State.advanceTo_dim (n : Nat) : (s.advanceTo n).dim = s.dim := rfl
@[simp] theorem State.advanceTo_drv (n : Nat) : (s.advanceTo n).drv = s.drv := rfl
@[simp] theorem State.advanceTo_can (n : Nat) : (s.advanceTo n).can = s.can := rfl
@[simp] theorem State.advanceTo_que (n : Nat) : (s.advanceTo n).que = s.que := rfl
@[simp] theorem State.advanceTo_evt (n : Nat) : (s.advanceTo n).evt = s.evt := rfl
@[simp] theorem State.advanceTo_ford (n : Nat) : (s.advanceTo n).ford = s.ford := rfl
@[simp] theorem State.advanceTo_cop (n : Nat) : (s.advanceTo n).cop = s.cop := rfl
@[simp] theorem State.advanceTo_key (n : Nat) : (s.advanceTo n).key = s.key := rfl
@[simp] theorem State.advanceTo_upd (n : Nat) : (s.advanceTo n).upd = s.upd := rfl
@[simp] theorem State.advanceTo_way (n : Nat) : (s.advanceTo n).way = s.way := rfl
@[simp] theorem State.advanceTo_mon (n : Nat) : (s.advanceTo n).mon = s.mon := rfl
@[simp] theorem State.advanceTo_fld (n : Nat) : (s.advanceTo n).fld = s.fld := rfl
@[simp] theorem State.advanceTo_sys (n : Nat) : (s.advanceTo n).sys = s.sys := rfl
@[simp] theorem State.advanceTo_regs (n : Nat) : (s.advanceTo n).regs = s.regs := rfl
@[simp] theorem State.advanceTo_out (n : Nat) : (s.advanceTo n).out = s.out := rfl
@[simp] theorem State.advanceTo_pending (n : Nat) : (s.advanceTo n).pending = s.pending := rfl
@[simp] theorem State.advanceTo_freeIdx (n : Nat) : (s.advanceTo n).freeIdx = s.freeIdx := rfl
@[simp] theorem State.advanceTo_reg (n : Nat) (x : Nat) : (s.advanceTo n).reg x = s.reg x := rfl
@[simp] theorem State.advanceTo_live (n : Nat) : (s.advanceTo n).live = s.live := rfl

@[simp] theorem State.emit_build (o : Output) : (s.emit o).build = s.build := rfl
@[simp] theorem State.emit_cn (o : Output) : (s.emit o).cn = s.cn := rfl
@[simp] theorem State.emit_time (o : Output) : (s.emit o).time = s.time := rfl
@[simp] theorem State.emit_mtr (o : Output) : (s.emit o).mtr = s.mtr := rfl
@[simp] theorem State.emit_rad (o : Output) : (s.emit o).rad = s.rad := rfl
@[simp] theorem State.emit_node (o : Output) : (s.emit o).node = s.node := rfl
@[simp] theorem State.emit_adm (o : Output) : (s.emit o).adm = s.adm := rfl
@[simp] theorem State.emit_fsp (o : Output) : (s.emit o).fsp = s.fsp := rfl
@[simp] theorem State.emit_dim (o : Output) : (s.emit o).dim = s.dim := rfl
@[simp] theorem State.emit_drv (o : Output) : (s.emit o).drv = s.drv := rfl
@[simp] theorem State.emit_can (o : Output) : (s.emit o).can = s.can := rfl
@[simp] theorem State.emit_que (o : Output) : (s.emit o).que = s.que := rfl
@[simp] theorem State.emit_evt (o : Output) : (s.emit o).evt = s.evt := rfl
@[simp] theorem State.emit_ford (o : Output) : (s.emit o).ford = s.ford := rfl
@[simp] theorem State.emit_cop (o : Output) : (s.emit o).cop = s.cop := rfl
@[simp] theorem State.emit_key (o : Output) : (s.emit o).key = s.key := rfl
@[simp] theorem State.emit_upd (o : Output) : (s.emit o).upd = s.upd := rfl
@[simp] theorem State.emit_way (o : Output) : (s.emit o).way = s.way := rfl
@[simp] theorem State.emit_mon (o : Output) : (s.emit o).mon = s.mon := rfl
@[simp] theorem State.emit_fld (o : Output) : (s.emit o).fld = s.fld := rfl
@[simp] theorem State.emit_sys (o : Output) : (s.emit o).sys = s.sys := rfl
@[simp] theorem State.emit_regs (o : Output) : (s.emit o).regs = s.regs := rfl
@[simp] theorem State.emit_pending (o : Output) : (s.emit o).pending = s.pending := rfl
@[simp] theorem State.emit_freeIdx (o : Output) : (s.emit o).freeIdx = s.freeIdx := rfl
@[simp] theorem State.emit_reg (o : Output) (x : Nat) : (s.emit o).reg x = s.reg x := rfl
@[simp] theorem State.emit_live (o : Output) : (s.emit o).live = s.live := rfl

@[simp] theorem State.emits_build (o : List Output) : (s.emits o).build = s.build := rfl
@[simp] theorem State.emits_cn (o : List Output) : (s.emits o).cn = s.cn := rfl
@[simp] theorem State.emits_time (o : List Output) : (s.emits o).time = s.time := rfl
@[simp] theorem State.emits_mtr (o : List Output) : (s.emits o).mtr = s.mtr := rfl
@[simp] theorem State.emits_rad (o : List Output) : (s.emits o).rad = s.rad := rfl
@[simp] theorem State.emits_node (o : List Output) : (s.emits o).node = s.node := rfl
@[simp] theorem State.emits_adm (o : List Output) : (s.emits o).adm = s.adm := rfl
@[simp] theorem State.emits_fsp (o : List Output) : (s.emits o).fsp = s.fsp := rfl
@[simp] theorem State.emits_dim (o : List Output) : (s.emits o).dim = s.dim := rfl
@[simp] theorem State.emits_drv (o : List Output) : (s.emits o).drv = s.drv := rfl
@[simp] theorem State.emits_can (o : List Output) : (s.emits o).can = s.can := rfl
@[simp] theorem State.emits_que (o : List Output) : (s.emits o).que = s.que := rfl
@[simp] theorem State.emits_evt (o : List Output) : (s.emits o).evt = s.evt := rfl
@[simp] theorem State.emits_ford (o : List Output) : (s.emits o).ford = s.ford := rfl
@[simp] theorem State.emits_cop (o : List Output) : (s.emits o).cop = s.cop := rfl
@[simp] theorem State.emits_key (o : List Output) : (s.emits o).key = s.key := rfl
@[simp] theorem State.emits_upd (o : List Output) : (s.emits o).upd = s.upd := rfl
@[simp] theorem State.emits_way (o : List Output) : (s.emits o).way = s.way := rfl
@[simp] theorem State.emits_mon (o : List Output) : (s.emits o).mon = s.mon := rfl
@[simp] theorem State.emits_fld (o : List Output) : (s.emits o).fld = s.fld := rfl
@[simp] theorem State.emits_sys (o : List Output) : (s.emits o).sys = s.sys := rfl
@[simp] theorem State.emits_regs (o : List Output) : (s.emits o).regs = s.regs := rfl
@[simp] theorem State.emits_pending (o : List Output) : (s.emits o).pending = s.pending := rfl
@[simp] theorem State.emits_freeIdx (o : List Output) : (s.emits o).freeIdx = s.freeIdx := rfl
@[simp] theorem State.emits_reg (o : List Output) (x : Nat) : (s.emits o).reg x = s.reg x := rfl
@[simp] theorem State.emits_live (o : List Output) : (s.emits o).live = s.live := rfl

@[simp] theorem State.post_build (a b c : Nat) : (s.post a b c).build = s.build := rfl
@[simp] theorem State.post_cn (a b c : Nat) : (s.post a b c).cn = s.cn := rfl
@[simp] theorem State.post_time (a b c : Nat) : (s.post a b c).time = s.time := rfl
@[simp] theorem State.post_mtr (a b c : Nat) : (s.post a b c).mtr = s.mtr := rfl
@[simp] theorem State.post_rad (a b c : Nat) : (s.post a b c).rad = s.rad := rfl
@[simp] theorem State.post_node (a b c : Nat) : (s.post a b c).node = s.node := rfl
@[simp] theorem State.post_adm (a b c : Nat) : (s.post a b c).adm = s.adm := rfl
@[simp] theorem State.post_fsp (a b c : Nat) : (s.post a b c).fsp = s.fsp := rfl
@[simp] theorem State.post_dim (a b c : Nat) : (s.post a b c).dim = s.dim := rfl
@[simp] theorem State.post_drv (a b c : Nat) : (s.post a b c).drv = s.drv := rfl
@[simp] theorem State.post_can (a b c : Nat) : (s.post a b c).can = s.can := rfl
@[simp] theorem State.post_que (a b c : Nat) : (s.post a b c).que = s.que := rfl
@[simp] theorem State.post_ford (a b c : Nat) : (s.post a b c).ford = s.ford := rfl
@[simp] theorem State.post_cop (a b c : Nat) : (s.post a b c).cop = s.cop := rfl
@[simp] theorem State.post_key (a b c : Nat) : (s.post a b c).key = s.key := rfl
@[simp] theorem State.post_upd (a b c : Nat) : (s.post a b c).upd = s.upd := rfl
@[simp] theorem State.post_way (a b c : Nat) : (s.post a b c).way = s.way := rfl
@[simp] theorem State.post_mon (a b c : Nat) : (s.post a b c).mon = s.mon := rfl
@[simp] theorem State.post_fld (a b c : Nat) : (s.post a b c).fld = s.fld := rfl
@[simp] theorem State.post_sys (a b c : Nat) : (s.post a b c).sys = s.sys := rfl
@[simp] theorem State.post_regs (a b c : Nat) : (s.post a b c).regs = s.regs := rfl
@[simp] theorem State.post_out (a b c : Nat) : (s.post a b c).out = s.out := rfl
@[simp] theorem State.post_pending (a b c : Nat) : (s.post a b c).pending = s.pending := rfl
@[simp] theorem State.post_freeIdx (a b c : Nat) : (s.post a b c).freeIdx = s.freeIdx := rfl
@[simp] theorem State.post_reg (a b c : Nat) (x : Nat) : (s.post a b c).reg x = s.reg x := rfl
@[simp] theorem State.post_live (a b c : Nat) : (s.post a b c).live = s.live := rfl

@[simp] theorem State.setReg_build (a v : Nat) : (s.setReg a v).build = s.build := rfl
@[simp] theorem State.setReg_cn (a v : Nat) : (s.setReg a v).cn = s.cn := rfl
@[simp] theorem State.setReg_time (a v : Nat) : (s.setReg a v).time = s.time := rfl
@[simp] theorem State.setReg_mtr (a v : Nat) : (s.setReg a v).mtr = s.mtr := rfl
@[simp] theorem State.setReg_rad (a v : Nat) : (s.setReg a v).rad = s.rad := rfl
@[simp] theorem State.setReg_node (a v : Nat) : (s.setReg a v).node = s.node := rfl
@[simp] theorem State.setReg_adm (a v : Nat) : (s.setReg a v).adm = s.adm := rfl
@[simp] theorem State.setReg_fsp (a v : Nat) : (s.setReg a v).fsp = s.fsp := rfl
@[simp] theorem State.setReg_dim (a v : Nat) : (s.setReg a v).dim = s.dim := rfl
@[simp] theorem State.setReg_drv (a v : Nat) : (s.setReg a v).drv = s.drv := rfl
@[simp] theorem State.setReg_can (a v : Nat) : (s.setReg a v).can = s.can := rfl
@[simp] theorem State.setReg_que (a v : Nat) : (s.setReg a v).que = s.que := rfl
@[simp] theorem State.setReg_evt (a v : Nat) : (s.setReg a v).evt = s.evt := rfl
@[simp] theorem State.setReg_ford (a v : Nat) : (s.setReg a v).ford = s.ford := rfl
@[simp] theorem State.setReg_cop (a v : Nat) : (s.setReg a v).cop = s.cop := rfl
@[simp] theorem State.setReg_key (a v : Nat) : (s.setReg a v).key = s.key := rfl
@[simp] theorem State.setReg_upd (a v : Nat) : (s.setReg a v).upd = s.upd := rfl
@[simp] theorem State.setReg_way (a v : Nat) : (s.setReg a v).way = s.way := rfl
@[simp] theorem State.setReg_mon (a v : Nat) : (s.setReg a v).mon = s.mon := rfl
@[simp] theorem State.setReg_fld (a v : Nat) : (s.setReg a v).fld = s.fld := rfl
@[simp] theorem State.setReg_sys (a v : Nat) : (s.setReg a v).sys = s.sys := rfl
@[simp] theorem State.setReg_out (a v : Nat) : (s.setReg a v).out = s.out := rfl
@[simp] theorem State.setReg_pending (a v : Nat) : (s.setReg a v).pending = s.pending := rfl
@[simp] theorem State.setReg_freeIdx (a v : Nat) : (s.setReg a v).freeIdx = s.freeIdx := rfl
@[simp] theorem State.setReg_live (a v : Nat) : (s.setReg a v).live = s.live := rfl

@[simp] theorem State.endTest_build : (s.endTest).build = s.build := rfl
@[simp] theorem State.endTest_cn : (s.endTest).cn = s.cn := rfl
@[simp] theorem State.endTest_time : (s.endTest).time = s.time := rfl
@[simp] theorem State.endTest_mtr : (s.endTest).mtr = s.mtr := rfl
@[simp] theorem State.endTest_rad : (s.endTest).rad = s.rad := rfl
@[simp] theorem State.endTest_node : (s.endTest).node = s.node := rfl
@[simp] theorem State.endTest_adm : (s.endTest).adm = s.adm := rfl
@[simp] theorem State.endTest_fsp : (s.endTest).fsp = s.fsp := rfl
@[simp] theorem State.endTest_dim : (s.endTest).dim = s.dim := rfl
@[simp] theorem State.endTest_drv : (s.endTest).drv = s.drv := rfl
@[simp] theorem State.endTest_can : (s.endTest).can = s.can := rfl
@[simp] theorem State.endTest_que : (s.endTest).que = s.que := rfl
@[simp] theorem State.endTest_evt : (s.endTest).evt = s.evt := rfl
@[simp] theorem State.endTest_ford : (s.endTest).ford = s.ford := rfl
@[simp] theorem State.endTest_cop : (s.endTest).cop = s.cop := rfl
@[simp] theorem State.endTest_key : (s.endTest).key = s.key := rfl
@[simp] theorem State.endTest_upd : (s.endTest).upd = s.upd := rfl
@[simp] theorem State.endTest_way : (s.endTest).way = s.way := rfl
@[simp] theorem State.endTest_fld : (s.endTest).fld = s.fld := rfl
@[simp] theorem State.endTest_sys : (s.endTest).sys = s.sys := rfl
@[simp] theorem State.endTest_regs : (s.endTest).regs = s.regs := rfl
@[simp] theorem State.endTest_out : (s.endTest).out = s.out := rfl
@[simp] theorem State.endTest_pending : (s.endTest).pending = s.pending := rfl
@[simp] theorem State.endTest_freeIdx : (s.endTest).freeIdx = s.freeIdx := rfl
@[simp] theorem State.endTest_reg (x : Nat) : (s.endTest).reg x = s.reg x := rfl
@[simp] theorem State.endTest_live : (s.endTest).live = s.live := rfl

@[simp] theorem State.modTrigger_build (k : Fin 16) (f : Trigger → Trigger) : (s.modTrigger k f).build = s.build := rfl
@[simp] theorem State.modTrigger_cn (k : Fin 16) (f : Trigger → Trigger) : (s.modTrigger k f).cn = s.cn := rfl
@[simp] theorem State.modTrigger_mtr (k : Fin 16) (f : Trigger → Trigger) : (s.modTrigger k f).mtr = s.mtr := rfl
@[simp] theorem State.modTrigger_rad (k : Fin 16) (f : Trigger → Trigger) : (s.modTrigger k f).rad = s.rad := rfl
@[simp] theorem State.modTrigger_node (k : Fin 16) (f : Trigger → Trigger) : (s.modTrigger k f).node = s.node := rfl
@[simp] theorem State.modTrigger_adm (k : Fin 16) (f : Trigger → Trigger) : (s.modTrigger k f).adm = s.adm := rfl
@[simp] theorem State.modTrigger_fsp (k : Fin 16) (f : Trigger → Trigger) : (s.modTrigger k f).fsp = s.fsp := rfl
@[simp] theorem State.modTrigger_dim (k : Fin 16) (f : Trigger → Trigger) : (s.modTrigger k f).dim = s.dim := rfl
@[simp] theorem State.modTrigger_drv (k : Fin 16) (f : Trigger → Trigger) : (s.modTrigger k f).drv = s.drv := rfl
@[simp] theorem State.modTrigger_can (k : Fin 16) (f : Trigger → Trigger) : (s.modTrigger k f).can = s.can := rfl
@[simp] theorem State.modTrigger_que (k : Fin 16) (f : Trigger → Trigger) : (s.modTrigger k f).que = s.que := rfl
@[simp] theorem State.modTrigger_evt (k : Fin 16) (f : Trigger → Trigger) : (s.modTrigger k f).evt = s.evt := rfl
@[simp] theorem State.modTrigger_ford (k : Fin 16) (f : Trigger → Trigger) : (s.modTrigger k f).ford = s.ford := rfl
@[simp] theorem State.modTrigger_cop (k : Fin 16) (f : Trigger → Trigger) : (s.modTrigger k f).cop = s.cop := rfl
@[simp] theorem State.modTrigger_key (k : Fin 16) (f : Trigger → Trigger) : (s.modTrigger k f).key = s.key := rfl
@[simp] theorem State.modTrigger_upd (k : Fin 16) (f : Trigger → Trigger) : (s.modTrigger k f).upd = s.upd := rfl
@[simp] theorem State.modTrigger_way (k : Fin 16) (f : Trigger → Trigger) : (s.modTrigger k f).way = s.way := rfl
@[simp] theorem State.modTrigger_mon (k : Fin 16) (f : Trigger → Trigger) : (s.modTrigger k f).mon = s.mon := rfl
@[simp] theorem State.modTrigger_fld (k : Fin 16) (f : Trigger → Trigger) : (s.modTrigger k f).fld = s.fld := rfl
@[simp] theorem State.modTrigger_sys (k : Fin 16) (f : Trigger → Trigger) : (s.modTrigger k f).sys = s.sys := rfl
@[simp] theorem State.modTrigger_regs (k : Fin 16) (f : Trigger → Trigger) : (s.modTrigger k f).regs = s.regs := rfl
@[simp] theorem State.modTrigger_out (k : Fin 16) (f : Trigger → Trigger) : (s.modTrigger k f).out = s.out := rfl
@[simp] theorem State.modTrigger_pending (k : Fin 16) (f : Trigger → Trigger) : (s.modTrigger k f).pending = s.pending := rfl
@[simp] theorem State.modTrigger_freeIdx (k : Fin 16) (f : Trigger → Trigger) : (s.modTrigger k f).freeIdx = s.freeIdx := rfl
@[simp] theorem State.modTrigger_reg (k : Fin 16) (f : Trigger → Trigger) (x : Nat) : (s.modTrigger k f).reg x = s.reg x := rfl
@[simp] theorem State.modTrigger_live (k : Fin 16) (f : Trigger → Trigger) : (s.modTrigger k f).live = s.live := rfl

@[simp] theorem State.popCapture_build (k : Nat) : (s.popCapture k).build = s.build := rfl
@[simp] theorem State.popCapture_cn (k : Nat) : (s.popCapture k).cn = s.cn := rfl
@[simp] theorem State.popCapture_mtr (k : Nat) : (s.popCapture k).mtr = s.mtr := rfl
@[simp] theorem State.popCapture_rad (k : Nat) : (s.popCapture k).rad = s.rad := rfl
@[simp] theorem State.popCapture_node (k : Nat) : (s.popCapture k).node = s.node := rfl
@[simp] theorem State.popCapture_adm (k : Nat) : (s.popCapture k).adm = s.adm := rfl
@[simp] theorem State.popCapture_fsp (k : Nat) : (s.popCapture k).fsp = s.fsp := rfl
@[simp] theorem State.popCapture_dim (k : Nat) : (s.popCapture k).dim = s.dim := rfl
@[simp] theorem State.popCapture_drv (k : Nat) : (s.popCapture k).drv = s.drv := rfl
@[simp] theorem State.popCapture_can (k : Nat) : (s.popCapture k).can = s.can := rfl
@[simp] theorem State.popCapture_que (k : Nat) : (s.popCapture k).que = s.que := rfl
@[simp] theorem State.popCapture_evt (k : Nat) : (s.popCapture k).evt = s.evt := rfl
@[simp] theorem State.popCapture_ford (k : Nat) : (s.popCapture k).ford = s.ford := rfl
@[simp] theorem State.popCapture_cop (k : Nat) : (s.popCapture k).cop = s.cop := rfl
@[simp] theorem State.popCapture_key (k : Nat) : (s.popCapture k).key = s.key := rfl
@[simp] theorem State.popCapture_upd (k : Nat) : (s.popCapture k).upd = s.upd := rfl
@[simp] theorem State.popCapture_way (k : Nat) : (s.popCapture k).way = s.way := rfl
@[simp] theorem State.popCapture_mon (k : Nat) : (s.popCapture k).mon = s.mon := rfl
@[simp] theorem State.popCapture_fld (k : Nat) : (s.popCapture k).fld = s.fld := rfl
@[simp] theorem State.popCapture_sys (k : Nat) : (s.popCapture k).sys = s.sys := rfl
@[simp] theorem State.popCapture_regs (k : Nat) : (s.popCapture k).regs = s.regs := rfl
@[simp] theorem State.popCapture_out (k : Nat) : (s.popCapture k).out = s.out := rfl
@[simp] theorem State.popCapture_pending (k : Nat) : (s.popCapture k).pending = s.pending := rfl
@[simp] theorem State.popCapture_freeIdx (k : Nat) : (s.popCapture k).freeIdx = s.freeIdx := rfl
@[simp] theorem State.popCapture_reg (k : Nat) (x : Nat) : (s.popCapture k).reg x = s.reg x := rfl
@[simp] theorem State.popCapture_live (k : Nat) : (s.popCapture k).live = s.live := rfl

@[simp] theorem State.clearOvr_build (k v : Nat) : (s.clearOvr k v).build = s.build := rfl
@[simp] theorem State.clearOvr_cn (k v : Nat) : (s.clearOvr k v).cn = s.cn := rfl
@[simp] theorem State.clearOvr_mtr (k v : Nat) : (s.clearOvr k v).mtr = s.mtr := rfl
@[simp] theorem State.clearOvr_rad (k v : Nat) : (s.clearOvr k v).rad = s.rad := rfl
@[simp] theorem State.clearOvr_node (k v : Nat) : (s.clearOvr k v).node = s.node := rfl
@[simp] theorem State.clearOvr_adm (k v : Nat) : (s.clearOvr k v).adm = s.adm := rfl
@[simp] theorem State.clearOvr_fsp (k v : Nat) : (s.clearOvr k v).fsp = s.fsp := rfl
@[simp] theorem State.clearOvr_dim (k v : Nat) : (s.clearOvr k v).dim = s.dim := rfl
@[simp] theorem State.clearOvr_drv (k v : Nat) : (s.clearOvr k v).drv = s.drv := rfl
@[simp] theorem State.clearOvr_can (k v : Nat) : (s.clearOvr k v).can = s.can := rfl
@[simp] theorem State.clearOvr_que (k v : Nat) : (s.clearOvr k v).que = s.que := rfl
@[simp] theorem State.clearOvr_evt (k v : Nat) : (s.clearOvr k v).evt = s.evt := rfl
@[simp] theorem State.clearOvr_ford (k v : Nat) : (s.clearOvr k v).ford = s.ford := rfl
@[simp] theorem State.clearOvr_cop (k v : Nat) : (s.clearOvr k v).cop = s.cop := rfl
@[simp] theorem State.clearOvr_key (k v : Nat) : (s.clearOvr k v).key = s.key := rfl
@[simp] theorem State.clearOvr_upd (k v : Nat) : (s.clearOvr k v).upd = s.upd := rfl
@[simp] theorem State.clearOvr_way (k v : Nat) : (s.clearOvr k v).way = s.way := rfl
@[simp] theorem State.clearOvr_mon (k v : Nat) : (s.clearOvr k v).mon = s.mon := rfl
@[simp] theorem State.clearOvr_fld (k v : Nat) : (s.clearOvr k v).fld = s.fld := rfl
@[simp] theorem State.clearOvr_sys (k v : Nat) : (s.clearOvr k v).sys = s.sys := rfl
@[simp] theorem State.clearOvr_regs (k v : Nat) : (s.clearOvr k v).regs = s.regs := rfl
@[simp] theorem State.clearOvr_out (k v : Nat) : (s.clearOvr k v).out = s.out := rfl
@[simp] theorem State.clearOvr_pending (k v : Nat) : (s.clearOvr k v).pending = s.pending := rfl
@[simp] theorem State.clearOvr_freeIdx (k v : Nat) : (s.clearOvr k v).freeIdx = s.freeIdx := rfl
@[simp] theorem State.clearOvr_reg (k v : Nat) (x : Nat) : (s.clearOvr k v).reg x = s.reg x := rfl
@[simp] theorem State.clearOvr_live (k v : Nat) : (s.clearOvr k v).live = s.live := rfl

@[simp] theorem State.drawNat_build : s.drawNat.2.build = s.build := rfl
@[simp] theorem State.drawNat_cn : s.drawNat.2.cn = s.cn := rfl
@[simp] theorem State.drawNat_time : s.drawNat.2.time = s.time := rfl
@[simp] theorem State.drawNat_mtr : s.drawNat.2.mtr = s.mtr := rfl
@[simp] theorem State.drawNat_rad : s.drawNat.2.rad = s.rad := rfl
@[simp] theorem State.drawNat_node : s.drawNat.2.node = s.node := rfl
@[simp] theorem State.drawNat_adm : s.drawNat.2.adm = s.adm := rfl
@[simp] theorem State.drawNat_fsp : s.drawNat.2.fsp = s.fsp := rfl
@[simp] theorem State.drawNat_dim : s.drawNat.2.dim = s.dim := rfl
@[simp] theorem State.drawNat_drv : s.drawNat.2.drv = s.drv := rfl
@[simp] theorem State.drawNat_can : s.drawNat.2.can = s.can := rfl
@[simp] theorem State.drawNat_que : s.drawNat.2.que = s.que := rfl
@[simp] theorem State.drawNat_evt : s.drawNat.2.evt = s.evt := rfl
@[simp] theorem State.drawNat_ford : s.drawNat.2.ford = s.ford := rfl
@[simp] theorem State.drawNat_cop : s.drawNat.2.cop = s.cop := rfl
@[simp] theorem State.drawNat_key : s.drawNat.2.key = s.key := rfl
@[simp] theorem State.drawNat_upd : s.drawNat.2.upd = s.upd := rfl
@[simp] theorem State.drawNat_way : s.drawNat.2.way = s.way := rfl
@[simp] theorem State.drawNat_mon : s.drawNat.2.mon = s.mon := rfl
@[simp] theorem State.drawNat_fld : s.drawNat.2.fld = s.fld := rfl
@[simp] theorem State.drawNat_sys : s.drawNat.2.sys = s.sys := rfl
@[simp] theorem State.drawNat_regs : s.drawNat.2.regs = s.regs := rfl
@[simp] theorem State.drawNat_out : s.drawNat.2.out = s.out := rfl
@[simp] theorem State.drawNat_pending : s.drawNat.2.pending = s.pending := rfl
@[simp] theorem State.drawNat_freeIdx : s.drawNat.2.freeIdx = s.freeIdx + 1 := rfl

@[simp] theorem State.drawInt_build : s.drawInt.2.build = s.build := rfl
@[simp] theorem State.drawInt_cn : s.drawInt.2.cn = s.cn := rfl
@[simp] theorem State.drawInt_time : s.drawInt.2.time = s.time := rfl
@[simp] theorem State.drawInt_mtr : s.drawInt.2.mtr = s.mtr := rfl
@[simp] theorem State.drawInt_rad : s.drawInt.2.rad = s.rad := rfl
@[simp] theorem State.drawInt_node : s.drawInt.2.node = s.node := rfl
@[simp] theorem State.drawInt_adm : s.drawInt.2.adm = s.adm := rfl
@[simp] theorem State.drawInt_fsp : s.drawInt.2.fsp = s.fsp := rfl
@[simp] theorem State.drawInt_dim : s.drawInt.2.dim = s.dim := rfl
@[simp] theorem State.drawInt_drv : s.drawInt.2.drv = s.drv := rfl
@[simp] theorem State.drawInt_can : s.drawInt.2.can = s.can := rfl
@[simp] theorem State.drawInt_que : s.drawInt.2.que = s.que := rfl
@[simp] theorem State.drawInt_evt : s.drawInt.2.evt = s.evt := rfl
@[simp] theorem State.drawInt_ford : s.drawInt.2.ford = s.ford := rfl
@[simp] theorem State.drawInt_cop : s.drawInt.2.cop = s.cop := rfl
@[simp] theorem State.drawInt_key : s.drawInt.2.key = s.key := rfl
@[simp] theorem State.drawInt_upd : s.drawInt.2.upd = s.upd := rfl
@[simp] theorem State.drawInt_way : s.drawInt.2.way = s.way := rfl
@[simp] theorem State.drawInt_mon : s.drawInt.2.mon = s.mon := rfl
@[simp] theorem State.drawInt_fld : s.drawInt.2.fld = s.fld := rfl
@[simp] theorem State.drawInt_sys : s.drawInt.2.sys = s.sys := rfl
@[simp] theorem State.drawInt_regs : s.drawInt.2.regs = s.regs := rfl
@[simp] theorem State.drawInt_out : s.drawInt.2.out = s.out := rfl
@[simp] theorem State.drawInt_pending : s.drawInt.2.pending = s.pending := rfl
@[simp] theorem State.drawInt_freeIdx : s.drawInt.2.freeIdx = s.freeIdx + 1 := rfl

@[simp] theorem State.drawRandom_build : s.drawRandom.2.build = s.build := rfl
@[simp] theorem State.drawRandom_cn : s.drawRandom.2.cn = s.cn := rfl
@[simp] theorem State.drawRandom_time : s.drawRandom.2.time = s.time := rfl
@[simp] theorem State.drawRandom_mtr : s.drawRandom.2.mtr = s.mtr := rfl
@[simp] theorem State.drawRandom_rad : s.drawRandom.2.rad = s.rad := rfl
@[simp] theorem State.drawRandom_node : s.drawRandom.2.node = s.node := rfl
@[simp] theorem State.drawRandom_adm : s.drawRandom.2.adm = s.adm := rfl
@[simp] theorem State.drawRandom_fsp : s.drawRandom.2.fsp = s.fsp := rfl
@[simp] theorem State.drawRandom_dim : s.drawRandom.2.dim = s.dim := rfl
@[simp] theorem State.drawRandom_drv : s.drawRandom.2.drv = s.drv := rfl
@[simp] theorem State.drawRandom_can : s.drawRandom.2.can = s.can := rfl
@[simp] theorem State.drawRandom_que : s.drawRandom.2.que = s.que := rfl
@[simp] theorem State.drawRandom_evt : s.drawRandom.2.evt = s.evt := rfl
@[simp] theorem State.drawRandom_ford : s.drawRandom.2.ford = s.ford := rfl
@[simp] theorem State.drawRandom_cop : s.drawRandom.2.cop = s.cop := rfl
@[simp] theorem State.drawRandom_key : s.drawRandom.2.key = s.key := rfl
@[simp] theorem State.drawRandom_upd : s.drawRandom.2.upd = s.upd := rfl
@[simp] theorem State.drawRandom_way : s.drawRandom.2.way = s.way := rfl
@[simp] theorem State.drawRandom_mon : s.drawRandom.2.mon = s.mon := rfl
@[simp] theorem State.drawRandom_fld : s.drawRandom.2.fld = s.fld := rfl
@[simp] theorem State.drawRandom_sys : s.drawRandom.2.sys = s.sys := rfl
@[simp] theorem State.drawRandom_regs : s.drawRandom.2.regs = s.regs := rfl
@[simp] theorem State.drawRandom_out : s.drawRandom.2.out = s.out := rfl
@[simp] theorem State.drawRandom_pending : s.drawRandom.2.pending = s.pending := rfl
@[simp] theorem State.drawRandom_freeIdx : s.drawRandom.2.freeIdx = s.freeIdx + 1 := rfl

@[simp] theorem State.emit_out (o : Output) : (s.emit o).out = s.out ++ [o] := rfl
@[simp] theorem State.emits_out (o : List Output) : (s.emits o).out = s.out ++ o := rfl
@[simp] theorem State.post_evt (a b c : Nat) : (s.post a b c).evt = s.evt.fire a s.stamp b (c % 4294967296) := rfl

theorem State.whenLive_live {s : State} (h : s.live = true) (f : State → State) : s.whenLive f = f s := by
  simp [State.whenLive, h]

theorem State.whenLive_dead {s : State} (h : s.live = false) (f : State → State) : s.whenLive f = s := by
  simp [State.whenLive, h]

@[simp] theorem State.iff_true (f : State → State) : s.iff true f = f s := rfl
@[simp] theorem State.iff_false (f : State → State) : s.iff false f = s := rfl

/-- Where no time passes, the clock stands still. -/
theorem State.advanceTo_tsc (n : Nat) : (s.advanceTo n).time.tsc = max s.time.tsc n := by
  simp only [State.advanceTo, State.advance]; omega

/-- A stored register reads what was written to it. -/
theorem State.reg_setReg_same {s : State} (h : tsorted s.regs = true) (a v : Nat) :
    (s.setReg a v).reg a = v % 4294967296 := by
  unfold State.setReg State.reg
  by_cases e : v % 4294967296 = resetWord a
  · simp [e, tget_tdel_same _ _ h]
  · simp [e, BitVec.toNat_ofNat]

/-- A write leaves every other stored register alone. -/
theorem State.reg_setReg_ne {s : State} (h : tsorted s.regs = true) {a b : Nat} (v : Nat) (n : b ≠ a) :
    (s.setReg a v).reg b = s.reg b := by
  unfold State.setReg State.reg
  by_cases e : v % 4294967296 = resetWord a
  · simp [e, tget_tdel_ne _ _ _ h n]
  · simp [e, tget_tput_ne _ _ _ _ n]

end Sys2Proof.Machine
end

