-- ==== Sys2Proof/WellFormed.lean ====
section
/-! DEFINITION. Well-formed commands: every operand fits the field, pin or message it stands for. Operands whose type
already bounds them need no check. -/

namespace Sys2Proof.Machine

/-- A PTP message's numbers fit: a Sync interval is not 0, and times fit the counter's seconds (R42, R52). -/
def PtpMsg.wellFormed : PtpMsg → Bool
  | .sync sent intervalMs => decide (0 < intervalMs) && decide (0 ≤ sent) && decide (sent < 2 ^ 80)
  | .delay sent received => decide (0 ≤ sent) && decide (sent < 2 ^ 80) && decide (0 ≤ received) && decide (received < 2 ^ 80)
  | _ => true

/-- Unreadable records of a sector have sequences of 32 bits, none twice (R534). -/
def ReadBack.wellFormed : ReadBack → Bool
  | .failed l => decide l.Nodup && l.all fun n => decide (n < 2 ^ 32)
  | _ => true

/-- A lantern link message: short address and sequence of 16 bits, a body that one frame holds (R138). -/
def LinkMsg.wellFormed (m : LinkMsg) : Bool :=
  decide (m.short < 2 ^ 16) && decide (m.seq < 2 ^ 16) && decide (m.body.length < 2048)

/-- Fields of a received frame's kind: an EUI-64 has 64 bits. -/
def RxKind.wellFormed : RxKind → Bool
  | .joinReq e => decide (e < 2 ^ 64)
  | .joinAck e => decide (e < 2 ^ 64)
  | _ => true

/-- Fields of a lantern link header: type of 8 bits, sequence of 16. -/
def LinkHead.wellFormed : LinkHead → Bool
  | .good => true
  | .malformed type seq => decide (type < 256) && decide (seq < 2 ^ 16)
  | .unknown type seq => decide (type < 256) && decide (seq < 2 ^ 16)

/-- A received frame fits the MAC header's fields (R122, R137), and its PSDU is at most 2,047 octets. -/
def RxFrame.fits (f : RxFrame) : Bool :=
  f.kind.wellFormed && f.link.wellFormed && decide (f.pan < 2 ^ 16) && decide (f.dest < 2 ^ 16) && decide (f.source < 2 ^ 16)
    && decide (f.keyIndex < 256) && decide (f.counter < 2 ^ 32) && decide (f.psdu < 2048) && decide (f.originator < 2 ^ 16)

/-- A WAVE fits its fields (R177). -/
def Wave.wellFormed (w : Wave) : Bool :=
  decide (w.originator < 2 ^ 16) && decide (w.seq < 2 ^ 16) && decide (w.route < 2 ^ 16) && decide (w.list < 256)
    && decide (w.position < 256) && decide (w.level < 2 ^ 16) && decide (w.hold < 2 ^ 16) && decide (w.detected < 2 ^ 40)
    && decide (w.hops < 256) && decide (w.speed < 2 ^ 16)

/-- A feeder phase is summed once in a cycle (R314). -/
def sumsOnce (l : List PhaseSum) : Bool :=
  decide ((l.map fun x => (x.feeder, x.phase)).Nodup)

end Sys2Proof.Machine

namespace Sys2Proof

open Machine

/-- Well-formedness of a command. -/
def Instr.wellFormed : Instr → Bool
  | .cycleTick sums rms _ busy _ _ _ => sumsOnce sums && decide (rms = [] ∨ rms.length = 16) && busy.all fun t => decide (t < 9)
  | .slotMidpoint busy _ => busy.all fun t => decide (t < 9)
  | .zcMeasured _ tick ofsUs => decide (tick < 2 ^ 32) && decide (ofsUs < 125)
  | .mainsTimeout tick => decide (tick < 2 ^ 32)
  | .timeSnap _ tick => decide (tick < 2 ^ 32)
  | .ptpMessage _ tick msg => msg.wellFormed && decide (tick < 2 ^ 32)
  | .ptpPortUnmute _ => true
  | .ptpSourceMiss _ _ => true
  | .ppsInEdge _ tick => decide (tick < 2 ^ 32)
  | .ppsInMiss => true
  | .timeRearm _ _ => true
  | .timeSrcWrite _ _ => true
  | .mainsCfgWrite _ _ => true
  | .waymark _ _ _ body => decide (body.length < 2 ^ 24)
  | .syncInPulse _ tick widthUs => decide (widthUs < 2 ^ 32) && decide (tick < 2 ^ 32)
  | .syncRealign _ _ => true
  | .triggerArm _ _ tick _ => decide (tick < 2 ^ 32)
  | .triggerFire _ tick => decide (tick < 2 ^ 32)
  | .captureEdge _ _ tick _ => decide (tick < 2 ^ 32)
  | .capturePop _ _ => true
  | .dutyBinRoll => true
  | .frameReceived _ frame => frame.fits
  | .ledgerUnmute _ => true
  | .trx8Takeover _ _ => true
  | .transceiverFault _ => true
  | .radCntClr _ _ => true
  | .ledgerRead => true
  | .ledgerWrite => true
  | .ledgerClear => true
  | .safeieWrite _ _ => true
  | .trxCtrlWrite _ _ _ => true
  | .joinReq _ _ _ body _ => decide (body.length < 2 ^ 24)
  | .keepalive msg => msg.wellFormed
  | .report msg => msg.wellFormed
  | .balanceDeadline _ _ => true
  | .tally msg => msg.wellFormed
  | .nak msg => msg.wellFormed
  | .fault msg => msg.wellFormed
  | .chunkState msg => msg.wellFormed
  | .digestQuery msg => msg.wellFormed
  | .grantKeepaliveTimeout _ => true
  | .keepalivePeriodEnd _ => true
  | .reservationEnd _ => true
  | .admitArrive _ _ _ _ body => decide (body.length < 2 ^ 24)
  | .admitDecision => true
  | .outcomeDeadline _ => true
  | .queryNoAnswer _ _ => true
  | .rejoinTimeout => true
  | .tlsHandshake _ _ _ exporter => decide (exporter.length = 32)
  | .handshakeTimeout since => decide (since < 2 ^ 40)
  | .fspHeaderFault _ header => decide (header.length = 24)
  | .fspWrongType _ _ _ => true
  | .hello _ _ _ body => decide (body.length < 2 ^ 24)
  | .roleChallenge _ _ _ body => decide (body.length < 2 ^ 24)
  | .roleProof _ _ _ body => decide (body.length < 2 ^ 24)
  | .roleLapse _ => true
  | .pushAck _ _ _ _ => true
  | .meterRead _ _ _ body => decide (body.length < 2 ^ 24)
  | .waybillRead _ _ _ body => decide (body.length < 2 ^ 24)
  | .waybillClear _ _ _ body => decide (body.length < 2 ^ 24)
  | .configPut _ _ _ body => decide (body.length < 2 ^ 24)
  | .configGet _ _ _ body => decide (body.length < 2 ^ 24)
  | .digest _ _ _ body => decide (body.length < 2 ^ 24)
  | .updateOffer _ _ _ body _ => decide (body.length < 2 ^ 24)
  | .updateChunk _ _ _ body _ plain => decide (body.length < 2 ^ 24) && decide (plain.length < 2 ^ 24)
  | .updateState _ _ _ body => decide (body.length < 2 ^ 24)
  | .updateActivate _ _ _ body => decide (body.length < 2 ^ 24)
  | .registerWindowRead _ _ _ body => decide (body.length < 2 ^ 24)
  | .registerWindowWrite _ _ _ body => decide (body.length < 2 ^ 24)
  | .sessionIdle _ => true
  | .sessionClose _ => true
  | .modemOpen => true
  | .dialLineAnswer _ _ => true
  | .dialTimeout => true
  | .modemClose => true
  | .modemRetry => true
  | .modemCtsChange _ => true
  | .uartOctet _ _ _ _ => true
  | .ethLinkChange _ _ => true
  | .kcFeedbackChange _ _ => true
  | .contactorFeedbackTimeout _ => true
  | .contactorRetryPulseEnd _ => true
  | .routeBinEnd => true
  | .routeRetune => true
  | .waveReceived _ wave => wave.wellFormed
  | .waveHoldEnd _ => true
  | .channelFault _ => true
  | .msealChange _ => true
  | .metrologyRegisterWrite addr _ _ => decide (addr.toNat % 4 = 0)
  | .latchNWrite _ _ => true
  | .calStart _ _ => true
  | .calDone _ _ _ _ => true
  | .phaseAbsent _ => true
  | .meterCheckpoint => true
  | .regSelWrite _ _ => true
  | .pwmFrameStart meas ntc _ => decide ((meas.map ChMeas.channel).Nodup) && decide ((ntc.map Prod.fst).Nodup)
  | .stringRetry _ => true
  | .dieOvercurrent _ _ => true
  | .dieOvervoltage _ => true
  | .gateSupplyLow _ => true
  | .gateSupplyRestored _ => true
  | .stringLearn _ _ => true
  | .stringLearnDone _ => true
  | .stringClear _ _ => true
  | .drvCntClr _ _ => true
  | .ntcFault _ mv => decide (mv < 2 ^ 16)
  | .halfFailure _ => true
  | .colourWindowEnd _ _ _ _ _ sat => decide (sat.length = 4)
  | .twLearn _ _ => true
  | .peStart _ _ => true
  | .peStop _ _ => true
  | .peTimedStart _ tick => decide (tick < 2 ^ 32)
  | .incInEdge _ tick _ => decide (tick < 2 ^ 32)
  | .evacStart => true
  | .evacEnd => true
  | .evacRelease _ => true
  | .clearingFix => true
  | .clearingEnd => true
  | .segmentDigestRefresh => true
  | .queuePush _ _ _ => true
  | .queueRead _ _ _ => true
  | .rowCopyDone _ => true
  | .queCntClr _ _ => true
  | .queuePeakRestart _ _ => true
  | .sourceFiring _ _ _ => true
  | .coalesceTimeout _ => true
  | .evtDone _ _ => true
  | .ringConsWrite _ _ _ => true
  | .ringCfgWrite _ _ _ => true
  | .ringMaskWrite _ _ => true
  | .handlerEntry _ => true
  | .handlerExit _ => true
  | .divergence _ _ _ => true
  | .heartbeatLost _ _ => true
  | .standClaim _ => true
  | .withdraw _ _ _ => true
  | .diagnosisAnswer _ _ _ => true
  | .diagnosisTimeout _ => true
  | .fordOutvote _ cycle => decide (cycle < 2 ^ 64)
  | .standTestDone _ _ => true
  | .learningCopyDone => true
  | .probationEnd => true
  | .plannedSwitchRequest _ => true
  | .safeHoldResume _ _ _ _ => true
  | .safeHoldResumeForce _ _ _ _ => true
  | .standRelease _ _ => true
  | .clockSelect _ _ => true
  | .tcxoLost _ => true
  | .tcxoPresent _ _ => true
  | .lastgaspClear _ => true
  | .sliceFix _ _ => true
  | .sliceRunEnd _ _ _ _ _ _ _ => true
  | .coppiceStarved _ _ _ => true
  | .idlePathSlice _ => true
  | .idlePathEnd _ => true
  | .coppiceRun _ => true
  | .coppiceDestruct _ _ => true
  | .suspectRelease _ _ _ => true
  | .copCntClr _ => true
  | .keyWrite _ _ => true
  | .keyDerive _ _ => true
  | .keyGenerate _ _ => true
  | .keyErase _ _ => true
  | .rotateGrove _ => true
  | .keyCommandComplete => true
  | .keySlotExpiry _ => true
  | .attest _ => true
  | .tamperInputChange _ _ tick _ => decide (tick < 2 ^ 32)
  | .tamperQualified _ tick => decide (tick < 2 ^ 32)
  | .meshCheck _ => true
  | .keyTmpMaint _ _ => true
  | .maintWindowEnd => true
  | .keyTmpClear _ _ => true
  | .validationDone _ _ => true
  | .staged _ _ => true
  | .shadowCaughtUp => true
  | .catchupTimeout => true
  | .shadowEnd => true
  | .confirmWindowEnd => true
  | .confirmCheckFail _ _ => true
  | .rebootDone _ _ => true
  | .updateLapse => true
  | .updateAbort _ => true
  | .waybillHappening _ _ source id _ _ payload tick => decide (source < 2 ^ 16) && decide (id < 256) && decide (payload.length ≤ 12) && decide (tick < 2 ^ 32)
  | .recorderWrite readBack => readBack.wellFormed
  | .wayCntClr _ _ => true
  | .monHelp => true
  | .monLogin _ => true
  | .monProof proof => decide (proof.length = 32)
  | .monProofLapse => true
  | .monLogout => true
  | .monBaud rate => decide (rate < 2 ^ 32)
  | .monSel _ => true
  | .monRd _ count => decide (count < 2 ^ 32)
  | .monWr _ _ => true
  | .monQ q count => decide (q < 2 ^ 32) && decide (count < 2 ^ 32)
  | .monWb seq count => decide (seq < 2 ^ 32) && decide (count < 2 ^ 32)
  | .monWbclear seq => decide (seq < 2 ^ 32)
  | .monStatus => true
  | .monCop => true
  | .monDrover => true
  | .monAtt chal => decide (chal.length = 32)
  | .monTamperMaint minutes => decide (minutes < 2 ^ 32)
  | .monTamperClear => true
  | .monRftx phy channel power seconds => decide (phy < 2 ^ 32) && decide (channel < 2 ^ 32) && decide (power < 2 ^ 32) && decide (seconds < 2 ^ 32)
  | .rftxEnd => true
  | .monUnknown _ => true
  | .monMuteEnd => true
  | .monIdle => true
  | .kcOvercurrent _ => true
  | .kcOpenLoad _ _ => true
  | .modPowerOvercurrent _ _ => true
  | .supplyInputChange _ _ _ _ => true
  | .supplyReturn => true
  | .powerFail tick sums => decide (tick < 2 ^ 32) && sumsOnce sums
  | .powerDip => true
  | .holdoverStop => true
  | .retentionLost => true
  | .voltageMonitor _ _ => true
  | .dormancyEnter _ _ => true
  | .dormancyAuto => true
  | .dormancyEntry => true
  | .dormancyPowerDown => true
  | .dormancyWake _ seconds _ => decide (seconds < 2 ^ 48)
  | .thermalHot _ => true
  | .thermalTrip _ tick sums => decide (tick < 2 ^ 32) && sumsOnce sums
  | .thermalRelease _ => true
  | .peakRestart _ => true
  | .powerUp _ _ _ _ _ => true
  | .bootMeasurement _ _ _ _ _ => true
  | .canopyLoaded octets => decide (octets.length < 2 ^ 32)
  | .prefTimeout tick => decide (tick < 2 ^ 32)
  | .moduleReset _ _ => true
  | .registerWrite _ _ _ => true
  | .phaseValidCrossing _ => true
  | .unitFallsDue _ _ _ => true
  | .standRewritten _ => true
  | .storeRecharged _ _ => true
  | .rs485IdleAfterFrame _ => true

end Sys2Proof
end

