-- ==== Sys2Proof/Tests/Slice0.lean ====
section
/-! SUPPORT. Tests of the model: ill-formed commands that are refused, worked examples and tables of the spec, and for every
obligation with hypotheses states and operands that meet them (the wit_ theorems, one clause each). -/

set_option linter.unusedVariables false
set_option Elab.async false

namespace Sys2Proof.Tests

open Sys2Proof Sys2Proof.Machine

/-! ### Small states -/

/-- An installer at the monitor. -/
def inst : Writer := { role := .installer, via := .monitor }
/-- An operator's session on J5 port 0. -/
def op1 : Session := { path := 0, role := .operator }
/-- An installer's session on J5 port 0. -/
def in1 : Session := { path := 0, role := .installer }
/-- The module after reset with an operator's session. -/
def sOp : State := { State.reset with fsp := { State.reset.fsp with sessions := [(0, op1)] } }
/-- The module after reset with an installer's session. -/
def sIn : State := { State.reset with fsp := { State.reset.fsp with sessions := [(0, in1)] } }
/-- The module after reset with its time block replaced. -/
def sT (t : TimeSt) : State := { State.reset with time := t }
/-- PTP port 0 enabled. -/
def sPtp : State := { State.reset with regs := [(0x400200B0, 1)] }
/-- SYNC_IN enabled with a minimum width of 1, the next boundary at a CN. -/
def sSync (n : Nat) : State :=
  { State.reset with regs := [(0x40020090, 0x101)], mtr := { State.reset.mtr with nextLatch := n } }
/-- A capture. -/
def cap0 : Capture := { sec := 0, ns := 0, cn := 0, rising := true, unset := true }
/-- The module after reset with one session on J5 port 0. -/
def sSess (c : Session) : State := { State.reset with fsp := { State.reset.fsp with sessions := [(0, c)] } }
/-- A queue of two words at index 3 that holds the given words. -/
def sQ (l : List QWord) : State := { State.reset with que := { State.reset.que with queues := [(3, { depth := 2, high := 2, low := 0, words := l })] } }
/-- An enabled route of source 9 to engine 1, priority 2. -/
def rt0 : Route := { engine := 1, prio := 2, en := true, count := 2, timeUs := 100 }
/-- The route with source 9 in a state, if any, and a ring of 16 at engine 1, priority 2. -/
def sRt (l : Table SrcSt) : State :=
  { State.reset with can := { State.reset.can with slots := [(0, { template := .pattern })] }, evt := { State.reset.evt with en := true, routes := [(9, rt0)], srcs := l, engs := lmod (fun e => { e with rings := lmod (fun r => { r with log2 := 4 }) 2 e.rings }) 1 State.reset.evt.engs } }
/-- One engine 0 as given. -/
def sEng (e : EngSt) : State :=
  { State.reset with evt := { State.reset.evt with engs := lset 0 e State.reset.evt.engs } }
/-- A timebase that is LOCKED with one attributed crossing. -/
def tTrack : TimeSt := { tstate := .locked, mstate := .tracking, history := [{ ref := 0, cn := 0 }], lastValid := some 0 }
/-- FSP_PATHS in force with two dial lines. -/
def pathsTwo : List Byte := padTo 9 [] ++ padTo 32 [0x41, 0x54] ++ padTo 32 [0x42] ++ padTo 64 []
/-- A module whose modem path is in a state. -/
def sModem (m : ModemSt) : State := { State.reset with fsp := { State.reset.fsp with modem := m, tables := [(0x0021, { accepted := [pathsTwo], inForce := [pathsTwo] })] } }
/-- A challenge for OPERATOR at CN 0 and the session that holds it. -/
def chal1 : Challenge := { role := .operator, headNonce := [], moduleNonce := [], cn := 0 }
def ses1 : Session := { path := 0, challenge := some chal1 }
/-- That session at the last cycle in time, with the operator's secret LIVE. -/
def sProof : State := { sSess ses1 with cn := 250, key := { State.reset.key with slots := lset 3 { state := .live } State.reset.key.slots } }
/-- The proof the head-end owes. -/
def proof1 : List Byte := [1, 0, 0, 0] ++ sProof.proofOf .operator 1 (sProof.proofInput ses1 chal1)
/-- The module after reset with its recorder replaced. -/
def sWay (w : WaySt) : State := { State.reset with way := w }
def rec0 : Rec := { source := 0x0420, id := 2, seq := 5 }
/-- The module after reset with its key block, or metrology block, replaced. -/
def sKey (k : KeySt) : State := { State.reset with key := k }
def sMtr (m : MtrSt) : State := { State.reset with mtr := m }
/-- A maker's session on J5 port 0. -/
def mk1 : Session := { path := 0, role := .maker }
def instS : Writer := { role := .installer, via := .monitor }
/-- A running key command. -/
def run0 : KeyRun := { op := .write, slot := 20, role := .installer, result := { state := .live } }
/-- An image with one TILE record of a slot, whose parameter block is given. -/
def imgTile (slot : Byte) (b : List Byte) : Image :=
  { seq := 0, builds := 0, nominal := 50, regions := 0, siteId := 1, tset := 0, digest := 0, records := [{ type := 2, region := 0, content := padTo 8 [slot] ++ b, octets := [] }] }
/-- FIELD_IO in slot 0 with all its ports, and queue 0 which it produces into. -/
def sField : State := { State.reset with
  can := { State.reset.can with slots := [(0, { template := .fieldIo })], image := some (imgTile 0 [7]) }
  que := { State.reset.que with queues := [(0, { depth := 2, high := 2, low := 0 })] } }
/-- The module after reset with its SYS block replaced. -/
def sSys (y : SysSt) : State := { State.reset with sys := y }
/-- The module after reset with one table in force, or two. -/
def sTab (id : Nat) (l : List (List Byte)) : State :=
  { State.reset with fsp := { State.reset.fsp with tables := [(id, { accepted := l, inForce := l })] } }
def sTab2 (i j : Nat) (l m : List (List Byte)) : State :=
  { State.reset with fsp := { State.reset.fsp with tables := [(i, { accepted := l, inForce := l }), (j, { accepted := m, inForce := m })] } }
/-- A calendar of one day type from day 0 at UTC. -/
def cal0 : List Byte := padTo 20 [0, 0, 0, 0, 0, 0, 0, 0, 1]
/-- A route that learns and runs both ways, with one string group, 1, as its member. -/
def route0 : List Byte := padTo 36 ([1, 0, 3, 1] ++ padTo 18 [] ++ [2] ++ padTo 5 [] ++ [1])
/-- Grove 0 served by transceiver 0. -/
def sGrove : State := { State.reset with regs := [(0x40070000, 1), (0x40070100, 1)] }
/-- A SCHEDULED node of grove 0. -/
def node0 : NodeRec := { eui := 0x10000, short := 0x1000, state := .scheduled }
def sNode (n : NodeRec) : State := { sGrove with node := { nodes := [n] } }
def msg0 (b : List Byte) : LinkMsg := { short := 0x1000, seq := 0, body := b }
/-- A received data frame of node 0. -/
def frame0 : RxFrame := { kind := .data, pan := 0, dest := 0, source := 0x1000, psdu := 20, originator := 0x1000 }
/-- An open promise of a node at 0x1000, and one target more. -/
def prom0 (l : List Target) : Promise := { id := 1, tx := 0, cls := .prompt, accepted := 0, promised := 0, targets := l }
def sDrv (d : DrvSt) : State := { State.reset with drv := d }
def sCh (c : ChSt) : State := sDrv { chs := lset 0 c State.reset.drv.chs }
def sLum (l : LumSt) : State := sDrv { lums := lset 0 l State.reset.drv.lums }
def sKc (k : KcSt) : State := { State.reset with dim := { State.reset.dim with contactors := lset 0 k State.reset.dim.contactors } }
/-- An admission entry of the EUI-64 0x10000. -/
def adm0 : List Byte := padTo 27 [0, 0, 1]
/-- A caravan to one node. -/
def car0 (l : List CarNode) : Caravan := { id := 1, version := 0, model := 0, length := 0, digest := 0, manifest := 0, count := 4, data := [], nodes := l }
def sFord (f : FordSt) : State := { State.reset with ford := f }
/-- Ford with Stand B in STANDBY. -/
def fB : FordSt := { b := { state := .standby } }
def sCan (c : CanSt) : State := { State.reset with can := c }
/-- An activation by clearings of regions. -/
def act0 (l : List Nat) : CanActivation := { image := imgTile 0 [], cn := 0, regions := l }
/-- A module whose coppice is enabled, with one unit that fell due, and its slices. -/
def sCop (u : List UnitSt) (l : List Slice) : State :=
  { State.reset with regs := [(0x400A0000, 1)], cop := { State.reset.cop with units := u, slices := l } }
def slice0 : Slice := { unit := unitOf .a 4 8191, by_ := .a, carrier := none, c := 0, started := true }
/-- What it says. -/
def manRead (e d : BitVec 256) : Manifest :=
  { seq := 1, length := 1, count := 1, builds := 1, nominal := 0, expected := e, fromVersion := 0, algorithm := 1, verifySlot := 8, decryptSlot := 9, entries := [{ kind := 1, order := 0, version := 0, offset := 0, length := 1, digest := d, readMin := 0, readMax := 0, writes := 0, id := 0 }] }
/-- An update session of one octet. -/
def ups (l : Table (List Byte)) : UpdSession :=
  { id := 3, seq := 1, manifest := [], digest := 0, length := 1, count := 1, chunks := l, lastMessage := 0 }
def sUpd (u : UpdSt) : State := { State.reset with upd := u }
def sOpUpd (u : UpdSt) : State := { sOp with upd := u }
def act1 (p : ActPath) : Activation := { path := p, seq := 1, digest := 0, session := 3, cn := 0, window := 900 }
/-- The monitor under a role. -/
def sMon (r : Role) : State := { State.reset with mon := { role := r } }
def non0 : Nonce := { role := .operator, value := 0, at_ := 0 }
def sNon : State := { State.reset with cn := 250, mon := { nonce := some non0 }, key := { State.reset.key with slots := lset 3 { state := .live } State.reset.key.slots } }
/-- A radio with one channel, on which TRX8 is free. -/
def sRf (r : Role) : State := { sMon r with regs := [(0x40070000, 1)], rad := { State.reset.rad with profile := { span := 1 } } }
def test0 : RfTest := { phy := 0, channel := 0, power := 0, endCn := 50, seconds := 1 }
/-- The text of a line, the body of an FSP message. -/
def lineOf (o : Output) : Option String := match o with | .line x => some x | _ => none
def bodyOf (l : List Output) : List Byte := match l with | [.fsp _ _ _ _ b] => b | _ => []

/-! ### Well-formedness: an ill-formed command for each check -/

/-- The sums of L1 of feeder 0. -/
def sum0 : PhaseSum := { feeder := 0, phase := 0, p := 0, q := 0, meanP := 0, meanQ := 0, rms := 0 }
/-- A wave of node 2. -/
def wave0 : Wave :=
  { originator := 2, seq := 1, route := 1, list := 1, position := 1, level := 65535, hold := 100, detected := 0, hops := 1, speed := 60 }
/-- A long body. -/
def longBody : List Byte := List.replicate (2 ^ 24) 0

theorem smoke_sums_and_carriers :
    (Instr.cycleTick [sum0, sum0] [] [] [] 0 0 0).wellFormed = false ∧
    (Instr.cycleTick [] [1] [] [] 0 0 0).wellFormed = false ∧
    (Instr.cycleTick [] [] [] [9] 0 0 0).wellFormed = false ∧
    (Instr.cycleTick [sum0] [] [] [8] 0 0 0).wellFormed = true ∧
    (Instr.slotMidpoint [9] true).wellFormed = false ∧
    (Instr.powerFail 0 [sum0, sum0]).wellFormed = false ∧
    (Instr.thermalTrip 90 0 [sum0, sum0]).wellFormed = false := by decide

theorem smoke_ticks : [Instr.zcMeasured 0 (2 ^ 32) 0, .zcMeasured 0 0 125, .mainsTimeout (2 ^ 32), .timeSnap 1 (2 ^ 32),
    .ptpMessage 0 (2 ^ 32) .announce, .ppsInEdge true (2 ^ 32), .syncInPulse true 0 (2 ^ 32), .syncInPulse true (2 ^ 32) 0,
    .triggerArm 0 1 (2 ^ 32) inst, .triggerFire 0 (2 ^ 32), .captureEdge 0 true (2 ^ 32) 0, .peTimedStart 0 (2 ^ 32),
    .incInEdge true (2 ^ 32) 0, .tamperInputChange 0 true (2 ^ 32) 0, .tamperQualified 0 (2 ^ 32), .powerFail (2 ^ 32) [],
    .thermalTrip 90 (2 ^ 32) [], .prefTimeout (2 ^ 32)].all (fun i => !i.wellFormed) = true := by decide +kernel

theorem smoke_ptp_messages : [PtpMsg.sync 0 0, .sync (-1) 125, .sync (2 ^ 80) 125, .delay (-1) 0, .delay (2 ^ 80) 0,
    .delay 0 (-1), .delay 0 (2 ^ 80)].all (fun m => !(Instr.ptpMessage 0 0 m).wellFormed) = true := by decide +kernel

theorem smoke_bodies (f : Fin 4) (b : Byte) (x : Word) : [Instr.waymark f b x longBody, .joinReq 0 0 0 longBody true,
    .admitArrive f b 0 x longBody, .hello f b x longBody, .roleChallenge f b x longBody, .roleProof f b x longBody,
    .meterRead f b x longBody, .waybillRead f b x longBody, .waybillClear f b x longBody, .configPut f b x longBody,
    .configGet f b x longBody, .digest f b x longBody, .updateOffer f b x longBody true,
    .updateChunk f b x longBody true [], .updateChunk f b x [] true longBody, .updateState f b x longBody,
    .updateActivate f b x longBody, .registerWindowRead f b x longBody,
    .registerWindowWrite f b x longBody].all (fun i => !i.wellFormed) = true := by
  have h : longBody.length = 2 ^ 24 := by simp only [longBody, List.length_replicate]
  simp [Instr.wellFormed, h]

theorem smoke_image : (Instr.canopyLoaded (List.replicate (2 ^ 32) 0)).wellFormed = false := by
  simp only [Instr.wellFormed, List.length_replicate]; rfl

theorem smoke_lengths : [Instr.tlsHandshake 0 true true [1], .fspHeaderFault 0 [], .monProof [], .monAtt [1],
    .colourWindowEnd 0 0 0 0 0 [], .updateChunk 0 0 0 [] true longBody,
    .waybillHappening .a .nobody 0 0 .ok false (List.replicate 13 0) 0].all (fun i => !i.wellFormed) = true := by
  have h : longBody.length = 2 ^ 24 := by simp only [longBody, List.length_replicate]
  simp [Instr.wellFormed, h]

theorem smoke_link_messages : [LinkMsg.mk (2 ^ 16) 0 [], .mk 0 (2 ^ 16) [], .mk 0 0 (List.replicate 2048 0)].all
    (fun m => [Instr.keepalive m, .report m, .tally m, .nak m, .fault m, .chunkState m, .digestQuery m].all
      fun i => !i.wellFormed) = true := by decide +kernel

theorem smoke_frames : (Instr.frameReceived 0 frame0).wellFormed = true ∧
    [{ frame0 with kind := .joinReq (2 ^ 64) }, { frame0 with kind := .joinAck (2 ^ 64) },
      { frame0 with link := .malformed 256 0 }, { frame0 with link := .malformed 0 65536 },
      { frame0 with link := .unknown 256 0 }, { frame0 with link := .unknown 0 65536 }, { frame0 with pan := 65536 },
      { frame0 with dest := 65536 }, { frame0 with source := 65536 }, { frame0 with keyIndex := 256 },
      { frame0 with counter := 2 ^ 32 }, { frame0 with psdu := 2048 }, { frame0 with originator := 65536 }].all
      (fun f => !(Instr.frameReceived 0 f).wellFormed) = true := by decide +kernel

theorem smoke_waves : (Instr.waveReceived 0 wave0).wellFormed = true ∧
    [{ wave0 with originator := 65536 }, { wave0 with seq := 65536 }, { wave0 with route := 65536 },
      { wave0 with list := 256 }, { wave0 with position := 256 }, { wave0 with level := 65536 },
      { wave0 with hold := 65536 }, { wave0 with detected := 2 ^ 40 }, { wave0 with hops := 256 },
      { wave0 with speed := 65536 }].all (fun w => !(Instr.waveReceived 0 w).wellFormed) = true := by decide +kernel

theorem smoke_numbers : [Instr.handshakeTimeout (2 ^ 40), .metrologyRegisterWrite 0x40020001 0 inst, .ntcFault 0 65536,
    .fordOutvote 0 (2 ^ 64), .waybillHappening .a .nobody 65536 0 .ok false [] 0,
    .waybillHappening .a .nobody 0 256 .ok false [] 0, .waybillHappening .a .nobody 0 0 .ok false [] (2 ^ 32),
    .recorderWrite (.failed [1, 1]), .recorderWrite (.failed [2 ^ 32]), .monBaud (2 ^ 32), .monRd 0 (2 ^ 32),
    .monQ (2 ^ 32) 0, .monQ 0 (2 ^ 32), .monWb (2 ^ 32) 0, .monWb 0 (2 ^ 32), .monWbclear (2 ^ 32),
    .monTamperMaint (2 ^ 32), .monRftx (2 ^ 32) 0 0 0, .monRftx 0 (2 ^ 32) 0 0, .monRftx 0 0 (2 ^ 32) 0,
    .monRftx 0 0 0 (2 ^ 32), .dormancyWake 0 (2 ^ 48) true].all (fun i => !i.wellFormed) = true := by decide +kernel

theorem smoke_measurements :
    (Instr.pwmFrameStart [⟨0, 0, 0, false, false⟩, ⟨0, 1, 0, false, false⟩] [] none).wellFormed = false ∧
    (Instr.pwmFrameStart [] [(1, 0), (1, 5)] none).wellFormed = false ∧
    (Instr.pwmFrameStart [⟨0, 0, 0, false, false⟩, ⟨1, 1, 0, false, false⟩] [(0, 0), (1, 5)] none).wellFormed = true := by
  decide

/-- The opcode table gives no bits, so no word spells a command. -/
theorem test_no_word_spells_a_command : decodeTableWord 8 0 = none ∧ State.reset.withFetchWord 8 0 = State.reset := by decide +kernel

/-! ### Worked examples and tables of the spec -/

/-- Table 3.3: PSDU caps at 50 Hz of SUN-FSK 100, 150, 200 and 300 kb/s and O-QPSK 250 kb/s. -/
theorem test_psdu_caps_50 : ([(1, 0, 0), (2, 0, 0), (3, 0, 0), (4, 0, 0), (6, 0, 0)].map fun m => psduCap m 50)
    = [40, 84, 128, 217, 127] := by decide +kernel

/-- Table 3.3: the same at 60 Hz. -/
theorem test_psdu_caps_60 : ([(1, 0, 0), (2, 0, 0), (3, 0, 0), (4, 0, 0), (6, 0, 0)].map fun m => psduCap m 60)
    = [20, 55, 89, 158, 127] := by decide +kernel

/-- Table 6.9: the header of transaction 0x0000_2A17 passes every check; with another magic it fails at octet 0. -/
theorem test_admit_header :
    headerFault [0x53, 0x46, 0x01, 0x10, 0, 1, 0, 0, 0x10, 0, 0, 0, 0x17, 0x2A, 0, 0, 0xD8, 0x81, 0x04, 0x1A, 0, 0, 0, 0] = none
    ∧ headerFault [0x54, 0x46, 0x01, 0x10, 0, 1, 0, 0, 0x10, 0, 0, 0, 0x17, 0x2A, 0, 0, 0xD8, 0x81, 0x04, 0x1A, 0, 0, 0, 0]
      = some (.malformed, 0) := by decide +kernel

/-- Chapter 02, Elmhollow: a pulse in cycle 436,421,820 shortens the interval that was to close at 436,422,000 by 179
cycles, and D becomes 2,821. -/
theorem test_sync_in :
    (match exec (.syncInPulse true 730000 10) { State.reset with
        cn := 436421820, regs := [(0x40020090, 0xA01)], mtr := { State.reset.mtr with nextLatch := 436422000 } } with
      | .next t => some (t.mtr.nextLatch, t.time.syncOfs, t.time.syncD)
      | _ => none) = some (436421821, 2821, -179) := by decide +kernel

/-- Chapter 09, the Elmhollow underpass: setpoints of 420.0 mA and 356.6 mA on a 0.1 ohm shunt with I_FS = 1,000 mA, and of
the hybrid mode's 70 mA with a duty of half. -/
theorem test_setpoints :
    (let s : State := { State.reset with regs := [(0x40060108, 100000), (0x4006010C, 700)] }
     ([6000 * fineUnit, 5094 * fineUnit + 28400, 500 * fineUnit].map (s.amplitude 0), s.dutyOf (500 * fineUnit)))
    = ([27525, 23370, 4587], 32768) := by decide +kernel

/-- Table 8.9: feeder balance on Mill Lane, with the energies the nodes of each phase sum to: LOSS, and U = 6.058 Wh. -/
theorem test_mill_lane :
    (let b : Balance := {
       cn := 436503000, length := 3000, imports := [61240, 58905, 63118], incomplete := false
       nodes := [(1, 0), (2, 1), (3, 2)], reports := [(1, 60100), (2, 58342), (3, 56930)] }
     let r := State.reset.balanceResult 2 b
     (r.state, r.feederMwh, r.nodeMwh, State.reset.lossUnits 2 183263 175372 3000 / lossScale)) = (2, 183263, 175372, 6058) := by decide +kernel

/-- Chapter 14, Elmhollow: the info of grove 2's key of generation 8 is 3E 4C 02 08. -/
theorem test_grove_info : ({ State.reset with regs := [(0x40070008, 0x4C3E)] }).groveInfo 2 8 = [0x3E, 0x4C, 2, 8] := by
  decide +kernel

/-- Chapter 03, Elmhollow: RAD_JOIN_OPEN at reset opens the cells 1, 5, 10, 13, 17, 21, 26 and 29. -/
theorem test_join_open : (upFrom 0 32).filter (fun n => bit n (State.reset.reg 0x40070028)) = [1, 5, 10, 13, 17, 21, 26, 29] := by
  decide +kernel

/-- Chapter 17: MOD_3V3 above 600 mA is limited to 600 mA. -/
theorem test_mod_limit :
    (match exec (.modPowerOvercurrent 650 true) State.reset with
      | .next t => some (t.fld.modMa, t.fld.modOver)
      | _ => none) = some (600, true) := by decide +kernel

/-! ### States and operands that meet the hypotheses of the obligations -/

/-- Octets written little end first read back as the number, modulo their width. -/
theorem ofLe_le (k n : Nat) : ofLe (le k n) = n % 256 ^ k := by
  induction k generalizing n with
  | zero => simp [le, ofLe, Nat.mod_one]
  | succ k ih =>
    have h : 256 ^ (k + 1) = 256 * 256 ^ k := by rw [Nat.pow_succ, Nat.mul_comm]
    rw [le, ofLe, ih, h, Nat.mod_mul, BitVec.toNat_ofNat]

theorem length_le (k n : Nat) : (le k n).length = k := by
  induction k generalizing n with
  | zero => rfl
  | succ k ih => simp [le, ih]

theorem ofOctets256_octets256 (v : BitVec 256) : ofOctets256 (octets256 v) = v := by
  have p : padTo 32 (octets256 v) = octets256 v := by
    unfold padTo octets256
    rw [List.take_append_of_le_length (by simp [length_le]), List.take_of_length_le (by simp [length_le])]
  unfold ofOctets256
  rw [p, octets256, ofLe_le]
  apply BitVec.eq_of_toNat_eq
  have h := v.isLt
  rw [BitVec.toNat_ofNat]
  omega

theorem slice_left (i n : Nat) (a b : List Byte) (h : i + n ≤ a.length) : slice i n (a ++ b) = slice i n a := by
  unfold slice
  rw [List.drop_append_of_le_length (by omega), List.take_append_of_le_length (by rw [List.length_drop]; omega)]

theorem slice_right (i n : Nat) (a b : List Byte) (h : a.length ≤ i) : slice i n (a ++ b) = slice (i - a.length) n b := by
  unfold slice
  rw [List.drop_append, List.drop_eq_nil_of_le h, List.nil_append]

theorem slice_octets (v : BitVec 256) (r : List Byte) : slice 0 32 (octets256 v ++ r) = octets256 v := by
  unfold slice octets256
  rw [List.drop_zero, List.take_append_of_le_length (by simp [length_le]), List.take_of_length_le (by simp [length_le])]

/-- The three parts of the manifest that no digest fills. -/
def manA : List Byte := [0x4D, 0x4E, 0x46, 0x54, 1, 0, 1, 0, 1, 0, 0, 0, 1, 0, 0, 0, 1, 0, 0, 0, 1, 0, 0, 0]
def manB : List Byte := [0, 0, 0, 0, 0, 0, 0, 0, 1, 0, 0, 0, 0, 0, 0, 0, 0, 0, 0, 0, 1, 0, 0, 0]
def manC : List Byte := padTo 16 [] ++ padTo 72 [1, 8, 9]
def man0 (e d : BitVec 256) : List Byte := manA ++ (octets256 e ++ (manB ++ (octets256 d ++ manC)))

theorem man0_length (e d : BitVec 256) : (man0 e d).length = 200 := by
  simp [man0, octets256, length_le, manA, manB, manC, padTo]

theorem man0_a (e d : BitVec 256) (i n : Nat) (h : i + n ≤ 24) : slice i n (man0 e d) = slice i n manA :=
  slice_left i n _ _ h

theorem man0_b (e d : BitVec 256) (i n : Nat) (h : 56 ≤ i) (k : i + n ≤ 80) : slice i n (man0 e d) = slice (i - 56) n manB := by
  unfold man0
  rw [slice_right _ _ _ _ (by simp [manA]; omega), slice_right _ _ _ _ (by simp [manA, octets256, length_le]; omega),
    slice_left _ _ _ _ (by simp [manA, manB, octets256, length_le]; omega)]
  simp only [octets256, length_le, manA, List.length_cons, List.length_nil, Nat.sub_sub]

theorem man0_c (e d : BitVec 256) (i n : Nat) (h : 112 ≤ i) : slice i n (man0 e d) = slice (i - 112) n manC := by
  unfold man0
  rw [slice_right _ _ _ _ (by simp [manA]; omega), slice_right _ _ _ _ (by simp [manA, octets256, length_le]; omega),
    slice_right _ _ _ _ (by simp [manA, manB, octets256, length_le]; omega),
    slice_right _ _ _ _ (by simp [manA, manB, octets256, length_le]; omega)]
  simp only [octets256, length_le, manA, manB, List.length_cons, List.length_nil, Nat.sub_sub]

theorem man0_e (e d : BitVec 256) : slice 24 32 (man0 e d) = octets256 e := by
  unfold man0
  rw [slice_right _ _ _ _ (by decide)]
  exact slice_octets e _

theorem man0_d (e d : BitVec 256) : slice 80 32 (man0 e d) = octets256 d := by
  unfold man0
  rw [slice_right _ _ _ _ (by decide), slice_right _ _ _ _ (by simp [manA, octets256, length_le]),
    slice_right _ _ _ _ (by simp [manA, manB, octets256, length_le])]
  simp only [octets256, length_le, manA, manB, List.length_cons, List.length_nil]
  exact slice_octets d _

theorem slice_slice (i n j m : Nat) (l : List Byte) (h : i + n ≤ m) : slice i n (slice j m l) = slice (j + i) n l := by
  unfold slice
  rw [List.drop_take, List.take_take, List.drop_drop, Nat.min_eq_left (by omega)]

theorem slice_drop (i n j : Nat) (l : List Byte) : slice i n (l.drop j) = slice (j + i) n l := by
  unfold slice
  rw [List.drop_drop]

theorem man0_entry (e d : BitVec 256) : readEntry (slice 64 64 (man0 e d)) = (manRead e d).entries.headD (readEntry []) := by
  unfold readEntry
  simp (disch := decide) only [oct, w16, w32, slice_slice, Nat.reduceAdd, man0_d, ofOctets256_octets256]
  simp (disch := decide) only [man0_b, man0_c]
  rfl

theorem man0_read (e d : BitVec 256) : readManifest (man0 e d) = some (manRead e d) := by
  have hu : (upFrom 0 1).map (fun i => readEntry (slice (64 + 64 * i) 64 (man0 e d))) = (manRead e d).entries := by
    show [readEntry (slice 64 64 (man0 e d))] = _
    rw [man0_entry]; rfl
  have hn : w16 6 (man0 e d) = 1 := by simp (disch := decide) only [w16, man0_a]; decide
  unfold readManifest
  rw [hn]
  dsimp only
  rw [hu, if_neg (by simp (disch := decide) only [w16, w32, man0_a, man0_length]; decide)]
  simp (disch := decide) only [oct, w32, slice_drop, Nat.reduceAdd, Nat.reduceMul, man0_e, ofOctets256_octets256]
  simp (disch := decide) only [man0_a, man0_b, man0_c]
  rfl

/-- An operator's module that can judge the maker's manifests, and an offer of one to it. -/
def sOffer : State :=
  { sOp with key := { sOp.key with slots := lset 8 { state := .live } (lset 9 { state := .live } sOp.key.slots) } }
def offerMan : List Byte := man0 (sOffer.expectedBmc (manRead 0 0)) 0
def offer0 : List Byte := [1, 0, 0, 0, 1, 0, 0, 0, 1, 0, 0, 0, 200, 0, 0, 0] ++ offerMan

theorem offer0_judged : sOffer.judgeManifest offerMan true 1 1 1 = .ok (manRead (sOffer.expectedBmc (manRead 0 0)) 0) := by
  unfold State.judgeManifest
  rw [offerMan, man0_read]
  have h : sOffer.expectedBmc (manRead (sOffer.expectedBmc (manRead 0 0)) 0) = sOffer.expectedBmc (manRead 0 0) := rfl
  simp only [h]
  generalize sOffer.expectedBmc (manRead 0 0) = x
  have hx : decide ((manRead x 0).expected ≠ x) = false := by simp [manRead]
  have hs : sOffer.manifestSigned (manRead x 0) true = .ok := by
    change sOffer.manifestSigned (manRead 0 0) true = .ok
    decide +kernel
  rw [hx, hs]
  simp only []
  rw [if_neg (by change ¬ ((manRead 0 0).seq ≤ _); decide +kernel)]
  rw [if_neg (by
    change ¬ ((!bit (if sOffer.build = Build.t then 0 else 1) (manRead 0 0).builds || decide ((manRead 0 0).nominal ≠ 0)
      && decide ((manRead 0 0).nominal ≠ field 7 0 (sOffer.reg 0x40020050)) || decide (sOffer.upd.firmware < (manRead 0 0).fromVersion)) = true)
    decide +kernel)]
  rw [if_neg (by
    change ¬ ((!(manRead 0 0).formed || false || decide ((manRead 0 0).seq ≠ 1) || decide ((manRead 0 0).length ≠ 1)
      || decide ((manRead 0 0).count ≠ 1) || decide ((manRead 0 0).count ≠ ((manRead 0 0).length + 4095) / 4096)) = true)
    decide +kernel)]
  rw [if_neg (by
    change ¬ (134217728 < (manRead 0 0).length ∨ 4 < sOffer.caravansHeld + (manRead 0 0).caravans.length)
    decide +kernel)]

/-- The session of a manifest whose digest fits its one octet. -/
def upsM : UpdSession := { ups [(0, [7])] with manifest := man0 0 (Config.sha256 [7]) }
theorem upsM_read : readManifest upsM.manifest = some (manRead 0 (Config.sha256 [7])) := by
  have h : upsM.manifest = man0 0 (Config.sha256 [7]) := rfl
  rw [h, man0_read]
/-- The validation of an activation by a path. -/
def sVal (p : ActPath) : State := sUpd { session := some upsM, activation := some (act1 p), phase := 2 }
theorem upsM_digest :
    ((manRead 0 (Config.sha256 [7])).entries.all fun e => decide (e.kind ≠ 3) && decide (Config.sha256 (upsM.part e) = e.digest)) = true := by
  have h : ((manRead 0 (Config.sha256 [7])).entries.all fun e => decide (e.kind ≠ 3) && decide (Config.sha256 (upsM.part e) = e.digest))
      = (true && decide (Config.sha256 [7] = Config.sha256 [7]) && true) := rfl
  rw [h]; simp

/-- A proof of the right length that is not the head-end's. -/
def wrong0 : List Byte := octets256 (Config.hmac (sNon.slot 3).value (1 :: sNon.monInput non0) + 1)
theorem wrong0_length : wrong0.length = 32 := length_le _ _
theorem wrong0_ne : wrong0 ≠ sNon.proofOf non0.role 1 (sNon.monInput non0) := by
  intro h
  have k := congrArg ofOctets256 h
  unfold wrong0 State.proofOf at k
  rw [ofOctets256_octets256, ofOctets256_octets256] at k
  have e : (Config.hmac (sNon.slot (roleSlot non0.role)).value (1 :: sNon.monInput non0))
      = (Config.hmac (sNon.slot 3).value (1 :: sNon.monInput non0)) := rfl
  rw [e] at k
  have k2 := congrArg BitVec.toNat k
  have l := (Config.hmac (sNon.slot 3).value (1 :: sNon.monInput non0)).isLt
  rw [BitVec.toNat_add] at k2
  simp at k2
  omega

theorem wit_SnapshotCopiesTimeAndCnTogether :
    (∃ (s : State) (value : Word) (tick : Nat), s.live = true ∧ bit 0 value.toNat = true) := by
  exact ⟨State.reset, 1, 0, by decide +kernel⟩

theorem wit_PpsMissesEnterHoldover :
    (∃ (s : State), s.live = true ∧ s.time.source = some (.ptp 0) ∧ 0 < s.time.ports.length ∧ (lget {} 0
      s.time.ports).syncMiss = 2 ∧ s.time.tstate = .locked ∧ s.time.valid1 = false ∧ s.time.validPps = false) ∧
    (∃ (s : State), s.live = true ∧ s.time.validPps = true ∧ s.time.ppsMiss = 2 ∧ s.time.source = some .pps ∧
      s.time.tstate = .locked ∧ s.time.valid0 = false ∧ s.time.valid1 = false) ∧
    (∃ (s : State) (rising : Bool) (tick : Nat) (p : Fin 2), s.live = true ∧ bit 0 (s.reg 0x400200A0) = true ∧ rising
      = !bit 1 (s.reg 0x400200A0) ∧ s.selects .pps = true ∧ s.time.source = some (.ptp p)) ∧
    (∃ (s : State) (rising : Bool) (tick : Nat), s.live = true ∧ ((bit 0 (s.reg 0x400200A0) = false ∨ rising = bit 1
      (s.reg 0x400200A0)))) ∧
    (∃ (s : State) (rising : Bool) (tick : Nat), s.live = true ∧ ((bit 0 (s.reg 0x400200A0) = false ∨ rising = bit 1
      (s.reg 0x400200A0)))) ∧
    (∃ (s : State), s.live = true ∧ s.time.validPps = true ∧ s.time.ppsMiss < 2) := by
  refine ⟨?_, ?_, ?_, ?_, ?_, ?_⟩
  · exact ⟨sT { source := some (.ptp 0), tstate := .locked, ports := [{ syncMiss := 2 }, {}] }, by decide +kernel⟩
  · exact ⟨sT { source := some .pps, tstate := .locked, validPps := true, ppsMiss := 2 }, by decide +kernel⟩
  · exact ⟨{ sT { source := some (.ptp 1) } with regs := [(0x40020000, 1), (0x400200A0, 1)] }, true, 0, 1,
    by decide +kernel⟩
  · exact ⟨State.reset, true, 0, by decide +kernel⟩
  · exact ⟨{ State.reset with regs := [(0x400200A0, 3)] }, true, 0, by decide +kernel⟩
  · exact ⟨sT { validPps := true, ppsMiss := 1 }, by decide +kernel⟩

theorem wit_SourcesAndPtpPorts :
    (∃ (s : State) (value : Word) (w : Writer), s.live = true ∧ canonicalRegs s.regs = true ∧ w.role = .installer ∧
      ((s.time.tstate = .locked ∨ s.time.tstate = .holdover))) ∧
    (∃ (s : State) (value : Word) (w : Writer), s.live = true ∧ canonicalRegs s.regs = true ∧ w.role = .installer ∧
      ((s.time.tstate = .locked ∨ s.time.tstate = .holdover))) ∧
    (∃ (s : State) (value : Word) (w : Writer) (x : TSource), s.live = true ∧ canonicalRegs s.regs = true ∧
      value.toNat % 4 = 3 ∧ bit 3 value.toNat = false ∧ x ≠ .pps ∧ s.time.tstate = .locked ∧ s.time.source = some x ∧
      s.time.validPps = false) ∧
    (∃ (s : State) (p : Fin 2) (tick : Nat), s.live = true ∧ s.sliced (s.can.slotOf .ptp p.val) = false ∧ bit 0
      (s.ptpCtrl p) = true ∧ (lget {} p.val s.time.ports).muteEnd = none) ∧
    (∃ (s : State) (p : Fin 2) (tick : Nat), s.live = true ∧ s.sliced (s.can.slotOf .ptp p.val) = false ∧ bit 0
      (s.ptpCtrl p) = true ∧ (lget {} p.val s.time.ports).muteEnd = none) ∧
    (∃ (s : State) (p : Fin 2) (tick : Nat), s.live = true ∧ s.sliced (s.can.slotOf .ptp p.val) = false ∧ bit 0
      (s.ptpCtrl p) = true ∧ (lget {} p.val s.time.ports).muteEnd = none) ∧
    (∃ (s : State) (p : Fin 2) (tick : Nat), s.live = true ∧ s.sliced (s.can.slotOf .ptp p.val) = false ∧ bit 0
      (s.ptpCtrl p) = true ∧ (lget {} p.val s.time.ports).muteEnd = none ∧ bit 1 (s.ptpCtrl p) = true) ∧
    (∃ (s : State) (p : Fin 2) (tick : Nat), s.live = true ∧ s.sliced (s.can.slotOf .ptp p.val) = false ∧ bit 0
      (s.ptpCtrl p) = true ∧ (lget {} p.val s.time.ports).muteEnd = none) ∧
    (∃ (s : State) (p : Fin 2) (e : Cn), s.live = true ∧ (lget {} p.val s.time.ports).muteEnd = some e ∧ e ≤ s.cn) ∧
    (∃ (s : State) (p : Fin 2), s.live = true ∧ s.time.source = some (.ptp p) ∧ (lget {} p.val
      s.time.ports).announceMiss < 2 ∧ p.val < s.time.ports.length) := by
  refine ⟨?_, ?_, ?_, ?_, ?_, ?_, ?_, ?_, ?_, ?_⟩
  · exact ⟨sT { tstate := .locked, source := some .pps }, 0, inst, by decide +kernel⟩
  · exact ⟨sT { tstate := .holdover, source := none }, 0, inst, by decide +kernel⟩
  · exact ⟨sT { tstate := .locked, source := some (.ptp 0) }, 3, inst, .ptp 0, by decide +kernel⟩
  · exact ⟨sPtp, 0, 0, by decide +kernel⟩
  · exact ⟨sPtp, 0, 0, by decide +kernel⟩
  · exact ⟨sPtp, 0, 0, by decide +kernel⟩
  · exact ⟨{ sPtp with regs := [(0x400200B0, 3)] }, 0, 0, by decide +kernel⟩
  · exact ⟨sPtp, 0, 0, by decide +kernel⟩
  · exact ⟨{ sT { ports := [{}, { muteEnd := some 5 }] } with cn := 5 }, 1, 5, by decide +kernel⟩
  · exact ⟨sT { source := some (.ptp 0), ports := [{ announceMiss := 1 }, {}] }, 0, by decide +kernel⟩

theorem wit_MainsTimeoutAndConfiguration :
    (∃ (s : State) (tick : Nat) (v : Nat), s.live = true ∧ s.time.absent = false ∧ s.time.counting = true ∧
      s.time.lastValid = some v ∧ v + 100000 * s.time.timeoutMs ≤ s.time.ref + (tick - s.time.tsc)) ∧
    (∃ (s : State) (value : Word) (w : Writer), s.live = true ∧ canonicalRegs s.regs = true ∧ w.role = .installer ∧
      ((field 7 0 value.toNat = 50 ∨ field 7 0 value.toNat = 60)) ∧ 30 ≤ field 23 16 value.toNat ∧ field 23 16
      value.toNat ≤ 100) ∧
    (∃ (s : State) (value : Word) (w : Writer), s.live = true ∧ canonicalRegs s.regs = true ∧ w.role = .installer ∧
      ((field 7 0 value.toNat = 50 ∨ field 7 0 value.toNat = 60)) ∧ 30 ≤ field 23 16 value.toNat ∧ field 23 16
      value.toNat ≤ 100) := by
  refine ⟨?_, ?_, ?_⟩
  · exact ⟨sT { counting := true, lastValid := some 0, ref := 0, tsc := 0 }, 100000000, 0, by decide +kernel⟩
  · exact ⟨State.reset, 0x1E0032, inst, by decide +kernel⟩
  · exact ⟨State.reset, 0x64003C, inst, by decide +kernel⟩

theorem wit_SyncInMovesOneBoundaryAnInterval :
    (∃ (s : State) (rising : Bool) (tick : Nat) (width : Nat) (d : Int), s.live = true ∧ bit 0 (s.reg 0x40020090) =
      true ∧ rising = !bit 1 (s.reg 0x40020090) ∧ s.syncDistance (s.cn + 1) = d ∧ field 15 8 (s.reg 0x40020090) ≤
      width ∧ d = 0) ∧
    (∃ (s : State) (rising : Bool) (tick : Nat) (width : Nat) (d : Int), s.live = true ∧ bit 0 (s.reg 0x40020090) =
      true ∧ rising = !bit 1 (s.reg 0x40020090) ∧ s.syncDistance (s.cn + 1) = d ∧ field 15 8 (s.reg 0x40020090) ≤
      width ∧ d ≠ 0 ∧ d.natAbs ≤ s.latchN / 8 ∧ s.time.intervalMoved = false) ∧
    (∃ (s : State) (rising : Bool) (tick : Nat) (width : Nat) (d : Int), s.live = true ∧ bit 0 (s.reg 0x40020090) =
      true ∧ rising = !bit 1 (s.reg 0x40020090) ∧ s.syncDistance (s.cn + 1) = d ∧ field 15 8 (s.reg 0x40020090) ≤
      width ∧ d ≠ 0 ∧ d.natAbs ≤ s.latchN / 8 ∧ s.time.intervalMoved = false) ∧
    (∃ (s : State) (rising : Bool) (tick : Nat) (width : Nat) (d : Int), s.live = true ∧ bit 0 (s.reg 0x40020090) =
      true ∧ rising = !bit 1 (s.reg 0x40020090) ∧ s.syncDistance (s.cn + 1) = d ∧ field 15 8 (s.reg 0x40020090) ≤
      width ∧ ((s.latchN / 8 < d.natAbs ∨ (d ≠ 0 ∧ s.time.intervalMoved = true)))) ∧
    (∃ (s : State) (rising : Bool) (tick : Nat) (width : Nat) (d : Int), s.live = true ∧ bit 0 (s.reg 0x40020090) =
      true ∧ rising = !bit 1 (s.reg 0x40020090) ∧ s.syncDistance (s.cn + 1) = d ∧ width < field 15 8 (s.reg
      0x40020090)) ∧
    (∃ (s : State) (value : Word) (w : Writer), s.live = true ∧ canonicalRegs s.regs = true ∧ w.role = .installer ∧ 1
      ≤ field 15 8 value.toNat) := by
  refine ⟨?_, ?_, ?_, ?_, ?_, ?_⟩
  · exact ⟨sSync 1, true, 0, 1, 0, by decide +kernel⟩
  · exact ⟨sSync 5, true, 0, 1, -4, by decide +kernel⟩
  · exact ⟨sSync 376, true, 0, 1, -375, by decide +kernel⟩
  · exact ⟨sSync 377, true, 0, 1, -376, by decide +kernel⟩
  · exact ⟨sSync 1, true, 0, 0, 0, by decide +kernel⟩
  · exact ⟨State.reset, 0x101, inst, by decide +kernel⟩

theorem wit_TriggersAndCaptures :
    (∃ (s : State) (k : Fin 16) (value : Word) (tick : Nat) (w : Writer), s.live = true ∧ canonicalRegs s.regs = true
      ∧ field 5 2 value.toNat = 0 ∧ bit 1 value.toNat = false ∧ s.cn < field 7 0 (s.reg (0x40020108 + 0x20 * k.val))
      * 4294967296 + s.reg (0x40020104 + 0x20 * k.val)) ∧
    (∃ (s : State) (k : Fin 16) (value : Word) (tick : Nat) (w : Writer), s.live = true ∧ canonicalRegs s.regs = true
      ∧ field 5 2 value.toNat = 0 ∧ bit 1 value.toNat = false ∧ s.cn < field 7 0 (s.reg (0x40020108 + 0x20 * k.val))
      * 4294967296 + s.reg (0x40020104 + 0x20 * k.val)) ∧
    (∃ (s : State) (k : Fin 16) (tick : Nat), s.live = true ∧ (lget {} k.val s.time.triggers).armed = true ∧
      (s.advanceTo tick).trgReached k = true ∧ field 5 2 (s.reg (0x40020100 + 0x20 * k.val)) = 0) ∧
    (∃ (s : State) (k : Fin 16) (tick : Nat), s.live = true ∧ (((lget {} k.val s.time.triggers).armed = false ∨
      (s.advanceTo tick).trgReached k = false))) ∧
    (∃ (s : State) (c : Fin 7) (rising : Bool) (tick : Nat) (sub : Fin 10), s.live = true ∧ c ≠ 0 ∧ (bit (if rising
      then 0 else 1) (s.reg (0x40020300 + 0x20 * c.val)) = true) ∧ (lget {} c.val s.time.captures).fifo.length < 8) ∧
    (∃ (s : State) (c : Fin 7) (rising : Bool) (tick : Nat) (sub : Fin 10), s.live = true ∧ c ≠ 0 ∧ (bit (if rising
      then 0 else 1) (s.reg (0x40020300 + 0x20 * c.val)) = true) ∧ (lget {} c.val s.time.captures).fifo.length < 8) ∧
    (∃ (s : State) (c : Fin 7) (rising : Bool) (tick : Nat) (sub : Fin 10), s.live = true ∧ c ≠ 0 ∧ (bit (if rising
      then 0 else 1) (s.reg (0x40020300 + 0x20 * c.val)) = true) ∧ 8 ≤ (lget {} c.val s.time.captures).fifo.length) ∧
    (∃ (s : State) (c : Fin 7) (rising : Bool) (tick : Nat) (sub : Fin 10), s.live = true ∧ c ≠ 0 ∧ (bit (if rising
      then 0 else 1) (s.reg (0x40020300 + 0x20 * c.val)) = false)) ∧
    (∃ (s : State) (c : Fin 7) (value : Word), s.live = true ∧ bit 0 value.toNat = true) := by
  refine ⟨?_, ?_, ?_, ?_, ?_, ?_, ?_, ?_, ?_⟩
  · exact ⟨{ State.reset with regs := [(0x40020104, 1)] }, 0, 0, 0, inst, by decide +kernel⟩
  · exact ⟨{ State.reset with regs := [(0x400202E4, 1)] }, 15, 0, 0, inst, by decide +kernel⟩
  · exact ⟨sT { counting := true, triggers := [{ armed := true }] }, 0, 0, by decide +kernel⟩
  · exact ⟨State.reset, 15, 0, by decide +kernel⟩
  · exact ⟨{ State.reset with regs := [(0x40020320, 3)] }, 1, true, 0, 0, by decide +kernel⟩
  · exact ⟨{ sT { captures := List.replicate 7 { fifo := List.replicate 7 cap0 } } with regs := [(0x400203C0, 3)] },
    6, true, 0, 0, by decide +kernel⟩
  · exact ⟨{ sT { captures := List.replicate 7 { fifo := List.replicate 8 cap0 } } with regs := [(0x400203C0, 3)] },
    6, true, 0, 0, by decide +kernel⟩
  · exact ⟨State.reset, 3, true, 0, 0, by decide +kernel⟩
  · exact ⟨State.reset, 0, 1, by decide +kernel⟩

theorem wit_CyclesAndMidpointsCountOn :
    (∃ (s : State) (sums : List PhaseSum) (rms : List Nat) (clipped : List (Fin 16)) (busy : List Nat) (power : Fin
      65536) (mj : Fin 65536) (pct : Fin 256), s.live = true ∧ s.time.counting = true) ∧
    (∃ (s : State) (sums : List PhaseSum) (rms : List Nat) (clipped : List (Fin 16)) (busy : List Nat) (power : Fin
      65536) (mj : Fin 65536) (pct : Fin 256), s.live = true ∧ s.time.counting = true ∧ s.ford.safeHold = true ∧
      s.time.rebase = none) ∧
    (∃ (s : State) (sums : List PhaseSum) (rms : List Nat) (clipped : List (Fin 16)) (busy : List Nat) (power : Fin
      65536) (mj : Fin 65536) (pct : Fin 256), s.live = true ∧ s.time.counting = false) ∧
    (∃ (s : State) (busy : List Nat) (planned : Bool), s.live = true ∧ s.time.counting = true ∧ s.time.second =
      false) ∧
    (∃ (s : State) (busy : List Nat) (planned : Bool), s.live = true ∧ s.time.second = true) := by
  refine ⟨?_, ?_, ?_, ?_, ?_⟩
  · exact ⟨sT { counting := true }, [], [], [], [], 0, 0, 0, by decide +kernel⟩
  · exact ⟨{ sT { counting := true } with ford := { State.reset.ford with safeHold := true } }, [], [], [], [], 0, 0,
    0, by decide +kernel⟩
  · exact ⟨State.reset, [], [], [], [], 0, 0, 0, by decide +kernel⟩
  · exact ⟨sT { counting := true }, [], true, by decide +kernel⟩
  · exact ⟨sT { counting := true, second := true }, [], true, by decide +kernel⟩

theorem wit_CrossingsAndWaymarks :
    (∃ (s : State) (ofs : Int) (tick : Nat) (ofsUs : Nat) (v : Nat), s.live = true ∧ s.ford.safeHold = false ∧
      s.time.counting = true ∧ s.time.absent = false ∧ s.time.lastValid = some v ∧ s.time.movePending = false ∧
      s.time.tstate ≠ .holdover ∧ s.mtr.running = false ∧ validPeriod (10 * (((s.time.ref : Int) - s.time.tsc + ofs)
      - v)) = true) ∧
    (∃ (s : State) (ofs : Int) (tick : Nat) (ofsUs : Nat) (v : Nat), s.live = true ∧ s.ford.safeHold = false ∧
      s.time.counting = true ∧ s.time.absent = false ∧ s.time.lastValid = some v ∧ s.time.movePending = false ∧
      s.time.tstate ≠ .holdover ∧ s.mtr.running = false ∧ validPeriod (10 * (((s.time.ref : Int) - s.time.tsc + ofs)
      - v)) = false) ∧
    (∃ (s : State) (ofs : Int) (tick : Nat) (ofsUs : Nat), s.live = true ∧ s.ford.safeHold = true) ∧
    (∃ (s : State) (i : Fin 4) (c : Session) (role : Byte) (tx : Word) (body : List Byte) (ofs : Int), s.live = true
      ∧ s.session i = some c ∧ c.path ≠ 3 ∧ c.mayAsk role.toNat .operator = true ∧ body.length = 18 ∧ slice 5 3 body
      = [0, 0, 0] ∧ (s.judgeWaymark
      { cn := ofLe (slice 0 5 body), sec := ofLe (slice 8 6 body), ns := ofLe (slice 14 4 body) }).1 =
      { agrees := true, ofs := ofs }) ∧
    (∃ (s : State) (i : Fin 4) (c : Session) (role : Byte) (tx : Word) (body : List Byte), s.live = true ∧ s.session
      i = some c ∧ c.path ≠ 3 ∧ c.mayAsk role.toNat .operator = true ∧ body.length = 18 ∧ slice 5 3 body = [0, 0, 0]
      ∧ s.time.tstate = .unset) := by
  refine ⟨?_, ?_, ?_, ?_, ?_⟩
  · exact ⟨sT { counting := true, lastValid := some 0, ref := 2000000 }, 0, 0, 0, 0, by decide +kernel⟩
  · exact ⟨sT { counting := true, lastValid := some 0, ref := 1000000 }, 0, 0, 0, 0, by decide +kernel⟩
  · exact ⟨{ State.reset with ford := { State.reset.ford with safeHold := true } }, 0, 0, 0, by decide +kernel⟩
  · exact ⟨{ sOp with time := tTrack }, 0, op1, 1, 0, List.replicate 18 0, 0, by decide +kernel⟩
  · exact ⟨sOp, 0, op1, 1, 0, List.replicate 18 0, by decide +kernel⟩

theorem wit_QueuesPushAndRead :
    (∃ (s : State) (q : Fin 128) (data : BitVec 64) (parity : Bool) (c : QueueSt), s.live = true ∧ s.queue q.val =
      some c ∧ c.words.length < c.depth) ∧
    (∃ (s : State) (q : Fin 128) (data : BitVec 64) (parity : Bool) (c : QueueSt), s.live = true ∧ s.queue q.val =
      some c ∧ c.depth ≤ c.words.length) ∧
    (∃ (s : State) (q : Fin 128) (c : QueueSt) (w : QWord) (r : List QWord), s.live = true ∧ s.queue q.val = some c ∧
      c.words = w :: r ∧ w.parity = parity64 64 w.data) ∧
    (∃ (s : State) (q : Fin 128) (c : QueueSt) (w : QWord) (r : List QWord), s.live = true ∧ s.queue q.val = some c ∧
      c.words = w :: r ∧ w.parity = parity64 64 w.data) ∧
    (∃ (s : State) (row : Fin 544), s.live = true) ∧
    (∃ (s : State) (value : Word) (w : Writer), s.live = true ∧ canonicalRegs s.regs = true) ∧
    (∃ (s : State) (q : Fin 128) (value : Word) (c : QueueSt), s.live = true ∧ s.queue q.val = some c) := by
  refine ⟨?_, ?_, ?_, ?_, ?_, ?_, ?_⟩
  · exact ⟨sQ [{ data := 1, parity := true }], 3, 0, true,
    { depth := 2, high := 2, low := 0, words := [{ data := 1, parity := true }] }, by decide +kernel⟩
  · exact ⟨sQ (List.replicate 2 { data := 1, parity := true }), 3, 0, true,
    { depth := 2, high := 2, low := 0, words := List.replicate 2 { data := 1, parity := true } }, by decide +kernel⟩
  · exact ⟨sQ [{ data := 0, parity := false }], 3,
    { depth := 2, high := 2, low := 0, words := [{ data := 0, parity := false }] }, { data := 0, parity := false },
    [], by decide +kernel⟩
  · exact ⟨sQ [{ data := 0, parity := false }], 3,
    { depth := 2, high := 2, low := 0, words := [{ data := 0, parity := false }] }, { data := 0, parity := false },
    [], by decide +kernel⟩
  · exact ⟨State.reset, 0, by decide +kernel⟩
  · exact ⟨State.reset, 0, inst, by decide +kernel⟩
  · exact ⟨sQ [], 3, 0, { depth := 2, high := 2, low := 0 }, by decide +kernel⟩

theorem wit_SourcesGatherAndAreServed :
    (∃ (s : State) (n : Fin 1024) (kind : Fin 256) (payload : Word) (r : Route), s.live = true ∧ s.sourceExists n.val
      = true ∧ tget n.val s.evt.routes = some r ∧ r.en = true ∧ s.evt.suppressed.contains n.val = false ∧ tget n.val
      s.evt.srcs = none ∧ 1 < r.count) ∧
    (∃ (s : State) (n : Fin 1024) (kind : Fin 256) (payload : Word), s.sourceExists n.val = false) ∧
    (∃ (s : State) (n : Fin 1024) (r : Route) (c : SrcSt), s.live = true ∧ s.evt.en = true ∧ tget n.val s.evt.routes
      = some r ∧ tget n.val s.evt.srcs = some c ∧ c.state = .gathering ∧ (s.evt.ring r.engine.val r.prio.val).room =
      true ∧ r.engine.val < s.evt.engs.length ∧ r.prio.val < (s.evt.eng r.engine.val).rings.length) ∧
    (∃ (s : State) (e : Fin 16) (value : Word) (r : Route) (c : SrcSt), s.live = true ∧ tsorted s.evt.srcs = true ∧
      tget (field 9 0 value.toNat) s.evt.routes = some r ∧ tget (field 9 0 value.toNat) s.evt.srcs = some c ∧
      r.engine = e ∧ c.state = .active) ∧
    (∃ (s : State) (e : Fin 16) (value : Word) (r : Route) (c : SrcSt), s.live = true ∧ tsorted s.evt.srcs = true ∧
      tget (field 9 0 value.toNat) s.evt.routes = some r ∧ tget (field 9 0 value.toNat) s.evt.srcs = some c ∧
      r.engine ≠ e) := by
  refine ⟨?_, ?_, ?_, ?_, ?_⟩
  · exact ⟨sRt [], 9, 0, 0, rt0, by decide +kernel⟩
  · exact ⟨State.reset, 795, 0, 0, by decide +kernel⟩
  · exact ⟨sRt [(9, { state := .gathering })], 9, rt0, { state := .gathering }, by decide +kernel⟩
  · exact ⟨sRt [(9, { state := .active })], 1, 9, rt0, { state := .active }, by decide +kernel⟩
  · exact ⟨sRt [(9, { state := .active })], 2, 9, rt0, { state := .active }, by decide +kernel⟩

theorem wit_RingsAndHandlers :
    (∃ (s : State) (e : Fin 16) (p : Fin 4) (value : Word), s.live = true ∧ (s.evt.ring e.val p.val).size <
      ((s.evt.ring e.val p.val).prod + 65536 - field 15 0 value.toNat) % 65536) ∧
    (∃ (s : State) (e : Fin 16) (p : Fin 4) (value : Word), s.live = true ∧ ((s.evt.ring e.val p.val).prod + 65536 -
      field 15 0 value.toNat) % 65536 ≤ (s.evt.ring e.val p.val).size ∧ s.evt.srcs = [] ∧ e.val < s.evt.engs.length ∧
      p.val < (s.evt.eng e.val).rings.length) ∧
    (∃ (s : State) (e : Fin 16) (p : Fin 4) (value : Word), s.live = true ∧ (s.evt.ring e.val p.val).prod ≠
      (s.evt.ring e.val p.val).cons) ∧
    (∃ (s : State) (e : Fin 16) (p : Fin 4) (value : Word), s.live = true ∧ (s.evt.ring e.val p.val).prod =
      (s.evt.ring e.val p.val).cons ∧ 4 ≤ field 31 28 value.toNat ∧ field 31 28 value.toNat ≤ 10 ∧ s.evt.srcs = [] ∧
      e.val < s.evt.engs.length ∧ p.val < (s.evt.eng e.val).rings.length) ∧
    (∃ (s : State) (e : Fin 16) (p : Fin 4) (value : Word), s.live = true ∧ (s.evt.ring e.val p.val).prod =
      (s.evt.ring e.val p.val).cons ∧ 4 ≤ field 31 28 value.toNat ∧ field 31 28 value.toNat ≤ 10 ∧ s.evt.srcs = [] ∧
      e.val < s.evt.engs.length ∧ p.val < (s.evt.eng e.val).rings.length) ∧
    (∃ (s : State) (e : Fin 16) (value : Word), s.live = true ∧ e.val < s.evt.engs.length) ∧
    (∃ (s : State) (e : Fin 16) (value : Word), s.live = true ∧ e.val < s.evt.engs.length ∧ (s.evt.eng e.val).highest
      (s.evt.eng e.val).level < (s.evt.eng e.val).level) ∧
    (∃ (s : State) (e : Fin 16) (value : Word) (back : Nat) (rest : List Nat), s.live = true ∧ e.val <
      s.evt.engs.length ∧ (s.evt.eng e.val).frames = back :: rest ∧ back ≤ (s.evt.eng e.val).highest back) := by
  refine ⟨?_, ?_, ?_, ?_, ?_, ?_, ?_, ?_⟩
  · exact ⟨sRt [], 1, 2, 0xFFEF, by decide +kernel⟩
  · exact ⟨sRt [], 1, 2, 0xFFF0, by decide +kernel⟩
  · exact ⟨sEng { rings := [{ prod := 1, log2 := 4 }] }, 0, 0, 0, by decide +kernel⟩
  · exact ⟨sEng { rings := [{ prod := 1, cons := 1 }] }, 0, 0, 0x40000010, by decide +kernel⟩
  · exact ⟨sEng { rings := [{ prod := 1, cons := 1 }] }, 0, 0, 0xA0000010, by decide +kernel⟩
  · exact ⟨State.reset, 0, 0, by decide +kernel⟩
  · exact ⟨sEng
    { mask := 0, rings := [{}, { prod := 1, log2 := 4, records := [{ source := 0, kind := 0, activePending := false, coalesced := false, overflow := false, count := 1, stamp := 0, payload := 0 }] }] },
    0, 0, by decide +kernel⟩
  · exact ⟨sEng { level := 1, frames := [4] }, 0, 0, 4, [], by decide +kernel⟩

theorem wit_HandshakesAndBadHeaders :
    (∃ (s : State) (path : Fin 4) (exporter : List Byte) (i : Nat), s.live = true ∧ path ≠ 3 ∧ s.can.siteId ≠ 0 ∧
      s.freeSession = some i) ∧
    (∃ (s : State) (path : Fin 4) (exporter : List Byte) (i : Nat), s.live = true ∧ path ≠ 3 ∧ s.can.siteId ≠ 0 ∧
      s.freeSession = none) ∧
    (∃ (s : State) (path : Fin 4) (exporter : List Byte) (i : Nat) (chained : Bool), s.live = true ∧ path ≠ 3 ∧
      s.can.siteId ≠ 0) ∧
    (∃ (s : State) (since : Nat), s.live = true ∧ since + 500 ≤ s.cn) ∧
    (∃ (s : State) (i : Fin 4) (c : Session) (header : List Byte) (reason : Reason) (offset : Nat), s.live = true ∧
      s.session i = some c ∧ headerFault (padTo 24 header) = some (reason, offset) ∧ c.violations = []) ∧
    (∃ (s : State) (i : Fin 4) (c : Session) (type : Byte) (tx : Word), s.live = true ∧ s.session i = some c ∧
      headType type.toNat = false ∧ c.violations = []) := by
  refine ⟨?_, ?_, ?_, ?_, ?_, ?_⟩
  · exact ⟨{ State.reset with can := { State.reset.can with siteId := 1 } }, 0, [], 0, by decide +kernel⟩
  · exact
    ⟨{ State.reset with can := { State.reset.can with siteId := 1 }, fsp := { State.reset.fsp with sessions := [(0, op1), (1, op1), (2, op1), (3, op1)] } },
    0, [], 0, by decide +kernel⟩
  · exact ⟨{ State.reset with can := { State.reset.can with siteId := 1 } }, 0, [], 0, true, by decide +kernel⟩
  · exact ⟨{ State.reset with cn := 500 }, 0, by decide +kernel⟩
  · exact ⟨sOp, 0, op1, [], .malformed, 0, by decide +kernel⟩
  · exact ⟨sOp, 0, op1, 0x7F, 0, by decide +kernel⟩

theorem wit_RolesAndPushes :
    (∃ (s : State) (i : Fin 4) (c : Session) (role : Byte) (tx : Word) (body : List Byte), s.live = true ∧ s.session
      i = some c ∧ c.path ≠ 3 ∧ roleOf role.toNat = some c.role ∧ body.length = 8 ∧ ofLe (slice 0 1 body) < 2 ∧ ofLe
      (slice 1 3 body) = 0) ∧
    (∃ (s : State) (i : Fin 4) (c : Session) (role : Byte) (tx : Word) (body : List Byte) (r : Role), s.live = true ∧
      s.session i = some c ∧ c.path ≠ 3 ∧ roleOf role.toNat = some c.role ∧ r ≠ .nobody ∧ roleOf (ofLe (slice 0 1
      body)) = some r ∧ body.length = 20 ∧ ofLe (slice 1 3 body) = 0) ∧
    (∃ (s : State) (i : Fin 4) (c : Session) (role : Byte) (tx : Word) (body : List Byte) (h : Challenge), s.live =
      true ∧ s.session i = some c ∧ c.path ≠ 3 ∧ roleOf role.toNat = some c.role ∧ c.challenge = some h ∧ body.length
      = 36 ∧ ofLe (slice 1 3 body) = 0 ∧ s.cn ≤ h.cn + 250 ∧ ofLe (slice 0 1 body) = roleCode h.role ∧ s.slotLive
      (roleSlot h.role) = true ∧ slice 4 32 body = s.proofOf h.role 1 (s.proofInput c h)) ∧
    (∃ (s : State) (i : Fin 4) (c : Session) (h : Challenge), s.live = true ∧ s.session i = some c ∧ c.challenge =
      some h ∧ h.cn + 250 < s.cn ∧ c.violations = []) ∧
    (∃ (s : State) (i : Fin 4) (c : Session) (role : Byte) (type : Byte) (seq : Word), s.live = true ∧ s.session i =
      some c ∧ roleOf role.toNat = some c.role ∧ (s.fsp.pushLog.any fun p => decide (p.seq = seq.toNat) && decide
      (p.type = type.toNat)) = true) ∧
    (∃ (s : State) (i : Fin 4) (c : Session), s.live = true ∧ tsorted s.fsp.sessions = true ∧ s.session i = some c ∧
      c.lastMessage + s.idleLimit ≤ s.cn) ∧
    (∃ (s : State) (i : Fin 4) (c : Session), s.live = true ∧ tsorted s.fsp.sessions = true ∧ s.session i = some c ∧
      s.cn < c.lastMessage + s.idleLimit) ∧
    (∃ (s : State) (i : Fin 4) (c : Session), s.live = true ∧ tsorted s.fsp.sessions = true ∧ s.session i = some c) := by
  refine ⟨?_, ?_, ?_, ?_, ?_, ?_, ?_, ?_⟩
  · exact ⟨sOp, 0, op1, 1, 0, padTo 8 [1], by decide +kernel⟩
  · exact ⟨sOp, 0, op1, 1, 0, padTo 20 [3], .maker, by decide +kernel⟩
  · exact ⟨sProof, 0, ses1, 0, 0, proof1, chal1,
    by (exact ⟨by decide +kernel, by decide +kernel, by decide +kernel, by decide +kernel, by decide +kernel, by decide +kernel, by decide +kernel, by decide +kernel, by decide +kernel, by decide +kernel, rfl⟩)⟩
  · exact
    ⟨{ sSess { path := 0, challenge := some { role := .operator, headNonce := [], moduleNonce := [], cn := 0 } } with cn := 251 },
    0, { path := 0, challenge := some { role := .operator, headNonce := [], moduleNonce := [], cn := 0 } },
    { role := .operator, headNonce := [], moduleNonce := [], cn := 0 }, by decide +kernel⟩
  · exact ⟨{ sOp with fsp := { sOp.fsp with pushLog := [{ seq := 7, type := 0x11, body := [] }] } }, 0, op1, 1, 0x11,
    7, by decide +kernel⟩
  · exact ⟨{ sOp with cn := 6000 }, 0, op1, by decide +kernel⟩
  · exact ⟨{ sOp with cn := 5999 }, 0, op1, by decide +kernel⟩
  · exact ⟨sOp, 0, op1, by decide +kernel⟩

theorem wit_ModemPathDialsAndBacksOff :
    (∃ (s : State), s.live = true ∧ s.fsp.modem.state = .closed ∧ ((s.modemAlways = true ∨ (s.j5Role = false ∧
      s.fsp.lastRole + s.modemOpenAfter ≤ s.cn)))) ∧
    (∃ (s : State) (k : Nat) (ok : Bool) (connect : Bool) (l : List Byte), s.live = true ∧ s.fsp.modem.state =
      .dialing k ∧ s.dialLine (k + 1) = some l) ∧
    (∃ (s : State) (k : Nat) (ok : Bool) (connect : Bool), s.live = true ∧ s.fsp.modem.state = .dialing k ∧
      s.dialLine (k + 1) = none ∧ (ok || connect) = true) ∧
    (∃ (s : State) (k : Nat) (ok : Bool) (connect : Bool), s.live = true ∧ s.fsp.modem.state = .dialing k) ∧
    (∃ (s : State) (k : Nat) (ok : Bool) (connect : Bool), s.live = true ∧ s.fsp.modem.state = .dialing k ∧
      s.fsp.modem.since + 500 ≤ s.cn) ∧
    (∃ (s : State), s.live = true ∧ s.fsp.modem.state = .backOff ∧ s.fsp.modem.since + s.fsp.modem.wait ≤ s.cn) ∧
    (∃ (s : State), s.live = true ∧ s.fsp.modem.state = .up ∧ s.modemAlways = false ∧ s.j5Settled = true ∧
      s.fsp.modem.lastRequest + 3000 ≤ s.cn) ∧
    (∃ (s : State) (asserted : Bool), s.live = true) := by
  refine ⟨?_, ?_, ?_, ?_, ?_, ?_, ?_, ?_⟩
  · exact ⟨{ sModem {} with cn := 1500 }, by decide +kernel⟩
  · exact ⟨sModem { state := .dialing 0 }, 0, true, true, [0x42], by decide +kernel⟩
  · exact ⟨sModem { state := .dialing 1 }, 1, true, true, by decide +kernel⟩
  · exact ⟨sModem { state := .dialing 1 }, 1, true, true, by decide +kernel⟩
  · exact ⟨{ sModem { state := .dialing 1 } with cn := 500 }, 1, true, true, by decide +kernel⟩
  · exact ⟨{ sModem { state := .backOff, wait := 60000 } with cn := 60000 }, by decide +kernel⟩
  · exact
    ⟨{ State.reset with cn := 3000, fsp := { State.reset.fsp with modem := { state := .up }, sessions := [(0, { path := 0, role := .operator, roleSince := some 0 })] } },
    by decide +kernel⟩
  · exact ⟨State.reset, true, by decide +kernel⟩

theorem wit_RecorderStagesAndCommits :
    (∃ (s : State) (role : Role) (source : Nat) (id : Nat) (tick : Nat) (reason : Reason) (tagged : Bool) (payload :
      List Byte) (l : List Rec) (r : Rec), s.live = true ∧ s.way.staging = l ++ [r] ∧ ((r.source = source ∧ r.id = id
      ∧ r.reason = reason ∧ padTo 12 r.payload = padTo 12 payload ∧ s.cn ≤ r.cn + 10 * s.time.nominal))) ∧
    (∃ (s : State) (role : Role) (source : Nat) (id : Nat) (tick : Nat) (reason : Reason) (tagged : Bool) (payload :
      List Byte) (l : List Rec) (r : Rec), s.live = true ∧ s.way.staging = l ++ [r] ∧ ((r.source = source ∧ r.id = id
      ∧ r.reason = reason ∧ padTo 12 r.payload = padTo 12 payload ∧ s.cn ≤ r.cn + 10 * s.time.nominal))) ∧
    (∃ (s : State) (role : Role) (source : Nat) (id : Nat) (tick : Nat) (reason : Reason) (tagged : Bool) (payload :
      List Byte) (l : List Rec) (r : Rec), s.live = true ∧ s.way.staging = l ++ [r] ∧ r.id ≠ id ∧
      s.way.staging.length < 64 ∧ s.build = .t) ∧
    (∃ (s : State) (role : Role) (source : Nat) (id : Nat) (tick : Nat) (reason : Reason) (tagged : Bool) (payload :
      List Byte) (l : List Rec) (r : Rec), s.live = true ∧ s.way.staging = l ++ [r] ∧ r.id ≠ id ∧
      s.way.staging.length = 64) ∧
    (∃ (s : State) (r : Rec) (rest : List Rec), s.live = true ∧ s.way.lossOpen = 0 ∧ s.way.staging = r :: rest ∧
      s.fsp.pushLog = [] ∧ s.way.ring.length < s.way.capacity) := by
  refine ⟨?_, ?_, ?_, ?_, ?_⟩
  · exact ⟨{ sWay { staging := [{ rec0 with cn := 0 }] } with cn := 0 }, .operator, 0x0420, 2, 0, .ok, true, [], [],
    rec0, by decide +kernel⟩
  · exact ⟨{ sWay { staging := [{ rec0 with cn := 0 }] } with cn := 500 }, .operator, 0x0420, 2, 0, .ok, true, [],
    [], rec0, by decide +kernel⟩
  · exact ⟨sWay { staging := List.replicate 63 rec0 }, .operator, 0x0420, 3, 0, .busy, true, [], List.replicate 62
    rec0, rec0, by decide +kernel⟩
  · exact ⟨sWay { staging := List.replicate 64 rec0 }, .operator, 0x0420, 3, 0, .busy, true, [], List.replicate 63
    rec0, rec0, by decide +kernel⟩
  · exact ⟨sWay { staging := [rec0], capacity := 1 }, rec0, [], by decide +kernel⟩

theorem wit_WaybillIsReadAndCleared :
    (∃ (s : State) (i : Fin 4) (c : Session) (role : Byte) (tx : Word) (body : List Byte), s.live = true ∧ s.session
      i = some c ∧ c.path ≠ 3 ∧ c.mayAsk role.toNat .operator = true ∧ body.length = 8 ∧ ofLe (slice 6 2 body) = 0 ∧
      1 ≤ ofLe (slice 4 2 body) ∧ ofLe (slice 4 2 body) ≤ 1024) ∧
    (∃ (s : State) (i : Fin 4) (c : Session) (role : Byte) (tx : Word) (body : List Byte), s.live = true ∧ s.session
      i = some c ∧ c.path ≠ 3 ∧ c.mayAsk role.toNat .operator = true ∧ body.length = 8 ∧ ofLe (slice 6 2 body) = 0 ∧
      1 ≤ ofLe (slice 4 2 body) ∧ ofLe (slice 4 2 body) ≤ 1024) ∧
    (∃ (s : State) (i : Fin 4) (c : Session) (role : Byte) (tx : Word) (body : List Byte), s.live = true ∧ s.session
      i = some c ∧ c.path ≠ 3 ∧ c.mayAsk role.toNat .installer = true ∧ body.length = 4 ∧ ofLe body ≠ s.way.newest) ∧
    (∃ (s : State) (i : Fin 4) (c : Session) (role : Byte) (tx : Word) (body : List Byte) (l : List Rec) (r : Rec),
      s.live = true ∧ s.session i = some c ∧ c.path ≠ 3 ∧ c.mayAsk role.toNat .installer = true ∧ body.length = 4 ∧
      ofLe body = s.way.newest ∧ s.way.ring = l ++ [r] ∧ r.id ≠ 1 ∧ s.fsp.pushLog = [] ∧ 1 ≤ s.way.capacity) ∧
    (∃ (s : State) (value : Word) (w : Writer), s.live = true ∧ canonicalRegs s.regs = true) := by
  refine ⟨?_, ?_, ?_, ?_, ?_⟩
  · exact ⟨sOp, 0, op1, 1, 0, [0, 0, 0, 0, 1, 0, 0, 0], by decide +kernel⟩
  · exact ⟨{ sOp with way := { ring := [rec0], newest := 5 } }, 0, op1, 1, 0, [5, 0, 0, 0, 0, 4, 0, 0],
    by decide +kernel⟩
  · exact ⟨sIn, 0, in1, 2, 0, [9, 0, 0, 0], by decide +kernel⟩
  · exact ⟨{ sIn with way := { ring := [rec0], newest := 5 } }, 0, in1, 2, 0, [5, 0, 0, 0], [], rec0,
    by decide +kernel⟩
  · exact ⟨State.reset, 0, inst, by decide +kernel⟩

theorem wit_SettingsArePutAndRead :
    (∃ (s : State) (i : Fin 4) (c : Session) (role : Byte) (tx : Word) (body : List Byte) (es : List (List Byte)),
      s.live = true ∧ s.session i = some c ∧ c.path ≠ 3 ∧ c.mayAsk role.toNat (tableRight 0x0020) = true ∧ 20 ≤
      body.length ∧ w16 0 body = 0x0020 ∧ oct 2 body ≤ 1 ∧ oct 3 body = 0 ∧ ofLe (slice 13 3 body) = 0 ∧ body.length
      = 20 + w32 16 body ∧ s.settingsHeld = false ∧ w32 4 body = s.fsp.epoch ∧ entriesOf 0x0020 (body.drop 20) = some
      es ∧ (bit 0 (oct 2 body) && es.any (removal 0x0020)) = false ∧ (putTable 0x0020 (bit 0 (oct 2 body)) (s.table6
      0x0020).accepted es).length ≤ tableCapacity 0x0020 ∧ ofLe (slice 8 5 body) ≤ s.cn) ∧
    (∃ (s : State) (i : Fin 4) (c : Session) (role : Byte) (tx : Word) (body : List Byte), s.live = true ∧ s.session
      i = some c ∧ c.path ≠ 3 ∧ c.mayAsk role.toNat .operator = true ∧ body.length = 12 ∧ w16 2 body = 0 ∧ w32 8 body
      ≤ 1048556 ∧ tableIds.contains (w16 0 body) = true) ∧
    (∃ (s : State) (i : Fin 4) (c : Session) (role : Byte) (tx : Word) (body : List Byte), s.live = true ∧ s.session
      i = some c ∧ c.path ≠ 3 ∧ c.mayAsk role.toNat .operator = true ∧ body = [0, 0, 0, 0, 0, 0, 0, 0]) := by
  refine ⟨?_, ?_, ?_⟩
  · exact ⟨sOp, 0, op1, 1, 0, [0x20, 0, 0, 0] ++ List.replicate 12 0 ++ [4, 0, 0, 0] ++ [1, 0, 2, 0], [[1, 0, 2, 0]],
    by decide +kernel⟩
  · exact ⟨sOp, 0, op1, 1, 0, [0x20, 0, 0, 0] ++ List.replicate 8 0, by decide +kernel⟩
  · exact ⟨sOp, 0, op1, 1, 0, List.replicate 8 0, by decide +kernel⟩

theorem wit_LinksAndRegisterWrites :
    (∃ (s : State) (port : Fin 3) (data : Byte) (framing : Bool) (brk : Bool) (q : Nat) (c : QueueSt), s.live = true
      ∧ s.sliced (s.can.slotOf .fieldIo port.val) = false ∧ s.uartQueue port.val = some q ∧ s.queue q = some c ∧
      c.words.length < c.depth) ∧
    (∃ (s : State) (port : Fin 2), s.live = true) ∧
    (∃ (s : State) (port : Fin 2), s.live = true ∧ s.fsp.sessions = [] ∧ s.time.source = none) ∧
    (∃ (s : State) (value : Word) (w : Writer), s.live = true ∧ canonicalRegs s.regs = true) ∧
    (∃ (s : State) (value : Word) (w : Writer), s.live = true ∧ canonicalRegs s.regs = true ∧ w.role ≠ .installer) ∧
    (∃ (s : State) (value : Word) (w : Writer), s.live = true ∧ canonicalRegs s.regs = true ∧ w.role = .installer) ∧
    (∃ (s : State) (addr : Word) (value : Word) (w : Writer), s.live = true ∧ canonicalRegs s.regs = true ∧ inSpace
      addr.toNat = false) ∧
    (∃ (s : State) (i : Fin 4) (c : Session) (role : Byte) (tx : Word) (v : Word), s.live = true ∧ canonicalRegs
      s.regs = true ∧ s.session i = some c ∧ c.path ≠ 3 ∧ c.mayAsk role.toNat .maker = true) ∧
    (∃ (s : State) (i : Fin 4) (c : Session) (role : Byte) (tx : Word) (v : Word), s.live = true ∧ canonicalRegs
      s.regs = true ∧ s.session i = some c ∧ c.path ≠ 3 ∧ c.mayAsk role.toNat .maker = true) := by
  refine ⟨?_, ?_, ?_, ?_, ?_, ?_, ?_, ?_, ?_⟩
  · exact ⟨sField, 0, 1, true, true, 0, { depth := 2, high := 2, low := 0 }, by decide +kernel⟩
  · exact ⟨State.reset, 0, by decide +kernel⟩
  · exact ⟨State.reset, 1, by decide +kernel⟩
  · exact ⟨State.reset, 0, inst, by decide +kernel⟩
  · exact ⟨State.reset, 0, { role := .operator, via := .monitor }, by decide +kernel⟩
  · exact ⟨State.reset, 0, instS, by decide +kernel⟩
  · exact ⟨State.reset, 0x10, 0, inst, by decide +kernel⟩
  · exact ⟨sSess mk1, 0, mk1, 3, 0, 0x12345, by decide +kernel⟩
  · exact ⟨sSess mk1, 0, mk1, 3, 0, 0, by decide +kernel⟩

theorem wit_KeyCommandsAndAttestation :
    (∃ (s : State) (slot : Fin 64) (w : Writer) (op : KeyOp) (i : Instr), s.live = true ∧ canonicalRegs s.regs = true
      ∧ (op, i) ∈ [(KeyOp.write, Instr.keyWrite slot w), (KeyOp.derive_, .keyDerive slot w), (KeyOp.generate,
      .keyGenerate slot w), (KeyOp.erase, .keyErase slot w)] ∧ s.key.run = none ∧ s.sys.powerFail = false ∧ s.mayKey
      w slot op = true ∧ s.keyRefusal slot op (s.attrFor slot) = .ok) ∧
    (∃ (s : State) (slot : Fin 64) (w : Writer) (op : KeyOp) (i : Instr), s.live = true ∧ canonicalRegs s.regs = true
      ∧ (op, i) ∈ [(KeyOp.write, Instr.keyWrite slot w), (KeyOp.derive_, .keyDerive slot w), (KeyOp.generate,
      .keyGenerate slot w), (KeyOp.erase, .keyErase slot w)] ∧ s.key.run = none ∧ s.sys.powerFail = false ∧ s.mayKey
      w slot op = true ∧ s.keyRefusal slot op (s.attrFor slot) = .ok) ∧
    (∃ (s : State) (slot : Fin 64) (w : Writer) (op : KeyOp) (i : Instr), s.live = true ∧ canonicalRegs s.regs = true
      ∧ (op, i) ∈ [(KeyOp.write, Instr.keyWrite slot w), (KeyOp.derive_, .keyDerive slot w), (KeyOp.generate,
      .keyGenerate slot w), (KeyOp.erase, .keyErase slot w)] ∧ s.key.run = none ∧ s.sys.powerFail = false ∧ s.mayKey
      w slot op = true ∧ s.keyRefusal slot op (s.attrFor slot) = .ok) ∧
    (∃ (s : State) (slot : Fin 64) (w : Writer) (op : KeyOp) (i : Instr), s.live = true ∧ canonicalRegs s.regs = true
      ∧ (op, i) ∈ [(KeyOp.write, Instr.keyWrite slot w), (KeyOp.derive_, .keyDerive slot w), (KeyOp.generate,
      .keyGenerate slot w), (KeyOp.erase, .keyErase slot w)] ∧ s.key.run = none ∧ s.sys.powerFail = false ∧ s.mayKey
      w slot op = true ∧ s.keyRefusal slot op (s.attrFor slot) = .ok) ∧
    (∃ (s : State) (slot : Fin 64) (w : Writer) (op : KeyOp) (i : Instr), s.live = true ∧ canonicalRegs s.regs = true
      ∧ (op, i) ∈ [(KeyOp.write, Instr.keyWrite slot w), (KeyOp.derive_, .keyDerive slot w), (KeyOp.generate,
      .keyGenerate slot w), (KeyOp.erase, .keyErase slot w)] ∧ s.key.run ≠ none) ∧
    (∃ (s : State) (slot : Fin 64) (w : Writer) (op : KeyOp) (i : Instr), s.live = true ∧ canonicalRegs s.regs = true
      ∧ (op, i) ∈ [(KeyOp.write, Instr.keyWrite slot w), (KeyOp.derive_, .keyDerive slot w), (KeyOp.generate,
      .keyGenerate slot w), (KeyOp.erase, .keyErase slot w)] ∧ s.key.run ≠ none) ∧
    (∃ (s : State) (slot : Fin 64) (w : Writer) (op : KeyOp) (i : Instr), s.live = true ∧ canonicalRegs s.regs = true
      ∧ (op, i) ∈ [(KeyOp.write, Instr.keyWrite slot w), (KeyOp.derive_, .keyDerive slot w), (KeyOp.generate,
      .keyGenerate slot w), (KeyOp.erase, .keyErase slot w)] ∧ s.key.run ≠ none) ∧
    (∃ (s : State) (slot : Fin 64) (w : Writer) (op : KeyOp) (i : Instr), s.live = true ∧ canonicalRegs s.regs = true
      ∧ (op, i) ∈ [(KeyOp.write, Instr.keyWrite slot w), (KeyOp.derive_, .keyDerive slot w), (KeyOp.generate,
      .keyGenerate slot w), (KeyOp.erase, .keyErase slot w)] ∧ s.key.run ≠ none) ∧
    (∃ (s : State) (r : KeyRun), s.live = true ∧ s.key.run = some r ∧ r.op ≠ .erase ∧ r.tagged = false ∧ r.slot <
      s.key.slots.length) ∧
    (∃ (s : State) (r : KeyRun), s.live = true ∧ s.key.run = some r ∧ r.op = .erase ∧ r.slot < s.key.slots.length) ∧
    (∃ (s : State) (slot : Fin 64), s.live = true ∧ slot.val < s.key.slots.length ∧ (s.slot slot).state = .withered ∧
      (s.slot slot).expiry ≤ s.cn) ∧
    (∃ (s : State) (w : Writer), s.live = true ∧ canonicalRegs s.regs = true ∧ w.via ≠ .module ∧ w.role ≠ .nobody ∧
      (s.slot 5).state = .live) ∧
    (∃ (s : State) (w : Writer), s.live = true ∧ canonicalRegs s.regs = true ∧ s.key.run = none ∧ s.sys.powerFail =
      false ∧ w.role = .installer ∧ w.via = .monitor ∧ s.key.rotation = none ∧ s.upd.activation = none ∧
      (s.node.nodes.filter fun n => decide (n.state = .scheduled)) = [] ∧ s.cn + 512 ≤ s.reg 0x40080068 + 4294967296
      * field 7 0 (s.reg 0x4008006C)) := by
  refine ⟨?_, ?_, ?_, ?_, ?_, ?_, ?_, ?_, ?_, ?_, ?_, ?_, ?_⟩
  · exact ⟨State.reset, 2, inst, .write, Instr.keyWrite 2 inst, by decide +kernel⟩
  · exact ⟨sKey { attr := 0x6901, slots := lset 41 { state := .live, usage := 1 } State.reset.key.slots }, 40, inst,
    .derive_, Instr.keyDerive 40 inst, by decide +kernel⟩
  · exact ⟨sKey { attr := 1 }, 63, inst, .generate, Instr.keyGenerate 63 inst, by decide +kernel⟩
  · exact ⟨State.reset, 2, inst, .erase, Instr.keyErase 2 inst, by decide +kernel⟩
  · exact ⟨sKey { run := some run0 }, 0, inst, .write, Instr.keyWrite 0 inst, by decide +kernel⟩
  · exact ⟨sKey { run := some run0 }, 0, inst, .derive_, Instr.keyDerive 0 inst, by decide +kernel⟩
  · exact ⟨sKey { run := some run0 }, 0, inst, .generate, Instr.keyGenerate 0 inst, by decide +kernel⟩
  · exact ⟨sKey { run := some run0 }, 0, inst, .erase, Instr.keyErase 0 inst, by decide +kernel⟩
  · exact ⟨sKey { run := some run0 }, run0, by decide +kernel⟩
  · exact ⟨sKey { run := some { run0 with op := .erase } }, { run0 with op := .erase }, by decide +kernel⟩
  · exact ⟨{ sKey { slots := lset 9 { state := .withered, expiry := 7 } State.reset.key.slots } with cn := 7 }, 9,
    by decide +kernel⟩
  · exact ⟨sKey { slots := lset 5 { state := .live } State.reset.key.slots }, inst, by decide +kernel⟩
  · exact ⟨{ State.reset with regs := [(0x40080068, 512)] }, inst, by decide +kernel⟩

theorem wit_TamperAndMaintenance :
    (∃ (s : State), s.live = true ∧ s.key.state = .normal ∧ s.key.run = none ∧ s.upd.activation = none ∧
      s.key.slots.length = 64) ∧
    (∃ (s : State) (n : Fin 4) (tick : Nat), s.live = true ∧ s.key.state = .normal ∧ s.key.run = none ∧
      s.upd.activation = none ∧ s.key.slots.length = 64 ∧ (s.advanceTo tick).tmpQualifies n = true) ∧
    (∃ (s : State), s.live = true) ∧
    (∃ (s : State) (n : Fin 4) (high : Bool) (tick : Nat) (sub : Fin 10), s.live = true ∧ n.val <
      s.fld.tmpHigh.length ∧ n.val < s.key.activeSince.length ∧ lget false n.val s.fld.tmpHigh ≠ high) ∧
    (∃ (s : State) (value : Word) (w : Writer), s.live = true ∧ canonicalRegs s.regs = true ∧ w.role = .installer ∧
      w.via = .monitor ∧ s.key.state ≠ .tampered ∧ 1 ≤ field 8 0 value.toNat ∧ field 8 0 value.toNat ≤ 480) ∧
    (∃ (s : State) (value : Word) (w : Writer), s.live = true ∧ canonicalRegs s.regs = true ∧ w.role = .installer ∧
      w.via = .monitor ∧ s.key.state ≠ .tampered ∧ 1 ≤ field 8 0 value.toNat ∧ field 8 0 value.toNat ≤ 480) ∧
    (∃ (s : State) (e : Cn), s.live = true ∧ s.key.state = .maint ∧ s.key.maintEnd = some e ∧ e ≤ s.cn ∧
      s.tmpActiveMask = 0) ∧
    (∃ (s : State) (value : Word) (w : Writer), s.live = true ∧ canonicalRegs s.regs = true ∧ bit 0 value.toNat =
      true ∧ w.role = .installer ∧ w.via = .monitor ∧ s.key.state = .tampered ∧ s.tmpActiveMask = 0 ∧ s.key.meshOk =
      true ∧ s.key.slots.length = 64) := by
  refine ⟨?_, ?_, ?_, ?_, ?_, ?_, ?_, ?_⟩
  · exact ⟨State.reset, by decide +kernel⟩
  · exact
    ⟨{ sKey { activeSince := [some 0, none, none, none] } with regs := [(0x400800B0, 0x101)], fld := { State.reset.fld with tmpHigh := [true, false, false, false] } },
    0, 100000, by decide +kernel⟩
  · exact ⟨State.reset, by decide +kernel⟩
  · exact ⟨{ State.reset with regs := [(0x400800B0, 1)] }, 0, true, 0, 0, by decide +kernel⟩
  · exact ⟨State.reset, 1, inst, by decide +kernel⟩
  · exact ⟨State.reset, 480, inst, by decide +kernel⟩
  · exact ⟨{ sKey { state := .maint, maintEnd := some 4 } with cn := 4 }, 4, by decide +kernel⟩
  · exact ⟨sKey { state := .tampered, meshOk := true }, 1, inst, by decide +kernel⟩

theorem wit_MetrologyRegistersAndReadOut :
    (∃ (s : State) (value : Word) (w : Writer), s.live = true ∧ canonicalRegs s.regs = true ∧ w.role = .installer ∧
      s.mtr.sealOpen = true) ∧
    (∃ (s : State) (value : Word) (w : Writer), s.live = true ∧ canonicalRegs s.regs = true ∧ w.role = .installer ∧
      s.mtr.sealOpen = true ∧ 1 ≤ field 15 0 value.toNat) ∧
    (∃ (s : State) (value : Word) (w : Writer), s.live = true ∧ canonicalRegs s.regs = true ∧ w.role = .installer ∧
      s.mtr.sealOpen = true ∧ 1 ≤ field 15 0 value.toNat) ∧
    (∃ (s : State) (value : Word) (w : Writer), s.live = true ∧ canonicalRegs s.regs = true ∧ w.role = .installer ∧
      s.mtr.sealOpen = true ∧ 1 ≤ field 31 16 value.toNat) ∧
    (∃ (s : State) (value : Word) (w : Writer), s.live = true ∧ canonicalRegs s.regs = true ∧ w.role = .installer ∧
      s.mtr.sealOpen = true ∧ 1 ≤ field 31 16 value.toNat) ∧
    (∃ (s : State) (value : Word) (w : Writer), s.live = true ∧ canonicalRegs s.regs = true ∧ s.mtr.sealOpen = false) ∧
    (∃ (s : State) (value : Word) (w : Writer), s.live = true ∧ canonicalRegs s.regs = true ∧ s.mtr.sealOpen = false) ∧
    (∃ (s : State) (value : Word) (w : Writer), s.live = true ∧ canonicalRegs s.regs = true ∧ s.mtr.sealOpen = false) ∧
    (∃ (s : State) (value : Word) (w : Writer) (x : Nat), s.live = true ∧ canonicalRegs s.regs = true ∧ bit 16
      value.toNat = true ∧ 1 ≤ field 5 4 value.toNat ∧ x = merge 0x10733 (s.reg 0x40050040) value.toNat) ∧
    (∃ (s : State) (i : Fin 4) (c : Session) (role : Byte) (tx : Word) (body : List Byte), s.live = true ∧ s.session
      i = some c ∧ c.path ≠ 3 ∧ c.mayAsk role.toNat .operator = true ∧ meterReadOk body = true ∧ oct 0 body = 0) ∧
    (∃ (s : State) (f : Fin 4) (ended : BitVec 40) (b : Balance), s.live = true ∧ f.val < s.mtr.live.bal.length ∧
      ((s.bal f.val).open_.find? fun b => decide (b.cn = ended.toNat)) = some b ∧ s.balanceDue f.val b ≤ s.cn) := by
  refine ⟨?_, ?_, ?_, ?_, ?_, ?_, ?_, ?_, ?_, ?_, ?_⟩
  · exact ⟨sMtr { sealOpen := true }, 0, inst, by decide +kernel⟩
  · exact ⟨sMtr { sealOpen := true }, 1, inst, by decide +kernel⟩
  · exact ⟨sMtr { sealOpen := true }, 0xFFFF, inst, by decide +kernel⟩
  · exact ⟨sMtr { sealOpen := true }, 0x10000, inst, by decide +kernel⟩
  · exact ⟨sMtr { sealOpen := true }, 0xFFFF0000, inst, by decide +kernel⟩
  · exact ⟨State.reset, 0, inst, by decide +kernel⟩
  · exact ⟨State.reset, 0, inst, by decide +kernel⟩
  · exact ⟨State.reset, 0, inst, by decide +kernel⟩
  · exact ⟨State.reset, 0x10010, inst, 0x10010, by decide +kernel⟩
  · exact ⟨sOp, 0, op1, 1, 0, [0, 1, 0, 0, 0, 0, 0, 0, 0, 0, 1, 0], by decide +kernel⟩
  · exact
    ⟨{ sMtr { live := { bal := lset 0 { open_ := [{ cn := 3000, length := 3000, imports := [0, 0, 0], incomplete := false, nodes := [] }] } (List.replicate 4 {}) } } with cn := 100000 },
    0, 3000, { cn := 3000, length := 3000, imports := [0, 0, 0], incomplete := false, nodes := [] },
    by decide +kernel⟩

theorem wit_MeterPipelineFollowsItsInputs :
    (∃ (s : State) (c : Fin 16), s.live = true ∧ c.val < s.mtr.chs.length ∧ (s.mtrCh c.val).stage = .good) ∧
    (∃ (s : State) (isOpen : Bool), s.live = true ∧ s.mtr.sealOpen ≠ isOpen) ∧
    (∃ (s : State) (isOpen : Bool), s.live = true ∧ s.mtr.sealOpen = isOpen) ∧
    (∃ (s : State) (p : Int) (q : Int) (dc : Int) (rms : Word), s.live = true ∧ s.mtr.cal.busy = true ∧
      s.mtr.cal.start + s.mtr.cal.window ≤ s.cn) ∧
    (∃ (s : State) (phase : Fin 2), s.live = true) ∧
    (∃ (s : State) (phase : Fin 2), s.live = true) ∧
    (∃ (s : State), s.live = true ∧ s.mtr.running = true ∧ s.cn % 50 = 0) ∧
    (∃ (s : State), s.live = true ∧ s.cn % 50 ≠ 0) := by
  refine ⟨?_, ?_, ?_, ?_, ?_, ?_, ?_, ?_⟩
  · exact ⟨State.reset, 0, by decide +kernel⟩
  · exact ⟨State.reset, true, by decide +kernel⟩
  · exact ⟨State.reset, false, by decide +kernel⟩
  · exact ⟨{ sMtr { cal := { busy := true } } with cn := 500 }, 0, 0, 0, 0, by decide +kernel⟩
  · exact ⟨State.reset, 0, by decide +kernel⟩
  · exact ⟨State.reset, 0, by decide +kernel⟩
  · exact ⟨sMtr { running := true }, by decide +kernel⟩
  · exact ⟨{ State.reset with cn := 49 }, by decide +kernel⟩

theorem wit_PinsAndSupplyInputs :
    (∃ (s : State) (k : Fin 4), s.live = true ∧ k.val < s.dim.contactors.length ∧ (s.kc k.val).drive = true) ∧
    (∃ (s : State) (k : Fin 4), s.live = true ∧ k.val < s.dim.contactors.length ∧ (s.kc k.val).drive = false) ∧
    (∃ (s : State) (k : Fin 4) (isOpen : Bool), s.live = true ∧ k.val < s.dim.contactors.length ∧ (s.kc k.val).drive
      = false) ∧
    (∃ (s : State) (ma : Fin 65536) (ok : Bool), s.live = true ∧ 600 < ma.val) ∧
    (∃ (s : State) (port : Fin 2), s.live = true ∧ bit (1 + port.val) (oct 0 (s.tileBlock .fieldIo 0)) = true ∧
      s.sliced (s.can.slotOf .fieldIo 0) = false) ∧
    (∃ (s : State) (x : SupplyState) (voltA : Fin 65536) (voltB : Fin 65536), s.live = true ∧ s.sys.onB = false ∧
      s.sys.bValid = true ∧ x ≠ .valid) ∧
    (∃ (s : State) (x : SupplyState) (voltA : Fin 65536) (voltB : Fin 65536), s.live = true ∧ s.sys.onB = false ∧
      s.sys.bValid = true ∧ x ≠ .valid) ∧
    (∃ (s : State) (x : SupplyState) (voltA : Fin 65536) (voltB : Fin 65536), s.live = true ∧ s.sys.onB = false ∧
      s.sys.bValid = true) ∧
    (∃ (s : State), s.live = true ∧ bit 0 (s.reg 0x40000114) = false ∧ s.sys.aValid = true ∧ s.sys.onB = true) := by
  refine ⟨?_, ?_, ?_, ?_, ?_, ?_, ?_, ?_, ?_⟩
  · exact ⟨sKc { drive := true }, 0, by decide +kernel⟩
  · exact ⟨State.reset, 0, by decide +kernel⟩
  · exact ⟨State.reset, 0, true, by decide +kernel⟩
  · exact ⟨State.reset, 601, true, by decide +kernel⟩
  · exact ⟨sField, 0, by decide +kernel⟩
  · exact ⟨sSys { bValid := true }, .invalid, 0, 0, by decide +kernel⟩
  · exact ⟨sSys { bValid := true }, .overvoltage, 0, 0, by decide +kernel⟩
  · exact ⟨sSys { bValid := true }, .valid, 0, 0, by decide +kernel⟩
  · exact ⟨sSys { aValid := true, onB := true }, by decide +kernel⟩

theorem wit_PowerFailsDipsAndStops :
    (∃ (s : State) (tick : Nat) (sums : List PhaseSum), s.live = true ∧ s.supplied = false ∧ s.sys.powerFail = false
      ∧ s.sys.storeReady = true) ∧
    (∃ (s : State), s.live = true ∧ s.supplied = true ∧ s.sys.powerFail = true ∧ s.sys.thermal = false) ∧
    (∃ (s : State), s.live = true ∧ s.supplied = false ∧ s.sys.powerFail = true) ∧
    (∃ (s : State), s.live = false ∧ s.supplied = false) := by
  refine ⟨?_, ?_, ?_, ?_⟩
  · exact ⟨sSys { storeReady := true }, 0, [], by decide +kernel⟩
  · exact ⟨sSys { powerFail := true, aValid := true }, by decide +kernel⟩
  · exact ⟨sSys { powerFail := true }, by decide +kernel⟩
  · exact ⟨sSys { phase := .off }, by decide +kernel⟩

theorem wit_SupplyMonitorsAndHeat :
    (∃ (s : State) (stand : Stand) (hold : Word), s.live = true ∧ s.ford.safeHold = true) ∧
    (∃ (s : State) (mj : Fin 65536) (pct : Fin 256), s.sys.phase ≠ .off) ∧
    (∃ (s : State) (w : Writer), s.live = true ∧ canonicalRegs s.regs = true ∧ w.role = .installer) ∧
    (∃ (s : State) (temp : Int), s.live = true) ∧
    (∃ (s : State) (temp : Int) (tick : Nat) (sums : List PhaseSum), s.live = true ∧ 1400 ≤ temp) ∧
    (∃ (s : State) (temp : Int), s.sys.phase = .thermal ∧ temp < 1300 ∧ s.supplied = true ∧ s.upd.activation = none) := by
  refine ⟨?_, ?_, ?_, ?_, ?_, ?_⟩
  · exact ⟨{ State.reset with ford := { State.reset.ford with safeHold := true } }, .a, 0, by decide +kernel⟩
  · exact ⟨State.reset, 500, 0, by decide +kernel⟩
  · exact ⟨State.reset, inst, by decide +kernel⟩
  · exact ⟨State.reset, 0, by decide +kernel⟩
  · exact ⟨State.reset, 1400, 0, [], by decide +kernel⟩
  · exact ⟨sSys { phase := .thermal, aValid := true }, 1299, by decide +kernel⟩

theorem wit_DormancyIsEnteredAndLeft :
    (∃ (s : State) (value : Word) (w : Writer), s.live = true ∧ canonicalRegs s.regs = true ∧ w.role = .installer ∧
      s.mayDorm = true ∧ field 31 16 value.toNat ≠ 0) ∧
    (∃ (s : State) (c : Cn), s.live = true ∧ s.sys.autoSince = some c ∧ bit 1 (s.reg 0x40000120) = true ∧ c + field
      31 16 (s.reg 0x40000120) * 100 ≤ s.cn ∧ s.sys.dorm = none) ∧
    (∃ (s : State), s.live = true ∧ s.sys.dormDue = true ∧ s.mayDorm = true ∧ s.sys.dorm = none) ∧
    (∃ (s : State) (d : DormEntry), s.live = true ∧ s.sys.dorm = some d ∧ d.sessionsClosed = true ∧ s.evt.drained =
      true) ∧
    (∃ (s : State) (source : Fin 6) (seconds : Nat) (good : Bool), s.sys.phase = .dormant ∧ s.supplied = true ∧
      s.mayWake source seconds = true ∧ s.upd.activation = none) := by
  refine ⟨?_, ?_, ?_, ?_, ?_⟩
  · exact ⟨State.reset, 0x10001, inst, by decide +kernel⟩
  · exact ⟨{ sSys { autoSince := some 0 } with regs := [(0x40000120, 0x10002)], cn := 100 }, 0, by decide +kernel⟩
  · exact ⟨sSys { dormDue := true }, by decide +kernel⟩
  · exact ⟨sSys { dorm := some { cn := 0, sessionsClosed := true } }, { cn := 0, sessionsClosed := true },
    by decide +kernel⟩
  · exact ⟨sSys { phase := .dormant, aValid := true }, 1, 0, true, by decide +kernel⟩

theorem wit_StartUpAndReset :
    (∃ (s : State) (b : Bool) (good : Bool) (voltA : Fin 65536) (voltB : Fin 65536) (base : Int), s.sys.phase = .off
      ∧ s.upd.activation = none ∧ base ≤ 1300) ∧
    (∃ (s : State) (b : Bool) (good : Bool) (voltA : Fin 65536) (voltB : Fin 65536) (base : Int), s.sys.phase = .off
      ∧ s.upd.activation = none ∧ base ≤ 1300) ∧
    (∃ (s : State) (drover : BitVec 256) (firmware : BitVec 256) (backup : Bool), s.sys.phase = .starting ∧
      s.sys.bootPhase < 2) ∧
    (∃ (s : State) (octets : List Byte) (im : Image), s.sys.phase = .starting ∧ s.sys.bootPhase = 2 ∧ s.can.image =
      some im) ∧
    (∃ (s : State) (tick : Nat), s.build = .t ∧ s.sys.phase = .starting ∧ s.ford.active = .a ∧ s.ford.b.state =
      .learning ∧ 200000000 ≤ s.time.ref + (tick - s.time.tsc)) ∧
    (∃ (s : State) (value : Word) (w : Writer), s.live = true ∧ canonicalRegs s.regs = true ∧ bit 0 value.toNat =
      true ∧ w.role = .installer ∧ s.upd.activation = none ∧ s.ford.safeHold = false) := by
  refine ⟨?_, ?_, ?_, ?_, ?_, ?_⟩
  · exact ⟨sSys { phase := .off, retentionFed := false }, true, true, 0, 0, 1300, by decide +kernel⟩
  · exact ⟨sSys { phase := .off }, true, true, 0, 0, 0, by decide +kernel⟩
  · exact ⟨sSys { bootPhase := 1 }, 0, 0, true, by decide +kernel⟩
  · exact ⟨{ sSys { bootPhase := 2 } with can := { State.reset.can with image := some (imgTile 0 []) } }, [], imgTile
    0 [], by decide +kernel⟩
  · exact ⟨State.reset, 200000000, by decide +kernel⟩
  · exact ⟨State.reset, 1, inst, by decide +kernel⟩

theorem wit_LedgerAndRadioRegisters :
    (∃ (s : State), s.live = true) ∧
    (∃ (s : State) (value : Word) (w : Writer), s.live = true ∧ canonicalRegs s.regs = true ∧ bit 1 value.toNat =
      true) ∧
    (∃ (s : State) (k : Fin 9) (value : Word) (w : Writer), s.live = true ∧ canonicalRegs s.regs = true ∧ field 11 8
      value.toNat ≤ 6 ∧ field 20 18 value.toNat ≤ 6 ∧ 100 ≤ psduCap (ctrlMode value.toNat) s.time.nominal ∧ k.val <
      s.rad.trxs.length) ∧
    (∃ (s : State) (value : Word) (w : Writer), s.live = true ∧ canonicalRegs s.regs = true ∧ bit 31 value.toNat =
      true ∧ field 15 0 value.toNat ≤ 10000) ∧
    (∃ (s : State) (place : Fin 4096) (e : Entry) (m : Cn), s.live = true ∧ tget place.val s.rad.ledger = some e ∧
      e.state = .muted ∧ e.muteEnd = some m ∧ m ≤ s.cn) ∧
    (∃ (s : State), s.live = true ∧ canonicalRegs s.regs = true) ∧
    (∃ (s : State), s.live = true ∧ canonicalRegs s.regs = true) ∧
    (∃ (s : State), s.live = true ∧ canonicalRegs s.regs = true) := by
  refine ⟨?_, ?_, ?_, ?_, ?_, ?_, ?_, ?_⟩
  · exact ⟨State.reset, by decide +kernel⟩
  · exact ⟨State.reset, 2, inst, by decide +kernel⟩
  · exact ⟨State.reset, 8, 0x400, inst, by decide +kernel⟩
  · exact ⟨State.reset, 0x80002710, inst, by decide +kernel⟩
  · exact
    ⟨{ State.reset with rad := { State.reset.rad with ledger := [(0, { state := .muted, muteEnd := some 0 })] } }, 0,
    { state := .muted, muteEnd := some 0 }, 0, by decide +kernel⟩
  · exact ⟨State.reset, by decide +kernel⟩
  · exact ⟨State.reset, by decide +kernel⟩
  · exact ⟨State.reset, by decide +kernel⟩

theorem wit_TransceiversAndFrameFilters :
    (∃ (s : State) (value : Word) (w : Writer), s.live = true ∧ canonicalRegs s.regs = true ∧ bit 8 value.toNat =
      true ∧ field 3 0 value.toNat < 8 ∧ s.trx8Free = true) ∧
    (∃ (s : State) (k : Fin 9), s.live = true ∧ k.val < s.rad.trxs.length ∧ (s.trx k.val).failed = false) ∧
    (∃ (s : State) (k : Fin 9), s.live = true ∧ k.val < s.rad.trxs.length ∧ (s.trx k.val).failed = true) ∧
    (∃ (s : State) (g : Fin 8) (f : RxFrame) (k : Nat), s.live = true ∧ s.sliced (s.can.slotOf .linkCrypto g.val) =
      false ∧ s.trxOf g.val = some k ∧ s.tampered = false ∧ s.trxRuns k = true ∧ k < s.rad.trxs.length ∧ f.fcs =
      false) ∧
    (∃ (s : State) (g : Fin 8) (f : RxFrame) (k : Nat), s.live = true ∧ s.sliced (s.can.slotOf .linkCrypto g.val) =
      false ∧ s.trxOf g.val = some k ∧ s.tampered = false ∧ s.trxRuns k = true ∧ k < s.rad.trxs.length ∧ f.fcs = true
      ∧ f.kind = .data ∧ f.wellFormed = true ∧ s.filter g.val f = .counted) ∧
    (∃ (s : State) (g : Fin 8) (f : RxFrame) (k : Nat) (e : Entry) (e' : Entry), s.live = true ∧ s.sliced
      (s.can.slotOf .linkCrypto g.val) = false ∧ s.trxOf g.val = some k ∧ s.tampered = false ∧ s.trxRuns k = true ∧ k
      < s.rad.trxs.length ∧ f.fcs = true ∧ f.kind = .data ∧ f.wellFormed = true ∧ s.filter g.val f = .pass e ∧ f.psdu
      ≤ s.trxCap k ∧ f.mic = true ∧ judgeFrame s.key.generation e f.keyIndex f.counter = .accept e' ∧ s.rxFull g.val
      = false) := by
  refine ⟨?_, ?_, ?_, ?_, ?_, ?_⟩
  · exact ⟨State.reset, 0x107, inst, by decide +kernel⟩
  · exact ⟨State.reset, 8, by decide +kernel⟩
  · exact
    ⟨{ State.reset with rad := { State.reset.rad with trxs := lset 8 { failed := true } State.reset.rad.trxs } }, 8,
    by decide +kernel⟩
  · exact ⟨sGrove, 0, { frame0 with fcs := false }, 0, by decide +kernel⟩
  · exact ⟨sGrove, 0, frame0, 0, by decide +kernel⟩
  · exact
    ⟨{ State.reset with regs := [(0x40070000, 1), (0x40070008, 0), (0x40070100, 0x401)], rad := { State.reset.rad with ledger := [(0, { eui := 0x10000, short := 0x1000, state := .active })] } },
    0, frame0, 0, { eui := 0x10000, short := 0x1000, state := .active },
    { eui := 0x10000, short := 0x1000, state := .active, fresh := false, w := 1 }, by decide +kernel⟩

theorem wit_JoinsAndNodeTimers :
    (∃ (s : State) (g : Fin 8) (seq : BitVec 16) (body : List Byte) (a : List Byte) (k : Nat) (key : Nat), s.live =
      true ∧ s.admitsJoins g.val = true ∧ body.length = 32 ∧ s.admission (ofLe (slice 0 8 body)) = some a ∧ s.trxOf
      g.val = some k) ∧
    (∃ (s : State) (g : Fin 8) (seq : BitVec 16) (body : List Byte) (a : List Byte) (k : Nat) (key : Nat), s.live =
      true ∧ s.admitsJoins g.val = true ∧ body.length = 32 ∧ s.admission (ofLe (slice 0 8 body)) = some a ∧ s.trxOf
      g.val = some k ∧ s.nodeOf (ofLe (slice 0 8 body)) = none ∧ bit 0 (oct 26 a) = false ∧ s.joinsNow k < 24 ∧
      s.ownEntry g.val (ofLe (slice 0 8 body)) = some key) ∧
    (∃ (s : State) (short : BitVec 16) (n : NodeRec), s.live = true ∧ s.nodeAt short.toNat = some n ∧ n.state =
      .joining ∧ n.grantCn + s.can.site.grantWait ≤ s.cn) ∧
    (∃ (s : State) (short : BitVec 16) (n : NodeRec), s.live = true ∧ s.nodeAt short.toNat = some n ∧ n.state =
      .scheduled ∧ s.cn % max 1 n.period = n.phase % max 1 n.period ∧ n.heard = true) ∧
    (∃ (s : State) (short : BitVec 16) (n : NodeRec), s.live = true ∧ s.nodeAt short.toNat = some n ∧ n.state =
      .scheduled ∧ s.cn % max 1 n.period = n.phase % max 1 n.period ∧ n.heard = false ∧ s.missesExempt n = false ∧ 2
      ≤ n.missed) ∧
    (∃ (s : State) (place : Fin 4096) (e : Entry) (r : Cn), s.live = true ∧ tget place.val s.rad.ledger = some e ∧
      e.reserved = some r ∧ e.state = .free ∧ r ≤ s.cn) := by
  refine ⟨?_, ?_, ?_, ?_, ?_, ?_⟩
  · exact ⟨{ sTab 1 [adm0] with regs := [(0x40020000, 0x107), (0x40070000, 1), (0x40070100, 1)] }, 0, 0, padTo 32 [0,
    0, 1], adm0, 0, 0, by decide +kernel⟩
  · exact
    ⟨{ sTab 1 [adm0] with regs := [(0x40020000, 0x107), (0x40070000, 1), (0x40070100, 1)], rad := { State.reset.rad with ledger := [(0, { eui := 0x10000, short := 0x1000, state := .active })] } },
    0, 0, padTo 32 [0, 0, 1], adm0, 0, 0, by decide +kernel⟩
  · exact ⟨{ sNode { node0 with state := .joining } with cn := 1024 }, 0x1000, { node0 with state := .joining },
    by decide +kernel⟩
  · exact ⟨sNode { node0 with heard := true }, 0x1000, { node0 with heard := true }, by decide +kernel⟩
  · exact ⟨sNode { node0 with missed := 2 }, 0x1000, { node0 with missed := 2 }, by decide +kernel⟩
  · exact ⟨{ State.reset with rad := { State.reset.rad with ledger := [(4095, { reserved := some 0 })] } }, 4095,
    { reserved := some 0 }, 0, by decide +kernel⟩

theorem wit_NodeMessagesUpdateTheNode :
    (∃ (s : State) (m : LinkMsg) (n : NodeRec), s.live = true ∧ s.tampered = false ∧ s.nodeAt m.short = some n ∧
      n.speaks = true ∧ m.body.length = 32 ∧ n.state = .joining) ∧
    (∃ (s : State) (m : LinkMsg) (n : NodeRec), s.live = true ∧ s.tampered = false ∧ s.nodeAt m.short = some n ∧
      n.speaks = true ∧ m.body.length = 11 ∧ oct 1 m.body = 1) ∧
    (∃ (s : State) (m : LinkMsg) (n : NodeRec), s.live = true ∧ s.tampered = false ∧ s.nodeAt m.short = some n ∧
      n.speaks = true ∧ m.body.length = 11 ∧ oct 1 m.body = 0) ∧
    (∃ (s : State) (m : LinkMsg) (n : NodeRec), s.live = true ∧ s.tampered = false ∧ s.nodeAt m.short = some n ∧
      n.speaks = true ∧ m.body.length ≤ 42 ∧ reportOk m.body = true ∧ oct 0 m.body = 3) ∧
    (∃ (s : State) (m : LinkMsg) (n : NodeRec), s.live = true ∧ s.tampered = false ∧ s.nodeAt m.short = some n ∧
      n.speaks = true ∧ m.body.length ≤ 42 ∧ reportOk m.body = true ∧ oct 0 m.body = 3) ∧
    (∃ (s : State) (m : LinkMsg) (n : NodeRec), s.live = true ∧ s.tampered = false ∧ s.nodeAt m.short = some n ∧
      n.speaks = true ∧ m.body = [0, 0] ∧ n.state = .scheduled ∧ n.ids = []) := by
  refine ⟨?_, ?_, ?_, ?_, ?_, ?_⟩
  · exact ⟨sNode { node0 with state := .joining }, msg0 (List.replicate 32 0), { node0 with state := .joining },
    by decide +kernel⟩
  · exact ⟨sNode node0, msg0 (padTo 11 [3, 1]), node0, by decide +kernel⟩
  · exact ⟨sNode { node0 with faults := [3] }, msg0 (padTo 11 [3, 0]), { node0 with faults := [3] },
    by decide +kernel⟩
  · exact ⟨sNode node0, msg0 [3, 0, 0, 0, 0, 0, 1, 9, 0x10, 0, 0, 7], node0, by decide +kernel⟩
  · exact ⟨sNode node0, msg0 (padTo 42 [3, 0, 0, 0, 0, 0, 7]), node0, by decide +kernel⟩
  · exact ⟨sNode node0, msg0 [0, 0], node0, by decide +kernel⟩

theorem wit_NodeAnswersReachTheirRequests :
    (∃ (s : State) (m : LinkMsg) (n : NodeRec) (p : Promise) (x : Target) (u : Target), s.live = true ∧ s.tampered =
      false ∧ s.nodeAt m.short = some n ∧ n.speaks = true ∧ n.state = .scheduled ∧ s.adm.promises = [p] ∧ p.id = ofLe
      (slice 0 4 m.body) ∧ p.cls ≠ .safety ∧ m.body.length = 10 ∧ oct 9 m.body = 0 ∧ bit 1 (oct 8 m.body) = true ∧
      (p.targets.find? fun y => decide (y.short = n.short)) = some x ∧ x.result = none ∧ x.queries = 0 ∧ x.silent =
      false ∧ x.radioLoss = false ∧ u ∈ p.targets ∧ u.short ≠ n.short ∧ u.result = none) ∧
    (∃ (s : State) (m : LinkMsg) (n : NodeRec), s.live = true ∧ s.tampered = false ∧ s.nodeAt m.short = some n ∧
      n.speaks = true ∧ n.state = .scheduled ∧ m.body.length = 6 ∧ oct 0 m.body = 0x0A) ∧
    (∃ (s : State) (m : LinkMsg) (n : NodeRec) (i : Nat) (c : Caravan) (x : CarNode), s.live = true ∧ s.tampered =
      false ∧ s.nodeAt m.short = some n ∧ n.speaks = true ∧ n.state = .scheduled ∧ m.body.length = 40 ∧
      s.upd.caravans = [(i, c)] ∧ c.id = ofLe (slice 0 4 m.body) ∧ c.state ≠ .ended ∧ c.nodes = [x] ∧ x.eui = n.eui) := by
  refine ⟨?_, ?_, ?_⟩
  · exact ⟨{ sNode node0 with adm := { promises := [prom0 [{ short := 0x1000 }, { short := 0x1001 }]] } }, msg0 [1,
    0, 0, 0, 0, 0, 0, 0, 2, 0], node0, prom0 [{ short := 0x1000 }, { short := 0x1001 }], { short := 0x1000 },
    { short := 0x1001 }, by decide +kernel⟩
  · exact ⟨sNode node0, msg0 [0x0A, 0, 0, 5, 0, 0], node0, by decide +kernel⟩
  · exact ⟨{ sNode node0 with upd := { State.reset.upd with caravans := [(0, car0 [{ eui := 0x10000 }])] } }, msg0
    (padTo 40 [1, 0, 0, 0, 0, 0, 1, 0, 1]), node0, 0, car0 [{ eui := 0x10000 }], { eui := 0x10000 },
    by decide +kernel⟩

theorem wit_AdmitsAndPromises :
    (∃ (s : State) (i : Fin 4) (c : Session) (role : Byte) (deadline : BitVec 40) (tx : Word) (body : List Byte),
      s.live = true ∧ s.session i = some c ∧ c.path ≠ 3 ∧ c.mayAsk role.toNat .operator = true ∧ (s.fsp.kept.find?
      fun k => decide (k.tx = tx.toNat)) = none ∧ s.adm.queue.length < 64) ∧
    (∃ (s : State) (i : Fin 4) (c : Session) (role : Byte) (deadline : BitVec 40) (tx : Word) (body : List Byte),
      s.live = true ∧ s.session i = some c ∧ c.path ≠ 3 ∧ c.mayAsk role.toNat .operator = true ∧ (s.fsp.kept.find?
      fun k => decide (k.tx = tx.toNat)) = none ∧ s.adm.queue.length < 64) ∧
    (∃ (s : State) (q : Admit) (rest : List Admit) (i : Fin 4), s.live = true ∧ s.adm.queue = q :: rest ∧ q.session =
      some i) ∧
    (∃ (s : State), s.live = true ∧ s.adm.queue = []) ∧
    (∃ (s : State) (id : Word) (p : Promise), s.live = true ∧ (s.adm.promises.find? fun p => decide (p.id =
      id.toNat)) = some p ∧ p.outcomeBy ≤ s.cn) ∧
    (∃ (s : State) (id : Word) (short : BitVec 16) (p : Promise) (x : Target), s.live = true ∧ s.adm.promises = [p] ∧
      p.id = id.toNat ∧ p.targets = [x] ∧ x.short = short.toNat ∧ x.result = none ∧ x.queries = 1) ∧
    (∃ (s : State) (r : Rejoin), s.live = true ∧ s.adm.rejoin = some r ∧ r.start + 4500 ≤ s.cn) := by
  refine ⟨?_, ?_, ?_, ?_, ?_, ?_, ?_⟩
  · exact ⟨sOp, 0, op1, 1, 0, 0, [], by decide +kernel⟩
  · exact
    ⟨{ sOp with adm := { queue := List.replicate 63 { session := none, tx := 0, deadline := 0, body := [] } } }, 0,
    op1, 1, 0, 0, [], by decide +kernel⟩
  · exact ⟨{ sOp with adm := { queue := [{ session := some 0, tx := 5, deadline := 0, body := [] }] } },
    { session := some 0, tx := 5, deadline := 0, body := [] }, [], 0, by decide +kernel⟩
  · exact ⟨State.reset, by decide +kernel⟩
  · exact ⟨{ State.reset with cn := 1024, adm := { promises := [prom0 [{ short := 0x1000 }]] } }, 1, prom0
    [{ short := 0x1000 }], by decide +kernel⟩
  · exact ⟨{ sNode node0 with adm := { promises := [prom0 [{ short := 0x1000, queries := 1 }]] } }, 1, 0x1000, prom0
    [{ short := 0x1000, queries := 1 }], { short := 0x1000, queries := 1 }, by decide +kernel⟩
  · exact ⟨{ State.reset with cn := 4500, adm := { rejoin := some { set := [], start := 0, cause := 0 } } },
    { set := [], start := 0, cause := 0 }, by decide +kernel⟩

theorem wit_ContactorsSettleRetryAndFault :
    (∃ (s : State) (k : Fin 4) (level : Bool), s.live = true ∧ (s.kc k).state = .opened) ∧
    (∃ (s : State) (k : Fin 4) (level : Bool), s.live = true ∧ (s.kc k).state = .closing ∧ k.val < s.fld.kcFb.length
      ∧ s.kcNoFeedback k = false ∧ (s.kcFeeder k).isSome = true ∧ xor level (bit 0 (ofLe (slice 2 1 (s.kcEntry k))))
      = true) ∧
    (∃ (s : State) (k : Fin 4), s.live = true ∧ s.kcHeld = false ∧ (s.kc k).pulse = false ∧ (s.kc k).since +
      s.kcFeedbackTime k ≤ s.cn ∧ s.kcNoFeedback k = false ∧ (s.kc k).state = .closing) ∧
    (∃ (s : State) (k : Fin 4), s.live = true ∧ s.kcHeld = false ∧ (s.kc k).pulse = false ∧ (s.kc k).since +
      s.kcFeedbackTime k ≤ s.cn ∧ s.kcNoFeedback k = false ∧ (s.kc k).state = .opening) ∧
    (∃ (s : State) (k : Fin 4), s.live = true ∧ s.kcHeld = false ∧ (s.kc k).pulse = false ∧ (s.kc k).since +
      s.kcFeedbackTime k ≤ s.cn ∧ s.kcNoFeedback k = false ∧ (((s.kc k).state = .retryClose ∨ (s.kc k).state =
      .retryOpen))) ∧
    (∃ (s : State) (k : Fin 4), s.live = true ∧ s.kcHeld = false ∧ (s.kc k).pulse = false ∧ (s.kc k).since +
      s.kcFeedbackTime k ≤ s.cn ∧ s.kcNoFeedback k = false ∧ (((s.kc k).state = .retryClose ∨ (s.kc k).state =
      .retryOpen))) ∧
    (∃ (s : State) (k : Fin 4), s.live = true ∧ s.kcHeld = false ∧ (s.kc k).pulse = true ∧ (s.kc k).since + 10 ≤ s.cn
      ∧ (s.kc k).state = .retryClose ∧ s.kcClosed k = false) ∧
    (∃ (s : State) (k : Fin 4), s.live = true ∧ s.kcHeld = false ∧ (s.kc k).pulse = true ∧ s.cn < (s.kc k).since +
      10) := by
  refine ⟨?_, ?_, ?_, ?_, ?_, ?_, ?_, ?_⟩
  · exact ⟨State.reset, 0, true, by decide +kernel⟩
  · exact
    ⟨{ sTab 0x15 (List.replicate 4 (padTo 16 [0, 0, 0, 8])) with dim := (sKc { state := .closing, disagree := 3 }).dim },
    0, true, by decide +kernel⟩
  · exact ⟨{ sKc { state := .closing } with cn := 8 }, 0, by decide +kernel⟩
  · exact ⟨{ sKc { state := .opening } with cn := 8 }, 0, by decide +kernel⟩
  · exact ⟨{ sKc { state := .retryClose } with cn := 8 }, 0, by decide +kernel⟩
  · exact ⟨{ sKc { state := .retryOpen } with cn := 8 }, 0, by decide +kernel⟩
  · exact ⟨{ sKc { state := .retryClose, pulse := true } with cn := 10 }, 0, by decide +kernel⟩
  · exact ⟨{ sKc { state := .retryClose, pulse := true } with cn := 9 }, 0, by decide +kernel⟩

theorem wit_RouteBinsAndWaves :
    (∃ (s : State) (now : Nat × Nat × Nat), s.live = true ∧ s.binAt s.cn = some now ∧ s.dim.bin = some now) ∧
    (∃ (s : State) (now : Nat × Nat × Nat), s.live = true ∧ s.binAt s.cn = some now ∧ s.dim.bin = none) ∧
    (∃ (s : State) (now : Nat × Nat × Nat) (old : Nat × Nat × Nat) (e : List Byte), s.live = true ∧ s.binAt s.cn =
      some now ∧ s.dim.bin = some old ∧ now ≠ old ∧ s.inForce 0x0014 = [e] ∧ routeLearns e = true ∧ 20 ≤ (s.route
      e).waves ∧ tget (48 * old.2.2 + old.2.1) (s.route e).learned = none) ∧
    (∃ (s : State) (now : Nat × Nat × Nat) (old : Nat × Nat × Nat) (e : List Byte), s.live = true ∧ s.binAt s.cn =
      some now ∧ s.dim.bin = some old ∧ now ≠ old ∧ s.inForce 0x0014 = [e] ∧ routeLearns e = true ∧ (s.route e).waves
      < 20) ∧
    (∃ (s : State) (b : Cn × Nat × Nat) (e : List Byte) (new : Tuning), s.live = true ∧ s.nextBin = some b ∧ s.cn ≤
      b.1 ∧ s.inForce 0x0014 = [e] ∧ routeLearns e = true ∧ (s.routeScheduled e).all localGroup = true ∧ s.tuningFor
      e (tget (48 * b.2.2 + b.2.1) (s.route e).learned) = new ∧ new = (s.route e).tuning) ∧
    (∃ (s : State) (b : Cn × Nat × Nat) (e : List Byte) (new : Tuning), s.live = true ∧ s.nextBin = some b ∧ s.cn ≤
      b.1 ∧ s.inForce 0x0014 = [e] ∧ routeLearns e = true ∧ (s.routeScheduled e).all localGroup = true ∧ s.tuningFor
      e (tget (48 * b.2.2 + b.2.1) (s.route e).learned) = new ∧ new.n ≠ (s.route e).tuning.n) ∧
    (∃ (s : State) (g : Fin 8) (w : Wave), s.live = true ∧ w.detected + 8 < s.cn) ∧
    (∃ (s : State) (g : Fin 8) (w : Wave) (e : List Byte) (m : Nat) (l : Nat), s.live = true ∧ s.cn ≤ w.detected + 8
      ∧ s.tampered = false ∧ s.sliced (s.can.slotOf .waveRelay g.val) = false ∧ s.routeEntry w.route = some e ∧
      s.routeGrove e = some g.val ∧ s.routeScheduled e = [m] ∧ localGroup m = true ∧ s.dim.waveSeen = [] ∧
      routeReverse e = true ∧ w.position = 1 ∧ w.hops = 1 ∧ s.groupLums m = [l] ∧ s.lumEngine l = none ∧ l <
      s.drv.lums.length) ∧
    (∃ (s : State) (l : Fin 32) (v : WaveUp), s.live = true ∧ (s.lum l).wave = some v ∧ v.fall = none ∧ v.holdEnd ≤
      s.cn) ∧
    (∃ (s : State) (l : Fin 32) (v : WaveUp), s.live = true ∧ (s.lum l).wave = some v ∧ s.cn < v.holdEnd) := by
  refine ⟨?_, ?_, ?_, ?_, ?_, ?_, ?_, ?_, ?_, ?_⟩
  · exact ⟨{ sTab 0x10 [cal0] with dim := { State.reset.dim with bin := some (0, 0, 0) } }, (0, 0, 0),
    by decide +kernel⟩
  · exact ⟨sTab 0x10 [cal0], (0, 0, 0), by decide +kernel⟩
  · exact
    ⟨{ sTab2 0x10 0x14 [cal0] [route0] with dim := { State.reset.dim with bin := some (5, 0, 0), routes := [{ id := 1, waves := 20, speedSum := 210 }] } },
    (0, 0, 0), (5, 0, 0), route0, by decide +kernel⟩
  · exact
    ⟨{ sTab2 0x10 0x14 [cal0] [route0] with dim := { State.reset.dim with bin := some (5, 0, 0), routes := [{ id := 1, waves := 19, speedSum := 210 }] } },
    (0, 0, 0), (5, 0, 0), route0, by decide +kernel⟩
  · exact ⟨sTab2 0x10 0x14 [cal0] [route0], (90000, 1, 0), route0, { n := 2, hold := 0, level := 0 },
    by decide +kernel⟩
  · exact
    ⟨{ sTab2 0x10 0x14 [cal0] [route0] with dim := { State.reset.dim with routes := [{ id := 1, tuning := { n := 5 } }] } },
    (90000, 1, 0), route0, { n := 2, hold := 0, level := 0 }, by decide +kernel⟩
  · exact ⟨{ State.reset with cn := 9 }, 0,
    { originator := 1, seq := 0, route := 1, list := 0, position := 1, level := 0, hold := 0, detected := 0, hops := 1, speed := 0 },
    by decide +kernel⟩
  · exact
    ⟨{ sTab 0x14 [route0] with cn := 8, node := { nodes := [{ node0 with eui := 1 }] }, regs := [(0x40061000, 0x10001)] },
    0,
    { originator := 1, seq := 0, route := 1, list := 0, position := 1, level := 500, hold := 10, detected := 0, hops := 1, speed := 0 },
    route0, 1, 0, by decide +kernel⟩
  · exact ⟨{ sLum { wave := some { from_ := 0, level := 0, start := 9, ramp := 0, holdEnd := 7 } } with cn := 7 }, 0,
    { from_ := 0, level := 0, start := 9, ramp := 0, holdEnd := 7 }, by decide +kernel⟩
  · exact ⟨{ sLum { wave := some { from_ := 0, level := 0, start := 9, ramp := 0, holdEnd := 7 } } with cn := 6 }, 0,
    { from_ := 0, level := 0, start := 9, ramp := 0, holdEnd := 7 }, by decide +kernel⟩

theorem wit_StringsAreCutOffAndRetried :
    (∃ (s : State) (meas : List ChMeas) (ntc : List (Fin 8 × Nat)) (base : Int), s.live = true ∧ s.sys.dorm = none ∧
      s.drv.frame < s.drv.k) ∧
    (∃ (s : State) (meas : List ChMeas) (ntc : List (Fin 8 × Nat)) (base : Int), s.live = true ∧ s.sys.dorm = none ∧
      s.drv.k ≤ s.drv.frame) ∧
    (∃ (s : State) (c : Fin 32) (r : Cn), s.live = true ∧ (s.ch c).retryCn = some r ∧ r ≤ s.cn ∧ (s.ch c).fault ≠ 0 ∧
      (s.ch c).lasting = false) ∧
    (∃ (s : State) (c : Fin 32) (r : Cn), s.live = true ∧ (s.ch c).retryCn = some r ∧ s.cn < r) ∧
    (∃ (s : State) (c : Fin 32) (again : Bool) (n : Nat), s.live = true ∧ s.chOff c = false ∧ (n = (if again then
      (s.ch c).ocPeriods + 1 else 1)) ∧ n < 8) ∧
    (∃ (s : State) (c : Fin 32) (again : Bool) (n : Nat), s.live = true ∧ s.chOff c = false ∧ (n = (if again then
      (s.ch c).ocPeriods + 1 else 1)) ∧ 8 ≤ n) ∧
    (∃ (s : State) (c : Fin 32) (again : Bool) (n : Nat), s.live = true ∧ s.chOff c = false ∧ (n = (if again then
      (s.ch c).ocPeriods + 1 else 1)) ∧ n < 8) ∧
    (∃ (s : State) (c : Fin 32), s.live = true ∧ s.chOff c = false) ∧
    (∃ (s : State) (die : Fin 10) (h : Nat), s.live = true ∧ s.halfOf die = some h) ∧
    (∃ (s : State) (die : Fin 10), s.live = true) ∧
    (∃ (s : State) (n : Fin 8) (mv : Nat), s.live = true ∧ (50 ≤ mv ∧ mv ≤ 2450)) ∧
    (∃ (s : State) (n : Fin 8) (mv : Nat), s.live = true ∧ (50 ≤ mv ∧ mv ≤ 2450)) ∧
    (∃ (s : State) (n : Fin 8) (mv : Nat), s.live = true ∧ mv < 50) ∧
    (∃ (s : State) (n : Fin 8) (mv : Nat), s.live = true ∧ 2450 < mv) ∧
    (∃ (s : State) (die : Fin 10), s.live = true ∧ s.unitState (unitOf .a 7 die.val) = .felled) ∧
    (∃ (s : State) (die : Fin 10) (h : Nat), s.live = true ∧ s.unitState (unitOf .a 7 die.val) ≠ .felled ∧
      s.cop.slices = [] ∧ s.halfOf die = some h) := by
  refine ⟨?_, ?_, ?_, ?_, ?_, ?_, ?_, ?_, ?_, ?_, ?_, ?_, ?_, ?_, ?_, ?_⟩
  · exact ⟨sDrv { frame := 7 }, [], [], 0, by decide +kernel⟩
  · exact ⟨sDrv { frame := 8 }, [], [], 0, by decide +kernel⟩
  · exact ⟨{ sCh { retryCn := some 5, fault := 1 } with cn := 5 }, 0, 5, by decide +kernel⟩
  · exact ⟨{ sCh { retryCn := some 5, fault := 1 } with cn := 4 }, 0, 5, by decide +kernel⟩
  · exact ⟨{ sCh { ocPeriods := 6 } with regs := [(0x40060000, 1), (0x40060100, 1), (0x40061000, 1)] }, 0, true, 7,
    by decide +kernel⟩
  · exact ⟨{ sCh { ocPeriods := 7 } with regs := [(0x40060000, 1), (0x40060100, 1), (0x40061000, 1)] }, 0, true, 8,
    by decide +kernel⟩
  · exact ⟨{ sCh { ocPeriods := 7 } with regs := [(0x40060000, 1), (0x40060100, 1), (0x40061000, 1)] }, 0, false, 1,
    by decide +kernel⟩
  · exact ⟨{ sCh {} with regs := [(0x40060000, 1), (0x40060100, 1), (0x40061000, 1)] }, 0, by decide +kernel⟩
  · exact ⟨State.reset, 7, 7, by decide +kernel⟩
  · exact ⟨State.reset, 0, by decide +kernel⟩
  · exact ⟨State.reset, 0, 50, by decide +kernel⟩
  · exact ⟨State.reset, 0, 2450, by decide +kernel⟩
  · exact ⟨State.reset, 0, 49, by decide +kernel⟩
  · exact ⟨State.reset, 0, 2451, by decide +kernel⟩
  · exact
    ⟨{ State.reset with cop := { State.reset.cop with units := [{ id := unitOf .a 7 0, mark := some .felled }] } },
    0, by decide +kernel⟩
  · exact ⟨State.reset, 0, 0, by decide +kernel⟩

theorem wit_StringsAreLearnedAndCleared :
    (∃ (s : State) (c : Fin 32) (w : Writer), s.live = true ∧ w.role = .installer ∧ canonicalRegs s.regs = true ∧
      s.learnBarred c = false) ∧
    (∃ (s : State) (c : Fin 32) (w : Writer), s.live = true ∧ w.role = .installer ∧ canonicalRegs s.regs = true ∧
      s.learnBarred c = true) ∧
    (∃ (s : State) (c : Fin 32) (n : Learn), s.live = true ∧ (s.ch c).learn = some n ∧ n.start + 200 ≤ s.cn ∧ n.point
      = 4) ∧
    (∃ (s : State) (c : Fin 32) (n : Learn), s.live = true ∧ (s.ch c).learn = some n ∧ s.cn < n.start + 200) ∧
    (∃ (s : State) (c : Fin 32) (w : Writer), s.live = true ∧ canonicalRegs s.regs = true ∧ w.role = .installer ∧
      (s.ch c).lasting = true) ∧
    (∃ (s : State) (c : Fin 32) (w : Writer), s.live = true ∧ canonicalRegs s.regs = true ∧ w.role = .installer ∧
      (s.ch c).lasting = false) ∧
    (∃ (s : State) (value : Word) (w : Writer), s.live = true ∧ canonicalRegs s.regs = true ∧ bit 1 value.toNat =
      true) := by
  refine ⟨?_, ?_, ?_, ?_, ?_, ?_, ?_⟩
  · exact ⟨sSys { phase := .running, startSafe := false }, 0, inst, by decide +kernel⟩
  · exact ⟨{ State.reset with ford := { State.reset.ford with safeHold := true } }, 0, inst, by decide +kernel⟩
  · exact ⟨{ sCh { learn := some { start := 0, point := 4 } } with cn := 200 }, 0, { start := 0, point := 4 },
    by decide +kernel⟩
  · exact ⟨{ sCh { learn := some { start := 0, point := 4 } } with cn := 199 }, 0, { start := 0, point := 4 },
    by decide +kernel⟩
  · exact ⟨sCh { lasting := true, fault := 2 }, 0, inst, by decide +kernel⟩
  · exact ⟨sCh { lasting := false, fault := 2 }, 0, inst, by decide +kernel⟩
  · exact ⟨State.reset, 2, inst, by decide +kernel⟩

theorem wit_ColourWindowsAndEnginesRun :
    (∃ (s : State) (port : Fin 4) (x : Fin 1048576) (y : Fin 1048576) (z : Fin 1048576) (c : Fin 1048576) (sat : List
      Bool), s.live = true ∧ s.sliced (s.can.slotOf .colour port.val) = false ∧ bit 8 (s.reg (0x40060A00 + 0x20 *
      port.val)) = true ∧ port.val < s.drv.sensors.length ∧ s.cn % s.icyc port = 0 ∧ ((upFrom 0 4).filter fun g =>
      bit 0 (s.twReg g 0) && bit 3 (s.twReg g 0) && decide (field 2 1 (s.twReg g 0) = port.val)) = []) ∧
    (∃ (s : State) (port : Fin 4) (x : Fin 1048576) (y : Fin 1048576) (z : Fin 1048576) (c : Fin 1048576) (sat : List
      Bool) (g : Nat), s.live = true ∧ s.sliced (s.can.slotOf .colour port.val) = false ∧ bit 8 (s.reg (0x40060A00 +
      0x20 * port.val)) = true ∧ port.val < s.drv.sensors.length ∧ s.cn % s.icyc port = 0 ∧ ((upFrom 0 4).filter fun
      g => bit 0 (s.twReg g 0) && bit 3 (s.twReg g 0) && decide (field 2 1 (s.twReg g 0) = port.val)) = [g] ∧ field 1
      0 (s.reg (0x40060A00 + 0x20 * port.val)) = 3 ∧ sat = [true, true, true, true] ∧ g < s.drv.groups.length) ∧
    (∃ (s : State) (port : Fin 4) (x : Fin 1048576) (y : Fin 1048576) (z : Fin 1048576) (c : Fin 1048576) (sat : List
      Bool), s.live = true ∧ s.sliced (s.can.slotOf .colour port.val) = false ∧ bit 8 (s.reg (0x40060A00 + 0x20 *
      port.val)) = true ∧ port.val < s.drv.sensors.length ∧ s.cn % s.icyc port ≠ 0) ∧
    (∃ (s : State) (g : Fin 4) (w : Writer), s.live = true ∧ canonicalRegs s.regs = true ∧ w.role = .installer ∧
      s.twChannels g = []) ∧
    (∃ (s : State) (p : Fin 8) (w : Writer), s.live = true ∧ canonicalRegs s.regs = true ∧ (s.pe p).evac = false ∧
      s.peMode p = 0) ∧
    (∃ (s : State) (p : Fin 8) (w : Writer), s.live = true ∧ canonicalRegs s.regs = true ∧ (s.pe p).evac = false) ∧
    (∃ (s : State) (p : Fin 8) (tick : Nat), s.live = true ∧ s.peMode p = 2 ∧ s.peStartNs p ≤ (s.advanceTo
      tick).cityNs ∧ (s.pe p).timed = false ∧ (s.pe p).evac = false) ∧
    (∃ (s : State) (p : Fin 8) (tick : Nat), s.live = true ∧ s.peMode p = 2 ∧ (s.pe p).timed = true) := by
  refine ⟨?_, ?_, ?_, ?_, ?_, ?_, ?_, ?_⟩
  · exact ⟨{ State.reset with regs := [(0x40060A60, 0x100)] }, 3, 0, 0, 0, 0xFFFFF, [], by decide +kernel⟩
  · exact ⟨{ State.reset with regs := [(0x40060A00, 0x103), (0x40060B60, 9)] }, 0, 0, 0, 0, 0, [true, true, true,
    true], 3, by decide +kernel⟩
  · exact ⟨{ State.reset with regs := [(0x40060A00, 0x100)], cn := 15 }, 0, 0, 0, 0, 0, [], by decide +kernel⟩
  · exact ⟨State.reset, 0, inst, by decide +kernel⟩
  · exact ⟨State.reset, 0, inst, by decide +kernel⟩
  · exact ⟨State.reset, 0, inst, by decide +kernel⟩
  · exact ⟨{ State.reset with regs := [(0x40060C04, 2)] }, 0, 0, by decide +kernel⟩
  · exact ⟨{ sDrv { engines := lset 0 { timed := true } State.reset.drv.engines } with regs := [(0x40060C04, 2)] },
    0, 0, by decide +kernel⟩

theorem wit_EvacuationsStartAndEnd :
    (∃ (s : State) (rising : Bool) (tick : Nat) (sub : Fin 10), s.live = true) ∧
    (∃ (s : State), s.live = true ∧ bit 0 (s.reg 0x40060014) = true ∧ s.incActive = true ∧ s.drv.engines.any
      PeSt.evac = false ∧ field 6 4 (s.reg 0x40060014) < s.drv.engines.length) ∧
    (∃ (s : State), s.live = true ∧ bit 0 (s.reg 0x40060014) = true ∧ s.incActive = true ∧ s.drv.engines.any
      PeSt.evac = true) ∧
    (∃ (s : State) (p : Nat), s.live = true ∧ s.evacEngine = some p ∧ s.incActive = false ∧ bit 2 (s.reg 0x40060014)
      = false) ∧
    (∃ (s : State) (p : Nat), s.live = true ∧ s.evacEngine = some p ∧ (s.incActive = true ∨ bit 2 (s.reg 0x40060014)
      = true)) ∧
    (∃ (s : State) (p : Nat), s.live = true ∧ s.evacEngine = some p ∧ (s.incActive = true ∨ bit 2 (s.reg 0x40060014)
      = true)) ∧
    (∃ (s : State) (p : Nat) (w : Writer), s.live = true ∧ s.evacEngine = some p ∧ w.role = .installer ∧
      canonicalRegs s.regs = true ∧ s.incActive = false ∧ bit 2 (s.reg 0x40060014) = true) := by
  refine ⟨?_, ?_, ?_, ?_, ?_, ?_, ?_⟩
  · exact ⟨State.reset, true, 0, 0, by decide +kernel⟩
  · exact ⟨{ State.reset with regs := [(0x40060014, 0x71)], fld := { State.reset.fld with incIn := true } },
    by decide +kernel⟩
  · exact
    ⟨{ sDrv { engines := lset 7 { run := some { evac := true } } State.reset.drv.engines } with regs := [(0x40060014, 0x71)], fld := { State.reset.fld with incIn := true } },
    by decide +kernel⟩
  · exact ⟨sDrv { engines := lset 7 { run := some { evac := true } } State.reset.drv.engines }, 7, by decide +kernel⟩
  · exact
    ⟨{ sDrv { engines := lset 7 { run := some { evac := true } } State.reset.drv.engines } with fld := { State.reset.fld with incIn := true } },
    7, by decide +kernel⟩
  · exact
    ⟨{ sDrv { engines := lset 7 { run := some { evac := true } } State.reset.drv.engines } with regs := [(0x40060014, 4)] },
    7, by decide +kernel⟩
  · exact
    ⟨{ sDrv { engines := lset 7 { run := some { evac := true } } State.reset.drv.engines } with regs := [(0x40060014, 4)] },
    7, inst, by decide +kernel⟩

theorem wit_ClearingsAreFixedAndEnd :
    (∃ (s : State) (a : CanActivation) (r : Nat) (rest : List Nat) (c : Nat), s.live = true ∧ s.can.activation = some
      a ∧ a.regions = r :: rest ∧ s.can.clearing = none ∧ s.earliestStart r clearingSearch (max a.cn (s.cn + 1)) =
      some c ∧ s.upd.activation = none) ∧
    (∃ (s : State) (a : CanActivation) (r : Nat) (rest : List Nat), s.live = true ∧ s.can.activation = some a ∧
      a.regions = r :: rest ∧ s.can.clearing = none ∧ s.earliestStart r clearingSearch (max a.cn (s.cn + 1)) = none) ∧
    (∃ (s : State) (k : Clearing) (a : CanActivation) (r : Nat) (q : Nat) (rest : List Nat), s.live = true ∧
      s.can.clearing = some k ∧ s.can.activation = some a ∧ a.regions = r :: q :: rest ∧ k.started = true ∧ k.c +
      k.len ≤ s.cn) ∧
    (∃ (s : State) (k : Clearing) (a : CanActivation) (r : Nat) (q : Nat) (rest : List Nat), s.live = true ∧
      s.can.clearing = some k ∧ s.can.activation = some a ∧ a.regions = r :: q :: rest ∧ k.started = true ∧ s.cn <
      k.c + k.len) ∧
    (∃ (s : State), s.live = true) := by
  refine ⟨?_, ?_, ?_, ?_, ?_⟩
  · exact ⟨sCan { activation := some (act0 [3]) }, act0 [3], 3, [], 1, by decide +kernel⟩
  · exact
    ⟨{ sCan { activation := some (act0 [3]), slots := [(0, { template := .meterPipe, region := 3 })] } with regs := [(0x4005000C, 1)], mtr := { State.reset.mtr with nextLatch := 0 } },
    act0 [3], 3, [], by decide +kernel⟩
  · exact
    ⟨{ sCan { activation := some (act0 [3, 4]), clearing := some { region := 3, c := 1, len := 2, started := true } } with cn := 3 },
    { region := 3, c := 1, len := 2, started := true }, act0 [3, 4], 3, 4, [], by decide +kernel⟩
  · exact
    ⟨{ sCan { activation := some (act0 [3, 4]), clearing := some { region := 3, c := 1, len := 2, started := true } } with cn := 2 },
    { region := 3, c := 1, len := 2, started := true }, act0 [3, 4], 3, 4, [], by decide +kernel⟩
  · exact ⟨State.reset, by decide +kernel⟩

theorem wit_SlicesAreFixedRunAndJudged :
    (∃ (s : State) (stand : Stand) (kind : Fin 8) (index : Fin 8192) (id : UnitId), s.live = true ∧ id = unitOf stand
      kind.val index.val ∧ s.hasUnit id = true ∧ (s.unit id).due = none ∧ (s.unit id).mark ≠ some .felled ∧ (s.unit
      id).lastCn + s.coppiceDay ≤ s.cn) ∧
    (∃ (s : State) (stand : Stand) (kind : Fin 8) (index : Fin 8192) (id : UnitId), s.live = true ∧ id = unitOf stand
      kind.val index.val ∧ s.cn < (s.unit id).lastCn + s.coppiceDay) ∧
    (∃ (s : State) (stand : Stand) (lead : Fin 16) (id : UnitId) (rest : List UnitId) (x : Slice), s.live = true ∧
      bit 0 (s.reg 0x400A0000) = true ∧ (s.ford.of stand).state ≠ .absent ∧ s.sys.powerFail = false ∧ s.sys.dorm =
      none ∧ s.candidates stand = id :: rest ∧ s.roomFor stand id = true ∧ x = s.sliceFor stand id (s.cn + lead.val +
      1) ∧ s.deferral x = none ∧ x.victim = none ∧ s.cop.command = none) ∧
    (∃ (s : State) (stand : Stand) (lead : Fin 16) (id : UnitId) (rest : List UnitId) (x : Slice) (v : Nat), s.live =
      true ∧ bit 0 (s.reg 0x400A0000) = true ∧ (s.ford.of stand).state ≠ .absent ∧ s.sys.powerFail = false ∧
      s.sys.dorm = none ∧ s.candidates stand = id :: rest ∧ s.roomFor stand id = true ∧ x = s.sliceFor stand id (s.cn
      + lead.val + 1) ∧ s.deferral x = none ∧ x.victim = some v ∧ s.carriers x ≠ []) ∧
    (∃ (s : State) (stand : Stand) (lead : Fin 16) (id : UnitId) (rest : List UnitId) (x : Slice) (r : Nat), s.live =
      true ∧ bit 0 (s.reg 0x400A0000) = true ∧ (s.ford.of stand).state ≠ .absent ∧ s.sys.powerFail = false ∧
      s.sys.dorm = none ∧ s.candidates stand = id :: rest ∧ s.roomFor stand id = true ∧ x = s.sliceFor stand id (s.cn
      + lead.val + 1) ∧ s.deferral x = some r ∧ rest = []) ∧
    (∃ (s : State) (stand : Stand) (lead : Fin 16), s.live = true ∧ bit 0 (s.reg 0x400A0000) = false) ∧
    (∃ (s : State) (stand : Stand) (kind : Fin 8) (index : Fin 8192) (patterns : Word) (complete : Bool) (misr :
      BitVec 64) (expected : BitVec 64) (x : Slice), s.live = true ∧ s.cop.slices = [x] ∧ x.unit = unitOf stand
      kind.val index.val ∧ x.started = true ∧ x.ended = false ∧ ((s.terminal x = none ∨ s.terminal x = some
      patterns.toNat)) ∧ complete = false) ∧
    (∃ (s : State) (stand : Stand) (kind : Fin 8) (index : Fin 8192) (patterns : Word) (complete : Bool) (misr :
      BitVec 64) (expected : BitVec 64) (x : Slice), s.live = true ∧ s.cop.slices = [x] ∧ x.unit = unitOf stand
      kind.val index.val ∧ x.started = true ∧ x.ended = false ∧ ((s.terminal x = none ∨ s.terminal x = some
      patterns.toNat)) ∧ complete = true ∧ misr = expected ∧ x.retest = false) ∧
    (∃ (s : State) (stand : Stand) (kind : Fin 8) (index : Fin 8192) (patterns : Word) (complete : Bool) (misr :
      BitVec 64) (expected : BitVec 64) (x : Slice), s.live = true ∧ s.cop.slices = [x] ∧ x.unit = unitOf stand
      kind.val index.val ∧ x.started = true ∧ x.ended = false ∧ ((s.terminal x = none ∨ s.terminal x = some
      patterns.toNat)) ∧ complete = true ∧ misr ≠ expected ∧ x.retest = false) ∧
    (∃ (s : State) (stand : Stand) (kind : Fin 8) (index : Fin 8192) (patterns : Word) (complete : Bool) (misr :
      BitVec 64) (expected : BitVec 64) (x : Slice), s.live = true ∧ s.cop.slices = [x] ∧ x.unit = unitOf stand
      kind.val index.val ∧ x.started = true ∧ x.ended = false ∧ ((s.terminal x = none ∨ s.terminal x = some
      patterns.toNat)) ∧ complete = true ∧ misr ≠ expected ∧ x.retest = true) ∧
    (∃ (s : State) (stand : Stand) (kind : Fin 8) (index : Fin 8192) (patterns : Word) (complete : Bool) (misr :
      BitVec 64) (expected : BitVec 64) (x : Slice), s.live = true ∧ s.cop.slices = [x] ∧ x.unit = unitOf stand
      kind.val index.val ∧ x.started = true ∧ x.ended = false ∧ ((s.terminal x = none ∨ s.terminal x = some
      patterns.toNat))) ∧
    (∃ (s : State) (stand : Stand) (kind : Fin 8) (index : Fin 8192) (d : Cn), s.live = true ∧ (s.unit (unitOf stand
      kind.val index.val)).due = some d ∧ d + 7 * s.coppiceDay ≤ s.cn ∧ (s.unit (unitOf stand kind.val
      index.val)).starved = false) ∧
    (∃ (s : State) (stand : Stand) (kind : Fin 8) (index : Fin 8192) (d : Cn), s.live = true ∧ (s.unit (unitOf stand
      kind.val index.val)).due = some d ∧ s.cn < d + 7 * s.coppiceDay) := by
  refine ⟨?_, ?_, ?_, ?_, ?_, ?_, ?_, ?_, ?_, ?_, ?_, ?_, ?_⟩
  · exact ⟨{ State.reset with cn := 4320000 }, .b, 4, 8191, unitOf .b 4 8191, by decide +kernel⟩
  · exact ⟨{ State.reset with cn := 4319999 }, .b, 4, 8191, unitOf .b 4 8191, by decide +kernel⟩
  · exact ⟨sCop [{ id := unitOf .a 4 8191, due := some 0 }] [], .a, 15, unitOf .a 4 8191, [],
    { unit := unitOf .a 4 8191, by_ := .a, carrier := none, c := 16 }, by decide +kernel⟩
  · exact ⟨{ State.reset with cop := { State.reset.cop with units := [{ id := unitOf .a 7 0, due := some 0 }] } },
    .a, 0, unitOf .a 7 0, [], { unit := unitOf .a 7 0, by_ := .a, carrier := none, c := 1, victim := some 0 }, 0,
    by decide +kernel⟩
  · exact
    ⟨{ sCop [{ id := unitOf .a 4 8191, due := some 0 }] [] with ford := { State.reset.ford with safeHold := true } },
    .a, 0, unitOf .a 4 8191, [], { unit := unitOf .a 4 8191, by_ := .a, carrier := none, c := 1 }, 5,
    by decide +kernel⟩
  · exact ⟨{ State.reset with regs := [(0x400A0000, 0)] }, .a, 0, by decide +kernel⟩
  · exact ⟨sCop [] [slice0], .a, 4, 8191, 0, false, 0, 0, slice0, by decide +kernel⟩
  · exact ⟨sCop [] [slice0], .a, 4, 8191, 0, true, 0, 0, slice0, by decide +kernel⟩
  · exact ⟨sCop [] [slice0], .a, 4, 8191, 0, true, 1, 0, slice0, by decide +kernel⟩
  · exact ⟨sCop [] [{ slice0 with retest := true }], .a, 4, 8191, 0, true, 1, 0, { slice0 with retest := true },
    by decide +kernel⟩
  · exact ⟨sCop [] [{ slice0 with unit := unitOf .a 0 55 }], .a, 0, 55, 65536, true, 0, 0,
    { slice0 with unit := unitOf .a 0 55 }, by decide +kernel⟩
  · exact ⟨{ sCop [{ id := unitOf .a 4 8191, due := some 0 }] [] with cn := 30240000 }, .a, 4, 8191, 0,
    by decide +kernel⟩
  · exact ⟨{ sCop [{ id := unitOf .a 4 8191, due := some 0 }] [] with cn := 30239999 }, .a, 4, 8191, 0,
    by decide +kernel⟩

theorem wit_IdlePathsAndCoppiceCommands :
    (∃ (s : State) (item : Fin 10), s.live = true ∧ s.following = true ∧ s.ford.safeHold = false ∧ s.cop.idle = none
      ∧ bit 0 (s.reg 0x400A0000) = true ∧ s.upd.activation = none) ∧
    (∃ (s : State) (item : Fin 10), s.live = true ∧ s.following = true ∧ s.ford.safeHold = false ∧ s.cop.idle = none
      ∧ bit 0 (s.reg 0x400A0000) = true ∧ s.upd.activation = none) ∧
    (∃ (s : State) (i : Nat), s.live = true ∧ s.cop.idle = some i) ∧
    (∃ (s : State) (i : Nat), s.live = true ∧ s.cop.idle = some i ∧ s.cop.idleRetest = false) ∧
    (∃ (s : State) (i : Nat), s.live = true ∧ s.cop.idle = some i ∧ s.cop.idleRetest = true ∧ s.following = true ∧
      s.ford.diag = none ∧ s.upd.activation = none) ∧
    (∃ (s : State) (w : Writer) (id : UnitId), s.live = true ∧ canonicalRegs s.regs = true ∧ w.role = .installer ∧ id
      = unitNamed w.stand (s.reg 0x400A0018) ∧ s.hasUnit id = true) ∧
    (∃ (s : State) (w : Writer) (id : UnitId), s.live = true ∧ canonicalRegs s.regs = true ∧ w.role = .installer ∧ id
      = unitNamed w.stand (s.reg 0x400A0018) ∧ s.hasUnit id = true) ∧
    (∃ (s : State) (w : Writer) (id : UnitId), s.live = true ∧ canonicalRegs s.regs = true ∧ w.role = .installer ∧ id
      = unitNamed w.stand (s.reg 0x400A0018) ∧ s.hasUnit id = true) ∧
    (∃ (s : State) (kind : Fin 8) (index : Fin 65536) (w : Writer) (id : UnitId), s.live = true ∧ canonicalRegs
      s.regs = true ∧ w.role = .maker ∧ id = unitOf w.stand kind.val index.val ∧ (s.unit id).mark = some .suspect ∧
      (s.cop.slices.any fun x => decide (x.unit = id)) = false) ∧
    (∃ (s : State) (w : Writer), s.live = true ∧ canonicalRegs s.regs = true ∧ w.role = .installer) := by
  refine ⟨?_, ?_, ?_, ?_, ?_, ?_, ?_, ?_, ?_, ?_⟩
  · exact ⟨{ sCop [] [] with ford := fB }, 7, by decide +kernel⟩
  · exact ⟨{ sCop [] [] with ford := fB }, 8, by decide +kernel⟩
  · exact ⟨{ State.reset with cop := { State.reset.cop with idle := some 2 } }, 2, by decide +kernel⟩
  · exact ⟨{ State.reset with cop := { State.reset.cop with idle := some 2 } }, 2, by decide +kernel⟩
  · exact ⟨{ sFord fB with cop := { State.reset.cop with idle := some 2, idleRetest := true } }, 2,
    by decide +kernel⟩
  · exact ⟨State.reset, inst, unitOf .a 0 0, by decide +kernel⟩
  · exact ⟨State.reset, inst, unitOf .a 0 0, by decide +kernel⟩
  · exact ⟨State.reset, inst, unitOf .a 0 0, by decide +kernel⟩
  · exact
    ⟨{ State.reset with cop := { State.reset.cop with units := [{ id := unitOf .a 0 55, mark := some .suspect }] } },
    0, 55, { role := .maker, via := .monitor }, unitOf .a 0 55, by decide +kernel⟩
  · exact ⟨State.reset, inst, by decide +kernel⟩

theorem wit_FordHoldsAndAsks :
    (∃ (s : State) (cls : Fin 8) (pin : BitVec 16) (tag : BitVec 64), s.live = true ∧ s.compares cls.val = true ∧
      s.ford.holding = false ∧ s.following = true) ∧
    (∃ (s : State) (cls : Fin 8) (pin : BitVec 16) (tag : BitVec 64), s.live = true ∧ s.compares cls.val = false) ∧
    (∃ (s : State) (hold : Word), s.live = true ∧ s.following = true ∧ s.ford.safeHold = false ∧ s.ford.diag = none ∧
      s.serves s.ford.active = true ∧ s.upd.activation = none) ∧
    (∃ (s : State) (hold : Word), s.live = true ∧ s.following = true ∧ s.ford.safeHold = false ∧ s.ford.diag = none ∧
      s.serves s.ford.active = true ∧ s.upd.activation = none ∧ s.inProbation = false) ∧
    (∃ (s : State) (hold : Word) (causes : Fin 64), s.live = true ∧ s.following = true ∧ s.ford.safeHold = false ∧
      s.ford.diag = none ∧ s.serves s.ford.active = true ∧ s.upd.activation = none ∧ causes ≠ 0) ∧
    (∃ (s : State) (hold : Word) (causes : Fin 64), s.live = true ∧ s.following = true ∧ s.ford.safeHold = false ∧
      s.ford.diag = none ∧ s.serves s.ford.active = true ∧ s.upd.activation = none ∧ causes ≠ 0) ∧
    (∃ (s : State), s.live = true ∧ s.build = .t ∧ s.serves .a = true ∧ s.ford.safeHold = false ∧ s.ford.claimB =
      false) ∧
    (∃ (s : State), s.live = true ∧ s.build = .t ∧ s.serves .a = true ∧ s.ford.safeHold = false ∧ s.ford.claimB =
      true ∧ s.following = true ∧ s.ford.holding = false) := by
  refine ⟨?_, ?_, ?_, ?_, ?_, ?_, ?_, ?_⟩
  · exact ⟨sFord fB, 7, 0, 0, by decide +kernel⟩
  · exact ⟨State.reset, 0, 0, 0, by decide +kernel⟩
  · exact ⟨sFord fB, 0, by decide +kernel⟩
  · exact ⟨sFord fB, 0, by decide +kernel⟩
  · exact ⟨sFord fB, 0, 63, by decide +kernel⟩
  · exact ⟨sFord fB, 0, 1, by decide +kernel⟩
  · exact ⟨State.reset, by decide +kernel⟩
  · exact ⟨sFord { fB with claimB := true }, by decide +kernel⟩

theorem wit_FordDecides :
    (∃ (s : State) (d : Diagnosis) (causes : Fin 128) (hold : Word), s.live = true ∧ s.ford.diag = some d ∧ d.cause =
      2 ∧ d.withdrew = false ∧ s.upd.activation = none ∧ d.answer s.ford.active = none ∧ d.answer s.ford.active.other
      = some 0 ∧ causes ≠ 0 ∧ s.following = true) ∧
    (∃ (s : State) (d : Diagnosis) (causes : Fin 128) (hold : Word), s.live = true ∧ s.ford.diag = some d ∧ d.cause =
      2 ∧ d.withdrew = false ∧ s.upd.activation = none ∧ d.answer s.ford.active = none ∧ ((∃ b, d.answer
      s.ford.active.other = some b ∧ b ≠ 0)) ∧ causes ≠ 0) ∧
    (∃ (s : State) (d : Diagnosis) (causes : Fin 128) (hold : Word), s.live = true ∧ s.ford.diag = some d ∧ d.cause =
      2 ∧ d.withdrew = false ∧ s.upd.activation = none ∧ d.answer s.ford.active.other = none ∧ d.answer s.ford.active
      = some 0 ∧ causes ≠ 0) ∧
    (∃ (s : State) (d : Diagnosis) (causes : Fin 128) (hold : Word), s.live = true ∧ s.ford.diag = some d ∧ d.cause =
      2 ∧ d.withdrew = false ∧ s.upd.activation = none ∧ d.answer s.ford.active.other = none ∧ d.answer s.ford.active
      = some 0 ∧ causes = 0 ∧ (s.ford.of s.ford.active.other).otherImage = false) ∧
    (∃ (s : State) (d : Diagnosis) (causes : Fin 128) (hold : Word), s.live = true ∧ s.ford.diag = some d ∧ d.cause =
      2 ∧ d.withdrew = false ∧ s.upd.activation = none ∧ d.answer .a = none ∧ d.answer .b = none) ∧
    (∃ (s : State) (hold : Word), s.live = true ∧ s.ford.diag = none) ∧
    (∃ (s : State) (copy : Fin 3) (cycle : Nat), s.live = true ∧ s.ford.masked = none ∧ s.ford.lastOutvote = none) ∧
    (∃ (s : State) (copy : Fin 3) (cycle : Nat) (at_ : Nat), s.live = true ∧ s.ford.masked = none ∧
      s.ford.lastOutvote = some (copy.val, at_) ∧ cycle = at_ + 1) ∧
    (∃ (s : State) (copy : Fin 3) (cycle : Nat), s.live = true ∧ s.ford.masked = some copy.val) ∧
    (∃ (s : State) (copy : Fin 3) (cycle : Nat) (m : Nat), s.live = true ∧ s.ford.masked = some m ∧ m ≠ copy.val ∧
      s.ford.safeHold = false ∧ s.upd.activation = none) := by
  refine ⟨?_, ?_, ?_, ?_, ?_, ?_, ?_, ?_, ?_, ?_⟩
  · exact ⟨sFord { fB with diag := some { cause := 2, answerB := some 0 }, holding := true },
    { cause := 2, answerB := some 0 }, 127, 0, by decide +kernel⟩
  · exact ⟨sFord { fB with diag := some { cause := 2, answerB := some 1 }, holding := true },
    { cause := 2, answerB := some 1 }, 1, 0, by decide +kernel⟩
  · exact ⟨sFord { fB with diag := some { cause := 2, answerA := some 0 }, holding := true },
    { cause := 2, answerA := some 0 }, 1, 0, by decide +kernel⟩
  · exact ⟨sFord { fB with diag := some { cause := 2, answerA := some 0 }, holding := true },
    { cause := 2, answerA := some 0 }, 0, 0, by decide +kernel⟩
  · exact ⟨sFord { fB with diag := some { cause := 2 }, holding := true }, { cause := 2 }, 0, 0, by decide +kernel⟩
  · exact ⟨State.reset, 0, by decide +kernel⟩
  · exact ⟨State.reset, 2, 0, by decide +kernel⟩
  · exact ⟨sFord { lastOutvote := some (2, 4) }, 2, 5, 4, by decide +kernel⟩
  · exact ⟨sFord { masked := some 2 }, 2, 0, by decide +kernel⟩
  · exact ⟨sFord { masked := some 1 }, 2, 0, 1, by decide +kernel⟩

theorem wit_StandsAreTestedAndLearn :
    (∃ (s : State) (x : Stand), s.live = true ∧ (s.ford.of x).testing = true ∧ (s.ford.of x).state = .withdrawn ∧
      (s.ford.of x).retry = false) ∧
    (∃ (s : State) (x : Stand), s.live = true ∧ (s.ford.of x).testing = true ∧ (s.ford.of x).state = .withdrawn ∧
      (s.ford.of x).retry = true) ∧
    (∃ (s : State) (x : Stand), s.live = true ∧ (s.ford.of x).testing = true ∧ (s.ford.of x).state = .withdrawn ∧
      (s.ford.of x).withdrawals = [s.cn] ∧ s.ford.safeHold = false ∧ (s.ford.of x).otherImage = false) ∧
    (∃ (s : State) (x : Stand), s.live = true ∧ (s.ford.of x).testing = true ∧ (s.ford.of x).state = .withdrawn ∧
      (s.ford.of x).withdrawals = [s.cn] ∧ s.ford.safeHold = true ∧ s.ford.voteHold = true ∧ (s.ford.of x).retry =
      false) ∧
    (∃ (s : State) (x : Stand), s.live = true ∧ (s.ford.of x).testing = true ∧ (s.ford.of x).state = .withdrawn ∧
      (s.ford.of x).withdrawals = [s.cn] ∧ s.ford.safeHold = true ∧ s.ford.voteHold = false ∧ s.ford.resume = none) ∧
    (∃ (s : State) (x : Stand), s.live = true ∧ x = s.ford.active.other ∧ (s.ford.of x).state = .learning ∧
      s.ford.probation = false ∧ (s.ford.of x).rewriting = false ∧ (s.ford.of x).otherImage = false ∧ s.ford.safeHold
      = false) ∧
    (∃ (s : State) (x : Stand), s.live = true ∧ x = s.ford.active.other ∧ (s.ford.of x).state = .learning ∧
      s.ford.probation = false ∧ (s.ford.of x).rewriting = false ∧ (s.ford.of x).otherImage = false ∧ s.ford.safeHold
      = false ∧ s.sys.lockstepMs ≠ 0) ∧
    (∃ (s : State) (x : Stand) (e : Cn), s.live = true ∧ x = s.ford.active.other ∧ (s.ford.of x).state = .learning ∧
      s.ford.probation = true ∧ (s.ford.of x).probationEnd = some e ∧ e ≤ s.cn ∧ s.upd.activation = none) ∧
    (∃ (s : State) (x : Stand) (e : Cn), s.live = true ∧ x = s.ford.active.other ∧ (s.ford.of x).state = .learning ∧
      s.ford.probation = true ∧ (s.ford.of x).probationEnd = some e ∧ s.cn < e) := by
  refine ⟨?_, ?_, ?_, ?_, ?_, ?_, ?_, ?_, ?_⟩
  · exact ⟨sFord { b := { state := .withdrawn, testing := true } }, .b, by decide +kernel⟩
  · exact ⟨sFord { b := { state := .withdrawn, testing := true, retry := true } }, .b, by decide +kernel⟩
  · exact ⟨sFord { b := { state := .withdrawn, testing := true, withdrawals := [0] } }, .b, by decide +kernel⟩
  · exact ⟨sFord
    { b := { state := .withdrawn, testing := true, withdrawals := [0] }, safeHold := true, voteHold := true }, .b,
    by decide +kernel⟩
  · exact ⟨sFord
    { a := { state := .withdrawn }, b := { state := .withdrawn, testing := true, withdrawals := [0] }, safeHold := true },
    .b, by decide +kernel⟩
  · exact ⟨State.reset, .b, by decide +kernel⟩
  · exact ⟨{ State.reset with sys := { State.reset.sys with lockstepMs := 7 } }, .b, by decide +kernel⟩
  · exact ⟨{ sFord { b := { state := .learning, probationEnd := some 1001 }, probation := true } with cn := 1001 },
    .b, 1001, by decide +kernel⟩
  · exact ⟨{ sFord { b := { state := .learning, probationEnd := some 1001 }, probation := true } with cn := 1000 },
    .b, 1001, by decide +kernel⟩

theorem wit_InstallersCommandTheStands :
    (∃ (s : State) (w : Writer), s.live = true ∧ canonicalRegs s.regs = true ∧ w.role = .installer ∧ s.build = .t ∧
      s.switchAllowed s.ford.active.other = true) ∧
    (∃ (s : State) (w : Writer), s.live = true ∧ canonicalRegs s.regs = true ∧ w.role = .installer ∧ ((s.build = .s ∨
      s.switchAllowed s.ford.active.other = false))) ∧
    (∃ (s : State) (w : Writer), s.live = true ∧ canonicalRegs s.regs = true ∧ w.role = .installer ∧ ((s.build = .s ∨
      s.switchAllowed s.ford.active.other = false))) ∧
    (∃ (s : State) (w : Writer), s.live = true ∧ canonicalRegs s.regs = true ∧ w.role = .installer) ∧
    (∃ (s : State) (x : Stand) (agree : Bool) (out : Fin 3) (w : Writer), s.live = true ∧ canonicalRegs s.regs = true
      ∧ w.role = .installer ∧ s.ford.safeHold = true ∧ s.ford.voteHold = false ∧ (s.ford.of x).state = .withdrawn ∧
      (s.ford.of x).passed = true) ∧
    (∃ (s : State) (x : Stand) (agree : Bool) (out : Fin 3) (w : Writer), s.live = true ∧ canonicalRegs s.regs = true
      ∧ w.role = .installer ∧ s.ford.safeHold = true ∧ s.ford.voteHold = false ∧ (s.ford.of x).state = .withdrawn ∧
      (s.ford.of x).passed = false) ∧
    (∃ (s : State) (x : Stand) (agree : Bool) (out : Fin 3) (w : Writer), s.live = true ∧ canonicalRegs s.regs = true
      ∧ w.role = .installer ∧ s.ford.safeHold = true ∧ s.ford.voteHold = false ∧ (s.ford.of x).state = .withdrawn) ∧
    (∃ (s : State) (x : Stand) (w : Writer), s.live = true ∧ canonicalRegs s.regs = true ∧ w.role = .installer ∧
      (s.ford.of x).state = .quarantined) := by
  refine ⟨?_, ?_, ?_, ?_, ?_, ?_, ?_, ?_⟩
  · exact ⟨sFord fB, inst, by decide +kernel⟩
  · exact ⟨State.reset, inst, by decide +kernel⟩
  · exact ⟨{ sFord fB with build := .s }, inst, by decide +kernel⟩
  · exact ⟨State.reset, inst, by decide +kernel⟩
  · exact ⟨sFord { a := { state := .withdrawn }, b := { state := .withdrawn, passed := true }, safeHold := true },
    .b, true, 0, inst, by decide +kernel⟩
  · exact ⟨sFord { a := { state := .withdrawn }, b := { state := .withdrawn }, safeHold := true }, .b, true, 0, inst,
    by decide +kernel⟩
  · exact ⟨sFord { a := { state := .withdrawn }, b := { state := .withdrawn }, safeHold := true }, .b, true, 0, inst,
    by decide +kernel⟩
  · exact ⟨sFord { b := { state := .quarantined } }, .b, inst, by decide +kernel⟩

theorem wit_ReferenceClocksAreSelected :
    (∃ (s : State) (sel : Fin 2) (w : Writer), s.live = true ∧ canonicalRegs s.regs = true ∧ w.role = .installer ∧
      s.build = .t ∧ ((if sel = 0 then s.ford.lostA else s.ford.lostB) = false) ∧ s.ford.ref ≠ sel.val) ∧
    (∃ (s : State) (sel : Fin 2) (w : Writer), s.live = true ∧ canonicalRegs s.regs = true ∧ w.role = .installer ∧
      s.build = .t ∧ ((if sel = 0 then s.ford.lostA else s.ford.lostB) = true)) ∧
    (∃ (s : State), s.live = true ∧ s.build = .t ∧ s.ford.lostA = false ∧ s.ford.ref = 0 ∧ s.ford.lostB = false) ∧
    (∃ (s : State), s.live = true ∧ s.build = .t ∧ s.ford.lostA = false ∧ s.ford.ref = 0 ∧ s.ford.lostB = true) ∧
    (∃ (s : State), s.live = true ∧ s.build = .t ∧ s.ford.lostA = false ∧ s.ford.ref ≠ 0) ∧
    (∃ (s : State) (ofs : Int), s.live = true ∧ s.ford.lostA = true) ∧
    (∃ (s : State) (ofs : Int), s.live = true ∧ s.ford.lostA = false) := by
  refine ⟨?_, ?_, ?_, ?_, ?_, ?_, ?_⟩
  · exact ⟨State.reset, 1, inst, by decide +kernel⟩
  · exact ⟨sFord { lostB := true }, 1, inst, by decide +kernel⟩
  · exact ⟨State.reset, by decide +kernel⟩
  · exact ⟨sFord { lostB := true }, by decide +kernel⟩
  · exact ⟨sFord { ref := 1 }, by decide +kernel⟩
  · exact ⟨sFord { lostA := true }, 0, by decide +kernel⟩
  · exact ⟨State.reset, 0, by decide +kernel⟩

theorem wit_UpdateSessionsGatherChunks :
    (∃ (s : State) (i : Fin 4) (c : Session) (role : Byte) (tx : Word) (body : List Byte) (signed : Bool) (m :
      Manifest), s.live = true ∧ s.session i = some c ∧ c.mayAsk role.toNat .operator = true ∧ 16 ≤ body.length ∧ w16
      14 body = 0 ∧ body.length = 16 + w16 12 body ∧ s.upd.activation = none ∧ s.upd.session = none ∧ bit 0 (s.reg
      0x400B0000) = true ∧ s.judgeManifest (body.drop 16) signed (w32 0 body) (w32 4 body) (w32 8 body) = .ok m) ∧
    (∃ (s : State) (i : Fin 4) (c : Session) (role : Byte) (tx : Word) (body : List Byte) (signed : Bool), s.live =
      true ∧ s.session i = some c ∧ c.mayAsk role.toNat .operator = true ∧ 16 ≤ body.length ∧ w16 14 body = 0 ∧
      body.length = 16 + w16 12 body ∧ s.upd.activation.isSome = true) ∧
    (∃ (s : State) (i : Fin 4) (c : Session) (role : Byte) (tx : Word) (body : List Byte) (tag : Bool) (plain : List
      Byte) (x : UpdSession), s.live = true ∧ s.session i = some c ∧ c.mayAsk role.toNat .operator = true ∧
      s.upd.session = some x ∧ 12 ≤ body.length ∧ w16 10 body = 0 ∧ body.length = 12 + w16 8 body ∧ w32 0 body = x.id
      ∧ w32 4 body < x.count ∧ tget (w32 4 body) x.chunks = none ∧ w16 8 body = x.chunkLength (w32 4 body) + 16 ∧
      plain.length = x.chunkLength (w32 4 body) ∧ tag = true) ∧
    (∃ (s : State) (i : Fin 4) (c : Session) (role : Byte) (tx : Word) (body : List Byte) (tag : Bool) (plain : List
      Byte) (x : UpdSession), s.live = true ∧ s.session i = some c ∧ c.mayAsk role.toNat .operator = true ∧
      s.upd.session = some x ∧ 12 ≤ body.length ∧ w16 10 body = 0 ∧ body.length = 12 + w16 8 body ∧ w32 0 body = x.id
      ∧ w32 4 body < x.count ∧ (tget (w32 4 body) x.chunks).isSome = true) ∧
    (∃ (s : State) (i : Fin 4) (c : Session) (role : Byte) (tx : Word) (body : List Byte) (tag : Bool) (plain : List
      Byte) (x : UpdSession), s.live = true ∧ s.session i = some c ∧ c.mayAsk role.toNat .operator = true ∧
      s.upd.session = some x ∧ 12 ≤ body.length ∧ w16 10 body = 0 ∧ body.length = 12 + w16 8 body ∧ w32 0 body = x.id
      ∧ w32 4 body < x.count ∧ tget (w32 4 body) x.chunks = none ∧ tag = false) ∧
    (∃ (s : State) (i : Fin 4) (c : Session) (role : Byte) (tx : Word) (body : List Byte) (x : UpdSession), s.live =
      true ∧ s.session i = some c ∧ c.mayAsk role.toNat .operator = true ∧ s.upd.session = some x ∧ body.length = 8 ∧
      w32 0 body = x.id ∧ w32 4 body % 8 = 0) ∧
    (∃ (s : State) (x : UpdSession), s.live = true ∧ s.upd.session = some x ∧ s.upd.activation = none ∧ x.lastMessage
      + field 23 16 (s.reg 0x400B0018) * s.secondsInCycles 86400 ≤ s.cn) ∧
    (∃ (s : State) (x : UpdSession), s.live = true ∧ s.upd.session = some x ∧ s.upd.activation = none ∧ s.cn <
      x.lastMessage + field 23 16 (s.reg 0x400B0018) * s.secondsInCycles 86400) := by
  refine ⟨?_, ?_, ?_, ?_, ?_, ?_, ?_, ?_⟩
  · exact ⟨sOffer, 0, op1, 1, 0, offer0, true, manRead (sOffer.expectedBmc (manRead 0 0)) 0,
    by (exact ⟨by decide +kernel, by decide +kernel, by decide +kernel, by decide +kernel, by decide +kernel, by decide +kernel, by decide +kernel, by decide +kernel, by decide +kernel, offer0_judged⟩)⟩
  · exact ⟨sOpUpd { activation := some (act1 .reboot) }, 0, op1, 1, 0, padTo 16 [], true, by decide +kernel⟩
  · exact ⟨sOpUpd { session := some (ups []) }, 0, op1, 1, 0, [3, 0, 0, 0, 0, 0, 0, 0, 17, 0, 0, 0] ++ padTo 17 [],
    true, [7], ups [], by decide +kernel⟩
  · exact ⟨sOpUpd { session := some (ups [(0, [7])]) }, 0, op1, 1, 0, [3, 0, 0, 0, 0, 0, 0, 0, 17, 0, 0, 0] ++ padTo
    17 [], true, [], ups [(0, [7])], by decide +kernel⟩
  · exact ⟨sOpUpd { session := some (ups []) }, 0, op1, 1, 0, [3, 0, 0, 0, 0, 0, 0, 0, 17, 0, 0, 0] ++ padTo 17 [],
    false, [], ups [], by decide +kernel⟩
  · exact ⟨sOpUpd { session := some (ups []) }, 0, op1, 1, 0, [3, 0, 0, 0, 0, 0, 0, 0], ups [], by decide +kernel⟩
  · exact ⟨{ sUpd { session := some (ups []) } with cn := 60480000 }, ups [], by decide +kernel⟩
  · exact ⟨{ sUpd { session := some (ups []) } with cn := 30239999 }, ups [], by decide +kernel⟩

theorem wit_ActivationsAreValidated :
    (∃ (s : State) (i : Fin 4) (c : Session) (role : Byte) (tx : Word) (body : List Byte) (x : UpdSession) (m :
      Manifest), s.live = true ∧ s.session i = some c ∧ c.mayAsk role.toNat .operator = true ∧ s.upd.session = some x
      ∧ body.length = 12 ∧ w32 0 body = x.id ∧ oct 8 body = 0 ∧ ofLe (slice 9 3 body) = 0 ∧ w32 4 body = 0 ∧
      s.ford.safeHold = false ∧ s.upd.activation = none ∧ x.chunks.length = x.count ∧ readManifest x.manifest = some
      m) ∧
    (∃ (s : State) (i : Fin 4) (c : Session) (role : Byte) (tx : Word) (body : List Byte) (x : UpdSession) (m :
      Manifest), s.live = true ∧ s.session i = some c ∧ c.mayAsk role.toNat .operator = true ∧ s.upd.session = some x
      ∧ body.length = 12 ∧ w32 0 body = x.id ∧ oct 8 body = 0 ∧ ofLe (slice 9 3 body) = 0 ∧ w32 4 body = 0 ∧
      s.ford.safeHold = false ∧ s.upd.activation = none ∧ x.chunks.length < x.count) ∧
    (∃ (s : State) (a : Activation) (x : UpdSession) (m : Manifest) (signed : Bool), s.live = true ∧ s.upd.activation
      = some a ∧ s.upd.session = some x ∧ s.upd.phase = 2 ∧ readManifest x.manifest = some m) ∧
    (∃ (s : State) (a : Activation) (x : UpdSession) (m : Manifest) (signed : Bool), s.live = true ∧ s.upd.activation
      = some a ∧ s.upd.session = some x ∧ s.upd.phase = 2 ∧ readManifest x.manifest = some m ∧ (m.entries.all fun e
      => decide (e.kind ≠ 3) && decide (Config.sha256 (x.part e) = e.digest)) = true ∧ a.path = .caravans ∧
      a.caravans = []) ∧
    (∃ (s : State) (a : Activation) (x : UpdSession) (m : Manifest) (signed : Bool), s.live = true ∧ s.upd.activation
      = some a ∧ s.upd.session = some x ∧ s.upd.phase = 2 ∧ readManifest x.manifest = some m ∧ (m.entries.all fun e
      => decide (e.kind ≠ 3) && decide (Config.sha256 (x.part e) = e.digest)) = true ∧ a.path = .handover ∧ 11 <
      s.key.slots.length) ∧
    (∃ (s : State) (a : Activation) (x : UpdSession) (m : Manifest) (signed : Bool), s.live = true ∧ s.upd.activation
      = some a ∧ s.upd.session = some x ∧ s.upd.phase = 2 ∧ readManifest x.manifest = some m ∧ (m.entries.all fun e
      => decide (e.kind ≠ 3) && decide (Config.sha256 (x.part e) = e.digest)) = true ∧ a.path = .reboot) ∧
    (∃ (s : State) (w : Writer), s.live = true ∧ canonicalRegs s.regs = true ∧ w.role = .installer ∧ s.upd.activation
      = none) ∧
    (∃ (s : State) (w : Writer) (a : Activation), s.live = true ∧ canonicalRegs s.regs = true ∧ w.role = .installer ∧
      s.upd.activation = some a ∧ a.committed = false ∧ a.back = false ∧ s.upd.phase = 4) := by
  refine ⟨?_, ?_, ?_, ?_, ?_, ?_, ?_, ?_⟩
  · exact ⟨sOpUpd { session := some upsM }, 0, op1, 1, 0, padTo 12 [3], upsM, manRead 0 (Config.sha256 [7]),
    by (exact ⟨by decide +kernel, by decide +kernel, by decide +kernel, rfl, by decide +kernel, by decide +kernel, by decide +kernel, by decide +kernel, by decide +kernel, by decide +kernel, by decide +kernel, by decide +kernel, upsM_read⟩)⟩
  · exact ⟨sOpUpd { session := some (ups []) }, 0, op1, 1, 0, padTo 12 [3], ups [], manRead 0 0, by decide +kernel⟩
  · exact ⟨sVal .reboot, act1 .reboot, upsM, manRead 0 (Config.sha256 [7]), true,
    by (exact ⟨by decide +kernel, rfl, rfl, by decide +kernel, upsM_read⟩)⟩
  · exact ⟨sVal .caravans, act1 .caravans, upsM, manRead 0 (Config.sha256 [7]), true,
    by (exact ⟨by decide +kernel, rfl, rfl, by decide +kernel, upsM_read, upsM_digest, by decide +kernel, by decide +kernel⟩)⟩
  · exact ⟨sVal .handover, act1 .handover, upsM, manRead 0 (Config.sha256 [7]), true,
    by (exact ⟨by decide +kernel, rfl, rfl, by decide +kernel, upsM_read, upsM_digest, by decide +kernel, by decide +kernel⟩)⟩
  · exact ⟨sVal .reboot, act1 .reboot, upsM, manRead 0 (Config.sha256 [7]), true,
    by (exact ⟨by decide +kernel, rfl, rfl, by decide +kernel, upsM_read, upsM_digest, by decide +kernel⟩)⟩
  · exact ⟨State.reset, inst, by decide +kernel⟩
  · exact ⟨sUpd { activation := some (act1 .handover), phase := 4 }, inst, act1 .handover, by decide +kernel⟩

theorem wit_UpdatesCommitOrFallBack :
    (∃ (s : State) (a : Activation) (measured : BitVec 256) (good : Bool), s.live = true ∧ s.upd.activation = some a
      ∧ a.path = .handover ∧ s.upd.phase = 5 ∧ s.newImageFails a measured good = none) ∧
    (∃ (s : State) (a : Activation) (measured : BitVec 256) (good : Bool) (k : Nat), s.live = true ∧ s.upd.activation
      = some a ∧ a.path = .handover ∧ s.upd.phase = 5 ∧ s.newImageFails a measured good = some k) ∧
    (∃ (s : State) (a : Activation) (measured : BitVec 256) (good : Bool) (k : Nat), s.live = true ∧ s.upd.activation
      = some a ∧ a.path = .handover ∧ s.upd.phase = 5 ∧ s.newImageFails a measured good = some k) ∧
    (∃ (s : State) (a : Activation) (measured : BitVec 256) (good : Bool), s.live = true ∧ s.upd.activation = some a
      ∧ a.path = .handover ∧ s.upd.phase = 6 ∧ s.upd.caughtUp = false) ∧
    (∃ (s : State) (a : Activation) (measured : BitVec 256) (good : Bool), s.live = true ∧ s.upd.activation = some a
      ∧ a.path = .handover ∧ s.upd.phase = 6 ∧ s.upd.caughtUp = false ∧ s.upd.phaseCn + s.secondsInCycles 10 ≤ s.cn) ∧
    (∃ (s : State) (a : Activation) (measured : BitVec 256) (good : Bool), s.live = true ∧ s.upd.activation = some a
      ∧ a.path = .handover ∧ s.upd.phase = 6 ∧ s.upd.caughtUp = false ∧ s.cn < s.upd.phaseCn + s.secondsInCycles 10) ∧
    (∃ (s : State) (a : Activation) (measured : BitVec 256) (good : Bool), s.live = true ∧ s.upd.activation = some a
      ∧ s.upd.phase = 6 ∧ s.upd.caughtUp = true ∧ s.ford.switch = none ∧ a.since + field 15 0 (s.reg 0x400B0018) ≤
      s.cn) ∧
    (∃ (s : State) (a : Activation) (measured : BitVec 256) (good : Bool), s.live = true ∧ s.upd.activation = some a
      ∧ s.upd.phase = 6 ∧ s.upd.caughtUp = true ∧ s.ford.switch = none ∧ s.cn < a.since + field 15 0 (s.reg
      0x400B0018)) ∧
    (∃ (s : State) (a : Activation) (measured : BitVec 256) (good : Bool), s.live = true ∧ s.upd.activation = some a
      ∧ a.path = .reboot ∧ s.upd.phase = 7 ∧ s.can.loaded = true ∧ s.newImageFails a measured good = none) ∧
    (∃ (s : State) (a : Activation) (measured : BitVec 256) (good : Bool) (k : Nat), s.live = true ∧ s.upd.activation
      = some a ∧ a.path = .reboot ∧ s.upd.phase = 7 ∧ s.can.loaded = true ∧ s.newImageFails a measured good = some k
      ∧ (s.build = .s ∨ s.ford.safeHold = false)) ∧
    (∃ (s : State) (a : Activation) (measured : BitVec 256) (good : Bool), s.live = true ∧ s.upd.activation = some a
      ∧ s.upd.phase = 8 ∧ s.upd.checks = 0x7F ∧ a.suspended = false ∧ a.caravans = [] ∧ a.since + s.secondsInCycles
      a.window ≤ s.cn ∧ a.path ≠ .handover) ∧
    (∃ (s : State) (a : Activation) (measured : BitVec 256) (good : Bool), s.live = true ∧ s.upd.activation = some a
      ∧ s.upd.phase = 8 ∧ s.upd.checks = 0x7F ∧ a.suspended = false ∧ a.caravans = [] ∧ a.since + s.secondsInCycles
      a.window ≤ s.cn ∧ a.path = .handover) ∧
    (∃ (s : State) (a : Activation) (measured : BitVec 256) (good : Bool), s.live = true ∧ s.upd.activation = some a
      ∧ s.upd.phase = 8 ∧ s.upd.checks = 0x7F ∧ a.suspended = false ∧ a.caravans = [] ∧ s.cn < a.since +
      s.secondsInCycles a.window) ∧
    (∃ (s : State) (a : Activation) (measured : BitVec 256) (good : Bool) (check : Fin 7) (reason : Reason), s.live =
      true ∧ s.upd.activation = some a ∧ a.path = .reboot ∧ s.upd.phase = 8 ∧ a.committed = true ∧ a.back = false ∧
      s.build = .t ∧ s.ford.safeHold = true) ∧
    (∃ (s : State) (a : Activation) (measured : BitVec 256) (good : Bool) (check : Fin 7) (reason : Reason), s.live =
      true ∧ s.upd.activation = some a ∧ a.path = .reboot ∧ s.upd.phase = 8 ∧ a.committed = true ∧ a.back = false ∧
      (s.build = .s ∨ s.ford.safeHold = false)) ∧
    (∃ (s : State) (x : Stand), s.live = true ∧ (s.ford.of x).rewriting = true ∧ (s.ford.of x).state = .quarantined) ∧
    (∃ (s : State) (x : Stand), s.live = true ∧ (s.ford.of x).rewriting = true ∧ (((s.ford.of x).state = .standby ∨
      (s.ford.of x).state = .learning))) ∧
    (∃ (s : State) (x : Stand), s.live = true ∧ (s.ford.of x).rewriting = true ∧ (((s.ford.of x).state = .standby ∨
      (s.ford.of x).state = .learning))) := by
  refine ⟨?_, ?_, ?_, ?_, ?_, ?_, ?_, ?_, ?_, ?_, ?_, ?_, ?_, ?_, ?_, ?_, ?_, ?_⟩
  · exact ⟨sUpd { activation := some (act1 .handover), phase := 5 }, act1 .handover, 0, true, by decide +kernel⟩
  · exact ⟨sUpd { activation := some (act1 .handover), phase := 5 }, act1 .handover, 0, false, 0, by decide +kernel⟩
  · exact ⟨sUpd { activation := some (act1 .handover), phase := 5 }, act1 .handover, 1, true, 1, by decide +kernel⟩
  · exact ⟨sUpd { activation := some (act1 .handover), phase := 6 }, act1 .handover, 0, true, by decide +kernel⟩
  · exact ⟨{ sUpd { activation := some (act1 .handover), phase := 6 } with cn := 500 }, act1 .handover, 0, true,
    by decide +kernel⟩
  · exact ⟨{ sUpd { activation := some (act1 .handover), phase := 6 } with cn := 499 }, act1 .handover, 0, true,
    by decide +kernel⟩
  · exact ⟨{ sUpd { activation := some (act1 .handover), phase := 6, caughtUp := true } with cn := 65535 }, act1
    .handover, 0, true, by decide +kernel⟩
  · exact ⟨sUpd { activation := some (act1 .handover), phase := 6, caughtUp := true }, act1 .handover, 0, true,
    by decide +kernel⟩
  · exact
    ⟨{ sUpd { activation := some (act1 .reboot), phase := 7 } with can := { State.reset.can with loaded := true } },
    act1 .reboot, 0, true, by decide +kernel⟩
  · exact
    ⟨{ sUpd { activation := some (act1 .reboot), phase := 7 } with can := { State.reset.can with loaded := true } },
    act1 .reboot, 1, true, 1, by decide +kernel⟩
  · exact ⟨{ sUpd { activation := some (act1 .reboot), phase := 8, checks := 0x7F } with cn := 45000 }, act1 .reboot,
    0, true, by decide +kernel⟩
  · exact ⟨{ sUpd { activation := some (act1 .handover), phase := 8, checks := 0x7F } with cn := 45000 }, act1
    .handover, 0, true, by decide +kernel⟩
  · exact ⟨{ sUpd { activation := some (act1 .handover), phase := 8, checks := 0x7F } with cn := 44999 }, act1
    .handover, 0, true, by decide +kernel⟩
  · exact
    ⟨{ sUpd { activation := some { act1 .reboot with committed := true }, phase := 8 } with ford := { State.reset.ford with safeHold := true } },
    { act1 .reboot with committed := true }, 0, true, 6, .busy, by decide +kernel⟩
  · exact ⟨sUpd { activation := some { act1 .reboot with committed := true }, phase := 8 },
    { act1 .reboot with committed := true }, 0, true, 6, .busy, by decide +kernel⟩
  · exact ⟨sFord { b := { state := .quarantined, rewriting := true } }, .b, by decide +kernel⟩
  · exact ⟨sFord { b := { state := .standby, rewriting := true, otherImage := true } }, .b, by decide +kernel⟩
  · exact ⟨sFord { b := { state := .learning, rewriting := true, otherImage := true } }, .b, by decide +kernel⟩

theorem wit_MonitorRefusesAndMutes :
    (∃ (s : State) (role : Role) (proof : List Byte) (chal : List Byte) (rate : Nat) (count : Nat) (q : Nat) (seq :
      Nat) (minutes : Nat) (phy : Nat) (channel : Nat) (power : Nat) (seconds : Nat) (stand : Stand) (addr : Word)
      (value : Word) (malformed : Bool) (i : Instr), s.live = true ∧ s.mon.muted s.cn = true) ∧
    (∃ (s : State) (role : Role) (addr : Word) (value : Word) (count : Nat) (q : Nat) (seq : Nat) (chal : List Byte)
      (i : Instr), s.live = true ∧ s.mon.muted s.cn = false ∧ s.sys.bootPhase = 5) ∧
    (∃ (s : State) (stand : Stand) (addr : Word) (value : Word) (count : Nat) (i : Instr), s.live = true ∧
      s.mon.muted s.cn = false ∧ s.sys.bootPhase ≠ 5 ∧ s.mon.role = .nobody ∧ s.mon.violations = []) ∧
    (∃ (s : State) (stand : Stand) (addr : Word) (value : Word) (count : Nat) (i : Instr), s.live = true ∧
      s.mon.muted s.cn = false ∧ s.sys.bootPhase ≠ 5 ∧ s.mon.role = .nobody ∧ (s.mon.violations.filter fun x =>
      decide (s.cn < x + 1000)).length = 15 ∧ s.mon.reads = 0 ∧ s.mon.others = 0) ∧
    (∃ (s : State), s.live = true ∧ s.mon.muted s.cn = false ∧ s.sys.bootPhase ≠ 5 ∧ s.mon.violations = []) ∧
    (∃ (s : State) (m : Cn), s.live = true ∧ s.mon.muteEnd = some m ∧ m ≤ s.cn) ∧
    (∃ (s : State) (m : Cn), s.live = true ∧ s.mon.muteEnd = some m ∧ s.cn < m) ∧
    (∃ (s : State), s.live = true ∧ s.mon.lastInput + 6000 ≤ s.cn) ∧
    (∃ (s : State), s.live = true ∧ s.cn < s.mon.lastInput + 6000) := by
  refine ⟨?_, ?_, ?_, ?_, ?_, ?_, ?_, ?_, ?_⟩
  · exact ⟨{ State.reset with mon := { muteEnd := some 9 } }, .operator, [], [], 0, 0, 0, 0, 0, 0, 0, 0, 0, .a, 0, 0,
    true, (Instr.monHelp), by decide +kernel⟩
  · exact ⟨sSys { bootPhase := 5 }, .operator, 0, 0, 0, 0, 0, [], (Instr.monHelp), by decide +kernel⟩
  · exact ⟨State.reset, .a, 0, 0, 0, Instr.monSel .a, by decide +kernel⟩
  · exact ⟨{ State.reset with mon := { violations := List.replicate 15 0 } }, .a, 0, 0, 0, Instr.monSel .a,
    by decide +kernel⟩
  · exact ⟨State.reset, by decide +kernel⟩
  · exact ⟨{ State.reset with cn := 9, mon := { muteEnd := some 9 } }, 9, by decide +kernel⟩
  · exact ⟨{ State.reset with cn := 8, mon := { muteEnd := some 9 } }, 9, by decide +kernel⟩
  · exact ⟨{ State.reset with cn := 6000 }, by decide +kernel⟩
  · exact ⟨{ State.reset with cn := 5999 }, by decide +kernel⟩

theorem wit_MonitorRolesAreGranted :
    (∃ (s : State) (role : Role), s.live = true ∧ s.mon.muted s.cn = false ∧ s.sys.bootPhase ≠ 5 ∧ role ≠ .nobody) ∧
    (∃ (s : State) (n : Nonce), s.live = true ∧ s.mon.muted s.cn = false ∧ s.sys.bootPhase ≠ 5 ∧ s.mon.nonce = some n
      ∧ s.cn ≤ n.at_ + 250 ∧ s.slotLive (roleSlot n.role) = true) ∧
    (∃ (s : State) (n : Nonce) (proof : List Byte), s.live = true ∧ s.mon.muted s.cn = false ∧ s.sys.bootPhase ≠ 5 ∧
      s.mon.nonce = some n ∧ s.cn ≤ n.at_ + 250 ∧ s.slotLive (roleSlot n.role) = true ∧ proof.length = 32 ∧ proof ≠
      s.proofOf n.role 1 (s.monInput n) ∧ s.mon.violations = []) ∧
    (∃ (s : State) (n : Nonce), s.live = true ∧ s.mon.nonce = some n ∧ n.at_ + 250 < s.cn) ∧
    (∃ (s : State) (n : Nonce), s.live = true ∧ s.mon.nonce = some n ∧ s.cn ≤ n.at_ + 250) ∧
    (∃ (s : State), s.live = true ∧ s.mon.muted s.cn = false ∧ s.sys.bootPhase ≠ 5) ∧
    (∃ (s : State) (rate : Nat), s.live = true ∧ s.mon.muted s.cn = false ∧ s.sys.bootPhase ≠ 5 ∧ rate ∈ monRates) ∧
    (∃ (s : State) (stand : Stand), s.live = true ∧ s.mon.muted s.cn = false ∧ s.sys.bootPhase ≠ 5 ∧ s.mon.role ≠
      .nobody ∧ ((stand = .a ∨ s.build = .t))) := by
  refine ⟨?_, ?_, ?_, ?_, ?_, ?_, ?_, ?_⟩
  · exact ⟨State.reset, .operator, by decide +kernel⟩
  · exact ⟨sNon, non0, by decide +kernel⟩
  · exact ⟨sNon, non0, wrong0,
    by (exact ⟨by decide +kernel, by decide +kernel, by decide +kernel, by decide +kernel, by decide +kernel, by decide +kernel, wrong0_length, wrong0_ne, by decide +kernel⟩)⟩
  · exact ⟨{ sNon with cn := 251 }, non0, by decide +kernel⟩
  · exact ⟨{ sNon with cn := 249 }, non0, by decide +kernel⟩
  · exact ⟨State.reset, by decide +kernel⟩
  · exact ⟨State.reset, 3000000, by decide +kernel⟩
  · exact ⟨sMon .operator, .b, by decide +kernel⟩

theorem wit_MonitorReadsChangeNothing :
    (∃ (s : State), s.live = true ∧ s.mon.muted s.cn = false ∧ s.sys.bootPhase ≠ 5) ∧
    (∃ (s : State) (addr : Word) (count : Nat), s.live = true ∧ s.mon.muted s.cn = false ∧ s.sys.bootPhase ≠ 5 ∧
      s.mon.role ≠ .nobody ∧ rangeOk addr.toNat count = true) ∧
    (∃ (s : State) (addr : Word) (count : Nat), s.live = true ∧ s.mon.muted s.cn = false ∧ s.sys.bootPhase ≠ 5 ∧
      s.mon.role ≠ .nobody ∧ rangeOk addr.toNat count = true) ∧
    (∃ (s : State) (q : Nat) (count : Nat), s.live = true ∧ s.mon.muted s.cn = false ∧ s.sys.bootPhase ≠ 5 ∧
      s.mon.role ≠ .nobody ∧ q < 128 ∧ count ≤ 64) ∧
    (∃ (s : State) (seq : Nat) (count : Nat), s.live = true ∧ s.mon.muted s.cn = false ∧ s.sys.bootPhase ≠ 5 ∧
      s.mon.role ≠ .nobody ∧ seq < 4294967296 ∧ 1 ≤ count ∧ count ≤ 64) ∧
    (∃ (s : State) (seq : Nat) (count : Nat), s.live = true ∧ s.mon.muted s.cn = false ∧ s.sys.bootPhase ≠ 5 ∧
      s.mon.role ≠ .nobody ∧ seq < 4294967296 ∧ 1 ≤ count ∧ count ≤ 64) ∧
    (∃ (s : State) (i : Instr), s.live = true ∧ s.mon.muted s.cn = false ∧ s.sys.bootPhase ≠ 5 ∧ s.mon.role ≠
      .nobody) ∧
    (∃ (s : State) (chal : List Byte), s.live = true ∧ s.mon.muted s.cn = false ∧ s.sys.bootPhase ≠ 5 ∧ s.mon.role ≠
      .nobody ∧ chal.length = 32 ∧ (s.slot 5).state = .live) := by
  refine ⟨?_, ?_, ?_, ?_, ?_, ?_, ?_, ?_⟩
  · exact ⟨State.reset, by decide +kernel⟩
  · exact ⟨sMon .operator, 0x40020000, 1, by decide +kernel⟩
  · exact ⟨sMon .operator, 0x40020000, 64, by decide +kernel⟩
  · exact ⟨{ sQ [{ data := 0, parity := false }] with mon := { role := .operator } }, 3, 1, by decide +kernel⟩
  · exact ⟨{ sMon .operator with way := { ring := [rec0], newest := 5 } }, 5, 1, by decide +kernel⟩
  · exact ⟨{ sMon .operator with way := { ring := [rec0], newest := 5 } }, 4294967295, 64, by decide +kernel⟩
  · exact ⟨sMon .operator, (Instr.monStatus), by decide +kernel⟩
  · exact
    ⟨{ sMon .operator with key := { State.reset.key with slots := lset 5 { state := .live } State.reset.key.slots } },
    List.replicate 32 0, by decide +kernel⟩

theorem wit_MonitorInstallerCommands :
    (∃ (s : State) (value : Word), s.live = true ∧ s.mon.muted s.cn = false ∧ s.sys.bootPhase ≠ 5 ∧ s.mon.role =
      .installer ∧ canonicalRegs s.regs = true) ∧
    (∃ (s : State) (seq : Nat), s.live = true ∧ s.mon.muted s.cn = false ∧ s.sys.bootPhase ≠ 5 ∧ s.mon.role =
      .installer ∧ seq < 4294967296 ∧ seq ≠ s.way.newest) ∧
    (∃ (s : State) (l : List Rec) (r : Rec), s.live = true ∧ s.mon.muted s.cn = false ∧ s.sys.bootPhase ≠ 5 ∧
      s.mon.role = .installer ∧ s.way.ring = l ++ [r] ∧ r.id ≠ 1 ∧ s.fsp.pushLog = [] ∧ 1 ≤ s.way.capacity ∧
      s.way.newest < 4294967296) ∧
    (∃ (s : State) (minutes : Nat), s.live = true ∧ s.mon.muted s.cn = false ∧ s.sys.bootPhase ≠ 5 ∧ s.mon.role =
      .installer ∧ 1 ≤ minutes ∧ minutes ≤ 480 ∧ s.key.state ≠ .tampered) ∧
    (∃ (s : State) (minutes : Nat), s.live = true ∧ s.mon.muted s.cn = false ∧ s.sys.bootPhase ≠ 5 ∧ s.mon.role =
      .installer ∧ 1 ≤ minutes ∧ minutes ≤ 480 ∧ s.key.state ≠ .tampered) ∧
    (∃ (s : State), s.live = true ∧ s.mon.muted s.cn = false ∧ s.sys.bootPhase ≠ 5 ∧ s.mon.role = .installer ∧
      s.key.state ≠ .tampered) ∧
    (∃ (s : State), s.live = true ∧ s.mon.muted s.cn = false ∧ s.sys.bootPhase ≠ 5 ∧ s.mon.role = .installer ∧
      s.key.state = .tampered ∧ s.tmpActiveMask = 0 ∧ s.key.meshOk = true ∧ s.key.slots.length = 64) ∧
    (∃ (s : State) (phy : Nat) (channel : Nat) (power : Nat) (seconds : Nat), s.live = true ∧ s.mon.muted s.cn =
      false ∧ s.sys.bootPhase ≠ 5 ∧ s.mon.role = .installer ∧ s.testOk phy channel power seconds = true ∧ s.testFree
      = false) ∧
    (∃ (s : State) (phy : Nat) (channel : Nat) (power : Nat) (seconds : Nat), s.live = true ∧ s.mon.muted s.cn =
      false ∧ s.sys.bootPhase ≠ 5 ∧ s.mon.role = .installer ∧ s.testOk phy channel power seconds = true ∧ s.testFree
      = true ∧ s.dutyFits 8 (s.rad.profile.bandOf channel) (seconds * 3000000) false = true) ∧
    (∃ (s : State) (x : RfTest), s.live = true ∧ s.mon.rfTest = some x ∧ x.endCn ≤ s.cn) ∧
    (∃ (s : State) (x : RfTest), s.live = true ∧ s.mon.rfTest = some x ∧ s.cn < x.endCn ∧ s.trx8Free = true ∧
      s.trxState 8 = 2) ∧
    (∃ (s : State) (addr : Word) (value : Word) (minutes : Nat) (seq : Nat) (i : Instr), s.live = true ∧ s.mon.muted
      s.cn = false ∧ s.sys.bootPhase ≠ 5 ∧ s.mon.role = .operator ∧ s.mon.violations = []) := by
  refine ⟨?_, ?_, ?_, ?_, ?_, ?_, ?_, ?_, ?_, ?_, ?_, ?_⟩
  · exact ⟨sMon .installer, 0, by decide +kernel⟩
  · exact ⟨sMon .installer, 9, by decide +kernel⟩
  · exact ⟨{ sMon .installer with way := { ring := [rec0], newest := 5 } }, [], rec0, by decide +kernel⟩
  · exact ⟨sMon .installer, 1, by decide +kernel⟩
  · exact ⟨sMon .installer, 480, by decide +kernel⟩
  · exact ⟨sMon .installer, by decide +kernel⟩
  · exact ⟨{ sMon .installer with key := { State.reset.key with state := .tampered, meshOk := true } },
    by decide +kernel⟩
  · exact ⟨{ sRf .installer with regs := [] }, 0, 0, 0, 1, by decide +kernel⟩
  · exact ⟨sRf .installer, 0, 0, 0, 60, by decide +kernel⟩
  · exact ⟨{ sRf .installer with cn := 50, mon := { rfTest := some test0 } }, test0, by decide +kernel⟩
  · exact ⟨{ sRf .installer with cn := 49, mon := { rfTest := some test0 } }, test0, by decide +kernel⟩
  · exact ⟨sMon .operator, 0, 0, 1, 0, Instr.monWr 0 0, by decide +kernel⟩

theorem wit_ContactorsAreOpenAtTheStop :
    (∃ (s : State), s.live = true ∧ s.supplied = false ∧ s.sys.powerFail = true) := by
  exact ⟨sSys { powerFail := true }, by decide +kernel⟩

theorem wit_StepRunsTheFrontCommand :
    (∃ (s : State), s.pending = []) := by
  exact ⟨State.reset, by decide +kernel⟩

theorem wit_CommandsOnlyAddToTheOutput :
    (∃ (i : Instr) (s : State) (t : State), exec i s = .next t) := by
  exact ⟨.ethLinkChange 0 true, State.reset,
    { State.reset with fld := { State.reset.fld with ethUp := [true, false] } }, by exact rfl⟩

theorem wit_EveryStepKeepsTheInvariant :
    (∃ (s : State) (t : State), s.Inv ∧ step s = .next t) := by
  exact ⟨{ State.reset with pending := [.ethLinkChange 0 true] },
    { State.reset with fld := { State.reset.fld with ethUp := [true, false] } },
    by (exact ⟨⟨by decide +kernel, by decide +kernel, by decide +kernel, by decide +kernel, by decide +kernel⟩, rfl⟩)⟩

end Sys2Proof.Tests
end

section
/-! What CYC does to SAFE HOLD (01, 12, 15). -/

namespace Sys2Proof.Machine

/-- Of a counted CYCLE_TICK the cycle alone reaches Ford: the readings of the store and of the power meters do not. -/
theorem exec_cycleTick_ford {s t : State} {sums : List PhaseSum} {rms : List Nat} {clipped : List (Fin 16)}
    {busy : List Nat} {power mj : Fin 65536} {pct : Fin 256} (live : s.live = true) (counting : s.time.counting = true)
    (next : exec (.cycleTick sums rms clipped busy power mj pct) s = .next t) :
    t.ford = (s.cycle sums rms clipped busy).ford := by
  change execCycleTick sums rms clipped busy power mj pct s = .next t at next
  rw [execCycleTick, State.whenLive_live live, counting, State.iff_true] at next
  generalize s.cycle sums rms clipped busy = c at next ⊢
  cases next
  rfl

/-- Refutes O7: its SAFE HOLD clause leaves out the reboot of a fallback. On the S build the Drover restores the previous
image in SAFE HOLD and reboots (R516, R517): at CYC of the activation CN the stand, which is not QUARANTINED, starts anew and
Ford no longer shows SAFE HOLD. The counterexample stands one cycle before that CYC, as `State.fallBack` leaves it: the new
image was committed and has withdrawn, and no re-base waits. -/
theorem not_cyclesAndMidpointsCountOn : ¬ Obligations.CyclesAndMidpointsCountOn := by
  rintro ⟨⟨-, safeHoldClause, -⟩, -⟩
  obtain ⟨t, next, -, -, -, -, stillHeld, -⟩ := safeHoldClause
    { build := .s, cn := 2000
      time := { counting := true }
      can := { loaded := true }
      ford := {
        a := { state := .withdrawn }, b := { state := .absent }, safeHold := true, shadowCn := 2000, shadowSlot := 10000000 }
      upd := {
        phase := 0x0C, phaseCn := 2000
        activation := some {
          path := .reboot, seq := 1, digest := 0, session := 1, cn := 2001, window := 60, committed := true, back := true } }
      sys := { phase := .running } }
    [] [] [] [] 0 0 0 rfl rfl rfl rfl
  rw [exec_cycleTick_ford rfl rfl next] at stillHeld
  exact absurd stillHeld (by decide +kernel)

end Sys2Proof.Machine
end

section
/-! What a write of a described register comes to (R15 to R18, R605). -/

namespace Sys2Proof.Machine

/-! Masks and fields. -/

theorem merge_testBit (m old new i : Nat) :
    (merge m old new).testBit i = if m.testBit i then new.testBit i else old.testBit i := by
  simp only [merge, Nat.testBit_xor, Nat.testBit_and]
  cases m.testBit i <;> cases old.testBit i <;> cases new.testBit i <;> rfl

@[simp] theorem merge_zero (old new : Nat) : merge 0 old new = old := by
  simp [merge]

theorem merge_lt {m old : Nat} (new : Nat) (hm : m < 4294967296) (ho : old < 4294967296) :
    merge m old new < 4294967296 :=
  Nat.xor_lt_two_pow (n := 32) (Nat.and_lt_two_pow _ hm) ho

theorem field_testBit (hi lo x i : Nat) :
    (field hi lo x).testBit i = (decide (i < hi + 1 - lo) && x.testBit (lo + i)) := by
  simp [field, Nat.testBit_mod_two_pow, Nat.testBit_shiftRight]

/-- A field that a mask covers comes from the word written. -/
theorem field_merge {hi lo m : Nat} (old new : Nat) (covers : ∀ i < hi + 1 - lo, m.testBit (lo + i) = true) :
    field hi lo (merge m old new) = field hi lo new := by
  refine Nat.eq_of_testBit_eq fun i => ?_
  rw [field_testBit, field_testBit]
  by_cases h : i < hi + 1 - lo
  · rw [merge_testBit, covers i h, if_pos rfl]
  · simp [h]

/-- A field stays where bits outside it are set. -/
theorem field_or {hi lo m : Nat} (x : Nat) (outside : ∀ i < hi + 1 - lo, m.testBit (lo + i) = false) :
    field hi lo (x ||| m) = field hi lo x := by
  refine Nat.eq_of_testBit_eq fun i => ?_
  rw [field_testBit, field_testBit]
  by_cases h : i < hi + 1 - lo
  · rw [Nat.testBit_or, outside i h, Bool.or_false]
  · simp [h]

theorem field_lt (hi lo x : Nat) : field hi lo x < 2 ^ (hi + 1 - lo) :=
  Nat.mod_lt _ (Nat.two_pow_pos _)

/-! A stored register. -/

theorem State.reg_lt (s : State) {a : Nat} (reset : resetWord a < 4294967296) : s.reg a < 4294967296 := by
  unfold State.reg
  split
  · exact BitVec.isLt _
  · exact reset

/-- A stored register reads by the stored words alone. -/
theorem State.reg_congr {s t : State} (same : t.regs = s.regs) (a : Nat) : t.reg a = s.reg a := by
  simp only [State.reg, same]

theorem RegsWith.congr {s s' t t' : State} {a v : Nat} (h : RegsWith s t a v) (before : s'.regs = s.regs)
    (after : t'.regs = t.regs) : RegsWith s' t' a v :=
  ⟨(State.reg_congr after a).trans h.1, fun b other =>
    (State.reg_congr after b).trans ((h.2 b other).trans (State.reg_congr before b).symm)⟩

theorem State.setReg_regsWith {s : State} (canonical : canonicalRegs s.regs = true) (a v : Nat) :
    RegsWith s (s.setReg a v) a (v % 4294967296) := by
  have sorted : tsorted s.regs = true := (Bool.and_eq_true_iff.1 canonical).1
  exact ⟨State.reg_setReg_same sorted a v, fun b other => State.reg_setReg_ne sorted v other⟩

/-! The rules of a write. -/

/-- What a description's rule makes of a write: its outcome before any side effect. -/
def State.ruled (s : State) (d : RegDesc) (a v : Nat) (w : Writer) : Written :=
  writeRule d w.role s.mtr.sealOpen (regOk s a) (s.reg a) (v % 4294967296)

theorem State.writeReg_written {s : State} {a : Nat} {d : RegDesc} (desc : descOf a = some d) (v : Nat) (w : Writer) :
    (s.writeReg a v w).2 = s.ruled d a v w := by
  simp only [State.writeReg, State.writeQuiet, desc]
  split <;> rfl

theorem State.recordWrite_regs (s : State) (w : Writer) (r : Reason) (a old new : Nat) :
    (s.recordWrite w r a old new).regs = s.regs :=
  (State.recordWrite_fr (bl := { evt := true, way := true }) w r a old new rfl (.refl _ s)).regs rfl

theorem State.recordRefused_regs (s : State) (w : Writer) (r : Written) (a v : Nat) :
    (s.recordRefused w r a v).regs = s.regs :=
  (State.recordRefused_fr (bl := { evt := true, way := true }) w r a v rfl (.refl _ s)).regs rfl

theorem State.writeReg_regs {s : State} {a : Nat} {d : RegDesc} (desc : descOf a = some d) (v : Nat) (w : Writer) :
    (s.writeReg a v w).1.regs = (s.setReg a (s.ruled d a v w).new).regs := by
  simp only [State.writeReg, State.writeQuiet, desc]
  split
  · rw [State.recordWrite_regs, State.recordRefused_regs]; rfl
  · rw [State.recordRefused_regs]; rfl

theorem State.writeReg_keeps (s : State) (a v : Nat) (w : Writer) :
    Keeps { evt := true, regs := true, way := true } s (s.writeReg a v w).1 :=
  State.writeReg_fr a v w rfl (.refl _ s)

/-- After a write the register reads the word its rule gives, and every other one as before. -/
theorem State.writeReg_regsWith {s : State} {a : Nat} {d : RegDesc} (canonical : canonicalRegs s.regs = true)
    (desc : descOf a = some d) (v : Nat) (w : Writer) :
    RegsWith s (s.writeReg a v w).1 a ((s.ruled d a v w).new % 4294967296) :=
  (State.setReg_regsWith canonical a _).congr rfl (State.writeReg_regs desc v w)

/-- A writer may change a description's RWL fields: it holds the role, and the seal does not close them (R17, R304). -/
def RegDesc.opensTo (d : RegDesc) (w : Writer) (sealOpen : Bool) : Bool :=
  mayLocked d w.role && !(d.metrology && !sealOpen)

/-- The word of a write whose fields are within their ranges: RW fields from anyone, RWL fields where they are open. -/
def RegDesc.merged (d : RegDesc) (opens : Bool) (old v : Nat) : Nat :=
  merge d.rw (if opens then merge d.rwl old v else old) v

/-- A write within its ranges stores the merged word, and its action bits take effect (R16, R17, R605). -/
theorem State.ruled_of_inRanges {s : State} {d : RegDesc} {a v new : Nat} {w : Writer}
    (word : d.merged (d.opensTo w s.mtr.sealOpen) (s.reg a) (v % 4294967296) = new)
    (fits : (inRanges d new && regOk s a new) = true) :
    (s.ruled d a v w).new = new ∧ (s.ruled d a v w).act = masked d.wo (v % 4294967296)
      ||| (if d.opensTo w s.mtr.sealOpen then masked d.act (v % 4294967296) else 0) := by
  subst word
  unfold State.ruled writeRule
  extract_lets may shut lock new tried reason act
  split
  case isTrue refused =>
    have outside : (inRanges d new && regOk s a new) = false := by
      rw [Bool.and_eq_true, Bool.not_eq_true'] at refused
      exact refused.2
    exact absurd (fits.symm.trans outside) (by decide)
  case isFalse => exact ⟨rfl, rfl⟩

/-- A write within its ranges leaves the merged word in its register alone. -/
theorem State.writeReg_merged {s : State} {d : RegDesc} {a v new : Nat} {w : Writer}
    (canonical : canonicalRegs s.regs = true) (desc : descOf a = some d) (small : new < 4294967296)
    (word : d.merged (d.opensTo w s.mtr.sealOpen) (s.reg a) (v % 4294967296) = new)
    (fits : (inRanges d new && regOk s a new) = true) : RegsWith s (s.writeReg a v w).1 a new := by
  have stored := State.writeReg_regsWith canonical desc v w
  rwa [(State.ruled_of_inRanges word fits).1, Nat.mod_eq_of_lt small] at stored

/-- The description of TIME_MAINS_CFG (Table 2.5). -/
def mainsCfgDesc : RegDesc :=
  { name := "TIME_MAINS_CFG", base := 0x40020050, reset := 0x320032, rwl := 0xFF00FF
    ranges := [(16, 23, 30, 100), (0, 7, 50, 60)] }

theorem descOf_mainsCfg : descOf 0x40020050 = some mainsCfgDesc := rfl

/-- The description of TIME_SYNC_CTRL (Table 2.8). -/
def syncCtrlDesc : RegDesc :=
  { name := "TIME_SYNC_CTRL", base := 0x40020090, reset := 0xA00, rwl := 0xFF03, act := 0x10000
    ranges := [(8, 15, 1, 255)] }

theorem descOf_syncCtrl : descOf 0x40020090 = some syncCtrlDesc := rfl

/-- The description of TIME_SERVO_KP (Table 2.5), a plain field. -/
def servoKpDesc : RegDesc :=
  { name := "TIME_SERVO_KP", base := 0x40020030, reset := 0x80, rw := 0xFFFF }

theorem descOf_servoKp : descOf 0x40020030 = some servoKpDesc := rfl

/-- The description of RAD_PAN_ID (Table 3.13), a field kept for the INSTALLER. -/
def panIdDesc : RegDesc :=
  { name := "RAD_PAN_ID", base := 0x40070008, reset := 0xFFFF, rwl := 0xFFFF }

theorem descOf_panId : descOf 0x40070008 = some panIdDesc := rfl

/-- An INSTALLER's write of TIME_MAINS_CFG within its ranges (R61, R605). -/
theorem mainsCfg_regsWith {s : State} {v : Nat} {w : Writer} (canonical : canonicalRegs s.regs = true)
    (installer : w.role = .installer) (word : v < 4294967296) (nominal : field 7 0 v = 50 ∨ field 7 0 v = 60)
    (least : 30 ≤ field 23 16 v) (most : field 23 16 v ≤ 100) :
    RegsWith s (s.writeReg 0x40020050 v w).1 0x40020050 (merge 0xFF00FF (s.reg 0x40020050) v) := by
  have nominalKept : field 7 0 (merge 0xFF00FF (s.reg 0x40020050) v) = field 7 0 v := field_merge _ _ (by decide)
  have timeoutKept : field 23 16 (merge 0xFF00FF (s.reg 0x40020050) v) = field 23 16 v := field_merge _ _ (by decide)
  refine State.writeReg_merged canonical descOf_mainsCfg (merge_lt v (by decide) (s.reg_lt (by decide))) ?_ ?_
  · simp [RegDesc.merged, RegDesc.opensTo, mayLocked, mainsCfgDesc, installer, Nat.mod_eq_of_lt word]
  · simp [inRanges, regOk, mainsCfgDesc, nominalKept, timeoutKept]
    omega

/-- An INSTALLER's write of TIME_SYNC_CTRL with REALIGN and a MINW within its range takes REALIGN (R79, R605). -/
theorem syncCtrl_act {s : State} {v : Nat} {w : Writer} (installer : w.role = .installer) (word : v < 4294967296)
    (least : 1 ≤ field 15 8 v) (realign : v.testBit 16 = true) : (s.writeReg 0x40020090 v w).2.act ≠ 0 := by
  have minwKept : field 15 8 (merge 0xFF03 (s.reg 0x40020090) v) = field 15 8 v := field_merge _ _ (by decide)
  have most : field 15 8 v < 256 := field_lt 15 8 v
  have act := (State.ruled_of_inRanges (s := s) (d := syncCtrlDesc) (a := 0x40020090) (v := v) (w := w)
    (new := merge 0xFF03 (s.reg 0x40020090) v)
    (by simp [RegDesc.merged, RegDesc.opensTo, mayLocked, syncCtrlDesc, installer, Nat.mod_eq_of_lt word])
    (by simp [inRanges, regOk, syncCtrlDesc, minwKept]; omega)).2
  have asked : v &&& 0x10000 ≠ 0 := fun absent => by
    have bit16 := congrArg (Nat.testBit · 16) absent
    simp [realign, Nat.testBit_and] at bit16
    exact absurd bit16 (by decide)
  rw [State.writeReg_written descOf_syncCtrl, act]
  simpa [RegDesc.opensTo, mayLocked, syncCtrlDesc, installer, Nat.mod_eq_of_lt word, masked] using asked

/-- A write of TIME_SERVO_KP, under any role (R16). -/
theorem servoKp_regsWith {s : State} {v : Nat} {w : Writer} (canonical : canonicalRegs s.regs = true)
    (word : v < 4294967296) :
    RegsWith s (s.writeReg 0x40020030 v w).1 0x40020030 (merge 0xFFFF (s.reg 0x40020030) v) := by
  refine State.writeReg_merged canonical descOf_servoKp (merge_lt v (by decide) (s.reg_lt (by decide))) ?_ ?_
  · simp [RegDesc.merged, servoKpDesc, Nat.mod_eq_of_lt word]
  · simp [inRanges, regOk, servoKpDesc]

theorem servoKp_reason {s : State} {v : Nat} {w : Writer} : (s.writeReg 0x40020030 v w).2.reason = .ok := by
  rw [State.writeReg_written descOf_servoKp]
  simp [State.ruled, writeRule, servoKpDesc, masked, inRanges, regOk]

/-- An INSTALLER's write of RAD_PAN_ID (R17). -/
theorem panId_regsWith {s : State} {v : Nat} {w : Writer} (canonical : canonicalRegs s.regs = true)
    (word : v < 4294967296) (installer : w.role = .installer) :
    RegsWith s (s.writeReg 0x40070008 v w).1 0x40070008 (merge 0xFFFF (s.reg 0x40070008) v) := by
  refine State.writeReg_merged canonical descOf_panId (merge_lt v (by decide) (s.reg_lt (by decide))) ?_ ?_
  · simp [RegDesc.merged, RegDesc.opensTo, mayLocked, panIdDesc, installer, Nat.mod_eq_of_lt word]
  · simp [inRanges, regOk, panIdDesc]

/-- A write of RAD_PAN_ID under another role leaves every register as it reads (R17). -/
theorem panId_reg_of_not_installer {s : State} {v : Nat} {w : Writer} (canonical : canonicalRegs s.regs = true)
    (other : w.role ≠ .installer) (b : Nat) : (s.writeReg 0x40070008 v w).1.reg b = s.reg b := by
  have kept : RegsWith s (s.writeReg 0x40070008 v w).1 0x40070008 (s.reg 0x40070008) := by
    refine State.writeReg_merged canonical descOf_panId (s.reg_lt (by decide)) ?_ ?_
    · simp [RegDesc.merged, RegDesc.opensTo, mayLocked, panIdDesc, other]
    · simp [inRanges, regOk, panIdDesc]
  by_cases same : b = 0x40070008
  · rw [same, kept.1]
  · exact kept.2 b same

end Sys2Proof.Machine
end

section
/-! City time and its sources: the snapshot, and the loss of the source in use (02). -/

namespace Sys2Proof.Machine

/-! A part of a list by its index. -/

theorem lget_lmod_same {α : Type} (d : α) (f : α → α) {n : Nat} {l : List α} (h : n < l.length) :
    lget d n (lmod f n l) = f (lget d n l) := by
  fun_induction lmod f n l with
  | case1 => simp at h
  | case2 => rfl
  | case3 n x r ih => exact ih (Nat.lt_of_succ_lt_succ h)

/-! The happenings of the TIME block are events and records: the block itself stays as it is. -/

theorem State.timebaseEvent_keeps (s : State) (kind port : Nat) :
    Keeps { evt := true, way := true } s (s.timebaseEvent kind port) :=
  State.timebaseEvent_fr kind port rfl (.refl _ s)

theorem State.mainsEvent_keeps (s : State) (kind : Nat) : Keeps { evt := true, way := true } s (s.mainsEvent kind) :=
  State.mainsEvent_fr kind rfl (.refl _ s)

theorem State.syncEvent_keeps (s : State) (kind : Nat) (d : Int) : Keeps { evt := true, way := true } s (s.syncEvent kind d) :=
  State.syncEvent_fr kind d rfl (.refl _ s)

@[simp] theorem State.timebaseEvent_time (s : State) (kind port : Nat) : (s.timebaseEvent kind port).time = s.time :=
  (s.timebaseEvent_keeps kind port).time rfl

@[simp] theorem State.mainsEvent_time (s : State) (kind : Nat) : (s.mainsEvent kind).time = s.time :=
  (s.mainsEvent_keeps kind).time rfl

@[simp] theorem State.mainsEvent_cn (s : State) (kind : Nat) : (s.mainsEvent kind).cn = s.cn :=
  (s.mainsEvent_keeps kind).cn rfl

@[simp] theorem State.syncEvent_time (s : State) (kind : Nat) (d : Int) : (s.syncEvent kind d).time = s.time :=
  (s.syncEvent_keeps kind d).time rfl

@[simp] theorem State.syncEvent_mtr (s : State) (kind : Nat) (d : Int) : (s.syncEvent kind d).mtr = s.mtr :=
  (s.syncEvent_keeps kind d).mtr rfl

/-! The snapshot (R45). -/

theorem exec_timeSnap_live {s : State} (live : s.live = true) (value : Word) (tick : Nat) :
    exec (.timeSnap value tick) s = .next ((s.advanceTo tick).iff (bit 0 value.toNat) State.snap) :=
  congrArg Host.Outcome.next (State.whenLive_live live _)

/-- Settles O1: the command is `State.snap` at the instant of the write, and only time passes before it. -/
theorem snapshotCopiesTimeAndCnTogether : Obligations.SnapshotCopiesTimeAndCnTogether := by
  intro s value tick live asked
  refine ⟨(s.advanceTo tick).snap, ?_, ?_, State.advanceTo_fr tick rfl (.refl _ s)⟩
  · rw [exec_timeSnap_live live, asked, State.iff_true]
  · rw [← State.advanceTo_tsc]
    rfl

/-! The loss of a source (R52, R55, Table 2.1). -/

theorem State.nextSource_eq_none {s : State} (h0 : s.time.valid0 = false) (h1 : s.time.valid1 = false)
    (hPps : s.time.validPps = false) : s.nextSource = none := by
  have invalid : ∀ x, s.sourceValid x = false
    | .ptp 0 => by simp [State.sourceValid, h0]
    | .ptp 1 => by simp [State.sourceValid, h1]
    | .pps => by simp [State.sourceValid, hPps]
  simp [State.nextSource, invalid]

/-- A locked timebase that loses its source with no other valid goes to HOLDOVER, where none is in use (log 29). -/
theorem State.sourceLost_holdover {s : State} (locked : s.time.tstate = .locked) (alone : s.nextSource = none) :
    s.sourceLost.time.tstate = .holdover ∧ s.sourceLost.time.source = none
      ∧ s.sourceLost.time.valid0 = s.time.valid0 ∧ s.sourceLost.time.validPps = s.time.validPps := by
  have lost : s.sourceLost = s.enterHoldover 2 := by simp only [State.sourceLost, alone, locked]
  rw [lost]
  simp [State.enterHoldover, TimeSt.setRate]

theorem exec_ptpSourceMiss_third {s : State} {p : Fin 2} (live : s.live = true) (inUse : s.time.source = some (.ptp p))
    (port : p.val < s.time.ports.length) (second : (lget {} p.val s.time.ports).syncMiss = 2) :
    exec (.ptpSourceMiss p false) s = .next (State.sourceLost { s with time :=
      let missed := { s.time with ports := lmod (PtpPort.miss false) p.val s.time.ports }
      if p = 0 then { missed with valid0 := false } else { missed with valid1 := false } }) := by
  have third : (lget {} p.val (lmod (PtpPort.miss false) p.val s.time.ports)).syncMiss = 3 := by
    rw [lget_lmod_same _ _ port]
    simp [PtpPort.miss, second]
  change execPtpSourceMiss p false s = _
  simp [execPtpSourceMiss, State.whenLive_live live, inUse, third]

theorem exec_ppsInMiss_counted {s : State} (live : s.live = true) (valid : s.time.validPps = true)
    (early : s.time.ppsMiss < 2) :
    exec .ppsInMiss s = .next { s with time := { s.time with ppsMiss := s.time.ppsMiss + 1 } } := by
  have count : satAdd 255 s.time.ppsMiss 1 = s.time.ppsMiss + 1 := by unfold satAdd; omega
  have short : ¬ 3 ≤ s.time.ppsMiss + 1 := by omega
  change execPpsInMiss s = _
  simp [execPpsInMiss, State.whenLive_live live, valid, count, short]

theorem exec_ppsInMiss_third {s : State} (live : s.live = true) (valid : s.time.validPps = true)
    (second : s.time.ppsMiss = 2) (inUse : s.time.source = some .pps) :
    exec .ppsInMiss s = .next (State.sourceLost { s with time := { s.time with ppsMiss := 3, validPps := false } }) := by
  change execPpsInMiss s = _
  simp [execPpsInMiss, State.whenLive_live live, valid, second, inUse, satAdd]

/-- The edge of PPS_IN that TIME_PPS_CTRL selects, with PPS_IN enabled (R55). -/
def State.ppsEdgeSelected (s : State) (rising : Bool) : Bool :=
  bit 0 (s.reg 0x400200A0) && decide (rising = !bit 1 (s.reg 0x400200A0))

/-- An edge that TIME_PPS_CTRL does not select shows at the pin alone. -/
theorem exec_ppsInEdge_unselected {s : State} {rising : Bool} (live : s.live = true) (tick : Nat)
    (other : s.ppsEdgeSelected rising = false) :
    exec (.ppsInEdge rising tick) s = .next { s.advanceTo tick with fld := { s.fld with ppsIn := rising } } := by
  change Host.Outcome.next (State.whenLive s _) = _
  rw [State.whenLive_live live]
  change Host.Outcome.next (State.iff _ (s.ppsEdgeSelected rising) _) = _
  rw [other]
  rfl

/-- The selected edge, while another source is in use: PPS_IN is valid again, and its offset reaches no servo. -/
theorem exec_ppsInEdge_selected {s : State} {rising : Bool} {p : Fin 2} (live : s.live = true) (tick : Nat)
    (edge : s.ppsEdgeSelected rising = true) (selects : s.selects .pps = true) (inUse : s.time.source = some (.ptp p)) :
    exec (.ppsInEdge rising tick) s = .next { s.advanceTo tick with
      fld := { s.fld with ppsIn := rising }
      time := { (s.advanceTo tick).time with validPps := true, ppsMiss := 0 } } := by
  have other : (s.advanceTo tick).time.source = some (.ptp p) := inUse
  change Host.Outcome.next (State.whenLive s _) = _
  rw [State.whenLive_live live]
  change Host.Outcome.next (State.iff _ (s.ppsEdgeSelected rising) _) = _
  rw [edge, State.iff_true]
  change Host.Outcome.next (State.iff _ (s.selects .pps) _) = _
  rw [selects, State.iff_true]
  simp [State.offset, State.takesFrom, other]

/-- Settles O2: the third miss is the loss of the source (`State.sourceLost_holdover`), and the edge and the earlier misses are
the cases of their commands. -/
theorem ppsMissesEnterHoldover : Obligations.PpsMissesEnterHoldover := by
  refine ⟨⟨?_, ?_⟩, ?_, ?_, ?_⟩
  · intro s live inUse port second locked noPtp1 noPps
    have next := exec_ptpSourceMiss_third live inUse port second
    refine ⟨_, next, ?_⟩
    obtain ⟨state, source, valid0, -⟩ := State.sourceLost_holdover
      (s := { s with time := { s.time with ports := lmod (PtpPort.miss false) 0 s.time.ports, valid0 := false } })
      locked (State.nextSource_eq_none rfl noPtp1 noPps)
    exact ⟨state, source, valid0, execPtpSourceMiss_fr 0 false next rfl (.refl _ s)⟩
  · intro s live valid second inUse locked noPtp0 noPtp1
    have next := exec_ppsInMiss_third live valid second inUse
    refine ⟨_, next, ?_⟩
    obtain ⟨state, source, -, validPps⟩ := State.sourceLost_holdover
      (s := { s with time := { s.time with ppsMiss := 3, validPps := false } })
      locked (State.nextSource_eq_none noPtp0 noPtp1 rfl)
    exact ⟨state, source, validPps, execPpsInMiss_fr next rfl (.refl _ s)⟩
  · intro s rising tick p live enabled edge selects inUse
    exact exec_ppsInEdge_selected live tick (by simp [State.ppsEdgeSelected, enabled, ← edge]) selects inUse
  · intro s rising tick live other
    refine exec_ppsInEdge_unselected live tick ?_
    rcases other with off | edge
    · simp [State.ppsEdgeSelected, off]
    · simp [State.ppsEdgeSelected, edge]
  · intro s live valid early
    exact exec_ppsInMiss_counted live valid early

end Sys2Proof.Machine
end

section
/-! The mains and SYNC_IN (01, 02). -/

namespace Sys2Proof.Machine

/-! The mains is absent (R70, R73). -/

theorem State.noteFreeRun_keeps (s : State) : Keeps { adm := true } s s.noteFreeRun :=
  State.noteFreeRun_fr rfl (.refl _ s)

@[simp] theorem State.noteFreeRun_time (s : State) : s.noteFreeRun.time = s.time :=
  s.noteFreeRun_keeps.time rfl

@[simp] theorem State.noteFreeRun_cn (s : State) : s.noteFreeRun.cn = s.cn :=
  s.noteFreeRun_keeps.cn rfl

/-- The TIME block when the mains becomes absent at an instant: no phase error is left, crossings are counted anew and an
attributed count runs free (R70, R73). -/
def TimeSt.lostMains (t : TimeSt) (at_ : Nat) : TimeSt :=
  { (t.absenceFrom at_) with
    absent := true, returning := [], returned := 0, phaseErr := 0
    mstate := if t.mstate = .unattributed then .unattributed else .freeRun }

theorem exec_mainsTimeout_absent {s : State} {tick v : Nat} (live : s.live = true) (present : s.time.absent = false)
    (counting : s.time.counting = true) (last : s.time.lastValid = some v)
    (late : v + 100000 * s.time.timeoutMs ≤ s.time.ref + (tick - s.time.tsc)) :
    exec (.mainsTimeout tick) s = .next
      (({ s.advanceTo tick with
          time := (s.advanceTo tick).time.lostMains (v + 100000 * s.time.timeoutMs) }).noteFreeRun.mainsEvent 1) := by
  change execMainsTimeout tick s = _
  simp [execMainsTimeout, State.whenLive_live live, State.mainsTimeout, State.advanceTo, State.advance, present, counting,
    last, late, TimeSt.lostMains]
  cases s.time.mstate <;> rfl

theorem exec_mainsCfgWrite_live {s : State} (live : s.live = true) (value : Word) (w : Writer) :
    exec (.mainsCfgWrite value w) s = .next (s.writeReg 0x40020050 value.toNat w).1 :=
  congrArg Host.Outcome.next (State.whenLive_live live _)

/-- Settles O4: an absence is `TimeSt.lostMains` with its event and the note of FREE_RUN; a write of TIME_MAINS_CFG stores its
word and nothing else. -/
theorem mainsTimeoutAndConfiguration : Obligations.MainsTimeoutAndConfiguration := by
  constructor
  · intro s tick v live present counting last late
    refine ⟨_, exec_mainsTimeout_absent live present counting last late, ?_⟩
    simp only [State.mainsEvent_time, State.mainsEvent_cn, State.noteFreeRun_time, State.noteFreeRun_cn]
    exact ⟨rfl, rfl, rfl, rfl, rfl, rfl, State.mainsEvent_fr 1 rfl (State.noteFreeRun_fr rfl rfl)⟩
  · intro s value w live canonical installer nominal least most
    exact ⟨_, exec_mainsCfgWrite_live live value w,
      mainsCfg_regsWith canonical installer value.isLt nominal least most, s.writeReg_keeps _ _ w⟩

/-! SYNC_IN (R76 to R79). -/

/-- The SYNC_IN pulse that TIME_SYNC_CTRL selects, with SYNC_IN enabled, long enough not to be noise (R76, R78). -/
def State.syncQualified (s : State) (rising : Bool) (width : Nat) : Bool :=
  bit 0 (s.reg 0x40020090) && decide (rising = !bit 1 (s.reg 0x40020090)) && decide (field 15 8 (s.reg 0x40020090) ≤ width)

theorem exec_syncInPulse_live {s : State} (live : s.live = true) (rising : Bool) (tick width : Nat) :
    exec (.syncInPulse rising tick width) s
      = .next ((s.advanceTo tick).iff (s.syncQualified rising width) State.syncPulse) :=
  congrArg Host.Outcome.next (State.whenLive_live live _)

/-- A pulse at the scheduled boundary moves nothing. -/
theorem State.syncPulse_same {s : State} (same : s.syncDistance (s.cn + 1) = 0) : s.syncPulse = s := by
  simp [State.syncPulse, same]

/-- The state in which the boundary of the interval has moved by a distance (R77). -/
def State.boundaryMoved (s : State) (d : Int) : State :=
  { s with
    mtr := { s.mtr with nextLatch := ((s.mtr.nextLatch : Int) + d).toNat, moveD := d }
    time := { s.time with
      syncOfs := (((s.time.syncOfs : Int) + d) % (max 1 s.latchN : Nat)).toNat
      syncD := d, syncMoved := true, intervalMoved := true } }

theorem State.syncPulse_moves {s : State} (away : s.syncDistance (s.cn + 1) ≠ 0)
    (near : (s.syncDistance (s.cn + 1)).natAbs ≤ s.latchN / 8) (fresh : s.time.intervalMoved = false) :
    s.syncPulse = (s.boundaryMoved (s.syncDistance (s.cn + 1))).syncEvent 1 (s.syncDistance (s.cn + 1)) := by
  simp [State.syncPulse, away, near, fresh, State.boundaryMoved]

/-- The state in which a pulse was ignored and counted (R77, R78). -/
def State.pulseIgnored (s : State) (d : Int) : State :=
  { s with time := { s.time with syncD := d, syncIgnored := true, syncViol := min 65535 (s.time.syncViol + 1) } }

theorem State.syncPulse_ignored {s : State}
    (out : s.latchN / 8 < (s.syncDistance (s.cn + 1)).natAbs ∨ (s.syncDistance (s.cn + 1) ≠ 0 ∧ s.time.intervalMoved = true)) :
    s.syncPulse = (s.pulseIgnored (s.syncDistance (s.cn + 1))).syncEvent 2 (s.syncDistance (s.cn + 1)) := by
  have away : s.syncDistance (s.cn + 1) ≠ 0 := by omega
  have refused : (decide ((s.syncDistance (s.cn + 1)).natAbs ≤ s.latchN / 8) && !s.time.intervalMoved) = false := by
    rcases out with far | ⟨-, moved⟩
    · rw [decide_eq_false (Nat.not_le.2 far), Bool.false_and]
    · rw [moved, Bool.not_true, Bool.and_false]
  unfold State.syncPulse
  simp only [away, refused, if_false]
  rfl

/-- The return of D to 0 starts where D is not 0 (R79). -/
def State.startRealign (s : State) : State :=
  { s with time := { s.time with realign := decide (s.time.syncOfs ≠ 0) } }

theorem exec_syncRealign_live {s : State} (live : s.live = true) (value : Word) (w : Writer) :
    exec (.syncRealign value w) s = .next
      ((s.writeReg 0x40020090 (value.toNat ||| 0x10000) w).1.iff
        (decide ((s.writeReg 0x40020090 (value.toNat ||| 0x10000) w).2.act ≠ 0)) State.startRealign) :=
  congrArg Host.Outcome.next (State.whenLive_live live _)

/-- Settles O5, by the three outcomes of a qualified pulse and the action bit of TIME_SYNC_CTRL. -/
theorem syncInMovesOneBoundaryAnInterval : Obligations.SyncInMovesOneBoundaryAnInterval := by
  constructor
  · intro s rising tick width d live enabled edge distance
    have noise : width < field 15 8 (s.reg 0x40020090) → exec (.syncInPulse rising tick width) s = .next (s.advanceTo tick) := by
      intro short
      have unqualified : s.syncQualified rising width = false := by simp [State.syncQualified, short]
      rw [exec_syncInPulse_live live, unqualified, State.iff_false]
    have pulse : field 15 8 (s.reg 0x40020090) ≤ width →
        exec (.syncInPulse rising tick width) s = .next (s.advanceTo tick).syncPulse := by
      intro long
      have qualified : s.syncQualified rising width = true := by simp [State.syncQualified, enabled, edge, long]
      rw [exec_syncInPulse_live live, qualified, State.iff_true]
    subst distance
    refine ⟨fun long same => ?_, fun long away near fresh => ?_, fun long out => ?_, noise⟩
    · rw [pulse long, State.syncPulse_same (s := s.advanceTo tick) same]
    · refine ⟨_, pulse long, ?_, ?_, State.syncPulse_fr rfl (State.advanceTo_fr tick rfl (.refl _ s))⟩
      · rw [State.syncPulse_moves (s := s.advanceTo tick) away near fresh, State.syncEvent_mtr]
        rfl
      · rw [State.syncPulse_moves (s := s.advanceTo tick) away near fresh, State.syncEvent_time]
        rfl
    · refine ⟨_, pulse long, ?_⟩
      rw [State.syncPulse_ignored (s := s.advanceTo tick) out]
      exact ⟨State.syncEvent_time .., State.syncEvent_fr 2 _ rfl rfl⟩
  · intro s value w live canonical installer minw
    have word : value.toNat ||| 0x10000 < 4294967296 := Nat.or_lt_two_pow (n := 32) value.isLt (by decide)
    have minwKept : field 15 8 (value.toNat ||| 0x10000) = field 15 8 value.toNat := field_or _ (by decide)
    have asked : (value.toNat ||| 0x10000).testBit 16 = true := by
      rw [Nat.testBit_or, Bool.or_eq_true]
      exact .inr (by decide)
    have taken := syncCtrl_act (s := s) installer word (minwKept ▸ minw) asked
    have written := s.writeReg_keeps 0x40020090 (value.toNat ||| 0x10000) w
    rw [exec_syncRealign_live live, decide_eq_true taken, State.iff_true]
    refine ⟨_, rfl, ?_, (written.mono rfl).trans rfl⟩
    rw [← written.time rfl]
    rfl

end Sys2Proof.Machine
end

section
/-! Links, octets of the UARTs, and writes anywhere in the register space (00, 06, 11, 17). -/

namespace Sys2Proof.Machine

/-! A word joins a queue (R404, R406, R410). -/

@[simp] theorem State.queue_setQueue_same (s : State) (q : Nat) (c : QueueSt) : (s.setQueue q c).queue q = some c :=
  tget_tput_same q c _

@[simp] theorem State.postQueue_que (s : State) (q kind : Nat) : (s.postQueue q kind).que = s.que :=
  (State.postQueue_fr (bl := { evt := true }) q kind rfl (.refl _ s)).que rfl

@[simp] theorem State.queue_postQueue (s : State) (q p kind : Nat) : (s.postQueue p kind).queue q = s.queue q := by
  simp [State.queue]

/-- The watermarks change ABOVE alone: the words of the queue stay. -/
theorem State.watermark_words {s : State} {q : Nat} {c : QueueSt} (used : s.queue q = some c) :
    ∃ d, (s.watermark q).queue q = some d ∧ d.words = c.words := by
  have noted (above : Bool) (kind : Nat) :
      ∃ d, ((s.setQueue q { c with above := above }).postQueue q kind).queue q = some d ∧ d.words = c.words :=
    ⟨_, (State.queue_postQueue ..).trans (State.queue_setQueue_same ..), rfl⟩
  simp only [State.watermark, used]
  split
  · exact noted true 1
  · split
    · exact noted false 2
    · exact ⟨c, used, rfl⟩

/-- A word pushed below the depth becomes the queue's last (R406). -/
theorem State.pushWord_words {s : State} {q : Nat} {c : QueueSt} (used : s.queue q = some c)
    (room : c.words.length < c.depth) (w : QWord) :
    ∃ d, (s.pushWord q w).queue q = some d ∧ d.words = c.words ++ [w] := by
  simp only [State.pushWord, used, room, if_true]
  exact State.watermark_words (State.queue_setQueue_same ..)

theorem exec_uartOctet_queued {s : State} {port : Fin 3} {q : Nat} (live : s.live = true)
    (carried : s.sliced (s.can.slotOf .fieldIo port.val) = false) (given : s.uartQueue port.val = some q)
    (data : Byte) (framing brk : Bool) :
    ∃ t, exec (.uartOctet port data framing brk) s = .next t ∧
      t.que = (s.pushWord q { data := data.toNat + flag framing 8 + flag brk 9
                              parity := parity64 64 (data.toNat + flag framing 8 + flag brk 9) }).que := by
  refine ⟨_, congrArg Host.Outcome.next (State.whenLive_live live _), ?_⟩
  rw [carried, Bool.not_false, State.iff_true, given]

/-! The Ethernet links (R52, R569). -/

theorem forEach_eq_self {α σ : Type} {f : α → σ → σ} {s : σ} (l : List α) (still : ∀ a, f a s = s) :
    forEach f l s = s := by
  induction l with
  | nil => rfl
  | cons a l ih => rw [forEach, still a, ih]

theorem exec_ethLinkChange_up {s : State} (live : s.live = true) (port : Fin 2) :
    exec (.ethLinkChange port true) s = .next { s with fld := { s.fld with ethUp := lset port.val true s.fld.ethUp } } :=
  congrArg Host.Outcome.next (State.whenLive_live live _)

/-- A link that drops while no session is open and no source in use: the PTP source of its port is not valid any more. -/
theorem exec_ethLinkChange_down {s : State} (live : s.live = true) (noSession : s.fsp.sessions = [])
    (noSource : s.time.source = none) (port : Fin 2) :
    exec (.ethLinkChange port false) s = .next { s with
      fld := { s.fld with ethUp := lset port.val false s.fld.ethUp }
      time := { s.time with valid0 := s.time.valid0 && decide (port.val ≠ 0)
                            valid1 := s.time.valid1 && decide (port.val = 0) } } := by
  refine (congrArg Host.Outcome.next (State.whenLive_live live _)).trans (congrArg Host.Outcome.next ?_)
  simp only [Bool.false_eq_true, if_false]
  rw [forEach_eq_self]
  · match port with
    | 0 => simp [State.checkSource, noSource]
    | 1 => simp [State.checkSource, noSource]
  · intro i
    simp only [State.session, noSession, tget]

/-! Writes anywhere in the register space. -/

theorem State.writeWord_servoKp (s : State) (v : Nat) (w : Writer) :
    s.writeWord 0x40020030 v w = s.writePlain 0x40020030 v w := rfl

theorem State.writeWord_panId (s : State) (v : Nat) (w : Writer) :
    s.writeWord 0x40070008 v w = s.writePlain 0x40070008 v w := rfl

theorem exec_registerWrite_live {s : State} (live : s.live = true) (addr value : Word) (w : Writer) :
    exec (.registerWrite addr value w) s
      = .next (s.iff (inSpace addr.toNat) fun s => (s.writeRecorded addr.toNat value.toNat w).1) :=
  congrArg Host.Outcome.next (State.whenLive_live live _)

/-- The record of a role's write adds to the waybill alone (R489, R609). -/
theorem State.writeRecorded_keeps (s : State) (a v : Nat) (w : Writer) :
    Keeps { evt := true, way := true } (s.writeWord a v w).1 (s.writeRecorded a v w).1 := by
  unfold State.writeRecorded
  dsimp only
  split
  · exact State.recordWrite_fr w .ok a _ _ rfl (.refl _ _)
  · exact .refl _ _

/-- A recorded write of a register whose only effect is the stored word. -/
theorem State.writeRecorded_plain {s : State} {a v : Nat} {w : Writer} (plain : s.writeWord a v w = s.writePlain a v w) :
    (s.writeRecorded a v w).1.regs = (s.writeReg a v w).1.regs
      ∧ Keeps { evt := true, regs := true, way := true } s (s.writeRecorded a v w).1 := by
  have recorded := s.writeRecorded_keeps a v w
  rw [plain] at recorded
  exact ⟨recorded.regs rfl, (s.writeReg_keeps a v w).trans (recorded.mono rfl)⟩

/-! REGISTER_WINDOW (R257). -/

/-- A message of a session restarts its idle time (R226). -/
def State.heard (s : State) (i : Fin 4) : State :=
  s.modSession i fun c => { c with lastMessage := s.cn }

theorem State.heard_keeps (s : State) (i : Fin 4) : Keeps { fsp := true } s (s.heard i) :=
  State.modSession_fr i _ rfl (.refl _ s)

/-- A request of an open session that is not the modem's, from a role that holds the right, is served (R224, R229). -/
theorem State.request_served {s : State} {i : Fin 4} {c : Session} {role : Byte} {need : Role} (isOpen : s.session i = some c)
    (notModem : c.path ≠ 3) (may : c.mayAsk role.toNat need = true) (type tx : Nat) (serve : Session → State → State) :
    s.request i role type tx need serve = serve c (s.heard i) := by
  simp [State.request, isOpen, notModem, may, State.heard]

theorem State.writeWords_servoKp (s : State) (v : Nat) (w : Writer) :
    s.writeWords 0x40020030 [v] w = ((s.writeReg 0x40020030 v w).1, .ok) := by
  have reason : (s.writeWord 0x40020030 v w).2 = .ok := servoKp_reason
  simp only [State.writeWords, reason, if_true]
  rfl

/-- Four octets hold a word (R13). -/
theorem ofLe_le_word {x : Nat} (word : x < 4294967296) : ofLe (le 4 x) = x := by
  simp only [le, ofLe, BitVec.toNat_ofNat]
  omega

theorem inSpace_iff (a : Nat) : inSpace a = true ↔ 0x40000000 ≤ a ∧ a < 0x400E0000 ∧ a % 4 = 0 := by
  simp [inSpace, and_assoc]

/-- A window write of one word of stand A writes that word under the session's role (R257): of the body's fields, stand 0,
operation 1, one word, and an address of the register space. -/
theorem State.registerWindow_write_one (s : State) (i : Fin 4) (c : Session) (tx : Nat) {a v : Nat} {body : List Byte}
    (size : body.length = 12) (stand : slice 0 1 body = [0]) (op : slice 1 1 body = [1]) (count : slice 2 1 body = [1])
    (zero : slice 3 1 body = [0]) (addr : slice 4 4 body = le 4 a) (inside : inSpace a = true)
    (value : body.drop 8 = le 4 v) (word : v < 4294967296) :
    s.registerWindow i c tx body
      = ((s.writeWords a [v] { role := c.role, via := .session i, stand := .a }).1.recordWindow i c.role
            (s.writeWords a [v] { role := c.role, via := .session i, stand := .a }).2 body).respond i 0x70 tx
          (statusBody (s.writeWords a [v] { role := c.role, via := .session i, stand := .a }).2) := by
  obtain ⟨-, below, aligned⟩ := (inSpace_iff a).1 inside
  have addrWord : ofLe (le 4 a) = a := ofLe_le_word (by omega)
  have words : wordsOf 1 (le 4 v) = [v] := congrArg (fun x => [x]) (ofLe_le_word word)
  simp [State.registerWindow, size, stand, op, count, zero, addr, addrWord, aligned, inside, value, words, ofLe]

/-- A window write of one word to TIME_SERVO_KP is answered OK. -/
theorem State.registerWindow_write_servoKp (s : State) (i : Fin 4) (c : Session) (tx : Nat) {v : Nat} (word : v < 4294967296) :
    s.registerWindow i c tx ([0, 1, 1, 0] ++ le 4 0x40020030 ++ le 4 v)
      = ((s.writeReg 0x40020030 v { role := c.role, via := .session i, stand := .a }).1.recordWindow i c.role .ok
          ([0, 1, 1, 0] ++ le 4 0x40020030 ++ le 4 v)).respond i 0x70 tx (statusBody .ok) := by
  rw [State.registerWindow_write_one s i c tx (a := 0x40020030) (body := [0, 1, 1, 0] ++ le 4 0x40020030 ++ le 4 v)
    rfl rfl rfl rfl rfl rfl (by decide) rfl word, State.writeWords_servoKp]

/-- A window read of one word from TIME_SERVO_KP of stand A answers the word the register holds. -/
theorem State.registerWindow_read_servoKp (s : State) (i : Fin 4) (c : Session) (tx : Nat) :
    s.registerWindow i c tx ([0, 0, 1, 0] ++ le 4 0x40020030)
      = (s.recordWindow i c.role .ok ([0, 0, 1, 0] ++ le 4 0x40020030)).respond i 0x70 tx
          (statusBody .ok ++ le 4 (s.reg 0x40020030)) := by
  rfl

theorem State.respond_mem_out (s : State) (i : Fin 4) (type tx : Nat) (body : List Byte) :
    Output.fsp i.val type 1 tx body ∈ (s.respond i type tx body).out := by
  simp [State.respond]

theorem exec_registerWindowWrite_served {s : State} {i : Fin 4} {c : Session} {role : Byte} (live : s.live = true)
    (isOpen : s.session i = some c) (notModem : c.path ≠ 3) (may : c.mayAsk role.toNat .maker = true) (tx : Word)
    (body : List Byte) :
    exec (.registerWindowWrite i role tx body) s
      = .next ((s.heard i).registerWindow i c tx.toNat body) :=
  congrArg Host.Outcome.next ((State.whenLive_live live _).trans (State.request_served isOpen notModem may ..))

theorem exec_registerWindowRead_served {s : State} {i : Fin 4} {c : Session} {role : Byte} (live : s.live = true)
    (isOpen : s.session i = some c) (notModem : c.path ≠ 3) (may : c.mayAsk role.toNat .maker = true) (tx : Word)
    (body : List Byte) :
    exec (.registerWindowRead i role tx body) s
      = .next ((s.heard i).registerWindow i c tx.toNat body) :=
  congrArg Host.Outcome.next ((State.whenLive_live live _).trans (State.request_served isOpen notModem may ..))

/-- Settles O18: a link or an octet by its command's equation, a write by the merged word of its register. -/
theorem linksAndRegisterWrites : Obligations.LinksAndRegisterWrites := by
  refine ⟨⟨?_, ?_⟩, ?_, ?_, ?_⟩
  · intro s port data framing brk q c live carried given used room
    obtain ⟨t, next, que⟩ := exec_uartOctet_queued live carried given data framing brk
    obtain ⟨d, held, words⟩ := State.pushWord_words used room
      { data := data.toNat + flag framing 8 + flag brk 9, parity := parity64 64 (data.toNat + flag framing 8 + flag brk 9) }
    refine ⟨t, d, next, ?_, words, execUartOctet_fr port data framing brk next rfl (.refl _ s)⟩
    rwa [State.queue, que]
  · intro s port live
    exact ⟨exec_ethLinkChange_up live port, fun noSession noSource => exec_ethLinkChange_down live noSession noSource port⟩
  · intro s value w live canonical
    refine ⟨?_, fun other => ?_, fun installer => ?_⟩
    · obtain ⟨regs, keeps⟩ := State.writeRecorded_plain (s.writeWord_servoKp value.toNat w)
      exact ⟨_, exec_registerWrite_live live 0x40020030 value w, (servoKp_regsWith canonical value.isLt).congr rfl regs, keeps⟩
    · obtain ⟨regs, keeps⟩ := State.writeRecorded_plain (s.writeWord_panId value.toNat w)
      refine ⟨_, exec_registerWrite_live live 0x40070008 value w, fun a => ?_, keeps⟩
      have read := panId_reg_of_not_installer (v := value.toNat) canonical other a
      exact (State.reg_congr regs a).trans read
    · obtain ⟨regs, keeps⟩ := State.writeRecorded_plain (s.writeWord_panId value.toNat w)
      exact ⟨_, exec_registerWrite_live live 0x40070008 value w,
        (panId_regsWith canonical value.isLt installer).congr rfl regs, keeps⟩
  · intro s addr value w live _ outside
    rw [exec_registerWrite_live live, outside, State.iff_false]
  · intro s i c role tx v live canonical isOpen notModem may
    have asked := s.heard_keeps i
    have sameRegs := asked.regs rfl
    constructor
    · refine ⟨_, exec_registerWindowWrite_served live isOpen notModem may tx _, ?_⟩
      have stored := servoKp_regsWith (s := s.heard i) (w := { role := c.role, via := .session i, stand := .a })
        (sameRegs ▸ canonical) v.isLt
      rw [State.reg_congr sameRegs] at stored
      rw [State.registerWindow_write_servoKp _ i c tx.toNat v.isLt]
      refine ⟨stored.congr sameRegs.symm ?_, State.respond_mem_out .., ?_⟩
      · exact (State.recordWindow_fr (bl := { evt := true, way := true }) i _ _ _ rfl (.refl _ _)).regs rfl
      · exact State.respond_fr i _ _ _ rfl (State.recordWindow_fr i _ _ _ rfl (State.writeReg_fr _ _ _ rfl (asked.mono rfl)))
    · refine ⟨_, exec_registerWindowRead_served live isOpen notModem may tx _, ?_⟩
      rw [State.registerWindow_read_servoKp, State.reg_congr sameRegs]
      exact ⟨State.respond_mem_out .., State.respond_fr i _ _ _ rfl (State.recordWindow_fr i _ _ _ rfl (asked.mono rfl))⟩

end Sys2Proof.Machine
end

section
/-! The invariant of the module holds at reset and through every step (Safety.lean). -/

namespace Sys2Proof.Machine

theorem reset_inv : State.reset.Inv where
  staging := by decide
  ring := by decide
  history := by decide
  captures := by decide
  regs := rfl

/-- Settles O58: every value is the one `State.reset` gives (no output, log 4; no sessions, log 7). -/
theorem resetLeavesTheStatedValues : Obligations.ResetLeavesTheStatedValues :=
  ⟨reset_inv, rfl, rfl, rfl, rfl, rfl, rfl, rfl, rfl, rfl, rfl, rfl⟩

/-- Whatever command runs, the next state grows out of the present one (Safety.lean). -/
theorem exec_evolves {i : Instr} {s t : State} (e : exec i s = .next t) : Evolves s t := by
  cases i with
  | cycleTick sums rms clipped busy power mj pct => exact execCycleTick_ev sums rms clipped busy power mj pct e (.refl s)
  | slotMidpoint busy planned => exact execSlotMidpoint_ev busy planned e (.refl s)
  | zcMeasured ofs tick ofsUs => exact execZcMeasured_ev ofs tick ofsUs e (.refl s)
  | mainsTimeout tick => exact execMainsTimeout_ev tick e (.refl s)
  | timeSnap value tick => exact execTimeSnap_ev value tick e (.refl s)
  | ptpMessage port tick msg => exact execPtpMessage_ev port tick msg e (.refl s)
  | ptpPortUnmute port => exact execPtpPortUnmute_ev port e (.refl s)
  | ptpSourceMiss port announce => exact execPtpSourceMiss_ev port announce e (.refl s)
  | ppsInEdge rising tick => exact execPpsInEdge_ev rising tick e (.refl s)
  | ppsInMiss => exact execPpsInMiss_ev e (.refl s)
  | timeRearm value w => exact execTimeRearm_ev value w e (.refl s)
  | timeSrcWrite value w => exact execTimeSrcWrite_ev value w e (.refl s)
  | mainsCfgWrite value w => exact execMainsCfgWrite_ev value w e (.refl s)
  | waymark sess role tx body => exact execWaymark_ev sess role tx body e (.refl s)
  | syncInPulse rising tick widthUs => exact execSyncInPulse_ev rising tick widthUs e (.refl s)
  | syncRealign value w => exact execSyncRealign_ev value w e (.refl s)
  | triggerArm unit value tick w => exact execTriggerArm_ev unit value tick w e (.refl s)
  | triggerFire unit tick => exact execTriggerFire_ev unit tick e (.refl s)
  | captureEdge channel rising tick sub => exact execCaptureEdge_ev channel rising tick sub e (.refl s)
  | capturePop channel value => exact execCapturePop_ev channel value e (.refl s)
  | dutyBinRoll => exact execDutyBinRoll_ev e (.refl s)
  | frameReceived grove frame => exact execFrameReceived_ev grove frame e (.refl s)
  | ledgerUnmute place => exact execLedgerUnmute_ev place e (.refl s)
  | trx8Takeover value w => exact execTrx8Takeover_ev value w e (.refl s)
  | transceiverFault t => exact execTransceiverFault_ev t e (.refl s)
  | radCntClr value w => exact execRadCntClr_ev value w e (.refl s)
  | ledgerRead => exact execLedgerRead_ev e (.refl s)
  | ledgerWrite => exact execLedgerWrite_ev e (.refl s)
  | ledgerClear => exact execLedgerClear_ev e (.refl s)
  | safeieWrite value w => exact execSafeieWrite_ev value w e (.refl s)
  | trxCtrlWrite t value w => exact execTrxCtrlWrite_ev t value w e (.refl s)
  | joinReq grove proxy seq body mic => exact execJoinReq_ev grove proxy seq body mic e (.refl s)
  | keepalive msg => exact execKeepalive_ev msg e (.refl s)
  | report msg => exact execReport_ev msg e (.refl s)
  | balanceDeadline feeder ended => exact execBalanceDeadline_ev feeder ended e (.refl s)
  | tally msg => exact execTally_ev msg e (.refl s)
  | nak msg => exact execNak_ev msg e (.refl s)
  | fault msg => exact execFault_ev msg e (.refl s)
  | chunkState msg => exact execChunkState_ev msg e (.refl s)
  | digestQuery msg => exact execDigestQuery_ev msg e (.refl s)
  | grantKeepaliveTimeout short => exact execGrantKeepaliveTimeout_ev short e (.refl s)
  | keepalivePeriodEnd short => exact execKeepalivePeriodEnd_ev short e (.refl s)
  | reservationEnd place => exact execReservationEnd_ev place e (.refl s)
  | admitArrive sess role deadline tx body => exact execAdmitArrive_ev sess role deadline tx body e (.refl s)
  | admitDecision => exact execAdmitDecision_ev e (.refl s)
  | outcomeDeadline id => exact execOutcomeDeadline_ev id e (.refl s)
  | queryNoAnswer id short => exact execQueryNoAnswer_ev id short e (.refl s)
  | rejoinTimeout => exact execRejoinTimeout_ev e (.refl s)
  | tlsHandshake path signed chained exporter => exact execTlsHandshake_ev path signed chained exporter e (.refl s)
  | handshakeTimeout since => exact execHandshakeTimeout_ev since e (.refl s)
  | fspHeaderFault sess header => exact execFspHeaderFault_ev sess header e (.refl s)
  | fspWrongType sess type tx => exact execFspWrongType_ev sess type tx e (.refl s)
  | hello sess role tx body => exact execHello_ev sess role tx body e (.refl s)
  | roleChallenge sess role tx body => exact execRoleChallenge_ev sess role tx body e (.refl s)
  | roleProof sess role tx body => exact execRoleProof_ev sess role tx body e (.refl s)
  | roleLapse sess => exact execRoleLapse_ev sess e (.refl s)
  | pushAck sess role type seq => exact execPushAck_ev sess role type seq e (.refl s)
  | meterRead sess role tx body => exact execMeterRead_ev sess role tx body e (.refl s)
  | waybillRead sess role tx body => exact execWaybillRead_ev sess role tx body e (.refl s)
  | waybillClear sess role tx body => exact execWaybillClear_ev sess role tx body e (.refl s)
  | configPut sess role tx body => exact execConfigPut_ev sess role tx body e (.refl s)
  | configGet sess role tx body => exact execConfigGet_ev sess role tx body e (.refl s)
  | digest sess role tx body => exact execDigest_ev sess role tx body e (.refl s)
  | updateOffer sess role tx body signed => exact execUpdateOffer_ev sess role tx body signed e (.refl s)
  | updateChunk sess role tx body tag plain => exact execUpdateChunk_ev sess role tx body tag plain e (.refl s)
  | updateState sess role tx body => exact execUpdateState_ev sess role tx body e (.refl s)
  | updateActivate sess role tx body => exact execUpdateActivate_ev sess role tx body e (.refl s)
  | registerWindowRead sess role tx body => exact execRegisterWindowRead_ev sess role tx body e (.refl s)
  | registerWindowWrite sess role tx body => exact execRegisterWindowWrite_ev sess role tx body e (.refl s)
  | sessionIdle sess => exact execSessionIdle_ev sess e (.refl s)
  | sessionClose sess => exact execSessionClose_ev sess e (.refl s)
  | modemOpen => exact execModemOpen_ev e (.refl s)
  | dialLineAnswer ok connect => exact execDialLineAnswer_ev ok connect e (.refl s)
  | dialTimeout => exact execDialTimeout_ev e (.refl s)
  | modemClose => exact execModemClose_ev e (.refl s)
  | modemRetry => exact execModemRetry_ev e (.refl s)
  | modemCtsChange asserted => exact execModemCtsChange_ev asserted e (.refl s)
  | uartOctet port data framing brk => exact execUartOctet_ev port data framing brk e (.refl s)
  | ethLinkChange port up => exact execEthLinkChange_ev port up e (.refl s)
  | kcFeedbackChange k level => exact execKcFeedbackChange_ev k level e (.refl s)
  | contactorFeedbackTimeout k => exact execContactorFeedbackTimeout_ev k e (.refl s)
  | contactorRetryPulseEnd k => exact execContactorRetryPulseEnd_ev k e (.refl s)
  | routeBinEnd => exact execRouteBinEnd_ev e (.refl s)
  | routeRetune => exact execRouteRetune_ev e (.refl s)
  | waveReceived grove wave => exact execWaveReceived_ev grove wave e (.refl s)
  | waveHoldEnd l => exact execWaveHoldEnd_ev l e (.refl s)
  | channelFault c => exact execChannelFault_ev c e (.refl s)
  | msealChange isOpen => exact execMsealChange_ev isOpen e (.refl s)
  | metrologyRegisterWrite addr value w => exact execMetrologyRegisterWrite_ev addr value w e (.refl s)
  | latchNWrite value w => exact execLatchNWrite_ev value w e (.refl s)
  | calStart value w => exact execCalStart_ev value w e (.refl s)
  | calDone p q rms dc => exact execCalDone_ev p q rms dc e (.refl s)
  | phaseAbsent phase => exact execPhaseAbsent_ev phase e (.refl s)
  | meterCheckpoint => exact execMeterCheckpoint_ev e (.refl s)
  | regSelWrite value w => exact execRegSelWrite_ev value w e (.refl s)
  | pwmFrameStart meas ntc base => exact execPwmFrameStart_ev meas ntc base e (.refl s)
  | stringRetry c => exact execStringRetry_ev c e (.refl s)
  | dieOvercurrent c again => exact execDieOvercurrent_ev c again e (.refl s)
  | dieOvervoltage c => exact execDieOvervoltage_ev c e (.refl s)
  | gateSupplyLow die => exact execGateSupplyLow_ev die e (.refl s)
  | gateSupplyRestored die => exact execGateSupplyRestored_ev die e (.refl s)
  | stringLearn c w => exact execStringLearn_ev c w e (.refl s)
  | stringLearnDone c => exact execStringLearnDone_ev c e (.refl s)
  | stringClear c w => exact execStringClear_ev c w e (.refl s)
  | drvCntClr value w => exact execDrvCntClr_ev value w e (.refl s)
  | ntcFault n mv => exact execNtcFault_ev n mv e (.refl s)
  | halfFailure die => exact execHalfFailure_ev die e (.refl s)
  | colourWindowEnd port x y z c sat => exact execColourWindowEnd_ev port x y z c sat e (.refl s)
  | twLearn g w => exact execTwLearn_ev g w e (.refl s)
  | peStart p w => exact execPeStart_ev p w e (.refl s)
  | peStop p w => exact execPeStop_ev p w e (.refl s)
  | peTimedStart p tick => exact execPeTimedStart_ev p tick e (.refl s)
  | incInEdge rising tick sub => exact execIncInEdge_ev rising tick sub e (.refl s)
  | evacStart => exact execEvacStart_ev e (.refl s)
  | evacEnd => exact execEvacEnd_ev e (.refl s)
  | evacRelease w => exact execEvacRelease_ev w e (.refl s)
  | clearingFix => exact execClearingFix_ev e (.refl s)
  | clearingEnd => exact execClearingEnd_ev e (.refl s)
  | segmentDigestRefresh => exact execSegmentDigestRefresh_ev e (.refl s)
  | queuePush q data parity => exact execQueuePush_ev q data parity e (.refl s)
  | queueRead q disturb1 disturb2 => exact execQueueRead_ev q disturb1 disturb2 e (.refl s)
  | rowCopyDone row => exact execRowCopyDone_ev row e (.refl s)
  | queCntClr value w => exact execQueCntClr_ev value w e (.refl s)
  | queuePeakRestart q value => exact execQueuePeakRestart_ev q value e (.refl s)
  | sourceFiring source kind payload => exact execSourceFiring_ev source kind payload e (.refl s)
  | coalesceTimeout source => exact execCoalesceTimeout_ev source e (.refl s)
  | evtDone engine value => exact execEvtDone_ev engine value e (.refl s)
  | ringConsWrite engine prio value => exact execRingConsWrite_ev engine prio value e (.refl s)
  | ringCfgWrite engine prio value => exact execRingCfgWrite_ev engine prio value e (.refl s)
  | ringMaskWrite engine value => exact execRingMaskWrite_ev engine value e (.refl s)
  | handlerEntry engine => exact execHandlerEntry_ev engine e (.refl s)
  | handlerExit engine => exact execHandlerExit_ev engine e (.refl s)
  | divergence cls pin tag => exact execDivergence_ev cls pin tag e (.refl s)
  | heartbeatLost stand hold => exact execHeartbeatLost_ev stand hold e (.refl s)
  | standClaim stand => exact execStandClaim_ev stand e (.refl s)
  | withdraw stand causes hold => exact execWithdraw_ev stand causes hold e (.refl s)
  | diagnosisAnswer stand causes hold => exact execDiagnosisAnswer_ev stand causes hold e (.refl s)
  | diagnosisTimeout hold => exact execDiagnosisTimeout_ev hold e (.refl s)
  | fordOutvote copy cycle => exact execFordOutvote_ev copy cycle e (.refl s)
  | standTestDone stand pass => exact execStandTestDone_ev stand pass e (.refl s)
  | learningCopyDone => exact execLearningCopyDone_ev e (.refl s)
  | probationEnd => exact execProbationEnd_ev e (.refl s)
  | plannedSwitchRequest w => exact execPlannedSwitchRequest_ev w e (.refl s)
  | safeHoldResume stand agree out w => exact execSafeHoldResume_ev stand agree out w e (.refl s)
  | safeHoldResumeForce stand agree out w => exact execSafeHoldResumeForce_ev stand agree out w e (.refl s)
  | standRelease stand w => exact execStandRelease_ev stand w e (.refl s)
  | clockSelect sel w => exact execClockSelect_ev sel w e (.refl s)
  | tcxoLost which => exact execTcxoLost_ev which e (.refl s)
  | tcxoPresent which ofs => exact execTcxoPresent_ev which ofs e (.refl s)
  | lastgaspClear w => exact execLastgaspClear_ev w e (.refl s)
  | sliceFix stand lead => exact execSliceFix_ev stand lead e (.refl s)
  | sliceRunEnd stand kind index patterns complete misr expected => exact execSliceRunEnd_ev stand kind index patterns complete misr expected e (.refl s)
  | coppiceStarved stand kind index => exact execCoppiceStarved_ev stand kind index e (.refl s)
  | idlePathSlice item => exact execIdlePathSlice_ev item e (.refl s)
  | idlePathEnd pass => exact execIdlePathEnd_ev pass e (.refl s)
  | coppiceRun w => exact execCoppiceRun_ev w e (.refl s)
  | coppiceDestruct run w => exact execCoppiceDestruct_ev run w e (.refl s)
  | suspectRelease kind index w => exact execSuspectRelease_ev kind index w e (.refl s)
  | copCntClr w => exact execCopCntClr_ev w e (.refl s)
  | keyWrite slot w => exact execKeyWrite_ev slot w e (.refl s)
  | keyDerive slot w => exact execKeyDerive_ev slot w e (.refl s)
  | keyGenerate slot w => exact execKeyGenerate_ev slot w e (.refl s)
  | keyErase slot w => exact execKeyErase_ev slot w e (.refl s)
  | rotateGrove w => exact execRotateGrove_ev w e (.refl s)
  | keyCommandComplete => exact execKeyCommandComplete_ev e (.refl s)
  | keySlotExpiry slot => exact execKeySlotExpiry_ev slot e (.refl s)
  | attest w => exact execAttest_ev w e (.refl s)
  | tamperInputChange n high tick sub => exact execTamperInputChange_ev n high tick sub e (.refl s)
  | tamperQualified n tick => exact execTamperQualified_ev n tick e (.refl s)
  | meshCheck ok => exact execMeshCheck_ev ok e (.refl s)
  | keyTmpMaint value w => exact execKeyTmpMaint_ev value w e (.refl s)
  | maintWindowEnd => exact execMaintWindowEnd_ev e (.refl s)
  | keyTmpClear value w => exact execKeyTmpClear_ev value w e (.refl s)
  | validationDone decrypted signed => exact execValidationDone_ev decrypted signed e (.refl s)
  | staged measured areaGood => exact execStaged_ev measured areaGood e (.refl s)
  | shadowCaughtUp => exact execShadowCaughtUp_ev e (.refl s)
  | catchupTimeout => exact execCatchupTimeout_ev e (.refl s)
  | shadowEnd => exact execShadowEnd_ev e (.refl s)
  | confirmWindowEnd => exact execConfirmWindowEnd_ev e (.refl s)
  | confirmCheckFail check reason => exact execConfirmCheckFail_ev check reason e (.refl s)
  | rebootDone measured areaGood => exact execRebootDone_ev measured areaGood e (.refl s)
  | updateLapse => exact execUpdateLapse_ev e (.refl s)
  | updateAbort w => exact execUpdateAbort_ev w e (.refl s)
  | waybillHappening stand role source id reason tagged payload tick => exact execWaybillHappening_ev stand role source id reason tagged payload tick e (.refl s)
  | recorderWrite readBack => exact execRecorderWrite_ev readBack e (.refl s)
  | wayCntClr value w => exact execWayCntClr_ev value w e (.refl s)
  | monHelp => exact execMonHelp_ev e (.refl s)
  | monLogin role => exact execMonLogin_ev role e (.refl s)
  | monProof proof => exact execMonProof_ev proof e (.refl s)
  | monProofLapse => exact execMonProofLapse_ev e (.refl s)
  | monLogout => exact execMonLogout_ev e (.refl s)
  | monBaud rate => exact execMonBaud_ev rate e (.refl s)
  | monSel stand => exact execMonSel_ev stand e (.refl s)
  | monRd addr count => exact execMonRd_ev addr count e (.refl s)
  | monWr addr value => exact execMonWr_ev addr value e (.refl s)
  | monQ q count => exact execMonQ_ev q count e (.refl s)
  | monWb seq count => exact execMonWb_ev seq count e (.refl s)
  | monWbclear seq => exact execMonWbclear_ev seq e (.refl s)
  | monStatus => exact execMonStatus_ev e (.refl s)
  | monCop => exact execMonCop_ev e (.refl s)
  | monDrover => exact execMonDrover_ev e (.refl s)
  | monAtt chal => exact execMonAtt_ev chal e (.refl s)
  | monTamperMaint minutes => exact execMonTamperMaint_ev minutes e (.refl s)
  | monTamperClear => exact execMonTamperClear_ev e (.refl s)
  | monRftx phy channel power seconds => exact execMonRftx_ev phy channel power seconds e (.refl s)
  | rftxEnd => exact execRftxEnd_ev e (.refl s)
  | monUnknown malformed => exact execMonUnknown_ev malformed e (.refl s)
  | monMuteEnd => exact execMonMuteEnd_ev e (.refl s)
  | monIdle => exact execMonIdle_ev e (.refl s)
  | kcOvercurrent k => exact execKcOvercurrent_ev k e (.refl s)
  | kcOpenLoad k isOpen => exact execKcOpenLoad_ev k isOpen e (.refl s)
  | modPowerOvercurrent ma ok => exact execModPowerOvercurrent_ev ma ok e (.refl s)
  | supplyInputChange b x voltA voltB => exact execSupplyInputChange_ev b x voltA voltB e (.refl s)
  | supplyReturn => exact execSupplyReturn_ev e (.refl s)
  | powerFail tick sums => exact execPowerFail_ev tick sums e (.refl s)
  | powerDip => exact execPowerDip_ev e (.refl s)
  | holdoverStop => exact execHoldoverStop_ev e (.refl s)
  | retentionLost => exact execRetentionLost_ev e (.refl s)
  | voltageMonitor stand hold => exact execVoltageMonitor_ev stand hold e (.refl s)
  | dormancyEnter value w => exact execDormancyEnter_ev value w e (.refl s)
  | dormancyAuto => exact execDormancyAuto_ev e (.refl s)
  | dormancyEntry => exact execDormancyEntry_ev e (.refl s)
  | dormancyPowerDown => exact execDormancyPowerDown_ev e (.refl s)
  | dormancyWake source seconds good => exact execDormancyWake_ev source seconds good e (.refl s)
  | thermalHot temp => exact execThermalHot_ev temp e (.refl s)
  | thermalTrip temp tick sums => exact execThermalTrip_ev temp tick sums e (.refl s)
  | thermalRelease temp => exact execThermalRelease_ev temp e (.refl s)
  | peakRestart w => exact execPeakRestart_ev w e (.refl s)
  | powerUp b voltA voltB base good => exact execPowerUp_ev b voltA voltB base good e (.refl s)
  | bootMeasurement stand drover firmware good backup => exact execBootMeasurement_ev stand drover firmware good backup e (.refl s)
  | canopyLoaded octets => exact execCanopyLoaded_ev octets e (.refl s)
  | prefTimeout tick => exact execPrefTimeout_ev tick e (.refl s)
  | moduleReset value w => exact execModuleReset_ev value w e (.refl s)
  | registerWrite addr value w => exact execRegisterWrite_ev addr value w e (.refl s)
  | phaseValidCrossing phase => exact execPhaseValidCrossing_ev phase e (.refl s)
  | unitFallsDue stand kind index => exact execUnitFallsDue_ev stand kind index e (.refl s)
  | standRewritten stand => exact execStandRewritten_ev stand e (.refl s)
  | storeRecharged mj pct => exact execStoreRecharged_ev mj pct e (.refl s)
  | rs485IdleAfterFrame port => exact execRs485IdleAfterFrame_ev port e (.refl s)

/-- The invariant does not speak of the commands that wait. -/
theorem State.Inv.with_pending {s : State} (inv : s.Inv) (queue : List Instr) :
    State.Inv { s with pending := queue } :=
  ⟨inv.staging, inv.ring, inv.history, inv.captures, inv.regs⟩

/-- Settles O60: an idle step changes nothing, and a command's next state grows out of the present one. -/
theorem everyStepKeepsTheInvariant : Obligations.EveryStepKeepsTheInvariant := by
  intro s t inv next
  unfold step at next
  split at next
  case h_1 =>
    cases next
    exact inv
  case h_2 c rest _ => exact (exec_evolves next).inv (inv.with_pending rest)

end Sys2Proof.Machine
end

section
/-! The ledger, the duty bins and the registers of the radio (03). -/

namespace Sys2Proof.Machine

/-! Duty bins and mutes (R95, R126). -/

theorem exec_dutyBinRoll_live {s : State} (live : s.live = true) :
    exec .dutyBinRoll s
      = .next { s with rad := { s.rad with duty := s.rad.duty.map fun p => (p.1, (0 :: p.2).take 60) } } :=
  congrArg Host.Outcome.next (State.whenLive_live live _)

/-- A mute whose CN has come ends. -/
theorem exec_ledgerUnmute_due {s : State} {place : Fin 4096} {e : Entry} {m : Cn} (live : s.live = true)
    (held : tget place.val s.rad.ledger = some e) (muted : e.state = .muted) (ends : e.muteEnd = some m) (due : m ≤ s.cn) :
    exec (.ledgerUnmute place) s = .next { s with rad := { s.rad with
      ledger := tput place.val { e with state := .active, muteEnd := none } s.rad.ledger } } := by
  refine congrArg Host.Outcome.next ((State.whenLive_live live _).trans ?_)
  simp only [held, ends, muted, due, decide_true, Bool.and_self, State.iff_true]

/-! A write of RAD_CTRL with CNT_CLR (R130). -/

/-- The description of RAD_CTRL (Table 3.13). -/
def radCtrlDesc : RegDesc :=
  { name := "RAD_CTRL", base := 0x40070000, rw := 1, wo := 2 }

theorem descOf_radCtrl : descOf 0x40070000 = some radCtrlDesc := rfl

/-- A write of RAD_CTRL takes CNT_CLR under any role. -/
theorem radCtrl_clears {s : State} {v : Nat} {w : Writer} (word : v < 4294967296) (asked : bit 1 v = true) :
    bit 1 (s.writeReg 0x40070000 v w).2.act = true := by
  have act := (State.ruled_of_inRanges (s := s) (d := radCtrlDesc) (a := 0x40070000) (v := v) (w := w) rfl
    (by simp [inRanges, regOk, radCtrlDesc])).2
  rw [State.writeReg_written descOf_radCtrl, act]
  have masking : Nat.testBit 2 1 = true := by decide
  simpa [radCtrlDesc, masked, bit, Nat.mod_eq_of_lt word, Nat.testBit_and, masking] using asked

theorem State.trxChanged_keeps (s : State) (t old : Nat) : Keeps { evt := true } s (s.trxChanged t old) :=
  State.trxChanged_fr t old rfl (.refl _ s)

/-- CNT_CLR empties the counters, and the block keeps the rest. -/
theorem State.writeRadCtrl_rad {s : State} {v : Nat} {w : Writer} (word : v < 4294967296) (asked : bit 1 v = true) :
    (s.writeRadCtrl v w).1.rad = { s.rad with trxs := s.rad.trxs.map TrxSt.clear } := by
  have written : (s.writeReg 0x40070000 v w).1.rad = s.rad := (s.writeReg_keeps _ v w).rad rfl
  have reported (changes : List (Nat × Nat)) (x : State) :
      Keeps { evt := true } x (forEach (fun p y => y.trxChanged p.1 p.2) changes x) :=
    keeps_forEach _ _ (fun p y kept => kept.trans (y.trxChanged_keeps p.1 p.2)) (.refl _ x)
  simp only [State.writeRadCtrl, radCtrl_clears word asked, if_true]
  rw [(reported _ _).rad rfl, written]

theorem exec_radCntClr_live {s : State} (live : s.live = true) (value : Word) (w : Writer) :
    exec (.radCntClr value w) s = .next (s.writeRadCtrl value.toNat w).1 :=
  congrArg Host.Outcome.next (State.whenLive_live live _)

/-! A write of RAD_TRXt_CTRL (R103). -/

/-- The description of RAD_TRXt_CTRL (Table 3.14). -/
def trxCtrlDesc : RegDesc :=
  { name := "RAD_TRX_CTRL", base := 0x40070100, stride := 0x40, count := 9, rw := 0xFF1F0F0F
    ranges := [(8, 11, 0, 6), (18, 20, 0, 6)] }

theorem descOf_trxCtrl : ∀ k : Fin 9, descOf (0x40070100 + 0x40 * k.val) = some trxCtrlDesc
  | 0 | 1 | 2 | 3 | 4 | 5 | 6 | 7 | 8 => rfl

/-- A register above RAD_RETRY is bounded by the ranges of its description alone (R605). -/
theorem regOk_above_retry {a : Nat} (above : 0x40070024 < a) (s : State) (v : Nat) : regOk s a v = true := by
  unfold regOk
  repeat rw [if_neg (by omega)]

/-- A described register resets to its description's value. -/
theorem resetWord_of_desc {a : Nat} {d : RegDesc} (desc : descOf a = some d) : resetWord a = d.resetAt a := by
  unfold resetWord
  rw [desc]

/-- The registers of an array whose reset value has no step reset alike. -/
theorem RegDesc.resetAt_of_no_step {d : RegDesc} {a : Nat} (step : d.resetStep = 0) : d.resetAt a = d.reset := by
  rw [RegDesc.resetAt, step, Nat.mul_zero, Nat.add_zero]

/-- The reset value of RAD_TRXt_CTRL is 0. -/
theorem resetWord_trxCtrl (k : Fin 9) : resetWord (0x40070100 + 0x40 * k.val) = 0 := by
  rw [resetWord_of_desc (descOf_trxCtrl k), RegDesc.resetAt_of_no_step rfl]
  rfl

/-- A write of RAD_TRXt_CTRL with a coded mode stores its fields, under any role. -/
theorem trxCtrl_regsWith {s : State} {v : Nat} {w : Writer} (canonical : canonicalRegs s.regs = true) (k : Fin 9)
    (word : v < 4294967296) (phy : field 11 8 v ≤ 6) (mcs : field 20 18 v ≤ 6) :
    RegsWith s (s.writeReg (0x40070100 + 0x40 * k.val) v w).1 (0x40070100 + 0x40 * k.val)
      (merge 0xFF1F0F0F (s.reg (0x40070100 + 0x40 * k.val)) v) := by
  have phyKept (old : Nat) : field 11 8 (merge 0xFF1F0F0F old v) = field 11 8 v := field_merge _ _ (by decide)
  have mcsKept (old : Nat) : field 20 18 (merge 0xFF1F0F0F old v) = field 20 18 v := field_merge _ _ (by decide)
  have old : s.reg (0x40070100 + 0x40 * k.val) < 4294967296 := s.reg_lt (by rw [resetWord_trxCtrl]; decide)
  refine State.writeReg_merged canonical (descOf_trxCtrl k) (merge_lt v (by decide) old) ?_ ?_
  · simp [RegDesc.merged, trxCtrlDesc, Nat.mod_eq_of_lt word]
  · rw [regOk_above_retry (by omega), Bool.and_true]
    simp [inRanges, trxCtrlDesc, phyKept, mcsKept, phy, mcs]

/-- A coded mode whose PSDU cap is not below 100 octets is stored as written, and not refused. -/
theorem State.writeTrx_stored {s : State} {t v : Nat} (phy : field 11 8 v ≤ 6) (mcs : field 20 18 v ≤ 6)
    (cap : 100 ≤ psduCap (ctrlMode v) s.time.nominal) (w : Writer) :
    (s.writeTrx t v w).1
      = ((s.writeReg (0x40070100 + 0x40 * t) v w).1.modTrx t fun x => { x with modeRefused := false }).trxChanged t
          (s.trxState t) := by
  have coded : ¬(6 < field 11 8 v ∨ 6 < field 20 18 v) := by omega
  have stored (old : Nat) : trxWord s.time.nominal old v = (v, false) := if_neg (by omega)
  simp only [State.writeTrx, coded, if_false, stored]

theorem State.trx_modTrx_same {s : State} {t : Nat} (within : t < s.rad.trxs.length) (f : TrxSt → TrxSt) :
    (s.modTrx t f).trx t = f (s.trx t) :=
  lget_lmod_same ({} : TrxSt) f within

theorem exec_trxCtrlWrite_live {s : State} (live : s.live = true) (k : Fin 9) (value : Word) (w : Writer) :
    exec (.trxCtrlWrite k value w) s = .next (s.writeTrx k.val value.toNat w).1 :=
  congrArg Host.Outcome.next (State.whenLive_live live _)

/-! A write of RAD_SAFEIE_CTRL (R120). -/

/-- The description of RAD_SAFEIE_CTRL (Table 3.13). -/
def safeIeDesc : RegDesc :=
  { name := "RAD_SAFEIE_CTRL", base := 0x40070038, rw := 0x80FFFFFF, ranges := [(0, 15, 0, 10000)] }

theorem descOf_safeIe : descOf 0x40070038 = some safeIeDesc := rfl

/-- A write within its ranges of a register that has neither RWL fields nor guarded actions is accepted from anyone. -/
theorem State.ruled_accepts_plain {s : State} {d : RegDesc} {a v new : Nat} {w : Writer} (fields : d.rwl = 0)
    (actions : d.act = 0) (word : d.merged (d.opensTo w s.mtr.sealOpen) (s.reg a) (v % 4294967296) = new)
    (fits : (inRanges d new && regOk s a new) = true) : (s.ruled d a v w).reason = .ok := by
  subst word
  unfold State.ruled writeRule
  extract_lets may shut lock new tried reason act
  have untried : tried = false := by simp [tried, fields, actions, masked]
  have accepted : reason = .ok := by simp [reason, untried]
  have inside : (inRanges d new && regOk s a new) = true := fits
  simpa [inside] using accepted

/-- A write of RAD_SAFEIE_CTRL whose field is within its range is accepted and stores its fields, under any role. -/
theorem safeIe_stored {s : State} {v : Nat} {w : Writer} (canonical : canonicalRegs s.regs = true) (word : v < 4294967296)
    (most : field 15 0 v ≤ 10000) :
    (s.writeReg 0x40070038 v w).2.reason = .ok
      ∧ RegsWith s (s.writeReg 0x40070038 v w).1 0x40070038 (merge 0x80FFFFFF (s.reg 0x40070038) v) := by
  have kept : field 15 0 (merge 0x80FFFFFF (s.reg 0x40070038) v) = field 15 0 v := field_merge _ _ (by decide)
  have merged : safeIeDesc.merged (safeIeDesc.opensTo w s.mtr.sealOpen) (s.reg 0x40070038) (v % 4294967296)
      = merge 0x80FFFFFF (s.reg 0x40070038) v := by
    simp [RegDesc.merged, safeIeDesc, Nat.mod_eq_of_lt word]
  have fits : (inRanges safeIeDesc (merge 0x80FFFFFF (s.reg 0x40070038) v)
      && regOk s 0x40070038 (merge 0x80FFFFFF (s.reg 0x40070038) v)) = true := by
    rw [regOk_above_retry (by decide), Bool.and_true]
    simpa [inRanges, safeIeDesc, kept] using most
  constructor
  · rw [State.writeReg_written descOf_safeIe]
    exact State.ruled_accepts_plain rfl rfl merged fits
  · exact State.writeReg_merged canonical descOf_safeIe (merge_lt v (by decide) (s.reg_lt (by decide))) merged fits

/-- An accepted write with VALID counts from the next cycle. -/
theorem State.writeSafeIe_valid {s : State} {v : Nat} {w : Writer} (accepted : (s.writeReg 0x40070038 v w).2.reason = .ok)
    (valid : bit 31 v = true) :
    (s.writeSafeIe v w).1
      = { (s.writeReg 0x40070038 v w).1 with rad := { s.rad with safeCn := s.cn + 1 } } := by
  have written := s.writeReg_keeps 0x40070038 v w
  simp only [State.writeSafeIe, accepted, valid, and_self, if_true]
  rw [written.rad rfl, written.cn rfl]

theorem exec_safeieWrite_live {s : State} (live : s.live = true) (value : Word) (w : Writer) :
    exec (.safeieWrite value w) s = .next (s.writeSafeIe value.toNat w).1 :=
  congrArg Host.Outcome.next (State.whenLive_live live _)

/-! The ledger registers (R130, Table 3.13). -/

theorem State.reg_setReg {s : State} (canonical : canonicalRegs s.regs = true) (a v b : Nat) :
    (s.setReg a v).reg b = if b = a then v % 4294967296 else s.reg b := by
  obtain ⟨stored, others⟩ := State.setReg_regsWith canonical a v
  split
  case isTrue same => rw [same, stored]
  case isFalse other => exact others b other

theorem twos_lt (width : Nat) (x : Int) : twos width x < 2 ^ width := by
  have positive : (0 : Int) < (2 ^ width : Nat) := by exact_mod_cast Nat.two_pow_pos width
  have below := Int.emod_lt_of_pos x positive
  unfold twos
  omega

/-- A read of the ledger stores the EUI, the ATTR and the DRIFT of the selected entry. -/
theorem State.ledgerRead_regs (s : State) :
    s.ledgerRead.regs = ((((s.setReg 0x40070404 (s.ldgEntry.eui % 4294967296)).setReg 0x40070408
      (s.ldgEntry.eui / 4294967296 % 4294967296)).setReg 0x4007040C s.ldgEntry.attr).setReg 0x40070424
      (twos 16 s.ldgEntry.drift)).regs := by
  simp only [State.ledgerRead]

/-- A read of the ledger loads the selected entry. -/
theorem State.ledgerRead_rad (s : State) : s.ledgerRead.rad = { s.rad with ldg := s.ldgEntry } := by
  simp only [State.ledgerRead]
  rw [State.setReg_rad, State.setReg_rad, State.setReg_rad, State.setReg_rad]

/-- What a read of the ledger leaves in the registers of the EUI and of the drift. -/
theorem State.ledgerRead_reg {s : State} (canonical : canonicalRegs s.regs = true) :
    s.ledgerRead.reg 0x40070404 = s.ldgEntry.eui % 4294967296
      ∧ s.ledgerRead.reg 0x40070408 = s.ldgEntry.eui / 4294967296 % 4294967296
      ∧ s.ledgerRead.reg 0x40070424 = twos 16 s.ldgEntry.drift := by
  have drift : twos 16 s.ldgEntry.drift % 4294967296 = twos 16 s.ldgEntry.drift :=
    Nat.mod_eq_of_lt (Nat.lt_trans (twos_lt 16 _) (by decide))
  have low := canonicalRegs_setReg s 0x40070404 (s.ldgEntry.eui % 4294967296) canonical
  have high := canonicalRegs_setReg _ 0x40070408 (s.ldgEntry.eui / 4294967296 % 4294967296) low
  have attr := canonicalRegs_setReg _ 0x4007040C s.ldgEntry.attr high
  have read := State.reg_congr s.ledgerRead_regs
  simp [read, State.reg_setReg, attr, high, low, canonical, drift]

theorem exec_ledgerRead_live {s : State} (live : s.live = true) : exec .ledgerRead s = .next s.ledgerRead :=
  congrArg Host.Outcome.next (State.whenLive_live live _)

theorem exec_ledgerWrite_live {s : State} (live : s.live = true) : exec .ledgerWrite s = .next s.ledgerWrite :=
  congrArg Host.Outcome.next (State.whenLive_live live _)

theorem exec_ledgerClear_live {s : State} (live : s.live = true) : exec .ledgerClear s = .next s.ledgerClear :=
  congrArg Host.Outcome.next (State.whenLive_live live _)

/-- Settles O28: each write of a register stores its merged word under any role, and the ledger's commands load or put the
entry of the selected place alone. -/
theorem ledgerAndRadioRegisters : Obligations.LedgerAndRadioRegisters := by
  refine ⟨⟨fun s live => exec_dutyBinRoll_live live, ?_, ?_, ?_⟩,
    fun s place e m live held muted ends due => exec_ledgerUnmute_due live held muted ends due, ?_⟩
  · intro s value w live _ asked
    exact ⟨_, exec_radCntClr_live live value w, State.writeRadCtrl_rad value.isLt asked,
      State.writeRadCtrl_fr _ w rfl (.refl _ s)⟩
  · intro s k value w live canonical phy mcs cap within
    have written := s.writeReg_keeps (0x40070100 + 0x40 * k.val) value.toNat w
    rw [← written.rad rfl] at within
    refine ⟨_, exec_trxCtrlWrite_live live k value w, ?_, ?_, State.writeTrx_fr _ _ w rfl (.refl _ s)⟩
    all_goals rw [State.writeTrx_stored phy mcs cap]
    · exact (trxCtrl_regsWith canonical k value.isLt phy mcs).congr rfl ((State.trxChanged_keeps _ _ _).regs rfl)
    · rw [State.trx, (State.trxChanged_keeps _ _ _).rad rfl, ← State.trx, State.trx_modTrx_same within]
  · intro s value w live canonical valid most
    obtain ⟨accepted, stored⟩ := safeIe_stored (w := w) canonical value.isLt most
    refine ⟨_, exec_safeieWrite_live live value w, ?_, ?_, State.writeSafeIe_fr _ w rfl (.refl _ s)⟩
    · rw [State.writeSafeIe_valid accepted valid]
    · rw [State.writeSafeIe_valid accepted valid]
      exact stored.congr rfl rfl
  · intro s live canonical
    refine ⟨?_, ?_, ?_⟩
    · obtain ⟨euiLow, euiHigh, drift⟩ := State.ledgerRead_reg canonical
      exact ⟨_, exec_ledgerRead_live live, s.ledgerRead_rad, euiLow, euiHigh, drift, State.ledgerRead_fr rfl (.refl _ s)⟩
    · exact ⟨_, _, exec_ledgerWrite_live live, tget_tput_same .., by rw [Nat.mul_comm 4294967296], rfl, rfl, rfl, rfl,
        fun n other => tget_tput_ne _ n _ _ other, State.ledgerWrite_fr rfl (.refl _ s)⟩
    · exact ⟨_, _, exec_ledgerClear_live live, tget_tput_same .., rfl,
        fun n other => tget_tput_ne _ n _ _ other, State.ledgerClear_fr rfl (.refl _ s)⟩

end Sys2Proof.Machine
end

section
/-! A message of a lantern node that the module knows: the node's record, and what serves the message (04). -/

namespace Sys2Proof.Machine

/-! A node's record by its short address and by its EUI-64. -/

theorem State.mem_of_nodeAt {s : State} {short : Nat} {n : NodeRec} (known : s.nodeAt short = some n) : n ∈ s.node.nodes :=
  List.mem_of_find?_eq_some known

/-- A node is found by the records alone. -/
theorem State.nodeAt_congr {s t : State} (same : t.node = s.node) (short : Nat) : t.nodeAt short = s.nodeAt short := by
  simp only [State.nodeAt, same]

/-- A changed record is found where it was while its short address stays. -/
theorem State.nodeAt_modNode {s : State} {short : Nat} {n : NodeRec} {f : NodeRec → NodeRec}
    (known : s.nodeAt short = some n) (stays : ∀ x, (f x).short = x.short) :
    (s.modNode n.eui f).nodeAt short = some (f n) := by
  have place (x : NodeRec) : (if x.eui = n.eui then f x else x).short = x.short := by
    split
    · exact stays x
    · rfl
  have kept : (fun x : NodeRec => decide (x.short = short)) ∘ (fun x => if x.eui = n.eui then f x else x)
      = fun x => decide (x.short = short) := by
    funext x
    exact congrArg (fun a => decide (a = short)) (place x)
  simp only [State.nodeAt] at known
  simp only [State.nodeAt, State.modNode, List.find?_map, kept, known, Option.map_some, if_true]

theorem State.mem_modNode {s : State} {eui : Nat} {n : NodeRec} (held : n ∈ s.node.nodes) (same : n.eui = eui)
    (f : NodeRec → NodeRec) : f n ∈ (s.modNode eui f).node.nodes :=
  List.mem_map.2 ⟨n, held, if_pos same⟩

/-- A change of state reaches the records as a change of the node alone (R184). -/
theorem State.setLink_node {s : State} {n : NodeRec} {st : LinkState} (other : n.state ≠ st) :
    (s.setLink n st).node = (s.modNode n.eui fun x => { x with state := st }).node := by
  have recorded (x : State) := (x.recordNode_fr (bl := { evt := true, way := true }) n.grove n.short (linkStateCode st) 0 0 .ok
    rfl (.refl _ x)).node rfl
  simp only [State.setLink, other, if_false]
  split
  · exact recorded _
  · exact recorded _

/-! An accepted frame of a node (R184). -/

/-- A node's record after a frame that it originated: its keepalive period is not missed, and STRAY is SCHEDULED again. -/
def NodeRec.afterFrame (n : NodeRec) : NodeRec :=
  if n.state = .stray then { n with heard := true, missed := 0, state := .scheduled } else { n with heard := true }

@[simp] theorem NodeRec.afterFrame_eui (n : NodeRec) : n.afterFrame.eui = n.eui := by
  unfold NodeRec.afterFrame
  split <;> rfl

@[simp] theorem NodeRec.afterFrame_short (n : NodeRec) : n.afterFrame.short = n.short := by
  unfold NodeRec.afterFrame
  split <;> rfl

theorem NodeRec.afterFrame_of_not_stray {n : NodeRec} (steady : n.state ≠ .stray) : n.afterFrame = { n with heard := true } :=
  if_neg steady

theorem State.nodeHeard_of_not_stray {s : State} {short : Nat} {n : NodeRec} (known : s.nodeAt short = some n)
    (steady : n.state ≠ .stray) : s.nodeHeard short = s.modNode n.eui fun x => { x with heard := true } := by
  simp only [State.nodeHeard, known, steady, if_false]

theorem State.nodeAt_nodeHeard {s : State} {short : Nat} {n : NodeRec} (known : s.nodeAt short = some n) :
    (s.nodeHeard short).nodeAt short = some n.afterFrame := by
  have heard := State.nodeAt_modNode (f := fun x => { x with heard := true }) known fun _ => rfl
  by_cases stray : n.state = .stray
  case neg =>
    rw [State.nodeHeard_of_not_stray known stray, NodeRec.afterFrame_of_not_stray stray]
    exact heard
  case pos =>
    have counted := State.nodeAt_modNode (f := fun x => { x with missed := 0 }) heard fun _ => rfl
    have scheduled := State.nodeAt_modNode (f := fun x => { x with state := .scheduled }) counted fun _ => rfl
    have leaves : n.state ≠ .scheduled := by simp [stray]
    simp only [State.nodeHeard, known, if_pos stray, NodeRec.afterFrame]
    rw [State.nodeAt_congr (State.setLink_node (n := { n with heard := true }) leaves)]
    exact scheduled

/-! A message (R181). -/

/-- A stand runs and is not tampered with, and the message comes from a node that the module knows and whose frames it takes. -/
structure State.Takes (s : State) (m : LinkMsg) (n : NodeRec) : Prop where
  live : s.live = true
  untampered : s.tampered = false
  known : s.nodeAt m.short = some n
  speaks : n.speaks = true

/-- A message of the form its type asks for is served with the node's record after its frame. -/
theorem State.Takes.served {s : State} {m : LinkMsg} {n : NodeRec} (h : s.Takes m n) {type most : Nat}
    {formed : List Byte → Bool} (fits : m.body.length ≤ most) (form : formed m.body = true)
    (serve : NodeRec → State → State) :
    (.next (s.whenLive fun s => s.linkMsg type most m formed serve) : Host.Outcome State Fault Refusal)
      = .next (serve n.afterFrame (s.nodeHeard m.short)) := by
  rw [State.whenLive_live h.live]
  simp [State.linkMsg, h.untampered, h.known, h.speaks, Nat.not_lt.2 fits, form, State.nodeAt_nodeHeard h.known]

end Sys2Proof.Machine
end

section
/-! What a KEEPALIVE tells of its node stays through all that the KEEPALIVE sets off (R159, R163, R164, R215 to R217). -/

namespace Sys2Proof.Machine

/-! The told part of the records. -/

/-- A node's identity, its state and what its last KEEPALIVE told: level, signal, CN and firmware. -/
def NodeRec.told (x : NodeRec) : Nat × LinkState × Nat × Int × Cn × Nat :=
  (x.eui, x.state, x.level, x.rssi, x.lastKeepalive, x.firmware)

/-- The told part of every record. -/
def State.told (s : State) : List (Nat × LinkState × Nat × Int × Cn × Nat) :=
  s.node.nodes.map NodeRec.told

theorem State.exists_of_told {s t : State} {x : NodeRec} (same : t.told = s.told) (held : x ∈ s.node.nodes) :
    ∃ y ∈ t.node.nodes, y.told = x.told := by
  have listed : x.told ∈ t.told := same ▸ List.mem_map_of_mem held
  exact List.mem_map.1 listed

theorem Keeps.told {b : Blocks} {s t : State} (h : Keeps b s t) (m : b.node = false) : t.told = s.told :=
  congrArg (fun x => x.nodes.map NodeRec.told) (h.node m)

theorem State.modNode_told (s : State) (eui : Nat) {f : NodeRec → NodeRec} (same : ∀ x, (f x).told = x.told) :
    (s.modNode eui f).told = s.told := by
  simp only [State.told, State.modNode, List.map_map]
  refine List.map_congr_left fun x _ => ?_
  simp only [Function.comp_apply]
  split
  · exact same x
  · rfl

theorem forEach_told {α : Type} {f : α → State → State} (same : ∀ a x, (f a x).told = x.told) (l : List α) (s : State) :
    (forEach f l s).told = s.told := by
  induction l generalizing s with
  | nil => rfl
  | cons a l ih => exact (ih (f a s)).trans (same a s)

@[simp] theorem NodeRec.putItem_told (x : NodeRec) (cn : Cn) (item : Item) : (x.putItem cn item).told = x.told := rfl

/-! Messages, items and schedules sent to a node. -/

@[simp] theorem State.sendNode_told (s : State) (n : NodeRec) (cell : Cell) (type : Nat) (body : List Byte) (load : Load)
    (notBefore : Nat) : (s.sendNode n cell type body load notBefore).told = s.told :=
  (State.sendNode_fr (bl := { rad := true }) n cell type body load notBefore rfl (.refl _ s)).told rfl

@[simp] theorem State.sendItem_told (s : State) (eui id : Nat) (content : List Byte) (effective : Cn) :
    (s.sendItem eui id content effective).told = s.told := by
  unfold State.sendItem
  split
  · rfl
  · rw [forEach_told fun _ _ => State.sendNode_told ..]
    exact State.modNode_told _ _ fun x => x.putItem_told ..

@[simp] theorem State.sendSchedule_told (s : State) (eui : Nat) : (s.sendSchedule eui).told = s.told := by
  unfold State.sendSchedule
  split
  · rfl
  · exact (State.sendNode_told ..).trans (State.modNode_told _ _ fun _ => by simp only [NodeRec.told, NodeRec.putItem])

@[simp] theorem State.queryDigest_told (s : State) (eui first : Nat) : (s.queryDigest eui first).told = s.told := by
  unfold State.queryDigest
  split
  · rfl
  · exact (State.sendNode_told ..).trans (State.modNode_told _ _ fun _ => by simp only [NodeRec.told])

/-! The checks of a KEEPALIVE, and the rejoin it may end. -/

@[simp] theorem State.checkDigest_told (s : State) (n : NodeRec) (digest : Nat) : (s.checkDigest n digest).told = s.told := by
  unfold State.checkDigest
  dsimp only
  split
  · exact State.modNode_told _ _ fun _ => by simp only [NodeRec.told]
  · exact (State.queryDigest_told ..).trans (State.modNode_told _ _ fun _ => by simp only [NodeRec.told])

@[simp] theorem State.checkPhase_told (s : State) (n : NodeRec) (x : Nat) : (s.checkPhase n x).told = s.told := by
  unfold State.checkPhase
  split
  · split
    · exact State.modNode_told _ _ fun _ => by simp only [NodeRec.told]
    · exact (State.sendItem_told ..).trans (State.modNode_told _ _ fun _ => by simp only [NodeRec.told])
  · exact State.modNode_told _ _ fun _ => by simp only [NodeRec.told]

@[simp] theorem State.endRejoin_told (s : State) : s.endRejoin.told = s.told := by
  unfold State.endRejoin
  split
  · rfl
  case h_2 r _ =>
    refine (forEach_told (fun e x => ?_) _ _).trans
      ((State.rejoinEvent_fr (bl := { evt := true, way := true }) 2 r rfl (.refl _ s)).told rfl)
    split
    · split
      · exact State.sendSchedule_told ..
      · rfl
    · rfl

@[simp] theorem State.checkRejoin_told (s : State) : s.checkRejoin.told = s.told := by
  unfold State.checkRejoin
  split
  · split
    · exact s.endRejoin_told
    · rfl
  · rfl

@[simp] theorem State.carryReleased_told (s : State) (short : Nat) : (s.carryReleased short).told = s.told :=
  (State.carryReleased_fr (bl := { rad := true }) short rfl (.refl _ s)).told rfl

/-! KEEPALIVE (R164). -/

/-- A node's record with what a KEEPALIVE tells of it at a CN (Table 4.10). -/
def NodeRec.withReadings (x : NodeRec) (b : List Byte) (cn : Cn) : NodeRec :=
  { x with
    level := ofLe (slice 20 2 b), status := ofLe (slice 22 2 b), rssi := ofTwos 8 (oct 24 b), etx := oct 25 b
    temperature := ofTwos 8 (oct 26 b), resets := oct 27 b, firmware := ofLe (slice 28 4 b), lastKeepalive := cn }

/-- The state once the readings of a KEEPALIVE are taken and its digest and phase are checked. -/
def State.keepaliveChecked (s : State) (n : NodeRec) (b : List Byte) : State :=
  ((((s.modEntry n.short fun e => { e with drift := ofTwos 16 (ofLe (slice 16 2 b)) }).modNode n.eui
    fun x => x.withReadings b s.cn).checkDigest n (ofLe (slice 0 16 b))).checkPhase n (ofLe (slice 18 2 b)))

theorem State.keepalive_of_joining {s : State} {n : NodeRec} (joining : n.state = .joining) (b : List Byte) :
    s.keepalive n b = (((s.keepaliveChecked n b).setLink n .scheduled).carryReleased n.short).checkRejoin := by
  simp only [State.keepalive, joining, if_true]
  rfl

/-- The first KEEPALIVE of a JOINING node leaves it SCHEDULED with the readings told. -/
theorem State.keepalive_joining_told {s : State} {n : NodeRec} (held : n ∈ s.node.nodes) (joining : n.state = .joining)
    (b : List Byte) :
    ∃ x ∈ (s.keepalive n b).node.nodes, x.told = { n.withReadings b s.cn with state := .scheduled : NodeRec }.told := by
  obtain ⟨x, checked, read⟩ := State.exists_of_told (t := s.keepaliveChecked n b)
    ((State.checkPhase_told ..).trans (State.checkDigest_told ..))
    (State.mem_modNode (s := s.modEntry n.short _) held rfl fun x => x.withReadings b s.cn)
  have linked : { x with state := .scheduled } ∈ ((s.keepaliveChecked n b).setLink n .scheduled).node.nodes := by
    rw [State.setLink_node (by simp [joining])]
    exact State.mem_modNode checked (congrArg Prod.fst read) _
  obtain ⟨y, last, same⟩ := State.exists_of_told
    (t := (((s.keepaliveChecked n b).setLink n .scheduled).carryReleased n.short).checkRejoin)
    ((State.checkRejoin_told _).trans (State.carryReleased_told ..)) linked
  refine ⟨y, State.keepalive_of_joining joining b ▸ last, same.trans ?_⟩
  exact congrArg (fun r : Nat × LinkState × Nat × Int × Cn × Nat => (r.1, LinkState.scheduled, r.2.2)) read

end Sys2Proof.Machine
end

section
/-! Messages that update a node's record (R162, R164, R173, R176), and O31. -/

namespace Sys2Proof.Machine

/-! A rising list holds what was listed. -/

theorem mem_insertNat {a x : Nat} {l : List Nat} : a ∈ insertNat x l ↔ a = x ∨ a ∈ l := by
  induction l with
  | nil => simp [insertNat]
  | cons y r ih =>
    unfold insertNat
    split
    · simp
    · simp only [List.mem_cons, ih]
      exact or_left_comm

theorem mem_eachOnce {a : Nat} {l : List Nat} : a ∈ eachOnce l ↔ a ∈ l := by
  fun_induction eachOnce l with
  | case1 => rfl
  | case2 => rfl
  | case3 x r ih => simp [ih]
  | case4 x y r _ ih => rw [List.mem_cons, ih, List.mem_cons (a := a) (b := x)]

theorem mem_rising {a : Nat} {l : List Nat} : a ∈ rising l ↔ a ∈ l := by
  have folded (acc : List Nat) : a ∈ l.foldl (fun r x => insertNat x r) acc ↔ a ∈ acc ∨ a ∈ l := by
    induction l generalizing acc with
    | nil => simp
    | cons x l ih => simp only [List.foldl_cons, ih, mem_insertNat, List.mem_cons, or_assoc, or_left_comm]
  simp [rising, mem_eachOnce, folded]

/-! KEEPALIVE, FAULT, a report of neighbours, and DIGEST_QUERY. -/

theorem exec_keepalive_served {s : State} {m : LinkMsg} {n : NodeRec} (h : s.Takes m n) (size : m.body.length = 32) :
    exec (.keepalive m) s = .next ((s.nodeHeard m.short).keepalive n.afterFrame m.body) :=
  h.served (by omega) (by simp [size]) _

/-- The faults held of a node after a FAULT with a code, raised or cleared (R176, log 76). -/
def NodeRec.withFault (x : NodeRec) (code : Nat) (raised : Bool) : NodeRec :=
  { x with faults := if raised then rising (code :: x.faults) else x.faults.filter fun c => decide (c ≠ code) }

theorem NodeRec.mem_faults_withFault (x : NodeRec) (code : Nat) (raised : Bool) :
    code ∈ (x.withFault code raised).faults ↔ raised = true := by
  cases raised <;> simp [NodeRec.withFault, mem_rising]

theorem exec_fault_served {s : State} {m : LinkMsg} {n : NodeRec} (h : s.Takes m n) (size : m.body.length = 11)
    (form : oct 1 m.body ≤ 1) :
    exec (.fault m) s = .next ((s.nodeHeard m.short).modNode n.eui
      fun x => x.withFault (oct 0 m.body) (decide (oct 1 m.body = 1))) := by
  refine (h.served (by omega) (by simp [size, form]) _).trans ?_
  simp [NodeRec.withFault]

/-- The neighbours that a report lists (Table 4.12). -/
def reportedNeighbours (b : List Byte) : List (Nat × Nat) :=
  (upFrom 0 (oct 6 b)).map fun i => (ofLe (slice (7 + 5 * i) 2 b), oct (11 + 5 * i) b)

/-- The judgement of a node's gaps touches no node (R284). -/
theorem State.neighboursReport_node (s : State) (n : NodeRec) (b : List Byte) :
    (s.neighboursReport n b).node = (s.modNode n.eui fun x => { x with neighbours := reportedNeighbours b }).node :=
  (State.judgeGaps_fr (bl := { dim := true, evt := true, way := true }) n.eui rfl (.refl _ _)).node rfl

theorem exec_report_neighbours {s : State} {m : LinkMsg} {n : NodeRec} (h : s.Takes m n) (fits : m.body.length ≤ 42)
    (form : reportOk m.body = true) (kind : oct 0 m.body = 3) :
    exec (.report m) s = .next ((s.nodeHeard m.short).neighboursReport n.afterFrame m.body) := by
  refine (h.served fits form _).trans ?_
  simp only [kind]

/-- A complete answer without items, from a node that holds none, agrees. -/
theorem State.compareItems_none (s : State) {n : NodeRec} {b : List Byte} (holds : n.ids = []) (last : bit 0 (oct 1 b) = false)
    (entries : queryEntries b = []) : s.compareItems n b = s := by
  simp [State.compareItems, last, entries, holds, forEach]

theorem exec_digestQuery_served {s : State} {m : LinkMsg} {n : NodeRec} (h : s.Takes m n) (empty : m.body = [0, 0]) :
    exec (.digestQuery m) s = .next ((s.nodeHeard m.short).compareItems n.afterFrame m.body) :=
  h.served (by simp [empty]) (by rw [empty]; decide) _

/-- Settles O31: each message is served with the node's record after its frame (`State.Takes.served`), and what it tells
stays in that record. -/
theorem nodeMessagesUpdateTheNode : Obligations.NodeMessagesUpdateTheNode := by
  intro s m n live untampered known speaks
  have h : s.Takes m n := ⟨live, untampered, known, speaks⟩
  have heard : n.afterFrame ∈ (s.nodeHeard m.short).node.nodes := State.mem_of_nodeAt (State.nodeAt_nodeHeard known)
  have fault (form : oct 1 m.body ≤ 1) (size : m.body.length = 11) :
      ∃ t x, exec (.fault m) s = .next t ∧ x ∈ t.node.nodes ∧ x.eui = n.eui
        ∧ (oct 0 m.body ∈ x.faults ↔ oct 1 m.body = 1)
        ∧ Keeps { dim := true, evt := true, node := true, rad := true, way := true } s t := by
    have next := exec_fault_served h size form
    refine ⟨_, _, next, State.mem_modNode heard n.afterFrame_eui _, n.afterFrame_eui, ?_,
      execFault_fr m next rfl (.refl _ s)⟩
    simp [NodeRec.mem_faults_withFault]
  refine ⟨fun size joining => ?_, fun size raised => ?_, fun size cleared => ?_, fun fits form kind => ?_,
    fun empty scheduled noItems => ?_⟩
  · have next := exec_keepalive_served h size
    have same : n.afterFrame = { n with heard := true } := NodeRec.afterFrame_of_not_stray (by simp [joining])
    have cn : (s.nodeHeard m.short).cn = s.cn :=
      (State.nodeHeard_fr (bl := { node := true, dim := true, evt := true, way := true }) m.short rfl (.refl _ s)).cn rfl
    rw [same] at next heard
    obtain ⟨x, held, told⟩ := State.keepalive_joining_told (n := { n with heard := true }) heard joining m.body
    simp only [NodeRec.told, NodeRec.withReadings, cn, Prod.mk.injEq] at told
    obtain ⟨eui, state, level, rssi, lastKeepalive, firmware⟩ := told
    exact ⟨_, x, next, held, eui, state, level, rssi, lastKeepalive, firmware,
      execKeepalive_fr m next rfl (.refl _ s)⟩
  · obtain ⟨t, x, next, held, eui, holds, keeps⟩ := fault (by omega) size
    exact ⟨t, x, next, held, eui, holds.2 raised, keeps⟩
  · obtain ⟨t, x, next, held, eui, holds, keeps⟩ := fault (by omega) size
    exact ⟨t, x, next, held, eui, fun listed => by simp [holds.1 listed] at cleared, keeps⟩
  · have next := exec_report_neighbours h fits form kind
    refine ⟨_, { n.afterFrame with neighbours := reportedNeighbours m.body }, next, ?_, n.afterFrame_eui, rfl,
      execReport_fr m next rfl (.refl _ s)⟩
    rw [State.neighboursReport_node]
    exact State.mem_modNode heard rfl _
  · have steady : n.state ≠ .stray := by simp [scheduled]
    have holds : n.afterFrame.ids = [] := (congrArg NodeRec.ids (NodeRec.afterFrame_of_not_stray steady)).trans noItems
    rw [exec_digestQuery_served h empty, empty, State.compareItems_none _ holds (by decide) (by decide),
      State.nodeHeard_of_not_stray known steady]

end Sys2Proof.Machine
end

section
/-! The answers of nodes that reach what asked for them (R171, R178, R179), and O32. -/

namespace Sys2Proof.Machine

/-! TALLY (R171). -/

/-- A target that answers and whose grove runs is settled by its OK (Table 5.9). -/
theorem Promise.resolve_ok {p : Promise} {t : Target} (listed : t ∈ p.targets) (unresolved : t.result = none)
    (answers : t.silent = false) (carried : t.radioLoss = false) :
    { t with result := some .ok } ∈ (p.resolve t.short (some .ok)).targets := by
  refine List.mem_map.2 ⟨t, listed, ?_⟩
  simp [unresolved, answers, carried]

/-- A result leaves every other target as it was. -/
theorem Promise.resolve_other {p : Promise} {t : Target} {short : Nat} (listed : t ∈ p.targets) (unresolved : t.result = none)
    (other : t.short ≠ short) (reason : Option Reason) : t ∈ (p.resolve short reason).targets := by
  refine List.mem_map.2 ⟨t, listed, ?_⟩
  simp [unresolved, other]

/-- The OK of an unasked target outside SAFETY is its result and nothing more: no late record and no preemption. -/
theorem State.targetResult_ok {s : State} {p : Promise} {t : Target} {short : Nat}
    (target : (p.targets.find? fun y => decide (y.short = short)) = some t) (unasked : t.queries = 0) (cls : p.cls ≠ .safety) :
    s.targetResult p short (some .ok) = s.modPromise p.id fun p => p.resolve short (some .ok) := by
  simp [State.targetResult, target, unasked, cls]

/-- A promise with a target that has no result keeps its OUTCOME back (R210). -/
theorem State.settleOutcomes_unresolved {s : State} {q : Promise} {t : Target} (sole : s.adm.promises = [q])
    (listed : t ∈ q.targets) (unresolved : t.result = none) : s.settleOutcomes = s := by
  have waits : (q.targets.all fun t => t.result.isSome) = false := List.all_eq_false.2 ⟨t, listed, by simp [unresolved]⟩
  simp only [State.settleOutcomes, sole, forEach, waits, Bool.false_eq_true, if_false]

/-- A TALLY of a unicast target that names no failure is that target's OK. -/
theorem State.tally_unicast_ok {s : State} {p : Promise} {n : NodeRec} {b : List Byte} (sole : s.adm.promises = [p])
    (named : p.id = ofLe (slice 0 4 b)) (unicast : bit 1 (oct 8 b) = true) (noFailure : oct 9 b = 0) :
    s.tally n b = (s.targetResult p n.short (some .ok)).settleOutcomes := by
  simp [State.tally, sole, named, unicast, tallyEntries, noFailure, upFrom]

/-- While another target has no result, the OK of a target is the sole promise's only change. -/
theorem State.settleOutcomes_targetResult_ok {s : State} {p : Promise} {t u : Target} {short : Nat}
    (sole : s.adm.promises = [p]) (target : (p.targets.find? fun y => decide (y.short = short)) = some t)
    (unasked : t.queries = 0) (cls : p.cls ≠ .safety) (listed : u ∈ p.targets) (other : u.short ≠ short)
    (waits : u.result = none) :
    (s.targetResult p short (some .ok)).settleOutcomes.adm.promises = [p.resolve short (some .ok)] := by
  have settled : (s.modPromise p.id fun p => p.resolve short (some .ok)).adm.promises = [p.resolve short (some .ok)] := by
    simp [State.modPromise, sole]
  have open_ : u ∈ (p.resolve short (some .ok)).targets := Promise.resolve_other listed waits other _
  rw [State.targetResult_ok target unasked cls, State.settleOutcomes_unresolved settled open_ waits, settled]

theorem exec_tally_served {s : State} {m : LinkMsg} {n : NodeRec} (h : s.Takes m n) (size : m.body.length = 10)
    (noFailure : oct 9 m.body = 0) :
    exec (.tally m) s = .next ((s.nodeHeard m.short).tally n.afterFrame m.body) :=
  h.served (by omega) (by simp [size, noFailure]) _

/-! NAK and CHUNK_STATE (R178, R179). -/

theorem exec_nak_offer {s : State} {m : LinkMsg} {n : NodeRec} (h : s.Takes m n) (size : m.body.length = 6)
    (offer : oct 0 m.body = 0x0A) :
    exec (.nak m) s = .next ((s.nodeHeard m.short).caravanNak n.eui (ofLe (slice 1 2 m.body))
      ((reasonOf (oct 3 m.body)).getD .unsupported)) := by
  refine (h.served (by omega) (by simp [size]) _).trans ?_
  simp [State.takeNak, offer]

/-- What a CHUNK_STATE tells of a node of a caravan of so many chunks (R179). -/
def CarNode.withChunks (x : CarNode) (b : List Byte) (count : Nat) : CarNode :=
  { x with
    bitmap := setChunks x.bitmap (ofLe (slice 4 2 b)) (ofLe (slice 8 32 b))
    held := ofLe (slice 6 2 b), complete := x.complete || decide (count ≤ ofLe (slice 6 2 b)) }

theorem CarNode.withChunks_eui (x : CarNode) (b : List Byte) (count : Nat) : (x.withChunks b count).eui = x.eui := by
  simp only [CarNode.withChunks]

theorem Caravan.settle_nodes (c : Caravan) : c.settle.nodes = c.nodes := by
  unfold Caravan.settle
  split <;> rfl

/-- The CHUNK_STATE of the sole node of the running caravan it names changes what that node holds, and the caravans alone. -/
theorem State.chunkState_sole {s : State} {n : NodeRec} {m : LinkMsg} {i : Nat} {c : Caravan} {x : CarNode}
    (sole : s.upd.caravans = [(i, c)]) (named : c.id = ofLe (slice 0 4 m.body)) (runs : c.state ≠ .ended)
    (nodes : c.nodes = [x]) (same : x.eui = n.eui) :
    (s.chunkState n m).upd.caravans = [(i, Caravan.settle { c with nodes := [x.withChunks m.body c.count] })]
      ∧ Keeps { upd := true } s (s.chunkState n m) := by
  have found : s.upd.findCaravan (ofLe (slice 0 4 m.body)) = some (i, c) := by simp [UpdSt.findCaravan, sole, named]
  simp only [State.chunkState, found, runs, if_false]
  refine ⟨?_, State.modCaravan_fr _ _ rfl (.refl _ s)⟩
  simp [State.modCaravan, sole, nodes, same, CarNode.withChunks]

theorem exec_chunkState_served {s : State} {m : LinkMsg} {n : NodeRec} (h : s.Takes m n) (size : m.body.length = 40) :
    exec (.chunkState m) s = .next ((s.nodeHeard m.short).chunkState n.afterFrame m) :=
  h.served (by omega) (by simp [size]) _

/-- Settles O32: each answer is served with the node's record after its frame (`State.Takes.served`), and reaches the sole
promise or caravan that it names. -/
theorem nodeAnswersReachTheirRequests : Obligations.NodeAnswersReachTheirRequests := by
  intro s m n live untampered known speaks scheduled
  have h : s.Takes m n := ⟨live, untampered, known, speaks⟩
  have steady : n.state ≠ .stray := by simp [scheduled]
  have heard := State.nodeHeard_of_not_stray known steady
  refine ⟨fun p x u sole named cls size noFailure unicast target unresolved unasked answers carried listed other waits => ?_,
    fun size offer => ?_, fun i c x size sole named runs nodes same => ?_⟩
  · have next := exec_tally_served h size noFailure
    have sole' : (s.nodeHeard m.short).adm.promises = [p] := by rw [heard]; exact sole
    have here : x.short = n.short :=
      of_decide_eq_true (List.find?_some (p := fun y : Target => decide (y.short = n.short)) target)
    have settled : ((s.nodeHeard m.short).tally n.afterFrame m.body).adm.promises = [p.resolve n.short (some .ok)] := by
      rw [State.tally_unicast_ok sole' named unicast noFailure, n.afterFrame_short]
      exact State.settleOutcomes_targetResult_ok sole' target unasked cls listed other waits
    refine ⟨_, p.resolve n.short (some .ok), { x with result := some .ok }, next, settled, rfl, ?_, here, rfl,
      execTally_fr m next rfl (.refl _ s)⟩
    exact here ▸ Promise.resolve_ok (List.mem_of_find?_eq_some target) unresolved answers carried
  · rw [exec_nak_offer h size offer, heard]
  · have sole' : (s.nodeHeard m.short).upd.caravans = [(i, c)] := by rw [heard]; exact sole
    obtain ⟨caravans, keeps⟩ := State.chunkState_sole (n := n.afterFrame) sole' named runs nodes
      (same.trans n.afterFrame_eui.symm)
    refine ⟨_, _, x.withChunks m.body c.count, exec_chunkState_served h size, caravans,
      Caravan.settle_nodes _, (x.withChunks_eui ..).trans same, rfl, rfl, ?_⟩
    refine Keeps.trans ?_ (keeps.mono rfl)
    rw [heard]
    exact State.modNode_fr _ _ rfl (.refl _ s)

end Sys2Proof.Machine
end

section
/-! What an admission books: the search for the earliest CN that fits adds bookings and touches nothing else (R193 to R207). -/

namespace Sys2Proof.Machine

/-- A state that is another with further bookings. -/
def State.Books (s t : State) : Prop :=
  ∃ l, t = { s with adm := { s.adm with bookings := s.adm.bookings ++ l } }

theorem State.Books.refl (s : State) : s.Books s :=
  ⟨[], by simp⟩

theorem State.Books.trans {s t u : State} (h : s.Books t) (g : t.Books u) : s.Books u := by
  obtain ⟨l, rfl⟩ := h
  obtain ⟨k, rfl⟩ := g
  exact ⟨l ++ k, by simp⟩

theorem State.book_books (s : State) (b : Booking) : s.Books (s.book b) :=
  ⟨[b], rfl⟩

theorem State.Books.queue {s t : State} (h : s.Books t) : t.adm.queue = s.adm.queue := by
  obtain ⟨l, rfl⟩ := h
  rfl

theorem forEach_books {α : Type} {f : α → State → State} (one : ∀ a x, State.Books x (f a x)) (l : List α)
    (s : State) : s.Books (forEach f l s) := by
  induction l generalizing s with
  | nil => exact .refl s
  | cons a l ih => exact (one a s).trans (ih _)

/-- What a search answers, where it answers, has further bookings alone. -/
def Fit.Books (s : State) (f : Fit) : Prop :=
  ∀ t e, f.found = some (t, e) → s.Books t

/-- The resource that last bound is no booking. -/
theorem Fit.Books.with_binding {s : State} {f : Fit} (h : f.Books s) (r : Reason) : Fit.Books s { f with binding := r } :=
  h

theorem State.bookCells_books {s u : State} {id g air k a last m : Nat} {n : Nat} {r r' : Reason}
    (found : s.bookCells id g air n k a last r = (some (u, m), r')) : s.Books u := by
  induction k generalizing s a last r with
  | zero =>
    cases found
    exact .refl _
  | succ k ih =>
    unfold State.bookCells at found
    split at found
    · exact (s.book_books _).trans (ih found)
    · cases found

theorem State.bookFlood_books (s : State) (id from_ : Nat) (frames : Nat → List (List Byte)) (cells : Nat → Nat)
    (gs : List Nat) (e : Cn) (r : Reason) : (s.bookFlood id from_ frames cells gs e r).Books s := by
  fun_induction State.bookFlood with
  | case1 s e r => rintro _ _ ⟨⟩; exact .refl s
  | case2 s e r g gs bs t last r' cells ih => exact fun u c found => (State.bookCells_books cells).trans (ih u c found)
  | case3 => rintro _ _ ⟨⟩

theorem State.bookPrompt_books (s : State) (id from_ short : Nat) (bs : List (List Byte)) (e : Cn) (r : Reason) :
    (s.bookPrompt id from_ short bs e r).Books s := by
  intro t c found
  unfold State.bookPrompt at found
  dsimp only at found
  split at found
  case h_1 cells => cases found; exact State.bookCells_books cells
  case h_2 => cases found

theorem State.bookBulk_books {s u : State} {id g air n a w m : Nat} {path : List Nat}
    (found : s.bookBulk id g air n path a w = some (u, m)) : s.Books u := by
  induction path generalizing s a w with
  | nil =>
    cases found
    exact .refl _
  | cons x rest ih =>
    unfold State.bookBulk at found
    split at found
    · split at found
      · exact (forEach_books (fun _ x => x.book_books _) _ s).trans (ih found)
      · cases found
    · cases found

theorem State.bookBulkTo_books (s : State) (id from_ short : Nat) (bs : List (List Byte)) (e : Cn) (r : Reason) :
    (s.bookBulkTo id from_ short bs e r).Books s := by
  unfold State.bookBulkTo
  dsimp only
  split
  · split
    case h_1 bulk => rintro _ _ ⟨⟩; exact State.bookBulk_books bulk
    case h_2 => rintro _ _ ⟨⟩
  · exact s.bookPrompt_books _ _ _ _ _ _

theorem State.bookEach_books (s : State) (c : TxClass) (id from_ : Nat) (bodies : Nat → List (List Byte)) (xs : List Nat)
    (e : Cn) (r : Reason) : (s.bookEach c id from_ bodies xs e r).Books s := by
  have one (s : State) (x : Nat) (e : Cn) (r : Reason) :
      Fit.Books s (if c = .bulk then s.bookBulkTo id from_ x (bodies x) e r else s.bookPrompt id from_ x (bodies x) e r) := by
    split
    · exact s.bookBulkTo_books _ _ _ _ _ _
    · exact s.bookPrompt_books _ _ _ _ _ _
  induction xs generalizing s e r with
  | nil => rintro _ _ ⟨⟩; exact .refl s
  | cons x xs ih =>
    unfold State.bookEach
    dsimp only
    split
    case h_1 found => exact fun u c' rest => (one s x e r _ _ found).trans (ih _ _ _ u c' rest)
    case h_2 => exact one s x e r

theorem State.fit_books (s : State) (a : Ask) (c : TxClass) (id : Nat) (good : List Nat) (from_ : Nat) (e : Cn) :
    (s.fit a c id good from_ e).Books s := by
  unfold State.fit
  split
  · exact s.bookFlood_books _ _ _ _ _ _ _
  · exact s.bookEach_books _ _ _ _ _ _ _

theorem State.earliestFit_books (s : State) (a : Ask) (c : TxClass) (id : Nat) (good : List Nat) (deadline lead : Cn) :
    (s.earliestFit a c id good deadline lead).Books s := by
  unfold State.earliestFit
  extract_lets least named free near
  have nearBooks {f : Fit} (h : f.Books s) : (near f).Books s := by
    simp only [near]
    split
    · split
      · rintro _ _ ⟨⟩
      · exact h
    · exact h
  have namedBooks : named.Books s := s.fit_books _ _ _ _ _ _
  have freeBooks : free.Books s := s.fit_books _ _ _ _ _ _
  split
  · split
    · split
      · exact namedBooks
      · exact nearBooks freeBooks
    · exact nearBooks (freeBooks.with_binding _)
  · exact nearBooks freeBooks

end Sys2Proof.Machine
end

section
/-! An ADMIT arrives and is decided (R189, R193, R199, R200, R229, R231). -/

namespace Sys2Proof.Machine

/-! The arrival. -/

/-- An ADMIT waits: its id is kept without an answer, and it is the last of the queue. -/
def State.awaits (s : State) (q : Admit) : State :=
  { s with
    fsp := s.fsp.keep { tx := q.tx, digest := admitDigest q.deadline q.body }
    adm := { s.adm with queue := s.adm.queue ++ [q] } }

theorem State.awaits_keeps (s : State) (q : Admit) : Keeps { adm := true, fsp := true } s (s.awaits q) := by
  simp only [Keeps, State.forget, State.awaits, cond_true, cond_false]

/-- An ADMIT restarts its session's idle time and is counted for the summary (R226, R489). -/
def State.admitHeard (s : State) (i : Fin 4) (c : Session) : State :=
  (s.heard i).countUse i c fun c => { c with admits := satAdd 65535 c.admits 1 }

theorem State.admitHeard_keeps (s : State) (i : Fin 4) (c : Session) : Keeps { fsp := true } s (s.admitHeard i c) :=
  State.countUse_fr i c _ rfl (s.heard_keeps i)

@[simp] theorem State.admitHeard_adm (s : State) (i : Fin 4) (c : Session) : (s.admitHeard i c).adm = s.adm :=
  (s.admitHeard_keeps i c).adm rfl

/-- An operator's ADMIT with a new id waits while fewer than 64 do. -/
theorem State.admitArrive_awaits {s : State} {i : Fin 4} {c : Session} {role : Byte} {tx : Nat} (isOpen : s.session i = some c)
    (notModem : c.path ≠ 3) (may : c.mayAsk role.toNat .operator = true)
    (unseen : (s.fsp.kept.find? fun k => decide (k.tx = tx)) = none) (room : s.adm.queue.length < 64) (deadline : Cn)
    (body : List Byte) :
    s.admitArrive i role deadline tx body = (s.admitHeard i c).awaits
      { session := some i, tx := tx, deadline := deadline, body := body } := by
  obtain ⟨octet, right⟩ : roleOf role.toNat = some c.role ∧ holdsRight .operator c.role = true := by
    simpa [Session.mayAsk] using may
  have unkept : ((s.heard i).fsp.kept.find? fun k => decide (k.tx = tx)) = none := unseen
  have notFull : ¬ 64 ≤ (s.admitHeard i c).adm.queue.length := by simp [room]
  simp only [State.heard, State.admitHeard] at unkept notFull
  simp only [State.admitArrive, isOpen, notModem, octet, right, unkept, notFull, State.awaits, State.admitHeard, State.heard,
    ne_eq, not_true_eq_false, if_false, Bool.not_true, Bool.false_eq_true]

theorem exec_admitArrive_live {s : State} (live : s.live = true) (i : Fin 4) (role : Byte) (deadline : BitVec 40) (tx : Word)
    (body : List Byte) :
    exec (.admitArrive i role deadline tx body) s = .next (s.admitArrive i role deadline.toNat tx.toNat body) :=
  congrArg Host.Outcome.next (State.whenLive_live live _)

/-! The decision answers the ADMIT that it takes, and takes no other. -/

/-- On the way from one state to another, an ADMIT is answered PROMISE or DECLINE on a session, and the same ADMITs wait. -/
structure State.Decides (s : State) (q : Admit) (i : Fin 4) (t : State) : Prop where
  waiting : t.adm.queue.map Admit.tx = s.adm.queue.map Admit.tx
  answered : ∃ type body, (type = 0x11 ∨ type = 0x12) ∧ Output.fsp i.val type 1 q.tx body ∈ t.out

section

variable {s t u : State} {q : Admit} {i : Fin 4}

/-- An answer stays given through what leaves the waiting ADMITs alone. -/
theorem State.Decides.then (h : s.Decides q i t) (waiting : u.adm.queue.map Admit.tx = t.adm.queue.map Admit.tx)
    (grown : Evolves t u) : s.Decides q i u := by
  obtain ⟨type, body, kind, sent⟩ := h.answered
  exact ⟨waiting.trans h.waiting, type, body, kind, grown.out.subset sent⟩

theorem State.Decides.keeps {b : Blocks} (h : s.Decides q i t) (kept : Keeps b t u) (grown : Evolves t u)
    (m : b.adm = false) : s.Decides q i u :=
  h.then (by rw [kept.adm m]) grown

/-- What comes before the answer leaves the waiting ADMITs alone. -/
theorem State.Decides.of_queue (h : t.Decides q i u) (same : t.adm.queue = s.adm.queue) : s.Decides q i u :=
  ⟨by rw [h.waiting, same], h.answered⟩

theorem decides_ite {a b : State} (c : Prop) [Decidable c] (ha : s.Decides q i a) (hb : s.Decides q i b) :
    s.Decides q i (if c then a else b) := by
  split
  · exact ha
  · exact hb

/-! What follows an answer. -/

theorem State.closeSession_waiting (s : State) (i : Fin 4) :
    (s.closeSession i).adm.queue.map Admit.tx = s.adm.queue.map Admit.tx := by
  have recorded (x : State) (c : Bool) (role : Role) (source id : Nat) (reason : Reason) (b : List Byte) :
      (x.iff c fun x => x.recordAs role source id reason b).adm = x.adm :=
    (keeps_iff (l := { evt := true, way := true }) c _ (.refl _ x)
      fun _ h => State.recordAs_fr _ _ _ _ _ rfl h).adm rfl
  have dropped (l : List Admit) (f : Admit → Admit) (same : ∀ a, (f a).tx = a.tx) :
      (l.map f).map Admit.tx = l.map Admit.tx := by simp [Function.comp_def, same]
  have kept (a : Admit) : (if a.session = some i then { a with session := none } else a).tx = a.tx := by split <;> rfl
  unfold State.closeSession
  split
  · rfl
  · dsimp only
    split <;> simp only [recorded] <;> exact dropped _ _ kept

theorem State.fspViolation_waiting (s : State) (i : Fin 4) (reason : Reason) (type tx : Nat) :
    (s.fspViolation i reason type tx).adm.queue.map Admit.tx = s.adm.queue.map Admit.tx := by
  have recorded (role : Role) (source id : Nat) (b : List Byte) : (s.recordAs role source id reason b).adm = s.adm :=
    (State.recordAs_fr (bl := { evt := true, way := true }) _ _ _ _ _ rfl (.refl _ s)).adm rfl
  unfold State.fspViolation
  split
  · rfl
  · dsimp only
    split
    · rw [State.closeSession_waiting]
      exact congrArg (fun a => a.queue.map Admit.tx) (recorded ..)
    · exact congrArg (fun a => a.queue.map Admit.tx) (recorded ..)

theorem State.sendPromise_queue (s : State) (a : Ask) (c : TxClass) (id : Nat) (e : Cn) (good : List Nat) :
    (s.sendPromise a c id e good).adm.queue = s.adm.queue := by
  unfold State.sendPromise
  extract_lets cn item isItem _ held
  have sent : Keeps { node := true, rad := true } held (s.sendPromise a c id e good) :=
    keeps_ite _
      (keeps_forEach _ _ (fun _ _ h => keeps_iff _ _
        (keeps_iff _ _ (State.floodPromise_fr _ _ _ _ _ _ rfl h) fun _ h => State.furtherPasses_fr _ _ _ _ _ _ rfl h)
        fun _ h => keeps_forEach _ _ (fun _ _ h => keeps_ite _ (State.noteItem_fr _ _ _ _ rfl h) h) h) (.refl _ _))
      (keeps_forEach _ _ (fun _ _ h => keeps_iff _ _ (State.unicastPromise_fr _ _ _ _ _ _ rfl h)
        fun _ h => State.noteItem_fr _ _ _ _ rfl h) (.refl _ _))
  have heldQueue : held.adm.queue = s.adm.queue := by
    simp only [held]
    split <;> rfl
  exact (congrArg AdmSt.queue (sent.adm rfl)).trans heldQueue

/-! The answers. -/

variable (asked : q.session = some i)
include asked

theorem State.answerAdmit_decides (s : State) {type : Nat} (kind : type = 0x11 ∨ type = 0x12) (body : List Byte) :
    s.Decides q i (s.answerAdmit q type body) := by
  simp only [State.answerAdmit, asked]
  exact ⟨rfl, type, body, kind, State.respond_mem_out ..⟩

theorem State.decline_decides (s : State) (reason : Reason) (earliest : Cn) : s.Decides q i (s.decline q reason earliest) :=
  s.answerAdmit_decides asked (.inr rfl) _

theorem State.declineCounted_decides (s : State) (reason : Reason) : s.Decides q i (s.declineCounted q reason) := by
  simp only [State.declineCounted, asked]
  exact (s.decline_decides asked reason 0).then (State.fspViolation_waiting ..) (State.fspViolation_ev _ _ _ _ (.refl _))

/-- A PROMISE is answered before its frames go out. -/
theorem State.givePromise_sendPromise_decides (s : State) (p : Promise) (a : Ask) (c : TxClass) (id : Nat) (e : Cn)
    (good : List Nat) : s.Decides q i ((s.givePromise q p).sendPromise a c id e good) :=
  have given : s.Decides q i (s.givePromise q p) := (State.answerAdmit_decides asked _ (.inl rfl) _).of_queue rfl
  given.then (congrArg _ (State.sendPromise_queue ..)) (State.sendPromise_ev _ _ _ _ _ (.refl _))

/-! The procedure of R200, from its end to its beginning. -/

theorem State.declineCaravan_decides (s : State) (c : Caravan) (good lacking : List Nat) :
    s.Decides q i (s.declineCaravan q c good lacking) :=
  (s.decline_decides asked .busy (s.caravanEstimate c lacking)).keeps
    (keeps_forEach (l := { fsp := true, evt := true, way := true, out := true }) _ _
      (fun _ _ h => State.push_fr _ _ _ rfl h) (.refl _ _))
    (evolves_forEach _ _ (fun _ _ h => State.push_ev _ _ _ h) (.refl _)) rfl

theorem State.decideSafety_decides (s : State) (a : Ask) (l : List Judged2) : s.Decides q i (s.decideSafety q a l) :=
  decides_ite _ (s.decline_decides asked _ _) <|
  decides_ite _ (s.decline_decides asked _ _) <|
    (s.givePromise_sendPromise_decides asked _ a _ _ _ _).keeps
      (State.safetyStrings_fr (bl := { drv := true }) a rfl (.refl _ _)) (State.safetyStrings_ev a (.refl _)) rfl

theorem State.decideFit_decides (s : State) (a : Ask) (c : TxClass) (l : List Judged2) (car : Option Caravan) :
    s.Decides q i (s.decideFit q a c l car) := by
  unfold State.decideFit
  extract_lets good lead d id f
  split
  · exact s.decline_decides asked _ _
  case h_2 t e found =>
    have same : t.adm.queue = s.adm.queue := (s.earliestFit_books _ _ _ _ _ _ t e found).queue
    split
    · exact s.decline_decides asked _ _
    · refine decides_ite _ (s.decline_decides asked _ _) <| decides_ite _ (s.decline_decides asked _ _) <|
        decides_ite _ (s.decline_decides asked _ _) ?_
      extract_lets _ p sent
      have promised : s.Decides q i sent := (t.givePromise_sendPromise_decides asked p a c id e _).of_queue same
      split
      · exact promised.keeps (b := { upd := true, evt := true, way := true })
          (State.caravanPhase_fr _ _ rfl (State.modCaravan_fr _ _ rfl (.refl _ _)))
          (State.caravanPhase_ev _ _ (State.modCaravan_ev _ _ (.refl _))) rfl
      · exact promised

theorem State.decideLead_decides (s : State) (a : Ask) (c : TxClass) (l : List Judged2) (car : Option Caravan) :
    s.Decides q i (s.decideLead q a c l car) := by
  refine decides_ite _ (s.decline_decides asked _ _) <| decides_ite _ (s.decline_decides asked _ _) ?_
  cases car with
  | none => exact s.decideFit_decides asked a c _ none
  | some k => exact decides_ite _ (s.declineCaravan_decides asked ..) (s.decideFit_decides asked ..)

theorem State.decideTargets_decides (s : State) (a : Ask) (c : TxClass) (car : Option Caravan) :
    s.Decides q i (s.decideTargets q a c car) :=
  decides_ite _ (s.decline_decides asked _ _) <|
  decides_ite _ (s.decline_decides asked _ _) <|
  decides_ite _ (s.decideSafety_decides asked _ _) <|
  decides_ite _ (s.decline_decides asked _ _) <|
  decides_ite _ (s.decline_decides asked _ _) <|
    s.decideLead_decides asked _ _ _ _

theorem State.decideAdmit_decides (s : State) : s.Decides q i (s.decideAdmit q) := by
  unfold State.decideAdmit
  split
  · exact s.declineCounted_decides asked _
  split
  · exact s.decline_decides asked _ _
  exact decides_ite _ (s.decline_decides asked _ _) <|
    decides_ite _ (s.decline_decides asked _ _) <|
    decides_ite _ (s.decline_decides asked _ _) <|
    decides_ite _ (s.decline_decides asked _ _) <|
    decides_ite _ (s.decline_decides asked _ _) <|
    decides_ite _ (s.decline_decides asked _ _) <|
      s.decideTargets_decides asked _ _ _

end

theorem exec_admitDecision_oldest {s : State} {q : Admit} {rest : List Admit} (live : s.live = true)
    (oldest : s.adm.queue = q :: rest) :
    exec .admitDecision s = .next ({ s with adm := { s.adm with queue := rest } }.decideAdmit q) :=
  congrArg Host.Outcome.next <| (State.whenLive_live live _).trans <| by simp only [oldest]

theorem exec_admitDecision_none {s : State} (live : s.live = true) (empty : s.adm.queue = []) :
    exec .admitDecision s = .next s :=
  congrArg Host.Outcome.next <| (State.whenLive_live live _).trans <| by simp only [empty]

end Sys2Proof.Machine
end

section
/-! Promises, queries and rejoins come to their ends (R210, R213, R215), and O33. -/

namespace Sys2Proof.Machine

/-! An OUTCOME. -/

/-- Admission once a promise has ended: the promise and its bookings are gone. -/
def AdmSt.without (a : AdmSt) (id : Nat) : AdmSt :=
  { a with
    promises := a.promises.filter fun x => decide (x.id ≠ id)
    bookings := a.bookings.filter fun b => decide (b.promise ≠ id) }

/-- The records, the push and the caravan of an OUTCOME leave admission alone: its promise ends, and nothing else there. -/
theorem State.outcome_adm (s : State) (p : Promise) : (s.outcome p).adm = s.adm.without p.id := by
  unfold State.outcome
  extract_lets broken recorded _ _ ended
  have records : recorded.adm = s.adm :=
    (keeps_forEach (l := { evt := true, way := true }) _ broken
      (fun _ _ h => State.record_fr _ _ _ _ rfl h) (.refl _ s)).adm rfl
  have pushed := (State.caravanOutcome_fr
    (bl := { evt := true, fsp := true, out := true, rad := true, upd := true, way := true }) p rfl
    (State.push_fr 0x13 (outcomeBody p) p.room rfl (.refl _ ended))).adm rfl
  exact pushed.trans (congrArg (AdmSt.without · p.id) records)

theorem exec_outcomeDeadline_due {s : State} {id : Word} {p : Promise} (live : s.live = true)
    (named : (s.adm.promises.find? fun p => decide (p.id = id.toNat)) = some p) (due : p.outcomeBy ≤ s.cn) :
    exec (.outcomeDeadline id) s = .next (s.outcome p.breakOpen) :=
  congrArg Host.Outcome.next <| (State.whenLive_live live _).trans <| by simp [named, due]

/-! A QUERY. -/

/-- A target's second query goes out with a cycle (R210). -/
def Target.askedAgain (t : Target) (cn : Cn) : Target :=
  { t with queries := 2, queryCn := cn }

theorem exec_queryNoAnswer_sole {s : State} {id : Word} {short : BitVec 16} {p : Promise} {x : Target} (live : s.live = true)
    (sole : s.adm.promises = [p]) (named : p.id = id.toNat) (target : p.targets = [x]) (here : x.short = short.toNat)
    (unresolved : x.result = none) (once : x.queries = 1) :
    exec (.queryNoAnswer id short) s = .next
      (State.query { s with adm := { s.adm with promises := [{ p with targets := [x.askedAgain s.cn] }] } } p short.toNat) :=
  congrArg Host.Outcome.next <| (State.whenLive_live live _).trans <| by
    simp [sole, named, target, here, unresolved, once, State.modPromise, Promise.modOpen, Target.askedAgain]

/-! A rejoin. -/

theorem State.endRejoin_adm {s : State} {r : Rejoin} (running : s.adm.rejoin = some r) :
    s.endRejoin.adm = { s.adm with rejoin := none } := by
  have event : (s.rejoinEvent 2 r).adm = s.adm :=
    (State.rejoinEvent_fr (bl := { evt := true, way := true }) 2 r rfl (.refl _ s)).adm rfl
  simp only [State.endRejoin, running]
  refine (Keeps.adm (keeps_forEach (l := { node := true, rad := true, freeIdx := true }) _ _ (fun e x h => ?_)
    (.refl _ _)) rfl).trans (by rw [event])
  split
  · exact keeps_ite _ (State.sendSchedule_fr e rfl h) h
  · exact h

theorem exec_rejoinTimeout_due {s : State} {r : Rejoin} (live : s.live = true) (running : s.adm.rejoin = some r)
    (due : r.start + 4500 ≤ s.cn) : exec .rejoinTimeout s = .next s.endRejoin :=
  congrArg Host.Outcome.next <| (State.whenLive_live live _).trans <| by simp [running, due]

/-- Settles O33: an arrival by `State.admitArrive_awaits`, a decision by `State.decideAdmit_decides`, and the ends by what
each does to admission. -/
theorem admitsAndPromises : Obligations.AdmitsAndPromises := by
  refine ⟨⟨?arrives, ?decides, fun _ live empty => exec_admitDecision_none live empty⟩, ?outcome, ?query, ?rejoin⟩
  case arrives =>
    intro s i c role deadline tx body live isOpen notModem may unseen room
    refine ⟨_, exec_admitArrive_live live .., ?_⟩
    rw [State.admitArrive_awaits isOpen notModem may unseen room]
    refine ⟨?_, ((s.admitHeard_keeps i c).mono rfl).trans (State.awaits_keeps ..)⟩
    simp only [State.awaits, State.admitHeard_adm]
  case decides =>
    intro s q rest i live oldest asked
    have next := exec_admitDecision_oldest live oldest
    obtain ⟨waiting, type, body, kind, sent⟩ :=
      State.decideAdmit_decides asked { s with adm := { s.adm with queue := rest } }
    exact ⟨_, type, body, next, waiting, kind, sent, execAdmitDecision_fr next rfl (.refl _ s)⟩
  case outcome =>
    intro s id p live named due
    have next := exec_outcomeDeadline_due live named due
    have adm := s.outcome_adm p.breakOpen
    exact ⟨_, next, congrArg AdmSt.promises adm, congrArg AdmSt.bookings adm, execOutcomeDeadline_fr id next rfl (.refl _ s)⟩
  case query =>
    intro s id short p x live sole named target here unresolved once
    have next := exec_queryNoAnswer_sole live sole named target here unresolved once
    have adm := (State.query_fr (bl := { rad := true }) p short.toNat rfl (.refl _
      { s with adm := { s.adm with promises := [{ p with targets := [x.askedAgain s.cn] }] } })).adm rfl
    exact ⟨_, _, _, next, congrArg AdmSt.promises adm, rfl, rfl, rfl, rfl, rfl, unresolved,
      execQueryNoAnswer_fr id short next rfl (.refl _ s)⟩
  case rejoin =>
    intro s r live running due
    have next := exec_rejoinTimeout_due live running due
    exact ⟨_, next, by rw [State.endRejoin_adm running], by rw [State.endRejoin_adm running],
      execRejoinTimeout_fr next rfl (.refl _ s)⟩

end Sys2Proof.Machine
end

section
/-! Sessions of the segment protocol: how a session reads after an update, its first violation, its close, and the state in
which a request is served (R224, R226, R229, R259, R489). -/

namespace Sys2Proof.Machine

theorem tget_tmod_same {α : Type} (k : Nat) (f : α → α) (t : Table α) : tget k (tmod k f t) = (tget k t).map f := by
  unfold tmod
  split
  case h_1 v held => rw [tget_tput_same, held, Option.map_some]
  case h_2 absent => rw [absent, Option.map_none]

@[simp] theorem State.session_modSession (s : State) (i : Fin 4) (f : Session → Session) :
    (s.modSession i f).session i = (s.session i).map f :=
  tget_tmod_same ..

/-- A session reads by the segment protocol's state alone. -/
theorem State.session_congr {s t : State} (same : t.fsp = s.fsp) (i : Fin 4) : t.session i = s.session i := by
  simp only [State.session, same]

theorem State.session_heard {s : State} {i : Fin 4} {c : Session} (isOpen : s.session i = some c) :
    (s.heard i).session i = some { c with lastMessage := s.cn } := by
  simp [State.heard, isOpen]

@[simp] theorem State.session_respond (s : State) (i j : Fin 4) (type tx : Nat) (body : List Byte) :
    (s.respond i type tx body).session j = s.session j := rfl

/-! Records leave the sessions and the answers alone. -/

theorem State.recordAs_keeps (s : State) (role : Role) (source id : Nat) (reason : Reason) (payload : List Byte) :
    Keeps { evt := true, way := true } s (s.recordAs role source id reason payload) :=
  State.recordAs_fr _ _ _ _ _ rfl (.refl _ s)

@[simp] theorem State.recordAs_fsp (s : State) (role : Role) (source id : Nat) (reason : Reason) (payload : List Byte) :
    (s.recordAs role source id reason payload).fsp = s.fsp :=
  (s.recordAs_keeps ..).fsp rfl

@[simp] theorem State.recordAs_out (s : State) (role : Role) (source id : Nat) (reason : Reason) (payload : List Byte) :
    (s.recordAs role source id reason payload).out = s.out :=
  (s.recordAs_keeps ..).out rfl

@[simp] theorem State.recordAs_upd (s : State) (role : Role) (source id : Nat) (reason : Reason) (payload : List Byte) :
    (s.recordAs role source id reason payload).upd = s.upd :=
  (s.recordAs_keeps ..).upd rfl

@[simp] theorem State.session_recordAs (s : State) (i : Fin 4) (role : Role) (source id : Nat) (reason : Reason)
    (payload : List Byte) : (s.recordAs role source id reason payload).session i = s.session i :=
  State.session_congr (s.recordAs_fsp ..) i

/-- What was sent before an effect stays sent. -/
theorem Evolves.mem_out {s t : State} {o : Output} (grown : Evolves s t) (sent : o ∈ s.out) : o ∈ t.out :=
  grown.out.subset sent

/-! Violations (R259). -/

/-- The first violation of a session is counted, and the session stays open. -/
theorem State.fspViolation_first {s : State} {i : Fin 4} {c : Session} (isOpen : s.session i = some c)
    (unblamed : c.violations = []) (reason : Reason) (type tx : Nat) :
    (s.fspViolation i reason type tx).session i = some { c with violations := [s.cn] } := by
  simp [State.fspViolation, isOpen, unblamed]

theorem State.refuse_first {s : State} {i : Fin 4} {c : Session} (isOpen : s.session i = some c)
    (unblamed : c.violations = []) (reason : Reason) (type detail offset tx : Nat) :
    (s.refuse i reason type detail offset tx).session i = some { c with violations := [s.cn] } :=
  State.fspViolation_first (s := s.fspError i reason type detail offset tx) isOpen unblamed ..

theorem State.refuse_mem_out (s : State) (i : Fin 4) (reason : Reason) (type detail offset tx : Nat) :
    Output.fsp i.val 0x7F 0 tx (le 1 (reasonCode reason) ++ le 1 type ++ le 2 detail ++ le 4 offset)
      ∈ (s.refuse i reason type detail offset tx).out :=
  (State.fspViolation_ev _ _ _ _ (.refl _)).mem_out (by simp [State.fspError])

/-! The close of a session (R226, R489). -/

/-- The ROLE_SUMMARY of a session that closes leaves its table and the answers alone. -/
theorem State.iff_recordAs_keeps (s : State) (counted : Bool) (role : Role) (source id : Nat) (reason : Reason)
    (payload : List Byte) :
    Keeps { evt := true, way := true } s (s.iff counted fun s => s.recordAs role source id reason payload) :=
  keeps_iff _ _ (.refl _ s) fun _ h => State.recordAs_fr _ _ _ _ _ rfl h

theorem State.closeSession_closes {s : State} {i : Fin 4} {c : Session} (isOpen : s.session i = some c) :
    (s.closeSession i).fsp.sessions = tdel i.val s.fsp.sessions ∧ (s.closeSession i).out = s.out ++ [.close i.val] := by
  have summary := (s.emit (.close i.val)).iff_recordAs_keeps (decide (c.admits + c.reads + c.others ≠ 0)) .operator
    (c.pathSource i) 0x05 .ok (c.summary i.val)
  have sessions := congrArg FspSt.sessions (summary.fsp rfl)
  have out := summary.out rfl
  simp only [State.closeSession, isOpen]
  split
  · exact ⟨congrArg (tdel i.val) sessions, out⟩
  · exact ⟨congrArg (tdel i.val) sessions, out⟩

/-- A closed session is gone, its peer is told, and every other session stays as it is. -/
theorem State.closeSession_gone {s : State} {i : Fin 4} {c : Session} (sorted : tsorted s.fsp.sessions = true)
    (isOpen : s.session i = some c) :
    (s.closeSession i).session i = none ∧ (∀ j, j ≠ i → (s.closeSession i).session j = s.session j)
      ∧ Output.close i.val ∈ (s.closeSession i).out := by
  obtain ⟨sessions, out⟩ := State.closeSession_closes isOpen
  simp only [State.session, sessions, out]
  exact ⟨tget_tdel_same _ _ sorted, fun j other => tget_tdel_ne _ _ _ sorted (Fin.val_ne_of_ne other), by simp⟩

/-! Requests (R224, R226, R229). -/

/-- Every session may ask what needs no right, with the octet of its role. -/
theorem Session.mayAsk_nobody {c : Session} {octet : Nat} (own : roleOf octet = some c.role) :
    c.mayAsk octet .nobody = true := by
  simp [Session.mayAsk, own, holdsRight]

/-- A command that is a request of a J5 or PRP session with the right is served after the session was heard. -/
theorem next_request_served {s : State} {i : Fin 4} {c : Session} {role : Byte} {need : Role} (live : s.live = true)
    (isOpen : s.session i = some c) (notModem : c.path ≠ 3) (may : c.mayAsk role.toNat need = true) (type tx : Nat)
    (serve : Session → State → State) :
    (.next (s.whenLive fun s => s.request i role type tx need serve) : Host.Outcome State Fault Refusal)
      = .next (serve c (s.heard i)) :=
  congrArg Host.Outcome.next ((State.whenLive_live live _).trans (State.request_served isOpen notModem may ..))

end Sys2Proof.Machine
end

section
/-! Handshakes, headers and types (R221, R222, R224, R229, R236, R258), and O12. -/

namespace Sys2Proof.Machine

/-! Handshakes. -/

/-- Outside commissioning a handshake of any path is judged by its certificate and its chain. -/
theorem exec_tlsHandshake_sited {s : State} {path : Fin 4} (live : s.live = true) (sited : s.can.siteId ≠ 0)
    (signed chained : Bool) (exporter : List Byte) :
    exec (.tlsHandshake path signed chained exporter) s
      = .next (s.openSession path.val (signed && chained) exporter) :=
  congrArg Host.Outcome.next <| (State.whenLive_live live _).trans <| by simp [State.pathServed, sited]

/-- A good certificate opens a J5 or PRP session at the first free index. -/
theorem State.openSession_free {s : State} {path i : Nat} (notModem : path ≠ 3) (free : s.freeSession = some i)
    (exporter : List Byte) :
    s.openSession path true exporter = { s with fsp := { s.fsp with
      sessions := tput i { path := path, exporter := exporter, lastMessage := s.cn } s.fsp.sessions } } := by
  simp [State.openSession, free, notModem]

theorem State.openSession_full {s : State} (full : s.freeSession = none) (path : Nat) (exporter : List Byte) :
    s.openSession path true exporter = s.emit (.refuse .busy) := by
  simp [State.openSession, full]

theorem State.openSession_uncertified (s : State) (path : Nat) (exporter : List Byte) :
    s.openSession path false exporter = s.emit (.refuse .notAuthorised) := rfl

theorem exec_handshakeTimeout_late {s : State} {since : Nat} (live : s.live = true) (late : since + 500 ≤ s.cn) :
    exec (.handshakeTimeout since) s = .next (s.emit (.refuse .tooLate)) :=
  congrArg Host.Outcome.next <| (State.whenLive_live live _).trans <| by simp [late]

/-! Headers and types. -/

/-- The answer to a header that fails a check: DECLINE for the role of an ADMIT, ERROR otherwise. -/
def State.headerReply (s : State) (i : Fin 4) (header : List Byte) (reason : Reason) (offset : Nat) : Output :=
  if reason = .notAuthorised ∧ ofLe (slice 3 1 header) = 0x10 then
    .fsp i.val 0x12 1 (faultTx header offset) (le 1 (reasonCode .notAuthorised) ++ le 5 s.cn ++ le 5 0 ++ [0])
  else .fsp i.val 0x7F 0 (faultTx header offset)
    (le 1 (reasonCode reason) ++ le 1 (ofLe (slice 3 1 header)) ++ le 2 0 ++ le 4 offset)

theorem State.headerAnswer_mem_out (s : State) (i : Fin 4) (header : List Byte) (reason : Reason) (offset : Nat) :
    s.headerReply i header reason offset ∈ (s.headerAnswer i header reason offset).out := by
  unfold State.headerReply State.headerAnswer
  dsimp only
  split
  · exact (State.fspViolation_ev _ _ _ _ (.refl _)).mem_out (State.respond_mem_out ..)
  · exact State.refuse_mem_out ..

/-- Whatever the answer to a bad header, it counts one violation. -/
theorem State.headerAnswer_first {s : State} {i : Fin 4} {c : Session} (isOpen : s.session i = some c)
    (unblamed : c.violations = []) (header : List Byte) (reason : Reason) (offset : Nat) :
    (s.headerAnswer i header reason offset).session i = some { c with violations := [s.cn] } := by
  unfold State.headerAnswer
  dsimp only
  split
  · exact State.fspViolation_first ((s.session_respond ..).trans isOpen) unblamed ..
  · exact State.refuse_first isOpen unblamed ..

theorem exec_fspHeaderFault_open {s : State} {i : Fin 4} {c : Session} {header : List Byte} {reason : Reason} {offset : Nat}
    (live : s.live = true) (isOpen : s.session i = some c) (fault : headerFault (padTo 24 header) = some (reason, offset)) :
    exec (.fspHeaderFault i header) s = .next ((s.heard i).headerAnswer i header reason offset) :=
  congrArg Host.Outcome.next <| (State.whenLive_live live _).trans <| by simp only [isOpen, fault, State.heard]

theorem exec_fspWrongType_open {s : State} {i : Fin 4} {c : Session} {type : Byte} (live : s.live = true)
    (isOpen : s.session i = some c) (wrong : headType type.toNat = false) (tx : Word) :
    exec (.fspWrongType i type tx) s = .next ((s.heard i).refuse i .unsupported type.toNat 0 3 tx.toNat) :=
  congrArg Host.Outcome.next <| (State.whenLive_live live _).trans <| by
    simp only [isOpen, wrong, Bool.not_false, State.iff_true, State.heard]

/-- Settles O12: a handshake by `State.openSession`, a bad header or type by the answer it is given and the violation that
this counts. -/
theorem handshakesAndBadHeaders : Obligations.HandshakesAndBadHeaders := by
  refine ⟨⟨?handshake, fun s since live late => exec_handshakeTimeout_late live late⟩, ?header, ?type⟩
  case handshake =>
    intro s path exporter i live notModem sited
    have next := fun signed chained => exec_tlsHandshake_sited (path := path) live sited signed chained exporter
    have j5 : path.val ≠ 3 := Fin.val_ne_of_ne notModem
    refine ⟨fun free => ?_, fun full => ?_, fun chained => ?_⟩
    · refine ⟨_, (next true true).trans (congrArg _ (State.openSession_free j5 free exporter)), rfl, rfl⟩
    · exact (next true true).trans (congrArg _ (State.openSession_full full ..))
    · exact (next false chained).trans (congrArg _ (State.openSession_uncertified ..))
  case header =>
    intro s i c header reason offset live isOpen fault
    have next := exec_fspHeaderFault_open live isOpen fault
    exact ⟨_, next, State.headerAnswer_mem_out .., fun unblamed =>
      ⟨_, State.headerAnswer_first (State.session_heard isOpen) unblamed .., rfl⟩,
      execFspHeaderFault_fr i header next rfl (.refl _ s)⟩
  case type =>
    intro s i c type tx live isOpen wrong
    have next := exec_fspWrongType_open live isOpen wrong tx
    exact ⟨_, next, State.refuse_mem_out .., fun unblamed =>
      ⟨_, State.refuse_first (State.session_heard isOpen) unblamed .., rfl⟩,
      execFspWrongType_fr i type tx next rfl (.refl _ s)⟩

end Sys2Proof.Machine
end

section
/-! Roles, HELLO, acknowledgements and the end of a session (R226 to R228, R232, R233, R237, R238), and O13. -/

namespace Sys2Proof.Machine

/-! HELLO. -/

theorem State.serveHello_answers {s : State} {body : List Byte} (size : body.length = 8)
    (flags : ofLe (slice 0 1 body) < 2) (zero : ofLe (slice 1 3 body) = 0) (i : Fin 4) (c : Session) (tx : Nat) :
    s.serveHello i c tx body
      = (s.respond i 0x01 tx (s.helloBody i c)).subscribe i (bit 0 (ofLe (slice 0 1 body))) (ofLe (slice 4 4 body)) := by
  simp [State.serveHello, size, zero, Nat.not_le.2 flags]

/-! Challenges and proofs. -/

/-- The challenge of a ROLE_CHALLENGE: the head-end's nonce of the body, and sixteen random octets of the module's. -/
def State.freshChallenge (s : State) (r : Role) (body : List Byte) : Challenge :=
  { role := r, headNonce := slice 4 16 body, moduleNonce := (octets256 (Config.rbg s.freeIdx)).take 16, cn := s.cn }

theorem State.serveChallenge_fresh {s : State} {c : Session} {body : List Byte} {r : Role} (notModem : c.path ≠ 3)
    (named : roleOf (ofLe (slice 0 1 body)) = some r) (someRole : r ≠ .nobody) (size : body.length = 20)
    (zero : ofLe (slice 1 3 body) = 0) (i : Fin 4) (tx : Nat) :
    s.serveChallenge i c tx body
      = (s.drawRandom.2.modSession i fun c => { c with challenge := some (s.freshChallenge r body) }).respond i 0x02 tx
          (le 1 0 ++ le 1 (roleCode r) ++ [0, 0] ++ (s.freshChallenge r body).moduleNonce) := by
  simp [State.serveChallenge, named, someRole, size, zero, notModem, State.freshChallenge, State.drawRandom]

/-- A session whose proof was accepted holds the role, and waits for no proof. -/
def Session.granted (c : Session) (r : Role) (since : Cn) : Session :=
  { c with role := r, challenge := none, roleSince := some (c.roleSince.getD since) }

/-- An accepted proof of a challenge is counted and recorded (R489). -/
def State.proofNoted (s : State) (i : Fin 4) (c : Session) (h : Challenge) : State :=
  (s.countProof h.role true).recordProof h.role true (c.pathSource i) (pathOctet i c)

theorem State.proofNoted_keeps (s : State) (i : Fin 4) (c : Session) (h : Challenge) :
    Keeps { evt := true, key := true, way := true } s (s.proofNoted i c h) :=
  State.recordProof_fr _ _ _ _ rfl (State.countProof_fr _ _ rfl (.refl _ s))

/-- The session after its proof was accepted holds the role. -/
theorem State.session_granted {s : State} {i : Fin 4} {c d : Session} {h : Challenge} (isOpen : s.session i = some d) :
    ((s.proofNoted i c h).modSession i fun c => c.granted h.role s.cn).session i = some (d.granted h.role s.cn) := by
  rw [State.session_modSession, State.session_congr ((s.proofNoted_keeps i c h).fsp rfl), isOpen, Option.map_some]

/-- A proof that R227 accepts is noted, and its role granted. -/
theorem State.serveProof_grants {s : State} {c : Session} {body : List Byte} {h : Challenge}
    (asked : c.challenge = some h) (size : body.length = 36) (zero : ofLe (slice 1 3 body) = 0) (inTime : s.cn ≤ h.cn + 250)
    (named : ofLe (slice 0 1 body) = roleCode h.role) (slot : s.slotLive (roleSlot h.role) = true)
    (proved : slice 4 32 body = s.proofOf h.role 1 (s.proofInput c h)) (i : Fin 4) (tx : Nat) :
    ∃ answer, s.serveProof i c tx body
      = ((s.proofNoted i c h).modSession i fun c => c.granted h.role s.cn).respond i 0x03 tx answer := by
  rw [← (s.proofNoted_keeps i c h).cn rfl]
  simp only [State.serveProof, asked, size, zero, inTime, named, slot, proved, ne_eq, not_true_eq_false, or_self, if_false,
    decide_true, Bool.and_self, if_true]
  exact ⟨_, rfl⟩

/-- Without a proof within 250 cycles the challenge lapses, and that is a violation. -/
theorem exec_roleLapse_late {s : State} {i : Fin 4} {c : Session} {h : Challenge} (live : s.live = true)
    (isOpen : s.session i = some c) (asked : c.challenge = some h) (late : h.cn + 250 < s.cn) :
    exec (.roleLapse i) s
      = .next ((s.modSession i fun c => { c with challenge := none }).fspViolation i .notAuthorised 0x03 0) :=
  congrArg Host.Outcome.next <| (State.whenLive_live live _).trans <| by simp [isOpen, asked, late]

/-! Acknowledgements. -/

/-- What is sent to a session that waits leaves the push log and the tables alone. -/
theorem State.pushWaiting_log_tables (s : State) (i n : Nat) :
    (s.pushWaiting i n).fsp.pushLog = s.fsp.pushLog ∧ (s.pushWaiting i n).fsp.tables = s.fsp.tables := by
  induction n generalizing s with
  | zero => exact ⟨rfl, rfl⟩
  | succ n ih =>
    unfold State.pushWaiting
    split
    · exact ⟨rfl, rfl⟩
    · split
      · exact ⟨rfl, rfl⟩
      · split
        · split
          · exact ih _
          · exact ih _
        · exact ⟨rfl, rfl⟩

/-- What no step of an iteration changes stays as it was. -/
theorem forEach_same {α σ β : Type} {f : α → σ → σ} {g : σ → β} (same : ∀ a x, g (f a x) = g x) (l : List α) (s : σ) :
    g (forEach f l s) = g s := by
  induction l generalizing s with
  | nil => rfl
  | cons a l ih => exact (ih _).trans (same a s)

/-- The push log and the tables after the sessions that wait were sent what they wait for. -/
theorem State.forEach_pushWaiting (s : State) (l : List Nat) :
    (forEach (fun i s => s.pushWaiting i s.fsp.pushLog.length) l s).fsp.pushLog = s.fsp.pushLog
      ∧ (forEach (fun i s => s.pushWaiting i s.fsp.pushLog.length) l s).fsp.tables = s.fsp.tables :=
  ⟨forEach_same (g := fun s : State => s.fsp.pushLog) (fun i s => (s.pushWaiting_log_tables i _).1) l s,
    forEach_same (g := fun s : State => s.fsp.tables) (fun i s => (s.pushWaiting_log_tables i _).2) l s⟩

theorem exec_pushAck_held {s : State} {i : Fin 4} {c : Session} {role type : Byte} {seq : Word} (live : s.live = true)
    (isOpen : s.session i = some c) (own : roleOf role.toNat = some c.role)
    (held : (s.fsp.pushLog.any fun p => decide (p.seq = seq.toNat) && decide (p.type = type.toNat)) = true) :
    exec (.pushAck i role type seq) s
      = .next (forEach (fun i s => s.pushWaiting i s.fsp.pushLog.length) (upFrom 0 4) ((s.heard i).settle seq.toNat)) := by
  refine congrArg Host.Outcome.next <| (State.whenLive_live live _).trans ?_
  have heard : ((s.heard i).fsp.pushLog.any fun p => decide (p.seq = seq.toNat) && decide (p.type = type.toNat)) = true := held
  simp only [State.heard] at heard
  simp only [isOpen, own, heard, State.heard, reduceCtorEq, if_false, if_true]

/-! The end of a session. -/

theorem exec_sessionIdle_open {s : State} {i : Fin 4} {c : Session} (live : s.live = true) (isOpen : s.session i = some c) :
    exec (.sessionIdle i) s
      = .next (s.iff (decide (c.lastMessage + s.idleLimit ≤ s.cn)) fun s => s.closeSession i) :=
  congrArg Host.Outcome.next <| (State.whenLive_live live _).trans <| by simp only [isOpen]

theorem exec_sessionClose_live {s : State} (live : s.live = true) (i : Fin 4) :
    exec (.sessionClose i) s = .next (s.closeSession i) :=
  congrArg Host.Outcome.next (State.whenLive_live live _)

/-- Settles O13: a request by what serves it once its session was heard, and the ends of challenges, pushes and sessions by
what each does to the sessions. -/
theorem rolesAndPushes : Obligations.RolesAndPushes := by
  refine ⟨⟨?requests, ?lapse⟩, ?ack, ?close⟩
  case requests =>
    intro s i c role tx body live isOpen notModem own
    have may := Session.mayAsk_nobody own
    have heard := State.session_heard isOpen
    refine ⟨fun size flags zero => ?hello, fun r someRole named size zero => ?challenge,
      fun h asked size zero inTime named slot proved => ?proof⟩
    case hello =>
      refine ⟨_, next_request_served live isOpen notModem may .., ?_⟩
      rw [State.serveHello_answers size flags zero]
      exact ⟨(State.subscribe_ev _ _ _ (.refl _)).mem_out (State.respond_mem_out ..),
        State.subscribe_fr _ _ _ rfl (State.respond_fr _ _ _ _ rfl ((s.heard_keeps i).mono rfl))⟩
    case challenge =>
      refine ⟨_, { c with lastMessage := s.cn, challenge := some (s.freshChallenge r body) }, s.freshChallenge r body,
        next_request_served live isOpen notModem may .., ?_, rfl, rfl, rfl, rfl, rfl, rfl, ?_⟩
      · rw [State.serveChallenge_fresh notModem named someRole size zero]
        exact (State.session_modSession (s.heard i).drawRandom.2 i _).trans (congrArg (Option.map _) heard)
      · rw [State.serveChallenge_fresh notModem named someRole size zero]
        exact State.respond_fr _ _ _ _ rfl (State.modSession_fr _ _ rfl (State.drawRandom_fr rfl ((s.heard_keeps i).mono rfl)))
    case proof =>
      obtain ⟨answer, served⟩ :=
        State.serveProof_grants (s := s.heard i) asked size zero inTime named slot proved i tx.toNat
      refine ⟨_, { c with lastMessage := s.cn }.granted h.role s.cn,
        next_request_served live isOpen notModem may .., ?_, rfl, rfl, ?_⟩
      · rw [served, State.session_respond]
        exact State.session_granted heard
      · rw [served]
        exact State.respond_fr _ _ _ _ rfl (State.modSession_fr _ _ rfl
          (((s.heard_keeps i).mono rfl).trans (((s.heard i).proofNoted_keeps i c h).mono rfl)))
  case lapse =>
    intro s i c h live isOpen asked late unblamed
    have next := exec_roleLapse_late live isOpen asked late
    refine ⟨_, _, next, State.fspViolation_first (c := { c with challenge := none }) (by simp [isOpen]) unblamed ..,
      rfl, rfl, execRoleLapse_fr i next rfl (.refl _ s)⟩
  case ack =>
    intro s i c role type seq live isOpen own held
    have next := exec_pushAck_held live isOpen own held
    obtain ⟨log, tables⟩ := ((s.heard i).settle seq.toNat).forEach_pushWaiting (upFrom 0 4)
    refine ⟨_, next, ?_, tables, execPushAck_fr i role type seq next rfl (.refl _ s)⟩
    rw [log]
    intro p unsettled
    simpa [State.settle] using (List.mem_filter.1 unsettled).2
  case close =>
    intro s i c live sorted isOpen
    have closed := State.closeSession_gone sorted isOpen
    refine ⟨fun idle => ?_, fun busy => ?_, ?_⟩
    · have next := exec_sessionIdle_open live isOpen
      rw [decide_eq_true idle, State.iff_true] at next
      exact ⟨_, next, closed.1, closed.2.1, closed.2.2, execSessionIdle_fr i next rfl (.refl _ s)⟩
    · rw [exec_sessionIdle_open live isOpen, decide_eq_false (Nat.not_le.2 busy), State.iff_false]
    · have next := exec_sessionClose_live live i
      exact ⟨_, next, closed.1, closed.2.1, closed.2.2, execSessionClose_fr i next rfl (.refl _ s)⟩

end Sys2Proof.Machine
end

section
/-! Settings: a CONFIG_PUT of PUSH_SELECT, and the requests that read the settings (R249, R252, R253), and O17. -/

namespace Sys2Proof.Machine

/-- A use that is counted is counted in the sessions alone (R489). -/
theorem State.countUse_sessions (s : State) (i : Fin 4) (c : Session) (f : Session → Session) :
    ∃ l, s.countUse i c f = { s with fsp := { s.fsp with sessions := l } } := by
  unfold State.countUse
  split
  · exact ⟨_, rfl⟩
  · exact ⟨s.fsp.sessions, rfl⟩

/-- The tables read by the segment protocol's state alone. -/
theorem State.inForce_congr {s t : State} (same : t.fsp = s.fsp) (id : Nat) : t.inForce id = s.inForce id := by
  simp only [State.inForce, State.table6, same]

/-- A content of PUSH_SELECT whose CN has come is in force at once, and the epoch grows. -/
theorem State.acceptPut_pushSelect {s : State} {cn : Cn} (due : cn ≤ s.cn) (replace : Bool) (new : List (List Byte)) :
    (s.acceptPut 0x0020 replace cn new).inForce 0x0020 = new
      ∧ (s.acceptPut 0x0020 replace cn new).fsp.epoch = (s.fsp.epoch + 1) % 4294967296 := by
  simp [State.acceptPut, Nat.not_lt.2 due, State.enforceTable, State.growEpoch, State.table6, State.inForce]

/-- A CONFIG_PUT of PUSH_SELECT in good form at the held epoch is accepted, answered and recorded. -/
theorem State.configPut_pushSelect {s : State} {b : List Byte} {es : List (List Byte)} (long : 20 ≤ b.length)
    (table : w16 0 b = 0x0020) (flags : oct 2 b ≤ 1) (zero : oct 3 b = 0) (zeros : ofLe (slice 13 3 b) = 0)
    (size : b.length = 20 + w32 16 b) (free : s.settingsHeld = false) (epoch : w32 4 b = s.fsp.epoch)
    (entries : entriesOf 0x0020 (b.drop 20) = some es) (puts : (bit 0 (oct 2 b) && es.any (removal 0x0020)) = false)
    (room : (putTable 0x0020 (bit 0 (oct 2 b)) (s.table6 0x0020).accepted es).length ≤ tableCapacity 0x0020)
    (i : Fin 4) (c : Session) (tx : Nat) :
    s.configPut i c tx b
      = ((s.acceptPut 0x0020 (bit 0 (oct 2 b)) (ofLe (slice 8 5 b))
          (putTable 0x0020 (bit 0 (oct 2 b)) (s.table6 0x0020).accepted es)).answerPut i tx .ok).recordPut i c tx .ok := by
  have formed : ¬ (b.length < 20 ∨ 1 < oct 2 b ∨ oct 3 b ≠ 0 ∨ ofLe (slice 13 3 b) ≠ 0 ∨ b.length ≠ 20 + w32 16 b) := by
    simp [Nat.not_lt.2 long, Nat.not_lt.2 flags, zero, zeros, ← size]
  have listed : 0x0020 ∈ tableIds := by decide
  simp [State.configPut, formed, table, listed, free, epoch, entries, puts, Nat.not_lt.2 room]

/-- The answer and the record of a CONFIG_PUT leave the tables and the epoch alone. -/
theorem State.finishedPut_fsp (s : State) (i : Fin 4) (c : Session) (tx : Nat) (r : Reason) :
    ((s.answerPut i tx r).recordPut i c tx r).fsp = s.fsp :=
  (State.recordPut_fr (bl := { evt := true, out := true, way := true }) _ _ _ _ rfl
    (State.answerPut_fr _ _ _ rfl (.refl _ s))).fsp rfl

/-- The part of a table's content that a CONFIG_GET asks for is answered (R252). -/
theorem State.configGet_answers {s : State} {b : List Byte} (size : b.length = 12) (zero : w16 2 b = 0)
    (most : w32 8 b ≤ 1048556) (listed : tableIds.contains (w16 0 b) = true) (i : Fin 4) (c : Session) (tx : Nat) :
    s.configGet i c tx b = (s.countUse i c Session.readUse).respond i 0x41 tx
      ([0, 0, 0, 0] ++ le 4 s.fsp.epoch ++ le 4 (s.tableContent (w16 0 b)).length ++ le 4 (w32 4 b)
        ++ le 4 (slice (w32 4 b) (w32 8 b) (s.tableContent (w16 0 b))).length
        ++ slice (w32 4 b) (w32 8 b) (s.tableContent (w16 0 b))) := by
  have formed : ¬ (b.length ≠ 12 ∨ w16 2 b ≠ 0 ∨ 1048556 < w32 8 b) := by simp [size, zero, Nat.not_lt.2 most]
  obtain ⟨l, counted⟩ := s.countUse_sessions i c Session.readUse
  simp only [State.configGet, counted, formed, listed, if_false, Bool.not_true, Bool.false_eq_true]
  rfl

/-- A DIGEST that asks for no entries is answered with the digests held (R253). -/
theorem State.digestAnswer_zeros (s : State) (i : Fin 4) (c : Session) (tx : Nat) :
    s.digestAnswer i c tx [0, 0, 0, 0, 0, 0, 0, 0] = (s.countUse i c Session.readUse).respond i 0x42 tx
      ([0, 0, 0, 0] ++ le 4 s.fsp.epoch ++ octets256 s.segmentDigest ++ octets256 s.can.digest
        ++ octets256 s.settingsDigest ++ le 2 s.disagreeing ++ [0, 0]) := by
  obtain ⟨l, counted⟩ := s.countUse_sessions i c Session.readUse
  have noEntries : bit 0 (oct 0 [0, 0, 0, 0, 0, 0, 0, 0]) = false := by decide
  simp only [State.digestAnswer, counted, noEntries, if_false, Bool.false_and, Bool.false_eq_true, List.map_nil,
    List.flatten_nil, List.append_nil]
  rfl

/-- A read that is counted and answered changes the segment protocol and what was sent. -/
theorem State.countUse_respond_keeps (s : State) (i : Fin 4) (c : Session) (f : Session → Session) (type tx : Nat)
    (body : List Byte) : Keeps { fsp := true, out := true } s (((s.heard i).countUse i c f).respond i type tx body) :=
  State.respond_fr _ _ _ _ rfl (State.countUse_fr _ _ _ rfl ((s.heard_keeps i).mono rfl))

/-- Settles O17: each request is served as its equation says, in a state that differs by the session heard. -/
theorem settingsArePutAndRead : Obligations.SettingsArePutAndRead := by
  intro s i c role tx body live isOpen notModem
  refine ⟨fun es may long table flags zero zeros size free epoch entries puts room due => ?put,
    fun may size zero most listed => ?get, fun may empty => ?digest⟩
  case put =>
    have put := State.configPut_pushSelect (s := s.heard i) long table flags zero zeros size free epoch entries puts room
      i c tx.toNat
    have next : exec (.configPut i role tx body) s = _ :=
      next_request_served live isOpen notModem (table ▸ may) 0x40 tx.toNat fun c s => s.configPut i c tx.toNat body
    have accepted := State.acceptPut_pushSelect (s := s.heard i) due (bit 0 (oct 2 body))
      (putTable 0x0020 (bit 0 (oct 2 body)) (s.table6 0x0020).accepted es)
    refine ⟨_, next, ?_, ?_, execConfigPut_fr i role tx body next rfl (.refl _ s)⟩
    · rw [put, State.inForce_congr (State.finishedPut_fsp ..)]
      exact accepted.1
    · rw [put, State.finishedPut_fsp]
      exact accepted.2
  case get =>
    refine ⟨_, next_request_served live isOpen notModem may .., ?_⟩
    rw [State.configGet_answers size zero most listed]
    exact ⟨State.respond_mem_out ((s.heard i).countUse ..) .., s.countUse_respond_keeps ..⟩
  case digest =>
    refine ⟨_, next_request_served live isOpen notModem may .., ?_⟩
    rw [empty, State.digestAnswer_zeros]
    exact ⟨State.respond_mem_out ((s.heard i).countUse ..) .., s.countUse_respond_keeps ..⟩

end Sys2Proof.Machine
end

section
/-! Updates: requests of any session, and what a phase, the end of a session and a record change (R254, R505, R518, R519). -/

namespace Sys2Proof.Machine

/-! Requests of any path. -/

/-- The state in which a session's request is served: the session was heard, and a request of the modem's is noted (R226,
R262). -/
def State.asked (s : State) (i : Fin 4) (c : Session) : State :=
  { s.heard i with fsp := { (s.heard i).fsp with
      modem := if c.path = 3 then { s.fsp.modem with lastRequest := s.cn } else s.fsp.modem } }

theorem State.request_asked {s : State} {i : Fin 4} {c : Session} {role : Byte} {need : Role} (isOpen : s.session i = some c)
    (may : c.mayAsk role.toNat need = true) (type tx : Nat) (serve : Session → State → State) :
    s.request i role type tx need serve = serve c (s.asked i c) := by
  by_cases modem : c.path = 3 <;> simp [State.request, isOpen, may, State.asked, State.heard, modem] <;> rfl

theorem next_request_asked {s : State} {i : Fin 4} {c : Session} {role : Byte} {need : Role} (live : s.live = true)
    (isOpen : s.session i = some c) (may : c.mayAsk role.toNat need = true) (type tx : Nat)
    (serve : Session → State → State) :
    (.next (s.whenLive fun s => s.request i role type tx need serve) : Host.Outcome State Fault Refusal)
      = .next (serve c (s.asked i c)) :=
  congrArg Host.Outcome.next ((State.whenLive_live live _).trans (State.request_asked isOpen may ..))

theorem State.asked_keeps (s : State) (i : Fin 4) (c : Session) : Keeps { fsp := true } s (s.asked i c) := rfl

/-! What a phase changes of the update's state. -/

/-- A journal entry changes the journal alone. -/
theorem State.journal_upd (s : State) (op phase stand flagBits mseq data0 data1 : Nat) (digest : BitVec 256) :
    ∃ l n, (s.journal op phase stand flagBits mseq data0 data1 digest).upd = { s.upd with journal := l, jrnSeq := n } :=
  ⟨_, _, (State.postRecord_fr (bl := { evt := true, way := true }) _ _ _ _ _ rfl (.refl _ _)).upd rfl⟩

theorem State.sessionPhase_upd (s : State) (phase : Nat) :
    ∃ l n, (s.sessionPhase phase).upd = { s.upd with phase := phase, phaseCn := s.cn, journal := l, jrnSeq := n } := by
  unfold State.sessionPhase
  dsimp only
  split
  · exact State.journal_upd ..
  · exact State.journal_upd ..

/-- A step changes the phase, its CN and the journal (R518). -/
theorem State.stepPhase_upd (s : State) (phase : Nat) :
    ∃ l n, (s.stepPhase phase).upd = { s.upd with phase := phase, phaseCn := s.cn, journal := l, jrnSeq := n } := by
  unfold State.stepPhase
  split
  · exact s.sessionPhase_upd phase
  · exact State.journal_upd ..

@[simp] theorem State.sessionPhase_session (s : State) (phase : Nat) : (s.sessionPhase phase).upd.session = s.upd.session := by
  obtain ⟨l, n, upd⟩ := s.sessionPhase_upd phase
  rw [upd]

@[simp] theorem State.sessionPhase_phase (s : State) (phase : Nat) : (s.sessionPhase phase).upd.phase = phase := by
  obtain ⟨l, n, upd⟩ := s.sessionPhase_upd phase
  rw [upd]

section

variable (s : State) (phase : Nat)

@[simp] theorem State.stepPhase_phase : (s.stepPhase phase).upd.phase = phase := by
  obtain ⟨l, n, upd⟩ := s.stepPhase_upd phase
  rw [upd]

@[simp] theorem State.stepPhase_phaseCn : (s.stepPhase phase).upd.phaseCn = s.cn := by
  obtain ⟨l, n, upd⟩ := s.stepPhase_upd phase
  rw [upd]

@[simp] theorem State.stepPhase_session : (s.stepPhase phase).upd.session = s.upd.session := by
  obtain ⟨l, n, upd⟩ := s.stepPhase_upd phase
  rw [upd]

@[simp] theorem State.stepPhase_activation : (s.stepPhase phase).upd.activation = s.upd.activation := by
  obtain ⟨l, n, upd⟩ := s.stepPhase_upd phase
  rw [upd]

@[simp] theorem State.stepPhase_firmware : (s.stepPhase phase).upd.firmware = s.upd.firmware := by
  obtain ⟨l, n, upd⟩ := s.stepPhase_upd phase
  rw [upd]

@[simp] theorem State.stepPhase_runSeq : (s.stepPhase phase).upd.runSeq = s.upd.runSeq := by
  obtain ⟨l, n, upd⟩ := s.stepPhase_upd phase
  rw [upd]

end

theorem State.stepPhase_keeps (s : State) (phase : Nat) :
    Keeps { evt := true, upd := true, way := true } s (s.stepPhase phase) :=
  State.stepPhase_fr _ rfl (.refl _ s)

/-! The ends of a session and of an activation, and records. -/

@[simp] theorem State.sessionChanged_upd (s : State) (old : Nat) : (s.sessionChanged old).upd = s.upd :=
  (State.sessionChanged_fr (bl := { evt := true }) old rfl (.refl _ s)).upd rfl

@[simp] theorem State.endUpdate_upd (s : State) :
    s.endUpdate.upd = { s.upd with session := none, activation := none, caughtUp := false } := by
  simp [State.endUpdate]

@[simp] theorem State.dropActivation_upd (s : State) :
    s.dropActivation.upd = { s.upd with activation := none, caughtUp := false, handoverArea := false } := by
  simp [State.dropActivation]

@[simp] theorem State.recordUpdate_upd (s : State) (role : Role) (reason : Reason) (payload : List Byte) :
    (s.recordUpdate role reason payload).upd = s.upd :=
  s.recordAs_upd ..

theorem State.noteUse_keeps (s : State) (i : Fin 4) (c : Session) (type tx new : Nat) :
    Keeps { evt := true, fsp := true, way := true } s (s.noteUse i c type tx new) :=
  State.noteUse_fr i c type tx new rfl (.refl _ s)

@[simp] theorem State.noteUse_upd (s : State) (i : Fin 4) (c : Session) (type tx new : Nat) :
    (s.noteUse i c type tx new).upd = s.upd :=
  (s.noteUse_keeps ..).upd rfl

@[simp] theorem State.noteUse_cn (s : State) (i : Fin 4) (c : Session) (type tx new : Nat) :
    (s.noteUse i c type tx new).cn = s.cn :=
  (s.noteUse_keeps ..).cn rfl

@[simp] theorem State.noteUse_freeIdx (s : State) (i : Fin 4) (c : Session) (type tx new : Nat) :
    (s.noteUse i c type tx new).freeIdx = s.freeIdx :=
  (s.noteUse_keeps ..).freeIdx rfl

@[simp] theorem State.fspViolation_upd (s : State) (i : Fin 4) (reason : Reason) (type tx : Nat) :
    (s.fspViolation i reason type tx).upd = s.upd :=
  (State.fspViolation_fr (bl := { adm := true, evt := true, fsp := true, out := true, way := true }) _ _ _ _ rfl
    (.refl _ s)).upd rfl

end Sys2Proof.Machine
end

section
/-! Offers, chunks, states and lapses of an update session (R254, R255, R503 to R505), and O48. -/

namespace Sys2Proof.Machine

/-! UPDATE_OFFER. -/

/-- The body of an UPDATE_OFFER has its form (R254). -/
def offerFormed (body : List Byte) : Prop :=
  16 ≤ body.length ∧ w16 14 body = 0 ∧ body.length = 16 + w16 12 body

theorem offerFormed.accepted {body : List Byte} (formed : offerFormed body) :
    ¬ (body.length < 16 ∨ w16 14 body ≠ 0 ∨ body.length ≠ 16 + w16 12 body) := by
  obtain ⟨long, zero, size⟩ := formed
  simp [Nat.not_lt.2 long, zero, ← size]

/-- The session of a manifest before it holds a chunk. -/
def Manifest.opened (m : Manifest) (b : List Byte) (digest : BitVec 256) (id : Nat) (cn : Cn) : UpdSession :=
  { id := id, seq := m.seq, manifest := b, digest := digest, length := m.length, count := m.count, lastMessage := cn }

/-- The session of a manifest is opened, after the use was counted or recorded. -/
def State.takeOffer (s : State) (i : Fin 4) (c : Session) (tx : Nat) (m : Manifest) (b : List Byte) : State :=
  (s.noteUse i c 0x50 tx m.seq).openUpdate m b (Config.sha256 b)

/-- The session that an offer opens: an id the spec leaves open, and no chunk held. -/
def State.offered (s : State) (m : Manifest) (b : List Byte) : UpdSession :=
  m.opened b (Config.sha256 b) (Config.freeNat s.freeIdx % 4294967296) s.cn

theorem State.takeOffer_upd (s : State) (i : Fin 4) (c : Session) (tx : Nat) (m : Manifest) (b : List Byte) :
    (s.takeOffer i c tx m b).upd.session = some (s.offered m b) ∧ (s.takeOffer i c tx m b).upd.phase = 1 := by
  simp [State.takeOffer, State.openUpdate, State.drawNat, State.offered, Manifest.opened]

theorem State.takeOffer_keeps (s : State) (i : Fin 4) (c : Session) (tx : Nat) (m : Manifest) (b : List Byte) :
    Keeps { evt := true, freeIdx := true, fsp := true, upd := true, way := true } s (s.takeOffer i c tx m b) :=
  State.openUpdate_fr _ _ _ rfl (State.noteUse_fr _ _ _ _ _ rfl (.refl _ s))

/-- With no session open, an offer that passes every check of Table 15.3 is taken. -/
theorem State.updateOffer_takes {s : State} {body : List Byte} {signed : Bool} {m : Manifest} (formed : offerFormed body)
    (idle : s.upd.activation = none) (fresh : s.upd.session = none) (enabled : bit 0 (s.reg 0x400B0000) = true)
    (judged : s.judgeManifest (body.drop 16) signed (w32 0 body) (w32 4 body) (w32 8 body) = .ok m)
    (i : Fin 4) (c : Session) (tx : Nat) :
    s.updateOffer i c tx body signed
      = (s.takeOffer i c tx m (body.drop 16)).answerOffer i tx .ok 0 (s.offered m (body.drop 16)).id 0 := by
  have id : (((s.takeOffer i c tx m (body.drop 16)).upd.session.map fun x => x.id).getD 0)
      = (s.offered m (body.drop 16)).id := by
    rw [(s.takeOffer_upd i c tx m _).1, Option.map_some, Option.getD_some]
  simp only [State.updateOffer, formed.accepted, idle, fresh, enabled, State.judgeOffer, judged, if_false, Option.isSome_none,
    Bool.false_eq_true, Bool.true_eq_false, or_self, ← id]
  rfl

theorem State.updateOffer_busy {s : State} {body : List Byte} (formed : offerFormed body)
    (activating : s.upd.activation.isSome = true) (i : Fin 4) (c : Session) (tx : Nat) (signed : Bool) :
    s.updateOffer i c tx body signed = s.answerOffer i tx .busy 0 0 0 := by
  simp only [State.updateOffer, formed.accepted, activating, if_false, true_or, if_true]

/-! UPDATE_CHUNK. -/

/-- The answer to a chunk (R254). -/
def State.answerChunk (s : State) (i : Fin 4) (tx n : Nat) (r : Reason) : State :=
  s.respond i 0x51 tx (statusBody r ++ le 4 n ++ le 4 ((s.upd.session.map fun x => x.chunks.length).getD 0))

/-- The body of an UPDATE_CHUNK names a chunk of a session (R254). -/
def UpdSession.names (x : UpdSession) (b : List Byte) : Prop :=
  12 ≤ b.length ∧ w16 10 b = 0 ∧ b.length = 12 + w16 8 b ∧ w32 0 b = x.id ∧ w32 4 b < x.count

theorem UpdSession.names.formed {x : UpdSession} {b : List Byte} (named : x.names b) :
    ¬ (b.length < 12 ∨ w16 10 b ≠ 0 ∨ b.length ≠ 12 + w16 8 b ∨ w32 0 b ≠ x.id ∨ x.count ≤ w32 4 b) := by
  obtain ⟨long, zero, size, id, listed⟩ := named
  simp [Nat.not_lt.2 long, zero, ← size, id, listed]

/-- The state with another update session. -/
def State.withUpdate (s : State) (x : UpdSession) : State :=
  { s with upd := { s.upd with session := some x } }

theorem State.withUpdate_fr {bl : Blocks} {s0 s : State} (x : UpdSession) (hm : Blocks.le { upd := true } bl = true)
    (hev : Keeps bl s0 s) : Keeps bl s0 (s.withUpdate x) :=
  keeps_mk (a := { upd := true }) hm rfl hev

section

variable {s : State} {b : List Byte} {x : UpdSession} (current : s.upd.session = some x) (named : x.names b)
include current named

/-- A chunk that is held already is only acknowledged. -/
theorem State.updateChunk_held (held : (tget (w32 4 b) x.chunks).isSome = true) (i : Fin 4) (c : Session) (tx : Nat)
    (tag : Bool) (plain : List Byte) :
    s.updateChunk i c tx b tag plain = (s.withUpdate { x with lastMessage := s.cn }).answerChunk i tx (w32 4 b) .ok := by
  simp only [State.updateChunk, current, named.formed, held, if_false, if_true]
  rfl

/-- A chunk of its length that authenticates is held. -/
theorem State.updateChunk_takes {plain : List Byte} (lacking : tget (w32 4 b) x.chunks = none)
    (length : w16 8 b = x.chunkLength (w32 4 b) + 16) (whole : plain.length = x.chunkLength (w32 4 b))
    (i : Fin 4) (c : Session) (tx : Nat) :
    s.updateChunk i c tx b true plain
      = ((s.withUpdate { x with chunks := tput (w32 4 b) plain x.chunks, lastMessage := s.cn }).noteUse i c 0x51 tx
          (w32 4 b)).answerChunk i tx (w32 4 b) .ok := by
  have authentic :
      ¬ (w16 8 b ≠ x.chunkLength (w32 4 b) + 16 ∨ plain.length ≠ x.chunkLength (w32 4 b) ∨ true = false) := by
    simp [length, whole]
  simp only [State.updateChunk, current, named.formed, lacking, authentic, if_false, Option.isSome_none, Bool.false_eq_true]
  rfl

/-- A chunk that does not authenticate is MALFORMED, and a violation. -/
theorem State.updateChunk_unauthentic (lacking : tget (w32 4 b) x.chunks = none) (i : Fin 4) (c : Session) (tx : Nat)
    (plain : List Byte) :
    s.updateChunk i c tx b false plain = (s.answerChunk i tx (w32 4 b) .malformed).fspViolation i .malformed 0x51 tx := by
  simp only [State.updateChunk, State.answerChunk, current, named.formed, lacking, if_false, Option.isSome_none, or_true,
    if_true, Bool.false_eq_true]

end

/-! UPDATE_STATE and UPDATE_LAPSE. -/

theorem State.updateState_answers {s : State} {b : List Byte} {x : UpdSession} (current : s.upd.session = some x)
    (size : b.length = 8) (id : w32 0 b = x.id) (base : w32 4 b % 8 = 0) (i : Fin 4) (c : Session) (tx : Nat) :
    ∃ answer, s.updateState i c tx b = ((s.countUse i c Session.readUse).withUpdate { x with lastMessage := s.cn }).respond
      i 0x52 tx answer := by
  have formed : ¬ (b.length ≠ 8 ∨ w32 0 b ≠ x.id ∨ w32 4 b % 8 ≠ 0) := by simp [size, id, base]
  obtain ⟨l, counted⟩ := s.countUse_sessions i c Session.readUse
  simp only [State.updateState, counted, current, formed, if_false]
  exact ⟨_, rfl⟩

/-- Without an activation, the session ends once it has heard nothing for LAPSE days (R505). -/
theorem exec_updateLapse_idle {s : State} {x : UpdSession} (live : s.live = true) (current : s.upd.session = some x)
    (idle : s.upd.activation = none) :
    exec .updateLapse s = .next (s.iff
      (decide (x.lastMessage + field 23 16 (s.reg 0x400B0018) * s.secondsInCycles 86400 ≤ s.cn))
      fun s => ((s.recordUpdate .nobody .ok (le 4 x.id)).stepPhase 0x00).endUpdate) :=
  congrArg Host.Outcome.next <| (State.whenLive_live live _).trans <| by
    simp only [current, idle, Option.isNone_none, Bool.and_true]

/-- Settles O48: each message is served as its equation says in a state that differs by the session heard, and the lapse
ends the session. That a refused offer is answered with zero fields is the model's choice (log 101). -/
theorem updateSessionsGatherChunks : Obligations.UpdateSessionsGatherChunks := by
  refine ⟨?offer, ?chunk, ?state, ?lapse⟩
  case offer =>
    intro s i c role tx body signed live isOpen may long zero size
    have formed : offerFormed body := ⟨long, zero, size⟩
    have next : exec (.updateOffer i role tx body signed) s = _ :=
      next_request_asked live isOpen may 0x50 tx.toNat fun c s => s.updateOffer i c tx.toNat body signed
    refine ⟨fun m idle fresh enabled judged => ?_, fun activating => ?_⟩
    · rw [State.updateOffer_takes (s := s.asked i c) formed idle fresh enabled judged] at next
      obtain ⟨opened, phase⟩ := (s.asked i c).takeOffer_upd i c tx.toNat m (body.drop 16)
      exact ⟨_, _, next, opened, rfl, rfl, rfl, rfl, rfl, phase, State.respond_mem_out ..,
        State.answerOffer_fr _ _ _ _ _ _ rfl
          (((s.asked_keeps i c).mono rfl).trans (((s.asked i c).takeOffer_keeps ..).mono rfl))⟩
    · rw [State.updateOffer_busy (s := s.asked i c) formed activating] at next
      exact ⟨_, next, rfl, State.respond_mem_out .., State.answerOffer_fr _ _ _ _ _ _ rfl ((s.asked_keeps i c).mono rfl)⟩
  case chunk =>
    intro s i c role tx body tag plain x live isOpen may current long zero size id listed
    have named : x.names body := ⟨long, zero, size, id, listed⟩
    have next : exec (.updateChunk i role tx body tag plain) s = _ :=
      next_request_asked live isOpen may 0x51 tx.toNat fun c s => s.updateChunk i c tx.toNat body tag plain
    refine ⟨fun lacking length whole authentic => ?_, fun held => ?_, fun lacking unauthentic => ?_⟩
    · subst authentic
      rw [State.updateChunk_takes (s := s.asked i c) current named lacking length whole] at next
      exact ⟨_, next, State.noteUse_upd .., State.respond_fr _ _ _ _ rfl (State.noteUse_fr _ _ _ _ _ rfl
        (State.withUpdate_fr _ rfl ((s.asked_keeps i c).mono rfl)))⟩
    · rw [State.updateChunk_held (s := s.asked i c) current named held] at next
      exact ⟨_, next, rfl, State.respond_fr _ _ _ _ rfl (State.withUpdate_fr _ rfl ((s.asked_keeps i c).mono rfl))⟩
    · subst unauthentic
      rw [State.updateChunk_unauthentic (s := s.asked i c) current named lacking] at next
      exact ⟨_, next, State.fspViolation_upd .., execUpdateChunk_fr i role tx body false plain next rfl (.refl _ s)⟩
  case state =>
    intro s i c role tx body x live isOpen may current size id base
    obtain ⟨answer, served⟩ := State.updateState_answers (s := s.asked i c) current size id base i c tx.toNat
    obtain ⟨l, counted⟩ := (s.asked i c).countUse_sessions i c Session.readUse
    have next : exec (.updateState i role tx body) s = _ :=
      next_request_asked live isOpen may 0x52 tx.toNat fun c s => s.updateState i c tx.toNat body
    rw [served, counted] at next
    exact ⟨_, answer, next, rfl, rfl, State.respond_fr _ _ _ _ rfl (State.withUpdate_fr _ rfl
      (counted ▸ State.countUse_fr _ _ _ rfl ((s.asked_keeps i c).mono rfl)))⟩
  case lapse =>
    intro s x live current idle
    have next := exec_updateLapse_idle live current idle
    refine ⟨fun due => ?_, fun early => ?_⟩
    · rw [decide_eq_true due, State.iff_true] at next
      exact ⟨_, next, by simp, by simp, by simp, execUpdateLapse_fr next rfl (.refl _ s)⟩
    · rw [next, decide_eq_false (Nat.not_le.2 early), State.iff_false]

end Sys2Proof.Machine
end

section
/-! Activations: ACTIVATE, validation and ABORT (R254, R506, R507, R509, R517, Table 15.11), and O49. -/

namespace Sys2Proof.Machine

/-! UPDATE_ACTIVATE. -/

/-- The body of an UPDATE_ACTIVATE names a session, with neither ABORT nor a window of its own (R254). -/
def UpdSession.activatedBy (x : UpdSession) (b : List Byte) : Prop :=
  b.length = 12 ∧ w32 0 b = x.id ∧ oct 8 b = 0 ∧ ofLe (slice 9 3 b) = 0 ∧ w32 4 b = 0

section

variable {x : UpdSession} {b : List Byte} (asked : x.activatedBy b)
include asked

theorem UpdSession.activatedBy.formed : ¬ (b.length ≠ 12 ∨ w32 0 b ≠ x.id ∨ 1 < oct 8 b ∨ ofLe (slice 9 3 b) ≠ 0
    ∨ (w32 4 b ≠ 0 ∧ (w32 4 b < 900 ∨ 86400 < w32 4 b))) := by
  obtain ⟨size, id, start, zero, window⟩ := asked
  simp [size, id, start, zero, window]

theorem UpdSession.activatedBy.starts : ¬ oct 8 b = 1 := by
  obtain ⟨-, -, start, -, -⟩ := asked
  simp [start]

theorem UpdSession.activatedBy.window : (if w32 4 b = 0 then 900 else w32 4 b) = 900 := by
  obtain ⟨-, -, -, -, window⟩ := asked
  exact if_pos window

end

/-- An ACTIVATE is answered and recorded (R489). -/
def State.answerActivate (s : State) (i : Fin 4) (c : Session) (tx : Nat) (b : List Byte) (r : Reason) : State :=
  (s.respond i 0x53 tx (statusBody r)).recordAs c.role (c.pathSource i) 0x06 r (le 4 0x53 ++ le 4 tx ++ le 4 (w32 0 b))

theorem State.answerActivate_mem_out (s : State) (i : Fin 4) (c : Session) (tx : Nat) (b : List Byte) (r : Reason) :
    Output.fsp i.val 0x53 1 tx (statusBody r) ∈ (s.answerActivate i c tx b r).out := by
  rw [State.answerActivate, State.recordAs_out]
  exact State.respond_mem_out ..

@[simp] theorem State.answerActivate_upd (s : State) (i : Fin 4) (c : Session) (tx : Nat) (b : List Byte) (r : Reason) :
    (s.answerActivate i c tx b r).upd = s.upd :=
  State.recordAs_upd ..

theorem State.answerActivate_fr {bl : Blocks} {s0 s : State} (i : Fin 4) (c : Session) (tx : Nat) (b : List Byte) (r : Reason)
    (hm : Blocks.le { evt := true, out := true, way := true } bl = true) (hev : Keeps bl s0 s) :
    Keeps bl s0 (s.answerActivate i c tx b r) :=
  State.recordAs_fr _ _ _ _ _ (Blocks.le_trans rfl hm) (State.respond_fr _ _ _ _ (Blocks.le_trans rfl hm) hev)

/-- Validation of an activation begins (R506): phase 2 of Table 15.10. -/
def State.beginValidation (s : State) (a : Activation) : State :=
  ({ s with upd := { s.upd with activation := some a, caughtUp := false } }.stepPhase 0x02).sessionChanged s.updSession

theorem State.beginValidation_upd (s : State) (a : Activation) :
    (s.beginValidation a).upd.activation = some a ∧ (s.beginValidation a).upd.phase = 2
      ∧ (s.beginValidation a).upd.phaseCn = s.cn := by
  simp [State.beginValidation]

theorem State.beginValidation_fr {bl : Blocks} {s0 s : State} (a : Activation)
    (hm : Blocks.le { evt := true, upd := true, way := true } bl = true) (hev : Keeps bl s0 s) :
    Keeps bl s0 (s.beginValidation a) :=
  State.sessionChanged_fr _ (Blocks.le_trans rfl hm)
    (State.stepPhase_fr _ hm (keeps_mk (a := { evt := true, upd := true, way := true }) hm rfl hev))

section

variable {s : State} {b : List Byte} {x : UpdSession} (current : s.upd.session = some x) (asked : x.activatedBy b)
  (serves : s.ford.safeHold = false)
include current asked serves

/-- With every chunk held, validation begins with the window that stands where none is given. -/
theorem State.updateActivate_begins {m : Manifest} (idle : s.upd.activation = none) (complete : x.chunks.length = x.count)
    (manifest : readManifest x.manifest = some m) (i : Fin 4) (c : Session) (tx : Nat) :
    s.updateActivate i c tx b
      = ((s.withUpdate { x with lastMessage := s.cn }).beginValidation
          ((s.withUpdate { x with lastMessage := s.cn }).activationOf x m 900)).answerActivate i c tx b .ok := by
  have whole : ¬ (s.upd.activation.isSome = true ∨ x.chunks.length < x.count) := by simp [idle, complete]
  simp only [State.updateActivate, current, asked.formed, asked.starts, serves, whole, manifest, asked.window, if_false,
    Bool.false_eq_true]
  rfl

/-- While a chunk is lacking, the answer is BUSY. -/
theorem State.updateActivate_incomplete (lacking : x.chunks.length < x.count) (i : Fin 4) (c : Session) (tx : Nat) :
    s.updateActivate i c tx b = (s.withUpdate { x with lastMessage := s.cn }).answerActivate i c tx b .busy := by
  simp only [State.updateActivate, current, asked.formed, asked.starts, serves, lacking, if_false, or_true, if_true,
    Bool.false_eq_true]
  rfl

end

/-! Validation. -/

/-- A failed validation ends the session, and the firmware stays (R507). -/
theorem State.validationFails_upd (s : State) (r : Reason) :
    (s.validationFails r none).upd.session = none ∧ (s.validationFails r none).upd.activation = none
      ∧ (s.validationFails r none).upd.phase = 0 ∧ (s.validationFails r none).upd.firmware = s.upd.firmware := by
  simp [State.validationFails]

theorem State.validationFails_none_keeps (s : State) (r : Reason) :
    Keeps { evt := true, upd := true, way := true } s (s.validationFails r none) :=
  State.endUpdate_fr rfl (State.stepPhase_fr _ rfl (State.recordUpdate_fr _ _ _ rfl (.refl _ s)))

/-- A manifest whose entries are none of a canopy has no canopy to check. -/
theorem Manifest.entry_canopy {m : Manifest} {p : MEntry → Bool}
    (plain : (m.entries.all fun e => decide (e.kind ≠ 3) && p e) = true) : m.entry 3 = none := by
  simp only [List.all_eq_true, Bool.and_eq_true, decide_eq_true_eq] at plain
  exact List.find?_eq_none.2 fun e listed => by simp [(plain e listed).1]

section

variable {s : State} {a : Activation} {x : UpdSession} {m : Manifest} (live : s.live = true)
  (current : s.upd.activation = some a) (session : s.upd.session = some x) (validating : s.upd.phase = 2)
  (manifest : readManifest x.manifest = some m)
include live current session validating manifest

theorem exec_validationDone_undecrypted (signed : Bool) :
    exec (.validationDone false signed) s = .next (s.openReason.2.validationFails s.openReason.1 none) :=
  congrArg Host.Outcome.next <| (State.whenLive_live live _).trans <| by
    simp [current, session, validating, manifest]

/-- A package without a canopy, whose parts have their digests, is valid. -/
theorem exec_validationDone_valid
    (digests : (m.entries.all fun e => decide (e.kind ≠ 3) && decide (Config.sha256 (x.part e) = e.digest)) = true)
    (signed : Bool) : exec (.validationDone true signed) s = .next (s.validated a) := by
  have noCanopy := Manifest.entry_canopy digests
  have noMismatch : ((m.entries.filter fun e => decide (e.kind ≠ 3)).any fun e =>
      decide (Config.sha256 (x.part e) ≠ e.digest)) = false := by
    simp only [List.all_eq_true, Bool.and_eq_true, decide_eq_true_eq] at digests
    simpa using fun e listed _ => (digests e listed).2
  refine congrArg Host.Outcome.next <| (State.whenLive_live live _).trans ?_
  simp only [current, session, validating, manifest, noMismatch, noCanopy, decide_true, State.iff_true, Bool.true_eq_false,
    if_false, Bool.false_eq_true]

end

/-- Once the roots are rewrapped the handover area holds them, and the activation stays as it is (R509). -/
theorem State.rewrap_upd (s : State) (a : Activation) :
    (s.rewrap a).upd.phase = 4 ∧ (s.rewrap a).upd.activation = s.upd.activation ∧ (s.rewrap a).upd.handoverArea = true := by
  simp [State.rewrap, State.setSlot]

theorem lget_lset_same {α : Type} (d v : α) {n : Nat} {l : List α} (within : n < l.length) : lget d n (lset n v l) = v :=
  lget_lmod_same d _ within

/-- The key derived for the new measurement is LIVE in KS11 (R509). -/
theorem State.rewrap_slot {s : State} (within : 11 < s.key.slots.length) (a : Activation) :
    ((s.rewrap a).slot 11).state = .live := by
  have key : (s.rewrap a).key = (s.setSlot 11 _).key := (State.stepPhase_keeps _ 4).key rfl
  rw [State.slot, key]
  exact congrArg SlotSt.state (lget_lset_same {} _ within)

/-- The search for a reboot's CN never goes back (R517). -/
theorem State.le_rebootCn (s : State) (n : Nat) (c : Cn) : c ≤ s.rebootCn n c := by
  induction n generalizing c with
  | zero => exact Nat.le_refl c
  | succ n ih =>
    unfold State.rebootCn
    split
    · exact Nat.le_trans (Nat.le_succ c) (ih _)
    · exact Nat.le_refl c

/-! The paths of a valid package (Table 15.4). -/

/-- An activation of caravans alone is committed, and its manifest runs. -/
def State.commitCaravans (s : State) (a : Activation) : State :=
  let t := ((s.stepPhase 0x03).modActivation fun a => { a with committed := true }).stepPhase 0x07
  { t with upd := { t.upd with runSeq := a.seq } }

theorem State.commitCaravans_keeps (s : State) (a : Activation) :
    Keeps { evt := true, upd := true, way := true } s (s.commitCaravans a) :=
  keeps_mk (a := { upd := true }) rfl rfl
    (State.stepPhase_fr _ rfl (State.modActivation_fr _ rfl (s.stepPhase_keeps 0x03)))

theorem State.completeUpdate_upd (s : State) :
    s.completeUpdate.upd.phase = 0x0A ∧ s.completeUpdate.upd.runSeq = s.upd.runSeq ∧ s.completeUpdate.upd.session = none
      ∧ s.completeUpdate.upd.activation = none := by
  simp [State.completeUpdate]

theorem State.validated_caravans {a : Activation} (path : a.path = .caravans) (noCaravan : a.caravans = []) (s : State) :
    s.validated a = (s.commitCaravans a).completeUpdate := by
  simp only [State.validated, path, noCaravan]
  rfl

theorem State.validated_handover {a : Activation} (path : a.path = .handover) (s : State) :
    s.validated a = (s.stepPhase 0x03).rewrap a := by
  simp only [State.validated, path]

/-- A reboot is fixed to a CN at least 1,500 cycles ahead (R517). -/
theorem State.validated_reboot {a : Activation} (path : a.path = .reboot) (s : State) :
    ∃ c, s.cn + 1500 ≤ c ∧ s.validated a = ((s.stepPhase 0x03).modActivation fun a => { a with cn := c }).rewrap a := by
  have cn : (s.stepPhase 0x03).cn = s.cn := (s.stepPhase_keeps 0x03).cn rfl
  rw [← cn]
  refine ⟨_, State.le_rebootCn (s.stepPhase 0x03) clearingSearch _, ?_⟩
  simp only [State.validated, path]

/-! ABORT. -/

/-- The description of UPD_CTRL (Table 15.13). -/
def updCtrlDesc : RegDesc :=
  { name := "UPD_CTRL", base := 0x400B0000, reset := 1, rwl := 1, act := 2 }

theorem descOf_updCtrl : descOf 0x400B0000 = some updCtrlDesc := rfl

/-- An INSTALLER's write of ABORT takes it (R17). -/
theorem updCtrl_act {s : State} {w : Writer} (installer : w.role = .installer) :
    bit 1 (s.writeReg 0x400B0000 (merge 1 2 (s.reg 0x400B0000)) w).2.act = true := by
  have act := (State.ruled_of_inRanges (s := s) (d := updCtrlDesc) (a := 0x400B0000)
    (v := merge 1 2 (s.reg 0x400B0000)) (w := w) rfl (by simp [inRanges, regOk_above_retry, updCtrlDesc])).2
  have abort : (merge 1 2 (s.reg 0x400B0000) % 4294967296).testBit 1 = true := by
    rw [show 4294967296 = 2 ^ 32 from rfl, Nat.testBit_mod_two_pow, merge_testBit]
    rfl
  rw [State.writeReg_written descOf_updCtrl, act]
  have masking : Nat.testBit 2 1 = true := by decide
  simp [bit, masked, RegDesc.opensTo, mayLocked, updCtrlDesc, installer, Nat.testBit_and, abort, masking]

/-- UPD_CTRL.ABORT of an INSTALLER aborts after its write is recorded. -/
theorem exec_updateAbort_installer {s : State} {w : Writer} (live : s.live = true) (installer : w.role = .installer) :
    exec (.updateAbort w) s = .next (s.writeReg 0x400B0000 (merge 1 2 (s.reg 0x400B0000)) w).1.abortUpdate.2 :=
  congrArg Host.Outcome.next <| (State.whenLive_live live _).trans <| by
    simp [State.writeUpdCtrl, updCtrl_act installer]

theorem State.abortUpdate_idle {s : State} (idle : s.upd.activation = none) : s.abortUpdate.2 = s := by
  simp only [State.abortUpdate, idle]

/-- Before the commit point, an ABORT rolls back with a reason and a check the spec leaves open. -/
theorem State.abortUpdate_rollBack {s : State} {a : Activation} (current : s.upd.activation = some a)
    (uncommitted : a.committed = false) (forward : a.back = false) (rewrapped : s.upd.phase = 4) :
    ∃ t reason check, s.abortUpdate.2 = t.rollBack reason check ∧ t.upd = s.upd ∧ Keeps { freeIdx := true } s t := by
  refine ⟨s.openReason.2.openCheck.2, s.openReason.1, s.openReason.2.openCheck.1, ?_, rfl,
    State.openCheck_fr rfl (State.openReason_fr rfl (.refl _ s))⟩
  have drawn : s.openReason.2.openCheck.2.upd = s.upd := rfl
  simp [State.abortUpdate, State.stopUpdate, current, uncommitted, forward, rewrapped, drawn]

/-- Before the new image is staged, a roll-back leaves the session, the firmware and the stand that serves. -/
theorem State.rollBack_unstaged {s : State} {a : Activation} (current : s.upd.activation = some a)
    (rewrapped : s.upd.phase = 4) (reason : Reason) (check : Nat) :
    (s.rollBack reason check).upd.activation = none ∧ (s.rollBack reason check).upd.phase = 0x0B
      ∧ (s.rollBack reason check).upd.session = s.upd.session
      ∧ (s.rollBack reason check).upd.firmware = s.upd.firmware
      ∧ (s.rollBack reason check).ford.active = s.ford.active := by
  have ford (t : State) : (t.stepPhase 0x0B).dropActivation.ford = t.ford :=
    (State.dropActivation_fr (bl := { evt := true, upd := true, way := true }) rfl (t.stepPhase_keeps _)).ford rfl
  simp [State.rollBack, current, rewrapped, ford]

/-- Settles O49: an ACTIVATE by its equation, a validation by its verdict and the path it goes on, an ABORT by the roll-back.
The model's own choices: a failed validation returns the phase to IDLE (log 101), a roll-back keeps the session (log 88), an
ABORT without an activation changes nothing (log 100), and caravans alone are complete at once (log 89). -/
theorem activationsAreValidated : Obligations.ActivationsAreValidated := by
  refine ⟨?activate, ?validate, ?abort⟩
  case activate =>
    intro s i c role tx body x m live isOpen may current size id start zero window serves idle
    have asked : x.activatedBy body := ⟨size, id, start, zero, window⟩
    have next : exec (.updateActivate i role tx body) s = _ :=
      next_request_asked live isOpen may 0x53 tx.toNat fun c s => s.updateActivate i c tx.toNat body
    have heard {l : Blocks} (hm : Blocks.le { fsp := true, upd := true } l = true) :
        Keeps l s ((s.asked i c).withUpdate { x with lastMessage := s.cn }) :=
      State.withUpdate_fr _ (Blocks.le_trans rfl hm) ((s.asked_keeps i c).mono (Blocks.le_trans rfl hm))
    refine ⟨fun complete manifest => ?_, fun lacking => ?_⟩
    · rw [State.updateActivate_begins (s := s.asked i c) current asked serves idle complete manifest] at next
      obtain ⟨active, phase, since⟩ := State.beginValidation_upd ((s.asked i c).withUpdate { x with lastMessage := s.cn })
        (((s.asked i c).withUpdate { x with lastMessage := s.cn }).activationOf x m 900)
      exact ⟨_, _, next, (congrArg _ (State.answerActivate_upd ..)).trans active, rfl, rfl, rfl, rfl, rfl,
        (congrArg _ (State.answerActivate_upd ..)).trans phase, (congrArg _ (State.answerActivate_upd ..)).trans since,
        State.answerActivate_mem_out ..,
        State.answerActivate_fr _ _ _ _ _ rfl (State.beginValidation_fr _ rfl (heard rfl))⟩
    · rw [State.updateActivate_incomplete (s := s.asked i c) current asked serves lacking] at next
      exact ⟨_, next, State.answerActivate_upd .., State.answerActivate_mem_out ..,
        State.answerActivate_fr _ _ _ _ _ rfl (heard rfl)⟩
  case validate =>
    intro s a x m signed live current session validating manifest
    refine ⟨?_, fun digests => ⟨fun path noCaravan => ?_, fun path slots => ?_, fun path => ?_⟩⟩
    · have next := exec_validationDone_undecrypted live current session validating manifest signed
      obtain ⟨ended, inactive, phase, firmware⟩ := s.openReason.2.validationFails_upd s.openReason.1
      have keeps := s.openReason.2.validationFails_none_keeps s.openReason.1
      exact ⟨_, next, ended, inactive, phase, firmware, keeps.can rfl,
        (State.openReason_fr rfl (.refl _ s)).trans (keeps.mono rfl)⟩
    all_goals have next := exec_validationDone_valid live current session validating manifest digests signed
    · rw [State.validated_caravans path noCaravan] at next
      obtain ⟨phase, runSeq, ended, inactive⟩ := (s.commitCaravans a).completeUpdate_upd
      exact ⟨_, next, phase, runSeq, ended, inactive, State.completeUpdate_fr rfl (s.commitCaravans_keeps a)⟩
    · rw [State.validated_handover path] at next
      obtain ⟨phase, activation, area⟩ := (s.stepPhase 0x03).rewrap_upd a
      have within : 11 < (s.stepPhase 0x03).key.slots.length := (s.stepPhase_keeps 0x03).key rfl ▸ slots
      exact ⟨_, next, phase, activation.trans ((s.stepPhase_activation 0x03).trans current), area, State.rewrap_slot within a,
        State.rewrap_fr a rfl ((s.stepPhase_keeps 0x03).mono rfl)⟩
    · obtain ⟨c, ahead, fixed⟩ := State.validated_reboot path s
      rw [fixed] at next
      obtain ⟨phase, activation, -⟩ := ((s.stepPhase 0x03).modActivation fun a => { a with cn := c }).rewrap_upd a
      refine ⟨_, { a with cn := c }, next, phase, activation.trans ?_, ahead, rfl,
        State.rewrap_fr a rfl (State.modActivation_fr _ rfl ((s.stepPhase_keeps 0x03).mono rfl))⟩
      simp [State.modActivation, current]
  case abort =>
    intro s w live canonical installer
    have next := exec_updateAbort_installer live installer
    have written := s.writeReg_keeps 0x400B0000 (merge 1 2 (s.reg 0x400B0000)) w
    have same := written.upd rfl
    refine ⟨fun idle => ?_, fun a current uncommitted forward rewrapped => ?_⟩
    · rw [State.abortUpdate_idle (by rw [same, idle])] at next
      exact ⟨_, next, same, written⟩
    · obtain ⟨t, reason, check, aborts, drawn, kept⟩ := State.abortUpdate_rollBack
        (s := (s.writeReg 0x400B0000 (merge 1 2 (s.reg 0x400B0000)) w).1) (a := a) (by rw [same, current]) uncommitted forward
        (by rw [same, rewrapped])
      have upd : t.upd = s.upd := drawn.trans same
      obtain ⟨inactive, phase, sessionKept, firmware, active⟩ :=
        State.rollBack_unstaged (s := t) (a := a) (by rw [upd, current]) (by rw [upd, rewrapped]) reason check
      rw [aborts] at next
      exact ⟨_, next, inactive, phase, sessionKept.trans (congrArg _ upd), firmware.trans (congrArg _ upd),
        active.trans (congrArg FordSt.active ((kept.ford rfl).trans (written.ford rfl))),
        State.rollBack_fr _ _ rfl ((written.mono rfl).trans (kept.mono rfl))⟩

end Sys2Proof.Machine
end

section
/-! Writes of metrology registers under MSEAL (R303 to R306, R308, R324). -/

namespace Sys2Proof.Machine

/-! What the rule of a write answers while the fields kept for a role are open, and while the seal shuts them. -/

@[simp] theorem State.ruled_old (s : State) (d : RegDesc) (a v : Nat) (w : Writer) : (s.ruled d a v w).old = s.reg a := by
  unfold State.ruled writeRule
  extract_lets
  split <;> rfl

/-- A write within its ranges of a register whose fields are open to the writer is accepted (R17, R304). -/
theorem State.ruled_accepts_open {s : State} {d : RegDesc} {a v new : Nat} {w : Writer}
    (opens : d.opensTo w s.mtr.sealOpen = true)
    (word : d.merged (d.opensTo w s.mtr.sealOpen) (s.reg a) (v % 4294967296) = new)
    (fits : (inRanges d new && regOk s a new) = true) : (s.ruled d a v w).reason = .ok := by
  subst word
  obtain ⟨may, unshut⟩ := (Bool.and_eq_true _ _).mp opens
  rw [Bool.not_eq_true'] at unshut
  unfold State.ruled writeRule
  extract_lets mayHere shut lock new tried reason act
  have accepted : reason = .ok := by simp [reason, mayHere, shut, may, unshut]
  have inside : (inRanges d new && regOk s a new) = true := fits
  simpa [inside] using accepted

/-- A metrology register as the metering block describes it (R304): every field is kept for the INSTALLER and stands under the
seal. -/
structure RegDesc.Sealed (d : RegDesc) : Prop where
  metrology : d.metrology = true
  installer : d.role = .installer
  noPlain : d.rw = 0
  noPlainAction : d.wo = 0

theorem RegDesc.Sealed.opensTo {d : RegDesc} (h : d.Sealed) {w : Writer} {sealOpen : Bool} (installer : w.role = .installer)
    (open_ : sealOpen = true) : d.opensTo w sealOpen = true := by
  simp [RegDesc.opensTo, mayLocked, h.installer, installer, open_]

theorem RegDesc.Sealed.merged {d : RegDesc} (h : d.Sealed) (old v : Nat) : d.merged true old v = merge d.rwl old v := by
  simp [RegDesc.merged, h.noPlain]

/-- A closed seal leaves the word as it is, whoever writes it (R304). -/
theorem State.ruled_new_of_closed {s : State} {d : RegDesc} (h : d.Sealed) (closed : s.mtr.sealOpen = false) (a v : Nat)
    (w : Writer) : (s.ruled d a v w).new = s.reg a := by
  simp [State.ruled, writeRule, h.metrology, h.noPlain, closed]

theorem State.recordRefused_of_ok {r : Written} (accepted : r.reason = .ok) (s : State) (w : Writer) (a v : Nat) :
    s.recordRefused w r a v = s := by
  simp only [State.recordRefused, accepted]

theorem State.writeQuiet_ruled {s : State} {a : Nat} {d : RegDesc} (desc : descOf a = some d) (v : Nat) (w : Writer) :
    s.writeQuiet a v w
      = ((s.setReg a (s.ruled d a v w).new).recordRefused w (s.ruled d a v w) a v, s.ruled d a v w) := by
  simp only [State.writeQuiet, desc]
  rfl

/-- A word written back to its own register leaves every register as it reads. -/
theorem State.reg_setReg_self {s : State} {a : Nat} (canonical : canonicalRegs s.regs = true)
    (reset : resetWord a < 4294967296) (b : Nat) : (s.setReg a (s.reg a)).reg b = s.reg b := by
  rw [State.reg_setReg canonical, Nat.mod_eq_of_lt (s.reg_lt reset)]
  split
  case isTrue same => rw [same]
  case isFalse => rfl

/-! The accepted write. -/

/-- A metrology register takes its word: MTR_LATCH_N reads as before while the new N waits for its boundary (R324), any other
holds the word, which the next cycle accounts with (R306). -/
def State.takeMetrology (s : State) (a word : Nat) : State :=
  if a = 0x4005000C then
    { (s.setReg a word).setReg a (s.reg a) with mtr := { s.mtr with pendingN := some (field 15 0 word) } }
  else { s.setReg a word with mtr := { s.mtr with written := true } }

theorem State.takeMetrology_latchN (s : State) (word : Nat) :
    (s.takeMetrology 0x4005000C word).mtr = { s.mtr with pendingN := some (field 15 0 word) } := rfl

section

variable {s : State} {a : Nat} (word : Nat) (other : a ≠ 0x4005000C)
include other

theorem State.takeMetrology_mtr : (s.takeMetrology a word).mtr = { s.mtr with written := true } := by
  simp only [State.takeMetrology, other, if_false]

theorem State.takeMetrology_regs : (s.takeMetrology a word).regs = (s.setReg a word).regs := by
  simp only [State.takeMetrology, other, if_false]

end

theorem State.takeMetrology_latchN_reg {s : State} (canonical : canonicalRegs s.regs = true) (word b : Nat) :
    (s.takeMetrology 0x4005000C word).reg b = s.reg b := by
  have put : (s.takeMetrology 0x4005000C word).reg b
      = ((s.setReg 0x4005000C word).setReg 0x4005000C (s.reg 0x4005000C)).reg b := State.reg_congr rfl b
  rw [put, State.reg_setReg (canonicalRegs_setReg _ _ _ canonical)]
  split
  case isTrue same => rw [same, Nat.mod_eq_of_lt (s.reg_lt (by decide))]
  case isFalse other => rw [State.reg_setReg canonical, if_neg other]

@[simp] theorem State.metrologyWritten_mtr (s : State) (w : Writer) (a old new : Nat) :
    (s.metrologyWritten w a old new).mtr = { s.mtr with sealGen := (s.mtr.sealGen + 1) % 4294967296 } :=
  (State.recordAs_keeps ..).mtr rfl

@[simp] theorem State.metrologyWritten_cn (s : State) (w : Writer) (a old new : Nat) :
    (s.metrologyWritten w a old new).cn = s.cn :=
  (State.recordAs_keeps ..).cn rfl

@[simp] theorem State.metrologyWritten_regs (s : State) (w : Writer) (a old new : Nat) :
    (s.metrologyWritten w a old new).regs = s.regs :=
  (State.recordAs_keeps ..).regs rfl

/-- An INSTALLER's write under an open seal is taken and counted, and its action bit starts the measurement (R304 to R308). -/
theorem State.writeMetrology_open {s : State} {d : RegDesc} {a v word : Nat} {w : Writer} (desc : descOf a = some d)
    (h : d.Sealed) (installer : w.role = .installer) (open_ : s.mtr.sealOpen = true) (small : v < 4294967296)
    (merged : merge d.rwl (s.reg a) v = word) (fits : (inRanges d word && regOk s a word) = true) :
    (s.writeMetrology a v w).1
      = ((s.takeMetrology a word).metrologyWritten w a (s.reg a) word).iff (decide (masked d.act v ≠ 0)) State.startCal := by
  have opens := h.opensTo installer open_
  have stores : d.merged (d.opensTo w s.mtr.sealOpen) (s.reg a) (v % 4294967296) = word := by
    rw [opens, h.merged, Nat.mod_eq_of_lt small, merged]
  have accepted := State.ruled_accepts_open opens stores fits
  obtain ⟨new, act⟩ := State.ruled_of_inRanges stores fits
  have acts : (s.ruled d a v w).act = masked d.act v := by
    rw [act, opens, if_pos rfl, h.noPlainAction, Nat.mod_eq_of_lt small]
    simp [masked]
  have named : isMetrology a = true := by simp only [isMetrology, desc, h.metrology]
  simp [State.writeMetrology, named, State.writeQuiet_ruled desc, State.recordRefused_of_ok accepted, accepted, new, acts,
    installer, open_, State.takeMetrology, State.iff]

/-! The refused write. -/

/-- Under a closed seal no register and nothing of the meter changes, whoever writes (R303, R304). -/
theorem State.writeMetrology_closed {s : State} {d : RegDesc} {a : Nat} (canonical : canonicalRegs s.regs = true)
    (desc : descOf a = some d) (h : d.Sealed) (reset : resetWord a < 4294967296) (closed : s.mtr.sealOpen = false) (v : Nat)
    (w : Writer) :
    (∀ b, (s.writeMetrology a v w).1.reg b = s.reg b) ∧ (s.writeMetrology a v w).1.mtr = s.mtr
      ∧ Keeps { evt := true, regs := true, way := true } s (s.writeMetrology a v w).1 := by
  have named : isMetrology a = true := by simp only [isMetrology, desc, h.metrology]
  have quiet : (s.writeMetrology a v w).1 = (s.writeQuiet a v w).1 := by
    simp only [State.writeMetrology, named, closed, Bool.not_true, Bool.false_eq_true, if_false, or_true, if_true]
    split <;> rfl
  have kept : Keeps { evt := true, regs := true, way := true } s (s.writeQuiet a v w).1 :=
    State.writeQuiet_fr a v w rfl (.refl _ s)
  rw [quiet]
  refine ⟨fun b => ?_, kept.mtr rfl, kept⟩
  rw [State.writeQuiet_ruled desc, State.ruled_new_of_closed h closed]
  exact (State.reg_congr (State.recordRefused_regs ..) b).trans (State.reg_setReg_self canonical reset b)

/-! MTR_VNOM, MTR_LATCH_N and MTR_CAL_CTRL (Table 8.10). -/

/-- The description of MTR_VNOM. -/
def vnomDesc : RegDesc :=
  { name := "MTR_VNOM", base := 0x40050024, reset := 0x8FC, rwl := 0xFFFF, metrology := true }

theorem descOf_vnom : descOf 0x40050024 = some vnomDesc := rfl

theorem vnomDesc_sealed : vnomDesc.Sealed := ⟨rfl, rfl, rfl, rfl⟩

/-- The description of MTR_LATCH_N. -/
def latchNDesc : RegDesc :=
  { name := "MTR_LATCH_N", base := 0x4005000C, reset := 0xBB8, rwl := 0xFFFF, metrology := true
    ranges := [(0, 15, 1, 65535)] }

theorem descOf_latchN : descOf 0x4005000C = some latchNDesc := rfl

theorem latchNDesc_sealed : latchNDesc.Sealed := ⟨rfl, rfl, rfl, rfl⟩

/-- The description of MTR_CAL_CTRL. -/
def calCtrlDesc : RegDesc :=
  { name := "MTR_CAL_CTRL", base := 0x40050050, reset := 0x1F40000, rwl := 0xFFFF0000, act := 1, metrology := true
    ranges := [(16, 31, 1, 65535)] }

theorem descOf_calCtrl : descOf 0x40050050 = some calCtrlDesc := rfl

theorem calCtrlDesc_sealed : calCtrlDesc.Sealed := ⟨rfl, rfl, rfl, rfl⟩

section

variable {s : State} {v : Nat} {w : Writer} (canonical : canonicalRegs s.regs = true) (installer : w.role = .installer)
  (open_ : s.mtr.sealOpen = true) (small : v < 4294967296)
include canonical installer open_ small

/-- MTR_VNOM holds its field as written, and the seal generation counts the write. -/
theorem State.writeMetrology_vnom :
    RegsWith s (s.writeMetrology 0x40050024 v w).1 0x40050024 (merge 0xFFFF (s.reg 0x40050024) v)
      ∧ (s.writeMetrology 0x40050024 v w).1.mtr
        = { s.mtr with written := true, sealGen := (s.mtr.sealGen + 1) % 4294967296 } := by
  rw [State.writeMetrology_open descOf_vnom vnomDesc_sealed installer open_ small rfl (by simp [inRanges, regOk, vnomDesc]),
    decide_eq_false (by simp [vnomDesc, masked]), State.iff_false]
  constructor
  · have stored := State.setReg_regsWith canonical 0x40050024 (merge 0xFFFF (s.reg 0x40050024) v)
    rw [Nat.mod_eq_of_lt (merge_lt v (by decide) (s.reg_lt (by decide)))] at stored
    exact stored.congr rfl ((State.metrologyWritten_regs ..).trans (State.takeMetrology_regs _ (by decide)))
  · rw [State.metrologyWritten_mtr, State.takeMetrology_mtr _ (by decide)]

/-- A new N waits, and MTR_LATCH_N reads as before. -/
theorem State.writeMetrology_latchN (least : 1 ≤ field 15 0 v) :
    (∀ b, (s.writeMetrology 0x4005000C v w).1.reg b = s.reg b)
      ∧ (s.writeMetrology 0x4005000C v w).1.mtr
        = { s.mtr with pendingN := some (field 15 0 v), sealGen := (s.mtr.sealGen + 1) % 4294967296 } := by
  have kept : field 15 0 (merge 0xFFFF (s.reg 0x4005000C) v) = field 15 0 v := field_merge _ _ (by decide)
  have most : field 15 0 v < 65536 := field_lt 15 0 v
  rw [State.writeMetrology_open descOf_latchN latchNDesc_sealed installer open_ small rfl
      (by simp [inRanges, regOk, latchNDesc, kept]; omega),
    decide_eq_false (by simp [latchNDesc, masked]), State.iff_false]
  constructor
  · exact fun b => (State.reg_congr (State.metrologyWritten_regs ..) b).trans (State.takeMetrology_latchN_reg canonical _ b)
  · rw [State.metrologyWritten_mtr, State.takeMetrology_latchN, ← kept]
    rfl

/-- START begins a measurement at this cycle, over the window that the same write names. -/
theorem State.writeMetrology_calCtrl (least : 1 ≤ field 31 16 v) (start : v.testBit 0 = true) :
    (s.writeMetrology 0x40050050 v w).1.mtr.cal = { busy := true, start := s.cn, window := field 31 16 v } := by
  have kept : field 31 16 (merge 0xFFFF0000 (s.reg 0x40050050) v) = field 31 16 v := field_merge _ _ (by decide)
  have most : field 31 16 v < 65536 := field_lt 31 16 v
  have odd : v % 2 = 1 := by simpa using start
  have starts : masked calCtrlDesc.act v ≠ 0 := by simp [masked, calCtrlDesc, Nat.and_one_is_mod, odd]
  rw [State.writeMetrology_open descOf_calCtrl calCtrlDesc_sealed installer open_ small rfl
    (by simp [inRanges, regOk, calCtrlDesc, kept]; omega), decide_eq_true starts, State.iff_true]
  have stored : ((s.takeMetrology 0x40050050 (merge 0xFFFF0000 (s.reg 0x40050050) v)).metrologyWritten w 0x40050050
      (s.reg 0x40050050) (merge 0xFFFF0000 (s.reg 0x40050050) v)).reg 0x40050050
      = merge 0xFFFF0000 (s.reg 0x40050050) v := by
    rw [State.reg_congr ((State.metrologyWritten_regs ..).trans (State.takeMetrology_regs _ (by decide))),
      State.reg_setReg canonical, if_pos rfl, Nat.mod_eq_of_lt (merge_lt v (by decide) (s.reg_lt (by decide)))]
  simp only [State.startCal, calCtrlDesc, stored, kept, State.metrologyWritten_cn]
  rfl

end

end Sys2Proof.Machine
end

section
/-! Selections, reads and balances of the meter (R244, R320, R337), and O21. -/

namespace Sys2Proof.Machine

/-! Metrology commands. -/

theorem exec_metrologyRegisterWrite_vnom {s : State} (live : s.live = true) (value : Word) (w : Writer) :
    exec (.metrologyRegisterWrite 0x40050024 value w) s = .next (s.writeMetrology 0x40050024 value.toNat w).1 :=
  congrArg Host.Outcome.next (State.whenLive_live live _)

theorem exec_latchNWrite_live {s : State} (live : s.live = true) (value : Word) (w : Writer) :
    exec (.latchNWrite value w) s = .next (s.writeMetrology 0x4005000C value.toNat w).1 :=
  congrArg Host.Outcome.next (State.whenLive_live live _)

theorem exec_calStart_live {s : State} (live : s.live = true) (value : Word) (w : Writer) :
    exec (.calStart value w) s = .next (s.writeMetrology 0x40050050 (value.toNat ||| 1) w).1 :=
  congrArg Host.Outcome.next (State.whenLive_live live _)

/-! MTR_REG_SEL (R320). -/

/-- The description of MTR_REG_SEL (Table 8.10). -/
def regSelDesc : RegDesc :=
  { name := "MTR_REG_SEL", base := 0x40050040, rw := 0x10733, ranges := [(4, 5, 1, 3)] }

theorem descOf_regSel : descOf 0x40050040 = some regSelDesc := rfl

/-- A write of MTR_REG_SEL that names a phase is accepted and stores its fields, under any role. -/
theorem regSel_stored {s : State} {v : Nat} {w : Writer} (canonical : canonicalRegs s.regs = true) (word : v < 4294967296)
    (least : 1 ≤ field 5 4 v) :
    (s.writeReg 0x40050040 v w).2.reason = .ok
      ∧ RegsWith s (s.writeReg 0x40050040 v w).1 0x40050040 (merge 0x10733 (s.reg 0x40050040) v) := by
  have kept : field 5 4 (merge 0x10733 (s.reg 0x40050040) v) = field 5 4 v := field_merge _ _ (by decide)
  have most : field 5 4 v < 4 := field_lt 5 4 v
  have merged : regSelDesc.merged (regSelDesc.opensTo w s.mtr.sealOpen) (s.reg 0x40050040) (v % 4294967296)
      = merge 0x10733 (s.reg 0x40050040) v := by
    simp [RegDesc.merged, regSelDesc, Nat.mod_eq_of_lt word]
  have fits : (inRanges regSelDesc (merge 0x10733 (s.reg 0x40050040) v)
      && regOk s 0x40050040 (merge 0x10733 (s.reg 0x40050040) v)) = true := by
    simp [inRanges, regOk, regSelDesc, kept]
    omega
  constructor
  · rw [State.writeReg_written descOf_regSel]
    exact State.ruled_accepts_plain rfl rfl merged fits
  · exact State.writeReg_merged canonical descOf_regSel (merge_lt v (by decide) (s.reg_lt (by decide))) merged fits

theorem exec_regSelWrite_accepted {s : State} {value : Word} {w : Writer} (live : s.live = true)
    (accepted : (s.writeReg 0x40050040 value.toNat w).2.reason = .ok) :
    exec (.regSelWrite value w) s = .next (s.writeReg 0x40050040 value.toNat w).1.copyRegister :=
  congrArg Host.Outcome.next <| (State.whenLive_live live _).trans <| by simp [State.writeRegSel, accepted]

/-- A selection with LAST copies the last interval value it names; the accumulators stay. -/
theorem State.copyRegister_last {s : State} {x : Nat} (selected : s.reg 0x40050040 = x) (last : bit 16 x = true) :
    s.copyRegister.mtr.regLo
        = lget 0 (24 * field 1 0 x + 8 * (field 5 4 x - 1) + 4 * field 10 10 x + field 9 8 x) s.mtr.lastValues % 4294967296
      ∧ s.copyRegister.mtr.live = s.mtr.live ∧ s.copyRegister.regs = s.regs := by
  simp [State.copyRegister, selected, last]

/-! METER_READ (R244). -/

/-- The cumulative registers that a METER_READ asks for: of the feeders of its mask, at most as many as it names. -/
def State.readOut (s : State) (b : List Byte) : List (List Byte) :=
  (((upFrom 0 4).filter fun f => bit f (oct 1 b)).map s.cumulative).flatten.take (ofLe (slice 10 2 b))

theorem State.serveMeterRead_cumulative {s : State} {b : List Byte} (formed : meterReadOk b = true) (cumulative : oct 0 b = 0)
    (i : Fin 4) (c : Session) (tx : Nat) :
    s.serveMeterRead i c tx b = (s.countUse i c Session.readUse).respond i 0x20 tx
      (le 1 0 ++ slice 0 1 b ++ le 2 (s.readOut b).length ++ le 5 s.cn ++ le 1 12 ++ [0, 0] ++ (s.readOut b).flatten) := by
  simp only [State.serveMeterRead, formed, cumulative, Bool.not_true, Bool.false_eq_true, if_false, if_true, State.readOut]

theorem exec_meterRead_served {s : State} {i : Fin 4} {c : Session} {role : Byte} (live : s.live = true)
    (isOpen : s.session i = some c) (notModem : c.path ≠ 3) (may : c.mayAsk role.toNat .operator = true) (tx : Word)
    (body : List Byte) :
    exec (.meterRead i role tx body) s = .next ((s.heard i).serveMeterRead i c tx.toNat body) :=
  next_request_served live isOpen notModem may 0x20 tx.toNat fun c s => s.serveMeterRead i c tx.toNat body

/-! The close of a balance (R337, R340). -/

theorem State.bal_congr {s t : State} (same : t.mtr = s.mtr) (f : Nat) : t.bal f = s.bal f := by
  simp only [State.bal, same]

theorem State.bal_modBal_same {s : State} {f : Nat} (within : f < s.mtr.live.bal.length) (g : FeederBal → FeederBal) :
    (s.modBal f g).bal f = g (s.bal f) :=
  lget_lmod_same ({} : FeederBal) g within

/-- What a change of every element leaves of it, a change of one leaves of the list. -/
theorem lget_lmod_kept {α β : Type} {p : α → β} {g : α → α} (kept : ∀ x, p (g x) = p x) (d : α) (n k : Nat) (l : List α) :
    p (lget d k (lmod g n l)) = p (lget d k l) := by
  fun_induction lmod g n l generalizing k with
  | case1 => rfl
  | case2 x r =>
    cases k with
    | zero => exact kept x
    | succ k => rfl
  | case3 n x r ih =>
    cases k with
    | zero => rfl
    | succ k => exact ih k

theorem State.recordBalance_keeps (s : State) (f : Nat) (r : BalResult) :
    Keeps { evt := true, way := true } s (s.recordBalance f r) :=
  State.recordBalance_fr f r rfl (.refl _ s)

theorem State.iff_recordBalance_bal (s : State) (recorded : Bool) (f : Nat) (r : BalResult) :
    (s.iff recorded fun s => s.recordBalance f r).bal f = s.bal f := by
  cases recorded with
  | false => rfl
  | true => exact State.bal_congr ((s.recordBalance_keeps f r).mtr rfl) f

/-- A feeder's open balances and its last result. -/
def FeederBal.results (b : FeederBal) : List Balance × Option BalResult :=
  (b.open_, b.last)

theorem State.bal_modBal_results {g : FeederBal → FeederBal} (kept : ∀ x, (g x).results = x.results) (s : State) (n f : Nat) :
    ((s.modBal n g).bal f).results = (s.bal f).results :=
  lget_lmod_kept (p := FeederBal.results) kept {} n f _

/-- The alarms count results, and leave them and the open balances as they are. -/
theorem State.balanceAlarm_results (s : State) (f : Nat) (r : BalResult) :
    ((s.balanceAlarm f r).bal f).results = (s.bal f).results := by
  unfold State.balanceAlarm
  split
  case isTrue => rfl
  case isFalse =>
    rw [State.iff_recordBalance_bal]
    refine (State.bal_modBal_results ?_ _ f f).trans (State.bal_modBal_results ?_ s f f)
    all_goals exact fun _ => rfl

/-- A balance that closes leaves the open ones of its feeder, and its result is the last. -/
theorem State.closeBalance_results {s : State} {f : Nat} (within : f < s.mtr.live.bal.length) (b : Balance) :
    ((s.closeBalance f b).bal f).results
      = ((s.bal f).open_.filter (fun y => decide (y.cn ≠ b.cn)), some (s.balanceResult f b)) := by
  unfold State.closeBalance
  rw [State.balanceAlarm_results, State.iff_recordBalance_bal, State.bal_modBal_same within]
  rfl

theorem exec_balanceDeadline_due {s : State} {f : Fin 4} {ended : BitVec 40} {b : Balance} (live : s.live = true)
    (waits : ((s.bal f.val).open_.find? fun b => decide (b.cn = ended.toNat)) = some b)
    (due : s.balanceDue f.val b ≤ s.cn) : exec (.balanceDeadline f ended) s = .next (s.closeBalance f.val b) :=
  congrArg Host.Outcome.next <| (State.whenLive_live live _).trans <| by simp [waits, due]

/-- Settles O21: a metrology write is taken by the INSTALLER under an open seal (`State.writeMetrology_open`) and by nobody under
a closed one (`State.writeMetrology_closed`); a selection, a read and a deadline by what serves each. -/
theorem metrologyRegistersAndReadOut : Obligations.MetrologyRegistersAndReadOut := by
  refine ⟨?write, ?select, ?read, ?balance⟩
  case write =>
    intro s value w live canonical
    have vnom := exec_metrologyRegisterWrite_vnom live value w
    have latchN := exec_latchNWrite_live live value w
    have calStart := exec_calStart_live live value w
    refine ⟨fun installer isOpen => ⟨?_, fun least => ?_, fun least => ?_⟩, fun closed => ⟨?_, ?_, ?_⟩⟩
    · obtain ⟨stored, mtr⟩ := State.writeMetrology_vnom canonical installer isOpen value.isLt
      exact ⟨_, vnom, stored, mtr, execMetrologyRegisterWrite_fr _ _ w vnom rfl (.refl _ s)⟩
    · obtain ⟨reads, mtr⟩ := State.writeMetrology_latchN canonical installer isOpen value.isLt least
      exact ⟨_, latchN, reads, mtr, execLatchNWrite_fr _ w latchN rfl (.refl _ s)⟩
    · have window : field 31 16 (value.toNat ||| 1) = field 31 16 value.toNat := field_or _ (by decide)
      have cal := State.writeMetrology_calCtrl canonical installer isOpen
        (Nat.or_lt_two_pow (n := 32) value.isLt (by decide)) (window.symm ▸ least) (by simp)
      exact ⟨_, calStart, congrArg CalSt.busy cal, congrArg CalSt.done cal, congrArg CalSt.start cal,
        (congrArg CalSt.window cal).trans window, execCalStart_fr _ w calStart rfl (.refl _ s)⟩
    · exact ⟨_, vnom, State.writeMetrology_closed canonical descOf_vnom vnomDesc_sealed (by decide) closed _ w⟩
    · exact ⟨_, latchN, State.writeMetrology_closed canonical descOf_latchN latchNDesc_sealed (by decide) closed _ w⟩
    · exact ⟨_, calStart, State.writeMetrology_closed canonical descOf_calCtrl calCtrlDesc_sealed (by decide) closed _ w⟩
  case select =>
    intro s value w x live canonical last least selection
    obtain ⟨accepted, stored⟩ := regSel_stored (w := w) canonical value.isLt least
    rw [← selection] at stored
    have lastKept : bit 16 x = true := by
      rw [selection, bit, merge_testBit, if_pos (by decide)]
      exact last
    have next := exec_regSelWrite_accepted live accepted
    obtain ⟨regLo, accumulators, regs⟩ := State.copyRegister_last stored.1 lastKept
    have mtr := (s.writeReg_keeps 0x40050040 value.toNat w).mtr rfl
    rw [mtr] at regLo accumulators
    exact ⟨_, next, stored.congr rfl regs, regLo, accumulators, execRegSelWrite_fr _ w next rfl (.refl _ s)⟩
  case read =>
    intro s i c role tx body live isOpen notModem may formed cumulative
    refine ⟨_, exec_meterRead_served live isOpen notModem may tx body, ?_⟩
    rw [State.serveMeterRead_cumulative formed cumulative]
    have kept := s.countUse_respond_keeps i c Session.readUse 0x20 tx.toNat
      (le 1 0 ++ slice 0 1 body ++ le 2 ((s.heard i).readOut body).length ++ le 5 (s.heard i).cn ++ le 1 12 ++ [0, 0]
        ++ ((s.heard i).readOut body).flatten)
    refine ⟨fun rs asked => ?_, kept.mtr rfl, kept⟩
    rw [asked]
    exact State.respond_mem_out ((s.heard i).countUse ..) ..
  case balance =>
    intro s f ended b live within waits due
    have next := exec_balanceDeadline_due live waits due
    have cn : b.cn = ended.toNat := of_decide_eq_true (List.find?_some (p := fun b : Balance => decide (b.cn = ended.toNat)) waits)
    obtain ⟨left, last⟩ := Prod.mk.inj (State.closeBalance_results within b)
    rw [cn] at left
    exact ⟨_, _, next, left, last, cn, execBalanceDeadline_fr f ended next rfl (.refl _ s)⟩

end Sys2Proof.Machine
end

section
/-! Channels, the seal, calibration, phases and checkpoints of the meter (R298, R303, R308, R310, R321), and O22. -/

namespace Sys2Proof.Machine

/-! An event of a tile leaves the meter as it is. -/

@[simp] theorem State.postTile_mtr (s : State) (t : Template) (unit i kind payload : Nat) :
    (s.postTile t unit i kind payload).mtr = s.mtr :=
  (State.postTile_fr (bl := { evt := true }) _ _ _ _ _ rfl (.refl _ s)).mtr rfl

/-! Channels (R298). -/

theorem State.mtrCh_modMtrCh_same {s : State} {c : Nat} (within : c < s.mtr.chs.length) (f : MtrCh → MtrCh) :
    (s.modMtrCh c f).mtrCh c = f (s.mtrCh c) :=
  lget_lmod_same ({} : MtrCh) f within

theorem State.mtrCh_congr {s t : State} (same : t.mtr = s.mtr) (c : Nat) : t.mtrCh c = s.mtrCh c := by
  simp only [State.mtrCh, same]

theorem exec_channelFault_good {s : State} {c : Fin 16} (live : s.live = true) (good : (s.mtrCh c.val).stage = .good) :
    exec (.channelFault c) s
      = .next ((s.modMtrCh c.val fun x => { x with stage := .resetDue }).postTile .meterPipe c.val 0 1 0) :=
  congrArg Host.Outcome.next <| (State.whenLive_live live _).trans <| by simp only [good]

/-! The seal (R303). -/

/-- The seal's state follows its loop; an opening marks the interval in progress of every feeder in use (Table 8.4). -/
def State.sealLoop (s : State) (isOpen : Bool) : State :=
  { s with mtr := { s.mtr with sealOpen := isOpen }, fld := { s.fld with mseal := isOpen } }.iff isOpen
    fun s => s.flagInts s.feeders 5

theorem State.flagInts_sealOpen (s : State) (fs : List Nat) (n : Nat) :
    (s.flagInts fs n).mtr.sealOpen = s.mtr.sealOpen := by
  unfold State.flagInts
  refine forEach_same (g := fun s : State => s.mtr.sealOpen) ?_ fs s
  exact fun _ _ => rfl

theorem State.sealLoop_sealOpen (s : State) (isOpen : Bool) : (s.sealLoop isOpen).mtr.sealOpen = isOpen := by
  cases isOpen with
  | false => rfl
  | true => exact State.flagInts_sealOpen ..

theorem State.sealLoop_fld (s : State) (isOpen : Bool) : (s.sealLoop isOpen).fld = { s.fld with mseal := isOpen } := by
  cases isOpen with
  | false => rfl
  | true => exact (State.flagInts_fr (bl := { mtr := true }) _ _ rfl (.refl _ _)).fld rfl

/-- The change of the loop's state is posted and recorded. -/
theorem exec_msealChange_differs {s : State} {isOpen : Bool} (live : s.live = true) (differs : s.mtr.sealOpen ≠ isOpen) :
    exec (.msealChange isOpen) s
      = .next (((s.sealLoop isOpen).post 832 1 0).record 832 0x31 .ok (le 1 (flag isOpen 0))) :=
  congrArg Host.Outcome.next <| (State.whenLive_live live _).trans <| by
    rw [decide_eq_true differs, State.iff_true]
    rfl

theorem exec_msealChange_same {s : State} {isOpen : Bool} (live : s.live = true) (same : s.mtr.sealOpen = isOpen) :
    exec (.msealChange isOpen) s = .next s :=
  congrArg Host.Outcome.next <| (State.whenLive_live live _).trans <| by
    rw [decide_eq_false (not_not_intro same), State.iff_false]

/-! Calibration, phases and checkpoints (R308, R310, R321). -/

theorem exec_calDone_ended {s : State} (live : s.live = true) (busy : s.mtr.cal.busy = true)
    (ended : s.mtr.cal.start + s.mtr.cal.window ≤ s.cn) (p q dc : Int) (rms : Word) :
    exec (.calDone p q rms dc) s = .next { s with mtr := { s.mtr with cal := { s.mtr.cal with
      busy := false, done := true, cycles := s.mtr.cal.window, p := p, q := q, rms := rms.toNat, dc := dc } } } :=
  congrArg Host.Outcome.next <| (State.whenLive_live live _).trans <| by
    simp only [busy, ended, decide_true, Bool.and_self, State.iff_true]

theorem exec_phaseAbsent_live {s : State} (live : s.live = true) (phase : Fin 2) :
    exec (.phaseAbsent phase) s = .next
      ({ s with mtr := { s.mtr with phaseAbsent := lset phase.val true s.mtr.phaseAbsent } }.postTile .meterAcc 0 5 1 0) :=
  congrArg Host.Outcome.next (State.whenLive_live live _)

theorem exec_phaseValidCrossing_live {s : State} (live : s.live = true) (phase : Fin 2) :
    exec (.phaseValidCrossing phase) s
      = .next { s with mtr := { s.mtr with phaseAbsent := lset phase.val false s.mtr.phaseAbsent } } :=
  congrArg Host.Outcome.next (State.whenLive_live live _)

theorem exec_meterCheckpoint_live {s : State} (live : s.live = true) :
    exec .meterCheckpoint s = .next (s.iff (s.mtr.running && decide (s.cn % 50 = 0)) State.checkpoint) :=
  congrArg Host.Outcome.next (State.whenLive_live live _)

/-- A checkpoint holds the accumulators of this cycle, and goes before the newer of the two held. -/
theorem State.checkpoint_mtr (s : State) :
    ∃ c, s.checkpoint.mtr = { s.mtr with checkpoints := c :: s.mtr.checkpoints.take 1 } ∧ c.live = s.mtr.live ∧ c.cn = s.cn :=
  ⟨_, State.postTile_mtr .., rfl, rfl⟩

/-- Settles O22: each input of the pipeline by the equation of its command. -/
theorem meterPipelineFollowsItsInputs : Obligations.MeterPipelineFollowsItsInputs := by
  refine ⟨?channel, ?loop, ?cal, ?phase, ?checkpoint⟩
  case channel =>
    intro s c live within good
    have next := exec_channelFault_good live good
    refine ⟨_, next, ?_, (congrArg MtrSt.live (State.postTile_mtr ..)).trans rfl,
      execChannelFault_fr c next rfl (.refl _ s)⟩
    rw [State.mtrCh_congr (State.postTile_mtr ..), State.mtrCh_modMtrCh_same within]
  case loop =>
    intro s isOpen live
    refine ⟨fun differs => ?_, fun same => exec_msealChange_same live same⟩
    have next := exec_msealChange_differs live differs
    have recorded : Keeps { evt := true, way := true } (s.sealLoop isOpen)
        (((s.sealLoop isOpen).post 832 1 0).record 832 0x31 .ok (le 1 (flag isOpen 0))) :=
      State.record_fr _ _ _ _ rfl (State.post_fr _ _ _ rfl (.refl _ _))
    exact ⟨_, next, (congrArg MtrSt.sealOpen (recorded.mtr rfl)).trans (s.sealLoop_sealOpen isOpen),
      (recorded.fld rfl).trans (s.sealLoop_fld isOpen), execMsealChange_fr isOpen next rfl (.refl _ s)⟩
  case cal =>
    intro s p q dc rms live busy ended
    exact exec_calDone_ended live busy ended p q dc rms
  case phase =>
    intro s phase live
    have next := exec_phaseAbsent_live live phase
    exact ⟨⟨_, next, State.postTile_mtr .., execPhaseAbsent_fr phase next rfl (.refl _ s)⟩,
      exec_phaseValidCrossing_live live phase⟩
  case checkpoint =>
    intro s live
    have next := exec_meterCheckpoint_live live
    constructor
    · intro running due
      rw [running, decide_eq_true due, Bool.and_self, State.iff_true] at next
      obtain ⟨c, mtr, accumulators, cn⟩ := s.checkpoint_mtr
      exact ⟨_, c, _, next, congrArg MtrSt.checkpoints mtr, accumulators, cn, rfl, (congrArg MtrSt.live mtr).trans rfl,
        execMeterCheckpoint_fr next rfl (.refl _ s)⟩
    · intro between
      rw [decide_eq_false between, Bool.and_false, State.iff_false] at next
      exact next

end Sys2Proof.Machine
end

section
/-! Rules of the direct drive's state: channels, engines, tile events, and a write that leaves its register as it is (09). -/

namespace Sys2Proof.Machine

/-! An element of a list after a change. -/

/-- A predicate that the change of one element establishes holds of that element, and of any other it held of. -/
theorem lget_lmod_of_made {α : Type} {P : α → Prop} {d : α} {g : α → α} (made : ∀ x, P (g x)) (beyond : P d) {n k : Nat}
    {l : List α} (before : k = n ∨ P (lget d k l)) : P (lget d k (lmod g n l)) := by
  fun_induction lmod g n l generalizing k with
  | case1 => simpa only [lget] using beyond
  | case2 x r =>
    cases k with
    | zero => exact made x
    | succ k => exact before.resolve_left (Nat.succ_ne_zero k)
  | case3 n x r ih =>
    cases k with
    | zero => exact before.resolve_left (Nat.succ_ne_zero n).symm
    | succ k => exact ih (before.imp Nat.succ.inj id)

/-- Of two changes of one element the first is lost where the second does not look at it. -/
theorem lmod_lmod {α : Type} {f g h : α → α} (same : ∀ x, g (f x) = h x) (n : Nat) (l : List α) :
    lmod g n (lmod f n l) = lmod h n l := by
  fun_induction lmod f n l with
  | case1 => simp only [lmod]
  | case2 x r => exact congrArg (· :: r) (same x)
  | case3 n x r ih => exact congrArg (x :: ·) ih

/-- What a step makes true of its own element, and no other step breaks, holds of every element at the end. -/
theorem forEach_reaches {α σ : Type} {f : α → σ → σ} {Q : α → σ → Prop} (made : ∀ a s, Q a (f a s))
    (kept : ∀ a b s, Q a s → Q a (f b s)) {a : α} {l : List α} (listed : a ∈ l) (s : σ) : Q a (forEach f l s) := by
  have carried : ∀ (l : List α) (s : σ), Q a s → Q a (forEach f l s) := by
    intro l
    induction l with
    | nil => exact fun _ held => held
    | cons b l ih => exact fun s held => ih _ (kept a b s held)
  induction l generalizing s with
  | nil => cases listed
  | cons b l ih =>
    rcases List.mem_cons.1 listed with rfl | later
    · exact carried l _ (made a s)
    · exact ih later _

/-! A channel. -/

theorem State.ch_congr {s t : State} (same : t.drv = s.drv) (c : Nat) : t.ch c = s.ch c := by
  simp only [State.ch, same]

theorem State.modCh_drv_congr {s t : State} (same : t.drv = s.drv) (c : Nat) (f : ChSt → ChSt) :
    (t.modCh c f).drv = (s.modCh c f).drv := by
  simp only [State.modCh, same]

theorem State.modCh_modCh {f g h : ChSt → ChSt} (same : ∀ x, g (f x) = h x) (s : State) (c : Nat) :
    (s.modCh c f).modCh c g = s.modCh c h := by
  simp only [State.modCh, lmod_lmod same]

/-! An engine. -/

theorem State.modPe_drv_congr {s t : State} (same : t.drv = s.drv) (p : Nat) (f : PeSt → PeSt) :
    (t.modPe p f).drv = (s.modPe p f).drv := by
  simp only [State.modPe, same]

/-! Events and records leave the drive as it is. -/

@[simp] theorem State.postTile_drv (s : State) (t : Template) (unit i kind payload : Nat) :
    (s.postTile t unit i kind payload).drv = s.drv :=
  (State.postTile_fr (bl := { evt := true }) _ _ _ _ _ rfl (.refl _ s)).drv rfl

@[simp] theorem State.hardwareLimit_drv (s : State) (h : Nat) : (s.hardwareLimit h).drv = s.drv := rfl

@[simp] theorem State.recordEvac_drv (s : State) (p what : Nat) : (s.recordEvac p what).drv = s.drv :=
  (State.recordEvac_fr (bl := { evt := true, way := true }) p what rfl (.refl _ s)).drv rfl

@[simp] theorem State.startPe_drv (s : State) (p : Nat) (r : PeRun) :
    (s.startPe p r).drv = (s.modPe p fun e => { e with run := some r, pending := false }).drv :=
  State.postTile_drv ..

@[simp] theorem State.endPe_drv (s : State) (p : Nat) :
    (s.endPe p).drv = (s.modPe p fun e => { e with run := none, pending := false }).drv :=
  State.postTile_drv ..

/-! A write that leaves its register's word as it is takes its action bits all the same. -/

theorem State.ruled_of_kept {s : State} {d : RegDesc} {a v : Nat} {w : Writer}
    (kept : d.merged (d.opensTo w s.mtr.sealOpen) (s.reg a) (v % 4294967296) = s.reg a) :
    (s.ruled d a v w).new = s.reg a ∧ (s.ruled d a v w).act = masked d.wo (v % 4294967296)
      ||| (if d.opensTo w s.mtr.sealOpen then masked d.act (v % 4294967296) else 0) := by
  unfold State.ruled writeRule
  extract_lets may shut lock new tried reason act
  have unchanged : new = s.reg a := kept
  split
  case isTrue refused =>
    rw [Bool.and_eq_true] at refused
    exact absurd unchanged (of_decide_eq_true refused.1)
  case isFalse => exact ⟨unchanged, rfl⟩

theorem State.writeReg_reg_of_kept {s : State} {d : RegDesc} {a v : Nat} {w : Writer} (canonical : canonicalRegs s.regs = true)
    (desc : descOf a = some d) (reset : resetWord a < 4294967296)
    (kept : d.merged (d.opensTo w s.mtr.sealOpen) (s.reg a) (v % 4294967296) = s.reg a) (b : Nat) :
    (s.writeReg a v w).1.reg b = s.reg b := by
  rw [State.reg_congr (State.writeReg_regs desc v w), (State.ruled_of_kept kept).1, State.reg_setReg_self canonical reset]

theorem State.writeReg_canonical {s : State} {d : RegDesc} {a : Nat} (canonical : canonicalRegs s.regs = true)
    (desc : descOf a = some d) (v : Nat) (w : Writer) : canonicalRegs (s.writeReg a v w).1.regs = true := by
  rw [State.writeReg_regs desc v w]
  exact canonicalRegs_setReg s a _ canonical

end Sys2Proof.Machine
end

section
/-! Frames, the die's limits, NTC inputs and the failure of a half (R345, R353, R358, R361, R362), and O36. -/

namespace Sys2Proof.Machine

/-! A frame (R353). -/

/-- The base plate's temperature as a frame brings it. -/
def State.withBase (s : State) (base : Int) : State :=
  { s with sys := { s.sys with baseTemp := base, tempMax := max s.sys.tempMax base, hot := decide (1250 < base) } }

/-- What a frame does with its readings, the clock and the base plate apart. -/
def State.frameWork (s : State) (meas : List ChMeas) (ntc : List (Fin 8 × Nat)) (j : Nat) : State :=
  let s := forEach (fun m s => s.frameMeasured m) meas (forEach (fun p s => s.ntcRead (p.1.val, p.2)) ntc s)
  (forEach (fun c s => s.learnPoints c) (upFrom 0 32) s.dieFrames).frameAt j

theorem State.frameWork_keeps (s : State) (meas : List ChMeas) (ntc : List (Fin 8 × Nat)) (j : Nat) :
    Keeps { drv := true, evt := true, freeIdx := true, regs := true, way := true } s (s.frameWork meas ntc j) := by
  refine State.frameAt_fr j rfl (keeps_forEach _ _ (fun c _ => State.learnPoints_fr c rfl) (State.dieFrames_fr rfl ?_))
  exact keeps_forEach _ _ (fun m _ => State.frameMeasured_fr m rfl)
    (keeps_forEach _ _ (fun (p : Fin 8 × Nat) _ => State.ntcRead_fr (p.1.val, p.2) rfl) (.refl _ s))

/-- A frame of the cycle is counted, and its work leaves the base plate's temperature as the frame brought it. -/
theorem State.pwmFrame_counted {s : State} (within : s.drv.frame < s.drv.k) (awake : s.sys.dorm = none) (meas : List ChMeas)
    (ntc : List (Fin 8 × Nat)) (base : Int) :
    (s.pwmFrame meas ntc (some base)).drv.frame = s.drv.frame + 1
      ∧ (s.pwmFrame meas ntc (some base)).sys = (s.withBase base).sys := by
  have runs : ¬(s.drv.k ≤ s.drv.frame ∨ s.entering = true) := by simp [State.entering, awake, within]
  have work (u : State) : (u.frameWork meas ntc s.drv.frame).sys = u.sys := (u.frameWork_keeps meas ntc s.drv.frame).sys rfl
  unfold State.pwmFrame
  rw [if_neg runs]
  dsimp only
  exact ⟨rfl, work (.withBase (s.advanceTo (s.period * s.drv.frame / (10 * max 1 s.drv.k))) base)⟩

theorem State.pwmFrame_spent {s : State} (spent : s.drv.k ≤ s.drv.frame) (meas : List ChMeas) (ntc : List (Fin 8 × Nat))
    (base : Option Int) : s.pwmFrame meas ntc base = s :=
  if_pos (.inl spent)

theorem exec_pwmFrameStart_live {s : State} (live : s.live = true) (meas : List ChMeas) (ntc : List (Fin 8 × Nat))
    (base : Option Int) : exec (.pwmFrameStart meas ntc base) s = .next (s.pwmFrame meas ntc base) :=
  congrArg Host.Outcome.next (State.whenLive_live live _)

/-! The retry of a confirmed fault (R361). -/

theorem exec_stringRetry_planned {s : State} {c : Fin 32} {r : Cn} (live : s.live = true) (planned : (s.ch c).retryCn = some r) :
    exec (.stringRetry c) s = .next (if r ≤ s.cn && decide ((s.ch c).fault ≠ 0) && !(s.ch c).lasting then
      s.modCh c fun x => { x with retryCn := none, retrying := some 0, dieOff := 0, ocPeriods := 0 } else s) :=
  congrArg Host.Outcome.next <| (State.whenLive_live live _).trans <| by simp only [planned]

/-! The limits of the die (R345). -/

theorem exec_dieOvercurrent_on {s : State} {c : Fin 32} {again : Bool} {n : Nat} (live : s.live = true) (on : s.chOff c = false)
    (count : n = (if again then (s.ch c).ocPeriods + 1 else 1)) :
    exec (.dieOvercurrent c again) s = .next (if n ≥ 8 then (s.hardwareLimit (c / 4)).dieHolds c 3
      else (s.hardwareLimit (c / 4)).modCh c fun x => { x with ocPeriods := n }) :=
  congrArg Host.Outcome.next <| (State.whenLive_live live _).trans <| by
    rw [on, count]
    rfl

theorem exec_dieOvervoltage_on {s : State} {c : Fin 32} (live : s.live = true) (on : s.chOff c = false) :
    exec (.dieOvervoltage c) s = .next ((s.hardwareLimit (c / 4)).dieHolds c 4) :=
  congrArg Host.Outcome.next <| (State.whenLive_live live _).trans <| by
    rw [on]
    rfl

/-! The channels of a half go off. -/

/-- The outputs of a channel are off. -/
def ChSt.Dark (x : ChSt) : Prop :=
  x.amplitude = 0 ∧ x.duty = 0

/-- Every channel of a half is off. -/
theorem State.halfOff_dark (s : State) (h : Nat) : ∀ i < 4, ((s.halfOff h).ch (4 * h + i)).Dark := by
  intro i below
  have listed : i ∈ upFrom 0 4 := (by decide : ∀ i < 4, i ∈ upFrom 0 4) i below
  refine forEach_reaches (Q := fun i (s : State) => (s.ch (4 * h + i)).Dark) ?made ?kept listed s
  case made => exact fun i s => lget_lmod_of_made (fun _ => ⟨rfl, rfl⟩) ⟨rfl, rfl⟩ (.inl rfl)
  case kept => exact fun i j s dark => lget_lmod_of_made (fun _ => ⟨rfl, rfl⟩) ⟨rfl, rfl⟩ (.inr dark)

theorem State.halfOff_gateLow (s : State) (h : Nat) : (s.halfOff h).drv.gateLow = s.drv.gateLow :=
  by
  unfold State.halfOff
  refine forEach_same (g := fun s : State => s.drv.gateLow) ?_ _ s
  exact fun _ _ => rfl

theorem State.halfOff_cop (s : State) (h : Nat) : (s.halfOff h).cop = s.cop :=
  (State.halfOff_fr (bl := { drv := true }) h rfl (.refl _ s)).cop rfl

/-- The gates of a die are held low. -/
def State.gateHeld (s : State) (die : Nat) : State :=
  { s with drv := { s.drv with gateLow := lset die true s.drv.gateLow } }

theorem exec_gateSupplyLow_serving {s : State} {die : Fin 10} {h : Nat} (live : s.live = true) (serves : s.halfOf die = some h) :
    exec (.gateSupplyLow die) s = .next (((s.gateHeld die).hardwareLimit h).halfOff h) :=
  congrArg Host.Outcome.next <| (State.whenLive_live live _).trans <| by
    unfold State.halfOf at serves ⊢
    simp only [serves]
    rfl

theorem exec_gateSupplyRestored_live {s : State} (live : s.live = true) (die : Fin 10) :
    exec (.gateSupplyRestored die) s = .next { s with drv := { s.drv with gateLow := lset die.val false s.drv.gateLow } } :=
  congrArg Host.Outcome.next (State.whenLive_live live _)

/-! NTC inputs (R358). -/

/-- An input is shown SHORT or OPEN. -/
def State.ntcFaulty (s : State) (n : Nat) (short open_ : Bool) : State :=
  { s with drv := { s.drv with ntcShort := lset n short s.drv.ntcShort, ntcOpen := lset n open_ s.drv.ntcOpen } }

theorem exec_ntcFault_within {s : State} {mv : Nat} (live : s.live = true) (n : Fin 8) (within : 50 ≤ mv ∧ mv ≤ 2450) :
    exec (.ntcFault n mv) s = .next s :=
  congrArg Host.Outcome.next <| (State.whenLive_live live _).trans (if_pos within)

/-- A reading out of range shows its fault; what else it does is to post events. -/
theorem exec_ntcFault_outside {s : State} {n : Fin 8} {mv : Nat} {short open_ : Bool} (live : s.live = true)
    (outside : ¬(50 ≤ mv ∧ mv ≤ 2450)) (low : decide (mv < 50) = short) (high : decide (2450 < mv) = open_) :
    ∃ t, exec (.ntcFault n mv) s = .next t ∧ t.drv = (s.ntcFaulty n short open_).drv
      ∧ Keeps { drv := true, evt := true } s t := by
  subst low high
  have next : exec (.ntcFault n mv) s = .next _ :=
    congrArg Host.Outcome.next <| (State.whenLive_live live _).trans (if_neg outside)
  refine ⟨_, next, ?_, execNtcFault_fr n mv next rfl (.refl _ s)⟩
  dsimp only
  split
  · rfl
  · exact forEach_same (g := State.drv) (fun _ _ => State.postTile_drv ..) _ _

/-! A felled unit (R461). -/

theorem State.unit_id (s : State) (id : UnitId) : (s.unit id).id = id := by
  unfold State.unit
  cases held : s.cop.units.find? fun u => decide (u.id = id) with
  | none => rfl
  | some u => exact of_decide_eq_true (p := u.id = id) (List.find?_some (p := fun u : UnitSt => decide (u.id = id)) held)

theorem State.unit_congr {s t : State} (same : t.cop.units = s.cop.units) (id : UnitId) : t.unit id = s.unit id := by
  simp only [State.unit, same]

/-- What is put of a unit is what coppice holds of it. -/
theorem State.unit_putUnit_same (s : State) (u : UnitSt) : (s.putUnit u).unit u.id = u := by
  have replaced (l : List UnitSt) (held : (l.any fun x => decide (x.id = u.id)) = true) :
      (l.map fun x => if x.id = u.id then u else x).find? (fun x => decide (x.id = u.id)) = some u := by
    induction l with
    | nil => cases held
    | cons x l ih =>
      by_cases same : x.id = u.id
      · simp [same]
      · have later : (l.any fun x => decide (x.id = u.id)) = true := by simpa [same] using held
        simpa [same] using ih later
  unfold State.unit State.putUnit
  dsimp only
  split
  case isTrue held => rw [replaced _ held, Option.getD_some]
  case isFalse lacking =>
    have absent : (s.cop.units.find? fun x => decide (x.id = u.id)) = none := by simpa using lacking
    simp [List.find?_append, absent]

theorem State.raiseThin_units_slices (s : State) (kind : Nat) :
    (s.raiseThin kind).cop.units = s.cop.units ∧ (s.raiseThin kind).cop.slices = s.cop.slices := by
  unfold State.raiseThin
  split
  · exact ⟨rfl, rfl⟩
  · have kept := State.postRecord_fr (bl := { evt := true, way := true }) 878 0x49 1 (unitPayload kind 0) .ok rfl
      (.refl _ { s with cop := { s.cop with thin := lset kind true s.cop.thin } })
    rw [kept.cop rfl]
    exact ⟨rfl, rfl⟩

/-- A felled unit is marked so, and no slice changes. -/
theorem State.fell_marks (s : State) (id : UnitId) :
    ((s.fell id).unit id).mark = some .felled ∧ (s.fell id).cop.slices = s.cop.slices := by
  let u : UnitSt := { s.unit id with mark := some .felled, due := none }
  let marked : State := { s.putUnit u with cop := { (s.putUnit u).cop with fellings := bump s.cop.fellings } }
  have held : (marked.unit id).mark = some .felled := by
    rw [State.unit_congr (t := marked) (s := s.putUnit u) rfl, ← s.unit_id id, show (s.unit id).id = u.id from rfl,
      s.unit_putUnit_same u]
  have felled : s.fell id = if marked.freeOf id.stand id.kind = 0 then marked.raiseThin id.kind else marked := rfl
  rw [felled]
  split
  · obtain ⟨units, slices⟩ := marked.raiseThin_units_slices id.kind
    rw [State.unit_congr units]
    exact ⟨held, slices⟩
  · exact ⟨held, rfl⟩

theorem State.fell_drv (s : State) (id : UnitId) : (s.fell id).drv = s.drv :=
  (State.fell_fr (bl := { evt := true, cop := true, way := true }) id rfl (.refl _ s)).drv rfl

/-! The failure of a half (R362, R463). -/

theorem State.cutSlices_idle {s : State} (idle : s.cop.slices = []) (icause : Nat) (p : Slice → Bool) :
    s.cutSlices icause p = s := by
  simp only [State.cutSlices, idle, List.filter_nil, forEach]

theorem State.freeSpare_idle {s : State} (idle : s.cop.slices = []) (die : Nat) : s.freeSpare die = s := by
  simp only [State.freeSpare, idle, List.find?_nil]

theorem exec_halfFailure_live {s : State} (live : s.live = true) (die : Fin 10) :
    exec (.halfFailure die) s = .next (s.halfFails die) :=
  congrArg Host.Outcome.next (State.whenLive_live live _)

theorem State.halfFails_felled {s : State} {die : Nat} (felled : s.unitState (unitOf .a 7 die) = .felled) :
    s.halfFails die = s :=
  if_pos (decide_eq_true felled)

/-- The channels of a half are off, and it waits for its spare. -/
def State.halfLost (s : State) (h : Nat) : State :=
  { (s.halfOff h) with drv := { (s.halfOff h).drv with failed := s.drv.failed ++ [h] } }

theorem State.halfLost_failed (s : State) (h : Nat) : (s.halfLost h).drv.failed = s.drv.failed ++ [h] := rfl

theorem State.halfLost_unit (s : State) (h : Nat) (id : UnitId) : (s.halfLost h).unit id = s.unit id :=
  State.unit_congr (congrArg CopSt.units (s.halfOff_cop h)) id

theorem State.halfLost_dark (s : State) (h : Nat) : ∀ i < 4, ((s.halfLost h).ch (4 * h + i)).Dark :=
  s.halfOff_dark h

/-- While no slice runs, a half that fails is felled and lost. -/
theorem State.halfFails_idle {s : State} {die h : Nat} (sound : s.unitState (unitOf .a 7 die) ≠ .felled)
    (idle : s.cop.slices = []) (serves : s.halfOf die = some h) :
    s.halfFails die = (s.fell (unitOf .a 7 die)).halfLost h := by
  have quiet : (s.fell (unitOf .a 7 die)).cop.slices = [] := (s.fell_marks _).2.trans idle
  unfold State.halfFails
  rw [if_neg (by simpa using sound), State.cutSlices_idle idle]
  simp only [serves, State.freeSpare_idle quiet, ite_self]
  rfl

/-- Settles O36: each clause is the equation of its command and the part of the state it names. That a retry ends what the
die holds off is the model's choice (log 52). -/
theorem stringsAreCutOffAndRetried : Obligations.StringsAreCutOffAndRetried := by
  refine ⟨?frame, ?retry, ?overcurrent, ?overvoltage, ?gateLow, ?gateRestored, ?ntc, ?half⟩
  case frame =>
    intro s meas ntc base live awake
    have next := exec_pwmFrameStart_live live meas ntc (some base)
    refine ⟨fun within => ?_, fun spent => by rw [next, State.pwmFrame_spent spent]⟩
    obtain ⟨counted, sys⟩ := State.pwmFrame_counted within awake meas ntc base
    exact ⟨_, next, counted, sys, execPwmFrameStart_fr meas ntc (some base) next rfl (.refl _ s)⟩
  case retry =>
    intro s c r live planned
    have next := exec_stringRetry_planned live planned
    refine ⟨fun due faulty passing => ?_, fun early => ?_⟩
    · rw [next, if_pos (by rw [decide_eq_true due, decide_eq_true faulty, passing]; rfl)]
    · rw [next, decide_eq_false (Nat.not_le_of_lt early), Bool.false_and, Bool.false_and, if_neg Bool.false_ne_true]
  case overcurrent =>
    intro s c again n live on count
    have next := exec_dieOvercurrent_on live on count
    refine ⟨_, next, fun few => ?_, fun many => ?_, execDieOvercurrent_fr c again next rfl (.refl _ s)⟩
    · rw [if_neg (by omega), State.modCh_drv_congr (s.hardwareLimit_drv _)]
    · rw [if_pos many, State.dieHolds, State.modCh_drv_congr (s.hardwareLimit_drv _)]
  case overvoltage =>
    intro s c live on
    have next := exec_dieOvervoltage_on live on
    exact ⟨_, next, State.modCh_drv_congr (s.hardwareLimit_drv _) _ _, execDieOvervoltage_fr c next rfl (.refl _ s)⟩
  case gateLow =>
    intro s die h live serves
    have next := exec_gateSupplyLow_serving live serves
    exact ⟨_, next, State.halfOff_gateLow .., State.halfOff_dark _ h, execGateSupplyLow_fr die next rfl (.refl _ s)⟩
  case gateRestored => exact fun s die live => exec_gateSupplyRestored_live live die
  case ntc =>
    intro s n mv live
    refine ⟨exec_ntcFault_within live n, fun low => ?_, fun high => ?_⟩
    · exact exec_ntcFault_outside live (by omega) (decide_eq_true low) (decide_eq_false (by omega))
    · exact exec_ntcFault_outside live (by omega) (decide_eq_false (by omega)) (decide_eq_true high)
  case half =>
    intro s die live
    have next := exec_halfFailure_live live die
    refine ⟨fun felled => by rw [next, State.halfFails_felled felled], fun h sound idle serves => ?_⟩
    have kept := execHalfFailure_fr die next rfl (.refl { cop := true, drv := true, evt := true, rad := true, way := true } s)
    rw [State.halfFails_idle sound idle serves] at next kept
    refine ⟨_, next, ?_, ?_, State.halfLost_dark _ h, kept⟩
    · rw [State.halfLost_failed, State.fell_drv]
    · rw [State.halfLost_unit, (s.fell_marks _).1]

end Sys2Proof.Machine
end

section
/-! The commands of a channel and the counters of the block (R357, R361, R378), and O37. -/

namespace Sys2Proof.Machine

/-! A write of DRV_CHs_CMD (Table 9.10). -/

/-- The description of DRV_CHs_CMD (Table 9.10): two actions, and no field that is stored. -/
def chCmdDesc : RegDesc :=
  { name := "DRV_CH_CMD", base := 0x40060138, stride := 0x40, count := 32, act := 3 }

theorem descOf_chCmd : ∀ c : Fin 32, descOf (0x40060138 + 0x40 * c.val) = some chCmdDesc
  | 0 | 1 | 2 | 3 | 4 | 5 | 6 | 7 | 8 | 9 | 10 | 11 | 12 | 13 | 14 | 15 | 16 | 17 | 18 | 19 | 20 | 21 | 22 | 23 | 24 | 25 | 26
  | 27 | 28 | 29 | 30 | 31 => rfl
  | ⟨n + 32, beyond⟩ => absurd beyond (by omega)

theorem chCmd_kept (s : State) (a v : Nat) (w : Writer) :
    chCmdDesc.merged (chCmdDesc.opensTo w s.mtr.sealOpen) (s.reg a) v = s.reg a := by
  simp [RegDesc.merged, chCmdDesc]

/-- An INSTALLER's write takes both actions. -/
theorem chCmd_act {s : State} {w : Writer} (installer : w.role = .installer) (c : Fin 32) (v : Nat) :
    (s.writeReg (0x40060138 + 0x40 * c.val) v w).2.act = masked 3 (v % 4294967296) := by
  rw [State.writeReg_written (descOf_chCmd c), (State.ruled_of_kept (chCmd_kept s _ _ w)).2]
  simp [RegDesc.opensTo, mayLocked, chCmdDesc, installer, masked]

/-- No write of DRV_CHs_CMD changes what a register reads. -/
theorem chCmd_reg {s : State} (canonical : canonicalRegs s.regs = true) (c : Fin 32) (v : Nat) (w : Writer) (b : Nat) :
    (s.writeReg (0x40060138 + 0x40 * c.val) v w).1.reg b = s.reg b := by
  refine State.writeReg_reg_of_kept canonical (descOf_chCmd c) ?_ (chCmd_kept s _ _ w) b
  rw [resetWord_of_desc (descOf_chCmd c), RegDesc.resetAt_of_no_step rfl]
  decide

theorem exec_stringLearn_installer {s : State} {w : Writer} (live : s.live = true) (installer : w.role = .installer)
    (c : Fin 32) : exec (.stringLearn c w) s = .next ((s.writeReg (0x40060138 + 0x40 * c.val) 1 w).1.startLearn c) :=
  congrArg Host.Outcome.next <| (State.whenLive_live live _).trans <| by
    simp only [State.writeChCmd, chCmd_act installer]
    rfl

theorem exec_stringClear_installer {s : State} {w : Writer} (live : s.live = true) (installer : w.role = .installer)
    (c : Fin 32) : exec (.stringClear c w) s = .next ((s.writeReg (0x40060138 + 0x40 * c.val) 2 w).1.clearString c) :=
  congrArg Host.Outcome.next <| (State.whenLive_live live _).trans <| by
    simp only [State.writeChCmd, chCmd_act installer]
    rfl

/-! LEARN (R357). -/

/-- A learning run of a channel begins. -/
def ChSt.learning (x : ChSt) (cn : Cn) : ChSt :=
  { x with
    learn := some { start := cn }, learned := false, lasting := false, fault := 0, retryCn := none, retrying := none
    dieOff := 0, run := [0, 0, 0, 0, 0], ledM := 0 }

theorem State.startLearn_barred {s : State} {c : Nat} (barred : s.learnBarred c = true) :
    s.startLearn c = s.modCh c fun x => { x with cmdRefused := true } :=
  if_pos barred

@[simp] theorem State.setReg_modCh_drv (s : State) (a v c : Nat) (f : ChSt → ChSt) :
    ((s.setReg a v).modCh c f).drv = (s.modCh c f).drv := rfl

theorem State.startLearn_free {s : State} {c : Nat} (free : s.learnBarred c = false) :
    s.startLearn c = (s.setReg (0x40060128 + 0x40 * c) (twos 16 (s.chTemp c))).modCh c fun x => x.learning s.cn :=
  if_neg (by rw [free]; decide)

/-- Events, records and a register word that reads as before bear on neither what bars a LEARN nor a temperature. -/
theorem State.learnBarred_chTemp_congr {s t : State} (kept : Keeps { evt := true, regs := true, way := true } s t)
    (reads : ∀ b, t.reg b = s.reg b) (c : Nat) : t.learnBarred c = s.learnBarred c ∧ t.chTemp c = s.chTemp c := by
  simp only [State.learnBarred, State.chTemp, State.lum, State.chLum, State.chReg, State.fallback, State.safeSituation,
    State.tampered, reads, kept.drv rfl, kept.sys rfl, kept.ford rfl, kept.key rfl]
  exact ⟨rfl, rfl⟩

/-- The temperature of a LEARN is recorded in DRV_CHs_VREF_T. -/
theorem State.startLearn_reg {s : State} {c : Nat} (canonical : canonicalRegs s.regs = true) (free : s.learnBarred c = false) :
    (s.startLearn c).reg (0x40060128 + 0x40 * c) = twos 16 (s.chTemp c) := by
  have small : twos 16 (s.chTemp c) < 4294967296 := Nat.lt_trans (twos_lt 16 _) (by decide)
  rw [State.startLearn_free free]
  exact ((State.setReg_regsWith canonical _ _).1).trans (Nat.mod_eq_of_lt small)

/-! The end of a learning run (R357). -/

/-- With its four points recorded a learning run records no more. -/
theorem State.learnPoints_complete {s : State} {c : Nat} {n : Learn} (running : (s.ch c).learn = some n)
    (late : n.start + 200 ≤ s.cn) (complete : n.point = 4) :
    s.learnPoints c = s.modCh c fun x => { x with learn := some n } := by
  obtain ⟨start, point⟩ := n
  subst complete
  have due : min 4 ((s.cn - start) / 50) = 4 :=
    Nat.min_eq_left ((Nat.le_div_iff_mul_le (by decide)).2 (Nat.le_sub_of_add_le' late))
  simp only [State.learnPoints, running, due]
  rfl

theorem exec_stringLearnDone_running {s : State} {c : Fin 32} {n : Learn} (live : s.live = true)
    (running : (s.ch c).learn = some n) :
    exec (.stringLearnDone c) s = .next (if n.start + 200 ≤ s.cn then
      (s.learnPoints c).modCh c fun x => { x with learn := none, learned := true } else s) :=
  congrArg Host.Outcome.next <| (State.whenLive_live live _).trans <| by simp only [running]

/-! A write of DRV_CTRL (R378). -/

/-- The description of DRV_CTRL (Table 9.10): EN, and CNT_CLR for anyone. -/
def drvCtrlDesc : RegDesc :=
  { name := "DRV_CTRL", base := 0x40060000, rw := 1, wo := 2 }

theorem descOf_drvCtrl : descOf 0x40060000 = some drvCtrlDesc := rfl

/-- CNT_CLR takes effect whoever writes it. -/
theorem drvCtrl_clears {s : State} {v : Nat} {w : Writer} (word : v < 4294967296) (asked : bit 1 v = true) :
    bit 1 (s.writeReg 0x40060000 v w).2.act = true := by
  have act := (State.ruled_of_inRanges (s := s) (d := drvCtrlDesc) (a := 0x40060000) (v := v) (w := w) rfl
    (by simp [inRanges, regOk, drvCtrlDesc])).2
  rw [State.writeReg_written descOf_drvCtrl, act]
  have masking : Nat.testBit 2 1 = true := by decide
  simpa [drvCtrlDesc, masked, bit, Nat.mod_eq_of_lt word, Nat.testBit_and, masking] using asked

/-- The counters of the block at zero. -/
def DrvSt.cleared (d : DrvSt) : DrvSt :=
  { d with evacuations := 0, sensors := d.sensors.map fun x => { x with windows := 0 } }

theorem exec_drvCntClr_live {s : State} (live : s.live = true) (value : Word) (w : Writer) :
    exec (.drvCntClr value w) s = .next (s.writeDrvCtrl value.toNat w).1 :=
  congrArg Host.Outcome.next (State.whenLive_live live _)

theorem State.writeDrvCtrl_drv {s : State} {v : Nat} {w : Writer} (word : v < 4294967296) (asked : bit 1 v = true) :
    (s.writeDrvCtrl v w).1.drv = s.drv.cleared := by
  have written : (s.writeReg 0x40060000 v w).1.drv = s.drv := (s.writeReg_keeps _ v w).drv rfl
  simp only [State.writeDrvCtrl, drvCtrl_clears word asked, if_true, written]
  rfl

/-- Settles O37: the write of each command takes its action and changes no register's reading, and the action is a change of the
channel. That a LEARN clears LEARNED at its start is the model's choice (log 54). -/
theorem stringsAreLearnedAndCleared : Obligations.StringsAreLearnedAndCleared := by
  refine ⟨?learn, ?done, ?clear, ?counters⟩
  case learn =>
    intro s c w live installer canonical
    have written := s.writeReg_keeps (0x40060138 + 0x40 * c.val) 1 w
    have stored := State.writeReg_canonical canonical (descOf_chCmd c) 1 w
    obtain ⟨bars, temp⟩ := State.learnBarred_chTemp_congr written (chCmd_reg canonical c 1 w) c
    have next := exec_stringLearn_installer live installer c
    have kept := execStringLearn_fr c w next rfl (.refl { drv := true, evt := true, regs := true, way := true } s)
    refine ⟨fun free => ?_, fun barred => ?_⟩
    · refine ⟨_, next, ?_, ?_, kept⟩
      · rw [State.startLearn_free (bars.trans free), State.setReg_modCh_drv, written.cn rfl,
          State.modCh_drv_congr (written.drv rfl)]
        rfl
      · rw [State.startLearn_reg stored (bars.trans free), temp]
    · refine ⟨_, next, ?_, kept⟩
      rw [State.startLearn_barred (bars.trans barred), State.modCh_drv_congr (written.drv rfl)]
  case done =>
    intro s c n live running
    have next := exec_stringLearnDone_running live running
    refine ⟨fun late complete => ?_, fun early => ?_⟩
    · rw [next, if_pos late, State.learnPoints_complete running late complete, State.modCh_modCh]
      exact fun _ => rfl
    · rw [next, if_neg (Nat.not_le_of_lt early)]
  case clear =>
    intro s c w live canonical installer
    have next := exec_stringClear_installer live installer c
    have written := s.writeReg_keeps (0x40060138 + 0x40 * c.val) 2 w
    have same := State.ch_congr (written.drv rfl) c.val
    refine ⟨_, next, fun lasting => ?_, fun passing => ?_, execStringClear_fr c w next rfl (.refl _ s)⟩
    · rw [State.clearString, same, if_pos lasting, State.modCh_drv_congr (written.drv rfl)]
    · rw [State.clearString, same, passing, if_neg (by decide), written.drv rfl]
  case counters =>
    intro s value w live canonical asked
    have next := exec_drvCntClr_live live value w
    exact ⟨_, next, State.writeDrvCtrl_drv value.isLt asked, execDrvCntClr_fr value w next rfl (.refl _ s)⟩

end Sys2Proof.Machine
end

section
/-! Evacuations (R374, R375), and O39. -/

namespace Sys2Proof.Machine

/-! An edge of INC_IN (R374). -/

/-- The pin shows the level of its edge. -/
def State.withIncIn (s : State) (rising : Bool) : State :=
  { s with fld := { s.fld with incIn := rising } }

theorem exec_incInEdge_live {s : State} (live : s.live = true) (rising : Bool) (tick : Nat) (sub : Fin 10) :
    exec (.incInEdge rising tick sub) s
      = .next ((((s.advanceTo tick).withIncIn rising).capture 2 rising sub.val).post 856 1 0) :=
  congrArg Host.Outcome.next (State.whenLive_live live _)

theorem State.capture_fld (s : State) (c : Fin 7) (rising : Bool) (sub : Nat) : (s.capture c rising sub).fld = s.fld :=
  (State.capture_fr (bl := { evt := true, time := true }) c rising sub rfl (.refl _ s)).fld rfl

/-! The start (R374). -/

/-- The engine that DRV_INC_CTRL names. -/
def State.evacPe (s : State) : Nat :=
  field 6 4 (s.reg 0x40060014)

/-- The run of an evacuation from the frame it starts with. -/
def State.evacRun (s : State) : PeRun :=
  { evac := true, startCn := (s.evacFrame s.evacPe).1, startFrame := (s.evacFrame s.evacPe).2, fresh := true }

/-- An evacuation has started, and is counted. -/
def State.evacCounted (s : State) : State :=
  { s with drv := { s.drv with started := true, evacuations := satAdd 65535 s.drv.evacuations 1 } }

theorem exec_evacStart_starts {s : State} (live : s.live = true) (enabled : bit 0 (s.reg 0x40060014) = true)
    (active : s.incActive = true) (noneRuns : s.drv.engines.any PeSt.evac = false) :
    exec .evacStart s
      = .next (((s.startPe s.evacPe s.evacRun).evacCounted.postTile .pattern s.evacPe 8 1 0).recordEvac s.evacPe 1) :=
  congrArg Host.Outcome.next <| (State.whenLive_live live _).trans <| if_pos (by rw [enabled, active, noneRuns]; rfl)

theorem exec_evacStart_runs {s : State} (live : s.live = true) (runs : s.drv.engines.any PeSt.evac = true) :
    exec .evacStart s = .next s :=
  congrArg Host.Outcome.next <| (State.whenLive_live live _).trans <| if_neg (by simp [runs])

theorem State.pe_congr {s t : State} (same : t.drv = s.drv) (p : Nat) : t.pe p = s.pe p := by
  simp only [State.pe, same]

theorem State.pe_modPe_same {s : State} {p : Nat} (within : p < s.drv.engines.length) (f : PeSt → PeSt) :
    (s.modPe p f).pe p = f (s.pe p) :=
  lget_lmod_same ({} : PeSt) f within

theorem State.evacCounted_startPe_drv (s : State) (p : Nat) (r : PeRun) :
    (s.startPe p r).evacCounted.drv = ((s.modPe p fun e => { e with run := some r, pending := false }).evacCounted).drv := by
  simp only [State.evacCounted, State.startPe_drv]

/-! The end (R375). -/

/-- An evacuation that ends takes its engine's run with it. -/
theorem State.endEvac_drv {s : State} {p : Nat} (runs : s.evacEngine = some p) :
    s.endEvac.drv = (s.modPe p fun e => { e with run := none, pending := false }).drv := by
  simp only [State.endEvac, runs, State.recordEvac_drv, State.postTile_drv, State.endPe_drv]

theorem exec_evacEnd_live {s : State} (live : s.live = true) :
    exec .evacEnd s = .next (if s.incActive || bit 2 (s.reg 0x40060014) then s else s.endEvac) :=
  congrArg Host.Outcome.next (State.whenLive_live live _)

theorem State.evacEngine_congr {s t : State} (same : t.drv = s.drv) : t.evacEngine = s.evacEngine := by
  simp only [State.evacEngine, same]

/-! RELEASE (R375). -/

/-- The description of DRV_INC_CTRL (Table 9.10). -/
def incCtrlDesc : RegDesc :=
  { name := "DRV_INC_CTRL", base := 0x40060014, reset := 0x3E80000, rwl := 0x3FFF0077, act := 0x100
    ranges := [(16, 29, 100, 10000)] }

theorem descOf_incCtrl : descOf 0x40060014 = some incCtrlDesc := rfl

/-- The word that RELEASE writes. -/
def State.releaseWord (s : State) : Nat :=
  s.reg 0x40060014 ||| 0x100

theorem State.releaseWord_mod (s : State) : s.releaseWord % 4294967296 = s.releaseWord :=
  Nat.mod_eq_of_lt (Nat.or_lt_two_pow (n := 32) (s.reg_lt (by decide)) (by decide))

theorem merge_or_of_apart {m b : Nat} (apart : m &&& b = 0) (old : Nat) : merge m old (old ||| b) = old := by
  refine Nat.eq_of_testBit_eq fun i => ?_
  have outside : (m.testBit i && b.testBit i) = false := by rw [← Nat.testBit_and, apart, Nat.zero_testBit]
  rw [merge_testBit, Nat.testBit_or]
  split
  case isTrue covered => rw [covered, Bool.true_and] at outside; rw [outside, Bool.or_false]
  case isFalse => rfl

/-- RELEASE writes the fields of DRV_INC_CTRL back as they are. -/
theorem incCtrl_kept (s : State) (w : Writer) :
    incCtrlDesc.merged (incCtrlDesc.opensTo w s.mtr.sealOpen) (s.reg 0x40060014) (s.releaseWord % 4294967296)
      = s.reg 0x40060014 := by
  have fields : merge 0x3FFF0077 (s.reg 0x40060014) s.releaseWord = s.reg 0x40060014 := merge_or_of_apart (by decide) _
  rw [s.releaseWord_mod]
  simp [RegDesc.merged, incCtrlDesc, fields]

/-- An INSTALLER's RELEASE takes effect. -/
theorem incCtrl_act {s : State} {w : Writer} (installer : w.role = .installer) :
    bit 8 (s.writeReg 0x40060014 s.releaseWord w).2.act = true := by
  have asked : s.releaseWord.testBit 8 = true := by
    have release : Nat.testBit 0x100 8 = true := by decide
    rw [State.releaseWord, Nat.testBit_or, release, Bool.or_true]
  have masking : Nat.testBit 256 8 = true := by decide
  rw [State.writeReg_written descOf_incCtrl, (State.ruled_of_kept (incCtrl_kept s w)).2, s.releaseWord_mod]
  simp [RegDesc.opensTo, mayLocked, incCtrlDesc, installer, masked, bit, Nat.testBit_and, asked, masking]

/-- An INSTALLER's RELEASE of a latched evacuation ends it while INC_IN is inactive. -/
theorem State.writeIncCtrl_release {s : State} {w : Writer} (installer : w.role = .installer)
    (canonical : canonicalRegs s.regs = true) (inactive : s.incActive = false) (latched : bit 2 (s.reg 0x40060014) = true) :
    (s.writeIncCtrl s.releaseWord w).1 = (s.writeReg 0x40060014 s.releaseWord w).1.endEvac := by
  have reads := State.writeReg_reg_of_kept canonical descOf_incCtrl (by decide) (incCtrl_kept s w)
  have still : (s.writeReg 0x40060014 s.releaseWord w).1.incActive = false := by
    rw [← inactive]
    simp only [State.incActive, reads, (s.writeReg_keeps 0x40060014 s.releaseWord w).fld rfl]
  simp only [State.writeIncCtrl, incCtrl_act installer, reads, latched, still, Bool.not_false, Bool.and_self, if_true]

theorem exec_evacRelease_live {s : State} (live : s.live = true) (w : Writer) :
    exec (.evacRelease w) s = .next (s.writeIncCtrl s.releaseWord w).1 :=
  congrArg Host.Outcome.next (State.whenLive_live live _)

/-- Settles O39: each clause is the equation of its command. That the run ends at EVAC_END itself and at the write of RELEASE is
the model's choice (log 58). -/
theorem evacuationsStartAndEnd : Obligations.EvacuationsStartAndEnd := by
  refine ⟨?edge, ?start, ?finish⟩
  case edge =>
    intro s rising tick sub live
    have next := exec_incInEdge_live live rising tick sub
    refine ⟨_, next, ?_, execIncInEdge_fr rising tick sub next rfl (.refl _ s)⟩
    rw [State.post_fld, State.capture_fld]
    rfl
  case start =>
    intro s live enabled active
    refine ⟨fun noneRuns within => ?_, fun runs => exec_evacStart_runs live runs⟩
    have next := exec_evacStart_starts live enabled active noneRuns
    let started : State := (s.modPe s.evacPe fun e => { e with run := some s.evacRun, pending := false }).evacCounted
    have drv : (((s.startPe s.evacPe s.evacRun).evacCounted.postTile .pattern s.evacPe 8 1 0).recordEvac s.evacPe 1).drv
        = started.drv := by
      rw [State.recordEvac_drv, State.postTile_drv, State.evacCounted_startPe_drv]
    have running : (started.pe s.evacPe).run = some s.evacRun := congrArg PeSt.run (State.pe_modPe_same within _)
    refine ⟨_, s.evacRun, next, ?_, rfl, rfl, ?_⟩
    · exact (congrArg PeSt.run (State.pe_congr drv _)).trans running
    · rw [drv]
      exact ⟨rfl, rfl, rfl, rfl, execEvacStart_fr next rfl (.refl _ s)⟩
  case finish =>
    intro s p live runs
    have next := exec_evacEnd_live live
    refine ⟨fun inactive unlatched => ?_, fun held => ?_, fun w installer canonical inactive latched => ?_⟩
    · rw [if_neg (by simp [inactive, unlatched])] at next
      exact ⟨_, next, State.endEvac_drv runs, execEvacEnd_fr next rfl (.refl _ s)⟩
    · rw [next, if_pos (by simpa using held)]
    · have next := exec_evacRelease_live live w
      have written := (s.writeReg_keeps 0x40060014 s.releaseWord w).drv rfl
      refine ⟨_, next, ?_, execEvacRelease_fr w next rfl (.refl _ s)⟩
      rw [State.writeIncCtrl_release installer canonical inactive latched,
        State.endEvac_drv ((State.evacEngine_congr written).trans runs), State.modPe_drv_congr written]

end Sys2Proof.Machine
end

section
/-! The clearings of an activation (R394, R395, R397), the segment digest (R402), and O40. -/

namespace Sys2Proof.Machine

/-! A clearing is fixed (R394, R395). -/

/-- A clearing stands, fixed. -/
def State.withClearing (s : State) (k : Clearing) : State :=
  { s with can := { s.can with clearing := some k } }

theorem State.withClearing_keeps (s : State) (k : Clearing) : Keeps { can := true } s (s.withClearing k) := rfl

theorem State.journalEntry_can (s : State) (op phase stand flagBits mseq data0 data1 : Nat) (digest : BitVec 256) :
    (s.journalEntry op phase stand flagBits mseq data0 data1 digest).can = s.can :=
  (State.journalEntry_fr (bl := { evt := true, upd := true, way := true }) op phase stand flagBits mseq data0 data1 digest rfl
    (.refl _ s)).can rfl

/-- The journal entry of a fixed clearing, while a drover activation runs: the regions to clear, and the phase as it is. -/
def State.journalClearing (s : State) (a : CanActivation) : State :=
  match s.upd.activation with
  | some x => s.journalEntry 2 s.upd.phase s.journalStand x.flagBits x.seq (regionMask a.all)
      (s.upd.settingsWord s.upd.format s.upd.area) x.digest
  | none => s

theorem State.journalClearing_can (s : State) (a : CanActivation) : (s.journalClearing a).can = s.can := by
  unfold State.journalClearing
  split
  case h_1 => exact State.journalEntry_can s _ _ _ _ _ _ _ _
  case h_2 => rfl

theorem State.journalClearing_idle {s : State} (idle : s.upd.activation = none) (a : CanActivation) :
    s.journalClearing a = s := by
  simp only [State.journalClearing, idle]

/-- CLEARING_FIX with a region to clear and no clearing fixed: what the search for its start finds decides. -/
theorem State.fixClearing_next {s : State} {a : CanActivation} {r : Nat} {rest : List Nat}
    (runs : s.can.activation = some a) (regions : a.regions = r :: rest) (free : s.can.clearing = none) :
    s.fixClearing = (s.earliestStart r clearingSearch (max a.cn (s.cn + 1))).elim s fun c =>
      (s.withClearing { region := r, c := c, len := s.can.clearLength r }).journalClearing a := by
  simp only [State.fixClearing, State.withClearing, runs, regions, free]
  cases s.earliestStart r clearingSearch (max a.cn (s.cn + 1)) <;> rfl

theorem exec_clearingFix_live {s : State} (live : s.live = true) : exec .clearingFix s = .next s.fixClearing :=
  congrArg Host.Outcome.next (State.whenLive_live live _)

/-! A clearing ends (R397). -/

theorem State.reloadSlot_clearing (x : TileRec) (s : State) : (s.reloadSlot x).can.clearing = s.can.clearing := by
  unfold State.reloadSlot
  split <;> rfl

/-- The new image's records of a region. -/
def CanActivation.recordsOf (a : CanActivation) (region : Nat) : List ImgRec :=
  a.image.records.filter fun r => decide (r.region = region)

/-- The new image's tiles of a region. -/
def CanActivation.tilesOf (a : CanActivation) (region : Nat) : List TileRec :=
  ((a.recordsOf region).filter fun r => r.isType 2).map ImgRec.tile

/-- The clearing is gone: the image in force takes the region's records, and its sources are heard again. -/
def State.regionOpened (s : State) (k : Clearing) (a : CanActivation) : State :=
  { s with
    can := { s.can with clearing := none, image := s.can.image.map fun im => im.withRegion a.image k.region }
    evt := { s.evt with suppressed := s.evt.suppressed.filter fun n => !(s.can.sourcesOf k.region).contains n } }

/-- The slots of an opened region run their new templates. -/
def State.regionReloaded (s : State) (k : Clearing) (a : CanActivation) : State :=
  forEach (fun x s => s.reloadSlot x) (a.tilesOf k.region) (s.regionOpened k a)

theorem State.regionReloaded_clearing (s : State) (k : Clearing) (a : CanActivation) :
    (s.regionReloaded k a).can.clearing = none :=
  forEach_same (g := fun s : State => s.can.clearing) State.reloadSlot_clearing _ _

/-- The blocks, presets, meters and routes of a reloaded region with the sources it had before, and the clearing's record. -/
def State.regionServed (s : State) (k : Clearing) (a : CanActivation) (sources : List Nat) : State :=
  let s := (s.writeBlocks a.image (a.tilesOf k.region)).writePresets ((a.recordsOf k.region).filter fun r => r.isType 5)
  let s := s.iff (!s.mtr.running && s.can.regionHas k.region [.meterPipe, .meterAcc]) State.restartMeter
  ((s.dropRoutes fun n => sources.contains n).addRoutes ((a.recordsOf k.region).filter fun r => r.isType 4)).recordCleared k

/-- To serve a reloaded region changes nothing of the canopy's own block. -/
theorem State.regionServed_can (s : State) (k : Clearing) (a : CanActivation) (sources : List Nat) :
    (s.regionServed k a sources).can = s.can := by
  let touched : Blocks :=
    { time := true, mtr := true, rad := true, drv := true, evt := true, way := true, mon := true, fld := true, regs := true
      freeIdx := true }
  have kept : Keeps touched s (s.regionServed k a sources) := by
    refine State.recordCleared_fr k rfl (State.addRoutes_fr _ rfl (State.dropRoutes_fr _ rfl (keeps_iff _ _ ?_ ?_)))
    · exact State.writePresets_fr _ rfl (State.writeBlocks_fr _ _ rfl (.refl _ s))
    · exact fun _ => State.restartMeter_fr rfl
  exact kept.can rfl

/-- CLEARING_END after the clearing's length, with a region still to clear. -/
theorem State.endClearing_due {s : State} {k : Clearing} {a : CanActivation} {r q : Nat} {rest : List Nat}
    (clears : s.can.clearing = some k) (runs : s.can.activation = some a) (regions : a.regions = r :: q :: rest)
    (started : k.started = true) (due : k.c + k.len ≤ s.cn) :
    s.endClearing =
      let t := (s.regionReloaded k a).regionServed k a (s.can.sourcesOf k.region)
      { t with can := { t.can with activation := some { a with regions := q :: rest } } } := by
  simp only [State.endClearing, State.regionReloaded, State.regionOpened, clears, runs, regions, started,
    Nat.not_lt_of_le due]
  rfl

theorem State.endClearing_early {s : State} {k : Clearing} {a : CanActivation} (clears : s.can.clearing = some k)
    (runs : s.can.activation = some a) (early : s.cn < k.c + k.len) : s.endClearing = s := by
  simp only [State.endClearing, clears, runs, early, decide_true, Bool.or_true, if_true]

theorem exec_clearingEnd_live {s : State} (live : s.live = true) : exec .clearingEnd s = .next s.endClearing :=
  congrArg Host.Outcome.next (State.whenLive_live live _)

/-- Settles O40: CLEARING_FIX acts on what the search for a start finds, CLEARING_END on whether the length has passed. That the
search looks 4096 cycles ahead, and that no clearing is fixed where it finds none, is the model's choice (log 86). -/
theorem clearingsAreFixedAndEnd : Obligations.ClearingsAreFixedAndEnd := by
  refine ⟨?fix, ?finish, ?digest⟩
  case fix =>
    intro s a r rest live runs regions free
    have next := exec_clearingFix_live live
    have fixed := State.fixClearing_next runs regions free
    refine ⟨fun c found => ?_, fun nowhere => ?_⟩
    · rw [found, Option.elim_some] at fixed
      refine ⟨_, next, ?_, fun idle => ?_, execClearingFix_fr next rfl (.refl _ s)⟩
      · rw [fixed, State.journalClearing_can]
        rfl
      · rw [fixed, State.journalClearing_idle (s := s.withClearing _) idle]
        exact s.withClearing_keeps _
    · rw [next, fixed, nowhere, Option.elim_none]
  case finish =>
    intro s k a r q rest live clears runs regions started
    have next := exec_clearingEnd_live live
    refine ⟨fun due => ?_, fun early => ?_⟩
    · let touched : Blocks :=
        { can := true, drv := true, evt := true, fld := true, freeIdx := true, fsp := true, key := true, mon := true
          mtr := true, node := true, rad := true, regs := true, time := true, upd := true, way := true }
      have kept := execClearingEnd_fr (bl := touched) next rfl (.refl _ s)
      have ended := State.endClearing_due clears runs regions started due
      refine ⟨_, next, ?_, ?_, kept.cn rfl, kept⟩
      · rw [ended]
        exact (congrArg CanSt.clearing (State.regionServed_can _ k a _)).trans (s.regionReloaded_clearing k a)
      · rw [ended]
    · rw [next, State.endClearing_early clears runs early]
  case digest =>
    intro s live
    exact congrArg Host.Outcome.next (State.whenLive_live live _)

end Sys2Proof.Machine
end

section
/-! Hardware queues: pushes, reads and the writes of their registers (R404 to R409, R428), and O9. -/

namespace Sys2Proof.Machine

/-! A queue among the others. -/

@[simp] theorem State.queue_setQueue_ne (s : State) {q p : Nat} (other : p ≠ q) (c : QueueSt) :
    (s.setQueue q c).queue p = s.queue p :=
  tget_tput_ne q p c _ other

theorem State.queue_congr {s t : State} (same : t.que = s.que) (q : Nat) : t.queue q = s.queue q := by
  simp only [State.queue, same]

/-- A queue's event, where one is posted, leaves the QUE block alone. -/
@[simp] theorem State.iff_postQueue_que (s : State) (posted : Bool) (q kind : Nat) :
    (s.iff posted fun x => x.postQueue q kind).que = s.que := by
  cases posted
  · rfl
  · exact s.postQueue_que q kind

/-- The watermarks move at most ABOVE of their queue (R410). -/
theorem State.watermark_que {s : State} {q : Nat} {c : QueueSt} (used : s.queue q = some c) :
    (s.watermark q).que = s.que ∨ ∃ above, (s.watermark q).que = (s.setQueue q { c with above := above }).que := by
  simp only [State.watermark, used]
  split
  case isTrue => exact .inr ⟨true, State.postQueue_que ..⟩
  case isFalse =>
    split
    · exact .inr ⟨false, State.postQueue_que ..⟩
    · exact .inl rfl

/-- After its watermarks are compared a queue is what it was, but for ABOVE; no other queue moves, and no count of poison. -/
theorem State.watermark_used {s : State} {q : Nat} {c : QueueSt} (used : s.queue q = some c) :
    (∃ above, (s.watermark q).queue q = some { c with above := above })
      ∧ (∀ p, p ≠ q → (s.watermark q).queue p = s.queue p) ∧ (s.watermark q).que.poison = s.que.poison := by
  rcases State.watermark_que used with same | ⟨above, moved⟩
  · exact ⟨⟨c.above, (State.queue_congr same q).trans used⟩, fun p _ => State.queue_congr same p,
      congrArg QueSt.poison same⟩
  · exact ⟨⟨above, (State.queue_congr moved q).trans (State.queue_setQueue_same ..)⟩,
      fun p other => (State.queue_congr moved p).trans (State.queue_setQueue_ne _ other _), (congrArg QueSt.poison moved :)⟩

/-! QUEUE_PUSH (R406, R407). -/

/-- A queue with a word more at its tail. -/
def QueueSt.push (c : QueueSt) (w : QWord) : QueueSt :=
  { c with words := c.words ++ [w], peak := max c.peak (c.words.length + 1) }

theorem State.pushWord_room {s : State} {q : Nat} {c : QueueSt} (used : s.queue q = some c)
    (room : c.words.length < c.depth) (w : QWord) : s.pushWord q w = (s.setQueue q (c.push w)).watermark q := by
  simp only [State.pushWord, used, room, if_true]
  rfl

theorem State.pushWord_full {s : State} {q : Nat} {c : QueueSt} (used : s.queue q = some c)
    (full : c.depth ≤ c.words.length) (w : QWord) :
    (s.pushWord q w).que = (s.setQueue q { c with overrun := true, ovrCount := bump c.ovrCount }).que := by
  simp only [State.pushWord, used, Nat.not_lt_of_le full, if_false, State.iff_postQueue_que]

theorem exec_queuePush_live {s : State} (live : s.live = true) (q : Fin 128) (data : BitVec 64) (parity : Bool) :
    exec (.queuePush q data parity) s = .next (s.pushWord q.val { data := data.toNat, parity := parity }) :=
  congrArg Host.Outcome.next (State.whenLive_live live _)

/-! QUEUE_READ (R405, R408, R409). -/

theorem State.readWord'_sound {s : State} {q : Nat} {c : QueueSt} {w : QWord} {r : List QWord} (used : s.queue q = some c)
    (holds : c.words = w :: r) (sound : w.parity = parity64 64 w.data) :
    s.readWord' q false false = (s.setQueue q c.pop).watermark q := by
  simp [State.readWord', used, holds, sound]

/-- A word was read poisoned: it has left its queue and is counted. -/
def State.poisonCounted (s : State) (q : Nat) (c : QueueSt) : State :=
  ({ s with que := { s.que with poison := bump s.que.poison } }).setQueue q { c.pop with poisoned := true }

/-- What follows a poisoned word: the queue's event, its watermarks, and the felling of the row it lay in. -/
def State.poisonRead (s : State) (q : Nat) (c : QueueSt) : State :=
  (((s.poisonCounted q c).postQueue q 4).watermark q).fellRow q (s.headRow q)

theorem State.readWord'_poisoned {s : State} {q : Nat} {c : QueueSt} {w : QWord} {r : List QWord} (used : s.queue q = some c)
    (holds : c.words = w :: r) (sound : w.parity = parity64 64 w.data) : s.readWord' q true true = s.poisonRead q c := by
  simp [State.readWord', used, holds, sound, State.poisonRead, State.poisonCounted]

@[simp] theorem State.raiseThin_que (s : State) (kind : Nat) : (s.raiseThin kind).que = s.que :=
  (State.raiseThin_fr (bl := { cop := true, evt := true, way := true }) kind rfl (.refl _ s)).que rfl

@[simp] theorem State.record_que (s : State) (source id : Nat) (reason : Reason) (payload : List Byte) :
    (s.record source id reason payload).que = s.que :=
  (State.record_fr (bl := { evt := true, way := true }) source id reason payload rfl (.refl _ s)).que rfl

/-- A felled row is no queue's words and no count of poison. -/
theorem State.fellRow_queues_poison (s : State) (q row : Nat) :
    (s.fellRow q row).que.queues = s.que.queues ∧ (s.fellRow q row).que.poison = s.que.poison := by
  unfold State.fellRow
  split
  case isTrue => dsimp only; split <;> simp
  case isFalse => exact ⟨rfl, rfl⟩

/-- A poisoned read leaves the rest of the queue, POISONED, and counts: neither the watermarks nor a felled row change that. -/
theorem State.poisonRead_queue (s : State) (q : Nat) (c : QueueSt) :
    (∃ above, (s.poisonRead q c).queue q = some { c.pop with poisoned := true, above := above })
      ∧ (s.poisonRead q c).que.poison = bump s.que.poison := by
  obtain ⟨⟨above, held⟩, -, counted⟩ := State.watermark_used (s := (s.poisonCounted q c).postQueue q 4) (q := q)
    (State.queue_postQueue .. |>.trans (State.queue_setQueue_same ..))
  obtain ⟨queues, poison⟩ := (((s.poisonCounted q c).postQueue q 4).watermark q).fellRow_queues_poison q (s.headRow q)
  refine ⟨⟨above, ?_⟩, ?_⟩
  · exact (congrArg (tget q) queues).trans held
  · rw [State.poisonRead, poison, counted, State.postQueue_que]
    rfl

theorem exec_queueRead_live {s : State} (live : s.live = true) (q : Fin 128) (disturb1 disturb2 : Bool) :
    exec (.queueRead q disturb1 disturb2) s = .next (s.readWord' q.val disturb1 disturb2) :=
  congrArg Host.Outcome.next (State.whenLive_live live _)

/-! Writes of the QUE registers (R428). -/

/-- An action bit that anyone may write is taken by every write that sets it (R16). -/
theorem State.writeReg_takes {s : State} {a v i : Nat} {d : RegDesc} {w : Writer} (desc : descOf a = some d)
    (word : v < 4294967296) (free : ∀ new, (inRanges d new && regOk s a new) = true) (writable : bit i d.wo = true)
    (asked : bit i v = true) : bit i (s.writeReg a v w).2.act = true := by
  have act := (State.ruled_of_inRanges (s := s) (d := d) (a := a) (v := v) (w := w) rfl (free _)).2
  have taken : bit i (masked d.wo (v % 4294967296)) = true := by
    simpa [bit, masked, Nat.testBit_and, Nat.mod_eq_of_lt word] using ⟨asked, writable⟩
  rw [State.writeReg_written desc, act]
  simpa [bit, Nat.testBit_or] using Or.inl taken

/-- The description of QUE_CTRL (Table 11.9). -/
def queCtrlDesc : RegDesc :=
  { name := "QUE_CTRL", base := 0x40040000, wo := 2 }

theorem descOf_queCtrl : descOf 0x40040000 = some queCtrlDesc := rfl

theorem State.writeQueCtrl_clears {s : State} {v : Nat} (word : v < 4294967296) (asked : bit 1 v = true) (w : Writer) :
    (s.writeQueCtrl v w).1.que = s.que.clearCounts := by
  have written : (s.writeReg 0x40040000 v w).1.que = s.que := (s.writeReg_keeps _ v w).que rfl
  have takes : bit 1 (s.writeReg 0x40040000 v w).2.act = true :=
    State.writeReg_takes descOf_queCtrl word (fun new => by simp [inRanges, regOk, queCtrlDesc]) rfl asked
  simp only [State.writeQueCtrl, takes, State.iff_true, written]

theorem QueSt.clearCounts_ovrCount (x : QueSt) : ∀ p ∈ x.clearCounts.queues, p.2.ovrCount = 0 := by
  intro p held
  obtain ⟨y, -, rfl⟩ := List.mem_map.1 held
  rfl

theorem exec_queCntClr_live {s : State} (live : s.live = true) (value : Word) (w : Writer) :
    exec (.queCntClr value w) s = .next (s.writeQueCtrl (value.toNat ||| 2) w).1 :=
  congrArg Host.Outcome.next (State.whenLive_live live _)

theorem exec_queuePeakRestart_used {s : State} {q : Fin 128} {c : QueueSt} (live : s.live = true)
    (used : s.queue q.val = some c) (value : Word) :
    exec (.queuePeakRestart q value) s = .next (s.setQueue q.val { c with peak := c.words.length }) := by
  have restart : bit 31 (value.toNat ||| 0x80000000) = true := by
    rw [bit, Nat.testBit_or, show Nat.testBit 0x80000000 31 = true from rfl, Bool.or_true]
  refine congrArg Host.Outcome.next ((State.whenLive_live live _).trans ?_)
  simp only [State.writePeak, used, restart, if_true]

/-- Settles O9: a push and a read set their queue and compare its watermarks (`State.watermark_used`), and the felling of a
row touches no queue. -/
theorem queuesPushAndRead : Obligations.QueuesPushAndRead := by
  refine ⟨?push, ?read, ?copied, ?clear, ?restart⟩
  case push =>
    intro s q data parity c live used
    have next := exec_queuePush_live live q data parity
    have kept := execQueuePush_fr q data parity next rfl (.refl { evt := true, que := true } s)
    refine ⟨fun room => ?_, fun full => ?_⟩
    · rw [State.pushWord_room used room] at next kept
      obtain ⟨⟨above, held⟩, others, -⟩ := State.watermark_used (s.queue_setQueue_same q.val _)
      exact ⟨_, _, next, held, rfl, rfl, fun p other => (others p other).trans (s.queue_setQueue_ne other _), kept⟩
    · have pushed := State.pushWord_full used full { data := data.toNat, parity := parity }
      refine ⟨_, next, ?_, fun p other => ?_, kept⟩
      · rw [State.queue_congr pushed, State.queue_setQueue_same]
        rfl
      · rw [State.queue_congr pushed, State.queue_setQueue_ne _ other]
  case read =>
    intro s q c w r live used holds sound
    have taken : c.pop.words = r := congrArg (List.drop 1) holds
    refine ⟨?_, ?_⟩
    · have next := exec_queueRead_live live q false false
      rw [State.readWord'_sound used holds sound] at next
      obtain ⟨⟨above, held⟩, -, -⟩ := State.watermark_used (s.queue_setQueue_same q.val c.pop)
      exact ⟨_, _, next, held, taken, rfl, State.watermark_fr q.val rfl (State.setQueue_fr q.val _ rfl (.refl _ s))⟩
    · have next := exec_queueRead_live live q true true
      have kept := execQueueRead_fr q true true next rfl (.refl { cop := true, evt := true, que := true, way := true } s)
      obtain ⟨⟨above, held⟩, counted⟩ := State.poisonRead_queue s q.val c
      rw [State.readWord'_poisoned used holds sound] at next kept
      exact ⟨_, _, next, held, taken, rfl, counted, kept⟩
  case copied =>
    intro s row live
    exact congrArg Host.Outcome.next (State.whenLive_live live _)
  case clear =>
    intro s value w live _
    have next := exec_queCntClr_live live value w
    have word : value.toNat ||| 2 < 4294967296 := Nat.or_lt_two_pow (n := 32) value.isLt (by decide)
    have asked : bit 1 (value.toNat ||| 2) = true := by
      rw [bit, Nat.testBit_or, show Nat.testBit 2 1 = true from rfl, Bool.or_true]
    have cleared := State.writeQueCtrl_clears (s := s) word asked w
    refine ⟨_, next, ?_, ?_, ?_, execQueCntClr_fr value w next rfl (.refl _ s)⟩
    · rw [cleared]; rfl
    · rw [cleared]; rfl
    · rw [cleared]; exact s.que.clearCounts_ovrCount
  case restart =>
    intro s q value c live used
    exact ⟨_, exec_queuePeakRestart_used live used value, s.queue_setQueue_same _ _,
      fun p other => s.queue_setQueue_ne other _, State.setQueue_fr q.val _ rfl (.refl _ s)⟩

end Sys2Proof.Machine
end

section
/-! Rings, masks and handlers of the event controller (R420, R423 to R425), and O11. -/

namespace Sys2Proof.Machine

/-! CONS and CFG (R420). -/

/-- Without a waiting source no record is due. -/
theorem EvtSt.deliverAll_idle {e : EvtSt} (idle : e.srcs = []) : e.deliverAll = e := by
  simp only [EvtSt.deliverAll, idle]
  rfl

theorem EvtSt.ring_modRing_same {e : EvtSt} {i p : Nat} (engine : i < e.engs.length) (prio : p < (e.eng i).rings.length)
    (f : Ring → Ring) : (e.modRing i p f).ring i p = f (e.ring i p) := by
  have changed : (e.modRing i p f).eng i = { e.eng i with rings := lmod f p (e.eng i).rings } :=
    lget_lmod_same ({} : EngSt) _ engine
  rw [EvtSt.ring, changed]
  exact lget_lmod_same {} f prio

/-- Records between an index and PROD (R420). -/
def Ring.left (r : Ring) (cons : Nat) : Nat :=
  (r.prod + 65536 - cons) % 65536

/-- A ring with a new CONS, its oldest records freed until a number of them is left. -/
def Ring.freed (cons left : Nat) (r : Ring) : Ring :=
  { r with cons := cons, records := r.records.drop (r.fill - left) }

theorem EvtSt.writeCons_beyond {e : EvtSt} {i p v : Nat} (beyond : (e.ring i p).size < (e.ring i p).left v) :
    e.writeCons i p v = { e with badCons := true } :=
  if_neg (Nat.not_le_of_lt beyond)

theorem EvtSt.writeCons_within {e : EvtSt} {i p v : Nat} (within : (e.ring i p).left v ≤ (e.ring i p).size)
    (idle : e.srcs = []) : e.writeCons i p v = e.modRing i p (Ring.freed v ((e.ring i p).left v)) :=
  (if_pos within).trans (EvtSt.deliverAll_idle idle)

/-- A ring placed by a word of CFG (Table 11.11). -/
def Ring.placed (v : Nat) (r : Ring) : Ring :=
  { r with base := field 17 4 v, log2 := field 31 28 v }

theorem EvtSt.writeCfg_held {e : EvtSt} {i p : Nat} (held : (e.ring i p).prod ≠ (e.ring i p).cons) (v : Nat) :
    e.writeCfg i p v = e := by
  simp only [EvtSt.writeCfg, held, decide_false, Bool.false_and, Bool.false_eq_true, if_false]

theorem EvtSt.writeCfg_empty {e : EvtSt} {i p v : Nat} (empty : (e.ring i p).prod = (e.ring i p).cons)
    (least : 4 ≤ field 31 28 v) (most : field 31 28 v ≤ 10) (idle : e.srcs = []) :
    e.writeCfg i p v = e.modRing i p (Ring.placed v) := by
  simp only [EvtSt.writeCfg, empty, least, most, decide_true, Bool.and_self, if_true]
  exact EvtSt.deliverAll_idle idle

theorem Ring.placed_size {v : Nat} (least : 4 ≤ field 31 28 v) (r : Ring) : (r.placed v).size = 2 ^ field 31 28 v :=
  if_neg (Nat.ne_of_gt (Nat.lt_of_lt_of_le (by decide) least))

theorem exec_ringConsWrite_live {s : State} (live : s.live = true) (e : Fin 16) (p : Fin 4) (value : Word) :
    exec (.ringConsWrite e p value) s
      = .next { s with evt := s.evt.writeCons e.val p.val (field 15 0 value.toNat) } :=
  congrArg Host.Outcome.next (State.whenLive_live live _)

theorem exec_ringCfgWrite_live {s : State} (live : s.live = true) (e : Fin 16) (p : Fin 4) (value : Word) :
    exec (.ringCfgWrite e p value) s = .next { s with evt := s.evt.writeCfg e.val p.val value.toNat } :=
  congrArg Host.Outcome.next (State.whenLive_live live _)

/-! Masks and handlers (R423 to R425). -/

/-- The state with one engine changed. -/
def State.modEng (s : State) (i : Nat) (f : EngSt → EngSt) : State :=
  { s with evt := { s.evt with engs := lmod f i s.evt.engs } }

theorem State.eng_modEng_same {s : State} {i : Nat} (engine : i < s.evt.engs.length) (f : EngSt → EngSt) :
    (s.modEng i f).evt.eng i = f (s.evt.eng i) :=
  lget_lmod_same ({} : EngSt) f engine

theorem State.modEng_keeps (s : State) (i : Nat) (f : EngSt → EngSt) : Keeps { evt := true } s (s.modEng i f) := rfl

theorem EngSt.enter_raised {g : EngSt} (raised : g.highest g.level < g.level) :
    g.enter = { g with level := g.highest g.level, frames := g.level :: g.frames } :=
  if_pos raised

theorem EngSt.leave_returns {g : EngSt} {back : Nat} {rest : List Nat} (saved : g.frames = back :: rest)
    (quiet : back ≤ g.highest back) : g.leave = { g with level := back, frames := rest } := by
  simp only [EngSt.leave, saved]
  exact if_neg (Nat.not_lt_of_le quiet)

theorem exec_ringMaskWrite_live {s : State} (live : s.live = true) (e : Fin 16) (value : Word) :
    exec (.ringMaskWrite e value) s = .next (s.modEng e.val fun g => { g with mask := value.toNat % 16 }) :=
  congrArg Host.Outcome.next (State.whenLive_live live _)

theorem exec_handlerEntry_live {s : State} (live : s.live = true) (e : Fin 16) :
    exec (.handlerEntry e) s = .next (s.modEng e.val EngSt.enter) :=
  congrArg Host.Outcome.next (State.whenLive_live live _)

theorem exec_handlerExit_live {s : State} (live : s.live = true) (e : Fin 16) :
    exec (.handlerExit e) s = .next (s.modEng e.val EngSt.leave) :=
  congrArg Host.Outcome.next (State.whenLive_live live _)

/-- Settles O11: a write of CONS or CFG changes its ring where the ring takes it, a write of MASK and a handler change their
engine. -/
theorem ringsAndHandlers : Obligations.RingsAndHandlers := by
  refine ⟨fun s e p value live => ?rings, fun s e value live engine => ?handlers⟩
  case rings =>
    have cons := exec_ringConsWrite_live live e p value
    have cfg := exec_ringCfgWrite_live live e p value
    refine ⟨fun beyond => ?_, fun within idle engine prio => ?_, fun held => ?_, fun empty least most idle engine prio => ?_⟩
    · rw [cons, EvtSt.writeCons_beyond beyond]
    · rw [EvtSt.writeCons_within within idle] at cons
      have freed := EvtSt.ring_modRing_same engine prio
        (Ring.freed (field 15 0 value.toNat) ((s.evt.ring e.val p.val).left (field 15 0 value.toNat)))
      exact ⟨_, cons, congrArg Ring.cons freed, (congrArg Ring.prod freed :), rfl⟩
    · rw [cfg, EvtSt.writeCfg_held held]
    · rw [EvtSt.writeCfg_empty empty least most idle] at cfg
      have placed := EvtSt.ring_modRing_same engine prio (Ring.placed value.toNat)
      exact ⟨_, cfg, (congrArg Ring.size placed).trans (Ring.placed_size least _), congrArg Ring.base placed, rfl⟩
  case handlers =>
    refine ⟨?mask, fun raised => ?entry, fun back rest saved quiet => ?exit⟩
    case mask =>
      exact ⟨_, exec_ringMaskWrite_live live e value, State.eng_modEng_same engine _, s.modEng_keeps _ _⟩
    case entry =>
      have entered := (State.eng_modEng_same engine EngSt.enter).trans (EngSt.enter_raised raised)
      exact ⟨_, exec_handlerEntry_live live e, congrArg EngSt.level entered, congrArg EngSt.frames entered,
        s.modEng_keeps _ _⟩
    case exit =>
      have left := (State.eng_modEng_same engine EngSt.leave).trans (EngSt.leave_returns saved quiet)
      exact ⟨_, exec_handlerExit_live live e, congrArg EngSt.level left, congrArg EngSt.frames left, s.modEng_keeps _ _⟩

end Sys2Proof.Machine
end

section
/-! Commands of the monitor that any role, or none, may send (R428, R486, R532, R538, R540), and O53. -/

namespace Sys2Proof.Machine

/-- A line was heard whose command its role may send: it is input, and a use under OPERATOR is counted (R489, R538). -/
def State.used (s : State) (u : MonUse) : State :=
  { s with mon := (s.mon.input s.cn).use u }

/-- The monitor serves lines: a stand runs, no mute is on, and the boot did not end without a canopy (R538, R594). -/
structure State.Served (s : State) : Prop where
  live : s.live = true
  heard : s.mon.muted s.cn = false
  booted : s.sys.bootPhase ≠ 5

/-- A command that its role may send, with good arguments, acts after its use is counted. -/
theorem State.Served.next {s : State} (h : s.Served) {need : MonNeed} {u : MonUse} {args : Bool} (boot : Bool)
    (right : need.holds s.mon.role = true) (good : args = true) (f : State → State) :
    (.next (s.whenLive fun x => x.monLine boot need (some u) args f) : Host.Outcome State Fault Refusal)
      = .next (f (s.used u)) := by
  have holds : need.holds (s.mon.input s.cn).role = true := right
  rw [State.whenLive_live h.live]
  simp only [State.monLine, h.heard, h.booted, holds, good, decide_false, Bool.false_and, Bool.not_true, Bool.false_eq_true,
    if_false]
  rfl

theorem MonNeed.read_holds {r : Role} (held : r ≠ .nobody) : MonNeed.read.holds r = true :=
  decide_eq_true held

/-! The answer. -/

theorem State.answer_ok_out (s : State) (lines : List String) :
    (s.answer lines .ok).out = s.out ++ lines.map Output.line ++ [.line "OK", .line "> "] := by
  simp [State.answer, State.emits]

/-- A command that only answers: its lines end with OK, the use is counted, and the rest of the module stays. -/
theorem State.used_answer (s : State) (u : MonUse) (lines : List String) :
    ((s.used u).answer lines .ok).out = s.out ++ lines.map Output.line ++ [.line "OK", .line "> "]
      ∧ Output.line "OK" ∈ ((s.used u).answer lines .ok).out
      ∧ ((s.used u).answer lines .ok).mon = (s.mon.input s.cn).use u
      ∧ Keeps { mon := true, out := true } s ((s.used u).answer lines .ok) := by
  have sent := State.answer_ok_out (s.used u) lines
  exact ⟨sent, by simp [sent], rfl, rfl⟩

theorem length_upFrom (n c : Nat) : (upFrom n c).length = c := by
  induction c generalizing n with
  | zero => rfl
  | succ c ih => exact congrArg (· + 1) (ih (n + 1))

/-- The words that q shows: those at the head of the queue (R540). -/
def State.queueLines (s : State) (q count : Nat) : List String :=
  match s.queue q with
  | some c => (c.words.take count).map fun w => hex8 (w.data / 4294967296) ++ hex8 w.data
  | none => []

theorem State.length_queueLines_le (s : State) (q count : Nat) : (s.queueLines q count).length ≤ count := by
  unfold State.queueLines
  split
  · rw [List.length_map]
    exact List.length_take_le ..
  · exact Nat.zero_le count

/-! Attestation (R486). -/

theorem State.attest_live {s : State} (slot : (s.slot 5).state = .live) (chal : List Byte) :
    (s.attest chal).key.att.done = true ∧ (s.attest chal).key.att.reason = .ok
      ∧ (s.attest chal).key.att.epoch = s.fsp.epoch ∧ (s.attest chal).key.att.cn = s.cn := by
  simp [State.attest, slot]

/-- The lines of att, where a MAC was made (R540). -/
def AttSt.lines (a : AttSt) : List String :=
  if a.reason = .ok then
    [ "MAC " ++ hexOctets (octets256 a.mac), "STAND " ++ hex8 a.stand, "FLAGS " ++ hex8 a.flagBits
    , "EPOCH " ++ hex8 a.epoch, "CN " ++ String.ofList (hexDigits 10 a.cn) ] else []

/-- The monitor answers with the attestation that the module holds. -/
def State.tellAttest (s : State) : State :=
  s.answer s.key.att.lines s.key.att.reason

theorem State.tellAttest_ok {s : State} (attested : s.key.att.reason = .ok) : Output.line "OK" ∈ s.tellAttest.out := by
  rw [State.tellAttest, attested, State.answer_ok_out]
  simp

theorem exec_monAtt_served {s : State} (h : s.Served) (role : s.mon.role ≠ .nobody) {chal : List Byte}
    (size : chal.length = 32) : exec (.monAtt chal) s = .next ((s.used .other).attest chal).tellAttest :=
  h.next false (MonNeed.read_holds role) (decide_eq_true size) fun x => (x.attest chal).tellAttest

/-- Settles O53: each command acts on a module that differs by the counted use alone (`State.Served.next`), and all but att only
answer (`State.used_answer`). The spelling of the lines (log 24) and that q leaves QUE_PEEK_SEL as it is (log 119) are the
model's. -/
theorem monitorReadsChangeNothing : Obligations.MonitorReadsChangeNothing := by
  intro s live heard booted
  have served : s.Served := ⟨live, heard, booted⟩
  refine ⟨?help, fun role => ?_⟩
  case help =>
    obtain ⟨-, ok, mon, kept⟩ := s.used_answer .other _
    exact ⟨_, served.next false rfl rfl _, ok, mon, kept⟩
  have right := MonNeed.read_holds role
  refine ⟨?rd, ?q, ?wb, ?status, ?att⟩
  case rd =>
    intro addr count range
    obtain ⟨out, -, mon, kept⟩ := s.used_answer .read _
    refine ⟨_, _, served.next false right range _, ?_, out, mon, kept⟩
    rw [List.length_map, length_upFrom]
  case q =>
    intro q count index few
    have good : (decide (q < 128) && decide (count ≤ 64)) = true := by simp [index, few]
    obtain ⟨out, -, mon, kept⟩ := s.used_answer .read
      (["FILL " ++ hex8 (s.fillOf q), "STATUS " ++ hex8 (queStatus (s.queue q))] ++ s.queueLines q count)
    refine ⟨_, s.queueLines q count, served.next false right good _, ?_, s.length_queueLines_le q count, mon, kept⟩
    rw [List.map_append, ← List.append_assoc s.out] at out
    exact out
  case wb =>
    intro seq count word least most
    have good : (decide (seq < 4294967296) && decide (1 ≤ count) && decide (count ≤ 64)) = true := by simp [word, least, most]
    obtain ⟨out, -, mon, kept⟩ := s.used_answer .read (["OLDEST " ++ hex8 s.way.oldest, "NEWEST " ++ hex8 s.way.newest,
      if s.way.gap seq then "GAP 1" else "GAP 0"] ++ (s.way.serve seq count).map fun r => hexOctets r.octets)
    refine ⟨_, served.next false right good _, ?_, mon, kept⟩
    rw [List.map_append, List.map_map, ← List.append_assoc s.out] at out
    exact out
  case status =>
    have answers (i : Instr) (lines : List String) (next : exec i s = .next ((s.used .read).answer lines .ok)) :
        ∃ t, exec i s = .next t ∧ Output.line "OK" ∈ t.out ∧ t.mon = (s.mon.input s.cn).use .read
          ∧ Keeps { mon := true, out := true } s t :=
      ⟨_, next, (s.used_answer .read lines).2⟩
    intro i listed
    rcases List.mem_cons.1 listed with rfl | listed
    · exact answers _ _ (served.next true right rfl _)
    rcases List.mem_cons.1 listed with rfl | listed
    · exact answers _ _ (served.next false right rfl _)
    · cases List.mem_singleton.1 listed
      exact answers _ _ (served.next true right rfl _)
  case att =>
    intro chal size slot
    obtain ⟨done, reason, epoch, cn⟩ := State.attest_live (s := s.used .other) slot chal
    have kept : Keeps { key := true, mon := true, out := true } s ((s.used .other).attest chal).tellAttest :=
      State.answer_fr _ _ rfl (State.attest_fr chal rfl rfl)
    exact ⟨_, exec_monAtt_served served role size, done, reason, epoch, cn, State.tellAttest_ok reason, kept⟩

end Sys2Proof.Machine
end

section
/-! Rules of Ford and the stands (12): what each shared operation makes of Ford's block and leaves of the rest. -/

namespace Sys2Proof.Machine

/-! Stands and their records. -/

@[simp] theorem Stand.other_ne (x : Stand) : x.other ≠ x := by
  cases x <;> decide

/-- Ford's block with one stand's record changed. -/
def FordSt.modStand (f : FordSt) (x : Stand) (g : StandSt → StandSt) : FordSt :=
  { f with a := if x = .a then g f.a else f.a, b := if x = .b then g f.b else f.b }

@[simp] theorem FordSt.of_modStand_same (f : FordSt) (x : Stand) (g : StandSt → StandSt) :
    (f.modStand x g).of x = g (f.of x) := by
  cases x <;> rfl

@[simp] theorem FordSt.of_modStand_other (f : FordSt) (x : Stand) (g : StandSt → StandSt) :
    (f.modStand x g).of x.other = f.of x.other := by
  cases x <;> rfl

@[simp] theorem FordSt.of_other_modStand (f : FordSt) (x : Stand) (g : StandSt → StandSt) :
    (f.modStand x.other g).of x = f.of x := by
  cases x <;> rfl

/-- A change that a record shows already is none. -/
theorem FordSt.modStand_of_kept {f : FordSt} {x : Stand} {g : StandSt → StandSt} (kept : g (f.of x) = f.of x) :
    f.modStand x g = f := by
  cases x with
  | a => exact congrArg (fun r => { f with a := r }) kept
  | b => exact congrArg (fun r => { f with b := r }) kept

@[simp] theorem State.modStand_ford (s : State) (x : Stand) (g : StandSt → StandSt) :
    (s.modStand x g).ford = s.ford.modStand x g := by
  cases x <;> rfl

/-! Events, slices and the state of a stand. -/

@[simp] theorem State.fordEventAs_ford (s : State) (role : Role) (source kind payload : Nat) :
    (s.fordEventAs role source kind payload).ford = s.ford :=
  (State.fordEventAs_fr (bl := { evt := true, way := true }) role source kind payload rfl (.refl _ s)).ford rfl

@[simp] theorem State.fordEvent_ford (s : State) (source kind payload : Nat) :
    (s.fordEvent source kind payload).ford = s.ford :=
  s.fordEventAs_ford .nobody source kind payload

theorem State.fordEvent_keeps (s : State) (source kind payload : Nat) :
    Keeps { evt := true, way := true } s (s.fordEvent source kind payload) :=
  State.fordEvent_fr source kind payload rfl (.refl _ s)

@[simp] theorem State.cutStand_ford (s : State) (x : Stand) (icause : Nat) : (s.cutStand x icause).ford = s.ford :=
  (State.cutStand_fr (bl := { cop := true, evt := true, rad := true }) x icause rfl (.refl _ s)).ford rfl

@[simp] theorem State.setStand_ford (s : State) (x : Stand) (st : StandState) :
    (s.setStand x st).ford = s.ford.modStand x fun r => { r with state := st } := by
  unfold State.setStand
  extract_lets old
  split
  case isTrue same => exact (FordSt.modStand_of_kept (by rw [← same])).symm
  case isFalse => rw [State.fordEvent_ford, State.modStand_ford]

/-! Withdrawal (R438). -/

/-- The record of a stand that is withdrawn in a cycle and begins its stand test. -/
def StandSt.withdrawnIn (r : StandSt) (cn : Cn) : StandSt :=
  { r with
    state := .withdrawn, withdrawals := r.withdrawals ++ [cn], testing := true, retry := false, passed := false
    probationEnd := none, probationDivs := 0 }

/-- Ford's block once a stand is withdrawn. -/
def FordSt.withdrawn (f : FordSt) (x : Stand) (cn : Cn) : FordSt :=
  { f.modStand x fun r => r.withdrawnIn cn with svc := x, probation := false }

@[simp] theorem FordSt.of_withdrawn_same (f : FordSt) (x : Stand) (cn : Cn) :
    (f.withdrawn x cn).of x = (f.of x).withdrawnIn cn := by
  cases x <;> rfl

theorem State.withdrawStand_keeps (s : State) (x : Stand) (icause : Nat) :
    Keeps { cop := true, evt := true, ford := true, rad := true, way := true } s (s.withdrawStand x icause) :=
  State.withdrawStand_fr x icause rfl (.refl _ s)

@[simp] theorem State.withdrawStand_ford (s : State) (x : Stand) (icause : Nat) :
    (s.withdrawStand x icause).ford = s.ford.withdrawn x s.cn := by
  have cn : ((s.setStand x .withdrawn).cutStand x icause).cn = s.cn :=
    (State.cutStand_fr (bl := { cop := true, evt := true, ford := true, rad := true, way := true }) x icause rfl
      (State.setStand_fr x .withdrawn rfl (.refl _ s))).cn rfl
  simp only [State.withdrawStand, State.modStand_ford, State.cutStand_ford, State.setStand_ford, cn]
  cases x <;> rfl

@[simp] theorem State.withdrawStand_cn (s : State) (x : Stand) (icause : Nat) : (s.withdrawStand x icause).cn = s.cn :=
  (s.withdrawStand_keeps x icause).cn rfl

/-! The stand that drives (R442). -/

/-- Ford's block once a stand drives. -/
def FordSt.drivenBy (f : FordSt) (x : Stand) : FordSt :=
  { f.modStand x fun r => { r with state := .active } with active := x, switches := bump f.switches }

@[simp] theorem FordSt.of_drivenBy_same (f : FordSt) (x : Stand) :
    (f.drivenBy x).of x = { f.of x with state := .active } := by
  cases x <;> rfl

@[simp] theorem FordSt.of_drivenBy_other (f : FordSt) (x : Stand) : (f.drivenBy x.other).of x = f.of x := by
  cases x <;> rfl

@[simp] theorem State.driveFrom_ford (s : State) (x : Stand) : (s.driveFrom x).ford = s.ford.drivenBy x := by
  simp only [State.driveFrom, State.setStand_ford]
  cases x <;> rfl

/-! An update that does not run: nothing of it is stopped (R512, R514, R520). -/

theorem State.standbyLost_idle {s : State} (idle : s.upd.activation = none) : s.standbyLost = s := by
  simp only [State.standbyLost, idle]

theorem State.switchedFor_idle {s : State} (idle : s.upd.activation = none) : s.switchedFor = s := by
  simp only [State.switchedFor, idle]

theorem State.stopFor_idle {s : State} (idle : s.upd.activation = none) (reason : Reason) : s.stopFor reason = s := by
  simp only [State.stopFor, idle]

/-! A hold and the answers to it (R435, R437). -/

theorem State.inProbation_of_following {s : State} (following : s.following = true) : s.inProbation = false := by
  have standby := of_decide_eq_true following
  simp [State.inProbation, standby]

theorem State.serves_other_of_following {s : State} (following : s.following = true) : s.serves s.ford.active.other = true := by
  have standby := of_decide_eq_true following
  simp only [State.serves, standby]

/-- A standby that follows is waited for. -/
theorem State.startHold_following {s : State} (following : s.following = true) (cause : Nat) :
    s.startHold cause = s.holdFor cause :=
  if_pos following

@[simp] theorem Diagnosis.answer_set_same (d : Diagnosis) (x : Stand) (causes : Nat) : (d.set x causes).answer x = some causes := by
  cases x <;> rfl

@[simp] theorem Diagnosis.answer_set_other (d : Diagnosis) (x : Stand) (causes : Nat) :
    (d.set x causes).answer x.other = d.answer x.other := by
  cases x <;> rfl

@[simp] theorem Diagnosis.answer_other_set (d : Diagnosis) (x : Stand) (causes : Nat) :
    (d.set x.other causes).answer x = d.answer x := by
  cases x <;> rfl

@[simp] theorem Diagnosis.set_cause (d : Diagnosis) (x : Stand) (causes : Nat) : (d.set x causes).cause = d.cause := by
  cases x <;> rfl

@[simp] theorem Diagnosis.set_withdrew (d : Diagnosis) (x : Stand) (causes : Nat) : (d.set x causes).withdrew = d.withdrew := by
  cases x <;> rfl

/-- The record of a stand that a diagnosis names causes for. -/
def StandSt.diagnosed (r : StandSt) (causes : Nat) : StandSt :=
  { r with causes := causes, diagnoses := bump r.diagnoses }

/-- Ford's block once a stand has answered a diagnosis. -/
def FordSt.answeredBy (f : FordSt) (x : Stand) (causes : Nat) (d : Diagnosis) : FordSt :=
  { f.modStand x fun r => r.diagnosed causes with diag := some (d.set x causes) }

@[simp] theorem FordSt.of_answeredBy_same (f : FordSt) (x : Stand) (causes : Nat) (d : Diagnosis) :
    (f.answeredBy x causes d).of x = (f.of x).diagnosed causes := by
  cases x <;> rfl

theorem State.answered_keeps (s : State) (x : Stand) (causes : Nat) : Keeps { ford := true } s (s.answered x causes) :=
  State.answered_fr x causes rfl (.refl _ s)

theorem State.answered_ford {s : State} {d : Diagnosis} (asked : s.ford.diag = some d) (x : Stand) (causes : Nat) :
    (s.answered x causes).ford = s.ford.answeredBy x causes d := by
  cases x <;> simp only [State.answered, State.noteDiagnosis, State.modStand, asked, Option.map_some] <;> rfl

/-- An answer changes no stand's state. -/
theorem FordSt.answeredBy_state (f : FordSt) (x y : Stand) (causes : Nat) (d : Diagnosis) :
    ((f.answeredBy x causes d).of y).state = (f.of y).state := by
  cases x <;> cases y <;> rfl


theorem State.answered_following {s : State} {d : Diagnosis} (asked : s.ford.diag = some d) (x : Stand) (causes : Nat) :
    (s.answered x causes).following = s.following := by
  simp only [State.following, State.answered_ford asked]
  exact congrArg (fun st => decide (st = StandState.standby)) (FordSt.answeredBy_state ..)

/-! Ford's decisions (R436, Table 12.2). -/

/-- The active stand's answer, or its WITHDRAW, shows a fault of it. -/
def Diagnosis.faults (d : Diagnosis) (a : Nat) : Bool :=
  d.withdrew || (decide (d.cause ≠ 4) && decide (a ≠ 0))

/-- While an answer is missing, Ford decides nothing. -/
theorem State.fordDecides_waits {s : State} {d : Diagnosis} (asked : s.ford.diag = some d)
    (missing : d.answer s.ford.active.other = none) (hold : Nat) : s.fordDecides hold = s := by
  simp only [State.fordDecides, asked, missing]
  cases d.answer s.ford.active <;> rfl

/-- Both stands have answered the diagnosis that runs, the active one with `a` and the other with `b`. -/
structure State.Answered (s : State) (d : Diagnosis) (a b : Nat) : Prop where
  asked : s.ford.diag = some d
  own : d.answer s.ford.active = some a
  other : d.answer s.ford.active.other = some b

section
variable {s : State} {d : Diagnosis} {a b : Nat}

theorem State.Answered.switches (h : s.Answered d a 0) (faulty : d.faults a = true) (following : s.following = true)
    (hold : Nat) : s.fordDecides hold = (s.switchOver hold).switchedFor := by
  unfold Diagnosis.faults at faulty
  simp only [State.fordDecides, h.asked, h.own, h.other, faulty, following, decide_true, Bool.and_self, if_true]

theorem State.Answered.safeHold (h : s.Answered d a b) (faulty : d.faults a = true) (bad : b ≠ 0) (hold : Nat) :
    s.fordDecides hold = s.safeHoldNow false hold := by
  unfold Diagnosis.faults at faulty
  simp only [State.fordDecides, h.asked, h.own, h.other, faulty, bad, decide_false, Bool.and_false, Bool.false_and,
    Bool.false_eq_true, if_false, if_true]

theorem State.Answered.keeps (h : s.Answered d a b) (sound : d.faults a = false) (bad : b ≠ 0) (hold : Nat) :
    s.fordDecides hold = s.keep hold true := by
  unfold Diagnosis.faults at sound
  simp only [State.fordDecides, h.asked, h.own, h.other, sound, Bool.false_and, Bool.false_eq_true, if_false]
  exact if_pos bad

theorem State.Answered.unresolved (h : s.Answered d a 0) (sound : d.faults a = false) (hold : Nat) :
    s.fordDecides hold = s.unresolved hold := by
  unfold Diagnosis.faults at sound
  simp only [State.fordDecides, h.asked, h.own, h.other, sound, Bool.false_and, Bool.false_eq_true, if_false]
  exact if_neg (not_not_intro rfl)

end

end Sys2Proof.Machine
end

section
/-! The causes for which Ford holds and asks (R432 to R435), and O43. -/

namespace Sys2Proof.Machine

/-! A divergence (R432). -/

/-- Ford counts a divergence and shows its class, pin and tag. -/
def State.diverged (s : State) (cls : Fin 8) (pin : BitVec 16) (tag : BitVec 64) : State :=
  { s with ford := { s.ford with
      divergences := bump s.ford.divergences, divClass := cls.val + 1, divPin := pin.toNat, divTag := tag.toNat } }

theorem exec_divergence_following {s : State} {cls : Fin 8} (live : s.live = true) (compares : s.compares cls.val = true)
    (free : s.ford.holding = false) (following : s.following = true) (pin : BitVec 16) (tag : BitVec 64) :
    exec (.divergence cls pin tag) s
      = .next (((s.diverged cls pin tag).holdFor 2).fordEvent 801 1 (cls.val + 1 + pin.toNat * 256)) :=
  congrArg Host.Outcome.next <| (State.whenLive_live live _).trans <| by
    simp only [compares, free, State.inProbation_of_following following, Bool.not_false, Bool.and_self, State.iff_true,
      Bool.false_eq_true, if_false]
    exact congrArg (fun u : State => u.fordEvent 801 1 _)
      (State.startHold_following (s := s.diverged cls pin tag) following 2)

theorem exec_divergence_uncompared {s : State} {cls : Fin 8} (live : s.live = true) (silent : s.compares cls.val = false)
    (pin : BitVec 16) (tag : BitVec 64) : exec (.divergence cls pin tag) s = .next s :=
  congrArg Host.Outcome.next <| (State.whenLive_live live _).trans <| by rw [silent, Bool.false_and, State.iff_false]

/-! The active stand's cause: Ford holds, and the stand counts as having answered (R434, R435). -/

/-- Ford holds for a cause of a stand, which stands for that stand's answer. -/
def State.holdAnswered (s : State) (x : Stand) (cause causes : Nat) : State :=
  (s.holdFor cause).answered x causes

@[simp] theorem State.holdAnswered_ford (s : State) (x : Stand) (cause causes : Nat) :
    (s.holdAnswered x cause causes).ford = (s.holdFor cause).ford.answeredBy x causes { cause := cause } :=
  State.answered_ford rfl ..

theorem State.holdAnswered_keeps (s : State) (x : Stand) (cause causes : Nat) :
    Keeps { ford := true } s (s.holdAnswered x cause causes) :=
  (s.holdFor cause).answered_keeps ..

/-- Ford waits for the standby's answer to a cause of the active stand. -/
theorem State.holdAnswered_waits {s : State} {x : Stand} (active : s.ford.active = x) (cause causes hold : Nat) :
    (s.holdAnswered x cause causes).fordDecides hold = s.holdAnswered x cause causes := by
  have asked : (s.holdAnswered x cause causes).ford.diag = some (Diagnosis.set { cause := cause } x causes) :=
    congrArg FordSt.diag (State.holdAnswered_ford ..)
  refine State.fordDecides_waits asked ?_ hold
  have still : (s.holdAnswered x cause causes).ford.active = x := (congrArg FordSt.active (State.holdAnswered_ford ..)).trans active
  rw [still, Diagnosis.answer_set_other]
  cases x <;> rfl

/-! The standby's cause: it is withdrawn alone. -/

/-- Ford keeps the active stand and withdraws the other, which an update that waits for it loses. -/
def State.withdrawStandby (s : State) (x : Stand) (cause : Nat) : State :=
  ({ s with ford := { s.ford with cause := cause, decision := 2 } }.withdrawStand x 6).standbyLost

theorem State.withdrawStandby_idle {s : State} (idle : s.upd.activation = none) (x : Stand) (cause : Nat) :
    (s.withdrawStandby x cause).ford = FordSt.withdrawn { s.ford with cause := cause, decision := 2 } x s.cn
      ∧ Keeps { cop := true, evt := true, ford := true, rad := true, way := true } s (s.withdrawStandby x cause) := by
  have kept := State.withdrawStand_keeps { s with ford := { s.ford with cause := cause, decision := 2 } } x 6
  unfold State.withdrawStandby
  rw [State.standbyLost_idle ((congrArg UpdSt.activation (kept.upd rfl)).trans idle)]
  exact ⟨State.withdrawStand_ford .., kept⟩

/-! A lost heartbeat (R434). -/

/-- Ford notes a lost heartbeat, which counts as a divergence where there are two stands. -/
def State.heartbeatNoted (s : State) (x : Stand) : State :=
  let s := s.fordEvent 807 1 x.number
  { s with ford := { s.ford with
      divergences := if s.build = .t then bump s.ford.divergences else s.ford.divergences } }

theorem State.heartbeatNoted_keeps (s : State) (x : Stand) :
    Keeps { evt := true, ford := true, way := true } s (s.heartbeatNoted x) :=
  (s.fordEvent_keeps 807 1 x.number).mono rfl

theorem State.heartbeatNoted_ford (s : State) (x : Stand) :
    (s.heartbeatNoted x).ford = { s.ford with
      divergences := if s.build = .t then bump s.ford.divergences else s.ford.divergences } := by
  simp only [State.heartbeatNoted, State.fordEvent_ford, (s.fordEvent_keeps 807 1 x.number).build]

@[simp] theorem State.heartbeatNoted_active (s : State) (x : Stand) : (s.heartbeatNoted x).ford.active = s.ford.active := by
  rw [s.heartbeatNoted_ford]

section
variable {s : State} (live : s.live = true) (quiet : s.ford.safeHold = false) (unasked : s.ford.diag = none)
include live quiet unasked

theorem exec_heartbeatLost_active (following : s.following = true) (serves : s.serves s.ford.active = true) (hold : Word) :
    exec (.heartbeatLost s.ford.active hold) s
      = .next ((s.heartbeatNoted s.ford.active).holdAnswered s.ford.active 3 128) := by
  have ford := s.heartbeatNoted_ford s.ford.active
  have asksNone : ¬ (s.heartbeatNoted s.ford.active).ford.diag.isSome = true := by simp [ford, unasked]
  have active := s.heartbeatNoted_active s.ford.active
  have follows : (s.heartbeatNoted s.ford.active).following = true := by
    simp only [State.following, ford]
    exact following
  refine congrArg Host.Outcome.next <| (State.whenLive_live live _).trans <|
    (if_pos (by rw [serves, quiet]; rfl)).trans <| (if_neg asksNone).trans <| (if_pos active.symm).trans ?_
  exact (congrArg (fun u : State => (u.answered s.ford.active 128).fordDecides hold.toNat)
    (State.startHold_following follows 3)).trans (State.holdAnswered_waits active ..)

theorem exec_heartbeatLost_standby (following : s.following = true) (hold : Word) :
    exec (.heartbeatLost s.ford.active.other hold) s
      = .next ((s.heartbeatNoted s.ford.active.other).withdrawStandby s.ford.active.other 3) := by
  have ford := s.heartbeatNoted_ford s.ford.active.other
  have asksNone : ¬ (s.heartbeatNoted s.ford.active.other).ford.diag.isSome = true := by simp [ford, unasked]
  have passive : ¬ s.ford.active.other = (s.heartbeatNoted s.ford.active.other).ford.active := by simp
  have unproved : ¬ (s.heartbeatNoted s.ford.active.other).inProbation = true := by
    rw [State.inProbation_of_following]
    · exact Bool.false_ne_true
    · simp only [State.following, ford]
      exact following
  exact congrArg Host.Outcome.next <| (State.whenLive_live live _).trans <|
    (if_pos (by rw [State.serves_other_of_following following, quiet]; rfl)).trans <|
    (if_neg asksNone).trans <| (if_neg passive).trans <| if_neg unproved

end

/-! WITHDRAW (R435). -/

/-- The active stand's WITHDRAW is noted beside the causes it names. -/
def State.holdWithdrawn (s : State) (causes : Nat) : State :=
  (s.holdAnswered s.ford.active 1 causes).noteWithdrew

theorem State.holdWithdrawn_ford (s : State) (causes : Nat) :
    (s.holdWithdrawn causes).ford = { (s.holdFor 1).ford.answeredBy s.ford.active causes { cause := 1 } with
      diag := some { Diagnosis.set { cause := 1 } s.ford.active causes with withdrew := true } } := by
  simp only [State.holdWithdrawn, State.noteWithdrew, State.holdAnswered_ford]
  rfl

theorem State.holdWithdrawn_keeps (s : State) (causes : Nat) : Keeps { ford := true } s (s.holdWithdrawn causes) :=
  State.noteWithdrew_fr rfl (s.holdAnswered_keeps ..)

theorem State.holdWithdrawn_waits (s : State) (causes hold : Nat) :
    (s.holdWithdrawn causes).fordDecides hold = s.holdWithdrawn causes := by
  refine State.fordDecides_waits (congrArg FordSt.diag (s.holdWithdrawn_ford causes)) ?_ hold
  have active : (s.holdWithdrawn causes).ford.active = s.ford.active := by rw [s.holdWithdrawn_ford]; rfl
  rw [active]
  cases s.ford.active <;> rfl

section
variable {s : State} {causes : Fin 64} (live : s.live = true) (quiet : s.ford.safeHold = false)
  (unasked : s.ford.diag = none) (named : causes ≠ 0)
include live quiet unasked named

theorem exec_withdraw_active (following : s.following = true) (serves : s.serves s.ford.active = true) (hold : Word) :
    exec (.withdraw s.ford.active causes hold) s = .next (s.holdWithdrawn causes.val) := by
  have nonzero : decide (causes.val ≠ 0) = true := decide_eq_true (Fin.val_ne_zero_iff.mpr named)
  refine congrArg Host.Outcome.next <| (State.whenLive_live live _).trans <|
    (if_pos (by rw [serves, nonzero, quiet]; rfl)).trans <|
    (if_neg (by simp [unasked])).trans <| (if_pos rfl).trans ?_
  exact (congrArg (fun u : State => (u.answered s.ford.active causes.val).noteWithdrew.fordDecides hold.toNat)
    (State.startHold_following following 1)).trans (s.holdWithdrawn_waits ..)

theorem exec_withdraw_standby (following : s.following = true) (hold : Word) :
    exec (.withdraw s.ford.active.other causes hold) s
      = .next ((s.modStand s.ford.active.other fun r => { r with causes := causes.val }).withdrawStandby
          s.ford.active.other 1) := by
  have nonzero : decide (causes.val ≠ 0) = true := decide_eq_true (Fin.val_ne_zero_iff.mpr named)
  exact congrArg Host.Outcome.next <| (State.whenLive_live live _).trans <|
    (if_pos (by rw [State.serves_other_of_following following, nonzero, quiet]; rfl)).trans <|
    (if_neg (by simp [unasked])).trans <| if_neg s.ford.active.other_ne

end

/-! STAND_CLAIM of stand A (R434). -/

/-- The event of a claim of stand A, and the claim. -/
def State.claimedByA (s : State) : State :=
  let s := s.fordEvent 807 2 Stand.b.number
  { s with ford := { s.ford with claimA := true } }

/-- Two claims: Ford holds for them, and records it. -/
def State.claimsHeld (s : State) : State :=
  let s := s.holdFor 4
  s.record 807 0x40 .ok (le 1 2 ++ [0] ++ le 4 Stand.b.number ++ le 4 s.fordCause)

theorem State.claimsHeld_keeps (s : State) : Keeps { evt := true, way := true } (s.holdFor 4) s.claimsHeld :=
  State.record_fr _ _ _ _ rfl (.refl _ _)

theorem State.claimedByA_ford (s : State) : s.claimedByA.ford = { s.ford with claimA := true } := by
  simp only [State.claimedByA, State.fordEvent_ford]

section
variable {s : State} (live : s.live = true) (twin : s.build = .t) (serves : s.serves .a = true)
  (quiet : s.ford.safeHold = false)
include live twin serves quiet

theorem exec_standClaim_alone (silent : s.ford.claimB = false) : exec (.standClaim .a) s = .next s.claimedByA := by
  have one : (s.claimedByA.ford.claimA && s.claimedByA.ford.claimB && s.claimedByA.following && !s.claimedByA.ford.holding)
      = false := by
    simp [s.claimedByA_ford, silent]
  exact congrArg Host.Outcome.next <| (State.whenLive_live live _).trans <|
    (if_pos (by rw [twin, serves, quiet]; rfl)).trans <| if_neg (ne_true_of_eq_false one)

theorem exec_standClaim_both (claimed : s.ford.claimB = true) (following : s.following = true)
    (free : s.ford.holding = false) :
    exec (.standClaim .a) s = .next s.claimedByA.claimsHeld := by
  have follows : s.claimedByA.following = true := by
    simp only [State.following, s.claimedByA_ford]
    exact following
  have both : (s.claimedByA.ford.claimA && s.claimedByA.ford.claimB && s.claimedByA.following && !s.claimedByA.ford.holding)
      = true := by
    simp [s.claimedByA_ford, claimed, follows, free]
  exact congrArg Host.Outcome.next <| (State.whenLive_live live _).trans <|
    (if_pos (by rw [twin, serves, quiet]; rfl)).trans <| (if_pos both).trans <|
    congrArg (fun u : State => u.record 807 0x40 .ok (le 1 2 ++ [0] ++ le 4 Stand.b.number ++ le 4 u.fordCause))
      (State.startHold_following follows 4)

end

/-- Settles O43: each clause is the equation of its command. A cause of the active stand leaves Ford waiting for the standby's
answer (`State.fordDecides_waits`); one of the standby withdraws it (`State.withdrawStandby`). -/
theorem fordHoldsAndAsks : Obligations.FordHoldsAndAsks := by
  refine ⟨?divergence, ?lost, ?claims⟩
  case divergence =>
    intro s cls pin tag live
    refine ⟨fun compares free following => ?_, fun silent => exec_divergence_uncompared live silent pin tag⟩
    exact ⟨_, exec_divergence_following live compares free following pin tag, State.fordEvent_ford ..,
      State.fordEvent_fr _ _ _ rfl (.refl _ s)⟩
  case lost =>
    intro s hold live following quiet unasked serves idle
    refine ⟨?_, fun _ => ?_, fun causes named => ⟨?_, ?_⟩⟩
    · refine ⟨_, exec_heartbeatLost_active live quiet unasked following serves hold, ?_⟩
      rw [State.holdAnswered_ford]
      exact ⟨rfl, rfl, rfl, s.heartbeatNoted_active _,
        (s.heartbeatNoted_keeps _).trans ((State.holdAnswered_keeps ..).mono rfl)⟩
    · have kept := s.heartbeatNoted_keeps s.ford.active.other
      obtain ⟨ford, withdrawn⟩ := State.withdrawStandby_idle ((congrArg UpdSt.activation (kept.upd rfl)).trans idle)
        s.ford.active.other 3
      refine ⟨_, exec_heartbeatLost_standby live quiet unasked following hold, ?_⟩
      rw [ford, FordSt.of_withdrawn_same, State.heartbeatNoted_ford]
      exact ⟨rfl, rfl, rfl, rfl, (kept.mono rfl).trans withdrawn⟩
    · refine ⟨_, exec_withdraw_active live quiet unasked named following serves hold, ?_⟩
      have own : (s.holdWithdrawn causes.val).ford.of s.ford.active = (s.ford.of s.ford.active).diagnosed causes.val := by
        rw [s.holdWithdrawn_ford]
        cases s.ford.active <;> rfl
      rw [own, s.holdWithdrawn_ford]
      exact ⟨rfl, rfl, rfl, rfl, rfl, s.holdWithdrawn_keeps _⟩
    · have kept : Keeps { ford := true } s (s.modStand s.ford.active.other fun r => { r with causes := causes.val }) :=
        State.modStand_fr _ _ rfl (.refl _ s)
      obtain ⟨ford, withdrawn⟩ := State.withdrawStandby_idle ((congrArg UpdSt.activation (kept.upd rfl)).trans idle)
        s.ford.active.other 1
      refine ⟨_, exec_withdraw_standby live quiet unasked named following hold, ?_⟩
      rw [ford, FordSt.of_withdrawn_same, State.modStand_ford]
      refine ⟨rfl, ?_, rfl, (kept.mono rfl).trans withdrawn⟩
      cases s.ford.active <;> rfl
  case claims =>
    intro s live twin serves quiet
    have claimed : Keeps { evt := true, ford := true, way := true } s s.claimedByA := (s.fordEvent_keeps ..).mono rfl
    refine ⟨fun silent => ?_, fun other following free => ?_⟩
    · exact ⟨_, exec_standClaim_alone live twin serves quiet silent, s.claimedByA_ford, claimed⟩
    · have recorded := s.claimedByA.claimsHeld_keeps
      refine ⟨_, exec_standClaim_both live twin serves quiet other following free, ?_, claimed.trans (recorded.mono rfl)⟩
      rw [recorded.ford rfl, State.holdFor, s.claimedByA_ford]

end Sys2Proof.Machine
end
section
/-! Ford's decisions (R433, R435, R436, R612, Table 12.2), and O44. -/

namespace Sys2Proof.Machine

/-! What becomes of Ford's block by each decision. -/

/-- Ford's block once a hold has ended. -/
def FordSt.released (f : FordSt) (decision hold : Nat) : FordSt :=
  { f with holding := false, decision := decision, diag := none, holdTime := hold, claimA := false, claimB := false }

theorem State.release_ford (s : State) (decision hold : Nat) : (s.release decision hold).ford = s.ford.released decision hold :=
  rfl

/-- A switch after a fault: the active stand is withdrawn, and the other drives. -/
theorem State.switchOver_ford (s : State) (hold : Nat) :
    (s.switchOver hold).ford
      = ((s.ford.released 1 hold).withdrawn s.ford.active s.cn).drivenBy s.ford.active.other := by
  simp only [State.switchOver, State.fordEvent_ford, State.driveFrom_ford, State.withdrawStand_ford, State.release_ford]
  rfl

theorem State.switchOver_keeps (s : State) (hold : Nat) :
    Keeps { cop := true, evt := true, ford := true, rad := true, way := true } s (s.switchOver hold) :=
  State.switchOver_fr hold rfl (.refl _ s)

/-- The active stand stays, and the other is withdrawn. -/
theorem State.keep_idle {s : State} (idle : s.upd.activation = none) (hold : Nat) :
    (s.keep hold true).ford = (s.ford.released 2 hold).withdrawn s.ford.active.other s.cn
      ∧ Keeps { cop := true, evt := true, ford := true, rad := true, way := true } s (s.keep hold true) := by
  have kept := (s.release 2 hold).withdrawStand_keeps s.ford.active.other 6
  have kept' : s.keep hold true = (s.release 2 hold).withdrawStand s.ford.active.other 6 :=
    State.standbyLost_idle ((congrArg UpdSt.activation (kept.upd rfl)).trans idle)
  rw [kept']
  exact ⟨State.withdrawStand_ford .., kept⟩

/-! SAFE HOLD (R445). -/

/-- A stand that could drive is withdrawn. -/
def State.withdrawServing (s : State) (serves : Bool) (x : Stand) : State :=
  if serves then s.withdrawStand x 6 else s

/-- What a withdrawal leaves of Ford's block: the causes of each stand, and what SAFE HOLD shows. -/
def FordSt.shown (f : FordSt) : Nat × Nat × Nat × Nat :=
  (f.a.causes, f.b.causes, f.cause, f.decision)

theorem FordSt.withdrawn_shown (f : FordSt) (x : Stand) (cn : Cn) : (f.withdrawn x cn).shown = f.shown := by
  cases x <;> rfl

theorem State.withdrawServing_shown (s : State) (serves : Bool) (x : Stand) :
    (s.withdrawServing serves x).ford.shown = s.ford.shown ∧ (s.withdrawServing serves x).cn = s.cn := by
  cases serves with
  | false => exact ⟨rfl, rfl⟩
  | true =>
    refine ⟨?_, State.withdrawStand_cn ..⟩
    rw [State.withdrawServing, if_pos rfl, State.withdrawStand_ford, FordSt.withdrawn_shown]

/-- Both stands out of service, Ford takes CN into its shadow and holds (R445, R446). -/
def State.shadowed (s : State) (vote : Bool) : State :=
  { s.takeShadow with ford := { s.takeShadow.ford with
      safeHold := true, voteHold := vote, holding := true, holdCn := s.cn, switch := none } }

/-- The hold ends in SAFE HOLD, and both stands are withdrawn where they could drive. -/
def State.standDown (s : State) (hold : Nat) : State :=
  ((s.release 3 hold).withdrawServing (s.serves s.ford.active.other) s.ford.active.other).withdrawServing
    (s.serves s.ford.active) s.ford.active

theorem State.standDown_shown (s : State) (hold : Nat) :
    (s.standDown hold).ford.shown = (s.ford.a.causes, s.ford.b.causes, s.ford.cause, 3) ∧ (s.standDown hold).cn = s.cn := by
  obtain ⟨shownOther, cnOther⟩ :=
    (s.release 3 hold).withdrawServing_shown (s.serves s.ford.active.other) s.ford.active.other
  obtain ⟨shownBoth, cnBoth⟩ := ((s.release 3 hold).withdrawServing (s.serves s.ford.active.other)
    s.ford.active.other).withdrawServing_shown (s.serves s.ford.active) s.ford.active
  exact ⟨shownBoth.trans shownOther, cnBoth.trans cnOther⟩

theorem State.enterSafeHold_eq (s : State) (vote : Bool) (hold : Nat) :
    s.enterSafeHold vote hold
      = ((s.standDown hold).shadowed vote).fordEvent 805 1 ((s.standDown hold).cn % 4294967296) :=
  rfl

/-- What Ford shows in a SAFE HOLD that it enters from a state. -/
structure FordSt.InSafeHold (f : FordSt) (s : State) (vote : Bool) : Prop where
  safeHold : f.safeHold = true
  voteHold : f.voteHold = vote
  holding : f.holding = true
  shadowCn : f.shadowCn = s.cn
  causesA : f.a.causes = s.ford.a.causes
  causesB : f.b.causes = s.ford.b.causes
  cause : f.cause = s.ford.cause
  decision : f.decision = 3

theorem State.safeHoldNow_idle {s : State} (idle : s.upd.activation = none) (vote : Bool) (hold : Nat) :
    (s.safeHoldNow vote hold).ford.InSafeHold s vote
      ∧ Keeps { cop := true, evt := true, ford := true, rad := true, way := true } s (s.safeHoldNow vote hold) := by
  have kept : Keeps { cop := true, evt := true, ford := true, rad := true, way := true } s (s.enterSafeHold vote hold) :=
    State.enterSafeHold_fr vote hold rfl (.refl _ s)
  have held : s.safeHoldNow vote hold = s.enterSafeHold vote hold :=
    State.stopFor_idle ((congrArg UpdSt.activation (kept.upd rfl)).trans idle) .safeHold
  rw [held]
  refine ⟨?_, kept⟩
  obtain ⟨shown, cn⟩ := s.standDown_shown hold
  simp only [FordSt.shown, Prod.mk.injEq] at shown
  obtain ⟨causesA, causesB, cause, decision⟩ := shown
  rw [s.enterSafeHold_eq, State.fordEvent_ford]
  exact ⟨rfl, rfl, rfl, cn, causesA, causesB, cause, decision⟩

/-! Neither stand shows a fault: the standby learns anew (Table 12.2). -/

theorem State.countRestart_ford (s : State) (x : Stand) : (s.countRestart x).ford = s.ford :=
  (State.countRestart_fr (bl := { evt := true, fsp := true, out := true, sys := true, way := true }) x rfl (.refl _ s)).ford rfl

/-- Ford's block once a stand begins to learn. -/
def FordSt.learns (f : FordSt) (x : Stand) : FordSt :=
  { f.modStand x fun r => { r with
      state := .learning, testing := false, retry := false, probationEnd := none, probationDivs := 0 } with
    probation := false }

theorem FordSt.of_learns_same (f : FordSt) (x : Stand) : (f.learns x).of x = { f.of x with
    state := .learning, testing := false, retry := false, probationEnd := none, probationDivs := 0 } := by
  cases x <;> rfl

theorem State.beginLearning_ford {s : State} {x : Stand} (own : (s.ford.of x).otherImage = false) :
    (s.beginLearning x).ford = s.ford.learns x := by
  have begun : (if (s.ford.of x).state = .learning then s else s.countRestart x).ford = s.ford := by
    split
    · rfl
    · exact s.countRestart_ford x
  simp only [State.beginLearning, own, Bool.false_eq_true, if_false, State.modStand_ford, State.setStand_ford, begun]
  cases x <;> rfl

theorem State.unresolved_ford {s : State} (own : (s.ford.of s.ford.active.other).otherImage = false) (hold : Nat) :
    (s.unresolved hold).ford
      = FordSt.learns { s.ford.released 4 hold with unresolved := bump s.ford.unresolved } s.ford.active.other := by
  simp only [State.unresolved, State.fordEvent_ford]
  rw [State.beginLearning_ford, State.cutStand_ford, State.fordEvent_ford]
  · rfl
  · rw [State.cutStand_ford, State.fordEvent_ford]
    exact own

theorem State.unresolved_keeps (s : State) (hold : Nat) :
    Keeps { cop := true, evt := true, ford := true, fsp := true, out := true, rad := true, sys := true, way := true } s
      (s.unresolved hold) :=
  State.unresolved_fr hold rfl (.refl _ s)

/-! The answers (R435). -/

theorem exec_diagnosisAnswer_awaited {s : State} {d : Diagnosis} {x : Stand} (live : s.live = true)
    (asked : s.ford.diag = some d) (awaited : d.answer x = none) (causes : Fin 128) (hold : Word) :
    exec (.diagnosisAnswer x causes hold) s = .next ((s.answered x causes.val).fordDecides hold.toNat) :=
  congrArg Host.Outcome.next <| (State.whenLive_live live _).trans <| by
    simp only [asked, awaited, Option.isNone_none, State.iff_true]

theorem exec_diagnosisTimeout_none {s : State} (live : s.live = true) (unasked : s.ford.diag = none) (hold : Word) :
    exec (.diagnosisTimeout hold) s = .next s :=
  congrArg Host.Outcome.next <| (State.whenLive_live live _).trans <| by simp only [unasked]

/-- Neither stand answers in time: each counts as a fault with no answer (Table 12.1). -/
theorem exec_diagnosisTimeout_both {s : State} {d : Diagnosis} (live : s.live = true) (asked : s.ford.diag = some d)
    (silentA : d.answer .a = none) (silentB : d.answer .b = none) (hold : Word) :
    exec (.diagnosisTimeout hold) s = .next (((s.answered .a 128).answered .b 128).fordDecides hold.toNat) :=
  congrArg Host.Outcome.next <| (State.whenLive_live live _).trans <| by
    simp only [asked, silentA, silentB, Option.isNone_none, State.iff_true]

/-! An outvoted copy of Ford (R433, R612). -/

/-- Ford counts an outvote of a copy. -/
def State.outvoted (s : State) (copy : Fin 3) (cycle : Nat) : State :=
  { s with ford := { s.ford with
      votes := lmod (fun n => min 1023 (n + 1)) copy.val s.ford.votes, lastOutvote := some (copy.val, cycle) } }

section
variable {s : State} {copy : Fin 3} {cycle : Nat} (live : s.live = true)
include live

theorem exec_fordOutvote_first (unmasked : s.ford.masked = none) (first : s.ford.lastOutvote = none) :
    exec (.fordOutvote copy cycle) s = .next (s.outvoted copy cycle) :=
  congrArg Host.Outcome.next <| (State.whenLive_live live _).trans <| by
    simp only [unmasked, first, State.iff_false, State.outvoted]

/-- A copy outvoted in two fabric cycles in a row is masked. -/
theorem exec_fordOutvote_again {before : Nat} (unmasked : s.ford.masked = none)
    (last : s.ford.lastOutvote = some (copy.val, before)) (next : cycle = before + 1) :
    exec (.fordOutvote copy cycle) s
      = .next ({ s.outvoted copy cycle with ford := { (s.outvoted copy cycle).ford with
          masked := some copy.val, degraded := true } }.fordEvent 810 1 copy.val) :=
  congrArg Host.Outcome.next <| (State.whenLive_live live _).trans <| by
    simp only [unmasked, last, next, decide_true, Bool.and_self, State.iff_true, State.outvoted]

theorem exec_fordOutvote_masked (masked : s.ford.masked = some copy.val) : exec (.fordOutvote copy cycle) s = .next s :=
  congrArg Host.Outcome.next <| (State.whenLive_live live _).trans <| by
    simp only [masked, ne_eq, not_true_eq_false, decide_false, Bool.false_and, State.iff_false]

theorem exec_fordOutvote_other {m : Nat} (masked : s.ford.masked = some m) (other : m ≠ copy.val)
    (quiet : s.ford.safeHold = false) :
    exec (.fordOutvote copy cycle) s
      = .next ({ s with ford := { s.ford with cause := 6 } }.safeHoldNow true s.ford.holdTime) :=
  congrArg Host.Outcome.next <| (State.whenLive_live live _).trans <| by
    simp only [masked, other, quiet, ne_eq, not_false_eq_true, decide_true, Bool.not_false, Bool.and_self, State.iff_true]

end

/-! Both answers after a divergence (Table 12.2). -/

/-- After a divergence an answer with causes shows a fault of the active stand, and one with none shows none. -/
theorem Diagnosis.faults_of_divergence {d : Diagnosis} (divergence : d.cause = 2) (silent : d.withdrew = false) (x : Stand)
    (causes a : Nat) : (d.set x causes).faults a = decide (a ≠ 0) := by
  simp [Diagnosis.faults, divergence, silent]

theorem State.answered_active {s : State} {d : Diagnosis} (asked : s.ford.diag = some d) (x : Stand) (causes : Nat) :
    (s.answered x causes).ford.active = s.ford.active := by
  rw [State.answered_ford asked]
  rfl

theorem State.answered_diag {s : State} {d : Diagnosis} (asked : s.ford.diag = some d) (x : Stand) (causes : Nat) :
    (s.answered x causes).ford.diag = some (d.set x causes) := by
  rw [State.answered_ford asked]
  rfl

section
variable {s : State} {d : Diagnosis} (asked : s.ford.diag = some d)
include asked

/-- The active stand answers after the other. -/
theorem State.answered_active_last {b : Nat} (other : d.answer s.ford.active.other = some b) (causes : Nat) :
    (s.answered s.ford.active causes).Answered (d.set s.ford.active causes) causes b where
  asked := State.answered_diag asked ..
  own := by rw [State.answered_active asked, Diagnosis.answer_set_same]
  other := by rw [State.answered_active asked, Diagnosis.answer_set_other, other]

/-- The standby answers after the active stand. -/
theorem State.answered_other_last {a : Nat} (own : d.answer s.ford.active = some a) (causes : Nat) :
    (s.answered s.ford.active.other causes).Answered (d.set s.ford.active.other causes) a causes where
  asked := State.answered_diag asked ..
  own := by rw [State.answered_active asked, Diagnosis.answer_other_set, own]
  other := by rw [State.answered_active asked, Diagnosis.answer_set_same]

/-- Neither stand has answered in time. -/
theorem State.answered_neither (causes : Nat) :
    ((s.answered .a causes).answered .b causes).Answered ((d.set .a causes).set .b causes) causes causes := by
  have answered := State.answered_diag asked .a causes
  have both (x : Stand) : ((d.set .a causes).set .b causes).answer x = some causes := by cases x <;> rfl
  exact ⟨State.answered_diag answered .b causes, both _, both _⟩

end

/-- A diagnosis that is answered leaves the update as it is. -/
theorem State.answered_idle {s : State} (idle : s.upd.activation = none) (x : Stand) (causes : Nat) :
    (s.answered x causes).upd.activation = none := by
  rw [(s.answered_keeps x causes).upd rfl, idle]

theorem State.answered_cn (s : State) (x : Stand) (causes : Nat) : (s.answered x causes).cn = s.cn :=
  (s.answered_keeps x causes).cn rfl

/-- Settles O44: each answer is the equation of its command, and both answers together lead to one of Ford's decisions
(`State.Answered`); an update does not run, so none is stopped. That an outvote of the masked copy changes nothing and that the
next outvote of another is a vote SAFE HOLD is the model's choice (log 95). -/
theorem fordDecides : Obligations.FordDecides := by
  refine ⟨?answers, ?late, ?votes⟩
  case answers =>
    intro s d causes hold live asked divergence silent idle
    have faults (x : Stand) (c a : Nat) : (d.set x c).faults a = decide (a ≠ 0) :=
      Diagnosis.faults_of_divergence divergence silent x c a
    have named : causes ≠ 0 → causes.val ≠ 0 := Fin.val_ne_zero_iff.mpr
    refine ⟨?switch, ?bothFaulty, fun awaited own => ⟨?keep, ?learn⟩, ?silence⟩
    case switch =>
      intro awaited other faulty following
      have switched := (State.answered_active_last asked other causes.val).switches
        ((faults ..).trans (decide_eq_true (named faulty))) ((State.answered_following asked ..).trans following) hold.toNat
      have kept := ((s.answered_keeps s.ford.active causes.val).mono rfl).trans
        ((s.answered s.ford.active causes.val).switchOver_keeps hold.toNat)
      rw [State.switchedFor_idle ((congrArg UpdSt.activation (kept.upd rfl)).trans idle)] at switched
      refine ⟨_, (exec_diagnosisAnswer_awaited live asked awaited causes hold).trans (congrArg _ switched), ?_⟩
      rw [State.switchOver_ford, State.answered_active asked, State.answered_ford asked, FordSt.of_drivenBy_same,
        FordSt.of_drivenBy_other, FordSt.of_withdrawn_same]
      exact ⟨rfl, rfl, rfl, rfl, rfl, rfl, rfl, rfl, kept⟩
    case bothFaulty =>
      rintro awaited ⟨b, other, bad⟩ faulty
      have decided := (State.answered_active_last asked other causes.val).safeHold
        ((faults ..).trans (decide_eq_true (named faulty))) bad hold.toNat
      obtain ⟨shows, held⟩ := State.safeHoldNow_idle (State.answered_idle idle s.ford.active causes.val) false hold.toNat
      have kept := ((s.answered_keeps s.ford.active causes.val).mono rfl).trans held
      exact ⟨_, (exec_diagnosisAnswer_awaited live asked awaited causes hold).trans (congrArg _ decided), shows.safeHold,
        shows.decision, shows.holding, shows.shadowCn.trans (s.answered_cn ..), kept.cn rfl, kept⟩
    case keep =>
      intro faulty
      have decided := (State.answered_other_last asked own causes.val).keeps (faults ..) (named faulty) hold.toNat
      obtain ⟨ford, withdrawn⟩ := State.keep_idle (State.answered_idle idle s.ford.active.other causes.val) hold.toNat
      refine ⟨_, (exec_diagnosisAnswer_awaited live asked awaited causes hold).trans (congrArg _ decided), ?_⟩
      rw [ford, State.answered_active asked, State.answered_ford asked, FordSt.of_withdrawn_same]
      exact ⟨rfl, rfl, rfl, rfl, rfl, ((s.answered_keeps ..).mono rfl).trans withdrawn⟩
    case learn =>
      rintro rfl ownImage
      have decided := (State.answered_other_last asked own 0).unresolved (faults ..) hold.toNat
      have image : ((s.answered s.ford.active.other 0).ford.of (s.answered s.ford.active.other 0).ford.active.other).otherImage
          = false := by
        rw [State.answered_active asked, State.answered_ford asked, FordSt.of_answeredBy_same]
        exact ownImage
      refine ⟨_, (exec_diagnosisAnswer_awaited live asked awaited 0 hold).trans (congrArg _ decided), ?_⟩
      rw [State.unresolved_ford image, State.answered_active asked, State.answered_ford asked, FordSt.of_learns_same]
      exact ⟨rfl, rfl, rfl, rfl, rfl, ((s.answered_keeps ..).mono rfl).trans (State.unresolved_keeps ..)⟩
    case silence =>
      intro silentA silentB
      have decided := (State.answered_neither asked 128).safeHold (faults ..) (by decide) hold.toNat
      obtain ⟨shows, held⟩ := State.safeHoldNow_idle (State.answered_idle (State.answered_idle idle .a 128) .b 128) false
        hold.toNat
      have answered : ((s.answered .a 128).answered .b 128).ford
          = (s.ford.answeredBy .a 128 d).answeredBy .b 128 (d.set .a 128) := by
        rw [State.answered_ford (State.answered_diag asked .a 128), State.answered_ford asked]
      have kept := ((s.answered_keeps .a 128).trans ((s.answered .a 128).answered_keeps .b 128)).mono rfl |>.trans held
      refine ⟨_, (exec_diagnosisTimeout_both live asked silentA silentB hold).trans (congrArg _ decided), shows.safeHold,
        shows.decision, shows.causesA.trans ?_, shows.causesB.trans ?_, kept⟩
      · rw [answered]; rfl
      · rw [answered]; rfl
  case late =>
    intro s hold live unasked
    exact exec_diagnosisTimeout_none live unasked hold
  case votes =>
    intro s copy cycle live
    refine ⟨exec_fordOutvote_first live, fun before unmasked last next => ?_, exec_fordOutvote_masked live,
      fun m masked other quiet idle => ?_⟩
    · refine ⟨_, exec_fordOutvote_again live unmasked last next, ?_⟩
      rw [State.fordEvent_ford]
      exact ⟨rfl, rfl, rfl, State.fordEvent_fr _ _ _ rfl (.refl _ s)⟩
    · obtain ⟨shows, held⟩ := State.safeHoldNow_idle (s := { s with ford := { s.ford with cause := 6 } }) idle true
        s.ford.holdTime
      exact ⟨_, exec_fordOutvote_other live masked other quiet, shows.safeHold, shows.voteHold, shows.cause, held⟩

end Sys2Proof.Machine
end
section
/-! A write of a FORD register whose fields and actions are kept for the INSTALLER (R17, Table 12.9). -/

namespace Sys2Proof.Machine

/-- A register with no range, whose fields and actions are kept for the INSTALLER and stand under no seal. -/
structure RegDesc.Guarded (d : RegDesc) : Prop where
  unsealed : d.metrology = false
  installer : d.role = .installer
  noPlain : d.rw = 0
  noPlainAction : d.wo = 0
  unbounded : d.ranges = []

theorem regOk_of_low {a : Nat} (low : a < 0x40020000) (s : State) (v : Nat) : regOk s a v = true := by
  unfold regOk
  rw [if_neg (by omega), if_neg (by omega), if_neg (by omega), if_neg (by omega), if_neg (by omega), if_neg (by omega)]

section
variable {s : State} {d : RegDesc} {a v : Nat} {w : Writer} (guarded : d.Guarded) (desc : descOf a = some d)
  (low : a < 0x40020000) (installer : w.role = .installer) (word : v < 4294967296)
include guarded desc low installer word

theorem RegDesc.Guarded.written :
    (s.writeReg a v w).2.new = merge d.rwl (s.reg a) v ∧ (s.writeReg a v w).2.act = masked d.act v := by
  have opens : d.opensTo w s.mtr.sealOpen = true := by
    simp [RegDesc.opensTo, mayLocked, guarded.installer, guarded.unsealed, installer]
  have merged : d.merged (d.opensTo w s.mtr.sealOpen) (s.reg a) (v % 4294967296) = merge d.rwl (s.reg a) v := by
    simp [RegDesc.merged, guarded.noPlain, opens, Nat.mod_eq_of_lt word]
  obtain ⟨new, act⟩ := State.ruled_of_inRanges merged (by simp [inRanges, guarded.unbounded, regOk_of_low low])
  rw [State.writeReg_written desc]
  refine ⟨new, act.trans ?_⟩
  simp [guarded.noPlainAction, opens, masked, Nat.mod_eq_of_lt word]

/-- A stored bit comes from the word written. -/
theorem RegDesc.Guarded.new_bit {i : Nat} (stored : d.rwl.testBit i = true) :
    bit i (s.writeReg a v w).2.new = v.testBit i := by
  rw [(guarded.written desc low installer word).1, bit, merge_testBit, stored, if_pos rfl]

/-- An action bit is taken where the word sets it. -/
theorem RegDesc.Guarded.act_bit {i : Nat} (action : d.act.testBit i = true) :
    bit i (s.writeReg a v w).2.act = v.testBit i := by
  rw [(guarded.written desc low installer word).2, bit, masked, Nat.testBit_and, action, Bool.and_true]

end

/-- The description of FORD_CTRL (Table 12.10). -/
def fordCtrlDesc : RegDesc :=
  { name := "FORD_CTRL", base := 0x40010000, rwl := 0x114, act := 0xB }

theorem descOf_fordCtrl : descOf 0x40010000 = some fordCtrlDesc := rfl

theorem fordCtrlDesc_guarded : fordCtrlDesc.Guarded := ⟨rfl, rfl, rfl, rfl, rfl⟩

/-- The description of FORD_CLK_CTRL (Table 12.9). -/
def clkCtrlDesc : RegDesc :=
  { name := "FORD_CLK_CTRL", base := 0x40010030, rwl := 1, act := 2 }

theorem descOf_clkCtrl : descOf 0x40010030 = some clkCtrlDesc := rfl

theorem clkCtrlDesc_guarded : clkCtrlDesc.Guarded := ⟨rfl, rfl, rfl, rfl, rfl⟩

/-- The description of FORD_LG_CTRL (Table 12.9). -/
def lgCtrlDesc : RegDesc :=
  { name := "FORD_LG_CTRL", base := 0x400100A4, act := 1 }

theorem descOf_lgCtrl : descOf 0x400100A4 = some lgCtrlDesc := rfl

theorem lgCtrlDesc_guarded : lgCtrlDesc.Guarded := ⟨rfl, rfl, rfl, rfl, rfl⟩

end Sys2Proof.Machine
end

section
/-! The reference clocks (R449), and O47. -/

namespace Sys2Proof.Machine

/-! A switch of the reference. -/

theorem clampInt_between {lo hi : Int} (bounds : lo ≤ hi) (x : Int) : lo ≤ clampInt lo hi x ∧ clampInt lo hi x ≤ hi := by
  unfold clampInt
  omega

/-- City time has moved by at most 10 ns. -/
def TimeSt.Nudged (t u : TimeSt) : Prop :=
  ∃ d : Int, -42949672960 ≤ d ∧ d ≤ 42949672960 ∧ u = { t with city := ofCityUnits ((cityUnits t.city : Int) + d).toNat }

/-- A switch of Ford's clock to a reference: it counts, and city time moves by at most 10 ns. -/
theorem State.switchClock_spec (s : State) (ref : Nat) :
    (s.switchClock ref).ford = { s.ford with ref := ref, clkSwitches := bump s.ford.clkSwitches }
      ∧ s.time.Nudged (s.switchClock ref).time
      ∧ Keeps { ford := true, freeIdx := true, time := true } s (s.switchClock ref) := by
  obtain ⟨least, most⟩ := clampInt_between (lo := -42949672960) (hi := 42949672960) (by decide) s.drawInt.1
  exact ⟨rfl, ⟨_, least, most, rfl⟩, State.switchClock_fr ref rfl (.refl _ s)⟩

/-! FORD_CLK_CTRL. -/

theorem exec_clockSelect_live {s : State} (live : s.live = true) (sel : Fin 2) (w : Writer) :
    exec (.clockSelect sel w) s = .next (s.writeClkCtrl (sel.val + 2) w).1 :=
  congrArg Host.Outcome.next (State.whenLive_live live _)

/-- The TCXO of a number is lost. -/
def FordSt.tcxoLost (f : FordSt) (sel : Fin 2) : Bool :=
  if sel = 0 then f.lostA else f.lostB

theorem FordSt.tcxoLost_val (f : FordSt) (sel : Fin 2) :
    (if sel.val = 0 then !f.lostA else !f.lostB) = !f.tcxoLost sel := by
  simp only [FordSt.tcxoLost, Fin.ext_iff, Fin.val_zero]
  split <;> rfl

/-- APPLY selects the TCXO of SEL where it is present and not in use. -/
theorem State.writeClkCtrl_apply {s : State} {w : Writer} (installer : w.role = .installer) (twin : s.build = .t) (sel : Fin 2) :
    (s.writeClkCtrl (sel.val + 2) w).1
      = if !s.ford.tcxoLost sel && decide (s.ford.ref ≠ sel.val)
        then (s.writeReg 0x40010030 (sel.val + 2) w).1.switchClock sel.val
        else (s.writeReg 0x40010030 (sel.val + 2) w).1 := by
  have word : sel.val + 2 < 4294967296 := by omega
  have bits : ∀ sel : Fin 2, field 0 0 (sel.val + 2) = sel.val ∧ (sel.val + 2).testBit 1 = true := by decide
  have chosen : field 0 0 (s.writeReg 0x40010030 (sel.val + 2) w).2.new = sel.val := by
    rw [(clkCtrlDesc_guarded.written descOf_clkCtrl (by decide) installer word).1]
    exact (field_merge _ _ (by decide : ∀ i < 0 + 1 - 0, Nat.testBit 1 (0 + i) = true)).trans (bits sel).1
  have apply : bit 1 (s.writeReg 0x40010030 (sel.val + 2) w).2.act = true :=
    (clkCtrlDesc_guarded.act_bit descOf_clkCtrl (by decide) installer word (by decide)).trans (bits sel).2
  have kept := s.writeReg_keeps 0x40010030 (sel.val + 2) w
  simp only [State.writeClkCtrl, chosen, apply, kept.ford rfl, kept.build, twin, decide_true, Bool.and_true, Bool.true_and,
    FordSt.tcxoLost_val]
  exact apply_ite Prod.fst _ _ _

/-! TCXO_LOST and TCXO_PRESENT of TCXO_A. -/

/-- The event of a change of the references. -/
def State.clockEvent (s : State) (source kind : Nat) : State :=
  s.fordEvent source kind (s.clkStatus % 65536)

theorem State.clockEvent_spec (s : State) (source kind : Nat) :
    (s.clockEvent source kind).ford = s.ford ∧ Keeps { evt := true, way := true } s (s.clockEvent source kind) :=
  ⟨s.fordEvent_ford .., s.fordEvent_keeps ..⟩

section
variable {s : State} (live : s.live = true) (there : s.ford.lostA = false)
include live there

theorem exec_tcxoLost_toB (twin : s.build = .t) (inUse : s.ford.ref = 0) (other : s.ford.lostB = false) :
    exec (.tcxoLost 0) s = .next (((s.setLost 0 true).switchClock 1).clockEvent 808 1) :=
  congrArg Host.Outcome.next <| (State.whenLive_live live _).trans <| by
    simp only [there, other, inUse, State.setLost, twin, if_true, Bool.not_false, decide_true, Bool.and_self, State.iff_true]
    rfl

theorem exec_tcxoLost_toInternal (inUse : s.ford.ref = 0) (noOther : s.ford.lostB = true) :
    exec (.tcxoLost 0) s = .next (((s.setLost 0 true).switchClock 2).clockEvent 809 1) :=
  congrArg Host.Outcome.next <| (State.whenLive_live live _).trans <| by
    simp only [there, noOther, inUse, State.setLost, if_true, Bool.not_false, Bool.not_true, Bool.false_and, State.iff_true]
    rfl

theorem exec_tcxoLost_unused (unused : s.ford.ref ≠ 0) :
    exec (.tcxoLost 0) s = .next ((s.setLost 0 true).clockEvent 809 2) :=
  congrArg Host.Outcome.next <| (State.whenLive_live live _).trans <| by
    simp only [there, State.setLost, if_true, Bool.not_false, State.iff_true]
    exact if_neg unused

end

/-- Ford shows what it counts of TCXO_B less TCXO_A. -/
def State.withOffset (s : State) (ofs : Int) : State :=
  { s with ford := { s.ford with clkOfs := ofs } }

theorem exec_tcxoPresent_lost {s : State} (live : s.live = true) (lost : s.ford.lostA = true) (ofs : Int) :
    exec (.tcxoPresent 0 ofs) s = .next (((s.setLost 0 false).withOffset ofs).clockEvent 809 3) :=
  congrArg Host.Outcome.next <| (State.whenLive_live live _).trans <| if_pos lost

theorem exec_tcxoPresent_there {s : State} (live : s.live = true) (there : s.ford.lostA = false) (ofs : Int) :
    exec (.tcxoPresent 0 ofs) s = .next s :=
  congrArg Host.Outcome.next <| (State.whenLive_live live _).trans <| if_neg (ne_true_of_eq_false there)

/-- A reference lost by Ford's clock: the switch to another, and its event. -/
theorem State.lostSwitch_spec (s : State) (ref source : Nat) :
    (((s.setLost 0 true).switchClock ref).clockEvent source 1).ford
        = { s.ford with lostA := true, ref := ref, clkSwitches := bump s.ford.clkSwitches }
      ∧ s.time.Nudged (((s.setLost 0 true).switchClock ref).clockEvent source 1).time
      ∧ Keeps { evt := true, ford := true, freeIdx := true, time := true, way := true } s
          (((s.setLost 0 true).switchClock ref).clockEvent source 1) := by
  obtain ⟨switched, nudged, kept⟩ := (s.setLost 0 true).switchClock_spec ref
  obtain ⟨shown, posted⟩ := ((s.setLost 0 true).switchClock ref).clockEvent_spec source 1
  rw [shown, posted.time rfl, switched]
  exact ⟨rfl, nudged, (State.setLost_fr 0 true rfl (kept.mono rfl)).trans (posted.mono rfl)⟩

/-- Settles O47: every switch of the reference is `State.switchClock`. The sign of the step of city time stays free. -/
theorem referenceClocksAreSelected : Obligations.ReferenceClocksAreSelected := by
  refine ⟨?select, ?lost, ?present⟩
  case select =>
    intro s sel w live canonical installer twin
    have next := exec_clockSelect_live live sel w
    rw [State.writeClkCtrl_apply installer twin] at next
    have written := s.writeReg_keeps 0x40010030 (sel.val + 2) w
    refine ⟨fun there unused => ?_, fun lost => ?_⟩
    · have selected : (!s.ford.tcxoLost sel && decide (s.ford.ref ≠ sel.val)) = true := by
        rw [FordSt.tcxoLost, there, decide_eq_true unused]; rfl
      obtain ⟨ford, nudged, switched⟩ := (s.writeReg 0x40010030 (sel.val + 2) w).1.switchClock_spec sel.val
      rw [if_pos selected] at next
      rw [written.ford rfl] at ford
      rw [written.time rfl] at nudged
      exact ⟨_, next, ford, nudged, (written.mono rfl).trans (switched.mono rfl)⟩
    · have refused : (!s.ford.tcxoLost sel && decide (s.ford.ref ≠ sel.val)) = false := by
        rw [FordSt.tcxoLost, lost]; rfl
      rw [if_neg (ne_true_of_eq_false refused)] at next
      exact ⟨_, next, written.ford rfl, written.mono rfl⟩
  case lost =>
    intro s live twin there
    refine ⟨fun inUse other => ?_, fun inUse noOther => ?_, fun unused => ?_⟩
    · exact ⟨_, exec_tcxoLost_toB live there twin inUse other, s.lostSwitch_spec 1 808⟩
    · exact ⟨_, exec_tcxoLost_toInternal live there inUse noOther, s.lostSwitch_spec 2 809⟩
    · obtain ⟨shown, posted⟩ := (s.setLost 0 true).clockEvent_spec 809 2
      exact ⟨_, exec_tcxoLost_unused live there unused, shown, posted.mono rfl⟩
  case present =>
    intro s ofs live
    refine ⟨fun lost => ?_, fun there => exec_tcxoPresent_there live there ofs⟩
    obtain ⟨shown, posted⟩ := ((s.setLost 0 false).withOffset ofs).clockEvent_spec 809 3
    exact ⟨_, exec_tcxoPresent_lost live lost ofs, shown, posted.mono rfl⟩

end Sys2Proof.Machine
end
section
/-! The installer's commands to the stands (R447, R448, R451, Table 12.10), and O46. -/

namespace Sys2Proof.Machine

/-! FORD_CTRL (Table 12.10). -/

/-- FORD_CTRL as a write leaves it, before any action: the word, its record and the preferred stand. -/
def State.fordCtrlWritten (s : State) (v : Nat) (w : Writer) : State :=
  let (s, r) := s.writeReg 0x40010000 v w
  let pref : Stand := if bit 8 r.new && decide (s.build = Build.t) then .b else .a
  { s with ford := { s.ford with pref := pref } }

theorem State.fordCtrlWritten_ford (s : State) (v : Nat) (w : Writer) :
    ∃ p, (s.fordCtrlWritten v w).ford = { s.ford with pref := p } := by
  refine ⟨(s.fordCtrlWritten v w).ford.pref, ?_⟩
  simp only [State.fordCtrlWritten, (s.writeReg_keeps 0x40010000 v w).ford rfl]

theorem State.fordCtrlWritten_keeps (s : State) (v : Nat) (w : Writer) :
    Keeps { evt := true, ford := true, regs := true, way := true } s (s.fordCtrlWritten v w) :=
  (s.writeReg_keeps 0x40010000 v w).mono rfl

/-- A change of the preferred stand leaves both stands' records. -/
theorem State.of_fordCtrlWritten (s : State) (v : Nat) (w : Writer) (x : Stand) :
    (s.fordCtrlWritten v w).ford.of x = s.ford.of x := by
  obtain ⟨p, ford⟩ := s.fordCtrlWritten_ford v w
  rw [ford]
  cases x <;> rfl

section
variable {s : State} {v : Nat} {w : Writer} (installer : w.role = .installer) (word : v < 4294967296)
include installer word

/-- The bits of FORD_CTRL that a write takes: the actions SWITCH, RESUME and RELEASE, and the fields FORCE and STAND. -/
theorem fordCtrl_bits :
    bit 0 (s.writeReg 0x40010000 v w).2.act = v.testBit 0 ∧ bit 1 (s.writeReg 0x40010000 v w).2.act = v.testBit 1
      ∧ bit 3 (s.writeReg 0x40010000 v w).2.act = v.testBit 3 ∧ bit 2 (s.writeReg 0x40010000 v w).2.new = v.testBit 2
      ∧ bit 4 (s.writeReg 0x40010000 v w).2.new = v.testBit 4 :=
  have g := fordCtrlDesc_guarded
  ⟨g.act_bit descOf_fordCtrl (by decide) installer word (by decide),
    g.act_bit descOf_fordCtrl (by decide) installer word (by decide),
    g.act_bit descOf_fordCtrl (by decide) installer word (by decide),
    g.new_bit descOf_fordCtrl (by decide) installer word (by decide),
    g.new_bit descOf_fordCtrl (by decide) installer word (by decide)⟩

theorem State.writeFordCtrl_switch (switch : v.testBit 0 = true) (noResume : v.testBit 1 = false) (noRelease : v.testBit 3 = false)
    (agree : Bool) (out : Nat) : (s.writeFordCtrl v w agree out).1 = ((s.fordCtrlWritten v w).askSwitch w).1 := by
  obtain ⟨act0, act1, act3, -, -⟩ := fordCtrl_bits (s := s) installer word
  simp only [State.writeFordCtrl, act0, act1, act3, switch, noResume, noRelease, State.iff_false, if_true]
  rfl

theorem State.writeFordCtrl_resume (noSwitch : v.testBit 0 = false) (resume : v.testBit 1 = true) (noRelease : v.testBit 3 = false)
    (agree : Bool) (out : Nat) :
    (s.writeFordCtrl v w agree out).1
      = (s.fordCtrlWritten v w).resumeWith (if v.testBit 4 then .b else .a) (v.testBit 2) agree out w := by
  obtain ⟨act0, act1, act3, force, stand⟩ := fordCtrl_bits (s := s) installer word
  simp only [State.writeFordCtrl, act0, act1, act3, noSwitch, resume, noRelease, force, stand, State.iff_true, State.iff_false,
    Bool.false_eq_true, if_false]
  rfl

theorem State.writeFordCtrl_release (noSwitch : v.testBit 0 = false) (noResume : v.testBit 1 = false)
    (release : v.testBit 3 = true) (agree : Bool) (out : Nat) :
    (s.writeFordCtrl v w agree out).1 = (s.fordCtrlWritten v w).releaseStand (if v.testBit 4 then .b else .a) := by
  obtain ⟨act0, act1, act3, -, stand⟩ := fordCtrl_bits (s := s) installer word
  simp only [State.writeFordCtrl, act0, act1, act3, noSwitch, noResume, release, stand, State.iff_true, State.iff_false,
    Bool.false_eq_true, if_false]
  rfl

end

/-! The words that the commands write. -/

/-- SWITCH, with the stored fields as they stand. -/
def State.switchWord (s : State) : Nat :=
  merge 0x114 1 (s.reg 0x40010000)

theorem State.switchWord_lt (s : State) : s.switchWord < 4294967296 :=
  merge_lt _ (by decide) (by decide)

theorem State.switchWord_bits (s : State) :
    s.switchWord.testBit 0 = true ∧ s.switchWord.testBit 1 = false ∧ s.switchWord.testBit 3 = false := by
  simp only [State.switchWord, merge_testBit]
  exact ⟨rfl, rfl, rfl⟩

theorem State.fordWord_lt (s : State) {act : Nat} (small : act < 16) (force : Bool) (x : Stand) :
    s.fordWord act force x < 4294967296 := by
  refine merge_lt _ (by decide) ?_
  have flagged : flag force 2 ≤ 4 := by cases force <;> decide
  have numbered : x.number ≤ 1 := by cases x <;> decide
  omega

/-- Every bit of the word but the stored preference comes from the command. -/
theorem State.fordWord_testBit (s : State) (act : Nat) (force : Bool) (x : Stand) {i : Nat} (other : Nat.testBit 0x100 i = false) :
    (s.fordWord act force x).testBit i = (act + flag force 2 + x.number * 16).testBit i := by
  rw [State.fordWord, merge_testBit, other]
  rfl

section
variable {s : State} {w : Writer} (installer : w.role = .installer)
include installer

/-- RESUME with FORCE and STAND. -/
theorem State.writeFordCtrl_resumeWord (force agree : Bool) (x : Stand) (out : Nat) :
    (s.writeFordCtrl (s.fordWord 2 force x) w agree out).1
      = (s.fordCtrlWritten (s.fordWord 2 force x) w).resumeWith x force agree out w := by
  have bits (i : Nat) (other : Nat.testBit 0x100 i = false) := s.fordWord_testBit 2 force x other
  have named : (if (s.fordWord 2 force x).testBit 4 then Stand.b else .a) = x := by
    rw [bits 4 rfl]; cases force <;> cases x <;> rfl
  have forced : (s.fordWord 2 force x).testBit 2 = force := by
    rw [bits 2 rfl]; cases force <;> cases x <;> rfl
  rw [State.writeFordCtrl_resume installer (s.fordWord_lt (by decide) force x), named, forced]
  · rw [bits 0 rfl]; cases force <;> cases x <;> rfl
  · rw [bits 1 rfl]; cases force <;> cases x <;> rfl
  · rw [bits 3 rfl]; cases force <;> cases x <;> rfl

/-- RELEASE of STAND. -/
theorem State.writeFordCtrl_releaseWord (agree : Bool) (x : Stand) (out : Nat) :
    (s.writeFordCtrl (s.fordWord 8 false x) w agree out).1 = (s.fordCtrlWritten (s.fordWord 8 false x) w).releaseStand x := by
  have bits (i : Nat) (other : Nat.testBit 0x100 i = false) := s.fordWord_testBit 8 false x other
  have named : (if (s.fordWord 8 false x).testBit 4 then Stand.b else .a) = x := by
    rw [bits 4 rfl]; cases x <;> rfl
  rw [State.writeFordCtrl_release installer (s.fordWord_lt (by decide) false x), named]
  · rw [bits 0 rfl]; cases x <;> rfl
  · rw [bits 1 rfl]; cases x <;> rfl
  · rw [bits 3 rfl]; cases x <;> rfl

end

/-! SWITCH (R448). -/

theorem State.askSwitch_allowed {s : State} (twin : s.build = .t) (allowed : s.switchAllowed s.ford.active.other = true)
    (w : Writer) : (s.askSwitch w).1 = s.requestSwitch s.ford.active.other (s.cycAfter 2) false w.role := by
  simp [State.askSwitch, twin, allowed]

theorem State.askSwitch_refused {s : State} (barred : s.build = .s ∨ s.switchAllowed s.ford.active.other = false) (w : Writer) :
    (s.askSwitch w).1.ford = s.ford := by
  have refused : (if s.build = .s then Reason.unsupported
      else if s.switchAllowed s.ford.active.other then .ok else .busy) ≠ .ok := by
    rcases barred with single | busy
    · rw [if_pos single]; decide
    · rw [busy]; split <;> decide
  unfold State.askSwitch
  extract_lets x reason
  rw [if_neg refused]
  exact (State.recordAs_keeps ..).ford rfl

/-- The conditions of a planned switch read the stands, SAFE HOLD and the clearing that runs. -/
theorem State.switchAllowed_fordCtrlWritten (s : State) (v : Nat) (w : Writer) (x : Stand) :
    (s.fordCtrlWritten v w).switchAllowed x = s.switchAllowed x := by
  obtain ⟨p, ford⟩ := s.fordCtrlWritten_ford v w
  have held : (s.fordCtrlWritten v w).ford.safeHold = s.ford.safeHold := by rw [ford]
  simp only [State.switchAllowed, s.of_fordCtrlWritten, held, (s.fordCtrlWritten_keeps v w).can rfl]

theorem State.cycAfter_fordCtrlWritten (s : State) (v : Nat) (w : Writer) (n : Nat) :
    (s.fordCtrlWritten v w).cycAfter n = s.cycAfter n := by
  simp only [State.cycAfter, (s.fordCtrlWritten_keeps v w).cn rfl, (s.fordCtrlWritten_keeps v w).time rfl]

/-! RESUME (R447). -/

/-- A stand serves alone, out of SAFE HOLD. -/
structure FordSt.ServedBy (f : FordSt) (x : Stand) : Prop where
  released : f.safeHold = false
  active : f.active = x
  serves : (f.of x).state = .active

/-- The other stand's learning leaves the stand that serves. -/
theorem FordSt.ServedBy.beginLearning {s : State} {x : Stand} (h : s.ford.ServedBy x) :
    (s.beginLearning x.other).ford.ServedBy x := by
  cases own : (s.ford.of x.other).otherImage with
  | true =>
    have waits : (s.beginLearning x.other).ford
        = s.ford.modStand x.other fun r => { r with testing := false, retry := false, rewriting := true } := by
      rw [State.beginLearning, if_pos own, State.modStand_ford]
    rw [waits]
    exact ⟨h.released, h.active, by rw [FordSt.of_other_modStand]; exact h.serves⟩
  | false =>
    rw [State.beginLearning_ford own]
    refine ⟨h.released, h.active, Eq.trans ?_ h.serves⟩
    cases x <;> rfl

/-- A stand that has restarted takes over from SAFE HOLD. -/
def State.leaveSafeHold (s : State) (x : Stand) (role : Role) : State :=
  let s := s.modStand x fun r => { r with testing := false, retry := false, passed := false }
  let s := { s with ford := { s.ford with
    safeHold := false, voteHold := false, active := x, resume := none } }
  let s := s.setStand x .active
  s.fordEventAs role 806 1 (s.cn % 4294967296)

theorem State.leaveSafeHold_servedBy (s : State) (x : Stand) (role : Role) : (s.leaveSafeHold x role).ford.ServedBy x := by
  simp only [State.leaveSafeHold, State.fordEventAs_ford, State.setStand_ford]
  exact ⟨rfl, rfl, by rw [FordSt.of_modStand_same]⟩

theorem State.returnStand_servedBy (s : State) (x : Stand) (role : Role) : (s.returnStand x role).ford.ServedBy x := by
  have serves := ((s.countRestart x).restart 7).leaveSafeHold_servedBy x role
  change State.ford (if _ then State.beginLearning (State.modStand (State.leaveSafeHold _ x role) _ _) _
    else State.leaveSafeHold _ x role) |>.ServedBy x
  split
  · refine FordSt.ServedBy.beginLearning ?_
    rw [State.modStand_ford]
    exact ⟨serves.released, serves.active, by rw [FordSt.of_other_modStand]; exact serves.serves⟩
  · exact serves

/-- RESUME of a withdrawn stand, in a SAFE HOLD that is no vote's. -/
theorem State.resumeWith_withdrawn {s : State} {x : Stand} (held : s.ford.safeHold = true) (agreed : s.ford.voteHold = false)
    (withdrawn : (s.ford.of x).state = .withdrawn) (force agree : Bool) (out : Nat) (w : Writer) :
    s.resumeWith x force agree out w
      = if (s.ford.of x).passed then s.returnStand x .nobody else if force then s.returnStand x w.role
        else { s with ford := { s.ford with resume := some x } } := by
  have voted : s.voteAgain agree out = s := if_pos (by rw [agreed]; rfl)
  simp only [State.resumeWith, held, withdrawn, voted, agreed, decide_true, Bool.true_or, Bool.true_eq_false, or_self,
    Bool.false_eq_true, if_false]

/-! RELEASE (Table 12.3). -/

theorem State.releaseStand_ford {s : State} {x : Stand} (quarantined : (s.ford.of x).state = .quarantined) :
    (s.releaseStand x).ford = s.ford.modStand x fun r => { r with
      state := .withdrawn, withdrawals := [], testing := true, retry := false, passed := false } := by
  rw [State.releaseStand, if_pos quarantined, State.modStand_ford, State.setStand_ford]
  cases x <;> rfl

/-! FORD_LG_CTRL (R451). -/

theorem exec_lastgaspClear_installer {s : State} {w : Writer} (live : s.live = true) (installer : w.role = .installer) :
    exec (.lastgaspClear w) s
      = .next { (s.writeReg 0x400100A4 1 w).1 with ford := { (s.writeReg 0x400100A4 1 w).1.ford with lgValid := false } } :=
  congrArg Host.Outcome.next <| (State.whenLive_live live _).trans <| if_pos <|
    (lgCtrlDesc_guarded.act_bit descOf_lgCtrl (by decide) installer (by decide) (i := 0) (by decide)).trans rfl

/-! The commands. -/

theorem exec_plannedSwitchRequest_installer {s : State} {w : Writer} (live : s.live = true) (installer : w.role = .installer) :
    exec (.plannedSwitchRequest w) s = .next ((s.fordCtrlWritten s.switchWord w).askSwitch w).1 := by
  obtain ⟨switch, noResume, noRelease⟩ := s.switchWord_bits
  exact congrArg Host.Outcome.next <| (State.whenLive_live live _).trans <|
    State.writeFordCtrl_switch installer s.switchWord_lt switch noResume noRelease true 0

theorem exec_safeHoldResume_installer {s : State} {w : Writer} (live : s.live = true) (installer : w.role = .installer)
    (x : Stand) (agree : Bool) (out : Fin 3) :
    exec (.safeHoldResume x agree out w) s
      = .next ((s.fordCtrlWritten (s.fordWord 2 false x) w).resumeWith x false agree out w) :=
  congrArg Host.Outcome.next <| (State.whenLive_live live _).trans <| State.writeFordCtrl_resumeWord installer ..

theorem exec_safeHoldResumeForce_installer {s : State} {w : Writer} (live : s.live = true) (installer : w.role = .installer)
    (x : Stand) (agree : Bool) (out : Fin 3) :
    exec (.safeHoldResumeForce x agree out w) s
      = .next ((s.fordCtrlWritten (s.fordWord 2 true x) w).resumeWith x true agree out w) :=
  congrArg Host.Outcome.next <| (State.whenLive_live live _).trans <| State.writeFordCtrl_resumeWord installer ..

theorem exec_standRelease_installer {s : State} {w : Writer} (live : s.live = true) (installer : w.role = .installer) (x : Stand) :
    exec (.standRelease x w) s = .next ((s.fordCtrlWritten (s.fordWord 8 false x) w).releaseStand x) :=
  congrArg Host.Outcome.next <| (State.whenLive_live live _).trans <| State.writeFordCtrl_releaseWord installer ..

/-- Settles O46: each command is its write of FORD_CTRL or FORD_LG_CTRL and the one action it takes. The CN of a planned switch
(log 138) and that CLEAR leaves MORE (log 92) are the model's choices. -/
theorem installersCommandTheStands : Obligations.InstallersCommandTheStands := by
  refine ⟨?commands, ?resume, ?release⟩
  case commands =>
    intro s w live canonical installer
    obtain ⟨p, ford⟩ := s.fordCtrlWritten_ford s.switchWord w
    have kept := s.fordCtrlWritten_keeps s.switchWord w
    have active : (s.fordCtrlWritten s.switchWord w).ford.active = s.ford.active := by rw [ford]
    have next := exec_plannedSwitchRequest_installer live installer
    refine ⟨fun twin allowed => ?_, fun barred => ?_, ?_⟩
    · rw [State.askSwitch_allowed (kept.build.trans twin)
        (by rw [active, State.switchAllowed_fordCtrlWritten, allowed]), active, State.cycAfter_fordCtrlWritten, installer] at next
      exact ⟨_, next, active, rfl, State.requestSwitch_fr _ _ _ _ rfl kept⟩
    · have same : ((s.fordCtrlWritten s.switchWord w).askSwitch w).1.ford = (s.fordCtrlWritten s.switchWord w).ford := by
        refine State.askSwitch_refused ?_ w
        rwa [kept.build, active, State.switchAllowed_fordCtrlWritten]
      refine ⟨_, next, ?_, ?_, State.askSwitch_fr w rfl kept⟩
      · rw [same, ford]
      · rw [same, active]
    · have written := s.writeReg_keeps 0x400100A4 1 w
      refine ⟨_, exec_lastgaspClear_installer live installer, ?_, written.mono rfl⟩
      rw [written.ford rfl]
  case resume =>
    intro s x agree out w live canonical installer held agreed withdrawn
    have resumes (v : Nat) (force : Bool) : (s.fordCtrlWritten v w).resumeWith x force agree out w
        = if (s.ford.of x).passed then (s.fordCtrlWritten v w).returnStand x .nobody
          else if force then (s.fordCtrlWritten v w).returnStand x w.role
          else { s.fordCtrlWritten v w with ford := { (s.fordCtrlWritten v w).ford with resume := some x } } := by
      obtain ⟨p, ford⟩ := s.fordCtrlWritten_ford v w
      have same := s.of_fordCtrlWritten v w x
      rw [State.resumeWith_withdrawn (by rw [ford, held]) (by rw [ford, agreed]) (by rw [same, withdrawn]), same]
    have next := exec_safeHoldResume_installer live installer x agree out
    have forced := exec_safeHoldResumeForce_installer live installer x agree out
    rw [resumes] at next forced
    refine ⟨fun passed => ?_, fun untested => ?_, ?_⟩
    · rw [if_pos passed] at next
      obtain ⟨released, active, serves⟩ := State.returnStand_servedBy (s.fordCtrlWritten (s.fordWord 2 false x) w) x .nobody
      exact ⟨_, next, released, active, serves⟩
    · rw [if_neg (ne_true_of_eq_false untested), if_neg Bool.false_ne_true] at next
      obtain ⟨p, ford⟩ := s.fordCtrlWritten_ford (s.fordWord 2 false x) w
      have waits : ({ (s.fordCtrlWritten (s.fordWord 2 false x) w).ford with resume := some x } : FordSt)
          = { s.ford with pref := p, resume := some x } := by rw [ford]
      refine ⟨_, next, ?_⟩
      rw [waits]
      refine ⟨held, rfl, Eq.trans ?_ withdrawn, (s.fordCtrlWritten_keeps _ w).trans rfl⟩
      cases x <;> rfl
    · rw [if_pos rfl, ← apply_ite (State.returnStand _ x)] at forced
      obtain ⟨released, active, serves⟩ := State.returnStand_servedBy (s.fordCtrlWritten (s.fordWord 2 true x) w) x
        (if (s.ford.of x).passed then .nobody else w.role)
      exact ⟨_, forced, released, active, serves⟩
  case release =>
    intro s x w live canonical installer quarantined
    have kept := s.fordCtrlWritten_keeps (s.fordWord 8 false x) w
    have same := s.of_fordCtrlWritten (s.fordWord 8 false x) w
    refine ⟨_, exec_standRelease_installer live installer x, ?_⟩
    rw [State.releaseStand_ford ((congrArg StandSt.state (same x)).trans quarantined), FordSt.of_modStand_same,
      FordSt.of_modStand_other]
    exact ⟨rfl, rfl, rfl, same x.other, State.releaseStand_fr x rfl kept⟩

end Sys2Proof.Machine
end

section
/-! The interface of the module: what a step does, and what every command leaves alone (O56, O57, O59). -/

namespace Sys2Proof.Machine

/-- Settles O56. With none waiting the module idles by the model's choice (log 5); reset leaves no command waiting. -/
theorem stepRunsTheFrontCommand : Obligations.StepRunsTheFrontCommand := by
  refine ⟨fun _ _ _ => rfl, fun s none => ?_, rfl⟩
  simp only [step, none]

/-- Settles O57: each command of the table has a meaning that answers a next state, where its condition fails or no stand runs
the state as it was (logs 6 and 8, the model's choice). -/
theorem everyCommandCompletes : Obligations.EveryCommandCompletes := by
  intro i s
  cases i <;> exact ⟨_, rfl⟩

/-- Settles O59 by `exec_evolves`. The trace of what has been sent is the model's own (log 4), and the build is fixed (log 2). -/
theorem commandsOnlyAddToTheOutput : Obligations.CommandsOnlyAddToTheOutput := by
  intro i s t next
  obtain ⟨-, build, pending, sent⟩ := exec_evolves next
  exact ⟨sent, build, pending⟩

end Sys2Proof.Machine
end

section
/-! The stop of the stands (R579), and O55. -/

namespace Sys2Proof.Machine

/-- Power has failed and no input has come back: the stands stop, with the pins off, and the reserve feeds the retention
domain (R578, R579). -/
def State.stopped (s : State) : State :=
  { s.pinsOff with sys := { s.sys with
    phase := .off, storeMj := 0, storeReady := false, recharging := false, retentionFed := true } }

theorem exec_holdoverStop_spent {s : State} (live : s.live = true) (unsupplied : s.supplied = false)
    (failed : s.sys.powerFail = true) : exec .holdoverStop s = .next s.stopped :=
  congrArg Host.Outcome.next <| (State.whenLive_live live _).trans <| if_pos (by rw [failed, unsupplied]; rfl)

theorem State.stopped_drives_off (s : State) : ∀ k ∈ s.stopped.dim.contactors, k.drive = false := by
  intro k listed
  obtain ⟨before, -, rfl⟩ := List.mem_map.1 listed
  rfl

theorem State.stopped_gates_low (s : State) : ∀ c ∈ s.stopped.drv.chs, c.amplitude = 0 ∧ c.duty = 0 := by
  intro c listed
  obtain ⟨before, -, rfl⟩ := List.mem_map.1 listed
  exact ⟨rfl, rfl⟩

/-- Settles O55: the stop keeps every contactor and turns its drive off. -/
theorem contactorsAreOpenAtTheStop : Obligations.ContactorsAreOpenAtTheStop := fun s live unsupplied failed =>
  ⟨_, exec_holdoverStop_spent live unsupplied failed, List.length_map _, s.stopped_drives_off⟩

end Sys2Proof.Machine
end

section
/-! Roles of the service monitor (R539, R540), and O52. -/

namespace Sys2Proof.Machine

/-! A line that was heard. -/

/-- What hearing a line changes of the monitor: the instant of the last input, the rate in force, and the counts of OPERATOR's
uses. -/
theorem State.used_mon (s : State) (u : MonUse) : ∃ reads others, (s.used u).mon = { s.mon with
    lastInput := s.cn, baud := s.mon.nextBaud.getD s.mon.baud, nextBaud := none, reads := reads, others := others } := by
  by_cases operator : s.mon.role = .operator
  · cases u <;> simp only [State.used, MonSt.use, MonSt.input, operator, if_true] <;> exact ⟨_, _, rfl⟩
  · simp only [State.used, MonSt.use, MonSt.input, operator, if_false]
    exact ⟨_, _, rfl⟩

theorem State.ok_mem_answer (s : State) (lines : List String) : Output.line "OK" ∈ (s.answer lines .ok).out := by
  simp [State.answer_ok_out]

theorem State.answer_done_out (s : State) : (s.answer [] .ok).out = s.out ++ [.line "OK", .line "> "] := by
  rw [State.answer_ok_out, List.map_nil, List.append_nil]

/-! Login (R539). -/

/-- The monitor waits for the proof of a nonce, or for none. -/
def State.withNonce (s : State) (n : Option Nonce) : State :=
  { s with mon := { s.mon with nonce := n } }

/-- The nonce that a login draws. -/
def State.freshNonce (s : State) (role : Role) : Nonce :=
  { role := role, value := s.drawRandom.1, at_ := s.cn }

/-- A login is answered with its fresh nonce. -/
def State.offersNonce (s : State) (role : Role) : State :=
  (s.drawRandom.2.withNonce (some (s.freshNonce role))).answer
    ["NONCE " ++ hexOctets ((octets256 s.drawRandom.1).take 16)] .ok

theorem State.offersNonce_spec (s : State) (role : Role) :
    (s.offersNonce role).mon = { s.mon with nonce := some (s.freshNonce role) }
      ∧ Keeps { freeIdx := true, mon := true, out := true } s (s.offersNonce role) :=
  ⟨rfl, State.answer_fr _ _ rfl rfl⟩

theorem exec_monLogin_served {s : State} (h : s.Served) {role : Role} (named : role ≠ .nobody) :
    exec (.monLogin role) s = .next ((s.used .other).offersNonce role) :=
  h.next false rfl (decide_eq_true named) fun x => x.offersNonce role

/-! Proof (R539). -/

/-- A proof that answers its nonce: in time, under the LIVE slot of its role, and equal to what the module computes. -/
def State.proves (s : State) (n : Nonce) (proof : List Byte) : Bool :=
  s.cn ≤ n.at_ + 250 && s.slotLive (roleSlot n.role) && decide (proof = s.proofOf n.role 1 (s.monInput n))

theorem exec_monProof_served {s : State} (h : s.Served) {n : Nonce} (asked : s.mon.nonce = some n) {proof : List Byte}
    (size : proof.length = 32) :
    exec (.monProof proof) s = .next (if s.proves n proof then ((s.used .other).withNonce none).monGrant n
      else ((s.used .other).withNonce none).monProofFails n.role) := by
  obtain ⟨reads, others, used⟩ := s.used_mon .other
  have waits : (s.used .other).mon.nonce = some n := by rw [used, ← asked]
  refine (h.next false rfl (decide_eq_true size) _).trans ?_
  simp only [waits]
  rfl

theorem State.length_proofOf (s : State) (r : Role) (who : Byte) (m : List Byte) : (s.proofOf r who m).length = 32 := rfl

/-- The monitor returns to no role with its counts at zero, whatever is recorded of OPERATOR's uses. -/
theorem State.dropRole_mon (s : State) : s.dropRole.mon = { s.mon with role := .nobody, reads := 0, others := 0 } := by
  have noted := (s.iff_recordAs_keeps (decide (s.mon.reads + s.mon.others ≠ 0)) .operator 0x0408 0x05 .ok
    (le 2 8 ++ le 2 0 ++ le 2 s.mon.reads ++ le 2 s.mon.others)).mon rfl
  simp only [State.dropRole, noted]

theorem State.recordProof_mon (s : State) (r : Role) (ok : Bool) (source path : Nat) :
    (s.recordProof r ok source path).mon = s.mon :=
  (State.recordProof_fr (bl := { evt := true, way := true }) r ok source path rfl (.refl _ s)).mon rfl

/-- A granted login holds its role; the nonce stays as it was. -/
theorem State.monGrant_mon (s : State) (n : Nonce) :
    (s.monGrant n).mon.role = n.role ∧ (s.monGrant n).mon.nonce = s.mon.nonce := by
  refine ⟨rfl, ?_⟩
  have counted : ((s.countProof n.role true).recordProof n.role true 0x0408 8).mon = s.mon := State.recordProof_mon ..
  simp only [State.monGrant, State.answer, State.emits, State.iff]
  split
  · rw [State.dropRole_mon, counted]
  · rw [counted]

/-- The first violation within 1,000 cycles is only counted (R538). -/
theorem State.monViolation_first {s : State} (unblamed : s.mon.violations = []) (reason : Reason) :
    s.monViolation reason = { s.answer [] reason with mon := { s.mon with violations := [s.cn] } } := by
  simp only [State.monViolation, unblamed]
  rfl

/-- A refused login counts in the role's counter and as a violation. -/
theorem State.monProofFails_first {s : State} (unblamed : s.mon.violations = []) (r : Role) :
    (s.monProofFails r).mon = { s.mon with violations := [s.cn] } ∧ (s.monProofFails r).key = (s.countProof r false).key := by
  let noted := (s.countProof r false).recordProof r false 0x0408 8
  have kept : Keeps { evt := true, way := true } (s.countProof r false) noted :=
    State.recordProof_fr r false 0x0408 8 rfl (.refl _ _)
  have mon : noted.mon = s.mon := kept.mon rfl
  have failed : s.monProofFails r = { noted.answer [] .notAuthorised with mon := { noted.mon with violations := [noted.cn] } } :=
    State.monViolation_first (by rw [mon, unblamed]) .notAuthorised
  rw [failed]
  exact ⟨by rw [mon, kept.cn rfl]; rfl, kept.key rfl⟩

/-! The nonce lapses (R539). -/

theorem exec_monProofLapse_waiting {s : State} {n : Nonce} (live : s.live = true) (asked : s.mon.nonce = some n) :
    exec .monProofLapse s = .next (if n.at_ + 250 < s.cn then s.withNonce none else s) := by
  refine congrArg Host.Outcome.next ((State.whenLive_live live _).trans ?_)
  simp only [asked, State.iff, decide_eq_true_eq]
  rfl

/-! Logout, baud and sel (R540). -/

theorem exec_monLogout_served {s : State} (h : s.Served) :
    exec .monLogout s = .next ((s.used .other).dropRole.answer [] .ok) :=
  h.next false rfl rfl fun x => x.dropRole.answer [] .ok

/-- The rate for the lines after this one. -/
def State.withNextBaud (s : State) (rate : Nat) : State :=
  { s with mon := { s.mon with nextBaud := some rate } }

theorem exec_monBaud_served {s : State} (h : s.Served) {rate : Nat} (listed : rate ∈ monRates) :
    exec (.monBaud rate) s = .next (((s.used .other).withNextBaud rate).answer [] .ok) :=
  h.next false rfl (List.contains_iff_mem.2 listed) fun x => (x.withNextBaud rate).answer [] .ok

/-- The stand whose registers the monitor reads. -/
def State.withSel (s : State) (stand : Stand) : State :=
  { s with mon := { s.mon with sel := stand } }

theorem exec_monSel_served {s : State} (h : s.Served) {stand : Stand} (role : s.mon.role ≠ .nobody)
    (built : stand = .a ∨ s.build = .t) :
    exec (.monSel stand) s = .next (((s.used .other).withSel stand).answer [] .ok) := by
  have good : (decide (stand = .a) || decide (s.build = .t)) = true := by simpa using built
  exact h.next false (MonNeed.read_holds role) good fun x => (x.withSel stand).answer [] .ok

/-- Settles O52: each command acts on a module that differs by the counted use alone (`State.Served.next`). That a failed proof
is a counted violation, and a lapsed one is none, is the model's choice (log 117). -/
theorem monitorRolesAreGranted : Obligations.MonitorRolesAreGranted := by
  refine ⟨?login, ?proof, ?lapse, ?commands⟩
  case login =>
    intro s role live heard booted named
    obtain ⟨reads, others, used⟩ := s.used_mon .other
    obtain ⟨mon, kept⟩ := (s.used .other).offersNonce_spec role
    refine ⟨_, s.drawRandom.1, exec_monLogin_served ⟨live, heard, booted⟩ named, ?_, ?_, State.ok_mem_answer _ _, ?_⟩
    · rw [mon]; rfl
    · rw [mon, used]
    · exact Keeps.trans rfl kept
  case proof =>
    intro s n live heard booted asked inTime slot
    have next (proof : List Byte) := exec_monProof_served ⟨live, heard, booted⟩ asked (proof := proof)
    obtain ⟨reads, others, used⟩ := s.used_mon .other
    refine ⟨?_, fun proof size wrong unblamed => ?_⟩
    · have proves : s.proves n (s.proofOf n.role 1 (s.monInput n)) = true := by simp [State.proves, inTime, slot]
      have granted := next _ (s.length_proofOf n.role 1 (s.monInput n))
      rw [if_pos proves] at granted
      obtain ⟨role, nonce⟩ := ((s.used .other).withNonce none).monGrant_mon n
      exact ⟨_, granted, role, nonce, State.ok_mem_answer _ _, execMonProof_fr _ granted rfl (.refl _ s)⟩
    · have fails : s.proves n proof = false := by rw [State.proves, decide_eq_false wrong, Bool.and_false]
      have refused := next proof size
      rw [if_neg (ne_true_of_eq_false fails)] at refused
      obtain ⟨mon, key⟩ := State.monProofFails_first (s := (s.used .other).withNonce none)
        (by rw [State.withNonce, used, unblamed]) n.role
      refine ⟨_, refused, ?_, ?_, ?_, key, execMonProof_fr _ refused rfl (.refl _ s)⟩
      · rw [mon, State.withNonce, used]
      · rw [mon]; rfl
      · rw [mon]; rfl
  case lapse =>
    intro s n live asked
    have next := exec_monProofLapse_waiting live asked
    exact ⟨fun late => by rw [next, if_pos late]; rfl, fun inTime => by rw [next, if_neg (Nat.not_lt_of_le inTime)]⟩
  case commands =>
    intro s live heard booted
    have served : s.Served := ⟨live, heard, booted⟩
    obtain ⟨reads, others, used⟩ := s.used_mon .other
    refine ⟨?logout, fun rate listed => ?baud, fun stand role built => ?sel⟩
    case logout =>
      have next := exec_monLogout_served served
      exact ⟨_, next, rfl, rfl, rfl, State.ok_mem_answer _ _, execMonLogout_fr next rfl (.refl _ s)⟩
    case baud =>
      exact ⟨_, exec_monBaud_served served listed, rfl, congrArg MonSt.baud used, State.answer_done_out _,
        State.answer_fr _ _ rfl rfl⟩
    case sel =>
      have held : (s.used .other).mon.role = s.mon.role := by rw [used]
      exact ⟨_, exec_monSel_served served role built, rfl, held, State.answer_done_out _,
        State.answer_fr _ _ rfl rfl⟩

end Sys2Proof.Machine
end

section
/-! The recorder stages happenings and commits them (R527 to R529, R532), and O15. -/

namespace Sys2Proof.Machine

/-! A happening enters the waybill (R528, R529). -/

/-- The happening that a command tells of the stand that serves. -/
def State.ownHappening (s : State) (role : Role) (source id : Nat) (reason : Reason) (tagged : Bool) (payload : List Byte) : Rec :=
  let stand : Stand := if s.build = .s then .a else s.ford.active
  { s.happening source id reason role payload with stand := stand, tagged := tagged, partner := decide (stand ≠ s.ford.active) }

theorem exec_waybillHappening_own {s : State} (live : s.live = true) (role : Role) (source id : Nat) (reason : Reason)
    (tagged : Bool) (payload : List Byte) (tick : Nat) :
    exec (.waybillHappening s.ford.active role source id reason tagged payload tick) s
      = .next ((s.advanceTo tick).enter ((s.advanceTo tick).ownHappening role source id reason tagged payload)) :=
  congrArg Host.Outcome.next (State.whenLive_live live _)

/-- What a happening counts as identical to (R528). -/
theorem State.folds_ownHappening {s : State} {role : Role} {source id : Nat} {reason : Reason} {tagged : Bool} {payload : List Byte}
    {r : Rec} : s.folds (s.ownHappening role source id reason tagged payload) (some r) = true
      ↔ source = r.source ∧ id = r.id ∧ reason = r.reason ∧ padTo 12 payload = padTo 12 r.payload
        ∧ s.cn ≤ r.cn + s.secondsInCycles 10 := by
  simp [State.folds, sameHappening, State.ownHappening, State.happening, and_assoc]

theorem foldLast_concat (l : List Rec) (r : Rec) : foldLast (l ++ [r]) = l ++ [{ r with count := satAdd 65535 r.count 1 }] := by
  induction l with
  | nil => rfl
  | cons a l ih =>
    have more : foldLast (a :: (l ++ [r])) = a :: foldLast (l ++ [r]) := by cases l <;> rfl
    rw [List.cons_append, more, ih, List.cons_append]

section
variable {s : State} {l : List Rec} {r h : Rec} (staged : s.way.staging = l ++ [r])
include staged

theorem State.enter_folds (identical : s.folds h (some r) = true) :
    s.enter h = { s with way := { s.way with
      staging := l ++ [{ r with count := satAdd 65535 r.count 1 }], folds := bump s.way.folds } } := by
  simp [State.enter, staged, identical, foldLast_concat]

theorem State.enter_stages (other : s.folds h (some r) = false) (room : s.way.staging.length < 64) :
    (s.enter h).way.staging = l ++ [r, h] := by
  rw [staged] at room
  simp only [State.enter, staged, List.getLast?_concat, other, room, State.iff]
  simp [apply_ite State.way]

theorem State.enter_loses (other : s.folds h (some r) = false) (full : s.way.staging.length = 64) :
    (s.enter h).way.staging = s.way.staging ∧ (s.enter h).way.lost = bump s.way.lost
      ∧ (s.enter h).way.lossOpen = s.way.lossOpen + 1 ∧ Keeps { way := true } s (s.enter h) := by
  have beyond : ¬ (l ++ [r]).length < 64 := by rw [← staged, full]; decide
  have some_ : l ++ [r] ≠ [] := by simp
  have lost : s.enter h = { s with way := { s.way with
      lost := bump s.way.lost, lossOpen := s.way.lossOpen + 1
      lossFirst := match s.way.lossFirst with
        | some f => some f
        | none => some (h.cn, h.us) } } := by
    simp only [State.enter, staged, List.getLast?_concat, other, beyond, some_, ne_eq, not_false_eq_true, if_true, if_false,
      Bool.false_eq_true] <;> rfl
  rw [lost]
  exact ⟨rfl, rfl, rfl, rfl⟩

end

/-! The recorder commits (R527, R532). -/

/-- A push into an empty log drops none, so the waybill stays (R234). -/
theorem State.push_way {s : State} (empty : s.fsp.pushLog = []) (type : Nat) (body : List Byte) (room : Nat) :
    (s.push type body room).way = s.way := by
  have sent (p : Push) (x : State) : (forEach (fun i s => s.pushTo p i) (upFrom 0 4) x).way = x.way :=
    forEach_same (g := fun s : State => s.way)
      (fun i x => (State.pushTo_fr (bl := { fsp := true, out := true }) p i rfl (.refl _ x)).way rfl) _ _
  simp only [State.push, empty, List.length_nil, makeRoom, ne_eq, not_true_eq_false, decide_false, State.iff_false, sent]

/-- A record as the next one of the ring. -/
def State.committed (s : State) (r : Rec) : Rec :=
  { r with seq := nextRecSeq s.way.newest, partner := r.partner || decide (r.stand ≠ s.ford.active) }

/-- A commit into a ring with room adds the record at its end. -/
theorem State.commit_room {s : State} (room : s.way.ring.length < s.way.capacity) (empty : s.fsp.pushLog = []) (r : Rec) :
    (s.commit r).way.ring = s.way.ring ++ [s.committed r] ∧ (s.commit r).way.newest = (s.committed r).seq
      ∧ (s.commit r).way.staging = s.way.staging := by
  have whole : (s.way.ring ++ [s.committed r]).length - s.way.capacity = 0 := by
    rw [List.length_append, List.length_singleton]; omega
  have pushed (x : State) (c : Bool) (body : List Byte) (still : x.fsp.pushLog = []) :
      (x.iff c fun s => s.push 0x30 body 0).way = x.way := by
    cases c
    · rfl
    · exact State.push_way still _ _ _
  have posted (x : State) (c : Bool) : (x.iff c fun s => s.post 873 1 0).way = x.way
      ∧ (x.iff c fun s => s.post 873 1 0).fsp = x.fsp := by
    cases c <;> exact ⟨rfl, rfl⟩
  simp only [State.commit]
  rw [pushed _ _ _ (by rw [(posted _ _).2, empty]), (posted _ _).1]
  refine ⟨?_, rfl, rfl⟩
  change (s.way.ring ++ [s.committed r]).drop ((s.way.ring ++ [s.committed r]).length - s.way.capacity) = _
  rw [whole, List.drop_zero]

/-- With no loss open the recorder takes the oldest staged record (R527). -/
theorem State.writeNext_oldest {s : State} {r : Rec} {rest : List Rec} (noLoss : s.way.lossOpen = 0)
    (staged : s.way.staging = r :: rest) :
    s.writeNext = ({ s with way := { s.way with staging := rest, lossDue := false } }).commit r := by
  simp [State.writeNext, noLoss, staged]

theorem exec_recorderWrite_good {s : State} (live : s.live = true) (waits : s.way.staging ≠ []) :
    exec (.recorderWrite .good) s = .next s.writeNext :=
  congrArg Host.Outcome.next <| (State.whenLive_live live _).trans <| if_pos (by simp [waits])

/-- Settles O15: whether a happening folds, is staged or is lost follows from the last staged record (`State.enter_folds`,
`State.enter_stages`, `State.enter_loses`); the recorder's next write is a commit (`State.commit_room`). -/
theorem recorderStagesAndCommits : Obligations.RecorderStagesAndCommits := by
  refine ⟨?stage, ?write⟩
  case stage =>
    intro s role source id tick reason tagged payload l r live staged
    have next := exec_waybillHappening_own live role source id reason tagged payload tick
    have kept := execWaybillHappening_fr (bl := { evt := true, time := true, way := true }) _ _ _ _ _ _ _ _ next rfl (.refl _ s)
    have other (differs : r.id ≠ id) :
        (s.advanceTo tick).folds ((s.advanceTo tick).ownHappening role source id reason tagged payload) (some r) = false :=
      Bool.eq_false_iff.2 fun identical => differs (State.folds_ownHappening.1 identical).2.1.symm
    refine ⟨fun ⟨sameSource, sameId, sameReason, samePayload, recent⟩ => ?_, fun differs room twin => ?_, fun differs full => ?_⟩
    · have identical := (State.folds_ownHappening (s := s.advanceTo tick) (role := role) (tagged := tagged)).2
        ⟨sameSource.symm, sameId.symm, sameReason.symm, samePayload.symm, recent⟩
      rw [State.enter_folds (s := s.advanceTo tick) staged identical] at next
      exact ⟨_, next, rfl, rfl, rfl, rfl⟩
    · have own : (if (s.advanceTo tick).build = .s then Stand.a else (s.advanceTo tick).ford.active) = s.ford.active :=
        if_neg (by rw [State.advanceTo_build, twin]; decide)
      refine ⟨_, (s.advanceTo tick).ownHappening role source id reason tagged payload, next,
        State.enter_stages (s := s.advanceTo tick) staged (other differs) room, rfl, ?_, rfl, rfl, rfl, rfl, rfl, rfl, own, ?_,
        kept⟩
      · exact congrArg (fun ticks => min 22222 (ticks / 100)) (s.advanceTo_tsc tick)
      · exact decide_eq_false (not_not_intro own)
    · obtain ⟨staging, lost, lossOpen, same⟩ := State.enter_loses (s := s.advanceTo tick) staged (other differs) full
      exact ⟨_, next, staging, lost, lossOpen, Keeps.trans rfl (same.mono rfl)⟩
  case write =>
    intro s r rest live noLoss staged empty room
    have next := exec_recorderWrite_good live (by rw [staged]; simp)
    let taken : State := { s with way := { s.way with staging := rest, lossDue := false } }
    obtain ⟨ring, newest, staging⟩ := State.commit_room (s := taken) room empty r
    rw [State.writeNext_oldest noLoss staged] at next
    exact ⟨_, taken.committed r, next, staging, ring, rfl, newest, rfl, rfl, rfl, rfl, rfl, rfl, rfl,
      State.commit_fr (s := taken) r rfl rfl⟩

end Sys2Proof.Machine
end

section
/-! Pins and supply inputs (R551, R556, R557, R571, R572), and O23. -/

namespace Sys2Proof.Machine

/-! Contactor drives and MOD_3V3 (R551, R557). -/

/-- A contactor drive is flagged for its overcurrent. -/
def State.overcurrentFlagged (s : State) (k : Nat) : State :=
  { s with fld := { s.fld with kcOver := lset k true s.fld.kcOver } }

theorem exec_kcOvercurrent_live {s : State} (live : s.live = true) (k : Fin 4) :
    exec (.kcOvercurrent k) s = .next (if (s.kc k.val).drive
      then (s.modKc k.val fun c => { c with drive := false }).overcurrentFlagged k.val else s) :=
  congrArg Host.Outcome.next (State.whenLive_live live _)

theorem State.kc_modKc_same {s : State} {k : Nat} (within : k < s.dim.contactors.length) (f : KcSt → KcSt) :
    (s.modKc k f).kc k = f (s.kc k) :=
  lget_lmod_same ({} : KcSt) f within

theorem exec_kcOpenLoad_off {s : State} {k : Fin 4} (live : s.live = true) (off : (s.kc k.val).drive = false) (isOpen : Bool) :
    exec (.kcOpenLoad k isOpen) s = .next { s with fld := { s.fld with kcOpen := lset k.val isOpen s.fld.kcOpen } } :=
  congrArg Host.Outcome.next <| (State.whenLive_live live _).trans <| if_pos (by rw [off]; rfl)

theorem exec_modPowerOvercurrent_over {s : State} {ma : Fin 65536} (live : s.live = true) (above : 600 < ma.val) (ok : Bool) :
    exec (.modPowerOvercurrent ma ok) s = .next { s with fld := { s.fld with modOver := true, modMa := 600, modOk := ok } } :=
  congrArg Host.Outcome.next <| (State.whenLive_live live _).trans <| if_pos (decide_eq_true above)

theorem exec_rs485IdleAfterFrame_posts {s : State} {port : Fin 2} (live : s.live = true)
    (asked : bit (1 + port.val) (oct 0 (s.tileBlock .fieldIo 0)) = true)
    (carried : s.sliced (s.can.slotOf .fieldIo 0) = false) :
    exec (.rs485IdleAfterFrame port) s = .next (s.postTile .fieldIo 0 port.val 1 0) :=
  congrArg Host.Outcome.next <| (State.whenLive_live live _).trans <| if_pos (by rw [asked, carried]; rfl)

/-! Supply inputs (R571, R572). -/

theorem State.powerEvent_keeps (s : State) (source kind payload : Nat) :
    Keeps { evt := true, way := true } s (s.powerEvent source kind payload) :=
  State.powerEvent_fr source kind payload rfl (.refl _ s)

@[simp] theorem State.powerEvent_sys (s : State) (source kind payload : Nat) : (s.powerEvent source kind payload).sys = s.sys :=
  (s.powerEvent_keeps source kind payload).sys rfl

theorem State.drawFrom_sys (s : State) (b : Bool) : (s.drawFrom b).sys = { s.sys with onB := b } := by
  unfold State.drawFrom
  split
  case isTrue same => rw [← same]
  case isFalse => exact State.powerEvent_sys _ _ _ _

/-- Input A becomes invalid while the module draws from it and B is valid: it draws from B. -/
theorem State.changeInput_toB {s : State} (onA : s.sys.onB = false) (invalidA : s.sys.aValid = false)
    (validB : s.sys.bValid = true) : s.changeInput = s.drawFrom true := by
  simp [State.changeInput, onA, invalidA, validB]

theorem State.changeInput_stays {s : State} (onA : s.sys.onB = false) (validA : s.sys.aValid = true) : s.changeInput = s := by
  simp [State.changeInput, onA, validA]

/-- The supply monitors have read both inputs, and input A shows what it has become. -/
def State.inputRead (s : State) (x : SupplyState) (voltA voltB : Nat) : State :=
  (s.setVolts voltA voltB).setInput false x

/-- SUPPLY_INPUT_CHANGE of input A, told under its kind. -/
def State.inputTold (s : State) (x : SupplyState) (voltA voltB : Nat) : State :=
  (s.inputRead x voltA voltB).powerEvent 893 (supplyKind x) (s.inputRead x voltA voltB).powerVolt

theorem exec_supplyInputChange_a (s : State) (x : SupplyState) (voltA voltB : Fin 65536) :
    exec (.supplyInputChange false x voltA voltB) s = .next (s.inputTold x voltA.val voltB.val).changeInput := rfl

theorem State.inputTold_sys (s : State) (x : SupplyState) (voltA voltB : Nat) :
    (s.inputTold x voltA voltB).sys = { s.sys with
      voltA := voltA, voltB := voltB, aValid := decide (x = .valid), aOv := decide (x = .overvoltage)
      aReverse := decide (x = .reversed) } :=
  State.powerEvent_sys _ _ _ _

theorem exec_supplyReturn_preferredA {s : State} (live : s.live = true) (prefersA : bit 0 (s.reg 0x40000114) = false)
    (validA : s.sys.aValid = true) : exec .supplyReturn s = .next (s.drawFrom false) := by
  refine congrArg Host.Outcome.next ((State.whenLive_live live _).trans ?_)
  simp only [prefersA, validA, if_false, Bool.false_eq_true, State.iff_true]

/-- Settles O23: each clause is the equation of its command. That MOD_3V3 shows 600 mA while limited, and that OPEN_LOAD follows
the test current both ways, is the model's choice (log 114). -/
theorem pinsAndSupplyInputs : Obligations.PinsAndSupplyInputs := by
  refine ⟨⟨?contactors, ?power, ?rs485⟩, ?change, ?back⟩
  case contactors =>
    intro s k live within
    have next := exec_kcOvercurrent_live live k
    refine ⟨fun on => ?_, fun off => ?_, fun isOpen off => exec_kcOpenLoad_off live off isOpen⟩
    · rw [if_pos on] at next
      exact ⟨_, next, congrArg KcSt.drive (State.kc_modKc_same within _), rfl, rfl⟩
    · rw [next, if_neg (ne_true_of_eq_false off)]
  case power => exact fun s ma ok live above => exec_modPowerOvercurrent_over live above ok
  case rs485 => exact fun s port live asked carried => exec_rs485IdleAfterFrame_posts live asked carried
  case change =>
    intro s x voltA voltB live onA validB
    have read := s.inputTold_sys x voltA.val voltB.val
    refine ⟨fun invalid => ?_, ?_⟩
    · have next := exec_supplyInputChange_a s x voltA voltB
      have kept := execSupplyInputChange_fr (bl := { evt := true, sys := true, way := true }) _ _ _ _ next rfl (.refl _ s)
      rw [State.changeInput_toB (by rw [read, onA]) (by rw [read]; exact decide_eq_false invalid) (by rw [read, validB])]
        at next kept
      have drawn := (s.inputTold x voltA.val voltB.val).drawFrom_sys true
      refine ⟨_, next, ?_⟩
      rw [drawn, read]
      exact ⟨rfl, decide_eq_false invalid, rfl, rfl, rfl, rfl, kept⟩
    · have read := s.inputTold_sys .valid voltA.val voltB.val
      have next := exec_supplyInputChange_a s .valid voltA voltB
      have kept := execSupplyInputChange_fr (bl := { evt := true, sys := true, way := true }) _ _ _ _ next rfl (.refl _ s)
      rw [State.changeInput_stays (by rw [read, onA]) (by rw [read]; rfl)] at next kept
      refine ⟨_, next, ?_⟩
      rw [read]
      exact ⟨onA, rfl, kept⟩
  case back =>
    intro s live prefersA validA onB
    have next := exec_supplyReturn_preferredA live prefersA validA
    exact ⟨_, next, congrArg SysSt.onB (s.drawFrom_sys false), execSupplyReturn_fr next rfl (.refl _ s)⟩

end Sys2Proof.Machine
end

section
/-! Power failures, dips, stops and the spent store (R573, R578 to R581, R586), and O24. -/

namespace Sys2Proof.Machine

/-! The last gasp (R578, Table 18.3). -/

/-- POWER_FAIL asserts: an entry into dormancy is abandoned, and the failure is counted. -/
def State.failAsserted (s : State) : State :=
  let s := s.iff s.entering fun s =>
    { s with dim := { s.dim with contactors := s.dim.contactors.map fun k => { k with drive := k.plan } } }
  { s with sys := { s.sys with
    powerFail := true, failCount := satAdd 65535 s.sys.failCount 1, dorm := none, dormDue := false } }

theorem State.failAsserted_spec (s : State) :
    s.failAsserted.sys = { s.sys with
        powerFail := true, failCount := satAdd 65535 s.sys.failCount 1, dorm := none, dormDue := false }
      ∧ Keeps { dim := true, sys := true } s s.failAsserted := by
  unfold State.failAsserted State.iff
  split <;> exact ⟨rfl, rfl⟩

/-- POWER_FAIL has been posted and every slice is cut short. -/
def State.failTold (s : State) : State :=
  (s.failAsserted.post 892 1 0).cutSlices 1 fun _ => true

theorem State.failTold_keeps (s : State) : Keeps { cop := true, evt := true, rad := true } s.failAsserted s.failTold :=
  State.cutSlices_fr 1 _ rfl (State.post_fr 892 1 0 rfl (.refl _ _))

/-- The snapshot is committed with this cycle's count. -/
def State.snapshotCommitted (s : State) (sums : List PhaseSum) : State :=
  { s.takeSnapshot sums with time := { (s.takeSnapshot sums).time with mramCn := some (s.takeSnapshot sums).cn } }

/-- The waybill drains, the failure's record with it. -/
def State.waybillDrained (s : State) : State :=
  (s.drainStaging.recordPower 892 1).drainStaging

theorem State.waybillDrained_keeps (s : State) :
    Keeps { evt := true, fsp := true, out := true, way := true } s s.waybillDrained :=
  State.drainStaging_fr rfl (State.recordPower_fr 892 1 rfl (State.drainStaging_fr rfl (.refl _ s)))

theorem State.lastGaspSequence_ready {s : State} (ready : s.sys.storeReady = true) (sums : List PhaseSum) :
    s.lastGaspSequence sums = (s.failTold.snapshotCommitted sums).waybillDrained := by
  have still : s.failTold.sys.storeReady = true := by
    rw [s.failTold_keeps.sys rfl, s.failAsserted_spec.1, ready]
  exact congrArg State.waybillDrained (if_pos still)

/-- What the last gasp of a ready store leaves: POWER_FAIL counted, and the snapshot at this cycle. -/
theorem State.lastGaspSequence_spec {s : State} (ready : s.sys.storeReady = true) (sums : List PhaseSum) :
    (s.lastGaspSequence sums).sys = { s.sys with
        powerFail := true, failCount := satAdd 65535 s.sys.failCount 1, dorm := none, dormDue := false }
      ∧ (s.lastGaspSequence sums).time.mramCn = some s.cn ∧ (s.lastGaspSequence sums).cn = s.cn := by
  obtain ⟨sys, asserted⟩ := s.failAsserted_spec
  have told := s.failTold_keeps
  have snapshot : Keeps { evt := true, fsp := true, mtr := true, out := true, way := true } s.failTold
      (s.failTold.takeSnapshot sums) :=
    State.takeSnapshot_fr sums rfl (.refl _ _)
  have drained := (s.failTold.snapshotCommitted sums).waybillDrained_keeps
  have cn : (s.failTold.takeSnapshot sums).cn = s.cn := by rw [snapshot.cn rfl, told.cn rfl, asserted.cn rfl]
  rw [State.lastGaspSequence_ready ready]
  refine ⟨?_, ?_, ?_⟩
  · rw [drained.sys rfl, ← sys, ← told.sys rfl, ← snapshot.sys rfl]
    rfl
  · rw [drained.time rfl, ← cn]
    rfl
  · rw [drained.cn rfl]
    exact cn

theorem exec_powerFail_unsupplied {s : State} (live : s.live = true) (unsupplied : s.supplied = false)
    (fed : s.sys.powerFail = false) (tick : Nat) (sums : List PhaseSum) :
    exec (.powerFail tick sums) s = .next ((s.advanceTo tick).lastGaspSequence sums) :=
  congrArg Host.Outcome.next <| (State.whenLive_live live _).trans <| if_pos (by rw [unsupplied, fed]; rfl)

/-! A dip (R580). -/

/-- An input has come back before the stop: the failure was a dip, and the store recharges. -/
def State.dipped (s : State) : State :=
  { s with sys := { s.sys with powerFail := false, dipCount := satAdd 65535 s.sys.dipCount 1, recharging := true } }

theorem exec_powerDip_supplied {s : State} (live : s.live = true) (supplied : s.supplied = true)
    (failed : s.sys.powerFail = true) (cool : s.sys.thermal = false) :
    exec .powerDip s = .next ((s.dipped.powerEvent 892 2 0).powerEvent 834 1 0) :=
  congrArg Host.Outcome.next <| (State.whenLive_live live _).trans <| if_pos (by rw [supplied, failed, cool]; rfl)

/-! The store is spent (R586). -/

theorem exec_retentionLost_unsupplied {s : State} (dead : s.live = false) (unsupplied : s.supplied = false) :
    exec .retentionLost s = .next { s with
      sys := { s.sys with phase := .off, retentionFed := false }
      evt := { s.evt with image := none }
      ford := { s.ford with lg := List.replicate 32 0, lgValid := false, lgMore := 0 } } :=
  congrArg Host.Outcome.next (if_pos (by rw [dead, unsupplied]; rfl))

/-- Settles O24: POWER_FAIL runs the last gasp (`State.lastGaspSequence_spec`), and the other clauses are the equations of their
commands. -/
theorem powerFailsDipsAndStops : Obligations.PowerFailsDipsAndStops := by
  refine ⟨?fail, ?dip, ?stop, ?spent⟩
  case fail =>
    intro s tick sums live unsupplied fed ready
    have next := exec_powerFail_unsupplied live unsupplied fed tick sums
    obtain ⟨sys, mramCn, cn⟩ := State.lastGaspSequence_spec (s := s.advanceTo tick) ready sums
    refine ⟨_, next, ?_, ?_, ?_, mramCn, cn, execPowerFail_fr tick sums next rfl (.refl _ s)⟩
    · rw [sys]
    · rw [sys]
    · rw [sys]; rfl
  case dip =>
    intro s live supplied failed cool
    have next := exec_powerDip_supplied live supplied failed cool
    have sys : ((s.dipped.powerEvent 892 2 0).powerEvent 834 1 0).sys = s.dipped.sys := by
      rw [State.powerEvent_sys, State.powerEvent_sys]
    refine ⟨_, next, ?_, ?_, ?_, execPowerDip_fr next rfl (.refl _ s)⟩ <;> (rw [sys]; rfl)
  case stop =>
    intro s live unsupplied failed
    exact ⟨_, exec_holdoverStop_spent live unsupplied failed, rfl, rfl, s.stopped_gates_low, s.stopped_drives_off, rfl, rfl, rfl⟩
  case spent =>
    intro s dead unsupplied
    exact ⟨_, exec_retentionLost_unsupplied dead unsupplied, rfl, rfl, rfl, rfl, rfl, rfl⟩

end Sys2Proof.Machine
end

section
/-! The start of the module: power-up, measurement, the canopy's load, the preferred stand's time, and a reset (R591, R593,
R599), and O27. -/

namespace Sys2Proof.Machine

/-! A restart (Table 19.3). -/

/-- A restart has cut the slices short, and drained the waybill where the module carries the reset out. -/
def State.beforeRestart (s : State) (cause : Nat) : State :=
  if powerStart cause then s.cutSlices 5 fun _ => true else (s.cutSlices 5 fun _ => true).drainStaging

theorem State.beforeRestart_keeps (s : State) (cause : Nat) :
    Keeps { cop := true, evt := true, fsp := true, out := true, rad := true, way := true } s (s.beforeRestart cause) :=
  keeps_ite _ (State.cutSlices_fr 5 _ rfl (.refl _ s)) (State.drainStaging_fr rfl (State.cutSlices_fr 5 _ rfl (.refl _ s)))

/-- The blocks that a restart sets anew and its journal then leaves alone. -/
structure State.RestartedFrom (t s : State) (cause : Nat) : Prop where
  sys : ∃ overridden, t.sys = s.sysAt cause overridden
  fsp : t.fsp = s.fsp.atStart
  queues : t.que.queues = []
  time : t.time = s.timeAt (!powerStart cause)
  cn : t.cn = if powerStart cause then s.cn else if s.ford.safeHold then s.ford.shadowCn else s.cn

theorem State.restart_spec (s : State) (cause : Nat) : (s.restart cause).RestartedFrom (s.beforeRestart cause) cause := by
  let after : Blocks :=
    { can := true, evt := true, ford := true, freeIdx := true, key := true, regs := true, upd := true, way := true }
  obtain ⟨r, kept, fresh⟩ : ∃ r, Keeps after r (s.restart cause) ∧ r.RestartedFrom (s.beforeRestart cause) cause :=
    ⟨_, State.journalStart_fr rfl
      (keeps_forEach _ _ (fun n _ h => State.armTamper_fr n rfl h) (State.setReg_fr _ _ rfl (.refl _ _))),
      ⟨_, rfl⟩, rfl, rfl, rfl, rfl⟩
  obtain ⟨sys, fsp, queues, time, cn⟩ := fresh
  exact ⟨by rwa [kept.sys rfl], by rwa [kept.fsp rfl], by rwa [kept.que rfl], by rwa [kept.time rfl], by rwa [kept.cn rfl]⟩

section
variable {s t : State} {cause : Nat} (h : t.RestartedFrom s cause)
include h

theorem State.RestartedFrom.phase : t.sys.phase = .starting := by
  obtain ⟨overridden, sys⟩ := h.sys
  rw [sys]; rfl

theorem State.RestartedFrom.cause_eq (own : cause ≠ 7) : t.sys.cause = cause := by
  obtain ⟨overridden, sys⟩ := h.sys
  rw [sys]; exact if_neg own

theorem State.RestartedFrom.sessions : t.fsp.sessions = [] := by
  rw [h.fsp]; rfl

theorem State.RestartedFrom.unset : t.time.tstate = .unset := by
  rw [h.time]
  cases hp : powerStart cause <;> rfl

end

/-! POWER_UP (R591). -/

/-- The cause that a power-up shows: COLD, or POWER where the retention domain was fed. -/
def State.powerUpCause (s : State) : Nat :=
  if s.sys.phase = .off ∧ s.sys.retentionFed = true then 2 else 1

/-- The first valid input has restarted the module, and the supply shows what it feeds. -/
def State.poweredUp (s : State) (b good : Bool) (voltA voltB : Nat) (base : Int) : State :=
  let r := ((s.setVolts voltA voltB).setInput b .valid).restart s.powerUpCause
  { r with sys := { r.sys with
    onB := b, retentionFed := true, powerFail := false, thermal := false, recharging := true, baseTemp := base
    tempMax := base, hot := decide (1250 < base), safe := { r.sys.safe with good := good } } }

/-- The safe table drives, the input is told, and an alarm that waited is recorded. -/
def State.drivenAtStart (s : State) : State :=
  (s.driveSafe.powerEvent 893 4 s.powerVolt).recordWakeAlarm false

theorem State.drivenAtStart_keeps (s : State) :
    Keeps { dim := true, drv := true, evt := true, key := true, way := true } s s.drivenAtStart :=
  State.recordWakeAlarm_fr false rfl (State.powerEvent_fr _ _ _ rfl (State.driveSafe_fr rfl (.refl _ s)))

theorem exec_powerUp_off {s : State} {base : Int} (off : s.sys.phase = .off) (cool : base ≤ 1300) (b good : Bool)
    (voltA voltB : Fin 65536) :
    exec (.powerUp b voltA voltB base good) s = .next (s.poweredUp b good voltA.val voltB.val base).drivenAtStart :=
  congrArg Host.Outcome.next <| (if_pos (by rw [off]; rfl)).trans (if_neg (by omega))

/-! BOOT_MEASUREMENT (R481). -/

theorem State.live_of_starting {s : State} (starting : s.sys.phase = .starting) : s.live = true := by
  simp only [State.live, starting]

/-- The keys that a start derives leave what was measured. -/
theorem State.deriveAtStart_measured (s : State) :
    s.deriveAtStart.key.drover = s.key.drover ∧ s.deriveAtStart.key.firmware = s.key.firmware := by
  have rederived (s : State) : (s.rederiveMb.key.drover, s.rederiveMb.key.firmware) = (s.key.drover, s.key.firmware) := by
    unfold State.rederiveMb
    apply forEach_same (g := fun s : State => (s.key.drover, s.key.firmware))
    intro n x
    dsimp only
    split
    · split <;> rfl
    · rfl
  unfold State.deriveAtStart State.iff
  split
  · exact ⟨rfl, rfl⟩
  · split <;> exact Prod.mk.inj (rederived _)

theorem State.measured_key (s : State) (drover firmware : BitVec 256) :
    (s.measured drover firmware).key.drover = drover ∧ (s.measured drover firmware).key.firmware = firmware :=
  State.deriveAtStart_measured _

theorem exec_bootMeasurement_serving {s : State} (starting : s.sys.phase = .starting) (early : s.sys.bootPhase < 2)
    (drover firmware : BitVec 256) (backup : Bool) :
    exec (.bootMeasurement s.ford.active drover firmware true backup) s = .next (s.measured drover firmware) :=
  congrArg Host.Outcome.next <| (State.whenLive_live (State.live_of_starting starting) _).trans <|
    (if_pos (by rw [starting, decide_eq_true early]; rfl)).trans <| (if_pos rfl).trans (if_pos rfl)

/-! CANOPY_LOADED (R591). -/

theorem exec_canopyLoaded_stored {s : State} {im : Image} (starting : s.sys.phase = .starting) (measured : s.sys.bootPhase = 2)
    (stored : s.can.image = some im) (octets : List Byte) :
    exec (.canopyLoaded octets) s = .next (s.serveCanopy im) := by
  refine congrArg Host.Outcome.next ((State.whenLive_live (State.live_of_starting starting) _).trans ?_)
  simp only [starting, measured, stored, decide_true, Bool.and_self, State.iff_true]

/-- A stand that has loaded its canopy runs. -/
theorem State.serveCanopy_runs (s : State) (im : Image) :
    (s.serveCanopy im).sys.phase = .running ∧ (s.serveCanopy im).sys.bootPhase = 4 := by
  have last : (s.serveCanopy im).sys = _ :=
    (State.groveKeysReady_fr (bl := { freeIdx := true, key := true, rad := true }) rfl (.refl _ _)).sys rfl
  rw [last]
  exact ⟨rfl, rfl⟩

/-! PREF_TIMEOUT (R593). -/

/-- Stand A gives way to stand B. -/
def State.givesWay (s : State) : State :=
  { s with
    ford := { s.ford with
      a := { s.ford.a with state := .learning }, b := { s.ford.b with state := .active }, active := .b, svc := .b }
    sys := { s.sys with prefOverridden := true } }

theorem exec_prefTimeout_late {s : State} (twin : s.build = .t) (starting : s.sys.phase = .starting)
    (serving : s.ford.active = .a) (learning : s.ford.b.state = .learning) {tick : Nat}
    (late : 200000000 ≤ s.time.ref + (tick - s.time.tsc)) :
    exec (.prefTimeout tick) s = .next (s.advanceTo tick).givesWay := by
  refine congrArg Host.Outcome.next ((State.whenLive_live (State.live_of_starting starting) _).trans ?_)
  have active : (s.advanceTo tick).ford.active = .a := serving
  simp only [active]
  refine if_pos ?_
  simp only [Bool.and_eq_true, decide_eq_true_eq]
  exact ⟨⟨⟨twin, starting⟩, late⟩, learning⟩

/-! MODULE_RESET (R599). -/

/-- The description of SYS_RESET_CMD (Table 19.6). -/
def resetCmdDesc : RegDesc :=
  { name := "SYS_RESET_CMD", base := 0x40000004, act := 1 }

theorem descOf_resetCmd : descOf 0x40000004 = some resetCmdDesc := rfl

theorem exec_moduleReset_installer {s : State} {value : Word} {w : Writer} (live : s.live = true)
    (asked : bit 0 value.toNat = true) (installer : w.role = .installer) (idle : s.upd.activation = none) :
    exec (.moduleReset value w) s = .next ((s.writeReg 0x40000004 value.toNat w).1.saveMeter.restart 6) := by
  have taken : bit 0 (s.writeReg 0x40000004 value.toNat w).2.act = true :=
    (RegDesc.Guarded.act_bit (d := resetCmdDesc) ⟨rfl, rfl, rfl, rfl, rfl⟩ descOf_resetCmd (by decide) installer
      value.isLt (by decide)).trans asked
  refine congrArg Host.Outcome.next ((State.whenLive_live live _).trans ?_)
  simp only [State.writeResetCmd, idle, Option.isSome_none, Bool.and_false, Bool.false_eq_true, if_false, taken, if_true]

/-- Settles O27: a power-up and a reset restart the module (`State.restart_spec`), and the other clauses are the equations of
their commands. -/
theorem startUpAndReset : Obligations.StartUpAndReset := by
  refine ⟨?powerUp, ?measurement, ?canopy, ?preferred, ?reset⟩
  case powerUp =>
    intro s b good voltA voltB base off idle cool
    have next := exec_powerUp_off off cool b good voltA voltB
    have kept := (s.poweredUp b good voltA.val voltB.val base).drivenAtStart_keeps
    have fresh := ((s.setVolts voltA.val voltB.val).setInput b .valid).restart_spec s.powerUpCause
    have cause : s.powerUpCause = if s.sys.retentionFed = true then 2 else 1 := by simp [State.powerUpCause, off]
    have own : s.powerUpCause ≠ 7 := by rw [cause]; split <;> decide
    refine ⟨_, next, ?_, ?_, ?_, ?_, ?_, ?_, ?_⟩
    · rw [kept.sys rfl]; exact fresh.phase
    · rw [kept.sys rfl, ← cause]; exact fresh.cause_eq own
    · rw [kept.sys rfl]; rfl
    · rw [kept.fsp rfl]; exact fresh.sessions
    · rw [kept.que rfl]; exact fresh.queues
    · rw [kept.time rfl]; exact fresh.unset
    · rw [kept.sys rfl]; rfl
  case measurement =>
    intro s drover firmware backup starting early
    have kept := State.measured_fr (bl := { key := true, sys := true }) drover firmware rfl (.refl _ s)
    obtain ⟨toldDrover, toldFirmware⟩ := s.measured_key drover firmware
    exact ⟨_, exec_bootMeasurement_serving starting early drover firmware backup, rfl, toldDrover, toldFirmware,
      kept.ford rfl, kept.cn rfl, kept.fsp rfl⟩
  case canopy =>
    intro s octets im starting measured stored
    let touched : Blocks :=
      { can := true, drv := true, evt := true, fld := true, ford := true, freeIdx := true, key := true, mon := true, mtr := true
        que := true, rad := true, regs := true, sys := true, time := true, way := true }
    obtain ⟨phase, bootPhase⟩ := s.serveCanopy_runs im
    exact ⟨_, exec_canopyLoaded_stored starting measured stored octets, phase, bootPhase,
      (State.serveCanopy_fr (bl := touched) im rfl (.refl _ s)).cn rfl⟩
  case preferred =>
    intro s tick twin starting serving learning late
    exact ⟨_, exec_prefTimeout_late twin starting serving learning late, rfl, rfl, rfl, rfl, rfl, rfl⟩
  case reset =>
    intro s value w live canonical asked installer idle released
    have next := exec_moduleReset_installer live asked installer idle
    have saved : Keeps { evt := true, mtr := true, regs := true, way := true } s (s.writeReg 0x40000004 value.toNat w).1.saveMeter :=
      State.saveMeter_fr rfl ((s.writeReg_keeps 0x40000004 value.toNat w).mono rfl)
    have before := (s.writeReg 0x40000004 value.toNat w).1.saveMeter.beforeRestart_keeps 6
    have fresh := (s.writeReg 0x40000004 value.toNat w).1.saveMeter.restart_spec 6
    refine ⟨_, next, fresh.phase, fresh.cause_eq (by decide), ?_, fresh.sessions, fresh.unset⟩
    have ford : ((s.writeReg 0x40000004 value.toNat w).1.saveMeter.beforeRestart 6).ford.safeHold = false := by
      rw [before.ford rfl, saved.ford rfl, released]
    rw [fresh.cn, if_neg (by decide), ford, if_neg (by decide), before.cn rfl, saved.cn rfl]

end Sys2Proof.Machine
end

section
/-! Coppice: units fall due, and their slices are fixed or deferred (R455, R458, R464, R465). -/

namespace Sys2Proof.Machine

/-! A unit falls due (R455). -/

/-- A unit falls due, a day after its last slice. -/
def State.fallsDue (s : State) (id : UnitId) : Bool :=
  s.hasUnit id && (s.unit id).due.isNone && decide ((s.unit id).lastCn + s.coppiceDay ≤ s.cn)
    && decide ((s.unit id).mark ≠ some .felled)

theorem exec_unitFallsDue_live {s : State} (live : s.live = true) (stand : Stand) (kind : Fin 8) (index : Fin 8192) :
    exec (.unitFallsDue stand kind index) s = .next (s.iff (s.fallsDue (unitOf stand kind.val index.val)) fun s =>
      s.putUnit { s.unit (unitOf stand kind.val index.val) with
        due := some ((s.unit (unitOf stand kind.val index.val)).lastCn + s.coppiceDay) }) :=
  congrArg Host.Outcome.next (State.whenLive_live live _)

/-! SLICE_FIX (R458, R464). -/

theorem exec_sliceFix_enabled {s : State} {stand : Stand} (live : s.live = true) (enabled : bit 0 (s.reg 0x400A0000) = true)
    (present : (s.ford.of stand).state ≠ .absent) (fed : s.sys.powerFail = false) (awake : s.sys.dorm = none) (lead : Fin 16) :
    exec (.sliceFix stand lead) s = .next (s.tryFix stand (s.cn + lead.val + 1) (s.candidates stand)) :=
  congrArg Host.Outcome.next <| (State.whenLive_live live _).trans <|
    if_pos (by simp [enabled, present, fed, State.entering, awake])

theorem exec_sliceFix_disabled {s : State} (live : s.live = true) (disabled : bit 0 (s.reg 0x400A0000) = false) (stand : Stand)
    (lead : Fin 16) : exec (.sliceFix stand lead) s = .next s :=
  congrArg Host.Outcome.next <| (State.whenLive_live live _).trans <| if_neg (by simp [disabled])

section
variable {s : State} {stand : Stand} {id : UnitId} (room : s.roomFor stand id = true)
include room

theorem State.tryFix_fixes {c : Cn} (free : s.deferral (s.sliceFor stand id c) = none) (rest : List UnitId) :
    s.tryFix stand c (id :: rest) = s.fixSlice (s.sliceFor stand id c) := by
  simp [State.tryFix, room, free]

theorem State.tryFix_defers {c : Cn} {r : Nat} (waits : s.deferral (s.sliceFor stand id c) = some r) :
    s.tryFix stand c [id] = s.deferSlice id r := by
  simp [State.tryFix, room, waits]

end

/-- A slice of a unit without a function is fixed as it is. -/
theorem State.fixSlice_idle {s : State} {stand : Stand} {id : UnitId} {c : Cn}
    (idle : (s.sliceFor stand id c).victim = none) (uncommanded : s.cop.command = none) :
    s.fixSlice (s.sliceFor stand id c)
      = { s with cop := { s.cop with slices := s.cop.slices ++ [s.sliceFor stand id c] } } := by
  have plain : ({ s.sliceFor stand id c with victim := none } : Slice) = s.sliceFor stand id c :=
    congrArg (fun v => ({ s.sliceFor stand id c with victim := v } : Slice)) idle.symm
  simp only [State.fixSlice, idle, uncommanded]
  exact congrArg (fun x => ({ s with cop := { s.cop with slices := s.cop.slices ++ [x], command := none } } : State)) plain

theorem lget_mod_mem {l : List Nat} (some_ : l ≠ []) (v : Nat) : lget 0 (v % max 1 l.length) l ∈ l := by
  have inside {n : Nat} {l : List Nat} (h : n < l.length) : lget 0 n l ∈ l := by
    induction l generalizing n with
    | nil => cases h
    | cons a l ih =>
      cases n with
      | zero => exact List.mem_cons_self
      | succ n => exact List.mem_cons_of_mem _ (ih (Nat.lt_of_succ_lt_succ h))
  have pos : 0 < l.length := List.length_pos_iff.2 some_
  exact inside (Nat.lt_of_lt_of_le (Nat.mod_lt _ (by omega)) (by omega))

/-- A slice of a unit whose function a free unit can carry is fixed with one of them. -/
theorem State.fixSlice_carried {s : State} {x : Slice} {v : Nat} (victim : x.victim = some v) (free : s.carriers x ≠ []) :
    ∃ k, k ∈ s.carriers x
      ∧ (s.fixSlice x).cop.slices = s.cop.slices ++ [{ x with carrier := some k, destructive := false }] := by
  refine ⟨(s.pickOne (s.carriers x)).1, lget_mod_mem free _, ?_⟩
  simp only [State.fixSlice, victim, if_neg free]
  rfl

/-! COPPICE_STARVED (R465). -/

/-- A unit's alarm after seven days is set, posted and recorded. -/
def State.starvationTold (s : State) (id : UnitId) (payload : Nat) : State :=
  ((s.putUnit { s.unit id with starved := true }).post 879 1 payload).record 879 0x49 .ok
    (le 4 payload ++ le 1 (s.unit id).deferReason)

theorem State.starvationTold_cop (s : State) (id : UnitId) (payload : Nat) :
    (s.starvationTold id payload).cop = (s.putUnit { s.unit id with starved := true }).cop :=
  (State.record_fr (bl := { evt := true, way := true }) 879 0x49 .ok _ rfl (State.post_fr 879 1 payload rfl (.refl _ _))).cop rfl

theorem exec_coppiceStarved_due {s : State} {stand : Stand} {kind : Fin 8} {index : Fin 8192} {d : Cn} (live : s.live = true)
    (due : (s.unit (unitOf stand kind.val index.val)).due = some d) :
    exec (.coppiceStarved stand kind index) s
      = .next (s.iff (!(s.unit (unitOf stand kind.val index.val)).starved && decide (d + 7 * s.coppiceDay ≤ s.cn)) fun s =>
        s.starvationTold (unitOf stand kind.val index.val) (unitPayload kind.val index.val)) := by
  refine congrArg Host.Outcome.next ((State.whenLive_live live _).trans ?_)
  dsimp only
  split
  · next waits => cases waits.symm.trans due; rfl
  · next none_ => cases none_.symm.trans due

end Sys2Proof.Machine
end

section
/-! The run of a slice is judged (R459, R461), and O41. -/

namespace Sys2Proof.Machine

/-! What the parts of a verdict change of coppice. -/

/-- COP_LAST after a slice (Table 13.6). -/
def CopSt.ended (c : CopSt) (u : UnitId) (result : SliceResult) (cn : Cn) : CopSt :=
  { c with lastKind := u.kind, lastIndex := u.index, lastResult := result.code, lastIcause := 0, lastCn := cn }

theorem State.recordSlice_cop (s : State) (source id : Nat) (u : UnitId) (result : SliceResult) :
    (s.recordSlice source id u result).cop = s.cop :=
  (State.recordSlice_fr (bl := { evt := true, way := true }) source id u result rfl (.refl _ s)).cop rfl

theorem State.completed_cop (s : State) (id : UnitId) :
    ∃ units, (s.completed id).cop = { s.cop with units := units } := ⟨_, rfl⟩

theorem State.unit_completed (s : State) (id : UnitId) :
    (s.completed id).unit id = { s.unit id with lastCn := s.cn, due := none, starved := false } := by
  have put := s.unit_putUnit_same { s.unit id with lastCn := s.cn, due := none, starved := false }
  rwa [show (UnitSt.id { s.unit id with lastCn := s.cn, due := none, starved := false }) = id from s.unit_id id] at put

theorem State.raiseThin_cop (s : State) (kind : Nat) : ∃ thin, (s.raiseThin kind).cop = { s.cop with thin := thin } := by
  unfold State.raiseThin
  split
  · exact ⟨_, rfl⟩
  · exact ⟨_, (State.postRecord_fr (bl := { evt := true, way := true }) 878 0x49 1 (unitPayload kind 0) .ok rfl
      (.refl _ { s with cop := { s.cop with thin := lset kind true s.cop.thin } })).cop rfl⟩

theorem State.fell_cop (s : State) (id : UnitId) : ∃ units thin,
    (s.fell id).cop = { s.cop with units := units, fellings := bump s.cop.fellings, thin := thin } := by
  let put : State := s.putUnit { s.unit id with mark := some .felled, due := none }
  let marked : State := { put with cop := { put.cop with fellings := bump s.cop.fellings } }
  have felled : s.fell id = if marked.freeOf id.stand id.kind = 0 then marked.raiseThin id.kind else marked := rfl
  rw [felled]
  split
  · obtain ⟨thin, raised⟩ := marked.raiseThin_cop id.kind
    exact ⟨_, thin, raised⟩
  · exact ⟨_, _, rfl⟩

/-- A unit that is felled loses its slice, and the felling is shown. -/
theorem State.fellSlice_cop (s : State) (x : Slice) : ∃ units thin,
    (s.fellSlice x).cop = { s.cop.ended x.unit .felled s.cn with
      slices := s.cop.slices.filter fun y => decide (y.unit ≠ x.unit)
      fellings := bump s.cop.fellings, units := units, thin := thin }
    ∧ ((s.fellSlice x).unit x.unit).mark = some .felled := by
  let shown : State := (s.completed x.unit).sliceEnded x.unit .felled 0
  let dropped : State := { shown with
    cop := { shown.cop with slices := shown.cop.slices.filter fun y => decide (y.unit ≠ x.unit) } }
  let failed : State := dropped.iff (decide (x.unit.kind = 2)) fun s =>
    s.modTrx x.unit.index fun t => { t with underTest := false, failed := true }
  let told : State := (failed.post 877 1 (unitPayload x.unit.kind x.unit.index)).recordSlice 877 0x49 x.unit .felled
  have fells : s.fellSlice x = told.fell x.unit := rfl
  have cop : told.cop = dropped.cop := by
    rw [State.recordSlice_cop]
    change failed.cop = dropped.cop
    unfold failed State.iff
    split <;> rfl
  obtain ⟨units, thin, felled⟩ := told.fell_cop x.unit
  rw [fells, felled, cop]
  exact ⟨units, thin, rfl, (told.fell_marks x.unit).1⟩

/-- No verdict touches the signatures and the pattern count shown. -/
theorem State.judgeSlice_signs (s : State) (x : Slice) (whole same : Bool) :
    (s.judgeSlice x whole same).cop.misr = s.cop.misr ∧ (s.judgeSlice x whole same).cop.expected = s.cop.expected
      ∧ (s.judgeSlice x whole same).cop.lastPat = s.cop.lastPat := by
  have recorded (t : State) (id : Nat) (r : SliceResult) := t.recordSlice_cop 876 id x.unit r
  unfold State.judgeSlice
  split
  · exact ⟨rfl, rfl, rfl⟩
  · split
    · split
      · simp only [State.modSlice, recorded]
        exact ⟨rfl, rfl, rfl⟩
      · exact ⟨rfl, rfl, rfl⟩
    · split
      · obtain ⟨units, thin, cop, -⟩ := s.fellSlice_cop x
        rw [cop]
        exact ⟨rfl, rfl, rfl⟩
      · simp only [State.modSlice, recorded]
        exact ⟨rfl, rfl, rfl⟩

/-! The verdicts on the one slice that runs. -/

section
variable {s : State} {x : Slice} (sole : s.cop.slices = [x])
include sole

/-- A run cut short leaves the slice to end INCOMPLETE; a retest leaves the unit SUSPECT. -/
theorem State.judgeSlice_cut (same : Bool) : (s.judgeSlice x false same).cop
    = { s.cop.ended x.unit .incomplete s.cn with
        incompletes := bump s.cop.incompletes, slices := [{ x with ended := true, suspect := x.retest }] } := by
  have all : s.cop.slices.map (fun y => if y.unit = x.unit then { y with ended := true, suspect := x.retest } else y)
      = [{ x with ended := true, suspect := x.retest }] := by simp [sole]
  rw [← all]
  rfl

/-- Equal signatures complete the slice: the unit is no longer due. -/
theorem State.judgeSlice_pass (fresh : x.retest = false) :
    (∃ units, (s.judgeSlice x true true).cop = { s.cop.ended x.unit .pass s.cn with
        passes := bump s.cop.passes, units := units, slices := [{ x with ended := true, suspect := false }] })
      ∧ (s.judgeSlice x true true).unit x.unit = { s.unit x.unit with lastCn := s.cn, due := none, starved := false } := by
  have all : s.cop.slices.map (fun y => if y.unit = x.unit then { y with ended := true, suspect := false } else y)
      = [{ x with ended := true, suspect := false }] := by simp [sole]
  have cop : (s.judgeSlice x true true).cop = { s.cop.ended x.unit .pass s.cn with
      passes := bump s.cop.passes, units := (s.completed x.unit).cop.units
      slices := [{ x with ended := true, suspect := false }] } := by
    rw [← all]
    simp only [State.judgeSlice, fresh]
    rfl
  exact ⟨⟨_, cop⟩, (State.unit_congr (by rw [cop]) x.unit).trans (s.unit_completed x.unit)⟩

/-- A first failure is shown, recorded, and tested again from the next cycle. -/
theorem State.judgeSlice_fail (fresh : x.retest = false) : (s.judgeSlice x true false).cop
    = { s.cop.ended x.unit .fail s.cn with slices := [{ x with retest := true, c := s.cn + 1 }] } := by
  have told : ((s.sliceEnded x.unit .fail 0).recordSlice 876 0x48 x.unit .fail).cop = s.cop.ended x.unit .fail s.cn :=
    State.recordSlice_cop ..
  have all : s.cop.slices.map (fun y => if y.unit = x.unit then { y with retest := true, c := s.cn + 1 } else y)
      = [{ x with retest := true, c := s.cn + 1 }] := by simp [sole]
  have cn : ((s.sliceEnded x.unit .fail 0).recordSlice 876 0x48 x.unit .fail).cn = s.cn :=
    (State.recordSlice_fr (bl := { cop := true, evt := true, way := true }) _ _ _ _ rfl
      (State.sliceEnded_fr _ _ _ rfl (.refl _ s))).cn rfl
  simp only [State.judgeSlice, fresh, State.modSlice, told, cn, Bool.not_true, Bool.false_eq_true, if_false]
  rw [← all]
  rfl

/-- A unit that fails its retest is felled. -/
theorem State.judgeSlice_fells (again : x.retest = true) :
    (∃ units thin, (s.judgeSlice x true false).cop = { s.cop.ended x.unit .felled s.cn with
        slices := [], fellings := bump s.cop.fellings, units := units, thin := thin })
      ∧ ((s.judgeSlice x true false).unit x.unit).mark = some .felled := by
  have fells : s.judgeSlice x true false = s.fellSlice x := by simp [State.judgeSlice, again]
  have empty : (s.cop.slices.filter fun y => decide (y.unit ≠ x.unit)) = [] := by simp [sole]
  obtain ⟨units, thin, cop, marked⟩ := s.fellSlice_cop x
  rw [fells, cop, empty]
  exact ⟨⟨units, thin, rfl⟩, marked⟩

end

/-! SLICE_RUN_END. -/

/-- The pattern count and the signatures of a run are shown. -/
def State.signed (s : State) (patterns : Word) (misr expected : BitVec 64) : State :=
  { s with cop := { s.cop with lastPat := patterns.toNat, misr := misr.toNat, expected := expected.toNat } }

theorem exec_sliceRunEnd_sole {s : State} {stand : Stand} {kind : Fin 8} {index : Fin 8192} {patterns : Word} {x : Slice}
    (live : s.live = true) (sole : s.cop.slices = [x]) (unit : x.unit = unitOf stand kind.val index.val)
    (started : x.started = true) (runs : x.ended = false)
    (full : s.terminal x = none ∨ s.terminal x = some patterns.toNat) (complete : Bool) (misr expected : BitVec 64) :
    exec (.sliceRunEnd stand kind index patterns complete misr expected) s
      = .next ((s.signed patterns misr expected).judgeSlice x complete (decide (misr = expected))) := by
  refine congrArg Host.Outcome.next ((State.whenLive_live live _).trans ?_)
  have found : (s.cop.slices.find? fun x => decide (x.unit = unitOf stand kind.val index.val) && x.started && !x.ended)
      = some x := by simp [sole, unit, started, runs]
  simp only [found]
  rcases full with none_ | whole
  · simp only [none_, Bool.true_and]
    rfl
  · simp only [whole, decide_true, Bool.true_and]
    rfl

/-- Settles O41: each clause is the equation of its command with the lemma on the verdict or on the fixing it names. The
units free to carry and the known end of a slice (log 86), the reasons of a deferral (log 103) and the first FAIL shown at
once (log 104) are the model's choice. -/
theorem slicesAreFixedRunAndJudged : Obligations.SlicesAreFixedRunAndJudged := by
  refine ⟨?fallsDue, ?fixed, ?disabled, ?judged, ?starved⟩
  case fallsDue =>
    intro s stand kind index id live named
    subst named
    have next := exec_unitFallsDue_live live stand kind index
    refine ⟨fun present notDue sound day => ?_, fun early => ?_⟩
    · rw [next, show s.fallsDue (unitOf stand kind.val index.val) = true by simp [State.fallsDue, present, notDue, sound, day],
        State.iff_true]
    · rw [next, show s.fallsDue (unitOf stand kind.val index.val) = false by simp [State.fallsDue, Nat.not_le.2 early],
        State.iff_false]
  case fixed =>
    intro s stand lead id rest x live enabled present fed awake candidates room named
    subst named
    have next := exec_sliceFix_enabled live enabled present fed awake lead
    rw [candidates] at next
    refine ⟨fun free idle uncommanded => ?_, fun v free victim carried => ?_, fun r waits last => ?_⟩
    · rw [next, State.tryFix_fixes room free, State.fixSlice_idle idle uncommanded]
    · have kept := execSliceFix_fr (bl := { cop := true, freeIdx := true }) stand lead next rfl (.refl _ s)
      rw [State.tryFix_fixes room free] at next kept
      obtain ⟨k, chosen, slices⟩ := State.fixSlice_carried victim carried
      exact ⟨_, _, k, next, slices, rfl, rfl, rfl, chosen, rfl, kept⟩
    · rw [next, last, State.tryFix_defers room waits]
  case disabled =>
    intro s stand lead live off
    exact exec_sliceFix_disabled live off stand lead
  case judged =>
    intro s stand kind index patterns complete misr expected x live sole unit started runs full
    have next := exec_sliceRunEnd_sole live sole unit started runs full complete misr expected
    have sole' : (s.signed patterns misr expected).cop.slices = [x] := sole
    have kept := execSliceRunEnd_fr (bl := { cop := true, evt := true, rad := true, way := true }) _ _ _ _ _ _ _ next rfl
      (.refl _ s)
    obtain ⟨misr', expected', pattern⟩ := (s.signed patterns misr expected).judgeSlice_signs x complete (decide (misr = expected))
    refine ⟨_, next, misr', expected', pattern, fun cut => ?_, fun whole same fresh => ?_, fun whole differ fresh => ?_,
      fun whole differ again => ?_, kept⟩
    · rw [cut, State.judgeSlice_cut sole']
      exact ⟨rfl, rfl, rfl⟩
    · rw [whole, decide_eq_true same]
      obtain ⟨⟨units, cop⟩, done⟩ := State.judgeSlice_pass sole' fresh
      rw [cop, done]
      exact ⟨rfl, rfl, rfl, rfl, rfl⟩
    · rw [whole, decide_eq_false differ, State.judgeSlice_fail sole' fresh]
      exact ⟨rfl, rfl⟩
    · rw [whole, decide_eq_false differ]
      obtain ⟨⟨units, thin, cop⟩, marked⟩ := State.judgeSlice_fells sole' again
      rw [cop]
      exact ⟨rfl, rfl, marked, rfl⟩
  case starved =>
    intro s stand kind index d live due
    have next := exec_coppiceStarved_due live due
    refine ⟨fun week fresh => ?_, fun early => ?_⟩
    · have kept := execCoppiceStarved_fr (bl := { cop := true, evt := true, way := true }) stand kind index next rfl (.refl _ s)
      rw [fresh, decide_eq_true week] at next kept
      exact ⟨_, next, s.starvationTold_cop .., kept⟩
    · rw [next, decide_eq_false (Nat.not_le.2 early), Bool.and_false, State.iff_false]

end Sys2Proof.Machine
end

section
/-! The standby's idle paths and the COP registers (R467, R469, R471), and O42. -/

namespace Sys2Proof.Machine

/-! Idle paths (R467). -/

theorem exec_idlePathSlice_begins {s : State} (live : s.live = true) (following : s.following = true)
    (quiet : s.ford.safeHold = false) (free : s.cop.idle = none) (enabled : bit 0 (s.reg 0x400A0000) = true)
    (noUpdate : s.upd.activation = none) (item : Fin 10) :
    exec (.idlePathSlice item) s = .next { s with
      cop := { s.cop with idle := some item.val, idleRetest := false }
      ford := { s.ford with idleClass := if item.val < 8 then some item.val else none } } :=
  congrArg Host.Outcome.next <| (State.whenLive_live live _).trans <|
    if_pos (by simp [following, quiet, free, enabled, noUpdate])

/-- No idle path is under test. -/
def State.idleEnded (s : State) : State :=
  { s with cop := { s.cop with idle := none, idleRetest := false }, ford := { s.ford with idleClass := none } }

/-- The standby's own WITHDRAW names its causes and withdraws it alone (R435). -/
theorem State.standWithdraws_standby {s : State} {x : Stand} (unasked : s.ford.diag = none) (standby : x ≠ s.ford.active)
    (causes hold : Nat) :
    s.standWithdraws x causes hold = (s.modStand x fun r => { r with causes := causes }).withdrawStandby x 1 := by
  unfold State.standWithdraws
  rw [if_neg (by simp [unasked]), if_neg standby]
  rfl

/-- No idle path is under test, and the standby names the causes it withdraws for. -/
def State.idleFailed (s : State) : State :=
  s.idleEnded.drawNat.2.modStand s.ford.active.other fun r => { r with causes := s.idleEnded.drawNat.1 % 63 + 1 }

theorem State.idleFailed_keeps (s : State) : Keeps { cop := true, ford := true, freeIdx := true } s s.idleFailed :=
  State.modStand_fr _ _ rfl rfl

section
variable {s : State} {i : Nat} (live : s.live = true) (runs : s.cop.idle = some i)
include live runs

theorem exec_idlePathEnd_pass : exec (.idlePathEnd true) s = .next s.idleEnded :=
  congrArg Host.Outcome.next <| (State.whenLive_live live _).trans <| by simp [runs, State.idleEnded]

theorem exec_idlePathEnd_first (first : s.cop.idleRetest = false) :
    exec (.idlePathEnd false) s = .next { s with cop := { s.cop with idleRetest := true } } :=
  congrArg Host.Outcome.next <| (State.whenLive_live live _).trans <| by simp [runs, first]

/-- A failure that lasts makes the standby assert WITHDRAW, with causes the spec leaves open. -/
theorem exec_idlePathEnd_lasting (again : s.cop.idleRetest = true) (following : s.following = true)
    (unasked : s.ford.diag = none) :
    exec (.idlePathEnd false) s = .next (s.idleFailed.withdrawStandby s.ford.active.other 1) := by
  have ends : exec (.idlePathEnd false) s = .next
      (s.idleEnded.drawNat.2.standWithdraws s.ford.active.other (s.idleEnded.drawNat.1 % 63 + 1) 0) := by
    refine congrArg Host.Outcome.next ((State.whenLive_live live _).trans ?_)
    have follows : s.idleEnded.following = true := following
    simp only [runs, again]
    exact if_neg (show ¬ (false || !s.idleEnded.following) = true by rw [follows]; decide)
  rw [ends, State.standWithdraws_standby (s := s.idleEnded.drawNat.2) (x := s.ford.active.other) unasked
    (Stand.other_ne _)]
  rfl

end

/-- A withdrawal leaves the idle path under test as it is. -/
theorem State.withdrawStand_idlePath (s : State) (x : Stand) (icause : Nat) :
    (s.withdrawStand x icause).cop.idle = s.cop.idle := by
  have cut (y : Slice) (u : State) : (u.cutSlice icause y).cop.idle = u.cop.idle := by
    have returned : (u.returnVictim y y.retest).cop.idle = u.cop.idle := by
      unfold State.returnVictim
      dsimp only
      split <;> rfl
    have ended (t : State) : (t.sliceEnded y.unit .incomplete icause).cop.idle = t.cop.idle := by
      unfold State.sliceEnded
      rw [(State.post_fr (bl := { evt := true }) _ _ _ rfl (.refl _ _)).cop rfl]
    unfold State.cutSlice
    split
    · exact (ended _).trans returned
    · rfl
  have cutAll : ((s.setStand x .withdrawn).cutStand x icause).cop.idle = (s.setStand x .withdrawn).cop.idle := by
    unfold State.cutStand State.cutSlices
    exact forEach_same (g := fun u : State => u.cop.idle) cut _ _
  have set : (s.setStand x .withdrawn).cop = s.cop :=
    (State.setStand_fr (bl := { evt := true, ford := true, way := true }) x .withdrawn rfl (.refl _ s)).cop rfl
  have modded (u : State) (g : StandSt → StandSt) : (u.modStand x g).cop = u.cop := by
    cases x <;> rfl
  unfold State.withdrawStand
  exact (congrArg CopSt.idle (modded _ _)).trans (cutAll.trans (congrArg CopSt.idle set))

theorem State.withdrawStandby_idlePath {s : State} (noUpdate : s.upd.activation = none) (x : Stand) (cause : Nat) :
    (s.withdrawStandby x cause).cop.idle = s.cop.idle := by
  have kept := State.withdrawStand_keeps { s with ford := { s.ford with cause := cause, decision := 2 } } x 6
  unfold State.withdrawStandby
  rw [State.standbyLost_idle ((congrArg UpdSt.activation (kept.upd rfl)).trans noUpdate), State.withdrawStand_idlePath]

/-! Actions of the COP registers (Table 13.6). -/

section
variable {s : State} {d : RegDesc} {a v : Nat} {w : Writer} (desc : descOf a = some d) (unsealed : d.metrology = false)
  (role : w.role = d.role) (noPlain : d.rw = 0) (noPlainAction : d.wo = 0)
include desc unsealed role noPlain noPlainAction

/-- A write that leaves the RWL fields as they are takes the action bits it sets. -/
theorem State.writeReg_act_of_kept (kept : merge d.rwl (s.reg a) (v % 4294967296) = s.reg a) :
    (s.writeReg a v w).2.act = masked d.act (v % 4294967296) ∧ (s.writeQuiet a v w).2.act = masked d.act (v % 4294967296) := by
  have opens : d.opensTo w s.mtr.sealOpen = true := by simp [RegDesc.opensTo, mayLocked, role, unsealed]
  have act := (State.ruled_of_kept (s := s) (d := d) (a := a) (v := v) (w := w) (by simp [RegDesc.merged, noPlain, opens, kept])).2
  rw [State.writeReg_written desc, State.writeQuiet_ruled desc, act]
  simp [opens, noPlainAction, masked]

end

/-- The description of COP_CTRL. -/
def copCtrlDesc : RegDesc :=
  { name := "COP_CTRL", base := 0x400A0000, reset := 1, rwl := 1, act := 2 }

theorem descOf_copCtrl : descOf 0x400A0000 = some copCtrlDesc := rfl

/-- The description of COP_CMD. -/
def copCmdDesc : RegDesc :=
  { name := "COP_CMD", base := 0x400A0014, act := 3 }

theorem descOf_copCmd : descOf 0x400A0014 = some copCmdDesc := rfl

/-- The description of COP_RELEASE. -/
def copReleaseDesc : RegDesc :=
  { name := "COP_RELEASE", base := 0x400A0090, act := 0x800FFFF7, role := .maker }

theorem descOf_copRelease : descOf 0x400A0090 = some copReleaseDesc := rfl

/-- CNT_CLR of an INSTALLER takes effect. -/
theorem copCtrl_clears {s : State} {w : Writer} (installer : w.role = .installer) :
    bit 1 (s.writeReg 0x400A0000 (merge 1 2 (s.reg 0x400A0000)) w).2.act = true := by
  have word : merge 1 2 (s.reg 0x400A0000) % 4294967296 = merge 1 2 (s.reg 0x400A0000) :=
    Nat.mod_eq_of_lt (merge_lt _ (by decide) (by decide))
  have kept : merge 1 (s.reg 0x400A0000) (merge 1 2 (s.reg 0x400A0000) % 4294967296) = s.reg 0x400A0000 := by
    rw [word]
    refine Nat.eq_of_testBit_eq fun i => ?_
    rw [merge_testBit, merge_testBit]
    split <;> rfl
  rw [(State.writeReg_act_of_kept descOf_copCtrl rfl installer rfl rfl kept).1, word, bit, masked, Nat.testBit_and, merge_testBit]
  rfl

section
variable {s : State} {w : Writer} (installer : w.role = .installer) (v : Nat)

theorem copCmd_reg (canonical : canonicalRegs s.regs = true) (b : Nat) : (s.writeReg 0x400A0014 v w).1.reg b = s.reg b :=
  State.writeReg_reg_of_kept canonical descOf_copCmd (by decide) (by simp [RegDesc.merged, copCmdDesc]) b

include installer in
theorem copCmd_act : (s.writeReg 0x400A0014 v w).2.act = masked 3 (v % 4294967296) :=
  (State.writeReg_act_of_kept descOf_copCmd rfl installer rfl rfl (merge_zero _ _)).1

end

/-- The unit that COP_CMD_UNIT names is still the one, and the module has it, once COP_CMD is written. -/
theorem State.copCmd_unit {s : State} {w : Writer} (canonical : canonicalRegs s.regs = true) {id : UnitId}
    (named : id = unitNamed w.stand (s.reg 0x400A0018)) (present : s.hasUnit id = true) (v : Nat) :
    unitNamed w.stand ((s.writeReg 0x400A0014 v w).1.reg 0x400A0018) = id ∧ (s.writeReg 0x400A0014 v w).1.hasUnit id
        = true := by
  refine ⟨by rw [copCmd_reg v canonical, named], ?_⟩
  simp only [State.hasUnit, (s.writeReg_keeps 0x400A0014 v w).build]
  exact present

section
variable {s : State} {w : Writer} {id : UnitId} (canonical : canonicalRegs s.regs = true)
  (installer : w.role = .installer)
include installer

include canonical in
/-- RUN commands the unit named, for a slice without a carrier where DESTRUCT is set beside it (R469). -/
theorem State.writeCopCmd_run (named : id = unitNamed w.stand (s.reg 0x400A0018)) (present : s.hasUnit id = true)
    (destruct : Bool) : (s.writeCopCmd (if destruct then 3 else 1) w).1.cop = { s.cop with command := some (id, destruct) } := by
  obtain ⟨unit, has⟩ := State.copCmd_unit canonical named present (if destruct then 3 else 1)
  have act := copCmd_act (s := s) installer (if destruct then 3 else 1)
  have cop := (s.writeReg_keeps 0x400A0014 (if destruct then 3 else 1) w).cop rfl
  simp only [State.writeCopCmd, act, unit, has, ← cop]
  cases destruct <;> rfl

theorem State.writeCopCmd_destruct :
    (s.writeCopCmd 2 w).1.cop = { s.cop with command := s.cop.command.map fun c => (c.1, true) } := by
  have act := copCmd_act (s := s) installer 2
  have cop := (s.writeReg_keeps 0x400A0014 2 w).cop rfl
  simp only [State.writeCopCmd, act, ← cop]
  rfl

theorem State.writeCopCtrl_clears : (s.writeCopCtrl (merge 1 2 (s.reg 0x400A0000)) w).1.cop
    = { s.cop with passes := 0, transients := 0, incompletes := 0, fellings := 0, deferrals := 0 } := by
  have cop := (s.writeReg_keeps 0x400A0000 (merge 1 2 (s.reg 0x400A0000)) w).cop rfl
  simp only [State.writeCopCtrl, copCtrl_clears installer, if_true, ← cop]

end

/-! COP_RELEASE (R471). -/

/-- A field that a mask covers stays under it. -/
theorem field_masked {hi lo m : Nat} (v : Nat) (covers : ∀ i < hi + 1 - lo, m.testBit (lo + i) = true) :
    field hi lo (masked m v) = field hi lo v := by
  refine Nat.eq_of_testBit_eq fun i => ?_
  rw [field_testBit, field_testBit]
  by_cases h : i < hi + 1 - lo
  · rw [masked, Nat.testBit_and, covers i h, Bool.and_true]
  · simp [h]

/-- COP_RELEASE takes GO, and the unit of its word is the one named. -/
theorem copRelease_act {s : State} {w : Writer} (maker : w.role = .maker) (kind : Fin 8) (index : Fin 65536) :
    bit 31 (s.writeQuiet 0x400A0090 (2 ^ 31 + unitPayload kind.val index.val) w).2.act = true
      ∧ unitNamed w.stand (s.writeQuiet 0x400A0090 (2 ^ 31 + unitPayload kind.val index.val) w).2.act
        = unitOf w.stand kind.val index.val := by
  have k := kind.isLt
  have i := index.isLt
  have word : (2 ^ 31 + unitPayload kind.val index.val) % 4294967296 = 2 ^ 31 + (kind.val + 16 * index.val) := by
    simp only [unitPayload]
    omega
  rw [(State.writeReg_act_of_kept descOf_copRelease rfl maker rfl rfl (merge_zero _ _)).2, word]
  have go : (2 ^ 31 + (kind.val + 16 * index.val)).testBit 31 = true := by
    rw [Nat.testBit_eq_decide_div_mod_eq]
    exact decide_eq_true (by omega)
  have kindField : field 2 0 (2 ^ 31 + (kind.val + 16 * index.val)) = kind.val := by
    simp only [field, Nat.shiftRight_eq_div_pow]
    omega
  have indexField : field 19 4 (2 ^ 31 + (kind.val + 16 * index.val)) = index.val := by
    simp only [field, Nat.shiftRight_eq_div_pow]
    omega
  refine ⟨?_, ?_⟩
  · rw [bit, masked, Nat.testBit_and, go]
    decide
  · rw [unitNamed, field_masked _ (by decide), field_masked _ (by decide), kindField, indexField]

/-- A MAKER releases a SUSPECT unit that no slice holds (R471). -/
theorem exec_suspectRelease_suspect {s : State} {w : Writer} {kind : Fin 8} {index : Fin 65536} {id : UnitId}
    (live : s.live = true) (maker : w.role = .maker) (named : id = unitOf w.stand kind.val index.val)
    (suspect : (s.unit id).mark = some .suspect) (free : (s.cop.slices.any fun x => decide (x.unit = id)) = false) :
    ∃ t, exec (.suspectRelease kind index w) s = .next t
      ∧ t.cop = (s.modUnit id fun u => { u with mark := none }).cop := by
  refine ⟨_, congrArg Host.Outcome.next (State.whenLive_live live _), ?_⟩
  obtain ⟨go, unit⟩ := copRelease_act (s := s) maker kind index
  have kept : Keeps { evt := true, regs := true, way := true } s
      (s.writeQuiet 0x400A0090 (2 ^ 31 + unitPayload kind.val index.val) w).1 := State.writeQuiet_fr _ _ _ rfl (.refl _ s)
  have cop := kept.cop rfl
  have same := State.unit_congr (congrArg CopSt.units cop) id
  simp only [State.writeCopRelease, go, unit, ← named, cop, same, suspect, free, Bool.not_true, Bool.not_false,
    Bool.false_eq_true, if_false, and_self, if_true]
  have modded (t : State) (c : t.cop = s.cop) (g : UnitSt → UnitSt) : (t.modUnit id g).cop = (s.modUnit id g).cop := by
    simp only [State.modUnit, State.putUnit, State.unit, c]
    rfl
  split
  · rw [(State.recordWrite_fr (bl := { evt := true, way := true }) _ _ _ _ _ rfl (.refl _ _)).cop rfl]
    exact modded _ cop _
  · exact modded _ cop _

/-- Settles O42: each clause is the equation of its command; a lasting failure is the standby's own WITHDRAW, which leaves no
idle path under test. That its causes are free is the model's choice (log 104). -/
theorem idlePathsAndCoppiceCommands : Obligations.IdlePathsAndCoppiceCommands := by
  refine ⟨?begins, ?ends, ?commands, ?release, ?clear⟩
  case begins =>
    intro s item live following quiet free enabled noUpdate
    exact exec_idlePathSlice_begins live following quiet free enabled noUpdate item
  case ends =>
    intro s i live runs
    refine ⟨exec_idlePathEnd_pass live runs, exec_idlePathEnd_first live runs, fun again following unasked noUpdate => ?_⟩
    have next := exec_idlePathEnd_lasting live runs again following unasked
    have before := s.idleFailed_keeps
    have noUpdate' : s.idleFailed.upd.activation = none := (congrArg UpdSt.activation (before.upd rfl)).trans noUpdate
    obtain ⟨ford, after⟩ := State.withdrawStandby_idle noUpdate' s.ford.active.other 1
    have ended : s.idleFailed.cop.idle = none :=
      congrArg CopSt.idle ((State.modStand_fr (bl := { ford := true }) _ _ rfl (.refl _ s.idleEnded.drawNat.2)).cop rfl)
    refine ⟨_, next, (State.withdrawStandby_idlePath noUpdate' _ _).trans ended, ?_, ?_,
      (before.mono rfl).trans (after.mono rfl)⟩
    · rw [ford, FordSt.of_withdrawn_same]
      rfl
    · rw [ford]
      have still := congrArg FordSt.active
        (s.idleEnded.drawNat.2.modStand_ford s.ford.active.other fun r => { r with causes := s.idleEnded.drawNat.1 % 63 + 1 })
      exact still
  case commands =>
    intro s w id live canonical installer named present
    have run := State.writeCopCmd_run canonical installer named present
    have runs : exec (.coppiceRun w) s = .next (s.writeCopCmd 1 w).1 := congrArg Host.Outcome.next (State.whenLive_live live _)
    have destructs (both : Bool) : exec (.coppiceDestruct both w) s = .next (s.writeCopCmd (2 + flag both 0) w).1 :=
      congrArg Host.Outcome.next (State.whenLive_live live _)
    exact ⟨⟨_, runs, run false, execCoppiceRun_fr w runs rfl (.refl _ s)⟩,
      ⟨_, destructs true, run true, execCoppiceDestruct_fr true w (destructs true) rfl (.refl _ s)⟩,
      ⟨_, destructs false, State.writeCopCmd_destruct installer,
        execCoppiceDestruct_fr false w (destructs false) rfl (.refl _ s)⟩⟩
  case release =>
    intro s kind index w id live canonical maker named suspect free
    obtain ⟨t, next, cop⟩ := exec_suspectRelease_suspect live maker named suspect free
    exact ⟨t, next, cop, execSuspectRelease_fr kind index w next rfl (.refl _ s)⟩
  case clear =>
    intro s w live canonical installer
    have next : exec (.copCntClr w) s = .next (s.writeCopCtrl (merge 1 2 (s.reg 0x400A0000)) w).1 :=
      congrArg Host.Outcome.next (State.whenLive_live live _)
    exact ⟨_, next, State.writeCopCtrl_clears installer, execCopCntClr_fr w next rfl (.refl _ s)⟩

end Sys2Proof.Machine
end

section
/-! Rules of the key slots: what a slot holds after one is put or emptied (R474, R483). -/

namespace Sys2Proof.Machine

theorem lget_lmod_ne {α : Type} (d : α) (f : α → α) {k n : Nat} (other : k ≠ n) (l : List α) :
    lget d k (lmod f n l) = lget d k l := by
  fun_induction lmod f n l generalizing k with
  | case1 => rfl
  | case2 x r =>
    cases k with
    | zero => exact absurd rfl other
    | succ k => rfl
  | case3 n x r ih =>
    cases k with
    | zero => rfl
    | succ k => exact ih fun same => other (congrArg Nat.succ same)

theorem length_lmod {α : Type} (f : α → α) (n : Nat) (l : List α) : (lmod f n l).length = l.length := by
  fun_induction lmod f n l with
  | case1 => rfl
  | case2 => rfl
  | case3 n x r ih => exact congrArg Nat.succ ih

@[simp] theorem length_lset {α : Type} (n : Nat) (v : α) (l : List α) : (lset n v l).length = l.length :=
  length_lmod _ n l

theorem State.slot_congr {s t : State} (same : t.key.slots = s.key.slots) (n : Nat) : t.slot n = s.slot n := by
  simp only [State.slot, same]

theorem State.slot_setSlot_same {s : State} {n : Nat} (within : n < s.key.slots.length) (c : SlotSt) :
    (s.setSlot n c).slot n = c :=
  lget_lset_same _ c within

theorem State.slot_setSlot_ne (s : State) {k n : Nat} (other : k ≠ n) (c : SlotSt) : (s.setSlot n c).slot k = s.slot k :=
  lget_lmod_ne _ _ other _

@[simp] theorem State.length_setSlot (s : State) (n : Nat) (c : SlotSt) :
    (s.setSlot n c).key.slots.length = s.key.slots.length :=
  length_lset ..

/-- An emptied slot is EMPTY, and so is one beyond the last. -/
@[simp] theorem State.slot_emptySlot_same (s : State) (n : Nat) : (s.emptySlot n).slot n = {} :=
  lget_lmod_of_made (P := fun c : SlotSt => c = {}) (d := {}) (g := fun _ => {}) (fun _ => rfl) rfl (.inl rfl)

theorem State.slot_emptySlot_ne (s : State) {k n : Nat} (other : k ≠ n) : (s.emptySlot n).slot k = s.slot k :=
  s.slot_setSlot_ne other {}

/-- Whatever slot is emptied, an EMPTY one stays EMPTY. -/
theorem State.slot_emptySlot_of_empty {s : State} {k : Nat} (empty : s.slot k = {}) (n : Nat) :
    (s.emptySlot n).slot k = {} :=
  lget_lmod_of_made (P := fun c : SlotSt => c = {}) (d := {}) (g := fun _ => {}) (fun _ => rfl) rfl (.inr empty)

end Sys2Proof.Machine
end

section
/-! The tamper alarm and zeroisation (R490 to R492). -/

namespace Sys2Proof.Machine

/-! Zeroisation (R492). -/

theorem State.zeroise_keeps (s : State) : Keeps { ford := true, key := true } s s.zeroise :=
  State.zeroise_fr rfl (.refl _ s)

/-- Zeroisation empties every MB or TE slot. -/
theorem State.slot_zeroise {s : State} {n : Nat} (within : n < 64) (erasable : (s.slot n).erasable = true) :
    s.zeroise.slot n = {} := by
  have gone : n ∈ (upFrom 0 64).filter fun n => (s.slot n).erasable :=
    List.mem_filter.2 ⟨(by decide : ∀ k < 64, k ∈ upFrom 0 64) n within, erasable⟩
  exact forEach_reaches (f := fun n (s : State) => s.emptySlot n) (Q := fun n s => s.slot n = {})
    (fun n s => s.slot_emptySlot_same n) (fun k n s empty => State.slot_emptySlot_of_empty empty n) gone _

/-- The key block without its slots. -/
def KeySt.bare (k : KeySt) : KeySt :=
  { k with slots := [] }

/-- Besides the slots, zeroisation only abandons a rotation. -/
theorem State.zeroise_bare (s : State) : s.zeroise.key.bare = { s.key.bare with rotation := none } := by
  let gone := (upFrom 0 64).filter fun n => (s.slot n).erasable
  have withered : (forEach (fun n s => s.witherChildren n) gone s).key.bare = s.key.bare :=
    forEach_same (f := fun n (s : State) => s.witherChildren n) (g := fun s : State => s.key.bare) (fun _ _ => rfl) gone s
  have emptied : (forEach (fun n s => s.emptySlot n) gone (forEach (fun n s => s.witherChildren n) gone s)).key.bare
      = s.key.bare :=
    (forEach_same (f := fun n (s : State) => s.emptySlot n) (g := fun s : State => s.key.bare) (fun _ _ => rfl) gone _).trans withered
  exact congrArg (fun k : KeySt => { k with rotation := none }) emptied

/-! The alarm (Table 14.8). -/

/-- The module zeroised and TAMPERED for a cause, with the SCHEDULED nodes kept for the clear. -/
def State.alarmed (s : State) (cause : Nat) : State :=
  { s.zeroise with
    key := { s.zeroise.key with
      state := .tampered, maintEnd := none, alarms := satAdd 65535 s.zeroise.key.alarms 1, cause := cause }
    adm := { s.zeroise.adm with tamperSet := s.scheduledSet } }

theorem State.alarmed_keeps (s : State) (cause : Nat) : Keeps { adm := true, ford := true, key := true } s (s.alarmed cause) :=
  (s.zeroise_keeps.mono (b := { adm := true, ford := true, key := true }) rfl).trans rfl

/-- With no update to stop, an alarm ends the slices, the open promises' radio and a COPY, and no more. -/
theorem State.tamperServices_keeps {s : State} (noUpdate : s.upd.activation = none) :
    Keeps { adm := true, cop := true, evt := true, ford := true, rad := true } s s.tamperServices := by
  let cut : State := s.cutSlices 3 fun _ => true
  let marked : State := forEach (fun g s => s.markRadioLoss g) cut.grovesInUse cut
  have kept : Keeps { adm := true, cop := true, evt := true, rad := true } s marked :=
    keeps_forEach _ _ (fun g t held => State.markRadioLoss_fr g rfl held) (State.cutSlices_fr 3 _ rfl (.refl _ s))
  have stopped : marked.tamperUpdate = marked := by
    simp only [State.tamperUpdate, (congrArg UpdSt.activation (kept.upd rfl)).trans noUpdate]
  have services : s.tamperServices = marked.tamperUpdate.restartCopy := rfl
  rw [services, stopped]
  exact (kept.mono rfl).trans (State.restartCopy_fr rfl (.refl _ marked))

/-- What an alarm for a cause leaves of a state: TAMPERED, counted, and zeroised. -/
structure State.Alarm (s : State) (cause : Nat) (t : State) : Prop where
  state : t.key.state = .tampered
  cause : t.key.cause = cause
  meshOk : t.key.meshOk = s.key.meshOk
  alarms : t.key.alarms = min 65535 (s.key.alarms + 1)
  emptied : ∀ n < 64, (s.slot n).erasable = true → (t.slot n).state = .empty
  keeps : Keeps { adm := true, cop := true, evt := true, ford := true, key := true, rad := true, way := true } s t

theorem State.tamperAlarm_live {s : State} (live : s.live = true) (idle : s.key.run = none) (noUpdate : s.upd.activation = none)
    (cause : Nat) : s.Alarm cause (s.tamperAlarm cause) := by
  let told : State := ((s.alarmed cause).post (tamperSource cause) 1 0).recordTamper (tamperSource cause) .tampered 1 cause
  have done : s.completeKey .tampered = s := by simp only [State.completeKey, idle]
  have before := s.alarmed_keeps cause
  have stillLive : (s.alarmed cause).live = true := by
    rw [← live]
    simp only [State.live, before.sys rfl]
  have alarm : s.tamperAlarm cause = told.tamperServices := by
    unfold State.tamperAlarm
    rw [done]
    exact if_pos stillLive
  have tells : Keeps { evt := true, way := true } (s.alarmed cause) told :=
    State.recordTamper_fr _ _ _ _ rfl (State.post_fr _ 1 0 rfl (.refl _ _))
  have all := (before.mono (b := { adm := true, evt := true, ford := true, key := true, way := true }) rfl).trans (tells.mono rfl)
  have after := State.tamperServices_keeps ((congrArg UpdSt.activation (all.upd rfl)).trans noUpdate)
  have key : (s.tamperAlarm cause).key = (s.alarmed cause).key := by rw [alarm, after.key rfl, tells.key rfl]
  have meshOk := congrArg KeySt.meshOk s.zeroise_bare
  have alarms := congrArg KeySt.alarms s.zeroise_bare
  refine ⟨by rw [key]; rfl, by rw [key]; rfl, ?_, ?_, fun n within erasable => ?_, ?_⟩
  · rw [key]
    exact meshOk
  · rw [key]
    exact congrArg (fun alarms => min 65535 (alarms + 1)) alarms
  · have slot : (s.tamperAlarm cause).slot n = s.zeroise.slot n := State.slot_congr (by rw [key]; rfl) n
    rw [slot, State.slot_zeroise within erasable]
  · rw [alarm]
    exact (all.mono rfl).trans (after.mono rfl)

/-! The sources (R490). -/

theorem State.tamperWatch_live {s : State} (live : s.live = true) : s.tamperWatch = true := by
  simp only [State.tamperWatch, live, Bool.true_or]

theorem State.tamperEvent_normal {s : State} (normal : s.key.state = .normal) (cause : Nat) :
    s.tamperEvent cause = s.tamperAlarm cause := by
  simp only [State.tamperEvent, normal]

/-- The check finds the mesh cut or shorted. -/
def State.meshBroken (s : State) : State :=
  { s with key := { s.key with meshOk := false, meshFault := true } }

theorem exec_meshCheck_broken {s : State} (live : s.live = true) (normal : s.key.state = .normal) :
    exec (.meshCheck false) s = .next (s.meshBroken.tamperAlarm 16) := by
  refine congrArg Host.Outcome.next ?_
  rw [State.tamperWatch_live live, State.iff_true]
  simp only [State.tampered, normal, State.tamperEvent, State.meshBroken]
  simp

theorem exec_meshCheck_whole {s : State} (live : s.live = true) :
    exec (.meshCheck true) s = .next { s with key := { s.key with meshOk := true } } := by
  refine congrArg Host.Outcome.next ?_
  rw [State.tamperWatch_live live, State.iff_true]
  simp

/-- A TMPn input is active for its debounce time. -/
def State.inputQualified (s : State) (n : Fin 4) : State :=
  { s with key := { s.key with
      qualified := lset n.val true s.key.qualified, activeSince := lset n.val none s.key.activeSince } }

theorem exec_tamperQualified_normal {s : State} {n : Fin 4} {tick : Nat} (live : s.live = true) (normal : s.key.state = .normal)
    (qualifies : (s.advanceTo tick).tmpQualifies n = true) :
    exec (.tamperQualified n tick) s = .next (((s.advanceTo tick).inputQualified n).tamperAlarm (2 ^ n.val)) := by
  have watch : (s.advanceTo tick).tamperWatch = true := State.tamperWatch_live live
  refine congrArg Host.Outcome.next ?_
  simp only [live, State.iff_true, watch, qualifies, Bool.and_self]
  exact State.tamperEvent_normal (s := (s.advanceTo tick).inputQualified n) normal _

/-! A level change (R490). -/

/-- A TMPn input shows a level, and its debounce starts where it is watched and active, else ends. -/
theorem exec_tamperInputChange_change {s : State} {n : Fin 4} {high : Bool} (live : s.live = true)
    (within : n.val < s.fld.tmpHigh.length) (kept : n.val < s.key.activeSince.length)
    (changes : lget false n.val s.fld.tmpHigh ≠ high) (tick : Nat) (sub : Fin 10) :
    ∃ t, exec (.tamperInputChange n high tick sub) s = .next t ∧ lget false n.val t.fld.tmpHigh = high
      ∧ lget none n.val t.key.activeSince
        = if bit n.val (s.reg 0x400800B0) && (high != bit (4 + n.val) (s.reg 0x400800B0)) then some (s.advanceTo tick).time.ref
          else none := by
  let later : State := s.advanceTo tick
  let shown : State := { later with
    fld := { later.fld with tmpHigh := lset n.val high later.fld.tmpHigh }
    key := { later.key with activeSince := lset n.val none later.key.activeSince } }
  let armed : State := shown.armTamper n.val
  have captured : Keeps { evt := true, time := true } armed
      (armed.iff armed.live fun s => s.capture (Fin.ofNat 7 (3 + n.val)) high sub.val) :=
    keeps_iff _ _ (.refl _ armed) fun _ held => State.capture_fr _ _ _ rfl held
  have next : exec (.tamperInputChange n high tick sub) s
      = .next (armed.iff armed.live fun s => s.capture (Fin.ofNat 7 (3 + n.val)) high sub.val) := by
    refine congrArg Host.Outcome.next ?_
    rw [live, State.iff_true]
    exact if_neg changes
  have level : lget false n.val shown.fld.tmpHigh = high := lget_lset_same _ _ within
  have idle : lget none n.val shown.key.activeSince = none := lget_lset_same _ _ kept
  have since : lget none n.val armed.key.activeSince
      = if shown.tmpWatched n.val && shown.tmpActive n.val then some later.time.ref else none := by
    refine (lget_lset_same none _ (by rw [length_lset]; exact kept)).trans ?_
    rw [idle]
    rfl
  refine ⟨_, next, ?_, ?_⟩
  · rw [captured.fld rfl]
    exact level
  · rw [captured.key rfl, since]
    simp only [State.tmpActive, level]
    rfl

end Sys2Proof.Machine
end

section
/-! The maintenance window and the tamper clear (R491, R497), and O20. -/

namespace Sys2Proof.Machine

/-! The maintenance window (R491). -/

/-- A window of so many minutes opens. -/
def State.maintOpen (s : State) (minutes : Nat) : State :=
  { s with key := { s.key with state := .maint, maintEnd := some (s.cn + minutes * s.secondsInCycles 60) } }

theorem State.writeTmpMaint_opens {s : State} {w : Writer} {v : Nat} (installer : w.role = .installer) (j7 : w.via = .monitor)
    (sound : s.key.state ≠ .tampered) (some_ : 1 ≤ field 8 0 v) (most : field 8 0 v ≤ 480) :
    (s.writeTmpMaint v w).1 = (s.recordWrite w .ok 0x400800B8 s.maintLeft (field 8 0 v)).maintOpen (field 8 0 v) := by
  have nonzero : field 8 0 v ≠ 0 := by omega
  unfold State.writeTmpMaint
  dsimp only
  rw [if_neg (by simp [installer, j7]), if_neg (Nat.not_lt.2 most), if_neg (by simp [State.tampered, sound]),
    decide_eq_true nonzero, Bool.true_or, State.iff_true, if_neg nonzero]
  rfl

theorem exec_keyTmpMaint_live {s : State} (live : s.live = true) (value : Word) (w : Writer) :
    exec (.keyTmpMaint value w) s = .next (s.writeTmpMaint value.toNat w).1 :=
  congrArg Host.Outcome.next (State.whenLive_live live _)

theorem exec_maintWindowEnd_over {s : State} {e : Cn} (live : s.live = true) (open_ : s.key.state = .maint)
    (last : s.key.maintEnd = some e) (over_ : e ≤ s.cn) : exec .maintWindowEnd s = .next s.endMaint :=
  congrArg Host.Outcome.next <| (State.whenLive_live live _).trans <| by simp [last, open_, over_]

/-- With no input active, the end of the window leaves the module NORMAL. -/
theorem State.endMaint_quiet {s : State} (quiet : s.tmpActiveMask = 0) :
    s.endMaint = { s with key := { s.key with state := .normal, maintEnd := none } } :=
  if_pos quiet

/-! The tamper clear (R497). -/

/-- KS10 is LIVE once it is derived. -/
theorem State.slot_deriveStorage {s : State} (within : 10 < s.key.slots.length) : (s.deriveStorage.slot 10).state = .live :=
  congrArg SlotSt.state (State.slot_setSlot_same within _)

/-- A derivation of grove keys into half 0 leaves every slot below it as it is. -/
theorem State.slot_deriveGroves_below (s : State) (root generation : Nat) {k : Nat} (below : k < 16) :
    (s.deriveGroves 0 root generation).slot k = s.slot k :=
  forEach_same (g := fun t : State => t.slot k) (fun g t => t.slot_setSlot_ne (by omega) _) s.grovesInUse s

theorem State.bare_deriveGroves (s : State) (half root generation : Nat) :
    (s.deriveGroves half root generation).key.bare = s.key.bare := by
  have bare (t : State) (n : Nat) (c : SlotSt) : (t.setSlot n c).key.bare = t.key.bare := rfl
  exact forEach_same (g := fun t : State => t.key.bare) (fun _ t => bare t _ _) s.grovesInUse s

/-- Fresh groves leave KS10 as it is and a new root LIVE in KS12. -/
theorem State.freshGroves_slots {s : State} (within : 12 < s.key.slots.length) :
    s.freshGroves.slot 10 = s.slot 10 ∧ (s.freshGroves.slot 12).state = .live := by
  let rooted : State := (s.generateRoot 0).emptySlot 13
  let renewed : State := { rooted with key := { rooted.key with
    root := 0, half := 0, generation := nextGeneration s.key.issued, issued := nextGeneration s.key.issued } }
  have slots (k : Nat) (below : k < 16) : s.freshGroves.slot k = rooted.slot k :=
    renewed.slot_deriveGroves_below 0 (nextGeneration s.key.issued) below
  refine ⟨?_, ?_⟩
  · rw [slots 10 (by omega), State.slot_emptySlot_ne _ (by omega)]
    exact s.drawRandom.2.slot_setSlot_ne (by omega) _
  · rw [slots 12 (by omega), State.slot_emptySlot_ne _ (by omega)]
    exact congrArg SlotSt.state (State.slot_setSlot_same (s := s.drawRandom.2) within _)

theorem State.freshGroves_generation (s : State) : s.freshGroves.key.generation = nextGeneration s.key.issued := by
  let rooted : State := (s.generateRoot 0).emptySlot 13
  let renewed : State := { rooted with key := { rooted.key with
    root := 0, half := 0, generation := nextGeneration s.key.issued, issued := nextGeneration s.key.issued } }
  have generation := congrArg KeySt.generation (renewed.bare_deriveGroves 0 0 (nextGeneration s.key.issued))
  exact generation

/-- The clear leaves the module NORMAL over the fresh groves' keys. -/
theorem State.tamperRestore_key (s : State) :
    s.tamperRestore.key = { s.deriveStorage.freshGroves.key with state := .normal, cause := 0 } := by
  let fresh : State := s.deriveStorage.freshGroves
  let cleared : State := { fresh with key := { fresh.key with state := .normal, cause := 0 } }
  let told : State := cleared.recordAs .installer 0x0408 0x50 .ok (le 1 3 ++ le 1 0 ++ le 1 0)
  have restored : s.tamperRestore = (told.startRejoin told.adm.tamperSet 2).resumeUpdate := rfl
  have kept : Keeps { adm := true, evt := true, node := true, rad := true, upd := true, way := true } cleared
      (told.startRejoin told.adm.tamperSet 2).resumeUpdate :=
    State.resumeUpdate_fr rfl (State.startRejoin_fr _ _ rfl (State.recordAs_fr _ _ _ _ _ rfl (.refl _ cleared)))
  rw [restored, kept.key rfl]

theorem exec_keyTmpClear_restores {s : State} {w : Writer} {value : Word} (live : s.live = true) (go : bit 0 value.toNat = true)
    (installer : w.role = .installer) (j7 : w.via = .monitor) (tampered : s.key.state = .tampered)
    (quiet : s.tmpActiveMask = 0) (whole : s.key.meshOk = true) :
    exec (.keyTmpClear value w) s = .next s.tamperRestore := by
  refine congrArg Host.Outcome.next ((State.whenLive_live live _).trans ?_)
  simp [State.writeTmpClear, go, installer, j7, State.tampered, tampered, quiet, whole]

/-- Settles O20: the alarm of either source is one lemma; the window and the clear are the equations of their commands. -/
theorem tamperAndMaintenance : Obligations.TamperAndMaintenance := by
  refine ⟨⟨?alarm, ?whole, ?level⟩, ?opens, ?ends, ?clear⟩
  case alarm =>
    intro s live normal idle noUpdate _
    refine ⟨?_, fun n tick qualifies => ?_⟩
    · have alarm := State.tamperAlarm_live (s := s.meshBroken) live idle noUpdate 16
      have before : Keeps { key := true } s s.meshBroken := rfl
      exact ⟨_, exec_meshCheck_broken live normal, alarm.state, alarm.cause, alarm.meshOk, alarm.alarms, alarm.emptied,
        (before.mono rfl).trans alarm.keeps⟩
    · have alarm := State.tamperAlarm_live (s := (s.advanceTo tick).inputQualified n) live idle noUpdate (2 ^ n.val)
      have before : Keeps { key := true, time := true } s ((s.advanceTo tick).inputQualified n) := rfl
      exact ⟨_, exec_tamperQualified_normal live normal qualifies, alarm.state, alarm.cause, alarm.emptied,
        (before.mono rfl).trans (alarm.keeps.mono rfl)⟩
  case whole => exact fun s live => exec_meshCheck_whole live
  case level =>
    intro s n high tick sub live within kept changes
    obtain ⟨t, next, level, since⟩ := exec_tamperInputChange_change live within kept changes tick sub
    exact ⟨t, next, level, since, execTamperInputChange_fr n high tick sub next rfl (.refl _ s)⟩
  case opens =>
    intro s value w live _ installer j7 sound some_ most
    have next := exec_keyTmpMaint_live live value w
    rw [State.writeTmpMaint_opens installer j7 sound some_ most] at next
    have told : Keeps { evt := true, way := true } s (s.recordWrite w .ok 0x400800B8 s.maintLeft (field 8 0 value.toNat)) :=
      State.recordWrite_fr _ _ _ _ _ rfl (.refl _ s)
    refine ⟨_, next, rfl, ?_, (told.mono rfl).trans rfl⟩
    simp only [State.maintOpen, State.secondsInCycles, told.cn, told.time]
  case ends =>
    intro s e live open_ last over_ quiet
    rw [exec_maintWindowEnd_over live open_ last over_, State.endMaint_quiet quiet]
  case clear =>
    intro s value w live _ go installer j7 tampered quiet whole length
    have next := exec_keyTmpClear_restores live go installer j7 tampered quiet whole
    have key := s.tamperRestore_key
    have slots : s.tamperRestore.key.slots = s.deriveStorage.freshGroves.key.slots := by rw [key]
    obtain ⟨storage, root⟩ := State.freshGroves_slots (s := s.deriveStorage)
      (by rw [State.deriveStorage, State.length_setSlot]; omega)
    refine ⟨_, next, by rw [key], by rw [key], ?_, ?_, ?_, execKeyTmpClear_fr value w next rfl (.refl _ s)⟩
    · rw [State.slot_congr slots, storage]
      exact State.slot_deriveStorage (by omega)
    · rw [State.slot_congr slots, root]
    · rw [key]
      exact s.deriveStorage.freshGroves_generation

end Sys2Proof.Machine
end

section
/-! Key commands (R478, R479), slot expiry (R484) and attestation (R486). -/

namespace Sys2Proof.Machine

/-! A command begins. -/

theorem exec_keyCommand_live {s : State} {slot : Fin 64} {w : Writer} {op : KeyOp} {i : Instr} (live : s.live = true)
    (listed : (op, i) ∈ [(KeyOp.write, Instr.keyWrite slot w), (KeyOp.derive_, .keyDerive slot w),
      (KeyOp.generate, .keyGenerate slot w), (KeyOp.erase, .keyErase slot w)]) :
    exec i s = .next (s.keyCommand w slot.val op).1 := by
  simp only [List.mem_cons, List.not_mem_nil, or_false, Prod.mk.injEq] at listed
  rcases listed with ⟨rfl, rfl⟩ | ⟨rfl, rfl⟩ | ⟨rfl, rfl⟩ | ⟨rfl, rfl⟩ <;>
    exact congrArg Host.Outcome.next (State.whenLive_live live _)

section
variable {s : State} (w : Writer) (slot : Nat) (op : KeyOp)

/-- The command that begins runs with the result its slot is to hold. -/
def State.keyBegun (s : State) : State :=
  let made := s.keyResult op (s.attrFor slot)
  { made.2 with key := { made.2.key with run := some { op := op, slot := slot, role := w.role, result := made.1 } } }

theorem State.keyCommand_begins (free : s.key.run = none) (fed : s.sys.powerFail = false) (may : s.mayKey w slot op = true)
    (allowed : s.keyRefusal slot op (s.attrFor slot) = .ok) : (s.keyCommand w slot op).1 = s.keyBegun w slot op := by
  simp only [State.keyCommand, free, fed, may, allowed]
  rfl

theorem State.keyCommand_busy (runs : s.key.run ≠ none) : (s.keyCommand w slot op).1 = s.refuseKey w slot op .busy := by
  have busy : s.key.run.isSome = true := Option.isSome_iff_ne_none.2 runs
  simp only [State.keyCommand, busy, Bool.true_or, if_true]

theorem State.keyBegun_spec (s : State) :
    (s.keyBegun w slot op).key.run
        = some { op := op, slot := slot, role := w.role, result := (s.keyResult op (s.attrFor slot)).1 }
      ∧ (s.keyBegun w slot op).key.slots = s.key.slots ∧ Keeps { freeIdx := true, key := true } s (s.keyBegun w slot op) := by
  have made : Keeps { freeIdx := true } s (s.keyResult op (s.attrFor slot)).2 := State.keyResult_fr _ _ rfl (.refl _ s)
  have slots := congrArg KeySt.slots (made.key rfl)
  exact ⟨rfl, slots, (made.mono (b := { freeIdx := true, key := true }) rfl).trans rfl⟩

theorem State.refuseKey_key (s : State) (reason : Reason) :
    (s.refuseKey w slot op reason).key = { s.key with reason := reason, tagged := false } :=
  (State.recordKey_fr (bl := { evt := true, way := true }) _ _ _ _ _ rfl (.refl _ _)).key rfl

end

/-! A command completes (R479). -/

theorem State.length_invalidate (s : State) (n : Nat) : (s.invalidate n).key.slots.length = s.key.slots.length := by
  have tagged : (s.invalidate n).key.slots = (s.witherChildren n).key.slots := by
    unfold State.invalidate State.tagRun
    split
    · split <;> rfl
    · rfl
  rw [tagged]
  exact List.length_map _

theorem State.invalidate_run {s : State} (idle : s.key.run = none) (n : Nat) : (s.invalidate n).key.run = none := by
  have wither : (s.witherChildren n).key.run = none := idle
  unfold State.invalidate State.tagRun
  rw [wither]
  exact wither

/-- What a running command leaves in its slot when it completes in a cycle. -/
def KeyRun.leaves (r : KeyRun) (cn : Cn) : SlotSt :=
  if r.op = .erase then {} else if r.tagged then { r.result with state := .withered, expiry := cn } else r.result

theorem KeyRun.leaves_made {r : KeyRun} (makes : r.op ≠ .erase) (whole : r.tagged = false) (cn : Cn) :
    r.leaves cn = r.result := by
  simp [KeyRun.leaves, makes, whole]

theorem KeyRun.leaves_erased {r : KeyRun} (erases : r.op = .erase) (cn : Cn) : r.leaves cn = {} :=
  if_pos erases

/-- The command's slot holds what it leaves, and no command runs. -/
theorem State.applyKey_spec {s : State} {r : KeyRun} (idle : s.key.run = none) :
    (s.applyKey r).key.run = none
      ∧ (r.slot < s.key.slots.length → (s.applyKey r).slot r.slot = r.leaves (s.invalidate r.slot).cn) := by
  let put : State := (s.invalidate r.slot).setSlot r.slot (r.leaves (s.invalidate r.slot).cn)
  have applied : s.applyKey r
      = if r.op = .write ∧ r.slot = 2 ∧ r.role = .installer then { put with key := { put.key with factory := false } } else put := by
    unfold put State.applyKey KeyRun.leaves
    cases r.op <;> rfl
  have holds (within : r.slot < s.key.slots.length) : put.slot r.slot = r.leaves (s.invalidate r.slot).cn :=
    State.slot_setSlot_same (by rw [State.length_invalidate]; exact within) _
  have run : put.key.run = none := State.invalidate_run idle r.slot
  rw [applied]
  split
  · exact ⟨run, holds⟩
  · exact ⟨run, holds⟩

/-- The state with its key command taken off. -/
def State.keyIdle (s : State) : State :=
  { s with key := { s.key with run := none } }

theorem State.completeKey_ok {s : State} {r : KeyRun} (runs : s.key.run = some r) :
    (s.completeKey .ok).key = { (s.keyIdle.applyKey r).key with reason := .ok, tagged := r.tagged } := by
  simp only [State.completeKey, runs, if_true, State.post_key]
  exact (State.recordKey_fr (bl := { evt := true, way := true }) _ _ _ _ _ rfl (.refl _ _)).key rfl

theorem exec_keyCommandComplete_live {s : State} (live : s.live = true) :
    exec .keyCommandComplete s = .next (s.completeKey .ok) :=
  congrArg Host.Outcome.next (State.whenLive_live live _)

/-! A withered slot expires (R484), and an attestation (R486). -/

theorem exec_keySlotExpiry_expired {s : State} {slot : Fin 64} (live : s.live = true) (withered : (s.slot slot).state = .withered)
    (over_ : (s.slot slot).expiry ≤ s.cn) : exec (.keySlotExpiry slot) s = .next (s.emptySlot slot) :=
  congrArg Host.Outcome.next <| (State.whenLive_live live _).trans <| if_pos (by simp [withered, over_])

theorem exec_attest_role {s : State} {w : Writer} (live : s.live = true) (via : w.via ≠ .module) (role : w.role ≠ .nobody) :
    exec (.attest w) s = .next (s.attest (wordsOctets s.key.chal)) :=
  congrArg Host.Outcome.next <| (State.whenLive_live live _).trans <| if_pos (by simp [via, role])

theorem State.attest_mac {s : State} (slot : (s.slot 5).state = .live) (chal : List Byte) :
    (s.attest chal).key.att.mac = Config.hmac (s.slot 5).value (s.attInput chal) := by
  simp only [State.attest, slot, if_true]

end Sys2Proof.Machine
end

section
/-! A rotation of the grove keys (R485), and O19. -/

namespace Sys2Proof.Machine

section
variable {s : State} (none_ : (s.node.nodes.filter fun n => decide (n.state = .scheduled)) = [])
include none_

theorem State.scheduledMost_of_none : s.scheduledMost = 0 := by
  have empty (g : Nat) : s.scheduledIn g = [] := by
    rw [State.scheduledIn, List.filter_eq_nil_iff]
    intro n listed both
    rw [Bool.and_eq_true] at both
    exact List.filter_eq_nil_iff.1 none_ n listed both.2
  simp only [State.scheduledMost, empty, List.length_nil]
  decide

/-- With no SCHEDULED node, no grant is sent: the rotation waits with the root, the half and the generation to come. -/
theorem State.startRotation_quiet (effective : Cn) (role : Role) :
    (s.startRotation effective role).key.rotation
        = some { effective := effective, generation := nextGeneration s.key.issued, root := 1 - s.key.root
                 half := 1 - s.key.half }
      ∧ (s.startRotation effective role).key.generation = s.key.generation
      ∧ Keeps { evt := true, freeIdx := true, key := true, node := true, way := true } s (s.startRotation effective role) := by
  let derived : State :=
    (s.generateRoot (1 - s.key.root)).deriveGroves (1 - s.key.half) (1 - s.key.root) (nextGeneration s.key.issued)
  let waits : State := { derived with
    key := { derived.key with
      reason := .ok, tagged := false, issued := nextGeneration s.key.issued
      rotation := some { effective := effective, generation := nextGeneration s.key.issued, root := 1 - s.key.root
                         half := 1 - s.key.half } }
    node := { derived.node with nodes := derived.node.nodes.map NodeRec.ungranted } }
  let told : State :=
    (waits.recordKey role (12 + (1 - s.key.root)) .rotate .ok false).post 869 1 (12 + (1 - s.key.root) + 5 * 256)
  have root : Keeps { freeIdx := true, key := true } s (s.generateRoot (1 - s.key.root)) := rfl
  have derives : Keeps { freeIdx := true, key := true } s derived := State.deriveGroves_fr _ _ _ rfl root
  have nobody : (waits.node.nodes.filter fun n => decide (n.state = .scheduled)) = [] := by
    have nodes : waits.node.nodes = s.node.nodes.map NodeRec.ungranted :=
      congrArg (fun n : NodeSt => n.nodes.map NodeRec.ungranted) (derives.node rfl)
    rw [nodes, List.filter_map, List.map_eq_nil_iff]
    exact none_
  have rotates : s.startRotation effective role = told := by
    have grants : s.startRotation effective role
        = (((forEach (fun n t => t.regrant n effective (nextGeneration s.key.issued))
            (waits.node.nodes.filter fun n => decide (n.state = .scheduled)) waits)).recordKey role (12 + (1 - s.key.root)) .rotate .ok
            false).post 869 1 (12 + (1 - s.key.root) + 5 * 256) := rfl
    rw [grants, nobody]
    rfl
  have tells : Keeps { evt := true, way := true } waits told :=
    State.post_fr _ _ _ rfl (State.recordKey_fr _ _ _ _ _ rfl (.refl _ waits))
  have generation := congrArg KeySt.generation
    ((s.generateRoot (1 - s.key.root)).bare_deriveGroves (1 - s.key.half) (1 - s.key.root) (nextGeneration s.key.issued))
  rw [rotates, tells.key rfl]
  exact ⟨rfl, generation, ((derives.mono rfl).trans rfl).trans (tells.mono rfl)⟩

theorem exec_rotateGrove_starts {w : Writer} (live : s.live = true) (idle : s.key.run = none) (fed : s.sys.powerFail = false)
    (installer : w.role = .installer) (j7 : w.via = .monitor) (still : s.key.rotation = none) (noUpdate : s.upd.activation = none)
    {effective : Cn} (asked : effective = s.reg 0x40080068 + 4294967296 * field 7 0 (s.reg 0x4008006C))
    (early : s.cn + 512 ≤ effective) : exec (.rotateGrove w) s = .next (s.startRotation effective w.role) := by
  subst asked
  have inTime : ¬ s.reg 0x40080068 + 4294967296 * field 7 0 (s.reg 0x4008006C) < s.earliestRotation := by
    simpa [State.earliestRotation, State.scheduledMost_of_none none_] using early
  refine congrArg Host.Outcome.next ((State.whenLive_live live _).trans ?_)
  unfold State.rotateGrove
  dsimp only
  rw [if_neg (by simp [idle, fed]), if_neg (by simp [installer, j7]), if_neg (by simp [still, noUpdate]), if_neg inTime]

end

/-- Settles O19: each clause is the equation of its command; 512 cycles are R485's notice with no SCHEDULED node, to which no
grant is sent. -/
theorem keyCommandsAndAttestation : Obligations.KeyCommandsAndAttestation := by
  refine ⟨⟨?begins, ?completes⟩, ?expires, ?attests, ?rotates⟩
  case begins =>
    intro s slot w op i live _ listed
    have next := exec_keyCommand_live live listed
    refine ⟨fun free fed may allowed => ?_, fun runs => ?_⟩
    · rw [State.keyCommand_begins w slot.val op free fed may allowed] at next
      obtain ⟨run, slots, kept⟩ := State.keyBegun_spec w slot.val op s
      exact ⟨_, _, next, run, rfl, rfl, rfl, slots, kept⟩
    · rw [State.keyCommand_busy w slot.val op runs] at next
      have key := State.refuseKey_key w slot.val op s .busy
      exact ⟨_, next, by rw [key], by rw [key], by rw [key], State.refuseKey_fr _ _ _ _ rfl (.refl _ s)⟩
  case completes =>
    intro s r live runs
    have next := exec_keyCommandComplete_live live
    have key := State.completeKey_ok runs
    obtain ⟨run, holds⟩ := State.applyKey_spec (s := s.keyIdle) (r := r) rfl
    have slot : (s.completeKey .ok).slot r.slot = (s.keyIdle.applyKey r).slot r.slot := State.slot_congr (by rw [key]) _
    refine ⟨_, next, by rw [key]; exact run, by rw [key], fun makes whole within => ?_, fun erases within => ?_,
      execKeyCommandComplete_fr next rfl (.refl _ s)⟩
    · rw [slot, holds within, KeyRun.leaves_made makes whole]
    · rw [slot, holds within, KeyRun.leaves_erased erases]
  case expires =>
    intro s slot live within withered over_
    have next := exec_keySlotExpiry_expired live withered over_
    exact ⟨_, next, s.slot_emptySlot_same _, fun n other => s.slot_emptySlot_ne other,
      execKeySlotExpiry_fr slot next rfl (.refl _ s)⟩
  case attests =>
    intro s w live _ via role slot
    have next := exec_attest_role live via role
    obtain ⟨done, reason, epoch, cn⟩ := State.attest_live slot (wordsOctets s.key.chal)
    exact ⟨_, next, done, reason, State.attest_mac slot _, cn, epoch, rfl, execAttest_fr w next rfl (.refl _ s)⟩
  case rotates =>
    intro s w live _ idle fed installer j7 still noUpdate none_ early
    obtain ⟨rotation, generation, kept⟩ := State.startRotation_quiet none_ _ w.role
    exact ⟨_, exec_rotateGrove_starts none_ live idle fed installer j7 still noUpdate rfl early, rotation, generation, kept⟩

end Sys2Proof.Machine
end

section
/-! What stops an update or ends it (R512, R515 to R517): checks that fail, roll-back, fallback and confirmation. -/

namespace Sys2Proof.Machine

/-! Checks (R515). -/

/-- The checks after one has failed. -/
def UpdSt.failed (u : UpdSt) (check : Nat) : UpdSt :=
  { u with checks := masked (127 - 2 ^ check) u.checks, firstFailed := check }

@[simp] theorem State.checkFailed_upd (s : State) (a : Activation) (check : Nat) :
    (s.checkFailed a check).upd = s.upd.failed check := by
  unfold State.checkFailed
  dsimp only
  split
  · exact State.recordUpdate_upd ..
  · rfl

theorem State.checkFailed_keeps (s : State) (a : Activation) (check : Nat) :
    Keeps { evt := true, upd := true, way := true } s (s.checkFailed a check) :=
  State.checkFailed_fr a check rfl (.refl _ s)

/-! A stand is to be rewritten (R506). -/

@[simp] theorem State.rewrite_ford (s : State) (x : Stand) :
    (s.rewrite x).ford = s.ford.modStand x fun r => { r with rewriting := true, otherImage := true } :=
  s.modStand_ford x _

theorem State.rewrite_keeps (s : State) (x : Stand) : Keeps { ford := true } s (s.rewrite x) :=
  State.rewrite_fr x rfl (.refl _ s)

/-! Roll-back of a staged handover (R512). -/

/-- The stand of the new image leaves lockstep and is to be rewritten. -/
def State.unstage (s : State) (x : Stand) : State :=
  (if (s.ford.of x).state = .standby then s.setStand x .learning else s).rewrite x

theorem State.unstage_standby {s : State} {x : Stand} (standby : (s.ford.of x).state = .standby) :
    s.unstage x = (s.setStand x .learning).rewrite x :=
  congrArg (fun t : State => t.rewrite x) (if_pos standby)

theorem State.unstage_apart {s : State} {x : Stand} (apart : ¬ (s.ford.of x).state = .standby) : s.unstage x = s.rewrite x :=
  congrArg (fun t : State => t.rewrite x) (if_neg apart)

theorem State.unstage_ford (s : State) (x : Stand) :
    ((s.unstage x).ford.of x).rewriting = true ∧ (s.unstage x).ford.active = s.ford.active := by
  unfold State.unstage
  rw [State.rewrite_ford, FordSt.of_modStand_same]
  refine ⟨rfl, ?_⟩
  split
  · rw [State.setStand_ford]
    rfl
  · rfl

theorem State.unstage_keeps (s : State) (x : Stand) : Keeps { evt := true, ford := true, way := true } s (s.unstage x) :=
  State.rewrite_fr x rfl (keeps_ite _ (State.setStand_fr x .learning rfl (.refl _ s)) (.refl _ s))

/-- The reason and the check of a roll-back are shown, and the canopy's activation is gone. -/
def State.rollShown (s : State) (reason : Reason) (check : Nat) : State :=
  { s with
    upd := { s.upd with reason := reasonCode reason, check := check }
    can := { s.can with activation := none, clearing := s.can.clearing.filter fun k => k.started } }

/-- What a staged handover leaves of a state that it rolls back from (R512). -/
structure State.RolledBack (s : State) (x : Stand) (check : Nat) (t : State) : Prop where
  phase : t.upd.phase = 0x0B
  activation : t.upd.activation = none
  check : t.upd.check = check
  firmware : t.upd.firmware = s.upd.firmware
  rewriting : (t.ford.of x).rewriting = true
  active : t.ford.active = s.ford.active

theorem State.rollBack_staged {s : State} {a : Activation} (current : s.upd.activation = some a) (path : a.path = .handover)
    (staged : s.upd.phase = 5 ∨ s.upd.phase = 6) (reason : Reason) (check : Nat) :
    s.RolledBack a.newStand check (s.rollBack reason check) := by
  let back : State := (s.rollShown reason check).unstage a.newStand
  let plain : State := { back with ford := { back.ford with switch := none } }
  have rolls : s.rollBack reason check = (plain.stepPhase 0x0B).dropActivation := by
    have inStage : (decide (a.path = .handover) && (decide (s.upd.phase = 0x05) || decide (s.upd.phase = 0x06))) = true := by
      simpa [path] using staged
    unfold State.rollBack
    split
    · next none_ => cases none_.symm.trans current
    · next found =>
      cases found.symm.trans current
      dsimp only
      rw [inStage, State.iff_true]
      unfold plain back
      split
      · next standby => rw [State.unstage_standby (s := s.rollShown reason check) standby]; rfl
      · next apart => rw [State.unstage_apart (s := s.rollShown reason check) apart]; rfl
  obtain ⟨rewriting, active⟩ := (s.rollShown reason check).unstage_ford a.newStand
  have upd : plain.upd = (s.rollShown reason check).upd := ((s.rollShown reason check).unstage_keeps a.newStand).upd rfl
  obtain ⟨l, n, stepped⟩ := plain.stepPhase_upd 0x0B
  have ford : (plain.stepPhase 0x0B).dropActivation.ford = plain.ford :=
    (State.dropActivation_fr (bl := { evt := true, upd := true, way := true }) rfl (plain.stepPhase_keeps _)).ford rfl
  rw [rolls]
  refine ⟨?_, ?_, ?_, ?_, ?_, ?_⟩
  · simp
  · simp
  · rw [State.dropActivation_upd, stepped, upd]; rfl
  · rw [State.dropActivation_upd, stepped, upd]; rfl
  · rw [ford]; exact rewriting
  · rw [ford]; exact active

/-! Fallback of a reboot (R516, R517). -/

/-- A fallback is stepped to, counted in the epoch and reported, and the manifest's caravans are gone. -/
def State.fallShown (s : State) (a : Activation) (reason : Reason) (check : Nat) : State :=
  let t := (s.stepPhase 0x0C).growEpoch.reportFallback reason check
  { t with upd := { t.upd with caravans := t.upd.caravans.filter fun p => decide (p.2.manifest ≠ a.digest) } }

theorem State.fallShown_keeps (s : State) (a : Activation) (reason : Reason) (check : Nat) :
    Keeps { evt := true, fsp := true, upd := true, way := true } s (s.fallShown a reason check) :=
  keeps_mk (a := { upd := true }) rfl rfl
    (State.reportFallback_fr reason check rfl (State.growEpoch_fr rfl ((s.stepPhase_keeps 0x0C).mono rfl)))

theorem State.fallShown_upd (s : State) (a : Activation) (reason : Reason) (check : Nat) :
    ∃ l n caravans, (s.fallShown a reason check).upd = { s.upd with
      phase := 0x0C, phaseCn := s.cn, journal := l, jrnSeq := n, reason := reasonCode reason, check := check
      caravans := caravans } := by
  obtain ⟨l, n, stepped⟩ := s.stepPhase_upd 0x0C
  let grown : State := (s.stepPhase 0x0C).growEpoch
  have reported : (grown.reportFallback reason check).upd = { grown.upd with reason := reasonCode reason, check := check } :=
    (State.postRecord_fr (bl := { evt := true, way := true }) _ _ _ _ _ rfl (.refl _ _)).upd rfl
  have upd : grown.upd = (s.stepPhase 0x0C).upd := rfl
  refine ⟨l, n, (grown.reportFallback reason check).upd.caravans.filter fun p => decide (p.2.manifest ≠ a.digest), ?_⟩
  have shown : (s.fallShown a reason check).upd = { (grown.reportFallback reason check).upd with
    caravans := (grown.reportFallback reason check).upd.caravans.filter fun p => decide (p.2.manifest ≠ a.digest) } := rfl
  rw [shown, reported, upd, stepped]

section
variable {s : State} {a : Activation} (current : s.upd.activation = some a) (path : a.path = .reboot) (reason : Reason)
  (check : Nat)
include current path

theorem State.fallBack_reboot : s.fallBack reason check
    = if s.ford.safeHold = true ∧ s.build = .t then (s.fallShown a reason check).restoreBackup.endFallback
      else (s.fallShown a reason check).modActivation fun a => { a with back := true, cn := s.cn + 1 } := by
  have kept := s.fallShown_keeps a reason check
  rw [← kept.build, ← kept.cn rfl, ← kept.ford rfl]
  simp only [State.fallBack, current, path]
  rfl

/-- Where a stand serves, the fallback's reboot is due with the next cycle. -/
theorem State.fallBack_rebooting (serves : s.build = .s ∨ s.ford.safeHold = false) :
    (s.fallBack reason check).upd.phase = 0x0C
      ∧ (s.fallBack reason check).upd.activation = some { a with back := true, cn := s.cn + 1 }
      ∧ (s.fallBack reason check).upd.firstFailed = s.upd.firstFailed
      ∧ (s.fallBack reason check).upd.reason = reasonCode reason ∧ (s.fallBack reason check).upd.check = check
      ∧ Keeps { evt := true, fsp := true, upd := true, way := true } s (s.fallBack reason check) := by
  have elsewhere : ¬ (s.ford.safeHold = true ∧ s.build = .t) := by
    rintro ⟨held, twin⟩
    rcases serves with single | free
    · rw [twin] at single; cases single
    · rw [held] at free; cases free
  obtain ⟨l, n, caravans, upd⟩ := s.fallShown_upd a reason check
  rw [State.fallBack_reboot current path, if_neg elsewhere]
  have back : ((s.fallShown a reason check).modActivation fun a => { a with back := true, cn := s.cn + 1 }).upd
      = { (s.fallShown a reason check).upd with
          activation := (s.fallShown a reason check).upd.activation.map fun a => { a with back := true, cn := s.cn + 1 } } := rfl
  rw [back, upd]
  exact ⟨rfl, congrArg (Option.map _) current, rfl, rfl, rfl,
    State.modActivation_fr (s := s.fallShown a reason check) _ rfl (s.fallShown_keeps a reason check)⟩

/-- In SAFE HOLD of a T build, the backup store returns at once. -/
theorem State.fallBack_held (held : s.ford.safeHold = true) (twin : s.build = .t) :
    (s.fallBack reason check).upd.phase = 0x0D ∧ (s.fallBack reason check).upd.activation = none
      ∧ (s.fallBack reason check).upd.firstFailed = s.upd.firstFailed
      ∧ (s.fallBack reason check).upd.reason = reasonCode reason ∧ (s.fallBack reason check).upd.check = check
      ∧ (s.fallBack reason check).ford = s.ford := by
  let shown : State := s.fallShown a reason check
  obtain ⟨l, n, caravans, upd⟩ := s.fallShown_upd a reason check
  have restored : ∃ firmware area format, shown.restoreBackup.upd
      = { shown.upd with firmware := firmware, area := area, format := format } := by
    unfold State.restoreBackup
    split
    · exact ⟨_, _, _, rfl⟩
    · dsimp only
      split <;> exact ⟨_, _, _, rfl⟩
  obtain ⟨firmware, area, format, restored⟩ := restored
  obtain ⟨l', n', stepped⟩ := shown.restoreBackup.stepPhase_upd 0x0D
  have ended : shown.restoreBackup.endFallback.upd = { (shown.restoreBackup.stepPhase 0x0D).upd with
    session := none, activation := none, caughtUp := false } := State.endUpdate_upd _
  have ford : shown.restoreBackup.endFallback.ford = s.ford :=
    (State.endFallback_fr (bl := { can := true, evt := true, fsp := true, key := true, upd := true, way := true }) rfl
      (State.restoreBackup_fr rfl ((s.fallShown_keeps a reason check).mono rfl))).ford rfl
  rw [State.fallBack_reboot current path, if_pos ⟨held, twin⟩, ended, stepped, restored, upd]
  exact ⟨rfl, rfl, rfl, rfl, rfl, ford⟩

end

/-! Confirmation (R515, R516). -/

/-- The manifest's sequence is installed, and what runs is the backup of the next. -/
def State.installed (s : State) (a : Activation) : State :=
  let t := s.stepPhase 0x09
  let t := { t with upd := { t.upd with runSeq := a.seq, handoverArea := false } }
  ({ t with upd := { t.upd with backup := some t.asBackup } }).post 882 1 1

theorem State.installed_keeps (s : State) (a : Activation) :
    Keeps { evt := true, upd := true, way := true } s (s.installed a) :=
  State.post_fr _ _ _ rfl (keeps_mk (a := { upd := true }) rfl rfl (s.stepPhase_keeps 0x09))

theorem State.installed_upd (s : State) (a : Activation) :
    (s.installed a).upd.phase = 9 ∧ (s.installed a).upd.runSeq = a.seq ∧ (s.installed a).upd.activation = s.upd.activation :=
  ⟨s.stepPhase_phase 0x09, rfl, s.stepPhase_activation 0x09⟩

section
variable {s : State} {a : Activation} (current : s.upd.activation = some a) (noCaravan : a.caravans = [])
include current noCaravan

theorem State.confirmed_handover (path : a.path = .handover) : s.confirmed = (s.installed a).rewrite a.newStand.other := by
  simp only [State.confirmed, current, noCaravan, path]
  rfl

theorem State.confirmed_complete (path : a.path ≠ .handover) : s.confirmed = (s.installed a).completeUpdate := by
  simp only [State.confirmed, current, noCaravan, path]
  rfl

end

end Sys2Proof.Machine
end

section
/-! The commands of a handover, a reboot and the confirmation, and O50. -/

namespace Sys2Proof.Machine

/-! The handover (R512). -/

section
variable {s : State} {a : Activation} {measured : BitVec 256} {good : Bool} (live : s.live = true)
  (current : s.upd.activation = some a)
include live current

theorem exec_staged_finds (path : a.path = .handover) (phase : s.upd.phase = 5) (found : s.newImageFails a measured good = none) :
    exec (.staged measured good) s = .next (s.stepPhase 0x06) :=
  congrArg Host.Outcome.next <| (State.whenLive_live live _).trans <| by simp [current, path, phase, found]

theorem exec_staged_fails {k : Nat} (path : a.path = .handover) (phase : s.upd.phase = 5)
    (fails : s.newImageFails a measured good = some k) :
    exec (.staged measured good) s
      = .next ((s.checkFailed a k).openReason.2.rollBack (s.checkFailed a k).openReason.1 k) :=
  congrArg Host.Outcome.next <| (State.whenLive_live live _).trans <| by simp [current, path, phase, fails]

/-- The stand of the new image has caught up: SHADOW counts from this cycle. -/
def State.caughtUp (s : State) (a : Activation) : State :=
  { s with upd := { s.upd with caughtUp := true, activation := some { a with since := s.cn } } }

theorem exec_shadowCaughtUp_runs (path : a.path = .handover) (phase : s.upd.phase = 6) (behind : s.upd.caughtUp = false) :
    exec .shadowCaughtUp s = .next ((s.caughtUp a).setStand a.newStand .standby) :=
  congrArg Host.Outcome.next <| (State.whenLive_live live _).trans <| by
    simp [current, path, phase, behind, State.caughtUp, State.modActivation]

theorem exec_shadowEnd_running (phase : s.upd.phase = 6) (caught : s.upd.caughtUp = true) (free : s.ford.switch = none) :
    exec .shadowEnd s = .next (s.iff (decide (a.since + field 15 0 (s.reg 0x400B0018) ≤ s.cn)) fun s =>
      s.requestSwitch a.newStand (s.cycAfter 2) true .nobody) :=
  congrArg Host.Outcome.next <| (State.whenLive_live live _).trans <| by simp [current, phase, caught, free]

end

theorem exec_catchupTimeout_behind {s : State} (live : s.live = true) (phase : s.upd.phase = 6) (behind : s.upd.caughtUp = false) :
    exec .catchupTimeout s = .next (s.iff (decide (s.upd.phaseCn + s.secondsInCycles 10 ≤ s.cn)) fun s =>
      s.openReason.2.openCheck.2.rollBack s.openReason.1 s.openReason.2.openCheck.1) :=
  congrArg Host.Outcome.next <| (State.whenLive_live live _).trans <| by simp [phase, behind]

/-! The reboot (R517) and the confirmation (R515, R516). -/

/-- Ford releases the outputs. -/
def State.released (s : State) : State :=
  { s with ford := { s.ford with holding := false } }

section
variable {s : State} {a : Activation} (live : s.live = true) (current : s.upd.activation = some a)
include live current

section
variable {measured : BitVec 256} {good : Bool} (path : a.path = .reboot) (phase : s.upd.phase = 7) (loaded : s.can.loaded = true)
include path phase loaded

theorem exec_rebootDone_finds (found : s.newImageFails a measured good = none) :
    exec (.rebootDone measured good) s = .next (s.released.stepPhase 0x08) := by
  have found' : s.released.newImageFails a measured good = none := found
  refine congrArg Host.Outcome.next ((State.whenLive_live live _).trans ?_)
  unfold State.released at *
  simp only [current, path, phase, loaded, found', decide_true, Bool.and_self, State.iff_true]

theorem exec_rebootDone_fails {k : Nat} (fails : s.newImageFails a measured good = some k) :
    exec (.rebootDone measured good) s
      = .next ((s.released.checkFailed a k).openReason.2.fallBack (s.released.checkFailed a k).openReason.1 k) := by
  have fails' : s.released.newImageFails a measured good = some k := fails
  refine congrArg Host.Outcome.next ((State.whenLive_live live _).trans ?_)
  unfold State.released at *
  simp only [current, path, phase, loaded, fails', decide_true, Bool.and_self, State.iff_true]

end

theorem exec_confirmWindowEnd_holding (phase : s.upd.phase = 8) (checks : s.upd.checks = 0x7F) (goes : a.suspended = false) :
    exec .confirmWindowEnd s = .next (s.iff (decide (a.since + s.secondsInCycles a.window ≤ s.cn)) State.confirmed) :=
  congrArg Host.Outcome.next <| (State.whenLive_live live _).trans <| by simp [current, phase, checks, goes]

theorem exec_confirmCheckFail_reboot (path : a.path = .reboot) (phase : s.upd.phase = 8) (committed : a.committed = true)
    (forward : a.back = false) (check : Fin 7) (reason : Reason) :
    exec (.confirmCheckFail check reason) s = .next ((s.checkFailed a check.val).fallBack reason check.val) :=
  congrArg Host.Outcome.next <| (State.whenLive_live live _).trans <| by simp [current, path, phase, committed, forward]

end

/-! A stand that is rewritten (R506). -/

/-- The image of a stand is written. -/
def State.rewritten (s : State) (x : Stand) : State :=
  s.modStand x fun r => { r with rewriting := false, otherImage := false }

theorem State.rewritten_of (s : State) (x : Stand) :
    (s.rewritten x).ford.of x = { s.ford.of x with rewriting := false, otherImage := false } := by
  rw [State.rewritten, State.modStand_ford, FordSt.of_modStand_same]

section
variable {s : State} {x : Stand} (live : s.live = true) (rewriting : (s.ford.of x).rewriting = true)
include live rewriting

theorem exec_standRewritten_quarantined (apart : (s.ford.of x).state = .quarantined) :
    exec (.standRewritten x) s = .next (s.rewritten x) := by
  have state : ((s.rewritten x).ford.of x).state = .quarantined := (congrArg StandSt.state (s.rewritten_of x)).trans apart
  refine congrArg Host.Outcome.next ((State.whenLive_live live _).trans ?_)
  unfold State.rewritten at *
  simp only [rewriting, State.iff_true, state]

theorem exec_standRewritten_learns (serves : (s.ford.of x).state = .standby ∨ (s.ford.of x).state = .learning) :
    exec (.standRewritten x) s = .next ((s.rewritten x).beginLearning x) := by
  have state := congrArg StandSt.state (s.rewritten_of x)
  refine congrArg Host.Outcome.next ((State.whenLive_live live _).trans ?_)
  unfold State.rewritten at *
  rcases serves with standby | learning
  · simp only [rewriting, State.iff_true, state, standby]
  · simp only [rewriting, State.iff_true, state, learning]

end

/-- Settles O50: each clause is the equation of its command with the roll-back, the fallback or the confirmation it comes to. The
model's own choices: a check that fails before COMMITTED rolls back, and that keeps the session (log 88); the sequence is
installed at CONFIRMED, which completes a reboot's update (log 89). A handover's own fallback (log 100) has no clause here. -/
theorem updatesCommitOrFallBack : Obligations.UpdatesCommitOrFallBack := by
  refine ⟨fun s a measured good live current => ⟨?staged, ?shadow, ?shadowEnd, ?reboot, ?window, ?fails⟩, ?rewritten⟩
  case staged =>
    intro path phase
    refine ⟨fun found => ?_, fun k fails => ?_⟩
    · have kept := s.stepPhase_keeps 0x06
      exact ⟨_, exec_staged_finds live current path phase found, s.stepPhase_phase _, (s.stepPhase_activation _).trans current,
        kept.ford rfl, kept⟩
    · have next := exec_staged_fails live current path phase fails
      let failed : State := (s.checkFailed a k).openReason.2
      have upd : failed.upd = s.upd.failed k := s.checkFailed_upd a k
      have firmware : failed.upd.firmware = s.upd.firmware := by
        rw [upd]
        rfl
      have ford : failed.ford = s.ford := (s.checkFailed_keeps a k).ford rfl
      have rolled := State.rollBack_staged (s := failed) ((congrArg UpdSt.activation upd).trans current) path
        (.inl ((congrArg UpdSt.phase upd).trans phase)) (s.checkFailed a k).openReason.1 k
      exact ⟨_, next, rolled.phase, rolled.activation, rolled.check, rolled.firmware.trans firmware,
        rolled.rewriting, rolled.active.trans (congrArg FordSt.active ford), execStaged_fr _ _ next rfl (.refl _ s)⟩
  case shadow =>
    intro path phase behind
    refine ⟨?_, fun late => ?_, fun early => ?_⟩
    · have next := exec_shadowCaughtUp_runs live current path phase behind
      have stands : Keeps { evt := true, ford := true, way := true } (s.caughtUp a) ((s.caughtUp a).setStand a.newStand .standby) :=
        State.setStand_fr _ _ rfl (.refl _ _)
      refine ⟨_, next, stands.upd rfl, ?_, execShadowCaughtUp_fr next rfl (.refl _ s)⟩
      rw [State.setStand_ford, FordSt.of_modStand_same]
    · have next := exec_catchupTimeout_behind live phase behind
      have kept := execCatchupTimeout_fr (bl := { can := true, evt := true, ford := true, freeIdx := true, upd := true, way := true })
        next rfl (.refl _ s)
      rw [decide_eq_true late, State.iff_true] at next kept
      have rolled := State.rollBack_staged (s := s.openReason.2.openCheck.2) current path (.inr phase) s.openReason.1
        s.openReason.2.openCheck.1
      exact ⟨_, next, rolled.activation, rolled.phase, rolled.rewriting, rolled.active, kept⟩
    · rw [exec_catchupTimeout_behind live phase behind, decide_eq_false (Nat.not_le.2 early), State.iff_false]
  case shadowEnd =>
    intro phase caught free
    have next := exec_shadowEnd_running live current phase caught free
    refine ⟨fun due => ?_, fun early => ?_⟩
    · rw [next, decide_eq_true due, State.iff_true]
      rfl
    · rw [next, decide_eq_false (Nat.not_le.2 early), State.iff_false]
  case reboot =>
    intro path phase loaded
    have before : Keeps { ford := true } s s.released := rfl
    refine ⟨fun found => ?_, fun k fails serves => ?_⟩
    · have kept := s.released.stepPhase_keeps 0x08
      exact ⟨_, exec_rebootDone_finds live current path phase loaded found, State.stepPhase_phase ..,
        (State.stepPhase_activation ..).trans current, kept.ford rfl, (before.mono rfl).trans (kept.mono rfl)⟩
    · let failed : State := (s.released.checkFailed a k).openReason.2
      have upd : failed.upd = s.upd.failed k := s.released.checkFailed_upd a k
      have checked := s.released.checkFailed_keeps a k
      have serves' : failed.build = .s ∨ failed.ford.safeHold = false := by
        rw [show failed.build = s.build from checked.build, show failed.ford = s.released.ford from checked.ford rfl]
        exact serves
      have cn : failed.cn = s.cn := checked.cn rfl
      obtain ⟨fallen, activation, -, -, check, kept⟩ := State.fallBack_rebooting (s := failed)
        ((congrArg UpdSt.activation upd).trans current) path (s.released.checkFailed a k).openReason.1 k serves'
      have all : Keeps { evt := true, ford := true, freeIdx := true, upd := true, way := true } s failed :=
        State.openReason_fr rfl ((before.mono rfl).trans (checked.mono rfl))
      rw [cn] at activation
      exact ⟨_, exec_rebootDone_fails live current path phase loaded fails, fallen, activation, check,
        (kept.ford rfl).trans (checked.ford rfl), (all.mono rfl).trans (kept.mono rfl)⟩
  case window =>
    intro phase checks goes noCaravan
    have next := exec_confirmWindowEnd_holding live current phase checks goes
    obtain ⟨confirmed, seq, activation⟩ := s.installed_upd a
    have kept := s.installed_keeps a
    refine ⟨fun over_ path => ?_, fun over_ path => ?_, fun early => ?_⟩
    · rw [decide_eq_true over_, State.iff_true, State.confirmed_complete current noCaravan path] at next
      obtain ⟨complete, runSeq, session, done⟩ := (s.installed a).completeUpdate_upd
      exact ⟨_, next, complete, runSeq.trans seq, session, done, State.completeUpdate_fr rfl kept⟩
    · rw [decide_eq_true over_, State.iff_true, State.confirmed_handover current noCaravan path] at next
      have rewrites := (s.installed a).rewrite_keeps a.newStand.other
      have ford := (s.installed a).rewrite_ford a.newStand.other
      rw [kept.ford rfl] at ford
      refine ⟨_, next, ?_, ?_, ?_, ?_, ?_, (kept.mono rfl).trans (rewrites.mono rfl)⟩
      · rw [rewrites.upd rfl, confirmed]
      · rw [rewrites.upd rfl, seq]
      · rw [rewrites.upd rfl, activation, current]
      · rw [ford, FordSt.of_modStand_same]
      · rw [ford]
        rfl
    · rw [next, decide_eq_false (Nat.not_le.2 early), State.iff_false]
  case fails =>
    intro check reason path phase committed forward
    have next := exec_confirmCheckFail_reboot live current path phase committed forward check reason
    let failed : State := s.checkFailed a check.val
    have upd : failed.upd = s.upd.failed check.val := s.checkFailed_upd a check.val
    have checked := s.checkFailed_keeps a check.val
    have current' : failed.upd.activation = some a := (congrArg UpdSt.activation upd).trans current
    have first : failed.upd.firstFailed = check.val := congrArg UpdSt.firstFailed upd
    refine ⟨fun twin held => ?_, fun serves => ?_⟩
    · obtain ⟨ended, activation, failedFirst, why, shown, ford⟩ := State.fallBack_held (s := failed) current' path reason
        check.val ((congrArg FordSt.safeHold (checked.ford rfl)).trans held) (checked.build.trans twin)
      exact ⟨_, next, ended, activation, failedFirst.trans first, why, shown, ford.trans (checked.ford rfl)⟩
    · have serves' : failed.build = .s ∨ failed.ford.safeHold = false := by
        rw [show failed.build = s.build from checked.build, show failed.ford = s.ford from checked.ford rfl]
        exact serves
      obtain ⟨fallen, activation, failedFirst, why, shown, kept⟩ := State.fallBack_rebooting (s := failed) current' path
        reason check.val serves'
      rw [show failed.cn = s.cn from checked.cn rfl] at activation
      exact ⟨_, next, fallen, activation, failedFirst.trans first, why, shown, (kept.can rfl).trans (checked.can rfl),
        (checked.mono rfl).trans (kept.mono rfl)⟩
  case rewritten =>
    intro s x live rewriting
    refine ⟨exec_standRewritten_quarantined live rewriting, fun serves => ?_⟩
    have next := exec_standRewritten_learns live rewriting serves
    have own : ((s.rewritten x).ford.of x).otherImage = false := congrArg StandSt.otherImage (s.rewritten_of x)
    have ford := State.beginLearning_ford own
    have other : (s.rewritten x).ford.of x.other = s.ford.of x.other := by
      rw [State.rewritten, State.modStand_ford, FordSt.of_modStand_other]
    refine ⟨_, next, ?_, ?_, ?_, ?_, ?_, execStandRewritten_fr x next rfl (.refl _ s)⟩
    · rw [ford, FordSt.of_learns_same]
    · rw [ford, FordSt.of_learns_same, s.rewritten_of]
    · rw [ford, FordSt.of_learns_same, s.rewritten_of]
    · rw [ford]
      rfl
    · rw [ford, ← other]
      cases x <;> rfl

end Sys2Proof.Machine
end
